-- ==== Sys2Proof/Word.lean ====
section
/-! DEFINITION. The word types of the IH8420 model and the sparse table every array of state is kept in. -/

namespace Sys2Proof

/-- One byte. -/
abbrev Byte := BitVec 8
/-- One 32-bit register (R4). -/
abbrev Word := BitVec 32
/-- R199: a frame: bits 0 to 2,047 are configuration, bits 2,048 to 2,071 the in-frame check. -/
abbrev Frame := BitVec 2072
/-- A sparse array: pairs of an index and a value, the indices strictly rising, no pair equal to what an
unlisted index reads as (notes/assumptions/1.md). -/
abbrev Tab (α : Type) := List (Nat × α)

end Sys2Proof
end

