-- ==== Sys2Proof/Syntax.lean ====
section
/-! DEFINITION. The commands the block takes: the rows of spec/opcode_table.json, with their operands. -/

namespace Sys2Proof

/-- Who issues an access: its initiator ID (R294, R445), the vat whose rights it has, whether it is the Starter on its
own account, and whether it reads through inspection aliases only, as the Yapin monitor does (R6, R502). -/
structure Req where
  id : Nat
  vat : Nat
  starter : Bool := false
  insp : Bool := false
deriving DecidableEq, Repr

/-- R477, R478: what arrives on a management port with an IMM message besides its code and its body: the port, the
frame's addresses and tags, the header's fields, the MAC and the CRC-32C. -/
structure ImmEnv where
  port : Fin 4
  src : BitVec 48
  dst : BitVec 48
  etype : BitVec 16
  tagged : Bool
  ver : Byte
  typ : Byte
  auth : Bool
  flagsRsv : BitVec 7
  epoch : Byte
  seq : BitVec 16
  ackno : BitVec 16
  sid : BitVec 16
  rsv : BitVec 16
  mac : List Byte
  crc : BitVec 32
deriving DecidableEq, Repr


/-- R308: a request as its initiator presents it: system address, write, bytes − 1, QoS class, tag, write data by line
offset and its poison, and whether the Starter sends it for IMM or the Yapin monitor (VC3, R296). -/
structure NocRq where
  addr : BitVec 64
  wr : Bool
  len : Fin 64
  qos : Fin 4
  tag : Fin 1024
  data : BitVec 512
  poison : Bool
  mgmt : Bool := false
deriving DecidableEq, Repr

/-- R302: an output of a router: a mesh port, an attachment, or the span gateway. -/
inductive NocOut where
  | north | south | east | west
  | att (a : Fin 4)
  | gateway
deriving DecidableEq, Repr

/-- R308: the answer of user logic at a fabric NoC port's target side. -/
structure UserAns where
  status : Fin 5
  data : BitVec 512
  poison : Bool
deriving DecidableEq, Repr

/-- R338, R339, R343: how the 40 symbols that a read of a DRAM line finds differ from those that were written: symbols and the bits
of them that have changed. -/
abbrev Sense := List (Fin 40 × BitVec 16)

/-- R56, R107: edges of clock lines at one instant: bits 0 to 7 are FAB0 to FAB7, bits 8 + 8q + n line n of the foreign lines
of quadrant q; rising and falling. `ext` lists the outputs of hard blocks outside the fabric's state (block, signal) that are 1,
`near` the clusters (8 × tile + cluster) whose asynchronous SR fell too near the edge (R57). -/
structure FabEdge where
  rise : BitVec 40
  fall : BitVec 40
  ext : List (Nat × Nat) := []
  near : List Nat := []
deriving DecidableEq, Repr

/-- R104: what the inputs of a hard-column port see: what the command's operands say the switch boxes drive, or what the
nets of the fabric carry, where the outputs listed of blocks outside the fabric's state are 1. -/
inductive PortSrc where
  | given
  | routed (ext : List (Nat × Nat))
deriving DecidableEq, Repr

/-- R164: a fabric memory. -/
inductive MemId where
  | bm (b : Fin 13440)
  | dm (p : Fin 112)
deriving DecidableEq, Repr

/-- R167, R173, R178: when a port of a memory sees a request: where both ports use one line, so many array cycles after the
last request of the memory (0: in the same one); otherwise so many edges of its own clock after its own last request; and
whether the access lies within T_BMCOLL of the last one of a port on another line. -/
structure ArrT where
  cycles : Nat
  near : Bool := false
deriving DecidableEq, Repr

/-- In the array cycle of the last request. -/
def ArrT.same : ArrT := ⟨0, false⟩
/-- In the next array cycle. -/
def ArrT.fresh : ArrT := ⟨1, false⟩
/-- After at least one array cycle without a request. -/
def ArrT.later : ArrT := ⟨2, false⟩
/-- At the next edge, near an access of the port on another line. -/
def ArrT.near_ : ArrT := ⟨1, true⟩

/-- R239: what reading a record from the Cellar and writing its frame to a plane meets: reads that fail the CRC before a
good one, the Cellar interface not delivering, and of each frame written in turn how many of its plane writes fail their
read-back (4: the retries too). -/
structure RecEnv where
  retries : Fin 4 := 0
  lost : Bool := false
  wfails : List (Fin 5) := []
deriving DecidableEq, Repr

/-- What the instructions a processor has executed leave: its pc, privilege mode and V bit, load reservation, the
registers and CSRs they changed, the words of its local RAM (with poison), and the lines of its L1 caches and of L2 (data,
poison, dirty; none: no longer held). -/
structure CpuRun where
  pc : BitVec 64
  priv : Fin 4 := 3
  virt : Bool := false
  resv : Option (BitVec 64) := none
  x : List (Fin 32 × BitVec 64) := []
  f : List (Fin 32 × BitVec 64) := []
  csr : List (Fin 4096 × BitVec 64) := []
  ram : List (Fin 32768 × BitVec 64 × Bool) := []
  l1 : List (BitVec 58 × Option (BitVec 512 × BitVec 8)) := []
  l2 : List (BitVec 58 × Option (BitVec 512 × BitVec 8 × Bool)) := []
deriving DecidableEq, Repr

/-- R449: the load or instruction fetch of a processor that waits for a response: which of the two, its address, and what the
processor had executed before it. -/
structure CpuLoad where
  fetch : Bool
  addr : BitVec 64
  run : CpuRun
deriving DecidableEq, Repr

/-- The commands of the block: one constructor for each row of spec/opcode_table.json. -/
inductive Instr where
  /-- POWER_ON_RESET_RELEASE R533: The power-on reset is released 100 µs after the last supply enters tolerance, and the device enters BOOT with the Starter running from ROM. -/
  | powerOnResetRelease
  /-- SUPPLY_LEAVES_TOLERANCE R533: A supply leaves its tolerance; the device holds power-on reset, and the always-on island is reset only if VCC_KEEP was lost. Operands: supply as RST_CAUSE.SUPPLY numbers it -/
  | supplyLeavesTolerance (k : Fin 7)
  /-- DEFERRED_WHOLE_DEVICE_START R30: A whole-device activation or rollback deferred under LOAD_PEND starts once the last swap or module load has ended, and any late start is recorded. Operands: nanoseconds from the compare instant of an armed activation -/
  | deferredWholeDeviceStart (d : Nat)
  /-- DEFERRED_TEST_START R31: A self-test deferred for a swapping vat starts when that vat is released. Operands: controller -/
  | deferredTestStart (k : Fin 4)
  /-- DEFERRED_SWAP_START R31: A vat swap deferred for a block under test starts when the test ends. Operands: vat, nanoseconds from the compare instant of an armed activation -/
  | deferredSwapStart (v : Fin 16) (d : Nat)
  /-- REF_QUALIFIED R78: A root reference sets REF_OK or REFB_OK after 100 µs within ±1 % without a gap. Operands: REFB rather than REF -/
  | refQualified (refb : Bool)
  /-- REF_LOSS R78: A root reference shows a gap or a frequency error; its ready flag clears and REFLOSS_CNT increments. Operands: REFB rather than REF -/
  | refLoss (refb : Bool)
  /-- COAST_SLEW_DONE R97: The root finishes falling to 6.0 GHz and SLEWING clears. -/
  | coastSlewDone
  /-- ROOT_COAST_TIMER R97: 50 µs into coast the Starter raises ROOT_COAST to every open session and writes it to the log. -/
  | rootCoastTimer
  /-- REF_WAIT_TIMEOUT R79: REF_OK is not set within 5 ms of ROM selection, so the ROM selects REFB. -/
  | refWaitTimeout
  /-- ROOT_LOOP_LOCK R79: The root loop locks to a ready source within 500 µs and sets LOCK; the ROM moves STARTER and PERI to the root. -/
  | rootLoopLock
  /-- ROOT_SOURCE_SWITCH R80: A write of SRC starts a hitless switch to the other reference, refused unless the target is ready. Operands: requester, the word written to ROOT_CTRL -/
  | rootSourceSwitch (q : Req) (w : Word)
  /-- ROOT_SWITCH_DONE R80: The hitless source switch completes and SLEWING clears. -/
  | rootSwitchDone
  /-- RELOCK R99: A write of RELOCK leaves coast and starts locking to the selected ready source. Operands: requester, the word written to ROOT_CTRL (its RELOCK is taken as 1) -/
  | relock (q : Req) (w : Word)
  /-- AUTO_RELOCK_TIMER R99: With AUTO_RELOCK set, the selected source's flag held 1 ms starts a relock without software. -/
  | autoRelockTimer
  /-- RELOCK_COMPLETE R99: LOCK sets, COAST clears, the tick returns to the root, DRAM leaves self-refresh and ROOT_RELOCK is raised. -/
  | relockComplete
  /-- DIVIDER_WRITE R83: A DIV write requests a new divider for an aligned domain, refused if not allowed for the domain or grade. Operands: requester, domain, the word written to CLK.DIV -/
  | dividerWrite (q : Req) (d : Fin 16) (w : Word)
  /-- DIVIDER_TAKES_EFFECT R83: At the next epoch boundary the last requested divider takes effect, and DDRC follows a DDRIO change. -/
  | dividerTakesEffect
  /-- FOREIGN_LINE_SOURCE_WRITE R92: A write of CLK.FCL SRC starts a glitch-free switch of a foreign clock line. Operands: requester, quadrant, line, the word written to CLK.FCL -/
  | foreignLineSourceWrite (q : Req) (k : Fin 4) (l : Fin 8) (w : Word)
  /-- FOREIGN_LINE_SWITCH_DONE R92: The foreign line follows the new source after its next falling edge and SWITCHING clears. Operands: quadrant, line -/
  | foreignLineSwitchDone (q : Fin 4) (l : Fin 8)
  /-- FOREIGN_SOURCE_LOSS R92: A selected foreign source loses its ready flag; READY drops and FCL_LOSS goes to owners of vats using the line. Operands: quadrant, line, the vats whose images use the line -/
  | foreignSourceLoss (q : Fin 4) (l : Fin 8) (vats : BitVec 16)
  /-- OSC_CONFIG_WRITE R93: A write of CLK.OSC EN or FREQ starts or retunes a fabric-usable oscillator. Operands: requester, oscillator, the word written to CLK.OSC -/
  | oscConfigWrite (q : Req) (n : Fin 4) (w : Word)
  /-- OSC_SETTLED R93: The oscillator settles and READY sets, at most 20 µs after the write. Operands: oscillator -/
  | oscSettled (n : Fin 4)
  /-- BLOCK_CLOCK_IDLE_CLOSE R95: A hard-block clock stops after n idle cycles of its domain. Operands: gating group -/
  | blockClockIdleClose (g : Fin 11)
  /-- SECTOR_GATE_OPEN R96: The sector clock gate opens at the first epoch boundary after the sector's power is good. Operands: sector -/
  | sectorGateOpen (sec : Fin 224)
  /-- SLICE_NOP R152: NOP does nothing but step the generators named in SM. Operands: slice -/
  | sliceNop (g : Fin 10752)
  /-- SLICE_TAP R144: TAP multiplies OPM[AG0] by COEF[AG1] into the accumulator, moves the sample to next(AG0) and steps AG0 and AG1. Operands: slice, stored bits of the OPM word (parity at 36) and of the COEF entry (parity at 27) that an upset has flipped -/
  | sliceTap (g : Fin 10752) (ua : BitVec 37) (uc : BitVec 28)
  /-- SLICE_MAC R153: MAC adds or subtracts the product sum of operands A and B in the chosen format, with cascade options. Operands: slice, upsets of operand A's word, operand B's word, the COEF entry -/
  | sliceMac (g : Fin 10752) (ua : BitVec 37) (ub : BitVec 37) (uc : BitVec 28)
  /-- SLICE_IN R149: IN consumes one X word into OPM, stalling while the input buffer is empty. Operands: slice -/
  | sliceIn (g : Fin 10752)
  /-- SLICE_OUT R134: OUT converts the accumulator and sends it on Y and optionally to OPM, stalling while the output buffer is full. Operands: slice -/
  | sliceOut (g : Fin 10752)
  /-- SLICE_LDA R154: LDA loads an extended, shifted operand into the accumulator. Operands: slice, upsets of the operand's word -/
  | sliceLda (g : Fin 10752) (ua : BitVec 37)
  /-- SLICE_LDC R142: LDC writes an operand into COEF at the end of its cycle. Operands: slice, upsets of the source word -/
  | sliceLdc (g : Fin 10752) (ua : BitVec 37)
  /-- SLICE_CAS R157: CAS adds CIN to the accumulator and or copies it to COUT. Operands: slice -/
  | sliceCas (g : Fin 10752)
  /-- SLICE_LOOP R148: LOOP opens a loop over a body with a count. Operands: slice -/
  | sliceLoop (g : Fin 10752)
  /-- SLICE_JMP R150: JMP sends PC to TGT when its condition holds, closing every active loop. Operands: slice, condition inputs, where they come from -/
  | sliceJmp (g : Fin 10752) (ci : BitVec 4) (src : PortSrc)
  /-- SLICE_SETAG R145: SETAG writes one field of one address generator at the end of its cycle. Operands: slice -/
  | sliceSetag (g : Fin 10752)
  /-- SLICE_WAIT R149: WAIT stalls until its condition is true. Operands: slice, condition inputs, where they come from -/
  | sliceWait (g : Fin 10752) (ci : BitVec 4) (src : PortSrc)
  /-- SLICE_HALT R146: HALT enters DONE and drives DONE = 1. Operands: slice -/
  | sliceHalt (g : Fin 10752)
  /-- SLICE_SIG R154: SIG drives FO for one cycle or as a held level. Operands: slice -/
  | sliceSig (g : Fin 10752)
  /-- ILLEGAL_INSTRUCTION R151: An illegal instruction is not executed; the slice enters ERROR, sets FLAGS.ILLEGAL and drives ERR. Operands: slice -/
  | illegalInstruction (g : Fin 10752)
  /-- SLICE_START R146: START at an edge in IDLE or DONE sends the slice to RUN at IS[0], clearing loops. Operands: slice, where START comes from -/
  | sliceStart (g : Fin 10752) (src : PortSrc)
  /-- TRIG_INPUT R150: TRIG = 1 at an edge sets the TRIG latch. Operands: slice, where TRIG comes from -/
  | trigInput (g : Fin 10752) (src : PortSrc)
  /-- X_CAPTURE R155: The slice captures an X word into its two-word input buffer when X_VALID and X_READY are both 1. Operands: slice, word, X_POISON, where the port's inputs come from -/
  | xCapture (g : Fin 10752) (x : BitVec 36) (p : Bool) (src : PortSrc)
  /-- Y_DELIVER R156: A Y word leaves the output buffer at an edge with Y_VALID and Y_READY. Operands: slice, where Y_READY comes from -/
  | yDeliver (g : Fin 10752) (src : PortSrc)
  /-- PORT_P_ACCESS R137: A port P request takes the first free OPM slot, raises P_GNT, and returns read data two cycles later. Operands: slice, P_ADDR, P_WE, P_WD, upsets of the word, where the port's inputs come from -/
  | portPAccess (g : Fin 10752) (a : BitVec 10) (we : Bool) (d : BitVec 36) (u : BitVec 37) (src : PortSrc)
  /-- PORT_P_STEAL R139: A port P request that has waited P_STEAL cycles stalls the sequencer for one cycle and takes slot 0. Operands: slice, P_ADDR, P_WE, P_WD, upsets of the word, where the port's inputs come from -/
  | portPSteal (g : Fin 10752) (a : BitVec 10) (we : Bool) (d : BitVec 36) (u : BitVec 37) (src : PortSrc)
  /-- INSPECTION_STEAL R139: An inspection access that has waited 64 cycles stalls the sequencer for one cycle. Operands: slice, upsets of the OPM word and of the COEF entry -/
  | inspectionSteal (g : Fin 10752) (u : BitVec 37) (uc : BitVec 28)
  /-- SLICE_HALT_REQUEST R162: A write of SLC.CTL.HALT enters HALTED at the next instruction boundary. Operands: requester, slice -/
  | sliceHaltRequest (q : Req) (g : Fin 10752)
  /-- SLICE_RESUME R146: A write of SLC.CTL.RESUME in HALTED returns to the state held before the halt. Operands: requester, slice -/
  | sliceResume (q : Req) (g : Fin 10752)
  /-- SLICE_STEP R146: A write of SLC.CTL.STEP in HALTED executes one instruction and returns to HALTED. Operands: requester, slice -/
  | sliceStep (q : Req) (g : Fin 10752)
  /-- INSPECTION_START R163: A write of SLC.INSP_CTL starts an OPM or COEF inspection read or write in a free slot. Operands: requester, slice, the word written to INSP_CTL -/
  | inspectionStart (q : Req) (g : Fin 10752) (w : Word)
  /-- CLEAR_ILLEGAL R146: Writing 1 to FLAGS.ILLEGAL in ERROR moves the slice to IDLE. Operands: requester, slice -/
  | clearIllegal (q : Req) (g : Fin 10752)
  /-- BM36_READ R171: A BM36 port accepts a read, corrects it and returns data, POISON and SBE at the read latency. Operands: BM36, port B, timing, ADDR, stored bits of the code word that upsets have flipped, where the port's inputs come from -/
  | bm36Read (b : Fin 13440) (pb : Bool) (t : ArrT) (a : BitVec 15) (u : BitVec 72) (src : PortSrc)
  /-- BM36_FULL_WRITE R174: A BM36 port accepts a full write, stores it with valid and poison bits, and a colliding port B write is lost. Operands: BM36, port B, timing, ADDR, WD, BE, W_POISON, where the port's inputs come from -/
  | bm36FullWrite (b : Fin 13440) (pb : Bool) (t : ArrT) (a : BitVec 15) (d : BitVec 72) (be : BitVec 8) (wp : Bool) (src : PortSrc)
  /-- BM36_NARROW_WRITE R175: A narrow write reads and corrects the code word, merges bytes, and writes the merged word in the next array cycle. Operands: BM36, port B, timing, ADDR, WD, BE, W_POISON, upsets, where the port's inputs come from -/
  | bm36NarrowWrite (b : Fin 13440) (pb : Bool) (t : ArrT) (a : BitVec 15) (d : BitVec 72) (be : BitVec 8) (wp : Bool) (u : BitVec 72) (src : PortSrc)
  /-- BM36_CLEAR R184: CLR at a CLKA edge clears every valid and poison bit in one cycle and cancels queued write-backs. Operands: memory, timing, where CLR comes from -/
  | bm36Clear (m : MemId) (t : ArrT) (src : PortSrc)
  /-- CORRECTION_WRITE_BACK R181: A queued corrected or poison write-back reaches the array in the first free array cycle. Operands: memory, port B, timing -/
  | correctionWriteBack (m : MemId) (pb : Bool) (t : ArrT)
  /-- DM_FABRIC_READ R190: A DM fabric port accepts a read and returns it with RVALID four edges later plus deferrals. Operands: DM, port B, timing, DM cycles in this port cycle, ADDR, upsets, where the port's inputs come from -/
  | dmFabricRead (p : Fin 112) (pb : Bool) (t : ArrT) (cap : Nat) (a : BitVec 15) (u : BitVec 72) (src : PortSrc)
  /-- DM_FABRIC_WRITE R191: A DM fabric port accepts a full or narrow write, served in bank order with collisions on one word. Operands: DM, port B, timing, DM cycles in this port cycle, ADDR, WD, BE, W_POISON, upsets, where the port's inputs come from -/
  | dmFabricWrite (p : Fin 112) (pb : Bool) (t : ArrT) (cap : Nat) (a : BitVec 15) (d : BitVec 64) (be : BitVec 8) (wp : Bool) (u : BitVec 72) (src : PortSrc)
  /-- DM_DEFERRED_SERVE R192: A deferred DM request is served first in the next port cycle, with READY low meanwhile. Operands: DM, DM cycles in this port cycle -/
  | dmDeferredServe (p : Fin 112) (cap : Nat)
  /-- DM_NOC_REQUEST R194: A NoC request reaches a DM and is answered by the first applicable row of its response table. Operands: DM, upsets of the words the request touches -/
  | dmNocRequest (p : Fin 112) (us : List (BitVec 72))
  /-- DM_NOC_WAIT_EXPIRY R193: A NoC request that has waited NOC_WAIT DM cycles takes the next cycle of every bank it needs. Operands: DM, upsets of the words the request touches, DM cycles it has waited -/
  | dmNocWaitExpiry (p : Fin 112) (us : List (BitVec 72)) (waited : Nat)
  /-- SECTOR_POWER_GOOD R189: When a sector's fabric supply becomes good, fuse repairs load and its memories' valid and poison bits clear. Operands: sector -/
  | sectorPowerGood (sec : Fin 224)
  /-- COMMIT_OPEN R208: COMMIT_OPEN clears the standby valid bit of each vat named and opens a commit. Operands: requester; CFG.OP_VATS and CFG.OP_ARG as they stand -/
  | commitOpen (q : Req)
  /-- COMMIT_CLOSE R582: COMMIT_CLOSE is accepted and starts the read-back of every frame of the vats named. Operands: requester; CFG.OP_VATS and CFG.OP_ARG as they stand -/
  | commitClose (q : Req)
  /-- COMMIT_CLOSE_DONE R582: The read-back ends; all passing frames make the standby planes valid with the tag, a failing frame sets CLOSE_FAIL and keeps the commit open. Operands: a vat of the commit, plane cells that have changed state -/
  | commitCloseDone (v : Fin 16) (ups : List (Bool × Fin 262144 × List (Fin 2072)))
  /-- ACTIVATE R208: ACTIVATE starts a single-vat swap or a whole-device load from the standby planes, after the refusal checks. Operands: requester; CFG.OP_VATS and CFG.OP_ARG as they stand -/
  | activate (q : Req)
  /-- ROLLBACK R208: ROLLBACK starts loading the vats named from the plane that is not current. Operands: requester; CFG.OP_VATS and CFG.OP_ARG as they stand -/
  | rollback (q : Req)
  /-- CONFIRM R219: CONFIRM closes an open confirm window and clears UNCONF. Operands: requester; CFG.OP_VATS and CFG.OP_ARG as they stand -/
  | confirm (q : Req)
  /-- ARM R222: ARM arms a slot for a scheduled activation on a time base at a stated instant. Operands: requester; CFG.OP_VATS and CFG.OP_ARG as they stand -/
  | arm (q : Req)
  /-- DISARM R215: DISARM cancels an armed slot. Operands: requester; CFG.OP_VATS and CFG.OP_ARG as they stand -/
  | disarm (q : Req)
  /-- INVALIDATE R208: INVALIDATE clears the standby valid bit, ending an open commit of the same vat set. Operands: requester; CFG.OP_VATS and CFG.OP_ARG as they stand -/
  | invalidate (q : Req)
  /-- CAPTURE R209: CAPTURE writes every volatile frame of the vat into its current plane and frees load-shadow entries. Operands: requester; CFG.OP_VATS and CFG.OP_ARG as they stand -/
  | capture (q : Req)
  /-- LOAD_COMPLETE R210: A load's rows all pass or fail; the role records change, vats are released to init, or second passes, repeats, FAILED states or FALLBACK follow. Operands: vat whose load's pass ends (0 for a whole-device load), plane cells that have changed state (plane B, linear frame number, bits) -/
  | loadComplete (v : Fin 16) (ups : List (Bool × Fin 262144 × List (Fin 2072)))
  /-- CONFIRM_WINDOW_EXPIRY R219: WIN_LEFT reaches 0; STATE becomes ROLLING_BACK, CONFIRM_EXPIRED is raised, and a rollback or FAILED state follows. Operands: vat -/
  | confirmWindowExpiry (v : Fin 16)
  /-- EXPIRY_ROLLBACK_START R219: Rennet issues the expiry rollback within 100 µs, or once a pending load has ended, exempt from refusals other than an invalid plane. Operands: vat -/
  | expiryRollbackStart (v : Fin 16)
  /-- ARM_COMPARE_FIRE R223: An armed slot's compare fires; the slot disarms and the activation starts after the checks, or reports ACT_LATE. Operands: arm slot -/
  | armCompareFire (k : Fin 16)
  /-- ACTIVATION_ASSERTION R276: At the first epoch boundary after the compare signal the clamp engages and the start phase begins, and the clamp time is captured. Operands: arm slot, nanoseconds from the compare instant -/
  | activationAssertion (k : Fin 16) (d : Nat)
  /-- FRAME_ACCESS_READ R227: FW_CTL GO with READ = 1 reads one frame from the target into FW_DATA. Operands: requester, the word written to FW_CTL (its GO and READ are taken as 1) -/
  | frameAccessRead (q : Req) (w : Word)
  /-- FRAME_ACCESS_WRITE R227: FW_CTL GO with READ = 0 writes one frame to a permitted target, checked and verified. Operands: requester, the word written to FW_CTL (its GO is taken as 1, READ as 0) -/
  | frameAccessWrite (q : Req) (w : Word)
  /-- FRAME_ACCESS_DONE R227: The single-frame access ends, BUSY clears and RESULT reports the outcome. Operands: bits of the copy accessed that have changed state, whether the read-back of a plane write fails -/
  | frameAccessDone (bits : List (Fin 2072)) (bad : Bool)
  /-- PLANE_REPAIR R211: Rennet rewrites a plane frame whose PERR is set, verifies it and clears PERR, or raises PLANE_REPAIR_FAIL after three failures. Operands: linear frame number, verifies that fail -/
  | planeRepair (n : Fin 262144) (fails : Fin 4)
  /-- STARTER_FIRMWARE_START R245: The ROM has verified firmware; Rennet reads role records and starts the power-up load, commits a boot-table image, or enters FALLBACK. Operands: the firmware copy the ROM has verified -/
  | starterFirmwareStart (copy : Fin 2)
  /-- IMG_STAGE R241: A host sends an image chunk to stage into a Cellar slot, erased first and with the header programmed last. Operands: the message, its body -/
  | imgStage (e : ImmEnv) (body : List Byte)
  /-- IMG_COMMIT R244: Rennet commits an image from a named slot into the standby planes under full verification. Operands: the message, its body -/
  | imgCommit (e : ImmEnv) (body : List Byte)
  /-- IMG_STREAM R244: Rennet commits records as the host sends them, without a slot. Operands: the message, its body -/
  | imgStream (e : ImmEnv) (body : List Byte)
  /-- IMG_VERIFY R244: Rennet verifies a slot in full without writing any plane and returns the result. Operands: the message, its body -/
  | imgVerify (e : ImmEnv) (body : List Byte)
  /-- BOOT_SET R244: The device owner writes the boot ORDER, refused if a listed nibble is 0x8 to 0xE. Operands: the message, its body -/
  | bootSet (e : ImmEnv) (body : List Byte)
  /-- HEADER_RECORD R231: Rennet checks the HEADER record's CRC, fields, section placement and VATMAP. Operands: engine, what the reads and writes of the record meet -/
  | headerRecord (e : Fin 2) (env : RecEnv)
  /-- SIGNATURE_RECORD R232: Rennet checks the SIGNATURE record and starts verifying the ECDSA signature against the named key slot. Operands: engine, what the reads and writes of the record meet -/
  | signatureRecord (e : Fin 2) (env : RecEnv)
  /-- SIGNATURE_VERIFIED R233: The signature check ends; on success the vats are checked and COMMIT_OPEN is issued. Operands: engine -/
  | signatureVerified (e : Fin 2)
  /-- FRAME_RECORD R235: A FRAME record writes its frame at FAR and becomes the reference frame. Operands: engine, what the reads and writes of the record meet -/
  | frameRecord (e : Fin 2) (env : RecEnv)
  /-- FRAME_Z_RECORD R236: A FRAME_Z record decodes its token stream to 260 bytes and writes the frame at FAR. Operands: engine, what the reads and writes of the record meet -/
  | frameZRecord (e : Fin 2) (env : RecEnv)
  /-- REPEAT_RECORD R235: A REPEAT record writes the reference frame at each listed FAR. Operands: engine, what the reads and writes of the record meet -/
  | repeatRecord (e : Fin 2) (env : RecEnv)
  /-- ZERO_RUN_RECORD R235: A ZERO_RUN record writes the all-zero frame at COUNT consecutive frames. Operands: engine, what the reads and writes of the record meet -/
  | zeroRunRecord (e : Fin 2) (env : RecEnv)
  /-- MEMINIT_RECORD R237: A MEMINIT record is checked, and during an init its words are written into a BM36, DM or OPM. Operands: engine, what the reads of the record meet -/
  | meminitRecord (e : Fin 3) (env : RecEnv)
  /-- END_RECORD R238: The END record ends the image; coverage, counts and hashes are checked. Operands: engine, what the reads of the record meet -/
  | endRecord (e : Fin 2) (env : RecEnv)
  /-- IMAGE_SEND_TIMEOUT R244: A host that sends no part of an image for 10 s has its IMG_STAGE or IMG_STREAM rejected with 0x0F. -/
  | imageSendTimeout
  /-- STAGING_ERASE_REISSUE R241: A staging ERASE refused as busy is issued again as soon as the bank's other erase ends. -/
  | stagingEraseReissue
  /-- MEMORY_INIT_START R246: Rennet starts a vat's memory init, in request order, checking HDR_HASH and streaming the init section. Operands: vat, the Cellar interface does not deliver the HEADER -/
  | memoryInitStart (v : Fin 16) (lost : Bool)
  /-- MEMORY_INIT_DONE R246: ISEC_HASH matches and every record is written; the vat may be released. Operands: vat -/
  | memoryInitDone (v : Fin 16)
  /-- VAT_RESET_REQUEST R263: A write of VAT_CTRL.RESET = 1 requests a vat reset, refused for vat 0. Operands: requester, vat, the word written to VAT_CTRL (its RESET is taken as 1) -/
  | vatResetRequest (q : Req) (v : Fin 16) (w : Word)
  /-- VAT_RELEASE_REQUEST R263: A write of VAT_CTRL.RESET = 0 requests release of the vat. Operands: requester, vat, the word written to VAT_CTRL (its RESET is taken as 0) -/
  | vatReleaseRequest (q : Req) (v : Fin 16) (w : Word)
  /-- VAT_RESET_ASSERTION R264: At the next epoch boundary the vat reset asserts: flip-flops to INIT, Rind clamps, interrupts and responses discarded. Operands: vat -/
  | vatResetAssertion (v : Fin 16)
  /-- VAT_RESET_HOLD_EXPIRY R263: The stated hold of a command vat reset ends and release is requested. Operands: vat -/
  | vatResetHoldExpiry (v : Fin 16)
  /-- VAT_RELEASE R266: At the first epoch boundary where all conditions hold the vat is released, the Rind releases and queues resume. Operands: vat -/
  | vatRelease (v : Fin 16)
  /-- MEMORY_FRAME_RELOAD R61: With CLEAR_MEM, the engine reloads the vat's dynamic memory frames and COEF before release. Operands: vat -/
  | memoryFrameReload (v : Fin 16)
  /-- VAT_POWER_GATE R275: Writing PWR_GATE = 1 resets, clamps, gates and unpowers a tenancy. Operands: requester, vat, the word written to VAT_CTRL (its PWR_GATE is taken as 1) -/
  | vatPowerGate (q : Req) (v : Fin 16) (w : Word)
  /-- VAT_POWER_UP R275: Writing PWR_GATE = 0 powers the vat, clears memories, loads it from its current plane and streams its init. Operands: requester, vat, the word written to VAT_CTRL (its PWR_GATE is taken as 0) -/
  | vatPowerUp (q : Req) (v : Fin 16) (w : Word)
  /-- VAT_GATING_DONE R275: Gating or powering of a vat completes and VAT_GATED is raised. Operands: vat -/
  | vatGatingDone (v : Fin 16)
  /-- RESOURCE_ASSIGN_WRITE R257: A write of a vat's ownership or resource register is accepted only while the vat is held and ranges do not clash. Operands: requester, vat, register (OWN, PERM, NOCREG, QBASE, QCNT, LLANE_LO, LLANE_HI, SLANE, DRAMW, TBIND), the word written -/
  | resourceAssignWrite (q : Req) (v : Fin 16) (k : Fin 10) (w : Word)
  /-- MODULE_REGION_ENABLE R269: A write of MREG or MREG_EN defines or enables regions and sets or clears MOD for their frames. Operands: requester, vat, register (MREG0 to MREG3, MREG_EN), the word written -/
  | moduleRegionEnable (q : Req) (v : Fin 16) (k : Fin 5) (w : Word)
  /-- MODULE_LOAD_REQUEST R270: A write of MLOAD_CTL.GO requests a module load, refused with a RESULT code. Operands: requester, vat, the word written to MLOAD_CTL (its GO is taken as 1) -/
  | moduleLoadRequest (q : Req) (v : Fin 16) (w : Word)
  /-- MODULE_LOAD_START R271: Rennet serves an accepted module-load request in order and checks its header and signature. Operands: vat -/
  | moduleLoadStart (v : Fin 16)
  /-- MODULE_LOAD_DONE R271: Every frame is written and checked; VOL and SHADOW are set and MODLOAD_DONE is raised. Operands: vat -/
  | moduleLoadDone (v : Fin 16)
  /-- MODULE_REGION_RELEASE R271: The module region is released at the next epoch boundary. Operands: vat -/
  | moduleRegionRelease (v : Fin 16)
  /-- MODULE_LOAD_RESTORE R272: A failed or aborted module load restores the region from the current plane and raises MODLOAD_FAIL. Operands: vat -/
  | moduleLoadRestore (v : Fin 16)
  /-- MODULE_RESTORE_DONE R272: The region restore ends and the region is released or left to the vat's reset or swap. Operands: vat -/
  | moduleRestoreDone (v : Fin 16)
  /-- CHURN_PASS_START R285: A scrub pass starts in all four quadrants at the first slot boundary one period after the last start. -/
  | churnPassStart
  /-- SCRUB_READ R289: Churn reads a frame, checks it, and leads to no action, correction, restoration or an unrestorable report. Operands: quadrant, bits of the frame's live latches that upsets have flipped -/
  | scrubRead (q : Fin 4) (bits : List (Fin 2072))
  /-- CORRECTION_WRITE R289: Churn writes the corrected frame to the live latches, retried once on failure. Operands: quadrant, checks of the write that fail, bits the second failing write leaves wrong -/
  | correctionWrite (q : Fin 4) (fails : Fin 3) (left : List (Fin 2072))
  /-- RESTORE_PLANE_READ R290: Churn reads the frame's current-plane copy for a restoration. Operands: quadrant, plane cells of the frame that have changed state -/
  | restorePlaneRead (q : Fin 4) (bits : List (Fin 2072))
  /-- RESTORATION_WRITE R289: Churn writes the plane copy into the live latches. Operands: quadrant, checks of the write that fail, bits the second failing write leaves wrong -/
  | restorationWrite (q : Fin 4) (fails : Fin 3) (left : List (Fin 2072))
  /-- CHURN_PASS_COMPLETE R282: Every quadrant finishes the pass and PASS_CNT increments. -/
  | churnPassComplete
  /-- CHURN_PASS_LATE R286: A quadrant has not finished within one period plus load time; LATE sets and CHURN_LATE is raised. -/
  | churnPassLate
  /-- CHURN_ENABLE R291: Writing CHURN.CTL.EN = 1 starts a pass at position 0. Operands: requester, the word written to CHURN.CTL (its EN is taken as 1) -/
  | churnEnable (q : Req) (w : Word)
  /-- CHURN_DISABLE R291: Writing EN = 0 abandons the pass after operations in flight and raises CHURN_DISABLED. Operands: requester, the word written to CHURN.CTL (its EN is taken as 0) -/
  | churnDisable (q : Req) (w : Word)
  /-- NOC_REQUEST_ISSUE R312: An initiator decodes a request, answers it locally or sends it with a tag and starts its timer. Operands: initiator ID; the request -/
  | nocRequestIssue (i : Fin 1024) (rq : NocRq)
  /-- FLIT_FORWARD R302: A router forwards a flit by dimension order or toward the span gateway, discarding one with an uncorrectable header. Operands: router row and column, output, whether the flit's header or payload has an uncorrectable error -/
  | flitForward (y : Fin 16) (x : Fin 16) (o : NocOut) (hdrErr : Bool) (payErr : Bool)
  /-- TARGET_REQUEST_ARRIVAL R301: A target attachment accepts a request, or discards one with a reserved OP or foreign address. Operands: attachment, buffer, what user logic answers where a fabric port serves the request -/
  | targetRequestArrival (a : Fin 1024) (vc : Fin 4) (x : UserAns)
  /-- RESPONSE_ARRIVAL R316: A response reaches its initiator and is delivered, or discarded as orphaned or late. Operands: initiator, NOC cycles of the round trip, the load or fetch that waits for it where the initiator is a processor -/
  | responseArrival (i : Fin 1024) (cycles : Nat) (x : Option CpuLoad)
  /-- INITIATOR_TIMEOUT R315: A request's timeout expires; TIMEOUT is delivered and the tag enters quarantine. Operands: initiator ID, tag, the load or fetch that waits for it where the initiator is a processor -/
  | initiatorTimeout (i : Fin 1024) (t : Fin 1024) (x : Option CpuLoad)
  /-- QUARANTINE_EXPIRY R316: A quarantined tag is freed after 4 × INIT_TMO. Operands: initiator ID, tag -/
  | quarantineExpiry (i : Fin 1024) (t : Fin 1024)
  /-- MAP_ENTRY_WRITE R312: A NoC map entry write takes effect at the central table, refused if VALID with misaligned BASE. Operands: requester, entry, register (MAP_LO, MAP_HI, MAP_CTL, MAP_TGT), the word written -/
  | mapEntryWrite (q : Req) (e : Fin 64) (k : Fin 4) (w : Word)
  /-- MAP_SYNC R310: Writing MAP_SYNC.GO makes every initiator discard its map cache. Operands: requester -/
  | mapSync (q : Req)
  /-- MAP_SYNC_DONE R310: All initiators have discarded their caches and BUSY clears. -/
  | mapSyncDone
  /-- MAP_CACHE_REFRESH R310: An initiator's 1 ms background refresh discards its cached map entries. Operands: initiator ID -/
  | mapCacheRefresh (i : Fin 1024)
  /-- REGULATOR_BIND R319: Writing INIT_CFG.BIND = 1 binds the initiator to a free regulator of its vat's range or shares one. Operands: requester, initiator -/
  | regulatorBind (q : Req) (i : Fin 1024)
  /-- REGULATOR_UNBIND R319: Writing BIND = 0 unbinds the initiator and updates BOUND and SHARED. Operands: requester, initiator -/
  | regulatorUnbind (q : Req) (i : Fin 1024)
  /-- SPAN_PORT_ENABLE R325: Writing PORT_CTL.EN = 1 makes the port send INIT frames once its lanes lock. Operands: requester, span port, the word written to PORT_CTL (its EN is taken as 1) -/
  | spanPortEnable (q : Req) (k : Fin 4) (w : Word)
  /-- SPAN_PORT_DISABLE R329: Writing EN = 0 takes the port down, discarding its replay buffer and queued flits. Operands: requester, span port, the word written to PORT_CTL (its EN is taken as 0) -/
  | spanPortDisable (q : Req) (k : Fin 4) (w : Word)
  /-- SPAN_INIT_FRAME R325: A good INIT frame is received; after 16 in a row the port enters UP and raises SPAN_UP. Operands: span port, the frame's words -/
  | spanInitFrame (k : Fin 4) (ws : List Word)
  /-- SPAN_CTRL_FRAME R327: A CTRL frame delivers ACK and credit counts. Operands: span port, the frame's words -/
  | spanCtrlFrame (k : Fin 4) (ws : List Word)
  /-- SPAN_FLIT_FRAME R327: A FLIT response frame is accepted in order, or discarded as duplicate or out of sequence. Operands: span port, the frame's words, the sequence stamp of the request it answers (R316) -/
  | spanFlitFrame (k : Fin 4) (ws : List Word) (stamp : Nat)
  /-- SPAN_FLITR_FRAME R331: A FLITR request frame is accepted and, as a remote request, looked up and injected, or answered SLVERR. Operands: span port, the frame's words -/
  | spanFlitrFrame (k : Fin 4) (ws : List Word)
  /-- SPAN_ACK_TIMER R327: 100 ns after accepting an unacknowledged frame, or after 64 frames, the port sends a CTRL frame. Operands: span port -/
  | spanAckTimer (k : Fin 4)
  /-- SPAN_REPLAY_EXPIRY R328: The replay timer expires; all unacknowledged frames are resent, or the port goes down after 8 expiries. Operands: span port -/
  | spanReplayExpiry (k : Fin 4)
  /-- SPAN_GATEWAY_FLIT R330: A flit for another device is queued for its route-table port, passed on with HOPS − 1, answered DECERR or discarded. -/
  | spanGatewayFlit
  /-- DRAM_ADMIT R348: A channel admits a request from its sources by QoS and deficit round robin once it is admissible. Operands: channel -/
  | dramAdmit (n : Fin 8)
  /-- DRAM_READ R343: A DRAM line read is decoded, corrected, MAC-checked and answered OKAY or POISONED with write-backs. Operands: `sub` the subchannel; `x` the errors that the access meets -/
  | dramRead (n : Fin 8) (sub : Fin 2) (x : Sense)
  /-- DRAM_WHOLE_WRITE R344: A whole-line write is encrypted, coded and stored with the flit's poison bit. Operands: `sub` the subchannel -/
  | dramWholeWrite (n : Fin 8) (sub : Fin 2)
  /-- DRAM_PARTIAL_WRITE R345: A partial write locks the line, reads, merges and rewrites it. Operands: as DRAM_READ -/
  | dramPartialWrite (n : Fin 8) (sub : Fin 2) (x : Sense)
  /-- REFRESH_DUE R351: A refresh obligation falls due; it is postponed, paid, or forced ahead of requests. Operands: channel, subchannel, rank (REFab) -/
  | refreshDue (n : Fin 8) (sub : Fin 2) (rank : Fin 4)
  /-- TEMPERATURE_POLL R350: Every 32 ms MR4 of each rank is read; above 85 °C refresh halves and DRAM_HOT is raised once. Operands: channel, ranks above 85 °C -/
  | temperaturePoll (n : Fin 8) (hot : Fin 16)
  /-- NEIGHBOUR_REFRESH R352: A sampled row, once closed, receives a DRFM or RFMsb. Operands: channel, bank, sampled row -/
  | neighbourRefresh (n : Fin 8) (bank : Fin 256) (row : Nat)
  /-- READ_TIMING_TRACKING R353: Every 4 µs each subchannel spends 60 ns tracking read timing on all pins. Operands: channel, subchannel -/
  | readTimingTracking (n : Fin 8) (sub : Fin 2)
  /-- ROW_IDLE_CLOSE R349: An open row is closed after 1 µs without access. Operands: channel, bank -/
  | rowIdleClose (n : Fin 8) (bank : Fin 256)
  /-- CHANNEL_INIT R356: Writing CH_CTL.INIT runs power-up, calibration and training of every rank. Operands: requester, channel, the word written to CH_CTL (its INIT is taken as 1) -/
  | channelInit (q : Req) (n : Fin 8) (w : Word)
  /-- CHANNEL_INIT_DONE R356: Initialisation ends in READY, or FAIL with DRAM_TRAIN_FAIL. Operands: channel, ranks that failed training, DRFM in the mode registers -/
  | channelInitDone (n : Fin 8) (failed : Fin 16) (drfm : Bool)
  /-- CHANNEL_FILL R357: Writing FILL writes every line as encrypted zeros through the internal source. Operands: requester, channel, the word written to CH_CTL (its FILL is taken as 1) -/
  | channelFill (q : Req) (n : Fin 8) (w : Word)
  /-- RANK_FILL_DONE R357: A rank's last line is written and its FILLED bit sets. Operands: channel, rank -/
  | rankFillDone (n : Fin 8) (r : Fin 4)
  /-- MIGRATION_START R359: MIG_GO, or a rank fault with AUTO_MIG, starts copying the source rank to the spare. Operands: requester, channel, the word written to CH_CTL (its MIG_GO is taken as 1) -/
  | migrationStart (q : Req) (n : Fin 8) (w : Word)
  /-- MIGRATION_COPY R360: One line of the source rank is read and written to the spare and MIG_PTR advances. Operands: channel, clean lines copied before the last one, what the read of the last one senses -/
  | migrationCopy (n : Fin 8) (count : Nat) (x : Sense)
  /-- MIGRATION_DONE R359: The spare takes the rank's place, SPARE.STATE is IN_USE, and DRAM_MIG_DONE is raised. Operands: channel -/
  | migrationDone (n : Fin 8)
  /-- PATROL_READ R369: The patrol reads a line of a filled rank and handles it as a read without a response. Operands: channel, rank, rank line index, what the read senses -/
  | patrolRead (n : Fin 8) (rank : Fin 4) (i : Fin (2 ^ 29)) (x : Sense)
  /-- SELF_REFRESH_ENTER R363: Writing SR = 1 stops admission and puts every rank into self-refresh. Operands: requester, channel, the word written to CH_CTL (its SR is taken as 1) -/
  | selfRefreshEnter (q : Req) (n : Fin 8) (w : Word)
  /-- SELF_REFRESH_EXIT R363: Writing SR = 0 leaves self-refresh, calibrates and returns to READY. Operands: requester, channel, the word written to CH_CTL (its SR is taken as 0) -/
  | selfRefreshExit (q : Req) (n : Fin 8) (w : Word)
  /-- SELF_REFRESH_REACHED R363: Every rank is in self-refresh; STATE becomes SELF_REFRESH and the clock gate closes. Operands: channel -/
  | selfRefreshReached (n : Fin 8)
  /-- CHANNEL_READY R363: The channel returns to READY after leaving self-refresh and held requests proceed. Operands: channel -/
  | channelReady (n : Fin 8)
  /-- SPARE_SUBSTITUTE R362: Writing SPARE.SUBST in UNINIT puts the spare in place of a retired rank from the start. Operands: requester, channel, the word written to SPARE (its SUBST is taken as 1) -/
  | spareSubstitute (q : Req) (n : Fin 8) (w : Word)
  /-- QUAD_PLL_ENABLE R374: Writing QPLL.EN = 1 starts the PLL, which locks within 200 µs. Operands: requester, quad, PLL, the word written to QPLL (its EN is taken as 1) -/
  | quadPllEnable (q : Req) (u : Fin 25) (p : Fin 2) (w : Word)
  /-- QUAD_PLL_LOCK R374: The quad PLL locks. Operands: quad (0-15 long, 16-23 short, 24 management), PLL -/
  | quadPllLock (u : Fin 25) (p : Fin 2)
  /-- LANE_PLL_FAIL R392: A PLL not locked 200 µs after EN, or losing lock, raises LANE_PLL_FAIL. Operands: quad, PLL -/
  | lanePllFail (u : Fin 25) (p : Fin 2)
  /-- QUAD_REF_QUALIFIED R375: A quad reference within ±1 % for 100 µs sets REF_OK; PLLs relock and lanes recover. Operands: quad -/
  | quadRefQualified (u : Fin 25)
  /-- QUAD_REF_LOSS R375: REF_OK clears; PLLs lose lock, transmitters idle, receivers return to NOSIG and LANE_REF_LOSS is raised. Operands: quad -/
  | quadRefLoss (u : Fin 25)
  /-- LANE_TX_POWER_SET R384: A LANE.CTL write of TX_PWR moves the transmitter to OFF, SLEEP or ON. Operands: requester, lane, TX_PWR; the other fields of LANE.CTL as they stand -/
  | laneTxPowerSet (q : Req) (n : Fin 100) (p : Fin 4)
  /-- LANE_RX_POWER_SET R384: A LANE.CTL write of RX_PWR moves the receiver to OFF, SLEEP or ON. Operands: requester, lane, RX_PWR; the other fields of LANE.CTL as they stand -/
  | laneRxPowerSet (q : Req) (n : Fin 100) (p : Fin 4)
  /-- LANE_RATE_SET R391: A LANE.CTL write of PLL, MOD or DIV sets the lane rate, refused while a direction is ON. Operands: requester, lane, PLL, MOD, DIV; the other fields of LANE.CTL as they stand -/
  | laneRateSet (q : Req) (n : Fin 100) (pll : Fin 2) (mod : Fin 2) (d : Fin 256)
  /-- LANE_LOOPBACK_SET R385: A write of LOOP selects no, near or far loopback. Operands: requester, lane, LOOP; the other fields of LANE.CTL as they stand -/
  | laneLoopbackSet (q : Req) (n : Fin 100) (m : Fin 4)
  /-- TX_ON_REACHED R384: The transmitter reaches ON once its PLL is locked. Operands: lane -/
  | txOnReached (n : Fin 100)
  /-- RX_SIGNAL_DETECT R380: A signal detected for 1 µs moves the receiver from NOSIG to ACQUIRE. Operands: lane -/
  | rxSignalDetect (n : Fin 100)
  /-- RX_CDR_LOCK R380: The CDR locks and the receiver enters ADAPT. Operands: lane -/
  | rxCdrLock (n : Fin 100)
  /-- RX_LOCKED R380: SNR at or above SNR_MIN for 1 ms makes the receiver LOCKED. Operands: lane, SNR, CTLE code and DFE taps the adaptation reached -/
  | rxLocked (n : Fin 100) (snr : Byte) (ctle : Fin 32) (taps : List Byte)
  /-- RX_LOCK_LOST R381: CDR lock loss or low SNR for 100 µs returns the receiver to ACQUIRE and raises LANE_LOCK_LOST. Operands: lane -/
  | rxLockLost (n : Fin 100)
  /-- RX_SIGNAL_LOST R381: Signal loss for 1 µs returns the receiver to NOSIG. Operands: lane -/
  | rxSignalLost (n : Fin 100)
  /-- RX_NO_LOCK R381: 100 ms in ON without LOCKED sets NOLOCK and raises LANE_NO_LOCK once. Operands: lane -/
  | rxNoLock (n : Fin 100)
  /-- TX_PRESET_CHANGE R377: A TX_EQ or TX_FIR write changes the transmit taps within 100 ns between symbols. Operands: requester, lane, TX_FIR rather than TX_EQ, the word written -/
  | txPresetChange (q : Req) (n : Fin 100) (fir : Bool) (w : Word)
  /-- RECOVERED_CLOCK_DIVIDER R383: A write of RCDIV sets the recovered clock divider, refused while a foreign line uses the lane. Operands: requester, lane, RCDIV; the other fields of LANE.CTL as they stand -/
  | recoveredClockDivider (q : Req) (n : Fin 100) (c : Fin 16)
  /-- PRBS_CHECKER_LOCK R387: The checker sets LOCK after 1,024 matching bits. Operands: the 31 bits received before, the last in bit 0 (for the user pattern the place in it); the 1,024 bits, bit 0 first -/
  | prbsCheckerLock (n : Fin 100) (seed : BitVec 31) (bits : BitVec 1024)
  /-- PRBS_CHECKER_BLOCK R387: A block of 1,024 compared bits counts blocks and errors, or loses lock above 256 errors. Operands: the 1,024 received bits, bit 0 first -/
  | prbsCheckerBlock (n : Fin 100) (bits : BitVec 1024)
  /-- INJECT_ONCE R388: Writing INJ_CTL.ONCE inverts the next transmitted bit. Operands: requester, lane, the word written to INJ_CTL (its ONCE is taken as 1) -/
  | injectOnce (q : Req) (n : Fin 100) (w : Word)
  /-- ELASTIC_BUFFER_SLIP R385: The far loopback buffer drops or repeats 64 symbols and counts SLIP_CNT. Operands: lane -/
  | elasticBufferSlip (n : Fin 100)
  /-- PORT_ENABLE R413: Writing PORT_CTL.EN = 1 with a valid MODE enables a port, refused if the lanes do not fit. Operands: requester, port, the word written to PORT_CTL (its EN is taken as 1) -/
  | portEnable (q : Req) (m : Fin 100) (w : Word)
  /-- PORT_DISABLE R413: Writing EN = 0 completes the frame on the wire and empties the store. Operands: requester, port, the word written to PORT_CTL (its EN is taken as 0) -/
  | portDisable (q : Req) (m : Fin 100) (w : Word)
  /-- LINK_UP R395: The port's link comes up and FEN_LINK_UP is raised. Operands: port -/
  | linkUp (m : Fin 100)
  /-- LINK_DOWN R395: The link goes down, FEN_LINK_DOWN is raised, and waiting frames are held or dropped. Operands: port, local fault, remote fault -/
  | linkDown (m : Fin 100) (lf : Bool) (rf : Bool)
  /-- RX_FRAME R403: A received frame is time-stamped and delivered to the stream or classified to a queue, or dropped and counted. Operands: port, the frame with its FCS, a PCS or FEC error, the phase of its time-stamp point, whether the stream or the engine could take it, whether a buffer cell it goes to is poisoned -/
  | rxFrame (m : Fin 100) (bs : List Byte) (bad : Bool) (phase : Fin 64) (taken : Bool) (poisoned : Bool)
  /-- RX_FRAME_WRITE R402: A queued receive frame is written into the next free descriptor buffer and the descriptor written back. Operands: receive queue -/
  | rxFrameWrite (n : Fin 65536)
  /-- TX_STREAM_FRAME R398: A stream frame is complete in the transmit store and sent with FCS and padding. Operands: TX_ABORT at EOP; TX_TSREQ with FID; the phase of the tick at the time-stamp point; whether the frame was partly in the store as its vat paused or its link fell -/
  | txStreamFrame (m : Fin 96) (bs : List Byte) (abort : Bool) (fid : Option (BitVec 16)) (phase : Fin 64) (partly : Bool)
  /-- QUEUE_ENABLE R399: Writing QCFG.EN = 1 starts a queue and clears CIDX. Operands: requester, queue, the word written to QCFG (its EN is taken as 1) -/
  | queueEnable (q : Req) (n : Fin 65536) (w : Word)
  /-- QUEUE_DISABLE R413: Writing QCFG.EN = 0 drops the frames it holds. Operands: requester, queue, the word written to QCFG (its EN is taken as 0) -/
  | queueDisable (q : Req) (n : Fin 65536) (w : Word)
  /-- QUEUE_DOORBELL R400: A PIDX write hands descriptors to the queue manager, or stops the queue with ERR 0x3. Operands: requester, queue, the word written to PIDX -/
  | queueDoorbell (q : Req) (n : Fin 65536) (w : Word)
  /-- QUEUE_STAGE R406: The scheduler stages a chosen frame into the port's transmit store. Operands: port -/
  | queueStage (m : Fin 96)
  /-- TIMED_LAUNCH R407: A staged timed frame starts at the first opportunity at or after its start instant. Operands: port, phase of the time-stamp point within the tick -/
  | timedLaunch (m : Fin 96) (phase : Fin 64)
  /-- LATE_TIMED_FRAME R408: A timed frame not staged by its start instant is sent late or dropped. Operands: transmit queue -/
  | lateTimedFrame (n : Fin 65536)
  /-- TX_FRAME_DONE R402: A transmit frame is sent or dropped and its descriptor RESULT and CIDX update. Operands: port, phase of the time-stamp point within the tick -/
  | txFrameDone (m : Fin 100) (phase : Fin 64)
  /-- PAUSE_EXPIRY R409: The pause quanta received for a class run out and the class resumes. Operands: port, class -/
  | pauseExpiry (m : Fin 100) (c : Fin 8)
  /-- SEND_PAUSE R409: Writing FC_TX.SEND sends one PAUSE or PFC frame. Operands: requester, port, the word written to FC_TX (its SEND is taken as 1) -/
  | sendPause (q : Req) (m : Fin 100) (w : Word)
  /-- QUEUE_RESUME R412: Writing QM.QRESUME bit v runs a vat's queues held by QHOLD. Operands: requester, the word written to QRESUME -/
  | queueResume (q : Req) (w : Word)
  /-- TCLK_SOURCE_SELECT R418: A TCLK_CTL write selects TREF or REF for the time clock, refused if not ready. Operands: requester, the word written to TCLK_CTL -/
  | tclkSourceSelect (q : Req) (w : Word)
  /-- TCLK_LOCK R416: The time clock locks to its source. -/
  | tclkLock
  /-- TREF_QUALIFIED R417: TREF within ±1 % for 100 µs sets TREF_OK. Operands: REF rather than TREF -/
  | trefQualified (ref : Bool)
  /-- TREF_LOSS R418: The selected time source's flag clears; TCLK holds and TIME_REF_LOSS is raised. Operands: REF rather than TREF -/
  | trefLoss (ref : Bool)
  /-- TCLK_RELOCK R418: After the flag is set 1 ms, TCLK relocks with a limited slew. -/
  | tclkRelock
  /-- TB_SET R422: SET gives the base a new value at the next tick and starts an unstarted base. Operands: requester, time base, the word written to TB_CTL (its CMD is taken as 0b01) -/
  | tbSet (q : Req) (b : Fin 8) (w : Word)
  /-- TB_STEP R422: STEP moves the base by a signed amount at the next tick and raises TB_STEP. Operands: requester, time base, the word written to TB_CTL (its CMD is taken as 0b10) -/
  | tbStep (q : Req) (b : Fin 8) (w : Word)
  /-- TB_SNAP R422: SNAP copies the base value into the SNAP registers. Operands: requester, time base, the word written to TB_CTL (its CMD is taken as 0b11) -/
  | tbSnap (q : Req) (b : Fin 8) (w : Word)
  /-- RATE_UPDATE R421: A RATE_HI write sets the base rate at the next tick and ends holdover. Operands: requester, time base, the word written to RATE_HI -/
  | rateUpdate (q : Req) (b : Fin 8) (w : Word)
  /-- BASE_WATCHDOG_EXPIRY R421: No RATE_HI write for WDOG ms puts the base into HOLDOVER and raises TB_HOLDOVER. Operands: time base -/
  | baseWatchdogExpiry (b : Fin 8)
  /-- CMP_ARM R425: Writing CMP_CTL.ARM = 1 arms a general compare. Operands: requester, compare, the word written to CMP_CTL (its ARM is taken as 1) -/
  | cmpArm (q : Req) (i : Fin 15) (w : Word)
  /-- CMP_DISARM R425: Writing ARM = 0 disarms a general compare. Operands: requester, compare, the word written to CMP_CTL (its ARM is taken as 0) -/
  | cmpDisarm (q : Req) (i : Fin 15) (w : Word)
  /-- CMP_FIRE R429: A general compare fires, sets FIRED, pulses CMP_OUT and raises its interrupt. Operands: compare -/
  | cmpFire (i : Fin 15)
  /-- PULSE_ENABLE R440: Writing TP_CTL.EN = 1 starts a once or periodic pulse train. Operands: requester, pulse unit, the word written to TP_CTL (its EN is taken as 1) -/
  | pulseEnable (q : Req) (k : Fin 16) (w : Word)
  /-- PULSE_ASSERT R440: The pulse unit asserts its output at the scheduled instant. Operands: pulse unit -/
  | pulseAssert (k : Fin 16)
  /-- PULSE_RELEASE R440: The pulse unit releases its output after WIDTH_NS. Operands: pulse unit -/
  | pulseRelease (k : Fin 16)
  /-- CAPTURE_EDGE R441: An edge on a capture ball is time-stamped into the unit's store, or dropped with CAP_OVF. Operands: capture unit, whether the edge rises, its phase within the tick of TCLK in 1/64, whether it lies within 4 ns of the edge before -/
  | captureEdge (j : Fin 9) (rise : Bool) (phase : Fin 64) (near : Bool)
  /-- CAPTURE_POP R441: A read of CAP_POP pops and latches the oldest capture entry. Operands: requester, capture unit -/
  | capturePop (q : Req) (j : Fin 9)
  /-- TSQ_POP R434: A read of TSQ_POP pops and latches the head transmit time-stamp entry. Operands: requester, port -/
  | tsqPop (q : Req) (m : Fin 96)
  /-- CORE_RUN R446: Setting CORE_CTL.RUN starts a service core or the Timekeeper at RESET_VEC. Operands: requester, processor (0-3 service cores, 4 Timekeeper), the word written to CORE_CTL (its RUN is taken as 1) -/
  | coreRun (q : Req) (k : Fin 5) (w : Word)
  /-- CORE_RESET R446: Writing CORE_CTL.RESET resets one processor and completes its claimed interrupts. Operands: requester, processor, the word written to CORE_CTL (its RESET is taken as 1) -/
  | coreReset (q : Req) (k : Fin 5) (w : Word)
  /-- INTERRUPT_ASSERT R454: A source asserts and becomes pending, offered to a processor, queued as VAT_IRQ, or set in VPEND. Operands: source, asserted or fallen -/
  | interruptAssert (i : Fin 976) (b : Bool)
  /-- FAST_INTERRUPT_ENTRY R450: A processor takes an offered fast interrupt into its shadow bank and claims the source. Operands: processor, what it has executed; the pc is that of its next instruction -/
  | fastInterruptEntry (c : Fin 6) (r : CpuRun)
  /-- FRET R451: FRET restores the normal bank, mode and pc and completes the claimed source. Operands: processor, what it has executed; the pc is that of the FRET -/
  | fret (c : Fin 6) (r : CpuRun)
  /-- CLAIM R456: A read of CLAIM claims the highest-priority offered source and raises CPL. Operands: requester, processor -/
  | claim (q : Req) (c : Fin 6)
  /-- COMPLETE R456: Writing the claimed source to COMPLETE clears NACT and restores CPL. Operands: requester, processor, the word written -/
  | complete (q : Req) (c : Fin 6) (w : Word)
  /-- PEND_CLEAR R457: A W1C write of IRQ.PEND clears edge sources and withdraws their offers. Operands: requester, word of PEND, the word written -/
  | pendClear (q : Req) (k : Fin 32) (w : Word)
  /-- SOFTWARE_INTERRUPT R457: A write of IRQ.SWI sets the edge latch of a software source. Operands: requester, the word written to SWI -/
  | softwareInterrupt (q : Req) (w : Word)
  /-- VCLAIM R460: A guest read of VCLAIM claims the vat's highest-priority pending source. Operands: requester, vat -/
  | vclaim (q : Req) (v : Fin 16)
  /-- VCOMPLETE R460: A write to VCOMPLETE completes the vat's claimed source. Operands: requester, vat, the word written -/
  | vcomplete (q : Req) (v : Fin 16) (w : Word)
  /-- WAKE_LATCH_EDGE R461: A wake-capable source edge sets its asynchronous latch. Operands: source 832 + i -/
  | wakeLatchEdge (i : Fin 128)
  /-- STORE_ERROR_RESPONSE R449: A store answered other than OKAY records msterr and msteraddr and asserts the store-error source. Operands: processor, the status answered (its code of R298), the store's address -/
  | storeErrorResponse (c : Fin 6) (st : Fin 6) (a : BitVec 64)
  /-- MSTERR_CLEAR R452: Writing 0 to msterr clears it and releases the store-error source. Operands: processor -/
  | msterrClear (c : Fin 6)
  /-- SCRATCHPAD_ACCESS R465: A scratchpad bank serves a read or write with correction, poison, merge and lock checks. Operands: bank, stored bits of the touched words that upsets have flipped -/
  | scratchpadAccess (b : Fin 32) (us : List (BitVec 72))
  /-- SCRATCHPAD_LOCK R466: Setting LOCK_CTL.LOCKED makes a range writable by the Starter only until cold reset. Operands: requester, range, the word written to LOCK_CTL (its LOCKED is taken as 1) -/
  | scratchpadLock (q : Req) (k : Fin 4) (w : Word)
  /-- DMA_GO R467: Writing CH_CTL.GO starts a DMA channel at its first descriptor. Operands: requester, channel, the word written to CH_CTL (its GO is taken as 1) -/
  | dmaGo (q : Req) (c : Fin 16) (w : Word)
  /-- DMA_STOP R469: Writing CH_CTL.STOP stops the channel after its lines in flight with RESULT 0x5. Operands: requester, channel, the word written to CH_CTL (its STOP is taken as 1) -/
  | dmaStop (q : Req) (c : Fin 16) (w : Word)
  /-- DMA_DESCRIPTOR_DONE R469: All writes of a descriptor are answered; word 5 is written back and NEXT followed. Operands: channel -/
  | dmaDescriptorDone (c : Fin 16)
  /-- TXD_WRITE R472: A write of TXD pushes a word into a service port's transmit FIFO. Operands: requester (none: the fabric of the port's OWNER), port, the word -/
  | txdWrite (q : Option Req) (k : Fin 20) (w : Word)
  /-- RXD_POP R472: A read of RXD pops a word from the receive FIFO. Operands: requester (none: the fabric of the port's OWNER), port -/
  | rxdPop (q : Option Req) (k : Fin 20)
  /-- PERIPHERAL_WORD_RECEIVED R473: A UART, I2C or SPI port receives a word into its FIFO, or drops it with RXOVF. Operands: port (0-7 UART, 8-15 I2C, 16-19 SPI), the word -/
  | peripheralWordReceived (k : Fin 20) (w : BitVec 16)
  /-- PERIPHERAL_TRANSFER_DONE R473: A service port finishes transferring a word or command. Operands: port (UART0-7, I2C0-7, SPI0-3); the words that the fabric has put in since (MODE = 1) -/
  | peripheralTransferDone (k : Fin 20) (ws : List (BitVec 16))
  /-- I2C_TIMEOUT R473: SCL held low 25 ms ends the transfer, sets TIMEOUT and drops the command FIFO. Operands: I2C controller -/
  | i2cTimeout (j : Fin 8)
  /-- MTIME_COMPARE R474: MTIME reaching a core's MTIMECMP asserts its timer interrupt. Operands: service core -/
  | mtimeCompare (k : Fin 4)
  /-- IDENTIFY R487: IDENTIFY returns UID, life-cycle state and certificate bytes. Operands: the message, its body -/
  | identify (e : ImmEnv) (body : List Byte)
  /-- SESSION_INIT R481: SESSION_INIT starts a session handshake and is answered after 1 ms with SID, N_D and P_D. Operands: the message, its body -/
  | sessionInit (e : ImmEnv) (body : List Byte)
  /-- SESSION_FINISH R482: SESSION_FINISH verifies P_H and opens the session, closing any older one. Operands: the message, its body -/
  | sessionFinish (e : ImmEnv) (body : List Byte)
  /-- SESSION_CLOSE R482: SESSION_CLOSE closes the host's session. Operands: the message, its body -/
  | sessionClose (e : ImmEnv) (body : List Byte)
  /-- REG_RD R488: REG_RD reads consecutive registers with the rights of the named vat. Operands: the message, its body -/
  | regRd (e : ImmEnv) (body : List Byte)
  /-- REG_WR R488: REG_WR writes consecutive registers with the rights of the named vat. Operands: the message, its body -/
  | regWr (e : ImmEnv) (body : List Byte)
  /-- MEM_RD R488: MEM_RD reads bytes at a system address, line by line. Operands: the message, its body -/
  | memRd (e : ImmEnv) (body : List Byte)
  /-- MEM_WR R488: MEM_WR writes unpoisoned bytes at a system address. Operands: the message, its body -/
  | memWr (e : ImmEnv) (body : List Byte)
  /-- STATS R487: STATS returns a block of a vat's counters. Operands: the message, its body -/
  | stats (e : ImmEnv) (body : List Byte)
  /-- PLANE_OP R487: PLANE_OP orders a plane operation for vats the host owns through CFG.OP. Operands: the message, its body -/
  | planeOp (e : ImmEnv) (body : List Byte)
  /-- IMM_VAT_RESET R263: The owner's VAT_RESET request resets a vat for a stated hold, optionally with CLEAR_MEM. Operands: the message, its body -/
  | immVatReset (e : ImmEnv) (body : List Byte)
  /-- IMM_RESET R489: The device owner's RESET request orders a cold or warm reset. Operands: the message, its body -/
  | immReset (e : ImmEnv) (body : List Byte)
  /-- IMM_POWER R534: The device owner's POWER request orders KEEP or OFF with an optional timed wake. Operands: the message, its body -/
  | immPower (e : ImmEnv) (body : List Byte)
  /-- RESET_OR_POWER_ACT R489: An accepted RESET or POWER acts once the host acknowledges the RSP, or after 1 ms. -/
  | resetOrPowerAct
  /-- LOG_READ R522: LOG_READ returns committed event or audit log entries from INDEX. Operands: the message, its body -/
  | logRead (e : ImmEnv) (body : List Byte)
  /-- IMM_ACK R484: A host ACK message advances ACKNO and frees acknowledged messages and request slots. Operands: what arrives -/
  | immAck (e : ImmEnv)
  /-- IMM_RETRANSMIT_EXPIRY R484: The retransmit timer expires and all unacknowledged messages are resent. Operands: host -/
  | immRetransmitExpiry (h : Fin 4)
  /-- STANDALONE_ACK_TIMER R483: 100 µs after accepting an unacknowledged REQ the device sends a standalone ACK. Operands: host -/
  | standaloneAckTimer (h : Fin 4)
  /-- SESSION_IDLE_TIMEOUT R482: No host message for IDLE_S seconds closes the session. Operands: host -/
  | sessionIdleTimeout (h : Fin 4)
  /-- REFUSAL_RESPONSE R490: A refused request is answered REFUSED 1 ms after arrival and logged in the audit log. Operands: host -/
  | refusalResponse (h : Fin 4)
  /-- EVENT_SEND R495: An unsent event entry is sent when the session is open, the stream has room and a token is available. Operands: host -/
  | eventSend (h : Fin 4)
  /-- EVENTS_LOST_SEND R496: 1 ms after a loss summary opens it is sent as EVENTS_LOST. Operands: host -/
  | eventsLostSend (h : Fin 4)
  /-- MP_RATE_ALTERNATE R476: A management port in alternate mode switches rate every 500 ms until the link comes up. Operands: port -/
  | mpRateAlternate (h : Fin 4)
  /-- SMBUS_STATUS_READ R499: An SMBus block read of command 0x10 returns device status. -/
  | smbusStatusRead
  /-- SMBUS_LASTGASP_READ R499: An SMBus block read of command 0x11 or 0x12 returns the last-gasp registers. Operands: command 0x12 rather than 0x11 -/
  | smbusLastgaspRead (hi : Bool)
  /-- DBG_OPEN R500: DBG_OPEN returns a debug challenge for the requested scope. Operands: the message, its body -/
  | dbgOpen (e : ImmEnv) (body : List Byte)
  /-- DBG_AUTH R500: DBG_AUTH checks the response and opens the debug connection, raising DBG_CONNECT. Operands: the message, its body -/
  | dbgAuth (e : ImmEnv) (body : List Byte)
  /-- DBG_CHALLENGE_TIMEOUT R500: A challenge not answered within 10 s becomes void. -/
  | dbgChallengeTimeout
  /-- DBG_CLOSE R504: DBG_CLOSE ends the connection, resuming halted processors and clearing breakpoints. Operands: the message, its body -/
  | dbgClose (e : ImmEnv) (body : List Byte)
  /-- DBG_RD R502: DBG_RD reads system memory or registers through inspection aliases. Operands: the message, its body -/
  | dbgRd (e : ImmEnv) (body : List Byte)
  /-- DBG_WR R502: DBG_WR writes system memory or registers. Operands: the message, its body -/
  | dbgWr (e : ImmEnv) (body : List Byte)
  /-- DBG_RUN_HALT R503: DBG_RUN halt stops a processor at its next instruction boundary. Operands: the message, CORE of its body -/
  | dbgRunHalt (e : ImmEnv) (core : Byte)
  /-- DBG_RUN_RESUME R503: DBG_RUN resume restarts a halted processor. Operands: the message, CORE of its body -/
  | dbgRunResume (e : ImmEnv) (core : Byte)
  /-- DBG_RUN_STEP R503: DBG_RUN step executes one instruction and halts again. Operands: the message, CORE of its body -/
  | dbgRunStep (e : ImmEnv) (core : Byte)
  /-- DBG_RUN_STATUS R501: DBG_RUN status returns HALTED and PC. Operands: the message, CORE of its body -/
  | dbgRunStatus (e : ImmEnv) (core : Byte)
  /-- PROCESSOR_HALTED R503: The processor reaches its instruction boundary and HALTED sets. Operands: processor (0-3 service cores, 4 Timekeeper), what it executed before it stopped -/
  | processorHalted (k : Fin 5) (r : CpuRun)
  /-- DBG_CPU R503: DBG_CPU reads or writes a register of a halted processor. Operands: the message, its body -/
  | dbgCpu (e : ImmEnv) (body : List Byte)
  /-- DBG_BKPT R503: DBG_BKPT sets or clears one of four breakpoints. Operands: the message, its body -/
  | dbgBkpt (e : ImmEnv) (body : List Byte)
  /-- BREAKPOINT_HIT R503: An enabled breakpoint halts the processor before the instruction at ADDR. Operands: processor, breakpoint, what the processor executed before it -/
  | breakpointHit (k : Fin 5) (i : Fin 4) (r : CpuRun)
  /-- DEBUG_LOCK R504: Setting DBG.CTL.LOCK ends the debug connection and refuses DBG_OPEN until cold reset. Operands: requester -/
  | debugLock (q : Req)
  /-- CELLAR_PROGRAM R511: CEL.CMD PROGRAM writes one 64-bit word with verified pulses, suspending an erase if needed. Operands: requester of the CEL.CMD write (OP PROGRAM) with ADDR and WDATA as they stand -/
  | cellarProgram (q : Req)
  /-- CELLAR_ERASE R512: CEL.CMD ERASE erases one sector and verifies it. Operands: requester of the CEL.CMD write (OP ERASE) with ADDR as it stands -/
  | cellarErase (q : Req)
  /-- CELLAR_COMMAND_DONE R516: A program or erase ends; DONE sets, and a verification failure remaps the sector or lists it. Operands: bank, whether the verification passed -/
  | cellarCommandDone (b : Fin 4) (ok : Bool)
  /-- CELLAR_READ R514: A read of the Cellar window is served, suspending a bank's program or erase, subject to protection. -/
  | cellarRead
  /-- BANK_SUSPENDED R514: A bank's erase or program finishes suspending and the waiting work is served. Operands: bank -/
  | bankSuspended (b : Fin 4)
  /-- BANK_RESUME R514: A suspended operation resumes once nothing waits for the bank. Operands: bank -/
  | bankResume (b : Fin 4)
  /-- LOG_FLUSH R524: The Starter copies ring entries to the Cellar log within 10 ms or 1 s and reclaims sectors. Operands: audit rather than event log, entries to copy, whether the first meets a sector whose program ends with RESULT 0x1 -/
  | logFlush (aud : Bool) (n : Nat) (fails : Bool)
  /-- LOG_DEGRADED_REMINDER R527: In RAM_ONLY, LOG_DEGRADED is raised again every hour. -/
  | logDegradedReminder
  /-- CEL_OP_READ R528: CEL_OP READ returns bytes from a Cellar region under protection rules. Operands: the message, its body after the OP byte -/
  | celOpRead (e : ImmEnv) (body : List Byte)
  /-- CEL_OP_PROGRAM R528: CEL_OP PROGRAM programs words in a region, answered on acceptance. Operands: the message, its body after the OP byte -/
  | celOpProgram (e : ImmEnv) (body : List Byte)
  /-- CEL_OP_ERASE R528: CEL_OP ERASE erases one sector of a region. Operands: the message, its body after the OP byte -/
  | celOpErase (e : ImmEnv) (body : List Byte)
  /-- SET_LEVEL R520: CEL_OP SET_LEVEL raises the protection level, or starts a lowering with erase and cold reset. Operands: the message, its body after the OP byte -/
  | setLevel (e : ImmEnv) (body : List Byte)
  /-- BBT_READ R528: CEL_OP BBT_READ returns grown bad-block entries. Operands: the message, its body after the OP byte -/
  | bbtRead (e : ImmEnv) (body : List Byte)
  /-- CEL_OP_STATUS R528: CEL_OP STATUS returns the protection level and log state. Operands: the message, its body after the OP byte -/
  | celOpStatus (e : ImmEnv) (body : List Byte)
  /-- POWER_COMMAND R534: A PWR.CMD GO write starts KEEP or OFF entry, refused in forbidden modes or without XO32. Operands: requester, the word written to PWR.CMD (its GO is taken as 1) -/
  | powerCommand (q : Req) (w : Word)
  /-- POWER_ENTRY_PROCEED R535: After Cellar work and log flush end, DRAM, time bases and the core island shut down into KEEP or OFF. -/
  | powerEntryProceed
  /-- WAKE_EDGE R537: A wake latch sets in KEEP or OFF and starts the wake. Operands: source 832 + i -/
  | wakeEdge (i : Fin 128)
  /-- WAKE_TIMER_EXPIRY R537: The wake timer reaches WAKE_S and wakes the device. -/
  | wakeTimerExpiry
  /-- WAKE_POWER_GOOD R538: The core island reaches power good after a wake and the device enters BOOT. -/
  | wakePowerGood
  /-- RESET_N_EDGE R540: A filtered falling edge of RESET_N requests a cold reset. Operands: how long RESET_N stays low -/
  | resetNEdge (ns : Nat)
  /-- COLD_RESET_REQUEST R542: Writing PWR.RST_CTL.COLD requests a cold reset. Operands: requester -/
  | coldResetRequest (q : Req)
  /-- WARM_RESET_REQUEST R542: Writing PWR.RST_CTL.WARM requests a warm reset. Operands: requester -/
  | warmResetRequest (q : Req)
  /-- RESET_RELEASE R542: At tr the reset ends, the mode becomes BOOT and the Starter ROM runs. -/
  | resetRelease
  /-- KEY_WRITE R549: KEY_OP WRITE writes a key slot, deferred while the slot is in use. Operands: the message, its body after the OP byte -/
  | keyWrite (e : ImmEnv) (body : List Byte)
  /-- KEY_ERASE R549: KEY_OP ERASE erases a key slot, deferred while the slot is in use. Operands: the message, its body after the OP byte -/
  | keyErase (e : ImmEnv) (body : List Byte)
  /-- KEY_STATUS R549: KEY_OP STATUS returns the life-cycle state, slot fill and image key hashes. Operands: the message, its body after the OP byte -/
  | keyStatus (e : ImmEnv) (body : List Byte)
  /-- ADVANCE R545: KEY_OP ADVANCE moves the life-cycle state, refused unless the table allows it. Operands: the message, its body after the OP byte -/
  | advance (e : ImmEnv) (body : List Byte)
  /-- LIFE_CYCLE_FUSE_BLOWN R545: The fuse pair is blown; LCS_CHANGE is raised and a cold reset is ordered. -/
  | lifeCycleFuseBlown
  /-- KEY_DEFERRED_COMPLETE R550: A deferred key write or erase completes when the last user of the slot ends, raising KEY_DONE. Operands: key slot, by its KEY_STAT bit -/
  | keyDeferredComplete (k : Fin 9)
  /-- BIST_CMD_GO R551: A BIST.CMD GO write starts a memory self-test on a free controller. Operands: requester, controller, the word written to BIST.CMD (its GO is taken as 1) -/
  | bistCmdGo (q : Req) (k : Fin 4) (w : Word)
  /-- BIST_RUN_TEST R559: BIST_RUN RUN orders a memory self-test. Operands: the message, its body after the OP byte -/
  | bistRunTest (e : ImmEnv) (body : List Byte)
  /-- BIST_RUN_FUSE R557: BIST_RUN FUSE blows a memory's soft repairs into fuses. Operands: the message, its body after the OP byte -/
  | bistRunFuse (e : ImmEnv) (body : List Byte)
  /-- BIST_RUN_STATUS R559: BIST_RUN STATUS returns each controller's state and record. Operands: the message, its body after the OP byte -/
  | bistRunStatus (e : ImmEnv) (body : List Byte)
  /-- BIST_RUN_DEFECT_READ R558: BIST_RUN DEFECT_READ returns entries of the defect list. Operands: the message, its body after the OP byte -/
  | bistRunDefectRead (e : ImmEnv) (body : List Byte)
  /-- BIST_PHASE_DONE R197: A test phase (drain, save, test, pause) ends and the next begins. Operands: controller -/
  | bistPhaseDone (k : Fin 4)
  /-- BIST_DONE R555: The restore ends, READY returns and BIST_DONE carries the result record. Operands: controller, failing cells, first failing row and bit, time, failing rows and columns (bank, number), words restored as poisoned -/
  | bistDone (k : Fin 4) (fails : Nat) (addr : Nat) (bit : Nat) (us : Nat) (rows : List (Nat × Nat)) (cols : List (Nat × Nat)) (bad : List Nat)
  /-- BIST_FUSE_DONE R557: The repair fuses are blown and BIST_FUSE is raised. Operands: KIND, MEM -/
  | bistFuseDone (kind : Fin 3) (mem : Fin 16777216)
  /-- HIO_SUPPLY_OUT_OF_WINDOW R569: VCCIO leaves its window; outputs float, OUT_OFF sets and HIO_RANGE is raised. Operands: bank, its VCCIO in mV -/
  | hioSupplyOutOfWindow (b : Fin 12) (mv : Fin 4096)
  /-- HIO_OUTPUTS_RETURN R569: After 100 µs inside the window of a written RANGE the bank's outputs return. Operands: bank, its VCCIO in mV -/
  | hioOutputsReturn (b : Fin 12) (mv : Fin 4096)
  /-- RANGE_WRITE R569: A write of HIO.BANK_CTL.RANGE sets the bank voltage range. Operands: requester, bank, the word written to BANK_CTL -/
  | rangeWrite (q : Req) (b : Fin 12) (w : Word)
  /-- STRAP_CHANGE R568: A change of HIOPS takes effect on the bank pull within 1 µs. Operands: bank, strap (0 open, 1 GND, 2 VCC_KEEP) -/
  | strapChange (b : Fin 12) (p : Fin 3)
  /-- TAP_RESET R576: TRST_N or five TMS-high cycles reset the TAP with IDCODE current. -/
  | tapReset
  /-- EXTEST R577: EXTEST makes each ball with a cell take its boundary cell value. Operands: the cells shifted in -/
  | extest (load : List (Fin 1974 × Bool))
  /-- IDCODE R576: IDCODE selects the device identification register. -/
  | idcode
  /-- SAMPLE_PRELOAD R576: SAMPLE/PRELOAD samples or loads the boundary register. Operands: the cells shifted in -/
  | samplePreload (load : List (Fin 1974 × Bool))
  /-- BYPASS R576: BYPASS selects the one-bit bypass register. -/
  | bypass
  /-- REGISTER_WRITE R5: A write to a register without a row of its own sets its fields per access type, or answers SLVERR. Operands: requester, offset in the register window, bytes written, the word -/
  | registerWrite (q : Req) (off : BitVec 32) (n : Nat) (w : Word)
  /-- ACTIVE_CLOCK_EDGE R56: At an active edge of a cluster clock or a tile register clock, flip-flops take their next value, distributed RAMs write, SRLs shift and wire registers capture. Operands: the lines with an edge, with the outputs outside the state that are 1 -/
  | activeClockEdge (e : FabEdge)
  /-- ASYNCHRONOUS_SR R57: A rising asynchronous SR forces SRVAL within T_ARST independently of the clock and holds it while SR stays 1. Operands: tile, cluster, whether SR rises or falls, and whether its level comes from that operand or from the net that drives it -/
  | asynchronousSr (tile : Fin 57344) (c : Fin 8) (up : Bool) (src : PortSrc)
  /-- REGULATOR_BUCKET_FILL R318: A rate regulator's bucket fills on the microsecond tick, and a request stalled for want of tokens is sent once the bucket holds more than 0 bytes. Operands: regulator -/
  | regulatorBucketFill (r : Fin 256)
  /-- CONTINUOUS_ERROR_INJECTION R388: With CONT = 1 the lane inverts one transmitted bit each time 2^EXP bits have passed and increments INJ_CNT. Operands: lane -/
  | continuousErrorInjection (n : Fin 100)
  /-- XO32_LOSS R100: XO32 stops or leaves ±500 ppm, XO32_OK clears, and power commands for KEEP or OFF are refused from then on. -/
  | xo32Loss
  /-- XO32_RETURN R100: XO32 oscillates within ±500 ppm again and XO32_OK sets, allowing power commands and timed wake. -/
  | xo32Return
  /-- POISONED_WORD_LOAD R449: A processor load or fetch that reads a poisoned word from local RAM or a cache takes a precise access fault with merrinfo.POISON = 1. Operands: processor, its load or fetch -/
  | poisonedWordLoad (c : Fin 6) (x : CpuLoad)
deriving DecidableEq, Repr

end Sys2Proof
end

