-- ==== Sys2Proof/WellFormed.lean ====
section
/-! DEFINITION. The commands that can come: what the operands of a command must fit, beyond what their types say. exec gives
every command a meaning all the same; a command that is not well-formed is one that nothing outside the block can send. -/

namespace Sys2Proof

/-- R294, R258: a requester's initiator ID has 10 bits, and its rights are those of one of the 16 vats. -/
def reqOk (q : Req) : Bool := decide (q.id < 1024) && decide (q.vat < 16)

/-- R478: the MAC of a message has 16 bytes. -/
def envOk (e : ImmEnv) : Bool := e.mac.length == 16

/-- R478: a body has at most 1,460 bytes; `op` of them are spelled by the command itself. -/
def bodyOk (op : Nat) (body : List Byte) : Bool := decide (body.length + op ≤ 1460)

/-- R323: a span frame has at least its CRC word. -/
def wordsOk (ws : List Word) : Bool := !ws.isEmpty

/-- R299: a request touches at most the eight words of a line. -/
def upsetsOk (us : List (BitVec 72)) : Bool := decide (us.length ≤ 8)

/-- Bits of a frame, each named once. -/
def bitsOk (l : List (Fin 2072)) : Bool := decide l.Nodup

/-- A frame has at least one byte. -/
def frameOk (bs : List Byte) : Bool := !bs.isEmpty

/-- The operands of a command fit. -/
def wellFormed (i : Instr) : Bool :=
  match i with
  | .powerOnResetRelease => true
  | .supplyLeavesTolerance _ => true
  | .deferredWholeDeviceStart _ => true
  | .deferredTestStart _ => true
  | .deferredSwapStart _ _ => true
  | .refQualified _ => true
  | .refLoss _ => true
  | .coastSlewDone => true
  | .rootCoastTimer => true
  | .refWaitTimeout => true
  | .rootLoopLock => true
  | .rootSourceSwitch q _ => reqOk q
  | .rootSwitchDone => true
  | .relock q _ => reqOk q
  | .autoRelockTimer => true
  | .relockComplete => true
  | .dividerWrite q _ _ => reqOk q
  | .dividerTakesEffect => true
  | .foreignLineSourceWrite q _ _ _ => reqOk q
  | .foreignLineSwitchDone _ _ => true
  | .foreignSourceLoss _ _ _ => true
  | .oscConfigWrite q _ _ => reqOk q
  | .oscSettled _ => true
  | .blockClockIdleClose _ => true
  | .sectorGateOpen _ => true
  | .sliceNop _ => true
  | .sliceTap _ _ _ => true
  | .sliceMac _ _ _ _ => true
  | .sliceIn _ => true
  | .sliceOut _ => true
  | .sliceLda _ _ => true
  | .sliceLdc _ _ => true
  | .sliceCas _ => true
  | .sliceLoop _ => true
  | .sliceJmp _ _ _ => true
  | .sliceSetag _ => true
  | .sliceWait _ _ _ => true
  | .sliceHalt _ => true
  | .sliceSig _ => true
  | .illegalInstruction _ => true
  | .sliceStart _ _ => true
  | .trigInput _ _ => true
  | .xCapture _ _ _ _ => true
  | .yDeliver _ _ => true
  | .portPAccess _ _ _ _ _ _ => true
  | .portPSteal _ _ _ _ _ _ => true
  | .inspectionSteal _ _ _ => true
  | .sliceHaltRequest q _ => reqOk q
  | .sliceResume q _ => reqOk q
  | .sliceStep q _ => reqOk q
  | .inspectionStart q _ _ => reqOk q
  | .clearIllegal q _ => reqOk q
  | .bm36Read _ _ _ _ _ _ => true
  | .bm36FullWrite _ _ _ _ _ _ _ _ => true
  | .bm36NarrowWrite _ _ _ _ _ _ _ _ _ => true
  | .bm36Clear _ _ _ => true
  | .correctionWriteBack _ _ _ => true
  | .dmFabricRead _ _ _ cap _ _ _ => decide (1 ≤ cap)
  | .dmFabricWrite _ _ _ cap _ _ _ _ _ _ => decide (1 ≤ cap)
  | .dmDeferredServe _ cap => decide (1 ≤ cap)
  | .dmNocRequest _ us => upsetsOk us
  | .dmNocWaitExpiry _ us _ => upsetsOk us
  | .sectorPowerGood _ => true
  | .commitOpen q => reqOk q
  | .commitClose q => reqOk q
  | .commitCloseDone _ ups => (ups.all fun u => bitsOk u.2.2)
  | .activate q => reqOk q
  | .rollback q => reqOk q
  | .confirm q => reqOk q
  | .arm q => reqOk q
  | .disarm q => reqOk q
  | .invalidate q => reqOk q
  | .capture q => reqOk q
  | .loadComplete _ ups => (ups.all fun u => bitsOk u.2.2)
  | .confirmWindowExpiry _ => true
  | .expiryRollbackStart _ => true
  | .armCompareFire _ => true
  | .activationAssertion _ _ => true
  | .frameAccessRead q _ => reqOk q
  | .frameAccessWrite q _ => reqOk q
  | .frameAccessDone bits _ => bitsOk bits
  | .planeRepair _ _ => true
  | .starterFirmwareStart _ => true
  | .imgStage e body => envOk e && bodyOk 0 body
  | .imgCommit e body => envOk e && bodyOk 0 body
  | .imgStream e body => envOk e && bodyOk 0 body
  | .imgVerify e body => envOk e && bodyOk 0 body
  | .bootSet e body => envOk e && bodyOk 0 body
  | .headerRecord _ _ => true
  | .signatureRecord _ _ => true
  | .signatureVerified _ => true
  | .frameRecord _ _ => true
  | .frameZRecord _ _ => true
  | .repeatRecord _ _ => true
  | .zeroRunRecord _ _ => true
  | .meminitRecord _ _ => true
  | .endRecord _ _ => true
  | .imageSendTimeout => true
  | .stagingEraseReissue => true
  | .memoryInitStart _ _ => true
  | .memoryInitDone _ => true
  | .vatResetRequest q _ _ => reqOk q
  | .vatReleaseRequest q _ _ => reqOk q
  | .vatResetAssertion _ => true
  | .vatResetHoldExpiry _ => true
  | .vatRelease _ => true
  | .memoryFrameReload _ => true
  | .vatPowerGate q _ _ => reqOk q
  | .vatPowerUp q _ _ => reqOk q
  | .vatGatingDone _ => true
  | .resourceAssignWrite q _ _ _ => reqOk q
  | .moduleRegionEnable q _ _ _ => reqOk q
  | .moduleLoadRequest q _ _ => reqOk q
  | .moduleLoadStart _ => true
  | .moduleLoadDone _ => true
  | .moduleRegionRelease _ => true
  | .moduleLoadRestore _ => true
  | .moduleRestoreDone _ => true
  | .churnPassStart => true
  | .scrubRead _ bits => bitsOk bits
  | .correctionWrite _ _ left => bitsOk left
  | .restorePlaneRead _ bits => bitsOk bits
  | .restorationWrite _ _ left => bitsOk left
  | .churnPassComplete => true
  | .churnPassLate => true
  | .churnEnable q _ => reqOk q
  | .churnDisable q _ => reqOk q
  | .nocRequestIssue _ _ => true
  | .flitForward _ _ _ _ _ => true
  | .targetRequestArrival _ _ _ => true
  | .responseArrival _ _ _ => true
  | .initiatorTimeout _ _ _ => true
  | .quarantineExpiry _ _ => true
  | .mapEntryWrite q _ _ _ => reqOk q
  | .mapSync q => reqOk q
  | .mapSyncDone => true
  | .mapCacheRefresh _ => true
  | .regulatorBind q _ => reqOk q
  | .regulatorUnbind q _ => reqOk q
  | .spanPortEnable q _ _ => reqOk q
  | .spanPortDisable q _ _ => reqOk q
  | .spanInitFrame _ ws => wordsOk ws
  | .spanCtrlFrame _ ws => wordsOk ws
  | .spanFlitFrame _ ws _ => wordsOk ws
  | .spanFlitrFrame _ ws => wordsOk ws
  | .spanAckTimer _ => true
  | .spanReplayExpiry _ => true
  | .spanGatewayFlit => true
  | .dramAdmit _ => true
  | .dramRead _ _ _ => true
  | .dramWholeWrite _ _ => true
  | .dramPartialWrite _ _ _ => true
  | .refreshDue _ _ _ => true
  | .temperaturePoll _ _ => true
  | .neighbourRefresh _ _ _ => true
  | .readTimingTracking _ _ => true
  | .rowIdleClose _ _ => true
  | .channelInit q _ _ => reqOk q
  | .channelInitDone _ _ _ => true
  | .channelFill q _ _ => reqOk q
  | .rankFillDone _ _ => true
  | .migrationStart q _ _ => reqOk q
  | .migrationCopy _ _ _ => true
  | .migrationDone _ => true
  | .patrolRead _ _ _ _ => true
  | .selfRefreshEnter q _ _ => reqOk q
  | .selfRefreshExit q _ _ => reqOk q
  | .selfRefreshReached _ => true
  | .channelReady _ => true
  | .spareSubstitute q _ _ => reqOk q
  | .quadPllEnable q _ _ _ => reqOk q
  | .quadPllLock _ _ => true
  | .lanePllFail _ _ => true
  | .quadRefQualified _ => true
  | .quadRefLoss _ => true
  | .laneTxPowerSet q _ _ => reqOk q
  | .laneRxPowerSet q _ _ => reqOk q
  | .laneRateSet q _ _ _ _ => reqOk q
  | .laneLoopbackSet q _ _ => reqOk q
  | .txOnReached _ => true
  | .rxSignalDetect _ => true
  | .rxCdrLock _ => true
  | .rxLocked _ _ _ taps => decide (taps.length ≤ 12)
  | .rxLockLost _ => true
  | .rxSignalLost _ => true
  | .rxNoLock _ => true
  | .txPresetChange q _ _ _ => reqOk q
  | .recoveredClockDivider q _ _ => reqOk q
  | .prbsCheckerLock _ _ _ => true
  | .prbsCheckerBlock _ _ => true
  | .injectOnce q _ _ => reqOk q
  | .elasticBufferSlip _ => true
  | .portEnable q _ _ => reqOk q
  | .portDisable q _ _ => reqOk q
  | .linkUp _ => true
  | .linkDown _ _ _ => true
  | .rxFrame _ bs _ _ _ _ => frameOk bs
  | .rxFrameWrite _ => true
  | .txStreamFrame _ bs _ _ _ _ => frameOk bs
  | .queueEnable q _ _ => reqOk q
  | .queueDisable q _ _ => reqOk q
  | .queueDoorbell q _ _ => reqOk q
  | .queueStage _ => true
  | .timedLaunch _ _ => true
  | .lateTimedFrame _ => true
  | .txFrameDone _ _ => true
  | .pauseExpiry _ _ => true
  | .sendPause q _ _ => reqOk q
  | .queueResume q _ => reqOk q
  | .tclkSourceSelect q _ => reqOk q
  | .tclkLock => true
  | .trefQualified _ => true
  | .trefLoss _ => true
  | .tclkRelock => true
  | .tbSet q _ _ => reqOk q
  | .tbStep q _ _ => reqOk q
  | .tbSnap q _ _ => reqOk q
  | .rateUpdate q _ _ => reqOk q
  | .baseWatchdogExpiry _ => true
  | .cmpArm q _ _ => reqOk q
  | .cmpDisarm q _ _ => reqOk q
  | .cmpFire _ => true
  | .pulseEnable q _ _ => reqOk q
  | .pulseAssert _ => true
  | .pulseRelease _ => true
  | .captureEdge _ _ _ _ => true
  | .capturePop q _ => reqOk q
  | .tsqPop q _ => reqOk q
  | .coreRun q _ _ => reqOk q
  | .coreReset q _ _ => reqOk q
  | .interruptAssert _ _ => true
  | .fastInterruptEntry _ _ => true
  | .fret _ _ => true
  | .claim q _ => reqOk q
  | .complete q _ _ => reqOk q
  | .pendClear q _ _ => reqOk q
  | .softwareInterrupt q _ => reqOk q
  | .vclaim q _ => reqOk q
  | .vcomplete q _ _ => reqOk q
  | .wakeLatchEdge _ => true
  | .storeErrorResponse _ _ _ => true
  | .msterrClear _ => true
  | .scratchpadAccess _ us => upsetsOk us
  | .scratchpadLock q _ _ => reqOk q
  | .dmaGo q _ _ => reqOk q
  | .dmaStop q _ _ => reqOk q
  | .dmaDescriptorDone _ => true
  | .txdWrite _ _ _ => true
  | .rxdPop _ _ => true
  | .peripheralWordReceived _ _ => true
  | .peripheralTransferDone _ _ => true
  | .i2cTimeout _ => true
  | .mtimeCompare _ => true
  | .identify e body => envOk e && bodyOk 0 body
  | .sessionInit e body => envOk e && bodyOk 0 body
  | .sessionFinish e body => envOk e && bodyOk 0 body
  | .sessionClose e body => envOk e && bodyOk 0 body
  | .regRd e body => envOk e && bodyOk 0 body
  | .regWr e body => envOk e && bodyOk 0 body
  | .memRd e body => envOk e && bodyOk 0 body
  | .memWr e body => envOk e && bodyOk 0 body
  | .stats e body => envOk e && bodyOk 0 body
  | .planeOp e body => envOk e && bodyOk 0 body
  | .immVatReset e body => envOk e && bodyOk 0 body
  | .immReset e body => envOk e && bodyOk 0 body
  | .immPower e body => envOk e && bodyOk 0 body
  | .resetOrPowerAct => true
  | .logRead e body => envOk e && bodyOk 0 body
  | .immAck e => envOk e
  | .immRetransmitExpiry _ => true
  | .standaloneAckTimer _ => true
  | .sessionIdleTimeout _ => true
  | .refusalResponse _ => true
  | .eventSend _ => true
  | .eventsLostSend _ => true
  | .mpRateAlternate _ => true
  | .smbusStatusRead => true
  | .smbusLastgaspRead _ => true
  | .dbgOpen e body => envOk e && bodyOk 0 body
  | .dbgAuth e body => envOk e && bodyOk 0 body
  | .dbgChallengeTimeout => true
  | .dbgClose e body => envOk e && bodyOk 0 body
  | .dbgRd e body => envOk e && bodyOk 0 body
  | .dbgWr e body => envOk e && bodyOk 0 body
  | .dbgRunHalt e _ => envOk e
  | .dbgRunResume e _ => envOk e
  | .dbgRunStep e _ => envOk e
  | .dbgRunStatus e _ => envOk e
  | .processorHalted _ _ => true
  | .dbgCpu e body => envOk e && bodyOk 0 body
  | .dbgBkpt e body => envOk e && bodyOk 0 body
  | .breakpointHit _ _ _ => true
  | .debugLock q => reqOk q
  | .cellarProgram q => reqOk q
  | .cellarErase q => reqOk q
  | .cellarCommandDone _ _ => true
  | .cellarRead => true
  | .bankSuspended _ => true
  | .bankResume _ => true
  | .logFlush _ _ _ => true
  | .logDegradedReminder => true
  | .celOpRead e body => envOk e && bodyOk 1 body
  | .celOpProgram e body => envOk e && bodyOk 1 body
  | .celOpErase e body => envOk e && bodyOk 1 body
  | .setLevel e body => envOk e && bodyOk 1 body
  | .bbtRead e body => envOk e && bodyOk 1 body
  | .celOpStatus e body => envOk e && bodyOk 1 body
  | .powerCommand q _ => reqOk q
  | .powerEntryProceed => true
  | .wakeEdge _ => true
  | .wakeTimerExpiry => true
  | .wakePowerGood => true
  | .resetNEdge _ => true
  | .coldResetRequest q => reqOk q
  | .warmResetRequest q => reqOk q
  | .resetRelease => true
  | .keyWrite e body => envOk e && bodyOk 1 body
  | .keyErase e body => envOk e && bodyOk 1 body
  | .keyStatus e body => envOk e && bodyOk 1 body
  | .advance e body => envOk e && bodyOk 1 body
  | .lifeCycleFuseBlown => true
  | .keyDeferredComplete _ => true
  | .bistCmdGo q _ _ => reqOk q
  | .bistRunTest e body => envOk e && bodyOk 1 body
  | .bistRunFuse e body => envOk e && bodyOk 1 body
  | .bistRunStatus e body => envOk e && bodyOk 1 body
  | .bistRunDefectRead e body => envOk e && bodyOk 1 body
  | .bistPhaseDone _ => true
  | .bistDone _ _ addr bit us _ _ _ => decide (addr < 32768) && decide (bit < 72) && decide (us < 2 ^ 20)
  | .bistFuseDone _ _ => true
  | .hioSupplyOutOfWindow _ _ => true
  | .hioOutputsReturn _ _ => true
  | .rangeWrite q _ _ => reqOk q
  | .strapChange _ _ => true
  | .tapReset => true
  | .extest _ => true
  | .idcode => true
  | .samplePreload _ => true
  | .bypass => true
  | .registerWrite q off n _ => reqOk q && decide (off.toNat < 0x10000000) && decide (1 ≤ n) && decide (n ≤ 64)
  | .activeClockEdge _ => true
  | .asynchronousSr _ _ _ _ => true
  | .regulatorBucketFill _ => true
  | .continuousErrorInjection _ => true
  | .xo32Loss => true
  | .xo32Return => true
  | .poisonedWordLoad _ _ => true

end Sys2Proof
end

