-- ==== Sys2Proof/Decode.lean ====
section
/-! DEFINITION. Commands spelled by words. The block has no instruction encoding: spec/opcode_table.json gives none of its
rows any bits (every row's fields are empty), so no word spells a command. -/

namespace Sys2Proof

/-- The command a word of nbits bits spells by the table: none, as the table gives no row bits. -/
def decodeTableWord (_nbits _w : Nat) : Option Instr := none

end Sys2Proof
end

