-- ==== Sys2Proof/Machine/DramCode.lean ====
section
/-! DEFINITION. How a DRAM line is stored (R338 to R341): the Reed–Solomon code, XTS-AES-256 and AES-CMAC. The ciphers are those of
their standards (PRESUMED, notes/assumptions/45.md); where the symbols of a line stand in the code word is the model's choice
(notes/assumptions/84.md). -/

namespace Sys2Proof.Machine

/-! Binary fields: an element is a number below 2^n, `poly` the field polynomial with its leading term. -/

def gfDouble (n poly a : Nat) : Nat := if (2 * a).testBit n then 2 * a ^^^ poly else 2 * a

def gfMul (n poly a b : Nat) : Nat :=
  ((List.range n).foldl (fun (r : Nat × Nat) i => (if b.testBit i then r.1 ^^^ r.2 else r.1, gfDouble n poly r.2)) (0, a)).1

/-- The inverse, a ^ (2^n - 2); 0 for 0. -/
def gfInv (n poly a : Nat) : Nat :=
  ((List.range (n - 1)).foldl (fun (r : Nat × Nat) _ =>
    let q := gfMul n poly r.2 r.2
    (gfMul n poly r.1 q, q)) (1, a)).1

/-! The code (R339). -/

/-- R339: multiplication in GF(2^16). -/
def rsMul (a b : Nat) : Nat := gfMul 16 0x1100B a b
/-- α^k. -/
def rsPow : Nat → Nat
  | 0 => 1
  | k + 1 => gfDouble 16 0x1100B (rsPow k)
/-- The locator of symbol s: symbol 0 is the coefficient of x^39, symbol 39 that of x^0. -/
def rsLoc (s : Nat) : Nat := rsPow (39 - s)

/-- R339: the generator's coefficients below its leading one, the highest first: the product of x + α^i for i = 0 to 3. -/
def rsGen : List Nat :=
  ((List.range 4).foldl (fun (g : List Nat) i => List.zipWith (· ^^^ ·) (g ++ [0]) (0 :: g.map (rsMul (rsPow i)))) [1]).drop 1

/-- R339: the four check symbols of 36 information symbols: the remainder of division by the generator. -/
def rsCheck (info : List Nat) : List Nat :=
  info.foldl (fun (r : List Nat) m =>
    let f := m ^^^ r.headD 0
    List.zipWith (· ^^^ ·) (r.drop 1 ++ [0]) (rsGen.map (rsMul f))) [0, 0, 0, 0]

/-- The syndromes of 40 symbols: the values at α^0 to α^3. -/
def rsSyn (w : List Nat) : List Nat := (List.range 4).map fun k => w.foldl (fun a c => rsMul a (rsPow k) ^^^ c) 0

/-- The syndromes of errors (symbol, value). -/
def synOf (es : List (Nat × Nat)) : List Nat :=
  (List.range 4).map fun k => es.foldl (fun a e => a ^^^ rsMul e.2 ((List.range k).foldl (fun p _ => rsMul p (rsLoc e.1)) 1)) 0

/-- The errors in symbols i and j whose first two syndromes these are. -/
def twoErrors (s0 s1 i j : Nat) : List (Nat × Nat) :=
  let b := rsMul (s1 ^^^ rsMul s0 (rsLoc i)) (gfInv 16 0x1100B (rsLoc i ^^^ rsLoc j))
  [(i, s0 ^^^ b), (j, b)]

/-- R339: the error in up to two symbols that has these syndromes; none: uncorrectable. -/
def rsFind (syn : List Nat) : Option (List (Nat × Nat)) :=
  let s0 := syn.headD 0
  if syn.all (· == 0) then some []
  else match (List.range 40).find? fun i => synOf [(i, s0)] == syn with
    | some i => some [(i, s0)]
    | none =>
      let pairs := (List.range 40).flatMap fun i => (List.range i).map fun j => twoErrors s0 (syn.getD 1 0) i j
      pairs.find? fun es => synOf es == syn

/-- R339: what the decoder makes of a word that differs from a code word by an error: the error that is left, and whether it
corrected anything; none: it finds the word uncorrectable. An error in up to two symbols is corrected. -/
def rsLeft (e : List Nat) : Option (List Nat × Bool) :=
  let bad := e.filter (· != 0)
  if bad.length ≤ 2 then some (e.map fun _ => 0, !bad.isEmpty)
  else (rsFind (rsSyn e)).map fun fix =>
    (e.zipIdx.map fun p => (fix.filter (·.1 == p.2)).foldl (fun a x => a ^^^ x.2) p.1, !fix.isEmpty)

/-! AES-256 (FIPS 197) on 16 bytes, column by column. -/

def aesMul (a : Nat) (b : Byte) : Byte := BitVec.ofNat 8 (gfMul 8 0x11B b.toNat a)

def aesSub (b : Byte) : Byte :=
  let i : Byte := BitVec.ofNat 8 (gfInv 8 0x11B b.toNat)
  i ^^^ i.rotateLeft 1 ^^^ i.rotateLeft 2 ^^^ i.rotateLeft 3 ^^^ i.rotateLeft 4 ^^^ 0x63

def aesUnsub (b : Byte) : Byte :=
  BitVec.ofNat 8 (gfInv 8 0x11B (b.rotateLeft 1 ^^^ b.rotateLeft 3 ^^^ b.rotateLeft 6 ^^^ 0x05).toNat)

/-- The bytes of a block in another order. -/
def aesMove (f : Nat → Nat) (b : List Byte) : List Byte := (List.range 16).map fun i => b.getD (f i) 0
def aesShift (b : List Byte) : List Byte := aesMove (fun i => (i + 4 * (i % 4)) % 16) b
def aesUnshift (b : List Byte) : List Byte := aesMove (fun i => (i + 12 * (i % 4)) % 16) b

/-- Each column multiplied by the circulant matrix of four coefficients. -/
def aesMix (c : List Nat) (b : List Byte) : List Byte := (List.range 16).map fun i =>
  (List.range 4).foldl (fun (a : Byte) k => a ^^^ aesMul (c.getD k 0) (b.getD (i / 4 * 4 + (i + k) % 4) 0)) 0

def xorBytes (a b : List Byte) : List Byte := List.zipWith (· ^^^ ·) a b

/-- The 60 words of the key schedule of 32 key bytes. -/
def aesWords (key : List Byte) : List (List Byte) :=
  (List.range 52).foldl (fun (w : List (List Byte)) k =>
    let i := k + 8
    let t := w.getD (i - 1) []
    let t := if i % 8 = 0 then xorBytes ((t.drop 1 ++ t.take 1).map aesSub) [BitVec.ofNat 8 (2 ^ (i / 8 - 1)), 0, 0, 0]
      else if i % 8 = 4 then t.map aesSub else t
    w ++ [xorBytes (w.getD (i - 8) []) t]) ((List.range 8).map fun j => (key.drop (4 * j)).take 4)

/-- Round keys 0 to 14. -/
def aesKeys (key : List Byte) : List (List Byte) :=
  let w := aesWords key
  (List.range 15).map fun r => ((w.drop (4 * r)).take 4).flatten

def aesEnc (key b : List Byte) : List Byte :=
  let ks := aesKeys key
  let b := (List.range 13).foldl (fun b r => xorBytes (aesMix [2, 3, 1, 1] (aesShift (b.map aesSub))) (ks.getD (r + 1) []))
    (xorBytes b (ks.headD []))
  xorBytes (aesShift (b.map aesSub)) (ks.getD 14 [])

def aesDec (key b : List Byte) : List Byte :=
  let ks := aesKeys key
  let b := (List.range 13).foldl (fun b r => aesMix [14, 11, 13, 9] (xorBytes ((aesUnshift b).map aesUnsub) (ks.getD (13 - r) [])))
    (xorBytes b (ks.getD 14 []))
  xorBytes ((aesUnshift b).map aesUnsub) (ks.headD [])

/-! XTS-AES-256 (IEEE 1619) and AES-CMAC (SP 800-38B) of a line. -/

/-- R340: the four tweaks of a line, of its physical line address. -/
def xtsTweaks (k2 : List Byte) (line : Nat) : List Nat :=
  let t := leVal (aesEnc k2 (leBytes 16 line))
  let dbl := gfDouble 128 (2 ^ 128 + 0x87)
  [t, dbl t, dbl (dbl t), dbl (dbl (dbl t))]

/-- R340: a line through a block function, each block masked by its tweak before and after. -/
def xtsLine (f : List Byte → List Byte) (k2 : List Byte) (line : Nat) (d : BitVec 512) : BitVec 512 :=
  let bs := leBytes 64 d.toNat
  BitVec.ofNat 512 (leVal ((xtsTweaks k2 line).zipIdx.flatMap fun p =>
    let t := leBytes 16 p.1
    xorBytes (f (xorBytes ((bs.drop (16 * p.2)).take 16) t)) t))

/-- R341: the 56 bits of the MAC of a line's ciphertext. -/
def lineMac (k : List Byte) (line : Nat) (ct : BitVec 512) : Nat :=
  let l := beNum (aesEnc k (List.replicate 16 0))
  let sub := numBe 16 (gfDouble 128 (2 ^ 128 + 0x87) l)
  let bs := leBytes 64 ct.toNat
  let chain := fun (x b : List Byte) => aesEnc k (xorBytes x b)
  let x := (List.range 3).foldl (fun x j => chain x ((bs.drop (16 * j)).take 16)) (chain (List.replicate 16 0) (leBytes 16 line))
  beNum ((chain x (xorBytes (bs.drop 48) sub)).take 7)

/-! The stored line (R338). -/

/-- R338: a line's symbols without its check symbols: ciphertext, MAC, POISON and the reserved bits. -/
def lineInfo (ct : BitVec 512) (mac : Nat) (psn : Bool) : List Nat :=
  ((List.range 32).map fun i => ct.toNat / 2 ^ (16 * i) % 2 ^ 16)
    ++ (List.range 4).map fun i => (mac + psn.toNat * 2 ^ 56) / 2 ^ (16 * i) % 2 ^ 16

/-- R338: the 40 symbols of a stored line. -/
def lineWord (ct : BitVec 512) (mac : Nat) (psn : Bool) : List Nat :=
  let info := lineInfo ct mac psn
  info ++ rsCheck info

/-- R338: the ciphertext in 40 symbols. -/
def wordCt (w : List Nat) : BitVec 512 := BitVec.ofNat 512 ((w.take 32).foldr (fun x n => x + 2 ^ 16 * n) 0)
/-- R338: side bits [127:64] in 40 symbols. -/
def wordSide (w : List Nat) : Nat := ((w.drop 32).take 4).foldr (fun x n => x + 2 ^ 16 * n) 0
def wordMac (w : List Nat) : Nat := wordSide w % 2 ^ 56
def wordPsn (w : List Nat) : Bool := (wordSide w).testBit 56

/-- The error of a read as 40 symbols. -/
def errorWord (x : Sense) : List Nat :=
  (List.range 40).map fun s => (x.filter (·.1.val == s)).foldl (fun a e => a ^^^ e.2.toNat) 0

def xorWord (a b : List Nat) : List Nat := List.zipWith (· ^^^ ·) a b

end Sys2Proof.Machine
end

