-- ==== Sys2Proof/Config.lean ====
section
/-! DEFINITION. What the spec leaves to the part or leaves open: the speed grade, and the free values (notes/assumptions/2.md).
No constant here has a body, so no proof can use its value. -/

namespace Sys2Proof

/-- R1: the speed grade of the part. -/
inductive Grade where
  | g1 | g2 | g3
deriving DecidableEq, Repr, Inhabited

/-- R1: the speed grade the part was sold in. -/
opaque Config.grade : Grade
/-! The Frester device database gives the positions of the configuration bits that R579 does not name (R204); the model
leaves it open as functions of the frames that hold the configuration (notes/assumptions/20.md). -/

/-- R55: the configuration of one flip-flop: D select (0 LO0 or LO1, 1 BY, 2 LO0 for FF1), CE use, SR use, SRVAL, INIT,
USED. -/
structure FfCfg where
  dsel : Fin 3
  obeyCe : Bool
  obeySr : Bool
  srval : Bool
  ini : Bool
  used : Bool
deriving DecidableEq, Repr, Inhabited

/-- R46, R48: the configuration of one LE: mode code as R579 numbers the modes, mask (of a logic cluster), MUX7 and MUX8
use, and its flip-flops. -/
structure LeCfg where
  mode : Fin 8
  mask : BitVec 64
  mux7 : Bool
  mux8 : Bool
  ff0 : FfCfg
  ff1 : FfCfg
deriving DecidableEq, Repr, Inhabited

/-- R54: the configuration of a cluster: its clock line (0 to 7 FAB0 to FAB7, 8 to 15 the quadrant's foreign lines, none:
off) and the active edge, whether CE and SR come from routing, SR type and gating, the carry source of LE 0 (0 the chain
from below, 1 constant 0, 2 constant 1, 3 CX), the SRL cascade. -/
structure ClusterCfg where
  clk : Option (Fin 16)
  falling : Bool
  ceRouted : Bool
  srRouted : Bool
  srAsync : Bool
  srGated : Bool
  cxSel : Fin 4
  cascade : Bool
  les : List LeCfg
deriving DecidableEq, Repr, Inhabited

/-- R107: a wire register site: mode (0 BYPASS, 1 REG0, 2 REG1) and INIT. -/
structure SiteCfg where
  mode : Fin 3
  ini : Bool
deriving DecidableEq, Repr, Inhabited

/-- R107: a register clock of a tile: its line, none: off, and whether its RCE comes from routing. -/
structure RckCfg where
  clk : Option (Fin 16)
  rceRouted : Bool
deriving DecidableEq, Repr, Inhabited

/-- R105: a source a multiplexer of a tile switch box can select: output k (0 LO0, 1 LO1, 2 Q0, 3 Q1) of an LE or CXO of a
cluster of the tile, a segment that ends in the tile (numbered as Machine/Nets.lean says), an output of a hard-column port
beside the tile or of a hard block (block, signal). -/
inductive FabSrc where
  | out (c : Fin 8) (le : Fin 16) (k : Fin 4)
  | cxo (c : Fin 8)
  | seg (n : Nat)
  | port (key sig : Nat)
deriving DecidableEq, Repr

/-- The configuration a tile's three logic-and-routing frames hold for one of its clusters. -/
opaque Config.cluster : List Frame → Nat → ClusterCfg
/-- The configuration a tile's three frames hold for the wire register site of a segment that ends in it. -/
opaque Config.site : List Frame → Nat → SiteCfg
/-- The configuration a tile's three frames hold for its register clock 0 or 1. -/
opaque Config.rck : List Frame → Nat → RckCfg
/-- R105: what a tile's three frames select for the start of a segment (30 × direction + j), none: no source. -/
opaque Config.segSrc : List Frame → Nat → Option FabSrc
/-- R105: what a tile's three frames select for an input of a cluster (cluster, input): inputs 7l to 7l + 6 are A to F and BY
of LE l, 112 CE, 113 SR, 114 CX, 115 WE, 116 to 121 WA. -/
opaque Config.inSrc : List Frame → Nat → Nat → Option FabSrc
/-- R105, R107: what a tile's three frames select for RCE0 or RCE1. -/
opaque Config.rceSrc : List Frame → Nat → Option FabSrc
/-- R104, R105: what a tile's three frames select for an input of a hard-column port (block, signal). -/
opaque Config.portSrc : List Frame → Nat → Nat → Option FabSrc
/-- R104, R126, R167: where the database serves a signal of a hard-column port: east of its column, and which of the tile
rows beside it. -/
opaque Config.portAt : Nat → Nat → Bool × Nat
/-- R428: the FAB line that the shell's frames (those of quadrant 0) name for TIME_NOW of a vat. -/
opaque Config.timeLine : List Frame → Nat → Fin 8
/-- R396: the segments of a beat (the exponent of 1, 2 or 4) that the shell's frames (those of quadrant 0) name for a port's
stream. -/
opaque Config.streamSegs : List Frame → Nat → Fin 3
/-- R259: the clamp code that a quadrant's Rind frames hold for the cell of a crossing segment. -/
opaque Config.rind : List Frame → Nat → BitVec 2
/-- The value of a net that the spec leaves open: an input that selects no source (R105) or a combinational loop (R58): the
draw's number, the input or net. -/
opaque Config.openNet : Nat → Nat → Bool
/-- R57: whether a flip-flop whose asynchronous SR fell too near the edge takes SRVAL: the draw's number, the flip-flop. -/
opaque Config.nearSr : Nat → Nat → Bool
/-- R60: whether a release passes its synchroniser on the second edge: the draw's number, the synchroniser. -/
opaque Config.secondEdge : Nat → Nat → Bool
/-- R127: the configuration of a slice: its clock line (none: off), AUTOSTART, BASE, LEN, PTR and STEP of AG0 to AG3, P_EN,
P_STEAL, CAS_EN. -/
structure SliceCfg where
  clk : Option (Fin 16) := none
  autostart : Bool := false
  ag : List (Nat × Nat × Nat × Int) := []
  pEn : Bool := false
  pSteal : Nat := 0
  casEn : Bool := false
deriving DecidableEq, Repr, Inhabited

/-- R127: the clock of a slice is off. -/
def SliceCfg.clkOff (c : SliceCfg) : Bool := c.clk.isNone

/-- R165: the configuration of a BM36: the lines of CLKA and CLKB (none: off), ECC mode, port widths, RDW of the ports
(0 ECHO_NEW, 1 ECHO_OLD, 2 HOLD_LAST), REG_OUT of the ports, CORR_WB, CLR_EN. -/
structure BmCfg where
  clkA : Option (Fin 16) := none
  clkB : Option (Fin 16) := none
  regA : Bool := false
  regB : Bool := false
  ecc : Bool := true
  widthA : Nat := 64
  widthB : Nat := 64
  rdwA : Fin 3 := 0
  rdwB : Fin 3 := 0
  corrWb : Bool := false
  clrEn : Bool := false
deriving DecidableEq, Repr, Inhabited

/-- R165: the line of a port (true is B). -/
def BmCfg.clk (c : BmCfg) (pb : Bool) : Option (Fin 16) := if pb then c.clkB else c.clkA
/-- R173: both ports select the same line. -/
def BmCfg.oneClk (c : BmCfg) : Bool := c.clkA == c.clkB

/-- R166: the configuration of a DM: the FAB line of each port, NOC_EN, NOC_WAIT, CORR_WB, CLR_EN. -/
structure DmCfg where
  fabA : Option (Fin 8) := none
  fabB : Option (Fin 8) := none
  nocEn : Bool := false
  nocWait : Nat := 1
  corrWb : Bool := false
  clrEn : Bool := false
deriving DecidableEq, Repr, Inhabited

/-- The configuration a sector's frames 1,120 to 1,151 hold for one of its BM36, and for its DM. -/
opaque Config.bm36 : List Frame → Nat → BmCfg
opaque Config.dm : List Frame → DmCfg
/-- The configuration a sector's frames 1,120 to 1,151 hold for one of its slices (R127). -/
opaque Config.slice : List Frame → Nat → SliceCfg

/-- A free truth value; the argument is the draw's number. -/
opaque Config.freeBit : Nat → Bool
/-- A free number; the argument is the draw's number. -/
opaque Config.freeNat : Nat → Nat
/-- A free 32-bit word; the argument is the draw's number. -/
opaque Config.freeWord : Nat → Word
/-- A free line of 64 bytes; the argument is the draw's number. -/
opaque Config.freeLine : Nat → BitVec 512
/-- R342: the keys K1, K2 and K_M (0 to 2) of a draw from the random number generator, and what a random draw gives is open. -/
opaque Config.dramKey : Nat → Nat → BitVec 256

/-- What a Cellar word reads as while its sector is erased or it is programmed, or where a reset cut that short: the draw's
number and the word's number. -/
opaque Config.freeCell : Nat → Nat → BitVec 64
/-- The bytes of the information-area records whose layout the spec does not give: the number of updates, the word. -/
opaque Config.recordCell : Nat → Nat → BitVec 64

/-- R9, LCS.UID: the 128-bit identifier of the part. -/
opaque Config.uid : BitVec 128
/-- R557: the free repair fuse entries of the part at factory test. -/
opaque Config.fuseFree : Fin 4097
/-- R556: spare rows and columns a memory's factory fuse repairs use: KIND, MEM, bank. -/
opaque Config.factorySpares : Nat → Nat → Nat → Nat × Nat
/-- R567: the vat the shell image gives an HIO pin: the frames of its quadrant's shell, bank in the quadrant, pin
(notes/assumptions/20.md). -/
opaque Config.hioVat : List Frame → Nat → Nat → Fin 16
/-- R259: the Rind clamp code of an HIO pin: the Rind frames of its quadrant's shell, bank in the quadrant, pin. -/
opaque Config.hioClamp : List Frame → Nat → Nat → Fin 4
/-- R25, R204: the level an HIO pin drives as the image starts (0, 1, or 2 for none): the live frames, bank, pin. -/
opaque Config.hioInit : (Nat → Frame) → Nat → Nat → Fin 3
/-- R506: the address of a management port (MP_MAC). -/
opaque Config.mpMac : Nat → BitVec 48

/-- R480: the private part of the identity key, by the number of keys drawn since factory test. -/
opaque Config.idPriv : Nat → Nat
/-- R583: the identity certificate, DER-encoded, by the number of keys drawn since factory test. -/
opaque Config.cert : Nat → List Byte

end Sys2Proof
end

