-- ==== Sys2Proof/Machine/Tab.lean ====
section
/-! DEFINITION. The operations over sparse tables: read with the value an unlisted index reads as, write keeping the
canonical form, and the form itself. -/

namespace Sys2Proof.Machine

/-- What a table holds at an index: the listed value, or `d`. -/
def tget {α : Type} : Tab α → Nat → α → α
  | [], _, d => d
  | (j, v) :: t, k, d => if j = k then v else tget t k d

/-- The table without an index. -/
def tdel {α : Type} : Tab α → Nat → Tab α
  | [], _ => []
  | (j, v) :: t, k => if j = k then t else (j, v) :: tdel t k

/-- The table with an index set, kept in rising order. -/
def tins {α : Type} : Tab α → Nat → α → Tab α
  | [], k, x => [(k, x)]
  | (j, v) :: t, k, x =>
    if k < j then (k, x) :: (j, v) :: t else if j = k then (k, x) :: t else (j, v) :: tins t k x

/-- Write: writing what an unlisted index reads as removes the entry, so that equal tables are equal data. -/
def tput {α : Type} [DecidableEq α] (t : Tab α) (k : Nat) (x d : α) : Tab α :=
  if x = d then tdel t k else tins t k x

/-- The indices rise strictly, from a lower bound on. -/
def tsorted {α : Type} : Nat → Tab α → Bool
  | _, [] => true
  | n, (j, _) :: t => decide (n ≤ j) && tsorted (j + 1) t

/-- The canonical form: strictly rising indices and no entry equal to what the unlisted index reads as. -/
def twf {α : Type} [DecidableEq α] (dflt : Nat → α) (t : Tab α) : Bool :=
  tsorted 0 t && t.all fun p => decide (p.2 ≠ dflt p.1)

/-- Keep the entries whose index and value a test accepts. -/
def tfilter {α : Type} (p : Nat → α → Bool) (t : Tab α) : Tab α := t.filter fun x => p x.1 x.2

/-- Fill or copy a range: `f` gives the value of each of `n` indices from `k` on. -/
def tputs {α : Type} [DecidableEq α] (t : Tab α) (k : Nat) : List α → α → Tab α
  | [], _ => t
  | x :: xs, d => tputs (tput t k x d) (k + 1) xs d

/-- The values of `n` indices from `k` on. -/
def tgets {α : Type} (t : Tab α) (k : Nat) : Nat → α → List α
  | 0, _ => []
  | n + 1, d => tget t k d :: tgets t (k + 1) n d

end Sys2Proof.Machine
end

