-- ==== Sys2Proof/Machine/RegMap.lean ====
section
/-! DEFINITION. The register map: every register field the spec's field tables (and its prose registers) give, as a
named field (BLOCK.REGISTER.FIELD, spec chapter 00, "Registers"), every 48-bit counter (R10), and the table the bus
reads access types and reset values from. Offsets are relative to the device register window (R34, R38). -/

namespace Sys2Proof.Machine

/-- A bit field of a register: the register's offset in the register window, its highest and its lowest bit. -/
structure Fld where
  off : Nat
  hi : Nat
  lo : Nat
deriving DecidableEq, Repr

/-- The access types of R5. -/
inductive Acc where
  | ro | rw | w1c | w1s | wo | rc
deriving DecidableEq, Repr

/-- One row of a field table: bits, access type and reset value. -/
structure FldDesc where
  hi : Nat
  lo : Nat
  acc : Acc
  reset : Nat
deriving DecidableEq, Repr

/-- One register, or an array of registers of the same layout: each pair of `dims` is a stride and a count. -/
structure RegDesc where
  base : Nat
  dims : List (Nat × Nat)
  flds : List FldDesc
deriving DecidableEq, Repr

-- PWR (01_architecture)
def PWR.MODE_STAT.SWAPPING : Fld := ⟨0x10000, 31, 16⟩
def PWR.MODE_STAT.LOAD_PEND : Fld := ⟨0x10000, 9, 9⟩
def PWR.MODE_STAT.TEST_ACT : Fld := ⟨0x10000, 8, 8⟩
def PWR.MODE_STAT.PREV_MODE : Fld := ⟨0x10000, 7, 4⟩
def PWR.MODE_STAT.MODE : Fld := ⟨0x10000, 3, 0⟩
-- CLK (03_clock_root)
def CLK.ROOT_CTRL.AUTO_RELOCK : Fld := ⟨0x0, 7, 7⟩
def CLK.ROOT_CTRL.RELOCK : Fld := ⟨0x0, 6, 6⟩
def CLK.ROOT_CTRL.SRC : Fld := ⟨0x0, 0, 0⟩
def CLK.ROOT_STAT.XO32_OK : Fld := ⟨0x4, 7, 7⟩
def CLK.ROOT_STAT.IOSC_OK : Fld := ⟨0x4, 6, 6⟩
def CLK.ROOT_STAT.REFB_OK : Fld := ⟨0x4, 5, 5⟩
def CLK.ROOT_STAT.REF_OK : Fld := ⟨0x4, 4, 4⟩
def CLK.ROOT_STAT.SLEWING : Fld := ⟨0x4, 3, 3⟩
def CLK.ROOT_STAT.COAST : Fld := ⟨0x4, 2, 2⟩
def CLK.ROOT_STAT.LOCK : Fld := ⟨0x4, 1, 1⟩
def CLK.ROOT_STAT.SRC_ACT : Fld := ⟨0x4, 0, 0⟩
def CLK.SW_ERR.VALID : Fld := ⟨0x8, 31, 31⟩
def CLK.SW_ERR.TARGET : Fld := ⟨0x8, 15, 8⟩
def CLK.SW_ERR.CAUSE : Fld := ⟨0x8, 7, 0⟩
def CLK.COAST_CNT : Nat := 0x10
def CLK.REFLOSS_CNT : Nat := 0x18
def CLK.DIV.DIV_ACT (i : Nat) : Fld := ⟨0x100 + 0x4 * i, 15, 8⟩
def CLK.DIV.DIV (i : Nat) : Fld := ⟨0x100 + 0x4 * i, 7, 0⟩
def CLK.FCL.READY (i : Nat) (j : Nat) : Fld := ⟨0x200 + 0x20 * i + 0x4 * j, 31, 31⟩
def CLK.FCL.SWITCHING (i : Nat) (j : Nat) : Fld := ⟨0x200 + 0x20 * i + 0x4 * j, 30, 30⟩
def CLK.FCL.SRC_ACT (i : Nat) (j : Nat) : Fld := ⟨0x200 + 0x20 * i + 0x4 * j, 15, 8⟩
def CLK.FCL.SRC (i : Nat) (j : Nat) : Fld := ⟨0x200 + 0x20 * i + 0x4 * j, 7, 0⟩
def CLK.OSC.READY (i : Nat) : Fld := ⟨0x300 + 0x4 * i, 31, 31⟩
def CLK.OSC.EN (i : Nat) : Fld := ⟨0x300 + 0x4 * i, 8, 8⟩
def CLK.OSC.FREQ (i : Nat) : Fld := ⟨0x300 + 0x4 * i, 7, 0⟩
def CLK.GATE_FORCE.FORCE : Fld := ⟨0x400, 10, 0⟩
def CLK.GATE_STAT.RUN : Fld := ⟨0x404, 10, 0⟩
def CLK.GATE_IDLE.IDLE : Fld := ⟨0x408, 15, 0⟩
def CLK.SEC_ON.ON (i : Nat) : Fld := ⟨0x500 + 0x4 * i, 31, 0⟩
-- SLC (05_arithmetic_slices)
def SLC.CTL.STEP (i : Nat) : Fld := ⟨0xC000000 + 0x1000 * i, 2, 2⟩
def SLC.CTL.RESUME (i : Nat) : Fld := ⟨0xC000000 + 0x1000 * i, 1, 1⟩
def SLC.CTL.HALT (i : Nat) : Fld := ⟨0xC000000 + 0x1000 * i, 0, 0⟩
def SLC.STAT.STATE (i : Nat) : Fld := ⟨0xC000004 + 0x1000 * i, 31, 29⟩
def SLC.STAT.STALL (i : Nat) : Fld := ⟨0xC000004 + 0x1000 * i, 28, 26⟩
def SLC.STAT.LDEPTH (i : Nat) : Fld := ⟨0xC000004 + 0x1000 * i, 25, 24⟩
def SLC.STAT.PC (i : Nat) : Fld := ⟨0xC000004 + 0x1000 * i, 23, 18⟩
def SLC.STAT.XFILL (i : Nat) : Fld := ⟨0xC000004 + 0x1000 * i, 17, 16⟩
def SLC.STAT.YFILL (i : Nat) : Fld := ⟨0xC000004 + 0x1000 * i, 15, 14⟩
def SLC.STAT.TRIGL (i : Nat) : Fld := ⟨0xC000004 + 0x1000 * i, 13, 13⟩
def SLC.STAT.FP1 (i : Nat) : Fld := ⟨0xC000004 + 0x1000 * i, 12, 12⟩
def SLC.STAT.FP0 (i : Nat) : Fld := ⟨0xC000004 + 0x1000 * i, 11, 11⟩
def SLC.STAT.POIS1 (i : Nat) : Fld := ⟨0xC000004 + 0x1000 * i, 10, 10⟩
def SLC.STAT.POIS0 (i : Nat) : Fld := ⟨0xC000004 + 0x1000 * i, 9, 9⟩
def SLC.STAT.COUTP (i : Nat) : Fld := ⟨0xC000004 + 0x1000 * i, 8, 8⟩
def SLC.FLAGS.ILLEGAL (i : Nat) : Fld := ⟨0xC000008 + 0x1000 * i, 9, 9⟩
def SLC.FLAGS.PAR (i : Nat) : Fld := ⟨0xC000008 + 0x1000 * i, 8, 8⟩
def SLC.FLAGS.COLL (i : Nat) : Fld := ⟨0xC000008 + 0x1000 * i, 7, 7⟩
def SLC.FLAGS.OSATF (i : Nat) : Fld := ⟨0xC000008 + 0x1000 * i, 6, 6⟩
def SLC.FLAGS.UF (i : Nat) : Fld := ⟨0xC000008 + 0x1000 * i, 5, 5⟩
def SLC.FLAGS.OF (i : Nat) : Fld := ⟨0xC000008 + 0x1000 * i, 4, 4⟩
def SLC.FLAGS.NV (i : Nat) : Fld := ⟨0xC000008 + 0x1000 * i, 3, 3⟩
def SLC.FLAGS.OVF1 (i : Nat) : Fld := ⟨0xC000008 + 0x1000 * i, 2, 2⟩
def SLC.FLAGS.OVF0 (i : Nat) : Fld := ⟨0xC000008 + 0x1000 * i, 1, 1⟩
def SLC.LOOP.ACTIVE (i : Nat) (j : Nat) : Fld := ⟨0xC00000C + 0x1000 * i + 0x4 * j, 31, 31⟩
def SLC.LOOP.START (i : Nat) (j : Nat) : Fld := ⟨0xC00000C + 0x1000 * i + 0x4 * j, 27, 22⟩
def SLC.LOOP.END (i : Nat) (j : Nat) : Fld := ⟨0xC00000C + 0x1000 * i + 0x4 * j, 21, 16⟩
def SLC.LOOP.LEFT (i : Nat) (j : Nat) : Fld := ⟨0xC00000C + 0x1000 * i + 0x4 * j, 15, 0⟩
def SLC.ACC0_LO.V (i : Nat) : Fld := ⟨0xC000018 + 0x1000 * i, 31, 0⟩
def SLC.ACC0_HI.V (i : Nat) : Fld := ⟨0xC00001C + 0x1000 * i, 31, 0⟩
def SLC.ACC1_LO.V (i : Nat) : Fld := ⟨0xC000020 + 0x1000 * i, 31, 0⟩
def SLC.ACC1_HI.V (i : Nat) : Fld := ⟨0xC000024 + 0x1000 * i, 31, 0⟩
def SLC.COUT_LO.V (i : Nat) : Fld := ⟨0xC000028 + 0x1000 * i, 31, 0⟩
def SLC.COUT_HI.V (i : Nat) : Fld := ⟨0xC00002C + 0x1000 * i, 31, 0⟩
def SLC.AG_P.BASE (i : Nat) (j : Nat) : Fld := ⟨0xC000030 + 0x1000 * i + 0x8 * j, 25, 16⟩
def SLC.AG_P.PTR (i : Nat) (j : Nat) : Fld := ⟨0xC000030 + 0x1000 * i + 0x8 * j, 9, 0⟩
def SLC.AG_L.STEP (i : Nat) (j : Nat) : Fld := ⟨0xC000034 + 0x1000 * i + 0x8 * j, 26, 16⟩
def SLC.AG_L.LEN (i : Nat) (j : Nat) : Fld := ⟨0xC000034 + 0x1000 * i + 0x8 * j, 10, 0⟩
def SLC.INSP_CTL.BUSY (i : Nat) : Fld := ⟨0xC000050 + 0x1000 * i, 31, 31⟩
def SLC.INSP_CTL.WRITE (i : Nat) : Fld := ⟨0xC000050 + 0x1000 * i, 30, 30⟩
def SLC.INSP_CTL.TGT (i : Nat) : Fld := ⟨0xC000050 + 0x1000 * i, 29, 29⟩
def SLC.INSP_CTL.ADDR (i : Nat) : Fld := ⟨0xC000050 + 0x1000 * i, 9, 0⟩
def SLC.INSP_LO.D (i : Nat) : Fld := ⟨0xC000054 + 0x1000 * i, 31, 0⟩
def SLC.INSP_HI.PARERR (i : Nat) : Fld := ⟨0xC000058 + 0x1000 * i, 5, 5⟩
def SLC.INSP_HI.POISON (i : Nat) : Fld := ⟨0xC000058 + 0x1000 * i, 4, 4⟩
def SLC.INSP_HI.DHI (i : Nat) : Fld := ⟨0xC000058 + 0x1000 * i, 3, 0⟩
def SLC.STALL_CNT (i : Nat) : Nat := 0xC000060 + 0x1000 * i
def SLC.PAR_CNT (i : Nat) : Nat := 0xC000068 + 0x1000 * i
def SLC.COLL_CNT (i : Nat) : Nat := 0xC000070 + 0x1000 * i
def SLC.ERR_SUM.B (i : Nat) : Fld := ⟨0xFF00000 + 0x4 * i, 31, 0⟩
-- CFG (07_configuration_planes)
def CFG.OP.CODE : Fld := ⟨0x100000, 3, 0⟩
def CFG.OP_VATS.VATS : Fld := ⟨0x100004, 15, 0⟩
def CFG.OP_STAT.BUSY : Fld := ⟨0x100008, 31, 31⟩
def CFG.OP_STAT.CLOSE_FAIL : Fld := ⟨0x100008, 30, 30⟩
def CFG.OP_STAT.VAT : Fld := ⟨0x100008, 19, 16⟩
def CFG.OP_STAT.RESULT : Fld := ⟨0x100008, 7, 0⟩
def CFG.OP_ARG.TAG : Fld := ⟨0x10000C, 31, 0⟩
def CFG.CLOSE_N.N : Fld := ⟨0x100010, 17, 0⟩
def CFG.ACT_CNT : Nat := 0x100020
def CFG.RB_CNT : Nat := 0x100028
def CFG.PCORR_CNT : Nat := 0x100030
def CFG.PUNC_CNT : Nat := 0x100038
def CFG.FW_CTL.BUSY : Fld := ⟨0x100100, 31, 31⟩
def CFG.FW_CTL.RESULT : Fld := ⟨0x100100, 30, 28⟩
def CFG.FW_CTL.TARGET : Fld := ⟨0x100100, 6, 4⟩
def CFG.FW_CTL.READ : Fld := ⟨0x100100, 1, 1⟩
def CFG.FW_CTL.GO : Fld := ⟨0x100100, 0, 0⟩
def CFG.FW_FAR.FAR : Fld := ⟨0x100104, 31, 0⟩
def CFG.FW_DATA.D (i : Nat) : Fld := ⟨0x100200 + 0x4 * i, 31, 0⟩
def CFG.FW_CHECK.C : Fld := ⟨0x100300, 23, 0⟩
def CFG.ROLE.STATE (i : Nat) : Fld := ⟨0x101000 + 0x40 * i, 31, 28⟩
def CFG.ROLE.ARMED (i : Nat) : Fld := ⟨0x101000 + 0x40 * i, 7, 7⟩
def CFG.ROLE.VOLATILE (i : Nat) : Fld := ⟨0x101000 + 0x40 * i, 6, 6⟩
def CFG.ROLE.UNCONF (i : Nat) : Fld := ⟨0x101000 + 0x40 * i, 5, 5⟩
def CFG.ROLE.VALID_B (i : Nat) : Fld := ⟨0x101000 + 0x40 * i, 4, 4⟩
def CFG.ROLE.VALID_A (i : Nat) : Fld := ⟨0x101000 + 0x40 * i, 3, 3⟩
def CFG.ROLE.CUR (i : Nat) : Fld := ⟨0x101000 + 0x40 * i, 0, 0⟩
def CFG.VER_A.TAG (i : Nat) : Fld := ⟨0x101004 + 0x40 * i, 31, 0⟩
def CFG.VER_B.TAG (i : Nat) : Fld := ⟨0x101008 + 0x40 * i, 31, 0⟩
def CFG.WIN.MS (i : Nat) : Fld := ⟨0x10100C + 0x40 * i, 15, 0⟩
def CFG.WIN_LEFT.US (i : Nat) : Fld := ⟨0x101010 + 0x40 * i, 25, 0⟩
def CFG.ARM_CTL.VATS (i : Nat) : Fld := ⟨0x101014 + 0x40 * i, 31, 16⟩
def CFG.ARM_CTL.ARMED (i : Nat) : Fld := ⟨0x101014 + 0x40 * i, 15, 15⟩
def CFG.ARM_CTL.TB (i : Nat) : Fld := ⟨0x101014 + 0x40 * i, 2, 0⟩
def CFG.ARM_SEC_LO.SEC (i : Nat) : Fld := ⟨0x101018 + 0x40 * i, 31, 0⟩
def CFG.ARM_SEC_HI.SEC (i : Nat) : Fld := ⟨0x10101C + 0x40 * i, 15, 0⟩
def CFG.ARM_NS.NS (i : Nat) : Fld := ⟨0x101020 + 0x40 * i, 29, 0⟩
def CFG.LATE.VALID (i : Nat) : Fld := ⟨0x101024 + 0x40 * i, 31, 31⟩
def CFG.LATE.DELAY_NS (i : Nat) : Fld := ⟨0x101024 + 0x40 * i, 30, 0⟩
def CFG.FRAME_STAT.EVEN (i : Nat) : Fld := ⟨0x180000 + 0x4 * i, 15, 0⟩
def CFG.FRAME_STAT.ODD (i : Nat) : Fld := ⟨0x180000 + 0x4 * i, 31, 16⟩
def CFG.IMG_STAT.CSTATE : Fld := ⟨0x100040, 31, 28⟩
def CFG.IMG_STAT.SRC : Fld := ⟨0x100040, 27, 24⟩
def CFG.IMG_STAT.REASON : Fld := ⟨0x100040, 23, 16⟩
def CFG.IMG_STAT.INIT_VAT : Fld := ⟨0x100040, 7, 4⟩
def CFG.IMG_STAT.INIT_BUSY : Fld := ⟨0x100040, 3, 3⟩
def CFG.IMG_REC.OFF : Fld := ⟨0x100044, 31, 0⟩
def CFG.IMG_REJ_CNT : Nat := 0x100048
def CFG.IMG_RETRY_CNT : Nat := 0x100050
-- VAT (09_vats)
def VAT.MAP.S3 (i : Nat) : Fld := ⟨0x200000 + 0x4 * i, 31, 24⟩
def VAT.MAP.S2 (i : Nat) : Fld := ⟨0x200000 + 0x4 * i, 23, 16⟩
def VAT.MAP.S1 (i : Nat) : Fld := ⟨0x200000 + 0x4 * i, 15, 8⟩
def VAT.MAP.S0 (i : Nat) : Fld := ⟨0x200000 + 0x4 * i, 7, 0⟩
def VAT.DEF.DEF : Fld := ⟨0x200100, 15, 0⟩
def VAT.VAT_CTRL.QHOLD (i : Nat) : Fld := ⟨0x201000 + 0x100 * i, 4, 4⟩
def VAT.VAT_CTRL.PWR_GATE (i : Nat) : Fld := ⟨0x201000 + 0x100 * i, 3, 3⟩
def VAT.VAT_CTRL.CLEAR_MEM (i : Nat) : Fld := ⟨0x201000 + 0x100 * i, 2, 2⟩
def VAT.VAT_CTRL.RESET (i : Nat) : Fld := ⟨0x201000 + 0x100 * i, 0, 0⟩
def VAT.VAT_STAT.SECTORS (i : Nat) : Fld := ⟨0x201004 + 0x100 * i, 23, 16⟩
def VAT.VAT_STAT.FAILED (i : Nat) : Fld := ⟨0x201004 + 0x100 * i, 7, 7⟩
def VAT.VAT_STAT.GATED (i : Nat) : Fld := ⟨0x201004 + 0x100 * i, 6, 6⟩
def VAT.VAT_STAT.INIT_PEND (i : Nat) : Fld := ⟨0x201004 + 0x100 * i, 5, 5⟩
def VAT.VAT_STAT.MLOADING (i : Nat) : Fld := ⟨0x201004 + 0x100 * i, 4, 4⟩
def VAT.VAT_STAT.SWAPPING (i : Nat) : Fld := ⟨0x201004 + 0x100 * i, 3, 3⟩
def VAT.VAT_STAT.CLAMPED (i : Nat) : Fld := ⟨0x201004 + 0x100 * i, 2, 2⟩
def VAT.VAT_STAT.IN_RESET (i : Nat) : Fld := ⟨0x201004 + 0x100 * i, 1, 1⟩
def VAT.VAT_STAT.DEFINED (i : Nat) : Fld := ⟨0x201004 + 0x100 * i, 0, 0⟩
def VAT.OWN.DELIV (i : Nat) : Fld := ⟨0x201008 + 0x100 * i, 16, 16⟩
def VAT.OWN.GUEST (i : Nat) : Fld := ⟨0x201008 + 0x100 * i, 15, 8⟩
def VAT.OWN.OWNER (i : Nat) : Fld := ⟨0x201008 + 0x100 * i, 1, 0⟩
def VAT.PERM.VAT (i : Nat) : Fld := ⟨0x20100C + 0x100 * i, 9, 9⟩
def VAT.PERM.HIO (i : Nat) : Fld := ⟨0x20100C + 0x100 * i, 8, 8⟩
def VAT.PERM.IRQ (i : Nat) : Fld := ⟨0x20100C + 0x100 * i, 7, 7⟩
def VAT.PERM.SVC (i : Nat) : Fld := ⟨0x20100C + 0x100 * i, 6, 6⟩
def VAT.PERM.DMA (i : Nat) : Fld := ⟨0x20100C + 0x100 * i, 5, 5⟩
def VAT.PERM.TIME (i : Nat) : Fld := ⟨0x20100C + 0x100 * i, 4, 4⟩
def VAT.PERM.QM (i : Nat) : Fld := ⟨0x20100C + 0x100 * i, 3, 3⟩
def VAT.PERM.FEN (i : Nat) : Fld := ⟨0x20100C + 0x100 * i, 2, 2⟩
def VAT.PERM.LANE (i : Nat) : Fld := ⟨0x20100C + 0x100 * i, 1, 1⟩
def VAT.PERM.SLC (i : Nat) : Fld := ⟨0x20100C + 0x100 * i, 0, 0⟩
def VAT.NOCREG.CNT (i : Nat) : Fld := ⟨0x201010 + 0x100 * i, 24, 16⟩
def VAT.NOCREG.BASE (i : Nat) : Fld := ⟨0x201010 + 0x100 * i, 7, 0⟩
def VAT.QBASE.BASE (i : Nat) : Fld := ⟨0x201014 + 0x100 * i, 15, 0⟩
def VAT.QCNT.CNT (i : Nat) : Fld := ⟨0x201018 + 0x100 * i, 16, 0⟩
def VAT.LLANE_LO.MAP (i : Nat) : Fld := ⟨0x20101C + 0x100 * i, 31, 0⟩
def VAT.LLANE_HI.MAP (i : Nat) : Fld := ⟨0x201020 + 0x100 * i, 31, 0⟩
def VAT.SLANE.MAP (i : Nat) : Fld := ⟨0x201024 + 0x100 * i, 31, 0⟩
def VAT.DRAMW.WEIGHT (i : Nat) : Fld := ⟨0x201028 + 0x100 * i, 7, 0⟩
def VAT.TBIND.TB (i : Nat) : Fld := ⟨0x20102C + 0x100 * i, 2, 0⟩
def VAT.RESET_CNT (i : Nat) : Nat := 0x201080 + 0x100 * i
def VAT.IRQ_DISC_CNT (i : Nat) : Nat := 0x201088 + 0x100 * i
def VAT.RSP_DISC_CNT (i : Nat) : Nat := 0x201090 + 0x100 * i
def VAT.MREG.Y1 (i : Nat) (j : Nat) : Fld := ⟨0x201040 + 0x100 * i + 0x4 * j, 31, 24⟩
def VAT.MREG.Y0 (i : Nat) (j : Nat) : Fld := ⟨0x201040 + 0x100 * i + 0x4 * j, 23, 16⟩
def VAT.MREG.X1 (i : Nat) (j : Nat) : Fld := ⟨0x201040 + 0x100 * i + 0x4 * j, 15, 8⟩
def VAT.MREG.X0 (i : Nat) (j : Nat) : Fld := ⟨0x201040 + 0x100 * i + 0x4 * j, 7, 0⟩
def VAT.MREG_EN.EN (i : Nat) : Fld := ⟨0x201050 + 0x100 * i, 3, 0⟩
def VAT.MLOAD_ADDR_LO.A (i : Nat) : Fld := ⟨0x201060 + 0x100 * i, 31, 0⟩
def VAT.MLOAD_ADDR_HI.A (i : Nat) : Fld := ⟨0x201064 + 0x100 * i, 31, 0⟩
def VAT.MLOAD_LEN.LEN (i : Nat) : Fld := ⟨0x201068 + 0x100 * i, 25, 0⟩
def VAT.MLOAD_CTL.IRQ (i : Nat) : Fld := ⟨0x20106C + 0x100 * i, 8, 8⟩
def VAT.MLOAD_CTL.REGION (i : Nat) : Fld := ⟨0x20106C + 0x100 * i, 5, 4⟩
def VAT.MLOAD_CTL.GO (i : Nat) : Fld := ⟨0x20106C + 0x100 * i, 0, 0⟩
def VAT.MLOAD_STAT.BUSY (i : Nat) : Fld := ⟨0x201070 + 0x100 * i, 31, 31⟩
def VAT.MLOAD_STAT.HOLD (i : Nat) : Fld := ⟨0x201070 + 0x100 * i, 30, 30⟩
def VAT.MLOAD_STAT.RESULT (i : Nat) : Fld := ⟨0x201070 + 0x100 * i, 27, 24⟩
def VAT.MLOAD_STAT.REASON (i : Nat) : Fld := ⟨0x201070 + 0x100 * i, 23, 16⟩
def VAT.MLOAD_STAT.FRAMES (i : Nat) : Fld := ⟨0x201070 + 0x100 * i, 12, 0⟩
def VAT.CLAMP_SEC_LO.SEC (i : Nat) : Fld := ⟨0x201030 + 0x100 * i, 31, 0⟩
def VAT.CLAMP_SEC_HI.FRAC (i : Nat) : Fld := ⟨0x201034 + 0x100 * i, 21, 16⟩
def VAT.CLAMP_SEC_HI.SEC (i : Nat) : Fld := ⟨0x201034 + 0x100 * i, 15, 0⟩
def VAT.CLAMP_NS.NS (i : Nat) : Fld := ⟨0x201038 + 0x100 * i, 29, 0⟩
-- CHURN (10_churn)
def CHURN.CTL.REPORT_CORR : Fld := ⟨0x300000, 7, 7⟩
def CHURN.CTL.PER : Fld := ⟨0x300000, 3, 2⟩
def CHURN.CTL.EN : Fld := ⟨0x300000, 0, 0⟩
def CHURN.STAT.ACTIVE : Fld := ⟨0x300004, 31, 31⟩
def CHURN.STAT.PAUSED : Fld := ⟨0x300004, 30, 30⟩
def CHURN.STAT.LATE : Fld := ⟨0x300004, 29, 29⟩
def CHURN.STAT.UNREST_ANY : Fld := ⟨0x300004, 28, 28⟩
def CHURN.POS.QH (i : Nat) : Fld := ⟨0x300008 + 0x4 * i, 31, 16⟩
def CHURN.POS.QL (i : Nat) : Fld := ⟨0x300008 + 0x4 * i, 15, 0⟩
def CHURN.LAST.KIND : Fld := ⟨0x300010, 31, 28⟩
def CHURN.LAST.N : Fld := ⟨0x300010, 17, 0⟩
def CHURN.LAST_BIT.BIT : Fld := ⟨0x300014, 11, 0⟩
def CHURN.PASS_CNT : Nat := 0x300100
def CHURN.CORR1_CNT : Nat := 0x300108
def CHURN.CORR2_CNT : Nat := 0x300110
def CHURN.RESTORE_CNT : Nat := 0x300118
def CHURN.UNREST_CNT : Nat := 0x300120
def CHURN.SKIP_CNT : Nat := 0x300128
def CHURN.LATE_CNT : Nat := 0x300130
def CHURN.CORR_CNTv (i : Nat) : Nat := 0x301000 + 0x40 * i
def CHURN.RESTORE_CNTv (i : Nat) : Nat := 0x301008 + 0x40 * i
def CHURN.UNREST_CNTv (i : Nat) : Nat := 0x301010 + 0x40 * i
-- NOC (11_noc_and_span)
def NOC.MAP_SYNC.BUSY : Fld := ⟨0x1000010, 31, 31⟩
def NOC.MAP_SYNC.GO : Fld := ⟨0x1000010, 0, 0⟩
def NOC.HDR_ERR_CNT : Nat := 0x1000020
def NOC.MAP_LO.BASE (i : Nat) : Fld := ⟨0x1001000 + 0x10 * i, 31, 6⟩
def NOC.MAP_HI.BASE (i : Nat) : Fld := ⟨0x1001004 + 0x10 * i, 9, 0⟩
def NOC.MAP_CTL.VALID (i : Nat) : Fld := ⟨0x1001008 + 0x10 * i, 31, 31⟩
def NOC.MAP_CTL.SIZE (i : Nat) : Fld := ⟨0x1001008 + 0x10 * i, 21, 16⟩
def NOC.MAP_CTL.VATS (i : Nat) : Fld := ⟨0x1001008 + 0x10 * i, 15, 0⟩
def NOC.MAP_TGT.KIND (i : Nat) : Fld := ⟨0x100100C + 0x10 * i, 15, 14⟩
def NOC.MAP_TGT.INTLV (i : Nat) : Fld := ⟨0x100100C + 0x10 * i, 13, 12⟩
def NOC.MAP_TGT.ROW (i : Nat) : Fld := ⟨0x100100C + 0x10 * i, 11, 8⟩
def NOC.MAP_TGT.COL (i : Nat) : Fld := ⟨0x100100C + 0x10 * i, 7, 4⟩
def NOC.MAP_TGT.PORT (i : Nat) : Fld := ⟨0x100100C + 0x10 * i, 1, 0⟩
def NOC.REG_CFG.UNLIM (i : Nat) : Fld := ⟨0x1020000 + 0x10 * i, 31, 31⟩
def NOC.REG_CFG.BURST (i : Nat) : Fld := ⟨0x1020000 + 0x10 * i, 27, 16⟩
def NOC.REG_CFG.RATE (i : Nat) : Fld := ⟨0x1020000 + 0x10 * i, 15, 0⟩
def NOC.REG_STAT.SHARED (i : Nat) : Fld := ⟨0x1020004 + 0x10 * i, 31, 31⟩
def NOC.REG_STAT.ZERO (i : Nat) : Fld := ⟨0x1020004 + 0x10 * i, 30, 30⟩
def NOC.REG_STAT.BOUND (i : Nat) : Fld := ⟨0x1020004 + 0x10 * i, 10, 0⟩
def NOC.INIT_CFG.BIND (i : Nat) : Fld := ⟨0x1040000 + 0x100 * i, 31, 31⟩
def NOC.INIT_CFG.SHARED (i : Nat) : Fld := ⟨0x1040000 + 0x100 * i, 30, 30⟩
def NOC.INIT_CFG.REG (i : Nat) : Fld := ⟨0x1040000 + 0x100 * i, 7, 0⟩
def NOC.INIT_TMO.TMO (i : Nat) : Fld := ⟨0x1040004 + 0x100 * i, 19, 0⟩
def NOC.INIT_STAT.STALL_TAG (i : Nat) : Fld := ⟨0x1040008 + 0x100 * i, 31, 31⟩
def NOC.INIT_STAT.STALL_REG (i : Nat) : Fld := ⟨0x1040008 + 0x100 * i, 30, 30⟩
def NOC.INIT_STAT.QUAR (i : Nat) : Fld := ⟨0x1040008 + 0x100 * i, 26, 16⟩
def NOC.INIT_STAT.OUT (i : Nat) : Fld := ⟨0x1040008 + 0x100 * i, 10, 0⟩
def NOC.LAT_MAX.MAX (i : Nat) : Fld := ⟨0x104000C + 0x100 * i, 31, 0⟩
def NOC.RD_CNT (i : Nat) : Nat := 0x1040010 + 0x100 * i
def NOC.WR_CNT (i : Nat) : Nat := 0x1040018 + 0x100 * i
def NOC.RD_BYTES (i : Nat) : Nat := 0x1040020 + 0x100 * i
def NOC.WR_BYTES (i : Nat) : Nat := 0x1040028 + 0x100 * i
def NOC.LAT_SUM (i : Nat) : Nat := 0x1040030 + 0x100 * i
def NOC.TMO_CNT (i : Nat) : Nat := 0x1040038 + 0x100 * i
def NOC.LATE_CNT (i : Nat) : Nat := 0x1040040 + 0x100 * i
def NOC.ERR_CNT (i : Nat) : Nat := 0x1040048 + 0x100 * i
def NOC.RSTALL_CNT (i : Nat) : Nat := 0x1040050 + 0x100 * i
def NOC.TSTALL_CNT (i : Nat) : Nat := 0x1040058 + 0x100 * i
def NOC.RT_CNT (i : Nat) : Nat := 0x1040060 + 0x100 * i
-- SPAN (11_noc_and_span)
def SPAN.DEVNUM.NUM : Fld := ⟨0x1100000, 11, 0⟩
def SPAN.PORT_CTL.EN (i : Nat) : Fld := ⟨0x1101000 + 0x100 * i, 31, 31⟩
def SPAN.PORT_CTL.REMOTE_EN (i : Nat) : Fld := ⟨0x1101000 + 0x100 * i, 30, 30⟩
def SPAN.PORT_CTL.VAT (i : Nat) : Fld := ⟨0x1101000 + 0x100 * i, 25, 22⟩
def SPAN.PORT_CTL.WIDTH (i : Nat) : Fld := ⟨0x1101000 + 0x100 * i, 21, 20⟩
def SPAN.PORT_CTL.REPLAY (i : Nat) : Fld := ⟨0x1101000 + 0x100 * i, 15, 0⟩
def SPAN.PORT_STAT.UP (i : Nat) : Fld := ⟨0x1101004 + 0x100 * i, 31, 31⟩
def SPAN.PORT_STAT.TRAINING (i : Nat) : Fld := ⟨0x1101004 + 0x100 * i, 30, 30⟩
def SPAN.PORT_STAT.PEER (i : Nat) : Fld := ⟨0x1101004 + 0x100 * i, 27, 16⟩
def SPAN.PORT_STAT.UNACKED (i : Nat) : Fld := ⟨0x1101004 + 0x100 * i, 10, 0⟩
def SPAN.TX_CNT (i : Nat) : Nat := 0x1101010 + 0x100 * i
def SPAN.RX_CNT (i : Nat) : Nat := 0x1101018 + 0x100 * i
def SPAN.CRC_CNT (i : Nat) : Nat := 0x1101020 + 0x100 * i
def SPAN.DUP_CNT (i : Nat) : Nat := 0x1101028 + 0x100 * i
def SPAN.OOS_CNT (i : Nat) : Nat := 0x1101030 + 0x100 * i
def SPAN.REPLAY_CNT (i : Nat) : Nat := 0x1101038 + 0x100 * i
def SPAN.DOWN_CNT (i : Nat) : Nat := 0x1101040 + 0x100 * i
def SPAN.DISC_CNT (i : Nat) : Nat := 0x1101048 + 0x100 * i
def SPAN.HOP_CNT (i : Nat) : Nat := 0x1101050 + 0x100 * i
def SPAN.RT.VALID (i : Nat) : Fld := ⟨0x1200000 + 0x4 * i, 31, 31⟩
def SPAN.RT.PORT (i : Nat) : Fld := ⟨0x1200000 + 0x4 * i, 1, 0⟩
-- DDR (12_dram)
def DDR.GEOM.CHANS : Fld := ⟨0x2080000, 31, 30⟩
def DDR.GEOM.DRANKS : Fld := ⟨0x2080000, 29, 28⟩
def DDR.GEOM.SPARE : Fld := ⟨0x2080000, 27, 27⟩
def DDR.GEOM.DEVW : Fld := ⟨0x2080000, 26, 26⟩
def DDR.GEOM.DENS : Fld := ⟨0x2080000, 25, 25⟩
def DDR.GEOM.RDIMM : Fld := ⟨0x2080000, 24, 24⟩
def DDR.CAP.GIB : Fld := ⟨0x2080004, 10, 0⟩
def DDR.KEY.KEPT : Fld := ⟨0x2080008, 31, 31⟩
def DDR.KEY.EPOCH : Fld := ⟨0x2080008, 15, 0⟩
def DDR.CH_CTL.INIT (i : Nat) : Fld := ⟨0x2000000 + 0x10000 * i, 31, 31⟩
def DDR.CH_CTL.FILL (i : Nat) : Fld := ⟨0x2000000 + 0x10000 * i, 30, 30⟩
def DDR.CH_CTL.MIG_GO (i : Nat) : Fld := ⟨0x2000000 + 0x10000 * i, 29, 29⟩
def DDR.CH_CTL.SR (i : Nat) : Fld := ⟨0x2000000 + 0x10000 * i, 25, 25⟩
def DDR.CH_CTL.AUTO_MIG (i : Nat) : Fld := ⟨0x2000000 + 0x10000 * i, 24, 24⟩
def DDR.CH_CTL.PATROL (i : Nat) : Fld := ⟨0x2000000 + 0x10000 * i, 23, 16⟩
def DDR.CH_CTL.MIG_W (i : Nat) : Fld := ⟨0x2000000 + 0x10000 * i, 15, 8⟩
def DDR.CH_CTL.REF_SB (i : Nat) : Fld := ⟨0x2000000 + 0x10000 * i, 0, 0⟩
def DDR.CH_STAT.STATE (i : Nat) : Fld := ⟨0x2000004 + 0x10000 * i, 31, 28⟩
def DDR.CH_STAT.FILLED (i : Nat) : Fld := ⟨0x2000004 + 0x10000 * i, 27, 24⟩
def DDR.CH_STAT.TRAIN_FAIL (i : Nat) : Fld := ⟨0x2000004 + 0x10000 * i, 23, 20⟩
def DDR.CH_STAT.FAULTED (i : Nat) : Fld := ⟨0x2000004 + 0x10000 * i, 19, 16⟩
def DDR.CH_STAT.HOT (i : Nat) : Fld := ⟨0x2000004 + 0x10000 * i, 15, 15⟩
def DDR.CH_STAT.STORE (i : Nat) : Fld := ⟨0x2000004 + 0x10000 * i, 8, 0⟩
def DDR.REF.POSTPONE_MAX (i : Nat) : Fld := ⟨0x2000008 + 0x10000 * i, 31, 28⟩
def DDR.REF.PEND (i : Nat) : Fld := ⟨0x2000008 + 0x10000 * i, 27, 24⟩
def DDR.REF.REFI_NS (i : Nat) : Fld := ⟨0x2000008 + 0x10000 * i, 15, 0⟩
def DDR.SPARE.STATE (i : Nat) : Fld := ⟨0x200000C + 0x10000 * i, 31, 30⟩
def DDR.SPARE.SUBST (i : Nat) : Fld := ⟨0x200000C + 0x10000 * i, 29, 29⟩
def DDR.SPARE.EXHAUSTED (i : Nat) : Fld := ⟨0x200000C + 0x10000 * i, 28, 28⟩
def DDR.SPARE.SRC (i : Nat) : Fld := ⟨0x200000C + 0x10000 * i, 27, 26⟩
def DDR.SPARE.SPR (i : Nat) : Fld := ⟨0x200000C + 0x10000 * i, 25, 24⟩
def DDR.MIG_PTR.LINES (i : Nat) : Fld := ⟨0x2000010 + 0x10000 * i, 29, 0⟩
def DDR.CE_THR.THR (i : Nat) : Fld := ⟨0x2000014 + 0x10000 * i, 15, 0⟩
def DDR.PNR.DRFM (i : Nat) : Fld := ⟨0x2000018 + 0x10000 * i, 31, 31⟩
def DDR.PNR.P (i : Nat) : Fld := ⟨0x2000018 + 0x10000 * i, 11, 0⟩
def DDR.TSET.T (i : Nat) (j : Nat) (k : Nat) : Fld := ⟨0x2000100 + 0x10000 * i + 0x80 * j + 0x4 * k, 11, 0⟩
def DDR.RD_CNT (i : Nat) : Nat := 0x2000300 + 0x10000 * i
def DDR.WR_CNT (i : Nat) : Nat := 0x2000308 + 0x10000 * i
def DDR.PART_CNT (i : Nat) : Nat := 0x2000310 + 0x10000 * i
def DDR.WB_CNT (i : Nat) : Nat := 0x2000318 + 0x10000 * i
def DDR.POSTP_CNT (i : Nat) : Nat := 0x2000320 + 0x10000 * i
def DDR.FORCED_CNT (i : Nat) : Nat := 0x2000328 + 0x10000 * i
def DDR.PNR_CNT (i : Nat) : Nat := 0x2000330 + 0x10000 * i
def DDR.CE_CNT (i : Nat) (j : Nat) : Nat := 0x2000400 + 0x10000 * i + 0x40 * j
def DDR.UE_CNT (i : Nat) (j : Nat) : Nat := 0x2000408 + 0x10000 * i + 0x40 * j
def DDR.MAC_CNT (i : Nat) (j : Nat) : Nat := 0x2000410 + 0x10000 * i + 0x40 * j
def DDR.PSN_CNT (i : Nat) (j : Nat) : Nat := 0x2000418 + 0x10000 * i + 0x40 * j
def DDR.LN_CNT (i : Nat) (j : Nat) : Nat := 0x2000800 + 0x10000 * i + 0x8 * j
-- LANE (13_lanes)
def LANE.CTL.TX_PWR (i : Nat) : Fld := ⟨0x3000000 + 0x1000 * i, 31, 30⟩
def LANE.CTL.RX_PWR (i : Nat) : Fld := ⟨0x3000000 + 0x1000 * i, 29, 28⟩
def LANE.CTL.PLL (i : Nat) : Fld := ⟨0x3000000 + 0x1000 * i, 27, 27⟩
def LANE.CTL.MOD (i : Nat) : Fld := ⟨0x3000000 + 0x1000 * i, 26, 26⟩
def LANE.CTL.DIV (i : Nat) : Fld := ⟨0x3000000 + 0x1000 * i, 23, 16⟩
def LANE.CTL.LOOP (i : Nat) : Fld := ⟨0x3000000 + 0x1000 * i, 15, 14⟩
def LANE.CTL.TX_INV (i : Nat) : Fld := ⟨0x3000000 + 0x1000 * i, 13, 13⟩
def LANE.CTL.RX_INV (i : Nat) : Fld := ⟨0x3000000 + 0x1000 * i, 12, 12⟩
def LANE.CTL.TX_PRE (i : Nat) : Fld := ⟨0x3000000 + 0x1000 * i, 11, 11⟩
def LANE.CTL.RX_PRE (i : Nat) : Fld := ⟨0x3000000 + 0x1000 * i, 10, 10⟩
def LANE.CTL.RCDIV (i : Nat) : Fld := ⟨0x3000000 + 0x1000 * i, 3, 0⟩
def LANE.STAT.RX_STATE (i : Nat) : Fld := ⟨0x3000004 + 0x1000 * i, 31, 29⟩
def LANE.STAT.TX_STATE (i : Nat) : Fld := ⟨0x3000004 + 0x1000 * i, 28, 27⟩
def LANE.STAT.PLL_LOCK (i : Nat) : Fld := ⟨0x3000004 + 0x1000 * i, 26, 26⟩
def LANE.STAT.REF_OK (i : Nat) : Fld := ⟨0x3000004 + 0x1000 * i, 25, 25⟩
def LANE.STAT.SIGDET (i : Nat) : Fld := ⟨0x3000004 + 0x1000 * i, 24, 24⟩
def LANE.STAT.NOLOCK (i : Nat) : Fld := ⟨0x3000004 + 0x1000 * i, 23, 23⟩
def LANE.STAT.SNR (i : Nat) : Fld := ⟨0x3000004 + 0x1000 * i, 7, 0⟩
def LANE.TX_EQ.PRESET (i : Nat) : Fld := ⟨0x3000008 + 0x1000 * i, 31, 28⟩
def LANE.TX_EQ.AMP (i : Nat) : Fld := ⟨0x3000008 + 0x1000 * i, 27, 24⟩
def LANE.TX_FIR.C_M2 (i : Nat) : Fld := ⟨0x300000C + 0x1000 * i, 31, 24⟩
def LANE.TX_FIR.C_M1 (i : Nat) : Fld := ⟨0x300000C + 0x1000 * i, 23, 16⟩
def LANE.TX_FIR.C_0 (i : Nat) : Fld := ⟨0x300000C + 0x1000 * i, 15, 8⟩
def LANE.TX_FIR.C_P1 (i : Nat) : Fld := ⟨0x300000C + 0x1000 * i, 7, 0⟩
def LANE.RX_CTL.FREEZE (i : Nat) : Fld := ⟨0x3000010 + 0x1000 * i, 31, 31⟩
def LANE.RX_CTL.HINT_EN (i : Nat) : Fld := ⟨0x3000010 + 0x1000 * i, 30, 30⟩
def LANE.RX_CTL.CTLE_HINT (i : Nat) : Fld := ⟨0x3000010 + 0x1000 * i, 24, 20⟩
def LANE.RX_CTL.SNR_MIN (i : Nat) : Fld := ⟨0x3000010 + 0x1000 * i, 7, 0⟩
def LANE.RX_CTLE.CODE (i : Nat) : Fld := ⟨0x3000014 + 0x1000 * i, 4, 0⟩
def LANE.RX_DFE.TAP (i : Nat) (j : Nat) : Fld := ⟨0x3000040 + 0x1000 * i + 0x4 * j, 7, 0⟩
def LANE.PRBS_CTL.TX_EN (i : Nat) : Fld := ⟨0x3000020 + 0x1000 * i, 31, 31⟩
def LANE.PRBS_CTL.TX_PAT (i : Nat) : Fld := ⟨0x3000020 + 0x1000 * i, 30, 27⟩
def LANE.PRBS_CTL.CHK_EN (i : Nat) : Fld := ⟨0x3000020 + 0x1000 * i, 26, 26⟩
def LANE.PRBS_CTL.CHK_PAT (i : Nat) : Fld := ⟨0x3000020 + 0x1000 * i, 25, 22⟩
def LANE.PRBS_CTL.UPAT_LEN (i : Nat) : Fld := ⟨0x3000020 + 0x1000 * i, 7, 0⟩
def LANE.PRBS_STAT.LOCK (i : Nat) : Fld := ⟨0x3000024 + 0x1000 * i, 31, 31⟩
def LANE.PRBS_STAT.LOST (i : Nat) : Fld := ⟨0x3000024 + 0x1000 * i, 30, 30⟩
def LANE.INJ_CTL.ONCE (i : Nat) : Fld := ⟨0x3000028 + 0x1000 * i, 31, 31⟩
def LANE.INJ_CTL.CONT (i : Nat) : Fld := ⟨0x3000028 + 0x1000 * i, 30, 30⟩
def LANE.INJ_CTL.EXP (i : Nat) : Fld := ⟨0x3000028 + 0x1000 * i, 29, 24⟩
def LANE.UPAT.P (i : Nat) (j : Nat) : Fld := ⟨0x3000030 + 0x1000 * i + 0x4 * j, 31, 0⟩
def LANE.IRQ_EN.SLIP (i : Nat) : Fld := ⟨0x3000070 + 0x1000 * i, 5, 5⟩
def LANE.IRQ_EN.PRBS_LOST (i : Nat) : Fld := ⟨0x3000070 + 0x1000 * i, 4, 4⟩
def LANE.IRQ_EN.REF_LOSS (i : Nat) : Fld := ⟨0x3000070 + 0x1000 * i, 3, 3⟩
def LANE.IRQ_EN.NOLOCK (i : Nat) : Fld := ⟨0x3000070 + 0x1000 * i, 2, 2⟩
def LANE.IRQ_EN.LOCKED (i : Nat) : Fld := ⟨0x3000070 + 0x1000 * i, 1, 1⟩
def LANE.IRQ_EN.LOCK_LOST (i : Nat) : Fld := ⟨0x3000070 + 0x1000 * i, 0, 0⟩
def LANE.IRQ_STAT.SLIP (i : Nat) : Fld := ⟨0x3000074 + 0x1000 * i, 5, 5⟩
def LANE.IRQ_STAT.PRBS_LOST (i : Nat) : Fld := ⟨0x3000074 + 0x1000 * i, 4, 4⟩
def LANE.IRQ_STAT.REF_LOSS (i : Nat) : Fld := ⟨0x3000074 + 0x1000 * i, 3, 3⟩
def LANE.IRQ_STAT.NOLOCK (i : Nat) : Fld := ⟨0x3000074 + 0x1000 * i, 2, 2⟩
def LANE.IRQ_STAT.LOCKED (i : Nat) : Fld := ⟨0x3000074 + 0x1000 * i, 1, 1⟩
def LANE.IRQ_STAT.LOCK_LOST (i : Nat) : Fld := ⟨0x3000074 + 0x1000 * i, 0, 0⟩
def LANE.LOCKLOSS_CNT (i : Nat) : Nat := 0x3000100 + 0x1000 * i
def LANE.SIGLOSS_CNT (i : Nat) : Nat := 0x3000108 + 0x1000 * i
def LANE.PRBS_BLK_CNT (i : Nat) : Nat := 0x3000110 + 0x1000 * i
def LANE.PRBS_ERR_CNT (i : Nat) : Nat := 0x3000118 + 0x1000 * i
def LANE.PRBS_LOSS_CNT (i : Nat) : Nat := 0x3000120 + 0x1000 * i
def LANE.INJ_CNT (i : Nat) : Nat := 0x3000128 + 0x1000 * i
def LANE.SLIP_CNT (i : Nat) : Nat := 0x3000130 + 0x1000 * i
def LANE.QPLL.EN (i : Nat) (j : Nat) : Fld := ⟨0x3000800 + 0x4000 * i + 0x4 * j, 31, 31⟩
def LANE.QPLL.LOCK (i : Nat) (j : Nat) : Fld := ⟨0x3000800 + 0x4000 * i + 0x4 * j, 30, 30⟩
def LANE.QPLL.N (i : Nat) (j : Nat) : Fld := ⟨0x3000800 + 0x4000 * i + 0x4 * j, 9, 0⟩
def LANE.QREF.REF_OK (i : Nat) : Fld := ⟨0x3000810 + 0x4000 * i, 31, 31⟩
def LANE.QREF.SEL (i : Nat) : Fld := ⟨0x3000810 + 0x4000 * i, 21, 20⟩
def LANE.QREF.FREF_KHZ (i : Nat) : Fld := ⟨0x3000810 + 0x4000 * i, 17, 0⟩
def LANE.REFLOSS_CNT (i : Nat) : Nat := 0x3000820 + 0x4000 * i
-- FEN (14_frame_engines)
def FEN.PORT_CTL.EN (i : Nat) : Fld := ⟨0x4000000 + 0x1000 * i, 31, 31⟩
def FEN.PORT_CTL.DOWN_DROP (i : Nat) : Fld := ⟨0x4000000 + 0x1000 * i, 30, 30⟩
def FEN.PORT_CTL.TX_SRC (i : Nat) : Fld := ⟨0x4000000 + 0x1000 * i, 29, 28⟩
def FEN.PORT_CTL.RX_MODE (i : Nat) : Fld := ⟨0x4000000 + 0x1000 * i, 27, 27⟩
def FEN.PORT_CTL.FEC25 (i : Nat) : Fld := ⟨0x4000000 + 0x1000 * i, 26, 26⟩
def FEN.PORT_CTL.MODE (i : Nat) : Fld := ⟨0x4000000 + 0x1000 * i, 23, 20⟩
def FEN.PORT_CTL.MAXLEN (i : Nat) : Fld := ⟨0x4000000 + 0x1000 * i, 19, 6⟩
def FEN.PORT_STAT.LINK (i : Nat) : Fld := ⟨0x4000004 + 0x1000 * i, 31, 31⟩
def FEN.PORT_STAT.LFAULT (i : Nat) : Fld := ⟨0x4000004 + 0x1000 * i, 30, 30⟩
def FEN.PORT_STAT.RFAULT (i : Nat) : Fld := ⟨0x4000004 + 0x1000 * i, 29, 29⟩
def FEN.PORT_STAT.PAUSED (i : Nat) : Fld := ⟨0x4000004 + 0x1000 * i, 28, 28⟩
def FEN.PORT_STAT.FC_HELD (i : Nat) : Fld := ⟨0x4000004 + 0x1000 * i, 27, 27⟩
def FEN.PORT_STAT.STORE (i : Nat) : Fld := ⟨0x4000004 + 0x1000 * i, 10, 0⟩
def FEN.RX_CFG.STRIP (i : Nat) : Fld := ⟨0x4000008 + 0x1000 * i, 31, 31⟩
def FEN.RX_CFG.BADFCS (i : Nat) : Fld := ⟨0x4000008 + 0x1000 * i, 30, 30⟩
def FEN.RX_CFG.VLAN_CLS (i : Nat) : Fld := ⟨0x4000008 + 0x1000 * i, 29, 29⟩
def FEN.RX_CFG.PTPQ_EN (i : Nat) : Fld := ⟨0x4000008 + 0x1000 * i, 28, 28⟩
def FEN.RX_CFG.DEFCLS (i : Nat) : Fld := ⟨0x4000008 + 0x1000 * i, 27, 25⟩
def FEN.RX_Q.PTP_Q (i : Nat) : Fld := ⟨0x400000C + 0x1000 * i, 31, 16⟩
def FEN.RX_Q.QBASE (i : Nat) : Fld := ⟨0x400000C + 0x1000 * i, 15, 0⟩
def FEN.TX_CFG.FAB_CLS (i : Nat) : Fld := ⟨0x4000010 + 0x1000 * i, 26, 24⟩
def FEN.TX_CFG.LEAD (i : Nat) : Fld := ⟨0x4000010 + 0x1000 * i, 6, 0⟩
def FEN.FC_CTL.RX_EN (i : Nat) : Fld := ⟨0x4000014 + 0x1000 * i, 31, 31⟩
def FEN.FC_TX.SEND (i : Nat) : Fld := ⟨0x4000018 + 0x1000 * i, 31, 31⟩
def FEN.FC_TX.PFC (i : Nat) : Fld := ⟨0x4000018 + 0x1000 * i, 30, 30⟩
def FEN.FC_TX.CLASSES (i : Nat) : Fld := ⟨0x4000018 + 0x1000 * i, 23, 16⟩
def FEN.FC_TX.QUANTA (i : Nat) : Fld := ⟨0x4000018 + 0x1000 * i, 15, 0⟩
-- QM (14_frame_engines)
def QM.QCFG.EN (i : Nat) : Fld := ⟨0x4900000 + 0x20 * i, 31, 31⟩
def QM.QCFG.DIR (i : Nat) : Fld := ⟨0x4900000 + 0x20 * i, 30, 30⟩
def QM.QCFG.WB (i : Nat) : Fld := ⟨0x4900000 + 0x20 * i, 29, 29⟩
def QM.QCFG.LATE_DROP (i : Nat) : Fld := ⟨0x4900000 + 0x20 * i, 28, 28⟩
def QM.QCFG.CLASS (i : Nat) : Fld := ⟨0x4900000 + 0x20 * i, 26, 24⟩
def QM.QCFG.WEIGHT (i : Nat) : Fld := ⟨0x4900000 + 0x20 * i, 23, 16⟩
def QM.QCFG.SIZE (i : Nat) : Fld := ⟨0x4900000 + 0x20 * i, 15, 12⟩
def QM.QCFG.PORT (i : Nat) : Fld := ⟨0x4900000 + 0x20 * i, 7, 0⟩
def QM.RING_LO.RING (i : Nat) : Fld := ⟨0x4900004 + 0x20 * i, 31, 0⟩
def QM.RING_HI.RING (i : Nat) : Fld := ⟨0x4900008 + 0x20 * i, 31, 0⟩
def QM.PIDX.PIDX (i : Nat) : Fld := ⟨0x490000C + 0x20 * i, 15, 0⟩
def QM.CIDX.CIDX (i : Nat) : Fld := ⟨0x4900010 + 0x20 * i, 15, 0⟩
def QM.QSTAT.STATE (i : Nat) : Fld := ⟨0x4900014 + 0x20 * i, 31, 30⟩
def QM.QSTAT.ERR (i : Nat) : Fld := ⟨0x4900014 + 0x20 * i, 27, 24⟩
def QM.QSTAT.HELD (i : Nat) : Fld := ⟨0x4900014 + 0x20 * i, 15, 0⟩
def QM.DROP_CNT (i : Nat) : Nat := 0x4900018 + 0x20 * i
-- FEN (14_frame_engines)
def FEN.IRQ_EN.QERR (i : Nat) : Fld := ⟨0x4000020 + 0x1000 * i, 4, 4⟩
def FEN.IRQ_EN.QCOMP (i : Nat) : Fld := ⟨0x4000020 + 0x1000 * i, 3, 3⟩
def FEN.IRQ_EN.DROP (i : Nat) : Fld := ⟨0x4000020 + 0x1000 * i, 2, 2⟩
def FEN.IRQ_EN.LINK_DOWN (i : Nat) : Fld := ⟨0x4000020 + 0x1000 * i, 1, 1⟩
def FEN.IRQ_EN.LINK_UP (i : Nat) : Fld := ⟨0x4000020 + 0x1000 * i, 0, 0⟩
def FEN.IRQ_STAT.QERR (i : Nat) : Fld := ⟨0x4000024 + 0x1000 * i, 4, 4⟩
def FEN.IRQ_STAT.QCOMP (i : Nat) : Fld := ⟨0x4000024 + 0x1000 * i, 3, 3⟩
def FEN.IRQ_STAT.DROP (i : Nat) : Fld := ⟨0x4000024 + 0x1000 * i, 2, 2⟩
def FEN.IRQ_STAT.LINK_DOWN (i : Nat) : Fld := ⟨0x4000024 + 0x1000 * i, 1, 1⟩
def FEN.IRQ_STAT.LINK_UP (i : Nat) : Fld := ⟨0x4000024 + 0x1000 * i, 0, 0⟩
def FEN.RX_FRAMES (i : Nat) : Nat := 0x4000100 + 0x1000 * i
def FEN.RX_BYTES (i : Nat) : Nat := 0x4000108 + 0x1000 * i
def FEN.RX_FCS (i : Nat) : Nat := 0x4000110 + 0x1000 * i
def FEN.RX_RUNT (i : Nat) : Nat := 0x4000118 + 0x1000 * i
def FEN.RX_LONG (i : Nat) : Nat := 0x4000120 + 0x1000 * i
def FEN.RX_FIFO_DROP (i : Nat) : Nat := 0x4000128 + 0x1000 * i
def FEN.RX_PAUSE_DROP (i : Nat) : Nat := 0x4000130 + 0x1000 * i
def FEN.RX_NOQ_DROP (i : Nat) : Nat := 0x4000138 + 0x1000 * i
def FEN.TX_FRAMES (i : Nat) : Nat := 0x4000140 + 0x1000 * i
def FEN.TX_BYTES (i : Nat) : Nat := 0x4000148 + 0x1000 * i
def FEN.TX_ABORT (i : Nat) : Nat := 0x4000150 + 0x1000 * i
def FEN.TX_POISON (i : Nat) : Nat := 0x4000158 + 0x1000 * i
def FEN.TX_LATE_SENT (i : Nat) : Nat := 0x4000160 + 0x1000 * i
def FEN.TX_LATE_DROP (i : Nat) : Nat := 0x4000168 + 0x1000 * i
def FEN.TX_DOWN_DROP (i : Nat) : Nat := 0x4000170 + 0x1000 * i
def FEN.TX_TIME_DROP (i : Nat) : Nat := 0x4000178 + 0x1000 * i
def FEN.TX_PRBS (i : Nat) : Nat := 0x4000180 + 0x1000 * i
def FEN.FC_RX (i : Nat) : Nat := 0x4000188 + 0x1000 * i
def FEN.FC_TX_CNT (i : Nat) : Nat := 0x4000190 + 0x1000 * i
-- QM (14_frame_engines)
def QM.OVF_LO.BASE : Fld := ⟨0x4800000, 31, 0⟩
def QM.OVF_HI.BASE : Fld := ⟨0x4800004, 31, 0⟩
def QM.OVF_SIZE.MIB : Fld := ⟨0x4800008, 15, 0⟩
def QM.OVF_THR.THR : Fld := ⟨0x480000C, 15, 0⟩
def QM.BUF_STAT.OVF_FREE : Fld := ⟨0x4800010, 31, 16⟩
def QM.BUF_STAT.FREE : Fld := ⟨0x4800010, 15, 0⟩
def QM.QRESUME.VATS : Fld := ⟨0x4800014, 15, 0⟩
def QM.BUF_DROP : Nat := 0x4800100
def QM.VQUOTA.CELLS (i : Nat) : Fld := ⟨0x4801000 + 0x40 * i, 19, 0⟩
def QM.VUSED.CELLS (i : Nat) : Fld := ⟨0x4801004 + 0x40 * i, 19, 0⟩
def QM.QUOTA_DROP (i : Nat) : Nat := 0x4801008 + 0x40 * i
-- TIME (15_time)
def TIME.TCLK_CTL.TREF_25 : Fld := ⟨0x5000000, 1, 1⟩
def TIME.TCLK_CTL.SRC : Fld := ⟨0x5000000, 0, 0⟩
def TIME.TCLK_STAT.LOCK : Fld := ⟨0x5000004, 31, 31⟩
def TIME.TCLK_STAT.HOLD : Fld := ⟨0x5000004, 30, 30⟩
def TIME.TCLK_STAT.TREF_OK : Fld := ⟨0x5000004, 29, 29⟩
def TIME.TCLK_STAT.REF_OK : Fld := ⟨0x5000004, 28, 28⟩
def TIME.TCLK_STAT.SRC_ACT : Fld := ⟨0x5000004, 0, 0⟩
def TIME.CAL.T_TCI : Fld := ⟨0x5000008, 15, 8⟩
def TIME.CAL.T_TPO : Fld := ⟨0x5000008, 7, 0⟩
def TIME.TREFLOSS_CNT : Nat := 0x5000010
def TIME.TB_CTL.SERVO_LOCK (i : Nat) : Fld := ⟨0x5001000 + 0x100 * i, 31, 31⟩
def TIME.TB_CTL.WDOG (i : Nat) : Fld := ⟨0x5001000 + 0x100 * i, 25, 16⟩
def TIME.TB_CTL.CMD (i : Nat) : Fld := ⟨0x5001000 + 0x100 * i, 1, 0⟩
def TIME.TB_STAT.STATE (i : Nat) : Fld := ⟨0x5001004 + 0x100 * i, 31, 30⟩
def TIME.TB_STAT.STEPPED (i : Nat) : Fld := ⟨0x5001004 + 0x100 * i, 29, 29⟩
def TIME.TB_STAT.BUSY (i : Nat) : Fld := ⟨0x5001004 + 0x100 * i, 28, 28⟩
def TIME.RATE_LO.RATE (i : Nat) : Fld := ⟨0x5001008 + 0x100 * i, 31, 0⟩
def TIME.RATE_HI.RATE (i : Nat) : Fld := ⟨0x500100C + 0x100 * i, 31, 0⟩
def TIME.ARG_SEC_LO.SEC (i : Nat) : Fld := ⟨0x5001010 + 0x100 * i, 31, 0⟩
def TIME.ARG_HI.FRAC (i : Nat) : Fld := ⟨0x5001014 + 0x100 * i, 21, 16⟩
def TIME.ARG_HI.SEC (i : Nat) : Fld := ⟨0x5001014 + 0x100 * i, 15, 0⟩
def TIME.ARG_NS.NS (i : Nat) : Fld := ⟨0x5001018 + 0x100 * i, 31, 0⟩
def TIME.SNAP_SEC_LO.SEC (i : Nat) : Fld := ⟨0x5001020 + 0x100 * i, 31, 0⟩
def TIME.SNAP_HI.FRAC (i : Nat) : Fld := ⟨0x5001024 + 0x100 * i, 21, 16⟩
def TIME.SNAP_HI.SEC (i : Nat) : Fld := ⟨0x5001024 + 0x100 * i, 15, 0⟩
def TIME.SNAP_NS.NS (i : Nat) : Fld := ⟨0x5001028 + 0x100 * i, 31, 0⟩
def TIME.STEP_CNT (i : Nat) : Nat := 0x5001030 + 0x100 * i
def TIME.HOLD_CNT (i : Nat) : Nat := 0x5001038 + 0x100 * i
def TIME.TP_CTL.EN (i : Nat) : Fld := ⟨0x5002000 + 0x40 * i, 31, 31⟩
def TIME.TP_CTL.MODE (i : Nat) : Fld := ⟨0x5002000 + 0x40 * i, 30, 30⟩
def TIME.TP_CTL.POL (i : Nat) : Fld := ⟨0x5002000 + 0x40 * i, 29, 29⟩
def TIME.TP_CTL.IRQ (i : Nat) : Fld := ⟨0x5002000 + 0x40 * i, 28, 28⟩
def TIME.TP_CTL.OWNER (i : Nat) : Fld := ⟨0x5002000 + 0x40 * i, 27, 24⟩
def TIME.TP_CTL.TB (i : Nat) : Fld := ⟨0x5002000 + 0x40 * i, 18, 16⟩
def TIME.START_SEC_LO.SEC (i : Nat) : Fld := ⟨0x5002004 + 0x40 * i, 31, 0⟩
def TIME.START_HI.FRAC (i : Nat) : Fld := ⟨0x5002008 + 0x40 * i, 21, 16⟩
def TIME.START_HI.SEC (i : Nat) : Fld := ⟨0x5002008 + 0x40 * i, 15, 0⟩
def TIME.START_NS.NS (i : Nat) : Fld := ⟨0x500200C + 0x40 * i, 31, 0⟩
def TIME.PERIOD_NS.NS (i : Nat) : Fld := ⟨0x5002010 + 0x40 * i, 31, 0⟩
def TIME.PERIOD_FRAC.FRAC (i : Nat) : Fld := ⟨0x5002014 + 0x40 * i, 5, 0⟩
def TIME.WIDTH_NS.NS (i : Nat) : Fld := ⟨0x5002018 + 0x40 * i, 29, 0⟩
def TIME.TP_COMP.COMP (i : Nat) : Fld := ⟨0x500201C + 0x40 * i, 7, 0⟩
def TIME.CAP_CTL.EN (i : Nat) : Fld := ⟨0x5003000 + 0x40 * i, 31, 31⟩
def TIME.CAP_CTL.EDGE (i : Nat) : Fld := ⟨0x5003000 + 0x40 * i, 30, 29⟩
def TIME.CAP_CTL.IRQ (i : Nat) : Fld := ⟨0x5003000 + 0x40 * i, 28, 28⟩
def TIME.CAP_CTL.OWNER (i : Nat) : Fld := ⟨0x5003000 + 0x40 * i, 27, 24⟩
def TIME.CAP_CTL.TB (i : Nat) : Fld := ⟨0x5003000 + 0x40 * i, 18, 16⟩
def TIME.CAP_CTL.COMP (i : Nat) : Fld := ⟨0x5003000 + 0x40 * i, 7, 0⟩
def TIME.CAP_STAT.OVF (i : Nat) : Fld := ⟨0x5003004 + 0x40 * i, 31, 31⟩
def TIME.CAP_STAT.FILL (i : Nat) : Fld := ⟨0x5003004 + 0x40 * i, 2, 0⟩
def TIME.CAP_POP.VALID (i : Nat) : Fld := ⟨0x5003008 + 0x40 * i, 31, 31⟩
def TIME.CAP_POP.RISE (i : Nat) : Fld := ⟨0x5003008 + 0x40 * i, 30, 30⟩
def TIME.CAP_POP.FRAC (i : Nat) : Fld := ⟨0x5003008 + 0x40 * i, 21, 16⟩
def TIME.CAP_POP.SEC (i : Nat) : Fld := ⟨0x5003008 + 0x40 * i, 15, 0⟩
def TIME.CAP_POP_I.VALID (i : Nat) : Fld := ⟨0x5003014 + 0x40 * i, 31, 31⟩
def TIME.CAP_POP_I.RISE (i : Nat) : Fld := ⟨0x5003014 + 0x40 * i, 30, 30⟩
def TIME.CAP_POP_I.FRAC (i : Nat) : Fld := ⟨0x5003014 + 0x40 * i, 21, 16⟩
def TIME.CAP_POP_I.SEC (i : Nat) : Fld := ⟨0x5003014 + 0x40 * i, 15, 0⟩
def TIME.CAP_SEC_LO.SEC (i : Nat) : Fld := ⟨0x500300C + 0x40 * i, 31, 0⟩
def TIME.CAP_NS.NS (i : Nat) : Fld := ⟨0x5003010 + 0x40 * i, 31, 0⟩
def TIME.OVF_CNT (i : Nat) : Nat := 0x5003018 + 0x40 * i
def TIME.CMP_CTL.ARM (i : Nat) : Fld := ⟨0x5004000 + 0x40 * i, 31, 31⟩
def TIME.CMP_CTL.IRQ (i : Nat) : Fld := ⟨0x5004000 + 0x40 * i, 28, 28⟩
def TIME.CMP_CTL.OWNER (i : Nat) : Fld := ⟨0x5004000 + 0x40 * i, 27, 24⟩
def TIME.CMP_CTL.TB (i : Nat) : Fld := ⟨0x5004000 + 0x40 * i, 18, 16⟩
def TIME.CMP_SEC_LO.SEC (i : Nat) : Fld := ⟨0x5004004 + 0x40 * i, 31, 0⟩
def TIME.CMP_HI.FRAC (i : Nat) : Fld := ⟨0x5004008 + 0x40 * i, 21, 16⟩
def TIME.CMP_HI.SEC (i : Nat) : Fld := ⟨0x5004008 + 0x40 * i, 15, 0⟩
def TIME.CMP_NS.NS (i : Nat) : Fld := ⟨0x500400C + 0x40 * i, 31, 0⟩
def TIME.CMP_STAT.FIRED (i : Nat) : Fld := ⟨0x5004010 + 0x40 * i, 31, 31⟩
def TIME.CMP_STAT.STEPPED (i : Nat) : Fld := ⟨0x5004010 + 0x40 * i, 30, 30⟩
def TIME.PTP_CTL.ONE_STEP (i : Nat) : Fld := ⟨0x5100000 + 0x100 * i, 31, 31⟩
def TIME.PTP_CTL.TC_IN (i : Nat) : Fld := ⟨0x5100000 + 0x100 * i, 30, 30⟩
def TIME.PTP_CTL.TC_OUT (i : Nat) : Fld := ⟨0x5100000 + 0x100 * i, 29, 29⟩
def TIME.TX_DELAY.DLY (i : Nat) : Fld := ⟨0x5100004 + 0x100 * i, 19, 0⟩
def TIME.RX_DELAY.DLY (i : Nat) : Fld := ⟨0x5100008 + 0x100 * i, 19, 0⟩
def TIME.ASYM.ASYM (i : Nat) : Fld := ⟨0x510000C + 0x100 * i, 19, 0⟩
def TIME.TSQ_STAT.OVF (i : Nat) : Fld := ⟨0x5100010 + 0x100 * i, 31, 31⟩
def TIME.TSQ_STAT.FILL (i : Nat) : Fld := ⟨0x5100010 + 0x100 * i, 4, 0⟩
def TIME.TSQ_POP.VALID (i : Nat) : Fld := ⟨0x5100014 + 0x100 * i, 31, 31⟩
def TIME.TSQ_POP.FRAC (i : Nat) : Fld := ⟨0x5100014 + 0x100 * i, 21, 16⟩
def TIME.TSQ_POP.FID (i : Nat) : Fld := ⟨0x5100014 + 0x100 * i, 15, 0⟩
def TIME.TSQ_POP_I.VALID (i : Nat) : Fld := ⟨0x5100024 + 0x100 * i, 31, 31⟩
def TIME.TSQ_POP_I.FRAC (i : Nat) : Fld := ⟨0x5100024 + 0x100 * i, 21, 16⟩
def TIME.TSQ_POP_I.FID (i : Nat) : Fld := ⟨0x5100024 + 0x100 * i, 15, 0⟩
def TIME.TSQ_SEC_LO.SEC (i : Nat) : Fld := ⟨0x5100018 + 0x100 * i, 31, 0⟩
def TIME.TSQ_SEC_HI.SEC (i : Nat) : Fld := ⟨0x510001C + 0x100 * i, 15, 0⟩
def TIME.TSQ_NS.NS (i : Nat) : Fld := ⟨0x5100020 + 0x100 * i, 31, 0⟩
def TIME.TSQ_OVF_CNT (i : Nat) : Nat := 0x5100030 + 0x100 * i
def TIME.PTP_NOFIX_CNT (i : Nat) : Nat := 0x5100038 + 0x100 * i
-- IRQ (16_processors)
def IRQ.SRC_CFG.WAKE (i : Nat) : Fld := ⟨0x6000000 + 0x4 * i, 31, 31⟩
def IRQ.SRC_CFG.CLASS (i : Nat) : Fld := ⟨0x6000000 + 0x4 * i, 30, 30⟩
def IRQ.SRC_CFG.TRIG (i : Nat) : Fld := ⟨0x6000000 + 0x4 * i, 29, 29⟩
def IRQ.SRC_CFG.SEV (i : Nat) : Fld := ⟨0x6000000 + 0x4 * i, 28, 27⟩
def IRQ.SRC_CFG.GROUP (i : Nat) : Fld := ⟨0x6000000 + 0x4 * i, 21, 16⟩
def IRQ.SRC_CFG.PRIO (i : Nat) : Fld := ⟨0x6000000 + 0x4 * i, 3, 0⟩
def IRQ.PEND.B (i : Nat) : Fld := ⟨0x6001000 + 0x4 * i, 31, 0⟩
def IRQ.SWI.SET : Fld := ⟨0x6001100, 31, 31⟩
def IRQ.SWI.N : Fld := ⟨0x6001100, 5, 0⟩
def IRQ.WAKE_LAT.B (i : Nat) : Fld := ⟨0x6001200 + 0x4 * i, 31, 0⟩
def IRQ.CPL.NACT (i : Nat) : Fld := ⟨0x6002000 + 0x40 * i, 31, 31⟩
def IRQ.CPL.FACT (i : Nat) : Fld := ⟨0x6002000 + 0x40 * i, 30, 30⟩
def IRQ.CPL.SAVED (i : Nat) : Fld := ⟨0x6002000 + 0x40 * i, 7, 4⟩
def IRQ.CPL.CPL (i : Nat) : Fld := ⟨0x6002000 + 0x40 * i, 3, 0⟩
def IRQ.CLAIM.VALID (i : Nat) : Fld := ⟨0x6002004 + 0x40 * i, 31, 31⟩
def IRQ.CLAIM.SRC (i : Nat) : Fld := ⟨0x6002004 + 0x40 * i, 9, 0⟩
def IRQ.COMPLETE.SRC (i : Nat) : Fld := ⟨0x6002008 + 0x40 * i, 9, 0⟩
def IRQ.CLAIM_I.VALID (i : Nat) : Fld := ⟨0x600200C + 0x40 * i, 31, 31⟩
def IRQ.CLAIM_I.SRC (i : Nat) : Fld := ⟨0x600200C + 0x40 * i, 9, 0⟩
def IRQ.CORE_CFG.NORM_LVL (i : Nat) : Fld := ⟨0x6002010 + 0x40 * i, 0, 0⟩
def IRQ.GUEST_MAP.VALID (i : Nat) : Fld := ⟨0x6003000 + 0x4 * i, 31, 31⟩
def IRQ.GUEST_MAP.CORE (i : Nat) : Fld := ⟨0x6003000 + 0x4 * i, 5, 4⟩
def IRQ.GUEST_MAP.LINE (i : Nat) : Fld := ⟨0x6003000 + 0x4 * i, 3, 0⟩
def IRQ.VCLAIM.VALID (i : Nat) : Fld := ⟨0x6080000 + 0x1000 * i, 31, 31⟩
def IRQ.VCLAIM.SRC (i : Nat) : Fld := ⟨0x6080000 + 0x1000 * i, 4, 0⟩
def IRQ.VCOMPLETE.SRC (i : Nat) : Fld := ⟨0x6080004 + 0x1000 * i, 4, 0⟩
def IRQ.VPEND.B (i : Nat) : Fld := ⟨0x6080008 + 0x1000 * i, 31, 0⟩
def IRQ.VCLAIM_I.VALID (i : Nat) : Fld := ⟨0x608000C + 0x1000 * i, 31, 31⟩
def IRQ.VCLAIM_I.SRC (i : Nat) : Fld := ⟨0x608000C + 0x1000 * i, 4, 0⟩
-- SCP (16_processors)
def SCP.ARB.FLOOR : Fld := ⟨0x6100000, 7, 0⟩
def SCP.LOCK_BASE.BASE (i : Nat) : Fld := ⟨0x6100010 + 0x8 * i, 22, 12⟩
def SCP.LOCK_CTL.LOCKED (i : Nat) : Fld := ⟨0x6100014 + 0x8 * i, 31, 31⟩
def SCP.LOCK_CTL.PAGES (i : Nat) : Fld := ⟨0x6100014 + 0x8 * i, 11, 0⟩
def SCP.CE_CNT : Nat := 0x6100100
def SCP.UE_CNT : Nat := 0x6100108
-- DMA (16_processors)
def DMA.CH_CTL.GO (i : Nat) : Fld := ⟨0x6201000 + 0x100 * i, 31, 31⟩
def DMA.CH_CTL.STOP (i : Nat) : Fld := ⟨0x6201000 + 0x100 * i, 30, 30⟩
def DMA.CH_CTL.VAT (i : Nat) : Fld := ⟨0x6201000 + 0x100 * i, 3, 0⟩
def DMA.CH_DESC_LO.ADDR (i : Nat) : Fld := ⟨0x6201004 + 0x100 * i, 31, 0⟩
def DMA.CH_DESC_HI.ADDR (i : Nat) : Fld := ⟨0x6201008 + 0x100 * i, 31, 0⟩
def DMA.CH_STAT.STATE (i : Nat) : Fld := ⟨0x620100C + 0x100 * i, 31, 30⟩
def DMA.CH_STAT.IRQ (i : Nat) : Fld := ⟨0x620100C + 0x100 * i, 29, 29⟩
def DMA.CH_STAT.ERR (i : Nat) : Fld := ⟨0x620100C + 0x100 * i, 27, 24⟩
def DMA.BYTES (i : Nat) : Nat := 0x6201010 + 0x100 * i
def DMA.POISON_CNT (i : Nat) : Nat := 0x6201018 + 0x100 * i
-- SVC (16_processors)
def SVC.OWN.MODE (i : Nat) : Fld := ⟨0x6400000 + 0x1000 * i, 31, 31⟩
def SVC.OWN.OWNER (i : Nat) : Fld := ⟨0x6400000 + 0x1000 * i, 3, 0⟩
def SVC.CFG_UART.EN (i : Nat) : Fld := ⟨0x6400004 + 0x1000 * i, 31, 31⟩
def SVC.CFG_UART.PARITY (i : Nat) : Fld := ⟨0x6400004 + 0x1000 * i, 29, 28⟩
def SVC.CFG_UART.STOP2 (i : Nat) : Fld := ⟨0x6400004 + 0x1000 * i, 27, 27⟩
def SVC.CFG_UART.FLOW (i : Nat) : Fld := ⟨0x6400004 + 0x1000 * i, 26, 26⟩
def SVC.CFG_UART.DIV (i : Nat) : Fld := ⟨0x6400004 + 0x1000 * i, 15, 0⟩
def SVC.CFG_I2C.EN (i : Nat) : Fld := ⟨0x6408004 + 0x1000 * i, 31, 31⟩
def SVC.CFG_I2C.SPEED (i : Nat) : Fld := ⟨0x6408004 + 0x1000 * i, 1, 0⟩
def SVC.CFG_SPI.EN (i : Nat) : Fld := ⟨0x6410004 + 0x1000 * i, 31, 31⟩
def SVC.CFG_SPI.MODE (i : Nat) : Fld := ⟨0x6410004 + 0x1000 * i, 25, 24⟩
def SVC.CFG_SPI.CS (i : Nat) : Fld := ⟨0x6410004 + 0x1000 * i, 17, 16⟩
def SVC.CFG_SPI.DIV (i : Nat) : Fld := ⟨0x6410004 + 0x1000 * i, 7, 0⟩
def SVC.TXD.WORD (i : Nat) : Fld := ⟨0x6400008 + 0x1000 * i, 15, 0⟩
def SVC.RXD.VALID (i : Nat) : Fld := ⟨0x640000C + 0x1000 * i, 31, 31⟩
def SVC.RXD.WORD (i : Nat) : Fld := ⟨0x640000C + 0x1000 * i, 15, 0⟩
def SVC.RXD_I.VALID (i : Nat) : Fld := ⟨0x6400010 + 0x1000 * i, 31, 31⟩
def SVC.RXD_I.WORD (i : Nat) : Fld := ⟨0x6400010 + 0x1000 * i, 15, 0⟩
def SVC.STAT.BUSY (i : Nat) : Fld := ⟨0x6400014 + 0x1000 * i, 31, 31⟩
def SVC.STAT.RXOVF (i : Nat) : Fld := ⟨0x6400014 + 0x1000 * i, 30, 30⟩
def SVC.STAT.TIMEOUT (i : Nat) : Fld := ⟨0x6400014 + 0x1000 * i, 29, 29⟩
def SVC.STAT.NACK (i : Nat) : Fld := ⟨0x6400014 + 0x1000 * i, 28, 28⟩
def SVC.STAT.RXFILL (i : Nat) : Fld := ⟨0x6400014 + 0x1000 * i, 14, 8⟩
def SVC.STAT.TXFILL (i : Nat) : Fld := ⟨0x6400014 + 0x1000 * i, 6, 0⟩
def SVC.IRQ_EN.B (i : Nat) : Fld := ⟨0x6400018 + 0x1000 * i, 3, 0⟩
def SVC.IRQ_STAT.B (i : Nat) : Fld := ⟨0x640001C + 0x1000 * i, 3, 0⟩
def SVC.CORE_CTL.RUN (i : Nat) : Fld := ⟨0x6300000 + 0x20 * i, 31, 31⟩
def SVC.CORE_CTL.RESET (i : Nat) : Fld := ⟨0x6300000 + 0x20 * i, 30, 30⟩
def SVC.CORE_CTL.HALTED (i : Nat) : Fld := ⟨0x6300000 + 0x20 * i, 29, 29⟩
def SVC.CORE_CTL.WFI (i : Nat) : Fld := ⟨0x6300000 + 0x20 * i, 28, 28⟩
def SVC.RESET_VEC_LO.VEC (i : Nat) : Fld := ⟨0x6300004 + 0x20 * i, 31, 0⟩
def SVC.RESET_VEC_HI.VEC (i : Nat) : Fld := ⟨0x6300008 + 0x20 * i, 31, 0⟩
def SVC.MTIME_LO.MTIME : Fld := ⟨0x6300100, 31, 0⟩
def SVC.MTIME_HI.MTIME : Fld := ⟨0x6300104, 31, 0⟩
def SVC.MTIMECMP_LO.CMP (i : Nat) : Fld := ⟨0x6300110 + 0x8 * i, 31, 0⟩
def SVC.MTIMECMP_HI.CMP (i : Nat) : Fld := ⟨0x6300114 + 0x8 * i, 31, 0⟩
def SVC.SWIN_LO.BASE (i : Nat) : Fld := ⟨0x6300200 + 0x8 * i, 31, 28⟩
def SVC.SWIN_LO.VALID (i : Nat) : Fld := ⟨0x6300200 + 0x8 * i, 0, 0⟩
def SVC.SWIN_HI.BASE (i : Nat) : Fld := ⟨0x6300204 + 0x8 * i, 31, 0⟩
def SVC.TWIN_LO.BASE (i : Nat) : Fld := ⟨0x6300240 + 0x8 * i, 31, 28⟩
def SVC.TWIN_LO.VALID (i : Nat) : Fld := ⟨0x6300240 + 0x8 * i, 0, 0⟩
def SVC.TWIN_HI.BASE (i : Nat) : Fld := ⟨0x6300244 + 0x8 * i, 31, 0⟩
-- MGT (17_management_and_debug)
def MGT.MP_CTL.EN (i : Nat) : Fld := ⟨0x7000000 + 0x100 * i, 31, 31⟩
def MGT.MP_CTL.RATE (i : Nat) : Fld := ⟨0x7000000 + 0x100 * i, 30, 29⟩
def MGT.MP_CTL.PRESET (i : Nat) : Fld := ⟨0x7000000 + 0x100 * i, 28, 25⟩
def MGT.MP_STAT.LINK (i : Nat) : Fld := ⟨0x7000004 + 0x100 * i, 31, 31⟩
def MGT.MP_STAT.RATE_ACT (i : Nat) : Fld := ⟨0x7000004 + 0x100 * i, 30, 30⟩
def MGT.MP_STAT.SESS (i : Nat) : Fld := ⟨0x7000004 + 0x100 * i, 29, 28⟩
def MGT.MP_STAT.UNACKED (i : Nat) : Fld := ⟨0x7000004 + 0x100 * i, 27, 18⟩
def MGT.MP_STAT.QFILL (i : Nat) : Fld := ⟨0x7000004 + 0x100 * i, 17, 9⟩
def MGT.MP_STAT.SLOTS (i : Nat) : Fld := ⟨0x7000004 + 0x100 * i, 8, 0⟩
def MGT.MP_SID.SID (i : Nat) : Fld := ⟨0x7000008 + 0x100 * i, 15, 0⟩
def MGT.MP_TMR.IDLE_S (i : Nat) : Fld := ⟨0x700000C + 0x100 * i, 31, 20⟩
def MGT.MP_TMR.RTX_US (i : Nat) : Fld := ⟨0x700000C + 0x100 * i, 19, 0⟩
def MGT.MP_HMAC_LO.HMAC (i : Nat) : Fld := ⟨0x7000010 + 0x100 * i, 31, 0⟩
def MGT.MP_HMAC_HI.HMAC (i : Nat) : Fld := ⟨0x7000014 + 0x100 * i, 15, 0⟩
def MGT.MP_MAC_LO.MAC (i : Nat) : Fld := ⟨0x7000018 + 0x100 * i, 31, 0⟩
def MGT.MP_MAC_HI.MAC (i : Nat) : Fld := ⟨0x700001C + 0x100 * i, 15, 0⟩
def MGT.RX_CNT (i : Nat) : Nat := 0x7000040 + 0x100 * i
def MGT.TX_CNT (i : Nat) : Nat := 0x7000048 + 0x100 * i
def MGT.CRC_CNT (i : Nat) : Nat := 0x7000050 + 0x100 * i
def MGT.MAC_CNT (i : Nat) : Nat := 0x7000058 + 0x100 * i
def MGT.DUP_CNT (i : Nat) : Nat := 0x7000060 + 0x100 * i
def MGT.OOS_CNT (i : Nat) : Nat := 0x7000068 + 0x100 * i
def MGT.RTX_CNT (i : Nat) : Nat := 0x7000070 + 0x100 * i
def MGT.REFUSED_CNT (i : Nat) : Nat := 0x7000078 + 0x100 * i
def MGT.UNAUTH_DROP (i : Nat) : Nat := 0x7000080 + 0x100 * i
def MGT.EVT_CNT (i : Nat) : Nat := 0x7000088 + 0x100 * i
def MGT.COAL_CNT (i : Nat) : Nat := 0x7000090 + 0x100 * i
def MGT.LOST_CNT (i : Nat) : Nat := 0x7000098 + 0x100 * i
-- DBG (17_management_and_debug)
def DBG.CTL.LOCK : Fld := ⟨0x7100000, 31, 31⟩
def DBG.STAT.CONN : Fld := ⟨0x7100004, 31, 31⟩
def DBG.STAT.HOST : Fld := ⟨0x7100004, 30, 29⟩
def DBG.STAT.HALTED : Fld := ⟨0x7100004, 28, 24⟩
def DBG.STAT.SCOPE : Fld := ⟨0x7100004, 7, 0⟩
-- CEL (18_cellar)
def CEL.CMD.GO : Fld := ⟨0x8000000, 31, 31⟩
def CEL.CMD.OP : Fld := ⟨0x8000000, 30, 28⟩
def CEL.ADDR.A : Fld := ⟨0x8000004, 28, 3⟩
def CEL.WDATA_LO.W : Fld := ⟨0x8000008, 31, 0⟩
def CEL.WDATA_HI.W : Fld := ⟨0x800000C, 31, 0⟩
def CEL.BSTAT.BUSY (i : Nat) : Fld := ⟨0x8000010 + 0x4 * i, 31, 31⟩
def CEL.BSTAT.ESUSP (i : Nat) : Fld := ⟨0x8000010 + 0x4 * i, 30, 30⟩
def CEL.BSTAT.PSUSP (i : Nat) : Fld := ⟨0x8000010 + 0x4 * i, 29, 29⟩
def CEL.BSTAT.DONE (i : Nat) : Fld := ⟨0x8000010 + 0x4 * i, 28, 28⟩
def CEL.BSTAT.RESULT (i : Nat) : Fld := ⟨0x8000010 + 0x4 * i, 27, 24⟩
def CEL.BSTAT.SECTOR (i : Nat) : Fld := ⟨0x8000010 + 0x4 * i, 12, 0⟩
def CEL.PROT.ERASE_PEND : Fld := ⟨0x8000020, 31, 31⟩
def CEL.PROT.LEVEL : Fld := ⟨0x8000020, 1, 0⟩
def CEL.BBT.FULL : Fld := ⟨0x8000024, 31, 31⟩
def CEL.BBT.RAMBAD : Fld := ⟨0x8000024, 24, 16⟩
def CEL.BBT.GROWN : Fld := ⟨0x8000024, 8, 0⟩
def CEL.LOG.DEGRADED : Fld := ⟨0x8000028, 31, 31⟩
def CEL.LOG.RAM_ONLY : Fld := ⟨0x8000028, 30, 30⟩
def CEL.LOG.EV_GOOD : Fld := ⟨0x8000028, 15, 8⟩
def CEL.LOG.AUD_GOOD : Fld := ⟨0x8000028, 7, 0⟩
def CEL.SUSP_CNT : Nat := 0x8000030
def CEL.PFAIL_CNT : Nat := 0x8000038
def CEL.EFAIL_CNT : Nat := 0x8000040
def CEL.LOG_DROP (i : Nat) : Nat := 0x8000048 + 0x8 * i
def CEL.LOG_DROP_AUD : Nat := 0x8000068
def CEL.LASTGASP.W (i : Nat) : Fld := ⟨0x8000100 + 0x4 * i, 31, 0⟩
-- LCS (19_power_reset_lifecycle_test)
def LCS.STATE.ERASE_DONE : Fld := ⟨0xA000000, 31, 31⟩
def LCS.STATE.CODE : Fld := ⟨0xA000000, 1, 0⟩
def LCS.KEY_STAT.DEFER : Fld := ⟨0xA000004, 24, 16⟩
def LCS.KEY_STAT.FILLED : Fld := ⟨0xA000004, 8, 0⟩
def LCS.UID.W (i : Nat) : Fld := ⟨0xA000010 + 0x4 * i, 31, 0⟩
-- BIST (19_power_reset_lifecycle_test)
def BIST.CMD.GO (i : Nat) : Fld := ⟨0x9000000 + 0x100 * i, 31, 31⟩
def BIST.CMD.KIND (i : Nat) : Fld := ⟨0x9000000 + 0x100 * i, 30, 29⟩
def BIST.CMD.MEM (i : Nat) : Fld := ⟨0x9000000 + 0x100 * i, 23, 0⟩
def BIST.STAT.BUSY (i : Nat) : Fld := ⟨0x9000004 + 0x100 * i, 31, 31⟩
def BIST.STAT.DEFER (i : Nat) : Fld := ⟨0x9000004 + 0x100 * i, 30, 30⟩
def BIST.STAT.PHASE (i : Nat) : Fld := ⟨0x9000004 + 0x100 * i, 29, 27⟩
def BIST.STAT.DONE (i : Nat) : Fld := ⟨0x9000004 + 0x100 * i, 26, 26⟩
def BIST.RES.W (i : Nat) (j : Nat) : Fld := ⟨0x9000010 + 0x100 * i + 0x4 * j, 31, 0⟩
def BIST.FUSE_FREE.N : Fld := ⟨0x9001000, 12, 0⟩
def BIST.RUN_CNT : Nat := 0x9001010
def BIST.REPAIR_CNT : Nat := 0x9001018
def BIST.UNREP_CNT : Nat := 0x9001020
-- PWR (19_power_reset_lifecycle_test)
def PWR.CMD.GO : Fld := ⟨0x10004, 31, 31⟩
def PWR.CMD.TARGET : Fld := ⟨0x10004, 1, 0⟩
def PWR.WAKE_S.S : Fld := ⟨0x10008, 31, 0⟩
def PWR.RST_CTL.COLD : Fld := ⟨0x1000C, 1, 1⟩
def PWR.RST_CTL.WARM : Fld := ⟨0x1000C, 0, 0⟩
def PWR.RST_CAUSE.SUPPLY : Fld := ⟨0x10010, 15, 8⟩
def PWR.RST_CAUSE.HOST : Fld := ⟨0x10010, 5, 4⟩
def PWR.RST_CAUSE.CAUSE : Fld := ⟨0x10010, 3, 0⟩
def PWR.WAKE_CAUSE.TIMER : Fld := ⟨0x10014, 31, 31⟩
def PWR.WAKE_CAUSE.SRC : Fld := ⟨0x10014, 9, 0⟩
-- HIO (20_pins_and_electrical)
def HIO.BANK_CTL.RANGE (i : Nat) : Fld := ⟨0xB000000 + 0x100 * i, 1, 0⟩
def HIO.BANK_STAT.OUT_OFF (i : Nat) : Fld := ⟨0xB000004 + 0x100 * i, 31, 31⟩
def HIO.BANK_STAT.IN_WIN (i : Nat) : Fld := ⟨0xB000004 + 0x100 * i, 30, 30⟩
def HIO.BANK_STAT.STRAP (i : Nat) : Fld := ⟨0xB000004 + 0x100 * i, 29, 28⟩
def HIO.BANK_STAT.VCCIO (i : Nat) : Fld := ⟨0xB000004 + 0x100 * i, 7, 0⟩

/-- The registers of block CLK. -/
def regsCLK : List RegDesc := [
  ⟨0x0, [], [⟨7, 7, .rw, 0⟩, ⟨6, 6, .wo, 0⟩, ⟨0, 0, .rw, 0⟩]⟩,
  ⟨0x4, [], [⟨7, 7, .ro, 0⟩, ⟨6, 6, .ro, 0⟩, ⟨5, 5, .ro, 0⟩, ⟨4, 4, .ro, 0⟩, ⟨3, 3, .ro, 0⟩, ⟨2, 2, .ro, 0⟩, ⟨1, 1, .ro, 0⟩, ⟨0, 0, .ro, 0⟩]⟩,
  ⟨0x8, [], [⟨31, 31, .w1c, 0⟩, ⟨15, 8, .ro, 0⟩, ⟨7, 0, .ro, 0⟩]⟩,
  ⟨0x100, [(0x4, 16)], [⟨15, 8, .ro, 0⟩, ⟨7, 0, .rw, 0⟩]⟩,
  ⟨0x200, [(0x20, 4), (0x4, 8)], [⟨31, 31, .ro, 1⟩, ⟨30, 30, .ro, 0⟩, ⟨15, 8, .ro, 0⟩, ⟨7, 0, .rw, 0⟩]⟩,
  ⟨0x300, [(0x4, 4)], [⟨31, 31, .ro, 0⟩, ⟨8, 8, .rw, 0⟩, ⟨7, 0, .rw, 4⟩]⟩,
  ⟨0x400, [], [⟨10, 0, .rw, 0⟩]⟩,
  ⟨0x404, [], [⟨10, 0, .ro, 0⟩]⟩,
  ⟨0x408, [], [⟨15, 0, .rw, 0x40⟩]⟩,
  ⟨0x500, [(0x4, 7)], [⟨31, 0, .ro, 0⟩]⟩]
/-- The 48-bit counters of block CLK (R10), each at its lower register. -/
def ctrsCLK : List RegDesc := [
  ⟨0x10, [], []⟩,
  ⟨0x18, [], []⟩]
/-- The registers of block PWR. -/
def regsPWR : List RegDesc := [
  ⟨0x10000, [], [⟨31, 16, .ro, 0⟩, ⟨9, 9, .ro, 0⟩, ⟨8, 8, .ro, 0⟩, ⟨7, 4, .ro, 0⟩, ⟨3, 0, .ro, 2⟩]⟩,
  ⟨0x10004, [], [⟨31, 31, .wo, 0⟩, ⟨1, 0, .rw, 0⟩]⟩,
  ⟨0x10008, [], [⟨31, 0, .rw, 0⟩]⟩,
  ⟨0x1000C, [], [⟨1, 1, .wo, 0⟩, ⟨0, 0, .wo, 0⟩]⟩,
  ⟨0x10010, [], [⟨15, 8, .ro, 0⟩, ⟨5, 4, .ro, 0⟩, ⟨3, 0, .ro, 0⟩]⟩,
  ⟨0x10014, [], [⟨31, 31, .ro, 0⟩, ⟨9, 0, .ro, 0⟩]⟩]
/-- The 48-bit counters of block PWR (R10), each at its lower register. -/
def ctrsPWR : List RegDesc := [
]
/-- The registers of block CFG. -/
def regsCFG : List RegDesc := [
  ⟨0x100000, [], [⟨3, 0, .wo, 0⟩]⟩,
  ⟨0x100004, [], [⟨15, 0, .rw, 0⟩]⟩,
  ⟨0x100008, [], [⟨31, 31, .ro, 0⟩, ⟨30, 30, .ro, 0⟩, ⟨19, 16, .ro, 0⟩, ⟨7, 0, .ro, 0⟩]⟩,
  ⟨0x10000C, [], [⟨31, 0, .rw, 0⟩]⟩,
  ⟨0x100010, [], [⟨17, 0, .ro, 0⟩]⟩,
  ⟨0x100100, [], [⟨31, 31, .ro, 0⟩, ⟨30, 28, .ro, 0⟩, ⟨6, 4, .rw, 0⟩, ⟨1, 1, .rw, 0⟩, ⟨0, 0, .wo, 0⟩]⟩,
  ⟨0x100104, [], [⟨31, 0, .rw, 0⟩]⟩,
  ⟨0x100200, [(0x4, 64)], [⟨31, 0, .rw, 0⟩]⟩,
  ⟨0x100300, [], [⟨23, 0, .rw, 0⟩]⟩,
  ⟨0x101000, [(0x40, 16)], [⟨31, 28, .ro, 0⟩, ⟨7, 7, .ro, 0⟩, ⟨6, 6, .ro, 0⟩, ⟨5, 5, .ro, 0⟩, ⟨4, 4, .ro, 0⟩, ⟨3, 3, .ro, 0⟩, ⟨0, 0, .ro, 0⟩]⟩,
  ⟨0x101004, [(0x40, 16)], [⟨31, 0, .ro, 0⟩]⟩,
  ⟨0x101008, [(0x40, 16)], [⟨31, 0, .ro, 0⟩]⟩,
  ⟨0x10100C, [(0x40, 16)], [⟨15, 0, .rw, 0x2710⟩]⟩,
  ⟨0x101010, [(0x40, 16)], [⟨25, 0, .ro, 0⟩]⟩,
  ⟨0x101014, [(0x40, 16)], [⟨31, 16, .ro, 0⟩, ⟨15, 15, .ro, 0⟩, ⟨2, 0, .rw, 0⟩]⟩,
  ⟨0x101018, [(0x40, 16)], [⟨31, 0, .rw, 0⟩]⟩,
  ⟨0x10101C, [(0x40, 16)], [⟨15, 0, .rw, 0⟩]⟩,
  ⟨0x101020, [(0x40, 16)], [⟨29, 0, .rw, 0⟩]⟩,
  ⟨0x101024, [(0x40, 16)], [⟨31, 31, .w1c, 0⟩, ⟨30, 0, .ro, 0⟩]⟩,
  ⟨0x180000, [(0x4, 131072)], [⟨31, 16, .ro, 0⟩, ⟨15, 0, .ro, 0⟩]⟩,
  ⟨0x100040, [], [⟨31, 28, .ro, 0⟩, ⟨27, 24, .ro, 0⟩, ⟨23, 16, .ro, 0⟩, ⟨7, 4, .ro, 0⟩, ⟨3, 3, .ro, 0⟩]⟩,
  ⟨0x100044, [], [⟨31, 0, .ro, 0⟩]⟩]
/-- The 48-bit counters of block CFG (R10), each at its lower register. -/
def ctrsCFG : List RegDesc := [
  ⟨0x100020, [], []⟩,
  ⟨0x100028, [], []⟩,
  ⟨0x100030, [], []⟩,
  ⟨0x100038, [], []⟩,
  ⟨0x100048, [], []⟩,
  ⟨0x100050, [], []⟩]
/-- The registers of block VAT. -/
def regsVAT : List RegDesc := [
  ⟨0x200000, [(0x4, 56)], [⟨31, 24, .ro, 0xFF⟩, ⟨23, 16, .ro, 0xFF⟩, ⟨15, 8, .ro, 0xFF⟩, ⟨7, 0, .ro, 0xFF⟩]⟩,
  ⟨0x200100, [], [⟨15, 0, .ro, 1⟩]⟩,
  ⟨0x201000, [(0x100, 16)], [⟨4, 4, .rw, 0⟩, ⟨3, 3, .rw, 0⟩, ⟨2, 2, .rw, 0⟩, ⟨0, 0, .rw, 0⟩]⟩,
  ⟨0x201004, [(0x100, 16)], [⟨23, 16, .ro, 0⟩, ⟨7, 7, .ro, 0⟩, ⟨6, 6, .ro, 0⟩, ⟨5, 5, .ro, 0⟩, ⟨4, 4, .ro, 0⟩, ⟨3, 3, .ro, 0⟩, ⟨2, 2, .ro, 0⟩, ⟨1, 1, .ro, 0⟩, ⟨0, 0, .ro, 0⟩]⟩,
  ⟨0x201008, [(0x100, 16)], [⟨16, 16, .rw, 0⟩, ⟨15, 8, .rw, 0⟩, ⟨1, 0, .rw, 0⟩]⟩,
  ⟨0x20100C, [(0x100, 16)], [⟨9, 9, .rw, 0⟩, ⟨8, 8, .rw, 0⟩, ⟨7, 7, .rw, 0⟩, ⟨6, 6, .rw, 0⟩, ⟨5, 5, .rw, 0⟩, ⟨4, 4, .rw, 0⟩, ⟨3, 3, .rw, 0⟩, ⟨2, 2, .rw, 0⟩, ⟨1, 1, .rw, 0⟩, ⟨0, 0, .rw, 0⟩]⟩,
  ⟨0x201010, [(0x100, 16)], [⟨24, 16, .rw, 0⟩, ⟨7, 0, .rw, 0⟩]⟩,
  ⟨0x201014, [(0x100, 16)], [⟨15, 0, .rw, 0⟩]⟩,
  ⟨0x201018, [(0x100, 16)], [⟨16, 0, .rw, 0⟩]⟩,
  ⟨0x20101C, [(0x100, 16)], [⟨31, 0, .rw, 0⟩]⟩,
  ⟨0x201020, [(0x100, 16)], [⟨31, 0, .rw, 0⟩]⟩,
  ⟨0x201024, [(0x100, 16)], [⟨31, 0, .rw, 0⟩]⟩,
  ⟨0x201028, [(0x100, 16)], [⟨7, 0, .rw, 0⟩]⟩,
  ⟨0x20102C, [(0x100, 16)], [⟨2, 0, .rw, 0⟩]⟩,
  ⟨0x201040, [(0x100, 16), (0x4, 4)], [⟨31, 24, .rw, 0⟩, ⟨23, 16, .rw, 0⟩, ⟨15, 8, .rw, 0⟩, ⟨7, 0, .rw, 0⟩]⟩,
  ⟨0x201050, [(0x100, 16)], [⟨3, 0, .rw, 0⟩]⟩,
  ⟨0x201060, [(0x100, 16)], [⟨31, 0, .rw, 0⟩]⟩,
  ⟨0x201064, [(0x100, 16)], [⟨31, 0, .rw, 0⟩]⟩,
  ⟨0x201068, [(0x100, 16)], [⟨25, 0, .rw, 0⟩]⟩,
  ⟨0x20106C, [(0x100, 16)], [⟨8, 8, .rw, 0⟩, ⟨5, 4, .rw, 0⟩, ⟨0, 0, .wo, 0⟩]⟩,
  ⟨0x201070, [(0x100, 16)], [⟨31, 31, .ro, 0⟩, ⟨30, 30, .ro, 0⟩, ⟨27, 24, .ro, 0⟩, ⟨23, 16, .ro, 0⟩, ⟨12, 0, .ro, 0⟩]⟩,
  ⟨0x201030, [(0x100, 16)], [⟨31, 0, .ro, 0⟩]⟩,
  ⟨0x201034, [(0x100, 16)], [⟨21, 16, .ro, 0⟩, ⟨15, 0, .ro, 0⟩]⟩,
  ⟨0x201038, [(0x100, 16)], [⟨29, 0, .ro, 0⟩]⟩]
/-- The 48-bit counters of block VAT (R10), each at its lower register. -/
def ctrsVAT : List RegDesc := [
  ⟨0x201080, [(0x100, 16)], []⟩,
  ⟨0x201088, [(0x100, 16)], []⟩,
  ⟨0x201090, [(0x100, 16)], []⟩]
/-- The registers of block CHURN. -/
def regsCHURN : List RegDesc := [
  ⟨0x300000, [], [⟨7, 7, .rw, 0⟩, ⟨3, 2, .rw, 0⟩, ⟨0, 0, .rw, 1⟩]⟩,
  ⟨0x300004, [], [⟨31, 31, .ro, 0⟩, ⟨30, 30, .ro, 0⟩, ⟨29, 29, .w1c, 0⟩, ⟨28, 28, .ro, 0⟩]⟩,
  ⟨0x300008, [(0x4, 2)], [⟨31, 16, .ro, 0⟩, ⟨15, 0, .ro, 0⟩]⟩,
  ⟨0x300010, [], [⟨31, 28, .ro, 0⟩, ⟨17, 0, .ro, 0⟩]⟩,
  ⟨0x300014, [], [⟨11, 0, .ro, 0⟩]⟩]
/-- The 48-bit counters of block CHURN (R10), each at its lower register. -/
def ctrsCHURN : List RegDesc := [
  ⟨0x300100, [], []⟩,
  ⟨0x300108, [], []⟩,
  ⟨0x300110, [], []⟩,
  ⟨0x300118, [], []⟩,
  ⟨0x300120, [], []⟩,
  ⟨0x300128, [], []⟩,
  ⟨0x300130, [], []⟩,
  ⟨0x301000, [(0x40, 16)], []⟩,
  ⟨0x301008, [(0x40, 16)], []⟩,
  ⟨0x301010, [(0x40, 16)], []⟩]
/-- The registers of block NOC. -/
def regsNOC : List RegDesc := [
  ⟨0x1000010, [], [⟨31, 31, .ro, 0⟩, ⟨0, 0, .wo, 0⟩]⟩,
  ⟨0x1001000, [(0x10, 64)], [⟨31, 6, .rw, 0⟩]⟩,
  ⟨0x1001004, [(0x10, 64)], [⟨9, 0, .rw, 0⟩]⟩,
  ⟨0x1001008, [(0x10, 64)], [⟨31, 31, .rw, 0⟩, ⟨21, 16, .rw, 0⟩, ⟨15, 0, .rw, 0⟩]⟩,
  ⟨0x100100C, [(0x10, 64)], [⟨15, 14, .rw, 0⟩, ⟨13, 12, .rw, 0⟩, ⟨11, 8, .rw, 0⟩, ⟨7, 4, .rw, 0⟩, ⟨1, 0, .rw, 0⟩]⟩,
  ⟨0x1020000, [(0x10, 256)], [⟨31, 31, .rw, 1⟩, ⟨27, 16, .rw, 0x40⟩, ⟨15, 0, .rw, 0⟩]⟩,
  ⟨0x1020004, [(0x10, 256)], [⟨31, 31, .ro, 0⟩, ⟨30, 30, .ro, 0⟩, ⟨10, 0, .ro, 0⟩]⟩,
  ⟨0x1040000, [(0x100, 1024)], [⟨31, 31, .rw, 0⟩, ⟨30, 30, .ro, 0⟩, ⟨7, 0, .ro, 0⟩]⟩,
  ⟨0x1040004, [(0x100, 1024)], [⟨19, 0, .rw, 0x3E8⟩]⟩,
  ⟨0x1040008, [(0x100, 1024)], [⟨31, 31, .ro, 0⟩, ⟨30, 30, .ro, 0⟩, ⟨26, 16, .ro, 0⟩, ⟨10, 0, .ro, 0⟩]⟩,
  ⟨0x104000C, [(0x100, 1024)], [⟨31, 0, .rw, 0⟩]⟩]
/-- The 48-bit counters of block NOC (R10), each at its lower register. -/
def ctrsNOC : List RegDesc := [
  ⟨0x1000020, [], []⟩,
  ⟨0x1040010, [(0x100, 1024)], []⟩,
  ⟨0x1040018, [(0x100, 1024)], []⟩,
  ⟨0x1040020, [(0x100, 1024)], []⟩,
  ⟨0x1040028, [(0x100, 1024)], []⟩,
  ⟨0x1040030, [(0x100, 1024)], []⟩,
  ⟨0x1040038, [(0x100, 1024)], []⟩,
  ⟨0x1040040, [(0x100, 1024)], []⟩,
  ⟨0x1040048, [(0x100, 1024)], []⟩,
  ⟨0x1040050, [(0x100, 1024)], []⟩,
  ⟨0x1040058, [(0x100, 1024)], []⟩,
  ⟨0x1040060, [(0x100, 1024)], []⟩]
/-- The registers of block SPAN. -/
def regsSPAN : List RegDesc := [
  ⟨0x1100000, [], [⟨11, 0, .rw, 0⟩]⟩,
  ⟨0x1101000, [(0x100, 4)], [⟨31, 31, .rw, 0⟩, ⟨30, 30, .rw, 0⟩, ⟨25, 22, .rw, 0⟩, ⟨21, 20, .rw, 0⟩, ⟨15, 0, .rw, 0xC8⟩]⟩,
  ⟨0x1101004, [(0x100, 4)], [⟨31, 31, .ro, 0⟩, ⟨30, 30, .ro, 0⟩, ⟨27, 16, .ro, 0⟩, ⟨10, 0, .ro, 0⟩]⟩,
  ⟨0x1200000, [(0x4, 4096)], [⟨31, 31, .rw, 0⟩, ⟨1, 0, .rw, 0⟩]⟩]
/-- The 48-bit counters of block SPAN (R10), each at its lower register. -/
def ctrsSPAN : List RegDesc := [
  ⟨0x1101010, [(0x100, 4)], []⟩,
  ⟨0x1101018, [(0x100, 4)], []⟩,
  ⟨0x1101020, [(0x100, 4)], []⟩,
  ⟨0x1101028, [(0x100, 4)], []⟩,
  ⟨0x1101030, [(0x100, 4)], []⟩,
  ⟨0x1101038, [(0x100, 4)], []⟩,
  ⟨0x1101040, [(0x100, 4)], []⟩,
  ⟨0x1101048, [(0x100, 4)], []⟩,
  ⟨0x1101050, [(0x100, 4)], []⟩]
/-- The registers of block DDR. -/
def regsDDR : List RegDesc := [
  ⟨0x2080000, [], [⟨31, 30, .rw, 0⟩, ⟨29, 28, .rw, 0⟩, ⟨27, 27, .rw, 0⟩, ⟨26, 26, .rw, 0⟩, ⟨25, 25, .rw, 0⟩, ⟨24, 24, .rw, 0⟩]⟩,
  ⟨0x2080004, [], [⟨10, 0, .ro, 0⟩]⟩,
  ⟨0x2080008, [], [⟨31, 31, .ro, 0⟩, ⟨15, 0, .ro, 1⟩]⟩,
  ⟨0x2000000, [(0x10000, 8)], [⟨31, 31, .wo, 0⟩, ⟨30, 30, .wo, 0⟩, ⟨29, 29, .wo, 0⟩, ⟨25, 25, .rw, 0⟩, ⟨24, 24, .rw, 1⟩, ⟨23, 16, .rw, 0⟩, ⟨15, 8, .rw, 0x20⟩, ⟨0, 0, .rw, 1⟩]⟩,
  ⟨0x2000004, [(0x10000, 8)], [⟨31, 28, .ro, 0⟩, ⟨27, 24, .ro, 0⟩, ⟨23, 20, .ro, 0⟩, ⟨19, 16, .ro, 0⟩, ⟨15, 15, .ro, 0⟩, ⟨8, 0, .ro, 0⟩]⟩,
  ⟨0x2000008, [(0x10000, 8)], [⟨31, 28, .rw, 4⟩, ⟨27, 24, .ro, 0⟩, ⟨15, 0, .rw, 0xF3C⟩]⟩,
  ⟨0x200000C, [(0x10000, 8)], [⟨31, 30, .ro, 0⟩, ⟨29, 29, .rw, 0⟩, ⟨28, 28, .ro, 0⟩, ⟨27, 26, .rw, 0⟩, ⟨25, 24, .ro, 0⟩]⟩,
  ⟨0x2000010, [(0x10000, 8)], [⟨29, 0, .ro, 0⟩]⟩,
  ⟨0x2000014, [(0x10000, 8)], [⟨15, 0, .rw, 0⟩]⟩,
  ⟨0x2000018, [(0x10000, 8)], [⟨31, 31, .ro, 0⟩, ⟨11, 0, .rw, 0x10⟩]⟩,
  ⟨0x2000100, [(0x10000, 8), (0x80, 3), (0x4, 19)], [⟨11, 0, .rw, 0⟩]⟩]
/-- The 48-bit counters of block DDR (R10), each at its lower register. -/
def ctrsDDR : List RegDesc := [
  ⟨0x2000300, [(0x10000, 8)], []⟩,
  ⟨0x2000308, [(0x10000, 8)], []⟩,
  ⟨0x2000310, [(0x10000, 8)], []⟩,
  ⟨0x2000318, [(0x10000, 8)], []⟩,
  ⟨0x2000320, [(0x10000, 8)], []⟩,
  ⟨0x2000328, [(0x10000, 8)], []⟩,
  ⟨0x2000330, [(0x10000, 8)], []⟩,
  ⟨0x2000400, [(0x10000, 8), (0x40, 4)], []⟩,
  ⟨0x2000408, [(0x10000, 8), (0x40, 4)], []⟩,
  ⟨0x2000410, [(0x10000, 8), (0x40, 4)], []⟩,
  ⟨0x2000418, [(0x10000, 8), (0x40, 4)], []⟩,
  ⟨0x2000800, [(0x10000, 8), (0x8, 17)], []⟩]
/-- The registers of block LANE. -/
def regsLANE : List RegDesc := [
  ⟨0x3000000, [(0x1000, 100)], [⟨31, 30, .rw, 0⟩, ⟨29, 28, .rw, 0⟩, ⟨27, 27, .rw, 0⟩, ⟨26, 26, .rw, 0⟩, ⟨23, 16, .rw, 0x50⟩, ⟨15, 14, .rw, 0⟩, ⟨13, 13, .rw, 0⟩, ⟨12, 12, .rw, 0⟩, ⟨11, 11, .rw, 0⟩, ⟨10, 10, .rw, 0⟩, ⟨3, 0, .rw, 0⟩]⟩,
  ⟨0x3000004, [(0x1000, 100)], [⟨31, 29, .ro, 0⟩, ⟨28, 27, .ro, 0⟩, ⟨26, 26, .ro, 0⟩, ⟨25, 25, .ro, 0⟩, ⟨24, 24, .ro, 0⟩, ⟨23, 23, .ro, 0⟩, ⟨7, 0, .ro, 0⟩]⟩,
  ⟨0x3000008, [(0x1000, 100)], [⟨31, 28, .rw, 0⟩, ⟨27, 24, .rw, 0xA⟩]⟩,
  ⟨0x300000C, [(0x1000, 100)], [⟨31, 24, .rw, 0⟩, ⟨23, 16, .rw, 0⟩, ⟨15, 8, .rw, 0x40⟩, ⟨7, 0, .rw, 0⟩]⟩,
  ⟨0x3000010, [(0x1000, 100)], [⟨31, 31, .rw, 0⟩, ⟨30, 30, .rw, 0⟩, ⟨24, 20, .rw, 0⟩, ⟨7, 0, .rw, 0x30⟩]⟩,
  ⟨0x3000014, [(0x1000, 100)], [⟨4, 0, .ro, 0⟩]⟩,
  ⟨0x3000040, [(0x1000, 100), (0x4, 12)], [⟨7, 0, .ro, 0⟩]⟩,
  ⟨0x3000020, [(0x1000, 100)], [⟨31, 31, .rw, 0⟩, ⟨30, 27, .rw, 0⟩, ⟨26, 26, .rw, 0⟩, ⟨25, 22, .rw, 0⟩, ⟨7, 0, .rw, 0x80⟩]⟩,
  ⟨0x3000024, [(0x1000, 100)], [⟨31, 31, .ro, 0⟩, ⟨30, 30, .w1c, 0⟩]⟩,
  ⟨0x3000028, [(0x1000, 100)], [⟨31, 31, .wo, 0⟩, ⟨30, 30, .rw, 0⟩, ⟨29, 24, .rw, 0x14⟩]⟩,
  ⟨0x3000030, [(0x1000, 100), (0x4, 4)], [⟨31, 0, .rw, 0⟩]⟩,
  ⟨0x3000070, [(0x1000, 100)], [⟨5, 5, .rw, 0⟩, ⟨4, 4, .rw, 0⟩, ⟨3, 3, .rw, 0⟩, ⟨2, 2, .rw, 0⟩, ⟨1, 1, .rw, 0⟩, ⟨0, 0, .rw, 0⟩]⟩,
  ⟨0x3000074, [(0x1000, 100)], [⟨5, 5, .w1c, 0⟩, ⟨4, 4, .w1c, 0⟩, ⟨3, 3, .w1c, 0⟩, ⟨2, 2, .w1c, 0⟩, ⟨1, 1, .w1c, 0⟩, ⟨0, 0, .w1c, 0⟩]⟩,
  ⟨0x3000800, [(0x4000, 25), (0x4, 2)], [⟨31, 31, .rw, 0⟩, ⟨30, 30, .ro, 0⟩, ⟨9, 0, .rw, 0x154⟩]⟩,
  ⟨0x3000810, [(0x4000, 25)], [⟨31, 31, .ro, 0⟩, ⟨21, 20, .rw, 0⟩, ⟨17, 0, .rw, 0x2625A⟩]⟩]
/-- The 48-bit counters of block LANE (R10), each at its lower register. -/
def ctrsLANE : List RegDesc := [
  ⟨0x3000100, [(0x1000, 100)], []⟩,
  ⟨0x3000108, [(0x1000, 100)], []⟩,
  ⟨0x3000110, [(0x1000, 100)], []⟩,
  ⟨0x3000118, [(0x1000, 100)], []⟩,
  ⟨0x3000120, [(0x1000, 100)], []⟩,
  ⟨0x3000128, [(0x1000, 100)], []⟩,
  ⟨0x3000130, [(0x1000, 100)], []⟩,
  ⟨0x3000820, [(0x4000, 25)], []⟩]
/-- The registers of block FEN. -/
def regsFEN : List RegDesc := [
  ⟨0x4000000, [(0x1000, 100)], [⟨31, 31, .rw, 0⟩, ⟨30, 30, .rw, 0⟩, ⟨29, 28, .rw, 0⟩, ⟨27, 27, .rw, 0⟩, ⟨26, 26, .rw, 1⟩, ⟨23, 20, .rw, 0⟩, ⟨19, 6, .rw, 0x5F2⟩]⟩,
  ⟨0x4000004, [(0x1000, 100)], [⟨31, 31, .ro, 0⟩, ⟨30, 30, .ro, 0⟩, ⟨29, 29, .ro, 0⟩, ⟨28, 28, .ro, 0⟩, ⟨27, 27, .ro, 0⟩, ⟨10, 0, .ro, 0⟩]⟩,
  ⟨0x4000008, [(0x1000, 100)], [⟨31, 31, .rw, 0⟩, ⟨30, 30, .rw, 0⟩, ⟨29, 29, .rw, 0⟩, ⟨28, 28, .rw, 0⟩, ⟨27, 25, .rw, 0⟩]⟩,
  ⟨0x400000C, [(0x1000, 100)], [⟨31, 16, .rw, 0⟩, ⟨15, 0, .rw, 0⟩]⟩,
  ⟨0x4000010, [(0x1000, 100)], [⟨26, 24, .rw, 0⟩, ⟨6, 0, .rw, 0xA⟩]⟩,
  ⟨0x4000014, [(0x1000, 100)], [⟨31, 31, .rw, 0⟩]⟩,
  ⟨0x4000018, [(0x1000, 100)], [⟨31, 31, .wo, 0⟩, ⟨30, 30, .rw, 0⟩, ⟨23, 16, .rw, 0⟩, ⟨15, 0, .rw, 0xFFFF⟩]⟩,
  ⟨0x4000020, [(0x1000, 100)], [⟨4, 4, .rw, 0⟩, ⟨3, 3, .rw, 0⟩, ⟨2, 2, .rw, 0⟩, ⟨1, 1, .rw, 0⟩, ⟨0, 0, .rw, 0⟩]⟩,
  ⟨0x4000024, [(0x1000, 100)], [⟨4, 4, .w1c, 0⟩, ⟨3, 3, .w1c, 0⟩, ⟨2, 2, .w1c, 0⟩, ⟨1, 1, .w1c, 0⟩, ⟨0, 0, .w1c, 0⟩]⟩]
/-- The 48-bit counters of block FEN (R10), each at its lower register. -/
def ctrsFEN : List RegDesc := [
  ⟨0x4000100, [(0x1000, 100)], []⟩,
  ⟨0x4000108, [(0x1000, 100)], []⟩,
  ⟨0x4000110, [(0x1000, 100)], []⟩,
  ⟨0x4000118, [(0x1000, 100)], []⟩,
  ⟨0x4000120, [(0x1000, 100)], []⟩,
  ⟨0x4000128, [(0x1000, 100)], []⟩,
  ⟨0x4000130, [(0x1000, 100)], []⟩,
  ⟨0x4000138, [(0x1000, 100)], []⟩,
  ⟨0x4000140, [(0x1000, 100)], []⟩,
  ⟨0x4000148, [(0x1000, 100)], []⟩,
  ⟨0x4000150, [(0x1000, 100)], []⟩,
  ⟨0x4000158, [(0x1000, 100)], []⟩,
  ⟨0x4000160, [(0x1000, 100)], []⟩,
  ⟨0x4000168, [(0x1000, 100)], []⟩,
  ⟨0x4000170, [(0x1000, 100)], []⟩,
  ⟨0x4000178, [(0x1000, 100)], []⟩,
  ⟨0x4000180, [(0x1000, 100)], []⟩,
  ⟨0x4000188, [(0x1000, 100)], []⟩,
  ⟨0x4000190, [(0x1000, 100)], []⟩]
/-- The registers of block QM. -/
def regsQM : List RegDesc := [
  ⟨0x4900000, [(0x20, 65536)], [⟨31, 31, .rw, 0⟩, ⟨30, 30, .rw, 0⟩, ⟨29, 29, .rw, 1⟩, ⟨28, 28, .rw, 0⟩, ⟨26, 24, .rw, 0⟩, ⟨23, 16, .rw, 1⟩, ⟨15, 12, .rw, 3⟩, ⟨7, 0, .rw, 0⟩]⟩,
  ⟨0x4900004, [(0x20, 65536)], [⟨31, 0, .rw, 0⟩]⟩,
  ⟨0x4900008, [(0x20, 65536)], [⟨31, 0, .rw, 0⟩]⟩,
  ⟨0x490000C, [(0x20, 65536)], [⟨15, 0, .rw, 0⟩]⟩,
  ⟨0x4900010, [(0x20, 65536)], [⟨15, 0, .ro, 0⟩]⟩,
  ⟨0x4900014, [(0x20, 65536)], [⟨31, 30, .ro, 0⟩, ⟨27, 24, .ro, 0⟩, ⟨15, 0, .ro, 0⟩]⟩,
  ⟨0x4800000, [], [⟨31, 0, .rw, 0⟩]⟩,
  ⟨0x4800004, [], [⟨31, 0, .rw, 0⟩]⟩,
  ⟨0x4800008, [], [⟨15, 0, .rw, 0⟩]⟩,
  ⟨0x480000C, [], [⟨15, 0, .rw, 0x400⟩]⟩,
  ⟨0x4800010, [], [⟨31, 16, .ro, 0⟩, ⟨15, 0, .ro, 0xFFFF⟩]⟩,
  ⟨0x4800014, [], [⟨15, 0, .wo, 0⟩]⟩,
  ⟨0x4801000, [(0x40, 16)], [⟨19, 0, .rw, 0xFFFFF⟩]⟩,
  ⟨0x4801004, [(0x40, 16)], [⟨19, 0, .ro, 0⟩]⟩]
/-- The 48-bit counters of block QM (R10), each at its lower register. -/
def ctrsQM : List RegDesc := [
  ⟨0x4900018, [(0x20, 65536)], []⟩,
  ⟨0x4800100, [], []⟩,
  ⟨0x4801008, [(0x40, 16)], []⟩]
/-- The registers of block TIME. -/
def regsTIME : List RegDesc := [
  ⟨0x5000000, [], [⟨1, 1, .rw, 0⟩, ⟨0, 0, .rw, 0⟩]⟩,
  ⟨0x5000004, [], [⟨31, 31, .ro, 0⟩, ⟨30, 30, .ro, 0⟩, ⟨29, 29, .ro, 0⟩, ⟨28, 28, .ro, 0⟩, ⟨0, 0, .ro, 0⟩]⟩,
  ⟨0x5000008, [], [⟨15, 8, .ro, 0⟩, ⟨7, 0, .ro, 0⟩]⟩,
  ⟨0x5001000, [(0x100, 8)], [⟨31, 31, .rw, 0⟩, ⟨25, 16, .rw, 0⟩, ⟨1, 0, .wo, 0⟩]⟩,
  ⟨0x5001004, [(0x100, 8)], [⟨31, 30, .ro, 0⟩, ⟨29, 29, .w1c, 0⟩, ⟨28, 28, .ro, 0⟩]⟩,
  ⟨0x5001008, [(0x100, 8)], [⟨31, 0, .rw, 0⟩]⟩,
  ⟨0x500100C, [(0x100, 8)], [⟨31, 0, .rw, 1⟩]⟩,
  ⟨0x5001010, [(0x100, 8)], [⟨31, 0, .rw, 0⟩]⟩,
  ⟨0x5001014, [(0x100, 8)], [⟨21, 16, .rw, 0⟩, ⟨15, 0, .rw, 0⟩]⟩,
  ⟨0x5001018, [(0x100, 8)], [⟨31, 0, .rw, 0⟩]⟩,
  ⟨0x5001020, [(0x100, 8)], [⟨31, 0, .ro, 0⟩]⟩,
  ⟨0x5001024, [(0x100, 8)], [⟨21, 16, .ro, 0⟩, ⟨15, 0, .ro, 0⟩]⟩,
  ⟨0x5001028, [(0x100, 8)], [⟨31, 0, .ro, 0⟩]⟩,
  ⟨0x5002000, [(0x40, 16)], [⟨31, 31, .rw, 0⟩, ⟨30, 30, .rw, 0⟩, ⟨29, 29, .rw, 0⟩, ⟨28, 28, .rw, 0⟩, ⟨27, 24, .rw, 0⟩, ⟨18, 16, .rw, 0⟩]⟩,
  ⟨0x5002004, [(0x40, 16)], [⟨31, 0, .rw, 0⟩]⟩,
  ⟨0x5002008, [(0x40, 16)], [⟨21, 16, .rw, 0⟩, ⟨15, 0, .rw, 0⟩]⟩,
  ⟨0x500200C, [(0x40, 16)], [⟨31, 0, .rw, 0⟩]⟩,
  ⟨0x5002010, [(0x40, 16)], [⟨31, 0, .rw, 0x3B9ACA00⟩]⟩,
  ⟨0x5002014, [(0x40, 16)], [⟨5, 0, .rw, 0⟩]⟩,
  ⟨0x5002018, [(0x40, 16)], [⟨29, 0, .rw, 0x64⟩]⟩,
  ⟨0x500201C, [(0x40, 16)], [⟨7, 0, .rw, 0⟩]⟩,
  ⟨0x5003000, [(0x40, 9)], [⟨31, 31, .rw, 0⟩, ⟨30, 29, .rw, 1⟩, ⟨28, 28, .rw, 0⟩, ⟨27, 24, .rw, 0⟩, ⟨18, 16, .rw, 0⟩, ⟨7, 0, .rw, 0⟩]⟩,
  ⟨0x5003004, [(0x40, 9)], [⟨31, 31, .w1c, 0⟩, ⟨2, 0, .ro, 0⟩]⟩,
  ⟨0x5003008, [(0x40, 9)], [⟨31, 31, .rc, 0⟩, ⟨30, 30, .rc, 0⟩, ⟨21, 16, .rc, 0⟩, ⟨15, 0, .rc, 0⟩]⟩,
  ⟨0x5003014, [(0x40, 9)], [⟨31, 31, .ro, 0⟩, ⟨30, 30, .ro, 0⟩, ⟨21, 16, .ro, 0⟩, ⟨15, 0, .ro, 0⟩]⟩,
  ⟨0x500300C, [(0x40, 9)], [⟨31, 0, .ro, 0⟩]⟩,
  ⟨0x5003010, [(0x40, 9)], [⟨31, 0, .ro, 0⟩]⟩,
  ⟨0x5004000, [(0x40, 15)], [⟨31, 31, .rw, 0⟩, ⟨28, 28, .rw, 0⟩, ⟨27, 24, .rw, 0⟩, ⟨18, 16, .rw, 0⟩]⟩,
  ⟨0x5004004, [(0x40, 15)], [⟨31, 0, .rw, 0⟩]⟩,
  ⟨0x5004008, [(0x40, 15)], [⟨21, 16, .rw, 0⟩, ⟨15, 0, .rw, 0⟩]⟩,
  ⟨0x500400C, [(0x40, 15)], [⟨31, 0, .rw, 0⟩]⟩,
  ⟨0x5004010, [(0x40, 15)], [⟨31, 31, .w1c, 0⟩, ⟨30, 30, .w1c, 0⟩]⟩,
  ⟨0x5100000, [(0x100, 96)], [⟨31, 31, .rw, 0⟩, ⟨30, 30, .rw, 0⟩, ⟨29, 29, .rw, 0⟩]⟩,
  ⟨0x5100004, [(0x100, 96)], [⟨19, 0, .rw, 0⟩]⟩,
  ⟨0x5100008, [(0x100, 96)], [⟨19, 0, .rw, 0⟩]⟩,
  ⟨0x510000C, [(0x100, 96)], [⟨19, 0, .rw, 0⟩]⟩,
  ⟨0x5100010, [(0x100, 96)], [⟨31, 31, .w1c, 0⟩, ⟨4, 0, .ro, 0⟩]⟩,
  ⟨0x5100014, [(0x100, 96)], [⟨31, 31, .rc, 0⟩, ⟨21, 16, .rc, 0⟩, ⟨15, 0, .rc, 0⟩]⟩,
  ⟨0x5100024, [(0x100, 96)], [⟨31, 31, .ro, 0⟩, ⟨21, 16, .ro, 0⟩, ⟨15, 0, .ro, 0⟩]⟩,
  ⟨0x5100018, [(0x100, 96)], [⟨31, 0, .ro, 0⟩]⟩,
  ⟨0x510001C, [(0x100, 96)], [⟨15, 0, .ro, 0⟩]⟩,
  ⟨0x5100020, [(0x100, 96)], [⟨31, 0, .ro, 0⟩]⟩]
/-- The 48-bit counters of block TIME (R10), each at its lower register. -/
def ctrsTIME : List RegDesc := [
  ⟨0x5000010, [], []⟩,
  ⟨0x5001030, [(0x100, 8)], []⟩,
  ⟨0x5001038, [(0x100, 8)], []⟩,
  ⟨0x5003018, [(0x40, 9)], []⟩,
  ⟨0x5100030, [(0x100, 96)], []⟩,
  ⟨0x5100038, [(0x100, 96)], []⟩]
/-- The registers of block IRQ. -/
def regsIRQ : List RegDesc := [
  ⟨0x6000000, [(0x4, 1024)], [⟨31, 31, .rw, 0⟩, ⟨30, 30, .rw, 0⟩, ⟨29, 29, .rw, 0⟩, ⟨28, 27, .rw, 3⟩, ⟨21, 16, .rw, 0⟩, ⟨3, 0, .rw, 0⟩]⟩,
  ⟨0x6001000, [(0x4, 32)], [⟨31, 0, .w1c, 0⟩]⟩,
  ⟨0x6001100, [], [⟨31, 31, .wo, 0⟩, ⟨5, 0, .wo, 0⟩]⟩,
  ⟨0x6001200, [(0x4, 4)], [⟨31, 0, .w1c, 0⟩]⟩,
  ⟨0x6002000, [(0x40, 6)], [⟨31, 31, .ro, 0⟩, ⟨30, 30, .ro, 0⟩, ⟨7, 4, .ro, 0⟩, ⟨3, 0, .rw, 0⟩]⟩,
  ⟨0x6002004, [(0x40, 6)], [⟨31, 31, .rc, 0⟩, ⟨9, 0, .rc, 0⟩]⟩,
  ⟨0x6002008, [(0x40, 6)], [⟨9, 0, .wo, 0⟩]⟩,
  ⟨0x600200C, [(0x40, 6)], [⟨31, 31, .ro, 0⟩, ⟨9, 0, .ro, 0⟩]⟩,
  ⟨0x6002010, [(0x40, 6)], [⟨0, 0, .rw, 0⟩]⟩,
  ⟨0x6003000, [(0x4, 256)], [⟨31, 31, .rw, 0⟩, ⟨5, 4, .rw, 0⟩, ⟨3, 0, .rw, 0⟩]⟩,
  ⟨0x6080000, [(0x1000, 16)], [⟨31, 31, .rc, 0⟩, ⟨4, 0, .rc, 0⟩]⟩,
  ⟨0x6080004, [(0x1000, 16)], [⟨4, 0, .wo, 0⟩]⟩,
  ⟨0x6080008, [(0x1000, 16)], [⟨31, 0, .ro, 0⟩]⟩,
  ⟨0x608000C, [(0x1000, 16)], [⟨31, 31, .ro, 0⟩, ⟨4, 0, .ro, 0⟩]⟩]
/-- The 48-bit counters of block IRQ (R10), each at its lower register. -/
def ctrsIRQ : List RegDesc := [
]
/-- The registers of block SCP. -/
def regsSCP : List RegDesc := [
  ⟨0x6100000, [], [⟨7, 0, .rw, 0⟩]⟩,
  ⟨0x6100010, [(0x8, 4)], [⟨22, 12, .rw, 0⟩]⟩,
  ⟨0x6100014, [(0x8, 4)], [⟨31, 31, .w1s, 0⟩, ⟨11, 0, .rw, 0⟩]⟩]
/-- The 48-bit counters of block SCP (R10), each at its lower register. -/
def ctrsSCP : List RegDesc := [
  ⟨0x6100100, [], []⟩,
  ⟨0x6100108, [], []⟩]
/-- The registers of block DMA. -/
def regsDMA : List RegDesc := [
  ⟨0x6201000, [(0x100, 16)], [⟨31, 31, .wo, 0⟩, ⟨30, 30, .wo, 0⟩, ⟨3, 0, .rw, 0⟩]⟩,
  ⟨0x6201004, [(0x100, 16)], [⟨31, 0, .rw, 0⟩]⟩,
  ⟨0x6201008, [(0x100, 16)], [⟨31, 0, .rw, 0⟩]⟩,
  ⟨0x620100C, [(0x100, 16)], [⟨31, 30, .ro, 0⟩, ⟨29, 29, .w1c, 0⟩, ⟨27, 24, .ro, 0⟩]⟩]
/-- The 48-bit counters of block DMA (R10), each at its lower register. -/
def ctrsDMA : List RegDesc := [
  ⟨0x6201010, [(0x100, 16)], []⟩,
  ⟨0x6201018, [(0x100, 16)], []⟩]
/-- The registers of block SVC. -/
def regsSVC : List RegDesc := [
  ⟨0x6400000, [(0x1000, 20)], [⟨31, 31, .rw, 0⟩, ⟨3, 0, .rw, 0⟩]⟩,
  ⟨0x6400004, [(0x1000, 8)], [⟨31, 31, .rw, 0⟩, ⟨29, 28, .rw, 0⟩, ⟨27, 27, .rw, 0⟩, ⟨26, 26, .rw, 0⟩, ⟨15, 0, .rw, 0x6D⟩]⟩,
  ⟨0x6408004, [(0x1000, 8)], [⟨31, 31, .rw, 0⟩, ⟨1, 0, .rw, 0⟩]⟩,
  ⟨0x6410004, [(0x1000, 4)], [⟨31, 31, .rw, 0⟩, ⟨25, 24, .rw, 0⟩, ⟨17, 16, .rw, 0⟩, ⟨7, 0, .rw, 4⟩]⟩,
  ⟨0x6400008, [(0x1000, 20)], [⟨15, 0, .wo, 0⟩]⟩,
  ⟨0x640000C, [(0x1000, 20)], [⟨31, 31, .rc, 0⟩, ⟨15, 0, .rc, 0⟩]⟩,
  ⟨0x6400010, [(0x1000, 20)], [⟨31, 31, .ro, 0⟩, ⟨15, 0, .ro, 0⟩]⟩,
  ⟨0x6400014, [(0x1000, 20)], [⟨31, 31, .ro, 0⟩, ⟨30, 30, .w1c, 0⟩, ⟨29, 29, .w1c, 0⟩, ⟨28, 28, .w1c, 0⟩, ⟨14, 8, .ro, 0⟩, ⟨6, 0, .ro, 0⟩]⟩,
  ⟨0x6400018, [(0x1000, 20)], [⟨3, 0, .rw, 0⟩]⟩,
  ⟨0x640001C, [(0x1000, 20)], [⟨3, 0, .w1c, 0⟩]⟩,
  ⟨0x6300000, [(0x20, 5)], [⟨31, 31, .rw, 0⟩, ⟨30, 30, .wo, 0⟩, ⟨29, 29, .ro, 0⟩, ⟨28, 28, .ro, 0⟩]⟩,
  ⟨0x6300004, [(0x20, 5)], [⟨31, 0, .rw, 0⟩]⟩,
  ⟨0x6300008, [(0x20, 5)], [⟨31, 0, .rw, 0⟩]⟩,
  ⟨0x6300100, [], [⟨31, 0, .ro, 0⟩]⟩,
  ⟨0x6300104, [], [⟨31, 0, .ro, 0⟩]⟩,
  ⟨0x6300110, [(0x8, 4)], [⟨31, 0, .rw, 0xFFFFFFFF⟩]⟩,
  ⟨0x6300114, [(0x8, 4)], [⟨31, 0, .rw, 0xFFFFFFFF⟩]⟩,
  ⟨0x6300200, [(0x8, 8)], [⟨31, 28, .rw, 0⟩, ⟨0, 0, .rw, 0⟩]⟩,
  ⟨0x6300204, [(0x8, 8)], [⟨31, 0, .rw, 0⟩]⟩,
  ⟨0x6300240, [(0x8, 8)], [⟨31, 28, .rw, 0⟩, ⟨0, 0, .rw, 0⟩]⟩,
  ⟨0x6300244, [(0x8, 8)], [⟨31, 0, .rw, 0⟩]⟩]
/-- The 48-bit counters of block SVC (R10), each at its lower register. -/
def ctrsSVC : List RegDesc := [
]
/-- The registers of block MGT. -/
def regsMGT : List RegDesc := [
  ⟨0x7000000, [(0x100, 4)], [⟨31, 31, .rw, 1⟩, ⟨30, 29, .rw, 2⟩, ⟨28, 25, .rw, 0⟩]⟩,
  ⟨0x7000004, [(0x100, 4)], [⟨31, 31, .ro, 0⟩, ⟨30, 30, .ro, 0⟩, ⟨29, 28, .ro, 0⟩, ⟨27, 18, .ro, 0⟩, ⟨17, 9, .ro, 0⟩, ⟨8, 0, .ro, 0⟩]⟩,
  ⟨0x7000008, [(0x100, 4)], [⟨15, 0, .ro, 0⟩]⟩,
  ⟨0x700000C, [(0x100, 4)], [⟨31, 20, .rw, 0xA⟩, ⟨19, 0, .rw, 0x7D0⟩]⟩,
  ⟨0x7000010, [(0x100, 4)], [⟨31, 0, .ro, 0⟩]⟩,
  ⟨0x7000014, [(0x100, 4)], [⟨15, 0, .ro, 0⟩]⟩,
  ⟨0x7000018, [(0x100, 4)], [⟨31, 0, .ro, 0⟩]⟩,
  ⟨0x700001C, [(0x100, 4)], [⟨15, 0, .ro, 0⟩]⟩]
/-- The 48-bit counters of block MGT (R10), each at its lower register. -/
def ctrsMGT : List RegDesc := [
  ⟨0x7000040, [(0x100, 4)], []⟩,
  ⟨0x7000048, [(0x100, 4)], []⟩,
  ⟨0x7000050, [(0x100, 4)], []⟩,
  ⟨0x7000058, [(0x100, 4)], []⟩,
  ⟨0x7000060, [(0x100, 4)], []⟩,
  ⟨0x7000068, [(0x100, 4)], []⟩,
  ⟨0x7000070, [(0x100, 4)], []⟩,
  ⟨0x7000078, [(0x100, 4)], []⟩,
  ⟨0x7000080, [(0x100, 4)], []⟩,
  ⟨0x7000088, [(0x100, 4)], []⟩,
  ⟨0x7000090, [(0x100, 4)], []⟩,
  ⟨0x7000098, [(0x100, 4)], []⟩]
/-- The registers of block DBG. -/
def regsDBG : List RegDesc := [
  ⟨0x7100000, [], [⟨31, 31, .w1s, 0⟩]⟩,
  ⟨0x7100004, [], [⟨31, 31, .ro, 0⟩, ⟨30, 29, .ro, 0⟩, ⟨28, 24, .ro, 0⟩, ⟨7, 0, .ro, 0⟩]⟩]
/-- The 48-bit counters of block DBG (R10), each at its lower register. -/
def ctrsDBG : List RegDesc := [
]
/-- The registers of block CEL. -/
def regsCEL : List RegDesc := [
  ⟨0x8000000, [], [⟨31, 31, .wo, 0⟩, ⟨30, 28, .rw, 1⟩]⟩,
  ⟨0x8000004, [], [⟨28, 3, .rw, 0⟩]⟩,
  ⟨0x8000008, [], [⟨31, 0, .rw, 0⟩]⟩,
  ⟨0x800000C, [], [⟨31, 0, .rw, 0⟩]⟩,
  ⟨0x8000010, [(0x4, 4)], [⟨31, 31, .ro, 0⟩, ⟨30, 30, .ro, 0⟩, ⟨29, 29, .ro, 0⟩, ⟨28, 28, .w1c, 0⟩, ⟨27, 24, .ro, 0⟩, ⟨12, 0, .ro, 0⟩]⟩,
  ⟨0x8000020, [], [⟨31, 31, .ro, 0⟩, ⟨1, 0, .ro, 0⟩]⟩,
  ⟨0x8000024, [], [⟨31, 31, .ro, 0⟩, ⟨24, 16, .ro, 0⟩, ⟨8, 0, .ro, 0⟩]⟩,
  ⟨0x8000028, [], [⟨31, 31, .ro, 0⟩, ⟨30, 30, .ro, 0⟩, ⟨15, 8, .ro, 0xE0⟩, ⟨7, 0, .ro, 0x20⟩]⟩,
  ⟨0x8000100, [(0x4, 16)], [⟨31, 0, .rw, 0⟩]⟩]
/-- The 48-bit counters of block CEL (R10), each at its lower register. -/
def ctrsCEL : List RegDesc := [
  ⟨0x8000030, [], []⟩,
  ⟨0x8000038, [], []⟩,
  ⟨0x8000040, [], []⟩,
  ⟨0x8000048, [(0x8, 4)], []⟩,
  ⟨0x8000068, [], []⟩]
/-- The registers of block BIST. -/
def regsBIST : List RegDesc := [
  ⟨0x9000000, [(0x100, 4)], [⟨31, 31, .wo, 0⟩, ⟨30, 29, .rw, 0⟩, ⟨23, 0, .rw, 0⟩]⟩,
  ⟨0x9000004, [(0x100, 4)], [⟨31, 31, .ro, 0⟩, ⟨30, 30, .ro, 0⟩, ⟨29, 27, .ro, 0⟩, ⟨26, 26, .w1c, 0⟩]⟩,
  ⟨0x9000010, [(0x100, 4), (0x4, 4)], [⟨31, 0, .ro, 0⟩]⟩,
  ⟨0x9001000, [], [⟨12, 0, .ro, 0⟩]⟩]
/-- The 48-bit counters of block BIST (R10), each at its lower register. -/
def ctrsBIST : List RegDesc := [
  ⟨0x9001010, [], []⟩,
  ⟨0x9001018, [], []⟩,
  ⟨0x9001020, [], []⟩]
/-- The registers of block LCS. -/
def regsLCS : List RegDesc := [
  ⟨0xA000000, [], [⟨31, 31, .ro, 0⟩, ⟨1, 0, .ro, 0⟩]⟩,
  ⟨0xA000004, [], [⟨24, 16, .ro, 0⟩, ⟨8, 0, .ro, 0⟩]⟩,
  ⟨0xA000010, [(0x4, 4)], [⟨31, 0, .ro, 0⟩]⟩]
/-- The 48-bit counters of block LCS (R10), each at its lower register. -/
def ctrsLCS : List RegDesc := [
]
/-- The registers of block HIO. -/
def regsHIO : List RegDesc := [
  ⟨0xB000000, [(0x100, 12)], [⟨1, 0, .rw, 0⟩]⟩,
  ⟨0xB000004, [(0x100, 12)], [⟨31, 31, .ro, 1⟩, ⟨30, 30, .ro, 0⟩, ⟨29, 28, .ro, 0⟩, ⟨7, 0, .ro, 0⟩]⟩]
/-- The 48-bit counters of block HIO (R10), each at its lower register. -/
def ctrsHIO : List RegDesc := [
]
/-- The registers of block SLC. -/
def regsSLC : List RegDesc := [
  ⟨0xC000000, [(0x1000, 10752)], [⟨2, 2, .wo, 0⟩, ⟨1, 1, .wo, 0⟩, ⟨0, 0, .wo, 0⟩]⟩,
  ⟨0xC000004, [(0x1000, 10752)], [⟨31, 29, .ro, 0⟩, ⟨28, 26, .ro, 0⟩, ⟨25, 24, .ro, 0⟩, ⟨23, 18, .ro, 0⟩, ⟨17, 16, .ro, 0⟩, ⟨15, 14, .ro, 0⟩, ⟨13, 13, .ro, 0⟩, ⟨12, 12, .ro, 0⟩, ⟨11, 11, .ro, 0⟩, ⟨10, 10, .ro, 0⟩, ⟨9, 9, .ro, 0⟩, ⟨8, 8, .ro, 0⟩]⟩,
  ⟨0xC000008, [(0x1000, 10752)], [⟨9, 9, .w1c, 0⟩, ⟨8, 8, .w1c, 0⟩, ⟨7, 7, .w1c, 0⟩, ⟨6, 6, .w1c, 0⟩, ⟨5, 5, .w1c, 0⟩, ⟨4, 4, .w1c, 0⟩, ⟨3, 3, .w1c, 0⟩, ⟨2, 2, .w1c, 0⟩, ⟨1, 1, .w1c, 0⟩]⟩,
  ⟨0xC00000C, [(0x1000, 10752), (0x4, 2)], [⟨31, 31, .ro, 0⟩, ⟨27, 22, .ro, 0⟩, ⟨21, 16, .ro, 0⟩, ⟨15, 0, .ro, 0⟩]⟩,
  ⟨0xC000018, [(0x1000, 10752)], [⟨31, 0, .ro, 0⟩]⟩,
  ⟨0xC00001C, [(0x1000, 10752)], [⟨31, 0, .ro, 0⟩]⟩,
  ⟨0xC000020, [(0x1000, 10752)], [⟨31, 0, .ro, 0⟩]⟩,
  ⟨0xC000024, [(0x1000, 10752)], [⟨31, 0, .ro, 0⟩]⟩,
  ⟨0xC000028, [(0x1000, 10752)], [⟨31, 0, .ro, 0⟩]⟩,
  ⟨0xC00002C, [(0x1000, 10752)], [⟨31, 0, .ro, 0⟩]⟩,
  ⟨0xC000030, [(0x1000, 10752), (0x8, 4)], [⟨25, 16, .ro, 0⟩, ⟨9, 0, .ro, 0⟩]⟩,
  ⟨0xC000034, [(0x1000, 10752), (0x8, 4)], [⟨26, 16, .ro, 0⟩, ⟨10, 0, .ro, 1⟩]⟩,
  ⟨0xC000050, [(0x1000, 10752)], [⟨31, 31, .ro, 0⟩, ⟨30, 30, .rw, 0⟩, ⟨29, 29, .rw, 0⟩, ⟨9, 0, .rw, 0⟩]⟩,
  ⟨0xC000054, [(0x1000, 10752)], [⟨31, 0, .rw, 0⟩]⟩,
  ⟨0xC000058, [(0x1000, 10752)], [⟨5, 5, .ro, 0⟩, ⟨4, 4, .rw, 0⟩, ⟨3, 0, .rw, 0⟩]⟩,
  ⟨0xFF00000, [(0x4, 336)], [⟨31, 0, .ro, 0⟩]⟩]
/-- The 48-bit counters of block SLC (R10), each at its lower register. -/
def ctrsSLC : List RegDesc := [
  ⟨0xC000060, [(0x1000, 10752)], []⟩,
  ⟨0xC000068, [(0x1000, 10752)], []⟩,
  ⟨0xC000070, [(0x1000, 10752)], []⟩]

/-- R38: the register blocks with their first and last offsets, their registers and their counters. -/
structure BlockDesc where
  first : Nat
  last : Nat
  regs : List RegDesc
  ctrs : List RegDesc

/-- R38, in the order of its table. -/
def blocks : List BlockDesc := [
  ⟨0x0, 0xFFFF, regsCLK, ctrsCLK⟩,
  ⟨0x10000, 0xFFFFF, regsPWR, ctrsPWR⟩,
  ⟨0x100000, 0x1FFFFF, regsCFG, ctrsCFG⟩,
  ⟨0x200000, 0x2FFFFF, regsVAT, ctrsVAT⟩,
  ⟨0x300000, 0xFFFFFF, regsCHURN, ctrsCHURN⟩,
  ⟨0x1000000, 0x10FFFFF, regsNOC, ctrsNOC⟩,
  ⟨0x1100000, 0x1FFFFFF, regsSPAN, ctrsSPAN⟩,
  ⟨0x2000000, 0x2FFFFFF, regsDDR, ctrsDDR⟩,
  ⟨0x3000000, 0x3FFFFFF, regsLANE, ctrsLANE⟩,
  ⟨0x4000000, 0x47FFFFF, regsFEN, ctrsFEN⟩,
  ⟨0x4800000, 0x4FFFFFF, regsQM, ctrsQM⟩,
  ⟨0x5000000, 0x5FFFFFF, regsTIME, ctrsTIME⟩,
  ⟨0x6000000, 0x60FFFFF, regsIRQ, ctrsIRQ⟩,
  ⟨0x6100000, 0x61FFFFF, regsSCP, ctrsSCP⟩,
  ⟨0x6200000, 0x62FFFFF, regsDMA, ctrsDMA⟩,
  ⟨0x6300000, 0x6FFFFFF, regsSVC, ctrsSVC⟩,
  ⟨0x7000000, 0x70FFFFF, regsMGT, ctrsMGT⟩,
  ⟨0x7100000, 0x7FFFFFF, regsDBG, ctrsDBG⟩,
  ⟨0x8000000, 0x8FFFFFF, regsCEL, ctrsCEL⟩,
  ⟨0x9000000, 0x9FFFFFF, regsBIST, ctrsBIST⟩,
  ⟨0xA000000, 0xAFFFFFF, regsLCS, ctrsLCS⟩,
  ⟨0xB000000, 0xBFFFFFF, regsHIO, ctrsHIO⟩,
  ⟨0xC000000, 0xFFFFFFF, regsSLC, ctrsSLC⟩]

/-- The index of the element an offset names in an array of the given dimensions, outermost first; none outside. -/
def matchDims : List (Nat × Nat) → Nat → Option (List Nat)
  | [], rel => if rel = 0 then some [] else none
  | (stride, count) :: ds, rel =>
    if rel / stride < count then (matchDims ds (rel % stride)).map (rel / stride :: ·) else none

/-- Whether an offset is one of a register description's registers (the dimensions stand in order of falling stride). -/
def RegDesc.hit (d : RegDesc) (off : Nat) : Bool :=
  decide (d.base ≤ off) && (matchDims d.dims (off - d.base)).isSome

/-- The block an offset lies in (R38). -/
def blockOf (off : Nat) : Option BlockDesc := blocks.find? fun b => decide (b.first ≤ off) && decide (off ≤ b.last)

/-- The register at an offset, if a field table gives one there. -/
def regAt (off : Nat) : Option RegDesc := (blockOf off).bind fun b => b.regs.find? fun d => d.hit off

/-- The counter whose lower register lies at an offset. -/
def ctrAt (off : Nat) : Bool := match blockOf off with
  | some b => b.ctrs.any fun d => d.hit off
  | none => false

/-- A field table's reset values put together as one word. -/
def fldsReset (fs : List FldDesc) : BitVec 32 :=
  fs.foldl (fun w f => w ||| (BitVec.ofNat 32 f.reset <<< f.lo)) 0

/-- R82: the reset dividers of the sixteen aligned domains. -/
def divReset : List Nat := [5, 8, 10, 10, 3, 12, 30, 60, 240, 240, 240, 240, 240, 240, 240, 240]

/-- Reset words that differ along an array: the dividers (R82), the address map (R311), the fixed TRIG bit of the
software sources (IRQ.SRC_CFG). -/
def resetOverride (off : Nat) : Option (BitVec 32) :=
  if 0x100 ≤ off ∧ off < 0x140 ∧ off % 4 = 0 then
    let d := divReset.getD ((off - 0x100) / 4) 0
    some (BitVec.ofNat 32 (d * 0x101))
  else if 0x1001000 ≤ off ∧ off < 0x1001050 then
    match off - 0x1001000 with
    | 0x8 => some 0x0028FFFF#32
    | 0xC => some 0x00004000#32
    | 0x14 => some 0x00000200#32
    | 0x18 => some 0x8019FFFF#32
    | 0x1C => some 0x00008000#32
    | 0x24 => some 0x00000300#32
    | 0x28 => some 0x80170001#32
    | 0x2C => some 0x0000DF80#32
    | 0x34 => some 0x000003F0#32
    | 0x38 => some 0x801D0001#32
    | 0x3C => some 0x00000F53#32
    | 0x44 => some 0x000003FF#32
    | 0x48 => some 0x8020FFFF#32
    | 0x4C => some 0x00000F62#32
    | _ => none
  else if 0x6000F40 ≤ off ∧ off < 0x6001000 then some 0x38000000#32
  else none

/-- The word a register holds after power-on reset (R8). -/
def resetWord (off : Nat) : BitVec 32 := match resetOverride off with
  | some w => w
  | none => match regAt off with
    | some d => fldsReset d.flds
    | none => 0

end Sys2Proof.Machine
end

