-- ==== Sys2Proof/Machine/State.lean ====
section
/-! DEFINITION. The state of the block: every register, counter, memory, queue, table and mode the spec gives the
IH8420, as plain data, with the queue of waiting commands, the reasons a step can stop, and the state after reset.
Register words that are plain storage stand in `regs` under their offsets (Machine/RegMap.lean names every field);
the state the registers only show part of stands in the structures below. -/

namespace Sys2Proof.Machine

/-- R4, R298, R315: how an access ends. -/
inductive Status where
  | okay | slverr | decerr | targetReset | poisoned | timeout
deriving DecidableEq, Repr

/-- The answer to the last register or memory access (the model's record of what the requester receives). -/
structure Answer where
  st : Status
  data : List Byte
deriving DecidableEq, Repr

/-- R10 to R13: a 48-bit counter, its SAT bit, and the upper half with SAT that the last read of the lower register
latched. -/
structure Ctr where
  val : Nat := 0
  sat : Bool := false
  latch : BitVec 32 := 0
deriving DecidableEq, Repr

/-- R493: what an event says, without its times: code, severity, vat (0xFF none), source, and the data it carries as
32-bit words. -/
structure EvData where
  code : Nat
  sev : Nat
  vat : Nat
  source : Nat
  args : List Nat
deriving DecidableEq, Repr

/-- R493, R495: one entry of a host's event queue or of the event log: occurrences, first and last time in units of
1 ns, and the SEQ it was sent under, if it was. -/
structure EvEntry where
  id : Nat
  d : EvData
  count : Nat
  first : Nat
  last : Nat
  sent : Option Nat := none
deriving DecidableEq, Repr

/-- R496: a loss summary: counts by severity, and the SEQ of the EVENTS_LOST that carried it. -/
structure Loss where
  counts : List Nat
  first : Nat := 0
  sent : Option Nat := none
deriving DecidableEq, Repr

/-- R477, R478, R484: one message of the device stream the device holds until it is acknowledged; the address it goes to. -/
structure DevMsg where
  seq : Nat
  epoch : Nat
  typ : Nat
  code : Nat
  status : Nat
  rseq : Nat
  body : List Byte
  ackno : Nat := 0
  sid : Nat := 0
  dst : Nat := 0
deriving DecidableEq, Repr

/-- R483: a request slot: the SEQ of its REQ, and the SEQ of the RSP once it is sent. -/
structure ReqSlot where
  rseq : Nat
  rsp : Option Nat
deriving DecidableEq, Repr

/-- R477, R490, R491: a refusal that waits for its response, with what the audit log holds of it; the source address of the
request. -/
structure Refusing where
  code : Nat
  rseq : Nat
  sid : Nat
  auth : Bool
  reason : Nat
  arg : Nat
  vat : Nat
  src : Nat
deriving DecidableEq, Repr

/-- R479 to R485: the handshake of a session that SESSION_FINISH has not yet ended. -/
structure Handshake where
  sid : Nat
  k0 : List Byte
  t : List Byte
  mac : Nat
deriving DecidableEq, Repr

/-- R482: a session: its identifier, the stream keys of epoch 0, the epochs and sequence numbers of both streams, the
request slots, the unacknowledged messages, and the expiries since ACKNO last advanced. -/
structure Session where
  sid : Nat
  mac : Nat
  kHD : List Byte
  kDH : List Byte
  hostEpoch : Nat := 0
  devEpoch : Nat := 0
  expSeq : Nat := 0
  nextSeq : Nat := 0
  slots : List ReqSlot := []
  unacked : List DevMsg := []
  expiries : Nat := 0
  ackDue : Bool := false
deriving DecidableEq, Repr

/-- What one management host (port h) holds: handshake, session, event queue, loss summary, tokens in millionths
(R495), refusals not yet answered, answers without a session in the last second, and the last message sent. -/
structure HostSt where
  hs : Option Handshake := none
  sess : Option Session := none
  queue : List EvEntry := []
  loss : Option Loss := none
  lossSent : List Loss := []
  tokMajor : Nat := 100000000
  tokMinor : Nat := 10000000
  tokInfo : Nat := 1000000
  refusing : List Refusing := []
  unauth : Nat := 0
  lastTx : Option DevMsg := none
deriving DecidableEq, Repr

/-- R489: a reset or power command answered OK that has not acted yet. -/
inductive LateAct where
  | reset (typ : Nat) (host : Nat)
  | lcReset (cause : Nat)
  | power (target : Nat) (wake : Nat)
deriving DecidableEq, Repr

/-- The management link's own state: hosts, the next event id, the last CRITICAL event for the SMBus port (R499), the
accepted command that waits for its acknowledgement (R489), and the bytes of the last SMBus read. -/
structure MgtSt where
  hosts : Tab HostSt := []
  nextEv : Nat := 0
  critCode : Nat := 0
  critCnt : Nat := 0
  critTime : Nat := 0
  lateAct : Option LateAct := none
  smb : List Byte := []
deriving DecidableEq, Repr

/-- R500 to R504: the debug connection (host and scope), the open challenge (host, scope, CHAL), the breakpoints
(core × 4 + index, address plus one), what was asked of a processor: to halt (1), to step (2), and the host and SEQ of the
request that waits for it. -/
structure DbgSt where
  conn : Option (Nat × Nat) := none
  chal : Option (Nat × Nat × List Byte) := none
  bkpts : Tab Nat := []
  resume : Tab Nat := []
  owed : Tab (Option (Nat × Nat)) := []
deriving DecidableEq, Repr

/-- R491: an entry of the audit log. -/
structure AudEntry where
  time : Nat
  host : Nat
  reason : Nat
  code : Nat
  seq : Nat
  sid : Nat
  arg : Nat
  vat : Nat
deriving DecidableEq, Repr

/-- R522 to R527: the scratchpad rings, with how many of their newest entries are not in the Cellar yet; the open log
sectors oldest first (numbers within each log), the next entry position of the newest, the next sequence numbers, the
sectors marked bad, and RAM_ONLY. -/
structure LogSt where
  evRing : List EvEntry := []
  audRing : List AudEntry := []
  evTodo : Nat := 0
  audTodo : Nat := 0
  evSecs : List Nat := []
  audSecs : List Nat := []
  evPos : Nat := 1
  audPos : Nat := 1
  evSseq : Nat := 0
  audSseq : Nat := 0
  evBad : List Nat := []
  audBad : List Nat := []
  ramOnly : Bool := false
deriving DecidableEq, Repr

/-- R454 to R461: asserted sources, edge latches, claims (processor + 1), offers (processor + 1), the processors
chosen last for normal and for fast offers, and the claims of the vats (index + 1). -/
structure IrqSt where
  level : Tab Bool := []
  edge : Tab Bool := []
  claimed : Tab Nat := []
  offer : Tab Nat := []
  lastNorm : Nat := 5
  lastFast : Nat := 5
  vclaim : Tab Nat := []
deriving DecidableEq, Repr

/-- R298 to R300: a flit: header fields, payload, and the request word that travels with a request. -/
structure Flit where
  row : Nat
  col : Nat
  port : Nat
  dev : Nat
  ini : Nat
  vc : Nat
  tag : Nat
  op : Nat
  qos : Nat
  poison : Bool
  status : Nat
  len : Nat
  payload : BitVec 512
  addr : Nat := 0
  srcDev : Nat := 0
deriving DecidableEq, Repr

/-- A flit in the mesh: the flit, the router it stands at, the input it came by (0 north, 1 south, 2 east, 3 west, 4 + a
attachment a), the vat whose rights the request has (R331, R347), the sequence stamp its initiator keeps with the tag
(R316), and the grants of its output that passed it by (R304). At an attachment `inp` is the VC of the buffer it
is in (R296). -/
structure Moving where
  f : Flit
  y : Nat
  x : Nat
  inp : Nat
  vat : Nat
  stamp : Nat
  waited : Nat := 0
deriving DecidableEq, Repr

/-- R314 to R316: a tag in use: its stamp, the timeout it started with, whether it reads, whether it was orphaned
(R265) or is in quarantine. -/
structure TagSt where
  stamp : Nat
  tmo : Nat
  rd : Bool
  orphan : Bool := false
  quar : Bool := false
deriving DecidableEq, Repr

/-- R312, R331: a request that waits for a regulator's tokens or for a tag: the flit as it will be sent, the vat it has
the rights of, and whether it is a remote request at a span port. -/
structure Waiting where
  f : Flit
  vat : Nat
  remote : Bool := false
deriving DecidableEq, Repr

/-- R308: what an initiator was last answered: tag, status, data, poison. -/
structure Delivered where
  tag : Nat
  st : Status
  data : BitVec 512
  poison : Bool
deriving DecidableEq, Repr

/-- The on-chip network: flits in the mesh; request flits at target attachments, checked requests being served, and
responses at initiators, by attachment; flits at the span gateway with the HOPS they arrived with; tags in use
(initiator × 1024 + tag); requests held at their initiators; the next sequence stamp; the last answer of each
initiator; cached map entries, most recently used first; bytes missing from each regulator's bucket; the initiator
that drew last from each regulator; per output and VC the input granted last; per output the grants in a row that VC0
and VC1 waited through (R304); per attachment, the flits that wait for room in its router input (R303), with the span port
whose input buffer a flit still occupies (R324). -/
structure NocSt where
  mesh : List Moving := []
  target : Tab (List Moving) := []
  serve : Tab (List Moving) := []
  resp : Tab (List Moving) := []
  gate : List (Moving × Option (Nat × Nat)) := []
  tags : Tab TagSt := []
  held : Tab (List Waiting) := []
  stamp : Nat := 1
  last : Tab Delivered := []
  cache : Tab (List (Nat × List Word)) := []
  used : Tab Nat := []
  drew : Tab Nat := []
  rot : Tab Nat := []
  streak : Tab Nat := []
  out : Tab (List (Moving × Option Nat)) := []
deriving DecidableEq, Repr

/-- R323 to R328: one span port: the flits queued with their HOPS, the frames sent and not acknowledged (SEQ, flit,
HOPS), send and expected SEQ, good INIT frames in a row, the counts CR0 to CR3 last received, flits sent and freed
per VC, accepted frames not yet acknowledged, expiries in a row, the last frame transmitted, flits accepted
into the input buffer per VC, and those still in it from before the link last went down. -/
structure SpanPort where
  queue : List (Flit × Nat) := []
  replay : List (Nat × Flit × Nat) := []
  sendSeq : Nat := 0
  expSeq : Nat := 0
  initRx : Nat := 0
  credits : List Nat := [0, 0, 0, 0]
  sentPerVc : List Nat := [0, 0, 0, 0]
  freed : List Nat := [0, 0, 0, 0]
  accepted : Nat := 0
  expiries : Nat := 0
  lastTx : List Word := []
  recvPerVc : List Nat := [0, 0, 0, 0]
  stale : List Nat := [0, 0, 0, 0]
deriving DecidableEq, Repr

/-- R346, R347: a request at a channel: a read, a whole-line write or a partial write. `from?` is the request flit it
answers, none for a write-back of the internal source (16). `line` is logical rank × 2^30 + rank line index (R337), `since` MTIME
at its admission (R349). -/
structure DReq where
  from? : Option Moving
  src : Nat
  wr : Bool
  line : Nat
  off : Nat
  len : Nat
  qos : Nat
  data : BitVec 512
  poison : Bool
  since : Nat := 0
deriving DecidableEq, Repr

/-- R338 to R341: a stored line: its plain bytes, its poison bit, and the draw of keys it was written under; the 640 bits
stored are those of this plain text under the keys of that draw (notes/assumptions/6.md). -/
structure DLine where
  data : BitVec 512
  poison : Bool
  draw : Nat
deriving DecidableEq, Repr

/-- One DRAM channel: per-source input queues and deficits, the sources served last, the request store, the stored lines
(physical rank × 2^30 + rank line index), the draw of keys each rank was filled under, open rows plus one (bank), postponed
obligations (subchannel × 4 + rank), the next bank of same-bank refresh of each subchannel, corrected errors of each rank
in the second they fall in, the divider of the training record (0: none), whether a fill runs, whether self-refresh is
being entered or left, the time each subchannel last tracked its read timing, the bank each subchannel served last and whether it
issues writes (R349), and the lines a fill that runs is known to have written (R357). -/
structure DramCh where
  inq : Tab (List DReq) := []
  deficit : Tab Int := []
  last : Nat := 16
  lastHi : Nat := 16
  store : List DReq := []
  lines : Tab DLine := []
  fillDraw : Tab Nat := []
  rows : Tab Nat := []
  pend : Tab Nat := []
  sb : Tab Nat := []
  ceSec : Tab (Nat × Nat) := []
  recDiv : Nat := 0
  filling : Bool := false
  entering : Bool := false
  leaving : Bool := false
  tracked : Tab Nat := []
  lastBank : Tab Nat := []
  drain : Tab Bool := []
  fillSeen : List Nat := []
deriving DecidableEq, Repr

/-- The DRAM: channels and the number of key draws since the part was made (R342). -/
structure DramSt where
  ch : Tab DramCh := []
  draw : Nat := 1
deriving DecidableEq, Repr

/-- R445 to R452: a processor: program counter, privilege, V bit, integer, shadow and floating-point registers, CSRs,
load reservation, and its local RAM's and caches' poisoned words. -/
structure Proc where
  pc : Nat := 0
  priv : Nat := 3
  virt : Bool := false
  x : Tab (BitVec 64) := []
  shadow : Tab (BitVec 64) := []
  f : Tab (BitVec 64) := []
  csr : Tab (BitVec 64) := []
  resv : Option Nat := none
  run : Bool := false
  fastSrc : Option Nat := none
  normSrc : Option Nat := none
deriving DecidableEq, Repr

/-- R78 to R99: what the root loop and its ROM code are doing: a source switch or a relock runs; the root has fallen to
6.0 GHz; ROOT_COAST was raised for this coast; the ROM's 5 ms wait is over; ROOT_NOREF stands; hard-block groups whose
clock an access opened (R95). -/
structure ClkSt where
  switching : Bool := false
  relocking : Bool := false
  fell : Bool := false
  told : Bool := false
  waited : Bool := false
  noref : Bool := false
  open_ : Tab Bool := []
deriving DecidableEq, Repr

/-- R206: the role record of a vat: CUR (true is plane B), VALID_A, VALID_B, UNCONF, VER_A, VER_B. -/
structure Role where
  cur : Bool := false
  validA : Bool := false
  validB : Bool := false
  unconf : Bool := false
  verA : Word := 0
  verB : Word := 0
deriving DecidableEq, Repr

/-- R206: a copy of a role record as it stands in its non-volatile cells: sequence number, record, CRC-32C over both. -/
structure RoleCopy where
  seq : Nat
  role : Role
  crc : Word
deriving DecidableEq, Repr

/-- R206: the two copies of a role record; none: never written. -/
structure RolePair where
  a : Option RoleCopy := none
  b : Option RoleCopy := none
deriving DecidableEq, Repr

/-- R208, R210: a load in progress: code (0 power-up, 1 ACTIVATE, 2 ROLLBACK, 3 powering a gated vat), the vats named, the
plane this pass loads each vat from (true is B), the vats that passed in earlier passes and from which plane, the planes
that failed, the vats reloaded after a failure, the vats whose role stays, the vats that failed from both planes, whether
this is a repeat with the shell's other plane, whether a single-vat operation goes back, the window lengths held at
acceptance, whether it is an expiry rollback, and whether it changes the vat map. -/
structure LoadOp where
  code : Nat
  vats : List Nat
  plan : List (Nat × Bool)
  passed : List (Nat × Bool) := []
  failed : List (Nat × Bool) := []
  second : List Nat := []
  keep : List Nat := []
  dead : List Nat := []
  rep : Bool := false
  back : Bool := false
  wins : List (Nat × Nat) := []
  expiry : Bool := false
  mapChg : Bool := false
  slot : Option Nat := none
  wasFallback : Bool := false
deriving DecidableEq, Repr

/-- R30, R31, R223: an operation accepted and not yet started: code, vats, window lengths, the arm slot it came from. -/
structure PendOp where
  code : Nat
  vats : List Nat
  wins : List (Nat × Nat)
  slot : Option Nat := none
  expiry : Bool := false
deriving DecidableEq, Repr

/-- R215, R582: an open commit: its vat set, and the version tag of a COMMIT_CLOSE whose read-back runs. -/
structure Commit where
  vats : List Nat
  closing : Option Word := none
deriving DecidableEq, Repr

/-- R270 to R272: a module-load request: vat, region, its rectangle (X0, X1, Y0, Y1), image address and length, interrupt
wish, the rights of the requester (initiator and vat); its phase (0 queued, 1 the image is checked, 2 the region is held and
written, 3 the region waits for its release, 4 it is restored, 5 it failed or was aborted and waits for its restore), the
RESULT and the REASON it ends with, the linear numbers of the frames written, and the free load-shadow entries that its
acceptance reserved (R209). -/
structure ModLoad where
  vat : Nat
  region : Nat
  rect : Nat × Nat × Nat × Nat
  addr : Nat
  len : Nat
  irq : Bool
  reqId : Nat
  reqVat : Nat
  phase : Nat := 0
  result : Nat := 0
  reason : Nat := 0
  frames : List Nat := []
  need : Nat := 0
deriving DecidableEq, Repr

/-- R199 to R293: the configuration engine: role records and, beside them, the vats of vat 0's last activation and whether
it changed the map (all non-volatile); the three copies of the frames; the load shadow; VOL, UNREST and PERR (plane + 1) of
the frame status table; open commits; running loads (0 whole-device, else the vat); operations deferred; fired arms;
vats whose confirm window is open; rollbacks at expiry that wait, with the plane they go back to; vats under a self-test;
requests of a vat reset (1, or 2 with CLEAR_MEM asked for by command) and the hold in µs plus one of a command reset; vats
whose dynamic frames are to be reloaded (R61, R158); vats whose reset has been asserted since their last release (R281);
vats being gated (1) or powered (2); module loads; the single-frame
access in progress (read, TARGET, FAR); the frames, with their vats, of CAPTUREs that wait for a port (R213). -/
structure CfgSt where
  roles : Tab RolePair := []
  actSet : List Nat := []
  mapChg : Bool := false
  live : Tab Frame := []
  planeA : Tab Frame := []
  planeB : Tab Frame := []
  shadow : Tab (Option Frame) := []
  vol : Tab Bool := []
  unrest : Tab Bool := []
  perr : Tab Nat := []
  commits : List Commit := []
  loads : Tab (Option LoadOp) := []
  deferred : Option PendOp := none
  swapDef : List PendOp := []
  fired : List PendOp := []
  window : List Nat := []
  expiring : Tab (Option Bool) := []
  testVats : List Nat := []
  rstReq : Tab Nat := []
  cmdHold : Tab Nat := []
  clearing : List Nat := []
  resetOn : List Nat := []
  gating : Tab Nat := []
  mods : List ModLoad := []
  fwGo : Option (Bool × Nat × Word) := none
  captures : List (Nat × Nat) := []
deriving DecidableEq, Repr

/-- R284 to R291: Churn: whether a pass runs, the next position of each quadrant, whether the pass has been found late,
and the frame each quadrant is repairing: frame number, kind, first bit, the frame to write, and whether the first write
failed. -/
structure ScrubJob where
  n : Nat
  kind : Nat
  first : Nat
  f : Option Frame
  planeRead : Bool := false
deriving DecidableEq, Repr

structure ChurnSt where
  active : Bool := false
  pos : Tab Nat := []
  late : Bool := false
  job : Tab (Option ScrubJob) := []
deriving DecidableEq, Repr


/-- R244: an operation of Rennet over an image: kind (1 IMG_STAGE, 2 IMG_COMMIT, 3 IMG_STREAM, 4 IMG_VERIFY, 5 a boot slot
of R245, 6 a module image), slot, host or requester, where the image's next record starts, what it must be (0 HEADER,
1 SIGNATURE, 2 the signature is being verified, 3 frame section, 4 memory-init section, 5 END, 6 all records passed), the
bytes the host has sent that are not yet processed, how many it has sent, the HEADER as stored, the SIGNATURE body, the key
copied (R234), the reference frame, the frames covered, the section bytes whose records passed, whether COMMIT_OPEN has
been issued, whether COMMIT_CLOSE has been issued (1) and has passed (2), the key slot used and the number of the signature check;
whether the host has sent LAST; the SEQ of the request (IMG_VERIFY); the shell map frames covered; the SIGNATURE record's
first following word (R241). -/
structure ImgOp where
  kind : Nat
  slot : Nat
  host : Nat
  pos : Nat := 0
  phase : Nat := 0
  buf : List Byte := []
  recvd : Nat := 0
  hdr : List Byte := []
  sig : List Byte := []
  key : List Byte := []
  ref : Frame := 0
  cover : Tab Bool := []
  fsec : List Byte := []
  isec : List Byte := []
  opened : Bool := false
  closed : Nat := 0
  kslot : Nat := 0
  check : Nat := 0
  last : Bool := false
  rseq : Nat := 0
  maps : Tab Frame := []
  head : List Byte := []
deriving DecidableEq, Repr

/-- R246: a memory init: vat, plane (true is B), slot, where the next record starts, the end of its section, the section
bytes whose records passed. -/
structure InitRun where
  vat : Nat
  plane : Bool
  slot : Nat
  pos : Nat
  stop : Nat
  hash : List Byte
  isec : List Byte := []
deriving DecidableEq, Repr

/-- R511, R512: a program of one word or an erase of one sector, and whether it belongs to a CEL_OP request or to a staging
(R241). -/
structure CelOp where
  erase : Bool
  sector : Nat
  word : Nat := 0
  data : BitVec 64 := 0
  job : Bool := false
  stage : Bool := false
deriving DecidableEq, Repr

/-- R241 to R248: Rennet: the image operation, the module image being processed, the init that runs, the vats whose inits
wait, in request order; the programs and erases a staging has still to carry out (R241), and whether the first of them runs;
the boot preference tried next plus one while R245 tries slots, and whether the activation it issued runs. -/
structure ImgSt where
  op : Option ImgOp := none
  mod : Option ImgOp := none
  init : Option InitRun := none
  initQ : List Nat := []
  work : List CelOp := []
  flight : Bool := false
  boot : Nat := 0
  bootAct : List Nat := []
deriving DecidableEq, Repr
/-- R259: what the Rind of a clamped vat keeps for hold clamps: flip-flops, wire registers, SR levels, synchronisers, live
frames, registers and module loads as they stood at the clamp. -/
structure FabSnap where
  ff : Tab (Option Bool) := []
  wire : Tab (Option Bool) := []
  asr : Tab Bool := []
  sync : Tab Nat := []
  live : Tab Frame := []
  regs : Tab Word := []
  mods : List ModLoad := []
deriving DecidableEq, Repr

/-- R54 to R71, R107 to R110: what the fabric holds: flip-flops ((tile × 8 + cluster) × 32 + 2 × LE + k) and wire registers
(by segment, Machine/Nets.lean), none while they hold INIT; clusters whose asynchronous SR is 1; edges of a foreign clock
that a cluster, register clock, slice or BM36 port has seen since its release (R60); what the Rinds of clamped vats keep. -/
structure FabSt where
  ff : Tab (Option Bool) := []
  wire : Tab (Option Bool) := []
  asr : Tab Bool := []
  sync : Tab Nat := []
  snap : Tab (Option FabSnap) := []
deriving DecidableEq, Repr

/-- R140: a valid OPM word: 36 data bits, the stored parity bit, the poison bit. -/
structure OpmW where
  v : BitVec 36
  par : Bool
  poison : Bool
deriving DecidableEq, Repr

/-- R131 to R133: an accumulator with its poison bit and its FP state bit. -/
structure SAcc where
  v : BitVec 64 := 0
  poison : Bool := false
  fp : Bool := false
deriving DecidableEq, Repr

/-- R143: an address generator. -/
structure AgSt where
  base : Nat := 0
  len : Nat := 1
  ptr : Nat := 0
  step : Int := 0
deriving DecidableEq, Repr

/-- R148: an open loop: first and last instruction of the body, runs left (0: no end). -/
structure Loop where
  start : Nat
  stop : Nat
  left : Nat
deriving DecidableEq, Repr

/-- R125 to R163: an arithmetic slice: state code and stall cause (R146, SLC.STAT), the state held before a halt, whether
one instruction is stepped, a halt that waits and the stalled cycles it has waited; PC; loops, innermost first;
accumulators; address generators; input and output buffers; COUT with its poison; TRIG latch; FO and whether it is held;
the free OPM slots of the cycle and the word slot 1 wrote with what it held before (R135 to R138); what port P read last;
P_GNT, P_COLLIDE, and a collision in the cycle whose P_COLLIDE is still to come (R137, R138). -/
structure SliceSt where
  st : Nat := 0
  cause : Nat := 0
  prev : Nat := 0
  stepping : Bool := false
  haltReq : Bool := false
  haltWait : Nat := 0
  pc : Nat := 0
  loops : List Loop := []
  acc0 : SAcc := {}
  acc1 : SAcc := {}
  ag : Tab AgSt := []
  x : List (BitVec 36 × Bool) := []
  y : List (BitVec 64 × Bool) := []
  cout : BitVec 64 := 0
  coutP : Bool := false
  trig : Bool := false
  fo : Nat := 0
  foHold : Bool := false
  free : List Nat := [0, 1]
  lastW : Option (Nat × Option OpmW) := none
  pRd : Option (BitVec 36 × Bool) := none
  pGnt : Bool := false
  pColl : Bool := false
  collNow : Bool := false
deriving DecidableEq, Repr

/-- The slices: their states, the valid OPM words (1,024 × slice + word), and the parity bits of COEF entries that no longer
match the data (64 × slice + entry), and the configurations of the slices as the database reads the live latches. -/
structure SlicesSt where
  s : Tab SliceSt := []
  opm : Tab (Option OpmW) := []
  coefPar : Tab (Option Bool) := []
  cfg : Tab SliceCfg := []
deriving DecidableEq, Repr

/-- R179, R180, R184: a valid word of a BM36 or DM: what was written (72 bits in RAW mode, the low 64 in ECC mode), the
stored bits upsets have flipped since (64 data bits, then 8 check bits), and its poison bit. -/
structure BmW where
  v : BitVec 72
  err : BitVec 72 := 0
  poison : Bool := false
deriving DecidableEq, Repr

/-- R174 to R177: a write that reached the array in the current array cycle: port B, word, bits written, the word stored,
its poison, and the W_POISON of a merge. -/
structure MAct where
  pb : Bool
  word : Nat
  mask : BitVec 72
  v : BitVec 72
  poison : Bool
  wp : Bool
deriving DecidableEq, Repr

/-- R175, R192: a narrow write that waits for its merge, or a DM request: port B, whether it writes, word, bits and data
written, W_POISON, whether the word read was poisoned or uncorrectable, accesses of its bank still needed, its place in the
port word; the word a deferred read returns where CLR has cleared the memory since its edge (R185). -/
structure MReq where
  pb : Bool
  wr : Bool
  word : Nat
  mask : BitVec 72
  v : BitVec 72
  wp : Bool
  bad : Bool := false
  left : Nat := 1
  lo : Nat := 0
  w : Nat := 64
  snap : Option (Option BmW) := none
deriving DecidableEq, Repr

/-- R170, R190: the outputs of a port: RD, POISON, SBE; on a DM, RVALID. -/
structure MOut where
  rd : BitVec 72 := 0
  poison : Bool := false
  sbe : Bool := false
  valid : Bool := false
deriving DecidableEq, Repr

/-- R167 to R193: the array of a BM36 or DM in its current cycle: words as they stood at its start, writes so far, narrow
writes whose merge is to come, ports that are not ready at the edge, ports that have accepted a request in this cycle, queued
write-backs (word, poison, data), port results and, on a BM36, output registers (REG_OUT); a collision in this cycle and
COLLIDE; whether CLR has just acted; on a DM the accesses (8 × port + bank, or bank where both ports share a line), the deferred
requests, and the requests accepted at this edge. -/
structure MArr where
  old : List (Nat × Option BmW) := []
  acts : List MAct := []
  merges : List MReq := []
  busy : List Bool := []
  took : List Bool := []
  wbA : Option (Nat × Bool × BitVec 72) := none
  wbB : Option (Nat × Bool × BitVec 72) := none
  outA : MOut := {}
  outB : MOut := {}
  regA : MOut := {}
  regB : MOut := {}
  coll : Bool := false
  collide : Bool := false
  clr : Bool := false
  use : Tab Nat := []
  defs : List MReq := []
  news : List MReq := []
deriving DecidableEq, Repr

/-- The fabric memories: the valid words (512 × BM36 + row, 32,768 × DM + word), the arrays, and the configurations as the
database reads the live latches. -/
structure MemSt where
  bm : Tab (Option BmW) := []
  dm : Tab (Option BmW) := []
  bmA : Tab MArr := []
  dmA : Tab MArr := []
  bmCfg : Tab BmCfg := []
  dmCfg : Tab DmCfg := []
  test : List (Bool × Nat) := []
deriving DecidableEq, Repr

/-- R420, R421: a time base: its value in units of 2^-38 ns, the rate word in effect, whether a SET has started it,
whether it is in holdover, and the command written that waits for the next tick of TCLK (0 none). -/
structure TbSt where
  v : Nat := 0
  rate : Nat := 2 ^ 32
  started : Bool := false
  hold : Bool := false
  cmd : Nat := 0
deriving DecidableEq, Repr

/-- R440: a pulse unit: the output is asserted; the number of the next instant of its series. -/
structure TpSt where
  on : Bool := false
  next : Nat := 0
deriving DecidableEq, Repr

/-- R434, R441: a stored time-stamp: the edge rose, or the frame identifier; and the 86-bit instant in units of 1/64 ns. -/
structure StampE where
  tag : Nat
  t : Nat
deriving DecidableEq, Repr

/-- The timing island: TCLK has locked once; bases, pulse units, capture stores, transmit time-stamp queues; the pulses that
each CMPi_OUT has delivered to its owner vat; TIME_NOW of each vat (R428). -/
structure TimeSt where
  ever : Bool := false
  tb : Tab TbSt := []
  tp : Tab TpSt := []
  cap : Tab (List StampE) := []
  tsq : Tab (List StampE) := []
  cmpOut : Tab Nat := []
  nowReg : Tab Nat := []
deriving DecidableEq, Repr

/-- R514: a bank: its operations innermost first (all but the first are suspended), whether the first is suspended too,
whether a suspend is asked for, and a program that waits for it. -/
structure CelBank where
  ops : List CelOp := []
  held : Bool := false
  asking : Bool := false
  prog : Option CelOp := none
deriving DecidableEq, Repr

/-- R528: a CEL_OP program or erase in progress: OP, host, and the words still to program. -/
structure CelJob where
  op : Nat
  host : Nat
  left : List (Nat × BitVec 64)
deriving DecidableEq, Repr

/-- The Cellar: words that are not all ones (word = offset / 8); sectors being erased or cut short and words being
programmed or cut short, with the draw they read under plus one; banks; window reads that wait for a suspend; the grown
table (logical sector, spare, command), the RAM list; the protection record; updates of the records without a layout; the
CEL_OP in progress; the firmware copy last booted from. -/
structure CelSt where
  words : Tab (BitVec 64) := []
  undS : Tab Nat := []
  undW : Tab Nat := []
  banks : Tab CelBank := []
  waiting : List Moving := []
  grown : List (Nat × Nat × Nat) := []
  ramBad : List Nat := []
  level : Nat := 0
  erasePend : Bool := false
  target : Nat := 0
  recs : Nat := 0
  job : Option CelJob := none
  bootFw : Nat := 0
deriving DecidableEq, Repr

/-- R463 to R465: the scratchpad: its valid words; per bank and class (0 processors, 1 others, 2 DMA) the initiator granted
last plus one; per bank the bank cycles a waiting DMA request has gone without; banks under self-test. -/
structure ScrSt where
  w : Tab (Option BmW) := []
  rot : Tab Nat := []
  dma : Tab Nat := []
  test : List Nat := []
deriving DecidableEq, Repr

/-- R398, R406: a frame in a port's transmit store: the queue it came from with the index of its descriptor, none for a
stream frame; its bytes without FCS (with it where NOFCS is set); poisoned data; the identifier of a time-stamp request;
the launch time in 1/64 ns; IRQ and LATE_DROP; whether it is sent late, and with a corrupted FCS; its class. -/
structure TxF where
  q : Option Nat
  idx : Nat := 0
  bytes : List Byte
  nofcs : Bool := false
  poison : Bool := false
  fid : Option Nat := none
  launch : Option Nat := none
  irq : Bool := false
  late : Bool := false
  abort : Bool := false
  cls : Nat := 0
deriving DecidableEq, Repr

/-- R396: what a port delivers to its stream: the frame, RX_ERR, and the receive time-stamp (86 bits). -/
structure RxOut where
  bytes : List Byte
  err : Bool
  ts : Nat
deriving DecidableEq, Repr

/-- A frame-engine port: transmit store, the timed frame on the wire, frames dropped whose descriptors wait for their
RESULT, classes held (R409), whether the last frame sent was a stream frame, the last frame transmitted, and the last frame
delivered to the stream. -/
structure FenPort where
  store : List TxF := []
  wire : Option TxF := none
  done : List (TxF × Nat) := []
  held : Nat := 0
  lastStream : Bool := false
  tx : List Byte := []
  rx : Option RxOut := none
deriving DecidableEq, Repr

/-- R403, R404: a received frame in the packet buffer: bytes (in the overflow region the DRAM gives them), RESULT, time-stamp (86
bits), cells, whether it lies in the overflow region, and in which cells of that. -/
structure HeldF where
  bytes : List Byte
  result : Nat
  ts : Nat
  cells : Nat
  ovf : Bool
  place : List Nat := []
deriving DecidableEq, Repr

/-- Ports, frames held for receive queues, deficits, the queue a port and class last drew from plus one, queues that are
STOPPED, vats whose queues stay paused after a release (QHOLD), whether QM_BUF_FULL was raised since BUF_STAT was read. -/
structure FenSt where
  port : Tab FenPort := []
  held : Tab (List HeldF) := []
  deficit : Tab Nat := []
  cur : Tab Nat := []
  qheld : List Nat := []
  full : Bool := false
deriving DecidableEq, Repr


/-- R467 to R469: a DMA channel: the descriptor it works on, and whether word 5 of that descriptor is still to be written
back with RESULT 0x5. -/
structure DmaCh where
  desc : Nat := 0
  owed : Bool := false
deriving DecidableEq, Repr

/-- R471, R472: the FIFOs of a service port, and with MODE = 1 the word that RX_WORD carries (none: RX_VALID is 0). -/
structure SvcPort where
  tx : List (BitVec 16) := []
  rx : List (BitVec 16) := []
  out : Option (BitVec 16) := none
deriving DecidableEq, Repr

/-- R446 to R449: a line of L1 or L2: 64 bytes, a poison bit for each 64-bit word, whether it is dirty (L2 only). -/
structure CacheLine where
  data : BitVec 512
  poison : BitVec 8 := 0
  dirty : Bool := false
deriving DecidableEq, Repr

/-- R445 to R449: local RAM words with their poison bits (2^20 × processor + word), L1 lines (2^60 × core + line) and L2
lines by line number of the system address. -/
structure CoreMem where
  ram : Tab (BitVec 64 × Bool) := []
  l1 : Tab (Option CacheLine) := []
  l2 : Tab (Option CacheLine) := []
deriving DecidableEq, Repr

/-- R533 to R542: the power-on reset is held; the supplies that have left tolerance in it, as RST_CAUSE.SUPPLY numbers them;
a power command that entered (TARGET, WAKE_S); the seconds of the wake timer; the source that woke the device, or none for
the timer, while the core island comes up; the device reset in progress (2 cold, 3 warm);
arm slots lost at a reset that are not in the log yet (R218); the Starter's firmware runs (R25). -/
structure PwrSt where
  held : Bool := true
  lost : Nat := 0x7F
  entry : Option (Nat × Nat) := none
  timer : Option Nat := none
  waking : Option (Option Nat) := none
  rst : Option Nat := none
  lostArms : List Nat := []
  fw : Bool := false
deriving DecidableEq, Repr

/-- R550: a key write (or erase, none) that waits for the operations using its slot: KEY_STAT bit of the slot, the
key, the numbers of the signature checks that ran at its acceptance. -/
structure KeyWait where
  slot : Nat
  key : Option (List Byte)
  checks : List Nat
deriving DecidableEq, Repr

/-- R544 to R550: the life-cycle code; the erase-done fuse; an ADVANCE whose fuses are being blown; the filled key slots
by their KEY_STAT bits; writes that wait; identity keys drawn since factory test; signature checks started. -/
structure LcsSt where
  code : Nat := 0
  eraseDone : Bool := false
  blowing : Option Nat := none
  keys : Tab (Option (List Byte)) := []
  defer : List KeyWait := []
  idKey : Nat := 0
  checks : Nat := 0
deriving DecidableEq, Repr

/-- R551, R552: what a BIST controller works on: KIND, MEM, PHASE code, retention pauses done, whether it waits (R31). -/
structure BistRun where
  kind : Nat
  mem : Nat
  phase : Nat := 0
  pauses : Nat := 0
  defer : Bool := false
deriving DecidableEq, Repr

/-- R556: a spare in use: KIND, MEM, column or row, bank of a DM, the row or column it replaces. -/
structure Spare where
  kind : Nat
  mem : Nat
  col : Bool
  unit : Nat
  idx : Nat
deriving DecidableEq, Repr

/-- R551 to R559: the controllers; soft repairs and fuse repairs made since factory test; memories whose fuses are being
blown; the defect list (KIND, ADDR, MEM, BIT). -/
structure BistSt where
  ctl : Tab (Option BistRun) := []
  soft : List Spare := []
  fused : List Spare := []
  fusing : List (Nat × Nat) := []
  defects : List (Nat × Nat × Nat × Nat) := []
deriving DecidableEq, Repr

/-- R567 to R570: a bank: VCCIO in mV, whether it has been inside a window since it reached 1.70 V, OUT_OFF, whether RANGE
has been written since OUT_OFF was set. -/
structure HioBank where
  mv : Nat := 0
  ever : Bool := false
  off : Bool := true
  written : Bool := false
deriving DecidableEq, Repr

/-- R576, R577: the instruction register, the boundary register's cells, and what the last scan shifted out. -/
structure TapSt where
  ir : Nat := 1
  cells : Tab Bool := []
  dr : Nat := 0
deriving DecidableEq, Repr

/-- R25, R259: what an HIO pin drives: 0, 1, or nothing. -/
inductive PinLevel where
  | low
  | high
  | z
deriving DecidableEq, Repr

/-- HIO banks, straps by bank (0 none, 1 down, 2 up), boundary scan; what the 288 pins drove when LOAD began, and when the
Rind of a vat clamped (pin 24 × bank + k); whether CFG_ERR_N is driven low (R251). -/
structure PinSt where
  bank : Tab HioBank := []
  strap : Tab Nat := []
  tap : TapSt := {}
  held : List PinLevel := []
  clamp : Tab (List PinLevel) := []
  errN : Bool := false
deriving DecidableEq, Repr
/-- A fault stops the machine. No command of this block faults: the spec gives every row an effect, so the type has
no constructor (a step that answers a fault is impossible). Safe. -/
inductive Fault : Type
deriving DecidableEq, Repr

/-- A refusal: the model has no meaning for the command. -/
inductive Refusal where
  /-- Raised by exec's arm of a command the model does not have; safe, nothing can be proved of it. -/
  | notModelled (mnemonic : String)
deriving DecidableEq, Repr

/-- The whole state of the block: registers and counters, latched halves, MTIME, the free-value counter, the last answer; then
one part per chapter of spec/. `prbs` is where the PRBS checker of each lane stands in its pattern (R387). -/
structure State where
  regs : Tab Word := []
  ctrs : Tab Ctr := []
  latches : Tab Word := []
  mtime : Nat := 0
  freeCtr : Nat := 0
  answer : Option Answer := none
  mgt : MgtSt := {}
  dbg : DbgSt := {}
  logs : LogSt := {}
  irq : IrqSt := {}
  clk : ClkSt := {}
  noc : NocSt := {}
  span : Tab SpanPort := []
  inject : Tab Bool := []
  prbs : Tab Nat := []
  dram : DramSt := {}
  procs : Tab Proc := []
  cfg : CfgSt := {}
  img : ImgSt := {}
  churn : ChurnSt := {}
  fab : FabSt := {}
  slc : SlicesSt := {}
  mem : MemSt := {}
  time : TimeSt := {}
  cel : CelSt := {}
  scr : ScrSt := {}
  fen : FenSt := {}
  dma : Tab DmaCh := []
  svc : Tab SvcPort := []
  cores : CoreMem := {}
  pwr : PwrSt := {}
  lcs : LcsSt := {}
  bist : BistSt := {}
  pins : PinSt := {}
  pending : List Instr := []
deriving DecidableEq, Repr

/-- The state right after power-on reset: every register at its reset value (R8), every memory cleared. -/
def State.reset : State := {}

end Sys2Proof.Machine
end

