-- ==== Sys2Proof/Machine/Ops.lean ====
section
/-! DEFINITION. The operations every command is built from: register fields (R5), 48-bit counters (R10 to R13), event
queues and loss summaries (R492 to R498), the log rings (R524), ownership (R256, R258), and the modes (R27, R28). -/

namespace Sys2Proof.Machine

/-- Bits [hi:lo] of a word. -/
def wget (w : Word) (hi lo : Nat) : Nat := (w >>> lo).toNat % 2 ^ (hi + 1 - lo)

/-- The word whose bits [hi:lo] are 1 and whose others are 0. -/
def wmask (hi lo : Nat) : Word := BitVec.ofNat 32 ((2 ^ (hi + 1 - lo) - 1) * 2 ^ lo)

/-- The word with bits [hi:lo] replaced. -/
def wset (w : Word) (hi lo v : Nat) : Word :=
  (w &&& ~~~ wmask hi lo) ||| ((BitVec.ofNat 32 v <<< lo) &&& wmask hi lo)

/-- The stored word of a register. -/
def State.reg (s : State) (off : Nat) : Word := tget s.regs off (resetWord off)

/-- Store a register's word. -/
def State.setReg (s : State) (off : Nat) (w : Word) : State :=
  { s with regs := tput s.regs off w (resetWord off) }

/-- The value of a register field. -/
def State.rd (s : State) (f : Fld) : Nat := wget (s.reg f.off) f.hi f.lo

/-- Set a register field, as hardware does: the access type of R5 binds the bus only. -/
def State.wr (s : State) (f : Fld) (v : Nat) : State := s.setReg f.off (wset (s.reg f.off) f.hi f.lo v)

/-- A one-bit field as a truth value. -/
def State.bit (s : State) (f : Fld) : Bool := s.rd f == 1

/-- Set a one-bit field from a truth value. -/
def State.wrb (s : State) (f : Fld) (b : Bool) : State := s.wr f b.toNat

/-- One bit of a mask field. -/
def State.mbit (s : State) (f : Fld) (i : Nat) : Bool := (s.rd f).testBit i

/-- Set one bit of a mask field. -/
def State.wrm (s : State) (f : Fld) (i : Nat) (b : Bool) : State :=
  s.wr f (if b then s.rd f ||| 2 ^ i else s.rd f - (s.rd f &&& 2 ^ i))

/-- A pair of registers holding a 64-bit value, low word first. -/
def State.rd64 (s : State) (lo hi : Nat) : Nat := (s.reg lo).toNat + 2 ^ 32 * (s.reg hi).toNat

/-- Take a fresh index for a value the spec leaves open (notes/assumptions/2.md). -/
def State.fresh (s : State) : Nat × State := (s.freeCtr, { s with freeCtr := s.freeCtr + 1 })

/-- R474, R493: the machine timer in units of 1 ns. -/
def State.now (s : State) : Nat := s.mtime * 10

/-! Counters. -/

def State.ctr (s : State) (off : Nat) : Ctr := tget s.ctrs off {}

/-- R10, R12: the largest value of a counter. -/
def ctrMax : Nat := 2 ^ 48 - 1

/-- R12: add to a counter, which stays at its largest value; tells whether SAT was set just now. -/
def State.ctrAdd (s : State) (off n : Nat) : State × Bool :=
  let c := s.ctr off
  let v := min ctrMax (c.val + n)
  let hit := decide (v = ctrMax) && !c.sat && decide (0 < n)
  ({ s with ctrs := tput s.ctrs off { c with val := v, sat := c.sat || hit } {} }, hit)

/-- R13: CLR sets the counter and its SAT bit to 0 and leaves the latch. -/
def State.ctrClear (s : State) (off : Nat) : State :=
  { s with ctrs := tput s.ctrs off { s.ctr off with val := 0, sat := false } {} }

/-- R10, R11: the live upper register: SAT in bit 31, bits [47:32] in bits [15:0]. -/
def Ctr.upper (c : Ctr) : Word := BitVec.ofNat 32 (c.val / 2 ^ 32 + if c.sat then 2 ^ 31 else 0)

/-- R11: a read of the lower register latches the upper half. -/
def State.ctrLatch (s : State) (off : Nat) : State :=
  let c := s.ctr off
  { s with ctrs := tput s.ctrs off { c with latch := c.upper } {} }

/-! Ownership. -/

/-- R254: the vat of a sector, as VAT.MAP holds it; 0xFF is no vat. -/
def State.vatOfSector (s : State) (sec : Nat) : Nat :=
  wget (s.reg (0x200000 + 4 * (sec / 4))) (8 * (sec % 4) + 7) (8 * (sec % 4))

/-- R254: vat v is defined. -/
def State.defined (s : State) (v : Nat) : Bool := v == 0 || s.mbit VAT.DEF.DEF v

/-- R256: the owner host of a vat. -/
def State.ownerOf (s : State) (v : Nat) : Nat := s.rd (VAT.OWN.OWNER v)

/-- R482: the device owner is the owner host of vat 0. -/
def State.devOwner (s : State) : Nat := s.ownerOf 0

/-- The first of n indices that a test accepts. -/
def findIdx (n : Nat) (p : Nat → Bool) : Option Nat := (List.range n).find? p

/-- R256: the vat a lane is assigned to; the lanes of MP0 to MP3 belong to the Starter, so to vat 0. -/
def State.vatOfLane (s : State) (n : Nat) : Option Nat :=
  if n < 32 then findIdx 16 fun v => s.mbit (VAT.LLANE_LO.MAP v) n
  else if n < 64 then findIdx 16 fun v => s.mbit (VAT.LLANE_HI.MAP v) (n - 32)
  else if n < 96 then findIdx 16 fun v => s.mbit (VAT.SLANE.MAP v) (n - 64)
  else some 0

/-- R256: the vat a hardware queue is assigned to. -/
def State.vatOfQueue (s : State) (q : Nat) : Option Nat :=
  findIdx 16 fun v => decide (s.rd (VAT.QBASE.BASE v) ≤ q) && decide (q < s.rd (VAT.QBASE.BASE v) + s.rd (VAT.QCNT.CNT v))

/-- R294, R347: the vat of an initiator ID: a sector attachment's is its sector's, a hard block's is vat 0 unless the
request names another. -/
def State.vatOfInit (s : State) (i : Nat) : Nat :=
  if 64 ≤ i ∧ i < 64 + 4 * 224 then s.vatOfSector ((i - 64) / 4) else 0

/-- R129: the sector of an arithmetic slice: 48 slices a sector. -/
def sectorOfSlice (g : Nat) : Nat := g / 48

/-- R498: the vat a counter belongs to, where it belongs to one. -/
def State.ctrVat (s : State) (off : Nat) : Option Nat :=
  if 0x201000 ≤ off ∧ off < 0x202000 then some ((off - 0x201000) / 0x100)
  else if 0x301000 ≤ off ∧ off < 0x301400 then some ((off - 0x301000) / 0x40)
  else if 0x1040000 ≤ off ∧ off < 0x1080000 then some (s.vatOfInit ((off - 0x1040000) / 0x100))
  else if 0x3000000 ≤ off ∧ off < 0x3064000 then s.vatOfLane ((off - 0x3000000) / 0x1000)
  else if 0x4000000 ≤ off ∧ off < 0x4064000 then s.vatOfLane ((off - 0x4000000) / 0x1000)
  else if 0x4801000 ≤ off ∧ off < 0x4801400 then some ((off - 0x4801000) / 0x40)
  else if 0x4900000 ≤ off ∧ off < 0x4B00000 then s.vatOfQueue ((off - 0x4900000) / 0x20)
  else if 0x5003000 ≤ off ∧ off < 0x5003240 then some (s.rd (TIME.CAP_CTL.OWNER ((off - 0x5003000) / 0x40)))
  else if 0x5100000 ≤ off ∧ off < 0x5106000 then s.vatOfLane ((off - 0x5100000) / 0x100)
  else if 0x6201000 ≤ off ∧ off < 0x6202000 then some (s.rd (DMA.CH_CTL.VAT ((off - 0x6201000) / 0x100)))
  else if 0xC000000 ≤ off ∧ off < 0xFF00000 then some (s.vatOfSector (sectorOfSlice ((off - 0xC000000) / 0x1000)))
  else none

/-! Events. -/

/-- A kind of event: its code (R494) and the severity its chapter gives it. -/
structure EvKind where
  code : Nat
  sev : Nat
deriving DecidableEq, Repr

def EV.modeChange : EvKind := ⟨0x0101, 3⟩
def EV.refStandbyLoss : EvKind := ⟨0x0301, 2⟩
def EV.rootNoref : EvKind := ⟨0x0302, 0⟩
def EV.fclLoss : EvKind := ⟨0x0303, 2⟩
def EV.rootCoast : EvKind := ⟨0x0304, 0⟩
def EV.rootRelock : EvKind := ⟨0x0305, 3⟩
def EV.actDone : EvKind := ⟨0x0701, 3⟩
def EV.actLate : EvKind := ⟨0x0702, 2⟩
def EV.actCheckFail : EvKind := ⟨0x0703, 1⟩
def EV.vatLoadFail : EvKind := ⟨0x0704, 0⟩
def EV.confirmExpired : EvKind := ⟨0x0705, 1⟩
def EV.unconfReset : EvKind := ⟨0x0706, 1⟩
def EV.armCancelled : EvKind := ⟨0x0707, 2⟩
def EV.planeRepairFail : EvKind := ⟨0x0708, 1⟩
def EV.commitDone : EvKind := ⟨0x0801, 3⟩
def EV.imageRejected : EvKind := ⟨0x0802, 1⟩
def EV.bootSlotSkipped : EvKind := ⟨0x0803, 1⟩
def EV.initFail : EvKind := ⟨0x0804, 0⟩
def EV.cfgFallback : EvKind := ⟨0x0805, 0⟩
def EV.vatReset : EvKind := ⟨0x0901, 3⟩
def EV.modloadDone : EvKind := ⟨0x0902, 3⟩
def EV.modloadFail : EvKind := ⟨0x0903, 1⟩
def EV.vatGated : EvKind := ⟨0x0904, 3⟩
def EV.churnCorrected : EvKind := ⟨0x0A01, 3⟩
def EV.churnRestored : EvKind := ⟨0x0A02, 2⟩
def EV.churnUnrestorable : EvKind := ⟨0x0A03, 1⟩
def EV.churnLate : EvKind := ⟨0x0A04, 2⟩
def EV.churnDisabled : EvKind := ⟨0x0A05, 1⟩
def EV.nocHdrErr : EvKind := ⟨0x0B01, 1⟩
def EV.nocRegShared : EvKind := ⟨0x0B02, 2⟩
def EV.spanUp : EvKind := ⟨0x0B03, 3⟩
def EV.spanDown : EvKind := ⟨0x0B04, 1⟩
def EV.spanHopDrop : EvKind := ⟨0x0B05, 2⟩
def EV.dramTrainFail : EvKind := ⟨0x0C01, 0⟩
def EV.dramRankFault : EvKind := ⟨0x0C02, 1⟩
def EV.dramMigDone : EvKind := ⟨0x0C03, 3⟩
def EV.spareExhausted : EvKind := ⟨0x0C04, 0⟩
def EV.dramIntegrity : EvKind := ⟨0x0C05, 1⟩
def EV.dramHot : EvKind := ⟨0x0C06, 2⟩
def EV.laneLockLost : EvKind := ⟨0x0D01, 2⟩
def EV.laneNoLock : EvKind := ⟨0x0D02, 2⟩
def EV.laneRefLoss : EvKind := ⟨0x0D03, 1⟩
def EV.lanePllFail : EvKind := ⟨0x0D04, 1⟩
def EV.fenLinkUp : EvKind := ⟨0x0E01, 3⟩
def EV.fenLinkDown : EvKind := ⟨0x0E02, 2⟩
def EV.qmQueueErr : EvKind := ⟨0x0E03, 2⟩
def EV.qmBufFull : EvKind := ⟨0x0E04, 1⟩
def EV.timeRefLoss : EvKind := ⟨0x0F01, 1⟩
def EV.tbHoldover : EvKind := ⟨0x0F02, 1⟩
def EV.tbStep : EvKind := ⟨0x0F03, 3⟩
def EV.tsqOvf : EvKind := ⟨0x0F04, 2⟩
def EV.capOvf : EvKind := ⟨0x0F05, 2⟩
def EV.vatIrq : EvKind := ⟨0x1001, 3⟩
def EV.mgtLinkUp : EvKind := ⟨0x1101, 3⟩
def EV.mgtLinkDown : EvKind := ⟨0x1102, 2⟩
def EV.mgtSessionOpen : EvKind := ⟨0x1103, 3⟩
def EV.mgtSessionLost : EvKind := ⟨0x1104, 2⟩
def EV.eventsLost : EvKind := ⟨0x1105, 2⟩
def EV.counterSat : EvKind := ⟨0x1106, 2⟩
def EV.dbgConnect : EvKind := ⟨0x1107, 2⟩
def EV.dbgDisconnect : EvKind := ⟨0x1108, 3⟩
def EV.logDegraded : EvKind := ⟨0x1201, 1⟩
def EV.celBadBlock : EvKind := ⟨0x1202, 2⟩
def EV.celBbtFull : EvKind := ⟨0x1203, 1⟩
def EV.celOpDone : EvKind := ⟨0x1204, 3⟩
def EV.celLevel : EvKind := ⟨0x1205, 1⟩
def EV.bootCause : EvKind := ⟨0x1301, 3⟩
def EV.powerLoss : EvKind := ⟨0x1302, 1⟩
def EV.keyDone : EvKind := ⟨0x1303, 3⟩
def EV.lcsChange : EvKind := ⟨0x1304, 1⟩
def EV.bistDone : EvKind := ⟨0x1305, 3⟩
def EV.bistUnrepairable : EvKind := ⟨0x1306, 1⟩
def EV.bistFuse : EvKind := ⟨0x1307, 3⟩
def EV.hioRange : EvKind := ⟨0x1401, 2⟩

def State.host (s : State) (h : Nat) : HostSt := tget s.mgt.hosts h {}

def State.setHost (s : State) (h : Nat) (x : HostSt) : State :=
  { s with mgt := { s.mgt with hosts := tput s.mgt.hosts h x {} } }

/-- R495: the entry a new event coalesces into: unsent, of the same code and SOURCE. -/
def EvEntry.joins (d : EvData) (e : EvEntry) : Bool :=
  e.sent.isNone && e.d.code == d.code && e.d.source == d.source

/-- R495: COUNT (saturating at 32 bits, R493) and LAST advance; the ARGS stay those of the first occurrence. -/
def EvEntry.again (now : Nat) (e : EvEntry) : EvEntry := { e with count := min (2 ^ 32 - 1) (e.count + 1), last := now }

/-- Apply a function to the first element a test accepts. -/
def mapFirst {α : Type} (p : α → Bool) (f : α → α) : List α → List α
  | [] => []
  | x :: xs => if p x then f x :: xs else x :: mapFirst p f xs

/-- Remove the last element a test accepts. -/
def dropLastOf {α : Type} (p : α → Bool) (l : List α) : List α := (l.reverse.eraseP p).reverse

/-- R496: the severity of the entry a CRITICAL or MAJOR event displaces: the lowest severity (3 INFO, then 2 MINOR,
then 1 MAJOR) of an unsent entry below its own. -/
def displaceSev (sev : Nat) (q : List EvEntry) : Option Nat :=
  [3, 2, 1].find? fun v => decide (sev < v) && q.any fun e => e.sent.isNone && e.d.sev == v

/-- R496: count a lost event by its severity in the host's loss summary, opening one where none is open. -/
def HostSt.lose (x : HostSt) (sev now : Nat) : HostSt :=
  let l := x.loss.getD ⟨[0, 0, 0, 0], now, none⟩
  { x with loss := some { l with counts := l.counts.modify sev (· + 1) } }

/-- R495, R496: a new event at one host's queue: it coalesces, joins the queue, displaces an entry, or is lost. The
second component is the counter (COAL_CNT or LOST_CNT) that saturated just now. -/
def State.enqueue (s : State) (h : Nat) (d : EvData) : State × Option Nat :=
  let x := s.host h
  let now := s.now
  let fresh : EvEntry := ⟨s.mgt.nextEv, d, 1, now, now, none⟩
  let s1 : State := { s with mgt := { s.mgt with nextEv := s.mgt.nextEv + 1 } }
  if x.queue.any (EvEntry.joins d) then
    let r := (s.setHost h { x with queue := mapFirst (EvEntry.joins d) (EvEntry.again now) x.queue }).ctrAdd (MGT.COAL_CNT h) 1
    (r.1, if r.2 then some (MGT.COAL_CNT h) else none)
  else if x.queue.length < 256 then
    (s1.setHost h { x with queue := x.queue ++ [fresh] }, none)
  else
    match (if d.sev ≤ 1 then displaceSev d.sev x.queue else none) with
    | some v =>
      let q := dropLastOf (fun e => e.sent.isNone && e.d.sev == v) x.queue
      let r := (s1.setHost h ({ x with queue := q ++ [fresh] }.lose v now)).ctrAdd (MGT.LOST_CNT h) 1
      (r.1, if r.2 then some (MGT.LOST_CNT h) else none)
    | none =>
      let r := (s.setHost h (x.lose d.sev now)).ctrAdd (MGT.LOST_CNT h) 1
      (r.1, if r.2 then some (MGT.LOST_CNT h) else none)

/-- R524, R527: append to a log ring; a full ring overwrites its oldest entry (notes/assumptions/3.md). -/
def ringPush {α : Type} (cap : Nat) (r : List α) (x : α) : List α :=
  if r.length < cap then r ++ [x] else r.drop 1 ++ [x]

/-- R524: an event first enters the event ring (4,096 entries); R499: the last CRITICAL event. -/
def State.logEvent (s : State) (d : EvData) : State :=
  let e : EvEntry := ⟨0, d, 1, s.now, s.now, none⟩
  let s := { s with logs := { s.logs with evRing := ringPush 4096 s.logs.evRing e, evTodo := min 4096 (s.logs.evTodo + 1) } }
  if d.sev = 0 then
    { s with mgt := { s.mgt with critCode := d.code, critCnt := min 0xFFFF (s.mgt.critCnt + 1), critTime := s.now } }
  else s

/-- R498: what COUNTER_SAT says. -/
def counterSatData (off : Nat) : EvData := ⟨EV.counterSat.code, EV.counterSat.sev, 0xFF, off, []⟩

/-- Raise an event at a list of hosts. A counter of the event path that saturates raises COUNTER_SAT in turn (R12,
R498); each counter does so once, so nine levels are enough for the eight counters of the path. -/
def raiseTo : Nat → List Nat → EvData → State → State
  | 0, _, _, s => s
  | k + 1, hs, d, s =>
    hs.foldl (fun s h =>
      let r := s.enqueue h d
      match r.2 with
      | some off => raiseTo k [r.1.devOwner] (counterSatData off) r.1
      | none => r.1) (s.logEvent d)

/-- Raise an event of a kind, at the hosts given, for a vat, about a source, with its data. -/
def State.raiseAt (s : State) (hs : List Nat) (k : EvKind) (vat source : Nat) (args : List Nat := []) : State :=
  raiseTo 9 hs.dedup ⟨k.code, k.sev, vat, source, args⟩ s

/-- To the owner of one vat. -/
def State.raiseVat (s : State) (v : Nat) (k : EvKind) (source : Nat) (args : List Nat := []) : State :=
  s.raiseAt [s.ownerOf v] k v source args

/-- To the device owner, for the whole device. -/
def State.raiseDev (s : State) (k : EvKind) (source : Nat := 0) (args : List Nat := []) : State :=
  s.raiseAt [s.devOwner] k 0xFF source args

/-- Every host that owns a vat. -/
def State.allOwners (s : State) : List Nat :=
  ((List.range 16).filter fun v => s.defined v).map fun v => s.ownerOf v

/-- Count: R12's one event at saturation goes to the owner of vat 0 and to the owner of the counter's vat (R498). -/
def State.bump (s : State) (off : Nat) (n : Nat := 1) : State :=
  let r := s.ctrAdd off n
  if r.2 then
    let hs := r.1.devOwner :: ((r.1.ctrVat off).map fun v => r.1.ownerOf v).toList
    raiseTo 9 hs.dedup (counterSatData off) r.1
  else r.1

/-- R524: a refusal enters the audit ring (2,048 entries). -/
def State.audit (s : State) (a : AudEntry) : State :=
  { s with logs := { s.logs with audRing := ringPush 2048 s.logs.audRing a, audTodo := min 2048 (s.logs.audTodo + 1) } }

/-! Modes. -/

def M.off : Nat := 0
def M.keep : Nat := 1
def M.boot : Nat := 2
def M.load : Nat := 3
def M.run : Nat := 4
def M.swap : Nat := 5
def M.test : Nat := 6
def M.fallback : Nat := 7

/-- R24: the code of the operating mode. -/
def State.mode (s : State) : Nat := s.rd PWR.MODE_STAT.MODE

/-- R28, R29: change the mode; PREV_MODE takes the mode left, and MODE_CHANGE carries both codes. Entry into
FALLBACK raises CFG_FALLBACK at CRITICAL. -/
def State.enterMode (s : State) (m : Nat) : State :=
  let old := s.mode
  if old = m then s
  else
    let s := (s.wr PWR.MODE_STAT.PREV_MODE old).wr PWR.MODE_STAT.MODE m
    let s := s.raiseDev EV.modeChange 0 [old, m]
    if m = M.fallback then s.raiseDev EV.cfgFallback 0 [] else s

/-- R27: the mode that RUN's concurrent conditions give: TEST, then SWAP, then RUN. -/
def State.runMode (s : State) : Nat :=
  if s.bit PWR.MODE_STAT.TEST_ACT then M.test
  else if s.rd PWR.MODE_STAT.SWAPPING ≠ 0 then M.swap else M.run

/-- R27, R29: in RUN, SWAP and TEST the mode follows the conditions that hold. -/
def State.settleMode (s : State) : State :=
  if s.mode = M.run ∨ s.mode = M.swap ∨ s.mode = M.test then s.enterMode s.runMode else s

/-- The modes in which the device is up and an image runs. -/
def State.running (s : State) : Bool := s.mode == M.run || s.mode == M.swap || s.mode == M.test

/-- The modes in which registers can be read (R26): not OFF and not KEEP. -/
def State.powered (s : State) : Bool := s.mode != M.off && s.mode != M.keep

/-- R533, R542: the core island runs: it is powered, and neither the power-on reset nor a device reset is in progress. -/
def State.islandUp (s : State) : Bool := s.powered && !s.pwr.held && s.pwr.rst.isNone

end Sys2Proof.Machine
end

