-- ==== Sys2Proof/Machine/Irq.lean ====
section
/-! DEFINITION. The interrupt controller's shared operations (R453 to R462): assertion, pending, offers, claims,
completion, and delivery of a tenancy's sources. -/

namespace Sys2Proof.Machine

def State.proc (s : State) (c : Nat) : Proc := tget s.procs c {}
def State.setProc (s : State) (c : Nat) (p : Proc) : State := { s with procs := tput s.procs c p {} }

/-- R452: the extension's CSRs. -/
def csrFvec : Nat := 0x7C0
def csrFepc : Nat := 0x7C1
def csrFcause : Nat := 0x7C2
def csrFstatus : Nat := 0x7C3
def csrMerrinfo : Nat := 0x7C4
def csrMsterr : Nat := 0x7C5
def csrMsteraddr : Nat := 0x7C6

/-- A processor's CSR. -/
def Proc.getCsr (p : Proc) (n : Nat) : BitVec 64 := tget p.csr n 0
def Proc.setCsr (p : Proc) (n : Nat) (v : BitVec 64) : Proc := { p with csr := tput p.csr n v 0 }

/-- R445: a value of XLEN bits: the Starter (0) and the Timekeeper (5) are RV32. -/
def xlen (c : Nat) (v : BitVec 64) : BitVec 64 := if c = 0 ∨ c = 5 then v &&& 0xFFFFFFFF#64 else v

/-- R450: the registers the shadow bank stands in for. -/
def shadowed (n : Nat) : Bool :=
  n == 1 || (decide (5 ≤ n) && decide (n ≤ 7)) || (decide (10 ≤ n) && decide (n ≤ 17)) || decide (28 ≤ n)

/-- The shadow bank stands in for register n: FACT is set. -/
def Proc.banked (p : Proc) (n : Nat) : Bool := shadowed n && (p.getCsr csrFstatus).getLsbD 1

/-- An integer register of the bank in use; x0 reads 0. -/
def Proc.getX (p : Proc) (n : Nat) : BitVec 64 :=
  if n = 0 then 0 else if p.banked n then tget p.shadow n 0 else tget p.x n 0

/-- Write an integer register of the bank in use; a write of x0 is discarded. -/
def Proc.setX (p : Proc) (n : Nat) (v : BitVec 64) : Proc :=
  if n = 0 then p else if p.banked n then { p with shadow := tput p.shadow n v 0 } else { p with x := tput p.x n v 0 }

/-- R452: a write of a CSR: fcause, merrinfo, msteraddr and FACT are RO, bits [1:0] of fvec read 0. -/
def Proc.csrWrite (p : Proc) (n : Nat) (v : BitVec 64) : Proc :=
  if n = csrFvec then p.setCsr n (v &&& ~~~ 3#64)
  else if n = csrFcause ∨ n = csrMerrinfo ∨ n = csrMsteraddr then p
  else if n = csrFstatus then p.setCsr n ((v &&& 0x1D#64) ||| (p.getCsr n &&& 2#64))
  else if n = csrMsterr then p.setCsr n (v &&& 0x80000007#64)
  else p.setCsr n v

/-- What the instructions processor c has executed leave in it. A write of msterr is a command of its own (MSTERR_CLEAR). -/
def Proc.ran (p : Proc) (c : Nat) (r : CpuRun) : Proc :=
  let p := { p with pc := (xlen c r.pc).toNat, priv := r.priv.val, virt := r.virt, resv := r.resv.map BitVec.toNat }
  let p := r.x.foldl (fun (p : Proc) (y : Fin 32 × BitVec 64) => p.setX y.1.val (xlen c y.2)) p
  let p := r.f.foldl (fun (p : Proc) (y : Fin 32 × BitVec 64) => { p with f := tput p.f y.1.val (xlen c y.2) 0 }) p
  r.csr.foldl (fun (p : Proc) (y : Fin 4096 × BitVec 64) =>
    if y.1.val = csrMsterr then p else p.csrWrite y.1.val (xlen c y.2)) p

/-- R447, R448: the local RAM and the cache lines that the instructions of processor c have changed. -/
def CoreMem.ran (m : CoreMem) (c : Nat) (r : CpuRun) : CoreMem :=
  { ram := r.ram.foldl (fun t (y : Fin 32768 × BitVec 64 × Bool) => tput t (2 ^ 20 * c + y.1.val) y.2 (0, false)) m.ram
    l1 := r.l1.foldl (fun t (y : BitVec 58 × Option (BitVec 512 × BitVec 8)) =>
      tput t (2 ^ 60 * c + y.1.toNat) (y.2.map fun z => ⟨z.1, z.2, false⟩) none) m.l1
    l2 := r.l2.foldl (fun t (y : BitVec 58 × Option (BitVec 512 × BitVec 8 × Bool)) =>
      tput t y.1.toNat (y.2.map fun z => ⟨z.1, z.2.1, z.2.2⟩) none) m.l2 }

/-- What processor c has executed up to an instruction boundary. -/
def State.cpuRan (s : State) (c : Nat) (r : CpuRun) : State :=
  ({ s with cores := s.cores.ran c r } : State).setProc c ((s.proc c).ran c r)

/-- R445: the CORE_CTL index of a processor's group bit: service cores 1 to 4 are 0 to 3, the Timekeeper (5) is 4;
the Starter (0) has none. -/
def coreIdx (c : Nat) : Option Nat := if c = 0 then none else if c ≤ 5 then some (c - 1) else none

/-- R503: halted by the Yapin monitor. The Starter cannot be. -/
def State.procHalted (s : State) (c : Nat) : Bool := match coreIdx c with
  | some i => s.bit (SVC.CORE_CTL.HALTED i)
  | none => false

/-- R446: out of core reset: the Starter runs always, the others once RUN is set. -/
def State.procRuns (s : State) (c : Nat) : Bool := match coreIdx c with
  | some i => s.bit (SVC.CORE_CTL.RUN i)
  | none => s.islandUp

/-- R454, R461: the source is treated as edge-triggered. -/
def State.srcEdge (s : State) (i : Nat) : Bool :=
  decide (976 ≤ i) || s.bit (IRQ.SRC_CFG.TRIG i) || (decide (832 ≤ i) && decide (i < 960) && s.bit (IRQ.SRC_CFG.WAKE i))

def State.srcPrio (s : State) (i : Nat) : Nat := s.rd (IRQ.SRC_CFG.PRIO i)
def State.srcLevel (s : State) (i : Nat) : Bool := tget s.irq.level i false
def State.srcLatch (s : State) (i : Nat) : Bool := tget s.irq.edge i false
def State.srcClaimed (s : State) (i : Nat) : Bool := tget s.irq.claimed i 0 != 0

def State.setLevel (s : State) (i : Nat) (b : Bool) : State :=
  { s with irq := { s.irq with level := tput s.irq.level i b false } }
def State.setLatch (s : State) (i : Nat) (b : Bool) : State :=
  { s with irq := { s.irq with edge := tput s.irq.edge i b false } }
def State.setClaim (s : State) (i n : Nat) : State :=
  { s with irq := { s.irq with claimed := tput s.irq.claimed i n 0 } }
def State.setOffer (s : State) (i n : Nat) : State :=
  { s with irq := { s.irq with offer := tput s.irq.offer i n 0 } }

/-- R454: pending: asserted (level) or latched (edge), with PRIO at least 1, and not claimed. -/
def State.srcPending (s : State) (i : Nat) : Bool :=
  decide (1 ≤ s.srcPrio i) && !s.srcClaimed i && (if s.srcEdge i then s.srcLatch i else s.srcLevel i)

/-- R453, R458: the tenancy a fabric source belongs to, where it is one of vats 1 to 15. -/
def srcTenancy (i : Nat) : Option Nat := if 32 ≤ i ∧ i < 512 then some (i / 32) else none

/-- R455: a processor meets the conditions of a normal offer. -/
def State.normElig (s : State) (i c : Nat) : Bool :=
  s.mbit (IRQ.SRC_CFG.GROUP i) c && !s.bit (IRQ.CPL.NACT c) && !s.bit (IRQ.CPL.FACT c)
    && decide (s.rd (IRQ.CPL.CPL c) < s.srcPrio i) && !s.procHalted c && s.procRuns c

/-- R457: a processor meets the conditions of a fast offer. -/
def State.fastElig (s : State) (i c : Nat) : Bool :=
  s.mbit (IRQ.SRC_CFG.GROUP i) c && !s.bit (IRQ.CPL.FACT c) && ((s.proc c).getCsr csrFstatus).getLsbD 0
    && !s.procHalted c && s.procRuns c

/-- Processors in rotating order, starting after one. -/
def rotation (last : Nat) : List Nat := (List.range 6).map fun k => (last + 1 + k) % 6

/-- R455, R457: of the eligible processors, the one of lowest CPL, ties in rotating order after the one chosen last. -/
def State.choose (s : State) (elig : Nat → Bool) (last : Nat) : Option Nat :=
  ((rotation last).filter elig).foldl (fun best c => match best with
    | none => some c
    | some b => if s.rd (IRQ.CPL.CPL c) < s.rd (IRQ.CPL.CPL b) then some c else some b) none

/-- R455, R457, R462: evaluate the offer of one source: an offer that still stands is kept, another is made where a
processor is eligible, and none where no processor is. -/
def State.offerOne (s : State) (i : Nat) : State :=
  if !s.srcPending i || (srcTenancy i).isSome then s.setOffer i 0
  else
    let fast := s.bit (IRQ.SRC_CFG.CLASS i)
    let elig := fun c => if fast then s.fastElig i c else s.normElig i c
    let last := if fast then s.irq.lastFast else s.irq.lastNorm
    match s.choose elig last with
    | none => s.setOffer i 0
    | some c =>
      let old := tget s.irq.offer i 0
      if old ≠ 0 ∧ elig (old - 1) ∧ s.rd (IRQ.CPL.CPL (old - 1)) ≤ s.rd (IRQ.CPL.CPL c) then s
      else
        let s := s.setOffer i (c + 1)
        let s := { s with irq := if fast then { s.irq with lastFast := c } else { s.irq with lastNorm := c } }
        match coreIdx c with
        | some k => s.wrb (SVC.CORE_CTL.WFI k) false
        | none => s

/-- Every source that is asserted, latched or offered. -/
def State.liveSources (s : State) : List Nat :=
  (s.irq.level.map (·.1) ++ s.irq.edge.map (·.1) ++ s.irq.offer.map (·.1)).dedup

/-- R455: the controller evaluates the offers again. -/
def State.reoffer (s : State) : State := s.liveSources.foldl State.offerOne s

/-- R262, R264: the vat's sources are ignored while its Rind is clamped. -/
def State.clamped (s : State) (v : Nat) : Bool := s.bit (VAT.VAT_STAT.CLAMPED v)

/-- R454, R459, R460: set a source's assertion. A rising edge of a tenancy's source with PRIO at least 1 queues
VAT_IRQ at its owner (DELIV = 0) or stays pending for the guest (DELIV = 1); a clamped tenancy's is ignored and the
discard counted (R280). -/
def State.srcSet (s : State) (i : Nat) (b : Bool) : State :=
  let rising := b && !s.srcLevel i
  match srcTenancy i with
  | some v =>
    if s.clamped v then
      if rising then s.bump (VAT.IRQ_DISC_CNT v) else s
    else
      let s := s.setLevel i b
      if !rising then s
      else if s.srcPrio i = 0 then s.setLatch i true
      else if s.bit (VAT.OWN.DELIV v) then s.setLatch i true
      else s.raiseAt [s.ownerOf v] ⟨EV.vatIrq.code, s.rd (IRQ.SRC_CFG.SEV i)⟩ v i [v, i % 32]
  | none =>
    if decide (i < 32) && s.clamped 0 then
      if rising then s.bump (VAT.IRQ_DISC_CNT 0) else s
    else
      let s := s.setLevel i b
      let s := if rising && s.srcEdge i then s.setLatch i true else s
      s.reoffer

/-- A pulse of a source: it asserts and falls again. A level source latches nothing (notes/assumptions/8.md). -/
def State.srcPulse (s : State) (i : Nat) : State := (s.srcSet i true).srcSet i false

/-- R456: the source a read of CLAIM claims: of the normal sources offered to the processor, the one of highest PRIO,
the lowest-numbered where PRIOs are equal. -/
def State.claimable (s : State) (c : Nat) : Option Nat :=
  (List.range 1024).foldl (fun best i =>
    if tget s.irq.offer i 0 = c + 1 ∧ !s.bit (IRQ.SRC_CFG.CLASS i) then
      match best with
      | none => some i
      | some b => if s.srcPrio b < s.srcPrio i then some i else some b
    else best) none

/-- R456: claim: NACT sets, CPL is saved and takes the priority, the edge latch clears. -/
def State.claim (s : State) (c i : Nat) : State :=
  let p := s.srcPrio i
  let s := ((s.wrb (IRQ.CPL.NACT c) true).wr (IRQ.CPL.SAVED c) (s.rd (IRQ.CPL.CPL c))).wr (IRQ.CPL.CPL c) p
  let s := ((s.setClaim i (c + 1)).setLatch i false).setOffer i 0
  (s.setProc c { s.proc c with normSrc := some i }).reoffer

/-- R456: complete: only the source the processor claimed; NACT clears and CPL returns to SAVED. -/
def State.complete (s : State) (c i : Nat) : State :=
  if (s.proc c).normSrc = some i then
    let s := (s.wrb (IRQ.CPL.NACT c) false).wr (IRQ.CPL.CPL c) (s.rd (IRQ.CPL.SAVED c))
    let s := s.setProc c { s.proc c with normSrc := none }
    (s.setClaim i 0).reoffer
  else s

/-- R460: the vat's pending sources as VPEND shows them. -/
def State.vpend (s : State) (v : Nat) : Nat :=
  (List.range 32).foldl (fun a k =>
    let i := 32 * v + k
    if s.bit (VAT.OWN.DELIV v) && decide (1 ≤ s.srcPrio i) && !s.srcClaimed i
       && (if s.srcEdge i then s.srcLatch i else s.srcLevel i) then a + 2 ^ k else a) 0

/-- R460: the source VCLAIM returns: highest PRIO, lowest index. -/
def State.vclaimable (s : State) (v : Nat) : Option Nat :=
  if tget s.irq.vclaim v 0 ≠ 0 then none
  else (List.range 32).foldl (fun best k =>
    if (s.vpend v).testBit k then
      match best with
      | none => some k
      | some b => if s.srcPrio (32 * v + b) < s.srcPrio (32 * v + k) then some k else some b
    else best) none

/-- R460: the guest external interrupt lines of a service core (0 to 3). -/
def State.hgeip (s : State) (core : Nat) : Nat :=
  (List.range 15).foldl (fun a k =>
    let v := k + 1
    let g := s.rd (VAT.OWN.GUEST v)
    if s.vpend v ≠ 0 ∧ tget s.irq.vclaim v 0 = 0 ∧ s.bit (IRQ.GUEST_MAP.VALID g) ∧ s.rd (IRQ.GUEST_MAP.CORE g) = core
    then a ||| 2 ^ s.rd (IRQ.GUEST_MAP.LINE g) else a) 0

/-- R454: the word of IRQ.PEND: bit b while source 32w + b is pending or claimed. -/
def State.pendWord (s : State) (w : Nat) : Word :=
  BitVec.ofNat 32 ((List.range 32).foldl (fun a b =>
    if s.srcPending (32 * w + b) || s.srcClaimed (32 * w + b) then a + 2 ^ b else a) 0)

/-- R461: the word of IRQ.WAKE_LAT: the edge latches of the sources routed through their wake latches. -/
def State.wakeWord (s : State) (w : Nat) : Word :=
  BitVec.ofNat 32 ((List.range 32).foldl (fun a b =>
    let i := 832 + 32 * w + b
    if s.bit (IRQ.SRC_CFG.WAKE i) && s.srcLatch i then a + 2 ^ b else a) 0)

/-- R446, R462: complete every interrupt a processor has claimed: NACT and FACT 0, CPL 0. -/
def State.completeAll (s : State) (c : Nat) : State :=
  let p := s.proc c
  let s := match p.normSrc with | some i => s.setClaim i 0 | none => s
  let s := match p.fastSrc with | some i => s.setClaim i 0 | none => s
  let s := s.setProc c { s.proc c with normSrc := none, fastSrc := none }
  (((s.wrb (IRQ.CPL.NACT c) false).wrb (IRQ.CPL.FACT c) false).wr (IRQ.CPL.CPL c) 0).wr (IRQ.CPL.SAVED c) 0 |>.reoffer

end Sys2Proof.Machine
end

