-- ==== Sys2Proof/Machine/Noc.lean ====
section
/-! DEFINITION. The on-chip network (R294 to R321): attachments, the address map, issuing a request, routing and
arbitration, answers, tags, and regulators. -/

namespace Sys2Proof.Machine

/-! Addresses and attachments. -/

/-- R34: the range a local address lies in. -/
inductive Region where
  | dram
  | vatWin (v : Nat)
  | dm (p : Nat)
  | scratch
  | cellar
  | regs
  | gap
deriving DecidableEq, Repr

/-- R34: the region of bits [41:0] of an address. -/
def regionOf (a : Nat) : Region :=
  if a ≤ 0x00FFFFFFFFFF then .dram
  else if a ≤ 0x013FFFFFFFFF then .vatWin ((a - 0x010000000000) / 0x400000000)
  else if 0x020000000000 ≤ a ∧ a ≤ 0x020001BFFFFF then .dm ((a - 0x020000000000) / 0x40000)
  else if 0x030000000000 ≤ a ∧ a ≤ 0x0300007FFFFF then .scratch
  else if 0x03F000000000 ≤ a ∧ a ≤ 0x03F01FFFFFFF then .cellar
  else if 0x03FF00000000 ≤ a then .regs
  else .gap

/-- R35: the device answers DECERR for a gap, DRAM at or above the capacity, and the window of an undefined vat. -/
def State.decerrLocal (s : State) (a : Nat) : Bool := match regionOf a with
  | .dram => decide (s.rd DDR.CAP.GIB * 2 ^ 30 ≤ a)
  | .vatWin v => !s.defined v
  | .gap => true
  | _ => false

/-- R295: the number of attachments of a router. -/
def attCount (y x : Nat) : Nat :=
  if 1 ≤ y ∧ y ≤ 14 then 4
  else if x = 0 ∨ x = 4 ∨ x = 11 ∨ x = 15 then 1
  else if x ≤ 3 ∨ 12 ≤ x then 4
  else if y = 0 then 1
  else match x with
    | 5 => 4
    | 6 => 3
    | 7 => 4
    | 8 => 2
    | 9 => 2
    | _ => 4

/-- R294: the attachments that issue requests: those of R295, and attachments 0 to 2 of every sector. -/
def isInitiator (i : Nat) : Bool :=
  decide (i < 1024) && decide (i % 4 < attCount (i / 64) (i / 4 % 16))
    && !(decide (64 ≤ i) && decide (i < 960) && i % 4 == 3)

/-- R296: the virtual channels an attachment carries. -/
def hasVc (i vc : Nat) : Bool := match vc with
  | 0 => true
  | 1 => true
  | 2 => !([980, 981, 982, 983, 986, 984, 985, 988, 989, 991, 997].contains i)
  | _ => [980, 981, 982, 983, 986, 1000, 1001, 1002, 1003].contains i

/-- Attachment numbers of the hard blocks (R295). -/
def ID.starter : Nat := 980
def ID.cfgEngine : Nat := 981
def ID.cellar : Nat := 983
def ID.regFabric : Nat := 986
def ID.timekeeper : Nat := 990
def ID.dma : Nat := 991
def ID.scratch (h : Nat) : Nat := 992 + 4 * h
/-- R295, R19: the sector service attachment of a DM pair's even-column sector. -/
def ID.dm (p : Nat) : Nat := 64 + 4 * (2 * p) + 3
/-- R295: the attachment of a DDR channel. -/
def ID.ddr (n : Nat) : Nat := 64 * (if n < 4 then 0 else 15) + 4 * ([0, 4, 11, 15].getD (n % 4) 0)

/-- R336: the channel a DRAM address selects. -/
def State.chanOf (s : State) (a : Nat) : Nat :=
  if s.rd DDR.GEOM.CHANS = 0 then (a / 2 ^ 8 % 8) ^^^ (a / 2 ^ 21 % 8)
  else 2 * ((a / 2 ^ 8 % 4) ^^^ (a / 2 ^ 21 % 4))

/-- R336: the channel line index M of a DRAM address. -/
def State.lineM (s : State) (a : Nat) : Nat :=
  if s.rd DDR.GEOM.CHANS = 0 then a / 2 ^ 11 * 4 + a / 64 % 4 else a / 2 ^ 10 * 4 + a / 64 % 4

/-- R298: the STATUS code of a response. -/
def Status.code : Status → Nat
  | .okay => 0
  | .slverr => 1
  | .decerr => 2
  | .targetReset => 3
  | .poisoned => 4
  | .timeout => 5

/-- R298: the status a code names; codes above 5 are not used. -/
def statusOf : Nat → Status
  | 0 => .okay
  | 1 => .slverr
  | 2 => .decerr
  | 3 => .targetReset
  | 4 => .poisoned
  | _ => .timeout

/-! The address map (R309 to R312). -/

/-- R309: one map entry, read from its four registers. -/
structure MapEnt where
  valid : Bool
  base : Nat
  size : Nat
  vats : Nat
  kind : Nat
  intlv : Nat
  row : Nat
  col : Nat
  port : Nat
deriving DecidableEq, Repr

/-- The entry that MAP_LO, MAP_HI, MAP_CTL and MAP_TGT spell. -/
def mapEnt (ws : List Word) : MapEnt :=
  let lo := ws.getD 0 0
  let hi := ws.getD 1 0
  let ctl := ws.getD 2 0
  let tgt := ws.getD 3 0
  ⟨wget ctl 31 31 == 1, wget hi 9 0 * 2 ^ 32 + wget lo 31 6 * 64, wget ctl 21 16, wget ctl 15 0, wget tgt 15 14,
    wget tgt 13 12, wget tgt 11 8, wget tgt 7 4, wget tgt 1 0⟩

/-- R309: a local address matches an entry. -/
def MapEnt.hits (e : MapEnt) (a : Nat) : Bool := e.valid && (a / 2 ^ e.size == e.base / 2 ^ e.size)

/-- The four words of entry e in the central table. -/
def State.entryWords (s : State) (e : Nat) : List Word :=
  (List.range 4).map fun j => s.reg (0x1001000 + 0x10 * e + 4 * j)

/-- R309: lookup at the central table: the lowest-numbered entry that matches. -/
def State.mapLookup (s : State) (a : Nat) : Option (Nat × List Word) :=
  ((List.range 64).map fun e => (e, s.entryWords e)).find? fun p => (mapEnt p.2).hits a

/-- R309, R310: the lowest-numbered entry that matches, of the table as an initiator knows it: its own copy of an entry it has
cached, the central table's of every other (notes/assumptions/14.md). -/
def State.mapSeen (s : State) (c : List (Nat × List Word)) (a : Nat) : Option (Nat × List Word) :=
  ((List.range 64).map fun e => (e, ((c.find? fun q => q.1 == e).map (·.2)).getD (s.entryWords e))).find? fun p => (mapEnt p.2).hits a

/-- R310: lookup by an initiator that caches the 8 entries it used last. While MAP_SYNC.BUSY is 1 whether the
initiator has discarded its cache yet is a free value. -/
def State.mapCached (s : State) (i a : Nat) : State × Option (Nat × List Word) :=
  let r := if s.bit NOC.MAP_SYNC.BUSY then s.fresh else (0, s)
  let gone := s.bit NOC.MAP_SYNC.BUSY && Config.freeBit r.1
  let s := r.2
  let c := if gone then [] else tget s.noc.cache i []
  match s.mapSeen c a with
  | none => (s, none)
  | some p =>
    let c' := (p :: c.filter fun q => q.1 != p.1).take 8
    ({ s with noc := { s.noc with cache := tput s.noc.cache i c' [] } }, some p)

/-- R309: where a matched entry sends an address; none where the device answers DECERR. -/
def State.mapDest (s : State) (e : MapEnt) (a : Nat) : Option (Nat × Nat × Nat) :=
  match e.kind with
  | 0 => some (e.row, e.col, e.port)
  | 1 => let i := ID.ddr (s.chanOf a); some (i / 64, i / 4 % 16, 0)
  | 2 =>
    let d := ((a / 2 ^ 18 % 128 : Nat) : Int) - ((e.base / 2 ^ 18 % 128 : Nat) : Int)
    if 0 ≤ d ∧ d ≤ 111 then let i := ID.dm d.toNat; some (i / 64, i / 4 % 16, 3) else none
  | _ => some (e.row, e.col + a / 64 % 2 ^ e.intlv, e.port)

/-! Regulators (R318 to R320). -/

/-- R320: regulator r lies in the range of vat v, which is clamped. -/
def State.regClamped (s : State) (r v : Nat) : Bool :=
  s.bit (VAT.VAT_STAT.CLAMPED v)
    && decide (s.rd (VAT.NOCREG.BASE v) ≤ r) && decide (r < s.rd (VAT.NOCREG.BASE v) + s.rd (VAT.NOCREG.CNT v))

/-- R320: regulator r lies in the range of a clamped vat. -/
def State.regZero (s : State) (r : Nat) : Bool := (List.range 16).any (s.regClamped r)

/-- R260, R320: a regulator is at zero for an initiator: it lies in the range of a clamped vat. The hard-block initiators of
vat 0, which is clamped in a LOAD, keep working. -/
def State.regZeroFor (s : State) (i r : Nat) : Bool := decide (64 ≤ i) && decide (i < 960) && s.regZero r

/-- R318: a regulator stops an initiator: it is at zero, or RATE is 0 with UNLIM = 0. -/
def State.regStops (s : State) (i r : Nat) : Bool :=
  s.regZeroFor i r || (!s.bit (NOC.REG_CFG.UNLIM r) && s.rd (NOC.REG_CFG.RATE r) == 0)

/-- R318: a regulator lets an initiator send: it does not stop it, and its bucket holds more than 0 bytes or nothing limits
it. -/
def State.regOpen (s : State) (i r : Nat) : Bool :=
  !s.regStops i r && (s.bit (NOC.REG_CFG.UNLIM r) || decide (tget s.noc.used r 0 < s.rd (NOC.REG_CFG.BURST r) * 64))

/-- R318: the regulator an initiator is bound to. -/
def State.regulatorOf (s : State) (i : Nat) : Option Nat :=
  if s.bit (NOC.INIT_CFG.BIND i) then some (s.rd (NOC.INIT_CFG.REG i)) else none

/-- R318: a request sent takes its bytes from the bucket of its regulator. -/
def State.regUse (s : State) (i n : Nat) : State := match s.regulatorOf i with
  | none => s
  | some r =>
    if s.bit (NOC.REG_CFG.UNLIM r) then { s with noc := { s.noc with drew := tput s.noc.drew r (i + 1) 0 } }
    else { s with noc := { s.noc with used := tput s.noc.used r (tget s.noc.used r 0 + n) 0,
                                      drew := tput s.noc.drew r (i + 1) 0 } }

/-! Issuing. -/

def State.tag (s : State) (i t : Nat) : Option TagSt := tget (s.noc.tags.map fun p => (p.1, some p.2)) (i * 1024 + t) none

/-- R314: the tags of an initiator that are in use. -/
def State.tagsOf (s : State) (i : Nat) : List (Nat × TagSt) := s.noc.tags.filter fun p => p.1 / 1024 == i

def State.setTag (s : State) (i t : Nat) (x : TagSt) : State :=
  { s with noc := { s.noc with tags := tins s.noc.tags (i * 1024 + t) x } }

def State.freeTag (s : State) (i t : Nat) : State :=
  { s with noc := { s.noc with tags := tdel s.noc.tags (i * 1024 + t) } }

/-- R308: deliver an answer to the requester. -/
def State.deliver (s : State) (i t : Nat) (st : Status) (data : BitVec 512) (poison : Bool) : State :=
  let s := { s with noc := { s.noc with last := tput s.noc.last i ⟨t, st, data, poison⟩ ⟨0, .okay, 0, false⟩ } }
  if st = .slverr ∨ st = .decerr ∨ st = .targetReset then s.bump (NOC.ERR_CNT i) else s

/-- R312: decode a local address for an initiator's vat at an entry: DECERR, SLVERR, or a destination. -/
def State.mapDecide (s : State) (vat a : Nat) (p : Option (Nat × List Word)) : Status × Nat × Nat × Nat :=
  match p with
  | none => (.decerr, 0, 0, 0)
  | some p =>
    let e := mapEnt p.2
    if !e.vats.testBit vat then (.slverr, 0, 0, 0)
    else match s.mapDest e a with
      | none => (.decerr, 0, 0, 0)
      | some d => (.okay, d.1, d.2.1, d.2.2)

/-- R312: what an initiator does with a request: the status it answers itself, or the flit it sends. -/
def State.decodeRq (s : State) (i vat : Nat) (rq : NocRq) : State × Status × Flit :=
  let a := rq.addr.toNat
  let la := a % 2 ^ 42
  let own := s.rd SPAN.DEVNUM.NUM
  let dev := a / 2 ^ 48 % 4096
  let far := a / 2 ^ 63 == 1 && dev != own
  let want := if rq.mgmt then 3 else if rq.qos.val = 3 then 2 else 0
  let f : Flit := {
    row := 0, col := 0, port := 0, dev := (if far then dev else own), ini := i,
    vc := (if hasVc i want then want else 0), tag := rq.tag.val, op := (if rq.wr then 1 else 0), qos := rq.qos.val,
    poison := rq.wr && rq.poison, status := 0, len := rq.len.val, payload := if rq.wr then rq.data else 0,
    addr := la, srcDev := own }
  if 64 ≤ la % 64 + rq.len.val then (s, .slverr, f)
  else if far then (s, .okay, f)
  else if a / 2 ^ 42 % 2 ^ 6 ≠ 0 ∨ a / 2 ^ 60 % 8 ≠ 0 ∨ (a / 2 ^ 63 = 0 ∧ dev ≠ 0) ∨ s.decerrLocal la then (s, .decerr, f)
  else
    let r := s.mapCached i la
    let d := r.1.mapDecide vat la r.2
    (r.1, d.1, { f with row := d.2.1, col := d.2.2.1, port := d.2.2.2 })

/-- R303: the router input of an attachment has room for a flit of a VC: it holds fewer than 4. -/
def State.entryRoom (s : State) (id vc : Nat) : Bool :=
  decide ((s.noc.mesh.filter fun m => m.y == id / 64 && m.x == id / 4 % 16 && m.inp == 4 + id % 4 && m.f.vc == vc).length < 4)

def State.port (s : State) (k : Nat) : SpanPort := tget s.span k {}
def State.setPort (s : State) (k : Nat) (p : SpanPort) : State := { s with span := tput s.span k p {} }

/-- R323, R324: a flit leaves the input buffer of a span port, so its VC's freed count rises, unless the flit was there before the
link came up. -/
def State.spanFree (s : State) (k vc : Nat) : State :=
  let p := s.port k
  if 0 < p.stale.getD vc 0 then s.setPort k { p with stale := p.stale.modify vc (· - 1) }
  else s.setPort k { p with freed := p.freed.modify vc fun c => (c + 1) % 256 }

/-- R303: a flit enters the mesh at its attachment, behind those that wait there for room; `span`: the span port whose input
buffer it leaves by that. -/
def State.enterMesh (s : State) (m : Moving) (span : Option Nat) : State :=
  let id := 64 * m.y + 4 * m.x + (m.inp - 4)
  let l := tget s.noc.out id []
  if s.entryRoom id m.f.vc && !(l.any fun p => p.1.f.vc == m.f.vc) then
    let s : State := { s with noc := { s.noc with mesh := s.noc.mesh ++ [m] } }
    match span with
    | some k => s.spanFree k m.f.vc
    | none => s
  else { s with noc := { s.noc with out := tput s.noc.out id (l ++ [(m, span)]) [] } }

/-- R303: room has come up at the router input of an attachment: the flits that wait there are tried again, in order. -/
def State.refill (s : State) (id : Nat) : State :=
  let l := tget s.noc.out id []
  l.foldl (fun (s : State) p => s.enterMesh p.1 p.2) { s with noc := { s.noc with out := tput s.noc.out id [] [] } }

/-- R303, R314, R318: what keeps a request at its initiator: 1 a tag, 2 the regulator, 3 the router's input buffer, 0 nothing.
A request whose own tag is still in use waits for that tag (notes/assumptions/10.md). -/
def State.blocked (s : State) (i : Nat) (w : Waiting) : Nat :=
  if !w.remote && ((s.tagsOf i).length == 1024 || (s.tag i w.f.tag).isSome) then 1
  else match s.regulatorOf i with
    | some r => if !s.regOpen i r then 2 else if s.entryRoom i w.f.vc then 0 else 3
    | none => if s.entryRoom i w.f.vc then 0 else 3

/-- R297, R314, R315, R318, R321: send a request: it takes its tag, its stamp and its bytes, and enters the mesh. A remote
request leaves the input buffer of its span port (R324). -/
def State.sendRq (s : State) (i : Nat) (w : Waiting) : State :=
  let n := w.f.len + 1
  let s := s.regUse i n
  let m : Moving := ⟨w.f, i / 64, i / 4 % 16, 4 + i % 4, w.vat, s.noc.stamp, 0⟩
  let s := { s with noc := { s.noc with mesh := s.noc.mesh ++ [m], stamp := s.noc.stamp + 1 } }
  if w.remote then s.spanFree (i - 1000) w.f.vc
  else
    let s := s.setTag i w.f.tag ⟨m.stamp, s.rd (NOC.INIT_TMO.TMO i), w.f.op == 0, false, false⟩
    if w.f.op = 0 then s.bump (NOC.RD_CNT i) else (s.bump (NOC.WR_CNT i)).bump (NOC.WR_BYTES i) n

/-- Hold a request at its initiator. -/
def State.hold (s : State) (i : Nat) (w : Waiting) : State :=
  { s with noc := { s.noc with held := tput s.noc.held i (tget s.noc.held i [] ++ [w]) [] } }

/-- Send a request, or hold it behind those that wait already. -/
def State.offer (s : State) (i : Nat) (w : Waiting) : State :=
  if (tget s.noc.held i []).isEmpty && s.blocked i w == 0 then s.sendRq i w else s.hold i w

/-- Send the requests an initiator holds, in order, as long as none is blocked (at most n). -/
def State.retry : Nat → Nat → State → State
  | 0, _, s => s
  | n + 1, i, s => match tget s.noc.held i [] with
    | [] => s
    | w :: ws =>
      if s.blocked i w = 0 then
        State.retry n i (({ s with noc := { s.noc with held := tput s.noc.held i ws [] } } : State).sendRq i w)
      else s

/-- All requests that wait at an initiator. -/
def State.retryAll (s : State) (i : Nat) : State := s.retry (tget s.noc.held i []).length i

/-- R312: an initiator issues a request with the rights of a vat. -/
def State.issue (s : State) (i vat : Nat) (rq : NocRq) : State :=
  let r := s.decodeRq i vat rq
  if r.2.1 = .okay then r.1.offer i ⟨r.2.2, vat, false⟩ else r.1.deliver i rq.tag.val r.2.1 0 false

/-- R445: the processor of an initiator ID. -/
def procOfId (i : Nat) : Option Nat := findIdx 6 fun c => [980, 984, 985, 988, 989, 990].getD c 0 == i

/-- R447: a system address lies in a valid window of the Starter, or of the Timekeeper (`tk`). -/
def State.inWindow (s : State) (tk : Bool) (a : Nat) : Bool := (List.range 8).any fun k =>
  let o := if tk then 0x6300240 + 8 * k else 0x6300200 + 8 * k
  (s.reg o).getLsbD 0 && wget (s.reg o) 31 28 == a / 2 ^ 28 % 16 && (s.reg (o + 4)).toNat == a / 2 ^ 32

/-- R447, R448: a processor's memory view leads to a system address: the register window and the valid windows of the Starter and the
Timekeeper; for a service core the addresses its 55 address bits map to, and no store to the Cellar. Elsewhere its access faults, and
no request is sent. -/
def State.cpuReaches (s : State) (c a : Nat) (wr : Bool) : Bool :=
  if c = 0 ∨ c = 5 then (decide (0x03FF00000000 ≤ a) && decide (a < 0x03FF10000000)) || s.inWindow (c == 5) a
  else a / 2 ^ 42 % 64 == 0 && a / 2 ^ 60 % 8 == 0 && !(wr && a < 2 ^ 63 && regionOf (a % 2 ^ 42) == .cellar)

/-- NOC_REQUEST_ISSUE (R312): an attachment that never issues does nothing, and neither does one of a clamped vat (R262), nor a
processor outside its memory view (R447, R448); the Starter's requests for IMM and the Yapin monitor use no view. No initiator issues
while the core island is off or a device reset runs (R542). -/
def execNocRequestIssue (i : Fin 1024) (rq : NocRq) (s : State) : Host.Outcome State Fault Refusal :=
  let v := s.vatOfInit i.val
  if isInitiator i.val = false ∨ s.islandUp = false then .next s
  else if rq.mgmt = false ∧ ((procOfId i.val).map fun c => s.cpuReaches c rq.addr.toNat rq.wr) = some false then .next s
  else if 64 ≤ i.val ∧ i.val < 960 ∧ (v = 0xFF ∨ s.bit (VAT.VAT_STAT.CLAMPED v)) then .next s
  else .next (s.issue i.val v rq)

/-! Routing and arbitration (R302 to R306). -/

def outCode : NocOut → Nat
  | .north => 0
  | .south => 1
  | .east => 2
  | .west => 3
  | .att a => 4 + a.val
  | .gateway => 8

/-- R302: the output a router gives a flit: first along the row to the destination column, then along the column. -/
def State.route (s : State) (m : Moving) : NocOut :=
  let far := m.f.dev != s.rd SPAN.DEVNUM.NUM
  let row := if far then 15 else m.f.row
  let col := if far then 10 else m.f.col
  if m.x < col then .east
  else if col < m.x then .west
  else if m.y < row then .north
  else if row < m.y then .south
  else if far then .gateway
  else .att ⟨m.f.port % 4, Nat.mod_lt _ (by decide)⟩

/-- The router and input a mesh output leads to. -/
def nextHop (y x : Nat) : NocOut → Nat × Nat × Nat
  | .north => (y + 1, x, 1)
  | .south => (y - 1, x, 0)
  | .east => (y, x + 1, 3)
  | .west => (y, x - 1, 2)
  | _ => (y, x, 4)

/-- R303: the output has room for the flit's VC: 4 flits for each VC at a mesh input. -/
def State.credit (s : State) (y x : Nat) (o : NocOut) (vc : Nat) : Bool := match o with
  | .att _ => true
  | .gateway => true
  | o =>
    let h := nextHop y x o
    decide ((s.noc.mesh.filter fun m => m.y == h.1 && m.x == h.2.1 && m.inp == h.2.2 && m.f.vc == vc).length < 4)

/-- The flits of a list that no earlier flit of the same input and VC precedes. -/
def heads : List Moving → List Moving → List Moving
  | _, [] => []
  | seen, m :: t =>
    if seen.any fun k => k.inp == m.inp && k.f.vc == m.f.vc then heads seen t else m :: heads (m :: seen) t

/-- R304: among flits of one VC: those that waited 64 grants first (VC0), then the highest QOS, then rotating inputs. -/
def pickVc (last : Nat) (l : List Moving) : Option Moving :=
  let old := l.filter fun m => m.f.vc == 0 && decide (64 ≤ m.waited)
  let l := if old.isEmpty then l else old
  l.foldl (fun b m => match b with
    | none => some m
    | some k =>
      if k.f.qos < m.f.qos ∨ (k.f.qos = m.f.qos ∧ (m.inp + 8 - (last + 1)) % 8 < (k.inp + 8 - (last + 1)) % 8)
      then some m else some k) none

/-- R304: the flit an output grants, of the heads that wait for it with a credit. -/
def grant (streak : Nat) (last : Nat → Nat) (l : List Moving) : Option Moving :=
  let of := fun v => l.filter fun m => m.f.vc == v
  let order := if 3 ≤ streak ∧ !((of 0).isEmpty && (of 1).isEmpty) then [1, 0] else [2, 3, 1, 0]
  match order.find? fun v => !(of v).isEmpty with
  | none => none
  | some v => pickVc (last v) (of v)

/-- Remove the first occurrence of an element. -/
def removeOne (m : Moving) : List Moving → List Moving
  | [] => []
  | k :: t => if k = m then t else k :: removeOne m t

/-- R306: discard a flit whose header is unroutable. -/
def State.headerLoss (s : State) (src : Nat) : State :=
  ((s.bump NOC.HDR_ERR_CNT).raiseDev EV.nocHdrErr src).srcPulse 772

/-- R296: put a flit into an attachment's buffers: responses at its initiator side, requests at its target side, in the
VC0 buffer where the attachment lacks the VC. -/
def State.eject (s : State) (id : Nat) (m : Moving) : State :=
  let m := { m with inp := if hasVc id m.f.vc then m.f.vc else 0, waited := 0 }
  if m.f.vc = 1 then { s with noc := { s.noc with resp := tput s.noc.resp id (tget s.noc.resp id [] ++ [m]) [] } }
  else { s with noc := { s.noc with target := tput s.noc.target id (tget s.noc.target id [] ++ [m]) [] } }

/-- FLIT_FORWARD (R302 to R306): the output of the router at row y and column x grants one flit; its header or its
payload may have an uncorrectable error. With nothing to grant nothing happens. -/
def execFlitForward (y x : Fin 16) (o : NocOut) (hdrErr payErr : Bool) (s : State) :
    Host.Outcome State Fault Refusal :=
  let key := (y.val * 16 + x.val) * 16 + outCode o
  let here := heads [] (s.noc.mesh.filter fun m => m.y == y.val && m.x == x.val)
  let cand := here.filter fun m => s.route m == o && s.credit y.val x.val o m.f.vc
  match grant (tget s.noc.streak key 0) (fun v => tget s.noc.rot (key * 4 + v) 7) cand with
  | none => .next s
  | some m =>
    let low := cand.any fun k => decide (k.f.vc ≤ 1)
    let st := if m.f.vc ≤ 1 ∨ !low then 0 else tget s.noc.streak key 0 + 1
    let mesh := (removeOne m s.noc.mesh).map fun k =>
      if k.y = y.val ∧ k.x = x.val ∧ s.route k = o then { k with waited := k.waited + 1 } else k
    let s := { s with noc := { s.noc with mesh := mesh, streak := tput s.noc.streak key st 0,
                                          rot := tput s.noc.rot (key * 4 + m.f.vc) m.inp 7 } }
    let id := 64 * y.val + 4 * x.val + (m.inp - 4)
    let s := if 4 ≤ m.inp then (s.refill id).retryAll id else s
    if hdrErr then .next (s.headerLoss (y.val * 16 + x.val))
    else
      let m := { m with f := { m.f with poison := m.f.poison || payErr }, waited := 0 }
      match o with
      | .att a => .next (s.eject (64 * y.val + 4 * x.val + a.val) m)
      | .gateway => .next { s with noc := { s.noc with gate := s.noc.gate ++ [(m, none)] } }
      | o =>
        let h := nextHop y.val x.val o
        .next { s with noc := { s.noc with mesh := s.noc.mesh ++ [{ m with y := h.1, x := h.2.1, inp := h.2.2 }] } }

/-! Answers. -/

/-- R299: the bytes of a line that lie at offsets off to off + len. -/
def lineBytes (off len : Nat) (d : BitVec 512) : BitVec 512 :=
  d &&& BitVec.ofNat 512 ((2 ^ (8 * (len + 1)) - 1) * 2 ^ (8 * off))

/-- R300: the response a target builds from a request. -/
def respFlit (f : Flit) (st : Status) (data : BitVec 512) : Flit :=
  { f with dev := f.srcDev, row := f.ini / 64, col := f.ini / 4 % 16, port := f.ini % 4, vc := 1,
           op := if f.op = 0 then 8 else 9, status := st.code, poison := st == .poisoned,
           payload := if f.op = 0 ∧ (st = .okay ∨ st = .poisoned) then lineBytes (f.addr % 64) f.len data else 0,
           addr := 0, srcDev := 0 }

/-- R300, R303: a response flit to a request leaves an attachment. -/
def State.sendRsp (s : State) (id : Nat) (m : Moving) (f : Flit) : State :=
  s.enterMesh ⟨f, id / 64, id / 4 % 16, 4 + id % 4, m.vat, m.stamp, 0⟩ none

/-- R300: an attachment answers a request. -/
def State.respond (s : State) (id : Nat) (m : Moving) (st : Status) (data : BitVec 512) : State :=
  s.sendRsp id m (respFlit m.f st data)

/-! Tags, timeouts (R314 to R316). -/

/-- QUARANTINE_EXPIRY (R316, R265): 4 × the timeout has passed: the tag in quarantine, or orphaned, is free. -/
def execQuarantineExpiry (i t : Fin 1024) (s : State) : Host.Outcome State Fault Refusal :=
  match s.tag i.val t.val with
  | none => .next s
  | some x => if x.quar || x.orphan then .next ((s.freeTag i.val t.val).retryAll i.val) else .next s

/-- R321: a round trip's NOC cycles go into LAT_SUM and LAT_MAX. -/
def State.latency (s : State) (i cycles : Nat) : State :=
  let s := s.bump (NOC.LAT_SUM i) cycles
  if s.rd (NOC.LAT_MAX.MAX i) < cycles then s.wr (NOC.LAT_MAX.MAX i) (min cycles (2 ^ 32 - 1)) else s

/-- R314, R316, R321, R265: a response reaches its initiator: an orphan's or a late one is discarded and counted, and
any other is delivered; `cycles` is its round trip in NOC cycles. Answers whether it was delivered. -/
def State.takeResponse (s : State) (i : Nat) (m : Moving) (cycles : Nat) : State × Bool :=
  let t := m.f.tag
  match s.tag i t with
  | none => (s.bump (NOC.LATE_CNT i), false)
  | some x =>
    if x.stamp ≠ m.stamp then (s.bump (NOC.LATE_CNT i), false)
    else if x.orphan then
      let v := s.vatOfInit i
      (((s.freeTag i t).bump (VAT.RSP_DISC_CNT v)).retryAll i, false)
    else if x.quar then (((s.freeTag i t).bump (NOC.LATE_CNT i)).retryAll i, false)
    else
      let st := statusOf m.f.status
      let s := (s.freeTag i t).deliver i t st m.f.payload m.f.poison
      let s := (s.bump (NOC.RT_CNT i)).latency i cycles
      let s := if x.rd ∧ (st = .okay ∨ st = .poisoned) then s.bump (NOC.RD_BYTES i) (m.f.len + 1) else s
      (s.retryAll i, true)

/-! Map upkeep and regulators. -/

/-- MAP_SYNC_DONE (R310): every initiator has discarded its cache; BUSY clears. -/
def execMapSyncDone (s : State) : Host.Outcome State Fault Refusal :=
  if s.bit NOC.MAP_SYNC.BUSY then
    .next (({ s with noc := { s.noc with cache := [] } } : State).wrb NOC.MAP_SYNC.BUSY false)
  else .next s

/-- MAP_CACHE_REFRESH (R310): an initiator's background refresh discards its cache. -/
def execMapCacheRefresh (i : Fin 1024) (s : State) : Host.Outcome State Fault Refusal :=
  .next { s with noc := { s.noc with cache := tput s.noc.cache i.val [] [] } }

/-- The initiators bound to a regulator that hold requests, after the one that drew last, in rotating order. -/
def State.drawOrder (s : State) (r : Nat) : List Nat :=
  let l := (s.noc.held.map (·.1)).filter fun i => s.regulatorOf i == some r
  let last := tget s.noc.drew r 0
  (l.filter fun i => decide (last ≤ i)) ++ l.filter fun i => decide (i < last)

/-- Serve the initiators that wait at a regulator one request at a time, in rotating order. -/
def State.drawAll : Nat → Nat → State → State
  | 0, _, s => s
  | n + 1, r, s => match (s.drawOrder r).find? fun i => match tget s.noc.held i [] with
      | [] => false
      | w :: _ => s.blocked i w == 0 with
    | none => s
    | some i => State.drawAll n r (s.retry 1 i)

/-- R318: a new bucket size leaves a bucket what it holds, up to that size. -/
def State.burstTo (s : State) (r n : Nat) : State :=
  { s with noc := { s.noc with
      used := tput s.noc.used r (n * 64 + tget s.noc.used r 0 - s.rd (NOC.REG_CFG.BURST r) * 64) 0 } }

/-- R318: the requests that wait at a regulator. -/
def State.drawFrom (s : State) (r : Nat) : State :=
  s.drawAll (s.noc.held.foldl (fun n p => n + p.2.length) 0) r

/-- REGULATOR_BUCKET_FILL (R318, R320): one microsecond of filling at RATE × 2 MB/s, that is 2 × RATE bytes, up to
BURST × 64; then the requests that wait draw from it. The regulators of vat 0 fill in a LOAD too, for its hard-block initiators
(R260). -/
def execRegulatorBucketFill (r : Fin 256) (s : State) : Host.Outcome State Fault Refusal :=
  let u := if (List.range 16).any fun v => v != 0 && s.regClamped r.val v then tget s.noc.used r.val 0 else tget s.noc.used r.val 0 - 2 * s.rd (NOC.REG_CFG.RATE r.val)
  .next (({ s with noc := { s.noc with used := tput s.noc.used r.val u 0 } } : State).drawFrom r.val)

/-- R319: bind an initiator to the lowest-numbered free regulator of its vat's range, or share the highest. -/
def State.bindReg (s : State) (i : Nat) : State :=
  let v := s.vatOfInit i
  if s.bit (NOC.INIT_CFG.BIND i) ∨ v = 0xFF ∨ s.rd (VAT.NOCREG.CNT v) = 0 then s
  else
    let b := s.rd (VAT.NOCREG.BASE v)
    let top := min 256 (b + s.rd (VAT.NOCREG.CNT v))
    let free := (List.range top).find? fun r => decide (b ≤ r) && s.rd (NOC.REG_STAT.BOUND r) == 0
    let r := free.getD (top - 1)
    let s := (s.wrb (NOC.INIT_CFG.BIND i) true).wr (NOC.INIT_CFG.REG i) r
    let s := s.wr (NOC.REG_STAT.BOUND r) (s.rd (NOC.REG_STAT.BOUND r) + 1)
    if free.isSome then s
    else ((s.wrb (NOC.REG_STAT.SHARED r) true).raiseDev EV.nocRegShared r [i]).srcPulse 773

/-- R319: unbind; SHARED clears when BOUND falls to 1. The requests the regulator held back go. -/
def State.unbindReg (s : State) (i : Nat) : State := match s.regulatorOf i with
  | none => s
  | some r =>
    let n := s.rd (NOC.REG_STAT.BOUND r) - 1
    let s := ((s.wrb (NOC.INIT_CFG.BIND i) false).wr (NOC.INIT_CFG.REG i) 0).wr (NOC.REG_STAT.BOUND r) n
    let s := if n ≤ 1 then s.wrb (NOC.REG_STAT.SHARED r) false else s
    s.retryAll i

/-- R319: SHARED of INIT_CFG as it reads: the bound regulator is shared. -/
def State.initShared (s : State) (i : Nat) : Bool := match s.regulatorOf i with
  | none => false
  | some r => s.bit (NOC.REG_STAT.SHARED r)

/-- R314, R318: what stalls an initiator, as its oldest unsent request meets it: 1 a tag, 2 the regulator, 0 nothing. -/
def State.stalled (s : State) (i : Nat) : Nat := match tget s.noc.held i [] with
  | [] => 0
  | w :: _ => s.blocked i w

/-- R314, R318: INIT_STAT as it reads. -/
def State.initStat (s : State) (i : Nat) : Word :=
  let b := s.stalled i
  let l := s.tagsOf i
  let q := (l.filter fun p => p.2.quar).length
  BitVec.ofNat 32 ((if b = 1 then 2 ^ 31 else 0) + (if b = 2 then 2 ^ 30 else 0) + q * 2 ^ 16 + l.length)

/-- R264, R265: the initiators of a vat lose their unsent requests, and their tags in use are orphaned. -/
def State.orphanVat (s : State) (v : Nat) : State :=
  let mine := fun i => decide (64 ≤ i) && decide (i < 960) && s.vatOfInit i == v
  { s with noc := { s.noc with
      held := tfilter (fun i _ => !mine i) s.noc.held
      tags := s.noc.tags.map fun p => if mine (p.1 / 1024) then (p.1, { p.2 with orphan := true }) else p } }

/-- R320: at release every bucket of the vat's range is full. -/
def State.fillVatRegs (s : State) (v : Nat) : State :=
  let b := s.rd (VAT.NOCREG.BASE v)
  let c := s.rd (VAT.NOCREG.CNT v)
  { s with noc := { s.noc with used := tfilter (fun r _ => !(decide (b ≤ r) && decide (r < b + c))) s.noc.used } }

end Sys2Proof.Machine
end

