-- ==== Sys2Proof/Machine/Dram.lean ====
section
/-! DEFINITION. The DRAM controllers (R333 to R371): geometry, lines, admission, reads and writes, refresh,
initialisation and fill, rank sparing, self-refresh and patrol. -/

namespace Sys2Proof.Machine

def State.chan (s : State) (n : Nat) : DramCh := tget s.dram.ch n {}
def State.setChan (s : State) (n : Nat) (c : DramCh) : State :=
  { s with dram := { s.dram with ch := tput s.dram.ch n c {} } }

/-- DDR.CH_STAT.STATE codes. -/
def DS.uninit : Nat := 0
def DS.training : Nat := 1
def DS.ready : Nat := 2
def DS.selfRefresh : Nat := 3
def DS.fail : Nat := 4
def DS.absent : Nat := 5
def DS.filling : Nat := 6

def State.chState (s : State) (n : Nat) : Nat := s.rd (DDR.CH_STAT.STATE n)
def State.setChState (s : State) (n st : Nat) : State := s.wr (DDR.CH_STAT.STATE n) st

/-! Geometry (R335 to R337). -/

/-- log2 of the number of data ranks. -/
def State.rankBits (s : State) : Nat := s.rd DDR.GEOM.DRANKS
/-- R333, R359: fitted ranks: the data ranks and the spare. -/
def State.fittedRanks (s : State) : Nat := 2 ^ s.rankBits + s.rd DDR.GEOM.SPARE
/-- R335: lines of a rank: 32 GiB, or 16 GiB for x8 devices of 16 Gb. -/
def State.rankLines (s : State) : Nat := if s.bit DDR.GEOM.DEVW ∧ ¬ s.bit DDR.GEOM.DENS then 2 ^ 28 else 2 ^ 29
/-- R335: COL bits. -/
def State.colBits (s : State) : Nat := if s.bit DDR.GEOM.DEVW then 6 else 7
/-- R337: the data rank of a channel line index. -/
def State.rankOfM (s : State) (m : Nat) : Nat := m / 64 % 2 ^ s.rankBits
/-- R337: the rank line index: M without its RANK bits. -/
def State.idxOfM (s : State) (m : Nat) : Nat := m / (64 * 2 ^ s.rankBits) * 64 + m % 64
/-- The logical line of a DRAM address: rank × 2^30 + rank line index. -/
def State.lineOf (s : State) (a : Nat) : Nat := s.rankOfM (s.lineM a) * 2 ^ 30 + s.idxOfM (s.lineM a)
/-- R336, R337 inverted: the system line address of a logical line of channel n. -/
def State.addrOfLine (s : State) (n line : Nat) : Nat :=
  let i := line % 2 ^ 30
  let m := i / 64 * (64 * 2 ^ s.rankBits) + line / 2 ^ 30 * 64 + i % 64
  if s.rd DDR.GEOM.CHANS = 0 then
    let a := m / 4 * 2 ^ 11 + m % 4 * 64
    a + (n ^^^ (a / 2 ^ 21 % 8)) * 2 ^ 8
  else
    let a := m / 4 * 2 ^ 10 + m % 4 * 64
    a + (n / 2 ^^^ (a / 2 ^ 21 % 4)) * 2 ^ 8
/-- R337: the bank queue a line belongs to: subchannel × 128 + rank × 32 + bank group × 4 + bank. -/
def bankOfLine (line : Nat) : Nat :=
  let i := line % 2 ^ 30
  i % 2 * 128 + line / 2 ^ 30 * 32 + i / 2 % 8 * 4 + i / 16 % 4
/-- R337: the row of a line. -/
def State.rowOfLine (s : State) (line : Nat) : Nat := line % 2 ^ 30 / 64 / 2 ^ s.colBits

/-- R359, R360, R362: the physical rank that holds a logical line. -/
def State.physRank (s : State) (n line : Nat) : Nat :=
  let r := line / 2 ^ 30
  let st := s.rd (DDR.SPARE.STATE n)
  if r = s.rd (DDR.SPARE.SRC n) ∧ (st = 3 ∨ (st = 2 ∧ line % 2 ^ 30 < s.rd (DDR.MIG_PTR.LINES n)))
  then s.rd (DDR.SPARE.SPR n) else r

/-- What an unlisted line of a rank holds: zeros written by the fill, or what nothing has written (draw 0). -/
def DramCh.lineDefault (c : DramCh) (rank : Nat) : DLine := ⟨0, false, tget c.fillDraw rank 0⟩

/-- The stored line of a physical rank. -/
def DramCh.line (c : DramCh) (rank i : Nat) : DLine := tget c.lines (rank * 2 ^ 30 + i) (c.lineDefault rank)

def DramCh.setLine (c : DramCh) (rank i : Nat) (l : DLine) : DramCh :=
  { c with lines := tput c.lines (rank * 2 ^ 30 + i) l (c.lineDefault rank) }

/-- R344: store a line under the current keys, with its MAC, its code and its poison bit. -/
def State.storeLine (s : State) (n line : Nat) (data : BitVec 512) (poison : Bool) : State :=
  s.setChan n ((s.chan n).setLine (s.physRank n line) (line % 2 ^ 30) ⟨data, poison, s.dram.draw⟩)

/-- R347, R453: an interrupt of channel n. -/
def State.ddrPulse (s : State) (n k : Nat) : State := s.srcPulse (704 + 8 * n + k)

/-! Rank faults and migration (R355, R359, R361). -/

/-- R359: start a migration of a rank to the spare; what the spare held is given up. -/
def State.migStart (s : State) (n r : Nat) : State :=
  let c := s.chan n
  let sp := s.rd (DDR.SPARE.SPR n)
  let c := { c with lines := tfilter (fun k _ => k / 2 ^ 30 != sp) c.lines,
                    fillDraw := tput c.fillDraw sp (tget c.fillDraw r 0) 0 }
  (((s.setChan n c).wr (DDR.SPARE.STATE n) 2).wr (DDR.SPARE.SRC n) r).wr (DDR.MIG_PTR.LINES n) 0

/-- R355, R361: a physical rank faults, at most once. -/
def State.rankFault (s : State) (n r addr : Nat) : State :=
  if s.mbit (DDR.CH_STAT.FAULTED n) r then s
  else
    let st := s.rd (DDR.SPARE.STATE n)
    let s := (s.wrm (DDR.CH_STAT.FAULTED n) r true).raiseDev EV.dramRankFault n [r, addr % 2 ^ 32, addr / 2 ^ 32]
    let s := s.ddrPulse n 0
    if (st = 2 ∨ st = 3) ∧ r ≠ s.rd (DDR.SPARE.SRC n) then
      ((s.wrb (DDR.SPARE.EXHAUSTED n) true).raiseDev EV.spareExhausted n [r]).ddrPulse n 3
    else if st = 1 ∧ s.bit (DDR.CH_CTL.AUTO_MIG n) ∧ r ≠ s.rd (DDR.SPARE.SPR n) ∧ (s.chan n).filling = false then s.migStart n r
    else s

/-- R355: count a corrected error of a rank; more than CE_THR within one second make a rank fault. -/
def State.corrected (s : State) (n r addr : Nat) : State :=
  let s := s.bump (DDR.CE_CNT n r)
  let sec := s.mtime / 100000000
  let c := s.chan n
  let old := tget c.ceSec r (0, 0)
  let cnt := if old.1 = sec then old.2 + 1 else 1
  let s := s.setChan n { c with ceSec := tput c.ceSec r (sec, cnt) (0, 0) }
  let thr := s.rd (DDR.CE_THR.THR n)
  if thr ≠ 0 ∧ thr < cnt then s.rankFault n r addr else s

/-- R343: DRAM_INTEGRITY, to the owner of vat 0 and of the vat whose read failed; it carries the address. -/
def State.integrity (s : State) (n addr : Nat) (vat : Option Nat) : State :=
  let hs := s.devOwner :: (vat.map fun v => s.ownerOf v).toList
  (s.raiseAt hs EV.dramIntegrity (vat.getD 0xFF) n [addr % 2 ^ 32, addr / 2 ^ 32]).ddrPulse n 1

/-! The outcome of reading a line (R343, R358). -/

/-- What a read of a line ends in: its data, how it is answered, whether it is to be written back corrected, whether the
code failed, whether the MAC failed, whether POISON stood in it, and whether the code corrected it. -/
structure Found where
  data : BitVec 512
  st : Status
  back : Bool := false
  codeBad : Bool := false
  macFail : Bool := false
  psn : Bool := false
  corr : Bool := false
deriving DecidableEq, Repr

/-- R342: a key of a draw: K1, K2, K_M. -/
def dramKey (draw j : Nat) : List Byte := numBe 32 (Config.dramKey draw j).toNat

/-- R340: the ciphertext of a line under the keys of a draw, and what ciphertext decrypts to. -/
def lineCt (draw addr : Nat) (d : BitVec 512) : BitVec 512 := xtsLine (aesEnc (dramKey draw 0)) (dramKey draw 1) (addr / 64) d
def linePt (draw addr : Nat) (ct : BitVec 512) : BitVec 512 := xtsLine (aesDec (dramKey draw 0)) (dramKey draw 1) (addr / 64) ct

/-- R341: the MAC of a ciphertext under the keys of a draw. -/
def lineMacOf (draw addr : Nat) (ct : BitVec 512) : Nat := lineMac (dramKey draw 2) (addr / 64) ct

/-- R338 to R341: the 40 symbols that a line written under a draw stands in. -/
def DLine.word (l : DLine) (addr : Nat) : List Nat :=
  let ct := lineCt l.draw addr l.data
  lineWord ct (lineMacOf l.draw addr ct) l.poison

/-- R343: what a read answers for 40 symbols that the code found clean or corrected (`corr`), under the keys of a draw. -/
def foundOf (draw addr : Nat) (w : List Nat) (corr : Bool) : Found :=
  let d := linePt draw addr (wordCt w)
  if wordPsn w then { data := d, st := .poisoned, psn := true, corr := corr }
  else if lineMacOf draw addr (wordCt w) = wordMac w then { data := d, st := .okay, back := corr, corr := corr }
  else { data := d, st := .poisoned, macFail := true, corr := corr }

/-- R343: what a read answers for 40 symbols that the code cannot correct. -/
def foundBad (draw addr : Nat) (w : List Nat) : Found :=
  { data := linePt draw addr (wordCt w), st := .poisoned, codeBad := true }

/-- R343: what a read answers where the code left nothing of the error of a line written under the current keys: its plain text;
its MAC passes. -/
def foundWhole (l : DLine) (corr : Bool) : Found :=
  if l.poison then { data := l.data, st := .poisoned, psn := true, corr := corr }
  else { data := l.data, st := .okay, back := corr, corr := corr }

/-- R338, R358: the 40 symbols of a line that nothing has written: free. -/
def State.freeLineWord (s : State) : State × List Nat :=
  let a := s.fresh
  let b := a.2.fresh
  (b.2, ((List.range 32).map fun i => (Config.freeLine a.1).toNat / 2 ^ (16 * i) % 2 ^ 16)
    ++ (List.range 8).map fun i => (Config.freeLine b.1).toNat / 2 ^ (16 * i) % 2 ^ 16)

/-- R339, R343, R358: a read of a stored line at an address, with the errors `x` in its symbols: the code, then POISON, then the
MAC. Lines of earlier draws are deciphered and authenticated under the current keys. -/
def State.senseLine (s : State) (l : DLine) (addr : Nat) (x : Sense) : State × Found :=
  let cur := s.dram.draw
  if l.draw = 0 then
    let r := s.freeLineWord
    match rsFind (rsSyn r.2) with
    | none => (r.1, foundBad cur addr r.2)
    | some fix =>
      let e := (List.range 40).map fun k => (fix.filter (·.1 == k)).foldl (fun a y => a ^^^ y.2) 0
      (r.1, foundOf cur addr (xorWord r.2 e) (!fix.isEmpty))
  else match rsLeft (errorWord x) with
    | none => (s, foundBad cur addr (xorWord (l.word addr) (errorWord x)))
    | some (e, corr) =>
      if l.draw = cur ∧ e.all (· == 0) then (s, foundWhole l corr)
      else (s, foundOf cur addr (xorWord (l.word addr) e) corr)

/-- R343, R358: the further effects of a read of a logical line; an unfilled rank counts nothing, faults nothing and
raises nothing. -/
def State.readEffects (s : State) (n line : Nat) (f : Found) (vat : Option Nat) (psnCounts : Bool) : State :=
  let r := s.physRank n line
  if !s.mbit (DDR.CH_STAT.FILLED n) r then s
  else
    let a := s.addrOfLine n line
    if f.codeBad then (s.bump (DDR.UE_CNT n r)).rankFault n r a
    else if f.psn then (if psnCounts then s.bump (DDR.PSN_CNT n r) else s)
    else if f.macFail then (s.bump (DDR.MAC_CNT n r)).integrity n a vat
    else if f.back then s.corrected n r a
    else s

/-- R343: queue a write-back at the internal source, unless a write to the line waits in the store, which overtakes it. -/
def State.queueBack (s : State) (n line : Nat) (data : BitVec 512) : State :=
  let c := s.chan n
  let q : DReq := ⟨none, 16, true, line, 0, 63, 0, data, false, 0⟩
  if c.store.any fun p => p.wr && p.line == line then s
  else s.setChan n { c with inq := tput c.inq 16 (tget c.inq 16 [] ++ [q]) [] }

/-- R343: drop the write-backs a write to the same line overtakes. -/
def DramCh.dropBack (c : DramCh) (line : Nat) : DramCh :=
  { c with inq := tput c.inq 16 ((tget c.inq 16 []).filter fun q => q.line != line) []
           store := c.store.filter fun q => !(q.from?.isNone && q.line == line) }

/-- R343: carry out a read of a logical line: what it found, with every effect but the response. -/
def State.readLine (s : State) (n line : Nat) (x : Sense) (vat : Option Nat) : State × Found :=
  let l := (s.chan n).line (s.physRank n line) (line % 2 ^ 30)
  let r := s.senseLine l (s.addrOfLine n line) x
  let f := r.2
  let s := if f.codeBad then (r.1.storeLine n line f.data true).bump (DDR.WB_CNT n)
    else if f.back then r.1.queueBack n line f.data else r.1
  (s.readEffects n line f vat true, f)

/-! Admission (R347, R348). -/

/-- R347: a source's head request is admissible: its bank queue and the store have room. -/
def DramCh.admissible (c : DramCh) (q : DReq) : Bool :=
  decide ((c.store.filter fun p => bankOfLine p.line == bankOfLine q.line).length < 16)
    && decide (c.store.length < 256)
    && (q.qos == 3 || decide ((c.store.filter fun p => p.qos != 3).length < 240))

/-- R348: the quantum of a source. -/
def State.quantum (s : State) (n v : Nat) : Nat := if v = 16 then s.rd (DDR.CH_CTL.MIG_W n) else s.rd (VAT.DRAMW.WEIGHT v)

/-- Sources after one, in rotating order. -/
def after17 (last : Nat) : List Nat := (List.range 17).map fun k => (last + 1 + k) % 17

/-- R348 (2): deficit round robin over the sources that can be admitted: stay while the deficit lasts, else move on and
add the quantum. -/
def drr (can : Nat → Bool) (q : Nat → Nat) : Nat → Nat → Tab Int → Option (Nat × Tab Int)
  | 0, _, _ => none
  | k + 1, cur, d =>
    if can cur ∧ 1 ≤ tget d cur 0 then some (cur, d)
    else
      let nx := (cur + 1) % 17
      drr can q k nx (if can nx then tput d nx (tget d nx 0 + (q nx : Int)) 0 else d)

/-- R348: the source to admit from, with the deficits. -/
def State.admitPick (s : State) (n : Nat) : Option (Nat × Tab Int × Bool) :=
  let c := s.chan n
  let d := tfilter (fun v _ => !(tget c.inq v []).isEmpty) c.deficit
  let head := fun v => match tget c.inq v [] with
    | [] => none
    | q :: _ => if c.admissible q then some q else none
  match (after17 c.lastHi).find? fun v => match head v with
      | some q => q.qos == 3
      | none => false with
  | some v => some (v, tput d v (max (-255) (tget d v 0 - 1)) 0, true)
  | none =>
    let can := fun v => (head v).isSome && decide (s.quantum n v ≠ 0)
    if (List.range 17).any can then
      (drr can (s.quantum n) 4500 c.last d).map fun p => (p.1, tput p.2 p.1 (tget p.2 p.1 0 - 1) 0, false)
    else ((after17 c.last).find? fun v => (head v).isSome).map fun v => (v, d, false)

/-- R358, R363: the channel admits requests. -/
def State.chOpen (s : State) (n : Nat) : Bool :=
  (s.chState n == DS.ready || s.chState n == DS.filling) && !(s.chan n).entering && !s.bit CLK.ROOT_STAT.COAST

/-- R357: whether a fill that runs refuses a request: only a read of a line that the fill has written is served. How far the fill
has come in a rank it has not ended is free for each line; a line once found written holds encrypted zeros
(notes/assumptions/6.md). -/
def State.fillBars (s : State) (n : Nat) (q : DReq) : State × Bool :=
  let r := s.physRank n q.line
  let i := q.line % 2 ^ 30
  if s.chState n ≠ DS.filling then (s, false)
  else if q.wr then (s, true)
  else if s.mbit (DDR.CH_STAT.FILLED n) r ∨ (s.chan n).fillSeen.contains (r * 2 ^ 30 + i) then (s, false)
  else
    let x := s.fresh
    if Config.freeBit x.1 then
      let c := (x.2.chan n).setLine r i ⟨0, false, s.dram.draw⟩
      (x.2.setChan n { c with fillSeen := (r * 2 ^ 30 + i) :: c.fillSeen }, false)
    else (x.2, true)

/-- Answer a request flit, where there is one. -/
def State.answerDram (s : State) (n : Nat) (q : DReq) (st : Status) (data : BitVec 512) : State := match q.from? with
  | some m => s.respond (ID.ddr n) m st data
  | none => s

/-- R346: the whole-line write to the same line that waits in the store last. -/
def DramCh.waitingWrite (c : DramCh) (line : Nat) : Option DReq :=
  let l := c.store.filter fun p => p.line == line && p.wr
  match l.getLast? with
  | some p => if p.len = 63 then some p else none
  | none => none

/-- DRAM_ADMIT (R348): channel n admits one request, if it can. A whole-line write is answered now (R344); a read behind
a whole-line write to the same line is answered from the store (R346). -/
def execDramAdmit (n : Fin 8) (s : State) : Host.Outcome State Fault Refusal :=
  let n := n.val
  if !s.chOpen n then .next s
  else match s.admitPick n with
    | none => .next s
    | some (v, d, hi) =>
      let c := s.chan n
      match tget c.inq v [] with
      | [] => .next s
      | q :: rest =>
        let c := { c with inq := tput c.inq v rest [], deficit := d,
                          last := if hi then c.last else v, lastHi := if hi then v else c.lastHi }
        let s := (s.setChan n c).bump (DDR.LN_CNT n v)
        let b := s.fillBars n q
        let s := b.1
        let c := s.chan n
        let q := { q with since := s.mtime }
        if b.2 then .next (s.answerDram n q .slverr 0)
        else if q.wr then
          let c := if q.from?.isSome then c.dropBack q.line else c
          let s := s.setChan n { c with store := c.store ++ [q] }
          .next (if q.len = 63 then s.answerDram n q .okay 0 else s)
        else match c.waitingWrite q.line with
          | some p =>
            .next ((s.answerDram n q (if p.poison then .poisoned else .okay) p.data).bump (DDR.RD_CNT n))
          | none => .next (s.setChan n { c with store := c.store ++ [q] })

/-- R349: the subchannel a line lies in. -/
def subOf (q : DReq) : Nat := bankOfLine q.line / 128

/-- R346: the requests of a subchannel's store that can be issued, in admission order with their places: no earlier request is for
the same line. -/
def DramCh.ready (c : DramCh) (sub : Nat) : List (DReq × Nat) :=
  c.store.zipIdx.filter fun p => subOf p.1 == sub && !((c.store.take p.2).any fun q => q.line == p.1.line)

/-- R349: of a class of requests, the first of the bank queue that comes next in rotating order. -/
def DramCh.turn (c : DramCh) (sub : Nat) (l : List (DReq × Nat)) : Option (DReq × Nat) :=
  let last := tget c.lastBank sub 127
  (List.range 128).findSome? fun k => l.find? fun p => bankOfLine p.1.line % 128 == (last + 1 + k) % 128

/-- R349: the request a subchannel issues next, with its place: one that has waited 2 µs; writes that it has started on; reads that
hit an open row; other reads, unless it holds 64 writes; writes (notes/assumptions/27.md). -/
def State.issueNext (s : State) (n sub : Nat) : Option (DReq × Nat) :=
  let c := s.chan n
  let l := c.ready sub
  let rd := l.filter fun p => !p.1.wr
  let wr := l.filter fun p => p.1.wr
  let held := (c.store.filter fun q => subOf q == sub && q.wr).length
  let hit := rd.filter fun p => tget c.rows (bankOfLine p.1.line) 0 == s.rowOfLine p.1.line + 1
  match l.find? fun p => decide (p.1.since + 200 ≤ s.mtime) with
  | some p => some p
  | none =>
    if tget c.drain sub false || decide (64 ≤ held) || rd.isEmpty then (c.turn sub wr).or (c.turn sub rd)
    else (c.turn sub hit).or (c.turn sub rd)

/-- R349: take a request out of the store: its row is open, its bank was served last, and a subchannel that has started on writes
goes on with them until it holds 16 or fewer. -/
def State.takeReq (s : State) (n k : Nat) (q : DReq) : State :=
  let c := s.chan n
  let store := c.store.eraseIdx k
  let held := (store.filter fun p => subOf p == subOf q && p.wr).length
  let on := decide (16 < held) && (q.wr || tget c.drain (subOf q) false)
  s.setChan n { c with store := store, rows := tput c.rows (bankOfLine q.line) (s.rowOfLine q.line + 1) 0,
                       lastBank := tput c.lastBank (subOf q) (bankOfLine q.line % 128) 127,
                       drain := tput c.drain (subOf q) on false }

/-- DRAM_READ (R343, R349): a subchannel issues its next request, a read; `x`: the errors that its DRAM access meets. -/
def execDramRead (n : Fin 8) (sub : Fin 2) (x : Sense) (s : State) : Host.Outcome State Fault Refusal :=
  let n := n.val
  match s.issueNext n sub with
  | none => .next s
  | some (q, k) =>
    if q.wr || !s.chOpen n then .next s
    else
      let b := (s.takeReq n k q).fillBars n q
      if b.2 then .next (b.1.answerDram n q .slverr 0)
      else
        let r := b.1.readLine n q.line x (q.from?.map (·.vat))
        .next ((r.1.answerDram n q r.2.st r.2.data).bump (DDR.RD_CNT n))

/-- DRAM_WHOLE_WRITE (R344, R349): a subchannel issues its next request, a whole-line write; a write-back is one of the internal
source. -/
def execDramWholeWrite (n : Fin 8) (sub : Fin 2) (s : State) : Host.Outcome State Fault Refusal :=
  let n := n.val
  match s.issueNext n sub with
  | none => .next s
  | some (q, k) =>
    if !q.wr || decide (q.len ≠ 63) || !s.chOpen n then .next s
    else
      let s := (s.takeReq n k q).storeLine n q.line q.data q.poison
      .next (s.bump (if q.from?.isSome then DDR.WR_CNT n else DDR.WB_CNT n))

/-- R345: the bytes of a line replaced by those of a partial write. -/
def mergeLine (old new : BitVec 512) (off len : Nat) : BitVec 512 :=
  let m := lineBytes off len (BitVec.allOnes 512)
  (old &&& ~~~ m) ||| (new &&& m)

/-- DRAM_PARTIAL_WRITE (R345, R349): a subchannel issues its next request, a partial write, which reads, merges and writes its line
in one step. -/
def execDramPartialWrite (n : Fin 8) (sub : Fin 2) (x : Sense) (s : State) : Host.Outcome State Fault Refusal :=
  let n := n.val
  match s.issueNext n sub with
  | none => .next s
  | some (q, k) =>
    if !q.wr || q.len == 63 || !s.chOpen n then .next s
    else
      let b := (s.takeReq n k q).fillBars n q
      if b.2 then .next (b.1.answerDram n q .slverr 0)
      else
        let s := b.1
        let l := (s.chan n).line (s.physRank n q.line) (q.line % 2 ^ 30)
        let r := s.senseLine l (s.addrOfLine n q.line) x
        let f := r.2
        let s := r.1.readEffects n q.line f (q.from?.map (·.vat)) false
        let bad := decide (f.st ≠ .okay) || q.poison
        let s := s.storeLine n q.line (mergeLine f.data q.data q.off q.len) bad
        let s := (s.bump (DDR.PART_CNT n)).bump (DDR.WR_CNT n)
        .next (s.answerDram n q .okay 0)

/-! Refresh and upkeep (R349 to R353). -/

/-- R351: a request of the store waits for the subchannel (and rank, with REFab). -/
def State.waits (s : State) (n sub rank : Nat) (rdOnly : Bool) : Bool :=
  (s.chan n).store.any fun q => bankOfLine q.line / 128 == sub && (!rdOnly || !q.wr)
    && (s.bit (DDR.CH_CTL.REF_SB n) || q.line / 2 ^ 30 == rank)

/-- R351: PEND reads the largest postponed count over the ranks. -/
def State.showPend (s : State) (n : Nat) : State :=
  s.wr (DDR.REF.PEND n) ((s.chan n).pend.foldl (fun a p => max a p.2) 0)

/-- R349, R350: the rows a refresh closes: of a rank, or of bank k of every group and rank of the subchannel. -/
def State.refreshed (s : State) (n sub rank : Nat) : State :=
  let c := s.chan n
  if s.bit (DDR.CH_CTL.REF_SB n) then
    let b := tget c.sb sub 0
    s.setChan n { c with rows := tfilter (fun k _ => !(k / 128 == sub && k % 4 == b)) c.rows, sb := tput c.sb sub ((b + 1) % 4) 0 }
  else s.setChan n { c with rows := tfilter (fun k _ => k / 32 != sub * 4 + rank) c.rows }

/-- REFRESH_DUE (R351): an obligation of a subchannel (and rank) falls due: postponed while reads wait, forced once PEND
is at the limit, else carried out; with no request at all the owed ones are paid back too. -/
def execRefreshDue (n : Fin 8) (sub : Fin 2) (rank : Fin 4) (s : State) : Host.Outcome State Fault Refusal :=
  let n := n.val
  if !(s.chState n == DS.ready || s.chState n == DS.filling) || (s.chan n).entering then .next s
  else
    let r := if s.bit (DDR.CH_CTL.REF_SB n) then 0 else rank.val
    let key := sub.val * 4 + r
    let c := s.chan n
    let p := tget c.pend key 0
    if s.rd (DDR.REF.POSTPONE_MAX n) ≤ p then .next ((s.refreshed n sub.val r).bump (DDR.FORCED_CNT n))
    else if s.waits n sub.val r true then
      .next (((s.setChan n { c with pend := tput c.pend key (p + 1) 0 }).bump (DDR.POSTP_CNT n)).showPend n)
    else
      let c := if s.waits n sub.val r false then c else { c with pend := tput c.pend key 0 0 }
      .next (((s.setChan n c).refreshed n sub.val r).showPend n)

/-- TEMPERATURE_POLL (R350): MR4 of every rank is read; HOT follows, and DRAM_HOT is raised once when it sets. -/
def execTemperaturePoll (n : Fin 8) (hot : Fin 16) (s : State) : Host.Outcome State Fault Refusal :=
  let n := n.val
  let h := decide (hot.val ≠ 0)
  let was := s.bit (DDR.CH_STAT.HOT n)
  let s := (s.wrb (DDR.CH_STAT.HOT n) h).srcSet (704 + 8 * n + 5) h
  .next (if h && !was then s.raiseDev EV.dramHot n [hot.val] else s)

/-- NEIGHBOUR_REFRESH (R352): a sampled row that has closed gets its DRFM or RFMsb. -/
def execNeighbourRefresh (n : Fin 8) (bank : Fin 256) (row : Nat) (s : State) : Host.Outcome State Fault Refusal :=
  let n := n.val
  if s.rd (DDR.PNR.P n) = 0 ∨ tget (s.chan n).rows bank.val 0 = row + 1 ∨ s.chOpen n = false then .next s
  else .next (s.bump (DDR.PNR_CNT n))

/-- READ_TIMING_TRACKING (R353): a subchannel tracks its read timing. -/
def execReadTimingTracking (n : Fin 8) (sub : Fin 2) (s : State) : Host.Outcome State Fault Refusal :=
  if s.chOpen n.val then
    let c := s.chan n.val
    .next (s.setChan n.val { c with tracked := tput c.tracked sub.val s.mtime 0 })
  else .next s

/-- ROW_IDLE_CLOSE (R349): an open row without an access for 1 µs closes. -/
def execRowIdleClose (n : Fin 8) (bank : Fin 256) (s : State) : Host.Outcome State Fault Refusal :=
  let c := s.chan n.val
  .next (s.setChan n.val { c with rows := tput c.rows bank.val 0 0 })

/-! Registers (R370): each write answers the new state, or none where it is refused with SLVERR. -/

/-- R367, R370: every channel is in one of the states given. -/
def State.allChans (s : State) (l : List Nat) : Bool := (List.range 8).all fun n => l.contains (s.chState n)

/-- DDR.GEOM: refused outside UNINIT, FAIL and ABSENT and for the values R333 and R370 bar. -/
def State.geomWrite (s : State) (w : Word) : Option State :=
  let chans := wget w 31 30
  let dr := wget w 29 28
  if !s.allChans [DS.uninit, DS.fail, DS.absent] then none
  else if 1 < chans ∨ dr = 3 ∨ (wget w 27 27 = 1 ∧ dr = 2) ∨ (wget w 25 25 = 1 ∧ wget w 26 26 = 0) then none
  else
    let s := s.setReg DDR.GEOM.CHANS.off (w &&& 0xFF000000)
    let size := s.rankLines / 2 ^ 24
    let s := s.wr DDR.CAP.GIB ((if chans = 0 then 8 else 4) * 2 ^ dr * size)
    some ((List.range 8).foldl (fun s n =>
      let s := s.wr (DDR.SPARE.SPR n) (if wget w 27 27 = 1 then 2 ^ dr else 0)
      if n % 2 = 1 ∧ chans = 1 then s.setChState n DS.absent
      else if s.chState n = DS.absent then s.setChState n DS.uninit else s) s)

/-- The timing set of the DDRIO divider in effect (R356, R370). -/
def State.ddrDiv (s : State) : Nat := s.rd (CLK.DIV.DIV_ACT 4)

/-- R356: some timing register of the set in effect is 0. -/
def State.timingZero (s : State) (n : Nat) : Bool :=
  (List.range 19).any fun j => s.rd (DDR.TSET.T n (s.ddrDiv - 3) j) == 0

/-- R356: start the initialisation: the DRAM is reset, so what it held is lost. -/
def State.chInit (s : State) (n : Nat) : State :=
  let c := s.chan n
  let s := s.setChan n { c with lines := [], fillDraw := [], rows := [], recDiv := 0, leaving := false, filling := false }
  let s := (s.wr (DDR.CH_STAT.FILLED n) 0).wr (DDR.CH_STAT.TRAIN_FAIL n) 0
  s.setChState n (if s.timingZero n then DS.fail else DS.training)

/-- R363: start to enter self-refresh. -/
def State.srEnter (s : State) (n : Nat) : State :=
  if s.chState n = DS.ready ∨ s.chState n = DS.filling then s.setChan n { s.chan n with entering := true } else s

/-- R363, R364, R367: start to leave self-refresh, unless the root is in coast or SR holds; after a change of divider
through full training. -/
def State.srLeave (s : State) (n : Nat) : State :=
  if s.chState n = DS.selfRefresh ∧ s.bit (DDR.CH_CTL.SR n) = false ∧ s.bit CLK.ROOT_STAT.COAST = false then
    let c := s.chan n
    let s := s.setChan n { c with leaving := true }
    if c.recDiv = s.ddrDiv then s else s.setChState n DS.training
  else s

/-- DDR.CH_CTL (R356, R357, R359, R363). -/
def State.chCtlWrite (s : State) (n : Nat) (w : Word) : Option State :=
  let st := s.chState n
  let fill := wget w 30 30 == 1
  let mig := wget w 29 29 == 1
  if st = DS.absent ∨ wget w 15 8 = 0 then none
  else if fill ∧ (st ≠ DS.ready ∨ s.rd (DDR.SPARE.STATE n) = 2 ∨ (s.chan n).entering) then none
  else if mig ∧ (s.rd (DDR.SPARE.STATE n) ≠ 1 ∨ (s.chan n).filling) then none
  else
    let s := s.setReg (DDR.CH_CTL.SR n).off (w &&& 0x03FFFF01)
    let s := if wget w 31 31 = 1 ∧ (st = DS.uninit ∨ st = DS.fail) then s.chInit n else s
    let s := if fill then (s.setChan n { s.chan n with filling := true, fillSeen := [] }).setChState n DS.filling else s
    let s := if fill then s.wr (DDR.CH_STAT.FILLED n) 0 else s
    let s := if mig then s.migStart n (s.rd (DDR.SPARE.SRC n)) else s
    some (if wget w 25 25 = 1 then s.srEnter n else s.srLeave n)

/-- DDR.REF: POSTPONE_MAX 1 to 8, tREFI from 1,000 ns. -/
def State.ddrRefWrite (s : State) (n : Nat) (w : Word) : Option State :=
  if s.chState n = DS.absent ∨ wget w 31 28 = 0 ∨ 8 < wget w 31 28 ∨ wget w 15 0 < 1000 then none
  else some ((s.wr (DDR.REF.POSTPONE_MAX n) (wget w 31 28)).wr (DDR.REF.REFI_NS n) (wget w 15 0))

/-- DDR.SPARE (R362): SUBST is accepted only in UNINIT; with a spare fitted it puts the spare in SRC's place. -/
def State.spareWrite (s : State) (n : Nat) (w : Word) : Option State :=
  let subst := wget w 29 29
  if s.chState n = DS.absent ∨ (subst ≠ s.rd (DDR.SPARE.SUBST n) ∧ s.chState n ≠ DS.uninit) then none
  else
    let busy := s.rd (DDR.SPARE.STATE n) == 2 || (s.rd (DDR.SPARE.STATE n) == 3 && s.chState n != DS.uninit)
    let s := if busy then s else s.wr (DDR.SPARE.SRC n) (wget w 27 26)
    let s := s.wr (DDR.SPARE.SUBST n) subst
    some (if s.chState n = DS.uninit then s.wr (DDR.SPARE.STATE n) (if subst = 1 ∧ s.bit DDR.GEOM.SPARE then 3 else 0) else s)

/-- The other channel registers: plain fields, refused on an absent channel. -/
def State.chPlainWrite (s : State) (n off mask : Nat) (w : Word) : Option State :=
  if s.chState n = DS.absent then none
  else some (s.setReg off ((s.reg off &&& ~~~ BitVec.ofNat 32 mask) ||| (w &&& BitVec.ofNat 32 mask)))

/-- CH_STAT as it reads: STORE counts the requests in the store. -/
def State.chStat (s : State) (n : Nat) : Word := wset (s.reg (DDR.CH_STAT.STORE n).off) 8 0 (s.chan n).store.length

/-! Initialisation, fill, migration, patrol, self-refresh. -/

/-- CHANNEL_INIT_DONE (R356, R367): training ends: FAIL names the ranks that failed, READY makes the training record and
the spare ready. After a change of divider the same training ends the way out of self-refresh. -/
def execChannelInitDone (n : Fin 8) (failed : Fin 16) (drfm : Bool) (s : State) : Host.Outcome State Fault Refusal :=
  let n := n.val
  let mask := failed.val % 2 ^ s.fittedRanks
  if s.chState n ≠ DS.training then .next s
  else if mask ≠ 0 then
    let s := (s.setChState n DS.fail).wr (DDR.CH_STAT.TRAIN_FAIL n) mask
    let s := s.setChan n { s.chan n with leaving := false }
    .next ((s.raiseDev EV.dramTrainFail n [mask]).ddrPulse n 4)
  else
    let c := s.chan n
    let s := (s.setChan n { c with recDiv := s.ddrDiv, leaving := false, pend := [] }).wrb (DDR.PNR.DRFM n) drfm
    let s := s.showPend n
    let s := if s.bit DDR.GEOM.SPARE ∧ s.rd (DDR.SPARE.STATE n) = 0 then s.wr (DDR.SPARE.STATE n) 1 else s
    .next (s.setChState n (if c.filling then DS.filling else DS.ready))

/-- RANK_FILL_DONE (R357): the last line of a rank is written as encrypted zeros; the fill ends with the last rank. -/
def execRankFillDone (n : Fin 8) (r : Fin 4) (s : State) : Host.Outcome State Fault Refusal :=
  let n := n.val
  if s.chState n ≠ DS.filling ∨ s.fittedRanks ≤ r.val ∨ s.mbit (DDR.CH_STAT.FILLED n) r.val ∨ s.chOpen n = false then .next s
  else
    let c := s.chan n
    let c := { c with lines := tfilter (fun k _ => k / 2 ^ 30 != r.val) c.lines
                      fillDraw := tput c.fillDraw r.val s.dram.draw 0 }
    let s := (s.setChan n c).wrm (DDR.CH_STAT.FILLED n) r.val true
    if s.rd (DDR.CH_STAT.FILLED n) = 2 ^ s.fittedRanks - 1 then
      .next ((s.setChan n { s.chan n with filling := false }).setChState n DS.ready)
    else .next s

/-- R359: copy stored lines from a rank to another over a range of indices. -/
def DramCh.copyRange (c : DramCh) (src dst lo n : Nat) : DramCh :=
  (c.lines.filter fun p => p.1 / 2 ^ 30 == src && decide (lo ≤ p.1 % 2 ^ 30) && decide (p.1 % 2 ^ 30 < lo + n)).foldl
    (fun c p => c.setLine dst (p.1 % 2 ^ 30) p.2) c

/-- MIGRATION_COPY (R359, R360): count clean lines and one more with what its read senses are copied to the spare in
ascending order, and MIG_PTR advances. -/
def execMigrationCopy (n : Fin 8) (count : Nat) (x : Sense) (s : State) : Host.Outcome State Fault Refusal :=
  let n := n.val
  let p := s.rd (DDR.MIG_PTR.LINES n)
  if s.rd (DDR.SPARE.STATE n) ≠ 2 ∨ s.chOpen n = false ∨ s.rankLines < p + count + 1 then .next s
  else
    let src := s.rd (DDR.SPARE.SRC n)
    let dst := s.rd (DDR.SPARE.SPR n)
    let i := p + count
    let a := s.addrOfLine n (src * 2 ^ 30 + i)
    let r := s.senseLine ((s.chan n).line src i) a x
    let s := r.1.setChan n ((r.1.chan n).copyRange src dst p (count + 1))
    let s := if r.2.codeBad then s.setChan n ((s.chan n).setLine dst i ⟨r.2.data, true, s.dram.draw⟩) else s
    let s := s.wr (DDR.MIG_PTR.LINES n) (i + 1)
    if !s.mbit (DDR.CH_STAT.FILLED n) src then .next s
    else if r.2.codeBad then .next ((s.bump (DDR.UE_CNT n src)).rankFault n src a)
    else if r.2.corr then .next (s.corrected n src a)
    else .next s

/-- MIGRATION_DONE (R359): every line is copied: the spare takes the rank's place. -/
def execMigrationDone (n : Fin 8) (s : State) : Host.Outcome State Fault Refusal :=
  let n := n.val
  if s.rd (DDR.SPARE.STATE n) = 2 ∧ s.rd (DDR.MIG_PTR.LINES n) = s.rankLines then
    .next (((s.wr (DDR.SPARE.STATE n) 3).raiseDev EV.dramMigDone n [s.rd (DDR.SPARE.SRC n)]).ddrPulse n 2)
  else .next s

/-- PATROL_READ (R368, R369): the patrol reads a line of a filled rank and handles it as a read without a response; requests for
the line that the channel has admitted go first. -/
def execPatrolRead (n : Fin 8) (rank : Fin 4) (i : Fin (2 ^ 29)) (x : Sense) (s : State) :
    Host.Outcome State Fault Refusal :=
  let n := n.val
  let line := rank.val * 2 ^ 30 + i.val
  if s.rd (DDR.CH_CTL.PATROL n) = 0 ∨ s.chState n ≠ DS.ready ∨ s.chOpen n = false ∨ s.rankLines ≤ i.val
    ∨ s.mbit (DDR.CH_STAT.FILLED n) (s.physRank n line) = false ∨ (s.chan n).store.any (fun q => q.line == line) then .next s
  else .next (s.readLine n line x none).1

/-- R97: once every channel is in self-refresh the root starts to fall. -/
def State.coastFall (s : State) : State :=
  if s.bit CLK.ROOT_STAT.COAST && !s.clk.relocking && !s.clk.fell && (List.range 8).all (fun n => !(s.chan n).entering) then
    ({ s with clk := { s.clk with fell := true } } : State).wrb CLK.ROOT_STAT.SLEWING true
  else s

/-- SELF_REFRESH_REACHED (R363, R364): every rank is in self-refresh. Where nothing holds it the channel leaves again. -/
def execSelfRefreshReached (n : Fin 8) (s : State) : Host.Outcome State Fault Refusal :=
  let n := n.val
  let c := s.chan n
  if c.entering then
    .next ((((s.setChan n { c with entering := false, rows := [] }).setChState n DS.selfRefresh).srLeave n).coastFall)
  else .next s

/-- CHANNEL_READY (R363): the channel has left self-refresh, paid the owed obligations, and serves again. -/
def execChannelReady (n : Fin 8) (s : State) : Host.Outcome State Fault Refusal :=
  let n := n.val
  let c := s.chan n
  if c.leaving ∧ s.chState n = DS.selfRefresh then
    .next (((s.setChan n { c with leaving := false, pend := [] }).showPend n).setChState n
      (if c.filling then DS.filling else DS.ready))
  else .next s

/-! Coast, resets and keys (R342, R362, R364 to R366). -/

/-- R364, R97: every controller starts to enter self-refresh. -/
def State.dramCoast (s : State) : State := (List.range 8).foldl (fun s n =>
  let s := s.srEnter n
  s.setChan n { s.chan n with leaving := false }) s

/-- R364, R99: on relock the channels leave self-refresh unless SR = 1. -/
def State.dramRelock (s : State) : State := (List.range 8).foldl State.srLeave s

/-- R342, R362: a draw of keys: every rank is unfilled under it and spare state is gone; the channels are UNINIT. -/
def State.drawKeys (s : State) : State :=
  let s := (s.wr DDR.KEY.EPOCH ((s.rd DDR.KEY.EPOCH + 1) % 2 ^ 16)).wrb DDR.KEY.KEPT false
  let s : State := { s with dram := { s.dram with draw := s.dram.draw + 1 } }
  (List.range 8).foldl (fun s n =>
    let c := s.chan n
    s.setChan n { lines := c.lines, fillDraw := c.fillDraw }) s

/-- R366: a warm reset: requests in the stores are lost, and channels that ran restart in SELF_REFRESH. -/
def State.dramWarm (s : State) : State :=
  (List.range 8).foldl (fun s n =>
    let c := s.chan n
    let st := s.chState n
    let s := s.setChan n { c with inq := [], deficit := [], store := [], rows := [], entering := false, leaving := false }
    if st = DS.ready ∨ st = DS.filling ∨ st = DS.selfRefresh ∨ (st = DS.training ∧ c.leaving) then s.setChState n DS.selfRefresh
    else s) (s.wrb DDR.KEY.KEPT true)

end Sys2Proof.Machine
end

