-- ==== Sys2Proof/Machine/Frames.lean ====
section
/-! DEFINITION. Frames: the in-frame check (R199), frame addresses and numbers (R200 to R203), and the bits of a frame
the device interprets (R579). -/

namespace Sys2Proof.Machine

/-- R199: one step of the division by g(x): the next lower coefficient comes in. -/
def crc24Step (s : BitVec 24) (b : Bool) : BitVec 24 :=
  let t := (s <<< 1) ||| (if b then 1#24 else 0#24)
  if s.getLsbD 23 then t ^^^ 0x864CFB#24 else t

/-- The remainder after `n` more bits of a frame from bit `i` on. -/
def crc24Run (f : Frame) : Nat → Nat → BitVec 24 → BitVec 24
  | 0, _, s => s
  | n + 1, i, s => crc24Run f n (i + 1) (crc24Step s (f.getLsbD i))

/-- R199: the remainder of C(x) by g(x): 0 for a good frame. -/
def syndrome (f : Frame) : BitVec 24 := crc24Run f 2072 0 0

/-- R199: what the check of a frame finds: nothing, an error it corrects (1 one bit, 2 two adjacent bits) with its first
bit and the corrected frame, or an error it cannot correct. -/
inductive Chk where
  | clean
  | fixed (kind : Nat) (first : Nat) (f : Frame)
  | bad
deriving DecidableEq, Repr

/-- The error pattern of a syndrome: `k` runs over the powers of x, `p` is x^k mod g. Answers the kind and the first bit. -/
def findErr (s : BitVec 24) : Nat → Nat → BitVec 24 → Option (Nat × Nat)
  | 0, _, _ => none
  | n + 1, k, p =>
    if s = p then some (1, 2071 - k)
    else if k < 2071 ∧ s = (p ^^^ crc24Step p false) then some (2, 2070 - k)
    else findErr s n (k + 1) (crc24Step p false)

/-- R199: check a frame: any one bit and any two adjacent bits in error are corrected. -/
def chkFrame (f : Frame) : Chk :=
  if f = 0 then .clean
  else
    let s := syndrome f
    if s = 0 then .clean
    else match findErr s 2072 0 1 with
      | some (1, i) => .fixed 1 i (f ^^^ (1#2072 <<< i))
      | some (k, i) => .fixed k i (f ^^^ (3#2072 <<< i))
      | none => .bad

/-- Bits flipped in a frame. -/
def flipBits (f : Frame) (bits : List (Fin 2072)) : Frame := bits.foldl (fun f i => f ^^^ (1#2072 <<< i.val)) f

/-- R199: the check value of 2,048 configuration bits: bit n is frame bit 2,048 + n, the coefficient of x^(23 − n). -/
def checkOf (f : Frame) : BitVec 24 :=
  let r := (crc24Run f 2048 0 0)
  let r := (List.range 24).foldl (fun s _ => crc24Step s false) r
  r.reverse

/-- R199: a frame of 64 words and its check word. -/
def frameOfWords (ws : List Word) : Frame :=
  ws.zipIdx.foldl (fun (f : Frame) p => f ||| BitVec.ofNat 2072 (p.1.toNat * 2 ^ (32 * p.2))) 0#2072

/-- R579: word k of a frame; word 64 is the check. -/
def frameWord (f : Frame) (k : Nat) : Word := (f >>> (32 * k)).setWidth 32

/-- R200: the linear frame number of a frame address, where the address is good. -/
def farDecode (w : Word) : Option Nat :=
  if w.getLsbD 31 then
    if wget w 30 22 = 0 ∧ wget w 19 10 = 0 then some (65536 * wget w 21 20 + 64512 + wget w 9 0) else none
  else
    let s := wget w 27 20
    let f := wget w 10 0
    if wget w 30 28 = 0 ∧ wget w 19 11 = 0 ∧ s ≤ 223 ∧ f ≤ 1151 then
      some (65536 * (2 * (s / 16 / 7) + s % 16 / 8) + 1152 * (8 * (s / 16 % 7) + s % 16 % 8) + f)
    else none

/-- R203: the linear frame number of frame f of a sector. -/
def sectorFrame (s f : Nat) : Nat := 65536 * (2 * (s / 16 / 7) + s % 16 / 8) + 1152 * (8 * (s / 16 % 7) + s % 16 % 8) + f

/-- R5: the quadrant of a sector. -/
def sectorQuad (sec : Nat) : Nat := 2 * (sec / 16 / 7) + sec % 16 / 8

/-- R203: the linear frame number of shell frame f of a quadrant. -/
def shellFrame (q f : Nat) : Nat := 65536 * q + 64512 + f

/-- R203: the sector of a frame, none for a shell frame. -/
def frameSector (n : Nat) : Option Nat :=
  let q := n / 65536
  let k := n % 65536
  if 64512 ≤ k then none else some (16 * (7 * (q / 2) + k / 1152 / 8) + 8 * (q % 2) + k / 1152 % 8)

/-- R201: the FRAME number of a sector frame. -/
def frameIdx (n : Nat) : Nat := n % 65536 % 1152

/-- R42: the sector and tile number of a global tile 256 × sector + t, and its device coordinates. -/
def tileSector (g : Nat) : Nat := g / 256
def tileX (g : Nat) : Nat := 16 * (g / 256 % 16) + g % 16
def tileY (g : Nat) : Nat := 16 * (g / 256 / 16) + g % 256 / 16

/-- R42: the global tile at device coordinates, inside the array. -/
def tileAt (x y : Int) : Option Nat :=
  if 0 ≤ x ∧ x ≤ 255 ∧ 0 ≤ y ∧ y ≤ 223 then
    let x := x.toNat
    let y := y.toNat
    some (256 * (16 * (y / 16) + x / 16) + 16 * (y % 16) + x % 16)
  else none

/-- A live frame. -/
def State.liveFrame (s : State) (n : Nat) : Frame := tget s.cfg.live n 0

/-- Store a live frame. -/
def State.setLive (s : State) (n : Nat) (f : Frame) : State :=
  { s with cfg := { s.cfg with live := tput s.cfg.live n f 0 } }

/-- A plane's frame: plane A is false. -/
def State.planeFrame (s : State) (p : Bool) (n : Nat) : Frame := tget (if p then s.cfg.planeB else s.cfg.planeA) n 0

/-- Store a plane's frame. -/
def State.setPlane (s : State) (p : Bool) (n : Nat) (f : Frame) : State :=
  { s with cfg := if p then { s.cfg with planeB := tput s.cfg.planeB n f 0 } else { s.cfg with planeA := tput s.cfg.planeA n f 0 } }

/-- R579: the mode code of LE l of memory cluster 6 + m in a tile's third frame. -/
def memMode (f : Frame) (m l : Nat) : Nat := (f >>> (1952 + 3 * (16 * m + l))).toNat % 8

/-- R69, R579: any LE of the tile's memory clusters runs in RAM64, RAM32 or SRL mode. -/
def memDynamic (f : Frame) : Bool :=
  (List.range 32).any fun k => let c := memMode f (k / 16) (k % 16); decide (3 ≤ c ∧ c ≤ 5)

/-- R224: the DYN bit of a frame: the mode bits of the live latches make it dynamic (R69, R128, R579). -/
def State.frameDyn (s : State) (n : Nat) : Bool := match frameSector n with
  | none => false
  | some sec =>
    let f := frameIdx n
    if 768 ≤ f ∧ f < 1024 then memDynamic (s.liveFrame (sectorFrame sec (3 * (f - 768) + 2)))
    else if 1072 ≤ f ∧ f < 1120 then (s.liveFrame (sectorFrame sec 1151)).getLsbD (f - 1072)
    else false

/-- R579: byte `i` of a frame's bits. -/
def frameByte (f : Frame) (i : Nat) : Nat := (f >>> (8 * i)).toNat % 256

/-- R203, R579: the vat map byte of a sector in a set of frames. -/
def mapByte (fr : Nat → Frame) (sec : Nat) : Nat :=
  let q := 2 * (sec / 16 / 7) + sec % 16 / 8
  frameByte (fr (shellFrame q 768)) (8 * (sec / 16 % 7) + sec % 16 % 8)

/-- R579: the bytes of the vat map that are no vat number, by quadrant. -/
def mapBad (fr : Nat → Frame) : Bool :=
  (List.range 224).any fun sec => let b := mapByte fr sec; decide (16 ≤ b ∧ b ≠ 255)

/-- R579: word w of the shell register record. -/
def recordWord (fr : Nat → Frame) (w : Nat) : Word := frameWord (fr (shellFrame 0 (784 + w / 64))) (w % 64)

/-- The vat of a frame by a vat map: shell frames belong to vat 0 (R202); none is no vat. -/
def frameVatBy (map : Nat → Nat) (n : Nat) : Option Nat := match frameSector n with
  | none => some 0
  | some sec => let v := map sec; if v < 16 then some v else none

/-- The vat of a frame by the vat map in effect. -/
def State.frameVat (s : State) (n : Nat) : Option Nat := frameVatBy s.vatOfSector n

end Sys2Proof.Machine
end

