-- ==== Sys2Proof/Machine/Hio.lean ====
section
/-! DEFINITION. HIO banks and their pins (R567 to R570), and boundary scan (R576, R577). -/

namespace Sys2Proof.Machine

def State.hio (s : State) (b : Nat) : HioBank := tget s.pins.bank b {}
def State.setHio (s : State) (b : Nat) (x : HioBank) : State := { s with pins := { s.pins with bank := tput s.pins.bank b x {} } }

/-- R567: the window of a RANGE code, in mV. -/
def hioWin (code mv : Nat) : Bool :=
  (code == 1 && decide (1700 ≤ mv ∧ mv ≤ 1950)) || (code == 2 && decide (2300 ≤ mv ∧ mv ≤ 2700))
    || (code == 3 && decide (3000 ≤ mv ∧ mv ≤ 3600))

/-- R568: the supply of a bank is seen at a voltage. -/
def HioBank.sees (x : HioBank) (mv : Nat) : HioBank :=
  { x with mv := mv, ever := decide (1700 ≤ mv) && (x.ever || hioWin 1 mv || hioWin 2 mv || hioWin 3 mv) }

/-- R202: the shell frames of a quadrant that hold the Rind cells and what the shell gives its pins. -/
def State.rindFrames (s : State) (q : Nat) : List Frame := (List.range 512).map fun f => s.liveFrame (shellFrame q f)

/-- R567, R570: the vat of a pin, as the shell's frames of the quadrant give it (notes/assumptions/20.md). -/
def State.hioVat (s : State) (b k : Nat) : Nat :=
  (Config.hioVat (s.rindFrames (b / 3)) (b % 3) k).val

/-- R570: the vats with a pin in a bank. -/
def State.hioVats (s : State) (b : Nat) : List Nat := ((List.range 24).map (s.hioVat b)).dedup

/-- R569, R570: OUT_OFF is set; after LOAD each setting raises HIO_RANGE. -/
def State.hioOff (s : State) (b : Nat) (written : Bool) : State :=
  let x := s.hio b
  let s1 := s.setHio b { x with off := true, written := written }
  if x.off || !s.running then s1
  else s1.raiseAt (s.devOwner :: (s.hioVats b).map s.ownerOf) EV.hioRange 0xFF b [b, x.mv / 20]

/-- R567, R569: RANGE of a bank is written, by a command or by the shell at LOAD. -/
def State.hioRange (s : State) (b code : Nat) : State :=
  let s := s.wr (HIO.BANK_CTL.RANGE b) code
  let x := s.hio b
  if x.off || hioWin code x.mv then s.setHio b { x with written := true } else s.hioOff b true

/-- HIO.BANK_STAT. -/
def State.hioStat (s : State) (b : Nat) : Word :=
  let x := s.hio b
  BitVec.ofNat 32 (x.off.toNat * 2 ^ 31 + (hioWin (s.rd (HIO.BANK_CTL.RANGE b)) x.mv).toNat * 2 ^ 30
    + tget s.pins.strap b 0 * 2 ^ 28 + min 255 (x.mv / 20))

/-- HIO_SUPPLY_OUT_OF_WINDOW (R569): VCCIO of the bank stands outside the window of RANGE. -/
def execHioSupplyOutOfWindow (b : Fin 12) (mv : Fin 4096) (s : State) : Host.Outcome State Fault Refusal :=
  let s1 := s.setHio b ((s.hio b).sees mv)
  if hioWin (s.rd (HIO.BANK_CTL.RANGE b)) mv then .next s
  else if (s.hio b).off then .next (s1.setHio b { s1.hio b with off := true })
  else .next (s1.hioOff b false)

/-- HIO_OUTPUTS_RETURN (R569): VCCIO has stood inside the window of the RANGE in effect for 100 µs without a break. -/
def execHioOutputsReturn (b : Fin 12) (mv : Fin 4096) (s : State) : Host.Outcome State Fault Refusal :=
  if !hioWin (s.rd (HIO.BANK_CTL.RANGE b)) mv then .next s
  else
    let x := (s.hio b).sees mv
    .next (s.setHio b (if x.written then { x with off := false, written := false } else x))

/-- STRAP_CHANGE (R568): the strap of a bank: 0 open, 1 GND, 2 VCC_KEEP. -/
def execStrapChange (b : Fin 12) (p : Fin 3) (s : State) : Host.Outcome State Fault Refusal :=
  .next { s with pins := { s.pins with strap := tput s.pins.strap b p.val 0 } }

/-- R568: what an HIO pin does: nothing at all, the bank's strap pull, boundary scan, a level it holds or is clamped to, or
what its vat's logic drives, starting from the image's initial level. -/
inductive PinDrive where
  | highZ
  | pull (strap : Nat)
  | scan (v : Bool)
  | drive (v : Bool)
  | user (init : PinLevel)
deriving DecidableEq, Repr

/-- A level that is held; where none was driven the strap pulls. -/
def PinLevel.drive (strap : Nat) : PinLevel → PinDrive
  | .low => .drive false
  | .high => .drive true
  | .z => .pull strap

/-- The level a number stands for: 0, 1, none. -/
def pinLevel (n : Nat) : PinLevel := if n = 0 then .low else if n = 1 then .high else .z

/-- R259: what a clamped pin does, by the clamp code of its cell; hold keeps what it drove at the clamp. -/
def State.clampPin (s : State) (b k v : Nat) : PinDrive :=
  let strap := tget s.pins.strap b 0
  match (Config.hioClamp (s.rindFrames (b / 3)) (b % 3) k).val with
  | 0 => .drive false
  | 1 => .drive true
  | 2 => ((tget s.pins.clamp v []).getD (24 * b + k) .z).drive strap
  | _ => .pull strap

/-- R25, R568: the state of pin k of bank b: the first row of the table that matches. R25 names no pins for a LOAD that starts
from FALLBACK: they keep the strap pull they have there (notes/assumptions/82.md). -/
def State.hioPin (s : State) (b k : Nat) : PinDrive :=
  let x := s.hio b
  let m := s.mode
  let strap := tget s.pins.strap b 0
  if !x.ever || decide (x.mv < 1700) then (if 1700 < x.mv then .pull strap else .highZ)
  else if s.pins.tap.ir = 0 then .scan (tget s.pins.tap.cells (24 * b + k) false)
  else if m = M.off ∨ m = M.keep ∨ m = M.boot ∨ m = M.fallback ∨ s.pwr.held then .pull strap
  else if m = M.load ∧ (s.rd PWR.MODE_STAT.PREV_MODE = M.boot ∨ s.rd PWR.MODE_STAT.PREV_MODE = M.fallback) then .pull strap
  else if x.off then .pull strap
  else if m = M.load then (s.pins.held.getD (24 * b + k) .z).drive strap
  else if s.bit (VAT.VAT_STAT.CLAMPED (s.hioVat b k)) then s.clampPin b k (s.hioVat b k)
  else .user (pinLevel (Config.hioInit s.liveFrame b k).val)

/-- The level a pin drives; what the logic of a vat drives at the moment is free (notes/assumptions/2.md). -/
def PinDrive.level (i : Nat) : PinDrive → PinLevel
  | .drive v => if v then .high else .low
  | .scan v => if v then .high else .low
  | .user _ => pinLevel (Config.freeNat i % 3)
  | _ => .z

/-- R25, R259: what the 288 pins drive now. -/
def State.pinLevels (s : State) : List PinLevel :=
  (List.range 288).map fun i => (s.hioPin (i / 24) (i % 24)).level (s.freeCtr + i)

/-- R25: LOAD begins: every pin holds what it drives. -/
def State.holdPins (s : State) : State :=
  { s with pins := { s.pins with held := s.pinLevels }, freeCtr := s.freeCtr + 288 }

/-- R259: the Rind of a vat clamps: a hold clamp keeps what its pin drives. -/
def State.clampPins (s : State) (v : Nat) : State :=
  { s with pins := { s.pins with clamp := tput s.pins.clamp v s.pinLevels [] }, freeCtr := s.freeCtr + 288 }

/-- R250, R251: CFG_ERR_N is driven low, or released. -/
def State.setErrN (s : State) (b : Bool) : State := { s with pins := { s.pins with errN := b } }

/-! Boundary scan. -/

/-- R577: what a ball with a cell drives: under EXTEST the value of its cell, else what the device has it drive. Cell 24 b + k is
pin k of HIO bank b (the other numbers: notes/assumptions/82.md). -/
def State.ball (s : State) (cell : Nat) (own : PinLevel) : PinLevel :=
  if s.pins.tap.ir = 0 then (if tget s.pins.tap.cells cell false then .high else .low) else own

/-- R250, R251, R577: CFG_ERR_N is low, or high impedance. -/
def State.errBall (s : State) : PinLevel := s.ball 1945 (if s.pins.errN then .low else .z)

/-- R576: the port works while VCC_AUX is within tolerance. -/
def State.tapOn (s : State) : Bool := !(s.pwr.held && s.pwr.lost.testBit 1)

def State.setTap (s : State) (t : TapSt) : State := if s.tapOn then { s with pins := { s.pins with tap := t } } else s

/-- TAP_RESET (R576): IDCODE is the current instruction. -/
def execTapReset (s : State) : Host.Outcome State Fault Refusal := .next (s.setTap { s.pins.tap with ir := 1 })

/-- R577: cells take values. -/
def TapSt.load (t : TapSt) (l : List (Fin 1974 × Bool)) : TapSt :=
  { t with cells := l.foldl (fun c p => tput c p.1.val p.2 false) t.cells }

/-- EXTEST (R577): every ball with a cell takes the value of its cell. -/
def execExtest (load : List (Fin 1974 × Bool)) (s : State) : Host.Outcome State Fault Refusal :=
  .next (s.setTap { s.pins.tap.load load with ir := 0 })

/-- IDCODE (R576): the register of die revision 1. -/
def execIdcode (s : State) : Host.Outcome State Fault Refusal := .next (s.setTap { s.pins.tap with ir := 1, dr := 0x184209AF })

/-- SAMPLE_PRELOAD (R576): the cells are loaded; what the balls carried is shifted out (free, notes/assumptions/2.md). -/
def execSamplePreload (load : List (Fin 1974 × Bool)) (s : State) : Host.Outcome State Fault Refusal :=
  let (k, s) := s.fresh
  .next (s.setTap { s.pins.tap.load load with ir := 2, dr := Config.freeNat k })

/-- BYPASS (R576): the one-bit bypass register; every code without an instruction acts as this one. -/
def execBypass (s : State) : Host.Outcome State Fault Refusal := .next (s.setTap { s.pins.tap with ir := 0xFF, dr := 0 })

end Sys2Proof.Machine
end

