-- ==== Sys2Proof/Machine/Span.lean ====
section
/-! DEFINITION. The span ports and the span gateway (R322 to R331). -/

namespace Sys2Proof.Machine

/-- R322: the long lanes of a span port. -/
def State.spanLanes (s : State) (k : Nat) : List Nat :=
  (List.range (2 ^ s.rd (SPAN.PORT_CTL.WIDTH k))).map fun j => 32 + 8 * k + j

/-- R322: the lane that carries word w of a frame of a span port. -/
def State.spanLaneOf (s : State) (k w : Nat) : Nat := 32 + 8 * k + w % 2 ^ s.rd (SPAN.PORT_CTL.WIDTH k)

/-- R322: what the last frame that a span port sent put on a lane: its words whose lane that is, in order. -/
def State.spanLaneTx (s : State) (k n : Nat) : List Word :=
  ((s.port k).lastTx.zipIdx.filter fun p => s.spanLaneOf k p.2 == n).map (·.1)

/-- R297, R298: header bits of a flit, word 1 above word 0. -/
def flitHeader (f : Flit) : Nat :=
  f.row * 2 ^ 60 + f.col * 2 ^ 56 + f.dev * 2 ^ 44 + f.ini * 2 ^ 34 + f.vc * 2 ^ 32 + f.tag * 2 ^ 22 + f.op * 2 ^ 18
    + f.qos * 2 ^ 16 + f.poison.toNat * 2 ^ 15 + f.status * 2 ^ 12 + f.len * 2 ^ 6 + f.port * 2 ^ 4

/-- R298, R300: the flit that a header, a payload and a request word spell. -/
def flitOf (h : Nat) (payload : BitVec 512) (rw : Nat) : Flit := {
  row := h / 2 ^ 60 % 16, col := h / 2 ^ 56 % 16, dev := h / 2 ^ 44 % 4096, ini := h / 2 ^ 34 % 1024,
  vc := h / 2 ^ 32 % 4, tag := h / 2 ^ 22 % 1024, op := h / 2 ^ 18 % 16, qos := h / 2 ^ 16 % 4,
  poison := h / 2 ^ 15 % 2 == 1, status := h / 2 ^ 12 % 8, len := h / 2 ^ 6 % 64, port := h / 2 ^ 4 % 4,
  payload := payload, addr := rw % 2 ^ 42, srcDev := rw / 2 ^ 42 % 4096 }

/-- n words of a number, the lowest first. -/
def natWords : Nat → Nat → List Word
  | 0, _ => []
  | n + 1, v => BitVec.ofNat 32 v :: natWords n (v / 2 ^ 32)

/-- The number that words spell, the lowest first. -/
def wordsNat : List Word → Nat
  | [] => 0
  | w :: t => w.toNat + 2 ^ 32 * wordsNat t

/-- R323: a frame: its words with the CRC-32C over all of them at the end. -/
def withCrc (ws : List Word) : List Word := ws ++ [crc32c (wordBytes ws)]

/-- R323: words 0 and 1 of a frame. -/
def frameHead (typ seq ack hops : Nat) (cr : List Nat) : List Word :=
  [BitVec.ofNat 32 (typ * 2 ^ 28 + seq * 2 ^ 16 + ack * 2 ^ 4 + hops),
   BitVec.ofNat 32 (cr.getD 3 0 % 256 * 2 ^ 24 + cr.getD 2 0 % 256 * 2 ^ 16 + cr.getD 1 0 % 256 * 2 ^ 8
     + cr.getD 0 0 % 256)]

/-- R323: a FLIT or FLITR frame as it is sent now: ACK and credits are those of the moment. -/
def SpanPort.flitFrame (p : SpanPort) (seq hops : Nat) (f : Flit) : List Word :=
  let isReq := decide (f.op < 8)
  let body := frameHead (if isReq then 4 else 3) seq p.expSeq hops p.freed ++ natWords 2 (flitHeader f)
    ++ natWords 16 f.payload.toNat ++ (if isReq then natWords 2 (f.srcDev * 2 ^ 42 + f.addr) else [])
  withCrc body

/-- R327: send a CTRL frame; it acknowledges every accepted frame. -/
def SpanPort.sendCtrl (p : SpanPort) : SpanPort :=
  { p with lastTx := withCrc (frameHead 2 0 p.expSeq 0 p.freed), accepted := 0 }

/-- R325: send an INIT frame with the device's own number. -/
def SpanPort.sendInit (p : SpanPort) (own : Nat) : SpanPort :=
  { p with lastTx := withCrc (frameHead 1 0 p.expSeq 0 p.freed ++ [BitVec.ofNat 32 own]) }

/-- R324: the receiver has a credit for the VC: 64 flits less those sent and not yet freed, modulo 256. -/
def SpanPort.hasCredit (p : SpanPort) (vc : Nat) : Bool :=
  decide ((p.sentPerVc.getD vc 0 + 256 - p.credits.getD vc 0 % 256) % 256 < 64)

/-- R324, R326: send the queued flits that have a credit, while fewer than 2,047 frames are unacknowledged. -/
def State.spanPump : Nat → Nat → State → State
  | 0, _, s => s
  | n + 1, k, s =>
    let p := s.port k
    if 2047 ≤ p.replay.length then s
    else match p.queue.find? fun q => p.hasCredit q.1.vc with
      | none => s
      | some q =>
        let p' : SpanPort := { p with
          queue := p.queue.erase q, replay := p.replay ++ [(p.sendSeq, q.1, q.2)], sendSeq := (p.sendSeq + 1) % 4096,
          sentPerVc := p.sentPerVc.modify q.1.vc (fun c => (c + 1) % 256), accepted := 0,
          lastTx := p.flitFrame p.sendSeq q.2 q.1 }
        State.spanPump n k ((s.setPort k p').bump (SPAN.TX_CNT k))

/-- Send what the port can send. -/
def State.spanSend (s : State) (k : Nat) : State := s.spanPump (s.port k).queue.length k

/-- R325, R329: a port with nothing of a link left but the flits still in its input buffer. -/
def SpanPort.cleared (p : SpanPort) : SpanPort :=
  { stale := (List.range 4).map fun v => p.stale.getD v 0 + (p.recvPerVc.getD v 0 + 256 - p.freed.getD v 0 % 256) % 256 }

/-- R329: a port that is up goes down: the replay buffer and the queued flits are discarded and counted. -/
def State.spanDown (s : State) (k : Nat) : State :=
  if s.bit (SPAN.PORT_STAT.UP k) then
    let p := s.port k
    let s := s.setPort k p.cleared
    let s := (s.wrb (SPAN.PORT_STAT.UP k) false).bump (SPAN.DISC_CNT k) (p.replay.length + p.queue.length)
    ((s.bump (SPAN.DOWN_CNT k)).raiseDev EV.spanDown k).srcPulse (768 + k)
  else s

/-- R323, R327: a frame's CRC is good and its TYPE is the one given. -/
def frameGood (typ n : Nat) (ws : List Word) : Bool :=
  decide (ws.length = n) && (withCrc ws.dropLast == ws) && (wget (ws.getD 0 0) 31 28 == typ)

/-- R327: the ACK and the credits of a good frame are used. ACK advancing restarts the replay timer. -/
def State.spanAck (s : State) (k : Nat) (ws : List Word) : State :=
  let p := s.port k
  let ack := wget (ws.getD 0 0) 15 4
  let c := ws.getD 1 0
  let keep := p.replay.filter fun e => !(decide (0 < (ack + 4096 - e.1) % 4096) && decide ((ack + 4096 - e.1) % 4096 ≤ 2047))
  let p' := { p with replay := keep, credits := [wget c 7 0, wget c 15 8, wget c 23 16, wget c 31 24],
                     expiries := if keep.length < p.replay.length then 0 else p.expiries }
  (s.setPort k p').spanSend k

/-- R322, R325, R380: the lanes of an enabled port belong to vat 0 and are locked. -/
def State.spanLocked (s : State) (k : Nat) : Bool :=
  s.bit (SPAN.PORT_CTL.EN k)
    && (s.spanLanes k).all fun n => s.vatOfLane n == some 0 && s.rd (LANE.STAT.RX_STATE n) == 5

/-- SPAN_INIT_FRAME (R325): a frame of TYPE INIT arrives. A bad one is dropped and counted; 16 good ones in a row bring
the port up, which has sent one of its own for each (notes/assumptions/11.md), unless the peer has DEVNUM. -/
def execSpanInitFrame (k : Fin 4) (ws : List Word) (s : State) : Host.Outcome State Fault Refusal :=
  let k := k.val
  if !s.spanLocked k then .next s
  else if !frameGood 1 4 ws then .next ((s.setPort k { s.port k with initRx := 0 }).bump (SPAN.CRC_CNT k))
  else if s.bit (SPAN.PORT_STAT.UP k) then .next (s.spanAck k ws)
  else
    let n := min 16 ((s.port k).initRx + 1)
    let peer := wget (ws.getD 2 0) 11 0
    let own := s.rd SPAN.DEVNUM.NUM
    let s := s.setPort k (SpanPort.sendInit { s.port k with initRx := n } own)
    if n < 16 ∨ peer = own then .next s
    else
      let s := s.setPort k (s.port k).cleared
      .next ((((s.wr (SPAN.PORT_STAT.PEER k) peer).wrb (SPAN.PORT_STAT.UP k) true).raiseDev EV.spanUp k [peer]).srcPulse (768 + k))

/-- SPAN_CTRL_FRAME (R327): a frame of TYPE CTRL arrives. -/
def execSpanCtrlFrame (k : Fin 4) (ws : List Word) (s : State) : Host.Outcome State Fault Refusal :=
  let k := k.val
  if !s.spanLocked k then .next s
  else if !frameGood 2 3 ws then .next (s.bump (SPAN.CRC_CNT k))
  else if s.bit (SPAN.PORT_STAT.UP k) then .next (s.spanAck k ws)
  else .next s

/-- R324: the input buffer of a port has room for a flit of a VC: it holds fewer than 64. -/
def SpanPort.hasRoom (p : SpanPort) (vc : Nat) : Bool :=
  decide ((p.recvPerVc.getD vc 0 + 256 - p.freed.getD vc 0 % 256) % 256 < 64)

/-- R324, R327: accept a frame in order into the input buffer of its VC: the expected SEQ advances, and every 64th accepted frame
sends a CTRL frame. -/
def State.spanAccept (s : State) (k vc : Nat) : State :=
  let p := s.port k
  let p := { p with recvPerVc := p.recvPerVc.modify vc (fun c => (c + 1) % 256),
                    expSeq := (p.expSeq + 1) % 4096, accepted := p.accepted + 1 }
  ((s.setPort k (if 64 ≤ p.accepted then p.sendCtrl else p)).bump (SPAN.RX_CNT k))

/-- R331, R302, R324: a flit for this device enters the mesh at the gateway, and leaves the input buffer of its port by that. -/
def State.spanInject (s : State) (k vat stamp : Nat) (f : Flit) : State :=
  s.enterMesh ⟨f, 15, 10, 4 + k, vat, stamp, 0⟩ (some k)

/-- R331: the port answers a remote request itself. -/
def State.spanAnswer (s : State) (k : Nat) (f : Flit) (st : Status) : State :=
  let s := s.spanFree k f.vc
  s.respond (1000 + k) ⟨f, 15, 10, 4 + k, 0, 0, 0⟩ st 0

/-- R331: a request from another device: it is refused without REMOTE_EN, takes its destination from the central map
and the rights of PORT_CTL.VAT, and the regulator bound to initiator ID 1,000 + k limits it. -/
def State.remoteRq (s : State) (k : Nat) (f : Flit) : State :=
  let v := s.rd (SPAN.PORT_CTL.VAT k)
  if !s.bit (SPAN.PORT_CTL.REMOTE_EN k) then s.spanAnswer k f .slverr
  else if 64 ≤ f.addr % 64 + f.len then s.spanAnswer k f .slverr
  else if s.decerrLocal f.addr then s.spanAnswer k f .decerr
  else
    let d := s.mapDecide v f.addr (s.mapLookup f.addr)
    if d.1 ≠ .okay then s.spanAnswer k f d.1
    else s.offer (1000 + k) ⟨{ f with row := d.2.1, col := d.2.2.1, port := d.2.2.2 }, v, true⟩

/-- R330: a flit waits at the gateway. -/
def State.toGate (s : State) (x : Moving × Option (Nat × Nat)) : State := { s with noc := { s.noc with gate := s.noc.gate ++ [x] } }

/-- R327, R330: a FLIT or FLITR frame arrives at a port: dropped, discarded as duplicate or out of sequence, or
accepted; one that its sender had no credit for finds no room and is lost (R324, notes/assumptions/83.md). The flit goes to
this device's mesh or waits at the gateway with its HOPS. -/
def State.spanFlit (s : State) (k typ n : Nat) (ws : List Word) (stamp : Nat) : State :=
  if !s.spanLocked k then s
  else if !frameGood typ n ws then s.bump (SPAN.CRC_CNT k)
  else if !s.bit (SPAN.PORT_STAT.UP k) then s
  else
    let s := s.spanAck k ws
    let d := (wget (ws.getD 0 0) 27 16 + 4096 - (s.port k).expSeq) % 4096
    if d = 0 then
      let f := flitOf (wordsNat ((ws.drop 2).take 2)) (BitVec.ofNat 512 (wordsNat ((ws.drop 4).take 16)))
        (if typ = 4 then wordsNat ((ws.drop 20).take 2) else 0)
      if !(s.port k).hasRoom f.vc then s
      else
      let s := s.spanAccept k f.vc
      if f.dev = s.rd SPAN.DEVNUM.NUM then
        if typ = 4 then s.remoteRq k f else s.spanInject k 0 stamp f
      else
        s.toGate (⟨f, 15, 10, 4 + k, 0, stamp, 0⟩, some (k, wget (ws.getD 0 0) 3 0))
    else if 2049 ≤ d then (s.setPort k (s.port k).sendCtrl).bump (SPAN.DUP_CNT k)
    else s.bump (SPAN.OOS_CNT k)

/-- SPAN_FLIT_FRAME (R327): a frame of TYPE FLIT, a response; `stamp` is the sequence stamp of the request it answers. -/
def execSpanFlitFrame (k : Fin 4) (ws : List Word) (stamp : Nat) (s : State) : Host.Outcome State Fault Refusal :=
  .next (s.spanFlit k.val 3 21 ws stamp)

/-- SPAN_FLITR_FRAME (R327, R331): a frame of TYPE FLITR, a request. -/
def execSpanFlitrFrame (k : Fin 4) (ws : List Word) (s : State) : Host.Outcome State Fault Refusal :=
  .next (s.spanFlit k.val 4 23 ws 0)

/-- SPAN_ACK_TIMER (R327): 100 ns after a frame was accepted and not acknowledged, a CTRL frame goes. -/
def execSpanAckTimer (k : Fin 4) (s : State) : Host.Outcome State Fault Refusal :=
  if s.bit (SPAN.PORT_STAT.UP k.val) ∧ 0 < (s.port k.val).accepted then .next (s.setPort k.val (s.port k.val).sendCtrl)
  else .next s

/-- SPAN_REPLAY_EXPIRY (R328): every unacknowledged frame is sent again, the oldest first; the eighth expiry in a row
takes the port down. -/
def execSpanReplayExpiry (k : Fin 4) (s : State) : Host.Outcome State Fault Refusal :=
  let k := k.val
  let p := s.port k
  if !s.bit (SPAN.PORT_STAT.UP k) || p.replay.isEmpty then .next s
  else
    let p' := { p with expiries := p.expiries + 1, accepted := 0,
                       lastTx := match p.replay.getLast? with
                         | some e => p.flitFrame e.1 e.2.2 e.2.1
                         | none => p.lastTx }
    let s := (s.setPort k p').bump (SPAN.REPLAY_CNT k)
    if 8 ≤ p.expiries + 1 then .next (s.spanDown k) else .next s

/-- R330: queue a flit for a port that is up, or discard and count it. -/
def State.spanQueue (s : State) (k : Nat) (f : Flit) (hops : Nat) : State :=
  if s.bit (SPAN.PORT_STAT.UP k) then
    let p := s.port k
    (s.setPort k { p with queue := p.queue ++ [(f, hops)] }).spanSend k
  else s.bump (SPAN.DISC_CNT k)

/-- SPAN_GATEWAY_FLIT (R330): the gateway handles the first flit for another device that waits there. -/
def execSpanGatewayFlit (s : State) : Host.Outcome State Fault Refusal :=
  match s.noc.gate with
  | [] => .next s
  | (m, from?) :: rest =>
    let s : State := { s with noc := { s.noc with gate := rest } }
    let d := m.f.dev
    let s := match from? with
      | some p => s.spanFree p.1 m.f.vc
      | none => s
    if !s.bit (SPAN.RT.VALID d) then
      if m.f.op < 8 then .next (s.respond 1000 m .decerr 0) else .next (s.bump (SPAN.DISC_CNT 0))
    else
      let k := s.rd (SPAN.RT.PORT d)
      match from? with
      | none => .next (s.spanQueue k m.f 15)
      | some (p, hops) =>
        if hops = 0 then .next ((s.bump (SPAN.HOP_CNT p)).raiseDev EV.spanHopDrop p [d])
        else .next (s.spanQueue k m.f (hops - 1))

/-- R325, R329: PORT_CTL.EN rises: the port starts in INIT; it falls: the port goes down. -/
def State.spanEnable (s : State) (k : Nat) (on : Bool) : State :=
  if on then s.setPort k ((s.port k).cleared.sendInit (s.rd SPAN.DEVNUM.NUM))
  else
    let s := s.spanDown k
    s.setPort k (s.port k).cleared

/-- PORT_STAT as it reads: TRAINING while EN is 1 and the port is not up, UNACKED from the replay buffer. -/
def State.spanStat (s : State) (k : Nat) : Word :=
  let w := s.reg (0x1101004 + 0x100 * k)
  let w := wset w 30 30 (s.bit (SPAN.PORT_CTL.EN k) && !s.bit (SPAN.PORT_STAT.UP k)).toNat
  wset w 10 0 (s.port k).replay.length

end Sys2Proof.Machine
end

