-- ==== Sys2Proof/Machine/Time.lean ====
section
/-! DEFINITION. The timing island: TCLK, the time bases, compares, pulse units, captures and time-stamp queues (R416 to
R444). -/

namespace Sys2Proof.Machine

/-- R420: units of 2^-38 ns in a second, and in 2^48 seconds. -/
def nsUnit : Nat := 2 ^ 38
def secUnit : Nat := 1000000000 * nsUnit
def timeMod : Nat := 2 ^ 48 * secUnit

/-- R419: the 86-bit value of a time: seconds, nanoseconds, fraction. -/
def packTime (sec ns frac : Nat) : Nat := sec % 2 ^ 48 * 2 ^ 38 + ns % 2 ^ 32 * 64 + frac % 64

/-- R419: the 86-bit value of a base. -/
def timeKey (v : Nat) : Nat := packTime (v / secUnit) (v / nsUnit % 1000000000) (v / 2 ^ 32)

def State.tb (s : State) (b : Nat) : TbSt := tget s.time.tb b {}
def State.setTb (s : State) (b : Nat) (x : TbSt) : State :=
  { s with time := { s.time with tb := tput s.time.tb b x {} } }

/-- R419: the 86-bit value a base shows. -/
def State.tbNow (s : State) (b : Nat) : Nat := timeKey (s.tb b).v

/-- R421: the state a base is in. -/
def State.tbState (s : State) (b : Nat) : Nat :=
  let x := s.tb b
  if !x.started then 0 else if x.hold then 3 else if s.bit (TIME.TB_CTL.SERVO_LOCK b) then 2 else 1

/-- R421, R422: TB_STAT shows the state and BUSY. -/
def State.tbSync (s : State) (b : Nat) : State :=
  (s.wr (TIME.TB_STAT.STATE b) (s.tbState b)).wrb (TIME.TB_STAT.BUSY b) ((s.tb b).cmd != 0)

/-- R443: the owner of vat 0 and the owners of the vats bound to a base. -/
def State.baseHosts (s : State) (b : Nat) : List Nat :=
  s.devOwner :: ((List.range 16).filter fun v => s.defined v && s.rd (VAT.TBIND.TB v) == b).map fun v => s.ownerOf v

/-! The time clock. -/

/-- R417: the ready flag of a source of TCLK: TREF, or REF. -/
def tclkFlag (ref : Bool) : Fld := if ref then TIME.TCLK_STAT.REF_OK else TIME.TCLK_STAT.TREF_OK

/-- The ready flag of the source TCLK_CTL.SRC selects. -/
def State.tclkReady (s : State) : Bool := s.bit (tclkFlag (s.bit TIME.TCLK_CTL.SRC))

/-- The timing island is powered: everywhere but in OFF and while the power-on reset is held. -/
def State.timeOn (s : State) : Bool := s.mode != M.off && !s.pwr.held

/-- TREF_QUALIFIED (R417): a source was good for 100 µs. -/
def execTrefQualified (ref : Bool) (s : State) : Host.Outcome State Fault Refusal :=
  if s.timeOn then .next (s.wrb (tclkFlag ref) true) else .next s

/-- TREF_LOSS (R417, R418): a ready flag clears; where it is the selected source's, TCLK holds, whether it had locked or not. -/
def execTrefLoss (ref : Bool) (s : State) : Host.Outcome State Fault Refusal :=
  if !s.bit (tclkFlag ref) then .next s
  else
    let s := s.wrb (tclkFlag ref) false
    let s := if ref then s else s.bump TIME.TREFLOSS_CNT
    if s.bit TIME.TCLK_CTL.SRC = ref ∧ s.bit TIME.TCLK_STAT.HOLD = false then
      let s := (s.wrb TIME.TCLK_STAT.LOCK false).wrb TIME.TCLK_STAT.HOLD true
      .next (s.raiseAt (s.devOwner :: s.allOwners) EV.timeRefLoss 0xFF 0 [])
    else .next s

/-- TCLK_LOCK (R416): TCLK locks to the ready source it has selected. -/
def execTclkLock (s : State) : Host.Outcome State Fault Refusal :=
  if s.bit TIME.TCLK_STAT.LOCK ∨ s.bit TIME.TCLK_STAT.HOLD ∨ s.tclkReady = false ∨ s.timeOn = false then .next s
  else
    let s : State := { s with time := { s.time with ever := true } }
    .next ((s.wrb TIME.TCLK_STAT.LOCK true).wr TIME.TCLK_STAT.SRC_ACT (s.rd TIME.TCLK_CTL.SRC))

/-- TCLK_RELOCK (R418): the flag has been set again for 1 ms. -/
def execTclkRelock (s : State) : Host.Outcome State Fault Refusal :=
  if s.bit TIME.TCLK_STAT.HOLD ∧ s.tclkReady then
    let s : State := { s with time := { s.time with ever := true } }
    let s := (s.wrb TIME.TCLK_STAT.HOLD false).wrb TIME.TCLK_STAT.LOCK true
    .next (s.wr TIME.TCLK_STAT.SRC_ACT (s.rd TIME.TCLK_CTL.SRC))
  else .next s

/-- TIME.TCLK_CTL (R418): a change of source needs its ready flag; TREF_25 stands while TCLK is locked to TREF. -/
def State.tclkWrite (s : State) (w : Word) : State × Bool :=
  let src := wget w 0 0
  let t25 := wget w 1 1
  let locked := s.bit TIME.TCLK_STAT.LOCK
  if src ≠ s.rd TIME.TCLK_CTL.SRC ∧ !s.bit (tclkFlag (src == 1)) then (s, false)
  else if t25 ≠ s.rd TIME.TCLK_CTL.TREF_25 ∧ s.rd TIME.TCLK_CTL.SRC = 0 ∧ locked then (s, false)
  else
    let s := (s.wr TIME.TCLK_CTL.SRC src).wr TIME.TCLK_CTL.TREF_25 t25
    (if locked then s.wr TIME.TCLK_STAT.SRC_ACT src else s, true)

/-! Time bases. -/

/-- R421: entry of a base into HOLDOVER. -/
def State.holdover (s : State) (b : Nat) : State :=
  let x := s.tb b
  if !x.started || x.hold then s
  else
    let s := (s.setTb b { x with hold := true }).tbSync b
    ((s.bump (TIME.HOLD_CNT b)).raiseAt (s.baseHosts b) EV.tbHoldover 0xFF b []).srcPulse (832 + b)

/-- BASE_WATCHDOG_EXPIRY (R421): WDOG ms went by without a write of RATE_HI. -/
def execBaseWatchdogExpiry (b : Fin 8) (s : State) : Host.Outcome State Fault Refusal :=
  if s.rd (TIME.TB_CTL.WDOG b.val) = 0 then .next s else .next (s.holdover b.val)

/-- R420: the rate words accepted. -/
def rateWordOk (r : Nat) : Bool := decide (0x80000000 ≤ r) && decide (r ≤ 0x200000000)

/-- TIME.RATE_HI (R420, R421): the whole word takes effect at the next tick and ends holdover. -/
def State.rateWrite (s : State) (b : Nat) (w : Word) : State × Bool :=
  let r := w.toNat * 2 ^ 32 + s.rd (TIME.RATE_LO.RATE b)
  if !rateWordOk r then (s, false)
  else
    let s := s.wr (TIME.RATE_HI.RATE b) w.toNat
    ((s.setTb b { s.tb b with rate := r, hold := false }).tbSync b, true)

/-- TIME.TB_CTL (R421, R422): SERVO_LOCK and WDOG, and a command, which waits for the next tick. WDOG above 1,000 is no
value of the field. -/
def State.tbCtlWrite (s : State) (b : Nat) (w : Word) : State × Bool :=
  let c := wget w 1 0
  let x := s.tb b
  let bad := (c == 1 && (!s.time.ever || decide (999999999 < s.rd (TIME.ARG_NS.NS b)))) || (c == 2 && !x.started)
  if (decide (c ≠ 0) && (x.cmd != 0 || bad)) || decide (1000 < wget w 25 16) then (s, false)
  else
    let s := (s.wr (TIME.TB_CTL.SERVO_LOCK b) (wget w 31 31)).wr (TIME.TB_CTL.WDOG b) (wget w 25 16)
    let s := if c = 0 then s else s.setTb b { x with cmd := c }
    (s.tbSync b, true)

/-- A 32-bit word as a signed number. -/
def signed32 (n : Nat) : Int := if n < 2 ^ 31 then n else (n : Int) - 2 ^ 32

/-- R422: the value a SET gives. -/
def State.setValue (s : State) (b : Nat) : Nat :=
  (s.rd (TIME.ARG_SEC_LO.SEC b) + 2 ^ 32 * s.rd (TIME.ARG_HI.SEC b)) * secUnit + s.rd (TIME.ARG_NS.NS b) * nsUnit
    + s.rd (TIME.ARG_HI.FRAC b) * 2 ^ 32

/-- R422: the value a STEP gives. -/
def State.stepValue (s : State) (b : Nat) : Nat :=
  let d : Int := signed32 (s.rd (TIME.ARG_NS.NS b)) * nsUnit + s.rd (TIME.ARG_HI.FRAC b) * 2 ^ 32
  (((s.tb b).v + d) % timeMod).toNat

/-- R422: SNAP. -/
def State.snap (s : State) (b : Nat) : State :=
  let k := s.tbNow b
  let s := (s.wr (TIME.SNAP_SEC_LO.SEC b) (k / 2 ^ 38)).wr (TIME.SNAP_HI.SEC b) (k / 2 ^ 70)
  (s.wr (TIME.SNAP_HI.FRAC b) k).wr (TIME.SNAP_NS.NS b) (k / 64)

/-! Compares. -/

/-- R425: the armed instant of CMPi. -/
def State.cmpAt (s : State) (i : Nat) : Nat :=
  packTime (s.rd (TIME.CMP_SEC_LO.SEC i) + 2 ^ 32 * s.rd (TIME.CMP_HI.SEC i)) (s.rd (TIME.CMP_NS.NS i)) (s.rd (TIME.CMP_HI.FRAC i))

/-- R429: a compare fires: ARM clears, FIRED sets, CMPi_OUT pulses at its owner unless that is clamped, and its interrupt
is raised or discarded (R264). -/
def State.cmpFire (s : State) (i : Nat) (stepped : Bool) : State :=
  let v := s.rd (TIME.CMP_CTL.OWNER i)
  let s := (s.wrb (TIME.CMP_CTL.ARM i) false).wrb (TIME.CMP_STAT.FIRED i) true
  let s := if stepped then s.wrb (TIME.CMP_STAT.STEPPED i) true else s
  let irq := s.bit (TIME.CMP_CTL.IRQ i)
  if s.clamped v then (if irq then s.bump (VAT.IRQ_DISC_CNT v) else s)
  else
    let s : State := { s with time := { s.time with cmpOut := tput s.time.cmpOut i (tget s.time.cmpOut i 0 + 1) 0 } }
    if irq then s.srcPulse (864 + i) else s

/-- CMP_FIRE (R425, R429): the tick at which the base is at or above the instant of an armed compare. -/
def execCmpFire (i : Fin 15) (s : State) : Host.Outcome State Fault Refusal :=
  if s.bit (TIME.CMP_CTL.ARM i.val) ∧ s.cmpAt i.val ≤ s.tbNow (s.rd (TIME.CMP_CTL.TB i.val)) then .next (s.cmpFire i.val false)
  else .next s

/-- TIME.CMP_CTL (R425): arming on an UNSTARTED base is refused. `own`: the writer may write OWNER (R442). -/
def State.cmpCtlWrite (s : State) (own : Bool) (i : Nat) (w : Word) : State × Bool :=
  if wget w 31 31 = 1 ∧ (s.tb (wget w 18 16)).started = false then (s, false)
  else if own = false ∧ wget w 27 24 ≠ s.rd (TIME.CMP_CTL.OWNER i) then (s, false)
  else (s.setReg (TIME.CMP_CTL.ARM i).off (w &&& (wmask 31 31 ||| wmask 28 24 ||| wmask 18 16)), true)

/-! Pulse units. -/

def State.tp (s : State) (k : Nat) : TpSt := tget s.time.tp k {}
def State.setTp (s : State) (k : Nat) (x : TpSt) : State := { s with time := { s.time with tp := tput s.time.tp k x {} } }

/-- A 86-bit value as a count of 1/64 ns. -/
def flatTime (sec ns frac : Nat) : Nat := (sec * 1000000000 + ns) * 64 + frac

/-- R440: the instant of number j of a unit's series, in 1/64 ns. -/
def State.tpInstant (s : State) (k j : Nat) : Nat :=
  flatTime (s.rd (TIME.START_SEC_LO.SEC k) + 2 ^ 32 * s.rd (TIME.START_HI.SEC k)) (s.rd (TIME.START_NS.NS k)) (s.rd (TIME.START_HI.FRAC k))
    + j * (s.rd (TIME.PERIOD_NS.NS k) * 64 + s.rd (TIME.PERIOD_FRAC.FRAC k))

/-- A base's value in 1/64 ns. -/
def State.tbFlat (s : State) (b : Nat) : Nat := (s.tb b).v / 2 ^ 32

/-- R440: the number of the first instant of the series at or after a value; 0 in ONCE mode. -/
def State.tpRejoin (s : State) (k : Nat) (now : Nat) : Nat :=
  let p := s.rd (TIME.PERIOD_NS.NS k) * 64 + s.rd (TIME.PERIOD_FRAC.FRAC k)
  if s.bit (TIME.TP_CTL.MODE k) then (now + p - 1 - s.tpInstant k 0) / p else 0

/-- TIME.TP_CTL (R440): enabling is refused on an UNSTARTED base, with WIDTH_NS below 2, and in PERIODIC mode with WIDTH_NS
not less than PERIOD_NS; an enabled unit takes EN alone. Disabling releases the output (notes/assumptions/30.md). -/
def State.tpCtlWrite (s : State) (own : Bool) (k : Nat) (w : Word) : State × Bool :=
  let m := wmask 31 24 ||| wmask 18 16
  let w := w &&& m
  let wid := s.rd (TIME.WIDTH_NS.NS k)
  let en := wget w 31 31 == 1
  let old := s.reg (TIME.TP_CTL.EN k).off
  if s.bit (TIME.TP_CTL.EN k) ∧ wset w 31 31 0 ≠ wset old 31 31 0 then (s, false)
  else if own = false ∧ wget w 27 24 ≠ wget old 27 24 then (s, false)
  else if en ∧ s.bit (TIME.TP_CTL.EN k) = false ∧
      ((s.tb (wget w 18 16)).started = false ∨ wid < 2 ∨ (wget w 30 30 = 1 ∧ s.rd (TIME.PERIOD_NS.NS k) ≤ wid)) then (s, false)
  else
    let was := s.bit (TIME.TP_CTL.EN k)
    let s := s.setReg (TIME.TP_CTL.EN k).off w
    let s := if !en then s.setTp k {} else if was then s
      else s.setTp k ⟨false, s.tpRejoin k (s.tbFlat (wget w 18 16))⟩
    (s, true)

/-- PULSE_ASSERT (R440): the base is COMP units before the next instant of an enabled unit's series, or later. -/
def execPulseAssert (k : Fin 16) (s : State) : Host.Outcome State Fault Refusal :=
  let x := s.tp k.val
  if s.bit (TIME.TP_CTL.EN k.val) ∧ x.on = false ∧ s.tpInstant k.val x.next ≤ s.tbFlat (s.rd (TIME.TP_CTL.TB k.val)) + s.rd (TIME.TP_COMP.COMP k.val) then
    let s := s.setTp k.val ⟨true, x.next + 1⟩
    .next (if s.bit (TIME.TP_CTL.IRQ k.val) then s.srcPulse (840 + k.val) else s)
  else .next s

/-- PULSE_RELEASE (R440): WIDTH_NS after the assertion the output is released; in ONCE mode EN clears. -/
def execPulseRelease (k : Fin 16) (s : State) : Host.Outcome State Fault Refusal :=
  let x := s.tp k.val
  if x.on then
    let s := s.setTp k.val { x with on := false }
    .next (if s.bit (TIME.TP_CTL.MODE k.val) then s else (s.wrb (TIME.TP_CTL.EN k.val) false).setTp k.val {})
  else .next s

/-- R440: the level on ball TPk: none while it is high impedance. -/
def State.tpLevel (s : State) (k : Nat) : Option Bool :=
  if s.mode = M.off then none else some ((s.tp k).on != s.bit (TIME.TP_CTL.POL k))

/-! The tick of TCLK. -/

/-- R426, R440: what a jump of a base from one value to another does to compares and pulse trains. -/
def State.jumped (s : State) (b old : Nat) : State :=
  let a := timeKey old
  let z := s.tbNow b
  let s := (List.range 15).foldl (fun s i =>
    if s.bit (TIME.CMP_CTL.ARM i) && s.rd (TIME.CMP_CTL.TB i) == b && decide (a < s.cmpAt i) && decide (s.cmpAt i ≤ z)
    then s.cmpFire i true else s) s
  (List.range 16).foldl (fun s k =>
    if s.bit (TIME.TP_CTL.EN k) && s.rd (TIME.TP_CTL.TB k) == b && s.bit (TIME.TP_CTL.MODE k)
    then s.setTp k { s.tp k with next := s.tpRejoin k (s.tbFlat b) } else s) s

/-- R422: SET and STEP at their tick. -/
def State.tbJump (s : State) (b v : Nat) : State :=
  let x := s.tb b
  let s := (s.setTb b { x with v := v % timeMod, started := true, cmd := 0 }).tbSync b
  let s := (s.wrb (TIME.TB_STAT.STEPPED b) true).bump (TIME.STEP_CNT b)
  let s := (s.raiseAt (s.baseHosts b) EV.tbStep 0xFF b []).srcPulse (832 + b)
  if x.started then s.jumped b x.v else s

/-- R422: the command that waits at a base takes effect. -/
def State.tbCommand (s : State) (b : Nat) : State :=
  let x := s.tb b
  if x.cmd = 1 then s.tbJump b (s.setValue b)
  else if x.cmd = 2 then s.tbJump b (s.stepValue b)
  else if x.cmd = 3 then ((s.snap b).setTb b { x with cmd := 0 }).tbSync b
  else s

/-- R420: a running base counts for n ticks of TCLK. -/
def State.tbCount (s : State) (n b : Nat) : State :=
  let x := s.tb b
  if x.started then s.setTb b { x with v := (x.v + n * x.rate * 64) % timeMod } else s

/-- One microsecond of every base: waiting commands take effect at its first tick. -/
def State.tbMicro (s : State) : State := (List.range 8).foldl (fun s b => (s.tbCommand b).tbCount 1000 b) s

/-! Captures. -/

def State.cap (s : State) (j : Nat) : List StampE := tget s.time.cap j []
/-- Store the entries of a capture unit; FILL and the interrupt of an enabled store follow. -/
def State.setCap (s : State) (j : Nat) (l : List StampE) : State :=
  ({ s with time := { s.time with cap := tput s.time.cap j l [] } } : State).wr (TIME.CAP_STAT.FILL j) l.length

/-- R441, R442: the source of a capture unit. -/
def capSrc (j : Nat) : Nat := if j = 8 then 879 else 856 + j

/-- R441: the interrupt of a unit stands while its store is not empty and IRQ is 1. -/
def State.capIrq (s : State) (j : Nat) : State :=
  s.srcSet (capSrc j) (s.bit (TIME.CAP_CTL.IRQ j) && !(s.cap j).isEmpty)

/-- TIME.CAP_CTL (R441): EDGE 0b00 and enabling on an UNSTARTED base are refused. -/
def State.capCtlWrite (s : State) (own : Bool) (j : Nat) (w : Word) : State × Bool :=
  if wget w 30 29 = 0 ∨ (wget w 31 31 = 1 ∧ (s.tb (wget w 18 16)).started = false) then (s, false)
  else if own = false ∧ wget w 27 24 ≠ s.rd (TIME.CAP_CTL.OWNER j) then (s, false)
  else ((s.setReg (TIME.CAP_CTL.EN j).off (w &&& (wmask 31 24 ||| wmask 18 16 ||| wmask 7 0))).capIrq j, true)

/-- CAPTURE_EDGE (R424, R441): an edge on a capture ball: whether it rises, its phase within the tick in 1/64, and whether it
lies within 4 ns of the edge before. -/
def execCaptureEdge (j : Fin 9) (rise : Bool) (phase : Fin 64) (near : Bool) (s : State) : Host.Outcome State Fault Refusal :=
  let j := j.val
  if s.bit (TIME.CAP_CTL.EN j) = false ∨ near ∨ (s.rd (TIME.CAP_CTL.EDGE j)).testBit (if rise then 0 else 1) = false then .next s
  else if (s.cap j).length < 4 then
    let x := s.tb (s.rd (TIME.CAP_CTL.TB j))
    let t : Int := ((x.v + x.rate * phase.val : Nat) : Int) - (s.rd (TIME.CAP_CTL.COMP j) * 2 ^ 32 : Nat)
    .next ((s.setCap j (s.cap j ++ [⟨rise.toNat, timeKey (t % timeMod).toNat⟩])).capIrq j)
  else
    let s := (s.wrb (TIME.CAP_STAT.OVF j) true).bump (TIME.OVF_CNT j)
    .next (s.raiseVat (s.rd (TIME.CAP_CTL.OWNER j)) EV.capOvf j [])

/-- R441: the word of CAP_POP. -/
def capWord : List StampE → Word
  | [] => 0
  | e :: _ => BitVec.ofNat 32 (2 ^ 31 + e.tag % 2 * 2 ^ 30 + e.t % 64 * 2 ^ 16 + e.t / 2 ^ 70 % 2 ^ 16)

/-- R441: a read of CAP_POP pops and latches the oldest entry; `pop` false is CAP_POP_I, which latches and
removes nothing. -/
def State.capPop (s : State) (j : Nat) (pop : Bool) : Word × State := match s.cap j with
  | [] => (0, s)
  | e :: t =>
    let w := capWord (e :: t)
    let s := (s.wr (TIME.CAP_SEC_LO.SEC j) (e.t / 2 ^ 38)).wr (TIME.CAP_NS.NS j) (e.t / 64)
    (w, if pop then (s.setCap j t).capIrq j else s)

/-! Transmit time-stamp queues. -/

def State.tsq (s : State) (m : Nat) : List StampE := tget s.time.tsq m []
def State.setTsq (s : State) (m : Nat) (l : List StampE) : State :=
  ({ s with time := { s.time with tsq := tput s.time.tsq m l [] } } : State).wr (TIME.TSQ_STAT.FILL m) l.length

/-- The vat of a frame-engine port: that of its first lane (R256). -/
def State.portVat (s : State) (m : Nat) : Nat := (s.vatOfLane m).getD 0

/-- R434: a transmit time-stamp enters its port's queue, or is dropped. -/
def State.tsqPush (s : State) (m fid t : Nat) : State :=
  if (s.tsq m).length < 16 then s.setTsq m (s.tsq m ++ [⟨fid % 2 ^ 16, t⟩])
  else
    let s := (s.wrb (TIME.TSQ_STAT.OVF m) true).bump (TIME.TSQ_OVF_CNT m)
    s.raiseVat (s.portVat m) EV.tsqOvf m []

/-- R434: a read of TSQ_POP, or of TSQ_POP_I (`pop` false). -/
def State.tsqPop (s : State) (m : Nat) (pop : Bool) : Word × State := match s.tsq m with
  | [] => (0, s)
  | e :: t =>
    let w := BitVec.ofNat 32 (2 ^ 31 + e.t % 64 * 2 ^ 16 + e.tag % 2 ^ 16)
    let s := (s.wr (TIME.TSQ_SEC_LO.SEC m) (e.t / 2 ^ 38)).wr (TIME.TSQ_SEC_HI.SEC m) (e.t / 2 ^ 70)
    let s := s.wr (TIME.TSQ_NS.NS m) (e.t / 64)
    (w, if pop then s.setTsq m t else s)

/-- R438: ONE_STEP and TC_OUT exclude each other. -/
def State.ptpWrite (s : State) (m : Nat) (w : Word) : State × Bool :=
  if wget w 31 31 = 1 ∧ wget w 29 29 = 1 then (s, false)
  else (s.setReg (TIME.PTP_CTL.ONE_STEP m).off (w &&& wmask 31 29), true)

/-! Survival (R423, R442). -/

/-- R421, R442: entry into KEEP: every started base is in HOLDOVER. -/
def State.timeKeep (s : State) : State := (List.range 8).foldl State.holdover s

/-- R442: the CMP units, the capture stores and the port registers return to their reset values. -/
def State.timeReset (s : State) : State :=
  let s : State := { s with
    regs := tfilter (fun a _ => !((decide (0x5004000 ≤ a) && decide (a < 0x50043C0)) || (decide (0x5100000 ≤ a) && decide (a < 0x5106000)))) s.regs
    ctrs := tfilter (fun a _ => !(decide (0x5100000 ≤ a) && decide (a < 0x5106000))) s.ctrs
    time := { s.time with tsq := [] } }
  (List.range 9).foldl (fun s j => (s.setCap j []).capIrq j) s

end Sys2Proof.Machine
end

