-- ==== Sys2Proof/Machine/Ports.lean ====
section
/-! DEFINITION. What lanes and frame engines share (R393 to R395, R411, R413): modes and lanes of a port, its store and
flags, and a link that goes down. -/

namespace Sys2Proof.Machine

def State.fport (s : State) (m : Nat) : FenPort := tget s.fen.port m {}
def State.setFport (s : State) (m : Nat) (p : FenPort) : State := { s with fen := { s.fen with port := tput s.fen.port m p {} } }

/-- R394: a mode: lanes, symbol rate in kHz, PAM4, data rate in Gb/s. -/
def fenMode : Nat → Option (Nat × Nat × Bool × Nat)
  | 0x1 => some (1, 1250000, false, 1)
  | 0x2 => some (1, 10312500, false, 10)
  | 0x3 => some (1, 25781250, false, 25)
  | 0x4 => some (1, 26562500, true, 50)
  | 0x5 => some (4, 25781250, false, 100)
  | 0x6 => some (2, 26562500, true, 100)
  | 0x7 => some (1, 53125000, true, 100)
  | 0x8 => some (4, 26562500, true, 200)
  | 0x9 => some (2, 53125000, true, 200)
  | 0xA => some (8, 26562500, true, 400)
  | 0xB => some (4, 53125000, true, 400)
  | 0xC => some (2, 106250000, true, 400)
  | 0xD => some (8, 53125000, true, 800)
  | 0xE => some (4, 106250000, true, 800)
  | _ => none

/-- R393: the lanes of a port of width w. -/
def portLanes (m w : Nat) : List Nat := (List.range w).map fun i => m + i

/-- R393: the lanes of an enabled port. -/
def State.lanesOfPort (s : State) (m : Nat) : List Nat :=
  if s.bit (FEN.PORT_CTL.EN m) then portLanes m ((fenMode (s.rd (FEN.PORT_CTL.MODE m))).map (·.1) |>.getD 0) else []

/-- R412: the vat of a port is paused. -/
def State.portPaused (s : State) (m : Nat) : Bool := match s.vatOfLane m with
  | some v => s.clamped v
  | none => false

/-- R414: the interrupt of a port; MP0 to MP3 have the sources of the management ports. -/
def State.fenIrq (s : State) (m : Nat) : State :=
  s.srcSet (if m < 96 then 608 + m else 944 + (m - 96)) (s.reg (FEN.IRQ_EN.QERR m).off &&& s.reg (FEN.IRQ_STAT.QERR m).off != 0)

/-- Set a bit of FEN.IRQ_STAT. -/
def State.fenFlag (s : State) (m : Nat) (f : Nat → Fld) : State := (s.wrb (f m) true).fenIrq m

/-- R411: count a frame that is not delivered. -/
def State.fenDrop (s : State) (m off : Nat) : State := (s.bump off).fenFlag m FEN.IRQ_STAT.DROP

/-- Segments of a frame in the store. -/
def TxF.segs (f : TxF) : Nat := (f.bytes.length + (if f.nofcs then 0 else 4) + 63) / 64

/-- R415: events of a port go to the owner of its vat. -/
def State.raisePort (s : State) (m : Nat) (k : EvKind) (args : List Nat := []) : State := s.raiseVat (s.portVat m) k m args

/-- R411: count a frame a queue drops, at the port and at the queue. -/
def State.qDrop (s : State) (m q off : Nat) : State := (s.fenDrop m off).bump (QM.DROP_CNT q)

/-- R413: empty a port's store: every frame in it is dropped and counted; queue frames end with RESULT 0x4. -/
def State.storeDrop (s : State) (m : Nat) : State :=
  let p := s.fport m
  let s := s.setFport m { p with store := [], done := p.done ++ (p.store.filter fun f => f.q.isSome).map fun f => (f, 4) }
  p.store.foldl (fun s f => match f.q with
    | some q => s.qDrop m q (FEN.TX_DOWN_DROP m)
    | none => s.fenDrop m (FEN.TX_DOWN_DROP m)) s

/-- R395, R413, R415, R505: the link of a port goes down: FEN_LINK_DOWN (MGT_LINK_DOWN too at a management port); the
frames waiting are held, or dropped with DOWN_DROP. -/
def State.linkFalls (s : State) (m : Nat) : State :=
  if s.bit (FEN.PORT_STAT.LINK m) then
    let s := s.wrb (FEN.PORT_STAT.LINK m) false
    let s := (s.raisePort m EV.fenLinkDown).fenFlag m FEN.IRQ_STAT.LINK_DOWN
    let s := if 96 ≤ m then s.raiseDev EV.mgtLinkDown (m - 96) [] else s
    if s.bit (FEN.PORT_CTL.DOWN_DROP m) then s.storeDrop m else s
  else s

/-- The frame-engine port that uses a lane. -/
def State.portOfLane (s : State) (n : Nat) : Option Nat := (List.range 100).find? fun m => (s.lanesOfPort m).contains n

end Sys2Proof.Machine
end

