-- ==== Sys2Proof/Machine/LaneCode.lean ====
section
/-! DEFINITION. What a lane's transmitter makes of bits (R376, R377, R385), and the patterns of its generator and checker (R386,
R387). -/

namespace Sys2Proof.Machine

/-! Patterns. A pattern's state is a number whose bit k is the bit sent k + 1 bits ago; for the user pattern, the place in it. -/

/-- R386: what the pattern of a code is: the delays whose bits are added, and whether the sum is inverted, as ITU-T O.150 has it
for PRBS15, PRBS23 and PRBS31 (PRESUMED, notes/assumptions/84.md). PRBS13Q and PRBS31Q are PRBS13 and PRBS31 in the order of
their bits. -/
def prbsPoly : Nat → Option (List Nat × Bool)
  | 0 => some ([7, 6], false)
  | 1 => some ([9, 5], false)
  | 2 => some ([13, 12, 2, 1], false)
  | 3 => some ([15, 14], true)
  | 4 => some ([23, 18], true)
  | 5 => some ([31, 28], true)
  | 6 => some ([13, 12, 2, 1], false)
  | 7 => some ([31, 28], true)
  | _ => none

/-- The next bit of a generator and its state after it. -/
def prbsNext (poly : List Nat × Bool) (r : Nat) : Bool × Nat :=
  let b := poly.1.foldl (fun b d => b ^^ r.testBit (d - 1)) poly.2
  (b, r % 2 ^ 30 * 2 + b.toNat)

/-- R386: the next bit of a pattern on a lane: of the user pattern, the bit at the place. -/
def State.patNext (s : State) (n code r : Nat) : Bool × Nat := match prbsPoly code with
  | some p => prbsNext p r
  | none =>
    let len := s.rd (LANE.PRBS_CTL.UPAT_LEN n)
    let r := r % len
    ((s.rd (LANE.UPAT.P n (r / 32))).testBit (r % 32), (r + 1) % len)

/-- How many of so many received bits (bit 0 first, from place k on) differ from the pattern, and the pattern's state after
them. -/
def State.patErrors (s : State) (n code : Nat) (bits : Nat) : Nat → Nat → Nat → Nat × Nat
  | 0, _, r => (0, r)
  | j + 1, k, r =>
    let x := s.patNext n code r
    let y := State.patErrors s n code bits j (k + 1) x.2
    (y.1 + (x.1 != bits.testBit k).toNat, y.2)

/-- R387: what the checker seeds itself with: no state that its generator never leaves, and for the user pattern a place, where the
pattern occurs once in UPAT_LEN bits. -/
def State.patSeed (s : State) (n code r : Nat) : Bool := match prbsPoly code with
  | some p => let d := p.1.foldl max 0; r % 2 ^ d != (if p.2 then 2 ^ d - 1 else 0)
  | none =>
    let len := s.rd (LANE.PRBS_CTL.UPAT_LEN n)
    decide (r < len) && (List.range (len - 1)).all fun t =>
      (List.range len).any fun i => (s.patNext n code (i + t + 1)).1 != (s.patNext n code i).1

/-! Line coding (R376). -/

/-- R376: the level of a pair of bits, the first sent the more significant. -/
def grayLevel (a b : Bool) : Nat := if a then (if b then 2 else 3) else b.toNat

/-- R376: the levels of bits in the order they are sent: NRZ has two, PAM4 four. -/
def lineLevels (pam : Bool) : List Bool → List Nat
  | [] => []
  | [a] => if pam then [] else [a.toNat]
  | a :: b :: t => if pam then grayLevel a b :: lineLevels pam t else a.toNat :: lineLevels pam (b :: t)

/-- R376: precoding 1/(1 + D) mod 4, from the level sent before. -/
def precode : Nat → List Nat → List Nat
  | _, [] => []
  | p, a :: t => let q := (a + 4 - p % 4) % 4; q :: precode q t

/-- R376: the levels a lane sends for bits, from the level sent before: its modulation, precoding and polarity. -/
def State.lineOut (s : State) (n before : Nat) (bits : List Bool) : List Nat :=
  let pam := s.bit (LANE.CTL.MOD n)
  let l := lineLevels pam bits
  let l := if pam && s.bit (LANE.CTL.TX_PRE n) then precode before l else l
  if s.bit (LANE.CTL.TX_INV n) then l.map fun a => (if pam then 3 else 1) - a else l

/-! Equalisation (R377). -/

/-- R377: the taps c(-2), c(-1), c(0), c(+1) of a preset. -/
def presetTaps : Nat → List Int
  | 1 => [0, 0, 56, -8]
  | 2 => [0, 0, 48, -16]
  | 3 => [0, -4, 52, -8]
  | 4 => [0, -4, 44, -16]
  | 5 => [0, -8, 48, -8]
  | 6 => [0, -8, 40, -16]
  | 7 => [0, -4, 40, -20]
  | 8 => [0, -8, 36, -20]
  | 9 => [0, -12, 40, -12]
  | _ => [0, 0, 64, 0]

/-- R377: the taps a lane's transmitter uses, and its swing in mV. -/
def State.txTaps (s : State) (n : Nat) : List Int :=
  let t := fun (f : Nat → Fld) => (BitVec.ofNat 8 (s.rd (f n))).toInt
  if s.rd (LANE.TX_EQ.PRESET n) = 15 then [t LANE.TX_FIR.C_M2, t LANE.TX_FIR.C_M1, t LANE.TX_FIR.C_0, t LANE.TX_FIR.C_P1]
  else presetTaps (s.rd (LANE.TX_EQ.PRESET n))
def State.txSwing (s : State) (n : Nat) : Nat := 400 + 40 * s.rd (LANE.TX_EQ.AMP n)

/-! What is sent (R385, R386). -/

/-- The source of what a lane sends: nothing while the transmitter is not ON, the far loopback, the generator, or the frame engine
or span port. -/
inductive TxSource where
  | idle | farLoop | generator | data
deriving DecidableEq, Repr

/-- R384 to R386, R391: the far loopback stands before the generator, the generator before the data. -/
def State.txSource (s : State) (n : Nat) : TxSource :=
  if s.rd (LANE.STAT.TX_STATE n) ≠ 3 then .idle
  else if s.rd (LANE.CTL.LOOP n) = 2 then .farLoop
  else if s.bit (LANE.PRBS_CTL.TX_EN n) then .generator
  else .data

/-- R385: the receiver takes the lane's own transmit signal. -/
def State.nearLoop (s : State) (n : Nat) : Bool := s.rd (LANE.CTL.LOOP n) == 1

end Sys2Proof.Machine
end

