-- ==== Sys2Proof/Machine/Lanes.lean ====
section
/-! DEFINITION. The serial lanes (R372 to R392): rates, power of each direction, the receiver's states, quad PLLs and
reference monitors, loopback, PRBS checkers and error injection. -/

namespace Sys2Proof.Machine

/-- R372: the quad of a lane. -/
def quadOf (n : Nat) : Nat := n / 4

/-- R373: lane types: long, short, management. -/
def isLong (n : Nat) : Bool := decide (n < 64)
def isMgmt (n : Nat) : Bool := decide (96 ≤ n)

/-- R392: to the owner of the lane's vat (of vat 0 where no vat has the lane). -/
def State.raiseLane (s : State) (n : Nat) (k : EvKind) : State :=
  let v := (s.vatOfLane n).getD 0
  s.raiseVat v k n

/-- R392: to the owner of vat 0 and of every vat that holds a lane of the quad. -/
def State.raiseQuad (s : State) (u : Nat) (k : EvKind) : State :=
  let vs := (List.range 4).filterMap fun j => s.vatOfLane (4 * u + j)
  s.raiseAt (s.devOwner :: vs.map fun v => s.ownerOf v) k 0xFF u

/-- R453: the lane's interrupt output is asserted while any bit is set in IRQ_EN and in IRQ_STAT. -/
def State.laneIrq (s : State) (n : Nat) : State :=
  if n < 96 then s.srcSet (512 + n) (s.reg (LANE.IRQ_EN.SLIP n).off &&& s.reg (LANE.IRQ_STAT.SLIP n).off != 0) else s

/-- Set a bit of IRQ_STAT. -/
def State.laneFlag (s : State) (n : Nat) (f : Nat → Fld) : State := (s.wrb (f n) true).laneIrq n

/-- R373: F_PLL of a PLL of a quad, in kHz. -/
def State.pllKhz (s : State) (u p : Nat) : Nat := s.rd (LANE.QPLL.N u p) * s.rd (LANE.QREF.FREF_KHZ u)

/-- R373: a lane may run with this PLL frequency, modulation and divider. -/
def rateOk (n khz mod d : Nat) : Bool :=
  let b := 2 * khz / d
  if isMgmt n then mod == 0 && (d == 10 || d == 80)
  else if khz < 40000000 ∨ 56000000 < khz then false
  else if isLong n then
    if mod = 0 then [2, 4, 5, 8, 10, 16, 20, 40, 80].contains d && decide (1250000 ≤ b) && decide (b ≤ 56000000)
    else [1, 2, 4].contains d && decide (26500000 ≤ b) && decide (b ≤ 112000000)
  else
    if mod = 0 then [4, 5, 8, 10, 16, 20, 40, 80].contains d && decide (1250000 ≤ b) && decide (b ≤ 28000000)
    else d == 4 && decide (26500000 ≤ b) && decide (b ≤ 28000000)

/-- R383: the divider an RCDIV code names; 0 is off. -/
def rcDivOf (c : Nat) : Nat := [0, 16, 20, 32, 40, 64, 66, 80, 128, 160, 256].getD c 0

/-- R91, R383: a foreign line has the lane's recovered clock in SRC_ACT. -/
def State.laneOnForeign (s : State) (n : Nat) : Bool :=
  (List.range 4).any fun q => (List.range 8).any fun l =>
    let c := s.rd (CLK.FCL.SRC_ACT q l)
    if n < 64 then decide (n / 16 = q) && c == 0x10 + n % 16
    else if n < 96 then decide ((n - 64) / 8 = q) && c == 0x20 + (n - 64) % 8
    else false

/-- R387, R391: the checker loses lock without a loss being counted. -/
def State.checkerDrop (s : State) (n : Nat) : State := s.wrb (LANE.PRBS_STAT.LOCK n) false

/-- R328, R395: a lane that is not LOCKED takes down the span port and the link of the frame-engine port that use it. -/
def State.laneUnlocked (s : State) (n : Nat) : State :=
  let s := (List.range 4).foldl (fun s k =>
    if s.bit (SPAN.PORT_CTL.EN k) ∧ (s.spanLanes k).contains n then
      let s := s.spanDown k
      s.setPort k (s.port k).cleared
    else s) s
  match s.portOfLane n with
  | some m => s.linkFalls m
  | none => s

/-- R384: move the transmitter to a power setting. -/
def State.setTxPower (s : State) (n p : Nat) : State :=
  if p = 0 then s.wr (LANE.STAT.TX_STATE n) 0
  else if p = 1 then s.wr (LANE.STAT.TX_STATE n) 1
  else if s.rd (LANE.STAT.TX_STATE n) = 3 then s else s.wr (LANE.STAT.TX_STATE n) 2

/-- R379: the coefficients are lost. -/
def State.clearCoeffs (s : State) (n : Nat) : State :=
  (List.range 12).foldl (fun s k => s.wr (LANE.RX_DFE.TAP n k) 0) (s.wr (LANE.RX_CTLE.CODE n) 0)

/-- R384, R391: move the receiver to a power setting. -/
def State.setRxPower (s : State) (n p : Nat) : State :=
  let old := s.rd (LANE.STAT.RX_STATE n)
  if p = 0 then (((s.wr (LANE.STAT.RX_STATE n) 0).wrb (LANE.STAT.SIGDET n) false).clearCoeffs n |>.checkerDrop n).laneUnlocked n
  else if p = 1 then ((s.wr (LANE.STAT.RX_STATE n) 1).checkerDrop n).laneUnlocked n
  else if old = 0 then s.wr (LANE.STAT.RX_STATE n) 2
  else if old = 1 then s.wr (LANE.STAT.RX_STATE n) 4
  else s

/-- R373, R383 to R385, R391: a write of LANE.CTL; none where it is refused with SLVERR. -/
def State.laneCtlWrite (s : State) (n : Nat) (w : Word) : Option State :=
  let tx := wget w 31 30
  let rx := wget w 29 28
  let pll := wget w 27 27
  let mod := wget w 26 26
  let d := wget w 23 16
  let rc := wget w 3 0
  let rate := decide (pll ≠ s.rd (LANE.CTL.PLL n)) || decide (mod ≠ s.rd (LANE.CTL.MOD n)) || decide (d ≠ s.rd (LANE.CTL.DIV n))
  let on := s.rd (LANE.CTL.TX_PWR n) == 2 || s.rd (LANE.CTL.RX_PWR n) == 2
  let khz := s.pllKhz (quadOf n) pll
  if tx = 3 ∨ rx = 3 ∨ wget w 15 14 = 3 ∨ 10 < rc then none
  else if wget w 15 14 = 1 ∧ ¬(tx = 2 ∧ rx = 2) then none
  else if rate ∧ on then none
  else if !rateOk n khz mod d then none
  else if rc ≠ s.rd (LANE.CTL.RCDIV n) ∧ s.laneOnForeign n then none
  else if rc ≠ 0 ∧ 1200000 * rcDivOf rc < 2 * khz / d then none
  else some (((s.setReg (LANE.CTL.PLL n).off (w &&& 0xFCFFFC0F)).setTxPower n tx).setRxPower n rx)

/-- R377: a write of TX_EQ; presets 10 to 14 are refused. -/
def State.txEqWrite (s : State) (n : Nat) (w : Word) : Option State :=
  if 10 ≤ wget w 31 28 ∧ wget w 31 28 ≤ 14 then none else some (s.setReg (LANE.TX_EQ.AMP n).off (w &&& 0xFF000000))

/-- R377: a write of TX_FIR; refused where the taps break the limits. -/
def State.txFirWrite (s : State) (n : Nat) (w : Word) : Option State :=
  let t := fun hi lo => (BitVec.ofNat 8 (wget w hi lo)).toInt
  let sum := (t 31 24).natAbs + (t 23 16).natAbs + (t 15 8).natAbs + (t 7 0).natAbs
  if 64 < sum ∨ t 15 8 < 16 ∨ (64 ≤ n ∧ t 31 24 ≠ 0) then none else some (s.setReg (LANE.TX_FIR.C_0 n).off w)

/-- R386: a write of PRBS_CTL; refused codes give SLVERR. CHK_EN = 0 stops the checker. -/
def State.prbsWrite (s : State) (n : Nat) (w : Word) : Option State :=
  let bad := fun c => decide (9 ≤ c) || ((c == 6 || c == 7) && s.rd (LANE.CTL.MOD n) == 0)
  if bad (wget w 30 27) ∨ bad (wget w 25 22) ∨ wget w 7 0 = 0 ∨ 128 < wget w 7 0 then none
  else
    let s := s.setReg (LANE.PRBS_CTL.TX_EN n).off (w &&& 0xFFC000FF)
    some (if wget w 26 26 = 0 then s.checkerDrop n else s)

/-- R388: count inverted bits. -/
def State.injected (s : State) (n : Nat) : State := s.bump (LANE.INJ_CNT n)

/-- R388, R391: a write of INJ_CTL: ONCE inverts the next transmitted bit, at once where the transmitter is ON. -/
def State.injWrite (s : State) (n : Nat) (w : Word) : Option State :=
  if wget w 29 24 < 10 ∨ 40 < wget w 29 24 then none
  else
    let s := s.setReg (LANE.INJ_CTL.CONT n).off (w &&& 0x7F000000)
    if wget w 31 31 = 0 then some s
    else if s.rd (LANE.STAT.TX_STATE n) = 3 then some (s.injected n)
    else some { s with inject := tput s.inject n true false }

/-- R374: a write of QPLL; N is refused while EN is 1 or a lane on the PLL is ON, and outside R373. -/
def State.qpllWrite (s : State) (u p : Nat) (w : Word) : Option State :=
  let n := wget w 9 0
  let en := wget w 31 31 == 1
  let busy := s.bit (LANE.QPLL.EN u p) || (List.range 4).any fun j =>
    s.rd (LANE.CTL.PLL (4 * u + j)) == p && (s.rd (LANE.CTL.TX_PWR (4 * u + j)) == 2 || s.rd (LANE.CTL.RX_PWR (4 * u + j)) == 2)
  let khz := n * s.rd (LANE.QREF.FREF_KHZ u)
  if n ≠ s.rd (LANE.QPLL.N u p) ∧ busy then none
  else if n < 160 ∨ 560 < n ∨ khz < 40000000 ∨ 56000000 < khz then none
  else
    let s := (s.wr (LANE.QPLL.N u p) n).wrb (LANE.QPLL.EN u p) en
    some (if en then s
      else (List.range 4).foldl (fun s j =>
        if s.rd (LANE.CTL.PLL (4 * u + j)) = p ∧ s.rd (LANE.STAT.TX_STATE (4 * u + j)) = 3
        then s.wr (LANE.STAT.TX_STATE (4 * u + j)) 2 else s) (s.wrb (LANE.QPLL.LOCK u p) false))

/-- A write of QREF: refused while a PLL of the quad runs, and outside 100 MHz to 250 MHz. -/
def State.qrefWrite (s : State) (u : Nat) (w : Word) : Option State :=
  let f := wget w 17 0
  if s.bit (LANE.QPLL.EN u 0) ∨ s.bit (LANE.QPLL.EN u 1) ∨ f < 100000 ∨ 250000 < f then none
  else
    let s := s.wr (LANE.QREF.FREF_KHZ u) f
    some (if u = 24 then s.wr (LANE.QREF.SEL u) (wget w 21 20) else s)

/-- LANE.STAT as it reads: PLL_LOCK and REF_OK are those of the quad. -/
def State.laneStat (s : State) (n : Nat) : Word :=
  let u := quadOf n
  let w := wset (s.reg (LANE.STAT.SNR n).off) 26 26 (s.rd (LANE.QPLL.LOCK u (s.rd (LANE.CTL.PLL n))))
  wset w 25 25 (s.rd (LANE.QREF.REF_OK u))

/-! The events of lanes and quads. -/

/-- QUAD_PLL_LOCK (R374): an enabled PLL whose reference is good locks. -/
def execQuadPllLock (u : Fin 25) (p : Fin 2) (s : State) : Host.Outcome State Fault Refusal :=
  if s.bit (LANE.QPLL.EN u.val p.val) ∧ s.bit (LANE.QREF.REF_OK u.val) then .next (s.wrb (LANE.QPLL.LOCK u.val p.val) true)
  else .next s

/-- The transmitters in ON on a PLL (or on both) go to electrical idle. -/
def State.txIdle (s : State) (u : Nat) (p : Option Nat) : State :=
  (List.range 4).foldl (fun s j =>
    let n := 4 * u + j
    if s.rd (LANE.STAT.TX_STATE n) = 3 ∧ (p = none ∨ p = some (s.rd (LANE.CTL.PLL n))) then s.wr (LANE.STAT.TX_STATE n) 2
    else s) s

/-- LANE_PLL_FAIL (R392): an enabled PLL with a good reference did not lock in 200 µs, or lost lock. -/
def execLanePllFail (u : Fin 25) (p : Fin 2) (s : State) : Host.Outcome State Fault Refusal :=
  if s.bit (LANE.QPLL.EN u.val p.val) ∧ s.bit (LANE.QREF.REF_OK u.val) then
    .next (((s.wrb (LANE.QPLL.LOCK u.val p.val) false).txIdle u.val (some p.val)).raiseQuad u.val EV.lanePllFail)
  else .next s

/-- QUAD_REF_QUALIFIED (R375, R390): REF_OK is set. The PLLs relock by QUAD_PLL_LOCK, the transmitters return by
TX_ON_REACHED and the receivers acquire again. -/
def execQuadRefQualified (u : Fin 25) (s : State) : Host.Outcome State Fault Refusal :=
  if s.islandUp then .next (s.wrb (LANE.QREF.REF_OK u.val) true) else .next s

/-- R375, R380: a receiver in ACQUIRE, ADAPT or LOCKED returns to NOSIG; IRQ_STAT.REF_LOSS is set. -/
def State.rxRefLoss (s : State) (n : Nat) : State :=
  let s := if 3 ≤ s.rd (LANE.STAT.RX_STATE n) then
      ((s.wr (LANE.STAT.RX_STATE n) 2).checkerDrop n).laneUnlocked n else s
  s.laneFlag n LANE.IRQ_STAT.REF_LOSS

/-- QUAD_REF_LOSS (R375): REF_OK clears: both PLLs lose lock, transmitters idle, receivers return to NOSIG. -/
def execQuadRefLoss (u : Fin 25) (s : State) : Host.Outcome State Fault Refusal :=
  let u := u.val
  if !s.bit (LANE.QREF.REF_OK u) then .next s
  else
    let s := (s.wrb (LANE.QREF.REF_OK u) false).bump (LANE.REFLOSS_CNT u)
    let s := ((s.wrb (LANE.QPLL.LOCK u 0) false).wrb (LANE.QPLL.LOCK u 1) false).txIdle u none
    .next (((List.range 4).foldl (fun s j => s.rxRefLoss (4 * u + j)) s).raiseQuad u EV.laneRefLoss)

/-- TX_ON_REACHED (R384): the transmitter waits and its PLL is locked: it sends. A waiting inversion goes with the first
bit (R391). -/
def execTxOnReached (n : Fin 100) (s : State) : Host.Outcome State Fault Refusal :=
  let n := n.val
  if s.rd (LANE.STAT.TX_STATE n) = 2 ∧ s.bit (LANE.QPLL.LOCK (quadOf n) (s.rd (LANE.CTL.PLL n))) then
    let s := s.wr (LANE.STAT.TX_STATE n) 3
    if tget s.inject n false then .next (({ s with inject := tput s.inject n false false } : State).injected n)
    else .next s
  else .next s

/-- RX_SIGNAL_DETECT (R375, R380): NOSIG to ACQUIRE, with a good reference; the CTLE starts at its hint or at 0. -/
def execRxSignalDetect (n : Fin 100) (s : State) : Host.Outcome State Fault Refusal :=
  let n := n.val
  if s.rd (LANE.STAT.RX_STATE n) = 2 ∧ s.bit (LANE.QREF.REF_OK (quadOf n)) then
    let start := if s.bit (LANE.RX_CTL.HINT_EN n) then s.rd (LANE.RX_CTL.CTLE_HINT n) else 0
    let s := (s.wr (LANE.STAT.RX_STATE n) 3).wrb (LANE.STAT.SIGDET n) true
    .next (if s.bit (LANE.RX_CTL.FREEZE n) then s else s.wr (LANE.RX_CTLE.CODE n) start)
  else .next s

/-- RX_CDR_LOCK (R380): ACQUIRE to ADAPT. -/
def execRxCdrLock (n : Fin 100) (s : State) : Host.Outcome State Fault Refusal :=
  if s.rd (LANE.STAT.RX_STATE n.val) = 3 then .next (s.wr (LANE.STAT.RX_STATE n.val) 4) else .next s

/-- R379: the coefficients that the adaptation reached; a short lane has 5 taps and 4 CTLE bits. -/
def State.adapt (s : State) (n ctle : Nat) (taps : List Byte) : State :=
  if s.bit (LANE.RX_CTL.FREEZE n) then s
  else
    let short := !isLong n && !isMgmt n
    let s := s.wr (LANE.RX_CTLE.CODE n) (if short then ctle % 16 else ctle)
    (List.range (if short then 5 else 12)).foldl (fun s k => s.wr (LANE.RX_DFE.TAP n k) (taps.getD k 0).toNat) s

/-- RX_LOCKED (R380): ADAPT to LOCKED, with the SNR held at or above SNR_MIN and the coefficients reached. -/
def execRxLocked (n : Fin 100) (snr : Byte) (ctle : Fin 32) (taps : List Byte) (s : State) :
    Host.Outcome State Fault Refusal :=
  let n := n.val
  if s.rd (LANE.STAT.RX_STATE n) = 4 ∧ s.rd (LANE.RX_CTL.SNR_MIN n) ≤ snr.toNat then
    let s := ((s.wr (LANE.STAT.RX_STATE n) 5).wr (LANE.STAT.SNR n) snr.toNat).wrb (LANE.STAT.NOLOCK n) false
    .next ((s.adapt n ctle.val taps).laneFlag n LANE.IRQ_STAT.LOCKED)
  else .next s

/-- R381: a receiver leaves LOCKED: counted, flagged and raised. -/
def State.lockLost (s : State) (n : Nat) : State :=
  let s := ((s.bump (LANE.LOCKLOSS_CNT n)).laneFlag n LANE.IRQ_STAT.LOCK_LOST).raiseLane n EV.laneLockLost
  (s.checkerDrop n).laneUnlocked n

/-- RX_LOCK_LOST (R381): LOCKED to ACQUIRE. -/
def execRxLockLost (n : Fin 100) (s : State) : Host.Outcome State Fault Refusal :=
  if s.rd (LANE.STAT.RX_STATE n.val) = 5 then .next ((s.wr (LANE.STAT.RX_STATE n.val) 3).lockLost n.val) else .next s

/-- RX_SIGNAL_LOST (R381): a receiver that saw a signal returns to NOSIG; from LOCKED this is a loss of lock too. -/
def execRxSignalLost (n : Fin 100) (s : State) : Host.Outcome State Fault Refusal :=
  let n := n.val
  let old := s.rd (LANE.STAT.RX_STATE n)
  if 3 ≤ old then
    let s := ((s.wr (LANE.STAT.RX_STATE n) 2).wrb (LANE.STAT.SIGDET n) false).bump (LANE.SIGLOSS_CNT n)
    .next (if old = 5 then s.lockLost n else s)
  else .next s

/-- RX_NO_LOCK (R381): 100 ms in ON without LOCKED: NOLOCK is set and LANE_NO_LOCK raised once. -/
def execRxNoLock (n : Fin 100) (s : State) : Host.Outcome State Fault Refusal :=
  let n := n.val
  let st := s.rd (LANE.STAT.RX_STATE n)
  if 2 ≤ st ∧ st ≤ 4 ∧ s.bit (LANE.STAT.NOLOCK n) = false then
    .next (((s.wrb (LANE.STAT.NOLOCK n) true).laneFlag n LANE.IRQ_STAT.NOLOCK).raiseLane n EV.laneNoLock)
  else .next s

/-- R387: how many of 1,024 received bits at a lane's checker differ from the pattern, and the pattern's state after them. -/
def State.checked (s : State) (n r : Nat) (bits : BitVec 1024) : Nat × Nat :=
  s.patErrors n (s.rd (LANE.PRBS_CTL.CHK_PAT n)) bits.toNat 1024 0 r

/-- PRBS_CHECKER_LOCK (R387): the checker of a locked receiver has seeded itself from received bits (`seed`: the 31 bits before,
the last in bit 0; for the user pattern the place in it), and 1,024 received bits match: LOCK is set. -/
def execPrbsCheckerLock (n : Fin 100) (seed : BitVec 31) (bits : BitVec 1024) (s : State) : Host.Outcome State Fault Refusal :=
  let n := n.val
  let r := s.checked n seed.toNat bits
  if s.bit (LANE.PRBS_CTL.CHK_EN n) ∧ s.bit (LANE.PRBS_STAT.LOCK n) = false ∧ s.rd (LANE.STAT.RX_STATE n) = 5
      ∧ s.patSeed n (s.rd (LANE.PRBS_CTL.CHK_PAT n)) seed.toNat ∧ r.1 = 0 then
    .next (({ s with prbs := tput s.prbs n r.2 0 } : State).wrb (LANE.PRBS_STAT.LOCK n) true)
  else .next s

/-- PRBS_CHECKER_BLOCK (R387): a block of 1,024 received bits compared while locked. -/
def execPrbsCheckerBlock (n : Fin 100) (bits : BitVec 1024) (s : State) : Host.Outcome State Fault Refusal :=
  let n := n.val
  let r := s.checked n (tget s.prbs n 0) bits
  if s.bit (LANE.PRBS_STAT.LOCK n) then
    let s : State := { s with prbs := tput s.prbs n r.2 0 }
    let s := (s.bump (LANE.PRBS_BLK_CNT n)).bump (LANE.PRBS_ERR_CNT n) r.1
    if 256 < r.1 then
      .next ((((s.checkerDrop n).wrb (LANE.PRBS_STAT.LOST n) true).bump (LANE.PRBS_LOSS_CNT n)).laneFlag n
        LANE.IRQ_STAT.PRBS_LOST)
    else .next s
  else .next s

/-- ELASTIC_BUFFER_SLIP (R385): the far loopback's buffer drops or repeats 64 symbols. -/
def execElasticBufferSlip (n : Fin 100) (s : State) : Host.Outcome State Fault Refusal :=
  if s.rd (LANE.CTL.LOOP n.val) = 2 then .next ((s.bump (LANE.SLIP_CNT n.val)).laneFlag n.val LANE.IRQ_STAT.SLIP)
  else .next s

/-- CONTINUOUS_ERROR_INJECTION (R388): 2^EXP bits have passed: one transmitted bit is inverted. -/
def execContinuousErrorInjection (n : Fin 100) (s : State) : Host.Outcome State Fault Refusal :=
  if s.bit (LANE.INJ_CTL.CONT n.val) ∧ s.rd (LANE.STAT.TX_STATE n.val) = 3 then .next (s.injected n.val) else .next s

end Sys2Proof.Machine
end

