-- ==== Sys2Proof/Machine/Clock.lean ====
section
/-! DEFINITION. The clock root, aligned domains, foreign lines, oscillators and coast (R77 to R101). -/

namespace Sys2Proof.Machine

/-- R453: source 885: coast, relock, reference loss. -/
def State.clkPulse (s : State) : State := s.srcPulse 885

/-- R78: the ready flag of a root reference: 0 REF, 1 REFB. -/
def refFlag (b : Nat) : Fld := if b = 0 then CLK.ROOT_STAT.REF_OK else CLK.ROOT_STAT.REFB_OK

/-- R78: the reference SRC selects is ready. -/
def State.srcReady (s : State) : Bool := s.bit (refFlag (s.rd CLK.ROOT_CTRL.SRC))

/-- R98: NOC cycles of one microsecond: the root divided by NOC's divider, half in coast. -/
def State.nocPerUs (s : State) : Nat := (if s.bit CLK.ROOT_STAT.COAST then 6000 else 12000) / s.rd (CLK.DIV.DIV_ACT 1)

/-- R93: record a refused switch. -/
def State.swErr (s : State) (target cause : Nat) : State :=
  ((s.wrb CLK.SW_ERR.VALID true).wr CLK.SW_ERR.TARGET target).wr CLK.SW_ERR.CAUSE cause

/-- R79: the ROM selects the source it waits for, once its 5 ms are over and another is ready. -/
def State.romSelect (s : State) : State :=
  let src := s.rd CLK.ROOT_CTRL.SRC
  if s.clk.waited && !s.bit CLK.ROOT_STAT.LOCK && !s.bit CLK.ROOT_STAT.COAST && !s.srcReady && s.bit (refFlag (1 - src)) then
    s.wr CLK.ROOT_CTRL.SRC (1 - src)
  else s

/-- REF_QUALIFIED (R78): a reference was good for 100 µs. The monitor stands still while IOSC does. -/
def execRefQualified (refb : Bool) (s : State) : Host.Outcome State Fault Refusal :=
  if !s.powered || s.pwr.held then .next s else .next ((s.wrb (refFlag refb.toNat) true).romSelect)

/-- R79: in BOOT, after the wait for REF, neither reference is ready: ROOT_NOREF goes to the SMBus port and the log. -/
def State.norefCheck (s : State) : State :=
  if s.clk.waited && s.mode == M.boot && !s.bit CLK.ROOT_STAT.LOCK && !s.bit CLK.ROOT_STAT.COAST
      && !s.bit CLK.ROOT_STAT.REF_OK && !s.bit CLK.ROOT_STAT.REFB_OK then
    ({ s with clk := { s.clk with noref := true } } : State).raiseAt [] EV.rootNoref 0xFF 0 []
  else s

/-- R97: coast entry: LOCK clears, COAST sets, the DRAM controllers start self-refresh entry. -/
def State.coastEntry (s : State) : State :=
  let s := (s.wrb CLK.ROOT_STAT.LOCK false).wrb CLK.ROOT_STAT.COAST true
  let s := (s.wrb CLK.ROOT_STAT.SLEWING false).bump CLK.COAST_CNT
  let s : State := { s with clk := { s.clk with switching := false, relocking := false, fell := false, told := false } }
  (s.dramCoast.coastFall).clkPulse

/-- REF_LOSS (R78, R97): the ready flag clears and is counted. The loss of the selected reference means coast from lock, in a
source switch and in a relock; of the one that is not selected, REF_STANDBY_LOSS. -/
def execRefLoss (refb : Bool) (s : State) : Host.Outcome State Fault Refusal :=
  let b := refb.toNat
  if !s.bit (refFlag b) then .next s
  else
    let s := (s.wrb (refFlag b) false).bump CLK.REFLOSS_CNT
    if s.rd CLK.ROOT_CTRL.SRC ≠ b then .next (s.norefCheck.clkPulse.raiseDev EV.refStandbyLoss b)
    else if s.bit CLK.ROOT_STAT.LOCK || s.clk.relocking then .next s.coastEntry
    else .next (s.romSelect.norefCheck).clkPulse

/-- COAST_SLEW_DONE (R97): the root is at 6.0 GHz. -/
def execCoastSlewDone (s : State) : Host.Outcome State Fault Refusal :=
  if s.bit CLK.ROOT_STAT.COAST ∧ s.clk.fell ∧ s.clk.relocking = false then .next (s.wrb CLK.ROOT_STAT.SLEWING false)
  else .next s

/-- R97: every host with an open session. -/
def State.openHosts (s : State) : List Nat := (List.range 4).filter fun h => (s.host h).sess.isSome

/-- ROOT_COAST_TIMER (R97): 50 µs into coast ROOT_COAST goes to every open session and to the log. -/
def execRootCoastTimer (s : State) : Host.Outcome State Fault Refusal :=
  if s.bit CLK.ROOT_STAT.COAST ∧ s.clk.told = false then
    .next (({ s with clk := { s.clk with told := true } } : State).raiseAt s.openHosts EV.rootCoast 0xFF 0 [])
  else .next s

/-- REF_WAIT_TIMEOUT (R79): REF was not ready within 5 ms: the ROM selects REFB; with no ready reference it reports
ROOT_NOREF to the SMBus port and the log. -/
def execRefWaitTimeout (s : State) : Host.Outcome State Fault Refusal :=
  if s.mode ≠ M.boot ∨ s.bit CLK.ROOT_STAT.LOCK ∨ s.bit CLK.ROOT_STAT.COAST ∨ s.bit CLK.ROOT_STAT.REF_OK ∨ s.clk.waited
  then .next s
  else
    let s := s.wr CLK.ROOT_CTRL.SRC 1
    .next ({ s with clk := { s.clk with waited := true } } : State).norefCheck

/-- ROOT_LOOP_LOCK (R79): the first lock: the loop locks to the ready source SRC selects. -/
def execRootLoopLock (s : State) : Host.Outcome State Fault Refusal :=
  if s.powered = false ∨ s.bit CLK.ROOT_STAT.LOCK ∨ s.bit CLK.ROOT_STAT.COAST ∨ s.srcReady = false then .next s
  else
    let s : State := { s with clk := { s.clk with noref := false, waited := false } }
    .next ((s.wrb CLK.ROOT_STAT.LOCK true).wr CLK.ROOT_STAT.SRC_ACT (s.rd CLK.ROOT_CTRL.SRC))

/-- R99: start to leave coast. -/
def State.relockStart (s : State) : State :=
  ({ s with clk := { s.clk with relocking := true } } : State).wrb CLK.ROOT_STAT.SLEWING true

/-- CLK.ROOT_CTRL (R80, R93, R99): a change of SRC needs the target's flag, RELOCK in coast the flag of the source SRC
selects; a refused write changes nothing but SW_ERR. -/
def State.rootCtrlWrite (s : State) (w : Word) : State × Bool :=
  let src := wget w 0 0
  let chg := decide (src ≠ s.rd CLK.ROOT_CTRL.SRC)
  let rel := wget w 6 6 == 1 && s.bit CLK.ROOT_STAT.COAST
  if (chg || rel) && !s.bit (refFlag src) then (s.swErr 0 1, false)
  else
    let s := (s.wr CLK.ROOT_CTRL.AUTO_RELOCK (wget w 7 7)).wr CLK.ROOT_CTRL.SRC src
    let s := if chg ∧ s.bit CLK.ROOT_STAT.LOCK then
        ({ s with clk := { s.clk with switching := true } } : State).wrb CLK.ROOT_STAT.SLEWING true else s
    (if rel then s.relockStart else s, true)

/-- ROOT_SWITCH_DONE (R80): the loop runs from the new source. -/
def execRootSwitchDone (s : State) : Host.Outcome State Fault Refusal :=
  if s.clk.switching then
    let s : State := { s with clk := { s.clk with switching := false } }
    .next ((s.wrb CLK.ROOT_STAT.SLEWING false).wr CLK.ROOT_STAT.SRC_ACT (s.rd CLK.ROOT_CTRL.SRC))
  else .next s

/-- AUTO_RELOCK_TIMER (R99): the selected source's flag was set for 1 ms and AUTO_RELOCK is set. -/
def execAutoRelockTimer (s : State) : Host.Outcome State Fault Refusal :=
  if s.bit CLK.ROOT_STAT.COAST ∧ s.bit CLK.ROOT_CTRL.AUTO_RELOCK ∧ s.srcReady ∧ s.clk.relocking = false then .next s.relockStart
  else .next s

/-- RELOCK_COMPLETE (R99): LOCK sets, COAST clears, the DRAM leaves self-refresh, and ROOT_RELOCK is raised. -/
def execRelockComplete (s : State) : Host.Outcome State Fault Refusal :=
  if s.clk.relocking ∧ s.srcReady then
    let s : State := { s with clk := { s.clk with relocking := false, fell := false } }
    let s := ((s.wrb CLK.ROOT_STAT.LOCK true).wrb CLK.ROOT_STAT.COAST false).wrb CLK.ROOT_STAT.SLEWING false
    let s := s.wr CLK.ROOT_STAT.SRC_ACT (s.rd CLK.ROOT_CTRL.SRC)
    .next ((s.dramRelock.raiseDev EV.rootRelock).clkPulse)
  else .next s

/-! Dividers (R81 to R84). -/

/-- R82: the smallest FAB divider of a speed grade. -/
def fabMin : Grade → Nat
  | .g1 => 15
  | .g2 => 12
  | .g3 => 10

/-- R82: the dividers software can choose for a domain. -/
def divAllowed (d v : Nat) : Bool := match d with
  | 0 => [5, 6, 8, 10, 12, 15, 16, 20, 24, 30, 40, 48, 60].contains v
  | 1 => [8, 10, 12, 15, 16, 20, 24, 30].contains v
  | 2 => v == 10
  | 3 => v == 10
  | 4 => [3, 4, 5].contains v
  | 5 => false
  | 6 => v == 30
  | 7 => v == 60
  | _ => [10, 12, 15, 16, 20, 24, 30, 40, 48, 60, 80, 120, 240].contains v && decide (fabMin Config.grade ≤ v)

/-- CLK.DIV (R83, R93, R367): the requested divider, or a refusal with its cause. -/
def State.divWrite (s : State) (d : Nat) (w : Word) : State × Bool :=
  let v := wget w 7 0
  if d = 5 then (s.swErr (d + 1) 5, false)
  else if !divAllowed d v then (s.swErr (d + 1) 2, false)
  else if d = 4 ∧ v ≠ s.rd (CLK.DIV.DIV 4) ∧ !s.allChans [DS.uninit, DS.fail, DS.selfRefresh, DS.absent] then (s.swErr 5 3, false)
  else
    let s := s.wr (CLK.DIV.DIV d) v
    (if d = 4 then s.wr (CLK.DIV.DIV 5) (4 * v) else s, true)

/-- DIVIDER_TAKES_EFFECT (R83): at an epoch boundary every requested divider takes effect. -/
def execDividerTakesEffect (s : State) : Host.Outcome State Fault Refusal :=
  .next ((List.range 16).foldl (fun s d => s.wr (CLK.DIV.DIV_ACT d) (s.rd (CLK.DIV.DIV d))) s)

/-! Foreign lines and oscillators (R91 to R93). -/

/-- R91: a source code exists. -/
def fclCode (c : Nat) : Bool :=
  decide (c ≤ 6) || (decide (0x10 ≤ c) && decide (c ≤ 0x1F)) || (decide (0x20 ≤ c) && decide (c ≤ 0x27))
    || (decide (0x30 ≤ c) && decide (c ≤ 0x33)) || c == 0x38

/-- R91: the lane a source code names in a quadrant. -/
def fclLane (q c : Nat) : Nat := if c < 0x20 then 16 * q + (c - 0x10) else 64 + 8 * q + (c - 0x20)

/-- R91: the HIO bank of a pin code, and whether its VCCIO is inside the window of its RANGE. -/
def pinBank (q c : Nat) : Nat := 3 * q + (c - 1) / 2
def State.pinWin (s : State) (q c : Nat) : Bool := hioWin (s.rd (HIO.BANK_CTL.RANGE (pinBank q c))) (s.hio (pinBank q c)).mv

/-- R91: the ready flag of a source; `edge`: an edge has come on the pin within the last 2 µs, for a pin. -/
def State.fclReady (s : State) (q c : Nat) (edge : Bool) : Bool :=
  if c = 0 then true
  else if c ≤ 6 then edge && s.pinWin q c
  else if c < 0x28 then s.rd (LANE.STAT.RX_STATE (fclLane q c)) == 5
  else if c < 0x34 then s.bit (CLK.OSC.READY (c - 0x30))
  else s.bit TIME.TCLK_STAT.TREF_OK

/-- CLK.FCL (R92, R93): start a switch of a foreign line, or refuse it. Whether an edge came on a pin within 2 µs is a
free value. -/
def State.fclWrite (s : State) (q l : Nat) (w : Word) : State × Bool :=
  let c := wget w 7 0
  let t := 0x20 + 8 * q + l
  if !fclCode c then (s.swErr t 4, false)
  else if c = s.rd (CLK.FCL.SRC q l) then (s, true)
  else
    let r := if 1 ≤ c ∧ c ≤ 6 then s.fresh else (0, s)
    let s := r.2
    if !s.fclReady q c (Config.freeBit r.1) then (s.swErr t 1, false)
    else ((s.wr (CLK.FCL.SRC q l) c).wrb (CLK.FCL.SWITCHING q l) true, true)

/-- FOREIGN_LINE_SWITCH_DONE (R92): the line follows its new source. -/
def execForeignLineSwitchDone (q : Fin 4) (l : Fin 8) (s : State) : Host.Outcome State Fault Refusal :=
  if s.bit (CLK.FCL.SWITCHING q.val l.val) then
    let s := (s.wrb (CLK.FCL.SWITCHING q.val l.val) false).wr (CLK.FCL.SRC_ACT q.val l.val) (s.rd (CLK.FCL.SRC q.val l.val))
    .next (s.wrb (CLK.FCL.READY q.val l.val) true)
  else .next s

/-- CLK.FCL as it reads: READY is the flag of the source in SRC_ACT. -/
def State.fclWord (s : State) (q l : Nat) : Word :=
  wset (s.reg (CLK.FCL.SRC q l).off) 31 31
    (s.fclReady q (s.rd (CLK.FCL.SRC_ACT q l)) (s.bit (CLK.FCL.READY q l))).toNat

/-- R91: the flag of a pin that lost its edges returns with the next one; the table has no row for that edge, so a read finds
it returned or not, a free value (notes/assumptions/2.md). -/
def State.fclRead (s : State) (q l : Nat) : Word × State :=
  let c := s.rd (CLK.FCL.SRC_ACT q l)
  if decide (1 ≤ c ∧ c ≤ 6) && !s.bit (CLK.FCL.READY q l) then
    let r := s.fresh
    let s := r.2.wrb (CLK.FCL.READY q l) (Config.freeBit r.1)
    (s.fclWord q l, s)
  else (s.fclWord q l, s)

/-- FOREIGN_SOURCE_LOSS (R92): the source in effect lost its flag: READY drops, and FCL_LOSS goes to the owner of every
vat whose image uses the line. -/
def execForeignSourceLoss (q : Fin 4) (l : Fin 8) (vats : BitVec 16) (s : State) : Host.Outcome State Fault Refusal :=
  let c := s.rd (CLK.FCL.SRC_ACT q.val l.val)
  if c = 0 ∨ (6 < c ∧ s.fclReady q.val c false) then .next s
  else
    let hs := ((List.range 16).filter fun v => vats.getLsbD v).map fun v => s.ownerOf v
    .next ((s.wrb (CLK.FCL.READY q.val l.val) false).raiseAt hs EV.fclLoss 0xFF (8 * q.val + l.val) [c])

/-- CLK.OSC (R93): FREQ 1 to 16; the oscillator settles again after EN or FREQ changes. -/
def State.oscWrite (s : State) (n : Nat) (w : Word) : State × Bool :=
  let f := wget w 7 0
  let en := wget w 8 8
  if f = 0 ∨ 16 < f then (s.swErr (0x40 + n) 2, false)
  else
    let chg := decide (en ≠ s.rd (CLK.OSC.EN n)) || decide (f ≠ s.rd (CLK.OSC.FREQ n))
    let s := (s.wr (CLK.OSC.EN n) en).wr (CLK.OSC.FREQ n) f
    (if chg then s.wrb (CLK.OSC.READY n) false else s, true)

/-- OSC_SETTLED (R93): an enabled oscillator has settled. -/
def execOscSettled (n : Fin 4) (s : State) : Host.Outcome State Fault Refusal :=
  if s.bit (CLK.OSC.EN n.val) then .next (s.wrb (CLK.OSC.READY n.val) true) else .next s

/-- XO32_LOSS (R100, R101). -/
def execXo32Loss (s : State) : Host.Outcome State Fault Refusal := .next (s.wrb CLK.ROOT_STAT.XO32_OK false)

/-- XO32_RETURN (R100). -/
def execXo32Return (s : State) : Host.Outcome State Fault Refusal := .next (s.wrb CLK.ROOT_STAT.XO32_OK true)

end Sys2Proof.Machine
end

