-- ==== Sys2Proof/Machine/Nets.lean ====
section
/-! DEFINITION. The nets of the fabric: segments (R102, R103), the multiplexers of the tile switch boxes (R105, R106), wire
register sites (R107 to R109), logic elements and carry chains (R45 to R53), Rind cells (R118, R121), hard-column ports
(R104), and the value each net carries. The database's choices come from Config; nets driven from outside the state (NoC
and vat interfaces, pins) are an operand. -/

namespace Sys2Proof.Machine

/-! Tiles. -/

/-- The three logic-and-routing frames of a tile (R201). -/
def State.tileFrames (s : State) (g : Nat) : List Frame :=
  (List.range 3).map fun k => s.liveFrame (sectorFrame (tileSector g) (3 * (g % 256) + k))

/-- R69, R201: the memory frame of a tile. -/
def memFrame (g : Nat) : Nat := sectorFrame (tileSector g) (768 + g % 256)

/-- The quadrant of a tile. -/
def tileQuad (g : Nat) : Nat := sectorFrame (tileSector g) 0 / 65536

/-- R269: a tile lies in a rectangle (X0, X1, Y0, Y1). -/
def inRect (r : Nat × Nat × Nat × Nat) (x y : Nat) : Bool :=
  decide (r.1 ≤ x ∧ x ≤ r.2.1 ∧ r.2.2.1 ≤ y ∧ y ≤ r.2.2.2)

/-- R271: the held module region a tile lies in. -/
def State.modRegion (s : State) (g : Nat) : Option ModLoad :=
  s.cfg.mods.find? fun m => decide (2 ≤ m.phase) && inRect m.rect (tileX g) (tileY g)

/-- R271: the tile lies in a module region that is held. -/
def State.regionHeld (s : State) (g : Nat) : Bool := (s.modRegion g).isSome

/-- R59: the flip-flops of a tile are held at INIT: its vat or its module region is in reset, or no image runs there. -/
def State.tileHeld (s : State) (g : Nat) : Bool :=
  let v := s.vatOfSector (tileSector g)
  !s.running || decide (16 ≤ v) || s.bit (VAT.VAT_STAT.IN_RESET v) || s.regionHeld g

/-! Segments. A segment is numbered 120 × start tile + 30 × direction + j: direction 0 north, 1 south, 2 east, 3 west;
j 0 to 15 of length 1, 16 to 27 of length 4, 28 and 29 of length 16. -/

/-- R102: the length of a segment. -/
def segLen (n : Nat) : Nat := if n % 30 < 16 then 1 else if n % 30 < 28 then 4 else 16

/-- R102: the tile a segment starts in. -/
def segStart (n : Nat) : Nat := n / 120

/-- R102, R103: the tile a segment ends in; a span that would leave the array ends at its last tile. -/
def segEnd (n : Nat) : Nat :=
  let g := segStart n
  let x := tileX g
  let y := tileY g
  let l := segLen n
  let t := match n % 120 / 30 with
    | 0 => tileAt x ((min 223 (y + l) : Nat) : Int)
    | 1 => tileAt x ((y - l : Nat) : Int)
    | 2 => tileAt ((min 255 (x + l) : Nat) : Int) y
    | _ => tileAt ((x - l : Nat) : Int) y
  t.getD g

/-- The segments that end in a tile. -/
def segsInto (g : Nat) : List Nat :=
  (List.range 120).flatMap fun k => (List.range (segLen k + 1)).filterMap fun i =>
    let x := tileX g
    let y := tileY g
    let t := match k / 30 with
      | 0 => tileAt x ((y : Int) - i)
      | 1 => tileAt x ((y : Int) + i)
      | 2 => tileAt ((x : Int) - i) y
      | _ => tileAt ((x : Int) + i) y
    t.bind fun t => if segEnd (120 * t + k) = g then some (120 * t + k) else none

/-! Clock lines. -/

/-- R88: a line is foreign. -/
def foreignLine (l : Option (Fin 16)) : Bool := match l with
  | some l => decide (8 ≤ l.val)
  | none => false

/-- R60: where the release synchronisers stand: of a cluster, of RCK0 and RCK1 of a tile, of a slice, of a port of a BM36. -/
def syncCluster (g c : Nat) : Nat := 8 * g + c
def syncRck (g k : Nat) : Nat := 458752 + 2 * g + k
def syncSlice (i : Nat) : Nat := 573440 + i
def syncBm (b : Nat) (pb : Bool) : Nat := 584192 + 2 * b + pb.toNat

/-- R60: what runs on a foreign line has not yet left reset: it leaves it on the second or third edge after its release. -/
def State.inSync (s : State) (key : Nat) (l : Option (Fin 16)) : Bool := foreignLine l && tget s.fab.sync key 0 != 3

/-! Flip-flops and wire registers. -/

/-- The configuration of flip-flop i (2 × LE + k) of a cluster. -/
def ffOf (k : ClusterCfg) (i : Nat) : FfCfg := let le := k.les.getD (i / 2) default; if i % 2 = 0 then le.ff0 else le.ff1

/-- R55 to R60: the output of flip-flop i (2 × LE + k) of a cluster: INIT while its cluster is in reset, SRVAL while an
asynchronous SR it obeys is 1, otherwise what it holds, INIT where it has taken nothing. -/
def State.ffQ (s : State) (g c i : Nat) : Bool :=
  let k := Config.cluster (s.tileFrames g) c
  let f := ffOf k i
  if s.tileHeld g || s.inSync (syncCluster g c) k.clk then f.ini
  else if f.used && f.obeySr && k.srAsync && k.srRouted && tget s.fab.asr (8 * g + c) false then f.srval
  else (tget s.fab.ff (32 * (8 * g + c) + i) none).getD f.ini

/-- The wire register site of a segment, as its end tile configures it. -/
def State.siteCfg (s : State) (n : Nat) : SiteCfg := Config.site (s.tileFrames (segEnd n)) n

/-- R107, R108: the output of a wire register: INIT while it is held. -/
def State.wireQ (s : State) (n : Nat) : Bool :=
  let g := segEnd n
  let c := s.siteCfg n
  let k := c.mode.val - 1
  if s.tileHeld g || s.inSync (syncRck g k) (Config.rck (s.tileFrames g) k).clk then c.ini
  else (tget s.fab.wire n none).getD c.ini

/-! Logic elements. -/

/-- Bit l of input k of the LE inputs. -/
def leIn (x : BitVec 112) (l k : Nat) : Bool := x.getLsbD (7 * l + k)

/-- R46: the number that the inputs A to F select. -/
def leAddr (x : BitVec 112) (l n : Nat) : Nat := (x >>> (7 * l)).toNat % 2 ^ n

/-- R69: where mask bit b of LE l of memory cluster 6 + m stands in the memory frame (notes/assumptions/21.md). -/
def maskAt (m l b : Nat) : Nat := 1024 * m + 64 * l + b

/-- The mask of LE l of memory cluster 6 + m in a memory frame. -/
def memMask (f : Frame) (m l : Nat) : BitVec 64 :=
  (List.range 64).foldl (fun a b => if f.getLsbD (maskAt m l b) then a ||| (1#64 <<< b) else a) 0

/-- Put a mask into the memory frame. -/
def setMemMask (f : Frame) (m l : Nat) (w : BitVec 64) : Frame :=
  (List.range 64).foldl (fun f b =>
    let bit : Frame := 1#2072 <<< maskAt m l b
    if w.getLsbD b then f ||| bit else f &&& ~~~ bit) f

/-- R46, R579: mode and mask of LE l of cluster c of a tile as the live latches hold them. -/
def State.leMode (s : State) (g c l : Nat) (k : LeCfg) : Nat :=
  if 6 ≤ c then memMode (s.liveFrame (sectorFrame (tileSector g) (3 * (g % 256) + 2))) (c - 6) l else k.mode.val
def State.leMask (s : State) (g c l : Nat) (k : LeCfg) : BitVec 64 :=
  if 6 ≤ c then memMask (s.liveFrame (memFrame g)) (c - 6) l else k.mask

/-- R50: sums and carry out of an LE in ARITH mode. -/
def arith (mask : BitVec 64) (x : BitVec 112) (l : Nat) (ci : Bool) : Bool × Bool × Bool :=
  let fc := 8 * (leIn x l 5).toNat + 4 * (leIn x l 2).toNat
  let lo := fc + 2 * (leIn x l 1).toNat + (leIn x l 0).toNat
  let hi := fc + 2 * (leIn x l 4).toNat + (leIn x l 3).toNat
  let p0 := mask.getLsbD lo
  let p1 := mask.getLsbD (32 + hi)
  let c1 := if p0 then ci else mask.getLsbD (16 + lo)
  (p0 ^^ ci, p1 ^^ c1, if p1 then c1 else mask.getLsbD (48 + hi))

/-- The modes and masks of a cluster's 16 LEs, with their configuration. -/
def State.clusterLes (s : State) (g c : Nat) (k : ClusterCfg) : List (Nat × BitVec 64 × LeCfg) :=
  (List.range 16).map fun l =>
    let le := k.les.getD l default
    (s.leMode g c l le, s.leMask g c l le, le)

/-- R50, R51: the carry into each LE, from LE l on, and at the end the carry out of the last. -/
def carries (x : BitVec 112) : List (Nat × BitVec 64 × LeCfg) → Nat → Bool → List Bool
  | [], _, ci => [ci]
  | (m, w, _) :: t, l, ci => ci :: carries x t (l + 1) (if m = 2 then (arith w x l ci).2.2 else ci)

/-- R46: LO0 and LO1 of an LE before MUX7 and MUX8. -/
def leOut (x : BitVec 112) (l : Nat) (m : Nat) (w : BitVec 64) (ci : Bool) : Bool × Bool :=
  match m with
  | 1 => (w.getLsbD (leAddr x l 5), w.getLsbD (32 + leAddr x l 5))
  | 2 => let r := arith w x l ci; (r.1, r.2.1)
  | 3 => (w.getLsbD (leAddr x l 6), false)
  | 4 => (w.getLsbD (leAddr x l 5), w.getLsbD (32 + leAddr x l 5))
  | 5 => (w.getLsbD (leAddr x l 6), w.getLsbD 63)
  | _ => (w.getLsbD (leAddr x l 6), false)

/-- R48: LO0 and LO1 of every LE of a cluster. -/
def clusterOut (x : BitVec 112) (les : List (Nat × BitVec 64 × LeCfg)) (cin : Bool) : List (Bool × Bool) :=
  let cs := carries x les 0 cin
  let base := (les.zip cs).zipIdx.map fun p => leOut x p.2 p.1.1.1 p.1.1.2.1 p.1.2
  let u6 := fun i => (base.getD i default).1
  let mux7 := fun i => if leIn x i 6 then u6 (i + 1) else u6 i
  les.zipIdx.map fun p =>
    let l := p.2
    let o := base.getD l default
    if l % 2 = 0 ∧ p.1.2.2.mux7 then (mux7 l, o.2)
    else if l % 4 = 1 ∧ p.1.2.2.mux8 then (if leIn x l 6 then mux7 (l + 1) else mux7 (l - 1), o.2)
    else o

/-! Hard-column blocks. A block is numbered: BM36 b, DM 13,440 + p, slice 13,552 + g; higher numbers are interfaces outside
the state. -/

def portBm (b : Nat) : Nat := b
def portDm (p : Nat) : Nat := 13440 + p
def portSlice (g : Nat) : Nat := 13552 + g

/-- R43: the sector of a block, and the tile column just west of its column within the sector (a DM stands east of column
15 of its even sector). -/
def blockCol (key : Nat) : Nat × Nat :=
  if key < 13440 then (key / 60, 4 * (key % 60 / 20) + 3)
  else if key < 13552 then (2 * (key - 13440), 15)
  else let g := key - 13552; (g / 48, 4 * (g % 48 / 24) + 5)

/-- R43, R104: the first of the tile rows beside a block and how many there are: the blocks of a column stand evenly over
its 16 tile rows (notes/assumptions/81.md). -/
def blockRows (key : Nat) : Nat × Nat :=
  let span := fun (j n : Nat) => (16 * j / n, (16 * j + 15) / n - 16 * j / n + 1)
  if key < 13440 then span (key % 20) 20
  else if key < 13552 then (0, 16)
  else span ((key - 13552) % 24) 24

/-- The tile east or west of a block in one of the rows beside it. -/
def besideTile (key : Nat) (east : Bool) (row : Nat) : Nat :=
  let (sec, col) := blockCol key
  let r := (blockRows key).1 + row % (blockRows key).2
  if !east then 256 * sec + 16 * r + col
  else if col = 15 then 256 * (sec + 1) + 16 * r
  else 256 * sec + 16 * r + col + 1

/-- R104: the tile that serves a signal of a block's port. -/
def portTile (key sig : Nat) : Nat := let (east, row) := Config.portAt key sig; besideTile key east row

/-- R104: a tile lies beside a block. -/
def beside (g key : Nat) : Bool :=
  [false, true].any fun east => (List.range (blockRows key).2).any fun row => besideTile key east row == g

/-- R190: the configuration engine has disconnected the east side of a DM whose two sectors belong to different vats. -/
def State.dmEastCut (s : State) (key g : Nat) : Bool :=
  decide (13440 ≤ key ∧ key < 13552)
    && s.vatOfSector (2 * (key - 13440)) != s.vatOfSector (2 * (key - 13440) + 1) && decide (tileSector g % 2 = 1)

def State.slice (s : State) (g : Nat) : SliceSt := tget s.slc.s g {}
def State.setSlice (s : State) (g : Nat) (x : SliceSt) : State := { s with slc := { s.slc with s := tput s.slc.s g x {} } }

/-- R127: the configuration of a slice, as the live latches hold it. -/
def State.sliceCfg (s : State) (g : Nat) : SliceCfg := tget s.slc.cfg g {}

/-- R127, R158, R60: the slice is held: its vat is in reset, no image runs, its clock is off, or its foreign clock has not
yet passed the release. -/
def State.sliceHeld (s : State) (g : Nat) : Bool :=
  let v := s.vatOfSector (sectorOfSlice g)
  !s.running || decide (16 ≤ v) || s.bit (VAT.VAT_STAT.IN_RESET v) || (s.sliceCfg g).clkOff
    || s.inSync (syncSlice g) (s.sliceCfg g).clk

/-- R126, R155, R156, R158: an output of a slice: X_READY 0, Y 1 on, Y_VALID 65, Y_POISON 66, P_RD 67 on, P_GNT 103,
P_POISON 104, P_COLLIDE 105, FO 106 on, DONE 110, ERR 111. -/
def State.sliceOut (s : State) (g sig : Nat) : Bool :=
  if s.sliceHeld g then false
  else
    let x := s.slice g
    let y := x.y.headD (0, false)
    let p := x.pRd.getD (0, false)
    if sig = 0 then x.st != 4 && decide (x.x.length < 2)
    else if sig ≤ 64 then y.1.getLsbD (sig - 1)
    else if sig = 65 then !x.y.isEmpty
    else if sig = 66 then y.2
    else if sig ≤ 102 then p.1.getLsbD (sig - 67)
    else if sig = 103 then x.pGnt
    else if sig = 104 then p.2
    else if sig = 105 then x.pColl
    else if sig ≤ 109 then x.fo.testBit (sig - 106)
    else if sig = 110 then x.st == 3
    else x.st == 5

/-- R18, R164: the sector whose vat a memory belongs to. -/
def memSector (dm : Bool) (i : Nat) : Nat := if dm then 2 * i else i / 60

def State.arr (s : State) (dm : Bool) (i : Nat) : MArr := if dm then tget s.mem.dmA i {} else tget s.mem.bmA i {}
def State.setArr (s : State) (dm : Bool) (i : Nat) (x : MArr) : State :=
  { s with mem := if dm then { s.mem with dmA := tput s.mem.dmA i x {} } else { s.mem with bmA := tput s.mem.bmA i x {} } }

/-- R186, R197: the fabric ports of a memory take nothing: its vat is held, no image runs, or it is under self-test. -/
def State.memHeld (s : State) (dm : Bool) (i : Nat) : Bool :=
  let v := s.vatOfSector (memSector dm i)
  !s.running || decide (16 ≤ v) || s.bit (VAT.VAT_STAT.IN_RESET v) || s.mem.test.contains (dm, i)

/-- R167, R186: a port of a BM36 works: it has a clock, and neither its memory nor its release synchroniser holds it. -/
def State.bmLive (s : State) (b : Nat) (pb : Bool) : Bool :=
  let c := (tget s.mem.bmCfg b {}).clk pb
  c.isSome && !s.memHeld false b && !s.inSync (syncBm b pb) c

/-- R166, R186: a port of a DM works. -/
def State.dmLive (s : State) (p : Nat) (pb : Bool) : Bool :=
  let c := tget s.mem.dmCfg p {}
  (if pb then c.fabB else c.fabA).isSome && !s.memHeld true p

/-- R170: the results a port shows: through the output register where REG_OUT says so. -/
def State.portOuts (s : State) (dm : Bool) (i : Nat) (pb : Bool) : MOut :=
  let x := s.arr dm i
  let c := tget s.mem.bmCfg i {}
  if !dm && (if pb then c.regB else c.regA) then (if pb then x.regB else x.regA) else if pb then x.outB else x.outA

/-- R167, R170, R186, R190: an output of a memory port (B from 128 on): READY 0, RD 1 on, POISON 73, SBE 74, COLLIDE 75,
RVALID 76. -/
def State.memOut (s : State) (dm : Bool) (i sig : Nat) : Bool :=
  let pb := decide (128 ≤ sig)
  let k := sig % 128
  if !(if dm then s.dmLive i pb else s.bmLive i pb) then false
  else
    let x := s.arr dm i
    let o := s.portOuts dm i pb
    if k = 0 then
      !((x.merges.any fun m => m.pb == pb) || (x.defs.any fun m => m.pb == pb)
        || (!dm && !(tget s.mem.bmCfg i {}).oneClk && x.busy.contains pb))
    else if k ≤ 72 then o.rd.getLsbD (k - 1)
    else if k = 73 then o.poison
    else if k = 74 then o.sbe
    else if k = 75 then pb && x.collide
    else o.valid && dm

/-- R105, R428: an output of a hard-column port, a bit of TIME_NOW of a vat (24304 + v), or an output of an interface outside the
state: those listed are 1. -/
def State.portOut (s : State) (ext : List (Nat × Nat)) (key sig : Nat) : Bool :=
  if key < 13440 then s.memOut false key sig
  else if key < 13552 then s.memOut true (key - 13440) sig
  else if key < 24304 then s.sliceOut (key - 13552) sig
  else if key < 24320 then (tget s.time.nowReg (key - 24304) 0).testBit sig
  else ext.contains (key, sig)

/-! The values of the nets. -/

/-- A net: an output of an LE (global cluster, LE, k), the carry out of a cluster's LE 15, and what drives a segment at its
start. -/
inductive Net where
  | out (cl le k : Nat)
  | co (cl : Nat)
  | seg (n : Nat)
deriving DecidableEq, Repr

def Net.code : Net → Nat
  | .out cl le k => 3 * (64 * cl + 4 * le + k)
  | .co cl => 3 * cl + 1
  | .seg n => 3 * n + 2

/-- R118, R121, R122, R255, R259: what arrives at the end of a segment: nothing where a vat border disconnects it, the
clamp value of the Rind cell where the sender is clamped (hold: what the segment carried when the clamp was asserted),
otherwise what drives it. -/
def State.arrives (s : State) (f : Net → Bool) (held : Nat → Net → Bool) (n : Nat) : Bool :=
  let g := segEnd n
  let a := s.vatOfSector (tileSector (segStart n))
  let b := s.vatOfSector (tileSector g)
  if a = b then f (.seg n)
  else if segLen n ≠ 4 ∨ 16 ≤ a then false
  else if s.clamped a then
    match (Config.rind ((List.range 512).map fun k => s.liveFrame (shellFrame (tileQuad g) k)) n).toNat with
    | 0 => false
    | 1 => true
    | _ => held a (.seg n)
  else f (.seg n)

/-- R107, R109: what a segment gives the switch box of its end tile: what its wire register holds, or, in BYPASS and at
length 1, what arrives. -/
def State.segOut (s : State) (f : Net → Bool) (held : Nat → Net → Bool) (n : Nat) : Bool :=
  if segLen n ≠ 1 ∧ (s.siteCfg n).mode.val ≠ 0 then s.wireQ n else s.arrives f held n

/-- What a source of a tile's switch box carries. -/
def State.source (s : State) (ext : List (Nat × Nat)) (f : Net → Bool) (held : Nat → Net → Bool) (g : Nat) : FabSrc → Bool
  | .out c le k => f (.out (8 * g + c) le k)
  | .cxo c => f (.co (8 * g + c))
  | .seg n => s.segOut f held n
  | .port key sig => !s.dmEastCut key g && s.portOut ext key sig

/-- R105: a segment ends in the tile. -/
def endsIn (g n : Nat) : Bool := decide (n < 6881280) && segEnd n == g

/-- R105: the sources a destination of the tile can select: the start of a segment; a LUT input of a cluster, with local
feedback; another input of a cluster; RCE or a hard-column port. -/
def segMay (g : Nat) : FabSrc → Bool
  | .seg n => endsIn g n
  | .port key _ => decide (24304 ≤ key) || beside g key
  | _ => true
def lutMay (g c : Nat) : FabSrc → Bool
  | .seg n => endsIn g n
  | .out d _ _ => d.val == c
  | _ => false
def ctlMay (g : Nat) : FabSrc → Bool
  | .seg n => endsIn g n
  | _ => false
def rceMay (g : Nat) : FabSrc → Bool
  | .seg n => endsIn g n
  | .out .. => true
  | _ => false

/-- R105: input i of a cluster, as Config.inSrc numbers the inputs; open where it selects no source (draw d). -/
def State.clusterIn (s : State) (ext : List (Nat × Nat)) (d : Nat) (f : Net → Bool) (held : Nat → Net → Bool) (g c i : Nat) :
    Bool :=
  match Config.inSrc (s.tileFrames g) c i with
  | some src =>
    if (if i < 112 ∧ i % 7 ≠ 6 then lutMay g c src else ctlMay g src) then s.source ext f held g src
    else Config.openNet d (3 * (128 * (8 * g + c) + i))
  | none => Config.openNet d (3 * (128 * (8 * g + c) + i))

/-- The inputs of the 16 LEs of a cluster: LE l at bits 7l on. -/
def State.clusterX (s : State) (ext : List (Nat × Nat)) (d : Nat) (f : Net → Bool) (held : Nat → Net → Bool) (g c : Nat) :
    BitVec 112 :=
  (List.range 112).foldl (fun x i => if s.clusterIn ext d f held g c i then x ||| (1#112 <<< i) else x) 0

/-- R51 to R53, R76: the carry into LE 0 of a cluster. -/
def State.cinNet (s : State) (ext : List (Nat × Nat)) (d : Nat) (f : Net → Bool) (held : Nat → Net → Bool) (g c : Nat)
    (k : ClusterCfg) : Bool :=
  match k.cxSel.val with
  | 0 =>
    if c ≠ 0 then f (.co (8 * g + c - 1))
    else if g % 256 < 16 then false
    else if s.regionHeld (g - 16) && s.modRegion g != s.modRegion (g - 16) then false
    else f (.co (8 * (g - 16) + 7))
  | 1 => false
  | 2 => true
  | _ => s.clusterIn ext d f held g c 114

/-- One step of the values of the nets, from what the nets that drive them carry. -/
def State.netStep (s : State) (ext : List (Nat × Nat)) (d : Nat) (f : Net → Bool) (held : Nat → Net → Bool) : Net → Bool
  | .seg n =>
    let g := segStart n
    if s.regionHeld g then false
    else match Config.segSrc (s.tileFrames g) (n % 120) with
      | some src => if segMay g src then s.source ext f held g src else false
      | none => false
  | .co cl =>
    let g := cl / 8
    let c := cl % 8
    let k := Config.cluster (s.tileFrames g) c
    (carries (s.clusterX ext d f held g c) (s.clusterLes g c k) 0 (s.cinNet ext d f held g c k)).getD 16 false
  | .out cl le k =>
    let g := cl / 8
    let c := cl % 8
    if 2 ≤ k then s.ffQ g c (2 * le + (k - 2))
    else
      let q := Config.cluster (s.tileFrames g) c
      let o := (clusterOut (s.clusterX ext d f held g c) (s.clusterLes g c q) (s.cinNet ext d f held g c q)).getD le default
      if k = 0 then o.1 else o.2

/-- R259: the fabric as it stood when the Rind of a vat was clamped. -/
def State.beforeClamp (s : State) (v : Nat) : State := match tget s.fab.snap v none with
  | none => s
  | some p =>
    { s with
      regs := p.regs
      cfg := { s.cfg with live := p.live, mods := p.mods }
      fab := { s.fab with ff := p.ff, wire := p.wire, asr := p.asr, sync := p.sync, snap := tput s.fab.snap v none none } }

/-- The value a net carries, with so many nets between it and what drives it; a loop without a register in it has an open
value (R58, draw d). -/
def State.netsAt (ext : List (Nat × Nat)) (d : Nat) : Nat → State → Net → Bool
  | 0, _, n => Config.openNet d (3 * n.code + 1)
  | k + 1, s, n => s.netStep ext d (fun m => netsAt ext d k s m) (fun v m => netsAt ext d k (s.beforeClamp v) m) n

/-- More than there are nets in the fabric. -/
def netDepth : Nat := 2 ^ 26

/-- R105, R106: the value of a net. -/
@[irreducible] def State.net (s : State) (ext : List (Nat × Nat)) (d : Nat) (n : Net) : Bool := State.netsAt ext d netDepth s n

/-- The value of a net when the Rind of a vat was clamped. -/
@[irreducible] def State.netHeld (s : State) (ext : List (Nat × Nat)) (d v : Nat) (n : Net) : Bool :=
  State.netsAt ext d netDepth (s.beforeClamp v) n

/-! Inputs of hard-column ports. -/

/-- R122, R129, R190: a signal of a port reads 0: the tile that serves it lies in a held region, or is disconnected. -/
def State.portCut (s : State) (key sig : Nat) : Bool := s.regionHeld (portTile key sig) || s.dmEastCut key (portTile key sig)

/-- R104, R105: what a signal of a port takes from the tile that serves it; open where it selects no source. -/
def State.portIn (s : State) (ext : List (Nat × Nat)) (d key sig : Nat) : Bool :=
  let g := portTile key sig
  match Config.portSrc (s.tileFrames g) key sig with
  | some src =>
    if rceMay g src then s.source ext (s.net ext d) (s.netHeld ext d) g src
    else Config.openNet d (3 * (512 * key + sig) + 2)
  | none => Config.openNet d (3 * (512 * key + sig) + 2)

/-- What a port sees on a signal: what its command says the switch boxes drive, or what the nets carry. -/
def State.sees (s : State) (src : PortSrc) (d key sig : Nat) (v : Bool) : Bool :=
  !s.portCut key sig && (match src with
    | .given => v
    | .routed ext => s.portIn ext d key sig)

/-- What a port sees on a bus from a signal on. -/
def State.seesBus {n : Nat} (s : State) (src : PortSrc) (d key sig : Nat) (w : BitVec n) : BitVec n :=
  (List.range n).foldl (fun a i =>
    if s.sees src d key (sig + i) (w.getLsbD i) then a ||| (1#n <<< i) else a &&& ~~~ (1#n <<< i)) w

/-- A draw for the open values of a port's inputs, where its command leaves them to the nets. -/
def State.drawFor (s : State) : PortSrc → Nat × State
  | .given => (0, s)
  | .routed _ => s.fresh

end Sys2Proof.Machine
end

