-- ==== Sys2Proof/Machine/Fabric.lean ====
section
/-! DEFINITION. Clocked fabric: flip-flops, distributed RAM and shift registers, wire registers at the active edges of clock
lines (R54 to R71, R107 to R110). All registers take what their nets carried before the edge. -/

namespace Sys2Proof.Machine

/-! Clock edges. -/

/-- Bit of a clock line in an edge mask: FAB0 to FAB7, then the foreign lines of quadrants 0 to 3, eight each. -/
def lineBit (q : Nat) (l : Fin 16) : Nat := if l.val < 8 then l.val else 8 * q + l.val

/-- A line selected in a quadrant has an edge of the polarity asked for. -/
def edgeOn (e : FabEdge) (q : Nat) (l : Option (Fin 16)) (falling : Bool) : Bool := match l with
  | some l => (if falling then e.fall else e.rise).getLsbD (lineBit q l)
  | none => false

/-- What holds the release of the unit of a synchroniser, its line, its polarity, and its quadrant. -/
def State.syncUnit (s : State) (key : Nat) : Bool × Option (Fin 16) × Bool × Nat :=
  if key < 458752 then
    let c := Config.cluster (s.tileFrames (key / 8)) (key % 8)
    (s.tileHeld (key / 8), c.clk, c.falling, tileQuad (key / 8))
  else if key < 573440 then
    let k := key - 458752
    (s.tileHeld (k / 2), (Config.rck (s.tileFrames (k / 2)) (k % 2)).clk, false, tileQuad (k / 2))
  else if key < 584192 then
    let g := key - 573440
    let v := s.vatOfSector (sectorOfSlice g)
    (decide (16 ≤ v) || s.bit (VAT.VAT_STAT.IN_RESET v), (s.sliceCfg g).clk, false, tileQuad (256 * (g / 48)))
  else
    let b := (key - 584192) / 2
    let v := s.vatOfSector (b / 60)
    (decide (16 ≤ v) || s.bit (VAT.VAT_STAT.IN_RESET v), (tget s.mem.bmCfg b {}).clk ((key - 584192) % 2 == 1), false,
      tileQuad (256 * (b / 60)))

/-- R60: the edges of a foreign line that a synchroniser has seen since its release (3: it has passed it, on the second or
the third, which one is free). -/
def syncNext (d key n : Nat) : Nat :=
  if n = 0 then 1 else if n = 1 then (if Config.secondEdge d key then 3 else 2) else 3

/-- The indices below n for which `f` gives a value, set one by one. -/
def tupdGo {α : Type} [DecidableEq α] (f : Nat → Option α) (t : Tab α) (d : α) : Nat → Tab α
  | 0 => t
  | n + 1 => match f n with
    | some v => tput (tupdGo f t d n) n v d
    | none => tupdGo f t d n

/-- Set the indices below n for which `f` gives a value. -/
@[irreducible] def tupd {α : Type} [DecidableEq α] (n : Nat) (f : Nat → Option α) (t : Tab α) (d : α) : Tab α := tupdGo f t d n

/-- R60: the synchronisers whose line has an edge. -/
def State.syncEdge (s : State) (e : FabEdge) (d : Nat) : State :=
  let next := fun (key : Nat) =>
    let (held, l, falling, q) := s.syncUnit key
    if foreignLine l && edgeOn e q l falling && !held then some (syncNext d key (tget s.fab.sync key 0)) else none
  { s with fab := { s.fab with sync := tupd 611072 next s.fab.sync 0 } }

/-- An edge of a line clocks the cluster: it is out of reset (`t` is the state with this edge counted by the synchronisers). -/
def State.clocked (s t : State) (e : FabEdge) (g c : Nat) : Bool :=
  let k := Config.cluster (s.tileFrames g) c
  edgeOn e (tileQuad g) k.clk k.falling && !s.tileHeld g && !t.inSync (syncCluster g c) k.clk

/-! Clusters. -/

/-- R56: the next value of a flip-flop at an active edge; `asr` is the held asynchronous SR. -/
def ffNext (k : FfCfg) (c : ClusterCfg) (ce sr asr d old : Bool) : Bool :=
  if k.obeySr && asr then k.srval
  else if k.obeySr && !c.srAsync && sr && (!c.srGated || ce) then k.srval
  else if k.obeyCe && !ce then old
  else d

/-- R54 to R68: the nets at the inputs of a cluster. -/
structure ClusterIn where
  ce : Bool
  sr : Bool
  we : Bool
  wa : BitVec 6
  cin : Bool
  les : BitVec 112

/-- The inputs of a cluster, by what its nets carry. -/
def State.inputs (s : State) (ext : List (Nat × Nat)) (d g c : Nat) : ClusterIn :=
  let k := Config.cluster (s.tileFrames g) c
  let f := s.net ext d
  let h := s.netHeld ext d
  let i := s.clusterIn ext d f h g c
  { ce := !k.ceRouted || i 112
    sr := k.srRouted && i 113
    we := i 115
    wa := (List.range 6).foldl (fun w j => if i (116 + j) then w ||| (1#6 <<< j) else w) 0
    cin := s.cinNet ext d f h g c k
    les := s.clusterX ext d f h g c }

/-- R55: what flip-flop i (2 × LE + k) of a cluster captures. -/
def ffD (k : ClusterCfg) (x : ClusterIn) (outs : List (Bool × Bool)) (i : Nat) : Bool :=
  let o := outs.getD (i / 2) default
  let f := ffOf k i
  if f.dsel.val = 1 then leIn x.les (i / 2) 6
  else if i % 2 = 1 ∧ f.dsel.val = 0 then o.2
  else o.1

/-- R56, R57: the value flip-flop i of a cluster takes at an active edge. A flip-flop whose asynchronous SR fell too near
the edge takes SRVAL or D: which is free. -/
def State.ffAfter (s : State) (ext : List (Nat × Nat)) (d : Nat) (near : Bool) (g c i : Nat) : Bool :=
  let k := Config.cluster (s.tileFrames g) c
  let f := ffOf k i
  let x := s.inputs ext d g c
  let asr := k.srAsync && k.srRouted && tget s.fab.asr (8 * g + c) false
  let outs := clusterOut x.les (s.clusterLes g c k) x.cin
  if near && k.srAsync && f.obeySr && !asr && Config.nearSr d (32 * (8 * g + c) + i) then f.srval
  else ffNext f k x.ce x.sr asr (ffD k x outs i) (s.ffQ g c i)

/-- R64, R67: the mask of an LE after an active edge: a RAM write with WE, a shift with CE. -/
def maskNext (x : ClusterIn) (c : ClusterCfg) (outs : List (Bool × Bool)) (l m : Nat) (w : BitVec 64) (k : LeCfg) :
    BitVec 64 :=
  let put := fun (w : BitVec 64) (i : Nat) (b : Bool) =>
    if b then w ||| (1#64 <<< i) else w &&& ~~~ (1#64 <<< i)
  let byIn := leIn x.les l 6
  match m with
  | 3 => if x.we then put w x.wa.toNat byIn else w
  | 4 => if x.we then put (put w (x.wa.toNat % 32) byIn) (32 + x.wa.toNat % 32) (leIn x.les l 5) else w
  | 5 =>
    if x.ce || !k.ff0.obeyCe then
      let sin := if c.cascade && decide (0 < l) then (outs.getD (l - 1) default).2 else byIn
      (w <<< 1) ||| (if sin then 1#64 else 0#64)
    else w
  | _ => w

/-- R64, R67: the masks of memory cluster c of a tile after an active edge, put into its memory frame. -/
def State.masksAfter (s : State) (ext : List (Nat × Nat)) (d g c : Nat) (f : Frame) : Frame :=
  let k := Config.cluster (s.tileFrames g) c
  let x := s.inputs ext d g c
  let les := s.clusterLes g c k
  let outs := clusterOut x.les les x.cin
  les.zipIdx.foldl (fun (f : Frame) p =>
    let m := p.1.1
    if 3 ≤ m ∧ m ≤ 5 then setMemMask f (c - 6) p.2 (maskNext x k outs p.2 m p.1.2.1 p.1.2.2) else f) f

/-! Wire registers. -/

/-- R107: the value the wire register of a segment captures at the edge, none: it holds. -/
def State.wireAfter (s t : State) (e : FabEdge) (d n : Nat) : Option Bool :=
  let g := segEnd n
  let c := s.siteCfg n
  let k := c.mode.val - 1
  let r := Config.rck (s.tileFrames g) k
  let f := s.net e.ext d
  let h := s.netHeld e.ext d
  let rce := !r.rceRouted || (match Config.rceSrc (s.tileFrames g) k with
    | some src => if rceMay g src then s.source e.ext f h g src else Config.openNet d (3 * (512 * (24304 + g) + k) + 2)
    | none => Config.openNet d (3 * (512 * (24304 + g) + k) + 2))
  if segLen n ≠ 1 ∧ c.mode.val ≠ 0 ∧ (edgeOn e (tileQuad g) r.clk false && !s.tileHeld g && !t.inSync (syncRck g k) r.clk && rce) = true
    then some (s.arrives f h n) else none

/-- R154, R138, R137: the end of a slice cycle in which the sequencer issues nothing: FO pulses, P_GNT and P_COLLIDE end. -/
def SliceSt.idleEdge (x : SliceSt) : SliceSt :=
  { x with fo := if x.foHold then x.fo else 0, pGnt := false, pColl := x.collNow, collNow := false, free := [0, 1], lastW := none }

/-- R56: what flip-flop k (by its number) takes at the edge, none: its cluster is not clocked or it is unused. -/
def State.ffEdge (s t : State) (e : FabEdge) (d k : Nat) : Option (Option Bool) :=
  let g := k / 256
  let c := k / 32 % 8
  if s.clocked t e g c && (ffOf (Config.cluster (s.tileFrames g) c) (k % 32)).used then
    some (some (s.ffAfter e.ext d (e.near.contains (8 * g + c)) g c (k % 32)))
  else none

/-- R64, R67: what the memory frame of a tile holds after the edge, by its frame number. -/
def State.memEdge (s t : State) (e : FabEdge) (d n : Nat) : Option Frame :=
  match frameSector n with
  | none => none
  | some sec =>
    let g := 256 * sec + (frameIdx n - 768)
    if 768 ≤ frameIdx n ∧ frameIdx n < 1024 ∧ s.frameDyn n = true then
      let f := if s.clocked t e g 6 then s.masksAfter e.ext d g 6 (s.liveFrame n) else s.liveFrame n
      some (if s.clocked t e g 7 then s.masksAfter e.ext d g 7 f else f)
    else none

/-- A slice outside RUN and STALL at an edge of its clock. -/
def State.sliceEdge (s : State) (e : FabEdge) (g : Nat) : Option SliceSt :=
  let x := s.slice g
  if edgeOn e (tileQuad (256 * (g / 48))) (s.sliceCfg g).clk false && !(x.st == 1 || x.st == 2) then some x.idleEdge else none

/-- R170: the output registers of a BM36 at an edge of CLKA or CLKB. -/
def State.bmEdge (s : State) (e : FabEdge) (b : Nat) : Option MArr :=
  let x := s.arr false b
  let c := tget s.mem.bmCfg b {}
  let q := tileQuad (256 * (b / 60))
  let a := edgeOn e q c.clkA false
  let z := edgeOn e q c.clkB false
  if a || z then some { x with regA := if a then x.outA else x.regA, regB := if z then x.outB else x.regB } else none

/-- R428: TIME_NOW of a vat at an edge of its line: the value of the base bound to it, without the fraction below the tick. -/
def State.timeEdge (s : State) (e : FabEdge) (v : Nat) : Option Nat :=
  let l := Config.timeLine ((List.range 1024).map fun f => s.liveFrame (shellFrame 0 f)) v
  if s.defined v && e.rise.getLsbD l.val then some (s.tbNow (s.rd (VAT.TBIND.TB v)) / 64 * 64) else none

/-- Edges of clock lines, all at one instant (R56, R64, R67, R107, R170, R428): every register takes what its nets carried before
the edge; output registers of memories take their results. -/
def State.clockEdge (s : State) (e : FabEdge) (d : Nat) : State :=
  let t := s.syncEdge e d
  { t with
    fab := { t.fab with
      ff := tupd 14680064 (s.ffEdge t e d) t.fab.ff none
      wire := tupd 6881280 (fun n => (s.wireAfter t e d n).map some) t.fab.wire none }
    cfg := { t.cfg with live := tupd 262144 (s.memEdge t e d) t.cfg.live 0 }
    slc := { t.slc with s := tupd 10752 (s.sliceEdge e) t.slc.s {} }
    mem := { t.mem with bmA := tupd 13440 (s.bmEdge e) t.mem.bmA {} }
    time := { t.time with nowReg := tupd 16 (s.timeEdge e) t.time.nowReg 0 } }

/-- ACTIVE_CLOCK_EDGE (R56, R64, R67, R107, R428). -/
def execActiveClockEdge (e : FabEdge) (s : State) : Host.Outcome State Fault Refusal :=
  if !s.running then .next s
  else
    let (d, s) := s.fresh
    .next (s.clockEdge e d)

/-! Asynchronous SR. -/

/-- The flip-flops and wire registers of a tile keep what they show: those that still read their configured INIT take it
as a value of their own, before a frame of the tile changes while it runs (R49, R55). -/
def State.pinTile (s : State) (g : Nat) : State :=
  if s.tileHeld g then s
  else
    let ff := (List.range 256).foldl (fun (t : Tab (Option Bool)) i =>
      let f := ffOf (Config.cluster (s.tileFrames g) (i / 32)) (i % 32)
      if (tget t (256 * g + i) none).isNone && f.used then tput t (256 * g + i) (some f.ini) none else t) s.fab.ff
    let wire := (segsInto g).foldl (fun (t : Tab (Option Bool)) n =>
      if (tget t n none).isNone && segLen n != 1 then tput t n (some (s.siteCfg n).ini) none else t) s.fab.wire
    { s with fab := { s.fab with ff := ff, wire := wire } }

/-- A live frame is rewritten or upset while the fabric runs: its tile's registers keep what they show. -/
def State.pinFrame (s : State) (n : Nat) : State := match frameSector n with
  | some sec => if frameIdx n < 768 then s.pinTile (256 * sec + frameIdx n / 3) else s
  | none => s

/-- R57: the flip-flops of a cluster that obey its asynchronous SR hold SRVAL when it falls. -/
def State.srFalls (s : State) (g c : Nat) : State :=
  let k := Config.cluster (s.tileFrames g) c
  if k.srAsync && k.srRouted && tget s.fab.asr (8 * g + c) false && !s.inSync (syncCluster g c) k.clk then
    let ff := (List.range 32).foldl (fun (ff : Tab (Option Bool)) i =>
      let f := ffOf k i
      if f.used && f.obeySr then tput ff (32 * (8 * g + c) + i) (some f.srval) none else ff) s.fab.ff
    { s with fab := { s.fab with ff := ff } }
  else s

/-- ASYNCHRONOUS_SR (R57): SR of a cluster rises or falls. While it is 1 every flip-flop that obeys it shows SRVAL, once its
cluster is out of reset; when it falls they hold SRVAL until an active edge. -/
def execAsynchronousSr (tile : Fin 57344) (c : Fin 8) (up : Bool) (src : PortSrc) (s : State) :
    Host.Outcome State Fault Refusal :=
  let (d, s) := s.drawFor src
  let up := match src with
    | .given => up
    | .routed ext => s.clusterIn ext d (s.net ext d) (s.netHeld ext d) tile c 113
  let s := if up || s.tileHeld tile then s else s.srFalls tile c
  .next { s with fab := { s.fab with asr := tput s.fab.asr (8 * tile.val + c.val) up false } }

/-! Hold and release. -/

/-- The flip-flops, wire registers and release synchronisers of the tiles a test accepts go to INIT (R59, R108). -/
def State.holdTiles (s : State) (p : Nat → Bool) : State :=
  let mine := fun (i : Nat) => if i < 458752 then p (i / 8) else if i < 573440 then p ((i - 458752) / 2) else false
  { s with fab := { s.fab with
      ff := tfilter (fun i _ => !p (i / 256)) s.fab.ff
      wire := tfilter (fun n _ => !p (segEnd n)) s.fab.wire
      sync := tfilter (fun i _ => !mine i) s.fab.sync } }

/-- R60: the slices and BM36 of the sectors a test accepts will synchronise their release again. -/
def State.holdSyncs (s : State) (p : Nat → Bool) : State :=
  let mine := fun (i : Nat) =>
    if i < 573440 then false else if i < 584192 then p ((i - 573440) / 48) else p ((i - 584192) / 120)
  { s with fab := { s.fab with sync := tfilter (fun i _ => !mine i) s.fab.sync } }

/-- R259: what a hold clamp keeps of a vat: the fabric as it stands when the Rind is clamped. -/
def State.takeSnap (s : State) (v : Nat) : State :=
  if s.clamped v then s
  else
    let x : FabSnap := ⟨s.fab.ff, s.fab.wire, s.fab.asr, s.fab.sync, s.cfg.live, s.regs, s.cfg.mods⟩
    { s with fab := { s.fab with snap := tput s.fab.snap v (some x) none } }

/-- R267: the Rind of a vat has released: what a hold clamp kept goes. -/
def State.dropSnap (s : State) (v : Nat) : State := { s with fab := { s.fab with snap := tput s.fab.snap v none none } }

end Sys2Proof.Machine
end

