-- ==== Sys2Proof/Machine/Memories.lean ====
section
/-! DEFINITION. Block memories (BM36) and deep memories (DM): R164 to R198. Each request says how many cycles after the last
it falls (ArrT). -/

namespace Sys2Proof.Machine

/-- R164: words of a memory. -/
def memWords (dm : Bool) : Nat := if dm then 32768 else 512

def State.memW (s : State) (dm : Bool) (i k : Nat) : Option BmW :=
  if dm then tget s.mem.dm (32768 * i + k) none else tget s.mem.bm (512 * i + k) none
def State.setMemW (s : State) (dm : Bool) (i k : Nat) (w : Option BmW) : State :=
  { s with mem := if dm then { s.mem with dm := tput s.mem.dm (32768 * i + k) w none }
                  else { s.mem with bm := tput s.mem.bm (512 * i + k) w none } }
/-- The bits that are 1. -/
def ones {n : Nat} (w : BitVec n) : Nat := (List.range n).foldl (fun c i => c + (w.getLsbD i).toNat) 0

/-- The low 64 bits of a word. -/
def low64 (v : BitVec 72) : BitVec 72 := v &&& 0xFFFFFFFFFFFFFFFF#72

/-- R179, R180, R184: what reading a word gives: data, POISON, SBE, and whether its code found an uncorrectable error.
Three or more flipped bits end in one of three ways, which one is free. -/
def State.readWord (s : State) (ecc : Bool) : Option BmW → BitVec 72 × Bool × Bool × Bool × State
  | none => (0, false, false, false, s)
  | some w =>
    if !ecc then (w.v ^^^ w.err, false, false, false, s)
    else
      let stored := low64 (w.v ^^^ w.err)
      match ones w.err with
      | 0 => (w.v, w.poison, false, false, s)
      | 1 => (w.v, w.poison, true, false, s)
      | 2 => (stored, true, false, true, s)
      | _ =>
        let (k, s) := s.fresh
        match Config.freeNat k % 3 with
        | 0 => (stored, true, false, true, s)
        | 1 => let (j, s) := s.fresh; (low64 ((Config.freeLine j).setWidth 72), w.poison, true, false, s)
        | _ => (stored, w.poison, false, false, s)

/-- Upsets flip stored bits of a word. -/
def upset (u : BitVec 72) (w : Option BmW) : Option BmW := w.map fun w => { w with err := w.err ^^^ u }

/-- R171: the word as it stood at the start of the array cycle. -/
def State.startWord (s : State) (dm : Bool) (i k : Nat) : Option BmW :=
  ((s.arr dm i).old.find? fun p => p.1 == k).map (·.2) |>.getD (s.memW dm i k)

/-- Upsets found when a word is read have flipped stored bits of it. -/
def State.upsetAt (s : State) (dm : Bool) (i k : Nat) (u : BitVec 72) : State :=
  let s := s.setMemW dm i k (upset u (s.memW dm i k))
  let x := s.arr dm i
  s.setArr dm i { x with old := x.old.map fun p => if p.1 == k then (k, upset u p.2) else p }

/-- Remember a word as it stands before it is first written in the array cycle. -/
def State.touch (s : State) (dm : Bool) (i k : Nat) : State :=
  let x := s.arr dm i
  if x.old.any fun p => p.1 == k then s else s.setArr dm i { x with old := (k, s.memW dm i k) :: x.old }

/-- R181: a write, merge or clear of a word cancels the write-backs queued for it. -/
def MArr.cancel (x : MArr) (k : Nat) : MArr :=
  let f := fun (o : Option (Nat × Bool × BitVec 72)) => if (o.map (·.1)) = some k then none else o
  { x with wbA := f x.wbA, wbB := f x.wbB }

/-- A write's bits over a word. -/
def overlay (w : Option BmW) (mask v : BitVec 72) (poison : Bool) (ecc : Bool) : BmW :=
  let old : BitVec 72 := match w with
    | some w => if ecc then w.v else w.v ^^^ w.err
    | none => 0
  ⟨(v &&& mask) ||| (old &&& ~~~ mask), 0, poison⟩

/-- R178: on different lines a write falls between the read and the merge of a narrow write of the other port to the same
code word: whether that merge keeps the bytes it read, and so undoes the write, is free; it does where the two lie within
T_BMCOLL, since the word then holds the whole of one of them. -/
def State.staleMerges (s : State) (b : Nat) (pb : Bool) (k : Nat) (near : Bool) : State :=
  let hit := fun (m : MReq) => m.word == k && m.pb != pb
  if (tget s.mem.bmCfg b {}).oneClk || !(s.arr false b).merges.any hit then s
  else
    let (j, s) := s.fresh
    let (v, _, _, _, s) := s.readWord true (s.memW false b k)
    let x := s.arr false b
    let fix := fun (m : MReq) =>
      if hit m then { m with v := (m.v &&& m.mask) ||| (low64 v &&& ~~~ m.mask), mask := low64 (~~~ 0) } else m
    if near || Config.freeBit j then s.setArr false b { x with merges := x.merges.map fix } else s

/-- R174: a write or merge reaches the array. Where the other port of a BM36 whose ports share a line has reached the same
code word (in RAW mode, the same bits) in this array cycle, port A's is stored and port B's lost. `v` is the word to store,
in ECC mode whole. -/
def State.memAct (s : State) (dm : Bool) (i : Nat) (ecc : Bool) (a : MAct) : State :=
  let x := s.arr dm i
  let meets := !dm && (tget s.mem.bmCfg i {}).oneClk
  let others := x.acts.filter fun b => meets && b.word == a.word && b.pb != a.pb
  if ecc then
    if a.pb && !others.isEmpty then s.setArr dm i { x with coll := true }
    else
      let s := s.touch dm i a.word
      let x := s.arr dm i
      let x := { x with acts := a :: x.acts.filter (fun b => !(b.word == a.word && b.pb != a.pb)),
                        coll := x.coll || !others.isEmpty }
      (s.setArr dm i (x.cancel a.word)).setMemW dm i a.word (some ⟨a.v, 0, a.poison⟩)
  else
    let om := others.foldl (fun m b => m ||| b.mask) 0
    let hit := (om &&& a.mask) != 0
    let mask := if a.pb then a.mask &&& ~~~ om else a.mask
    let s := s.touch dm i a.word
    let x := s.arr dm i
    let s := s.setArr dm i ({ x with acts := { a with mask := mask } :: x.acts, coll := x.coll || hit }.cancel a.word)
    s.setMemW dm i a.word (some (overlay (s.memW dm i a.word) mask a.v false false))

/-- R175, R176: the merged word of a narrow write: kept bytes from the word as it stands. It is poisoned where that word is,
or was when step 1 read it (notes/assumptions/81.md). -/
def State.mergeAct (s : State) (dm : Bool) (i : Nat) (m : MReq) : MAct × State :=
  let w := s.memW dm i m.word
  let (old, p, _, unc, s) := s.readWord true w
  let keep := low64 (~~~ m.mask)
  (⟨m.pb, m.word, m.mask, (m.v &&& m.mask) ||| (old &&& keep), m.bad || p || unc || m.wp, m.wp⟩, s)

/-- The bits of a port word within its code word. -/
def portBits (w lo : Nat) (v : BitVec 72) : BitVec 72 := (v >>> lo) &&& BitVec.ofNat 72 (2 ^ w - 1)

/-- A port's outputs. -/
def State.setOut (s : State) (dm : Bool) (i : Nat) (pb : Bool) (o : MOut) : State :=
  let x := s.arr dm i
  s.setArr dm i (if pb then { x with outB := o } else { x with outA := o })

/-- R171: what RD shows after a write on the same port. -/
def State.echo (s : State) (dm : Bool) (i : Nat) (pb : Bool) (rdw : Fin 3) (w lo : Nat) (new old : BitVec 72)
    (np op os : Bool) : State :=
  match rdw.val with
  | 0 => s.setOut dm i pb ⟨portBits w lo new, np, false, true⟩
  | 1 => s.setOut dm i pb ⟨portBits w lo old, op, os, true⟩
  | _ => s

/-- R171: ECHO_NEW of a narrow write shows the merged word. -/
def State.echoMerge (s : State) (b : Nat) (m : MReq) (a : MAct) : State :=
  let c := tget s.mem.bmCfg b {}
  if (if m.pb then c.rdwB else c.rdwA).val = 0 then s.setOut false b m.pb ⟨portBits m.w m.lo a.v, a.poison, false, true⟩ else s

/-- R175: a new array cycle of a BM36 whose ports share a line: the narrow writes of the last one form their words from what
stands at its end and reach the array; their ports take nothing at this edge. Output registers take the results of the last
cycle, and COLLIDE tells a collision in it. -/
def State.bmCycle (s : State) (b : Nat) : State :=
  let go := (s.arr false b).merges
  let (acts, s) := go.foldl (fun (p : List MAct × State) m => let r := p.2.mergeAct false b m; (p.1 ++ [r.1], r.2)) ([], s)
  let s := (go.zip acts).foldl (fun (s : State) p => s.echoMerge b p.1 p.2) s
  let x := s.arr false b
  let s := s.setArr false b { x with
    old := [], acts := [], merges := [], busy := go.map (·.pb), took := [], coll := false, collide := x.coll, clr := false,
    regA := x.outA, regB := x.outB }
  (acts.filter (fun a => !a.pb) ++ acts.filter (·.pb)).foldl (fun (s : State) a => s.memAct false b true a) s

/-- R175, R178: the merges of one port of a BM36 whose ports have lines of their own reach the array. -/
def State.bmLand (s : State) (b : Nat) (pb : Bool) : State :=
  let x := s.arr false b
  let go := x.merges.filter (·.pb == pb)
  let s := s.setArr false b { x with merges := x.merges.filter (·.pb != pb) }
  go.foldl (fun (s : State) m =>
    let (a, s) := s.mergeAct false b m
    ((s.echoMerge b m a).staleMerges b pb a.word false).memAct false b true a) s

/-- R173, R178: time passes up to a request of a port of a BM36. On different lines the port's own merge has reached the
array once an edge of its clock has passed; whether the other port's has is free. Answers whether the port is ready. -/
def State.bmTime (s : State) (b : Nat) (pb : Bool) (t : ArrT) : Bool × State :=
  if (tget s.mem.bmCfg b {}).oneClk then
    let s := (List.range (min t.cycles 3)).foldl (fun (s : State) _ => s.bmCycle b) s
    (!(s.arr false b).busy.contains pb, s)
  else
    let x := s.arr false b
    let ready := t.cycles != 1 || !(x.busy.contains pb || x.merges.any (·.pb == pb))
    let s := if t.cycles = 0 then s else
      let s := s.bmLand b pb
      let x := s.arr false b
      s.setArr false b { x with
        busy := x.busy.filter (· != pb), took := x.took.filter (· != pb), coll := false, collide := false,
        regA := if pb then x.regA else x.outA, regB := if pb then x.outB else x.regB }
    let (j, s) := s.fresh
    let x := s.arr false b
    let s := if x.merges.any (·.pb != pb) && Config.freeBit j then
        (s.setArr false b { x with busy := (!pb) :: x.busy }).bmLand b !pb else s
    let x := s.arr false b
    (ready, if t.near then s else s.setArr false b { x with old := [], acts := [], clr := false })

/-- R165, R168: the width of a port, and the code word and first bit of a port word. -/
def bmWidth (c : BmCfg) (pb : Bool) : Nat := if pb then c.widthB else c.widthA
def bmPlace (c : BmCfg) (w a : Nat) : Nat × Nat :=
  let row := if c.ecc then 64 else 72
  let bit := w * a % (512 * row)
  (bit / row, bit % row)

/-- R169: the bits of the port word that the byte enables write. -/
def beMask (c : BmCfg) (w : Nat) (be : BitVec 8) : BitVec 72 :=
  let n := if c.ecc then 8 else 9
  if w ≤ n then BitVec.ofNat 72 (2 ^ w - 1)
  else (List.range (w / n)).foldl (fun m i => if be.getLsbD i then m ||| BitVec.ofNat 72 ((2 ^ n - 1) * 2 ^ (n * i)) else m) 0

/-! Inputs of a memory port by signal, port B from 128 on: ADDR 0 on, WD 15 on, BE 87 on, EN 95, WE 96, W_POISON 97, CLR 98. -/

/-- R167: a request as a port sees it. -/
structure MemIn where
  we : Bool
  addr : BitVec 15
  wd : BitVec 72
  be : BitVec 8
  wp : Bool

/-- R104, R167: what a port of a memory is asked, with EN. -/
def State.memIn (s : State) (src : PortSrc) (d key : Nat) (pb : Bool) (r : MemIn) : Bool × MemIn :=
  let b := if pb then 128 else 0
  (s.sees src d key (b + 95) true,
   ⟨s.sees src d key (b + 96) r.we, s.seesBus src d key b r.addr, s.seesBus src d key (b + 15) r.wd,
    s.seesBus src d key (b + 87) r.be, s.sees src d key (b + 97) r.wp⟩)

/-- R167: a port of a BM36 accepts a request at an edge where EN and READY are 1, one in an array cycle. -/
def State.bmAccept (s : State) (b : Nat) (pb : Bool) (t : ArrT) : Bool × State :=
  let (ready, s) := s.bmTime b pb t
  let x := s.arr false b
  if !ready || x.took.contains pb then (false, s) else (true, s.setArr false b { x with took := pb :: x.took })

/-- R181: queue a write-back after a read, where CORR_WB says so. -/
def State.queueWb (s : State) (dm : Bool) (i : Nat) (pb corr : Bool) (k : Nat) (v : BitVec 72) (sbe unc : Bool) : State :=
  if corr && (sbe || unc) then
    let x := s.arr dm i
    s.setArr dm i (if pb then { x with wbB := some (k, unc, v) } else { x with wbA := some (k, unc, v) })
  else s

/-- BM36_READ (R171, R179 to R181). On different lines a read within T_BMCOLL of the other port's write returns the word from
before or after it, which is free (R178). -/
def execBm36Read (b : Fin 13440) (pb : Bool) (t : ArrT) (a : BitVec 15) (u : BitVec 72) (src : PortSrc) (s : State) :
    Host.Outcome State Fault Refusal :=
  let c := tget s.mem.bmCfg b.val {}
  let (d, s) := s.drawFor src
  let (en, r) := s.memIn src d (portBm b) pb ⟨false, a, 0, 0, false⟩
  if !en || r.we || !s.bmLive b pb then .next s
  else
    let (go, s) := s.bmAccept b pb t
    if !go then .next s
    else
      let w := bmWidth c pb
      let (k, lo) := bmPlace c w r.addr.toNat
      let s := s.upsetAt false b k u
      let (j, s) := s.fresh
      let cur := !c.oneClk && t.near && Config.freeBit j
      let (v, p, sbe, unc, s) := s.readWord c.ecc (if cur then s.memW false b k else s.startWord false b k)
      let s := s.setOut false b pb ⟨portBits w lo v, c.ecc && p, c.ecc && sbe, true⟩
      .next (s.queueWb false b pb (c.ecc && c.corrWb) k v sbe unc)

/-- R178, R185: a write of a BM36 port reaches the array. On different lines one within T_BMCOLL of the other port's write to
the same code word, or of a CLR, is kept or lost, which is free. -/
def State.bmWrite (s : State) (b : Nat) (ecc near : Bool) (a : MAct) : State :=
  let x := s.arr false b
  let (j, s) := s.fresh
  let meets := near && ((x.acts.any fun q => q.word == a.word && q.pb != a.pb) || (x.clr && a.pb))
  if !(tget s.mem.bmCfg b {}).oneClk && meets && Config.freeBit j then s
  else (s.staleMerges b a.pb a.word near).memAct false b ecc a

/-- BM36_FULL_WRITE (R174): a write that replaces a whole code word, and every write in RAW mode. -/
def execBm36FullWrite (b : Fin 13440) (pb : Bool) (t : ArrT) (a : BitVec 15) (d : BitVec 72) (be : BitVec 8) (wp : Bool)
    (src : PortSrc) (s : State) : Host.Outcome State Fault Refusal :=
  let c := tget s.mem.bmCfg b.val {}
  let w := bmWidth c pb
  let (n, s) := s.drawFor src
  let (en, r) := s.memIn src n (portBm b) pb ⟨true, a, d, be, wp⟩
  let narrow := c.ecc && (w != 64 || r.be != 0xFF#8)
  if !en || !r.we || narrow || !s.bmLive b pb then .next s
  else
    let (go, s) := s.bmAccept b pb t
    if !go then .next s
    else
      let (k, lo) := bmPlace c w r.addr.toNat
      let (ov, op, os, _, s) := s.readWord c.ecc (s.startWord false b k)
      let old := s.startWord false b k
      let m := beMask c w r.be <<< lo
      let v := if c.ecc then low64 r.wd else r.wd <<< lo
      let s := s.bmWrite b c.ecc t.near ⟨pb, k, if c.ecc then low64 (~~~ 0) else m, v, c.ecc && r.wp, r.wp⟩
      let new := if c.ecc then v else (overlay old m v false false).v
      .next (s.echo false b pb (if pb then c.rdwB else c.rdwA) w lo new ov (c.ecc && r.wp) (c.ecc && op) (c.ecc && os))

/-- BM36_NARROW_WRITE (R175): the code word is read and corrected; the merged word reaches the array in the next cycle. -/
def execBm36NarrowWrite (b : Fin 13440) (pb : Bool) (t : ArrT) (a : BitVec 15) (d : BitVec 72) (be : BitVec 8) (wp : Bool)
    (u : BitVec 72) (src : PortSrc) (s : State) : Host.Outcome State Fault Refusal :=
  let c := tget s.mem.bmCfg b.val {}
  let w := bmWidth c pb
  let (n, s) := s.drawFor src
  let (en, r) := s.memIn src n (portBm b) pb ⟨true, a, d, be, wp⟩
  let narrow := c.ecc && (w != 64 || r.be != 0xFF#8)
  if !en || !r.we || !narrow || !s.bmLive b pb then .next s
  else
    let (go, s) := s.bmAccept b pb t
    if !go then .next s
    else
      let (k, lo) := bmPlace c w r.addr.toNat
      let s := s.upsetAt false b k u
      let (ov, op, os, unc, s) := s.readWord true (s.startWord false b k)
      let x := s.arr false b
      let m : MReq :=
        { pb := pb, wr := true, word := k, mask := beMask c w r.be <<< lo, v := r.wd <<< lo, wp := r.wp, bad := op || unc, lo := lo, w := w }
      let s := s.setArr false b { x with merges := x.merges ++ [m] }
      .next (if (if pb then c.rdwB else c.rdwA).val = 1 then s.setOut false b pb ⟨portBits w lo ov, op, os, true⟩ else s)

/-- R184, R185: CLR in the current array cycle: every valid and poison bit clears; what was written in the cycle lands after
it, a merge with 0 for the bytes it keeps (R177); reads accepted and not yet served return the words as they stood before;
queued write-backs are cancelled. -/
def State.clearArr (s : State) (dm : Bool) (i : Nat) : State :=
  let n := memWords dm
  let tab := if dm then s.mem.dm else s.mem.bm
  let mine := tab.filter fun p => p.1 / n == i
  let x := s.arr dm i
  let olds := (mine.map fun p => (p.1 % n, p.2)).filter fun p => !(x.old.any fun q => q.1 == p.1)
  let seen := fun (r : MReq) => if r.wr || r.snap.isSome then r else { r with snap := some (s.startWord dm i r.word) }
  let s := s.setArr dm i { x with old := x.old ++ olds, wbA := none, wbB := none, clr := true, defs := x.defs.map seen }
  let s : State := { s with mem :=
    if dm then { s.mem with dm := tfilter (fun k _ => k / n != i) s.mem.dm }
    else { s.mem with bm := tfilter (fun k _ => k / n != i) s.mem.bm } }
  x.acts.reverse.foldl (fun (s : State) a => s.setMemW dm i a.word (some (overlay (s.memW dm i a.word) a.mask a.v a.wp true))) s

/-! Deep memories. -/

/-- R166: both ports of a DM select the same line, so that their port cycles are the same. -/
def dmOneClk (c : DmCfg) : Bool := c.fabA == c.fabB

/-- R192: where the accesses of a bank in a port cycle are counted. -/
def dmKey (c : DmCfg) (pb : Bool) (bank : Nat) : Nat := if dmOneClk c then bank else 8 * (1 + pb.toNat) + bank

/-- R166, R192: the DM cycles of a port cycle: those given, at least the ratio of the dividers. -/
def State.dmCap (s : State) (p : Nat) (pb : Bool) (cap : Nat) : Nat :=
  let c := tget s.mem.dmCfg p {}
  match (if pb then c.fabB else c.fabA) with
  | some k => max cap (s.rd (CLK.DIV.DIV_ACT (8 + k.val)) / s.rd (CLK.DIV.DIV_ACT 1))
  | none => cap

/-- R192: the DM cycles a bank has left for a port in its port cycle. The other port's cycle overlaps it in an open way where
the two select different lines. -/
def State.dmRoom (s : State) (p cap : Nat) (pb : Bool) (bank : Nat) : Nat × State :=
  let c := tget s.mem.dmCfg p {}
  let x := s.arr true p
  let own := tget x.use (dmKey c pb bank) 0
  let other := if dmOneClk c then 0 else tget x.use (dmKey c (!pb) bank) 0
  if other = 0 then (cap - own, s)
  else
    let (k, s) := s.fresh
    (cap - own - Config.freeNat k % (other + 1), s)

/-- R191: carry out a request of a fabric port of a DM. -/
def State.dmPerform (s : State) (p : Nat) (r : MReq) : State :=
  let c := tget s.mem.dmCfg p {}
  let k := r.word
  if r.wr then
    if r.mask = low64 (~~~ 0) then s.memAct true p true ⟨r.pb, k, r.mask, r.v, r.wp, r.wp⟩
    else
      let (a, s) := s.mergeAct true p r
      s.memAct true p true a
  else
    let (v, po, sbe, unc, s) := s.readWord true (r.snap.getD (s.startWord true p k))
    let s := s.setOut true p r.pb ⟨v, po, sbe, true⟩
    if r.snap.isSome then s else s.queueWb true p r.pb c.corrWb k v sbe unc

/-- R192: serve a request in the DM cycles its bank has left in this port cycle, or defer what remains of it. -/
def State.dmServe (s : State) (p cap : Nat) (r : MReq) : State :=
  let bank := r.word % 8
  let key := dmKey (tget s.mem.dmCfg p {}) r.pb bank
  let (room, s) := s.dmRoom p cap r.pb bank
  let x := s.arr true p
  let take := min r.left room
  let x := { x with use := tput x.use key (tget x.use key 0 + take) 0 }
  if take = r.left then (s.setArr true p x).dmPerform p r
  else s.setArr true p { x with defs := x.defs ++ [{ r with left := r.left - take }] }

/-- R191, R192: a new port cycle of a port of a DM, and of the other where both share a line: the deferred requests come
first, and their ports take nothing at this edge. -/
def State.dmCycle (s : State) (p cap : Nat) (pb : Bool) : State :=
  let c := tget s.mem.dmCfg p {}
  let x := s.arr true p
  let mine := fun (q : Bool) => dmOneClk c || q == pb
  let go := x.defs.filter fun r => mine r.pb
  let s := s.setArr true p { x with
    old := [], acts := [], clr := false
    defs := x.defs.filter fun r => !mine r.pb
    news := x.news.filter fun r => !mine r.pb
    took := x.took.filter fun q => !mine q
    busy := x.busy.filter (fun q => !mine q) ++ go.map (·.pb)
    use := if dmOneClk c then [] else tfilter (fun k _ => k / 8 != 1 + pb.toNat) x.use
    coll := x.coll && !mine true
    collide := if mine true then x.coll else x.collide
    outA := if mine false then { x.outA with valid := false } else x.outA
    outB := if mine true then { x.outB with valid := false } else x.outB }
  go.foldl (fun (s : State) r => s.dmServe p cap r) s

/-- R191: the order in which requests accepted at one edge are served: reads before writes, port A before port B. -/
def MReq.rank (r : MReq) : Nat := 2 * r.wr.toNat + r.pb.toNat

/-- R191, R192: a request accepted at this edge gives way: its accesses are free again and its effect is undone. -/
def State.dmUndo (s : State) (p : Nat) (q : MReq) : State :=
  let x := s.arr true p
  let same := fun (r : MReq) => r.pb == q.pb && r.wr == q.wr && r.word == q.word
  let key := dmKey (tget s.mem.dmCfg p {}) q.pb (q.word % 8)
  match x.defs.find? same with
  | some r =>
    s.setArr true p { x with
      defs := x.defs.filter fun r => !same r
      use := tput x.use key (tget x.use key 0 - (q.left - r.left)) 0 }
  | none =>
    let x := { x with use := tput x.use key (tget x.use key 0 - q.left) 0 }
    if q.wr then
      let w := s.startWord true p q.word
      (s.setArr true p { x with acts := x.acts.filter fun a => !(a.word == q.word && a.pb == q.pb) }).setMemW true p q.word w
    else s.setArr true p (if q.pb then { x with outB := { x.outB with valid := false } }
                          else { x with outA := { x.outA with valid := false } })

/-- R191, R174: a request a port has accepted. Of two writes to one word accepted at one edge port B's is lost; of two
requests that want one bank the one that comes first in R191's order is served first. -/
def State.dmTake (s : State) (p cap : Nat) (r : MReq) : State :=
  let c := tget s.mem.dmCfg p {}
  let x := s.arr true p
  let twin := x.news.find? fun q => dmOneClk c && q.wr && r.wr && q.word == r.word && q.pb != r.pb
  let s := s.setArr true p { x with
    took := r.pb :: x.took
    coll := x.coll || twin.isSome
    news := if r.pb && twin.isSome then x.news else r :: x.news.filter fun q => some q != twin }
  match twin with
  | some q => if r.pb then s else (s.dmUndo p q).dmServe p cap r
  | none =>
    match x.news.find? fun q => dmOneClk c && q.word % 8 == r.word % 8 && decide (r.rank < q.rank) with
    | some q =>
      let (room, s) := s.dmRoom p cap r.pb (r.word % 8)
      if r.left ≤ room then s.dmServe p cap r else ((s.dmUndo p q).dmServe p cap r).dmServe p cap q
    | none => s.dmServe p cap r

/-- R192: the port cycles of a port of a DM that pass up to a request. -/
def State.dmPass (s : State) (p cap : Nat) (pb : Bool) (t : ArrT) : State :=
  (List.range (min t.cycles 4)).foldl (fun (s : State) _ => s.dmCycle p cap pb) s

/-- R167, R190, R192: time passes up to a request of a port of a DM; answers whether the port accepts it. -/
def State.dmAccept (s : State) (p cap : Nat) (pb : Bool) (t : ArrT) : Bool × State :=
  let s := s.dmPass p cap pb t
  let x := s.arr true p
  (!x.busy.contains pb && !x.took.contains pb, s)

/-- DM_FABRIC_READ (R190, R191). -/
def execDmFabricRead (p : Fin 112) (pb : Bool) (t : ArrT) (cap : Nat) (a : BitVec 15) (u : BitVec 72) (src : PortSrc)
    (s : State) : Host.Outcome State Fault Refusal :=
  let (d, s) := s.drawFor src
  let (en, r) := s.memIn src d (portDm p) pb ⟨false, a, 0, 0, false⟩
  if !en || r.we || !s.dmLive p pb then .next s
  else
    let cap := s.dmCap p pb cap
    let (go, s) := s.dmAccept p cap pb t
    if !go then .next s
    else .next ((s.upsetAt true p r.addr.toNat u).dmTake p cap
      { pb := pb, wr := false, word := r.addr.toNat, mask := 0, v := 0, wp := false })

/-- R169: the bits eight byte enables write. -/
def be64 (be : BitVec 8) : BitVec 72 :=
  (List.range 8).foldl (fun m i => if be.getLsbD i then m ||| BitVec.ofNat 72 (255 * 2 ^ (8 * i)) else m) 0

/-- DM_FABRIC_WRITE (R191): a full write needs one access of its bank, a narrow one two. -/
def execDmFabricWrite (p : Fin 112) (pb : Bool) (t : ArrT) (cap : Nat) (a : BitVec 15) (d : BitVec 64) (be : BitVec 8)
    (wp : Bool) (u : BitVec 72) (src : PortSrc) (s : State) : Host.Outcome State Fault Refusal :=
  let (n, s) := s.drawFor src
  let (en, r) := s.memIn src n (portDm p) pb ⟨true, a, d.setWidth 72, be, wp⟩
  if !en || !r.we || !s.dmLive p pb then .next s
  else
    let cap := s.dmCap p pb cap
    let (go, s) := s.dmAccept p cap pb t
    if !go then .next s
    else
      let full := r.be == 0xFF#8
      .next ((if full then s else s.upsetAt true p r.addr.toNat u).dmTake p cap
        { pb := pb, wr := true, word := r.addr.toNat, mask := be64 r.be, v := low64 r.wd, wp := r.wp, left := if full then 1 else 2 })

/-- DM_DEFERRED_SERVE (R192): the next port cycle begins, and the deferred requests are served first in it. -/
def execDmDeferredServe (p : Fin 112) (cap : Nat) (s : State) : Host.Outcome State Fault Refusal :=
  let x := s.arr true p
  match x.defs with
  | [] => .next s
  | r :: _ => if s.memHeld true p then .next s else .next (s.dmCycle p (max 1 (s.dmCap p r.pb cap)) r.pb)

/-- BM36_CLEAR (R184, R185): CLR at an edge of CLKA at which port A is ready. -/
def execBm36Clear (m : MemId) (t : ArrT) (src : PortSrc) (s : State) : Host.Outcome State Fault Refusal :=
  let (d, s) := s.drawFor src
  match m with
  | .bm b =>
    if !s.bmLive b false || !(tget s.mem.bmCfg b.val {}).clrEn || !s.sees src d (portBm b) 98 true then .next s
    else
      let (ready, s) := s.bmTime b false t
      if !ready then .next s
      else
        let (j, s) := s.fresh
        let x := s.arr false b
        let s := if !(tget s.mem.bmCfg b.val {}).oneClk && t.near && Config.freeBit j then
            s.setArr false b { x with acts := x.acts.filter fun a => !a.pb } else s
        .next (s.clearArr false b)
  | .dm p =>
    if !s.dmLive p false || !(tget s.mem.dmCfg p.val {}).clrEn || !s.sees src d (portDm p) 98 true then .next s
    else
      let cap := s.dmCap p false 1
      let s := s.dmPass p cap false t
      if (s.arr true p).busy.contains false then .next s else .next (s.clearArr true p)

/-- R181: a queued write-back reaches the array: the corrected word as the read returned it, or the poison bit over the
stored data bits. -/
def State.writeBack (s : State) (dm : Bool) (i : Nat) : Option (Nat × Bool × BitVec 72) → State
  | none => s
  | some (k, poison, v) => match s.memW dm i k with
    | none => s
    | some w => s.setMemW dm i k (some ⟨v, 0, w.poison || poison⟩)

/-- CORRECTION_WRITE_BACK (R181): a queued write-back reaches the array, in a cycle without a write or merge. -/
def execCorrectionWriteBack (m : MemId) (pb : Bool) (t : ArrT) (s : State) : Host.Outcome State Fault Refusal :=
  let (dm, i) := match m with | .bm b => (false, b.val) | .dm p => (true, p.val)
  if s.memHeld dm i then .next s
  else
    let s := if dm then s.dmPass i (s.dmCap i pb 1) pb t else (s.bmTime i pb t).2
    let x := s.arr dm i
    if !x.acts.isEmpty then .next s
    else .next ((s.setArr dm i (if pb then { x with wbB := none } else { x with wbA := none })).writeBack dm i
      (if pb then x.wbB else x.wbA))

/-! NoC access to a DM (R193, R194). -/

/-- The words of a DM a request touches, with the bits it covers in each. -/
def dmTouched (f : Flit) : List (Nat × BitVec 72 × BitVec 72) :=
  let off := f.addr % 64
  let last := off + f.len
  ((List.range 8).filter fun j => decide (off / 8 ≤ j ∧ j ≤ last / 8)).map fun j =>
    let m := (List.range 8).foldl (fun (m : BitVec 72) b =>
      if off ≤ 8 * j + b ∧ 8 * j + b ≤ last then m ||| BitVec.ofNat 72 (255 * 2 ^ (8 * b)) else m) 0
    (f.addr / 64 % 4096 * 8 + j, m, ((f.payload >>> (64 * j)).setWidth 64).setWidth 72)

/-- R193, R194: serve a NoC request: the status and the line. A read that corrects a word queues its write-back in port A's
place (notes/assumptions/81.md). -/
def State.dmNoc (s : State) (p : Nat) (f : Flit) (us : List (BitVec 72)) : Status × BitVec 512 × State :=
  let tw := (dmTouched f).zipIdx
  if f.op = 0 then
    let (d, bad, s) := tw.foldl (fun (r : BitVec 512 × Bool × State) q =>
      let k := q.1.1
      let s := r.2.2.upsetAt true p k (us.getD q.2 0)
      let (v, po, sbe, unc, s) := s.readWord true (s.memW true p k)
      let s := s.queueWb true p false (tget s.mem.dmCfg p {}).corrWb k v sbe unc
      (r.1 ||| ((v.setWidth 64).setWidth 512 <<< (64 * (k % 8))), r.2.1 || po, s)) (0, false, s)
    (if bad then .poisoned else .okay, d, s)
  else
    let s := tw.foldl (fun (s : State) q =>
      let (k, m, v) := q.1
      let s := s.upsetAt true p k (us.getD q.2 0)
      let s := s.setArr true p { (s.arr true p).cancel k with news := [] }
      if m = low64 (~~~ 0) then s.setMemW true p k (some ⟨v, 0, f.poison⟩)
      else
        let (a, s) := s.mergeAct true p { pb := false, wr := true, word := k, mask := m, v := v, wp := f.poison }
        s.setMemW true p k (some ⟨a.v, 0, a.poison⟩)) s
    (.okay, 0, s)

/-- R194: the answer the table gives before the array is read or written, if one of its first rows applies. -/
def State.dmRefuse (s : State) (p : Nat) (m : Moving) : Option Status :=
  let v := s.vatOfSector (2 * p)
  if 16 ≤ v then some .decerr
  else if s.clamped v || s.bit (VAT.VAT_STAT.SWAPPING v) || s.bit (VAT.VAT_STAT.GATED v) then some .targetReset
  else if !(tget s.mem.dmCfg p {}).nocEn then some .slverr
  else if m.vat ≠ v ∧ m.vat ≠ 0 then some .slverr
  else if 64 ≤ m.f.addr % 64 + m.f.len then some .slverr
  else none

/-- The first request a DM serves is answered, as R194 says; one for a memory under self-test waits (R197). `takes`: it takes
the DM cycles of its banks from the fabric ports (R193). -/
def State.dmAnswer (s : State) (p : Nat) (us : List (BitVec 72)) (takes : Bool) : State :=
  let id := ID.dm p
  match tget s.noc.serve id [] with
  | [] => s
  | m :: ms =>
    let pop := fun (s : State) => ({ s with noc := { s.noc with serve := tput s.noc.serve id ms [] } } : State)
    match s.dmRefuse p m with
    | some st => (pop s).respond id m st 0
    | none =>
      if s.mem.test.contains (true, p) then s
      else
        let (st, d, s) := s.dmNoc p m.f us
        let x := s.arr true p
        let use := (dmTouched m.f).foldl (fun (t : Tab Nat) q =>
          let n := if m.f.op = 0 ∨ q.2.1 = low64 (~~~ 0) then 1 else 2
          [q.1 % 8, 8 + q.1 % 8, 16 + q.1 % 8].foldl (fun t k => tput t k (tget t k 0 + n) 0) t) x.use
        (pop (if takes then s.setArr true p { x with use := use } else s)).respond id m st d

/-- DM_NOC_REQUEST (R193, R194): fabric requests come first: a request that needs a bank with a deferred fabric request
waits. -/
def execDmNocRequest (p : Fin 112) (us : List (BitVec 72)) (s : State) : Host.Outcome State Fault Refusal :=
  match tget s.noc.serve (ID.dm p) [] with
  | [] => .next s
  | m :: _ =>
    let banks := (dmTouched m.f).map fun q => q.1 % 8
    if (s.arr true p).defs.any fun r => banks.contains (r.word % 8) then .next s else .next (s.dmAnswer p us false)

/-- DM_NOC_WAIT_EXPIRY (R193): the request has waited NOC_WAIT DM cycles and takes the next one in every bank it needs. -/
def execDmNocWaitExpiry (p : Fin 112) (us : List (BitVec 72)) (waited : Nat) (s : State) : Host.Outcome State Fault Refusal :=
  if waited < (tget s.mem.dmCfg p.val {}).nocWait then .next s else .next (s.dmAnswer p us true)

/-! Hold, clearing, memory init. -/

/-- R186, R197: what a memory has accepted completes: merges, DM requests, and queued write-backs. -/
def State.drainMem (s : State) (dm : Bool) (i : Nat) : State :=
  let x := s.arr dm i
  let s := if dm then
      x.defs.foldl (fun (s : State) r => s.dmPerform i r) (s.setArr true i { x with old := [], acts := [], use := [], defs := [], news := [] })
    else if (tget s.mem.bmCfg i {}).oneClk then s.bmCycle i
    else (s.bmLand i false).bmLand i true
  let x := s.arr dm i
  ((s.setArr dm i { x with wbA := none, wbB := none }).writeBack dm i x.wbA).writeBack dm i x.wbB

/-- R186: a held memory: what it has accepted completes, reads not returned go, outputs clear. -/
def State.holdMem (s : State) (dm : Bool) (i : Nat) : State := (s.drainMem dm i).setArr dm i {}

/-- R186: the memories of the sectors a test accepts are held. -/
def State.holdMems (s : State) (p : Nat → Bool) : State :=
  let s := (s.mem.bmA.map (·.1)).foldl (fun (s : State) b => if p (b / 60) then s.holdMem false b else s) s
  (s.mem.dmA.map (·.1)).foldl (fun (s : State) d => if p (2 * d) then s.holdMem true d else s) s

/-- R187, R189: the valid and poison bits of the memories of the sectors a test accepts clear. -/
def State.clearMems (s : State) (p : Nat → Bool) : State :=
  { s with mem := { s.mem with
      bm := tfilter (fun k _ => !p (k / 512 / 60)) s.mem.bm
      dm := tfilter (fun k _ => !p (2 * (k / 32768))) s.mem.dm } }

/-- The configurations of a sector's BM36, DM and slices as the live latches hold them (notes/assumptions/20.md). -/
def State.readConfig (s : State) (sec : Nat) : State :=
  let fr := (List.range 32).map fun k => s.liveFrame (sectorFrame sec (1120 + k))
  let bm := (List.range 60).foldl (fun (t : Tab BmCfg) i => tput t (60 * sec + i) (Config.bm36 fr i) {}) s.mem.bmCfg
  let dm := if sec % 2 = 0 then tput s.mem.dmCfg (sec / 2) (Config.dm fr) {} else s.mem.dmCfg
  let sl := (List.range 48).foldl (fun (t : Tab SliceCfg) i => tput t (48 * sec + i) (Config.slice fr i) {}) s.slc.cfg
  { s with mem := { s.mem with bmCfg := bm, dmCfg := dm }, slc := { s.slc with cfg := sl } }

end Sys2Proof.Machine
end

