-- ==== Sys2Proof/Machine/Fp.lean ====
section
/-! DEFINITION. The floating-point sums of the arithmetic slices (R132): exact sums of products, one rounding to FP32. -/

namespace Sys2Proof.Machine

/-- A number an operand spells: a finite value in units of 2^−266 with its sign, an infinity, or a NaN. -/
inductive FpVal where
  | fin (neg : Bool) (v : Int)
  | inf (neg : Bool)
  | nan (signaling : Bool)
deriving DecidableEq, Repr

/-- The scale: values are integers times 2^−266. -/
def fpScale : Nat := 266

/-- A finite magnitude m × 2^e with a sign. -/
def fpFin (neg : Bool) (m : Nat) (e : Int) : FpVal :=
  let v : Int := (m * 2 ^ (e + fpScale).toNat : Nat)
  .fin neg (if neg then -v else v)

/-- The value of an encoding with `eb` exponent bits and `mb` fraction bits; `flush`: subnormals are zero (bfloat16). -/
def fpDecode (eb mb : Nat) (flush : Bool) (w : Nat) : FpVal :=
  let neg := w.testBit (eb + mb)
  let e := w / 2 ^ mb % 2 ^ eb
  let f := w % 2 ^ mb
  let bias : Int := 2 ^ (eb - 1) - 1
  if e = 2 ^ eb - 1 then (if f = 0 then .inf neg else .nan (!f.testBit (mb - 1)))
  else if e = 0 then (if flush then .fin neg 0 else fpFin neg f (1 - bias - mb))
  else fpFin neg (2 ^ mb + f) (e - bias - mb)

/-- The product of two values. Both are in units of 2^−266, their product is brought back to the same unit exactly: every
product of two binary16 or bfloat16 values is a multiple of 2^−266. -/
def fpMul (a b : FpVal) : FpVal := match a, b with
  | .nan x, .nan y => .nan (x || y)
  | .nan x, _ => .nan x
  | _, .nan y => .nan y
  | .inf n, .inf m => .inf (n != m)
  | .inf n, .fin m v => if v = 0 then .nan true else .inf (n != m)
  | .fin n v, .inf m => if v = 0 then .nan true else .inf (n != m)
  | .fin n v, .fin m w => .fin (n != m) (v * w / 2 ^ fpScale)

/-- A value with its sign turned over. -/
def fpNeg : FpVal → FpVal
  | .fin n v => .fin (!n) (-v)
  | .inf n => .inf (!n)
  | .nan s => .nan s

/-- The exact sum of two values; infinities of opposite sign are an invalid operation. A sum of zeros is −0 only where both
are −0. -/
def fpAdd (a b : FpVal) : FpVal := match a, b with
  | .nan x, .nan y => .nan (x || y)
  | .nan x, _ => .nan x
  | _, .nan y => .nan y
  | .inf n, .inf m => if n = m then .inf n else .nan true
  | .inf n, _ => .inf n
  | _, .inf m => .inf m
  | .fin n v, .fin m w => .fin (if v + w = 0 then n && m else decide (v + w < 0)) (v + w)

/-- R132: flags an FP operation sets. -/
structure FpFlags where
  nv : Bool := false
  ovf : Bool := false
  uf : Bool := false
deriving DecidableEq, Repr

/-- Round half to even: n / 2^k. -/
def roundEven (n k : Nat) : Nat :=
  let q := n / 2 ^ k
  let r := n % 2 ^ k
  if 2 * r > 2 ^ k ∨ (2 * r = 2 ^ k ∧ q % 2 = 1) then q + 1 else q

/-- R132: round once to FP32, nearest even. A result below 2^−126 becomes a zero of its sign and sets UF; overflow gives
infinity and sets OF; an invalid operation the quiet NaN 0x7FC00000 and NV. `quiet` is the word of a NaN that a NaN operand
gives (its sign and payload are open). -/
def fpRound (v : FpVal) (quiet : BitVec 32) : BitVec 32 × FpFlags := match v with
  | .nan true => (0x7FC00000#32, { nv := true })
  | .nan false => (quiet ||| 0x7FC00000#32, {})
  | .inf n => (if n then 0xFF800000#32 else 0x7F800000#32, {})
  | .fin n v =>
    let sgn : Nat := if n then 2 ^ 31 else 0
    let m := v.natAbs
    if m = 0 then (BitVec.ofNat 32 sgn, {})
    else
      let top := Nat.log2 m
      let k := max (top - 23) (fpScale - 149)
      let q := roundEven m k
      let (q, k) := if q = 2 ^ 24 then (2 ^ 23, k + 1) else (q, k)
      if q < 2 ^ 23 then (BitVec.ofNat 32 sgn, { uf := true })
      else
        let e : Int := (k : Int) + 23 - fpScale + 127
        if 255 ≤ e then (BitVec.ofNat 32 (sgn + 0x7F800000), { ovf := true })
        else (BitVec.ofNat 32 (sgn + e.toNat * 2 ^ 23 + (q - 2 ^ 23)), {})

/-- An FP32 value as it stands in a word. -/
def fp32 (w : BitVec 64) : FpVal := fpDecode 8 23 false (w.toNat % 2 ^ 32)

end Sys2Proof.Machine
end

