-- ==== Sys2Proof/Machine/Slices.lean ====
section
/-! DEFINITION. The sequenced arithmetic slices (R125 to R163): operand memory, coefficients, address generators, the
sequencer and its instructions, streams, cascade, inspection. One instruction command is one slice cycle: the slice issues
the instruction at its PC, or stalls. -/

namespace Sys2Proof.Machine

/-- R201: the instruction frame and the coefficient frame of a slice. -/
def instrFrame (g : Nat) : Nat := sectorFrame (g / 48) (1024 + g % 48)
def coefFrame (g : Nat) : Nat := sectorFrame (g / 48) (1072 + g % 48)

/-- R128: IS[k] (notes/assumptions/21.md). -/
def State.isWord (s : State) (g k : Nat) : Word := frameWord (s.liveFrame (instrFrame g)) k

/-- R127, R579: COEF_WR of a slice. -/
def State.coefWr (s : State) (g : Nat) : Bool := (s.liveFrame (sectorFrame (g / 48) 1151)).getLsbD (g % 48)

/-- The parity of a word's bits. -/
def parity {n : Nat} (w : BitVec n) : Bool := (List.range n).foldl (fun p i => p ^^ w.getLsbD i) false

/-! Operand memory and coefficients. -/

def State.opmW (s : State) (g a : Nat) : Option OpmW := tget s.slc.opm (1024 * g + a) none
def State.setOpm (s : State) (g a : Nat) (w : Option OpmW) : State :=
  { s with slc := { s.slc with opm := tput s.slc.opm (1024 * g + a) w none } }

/-- R140: a write sets the valid bit, stores the poison mark and recomputes parity. -/
def State.opmWrite (s : State) (g a : Nat) (v : BitVec 36) (p : Bool) : State := s.setOpm g a (some ⟨v, parity v, p⟩)

/-- R140, R142: a parity mismatch is flagged and counted. -/
def State.parityHit (s : State) (g : Nat) : State := (s.wrb (SLC.FLAGS.PAR g) true).bump (SLC.PAR_CNT g)

/-- R140: what a word holds reads as: data, poison (its own or a parity mismatch), and whether the parity mismatches. -/
def opmVal : Option OpmW → BitVec 36 × Bool × Bool
  | none => (0, false, false)
  | some w => let bad := parity w.v != w.par; (w.v, w.poison || bad, bad)

/-- R140: read a word whose stored bits an upset may have flipped: data, poison. -/
def State.opmRead (s : State) (g a : Nat) (u : BitVec 37) : BitVec 36 × Bool × State :=
  let w := (s.opmW g a).map fun w => { w with v := w.v ^^^ u.setWidth 36, par := w.par ^^ u.getLsbD 36 }
  let s := s.setOpm g a w
  let (v, p, bad) := opmVal w
  (v, p, if bad then s.parityHit g else s)

/-- COEF[n] as the coefficient frame holds it: bits 27n to 27n + 26 (notes/assumptions/21.md). -/
def State.coef (s : State) (g n : Nat) : BitVec 27 := (s.liveFrame (coefFrame g) >>> (27 * n)).setWidth 27

/-- Write COEF[n]. -/
def State.setCoef (s : State) (g n : Nat) (v : BitVec 27) : State :=
  let f := s.liveFrame (coefFrame g)
  let f := (f &&& ~~~ ((0x7FFFFFF#2072) <<< (27 * n))) ||| (v.setWidth 2072 <<< (27 * n))
  s.setLive (coefFrame g) f

/-- R142: read COEF[n], whose stored bits an upset may have flipped: data, poison. -/
def State.coefRead (s : State) (g n : Nat) (u : BitVec 28) : BitVec 27 × Bool × State :=
  let old := s.coef g n
  let par := (tget s.slc.coefPar (64 * g + n) none).getD (parity old) ^^ u.getLsbD 27
  let v := old ^^^ u.setWidth 27
  let s := if u = 0 then s else s.setCoef g n v
  let bad := parity v != par
  let s : State := { s with slc := { s.slc with
    coefPar := tput s.slc.coefPar (64 * g + n) (if bad then some par else none) none } }
  (v, bad, if bad then s.parityHit g else s)

/-- R142: a coefficient frame takes other data bits, by an upset or a Churn write, and its entries keep their parity bits. -/
def State.keepCoefPar (s : State) (n : Nat) (new : Frame) : State := match frameSector n with
  | some sec =>
    if 1072 ≤ frameIdx n ∧ frameIdx n < 1120 then
      let g := 48 * sec + (frameIdx n - 1072)
      let entry := fun (f : Frame) (k : Nat) => ((f >>> (27 * k)).setWidth 27 : BitVec 27)
      let pars := (List.range 64).foldl (fun (t : Tab (Option Bool)) k =>
        let par := (tget t (64 * g + k) none).getD (parity (entry (s.liveFrame n) k))
        tput t (64 * g + k) (if parity (entry new k) = par then none else some par) none) s.slc.coefPar
      { s with slc := { s.slc with coefPar := pars } }
    else s
  | none => s

/-- R142: a load writes a coefficient frame with fresh parity bits. -/
def State.freshCoefPar (s : State) (n : Nat) : State := match frameSector n with
  | some sec =>
    if 1072 ≤ frameIdx n ∧ frameIdx n < 1120 then
      let g := 48 * sec + (frameIdx n - 1072)
      { s with slc := { s.slc with coefPar := tfilter (fun i _ => i / 64 != g) s.slc.coefPar } }
    else s
  | none => s

/-! Address generators. -/

/-- R143: one step of an address generator. -/
def AgSt.walk (a : AgSt) : AgSt :=
  let d : Int := ((a.ptr + 1024 - a.base % 1024) % 1024 : Nat)
  { a with ptr := (a.base + ((d + a.step) % (a.len : Int)).toNat) % 1024 }

/-- R144: the delay target. -/
def AgSt.back (a : AgSt) : Nat :=
  let d : Int := ((a.ptr + 1024 - a.base % 1024) % 1024 : Nat)
  (a.base + ((d - a.step) % (a.len : Int)).toNat) % 1024

def SliceSt.agen (x : SliceSt) (k : Nat) : AgSt := tget x.ag k {}
def SliceSt.setAg (x : SliceSt) (k : Nat) (a : AgSt) : SliceSt := { x with ag := tput x.ag k a {} }
def SliceSt.acc (x : SliceSt) (a : Bool) : SAcc := if a then x.acc1 else x.acc0
def SliceSt.setAcc (x : SliceSt) (a : Bool) (v : SAcc) : SliceSt := if a then { x with acc1 := v } else { x with acc0 := v }

/-- R131: the overflow flag of an accumulator. -/
def ovfFld (g : Nat) (a : Bool) : Fld := if a then SLC.FLAGS.OVF1 g else SLC.FLAGS.OVF0 g

/-! Fields of an instruction (R152 to R154). -/

def iOp (w : Word) : Nat := wget w 31 27
def iSm (w : Word) : Nat := wget w 26 23
def iA (w : Word) : Bool := w.getLsbD 22
def iFmt (w : Word) : Nat := wget w 21 19
def iSa (w : Word) : Nat := wget w 15 14
def iAx (w : Word) : Bool := w.getLsbD 13
def iSb (w : Word) : Nat := wget w 12 11
def iBsrc (w : Word) : Nat := wget w 10 9

/-- The bits of [21:0] the instruction's format names (R153, R154). -/
def namedBits : Nat → Nat
  | 0x00 => 0
  | 0x01 => 0x3F0180
  | 0x02 => 0x3FFF80
  | 0x08 => 0x00C000
  | 0x09 => 0x3FFFFE
  | 0x0A => 0x3FF000
  | 0x0B => 0x00F800
  | 0x0C => 0x300000
  | 0x10 => 0x3FFFFF
  | 0x11 => 0x3FF000
  | 0x12 => 0x3C07FF
  | 0x13 => 0x00F000
  | 0x14 => 0
  | 0x15 => 0x00001F
  | _ => 0

/-- R152: the listed opcodes. -/
def listedOps : List Nat := [0x00, 0x01, 0x02, 0x08, 0x09, 0x0A, 0x0B, 0x0C, 0x10, 0x11, 0x12, 0x13, 0x14, 0x15]

/-- R130: formats in which COEF supplies operand B. -/
def coefFmt (f : Nat) : Bool := f == 0 || f == 1 || f == 6

/-- R151: the instruction is illegal where it stands. -/
def illegalAt (x : SliceSt) (coefWr : Bool) (w : Word) : Bool :=
  let op := iOp w
  let low := wget w 21 0
  !listedOps.contains op
  || low &&& namedBits op != low
  || ((op == 1 || op == 2) && iFmt w == 7)
  || (op == 1 && !coefFmt (iFmt w))
  || (op == 2 && iBsrc w == 1 && !coefFmt (iFmt w))
  || (op == 0x10 && (x.loops.length == 2 || decide (wget w 21 16 ≤ x.pc)
        || (match x.loops with | l :: _ => decide (l.stop < wget w 21 16) | [] => false)))
  || (op == 0x0B && !coefWr)
  || (op == 0x12 && (wget w 19 18 == 2 && (wget w 10 0 == 0 || decide (1024 < wget w 10 0))))
  || (op == 0x12 && decide (wget w 19 18 < 2) && w.getLsbD 10)
  || ((op == 0x11 || op == 0x13) && decide (0xD ≤ wget w 15 12))

/-- R148: what follows the instruction at PC: the innermost loop ending there goes round or closes, and so for the enclosing
one. Answers the next PC and the loops. -/
def loopEnd (pc : Nat) : List Loop → Nat × List Loop
  | [] => ((pc + 1) % 64, [])
  | l :: t =>
    if l.stop ≠ pc then ((pc + 1) % 64, l :: t)
    else if l.left = 0 then (l.start, l :: t)
    else if 1 < l.left then (l.start, { l with left := l.left - 1 } :: t)
    else loopEnd pc t

/-- R150: a condition. -/
def cond (s : State) (g : Nat) (x : SliceSt) (a : Bool) (ci : BitVec 4) (c : Nat) : Bool :=
  let acc := x.acc a
  let sgn : Option Int := if acc.fp then
      (match fp32 acc.v with
        | .fin _ v => some (if v = 0 then 0 else if v < 0 then -1 else 1)
        | .inf n => some (if n then -1 else 1)
        | .nan _ => none)
    else some (if acc.v = 0 then 0 else if acc.v.toInt < 0 then -1 else 1)
  match c with
  | 0 => true
  | 1 => !x.x.isEmpty
  | 2 => x.x.isEmpty
  | 3 => sgn == some (-1)
  | 4 => sgn == some 0
  | 5 => sgn == some 1
  | 6 => ci.getLsbD 0
  | 7 => ci.getLsbD 1
  | 8 => ci.getLsbD 2
  | 9 => ci.getLsbD 3
  | 10 => x.trig
  | 11 => s.bit (ovfFld g a)
  | 12 => acc.poison
  | _ => false

/-! Slots, port P and inspection. -/

/-- R137: which slot an access takes: in RUN and STALL the first free one of the cycle, otherwise slot 0. -/
def SliceSt.slotFor (x : SliceSt) : Option Nat := if x.st = 1 ∨ x.st = 2 then x.free.head? else some 0

/-- R137, R138: a new slice cycle: P_GNT ends, P_COLLIDE follows a collision of the last cycle, and slots are free as given. -/
def SliceSt.newCycle (x : SliceSt) (free : List Nat) (lastW : Option (Nat × Option OpmW)) : SliceSt :=
  { x with free := free, lastW := lastW, pGnt := false, pColl := x.collNow, collNow := false }

/-- R137: the slot of a port P access, with the slice as its cycle stands, at most one access in a cycle. Outside RUN and
STALL an access that finds no slot left in the cycle, or follows another, falls into a later one. -/
def SliceSt.portSlot (x : SliceSt) : Option (Nat × SliceSt) :=
  match (if x.pGnt then none else x.free.head?) with
  | some k => some (k, x)
  | none => if x.st = 1 ∨ x.st = 2 then none else some (0, x.newCycle [0, 1] none)

/-- R135, R138: an access in slot 0 of a cycle whose slot 1 wrote the same word sees the word as it was before. -/
def SliceSt.before (x : SliceSt) (slot a : Nat) : Option (Option OpmW) := match x.lastW with
  | some (b, old) => if slot = 0 ∧ b = a then some old else none
  | none => none

/-- R163: carry out the inspection access that waits, in a slot; slot 2 stands for one of a later cycle. After a read of COEF
whose parity mismatches POISON reads 0 (notes/assumptions/81.md). -/
def State.inspect (s : State) (g slot : Nat) (u : BitVec 37) (uc : BitVec 28) : State :=
  let x := s.slice g
  let a := s.rd (SLC.INSP_CTL.ADDR g)
  let s := s.setSlice g { x with free := x.free.erase slot }
  let s := s.wrb (SLC.INSP_CTL.BUSY g) false
  if s.bit (SLC.INSP_CTL.TGT g) then
    let (v, p, s) := s.coefRead g (a % 64) uc
    ((((s.wr (SLC.INSP_LO.D g) v.toNat).wr (SLC.INSP_HI.DHI g) 0).wrb (SLC.INSP_HI.POISON g) false).wrb (SLC.INSP_HI.PARERR g) p)
  else if s.bit (SLC.INSP_CTL.WRITE g) then
    if (x.before slot a).isSome then s
    else s.opmWrite g a (BitVec.ofNat 36 (s.rd (SLC.INSP_LO.D g) + 2 ^ 32 * s.rd (SLC.INSP_HI.DHI g))) (s.bit (SLC.INSP_HI.POISON g))
  else
    let (v, p, bad, s) := match x.before slot a with
      | some old => let (v, p, bad) := opmVal old; (v, p, bad, if bad then s.parityHit g else s)
      | none => let (v, p, s') := s.opmRead g a u; (v, p, (opmVal (s'.opmW g a)).2.2, s')
    ((((s.wr (SLC.INSP_LO.D g) (v.toNat % 2 ^ 32)).wr (SLC.INSP_HI.DHI g) (v.toNat / 2 ^ 32)).wrb (SLC.INSP_HI.POISON g) p).wrb
      (SLC.INSP_HI.PARERR g) bad)

/-- R137: at the end of a cycle an inspection access that waits takes a slot port P has left. -/
def State.closeCycle (s : State) (g : Nat) : State :=
  if s.bit (SLC.INSP_CTL.BUSY g) then
    match (s.slice g).slotFor with
    | some k => s.inspect g k 0 0
    | none => s
  else s

/-- R162, R163: outside RUN and STALL an inspection access that waits finds a free slot in the next cycle. -/
def State.settle (s : State) (g : Nat) : State :=
  let st := (s.slice g).st
  if s.bit (SLC.INSP_CTL.BUSY g) ∧ ¬(st = 1 ∨ st = 2) then s.inspect g 2 0 0 else s

/-- R137, R138: a port P access in a slot raises P_GNT. -/
def State.portP (s : State) (g slot a : Nat) (we : Bool) (d : BitVec 36) (u : BitVec 37) : State :=
  let x := s.slice g
  let s := s.setSlice g { x with free := x.free.erase slot, pGnt := true, collNow := we && (x.before slot a).isSome }
  if we then
    match x.before slot a with
    | some _ => (s.wrb (SLC.FLAGS.COLL g) true).bump (SLC.COLL_CNT g)
    | none => s.opmWrite g a d false
  else
    let (v, p, s) := match x.before slot a with
      | some old => let (v, p, bad) := opmVal old; (v, p, if bad then s.parityHit g else s)
      | none => s.opmRead g a u
    s.setSlice g { s.slice g with pRd := some (v, p) }

/-! The sequencer. -/

/-- What issuing an instruction comes to: a stall with its cause (SLC.STAT), or completion with the free slots of the cycle,
the word slot 1 wrote with what it held, a jump target, and whether the slice enters DONE. -/
inductive Issue where
  | stall (cause : Nat)
  | ok (s : State) (x : SliceSt) (free : List Nat) (lastW : Option (Nat × Option OpmW)) (jump : Option Nat) (done : Bool)

/-- R148, R146: after an instruction: PC, loops, and the state: DONE, HALTED after a step or a halt, or RUN. -/
def SliceSt.after (x : SliceSt) (jump : Option Nat) (done : Bool) : SliceSt :=
  let (pc, loops) := match jump with
    | some t => (t, [])
    | none => loopEnd x.pc x.loops
  let st := if done then 3 else 1
  let x := { x with pc := pc, loops := loops, cause := 0 }
  if x.stepping || x.haltReq then
    { x with st := 4, prev := st, stepping := false, haltReq := false, haltWait := 0 }
  else { x with st := st }

/-- R145: the address generators an instruction names step once. -/
def SliceSt.steps (x : SliceSt) (sm : Nat) : SliceSt :=
  (List.range 4).foldl (fun (x : SliceSt) k => if sm.testBit k then x.setAg k (x.agen k).walk else x) x

/-- R139, R149: a stalled cycle: it is counted, both slots are free, and a halt that has waited 64 of them abandons the
instruction. -/
def State.stallCycle (s : State) (g cause : Nat) : State :=
  let x := s.slice g
  let s := s.bump (SLC.STALL_CNT g)
  let x := { x.newCycle [0, 1] none with st := 2, cause := cause, fo := if x.foHold then x.fo else 0 }
  if x.haltReq then
    if 64 ≤ x.haltWait + 1 then
      (s.setSlice g { x with st := 4, prev := 2, haltReq := false, haltWait := 0, stepping := false }).settle g
    else s.setSlice g { x with haltWait := x.haltWait + 1 }
  else s.setSlice g x

/-- R147: one slice cycle: the slice issues the instruction at PC where it is legal and has the opcode asked for. -/
def State.issueOp (s : State) (g op : Nat) (body : State → SliceSt → Word → Issue) : State :=
  let x0 := s.slice g
  let w := s.isWord g x0.pc
  if s.sliceHeld g || !(x0.st == 1 || x0.st == 2) || iOp w != op || illegalAt x0 (s.coefWr g) w then s
  else
    let s := s.closeCycle g
    let x := s.slice g
    let x := { x with fo := if x.foHold then x.fo else 0 }
    match body s x w with
    | .stall c => s.stallCycle g c
    | .ok s x free lastW jump done =>
      let x := x.steps (if op = 1 then iSm w ||| 3 else iSm w)
      (s.setSlice g ((x.newCycle free lastW).after jump done)).settle g

/-! Arithmetic. -/

/-- R130: the signed lanes of an operand word. -/
def lanes (f : Nat) (w : BitVec 36) : List Int := match f with
  | 0 => [(w.setWidth 27).toInt]
  | 1 => [((w.setWidth 27).toNat : Int)]
  | 2 => [(w.setWidth 18).toInt, ((w >>> 18).setWidth 18).toInt]
  | 3 => (List.range 4).map fun k => ((w >>> (8 * k)).setWidth 8).toInt
  | _ => []

/-- R130: the floating-point lanes of an operand word. -/
def fpLanes (f : Nat) (w : BitVec 36) : List FpVal :=
  let v := w.toNat
  if f = 4 then [fpDecode 5 10 false (v % 2 ^ 16), fpDecode 5 10 false (v / 2 ^ 16 % 2 ^ 16)]
  else [fpDecode 8 7 true (v % 2 ^ 16), fpDecode 8 7 true (v / 2 ^ 16 % 2 ^ 16)]

/-- R130: the carry-less product of two 27-bit words. -/
def clmul (a b : BitVec 27) : BitVec 64 :=
  (List.range 27).foldl (fun p k => if b.getLsbD k then p ^^^ (a.setWidth 64 <<< k) else p) 0

/-- R131: an exact integer result brought into an accumulator: the value, and whether it overflowed. -/
def accInt (v : Int) (sat : Bool) : BitVec 64 × Bool :=
  let hi : Int := 2 ^ 63 - 1
  let lo : Int := -(2 ^ 63)
  if lo ≤ v ∧ v ≤ hi then (BitVec.ofInt 64 v, false)
  else (if sat then BitVec.ofInt 64 (if hi < v then hi else lo) else BitVec.ofInt 64 v, true)

/-- R132: store an FP result with its flags. -/
def State.fpFlags (s : State) (g : Nat) (f : FpFlags) : State :=
  let s := if f.nv then s.wrb (SLC.FLAGS.NV g) true else s
  let s := if f.ovf then s.wrb (SLC.FLAGS.OF g) true else s
  if f.uf then s.wrb (SLC.FLAGS.UF g) true else s

/-- R132: round an exact FP sum; a NaN operand's NaN has a free sign and payload. -/
def State.fpResult (s : State) (g : Nat) (v : FpVal) : BitVec 64 × State := match v with
  | .nan false =>
    let (k, s) := s.fresh
    let (w, fl) := fpRound v (Config.freeWord k &&& 0x803FFFFF#32)
    (w.setWidth 64, s.fpFlags g fl)
  | _ => let (w, fl) := fpRound v 0; (w.setWidth 64, s.fpFlags g fl)

/-- R157: CIN of a slice: COUT of slice row j − 1 of its column; row 0 and CAS_EN = no read 0. -/
def State.cinOf (s : State) (g : Nat) : BitVec 64 × Bool :=
  if g % 24 = 0 || !(s.sliceCfg g).casEn then (0, false)
  else if s.sliceHeld (g - 1) then (0, false)
  else let x := s.slice (g - 1); (x.cout, x.coutP)

/-- R130 to R133, R153: the new accumulator of a TAP or MAC with operands a and b (b none: constant one). -/
def State.macAcc (s : State) (g : Nat) (x : SliceSt) (w : Word) (a b : Option (BitVec 36)) (poison : Bool) : SAcc × State :=
  let f := iFmt w
  let old := x.acc (iA w)
  let neg := w.getLsbD 18
  let clr := w.getLsbD 17
  let sat := w.getLsbD 16
  let casc := w.getLsbD 8
  let (cin, cinP) := if casc then s.cinOf g else (0, false)
  let av := a.getD 0
  let p := poison || cinP || (old.poison && !clr)
  if f = 6 then
    let b27 : BitVec 27 := match b with | some v => v.setWidth 27 | none => 1
    let prod := clmul (av.setWidth 27) b27
    let low : BitVec 64 := 0x1FFFFFFFFFFFFF
    let base := if clr then 0 else old.v
    (⟨base ^^^ prod ^^^ (cin &&& low), p, false⟩, s)
  else if f = 4 ∨ f = 5 then
    let one : FpVal := fpFin false 1 0
    let prods := match b with
      | some b => (fpLanes f av).zipWith fpMul (fpLanes f b)
      | none => (fpLanes f av).map fun v => fpMul v one
    let base := if clr then fpFin false 0 0 else fp32 old.v
    let sum := prods.foldl (fun t v => fpAdd t (if neg then fpNeg v else v)) base
    let sum := if casc then fpAdd sum (fp32 cin) else sum
    let (v, s) := s.fpResult g sum
    (⟨v, p, true⟩, s)
  else
    let prod : Int := match b with
      | some b => ((lanes f av).zipWith (· * ·) (lanes f b)).foldl (· + ·) 0
      | none => (lanes f av).foldl (· + ·) 0
    let base : Int := if clr then 0 else old.v.toInt
    let v := base + (if neg then -prod else prod) + (if casc then cin.toInt else 0)
    let (v, ov) := accInt v sat
    (⟨v, p, false⟩, if ov then s.wrb (ovfFld g (iA w)) true else s)

/-- R153: CSO copies the new accumulator to COUT. -/
def SliceSt.cso (x : SliceSt) (w : Word) (a : SAcc) : SliceSt :=
  if w.getLsbD 7 then { x with cout := a.v, coutP := a.poison } else x

/-- SLICE_NOP (R152). -/
def execSliceNop (g : Fin 10752) (s : State) : Host.Outcome State Fault Refusal :=
  .next (s.issueOp g 0x00 fun s x _ => .ok s x [0, 1] none none false)

/-- SLICE_TAP (R144): the sample at AG0 times COEF at AG1; the sample moves to next(AG0); AG0 and AG1 step. -/
def execSliceTap (g : Fin 10752) (ua : BitVec 37) (uc : BitVec 28) (s : State) : Host.Outcome State Fault Refusal :=
  .next (s.issueOp g 0x01 fun s x w =>
    let (v, p, s) := s.opmRead g (x.agen 0).ptr ua
    let (c, cp, s) := s.coefRead g ((x.agen 1).ptr % 64) uc
    let (acc, s) := s.macAcc g x w (some v) (some (c.setWidth 36)) (p || cp)
    let dst := (x.agen 0).back
    let old := s.opmW g dst
    .ok (s.opmWrite g dst v p) ((x.setAcc (iA w) acc).cso w acc) [] (some (dst, old)) none false)

/-- SLICE_MAC (R153). -/
def execSliceMac (g : Fin 10752) (ua ub : BitVec 37) (uc : BitVec 28) (s : State) : Host.Outcome State Fault Refusal :=
  .next (s.issueOp g 0x02 fun s x w =>
    let usesX := iAx w || iBsrc w == 2
    match usesX, x.x with
    | true, [] => .stall 1
    | _, xs =>
      let (xv, xp) := xs.headD (0, false)
      let (a, ap, s) := if iAx w then (xv, xp, s) else s.opmRead g (x.agen (iSa w)).ptr ua
      let (b, bp, s) : Option (BitVec 36) × Bool × State := match iBsrc w with
        | 0 => let r := s.opmRead g (x.agen (iSb w)).ptr ub; (some r.1, r.2.1, r.2.2)
        | 1 => let r := s.coefRead g ((x.agen (iSb w)).ptr % 64) uc; (some (r.1.setWidth 36), r.2.1, r.2.2)
        | 2 => (some xv, xp, s)
        | _ => (none, false, s)
      let (acc, s) := s.macAcc g x w (some a) b (ap || bp)
      let x := if usesX then { x with x := xs.tail } else x
      let reads := (if iAx w then 0 else 1) + (if iBsrc w = 0 then 1 else 0)
      .ok s ((x.setAcc (iA w) acc).cso w acc) ([0, 1].drop reads) none none false)

/-- SLICE_IN (R149). -/
def execSliceIn (g : Fin 10752) (s : State) : Host.Outcome State Fault Refusal :=
  .next (s.issueOp g 0x08 fun s x w => match x.x with
    | [] => .stall 1
    | (v, p) :: xs =>
      let a := (x.agen (iSa w)).ptr
      .ok (s.opmWrite g a v p) { x with x := xs } [0] (some (a, s.opmW g a)) none false)

/-- R134: the conversion of an accumulator: the result and whether OSAT clamped it. -/
def outConv (v : BitVec 64) (w : Word) : BitVec 64 × Bool :=
  if w.getLsbD 1 then ((v.setWidth 32).setWidth 64, false)
  else
    let sh := wget w 21 16
    let width := wget w 13 8
    let a := v.toInt
    let half : Int := if sh = 0 then 0 else 2 ^ (sh - 1)
    let r : Int := match wget w 7 6 with
      | 0 => a / 2 ^ sh
      | 1 => (a + half) / 2 ^ sh
      | 2 =>
        let q := (a + half) / 2 ^ sh
        if sh ≠ 0 ∧ a % 2 ^ sh = half ∧ q % 2 = 1 then q - 1 else q
      | _ => if a < 0 then (a + (2 ^ sh - 1)) / 2 ^ sh else a / 2 ^ sh
    if width = 0 then (BitVec.ofInt 64 r, false)
    else
      let hi : Int := 2 ^ (width - 1) - 1
      let lo : Int := -(2 ^ (width - 1))
      if w.getLsbD 5 then
        if hi < r then (BitVec.ofInt 64 hi, true)
        else if r < lo then (BitVec.ofInt 64 lo, true)
        else (BitVec.ofInt 64 r, false)
      else (((BitVec.ofInt 64 r) <<< (64 - width)).sshiftRight (64 - width), false)

/-- SLICE_OUT (R134, R156). -/
def execSliceOut (g : Fin 10752) (s : State) : Host.Outcome State Fault Refusal :=
  .next (s.issueOp g 0x09 fun s x w =>
    let noy := w.getLsbD 2
    if !noy && decide (2 ≤ x.y.length) then .stall 2
    else
      let acc := x.acc (iA w)
      let (r, clamp) := outConv acc.v w
      let s := if clamp then s.wrb (SLC.FLAGS.OSATF g) true else s
      let x := if noy then x else { x with y := x.y ++ [(r, acc.poison)] }
      let (x, s) := if w.getLsbD 4 then (x.setAcc (iA w) {}, s.wrb (ovfFld g (iA w)) false) else (x, s)
      if w.getLsbD 3 then
        let a := (x.agen (iSa w)).ptr
        .ok (s.opmWrite g a (r.setWidth 36) acc.poison) x [0] (some (a, s.opmW g a)) none false
      else .ok s x [0, 1] none none false)

/-- SLICE_LDA (R154). -/
def execSliceLda (g : Fin 10752) (ua : BitVec 37) (s : State) : Host.Outcome State Fault Refusal :=
  .next (s.issueOp g 0x0A fun s x w =>
    let put := fun (s : State) (x : SliceSt) (v : BitVec 36) (p : Bool) (free : List Nat) =>
      let e : BitVec 64 := if w.getLsbD 12 then v.setWidth 64 else v.signExtend 64
      Issue.ok s (x.setAcc (iA w) ⟨e <<< wget w 21 16, p, false⟩) free none none false
    if iAx w then
      match x.x with
      | [] => .stall 1
      | (v, p) :: xs => put s { x with x := xs } v p [0, 1]
    else
      let (v, p, s) := s.opmRead g (x.agen (iSa w)).ptr ua
      put s x v p [1])

/-- SLICE_LDC (R142): COEF[AG SB] takes bits [26:0] of the operand. -/
def execSliceLdc (g : Fin 10752) (ua : BitVec 37) (s : State) : Host.Outcome State Fault Refusal :=
  .next (s.issueOp g 0x0B fun s x w =>
    let put := fun (s : State) (x : SliceSt) (v : BitVec 36) (free : List Nat) =>
      let n := (x.agen (iSb w)).ptr % 64
      let s := s.setCoef g n (v.setWidth 27)
      let s : State := { s with slc := { s.slc with coefPar := tput s.slc.coefPar (64 * g.val + n) none none } }
      Issue.ok s x free none none false
    if iAx w then
      match x.x with
      | [] => .stall 1
      | (v, _) :: xs => put s { x with x := xs } v [0, 1]
    else
      let (v, _, s) := s.opmRead g (x.agen (iSa w)).ptr ua
      put s x v [1])

/-- SLICE_CAS (R157): CIN is added to the accumulator, and the accumulator copied to COUT, as ADDC and OUTC say. -/
def execSliceCas (g : Fin 10752) (s : State) : Host.Outcome State Fault Refusal :=
  .next (s.issueOp g 0x0C fun s x w =>
    let old := x.acc (iA w)
    let (acc, s) := if w.getLsbD 21 then
        let (cin, cp) := s.cinOf g
        if old.fp then
          let (v, s) := s.fpResult g (fpAdd (fp32 old.v) (fp32 cin))
          ((⟨v, old.poison || cp, true⟩ : SAcc), s)
        else
          let (v, ov) := accInt (old.v.toInt + cin.toInt) false
          (⟨v, old.poison || cp, false⟩, if ov then s.wrb (ovfFld g (iA w)) true else s)
      else (old, s)
    let x := x.setAcc (iA w) acc
    let x := if w.getLsbD 20 then { x with cout := acc.v, coutP := acc.poison } else x
    .ok s x [0, 1] none none false)

/-- SLICE_LOOP (R148): a loop opens whose body runs from the next instruction to END. -/
def execSliceLoop (g : Fin 10752) (s : State) : Host.Outcome State Fault Refusal :=
  .next (s.issueOp g 0x10 fun s x w =>
    .ok s { x with loops := ⟨x.pc + 1, wget w 21 16, wget w 15 0⟩ :: x.loops } [0, 1] none none false)

/-- R150: a JMP or WAIT that finds the TRIG latch set clears it. -/
def SliceSt.useTrig (x : SliceSt) (c : Nat) : SliceSt := if c = 10 then { x with trig := false } else x

/-- SLICE_JMP (R150). -/
def execSliceJmp (g : Fin 10752) (ci : BitVec 4) (src : PortSrc) (s : State) : Host.Outcome State Fault Refusal :=
  let (d, s) := s.drawFor src
  let ci := s.seesBus src d (portSlice g) 89 ci
  .next (s.issueOp g 0x11 fun s x w =>
    let c := wget w 15 12
    if cond s g x (iA w) ci c then .ok s (x.useTrig c) [0, 1] none (some (wget w 21 16)) false
    else .ok s x [0, 1] none none false)

/-- SLICE_SETAG (R145): one field of one address generator; a step SM names follows the write. -/
def execSliceSetag (g : Fin 10752) (s : State) : Host.Outcome State Fault Refusal :=
  .next (s.issueOp g 0x12 fun s x w =>
    let k := wget w 21 20
    let v := wget w 10 0
    let a := x.agen k
    let a := match wget w 19 18 with
      | 0 => { a with ptr := v }
      | 1 => { a with base := v }
      | 2 => { a with len := v }
      | _ => { a with step := (BitVec.ofNat 11 v).toInt }
    .ok s (x.setAg k a) [0, 1] none none false)

/-- SLICE_WAIT (R149). -/
def execSliceWait (g : Fin 10752) (ci : BitVec 4) (src : PortSrc) (s : State) : Host.Outcome State Fault Refusal :=
  let (d, s) := s.drawFor src
  let ci := s.seesBus src d (portSlice g) 89 ci
  .next (s.issueOp g 0x13 fun s x w =>
    let c := wget w 15 12
    if cond s g x (iA w) ci c then .ok s (x.useTrig c) [0, 1] none none false else .stall 3)

/-- SLICE_HALT (R146). -/
def execSliceHalt (g : Fin 10752) (s : State) : Host.Outcome State Fault Refusal :=
  .next (s.issueOp g 0x14 fun s x _ => .ok s x [0, 1] none none true)

/-- SLICE_SIG (R154). -/
def execSliceSig (g : Fin 10752) (s : State) : Host.Outcome State Fault Refusal :=
  .next (s.issueOp g 0x15 fun s x w =>
    .ok s { x with fo := wget w 3 0, foHold := w.getLsbD 4 } [0, 1] none none false)

/-- ILLEGAL_INSTRUCTION (R151): the slice does not execute it and enters ERROR. -/
def execIllegalInstruction (g : Fin 10752) (s : State) : Host.Outcome State Fault Refusal :=
  let x := s.slice g
  if s.sliceHeld g || !(x.st == 1 || x.st == 2) || !illegalAt x (s.coefWr g) (s.isWord g x.pc) then .next s
  else
    let s := s.closeCycle g
    let x := s.slice g
    .next (((s.setSlice g { x.newCycle [0, 1] none with
      st := 5, cause := 0, stepping := false, haltReq := false, haltWait := 0, fo := if x.foHold then x.fo else 0 }).wrb
      (SLC.FLAGS.ILLEGAL g) true).settle g)

/-! Inputs of a slice by signal (R126): X 0 on, X_VALID 36, X_POISON 37, Y_READY 38, P_ADDR 39 on, P_WD 49 on, P_WE 85,
P_REQ 86, START 87, TRIG 88, CI 89 on. -/

/-- SLICE_START (R146). -/
def execSliceStart (g : Fin 10752) (src : PortSrc) (s : State) : Host.Outcome State Fault Refusal :=
  let (d, s) := s.drawFor src
  let x := s.slice g
  if !s.sliceHeld g && (x.st == 0 || x.st == 3) && s.sees src d (portSlice g) 87 true then
    .next (s.setSlice g { x.newCycle [0, 1] none with st := 1, pc := 0, loops := [] })
  else .next s

/-- TRIG_INPUT (R150). -/
def execTrigInput (g : Fin 10752) (src : PortSrc) (s : State) : Host.Outcome State Fault Refusal :=
  let (d, s) := s.drawFor src
  if s.sliceHeld g || !s.sees src d (portSlice g) 88 true then .next s
  else .next (s.setSlice g { s.slice g with trig := true })

/-- X_CAPTURE (R155, R129): X_READY is 1 while the buffer holds fewer than two words, and 0 in HALTED. -/
def execXCapture (g : Fin 10752) (x : BitVec 36) (p : Bool) (src : PortSrc) (s : State) : Host.Outcome State Fault Refusal :=
  let (d, s) := s.drawFor src
  let t := s.slice g
  if s.sliceHeld g || t.st == 4 || decide (2 ≤ t.x.length) || !s.sees src d (portSlice g) 36 true then .next s
  else .next (s.setSlice g { t with
    x := t.x ++ [(s.seesBus src d (portSlice g) 0 x, s.sees src d (portSlice g) 37 p)] })

/-- Y_DELIVER (R156, R129). -/
def execYDeliver (g : Fin 10752) (src : PortSrc) (s : State) : Host.Outcome State Fault Refusal :=
  let (d, s) := s.drawFor src
  if s.sliceHeld g || !s.sees src d (portSlice g) 38 true then .next s
  else .next (s.setSlice g { s.slice g with y := (s.slice g).y.tail })

/-- R137: port P requests an access. -/
def State.portAsks (s : State) (src : PortSrc) (d g : Nat) : Bool :=
  !s.sliceHeld g && (s.sliceCfg g).pEn && s.sees src d (portSlice g) 86 true

/-- R137: the access port P asks for, in a slot. -/
def State.portDo (s : State) (src : PortSrc) (d g slot : Nat) (a : BitVec 10) (we : Bool) (w : BitVec 36) (u : BitVec 37) :
    State :=
  let k := portSlice g
  s.portP g slot (s.seesBus src d k 39 a).toNat (s.sees src d k 85 we) (s.seesBus src d k 49 w) u

/-- PORT_P_ACCESS (R137): the request takes the first free slot of the cycle, if there is one. -/
def execPortPAccess (g : Fin 10752) (a : BitVec 10) (we : Bool) (d : BitVec 36) (u : BitVec 37) (src : PortSrc) (s : State) :
    Host.Outcome State Fault Refusal :=
  let (n, s) := s.drawFor src
  if !s.portAsks src n g then .next s
  else match (s.slice g).portSlot with
    | some (k, x) => .next ((s.setSlice g x).portDo src n g k a we d u)
    | none => .next s

/-- PORT_P_STEAL (R139): the request has waited P_STEAL cycles; the sequencer stalls for one cycle and the access takes its
slot 0. -/
def execPortPSteal (g : Fin 10752) (a : BitVec 10) (we : Bool) (d : BitVec 36) (u : BitVec 37) (src : PortSrc) (s : State) :
    Host.Outcome State Fault Refusal :=
  let (n, s) := s.drawFor src
  let x := s.slice g
  if !s.portAsks src n g || (s.sliceCfg g).pSteal == 0 || !(x.st == 1 || x.st == 2) || !x.free.isEmpty then .next s
  else
    let s := s.stallCycle g 5
    .next (s.portDo src n g 0 a we d u)

/-- INSPECTION_STEAL (R139): an inspection access that has waited 64 cycles. -/
def execInspectionSteal (g : Fin 10752) (u : BitVec 37) (uc : BitVec 28) (s : State) : Host.Outcome State Fault Refusal :=
  let x := s.slice g
  if s.sliceHeld g || !s.bit (SLC.INSP_CTL.BUSY g) || !(x.st == 1 || x.st == 2) || !x.free.isEmpty then .next s
  else
    let s := s.stallCycle g 4
    .next (if s.bit (SLC.INSP_CTL.BUSY g) then s.inspect g 0 u uc else s)

/-! Register writes (SLC). -/

/-- R146, R162: a write of SLC.CTL; more than one bit acts as HALT alone. -/
def State.slcCtlWrite (s : State) (g : Nat) (w : Word) : State :=
  let x := s.slice g
  let bits := wget w 2 0
  if bits = 1 ∨ bits = 3 ∨ bits = 5 ∨ bits = 6 ∨ bits = 7 then
    if x.st = 1 then (s.setSlice g { x with st := 4, prev := 1, haltReq := false, stepping := false }).settle g
    else if x.st = 2 then s.setSlice g { x with haltReq := true, haltWait := 0 }
    else s
  else if bits = 2 then (if x.st = 4 then s.setSlice g { x with st := x.prev } else s)
  else if bits = 4 then
    (if x.st = 4 then s.setSlice g { x with st := 1, stepping := true } else s)
  else s

/-- R146: a write of SLC.FLAGS: ones clear; clearing ILLEGAL in ERROR moves the slice to IDLE. -/
def State.slcFlagsWrite (s : State) (g : Nat) (w : Word) : State :=
  let off := (SLC.FLAGS.PAR g).off
  let was := s.bit (SLC.FLAGS.ILLEGAL g)
  let s := s.setReg off (s.reg off &&& ~~~ (w &&& wmask 9 1))
  let x := s.slice g
  if was ∧ w.getLsbD 9 ∧ x.st = 5 then s.setSlice g { x with st := 0 } else s

/-- R163: a write of SLC.INSP_CTL; none: SLVERR. The access is carried out at once where a slot is free outside RUN and
STALL, otherwise in a slot of a later cycle. -/
def State.inspWrite (s : State) (g : Nat) (w : Word) : Option State :=
  if s.bit (SLC.INSP_CTL.BUSY g) ∨ (w.getLsbD 29 ∧ w.getLsbD 30) then none
  else
    let s := s.setReg (SLC.INSP_CTL.BUSY g).off (w &&& (wmask 30 29 ||| wmask 9 0))
    let s := s.wrb (SLC.INSP_CTL.BUSY g) true
    let st := (s.slice g).st
    some (if st = 1 ∨ st = 2 then s else s.inspect g 2 0 0)

/-- SLC.STAT as it reads. -/
def State.sliceStat (s : State) (g : Nat) : Word :=
  let x := if s.inSync (syncSlice g) (s.sliceCfg g).clk then ({} : SliceSt) else s.slice g
  let b := fun (v : Bool) (k : Nat) => if v then 2 ^ k else 0
  BitVec.ofNat 32 (x.st * 2 ^ 29 + (if x.st = 2 then x.cause else 0) * 2 ^ 26 + x.loops.length * 2 ^ 24 + x.pc * 2 ^ 18
    + x.x.length * 2 ^ 16 + x.y.length * 2 ^ 14 + b x.trig 13 + b x.acc1.fp 12 + b x.acc0.fp 11 + b x.acc1.poison 10
    + b x.acc0.poison 9 + b x.coutP 8)

/-- SLC.LOOP0 (outer) and SLC.LOOP1 (inner) as they read. -/
def State.sliceLoop (s : State) (g k : Nat) : Word := match (s.slice g).loops.reverse[k]? with
  | some l => BitVec.ofNat 32 (2 ^ 31 + l.start % 64 * 2 ^ 22 + l.stop * 2 ^ 16 + l.left)
  | none => 0

/-- SLC.AG_P and SLC.AG_L as they read. -/
def State.sliceAgP (s : State) (g k : Nat) : Word := let a := (s.slice g).agen k; BitVec.ofNat 32 (a.base * 2 ^ 16 + a.ptr)
def State.sliceAgL (s : State) (g k : Nat) : Word :=
  let a := (s.slice g).agen k
  BitVec.ofNat 32 ((BitVec.ofInt 11 a.step).toNat * 2 ^ 16 + a.len)

/-! Hold, release and clearing of a vat's slices. -/

/-- R158: the slices of the sectors a test accepts take their held state: nothing runs, OPM and COEF keep. -/
def State.holdSlices (s : State) (p : Nat → Bool) : State :=
  let keep := fun (o : Nat) => !(decide (0xC000000 ≤ o ∧ o < 0xFF00000) && p ((o - 0xC000000) / 0x1000 / 48))
  let s : State := { s with slc := { s.slc with s := tfilter (fun g _ => !p (g / 48)) s.slc.s } }
  { s with regs := tfilter (fun o _ => keep o) s.regs, latches := tfilter (fun o _ => keep o) s.latches }

/-- R158: what a slice takes at release. -/
def sliceAtRelease (c : SliceCfg) : SliceSt :=
  { st := if c.autostart && !c.clkOff then 1 else 0
    ag := (c.ag.take 4).zipIdx.foldl (fun t p => tput t p.2 (⟨p.1.1, p.1.2.1, p.1.2.2.1, p.1.2.2.2⟩ : AgSt) {}) [] }

/-- R158: the slices of a sector are released. -/
def State.releaseSector (s : State) (sec : Nat) : State :=
  (List.range 48).foldl (fun (s : State) i =>
    let g := 48 * sec + i
    s.setSlice g (sliceAtRelease (s.sliceCfg g))) s

/-- R141: the valid bits of OPM clear in the sectors a test accepts. -/
def State.clearOpm (s : State) (p : Nat → Bool) : State :=
  { s with slc := { s.slc with opm := tfilter (fun i _ => !p (i / 1024 / 48)) s.slc.opm } }

end Sys2Proof.Machine
end

