-- ==== Sys2Proof/Machine/Planes.lean ====
section
/-! DEFINITION. Role records, vat maps of planes, the frame status table (R206, R207, R224, R580), and the refusal checks of
the plane operations (R215, R216, R581). -/

namespace Sys2Proof.Machine

/-! The role records. -/

/-- R206: the CRC-32C of a copy of a role record, over its sequence number, its flags and its version tags, as the model
lays them out (notes/assumptions/82.md). -/
def roleCrc (seq : Nat) (r : Role) : Word :=
  crc32c (leBytes 4 seq ++ leBytes 4 (r.cur.toNat + 2 * r.validA.toNat + 4 * r.validB.toNat + 8 * r.unconf.toNat)
    ++ leBytes 4 r.verA.toNat ++ leBytes 4 r.verB.toNat)

/-- R206: a copy with the sequence number and the record given. -/
def roleCopy (seq : Nat) (r : Role) : RoleCopy := ⟨seq, r, roleCrc seq r⟩

/-- R206: the copy of a record whose CRC-32C is good. -/
def goodCopy (c : Option RoleCopy) : Option RoleCopy := c.filter fun c => c.crc == roleCrc c.seq c.role

/-- R206: the record is read from copy B: the good copy with the higher sequence number. -/
def RolePair.useB (p : RolePair) : Bool := match goodCopy p.a, goodCopy p.b with
  | some x, some y => decide (x.seq < y.seq)
  | none, some _ => true
  | _, none => false

/-- R206: the copy in use, where one is good. -/
def RolePair.inUse (p : RolePair) : Option RoleCopy := if p.useB then goodCopy p.b else goodCopy p.a

/-- R206: a record is written into the copy that is not in use, with the next sequence number. -/
def RolePair.write (p : RolePair) (r : Role) : RolePair :=
  let c := roleCopy (((p.inUse.map (·.seq)).getD 0) + 1) r
  if p.useB then { p with a := some c } else { p with b := some c }

/-- R206: the role record of a vat as the engine reads it. -/
def State.role (s : State) (v : Nat) : Role := ((tget s.cfg.roles v {}).inUse.map (·.role)).getD {}

/-- R206: the role record of a vat is written. -/
def State.setRole (s : State) (v : Nat) (r : Role) : State :=
  { s with cfg := { s.cfg with roles := tput s.cfg.roles v ((tget s.cfg.roles v {}).write r) {} } }

/-- R206: VALID of a plane, and the record with it changed. -/
def Role.valid (r : Role) (p : Bool) : Bool := if p then r.validB else r.validA
def Role.setValid (r : Role) (p b : Bool) : Role := if p then { r with validB := b } else { r with validA := b }
def Role.setVer (r : Role) (p : Bool) (w : Word) : Role := if p then { r with verB := w } else { r with verA := w }
def Role.ver (r : Role) (p : Bool) : Word := if p then r.verB else r.verA

/-- The plane that is not current is valid. -/
def State.otherValid (s : State) (v : Nat) : Bool := (s.role v).valid (!(s.role v).cur)

/-- R207: set the valid bit of the standby plane. -/
def State.setStandby (s : State) (v : Nat) (b : Bool) : State :=
  s.setRole v ((s.role v).setValid (!(s.role v).cur) b)

/-- R202, R580: the vat map the shell frames of a plane carry. -/
def State.planeMap (s : State) (p : Bool) : Nat → Nat := mapByte (s.planeFrame p)

/-- R254: a vat is defined by a map. -/
def definedBy (map : Nat → Nat) (v : Nat) : Bool := v == 0 || (List.range 224).any fun sec => map sec == v

/-- The vats a map defines. -/
def vatsOf (map : Nat → Nat) : List Nat := (List.range 16).filter (definedBy map)

/-- R216: two maps differ. -/
def mapsDiffer (a b : Nat → Nat) : Bool := (List.range 224).any fun sec => a sec != b sec

/-- The defined vats of the map in effect. -/
def State.definedVats (s : State) : List Nat := (List.range 16).filter s.defined

/-! What happens in a vat. -/

/-- R254: the sectors of a vat by the map in effect. -/
def State.inVat (s : State) (v sec : Nat) : Bool := s.vatOfSector sec == v
def State.sectorsOf (s : State) (v : Nat) : List Nat := (List.range 224).filter (s.inVat v)


/-- R224, R267: a swap of the vat or its rollback at expiry runs or waits (notes/assumptions/41.md). -/
def State.swapping (s : State) (v : Nat) : Bool := s.bit (VAT.VAT_STAT.SWAPPING v) || (tget s.cfg.expiring v none).isSome

/-- R270: a module load or its restore runs in the vat. -/
def State.modLoading (s : State) (v : Nat) : Bool := s.cfg.mods.any fun m => m.vat == v && decide (1 ≤ m.phase)

/-- R215: the vat is in an open commit. -/
def State.committing (s : State) (v : Nat) : Bool := s.cfg.commits.any fun c => c.vats.contains v

/-- R219: the confirm window of the vat is open. -/
def State.windowOpen (s : State) (v : Nat) : Bool := s.cfg.window.contains v

/-- R222: the vat is armed: its own slot is, or slot 0 with a set that names it, but for one slot. -/
def State.armed (s : State) (v : Nat) (but : Option Nat) : Bool :=
  (s.bit (CFG.ARM_CTL.ARMED v) && but != some v)
    || (s.bit (CFG.ARM_CTL.ARMED 0) && s.mbit (CFG.ARM_CTL.VATS 0) v && but != some 0)

/-- R30, R223: a vat swap or a module load is in progress; an armed swap is from its compare instant on, though it asserts at
the next epoch boundary. -/
def State.swapsRun (s : State) : Bool :=
  ((List.range 16).any fun v => s.bit (VAT.VAT_STAT.SWAPPING v) || s.modLoading v)
    || s.cfg.fired.any fun o => !o.vats.contains 0

/-- R29, R223: an armed whole-device activation has fired and asserts at the next epoch boundary. -/
def State.wholeFired (s : State) : Bool := s.cfg.fired.any fun o => o.vats.contains 0

/-- R213, R282, R284: a load holds the port of a quadrant. -/
def State.portHeld (s : State) (q : Nat) : Bool :=
  (tget s.cfg.loads 0 none).isSome ||
    (List.range 16).any fun v => (tget s.cfg.loads v none).isSome &&
      (s.sectorsOf v).any fun sec => sectorQuad sec == q

/-- R213: a load holds the port through which a frame's copies are reached. -/
def State.frameBusy (s : State) (n : Nat) : Bool := s.portHeld (n / 65536)

/-- PWR.MODE_STAT.SWAPPING (R25, R267): kept in step with the swaps and module loads; the mode follows (R27). -/
def State.showSwaps (s : State) : State :=
  let n := (List.range 16).foldl (fun n v => if s.bit (VAT.VAT_STAT.SWAPPING v) || s.modLoading v then n + 2 ^ v else n) 0
  let s := (List.range 16).foldl (fun (s : State) v => s.wrb (VAT.VAT_STAT.MLOADING v) (s.modLoading v)) s
  (s.wr PWR.MODE_STAT.SWAPPING n).settleMode

/-- CFG.ROLE.STATE as it reads. -/
def State.roleState (s : State) (v : Nat) : Nat :=
  let l := (tget s.cfg.loads v none).or ((tget s.cfg.loads 0 none).filter fun l => (l.plan.any fun p => p.1 == v))
  match tget s.cfg.expiring v none, l with
  | some _, _ => 4
  | _, some l => if l.expiry then 4 else 2
  | _, _ =>
    if s.committing v then 1
    else if s.windowOpen v then 3
    else if s.bit (VAT.VAT_STAT.FAILED v) then 5
    else if s.defined v then 0 else 6

/-- CFG.ROLE as it reads. -/
def State.roleWord (s : State) (v : Nat) : Word :=
  let r := s.role v
  let vol := s.cfg.vol.any fun p => s.frameVat p.1 == some v
  BitVec.ofNat 32 (s.roleState v * 2 ^ 28 + (s.bit (CFG.ARM_CTL.ARMED v)).toNat * 128 + vol.toNat * 64
    + r.unconf.toNat * 32 + r.validB.toNat * 16 + r.validA.toNat * 8 + r.cur.toNat)

/-! The frame status table. -/

/-- R224: a frame lies in an enabled module region (its tile's frames: 3t to 3t + 2 and 768 + t). -/
def frameTile (n : Nat) : Option Nat := match frameSector n with
  | none => none
  | some sec =>
    let f := frameIdx n
    if f < 768 then some (256 * sec + f / 3) else if f < 1024 then some (256 * sec + (f - 768)) else none

/-- R269: the rectangle of a module region. -/
def State.regionRect (s : State) (v r : Nat) : Nat × Nat × Nat × Nat :=
  (s.rd (VAT.MREG.X0 v r), s.rd (VAT.MREG.X1 v r), s.rd (VAT.MREG.Y0 v r), s.rd (VAT.MREG.Y1 v r))

/-- R269: a frame belongs to a rectangle of tiles. -/
def frameIn (rect : Nat × Nat × Nat × Nat) (n : Nat) : Bool := match frameTile n with
  | some g => inRect rect (tileX g) (tileY g)
  | none => false

/-- R224: MOD of a frame. -/
def State.frameMod (s : State) (n : Nat) : Bool := match s.frameVat n with
  | some v => (List.range 4).any fun r => s.mbit (VAT.MREG_EN.EN v) r && frameIn (s.regionRect v r) n
  | none => false

/-- R224: DEF of a frame: its vat is defined and not power-gated. Shell frames are defined once a shell was loaded. -/
def State.frameDef (s : State) (n : Nat) : Bool := match s.frameVat n with
  | some v => s.bit (VAT.VAT_STAT.DEFINED v) && !s.bit (VAT.VAT_STAT.GATED v) && tget s.cfg.gating v 0 != 1
  | none => false

/-- R224: HELD of a frame: its vat is loading or swapping, or it lies in a module region under load. -/
def State.frameHeld (s : State) (n : Nat) : Bool := match s.frameVat n with
  | some v => (tget s.cfg.loads 0 none).isSome || (tget s.cfg.loads v none).isSome || s.bit (VAT.VAT_STAT.SWAPPING v)
      || s.cfg.mods.any fun m => m.vat == v && decide (2 ≤ m.phase ∧ m.phase ≠ 3) && frameIn m.rect n
  | none => false

def State.frameVol (s : State) (n : Nat) : Bool := tget s.cfg.vol n false
def State.frameUnrest (s : State) (n : Nat) : Bool := tget s.cfg.unrest n false
def State.setVol (s : State) (n : Nat) (b : Bool) : State := { s with cfg := { s.cfg with vol := tput s.cfg.vol n b false } }
def State.setUnrest (s : State) (n : Nat) (b : Bool) : State :=
  { s with cfg := { s.cfg with unrest := tput s.cfg.unrest n b false } }
def State.setPerr (s : State) (n : Nat) (k : Nat) : State := { s with cfg := { s.cfg with perr := tput s.cfg.perr n k 0 } }

/-- A plane frame whose write failed its read-back holds an unspecified value (notes/assumptions/82.md). -/
def State.freePlane (s : State) (p : Bool) (n : Nat) : State :=
  let c := s.freeCtr
  let s : State := { s with freeCtr := c + 65 }
  s.setPlane p n (frameOfWords ((List.range 65).map fun k => Config.freeWord (c + k)))

def State.setShadow (s : State) (n : Nat) (f : Option Frame) : State :=
  { s with cfg := { s.cfg with shadow := tput s.cfg.shadow n f none } }

/-- R224: plane-backed: DEF = 1, VOL = 0 and DYN = 0. -/
def State.planeBacked (s : State) (n : Nat) : Bool := s.frameDef n && !s.frameVol n && !s.frameDyn n

/-- R224: a frame's entry in the frame status table. VAT of a frame of a sector that lies in no vat reads 0
(notes/assumptions/82.md). -/
def State.fstEntry (s : State) (n : Nat) : Nat :=
  let b := fun (x : Bool) k => x.toNat * 2 ^ k
  ((s.frameVat n).getD 0) * 4096 + b (s.frameUnrest n) 7 + b (s.frameHeld n) 6 + b (tget s.cfg.shadow n none).isSome 5
    + b (s.frameMod n) 4 + b (s.frameDyn n) 3 + b (s.frameVol n) 2 + b (tget s.cfg.perr n 0 != 0) 1 + b (s.frameDef n) 0

/-! Changes of live latches. -/

/-- R49, R55, R142: an upset or a Churn write changes a live frame in place: flip-flops and wire registers keep what they
show, coefficients their parity bits. -/
def State.disturb (s : State) (n : Nat) (f : Frame) : State :=
  if f = s.liveFrame n then s else ((s.pinFrame n).keepCoefPar n f).setLive n f

/-- R142, R205: a load writes a live frame, with fresh parity bits where it holds coefficients. -/
def State.loadLive (s : State) (n : Nat) (f : Frame) : State := (s.freshCoefPar n).setLive n f

/-- R291: the repairs of frames a test accepts are dropped. -/
def State.dropRepairs (s : State) (p : Nat → Bool) : State :=
  { s with churn := { s.churn with
      job := tfilter (fun _ j => match j with | some j => !p j.n | none => false) s.churn.job } }

/-! Refusals. -/

/-- CFG.OP codes. -/
def OP.activate : Nat := 1
def OP.rollback : Nat := 2
def OP.confirm : Nat := 3
def OP.arm : Nat := 4
def OP.disarm : Nat := 5
def OP.commitOpen : Nat := 6
def OP.commitClose : Nat := 7
def OP.invalidate : Nat := 8
def OP.capture : Nat := 9

/-- R580: the map that decides which vats an operation that names vat 0 may name; `none`: no such check. R580 lists no map for
CONFIRM, CAPTURE and INVALIDATE: the model takes the map in effect for them (notes/assumptions/82.md). -/
def State.opMap (s : State) (code : Nat) (vats : List Nat) : Option (Nat → Nat) :=
  if !vats.contains 0 then some s.vatOfSector
  else if code = OP.commitOpen then none
  else if code = OP.confirm ∨ code = OP.capture ∨ code = OP.invalidate then some s.vatOfSector
  else some (s.planeMap (!(s.role 0).cur))

/-- R215: the mode lets the operation run; a whole-device activation that has fired counts as its
LOAD. A whole-device ROLLBACK in FALLBACK is refused too, since R29 lists no such transition (notes/assumptions/42.md). -/
def State.opModeOk (s : State) (code : Nat) (vats : List Nat) : Bool :=
  (s.running && !s.wholeFired) || (s.mode == M.boot
    && (code == OP.commitOpen || code == OP.commitClose || (code == OP.activate && vats.contains 0)))
    || (s.mode == M.fallback && !(code == OP.rollback && vats.contains 0))

/-- The first reason of a list that holds. -/
def firstReason (l : List (Bool × Nat)) : Option Nat := (l.find? (·.1)).map (·.2)

/-- R216: the vats a whole-device ACTIVATE must name and leaves out. -/
def State.leftOut (s : State) (vats : List Nat) : List Nat :=
  let map := s.planeMap (!(s.role 0).cur)
  if vats.contains 0 && mapsDiffer map s.vatOfSector then (vatsOf map).filter fun v => !vats.contains v else []

/-- R31: a test holds the vat. -/
def State.underTest (s : State) (v : Nat) : Bool := s.cfg.testVats.contains v

/-- R215: the instant of an arm slot: on a base never started, or not in the future. -/
def State.armLate (s : State) (k : Nat) : Bool :=
  let ns := s.rd (CFG.ARM_NS.NS k)
  decide (999999999 < ns) ||
    decide (packTime (s.rd (CFG.ARM_SEC_LO.SEC k) + 2 ^ 32 * s.rd (CFG.ARM_SEC_HI.SEC k)) ns 0 ≤ s.tbNow (s.rd (CFG.ARM_CTL.TB k)))

/-- R215: the reasons of an ACTIVATE for a vat named, in the order of its row. `slot`: the arm slot it belongs to; `fire`:
its compare has fired, so that a test of R31 defers it (R223). -/
def State.actReasons (s : State) (vats : List Nat) (slot : Option Nat) (fire : Bool) (v : Nat) : List (Bool × Nat) :=
  let whole := vats.contains 0
  [(!s.otherValid v, 0x01),
   ((!whole && (s.swapping v || s.modLoading v)) || s.committing v || (!fire && s.underTest v), 0x03),
   (s.windowOpen v, 0x04),
   (s.armed v slot, 0x0E),
   (s.bit PWR.MODE_STAT.LOAD_PEND, 0x0C)]

/-- R215: the reasons of an operation for one vat named. -/
def State.opReasons (s : State) (code : Nat) (vats : List Nat) (slot : Option Nat) (fire : Bool) (v : Nat) : List (Bool × Nat) :=
  let whole := vats.contains 0
  if code = OP.activate then s.actReasons vats slot fire v
  else if code = OP.arm then
    let k := slot.getD 0
    s.actReasons vats slot false v ++
      [(s.armLate k, 0x07), (!(s.tb (s.rd (CFG.ARM_CTL.TB k))).started, 0x08), (s.bit (CFG.ARM_CTL.ARMED k), 0x09)]
  else if code = OP.disarm then [(!s.bit (CFG.ARM_CTL.ARMED (slot.getD 0)), 0x09)]
  else if code = OP.rollback then
    [(!s.otherValid v, 0x02),
     ((!whole && (s.swapping v || s.modLoading v)) || s.committing v, 0x03),
     ((s.role 0).unconf && s.cfg.mapChg && !whole, 0x0B),
     (s.bit PWR.MODE_STAT.LOAD_PEND, 0x0C)]
  else if code = OP.confirm then [(!s.windowOpen v, 0x05)]
  else if code = OP.commitOpen ∨ code = OP.invalidate then
    [(s.swapping v || s.modLoading v || s.committing v, 0x03), (s.windowOpen v, 0x04), (s.armed v none, 0x0E)]
  else if code = OP.commitClose then
    [(!(s.cfg.commits.any fun c => c.vats == vats), 0x0F),
     (s.cfg.commits.any fun c => c.vats == vats && c.closing.isSome, 0x03)]
  else [(s.swapping v || s.modLoading v, 0x03)]

/-- R581: the first vat and reason, in ascending vat number, the vats of R216 that are left out among them. -/
def State.opRefusal (s : State) (code : Nat) (vats : List Nat) (slot : Option Nat) (fire : Bool := false) : Option (Nat × Nat) :=
  if vats = [] then some (0x06, 0)
  else if code = OP.invalidate ∧ (s.cfg.commits.any fun c => c.vats == vats) then none
  else
    let map := s.opMap code vats
    let out := if code = OP.activate ∨ code = OP.arm then s.leftOut vats else []
    let why := fun v =>
      if out.contains v then some 0x0B
      else if !(match map with | some m => definedBy m v | none => true) then some 0x06
      else if !s.opModeOk code vats then some 0x0D
      else firstReason (s.opReasons code vats slot fire v)
    (List.range 16).findSome? fun v => if vats.contains v || out.contains v then (why v).map fun c => (c, v) else none

end Sys2Proof.Machine
end

