-- ==== Sys2Proof/Machine/Scratch.lean ====
section
/-! DEFINITION. The scratchpad (R463 to R466). -/

namespace Sys2Proof.Machine

/-- R463: bytes of the scratchpad. -/
def scrSize : Nat := 2 ^ 23

/-- R463: the bank of an address. -/
def scrBank (a : Nat) : Nat := 16 * (a / 64 % 2) + a / 128 % 16

/-- The words of a line that a request touches: place in the line, bits covered, data. -/
def lineTouched (f : Flit) : List (Nat × BitVec 72 × BitVec 72) :=
  (dmTouched { f with addr := f.addr % 64 })

def State.scrWord (s : State) (k : Nat) : Option BmW := tget s.scr.w k none
def State.setScrWord (s : State) (k : Nat) (w : Option BmW) : State :=
  { s with scr := { s.scr with w := tput s.scr.w k w none } }

/-- R466: the locked range of SCP.LOCKk, where it is locked. -/
def State.scrLocked (s : State) (k lo hi : Nat) : Bool :=
  s.bit (SCP.LOCK_CTL.LOCKED k) &&
    (let b := s.rd (SCP.LOCK_BASE.BASE k) * 4096
     decide (lo < b + s.rd (SCP.LOCK_CTL.PAGES k) * 4096) && decide (b ≤ hi))

/-- R466: a write by an initiator touches a byte that only the Starter can write. -/
def State.scrBarred (s : State) (i lo hi : Nat) : Bool :=
  i != ID.starter && (List.range 4).any fun k => s.scrLocked k lo hi

/-- R465: read one word, with bits an upset has flipped: its data, whether it is poisoned. -/
def State.scrRead (s : State) (k : Nat) (u : BitVec 72) : BitVec 64 × Bool × State :=
  let s := s.setScrWord k (upset u (s.scrWord k))
  let (v, po, sbe, unc, s) := s.readWord true (s.scrWord k)
  let s := if unc then (s.setScrWord k ((s.scrWord k).map fun w => { w with poison := true })).bump SCP.UE_CNT
    else if sbe then (s.setScrWord k (some ⟨low64 v, 0, po⟩)).bump SCP.CE_CNT else s
  (v.setWidth 64, po || unc, s)

/-- R465: write bits of one word. -/
def State.scrWrite (s : State) (k : Nat) (m v : BitVec 72) (poison : Bool) (u : BitVec 72) : State :=
  if m = low64 (~~~ 0) then s.setScrWord k (some ⟨v, 0, poison⟩)
  else
    let (old, po, s) := s.scrRead k u
    s.setScrWord k (some ⟨(v &&& m) ||| (old.setWidth 72 &&& low64 (~~~ m)), 0, po || poison⟩)

/-- R465, R466: carry out a request: status and line. `us`: upsets of the words it touches, in order. -/
def State.scrServe (s : State) (i : Nat) (f : Flit) (us : List (BitVec 72)) : Status × BitVec 512 × State :=
  let a := f.addr % scrSize
  let tw := (lineTouched f).zipIdx
  if f.op = 0 then
    let (d, bad, s) := tw.foldl (fun (r : BitVec 512 × Bool × State) q =>
      let (v, po, s) := r.2.2.scrRead (a / 64 * 8 + q.1.1) (us.getD q.2 0)
      (r.1 ||| (v.setWidth 512 <<< (64 * q.1.1)), r.2.1 || po, s)) (0, false, s)
    (if bad then .poisoned else .okay, d, s)
  else if s.scrBarred i a (a + f.len) then (.slverr, 0, s)
  else (.okay, 0, tw.foldl (fun s q => s.scrWrite (a / 64 * 8 + q.1.1) q.1.2.1 q.1.2.2 f.poison (us.getD q.2 0)) s)

/-- R464: the class of an initiator. -/
def scrClass (i : Nat) : Nat :=
  if [980, 984, 985, 988, 989, 990].contains i then 0 else if i = ID.dma then 2 else 1

/-- R464: of the requests at a bank, those of a class in rotating order of their initiators. -/
def State.scrNext (s : State) (b c : Nat) (l : List Moving) : Option Moving :=
  let last := tget s.scr.rot (3 * b + c) 0
  (l.filter fun m => scrClass m.f.ini == c).foldl (fun best m => match best with
    | none => some m
    | some k => if (m.f.ini + 1024 - last) % 1024 < (k.f.ini + 1024 - last) % 1024 then some m else some k) none

/-- R464: the request a bank cycle serves. -/
def State.scrPick (s : State) (b : Nat) (l : List Moving) : Option Moving :=
  let old := (l.filter fun m => scrClass m.f.ini != 2 && decide (32 ≤ m.waited)).foldl (fun (best : Option Moving) m => match best with
    | none => some m
    | some k => if k.waited < m.waited then some m else some k) none
  let n := s.rd SCP.ARB.FLOOR
  let dma := s.scrNext b 2 l
  if n ≠ 0 ∧ n ≤ tget s.scr.dma b 0 + 1 ∧ dma.isSome then dma
  else match old with
    | some m => some m
    | none => match s.scrNext b 0 l with
      | some m => some m
      | none => match s.scrNext b 1 l with
        | some m => some m
        | none => dma

/-- SCRATCHPAD_ACCESS (R464, R465): a bank cycle of bank b; a bank under self-test holds its requests. -/
def execScratchpadAccess (b : Fin 32) (us : List (BitVec 72)) (s : State) : Host.Outcome State Fault Refusal :=
  let b := b.val
  let id := ID.scratch (b / 16)
  let q := tget s.noc.serve id []
  let mine := q.filter fun m => scrBank m.f.addr == b
  if s.scr.test.contains b then .next s
  else match s.scrPick b mine with
    | none => .next s
    | some m =>
      let q := (removeOne m q).map fun k => if scrBank k.f.addr = b then { k with waited := k.waited + 1 } else k
      let c := scrClass m.f.ini
      let starved := if c = 2 ∨ !(mine.any fun k => scrClass k.f.ini == 2) then 0 else tget s.scr.dma b 0 + 1
      let s : State := { s with
        noc := { s.noc with serve := tput s.noc.serve id q [] }
        scr := { s.scr with rot := tput s.scr.rot (3 * b + c) (m.f.ini + 1) 0, dma := tput s.scr.dma b starved 0 } }
      let (st, d, s) := s.scrServe m.f.ini m.f us
      .next (s.respond id m st d)

/-- SCP.LOCK_BASE (R466): nothing changes while the range is locked. -/
def State.scrBaseWrite (s : State) (k : Nat) (w : Word) : State × Bool :=
  if s.bit (SCP.LOCK_CTL.LOCKED k) then (s, false) else (s.wr (SCP.LOCK_BASE.BASE k) (wget w 22 12), true)

/-- SCP.LOCK_CTL (R466): 1 to 2,048 pages; LOCKED stays set. -/
def State.scrLockWrite (s : State) (k : Nat) (w : Word) : State × Bool :=
  if s.bit (SCP.LOCK_CTL.LOCKED k) ∨ 2048 < wget w 11 0 ∨ (wget w 31 31 = 1 ∧ wget w 11 0 = 0) then (s, false)
  else ((s.wr (SCP.LOCK_CTL.PAGES k) (wget w 11 0)).wr (SCP.LOCK_CTL.LOCKED k) (wget w 31 31), true)

end Sys2Proof.Machine
end

