-- ==== Sys2Proof/Machine/Bist.lean ====
section
/-! DEFINITION. Memory self-test and repair (R197, R551 to R560). -/

namespace Sys2Proof.Machine

def State.bistCtl (s : State) (k : Nat) : Option BistRun := tget s.bist.ctl k none

/-- The vat of a memory; none where MEM is out of range. A scratchpad bank is the device's, so vat 0's. -/
def State.bistVat (s : State) (kind mem : Nat) : Option Nat :=
  if kind = 0 ∧ mem < 13440 then some (s.vatOfSector (mem / 60))
  else if kind = 1 ∧ mem < 112 then some (s.vatOfSector (2 * mem))
  else if kind = 2 ∧ mem < 32 then some 0 else none

/-- A controller's test runs: it is accepted and does not wait under R31. -/
def BistRun.live (r : BistRun) : Bool := !r.defer

def State.bistRuns (s : State) : List BistRun := s.bist.ctl.filterMap (·.2)

/-- The memories held by tests, the vats deferred for them (R31), TEST_ACT and the mode follow the tests that run. -/
def State.bistShow (s : State) : State :=
  let run := s.bistRuns.filter BistRun.live
  let fab := run.filter fun r => decide (r.kind < 2)
  let s : State := { s with
    mem := { s.mem with test := fab.map fun r => (r.kind == 1, r.mem) }
    scr := { s.scr with test := (run.filter fun r => r.kind == 2).map (·.mem) }
    cfg := { s.cfg with testVats := (fab.filterMap fun r => s.bistVat r.kind r.mem).dedup } }
  (s.wrb PWR.MODE_STAT.TEST_ACT (!run.isEmpty)).settleMode

def State.setBist (s : State) (k : Nat) (r : Option BistRun) : State :=
  ({ s with bist := { s.bist with ctl := tput s.bist.ctl k r none } } : State).bistShow

/-- R551: the memory is already under test. -/
def State.bistBusy (s : State) (kind mem : Nat) : Bool := s.bistRuns.any fun r => r.kind == kind && r.mem == mem

/-- R551: the memory cannot be tested. -/
def State.bistBarred (s : State) (kind mem : Nat) : Bool := match s.bistVat kind mem with
  | none => true
  | some v => decide (16 ≤ v) || !s.defined v || s.bit (VAT.VAT_STAT.GATED v) || tget s.cfg.gating v 0 != 0 || s.bistBusy kind mem

/-- R31: the test of a block in a vat with a swap or module load in progress waits. -/
def State.bistWaits (s : State) (kind mem : Nat) : Bool :=
  decide (kind < 2) && (let v := (s.bistVat kind mem).getD 0; s.swapping v || s.modLoading v)

/-- R551: a test is accepted on a controller. -/
def State.bistAccept (s : State) (k kind mem : Nat) : State :=
  s.setBist k (some (if s.bistWaits kind mem then { kind := kind, mem := mem, defer := true } else { kind := kind, mem := mem, phase := 1 }))

/-- R551: the lowest free controller. -/
def State.bistFree (s : State) : Option Nat := findIdx 4 fun k => (s.bistCtl k).isNone

/-- A write of BIST.CMD; false: SLVERR. -/
def State.bistCmdWrite (s : State) (k : Nat) (w : Word) : State × Bool :=
  let kind := wget w 30 29
  let mem := wget w 23 0
  if !w.getLsbD 31 then (s.setReg (BIST.CMD.MEM k).off (w &&& 0x60FFFFFF), true)
  else if !s.running || (s.bistCtl k).isSome || s.bistBarred kind mem then (s, false)
  else ((s.setReg (BIST.CMD.MEM k).off (w &&& 0x60FFFFFF)).bistAccept k kind mem, true)

/-- BIST.STAT. -/
def State.bistStat (s : State) (k : Nat) : Word :=
  let d := (s.bit (BIST.STAT.DONE k)).toNat * 2 ^ 26
  match s.bistCtl k with
  | none => BitVec.ofNat 32 d
  | some r => BitVec.ofNat 32 (2 ^ 31 + r.defer.toNat * 2 ^ 30 + r.phase * 2 ^ 27 + d)

/-- R560: interrupt source 884. -/
def State.bistIrq (s : State) : State := s.srcSet 884 ((List.range 4).any fun k => s.bit (BIST.STAT.DONE k))

/-! Repair. -/

/-- R556: spare rows and columns, each per unit: a BM36, a bank of a DM, a scratchpad bank. -/
def spareMax (kind : Nat) (col : Bool) : Nat := match kind, col with
  | 0, false => 2
  | 0, true => 1
  | 1, false => 4
  | 1, true => 1
  | _, false => 8
  | _, true => 2

def spareUnits (kind : Nat) : Nat := if kind = 1 then 8 else 1

/-- Spares of a unit in use: factory, fuse and soft repairs. -/
def State.spareUsed (s : State) (kind mem : Nat) (col : Bool) (unit : Nat) : Nat :=
  let f := Config.factorySpares kind mem unit
  (if col then f.2 else f.1)
    + ((s.bist.soft ++ s.bist.fused).filter fun x => x.kind == kind && x.mem == mem && x.col == col && x.unit == unit).length

def State.sparesUsed (s : State) (kind mem : Nat) (col : Bool) : Nat :=
  ((List.range (spareUnits kind)).map (s.spareUsed kind mem col)).sum

/-- R556: a failing row or column takes a free spare; false: none is free. -/
def State.takeSpare (s : State) (x : Spare) : State × Bool :=
  if s.spareUsed x.kind x.mem x.col x.unit < spareMax x.kind x.col then
    ({ s with bist := { s.bist with soft := s.bist.soft ++ [x] } }, true)
  else (s, false)

/-- R556: repair the failing rows and columns a test found. False: they outnumber the spares. -/
def State.repair (s : State) (kind mem : Nat) (l : List (Bool × Nat × Nat)) : State × Bool :=
  l.dedup.foldl (fun (r : State × Bool) x =>
    let t := r.1.takeSpare ⟨kind, mem, x.1, x.2.1 % spareUnits kind, x.2.2⟩
    (t.1, r.2 && t.2)) (s, true)

/-- R557: free repair fuse entries. -/
def State.fuseFree (s : State) : Nat := Config.fuseFree.val - s.bist.fused.length

/-- R557: the soft repairs a FUSE of the memory would blow. -/
def State.softOf (s : State) (kind mem : Nat) : List Spare := s.bist.soft.filter fun x => x.kind == kind && x.mem == mem

/-- R557: a FUSE is accepted. False: it is refused. -/
def State.fuseStart (s : State) (kind mem : Nat) : State × Bool :=
  if s.lcs.code = 3 ∨ (s.bistVat kind mem).isNone ∨ s.bistBusy kind mem ∨ s.bist.fusing.contains (kind, mem)
      ∨ s.fuseFree < (s.softOf kind mem).length then (s, false)
  else ({ s with bist := { s.bist with fusing := s.bist.fusing ++ [(kind, mem)] } }, true)

/-- BIST_FUSE_DONE (R557): the repairs are permanent. -/
def execBistFuseDone (kind : Fin 3) (mem : Fin 16777216) (s : State) : Host.Outcome State Fault Refusal :=
  if !s.bist.fusing.contains (kind.val, mem.val) then .next s
  else
    let l := s.softOf kind mem
    let hosts := s.devOwner :: ((s.bistVat kind mem).map s.ownerOf).toList
    let s : State := { s with bist := { s.bist with
      soft := s.bist.soft.filter fun x => !(x.kind == kind.val && x.mem == mem.val)
      fused := s.bist.fused ++ l
      fusing := s.bist.fusing.filter (· != (kind.val, mem.val)) } }
    .next (s.raiseAt hosts EV.bistFuse ((s.bistVat kind mem).getD 0xFF) mem [l.length])

/-! The course of a test. -/

/-- R555: the words of a record. -/
def State.bistRecord (s : State) (r : BistRun) (result addr bit fails us : Nat) : List Nat :=
  [r.kind * 2 ^ 30 + result * 2 ^ 27 + r.mem % 2 ^ 24,
   if result = 0 ∨ result = 3 then 0 else addr % 2 ^ 15 * 2 ^ 17 + bit % 2 ^ 7 * 2 ^ 10,
   (if result = 0 ∨ result = 3 then 0 else min 0xFFFF fails) * 2 ^ 16 + s.sparesUsed r.kind r.mem false * 2 ^ 10
     + s.sparesUsed r.kind r.mem true * 2 ^ 6,
   us % 2 ^ 20]

/-- R555, R558, R560, R561: a test ends: the record, DONE, the counters, the events, the defect list. -/
def State.bistEnd (s : State) (k : Nat) (r : BistRun) (result addr bit fails us : Nat) : State :=
  let ws := s.bistRecord r result addr bit fails us
  let v := (s.bistVat r.kind r.mem).getD 0xFF
  let hosts := [s.devOwner, s.ownerOf (v % 16)]
  let s := ws.zipIdx.foldl (fun (s : State) p => s.wr (BIST.RES.W k p.2) p.1) s
  let s := ((s.wrb (BIST.STAT.DONE k) true).setBist k none).bistIrq
  let s := s.bump BIST.RUN_CNT
  let s := if result = 1 then s.bump BIST.REPAIR_CNT else if result = 2 then s.bump BIST.UNREP_CNT else s
  let s := s.raiseAt hosts EV.bistDone v r.mem ws
  if result = 2 then
    let s := s.raiseAt hosts EV.bistUnrepairable v r.mem ws
    if s.bist.defects.length < 1024 then
      { s with
        bist := { s.bist with defects := s.bist.defects ++ [(r.kind, addr, r.mem, bit)] }
        cel := { s.cel with recs := s.cel.recs + 1 } }
    else s
  else s

/-- R554: the tests of BM36 and DM end without restore at a whole-device activation or rollback. -/
def State.bistAbort (s : State) : State :=
  (List.range 4).foldl (fun s k => match s.bistCtl k with
    | some r => if r.live && decide (r.kind < 2) then s.bistEnd k r 3 0 0 0 0 else s
    | none => s) s

/-- R197, R552: a restored word is correctly coded; one that cannot be corrected is restored as poisoned. A RAW-mode word
comes back as its 72 stored bits. -/
def restored (ecc bad : Bool) (w : BmW) : BmW :=
  if !ecc then { w with v := w.v ^^^ w.err, err := 0 }
  else if ones w.err < 2 then { w with err := 0, poison := w.poison || bad }
  else ⟨low64 (w.v ^^^ w.err), 0, true⟩

/-- R463, R552: the word of the scratchpad that word w of a bank is. -/
def scrBankWord (b w : Nat) : Nat := (w / 8 * 2048 + b % 16 * 128 + b / 16 * 64) / 8 + w % 8

/-- The key of a word of a memory: whether the word lies in it, and its number there. -/
def bistWord (kind mem key : Nat) : Option Nat :=
  if kind < 2 then (let n := memWords (kind == 1); if key / n = mem then some (key % n) else none)
  else if scrBank (8 * key) = mem then some (8 * (key / 256) + key % 8) else none

/-- R552: the restore: `bad` names the words whose buffer entry is uncorrectable. -/
def State.restoreMem (s : State) (r : BistRun) (bad : List Nat) : State :=
  let f := fun (ecc : Bool) (t : Tab (Option BmW)) => t.map fun p => match bistWord r.kind r.mem p.1 with
    | some w => (p.1, p.2.map (restored ecc (bad.contains w)))
    | none => p
  if r.kind = 0 then { s with mem := { s.mem with bm := f (tget s.mem.bmCfg r.mem {}).ecc s.mem.bm } }
  else if r.kind = 1 then { s with mem := { s.mem with dm := f true s.mem.dm } }
  else { s with scr := { s.scr with w := f true s.scr.w } }

/-- BIST_PHASE_DONE (R197, R552): drain, save, test with its two retention pauses, then the restore. -/
def execBistPhaseDone (k : Fin 4) (s : State) : Host.Outcome State Fault Refusal :=
  match s.bistCtl k with
  | none => .next s
  | some r =>
    if r.defer then .next s
    else match r.phase with
    | 1 =>
      let s := if r.kind < 2 then s.drainMem (r.kind == 1) r.mem else s
      .next (s.setBist k (some { r with phase := 2 }))
    | 2 => .next (s.setBist k (some { r with phase := 3 }))
    | 3 => .next (s.setBist k (some { r with phase := if r.pauses < 2 then 4 else 5 }))
    | 4 => .next (s.setBist k (some { r with phase := 3, pauses := r.pauses + 1 }))
    | _ => .next s

/-- BIST_DONE (R552, R555, R556): the restore ends. `rows` and `cols` are the failing rows and columns as (bank of a DM,
number), `addr`, `bit` and `fails` the first failing cell and their number, `us` the time READY was low. -/
def execBistDone (k : Fin 4) (fails addr bit us : Nat) (rows cols : List (Nat × Nat)) (bad : List Nat) (s : State) :
    Host.Outcome State Fault Refusal :=
  match s.bistCtl k with
  | none => .next s
  | some r =>
    if r.phase ≠ 5 then .next s
    else
      let l := if fails = 0 then [] else rows.map (fun p => (false, p)) ++ cols.map fun p => (true, p)
      let (s, ok) := s.repair r.kind r.mem l
      let s := s.restoreMem r bad
      .next (s.bistEnd k r (if fails = 0 then 0 else if ok then 1 else 2) addr bit fails us)

/-- DEFERRED_TEST_START (R31): the vat of the memory is released. One whose vat is gone or gated meanwhile ends aborted. -/
def execDeferredTestStart (k : Fin 4) (s : State) : Host.Outcome State Fault Refusal :=
  match s.bistCtl k with
  | none => .next s
  | some r =>
    if !r.defer || s.bistWaits r.kind r.mem || !s.running then .next s
    else
      let v := (s.bistVat r.kind r.mem).getD 0xFF
      if 16 ≤ v ∨ !s.defined v ∨ s.bit (VAT.VAT_STAT.GATED v) then .next (s.bistEnd k r 3 0 0 0 0)
      else if s.bit (VAT.VAT_STAT.IN_RESET v) then .next s
      else .next (s.setBist k (some { r with defer := false, phase := 1 }))

/-- SECTOR_POWER_GOOD (R189, R556): the supply of a sector whose clocks are off becomes good: soft repairs are gone, fuse
repairs load, valid and poison bits clear. -/
def execSectorPowerGood (sec : Fin 224) (s : State) : Host.Outcome State Fault Refusal :=
  if s.mbit (CLK.SEC_ON.ON (sec.val / 32)) (sec.val % 32) then .next s
  else
    let s : State := { s with bist := { s.bist with soft := s.bist.soft.filter fun x =>
      !((x.kind == 0 && x.mem / 60 == sec.val) || (x.kind == 1 && 2 * x.mem == sec.val)) } }
    .next (s.clearMems fun k => k == sec.val)

end Sys2Proof.Machine
end

