-- ==== Sys2Proof/Machine/Cellar.lean ====
section
/-! DEFINITION. The Cellar flash (R508 to R531): words and sectors, programs and erases and their suspension, bad sectors,
read-out protection, and the logs. -/

namespace Sys2Proof.Machine

/-- R510: an erased word. -/
def erased : BitVec 64 := 0xFFFFFFFFFFFFFFFF

/-- R508: the bank of a sector. -/
def bankOf (sec : Nat) : Nat := sec / 2048

/-- R508: the first sector of the information area. -/
def infoSec : Nat := 8064

/-- R508, R510, R518: what a word of the Cellar reads as. -/
def State.celWord (s : State) (k : Nat) : BitVec 64 :=
  let sec := k / 8192
  if infoSec + 2 ≤ sec ∧ sec ≤ infoSec + 8 then Config.recordCell s.cel.recs k
  else if tget s.cel.undS sec 0 ≠ 0 then Config.freeCell (tget s.cel.undS sec 0) k
  else if tget s.cel.undW k 0 ≠ 0 then Config.freeCell (tget s.cel.undW k 0) k
  else tget s.cel.words k erased

/-- Program a word, by the command's end. -/
def State.setCelWord (s : State) (k : Nat) (w : BitVec 64) : State :=
  { s with cel := { s.cel with words := tput s.cel.words k w erased, undW := tdel s.cel.undW k } }

/-- R512: a sector reads all ones. -/
def State.eraseSector (s : State) (sec : Nat) : State :=
  { s with cel := { s.cel with words := tfilter (fun k _ => k / 8192 != sec) s.cel.words
                               undW := tfilter (fun k _ => k / 8192 != sec) s.cel.undW
                               undS := tdel s.cel.undS sec } }

/-- n bytes of the Cellar from an offset. -/
def State.celBytes (s : State) (off n : Nat) : List Byte :=
  (List.range n).map fun i => BitVec.ofNat 8 ((s.celWord ((off + i) / 8)).toNat / 2 ^ (8 * ((off + i) % 8)))

/-- Program bytes at an 8-byte aligned offset; a last word that is cut short is filled with ones. -/
def State.celProgram (s : State) (off : Nat) (bs : List Byte) : State :=
  (List.range ((bs.length + 7) / 8)).foldl (fun s j =>
    let b := (bs.drop (8 * j)).take 8
    s.setCelWord (off / 8 + j) (BitVec.ofNat 64 (leVal (b ++ List.replicate (8 - b.length) 0xFF)))) s

def State.bank (s : State) (b : Nat) : CelBank := tget s.cel.banks b {}

/-- R530: a bank's BUSY, ESUSP and PSUSP follow its operations. -/
def State.setBank (s : State) (b : Nat) (x : CelBank) : State :=
  let s : State := { s with cel := { s.cel with banks := tput s.cel.banks b x {} } }
  let out := (if x.held then x.ops else x.ops.drop 1)
  ((s.wrb (CEL.BSTAT.BUSY b) (!x.ops.isEmpty)).wrb (CEL.BSTAT.ESUSP b) (out.any fun o => o.erase)).wrb (CEL.BSTAT.PSUSP b)
    (out.any fun o => !o.erase)

/-- R453: source 883 asserts while any DONE is set. -/
def State.celIrq (s : State) : State := s.srcSet 883 ((List.range 4).any fun b => s.bit (CEL.BSTAT.DONE b))

/-- R530: a command of a bank has ended with a result. -/
def State.celDone (s : State) (b result : Nat) : State :=
  ((s.wrb (CEL.BSTAT.DONE b) true).wr (CEL.BSTAT.RESULT b) result).celIrq

/-- R530: PROT, BBT and LOG show the records. -/
def State.celShow (s : State) : State :=
  let s := (s.wrb CEL.PROT.ERASE_PEND s.cel.erasePend).wr CEL.PROT.LEVEL s.cel.level
  let s := (s.wr CEL.BBT.GROWN s.cel.grown.length).wr CEL.BBT.RAMBAD s.cel.ramBad.length
  let full := !s.cel.ramBad.isEmpty || s.cel.grown.length == 256
  let s := (s.wrb CEL.BBT.FULL full).wrb CEL.LOG.DEGRADED (!(s.logs.evBad.isEmpty && s.logs.audBad.isEmpty))
  ((s.wrb CEL.LOG.RAM_ONLY s.logs.ramOnly).wr CEL.LOG.EV_GOOD (224 - s.logs.evBad.length)).wr CEL.LOG.AUD_GOOD (32 - s.logs.audBad.length)

/-- R511: programming a word over another would need a bit to go from 0 to 1. -/
def needsErase (old new : BitVec 64) : Bool := new &&& ~~~ old != 0

/-- R514, R517, R518: why a command does not start in its bank: 0x3 a refused sector, 0x4 a bit from 0 to 1, 0x2 busy. -/
def State.celRefuse (s : State) (o : CelOp) : Option Nat :=
  let x := s.bank (bankOf o.sector)
  if s.cel.ramBad.contains o.sector ∨ o.sector = infoSec + 4 then some 3
  else
    let busy := match x.ops with
      | [] => false
      | [e] => !(e.erase && !o.erase && e.sector != o.sector && x.prog.isNone)
      | _ => true
    if busy then some 2
    else if !o.erase && needsErase (s.celWord o.word) o.data then some 4
    else none

/-- Mark what a running operation leaves undetermined. -/
def State.celRun (s : State) (o : CelOp) : State :=
  let r := s.fresh
  let s := r.2
  if o.erase then { s with cel := { s.cel with undS := tput s.cel.undS o.sector (r.1 + 1) 0 } }
  else { s with cel := { s.cel with undW := tput s.cel.undW o.word (r.1 + 1) 0 } }

/-- R511, R512, R514: start an operation, or end it with the result that says why not. -/
def State.celStart (s : State) (o : CelOp) : State × Bool :=
  let b := bankOf o.sector
  let s := s.wr (CEL.BSTAT.SECTOR b) o.sector
  match s.celRefuse o with
  | some r => (s.celDone b r, false)
  | none =>
    let x := s.bank b
    if x.ops.isEmpty then ((s.celRun o).setBank b { x with ops := [o], held := false }, true)
    else if x.held then ((s.celRun o).setBank b { x with ops := o :: x.ops, held := false }, true)
    else (s.setBank b { x with asking := true, prog := some o }, true)

/-- CEL.CMD (R530): the operation at ADDR; an OP that is not PROGRAM or ERASE is refused with SLVERR. -/
def State.celCmdWrite (s : State) (w : Word) : State × Bool :=
  let op := wget w 30 28
  if op ≠ 1 ∧ op ≠ 2 then (s, false)
  else
    let s := s.wr CEL.CMD.OP op
    if wget w 31 31 = 0 then (s, true)
    else
      let k := s.rd CEL.ADDR.A
      let d := BitVec.ofNat 64 ((s.reg CEL.WDATA_LO.W.off).toNat + 2 ^ 32 * (s.reg CEL.WDATA_HI.W.off).toNat)
      ((s.celStart { erase := op == 2, sector := k / 8192, word := k, data := d }).1, true)

/-! Logs (R522 to R527). -/

/-- R496: the 64 bytes of an event log entry, as first programmed: bytes 2 and 3 read ones until it is retired. -/
def evBytes (e : EvEntry) : List Byte :=
  leBytes 2 e.d.code ++ [0xFF, 0xFF, BitVec.ofNat 8 e.d.sev, BitVec.ofNat 8 e.d.vat, 0, 0] ++ leBytes 4 e.d.source
    ++ leBytes 4 e.count ++ leBytes 8 e.first ++ leBytes 8 e.last ++ ((e.d.args.take 8).flatMap (leBytes 4) ++ List.replicate 32 0).take 32

/-- R491: the 32 bytes of an audit entry. -/
def audBytes (a : AudEntry) : List Byte :=
  leBytes 8 a.time ++ [BitVec.ofNat 8 a.host, BitVec.ofNat 8 a.reason] ++ leBytes 2 a.code ++ leBytes 2 a.seq ++ leBytes 2 a.sid
    ++ leBytes 4 a.arg ++ [BitVec.ofNat 8 a.vat] ++ List.replicate 11 0

/-- What differs between the two logs: first sector, number of sectors, bytes of an entry, the header's first word. -/
structure LogKind where
  base : Nat
  secs : Nat
  size : Nat
  magic : Nat
deriving DecidableEq, Repr

def logEv : LogKind := ⟨7296, 224, 64, 0x4C4F4745⟩
def logAud : LogKind := ⟨7520, 32, 32, 0x4C4F4741⟩
def logKind (aud : Bool) : LogKind := if aud then logAud else logEv

def State.logSecs (s : State) (aud : Bool) : List Nat := if aud then s.logs.audSecs else s.logs.evSecs
def State.setLogSecs (s : State) (aud : Bool) (l : List Nat) : State :=
  { s with logs := if aud then { s.logs with audSecs := l } else { s.logs with evSecs := l } }
def State.logPos (s : State) (aud : Bool) : Nat := if aud then s.logs.audPos else s.logs.evPos
def State.setLogPos (s : State) (aud : Bool) (n : Nat) : State :=
  { s with logs := if aud then { s.logs with audPos := n } else { s.logs with evPos := n } }
def State.logBads (s : State) (aud : Bool) : List Nat := if aud then s.logs.audBad else s.logs.evBad

/-- R522: entry positions of a sector, the header among them. -/
def LogKind.slots (k : LogKind) : Nat := 65536 / k.size

/-- R522: the sequence number a sector's header holds. -/
def State.logSseq (s : State) (k : LogKind) (sec : Nat) : Nat := (s.celWord ((k.base + sec) * 8192)).toNat / 2 ^ 32

/-- R523: the entries of a log that are committed, oldest first: sector, position, word 0. -/
def State.logEntries (s : State) (aud : Bool) : List (Nat × Nat × BitVec 64) :=
  let k := logKind aud
  (s.logSecs aud).flatMap fun sec =>
    ((List.range k.slots).drop 1).filterMap fun i =>
      let w := s.celWord ((k.base + sec) * 8192 + k.size / 8 * i)
      if w = erased then none else some (sec, i, w)

/-- R523: an event entry that is not retired. -/
def evLive (w : BitVec 64) : Bool := wget (w.setWidth 32) 31 16 != 0
/-- The severity in word 0 of an event entry. -/
def evSev (w : BitVec 64) : Nat := (w >>> 32).toNat % 256

/-- R525: count a lost entry of a log, of a severity. -/
def State.logDrop (s : State) (aud : Bool) (sev : Nat) : State :=
  s.bump (if aud then CEL.LOG_DROP_AUD else CEL.LOG_DROP sev)

/-- R525: erase a log sector that is not marked bad, counting the live entries it loses; entries in `kept` were copied. -/
def State.logErase (s : State) (aud : Bool) (sec : Nat) (kept : Nat → Bool) : State :=
  let lost := (s.logEntries aud).filter fun e => e.1 == sec && (aud || (evLive e.2.2 && !kept (evSev e.2.2)))
  let s := lost.foldl (fun s e => s.logDrop aud (evSev e.2.2)) s
  let s := s.setLogSecs aud ((s.logSecs aud).filter fun x => x != sec)
  if (s.logBads aud).contains sec then s else s.eraseSector ((logKind aud).base + sec)

/-- R522: open the next good sector that is erased, in ring order. -/
def State.logOpen (s : State) (aud : Bool) : State :=
  let k := logKind aud
  let head := ((s.logSecs aud).getLast?).getD (k.secs - 1)
  match ((List.range k.secs).map fun i => (head + 1 + i) % k.secs).find? fun x =>
      !(s.logSecs aud).contains x && !(s.logBads aud).contains x with
  | none => s
  | some x =>
    let q := if aud then s.logs.audSseq else s.logs.evSseq
    let s := s.setCelWord ((k.base + x) * 8192) (BitVec.ofNat 64 (k.magic + q % 2 ^ 32 * 2 ^ 32))
    let s : State := { s with logs := if aud then { s.logs with audSseq := q + 1 } else { s.logs with evSseq := q + 1 } }
    (s.setLogSecs aud (s.logSecs aud ++ [x])).setLogPos aud 1

/-- Program an entry at the head. -/
def State.logPut (s : State) (aud : Bool) (bs : List Byte) : State :=
  match (s.logSecs aud).getLast? with
  | none => s
  | some x =>
    let k := logKind aud
    (s.celProgram ((k.base + x) * 65536 + k.size * s.logPos aud) bs).setLogPos aud (s.logPos aud + 1)

/-- R525: keep at least one erased sector: with one left, the oldest is reclaimed, its live CRITICAL and MAJOR event
entries copied to the head, unless the log holds no others. -/
def State.logReclaim (s : State) (aud : Bool) : State :=
  let k := logKind aud
  let used := ((s.logSecs aud) ++ (s.logBads aud)).dedup.length
  if k.secs - used ≤ 1 then
    match s.logSecs aud with
    | [] => s
    | old :: _ =>
      if aud then s.logErase aud old fun _ => false
      else
        let copy := (s.logEntries aud).any fun e => evLive e.2.2 && decide (2 ≤ evSev e.2.2)
        let s := if copy then ((s.logEntries aud).filter fun e => e.1 == old && evLive e.2.2 && decide (evSev e.2.2 ≤ 1)).foldl
          (fun s e => s.logPut aud (s.celBytes ((k.base + old) * 65536 + 64 * e.2.1) 64)) s else s
        s.logErase aud old fun sev => copy && decide (sev ≤ 1)
  else s

/-- The head has room, or a new sector is opened. -/
def State.logRoom (s : State) (aud : Bool) : State :=
  if (s.logSecs aud).isEmpty ∨ (logKind aud).slots ≤ s.logPos aud then (s.logOpen aud).logReclaim aud else s

/-- R525: retire the oldest live INFO entry, or MINOR where none is live, once MINOR and INFO hold their share. -/
def State.logRetire (s : State) : State :=
  let l := (s.logEntries false).filter fun e => evLive e.2.2 && decide (2 ≤ evSev e.2.2)
  if l.length < 206236 then s
  else match (match l.find? fun e => evSev e.2.2 == 3 with
      | some e => some e
      | none => l.head?) with
    | none => s
    | some e =>
      (s.setCelWord ((logEv.base + e.1) * 8192 + 8 * e.2.1) (e.2.2 &&& ~~~ 0xFFFF0000#64)).logDrop false (evSev e.2.2)

/-- R496, R526: the entry of LOG_DEGRADED. -/
def State.degradedEntry (s : State) : EvEntry :=
  ⟨0, ⟨EV.logDegraded.code, EV.logDegraded.sev, 0xFF, 0, []⟩, 1, s.now, s.now, none⟩

/-- R526, R527: a program or erase in a log sector failed: the sector is marked bad, the failure is written first in the
next good sector and copied to the last-gasp registers, and LOG_DEGRADED is raised. -/
def State.logBad (s : State) (aud : Bool) (sec : Nat) : State :=
  let bad := (s.logBads aud ++ [sec]).dedup
  let s : State := { s with
    logs := if aud then { s.logs with audBad := bad } else { s.logs with evBad := bad }
    cel := { s.cel with recs := s.cel.recs + 1 } }
  let s : State := { s with logs := { s.logs with ramOnly := s.logs.ramOnly || decide ((logKind aud).secs - bad.length < 2) } }
  let bs := evBytes s.degradedEntry
  let s := if s.logs.ramOnly then s else ((s.logOpen aud).logPut aud bs).setLogPos aud (if aud then 3 else 2)
  let s := (bytesWords 16 bs).zipIdx.foldl (fun s p => s.wr (CEL.LASTGASP.W p.2) p.1.toNat) s
  (s.raiseDev EV.logDegraded 0 []).celShow

/-- R524, R525: copy the oldest entry of a ring that is not in the Cellar yet; `fails` says whether its program ends with
RESULT 0x1. -/
def State.logFlushOne (s : State) (aud fails : Bool) : State :=
  if s.logs.ramOnly then s
  else
    let s := s.logRoom aud
    match (s.logSecs aud).getLast? with
    | none => s
    | some x =>
      if fails then s.logBad aud x
      else if aud then
        match s.logs.audRing[s.logs.audRing.length - s.logs.audTodo]? with
        | some a => if s.logs.audTodo = 0 then s else
            ({ s with logs := { s.logs with audTodo := s.logs.audTodo - 1 } } : State).logPut true (audBytes a)
        | none => s
      else
        match s.logs.evRing[s.logs.evRing.length - s.logs.evTodo]? with
        | some e => if s.logs.evTodo = 0 then s else
            let s := if 2 ≤ e.d.sev then s.logRetire else s
            ({ s with logs := { s.logs with evTodo := s.logs.evTodo - 1 } } : State).logPut false (evBytes e)
        | none => s

/-- LOG_FLUSH (R524): the Starter copies up to n entries of a ring, in ring order; `fails`: the first of them meets a sector
whose program ends with RESULT 0x1. -/
def execLogFlush (aud : Bool) (n : Nat) (fails : Bool) (s : State) : Host.Outcome State Fault Refusal :=
  let todo := if aud then s.logs.audTodo else s.logs.evTodo
  if todo = 0 ∨ s.powered = false then .next s
  else
    let s := if fails then s.logFlushOne aud true else s
    .next ((List.range (min n todo)).foldl (fun s _ => s.logFlushOne aud false) s)

/-- LOG_DEGRADED_REMINDER (R527): every hour in RAM_ONLY. -/
def execLogDegradedReminder (s : State) : Host.Outcome State Fault Refusal :=
  .next (if s.logs.ramOnly then s.raiseDev EV.logDegraded 0 [] else s)

/-- R487, R522: up to n entries of a log from an entry number on: the number after the last, and their bytes. An event entry
number is SSEQ × 1,024 + position, an audit one SSEQ × 2,048 + position. `may` says which vats' entries are read. -/
def State.logRead (s : State) (aud : Bool) (n index : Nat) (may : Nat → Bool) : Nat × List Byte :=
  let k := logKind aud
  let l := (s.logEntries aud).filterMap fun (e : Nat × Nat × BitVec 64) =>
    let num := s.logSseq k e.1 * k.slots + e.2.1
    if index ≤ num ∧ (aud || (evLive e.2.2 && may ((e.2.2 >>> 40).toNat % 256))) then some (num, e.1, e.2.1) else none
  let l := l.take n
  let one := fun (e : Nat × Nat × Nat) =>
    let b := s.celBytes ((k.base + e.2.1) * 65536 + k.size * e.2.2) k.size
    if aud then b ++ List.replicate 32 0 else b.take 2 ++ [0, 0] ++ b.drop 4
  ((l.getLast?.map fun e => e.1 + 1).getD index, l.flatMap one)

/-! Ends of commands, bad sectors (R515 to R517). -/

/-- The log a sector belongs to, with its number there. -/
def logOf (sec : Nat) : Option (Bool × Nat) :=
  if 7296 ≤ sec ∧ sec < 7520 then some (false, sec - 7296)
  else if 7520 ≤ sec ∧ sec < 7552 then some (true, sec - 7520)
  else none

/-- R516: free spares of a bank. -/
def State.spareLeft (s : State) (b : Nat) : Nat := 64 - (s.cel.grown.filter fun g => bankOf g.1 == b).length

/-- R528: raise CEL_OP_DONE with the operation and its result. -/
def State.celOpDone (s : State) (j : CelJob) (result : Nat) : State :=
  ({ s with cel := { s.cel with job := none } } : State).raiseDev EV.celOpDone 0 [j.op, result]

/-- R528: the CEL_OP in progress goes on with its next word, or ends. -/
def State.celNext : Nat → State → Nat → State
  | 0, s, _ => s
  | n + 1, s, result => match s.cel.job with
    | none => s
    | some j =>
      if result ≠ 0 then s.celOpDone j result
      else match j.left with
        | [] => s.celOpDone j 0
        | (k, d) :: t =>
          let s : State := { s with cel := { s.cel with job := some { j with left := t } } }
          let r := s.celStart { erase := false, sector := k / 8192, word := k, data := d, job := true }
          if r.2 then r.1 else State.celNext n r.1 (r.1.rd (CEL.BSTAT.RESULT (bankOf (k / 8192))))

/-- R511, R512, R516, R517: the operation that runs in a bank ends; `ok`: its verification passed. The second component is the
result of an operation of a staging that has ended. A failed one is repeated on a spare, where one is left. -/
def State.commandDone (s : State) (b : Nat) (ok : Bool) : State × Option Nat :=
  let x := s.bank b
  match x.ops with
  | [] => (s, none)
  | o :: rest =>
    if x.held then (s, none)
    else
      let ended := fun (s : State) (r : Nat) =>
        let s := (s.setBank b { x with ops := rest, held := !rest.isEmpty }).celDone b r
        if o.job then State.celNext 129 s r else s
      let mine := fun (r : Nat) => if o.stage then some r else none
      if ok then (ended (if o.erase then s.eraseSector o.sector else s.setCelWord o.word o.data) 0, mine 0)
      else
        let s := s.bump (if o.erase then CEL.EFAIL_CNT else CEL.PFAIL_CNT)
        match logOf o.sector with
        | some (aud, sec) => (ended (s.logBad aud sec) 1, mine 1)
        | none =>
          if s.cel.grown.length < 256 ∧ 0 < s.spareLeft b then
            let sp := 64 * b + (64 - s.spareLeft b)
            let s : State := { s with cel := { s.cel with
              grown := s.cel.grown ++ [(o.sector, sp, if o.erase then 2 else 1)], recs := s.cel.recs + 1 } }
            (((s.raiseDev EV.celBadBlock o.sector []).celDone b 1).celShow, none)
          else
            let s : State := { s with cel := { s.cel with ramBad := ((s.cel.ramBad ++ [o.sector]).dedup).take 256 } }
            ((ended (s.raiseDev EV.celBbtFull o.sector []) 1).celShow, mine 1)

/-! Window reads (R509, R514, R519). -/

/-- The 64 bytes of a line of the Cellar. -/
def State.celLine (s : State) (off : Nat) : BitVec 512 :=
  (List.range 8).foldl (fun (d : BitVec 512) j => d ||| ((s.celWord (off / 64 * 8 + j)).setWidth 512 <<< (64 * j))) 0#512

/-- R514: an engine's read of a bank: work that runs there is suspended, the read is served, and it resumes, in one step
(notes/assumptions/83.md). -/
def State.celSuspends (s : State) (b : Nat) : State :=
  if (s.bank b).ops.isEmpty || (s.bank b).held then s else s.bump CEL.SUSP_CNT

/-- R519: the level lets an initiator read through the window. -/
def State.celMayRead (s : State) (i : Nat) : Bool := i == ID.starter || decide (s.cel.level < 2)

/-- The Cellar offset of a request. -/
def celOff (f : Flit) : Nat := f.addr % 2 ^ 29

/-- Answer a request to the window. -/
def State.celAnswer (s : State) (m : Moving) : State :=
  if m.f.op ≠ 0 ∨ s.celMayRead m.f.ini = false then s.respond ID.cellar m .slverr 0
  else s.respond ID.cellar m .okay (s.celLine (celOff m.f))

/-- CELLAR_READ (R514): the first request at the window is served, or asks its bank to suspend. -/
def execCellarRead (s : State) : Host.Outcome State Fault Refusal :=
  match tget s.noc.serve ID.cellar [] with
  | [] => .next s
  | m :: t =>
    let s : State := { s with noc := { s.noc with serve := tput s.noc.serve ID.cellar t [] } }
    let b := celOff m.f / 2 ^ 27
    let x := s.bank b
    if m.f.op ≠ 0 ∨ s.celMayRead m.f.ini = false ∨ x.ops.isEmpty ∨ x.held then .next (s.celAnswer m)
    else .next (({ s with cel := { s.cel with waiting := s.cel.waiting ++ [m] } } : State).setBank b { x with asking := true })

/-- BANK_SUSPENDED (R514): the bank has suspended; the reads that wait are served, and a program that waits starts. -/
def execBankSuspended (b : Fin 4) (s : State) : Host.Outcome State Fault Refusal :=
  let b := b.val
  let x := s.bank b
  if x.asking = false ∨ x.held ∨ x.ops.isEmpty then .next s
  else
    let s := s.bump CEL.SUSP_CNT
    let mine := s.cel.waiting.filter fun m => celOff m.f / 2 ^ 27 == b
    let s : State := { s with cel := { s.cel with waiting := s.cel.waiting.filter fun m => celOff m.f / 2 ^ 27 != b } }
    let s := mine.foldl State.celAnswer s
    match x.prog with
    | some o => .next ((s.celRun o).setBank b ⟨o :: x.ops, false, false, none⟩)
    | none => .next (s.setBank b { x with held := true, asking := false })

/-- BANK_RESUME (R514): a suspended operation goes on as soon as nothing waits for the bank. -/
def execBankResume (b : Fin 4) (s : State) : Host.Outcome State Fault Refusal :=
  let x := s.bank b.val
  if x.held ∧ x.prog.isNone ∧ s.cel.waiting.all (fun m => celOff m.f / 2 ^ 27 != b.val) then
    .next (s.setBank b.val { x with held := false, asking := false })
  else .next s

/-- R529: a cold or warm reset abandons every program and erase: the word or the sector holds partial data. -/
def State.celAbandon (s : State) : State :=
  let s : State := { s with cel := { s.cel with waiting := [], job := none } }
  (List.range 4).foldl (fun s b => s.setBank b {}) s

end Sys2Proof.Machine
end

