-- ==== Sys2Proof/Machine/Fen.lean ====
section
/-! DEFINITION. Frame engines: ports, receive, the stream path, flow control, precision time messages (R393 to R398, R403,
R409 to R415, R430 to R438), and the registers of ports and queues. -/

namespace Sys2Proof.Machine

/-! Frames. -/

/-- One bit of the CRC of IEEE 802.3, reflected. -/
def fcsBit (c : Nat) : Nat := if c % 2 = 1 then (c / 2) ^^^ 0xEDB88320 else c / 2
def fcsByte (c : Nat) (b : Byte) : Nat := fcsBit (fcsBit (fcsBit (fcsBit (fcsBit (fcsBit (fcsBit (fcsBit (c ^^^ b.toNat))))))))
/-- R395: the FCS of a frame, as its four bytes. -/
def fcsOf (bs : List Byte) : List Byte := leBytes 4 ((bs.foldl fcsByte 0xFFFFFFFF) ^^^ 0xFFFFFFFF)
/-- A received frame's FCS is right. -/
def fcsGood (bs : List Byte) : Bool := fcsOf (bs.take (bs.length - 4)) == bs.drop (bs.length - 4)

/-- A run of bytes of a frame: `n` bytes from an offset on. -/
def octets (bs : List Byte) (off n : Nat) : List Byte := (bs.drop off).take n
/-- Replace bytes from an offset on. -/
def splice (bs : List Byte) (off : Nat) (x : List Byte) : List Byte := bs.take off ++ x ++ bs.drop (off + x.length)

/-- The offset of the EtherType behind up to two VLAN tags. -/
def etherOff (bs : List Byte) : Nat :=
  let tag := fun o => let t := beNum (octets bs o 2); t == 0x8100 || t == 0x88A8
  if tag 12 then (if tag 16 then 20 else 16) else 12

/-- R435: where an IEEE 1588 message begins: its form (0 layer 2, 1 UDP over IPv4, 2 UDP over IPv6) and its offset. -/
def ptpAt (bs : List Byte) : Option (Nat × Nat) :=
  let e := etherOff bs
  let t := beNum (octets bs e 2)
  let at_ := fun i => beNum (octets bs (e + 2 + i) 1)
  if t = 0x88F7 then some (0, e + 2)
  else if t = 0x0800 ∧ at_ 0 = 0x45 ∧ at_ 9 = 17 ∧ beNum (octets bs (e + 24) 2) = 319 then some (1, e + 30)
  else if t = 0x86DD ∧ at_ 0 / 16 = 6 ∧ at_ 6 = 17 ∧ beNum (octets bs (e + 44) 2) = 319 then some (2, e + 50)
  else none

/-- R435: an event message of PTP version 2: its form, offset and type. -/
def ptpEvent (bs : List Byte) : Option (Nat × Nat × Nat) := match ptpAt bs with
  | none => none
  | some (k, o) =>
    let t := beNum (octets bs o 1) % 16
    if t ≤ 3 ∧ beNum (octets bs (o + 1) 1) % 16 = 2 ∧ o + 44 ≤ bs.length then some (k, o, t) else none

/-- One's complement sum of 16-bit words. -/
def onesSum : List Byte → Nat
  | [] => 0
  | [a] => a.toNat * 256
  | a :: b :: t => let n := a.toNat * 256 + b.toNat + onesSum t; n % 65536 + n / 65536

/-- R435: after a change of the message at `o`: IPv4 gets a UDP checksum of 0; in IPv6 the two bytes behind the message
keep the checksum valid; none where they are lacking. `old` is the frame before, both without FCS. -/
def ptpSum (k o : Nat) (old new : List Byte) : Option (List Byte) :=
  if k = 0 then some new
  else if k = 1 then some (splice new (o - 2) [0, 0])
  else
    let len := beNum (octets old (o + 2) 2)
    let udp := beNum (octets old (o - 4) 2) - 8
    if udp < len + 2 ∨ old.length < o + len + 2 then none
    else
      let z := splice new (o + len) [0, 0]
      let a := onesSum (octets old o udp)
      let b := onesSum (octets z o udp)
      let d := (a + 65535 - b % 65536) % 65535
      let d := if len % 2 = 1 then d % 256 * 256 + d / 256 else d
      some (splice z (o + len) (numBe 2 d))

/-- Add to correctionField, in units of 2^-16 ns. -/
def ptpCorr (bs : List Byte) (o : Nat) (d : Int) : List Byte :=
  splice bs (o + 8) (numBe 8 (((beNum (octets bs (o + 8) 8) : Nat) + d) % 2 ^ 64).toNat)

/-- R437 (TC_IN): the received event message carries RT. -/
def ptpRx (bs : List Byte) (t : Nat) : Option (List Byte) := match ptpEvent bs with
  | none => some bs
  | some (k, o, _) => ptpSum k o bs (splice bs (o + 16) (numBe 4 (t % 2 ^ 32)))

/-- The bytes of a time in a message: 48-bit seconds and 32-bit nanoseconds. -/
def ptpTime (t : Nat) : List Byte := numBe 6 (t / 64000000000) ++ numBe 4 (t / 64 % 1000000000)

/-- R436, R437: what transmission at t (in 1/64 ns) writes into a frame: none where R435 has it sent unmodified. -/
def ptpTx (oneStep tcOut : Bool) (bs : List Byte) (t : Nat) : Option (List Byte) := match ptpEvent bs with
  | none => some bs
  | some (k, o, ty) =>
    let two := beNum (octets bs (o + 6) 1) / 2 % 2 == 1
    if oneStep && ty == 0 && !two then
      ptpSum k o bs (ptpCorr (splice bs (o + 34) (ptpTime t)) o ((t % 64 * 1024 : Nat) : Int))
    else if oneStep && ty == 3 && !two then
      let r := (beNum (octets bs (o + 34) 6) * 1000000000 + beNum (octets bs (o + 40) 4)) * 64
      ptpSum k o bs (ptpCorr (splice bs (o + 34) (List.replicate 10 0)) o (((t : Int) - (r : Int)) * 1024))
    else if tcOut then
      let rt := beNum (octets bs (o + 16) 4)
      ptpSum k o bs (ptpCorr (splice bs (o + 16) [0, 0, 0, 0]) o ((((t + 2 ^ 32 - rt) % 2 ^ 32 * 1024 : Nat)) : Int))
    else some bs

/-! Time-stamps (R430, R431). -/

/-- R407: the time base of a port. -/
def State.portTb (s : State) (m : Nat) : Nat := s.rd (VAT.TBIND.TB (s.portVat m))

/-- R424, R430: the raw instant of an event at a phase of the tick, in 1/64 ns. -/
def State.rawTime (s : State) (m phase : Nat) : Nat := let x := s.tb (s.portTb m); (x.v + x.rate * phase) / 2 ^ 32

/-- The period of times in 1/64 ns. -/
def flatMod : Nat := 2 ^ 48 * 64000000000

/-- R431: the transmit and receive time-stamps. -/
def State.txStamp (s : State) (m r : Nat) : Nat := (r + s.rd (TIME.TX_DELAY.DLY m)) % flatMod
def State.rxStamp (s : State) (m r : Nat) : Nat :=
  let a := s.rd (TIME.ASYM.ASYM m)
  let a : Int := if a < 2 ^ 19 then a else (a : Int) - 2 ^ 20
  ((((r : Int) - (s.rd (TIME.RX_DELAY.DLY m) : Int)) - a) % (flatMod : Int)).toNat

/-- R419: a time in 1/64 ns as an 86-bit value. -/
def stampKey (t : Nat) : Nat := timeKey (t * 2 ^ 32)

/-! Ports. -/

/-- R373, R394: a lane runs at a symbol rate and modulation. -/
def State.laneRuns (s : State) (n khz : Nat) (pam : Bool) : Bool :=
  2 * s.pllKhz (quadOf n) (s.rd (LANE.CTL.PLL n)) == khz * s.rd (LANE.CTL.DIV n) && s.bit (LANE.CTL.MOD n) == pam

/-- R393, R394, R413: why a port cannot be enabled in a mode. -/
def State.portFits (s : State) (m mode : Nat) : Bool := match fenMode mode with
  | none => false
  | some (w, khz, pam, _) =>
    let ls := portLanes m w
    let last := m + w - 1
    m % w == 0 && (decide (last < 64) || (decide (64 ≤ m) && decide (last < 96)) || (decide (96 ≤ m) && decide (mode ≤ 2)))
      && (decide (m < 64) || mode ≤ 6 || mode == 8 || mode == 0xA)
      && ls.all (fun n => s.laneRuns n khz pam)
      && (List.range 100).all (fun k => k == m || !(s.lanesOfPort k).any fun n => ls.contains n)
      && ls.all (fun n => s.vatOfLane n == s.vatOfLane m)

/-- PORT_STAT as it reads: PAUSED, FC_HELD and STORE follow the port. -/
def State.portStat (s : State) (m : Nat) : Word :=
  let p := s.fport m
  let w := wset (s.reg (FEN.PORT_STAT.LINK m).off) 28 28 (s.portPaused m).toNat
  wset (wset w 27 27 (decide (p.held ≠ 0)).toNat) 10 0 (p.store.foldl (fun n f => n + f.segs) 0)

/-! Queues. -/

/-- R399, R414: a queue is STOPPED. -/
def State.qStopped (s : State) (q : Nat) : Bool := s.rd (QM.QSTAT.STATE q) == 3

/-- R412: the queues of a vat are paused. -/
def State.vatQPaused (s : State) (v : Nat) : Bool := s.clamped v || s.fen.qheld.contains v

/-- R412: a queue's vat is paused. -/
def State.qPaused (s : State) (q : Nat) : Bool := match s.vatOfQueue q with
  | some v => s.vatQPaused v
  | none => false

/-- A queue runs: enabled, not stopped, not paused. -/
def State.qRuns (s : State) (q : Nat) : Bool := s.bit (QM.QCFG.EN q) && !s.qStopped q && !s.qPaused q

/-- QSTAT as it reads. -/
def State.qStat (s : State) (q : Nat) : Word :=
  let st := if !s.bit (QM.QCFG.EN q) then 0 else if s.qStopped q then 3 else if s.qPaused q then 2 else 1
  wset (wset (s.reg (QM.QSTAT.STATE q).off) 31 30 st) 15 0 (tget s.fen.held q []).length

/-- R415: a queue enters STOPPED; its port's QERR sets. -/
def State.qStop (s : State) (q err : Nat) : State :=
  let s := (s.wr (QM.QSTAT.STATE q) 3).wr (QM.QSTAT.ERR q) err
  let s := s.fenFlag (s.rd (QM.QCFG.PORT q)) FEN.IRQ_STAT.QERR
  s.raiseVat ((s.vatOfQueue q).getD 0) EV.qmQueueErr q [q, err]

/-- R404: cells of the frames held on chip, or in the overflow region. -/
def State.cellsUsed (s : State) (ovf : Bool) : Nat :=
  s.fen.held.foldl (fun n p => p.2.foldl (fun n f => if f.ovf = ovf then n + f.cells else n) n) 0

/-- R404: cells of the frames held by the queues of a vat. -/
def State.cellsOfVat (s : State) (v : Nat) : Nat :=
  s.fen.held.foldl (fun n p => if s.vatOfQueue p.1 = some v then p.2.foldl (fun n f => n + f.cells) n else n) 0

/-- R404, R414: cells of the overflow region. -/
def State.ovfCells (s : State) : Nat := s.rd QM.OVF_SIZE.MIB * 4096

/-- BUF_STAT as it reads. -/
def State.bufStat (s : State) : Word :=
  BitVec.ofNat 32 (min 65535 ((s.ovfCells - s.cellsUsed true) / 256) * 65536 + min 65535 (65536 - s.cellsUsed false))

def State.setHeld (s : State) (q : Nat) (l : List HeldF) : State := { s with fen := { s.fen with held := tput s.fen.held q l [] } }

/-! Receive. -/

/-- R403: the class of a frame at a port. -/
def State.rxClass (s : State) (m : Nat) (bs : List Byte) : Nat :=
  let t := beNum (octets bs 12 2)
  if s.bit (FEN.RX_CFG.VLAN_CLS m) ∧ (t = 0x8100 ∨ t = 0x88A8) then beNum (octets bs 14 1) / 32 else s.rd (FEN.RX_CFG.DEFCLS m)

/-- R409: a MAC control frame: its opcode. -/
def macControl (bs : List Byte) : Option Nat := if beNum (octets bs 12 2) = 0x8808 then some (beNum (octets bs 14 2)) else none

/-- R409: the classes a PAUSE or PFC frame holds and those it lets go. -/
def State.flowControl (s : State) (m : Nat) (bs : List Byte) (op : Nat) : State :=
  let p := s.fport m
  let set := fun (held c : Nat) (on : Bool) => if on then held ||| 2 ^ c else held - (held &&& 2 ^ c)
  if op = 1 then
    let on := decide (0 < beNum (octets bs 16 2))
    (s.setFport m { p with held := if on then 0xFF else 0 }).bump (FEN.FC_RX m)
  else if op = 0x0101 then
    let en := beNum (octets bs 16 2)
    let held := (List.range 8).foldl (fun h c =>
      if en.testBit c then set h c (decide (0 < beNum (octets bs (18 + 2 * c) 2))) else h) p.held
    (s.setFport m { p with held := held }).bump (FEN.FC_RX m)
  else s

/-- R396: segment i of a frame at a stream interface: SOP, EOP, MTY, ERR, its bytes, and TS. -/
structure Segment where
  sop : Bool
  eop : Bool
  mty : Nat
  err : Bool
  data : List Byte
  ts : Nat
deriving DecidableEq, Repr

/-- R396: the segments of a frame, in order. -/
def segments (o : RxOut) : List Segment :=
  let n := (o.bytes.length + 63) / 64
  (List.range n).map fun i =>
    let d := octets o.bytes (64 * i) 64
    let last := i + 1 == n
    ⟨i == 0, last, if last then 64 - d.length else 0, last && o.err, d, if i = 0 then o.ts else 0⟩

/-- R396: the segments of beat j of a frame, where a beat has n. -/
def beat (n j : Nat) (l : List Segment) : List Segment := (l.drop (n * j)).take n

/-- R396: byte b of segment i lies at DATA[512i + 8b + 7 : 512i + 8b]. -/
def beatData (l : List Segment) : Nat := leVal (l.flatMap fun x => x.data ++ List.replicate (64 - x.data.length) 0)

/-- R396, R397, R412: a frame for the stream. -/
def State.rxStream (s : State) (m : Nat) (bs : List Byte) (err taken : Bool) (ts : Nat) : State :=
  if s.portPaused m then s.fenDrop m (FEN.RX_PAUSE_DROP m)
  else if !taken then s.fenDrop m (FEN.RX_FIFO_DROP m)
  else s.setFport m { s.fport m with rx := some ⟨bs, err, ts⟩ }

/-- PAUSE_EXPIRY (R409): the quanta received for a class run out. -/
def execPauseExpiry (m : Fin 100) (c : Fin 8) (s : State) : Host.Outcome State Fault Refusal :=
  let p := s.fport m.val
  .next (s.setFport m.val { p with held := p.held - (p.held &&& 2 ^ c.val) })

/-! Links. -/

/-- R395: every lane of the port is LOCKED. -/
def State.portLocked (s : State) (m : Nat) : Bool := (s.lanesOfPort m).all fun n => s.rd (LANE.STAT.RX_STATE n) == 5

/-- LINK_UP (R395): lanes locked, the PCS aligned, no fault. -/
def execLinkUp (m : Fin 100) (s : State) : Host.Outcome State Fault Refusal :=
  let m := m.val
  if s.bit (FEN.PORT_CTL.EN m) ∧ s.bit (FEN.PORT_STAT.LINK m) = false ∧ s.portLocked m then
    let s := ((s.wrb (FEN.PORT_STAT.LINK m) true).wrb (FEN.PORT_STAT.LFAULT m) false).wrb (FEN.PORT_STAT.RFAULT m) false
    let s := (s.raisePort m EV.fenLinkUp).fenFlag m FEN.IRQ_STAT.LINK_UP
    .next (if 96 ≤ m then s.raiseDev EV.mgtLinkUp (m - 96) [] else s)
  else .next s

/-- LINK_DOWN (R395, R413): the link goes down with the faults given; the frames waiting are held, or dropped with
DOWN_DROP. -/
def execLinkDown (m : Fin 100) (lf rf : Bool) (s : State) : Host.Outcome State Fault Refusal :=
  let m := m.val
  .next (((s.wrb (FEN.PORT_STAT.LFAULT m) lf).wrb (FEN.PORT_STAT.RFAULT m) rf).linkFalls m)

/-! Transmit. -/

/-- R386: the port's first lane runs its generator. -/
def State.portPrbs (s : State) (m : Nat) : Bool := (s.lanesOfPort m).any fun n => s.bit (LANE.PRBS_CTL.TX_EN n)

/-- R398, R410, R430 to R438: put a frame on the wire and complete it: padding, FCS, precision time changes, time-stamp,
counters. `phase` is that of its time-stamp point. -/
def State.sendFrame (s : State) (m : Nat) (f : TxF) (phase : Nat) : State :=
  let t := s.txStamp m (s.rawTime m phase)
  let body := if f.nofcs then f.bytes.take (f.bytes.length - 4)
    else f.bytes ++ List.replicate (60 - f.bytes.length) 0
  let one := s.bit (TIME.PTP_CTL.ONE_STEP m)
  let tco := s.bit (TIME.PTP_CTL.TC_OUT m)
  let r := ptpTx one tco body t
  let s := if r.isNone then s.bump (TIME.PTP_NOFIX_CNT m) else s
  let out := r.getD body
  let fcs := if f.nofcs ∧ out = body then f.bytes.drop (f.bytes.length - 4) else fcsOf out
  let corrupt := f.abort || f.poison
  let k := s.fresh
  let s := if corrupt then k.2 else s
  let fcs := if corrupt then leBytes 4 (leVal fcs ^^^ ((Config.freeWord k.1).toNat ||| 1)) else fcs
  let s := s.setFport m { s.fport m with tx := out ++ fcs, lastStream := f.q.isNone }
  let s := (s.bump (FEN.TX_FRAMES m)).bump (FEN.TX_BYTES m) (out.length + 4)
  let s := if f.abort then s.bump (FEN.TX_ABORT m) else s
  let s := if f.poison then s.bump (FEN.TX_POISON m) else s
  let s := if f.late then s.bump (FEN.TX_LATE_SENT m) else s
  let s := if s.portPrbs m then s.fenDrop m (FEN.TX_PRBS m) else s
  match f.fid with
  | some fid => s.tsqPush m fid (stampKey t)
  | none => s

/-- A class is held by flow control. -/
def FenPort.holds (p : FenPort) (c : Nat) : Bool := p.held.testBit c

/-- R407: the time base of a port, in 1/64 ns, without its sub-units. -/
def State.portNow (s : State) (m : Nat) : Nat := (s.tb (s.portTb m)).v / 2 ^ 32

/-- R407: the start instant of a launch time. -/
def State.startOf (s : State) (m t : Nat) : Nat := t - s.rd (TIME.TX_DELAY.DLY m)

/-- The bytes of a frame on the wire, FCS included. -/
def TxF.wireLen (f : TxF) : Nat := if f.nofcs then f.bytes.length else max 64 (f.bytes.length + 4)

/-- The wire time of so many bytes at a port's data rate, with preamble and gap, in 1/64 ns, rounded up. -/
def State.wireTime (s : State) (m len : Nat) : Nat :=
  let v := ((fenMode (s.rd (FEN.PORT_CTL.MODE m))).map (·.2.2.2)).getD 1
  ((len + 20) * 8 * 64 + v - 1) / v

/-- R407: a frame that starts now ends by the start instant of every staged timed frame. -/
def State.guardOk (s : State) (m : Nat) (f : TxF) : Bool :=
  (s.fport m).store.all fun x => match x.launch with
    | some t => decide (s.portNow m + s.wireTime m f.wireLen ≤ s.startOf m t)
    | none => true

/-- R406, R407, R409, R412: a frame in the store that is no timed frame can start now. -/
def State.canStart (s : State) (m : Nat) (f : TxF) : Bool :=
  let p := s.fport m
  s.bit (FEN.PORT_STAT.LINK m) && p.wire.isNone && f.launch.isNone && !p.holds f.cls && s.guardOk m f
    && (match f.q with
      | some q => !s.qPaused q
      | none => true)

/-- R398, R406: the frame the port starts next: the first of the stream and the first of each queue are ready by
canStart; where both sources have one, they take turns (notes/assumptions/60.md). -/
def State.nextTx (s : State) (m : Nat) : Option TxF :=
  let p := s.fport m
  let first := fun (f : TxF) => (p.store.find? fun x => x.q == f.q) == some f
  let ready := p.store.filter fun f => first f && s.canStart m f
  match ready.find? (fun f => f.q.isNone), ready.find? (fun f => f.q.isSome) with
  | some a, some b => some (if p.lastStream then b else a)
  | some a, none => some a
  | none, r => r

/-- Segments in a store. -/
def storeSegs (l : List TxF) : Nat := l.foldl (fun n f => n + f.segs) 0

/-- R396: how many segments a beat of a port's stream has, as the shell image names it. -/
def State.streamSegs (s : State) (m : Nat) : Nat :=
  2 ^ (Config.streamSegs ((List.range 1024).map fun f => s.liveFrame (shellFrame 0 f)) m).val

/-- R396, R398, R412, R413: TX_READY: the port takes the segments of a beat. -/
def State.txReady (s : State) (m : Nat) : Bool :=
  s.bit (FEN.PORT_CTL.EN m) && s.rd (FEN.PORT_CTL.TX_SRC m) != 1 && !s.portPaused m
    && (s.bit (FEN.PORT_STAT.LINK m) || s.bit (FEN.PORT_CTL.DOWN_DROP m))
    && decide (storeSegs (s.fport m).store + s.streamSegs m ≤ 1024)

/-- TX_STREAM_FRAME (R398, R412, R413): a stream frame that the port has taken with TX_READY = 1 is complete in the store and is
sent; above MAXLEN, or where its vat was paused while it was partly in the store, with a corrupted FCS (`partly`: so it was, or its
link fell then). A frame that cannot start yet waits in the store. -/
def execTxStreamFrame (m : Fin 96) (bs : List Byte) (abort : Bool) (fid : Option (BitVec 16)) (phase : Fin 64) (partly : Bool)
    (s : State) : Host.Outcome State Fault Refusal :=
  let m := m.val
  let long := decide (s.rd (FEN.PORT_CTL.MAXLEN m) < bs.length + 4)
  let f : TxF := { q := none, bytes := bs, fid := fid.map (·.toNat), abort := abort || long || s.portPaused m,
                   cls := s.rd (FEN.TX_CFG.FAB_CLS m) }
  let p := s.fport m
  if s.bit (FEN.PORT_CTL.EN m) = false ∨ s.rd (FEN.PORT_CTL.TX_SRC m) = 1 ∨ bs = [] ∨ (partly = false ∧ s.txReady m = false)
      ∨ 1024 < storeSegs p.store + f.segs then .next s
  else
    let staged := s.setFport m { p with store := p.store ++ [f] }
    if s.bit (FEN.PORT_STAT.LINK m) = false then
      .next (if s.bit (FEN.PORT_CTL.DOWN_DROP m) then s.fenDrop m (FEN.TX_DOWN_DROP m) else staged)
    else if p.store.any (fun x => x.q.isNone) ∨ staged.nextTx m ≠ some f then .next staged
    else .next (s.sendFrame m f phase.val)

/-- R409: the frame FC_TX describes: PAUSE, or PFC for CLASSES, with QUANTA. -/
def State.pauseFrame (s : State) (m : Nat) : List Byte :=
  let n := s.rd (FEN.FC_TX.QUANTA m)
  let cls := s.rd (FEN.FC_TX.CLASSES m)
  let r := s.fresh
  let src := leBytes 6 (Config.freeNat r.1)
  let head := [0x01, 0x80, 0xC2, 0x00, 0x00, 0x01] ++ src ++ [0x88, 0x08]
  let body := if s.bit (FEN.FC_TX.PFC m) then
      [0x01, 0x01] ++ numBe 2 cls ++ (List.range 8).flatMap fun c => numBe 2 (if cls.testBit c then n else 0)
    else [0x00, 0x01] ++ numBe 2 n
  let f := head ++ body
  let f := f ++ List.replicate (60 - f.length) 0
  f ++ fcsOf f

/-- FEN.FC_TX (R409): SEND sends one frame. -/
def State.fcTxWrite (s : State) (m : Nat) (w : Word) : State × Bool :=
  let s := s.setReg (FEN.FC_TX.PFC m).off (w &&& (wmask 30 30 ||| wmask 23 0))
  if wget w 31 31 = 1 ∧ s.bit (FEN.PORT_CTL.EN m) then
    let s' := s.fresh.2
    ((s'.setFport m { s'.fport m with tx := s.pauseFrame m }).bump (FEN.FC_TX_CNT m), true)
  else (s, true)

/-! Registers (R413, R414). -/

/-- FEN.PORT_CTL: enabling needs a mode its lanes fit; MAXLEN is 64 to 16,383; TX_SRC 0b11 and MODE 0xF are refused. -/
def State.portCtlWrite (s : State) (m : Nat) (w : Word) : State × Bool :=
  let mode := wget w 23 20
  if wget w 29 28 = 3 ∨ mode = 0xF ∨ wget w 19 6 < 64 then (s, false)
  else
    let w := w &&& (wmask 31 26 ||| wmask 23 6)
    let was := s.bit (FEN.PORT_CTL.EN m)
    if wget w 31 31 = 1 then
      if was ∧ mode = s.rd (FEN.PORT_CTL.MODE m) then (s.setReg (FEN.PORT_CTL.EN m).off w, true)
      else if (s.wrb (FEN.PORT_CTL.EN m) false).portFits m mode then (s.setReg (FEN.PORT_CTL.EN m).off w, true)
      else (s, false)
    else
      let s := s.setReg (FEN.PORT_CTL.EN m).off w
      if was then ((s.storeDrop m).linkFalls m, true) else (s, true)

/-- FEN.TX_CFG: LEAD is 1 to 100 µs. -/
def State.txCfgWrite (s : State) (m : Nat) (w : Word) : State × Bool :=
  if wget w 6 0 = 0 ∨ 100 < wget w 6 0 then (s, false) else (s.setReg (FEN.TX_CFG.LEAD m).off (w &&& (wmask 26 24 ||| wmask 6 0)), true)

/-- R413: the frames a queue holds, in the packet buffer and in a transmit store, are dropped. -/
def State.qEmpty (s : State) (q : Nat) : State :=
  let m := s.rd (QM.QCFG.PORT q)
  let p := s.fport m
  let mine := fun (f : TxF) => f.q == some q
  let n := (tget s.fen.held q []).length + (p.store.filter mine).length
  let s := (s.setHeld q []).setFport m { p with store := p.store.filter fun f => !mine f, done := p.done.filter fun d => !mine d.1 }
  if n = 0 then s else (s.bump (QM.DROP_CNT q) n).fenFlag m FEN.IRQ_STAT.DROP

/-- QM.QCFG (R399, R413, R414). -/
def State.qCfgWrite (s : State) (q : Nat) (w : Word) : State × Bool :=
  let w := w &&& (wmask 31 28 ||| wmask 26 12 ||| wmask 7 0)
  let port := wget w 7 0
  let old := s.reg (QM.QCFG.EN q).off
  let was := s.bit (QM.QCFG.EN q)
  if wget w 23 16 = 0 ∨ wget w 15 12 < 3 ∨ 96 ≤ port ∨ s.vatOfLane port ≠ s.vatOfQueue q then (s, false)
  else if was ∧ wset w 31 31 0 ≠ wset old 31 31 0 then (s, false)
  else
    let s := if wget w 31 31 = 0 ∧ was then s.qEmpty q else s
    let s := s.setReg (QM.QCFG.EN q).off w
    if wget w 31 31 = 1 ∧ !was then (((s.wr (QM.CIDX.CIDX q) 0).wr (QM.QSTAT.STATE q) 1).wr (QM.QSTAT.ERR q) 0, true)
    else if wget w 31 31 = 0 then ((s.wr (QM.QSTAT.STATE q) 0).wr (QM.QSTAT.ERR q) 0, true)
    else (s, true)

/-- R400: how many descriptors belong to the queue manager by the indices. -/
def State.qAvail (s : State) (q pidx : Nat) : Nat := (pidx + 65536 - s.rd (QM.CIDX.CIDX q)) % 65536

/-- QM.PIDX (R400): an index too far ahead stops the queue. -/
def State.pidxWrite (s : State) (q : Nat) (w : Word) : State × Bool :=
  let p := wget w 15 0
  let s := s.wr (QM.PIDX.PIDX q) p
  if s.bit (QM.QCFG.EN q) ∧ !s.qStopped q ∧ 2 ^ s.rd (QM.QCFG.SIZE q) < s.qAvail q p then (s.qStop q 3, true) else (s, true)

/-- QM.OVF_LO, OVF_HI, OVF_SIZE, OVF_THR (R414): refused while a frame lies in the overflow region. -/
def State.ovfWrite (s : State) (off : Nat) (mask w : Word) : State × Bool :=
  if s.cellsUsed true ≠ 0 then (s, false) else (s.setReg off (w &&& mask), true)

/-- QM.QRESUME (R412): the queues of the vats named run again. -/
def State.qResumeWrite (s : State) (w : Word) : State × Bool :=
  ({ s with fen := { s.fen with qheld := s.fen.qheld.filter fun v => !w.getLsbD v } }, true)

end Sys2Proof.Machine
end

