-- ==== Sys2Proof/Machine/Procs.lean ====
section
/-! DEFINITION. The processors as the rest of the device meets them (R445 to R462): core control, fast interrupts, access
faults and store errors, the registers of the interrupt controller; the DMA channels' and service ports' registers
(R467 to R473). The standard RISC-V trap is taken from the ratified architecture (notes/assumptions/50.md). -/

namespace Sys2Proof.Machine

/-! Traps of the ratified privileged architecture. PRESUMED (notes/assumptions/50.md). -/

/-- The value of the fields of a status CSR after a trap from a privilege into M mode: MPP, MPV, MPIE, MIE. -/
def mstatusTrap (w : BitVec 64) (priv : Nat) (virt : Bool) : BitVec 64 :=
  let mie := w.getLsbD 3
  let w := w &&& ~~~ (0x8000001888#64)
  w ||| (BitVec.ofNat 64 (priv * 2 ^ 11)) ||| (if mie then 0x80#64 else 0#64) ||| (if virt then 0x8000000000#64 else 0#64)

/-- The value of a supervisor status CSR after a trap into S mode: SPP, SPIE, SIE. -/
def sstatusTrap (w : BitVec 64) (priv : Nat) : BitVec 64 :=
  let sie := w.getLsbD 1
  let w := w &&& ~~~ (0x122#64)
  w ||| (if priv = 1 then 0x100#64 else 0#64) ||| (if sie then 0x20#64 else 0#64)

/-- A processor takes an exception: to VS mode, HS mode or M mode as delegation says. -/
def Proc.trap (p : Proc) (cause : Nat) (tval : BitVec 64) : Proc :=
  let del := fun (c : Nat) => (p.getCsr c).getLsbD cause
  let enter := fun (p : Proc) (epc cse tv vec : Nat) =>
    let p := ((p.setCsr epc (BitVec.ofNat 64 p.pc)).setCsr cse (BitVec.ofNat 64 cause)).setCsr tv tval
    { p with pc := (p.getCsr vec).toNat / 4 * 4 }
  if p.priv < 3 && del 0x302 then
    if p.virt && del 0x602 then
      let q := enter (p.setCsr 0x200 (sstatusTrap (p.getCsr 0x200) p.priv)) 0x241 0x242 0x243 0x205
      { q with priv := 1 }
    else
      let h := p.getCsr 0x600
      let h := (h &&& ~~~ 0x80#64) ||| (if p.virt then 0x80#64 else 0#64)
      let h := if p.virt then (h &&& ~~~ 0x100#64) ||| (if p.priv = 1 then 0x100#64 else 0#64) else h
      let q := enter ((p.setCsr 0x600 h).setCsr 0x300 (sstatusTrap (p.getCsr 0x300) p.priv)) 0x141 0x142 0x143 0x105
      { q with priv := 1, virt := false }
  else
    let q := enter (p.setCsr 0x300 (mstatusTrap (p.getCsr 0x300) p.priv p.virt)) 0x341 0x342 0x343 0x305
    { q with priv := 3, virt := false }

/-! Core control (R446). -/

/-- R446: the start address of a processor. -/
def State.resetVec (s : State) (k : Nat) : Nat :=
  (s.reg (SVC.RESET_VEC_LO.VEC k).off).toNat + if k = 4 then 0 else 2 ^ 32 * (s.reg (SVC.RESET_VEC_HI.VEC k).off).toNat

/-- The processor of CORE_CTL k. -/
def coreOf (k : Nat) : Nat := k + 1

/-- R446: core reset: the reset state, claims completed, reservation and L1 gone, the store-error source released. -/
def State.coreReset (s : State) (k : Nat) : State :=
  let c := coreOf k
  let s := (s.completeAll c).setProc c { pc := s.resetVec k, run := s.bit (SVC.CORE_CTL.RUN k) }
  let s : State := { s with cores := { s.cores with l1 := tfilter (fun i _ => i / 2 ^ 60 != c) s.cores.l1 } }
  let s : State := { s with dbg := { s.dbg with
    bkpts := tfilter (fun i _ => i / 4 != k) s.dbg.bkpts } }
  (((s.wrb (SVC.CORE_CTL.WFI k) false).wrb (SVC.CORE_CTL.HALTED k) false).srcSet (774 + c) false).reoffer

/-- SVC.CORE_CTL (R446): RUN starts the processor at RESET_VEC; RESET, and RUN written 0, put it into core reset. -/
def State.coreCtlWrite (s : State) (k : Nat) (w : Word) : State :=
  let was := s.bit (SVC.CORE_CTL.RUN k)
  let s := s.wrb (SVC.CORE_CTL.RUN k) (w.getLsbD 31)
  if w.getLsbD 30 || was != w.getLsbD 31 then s.coreReset k else s

/-! Access faults and store errors (R449, R452). -/

/-- R452: the code of a status in merrinfo and msterr. -/
def errCode : Status → Nat
  | .slverr => 1
  | .decerr => 2
  | .targetReset => 3
  | .poisoned => 4
  | .timeout => 5
  | .okay => 0

/-- R449: a load or a fetch of a processor ends in a precise access fault, merrinfo as given. -/
def State.loadFault (s : State) (c : Nat) (x : CpuLoad) (info : Nat) : State :=
  if !s.procRuns c || s.procHalted c then s
  else
    let s := s.cpuRan c x.run
    let p := (s.proc c).setCsr csrMerrinfo (BitVec.ofNat 64 info)
    s.setProc c (p.trap (if x.fetch then 1 else 5) (xlen c x.addr))

/-- R449: the response a processor's load or fetch waits for: SLVERR, DECERR, TIMEOUT and TARGET_RESET are an access fault,
POISON = 0 and STATUS. -/
def State.loadAnswered (s : State) (i : Nat) (st : Status) : Option CpuLoad → State
  | none => s
  | some x => match procOfId i with
    | none => s
    | some c => if st = .okay ∨ st = .poisoned then s else s.loadFault c x (2 * errCode st)

/-- R447, R449: the number of the word of local RAM that an address of the Starter's or the Timekeeper's map lies in. -/
def ramWord (c : Nat) (a : BitVec 64) : Option Nat :=
  let o := a.toNat - 0x10000000
  if (c = 0 ∨ c = 5) ∧ 0x10000000 ≤ a.toNat ∧ o < (if c = 0 then 0x40000 else 0x20000) then some (2 ^ 20 * c + o / 8) else none

/-- POISONED_WORD_LOAD (R449): a load or a fetch reads a poisoned word: precise access fault, merrinfo.POISON = 1. A word of local RAM
is poisoned where its poison bit says so. -/
def execPoisonedWordLoad (c : Fin 6) (x : CpuLoad) (s : State) : Host.Outcome State Fault Refusal :=
  match ramWord c x.addr with
  | some w => if (tget (s.cpuRan c x.run).cores.ram w (0, false)).2 then .next (s.loadFault c x 1) else .next s
  | none => .next (s.loadFault c x 1)

/-- STORE_ERROR_RESPONSE (R449, R452): msterr and msteraddr record the first failing store; the source asserts. -/
def execStoreErrorResponse (c : Fin 6) (st : Fin 6) (a : BitVec 64) (s : State) : Host.Outcome State Fault Refusal :=
  let st := statusOf st.val
  if st = .okay then .next s
  else
    let p := s.proc c.val
    let p := if (p.getCsr csrMsterr).getLsbD 31 then p
      else (p.setCsr csrMsterr (BitVec.ofNat 64 (2 ^ 31 + errCode st))).setCsr csrMsteraddr a
    .next ((s.setProc c.val p).srcSet (774 + c.val) true)

/-- MSTERR_CLEAR (R452): msterr is written 0. -/
def execMsterrClear (c : Fin 6) (s : State) : Host.Outcome State Fault Refusal :=
  .next ((s.setProc c.val ((s.proc c.val).setCsr csrMsterr 0)).srcSet (774 + c.val) false)

/-! Fast interrupts (R450, R451, R457). -/

/-- R457: the fast source offered to a processor: of highest PRIO, lowest number. -/
def State.fastOffered (s : State) (c : Nat) : Option Nat :=
  (s.irq.offer.map (·.1)).foldl (fun best i =>
    if tget s.irq.offer i 0 = c + 1 ∧ s.bit (IRQ.SRC_CFG.CLASS i) then
      match best with
      | none => some i
      | some b => if s.srcPrio b < s.srcPrio i then some i else some b
    else best) none

/-- FAST_INTERRUPT_ENTRY (R450): at an instruction boundary; the pc of `r` is that of the next instruction. -/
def execFastInterruptEntry (c : Fin 6) (r : CpuRun) (s : State) : Host.Outcome State Fault Refusal :=
  let t := s.cpuRan c r
  let p := t.proc c.val
  let fs := p.getCsr csrFstatus
  match s.fastOffered c.val with
  | none => .next s
  | some i =>
    if fs.getLsbD 0 && !fs.getLsbD 1 && s.procRuns c.val && !s.procHalted c.val then
      let f := BitVec.ofNat 64 (3 + p.priv % 4 * 4 + p.virt.toNat * 16)
      let q := ((p.setCsr csrFepc (xlen c r.pc)).setCsr csrFstatus f).setCsr csrFcause (BitVec.ofNat 64 i)
      let q := { q with priv := 3, virt := false, pc := (p.getCsr csrFvec).toNat / 4 * 4, fastSrc := some i }
      let s := (t.setProc c.val q).wrb (IRQ.CPL.FACT c.val) true
      .next ((((s.setClaim i (c.val + 1)).setLatch i false).setOffer i 0).reoffer)
    else .next s

/-- FRET (R451): back to the normal bank, mode and pc; the source completes. With FACT = 0 it is an illegal instruction. -/
def execFret (c : Fin 6) (r : CpuRun) (s : State) : Host.Outcome State Fault Refusal :=
  let t := s.cpuRan c r
  let p := t.proc c.val
  let fs := p.getCsr csrFstatus
  if !s.procRuns c.val || s.procHalted c.val then .next s
  else if !fs.getLsbD 1 then .next (t.setProc c.val (p.trap 2 0x3000000B#64))
  else
    let q := { p.setCsr csrFstatus (fs &&& ~~~ 2#64) with
      priv := (fs >>> 2).toNat % 4, virt := fs.getLsbD 4, pc := (p.getCsr csrFepc).toNat, fastSrc := none }
    let s := (t.setProc c.val q).wrb (IRQ.CPL.FACT c.val) false
    .next ((match p.fastSrc with | some i => s.setClaim i 0 | none => s).reoffer)

/-! The interrupt controller's registers. -/

/-- R453: a source below 976 has a producer. -/
def hasProducer (i : Nat) : Bool :=
  decide (i < 704) || (decide (i < 768) && decide (i % 8 < 6)) || (decide (768 ≤ i) && decide (i < 816))
    || (decide (832 ≤ i) && decide (i < 887)) || (decide (944 ≤ i) && decide (i < 951))

/-- INTERRUPT_ASSERT (R453, R454): a source's producer asserts it or lets it fall; a source without one never asserts. -/
def execInterruptAssert (i : Fin 976) (b : Bool) (s : State) : Host.Outcome State Fault Refusal :=
  if hasProducer i.val then .next (s.srcSet i.val b) else .next s

/-- WAKE_LATCH_EDGE (R461): a rising edge of a source routed through its wake latch. -/
def execWakeLatchEdge (i : Fin 128) (s : State) : Host.Outcome State Fault Refusal :=
  let n := 832 + i.val
  if s.bit (IRQ.SRC_CFG.WAKE n) then
    let s := s.setLatch n true
    .next (if s.powered then s.reoffer else s)
  else .next s

/-- IRQ.SRC_CFG (R453, R458): WAKE only for sources 832 to 959; a tenancy's initiator changes neither GROUP, CLASS nor
WAKE. -/
def State.srcCfgWrite (s : State) (full : Bool) (i : Nat) (w : Word) : State × Bool :=
  let w := w &&& 0xF83F000F#32
  let w := if 976 ≤ i then w ||| 0x20000000#32 else w
  let off := (IRQ.SRC_CFG.PRIO i).off
  let fixed := 0xC03F0000#32
  if w.getLsbD 31 && !(decide (832 ≤ i ∧ i < 960)) then (s, false)
  else if !full && (w &&& fixed) != (s.reg off &&& fixed) then (s, false)
  else ((s.setReg off w).reoffer, true)

/-- IRQ.PEND (R454): a 1 clears the latch of an edge source and withdraws its offer. -/
def State.pendWrite (s : State) (wd : Nat) (w : Word) : State :=
  ((List.range 32).foldl (fun (s : State) b =>
    let i := 32 * wd + b
    if w.getLsbD b && s.srcEdge i then (s.setLatch i false).setOffer i 0 else s) s).reoffer

/-- IRQ.SWI: set the latch of a software source; beyond 47 SLVERR. -/
def State.swiWrite (s : State) (w : Word) : State × Bool :=
  let n := wget w 5 0
  if 47 < n then (s, false)
  else if w.getLsbD 31 then ((s.setLatch (976 + n) true).reoffer, true) else (s, true)

/-- IRQ.WAKE_LAT (R461): a 1 clears a wake latch. -/
def State.wakeLatWrite (s : State) (wd : Nat) (w : Word) : State :=
  ((List.range 32).foldl (fun (s : State) b =>
    let i := 832 + 32 * wd + b
    if w.getLsbD b && s.bit (IRQ.SRC_CFG.WAKE i) then (s.setLatch i false).setOffer i 0 else s) s).reoffer

/-- R456: a read of CLAIM. -/
def State.claimRead (s : State) (c : Nat) : Word × State := match s.claimable c with
  | some i => (BitVec.ofNat 32 (2 ^ 31 + i), s.claim c i)
  | none => (0, s)

/-- R460: a read of VCLAIM: the claim, whose latch clears. -/
def State.vclaimRead (s : State) (v : Nat) : Word × State := match s.vclaimable v with
  | some k =>
    let s : State := { s with irq := { s.irq with vclaim := tput s.irq.vclaim v (k + 1) 0 } }
    (BitVec.ofNat 32 (2 ^ 31 + k), (s.setClaim (32 * v + k) 7).setLatch (32 * v + k) false)
  | none => (0, s)

/-- R460: a write of VCOMPLETE: only of the index claimed. -/
def State.vcompleteWrite (s : State) (v : Nat) (w : Word) : State :=
  let k := wget w 4 0
  if tget s.irq.vclaim v 0 = k + 1 then
    ({ s with irq := { s.irq with vclaim := tput s.irq.vclaim v 0 0 } } : State).setClaim (32 * v + k) 0
  else s

/-! The machine timer (R474). -/

/-- R474: MTIP of a service core follows the compare. -/
def State.mtip (s : State) (k : Nat) : State :=
  let due := decide (s.rd64 (SVC.MTIMECMP_LO.CMP k).off (SVC.MTIMECMP_HI.CMP k).off ≤ s.mtime)
  let p := s.proc (coreOf k)
  let m := p.getCsr 0x344
  let s := s.setProc (coreOf k) (p.setCsr 0x344 (if due then m ||| 0x80#64 else m &&& ~~~ 0x80#64))
  if due then s.wrb (SVC.CORE_CTL.WFI k) false else s

/-- MTIME_COMPARE (R474): MTIME has reached the core's compare. -/
def execMtimeCompare (k : Fin 4) (s : State) : Host.Outcome State Fault Refusal := .next (s.mtip k.val)

/-! DMA channels (R467 to R470). -/

def State.dmaCh (s : State) (c : Nat) : DmaCh := tget s.dma c {}
def State.setDmaCh (s : State) (c : Nat) (x : DmaCh) : State := { s with dma := tput s.dma c x {} }

/-- The channel's source asserts while its IRQ bit is 1. -/
def State.dmaIrq (s : State) (c : Nat) : State := s.srcSet (780 + c) (s.bit (DMA.CH_STAT.IRQ c))

/-- R469: the channel stops with an ERR. -/
def State.dmaStopped (s : State) (c err : Nat) : State :=
  (((s.wr (DMA.CH_STAT.STATE c) 2).wr (DMA.CH_STAT.ERR c) err).wrb (DMA.CH_STAT.IRQ c) true).dmaIrq c

/-- R469: an abort: by STOP, or by the clamp of its vat; word 5 is written back with RESULT 0x5. -/
def State.dmaAbort (s : State) (c : Nat) : State :=
  if s.rd (DMA.CH_STAT.STATE c) = 1 then (s.setDmaCh c { s.dmaCh c with owed := true }).dmaStopped c 5 else s

/-- R469: the channels of a vat whose Rind clamps. -/
def State.dmaClamp (s : State) (v : Nat) : State :=
  (List.range 16).foldl (fun (s : State) c => if s.rd (DMA.CH_CTL.VAT c) = v then s.dmaAbort c else s) s

/-- DMA.CH_CTL: VAT only from the Starter or vat 0 (`own`) while IDLE; GO unless RUNNING; STOP. -/
def State.dmaCtlWrite (s : State) (own : Bool) (c : Nat) (w : Word) : State × Bool :=
  let st := s.rd (DMA.CH_STAT.STATE c)
  let v := wget w 3 0
  if v ≠ s.rd (DMA.CH_CTL.VAT c) ∧ (own = false ∨ st ≠ 0) then (s, false)
  else if w.getLsbD 31 ∧ st = 1 then (s, false)
  else
    let s := s.wr (DMA.CH_CTL.VAT c) v
    let d := s.rd64 (DMA.CH_DESC_LO.ADDR c).off (DMA.CH_DESC_HI.ADDR c).off / 32 * 32
    let s := if w.getLsbD 31 then
        ((s.setDmaCh c { desc := d }).wr (DMA.CH_STAT.STATE c) 1).wr (DMA.CH_STAT.ERR c) 0
      else s
    (if w.getLsbD 30 then s.dmaAbort c else s, true)

/-! Service ports (R471 to R473). -/

def State.svcPort (s : State) (k : Nat) : SvcPort := tget s.svc k {}
def State.setSvcPort (s : State) (k : Nat) (p : SvcPort) : State := { s with svc := tput s.svc k p {} }

/-- The port runs: EN, the top bit of its CFG register. -/
def State.svcEn (s : State) (k : Nat) : Bool := s.bit ⟨0x6400004 + 0x1000 * k, 31, 31⟩

/-- R472: the port's source: a bit set in both IRQ_EN and IRQ_STAT. -/
def State.svcIrq (s : State) (k : Nat) : State :=
  s.srcSet (796 + k) ((s.rd (SVC.IRQ_EN.B k)) &&& (s.rd (SVC.IRQ_STAT.B k)) != 0)

def State.svcFlag (s : State) (k bit : Nat) : State := (s.wrm (SVC.IRQ_STAT.B k) bit true).svcIrq k

/-- STAT as it reads: BUSY while an enabled port has words to transfer, the fills. -/
def State.svcStat (s : State) (k : Nat) : Word :=
  let p := s.svcPort k
  let w := wset (s.reg (SVC.STAT.NACK k).off) 31 31 (s.svcEn k && !p.tx.isEmpty).toNat
  wset (wset w 14 8 p.rx.length) 6 0 p.tx.length

/-- R473: a word a port takes: an I2C command is 0x1 to 0x5. -/
def svcWordOk (k : Nat) (w : BitVec 16) : Bool :=
  !(decide (8 ≤ k ∧ k < 16)) || (decide (1 ≤ w.toNat / 4096) && decide (w.toNat / 4096 ≤ 5))

/-- R471, R472: a word for the transmit FIFO; false where it is full or the word is refused. -/
def State.txPush (s : State) (k : Nat) (w : BitVec 16) : State × Bool :=
  let p := s.svcPort k
  if 64 ≤ p.tx.length ∨ !svcWordOk k w then (s, false)
  else (s.setSvcPort k { p with tx := p.tx ++ [w] }, true)

/-- R472: RXD: a word leaves the receive FIFO. -/
def State.rxPop (s : State) (k : Nat) : Word × State := match (s.svcPort k).rx with
  | [] => (0, s)
  | w :: l => (BitVec.ofNat 32 (2 ^ 31 + w.toNat), s.setSvcPort k { s.svcPort k with rx := l })

/-- RXD_I. -/
def State.rxPeek (s : State) (k : Nat) : Word := match (s.svcPort k).rx with
  | [] => 0
  | w :: _ => BitVec.ofNat 32 (2 ^ 31 + w.toNat)

/-- R472: the fabric of vat OWNER moves the words of a port. -/
def State.svcFabric (s : State) (k : Nat) : Bool := s.bit (SVC.OWN.MODE k)

/-- R473: the bits a received word carries. -/
def svcMask (k : Nat) : BitVec 16 := if k < 8 then 0x7FF#16 else if k < 16 then 0x1FF#16 else 0xFF#16

/-- PERIPHERAL_WORD_RECEIVED (R472, R473): into the receive FIFO, or dropped with RXOVF; an I2C write answered NACK sets
NACK. -/
def execPeripheralWordReceived (k : Fin 20) (w : BitVec 16) (s : State) : Host.Outcome State Fault Refusal :=
  if !s.svcEn k.val then .next s
  else
    let w := w &&& svcMask k.val
    let p := s.svcPort k.val
    let s := if 8 ≤ k.val ∧ k.val < 16 ∧ w.getLsbD 8 then (s.wrb (SVC.STAT.NACK k.val) true).svcFlag k.val 2 else s
    if 64 ≤ p.rx.length then .next ((s.wrb (SVC.STAT.RXOVF k.val) true).svcFlag k.val 2)
    else .next ((s.setSvcPort k.val { p with rx := p.rx ++ [w] }).svcFlag k.val 0)

/-- PERIPHERAL_TRANSFER_DONE (R471 to R473): the port has transferred its oldest word. With MODE = 1 the fabric has put the words
given (TX_WORD) into its FIFO since, as far as TX_READY let it. -/
def execPeripheralTransferDone (k : Fin 20) (ws : List (BitVec 16)) (s : State) : Host.Outcome State Fault Refusal :=
  let s := if s.svcEn k.val && s.svcFabric k.val then ws.foldl (fun (s : State) w => (s.txPush k.val w).1) s else s
  let p := s.svcPort k.val
  if !s.svcEn k.val || p.tx.isEmpty then .next s
  else
    let s := (s.setSvcPort k.val { p with tx := p.tx.drop 1 }).svcFlag k.val 3
    .next (if p.tx.length = 1 then s.svcFlag k.val 1 else s)

/-- I2C_TIMEOUT (R473): SCL held low for 25 ms: TIMEOUT, and the rest of the command FIFO goes. -/
def execI2cTimeout (j : Fin 8) (s : State) : Host.Outcome State Fault Refusal :=
  let k := 8 + j.val
  let p := s.svcPort k
  if !s.svcEn k || p.tx.isEmpty then .next s
  else .next (((s.setSvcPort k { p with tx := [] }).wrb (SVC.STAT.TIMEOUT k) true).svcFlag k 2)

/-- CFG of a service port: a DIV or SPEED the port does not have is refused. -/
def State.svcCfgWrite (s : State) (k : Nat) (w : Word) : State × Bool :=
  let off := 0x6400004 + 0x1000 * k
  if k < 8 then if wget w 15 0 = 0 then (s, false) else (s.setReg off (w &&& 0xBC00FFFF#32), true)
  else if k < 16 then if wget w 1 0 = 3 then (s, false) else (s.setReg off (w &&& 0x80000003#32), true)
  else if wget w 7 0 < 2 then (s, false) else (s.setReg off (w &&& 0x830300FF#32), true)

end Sys2Proof.Machine
end

