-- ==== Sys2Proof/Machine/Vats.lean ====
section
/-! DEFINITION. Vats: assertion and release of a vat reset (R260 to R266), memory clearing and reload (R61, R158, R187),
power gating (R275), and the assignment of resources (R256, R257). -/

namespace Sys2Proof.Machine

/-- R264, R460: the pending interrupts of a vat's 32 sources are discarded and counted, and its claim is cleared. -/
def State.dropSources (s : State) (v : Nat) : State :=
  let c := tget s.irq.vclaim v 0
  let s := if c = 0 then s else s.setClaim (32 * v + c - 1) 0
  let s : State := { s with irq := { s.irq with vclaim := tput s.irq.vclaim v 0 0 } }
  ((List.range 32).map (32 * v + ·)).foldl (fun (s : State) i =>
    let s := if s.srcPending i then s.bump (VAT.IRQ_DISC_CNT v) else s
    ((s.setLevel i false).setLatch i false).setOffer i 0) s

/-- R277: the clamp time of a vat on a time base. -/
def State.clampTime (s : State) (v b : Nat) : State :=
  let x := (s.tb b).v
  let sec := x / secUnit
  let s := (s.wr (VAT.CLAMP_SEC_LO.SEC v) (sec % 2 ^ 32)).wr (VAT.CLAMP_SEC_HI.SEC v) (sec / 2 ^ 32 % 2 ^ 16)
  (s.wr (VAT.CLAMP_SEC_HI.FRAC v) (x / 2 ^ 32 % 64)).wr (VAT.CLAMP_NS.NS v) (x / nsUnit % 1000000000)

/-- R248: an init of the vat that runs is aborted; it will start again from its first record. -/
def State.initAbort (s : State) (v : Nat) : State := match s.img.init with
  | some r =>
    if r.vat = v then
      ({ s with img := { s.img with init := none, initQ := s.img.initQ ++ [v] } } : State).wrb CFG.IMG_STAT.INIT_BUSY false
    else s
  | none => s

/-- R271, R272: MODLOAD_FAIL to the owner, the RESULT and REASON, and the interrupt of source 31 where it is asked for. -/
def State.modEnds (s : State) (m : ModLoad) : State :=
  let s := ((s.wr (VAT.MLOAD_STAT.RESULT m.vat) m.result).wr (VAT.MLOAD_STAT.REASON m.vat) m.reason).wr
    (VAT.MLOAD_STAT.FRAMES m.vat) m.frames.length
  let s := if m.result = 0 then s.raiseVat m.vat EV.modloadDone m.region [m.vat, m.region]
    else s.raiseVat m.vat EV.modloadFail m.region [m.vat, m.region, m.result, m.reason]
  if m.irq then s.srcPulse (32 * m.vat + 31) else s

/-- Change the module load of a vat; `none` removes it. -/
def State.setMod (s : State) (v : Nat) (f : ModLoad → Option ModLoad) : State :=
  { s with cfg := { s.cfg with mods := s.cfg.mods.filterMap fun m => if m.vat = v then f m else some m } }

/-- R272: a module load of a vat ends with a RESULT before or after its first frame write. -/
def State.modFail (s : State) (v result reason : Nat) : State := match s.cfg.mods.find? (fun m => m.vat == v) with
  | none => s
  | some m =>
    let m := { m with result := result, reason := reason }
    let s : State := if s.cfg.mods.head?.map (·.vat) = some v ∧ 1 ≤ m.phase then { s with img := { s.img with mod := none } } else s
    if m.phase ≤ 1 then (((s.setMod v fun _ => none).modEnds m).wrb (VAT.MLOAD_STAT.BUSY v) false).showSwaps
    else if m.phase = 2 then s.setMod v fun _ => some { m with phase := 5 }
    else s

/-- R260 to R264, R267: the assertion of a vat reset or swap of a vat, but for its counter and the memory rule. `b`: the
time base the clamp time is captured from (R277). The hard-block initiators of vat 0 keep working (R260). -/
def State.assertVat (s : State) (v b : Nat) : State :=
  let s := ((s.takeSnap v).clampPins v).dropSources v
  let s := (s.wrb (VAT.VAT_STAT.IN_RESET v) true).wrb (VAT.VAT_STAT.CLAMPED v) true
  let mine := s.inVat v
  let s := ((s.holdTiles fun g => mine (tileSector g)).holdSyncs mine).holdSlices mine
  let s := (s.holdMems mine).orphanVat v
  let s := ((s.clampTime v b).initAbort v).modFail v 5 0
  if v = 0 then s else s.dmaClamp v

/-- R141, R187: the valid and poison bits of the vat's memories clear. -/
def State.clearVatMems (s : State) (v : Nat) : State := (s.clearMems (s.inVat v)).clearOpm (s.inVat v)

/-! The boot table (R242, R518). -/

/-- Offset in the Cellar of position k (0 to 31) of the two copy sectors of the boot table. -/
def bootPos (k : Nat) : Nat := (infoSec + k / 16) * 65536 + k % 16 * 4096

/-- A little-endian word of a list of bytes. -/
def wordAt (l : List Byte) (k : Nat) : Nat := leVal ((l.drop (4 * k)).take 4)

/-- R242: a copy is good: MAGIC and CRC. -/
def bootGood (l : List Byte) : Bool := wordAt l 0 == 0x4254424C && wordAt l 419 == (crc32c (l.take 1676)).toNat

/-- R242, R518: the good copy with the higher sequence number, compared modulo 2^32, with its position. -/
def State.bootNewest (s : State) : Option (Nat × List Byte) :=
  (List.range 32).foldl (fun best k =>
    let l := s.celBytes (bootPos k) 1680
    if !bootGood l then best
    else match best with
      | none => some (k, l)
      | some (_, m) => if (wordAt l 1 + 2 ^ 32 - wordAt m 1) % 2 ^ 32 < 2 ^ 31 then some (k, l) else best) none

/-- The boot table as Rennet reads it: all ones where neither copy is good (notes/assumptions/43.md). -/
def State.bootTable (s : State) : List Byte := (s.bootNewest.map (·.2)).getD (leBytes 12 (2 ^ 96 - 1) ++ List.replicate 1668 0)

/-- R242: word 2 of the boot table: the slots of ORDER up to the first 0xF. -/
def State.bootOrder (s : State) : List Nat :=
  ((List.range 8).map fun i => wordAt s.bootTable 2 / 16 ^ i % 16).takeWhile (· != 15)

/-- R242: the init source of a vat and plane: its slot and HDR_HASH, where USED. -/
def State.initSource (s : State) (v : Nat) (p : Bool) : Option (Nat × List Byte) :=
  let e := 2 * v + p.toNat
  let w := wordAt s.bootTable (3 + 13 * e)
  if 2 ^ 31 ≤ w then some (w % 8, (s.bootTable.drop (4 * (4 + 13 * e))).take 48) else none

/-- R518: one update of the boot table: its words change, SEQ rises, and it goes to the next unwritten position of the copy
sector that does not hold the newest copy, which is erased first when it has none left. -/
def State.bootUpdate (s : State) (f : List Byte → List Byte) : State :=
  let t := s.bootTable
  let body := f t
  let seq := (wordAt t 1 + 1) % 2 ^ 32
  let l := (leBytes 4 0x4254424C ++ leBytes 4 seq ++ body.drop 8).take 1676
  let l := l ++ leBytes 4 (crc32c l).toNat
  let sec := match s.bootNewest with
    | some (k, _) => 1 - k / 16
    | none => 0
  match (List.range 16).find? fun i => (s.celBytes (bootPos (16 * sec + i)) 8).all (· == 0xFF#8) with
  | some i => s.celProgram (bootPos (16 * sec + i)) l
  | none => (s.eraseSector (infoSec + sec)).celProgram (bootPos (16 * sec)) l

/-- Replace n bytes of a list from an offset on. -/
def putBytes (l : List Byte) (off : Nat) (bs : List Byte) : List Byte := l.take off ++ bs ++ l.drop (off + bs.length)

/-- R243: the entry of a boot table for a vat and plane. -/
def putSource (v : Nat) (p : Bool) (src : Option (Nat × List Byte)) (l : List Byte) : List Byte :=
  let off := 4 * (3 + 13 * (2 * v + p.toNat))
  match src with
  | some (slot, h) => putBytes l off (leBytes 4 (2 ^ 31 + slot) ++ h)
  | none => putBytes l off (List.replicate 52 0)

/-! Vat reset. -/

/-- R246: the vat waits for its init where its current plane has an init source; the init waits its turn. -/
def State.wantInit (s : State) (v : Nat) : State :=
  let q := s.img.initQ.filter (· != v)
  if (s.initSource v (s.role v).cur).isSome then
    ({ s with img := { s.img with initQ := q ++ [v] } } : State).wrb (VAT.VAT_STAT.INIT_PEND v) true
  else ({ s with img := { s.img with initQ := q } } : State).wrb (VAT.VAT_STAT.INIT_PEND v) false

/-- R281: VAT_RESET with the counts of discarded interrupts and responses. -/
def State.vatResetEvent (s : State) (v : Nat) : State :=
  s.raiseVat v EV.vatReset v [v, (s.ctr (VAT.IRQ_DISC_CNT v)).val, (s.ctr (VAT.RSP_DISC_CNT v)).val]

/-- R264: a vat reset asserts; CLEAR_MEM as sampled here clears the memories and orders the reloads and the init. -/
def State.assertReset (s : State) (v : Nat) (clear : Bool) : State :=
  let s := s.assertVat v (s.rd (VAT.TBIND.TB v))
  let s := if clear then
      let s : State := { s with cfg := { s.cfg with clearing := s.cfg.clearing.filter (· != v) ++ [v] } }
      (s.clearVatMems v).wrb (VAT.VAT_STAT.INIT_PEND v) true
    else s
  let s : State := { s with cfg := { s.cfg with resetOn := s.cfg.resetOn.filter (· != v) ++ [v] } }
  (s.bump (VAT.RESET_CNT v)).vatResetEvent v

def State.setRstReq (s : State) (v n : Nat) : State := { s with cfg := { s.cfg with rstReq := tput s.cfg.rstReq v n 0 } }
def State.setHold (s : State) (v n : Nat) : State := { s with cfg := { s.cfg with cmdHold := tput s.cfg.cmdHold v n 0 } }

/-- VAT_RESET_ASSERTION (R263, R264, R280): a requested reset asserts; one requested while a swap of the vat runs has no
assertion of its own. -/
def execVatResetAssertion (v : Fin 16) (s : State) : Host.Outcome State Fault Refusal :=
  let r := tget s.cfg.rstReq v.val 0
  if r = 0 ∨ s.defined v.val = false then .next s
  else
    let s := s.setRstReq v.val 0
    if s.bit (VAT.VAT_STAT.SWAPPING v.val) then .next s
    else .next (s.assertReset v.val (s.bit (VAT.VAT_CTRL.CLEAR_MEM v.val) || r == 2))

/-- VAT_RESET_HOLD_EXPIRY (R263): the stated hold of a command reset ends: release is requested. -/
def execVatResetHoldExpiry (v : Fin 16) (s : State) : Host.Outcome State Fault Refusal :=
  if tget s.cfg.rstReq v.val 0 = 0 then .next (s.setHold v.val 0) else .next s

/-- R266: what must hold for the release of a vat. -/
def State.mayRelease (s : State) (v : Nat) : Bool :=
  s.running && s.bit (VAT.VAT_STAT.IN_RESET v) && !s.bit (VAT.VAT_CTRL.RESET v) && tget s.cfg.cmdHold v 0 == 0
    && tget s.cfg.rstReq v 0 == 0 && !s.cfg.clearing.contains v && !s.bit (VAT.VAT_STAT.INIT_PEND v)
    && !s.bit (VAT.VAT_STAT.SWAPPING v) && (tget s.cfg.loads v none).isNone && !s.bit (VAT.VAT_STAT.FAILED v)
    && !s.bit (VAT.VAT_STAT.GATED v) && tget s.cfg.gating v 0 != 1
    && !(s.cfg.mods.any fun m => m.vat == v && decide (4 ≤ m.phase))

/-- VAT_RELEASE (R266, R281): flip-flops and slices run, the Rind releases, the regulators return to their rates, queues resume
unless QHOLD is set; VAT_RESET is raised where a vat reset had been asserted. -/
def execVatRelease (v : Fin 16) (s : State) : Host.Outcome State Fault Refusal :=
  if !s.mayRelease v.val then .next s
  else
    let s := (((s.wrb (VAT.VAT_STAT.IN_RESET v.val) false).wrb (VAT.VAT_STAT.CLAMPED v.val) false)).dropSnap v.val
    let s := (s.sectorsOf v.val).foldl (fun (s : State) sec => s.releaseSector sec) s
    let q := s.fen.qheld.filter (· != v.val)
    let s : State := { s with fen := { s.fen with qheld := if s.bit (VAT.VAT_CTRL.QHOLD v.val) then q ++ [v.val] else q } }
    let s := s.fillVatRegs v.val
    if s.cfg.resetOn.contains v.val then
      .next (({ s with cfg := { s.cfg with resetOn := s.cfg.resetOn.filter (· != v.val) } } : State).vatResetEvent v.val)
    else .next s

/-- R61, R158: a dynamic frame that CLEAR_MEM reloads, with where from: the load shadow, or the current plane. -/
def State.reloadFrame (s : State) (v n : Nat) : State :=
  match tget s.cfg.shadow n none with
  | some f => s.loadLive n f
  | none =>
    let p := (s.role v).cur
    match chkFrame (s.planeFrame p n) with
    | .clean => s.loadLive n (s.planeFrame p n)
    | .fixed _ _ f => ((s.loadLive n f).setPerr n (p.toNat + 1)).bump CFG.PCORR_CNT
    | .bad => (s.loadLive n (s.planeFrame p n)).bump CFG.PUNC_CNT

/-- MEMORY_FRAME_RELOAD (R61, R158): after a reset with CLEAR_MEM every dynamic memory frame and dynamic coefficient frame
of the vat is reloaded; then its init follows. -/
def execMemoryFrameReload (v : Fin 16) (s : State) : Host.Outcome State Fault Refusal :=
  if s.cfg.clearing.contains v.val = false ∨ s.underTest v then .next s
  else
    let frames := (s.sectorsOf v.val).flatMap fun sec =>
      ((List.range 256).map fun t => sectorFrame sec (768 + t)) ++ (List.range 48).map fun i => sectorFrame sec (1072 + i)
    let s := (frames.filter s.frameDyn).foldl (fun (s : State) n => s.reloadFrame v.val n) s
    let s : State := { s with cfg := { s.cfg with clearing := s.cfg.clearing.filter (· != v.val) } }
    .next (s.wantInit v.val)

/-! Power gating. -/

/-- R96, R275: the clock gates of a vat's sectors close. -/
def State.closeGates (s : State) (secs : List Nat) : State :=
  secs.foldl (fun (s : State) sec => s.wrm (CLK.SEC_ON.ON (sec / 32)) (sec % 32) false) s

/-- R96: the clock gates of sectors are open. -/
def State.openGates (s : State) (secs : List Nat) : State :=
  secs.foldl (fun (s : State) sec => s.wrm (CLK.SEC_ON.ON (sec / 32)) (sec % 32) true) s

/-- R96: the vat map that decides which sectors are to be clocked: that of the plane a whole-device load takes the shell from,
else the one in effect. -/
def State.gateMap (s : State) : Nat → Nat := match tget s.cfg.loads 0 none with
  | some op => match op.plan.find? fun x => x.1 == 0 with
    | some x => s.planeMap x.2
    | none => s.vatOfSector
  | none => s.vatOfSector

/-- SECTOR_GATE_OPEN (R96, R275): the sector's supply is good and it belongs to a vat that is powered, or is being powered: the
gate opens, before the activation that configures the sector ends. The sectors of a FAILED vat stay gated (R210) but for a
load of it. -/
def execSectorGateOpen (sec : Fin 224) (s : State) : Host.Outcome State Fault Refusal :=
  let v := s.gateMap sec.val
  let loads := (tget s.cfg.loads v none).isSome || (tget s.cfg.loads 0 none).isSome
  if 16 ≤ v ∨ tget s.cfg.gating v 0 = 1 ∨ (s.bit (VAT.VAT_STAT.GATED v) = true ∧ tget s.cfg.gating v 0 ≠ 2)
      ∨ (s.bit (VAT.VAT_STAT.FAILED v) && !loads) = true then .next s
  else .next (s.openGates [sec.val])

/-- R275: why a write of PWR_GATE is refused. -/
def State.gateRefused (s : State) (v : Nat) : Bool :=
  v == 0 || !s.defined v || tget s.cfg.gating v 0 != 0 || s.swapping v || (s.cfg.mods.any fun m => m.vat == v)
    || s.committing v || s.windowOpen v || s.underTest v

def State.setGating (s : State) (v n : Nat) : State := { s with cfg := { s.cfg with gating := tput s.cfg.gating v n 0 } }

/-- R275: gating starts: vat reset, clamp, clock gates; uncaptured module-loaded frames are discarded, Churn's repairs dropped
(R291). -/
def State.gateStart (s : State) (v : Nat) : State :=
  let s := (s.assertReset v false).setGating v 1
  let mine := fun n => s.frameVat n == some v
  let s := s.dropRepairs mine
  let s : State := { s with cfg := { s.cfg with
    vol := tfilter (fun n _ => !mine n) s.cfg.vol
    shadow := tfilter (fun n _ => !mine n) s.cfg.shadow } }
  (s.wrb (VAT.VAT_STAT.INIT_PEND v) false).closeGates (s.sectorsOf v)

/-- R275: powering starts: a load of the vat from its current plane, once its supply is good. -/
def State.ungateStart (s : State) (v : Nat) : State :=
  let op : LoadOp := { code := 3, vats := [v], plan := [(v, (s.role v).cur)] }
  let s : State := { s with cfg := { s.cfg with loads := tput s.cfg.loads v (some op) none } }
  s.setGating v 2

/-- VAT_GATING_DONE (R275): gating ends: GATED is set; powering ends once the vat is released. VAT_GATED is raised. -/
def execVatGatingDone (v : Fin 16) (s : State) : Host.Outcome State Fault Refusal :=
  let g := tget s.cfg.gating v.val 0
  if g = 1 then
    let mine := s.inVat v.val
    let s := (s.clearVatMems v.val).setGating v.val 0
    let s : State := { s with cfg := { s.cfg with live := tfilter (fun n _ => s.frameVat n != some v.val) s.cfg.live } }
    let s := ((s.wrb (VAT.VAT_STAT.GATED v.val) true).closeGates (s.sectorsOf v.val)).holdSlices mine
    .next (s.raiseVat v.val EV.vatGated v.val [v.val, 1])
  else if g = 2 ∧ s.bit (VAT.VAT_STAT.IN_RESET v.val) = false then
    .next ((s.setGating v.val 0).raiseVat v.val EV.vatGated v.val [v.val, 0])
  else .next s

/-- VAT.VAT_CTRL (R263, R275): reset and release, CLEAR_MEM, PWR_GATE, QHOLD. -/
def State.vatCtrlWrite (s : State) (v : Nat) (w : Word) : State × Bool :=
  let rst := w.getLsbD 0
  let gate := w.getLsbD 3
  let old := s.bit (VAT.VAT_CTRL.PWR_GATE v)
  let idle := gate == old && tget s.cfg.gating v 0 == 0
  if v = 0 ∧ rst then (s, false)
  else if !idle && s.gateRefused v then (s, false)
  else
    let was := s.bit (VAT.VAT_CTRL.RESET v)
    let s := s.setReg (VAT.VAT_CTRL.RESET v).off (w &&& 0x1D#32)
    let s := if rst && !was && tget s.cfg.rstReq v 0 == 0 then s.setRstReq v 1 else s
    (if idle then s else if gate then s.gateStart v else s.ungateStart v, true)

/-! Assignment of resources. -/

/-- Two ranges of numbers overlap. -/
def overlap (a n b m : Nat) : Bool := decide (0 < n ∧ 0 < m ∧ a < b + m ∧ b < a + n)

/-- R257: the vat is held outside LOAD, or it is vat 0 in BOOT or FALLBACK. -/
def State.assignOpen (s : State) (v : Nat) : Bool :=
  (s.mode != M.load && (s.bit (VAT.VAT_STAT.IN_RESET v) || s.bit (VAT.VAT_STAT.GATED v)))
    || (v == 0 && (s.mode == M.boot || s.mode == M.fallback))

/-- R257: an assignment would give a regulator, queue or lane of another vat, or one that does not exist. `k`: the
register, in the order OWN, PERM, NOCREG, QBASE, QCNT, LLANE_LO, LLANE_HI, SLANE, DRAMW, TBIND. -/
def State.assignClash (s : State) (v k : Nat) (w : Word) : Bool :=
  let others := (List.range 16).filter (· != v)
  if k = 2 then
    let c := wget w 24 16
    let b := wget w 7 0
    decide (256 < b + c) || others.any fun u => overlap b c (s.rd (VAT.NOCREG.BASE u)) (s.rd (VAT.NOCREG.CNT u))
  else if k = 3 ∨ k = 4 then
    let b := if k = 3 then wget w 15 0 else s.rd (VAT.QBASE.BASE v)
    let c := if k = 4 then wget w 16 0 else s.rd (VAT.QCNT.CNT v)
    decide (65536 < b + c) || others.any fun u => overlap b c (s.rd (VAT.QBASE.BASE u)) (s.rd (VAT.QCNT.CNT u))
  else if 5 ≤ k ∧ k ≤ 7 then others.any fun u => (w &&& s.reg (0x201008 + 0x100 * u + 4 * k)) != 0
  else false

/-- The bits of the assignment registers that hold fields (R256). -/
def assignMask (k : Nat) : Word :=
  [0x1FF03#32, 0x3FF, 0x1FF00FF, 0xFFFF, 0x1FFFF, 0xFFFFFFFF, 0xFFFFFFFF, 0xFFFFFFFF, 0xFF, 0x7].getD k 0

/-- R256, R257: a write of an assignment register. PERM of vat 0 ignores writes. -/
def State.assignWrite (s : State) (v k : Nat) (w : Word) : State × Bool :=
  let w := w &&& assignMask k
  if !s.assignOpen v || s.assignClash v k w then (s, false)
  else (if v = 0 ∧ k = 1 then s else s.setReg (0x201008 + 0x100 * v + 4 * k) w, true)

/-! Module regions. -/

/-- R269: a rectangle of whole tiles, every one in a sector of the vat. -/
def State.rectOk (s : State) (v : Nat) (r : Nat × Nat × Nat × Nat) : Bool :=
  decide (r.1 ≤ r.2.1 ∧ r.2.2.1 ≤ r.2.2.2 ∧ r.2.2.2 ≤ 223) &&
    (List.range 224).all fun sec =>
      let x := 16 * (sec % 16)
      let y := 16 * (sec / 16)
      !(decide (r.1 ≤ x + 15 ∧ x ≤ r.2.1 ∧ r.2.2.1 ≤ y + 15 ∧ y ≤ r.2.2.2)) || s.inVat v sec

/-- Two rectangles share a tile. -/
def rectsMeet (a b : Nat × Nat × Nat × Nat) : Bool :=
  decide (a.1 ≤ b.2.1 ∧ b.1 ≤ a.2.1 ∧ a.2.2.1 ≤ b.2.2.2 ∧ b.2.2.1 ≤ a.2.2.2)

/-- R269: a module load runs in a region. -/
def State.regionBusy (s : State) (v r : Nat) : Bool := s.cfg.mods.any fun m => m.vat == v && m.region == r

/-- R269: the enabled regions of a vat are good and disjoint. -/
def State.regionsOk (s : State) (v : Nat) : Bool :=
  let on := (List.range 4).filter fun r => s.mbit (VAT.MREG_EN.EN v) r
  on.all fun r => s.rectOk v (s.regionRect v r)
    && on.all fun q => q == r || !rectsMeet (s.regionRect v r) (s.regionRect v q)

/-- R269: a write of MREG0 to MREG3 (k) or of MREG_EN (4). -/
def State.mregWrite (s : State) (v k : Nat) (w : Word) : State × Bool :=
  if k < 4 then
    let t := s.setReg (VAT.MREG.Y1 v k).off w
    if s.regionBusy v k || !t.rectOk v (t.regionRect v k) || !t.regionsOk v then (s, false) else (t, true)
  else
    let t := s.wr (VAT.MREG_EN.EN v) (wget w 3 0)
    let chg := (List.range 4).any fun r => s.regionBusy v r && s.mbit (VAT.MREG_EN.EN v) r != t.mbit (VAT.MREG_EN.EN v) r
    if chg || !t.regionsOk v then (s, false) else (t, true)

end Sys2Proof.Machine
end

