-- ==== Sys2Proof/Machine/Loads.lean ====
section
/-! DEFINITION. Loads from the planes: the plane operations (R208, R215), their deferral (R30, R31), the passes and outcomes
of a load (R210), confirm windows and expiry rollbacks (R219 to R221), armed activations (R222, R223). -/

namespace Sys2Proof.Machine

/-! Windows. -/

/-- R219, R220: the confirm window of a vat closes. -/
def State.closeWindow (s : State) (v : Nat) : State :=
  ({ s with cfg := { s.cfg with window := s.cfg.window.filter (· != v) } } : State).wr (CFG.WIN_LEFT.US v) 0

/-- R219: the confirm window of a vat opens with a length in ms. -/
def State.openWindow (s : State) (v ms : Nat) : State :=
  ({ s with cfg := { s.cfg with window := s.cfg.window.filter (· != v) ++ [v] } } : State).wr (CFG.WIN_LEFT.US v) (1000 * ms)

def State.setExpiring (s : State) (v : Nat) (p : Option Bool) : State :=
  { s with cfg := { s.cfg with expiring := tput s.cfg.expiring v p none } }

def State.setLoad (s : State) (v : Nat) (op : Option LoadOp) : State :=
  { s with cfg := { s.cfg with loads := tput s.cfg.loads v op none } }

/-! Churn, where a load meets it. -/

/-- R282: a pass that is cut short is abandoned. -/
def State.churnStop (s : State) : State :=
  ({ s with churn := {} } : State).wrb CHURN.STAT.ACTIVE false

/-- R282, R285: a pass starts at position 0 in all four quadrants, where Churn may run. -/
def State.churnStart (s : State) : State :=
  if s.bit CHURN.CTL.EN && s.running then ({ s with churn := { active := true } } : State).wrb CHURN.STAT.ACTIVE true else s

/-! FALLBACK. -/

/-- R28, R250, R251: the device enters FALLBACK: every vat is held, Churn stops, nothing of the configuration engine waits. -/
def State.enterFallback (s : State) : State :=
  let s := s.bistAbort
  let s := s.definedVats.foldl (fun (s : State) v =>
    if s.bit (VAT.VAT_STAT.IN_RESET v) then s else s.assertVat v (s.rd (VAT.TBIND.TB v))) s
  let s := (List.range 16).foldl (fun (s : State) v =>
    ((s.closeWindow v).wrb (VAT.VAT_STAT.SWAPPING v) false).setExpiring v none) s
  let s : State := { s with
    cfg := { s.cfg with loads := [], deferred := none, swapDef := [], fired := [], captures := [] }
    img := { s.img with init := none, initQ := [] } }
  let s := (s.wrb PWR.MODE_STAT.LOAD_PEND false).wrb CFG.IMG_STAT.INIT_BUSY false
  ((s.churnStop.enterMode M.fallback).setErrN true).showSwaps

/-! Starting a load. -/

/-- R208, R267: the start of a load of one vat from a plane. `b`: the time base of the clamp time. -/
def State.beginSwap (s : State) (op : LoadOp) (v b : Nat) : State :=
  let s := if op.code = OP.rollback then s.closeWindow v else s
  let s := (s.assertVat v b).setExpiring v none
  let s := s.dropRepairs fun n => s.frameVat n == some v
  let s : State := { s with img := { s.img with initQ := s.img.initQ.filter (· != v) } }
  let s := (s.wrb (VAT.VAT_STAT.INIT_PEND v) false).wrb (VAT.VAT_STAT.SWAPPING v) true
  (s.setLoad v (some op)).showSwaps

/-- R208, R260: the start of a whole-device load: LOAD begins, every defined vat is held, Churn's pass is abandoned. -/
def State.beginWhole (s : State) (op : LoadOp) (b : Option Nat) : State :=
  let op := { op with wasFallback := s.mode == M.fallback }
  let s := if s.running then s.holdPins else s
  let s := (s.bistAbort.churnStop.wrb PWR.MODE_STAT.LOAD_PEND false).enterMode M.load
  let s := s.definedVats.foldl (fun (s : State) v =>
    (s.assertVat v (b.getD (s.rd (VAT.TBIND.TB v)))).wrb (VAT.VAT_STAT.INIT_PEND v) false) s
  let s := if op.code = OP.rollback then op.vats.foldl (fun (s : State) v => (s.closeWindow v).setExpiring v none) s else s
  let s : State := { s with img := { s.img with initQ := [] } }
  s.setLoad 0 (some op)

/-- R208: an ACTIVATE or ROLLBACK that was accepted starts. -/
def State.startOp (s : State) (o : PendOp) : State :=
  let b := o.slot.map fun k => s.rd (CFG.ARM_CTL.TB k)
  let plane := fun v => if o.vats.contains v then !(s.role v).cur else (s.role v).cur
  if o.vats.contains 0 then
    let chg := o.code == OP.activate && mapsDiffer (s.planeMap (!(s.role 0).cur)) s.vatOfSector
    s.beginWhole { code := o.code, vats := o.vats, plan := (List.range 16).map fun v => (v, plane v), wins := o.wins,
                   expiry := o.expiry, mapChg := chg, slot := o.slot } b
  else
    o.vats.foldl (fun (s : State) v =>
      s.beginSwap { code := o.code, vats := [v], plan := [(v, plane v)], wins := o.wins, expiry := o.expiry, slot := o.slot }
        v (b.getD (s.rd (VAT.TBIND.TB v)))) s

/-- R30, R31: an accepted ACTIVATE or ROLLBACK has to wait. -/
def State.opWaits (s : State) (o : PendOp) : Bool :=
  if o.vats.contains 0 then s.swapsRun else o.vats.any s.underTest

/-- R30, R31: an accepted ACTIVATE or ROLLBACK starts, or waits: a whole-device one for swaps and module loads, one of a
vat under test for the test. The result is that of OP_STAT. -/
def State.launchOp (s : State) (o : PendOp) : State × Nat :=
  if o.vats.contains 0 && s.swapsRun then
    let s := if o.code = OP.rollback then o.vats.foldl State.closeWindow s else s
    (({ s with cfg := { s.cfg with deferred := some o } } : State).wrb PWR.MODE_STAT.LOAD_PEND true, 0x0A)
  else if s.opWaits o then
    let s := if o.code = OP.rollback then o.vats.foldl State.closeWindow s else s
    ({ s with cfg := { s.cfg with swapDef := s.cfg.swapDef ++ [o] } }, 0)
  else (s.startOp o, 0)

/-! The plane operations. -/

/-- R219: a vat is confirmed; R216: the confirmation of vat 0 after a map change clears every standby. -/
def State.confirmVat (s : State) (v : Nat) : State :=
  let s := s.closeWindow v
  let s := s.setRole v { s.role v with unconf := false }
  if v = 0 then
    let s := if s.cfg.mapChg then (List.range 16).foldl (fun (s : State) u => s.setStandby u false) s else s
    { s with cfg := { s.cfg with mapChg := false, actSet := [] } }
  else s

/-- R209: CAPTURE of one frame: a dynamic frame from its load shadow, a static one from the live latches. A frame whose
live content the check cannot correct is not captured (notes/assumptions/44.md). -/
def State.captureFrame (s : State) (v n : Nat) : State :=
  let p := (s.role v).cur
  let done := fun (f : Frame) => (((s.setPlane p n f).setVol n false).setShadow n none).setPerr n 0
  match tget s.cfg.shadow n none with
  | some f => done f
  | none => match chkFrame (s.liveFrame n) with
    | .clean => done (s.liveFrame n)
    | .fixed _ _ f => done f
    | .bad => s

/-- R209, R213: CAPTURE of one frame, which waits while a load holds its port. -/
def State.captureOrWait (s : State) (v n : Nat) : State :=
  if s.frameBusy n then { s with cfg := { s.cfg with captures := s.cfg.captures ++ [(v, n)] } } else s.captureFrame v n

/-- R213: captures whose ports are free again go on; a frame that a load has replaced meanwhile is volatile no longer. -/
def State.capResume (s : State) : State :=
  let l := s.cfg.captures
  let s : State := { s with cfg := { s.cfg with captures := [] } }
  l.foldl (fun (s : State) x => if s.frameVol x.2 && s.frameVat x.2 == some x.1 then s.captureOrWait x.1 x.2 else s) s

/-- R209: the volatile frames of a vat. -/
def State.volFrames (s : State) (v : Nat) : List Nat := (s.cfg.vol.map (·.1)).filter fun n => s.frameVat n == some v

/-- CFG.OP_STAT: the outcome of an operation. -/
def State.opStat (s : State) (result v : Nat) : State :=
  ((s.wrb CFG.OP_STAT.BUSY false).wr CFG.OP_STAT.RESULT result).wr CFG.OP_STAT.VAT v

/-- R208: the effect of an accepted operation; the second component is the RESULT of OP_STAT. -/
def State.opRun (s : State) (code : Nat) (vats : List Nat) (slot : Nat) (tag : Word) : State × Nat :=
  if code = OP.activate ∨ code = OP.rollback then
    s.launchOp { code := code, vats := vats, wins := vats.map fun v => (v, s.rd (CFG.WIN.MS v)) }
  else if code = OP.confirm then (vats.foldl State.confirmVat s, 0)
  else if code = OP.arm then
    let s := s.wrb (CFG.ARM_CTL.ARMED slot) true
    (if slot = 0 then s.wr (CFG.ARM_CTL.VATS 0) (vats.foldl (fun n v => n + 2 ^ v) 0) else s, 0)
  else if code = OP.disarm then ((s.wrb (CFG.ARM_CTL.ARMED slot) false).wr (CFG.ARM_CTL.VATS slot) 0, 0)
  else if code = OP.commitOpen then
    let s := vats.foldl (fun (s : State) v => s.setStandby v false) s
    (({ s with cfg := { s.cfg with commits := s.cfg.commits ++ [⟨vats, none⟩] } } : State).wrb CFG.OP_STAT.CLOSE_FAIL false, 0)
  else if code = OP.commitClose then
    let cs := s.cfg.commits.map fun c => if c.vats = vats then { c with closing := some tag } else c
    (({ s with cfg := { s.cfg with commits := cs } } : State).wrb CFG.OP_STAT.CLOSE_FAIL false, 0)
  else if code = OP.invalidate then
    let s := vats.foldl (fun (s : State) v => s.setStandby v false) s
    ({ s with cfg := { s.cfg with commits := s.cfg.commits.filter fun c => c.vats != vats } }, 0)
  else (vats.foldl (fun (s : State) v => (s.volFrames v).foldl (fun (s : State) n => s.captureOrWait v n) s) s, 0)

/-- R222, R226: the slot an ARM or DISARM names: exactly one bit from 1 to 15, or bit 0 with a set. -/
def armSlot (vats : List Nat) : Option Nat := match vats with
  | [k] => some k
  | 0 :: _ => some 0
  | _ => none

/-- The vats of a mask, in ascending order. -/
def maskVats (m : Nat) : List Nat := (List.range 16).filter m.testBit

/-- R208, R215, R581: an operation ordered through CFG.OP: refused with its reason, or run. The second component is the
RESULT and VAT of OP_STAT. -/
def State.planeOp (s : State) (code : Nat) (vats : List Nat) (tag : Word) : State × Nat × Nat :=
  let isArm := code == OP.arm || code == OP.disarm
  let slot := armSlot vats
  if isArm && slot.isNone then (s.opStat 0x06 0, 0x06, 0)
  else
    let named := if code = OP.disarm then slot.toList else vats
    match s.opRefusal code named (if isArm then slot else none) with
    | some (c, v) => (s.opStat c v, c, v)
    | none =>
      let r := s.opRun code vats (slot.getD 0) tag
      (r.1.opStat r.2 0, r.2, 0)

/-- R226: Rennet issues an operation through CFG.OP: OP_VATS, and OP_ARG for COMMIT_CLOSE, are written before it. -/
def State.orderOp (s : State) (code : Nat) (vats : List Nat) (tag : Word) : State × Nat × Nat :=
  let s := s.wr CFG.OP_VATS.VATS (vats.foldl (fun n v => n + 2 ^ v) 0)
  (if code = OP.commitClose then s.setReg CFG.OP_ARG.TAG.off tag else s).planeOp code vats tag

/-- CFG.OP (R226): codes other than 1 to 9 complete with SLVERR. -/
def State.cfgOpWrite (s : State) (w : Word) : State × Bool :=
  let code := wget w 3 0
  if code = 0 ∨ 9 < code ∨ s.bit CFG.OP_STAT.BUSY then (s, false)
  else ((s.planeOp code (maskVats (s.rd CFG.OP_VATS.VATS)) (s.reg CFG.OP_ARG.TAG.off)).1, true)

/-! The shell register record and what a whole-device load sets. -/

/-- R254, R256: the vat map takes effect: VAT.MAP, VAT.DEF, SECTORS, DEFINED. A vat that is no longer defined holds
nothing; a vat that is newly defined is held. -/
def State.applyMap (s : State) (map : Nat → Nat) : State :=
  let was := s.definedVats
  let s := (List.range 56).foldl (fun (s : State) i =>
    s.setReg (0x200000 + 4 * i)
      (BitVec.ofNat 32 (map (4 * i) + 256 * map (4 * i + 1) + 65536 * map (4 * i + 2) + 16777216 * map (4 * i + 3)))) s
  let s := s.wr VAT.DEF.DEF ((vatsOf map).foldl (fun n v => n + 2 ^ v) 0)
  (List.range 16).foldl (fun (s : State) v =>
    let n := ((List.range 224).filter fun sec => map sec == v).length
    let d := definedBy map v
    let s := (s.wr (VAT.VAT_STAT.SECTORS v) n).wrb (VAT.VAT_STAT.DEFINED v) d
    if !d then s.wr ⟨(VAT.VAT_STAT.IN_RESET v).off, 7, 1⟩ 0
    else if was.contains v && s.bit (VAT.VAT_STAT.IN_RESET v) then s
    else (s.wrb (VAT.VAT_STAT.IN_RESET v) true).wrb (VAT.VAT_STAT.CLAMPED v) true) s

/-- R579: the shell register record goes into the VAT, NoC map, INIT_CFG and HIO registers; map entry 0 keeps VALID. -/
def State.applyRecord (s : State) : State :=
  let rec_ := recordWord s.liveFrame
  let s := (List.range 16).foldl (fun (s : State) v => (List.range 10).foldl (fun (s : State) k =>
    if v = 0 ∧ k = 1 then s else s.setReg (0x201008 + 0x100 * v + 4 * k) (rec_ (10 * v + k) &&& assignMask k)) s) s
  let s := (List.range 64).foldl (fun (s : State) e => (List.range 4).foldl (fun (s : State) k =>
    let off := 0x1001000 + 16 * e + 4 * k
    let w := rec_ (160 + 4 * e + k)
    s.setReg off (if e = 0 ∧ k = 2 then wset w 31 31 (wget (s.reg off) 31 31) else w)) s) s
  let is := (List.range 1024).filter isInitiator
  let s := is.foldl State.unbindReg s
  let s := is.foldl (fun (s : State) i => if (rec_ (416 + i / 32)).getLsbD (i % 32) then s.bindReg i else s) s
  let s := (List.range 12).foldl (fun (s : State) b => s.hioRange b (wget (rec_ 448) (2 * b + 1) (2 * b))) s
  { s with noc := { s.noc with cache := [] } }

/-- R91, R579: the FAB dividers and the foreign-line sources of the shell. A code that names no source is refused as in a write
(R93); a source that is not ready is taken all the same, at once and without a switch (notes/assumptions/82.md). -/
def State.applyClocks (s : State) : State :=
  let s := (List.range 8).foldl (fun (s : State) k =>
    let d := frameByte (s.liveFrame (shellFrame 0 512)) k
    (s.wr (CLK.DIV.DIV (8 + k)) d).wr (CLK.DIV.DIV_ACT (8 + k)) d) s
  (List.range 4).foldl (fun (s : State) q => (List.range 8).foldl (fun (s : State) l =>
    let c := frameByte (s.liveFrame (shellFrame q 512)) (8 + l)
    if !fclCode c then s.swErr (0x20 + 8 * q + l) 4
    else
      let s := (s.wr (CLK.FCL.SRC q l) c).wr (CLK.FCL.SRC_ACT q l) c
      (s.wrb (CLK.FCL.SWITCHING q l) false).wrb (CLK.FCL.READY q l) (!decide (1 ≤ c ∧ c ≤ 6))) s) s

/-! The passes of a load. -/

/-- R579: the shell frames whose content fails the check at load: a vat-map byte of 0x10 to 0xFE, a FAB divider that R82
does not allow. -/
def State.shellFaults (s : State) : Nat :=
  let m := ((List.range 4).filter fun q => (List.range 56).any fun i =>
    let b := frameByte (s.liveFrame (shellFrame q 768)) i
    decide (16 ≤ b ∧ b ≠ 255)).length
  let d := (List.range 8).any fun k => !divAllowed (8 + k) (frameByte (s.liveFrame (shellFrame 0 512)) k)
  m + d.toNat

/-- R205, R210: the frames a test accepts are copied from a plane into the live latches and checked. False: a frame is
uncorrectable. -/
def State.copyFrames (s : State) (mine : Nat → Bool) (p : Bool) : State × Bool :=
  let src := (if p then s.cfg.planeB else s.cfg.planeA).filter fun x => mine x.1
  let old := s.cfg.unrest
  let keep := fun {α : Type} (t : Tab α) => tfilter (fun n _ => !mine n) t
  let s : State := { s with cfg := { s.cfg with
    live := keep s.cfg.live, vol := keep s.cfg.vol, shadow := keep s.cfg.shadow, unrest := keep s.cfg.unrest } }
  src.foldl (fun (r : State × Bool) x => match chkFrame x.2 with
    | .clean => (r.1.loadLive x.1 x.2, r.2)
    | .fixed _ _ f => (((r.1.loadLive x.1 f).setPerr x.1 (p.toNat + 1)).bump CFG.PCORR_CNT, r.2)
    | .bad => (((r.1.loadLive x.1 x.2).setUnrest x.1 (tget old x.1 false)).bump CFG.PUNC_CNT, false)) (s, true)

/-- R210: a vat loads from a plane in a pass. A plane that is not valid counts as failed without a check. The second
component tells whether the vat passed. -/
def State.passVat (s : State) (map : Nat → Nat) (v : Nat) (p : Bool) : State × Bool :=
  if !(s.role v).valid p then (s, false)
  else
    let r := s.copyFrames (fun n => frameVatBy map n == some v) p
    let bad := if v = 0 then r.1.shellFaults else 0
    let s := if bad = 0 then r.1 else r.1.bump CFG.PUNC_CNT bad
    if r.2 && bad == 0 then (s, true) else (s.raiseVat v EV.actCheckFail v [v, p.toNat], false)

/-- R210, R213: one pass: the shell first, whose map then tells which tenancies are defined; undefined and power-gated vats
are skipped (R212). The result lists vat, plane and whether it passed. -/
def State.runPass (s : State) (whole : Bool) (plan : List (Nat × Bool)) : State × List (Nat × Bool × Bool) :=
  let one := fun (map : Nat → Nat) (r : State × List (Nat × Bool × Bool)) (x : Nat × Bool) =>
    let q := r.1.passVat map x.1 x.2
    (q.1, r.2 ++ [(x.1, x.2, q.2)])
  let r := (plan.filter fun x => x.1 == 0).foldl (one s.vatOfSector) (s, [])
  let map := if whole then mapByte r.1.liveFrame else s.vatOfSector
  (plan.filter fun x => x.1 != 0 && (!whole || (definedBy map x.1 && !s.bit (VAT.VAT_STAT.GATED x.1)))).foldl (one map) r

/-- R210: a tenancy has failed from both planes, or is not loaded (R221): vat reset, FAILED, clock gates closed. -/
def State.failVat (s : State) (v : Nat) : State :=
  let s := s.closeWindow v
  let s := (s.wrb (VAT.VAT_STAT.IN_RESET v) true).wrb (VAT.VAT_STAT.CLAMPED v) true
  let s := (s.wrb (VAT.VAT_STAT.FAILED v) true).wrb (VAT.VAT_STAT.SWAPPING v) false
  let s := (s.wrb (VAT.VAT_STAT.INIT_PEND v) false).setExpiring v none
  s.closeGates (s.sectorsOf v)

/-- R96, R141, R187, R246, R267: after a vat's load: memories cleared, configurations read, its init ordered. The clock gates of
its sectors have opened before (SECTOR_GATE_OPEN), at the latest now. -/
def State.afterLoad (s : State) (v : Nat) : State :=
  let s := s.clearVatMems v
  let s := (s.sectorsOf v).foldl State.readConfig s
  let s := (s.wrb (VAT.VAT_STAT.FAILED v) false).openGates (s.sectorsOf v)
  let s : State := { s with cfg := { s.cfg with clearing := s.cfg.clearing.filter (· != v) } }
  s.wantInit v

/-- R208, R228: ACT_DONE with the plane, its version and the clamp time. -/
def State.actDone (s : State) (v : Nat) : State :=
  let r := s.role v
  s.raiseVat v EV.actDone v [v, r.cur.toNat, (r.ver r.cur).toNat, (s.reg (VAT.CLAMP_SEC_LO.SEC v).off).toNat,
    (s.reg (VAT.CLAMP_SEC_HI.SEC v).off).toNat, (s.reg (VAT.CLAMP_NS.NS v).off).toNat]

/-- R208, R210, R217: the role of a vat whose load passed from a plane. -/
def State.roleAfter (s : State) (op : LoadOp) (v : Nat) (p : Bool) : State :=
  let r := s.role v
  let retried := op.second.contains v || (op.rep && (v == 0 || op.failed.any fun x => x.1 == v))
  let named := op.vats.contains v
  if op.keep.contains v && !op.second.contains v then s
  else if retried then
    let s := (s.setRole v { r with cur := p, unconf := false }).closeWindow v
    if v = 0 then { s with cfg := { s.cfg with actSet := [], mapChg := false } } else s
  else if op.code = OP.activate ∧ named then
    let s := (s.setRole v { r with cur := p, unconf := true }).openWindow v (((op.wins.find? fun x => x.1 == v).map (·.2)).getD 0)
    if v = 0 then { s with cfg := { s.cfg with actSet := op.vats, mapChg := op.mapChg } } else s
  else if (op.code = OP.rollback ∧ named) ∨ (op.code = 0 ∧ p ≠ r.cur) then
    let s := s.setRole v { r with cur := p, unconf := false }
    if v = 0 then { s with cfg := { s.cfg with actSet := [], mapChg := false } } else s
  else s

/-- R208: the counter of a completed operation. An operation of several tenancies without vat 0 is a swap of each, and counts
once for each (notes/assumptions/82.md). -/
def State.countOp (s : State) (code : Nat) : State :=
  if code = OP.activate then s.bump CFG.ACT_CNT else if code = OP.rollback then s.bump CFG.RB_CNT else s

/-- R29, R246, R251, R254, R256, R579: a whole-device load ends with the shell passed: map, registers, clocks, roles, failures,
inits in ascending vat order, CFG_ERR_N; the mode becomes RUN (or what R27 gives), and Churn starts a pass. -/
def State.finishWhole (s : State) (op : LoadOp) (passed : List (Nat × Bool)) : State :=
  let map := mapByte s.liveFrame
  let s := ((s.applyMap map).applyRecord).applyClocks
  let s := passed.foldl (fun (s : State) x => s.roleAfter op x.1 x.2) s
  let s := ((List.range 16).filter fun v => passed.any fun x => x.1 == v).foldl State.afterLoad s
  let lost := (vatsOf map).filter fun v => !(passed.any fun x => x.1 == v) && !s.bit (VAT.VAT_STAT.GATED v)
  let s := lost.foldl (fun (s : State) v =>
    let s := s.failVat v
    if op.dead.contains v then s.raiseVat v EV.vatLoadFail v [v] else s) s
  let off := (List.range 224).filter fun sec => map sec == 0xFF
  let s := s.closeGates off
  let done := op.vats.filter fun v => passed.any fun x => x.1 == v
  let s := if op.code = 0 ∨ done = [] then s else (done.foldl State.actDone s).countOp op.code
  let s := (s.setLoad 0 none)
  let left := tfilter (fun v p => p != some (s.role v).cur) s.cfg.expiring
  let s : State := { s with cfg := { s.cfg with expiring := left } }
  let s := s.setErrN false
  let boot := s.img.bootAct
  let s : State := { s with img := { s.img with bootAct := [] } }
  let s := boot.foldl State.confirmVat s
  ((s.enterMode s.runMode).showSwaps).churnStart

/-- R210: the end of a pass of a whole-device load. -/
def State.wholePass (s : State) (op : LoadOp) : State :=
  let r := s.runPass true op.plan
  let s := r.1
  let ok := (r.2.filter fun x => x.2.2).map fun x => (x.1, x.2.1)
  let bad := (r.2.filter fun x => !x.2.2).map fun x => (x.1, x.2.1)
  let failed := op.failed ++ bad
  let otherGood := fun (x : Nat × Bool) => (s.role x.1).valid (!x.2) && !failed.contains (x.1, !x.2)
  match bad.find? fun x => x.1 == 0 with
  | some sh =>
    if !otherGood sh then ({ s with img := { s.img with bootAct := [] } } : State).enterFallback
    else
      let diff := mapsDiffer (s.planeMap false) (s.planeMap true)
      let plane := fun (v : Nat) (p : Bool) =>
        if diff && op.vats.contains v && op.code != 0 then (s.role v).cur
        else if ok.contains (v, p) then p
        else if bad.contains (v, p) then !p
        else if op.code = 0 then p else (s.role v).cur
      let plan := (op.plan.filter fun x => x.1 != 0).map fun x => (x.1, plane x.1 x.2)
      let keep := if diff && op.code != 0 then op.vats.filter (· != 0) else []
      s.setLoad 0 (some { op with plan := (0, !sh.2) :: plan, failed := failed, rep := true, keep := keep })
  | none =>
    let passed := op.passed ++ ok
    let retry := bad.filter otherGood
    let dead := op.dead ++ (bad.filter fun x => !otherGood x).map (·.1)
    let op := { op with passed := passed, failed := failed, dead := dead }
    if retry = [] then s.finishWhole op passed
    else s.setLoad 0 (some { op with plan := retry.map fun x => (x.1, !x.2), second := op.second ++ retry.map (·.1) })

/-- R210: the end of a pass of the load of one vat. Powering a gated vat loads its current plane only, since R275 leaves the
roles as they are; where that fails the vat has failed (notes/assumptions/82.md). -/
def State.vatPass (s : State) (op : LoadOp) (v : Nat) : State :=
  let r := s.runPass false op.plan
  let s := r.1
  let p := ((op.plan.head?).map (·.2)).getD false
  let finish := fun (s : State) => (((s.setLoad v none).wrb (VAT.VAT_STAT.SWAPPING v) false).wrb (VAT.VAT_STAT.GATED v) false).showSwaps
  if r.2.all fun x => x.2.2 then
    if op.back then finish (s.afterLoad v)
    else
      let s := (s.roleAfter op v p).afterLoad v
      finish (if op.code = 3 then s else (s.actDone v).countOp op.code)
  else
    let cur := (s.role v).cur
    if op.back ∨ op.code = 3 ∨ (s.role v).valid cur = false then
      finish ((s.failVat v).raiseVat v EV.vatLoadFail v [v])
    else s.setLoad v (some { op with plan := [(v, cur)], back := true })

/-- LOAD_COMPLETE (R208, R210): a pass of the load of a vat (0: whole-device) ends. `ups`: plane cells that have changed
state (plane B, linear frame number, bits). -/
def execLoadComplete (v : Fin 16) (ups : List (Bool × Fin 262144 × List (Fin 2072))) (s : State) :
    Host.Outcome State Fault Refusal :=
  match tget s.cfg.loads v.val none with
  | none => .next s
  | some op =>
    let s := ups.foldl (fun (s : State) (x : Bool × Fin 262144 × List (Fin 2072)) =>
      s.setPlane x.1 x.2.1.val (flipBits (s.planeFrame x.1 x.2.1.val) x.2.2)) s
    .next (if v.val = 0 then s.wholePass op else s.vatPass op v.val).capResume

/-! Power-up. -/

/-- R217, R221: the plane a vat loads from at power-up; none: it is not loaded. -/
def State.powerPlane (s : State) (v : Nat) : Option Bool :=
  let r := s.role v
  let back := r.unconf || ((s.role 0).unconf && s.cfg.actSet.contains v)
  if !back then some r.cur else if r.valid (!r.cur) then some (!r.cur) else none

/-- R217, R245: the shell has a valid plane for the power-up load. -/
def State.shellLoadable (s : State) : Bool := match s.powerPlane 0 with
  | some p => (s.role 0).valid p
  | none => false

/-- R217, R221: the power-up load; UNCONF_RESET for each vat taken back, CONFIRM_EXPIRED with NO_PREV for each that cannot be. -/
def State.powerUpLoad (s : State) : State :=
  let plan := (List.range 16).filterMap fun v => (s.powerPlane v).map fun p => (v, p)
  let back := plan.filter fun x => x.2 != (s.role x.1).cur
  let stuck := (List.range 16).filter fun v => (s.powerPlane v).isNone
  let s := stuck.foldl (fun (s : State) v => s.raiseVat v EV.confirmExpired v [v, 1]) s
  let s := back.foldl (fun (s : State) x => s.raiseVat x.1 EV.unconfReset x.1 [x.1]) s
  s.beginWhole { code := 0, vats := [], plan := plan } none

/-! Commits. -/

/-- R208, R582: the frames of a commit's vats, by the map the commit concerns. -/
def State.commitMap (s : State) (vats : List Nat) : Nat → Nat :=
  if vats.contains 0 then s.planeMap (!(s.role 0).cur) else s.vatOfSector

/-- R213: a load holds a port through which the read-back of a commit reads. -/
def State.commitBusy (s : State) (vats : List Nat) : Bool :=
  let map := s.commitMap vats
  [0, 1, 2, 3].any fun q => s.portHeld q &&
    (vats.contains 0 || (List.range 224).any fun sec => sectorQuad sec == q && vats.contains (map sec))

/-- R208, R582: the read-back of the standby planes of a commit, in ascending linear frame number (notes/assumptions/82.md):
the frame that stops it, which the check cannot correct, and how many frames before it needed correction. Frames that hold
only zeros always pass. -/
def State.readBack (s : State) (vats : List Nat) : Option Nat × Nat :=
  let map := s.commitMap vats
  let one := fun (p : Bool) (r : List Nat × List Nat) (x : Nat × Frame) => match frameVatBy map x.1 with
    | some v =>
      if vats.contains v && (s.role v).cur != p then match chkFrame x.2 with
        | .clean => r
        | .fixed _ _ _ => (r.1, r.2 ++ [x.1])
        | .bad => (r.1 ++ [x.1], r.2)
      else r
    | none => r
  let r := s.cfg.planeB.foldl (one true) (s.cfg.planeA.foldl (one false) ([], []))
  (r.1.min?, match r.1.min? with
    | some n => (r.2.filter fun k => decide (k < n)).length
    | none => r.2.length)

/-- R253: COMMIT_DONE to the owners of a commit's vats, with VER. -/
def State.commitDone (s : State) (vats : List Nat) (tag : Nat) : State :=
  s.raiseAt (vats.map s.ownerOf) EV.commitDone 0xFF 0 [tag]

/-- R208, R582: the read-back of the commit that names a vat ends. `ups`: plane cells that have changed state; `img`: it is
the commit of an image, which ends with the image (R238 step 6). -/
def State.commitCloseEnd (s : State) (v : Nat) (img : Bool) (ups : List (Bool × Fin 262144 × List (Fin 2072))) : State :=
  match s.cfg.commits.find? fun c => c.vats.contains v && c.closing.isSome with
  | none => s
  | some c =>
    let s := ups.foldl (fun (s : State) (x : Bool × Fin 262144 × List (Fin 2072)) =>
      s.setPlane x.1 x.2.1.val (flipBits (s.planeFrame x.1 x.2.1.val) x.2.2)) s
    let r := s.readBack c.vats
    let s := if r.2 = 0 then s else s.bump CFG.PCORR_CNT r.2
    match r.1 with
    | some n =>
      let cs := s.cfg.commits.map fun d => if d.vats = c.vats then { d with closing := none } else d
      let s : State := { s with cfg := { s.cfg with commits := cs } }
      ((s.bump CFG.PUNC_CNT).wrb CFG.OP_STAT.CLOSE_FAIL true).wr CFG.CLOSE_N.N n
    | none =>
      let tag := c.closing.getD 0
      let s := c.vats.foldl (fun (s : State) v =>
        let r := s.role v
        s.setRole v ((r.setValid (!r.cur) true).setVer (!r.cur) tag)) s
      let s : State := { s with cfg := { s.cfg with commits := s.cfg.commits.filter fun d => d.vats != c.vats } }
      if img then s else s.commitDone c.vats tag.toNat

/-! Confirm windows and expiry. -/

/-- R221: a tenancy with no plane to go back to: vat reset, clamp, FAILED, CONFIRM_EXPIRED with NO_PREV. -/
def State.noPrev (s : State) (v : Nat) : State :=
  let s := if s.bit (VAT.VAT_STAT.IN_RESET v) then s else s.assertReset v false
  (s.failVat v).raiseVat v EV.confirmExpired v [v, 1]

/-- CONFIRM_WINDOW_EXPIRY (R219, R221): WIN_LEFT reaches 0. -/
def execConfirmWindowExpiry (v : Fin 16) (s : State) : Host.Outcome State Fault Refusal :=
  let v := v.val
  if !s.windowOpen v then .next s
  else
    let s := s.closeWindow v
    if v ≠ 0 then
      if !s.otherValid v then .next (s.noPrev v)
      else .next ((s.setExpiring v (some (!(s.role v).cur))).raiseVat v EV.confirmExpired v [v, 0])
    else if !s.otherValid 0 then .next ((s.raiseVat 0 EV.confirmExpired 0 [0, 1]).enterFallback)
    else
      let s := s.raiseVat 0 EV.confirmExpired 0 [0, 0]
      let others := s.cfg.actSet.filter (· != 0)
      let s := (others.filter fun w => !s.otherValid w).foldl State.noPrev s
      .next ((0 :: others.filter s.otherValid).foldl (fun (s : State) w => (s.closeWindow w).setExpiring w (some (!(s.role w).cur))) s)

/-- EXPIRY_ROLLBACK_START (R219, R221): Rennet issues the rollback, unless a load has to end first. -/
def execExpiryRollbackStart (v : Fin 16) (s : State) : Host.Outcome State Fault Refusal :=
  let v := v.val
  match tget s.cfg.expiring v none with
  | none => .next s
  | some p =>
    if s.mode = M.load ∨ s.bit PWR.MODE_STAT.LOAD_PEND then .next s
    else if (s.role v).cur = p then .next (s.setExpiring v none)
    else if v ≠ 0 then
      if (s.role 0).unconf && s.cfg.mapChg then .next s
      else if !s.otherValid v then .next ((s.setExpiring v none).noPrev v)
      else .next ((s.modFail v 5 0).launchOp { code := OP.rollback, vats := [v], wins := [], expiry := true }).1
    else if !s.otherValid 0 then .next (s.raiseVat 0 EV.confirmExpired 0 [0, 1]).enterFallback
    else
      let vats := (List.range 16).filter fun w => (tget s.cfg.expiring w none).isSome && s.otherValid w
      let s := vats.foldl (fun (s : State) w => s.modFail w 5 0) s
      .next (s.launchOp { code := OP.rollback, vats := vats, wins := [], expiry := true }).1

/-! Armed and deferred activations. -/

/-- R228: ACT_LATE to the owners of the vats of an armed activation. -/
def State.actLate (s : State) (vats : List Nat) (k : Nat) (args : List Nat) : State :=
  s.raiseAt (vats.map s.ownerOf) EV.actLate k k args

/-- R223: LATE of a slot. -/
def State.setLate (s : State) (vats : List Nat) (k d : Nat) : State :=
  let s := s.wr (CFG.LATE.DELAY_NS k) (min d 0x7FFFFFFF)
  if 1000 < d then (s.wrb (CFG.LATE.VALID k) true).actLate vats k [k, 0, min d 0x7FFFFFFF] else s

/-- ARM_COMPARE_FIRE (R222, R223): the base is at or above the instant of an armed slot: the slot disarms, the checks are
made again, and the activation is on its way, deferred, or reported late. Its confirm window has the length WIN holds now
(notes/assumptions/82.md). -/
def execArmCompareFire (k : Fin 16) (s : State) : Host.Outcome State Fault Refusal :=
  let k := k.val
  if !s.bit (CFG.ARM_CTL.ARMED k) || !s.armLate k then .next s
  else
    let vats := if k = 0 then maskVats (s.rd (CFG.ARM_CTL.VATS 0)) else [k]
    let s := (s.wrb (CFG.ARM_CTL.ARMED k) false).wr (CFG.ARM_CTL.VATS k) 0
    match s.opRefusal OP.activate vats (some k) true with
    | some (c, _) => .next ((s.opStat c k).actLate vats k [k, c, 0])
    | none =>
      let o : PendOp := { code := OP.activate, vats := vats, wins := vats.map (fun v => (v, s.rd (CFG.WIN.MS v))), slot := some k }
      if s.opWaits o then .next (s.launchOp o).1
      else .next { s with cfg := { s.cfg with fired := s.cfg.fired ++ [o] } }

/-- ACTIVATION_ASSERTION (R30, R223, R276): the first epoch boundary after the compare signal; `d`: nanoseconds from the compare
instant. A swap, a module load or a test that began meanwhile still makes it wait. -/
def execActivationAssertion (k : Fin 16) (d : Nat) (s : State) : Host.Outcome State Fault Refusal :=
  match s.cfg.fired.find? fun o => o.slot == some k.val with
  | none => .next s
  | some o =>
    let s : State := { s with cfg := { s.cfg with fired := s.cfg.fired.filter fun x => x.slot != some k.val } }
    if s.opWaits o then .next (s.launchOp o).1 else .next ((s.startOp o).setLate o.vats k.val d)

/-- DEFERRED_WHOLE_DEVICE_START (R30, R223): the last swap or module load has ended. -/
def execDeferredWholeDeviceStart (d : Nat) (s : State) : Host.Outcome State Fault Refusal :=
  match s.cfg.deferred with
  | none => .next s
  | some o =>
    if s.swapsRun then .next s
    else
      let s : State := { s with cfg := { s.cfg with deferred := none } }
      let s := s.startOp o
      .next (match o.slot with | some k => s.setLate o.vats k d | none => s)

/-- DEFERRED_SWAP_START (R31, R223): the test that held the vat has ended. -/
def execDeferredSwapStart (v : Fin 16) (d : Nat) (s : State) : Host.Outcome State Fault Refusal :=
  match s.cfg.swapDef.find? fun o => o.vats == [v.val] with
  | none => .next s
  | some o =>
    if s.underTest v.val || !s.running || s.bit PWR.MODE_STAT.LOAD_PEND then .next s
    else
      let s : State := { s with cfg := { s.cfg with swapDef := s.cfg.swapDef.eraseP fun x => x.vats == [v.val] } }
      let s := s.startOp o
      .next (match o.slot with | some k => s.setLate o.vats k d | none => s)

/-! Single-frame access. -/

/-- R227: the copy a TARGET names for a frame: 0 live, 1 plane A, 2 plane B. -/
def State.fwCopy (s : State) (t n : Nat) : Option Nat :=
  if t < 3 then some t
  else match s.frameVat n with
    | none => none
    | some v => some (if ((s.role v).cur != (t == 3)) then 2 else 1)

/-- R227: a write of a frame's copy is accepted: the standby plane of a vat under an open commit, the current plane under a
plane repair (PERR is set) or a CAPTURE that waits for its port, or the live latches of a module region under load. -/
def State.fwMay (s : State) (copy n : Nat) : Bool :=
  let cur := fun (v : Nat) => (s.role v).cur == (copy == 2)
  if copy = 0 then s.cfg.mods.any fun m => m.phase == 2 && frameIn m.rect n
  else (s.cfg.commits.any fun c => match frameVatBy (s.commitMap c.vats) n with
    | some v => c.vats.contains v && !cur v
    | none => false) || match s.frameVat n with
      | some v => cur v && (tget s.cfg.perr n 0 == copy || s.cfg.captures.contains (v, n))
      | none => false

/-- CFG.FW_CTL (R227): GO starts an access; it is ignored while one runs. -/
def State.fwWrite (s : State) (w : Word) : State :=
  let s := s.setReg CFG.FW_CTL.TARGET.off (wset (w &&& 0x72#32) 31 28 (wget (s.reg CFG.FW_CTL.TARGET.off) 31 28))
  if w.getLsbD 0 && s.cfg.fwGo.isNone then
    ({ s with cfg := { s.cfg with fwGo := some (w.getLsbD 1, wget w 6 4, s.reg CFG.FW_FAR.FAR.off) } } : State).wrb CFG.FW_CTL.BUSY true
  else s

/-- FW_DATA0 to FW_DATA64 as a frame, and a frame into them. -/
def State.fwFrame (s : State) : Frame := frameOfWords ((List.range 65).map fun k => s.reg (0x100200 + 4 * k))
def State.fwShow (s : State) (f : Frame) : State :=
  (List.range 65).foldl (fun (s : State) k => s.setReg (0x100200 + 4 * k) (frameWord f k)) s

/-- R71, R227: a single-frame read of a copy: corrected where the check can, but for the live latches of a dynamic frame, which
show their contents. -/
def State.fwRead (s : State) (copy n : Nat) : State × Nat :=
  let f := if copy = 0 then s.liveFrame n else s.planeFrame (copy == 2) n
  let isCur := match s.frameVat n with
    | some v => copy != 0 && (s.role v).cur == (copy == 2)
    | none => false
  if copy = 0 ∧ s.frameDyn n then (s.fwShow f, 0)
  else match chkFrame f with
  | .clean => (s.fwShow f, 0)
  | .fixed _ _ g =>
    let s := if copy = 0 then s else s.bump CFG.PCORR_CNT
    ((if isCur then s.setPerr n copy else s).fwShow g, 0)
  | .bad => ((if copy = 0 then s else s.bump CFG.PUNC_CNT).fwShow f, 1)

/-- FRAME_ACCESS_DONE (R213, R227): the access ends; it waits while a load holds the port. `bits`: cells of the copy accessed
that have changed state; `bad`: the read-back of a plane write fails. -/
def execFrameAccessDone (bits : List (Fin 2072)) (bad : Bool) (s₀ : State) : Host.Outcome State Fault Refusal :=
  match s₀.cfg.fwGo with
  | none => .next s₀
  | some (read, t, far) =>
    let s := ({ s₀ with cfg := { s₀.cfg with fwGo := none } } : State).wrb CFG.FW_CTL.BUSY false
    let fin := fun (r : State × Nat) => Host.Outcome.next (r.1.wr CFG.FW_CTL.RESULT r.2)
    if 5 ≤ t then fin (s, 5)
    else match farDecode far with
      | none => fin (s, 3)
      | some n => if s.frameBusy n then .next s₀ else match s.fwCopy t n with
        | none => fin (s, 2)
        | some copy =>
          let f := flipBits (if copy = 0 then s.liveFrame n else s.planeFrame (copy == 2) n) bits
          let s := if copy = 0 then s.disturb n f else s.setPlane (copy == 2) n f
          if read then fin (s.fwRead copy n)
          else if !s.fwMay copy n then fin (s, 2)
          else if syndrome s.fwFrame ≠ 0 then fin (s, 1)
          else if copy = 0 then fin ((s.loadLive n s.fwFrame).setUnrest n false, 0)
          else if bad then fin (s.freePlane (copy == 2) n, 4)
          else fin ((s.setPlane (copy == 2) n s.fwFrame).setPerr n 0, 0)

/-- PLANE_REPAIR (R211, R213): Rennet rewrites a plane frame whose PERR is set with the corrected content, once no load holds the
port. `fails`: verifies that fail; after three it leaves the frame, whose cells then hold an unspecified value. A copy that
the check cannot correct is left as it is, PERR with it (notes/assumptions/82.md). -/
def execPlaneRepair (n : Fin 262144) (fails : Fin 4) (s : State) : Host.Outcome State Fault Refusal :=
  let k := tget s.cfg.perr n.val 0
  if k = 0 ∨ s.frameBusy n.val then .next s
  else
    let p := k == 2
    match chkFrame (s.planeFrame p n.val), s.frameVat n.val with
    | .bad, _ => .next s
    | .clean, _ => .next (s.setPerr n.val 0)
    | .fixed _ _ f, v =>
      if fails.val < 3 then .next ((s.setPlane p n.val f).setPerr n.val 0)
      else
        let s := s.freePlane p n.val
        match v with
        | none => .next s
        | some v =>
          let r := s.role v
          let s := if r.cur = p then s else s.setRole v (r.setValid p false)
          .next (s.raiseVat v EV.planeRepairFail n.val [v, n.val, k])

end Sys2Proof.Machine
end

