-- ==== Sys2Proof/Machine/Churn.lean ====
section
/-! DEFINITION. Churn (R282 to R293): scrubbing of the live latches. -/

namespace Sys2Proof.Machine

/-- R283: the linear frame number at a position of a quadrant's pass. -/
def scrubFrame (q p : Nat) : Nat := 65536 * q + if p < 1024 then 64512 + p else p - 1024

/-- R283: the next position of a quadrant; 65,536 once it has finished the pass. -/
def State.churnPos (s : State) (q : Nat) : Nat := tget s.churn.pos q 0
def State.setChurnPos (s : State) (q p : Nat) : State := { s with churn := { s.churn with pos := tput s.churn.pos q p 0 } }
def State.scrubJob (s : State) (q : Nat) : Option ScrubJob := tget s.churn.job q none
def State.setScrubJob (s : State) (q : Nat) (j : Option ScrubJob) : State :=
  { s with churn := { s.churn with job := tput s.churn.job q j none } }

/-- CHURN.POS01 and POS23 as they read. -/
def State.churnPosWord (s : State) (i : Nat) : Word :=
  BitVec.ofNat 32 (s.churnPos (2 * i) % 65536 + s.churnPos (2 * i + 1) % 65536 * 65536)

/-- CHURN.STAT as it reads. -/
def State.churnStat (s : State) : Word :=
  wset (wset (s.reg CHURN.STAT.ACTIVE.off) 30 30 (!s.cfg.loads.isEmpty).toNat) 28 28 (!s.cfg.unrest.isEmpty).toNat

/-- R289, R292: an error found: LAST, counters and event. -/
def State.churnReport (s : State) (n kind first : Nat) : State :=
  let v := (s.frameVat n).getD 0
  let s := ((s.wr CHURN.LAST.KIND kind).wr CHURN.LAST.N n).wr CHURN.LAST_BIT.BIT first
  if kind ≤ 2 then
    let s := (s.bump (if kind = 1 then CHURN.CORR1_CNT else CHURN.CORR2_CNT)).bump (CHURN.CORR_CNTv v)
    if s.bit CHURN.CTL.REPORT_CORR then s.raiseVat v EV.churnCorrected n [n, kind, first] else s
  else if kind ≤ 4 then
    ((s.bump CHURN.RESTORE_CNT).bump (CHURN.RESTORE_CNTv v)).raiseVat v EV.churnRestored n [n, kind]
  else
    let s := ((s.setUnrest n true).bump CHURN.UNREST_CNT).bump (CHURN.UNREST_CNTv v)
    s.raiseVat v ⟨EV.churnUnrestorable.code, if v = 0 then 0 else EV.churnUnrestorable.sev⟩ n [n, kind]

/-- R288: the frame is skipped. -/
def State.scrubSkips (s : State) (n : Nat) : Bool := !s.frameDef n || s.frameHeld n || s.frameDyn n || s.frameUnrest n

/-- R291: a repair of the frame is dropped: the frame is held, or no longer defined. -/
def State.scrubDrops (s : State) (n : Nat) : Bool := !s.frameDef n || s.frameHeld n

/-- CHURN_PASS_START (R285): a pass starts in all four quadrants. -/
def execChurnPassStart (s : State) : Host.Outcome State Fault Refusal :=
  if s.churn.active then .next s else .next s.churnStart

/-- SCRUB_READ (R288, R289): the frame at a quadrant's next position is skipped, or read and checked. `bits`: bits of its
live latches that upsets have flipped. -/
def execScrubRead (q : Fin 4) (bits : List (Fin 2072)) (s : State) : Host.Outcome State Fault Refusal :=
  let p := s.churnPos q.val
  if !s.churn.active || !s.running || s.portHeld q.val || (s.scrubJob q.val).isSome || decide (65536 ≤ p) then .next s
  else
    let n := scrubFrame q.val p
    let s := s.setChurnPos q.val (p + 1)
    if s.scrubSkips n then .next (s.bump CHURN.SKIP_CNT)
    else
      let s := s.disturb n (flipBits (s.liveFrame n) bits)
      match chkFrame (s.liveFrame n) with
      | .clean => .next s
      | .fixed k i f => .next (s.setScrubJob q.val (some ⟨n, k, i, some f, false⟩))
      | .bad =>
        if s.frameVol n then .next (s.churnReport n 5 0)
        else .next (s.setScrubJob q.val (some ⟨n, 3, 0, none, false⟩))

/-- R289: a live write, retried once; `fails` of its checks fail, and `left` are the bits the second one left wrong. -/
def State.scrubWrite (s : State) (j : ScrubJob) (f : Frame) (fails : Nat) (left : List (Fin 2072)) : State :=
  if fails < 2 then (s.disturb j.n f).churnReport j.n j.kind j.first
  else (s.disturb j.n (flipBits f left)).churnReport j.n 7 0

/-- CORRECTION_WRITE (R289, R291): the corrected frame goes to the live latches; dropped if the frame is held. -/
def execCorrectionWrite (q : Fin 4) (fails : Fin 3) (left : List (Fin 2072)) (s : State) : Host.Outcome State Fault Refusal :=
  match s.scrubJob q.val with
  | some ⟨n, k, i, some f, pr⟩ =>
    if 3 ≤ k ∨ s.portHeld q.val then .next s
    else
      let s := s.setScrubJob q.val none
      if s.scrubDrops n then .next s else .next (s.scrubWrite ⟨n, k, i, some f, pr⟩ f fails.val left)
  | _ => .next s

/-- RESTORE_PLANE_READ (R289, R290): the current-plane copy of the frame is read. `bits`: plane cells that have changed. -/
def execRestorePlaneRead (q : Fin 4) (bits : List (Fin 2072)) (s : State) : Host.Outcome State Fault Refusal :=
  match s.scrubJob q.val with
  | some ⟨n, _, _, none, _⟩ =>
    if s.portHeld q.val then .next s
    else if s.scrubDrops n then .next (s.setScrubJob q.val none)
    else
      let s := s.setScrubJob q.val none
      let p := (s.role ((s.frameVat n).getD 0)).cur
      let s := s.setPlane p n (flipBits (s.planeFrame p n) bits)
      match chkFrame (s.planeFrame p n) with
      | .clean => .next (s.setScrubJob q.val (some ⟨n, 3, 0, some (s.planeFrame p n), true⟩))
      | .fixed _ _ f =>
        let s := (s.setPerr n (p.toNat + 1)).bump CFG.PCORR_CNT
        .next (s.setScrubJob q.val (some ⟨n, 4, 0, some f, true⟩))
      | .bad => .next (((s.setPerr n (p.toNat + 1)).bump CFG.PUNC_CNT).churnReport n 6 0)
  | _ => .next s

/-- RESTORATION_WRITE (R289): the plane copy goes to the live latches. -/
def execRestorationWrite (q : Fin 4) (fails : Fin 3) (left : List (Fin 2072)) (s : State) : Host.Outcome State Fault Refusal :=
  match s.scrubJob q.val with
  | some ⟨n, k, i, some f, pr⟩ =>
    if k < 3 ∨ s.portHeld q.val then .next s
    else
      let s := s.setScrubJob q.val none
      if s.scrubDrops n then .next s else .next (s.scrubWrite ⟨n, k, i, some f, pr⟩ f fails.val left)
  | _ => .next s

/-- CHURN_PASS_COMPLETE (R282): every quadrant has finished. -/
def execChurnPassComplete (s : State) : Host.Outcome State Fault Refusal :=
  if s.churn.active && (List.range 4).all fun q => s.churnPos q == 65536 && (s.scrubJob q).isNone then
    .next (s.churnStop.bump CHURN.PASS_CNT)
  else .next s

/-- CHURN_PASS_LATE (R286): once per pass, where a quadrant has not finished. -/
def execChurnPassLate (s : State) : Host.Outcome State Fault Refusal :=
  if s.churn.active && !s.churn.late && (List.range 4).any (fun q => s.churnPos q != 65536 || (s.scrubJob q).isSome) then
    let s : State := { s with churn := { s.churn with late := true } }
    .next (((s.wrb CHURN.STAT.LATE true).bump CHURN.LATE_CNT).raiseVat 0 EV.churnLate 0 [])
  else .next s

/-- CHURN.CTL (R291 to R293): EN from 1 to 0 abandons the pass and raises CHURN_DISABLED to the owner of every defined
vat; EN from 0 to 1 starts a pass at position 0. -/
def State.churnCtlWrite (s : State) (w : Word) : State :=
  let was := s.bit CHURN.CTL.EN
  let s := s.setReg CHURN.CTL.EN.off (w &&& 0x8D#32)
  if was && !w.getLsbD 0 then s.churnStop.raiseAt s.allOwners EV.churnDisabled 0xFF 0 []
  else if !was && w.getLsbD 0 then s.churnStart
  else s

end Sys2Proof.Machine
end

