-- ==== Sys2Proof/Machine/Crypto.lean ====
section
/-! DEFINITION. The cryptographic functions the spec names and leaves to their standards (PRESUMED, notes/assumptions/45.md):
SHA-256 and SHA-384 (FIPS 180-4), HMAC (FIPS 198-1), ECDSA over P-384 (FIPS 186-5) and ECDH over P-256 (SEC 1). -/

namespace Sys2Proof.Machine

/-- FIPS 180-4: the constants of SHA-256 (part 0). -/
def sha256K0 : List Nat := [
  0x428A2F98, 0x71374491, 0xB5C0FBCF, 0xE9B5DBA5, 0x3956C25B, 0x59F111F1,
  0x923F82A4, 0xAB1C5ED5, 0xD807AA98, 0x12835B01, 0x243185BE, 0x550C7DC3,
  0x72BE5D74, 0x80DEB1FE, 0x9BDC06A7, 0xC19BF174, 0xE49B69C1, 0xEFBE4786,
  0xFC19DC6, 0x240CA1CC, 0x2DE92C6F, 0x4A7484AA, 0x5CB0A9DC, 0x76F988DA,
  0x983E5152, 0xA831C66D, 0xB00327C8, 0xBF597FC7, 0xC6E00BF3, 0xD5A79147,
  0x6CA6351, 0x14292967]
/-- FIPS 180-4: the constants of SHA-256 (part 1). -/
def sha256K1 : List Nat := [
  0x27B70A85, 0x2E1B2138, 0x4D2C6DFC, 0x53380D13, 0x650A7354, 0x766A0ABB,
  0x81C2C92E, 0x92722C85, 0xA2BFE8A1, 0xA81A664B, 0xC24B8B70, 0xC76C51A3,
  0xD192E819, 0xD6990624, 0xF40E3585, 0x106AA070, 0x19A4C116, 0x1E376C08,
  0x2748774C, 0x34B0BCB5, 0x391C0CB3, 0x4ED8AA4A, 0x5B9CCA4F, 0x682E6FF3,
  0x748F82EE, 0x78A5636F, 0x84C87814, 0x8CC70208, 0x90BEFFFA, 0xA4506CEB,
  0xBEF9A3F7, 0xC67178F2]
/-- FIPS 180-4: the constants of SHA-256. -/
def sha256K : List Nat := sha256K0 ++ sha256K1
/-- FIPS 180-4: the constants of SHA-384 and SHA-512 (part 0). -/
def sha512K0 : List Nat := [
  0x428A2F98D728AE22, 0x7137449123EF65CD, 0xB5C0FBCFEC4D3B2F, 0xE9B5DBA58189DBBC, 0x3956C25BF348B538,
  0x59F111F1B605D019, 0x923F82A4AF194F9B, 0xAB1C5ED5DA6D8118, 0xD807AA98A3030242, 0x12835B0145706FBE,
  0x243185BE4EE4B28C, 0x550C7DC3D5FFB4E2, 0x72BE5D74F27B896F, 0x80DEB1FE3B1696B1, 0x9BDC06A725C71235,
  0xC19BF174CF692694, 0xE49B69C19EF14AD2, 0xEFBE4786384F25E3, 0xFC19DC68B8CD5B5, 0x240CA1CC77AC9C65]
/-- FIPS 180-4: the constants of SHA-384 and SHA-512 (part 1). -/
def sha512K1 : List Nat := [
  0x2DE92C6F592B0275, 0x4A7484AA6EA6E483, 0x5CB0A9DCBD41FBD4, 0x76F988DA831153B5, 0x983E5152EE66DFAB,
  0xA831C66D2DB43210, 0xB00327C898FB213F, 0xBF597FC7BEEF0EE4, 0xC6E00BF33DA88FC2, 0xD5A79147930AA725,
  0x6CA6351E003826F, 0x142929670A0E6E70, 0x27B70A8546D22FFC, 0x2E1B21385C26C926, 0x4D2C6DFC5AC42AED,
  0x53380D139D95B3DF, 0x650A73548BAF63DE, 0x766A0ABB3C77B2A8, 0x81C2C92E47EDAEE6, 0x92722C851482353B]
/-- FIPS 180-4: the constants of SHA-384 and SHA-512 (part 2). -/
def sha512K2 : List Nat := [
  0xA2BFE8A14CF10364, 0xA81A664BBC423001, 0xC24B8B70D0F89791, 0xC76C51A30654BE30, 0xD192E819D6EF5218,
  0xD69906245565A910, 0xF40E35855771202A, 0x106AA07032BBD1B8, 0x19A4C116B8D2D0C8, 0x1E376C085141AB53,
  0x2748774CDF8EEB99, 0x34B0BCB5E19B48A8, 0x391C0CB3C5C95A63, 0x4ED8AA4AE3418ACB, 0x5B9CCA4F7763E373,
  0x682E6FF3D6B2B8A3, 0x748F82EE5DEFB2FC, 0x78A5636F43172F60, 0x84C87814A1F0AB72, 0x8CC702081A6439EC]
/-- FIPS 180-4: the constants of SHA-384 and SHA-512 (part 3). -/
def sha512K3 : List Nat := [
  0x90BEFFFA23631E28, 0xA4506CEBDE82BDE9, 0xBEF9A3F7B2C67915, 0xC67178F2E372532B, 0xCA273ECEEA26619C,
  0xD186B8C721C0C207, 0xEADA7DD6CDE0EB1E, 0xF57D4F7FEE6ED178, 0x6F067AA72176FBA, 0xA637DC5A2C898A6,
  0x113F9804BEF90DAE, 0x1B710B35131C471B, 0x28DB77F523047D84, 0x32CAAB7B40C72493, 0x3C9EBE0A15C9BEBC,
  0x431D67C49C100D4C, 0x4CC5D4BECB3E42B6, 0x597F299CFC657E2A, 0x5FCB6FAB3AD6FAEC, 0x6C44198C4A475817]
/-- FIPS 180-4: the constants of SHA-384 and SHA-512. -/
def sha512K : List Nat := sha512K0 ++ sha512K1 ++ sha512K2 ++ sha512K3
/-- FIPS 180-4: the initial hash value of SHA-256. -/
def sha256H : List Nat := [
  0x6A09E667, 0xBB67AE85, 0x3C6EF372, 0xA54FF53A, 0x510E527F, 0x9B05688C, 0x1F83D9AB, 0x5BE0CD19]
/-- FIPS 180-4: the initial hash value of SHA-384. -/
def sha384H : List Nat := [
  0xCBBB9D5DC1059ED8, 0x629A292A367CD507, 0x9159015A3070DD17, 0x152FECD8F70E5939,
  0x67332667FFC00B31, 0x8EB44A8768581511, 0xDB0C2E0D64F98FA7, 0x47B5481DBEFA4FA4]

/-- Rotate right within a width. -/
def rotr (w x n : Nat) : Nat := x / 2 ^ n + x % 2 ^ n * 2 ^ (w - n)

/-- The rotations of a member of the family: word width, Σ0, Σ1, σ0, σ1. -/
structure ShaPar where
  w : Nat
  s0 : Nat × Nat × Nat
  s1 : Nat × Nat × Nat
  m0 : Nat × Nat × Nat
  m1 : Nat × Nat × Nat

def sha256P : ShaPar := ⟨32, (2, 13, 22), (6, 11, 25), (7, 18, 3), (17, 19, 10)⟩
def sha512P : ShaPar := ⟨64, (28, 34, 39), (14, 18, 41), (1, 8, 7), (19, 61, 6)⟩

def ShaPar.big (p : ShaPar) (r : Nat × Nat × Nat) (x : Nat) : Nat :=
  rotr p.w x r.1 ^^^ rotr p.w x r.2.1 ^^^ rotr p.w x r.2.2
def ShaPar.small (p : ShaPar) (r : Nat × Nat × Nat) (x : Nat) : Nat :=
  rotr p.w x r.1 ^^^ rotr p.w x r.2.1 ^^^ x / 2 ^ r.2.2

/-- One round over the working variables, with the message schedule as a window of its next sixteen words. -/
def ShaPar.round (p : ShaPar) (st : List Nat × List Nat) (k : Nat) : List Nat × List Nat :=
  match st.1 with
  | [a, b, c, d, e, f, g, h] =>
    let m := 2 ^ p.w
    let w := st.2
    let t1 := h + p.big p.s1 e + ((e &&& f) ^^^ ((m - 1 - e) &&& g)) + k + w.getD 0 0
    let t2 := p.big p.s0 a + ((a &&& b) ^^^ (a &&& c) ^^^ (b &&& c))
    let nw := (p.small p.m1 (w.getD 14 0) + w.getD 9 0 + p.small p.m0 (w.getD 1 0) + w.getD 0 0) % m
    ([(t1 + t2) % m, a, b, c, (d + t1) % m, e, f, g], w.drop 1 ++ [nw])
  | l => (l, st.2)

/-- The blocks of n bytes of a message. -/
def blocksOf (n : Nat) : Nat → List Byte → List (List Byte)
  | 0, _ => []
  | k + 1, bs => if bs.length < n then [] else bs.take n :: blocksOf n k (bs.drop n)

/-- The padded message: 0x80, zeros, the length in bits in an eighth of a block. -/
def shaPad (blk : Nat) (bs : List Byte) : List Byte :=
  bs ++ [0x80#8] ++ List.replicate ((2 * blk - (bs.length + 1 + blk / 8) % blk) % blk) 0#8 ++ numBe (blk / 8) (8 * bs.length)

/-- The hash value of a message in words. -/
def ShaPar.run (p : ShaPar) (ks h0 : List Nat) (bs : List Byte) : List Nat :=
  let n := p.w / 8
  let msg := shaPad (16 * n) bs
  (blocksOf (16 * n) msg.length msg).foldl (fun h b =>
    let w := (blocksOf n 16 b).map beNum
    (h.zip (ks.foldl p.round (h, w)).1).map fun x => (x.1 + x.2) % 2 ^ p.w) h0

/-- SHA-256. -/
def sha256 (bs : List Byte) : List Byte := (sha256P.run sha256K sha256H bs).flatMap (numBe 4)
/-- SHA-384. -/
def sha384 (bs : List Byte) : List Byte := ((sha512P.run sha512K sha384H bs).flatMap (numBe 8)).take 48

/-- HMAC-SHA-256. -/
def hmac (key msg : List Byte) : List Byte :=
  let k := if 64 < key.length then sha256 key else key
  let k := k ++ List.replicate (64 - k.length) 0#8
  sha256 (k.map (· ^^^ 0x5C#8) ++ sha256 (k.map (· ^^^ 0x36#8) ++ msg))

/-! Elliptic curves with a = -3; a point is none at infinity. -/

structure Curve where
  p : Nat
  n : Nat
  b : Nat
  g : Nat × Nat

/-- P-256. -/
def p256 : Curve := ⟨0xFFFFFFFF00000001000000000000000000000000FFFFFFFFFFFFFFFFFFFFFFFF,
  0xFFFFFFFF00000000FFFFFFFFFFFFFFFFBCE6FAADA7179E84F3B9CAC2FC632551,
  0x5AC635D8AA3A93E7B3EBBD55769886BC651D06B0CC53B0F63BCE3C3E27D2604B,
  (0x6B17D1F2E12C4247F8BCE6E563A440F277037D812DEB33A0F4A13945D898C296,
   0x4FE342E2FE1A7F9B8EE7EB4A7C0F9E162BCE33576B315ECECBB6406837BF51F5)⟩
/-- P-384. -/
def p384 : Curve := ⟨0xFFFFFFFFFFFFFFFFFFFFFFFFFFFFFFFFFFFFFFFFFFFFFFFFFFFFFFFFFFFFFFFEFFFFFFFF0000000000000000FFFFFFFF,
  0xFFFFFFFFFFFFFFFFFFFFFFFFFFFFFFFFFFFFFFFFFFFFFFFFC7634D81F4372DDF581A0DB248B0A77AECEC196ACCC52973,
  0xB3312FA7E23EE7E4988E056BE3F82D19181D9C6EFE8141120314088F5013875AC656398D8A2ED19D2A85C8EDD3EC2AEF,
  (0xAA87CA22BE8B05378EB1C71EF320AD746E1D3B628BA79B9859F741E082542A385502F25DBF55296C3A545E3872760AB7,
   0x3617DE4A96262C6F5D9E98BF9292DC29F8F41DBD289A147CE9DA3113B5F0B8C00A60B1CE1D7E819D7A431D7C90EA0E5F)⟩

/-- a ^ e modulo m, from the binary digits of e, most significant first. -/
def powMod (m a e : Nat) : Nat → Nat
  | 0 => 1 % m
  | k + 1 => let r := powMod m a (e / 2) k; if e % 2 = 1 then r * r % m * a % m else r * r % m

def invMod (m a : Nat) : Nat := powMod m (a % m) (m - 2) 384

/-- A point lies on the curve. -/
def Curve.on (c : Curve) (q : Nat × Nat) : Bool :=
  decide (q.1 < c.p ∧ q.2 < c.p) && q.2 * q.2 % c.p == (q.1 * q.1 * q.1 + (c.p - 3) * q.1 + c.b) % c.p

def Curve.add (c : Curve) : Option (Nat × Nat) → Option (Nat × Nat) → Option (Nat × Nat)
  | none, q => q
  | q, none => q
  | some (x1, y1), some (x2, y2) =>
    if x1 = x2 ∧ (y1 + y2) % c.p = 0 then none
    else
      let l := if x1 = x2 then (3 * x1 * x1 + c.p - 3) * invMod c.p (2 * y1) % c.p
        else (y2 + c.p - y1) * invMod c.p (x2 + c.p - x1) % c.p
      let x := (l * l + 2 * c.p - x1 - x2) % c.p
      some (x, (l * (x1 + c.p - x) + c.p - y1) % c.p)

/-- k times a point. -/
def Curve.mul (c : Curve) (q : Option (Nat × Nat)) (k : Nat) : Nat → Option (Nat × Nat)
  | 0 => none
  | n + 1 => let r := c.mul q (k / 2) n; let d := c.add r r; if k % 2 = 1 then c.add d q else d

/-- ECDSA: the signature (r, s) over a digest verifies under a public key. -/
def ecdsaP384 (key : List Byte) (digest sig : List Byte) : Bool :=
  let c := p384
  let q := (beNum (key.take 48), beNum ((key.drop 48).take 48))
  let r := beNum (sig.take 48)
  let s := beNum ((sig.drop 48).take 48)
  c.on q && decide (0 < r ∧ r < c.n ∧ 0 < s ∧ s < c.n) &&
    (let w := invMod c.n s
     match c.add (c.mul (some c.g) (beNum digest * w % c.n) 384) (c.mul (some q) (r * w % c.n) 384) with
     | none => false
     | some (x, _) => x % c.n == r)

/-- ECDH over P-256: the x-coordinate of the product of a private key and a public point; none where the point is none of
the curve's. -/
def ecdhP256 (priv : Nat) (pub : List Byte) : Option (List Byte) :=
  let q := (beNum ((pub.drop 1).take 32), beNum ((pub.drop 33).take 32))
  if pub.head? = some 4 ∧ p256.on q then (p256.mul (some q) priv 384).map fun x => numBe 32 x.1 else none

end Sys2Proof.Machine
end

