-- ==== Sys2Proof/Machine/Link.lean ====
section
/-! DEFINITION. The management link: sessions and their keys (R479 to R482), streams and acknowledgement (R483 to R485),
refusals (R490, R491), the sending of events (R492 to R497), and the end of a debug connection (R504). -/

namespace Sys2Proof.Machine

/-! The end of a debug connection. -/

/-- R503, R504: a halted processor resumes. -/
def State.resumeCore (s : State) (k : Nat) : State :=
  (({ s with dbg := { s.dbg with resume := tput s.dbg.resume k 0 0 } } : State).wrb (SVC.CORE_CTL.HALTED k) false).reoffer

/-- R504: the debug connection and any challenge of it end; halted processors resume and breakpoints clear. -/
def State.dbgEnd (s : State) : State := match s.dbg.conn with
  | none => s
  | some (h, _) =>
    let s := (List.range 5).foldl State.resumeCore s
    let s : State := { s with dbg := { s.dbg with conn := none, bkpts := [] } }
    s.raiseDev EV.dbgDisconnect h []

/-! Keys and messages. -/

/-- R480: the stream key of an epoch from that of epoch 0; d is 0x01 from the host, 0x02 from the device. -/
def epochKey (k0 : List Byte) (d : Nat) : Nat → List Byte
  | 0 => k0
  | e + 1 => hmac (epochKey k0 d e) (BitVec.ofNat 8 d :: numBe 4 (e + 1))

/-- R478: the 20 bytes of a header. -/
def immHeader (typ flags epoch seq ackno sid len code status rseq rsv : Nat) : List Byte :=
  [0x01#8, BitVec.ofNat 8 typ, BitVec.ofNat 8 flags, BitVec.ofNat 8 epoch] ++ numBe 2 seq ++ numBe 2 ackno ++ numBe 2 sid
    ++ numBe 2 len ++ numBe 2 code ++ numBe 2 status ++ numBe 2 rseq ++ numBe 2 rsv

/-- R478, R484: a message of the device as it goes out, from the device key of epoch 0: header, body, MAC, CRC-32C. -/
def DevMsg.bytes (m : DevMsg) (auth : Bool) (k0 : List Byte) : List Byte :=
  let hb := immHeader m.typ auth.toNat (m.epoch % 256) m.seq m.ackno m.sid m.body.length m.code m.status m.rseq 0 ++ m.body
  let b := hb ++ if auth then (hmac (epochKey k0 2 m.epoch) hb).take 16 else List.replicate 16 0
  b ++ numBe 4 (crc32c b).toNat

/-- R477, R478: the Ethernet frame that carries a message of the device from port h: its addresses, the EtherType, the message
padded to the Ethernet minimum, the FCS. -/
def DevMsg.frame (m : DevMsg) (h : Nat) (auth : Bool) (k0 : List Byte) : List Byte :=
  let b := numBe 6 m.dst ++ numBe 6 (Config.mpMac h).toNat ++ numBe 2 0x88B5 ++ m.bytes auth k0
  let b := b ++ List.replicate (60 - b.length) 0
  b ++ fcsOf b

/-- The received message's header and body. -/
def immText (e : ImmEnv) (code : Nat) (body : List Byte) : List Byte :=
  immHeader e.typ.toNat (2 * e.flagsRsv.toNat + e.auth.toNat) e.epoch.toNat e.seq.toNat e.ackno.toNat e.sid.toNat body.length
    code 0 0 e.rsv.toNat ++ body

/-- R478, R479: the CRC-32C of a received message. -/
def immCrcOk (e : ImmEnv) (code : Nat) (body : List Byte) : Bool :=
  crc32c (immText e code body ++ e.mac) == e.crc && e.mac.length == 16

/-- R480, R485: the MAC of a received message verifies under the host key of an epoch. -/
def immMacOk (e : ImmEnv) (code : Nat) (body k0 : List Byte) (epoch : Nat) : Bool :=
  epoch % 256 == e.epoch.toNat && (hmac (epochKey k0 1 epoch) (immText e code body)).take 16 == e.mac

/-- R485: the epochs whose keys the receiver keeps. -/
def epochsKept (e : Nat) : List Nat := if e = 0 then [0, 1] else [e - 1, e, e + 1]

/-! Sessions. -/

/-- R483: what is held as sent and unacknowledged. -/
def Session.events (x : Session) : Nat := (x.unacked.filter fun m => m.typ == 3).length

/-- R492, R496: entries and loss summaries sent and not acknowledged become unsent again. -/
def HostSt.unsend (x : HostSt) : HostSt :=
  let all := x.lossSent ++ x.loss.toList
  { x with
    queue := x.queue.map fun e => { e with sent := none }
    lossSent := []
    loss := match all with
      | [] => none
      | l :: ls => some { counts := ls.foldl (fun c y => List.zipWith (· + ·) c y.counts) l.counts, first := l.first } }

/-- R482, R504: the session of a host closes, and with it the debug connection it carries. -/
def State.closeSession (s : State) (h : Nat) (lost : Bool) : State :=
  let x := s.host h
  match x.sess with
  | none => s
  | some _ =>
    let s := s.setHost h { x.unsend with sess := none }
    let s := if (s.dbg.conn.map (·.1)) = some h then s.dbgEnd else s
    let s : State := if (s.dbg.chal.map (·.1)) = some h then { s with dbg := { s.dbg with chal := none } } else s
    if lost then s.raiseDev EV.mgtSessionLost h [] else s

/-- R482: every session and the debug connection end (a reset, or entry into KEEP or OFF). -/
def State.closeAll (s : State) : State := (List.range 4).foldl (fun s h => s.closeSession h true) s

/-- R477, R478, R483: a message of the device stream goes out: it takes the next SEQ and acknowledges what was accepted.
After SEQ 65,535 the epoch steps (R485). -/
def State.sendMsg (s : State) (h : Nat) (typ code status rseq : Nat) (body : List Byte) : State :=
  let x := s.host h
  match x.sess with
  | none => s
  | some y =>
    let m : DevMsg := ⟨y.nextSeq, y.devEpoch, typ, code, status, rseq, body, y.expSeq, y.sid, y.mac⟩
    let y := { y with
      unacked := y.unacked ++ [m], ackDue := false, nextSeq := (y.nextSeq + 1) % 65536
      devEpoch := if y.nextSeq = 65535 then y.devEpoch + 1 else y.devEpoch }
    (s.setHost h { x with sess := some y, lastTx := some m }).bump (MGT.TX_CNT h)

/-- R483: a standalone ACK. -/
def State.sendAck (s : State) (h : Nat) : State :=
  let x := s.host h
  match x.sess with
  | none => s
  | some y =>
    let m : DevMsg := ⟨0, y.devEpoch, 4, 0, 0, 0, [], y.expSeq, y.sid, y.mac⟩
    (s.setHost h { x with sess := some { y with ackDue := false }, lastTx := some m }).bump (MGT.TX_CNT h)

/-- R477, R490: a response outside a session, to the source address of its request: AUTH, SEQ and ACKNO are 0. -/
def State.sendBare (s : State) (h dst code status rseq : Nat) (body : List Byte) : State :=
  (s.setHost h { s.host h with lastTx := some ⟨0, 0, 2, code, status, rseq, body, 0, 0, dst⟩ }).bump (MGT.TX_CNT h)

/-- R483, R486: the response to a request: in the session where it came with AUTH, else bare. -/
def State.respondTo (s : State) (e : ImmEnv) (code status : Nat) (body : List Byte) : State :=
  let h := e.port.val
  let x := s.host h
  match e.auth, x.sess with
  | true, some y =>
    let slots := y.slots.map fun (t : ReqSlot) => if t.rseq = e.seq.toNat ∧ t.rsp.isNone then { t with rsp := some y.nextSeq } else t
    (s.setHost h { x with sess := some { y with slots := slots } }).sendMsg h 2 code status e.seq.toNat body
  | true, none => s
  | false, _ => s.sendBare h e.src.toNat code status e.seq.toNat body

/-- R490, R491: a request is refused: the response leaves about 1 ms after its arrival (REFUSAL_RESPONSE). -/
def State.refuse (s : State) (e : ImmEnv) (code reason arg vat : Nat) : State :=
  let x := s.host e.port
  s.setHost e.port { x with refusing := x.refusing ++ [⟨code, e.seq.toNat, e.sid.toNat, e.auth, reason, arg, vat, e.src.toNat⟩] }

/-- How a request ends: the answer's STATUS and body, a refusal (REASON, ARG, VAT of R491), or no answer yet. -/
inductive Reply where
  | ok (status : Nat) (body : List Byte)
  | no (reason arg vat : Nat)
  | silent

/-- Give a request its answer. -/
def State.finish (s : State) (e : ImmEnv) (code : Nat) : Reply → State
  | .ok st body => s.respondTo e code st body
  | .no reason arg vat => s.refuse e code reason arg vat
  | .silent => s

/-! Acknowledgement. -/

/-- R484, R492: ACKNO of a message passes what the device holds: messages, request slots, event entries, summaries. -/
def State.ackTo (s : State) (h ackno : Nat) : State :=
  let x := s.host h
  match x.sess with
  | none => s
  | some y =>
    let n := match y.unacked with
      | [] => 0
      | m :: _ => let d := (ackno + 65536 - m.seq) % 65536; if d ≤ y.unacked.length then d else 0
    if n = 0 then s
    else
      let gone := (y.unacked.take n).map (·.seq)
      let has := fun (o : Option Nat) => (o.map gone.contains).getD false
      s.setHost h { x with
        queue := x.queue.filter fun e => !has e.sent
        lossSent := x.lossSent.filter fun l => !has l.sent
        sess := some { y with unacked := y.unacked.drop n, slots := y.slots.filter fun t => !has t.rsp, expiries := 0 } }

/-! Reception. -/

/-- R477, R479: the frame is addressed to the port, its link is up. -/
def State.frameTaken (s : State) (e : ImmEnv) : Bool :=
  s.powered && s.bit (FEN.PORT_STAT.LINK (96 + e.port)) && !e.tagged && e.dst == Config.mpMac e.port && e.etype == 0x88B5#16

/-- R479: checks 2 of a message of a TYPE. -/
def immFormed (e : ImmEnv) (typ : Nat) (body : List Byte) : Bool :=
  e.ver == 1 && e.typ.toNat == typ && e.flagsRsv == 0 && e.rsv == 0 && decide (body.length ≤ 1460)

/-- R479: check 3: the session and the MAC; the epoch the message verifies under. -/
def State.macEpoch (s : State) (e : ImmEnv) (code : Nat) (body : List Byte) : Option Nat :=
  match (s.host e.port).sess with
  | none => none
  | some y => if y.sid = e.sid.toNat then (epochsKept y.hostEpoch).find? (immMacOk e code body y.kHD) else none

/-- R479, R483: what a request with AUTH = 1 in the open session meets: the state after reception, and whether it is
accepted. -/
def State.acceptReq (s : State) (e : ImmEnv) (code : Nat) (body : List Byte) : State × Bool :=
  let h := e.port.val
  if (s.macEpoch e code body).isNone then (s.bump (MGT.MAC_CNT h), false)
  else
    let s := s.ackTo h e.ackno.toNat
    let x := s.host h
    match x.sess with
    | none => (s, false)
    | some y =>
      let d := (e.seq.toNat + 65536 - y.expSeq) % 65536
      if d = 0 then
        if 256 ≤ y.slots.length then (s.bump (MGT.OOS_CNT h), false)
        else
          (s.setHost h { x with sess := some { y with
            expSeq := (y.expSeq + 1) % 65536, hostEpoch := if y.expSeq = 65535 then y.hostEpoch + 1 else y.hostEpoch
            slots := y.slots ++ [⟨e.seq.toNat, none⟩], ackDue := true } }, true)
      else if 65280 ≤ d then ((s.bump (MGT.DUP_CNT h)).sendAck h, false)
      else (s.bump (MGT.OOS_CNT h), false)

/-- R490: an unauthenticated request is answered only as one of the first 16 of the port in a second. -/
def State.acceptBare (s : State) (e : ImmEnv) : State × Bool :=
  let x := s.host e.port
  if x.unauth < 16 then (s.setHost e.port { x with unauth := x.unauth + 1 }, true)
  else (s.bump (MGT.UNAUTH_DROP e.port), false)

/-- R477 to R479, R483, R490: reception of a request. `bare`: the request may come with AUTH = 0. -/
def State.receive (s : State) (bare : Bool) (e : ImmEnv) (code : Nat) (body : List Byte) : State × Bool :=
  let h := e.port.val
  if !s.frameTaken e then (s, false)
  else
    let s := s.bump (MGT.RX_CNT h)
    if !immCrcOk e code body then (s.bump (MGT.CRC_CNT h), false)
    else if !immFormed e 1 body then (s, false)
    else if e.auth then s.acceptReq e code body
    else if bare && e.seq == 0 && e.ackno == 0 && e.sid == 0 && e.mac.all (· == 0) then s.acceptBare e
    else (s, false)

/-- The course of a request: reception, then what it does, then its answer. -/
def State.request (s : State) (bare : Bool) (e : ImmEnv) (code : Nat) (body : List Byte) (f : State → State × Reply) : State :=
  let r := s.receive bare e code body
  if r.2 then (let q := f r.1; q.1.finish e code q.2) else r.1

/-! Answers of the device. -/

/-- REFUSAL_RESPONSE (R490, R491): the oldest refusal of a host is answered and enters the audit log. -/
def execRefusalResponse (h : Fin 4) (s : State) : Host.Outcome State Fault Refusal :=
  let x := s.host h
  match x.refusing with
  | [] => .next s
  | r :: rs =>
    let s := (s.setHost h { x with refusing := rs }).bump (MGT.REFUSED_CNT h)
    let s := s.audit ⟨s.now, h, r.reason, r.code, r.rseq, r.sid, r.arg, r.vat⟩
    match r.auth, x.sess with
    | true, some y =>
      let slots := y.slots.map fun (t : ReqSlot) => if t.rseq = r.rseq ∧ t.rsp.isNone then { t with rsp := some y.nextSeq } else t
      .next ((s.setHost h { s.host h with sess := some { y with slots := slots } }).sendMsg h 2 r.code 1 r.rseq [])
    | _, _ => .next (s.sendBare h r.src r.code 1 r.rseq [])

/-- IMM_ACK (R479, R483, R484): an ACK message. -/
def execImmAck (e : ImmEnv) (s : State) : Host.Outcome State Fault Refusal :=
  let h := e.port.val
  if !s.frameTaken e then .next s
  else
    let s := s.bump (MGT.RX_CNT h)
    if !immCrcOk e 0 [] then .next (s.bump (MGT.CRC_CNT h))
    else if !immFormed e 4 [] || !e.auth || e.seq != 0 then .next s
    else if (s.macEpoch e 0 []).isNone then .next (s.bump (MGT.MAC_CNT h))
    else .next (s.ackTo h e.ackno.toNat)

/-- IMM_RETRANSMIT_EXPIRY (R482, R484): everything unacknowledged is resent; after 16 expiries the session closes. -/
def execImmRetransmitExpiry (h : Fin 4) (s : State) : Host.Outcome State Fault Refusal :=
  let x := s.host h
  match x.sess with
  | none => .next s
  | some y =>
    if y.unacked = [] then .next s
    else if 15 ≤ y.expiries then .next ((s.bump (MGT.RTX_CNT h)).closeSession h true)
    else
      let s := (s.bump (MGT.RTX_CNT h)).bump (MGT.TX_CNT h) y.unacked.length
      let x := s.host h
      .next (s.setHost h { x with sess := some { y with expiries := y.expiries + 1 }, lastTx := y.unacked.getLast? })

/-- STANDALONE_ACK_TIMER (R483). -/
def execStandaloneAckTimer (h : Fin 4) (s : State) : Host.Outcome State Fault Refusal :=
  match (s.host h).sess with
  | none => .next s
  | some y => .next (if y.ackDue then s.sendAck h else s)

/-- SESSION_IDLE_TIMEOUT (R482). -/
def execSessionIdleTimeout (h : Fin 4) (s : State) : Host.Outcome State Fault Refusal := .next (s.closeSession h true)

/-! Sending of events. -/

/-- R493: the record of an entry. -/
def evRecord (e : EvEntry) : List Byte :=
  [BitVec.ofNat 8 e.d.sev, BitVec.ofNat 8 e.d.vat, 0#8, 0#8] ++ numBe 4 e.d.source ++ numBe 4 e.count ++ numBe 8 e.first
    ++ numBe 8 e.last ++ (e.d.args.take 8).flatMap (numBe 4)

/-- R495: tokens in millionths of the bucket of a severity. -/
def HostSt.hasToken (x : HostSt) (sev : Nat) : Bool := match sev with
  | 0 => true
  | 1 => decide (1000000 ≤ x.tokMajor)
  | 2 => decide (1000000 ≤ x.tokMinor)
  | _ => decide (1000000 ≤ x.tokInfo)

def HostSt.takeToken (x : HostSt) (sev : Nat) : HostSt := match sev with
  | 0 => x
  | 1 => { x with tokMajor := x.tokMajor - 1000000 }
  | 2 => { x with tokMinor := x.tokMinor - 1000000 }
  | _ => { x with tokInfo := x.tokInfo - 1000000 }

/-- R495: the entry that goes out next: by severity, CRITICAL first, oldest first, where the severity holds a token. -/
def HostSt.nextEvent (x : HostSt) : Option EvEntry :=
  ([0, 1, 2, 3].filterMap fun v => if x.hasToken v then x.queue.find? fun e => e.sent.isNone && e.d.sev == v else none).head?

/-- EVENT_SEND (R495). -/
def execEventSend (h : Fin 4) (s : State) : Host.Outcome State Fault Refusal :=
  let x := s.host h
  match x.sess, x.nextEvent with
  | some y, some ev =>
    if 256 ≤ y.events then .next s
    else
      let q := mapFirst (fun (e : EvEntry) => e.id == ev.id && e.sent.isNone) (fun e => { e with sent := some y.nextSeq }) x.queue
      let s := s.setHost h { x.takeToken ev.d.sev with queue := q }
      .next ((s.sendMsg h 3 ev.d.code 0 0 (evRecord ev)).bump (MGT.EVT_CNT h))
  | _, _ => .next s

/-- EVENTS_LOST_SEND (R496): the loss summary goes out, outside the queue and without a token. -/
def execEventsLostSend (h : Fin 4) (s : State) : Host.Outcome State Fault Refusal :=
  let x := s.host h
  match x.sess, x.loss with
  | some y, some l =>
    if 256 ≤ y.events then .next s
    else
      let sev := if l.counts.getD 0 0 + l.counts.getD 1 0 = 0 then 2 else 1
      let d : EvData := ⟨EV.eventsLost.code, sev, 0xFF, 0, l.counts⟩
      let s := s.setHost h { x with loss := none, lossSent := x.lossSent ++ [{ l with sent := some y.nextSeq }] }
      let s := s.logEvent d
      .next ((s.sendMsg h 3 d.code 0 0 (evRecord ⟨0, d, min (2 ^ 32 - 1) l.counts.sum, l.first, s.now, none⟩)).bump (MGT.EVT_CNT h))
  | _, _ => .next s

/-- R497, R535: ALARM_N is low. -/
def State.alarm (s : State) : Bool := s.powered && s.pwr.entry.isNone && (List.range 4).any fun h =>
  let x := s.host h
  (x.queue.any fun e => decide (e.d.sev ≤ 1)) || ((x.lossSent ++ x.loss.toList).any fun l => l.counts.getD 0 0 + l.counts.getD 1 0 != 0)

/-- MGT.MP_STAT. -/
def State.mpStat (s : State) (h : Nat) : Word :=
  let x := s.host h
  let n := match x.sess with
    | some y => 2 * 2 ^ 28 + y.unacked.length * 2 ^ 18 + y.slots.length
    | none => if x.hs.isSome then 2 ^ 28 else 0
  BitVec.ofNat 32 ((s.bit (FEN.PORT_STAT.LINK (96 + h))).toNat * 2 ^ 31 + s.rd (MGT.MP_STAT.RATE_ACT h) * 2 ^ 30 + n
    + x.queue.length * 2 ^ 9)

/-- MGT.MP_SID. -/
def State.mpSid (s : State) (h : Nat) : Word := BitVec.ofNat 32 (((s.host h).sess.map (·.sid)).getD 0)

/-- DBG.STAT. -/
def State.dbgStat (s : State) : Word :=
  let halted := (List.range 5).foldl (fun n k => n + if s.bit (SVC.CORE_CTL.HALTED k) then 2 ^ k else 0) 0
  BitVec.ofNat 32 (halted * 2 ^ 24 + match s.dbg.conn with
    | some (h, scope) => 2 ^ 31 + h * 2 ^ 29 + scope
    | none => 0)

/-- DBG.CTL (R504): LOCK ends the connection; a challenge is void. -/
def State.dbgLock (s : State) (w : Word) : State :=
  if w.getLsbD 31 then
    let s := (s.wrb DBG.CTL.LOCK true).dbgEnd
    { s with dbg := { s.dbg with chal := none } }
  else s

/-- R475, R476: the Starter runs a management port at a rate (0 10GBASE-KR, 1 1000BASE-KX): its lane, PRESET, its port. -/
def State.mpRun (s : State) (h r : Nat) : State :=
  let n := 96 + h
  let s := (s.setTxPower n 0).setRxPower n 0
  let s := ((s.wr (LANE.CTL.PLL n) r).wr (LANE.CTL.DIV n) (if r = 0 then 10 else 80)).wr (LANE.CTL.MOD n) 0
  let s := ((s.setTxPower n 2).setRxPower n 2).wr (LANE.TX_EQ.PRESET n) (s.rd (MGT.MP_CTL.PRESET h))
  let s := ((s.storeDrop n).wrb (FEN.PORT_STAT.LINK n) false).wr (FEN.PORT_CTL.MODE n) (if r = 0 then 2 else 1)
  (s.wrb (FEN.PORT_CTL.EN n) true).wr (MGT.MP_STAT.RATE_ACT h) r

/-- R476: the rate the Starter brings a port up at: the fixed one, or 10GBASE-KR first. -/
def State.mpRate (s : State) (h : Nat) : Nat := if s.rd (MGT.MP_CTL.RATE h) = 1 then 1 else 0

/-- R506: a port that does not run: its link is down and its lane off. -/
def State.mpStop (s : State) (h : Nat) : State :=
  let n := 96 + h
  let s := ((s.storeDrop n).wrb (FEN.PORT_STAT.LINK n) false).wrb (FEN.PORT_CTL.EN n) false
  (s.setTxPower n 0).setRxPower n 0

/-- R475, R476: the Starter brings up the management quad's PLLs and the ports with EN = 1. -/
def State.mpStart (s : State) : State :=
  let s := (s.wr (LANE.QREF.FREF_KHZ 24) 156250)
  let s := (s.wr (LANE.QPLL.N 24 0) 330).wrb (LANE.QPLL.EN 24 0) true
  let s := (s.wr (LANE.QPLL.N 24 1) 320).wrb (LANE.QPLL.EN 24 1) true
  (List.range 4).foldl (fun (s : State) h => if s.bit (MGT.MP_CTL.EN h) then s.mpRun h (s.mpRate h) else s) s

/-- MGT.MP_CTL (R476, R506): RATE 0b11 and PRESET 10 to 15 are refused; the Starter follows EN, RATE and PRESET. -/
def State.mpCtlWrite (s : State) (h : Nat) (w : Word) : State × Bool :=
  if wget w 30 29 = 3 ∨ 10 ≤ wget w 28 25 then (s, false)
  else
    let was := s.bit (MGT.MP_CTL.EN h)
    let s := s.setReg (MGT.MP_CTL.EN h).off (w &&& 0xFE000000#32)
    if !s.pwr.fw then (s, true)
    else if !s.bit (MGT.MP_CTL.EN h) then (if was then s.mpStop h else s, true)
    else if !was then (s.mpRun h (s.mpRate h), true)
    else
      let r := if s.rd (MGT.MP_CTL.RATE h) = 2 then s.rd (MGT.MP_STAT.RATE_ACT h) else s.mpRate h
      let s := s.wr (LANE.TX_EQ.PRESET (96 + h)) (s.rd (MGT.MP_CTL.PRESET h))
      (if r = s.rd (MGT.MP_STAT.RATE_ACT h) then s else s.mpRun h r, true)

/-- MP_RATE_ALTERNATE (R476): a port in alternate mode whose link is down changes its rate. -/
def execMpRateAlternate (h : Fin 4) (s : State) : Host.Outcome State Fault Refusal :=
  if s.pwr.fw ∧ s.bit (MGT.MP_CTL.EN h) ∧ s.rd (MGT.MP_CTL.RATE h) = 2 ∧ s.bit (FEN.PORT_STAT.LINK (96 + h)) = false then
    .next (s.mpRun h (1 - s.rd (MGT.MP_STAT.RATE_ACT h)))
  else .next s

/-- SMBUS_STATUS_READ (R499): the 16 bytes of command 0x10. -/
def execSmbusStatusRead (s : State) : Host.Outcome State Fault Refusal :=
  if !s.powered then .next s
  else
    let m := if s.mode = M.boot then 0 else if s.mode = M.fallback then 2 else 1
    let flags := s.alarm.toNat + 2 * s.clk.noref.toNat + 4 * (s.bit CEL.LOG.DEGRADED).toNat
    let bs := [BitVec.ofNat 8 m, BitVec.ofNat 8 s.lcs.code, BitVec.ofNat 8 flags, 0#8]
    let bs := bs ++ leBytes 2 s.mgt.critCode ++ leBytes 2 s.mgt.critCnt ++ leBytes 8 s.mgt.critTime
    .next { s with mgt := { s.mgt with smb := bs } }

/-- SMBUS_LASTGASP_READ (R499): commands 0x11 and 0x12: words 0 to 7 and 8 to 15. -/
def execSmbusLastgaspRead (hi : Bool) (s : State) : Host.Outcome State Fault Refusal :=
  if !s.powered then .next s
  else
    let ws := (List.range 8).map fun k => s.reg (CEL.LASTGASP.W (k + if hi then 8 else 0)).off
    .next { s with mgt := { s.mgt with smb := wordBytes ws } }

end Sys2Proof.Machine
end

