-- ==== Sys2Proof/Machine/Records.lean ====
section
/-! DEFINITION. The records of an image (R229 to R237): cutting a record out of its bytes, the HEADER's fields, the frames a
frame record writes, and the words a MEMINIT record writes. -/

namespace Sys2Proof.Machine

/-- R229: a record as it stands in an image: TYPE, LEN, body, pad bytes, stored CRC, and the bytes the CRC covers. -/
structure Rec where
  typ : Nat
  len : Nat
  body : List Byte
  pad : List Byte
  crc : Nat
  text : List Byte
deriving DecidableEq, Repr

/-- R229: bytes of a whole record with a body of `len` bytes. -/
def recBytes (len : Nat) : Nat := 8 + (len + 3) / 4 * 4

/-- R229: LEN of the record that starts with these bytes. -/
def recLen (bs : List Byte) : Nat := leVal ((bs.take 3))

/-- R229: the record that starts with these bytes (as many as it needs). -/
def recOf (bs : List Byte) : Rec :=
  let len := recLen bs
  let n := recBytes len - 4
  ⟨leVal ((bs.drop 3).take 1), len, (bs.drop 4).take len, (bs.drop (4 + len)).take (n - 4 - len),
   leVal ((bs.drop n).take 4), bs.take n⟩

/-- R229: the CRC of a record is good. -/
def Rec.crcOk (r : Rec) : Bool := (crc32c r.text).toNat == r.crc

/-- R229: every pad byte is 0x00. -/
def Rec.padOk (r : Rec) : Bool := r.pad.all fun b => b == 0

/-- R229: the record as stored. -/
def Rec.whole (r : Rec) : List Byte := r.text ++ leBytes 4 r.crc

/-- Word k of a body. -/
def bodyWord (b : List Byte) (k : Nat) : Nat := leVal ((b.drop (4 * k)).take 4)

/-! The HEADER (R231). -/

structure Hdr where
  whole : Bool
  hasInit : Bool
  vats : List Nat
  ver : Nat
  frames : Nat
  qframes : List Nat
  fsecLen : Nat
  isecLen : Nat
  fhash : List Byte
  ihash : List Byte
  map : List Nat
deriving DecidableEq, Repr

/-- R231: the largest image: one Cellar slot. -/
def slotBytes : Nat := 58720256

/-- R231: where the frame section starts, after the HEADER (392 bytes) and the SIGNATURE (156 bytes). -/
def fsecOff : Nat := 548

/-- R231: the fields of a HEADER body, or none for a header fault (reason 0x03). -/
def hdrOf (b : List Byte) : Option Hdr :=
  let w := bodyWord b
  let h : Hdr := ⟨(w 3).testBit 0, (w 3).testBit 1, (List.range 16).filter fun v => (w 4).testBit v, w 5, w 6,
    [w 7, w 8, w 9, w 10], w 12, w 14, (b.drop 64).take 48, (b.drop 112).take 48, ((b.drop 160).take 224).map BitVec.toNat⟩
  let head := w 0 = 0x49484C44 ∧ w 1 / 2 ^ 16 = 1 ∧ w 2 = 0x8420 ∧ w 3 < 4 ∧ w 4 < 2 ^ 16 ∧ w 15 = 0 ∧ w 11 = fsecOff
  let isec := if h.hasInit then w 13 = fsecOff + h.fsecLen else w 13 = 0 ∧ w 14 = 0 ∧ h.ihash.all (· == 0)
  if head ∧ isec ∧ h.map.all (fun v => decide (v < 16 ∨ v = 255)) ∧ fsecOff + h.fsecLen + h.isecLen + 8 ≤ slotBytes
  then some h else none

/-- R231: VATMAP as a function. -/
def Hdr.mapOf (h : Hdr) (sec : Nat) : Nat := h.map.getD sec 255

/-- R238 step 3: a whole-device image names vat 0 and is WHOLE; any other has neither and carries the shell's map; every
tenancy named holds a sector. -/
def Hdr.fits (h : Hdr) (shell : Nat → Nat) : Bool :=
  !h.vats.isEmpty && h.whole == h.vats.contains 0 && (h.whole || (List.range 224).all fun i => h.mapOf i == shell i)
    && h.vats.all fun v => v == 0 || h.map.contains v

/-! Frame records (R235, R236). -/

/-- The 260 bytes of a frame: its words and its check word. -/
def frameBytes (f : Frame) : List Byte := leBytes 259 f.toNat ++ [0]

/-- R236: decode a token stream over the reference frame's bytes, `out` bytes having been produced (in reverse). None: the
stream ends inside a literal or gives other than 260 bytes (a copy run that goes past byte 260 gives more). The first argument bounds the tokens. -/
def unz (ref : List Byte) : Nat → List Byte → List Byte → Option (List Byte)
  | 0, _, _ => none
  | _, out, [] => if out.length = 260 then some out.reverse else none
  | n + 1, out, t :: ts =>
    let b := t.toNat
    if b < 0x80 then
      if ts.length < b + 1 then none else unz ref n ((ts.take (b + 1)).reverse ++ out) (ts.drop (b + 1))
    else if b < 0xC0 then unz ref n (List.replicate (b - 0x80 + 1) 0 ++ out) ts
    else if 260 < out.length + (b - 0xC0 + 1) then none
    else unz ref n ((((ref.drop out.length).take (b - 0xC0 + 1))).reverse ++ out) ts

/-- R235: what a frame record writes: frames with their FARs, and the reference frame after it; or the reason of its
rejection. -/
def frameRec (typ : Nat) (b : List Byte) (ref : Frame) : Except Nat (List (Nat × Frame) × Frame) :=
  let n := b.length
  let far := fun k => match farDecode (BitVec.ofNat 32 (bodyWord b k)) with
    | some x => Except.ok x
    | none => Except.error 0x07
  let one := fun (bs : List Byte) (bad : Nat) =>
    if bs.getLast? ≠ some 0 then Except.error bad
    else do
      let x ← far 0
      let f : Frame := BitVec.ofNat 2072 (leVal bs)
      pure ([(x, f)], f)
  if typ = 0x10 then if n ≠ 264 then .error 0x02 else one (b.drop 4) 0x02
  else if typ = 0x11 then
    if n < 5 ∨ 520 < n then .error 0x02
    else match unz (frameBytes ref) 520 [] (b.drop 4) with
      | some bs => one bs 0x02
      | none => .error 0x0A
  else if typ = 0x12 then
    let c := bodyWord b 0
    if n < 4 ∨ c = 0 ∨ 65536 < c ∨ n ≠ 4 + 4 * c then .error 0x02
    else do
      let l ← ((List.range c).mapM fun i => far (i + 1))
      pure (l.map fun x => (x, ref), ref)
  else if typ = 0x13 then
    let c := bodyWord b 1
    if n ≠ 8 ∨ c = 0 ∨ 1152 < c then .error 0x02
    else do
      let x ← far 0
      let left := match frameSector x with
        | some _ => 1152 - frameIdx x
        | none => 1024 - frameIdx x
      if left < c then .error 0x07 else pure ((List.range c).map fun i => (x + i, (0 : Frame)), ref)
  else .error 0x02

/-- R239, R229: CRC, then pad bytes; none is good. -/
def Rec.bad (r : Rec) : Option Nat := if !r.crcOk then some 0x01 else if !r.padOk then some 0x02 else none

/-! Memory-init records (R237). -/

/-- R237: what a MEMINIT record writes: KIND, POISON, memory, first word, data words. -/
structure MemInit where
  kind : Nat
  poison : Bool
  mem : Nat
  start : Nat
  data : List Nat
deriving DecidableEq, Repr

/-- R237: the sector of a memory: 60 BM36 and 48 slices a sector, a DM in the even-column sector of its pair. -/
def initSector (kind mem : Nat) : Nat := if kind = 2 then 2 * mem else if kind = 3 then mem / 48 else mem / 60

/-- R237: the fields of a MEMINIT body, or the reason of its rejection; `mine` says whether a sector's memories may be
named. -/
def memInitOf (b : List Byte) (mine : Nat → Bool) : Except Nat MemInit :=
  let w0 := bodyWord b 0
  let kind := w0 / 2 ^ 28
  let poison := w0.testBit 27
  let mem := w0 % 2 ^ 24
  let count := bodyWord b 1 / 2 ^ 16
  let start := bodyWord b 1 % 2 ^ 16
  let size := if kind = 1 then 12 else 8
  let mems := [13440, 13440, 112, 10752].getD kind 0
  let top := [512, 512, 32768, 1024].getD kind 0
  let data := (List.range count).map fun i => leVal ((b.drop (8 + size * i)).take size)
  if b.length < 8 then .error 0x02
  else if 3 < kind then .error 0x10
  else if b.length ≠ 8 + size * count ∨ w0 / 2 ^ 24 % 8 ≠ 0 then .error 0x02
  else if (poison ∧ kind = 1) ∨ count = 0 ∨ 32768 < count ∨ top < start + count ∨ mems ≤ mem ∨ mine (initSector kind mem) = false then
    .error 0x10
  else if data.any (fun d => decide ((if kind = 1 then 2 ^ 72 else if kind = 3 then 2 ^ 36 else 2 ^ 64) ≤ d)) then .error 0x02
  else .ok ⟨kind, poison, mem, start, data⟩

end Sys2Proof.Machine
end

