-- ==== Sys2Proof/Machine/Peek.lean ====
section
/-! DEFINITION. What system memory holds, read without an access (DRAM, scratchpad, DM), and the acceptance of a module load
(R269, R270), whose last refusal depends on the image in memory. -/

namespace Sys2Proof.Machine

/-- The line of 64 bytes at a local address of DRAM, the scratchpad or a DM, as a request of a moment would read it. -/
def State.peekLine (s : State) (a : Nat) : BitVec 512 := match regionOf a with
  | .dram =>
    let n := s.chanOf a
    let line := s.lineOf a
    ((s.chan n).store.filter fun q => q.line == line && q.wr).foldl (fun d q => mergeLine d q.data q.off q.len)
      ((s.chan n).line (s.physRank n line) (line % 2 ^ 30)).data
  | .scratch => (List.range 8).foldl (fun (d : BitVec 512) j => match s.scrWord (a % scrSize / 64 * 8 + j) with
      | some w => d ||| ((w.v.setWidth 64).setWidth 512 <<< (64 * j))
      | none => d) 0#512
  | .dm p => (List.range 8).foldl (fun (d : BitVec 512) j => match s.memW true p (a % 2 ^ 18 / 64 * 8 + j) with
      | some w => d ||| ((w.v.setWidth 64).setWidth 512 <<< (64 * j))
      | none => d) 0#512
  | _ => 0

/-- Bytes of a line from an offset in it. -/
def lineSlice (d : BitVec 512) (off n : Nat) : List Byte := (List.range n).map fun i => (d >>> (8 * (off + i))).setWidth 8

/-- The pieces (address, length) of a range that lie within one line each. The first argument bounds their number. -/
def linePieces : Nat → Nat → Nat → List (Nat × Nat)
  | 0, _, _ => []
  | k + 1, a, n => if n = 0 then [] else
      let m := min n (64 - a % 64)
      (a, m) :: linePieces k (a + m) (n - m)

/-- n bytes of memory from an address on. -/
def State.peekBytes (s : State) (a n : Nat) : List Byte :=
  (linePieces (n / 64 + 2) a n).flatMap fun p => lineSlice (s.peekLine (p.1 % 2 ^ 42)) (p.1 % 64) p.2

/-! Module loads. -/

/-- R236, R270: the frames a module image writes, as far as its records can be read. The first argument bounds them. -/
def State.peekFrames (s : State) : Nat → Nat → Nat → Frame → List (Nat × Frame)
  | 0, _, _, _ => []
  | k + 1, a, stop, ref =>
    if stop ≤ a then []
    else
      let len := recLen (s.peekBytes a 4)
      let r := recOf (s.peekBytes a (recBytes len))
      match frameRec r.typ r.body ref with
      | .ok (l, ref) => l ++ s.peekFrames k (a + recBytes len) stop ref
      | .error _ => []

/-- R69, R128: a frame of an image is dynamic: a memory frame whose tile's mode bits, in the image where it writes them,
make it so. -/
def State.imageDyn (s : State) (l : List (Nat × Frame)) (n : Nat) : Bool := match frameSector n with
  | none => false
  | some sec =>
    let f := frameIdx n
    if 768 ≤ f ∧ f < 1024 then
      let m := sectorFrame sec (3 * (f - 768) + 2)
      memDynamic (((l.find? fun x => x.1 == m).map (·.2)).getD (s.liveFrame m))
    else false

/-- R209, R270: the load-shadow entries a module image needs beyond those its frames hold already. -/
def State.shadowNeeds (s : State) (a len : Nat) : Nat :=
  let fl := leVal (s.peekBytes (a + 4 + 48) 4)
  let l := s.peekFrames (len / 8) (a + fsecOff) (a + fsecOff + min fl len) 0
  (((l.map (·.1)).dedup).filter fun n => s.imageDyn l n && (tget s.cfg.shadow n none).isNone).length

/-- R209: the load-shadow entries that are taken: filled, or reserved for an accepted module load that has not filled them. -/
def State.shadowTaken (s : State) : Nat :=
  s.cfg.shadow.length + ((s.cfg.mods.filter fun m => decide (m.phase < 3)).map (·.need)).sum

/-- R270: why a module load of a region is refused, given the load-shadow entries that its image needs. A CAPTURE that waits for
a port is in progress. -/
def State.modRefusal (s : State) (v r need : Nat) : Option Nat :=
  let held := [VAT.VAT_STAT.IN_RESET v, VAT.VAT_STAT.SWAPPING v, VAT.VAT_STAT.GATED v, VAT.VAT_STAT.FAILED v, PWR.MODE_STAT.LOAD_PEND]
  if !s.mbit (VAT.MREG_EN.EN v) r then some 1
  else if !s.running || held.any s.bit || s.swapping v || (tget s.cfg.loads v none).isSome || tget s.cfg.gating v 0 != 0
      || (s.cfg.captures.any fun c => c.1 == v) then some 2
  else if 256 < s.shadowTaken + need then some 3
  else if s.cfg.mods.any fun m => m.vat == v then some 6
  else none

/-- VAT.MLOAD_CTL (R270): the request is refused with its RESULT, or queued in the order of acceptance. -/
def State.mloadWrite (s : State) (id vat v : Nat) (w : Word) : State :=
  let r := wget w 5 4
  let s := s.setReg (VAT.MLOAD_CTL.IRQ v).off (w &&& 0x130#32)
  if wget w 0 0 = 0 then s
  else
    let a := (s.reg (VAT.MLOAD_ADDR_LO.A v).off).toNat + 2 ^ 32 * (s.reg (VAT.MLOAD_ADDR_HI.A v).off).toNat
    let len := s.rd (VAT.MLOAD_LEN.LEN v)
    let need := s.shadowNeeds a len
    match s.modRefusal v r need with
    | some x => s.wr (VAT.MLOAD_STAT.RESULT v) x
    | none =>
      let m : ModLoad := ⟨v, r, s.regionRect v r, a, len, w.getLsbD 8, id, vat, 0, 0, 0, [], need⟩
      (({ s with cfg := { s.cfg with mods := s.cfg.mods ++ [m] } } : State).wrb (VAT.MLOAD_STAT.BUSY v) true)

end Sys2Proof.Machine
end

