-- ==== Sys2Proof/Machine/Power.lean ====
section
/-! DEFINITION. Power, resets and wake (R532 to R543). -/

namespace Sys2Proof.Machine

/-! What survives (R543). -/

/-- The columns of the survival table: a power-on reset (with the always-on island kept or not), cold, warm, and what KEEP
and OFF leave for after the wake. -/
inductive RstKind where
  | por (aon : Bool)
  | cold
  | warm
  | keepD
  | keep
  | off
deriving DecidableEq, Repr

/-- The always-on island keeps its state. -/
def RstKind.aon : RstKind → Bool
  | .por b => b
  | _ => true

/-- The timing island keeps its state. -/
def RstKind.time : RstKind → Bool
  | .por _ => false
  | .off => false
  | _ => true

/-- The DRAM keeps its contents and what belongs to them. -/
def RstKind.dram : RstKind → Bool
  | .warm => true
  | .keepD => true
  | _ => false

/-- The fabric keeps power, so soft repairs of its memories stay. -/
def RstKind.fabric : RstKind → Bool
  | .warm => true
  | .cold => true
  | _ => false

/-- R532: RST_CAUSE, WAKE_CAUSE and the last-gasp registers lie in the always-on island. -/
def aonReg (a : Nat) : Bool := a == 0x10010 || a == 0x10014 || (decide (0x8000100 ≤ a) && decide (a < 0x8000140))

/-- R423, R442: TCLK, time bases, pulse and capture configuration lie in the timing island. -/
def timeReg (a : Nat) : Bool := decide (0x5000000 ≤ a) && decide (a < 0x5004000)

/-- R365, R366: GEOM, CAP, KEY, timing sets, and of each channel STATE, FILLED, SPARE, MIG_PTR and PNR. -/
def dramReg (a : Nat) : Bool :=
  (decide (0x2080000 ≤ a) && decide (a < 0x208000C))
    || (decide (0x2000000 ≤ a) && decide (a < 0x2080000)
        && (let o := a % 65536; o == 4 || o == 12 || o == 16 || o == 24 || (decide (0x100 ≤ o) && decide (o < 0x300))))

/-- R542, R543: the registers a warm reset keeps besides; R78 says that it returns the other CLK registers to reset values, which
R542 and R543 say of a cold reset only, and the model follows those two (notes/assumptions/82.md): clock and interrupt configuration, the network's map, regulators and
initiator configuration, SCP LOCK, DBG.CTL. -/
def warmReg (a : Nat) : Bool :=
  (decide (a < 0x10000) && a != 8) || (decide (0x6000000 ≤ a) && decide (a < 0x6001000))
    || (decide (0x6002000 ≤ a) && decide (a < 0x6002180) && a % 64 == 16) || (decide (0x6003000 ≤ a) && decide (a < 0x6003400))
    || (decide (0x1000000 ≤ a) && decide (a < 0x1100000)) || (decide (0x6100010 ≤ a) && decide (a < 0x6100030)) || a == 0x7100000

/-- The registers a device reset keeps as they are. -/
def RstKind.keeps (k : RstKind) (a : Nat) : Bool :=
  (k.aon && aonReg a) || (k.time && timeReg a) || (k.dram && dramReg a) || (k == .warm && warmReg a) || a == 0x2080008

/-- R461: WAKE bits and wake latches stay with the always-on island. -/
def State.keepWake (s old : State) : State :=
  (List.range 128).foldl (fun (s : State) i =>
    if old.bit (IRQ.SRC_CFG.WAKE (832 + i)) then
      let s := s.wrb (IRQ.SRC_CFG.WAKE (832 + i)) true
      if old.srcLatch (832 + i) then s.setLatch (832 + i) true else s
    else s) s

/-- R543: what a device reset, or KEEP or OFF, leaves of the state as it stands. Non-volatile state is untouched: planes, role
records, Cellar, fuses, keys. -/
def State.kept (s : State) (k : RstKind) : State :=
  let arms := (List.range 16).filter fun v => s.bit (CFG.ARM_CTL.ARMED v)
  let scr := match k with
    | .por false => {}
    | .off => {}
    | _ => { s.scr with test := [], rot := [], dma := [] }
  let logs := match k with
    | .por false => { s.logs with evRing := [], audRing := [], evTodo := 0, audTodo := 0 }
    | .off => { s.logs with evRing := [], audRing := [], evTodo := 0, audTodo := 0 }
    | _ => s.logs
  {
    regs := tfilter (fun a _ => k.keeps a) s.regs
    ctrs := tfilter (fun a _ => k == .warm && decide (0x1000000 ≤ a) && decide (a < 0x1100000)) s.ctrs
    freeCtr := s.freeCtr
    answer := s.answer
    logs := logs
    clk := if k = .warm then { s.clk with switching := false, relocking := false } else {}
    noc := if k = .warm then { stamp := s.noc.stamp, cache := s.noc.cache, used := s.noc.used, drew := s.noc.drew } else { stamp := s.noc.stamp }
    dram := s.dram
    cfg := { roles := s.cfg.roles, actSet := s.cfg.actSet, mapChg := s.cfg.mapChg, planeA := s.cfg.planeA, planeB := s.cfg.planeB }
    time := if k.time then s.time else {}
    cel := s.cel
    scr := scr
    lcs := s.lcs
    bist := {
      soft := s.bist.soft.filter fun x => if x.kind = 2 then k.aon && k != .off else k.fabric
      fused := s.bist.fused
      defects := s.bist.defects }
    pins := { bank := s.pins.bank, strap := s.pins.strap, tap := s.pins.tap }
    pwr := { held := s.pwr.held, lost := s.pwr.lost, lostArms := s.pwr.lostArms ++ arms }
    pending := s.pending }

/-- R545: life-cycle fuses that are being blown as a device reset comes end up blown or not. -/
def State.fuseCut (s : State) : State := match s.lcs.blowing with
  | none => s
  | some t =>
    let k := s.fresh
    { k.2 with lcs := { k.2.lcs with blowing := none, code := if Config.freeBit k.1 then t else s.lcs.code } }

/-- R543: the DRAM of a device reset: kept, or its lines and their keys gone. -/
def State.dramReset (s : State) (k : RstKind) : State :=
  if k.dram then s.dramWarm
  else
    let s := if k = .keep then s.wrb DDR.KEY.KEPT true else s.drawKeys
    { s with dram := { s.dram with ch := [] } }

/-- R543: the clock flags a device reset keeps. -/
def State.clkReset (s : State) (old : State) : RstKind → State
  | .por _ => s
  | .warm => s
  | .cold => s.setReg CLK.ROOT_STAT.LOCK.off (old.reg CLK.ROOT_STAT.LOCK.off &&& 0xF0)
  | _ => s.wrb CLK.ROOT_STAT.XO32_OK (old.bit CLK.ROOT_STAT.XO32_OK)

/-- R543: the state after a device reset, or in KEEP or OFF. MODE_STAT keeps its modes until BOOT is entered, except at a
power-on reset. -/
def State.deviceReset (s : State) (k : RstKind) : State :=
  let r := (s.kept k).fuseCut
  let r := (List.range 12).foldl (fun (r : State) b => r.setHio b { r.hio b with off := true, written := false }) r
  let r := if k.aon then r.keepWake s else r
  let r := (r.clkReset s k).celAbandon
  let r : State := if k.fabric then r else { r with cel := { r.cel with ramBad := [] } }
  let r := r.celShow
  let r := if k.time then (if k = .keep ∨ k = .keepD then r.timeKeep.timeReset else r.timeReset) else r
  let r := r.dramReset k
  match k with
  | .por _ => r
  | _ => (r.wr PWR.MODE_STAT.MODE s.mode).wr PWR.MODE_STAT.PREV_MODE (s.rd PWR.MODE_STAT.PREV_MODE)

/-! Power-on reset (R533). -/

/-- SUPPLY_LEAVES_TOLERANCE (R533): a supply, numbered as RST_CAUSE.SUPPLY, leaves tolerance. The power-on reset is held;
the always-on island is reset only where VCC_KEEP is lost. -/
def execSupplyLeavesTolerance (k : Fin 7) (s : State) : Host.Outcome State Fault Refusal :=
  let r := s.deviceReset (.por (k.val != 6))
  let r := if k.val = 1 ∨ k.val = 6 then { r with pins := { r.pins with tap := {} } } else r
  .next { r with pwr := { r.pwr with held := true, lost := (if s.pwr.held then s.pwr.lost else 0) ||| 2 ^ k.val } }

/-- POWER_ON_RESET_RELEASE (R29, R533, R539): every supply has been within tolerance for 100 µs. -/
def execPowerOnResetRelease (s : State) : Host.Outcome State Fault Refusal :=
  if !s.pwr.held then .next s
  else
    let lost := s.pwr.lost
    let s := (s.wrb CLK.ROOT_STAT.XO32_OK true).wrb CLK.ROOT_STAT.IOSC_OK true
    let s := ((s.setReg PWR.RST_CAUSE.CAUSE.off 0).wr PWR.RST_CAUSE.CAUSE (if lost.testBit 6 then 1 else 2)).wr PWR.RST_CAUSE.SUPPLY lost
    .next { s with pwr := { s.pwr with held := false, lost := 0 } }

/-! Cold and warm resets (R539 to R542). -/

/-- R541, R542: a reset is requested: absorbed by one as strong or stronger that is in progress, else carried out from the
start. `rank` is 2 cold, 3 warm. -/
def State.resetRequest (s : State) (rank cause host : Nat) : State :=
  let weaker := match s.pwr.rst with
    | some r => decide (r ≤ rank)
    | none => false
  if s.pwr.held || weaker then s
  else
    let r := s.deviceReset (if rank = 2 then .cold else .warm)
    let r := ((r.setReg PWR.RST_CAUSE.CAUSE.off 0).wr PWR.RST_CAUSE.CAUSE cause).wr PWR.RST_CAUSE.HOST host
    { r with pwr := { r.pwr with rst := some rank } }

/-- RESET_N_EDGE (R540): RESET_N falls and stays low for a time in ns. From 100 ns to 1 µs the whole reset is taken or
nothing happens, which is free (notes/assumptions/2.md). -/
def execResetNEdge (ns : Nat) (s : State) : Host.Outcome State Fault Refusal :=
  if ns < 100 then .next s
  else if 1000 ≤ ns then .next (s.resetRequest 2 3 0)
  else
    let (k, s) := s.fresh
    .next (if Config.freeBit k then s.resetRequest 2 3 0 else s)

/-- RESET_RELEASE (R542): the reset ends at tr: BOOT. -/
def execResetRelease (s : State) : Host.Outcome State Fault Refusal :=
  if s.pwr.rst.isNone then .next s
  else .next ((({ s with pwr := { s.pwr with rst := none } } : State).wrb CLK.ROOT_STAT.IOSC_OK true).enterMode M.boot)

/-- PWR.RST_CTL: a write of both bits acts as COLD. -/
def State.rstCtlWrite (s : State) (w : Word) : State :=
  if w.getLsbD 1 then s.resetRequest 2 6 0 else if w.getLsbD 0 then s.resetRequest 3 7 0 else s

/-! KEEP and OFF (R534 to R536). -/

/-- R29, R534: a power command is refused; KEEP takes the one for OFF. -/
def State.powerRefused (s : State) (target : Nat) : Bool :=
  !(s.mode == M.run || s.mode == M.fallback || (s.mode == M.keep && target == 3)) || !s.bit CLK.ROOT_STAT.XO32_OK
    || target == 0 || s.pwr.held || s.pwr.rst.isSome || s.pwr.entry.isSome

/-- R535: what happens at the instant a power command acts. -/
def State.powerActs (s : State) (target wake : Nat) : State :=
  let s := s.closeAll
  let armed := (List.range 16).filter fun v => s.bit (CFG.ARM_CTL.ARMED v)
  let s := armed.foldl (fun (s : State) k =>
    let vats := if k = 0 then maskVats (s.rd (CFG.ARM_CTL.VATS 0)) else [k]
    (s.wrb (CFG.ARM_CTL.ARMED k) false).raiseAt (vats.map s.ownerOf) EV.armCancelled k k [k]) s
  let s := (List.range 4).foldl (fun (s : State) h => s.wrb (FEN.PORT_STAT.LINK (96 + h)) false) s
  { s with pwr := { s.pwr with entry := some (target, wake) } }

/-- PWR.CMD; false: SLVERR. -/
def State.pwrCmdWrite (s : State) (w : Word) : State × Bool :=
  let t := wget w 1 0
  if w.getLsbD 31 && s.powerRefused t then (s, false)
  else
    let s := s.wr PWR.CMD.TARGET t
    (if w.getLsbD 31 then s.powerActs t (s.rd PWR.WAKE_S.S) else s, true)

/-- R535: programs and erases have ended; for OFF the rings have been copied to the Cellar. -/
def State.cellarIdle (s : State) (off : Bool) : Bool :=
  ((List.range 4).all fun b => let x := s.bank b; x.ops.isEmpty && x.prog.isNone)
    && (!off || s.logs.ramOnly || (s.logs.evTodo == 0 && s.logs.audTodo == 0))

/-- R537: a source whose wake latch wakes from KEEP, and from OFF. -/
def wakes (off : Bool) (i : Nat) : Bool :=
  i == 886 || (decide (944 ≤ i) && decide (i < 948)) || (!off && ((decide (832 ≤ i) && decide (i < 864)) || i == 879))

/-- R536, R537: the first source of a mode whose wake latch is set. -/
def State.wakeSource (s : State) (off : Bool) : Option Nat :=
  ((List.range 128).map (832 + ·)).find? fun i => wakes off i && s.bit (IRQ.SRC_CFG.WAKE i) && s.srcLatch i

/-- POWER_ENTRY_PROCEED (R535, R536): from t1 on: DRAM, time bases, core island; a wake that is pending follows at once. -/
def execPowerEntryProceed (s : State) : Host.Outcome State Fault Refusal :=
  match s.pwr.entry with
  | none => .next s
  | some (target, wake) =>
    if !s.cellarIdle (target == 3) then .next s
    else
      let s := s.enterMode (if target = 3 then M.off else M.keep)
      let s := s.deviceReset (if target = 1 then .keepD else if target = 2 then .keep else .off)
      let p := s.wakeSource (target == 3)
      .next { s with pwr := { s.pwr with timer := if wake = 0 then none else some wake, waking := p.map some } }

/-! Wake (R537, R538). -/

/-- R537: the device is in KEEP or OFF and no wake runs. -/
def State.asleep (s : State) : Bool := (s.mode == M.keep || s.mode == M.off) && s.pwr.waking.isNone && !s.pwr.held && s.pwr.rst.isNone

/-- WAKE_EDGE (R537): the wake latch of source 832 + i sets in KEEP or OFF. -/
def execWakeEdge (i : Fin 128) (s : State) : Host.Outcome State Fault Refusal :=
  let n := 832 + i.val
  if !s.asleep || !s.bit (IRQ.SRC_CFG.WAKE n) || !wakes (s.mode == M.off) n then .next s
  else
    let s := s.setLatch n true
    .next { s with pwr := { s.pwr with waking := some (some n) } }

/-- WAKE_TIMER_EXPIRY (R537). -/
def execWakeTimerExpiry (s : State) : Host.Outcome State Fault Refusal :=
  if s.pwr.timer.isNone || !s.asleep then .next s
  else
    let s := if s.bit (IRQ.SRC_CFG.WAKE 886) then s.setLatch 886 true else s
    .next { s with pwr := { s.pwr with timer := none, waking := some none } }

/-- WAKE_POWER_GOOD (R538, R539): the core island is at power good; BOOT as after a power-on reset. -/
def execWakePowerGood (s : State) : Host.Outcome State Fault Refusal :=
  match s.pwr.waking with
  | none => .next s
  | some src =>
    let off := s.mode == M.off
    let s := s.wrb CLK.ROOT_STAT.IOSC_OK true
    let s := (s.setReg PWR.RST_CAUSE.CAUSE.off 0).wr PWR.RST_CAUSE.CAUSE (if off then 9 else 8)
    let s := (s.wrb PWR.WAKE_CAUSE.TIMER src.isNone).wr PWR.WAKE_CAUSE.SRC (src.getD 0)
    let s : State := { s with pwr := { s.pwr with waking := none, timer := none } }
    .next ((s.enterMode M.boot).dramRelock)

/-- RESET_OR_POWER_ACT (R489): the host has acknowledged the response, or 1 ms has gone by. -/
def execResetOrPowerAct (s : State) : Host.Outcome State Fault Refusal :=
  let t : State := { s with mgt := { s.mgt with lateAct := none } }
  match s.mgt.lateAct with
  | none => .next s
  | some (.reset typ host) => .next (t.closeAll.resetRequest (if typ = 1 then 2 else 3) (if typ = 1 then 4 else 5) host)
  | some (.lcReset cause) => .next (t.closeAll.resetRequest 2 cause 0)
  | some (.power target wake) => .next (if t.powerRefused target then t else t.powerActs target wake)

end Sys2Proof.Machine
end

