-- ==== Sys2Proof/Machine/Bus.lean ====
section
/-! DEFINITION. An access to a register: who may reach it (R258 and the chapters' own rules), what a read returns and does,
and what a write does (R4 to R13, R40). -/

namespace Sys2Proof.Machine

/-! Rights. -/

/-- R294, R445: the initiator ID of processor c: Starter, service cores 0 to 3, Timekeeper. -/
def procId (c : Nat) : Nat := [980, 984, 985, 988, 989, 990].getD c 980

/-- R258: initiators of vat 0 reach every block; so does the Starter. -/
def adminReq (q : Req) : Bool := q.starter || q.vat == 0

/-- R258: PERM of the requester's vat opens a block. -/
def State.perm (s : State) (q : Req) (f : Nat → Fld) : Bool := decide (q.vat < 16) && s.bit (f q.vat)

/-- R258: who reaches VAT registers. -/
def State.reachVat (s : State) (q : Req) (off : Nat) (wr : Bool) : Bool :=
  let r := off % 0x100
  adminReq q || (s.perm q VAT.PERM.VAT &&
    ((decide (off < 0x200104) && !wr) ||
     (decide (0x201000 ≤ off) && (off - 0x201000) / 0x100 == q.vat && (decide (r < 8) || (decide (0x40 ≤ r) && decide (r < 0x74))))))

/-- R389: who reaches LANE registers. -/
def State.reachLane (s : State) (q : Req) (off : Nat) : Bool :=
  let n := (off - 0x3000000) / 0x1000
  if 96 ≤ n then q.starter
  else adminReq q || (decide (off % 0x1000 < 0x800) && s.perm q VAT.PERM.LANE && s.vatOfLane n == some q.vat)

/-- R414: who reaches FEN and QM registers. -/
def State.reachFen (s : State) (q : Req) (off : Nat) : Bool :=
  let m := (off - 0x4000000) / 0x1000
  if 96 ≤ m then q.starter else adminReq q || (s.perm q VAT.PERM.FEN && s.vatOfLane m == some q.vat)

def State.reachQm (s : State) (q : Req) (off : Nat) : Bool :=
  adminReq q || (decide (0x4900000 ≤ off) && s.perm q VAT.PERM.QM && s.vatOfQueue ((off - 0x4900000) / 0x20) == some q.vat)

/-- R442: the OWNER of a pulse, capture or compare unit. -/
def State.unitOwner (s : State) (off : Nat) : Nat :=
  if off < 0x5003000 then s.rd (TIME.TP_CTL.OWNER ((off - 0x5002000) / 0x40))
  else if off < 0x5004000 then s.rd (TIME.CAP_CTL.OWNER ((off - 0x5003000) / 0x40))
  else s.rd (TIME.CMP_CTL.OWNER ((off - 0x5004000) / 0x40))

/-- R442: an initiator that administers TIME. -/
def timeAdmin (q : Req) : Bool := adminReq q || q.id == ID.timekeeper

def State.reachTime (s : State) (q : Req) (off : Nat) : Bool :=
  timeAdmin q || (s.perm q VAT.PERM.TIME &&
    (if off < 0x5002000 then false
     else if off < 0x5100000 then s.unitOwner off == q.vat
     else s.vatOfLane ((off - 0x5100000) / 0x100) == some q.vat))

/-- R456, R458, R460: who reaches IRQ registers. -/
def State.reachIrq (s : State) (q : Req) (off : Nat) (wr : Bool) : Bool :=
  let mine := s.perm q VAT.PERM.IRQ
  if 0x6002000 ≤ off ∧ off < 0x6003000 then
    if off % 0x40 < 0xC then q.id == procId ((off - 0x6002000) / 0x40) else adminReq q
  else adminReq q ||
    (mine && (if off < 0x6001000 then (off - 0x6000000) / 4 / 32 == q.vat
      else if off < 0x6001080 then !wr && (off - 0x6001000) / 4 == q.vat
      else decide (0x6080000 ≤ off) && (off - 0x6080000) / 0x1000 == q.vat))

/-- R472, R474: who reaches SVC registers. -/
def State.reachSvc (s : State) (q : Req) (off : Nat) : Bool :=
  if 0x6300200 ≤ off ∧ off < 0x6300240 then q.starter
  else if 0x6300240 ≤ off ∧ off < 0x6300280 then q.starter || q.id == ID.timekeeper
  else adminReq q || (decide (0x6400000 ≤ off) && off % 0x1000 != 0 && s.perm q VAT.PERM.SVC
    && s.rd (SVC.OWN.OWNER ((off - 0x6400000) / 0x1000)) == q.vat)

/-- SLC: the slice's vat and the shell; ERR_SUM answers both with the slices each may access. -/
def State.reachSlc (s : State) (q : Req) (off : Nat) : Bool :=
  adminReq q || (s.perm q VAT.PERM.SLC &&
    (decide (0xFF00000 ≤ off) || s.vatOfSector (sectorOfSlice ((off - 0xC000000) / 0x1000)) == q.vat))

/-- R258 and the chapters' own rules: the requester reaches the register at an offset. -/
def State.reaches (s : State) (q : Req) (off : Nat) (wr : Bool) : Bool :=
  let from_ := fun a => decide (a ≤ off)
  if from_ 0xC000000 then s.reachSlc q off
  else if from_ 0xB000000 then adminReq q || (off % 0x100 == 4 && s.perm q VAT.PERM.HIO && (s.hioVats ((off - 0xB000000) / 0x100)).contains q.vat)
  else if from_ 0x9000000 then adminReq q
  else if from_ 0x8000000 then
    if off < 0x8000010 ∨ (0x8000100 ≤ off ∧ off < 0x8000140) then q.starter else adminReq q
  else if from_ 0x7000000 then adminReq q
  else if from_ 0x6300000 then s.reachSvc q off
  else if from_ 0x6200000 then adminReq q || (s.perm q VAT.PERM.DMA && decide (0x6201000 ≤ off) && s.rd (DMA.CH_CTL.VAT ((off - 0x6201000) / 0x100)) == q.vat)
  else if from_ 0x6100000 then if 0x6100010 ≤ off ∧ off < 0x6100030 then q.starter else adminReq q
  else if from_ 0x6000000 then s.reachIrq q off wr
  else if from_ 0x5000000 then s.reachTime q off
  else if from_ 0x4800000 then s.reachQm q off
  else if from_ 0x4000000 then s.reachFen q off
  else if from_ 0x3000000 then s.reachLane q off
  else if from_ 0x300000 then adminReq q
  else if from_ 0x200000 then s.reachVat q off wr
  else if from_ 0x100000 then if 0x100100 ≤ off ∧ off ≤ 0x100300 then q.starter else adminReq q
  else if off = 0x1000C then q.starter
  else adminReq q

/-! Plain registers (R5, R7). -/

/-- The bits of a register whose fields a test accepts. -/
def RegDesc.bits (d : RegDesc) (p : Acc → Bool) : Word :=
  d.flds.foldl (fun m f => if p f.acc then m ||| wmask f.hi f.lo else m) 0

/-- R5: what the stored bits become at a write. -/
def RegDesc.take (d : RegDesc) (old w : Word) : Word :=
  let rw := d.bits (· == .rw)
  let old := (old &&& ~~~ rw) ||| (w &&& rw)
  (old &&& ~~~ (w &&& d.bits (· == .w1c))) ||| (w &&& d.bits (· == .w1s))

/-- R5: a write to a register without a rule of its own. -/
def State.plainWrite (s : State) (off : Nat) (w : Word) : State := match regAt off with
  | some d => s.setReg off (d.take (s.reg off) w)
  | none => s

/-- R5, R7: what the stored bits read as: reserved bits and WO fields read 0. -/
def State.plainRead (s : State) (off : Nat) : Word := match regAt off with
  | some d => s.reg off &&& d.bits (· != .wo)
  | none => 0

/-- R11: a latch of a register pair other than a counter. -/
def State.pairLatch (s : State) (off : Nat) : Word := tget s.latches off 0
def State.setPairLatch (s : State) (off : Nat) (w : Word) : State := { s with latches := tput s.latches off w 0 }

/-! Reads. -/

/-- R95: a queue that is enabled and not empty. -/
def State.queueWork (s : State) : Bool :=
  !s.fen.held.isEmpty || s.regs.any fun (p : Nat × Word) =>
    let q := (p.1 - 0x4900000) / 0x20
    decide (0x4900000 ≤ p.1 ∧ q < 65536 ∧ p.1 % 0x20 = 0) && s.bit (QM.QCFG.EN q)
      && s.rd (QM.PIDX.PIDX q) != s.rd (QM.CIDX.CIDX q)

/-- R95: the work for which a clock of gating group g runs: ports enabled or with frames in flight, queues that are not empty,
DRAM channels outside self-refresh, DMA transfers, an image being processed, tests, the Cellar busy, span links up or with
frames to replay, peripheral transfers and FIFOs that are not empty. -/
def State.groupWork (s : State) (g : Nat) : Bool :=
  let ddr := fun (n : Nat) => let st := s.chState n; st == DS.training || st == DS.ready || st == DS.filling
  let south := fun (m : Nat) => decide (m < 32) || (decide (64 ≤ m) && decide (m < 80))
  let port := fun (m : Nat) =>
    let p := s.fport m
    s.bit (FEN.PORT_CTL.EN m) || s.bit (FEN.PORT_STAT.LINK m) || !p.store.isEmpty || p.wire.isSome || !p.done.isEmpty
  match g with
  | 0 => (List.range 100).any fun m => south m && port m
  | 1 => (List.range 100).any fun m => !south m && port m
  | 2 => s.queueWork
  | 3 => (List.range 4).any ddr
  | 4 => (List.range 4).any fun n => ddr (n + 4)
  | 5 => (List.range 16).any fun c => s.rd (DMA.CH_STAT.STATE c) == 1 || (tget s.dma c {}).owed
  | 6 => s.img.op.isSome || s.img.mod.isSome || s.img.init.isSome
  | 7 => (List.range 4).any fun k => ((s.bistCtl k).map BistRun.live).getD false
  | 8 => (List.range 4).any (fun b => !(s.bank b).ops.isEmpty || (s.bank b).prog.isSome) || !s.cel.waiting.isEmpty
  | 9 => (List.range 4).any fun k => s.bit (SPAN.PORT_STAT.UP k) || !(s.port k).replay.isEmpty
  | 10 => (List.range 20).any fun k => !((s.svcPort k).tx.isEmpty && (s.svcPort k).rx.isEmpty)
  | _ => false

/-- R95: the groups whose clock stops at once when their work ends: DRAM on self-refresh entry, BIST at the end of its tests. -/
def closesAtOnce (g : Nat) : Bool := g == 3 || g == 4 || g == 7

/-- CLK.GATE_STAT (R95). -/
def State.gateStat (s : State) : Word :=
  BitVec.ofNat 32 ((List.range 11).foldl (fun n g =>
    n + if s.mbit CLK.GATE_FORCE.FORCE g || (tget s.clk.open_ g false && !closesAtOnce g) || s.groupWork g then 2 ^ g else 0) 0)

/-- R95: an access opens the clock of its block's group. -/
def State.openGroup (s : State) (off : Nat) : State :=
  let set := fun (g : Nat) => { s with clk := { s.clk with open_ := tput s.clk.open_ g true false } }
  if 0x4000000 ≤ off ∧ off < 0x4800000 then
    let m := (off - 0x4000000) / 0x1000
    set (if m < 32 ∨ (64 ≤ m ∧ m < 80) then 0 else 1)
  else if 0x4800000 ≤ off ∧ off < 0x5000000 then set 2
  else if 0x6400000 ≤ off ∧ off < 0x7000000 then set 10
  else s

/-- CFG.IMG_STAT. -/
def State.imgStat (s : State) : Word :=
  let st := match s.img.op with
    | none => 0
    | some o => if o.kind = 1 then 1 else if o.kind = 4 ∨ o.phase ≤ 2 then 2 else if o.closed = 1 then 4 else 3
  wset (s.reg CFG.IMG_STAT.SRC.off) 31 28 st

/-- R267: SLC registers as they read. -/
def State.slcRead (s : State) (q : Req) (off : Nat) : Word :=
  let g := (off - 0xC000000) / 0x1000
  let x := s.slice g
  if 0xFF00000 ≤ off then
    let w := (off - 0xFF00000) / 4
    BitVec.ofNat 32 ((List.range 32).foldl (fun n b =>
      n + if s.bit (SLC.FLAGS.ILLEGAL (32 * w + b)) && s.reaches q (0xC000000 + 0x1000 * (32 * w + b)) false then 2 ^ b else 0) 0)
  else match off % 0x1000 with
    | 0x04 => s.sliceStat g
    | 0x0C => s.sliceLoop g 0
    | 0x10 => s.sliceLoop g 1
    | 0x18 => x.acc0.v.setWidth 32
    | 0x20 => x.acc1.v.setWidth 32
    | 0x28 => x.cout.setWidth 32
    | 0x1C => s.pairLatch off
    | 0x24 => s.pairLatch off
    | 0x2C => s.pairLatch off
    | r => if 0x30 ≤ r ∧ r < 0x50 then (if r % 8 = 0 then s.sliceAgP g ((r - 0x30) / 8) else s.sliceAgL g ((r - 0x30) / 8))
      else s.plainRead off

/-- Registers of blocks below 0x0300_0000 whose value is computed. -/
def State.viewLow (s : State) (off : Nat) : Word :=
  if 0x200 ≤ off ∧ off < 0x280 then s.fclWord ((off - 0x200) / 0x20) (off % 0x20 / 4)
  else if off = 0x404 then s.gateStat
  else if off = 0x100040 then s.imgStat
  else if 0x101000 ≤ off ∧ off < 0x101400 then
    let v := (off - 0x101000) / 0x40
    match off % 0x40 with
    | 0 => s.roleWord v
    | 4 => (s.role v).verA
    | 8 => (s.role v).verB
    | _ => s.plainRead off
  else if 0x180000 ≤ off ∧ off < 0x200000 then
    let j := (off - 0x180000) / 4
    BitVec.ofNat 32 (s.fstEntry (2 * j) + 65536 * s.fstEntry (2 * j + 1))
  else if off = 0x20100C then 0x3FF
  else if off = 0x300004 then s.churnStat
  else if off = 0x300008 ∨ off = 0x30000C then s.churnPosWord ((off - 0x300008) / 4)
  else if off = 0x300014 then s.pairLatch 0x300014
  else if 0x1020000 ≤ off ∧ off < 0x1021000 ∧ off % 16 = 4 then
    let r := (off - 0x1020000) / 16
    wset (s.plainRead off) 30 30 (s.regZero r).toNat
  else if 0x1040000 ≤ off ∧ off < 0x1080000 ∧ off % 0x100 = 0 then
    wset (s.plainRead off) 30 30 (s.initShared ((off - 0x1040000) / 0x100)).toNat
  else if 0x1040000 ≤ off ∧ off < 0x1080000 ∧ off % 0x100 = 8 then s.initStat ((off - 0x1040000) / 0x100)
  else if 0x1101000 ≤ off ∧ off < 0x1101400 ∧ off % 0x100 = 4 then s.spanStat ((off - 0x1101000) / 0x100)
  else if 0x2000000 ≤ off ∧ off < 0x2080000 ∧ off % 0x10000 = 4 then s.chStat ((off - 0x2000000) / 0x10000)
  else s.plainRead off

/-- Registers of the other blocks whose value is computed. -/
def State.viewHigh (s : State) (off : Nat) : Word :=
  let one := fun (b : Bool) => BitVec.ofNat 32 b.toNat
  if 0x3000000 ≤ off ∧ off < 0x3064000 ∧ off % 0x1000 = 4 then s.laneStat ((off - 0x3000000) / 0x1000)
  else if 0x4000000 ≤ off ∧ off < 0x4064000 ∧ off % 0x1000 = 4 then s.portStat ((off - 0x4000000) / 0x1000)
  else if 0x4801000 ≤ off ∧ off < 0x4801400 ∧ off % 0x40 = 4 then BitVec.ofNat 32 (min (2 ^ 20 - 1) (s.cellsOfVat ((off - 0x4801000) / 0x40)))
  else if 0x4900000 ≤ off ∧ off < 0x4B00000 ∧ off % 0x20 = 0x14 then s.qStat ((off - 0x4900000) / 0x20)
  else if 0x6001000 ≤ off ∧ off < 0x6001080 then s.pendWord ((off - 0x6001000) / 4)
  else if 0x6001200 ≤ off ∧ off < 0x6001210 then s.wakeWord ((off - 0x6001200) / 4)
  else if 0x6002000 ≤ off ∧ off < 0x6002180 ∧ off % 0x40 = 0xC then
    match s.claimable ((off - 0x6002000) / 0x40) with
    | some i => BitVec.ofNat 32 (2 ^ 31 + i)
    | none => 0
  else if 0x6080000 ≤ off ∧ off < 0x6090000 ∧ off % 0x1000 = 8 then BitVec.ofNat 32 (s.vpend ((off - 0x6080000) / 0x1000))
  else if 0x6080000 ≤ off ∧ off < 0x6090000 ∧ off % 0x1000 = 0xC then
    match s.vclaimable ((off - 0x6080000) / 0x1000) with
    | some k => BitVec.ofNat 32 (2 ^ 31 + k)
    | none => 0
  else if off = 0x6300100 then BitVec.ofNat 32 s.mtime
  else if off = 0x6300104 then BitVec.ofNat 32 (s.mtime / 2 ^ 32)
  else if 0x6400000 ≤ off ∧ off < 0x6414000 ∧ off % 0x1000 = 0x10 then
    let k := (off - 0x6400000) / 0x1000
    if s.bit (SVC.OWN.MODE k) then 0 else s.rxPeek k
  else if 0x6400000 ≤ off ∧ off < 0x6414000 ∧ off % 0x1000 = 0x14 then s.svcStat ((off - 0x6400000) / 0x1000)
  else if 0x7000000 ≤ off ∧ off < 0x7000400 then
    let h := (off - 0x7000000) / 0x100
    match off % 0x100 with
    | 0x04 => s.mpStat h
    | 0x08 => s.mpSid h
    | 0x18 => (Config.mpMac h).setWidth 32
    | 0x1C => (Config.mpMac h >>> 32).setWidth 32
    | _ => s.plainRead off
  else if off = 0x7100004 then s.dbgStat
  else if 0x9000000 ≤ off ∧ off < 0x9000400 ∧ off % 0x100 = 4 then s.bistStat ((off - 0x9000000) / 0x100)
  else if off = 0x9001000 then BitVec.ofNat 32 s.fuseFree
  else if off = 0xA000000 then BitVec.ofNat 32 s.lcs.code ||| (one s.lcs.eraseDone <<< 31)
  else if off = 0xA000004 then
    BitVec.ofNat 32 ((List.range 9).foldl (fun n k =>
      n + (if (s.lcs.defer.any fun d => d.slot == k) then 2 ^ (16 + k) else 0) + if (tget s.lcs.keys k none).isSome then 2 ^ k else 0) 0)
  else if 0xA000010 ≤ off ∧ off < 0xA000020 then (Config.uid >>> (32 * ((off - 0xA000010) / 4))).setWidth 32
  else if 0xB000000 ≤ off ∧ off < 0xB000C00 ∧ off % 0x100 = 4 then s.hioStat ((off - 0xB000000) / 0x100)
  else s.plainRead off

/-- What a register that exists reads as, without the effects of the read. -/
def State.view (s : State) (q : Req) (off : Nat) : Word :=
  if 0xC000000 ≤ off then s.slcRead q off
  else if off < 0x3000000 then s.viewLow off
  else s.viewHigh off

/-- R11: a read of the lower half of an accumulator or of COUT latches its upper half. -/
def State.slcPop (s : State) (q : Req) (off : Nat) : Word × State :=
  let x := s.slice ((off - 0xC000000) / 0x1000)
  let v : BitVec 64 := match off % 0x1000 with
    | 0x18 => x.acc0.v
    | 0x20 => x.acc1.v
    | _ => x.cout
  (s.view q off, s.setPairLatch (off + 4) ((v >>> 32).setWidth 32))

/-- R5, R6, R11: a read of a register that exists: its value, and what the read does. -/
def State.readReg (s : State) (q : Req) (off : Nat) : Word × State :=
  if off = 0x300010 then (s.plainRead off, s.setPairLatch 0x300014 (s.plainRead 0x300014))
  else if 0x200 ≤ off ∧ off < 0x280 then s.fclRead ((off - 0x200) / 0x20) (off % 0x20 / 4)
  else if off = 0x4800010 then (s.bufStat, { s with fen := { s.fen with full := false } })
  else if 0x5003000 ≤ off ∧ off < 0x5003240 ∧ off % 0x40 = 0x08 then s.capPop ((off - 0x5003000) / 0x40) true
  else if 0x5003000 ≤ off ∧ off < 0x5003240 ∧ off % 0x40 = 0x14 then s.capPop ((off - 0x5003000) / 0x40) false
  else if 0x5100000 ≤ off ∧ off < 0x5106000 ∧ off % 0x100 = 0x14 then s.tsqPop ((off - 0x5100000) / 0x100) true
  else if 0x5100000 ≤ off ∧ off < 0x5106000 ∧ off % 0x100 = 0x24 then s.tsqPop ((off - 0x5100000) / 0x100) false
  else if 0x6002000 ≤ off ∧ off < 0x6002180 ∧ off % 0x40 = 4 then s.claimRead ((off - 0x6002000) / 0x40)
  else if 0x6080000 ≤ off ∧ off < 0x6090000 ∧ off % 0x1000 = 0 then s.vclaimRead ((off - 0x6080000) / 0x1000)
  else if 0x6400000 ≤ off ∧ off < 0x6414000 ∧ off % 0x1000 = 0xC then
    let k := (off - 0x6400000) / 0x1000
    if s.bit (SVC.OWN.MODE k) then (0, s) else s.rxPop k
  else if 0xC000000 ≤ off ∧ off < 0xFF00000 ∧ (off % 0x1000 = 0x18 ∨ off % 0x1000 = 0x20 ∨ off % 0x1000 = 0x28) then s.slcPop q off
  else (s.view q off, s)

/-! Writes. -/

/-- A write with an answer: SLVERR and nothing changed where the handler answers false or none. -/
def orNone (s : State) : Option State → State × Bool
  | some t => (t, true)
  | none => (s, false)

/-- CLK, PWR and CFG. -/
def State.writeClkCfg (s : State) (off : Nat) (w : Word) : State × Bool :=
  let v := (off - 0x101000) / 0x40
  if off = 0 then s.rootCtrlWrite w
  else if 0x100 ≤ off ∧ off < 0x140 then s.divWrite ((off - 0x100) / 4) w
  else if 0x200 ≤ off ∧ off < 0x280 then s.fclWrite ((off - 0x200) / 0x20) (off % 0x20 / 4) w
  else if 0x300 ≤ off ∧ off < 0x310 then s.oscWrite ((off - 0x300) / 4) w
  else if off = 0x408 ∧ wget w 15 0 = 0 then (s, false)
  else if off = 0x10004 then s.pwrCmdWrite w
  else if off = 0x1000C then (s.rstCtlWrite w, true)
  else if off = 0x100000 then s.cfgOpWrite w
  else if off = 0x100100 then (s.fwWrite w, true)
  else if 0x101000 ≤ off ∧ off < 0x101400 then
    let r := off % 0x40
    if r = 0x0C ∧ (wget w 15 0 = 0 ∨ 60000 < wget w 15 0) then (s, false)
    else if 0x14 ≤ r ∧ r < 0x24 ∧ s.bit (CFG.ARM_CTL.ARMED v) then (s, false)
    else (s.plainWrite off w, true)
  else (s.plainWrite off w, true)

/-- VAT and CHURN. -/
def State.writeVat (s : State) (q : Req) (off : Nat) (w : Word) : State × Bool :=
  let v := (off - 0x201000) / 0x100
  let r := off % 0x100
  if 0x201000 ≤ off ∧ off < 0x202000 then
    if r = 0 then s.vatCtrlWrite v w
    else if 8 ≤ r ∧ r < 0x30 then s.assignWrite v ((r - 8) / 4) w
    else if 0x40 ≤ r ∧ r < 0x54 then s.mregWrite v ((r - 0x40) / 4) w
    else if r = 0x6C then (s.mloadWrite q.id q.vat v w, true)
    else (s.plainWrite off w, true)
  else if off = 0x300000 then (s.churnCtlWrite w, true)
  else (s.plainWrite off w, true)

/-- R312: a map entry is refused where VALID would be set with a BASE bit below SIZE, or KIND 3 beyond column 15. -/
def State.mapBadWrite (s : State) (e : Nat) (ctl : Word) : Bool :=
  let base := (s.reg (NOC.MAP_LO.BASE e).off).toNat + 2 ^ 32 * s.rd (NOC.MAP_HI.BASE e)
  let t := s.reg (NOC.MAP_TGT.KIND e).off
  ctl.getLsbD 31 && (base % 2 ^ wget ctl 21 16 != 0
    || (wget t 15 14 == 3 && decide (15 < wget t 7 4 + 2 ^ wget t 13 12 - 1)))

/-- NOC and SPAN. -/
def State.writeNoc (s : State) (off : Nat) (w : Word) : State × Bool :=
  if off = 0x1000010 then (if w.getLsbD 0 then s.wrb NOC.MAP_SYNC.BUSY true else s, true)
  else if 0x1001000 ≤ off ∧ off < 0x1001400 ∧ off % 16 = 8 then
    if s.mapBadWrite ((off - 0x1001000) / 16) w then (s, false) else (s.plainWrite off w, true)
  else if 0x1020000 ≤ off ∧ off < 0x1021000 ∧ off % 16 = 0 then
    if wget w 27 16 = 0 ∨ 48000 < wget w 15 0 then (s, false)
    else
      let r := (off - 0x1020000) / 16
      (((s.burstTo r (wget w 27 16)).plainWrite off w).drawFrom r, true)
  else if 0x1040000 ≤ off ∧ off < 0x1080000 ∧ off % 0x100 = 0 then
    let i := (off - 0x1040000) / 0x100
    (if w.getLsbD 31 then s.bindReg i else s.unbindReg i, true)
  else if 0x1040000 ≤ off ∧ off < 0x1080000 ∧ off % 0x100 = 4 then
    if wget w 19 0 = 0 ∨ 1000000 < wget w 19 0 then (s, false) else (s.plainWrite off w, true)
  else if off = 0x1100000 then
    if (List.range 4).any fun k => s.bit (SPAN.PORT_CTL.EN k) then (s, false) else (s.plainWrite off w, true)
  else if 0x1101000 ≤ off ∧ off < 0x1101400 ∧ off % 0x100 = 0 then
    let k := (off - 0x1101000) / 0x100
    let was := s.bit (SPAN.PORT_CTL.EN k)
    if wget w 15 0 = 0 ∨ (was ∧ wget w 21 20 ≠ s.rd (SPAN.PORT_CTL.WIDTH k)) then (s, false)
    else
      let s := s.plainWrite off w
      (if was != w.getLsbD 31 then s.spanEnable k (w.getLsbD 31) else s, true)
  else (s.plainWrite off w, true)

/-- DDR (R370): a channel that is ABSENT refuses every write. -/
def State.writeDdr (s : State) (off : Nat) (w : Word) : State × Bool :=
  let n := (off - 0x2000000) / 0x10000
  if off = 0x2080000 then orNone s (s.geomWrite w)
  else if 0x2080000 ≤ off then (s.plainWrite off w, true)
  else match off % 0x10000 with
    | 0 => orNone s (s.chCtlWrite n w)
    | 8 => orNone s (s.ddrRefWrite n w)
    | 0xC => orNone s (s.spareWrite n w)
    | _ => if s.chState n = DS.absent then (s, false) else (s.plainWrite off w, true)

/-- LANE. -/
def State.writeLane (s : State) (off : Nat) (w : Word) : State × Bool :=
  let n := (off - 0x3000000) / 0x1000
  match off % 0x1000 with
  | 0x00 => orNone s (s.laneCtlWrite n w)
  | 0x08 => orNone s (s.txEqWrite n w)
  | 0x0C => orNone s (s.txFirWrite n w)
  | 0x20 => orNone s (s.prbsWrite n w)
  | 0x28 => orNone s (s.injWrite n w)
  | 0x70 => ((s.plainWrite off w).laneIrq n, true)
  | 0x74 => ((s.plainWrite off w).laneIrq n, true)
  | 0x800 => orNone s (s.qpllWrite (n / 4) 0 w)
  | 0x804 => orNone s (s.qpllWrite (n / 4) 1 w)
  | 0x810 => orNone s (s.qrefWrite (n / 4) w)
  | _ => (s.plainWrite off w, true)

/-- FEN and QM. -/
def State.writeFen (s : State) (off : Nat) (w : Word) : State × Bool :=
  let m := (off - 0x4000000) / 0x1000
  let n := (off - 0x4900000) / 0x20
  if off < 0x4800000 then match off % 0x1000 with
    | 0x00 => s.portCtlWrite m w
    | 0x10 => s.txCfgWrite m w
    | 0x18 => s.fcTxWrite m w
    | 0x20 => ((s.plainWrite off w).fenIrq m, true)
    | 0x24 => ((s.plainWrite off w).fenIrq m, true)
    | _ => (s.plainWrite off w, true)
  else if off < 0x4900000 then
    if off = 0x4800014 then s.qResumeWrite w
    else if off < 0x4800008 then s.ovfWrite off 0xFFFFFFFF w
    else if off < 0x4800010 then s.ovfWrite off 0xFFFF w
    else (s.plainWrite off w, true)
  else match off % 0x20 with
    | 0x00 => s.qCfgWrite n w
    | 0x0C => s.pidxWrite n w
    | _ => (s.plainWrite off w, true)

/-- TIME. An enabled pulse unit refuses all but its EN bit; an armed compare refuses its instant. -/
def State.writeTime (s : State) (q : Req) (off : Nat) (w : Word) : State × Bool :=
  let own := timeAdmin q
  if off = 0x5000000 then s.tclkWrite w
  else if 0x5001000 ≤ off ∧ off < 0x5002000 then
    let b := (off - 0x5001000) / 0x100
    match off % 0x100 with
    | 0x00 => s.tbCtlWrite b w
    | 0x0C => s.rateWrite b w
    | _ => (s.plainWrite off w, true)
  else if 0x5002000 ≤ off ∧ off < 0x5003000 then
    let k := (off - 0x5002000) / 0x40
    if off % 0x40 = 0 then s.tpCtlWrite own k w
    else if s.bit (TIME.TP_CTL.EN k) then (s, false) else (s.plainWrite off w, true)
  else if 0x5003000 ≤ off ∧ off < 0x5004000 then
    if off % 0x40 = 0 then s.capCtlWrite own ((off - 0x5003000) / 0x40) w else (s.plainWrite off w, true)
  else if 0x5004000 ≤ off ∧ off < 0x5005000 then
    let i := (off - 0x5004000) / 0x40
    if off % 0x40 = 0 then s.cmpCtlWrite own i w
    else if off % 0x40 < 0x10 ∧ s.bit (TIME.CMP_CTL.ARM i) then (s, false)
    else (s.plainWrite off w, true)
  else if 0x5100000 ≤ off ∧ off < 0x5106000 ∧ off % 0x100 = 0 then s.ptpWrite ((off - 0x5100000) / 0x100) w
  else (s.plainWrite off w, true)

/-- IRQ. -/
def State.writeIrq (s : State) (q : Req) (off : Nat) (w : Word) : State × Bool :=
  if off < 0x6001000 then s.srcCfgWrite (adminReq q) ((off - 0x6000000) / 4) w
  else if off < 0x6001080 then (s.pendWrite ((off - 0x6001000) / 4) w, true)
  else if off = 0x6001100 then s.swiWrite w
  else if 0x6001200 ≤ off ∧ off < 0x6001210 then (s.wakeLatWrite ((off - 0x6001200) / 4) w, true)
  else if 0x6002000 ≤ off ∧ off < 0x6002180 then
    if off % 0x40 = 8 then (s.complete ((off - 0x6002000) / 0x40) (wget w 9 0), true) else ((s.plainWrite off w).reoffer, true)
  else if 0x6080000 ≤ off ∧ off < 0x6090000 then
    (if off % 0x1000 = 4 then s.vcompleteWrite ((off - 0x6080000) / 0x1000) w else s, true)
  else (s.plainWrite off w, true)

/-- SCP, DMA and SVC. -/
def State.writeSvc (s : State) (q : Req) (off : Nat) (w : Word) : State × Bool :=
  let k := (off - 0x6400000) / 0x1000
  if off < 0x6200000 then
    let j := (off - 0x6100010) / 8
    if 0x6100010 ≤ off ∧ off < 0x6100030 then (if off % 8 = 0 then s.scrBaseWrite j w else s.scrLockWrite j w)
    else (s.plainWrite off w, true)
  else if off < 0x6300000 then
    let c := (off - 0x6201000) / 0x100
    match off % 0x100 with
    | 0x00 => s.dmaCtlWrite (adminReq q) c w
    | 0x0C => ((s.plainWrite off w).dmaIrq c, true)
    | _ => (s.plainWrite off w, true)
  else if off < 0x6400000 then
    if off < 0x63000A0 ∧ off % 0x20 = 0 then (s.coreCtlWrite ((off - 0x6300000) / 0x20) w, true)
    else if 0x6300110 ≤ off ∧ off < 0x6300130 then ((s.plainWrite off w).mtip ((off - 0x6300110) / 8), true)
    else (s.plainWrite off w, true)
  else match off % 0x1000 with
    | 0x00 => if s.svcEn k then (s, false) else (s.plainWrite off w, true)
    | 0x04 => s.svcCfgWrite k w
    | 0x08 => if s.bit (SVC.OWN.MODE k) then (s, false) else s.txPush k (w.setWidth 16)
    | 0x18 => ((s.plainWrite off w).svcIrq k, true)
    | 0x1C => ((s.plainWrite off w).svcIrq k, true)
    | _ => (s.plainWrite off w, true)

/-- MGT, DBG, CEL, BIST, LCS and HIO. -/
def State.writeRest (s : State) (off : Nat) (w : Word) : State × Bool :=
  if 0x7000000 ≤ off ∧ off < 0x7000400 ∧ off % 0x100 = 0 then s.mpCtlWrite ((off - 0x7000000) / 0x100) w
  else if 0x7000000 ≤ off ∧ off < 0x7000400 ∧ off % 0x100 = 0xC then
    if wget w 31 20 = 0 ∨ 3600 < wget w 31 20 ∨ wget w 19 0 < 100 ∨ 1000000 < wget w 19 0 then (s, false)
    else (s.plainWrite off w, true)
  else if off = 0x7100000 then (s.dbgLock w, true)
  else if off = 0x8000000 then s.celCmdWrite w
  else if 0x8000010 ≤ off ∧ off < 0x8000020 then ((s.plainWrite off w).celIrq, true)
  else if 0x9000000 ≤ off ∧ off < 0x9000400 ∧ off % 0x100 = 0 then s.bistCmdWrite ((off - 0x9000000) / 0x100) w
  else if 0x9000000 ≤ off ∧ off < 0x9000400 ∧ off % 0x100 = 4 then ((s.plainWrite off w).bistIrq, true)
  else if 0xB000000 ≤ off ∧ off < 0xB000C00 ∧ off % 0x100 = 0 then
    (s.hioRange ((off - 0xB000000) / 0x100) (wget w 1 0), true)
  else (s.plainWrite off w, true)

/-- SLC. -/
def State.writeSlc (s : State) (off : Nat) (w : Word) : State × Bool :=
  let g := (off - 0xC000000) / 0x1000
  if 0xFF00000 ≤ off then (s, true)
  else match off % 0x1000 with
    | 0x00 => (s.slcCtlWrite g w, true)
    | 0x08 => (s.slcFlagsWrite g w, true)
    | 0x50 => orNone s (s.inspWrite g w)
    | _ => (s.plainWrite off w, true)

/-- A write to a register that exists: false is SLVERR. A refused CLK write still records its refusal (R93). -/
def State.writeReg (s : State) (q : Req) (off : Nat) (w : Word) : State × Bool :=
  if off < 0x200000 then s.writeClkCfg off w
  else if off < 0x1000000 then s.writeVat q off w
  else if off < 0x2000000 then s.writeNoc off w
  else if off < 0x3000000 then s.writeDdr off w
  else if off < 0x4000000 then s.writeLane off w
  else if off < 0x5000000 then s.writeFen off w
  else if off < 0x6000000 then s.writeTime q off w
  else if off < 0x6100000 then s.writeIrq q off w
  else if off < 0x7000000 then s.writeSvc q off w
  else if off < 0xC000000 then s.writeRest off w
  else s.writeSlc off w

/-! Balls (R577). -/

/-- R497, R577: ALARM_N is low, or high impedance. -/
def State.alarmBall (s : State) : PinLevel := s.ball 1946 (if s.alarm then .low else .z)

/-- R440, R577: ball TPk: the level of its pulse unit, or high impedance. -/
def State.tpBall (s : State) (k : Nat) : PinLevel := s.ball (1949 + k) (match s.tpLevel k with
  | none => .z
  | some v => if v then .high else .low)

/-! Accesses. -/

/-- SLC: a slice whose vat is in vat reset, swapping or power-gated answers TARGET_RESET. -/
def State.sliceAsleep (s : State) (off : Nat) : Bool :=
  let v := s.vatOfSector (sectorOfSlice ((off - 0xC000000) / 0x1000))
  decide (0xC000000 ≤ off) && decide (off < 0xFF00000) && decide (v < 16)
    && (s.bit (VAT.VAT_STAT.IN_RESET v) || s.bit (VAT.VAT_STAT.SWAPPING v) || s.bit (VAT.VAT_STAT.GATED v))

/-- R4, R40, R258: how an access to n bytes at an offset is answered before the register itself is reached. -/
def State.busCheck (s : State) (q : Req) (off n : Nat) (wr : Bool) : Status :=
  if 0x10000000 ≤ off then .decerr
  else if off % 4 ≠ 0 ∨ n ≠ 4 then .slverr
  else if (regAt off).isNone && !ctrAt off && !(decide (4 ≤ off) && ctrAt (off - 4)) then .slverr
  else if !s.reaches q off wr then .slverr
  else if s.sliceAsleep off then .targetReset
  else .okay

/-- R6: the inspection alias of an RC or pop register; any other register is its own. -/
def aliasOf (off : Nat) : Nat :=
  if 0x5003000 ≤ off ∧ off < 0x5003240 ∧ off % 0x40 = 0x08 then off + 0xC
  else if 0x5100000 ≤ off ∧ off < 0x5106000 ∧ off % 0x100 = 0x14 then off + 0x10
  else if 0x6002000 ≤ off ∧ off < 0x6002180 ∧ off % 0x40 = 4 then off + 8
  else if 0x6080000 ≤ off ∧ off < 0x6090000 ∧ off % 0x1000 = 0 then off + 0xC
  else if 0x6400000 ≤ off ∧ off < 0x6414000 ∧ off % 0x1000 = 0xC then off + 4
  else off

/-- A register read by a requester; the Yapin monitor reads RC and pop registers through their aliases (R6). -/
def State.busRead (s : State) (q : Req) (off n : Nat) : State × Status × Word :=
  let off := if q.insp then aliasOf off else off
  match s.busCheck q off n false with
  | .okay =>
    let s := s.openGroup off
    if ctrAt off then ((s.ctrLatch off), .okay, BitVec.ofNat 32 (s.ctr off).val)
    else if decide (4 ≤ off) && ctrAt (off - 4) && (regAt off).isNone then (s, .okay, (s.ctr (off - 4)).latch)
    else
      let r := s.readReg q off
      (r.2, .okay, r.1)
  | st => (s, st, 0)

/-- A register write by a requester. -/
def State.busWrite (s : State) (q : Req) (off n : Nat) (w : Word) : State × Status :=
  match s.busCheck q off n true with
  | .okay =>
    let s := s.openGroup off
    if ctrAt off then (s, .okay)
    else if decide (4 ≤ off) && ctrAt (off - 4) && (regAt off).isNone then
      let absent := decide (0x2000000 ≤ off) && decide (off < 0x2080000) && s.chState ((off - 0x2000000) / 0x10000) == DS.absent
      if absent then (s, .slverr) else (if w.getLsbD 30 then s.ctrClear (off - 4) else s, .okay)
    else
      let r := s.writeReg q off w
      (r.1, if r.2 then .okay else .slverr)
  | st => (s, st)

/-- The answer a requester receives. -/
def State.tell (s : State) (st : Status) (data : List Byte) : State := { s with answer := some ⟨st, data⟩ }

/-- A write by a requester, with its answer recorded; nothing while no initiator can reach the registers. -/
def State.busPut (s : State) (q : Req) (off : Nat) (w : Word) : State :=
  if s.islandUp then
    let r := s.busWrite q off 4 w
    r.1.tell r.2 []
  else s

/-- A read by a requester, with its answer recorded. -/
def State.busGet (s : State) (q : Req) (off : Nat) : State :=
  if s.islandUp then
    let r := s.busRead q off 4
    r.1.tell r.2.1 (if r.2.1 = .okay then leBytes 4 r.2.2.toNat else [])
  else s

end Sys2Proof.Machine
end

