-- ==== Sys2Proof/Machine/Access.lean ====
section
/-! DEFINITION. Requests at their targets and responses at their initiators (R300, R301, R316), and the accesses the
device's own engines make (queue manager, DMA, Rennet, Starter), each carried out with its answer in one step. -/

namespace Sys2Proof.Machine

/-- R34: the offset of an address in the register window. -/
def regOff (a : Nat) : Nat := a % 2 ^ 42 - 0x03FF00000000

/-- R301: an attachment serves the addresses of its own block; a fabric NoC port serves what its map entries send. -/
def State.belongs (s : State) (id a : Nat) : Bool := match regionOf a with
  | .dram => id == ID.ddr (s.chanOf a) || (decide (64 ≤ id) && decide (id < 960) && id % 4 != 3)
  | .vatWin _ => decide (64 ≤ id) && decide (id < 960) && id % 4 != 3
  | .dm p => id == ID.dm p
  | .scratch => id == ID.scratch (a / 64 % 2)
  | .cellar => id == ID.cellar
  | .regs => id == ID.regFabric
  | .gap => false

/-- The vat a remote request acts for is that of its span port (R331): its INIT names an initiator of another device. -/
def State.reqOf (s : State) (m : Moving) : Req :=
  let here := m.f.srcDev == s.rd SPAN.DEVNUM.NUM
  ⟨if here then m.f.ini else 1024, m.vat, here && m.f.ini == ID.starter, false⟩

/-- A register access by a request flit: the register fabric passes it to the block that owns the offset. -/
def State.regAccess (s : State) (q : Req) (f : Flit) : State × Status × BitVec 512 :=
  let sh := 8 * (f.addr % 64)
  if f.op = 0 then
    let r := s.busRead q (regOff f.addr) (f.len + 1)
    (r.1, r.2.1, (r.2.2.setWidth 512) <<< sh)
  else
    let r := s.busWrite q (regOff f.addr) (f.len + 1) ((f.payload >>> sh).setWidth 32)
    (r.1, r.2, 0)

/-- R347: a request at a channel's input. -/
def State.dreq (s : State) (m : Moving) : DReq :=
  ⟨some m, m.vat, m.f.op == 1, s.lineOf m.f.addr, m.f.addr % 64, m.f.len, m.f.qos, m.f.payload, m.f.poison, 0⟩

/-- R308: a status user logic answers; the POISON of its response is its own too. -/
def userStatus (n : Nat) : Status := statusOf n

/-- TARGET_REQUEST_ARRIVAL (R301): the request at the head of a buffer of an attachment. A channel's input takes 16 of a
source (R347), and none once a power command acts (R535); a fabric port of a vat in reset or swapping answers TARGET_RESET at once (R37). -/
def execTargetRequestArrival (a : Fin 1024) (vc : Fin 4) (x : UserAns) (s : State) : Host.Outcome State Fault Refusal :=
  let l := tget s.noc.target a []
  match l.find? fun m => m.inp == vc.val with
  | none => .next s
  | some m =>
    let pop : State := { s with noc := { s.noc with target := tput s.noc.target a (removeOne m l) [] } }
    let serve := fun (id : Nat) => ({ pop with noc := { pop.noc with serve := tput pop.noc.serve id (tget pop.noc.serve id [] ++ [m]) [] } } : State)
    if 1 < m.f.op ∨ s.belongs a m.f.addr = false then .next (pop.bump NOC.HDR_ERR_CNT)
    else if 64 ≤ a.val ∧ a.val < 960 ∧ a.val % 4 ≠ 3 then
      let v := s.vatOfSector ((a.val - 64) / 4)
      if 16 ≤ v ∨ s.clamped v then .next (pop.respond a m .targetReset 0)
      else .next (pop.sendRsp a m { respFlit m.f (userStatus x.status.val) x.data with poison := x.poison })
    else match regionOf m.f.addr with
      | .dram => if s.pwr.entry.isSome then .next s else
        let n := s.chanOf m.f.addr
        let c := s.chan n
        if 16 ≤ (tget c.inq m.vat []).length then .next s
        else .next (pop.setChan n { c with inq := tput c.inq m.vat (tget c.inq m.vat [] ++ [s.dreq m]) [] })
      | .regs =>
        let r := pop.regAccess (s.reqOf m) m.f
        .next (r.1.respond a m r.2.1 r.2.2)
      | _ => .next (serve a)

/-- RESPONSE_ARRIVAL (R301, R316, R449): the response at the head of an initiator's buffer is delivered or discarded; a flit
whose OP is no response's is discarded and counted (notes/assumptions/83.md). `x`: the load or fetch that waits for it. -/
def execResponseArrival (i : Fin 1024) (cycles : Nat) (x : Option CpuLoad) (s : State) : Host.Outcome State Fault Refusal :=
  match tget s.noc.resp i [] with
  | [] => .next s
  | m :: t =>
    let s : State := { s with noc := { s.noc with resp := tput s.noc.resp i t [] } }
    if m.f.op ≠ 8 ∧ m.f.op ≠ 9 then .next (s.bump NOC.HDR_ERR_CNT)
    else
    let r := s.takeResponse i m cycles
    .next (if r.2 then r.1.loadAnswered i (statusOf m.f.status) x else r.1)

/-- INITIATOR_TIMEOUT (R315, R449): TIMEOUT is delivered for a tag in use, TMO_CNT counts, and the tag goes to quarantine. -/
def execInitiatorTimeout (i t : Fin 1024) (x : Option CpuLoad) (s : State) : Host.Outcome State Fault Refusal :=
  match s.tag i.val t.val with
  | none => .next s
  | some y =>
    if y.quar || y.orphan then .next s
    else
      let s := ((s.setTag i.val t.val { y with quar := true }).deliver i.val t.val .timeout 0 false).bump (NOC.TMO_CNT i.val)
      .next (s.loadAnswered i .timeout x)

/-! Accesses of the device's own engines. -/

/-- R314, R318: an engine's initiator cannot send: every tag is in use, or its regulator stops it. The engine waits, so its rows do
nothing. -/
def State.initHeld (s : State) (i : Nat) : Bool :=
  (s.tagsOf i).length == 1024 || match s.regulatorOf i with
    | some r => s.regStops i r
    | none => false

/-- R318: an access of an engine waits for its regulator's bucket: the fills that leave it with more than 0 bytes pass, and
RSTALL_CNT counts them, for a number of NOC cycles that is a free value (notes/assumptions/83.md). -/
def State.bucketWait (s : State) (i : Nat) : State := match s.regulatorOf i with
  | none => s
  | some r =>
    let u := tget s.noc.used r 0
    let full := s.rd (NOC.REG_CFG.BURST r) * 64
    let fill := 2 * s.rd (NOC.REG_CFG.RATE r)
    if s.bit (NOC.REG_CFG.UNLIM r) ∨ u < full ∨ fill = 0 then s
    else
      let x := s.fresh
      ({ x.2 with noc := { x.2.noc with used := tput x.2.noc.used r (u - ((u - full) / fill + 1) * fill) 0 } } : State).bump
        (NOC.RSTALL_CNT i) (Config.freeNat x.1)

/-- R314: the tag an access of an engine takes: the lowest that is free; where a run of accesses has used up the last, it waits
for one in quarantine (notes/assumptions/83.md). -/
def State.engineTag (s : State) (i : Nat) : Nat :=
  ((List.range 1024).find? fun t => (s.tag i t).isNone).getD
    (((s.tagsOf i).find? fun p => p.2.quar).map (·.1 % 1024) |>.getD 0)

/-- R312, R317, R329, R330: a request of an engine to another device goes to the span gateway: DECERR without a route, lost at a
port that is not up, else sent there; what the far device answers is free (notes/assumptions/83.md). -/
def State.farAccess (s : State) (f : Flit) (free : State → State × Status × BitVec 512) : State × Status × BitVec 512 :=
  if !s.bit (SPAN.RT.VALID f.dev) then (s, .decerr, 0)
  else
    let k := s.rd (SPAN.RT.PORT f.dev)
    let up := s.bit (SPAN.PORT_STAT.UP k)
    let s := s.spanQueue k f 15
    if up then free s else (s, .timeout, 0)

/-- R344 to R346: a request of the store is carried out: a whole-line write was answered when it was admitted. -/
def State.serveStored (s : State) (n : Nat) (q : DReq) : State :=
  let vat := q.from?.map (·.vat)
  if !q.wr then
    let r := s.readLine n q.line [] vat
    (r.1.answerDram n q r.2.st r.2.data).bump (DDR.RD_CNT n)
  else if q.len = 63 then
    (s.storeLine n q.line q.data q.poison).bump (if q.from?.isSome then DDR.WR_CNT n else DDR.WB_CNT n)
  else
    let l := (s.chan n).line (s.physRank n q.line) (q.line % 2 ^ 30)
    let s := s.storeLine n q.line (mergeLine l.data q.data q.off q.len) (l.poison || q.poison)
    ((s.bump (DDR.PART_CNT n)).bump (DDR.WR_CNT n)).answerDram n q .okay 0

/-- R346: the requests of the store for a line are carried out, in order, before a later one. -/
def State.flushLine (s : State) (n line : Nat) : State :=
  let c := s.chan n
  (c.store.filter fun p => p.line == line).foldl (fun s q => s.serveStored n q)
    (s.setChan n { c with store := c.store.filter fun p => p.line != line })

/-- A request of an engine at a DRAM channel, answered at once. A channel that admits nothing lets the request time out. -/
def State.dramAccess (s : State) (f : Flit) (vat : Nat) : State × Status × BitVec 512 :=
  let n := s.chanOf f.addr
  let line := s.lineOf f.addr
  let q : DReq := ⟨none, vat, f.op == 1, line, f.addr % 64, f.len, f.qos, f.payload, f.poison, 0⟩
  let b := s.fillBars n q
  if !s.chOpen n then (s, .timeout, 0)
  else if b.2 then (b.1.bump (DDR.LN_CNT n vat), .slverr, 0)
  else
    let s := (b.1.bump (DDR.LN_CNT n vat)).flushLine n line
    if f.op = 0 then
      let r := s.readLine n line [] (some vat)
      (r.1.bump (DDR.RD_CNT n), r.2.st, r.2.data)
    else
      let s := s.setChan n ((s.chan n).dropBack line)
      if f.len = 63 then ((s.storeLine n line f.payload f.poison).bump (DDR.WR_CNT n), .okay, 0)
      else
        let l := (s.chan n).line (s.physRank n line) (line % 2 ^ 30)
        let s := s.storeLine n line (mergeLine l.data f.payload (f.addr % 64) f.len) (l.poison || f.poison)
        ((s.bump (DDR.PART_CNT n)).bump (DDR.WR_CNT n), .okay, 0)

/-- Where a request of an engine is served. User logic and far devices answer what they answer: a free value. A memory under
self-test holds the request and serves it after the restore (R197, R553); whether its initiator has timed out by then is
free. -/
def State.serveAccess (s : State) (q : Req) (f : Flit) : State × Status × BitVec 512 :=
  let free := fun (s : State) =>
    let r := s.fresh
    (r.2, statusOf (Config.freeNat r.1 % 5), if f.op = 0 then lineBytes (f.addr % 64) f.len (Config.freeLine r.1) else 0)
  let id := 64 * f.row + 4 * f.col + f.port
  if f.dev ≠ s.rd SPAN.DEVNUM.NUM then
    s.farAccess f fun s =>
      let r := s.fresh
      (r.2, statusOf (Config.freeNat r.1 % 6), if f.op = 0 then lineBytes (f.addr % 64) f.len (Config.freeLine r.1) else 0)
  else if !s.belongs id f.addr then (s.bump NOC.HDR_ERR_CNT, .timeout, 0)
  else if 64 ≤ id ∧ id < 960 ∧ id % 4 ≠ 3 then
    let v := s.vatOfSector ((id - 64) / 4)
    if 16 ≤ v ∨ s.clamped v then (s, .targetReset, 0) else free s
  else match regionOf f.addr with
    | .dram => s.dramAccess f q.vat
    | .dm p =>
      let m : Moving := ⟨f, 0, 0, 0, q.vat, 0, 0⟩
      match s.dmRefuse p m with
      | some st => (s, st, 0)
      | none =>
        let r := s.dmNoc p f []
        if s.mem.test.contains (true, p) then
          let t := r.2.2.fresh
          (t.2, if Config.freeBit t.1 then .timeout else r.1, if Config.freeBit t.1 then 0 else r.2.1)
        else (r.2.2, r.1, r.2.1)
    | .scratch =>
      let r := s.scrServe q.id f []
      if s.scr.test.contains (scrBank f.addr) then
        let t := r.2.2.fresh
        (t.2, if Config.freeBit t.1 then .timeout else r.1, if Config.freeBit t.1 then 0 else r.2.1)
      else (r.2.2, r.1, r.2.1)
    | .cellar =>
      if f.op ≠ 0 ∨ s.celMayRead q.id = false then (s, .slverr, 0)
      else (s.celSuspends (celOff f / 2 ^ 27), .okay, s.celLine (celOff f))
    | .regs => s.regAccess q f
    | _ => (s, .decerr, 0)

/-- R312 to R321: what the initiator's statistics count of an access and its answer; the round trip's length is open. A tag that
times out goes to quarantine (R315). -/
def State.countAccess (s : State) (i : Nat) (wr : Bool) (n : Nat) (st : Status) : State :=
  let s := if wr then (s.bump (NOC.WR_CNT i)).bump (NOC.WR_BYTES i) n else s.bump (NOC.RD_CNT i)
  if st = .timeout then
    let s := s.setTag i (s.engineTag i) ⟨s.noc.stamp, s.rd (NOC.INIT_TMO.TMO i), !wr, false, true⟩
    ({ s with noc := { s.noc with stamp := s.noc.stamp + 1 } } : State).bump (NOC.TMO_CNT i)
  else
    let s := if st = .slverr ∨ st = .decerr ∨ st = .targetReset then s.bump (NOC.ERR_CNT i) else s
    let s := if !wr ∧ (st = .okay ∨ st = .poisoned) then s.bump (NOC.RD_BYTES i) n else s
    let r := s.fresh
    (r.2.bump (NOC.RT_CNT i)).latency i (Config.freeNat r.1)

/-- An access of an engine to bytes of one line: the map and the rights of the requester's vat (R312), the target, the
statistics (R320). -/
def State.memAccess (s : State) (q : Req) (rq : NocRq) : State × Status × BitVec 512 :=
  let d := s.decodeRq q.id q.vat rq
  if d.2.1 ≠ .okay then (d.1.bump (NOC.ERR_CNT q.id), d.2.1, 0)
  else
    let r := ((d.1.bucketWait q.id).regUse q.id (rq.len.val + 1)).serveAccess q d.2.2
    (r.1.countAccess q.id rq.wr (rq.len.val + 1) r.2.1, r.2.1, r.2.2)

/-- A read of n bytes (1 to 64, within a line) at a system address. -/
def State.memRead (s : State) (q : Req) (a n : Nat) (qos : Fin 4) : State × Status × List Byte :=
  let r := s.memAccess q ⟨BitVec.ofNat 64 a, false, Fin.ofNat 64 (n - 1), qos, 0, 0, false, true⟩
  (r.1, r.2.1, lineSlice r.2.2 (a % 64) n)

/-- A write of bytes (1 to 64, within a line) at a system address. -/
def State.memWrite (s : State) (q : Req) (a : Nat) (bs : List Byte) (poison : Bool) (qos : Fin 4) : State × Status :=
  let d : BitVec 512 := BitVec.ofNat 512 (leVal bs * 2 ^ (8 * (a % 64)))
  let r := s.memAccess q ⟨BitVec.ofNat 64 a, true, Fin.ofNat 64 (bs.length - 1), qos, 0, d, poison, true⟩
  (r.1, r.2.1)

/-- A read of any length, line by line; it stops at the first answer that is neither OKAY nor POISONED. The first
component of the answer says how it ended, POISONED where any line was. -/
def State.memReads (s : State) (q : Req) (a n : Nat) (qos : Fin 4) : State × Status × List Byte :=
  (linePieces (n / 64 + 2) a n).foldl (fun (r : State × Status × List Byte) p =>
    if r.2.1 = .okay ∨ r.2.1 = .poisoned then
      let x := r.1.memRead q p.1 p.2 qos
      (x.1, if x.2.1 = .okay then r.2.1 else x.2.1, r.2.2 ++ x.2.2)
    else r) (s, .okay, [])

/-- A write of any length, line by line; it stops at the first answer other than OKAY. -/
def State.memWrites (s : State) (q : Req) (a : Nat) (bs : List Byte) (poison : Bool) (qos : Fin 4) : State × Status :=
  (linePieces (bs.length / 64 + 2) a bs.length).foldl (fun (r : State × Status) p =>
    if r.2 = .okay then r.1.memWrite q p.1 ((bs.drop (p.1 - a)).take p.2) poison qos else r) (s, .okay)

end Sys2Proof.Machine
end

