-- ==== Sys2Proof/Machine/DmaRun.lean ====
section
/-! DEFINITION. The DMA engine's transfers (R467 to R470) and what other agents see of the service cores' caches (R448, R449). -/

namespace Sys2Proof.Machine

/-- R448: a range the service cores cache and write. -/
def cacheable (a : Nat) : Bool := decide (a < 2 ^ 63) && (match regionOf (a % 2 ^ 42) with
  | .dram => true
  | .scratch => true
  | _ => false)

/-- R470: the L2 line of an address, where L2 holds it dirty. -/
def State.l2Dirty (s : State) (a : Nat) : Option CacheLine := match tget s.cores.l2 (a / 64) none with
  | some l => if l.dirty then some l else none
  | none => none

/-- R470: bytes of a line that L2 holds dirty, POISONED where one of their words is. -/
def State.l2Look (s : State) (a n : Nat) : Option (Status × List Byte) :=
  if cacheable a then (s.l2Dirty a).map fun l =>
    (if (List.range n).any fun i => l.poison.getLsbD ((a + i) % 64 / 8) then .poisoned else .okay, lineSlice l.data (a % 64) n)
  else none

/-- A read that looks L2 up first: bytes of one line. -/
def State.snoopRead (s : State) (q : Req) (a n : Nat) (qos : Fin 4) : State × Status × List Byte :=
  match s.l2Look a n with
  | some r => (s, r)
  | none => s.memRead q a n qos

/-- R470: a write invalidates its line in L2 and in every L1. -/
def State.snoopInval (s : State) (a : Nat) : State :=
  if cacheable a then
    let l1 := (List.range 4).foldl (fun (t : Tab (Option CacheLine)) k => tput t (2 ^ 60 * coreOf k + a / 64) none none) s.cores.l1
    { s with cores := { s.cores with l1 := l1, l2 := tput s.cores.l2 (a / 64) none none } }
  else s

/-- R469: the pieces (offset, length) of a transfer, cut at the lines of source and destination. The first argument bounds
them. -/
def dmaPieces (src dst : Nat) : Nat → Nat → Nat → List (Nat × Nat)
  | 0, _, _ => []
  | k + 1, o, n => if n = 0 then [] else
      let m := min n (min (64 - (src + o) % 64) (64 - (dst + o) % 64))
      (o, m) :: dmaPieces src dst k (o + m) (n - m)

/-- Fields of a descriptor (R468). -/
structure DmaDesc where
  src : Nat
  dst : Nat
  len : Nat
  w5 : Nat
  next : Nat
deriving DecidableEq, Repr

/-- R468: read a descriptor's words; none where a reserved bit is set or LEN is 0. -/
def dmaDesc (bs : List Byte) : Option DmaDesc :=
  let w := fun k => leVal ((bs.drop (4 * k)).take 4)
  let d : DmaDesc := ⟨w 0 + 2 ^ 32 * w 1, w 2 + 2 ^ 32 * w 3, w 4, w 5, w 6 + 2 ^ 32 * w 7⟩
  if d.len = 0 ∨ 2 ^ 24 ≤ d.len ∨ d.w5 / 2 ^ 8 % 2 ^ 20 ≠ 0 ∨ d.w5 / 16 % 8 ≠ 0 then none else some d

/-- The bytes of a FILL from an offset on. -/
def fillBytes (pat o n : Nat) : List Byte := (List.range n).map fun i => BitVec.ofNat 8 (pat / 2 ^ (8 * ((o + i) % 8)))

/-- R469, R470: one piece is read and written; the Booleans say whether all went well and whether poisoned data was copied. -/
def State.dmaPiece (s : State) (c : Nat) (q : Req) (d : DmaDesc) (p : Nat × Nat) : State × Bool × Bool :=
  let snoop := d.w5.testBit 28
  let r := if d.w5.testBit 29 then (s, Status.okay, fillBytes d.src p.1 p.2)
    else if snoop then s.snoopRead q (d.src + p.1) p.2 0
    else s.memRead q (d.src + p.1) p.2 0
  if r.2.1 ≠ .okay ∧ r.2.1 ≠ .poisoned then (r.1, false, false)
  else
    let bad := r.2.1 == .poisoned
    let s := if bad then r.1.bump (DMA.POISON_CNT c) else r.1
    let w := s.memWrite q (d.dst + p.1) r.2.2 bad 0
    if w.2 ≠ .okay then (w.1, false, bad)
    else ((if snoop then w.1.snoopInval (d.dst + p.1) else w.1).bump (DMA.BYTES c) p.2, true, bad)

/-- The whole transfer of a descriptor; it stops at the first error. -/
def State.dmaMove (s : State) (c : Nat) (q : Req) (d : DmaDesc) : State × Bool × Bool :=
  (dmaPieces d.src d.dst (d.len / 32 + 3) 0 d.len).foldl (fun (r : State × Bool × Bool) p =>
    if r.2.1 then
      let x := r.1.dmaPiece c q d p
      (x.1, x.2.1, r.2.2 || x.2.2)
    else r) (s, true, false)

/-- Word 5 of the descriptor at an address is written back with DONE and a RESULT. -/
def State.dmaBack (s : State) (q : Req) (a w5 result : Nat) : State × Status :=
  s.memWrite q (a + 20) (leBytes 4 (w5 / 2 ^ 8 * 2 ^ 8 + 2 ^ 7 + result)) false 0

/-- DMA_DESCRIPTOR_DONE (R467 to R470): the descriptor a channel works on is carried out, written back, and NEXT followed; a
stopped channel writes back what it owes. -/
def execDmaDescriptorDone (c : Fin 16) (s : State) : Host.Outcome State Fault Refusal :=
  let c := c.val
  let v := s.rd (DMA.CH_CTL.VAT c)
  let q : Req := ⟨ID.dma, v, false, false⟩
  let x := s.dmaCh c
  let s := if s.rd (DMA.CH_STAT.STATE c) = 1 ∧ v ≠ 0 ∧ s.clamped v then s.dmaAbort c else s
  let run := s.rd (DMA.CH_STAT.STATE c) == 1
  if (!run && !(s.dmaCh c).owed) || s.initHeld ID.dma then .next s
  else
    let r := s.memRead q x.desc 32 0
    if r.2.1 ≠ .okay then
      let s := r.1.setDmaCh c { x with owed := false }
      .next (if run then s.dmaStopped c 4 else s)
    else match dmaDesc r.2.2 with
      | none => 
        let s := r.1.setDmaCh c { x with owed := false }
        .next (if run then s.dmaStopped c 2 else s)
      | some d =>
        if !run then .next ((r.1.dmaBack q x.desc d.w5 5).1.setDmaCh c { x with owed := false })
        else
          let m := r.1.dmaMove c q d
          if m.2.1 = false then .next ((m.1.dmaBack q x.desc d.w5 2).1.dmaStopped c 4)
          else
            let b := m.1.dmaBack q x.desc d.w5 m.2.2.toNat
            if b.2 ≠ .okay then .next (b.1.dmaStopped c 4)
            else
              let s := if d.w5.testBit 31 then (b.1.wrb (DMA.CH_STAT.IRQ c) true).dmaIrq c else b.1
              .next (if d.w5.testBit 30 then s.wr (DMA.CH_STAT.STATE c) 0
                else s.setDmaCh c { desc := d.next / 32 * 32 })

end Sys2Proof.Machine
end

