-- ==== Sys2Proof/Machine/Images.lean ====
section
/-! DEFINITION. Rennet: images record by record (R229 to R240), staging, commits and verification (R241 to R244), the boot
table slots (R245). An engine is 0 for the operations of R244 and R245, 1 for a module image (R271), 2 for a memory init. -/

namespace Sys2Proof.Machine

/-- The operation of engine 0 or 1. -/
def State.imgEngine (s : State) (e : Nat) : Option ImgOp := if e = 0 then s.img.op else if e = 1 then s.img.mod else none
def State.setImg (s : State) (e : Nat) (o : Option ImgOp) : State :=
  { s with img := if e = 0 then { s.img with op := o } else { s.img with mod := o } }

/-- The HEADER an operation has passed. -/
def ImgOp.header (o : ImgOp) : Option Hdr := if o.hdr = [] then none else hdrOf ((o.hdr.drop 4).take 384)

/-- Where an image's sections end. -/
def Hdr.fsecEnd (h : Hdr) : Nat := fsecOff + h.fsecLen
def Hdr.isecEnd (h : Hdr) : Nat := fsecOff + h.fsecLen + h.isecLen

/-- The first sector of a slot, and its offset. -/
def slotSec (k : Nat) : Nat := 896 * k
def slotOff (k : Nat) : Nat := slotBytes * k

/-- An operation reads its image from a slot. -/
def ImgOp.fromSlot (o : ImgOp) : Bool := o.kind == 2 || o.kind == 4 || o.kind == 5
/-- An operation commits. -/
def ImgOp.commits (o : ImgOp) : Bool := o.kind == 2 || o.kind == 3 || o.kind == 5
/-- The slot an operation reports. -/
def ImgOp.shownSlot (o : ImgOp) : Nat := if o.kind = 3 then 0xF else o.slot

/-- The module load that engine 1 works on. -/
def State.modHead (s : State) : Option ModLoad := s.cfg.mods.head?

/-- How the bytes an engine needs come: all there, not sent yet, or the access failed. -/
inductive Fetched where
  | bytes (l : List Byte)
  | wait
  | failed
deriving DecidableEq, Repr

/-- R271: a range lies in DRAM or in the scratchpad. -/
def inMemory (a n : Nat) : Bool := decide (a + n ≤ 2 ^ 42) && [a, a + n - 1].all fun a => match regionOf a with
  | .dram => true
  | .scratch => true
  | _ => false

/-- n bytes of an operation's image from its position on (R239, R244, R271). -/
def State.imgFetch (s : State) (o : ImgOp) (n : Nat) : State × Fetched :=
  if o.fromSlot then (s.celSuspends ((slotOff o.slot + o.pos) / 2 ^ 27), .bytes (s.celBytes (slotOff o.slot + o.pos) n))
  else if o.kind = 6 then match s.modHead with
    | none => (s, .wait)
    | some m =>
      if s.initHeld m.reqId then (s, .wait)
      else if !inMemory (m.addr + o.pos) n then (s, .failed)
      else
      let r := s.memReads ⟨m.reqId, m.reqVat, false, false⟩ (m.addr + o.pos) n 0
      if r.2.1 = .okay then (r.1, .bytes r.2.2) else (r.1, .failed)
  else if o.buf.length < n then (s, if o.last then .failed else .wait)
  else (s, .bytes (o.buf.take n))

/-- Bytes are done with: the position moves, and the host's are dropped. -/
def ImgOp.eat (o : ImgOp) (n : Nat) : ImgOp := { o with pos := o.pos + n, buf := o.buf.drop n }

/-! How an operation ends. -/

/-- The response to the request that ordered an IMG_VERIFY, once it has ended (R486). -/
def State.respondSeq (s : State) (h code rseq : Nat) (body : List Byte) : State :=
  let x := s.host h
  match x.sess with
  | none => s
  | some y =>
    let slots := y.slots.map fun (t : ReqSlot) => if t.rseq = rseq ∧ t.rsp.isNone then { t with rsp := some y.nextSeq } else t
    (s.setHost h { x with sess := some { y with slots := slots } }).sendMsg h 2 code 0 rseq body

/-- R245: what R245 tries from a preference on: a nibble that is no slot is skipped as an empty slot; none left is FALLBACK. -/
def State.bootFrom (s : State) : List Nat → Nat → State
  | [], _ => ({ s with img := { s.img with op := none, boot := 0 } } : State).enterFallback
  | k :: t, i =>
    if k < 8 then
      ({ s with img := { s.img with op := some { kind := 5, slot := k, host := 0 }, boot := i + 1 } } : State).wr CFG.IMG_STAT.SRC k
    else
      let s := ((s.wr CFG.IMG_STAT.REASON 0x01).wr CFG.IMG_REC.OFF 0).bump CFG.IMG_REJ_CNT
      (s.raiseVat 0 EV.bootSlotSkipped k [0x01, k, 0]).bootFrom t (i + 1)

/-- R245: the next preference is tried. -/
def State.bootNext (s : State) : State := s.bootFrom (s.bootOrder.drop s.img.boot) s.img.boot

/-- R239, R582: the commit an operation has open ends with its standby planes invalid. -/
def State.endCommit (s : State) (o : ImgOp) : State :=
  match o.opened, o.header with
  | true, some h =>
    let r := s.opRun OP.invalidate h.vats 0 0
    r.1.opStat r.2 0
  | _, _ => s

/-- R239, R240, R245, R253: engine 0 rejects its image. -/
def State.rejectOp (s : State) (o : ImgOp) (reason : Nat) : State :=
  let s := (s.wr CFG.IMG_STAT.REASON reason).wr CFG.IMG_REC.OFF o.pos
  let s : State := { s with img := { s.img with op := none, work := [], flight := false } }
  if o.kind = 4 then s.respondSeq o.host 0x0023 o.rseq [BitVec.ofNat 8 reason]
  else
    let s := (s.bump CFG.IMG_REJ_CNT).endCommit o
    if o.kind = 5 then (s.raiseVat 0 EV.bootSlotSkipped o.slot [reason, o.slot, o.pos]).bootNext
    else
      let own := match o.header with
        | some h => h.vats.map s.ownerOf
        | none => []
      s.raiseAt (o.host :: own) EV.imageRejected 0xFF o.shownSlot [reason, o.shownSlot, o.pos]

/-- An engine rejects its image: R240, or R271, R272 for a module's. -/
def State.imgReject (s : State) (o : ImgOp) (reason : Nat) : State :=
  if o.kind = 6 then match s.modHead with
    | some m => s.modFail m.vat 4 reason
    | none => s
  else s.rejectOp o reason

/-- The REASON of a module image whose memory access fails: the spec names none (notes/assumptions/62.md). -/
def State.rejectFree (s : State) (o : ImgOp) : State :=
  let r := s.fresh
  r.2.imgReject o (Config.freeNat r.1 % 256)

/-- R241, R511: the programs that put bytes at a 4-byte aligned offset of the Cellar, beside what the first word holds before
them. -/
def State.stageWords (s : State) (off : Nat) (bs : List Byte) : List CelOp :=
  let a := off / 8 * 8
  let l := s.celBytes a (off - a) ++ bs
  (List.range ((l.length + 7) / 8)).map fun j =>
    let w := (l.drop (8 * j)).take 8
    { erase := false, sector := (a / 8 + j) / 8192, word := a / 8 + j,
      data := BitVec.ofNat 64 (leVal (w ++ List.replicate (8 - w.length) 0xFF)), stage := true }

/-- R241: a staging carries out its next program or erase. A bank that is busy makes it wait (RESULT 0x2); a sector of the RAM
list, or another refusal, rejects the image (R517). With none left a staging whose first 552 bytes have been programmed ends. -/
def State.stageGo (s : State) : State := match s.img.work, s.img.op with
  | [], some o => if o.kind = 1 ∧ o.phase = 6 ∧ o.closed = 2 then { s with img := { s.img with op := none } } else s
  | w :: _, some o =>
    let r := s.celStart w
    let s := r.1
    if r.2 then { s with img := { s.img with flight := true } }
    else if s.rd (CEL.BSTAT.RESULT (bankOf w.sector)) = 2 then s
    else s.rejectOp o 0x0D
  | _, none => s

/-- R241: a staging has programs or erases to carry out. -/
def State.stageWork (s : State) (l : List CelOp) : State :=
  ({ s with img := { s.img with work := s.img.work ++ l } } : State).stageGo

/-- R241: the program or erase of a staging that ran has ended. -/
def State.stageDone (s : State) (result : Nat) : State :=
  if !s.img.flight then s
  else
    let s : State := { s with img := { s.img with work := s.img.work.drop 1, flight := false } }
    match result, s.img.op with
    | 0, _ => s.stageGo
    | _, some o => s.rejectOp o 0x0D
    | _, none => s

/-- CELLAR_COMMAND_DONE (R511, R512, R516, R517): the operation that runs in a bank ends; `ok`: its verification passed. -/
def execCellarCommandDone (b : Fin 4) (ok : Bool) (s : State) : Host.Outcome State Fault Refusal :=
  let r := s.commandDone b.val ok
  match r.2 with
  | some k => .next (r.1.stageDone k)
  | none => .next r.1

/-- R241: what a record of a staging adds beyond the first 552 bytes of its slot is to be programmed; the word before that is
kept. -/
def State.stageBytes (s : State) (o : ImgOp) (pos : Nat) (bs : List Byte) : List CelOp × ImgOp :=
  if o.kind ≠ 1 then ([], o)
  else if pos = fsecOff then (s.stageWords (slotOff o.slot + 552) (bs.drop 4), { o with head := bs.take 4 })
  else (s.stageWords (slotOff o.slot + pos) bs, o)

/-- R243, R244: the init sources of the standby planes a commit fills go into the boot table, in one update. -/
def State.putSources (s : State) (o : ImgOp) (h : Hdr) : State :=
  let src := if h.hasInit && o.fromSlot then some (o.slot, sha384 o.hdr) else none
  s.bootUpdate fun l => h.vats.foldl (fun l v => putSource v (!(s.role v).cur) src l) l

/-- R245, R244, R253: all records of a commit have passed and its planes are valid: COMMIT_DONE; a boot slot is activated. -/
def State.commitEnds (s : State) (o : ImgOp) (h : Hdr) : State :=
  let s := s.commitDone h.vats h.ver
  if o.kind ≠ 5 then { s with img := { s.img with op := none } }
  else
    let r := s.orderOp OP.activate h.vats 0
    if r.2.1 = 0 ∨ r.2.1 = 0x0A then { r.1 with img := { r.1.img with op := none, boot := 0, bootAct := h.vats } }
    else
      let s := ((r.1.wr CFG.IMG_STAT.REASON 0x11).wr CFG.IMG_REC.OFF o.pos).bump CFG.IMG_REJ_CNT
      (s.raiseVat 0 EV.bootSlotSkipped o.slot [0x11, o.slot, o.pos]).bootNext

/-- R241, R244: the END record has passed: a staging programs its first 552 bytes, a verification answers, a commit ends
once its read-back has. -/
def State.imgEnds (s : State) (o : ImgOp) (h : Hdr) : State :=
  if o.phase ≠ 6 then s
  else if o.kind = 1 then
    ({ s with img := { s.img with op := some { o with closed := 2 } } } : State).stageWork
      (s.stageWords (slotOff o.slot) (o.hdr ++ o.sig ++ o.head))
  else if o.kind = 4 then ({ s with img := { s.img with op := none } } : State).respondSeq o.host 0x0023 o.rseq [0]
  else if o.closed = 2 then s.commitEnds o h
  else s

/-- R243, R238 step 5: the frame section has passed: a commit writes the init sources and issues COMMIT_CLOSE. -/
def State.fsecPassed (s : State) (e : Nat) (o : ImgOp) (h : Hdr) : State :=
  if o.commits then
    let r := (s.putSources o h).orderOp OP.commitClose h.vats (BitVec.ofNat 32 h.ver)
    if r.2.1 ≠ 0 then r.1.imgReject o 0x11 else r.1.setImg e (some { o with closed := 1 })
  else s.setImg e (some o)

/-- R238 step 5: what the end of the frame section finds wrong. -/
def fsecFault (o : ImgOp) (h : Hdr) : Option Nat :=
  let n := o.cover.length
  let want := 1152 * (h.map.filter fun v => h.vats.contains v).length + if h.vats.contains 0 then 4096 else 0
  let quad := fun q => (o.cover.filter fun x => x.1 / 65536 == q).length
  if sha384 o.fsec ≠ h.fhash then some 0x0C
  else if n ≠ want ∨ n ≠ h.frames ∨ (List.range 4).map quad ≠ h.qframes then some 0x09
  else if h.whole && mapsDiffer (mapByte fun k => tget o.maps k 0) h.mapOf then some 0x06
  else none

/-- R238 steps 5, 6: a section that has ended is judged. -/
def State.imgSettle (s : State) (e : Nat) (o : ImgOp) : State :=
  match o.header with
  | none => s.setImg e (some o)
  | some h =>
    let afterI := fun (s : State) (o : ImgOp) =>
      if o.phase = 4 ∧ o.pos = h.isecEnd then
        if sha384 o.isec ≠ h.ihash then s.imgReject o 0x0C else s.setImg e (some { o with phase := 5 })
      else s.setImg e (some o)
    if o.phase = 3 ∧ o.pos = h.fsecEnd ∧ o.kind ≠ 6 then
      match fsecFault o h with
      | some r => s.imgReject o r
      | none =>
        let s := s.fsecPassed e { o with phase := if h.hasInit then 4 else 5 } h
        match s.imgEngine e with
        | some o => if h.hasInit ∧ o.phase = 4 then afterI s o else s
        | none => s
    else afterI s o

/-! Records. -/

/-- R239: reads of a record that failed their CRC before the good one, or all four. -/
def State.imgRetries (s : State) (o : ImgOp) (env : RecEnv) (ok : Bool) : State :=
  let n := if !o.fromSlot then 0 else if ok then env.retries.val else 3
  if n = 0 then s else s.bump CFG.IMG_RETRY_CNT n

/-- The next record of an operation is read: the whole record at its position with its CRC and pad bytes good; `fixed`: the
LEN that R238 step 1 and 2 expect there, `stop`: where its section ends. Nothing happens while the host's bytes have not
come. -/
def State.withRecord (s : State) (o : ImgOp) (env : RecEnv) (fixed : Option Nat) (stop : Nat) (route : Nat → Bool)
    (f : State → ImgOp → Rec → State) : State :=
  let missing := fun (s : State) => if o.kind = 6 then s.rejectFree o else s.imgReject o 0x02
  let r := s.imgFetch o 4
  match r.2 with
  | .wait => s
  | .failed => missing r.1
  | .bytes l =>
    if !route ((leVal l) / 2 ^ 24) then s
    else if env.lost && o.fromSlot then r.1.imgReject o 0x0E
    else
      let len := fixed.getD (recLen l)
      let n := recBytes len
      let beyond := decide (stop < o.pos + n)
      let q := r.1.imgFetch o n
      match q.2 with
      | .wait => if beyond then r.1.imgReject o 0x02 else s
      | .failed => missing q.1
      | .bytes bs =>
        let x := { recOf bs with body := (bs.drop 4).take len, pad := (bs.drop (4 + len)).take (n - 8 - len),
                                 crc := leVal ((bs.drop (n - 4)).take 4), text := bs.take (n - 4) }
        let ok := x.crcOk
        let s := q.1.imgRetries o env ok
        if !ok then s.imgReject o 0x01
        else if beyond || !x.padOk then s.imgReject o 0x02
        else f s o x

/-- The guard of a record row: the engine works, in a phase the row belongs to, and a staging has no program or erase to end. -/
def State.imgReady (s : State) (e : Nat) (p : Nat → Bool) : Option ImgOp := match s.imgEngine e with
  | some o => if p o.phase && !(o.kind == 1 && !s.img.work.isEmpty) then some o else none
  | none => none

/-- R244: the order of an operation is allowed to its host by the vats the image names. -/
def State.ownsImage (s : State) (host : Nat) (vats : List Nat) : Bool :=
  if vats.contains 0 then host == s.devOwner else vats.all fun v => s.ownerOf v == host

/-- HEADER_RECORD (R231, R238 step 1). Once it has been read, a rejection goes to the owners of its vats too (R253). -/
def execHeaderRecord (e : Fin 2) (env : RecEnv) (s : State) : Host.Outcome State Fault Refusal :=
  match s.imgReady e (· == 0) with
  | none => .next s
  | some o => .next <| s.withRecord o env (some 384) slotBytes (fun _ => true) fun s o r =>
      if r.typ ≠ 1 ∨ r.len ≠ 384 then s.imgReject o 0x02
      else match hdrOf r.body with
        | none => s.imgReject o 0x03
        | some h =>
          let o := { o with hdr := r.whole }
          let room := match (if o.kind = 6 then s.modHead else none) with
            | some m => decide (h.fsecEnd ≤ m.len)
            | none => true
          if !room ∨ (o.kind = 3 ∧ h.hasInit) then s.imgReject o 0x03
          else if o.kind ≤ 4 ∧ s.ownsImage o.host h.vats = false then s.imgReject o 0x06
          else s.setImg e (some { o.eat 392 with phase := 1 })

/-- R232, R233: what the SIGNATURE body finds wrong in a life-cycle state, given the keys of the image-verification slots. -/
def sigFault (lcs : Nat) (key : Nat → Option (List Byte)) (b : List Byte) : Option Nat :=
  let slot := bodyWord b 0 % 256
  if bodyWord b 0 / 256 ≠ 0 ∨ (slot = 0xFF ∧ (b.drop 4).any fun x => x != 0) then some 0x02
  else if slot = 0xFF then (if lcs = 1 ∨ lcs = 2 then some 0x05 else none)
  else if 4 ≤ slot then some 0x05
  else match key slot with
    | none => some 0x05
    | some k => if sha384 k = (b.drop 4).take 48 then none else some 0x05

/-- SIGNATURE_RECORD (R232 to R234): the checks of the record; the key is copied and its check starts. -/
def execSignatureRecord (e : Fin 2) (env : RecEnv) (s : State) : Host.Outcome State Fault Refusal :=
  match s.imgReady e (· == 1) with
  | none => .next s
  | some o => .next <| s.withRecord o env (some 148) slotBytes (fun _ => true) fun s o r =>
      if r.typ ≠ 2 ∨ r.len ≠ 148 then s.imgReject o 0x02
      else match sigFault s.lcs.code (fun k => tget s.lcs.keys k none) r.body with
        | some c => s.imgReject o c
        | none =>
          let k := bodyWord r.body 0 % 256
          let key := if k = 0xFF then [] else (tget s.lcs.keys k none).getD []
          let n := s.lcs.checks + 1
          let s : State := { s with lcs := { s.lcs with checks := n } }
          s.setImg e (some { o.eat 156 with phase := 2, sig := r.whole, key := key, kslot := k, check := n })

/-- R238 step 3, R245 step 2, R271: the vats of an image do not fit. -/
def State.vatsFault (s : State) (o : ImgOp) (h : Hdr) : Bool :=
  if o.kind = 6 then match s.modHead with
    | some m => !(h.vats == [m.vat] && !h.whole && !h.hasInit && h.fits (s.planeMap (s.role 0).cur))
    | none => true
  else !h.fits (s.planeMap (s.role 0).cur)
    || (o.kind == 5 && (!h.whole || h.map.any fun v => decide (v < 16) && !h.vats.contains v))

/-- SIGNATURE_VERIFIED (R233, R238 step 3, R244): the check of the signature ends; then the vats are checked, and a commit
issues COMMIT_OPEN. -/
def execSignatureVerified (e : Fin 2) (s : State) : Host.Outcome State Fault Refusal :=
  match s.imgReady e (· == 2) with
  | none => .next s
  | some o =>
    let good := o.key == [] || ecdsaP384 o.key (sha384 o.hdr) ((o.sig.drop 56).take 96)
    match o.header with
    | none => .next s
    | some h =>
      let o := { o with phase := 3, ref := 0 }
      if !good then .next (s.imgReject o 0x04)
      else if s.vatsFault o h then .next (s.imgReject o 0x06)
      else if o.commits then
        let r := s.orderOp OP.commitOpen h.vats 0
        if r.2.1 ≠ 0 then .next (r.1.imgReject o 0x11) else .next (r.1.imgSettle e { o with opened := true })
      else .next (s.imgSettle e o)

/-! Frames. -/

/-- R269, R271: a frame belongs to what an image writes. -/
def State.imgFrame (s : State) (o : ImgOp) (h : Hdr) (n : Nat) : Bool :=
  if o.kind = 6 then match s.modHead with
    | some m => frameIn m.rect n
    | none => false
  else match frameVatBy h.mapOf n with
    | some v => h.vats.contains v
    | none => false

/-- R271 step 2: at its first frame the region of a module load is held. -/
def State.modHold (s : State) : State := match s.modHead with
  | some m =>
    if m.phase = 1 then
      let s := (s.setMod m.vat fun m => some { m with phase := 2 }).wrb (VAT.MLOAD_STAT.HOLD m.vat) true
      let s := s.dropRepairs fun n => frameIn m.rect n
      s.holdTiles fun g => inRect m.rect (tileX g) (tileY g)
    else s
  | none => s

/-- R208, R214, R238, R271: one frame of an image goes where it belongs. -/
def State.imgWrite (s : State) (o : ImgOp) (h : Hdr) (n : Nat) (f : Frame) : State :=
  if o.kind = 6 then
    let s := ((s.modHold).loadLive n f).setUnrest n false
    match s.modHead with
    | some m => s.setMod m.vat fun m => some { m with frames := m.frames ++ [n] }
    | none => s
  else if o.commits then match frameVatBy h.mapOf n with
    | some v => (s.setPlane (!(s.role v).cur) n f).setPerr n 0
    | none => s
  else s

/-- R239: a frame is written; `fails`: plane writes that fail their read-back, each of up to three retries counted. False: the
retries failed too, and the cells hold an unspecified value. -/
def State.frameWrite (s : State) (o : ImgOp) (h : Hdr) (n : Nat) (f : Frame) (fails : Nat) : State × Bool :=
  if !o.commits ∨ fails = 0 then (s.imgWrite o h n f, true)
  else
    let s := s.bump CFG.IMG_RETRY_CNT (min 3 fails)
    if fails < 4 then (s.imgWrite o h n f, true)
    else match frameVatBy h.mapOf n with
      | some v => (s.freePlane (!(s.role v).cur) n, false)
      | none => (s, false)

/-- The frames of a record, one after another, with the failures of their plane writes: state, operation, and the reason of the
first that fails. -/
def State.imgFrames (s : State) (o : ImgOp) (h : Hdr) : List (Nat × Frame) → List (Fin 5) → State × ImgOp × Option Nat
  | [], _ => (s, o, none)
  | (n, f) :: t, ws =>
    if !s.imgFrame o h n then (s, o, some 0x07)
    else if tget o.cover n false then (s, o, some 0x08)
    else if syndrome f ≠ 0 then (s, o, some 0x0B)
    else
      let shell := (List.range 4).any fun q => n == shellFrame q 768
      let o := { o with cover := tput o.cover n true false, maps := if shell then tput o.maps n f 0 else o.maps }
      let w := s.frameWrite o h n f (ws.headD 0).val
      if w.2 then w.1.imgFrames o h t (ws.drop 1) else (w.1, o, some 0x0D)

/-- R213, R235, R238 step 4: a record of the frame section; a commit's waits while a load holds the port of a
frame it writes; a module load's rows alternate with another load's (R280). -/
def State.frameRecord (s : State) (e : Nat) (env : RecEnv) (types : Nat → Bool) : State :=
  match s.imgReady e (fun p => 3 ≤ p && p ≤ 5) with
  | none => s
  | some o => match o.header with
    | none => s
    | some h =>
      if o.phase = 3 ∧ o.pos = h.fsecEnd then s
      else
        let stop := if o.phase = 3 then h.fsecEnd else if o.phase = 4 then h.isecEnd else slotBytes
        s.withRecord o env none stop types fun t o r =>
          if o.phase ≠ 3 then t.imgReject o 0x02
          else match frameRec r.typ r.body o.ref with
            | .error c => t.imgReject o c
            | .ok (l, ref) =>
              if o.commits && l.any fun x => s.frameBusy x.1 then s
              else
                let q := t.imgFrames o h l env.wfails
                match q.2.2 with
                | some c => q.1.imgReject o c
                | none =>
                  let o' := { q.2.1 with ref := ref, fsec := q.2.1.fsec ++ r.whole }
                  let p := q.1.stageBytes o' o'.pos r.whole
                  (q.1.imgSettle e (p.2.eat r.whole.length)).stageWork p.1

/-- FRAME_RECORD (R235): a FRAME record; a record of a TYPE that does not exist is out of order too (R230). -/
def execFrameRecord (e : Fin 2) (env : RecEnv) (s : State) : Host.Outcome State Fault Refusal :=
  .next (s.frameRecord e env fun t => !([0x11, 0x12, 0x13, 0x20, 0x7E].contains t))

/-- FRAME_Z_RECORD (R235, R236). -/
def execFrameZRecord (e : Fin 2) (env : RecEnv) (s : State) : Host.Outcome State Fault Refusal :=
  .next (s.frameRecord e env (· == 0x11))

/-- REPEAT_RECORD (R235). -/
def execRepeatRecord (e : Fin 2) (env : RecEnv) (s : State) : Host.Outcome State Fault Refusal :=
  .next (s.frameRecord e env (· == 0x12))

/-- ZERO_RUN_RECORD (R235). -/
def execZeroRunRecord (e : Fin 2) (env : RecEnv) (s : State) : Host.Outcome State Fault Refusal :=
  .next (s.frameRecord e env (· == 0x13))

/-! Memory init (R237, R246, R247). -/

/-- R247: the init that runs fails: the vat stays in reset. -/
def State.initFails (s : State) (r : InitRun) (reason : Nat) : State :=
  let s : State := { s with img := { s.img with init := none } }
  ((s.wrb CFG.IMG_STAT.INIT_BUSY false).bump CFG.IMG_REJ_CNT).raiseVat r.vat EV.initFail r.vat [r.vat, reason]

/-- R247: KIND matches the configured mode of its memory. -/
def State.initMode (s : State) (m : MemInit) : Bool :=
  if m.kind = 0 then (tget s.mem.bmCfg m.mem {}).ecc else if m.kind = 1 then !(tget s.mem.bmCfg m.mem {}).ecc else true

/-- R188, R141: the words of a record are written: valid, with their poison. -/
def State.initWrite (s : State) (m : MemInit) : State :=
  m.data.zipIdx.foldl (fun (s : State) p =>
    if m.kind = 3 then s.opmWrite m.mem (m.start + p.2) (BitVec.ofNat 36 p.1) m.poison
    else s.setMemW (m.kind == 2) m.mem (m.start + p.2) (some { v := BitVec.ofNat 72 p.1, poison := m.poison })) s

/-- R246: a record of the init that runs. -/
def State.initRecord (s : State) (r : InitRun) (env : RecEnv) : State :=
  let off := slotOff r.slot + r.pos
  let len := recLen (s.celBytes off 4)
  let n := recBytes len
  if r.stop ≤ r.pos then s
  else if env.lost then s.initFails r 0x0E
  else if r.stop < r.pos + n then s.initFails r 0x02
  else
    let x := recOf (s.celBytes off n)
    let k := if x.crcOk then env.retries.val else 3
    let s := if k = 0 then s else s.bump CFG.IMG_RETRY_CNT k
    match x.bad with
    | some c => s.initFails r c
    | none =>
      if x.typ ≠ 0x20 then s.initFails r 0x02
      else match memInitOf x.body (fun sec => decide (s.vatOfSector sec < 16)) with
        | .error c => s.initFails r c
        | .ok m =>
          let r := { r with pos := r.pos + n, isec := r.isec ++ x.whole }
          let go := fun (s : State) => ({ s with img := { s.img with init := some r } } : State)
          if s.vatOfSector (initSector m.kind m.mem) ≠ r.vat then go s
          else if !s.initMode m then s.initFails r 0x10
          else go (s.initWrite m)

/-- MEMINIT_RECORD (R237, R238 step 6, R246): checked as part of an image, or written during an init. -/
def execMeminitRecord (e : Fin 3) (env : RecEnv) (s : State) : Host.Outcome State Fault Refusal :=
  if e.val = 2 then match s.img.init with
    | some r => .next (s.initRecord r env)
    | none => .next s
  else match s.imgReady e (fun p => 3 ≤ p && p ≤ 5) with
    | none => .next s
    | some o => match o.header with
      | none => .next s
      | some h =>
        if o.kind = 6 ∧ o.pos = h.fsecEnd then .next s
        else
          let stop := if o.phase = 3 then h.fsecEnd else if o.phase = 4 then h.isecEnd else slotBytes
          .next <| s.withRecord o env none stop (· == 0x20) fun s o r =>
            if o.phase ≠ 4 then s.imgReject o 0x02
            else match memInitOf r.body fun sec => h.vats.contains (h.mapOf sec) with
              | .error c => s.imgReject o c
              | .ok _ =>
                let p := s.stageBytes { o with isec := o.isec ++ r.whole } o.pos r.whole
                (s.imgSettle e (p.2.eat r.whole.length)).stageWork p.1

/-- END_RECORD (R230, R238 step 6): the last record. -/
def execEndRecord (e : Fin 2) (env : RecEnv) (s : State) : Host.Outcome State Fault Refusal :=
  match s.imgReady e (fun p => 3 ≤ p && p ≤ 5) with
  | none => .next s
  | some o => match o.header with
    | none => .next s
    | some h =>
      if o.kind = 6 ∧ o.pos = h.fsecEnd then .next s
      else
        let stop := if o.phase = 3 then h.fsecEnd else if o.phase = 4 then h.isecEnd else slotBytes
        .next <| s.withRecord o env none stop (· == 0x7E) fun s o r =>
          if o.phase ≠ 5 ∨ r.len ≠ 0 then s.imgReject o 0x02
          else
            let p := s.stageBytes o o.pos r.whole
            let o := { p.2.eat r.whole.length with phase := 6 }
            (({ s with img := { s.img with work := s.img.work ++ p.1 } } : State).setImg e (some o)).imgEnds o h

/-- COMMIT_CLOSE_DONE (R208, R239, R582): the read-back of the commit that names a vat ends; it waits while a load holds a port
it reads through (R213). Where it is that of the operation in progress, its failure rejects the image. -/
def execCommitCloseDone (v : Fin 16) (ups : List (Bool × Fin 262144 × List (Fin 2072))) (s : State) :
    Host.Outcome State Fault Refusal :=
  if s.cfg.commits.any fun c => c.vats.contains v.val && c.closing.isSome && s.commitBusy c.vats then .next s
  else
  let mine := match s.cfg.commits.find? (fun c => c.vats.contains v.val && c.closing.isSome), s.img.op with
    | some c, some o => o.closed == 1 && ((o.header.map (·.vats)) == some c.vats)
    | _, _ => false
  let s := s.commitCloseEnd v mine ups
  if !mine then .next s
  else match s.img.op with
    | none => .next s
    | some o => match o.header with
      | none => .next s
      | some h =>
        if s.cfg.commits.any fun c => c.vats == h.vats then .next (s.imgReject o 0x0D)
        else
          let o := { o with closed := 2 }
          .next ((s.setImg 0 (some o)).imgEnds o h)

/-! Inits. -/

/-- MEMORY_INIT_START (R246 to R248): the init of the vat first in request order starts: the slot's HEADER must hash to
HDR_HASH. -/
def execMemoryInitStart (v : Fin 16) (lost : Bool) (s : State) : Host.Outcome State Fault Refusal :=
  if s.img.init.isSome ∨ s.img.initQ.head? ≠ some v.val ∨ !s.running ∨ s.cfg.clearing.contains v.val ∨ s.underTest v then .next s
  else
    let p := (s.role v).cur
    let s : State := { s with img := { s.img with initQ := s.img.initQ.drop 1 } }
    match s.initSource v p with
    | none => .next (s.wrb (VAT.VAT_STAT.INIT_PEND v) false)
    | some (slot, hash) =>
      let s := (s.wr CFG.IMG_STAT.INIT_VAT v).wrb CFG.IMG_STAT.INIT_BUSY true
      let hb := s.celBytes (slotOff slot) 392
      let r : InitRun := { vat := v, plane := p, slot := slot, pos := 0, stop := 0, hash := [] }
      if lost then .next (s.initFails r 0x0E)
      else if sha384 hb ≠ hash then .next (s.initFails r 0x0C)
      else match hdrOf ((hb.drop 4).take 384) with
        | none => .next (s.initFails r 0x03)
        | some h => .next { s with img := { s.img with init := some { r with pos := h.fsecEnd, stop := h.isecEnd, hash := h.ihash } } }

/-- MEMORY_INIT_DONE (R246, R247): every record of the init is written; ISEC_HASH decides. -/
def execMemoryInitDone (v : Fin 16) (s : State) : Host.Outcome State Fault Refusal :=
  match s.img.init with
  | none => .next s
  | some r =>
    if r.vat ≠ v.val ∨ r.pos < r.stop then .next s
    else if sha384 r.isec ≠ r.hash then .next (s.initFails r 0x0C)
    else .next ((({ s with img := { s.img with init := none } } : State).wrb CFG.IMG_STAT.INIT_BUSY false).wrb
      (VAT.VAT_STAT.INIT_PEND v) false)

end Sys2Proof.Machine
end

