-- ==== Sys2Proof/Machine/ImgOps.lean ====
section
/-! DEFINITION. Requests for images (R241, R243, R244), the start of the Starter's firmware (R217, R245, R521, R546), and module
loads (R271, R272). -/

namespace Sys2Proof.Machine

/-- A big-endian field of a request's body. -/
def field (b : List Byte) (off n : Nat) : Nat := beNum ((b.drop off).take n)

/-- R244: the modes of Rennet's operations. -/
def State.imgModeOk (s : State) : Bool := s.mode == M.boot || s.mode == M.fallback || s.running

/-- R243: a slot is named by ORDER or by an init source whose plane is valid. -/
def State.slotInUse (s : State) (k : Nat) : Bool :=
  s.bootOrder.contains k || (List.range 16).any fun v => [false, true].any fun p =>
    (s.role v).valid p && match s.initSource v p with
      | some (j, _) => j == k
      | none => false

/-- The HEADER that starts with these bytes, where R238 step 1 finds nothing wrong. -/
def goodHeader (bs : List Byte) : Option Hdr :=
  let r := recOf bs
  if r.typ = 1 ∧ r.len = 384 ∧ 392 ≤ bs.length ∧ r.crcOk then hdrOf r.body else none

/-- R244: what an image's vats meet at the acceptance of an operation on it: the host's right, and for a commit the reasons
of COMMIT_OPEN. -/
def State.imgAdmit (s : State) (h kind : Nat) (vats : List Nat) : Option Reply :=
  if !s.ownsImage h vats then some (.no 0x02 0 0xFF)
  else if kind = 2 ∨ kind = 3 then
    (s.opRefusal OP.commitOpen vats none).map fun r => .no 0x03 r.1 r.2
  else none

/-- Accept an operation. -/
def State.imgAccept (s : State) (o : ImgOp) : State :=
  (({ s with img := { s.img with op := some o } } : State).wr CFG.IMG_STAT.SRC o.shownSlot)

/-- An operation on a slot is ordered: IMG_COMMIT or IMG_VERIFY. -/
def State.slotOrder (s : State) (e : ImmEnv) (kind : Nat) (body : List Byte) : State × Reply :=
  let h := e.port.val
  let k := field body 0 1
  if body.length ≠ 1 ∨ 8 ≤ k then (s, .no 0x07 0 0xFF)
  else if !s.imgModeOk then (s, .no 0x06 s.mode 0xFF)
  else
    let hdr := goodHeader (s.celBytes (slotOff k) 392)
    match hdr.bind fun x => s.imgAdmit h kind x.vats with
    | some r => (s, r)
    | none =>
      if s.img.op.isSome then (s, .no 0x05 0 0xFF)
      else (s.imgAccept { kind := kind, slot := k, host := h, rseq := e.seq.toNat }, if kind = 4 then .silent else .ok 0 [])

/-- IMG_COMMIT (R244). -/
def execImgCommit (e : ImmEnv) (body : List Byte) (s : State) : Host.Outcome State Fault Refusal :=
  .next (s.request false e 0x0021 body fun s => s.slotOrder e 2 body)

/-- IMG_VERIFY (R244): answered when it has ended. -/
def execImgVerify (e : ImmEnv) (body : List Byte) (s : State) : Host.Outcome State Fault Refusal :=
  .next (s.request false e 0x0023 body fun s => s.slotOrder e 4 body)

/-- R241: the erasures a staging of a slot begins with. -/
def stageErases (k : Nat) : List CelOp :=
  (List.range 896).map fun j => { erase := true, sector := slotSec k + j, stage := true }

/-- A chunk of an image a host sends: IMG_STAGE (kind 1) or IMG_STREAM (kind 3). -/
def State.chunk (s : State) (e : ImmEnv) (kind : Nat) (body : List Byte) : State × Reply :=
  let h := e.port.val
  let k := if kind = 1 then field body 0 1 else 0
  let flags := field body 1 1
  let off := field body 4 4
  let bs := body.drop 8
  if body.length < 8 ∨ 1032 < body.length then (s, .no 0x07 0 0xFF)
  else if 8 ≤ k then (s, .no 0x07 0 0xFF)
  else if 2 ≤ flags then (s, .no 0x07 1 0xFF)
  else if !s.imgModeOk then (s, .no 0x06 s.mode 0xFF)
  else
    let last := flags == 1
    match s.img.op with
    | some o =>
      if o.kind ≠ kind ∨ o.host ≠ h ∨ o.slot ≠ k ∨ o.last then (s, .no 0x05 0 0xFF)
      else if off ≠ o.recvd then (s, .no 0x07 4 0xFF)
      else (s.setImg 0 (some { o with buf := o.buf ++ bs, recvd := o.recvd + bs.length, last := last }), .ok 0 [])
    | none =>
      let head := decide (24 ≤ bs.length) && wordAt bs 1 == 0x49484C44
      let vats := (List.range 16).filter fun v => (wordAt bs 5).testBit v
      match (if head then s.imgAdmit h kind vats else none) with
      | some r => (s, r)
      | none =>
        if off ≠ 0 then (s, .no 0x07 4 0xFF)
        else if (kind = 3 ∧ head ∧ (wordAt bs 4).testBit 1) ∨ (kind = 1 ∧ s.slotInUse k) then (s, .no 0x03 0 0xFF)
        else
          let s := s.imgAccept { kind := kind, slot := k, host := h, buf := bs, recvd := bs.length, last := last }
          (if kind = 1 then s.stageWork (stageErases k) else s, .ok 0 [])

/-- IMG_STAGE (R241, R243, R244). -/
def execImgStage (e : ImmEnv) (body : List Byte) (s : State) : Host.Outcome State Fault Refusal :=
  .next (s.request false e 0x0020 body fun s => s.chunk e 1 body)

/-- IMG_STREAM (R244). -/
def execImgStream (e : ImmEnv) (body : List Byte) (s : State) : Host.Outcome State Fault Refusal :=
  .next (s.request false e 0x0022 body fun s => s.chunk e 3 body)

/-- IMAGE_SEND_TIMEOUT (R240, R244): no part of the image for 10 s. -/
def execImageSendTimeout (s : State) : Host.Outcome State Fault Refusal :=
  match s.img.op with
  | none => .next s
  | some o =>
    if (o.kind = 1 ∨ o.kind = 3) ∧ o.last = false ∧ s.img.work = [] then .next (s.imgReject o 0x0F) else .next s

/-- STAGING_ERASE_REISSUE (R241): a command of a staging that met a busy bank is given again. -/
def execStagingEraseReissue (s : State) : Host.Outcome State Fault Refusal :=
  if s.img.flight then .next s else .next s.stageGo

/-- BOOT_SET (R242, R244): ORDER is written. -/
def execBootSet (e : ImmEnv) (body : List Byte) (s : State) : Host.Outcome State Fault Refusal :=
  .next <| s.request false e 0x0024 body fun s =>
    let w := field body 0 4
    let l := ((List.range 8).map fun i => w / 16 ^ i % 16).takeWhile (· != 15)
    if body.length ≠ 4 then (s, .no 0x07 0 0xFF)
    else if e.port.val ≠ s.devOwner then (s, .no 0x02 0 0xFF)
    else if !s.imgModeOk then (s, .no 0x06 s.mode 0xFF)
    else if l.any fun n => decide (8 ≤ n) then (s, .no 0x07 0 0xFF)
    else if s.img.op.isSome then (s, .no 0x05 0 0xFF)
    else (s.bootUpdate fun t => putBytes t 8 (leBytes 4 w), .ok 0 [])

/-! Erasures at BOOT (R521, R546). -/

/-- The Cellar's sectors but those a test keeps are erased; the log state and the defect list go with theirs. -/
def State.eraseBut (s : State) (keep : Nat → Bool) : State :=
  { s with
    cel := { s.cel with words := tfilter (fun k _ => keep (k / 8192)) s.cel.words
                        undW := tfilter (fun k _ => keep (k / 8192)) s.cel.undW
                        undS := tfilter (fun k _ => keep k) s.cel.undS
                        recs := s.cel.recs + 1 }
    logs := { s.logs with evSecs := [], audSecs := [], evPos := 1, audPos := 1, evBad := [], audBad := [], ramOnly := false }
    bist := { s.bist with defects := [] } }

/-- R521, R546: the two firmware copies and a range of sectors of the information area. -/
def keepSecs (hi : Nat) (mirrors : Bool) (sec : Nat) : Bool :=
  decide (7168 ≤ sec ∧ sec < 7296) || decide (infoSec + 2 ≤ sec ∧ sec ≤ infoSec + hi)
    || (mirrors && decide (infoSec + 16 ≤ sec ∧ sec ≤ infoSec + 31))

/-- R546: every frame of both planes is zero, no VALID bit is set. -/
def State.erasePlanes (s : State) : State :=
  let s : State := { s with cfg := { s.cfg with planeA := [], planeB := [] } }
  (List.range 16).foldl (fun (s : State) v => s.setRole v { s.role v with validA := false, validB := false }) s

/-- R519, R520: the level changes. -/
def State.setProtLevel (s : State) (n : Nat) : State :=
  let old := s.cel.level
  let s : State := ({ s with cel := { s.cel with level := n, recs := s.cel.recs + 1 } } : State).celShow
  if old = n then s else s.raiseDev EV.celLevel 0 [old, n]

/-- R521 steps 2 and 3. -/
def State.lowerLevel (s : State) : State :=
  let s := (s.eraseBut (keepSecs 6 true)).erasePlanes
  let s : State := { s with lcs := { s.lcs with keys := [], defer := [] } }
  let t := s.cel.target
  let s : State := { s with cel := { s.cel with erasePend := false } }
  s.setProtLevel t

/-- R546: the erasure of a part in RETURNED. -/
def State.retire (s : State) : State :=
  let s := (s.eraseBut (keepSecs 4 false)).erasePlanes
  let s : State := { s with lcs := { s.lcs with keys := [], defer := [], idKey := s.lcs.idKey + 1, eraseDone := true } }
  let s : State := { s with cel := { s.cel with erasePend := false } }
  s.setProtLevel 0

/-- STARTER_FIRMWARE_START (R217, R245, R521, R546): the ROM has verified a firmware copy; the firmware starts. -/
def execStarterFirmwareStart (copy : Fin 2) (s : State) : Host.Outcome State Fault Refusal :=
  if s.mode ≠ M.boot ∨ s.pwr.held ∨ s.pwr.rst.isSome ∨ s.pwr.fw ∨ s.bit CLK.ROOT_STAT.LOCK = false then .next s
  else
    let lost := s.pwr.lostArms
    let s : State := { s with pwr := { s.pwr with fw := true, lostArms := [] }, cel := { s.cel with bootFw := copy.val } }
    let s := s.mpStart
    let cause := s.rd PWR.RST_CAUSE.CAUSE
    let s := s.raiseDev EV.bootCause 0 [(s.reg PWR.RST_CAUSE.CAUSE.off).toNat, (s.reg PWR.WAKE_CAUSE.SRC.off).toNat]
    let s := if cause = 1 ∨ cause = 2 then s.raiseDev EV.powerLoss 0 [s.rd PWR.RST_CAUSE.SUPPLY] else s
    let s := lost.foldl (fun (s : State) k => s.logEvent ⟨EV.armCancelled.code, EV.armCancelled.sev, k, k, [k]⟩) s
    if s.lcs.code = 3 ∧ s.lcs.eraseDone = false then .next s.retire.enterFallback
    else if s.cel.erasePend then .next s.lowerLevel.enterFallback
    else if s.shellLoadable then .next s.powerUpLoad
    else .next (({ s with img := { s.img with boot := 0 } } : State).bootNext)

/-! Module loads. -/

/-- MODULE_LOAD_START (R270, R271, R280): the oldest accepted request is served; it waits while a memory of its vat is under
self-test. -/
def execModuleLoadStart (v : Fin 16) (s : State) : Host.Outcome State Fault Refusal :=
  match s.modHead with
  | none => .next s
  | some m =>
    if m.vat ≠ v.val ∨ m.phase ≠ 0 ∨ s.img.mod.isSome ∨ s.underTest v then .next s
    else
      let s := s.setMod m.vat fun m => some { m with phase := 1 }
      .next ({ s with img := { s.img with mod := some { kind := 6, slot := 0xF, host := s.ownerOf m.vat } } } : State).showSwaps

/-- R271: what the end of a module's frame section finds wrong. -/
def modFault (o : ImgOp) (h : Hdr) (m : ModLoad) : Option Nat :=
  let tiles := (m.rect.2.1 + 1 - m.rect.1) * (m.rect.2.2.2 + 1 - m.rect.2.2.1)
  let quad := fun q => (o.cover.filter fun x => x.1 / 65536 == q).length
  if sha384 o.fsec ≠ h.fhash then some 0x0C
  else if o.cover.length ≠ 4 * tiles ∨ h.frames ≠ 4 * tiles ∨ (List.range 4).map quad ≠ h.qframes then some 0x09
  else none

/-- R209: the load-shadow entries that the dynamic frames a module load wrote need beyond those they hold. -/
def State.shadowMore (s : State) (m : ModLoad) : Nat :=
  (m.frames.filter fun n => s.frameDyn n && (tget s.cfg.shadow n none).isNone).length

/-- MODULE_LOAD_DONE (R209, R271): the frame section has ended: FSEC_HASH and the coverage decide; VOL and the load shadow are
set, MODLOAD_DONE is raised. An image that turns out to need more load-shadow entries than are free fails with RESULT 3
(notes/assumptions/62.md). -/
def execModuleLoadDone (v : Fin 16) (s : State) : Host.Outcome State Fault Refusal :=
  match s.modHead, s.img.mod with
  | some m, some o => match o.header with
    | none => .next s
    | some h =>
      if m.vat ≠ v.val ∨ m.phase = 0 ∨ 2 < m.phase ∨ o.phase ≠ 3 ∨ o.pos ≠ h.fsecEnd then .next s
      else match modFault o h m with
        | some c => .next (s.imgReject o c)
        | none =>
          if 256 < s.shadowTaken - m.need + s.shadowMore m then .next (s.modFail v 3 0) else
          let s := m.frames.foldl (fun (s : State) n =>
            let s := s.setVol n true
            s.setShadow n (if s.frameDyn n then some (s.liveFrame n) else none)) s
          let s : State := { s with img := { s.img with mod := none } }
          .next ((s.setMod v fun m => some { m with phase := 3 }).modEnds { m with result := 0, reason := 0 })
  | _, _ => .next s

/-- The request of a vat is over. -/
def State.modOver (s : State) (v : Nat) : State :=
  (((s.setMod v fun _ => none).wrb (VAT.MLOAD_STAT.BUSY v) false).wrb (VAT.MLOAD_STAT.HOLD v) false).showSwaps

/-- MODULE_REGION_RELEASE (R60, R271): the next epoch boundary after the load. -/
def execModuleRegionRelease (v : Fin 16) (s : State) : Host.Outcome State Fault Refusal :=
  if s.cfg.mods.any fun m => m.vat == v.val && m.phase == 3 then .next (s.modOver v) else .next s

/-- R272: every frame of the region comes from the vat's current plane; VOL and the load shadow clear. -/
def State.restoreRegion (s : State) (m : ModLoad) : State :=
  let p := (s.role m.vat).cur
  let tiles := (s.sectorsOf m.vat).flatMap fun sec =>
    ((List.range 256).map fun t => 256 * sec + t).filter fun g => inRect m.rect (tileX g) (tileY g)
  let frames := tiles.flatMap fun g =>
    let t := g % 256
    [3 * t, 3 * t + 1, 3 * t + 2, 768 + t].map (sectorFrame (tileSector g))
  frames.foldl (fun (s : State) n =>
    let s := (s.setVol n false).setShadow n none
    match chkFrame (s.planeFrame p n) with
    | .clean => (s.loadLive n (s.planeFrame p n)).setUnrest n false
    | .fixed _ _ f => (((s.loadLive n f).setUnrest n false).setPerr n (p.toNat + 1)).bump CFG.PCORR_CNT
    | .bad => ((s.loadLive n (s.planeFrame p n)).setPerr n (p.toNat + 1)).bump CFG.PUNC_CNT) s

/-- MODULE_LOAD_RESTORE (R272): a load that failed or was aborted behind its first frame restores the region and reports. -/
def execModuleLoadRestore (v : Fin 16) (s : State) : Host.Outcome State Fault Refusal :=
  match s.cfg.mods.find? fun m => m.vat == v.val && m.phase == 5 with
  | none => .next s
  | some m => .next (((s.restoreRegion m).setMod v fun m => some { m with phase := 4 }).modEnds m)

/-- MODULE_RESTORE_DONE (R272): the region is released, or left to the vat's reset or swap. -/
def execModuleRestoreDone (v : Fin 16) (s : State) : Host.Outcome State Fault Refusal :=
  if s.cfg.mods.any fun m => m.vat == v.val && m.phase == 4 then .next (s.modOver v) else .next s

end Sys2Proof.Machine
end

