-- ==== Sys2Proof/Machine/Keys.lean ====
section
/-! DEFINITION. Key slots and the life cycle (R544 to R550). -/

namespace Sys2Proof.Machine

/-- R548, R549: the KEY_STAT bit of a SLOT. -/
def slotBit (n : Nat) : Option Nat :=
  if n < 4 then some n else if 0x10 ≤ n ∧ n < 0x14 then some (n - 12) else if n = 0x20 then some 8 else none

def State.key (s : State) (k : Nat) : Option (List Byte) := tget s.lcs.keys k none
def State.setKey (s : State) (k : Nat) (v : Option (List Byte)) : State :=
  { s with lcs := { s.lcs with keys := tput s.lcs.keys k v none } }

/-- R548: bytes of a slot's key. -/
def keyLen (k : Nat) : Nat := if k < 4 then 96 else 32

/-- R234: the signature checks that run: key slot and number. -/
def State.sigRuns (s : State) : List (Nat × Nat) :=
  ([s.img.op, s.img.mod].filterMap id).filterMap fun o => if o.phase = 2 ∧ o.kslot < 4 then some (o.kslot, o.check) else none

/-- R544: the life-cycle state lets a key be written (some) or erased (none) in a slot. -/
def State.keyAllowed (s : State) (k : Nat) (write : Bool) : Bool :=
  let other := (List.range 4).any fun j => j != k && (s.key j).isSome
  match s.lcs.code with
  | 0 => true
  | 1 => write || decide (4 ≤ k) || other || (s.key k).isNone
  | 2 => decide (4 ≤ k) || (if write then (s.key k).isNone else other || (s.key k).isNone)
  | _ => false

/-- R550: a write or an erase: at once, or deferred while the slot is in use. -/
def State.keyChange (s : State) (k : Nat) (v : Option (List Byte)) : State × Reply :=
  let users := (s.sigRuns.filter fun r => r.1 == k).map (·.2)
  if (s.lcs.defer.any fun d => d.slot == k) then (s, .no 0x05 0 0xFF)
  else if !s.keyAllowed k v.isSome then (s, .no 0x09 0 0xFF)
  else if users = [] then (s.setKey k v, .ok 0 [])
  else ({ s with lcs := { s.lcs with defer := s.lcs.defer ++ [⟨k, v, users⟩] } }, .ok 2 [])

/-- A KEY_OP request: session, form of SLOT, and the device owner's right. -/
def State.keyOp (s : State) (e : ImmEnv) (op : Byte) (body : List Byte) (f : State → State × Reply) : State :=
  s.request false e 0x0042 (op :: body) fun s =>
    if body.length < 3 then (s, .no 0x07 1 0xFF)
    else if e.port.val ≠ s.devOwner then (s, .no 0x02 0 0xFF)
    else f s

/-- KEY_WRITE (R544, R549, R550): an image key that is no point on P-384 is refused. -/
def execKeyWrite (e : ImmEnv) (body : List Byte) (s : State) : Host.Outcome State Fault Refusal :=
  .next <| s.keyOp e 1 body fun s => match slotBit (field body 0 1) with
    | none => (s, .no 0x07 1 0xFF)
    | some k =>
      let key := body.drop 3
      if key.length ≠ keyLen k then (s, .no 0x07 4 0xFF)
      else if k < 4 ∧ p384.on (beNum (key.take 48), beNum (key.drop 48)) = false then (s, .no 0x07 4 0xFF)
      else s.keyChange k (some key)

/-- KEY_ERASE (R544, R549, R550): erasing an empty slot changes nothing. -/
def execKeyErase (e : ImmEnv) (body : List Byte) (s : State) : Host.Outcome State Fault Refusal :=
  .next <| s.keyOp e 2 body fun s => match slotBit (field body 0 1) with
    | none => (s, .no 0x07 1 0xFF)
    | some k => if body.length ≠ 3 then (s, .no 0x07 4 0xFF) else s.keyChange k none

/-- KEY_STATUS (R549). -/
def execKeyStatus (e : ImmEnv) (body : List Byte) (s : State) : Host.Outcome State Fault Refusal :=
  .next <| s.keyOp e 3 body fun s =>
    let bits := fun (p : Nat → Bool) => (List.range 9).foldl (fun n k => if p k then n + 2 ^ k else n) 0
    let filled := bits fun k => (s.key k).isSome
    let defer := bits fun k => s.lcs.defer.any fun d => d.slot == k
    let hash := (List.range 4).flatMap fun k => match s.key k with
      | some v => sha384 v
      | none => List.replicate 48 0
    if body.length ≠ 3 then (s, .no 0x07 4 0xFF)
    else (s, .ok 0 ([BitVec.ofNat 8 s.lcs.code, 0#8] ++ numBe 2 filled ++ numBe 2 defer ++ [0#8, 0#8] ++ hash))

/-- R544, R545: an advance to a state is allowed. -/
def State.mayAdvance (s : State) (t : Nat) : Bool :=
  let r := s.role 0
  match s.lcs.code, t with
  | 0, 1 => ((List.range 4).any fun k => (s.key k).isSome) && (s.key (4 + s.devOwner)).isSome
  | 1, 2 => !r.unconf && !s.windowOpen 0 && r.valid r.cur
  | 0, 3 => true
  | 1, 3 => true
  | 2, 3 => true
  | _, _ => false

/-- ADVANCE (R545): the fuse pair is to be blown. -/
def execAdvance (e : ImmEnv) (body : List Byte) (s : State) : Host.Outcome State Fault Refusal :=
  .next <| s.keyOp e 4 body fun s =>
    let t := field body 0 1
    if body.length ≠ 3 then (s, .no 0x07 4 0xFF)
    else if s.lcs.blowing.isSome then (s, .no 0x05 0 0xFF)
    else if !s.mayAdvance t then (s, .no 0x09 0 0xFF)
    else ({ s with lcs := { s.lcs with blowing := some t } }, .ok 0 [])

/-- LIFE_CYCLE_FUSE_BLOWN (R545): the state advances, and a cold reset with CAUSE 0xA is on its way. -/
def execLifeCycleFuseBlown (s : State) : Host.Outcome State Fault Refusal :=
  match s.lcs.blowing with
  | none => .next s
  | some t =>
    let old := s.lcs.code
    let s : State := { s with lcs := { s.lcs with code := t, blowing := none }, mgt := { s.mgt with lateAct := some (.lcReset 0xA) } }
    .next (s.raiseDev EV.lcsChange 0 [old, t])

/-- KEY_DEFERRED_COMPLETE (R550): the last operation that used the slot at the acceptance has ended. -/
def execKeyDeferredComplete (k : Fin 9) (s : State) : Host.Outcome State Fault Refusal :=
  match s.lcs.defer.find? fun d => d.slot == k.val with
  | none => .next s
  | some d =>
    if d.checks.any fun n => s.sigRuns.any fun r => r.2 == n then .next s
    else
      let s : State := { s with lcs := { s.lcs with defer := s.lcs.defer.filter fun x => x.slot != k.val } }
      .next ((s.setKey k d.key).raiseDev EV.keyDone k [k])

end Sys2Proof.Machine
end

