-- ==== Sys2Proof/Machine/Imm.lean ====
section
/-! DEFINITION. The requests of the management link (R480 to R482, R486 to R491). -/

namespace Sys2Proof.Machine

/-! Identity and sessions. -/

/-- IDENTIFY (R487). -/
def execIdentify (e : ImmEnv) (body : List Byte) (s : State) : Host.Outcome State Fault Refusal :=
  .next <| s.request true e 0x0001 body fun s =>
    let cert := Config.cert s.lcs.idKey
    if body.length ≠ 2 then (s, .no 0x07 0 0xFF)
    else (s, .ok 0 (numBe 16 Config.uid.toNat ++ numBe 4 0x8420 ++ [BitVec.ofNat 8 s.lcs.code, 0#8] ++ numBe 2 cert.length
      ++ (cert.drop (field body 0 2)).take 1024))

/-- R480, R481: the key a host slot or the debug slot gives: an empty one is all zero in BLANK and RETURNED, none in the
other states. -/
def State.secretOf (s : State) (k : Nat) : Option (List Byte) := match s.key k with
  | some v => some v
  | none => if s.lcs.code = 0 ∨ s.lcs.code = 3 then some (List.replicate 32 0) else none

/-- SESSION_INIT (R480, R481): SID, N_D and P_D. -/
def execSessionInit (e : ImmEnv) (body : List Byte) (s : State) : Host.Outcome State Fault Refusal :=
  .next <| s.request true e 0x0002 body fun s =>
    let h := e.port.val
    if body.length ≠ 81 then (s, .no 0x07 0 0xFF)
    else match s.secretOf (4 + h) with
      | none => (s, .no 0x09 0 0xFF)
      | some hk => match ecdhP256 (Config.idPriv s.lcs.idKey) (body.take 65) with
        | none => (s, .no 0x07 0 0xFF)
        | some z =>
          let a := s.fresh
          let b := a.2.fresh
          let sid := Config.freeNat a.1 % 65535 + 1
          let nd := leBytes 16 (Config.freeLine b.1).toNat
          let t := body ++ nd ++ numBe 2 sid ++ [BitVec.ofNat 8 h]
          let k0 := hmac hk (z ++ t)
          let s := b.2
          (s.setHost h { s.host h with hs := some ⟨sid, k0, t, e.src.toNat⟩ },
            .ok 0 (numBe 2 sid ++ nd ++ (hmac k0 (0x44#8 :: t)).take 16))

/-- R480: the key of epoch 0 of a stream. -/
def streamKey (k0 : List Byte) (d : Byte) : List Byte := hmac k0 (d :: [0#8, 0#8, 0#8, 0#8])

/-- R481, R482: P_H has verified: an older session closes, the new one is OPEN, and the request is answered in it. -/
def State.openSession (s : State) (e : ImmEnv) (x : Handshake) : State :=
  let h := e.port.val
  let s := s.closeSession h true
  let y : Session := { sid := x.sid, mac := x.mac, kHD := streamKey x.k0 1, kDH := streamKey x.k0 2, expSeq := 1,
                       slots := [⟨0, none⟩], ackDue := true }
  let s := s.setHost h { s.host h with hs := none, sess := some y }
  let s := (s.wr (MGT.MP_HMAC_LO.HMAC h) (x.mac % 2 ^ 32)).wr (MGT.MP_HMAC_HI.HMAC h) (x.mac / 2 ^ 32)
  (s.respondTo e 0x0003 0 []).raiseDev EV.mgtSessionOpen h []

/-- SESSION_FINISH (R479 to R482): under the keys of the handshake; in an open session without one it is refused. -/
def execSessionFinish (e : ImmEnv) (body : List Byte) (s : State) : Host.Outcome State Fault Refusal :=
  let h := e.port.val
  let mine := match (s.host h).hs with
    | some x => if e.sid.toNat = x.sid ∧ e.seq = 0 ∧ immMacOk e 0x0003 body (streamKey x.k0 1) 0 then some x else none
    | none => none
  match mine with
  | none => .next (s.request false e 0x0003 body fun s => (s, .no 0x02 0 0xFF))
  | some x =>
    if !s.frameTaken e then .next s
    else
      let s := s.bump (MGT.RX_CNT h)
      if !immCrcOk e 0x0003 body then .next (s.bump (MGT.CRC_CNT h))
      else if !immFormed e 1 body || !e.auth then .next s
      else if body = (hmac x.k0 (0x48#8 :: x.t)).take 16 then .next (s.openSession e x)
      else .next ((s.setHost h { s.host h with hs := none }).refuse e 0x0003 0x02 0 0xFF)

/-- SESSION_CLOSE (R482): answered, then the session closes. -/
def execSessionClose (e : ImmEnv) (body : List Byte) (s : State) : Host.Outcome State Fault Refusal :=
  let r := s.receive false e 0x0004 body
  if !r.2 then .next r.1
  else if body ≠ [] then .next (r.1.refuse e 0x0004 0x07 0 0xFF)
  else .next ((r.1.respondTo e 0x0004 0 []).closeSession e.port false)

/-! Registers and memory. -/

/-- R314, R318: a request whose accesses the Starter issues: while the Starter's initiator cannot send, it waits at its port
(notes/assumptions/83.md). -/
def State.accessRequest (s : State) (e : ImmEnv) (code : Nat) (body : List Byte) (f : State → State × Reply) : State :=
  if s.initHeld ID.starter then s else s.request false e code body f

/-- R4, R491: an access that ends a request: its code in ARG. -/
def accessArg (st : Status) (i : Nat) : Nat := errCode st * 2 ^ 24 + i

/-- R296, R487: a request the Starter issues for a host, with the rights of a vat: the map and the rights of the vat, the
Starter's attachment, VC3. -/
def State.immAccess (s : State) (v : Nat) (insp : Bool) (rq : NocRq) : State × Status × BitVec 512 :=
  let d := s.decodeRq ID.starter v rq
  if d.2.1 ≠ .okay then (d.1.bump (NOC.ERR_CNT ID.starter), d.2.1, 0)
  else
    let r := ((d.1.bucketWait ID.starter).regUse ID.starter (rq.len.val + 1)).serveAccess ⟨1024, v, false, insp⟩ d.2.2
    (r.1.countAccess ID.starter rq.wr (rq.len.val + 1) r.2.1, r.2.1, r.2.2)

/-- A read of n bytes within a line. -/
def State.immRead (s : State) (v : Nat) (insp : Bool) (a n : Nat) : State × Status × List Byte :=
  let r := s.immAccess v insp ⟨BitVec.ofNat 64 a, false, Fin.ofNat 64 (n - 1), 0, 0, 0, false, true⟩
  (r.1, r.2.1, lineSlice r.2.2 (a % 64) n)

/-- A write of bytes within a line, unpoisoned. -/
def State.immWrite (s : State) (v : Nat) (insp : Bool) (a : Nat) (bs : List Byte) : State × Status :=
  let d : BitVec 512 := BitVec.ofNat 512 (leVal bs * 2 ^ (8 * (a % 64)))
  let r := s.immAccess v insp ⟨BitVec.ofNat 64 a, true, Fin.ofNat 64 (bs.length - 1), 0, 0, d, false, true⟩
  (r.1, r.2.1)

/-- R488: how a run of accesses stands: state, status of the access it stopped at, its index, data read, POISONED met. -/
structure Course where
  s : State
  stop : Option (Status × Nat) := none
  n : Nat := 0
  data : List Byte := []
  poison : Bool := false

/-- R488: accesses one after another, up to the first whose status is neither OKAY nor POISONED. -/
def runAccesses {α : Type} (f : State → α → State × Status × List Byte) (s : State) (l : List α) : Course :=
  l.foldl (fun (c : Course) x => if c.stop.isSome then c else
    let r := f c.s x
    if r.2.1 = .okay ∨ r.2.1 = .poisoned then
      { s := r.1, n := c.n + 1, data := c.data ++ r.2.2, poison := c.poison || r.2.1 == .poisoned }
    else { c with s := r.1, stop := some (r.2.1, c.n) }) { s := s }

/-- The reply to a run of accesses. -/
def Course.reply (c : Course) (v : Nat) (rd : Bool) : Reply := match c.stop with
  | some (st, i) => .no 0x04 (accessArg st i) v
  | none => .ok (if c.poison then 3 else 0) (if rd then c.data else [])

/-- R34: the system address of a register. -/
def regAddr (off : Nat) : Nat := 0x03FF00000000 + off

/-- R487: a host has the right of a vat. -/
def State.ownsVat (s : State) (h v : Nat) : Bool := decide (v < 16) && s.defined v && s.ownerOf v == h

/-- REG_RD, REG_WR: the fields' ranges. -/
def regForm (body : List Byte) (data : Nat) : Option Nat :=
  let n := field body 2 2
  let off := field body 4 4
  if body.length < 8 then some 0
  else if 16 ≤ field body 0 1 then some 0
  else if n = 0 ∨ 256 < n then some 2
  else if off % 4 ≠ 0 ∨ 0x10000000 < off + 4 * n then some 4
  else if body.length ≠ 8 + data * n then some 8
  else none

/-- REG_RD (R487, R488): values big-endian. -/
def execRegRd (e : ImmEnv) (body : List Byte) (s : State) : Host.Outcome State Fault Refusal :=
  .next <| s.accessRequest e 0x0010 body fun s =>
    let v := field body 0 1
    match regForm body 0 with
    | some i => (s, .no 0x07 i 0xFF)
    | none =>
      if !s.ownsVat e.port v then (s, .no 0x02 0 v)
      else
        let c := runAccesses (fun s i => let r := s.immRead v false (regAddr (field body 4 4 + 4 * i)) 4
          (r.1, r.2.1, r.2.2.reverse)) s (List.range (field body 2 2))
        (c.s, c.reply v true)

/-- REG_WR (R487, R488). -/
def execRegWr (e : ImmEnv) (body : List Byte) (s : State) : Host.Outcome State Fault Refusal :=
  .next <| s.accessRequest e 0x0011 body fun s =>
    let v := field body 0 1
    match regForm body 4 with
    | some i => (s, .no 0x07 i 0xFF)
    | none =>
      if !s.ownsVat e.port v then (s, .no 0x02 0 v)
      else
        let c := runAccesses (fun s i =>
          let r := s.immWrite v false (regAddr (field body 4 4 + 4 * i)) (((body.drop (8 + 4 * i)).take 4).reverse)
          (r.1, r.2, [])) s (List.range (field body 2 2))
        (c.s, c.reply v false)

/-- MEM_RD, MEM_WR: the fields' ranges. -/
def memForm (body : List Byte) (data : Bool) : Option Nat :=
  let n := field body 2 2
  if body.length < 12 then some 0
  else if 16 ≤ field body 0 1 then some 0
  else if n = 0 ∨ 1024 < n then some 2
  else if body.length ≠ 12 + (if data then n else 0) then some 12
  else none

/-- R508: an address lies in the image slots or in the user area of the Cellar window. -/
def celGuarded (a : Nat) : Bool := match regionOf (a % 2 ^ 42) with
  | .cellar => decide (a < 2 ^ 63) && (let sec := a % 2 ^ 29 / 65536; decide (sec < 7168) || (decide (7552 ≤ sec) && decide (sec < 8064)))
  | _ => false

/-- An address lies in the Cellar's window. -/
def inCellar (a : Nat) : Bool := match regionOf (a % 2 ^ 42) with
  | .cellar => decide (a < 2 ^ 63)
  | _ => false

/-- R519: an IMM read of these pieces of the window is refused at the level. -/
def State.celBarsImm (s : State) (h : Nat) (l : List (Nat × Nat)) : Bool :=
  (decide (2 ≤ s.cel.level) && l.any fun p => inCellar p.1)
    || (s.cel.level == 1 && h != s.devOwner && l.any fun p => celGuarded p.1)

/-- MEM_RD (R487, R488, R519). -/
def execMemRd (e : ImmEnv) (body : List Byte) (s : State) : Host.Outcome State Fault Refusal :=
  .next <| s.accessRequest e 0x0012 body fun s =>
    let v := field body 0 1
    let n := field body 2 2
    match memForm body false with
    | some i => (s, .no 0x07 i 0xFF)
    | none =>
      let l := linePieces (n / 64 + 2) (field body 4 8) n
      if !s.ownsVat e.port v then (s, .no 0x02 0 v)
      else if s.celBarsImm e.port l then (s, .no 0x0A s.cel.level v)
      else
        let c := runAccesses (fun s (p : Nat × Nat) => s.immRead v false p.1 p.2) s l
        (c.s, c.reply v true)

/-- MEM_WR (R487, R488). -/
def execMemWr (e : ImmEnv) (body : List Byte) (s : State) : Host.Outcome State Fault Refusal :=
  .next <| s.accessRequest e 0x0013 body fun s =>
    let v := field body 0 1
    let n := field body 2 2
    let a := field body 4 8
    match memForm body true with
    | some i => (s, .no 0x07 i 0xFF)
    | none =>
      if !s.ownsVat e.port v then (s, .no 0x02 0 v)
      else
        let c := runAccesses (fun s (p : Nat × Nat) =>
          let r := s.immWrite v false p.1 ((body.drop (12 + (p.1 - a))).take p.2)
          (r.1, r.2, [])) s (linePieces (n / 64 + 2) a n)
        (c.s, c.reply v false)

/-- R10, R487: a counter as 8 bytes, SAT in its top bit. -/
def State.ctrBytes (s : State) (off : Nat) : List Byte :=
  let c := s.ctr off
  numBe 4 c.upper.toNat ++ numBe 4 (c.val % 2 ^ 32)

/-- R487: the counters of a block of STATS; none where BLOCK or INDEX is out of range. -/
def State.statsOf (s : State) (v block index : Nat) : Option (List Nat) :=
  match block with
  | 1 => some [VAT.RESET_CNT v, VAT.IRQ_DISC_CNT v, VAT.RSP_DISC_CNT v]
  | 2 => some [CHURN.CORR_CNTv v, CHURN.RESTORE_CNTv v, CHURN.UNREST_CNTv v]
  | 3 => if isInitiator index && s.vatOfInit index == v then some ((List.range 11).map fun k => NOC.RD_CNT index + 8 * k) else none
  | 4 => some ((List.range 8).map fun n => DDR.LN_CNT n v)
  | _ => none

/-- STATS (R487). -/
def execStats (e : ImmEnv) (body : List Byte) (s : State) : Host.Outcome State Fault Refusal :=
  .next <| s.request false e 0x0014 body fun s =>
    let v := field body 0 1
    if body.length ≠ 4 ∨ 16 ≤ v then (s, .no 0x07 0 0xFF)
    else if !s.ownsVat e.port v then (s, .no 0x02 0 v)
    else match s.statsOf v (field body 1 1) (field body 2 2) with
      | none => (s, .no 0x07 1 v)
      | some l => (s, .ok 0 (l.flatMap s.ctrBytes))

/-! Plane operations, vat reset, reset and power. -/

/-- R487: WIN_MS goes into CFG.WIN of the vats named, where it is not 0. -/
def State.setWins (s : State) (vats : List Nat) (ms : Nat) : State :=
  if ms = 0 then s else vats.foldl (fun (s : State) v => s.wr (CFG.WIN.MS v) ms) s

/-- R487: ARM's TB, SEC and NS go into the arm slot's registers, unless it is armed. -/
def State.setArm (s : State) (vats : List Nat) (tb sec ns : Nat) : State := match armSlot vats with
  | none => s
  | some k =>
    if s.bit (CFG.ARM_CTL.ARMED k) then s
    else
      let s := (s.wr (CFG.ARM_CTL.TB k) tb).wr (CFG.ARM_NS.NS k) ns
      (s.wr (CFG.ARM_SEC_LO.SEC k) (sec % 2 ^ 32)).wr (CFG.ARM_SEC_HI.SEC k) (sec / 2 ^ 32)

/-- PLANE_OP (R215, R226, R487): ordered through CFG.OP_VATS and CFG.OP; a refusal leaves CFG.WIN and the arm slot as they
were. -/
def execPlaneOp (e : ImmEnv) (body : List Byte) (s : State) : Host.Outcome State Fault Refusal :=
  .next <| s.request false e 0x0030 body fun s =>
    let op := field body 0 1
    let tb := field body 1 1
    let vats := maskVats (field body 2 2)
    let ms := field body 4 2
    if body.length ≠ 16 then (s, .no 0x07 0 0xFF)
    else if !([1, 2, 3, 4, 5, 8, 9].contains op) then (s, .no 0x07 0 0xFF)
    else if op = OP.arm ∧ 8 ≤ tb then (s, .no 0x07 1 0xFF)
    else if 60000 < ms then (s, .no 0x07 4 0xFF)
    else if op = OP.arm ∧ 2 ^ 30 ≤ field body 12 4 then (s, .no 0x07 12 0xFF)
    else if vats.any fun v => s.ownerOf v != e.port.val then
      (s, .no 0x02 0 ((vats.find? fun v => s.ownerOf v != e.port.val).getD 0xFF))
    else
      let t := if op = OP.arm then s.setArm vats tb (field body 6 6) (field body 12 4) else s
      let u := if op = OP.activate ∨ op = OP.arm then t.setWins vats ms else t
      let r := u.orderOp op vats 0
      if r.2.1 = 0 ∨ r.2.1 = 0x0A then (r.1, .ok 0 [])
      else
        let q := (s.wr CFG.OP_VATS.VATS (field body 2 2)).opStat r.2.1 r.2.2
        if r.2.1 = 0x0D then (q, .no 0x06 s.mode r.2.2) else (q, .no 0x03 r.2.1 r.2.2)

/-- IMM_VAT_RESET (R263, R487): a reset with a stated hold in µs. -/
def execImmVatReset (e : ImmEnv) (body : List Byte) (s : State) : Host.Outcome State Fault Refusal :=
  .next <| s.request false e 0x0031 body fun s =>
    let v := field body 0 1
    let flags := field body 1 1
    let us := field body 4 4
    if body.length ≠ 8 ∨ 16 ≤ v then (s, .no 0x07 0 0xFF)
    else if 2 ≤ flags then (s, .no 0x07 1 0xFF)
    else if us = 0 ∨ 1000000 < us then (s, .no 0x07 4 0xFF)
    else if !s.ownsVat e.port v then (s, .no 0x02 0 v)
    else if v = 0 then (s, .no 0x03 0 v)
    else ((s.setRstReq v (max (tget s.cfg.rstReq v 0) (1 + flags))).setHold v (us + 1), .ok 0 [])

/-- IMM_RESET (R487, R489). -/
def execImmReset (e : ImmEnv) (body : List Byte) (s : State) : Host.Outcome State Fault Refusal :=
  .next <| s.request false e 0x0040 body fun s =>
    let t := field body 0 1
    if body.length ≠ 1 ∨ t = 0 ∨ 2 < t then (s, .no 0x07 0 0xFF)
    else if e.port.val ≠ s.devOwner then (s, .no 0x02 0 0xFF)
    else if s.mgt.lateAct.isSome then (s, .no 0x05 0 0xFF)
    else ({ s with mgt := { s.mgt with lateAct := some (.reset t e.port) } }, .ok 0 [])

/-- IMM_POWER (R32, R487, R489, R534). -/
def execImmPower (e : ImmEnv) (body : List Byte) (s : State) : Host.Outcome State Fault Refusal :=
  .next <| s.request false e 0x0041 body fun s =>
    let t := field body 0 1
    if body.length ≠ 8 ∨ t = 0 ∨ 3 < t then (s, .no 0x07 0 0xFF)
    else if e.port.val ≠ s.devOwner then (s, .no 0x02 0 0xFF)
    else if !(s.mode == M.run || s.mode == M.fallback) then (s, .no 0x06 s.mode 0xFF)
    else if s.mgt.lateAct.isSome then (s, .no 0x05 0 0xFF)
    else if s.powerRefused t then (s, .no 0x03 0 0xFF)
    else ({ s with mgt := { s.mgt with lateAct := some (.power t (field body 4 4)) } }, .ok 0 [])

/-! Logs. -/

/-- Fields of the given sizes, each turned round: a stored little-endian entry as IMM carries it. -/
def turnFields : List Nat → List Byte → List Byte
  | [], bs => bs
  | n :: t, bs => (bs.take n).reverse ++ turnFields t (bs.drop n)

/-- R491, R496: the fields of an entry of the event log and of the audit log. -/
def evFields : List Nat := [2, 2, 1, 1, 1, 1, 4, 4, 8, 8, 4, 4, 4, 4, 4, 4, 4, 4]
def audFields : List Nat := [8, 1, 1, 2, 2, 2, 4, 1]

/-- Entries of 64 bytes, turned round. -/
def turnEntries (f : List Nat) : Nat → List Byte → List Byte
  | 0, _ => []
  | n + 1, bs => turnFields f (bs.take 64) ++ turnEntries f n (bs.drop 64)

/-- LOG_READ (R487, R496, R522). -/
def execLogRead (e : ImmEnv) (body : List Byte) (s : State) : Host.Outcome State Fault Refusal :=
  .next <| s.request false e 0x0050 body fun s =>
    let h := e.port.val
    let log := field body 0 1
    let n := field body 2 2
    if body.length ≠ 8 ∨ 2 ≤ log then (s, .no 0x07 0 0xFF)
    else if n = 0 ∨ 16 < n then (s, .no 0x07 2 0xFF)
    else if log = 1 ∧ h ≠ s.devOwner then (s, .no 0x02 0 0xFF)
    else
      let r := s.logRead (log == 1) n (field body 4 4) fun v => h == s.devOwner || (decide (v < 16) && s.ownerOf v == h)
      (s, .ok 0 (numBe 4 r.1 ++ turnEntries (if log = 1 then audFields else evFields) (r.2.length / 64) r.2))

end Sys2Proof.Machine
end

