-- ==== Sys2Proof/Machine/CelReq.lean ====
section
/-! DEFINITION. The requests CEL_OP (R520, R521, R528) and BIST_RUN (R551, R557 to R559) of the management link. -/

namespace Sys2Proof.Machine

/-! CEL_OP. -/

/-- A CEL_OP request: its form up to OFFSET, and the device owner's right. `body` is the body after OP. -/
def State.celReq (s : State) (e : ImmEnv) (op : Byte) (body : List Byte) (f : State → State × Reply) : State :=
  s.request false e 0x0043 (op :: body) fun s =>
    if body.length < 7 then (s, .no 0x07 0 0xFF)
    else if e.port.val ≠ s.devOwner then (s, .no 0x02 0 0xFF)
    else f s

/-- R508, R528: the first Cellar offset and the size of a REGION: user area, firmware copies 0 and 1. -/
def celRegion : Nat → Option (Nat × Nat)
  | 0 => some (0x1D800000, 0x2000000)
  | 1 => some (0x1C000000, 0x400000)
  | 2 => some (0x1C400000, 0x400000)
  | _ => none

/-- CEL_OP_READ (R519, R528). -/
def execCelOpRead (e : ImmEnv) (body : List Byte) (s : State) : Host.Outcome State Fault Refusal :=
  .next <| s.celReq e 1 body fun s =>
    let n := field body 1 2
    let off := field body 3 4
    match celRegion (field body 0 1) with
    | none => (s, .no 0x07 1 0xFF)
    | some (base, size) =>
      if n = 0 ∨ 1024 < n then (s, .no 0x07 2 0xFF)
      else if size < off + n then (s, .no 0x07 4 0xFF)
      else if body.length ≠ 7 then (s, .no 0x07 8 0xFF)
      else if 2 ≤ s.cel.level then (s, .no 0x0A s.cel.level 0xFF)
      else (s.celSuspends ((base + off) / 2 ^ 27), .ok 0 (s.celBytes (base + off) n))

/-- The words of a PROGRAM: word number and data. -/
def progWords (off : Nat) (bs : List Byte) : List (Nat × BitVec 64) :=
  (List.range (bs.length / 8)).map fun i => (off / 8 + i, BitVec.ofNat 64 (leVal ((bs.drop (8 * i)).take 8)))

/-- CEL_OP_PROGRAM (R528): answered on acceptance. -/
def execCelOpProgram (e : ImmEnv) (body : List Byte) (s : State) : Host.Outcome State Fault Refusal :=
  .next <| s.celReq e 2 body fun s =>
    let n := field body 1 2
    let off := field body 3 4
    match celRegion (field body 0 1) with
    | none => (s, .no 0x07 1 0xFF)
    | some (base, size) =>
      if n < 8 ∨ 1024 < n ∨ n % 8 ≠ 0 then (s, .no 0x07 2 0xFF)
      else if off % 8 ≠ 0 ∨ size < off + n then (s, .no 0x07 4 0xFF)
      else if body.length ≠ 7 + n then (s, .no 0x07 8 0xFF)
      else if field body 0 1 = s.cel.bootFw + 1 then (s, .no 0x03 0 0xFF)
      else if s.cel.job.isSome then (s, .no 0x05 0 0xFF)
      else
        let j : CelJob := ⟨2, e.port.val, progWords (base + off) (body.drop 7)⟩
        (State.celNext 129 { s with cel := { s.cel with job := some j } } 0, .ok 0 [])

/-- CEL_OP_ERASE (R528): one sector, answered on acceptance. -/
def execCelOpErase (e : ImmEnv) (body : List Byte) (s : State) : Host.Outcome State Fault Refusal :=
  .next <| s.celReq e 3 body fun s =>
    let off := field body 3 4
    match celRegion (field body 0 1) with
    | none => (s, .no 0x07 1 0xFF)
    | some (base, size) =>
      if off % 65536 ≠ 0 ∨ size ≤ off then (s, .no 0x07 4 0xFF)
      else if body.length ≠ 7 then (s, .no 0x07 8 0xFF)
      else if field body 0 1 = s.cel.bootFw + 1 then (s, .no 0x03 0 0xFF)
      else if s.cel.job.isSome then (s, .no 0x05 0 0xFF)
      else
        let sec := (base + off) / 65536
        let j : CelJob := ⟨3, e.port.val, []⟩
        let r := ({ s with cel := { s.cel with job := some j } } : State).celStart ⟨true, sec, sec * 8192, 0, true, false⟩
        (if r.2 then r.1 else r.1.celOpDone j (r.1.rd (CEL.BSTAT.RESULT (bankOf sec))), .ok 0 [])

/-- SET_LEVEL (R520, R521, R528): LEN is the target level. Raising it takes effect at once; lowering it leaves ERASE_PEND and a
cold reset on its way. -/
def execSetLevel (e : ImmEnv) (body : List Byte) (s : State) : Host.Outcome State Fault Refusal :=
  .next <| s.celReq e 4 body fun s =>
    let n := field body 1 2
    if 2 < n then (s, .no 0x07 2 0xFF)
    else if body.length ≠ 7 then (s, .no 0x07 8 0xFF)
    else if s.cel.level ≤ n then (if s.cel.level = n then s else s.setProtLevel n, .ok 0 [])
    else if s.img.op.isSome || s.img.mod.isSome || s.cel.job.isSome || s.mgt.lateAct.isSome then (s, .no 0x05 0 0xFF)
    else
      let s : State := { s with
        cel := { s.cel with erasePend := true, target := n, recs := s.cel.recs + 1 }
        mgt := { s.mgt with lateAct := some (.lcReset 0xB) } }
      (s.celShow, .ok 0 [])

/-- BBT_READ (R528): count, then entries: logical sector, spare, command, reserved. -/
def execBbtRead (e : ImmEnv) (body : List Byte) (s : State) : Host.Outcome State Fault Refusal :=
  .next <| s.celReq e 5 body fun s =>
    let n := field body 1 2
    if n = 0 ∨ 128 < n then (s, .no 0x07 2 0xFF)
    else if body.length ≠ 7 then (s, .no 0x07 8 0xFF)
    else
      let l := (s.cel.grown.drop (field body 3 4)).take n
      (s, .ok 0 (numBe 4 l.length ++ l.flatMap fun (g : Nat × Nat × Nat) =>
        numBe 2 g.1 ++ numBe 2 g.2.1 ++ numBe 2 g.2.2 ++ [0#8, 0#8]))

/-- CEL_OP_STATUS (R528). -/
def execCelOpStatus (e : ImmEnv) (body : List Byte) (s : State) : Host.Outcome State Fault Refusal :=
  .next <| s.celReq e 6 body fun s =>
    if body.length ≠ 7 then (s, .no 0x07 8 0xFF)
    else (s, .ok 0 ([BitVec.ofNat 8 s.cel.level, BitVec.ofNat 8 s.cel.erasePend.toNat] ++ numBe 2 s.cel.grown.length
      ++ numBe 2 s.cel.ramBad.length ++ numBe 4 (s.reg CEL.LOG.DEGRADED.off).toNat))

/-! BIST_RUN. -/

/-- A BIST_RUN request: its form. `body` is the body after OP. -/
def State.bistReq (s : State) (e : ImmEnv) (op : Byte) (body : List Byte) (f : State → State × Reply) : State :=
  s.request false e 0x0044 (op :: body) fun s => if body.length ≠ 7 then (s, .no 0x07 0 0xFF) else f s

/-- BIST_RUN_TEST (R551, R559). -/
def execBistRunTest (e : ImmEnv) (body : List Byte) (s : State) : Host.Outcome State Fault Refusal :=
  .next <| s.bistReq e 1 body fun s =>
    let kind := field body 0 1
    let mem := field body 3 4
    match s.bistVat kind mem with
    | none => (s, .no 0x07 (if 3 ≤ kind then 1 else 4) 0xFF)
    | some v =>
      if !s.running then (s, .no 0x06 s.mode v)
      else if !s.ownsVat e.port v then (s, .no 0x02 0 v)
      else if s.bistBarred kind mem then (s, .no 0x03 0 v)
      else match s.bistFree with
        | none => (s, .no 0x05 0 v)
        | some k => (s.bistAccept k kind mem, .ok 0 [])

/-- BIST_RUN_FUSE (R557, R559). -/
def execBistRunFuse (e : ImmEnv) (body : List Byte) (s : State) : Host.Outcome State Fault Refusal :=
  .next <| s.bistReq e 2 body fun s =>
    let kind := field body 0 1
    let mem := field body 3 4
    if (s.bistVat kind mem).isNone then (s, .no 0x07 (if 3 ≤ kind then 1 else 4) 0xFF)
    else if e.port.val ≠ s.devOwner then (s, .no 0x02 0 0xFF)
    else if s.lcs.code = 3 then (s, .no 0x09 0 0xFF)
    else
      let r := s.fuseStart kind mem
      (r.1, if r.2 then .ok 0 [] else .no 0x03 0 0xFF)

/-- R559: what STATUS says of a controller: STAT and the four words of its record, 0 where the memory is of another host's
vat. -/
def State.bistReport (s : State) (h k : Nat) : List Byte :=
  let w := fun (j : Nat) => (s.reg (BIST.RES.W k j).off).toNat
  let mine : Bool := match s.bistVat (w 0 / 2 ^ 30) (w 0 % 2 ^ 24) with
    | some v => s.ownsVat h v
    | none => false
  numBe 4 (s.bistStat k).toNat ++ (List.range 4).flatMap fun j => numBe 4 (mine.toNat * w j)

/-- BIST_RUN_STATUS (R559). -/
def execBistRunStatus (e : ImmEnv) (body : List Byte) (s : State) : Host.Outcome State Fault Refusal :=
  .next <| s.bistReq e 3 body fun s => (s, .ok 0 ((List.range 4).flatMap (s.bistReport e.port)))

/-- BIST_RUN_DEFECT_READ (R558, R559): MEM is the first index. -/
def execBistRunDefectRead (e : ImmEnv) (body : List Byte) (s : State) : Host.Outcome State Fault Refusal :=
  .next <| s.bistReq e 4 body fun s =>
    let n := field body 1 2
    if n = 0 ∨ 128 < n then (s, .no 0x07 2 0xFF)
    else if e.port.val ≠ s.devOwner then (s, .no 0x02 0 0xFF)
    else
      let l := (s.bist.defects.drop (field body 3 4)).take n
      (s, .ok 0 (numBe 2 s.bist.defects.length ++ [0#8, 0#8] ++ l.flatMap fun (d : Nat × Nat × Nat × Nat) =>
        [BitVec.ofNat 8 d.1, 0#8] ++ numBe 2 d.2.1 ++ numBe 3 d.2.2.1 ++ [BitVec.ofNat 8 d.2.2.2]))

end Sys2Proof.Machine
end

