-- ==== Sys2Proof/Machine/Dbg.lean ====
section
/-! DEFINITION. The Yapin monitor: the debug connection, its requests, halted processors and breakpoints (R500 to R504). -/

namespace Sys2Proof.Machine

/-! The connection. -/

/-- R501: the host holds the connection, and a SCOPE bit of it is granted. -/
def State.dbgMay (s : State) (h bit : Nat) : Bool := match s.dbg.conn with
  | some (g, scope) => g == h && scope.testBit bit
  | none => false

/-- R500: a challenge is void. -/
def State.dbgVoid (s : State) : State := { s with dbg := { s.dbg with chal := none } }

/-- DBG_OPEN (R500): a challenge of 32 random bytes. -/
def execDbgOpen (e : ImmEnv) (body : List Byte) (s : State) : Host.Outcome State Fault Refusal :=
  .next <| s.request false e 0x0060 body fun s =>
    let scope := field body 0 1
    if body.length ≠ 1 ∨ 8 ≤ scope then (s, .no 0x07 0 0xFF)
    else if s.dbg.conn.isSome || s.dbg.chal.isSome || s.bit DBG.CTL.LOCK then (s, .no 0x08 0 0xFF)
    else
      let r := s.fresh
      let c := (leBytes 64 (Config.freeLine r.1).toNat).take 32
      ({ r.2 with dbg := { r.2.dbg with chal := some (e.port, scope, c) } }, .ok 0 c)

/-- R500: what RESP must be, under the debug key. -/
def dbgResp (dk chal : List Byte) (h scope : Nat) : List Byte :=
  hmac dk (chal ++ numBe 16 Config.uid.toNat ++ [BitVec.ofNat 8 h, BitVec.ofNat 8 scope])

/-- DBG_AUTH (R500): a RESP that matches opens the connection; one that does not leaves the challenge void. -/
def execDbgAuth (e : ImmEnv) (body : List Byte) (s : State) : Host.Outcome State Fault Refusal :=
  .next <| s.request false e 0x0061 body fun s =>
    let h := e.port.val
    if body.length ≠ 32 then (s, .no 0x07 0 0xFF)
    else match s.dbg.chal with
      | none => (s, .no 0x08 0 0xFF)
      | some (g, scope, c) =>
        if g ≠ h then (s, .no 0x08 0 0xFF)
        else match s.secretOf 8 with
          | none => (s.dbgVoid, .no 0x09 0 0xFF)
          | some dk =>
            if body = dbgResp dk c h scope then
              let s := s.dbgVoid
              (({ s with dbg := { s.dbg with conn := some (h, scope) } } : State).raiseDev EV.dbgConnect h [], .ok 0 [])
            else (s.dbgVoid, .no 0x08 0 0xFF)

/-- DBG_CHALLENGE_TIMEOUT (R500): 10 s without an answer. -/
def execDbgChallengeTimeout (s : State) : Host.Outcome State Fault Refusal := .next s.dbgVoid

/-- DBG_CLOSE (R504). -/
def execDbgClose (e : ImmEnv) (body : List Byte) (s : State) : Host.Outcome State Fault Refusal :=
  .next <| s.request false e 0x0062 body fun s =>
    if body ≠ [] then (s, .no 0x07 0 0xFF)
    else if s.dbg.conn.map (·.1) ≠ some e.port.val then (s, .no 0x08 0 0xFF)
    else (s.dbgEnd, .ok 0 [])

/-! Memory and registers (R502). -/

/-- The fields' ranges of DBG_RD and DBG_WR. -/
def dbgForm (body : List Byte) (data : Bool) : Option Nat :=
  let n := field body 2 2
  let a := field body 4 8
  if body.length < 12 then some 0
  else if 2 ≤ field body 0 1 then some 0
  else if n = 0 ∨ 1024 < n ∨ (field body 0 1 = 1 ∧ n % 4 ≠ 0) then some 2
  else if field body 0 1 = 1 ∧ (a % 4 ≠ 0 ∨ 0x10000000 < a + n) then some 4
  else if body.length ≠ 12 + (if data then n else 0) then some 12
  else none

/-- A read of the monitor within a line: a dirty line is taken from L2. -/
def State.dbgRead (s : State) (a n : Nat) : State × Status × List Byte := match s.l2Look a n with
  | some r => (s, r)
  | none => s.immRead 0 true a n

/-- A write of the monitor within a line: the caches lose it. -/
def State.dbgWrite (s : State) (a : Nat) (bs : List Byte) : State × Status :=
  let r := s.immWrite 0 true a bs
  (if r.2 = .okay then r.1.snoopInval a else r.1, r.2)

/-- DBG_RD (R501, R502, R519): register values go out big-endian, as those of REG_RD. -/
def execDbgRd (e : ImmEnv) (body : List Byte) (s : State) : Host.Outcome State Fault Refusal :=
  .next <| s.accessRequest e 0x0063 body fun s =>
    let n := field body 2 2
    let a := field body 4 8
    match dbgForm body false with
    | some i => (s, .no 0x07 i 0xFF)
    | none =>
      if !s.dbgMay e.port 0 then (s, .no 0x08 0 0xFF)
      else if field body 0 1 = 1 then
        let c := runAccesses (fun s i => let r := s.immRead 0 true (regAddr (a + 4 * i)) 4
          (r.1, r.2.1, r.2.2.reverse)) s (List.range (n / 4))
        (c.s, c.reply 0 true)
      else
        let l := linePieces (n / 64 + 2) a n
        if s.celBarsImm e.port l then (s, .no 0x0A s.cel.level 0)
        else
          let c := runAccesses (fun s (p : Nat × Nat) => s.dbgRead p.1 p.2) s l
          (c.s, c.reply 0 true)

/-- DBG_WR (R501, R502). -/
def execDbgWr (e : ImmEnv) (body : List Byte) (s : State) : Host.Outcome State Fault Refusal :=
  .next <| s.accessRequest e 0x0064 body fun s =>
    let n := field body 2 2
    let a := field body 4 8
    match dbgForm body true with
    | some i => (s, .no 0x07 i 0xFF)
    | none =>
      if !s.dbgMay e.port 1 then (s, .no 0x08 0 0xFF)
      else if field body 0 1 = 1 then
        let c := runAccesses (fun s i =>
          let r := s.immWrite 0 true (regAddr (a + 4 * i)) (((body.drop (12 + 4 * i)).take 4).reverse)
          (r.1, r.2, [])) s (List.range (n / 4))
        (c.s, c.reply 0 false)
      else
        let c := runAccesses (fun s (p : Nat × Nat) =>
          let r := s.dbgWrite p.1 ((body.drop (12 + (p.1 - a))).take p.2)
          (r.1, r.2, [])) s (linePieces (n / 64 + 2) a n)
        (c.s, c.reply 0 false)

/-! Processors (R503). -/

/-- R501: HALTED and PC of the processor of CORE_CTL k. The pc of one that runs is open (notes/assumptions/50.md). -/
def State.runBody (s : State) (k : Nat) : State × List Byte :=
  if s.bit (SVC.CORE_CTL.HALTED k) then (s, 1#8 :: numBe 8 (s.proc (coreOf k)).pc)
  else
    let r := s.fresh
    (r.2, 0#8 :: numBe 8 (Config.freeNat r.1 % 2 ^ 64))

/-- Ask a processor to halt (1) or to step (2), and owe the host its answer. -/
def State.askCore (s : State) (k n : Nat) (e : ImmEnv) : State :=
  { s with dbg := { s.dbg with
    resume := tput s.dbg.resume k n 0, owed := tput s.dbg.owed k (some (e.port.val, e.seq.toNat)) none } }

/-- A DBG_RUN request: the form of CORE, and the connection's SCOPE. -/
def State.dbgRun (s : State) (e : ImmEnv) (core action : Byte) (f : State → Nat → State × Reply) : State :=
  s.request false e 0x0065 [core, action] fun s =>
    if 5 ≤ core.toNat then (s, .no 0x07 0 0xFF)
    else if !s.dbgMay e.port 2 then (s, .no 0x08 0 0xFF)
    else f s core.toNat

/-- DBG_RUN_HALT (R501, R503): answered once the processor has halted (PROCESSOR_HALTED). -/
def execDbgRunHalt (e : ImmEnv) (core : Byte) (s : State) : Host.Outcome State Fault Refusal :=
  .next <| s.dbgRun e core 0 fun s k =>
    if s.bit (SVC.CORE_CTL.HALTED k) then (let r := s.runBody k; (r.1, .ok 0 r.2)) else (s.askCore k 1 e, .silent)

/-- DBG_RUN_RESUME (R501, R503). -/
def execDbgRunResume (e : ImmEnv) (core : Byte) (s : State) : Host.Outcome State Fault Refusal :=
  .next <| s.dbgRun e core 1 fun s k =>
    let r := (s.resumeCore k).runBody k
    (r.1, .ok 0 r.2)

/-- DBG_RUN_STEP (R501, R503): of a halted processor; it stays halted to interrupts while it runs one instruction. -/
def execDbgRunStep (e : ImmEnv) (core : Byte) (s : State) : Host.Outcome State Fault Refusal :=
  .next <| s.dbgRun e core 2 fun s k =>
    if s.bit (SVC.CORE_CTL.HALTED k) then (s.askCore k 2 e, .silent) else (s, .no 0x03 0 0)

/-- DBG_RUN_STATUS (R501). -/
def execDbgRunStatus (e : ImmEnv) (core : Byte) (s : State) : Host.Outcome State Fault Refusal :=
  .next <| s.dbgRun e core 3 fun s k => (let r := s.runBody k; (r.1, .ok 0 r.2))

/-- R503: a processor is halted: HALTED, the reservation gone, its offers elsewhere. -/
def State.haltCore (s : State) (k : Nat) (r : CpuRun) : State :=
  let s := s.cpuRan (coreOf k) r
  let p := { s.proc (coreOf k) with resv := none }
  (((s.setProc (coreOf k) p).wrb (SVC.CORE_CTL.HALTED k) true).wrb (SVC.CORE_CTL.WFI k) false).reoffer

/-- R486: the answer a DBG_RUN request waits for. -/
def State.payOwed (s : State) (k : Nat) : State := match tget s.dbg.owed k none with
  | none => s
  | some (h, q) =>
    let r := ({ s with dbg := { s.dbg with owed := tput s.dbg.owed k none none } } : State).runBody k
    r.1.respondSeq h 0x0065 q r.2

/-- PROCESSOR_HALTED (R503): a processor asked to halt, or to step, is at its instruction boundary. -/
def execProcessorHalted (k : Fin 5) (r : CpuRun) (s : State) : Host.Outcome State Fault Refusal :=
  if tget s.dbg.resume k 0 = 0 then .next (s.payOwed k)
  else if !s.procRuns (coreOf k) then .next s
  else
    let s := s.haltCore k r
    .next (({ s with dbg := { s.dbg with resume := tput s.dbg.resume k 0 0 } } : State).payOwed k)

/-- BREAKPOINT_HIT (R503): an enabled breakpoint halts the processor before the instruction at ADDR. -/
def execBreakpointHit (k : Fin 5) (i : Fin 4) (r : CpuRun) (s : State) : Host.Outcome State Fault Refusal :=
  let b := tget s.dbg.bkpts (4 * k.val + i.val) 0
  if b = 0 ∨ s.procRuns (coreOf k) = false ∨ s.bit (SVC.CORE_CTL.HALTED k.val) then .next s
  else
    let s := s.haltCore k { r with pc := BitVec.ofNat 64 (b - 1) }
    .next (({ s with dbg := { s.dbg with resume := tput s.dbg.resume k 0 0 } } : State).payOwed k)

/-- R455, R460, R474: a CSR as processor c reads it: the pending bits show the interrupt that the controller offers (MEIP, or SEIP with
NORM_LVL = 1), and hgeip of a service core the lines of the guests, with SGEIP where hgeie enables one. -/
def State.csrSeen (s : State) (c n : Nat) : BitVec 64 :=
  let w := (s.proc c).getCsr n
  let core := decide (1 ≤ c) && decide (c ≤ 4)
  let offered := s.irq.offer.any fun p => p.2 == c + 1 && !s.bit (IRQ.SRC_CFG.CLASS p.1)
  let sup := core && s.bit (IRQ.CORE_CFG.NORM_LVL c)
  let seip := if offered && sup then 0x200#64 else 0
  let guests := BitVec.ofNat 64 (s.hgeip (c - 1))
  if n = 0x344 then
    w ||| (if offered && !sup then 0x800#64 else 0) ||| seip
      ||| (if core && guests &&& (s.proc c).getCsr 0x607 != 0 then 0x1000#64 else 0)
  else if n = 0x144 then w ||| seip
  else if n = 0xE12 ∧ core then guests
  else w

/-- R503: read a register of processor c: KIND 0 integer, 1 floating-point, 2 CSR. -/
def State.dbgGet (s : State) (c kind n : Nat) : BitVec 64 := match kind with
  | 0 => (s.proc c).getX n
  | 1 => tget (s.proc c).f n 0
  | _ => s.csrSeen c n

/-- R503: write a register of processor c; a write of 0 to msterr releases the store-error source (R452). -/
def State.dbgPut (s : State) (c kind n : Nat) (v : BitVec 64) : State :=
  let p := s.proc c
  let v := xlen c v
  match kind with
  | 0 => s.setProc c (p.setX n v)
  | 1 => s.setProc c { p with f := tput p.f n v 0 }
  | _ =>
    let s := s.setProc c (p.csrWrite n v)
    if n = csrMsterr ∧ v = 0 then s.srcSet (774 + c) false else s.reoffer

/-- DBG_CPU (R501, R503): answers the value read, or written. -/
def execDbgCpu (e : ImmEnv) (body : List Byte) (s : State) : Host.Outcome State Fault Refusal :=
  .next <| s.request false e 0x0066 body fun s =>
    let k := field body 0 1
    let kind := field body 1 1
    let n := field body 2 2
    let wr := field body 4 1
    if body.length ≠ 16 ∨ 5 ≤ k then (s, .no 0x07 0 0xFF)
    else if 3 ≤ kind then (s, .no 0x07 1 0xFF)
    else if (if kind = 2 then 4096 else 32) ≤ n then (s, .no 0x07 2 0xFF)
    else if 2 ≤ wr then (s, .no 0x07 4 0xFF)
    else if !s.dbgMay e.port 2 then (s, .no 0x08 0 0xFF)
    else if !s.bit (SVC.CORE_CTL.HALTED k) then (s, .no 0x03 0 0)
    else
      let s := if wr = 1 then s.dbgPut (coreOf k) kind n (BitVec.ofNat 64 (field body 8 8)) else s
      (s, .ok 0 (numBe 8 (s.dbgGet (coreOf k) kind n).toNat))

/-- DBG_BKPT (R501, R503): a breakpoint is set to ADDR, or cleared. -/
def execDbgBkpt (e : ImmEnv) (body : List Byte) (s : State) : Host.Outcome State Fault Refusal :=
  .next <| s.request false e 0x0067 body fun s =>
    let k := field body 0 1
    let i := field body 1 1
    let en := field body 2 1
    if body.length ≠ 12 ∨ 5 ≤ k then (s, .no 0x07 0 0xFF)
    else if 4 ≤ i then (s, .no 0x07 1 0xFF)
    else if 2 ≤ en then (s, .no 0x07 2 0xFF)
    else if !s.dbgMay e.port 2 then (s, .no 0x08 0 0xFF)
    else
      ({ s with dbg := { s.dbg with bkpts := tput s.dbg.bkpts (4 * k + i) (if en = 1 then field body 4 8 + 1 else 0) 0 } },
        .ok 0 [])

end Sys2Proof.Machine
end

