-- ==== Sys2Proof/Machine/Qm.lean ====
section
/-! DEFINITION. The queue manager's traffic: descriptors (R399 to R402), receive frames written (R403), staging, launch and
completion of transmit frames (R406 to R408, R413). -/

namespace Sys2Proof.Machine

/-- The enabled queues of a direction at a port, lowest number first. -/
def State.queuesOf (s : State) (m : Nat) (dir : Bool) : List Nat :=
  (s.regs.filterMap fun (p : Nat × Word) =>
    let q := (p.1 - 0x4900000) / 0x20
    if 0x4900000 ≤ p.1 ∧ q < 65536 ∧ p.1 % 0x20 = 0 ∧ wget p.2 31 31 = 1 then some q else none).filter fun q =>
      s.bit (QM.QCFG.DIR q) == dir && s.rd (QM.QCFG.PORT q) == m

/-- R401: what issues the accesses of a queue: one of the queue manager's attachments (R295, notes/assumptions/61.md). -/
def State.qReq (s : State) (q : Nat) : Req := ⟨20 + 4 * (q % 6), (s.vatOfQueue q).getD 0, false, false⟩

/-- R400: where descriptor k of a queue lies. -/
def State.descAt (s : State) (q k : Nat) : Nat :=
  s.rd64 (QM.RING_LO.RING q).off (QM.RING_HI.RING q).off / 64 * 64 + 32 * (k % 2 ^ s.rd (QM.QCFG.SIZE q))

/-- Word k of a descriptor. -/
def descW (bs : List Byte) (k : Nat) : Nat := leVal ((bs.drop (4 * k)).take 4)

/-- R401: a descriptor's bits that are reserved are 0. -/
def descClean (rx : Bool) (bs : List Byte) : Bool :=
  decide (descW bs 2 / 2 ^ 14 % 2 ^ 14 = 0) && decide (descW bs 5 / 2 ^ 22 = 0) && decide (descW bs 6 / 2 ^ 30 = 0)
    && decide (descW bs 7 / 16 % 2 ^ 27 = 0)
    && (if rx then decide (descW bs 2 / 2 ^ 29 = 0) && decide (descW bs 3 = 0) else decide (descW bs 3 / 2 ^ 16 = 0))

/-- R401: a transmit descriptor the queue manager works on. -/
def State.txDescOk (s : State) (q : Nat) (bs : List Byte) : Bool :=
  let len := descW bs 2 % 2 ^ 14
  let nofcs := (descW bs 2).testBit 29
  descClean false bs && decide (0 < len)
    && decide ((if nofcs then len else len + 4) ≤ s.rd (FEN.PORT_CTL.MAXLEN (s.rd (QM.QCFG.PORT q))))
    && decide (descW bs 6 % 2 ^ 30 ≤ 999999999)

/-- R401: the launch time of a descriptor in 1/64 ns. -/
def descLaunch (bs : List Byte) : Option Nat :=
  if (descW bs 2).testBit 31 then
    some ((descW bs 4 + 2 ^ 32 * (descW bs 5 % 2 ^ 16)) * 64000000000 + descW bs 6 % 2 ^ 30 * 64 + descW bs 5 / 2 ^ 16 % 64)
  else none

/-- R399, R401: fetch descriptor k of a running queue; a failed fetch or a bad descriptor stops the queue. -/
def State.fetchDesc (s : State) (q k : Nat) : State × Option (List Byte) :=
  let r := s.memRead (s.qReq q) (s.descAt q k) 32 0
  let rx := s.bit (QM.QCFG.DIR q)
  if r.2.1 ≠ .okay then (r.1.qStop q 1, none)
  else if (if rx then descClean true r.2.2 else s.txDescOk q r.2.2) = false then (r.1.qStop q 2, none)
  else (r.1, some r.2.2)

/-- R402: the completion of descriptor k: word 7 with WB, then CIDX, then QCOMP with IRQ. -/
def State.completeDesc (s : State) (q k result : Nat) (irq : Bool) : State :=
  let r := if s.bit (QM.QCFG.WB q) then s.memWrite (s.qReq q) (s.descAt q k + 28) (leBytes 4 (2 ^ 31 + result)) false 0
    else (s, .okay)
  if r.2 ≠ .okay then r.1.qStop q 1
  else
    let s := r.1.wr (QM.CIDX.CIDX q) ((k + 1) % 65536)
    if irq then s.fenFlag (s.rd (QM.QCFG.PORT q)) FEN.IRQ_STAT.QCOMP else s

/-! Packet buffer (R404). -/

/-- R404: a free cell of the overflow region at or after cell k, cyclically; the first argument counts the cells in use. -/
def freeCellAt (used : List Nat) (total : Nat) : Nat → Nat → Nat
  | 0, k => k % total
  | j + 1, k => if used.contains (k % total) then freeCellAt used total j (k + 1) else k % total

/-- R404: cells of the overflow region for a frame; which of the free ones is open (notes/assumptions/85.md). -/
def State.ovfPlace (s : State) : Nat → List Nat → State × List Nat
  | 0, _ => (s, [])
  | n + 1, used =>
    let k := s.fresh
    let c := freeCellAt used s.ovfCells used.length (Config.freeNat k.1)
    let r := State.ovfPlace k.2 n (c :: used)
    (r.1, c :: r.2)

/-- R404, R405: what issues the accesses to the overflow region for a queue: an attachment of the queue manager, as vat 0. -/
def ovfReq (q : Nat) : Req := ⟨20 + 4 * (q % 6), 0, false, false⟩

/-- R404: where a cell of the overflow region lies. -/
def State.ovfAt (s : State) (c : Nat) : Nat := s.rd64 QM.OVF_LO.BASE.off QM.OVF_HI.BASE.off + 256 * c

/-- R404: the bytes of a frame go to its cells of the overflow region. -/
def State.ovfWrites (s : State) (q : Nat) (cells : List Nat) (bs : List Byte) (poison : Bool) : State :=
  (cells.foldl (fun (r : State × List Byte) c =>
    ((r.1.memWrites (ovfReq q) (s.ovfAt c) (r.2.take 256) poison 0).1, r.2.drop 256)) (s, bs)).1

/-- R404, R410: a frame as it is read back from the overflow region: a cell not answered OKAY is a poisoned one
(notes/assumptions/85.md). -/
def State.ovfReads (s : State) (q : Nat) (f : HeldF) : State × HeldF :=
  let r := f.place.foldl (fun (r : State × Bool × List Byte) c =>
    let x := r.1.memReads (ovfReq q) (s.ovfAt c) (min 256 (f.bytes.length - r.2.2.length)) 0
    let n := min 256 (f.bytes.length - r.2.2.length)
    (x.1, r.2.1 || x.2.1 != .okay, r.2.2 ++ (x.2.2 ++ List.replicate (n - x.2.2.length) 0))) (s, false, [])
  if f.ovf then (r.1, { f with bytes := r.2.2, result := if r.2.1 then 2 else f.result }) else (s, f)

/-- R404, R411: put a received frame into the packet buffer for a queue of vat v. -/
def State.bufPut (s : State) (m q v : Nat) (bs : List Byte) (result ts : Nat) : State :=
  let cells := (bs.length + 255) / 256
  let free := 65536 - s.cellsUsed false
  if s.rd (QM.VQUOTA.CELLS v) < s.cellsOfVat v + cells then (s.bump (QM.QUOTA_DROP v)).fenFlag m FEN.IRQ_STAT.DROP
  else
    if s.rd QM.OVF_THR.THR < free ∧ cells ≤ free then s.setHeld q (tget s.fen.held q [] ++ [⟨bs, result, ts, cells, false, []⟩])
    else if !s.vatQPaused v && decide (s.cellsUsed true + cells ≤ s.ovfCells) then
      let r := s.ovfPlace cells (s.fen.held.flatMap fun p => p.2.flatMap (·.place))
      let s := r.1.ovfWrites q r.2 bs (result == 2)
      s.setHeld q (tget s.fen.held q [] ++ [⟨bs, result, ts, cells, true, r.2⟩])
    else
      let s := (s.bump QM.BUF_DROP).fenFlag m FEN.IRQ_STAT.DROP
      if s.fen.full then s
      else ({ s with fen := { s.fen with full := true } } : State).raiseDev EV.qmBufFull 0 []

/-! Receive. -/

/-- R403, R411: a frame for a receive queue. -/
def State.rxQueue (s : State) (m q : Nat) (bs : List Byte) (result ts : Nat) : State :=
  let ok := decide (q < 65536) && s.bit (QM.QCFG.EN q) && s.bit (QM.QCFG.DIR q) && s.rd (QM.QCFG.PORT q) == m && !s.qStopped q
    && s.vatOfQueue q == s.vatOfLane m
  match s.vatOfQueue q with
  | some v => if ok then s.bufPut m q v bs result ts else s.qDrop m q (FEN.RX_NOQ_DROP m)
  | none => s.fenDrop m (FEN.RX_NOQ_DROP m)

/-- RX_FRAME (R395, R397, R403, R409, R411, R431, R437): a frame arrives, its FCS last; `bad`: a PCS or FEC error;
`phase`: of its time-stamp point; `taken`: the stream or the engine could take it; `upset`: a cell it goes to is poisoned. -/
def execRxFrame (m : Fin 100) (bs : List Byte) (bad : Bool) (phase : Fin 64) (taken poisoned : Bool) (s : State) :
    Host.Outcome State Fault Refusal :=
  let m := m.val
  if s.bit (FEN.PORT_CTL.EN m) = false ∨ s.bit (FEN.PORT_STAT.LINK m) = false then .next s
  else if bs.length < 64 then .next (s.fenDrop m (FEN.RX_RUNT m))
  else
    let err := bad || !fcsGood bs
    let maxlen := s.rd (FEN.PORT_CTL.MAXLEN m)
    let ptpq := s.bit (FEN.RX_CFG.PTPQ_EN m) && (ptpAt bs).isSome
    let queued := ptpq || s.bit (FEN.PORT_CTL.RX_MODE m)
    if err && !s.bit (FEN.RX_CFG.BADFCS m) then .next (s.fenDrop m (FEN.RX_FCS m))
    else if !err && (macControl bs).isSome then
      .next (if s.bit (FEN.FC_CTL.RX_EN m) then s.flowControl m bs ((macControl bs).getD 0) else s)
    else if queued ∧ maxlen < bs.length then .next (s.fenDrop m (FEN.RX_LONG m))
    else if queued ∧ !taken then .next (s.fenDrop m (FEN.RX_FIFO_DROP m))
    else
      let s := (s.bump (FEN.RX_FRAMES m)).bump (FEN.RX_BYTES m) bs.length
      let t := s.rxStamp m (s.rawTime m phase.val)
      let cut := decide (maxlen < bs.length)
      let body := if cut then bs.take maxlen else bs.take (bs.length - 4)
      let r := if s.bit (TIME.PTP_CTL.TC_IN m) && !cut then ptpRx body t else some body
      let s := if r.isNone then s.bump (TIME.PTP_NOFIX_CNT m) else s
      let body := r.getD body
      let out := if cut || s.bit (FEN.RX_CFG.STRIP m) then body
        else if err then body ++ bs.drop (bs.length - 4) else body ++ fcsOf body
      if queued then
        let q := if ptpq then s.rd (FEN.RX_Q.PTP_Q m) else s.rd (FEN.RX_Q.QBASE m) + s.rxClass m bs
        .next (s.rxQueue m q out (if poisoned then 2 else if err then 1 else 0) (stampKey t))
      else .next (s.rxStream m out (err || cut) taken (stampKey t))

/-- R403, R410: the oldest frame held for a queue goes into the buffer of a descriptor. -/
def State.rxInto (s : State) (q k : Nat) (d : List Byte) (f : HeldF) (rest : List HeldF) : State :=
  let addr := descW d 0 + 2 ^ 32 * descW d 1
  let r := s.memWrites (s.qReq q) addr f.bytes (f.result == 2) 0
  if r.2 ≠ .okay then r.1.qStop q 4
  else
    let t := f.ts
    let w2 := leBytes 4 (descW d 2 / 2 ^ 14 * 2 ^ 14 + f.bytes.length % 2 ^ 14)
    let sec := t / 2 ^ 38
    let ns := t / 64 % 2 ^ 32
    let w46 := leBytes 4 (sec % 2 ^ 32) ++ leBytes 4 (t % 64 * 2 ^ 16 + sec / 2 ^ 32 % 2 ^ 16) ++ leBytes 4 ns
    let a := r.1.memWrite (s.qReq q) (s.descAt q k + 8) w2 false 0
    let b := if a.2 = .okay then a.1.memWrite (s.qReq q) (s.descAt q k + 16) w46 false 0 else a
    if b.2 ≠ .okay then b.1.qStop q 1
    else (b.1.setHeld q rest).completeDesc q k f.result ((descW d 2).testBit 28)

/-- RX_FRAME_WRITE (R402, R403, R410, R411): the next frame held for a receive queue. A frame longer than BUFLEN is dropped
without consuming the descriptor. -/
def execRxFrameWrite (n : Fin 65536) (s : State) : Host.Outcome State Fault Refusal :=
  let q := n.val
  match tget s.fen.held q [] with
  | [] => .next s
  | f :: rest =>
    let k := s.rd (QM.CIDX.CIDX q)
    if s.qRuns q = false ∨ s.bit (QM.QCFG.DIR q) = false ∨ s.qAvail q (s.rd (QM.PIDX.PIDX q)) = 0
      ∨ s.initHeld (s.qReq q).id then .next s
    else match s.fetchDesc q k with
      | (s, none) => .next s
      | (s, some d) =>
        let m := s.rd (QM.QCFG.PORT q)
        if descW d 2 % 2 ^ 14 < f.bytes.length then .next ((s.setHeld q rest).qDrop m q (FEN.RX_NOQ_DROP m))
        else
          let r := s.ovfReads q f
          .next (r.1.rxInto q k d r.2 rest)

/-! Transmit. -/

/-- Frames of a queue past CIDX: in the store, on the wire, or dropped and not completed. -/
def State.qInFlight (s : State) (m q : Nat) : Nat :=
  let p := s.fport m
  (p.store.filter fun f => f.q == some q).length + (p.done.filter fun d => d.1.q == some q).length
    + (p.wire.toList.filter fun f => f.q == some q).length

/-- R406, R407: the index of the next descriptor a transmit queue can stage: none while a timed frame of the queue is staged,
while its class is held, or where no descriptor is left. -/
def State.stageIdx (s : State) (m q : Nat) : Option Nat :=
  let p := s.fport m
  let n := s.qInFlight m q
  if s.qRuns q && !s.initHeld (s.qReq q).id && !p.holds (s.rd (QM.QCFG.CLASS q)) && decide (n < s.qAvail q (s.rd (QM.PIDX.PIDX q)))
      && !(p.store.any fun f => f.q == some q && f.launch.isSome)
    then some ((s.rd (QM.CIDX.CIDX q) + n) % 65536) else none

/-- R406, R407: a fetched head frame can be staged now: room in the store, and a timed frame at most LEAD µs away. A frame to be
dropped needs neither. -/
def State.canStage (s : State) (m : Nat) (d : List Byte) : Bool :=
  let len := descW d 2 % 2 ^ 14
  let segs := (len + (if (descW d 2).testBit 29 then 0 else 4) + 63) / 64
  let room := decide (storeSegs (s.fport m).store + segs ≤ 1024)
  match descLaunch d with
  | none => room
  | some t => !(s.tb (s.portTb m)).started
      || (room && decide (s.startOf m t ≤ s.portNow m + s.rd (FEN.TX_CFG.LEAD m) * 64000))

/-- The frame of a descriptor with data read, for the store. -/
def State.txFrame (s : State) (q k : Nat) (d bs : List Byte) (poison : Bool) : TxF :=
  { q := some q, idx := k, bytes := bs, nofcs := (descW d 2).testBit 29, poison := poison,
    fid := if (descW d 2).testBit 30 then some (descW d 3 % 2 ^ 16) else none,
    launch := descLaunch d, irq := (descW d 2).testBit 28, cls := s.rd (QM.QCFG.CLASS q) }

/-- R402: a frame is dropped with a RESULT; its descriptor is completed in ring order. -/
def State.txDrop (s : State) (m : Nat) (f : TxF) (result off : Nat) : State :=
  let p := s.fport m
  (s.setFport m { p with done := p.done ++ [(f, result)] }).qDrop m (f.q.getD 0) off

/-- R401, R406, R408: stage the frame of a descriptor, or drop it: a time base never started, a link that is down with
DOWN_DROP, or a late frame with LATE_DROP. A timed frame whose start instant has passed is late. -/
def State.stageFrame (s : State) (m q k : Nat) (d : List Byte) : State :=
  let dead := s.txFrame q k d [] false
  let late := match descLaunch d with
    | some t => decide (s.startOf m t < s.portNow m)
    | none => false
  if (descLaunch d).isSome ∧ (s.tb (s.portTb m)).started = false then s.txDrop m dead 5 (FEN.TX_TIME_DROP m)
  else if s.bit (FEN.PORT_STAT.LINK m) = false ∧ s.bit (FEN.PORT_CTL.DOWN_DROP m) then s.txDrop m dead 4 (FEN.TX_DOWN_DROP m)
  else if late && s.bit (QM.QCFG.LATE_DROP q) then s.txDrop m dead 2 (FEN.TX_LATE_DROP m)
  else
    let r := s.memReads (s.qReq q) (descW d 0 + 2 ^ 32 * descW d 1) (descW d 2 % 2 ^ 14) 0
    if r.2.1 ≠ .okay ∧ r.2.1 ≠ .poisoned then r.1.qStop q 4
    else
      let f := s.txFrame q k d r.2.2 (r.2.1 == .poisoned)
      let f := if late then { f with late := true, launch := none } else f
      let p := r.1.fport m
      r.1.setFport m { p with store := p.store ++ [f] }

/-- R406: deficit round robin among the candidates (queue, bytes of its head frame) of a port and class: from the queue drawn
last on, each visit but the first of that queue adds WEIGHT × 64. The first argument bounds the visits. -/
def drrPick (weight : Nat → Nat) : Nat → List (Nat × Nat) → Tab Nat → Bool → Option (Nat × Nat × Tab Nat)
  | 0, _, _, _ => none
  | _ + 1, [], _, _ => none
  | k + 1, (q, len) :: t, def_, again =>
    let def_ := if again then def_ else tput def_ q (tget def_ q 0 + weight q * 64) 0
    if len ≤ tget def_ q 0 then some (q, len, tput def_ q (tget def_ q 0 - len) 0)
    else drrPick weight k (t ++ [(q, len)]) def_ false

/-- The candidates of a class, their heads fetched, in queue order. -/
def State.stageCands (s : State) (m c : Nat) : State × List (Nat × Nat × List Byte) :=
  ((s.queuesOf m false).filter fun q => s.rd (QM.QCFG.CLASS q) == c).foldl
    (fun (r : State × List (Nat × Nat × List Byte)) q => match r.1.stageIdx m q with
      | none => r
      | some k => match r.1.fetchDesc q k with
        | (s, none) => (s, r.2)
        | (s, some d) => if s.canStage m d then (s, r.2 ++ [(q, k, d)]) else (s, r.2)) (s, [])

/-- R406: stage one frame of the highest class that has one. The first argument counts the classes left. -/
def State.stageFrom (m : Nat) : Nat → State → State
  | 0, s => s
  | c + 1, s =>
    let r := s.stageCands m c
    if r.2 = [] then State.stageFrom m c r.1
    else
      let s := r.1
      let at_ := 8 * m + c
      let cur := tget s.fen.cur at_ 0
      let lens := r.2.map fun x => (x.1, descW x.2.2 2 % 2 ^ 14)
      let order := lens.filter (fun x => cur ≤ x.1 + 1) ++ lens.filter (fun x => x.1 + 1 < cur)
      let again := match order with
        | x :: _ => x.1 + 1 == cur
        | [] => false
      match drrPick (fun q => s.rd (QM.QCFG.WEIGHT q)) (258 * (order.length + 1)) order s.fen.deficit again with
      | none => s
      | some (q, _, dft) =>
        let s : State := { s with fen := { s.fen with deficit := dft, cur := tput s.fen.cur at_ (q + 1) 0 } }
        match r.2.find? fun x => x.1 == q with
        | some x => s.stageFrame m q x.2.1 x.2.2
        | none => s

/-- QUEUE_STAGE (R406): the scheduler of a port that takes queues stages the next frame. -/
def execQueueStage (m : Fin 96) (s : State) : Host.Outcome State Fault Refusal :=
  let m := m.val
  if s.bit (FEN.PORT_CTL.EN m) = false ∨ s.rd (FEN.PORT_CTL.TX_SRC m) = 0 then .next s
  else .next (State.stageFrom m 8 s)

/-- The RESULT of a frame sent (R402). -/
def TxF.sentResult (f : TxF) : Nat := if f.poison then 3 else if f.late then 1 else 0

/-- TIMED_LAUNCH (R407): the staged timed frame with the earliest start instant starts, at or after that instant. `phase` is
that of its time-stamp point. -/
def execTimedLaunch (m : Fin 96) (phase : Fin 64) (s : State) : Host.Outcome State Fault Refusal :=
  let m := m.val
  let p := s.fport m
  let due := p.store.filter fun f => match f.launch with
    | some t => decide (s.startOf m t ≤ s.portNow m) && !p.holds f.cls && !s.qPaused (f.q.getD 0)
        && (p.store.find? fun x => x.q == f.q) == some f
    | none => false
  let early := fun (a b : TxF) => if b.launch.getD 0 < a.launch.getD 0 then b else a
  match due with
  | [] => .next s
  | f :: t =>
    if s.bit (FEN.PORT_STAT.LINK m) = false ∨ p.wire.isSome then .next s
    else
      let f := t.foldl early f
      .next ((s.setFport m { p with store := p.store.erase f, wire := some f }).sendFrame m f phase.val)

/-- LATE_TIMED_FRAME (R408): the timed frame at the head of a transmit queue has not begun at its start instant, staged or not:
it is dropped with LATE_DROP, and otherwise it is to be sent at once. -/
def execLateTimedFrame (n : Fin 65536) (s : State) : Host.Outcome State Fault Refusal :=
  let q := n.val
  let m := s.rd (QM.QCFG.PORT q)
  let p := s.fport m
  if s.bit (QM.QCFG.EN q) = false ∨ s.bit (QM.QCFG.DIR q) ∨ s.qPaused q then .next s
  else match p.store.find? fun f => f.q == some q && f.launch.isSome with
    | some f =>
      if s.portNow m < s.startOf m (f.launch.getD 0) then .next s
      else if s.bit (QM.QCFG.LATE_DROP q) then
        .next ((s.setFport m { p with store := p.store.erase f }).txDrop m f 2 (FEN.TX_LATE_DROP m))
      else .next (s.setFport m { p with store := p.store.map fun x => if x = f then { f with late := true, launch := none } else x })
    | none =>
      let k := (s.rd (QM.CIDX.CIDX q) + s.qInFlight m q) % 65536
      if s.qRuns q = false ∨ s.qAvail q (s.rd (QM.PIDX.PIDX q)) ≤ s.qInFlight m q ∨ s.initHeld (s.qReq q).id then .next s
      else match s.fetchDesc q k with
        | (s, none) => .next s
        | (s, some d) => match descLaunch d with
          | none => .next s
          | some t => .next (if s.startOf m t < s.portNow m then s.stageFrame m q k d else s)

/-- R402, R412: the descriptors of frames sent or dropped are completed, in order; those of a paused vat, or of a held
initiator, wait, and those of a
queue disabled since are not written back (R413). -/
def State.flushDone (s : State) (m : Nat) : State :=
  let p := s.fport m
  let hold := fun (d : TxF × Nat) => s.qPaused (d.1.q.getD 0) || s.initHeld (s.qReq (d.1.q.getD 0)).id
  let s' := s.setFport m { p with done := p.done.filter hold }
  (p.done.filter fun d => !hold d).foldl (fun s d => match d.1.q with
    | some q => if s.bit (QM.QCFG.EN q) then s.completeDesc q d.1.idx d.2 d.1.irq else s
    | none => s) s'

/-- A frame has been sent: its descriptor is completed behind those that wait. -/
def State.sent (s : State) (m : Nat) (f : TxF) : State :=
  match f.q with
  | none => s.flushDone m
  | some _ =>
    let p := s.fport m
    (s.setFport m { p with done := p.done ++ [(f, f.sentResult)] }).flushDone m

/-- TX_FRAME_DONE (R402, R406, R410): the timed frame on the wire, or the next frame of the store that can start, has been sent;
descriptors of frames sent or dropped are completed. `phase` is that of the time-stamp point. -/
def execTxFrameDone (m : Fin 100) (phase : Fin 64) (s : State) : Host.Outcome State Fault Refusal :=
  let m := m.val
  let p := s.fport m
  match p.wire with
  | some f => .next ((s.setFport m { p with wire := none }).sent m f)
  | none =>
    if s.bit (FEN.PORT_CTL.EN m) = false then .next (s.flushDone m)
    else match s.nextTx m with
      | none => .next (s.flushDone m)
      | some f => .next (((s.setFport m { p with store := p.store.erase f }).sendFrame m f phase.val).sent m f)

end Sys2Proof.Machine
end

