-- ==== Sys2Proof/Machine/RegRows.lean ====
section
/-! DEFINITION. The commands that are writes or reads of one register: each is an access by a requester (Machine/Bus.lean)
to that register. A command whose row names a bit it writes takes that bit as written. -/

namespace Sys2Proof.Machine

/-- ROOT_SOURCE_SWITCH (R80, R93). -/
def execRootSourceSwitch (q : Req) (w : Word) (s : State) : Host.Outcome State Fault Refusal :=
  .next (s.busPut q 0 w)

/-- RELOCK (R99, R93). -/
def execRelock (q : Req) (w : Word) (s : State) : Host.Outcome State Fault Refusal :=
  .next (s.busPut q 0 (w ||| 0x40#32))

/-- DIVIDER_WRITE (R83, R93). -/
def execDividerWrite (q : Req) (d : Fin 16) (w : Word) (s : State) : Host.Outcome State Fault Refusal :=
  .next (s.busPut q (0x100 + 4 * d.val) w)

/-- FOREIGN_LINE_SOURCE_WRITE (R92, R93). -/
def execForeignLineSourceWrite (q : Req) (k : Fin 4) (l : Fin 8) (w : Word) (s : State) : Host.Outcome State Fault Refusal :=
  .next (s.busPut q (0x200 + 0x20 * k.val + 4 * l.val) w)

/-- OSC_CONFIG_WRITE (R93). -/
def execOscConfigWrite (q : Req) (n : Fin 4) (w : Word) (s : State) : Host.Outcome State Fault Refusal :=
  .next (s.busPut q (0x300 + 4 * n.val) w)

/-- SLICE_HALT_REQUEST (R162). -/
def execSliceHaltRequest (q : Req) (g : Fin 10752) (s : State) : Host.Outcome State Fault Refusal :=
  .next (s.busPut q (0xC000000 + 0x1000 * g.val) 1)

/-- SLICE_RESUME (R146). -/
def execSliceResume (q : Req) (g : Fin 10752) (s : State) : Host.Outcome State Fault Refusal :=
  .next (s.busPut q (0xC000000 + 0x1000 * g.val) 2)

/-- SLICE_STEP (R146). -/
def execSliceStep (q : Req) (g : Fin 10752) (s : State) : Host.Outcome State Fault Refusal :=
  .next (s.busPut q (0xC000000 + 0x1000 * g.val) 4)

/-- INSPECTION_START (R163). -/
def execInspectionStart (q : Req) (g : Fin 10752) (w : Word) (s : State) : Host.Outcome State Fault Refusal :=
  .next (s.busPut q (0xC000050 + 0x1000 * g.val) w)

/-- CLEAR_ILLEGAL (R146). -/
def execClearIllegal (q : Req) (g : Fin 10752) (s : State) : Host.Outcome State Fault Refusal :=
  .next (s.busPut q (0xC000008 + 0x1000 * g.val) 0x200)

/-- ACTIVATE (R215). -/
def execActivate (q : Req) (s : State) : Host.Outcome State Fault Refusal :=
  .next (s.busPut q 0x100000 1)

/-- ROLLBACK (R215). -/
def execRollback (q : Req) (s : State) : Host.Outcome State Fault Refusal :=
  .next (s.busPut q 0x100000 2)

/-- CONFIRM (R215). -/
def execConfirm (q : Req) (s : State) : Host.Outcome State Fault Refusal :=
  .next (s.busPut q 0x100000 3)

/-- ARM (R215). -/
def execArm (q : Req) (s : State) : Host.Outcome State Fault Refusal :=
  .next (s.busPut q 0x100000 4)

/-- DISARM (R215). -/
def execDisarm (q : Req) (s : State) : Host.Outcome State Fault Refusal :=
  .next (s.busPut q 0x100000 5)

/-- COMMIT_OPEN (R215). -/
def execCommitOpen (q : Req) (s : State) : Host.Outcome State Fault Refusal :=
  .next (s.busPut q 0x100000 6)

/-- COMMIT_CLOSE (R215). -/
def execCommitClose (q : Req) (s : State) : Host.Outcome State Fault Refusal :=
  .next (s.busPut q 0x100000 7)

/-- INVALIDATE (R215). -/
def execInvalidate (q : Req) (s : State) : Host.Outcome State Fault Refusal :=
  .next (s.busPut q 0x100000 8)

/-- CAPTURE (R215). -/
def execCapture (q : Req) (s : State) : Host.Outcome State Fault Refusal :=
  .next (s.busPut q 0x100000 9)

/-- FRAME_ACCESS_READ (R227). -/
def execFrameAccessRead (q : Req) (w : Word) (s : State) : Host.Outcome State Fault Refusal :=
  .next (s.busPut q 0x100100 (w ||| 3#32))

/-- FRAME_ACCESS_WRITE (R227). -/
def execFrameAccessWrite (q : Req) (w : Word) (s : State) : Host.Outcome State Fault Refusal :=
  .next (s.busPut q 0x100100 ((w ||| 1#32) &&& 0xFFFFFFFD#32))

/-- VAT_RESET_REQUEST (R263). -/
def execVatResetRequest (q : Req) (v : Fin 16) (w : Word) (s : State) : Host.Outcome State Fault Refusal :=
  .next (s.busPut q (0x201000 + 0x100 * v.val) (w ||| 0x1#32))

/-- VAT_RELEASE_REQUEST (R263). -/
def execVatReleaseRequest (q : Req) (v : Fin 16) (w : Word) (s : State) : Host.Outcome State Fault Refusal :=
  .next (s.busPut q (0x201000 + 0x100 * v.val) (w &&& 0xFFFFFFFE#32))

/-- VAT_POWER_GATE (R275). -/
def execVatPowerGate (q : Req) (v : Fin 16) (w : Word) (s : State) : Host.Outcome State Fault Refusal :=
  .next (s.busPut q (0x201000 + 0x100 * v.val) (w ||| 0x8#32))

/-- VAT_POWER_UP (R275). -/
def execVatPowerUp (q : Req) (v : Fin 16) (w : Word) (s : State) : Host.Outcome State Fault Refusal :=
  .next (s.busPut q (0x201000 + 0x100 * v.val) (w &&& 0xFFFFFFF7#32))

/-- RESOURCE_ASSIGN_WRITE (R257). -/
def execResourceAssignWrite (q : Req) (v : Fin 16) (k : Fin 10) (w : Word) (s : State) : Host.Outcome State Fault Refusal :=
  .next (s.busPut q (0x201008 + 0x100 * v.val + 4 * k.val) w)

/-- MODULE_REGION_ENABLE (R269). -/
def execModuleRegionEnable (q : Req) (v : Fin 16) (k : Fin 5) (w : Word) (s : State) : Host.Outcome State Fault Refusal :=
  .next (s.busPut q (0x201040 + 0x100 * v.val + 4 * k.val) w)

/-- MODULE_LOAD_REQUEST (R270). -/
def execModuleLoadRequest (q : Req) (v : Fin 16) (w : Word) (s : State) : Host.Outcome State Fault Refusal :=
  .next (s.busPut q (0x20106C + 0x100 * v.val) (w ||| 0x1#32))

/-- CHURN_ENABLE (R291). -/
def execChurnEnable (q : Req) (w : Word) (s : State) : Host.Outcome State Fault Refusal :=
  .next (s.busPut q 0x300000 (w ||| 0x1#32))

/-- CHURN_DISABLE (R291). -/
def execChurnDisable (q : Req) (w : Word) (s : State) : Host.Outcome State Fault Refusal :=
  .next (s.busPut q 0x300000 (w &&& 0xFFFFFFFE#32))

/-- MAP_ENTRY_WRITE (R312). -/
def execMapEntryWrite (q : Req) (e : Fin 64) (k : Fin 4) (w : Word) (s : State) : Host.Outcome State Fault Refusal :=
  .next (s.busPut q (0x1001000 + 16 * e.val + 4 * k.val) w)

/-- MAP_SYNC (R310). -/
def execMapSync (q : Req) (s : State) : Host.Outcome State Fault Refusal :=
  .next (s.busPut q 0x1000010 1)

/-- REGULATOR_BIND (R319). -/
def execRegulatorBind (q : Req) (i : Fin 1024) (s : State) : Host.Outcome State Fault Refusal :=
  .next (s.busPut q (0x1040000 + 0x100 * i.val) 0x80000000)

/-- REGULATOR_UNBIND (R319). -/
def execRegulatorUnbind (q : Req) (i : Fin 1024) (s : State) : Host.Outcome State Fault Refusal :=
  .next (s.busPut q (0x1040000 + 0x100 * i.val) 0)

/-- SPAN_PORT_ENABLE (R325). -/
def execSpanPortEnable (q : Req) (k : Fin 4) (w : Word) (s : State) : Host.Outcome State Fault Refusal :=
  .next (s.busPut q (0x1101000 + 0x100 * k.val) (w ||| 0x80000000#32))

/-- SPAN_PORT_DISABLE (R329). -/
def execSpanPortDisable (q : Req) (k : Fin 4) (w : Word) (s : State) : Host.Outcome State Fault Refusal :=
  .next (s.busPut q (0x1101000 + 0x100 * k.val) (w &&& 0x7FFFFFFF#32))

/-- CHANNEL_INIT (R356). -/
def execChannelInit (q : Req) (n : Fin 8) (w : Word) (s : State) : Host.Outcome State Fault Refusal :=
  .next (s.busPut q (0x2000000 + 0x10000 * n.val) (w ||| 0x80000000#32))

/-- CHANNEL_FILL (R357). -/
def execChannelFill (q : Req) (n : Fin 8) (w : Word) (s : State) : Host.Outcome State Fault Refusal :=
  .next (s.busPut q (0x2000000 + 0x10000 * n.val) (w ||| 0x40000000#32))

/-- MIGRATION_START (R359). -/
def execMigrationStart (q : Req) (n : Fin 8) (w : Word) (s : State) : Host.Outcome State Fault Refusal :=
  .next (s.busPut q (0x2000000 + 0x10000 * n.val) (w ||| 0x20000000#32))

/-- SELF_REFRESH_ENTER (R363). -/
def execSelfRefreshEnter (q : Req) (n : Fin 8) (w : Word) (s : State) : Host.Outcome State Fault Refusal :=
  .next (s.busPut q (0x2000000 + 0x10000 * n.val) (w ||| 0x2000000#32))

/-- SELF_REFRESH_EXIT (R363). -/
def execSelfRefreshExit (q : Req) (n : Fin 8) (w : Word) (s : State) : Host.Outcome State Fault Refusal :=
  .next (s.busPut q (0x2000000 + 0x10000 * n.val) (w &&& 0xFDFFFFFF#32))

/-- SPARE_SUBSTITUTE (R362). -/
def execSpareSubstitute (q : Req) (n : Fin 8) (w : Word) (s : State) : Host.Outcome State Fault Refusal :=
  .next (s.busPut q (0x200000C + 0x10000 * n.val) (w ||| 0x20000000#32))

/-- QUAD_PLL_ENABLE (R374). -/
def execQuadPllEnable (q : Req) (u : Fin 25) (p : Fin 2) (w : Word) (s : State) : Host.Outcome State Fault Refusal :=
  .next (s.busPut q (0x3000800 + 0x4000 * u.val + 4 * p.val) (w ||| 0x80000000#32))

/-- LANE_TX_POWER_SET (R384). -/
def execLaneTxPowerSet (q : Req) (n : Fin 100) (p : Fin 4) (s : State) : Host.Outcome State Fault Refusal :=
  .next (s.busPut q (0x3000000 + 0x1000 * n.val) (wset (s.reg (0x3000000 + 0x1000 * n.val)) 31 30 p.val))

/-- LANE_RX_POWER_SET (R384). -/
def execLaneRxPowerSet (q : Req) (n : Fin 100) (p : Fin 4) (s : State) : Host.Outcome State Fault Refusal :=
  .next (s.busPut q (0x3000000 + 0x1000 * n.val) (wset (s.reg (0x3000000 + 0x1000 * n.val)) 29 28 p.val))

/-- LANE_RATE_SET (R373, R391). -/
def execLaneRateSet (q : Req) (n : Fin 100) (pll : Fin 2) (mod : Fin 2) (d : Fin 256)
    (s : State) : Host.Outcome State Fault Refusal :=
  .next (s.busPut q (0x3000000 + 0x1000 * n.val) (wset (wset (wset (s.reg (0x3000000 + 0x1000 * n.val)) 27 27 pll.val) 26 26 mod.val) 23 16 d.val))

/-- LANE_LOOPBACK_SET (R385). -/
def execLaneLoopbackSet (q : Req) (n : Fin 100) (m : Fin 4) (s : State) : Host.Outcome State Fault Refusal :=
  .next (s.busPut q (0x3000000 + 0x1000 * n.val) (wset (s.reg (0x3000000 + 0x1000 * n.val)) 15 14 m.val))

/-- TX_PRESET_CHANGE (R377). -/
def execTxPresetChange (q : Req) (n : Fin 100) (fir : Bool) (w : Word) (s : State) : Host.Outcome State Fault Refusal :=
  .next (s.busPut q (0x3000008 + 0x1000 * n.val + if fir then 4 else 0) w)

/-- RECOVERED_CLOCK_DIVIDER (R383). -/
def execRecoveredClockDivider (q : Req) (n : Fin 100) (c : Fin 16) (s : State) : Host.Outcome State Fault Refusal :=
  .next (s.busPut q (0x3000000 + 0x1000 * n.val) (wset (s.reg (0x3000000 + 0x1000 * n.val)) 3 0 c.val))

/-- INJECT_ONCE (R388). -/
def execInjectOnce (q : Req) (n : Fin 100) (w : Word) (s : State) : Host.Outcome State Fault Refusal :=
  .next (s.busPut q (0x3000028 + 0x1000 * n.val) (w ||| 0x80000000#32))

/-- PORT_ENABLE (R413). -/
def execPortEnable (q : Req) (m : Fin 100) (w : Word) (s : State) : Host.Outcome State Fault Refusal :=
  .next (s.busPut q (0x4000000 + 0x1000 * m.val) (w ||| 0x80000000#32))

/-- PORT_DISABLE (R413). -/
def execPortDisable (q : Req) (m : Fin 100) (w : Word) (s : State) : Host.Outcome State Fault Refusal :=
  .next (s.busPut q (0x4000000 + 0x1000 * m.val) (w &&& 0x7FFFFFFF#32))

/-- QUEUE_ENABLE (R399). -/
def execQueueEnable (q : Req) (n : Fin 65536) (w : Word) (s : State) : Host.Outcome State Fault Refusal :=
  .next (s.busPut q (0x4900000 + 0x20 * n.val) (w ||| 0x80000000#32))

/-- QUEUE_DISABLE (R413). -/
def execQueueDisable (q : Req) (n : Fin 65536) (w : Word) (s : State) : Host.Outcome State Fault Refusal :=
  .next (s.busPut q (0x4900000 + 0x20 * n.val) (w &&& 0x7FFFFFFF#32))

/-- QUEUE_DOORBELL (R400). -/
def execQueueDoorbell (q : Req) (n : Fin 65536) (w : Word) (s : State) : Host.Outcome State Fault Refusal :=
  .next (s.busPut q (0x490000C + 0x20 * n.val) w)

/-- SEND_PAUSE (R409). -/
def execSendPause (q : Req) (m : Fin 100) (w : Word) (s : State) : Host.Outcome State Fault Refusal :=
  .next (s.busPut q (0x4000018 + 0x1000 * m.val) (w ||| 0x80000000#32))

/-- QUEUE_RESUME (R412). -/
def execQueueResume (q : Req) (w : Word) (s : State) : Host.Outcome State Fault Refusal :=
  .next (s.busPut q 0x4800014 w)

/-- TCLK_SOURCE_SELECT (R418). -/
def execTclkSourceSelect (q : Req) (w : Word) (s : State) : Host.Outcome State Fault Refusal :=
  .next (s.busPut q 0x5000000 w)

/-- RATE_UPDATE (R421). -/
def execRateUpdate (q : Req) (b : Fin 8) (w : Word) (s : State) : Host.Outcome State Fault Refusal :=
  .next (s.busPut q (0x500100C + 0x100 * b.val) w)

/-- CMP_ARM (R425). -/
def execCmpArm (q : Req) (i : Fin 15) (w : Word) (s : State) : Host.Outcome State Fault Refusal :=
  .next (s.busPut q (0x5004000 + 0x40 * i.val) (w ||| 0x80000000#32))

/-- CMP_DISARM (R425). -/
def execCmpDisarm (q : Req) (i : Fin 15) (w : Word) (s : State) : Host.Outcome State Fault Refusal :=
  .next (s.busPut q (0x5004000 + 0x40 * i.val) (w &&& 0x7FFFFFFF#32))

/-- PULSE_ENABLE (R440). -/
def execPulseEnable (q : Req) (k : Fin 16) (w : Word) (s : State) : Host.Outcome State Fault Refusal :=
  .next (s.busPut q (0x5002000 + 0x40 * k.val) (w ||| 0x80000000#32))

/-- CORE_RUN (R446). -/
def execCoreRun (q : Req) (k : Fin 5) (w : Word) (s : State) : Host.Outcome State Fault Refusal :=
  .next (s.busPut q (0x6300000 + 0x20 * k.val) (w ||| 0x80000000#32))

/-- CORE_RESET (R446). -/
def execCoreReset (q : Req) (k : Fin 5) (w : Word) (s : State) : Host.Outcome State Fault Refusal :=
  .next (s.busPut q (0x6300000 + 0x20 * k.val) (w ||| 0x40000000#32))

/-- COMPLETE (R456). -/
def execComplete (q : Req) (c : Fin 6) (w : Word) (s : State) : Host.Outcome State Fault Refusal :=
  .next (s.busPut q (0x6002008 + 0x40 * c.val) w)

/-- PEND_CLEAR (R457). -/
def execPendClear (q : Req) (k : Fin 32) (w : Word) (s : State) : Host.Outcome State Fault Refusal :=
  .next (s.busPut q (0x6001000 + 4 * k.val) w)

/-- SOFTWARE_INTERRUPT (R457). -/
def execSoftwareInterrupt (q : Req) (w : Word) (s : State) : Host.Outcome State Fault Refusal :=
  .next (s.busPut q 0x6001100 w)

/-- VCOMPLETE (R460). -/
def execVcomplete (q : Req) (v : Fin 16) (w : Word) (s : State) : Host.Outcome State Fault Refusal :=
  .next (s.busPut q (0x6080004 + 0x1000 * v.val) w)

/-- SCRATCHPAD_LOCK (R466). -/
def execScratchpadLock (q : Req) (k : Fin 4) (w : Word) (s : State) : Host.Outcome State Fault Refusal :=
  .next (s.busPut q (0x6100014 + 8 * k.val) (w ||| 0x80000000#32))

/-- DMA_GO (R467). -/
def execDmaGo (q : Req) (c : Fin 16) (w : Word) (s : State) : Host.Outcome State Fault Refusal :=
  .next (s.busPut q (0x6201000 + 0x100 * c.val) (w ||| 0x80000000#32))

/-- DMA_STOP (R469). -/
def execDmaStop (q : Req) (c : Fin 16) (w : Word) (s : State) : Host.Outcome State Fault Refusal :=
  .next (s.busPut q (0x6201000 + 0x100 * c.val) (w ||| 0x40000000#32))

/-- DEBUG_LOCK (R504). -/
def execDebugLock (q : Req) (s : State) : Host.Outcome State Fault Refusal :=
  .next (s.busPut q 0x7100000 0x80000000)

/-- CELLAR_PROGRAM (R511). -/
def execCellarProgram (q : Req) (s : State) : Host.Outcome State Fault Refusal :=
  .next (s.busPut q 0x8000000 0x90000000)

/-- CELLAR_ERASE (R512). -/
def execCellarErase (q : Req) (s : State) : Host.Outcome State Fault Refusal :=
  .next (s.busPut q 0x8000000 0xA0000000)

/-- POWER_COMMAND (R29, R534). In KEEP, where no register answers, the command that R29 lists from there to OFF acts at once. -/
def execPowerCommand (q : Req) (w : Word) (s : State) : Host.Outcome State Fault Refusal :=
  if s.mode = M.keep then (if wget w 1 0 ≠ 3 ∨ s.powerRefused 3 = true then .next s else .next (s.powerActs 3 0))
  else .next (s.busPut q 0x10004 (w ||| 0x80000000#32))

/-- COLD_RESET_REQUEST (R542). -/
def execColdResetRequest (q : Req) (s : State) : Host.Outcome State Fault Refusal :=
  .next (s.busPut q 0x1000C 2)

/-- WARM_RESET_REQUEST (R542). -/
def execWarmResetRequest (q : Req) (s : State) : Host.Outcome State Fault Refusal :=
  .next (s.busPut q 0x1000C 1)

/-- BIST_CMD_GO (R551). -/
def execBistCmdGo (q : Req) (k : Fin 4) (w : Word) (s : State) : Host.Outcome State Fault Refusal :=
  .next (s.busPut q (0x9000000 + 0x100 * k.val) (w ||| 0x80000000#32))

/-- RANGE_WRITE (R569). -/
def execRangeWrite (q : Req) (b : Fin 12) (w : Word) (s : State) : Host.Outcome State Fault Refusal :=
  .next (s.busPut q (0xB000000 + 0x100 * b.val) w)

/-- A write of TB_CTL with the tick of TCLK that carries its command out (R422). -/
def State.tbRow (s : State) (q : Req) (b : Nat) (w : Word) : State :=
  let r := s.busPut q (0x5001000 + 0x100 * b) w
  if s.islandUp ∧ r.answer = some ⟨.okay, []⟩ then r.tbCommand b else r

/-- TB_SET (R422): the write of CMD 0b01 and the tick after it. -/
def execTbSet (q : Req) (b : Fin 8) (w : Word) (s : State) : Host.Outcome State Fault Refusal :=
  .next (s.tbRow q b (wset w 1 0 1))

/-- TB_STEP (R422): the write of CMD 0b10 and the tick after it. -/
def execTbStep (q : Req) (b : Fin 8) (w : Word) (s : State) : Host.Outcome State Fault Refusal :=
  .next (s.tbRow q b (wset w 1 0 2))

/-- TB_SNAP (R422): the write of CMD 0b11 and the tick after it. -/
def execTbSnap (q : Req) (b : Fin 8) (w : Word) (s : State) : Host.Outcome State Fault Refusal :=
  .next (s.tbRow q b (wset w 1 0 3))

/-- CAPTURE_POP (R441): a read of CAP_POP. -/
def execCapturePop (q : Req) (j : Fin 9) (s : State) : Host.Outcome State Fault Refusal :=
  .next (s.busGet q (0x5003008 + 0x40 * j.val))

/-- TSQ_POP (R434): a read of TSQ_POP. -/
def execTsqPop (q : Req) (m : Fin 96) (s : State) : Host.Outcome State Fault Refusal :=
  .next (s.busGet q (0x5100014 + 0x100 * m.val))

/-- CLAIM (R456): a read of CLAIM of processor c. -/
def execClaim (q : Req) (c : Fin 6) (s : State) : Host.Outcome State Fault Refusal :=
  .next (s.busGet q (0x6002004 + 0x40 * c.val))

/-- VCLAIM (R460): a read of VCLAIM of a vat. -/
def execVclaim (q : Req) (v : Fin 16) (s : State) : Host.Outcome State Fault Refusal :=
  .next (s.busGet q (0x6080000 + 0x1000 * v.val))

/-- TXD_WRITE (R472): a write of TXD, or, with MODE = 1, a word of the fabric's word-stream port. -/
def execTxdWrite (q : Option Req) (k : Fin 20) (w : Word) (s : State) : Host.Outcome State Fault Refusal := match q with
  | some q => .next (s.busPut q (0x6400008 + 0x1000 * k.val) w)
  | none =>
    if s.islandUp ∧ s.bit (SVC.OWN.MODE k.val) then
      let r := s.txPush k.val (w.setWidth 16)
      .next (r.1.tell (if r.2 then .okay else .slverr) [])
    else .next s

/-- RXD_POP (R472): a read of RXD, or, with MODE = 1, the oldest word goes out at RX_WORD of the fabric's word-stream port. -/
def execRxdPop (q : Option Req) (k : Fin 20) (s : State) : Host.Outcome State Fault Refusal := match q with
  | some q => .next (s.busGet q (0x640000C + 0x1000 * k.val))
  | none =>
    let p := s.svcPort k.val
    if s.islandUp ∧ s.bit (SVC.OWN.MODE k.val) then
      let t := s.setSvcPort k.val { p with rx := p.rx.tail, out := p.rx.head? }
      let said := match p.rx with
        | [] => 0
        | w :: _ => 2 ^ 31 + w.toNat
      .next (t.tell .okay (leBytes 4 said))
    else .next s

/-- REGISTER_WRITE (R4, R5, R40, R258): a write of n bytes at an offset of the register window. -/
def execRegisterWrite (q : Req) (off : BitVec 32) (n : Nat) (w : Word) (s : State) : Host.Outcome State Fault Refusal :=
  if s.islandUp then
    let r := s.busWrite q off.toNat n w
    .next (r.1.tell r.2 [])
  else .next s

/-- BLOCK_CLOCK_IDLE_CLOSE (R95): the clock of a gating group stops once its blocks have been idle; one with work stays. -/
def execBlockClockIdleClose (g : Fin 11) (s : State) : Host.Outcome State Fault Refusal :=
  if s.groupWork g.val then .next s
  else .next { s with clk := { s.clk with open_ := tput s.clk.open_ g.val false false } }


end Sys2Proof.Machine
end

