-- ==== Sys2Proof/Machine/Dispatch.lean ====
section
/-! DEFINITION. The dispatch: one arm for each command, each a direct call of its meaning. -/

namespace Sys2Proof.Machine

def exec (i : Instr) (s : State) : Host.Outcome State Fault Refusal :=
  match i with
  | .powerOnResetRelease => Sys2Proof.Machine.execPowerOnResetRelease s
  | .supplyLeavesTolerance k => Sys2Proof.Machine.execSupplyLeavesTolerance k s
  | .deferredWholeDeviceStart d => Sys2Proof.Machine.execDeferredWholeDeviceStart d s
  | .deferredTestStart k => Sys2Proof.Machine.execDeferredTestStart k s
  | .deferredSwapStart v d => Sys2Proof.Machine.execDeferredSwapStart v d s
  | .refQualified refb => Sys2Proof.Machine.execRefQualified refb s
  | .refLoss refb => Sys2Proof.Machine.execRefLoss refb s
  | .coastSlewDone => Sys2Proof.Machine.execCoastSlewDone s
  | .rootCoastTimer => Sys2Proof.Machine.execRootCoastTimer s
  | .refWaitTimeout => Sys2Proof.Machine.execRefWaitTimeout s
  | .rootLoopLock => Sys2Proof.Machine.execRootLoopLock s
  | .rootSourceSwitch q w => Sys2Proof.Machine.execRootSourceSwitch q w s
  | .rootSwitchDone => Sys2Proof.Machine.execRootSwitchDone s
  | .relock q w => Sys2Proof.Machine.execRelock q w s
  | .autoRelockTimer => Sys2Proof.Machine.execAutoRelockTimer s
  | .relockComplete => Sys2Proof.Machine.execRelockComplete s
  | .dividerWrite q d w => Sys2Proof.Machine.execDividerWrite q d w s
  | .dividerTakesEffect => Sys2Proof.Machine.execDividerTakesEffect s
  | .foreignLineSourceWrite q k l w => Sys2Proof.Machine.execForeignLineSourceWrite q k l w s
  | .foreignLineSwitchDone q l => Sys2Proof.Machine.execForeignLineSwitchDone q l s
  | .foreignSourceLoss q l vats => Sys2Proof.Machine.execForeignSourceLoss q l vats s
  | .oscConfigWrite q n w => Sys2Proof.Machine.execOscConfigWrite q n w s
  | .oscSettled n => Sys2Proof.Machine.execOscSettled n s
  | .blockClockIdleClose g => Sys2Proof.Machine.execBlockClockIdleClose g s
  | .sectorGateOpen sec => Sys2Proof.Machine.execSectorGateOpen sec s
  | .sliceNop g => Sys2Proof.Machine.execSliceNop g s
  | .sliceTap g ua uc => Sys2Proof.Machine.execSliceTap g ua uc s
  | .sliceMac g ua ub uc => Sys2Proof.Machine.execSliceMac g ua ub uc s
  | .sliceIn g => Sys2Proof.Machine.execSliceIn g s
  | .sliceOut g => Sys2Proof.Machine.execSliceOut g s
  | .sliceLda g ua => Sys2Proof.Machine.execSliceLda g ua s
  | .sliceLdc g ua => Sys2Proof.Machine.execSliceLdc g ua s
  | .sliceCas g => Sys2Proof.Machine.execSliceCas g s
  | .sliceLoop g => Sys2Proof.Machine.execSliceLoop g s
  | .sliceJmp g ci src => Sys2Proof.Machine.execSliceJmp g ci src s
  | .sliceSetag g => Sys2Proof.Machine.execSliceSetag g s
  | .sliceWait g ci src => Sys2Proof.Machine.execSliceWait g ci src s
  | .sliceHalt g => Sys2Proof.Machine.execSliceHalt g s
  | .sliceSig g => Sys2Proof.Machine.execSliceSig g s
  | .illegalInstruction g => Sys2Proof.Machine.execIllegalInstruction g s
  | .sliceStart g src => Sys2Proof.Machine.execSliceStart g src s
  | .trigInput g src => Sys2Proof.Machine.execTrigInput g src s
  | .xCapture g x p src => Sys2Proof.Machine.execXCapture g x p src s
  | .yDeliver g src => Sys2Proof.Machine.execYDeliver g src s
  | .portPAccess g a we d u src => Sys2Proof.Machine.execPortPAccess g a we d u src s
  | .portPSteal g a we d u src => Sys2Proof.Machine.execPortPSteal g a we d u src s
  | .inspectionSteal g u uc => Sys2Proof.Machine.execInspectionSteal g u uc s
  | .sliceHaltRequest q g => Sys2Proof.Machine.execSliceHaltRequest q g s
  | .sliceResume q g => Sys2Proof.Machine.execSliceResume q g s
  | .sliceStep q g => Sys2Proof.Machine.execSliceStep q g s
  | .inspectionStart q g w => Sys2Proof.Machine.execInspectionStart q g w s
  | .clearIllegal q g => Sys2Proof.Machine.execClearIllegal q g s
  | .bm36Read b pb t a u src => Sys2Proof.Machine.execBm36Read b pb t a u src s
  | .bm36FullWrite b pb t a d be wp src => Sys2Proof.Machine.execBm36FullWrite b pb t a d be wp src s
  | .bm36NarrowWrite b pb t a d be wp u src => Sys2Proof.Machine.execBm36NarrowWrite b pb t a d be wp u src s
  | .bm36Clear m t src => Sys2Proof.Machine.execBm36Clear m t src s
  | .correctionWriteBack m pb t => Sys2Proof.Machine.execCorrectionWriteBack m pb t s
  | .dmFabricRead p pb t cap a u src => Sys2Proof.Machine.execDmFabricRead p pb t cap a u src s
  | .dmFabricWrite p pb t cap a d be wp u src => Sys2Proof.Machine.execDmFabricWrite p pb t cap a d be wp u src s
  | .dmDeferredServe p cap => Sys2Proof.Machine.execDmDeferredServe p cap s
  | .dmNocRequest p us => Sys2Proof.Machine.execDmNocRequest p us s
  | .dmNocWaitExpiry p us waited => Sys2Proof.Machine.execDmNocWaitExpiry p us waited s
  | .sectorPowerGood sec => Sys2Proof.Machine.execSectorPowerGood sec s
  | .commitOpen q => Sys2Proof.Machine.execCommitOpen q s
  | .commitClose q => Sys2Proof.Machine.execCommitClose q s
  | .commitCloseDone v ups => Sys2Proof.Machine.execCommitCloseDone v ups s
  | .activate q => Sys2Proof.Machine.execActivate q s
  | .rollback q => Sys2Proof.Machine.execRollback q s
  | .confirm q => Sys2Proof.Machine.execConfirm q s
  | .arm q => Sys2Proof.Machine.execArm q s
  | .disarm q => Sys2Proof.Machine.execDisarm q s
  | .invalidate q => Sys2Proof.Machine.execInvalidate q s
  | .capture q => Sys2Proof.Machine.execCapture q s
  | .loadComplete v ups => Sys2Proof.Machine.execLoadComplete v ups s
  | .confirmWindowExpiry v => Sys2Proof.Machine.execConfirmWindowExpiry v s
  | .expiryRollbackStart v => Sys2Proof.Machine.execExpiryRollbackStart v s
  | .armCompareFire k => Sys2Proof.Machine.execArmCompareFire k s
  | .activationAssertion k d => Sys2Proof.Machine.execActivationAssertion k d s
  | .frameAccessRead q w => Sys2Proof.Machine.execFrameAccessRead q w s
  | .frameAccessWrite q w => Sys2Proof.Machine.execFrameAccessWrite q w s
  | .frameAccessDone bits bad => Sys2Proof.Machine.execFrameAccessDone bits bad s
  | .planeRepair n fails => Sys2Proof.Machine.execPlaneRepair n fails s
  | .starterFirmwareStart copy => Sys2Proof.Machine.execStarterFirmwareStart copy s
  | .imgStage e body => Sys2Proof.Machine.execImgStage e body s
  | .imgCommit e body => Sys2Proof.Machine.execImgCommit e body s
  | .imgStream e body => Sys2Proof.Machine.execImgStream e body s
  | .imgVerify e body => Sys2Proof.Machine.execImgVerify e body s
  | .bootSet e body => Sys2Proof.Machine.execBootSet e body s
  | .headerRecord e env => Sys2Proof.Machine.execHeaderRecord e env s
  | .signatureRecord e env => Sys2Proof.Machine.execSignatureRecord e env s
  | .signatureVerified e => Sys2Proof.Machine.execSignatureVerified e s
  | .frameRecord e env => Sys2Proof.Machine.execFrameRecord e env s
  | .frameZRecord e env => Sys2Proof.Machine.execFrameZRecord e env s
  | .repeatRecord e env => Sys2Proof.Machine.execRepeatRecord e env s
  | .zeroRunRecord e env => Sys2Proof.Machine.execZeroRunRecord e env s
  | .meminitRecord e env => Sys2Proof.Machine.execMeminitRecord e env s
  | .endRecord e env => Sys2Proof.Machine.execEndRecord e env s
  | .imageSendTimeout => Sys2Proof.Machine.execImageSendTimeout s
  | .stagingEraseReissue => Sys2Proof.Machine.execStagingEraseReissue s
  | .memoryInitStart v lost => Sys2Proof.Machine.execMemoryInitStart v lost s
  | .memoryInitDone v => Sys2Proof.Machine.execMemoryInitDone v s
  | .vatResetRequest q v w => Sys2Proof.Machine.execVatResetRequest q v w s
  | .vatReleaseRequest q v w => Sys2Proof.Machine.execVatReleaseRequest q v w s
  | .vatResetAssertion v => Sys2Proof.Machine.execVatResetAssertion v s
  | .vatResetHoldExpiry v => Sys2Proof.Machine.execVatResetHoldExpiry v s
  | .vatRelease v => Sys2Proof.Machine.execVatRelease v s
  | .memoryFrameReload v => Sys2Proof.Machine.execMemoryFrameReload v s
  | .vatPowerGate q v w => Sys2Proof.Machine.execVatPowerGate q v w s
  | .vatPowerUp q v w => Sys2Proof.Machine.execVatPowerUp q v w s
  | .vatGatingDone v => Sys2Proof.Machine.execVatGatingDone v s
  | .resourceAssignWrite q v k w => Sys2Proof.Machine.execResourceAssignWrite q v k w s
  | .moduleRegionEnable q v k w => Sys2Proof.Machine.execModuleRegionEnable q v k w s
  | .moduleLoadRequest q v w => Sys2Proof.Machine.execModuleLoadRequest q v w s
  | .moduleLoadStart v => Sys2Proof.Machine.execModuleLoadStart v s
  | .moduleLoadDone v => Sys2Proof.Machine.execModuleLoadDone v s
  | .moduleRegionRelease v => Sys2Proof.Machine.execModuleRegionRelease v s
  | .moduleLoadRestore v => Sys2Proof.Machine.execModuleLoadRestore v s
  | .moduleRestoreDone v => Sys2Proof.Machine.execModuleRestoreDone v s
  | .churnPassStart => Sys2Proof.Machine.execChurnPassStart s
  | .scrubRead q bits => Sys2Proof.Machine.execScrubRead q bits s
  | .correctionWrite q fails left => Sys2Proof.Machine.execCorrectionWrite q fails left s
  | .restorePlaneRead q bits => Sys2Proof.Machine.execRestorePlaneRead q bits s
  | .restorationWrite q fails left => Sys2Proof.Machine.execRestorationWrite q fails left s
  | .churnPassComplete => Sys2Proof.Machine.execChurnPassComplete s
  | .churnPassLate => Sys2Proof.Machine.execChurnPassLate s
  | .churnEnable q w => Sys2Proof.Machine.execChurnEnable q w s
  | .churnDisable q w => Sys2Proof.Machine.execChurnDisable q w s
  | .nocRequestIssue ix rq => Sys2Proof.Machine.execNocRequestIssue ix rq s
  | .flitForward y x o hdrErr payErr => Sys2Proof.Machine.execFlitForward y x o hdrErr payErr s
  | .targetRequestArrival a vc x => Sys2Proof.Machine.execTargetRequestArrival a vc x s
  | .responseArrival ix cycles x => Sys2Proof.Machine.execResponseArrival ix cycles x s
  | .initiatorTimeout ix t x => Sys2Proof.Machine.execInitiatorTimeout ix t x s
  | .quarantineExpiry ix t => Sys2Proof.Machine.execQuarantineExpiry ix t s
  | .mapEntryWrite q e k w => Sys2Proof.Machine.execMapEntryWrite q e k w s
  | .mapSync q => Sys2Proof.Machine.execMapSync q s
  | .mapSyncDone => Sys2Proof.Machine.execMapSyncDone s
  | .mapCacheRefresh ix => Sys2Proof.Machine.execMapCacheRefresh ix s
  | .regulatorBind q ix => Sys2Proof.Machine.execRegulatorBind q ix s
  | .regulatorUnbind q ix => Sys2Proof.Machine.execRegulatorUnbind q ix s
  | .spanPortEnable q k w => Sys2Proof.Machine.execSpanPortEnable q k w s
  | .spanPortDisable q k w => Sys2Proof.Machine.execSpanPortDisable q k w s
  | .spanInitFrame k ws => Sys2Proof.Machine.execSpanInitFrame k ws s
  | .spanCtrlFrame k ws => Sys2Proof.Machine.execSpanCtrlFrame k ws s
  | .spanFlitFrame k ws stamp => Sys2Proof.Machine.execSpanFlitFrame k ws stamp s
  | .spanFlitrFrame k ws => Sys2Proof.Machine.execSpanFlitrFrame k ws s
  | .spanAckTimer k => Sys2Proof.Machine.execSpanAckTimer k s
  | .spanReplayExpiry k => Sys2Proof.Machine.execSpanReplayExpiry k s
  | .spanGatewayFlit => Sys2Proof.Machine.execSpanGatewayFlit s
  | .dramAdmit n => Sys2Proof.Machine.execDramAdmit n s
  | .dramRead n sub x => Sys2Proof.Machine.execDramRead n sub x s
  | .dramWholeWrite n sub => Sys2Proof.Machine.execDramWholeWrite n sub s
  | .dramPartialWrite n sub x => Sys2Proof.Machine.execDramPartialWrite n sub x s
  | .refreshDue n sub rank => Sys2Proof.Machine.execRefreshDue n sub rank s
  | .temperaturePoll n hot => Sys2Proof.Machine.execTemperaturePoll n hot s
  | .neighbourRefresh n bank row => Sys2Proof.Machine.execNeighbourRefresh n bank row s
  | .readTimingTracking n sub => Sys2Proof.Machine.execReadTimingTracking n sub s
  | .rowIdleClose n bank => Sys2Proof.Machine.execRowIdleClose n bank s
  | .channelInit q n w => Sys2Proof.Machine.execChannelInit q n w s
  | .channelInitDone n failed drfm => Sys2Proof.Machine.execChannelInitDone n failed drfm s
  | .channelFill q n w => Sys2Proof.Machine.execChannelFill q n w s
  | .rankFillDone n r => Sys2Proof.Machine.execRankFillDone n r s
  | .migrationStart q n w => Sys2Proof.Machine.execMigrationStart q n w s
  | .migrationCopy n count x => Sys2Proof.Machine.execMigrationCopy n count x s
  | .migrationDone n => Sys2Proof.Machine.execMigrationDone n s
  | .patrolRead n rank ix x => Sys2Proof.Machine.execPatrolRead n rank ix x s
  | .selfRefreshEnter q n w => Sys2Proof.Machine.execSelfRefreshEnter q n w s
  | .selfRefreshExit q n w => Sys2Proof.Machine.execSelfRefreshExit q n w s
  | .selfRefreshReached n => Sys2Proof.Machine.execSelfRefreshReached n s
  | .channelReady n => Sys2Proof.Machine.execChannelReady n s
  | .spareSubstitute q n w => Sys2Proof.Machine.execSpareSubstitute q n w s
  | .quadPllEnable q u p w => Sys2Proof.Machine.execQuadPllEnable q u p w s
  | .quadPllLock u p => Sys2Proof.Machine.execQuadPllLock u p s
  | .lanePllFail u p => Sys2Proof.Machine.execLanePllFail u p s
  | .quadRefQualified u => Sys2Proof.Machine.execQuadRefQualified u s
  | .quadRefLoss u => Sys2Proof.Machine.execQuadRefLoss u s
  | .laneTxPowerSet q n p => Sys2Proof.Machine.execLaneTxPowerSet q n p s
  | .laneRxPowerSet q n p => Sys2Proof.Machine.execLaneRxPowerSet q n p s
  | .laneRateSet q n pll mod d => Sys2Proof.Machine.execLaneRateSet q n pll mod d s
  | .laneLoopbackSet q n m => Sys2Proof.Machine.execLaneLoopbackSet q n m s
  | .txOnReached n => Sys2Proof.Machine.execTxOnReached n s
  | .rxSignalDetect n => Sys2Proof.Machine.execRxSignalDetect n s
  | .rxCdrLock n => Sys2Proof.Machine.execRxCdrLock n s
  | .rxLocked n snr ctle taps => Sys2Proof.Machine.execRxLocked n snr ctle taps s
  | .rxLockLost n => Sys2Proof.Machine.execRxLockLost n s
  | .rxSignalLost n => Sys2Proof.Machine.execRxSignalLost n s
  | .rxNoLock n => Sys2Proof.Machine.execRxNoLock n s
  | .txPresetChange q n fir w => Sys2Proof.Machine.execTxPresetChange q n fir w s
  | .recoveredClockDivider q n c => Sys2Proof.Machine.execRecoveredClockDivider q n c s
  | .prbsCheckerLock n seed bits => Sys2Proof.Machine.execPrbsCheckerLock n seed bits s
  | .prbsCheckerBlock n bits => Sys2Proof.Machine.execPrbsCheckerBlock n bits s
  | .injectOnce q n w => Sys2Proof.Machine.execInjectOnce q n w s
  | .elasticBufferSlip n => Sys2Proof.Machine.execElasticBufferSlip n s
  | .portEnable q m w => Sys2Proof.Machine.execPortEnable q m w s
  | .portDisable q m w => Sys2Proof.Machine.execPortDisable q m w s
  | .linkUp m => Sys2Proof.Machine.execLinkUp m s
  | .linkDown m lf rf => Sys2Proof.Machine.execLinkDown m lf rf s
  | .rxFrame m bs bad phase taken poisoned => Sys2Proof.Machine.execRxFrame m bs bad phase taken poisoned s
  | .rxFrameWrite n => Sys2Proof.Machine.execRxFrameWrite n s
  | .txStreamFrame m bs abort fid phase partly => Sys2Proof.Machine.execTxStreamFrame m bs abort fid phase partly s
  | .queueEnable q n w => Sys2Proof.Machine.execQueueEnable q n w s
  | .queueDisable q n w => Sys2Proof.Machine.execQueueDisable q n w s
  | .queueDoorbell q n w => Sys2Proof.Machine.execQueueDoorbell q n w s
  | .queueStage m => Sys2Proof.Machine.execQueueStage m s
  | .timedLaunch m phase => Sys2Proof.Machine.execTimedLaunch m phase s
  | .lateTimedFrame n => Sys2Proof.Machine.execLateTimedFrame n s
  | .txFrameDone m phase => Sys2Proof.Machine.execTxFrameDone m phase s
  | .pauseExpiry m c => Sys2Proof.Machine.execPauseExpiry m c s
  | .sendPause q m w => Sys2Proof.Machine.execSendPause q m w s
  | .queueResume q w => Sys2Proof.Machine.execQueueResume q w s
  | .tclkSourceSelect q w => Sys2Proof.Machine.execTclkSourceSelect q w s
  | .tclkLock => Sys2Proof.Machine.execTclkLock s
  | .trefQualified ref => Sys2Proof.Machine.execTrefQualified ref s
  | .trefLoss ref => Sys2Proof.Machine.execTrefLoss ref s
  | .tclkRelock => Sys2Proof.Machine.execTclkRelock s
  | .tbSet q b w => Sys2Proof.Machine.execTbSet q b w s
  | .tbStep q b w => Sys2Proof.Machine.execTbStep q b w s
  | .tbSnap q b w => Sys2Proof.Machine.execTbSnap q b w s
  | .rateUpdate q b w => Sys2Proof.Machine.execRateUpdate q b w s
  | .baseWatchdogExpiry b => Sys2Proof.Machine.execBaseWatchdogExpiry b s
  | .cmpArm q ix w => Sys2Proof.Machine.execCmpArm q ix w s
  | .cmpDisarm q ix w => Sys2Proof.Machine.execCmpDisarm q ix w s
  | .cmpFire ix => Sys2Proof.Machine.execCmpFire ix s
  | .pulseEnable q k w => Sys2Proof.Machine.execPulseEnable q k w s
  | .pulseAssert k => Sys2Proof.Machine.execPulseAssert k s
  | .pulseRelease k => Sys2Proof.Machine.execPulseRelease k s
  | .captureEdge j rise phase near => Sys2Proof.Machine.execCaptureEdge j rise phase near s
  | .capturePop q j => Sys2Proof.Machine.execCapturePop q j s
  | .tsqPop q m => Sys2Proof.Machine.execTsqPop q m s
  | .coreRun q k w => Sys2Proof.Machine.execCoreRun q k w s
  | .coreReset q k w => Sys2Proof.Machine.execCoreReset q k w s
  | .interruptAssert ix b => Sys2Proof.Machine.execInterruptAssert ix b s
  | .fastInterruptEntry c r => Sys2Proof.Machine.execFastInterruptEntry c r s
  | .fret c r => Sys2Proof.Machine.execFret c r s
  | .claim q c => Sys2Proof.Machine.execClaim q c s
  | .complete q c w => Sys2Proof.Machine.execComplete q c w s
  | .pendClear q k w => Sys2Proof.Machine.execPendClear q k w s
  | .softwareInterrupt q w => Sys2Proof.Machine.execSoftwareInterrupt q w s
  | .vclaim q v => Sys2Proof.Machine.execVclaim q v s
  | .vcomplete q v w => Sys2Proof.Machine.execVcomplete q v w s
  | .wakeLatchEdge ix => Sys2Proof.Machine.execWakeLatchEdge ix s
  | .storeErrorResponse c st a => Sys2Proof.Machine.execStoreErrorResponse c st a s
  | .msterrClear c => Sys2Proof.Machine.execMsterrClear c s
  | .scratchpadAccess b us => Sys2Proof.Machine.execScratchpadAccess b us s
  | .scratchpadLock q k w => Sys2Proof.Machine.execScratchpadLock q k w s
  | .dmaGo q c w => Sys2Proof.Machine.execDmaGo q c w s
  | .dmaStop q c w => Sys2Proof.Machine.execDmaStop q c w s
  | .dmaDescriptorDone c => Sys2Proof.Machine.execDmaDescriptorDone c s
  | .txdWrite q k w => Sys2Proof.Machine.execTxdWrite q k w s
  | .rxdPop q k => Sys2Proof.Machine.execRxdPop q k s
  | .peripheralWordReceived k w => Sys2Proof.Machine.execPeripheralWordReceived k w s
  | .peripheralTransferDone k ws => Sys2Proof.Machine.execPeripheralTransferDone k ws s
  | .i2cTimeout j => Sys2Proof.Machine.execI2cTimeout j s
  | .mtimeCompare k => Sys2Proof.Machine.execMtimeCompare k s
  | .identify e body => Sys2Proof.Machine.execIdentify e body s
  | .sessionInit e body => Sys2Proof.Machine.execSessionInit e body s
  | .sessionFinish e body => Sys2Proof.Machine.execSessionFinish e body s
  | .sessionClose e body => Sys2Proof.Machine.execSessionClose e body s
  | .regRd e body => Sys2Proof.Machine.execRegRd e body s
  | .regWr e body => Sys2Proof.Machine.execRegWr e body s
  | .memRd e body => Sys2Proof.Machine.execMemRd e body s
  | .memWr e body => Sys2Proof.Machine.execMemWr e body s
  | .stats e body => Sys2Proof.Machine.execStats e body s
  | .planeOp e body => Sys2Proof.Machine.execPlaneOp e body s
  | .immVatReset e body => Sys2Proof.Machine.execImmVatReset e body s
  | .immReset e body => Sys2Proof.Machine.execImmReset e body s
  | .immPower e body => Sys2Proof.Machine.execImmPower e body s
  | .resetOrPowerAct => Sys2Proof.Machine.execResetOrPowerAct s
  | .logRead e body => Sys2Proof.Machine.execLogRead e body s
  | .immAck e => Sys2Proof.Machine.execImmAck e s
  | .immRetransmitExpiry h => Sys2Proof.Machine.execImmRetransmitExpiry h s
  | .standaloneAckTimer h => Sys2Proof.Machine.execStandaloneAckTimer h s
  | .sessionIdleTimeout h => Sys2Proof.Machine.execSessionIdleTimeout h s
  | .refusalResponse h => Sys2Proof.Machine.execRefusalResponse h s
  | .eventSend h => Sys2Proof.Machine.execEventSend h s
  | .eventsLostSend h => Sys2Proof.Machine.execEventsLostSend h s
  | .mpRateAlternate h => Sys2Proof.Machine.execMpRateAlternate h s
  | .smbusStatusRead => Sys2Proof.Machine.execSmbusStatusRead s
  | .smbusLastgaspRead hi => Sys2Proof.Machine.execSmbusLastgaspRead hi s
  | .dbgOpen e body => Sys2Proof.Machine.execDbgOpen e body s
  | .dbgAuth e body => Sys2Proof.Machine.execDbgAuth e body s
  | .dbgChallengeTimeout => Sys2Proof.Machine.execDbgChallengeTimeout s
  | .dbgClose e body => Sys2Proof.Machine.execDbgClose e body s
  | .dbgRd e body => Sys2Proof.Machine.execDbgRd e body s
  | .dbgWr e body => Sys2Proof.Machine.execDbgWr e body s
  | .dbgRunHalt e core => Sys2Proof.Machine.execDbgRunHalt e core s
  | .dbgRunResume e core => Sys2Proof.Machine.execDbgRunResume e core s
  | .dbgRunStep e core => Sys2Proof.Machine.execDbgRunStep e core s
  | .dbgRunStatus e core => Sys2Proof.Machine.execDbgRunStatus e core s
  | .processorHalted k r => Sys2Proof.Machine.execProcessorHalted k r s
  | .dbgCpu e body => Sys2Proof.Machine.execDbgCpu e body s
  | .dbgBkpt e body => Sys2Proof.Machine.execDbgBkpt e body s
  | .breakpointHit k ix r => Sys2Proof.Machine.execBreakpointHit k ix r s
  | .debugLock q => Sys2Proof.Machine.execDebugLock q s
  | .cellarProgram q => Sys2Proof.Machine.execCellarProgram q s
  | .cellarErase q => Sys2Proof.Machine.execCellarErase q s
  | .cellarCommandDone b ok => Sys2Proof.Machine.execCellarCommandDone b ok s
  | .cellarRead => Sys2Proof.Machine.execCellarRead s
  | .bankSuspended b => Sys2Proof.Machine.execBankSuspended b s
  | .bankResume b => Sys2Proof.Machine.execBankResume b s
  | .logFlush aud n fails => Sys2Proof.Machine.execLogFlush aud n fails s
  | .logDegradedReminder => Sys2Proof.Machine.execLogDegradedReminder s
  | .celOpRead e body => Sys2Proof.Machine.execCelOpRead e body s
  | .celOpProgram e body => Sys2Proof.Machine.execCelOpProgram e body s
  | .celOpErase e body => Sys2Proof.Machine.execCelOpErase e body s
  | .setLevel e body => Sys2Proof.Machine.execSetLevel e body s
  | .bbtRead e body => Sys2Proof.Machine.execBbtRead e body s
  | .celOpStatus e body => Sys2Proof.Machine.execCelOpStatus e body s
  | .powerCommand q w => Sys2Proof.Machine.execPowerCommand q w s
  | .powerEntryProceed => Sys2Proof.Machine.execPowerEntryProceed s
  | .wakeEdge ix => Sys2Proof.Machine.execWakeEdge ix s
  | .wakeTimerExpiry => Sys2Proof.Machine.execWakeTimerExpiry s
  | .wakePowerGood => Sys2Proof.Machine.execWakePowerGood s
  | .resetNEdge ns => Sys2Proof.Machine.execResetNEdge ns s
  | .coldResetRequest q => Sys2Proof.Machine.execColdResetRequest q s
  | .warmResetRequest q => Sys2Proof.Machine.execWarmResetRequest q s
  | .resetRelease => Sys2Proof.Machine.execResetRelease s
  | .keyWrite e body => Sys2Proof.Machine.execKeyWrite e body s
  | .keyErase e body => Sys2Proof.Machine.execKeyErase e body s
  | .keyStatus e body => Sys2Proof.Machine.execKeyStatus e body s
  | .advance e body => Sys2Proof.Machine.execAdvance e body s
  | .lifeCycleFuseBlown => Sys2Proof.Machine.execLifeCycleFuseBlown s
  | .keyDeferredComplete k => Sys2Proof.Machine.execKeyDeferredComplete k s
  | .bistCmdGo q k w => Sys2Proof.Machine.execBistCmdGo q k w s
  | .bistRunTest e body => Sys2Proof.Machine.execBistRunTest e body s
  | .bistRunFuse e body => Sys2Proof.Machine.execBistRunFuse e body s
  | .bistRunStatus e body => Sys2Proof.Machine.execBistRunStatus e body s
  | .bistRunDefectRead e body => Sys2Proof.Machine.execBistRunDefectRead e body s
  | .bistPhaseDone k => Sys2Proof.Machine.execBistPhaseDone k s
  | .bistDone k fails addr bit us rows cols bad => Sys2Proof.Machine.execBistDone k fails addr bit us rows cols bad s
  | .bistFuseDone kind mem => Sys2Proof.Machine.execBistFuseDone kind mem s
  | .hioSupplyOutOfWindow b mv => Sys2Proof.Machine.execHioSupplyOutOfWindow b mv s
  | .hioOutputsReturn b mv => Sys2Proof.Machine.execHioOutputsReturn b mv s
  | .rangeWrite q b w => Sys2Proof.Machine.execRangeWrite q b w s
  | .strapChange b p => Sys2Proof.Machine.execStrapChange b p s
  | .tapReset => Sys2Proof.Machine.execTapReset s
  | .extest load => Sys2Proof.Machine.execExtest load s
  | .idcode => Sys2Proof.Machine.execIdcode s
  | .samplePreload load => Sys2Proof.Machine.execSamplePreload load s
  | .bypass => Sys2Proof.Machine.execBypass s
  | .registerWrite q off n w => Sys2Proof.Machine.execRegisterWrite q off n w s
  | .activeClockEdge e => Sys2Proof.Machine.execActiveClockEdge e s
  | .asynchronousSr tile c up src => Sys2Proof.Machine.execAsynchronousSr tile c up src s
  | .regulatorBucketFill r => Sys2Proof.Machine.execRegulatorBucketFill r s
  | .continuousErrorInjection n => Sys2Proof.Machine.execContinuousErrorInjection n s
  | .xo32Loss => Sys2Proof.Machine.execXo32Loss s
  | .xo32Return => Sys2Proof.Machine.execXo32Return s
  | .poisonedWordLoad c x => Sys2Proof.Machine.execPoisonedWordLoad c x s

end Sys2Proof.Machine
end

