-- ==== Sys2Proof/Machine/Tick.lean ====
section
/-! DEFINITION. What time alone does: one microsecond (R85) of the timers and counters that no command of the table names. It is
what the block does while no command waits (notes/assumptions/4.md). -/

namespace Sys2Proof.Machine

/-- R495: one microsecond of filling, in millionths of a token. -/
def HostSt.fill (x : HostSt) : HostSt :=
  { x with tokMajor := min 100000000 (x.tokMajor + 1000), tokMinor := min 10000000 (x.tokMinor + 100),
           tokInfo := min 1000000 (x.tokInfo + 10) }

/-- R490, R495: a host's buckets fill; each second the answers outside sessions count from 0 again. -/
def State.hostMicro (s : State) (h : Nat) : State :=
  let x := (s.host h).fill
  s.setHost h { x with unauth := if s.mtime % 100000000 = 0 then 0 else x.unauth }

/-- R219: the time left in an open confirm window; the tick in which it reaches 0 is CONFIRM_WINDOW_EXPIRY. -/
def State.windowMicro (s : State) (v : Nat) : State :=
  let n := s.rd (CFG.WIN_LEFT.US v)
  if n ≤ 1 then s else s.wr (CFG.WIN_LEFT.US v) (n - 1)

/-- R314, R318: NOC cycles that an initiator has stalled for a tag, or at its regulator. -/
def State.stallMicro (s : State) (i : Nat) : State :=
  let n := s.nocPerUs
  match s.stalled i with
  | 1 => s.bump (NOC.TSTALL_CNT i) n
  | 2 => s.bump (NOC.RSTALL_CNT i) n
  | _ => s

/-- R95: the clock of a gating group that has work is open. -/
def State.gateMicro (s : State) (g : Nat) : State :=
  if !closesAtOnce g && s.groupWork g then { s with clk := { s.clk with open_ := tput s.clk.open_ g true false } } else s

/-- R474: MTIME, with the compares of the service cores. -/
def State.mtimeMicro (s : State) : State :=
  (List.range 4).foldl State.mtip { s with mtime := (s.mtime + 100) % 2 ^ 64 }

/-- R416, R423: the timing island runs in every mode but OFF, from the first lock of TCLK on. -/
def State.timeMicro (s : State) : State :=
  if s.time.ever && s.mode != M.off && !s.pwr.held then s.tbMicro else s

/-- R85: what a microsecond does in the core island. -/
def State.coreMicro (s : State) : State :=
  let s := s.mtimeMicro
  let s := (List.range 4).foldl State.hostMicro s
  let s := s.cfg.window.foldl State.windowMicro s
  let s := (s.noc.held.map (·.1)).foldl State.stallMicro s
  (List.range 11).foldl State.gateMicro s

/-- One microsecond with no command. -/
def State.tick (s : State) : State :=
  let s := s.timeMicro
  if s.powered && !s.pwr.held && s.pwr.rst.isNone then s.coreMicro else s

end Sys2Proof.Machine
end

