-- ==== Sys2Proof/Safety.lean ====
section
/-! DEFINITION. What claims about the block are said in: the invariant of every state the block can be in, and which parts of
the state a command changes. -/

namespace Sys2Proof.Machine

/-- R10, R12: no counter passes 2^48 − 1; the table of counters is in its canonical form. -/
def State.countersOk (s : State) : Prop := twf (fun _ => {}) s.ctrs = true ∧ ∀ p ∈ s.ctrs, p.2.val ≤ ctrMax

/-- R483, R492: a host's event queue holds at most 256 entries, and its session has at most 256 requests open. -/
def HostSt.ok (x : HostSt) : Prop := x.queue.length ≤ 256 ∧ ∀ y ∈ x.sess, y.slots.length ≤ 256

/-- R483, R492, for every host; the table of hosts is in its canonical form. -/
def State.hostsOk (s : State) : Prop := twf (fun _ => {}) s.mgt.hosts = true ∧ ∀ p ∈ s.mgt.hosts, p.2.ok

/-- The registers' table is in its canonical form: one entry for a register, and none for one at its reset value. -/
def State.regsOk (s : State) : Prop := twf resetWord s.regs = true

/-- A channel's lines are in canonical form: none is listed that holds what an unlisted line of its physical rank reads as. -/
def DramCh.linesOk (c : DramCh) : Prop := twf (fun k => c.lineDefault (k / 2 ^ 30)) c.lines = true

/-- The addressed memories are in canonical form: the block and deep memories, the slices' operand memories, the scratchpad, the
live frames, the two planes and the Cellar's array. -/
structure State.memoryOk (s : State) : Prop where
  bm : twf (fun _ => none) s.mem.bm = true
  dm : twf (fun _ => none) s.mem.dm = true
  opm : twf (fun _ => none) s.slc.opm = true
  scr : twf (fun _ => none) s.scr.w = true
  live : twf (fun _ => 0) s.cfg.live = true
  planeA : twf (fun _ => 0) s.cfg.planeA = true
  planeB : twf (fun _ => 0) s.cfg.planeB = true
  words : twf (fun _ => erased) s.cel.words = true

/-- So are the lines of every channel. -/
def State.dramOk (s : State) : Prop := ∀ p ∈ s.dram.ch, p.2.linesOk

/-- What holds in every state of the block. -/
structure Inv (s : State) : Prop where
  counters : s.countersOk
  hosts : s.hostsOk
  regs : s.regsOk
  memory : s.memoryOk

/-- The parts of the state. -/
inductive Part where
  | regs | ctrs | latches | mtime | freeCtr | answer | mgt | dbg | logs | irq | clk | noc | span | inject | prbs | dram | procs
  | cfg | img | churn | fab | slc | mem | time | cel | scr | fen | dma | svc | cores | pwr | lcs | bist | pins | pending
deriving DecidableEq, Repr

/-- A part is the same in two states. -/
def Part.same (s t : State) : Part → Prop
  | .regs => t.regs = s.regs
  | .ctrs => t.ctrs = s.ctrs
  | .latches => t.latches = s.latches
  | .mtime => t.mtime = s.mtime
  | .freeCtr => t.freeCtr = s.freeCtr
  | .answer => t.answer = s.answer
  | .mgt => t.mgt = s.mgt
  | .dbg => t.dbg = s.dbg
  | .logs => t.logs = s.logs
  | .irq => t.irq = s.irq
  | .clk => t.clk = s.clk
  | .noc => t.noc = s.noc
  | .span => t.span = s.span
  | .inject => t.inject = s.inject
  | .prbs => t.prbs = s.prbs
  | .dram => t.dram = s.dram
  | .procs => t.procs = s.procs
  | .cfg => t.cfg = s.cfg
  | .img => t.img = s.img
  | .churn => t.churn = s.churn
  | .fab => t.fab = s.fab
  | .slc => t.slc = s.slc
  | .mem => t.mem = s.mem
  | .time => t.time = s.time
  | .cel => t.cel = s.cel
  | .scr => t.scr = s.scr
  | .fen => t.fen = s.fen
  | .dma => t.dma = s.dma
  | .svc => t.svc = s.svc
  | .cores => t.cores = s.cores
  | .pwr => t.pwr = s.pwr
  | .lcs => t.lcs = s.lcs
  | .bist => t.bist = s.bist
  | .pins => t.pins = s.pins
  | .pending => t.pending = s.pending

/-- The frame of a change: every part but those listed is the same. -/
def only (l : List Part) (s t : State) : Prop := ∀ p, p ∉ l → p.same s t

/-- Every part but the queue. -/
def allParts : List Part := [
  .regs, .ctrs, .latches, .mtime, .freeCtr, .answer, .mgt, .dbg, .logs, .irq, .clk, .noc, .span, .inject, .prbs, .dram,
  .procs, .cfg, .img, .churn, .fab, .slc, .mem, .time, .cel, .scr, .fen, .dma, .svc, .cores, .pwr, .lcs, .bist, .pins]

/-- The parts a command can change: those its meaning writes. A command that does what a register's own rule says can reach
everything that some register's rule reaches. -/
def partsOf : Instr → List Part
  | .refQualified .. | .coastSlewDone | .dividerTakesEffect | .foreignLineSwitchDone .. | .oscSettled .. |
    .sectorGateOpen .. | .quadPllLock .. | .quadRefQualified .. | .rxSignalDetect .. | .rxCdrLock .. |
    .trefQualified .. | .xo32Loss | .xo32Return =>
    [.regs]
  | .smbusStatusRead | .smbusLastgaspRead .. =>
    [.mgt]
  | .dbgChallengeTimeout =>
    [.dbg]
  | .blockClockIdleClose .. =>
    [.clk]
  | .mapCacheRefresh .. =>
    [.noc]
  | .spanAckTimer .. =>
    [.span]
  | .readTimingTracking .. | .rowIdleClose .. =>
    [.dram]
  | .vatResetHoldExpiry .. =>
    [.cfg]
  | .pauseExpiry .. =>
    [.fen]
  | .hioOutputsReturn .. | .strapChange .. | .tapReset | .extest .. | .idcode | .bypass =>
    [.pins]
  | .wakeLatchEdge .. =>
    [.regs, .irq]
  | .rootLoopLock | .rootSwitchDone | .autoRelockTimer =>
    [.regs, .clk]
  | .mapSyncDone =>
    [.regs, .noc]
  | .prbsCheckerLock .. =>
    [.regs, .prbs]
  | .rankFillDone .. | .channelReady .. =>
    [.regs, .dram]
  | .mtimeCompare .. =>
    [.regs, .procs]
  | .churnPassStart =>
    [.regs, .churn]
  | .tclkLock | .tclkRelock | .pulseRelease .. =>
    [.regs, .time]
  | .bankResume .. =>
    [.regs, .cel]
  | .powerOnResetRelease =>
    [.regs, .pwr]
  | .asynchronousSr .. =>
    [.freeCtr, .fab]
  | .sliceStart .. | .trigInput .. | .xCapture .. | .yDeliver .. =>
    [.freeCtr, .slc]
  | .bm36Read .. | .bm36FullWrite .. =>
    [.freeCtr, .mem]
  | .samplePreload .. =>
    [.freeCtr, .pins]
  | .wakeEdge .. | .wakeTimerExpiry =>
    [.irq, .pwr]
  | .poisonedWordLoad .. =>
    [.procs, .cores]
  | .sectorPowerGood .. =>
    [.mem, .bist]
  | .bm36NarrowWrite .. | .bm36Clear .. | .correctionWriteBack .. | .dmFabricRead .. | .dmFabricWrite .. |
    .dmDeferredServe .. =>
    [.regs, .freeCtr, .mem]
  | .selfRefreshReached .. =>
    [.regs, .clk, .dram]
  | .neighbourRefresh .. | .identify .. | .stats .. | .immReset .. | .immPower .. | .logRead .. | .immAck .. |
    .standaloneAckTimer .. | .refusalResponse .. | .eventSend .. | .eventsLostSend .. | .logDegradedReminder |
    .celOpRead .. | .bbtRead .. | .celOpStatus .. | .keyStatus .. | .bistRunStatus .. | .bistRunDefectRead .. |
    .continuousErrorInjection .. =>
    [.ctrs, .mgt, .logs]
  | .foreignSourceLoss .. | .lanePllFail .. | .trefLoss .. =>
    [.regs, .ctrs, .mgt, .logs]
  | .fastInterruptEntry .. | .fret .. =>
    [.regs, .irq, .procs, .cores]
  | .cellarRead =>
    [.regs, .noc, .span, .cel]
  | .sessionInit .. | .dbgRunStatus .. =>
    [.ctrs, .freeCtr, .mgt, .logs]
  | .dbgAuth .. | .dbgRunStep .. | .dbgBkpt .. =>
    [.ctrs, .mgt, .dbg, .logs]
  | .rootCoastTimer =>
    [.ctrs, .mgt, .logs, .clk]
  | .spanCtrlFrame .. =>
    [.ctrs, .mgt, .logs, .span]
  | .immVatReset .. =>
    [.ctrs, .mgt, .logs, .cfg]
  | .bootSet .. =>
    [.ctrs, .mgt, .logs, .cel]
  | .keyWrite .. | .keyErase .. | .advance .. | .lifeCycleFuseBlown | .keyDeferredComplete .. =>
    [.ctrs, .mgt, .logs, .lcs]
  | .bistRunFuse .. | .bistFuseDone .. =>
    [.ctrs, .mgt, .logs, .bist]
  | .hioSupplyOutOfWindow .. =>
    [.ctrs, .mgt, .logs, .pins]
  | .temperaturePoll .. | .migrationDone .. | .rxLocked .. | .rxNoLock .. | .elasticBufferSlip .. | .linkUp .. |
    .interruptAssert .. =>
    [.regs, .ctrs, .mgt, .logs, .irq]
  | .refWaitTimeout =>
    [.regs, .ctrs, .mgt, .logs, .clk]
  | .txOnReached .. =>
    [.regs, .ctrs, .mgt, .logs, .inject]
  | .dramWholeWrite .. | .refreshDue .. =>
    [.regs, .ctrs, .mgt, .logs, .dram]
  | .moduleRegionRelease .. | .moduleRestoreDone .. =>
    [.regs, .ctrs, .mgt, .logs, .cfg]
  | .imgCommit .. | .imgVerify .. | .memoryInitStart .. | .memoryInitDone .. =>
    [.regs, .ctrs, .mgt, .logs, .img]
  | .churnPassComplete | .churnPassLate =>
    [.regs, .ctrs, .mgt, .logs, .churn]
  | .logFlush .. | .setLevel .. =>
    [.regs, .ctrs, .mgt, .logs, .cel]
  | .resetRelease =>
    [.regs, .ctrs, .mgt, .logs, .pwr]
  | .dmNocRequest .. | .dmNocWaitExpiry .. =>
    [.regs, .freeCtr, .noc, .span, .mem]
  | .dbgOpen .. | .dbgRunHalt .. =>
    [.ctrs, .freeCtr, .mgt, .dbg, .logs]
  | .planeRepair .. =>
    [.ctrs, .freeCtr, .mgt, .logs, .cfg]
  | .quarantineExpiry .. | .spanFlitFrame .. | .spanFlitrFrame .. | .spanGatewayFlit | .regulatorBucketFill .. =>
    [.ctrs, .mgt, .logs, .noc, .span]
  | .portPAccess .. =>
    [.regs, .ctrs, .freeCtr, .mgt, .logs, .slc]
  | .sessionFinish .. | .sessionClose .. | .immRetransmitExpiry .. | .sessionIdleTimeout .. | .dbgClose .. =>
    [.regs, .ctrs, .mgt, .dbg, .logs, .irq]
  | .spanInitFrame .. | .spanReplayExpiry .. =>
    [.regs, .ctrs, .mgt, .logs, .irq, .span]
  | .prbsCheckerBlock .. =>
    [.regs, .ctrs, .mgt, .logs, .irq, .prbs]
  | .channelInitDone .. =>
    [.regs, .ctrs, .mgt, .logs, .irq, .dram]
  | .storeErrorResponse .. | .msterrClear .. | .dbgCpu .. =>
    [.regs, .ctrs, .mgt, .logs, .irq, .procs]
  | .baseWatchdogExpiry .. | .cmpFire .. | .pulseAssert .. | .captureEdge .. =>
    [.regs, .ctrs, .mgt, .logs, .irq, .time]
  | .linkDown .. =>
    [.regs, .ctrs, .mgt, .logs, .irq, .fen]
  | .peripheralWordReceived .. | .peripheralTransferDone .. | .i2cTimeout .. =>
    [.regs, .ctrs, .mgt, .logs, .irq, .svc]
  | .wakePowerGood =>
    [.regs, .ctrs, .mgt, .logs, .dram, .pwr]
  | .moduleLoadStart .. =>
    [.regs, .ctrs, .mgt, .logs, .cfg, .img]
  | .restorePlaneRead .. =>
    [.regs, .ctrs, .mgt, .logs, .cfg, .churn]
  | .sliceNop .. | .sliceIn .. | .sliceOut .. | .sliceLda .. | .sliceLdc .. | .sliceLoop .. | .sliceSetag .. |
    .sliceHalt .. | .sliceSig .. | .illegalInstruction .. | .inspectionSteal .. =>
    [.regs, .ctrs, .mgt, .logs, .cfg, .slc]
  | .initiatorTimeout .. =>
    [.ctrs, .mgt, .logs, .noc, .procs, .cores]
  | .activeClockEdge .. =>
    [.freeCtr, .cfg, .fab, .slc, .mem, .time]
  | .dbgRunResume .. =>
    [.regs, .ctrs, .freeCtr, .mgt, .dbg, .logs, .irq]
  | .patrolRead .. =>
    [.regs, .ctrs, .freeCtr, .mgt, .logs, .irq, .dram]
  | .celOpProgram .. | .celOpErase .. =>
    [.regs, .ctrs, .freeCtr, .mgt, .logs, .irq, .cel]
  | .nocRequestIssue .. =>
    [.regs, .ctrs, .freeCtr, .mgt, .logs, .noc, .span]
  | .sliceTap .. | .sliceMac .. | .sliceCas .. | .sliceJmp .. | .sliceWait .. | .portPSteal .. =>
    [.regs, .ctrs, .freeCtr, .mgt, .logs, .cfg, .slc]
  | .refLoss .. | .relockComplete =>
    [.regs, .ctrs, .mgt, .logs, .irq, .clk, .dram]
  | .flitForward .. =>
    [.regs, .ctrs, .mgt, .logs, .irq, .noc, .span]
  | .quadRefLoss .. | .rxLockLost .. | .rxSignalLost .. | .mpRateAlternate .. =>
    [.regs, .ctrs, .mgt, .logs, .irq, .span, .fen]
  | .moduleLoadRestore .. =>
    [.regs, .ctrs, .mgt, .logs, .irq, .cfg, .slc]
  | .memoryFrameReload .. =>
    [.regs, .ctrs, .mgt, .logs, .cfg, .img, .slc]
  | .scratchpadAccess .. =>
    [.ctrs, .freeCtr, .mgt, .logs, .noc, .span, .scr]
  | .vatGatingDone .. =>
    [.regs, .ctrs, .latches, .mgt, .logs, .cfg, .slc, .mem]
  | .txStreamFrame .. | .timedLaunch .. =>
    [.regs, .ctrs, .freeCtr, .mgt, .logs, .irq, .time, .fen]
  | .dramAdmit .. =>
    [.regs, .ctrs, .freeCtr, .mgt, .logs, .noc, .span, .dram]
  | .bankSuspended .. =>
    [.regs, .ctrs, .freeCtr, .mgt, .logs, .noc, .span, .cel]
  | .frameAccessDone .. =>
    [.regs, .ctrs, .freeCtr, .mgt, .logs, .cfg, .fab, .slc]
  | .responseArrival .. =>
    [.regs, .ctrs, .mgt, .logs, .noc, .span, .procs, .cores]
  | .scrubRead .. | .correctionWrite .. | .restorationWrite .. =>
    [.regs, .ctrs, .mgt, .logs, .cfg, .churn, .fab, .slc]
  | .bistRunTest .. =>
    [.regs, .ctrs, .mgt, .logs, .cfg, .mem, .scr, .bist]
  | .processorHalted .. | .breakpointHit .. =>
    [.regs, .ctrs, .freeCtr, .mgt, .dbg, .logs, .irq, .procs, .cores]
  | .dramRead .. | .dramPartialWrite .. =>
    [.regs, .ctrs, .freeCtr, .mgt, .logs, .irq, .noc, .span, .dram]
  | .bistPhaseDone .. =>
    [.regs, .ctrs, .freeCtr, .mgt, .logs, .cfg, .mem, .scr, .bist]
  | .vatRelease .. =>
    [.regs, .ctrs, .mgt, .logs, .noc, .cfg, .fab, .slc, .fen]
  | .deferredTestStart .. | .bistDone .. =>
    [.regs, .ctrs, .mgt, .logs, .irq, .cfg, .mem, .cel, .scr, .bist]
  | .capturePop .. | .tsqPop .. | .claim .. | .vclaim .. | .rxdPop .. =>
    [.regs, .ctrs, .latches, .freeCtr, .answer, .mgt, .logs, .irq, .clk, .procs, .time, .fen, .svc]
  | .vatResetAssertion .. =>
    [.regs, .ctrs, .latches, .freeCtr, .mgt, .logs, .irq, .noc, .cfg, .img, .fab, .slc, .mem, .dma, .pins]
  | .deferredWholeDeviceStart .. | .deferredSwapStart .. | .commitCloseDone .. | .confirmWindowExpiry .. |
    .expiryRollbackStart .. | .armCompareFire .. | .activationAssertion .. | .imgStage .. | .imgStream .. |
    .signatureVerified .. | .imageSendTimeout | .stagingEraseReissue | .moduleLoadDone .. | .planeOp .. |
    .cellarCommandDone .. =>
    [.regs, .ctrs, .latches, .freeCtr, .mgt, .logs, .irq, .noc, .cfg, .img, .churn, .fab, .slc, .mem, .cel, .scr,
    .dma, .bist, .pins]
  | .loadComplete .. =>
    [.regs, .ctrs, .latches, .freeCtr, .mgt, .logs, .irq, .noc, .span, .cfg, .img, .churn, .fab, .slc, .mem, .cel,
    .scr, .dma, .bist, .pins]
  | .starterFirmwareStart .. =>
    [.regs, .ctrs, .latches, .freeCtr, .mgt, .logs, .irq, .noc, .span, .cfg, .img, .churn, .fab, .slc, .mem, .cel,
    .scr, .fen, .dma, .pwr, .lcs, .bist, .pins]
  | .supplyLeavesTolerance .. | .rootSourceSwitch .. | .relock .. | .dividerWrite .. | .foreignLineSourceWrite .. |
    .oscConfigWrite .. | .sliceHaltRequest .. | .sliceResume .. | .sliceStep .. | .inspectionStart .. |
    .clearIllegal .. | .commitOpen .. | .commitClose .. | .activate .. | .rollback .. | .confirm .. | .arm .. |
    .disarm .. | .invalidate .. | .capture .. | .frameAccessRead .. | .frameAccessWrite .. | .headerRecord .. |
    .signatureRecord .. | .frameRecord .. | .frameZRecord .. | .repeatRecord .. | .zeroRunRecord .. |
    .meminitRecord .. | .endRecord .. | .vatResetRequest .. | .vatReleaseRequest .. | .vatPowerGate .. |
    .vatPowerUp .. | .resourceAssignWrite .. | .moduleRegionEnable .. | .moduleLoadRequest .. | .churnEnable .. |
    .churnDisable .. | .targetRequestArrival .. | .mapEntryWrite .. | .mapSync .. | .regulatorBind .. |
    .regulatorUnbind .. | .spanPortEnable .. | .spanPortDisable .. | .channelInit .. | .channelFill .. |
    .migrationStart .. | .migrationCopy .. | .selfRefreshEnter .. | .selfRefreshExit .. | .spareSubstitute .. |
    .quadPllEnable .. | .laneTxPowerSet .. | .laneRxPowerSet .. | .laneRateSet .. | .laneLoopbackSet .. |
    .txPresetChange .. | .recoveredClockDivider .. | .injectOnce .. | .portEnable .. | .portDisable .. | .rxFrame .. |
    .rxFrameWrite .. | .queueEnable .. | .queueDisable .. | .queueDoorbell .. | .queueStage .. |
    .lateTimedFrame .. | .txFrameDone .. | .sendPause .. | .queueResume .. | .tclkSourceSelect .. | .tbSet .. |
    .tbStep .. | .tbSnap .. | .rateUpdate .. | .cmpArm .. | .cmpDisarm .. | .pulseEnable .. | .coreRun .. |
    .coreReset .. | .complete .. | .pendClear .. | .softwareInterrupt .. | .vcomplete .. | .scratchpadLock .. |
    .dmaGo .. | .dmaStop .. | .dmaDescriptorDone .. | .txdWrite .. | .regRd .. | .regWr .. | .memRd .. | .memWr .. |
    .resetOrPowerAct | .dbgRd .. | .dbgWr .. | .debugLock .. | .cellarProgram .. | .cellarErase .. |
    .powerCommand .. | .powerEntryProceed | .resetNEdge .. | .coldResetRequest .. | .warmResetRequest .. |
    .bistCmdGo .. | .rangeWrite .. | .registerWrite .. =>
    allParts

/-- A requester can write the register at an offset: the registers can be reached, the access is not refused before it
reaches the register (R4, R40, R258), and the offset holds a register rather than a half of a counter. -/
structure State.canWrite (s : State) (q : Req) (off : Nat) : Prop where
  up : s.islandUp = true
  check : s.busCheck q off 4 true = .okay
  reg : (regAt off).isSome = true
  ctr : ctrAt off = false

/-- A requester can read the register at an offset, which is not read through an alias (R6). -/
structure State.canRead (s : State) (q : Req) (off : Nat) : Prop where
  up : s.islandUp = true
  plain : q.insp = false
  check : s.busCheck q off 4 false = .okay
  reg : (regAt off).isSome = true
  ctr : ctrAt off = false

/-- The frame of the registers: every register but those listed holds what it held. -/
def regsOnly (l : List Nat) (s t : State) : Prop := ∀ a, a ∉ l → t.reg a = s.reg a

end Sys2Proof.Machine
end

