-- ==== Sys2Proof/Certificates/Slice0/Obligations.lean ====
section
/-! DEFINITION. The obligations. A statement about a register write assumes that the requester can write the register
(`State.canWrite`); what becomes of an access that is refused stands in `Obligations.RegisterAccesses`. -/

open Sys2Proof Sys2Proof.Machine

/-- R8: what a register's own rule leaves, with the answer its requester receives: OKAY, or SLVERR where the rule refuses. -/
def Sys2Proof.Machine.State.answered (r : State × Bool) : State := r.1.tell (if r.2 then .okay else .slverr) []

/-- Every step keeps the invariant: no counter passes 2^48 − 1, no event queue 256 entries, no session 256 open requests (R10,
R12, R483, R492), and the tables of registers, counters and hosts and the addressed memories stay in canonical form. The step of
an empty queue is the model's microsecond of time (notes/assumptions/4.md). -/
def Obligations.StepsKeepTheInvariant : Prop := ∀ s t : State, Inv s → step s = .next t → Inv t

/-- The state after reset meets the invariant, and so do the lines of its DRAM. -/
def Obligations.ResetMeetsTheInvariant : Prop := Inv State.reset ∧ State.reset.dramOk

/-- A step carries out the command at the front of the queue with the rest still waiting. With none waiting it is the model's
microsecond of time (DESIGN CHOICE, notes/assumptions/4.md). -/
def Obligations.StepsRunTheFrontCommand : Prop := ∀ s : State,
  (∀ c rest, s.pending = c :: rest → step s = exec c { s with pending := rest }) ∧
  (s.pending = [] → step s = .next s.tick)

/-- Every command answers a next state, whatever the state and its operands, and leaves the commands that wait alone. The
model's choices in its clauses: notes/assumptions/5 and 78.md. -/
def Obligations.CommandsComplete : Prop := ∀ (c : Instr) (s : State), ∃ t, exec c s = .next t ∧ t.pending = s.pending

/-- The frame of every command: the parts of the state that its meaning does not write are as they were. -/
def Obligations.CommandsKeepTheirFrames : Prop := ∀ (c : Instr) (s t : State), exec c s = .next t → only (partsOf c) s t

/-- R10 to R13: a counter that is added to stays at 2^48 − 1, and sets SAT and raises one event when it comes there; no other
counter changes. A read of the lower register latches the upper half, a read of the upper register returns the latch, and a
write of 1 to CLR sets the counter and SAT to 0 and leaves the latch. -/
def Obligations.CountersCount : Prop := ∀ (s : State) (off n : Nat), s.countersOk →
  let c := s.ctr off
  let r := s.ctrAdd off n
  (0 < n → (r.1.ctr off).val = min (2 ^ 48 - 1) (c.val + n) ∧ (r.1.ctr off).sat = (c.sat || decide (2 ^ 48 - 1 ≤ c.val + n)) ∧
    (r.1.ctr off).latch = c.latch ∧
    (r.2 = true ↔ c.sat = false ∧ 2 ^ 48 - 1 ≤ c.val + n)) ∧
  (n = 0 → ∀ o, r.1.ctr o = s.ctr o) ∧
  (∀ o, o ≠ off → r.1.ctr o = s.ctr o) ∧
  (r.2 = false → s.bump off n = r.1) ∧
  (r.2 = true → s.bump off n =
    raiseTo 9 (s.devOwner :: ((s.ctrVat off).map fun v => s.ownerOf v).toList).dedup (counterSatData off) r.1) ∧
  (∀ q : Req, s.islandUp = true → q.insp = false → s.busCheck q off 4 false = .okay → ctrAt off = true →
    let t := s.busGet q off
    t = ((s.openGroup off).ctrLatch off).tell .okay (leBytes 4 (c.val % 2 ^ 32)) ∧
    t.ctr off = { c with latch := BitVec.ofNat 32 (c.val / 2 ^ 32 + if c.sat then 2 ^ 31 else 0) }) ∧
  (∀ q : Req, s.islandUp = true → q.insp = false → s.busCheck q (off + 4) 4 false = .okay → ctrAt off = true →
    ctrAt (off + 4) = false → regAt (off + 4) = none →
    s.busGet q (off + 4) = (s.openGroup (off + 4)).tell .okay (leBytes 4 c.latch.toNat)) ∧
  (∀ (q : Req) (w : Word), s.islandUp = true → s.busCheck q (off + 4) 4 true = .okay → ctrAt off = true →
    ctrAt (off + 4) = false → regAt (off + 4) = none → (off + 4 < 0x2000000 ∨ 0x2080000 ≤ off + 4) →
    let t := s.busPut q (off + 4) w
    (w.getLsbD 30 = true → t = ((s.openGroup (off + 4)).ctrClear off).tell .okay [] ∧
      t.ctr off = { c with val := 0, sat := false }) ∧
    (w.getLsbD 30 = false → t = (s.openGroup (off + 4)).tell .okay []))

/-- R4: a register write does what the register's own rule says, or is refused and changes nothing but the answer its
requester receives. A read that is refused changes nothing either. An access outside the register window, of another size or
alignment, or of a block that the requester does not reach is refused. The model's choices in its clauses:
notes/assumptions/9.md. -/
def Obligations.RegisterAccesses : Prop := ∀ (s : State) (q : Req) (off : BitVec 32) (n : Nat) (w : Word),
  (s.islandUp = true → s.busCheck q off.toNat n true ≠ .okay →
    exec (.registerWrite q off n w) s = .next (s.tell (s.busCheck q off.toNat n true) [])) ∧
  (let a := if q.insp then aliasOf off.toNat else off.toNat
   s.busCheck q a n false ≠ .okay → s.busRead q off.toNat n = (s, s.busCheck q a n false, 0)) ∧
  (n = 4 → s.canWrite q off.toNat →
    let r := (s.openGroup off.toNat).writeReg q off.toNat w
    exec (.registerWrite q off n w) s = .next (r.1.tell (if r.2 then .okay else .slverr) [])) ∧
  (∀ wr, 0x10000000 ≤ off.toNat → s.busCheck q off.toNat n wr = .decerr) ∧
  (∀ wr, off.toNat < 0x10000000 → off.toNat % 4 ≠ 0 ∨ n ≠ 4 → s.busCheck q off.toNat n wr = .slverr) ∧
  (∀ wr, off.toNat < 0x10000000 → regAt off.toNat = none → ctrAt off.toNat = false → ctrAt (off.toNat - 4) = false →
    s.busCheck q off.toNat n wr = .slverr) ∧
  (∀ wr, 0x300000 ≤ off.toNat → off.toNat < 0x3000000 → q.starter = false → q.vat ≠ 0 →
    s.busCheck q off.toNat n wr = .slverr) ∧
  (∀ wr, 0x6100010 ≤ off.toNat → off.toNat < 0x6100030 → q.starter = false → s.busCheck q off.toNat n wr = .slverr)

/-- R8: the Reset column: each field of a register reads its reset value after power-on reset; the dividers read theirs (R82).
The model's choices in its clauses: notes/assumptions/79.md. -/
def Obligations.RegistersReset : Prop :=
  (∀ (off : Nat) (d : RegDesc) (f : FldDesc), regAt off = some d → resetOverride off = none → f ∈ d.flds →
    wget (State.reset.reg off) f.hi f.lo = f.reset) ∧
  (∀ k : Fin 16, State.reset.rd (CLK.DIV.DIV k.val) = [5, 8, 10, 10, 3, 12, 30, 60].getD k.val 240 ∧
    State.reset.rd (CLK.DIV.DIV_ACT k.val) = [5, 8, 10, 10, 3, 12, 30, 60].getD k.val 240)

/-- R5, R7: what a write makes of each bit of a register that has no rule of its own, by its field's access type, and what the
bit reads as; a bit of no field keeps its value and reads as 0. -/
def Obligations.AccessTypes : Prop := ∀ (s : State) (off : Nat) (d : RegDesc) (w : Word), s.regsOk → regAt off = some d →
  let t := s.plainWrite off w
  (∀ f ∈ d.flds, ∀ i, f.lo ≤ i → i ≤ f.hi →
    (t.reg off).getLsbD i = (match f.acc with
      | .rw => w.getLsbD i
      | .w1c => (s.reg off).getLsbD i && !w.getLsbD i
      | .w1s => (s.reg off).getLsbD i || w.getLsbD i
      | _ => (s.reg off).getLsbD i) ∧
    (s.plainRead off).getLsbD i = (if f.acc = .wo then false else (s.reg off).getLsbD i)) ∧
  (∀ i, (∀ f ∈ d.flds, ¬ (f.lo ≤ i ∧ i ≤ f.hi)) → (t.reg off).getLsbD i = (s.reg off).getLsbD i ∧
    (s.plainRead off).getLsbD i = false) ∧
  (∀ o, o ≠ off → t.reg o = s.reg o)

/-- The addressed memories: a word of a block or deep memory, of a slice's operand memory, of the scratchpad, a live frame, a
plane's frame, a word of the Cellar's array or a line of the DRAM that is written reads back, and no other changes. The
model's choices in its clauses: notes/assumptions/1 and 6.md. -/
def Obligations.MemoriesReadBack : Prop := ∀ s : State, s.memoryOk → s.dramOk →
  (∀ dm i k w, k < memWords dm → ((s.setMemW dm i k w).memW dm i k = w ∧
    ∀ dm' i' k', k' < memWords dm' → (dm', i', k') ≠ (dm, i, k) → (s.setMemW dm i k w).memW dm' i' k' = s.memW dm' i' k')) ∧
  (∀ g a w, a < 1024 → ((s.setOpm g a w).opmW g a = w ∧
    ∀ g' a', a' < 1024 → (g', a') ≠ (g, a) → (s.setOpm g a w).opmW g' a' = s.opmW g' a')) ∧
  (∀ k w, ((s.setScrWord k w).scrWord k = w ∧ ∀ j, j ≠ k → (s.setScrWord k w).scrWord j = s.scrWord j)) ∧
  (∀ n f, ((s.setLive n f).liveFrame n = f ∧ ∀ m, m ≠ n → (s.setLive n f).liveFrame m = s.liveFrame m)) ∧
  (∀ p n f, ((s.setPlane p n f).planeFrame p n = f ∧
    ∀ p' m, (p', m) ≠ (p, n) → (s.setPlane p n f).planeFrame p' m = s.planeFrame p' m)) ∧
  (∀ k w, (tget (s.setCelWord k w).cel.words k erased = w ∧
    ∀ j, j ≠ k → tget (s.setCelWord k w).cel.words j erased = tget s.cel.words j erased)) ∧
  (∀ c ∈ s.dram.ch, ∀ r i l, i < 2 ^ 30 → ((c.2.setLine r i l).line r i = l ∧ (c.2.setLine r i l).linesOk ∧
    ∀ r' i', i' < 2 ^ 30 → (r', i') ≠ (r, i) → (c.2.setLine r i l).line r' i' = c.2.line r' i'))

/-- R495, R496: a new event d at the queue x of a host. It coalesces into the first unsent entry of its code and source; else it
joins the queue; at a full queue a CRITICAL or MAJOR event displaces the newest unsent entry of the lowest severity below its
own, and any other is lost. The entry displaced or the event dropped is counted in the loss summary and by LOST_CNT. No other
host's queue changes. -/
def Obligations.EventQueues : Prop := ∀ (s : State) (h : Nat) (d : EvData), s.hostsOk → d.sev < 4 →
  let x := s.host h
  let t := (s.enqueue h d).1
  let e : EvEntry := ⟨s.mgt.nextEv, d, 1, s.now, s.now, none⟩
  let free := fun (v : Nat) (y : EvEntry) => y.sent = none ∧ y.d.sev = v
  let lost := t.ctrs = (s.ctrAdd (MGT.LOST_CNT h) 1).1.ctrs
  (∀ j, j ≠ h → t.host j = s.host j) ∧
  (∀ l y m, x.queue = l ++ y :: m → EvEntry.joins d y = true → (∀ z ∈ l, EvEntry.joins d z = false) →
    t.host h = { x with queue := l ++ { y with count := min (2 ^ 32 - 1) (y.count + 1), last := s.now } :: m } ∧
    t.ctrs = (s.ctrAdd (MGT.COAL_CNT h) 1).1.ctrs) ∧
  ((∀ y ∈ x.queue, EvEntry.joins d y = false) →
    (x.queue.length < 256 → t.host h = { x with queue := x.queue ++ [e] } ∧ t.ctrs = s.ctrs) ∧
    (256 ≤ x.queue.length →
      (d.sev ≤ 1 → ∀ v l y m, d.sev < v → v < 4 → x.queue = l ++ y :: m → free v y → (∀ z ∈ m, ¬ free v z) →
        (∀ z ∈ x.queue, z.sent = none → z.d.sev < 4 → z.d.sev ≤ v) →
        t.host h = { x with queue := l ++ m ++ [e] }.lose v s.now ∧ lost) ∧
      ((2 ≤ d.sev ∨ ∀ z ∈ x.queue, z.sent = none → z.d.sev < 4 → z.d.sev ≤ d.sev) →
        t.host h = x.lose d.sev s.now ∧ lost)))

/-- R131: an exact integer result in an accumulator: itself where it is in range; else OVF is set and it clamps to the nearer
limit with SAT = 1 and keeps the low 64 bits with SAT = 0. -/
def Obligations.AccumulatorResults : Prop := ∀ (v : Int) (sat : Bool),
  let r := accInt v sat
  (-(2 ^ 63) ≤ v → v ≤ 2 ^ 63 - 1 → r.1.toInt = v ∧ r.2 = false) ∧
  (2 ^ 63 - 1 < v → r.2 = true ∧ (sat = true → r.1.toInt = 2 ^ 63 - 1) ∧ (sat = false → r.1 = BitVec.ofInt 64 v)) ∧
  (v < -(2 ^ 63) → r.2 = true ∧ (sat = true → r.1.toInt = -(2 ^ 63)) ∧ (sat = false → r.1 = BitVec.ofInt 64 v))

/-- R143: a step of an address generator: PTR ← (BASE + ((PTR − BASE + STEP) mod LEN)) mod 1024, with PTR − BASE itself taken
modulo 1024 and the inner remainder not negative. The new PTR is a word of the window; where STEP is a multiple of LEN, a PTR of
the window stays. Nothing else of the generator changes. -/
def Obligations.GeneratorsWalk : Prop := ∀ a : AgSt, a.base < 1024 → 1 ≤ a.len → a.len ≤ 1024 → a.ptr < 1024 →
  let inside := fun (p : Nat) => ∃ i, i < a.len ∧ p = (a.base + i) % 1024
  (a.walk.ptr : Int) = ((a.base : Int) + (((a.ptr : Int) - a.base) % 1024 + a.step) % a.len) % 1024 ∧
  inside a.walk.ptr ∧ ((a.len : Int) ∣ a.step → inside a.ptr → a.walk.ptr = a.ptr) ∧
  a.walk.base = a.base ∧ a.walk.len = a.len ∧ a.walk.step = a.step

/-- Requests at their targets and responses at their initiators (R301, R308, R314 to R316, R321, R347, R449). The model's
choices in its clauses: notes/assumptions/10, 12, 16, 17, 18 and 69.md. -/
def Obligations.AccessesRun : Prop := ∀ s : State,
  (∀ (a : Fin 1024) (vc : Fin 4) (x : UserAns) (m : Moving),
    (tget s.noc.target a.val []).find? (fun m => m.inp == vc.val) = some m →
    let l := tget s.noc.target a.val []
    let pop : State := { s with noc := { s.noc with target := tput s.noc.target a.val (removeOne m l) [] } }
    let port := decide (64 ≤ a.val) && decide (a.val < 960) && decide (a.val % 4 ≠ 3)
    let v := s.vatOfSector ((a.val - 64) / 4)
    (1 < m.f.op ∨ s.belongs a.val m.f.addr = false → exec (.targetRequestArrival a vc x) s = .next (pop.bump NOC.HDR_ERR_CNT)) ∧
    (m.f.op ≤ 1 → s.belongs a.val m.f.addr = true → port = true →
      (16 ≤ v ∨ s.clamped v = true → exec (.targetRequestArrival a vc x) s = .next (pop.respond a.val m .targetReset 0)) ∧
      (v < 16 → s.clamped v = false → exec (.targetRequestArrival a vc x) s =
        .next (pop.sendRsp a.val m { respFlit m.f (userStatus x.status.val) x.data with poison := x.poison }))) ∧
    (m.f.op ≤ 1 → s.belongs a.val m.f.addr = true → port = false →
      (regionOf m.f.addr = .dram →
        let n := s.chanOf m.f.addr
        let c := s.chan n
        (s.pwr.entry.isSome = true ∨ 16 ≤ (tget c.inq m.vat []).length → exec (.targetRequestArrival a vc x) s = .next s) ∧
        (s.pwr.entry.isSome = false → (tget c.inq m.vat []).length < 16 → exec (.targetRequestArrival a vc x) s =
          .next (pop.setChan n { c with inq := tput c.inq m.vat (tget c.inq m.vat [] ++ [s.dreq m]) [] }))) ∧
      (regionOf m.f.addr = .regs → exec (.targetRequestArrival a vc x) s =
        let r := pop.regAccess (s.reqOf m) m.f
        .next (r.1.respond a.val m r.2.1 r.2.2)) ∧
      (regionOf m.f.addr ≠ .dram → regionOf m.f.addr ≠ .regs → exec (.targetRequestArrival a vc x) s =
        .next { pop with noc := { pop.noc with serve := tput pop.noc.serve a.val (tget pop.noc.serve a.val [] ++ [m]) [] } }))) ∧
  (∀ (i : Fin 1024) (cycles : Nat) (x : Option CpuLoad) (m : Moving) (t : List Moving), tget s.noc.resp i.val [] = m :: t →
    let pop : State := { s with noc := { s.noc with resp := tput s.noc.resp i.val t [] } }
    (m.f.op ≠ 8 → m.f.op ≠ 9 → exec (.responseArrival i cycles x) s = .next (pop.bump NOC.HDR_ERR_CNT)) ∧
    (m.f.op = 8 ∨ m.f.op = 9 → s.tag i.val m.f.tag = none → exec (.responseArrival i cycles x) s = .next (pop.bump (NOC.LATE_CNT i.val))) ∧
    (∀ y, m.f.op = 8 ∨ m.f.op = 9 → s.tag i.val m.f.tag = some y →
      (y.stamp ≠ m.stamp → exec (.responseArrival i cycles x) s = .next (pop.bump (NOC.LATE_CNT i.val))) ∧
      (y.stamp = m.stamp → y.orphan = true → exec (.responseArrival i cycles x) s =
        .next (((pop.freeTag i.val m.f.tag).bump (VAT.RSP_DISC_CNT (s.vatOfInit i.val))).retryAll i.val)) ∧
      (y.stamp = m.stamp → y.orphan = false → y.quar = true → exec (.responseArrival i cycles x) s =
        .next (((pop.freeTag i.val m.f.tag).bump (NOC.LATE_CNT i.val)).retryAll i.val)) ∧
      (y.stamp = m.stamp → y.orphan = false → y.quar = false → exec (.responseArrival i cycles x) s =
        let st := statusOf m.f.status
        let u := (pop.freeTag i.val m.f.tag).deliver i.val m.f.tag st m.f.payload m.f.poison
        let u := (u.bump (NOC.RT_CNT i.val)).latency i.val cycles
        let u := if y.rd ∧ (st = .okay ∨ st = .poisoned) then u.bump (NOC.RD_BYTES i.val) (m.f.len + 1) else u
        .next ((u.retryAll i.val).loadAnswered i.val st x)))) ∧
  (∀ (i t : Fin 1024) (x : Option CpuLoad) y, s.tag i.val t.val = some y → y.quar = false → y.orphan = false →
    exec (.initiatorTimeout i t x) s =
      let u := ((s.setTag i.val t.val { y with quar := true }).deliver i.val t.val .timeout 0 false).bump (NOC.TMO_CNT i.val)
      .next (u.loadAnswered i.val .timeout x))

/-- The scratchpad and the DMA engine (R463 to R470): a bank cycle of a bank that is not under test serves the request the
arbitration picks; a descriptor is carried out, written back and followed; a stopped channel writes back what it owes. The
model's choices in its clauses: notes/assumptions/17, 61, 64 and 70.md. -/
def Obligations.ScratchAndDmaRun : Prop := ∀ s : State,
  (∀ (b : Fin 32) (us : List (BitVec 72)),
    let id := ID.scratch (b.val / 16)
    let q := tget s.noc.serve id []
    let mine := q.filter fun m => scrBank m.f.addr == b.val
    (s.scr.test.contains b.val = true ∨ s.scrPick b.val mine = none → exec (.scratchpadAccess b us) s = .next s) ∧
    (∀ m, s.scr.test.contains b.val = false → s.scrPick b.val mine = some m → exec (.scratchpadAccess b us) s =
      let q := (removeOne m q).map fun k => if scrBank k.f.addr = b.val then { k with waited := k.waited + 1 } else k
      let c := scrClass m.f.ini
      let starved := if c = 2 ∨ !(mine.any fun k => scrClass k.f.ini == 2) then 0 else tget s.scr.dma b.val 0 + 1
      let u : State := { s with
        noc := { s.noc with serve := tput s.noc.serve id q [] }
        scr := { s.scr with rot := tput s.scr.rot (3 * b.val + c) (m.f.ini + 1) 0, dma := tput s.scr.dma b.val starved 0 } }
      let r := u.scrServe m.f.ini m.f us
      .next (r.2.2.respond id m r.1 r.2.1))) ∧
  (∀ (q : Req) (k : Fin 4) (w : Word), s.canWrite q (0x6100014 + 8 * k.val) →
    (s.bit (SCP.LOCK_CTL.LOCKED k.val) = false → 1 ≤ wget w 11 0 → wget w 11 0 ≤ 2048 → exec (.scratchpadLock q k w) s =
      .next (((s.wr (SCP.LOCK_CTL.PAGES k.val) (wget w 11 0)).wr (SCP.LOCK_CTL.LOCKED k.val) 1).tell .okay [])) ∧
    (s.bit (SCP.LOCK_CTL.LOCKED k.val) = true ∨ wget w 11 0 = 0 ∨ 2048 < wget w 11 0 → exec (.scratchpadLock q k w) s =
      .next (s.tell .slverr []))) ∧
  (∀ (q : Req) (c : Fin 16) (w : Word), s.canWrite q (0x6201000 + 0x100 * c.val) →
    let st := s.rd (DMA.CH_STAT.STATE c.val)
    let mayVat := wget w 3 0 = s.rd (DMA.CH_CTL.VAT c.val) ∨ (adminReq q = true ∧ st = 0)
    let u := s.wr (DMA.CH_CTL.VAT c.val) (wget w 3 0)
    let d := u.rd64 (DMA.CH_DESC_LO.ADDR c.val).off (DMA.CH_DESC_HI.ADDR c.val).off / 32 * 32
    let started := ((u.setDmaCh c.val { desc := d }).wr (DMA.CH_STAT.STATE c.val) 1).wr (DMA.CH_STAT.ERR c.val) 0
    (mayVat → st ≠ 1 → exec (.dmaGo q c w) s =
      .next ((if w.getLsbD 30 then started.dmaAbort c.val else started).tell .okay [])) ∧
    (mayVat → w.getLsbD 31 = false → exec (.dmaStop q c w) s = .next ((u.dmaAbort c.val).tell .okay [])) ∧
    (mayVat → w.getLsbD 31 = true → st ≠ 1 → exec (.dmaStop q c w) s = .next ((started.dmaAbort c.val).tell .okay [])) ∧
    (¬ mayVat → exec (.dmaGo q c w) s = .next (s.tell .slverr []) ∧ exec (.dmaStop q c w) s = .next (s.tell .slverr [])) ∧
    (st = 1 → exec (.dmaGo q c w) s = .next (s.tell .slverr []) ∧
      (w.getLsbD 31 = true → exec (.dmaStop q c w) s = .next (s.tell .slverr [])))) ∧
  (∀ c : Fin 16,
    let v := s.rd (DMA.CH_CTL.VAT c.val)
    let q : Req := ⟨ID.dma, v, false, false⟩
    let x := s.dmaCh c.val
    let u := if s.rd (DMA.CH_STAT.STATE c.val) = 1 ∧ v ≠ 0 ∧ s.clamped v = true then s.dmaAbort c.val else s
    let r := u.memRead q x.desc 32 0
    let off := fun (u : State) => u.setDmaCh c.val { x with owed := false }
    (u.initHeld ID.dma = true → exec (.dmaDescriptorDone c) s = .next u) ∧
    (u.initHeld ID.dma = false → u.rd (DMA.CH_STAT.STATE c.val) = 1 →
      (r.2.1 ≠ .okay → exec (.dmaDescriptorDone c) s = .next ((off r.1).dmaStopped c.val 4)) ∧
      (r.2.1 = .okay → dmaDesc r.2.2 = none → exec (.dmaDescriptorDone c) s = .next ((off r.1).dmaStopped c.val 2)) ∧
      (∀ d, r.2.1 = .okay → dmaDesc r.2.2 = some d →
        let m := r.1.dmaMove c.val q d
        let b := m.1.dmaBack q x.desc d.w5 m.2.2.toNat
        (m.2.1 = false → exec (.dmaDescriptorDone c) s = .next ((m.1.dmaBack q x.desc d.w5 2).1.dmaStopped c.val 4)) ∧
        (m.2.1 = true → b.2 ≠ .okay → exec (.dmaDescriptorDone c) s = .next (b.1.dmaStopped c.val 4)) ∧
        (m.2.1 = true → b.2 = .okay → exec (.dmaDescriptorDone c) s =
          let u := if d.w5.testBit 31 then (b.1.wrb (DMA.CH_STAT.IRQ c.val) true).dmaIrq c.val else b.1
          .next (if d.w5.testBit 30 then u.wr (DMA.CH_STAT.STATE c.val) 0 else u.setDmaCh c.val { desc := d.next / 32 * 32 })))) ∧
    (u.initHeld ID.dma = false → u.rd (DMA.CH_STAT.STATE c.val) ≠ 1 → (u.dmaCh c.val).owed = true →
      (∀ d, r.2.1 = .okay → dmaDesc r.2.2 = some d → exec (.dmaDescriptorDone c) s =
        .next (off (r.1.dmaBack q x.desc d.w5 5).1)) ∧
      (r.2.1 ≠ .okay ∨ dmaDesc r.2.2 = none → exec (.dmaDescriptorDone c) s = .next (off r.1))))

/-- The time clock, the holdover of the bases, compares, pulse units and captures (R416 to R418, R421, R424, R425, R429, R440,
R441). The model's choices in its clauses: notes/assumptions/30, 31 and 32.md. -/
def Obligations.TimingEventsRun : Prop := ∀ s : State,
  (∀ ref : Bool, (s.timeOn = true → exec (.trefQualified ref) s = .next (s.wrb (tclkFlag ref) true)) ∧
    (s.timeOn = false → exec (.trefQualified ref) s = .next s)) ∧
  (∀ ref : Bool,
    let t := s.wrb (tclkFlag ref) false
    let t := if ref then t else t.bump TIME.TREFLOSS_CNT
    (s.bit (tclkFlag ref) = false → exec (.trefLoss ref) s = .next s) ∧
    (s.bit (tclkFlag ref) = true → t.bit TIME.TCLK_CTL.SRC = ref → t.bit TIME.TCLK_STAT.HOLD = false →
      exec (.trefLoss ref) s =
        let u := (t.wrb TIME.TCLK_STAT.LOCK false).wrb TIME.TCLK_STAT.HOLD true
        .next (u.raiseAt (u.devOwner :: u.allOwners) EV.timeRefLoss 0xFF 0 [])) ∧
    (s.bit (tclkFlag ref) = true → t.bit TIME.TCLK_CTL.SRC ≠ ref ∨ t.bit TIME.TCLK_STAT.HOLD = true →
      exec (.trefLoss ref) s = .next t)) ∧
  (s.bit TIME.TCLK_STAT.LOCK = false → s.bit TIME.TCLK_STAT.HOLD = false → s.tclkReady = true → s.timeOn = true →
    exec .tclkLock s = .next ((({ s with time := { s.time with ever := true } } : State).wrb TIME.TCLK_STAT.LOCK true).wr
      TIME.TCLK_STAT.SRC_ACT (s.rd TIME.TCLK_CTL.SRC))) ∧
  (s.bit TIME.TCLK_STAT.HOLD = true → s.tclkReady = true → exec .tclkRelock s =
    let u := (({ s with time := { s.time with ever := true } } : State).wrb TIME.TCLK_STAT.HOLD false).wrb TIME.TCLK_STAT.LOCK true
    .next (u.wr TIME.TCLK_STAT.SRC_ACT (u.rd TIME.TCLK_CTL.SRC))) ∧
  (∀ b : Fin 8,
    (s.rd (TIME.TB_CTL.WDOG b.val) = 0 ∨ (s.tb b.val).started = false ∨ (s.tb b.val).hold = true →
      exec (.baseWatchdogExpiry b) s = .next s) ∧
    (s.rd (TIME.TB_CTL.WDOG b.val) ≠ 0 → (s.tb b.val).started = true → (s.tb b.val).hold = false →
      exec (.baseWatchdogExpiry b) s =
        let t := ((s.setTb b.val { s.tb b.val with hold := true }).tbSync b.val).bump (TIME.HOLD_CNT b.val)
        .next ((t.raiseAt (((s.setTb b.val { s.tb b.val with hold := true }).tbSync b.val).baseHosts b.val) EV.tbHoldover 0xFF b.val
          []).srcPulse (832 + b.val)))) ∧
  (∀ i : Fin 15,
    let due := s.bit (TIME.CMP_CTL.ARM i.val) = true ∧ s.cmpAt i.val ≤ s.tbNow (s.rd (TIME.CMP_CTL.TB i.val))
    let v := s.rd (TIME.CMP_CTL.OWNER i.val)
    let t := (s.wrb (TIME.CMP_CTL.ARM i.val) false).wrb (TIME.CMP_STAT.FIRED i.val) true
    (¬ due → exec (.cmpFire i) s = .next s) ∧
    (due → t.clamped v = true → exec (.cmpFire i) s =
      .next (if t.bit (TIME.CMP_CTL.IRQ i.val) then t.bump (VAT.IRQ_DISC_CNT v) else t)) ∧
    (due → t.clamped v = false → exec (.cmpFire i) s =
      let u : State := { t with time := { t.time with cmpOut := tput t.time.cmpOut i.val (tget t.time.cmpOut i.val 0 + 1) 0 } }
      .next (if t.bit (TIME.CMP_CTL.IRQ i.val) then u.srcPulse (864 + i.val) else u))) ∧
  (∀ k : Fin 16,
    let x := s.tp k.val
    let due := s.bit (TIME.TP_CTL.EN k.val) = true ∧ x.on = false ∧
      s.tpInstant k.val x.next ≤ s.tbFlat (s.rd (TIME.TP_CTL.TB k.val)) + s.rd (TIME.TP_COMP.COMP k.val)
    (¬ due → exec (.pulseAssert k) s = .next s) ∧
    (due → exec (.pulseAssert k) s =
      let u := s.setTp k.val ⟨true, x.next + 1⟩
      .next (if u.bit (TIME.TP_CTL.IRQ k.val) then u.srcPulse (840 + k.val) else u)) ∧
    (x.on = false → exec (.pulseRelease k) s = .next s) ∧
    (x.on = true → exec (.pulseRelease k) s =
      let u := s.setTp k.val { x with on := false }
      .next (if u.bit (TIME.TP_CTL.MODE k.val) then u else (u.wrb (TIME.TP_CTL.EN k.val) false).setTp k.val {}))) ∧
  (∀ (j : Fin 9) (rise : Bool) (phase : Fin 64) (near : Bool),
    let wanted := (s.rd (TIME.CAP_CTL.EDGE j.val)).testBit (if rise then 0 else 1)
    (s.bit (TIME.CAP_CTL.EN j.val) = false ∨ near = true ∨ wanted = false → exec (.captureEdge j rise phase near) s = .next s) ∧
    (s.bit (TIME.CAP_CTL.EN j.val) = true → near = false → wanted = true →
      ((s.cap j.val).length < 4 → exec (.captureEdge j rise phase near) s =
        let x := s.tb (s.rd (TIME.CAP_CTL.TB j.val))
        let t : Int := ((x.v + x.rate * phase.val : Nat) : Int) - (s.rd (TIME.CAP_CTL.COMP j.val) * 2 ^ 32 : Nat)
        .next ((s.setCap j.val (s.cap j.val ++ [⟨rise.toNat, timeKey (t % timeMod).toNat⟩])).capIrq j.val)) ∧
      (4 ≤ (s.cap j.val).length → exec (.captureEdge j rise phase near) s =
        let u := (s.wrb (TIME.CAP_STAT.OVF j.val) true).bump (TIME.OVF_CNT j.val)
        .next (u.raiseVat (u.rd (TIME.CAP_CTL.OWNER j.val)) EV.capOvf j.val []))))

/-- Writes of the timing island's registers (R418, R420 to R422, R425, R440): the source of TCLK, the rate of a base, the
commands of a base with the tick that carries them out, compares and pulse units. The model's choices in its clauses:
notes/assumptions/30 and 31.md. -/
def Obligations.TimingWritesRun : Prop := ∀ (s : State) (q : Req) (w : Word),
  (s.canWrite q 0x5000000 →
    let other := wget w 0 0 ≠ s.rd TIME.TCLK_CTL.SRC ∧ s.bit (tclkFlag (wget w 0 0 == 1)) = false
    let fixed := wget w 1 1 ≠ s.rd TIME.TCLK_CTL.TREF_25 ∧ s.rd TIME.TCLK_CTL.SRC = 0 ∧ s.bit TIME.TCLK_STAT.LOCK = true
    (other ∨ fixed → exec (.tclkSourceSelect q w) s = .next (s.tell .slverr [])) ∧
    (¬ other → ¬ fixed → exec (.tclkSourceSelect q w) s =
      let u := (s.wr TIME.TCLK_CTL.SRC (wget w 0 0)).wr TIME.TCLK_CTL.TREF_25 (wget w 1 1)
      .next ((if s.bit TIME.TCLK_STAT.LOCK then u.wr TIME.TCLK_STAT.SRC_ACT (wget w 0 0) else u).tell .okay []))) ∧
  (∀ b : Fin 8, s.canWrite q (0x500100C + 0x100 * b.val) →
    let r := w.toNat * 2 ^ 32 + s.rd (TIME.RATE_LO.RATE b.val)
    (rateWordOk r = false → exec (.rateUpdate q b w) s = .next (s.tell .slverr [])) ∧
    (rateWordOk r = true → exec (.rateUpdate q b w) s =
      let u := s.wr (TIME.RATE_HI.RATE b.val) w.toNat
      .next (((u.setTb b.val { u.tb b.val with rate := r, hold := false }).tbSync b.val).tell .okay []))) ∧
  (∀ b : Fin 8, s.canWrite q (0x5001000 + 0x100 * b.val) →
    let x := s.tb b.val
    let wait := fun c : Nat => (((s.wr (TIME.TB_CTL.SERVO_LOCK b.val) (wget w 31 31)).wr (TIME.TB_CTL.WDOG b.val)
      (wget w 25 16)).setTb b.val { x with cmd := c }).tbSync b.val
    (x.cmd ≠ 0 ∨ 1000 < wget w 25 16 → exec (.tbSet q b w) s = .next (s.tell .slverr []) ∧
      exec (.tbStep q b w) s = .next (s.tell .slverr []) ∧ exec (.tbSnap q b w) s = .next (s.tell .slverr [])) ∧
    (s.time.ever = false ∨ 999999999 < s.rd (TIME.ARG_NS.NS b.val) → exec (.tbSet q b w) s = .next (s.tell .slverr [])) ∧
    (x.started = false → exec (.tbStep q b w) s = .next (s.tell .slverr [])) ∧
    (x.cmd = 0 → wget w 25 16 ≤ 1000 →
      (s.time.ever = true → s.rd (TIME.ARG_NS.NS b.val) ≤ 999999999 → exec (.tbSet q b w) s =
        .next (((wait 1).tell .okay []).tbCommand b.val)) ∧
      (x.started = true → exec (.tbStep q b w) s = .next (((wait 2).tell .okay []).tbCommand b.val)) ∧
      (exec (.tbSnap q b w) s = .next (((wait 3).tell .okay []).tbCommand b.val)))) ∧
  (∀ i : Fin 15, s.canWrite q (0x5004000 + 0x40 * i.val) →
    let mask := wmask 31 31 ||| wmask 28 24 ||| wmask 18 16
    let mine := timeAdmin q = true ∨ wget w 27 24 = s.rd (TIME.CMP_CTL.OWNER i.val)
    ((s.tb (wget w 18 16)).started = false ∨ ¬ mine → exec (.cmpArm q i w) s = .next (s.tell .slverr [])) ∧
    (¬ mine → exec (.cmpDisarm q i w) s = .next (s.tell .slverr [])) ∧
    ((s.tb (wget w 18 16)).started = true → mine → exec (.cmpArm q i w) s =
      .next ((s.setReg (0x5004000 + 0x40 * i.val) ((w ||| 0x80000000#32) &&& mask)).tell .okay [])) ∧
    (mine → exec (.cmpDisarm q i w) s =
      .next ((s.setReg (0x5004000 + 0x40 * i.val) ((w &&& 0x7FFFFFFF#32) &&& mask)).tell .okay []))) ∧
  (∀ k : Fin 16, s.canWrite q (0x5002000 + 0x40 * k.val) →
    let v := (w ||| 0x80000000#32) &&& (wmask 31 24 ||| wmask 18 16)
    let off := 0x5002000 + 0x40 * k.val
    let mine := timeAdmin q = true ∨ wget v 27 24 = wget (s.reg off) 27 24
    let unfit := (s.tb (wget v 18 16)).started = false ∨ s.rd (TIME.WIDTH_NS.NS k.val) < 2 ∨
      (wget v 30 30 = 1 ∧ s.rd (TIME.PERIOD_NS.NS k.val) ≤ s.rd (TIME.WIDTH_NS.NS k.val))
    (s.bit (TIME.TP_CTL.EN k.val) = false → mine → ¬ unfit → exec (.pulseEnable q k w) s =
      let u := s.setReg off v
      .next ((u.setTp k.val ⟨false, u.tpRejoin k.val (u.tbFlat (wget v 18 16))⟩).tell .okay [])) ∧
    (s.bit (TIME.TP_CTL.EN k.val) = false → ¬ mine ∨ unfit → exec (.pulseEnable q k w) s = .next (s.tell .slverr [])) ∧
    (s.bit (TIME.TP_CTL.EN k.val) = true → wset v 31 31 0 ≠ wset (s.reg off) 31 31 0 →
      exec (.pulseEnable q k w) s = .next (s.tell .slverr [])) ∧
    (s.bit (TIME.TP_CTL.EN k.val) = true → wset v 31 31 0 = wset (s.reg off) 31 31 0 → mine →
      exec (.pulseEnable q k w) s = .next ((s.setReg off v).tell .okay [])))

/-- The reads that take something (R6, R434, R441, R456, R460, R472), and the same reads by the Yapin monitor, which go
through the inspection aliases and take nothing (R6). While the registers cannot be reached an access does nothing, which is
the model's choice (notes/assumptions/38.md). The model's choices in its clauses: notes/assumptions/32.md. -/
def Obligations.PopReadsRun : Prop := ∀ (s : State) (q : Req),
  let said := fun (r : Word × State) => r.2.tell .okay (leBytes 4 r.1.toNat)
  (s.islandUp = false → ∀ (off : BitVec 32) (n : Nat) (w : Word), exec (.registerWrite q off n w) s = .next s) ∧
  (∀ j : Fin 9, s.canRead q (0x5003008 + 0x40 * j.val) → exec (.capturePop q j) s = .next (said (s.capPop j.val true))) ∧
  (∀ m : Fin 96, s.canRead q (0x5100014 + 0x100 * m.val) → exec (.tsqPop q m) s = .next (said (s.tsqPop m.val true))) ∧
  (∀ c : Fin 6, s.canRead q (0x6002004 + 0x40 * c.val) → exec (.claim q c) s = .next (said (s.claimRead c.val))) ∧
  (∀ v : Fin 16, s.canRead q (0x6080000 + 0x1000 * v.val) → exec (.vclaim q v) s = .next (said (s.vclaimRead v.val))) ∧
  (∀ k : Fin 20, s.canRead q (0x640000C + 0x1000 * k.val) →
    let t := s.openGroup (0x640000C + 0x1000 * k.val)
    exec (.rxdPop (some q) k) s = .next (said (if t.bit (SVC.OWN.MODE k.val) then (0, t) else t.rxPop k.val))) ∧
  (s.islandUp = true → q.insp = true →
    let looks := fun (c : Instr) (off : Nat) => s.busCheck q off 4 false = .okay → (regAt off).isSome = true → ctrAt off = false →
      exec c s = .next (said ((s.openGroup off).readReg q off))
    (∀ j : Fin 9, looks (.capturePop q j) (0x5003014 + 0x40 * j.val)) ∧
    (∀ m : Fin 96, looks (.tsqPop q m) (0x5100024 + 0x100 * m.val)) ∧
    (∀ c : Fin 6, looks (.claim q c) (0x600200C + 0x40 * c.val)) ∧
    (∀ v : Fin 16, looks (.vclaim q v) (0x608000C + 0x1000 * v.val)) ∧
    (∀ k : Fin 20, looks (.rxdPop (some q) k) (0x6400010 + 0x1000 * k.val)))

/-- The events of the clock root (R78 to R80, R97 to R101), in the states in which they take place. -/
def Sys2Proof.Machine.ClockRootEventsRun : Prop := ∀ s : State,
  (∀ b : Bool, (s.powered = false ∨ s.pwr.held = true → exec (.refQualified b) s = .next s) ∧
    (s.powered = true → s.pwr.held = false →
      exec (.refQualified b) s = .next ((s.wrb (refFlag b.toNat) true).romSelect) ∧
      (s.clk.waited = false → exec (.refQualified b) s = .next (s.wrb (refFlag b.toNat) true)))) ∧
  (∀ b : Bool, s.regsOk → s.bit (refFlag b.toNat) = true → s.bit CLK.ROOT_STAT.LOCK = true ∨ s.clk.relocking = true →
    s.rd CLK.ROOT_CTRL.SRC = b.toNat → exec (.refLoss b) s = .next ((s.wrb (refFlag b.toNat) false).bump CLK.REFLOSS_CNT).coastEntry) ∧
  (∀ b : Bool, s.bit (refFlag b.toNat) = true → s.rd CLK.ROOT_CTRL.SRC ≠ b.toNat →
    exec (.refLoss b) s =
      .next (((s.wrb (refFlag b.toNat) false).bump CLK.REFLOSS_CNT).norefCheck.clkPulse.raiseDev EV.refStandbyLoss b.toNat)) ∧
  (s.bit CLK.ROOT_STAT.COAST = true → s.clk.fell = true → s.clk.relocking = false →
    exec .coastSlewDone s = .next (s.wrb CLK.ROOT_STAT.SLEWING false)) ∧
  (s.bit CLK.ROOT_STAT.COAST = true → s.clk.told = false →
    exec .rootCoastTimer s =
      .next (({ s with clk := { s.clk with told := true } } : State).raiseAt s.openHosts EV.rootCoast 0xFF 0)) ∧
  (s.mode = M.boot → s.bit CLK.ROOT_STAT.LOCK = false → s.bit CLK.ROOT_STAT.COAST = false →
    s.bit CLK.ROOT_STAT.REF_OK = false → s.clk.waited = false → s.bit CLK.ROOT_STAT.REFB_OK = true →
    exec .refWaitTimeout s =
      .next { s.wr CLK.ROOT_CTRL.SRC 1 with clk := { s.clk with waited := true } }) ∧
  (s.mode = M.boot → s.bit CLK.ROOT_STAT.LOCK = false → s.bit CLK.ROOT_STAT.COAST = false →
    s.bit CLK.ROOT_STAT.REF_OK = false → s.clk.waited = false → s.bit CLK.ROOT_STAT.REFB_OK = false →
    exec .refWaitTimeout s =
      .next (({ s.wr CLK.ROOT_CTRL.SRC 1 with clk := { s.clk with waited := true, noref := true } } : State).raiseAt []
        EV.rootNoref 0xFF 0 [])) ∧
  (s.powered = true → s.bit CLK.ROOT_STAT.LOCK = false → s.bit CLK.ROOT_STAT.COAST = false → s.srcReady = true →
    exec .rootLoopLock s =
      .next ((({ s with clk := { s.clk with noref := false, waited := false } } : State).wrb CLK.ROOT_STAT.LOCK true).wr
        CLK.ROOT_STAT.SRC_ACT (s.rd CLK.ROOT_CTRL.SRC))) ∧
  (s.clk.switching = true →
    exec .rootSwitchDone s =
      .next ((({ s with clk := { s.clk with switching := false } } : State).wrb CLK.ROOT_STAT.SLEWING false).wr
        CLK.ROOT_STAT.SRC_ACT (s.rd CLK.ROOT_CTRL.SRC))) ∧
  (s.bit CLK.ROOT_STAT.COAST = true → s.bit CLK.ROOT_CTRL.AUTO_RELOCK = true → s.srcReady = true → s.clk.relocking = false →
    exec .autoRelockTimer s = .next (({ s with clk := { s.clk with relocking := true } } : State).wrb CLK.ROOT_STAT.SLEWING true)) ∧
  (s.clk.relocking = true → s.srcReady = true →
    exec .relockComplete s =
      .next (((((({ s with clk := { s.clk with relocking := false, fell := false } } : State).wrb CLK.ROOT_STAT.LOCK true).wrb
        CLK.ROOT_STAT.COAST false).wrb CLK.ROOT_STAT.SLEWING false).wr CLK.ROOT_STAT.SRC_ACT
        (s.rd CLK.ROOT_CTRL.SRC)).dramRelock.raiseDev EV.rootRelock).clkPulse) ∧
  exec .xo32Loss s = .next (s.wrb CLK.ROOT_STAT.XO32_OK false) ∧
  exec .xo32Return s = .next (s.wrb CLK.ROOT_STAT.XO32_OK true)

/-- Aligned domains, foreign lines, oscillators and gates (R83, R91 to R96), in the states in which they act. -/
def Sys2Proof.Machine.ClockLinesRun : Prop := ∀ s : State,
  exec .dividerTakesEffect s =
    .next ((List.range 16).foldl (fun u d => u.wr (CLK.DIV.DIV_ACT d) (u.rd (CLK.DIV.DIV d))) s) ∧
  (∀ (q : Fin 4) (l : Fin 8), s.bit (CLK.FCL.SWITCHING q.val l.val) = true →
    exec (.foreignLineSwitchDone q l) s =
      .next (((s.wrb (CLK.FCL.SWITCHING q.val l.val) false).wr (CLK.FCL.SRC_ACT q.val l.val)
        (s.rd (CLK.FCL.SRC q.val l.val))).wrb (CLK.FCL.READY q.val l.val) true)) ∧
  (∀ (q : Fin 4) (l : Fin 8) (vats : BitVec 16), s.rd (CLK.FCL.SRC_ACT q.val l.val) ≠ 0 →
    s.rd (CLK.FCL.SRC_ACT q.val l.val) ≤ 6 →
    exec (.foreignSourceLoss q l vats) s =
      .next ((s.wrb (CLK.FCL.READY q.val l.val) false).raiseAt
        (((List.range 16).filter fun v => vats.getLsbD v).map fun v => s.ownerOf v) EV.fclLoss 0xFF (8 * q.val + l.val)
        [s.rd (CLK.FCL.SRC_ACT q.val l.val)])) ∧
  (∀ n : Fin 4, s.bit (CLK.OSC.EN n.val) = true → exec (.oscSettled n) s = .next (s.wrb (CLK.OSC.READY n.val) true)) ∧
  (∀ sec : Fin 224,
    let v := s.gateMap sec.val
    let loading := (tget s.cfg.loads v none).isSome || (tget s.cfg.loads 0 none).isSome
    let powers := decide (tget s.cfg.gating v 0 = 2) || (decide (tget s.cfg.gating v 0 ≠ 1) && !s.bit (VAT.VAT_STAT.GATED v))
    (v < 16 → powers = true → s.bit (VAT.VAT_STAT.FAILED v) = false ∨ loading = true →
      exec (.sectorGateOpen sec) s = .next (s.wrm (CLK.SEC_ON.ON (sec.val / 32)) (sec.val % 32) true)) ∧
    (16 ≤ v ∨ powers = false ∨ (s.bit (VAT.VAT_STAT.FAILED v) = true ∧ loading = false) →
      exec (.sectorGateOpen sec) s = .next s)) ∧
  (∀ g : Fin 11, s.groupWork g.val = false →
    exec (.blockClockIdleClose g) s = .next { s with clk := { s.clk with open_ := tput s.clk.open_ g.val false false } })

/-- The events of the clock root, of the aligned domains, the foreign lines, the oscillators and the gates (R78 to R101), in
the states in which they take place. The model's choices in its clauses: notes/assumptions/2 and 28.md. -/
def Obligations.ClockEventsRun : Prop := Sys2Proof.Machine.ClockRootEventsRun ∧ Sys2Proof.Machine.ClockLinesRun

/-- The writes of the clock's registers (R80, R83, R92, R93, R99): what each that is accepted changes, and, of every one, that
it does and answers what the register's rule says. The model's choices in its clauses: notes/assumptions/28 and 39.md. -/
def Obligations.ClockWritesRun : Prop := ∀ (s : State) (q : Req) (w : Word),
  (s.canWrite q 0 → wget w 6 6 = 0 → wget w 0 0 ≠ s.rd CLK.ROOT_CTRL.SRC → s.bit (refFlag (wget w 0 0)) = true →
    s.bit CLK.ROOT_STAT.LOCK = false →
    exec (.rootSourceSwitch q w) s =
      .next (((s.wr CLK.ROOT_CTRL.AUTO_RELOCK (wget w 7 7)).wr CLK.ROOT_CTRL.SRC (wget w 0 0)).tell .okay [])) ∧
  (s.canWrite q 0 → wget w 0 0 ≠ s.rd CLK.ROOT_CTRL.SRC → s.bit (refFlag (wget w 0 0)) = false →
    exec (.rootSourceSwitch q w) s = .next ((s.swErr 0 1).tell .slverr [])) ∧
  (s.canWrite q 0 → wget w 0 0 = s.rd CLK.ROOT_CTRL.SRC → s.srcReady = true → s.bit CLK.ROOT_STAT.COAST = true →
    exec (.relock q w) s =
      let u := (s.wr CLK.ROOT_CTRL.AUTO_RELOCK (wget w 7 7)).wr CLK.ROOT_CTRL.SRC (wget w 0 0)
      .next ((({ u with clk := { u.clk with relocking := true } } : State).wrb CLK.ROOT_STAT.SLEWING true).tell .okay [])) ∧
  (∀ d : Fin 16, s.canWrite q (0x100 + 4 * d.val) → d.val ≠ 4 → d.val ≠ 5 → divAllowed d.val (wget w 7 0) = true →
    exec (.dividerWrite q d w) s = .next ((s.wr (CLK.DIV.DIV d.val) (wget w 7 0)).tell .okay [])) ∧
  (∀ d : Fin 16, s.canWrite q (0x100 + 4 * d.val) → d.val ≠ 5 → divAllowed d.val (wget w 7 0) = false →
    exec (.dividerWrite q d w) s = .next ((s.swErr (d.val + 1) 2).tell .slverr [])) ∧
  (∀ (k : Fin 4) (l : Fin 8), s.canWrite q (0x200 + 0x20 * k.val + 4 * l.val) → fclCode (wget w 7 0) = true →
    wget w 7 0 ≠ s.rd (CLK.FCL.SRC k.val l.val) → (wget w 7 0 = 0 ∨ 6 < wget w 7 0) →
    s.fclReady k.val (wget w 7 0) false = true →
    exec (.foreignLineSourceWrite q k l w) s =
      .next (((s.wr (CLK.FCL.SRC k.val l.val) (wget w 7 0)).wrb (CLK.FCL.SWITCHING k.val l.val) true).tell .okay [])) ∧
  (∀ n : Fin 4, s.canWrite q (0x300 + 4 * n.val) → 1 ≤ wget w 7 0 → wget w 7 0 ≤ 16 →
    wget w 7 0 ≠ s.rd (CLK.OSC.FREQ n.val) →
    exec (.oscConfigWrite q n w) s =
      .next ((((s.wr (CLK.OSC.EN n.val) (wget w 8 8)).wr (CLK.OSC.FREQ n.val) (wget w 7 0)).wrb
        (CLK.OSC.READY n.val) false).tell .okay [])) ∧
  (s.canWrite q 0 → exec (.rootSourceSwitch q w) s = .next (State.answered (s.rootCtrlWrite w)) ∧
    exec (.relock q w) s = .next (State.answered (s.rootCtrlWrite (w ||| 0x40#32)))) ∧
  (∀ d : Fin 16, s.canWrite q (0x100 + 4 * d.val) →
    exec (.dividerWrite q d w) s = .next (State.answered (s.divWrite d.val w))) ∧
  (∀ (k : Fin 4) (l : Fin 8), s.canWrite q (0x200 + 0x20 * k.val + 4 * l.val) →
    exec (.foreignLineSourceWrite q k l w) s = .next (State.answered (s.fclWrite k.val l.val w))) ∧
  (∀ n : Fin 4, s.canWrite q (0x300 + 4 * n.val) →
    exec (.oscConfigWrite q n w) s = .next (State.answered (s.oscWrite n.val w)))

/-- Power-on reset, device resets, power commands and wake (R533 to R543), in the states in which they act. The planes and
role records are non-volatile: every reset and power state leaves them. The model's choices in its clauses:
notes/assumptions/1, 65 and 66.md. -/
def Obligations.PowerRuns : Prop := ∀ s : State,
  (∀ k : Fin 7, ∃ t, exec (.supplyLeavesTolerance k) s = .next t ∧ t.pwr.held = true ∧
    t.pwr.lost = ((if s.pwr.held then s.pwr.lost else 0) ||| 2 ^ k.val) ∧
    t.cfg.planeA = s.cfg.planeA ∧ t.cfg.planeB = s.cfg.planeB ∧ t.cfg.roles = s.cfg.roles ∧ t.pending = s.pending) ∧
  (s.pwr.held = true →
    exec .powerOnResetRelease s =
      let u := (s.wrb CLK.ROOT_STAT.XO32_OK true).wrb CLK.ROOT_STAT.IOSC_OK true
      let u := ((u.setReg PWR.RST_CAUSE.CAUSE.off 0).wr PWR.RST_CAUSE.CAUSE (if s.pwr.lost.testBit 6 then 1 else 2)).wr
        PWR.RST_CAUSE.SUPPLY s.pwr.lost
      .next { u with pwr := { u.pwr with held := false, lost := 0 } }) ∧
  (∀ ns : Nat, ns < 100 → exec (.resetNEdge ns) s = .next s) ∧
  (∀ ns : Nat, 1000 ≤ ns → s.pwr.held = false → s.pwr.rst ≠ some 2 →
    (∀ r, s.pwr.rst = some r → 2 < r) →
    ∃ t, exec (.resetNEdge ns) s = .next t ∧ t.pwr.rst = some 2 ∧
      t.cfg.planeA = s.cfg.planeA ∧ t.cfg.planeB = s.cfg.planeB ∧ t.cfg.roles = s.cfg.roles ∧ t.pending = s.pending) ∧
  (s.pwr.rst.isSome = true →
    exec .resetRelease s =
      .next ((({ s with pwr := { s.pwr with rst := none } } : State).wrb CLK.ROOT_STAT.IOSC_OK true).enterMode M.boot)) ∧
  (∀ q : Req, s.canWrite q 0x1000C → ∃ t, exec (.coldResetRequest q) s = .next t ∧ t.pwr.rst = some 2 ∧
    t.answer = some ⟨.okay, []⟩ ∧ t.cfg.planeA = s.cfg.planeA ∧ t.cfg.planeB = s.cfg.planeB ∧ t.cfg.roles = s.cfg.roles) ∧
  (∀ q : Req, s.canWrite q 0x1000C → ∃ t, exec (.warmResetRequest q) s = .next t ∧ t.pwr.rst = some 3 ∧
    t.answer = some ⟨.okay, []⟩ ∧ t.cfg.planeA = s.cfg.planeA ∧ t.cfg.planeB = s.cfg.planeB ∧ t.cfg.roles = s.cfg.roles) ∧
  (∀ (q : Req) (w : Word), s.mode ≠ M.keep → s.canWrite q 0x10004 → s.powerRefused (wget w 1 0) = false →
    exec (.powerCommand q w) s =
      .next (((s.wr PWR.CMD.TARGET (wget w 1 0)).powerActs (wget w 1 0) (s.rd PWR.WAKE_S.S)).tell .okay [])) ∧
  (∀ (q : Req) (w : Word), s.mode ≠ M.keep → s.canWrite q 0x10004 → s.powerRefused (wget w 1 0) = true →
    exec (.powerCommand q w) s = .next (s.tell .slverr [])) ∧
  (∀ (q : Req) (w : Word), s.mode = M.keep → wget w 1 0 = 3 → s.powerRefused 3 = false →
    exec (.powerCommand q w) s = .next (s.powerActs 3 0)) ∧
  (∀ target wake : Nat, s.pwr.entry = some (target, wake) → s.cellarIdle (target == 3) = true →
    ∃ t, exec .powerEntryProceed s = .next t ∧ t.pwr.entry = none ∧ t.pwr.timer = (if wake = 0 then none else some wake) ∧
      t.cfg.planeA = s.cfg.planeA ∧ t.cfg.planeB = s.cfg.planeB ∧ t.cfg.roles = s.cfg.roles) ∧
  (∀ i : Fin 128, s.asleep = true → s.bit (IRQ.SRC_CFG.WAKE (832 + i.val)) = true →
    wakes (s.mode == M.off) (832 + i.val) = true →
    exec (.wakeEdge i) s =
      let u := s.setLatch (832 + i.val) true
      .next { u with pwr := { u.pwr with waking := some (some (832 + i.val)) } }) ∧
  (s.pwr.timer.isSome = true → s.asleep = true → s.bit (IRQ.SRC_CFG.WAKE 886) = false →
    exec .wakeTimerExpiry s = .next { s with pwr := { s.pwr with timer := none, waking := some none } }) ∧
  (∀ src : Option Nat, s.pwr.waking = some src →
    exec .wakePowerGood s =
      let u := s.wrb CLK.ROOT_STAT.IOSC_OK true
      let u := (u.setReg PWR.RST_CAUSE.CAUSE.off 0).wr PWR.RST_CAUSE.CAUSE (if s.mode = M.off then 9 else 8)
      let u := (u.wrb PWR.WAKE_CAUSE.TIMER src.isNone).wr PWR.WAKE_CAUSE.SRC (src.getD 0)
      .next ((({ u with pwr := { u.pwr with waking := none, timer := none } } : State).enterMode M.boot).dramRelock)) ∧
  (∀ target wake : Nat, s.mgt.lateAct = some (.power target wake) → s.powerRefused target = false →
    exec .resetOrPowerAct s = .next (({ s with mgt := { s.mgt with lateAct := none } } : State).powerActs target wake)) ∧
  (∀ typ host : Nat, s.mgt.lateAct = some (.reset typ host) →
    exec .resetOrPowerAct s =
      .next ((({ s with mgt := { s.mgt with lateAct := none } } : State).closeAll).resetRequest (if typ = 1 then 2 else 3)
        (if typ = 1 then 4 else 5) host))

/-- R147, R151: slice g executes the instruction at its PC in this cycle, whose opcode is `op`. -/
def Sys2Proof.Machine.State.issues (s : State) (g op : Nat) : Prop :=
  s.sliceHeld g = false ∧ ((s.slice g).st = 1 ∨ (s.slice g).st = 2) ∧ iOp (s.isWord g (s.slice g).pc) = op ∧
    illegalAt (s.slice g) (s.coefWr g) (s.isWord g (s.slice g).pc) = false

/-- R154: a slice as its cycle begins: FO falls unless it is held. -/
def Sys2Proof.Machine.State.began (s : State) (g : Nat) : SliceSt :=
  { s.slice g with fo := if (s.slice g).foHold then (s.slice g).fo else 0 }

/-- R137, R138, R146, R148: an instruction ends: the generators in `sm` step, the slots left free are `free`, port P's answer of
the cycle before ends, and PC moves on; an inspection access that waits is carried out where the slice stops. -/
def Sys2Proof.Machine.State.issued (s : State) (g : Nat) (x : SliceSt) (sm : Nat) (free : List Nat)
    (lastW : Option (Nat × Option OpmW)) (jump : Option Nat) (done : Bool) : State :=
  (s.setSlice g ({ x.steps sm with free := free, lastW := lastW, pGnt := false, pColl := (x.steps sm).collNow,
                                   collNow := false }.after jump done)).settle g

/-- The arithmetic instructions of a slice (R130 to R134, R142, R144, R149, R153, R154, R157): what each leaves where it does
not stall, and where it stalls. u is the state with the cycle before closed, w the instruction. The model's choices in its
clauses: notes/assumptions/2 and 22.md. -/
def Obligations.SliceArithmeticRuns : Prop := ∀ (s : State) (g : Fin 10752),
  let u := s.closeCycle g
  let x := u.began g
  let w := s.isWord g (s.slice g).pc
  (∀ (ua : BitVec 37) (uc : BitVec 28), s.issues g 0x01 →
    exec (.sliceTap g ua uc) s =
      let o := u.opmRead g (x.agen 0).ptr ua
      let c := o.2.2.coefRead g ((x.agen 1).ptr % 64) uc
      let m := c.2.2.macAcc g x w (some o.1) (some (c.1.setWidth 36)) (o.2.1 || c.2.1)
      .next ((m.2.opmWrite g (x.agen 0).back o.1 o.2.1).issued g ((x.setAcc (iA w) m.1).cso w m.1) (iSm w ||| 3) []
        (some ((x.agen 0).back, m.2.opmW g (x.agen 0).back)) none false)) ∧
  (∀ (ua ub : BitVec 37) (uc : BitVec 28), s.issues g 0x02 → ((iAx w = true ∨ iBsrc w = 2) → x.x ≠ []) →
    exec (.sliceMac g ua ub uc) s =
      let h := x.x.headD (0, false)
      let o := if iAx w then (h.1, h.2, u) else u.opmRead g (x.agen (iSa w)).ptr ua
      let r : Option (BitVec 36) × Bool × State :=
        if iBsrc w = 0 then (some (o.2.2.opmRead g (x.agen (iSb w)).ptr ub).1, (o.2.2.opmRead g (x.agen (iSb w)).ptr ub).2)
        else if iBsrc w = 1 then
          (some ((o.2.2.coefRead g ((x.agen (iSb w)).ptr % 64) uc).1.setWidth 36), (o.2.2.coefRead g ((x.agen (iSb w)).ptr % 64) uc).2)
        else if iBsrc w = 2 then (some h.1, h.2, o.2.2) else (none, false, o.2.2)
      let m := r.2.2.macAcc g x w (some o.1) r.1 (o.2.1 || r.2.1)
      let y := if iAx w = true ∨ iBsrc w = 2 then { x with x := x.x.tail } else x
      .next (m.2.issued g ((y.setAcc (iA w) m.1).cso w m.1) (iSm w)
        ([0, 1].drop ((if iAx w then 0 else 1) + if iBsrc w = 0 then 1 else 0)) none none false)) ∧
  (∀ (ua ub : BitVec 37) (uc : BitVec 28), s.issues g 0x02 → (iAx w = true ∨ iBsrc w = 2) → x.x = [] →
    exec (.sliceMac g ua ub uc) s = .next (u.stallCycle g 1)) ∧
  (∀ (v : BitVec 36) (p : Bool) (xs : List (BitVec 36 × Bool)), s.issues g 0x08 → x.x = (v, p) :: xs →
    exec (.sliceIn g) s =
      .next ((u.opmWrite g (x.agen (iSa w)).ptr v p).issued g { x with x := xs } (iSm w) [0]
        (some ((x.agen (iSa w)).ptr, u.opmW g (x.agen (iSa w)).ptr)) none false)) ∧
  (s.issues g 0x08 → x.x = [] → exec (.sliceIn g) s = .next (u.stallCycle g 1)) ∧
  (s.issues g 0x09 → (w.getLsbD 2 = false → x.y.length < 2) →
    exec (.sliceOut g) s =
      let a := x.acc (iA w)
      let r := outConv a.v w
      let v := if r.2 then u.wrb (SLC.FLAGS.OSATF g) true else u
      let y := if w.getLsbD 2 then x else { x with y := x.y ++ [(r.1, a.poison)] }
      let z := if w.getLsbD 4 then (y.setAcc (iA w) {}, v.wrb (ovfFld g (iA w)) false) else (y, v)
      let d := (z.1.agen (iSa w)).ptr
      .next (if w.getLsbD 3 then (z.2.opmWrite g d (r.1.setWidth 36) a.poison).issued g z.1 (iSm w) [0] (some (d, z.2.opmW g d))
          none false
        else z.2.issued g z.1 (iSm w) [0, 1] none none false)) ∧
  (s.issues g 0x09 → w.getLsbD 2 = false → 2 ≤ x.y.length → exec (.sliceOut g) s = .next (u.stallCycle g 2)) ∧
  (∀ ua : BitVec 37, (s.issues g 0x0A → (iAx w = true → x.x ≠ []) →
    exec (.sliceLda g ua) s =
      let o := if iAx w then ((x.x.headD (0, false)).1, (x.x.headD (0, false)).2, u) else u.opmRead g (x.agen (iSa w)).ptr ua
      let y := if iAx w then { x with x := x.x.tail } else x
      let e : BitVec 64 := if w.getLsbD 12 then o.1.setWidth 64 else o.1.signExtend 64
      .next (o.2.2.issued g (y.setAcc (iA w) ⟨e <<< wget w 21 16, o.2.1, false⟩) (iSm w) (if iAx w then [0, 1] else [1]) none
        none false)) ∧
    (s.issues g 0x0A → iAx w = true → x.x = [] → exec (.sliceLda g ua) s = .next (u.stallCycle g 1))) ∧
  (∀ ua : BitVec 37, (s.issues g 0x0B → (iAx w = true → x.x ≠ []) →
    exec (.sliceLdc g ua) s =
      let o := if iAx w then ((x.x.headD (0, false)).1, (x.x.headD (0, false)).2, u) else u.opmRead g (x.agen (iSa w)).ptr ua
      let y := if iAx w then { x with x := x.x.tail } else x
      let n := (x.agen (iSb w)).ptr % 64
      let c := o.2.2.setCoef g n (o.1.setWidth 27)
      .next (({ c with slc := { c.slc with coefPar := tput c.slc.coefPar (64 * g.val + n) none none } } : State).issued
        g y (iSm w) (if iAx w then [0, 1] else [1]) none none false)) ∧
    (s.issues g 0x0B → iAx w = true → x.x = [] → exec (.sliceLdc g ua) s = .next (u.stallCycle g 1))) ∧
  (s.issues g 0x0C →
    exec (.sliceCas g) s =
      let old := x.acc (iA w)
      let c := u.cinOf g
      let f := u.fpResult g (fpAdd (fp32 old.v) (fp32 c.1))
      let i := accInt (old.v.toInt + c.1.toInt) false
      let r : SAcc × State :=
        if w.getLsbD 21 then
          if old.fp then (⟨f.1, old.poison || c.2, true⟩, f.2)
          else (⟨i.1, old.poison || c.2, false⟩, if i.2 then u.wrb (ovfFld g (iA w)) true else u)
        else (old, u)
      let y := x.setAcc (iA w) r.1
      .next (r.2.issued g (if w.getLsbD 20 then { y with cout := r.1.v, coutP := r.1.poison } else y) (iSm w) [0, 1] none none
        false))

/-- The control instructions of a slice (R145 to R150, R152, R154), a halt of every held slice's instructions (R158), and an
illegal instruction (R151). The model's choices in its clauses: notes/assumptions/22.md. -/
def Obligations.SliceControlRuns : Prop := ∀ (s : State) (g : Fin 10752),
  let u := s.closeCycle g
  let x := u.began g
  let w := s.isWord g (s.slice g).pc
  (s.issues g 0x00 → exec (.sliceNop g) s = .next (u.issued g x (iSm w) [0, 1] none none false)) ∧
  (s.issues g 0x10 → exec (.sliceLoop g) s =
    .next (u.issued g { x with loops := ⟨x.pc + 1, wget w 21 16, wget w 15 0⟩ :: x.loops } (iSm w) [0, 1] none none false)) ∧
  (∀ (ci : BitVec 4) (src : PortSrc), s.issues g 0x11 → exec (.sliceJmp g ci src) s =
    let d := (s.drawFor src).1
    let ci := (s.drawFor src).2.seesBus src d (portSlice g) 89 ci
    let u := (s.drawFor src).2.closeCycle g
    let x := u.began g
    .next (if cond u g x (iA w) ci (wget w 15 12) then
        u.issued g (x.useTrig (wget w 15 12)) (iSm w) [0, 1] none (some (wget w 21 16)) false
      else u.issued g x (iSm w) [0, 1] none none false)) ∧
  (s.issues g 0x12 → exec (.sliceSetag g) s =
    let a := x.agen (wget w 21 20)
    let v := wget w 10 0
    let b := if wget w 19 18 = 0 then { a with ptr := v } else if wget w 19 18 = 1 then { a with base := v }
      else if wget w 19 18 = 2 then { a with len := v } else { a with step := (BitVec.ofNat 11 v).toInt }
    .next (u.issued g (x.setAg (wget w 21 20) b) (iSm w) [0, 1] none none false)) ∧
  (∀ (ci : BitVec 4) (src : PortSrc), s.issues g 0x13 → exec (.sliceWait g ci src) s =
    let d := (s.drawFor src).1
    let ci := (s.drawFor src).2.seesBus src d (portSlice g) 89 ci
    let u := (s.drawFor src).2.closeCycle g
    let x := u.began g
    .next (if cond u g x (iA w) ci (wget w 15 12) then
        u.issued g (x.useTrig (wget w 15 12)) (iSm w) [0, 1] none none false
      else u.stallCycle g 3)) ∧
  (s.issues g 0x14 → exec (.sliceHalt g) s = .next (u.issued g x (iSm w) [0, 1] none none true)) ∧
  (s.issues g 0x15 → exec (.sliceSig g) s =
    .next (u.issued g { x with fo := wget w 3 0, foHold := w.getLsbD 4 } (iSm w) [0, 1] none none false)) ∧
  (s.sliceHeld g = false → ((s.slice g).st = 1 ∨ (s.slice g).st = 2) → illegalAt (s.slice g) (s.coefWr g) w = true →
    exec (.illegalInstruction g) s = .next (((u.setSlice g { x with
      st := 5, cause := 0, stepping := false, haltReq := false, haltWait := 0, free := [0, 1], lastW := none, pGnt := false,
      pColl := x.collNow, collNow := false }).wrb (SLC.FLAGS.ILLEGAL g) true).settle g)) ∧
  (s.sliceHeld g = true → ∀ ua : BitVec 37,
    exec (.sliceNop g) s = .next s ∧ exec (.sliceIn g) s = .next s ∧ exec (.sliceOut g) s = .next s ∧
    exec (.sliceLda g ua) s = .next s ∧ exec (.sliceCas g) s = .next s ∧ exec (.sliceHalt g) s = .next s ∧
    exec (.illegalInstruction g) s = .next s ∧ (∀ src : PortSrc, exec (.sliceStart g src) s = .next (s.drawFor src).2 ∧
      exec (.trigInput g src) s = .next (s.drawFor src).2))

/-- The start, inputs, outputs, port P and inspection of a slice (R126, R129, R137, R139, R146, R150, R155, R156, R162, R163),
in the states in which they act. What the slice's inputs see of a command is `State.sees`, from the command's operands or from
the nets; v is the state with a draw taken for the latter. The model's choices in its clauses: notes/assumptions/22.md. -/
def Obligations.SlicePortsRun : Prop := ∀ (s : State) (g : Fin 10752) (src : PortSrc),
  let x := s.slice g
  let off := 0xC000000 + 0x1000 * g.val
  let v := (s.drawFor src).2
  let d := (s.drawFor src).1
  let k := portSlice g
  (s.sliceHeld g = false → (x.st = 0 ∨ x.st = 3) → v.sees src d k 87 true = true →
    exec (.sliceStart g src) s = .next (v.setSlice g { x with
      st := 1, pc := 0, loops := [], free := [0, 1], lastW := none, pGnt := false, pColl := x.collNow, collNow := false })) ∧
  (s.sliceHeld g = false → v.sees src d k 88 true = true →
    exec (.trigInput g src) s = .next (v.setSlice g { x with trig := true })) ∧
  (∀ (w : BitVec 36) (p : Bool), s.sliceHeld g = false → x.st ≠ 4 → x.x.length < 2 → v.sees src d k 36 true = true →
    exec (.xCapture g w p src) s =
      .next (v.setSlice g { x with x := x.x ++ [(v.seesBus src d k 0 w, v.sees src d k 37 p)] })) ∧
  (∀ (w : BitVec 36) (p : Bool), 2 ≤ x.x.length → exec (.xCapture g w p src) s = .next v) ∧
  (s.sliceHeld g = false → v.sees src d k 38 true = true →
    exec (.yDeliver g src) s = .next (v.setSlice g { x with y := x.y.tail })) ∧
  (∀ (a : BitVec 10) (we : Bool) (w : BitVec 36) (u : BitVec 37), s.sliceHeld g = false → (s.sliceCfg g).pEn = true →
    v.sees src d k 86 true = true →
    let go := fun (t : State) (slot : Nat) =>
      t.portP g slot (t.seesBus src d k 39 a).toNat (t.sees src d k 85 we) (t.seesBus src d k 49 w) u
    (∀ (slot : Nat) (l : List Nat), x.free = slot :: l → x.pGnt = false →
      exec (.portPAccess g a we w u src) s = .next (go (v.setSlice g x) slot)) ∧
    ((x.free = [] ∨ x.pGnt = true) → (x.st = 1 ∨ x.st = 2) → exec (.portPAccess g a we w u src) s = .next v) ∧
    ((x.free = [] ∨ x.pGnt = true) → x.st ≠ 1 → x.st ≠ 2 → exec (.portPAccess g a we w u src) s =
      .next (go (v.setSlice g { x with free := [0, 1], lastW := none, pGnt := false, pColl := x.collNow, collNow := false }) 0)) ∧
    ((s.sliceCfg g).pSteal ≠ 0 → (x.st = 1 ∨ x.st = 2) → x.free = [] →
      exec (.portPSteal g a we w u src) s = .next (go (v.stallCycle g 5) 0))) ∧
  (∀ (u : BitVec 37) (uc : BitVec 28), s.sliceHeld g = false → s.bit (SLC.INSP_CTL.BUSY g) = true → (x.st = 1 ∨ x.st = 2) →
    x.free = [] → x.haltReq = false → exec (.inspectionSteal g u uc) s = .next ((s.stallCycle g 4).inspect g 0 u uc)) ∧
  (∀ q : Req, s.canWrite q off → x.st = 1 →
    exec (.sliceHaltRequest q g) s =
      .next (((s.setSlice g { x with st := 4, prev := 1, haltReq := false, stepping := false }).settle g).tell .okay [])) ∧
  (∀ q : Req, s.canWrite q off → x.st = 2 →
    exec (.sliceHaltRequest q g) s = .next ((s.setSlice g { x with haltReq := true, haltWait := 0 }).tell .okay [])) ∧
  (∀ q : Req, s.canWrite q off → x.st = 4 →
    exec (.sliceResume q g) s = .next ((s.setSlice g { x with st := x.prev }).tell .okay [])) ∧
  (∀ q : Req, s.canWrite q off → x.st = 4 →
    exec (.sliceStep q g) s = .next ((s.setSlice g { x with st := 1, stepping := true }).tell .okay [])) ∧
  (∀ (q : Req) (w : Word), s.canWrite q (off + 0x50) → s.bit (SLC.INSP_CTL.BUSY g) = false →
    (w.getLsbD 29 && w.getLsbD 30) = false → (x.st = 1 ∨ x.st = 2) →
    exec (.inspectionStart q g w) s =
      .next (((s.setReg (SLC.INSP_CTL.BUSY g).off (w &&& (wmask 30 29 ||| wmask 9 0))).wrb (SLC.INSP_CTL.BUSY g) true).tell
        .okay [])) ∧
  (∀ (q : Req) (w : Word), s.canWrite q (off + 0x50) → s.bit (SLC.INSP_CTL.BUSY g) = false →
    (w.getLsbD 29 && w.getLsbD 30) = false → x.st ≠ 1 → x.st ≠ 2 →
    exec (.inspectionStart q g w) s =
      .next ((((s.setReg (SLC.INSP_CTL.BUSY g).off (w &&& (wmask 30 29 ||| wmask 9 0))).wrb (SLC.INSP_CTL.BUSY g) true).inspect g 2
        0 0).tell .okay [])) ∧
  (∀ (q : Req) (w : Word), s.canWrite q (off + 0x50) → s.bit (SLC.INSP_CTL.BUSY g) = true →
    exec (.inspectionStart q g w) s = .next (s.tell .slverr [])) ∧
  (∀ q : Req, s.canWrite q (off + 8) → s.bit (SLC.FLAGS.ILLEGAL g) = true → x.st = 5 →
    exec (.clearIllegal q g) s =
      .next (((s.setReg (SLC.FLAGS.PAR g).off (s.reg (SLC.FLAGS.PAR g).off &&& ~~~ (0x200 &&& wmask 9 1))).setSlice g
        { x with st := 0 }).tell .okay []))

/-- Reads and full writes of a block memory (R167 to R174, R178 to R181): accepted where EN, READY and WE say so, one in an array
cycle. What the port's inputs see of a command is `State.memIn`; on different lines, which of two near accesses wins is a free
bit. -/
def Sys2Proof.Machine.BlockMemoryAccessRuns : Prop := ∀ (s : State) (b : Fin 13440) (pb : Bool) (t : ArrT) (src : PortSrc),
  let n := (s.drawFor src).1
  let v := (s.drawFor src).2
  let c := tget s.mem.bmCfg b.val {}
  let w := bmWidth c pb
  let g := v.bmTime b.val pb t
  let x := g.2.arr false b.val
  let go := g.1 && !x.took.contains pb
  let z := g.2.setArr false b.val { x with took := pb :: x.took }
  (∀ (a : BitVec 15) (u : BitVec 72),
    let q := v.memIn src n (portBm b.val) pb ⟨false, a, 0, 0, false⟩
    let kl := bmPlace c w q.2.addr.toNat
    q.1 = true → q.2.we = false → v.bmLive b.val pb = true →
    (go = false → exec (.bm36Read b pb t a u src) s = .next g.2) ∧
    (go = true → exec (.bm36Read b pb t a u src) s =
      let f := (z.upsetAt false b.val kl.1 u).fresh
      let r := f.2.readWord c.ecc (if (!c.oneClk && t.near && Config.freeBit f.1) = true then f.2.memW false b.val kl.1
        else f.2.startWord false b.val kl.1)
      let o := r.2.2.2.2.setOut false b.val pb ⟨portBits w kl.2 r.1, c.ecc && r.2.1, c.ecc && r.2.2.1, true⟩
      .next (o.queueWb false b.val pb (c.ecc && c.corrWb) kl.1 r.1 r.2.2.1 r.2.2.2.1))) ∧
  (∀ (a : BitVec 15) (d : BitVec 72) (be : BitVec 8) (wp : Bool),
    let q := v.memIn src n (portBm b.val) pb ⟨true, a, d, be, wp⟩
    let kl := bmPlace c w q.2.addr.toNat
    q.1 = true → q.2.we = true → (c.ecc = false ∨ (w = 64 ∧ q.2.be = 0xFF#8)) → v.bmLive b.val pb = true →
    (go = false → exec (.bm36FullWrite b pb t a d be wp src) s = .next g.2) ∧
    (go = true → exec (.bm36FullWrite b pb t a d be wp src) s =
      let o := z.readWord c.ecc (z.startWord false b.val kl.1)
      let m := beMask c w q.2.be <<< kl.2
      let y := if c.ecc then low64 q.2.wd else q.2.wd <<< kl.2
      let act : MAct := ⟨pb, kl.1, if c.ecc then low64 (~~~ 0) else m, y, c.ecc && q.2.wp, q.2.wp⟩
      let f := o.2.2.2.2.fresh
      let near := t.near && ((o.2.2.2.2.arr false b.val).acts.any fun k => k.word == kl.1 && k.pb != pb)
        || t.near && (o.2.2.2.2.arr false b.val).clr && pb
      let u := if (!(tget o.2.2.2.2.mem.bmCfg b.val {}).oneClk && near && Config.freeBit f.1) = true then f.2
        else (f.2.staleMerges b.val pb kl.1 t.near).memAct false b.val c.ecc act
      let new := if c.ecc then y else (overlay (o.2.2.2.2.startWord false b.val kl.1) m y false false).v
      .next (u.echo false b.val pb (if pb then c.rdwB else c.rdwA) w kl.2 new o.1 (c.ecc && q.2.wp) (c.ecc && o.2.1)
        (c.ecc && o.2.2.1))))

/-- Narrow writes, clearing and the write-backs of corrections (R175 to R178, R181, R184, R185), and a port that takes
nothing (R167, R186). -/
def Sys2Proof.Machine.BlockMemoryUpkeepRuns : Prop := ∀ s : State,
  (∀ (b : Fin 13440) (pb : Bool) (t : ArrT) (src : PortSrc) (a : BitVec 15) (d : BitVec 72) (be : BitVec 8) (wp : Bool)
      (u : BitVec 72),
    let n := (s.drawFor src).1
    let v := (s.drawFor src).2
    let c := tget s.mem.bmCfg b.val {}
    let w := bmWidth c pb
    let q := v.memIn src n (portBm b.val) pb ⟨true, a, d, be, wp⟩
    let kl := bmPlace c w q.2.addr.toNat
    let g := v.bmTime b.val pb t
    let x := g.2.arr false b.val
    let go := g.1 && !x.took.contains pb
    let z := g.2.setArr false b.val { x with took := pb :: x.took }
    ((v.bmLive b.val pb = false ∨ q.1 = false) → exec (.bm36Read b pb t a u src) s = .next v ∧
      exec (.bm36FullWrite b pb t a d be wp src) s = .next v ∧ exec (.bm36NarrowWrite b pb t a d be wp u src) s = .next v) ∧
    (v.bmLive b.val pb = true → q.1 = true → q.2.we = true → c.ecc = true → (w ≠ 64 ∨ q.2.be ≠ 0xFF#8) →
      (go = false → exec (.bm36NarrowWrite b pb t a d be wp u src) s = .next g.2) ∧
      (go = true → exec (.bm36NarrowWrite b pb t a d be wp u src) s =
        let y := z.upsetAt false b.val kl.1 u
        let o := y.readWord true (y.startWord false b.val kl.1)
        let m : MReq := { pb := pb, wr := true, word := kl.1, mask := beMask c w q.2.be <<< kl.2, v := q.2.wd <<< kl.2,
                          wp := q.2.wp, bad := o.2.1 || o.2.2.2.1, lo := kl.2, w := w }
        let r := o.2.2.2.2.arr false b.val
        let e := o.2.2.2.2.setArr false b.val { r with merges := r.merges ++ [m] }
        .next (if (if pb then c.rdwB else c.rdwA).val = 1
          then e.setOut false b.val pb ⟨portBits w kl.2 o.1, o.2.1, o.2.2.1, true⟩ else e)))) ∧
  (∀ (b : Fin 13440) (t : ArrT) (src : PortSrc),
    let v := (s.drawFor src).2
    let asked := v.bmLive b.val false && (tget s.mem.bmCfg b.val {}).clrEn && v.sees src (s.drawFor src).1 (portBm b.val) 98 true
    let g := v.bmTime b.val false t
    (asked = false → exec (.bm36Clear (.bm b) t src) s = .next v) ∧
    (asked = true → g.1 = false → exec (.bm36Clear (.bm b) t src) s = .next g.2) ∧
    (asked = true → g.1 = true → exec (.bm36Clear (.bm b) t src) s =
      let f := g.2.fresh
      let x := f.2.arr false b.val
      .next ((if (!(tget g.2.mem.bmCfg b.val {}).oneClk && t.near && Config.freeBit f.1) = true then
          f.2.setArr false b.val { x with acts := x.acts.filter fun a => !a.pb } else f.2).clearArr false b.val))) ∧
  (∀ (p : Fin 112) (t : ArrT) (src : PortSrc),
    let v := (s.drawFor src).2
    let asked := v.dmLive p.val false && (tget s.mem.dmCfg p.val {}).clrEn && v.sees src (s.drawFor src).1 (portDm p.val) 98 true
    let g := v.dmPass p.val (s.dmCap p.val false 1) false t
    (asked = false → exec (.bm36Clear (.dm p) t src) s = .next v) ∧
    (asked = true → exec (.bm36Clear (.dm p) t src) s =
      .next (if (g.arr true p.val).busy.contains false then g else g.clearArr true p.val))) ∧
  (∀ (m : MemId) (pb : Bool) (t : ArrT),
    let dm := match m with | .bm _ => false | .dm _ => true
    let i := match m with | .bm b => b.val | .dm p => p.val
    let g := match m with | .bm b => (s.bmTime b.val pb t).2 | .dm p => s.dmPass p.val (s.dmCap p.val pb 1) pb t
    let x := g.arr dm i
    let u := g.setArr dm i (if pb then { x with wbB := none } else { x with wbA := none })
    (s.memHeld dm i = true → exec (.correctionWriteBack m pb t) s = .next s) ∧
    (s.memHeld dm i = false → x.acts ≠ [] → exec (.correctionWriteBack m pb t) s = .next g) ∧
    (s.memHeld dm i = false → x.acts = [] → (if pb then x.wbB else x.wbA) = none →
      exec (.correctionWriteBack m pb t) s = .next u) ∧
    (∀ k poison v, s.memHeld dm i = false → x.acts = [] → (if pb then x.wbB else x.wbA) = some (k, poison, v) →
      (u.memW dm i k = none → exec (.correctionWriteBack m pb t) s = .next u) ∧
      (∀ w, u.memW dm i k = some w → exec (.correctionWriteBack m pb t) s =
        .next (u.setMemW dm i k (some ⟨v, 0, w.poison || poison⟩)))))

/-- The block memories: reads, writes, clearing, write-backs of corrections, ports that take nothing (R167 to R186). The
model's choices in its clauses: notes/assumptions/2 and 23.md. -/
def Obligations.BlockMemoriesRun : Prop := Sys2Proof.Machine.BlockMemoryAccessRuns ∧ Sys2Proof.Machine.BlockMemoryUpkeepRuns

/-- The deep memories (R190 to R197): fabric reads and writes by port cycle, deferred requests, and NoC requests. The model's
choices in its clauses: notes/assumptions/23 and 24.md. -/
def Obligations.DeepMemoriesRun : Prop := ∀ (s : State) (p : Fin 112),
  (∀ (pb : Bool) (t : ArrT) (src : PortSrc) (cap : Nat) (a : BitVec 15) (d : BitVec 64) (be : BitVec 8) (wp : Bool)
      (u : BitVec 72),
    let n := (s.drawFor src).1
    let v := (s.drawFor src).2
    let cap := s.dmCap p.val pb cap
    let g := v.dmPass p.val cap pb t
    let x := g.arr true p.val
    let go := !x.busy.contains pb && !x.took.contains pb
    let rd := v.memIn src n (portDm p.val) pb ⟨false, a, 0, 0, false⟩
    let wr := v.memIn src n (portDm p.val) pb ⟨true, a, d.setWidth 72, be, wp⟩
    (v.dmLive p.val pb = false → exec (.dmFabricRead p pb t cap a u src) s = .next v ∧
      exec (.dmFabricWrite p pb t cap a d be wp u src) s = .next v) ∧
    (v.dmLive p.val pb = true → rd.1 = true → rd.2.we = false →
      exec (.dmFabricRead p pb t cap a u src) s = .next (if go then (g.upsetAt true p.val rd.2.addr.toNat u).dmTake p.val cap
        { pb := pb, wr := false, word := rd.2.addr.toNat, mask := 0, v := 0, wp := false } else g)) ∧
    (v.dmLive p.val pb = true → wr.1 = true → wr.2.we = true →
      exec (.dmFabricWrite p pb t cap a d be wp u src) s = .next (if go then
          (if wr.2.be = 0xFF#8 then g else g.upsetAt true p.val wr.2.addr.toNat u).dmTake p.val cap
            { pb := pb, wr := true, word := wr.2.addr.toNat, mask := be64 wr.2.be, v := low64 wr.2.wd, wp := wr.2.wp,
              left := if wr.2.be = 0xFF#8 then 1 else 2 }
        else g))) ∧
  (∀ cap : Nat,
    ((s.arr true p.val).defs = [] ∨ s.memHeld true p.val = true → exec (.dmDeferredServe p cap) s = .next s) ∧
    (∀ r t, (s.arr true p.val).defs = r :: t → s.memHeld true p.val = false → exec (.dmDeferredServe p cap) s =
      .next (s.dmCycle p.val (max 1 (s.dmCap p.val r.pb cap)) r.pb))) ∧
  (∀ (us : List (BitVec 72)) (m : Moving) (ms : List Moving), tget s.noc.serve (ID.dm p.val) [] = m :: ms →
    let pop := fun (u : State) => ({ u with noc := { u.noc with serve := tput u.noc.serve (ID.dm p.val) ms [] } } : State)
    let banks := (dmTouched m.f).map fun q => q.1 % 8
    let r := s.dmNoc p.val m.f us
    let x := r.2.2.arr true p.val
    let use := (dmTouched m.f).foldl (fun (t : Tab Nat) q =>
      let n := if m.f.op = 0 ∨ q.2.1 = low64 (~~~ 0) then 1 else 2
      [q.1 % 8, 8 + q.1 % 8, 16 + q.1 % 8].foldl (fun t k => tput t k (tget t k 0 + n) 0) t) x.use
    let waits := (s.arr true p.val).defs.any fun r => banks.contains (r.word % 8)
    (waits = true → exec (.dmNocRequest p us) s = .next s) ∧
    (∀ w, w < (tget s.mem.dmCfg p.val {}).nocWait → exec (.dmNocWaitExpiry p us w) s = .next s) ∧
    (∀ (c : Instr) (late : Bool), ((late = true ∧ ∃ w, (tget s.mem.dmCfg p.val {}).nocWait ≤ w ∧ c = .dmNocWaitExpiry p us w) ∨
        (late = false ∧ c = .dmNocRequest p us ∧ waits = false)) →
      (∀ st, s.dmRefuse p.val m = some st → exec c s = .next ((pop s).respond (ID.dm p.val) m st 0)) ∧
      (s.dmRefuse p.val m = none → s.mem.test.contains (true, p.val) = true → exec c s = .next s) ∧
      (s.dmRefuse p.val m = none → s.mem.test.contains (true, p.val) = false → exec c s =
        .next ((pop (if late then r.2.2.setArr true p.val { x with use := use } else r.2.2)).respond (ID.dm p.val) m r.1 r.2.1))))

/-- The plane operations ordered through CFG.OP (R215, R216, R226, R581): each is accepted where its checks name no reason,
and does what R208 gives it; where they name one, OP_STAT shows the reason and the vat, and nothing else changes; while
OP_STAT.BUSY is set the write is refused. The model's choices in its clauses: notes/assumptions/33, 34, 36, 42, 46 and 48.md. -/
def Obligations.PlaneOperationsRun : Prop := ∀ (s : State) (q : Req), s.canWrite q 0x100000 →
  let vats := maskVats (s.rd CFG.OP_VATS.VATS)
  let tag := s.reg CFG.OP_ARG.TAG.off
  let wins := vats.map fun v => (v, s.rd (CFG.WIN.MS v))
  let refusal : Option Nat → Nat → Option (Nat × Nat) := fun slot code => s.opRefusal code vats slot
  (s.bit CFG.OP_STAT.BUSY = false →
    (refusal none 1 = none → exec (.activate q) s =
      let r := s.launchOp { code := 1, vats := vats, wins := wins }
      .next ((r.1.opStat r.2 0).tell .okay [])) ∧
    (refusal none 2 = none → exec (.rollback q) s =
      let r := s.launchOp { code := 2, vats := vats, wins := wins }
      .next ((r.1.opStat r.2 0).tell .okay [])) ∧
    (refusal none 3 = none → exec (.confirm q) s = .next (((vats.foldl State.confirmVat s).opStat 0 0).tell .okay [])) ∧
    (∀ k, armSlot vats = some k → refusal (some k) 4 = none → exec (.arm q) s =
      let u := s.wrb (CFG.ARM_CTL.ARMED k) true
      let u := if k = 0 then u.wr (CFG.ARM_CTL.VATS 0) (vats.foldl (fun n v => n + 2 ^ v) 0) else u
      .next ((u.opStat 0 0).tell .okay [])) ∧
    (∀ k, armSlot vats = some k → s.opRefusal 5 [k] (some k) = none → exec (.disarm q) s =
      .next ((((s.wrb (CFG.ARM_CTL.ARMED k) false).wr (CFG.ARM_CTL.VATS k) 0).opStat 0 0).tell .okay [])) ∧
    (refusal none 6 = none → exec (.commitOpen q) s =
      let u := vats.foldl (fun (u : State) v => u.setStandby v false) s
      let u : State := { u with cfg := { u.cfg with commits := u.cfg.commits ++ [⟨vats, none⟩] } }
      .next (((u.wrb CFG.OP_STAT.CLOSE_FAIL false).opStat 0 0).tell .okay [])) ∧
    (refusal none 7 = none → exec (.commitClose q) s =
      let cs := s.cfg.commits.map fun c => if c.vats = vats then { c with closing := some tag } else c
      let u : State := { s with cfg := { s.cfg with commits := cs } }
      .next (((u.wrb CFG.OP_STAT.CLOSE_FAIL false).opStat 0 0).tell .okay [])) ∧
    (refusal none 8 = none → exec (.invalidate q) s =
      let u := vats.foldl (fun (u : State) v => u.setStandby v false) s
      let u : State := { u with cfg := { u.cfg with commits := u.cfg.commits.filter fun c => c.vats != vats } }
      .next ((u.opStat 0 0).tell .okay [])) ∧
    (refusal none 9 = none → exec (.capture q) s =
      let u := vats.foldl (fun (u : State) v => (u.volFrames v).foldl (fun (u : State) n => u.captureOrWait v n) u) s
      .next ((u.opStat 0 0).tell .okay [])) ∧
    (∀ c v, (refusal none 1 = some (c, v) → exec (.activate q) s = .next ((s.opStat c v).tell .okay [])) ∧
      (refusal none 2 = some (c, v) → exec (.rollback q) s = .next ((s.opStat c v).tell .okay [])) ∧
      (refusal none 3 = some (c, v) → exec (.confirm q) s = .next ((s.opStat c v).tell .okay [])) ∧
      (∀ k, armSlot vats = some k → refusal (some k) 4 = some (c, v) →
        exec (.arm q) s = .next ((s.opStat c v).tell .okay [])) ∧
      (∀ k, armSlot vats = some k → s.opRefusal 5 [k] (some k) = some (c, v) →
        exec (.disarm q) s = .next ((s.opStat c v).tell .okay [])) ∧
      (refusal none 6 = some (c, v) → exec (.commitOpen q) s = .next ((s.opStat c v).tell .okay [])) ∧
      (refusal none 7 = some (c, v) → exec (.commitClose q) s = .next ((s.opStat c v).tell .okay [])) ∧
      (refusal none 8 = some (c, v) → exec (.invalidate q) s = .next ((s.opStat c v).tell .okay [])) ∧
      (refusal none 9 = some (c, v) → exec (.capture q) s = .next ((s.opStat c v).tell .okay []))) ∧
    (armSlot vats = none → exec (.arm q) s = .next ((s.opStat 6 0).tell .okay []) ∧
      exec (.disarm q) s = .next ((s.opStat 6 0).tell .okay []))) ∧
  (s.bit CFG.OP_STAT.BUSY = true → ∀ c ∈ [Instr.activate q, .rollback q, .confirm q, .arm q, .disarm q, .commitOpen q,
    .commitClose q, .invalidate q, .capture q], exec c s = .next (s.tell .slverr []))

/-- Loads, confirm windows, armed and deferred activations (R30, R31, R208 to R211, R219 to R223): what each event leaves in
the states in which it acts. `u` is the state with the cells that changed flipped, or the window closed. -/
def Sys2Proof.Machine.LoadsRun : Prop := ∀ s : State,
  (∀ (o : PendOp) (d : Nat), s.cfg.deferred = some o → s.swapsRun = false →
    exec (.deferredWholeDeviceStart d) s =
      let u := ({ s with cfg := { s.cfg with deferred := none } } : State).startOp o
      .next (match o.slot with | some k => u.setLate o.vats k d | none => u)) ∧
  (∀ (v : Fin 16) (o : PendOp) (d : Nat), (s.cfg.swapDef.find? fun o => o.vats == [v.val]) = some o →
    s.underTest v.val = false → s.running = true → s.bit PWR.MODE_STAT.LOAD_PEND = false →
    exec (.deferredSwapStart v d) s =
      let u := ({ s with cfg := { s.cfg with swapDef := s.cfg.swapDef.eraseP fun x => x.vats == [v.val] } } : State).startOp o
      .next (match o.slot with | some k => u.setLate o.vats k d | none => u)) ∧
  (∀ (v : Fin 16) (ups : List (Bool × Fin 262144 × List (Fin 2072))) (op : LoadOp), tget s.cfg.loads v.val none = some op →
    exec (.loadComplete v ups) s =
      let u := ups.foldl (fun (u : State) (x : Bool × Fin 262144 × List (Fin 2072)) =>
        u.setPlane x.1 x.2.1.val (flipBits (u.planeFrame x.1 x.2.1.val) x.2.2)) s
      .next (if v.val = 0 then u.wholePass op else u.vatPass op v.val).capResume) ∧
  (∀ v : Fin 16, s.windowOpen v.val = true →
    let u := s.closeWindow v.val
    (v.val ≠ 0 → u.otherValid v.val = true → exec (.confirmWindowExpiry v) s =
      .next ((u.setExpiring v.val (some (!(u.role v.val).cur))).raiseVat v.val EV.confirmExpired v.val [v.val, 0])) ∧
    (v.val ≠ 0 → u.otherValid v.val = false → exec (.confirmWindowExpiry v) s = .next (u.noPrev v.val)) ∧
    (v.val = 0 → u.otherValid 0 = true → exec (.confirmWindowExpiry v) s =
      let w := u.raiseVat 0 EV.confirmExpired 0 [0, 0]
      let others := w.cfg.actSet.filter (· != 0)
      let w := (others.filter fun x => !w.otherValid x).foldl State.noPrev w
      .next ((0 :: others.filter w.otherValid).foldl (fun (w : State) x =>
        (w.closeWindow x).setExpiring x (some (!(w.role x).cur))) w)) ∧
    (v.val = 0 → u.otherValid 0 = false → exec (.confirmWindowExpiry v) s =
      .next (u.raiseVat 0 EV.confirmExpired 0 [0, 1]).enterFallback)) ∧
  (∀ (v : Fin 16) (p : Bool), tget s.cfg.expiring v.val none = some p →
    (s.mode = M.load ∨ s.bit PWR.MODE_STAT.LOAD_PEND = true → exec (.expiryRollbackStart v) s = .next s) ∧
    (s.mode ≠ M.load → s.bit PWR.MODE_STAT.LOAD_PEND = false → (s.role v.val).cur ≠ p →
      (v.val ≠ 0 → ((s.role 0).unconf && s.cfg.mapChg) = false → s.otherValid v.val = true →
        exec (.expiryRollbackStart v) s =
          .next ((s.modFail v.val 5 0).launchOp { code := 2, vats := [v.val], wins := [], expiry := true }).1) ∧
      (v.val = 0 → s.otherValid 0 = true → exec (.expiryRollbackStart v) s =
        let vats := (List.range 16).filter fun w => (tget s.cfg.expiring w none).isSome && s.otherValid w
        let u := vats.foldl (fun (u : State) w => u.modFail w 5 0) s
        .next (u.launchOp { code := 2, vats := vats, wins := [], expiry := true }).1))) ∧
  (∀ k : Fin 16, s.bit (CFG.ARM_CTL.ARMED k.val) = true → s.armLate k.val = true →
    let vats := if k.val = 0 then maskVats (s.rd (CFG.ARM_CTL.VATS 0)) else [k.val]
    let u := (s.wrb (CFG.ARM_CTL.ARMED k.val) false).wr (CFG.ARM_CTL.VATS k.val) 0
    let o : PendOp := { code := 1, vats := vats, wins := vats.map (fun v => (v, u.rd (CFG.WIN.MS v))), slot := some k.val }
    (u.opRefusal 1 vats (some k.val) true = none → u.opWaits o = false → exec (.armCompareFire k) s =
      .next { u with cfg := { u.cfg with fired := u.cfg.fired ++ [o] } }) ∧
    (u.opRefusal 1 vats (some k.val) true = none → u.opWaits o = true → exec (.armCompareFire k) s = .next (u.launchOp o).1) ∧
    (∀ c v, u.opRefusal 1 vats (some k.val) true = some (c, v) → exec (.armCompareFire k) s =
      .next ((u.opStat c k.val).actLate vats k.val [k.val, c, 0]))) ∧
  (∀ (k : Fin 16) (d : Nat) (o : PendOp), (s.cfg.fired.find? fun o => o.slot == some k.val) = some o →
    let u : State := { s with cfg := { s.cfg with fired := s.cfg.fired.filter fun x => x.slot != some k.val } }
    (u.opWaits o = true → exec (.activationAssertion k d) s = .next (u.launchOp o).1) ∧
    (u.opWaits o = false → exec (.activationAssertion k d) s = .next ((u.startOp o).setLate o.vats k.val d))) ∧
  (∀ (n : Fin 262144) (fails : Fin 4), tget s.cfg.perr n.val 0 ≠ 0 → s.frameBusy n.val = false →
    let p := tget s.cfg.perr n.val 0 == 2
    (chkFrame (s.planeFrame p n.val) = .clean → exec (.planeRepair n fails) s = .next (s.setPerr n.val 0)) ∧
    (∀ a b f, chkFrame (s.planeFrame p n.val) = .fixed a b f →
      (fails.val < 3 → exec (.planeRepair n fails) s = .next ((s.setPlane p n.val f).setPerr n.val 0)) ∧
      (∀ v, fails.val = 3 → s.frameVat n.val = some v → exec (.planeRepair n fails) s =
        let u := s.freePlane p n.val
        .next ((if (u.role v).cur = p then u else u.setRole v ((u.role v).setValid p false)).raiseVat v EV.planeRepairFail n.val
          [v, n.val, tget s.cfg.perr n.val 0]))))

/-- The single-frame access (R227): a write of FW_CTL with GO starts it, with the frame and the copy it names; its end shows
the RESULT of its row. -/
def Sys2Proof.Machine.SingleFrameAccessRuns : Prop := ∀ s : State,
  (∀ (q : Req) (w : Word), s.canWrite q 0x100100 → s.cfg.fwGo = none →
    let ctl : Word → State := fun x => s.setReg 0x100100 (wset (x &&& 0x72#32) 31 28 (wget (s.reg 0x100100) 31 28))
    let far : State → Word := fun u => u.reg CFG.FW_FAR.FAR.off
    let rd := w ||| 3#32
    let wr := (w ||| 1#32) &&& 0xFFFFFFFD#32
    exec (.frameAccessRead q w) s =
      .next ((({ ctl rd with cfg := { s.cfg with fwGo := some (true, wget rd 6 4, far (ctl rd)) } } : State).wrb
        CFG.FW_CTL.BUSY true).tell .okay []) ∧
    exec (.frameAccessWrite q w) s =
      .next ((({ ctl wr with cfg := { s.cfg with fwGo := some (false, wget wr 6 4, far (ctl wr)) } } : State).wrb
        CFG.FW_CTL.BUSY true).tell .okay [])) ∧
  (∀ (read : Bool) (t : Nat) (far : Word) (bits : List (Fin 2072)) (bad : Bool), s.cfg.fwGo = some (read, t, far) →
    let u := ({ s with cfg := { s.cfg with fwGo := none } } : State).wrb CFG.FW_CTL.BUSY false
    let result : State → Nat → Host.Outcome State Fault Refusal := fun x r => .next (x.wr CFG.FW_CTL.RESULT r)
    (5 ≤ t → exec (.frameAccessDone bits bad) s = result u 5) ∧
    (t < 5 → farDecode far = none → exec (.frameAccessDone bits bad) s = result u 3) ∧
    (∀ n, t < 5 → farDecode far = some n → u.frameBusy n = true → exec (.frameAccessDone bits bad) s = .next s) ∧
    (∀ n, t < 5 → farDecode far = some n → u.frameBusy n = false → u.fwCopy t n = none → exec (.frameAccessDone bits bad) s = result u 2) ∧
    (∀ n copy, t < 5 → farDecode far = some n → u.frameBusy n = false → u.fwCopy t n = some copy →
      let f := flipBits (if copy = 0 then u.liveFrame n else u.planeFrame (copy == 2) n) bits
      let x := if copy = 0 then u.disturb n f else u.setPlane (copy == 2) n f
      (read = true → exec (.frameAccessDone bits bad) s = result (x.fwRead copy n).1 (x.fwRead copy n).2) ∧
      (read = false → x.fwMay copy n = false → exec (.frameAccessDone bits bad) s = result x 2) ∧
      (read = false → x.fwMay copy n = true → syndrome x.fwFrame ≠ 0 → exec (.frameAccessDone bits bad) s = result x 1) ∧
      (read = false → x.fwMay copy n = true → syndrome x.fwFrame = 0 → copy = 0 → exec (.frameAccessDone bits bad) s =
        result ((x.loadLive n x.fwFrame).setUnrest n false) 0) ∧
      (read = false → x.fwMay copy n = true → syndrome x.fwFrame = 0 → copy ≠ 0 → bad = true →
        exec (.frameAccessDone bits bad) s = result (x.freePlane (copy == 2) n) 4) ∧
      (read = false → x.fwMay copy n = true → syndrome x.fwFrame = 0 → copy ≠ 0 → bad = false →
        exec (.frameAccessDone bits bad) s = result ((x.setPlane (copy == 2) n x.fwFrame).setPerr n 0) 0)))

/-- Loads, windows and activations (R208 to R223), and the single-frame access (R227). The model's choices in its clauses:
notes/assumptions/33, 35, 36, 37, 41 and 44.md. -/
def Obligations.LoadsAndFrameAccessRun : Prop := Sys2Proof.Machine.LoadsRun ∧ Sys2Proof.Machine.SingleFrameAccessRuns

/-- R229, R238 step 1, R239: an operation reads its next record at its position: it is there, whole, of TYPE `typ`, with its
CRC and pad bytes good and inside its section, and is the record `r`; the reads and retries leave `t`. `fixed` is the LEN
that the step expects, `stop` the end of the section. -/
def Sys2Proof.Machine.State.reads (s : State) (o : ImgOp) (env : RecEnv) (fixed : Option Nat) (stop typ : Nat) (t : State)
    (r : Rec) : Prop :=
  ∃ l bs : List Byte, (s.imgFetch o 4).2 = .bytes l ∧ leVal l / 2 ^ 24 = typ ∧ (env.lost && o.fromSlot) = false ∧
    let len := fixed.getD (recLen l)
    let n := recBytes len
    ((s.imgFetch o 4).1.imgFetch o n).2 = .bytes bs ∧
    r = { recOf bs with body := (bs.drop 4).take len, pad := (bs.drop (4 + len)).take (n - 8 - len),
                        crc := leVal ((bs.drop (n - 4)).take 4), text := bs.take (n - 4) } ∧
    r.crcOk = true ∧ r.padOk = true ∧ o.pos + n ≤ stop ∧ t = ((s.imgFetch o 4).1.imgFetch o n).1.imgRetries o env true

/-- Where the section ends that an operation reads (R231, R238). -/
def Sys2Proof.Machine.sectionEnd (o : ImgOp) (h : Hdr) : Nat :=
  if o.phase = 3 then h.fsecEnd else if o.phase = 4 then h.isecEnd else slotBytes

/-- Records of an image (R230 to R238, R271): what a good record that arrives in its place leaves, and how an image whose
signature or vats fail is rejected. `e` is the engine, `o` its operation, `h` the HEADER it has passed. The model's choices in
its clauses: notes/assumptions/45 and 47.md. -/
def Obligations.ImageRecordsRun : Prop := ∀ (s t : State) (e : Fin 2) (env : RecEnv) (o : ImgOp) (h : Hdr) (r : Rec),
  (s.imgReady e (· == 0) = some o → ∀ typ, s.reads o env (some 384) slotBytes typ t r → r.typ = 1 → r.len = 384 →
    hdrOf r.body = some h → (∀ m, o.kind = 6 → t.modHead = some m → h.fsecEnd ≤ m.len) → ¬ (o.kind = 3 ∧ h.hasInit = true) →
    (o.kind ≤ 4 → t.ownsImage o.host h.vats = true) →
    exec (.headerRecord e env) s = .next (t.setImg e (some { ({ o with hdr := r.whole } : ImgOp).eat 392 with phase := 1 }))) ∧
  (s.imgReady e (· == 1) = some o → ∀ typ, s.reads o env (some 148) slotBytes typ t r → r.typ = 2 → r.len = 148 →
    let fault := sigFault t.lcs.code (fun k => tget t.lcs.keys k none) r.body
    (fault = none → exec (.signatureRecord e env) s =
      let k := bodyWord r.body 0 % 256
      let n := t.lcs.checks + 1
      .next (({ t with lcs := { t.lcs with checks := n } } : State).setImg e (some { o.eat 156 with
        phase := 2, sig := r.whole, key := if k = 0xFF then [] else (tget t.lcs.keys k none).getD [], kslot := k, check := n }))) ∧
    (∀ c, fault = some c → exec (.signatureRecord e env) s = .next (t.imgReject o c))) ∧
  (s.imgReady e (· == 2) = some o → o.header = some h →
    let good := o.key == [] || ecdsaP384 o.key (sha384 o.hdr) ((o.sig.drop 56).take 96)
    let p := { o with phase := 3, ref := 0 }
    (good = false → exec (.signatureVerified e) s = .next (s.imgReject p 0x04)) ∧
    (good = true → s.vatsFault p h = true → exec (.signatureVerified e) s = .next (s.imgReject p 0x06)) ∧
    (good = true → s.vatsFault p h = false → o.commits = false → exec (.signatureVerified e) s = .next (s.imgSettle e p)) ∧
    (good = true → s.vatsFault p h = false → o.commits = true → (s.orderOp OP.commitOpen h.vats 0).2.1 = 0 →
      exec (.signatureVerified e) s = .next ((s.orderOp OP.commitOpen h.vats 0).1.imgSettle e { p with opened := true })) ∧
    (good = true → s.vatsFault p h = false → o.commits = true → (s.orderOp OP.commitOpen h.vats 0).2.1 ≠ 0 →
      exec (.signatureVerified e) s = .next ((s.orderOp OP.commitOpen h.vats 0).1.imgReject p 0x11))) ∧
  (s.imgReady e (fun p => 3 ≤ p && p ≤ 5) = some o → o.header = some h →
    (∀ typ, s.reads o env none (sectionEnd o h) typ t r →
      (o.phase = 3 → o.pos ≠ h.fsecEnd → ∀ done : Host.Outcome State Fault Refusal,
        ((∃ c, frameRec r.typ r.body o.ref = .error c ∧ done = .next (t.imgReject o c)) ∨
          (∃ l ref, frameRec r.typ r.body o.ref = .ok (l, ref) ∧ (o.commits && l.any fun x => s.frameBusy x.1) = true ∧
            done = .next s) ∨
          (∃ l ref x o' c, frameRec r.typ r.body o.ref = .ok (l, ref) ∧ (o.commits && l.any fun x => s.frameBusy x.1) = false ∧
            t.imgFrames o h l env.wfails = (x, o', some c) ∧ done = .next (x.imgReject o c)) ∨
          (∃ l ref x o', frameRec r.typ r.body o.ref = .ok (l, ref) ∧ (o.commits && l.any fun x => s.frameBusy x.1) = false ∧
            t.imgFrames o h l env.wfails = (x, o', none) ∧
            let o'' := { o' with ref := ref, fsec := o'.fsec ++ r.whole }
            let w := x.stageBytes o'' o''.pos r.whole
            done = .next ((x.imgSettle e (w.2.eat r.whole.length)).stageWork w.1))) →
        (typ ∉ [0x11, 0x12, 0x13, 0x20, 0x7E] → exec (.frameRecord e env) s = done) ∧
        (typ = 0x11 → exec (.frameZRecord e env) s = done) ∧
        (typ = 0x12 → exec (.repeatRecord e env) s = done) ∧
        (typ = 0x13 → exec (.zeroRunRecord e env) s = done)) ∧
      (o.phase = 4 → typ = 0x20 → ¬ (o.kind = 6 ∧ o.pos = h.fsecEnd) → ∀ m, memInitOf r.body (fun sec => h.vats.contains (h.mapOf sec)) = .ok m →
        exec (.meminitRecord ⟨e.val, by omega⟩ env) s =
          let w := t.stageBytes { o with isec := o.isec ++ r.whole } o.pos r.whole
          .next ((t.imgSettle e (w.2.eat r.whole.length)).stageWork w.1)) ∧
      (o.phase = 5 → typ = 0x7E → r.len = 0 → ¬ (o.kind = 6 ∧ o.pos = h.fsecEnd) → exec (.endRecord e env) s =
        let w := t.stageBytes o o.pos r.whole
        let o' := { w.2.eat r.whole.length with phase := 6 }
        .next ((({ t with img := { t.img with work := t.img.work ++ w.1 } } : State).setImg e (some o')).imgEnds o' h))))

/-- Memory inits and the read-back of a commit (R208, R239, R246 to R248, R582): the start of an init, its records, its end;
the end of a commit's read-back, alone or as the close of the image in progress. The model's choices in its clauses:
notes/assumptions/43 and 49.md. -/
def Obligations.InitsAndReadBackRun : Prop := ∀ s : State,
  (∀ (v : Fin 16) (slot : Nat) (hash : List Byte) (h : Hdr), s.img.init = none → s.img.initQ.head? = some v.val →
    s.running = true → s.cfg.clearing.contains v.val = false → s.underTest v = false →
    let u : State := { s with img := { s.img with initQ := s.img.initQ.drop 1 } }
    let w := (u.wr CFG.IMG_STAT.INIT_VAT v).wrb CFG.IMG_STAT.INIT_BUSY true
    let hb := w.celBytes (slotOff slot) 392
    let r : InitRun := { vat := v, plane := (s.role v).cur, slot := slot, pos := 0, stop := 0, hash := [] }
    (∀ lost, u.initSource v (s.role v).cur = none → exec (.memoryInitStart v lost) s =
      .next (u.wrb (VAT.VAT_STAT.INIT_PEND v) false)) ∧
    (u.initSource v (s.role v).cur = some (slot, hash) → exec (.memoryInitStart v true) s = .next (w.initFails r 0x0E)) ∧
    (u.initSource v (s.role v).cur = some (slot, hash) → sha384 hb ≠ hash →
      exec (.memoryInitStart v false) s = .next (w.initFails r 0x0C)) ∧
    (u.initSource v (s.role v).cur = some (slot, hash) → sha384 hb = hash → hdrOf ((hb.drop 4).take 384) = some h →
      exec (.memoryInitStart v false) s =
        .next { w with img := { w.img with init := some { r with pos := h.fsecEnd, stop := h.isecEnd, hash := h.ihash } } })) ∧
  (∀ (r : InitRun) (env : RecEnv), s.img.init = some r → exec (.meminitRecord 2 env) s = .next (s.initRecord r env)) ∧
  (∀ (v : Fin 16) (r : InitRun), s.img.init = some r → r.vat = v.val → r.stop ≤ r.pos →
    (sha384 r.isec = r.hash → exec (.memoryInitDone v) s =
      .next ((({ s with img := { s.img with init := none } } : State).wrb CFG.IMG_STAT.INIT_BUSY false).wrb
        (VAT.VAT_STAT.INIT_PEND v) false)) ∧
    (sha384 r.isec ≠ r.hash → exec (.memoryInitDone v) s = .next (s.initFails r 0x0C))) ∧
  (∀ (v : Fin 16) (ups : List (Bool × Fin 262144 × List (Fin 2072))),
    (s.cfg.commits.any fun c => c.vats.contains v.val && c.closing.isSome && s.commitBusy c.vats) = false →
    (s.img.op = none → exec (.commitCloseDone v ups) s = .next (s.commitCloseEnd v false ups)) ∧
    (∀ (c : Commit) (o o' : ImgOp) (h : Hdr),
      (s.cfg.commits.find? fun c => c.vats.contains v.val && c.closing.isSome) = some c → s.img.op = some o → o.closed = 1 →
      (o.header.map (·.vats)) = some c.vats → (s.commitCloseEnd v true ups).img.op = some o' → o'.header = some h →
      let u := s.commitCloseEnd v true ups
      ((u.cfg.commits.any fun c => c.vats == h.vats) = true → exec (.commitCloseDone v ups) s = .next (u.imgReject o' 0x0D)) ∧
      ((u.cfg.commits.any fun c => c.vats == h.vats) = false → exec (.commitCloseDone v ups) s =
        .next ((u.setImg 0 (some { o' with closed := 2 })).imgEnds { o' with closed := 2 } h))))

/-- The requests for images (R241 to R244): t is the state after a request has been received. An order is accepted with its
effect and answered, a chunk is the first of its image or the next; what is refused is refused with the REASON of R491. The
model's choices in its clauses: notes/assumptions/48 and 52.md. -/
def Obligations.ImageRequestsRun : Prop := ∀ (s t : State) (e : ImmEnv) (body : List Byte),
  let h := e.port.val
  let bs := body.drop 8
  let off := field body 4 4
  let last := field body 1 1 == 1
  let k := field body 0 1
  (s.receive false e 0x0021 body = (t, true) →
    exec (.imgCommit e body) s = .next ((t.slotOrder e 2 body).1.finish e 0x0021 (t.slotOrder e 2 body).2)) ∧
  (s.receive false e 0x0023 body = (t, true) →
    exec (.imgVerify e body) s = .next ((t.slotOrder e 4 body).1.finish e 0x0023 (t.slotOrder e 4 body).2)) ∧
  (body.length = 1 → k < 8 → t.imgModeOk = true → t.img.op = none →
    (s.receive false e 0x0021 body = (t, true) →
      ((goodHeader (t.celBytes (slotOff k) 392)).bind fun x => t.imgAdmit h 2 x.vats) = none →
      exec (.imgCommit e body) s =
        .next ((t.imgAccept { kind := 2, slot := k, host := h, rseq := e.seq.toNat }).respondTo e 0x0021 0 [])) ∧
    (s.receive false e 0x0023 body = (t, true) →
      ((goodHeader (t.celBytes (slotOff k) 392)).bind fun x => t.imgAdmit h 4 x.vats) = none →
      exec (.imgVerify e body) s = .next (t.imgAccept { kind := 4, slot := k, host := h, rseq := e.seq.toNat }))) ∧
  (s.receive false e 0x0020 body = (t, true) →
    exec (.imgStage e body) s = .next ((t.chunk e 1 body).1.finish e 0x0020 (t.chunk e 1 body).2)) ∧
  (s.receive false e 0x0022 body = (t, true) →
    exec (.imgStream e body) s = .next ((t.chunk e 3 body).1.finish e 0x0022 (t.chunk e 3 body).2)) ∧
  (8 ≤ body.length → body.length ≤ 1032 → field body 1 1 < 2 → t.imgModeOk = true →
    let head := decide (24 ≤ bs.length) && wordAt bs 1 == 0x49484C44
    let vats := (List.range 16).filter fun v => (wordAt bs 5).testBit v
    (s.receive false e 0x0020 body = (t, true) → k < 8 → t.img.op = none → off = 0 → t.slotInUse k = false →
      (head = true → t.imgAdmit h 1 vats = none) → exec (.imgStage e body) s =
        .next (((t.imgAccept { kind := 1, slot := k, host := h, buf := bs, recvd := bs.length, last := last }).stageWork
          (stageErases k)).respondTo e 0x0020 0 [])) ∧
    (s.receive false e 0x0022 body = (t, true) → t.img.op = none → off = 0 → (head = true → (wordAt bs 4).testBit 1 = false) →
      (head = true → t.imgAdmit h 3 vats = none) → exec (.imgStream e body) s =
        .next ((t.imgAccept { kind := 3, slot := 0, host := h, buf := bs, recvd := bs.length, last := last }).respondTo e 0x0022 0 [])) ∧
    (∀ o, t.img.op = some o → o.host = h → o.last = false → off = o.recvd →
      let u := t.setImg 0 (some { o with buf := o.buf ++ bs, recvd := o.recvd + bs.length, last := last })
      (s.receive false e 0x0020 body = (t, true) → o.kind = 1 → o.slot = k → k < 8 →
        exec (.imgStage e body) s = .next (u.respondTo e 0x0020 0 [])) ∧
      (s.receive false e 0x0022 body = (t, true) → o.kind = 3 → o.slot = 0 →
        exec (.imgStream e body) s = .next (u.respondTo e 0x0022 0 [])))) ∧
  (s.receive false e 0x0024 body = (t, true) →
    let w := field body 0 4
    let l := ((List.range 8).map fun i => w / 16 ^ i % 16).takeWhile (· != 15)
    (body.length ≠ 4 → exec (.bootSet e body) s = .next (t.refuse e 0x0024 0x07 0 0xFF)) ∧
    (body.length = 4 → h ≠ t.devOwner → exec (.bootSet e body) s = .next (t.refuse e 0x0024 0x02 0 0xFF)) ∧
    (body.length = 4 → h = t.devOwner → t.imgModeOk = true → (l.any fun n => decide (8 ≤ n)) = false → t.img.op = none →
      exec (.bootSet e body) s = .next ((t.bootUpdate fun x => putBytes x 8 (leBytes 4 w)).respondTo e 0x0024 0 [])))

/-- Staging, module loads and the start of the Starter's firmware (R217, R240, R241, R245, R270 to R272, R521, R546), in the
states in which they act. The model's choices in its clauses: notes/assumptions/40, 43, 47, 49 and 62.md. -/
def Obligations.ImageEventsRun : Prop := ∀ s : State,
  (∀ o, s.img.op = some o → o.kind = 1 ∨ o.kind = 3 → o.last = false → s.img.work = [] →
    exec .imageSendTimeout s = .next (s.imgReject o 0x0F)) ∧
  (s.img.flight = false → (s.img.work = [] → s.img.op = none → exec .stagingEraseReissue s = .next s) ∧
    (∀ (w : CelOp) (rest : List CelOp) (o : ImgOp), s.img.work = w :: rest → s.img.op = some o →
      let r := s.celStart w
      let busy := r.1.rd (CEL.BSTAT.RESULT (bankOf w.sector)) = 2
      (r.2 = true → exec .stagingEraseReissue s = .next { r.1 with img := { r.1.img with flight := true } }) ∧
      (r.2 = false → busy → exec .stagingEraseReissue s = .next r.1) ∧
      (r.2 = false → ¬ busy → exec .stagingEraseReissue s = .next (r.1.rejectOp o 0x0D)))) ∧
  (∀ (v : Fin 16) (m : ModLoad), s.modHead = some m → m.vat = v.val → m.phase = 0 → s.img.mod = none → s.underTest v = false →
    exec (.moduleLoadStart v) s =
      let u := s.setMod m.vat fun m => some { m with phase := 1 }
      .next ({ u with img := { u.img with mod := some { kind := 6, slot := 0xF, host := u.ownerOf m.vat } } } : State).showSwaps) ∧
  (∀ (v : Fin 16) (m : ModLoad) (o : ImgOp) (h : Hdr), s.modHead = some m → s.img.mod = some o → o.header = some h →
    m.vat = v.val → m.phase = 1 ∨ m.phase = 2 → o.phase = 3 → o.pos = h.fsecEnd →
    (modFault o h m = none → 256 < s.shadowTaken - m.need + s.shadowMore m → exec (.moduleLoadDone v) s = .next (s.modFail v 3 0)) ∧
    (modFault o h m = none → s.shadowTaken - m.need + s.shadowMore m ≤ 256 → exec (.moduleLoadDone v) s =
      let u := m.frames.foldl (fun (u : State) n =>
        let u := u.setVol n true
        u.setShadow n (if u.frameDyn n then some (u.liveFrame n) else none)) s
      let u : State := { u with img := { u.img with mod := none } }
      .next ((u.setMod v fun m => some { m with phase := 3 }).modEnds { m with result := 0, reason := 0 })) ∧
    (∀ c, modFault o h m = some c → exec (.moduleLoadDone v) s = .next (s.imgReject o c))) ∧
  (∀ v : Fin 16, (s.cfg.mods.any fun m => m.vat == v.val && m.phase == 3) = true →
    exec (.moduleRegionRelease v) s = .next (s.modOver v)) ∧
  (∀ (v : Fin 16) (m : ModLoad), (s.cfg.mods.find? fun m => m.vat == v.val && m.phase == 5) = some m →
    exec (.moduleLoadRestore v) s = .next (((s.restoreRegion m).setMod v fun m => some { m with phase := 4 }).modEnds m)) ∧
  (∀ v : Fin 16, (s.cfg.mods.any fun m => m.vat == v.val && m.phase == 4) = true →
    exec (.moduleRestoreDone v) s = .next (s.modOver v)) ∧
  (∀ copy : Fin 2, s.mode = M.boot → s.pwr.held = false → s.pwr.rst = none → s.pwr.fw = false →
    s.bit CLK.ROOT_STAT.LOCK = true → exec (.starterFirmwareStart copy) s =
      let lost := s.pwr.lostArms
      let u := ({ s with pwr := { s.pwr with fw := true, lostArms := [] }, cel := { s.cel with bootFw := copy.val } } : State).mpStart
      let cause := u.rd PWR.RST_CAUSE.CAUSE
      let u := u.raiseDev EV.bootCause 0 [(u.reg PWR.RST_CAUSE.CAUSE.off).toNat, (u.reg PWR.WAKE_CAUSE.SRC.off).toNat]
      let u := if cause = 1 ∨ cause = 2 then u.raiseDev EV.powerLoss 0 [u.rd PWR.RST_CAUSE.SUPPLY] else u
      let u := lost.foldl (fun (u : State) k => u.logEvent ⟨EV.armCancelled.code, EV.armCancelled.sev, k, k, [k]⟩) u
      .next (if u.lcs.code = 3 ∧ u.lcs.eraseDone = false then u.retire.enterFallback
        else if u.cel.erasePend then u.lowerLevel.enterFallback
        else if u.shellLoadable then u.powerUpLoad
        else ({ u with img := { u.img with boot := 0 } } : State).bootNext))

/-- Key slots and the life cycle (R544 to R550): t is the state after the KEY_OP request has been received. A key is written
or erased at once, or deferred while its slot is in use (STATUS 2); the life cycle advances where its conditions hold; the
device owner alone has the right. The model's choices in its clauses: notes/assumptions/52 and 74.md. -/
def Obligations.KeysRun : Prop := ∀ (s t : State) (e : ImmEnv) (body : List Byte),
  let k := slotBit (field body 0 1)
  let op : Byte → Prop := fun n => s.receive false e 0x0042 (n :: body) = (t, true)
  (3 ≤ body.length → e.port.val = t.devOwner →
    (∀ j, op 1 → k = some j → (body.drop 3).length = keyLen j →
      (j < 4 → p384.on (beNum ((body.drop 3).take 48), beNum ((body.drop 3).drop 48)) = true) →
      exec (.keyWrite e body) s = .next ((t.keyChange j (some (body.drop 3))).1.finish e 0x0042 (t.keyChange j (some (body.drop 3))).2)) ∧
    (∀ j, op 2 → k = some j → body.length = 3 →
      exec (.keyErase e body) s = .next ((t.keyChange j none).1.finish e 0x0042 (t.keyChange j none).2)) ∧
    (∀ j, (t.lcs.defer.any fun d => d.slot == j) = false → (t.sigRuns.filter fun r => r.1 == j) = [] →
      (∀ key, t.keyAllowed j true = true → t.keyChange j (some key) = (t.setKey j (some key), .ok 0 [])) ∧
      (t.keyAllowed j false = true → t.keyChange j none = (t.setKey j none, .ok 0 []))) ∧
    (op 1 → k = none → exec (.keyWrite e body) s = .next (t.refuse e 0x0042 0x07 1 0xFF)) ∧
    (op 2 → k = none → exec (.keyErase e body) s = .next (t.refuse e 0x0042 0x07 1 0xFF)) ∧
    (op 3 → body.length = 3 → exec (.keyStatus e body) s =
      let bits := fun (p : Nat → Bool) => (List.range 9).foldl (fun n k => if p k then n + 2 ^ k else n) 0
      .next (t.respondTo e 0x0042 0 ([BitVec.ofNat 8 t.lcs.code, 0#8] ++ numBe 2 (bits fun k => (t.key k).isSome) ++
        numBe 2 (bits fun k => t.lcs.defer.any fun d => d.slot == k) ++ [0#8, 0#8] ++
        ((List.range 4).flatMap fun k => match t.key k with | some v => sha384 v | none => List.replicate 48 0)))) ∧
    (op 4 → body.length = 3 → t.lcs.blowing = none → t.mayAdvance (field body 0 1) = true → exec (.advance e body) s =
      .next (({ t with lcs := { t.lcs with blowing := some (field body 0 1) } } : State).respondTo e 0x0042 0 [])) ∧
    (op 4 → body.length = 3 → t.lcs.blowing = none → t.mayAdvance (field body 0 1) = false → exec (.advance e body) s =
      .next (t.refuse e 0x0042 0x09 0 0xFF))) ∧
  (3 ≤ body.length → e.port.val ≠ t.devOwner →
    (op 1 → exec (.keyWrite e body) s = .next (t.refuse e 0x0042 0x02 0 0xFF)) ∧
    (op 2 → exec (.keyErase e body) s = .next (t.refuse e 0x0042 0x02 0 0xFF)) ∧
    (op 3 → exec (.keyStatus e body) s = .next (t.refuse e 0x0042 0x02 0 0xFF)) ∧
    (op 4 → exec (.advance e body) s = .next (t.refuse e 0x0042 0x02 0 0xFF))) ∧
  (∀ n, s.lcs.blowing = some n → exec .lifeCycleFuseBlown s =
    .next (({ s with lcs := { s.lcs with code := n, blowing := none },
                     mgt := { s.mgt with lateAct := some (.lcReset 0xA) } } : State).raiseDev EV.lcsChange 0 [s.lcs.code, n])) ∧
  (∀ (j : Fin 9) (d : KeyWait), (s.lcs.defer.find? fun d => d.slot == j.val) = some d →
    (d.checks.any fun n => s.sigRuns.any fun r => r.2 == n) = false → exec (.keyDeferredComplete j) s =
      .next ((({ s with lcs := { s.lcs with defer := s.lcs.defer.filter fun x => x.slot != j.val } } : State).setKey j d.key).raiseDev
        EV.keyDone j [j]))

/-- Reception of a request (R477 to R479, R483, R490): a frame for the port with a good CRC and form. In the open session,
with a MAC that verifies and the next SEQ, it is accepted: it takes a request slot, and what its ACKNO passes is dropped. A
duplicate is acknowledged again; outside a session the first 16 of a port in a second are taken. The model's choices in its
clauses: notes/assumptions/45 and 53.md. -/
def Obligations.RequestsReceived : Prop := ∀ (s : State) (bare : Bool) (e : ImmEnv) (code : Nat) (body : List Byte),
  s.frameTaken e = true →
  let h := e.port.val
  let u := s.bump (MGT.RX_CNT h)
  (immCrcOk e code body = false → s.receive bare e code body = (u.bump (MGT.CRC_CNT h), false)) ∧
  (immCrcOk e code body = true → immFormed e 1 body = true →
    (e.auth = true → u.macEpoch e code body = none → s.receive bare e code body = (u.bump (MGT.MAC_CNT h), false)) ∧
    (e.auth = true → (u.macEpoch e code body).isSome = true → ∀ y, ((u.ackTo h e.ackno.toNat).host h).sess = some y →
      let w := u.ackTo h e.ackno.toNat
      (y.expSeq = e.seq.toNat → y.slots.length < 256 → s.receive bare e code body =
        (w.setHost h { w.host h with sess := some { y with
          expSeq := (y.expSeq + 1) % 65536, hostEpoch := if y.expSeq = 65535 then y.hostEpoch + 1 else y.hostEpoch,
          slots := y.slots ++ [⟨e.seq.toNat, none⟩], ackDue := true } }, true)) ∧
      (y.expSeq = e.seq.toNat → 256 ≤ y.slots.length → s.receive bare e code body = (w.bump (MGT.OOS_CNT h), false)) ∧
      (65280 ≤ (e.seq.toNat + 65536 - y.expSeq) % 65536 → s.receive bare e code body = ((w.bump (MGT.DUP_CNT h)).sendAck h, false)) ∧
      (0 < (e.seq.toNat + 65536 - y.expSeq) % 65536 → (e.seq.toNat + 65536 - y.expSeq) % 65536 < 65280 →
        s.receive bare e code body = (w.bump (MGT.OOS_CNT h), false))) ∧
    (e.auth = false → e.seq = 0 → e.ackno = 0 → e.sid = 0 → (e.mac.all (· == 0)) = true → bare = true →
      ((u.host h).unauth < 16 → s.receive bare e code body =
        (u.setHost h { u.host h with unauth := (u.host h).unauth + 1 }, true)) ∧
      (16 ≤ (u.host h).unauth → s.receive bare e code body = (u.bump (MGT.UNAUTH_DROP h), false))))

/-- R479, R314: a request that is not received does nothing but what its reception counts; one whose accesses the Starter
would issue while its initiator cannot send waits (notes/assumptions/83.md). The model's choices in its clauses:
notes/assumptions/45.md. -/
def Obligations.UnreceivedRequestsDoNothing : Prop := ∀ (s : State) (e : ImmEnv) (body : List Byte) (k : Byte),
  (∀ bare code b c, (bare, code, b, c) ∈ ([(true, 0x0001, body, .identify e body), (true, 0x0002, body, .sessionInit e body),
      (false, 0x0004, body, .sessionClose e body), (false, 0x0010, body, .regRd e body), (false, 0x0011, body, .regWr e body),
      (false, 0x0012, body, .memRd e body), (false, 0x0013, body, .memWr e body), (false, 0x0014, body, .stats e body),
      (false, 0x0020, body, .imgStage e body), (false, 0x0021, body, .imgCommit e body), (false, 0x0022, body, .imgStream e body),
      (false, 0x0023, body, .imgVerify e body), (false, 0x0024, body, .bootSet e body), (false, 0x0030, body, .planeOp e body),
      (false, 0x0031, body, .immVatReset e body), (false, 0x0040, body, .immReset e body), (false, 0x0041, body, .immPower e body),
      (false, 0x0042, 1 :: body, .keyWrite e body), (false, 0x0042, 2 :: body, .keyErase e body),
      (false, 0x0042, 3 :: body, .keyStatus e body), (false, 0x0042, 4 :: body, .advance e body),
      (false, 0x0050, body, .logRead e body), (false, 0x0043, 1 :: body, .celOpRead e body),
      (false, 0x0043, 2 :: body, .celOpProgram e body), (false, 0x0043, 3 :: body, .celOpErase e body),
      (false, 0x0043, 4 :: body, .setLevel e body), (false, 0x0043, 5 :: body, .bbtRead e body),
      (false, 0x0043, 6 :: body, .celOpStatus e body), (false, 0x0044, 1 :: body, .bistRunTest e body),
      (false, 0x0044, 2 :: body, .bistRunFuse e body), (false, 0x0044, 3 :: body, .bistRunStatus e body),
      (false, 0x0044, 4 :: body, .bistRunDefectRead e body), (false, 0x0060, body, .dbgOpen e body),
      (false, 0x0061, body, .dbgAuth e body), (false, 0x0062, body, .dbgClose e body), (false, 0x0063, body, .dbgRd e body),
      (false, 0x0064, body, .dbgWr e body), (false, 0x0065, [k, 0], .dbgRunHalt e k), (false, 0x0065, [k, 1], .dbgRunResume e k),
      (false, 0x0065, [k, 2], .dbgRunStep e k), (false, 0x0065, [k, 3], .dbgRunStatus e k),
      (false, 0x0066, body, .dbgCpu e body), (false, 0x0067, body, .dbgBkpt e body)] : List (Bool × Nat × List Byte × Instr)) →
    (code ∉ [0x10, 0x11, 0x12, 0x13, 0x63, 0x64] ∨ s.initHeld ID.starter = false → (s.receive bare e code b).2 = false →
      exec c s = .next (s.receive bare e code b).1) ∧
    (code ∈ [0x10, 0x11, 0x12, 0x13, 0x63, 0x64] → s.initHeld ID.starter = true → exec c s = .next s))

/-- The requests of a session (R480 to R482, R486 to R491, R496, R519, R522, R534): t is the state after the request has been
received. What each does and answers, and the REASON where its form or its right is missing. The model's choices in its
clauses: notes/assumptions/17, 45, 51, 52, 53, 54, 55 and 75.md. -/
def Obligations.RequestsRun : Prop := ∀ (s t : State) (e : ImmEnv) (body : List Byte),
  let h := e.port.val
  let v := field body 0 1
  let n := field body 2 2
  let ok : Nat → State → List Byte → Host.Outcome State Fault Refusal := fun code u b => .next (u.respondTo e code 0 b)
  let no : Nat → Nat → Nat → Nat → Host.Outcome State Fault Refusal := fun code r a v => .next (t.refuse e code r a v)
  (s.receive true e 0x0001 body = (t, true) → (body.length = 2 → exec (.identify e body) s =
    ok 0x0001 t (numBe 16 Config.uid.toNat ++ numBe 4 0x8420 ++ [BitVec.ofNat 8 t.lcs.code, 0#8] ++
      numBe 2 (Config.cert t.lcs.idKey).length ++ ((Config.cert t.lcs.idKey).drop (field body 0 2)).take 1024)) ∧
    (body.length ≠ 2 → exec (.identify e body) s = no 0x0001 0x07 0 0xFF)) ∧
  (s.receive true e 0x0002 body = (t, true) →
    (∀ hk z, body.length = 81 → t.secretOf (4 + h) = some hk → ecdhP256 (Config.idPriv t.lcs.idKey) (body.take 65) = some z →
      exec (.sessionInit e body) s =
        let sid := Config.freeNat t.freeCtr % 65535 + 1
        let nd := leBytes 16 (Config.freeLine (t.freeCtr + 1)).toNat
        let x := body ++ nd ++ numBe 2 sid ++ [BitVec.ofNat 8 h]
        let k0 := hmac hk (z ++ x)
        let u : State := { t with freeCtr := t.freeCtr + 2 }
        ok 0x0002 (u.setHost h { u.host h with hs := some ⟨sid, k0, x, e.src.toNat⟩ })
          (numBe 2 sid ++ nd ++ (hmac k0 (0x44#8 :: x)).take 16)) ∧
    (body.length = 81 → t.secretOf (4 + h) = none → exec (.sessionInit e body) s = no 0x0002 0x09 0 0xFF) ∧
    (body.length ≠ 81 → exec (.sessionInit e body) s = no 0x0002 0x07 0 0xFF)) ∧
  (∀ x, (s.host h).hs = some x → e.sid.toNat = x.sid → e.seq = 0 → immMacOk e 0x0003 body (streamKey x.k0 1) 0 = true →
    s.frameTaken e = true → immCrcOk e 0x0003 body = true → immFormed e 1 body = true → e.auth = true →
    let u := s.bump (MGT.RX_CNT h)
    (body = (hmac x.k0 (0x48#8 :: x.t)).take 16 → exec (.sessionFinish e body) s = .next (u.openSession e x)) ∧
    (body ≠ (hmac x.k0 (0x48#8 :: x.t)).take 16 → exec (.sessionFinish e body) s =
      .next ((u.setHost h { u.host h with hs := none }).refuse e 0x0003 0x02 0 0xFF))) ∧
  ((s.host h).hs = none → s.receive false e 0x0003 body = (t, true) → exec (.sessionFinish e body) s = no 0x0003 0x02 0 0xFF) ∧
  (s.receive false e 0x0004 body = (t, true) →
    (body = [] → exec (.sessionClose e body) s = .next ((t.respondTo e 0x0004 0 []).closeSession h false)) ∧
    (body ≠ [] → exec (.sessionClose e body) s = no 0x0004 0x07 0 0xFF)) ∧
  (s.initHeld ID.starter = false → s.receive false e 0x0010 body = (t, true) →
    (regForm body 0 = none → t.ownsVat h v = true → exec (.regRd e body) s =
      let c := runAccesses (fun u i => let r := u.immRead v false (regAddr (field body 4 4 + 4 * i)) 4
        (r.1, r.2.1, r.2.2.reverse)) t (List.range n)
      .next (c.s.finish e 0x0010 (c.reply v true))) ∧
    (regForm body 0 = none → t.ownsVat h v = false → exec (.regRd e body) s = no 0x0010 0x02 0 v) ∧
    (∀ i, regForm body 0 = some i → exec (.regRd e body) s = no 0x0010 0x07 i 0xFF)) ∧
  (s.initHeld ID.starter = false → s.receive false e 0x0011 body = (t, true) →
    (regForm body 4 = none → t.ownsVat h v = true → exec (.regWr e body) s =
      let c := runAccesses (fun u i =>
        let r := u.immWrite v false (regAddr (field body 4 4 + 4 * i)) (((body.drop (8 + 4 * i)).take 4).reverse)
        (r.1, r.2, [])) t (List.range n)
      .next (c.s.finish e 0x0011 (c.reply v false))) ∧
    (regForm body 4 = none → t.ownsVat h v = false → exec (.regWr e body) s = no 0x0011 0x02 0 v) ∧
    (∀ i, regForm body 4 = some i → exec (.regWr e body) s = no 0x0011 0x07 i 0xFF)) ∧
  (s.initHeld ID.starter = false → s.receive false e 0x0012 body = (t, true) →
    let l := linePieces (n / 64 + 2) (field body 4 8) n
    (memForm body false = none → t.ownsVat h v = true → t.celBarsImm h l = false → exec (.memRd e body) s =
      let c := runAccesses (fun u (p : Nat × Nat) => u.immRead v false p.1 p.2) t l
      .next (c.s.finish e 0x0012 (c.reply v true))) ∧
    (memForm body false = none → t.ownsVat h v = true → t.celBarsImm h l = true →
      exec (.memRd e body) s = no 0x0012 0x0A t.cel.level v) ∧
    (memForm body false = none → t.ownsVat h v = false → exec (.memRd e body) s = no 0x0012 0x02 0 v) ∧
    (∀ i, memForm body false = some i → exec (.memRd e body) s = no 0x0012 0x07 i 0xFF)) ∧
  (s.initHeld ID.starter = false → s.receive false e 0x0013 body = (t, true) →
    let a := field body 4 8
    (memForm body true = none → t.ownsVat h v = true → exec (.memWr e body) s =
      let c := runAccesses (fun u (p : Nat × Nat) =>
        let r := u.immWrite v false p.1 ((body.drop (12 + (p.1 - a))).take p.2)
        (r.1, r.2, [])) t (linePieces (n / 64 + 2) a n)
      .next (c.s.finish e 0x0013 (c.reply v false))) ∧
    (memForm body true = none → t.ownsVat h v = false → exec (.memWr e body) s = no 0x0013 0x02 0 v) ∧
    (∀ i, memForm body true = some i → exec (.memWr e body) s = no 0x0013 0x07 i 0xFF)) ∧
  (s.receive false e 0x0014 body = (t, true) → body.length = 4 → v < 16 →
    (∀ l, t.ownsVat h v = true → t.statsOf v (field body 1 1) n = some l →
      exec (.stats e body) s = ok 0x0014 t (l.flatMap t.ctrBytes)) ∧
    (t.ownsVat h v = true → t.statsOf v (field body 1 1) n = none → exec (.stats e body) s = no 0x0014 0x07 1 v) ∧
    (t.ownsVat h v = false → exec (.stats e body) s = no 0x0014 0x02 0 v)) ∧
  (s.receive false e 0x0030 body = (t, true) → body.length = 16 → v ∈ [1, 2, 3, 5, 8, 9] → field body 4 2 ≤ 60000 →
    (∀ x ∈ maskVats n, t.ownerOf x = h) →
    let u := if v = 1 then t.setWins (maskVats n) (field body 4 2) else t
    let r := u.orderOp v (maskVats n) 0
    (r.2.1 = 0 ∨ r.2.1 = 0x0A → exec (.planeOp e body) s = ok 0x0030 r.1 []) ∧
    (r.2.1 ≠ 0 → r.2.1 ≠ 0x0A → exec (.planeOp e body) s =
      .next (((t.wr CFG.OP_VATS.VATS n).opStat r.2.1 r.2.2).refuse e 0x0030 (if r.2.1 = 0x0D then 0x06 else 0x03)
        (if r.2.1 = 0x0D then t.mode else r.2.1) r.2.2))) ∧
  (s.receive false e 0x0030 body = (t, true) → body.length = 16 → v = 4 → field body 1 1 < 8 → field body 4 2 ≤ 60000 →
    field body 12 4 < 2 ^ 30 → (∀ x ∈ maskVats n, t.ownerOf x = h) →
    let u := (t.setArm (maskVats n) (field body 1 1) (field body 6 6) (field body 12 4)).setWins (maskVats n) (field body 4 2)
    let r := u.orderOp 4 (maskVats n) 0
    (r.2.1 = 0 ∨ r.2.1 = 0x0A → exec (.planeOp e body) s = ok 0x0030 r.1 []) ∧
    (r.2.1 ≠ 0 → r.2.1 ≠ 0x0A → exec (.planeOp e body) s =
      .next (((t.wr CFG.OP_VATS.VATS n).opStat r.2.1 r.2.2).refuse e 0x0030 (if r.2.1 = 0x0D then 0x06 else 0x03)
        (if r.2.1 = 0x0D then t.mode else r.2.1) r.2.2))) ∧
  (s.receive false e 0x0031 body = (t, true) → body.length = 8 → v < 16 → field body 1 1 < 2 → 1 ≤ field body 4 4 →
    field body 4 4 ≤ 1000000 →
    (t.ownsVat h v = true → v ≠ 0 → exec (.immVatReset e body) s =
      ok 0x0031 ((t.setRstReq v (max (tget t.cfg.rstReq v 0) (1 + field body 1 1))).setHold v (field body 4 4 + 1)) []) ∧
    (t.ownsVat h v = true → v = 0 → exec (.immVatReset e body) s = no 0x0031 0x03 0 v) ∧
    (t.ownsVat h v = false → exec (.immVatReset e body) s = no 0x0031 0x02 0 v)) ∧
  (s.receive false e 0x0040 body = (t, true) → body.length = 1 → v = 1 ∨ v = 2 →
    (h = t.devOwner → t.mgt.lateAct = none → exec (.immReset e body) s =
      ok 0x0040 { t with mgt := { t.mgt with lateAct := some (.reset v h) } } []) ∧
    (h = t.devOwner → t.mgt.lateAct.isSome = true → exec (.immReset e body) s = no 0x0040 0x05 0 0xFF) ∧
    (h ≠ t.devOwner → exec (.immReset e body) s = no 0x0040 0x02 0 0xFF)) ∧
  (s.receive false e 0x0041 body = (t, true) → body.length = 8 → 1 ≤ v → v ≤ 3 →
    (h = t.devOwner → (t.mode = M.run ∨ t.mode = M.fallback) → t.mgt.lateAct = none → t.powerRefused v = false →
      exec (.immPower e body) s =
        ok 0x0041 { t with mgt := { t.mgt with lateAct := some (.power v (field body 4 4)) } } []) ∧
    (h = t.devOwner → t.mode ≠ M.run → t.mode ≠ M.fallback → exec (.immPower e body) s = no 0x0041 0x06 t.mode 0xFF) ∧
    (h ≠ t.devOwner → exec (.immPower e body) s = no 0x0041 0x02 0 0xFF)) ∧
  (s.receive false e 0x0050 body = (t, true) → body.length = 8 → v < 2 → 1 ≤ n → n ≤ 16 →
    ((v = 1 → h = t.devOwner) → exec (.logRead e body) s =
      let r := t.logRead (v == 1) n (field body 4 4) fun v => h == t.devOwner || (decide (v < 16) && t.ownerOf v == h)
      ok 0x0050 t (numBe 4 r.1 ++ turnEntries (if v = 1 then audFields else evFields) (r.2.length / 64) r.2)) ∧
    (v = 1 → h ≠ t.devOwner → exec (.logRead e body) s = no 0x0050 0x02 0 0xFF))

/-- The management link's own events (R476, R482 to R484, R490, R491, R494 to R496, R499): acknowledgement and retransmission,
refusals, events and loss summaries as they are sent, the rate of a port, the SMBus reads. The model's choices in its clauses:
notes/assumptions/4, 53 and 54.md. -/
def Obligations.ManagementLinkRuns : Prop := ∀ (s : State) (h : Fin 4),
  (∀ e : ImmEnv, s.frameTaken e = true →
    let u := s.bump (MGT.RX_CNT e.port)
    (immCrcOk e 0 [] = true → immFormed e 4 [] = true → e.auth = true → e.seq = 0 → (u.macEpoch e 0 []).isSome = true →
      exec (.immAck e) s = .next (u.ackTo e.port e.ackno.toNat)) ∧
    (immCrcOk e 0 [] = true → immFormed e 4 [] = true → e.auth = true → e.seq = 0 → u.macEpoch e 0 [] = none →
      exec (.immAck e) s = .next (u.bump (MGT.MAC_CNT e.port))) ∧
    (immCrcOk e 0 [] = false → exec (.immAck e) s = .next (u.bump (MGT.CRC_CNT e.port)))) ∧
  (∀ e : ImmEnv, s.frameTaken e = false → exec (.immAck e) s = .next s) ∧
  (∀ y, (s.host h).sess = some y → y.unacked ≠ [] →
    (15 ≤ y.expiries → exec (.immRetransmitExpiry h) s = .next ((s.bump (MGT.RTX_CNT h)).closeSession h true)) ∧
    (y.expiries < 15 → exec (.immRetransmitExpiry h) s =
      let u := (s.bump (MGT.RTX_CNT h)).bump (MGT.TX_CNT h) y.unacked.length
      .next (u.setHost h { u.host h with sess := some { y with expiries := y.expiries + 1 }, lastTx := y.unacked.getLast? }))) ∧
  (∀ y, (s.host h).sess = some y →
    (y.ackDue = true → exec (.standaloneAckTimer h) s = .next (s.sendAck h)) ∧
    exec (.sessionIdleTimeout h) s = .next (s.closeSession h true)) ∧
  (∀ r rs, (s.host h).refusing = r :: rs →
    let u := (s.setHost h { s.host h with refusing := rs }).bump (MGT.REFUSED_CNT h)
    let u := u.audit ⟨u.now, h, r.reason, r.code, r.rseq, r.sid, r.arg, r.vat⟩
    (r.auth = false → exec (.refusalResponse h) s = .next (u.sendBare h r.src r.code 1 r.rseq [])) ∧
    (∀ y, r.auth = true → (s.host h).sess = some y → exec (.refusalResponse h) s =
      let slots := y.slots.map fun (t : ReqSlot) => if t.rseq = r.rseq ∧ t.rsp.isNone then { t with rsp := some y.nextSeq } else t
      .next ((u.setHost h { u.host h with sess := some { y with slots := slots } }).sendMsg h 2 r.code 1 r.rseq []))) ∧
  (∀ y ev, (s.host h).sess = some y → (s.host h).nextEvent = some ev → y.events < 256 → exec (.eventSend h) s =
    let x := s.host h
    let q := mapFirst (fun (e : EvEntry) => e.id == ev.id && e.sent.isNone) (fun e => { e with sent := some y.nextSeq }) x.queue
    let u := s.setHost h { x.takeToken ev.d.sev with queue := q }
    .next ((u.sendMsg h 3 ev.d.code 0 0 (evRecord ev)).bump (MGT.EVT_CNT h))) ∧
  (∀ y, (s.host h).sess = some y → 256 ≤ y.events → exec (.eventSend h) s = .next s ∧ exec (.eventsLostSend h) s = .next s) ∧
  (∀ y l, (s.host h).sess = some y → (s.host h).loss = some l → y.events < 256 → exec (.eventsLostSend h) s =
    let x := s.host h
    let sev := if l.counts.getD 0 0 + l.counts.getD 1 0 = 0 then 2 else 1
    let d : EvData := ⟨EV.eventsLost.code, sev, 0xFF, 0, l.counts⟩
    let u := (s.setHost h { x with loss := none, lossSent := x.lossSent ++ [{ l with sent := some y.nextSeq }] }).logEvent d
    .next ((u.sendMsg h 3 d.code 0 0 (evRecord ⟨0, d, min (2 ^ 32 - 1) l.counts.sum, l.first, u.now, none⟩)).bump
      (MGT.EVT_CNT h))) ∧
  (s.pwr.fw = true → s.bit (MGT.MP_CTL.EN h) = true → s.rd (MGT.MP_CTL.RATE h) = 2 →
    s.bit (FEN.PORT_STAT.LINK (96 + h.val)) = false →
    exec (.mpRateAlternate h) s = .next (s.mpRun h (1 - s.rd (MGT.MP_STAT.RATE_ACT h)))) ∧
  (s.powered = true → exec .smbusStatusRead s =
    let m := if s.mode = M.boot then 0 else if s.mode = M.fallback then 2 else 1
    let flags := s.alarm.toNat + 2 * s.clk.noref.toNat + 4 * (s.bit CEL.LOG.DEGRADED).toNat
    let bs := [BitVec.ofNat 8 m, BitVec.ofNat 8 s.lcs.code, BitVec.ofNat 8 flags, 0#8] ++
      leBytes 2 s.mgt.critCode ++ leBytes 2 s.mgt.critCnt ++ leBytes 8 s.mgt.critTime
    .next { s with mgt := { s.mgt with smb := bs } }) ∧
  (∀ hi : Bool, s.powered = true → exec (.smbusLastgaspRead hi) s =
    let ws := (List.range 8).map fun k => s.reg (CEL.LASTGASP.W (k + if hi then 8 else 0)).off
    .next { s with mgt := { s.mgt with smb := wordBytes ws } }) ∧
  (∀ hi : Bool, s.powered = false → exec .smbusStatusRead s = .next s ∧ exec (.smbusLastgaspRead hi) s = .next s)

/-- The debug connection and its requests (R500 to R502, R504): t is the state after the request has been received. The
model's choices in its clauses: notes/assumptions/45, 56 and 57.md. -/
def Obligations.DebugConnectionRuns : Prop := ∀ (s t : State) (e : ImmEnv) (body : List Byte),
  let h := e.port.val
  let got : Nat → Prop := fun code => s.receive false e code body = (t, true)
  let no : Nat → Nat → Nat → Host.Outcome State Fault Refusal := fun code r a => .next (t.refuse e code r a 0xFF)
  let n := field body 2 2
  let a := field body 4 8
  (got 0x60 →
    (body.length ≠ 1 ∨ 8 ≤ field body 0 1 → exec (.dbgOpen e body) s = no 0x60 0x07 0) ∧
    (body.length = 1 → field body 0 1 < 8 →
      (t.dbg.conn.isSome = true ∨ t.dbg.chal.isSome = true ∨ t.bit DBG.CTL.LOCK = true →
        exec (.dbgOpen e body) s = no 0x60 0x08 0) ∧
      (t.dbg.conn = none → t.dbg.chal = none → t.bit DBG.CTL.LOCK = false → exec (.dbgOpen e body) s =
        let c := (leBytes 64 (Config.freeLine t.freeCtr).toNat).take 32
        let u : State := { t with freeCtr := t.freeCtr + 1, dbg := { t.dbg with chal := some (h, field body 0 1, c) } }
        .next (u.respondTo e 0x60 0 c)))) ∧
  (got 0x61 →
    (body.length ≠ 32 → exec (.dbgAuth e body) s = no 0x61 0x07 0) ∧
    (body.length = 32 → t.dbg.chal = none → exec (.dbgAuth e body) s = no 0x61 0x08 0) ∧
    (∀ g scope c, body.length = 32 → t.dbg.chal = some (g, scope, c) →
      (g ≠ h → exec (.dbgAuth e body) s = no 0x61 0x08 0) ∧
      (g = h → t.secretOf 8 = none → exec (.dbgAuth e body) s = .next (t.dbgVoid.refuse e 0x61 0x09 0 0xFF)) ∧
      (∀ dk, g = h → t.secretOf 8 = some dk → body ≠ dbgResp dk c h scope →
        exec (.dbgAuth e body) s = .next (t.dbgVoid.refuse e 0x61 0x08 0 0xFF)) ∧
      (∀ dk, g = h → t.secretOf 8 = some dk → body = dbgResp dk c h scope → exec (.dbgAuth e body) s =
        let u : State := { t with dbg := { t.dbg with chal := none, conn := some (h, scope) } }
        .next ((u.raiseDev EV.dbgConnect h []).respondTo e 0x61 0 [])))) ∧
  (exec .dbgChallengeTimeout s = .next { s with dbg := { s.dbg with chal := none } }) ∧
  (got 0x62 →
    (body ≠ [] → exec (.dbgClose e body) s = no 0x62 0x07 0) ∧
    (body = [] → t.dbg.conn.map (·.1) ≠ some h → exec (.dbgClose e body) s = no 0x62 0x08 0) ∧
    (body = [] → t.dbg.conn.map (·.1) = some h → exec (.dbgClose e body) s = .next (t.dbgEnd.respondTo e 0x62 0 []))) ∧
  (s.initHeld ID.starter = false → got 0x63 →
    (∀ i, dbgForm body false = some i → exec (.dbgRd e body) s = no 0x63 0x07 i) ∧
    (dbgForm body false = none → t.dbgMay h 0 = false → exec (.dbgRd e body) s = no 0x63 0x08 0) ∧
    (dbgForm body false = none → t.dbgMay h 0 = true →
      (field body 0 1 = 1 → exec (.dbgRd e body) s =
        let c := runAccesses (fun u i => let r := u.immRead 0 true (regAddr (a + 4 * i)) 4
          (r.1, r.2.1, r.2.2.reverse)) t (List.range (n / 4))
        .next (c.s.finish e 0x63 (c.reply 0 true))) ∧
      (field body 0 1 ≠ 1 → t.celBarsImm h (linePieces (n / 64 + 2) a n) = true → exec (.dbgRd e body) s =
        .next (t.refuse e 0x63 0x0A t.cel.level 0)) ∧
      (field body 0 1 ≠ 1 → t.celBarsImm h (linePieces (n / 64 + 2) a n) = false → exec (.dbgRd e body) s =
        let c := runAccesses (fun u (p : Nat × Nat) => u.dbgRead p.1 p.2) t (linePieces (n / 64 + 2) a n)
        .next (c.s.finish e 0x63 (c.reply 0 true))))) ∧
  (s.initHeld ID.starter = false → got 0x64 →
    (∀ i, dbgForm body true = some i → exec (.dbgWr e body) s = no 0x64 0x07 i) ∧
    (dbgForm body true = none → t.dbgMay h 1 = false → exec (.dbgWr e body) s = no 0x64 0x08 0) ∧
    (dbgForm body true = none → t.dbgMay h 1 = true →
      (field body 0 1 = 1 → exec (.dbgWr e body) s =
        let c := runAccesses (fun u i =>
          let r := u.immWrite 0 true (regAddr (a + 4 * i)) (((body.drop (12 + 4 * i)).take 4).reverse)
          (r.1, r.2, [])) t (List.range (n / 4))
        .next (c.s.finish e 0x64 (c.reply 0 false))) ∧
      (field body 0 1 ≠ 1 → exec (.dbgWr e body) s =
        let c := runAccesses (fun u (p : Nat × Nat) =>
          let r := u.dbgWrite p.1 ((body.drop (12 + (p.1 - a))).take p.2)
          (r.1, r.2, [])) t (linePieces (n / 64 + 2) a n)
        .next (c.s.finish e 0x64 (c.reply 0 false)))))

/-- The processors under the Yapin monitor (R501, R503, R504): run control, registers, breakpoints, the lock. The model's
choices in its clauses: notes/assumptions/50, 56 and 57.md. -/
def Obligations.ProcessorDebugRuns : Prop := ∀ (s t : State) (e : ImmEnv),
  let no : Nat → Nat → Nat → Host.Outcome State Fault Refusal := fun code r a => .next (t.refuse e code r a 0xFF)
  (∀ (core action : Byte) (c : Instr), s.receive false e 0x65 [core, action] = (t, true) →
    (action, c) ∈ [(0, .dbgRunHalt e core), (1, .dbgRunResume e core), (2, .dbgRunStep e core), (3, .dbgRunStatus e core)] →
    (5 ≤ core.toNat → exec c s = no 0x65 0x07 0) ∧
    (core.toNat < 5 → t.dbgMay e.port.val 2 = false → exec c s = no 0x65 0x08 0)) ∧
  (∀ core : Byte, core.toNat < 5 → t.dbgMay e.port.val 2 = true →
    let k := core.toNat
    let halted := t.bit (SVC.CORE_CTL.HALTED k)
    let tells : State → Host.Outcome State Fault Refusal := fun u =>
      .next ((u.runBody k).1.respondTo e 0x65 0 (u.runBody k).2)
    (s.receive false e 0x65 [core, 0] = (t, true) →
      (halted = true → exec (.dbgRunHalt e core) s = tells t) ∧
      (halted = false → exec (.dbgRunHalt e core) s = .next (t.askCore k 1 e))) ∧
    (s.receive false e 0x65 [core, 1] = (t, true) → exec (.dbgRunResume e core) s = tells (t.resumeCore k)) ∧
    (s.receive false e 0x65 [core, 2] = (t, true) →
      (halted = true → exec (.dbgRunStep e core) s = .next (t.askCore k 2 e)) ∧
      (halted = false → exec (.dbgRunStep e core) s = .next (t.refuse e 0x65 0x03 0 0))) ∧
    (s.receive false e 0x65 [core, 3] = (t, true) → exec (.dbgRunStatus e core) s = tells t)) ∧
  (∀ (k : Fin 5) (r : CpuRun),
    let done := fun (u : State) =>
      State.payOwed { u.haltCore k.val r with dbg := { (u.haltCore k.val r).dbg with
        resume := tput (u.haltCore k.val r).dbg.resume k.val 0 0 } } k.val
    (tget s.dbg.resume k.val 0 = 0 → exec (.processorHalted k r) s = .next (s.payOwed k.val)) ∧
    (tget s.dbg.resume k.val 0 ≠ 0 → s.procRuns (coreOf k.val) = false → exec (.processorHalted k r) s = .next s) ∧
    (tget s.dbg.resume k.val 0 ≠ 0 → s.procRuns (coreOf k.val) = true → exec (.processorHalted k r) s = .next (done s))) ∧
  (∀ (k : Fin 5) (i : Fin 4) (r : CpuRun),
    let b := tget s.dbg.bkpts (4 * k.val + i.val) 0
    let u := s.haltCore k.val { r with pc := BitVec.ofNat 64 (b - 1) }
    (b = 0 ∨ s.procRuns (coreOf k.val) = false ∨ s.bit (SVC.CORE_CTL.HALTED k.val) = true →
      exec (.breakpointHit k i r) s = .next s) ∧
    (b ≠ 0 → s.procRuns (coreOf k.val) = true → s.bit (SVC.CORE_CTL.HALTED k.val) = false → exec (.breakpointHit k i r) s =
      .next (({ u with dbg := { u.dbg with resume := tput u.dbg.resume k.val 0 0 } } : State).payOwed k.val))) ∧
  (∀ body : List Byte, s.receive false e 0x66 body = (t, true) →
    let k := field body 0 1
    let kind := field body 1 1
    let n := field body 2 2
    (body.length ≠ 16 ∨ 5 ≤ k → exec (.dbgCpu e body) s = no 0x66 0x07 0) ∧
    (body.length = 16 → k < 5 → 3 ≤ kind → exec (.dbgCpu e body) s = no 0x66 0x07 1) ∧
    (body.length = 16 → k < 5 → kind < 3 → (if kind = 2 then 4096 else 32) ≤ n → exec (.dbgCpu e body) s = no 0x66 0x07 2) ∧
    (body.length = 16 → k < 5 → kind < 3 → n < (if kind = 2 then 4096 else 32) →
      (2 ≤ field body 4 1 → exec (.dbgCpu e body) s = no 0x66 0x07 4) ∧
      (field body 4 1 < 2 → t.dbgMay e.port.val 2 = false → exec (.dbgCpu e body) s = no 0x66 0x08 0) ∧
      (field body 4 1 < 2 → t.dbgMay e.port.val 2 = true → t.bit (SVC.CORE_CTL.HALTED k) = false →
        exec (.dbgCpu e body) s = .next (t.refuse e 0x66 0x03 0 0)) ∧
      (field body 4 1 < 2 → t.dbgMay e.port.val 2 = true → t.bit (SVC.CORE_CTL.HALTED k) = true → exec (.dbgCpu e body) s =
        let u := if field body 4 1 = 1 then t.dbgPut (coreOf k) kind n (BitVec.ofNat 64 (field body 8 8)) else t
        .next (u.respondTo e 0x66 0 (numBe 8 (u.dbgGet (coreOf k) kind n).toNat))))) ∧
  (∀ body : List Byte, s.receive false e 0x67 body = (t, true) →
    let k := field body 0 1
    let i := field body 1 1
    let en := field body 2 1
    (body.length ≠ 12 ∨ 5 ≤ k → exec (.dbgBkpt e body) s = no 0x67 0x07 0) ∧
    (body.length = 12 → k < 5 → 4 ≤ i → exec (.dbgBkpt e body) s = no 0x67 0x07 1) ∧
    (body.length = 12 → k < 5 → i < 4 → 2 ≤ en → exec (.dbgBkpt e body) s = no 0x67 0x07 2) ∧
    (body.length = 12 → k < 5 → i < 4 → en < 2 → t.dbgMay e.port.val 2 = false → exec (.dbgBkpt e body) s = no 0x67 0x08 0) ∧
    (body.length = 12 → k < 5 → i < 4 → en < 2 → t.dbgMay e.port.val 2 = true → exec (.dbgBkpt e body) s =
      let at_ := if en = 1 then field body 4 8 + 1 else 0
      .next (({ t with dbg := { t.dbg with bkpts := tput t.dbg.bkpts (4 * k + i) at_ 0 } } : State).respondTo e 0x67 0 []))) ∧
  (∀ q : Req, s.canWrite q 0x7100000 → exec (.debugLock q) s =
    let u := (s.wrb DBG.CTL.LOCK true).dbgEnd
    .next (({ u with dbg := { u.dbg with chal := none } } : State).tell .okay []))

/-- Vat reset, release, power gating, assignment and module requests (R61, R256 to R281): t is the state that the register's
write leaves before its further effects; each clause is a state in which the command acts, or one in which it is refused. The
model's choices in its clauses: notes/assumptions/33, 36 and 40.md. -/
def Obligations.VatsRun : Prop := ∀ (s : State) (v : Fin 16),
  (tget s.cfg.rstReq v.val 0 ≠ 0 → s.defined v.val = true →
    let u := s.setRstReq v.val 0
    (u.bit (VAT.VAT_STAT.SWAPPING v.val) = false → exec (.vatResetAssertion v) s =
      .next (u.assertReset v.val (u.bit (VAT.VAT_CTRL.CLEAR_MEM v.val) || tget s.cfg.rstReq v.val 0 == 2))) ∧
    (u.bit (VAT.VAT_STAT.SWAPPING v.val) = true → exec (.vatResetAssertion v) s = .next u)) ∧
  (tget s.cfg.rstReq v.val 0 = 0 → exec (.vatResetHoldExpiry v) s = .next (s.setHold v.val 0)) ∧
  (s.mayRelease v.val = true → exec (.vatRelease v) s =
    let u := ((s.wrb (VAT.VAT_STAT.IN_RESET v.val) false).wrb (VAT.VAT_STAT.CLAMPED v.val) false).dropSnap v.val
    let u := (u.sectorsOf v.val).foldl (fun (u : State) sec => u.releaseSector sec) u
    let q := u.fen.qheld.filter (· != v.val)
    let u : State := { u with fen := { u.fen with qheld := if u.bit (VAT.VAT_CTRL.QHOLD v.val) then q ++ [v.val] else q } }
    let u := u.fillVatRegs v.val
    let w : State := { u with cfg := { u.cfg with resetOn := u.cfg.resetOn.filter (· != v.val) } }
    .next (if u.cfg.resetOn.contains v.val then w.vatResetEvent v.val else u)) ∧
  (s.cfg.clearing.contains v.val = true → s.underTest v = false → exec (.memoryFrameReload v) s =
    let frames := (s.sectorsOf v.val).flatMap fun sec =>
      ((List.range 256).map fun t => sectorFrame sec (768 + t)) ++ (List.range 48).map fun i => sectorFrame sec (1072 + i)
    let u := (frames.filter s.frameDyn).foldl (fun (u : State) n => u.reloadFrame v.val n) s
    let u : State := { u with cfg := { u.cfg with clearing := u.cfg.clearing.filter (· != v.val) } }
    .next (u.wantInit v.val)) ∧
  (tget s.cfg.gating v.val 0 = 1 → exec (.vatGatingDone v) s =
    let u := (s.clearVatMems v.val).setGating v.val 0
    let u : State := { u with cfg := { u.cfg with live := tfilter (fun n _ => u.frameVat n != some v.val) u.cfg.live } }
    let u := (u.wrb (VAT.VAT_STAT.GATED v.val) true).closeGates (u.sectorsOf v.val)
    .next ((u.holdSlices (s.inVat v.val)).raiseVat v.val EV.vatGated v.val [v.val, 1])) ∧
  (tget s.cfg.gating v.val 0 = 2 → s.bit (VAT.VAT_STAT.IN_RESET v.val) = false → exec (.vatGatingDone v) s =
    .next ((s.setGating v.val 0).raiseVat v.val EV.vatGated v.val [v.val, 0])) ∧
  (∀ (q : Req) (w : Word), s.canWrite q (0x201000 + 0x100 * v.val) →
    let gate := s.bit (VAT.VAT_CTRL.PWR_GATE v.val)
    let was := s.bit (VAT.VAT_CTRL.RESET v.val)
    let t : Word → State := fun x => s.setReg (0x201000 + 0x100 * v.val) (x &&& 0x1D#32)
    (v.val ≠ 0 → w.getLsbD 3 = gate → tget s.cfg.gating v.val 0 = 0 → exec (.vatResetRequest q v w) s =
      let u := t (w ||| 1#32)
      .next ((if was = false ∧ tget s.cfg.rstReq v.val 0 = 0 then u.setRstReq v.val 1 else u).tell .okay [])) ∧
    (v.val = 0 → exec (.vatResetRequest q v w) s = .next (s.tell .slverr [])) ∧
    (w.getLsbD 3 = gate → tget s.cfg.gating v.val 0 = 0 → exec (.vatReleaseRequest q v w) s =
      .next ((t (w &&& 0xFFFFFFFE#32)).tell .okay [])) ∧
    (w.getLsbD 0 = was → gate = false → s.gateRefused v.val = false → v.val ≠ 0 → exec (.vatPowerGate q v w) s =
      .next (((t (w ||| 8#32)).gateStart v.val).tell .okay [])) ∧
    (gate = false → s.gateRefused v.val = true → exec (.vatPowerGate q v w) s = .next (s.tell .slverr [])) ∧
    (w.getLsbD 0 = was → gate = true → s.gateRefused v.val = false → v.val ≠ 0 → exec (.vatPowerUp q v w) s =
      .next (((t (w &&& 0xFFFFFFF7#32)).ungateStart v.val).tell .okay [])) ∧
    (gate = true → s.gateRefused v.val = true → exec (.vatPowerUp q v w) s = .next (s.tell .slverr []))) ∧
  (∀ (q : Req) (k : Fin 10) (w : Word), s.canWrite q (0x201008 + 0x100 * v.val + 4 * k.val) →
    let x := w &&& assignMask k.val
    (s.assignOpen v.val = true → s.assignClash v.val k.val x = false → ¬ (v.val = 0 ∧ k.val = 1) →
      exec (.resourceAssignWrite q v k w) s = .next ((s.setReg (0x201008 + 0x100 * v.val + 4 * k.val) x).tell .okay [])) ∧
    (s.assignOpen v.val = true → v.val = 0 → k.val = 1 → exec (.resourceAssignWrite q v k w) s = .next (s.tell .okay [])) ∧
    (s.assignOpen v.val = false ∨ s.assignClash v.val k.val x = true →
      exec (.resourceAssignWrite q v k w) s = .next (s.tell .slverr []))) ∧
  (∀ (q : Req) (k : Fin 5) (w : Word), s.canWrite q (0x201040 + 0x100 * v.val + 4 * k.val) →
    exec (.moduleRegionEnable q v k w) s = .next (State.answered (s.mregWrite v.val k.val w)) ∧
    (k.val = 4 → let u := s.wr (VAT.MREG_EN.EN v.val) (wget w 3 0)
      ((List.range 4).any fun r => s.regionBusy v.val r && s.mbit (VAT.MREG_EN.EN v.val) r != u.mbit (VAT.MREG_EN.EN v.val) r) = false →
      u.regionsOk v.val = true → exec (.moduleRegionEnable q v k w) s = .next (u.tell .okay []))) ∧
  (∀ (q : Req) (w : Word), s.canWrite q (0x20106C + 0x100 * v.val) →
    let r := wget w 5 4
    let u := s.setReg (0x20106C + 0x100 * v.val) ((w ||| 1#32) &&& 0x130#32)
    let a := (u.reg (VAT.MLOAD_ADDR_LO.A v.val).off).toNat + 2 ^ 32 * (u.reg (VAT.MLOAD_ADDR_HI.A v.val).off).toNat
    let len := u.rd (VAT.MLOAD_LEN.LEN v.val)
    let need := u.shadowNeeds a len
    (u.modRefusal v.val r need = none → exec (.moduleLoadRequest q v w) s =
      let m : ModLoad := ⟨v.val, r, u.regionRect v.val r, a, len, w.getLsbD 8, q.id, q.vat, 0, 0, 0, [], need⟩
      .next ((({ u with cfg := { u.cfg with mods := u.cfg.mods ++ [m] } } : State).wrb (VAT.MLOAD_STAT.BUSY v.val) true).tell .okay [])) ∧
    (∀ x, u.modRefusal v.val r need = some x → exec (.moduleLoadRequest q v w) s =
      .next ((u.wr (VAT.MLOAD_STAT.RESULT v.val) x).tell .okay [])))

/-- Churn (R282 to R293): each step of a quadrant's scrubbing in the state in which it happens; a clean frame, a corrected
one, a restored one and one that cannot be restored. The model's choices in its clauses: notes/assumptions/73.md. -/
def Obligations.ChurnRuns : Prop := ∀ (s : State) (q : Fin 4),
  (s.churn.active = false → exec .churnPassStart s = .next s.churnStart) ∧
  (∀ bits : List (Fin 2072), s.churn.active = true → s.running = true → s.portHeld q.val = false → s.scrubJob q.val = none →
    s.churnPos q.val < 65536 →
    let n := scrubFrame q.val (s.churnPos q.val)
    let u := s.setChurnPos q.val (s.churnPos q.val + 1)
    let w := u.disturb n (flipBits (u.liveFrame n) bits)
    (u.scrubSkips n = true → exec (.scrubRead q bits) s = .next (u.bump CHURN.SKIP_CNT)) ∧
    (u.scrubSkips n = false → chkFrame (w.liveFrame n) = .clean → exec (.scrubRead q bits) s = .next w) ∧
    (∀ k i f, u.scrubSkips n = false → chkFrame (w.liveFrame n) = .fixed k i f → exec (.scrubRead q bits) s =
      .next (w.setScrubJob q.val (some ⟨n, k, i, some f, false⟩))) ∧
    (u.scrubSkips n = false → chkFrame (w.liveFrame n) = .bad → w.frameVol n = true → exec (.scrubRead q bits) s =
      .next (w.churnReport n 5 0)) ∧
    (u.scrubSkips n = false → chkFrame (w.liveFrame n) = .bad → w.frameVol n = false → exec (.scrubRead q bits) s =
      .next (w.setScrubJob q.val (some ⟨n, 3, 0, none, false⟩)))) ∧
  (∀ (n k i : Nat) (f : Frame) (pr : Bool) (fails : Fin 3) (left : List (Fin 2072)),
    s.scrubJob q.val = some ⟨n, k, i, some f, pr⟩ →
    let u := s.setScrubJob q.val none
    (s.portHeld q.val = true → exec (.correctionWrite q fails left) s = .next s ∧ exec (.restorationWrite q fails left) s = .next s) ∧
    (k < 3 → s.portHeld q.val = false → u.scrubDrops n = false → exec (.correctionWrite q fails left) s =
      .next (u.scrubWrite ⟨n, k, i, some f, pr⟩ f fails.val left)) ∧
    (3 ≤ k → s.portHeld q.val = false → u.scrubDrops n = false → exec (.restorationWrite q fails left) s =
      .next (u.scrubWrite ⟨n, k, i, some f, pr⟩ f fails.val left)) ∧
    (k < 3 → s.portHeld q.val = false → u.scrubDrops n = true → exec (.correctionWrite q fails left) s = .next u) ∧
    (3 ≤ k → s.portHeld q.val = false → u.scrubDrops n = true → exec (.restorationWrite q fails left) s = .next u)) ∧
  (∀ (n k i : Nat) (pr : Bool) (bits : List (Fin 2072)), s.scrubJob q.val = some ⟨n, k, i, none, pr⟩ →
    let u := s.setScrubJob q.val none
    let p := (u.role ((u.frameVat n).getD 0)).cur
    let w := u.setPlane p n (flipBits (u.planeFrame p n) bits)
    (s.portHeld q.val = true → exec (.restorePlaneRead q bits) s = .next s) ∧
    (s.portHeld q.val = false → s.scrubDrops n = false → chkFrame (w.planeFrame p n) = .clean → exec (.restorePlaneRead q bits) s =
      .next (w.setScrubJob q.val (some ⟨n, 3, 0, some (w.planeFrame p n), true⟩))) ∧
    (∀ a b f, s.portHeld q.val = false → s.scrubDrops n = false → chkFrame (w.planeFrame p n) = .fixed a b f → exec (.restorePlaneRead q bits) s =
      .next (((w.setPerr n (p.toNat + 1)).bump CFG.PCORR_CNT).setScrubJob q.val (some ⟨n, 4, 0, some f, true⟩))) ∧
    (s.portHeld q.val = false → s.scrubDrops n = false → chkFrame (w.planeFrame p n) = .bad → exec (.restorePlaneRead q bits) s =
      .next (((w.setPerr n (p.toNat + 1)).bump CFG.PUNC_CNT).churnReport n 6 0)) ∧
    (s.portHeld q.val = false → s.scrubDrops n = true → exec (.restorePlaneRead q bits) s = .next u)) ∧
  (s.churn.active = true → (∀ k < 4, s.churnPos k = 65536 ∧ s.scrubJob k = none) →
    exec .churnPassComplete s = .next (s.churnStop.bump CHURN.PASS_CNT)) ∧
  (s.churn.active = true → s.churn.late = false →
    (∃ k < 4, s.churnPos k ≠ 65536 ∨ (s.scrubJob k).isSome = true) → exec .churnPassLate s =
    .next ((((({ s with churn := { s.churn with late := true } } : State).wrb CHURN.STAT.LATE true).bump CHURN.LATE_CNT).raiseVat 0
      EV.churnLate 0 []))) ∧
  (∀ (r : Req) (w : Word), s.canWrite r 0x300000 →
    let u : Word → State := fun x => s.setReg 0x300000 (x &&& 0x8D#32)
    (s.bit CHURN.CTL.EN = false → exec (.churnEnable r w) s = .next ((u (w ||| 1#32)).churnStart.tell .okay [])) ∧
    (s.bit CHURN.CTL.EN = true → exec (.churnEnable r w) s = .next ((u (w ||| 1#32)).tell .okay [])) ∧
    (s.bit CHURN.CTL.EN = true → exec (.churnDisable r w) s =
      let x := u (w &&& 0xFFFFFFFE#32)
      .next ((x.churnStop.raiseAt x.allOwners EV.churnDisabled 0xFF 0 []).tell .okay [])) ∧
    (s.bit CHURN.CTL.EN = false → exec (.churnDisable r w) s = .next ((u (w &&& 0xFFFFFFFE#32)).tell .okay [])))

/-- The network (R296 to R321): an initiator issues, a router's output grants a flit, tags leave quarantine, caches of the map
are discarded, regulators fill and are bound, and map entries are written. The model's choices in its clauses:
notes/assumptions/10, 12, 13, 14 and 15.md. -/
def Obligations.NetworkRuns : Prop := ∀ s : State,
  (∀ (i : Fin 1024) (rq : NocRq), isInitiator i.val = true → s.islandUp = true →
    (rq.mgmt = true ∨ (procOfId i.val).map (fun c => s.cpuReaches c rq.addr.toNat rq.wr) ≠ some false) →
    (64 ≤ i.val → i.val < 960 → s.vatOfInit i.val ≠ 0xFF ∧ s.bit (VAT.VAT_STAT.CLAMPED (s.vatOfInit i.val)) = false) →
    let d := s.decodeRq i.val (s.vatOfInit i.val) rq
    (d.2.1 = .okay → exec (.nocRequestIssue i rq) s = .next (d.1.offer i.val ⟨d.2.2, s.vatOfInit i.val, false⟩)) ∧
    (d.2.1 ≠ .okay → exec (.nocRequestIssue i rq) s = .next (d.1.deliver i.val rq.tag.val d.2.1 0 false))) ∧
  (∀ (y x : Fin 16) (o : NocOut) (hdrErr payErr : Bool),
    let key := (y.val * 16 + x.val) * 16 + outCode o
    let here := heads [] (s.noc.mesh.filter fun m => m.y == y.val && m.x == x.val)
    let cand := here.filter fun m => s.route m == o && s.credit y.val x.val o m.f.vc
    let g := grant (tget s.noc.streak key 0) (fun v => tget s.noc.rot (key * 4 + v) 7) cand
    (g = none → exec (.flitForward y x o hdrErr payErr) s = .next s) ∧
    (∀ m, g = some m →
      let st := if m.f.vc ≤ 1 ∨ (cand.any fun k => decide (k.f.vc ≤ 1)) = false then 0 else tget s.noc.streak key 0 + 1
      let mesh := (removeOne m s.noc.mesh).map fun k =>
        if k.y = y.val ∧ k.x = x.val ∧ s.route k = o then { k with waited := k.waited + 1 } else k
      let u : State := { s with noc := { s.noc with
        mesh := mesh, streak := tput s.noc.streak key st 0, rot := tput s.noc.rot (key * 4 + m.f.vc) m.inp 7 } }
      let id := 64 * y.val + 4 * x.val + (m.inp - 4)
      let u := if 4 ≤ m.inp then (u.refill id).retryAll id else u
      let m' := { m with f := { m.f with poison := m.f.poison || payErr }, waited := 0 }
      (hdrErr = true → exec (.flitForward y x o hdrErr payErr) s = .next (u.headerLoss (y.val * 16 + x.val))) ∧
      (∀ a, hdrErr = false → o = .att a → exec (.flitForward y x o hdrErr payErr) s =
        .next (u.eject (64 * y.val + 4 * x.val + a.val) m')) ∧
      (hdrErr = false → o = .gateway → exec (.flitForward y x o hdrErr payErr) s =
        .next { u with noc := { u.noc with gate := u.noc.gate ++ [(m', none)] } }) ∧
      (hdrErr = false → o ∈ [.north, .south, .east, .west] → exec (.flitForward y x o hdrErr payErr) s =
        let h := nextHop y.val x.val o
        .next { u with noc := { u.noc with mesh := u.noc.mesh ++ [{ m' with y := h.1, x := h.2.1, inp := h.2.2 }] } }))) ∧
  (∀ (i t : Fin 1024) x, s.tag i.val t.val = some x → x.quar = true ∨ x.orphan = true →
    exec (.quarantineExpiry i t) s = .next ((s.freeTag i.val t.val).retryAll i.val)) ∧
  (s.bit NOC.MAP_SYNC.BUSY = true → exec .mapSyncDone s =
    .next (({ s with noc := { s.noc with cache := [] } } : State).wrb NOC.MAP_SYNC.BUSY false)) ∧
  (∀ i : Fin 1024, exec (.mapCacheRefresh i) s = .next { s with noc := { s.noc with cache := tput s.noc.cache i.val [] [] } }) ∧
  (∀ r : Fin 256, exec (.regulatorBucketFill r) s =
    let u := if (List.range 16).any fun v => v != 0 && s.regClamped r.val v then tget s.noc.used r.val 0 else tget s.noc.used r.val 0 - 2 * s.rd (NOC.REG_CFG.RATE r.val)
    .next (({ s with noc := { s.noc with used := tput s.noc.used r.val u 0 } } : State).drawFrom r.val)) ∧
  (∀ (q : Req) (e : Fin 64) (k : Fin 4) (w : Word), s.canWrite q (0x1001000 + 16 * e.val + 4 * k.val) →
    (k.val ≠ 2 ∨ s.mapBadWrite e.val w = false → exec (.mapEntryWrite q e k w) s =
      .next ((s.plainWrite (0x1001000 + 16 * e.val + 4 * k.val) w).tell .okay [])) ∧
    (k.val = 2 → s.mapBadWrite e.val w = true → exec (.mapEntryWrite q e k w) s = .next (s.tell .slverr []))) ∧
  (∀ q : Req, s.canWrite q 0x1000010 → exec (.mapSync q) s = .next ((s.wrb NOC.MAP_SYNC.BUSY true).tell .okay [])) ∧
  (∀ (q : Req) (i : Fin 1024), s.canWrite q (0x1040000 + 0x100 * i.val) →
    exec (.regulatorBind q i) s = .next ((s.bindReg i.val).tell .okay []) ∧
    exec (.regulatorUnbind q i) s = .next ((s.unbindReg i.val).tell .okay []))

/-- The span ports and the gateway (R322 to R331). A frame is taken only while the port's lanes are locked; a bad one is
counted and dropped. The model's choices in its clauses: notes/assumptions/11 and 72.md. -/
def Obligations.SpanRuns : Prop := ∀ (s : State) (k : Fin 4),
  (∀ (ws : List Word) (stamp : Nat), s.spanLocked k.val = false →
    exec (.spanInitFrame k ws) s = .next s ∧ exec (.spanCtrlFrame k ws) s = .next s ∧
    exec (.spanFlitFrame k ws stamp) s = .next s ∧ exec (.spanFlitrFrame k ws) s = .next s) ∧
  (∀ (ws : List Word), s.spanLocked k.val = true →
    (frameGood 1 4 ws = false → exec (.spanInitFrame k ws) s =
      .next ((s.setPort k.val { s.port k.val with initRx := 0 }).bump (SPAN.CRC_CNT k.val))) ∧
    (frameGood 1 4 ws = true → s.bit (SPAN.PORT_STAT.UP k.val) = false →
      let n := min 16 ((s.port k.val).initRx + 1)
      let peer := wget (ws.getD 2 0) 11 0
      let u := s.setPort k.val (SpanPort.sendInit { s.port k.val with initRx := n } (s.rd SPAN.DEVNUM.NUM))
      (n < 16 ∨ peer = s.rd SPAN.DEVNUM.NUM → exec (.spanInitFrame k ws) s = .next u) ∧
      (16 ≤ n → peer ≠ s.rd SPAN.DEVNUM.NUM → exec (.spanInitFrame k ws) s =
        .next (((((u.setPort k.val (u.port k.val).cleared).wr (SPAN.PORT_STAT.PEER k.val) peer).wrb (SPAN.PORT_STAT.UP k.val) true).raiseDev EV.spanUp
          k.val [peer]).srcPulse (768 + k.val)))) ∧
    (frameGood 2 3 ws = false → exec (.spanCtrlFrame k ws) s = .next (s.bump (SPAN.CRC_CNT k.val))) ∧
    (frameGood 2 3 ws = true → s.bit (SPAN.PORT_STAT.UP k.val) = true → exec (.spanCtrlFrame k ws) s =
      .next (s.spanAck k.val ws)) ∧
    (∀ stamp typ n c, (typ, n, c) ∈ ([(3, 21, .spanFlitFrame k ws stamp), (4, 23, .spanFlitrFrame k ws)] : List (Nat × Nat × Instr)) →
      let st := if typ = 3 then stamp else 0
      (frameGood typ n ws = false → exec c s = .next (s.bump (SPAN.CRC_CNT k.val))) ∧
      (frameGood typ n ws = true → s.bit (SPAN.PORT_STAT.UP k.val) = true →
        let u := s.spanAck k.val ws
        let d := (wget (ws.getD 0 0) 27 16 + 4096 - (u.port k.val).expSeq) % 4096
        let f := flitOf (wordsNat ((ws.drop 2).take 2)) (BitVec.ofNat 512 (wordsNat ((ws.drop 4).take 16)))
          (if typ = 4 then wordsNat ((ws.drop 20).take 2) else 0)
        let w := u.spanAccept k.val f.vc
        (d = 0 → (u.port k.val).hasRoom f.vc = false → exec c s = .next u) ∧
        (d = 0 → (u.port k.val).hasRoom f.vc = true → f.dev = w.rd SPAN.DEVNUM.NUM →
          (typ = 3 → exec c s = .next (w.spanInject k.val 0 stamp f)) ∧ (typ = 4 → exec c s = .next (w.remoteRq k.val f))) ∧
        (d = 0 → (u.port k.val).hasRoom f.vc = true → f.dev ≠ w.rd SPAN.DEVNUM.NUM → exec c s =
          .next (w.toGate (⟨f, 15, 10, 4 + k.val, 0, st, 0⟩, some (k.val, wget (ws.getD 0 0) 3 0)))) ∧
        (2049 ≤ d → exec c s = .next ((u.setPort k.val (u.port k.val).sendCtrl).bump (SPAN.DUP_CNT k.val))) ∧
        (0 < d → d < 2049 → exec c s = .next (u.bump (SPAN.OOS_CNT k.val)))))) ∧
  (s.bit (SPAN.PORT_STAT.UP k.val) = true → 0 < (s.port k.val).accepted → exec (.spanAckTimer k) s =
    .next (s.setPort k.val (s.port k.val).sendCtrl)) ∧
  (∀ e, s.bit (SPAN.PORT_STAT.UP k.val) = true → (s.port k.val).replay.getLast? = some e →
    let p := s.port k.val
    let u := (s.setPort k.val { p with expiries := p.expiries + 1, accepted := 0, lastTx := p.flitFrame e.1 e.2.2 e.2.1 }).bump
      (SPAN.REPLAY_CNT k.val)
    (p.expiries < 7 → exec (.spanReplayExpiry k) s = .next u) ∧
    (7 ≤ p.expiries → exec (.spanReplayExpiry k) s = .next (u.spanDown k.val))) ∧
  (∀ (m : Moving) (src : Option (Nat × Nat)) (rest : List (Moving × Option (Nat × Nat))), s.noc.gate = (m, src) :: rest →
    let u : State := { s with noc := { s.noc with gate := rest } }
    let u := match src with | some p => u.spanFree p.1 m.f.vc | none => u
    let port := u.rd (SPAN.RT.PORT m.f.dev)
    (u.bit (SPAN.RT.VALID m.f.dev) = false → exec .spanGatewayFlit s =
      .next (if m.f.op < 8 then u.respond 1000 m .decerr 0 else u.bump (SPAN.DISC_CNT 0))) ∧
    (u.bit (SPAN.RT.VALID m.f.dev) = true → src = none → exec .spanGatewayFlit s = .next (u.spanQueue port m.f 15)) ∧
    (∀ p hops, u.bit (SPAN.RT.VALID m.f.dev) = true → src = some (p, hops) → exec .spanGatewayFlit s =
      .next (if hops = 0 then (u.bump (SPAN.HOP_CNT p)).raiseDev EV.spanHopDrop p [m.f.dev]
        else u.spanQueue port m.f (hops - 1)))) ∧
  (∀ (q : Req) (w : Word), s.canWrite q (0x1101000 + 0x100 * k.val) →
    let u : Word → State := fun x => s.plainWrite (0x1101000 + 0x100 * k.val) x
    let en := s.bit (SPAN.PORT_CTL.EN k.val)
    (wget w 15 0 ≠ 0 → en = false → exec (.spanPortEnable q k w) s =
      .next (((u (w ||| 0x80000000#32)).setPort k.val (((u (w ||| 0x80000000#32)).port k.val).cleared.sendInit ((u (w ||| 0x80000000#32)).rd SPAN.DEVNUM.NUM))).tell
        .okay [])) ∧
    (wget w 15 0 ≠ 0 → en = true → wget w 21 20 = s.rd (SPAN.PORT_CTL.WIDTH k.val) → exec (.spanPortDisable q k w) s =
      .next (let v := (u (w &&& 0x7FFFFFFF#32)).spanDown k.val
        (v.setPort k.val (v.port k.val).cleared).tell .okay [])) ∧
    (wget w 15 0 = 0 → exec (.spanPortEnable q k w) s = .next (s.tell .slverr []) ∧
      exec (.spanPortDisable q k w) s = .next (s.tell .slverr [])))

/-- Requests of the DRAM channels (R343 to R349, R357, R369): admission, a read, a whole-line write, a partial write, the
patrol, each in a channel that is open. `u` is the state with the request taken, `b` whether a fill that runs bars it. The
model's choices in its clauses: notes/assumptions/6, 27 and 29.md. -/
def Obligations.DramRequestsRun : Prop := ∀ (s : State) (n : Fin 8), s.chOpen n.val = true →
  (∀ (v : Nat) (d : Tab Int) (hi : Bool) (q : DReq) (rest : List DReq), s.admitPick n.val = some (v, d, hi) →
    tget (s.chan n.val).inq v [] = q :: rest →
    let c := { s.chan n.val with
      inq := tput (s.chan n.val).inq v rest []
      deficit := d
      last := if hi then (s.chan n.val).last else v
      lastHi := if hi then v else (s.chan n.val).lastHi }
    let b := ((s.setChan n.val c).bump (DDR.LN_CNT n.val v)).fillBars n.val q
    let u := b.1
    let c := u.chan n.val
    let p := { q with since := u.mtime }
    (b.2 = true → exec (.dramAdmit n) s = .next (u.answerDram n.val p .slverr 0)) ∧
    (b.2 = false → q.wr = true → exec (.dramAdmit n) s =
      let c := if q.from?.isSome then c.dropBack q.line else c
      let w := u.setChan n.val { c with store := c.store ++ [p] }
      .next (if q.len = 63 then w.answerDram n.val p .okay 0 else w)) ∧
    (∀ h, b.2 = false → q.wr = false → c.waitingWrite q.line = some h → exec (.dramAdmit n) s =
      .next ((u.answerDram n.val p (if h.poison then .poisoned else .okay) h.data).bump (DDR.RD_CNT n.val))) ∧
    (b.2 = false → q.wr = false → c.waitingWrite q.line = none → exec (.dramAdmit n) s =
      .next (u.setChan n.val { c with store := c.store ++ [p] }))) ∧
  (s.admitPick n.val = none → exec (.dramAdmit n) s = .next s) ∧
  (∀ (sub : Fin 2) (k : Nat) (x : Sense) (q : DReq), s.issueNext n.val sub.val = some (q, k) →
    let b := (s.takeReq n.val k q).fillBars n.val q
    let u := b.1
    let vat := q.from?.map (·.vat)
    (q.wr = false → exec (.dramRead n sub x) s =
      let r := u.readLine n.val q.line x vat
      .next (if b.2 then u.answerDram n.val q .slverr 0
        else (r.1.answerDram n.val q r.2.st r.2.data).bump (DDR.RD_CNT n.val))) ∧
    (q.wr = true → q.len = 63 → exec (.dramWholeWrite n sub) s =
      .next (((s.takeReq n.val k q).storeLine n.val q.line q.data q.poison).bump
        (if q.from?.isSome then DDR.WR_CNT n.val else DDR.WB_CNT n.val))) ∧
    (q.wr = true → q.len ≠ 63 → b.2 = false → exec (.dramPartialWrite n sub x) s =
      let r := u.senseLine ((u.chan n.val).line (u.physRank n.val q.line) (q.line % 2 ^ 30)) (u.addrOfLine n.val q.line) x
      let w := r.1.readEffects n.val q.line r.2 vat false
      let w := w.storeLine n.val q.line (mergeLine r.2.data q.data q.off q.len) (decide (r.2.st ≠ .okay) || q.poison)
      .next (((w.bump (DDR.PART_CNT n.val)).bump (DDR.WR_CNT n.val)).answerDram n.val q .okay 0)) ∧
    (q.wr = true → q.len ≠ 63 → b.2 = true → exec (.dramPartialWrite n sub x) s =
      .next (u.answerDram n.val q .slverr 0))) ∧
  (∀ (rank : Fin 4) (i : Fin (2 ^ 29)) (x : Sense), s.rd (DDR.CH_CTL.PATROL n.val) ≠ 0 → s.chState n.val = DS.ready →
    i.val < s.rankLines → s.mbit (DDR.CH_STAT.FILLED n.val) (s.physRank n.val (rank.val * 2 ^ 30 + i.val)) = true →
    ((s.chan n.val).store.any fun q => q.line == rank.val * 2 ^ 30 + i.val) = false →
    exec (.patrolRead n rank i x) s = .next (s.readLine n.val (rank.val * 2 ^ 30 + i.val) x none).1)

/-- Refresh, initialisation, fill, migration and self-refresh of the channels (R349 to R364), in the states in which they act.
The model's choices in its clauses: notes/assumptions/6 and 27.md. -/
def Obligations.DramUpkeepRuns : Prop := ∀ (s : State) (n : Fin 8),
  (∀ (sub : Fin 2) (rank : Fin 4), s.chState n.val = DS.ready ∨ s.chState n.val = DS.filling → (s.chan n.val).entering = false →
    let r := if s.bit (DDR.CH_CTL.REF_SB n.val) then 0 else rank.val
    let key := sub.val * 4 + r
    let c := s.chan n.val
    let p := tget c.pend key 0
    (s.rd (DDR.REF.POSTPONE_MAX n.val) ≤ p → exec (.refreshDue n sub rank) s =
      .next ((s.refreshed n.val sub.val r).bump (DDR.FORCED_CNT n.val))) ∧
    (p < s.rd (DDR.REF.POSTPONE_MAX n.val) → s.waits n.val sub.val r true = true → exec (.refreshDue n sub rank) s =
      .next (((s.setChan n.val { c with pend := tput c.pend key (p + 1) 0 }).bump (DDR.POSTP_CNT n.val)).showPend n.val)) ∧
    (p < s.rd (DDR.REF.POSTPONE_MAX n.val) → s.waits n.val sub.val r true = false → exec (.refreshDue n sub rank) s =
      let c := if s.waits n.val sub.val r false then c else { c with pend := tput c.pend key 0 0 }
      .next (((s.setChan n.val c).refreshed n.val sub.val r).showPend n.val))) ∧
  (∀ hot : Fin 16, exec (.temperaturePoll n hot) s =
    let h := decide (hot.val ≠ 0)
    let u := (s.wrb (DDR.CH_STAT.HOT n.val) h).srcSet (704 + 8 * n.val + 5) h
    .next (if h && !s.bit (DDR.CH_STAT.HOT n.val) then u.raiseDev EV.dramHot n [hot.val] else u)) ∧
  (∀ (bank : Fin 256) (row : Nat), s.rd (DDR.PNR.P n.val) ≠ 0 → tget (s.chan n.val).rows bank.val 0 ≠ row + 1 →
    s.chOpen n.val = true → exec (.neighbourRefresh n bank row) s = .next (s.bump (DDR.PNR_CNT n.val))) ∧
  (∀ sub : Fin 2, s.chOpen n.val = true → exec (.readTimingTracking n sub) s =
    .next (s.setChan n.val { s.chan n.val with tracked := tput (s.chan n.val).tracked sub.val s.mtime 0 })) ∧
  (∀ bank : Fin 256, exec (.rowIdleClose n bank) s =
    .next (s.setChan n.val { s.chan n.val with rows := tput (s.chan n.val).rows bank.val 0 0 })) ∧
  (∀ (failed : Fin 16) (drfm : Bool), s.chState n.val = DS.training →
    let mask := failed.val % 2 ^ s.fittedRanks
    (mask ≠ 0 → exec (.channelInitDone n failed drfm) s =
      let u := (s.setChState n.val DS.fail).wr (DDR.CH_STAT.TRAIN_FAIL n.val) mask
      let u := u.setChan n.val { u.chan n.val with leaving := false }
      .next ((u.raiseDev EV.dramTrainFail n [mask]).ddrPulse n.val 4)) ∧
    (mask = 0 → exec (.channelInitDone n failed drfm) s =
      let c := s.chan n.val
      let u := (s.setChan n.val { c with recDiv := s.ddrDiv, leaving := false, pend := [] }).wrb (DDR.PNR.DRFM n.val) drfm
      let u := u.showPend n.val
      let u := if u.bit DDR.GEOM.SPARE ∧ u.rd (DDR.SPARE.STATE n.val) = 0 then u.wr (DDR.SPARE.STATE n.val) 1 else u
      .next (u.setChState n.val (if c.filling then DS.filling else DS.ready)))) ∧
  (∀ r : Fin 4, s.chState n.val = DS.filling → r.val < s.fittedRanks → s.mbit (DDR.CH_STAT.FILLED n.val) r.val = false →
    s.chOpen n.val = true → exec (.rankFillDone n r) s =
      let c := s.chan n.val
      let c := { c with lines := tfilter (fun k _ => k / 2 ^ 30 != r.val) c.lines,
                        fillDraw := tput c.fillDraw r.val s.dram.draw 0 }
      let u := (s.setChan n.val c).wrm (DDR.CH_STAT.FILLED n.val) r.val true
      .next (if u.rd (DDR.CH_STAT.FILLED n.val) = 2 ^ u.fittedRanks - 1
        then (u.setChan n.val { u.chan n.val with filling := false }).setChState n.val DS.ready else u)) ∧
  (∀ (count : Nat) (x : Sense), s.rd (DDR.SPARE.STATE n.val) = 2 → s.chOpen n.val = true →
    s.rd (DDR.MIG_PTR.LINES n.val) + count + 1 ≤ s.rankLines → exec (.migrationCopy n count x) s =
      let p := s.rd (DDR.MIG_PTR.LINES n.val)
      let src := s.rd (DDR.SPARE.SRC n.val)
      let dst := s.rd (DDR.SPARE.SPR n.val)
      let i := p + count
      let a := s.addrOfLine n.val (src * 2 ^ 30 + i)
      let r := s.senseLine ((s.chan n.val).line src i) a x
      let u := r.1.setChan n.val ((r.1.chan n.val).copyRange src dst p (count + 1))
      let u := if r.2.codeBad then u.setChan n.val ((u.chan n.val).setLine dst i ⟨r.2.data, true, u.dram.draw⟩) else u
      let u := u.wr (DDR.MIG_PTR.LINES n.val) (i + 1)
      .next (if u.mbit (DDR.CH_STAT.FILLED n.val) src = false then u
        else if r.2.codeBad then (u.bump (DDR.UE_CNT n.val src)).rankFault n.val src a
        else if r.2.corr then u.corrected n.val src a
        else u)) ∧
  (s.rd (DDR.SPARE.STATE n.val) = 2 → s.rd (DDR.MIG_PTR.LINES n.val) = s.rankLines → exec (.migrationDone n) s =
    .next (((s.wr (DDR.SPARE.STATE n.val) 3).raiseDev EV.dramMigDone n [s.rd (DDR.SPARE.SRC n.val)]).ddrPulse n.val 2)) ∧
  ((s.chan n.val).entering = true → exec (.selfRefreshReached n) s =
    .next ((((s.setChan n.val { s.chan n.val with entering := false, rows := [] }).setChState n.val DS.selfRefresh).srLeave
      n.val).coastFall)) ∧
  ((s.chan n.val).leaving = true → s.chState n.val = DS.selfRefresh → exec (.channelReady n) s =
    .next (((s.setChan n.val { s.chan n.val with leaving := false, pend := [] }).showPend n.val).setChState n.val
      (if (s.chan n.val).filling then DS.filling else DS.ready)))

/-- The writes of CH_CTL and SPARE (R356, R357, R359, R362, R363, R370): a write that is accepted sets the control's fields
and starts what its bit commands; u is the state with the fields set. The model's choices in its clauses:
notes/assumptions/27.md. -/
def Obligations.DramWritesRun : Prop := ∀ (s : State) (q : Req) (n : Fin 8) (w : Word),
  (s.canWrite q (0x2000000 + 0x10000 * n.val) →
    let st := s.chState n.val
    let put : Word → State := fun x => s.setReg (0x2000000 + 0x10000 * n.val) (x &&& 0x03FFFF01)
    let sr : State → Host.Outcome State Fault Refusal := fun u =>
      .next ((if wget w 25 25 = 1 then u.srEnter n.val else u.srLeave n.val).tell .okay [])
    (st ≠ DS.absent → wget w 15 8 ≠ 0 → wget w 30 30 = 0 → wget w 29 29 = 0 → st = DS.uninit ∨ st = DS.fail →
      exec (.channelInit q n w) s = sr ((put (w ||| 0x80000000#32)).chInit n.val)) ∧
    (st = DS.ready → wget w 15 8 ≠ 0 → wget w 29 29 = 0 → s.rd (DDR.SPARE.STATE n.val) ≠ 2 → (s.chan n.val).entering = false →
      exec (.channelFill q n w) s =
        let u := put (w ||| 0x40000000#32)
        let u := (u.setChan n.val { u.chan n.val with filling := true, fillSeen := [] }).setChState n.val DS.filling
        sr (u.wr (DDR.CH_STAT.FILLED n.val) 0)) ∧
    (st ≠ DS.ready → exec (.channelFill q n w) s = .next (s.tell .slverr [])) ∧
    (st ≠ DS.absent → wget w 15 8 ≠ 0 → wget w 31 31 = 0 → wget w 30 30 = 0 → s.rd (DDR.SPARE.STATE n.val) = 1 →
      (s.chan n.val).filling = false → exec (.migrationStart q n w) s =
        let u := put (w ||| 0x20000000#32)
        sr (u.migStart n.val (u.rd (DDR.SPARE.SRC n.val)))) ∧
    (s.rd (DDR.SPARE.STATE n.val) ≠ 1 → exec (.migrationStart q n w) s = .next (s.tell .slverr [])) ∧
    (st ≠ DS.absent → wget w 15 8 ≠ 0 → wget w 31 29 = 0 →
      exec (.selfRefreshEnter q n w) s = .next (((put (w ||| 0x2000000#32)).srEnter n.val).tell .okay []) ∧
      exec (.selfRefreshExit q n w) s = .next (((put (w &&& 0xFDFFFFFF#32)).srLeave n.val).tell .okay [])) ∧
    (st = DS.absent ∨ wget w 15 8 = 0 → ∀ c ∈ [Instr.channelInit q n w, .channelFill q n w, .migrationStart q n w,
      .selfRefreshEnter q n w, .selfRefreshExit q n w], exec c s = .next (s.tell .slverr []))) ∧
  (s.canWrite q (0x200000C + 0x10000 * n.val) →
    (s.chState n.val = DS.uninit → s.rd (DDR.SPARE.STATE n.val) ≠ 2 → exec (.spareSubstitute q n w) s =
      let u := (s.wr (DDR.SPARE.SRC n.val) (wget w 27 26)).wr (DDR.SPARE.SUBST n.val) 1
      .next ((if u.chState n.val = DS.uninit then u.wr (DDR.SPARE.STATE n.val) (if u.bit DDR.GEOM.SPARE then 3 else 0) else u).tell
        .okay [])) ∧
    (s.chState n.val = DS.absent → exec (.spareSubstitute q n w) s = .next (s.tell .slverr [])))

/-- The events of lanes and quads (R374, R375, R380, R381, R384 to R388, R392), each in the states in which it acts. -/
def Sys2Proof.Machine.LanesRun : Prop := ∀ (s : State) (n : Fin 100),
  (∀ (u : Fin 25) (p : Fin 2), s.bit (LANE.QPLL.EN u.val p.val) = true → s.bit (LANE.QREF.REF_OK u.val) = true →
    exec (.quadPllLock u p) s = .next (s.wrb (LANE.QPLL.LOCK u.val p.val) true) ∧
    exec (.lanePllFail u p) s =
      .next (((s.wrb (LANE.QPLL.LOCK u.val p.val) false).txIdle u.val (some p.val)).raiseQuad u.val EV.lanePllFail)) ∧
  (∀ u : Fin 25, s.islandUp = true → exec (.quadRefQualified u) s = .next (s.wrb (LANE.QREF.REF_OK u.val) true)) ∧
  (∀ u : Fin 25, s.bit (LANE.QREF.REF_OK u.val) = true → exec (.quadRefLoss u) s =
    let t := (s.wrb (LANE.QREF.REF_OK u.val) false).bump (LANE.REFLOSS_CNT u.val)
    let t := ((t.wrb (LANE.QPLL.LOCK u.val 0) false).wrb (LANE.QPLL.LOCK u.val 1) false).txIdle u.val none
    .next (((List.range 4).foldl (fun t j => t.rxRefLoss (4 * u.val + j)) t).raiseQuad u.val EV.laneRefLoss)) ∧
  (s.rd (LANE.STAT.TX_STATE n.val) = 2 → s.bit (LANE.QPLL.LOCK (quadOf n.val) (s.rd (LANE.CTL.PLL n.val))) = true →
    exec (.txOnReached n) s =
      let t := s.wr (LANE.STAT.TX_STATE n.val) 3
      .next (if tget s.inject n.val false then ({ t with inject := tput t.inject n.val false false } : State).injected n.val else t)) ∧
  (s.rd (LANE.STAT.RX_STATE n.val) = 2 → s.bit (LANE.QREF.REF_OK (quadOf n.val)) = true → exec (.rxSignalDetect n) s =
    let start := if s.bit (LANE.RX_CTL.HINT_EN n.val) then s.rd (LANE.RX_CTL.CTLE_HINT n.val) else 0
    let t := (s.wr (LANE.STAT.RX_STATE n.val) 3).wrb (LANE.STAT.SIGDET n.val) true
    .next (if t.bit (LANE.RX_CTL.FREEZE n.val) then t else t.wr (LANE.RX_CTLE.CODE n.val) start)) ∧
  (s.rd (LANE.STAT.RX_STATE n.val) = 3 → exec (.rxCdrLock n) s = .next (s.wr (LANE.STAT.RX_STATE n.val) 4)) ∧
  (∀ (snr : Byte) (ctle : Fin 32) (taps : List Byte), s.rd (LANE.STAT.RX_STATE n.val) = 4 →
    s.rd (LANE.RX_CTL.SNR_MIN n.val) ≤ snr.toNat → exec (.rxLocked n snr ctle taps) s =
      let t := ((s.wr (LANE.STAT.RX_STATE n.val) 5).wr (LANE.STAT.SNR n.val) snr.toNat).wrb (LANE.STAT.NOLOCK n.val) false
      .next ((t.adapt n.val ctle.val taps).laneFlag n.val LANE.IRQ_STAT.LOCKED)) ∧
  (s.rd (LANE.STAT.RX_STATE n.val) = 5 → exec (.rxLockLost n) s = .next ((s.wr (LANE.STAT.RX_STATE n.val) 3).lockLost n.val)) ∧
  (3 ≤ s.rd (LANE.STAT.RX_STATE n.val) → exec (.rxSignalLost n) s =
    let t := ((s.wr (LANE.STAT.RX_STATE n.val) 2).wrb (LANE.STAT.SIGDET n.val) false).bump (LANE.SIGLOSS_CNT n.val)
    .next (if s.rd (LANE.STAT.RX_STATE n.val) = 5 then t.lockLost n.val else t)) ∧
  (2 ≤ s.rd (LANE.STAT.RX_STATE n.val) → s.rd (LANE.STAT.RX_STATE n.val) ≤ 4 → s.bit (LANE.STAT.NOLOCK n.val) = false →
    exec (.rxNoLock n) s =
      .next (((s.wrb (LANE.STAT.NOLOCK n.val) true).laneFlag n.val LANE.IRQ_STAT.NOLOCK).raiseLane n.val EV.laneNoLock)) ∧
  (∀ (seed : BitVec 31) (bits : BitVec 1024), s.bit (LANE.PRBS_CTL.CHK_EN n.val) = true →
    s.bit (LANE.PRBS_STAT.LOCK n.val) = false → s.rd (LANE.STAT.RX_STATE n.val) = 5 →
    let r := s.checked n.val seed.toNat bits
    let starts := s.patSeed n.val (s.rd (LANE.PRBS_CTL.CHK_PAT n.val)) seed.toNat
    (starts = true → r.1 = 0 → exec (.prbsCheckerLock n seed bits) s =
      .next (({ s with prbs := tput s.prbs n.val r.2 0 } : State).wrb (LANE.PRBS_STAT.LOCK n.val) true)) ∧
    (starts = false ∨ r.1 ≠ 0 → exec (.prbsCheckerLock n seed bits) s = .next s)) ∧
  (∀ bits : BitVec 1024, s.bit (LANE.PRBS_STAT.LOCK n.val) = true → exec (.prbsCheckerBlock n bits) s =
    let r := s.checked n.val (tget s.prbs n.val 0) bits
    let t : State := { s with prbs := tput s.prbs n.val r.2 0 }
    let t := (t.bump (LANE.PRBS_BLK_CNT n.val)).bump (LANE.PRBS_ERR_CNT n.val) r.1
    .next (if 256 < r.1 then (((t.checkerDrop n.val).wrb (LANE.PRBS_STAT.LOST n.val) true).bump
        (LANE.PRBS_LOSS_CNT n.val)).laneFlag n.val LANE.IRQ_STAT.PRBS_LOST
      else t)) ∧
  (s.rd (LANE.CTL.LOOP n.val) = 2 → exec (.elasticBufferSlip n) s =
    .next ((s.bump (LANE.SLIP_CNT n.val)).laneFlag n.val LANE.IRQ_STAT.SLIP)) ∧
  (s.bit (LANE.INJ_CTL.CONT n.val) = true → s.rd (LANE.STAT.TX_STATE n.val) = 3 →
    exec (.continuousErrorInjection n) s = .next (s.injected n.val))

/-- The writes of a lane's registers (R373, R374, R377, R383 to R385, R388, R391). A write of LANE.CTL is judged as one word,
whichever of its fields a command changes; what is refused answers SLVERR and changes nothing. -/
def Sys2Proof.Machine.LaneWritesRun : Prop := ∀ (s : State) (q : Req) (n : Fin 100),
  (s.canWrite q (0x3000000 + 0x1000 * n.val) →
    let old := s.reg (0x3000000 + 0x1000 * n.val)
    let put : Word → Host.Outcome State Fault Refusal := fun w => .next (State.answered (orNone s (s.laneCtlWrite n.val w)))
    (∀ p : Fin 4, exec (.laneTxPowerSet q n p) s = put (wset old 31 30 p.val)) ∧
    (∀ p : Fin 4, exec (.laneRxPowerSet q n p) s = put (wset old 29 28 p.val)) ∧
    (∀ (pll mod : Fin 2) (d : Fin 256), exec (.laneRateSet q n pll mod d) s =
      put (wset (wset (wset old 27 27 pll.val) 26 26 mod.val) 23 16 d.val)) ∧
    (∀ m : Fin 4, exec (.laneLoopbackSet q n m) s = put (wset old 15 14 m.val)) ∧
    (∀ c : Fin 16, exec (.recoveredClockDivider q n c) s = put (wset old 3 0 c.val)) ∧
    (∀ w : Word, wget w 31 30 ≠ 3 → wget w 29 28 ≠ 3 → wget w 15 14 ≠ 3 → wget w 3 0 ≤ 10 →
      (wget w 15 14 = 1 → wget w 31 30 = 2 ∧ wget w 29 28 = 2) →
      (wget w 27 27 ≠ wget old 27 27 ∨ wget w 26 26 ≠ wget old 26 26 ∨ wget w 23 16 ≠ wget old 23 16 →
        wget old 31 30 ≠ 2 ∧ wget old 29 28 ≠ 2) →
      rateOk n.val (s.pllKhz (quadOf n.val) (wget w 27 27)) (wget w 26 26) (wget w 23 16) = true →
      (wget w 3 0 ≠ wget old 3 0 → s.laneOnForeign n.val = false) →
      (wget w 3 0 ≠ 0 → 2 * s.pllKhz (quadOf n.val) (wget w 27 27) / wget w 23 16 ≤ 1200000 * rcDivOf (wget w 3 0)) →
      put w = .next ((((s.setReg (0x3000000 + 0x1000 * n.val) (w &&& 0xFCFFFC0F)).setTxPower n.val (wget w 31 30)).setRxPower
        n.val (wget w 29 28)).tell .okay []))) ∧
  (∀ w : Word, s.canWrite q (0x3000008 + 0x1000 * n.val + 0) →
    (¬ (10 ≤ wget w 31 28 ∧ wget w 31 28 ≤ 14) → exec (.txPresetChange q n false w) s =
      .next ((s.setReg (0x3000008 + 0x1000 * n.val) (w &&& 0xFF000000)).tell .okay [])) ∧
    (10 ≤ wget w 31 28 → wget w 31 28 ≤ 14 → exec (.txPresetChange q n false w) s = .next (s.tell .slverr []))) ∧
  (∀ w : Word, s.canWrite q (0x3000008 + 0x1000 * n.val + 4) →
    let t := fun hi lo => (BitVec.ofNat 8 (wget w hi lo)).toInt
    let good := (t 31 24).natAbs + (t 23 16).natAbs + (t 15 8).natAbs + (t 7 0).natAbs ≤ 64 ∧ 16 ≤ t 15 8 ∧
      (64 ≤ n.val → t 31 24 = 0)
    (good → exec (.txPresetChange q n true w) s = .next ((s.setReg (0x300000C + 0x1000 * n.val) w).tell .okay [])) ∧
    (¬ good → exec (.txPresetChange q n true w) s = .next (s.tell .slverr []))) ∧
  (∀ w : Word, s.canWrite q (0x3000028 + 0x1000 * n.val) →
    let t := s.setReg (0x3000028 + 0x1000 * n.val) ((w ||| 0x80000000#32) &&& 0x7F000000)
    (10 ≤ wget w 29 24 → wget w 29 24 ≤ 40 → exec (.injectOnce q n w) s =
      .next ((if t.rd (LANE.STAT.TX_STATE n.val) = 3 then t.injected n.val
        else { t with inject := tput t.inject n.val true false }).tell .okay [])) ∧
    (wget w 29 24 < 10 ∨ 40 < wget w 29 24 → exec (.injectOnce q n w) s = .next (s.tell .slverr []))) ∧
  (∀ (u : Fin 25) (p : Fin 2) (w : Word), s.canWrite q (0x3000800 + 0x4000 * u.val + 4 * p.val) →
    let m := wget w 9 0
    let khz := m * s.rd (LANE.QREF.FREF_KHZ u.val)
    let busy := s.bit (LANE.QPLL.EN u.val p.val) || (List.range 4).any fun j =>
      s.rd (LANE.CTL.PLL (4 * u.val + j)) == p.val &&
        (s.rd (LANE.CTL.TX_PWR (4 * u.val + j)) == 2 || s.rd (LANE.CTL.RX_PWR (4 * u.val + j)) == 2)
    ((m ≠ s.rd (LANE.QPLL.N u.val p.val) → busy = false) → 160 ≤ m → m ≤ 560 → 40000000 ≤ khz → khz ≤ 56000000 →
      exec (.quadPllEnable q u p w) s =
        .next (((s.wr (LANE.QPLL.N u.val p.val) m).wrb (LANE.QPLL.EN u.val p.val) true).tell .okay [])) ∧
    (m < 160 ∨ 560 < m ∨ khz < 40000000 ∨ 56000000 < khz → exec (.quadPllEnable q u p w) s = .next (s.tell .slverr [])))

/-- The lanes and quads: their events (R374 to R392) and the writes of a lane's registers (R373 to R391). The model's choices
in its clauses: notes/assumptions/26, 39 and 71.md. -/
def Obligations.LaneCommandsRun : Prop := Sys2Proof.Machine.LanesRun ∧ Sys2Proof.Machine.LaneWritesRun

/-- Frames and links of the frame engine (R395 to R398, R403, R409 to R413, R431, R437): a received frame, by what is wrong
with it and where it goes; a stream frame sent; links and flow control. The model's choices in its clauses:
notes/assumptions/60.md. -/
def Obligations.FrameEngineRuns : Prop := ∀ (s : State) (m : Fin 100),
  (∀ (bs : List Byte) (bad : Bool) (phase : Fin 64) (taken poisoned : Bool), s.bit (FEN.PORT_CTL.EN m.val) = true →
    s.bit (FEN.PORT_STAT.LINK m.val) = true →
    let c := Instr.rxFrame m bs bad phase taken poisoned
    let err := bad || !fcsGood bs
    let maxlen := s.rd (FEN.PORT_CTL.MAXLEN m.val)
    let ptpq := s.bit (FEN.RX_CFG.PTPQ_EN m.val) && (ptpAt bs).isSome
    let queued := ptpq || s.bit (FEN.PORT_CTL.RX_MODE m.val)
    let refused := err && !s.bit (FEN.RX_CFG.BADFCS m.val)
    let control := !err && (macControl bs).isSome
    (bs.length < 64 → exec c s = .next (s.fenDrop m.val (FEN.RX_RUNT m.val))) ∧
    (64 ≤ bs.length →
      (refused = true → exec c s = .next (s.fenDrop m.val (FEN.RX_FCS m.val))) ∧
      (control = true → exec c s = .next (if s.bit (FEN.FC_CTL.RX_EN m.val)
        then s.flowControl m.val bs ((macControl bs).getD 0) else s)) ∧
      (refused = false → control = false → queued = true →
        (maxlen < bs.length → exec c s = .next (s.fenDrop m.val (FEN.RX_LONG m.val))) ∧
        (bs.length ≤ maxlen → taken = false → exec c s = .next (s.fenDrop m.val (FEN.RX_FIFO_DROP m.val)))) ∧
      (refused = false → control = false → (queued = true → bs.length ≤ maxlen ∧ taken = true) →
        let u := (s.bump (FEN.RX_FRAMES m.val)).bump (FEN.RX_BYTES m.val) bs.length
        let t := u.rxStamp m.val (u.rawTime m.val phase.val)
        let cut := decide (maxlen < bs.length)
        let body := if cut then bs.take maxlen else bs.take (bs.length - 4)
        let r := if u.bit (TIME.PTP_CTL.TC_IN m.val) && !cut then ptpRx body t else some body
        let u := if r.isNone then u.bump (TIME.PTP_NOFIX_CNT m.val) else u
        let body := r.getD body
        let out := if cut || u.bit (FEN.RX_CFG.STRIP m.val) then body
          else if err then body ++ bs.drop (bs.length - 4) else body ++ fcsOf body
        (queued = true → exec c s =
          let n := if ptpq then u.rd (FEN.RX_Q.PTP_Q m.val) else u.rd (FEN.RX_Q.QBASE m.val) + u.rxClass m.val bs
          .next (u.rxQueue m.val n out (if poisoned then 2 else if err then 1 else 0) (stampKey t))) ∧
        (queued = false → exec c s = .next (u.rxStream m.val out (err || cut) taken (stampKey t)))))) ∧
  (∀ c : Fin 8, exec (.pauseExpiry m c) s =
    .next (s.setFport m.val { s.fport m.val with held := (s.fport m.val).held - ((s.fport m.val).held &&& 2 ^ c.val) })) ∧
  (s.bit (FEN.PORT_CTL.EN m.val) = true → s.bit (FEN.PORT_STAT.LINK m.val) = false → s.portLocked m.val = true →
    exec (.linkUp m) s =
      let u := ((s.wrb (FEN.PORT_STAT.LINK m.val) true).wrb (FEN.PORT_STAT.LFAULT m.val) false).wrb (FEN.PORT_STAT.RFAULT m.val) false
      let u := (u.raisePort m.val EV.fenLinkUp).fenFlag m.val FEN.IRQ_STAT.LINK_UP
      .next (if 96 ≤ m.val then u.raiseDev EV.mgtLinkUp (m.val - 96) [] else u)) ∧
  (∀ lf rf : Bool,
    let u := (s.wrb (FEN.PORT_STAT.LFAULT m.val) lf).wrb (FEN.PORT_STAT.RFAULT m.val) rf
    exec (.linkDown m lf rf) s = .next (u.linkFalls m.val)) ∧
  (∀ (k : Fin 96) (bs : List Byte) (abort : Bool) (fid : Option (BitVec 16)) (phase : Fin 64) (partly : Bool),
    let c := Instr.txStreamFrame k bs abort fid phase partly
    let long := decide (s.rd (FEN.PORT_CTL.MAXLEN k.val) < bs.length + 4)
    let f : TxF := { q := none, bytes := bs, fid := fid.map (·.toNat), abort := abort || long || s.portPaused k.val,
                     cls := s.rd (FEN.TX_CFG.FAB_CLS k.val) }
    let p := s.fport k.val
    let staged := s.setFport k.val { p with store := p.store ++ [f] }
    s.bit (FEN.PORT_CTL.EN k.val) = true → s.rd (FEN.PORT_CTL.TX_SRC k.val) ≠ 1 → bs ≠ [] →
    (partly = true ∨ s.txReady k.val = true) → storeSegs p.store + f.segs ≤ 1024 →
    (s.bit (FEN.PORT_STAT.LINK k.val) = false → exec c s =
      .next (if s.bit (FEN.PORT_CTL.DOWN_DROP k.val) then s.fenDrop k.val (FEN.TX_DOWN_DROP k.val) else staged)) ∧
    (s.bit (FEN.PORT_STAT.LINK k.val) = true → (p.store.any (fun x => x.q.isNone) = true ∨ staged.nextTx k.val ≠ some f) →
      exec c s = .next staged) ∧
    (s.bit (FEN.PORT_STAT.LINK k.val) = true → p.store.any (fun x => x.q.isNone) = false → staged.nextTx k.val = some f →
      exec c s = .next (s.sendFrame k.val f phase.val)))

/-- The queues of the queue manager (R399 to R403, R406 to R408, R413): receive frames written, transmit frames staged,
launched, late and done. The model's choices in its clauses: notes/assumptions/17, 60, 61 and 63.md. -/
def Obligations.QueuesRun : Prop := ∀ s : State,
  (∀ (n : Fin 65536) (f : HeldF) (rest : List HeldF), tget s.fen.held n.val [] = f :: rest → s.qRuns n.val = true →
    s.bit (QM.QCFG.DIR n.val) = true → s.qAvail n.val (s.rd (QM.PIDX.PIDX n.val)) ≠ 0 → s.initHeld (s.qReq n.val).id = false →
    let k := s.rd (QM.CIDX.CIDX n.val)
    (∀ u, s.fetchDesc n.val k = (u, none) → exec (.rxFrameWrite n) s = .next u) ∧
    (∀ u d, s.fetchDesc n.val k = (u, some d) → descW d 2 % 2 ^ 14 < f.bytes.length → exec (.rxFrameWrite n) s =
      .next ((u.setHeld n.val rest).qDrop (u.rd (QM.QCFG.PORT n.val)) n.val (FEN.RX_NOQ_DROP (u.rd (QM.QCFG.PORT n.val))))) ∧
    (∀ u d, s.fetchDesc n.val k = (u, some d) → f.bytes.length ≤ descW d 2 % 2 ^ 14 → exec (.rxFrameWrite n) s =
      let r := u.ovfReads n.val f
      .next (r.1.rxInto n.val k d r.2 rest))) ∧
  (∀ m : Fin 96, s.bit (FEN.PORT_CTL.EN m.val) = true → s.rd (FEN.PORT_CTL.TX_SRC m.val) ≠ 0 →
    exec (.queueStage m) s = .next (State.stageFrom m.val 8 s)) ∧
  (∀ (m : Fin 96) (phase : Fin 64) (f : TxF) (t : List TxF),
    ((s.fport m.val).store.filter fun f => match f.launch with
      | some t => decide (s.startOf m.val t ≤ s.portNow m.val) && !(s.fport m.val).holds f.cls && !s.qPaused (f.q.getD 0)
          && ((s.fport m.val).store.find? fun x => x.q == f.q) == some f
      | none => false) = f :: t →
    s.bit (FEN.PORT_STAT.LINK m.val) = true → (s.fport m.val).wire = none → exec (.timedLaunch m phase) s =
      let p := s.fport m.val
      let g := t.foldl (fun a b => if b.launch.getD 0 < a.launch.getD 0 then b else a) f
      .next ((s.setFport m.val { p with store := p.store.erase g, wire := some g }).sendFrame m.val g phase.val)) ∧
  (∀ n : Fin 65536, s.bit (QM.QCFG.EN n.val) = true → s.bit (QM.QCFG.DIR n.val) = false → s.qPaused n.val = false →
    let m := s.rd (QM.QCFG.PORT n.val)
    let p := s.fport m
    let k := (s.rd (QM.CIDX.CIDX n.val) + s.qInFlight m n.val) % 65536
    let staged := p.store.find? fun f => f.q == some n.val && f.launch.isSome
    (∀ f, staged = some f → s.startOf m (f.launch.getD 0) ≤ s.portNow m → s.bit (QM.QCFG.LATE_DROP n.val) = true →
      exec (.lateTimedFrame n) s = .next ((s.setFport m { p with store := p.store.erase f }).txDrop m f 2 (FEN.TX_LATE_DROP m))) ∧
    (∀ f, staged = some f → s.startOf m (f.launch.getD 0) ≤ s.portNow m → s.bit (QM.QCFG.LATE_DROP n.val) = false →
      exec (.lateTimedFrame n) s = .next (s.setFport m { p with
        store := p.store.map fun x => if x = f then { f with late := true, launch := none } else x })) ∧
    (∀ u d t, staged = none → s.qRuns n.val = true → s.initHeld (s.qReq n.val).id = false → s.qInFlight m n.val < s.qAvail n.val (s.rd (QM.PIDX.PIDX n.val)) →
      s.fetchDesc n.val k = (u, some d) → descLaunch d = some t → exec (.lateTimedFrame n) s =
        .next (if u.startOf m t < u.portNow m then u.stageFrame m n.val k d else u))) ∧
  (∀ (m : Fin 100) (phase : Fin 64),
    let p := s.fport m.val
    (∀ f, p.wire = some f → exec (.txFrameDone m phase) s = .next ((s.setFport m.val { p with wire := none }).sent m.val f)) ∧
    (∀ f, p.wire = none → s.bit (FEN.PORT_CTL.EN m.val) = true → s.nextTx m.val = some f → exec (.txFrameDone m phase) s =
      .next (((s.setFport m.val { p with store := p.store.erase f }).sendFrame m.val f phase.val).sent m.val f)) ∧
    (p.wire = none → s.bit (FEN.PORT_CTL.EN m.val) = false ∨ s.nextTx m.val = none → exec (.txFrameDone m phase) s =
      .next (s.flushDone m.val)))

/-- The writes of the frame engine's and the queue manager's registers (R399, R400, R409, R412 to R414); t is the state with
the block's clock opened (R95). The model's choices in its clauses: notes/assumptions/39 and 63.md. -/
def Obligations.FrameWritesRun : Prop := ∀ (s : State) (q : Req) (w : Word),
  (∀ m : Fin 100, s.canWrite q (0x4000000 + 0x1000 * m.val) →
    let t := s.openGroup (0x4000000 + 0x1000 * m.val)
    let mask := wmask 31 26 ||| wmask 23 6
    exec (.portEnable q m w) s = .next (State.answered (t.portCtlWrite m.val (w ||| 0x80000000#32))) ∧
    exec (.portDisable q m w) s = .next (State.answered (t.portCtlWrite m.val (w &&& 0x7FFFFFFF#32))) ∧
    (wget w 29 28 ≠ 3 → wget w 23 20 ≠ 0xF → 64 ≤ wget w 19 6 →
      (t.bit (FEN.PORT_CTL.EN m.val) = false → (t.wrb (FEN.PORT_CTL.EN m.val) false).portFits m.val (wget w 23 20) = true →
        exec (.portEnable q m w) s =
          .next ((t.setReg (0x4000000 + 0x1000 * m.val) ((w ||| 0x80000000#32) &&& mask)).tell
            .okay [])) ∧
      (t.bit (FEN.PORT_CTL.EN m.val) = true → exec (.portDisable q m w) s =
        .next ((((t.setReg (0x4000000 + 0x1000 * m.val) ((w &&& 0x7FFFFFFF#32) &&& mask)).storeDrop m.val).linkFalls
          m.val).tell .okay [])))) ∧
  (∀ m : Fin 100, s.canWrite q (0x4000018 + 0x1000 * m.val) →
    let u := (s.openGroup (0x4000018 + 0x1000 * m.val)).setReg (0x4000018 + 0x1000 * m.val)
      ((w ||| 0x80000000#32) &&& (wmask 30 30 ||| wmask 23 0))
    (u.bit (FEN.PORT_CTL.EN m.val) = true → exec (.sendPause q m w) s =
      .next (((u.fresh.2.setFport m.val { u.fresh.2.fport m.val with tx := u.pauseFrame m.val }).bump (FEN.FC_TX_CNT m.val)).tell
        .okay [])) ∧
    (u.bit (FEN.PORT_CTL.EN m.val) = false → exec (.sendPause q m w) s = .next (u.tell .okay []))) ∧
  (∀ n : Fin 65536, s.canWrite q (0x4900000 + 0x20 * n.val) →
    let t := s.openGroup (0x4900000 + 0x20 * n.val)
    let mask := wmask 31 28 ||| wmask 26 12 ||| wmask 7 0
    exec (.queueEnable q n w) s = .next (State.answered (t.qCfgWrite n.val (w ||| 0x80000000#32))) ∧
    exec (.queueDisable q n w) s = .next (State.answered (t.qCfgWrite n.val (w &&& 0x7FFFFFFF#32))) ∧
    (wget w 23 16 ≠ 0 → 3 ≤ wget w 15 12 → wget w 7 0 < 96 → t.vatOfLane (wget w 7 0) = t.vatOfQueue n.val →
      (t.bit (QM.QCFG.EN n.val) = false → exec (.queueEnable q n w) s =
        let u := t.setReg (0x4900000 + 0x20 * n.val) ((w ||| 0x80000000#32) &&& mask)
        .next ((((u.wr (QM.CIDX.CIDX n.val) 0).wr (QM.QSTAT.STATE n.val) 1).wr (QM.QSTAT.ERR n.val) 0).tell .okay [])) ∧
      (t.bit (QM.QCFG.EN n.val) = true →
        wset ((w &&& 0x7FFFFFFF#32) &&& mask) 31 31 0 = wset (t.reg (0x4900000 + 0x20 * n.val)) 31 31 0 →
        exec (.queueDisable q n w) s =
          let u := (t.qEmpty n.val).setReg (0x4900000 + 0x20 * n.val) ((w &&& 0x7FFFFFFF#32) &&& mask)
          .next (((u.wr (QM.QSTAT.STATE n.val) 0).wr (QM.QSTAT.ERR n.val) 0).tell .okay [])))) ∧
  (∀ n : Fin 65536, s.canWrite q (0x490000C + 0x20 * n.val) →
    let u := (s.openGroup (0x490000C + 0x20 * n.val)).wr (QM.PIDX.PIDX n.val) (wget w 15 0)
    let far := u.bit (QM.QCFG.EN n.val) && !u.qStopped n.val && decide (2 ^ u.rd (QM.QCFG.SIZE n.val) < u.qAvail n.val (wget w 15 0))
    exec (.queueDoorbell q n w) s = .next ((if far then u.qStop n.val 3 else u).tell .okay [])) ∧
  (s.canWrite q 0x4800014 →
    let u := s.openGroup 0x4800014
    exec (.queueResume q w) s =
      .next (({ u with fen := { u.fen with qheld := u.fen.qheld.filter fun v => !w.getLsbD v } } : State).tell .okay []))

/-- What the processors meet (R446, R449 to R453, R457, R461, R474): fast interrupts, failing loads and stores, core control,
the machine timer. What a standard trap does is the ratified architecture's (notes/assumptions/50.md). The model's choices in
its clauses: notes/assumptions/17, 50 and 69.md. -/
def Obligations.ProcessorsRun : Prop := ∀ (s : State) (c : Fin 6),
  (∀ r : CpuRun,
    let t := s.cpuRan c.val r
    let p := t.proc c.val
    let fs := p.getCsr csrFstatus
    (s.fastOffered c.val = none ∨ fs.getLsbD 0 = false ∨ fs.getLsbD 1 = true ∨ s.procRuns c.val = false ∨
      s.procHalted c.val = true → exec (.fastInterruptEntry c r) s = .next s) ∧
    (∀ i, s.fastOffered c.val = some i → fs.getLsbD 0 = true → fs.getLsbD 1 = false → s.procRuns c.val = true →
      s.procHalted c.val = false → exec (.fastInterruptEntry c r) s =
        let f := BitVec.ofNat 64 (3 + p.priv % 4 * 4 + p.virt.toNat * 16)
        let q := ((p.setCsr csrFepc (xlen c.val r.pc)).setCsr csrFstatus f).setCsr csrFcause (BitVec.ofNat 64 i)
        let q := { q with priv := 3, virt := false, pc := (p.getCsr csrFvec).toNat / 4 * 4, fastSrc := some i }
        let u := (t.setProc c.val q).wrb (IRQ.CPL.FACT c.val) true
        .next ((((u.setClaim i (c.val + 1)).setLatch i false).setOffer i 0).reoffer)) ∧
    (s.procRuns c.val = false ∨ s.procHalted c.val = true → exec (.fret c r) s = .next s) ∧
    (s.procRuns c.val = true → s.procHalted c.val = false →
      (fs.getLsbD 1 = false → exec (.fret c r) s = .next (t.setProc c.val (p.trap 2 0x3000000B#64))) ∧
      (fs.getLsbD 1 = true → exec (.fret c r) s =
        let q := { p.setCsr csrFstatus (fs &&& ~~~ 2#64) with
          priv := (fs >>> 2).toNat % 4, virt := fs.getLsbD 4, pc := (p.getCsr csrFepc).toNat, fastSrc := none }
        let u := (t.setProc c.val q).wrb (IRQ.CPL.FACT c.val) false
        .next ((match p.fastSrc with | some i => u.setClaim i 0 | none => u).reoffer)))) ∧
  (∀ x : CpuLoad,
    let t := s.cpuRan c.val x.run
    let poisoned : Bool := match ramWord c.val x.addr with
      | some w => (tget t.cores.ram w (0, false)).2
      | none => true
    (poisoned = false ∨ s.procRuns c.val = false ∨ s.procHalted c.val = true → exec (.poisonedWordLoad c x) s = .next s) ∧
    (poisoned = true → s.procRuns c.val = true → s.procHalted c.val = false → exec (.poisonedWordLoad c x) s =
      .next (t.setProc c.val (((t.proc c.val).setCsr csrMerrinfo 1).trap (if x.fetch then 1 else 5) (xlen c.val x.addr))))) ∧
  (∀ (st : Fin 6) (a : BitVec 64),
    let p := s.proc c.val
    (statusOf st.val = .okay → exec (.storeErrorResponse c st a) s = .next s) ∧
    (statusOf st.val ≠ .okay → (p.getCsr csrMsterr).getLsbD 31 = true → exec (.storeErrorResponse c st a) s =
      .next ((s.setProc c.val p).srcSet (774 + c.val) true)) ∧
    (statusOf st.val ≠ .okay → (p.getCsr csrMsterr).getLsbD 31 = false → exec (.storeErrorResponse c st a) s =
      .next ((s.setProc c.val ((p.setCsr csrMsterr (BitVec.ofNat 64 (2 ^ 31 + errCode (statusOf st.val)))).setCsr csrMsteraddr
        a)).srcSet (774 + c.val) true))) ∧
  (exec (.msterrClear c) s = .next ((s.setProc c.val ((s.proc c.val).setCsr csrMsterr 0)).srcSet (774 + c.val) false)) ∧
  (∀ k : Fin 4,
    let due := s.rd64 (SVC.MTIMECMP_LO.CMP k.val).off (SVC.MTIMECMP_HI.CMP k.val).off ≤ s.mtime
    let p := s.proc (coreOf k.val)
    (due → exec (.mtimeCompare k) s = .next ((s.setProc (coreOf k.val) (p.setCsr 0x344 (p.getCsr 0x344 ||| 0x80#64))).wrb
      (SVC.CORE_CTL.WFI k.val) false)) ∧
    (¬ due → exec (.mtimeCompare k) s =
      .next (s.setProc (coreOf k.val) (p.setCsr 0x344 (p.getCsr 0x344 &&& ~~~ 0x80#64))))) ∧
  (∀ (q : Req) (k : Fin 5) (w : Word), s.canWrite q (0x6300000 + 0x20 * k.val) →
    let u := s.wrb (SVC.CORE_CTL.RUN k.val) true
    (w.getLsbD 30 = true ∨ s.bit (SVC.CORE_CTL.RUN k.val) = false →
      exec (.coreRun q k w) s = .next ((u.coreReset k.val).tell .okay [])) ∧
    (w.getLsbD 30 = false → s.bit (SVC.CORE_CTL.RUN k.val) = true → exec (.coreRun q k w) s = .next (u.tell .okay [])) ∧
    exec (.coreReset q k w) s = .next (((s.wrb (SVC.CORE_CTL.RUN k.val) (w.getLsbD 31)).coreReset k.val).tell .okay []))

/-- The interrupt controller's rows (R453, R454, R456, R460, R461): assertion, wake latches, completion, clearing, software
sources. The model's choices in its clauses: notes/assumptions/8 and 80.md. -/
def Obligations.InterruptsRun : Prop := ∀ s : State,
  (∀ (i : Fin 976) (b : Bool), (hasProducer i.val = true → exec (.interruptAssert i b) s = .next (s.srcSet i.val b)) ∧
    (hasProducer i.val = false → exec (.interruptAssert i b) s = .next s)) ∧
  (∀ i : Fin 128,
    (s.bit (IRQ.SRC_CFG.WAKE (832 + i.val)) = false → exec (.wakeLatchEdge i) s = .next s) ∧
    (s.bit (IRQ.SRC_CFG.WAKE (832 + i.val)) = true → s.powered = true → exec (.wakeLatchEdge i) s =
      .next (s.setLatch (832 + i.val) true).reoffer) ∧
    (s.bit (IRQ.SRC_CFG.WAKE (832 + i.val)) = true → s.powered = false → exec (.wakeLatchEdge i) s =
      .next (s.setLatch (832 + i.val) true))) ∧
  (∀ (q : Req) (c : Fin 6) (w : Word), s.canWrite q (0x6002008 + 0x40 * c.val) →
    let i := wget w 9 0
    ((s.proc c.val).normSrc ≠ some i → exec (.complete q c w) s = .next (s.tell .okay [])) ∧
    ((s.proc c.val).normSrc = some i → exec (.complete q c w) s =
      let u := (s.wrb (IRQ.CPL.NACT c.val) false).wr (IRQ.CPL.CPL c.val) (s.rd (IRQ.CPL.SAVED c.val))
      .next ((((u.setProc c.val { u.proc c.val with normSrc := none }).setClaim i 0).reoffer).tell .okay []))) ∧
  (∀ (q : Req) (k : Fin 32) (w : Word), s.canWrite q (0x6001000 + 4 * k.val) → exec (.pendClear q k w) s =
    .next (((List.range 32).foldl (fun (u : State) b =>
      if w.getLsbD b && u.srcEdge (32 * k.val + b)
        then (u.setLatch (32 * k.val + b) false).setOffer (32 * k.val + b) 0 else u) s).reoffer.tell .okay [])) ∧
  (∀ (q : Req) (w : Word), s.canWrite q 0x6001100 →
    (47 < wget w 5 0 → exec (.softwareInterrupt q w) s = .next (s.tell .slverr [])) ∧
    (wget w 5 0 ≤ 47 → w.getLsbD 31 = true → exec (.softwareInterrupt q w) s =
      .next ((s.setLatch (976 + wget w 5 0) true).reoffer.tell .okay [])) ∧
    (wget w 5 0 ≤ 47 → w.getLsbD 31 = false → exec (.softwareInterrupt q w) s = .next (s.tell .okay []))) ∧
  (∀ (q : Req) (v : Fin 16) (w : Word), s.canWrite q (0x6080004 + 0x1000 * v.val) →
    let k := wget w 4 0
    (tget s.irq.vclaim v.val 0 ≠ k + 1 → exec (.vcomplete q v w) s = .next (s.tell .okay [])) ∧
    (tget s.irq.vclaim v.val 0 = k + 1 → exec (.vcomplete q v w) s =
      .next ((({ s with irq := { s.irq with vclaim := tput s.irq.vclaim v.val 0 0 } } : State).setClaim (32 * v.val + k) 0).tell
        .okay [])))

/-- The service ports (R471 to R473): words sent and received, transfers done, the timeout of an I2C bus. The model's choices
in its clauses: notes/assumptions/38.md. -/
def Obligations.ServicePortsRun : Prop := ∀ (s : State) (k : Fin 20),
  let p := s.svcPort k.val
  (∀ w : BitVec 16,
    let v := w &&& svcMask k.val
    let t := if 8 ≤ k.val ∧ k.val < 16 ∧ v.getLsbD 8 = true
      then (s.wrb (SVC.STAT.NACK k.val) true).svcFlag k.val 2 else s
    (s.svcEn k.val = false → exec (.peripheralWordReceived k w) s = .next s) ∧
    (s.svcEn k.val = true → 64 ≤ p.rx.length → exec (.peripheralWordReceived k w) s =
      .next ((t.wrb (SVC.STAT.RXOVF k.val) true).svcFlag k.val 2)) ∧
    (s.svcEn k.val = true → p.rx.length < 64 → exec (.peripheralWordReceived k w) s =
      .next ((t.setSvcPort k.val { p with rx := p.rx ++ [v] }).svcFlag k.val 0))) ∧
  (∀ ws : List (BitVec 16),
    let t := if (s.svcEn k.val && s.svcFabric k.val) = true then ws.foldl (fun (t : State) w => (t.txPush k.val w).1) s else s
    let r := t.svcPort k.val
    (t.svcEn k.val = false ∨ r.tx = [] → exec (.peripheralTransferDone k ws) s = .next t) ∧
    (t.svcEn k.val = true → r.tx ≠ [] → exec (.peripheralTransferDone k ws) s =
      let u := (t.setSvcPort k.val { r with tx := r.tx.drop 1 }).svcFlag k.val 3
      .next (if r.tx.length = 1 then u.svcFlag k.val 1 else u))) ∧
  (∀ j : Fin 8, k.val = 8 + j.val →
    (s.svcEn k.val = false ∨ p.tx = [] → exec (.i2cTimeout j) s = .next s) ∧
    (s.svcEn k.val = true → p.tx ≠ [] → exec (.i2cTimeout j) s =
      .next (((s.setSvcPort k.val { p with tx := [] }).wrb (SVC.STAT.TIMEOUT k.val) true).svcFlag k.val 2))) ∧
  (∀ w : Word, s.islandUp = true → s.bit (SVC.OWN.MODE k.val) = true →
    (64 ≤ p.tx.length ∨ svcWordOk k.val (w.setWidth 16) = false → exec (.txdWrite none k w) s = .next (s.tell .slverr [])) ∧
    (p.tx.length < 64 → svcWordOk k.val (w.setWidth 16) = true → exec (.txdWrite none k w) s =
      .next ((s.setSvcPort k.val { p with tx := p.tx ++ [w.setWidth 16] }).tell .okay [])) ∧
    (p.rx = [] → exec (.rxdPop none k) s = .next ((s.setSvcPort k.val { p with out := none }).tell .okay (leBytes 4 0))) ∧
    (∀ v l, p.rx = v :: l → exec (.rxdPop none k) s =
      .next ((s.setSvcPort k.val
        { p with
          rx := l
          out := some v }).tell .okay (leBytes 4 (2 ^ 31 + v.toNat))))) ∧
  (∀ w : Word, s.islandUp = false ∨ s.bit (SVC.OWN.MODE k.val) = false →
    exec (.txdWrite none k w) s = .next s ∧ exec (.rxdPop none k) s = .next s) ∧
  (∀ (q : Req) (w : Word), s.canWrite q (0x6400008 + 0x1000 * k.val) →
    let t := s.openGroup (0x6400008 + 0x1000 * k.val)
    (t.bit (SVC.OWN.MODE k.val) = true ∨ 64 ≤ (t.svcPort k.val).tx.length ∨ svcWordOk k.val (w.setWidth 16) = false →
      exec (.txdWrite (some q) k w) s = .next (t.tell .slverr [])) ∧
    (t.bit (SVC.OWN.MODE k.val) = false → (t.svcPort k.val).tx.length < 64 → svcWordOk k.val (w.setWidth 16) = true →
      exec (.txdWrite (some q) k w) s =
        .next ((t.setSvcPort k.val { t.svcPort k.val with tx := (t.svcPort k.val).tx ++ [w.setWidth 16] }).tell .okay [])))

/-- The Cellar's commands and reads (R509 to R517, R530): a command starts or ends at once with the RESULT that says why not;
one that ends programs or erases; one that fails in a log sector marks it bad, elsewhere takes a spare and is repeated, or,
with no spare left, lists the sector; reads of a busy bank suspend it. -/
def Sys2Proof.Machine.CellarRuns : Prop := ∀ s : State,
  (∀ (b : Fin 4) (o : CelOp) (rest : List CelOp), (s.bank b.val).ops = o :: rest → (s.bank b.val).held = false →
    let x := s.bank b.val
    let ended := fun (u : State) (r : Nat) =>
      let u := (u.setBank b.val { x with ops := rest, held := !rest.isEmpty }).celDone b.val r
      if o.job then State.celNext 129 u r else u
    let staged := fun (u : State) (r : Nat) => if o.stage then u.stageDone r else u
    let u := s.bump (if o.erase then CEL.EFAIL_CNT else CEL.PFAIL_CNT)
    exec (.cellarCommandDone b true) s =
      .next (staged (ended (if o.erase then s.eraseSector o.sector else s.setCelWord o.word o.data) 0) 0) ∧
    (∀ aud sec, logOf o.sector = some (aud, sec) → exec (.cellarCommandDone b false) s = .next (staged (ended (u.logBad aud sec) 1) 1)) ∧
    (logOf o.sector = none → u.cel.grown.length < 256 → 0 < u.spareLeft b.val → exec (.cellarCommandDone b false) s =
      let sp := 64 * b.val + (64 - u.spareLeft b.val)
      let cel := { u.cel with
        grown := u.cel.grown ++ [(o.sector, sp, if o.erase then 2 else 1)], recs := u.cel.recs + 1 }
      .next (((({ u with cel := cel } : State).raiseDev EV.celBadBlock o.sector []).celDone b.val 1).celShow)) ∧
    (logOf o.sector = none → 256 ≤ u.cel.grown.length ∨ u.spareLeft b.val = 0 → exec (.cellarCommandDone b false) s =
      let cel := { u.cel with ramBad := ((u.cel.ramBad ++ [o.sector]).dedup).take 256 }
      .next (staged (ended (({ u with cel := cel } : State).raiseDev EV.celBbtFull o.sector []) 1).celShow 1))) ∧
  (∀ (b : Fin 4) (ok : Bool), (s.bank b.val).ops = [] ∨ (s.bank b.val).held = true →
    exec (.cellarCommandDone b ok) s = .next s) ∧
  (∀ q : Req, s.canWrite q 0x8000000 →
    let start := fun (op : Nat) =>
      let u := s.wr CEL.CMD.OP op
      let k := u.rd CEL.ADDR.A
      let d := BitVec.ofNat 64 ((u.reg CEL.WDATA_LO.W.off).toNat + 2 ^ 32 * (u.reg CEL.WDATA_HI.W.off).toNat)
      (u.celStart ⟨op == 2, k / 8192, k, d, false, false⟩).1.tell .okay []
    exec (.cellarProgram q) s = .next (start 1) ∧ exec (.cellarErase q) s = .next (start 2)) ∧
  (∀ (o : CelOp),
    let u := s.wr (CEL.BSTAT.SECTOR (bankOf o.sector)) o.sector
    let x := u.bank (bankOf o.sector)
    (∀ r, u.celRefuse o = some r → s.celStart o = (u.celDone (bankOf o.sector) r, false)) ∧
    (u.celRefuse o = none →
      (x.ops = [] → s.celStart o = ((u.celRun o).setBank (bankOf o.sector) { x with ops := [o], held := false }, true)) ∧
      (x.ops ≠ [] → x.held = true →
        s.celStart o = ((u.celRun o).setBank (bankOf o.sector) { x with ops := o :: x.ops, held := false }, true)) ∧
      (x.ops ≠ [] → x.held = false →
        s.celStart o = (u.setBank (bankOf o.sector) { x with asking := true, prog := some o }, true)))) ∧
  (∀ (m : Moving) (t : List Moving), tget s.noc.serve ID.cellar [] = m :: t →
    let u : State := { s with noc := { s.noc with serve := tput s.noc.serve ID.cellar t [] } }
    let x := s.bank (celOff m.f / 2 ^ 27)
    (m.f.op ≠ 0 ∨ s.celMayRead m.f.ini = false → exec .cellarRead s = .next (u.respond ID.cellar m .slverr 0)) ∧
    (m.f.op = 0 → s.celMayRead m.f.ini = true →
      (x.ops = [] ∨ x.held = true → exec .cellarRead s = .next (u.respond ID.cellar m .okay (u.celLine (celOff m.f)))) ∧
      (x.ops ≠ [] → x.held = false → exec .cellarRead s =
        .next (({ u with cel := { u.cel with waiting := u.cel.waiting ++ [m] } } : State).setBank (celOff m.f / 2 ^ 27)
          { x with asking := true })))) ∧
  (∀ b : Fin 4,
    let x := s.bank b.val
    let u := s.bump CEL.SUSP_CNT
    let mine := u.cel.waiting.filter fun m => celOff m.f / 2 ^ 27 == b.val
    let v : State := { u with cel := { u.cel with waiting := u.cel.waiting.filter fun m => celOff m.f / 2 ^ 27 != b.val } }
    let w := mine.foldl State.celAnswer v
    (x.asking = false ∨ x.held = true ∨ x.ops = [] → exec (.bankSuspended b) s = .next s) ∧
    (x.asking = true → x.held = false → x.ops ≠ [] →
      (∀ o, x.prog = some o → exec (.bankSuspended b) s = .next ((w.celRun o).setBank b.val ⟨o :: x.ops, false, false, none⟩)) ∧
      (x.prog = none → exec (.bankSuspended b) s = .next (w.setBank b.val { x with held := true, asking := false }))) ∧
    let quiet := s.cel.waiting.all (fun m => celOff m.f / 2 ^ 27 != b.val)
    (x.held = true → x.prog = none → quiet = true → exec (.bankResume b) s =
      .next (s.setBank b.val { x with held := false, asking := false })) ∧
    (x.held = false ∨ x.prog.isSome = true ∨ quiet = false → exec (.bankResume b) s = .next s))

/-- The logs (R524 to R527): the Starter copies what the rings hold, and reminds of a log that has become RAM only. -/
def Sys2Proof.Machine.LogsRun : Prop := ∀ s : State,
  (∀ (aud : Bool) (n : Nat) (fails : Bool),
    let todo := if aud then s.logs.audTodo else s.logs.evTodo
    (todo = 0 ∨ s.powered = false → exec (.logFlush aud n fails) s = .next s) ∧
    (todo ≠ 0 → s.powered = true → exec (.logFlush aud n fails) s =
      .next ((List.range (min n todo)).foldl (fun u _ => u.logFlushOne aud false)
        (if fails then s.logFlushOne aud true else s)))) ∧
  (s.logs.ramOnly = true → ∀ aud fails, s.logFlushOne aud fails = s) ∧
  (∀ (e : EvEntry) (x : Nat), s.logs.ramOnly = false → s.logs.evTodo ≠ 0 →
    let u := s.logRoom false
    u.logs.evRing[u.logs.evRing.length - u.logs.evTodo]? = some e → u.logs.evTodo ≠ 0 → u.logs.evSecs.getLast? = some x →
    s.logFlushOne false false =
      let v := if 2 ≤ e.d.sev then u.logRetire else u
      ({ v with logs := { v.logs with evTodo := v.logs.evTodo - 1 } } : State).logPut false (evBytes e)) ∧
  (∀ (a : AudEntry) (x : Nat), s.logs.ramOnly = false →
    let u := s.logRoom true
    u.logs.audRing[u.logs.audRing.length - u.logs.audTodo]? = some a → u.logs.audTodo ≠ 0 → u.logs.audSecs.getLast? = some x →
    s.logFlushOne true false =
      ({ u with logs := { u.logs with audTodo := u.logs.audTodo - 1 } } : State).logPut true (audBytes a)) ∧
  (s.logs.ramOnly = true → exec .logDegradedReminder s = .next (s.raiseDev EV.logDegraded 0 [])) ∧
  (s.logs.ramOnly = false → exec .logDegradedReminder s = .next s)

/-- The Cellar's commands and reads (R509 to R517, R530) and the logs (R524 to R527). The model's choices in its clauses:
notes/assumptions/3 and 59.md. -/
def Obligations.CellarAndLogsRun : Prop := Sys2Proof.Machine.CellarRuns ∧ Sys2Proof.Machine.LogsRun

/-- The CEL_OP requests (R508, R519 to R521, R528): t is the state after the request has been received. The model's choices in
its clauses: notes/assumptions/52, 58 and 59.md. -/
def Obligations.CellarRequestsRun : Prop := ∀ (s t : State) (e : ImmEnv) (body : List Byte),
  let h := e.port.val
  let no : Nat → Nat → Host.Outcome State Fault Refusal := fun r a => .next (t.refuse e 0x43 r a 0xFF)
  let op : Byte → Prop := fun n => s.receive false e 0x43 (n :: body) = (t, true)
  let n := field body 1 2
  let off := field body 3 4
  (∀ (o : Byte) (c : Instr), op o →
    (o, c) ∈ [(1, .celOpRead e body), (2, .celOpProgram e body), (3, .celOpErase e body), (4, .setLevel e body),
      (5, .bbtRead e body), (6, .celOpStatus e body)] →
    (body.length < 7 → exec c s = no 0x07 0) ∧ (7 ≤ body.length → h ≠ t.devOwner → exec c s = no 0x02 0) ∧
    (7 ≤ body.length → h = t.devOwner → o ∈ [1, 2, 3] → celRegion (field body 0 1) = none → exec c s = no 0x07 1)) ∧
  (∀ base size, h = t.devOwner → celRegion (field body 0 1) = some (base, size) →
    (op 1 → 7 ≤ body.length →
      (n = 0 ∨ 1024 < n → exec (.celOpRead e body) s = no 0x07 2) ∧
      (1 ≤ n → n ≤ 1024 → size < off + n → exec (.celOpRead e body) s = no 0x07 4) ∧
      (1 ≤ n → n ≤ 1024 → off + n ≤ size → body.length ≠ 7 → exec (.celOpRead e body) s = no 0x07 8) ∧
      (1 ≤ n → n ≤ 1024 → off + n ≤ size → body.length = 7 → 2 ≤ t.cel.level →
        exec (.celOpRead e body) s = no 0x0A t.cel.level) ∧
      (1 ≤ n → n ≤ 1024 → off + n ≤ size → body.length = 7 → t.cel.level < 2 →
        exec (.celOpRead e body) s =
          .next ((t.celSuspends ((base + off) / 2 ^ 27)).respondTo e 0x43 0 (t.celBytes (base + off) n)))) ∧
    (op 2 → 7 ≤ body.length →
      (n < 8 ∨ 1024 < n ∨ n % 8 ≠ 0 → exec (.celOpProgram e body) s = no 0x07 2) ∧
      (8 ≤ n → n ≤ 1024 → n % 8 = 0 → off % 8 ≠ 0 ∨ size < off + n → exec (.celOpProgram e body) s = no 0x07 4) ∧
      (8 ≤ n → n ≤ 1024 → n % 8 = 0 → off % 8 = 0 → off + n ≤ size →
        (body.length ≠ 7 + n → exec (.celOpProgram e body) s = no 0x07 8) ∧
        (body.length = 7 + n → field body 0 1 = t.cel.bootFw + 1 → exec (.celOpProgram e body) s = no 0x03 0) ∧
        (body.length = 7 + n → field body 0 1 ≠ t.cel.bootFw + 1 → t.cel.job.isSome = true →
          exec (.celOpProgram e body) s = no 0x05 0) ∧
        (body.length = 7 + n → field body 0 1 ≠ t.cel.bootFw + 1 → t.cel.job = none → exec (.celOpProgram e body) s =
          let j : CelJob := ⟨2, h, progWords (base + off) (body.drop 7)⟩
          .next ((State.celNext 129 { t with cel := { t.cel with job := some j } } 0).respondTo e 0x43 0 [])))) ∧
    (op 3 → 7 ≤ body.length →
      (off % 65536 ≠ 0 ∨ size ≤ off → exec (.celOpErase e body) s = no 0x07 4) ∧
      (off % 65536 = 0 → off < size →
        (body.length ≠ 7 → exec (.celOpErase e body) s = no 0x07 8) ∧
        (body.length = 7 → field body 0 1 = t.cel.bootFw + 1 → exec (.celOpErase e body) s = no 0x03 0) ∧
        (body.length = 7 → field body 0 1 ≠ t.cel.bootFw + 1 → t.cel.job.isSome = true →
          exec (.celOpErase e body) s = no 0x05 0) ∧
        (body.length = 7 → field body 0 1 ≠ t.cel.bootFw + 1 → t.cel.job = none → exec (.celOpErase e body) s =
          let sec := (base + off) / 65536
          let j : CelJob := ⟨3, h, []⟩
          let r := ({ t with cel := { t.cel with job := some j } } : State).celStart ⟨true, sec, sec * 8192, 0, true, false⟩
          .next ((if r.2 then r.1 else r.1.celOpDone j (r.1.rd (CEL.BSTAT.RESULT (bankOf sec)))).respondTo e 0x43 0 []))))) ∧
  (h = t.devOwner → op 4 → 7 ≤ body.length →
    (2 < n → exec (.setLevel e body) s = no 0x07 2) ∧
    (n ≤ 2 → body.length ≠ 7 → exec (.setLevel e body) s = no 0x07 8) ∧
    (n ≤ 2 → body.length = 7 →
      (t.cel.level = n → exec (.setLevel e body) s = .next (t.respondTo e 0x43 0 [])) ∧
      (t.cel.level < n → exec (.setLevel e body) s = .next ((t.setProtLevel n).respondTo e 0x43 0 [])) ∧
      (n < t.cel.level →
        let busy := t.img.op.isSome || t.img.mod.isSome || t.cel.job.isSome || t.mgt.lateAct.isSome
        (busy = true → exec (.setLevel e body) s = no 0x05 0) ∧
        (busy = false → exec (.setLevel e body) s =
          let u : State := { t with
            cel := { t.cel with erasePend := true, target := n, recs := t.cel.recs + 1 }
            mgt := { t.mgt with lateAct := some (.lcReset 0xB) } }
          .next (u.celShow.respondTo e 0x43 0 []))))) ∧
  (h = t.devOwner → op 5 → 7 ≤ body.length →
    (n = 0 ∨ 128 < n → exec (.bbtRead e body) s = no 0x07 2) ∧
    (1 ≤ n → n ≤ 128 → body.length ≠ 7 → exec (.bbtRead e body) s = no 0x07 8) ∧
    (1 ≤ n → n ≤ 128 → body.length = 7 → exec (.bbtRead e body) s =
      let l := (t.cel.grown.drop off).take n
      .next (t.respondTo e 0x43 0 (numBe 4 l.length ++ l.flatMap fun (g : Nat × Nat × Nat) =>
        numBe 2 g.1 ++ numBe 2 g.2.1 ++ numBe 2 g.2.2 ++ [0#8, 0#8])))) ∧
  (h = t.devOwner → op 6 → 7 ≤ body.length →
    (body.length ≠ 7 → exec (.celOpStatus e body) s = no 0x07 8) ∧
    (body.length = 7 → exec (.celOpStatus e body) s =
      .next (t.respondTo e 0x43 0 ([BitVec.ofNat 8 t.cel.level, BitVec.ofNat 8 t.cel.erasePend.toNat] ++
        numBe 2 t.cel.grown.length ++ numBe 2 t.cel.ramBad.length ++ numBe 4 (t.reg CEL.LOG.DEGRADED.off).toNat))))

/-- Self-test and repair (R31, R189, R197, R551 to R560): the phases of a test, its end, a test that waited, fuses, a sector's
supply, and the command register. The model's choices in its clauses: notes/assumptions/67.md. -/
def Obligations.SelfTestRuns : Prop := ∀ s : State,
  (∀ (k : Fin 4) (r : BistRun), s.bistCtl k.val = some r →
    (r.defer = true ∨ r.phase = 0 ∨ 5 ≤ r.phase → exec (.bistPhaseDone k) s = .next s) ∧
    (r.defer = false → r.phase = 1 → exec (.bistPhaseDone k) s =
      .next ((if r.kind < 2 then s.drainMem (r.kind == 1) r.mem else s).setBist k.val (some { r with phase := 2 }))) ∧
    (r.defer = false → r.phase = 2 → exec (.bistPhaseDone k) s = .next (s.setBist k.val (some { r with phase := 3 }))) ∧
    (r.defer = false → r.phase = 3 → exec (.bistPhaseDone k) s =
      .next (s.setBist k.val (some { r with phase := if r.pauses < 2 then 4 else 5 }))) ∧
    (r.defer = false → r.phase = 4 → exec (.bistPhaseDone k) s =
      .next (s.setBist k.val (some { r with phase := 3, pauses := r.pauses + 1 }))) ∧
    (∀ (fails addr bit us : Nat) (rows cols : List (Nat × Nat)) (bad : List Nat),
      (r.phase ≠ 5 → exec (.bistDone k fails addr bit us rows cols bad) s = .next s) ∧
      (r.phase = 5 → fails = 0 → exec (.bistDone k fails addr bit us rows cols bad) s =
        .next (((s.repair r.kind r.mem []).1.restoreMem r bad).bistEnd k.val r 0 addr bit 0 us)) ∧
      (r.phase = 5 → fails ≠ 0 → exec (.bistDone k fails addr bit us rows cols bad) s =
        let x := s.repair r.kind r.mem (rows.map (fun p => (false, p)) ++ cols.map fun p => (true, p))
        .next ((x.1.restoreMem r bad).bistEnd k.val r (if x.2 then 1 else 2) addr bit fails us))) ∧
    (r.defer = false ∨ s.bistWaits r.kind r.mem = true ∨ s.running = false → exec (.deferredTestStart k) s = .next s) ∧
    (r.defer = true → s.bistWaits r.kind r.mem = false → s.running = true →
      let v := (s.bistVat r.kind r.mem).getD 0xFF
      (16 ≤ v ∨ s.defined v = false ∨ s.bit (VAT.VAT_STAT.GATED v) = true → exec (.deferredTestStart k) s =
        .next (s.bistEnd k.val r 3 0 0 0 0)) ∧
      (v < 16 → s.defined v = true → s.bit (VAT.VAT_STAT.GATED v) = false → s.bit (VAT.VAT_STAT.IN_RESET v) = true →
        exec (.deferredTestStart k) s = .next s) ∧
      (v < 16 → s.defined v = true → s.bit (VAT.VAT_STAT.GATED v) = false → s.bit (VAT.VAT_STAT.IN_RESET v) = false →
        exec (.deferredTestStart k) s =
        .next (s.setBist k.val (some { r with defer := false, phase := 1 }))))) ∧
  (∀ (kind : Fin 3) (mem : Fin 16777216),
    (s.bist.fusing.contains (kind.val, mem.val) = false → exec (.bistFuseDone kind mem) s = .next s) ∧
    (s.bist.fusing.contains (kind.val, mem.val) = true → exec (.bistFuseDone kind mem) s =
      let l := s.softOf kind.val mem.val
      let u : State := { s with bist := { s.bist with
        soft := s.bist.soft.filter fun x => !(x.kind == kind.val && x.mem == mem.val)
        fused := s.bist.fused ++ l
        fusing := s.bist.fusing.filter (· != (kind.val, mem.val)) } }
      .next (u.raiseAt (s.devOwner :: ((s.bistVat kind.val mem.val).map s.ownerOf).toList) EV.bistFuse
        ((s.bistVat kind.val mem.val).getD 0xFF) mem.val [l.length]))) ∧
  (∀ sec : Fin 224,
    let powered := s.mbit (CLK.SEC_ON.ON (sec.val / 32)) (sec.val % 32)
    (powered = true → exec (.sectorPowerGood sec) s = .next s) ∧
    (powered = false → exec (.sectorPowerGood sec) s =
      let soft := s.bist.soft.filter fun x =>
        !((x.kind == 0 && x.mem / 60 == sec.val) || (x.kind == 1 && 2 * x.mem == sec.val))
      .next (({ s with bist := { s.bist with soft := soft } } : State).clearMems fun k => k == sec.val))) ∧
  (∀ (q : Req) (k : Fin 4) (w : Word), s.canWrite q (0x9000000 + 0x100 * k.val) →
    let kind := wget w 30 29
    let mem := wget w 23 0
    (s.running = false ∨ (s.bistCtl k.val).isSome = true ∨ s.bistBarred kind mem = true →
      exec (.bistCmdGo q k w) s = .next (s.tell .slverr [])) ∧
    (s.running = true → s.bistCtl k.val = none → s.bistBarred kind mem = false → exec (.bistCmdGo q k w) s =
      .next (((s.setReg (0x9000000 + 0x100 * k.val) (w &&& 0x60FFFFFF#32)).bistAccept k.val kind mem).tell .okay [])))

/-- The BIST_RUN requests (R551, R557 to R559): t is the state after the request has been received. The model's choices in its
clauses: notes/assumptions/52 and 67.md. -/
def Obligations.SelfTestRequestsRun : Prop := ∀ (s t : State) (e : ImmEnv) (body : List Byte),
  let h := e.port.val
  let no : Nat → Nat → Nat → Host.Outcome State Fault Refusal := fun r a v => .next (t.refuse e 0x44 r a v)
  let kind := field body 0 1
  let mem := field body 3 4
  let n := field body 1 2
  (∀ (op : Byte) (c : Instr), s.receive false e 0x44 (op :: body) = (t, true) → body.length ≠ 7 →
    (op, c) ∈ [(1, .bistRunTest e body), (2, .bistRunFuse e body), (3, .bistRunStatus e body), (4, .bistRunDefectRead e body)] →
    exec c s = no 0x07 0 0xFF) ∧
  (s.receive false e 0x44 (1 :: body) = (t, true) → body.length = 7 →
    (t.bistVat kind mem = none → exec (.bistRunTest e body) s = no 0x07 (if 3 ≤ kind then 1 else 4) 0xFF) ∧
    (∀ v, t.bistVat kind mem = some v →
      (t.running = false → exec (.bistRunTest e body) s = no 0x06 t.mode v) ∧
      (t.running = true → t.ownsVat h v = false → exec (.bistRunTest e body) s = no 0x02 0 v) ∧
      (t.running = true → t.ownsVat h v = true → t.bistBarred kind mem = true → exec (.bistRunTest e body) s = no 0x03 0 v) ∧
      (t.running = true → t.ownsVat h v = true → t.bistBarred kind mem = false →
        (t.bistFree = none → exec (.bistRunTest e body) s = no 0x05 0 v) ∧
        (∀ k, t.bistFree = some k → exec (.bistRunTest e body) s =
          .next ((t.bistAccept k kind mem).respondTo e 0x44 0 []))))) ∧
  (s.receive false e 0x44 (2 :: body) = (t, true) → body.length = 7 →
    (t.bistVat kind mem = none → exec (.bistRunFuse e body) s = no 0x07 (if 3 ≤ kind then 1 else 4) 0xFF) ∧
    ((t.bistVat kind mem).isSome = true →
      (h ≠ t.devOwner → exec (.bistRunFuse e body) s = no 0x02 0 0xFF) ∧
      (h = t.devOwner → t.lcs.code = 3 → exec (.bistRunFuse e body) s = no 0x09 0 0xFF) ∧
      (h = t.devOwner → t.lcs.code ≠ 3 →
        let may := !t.bistBusy kind mem && !t.bist.fusing.contains (kind, mem) && decide ((t.softOf kind mem).length ≤ t.fuseFree)
        (may = false → exec (.bistRunFuse e body) s = no 0x03 0 0xFF) ∧
        (may = true → exec (.bistRunFuse e body) s =
          .next (({ t with bist := { t.bist with fusing := t.bist.fusing ++ [(kind, mem)] } } : State).respondTo e 0x44 0
            []))))) ∧
  (s.receive false e 0x44 (3 :: body) = (t, true) → body.length = 7 → exec (.bistRunStatus e body) s =
    .next (t.respondTo e 0x44 0 ((List.range 4).flatMap (t.bistReport h)))) ∧
  (s.receive false e 0x44 (4 :: body) = (t, true) → body.length = 7 →
    (n = 0 ∨ 128 < n → exec (.bistRunDefectRead e body) s = no 0x07 2 0xFF) ∧
    (1 ≤ n → n ≤ 128 → h ≠ t.devOwner → exec (.bistRunDefectRead e body) s = no 0x02 0 0xFF) ∧
    (1 ≤ n → n ≤ 128 → h = t.devOwner → exec (.bistRunDefectRead e body) s =
      .next (t.respondTo e 0x44 0 (numBe 2 t.bist.defects.length ++ [0#8, 0#8] ++
        ((t.bist.defects.drop mem).take n).flatMap fun (d : Nat × Nat × Nat × Nat) =>
          [BitVec.ofNat 8 d.1, 0#8] ++ numBe 2 d.2.1 ++ numBe 3 d.2.2.1 ++ [BitVec.ofNat 8 d.2.2.2]))))

/-- Supplies, straps and outputs of the HIO banks (R567 to R570). -/
def Sys2Proof.Machine.HioBanksRun : Prop := ∀ (s : State) (b : Fin 12),
  (∀ mv : Fin 4096,
    let seen := s.setHio b.val ((s.hio b.val).sees mv.val)
    let off := seen.setHio b.val { seen.hio b.val with off := true, written := false }
    let fits := hioWin (s.rd (HIO.BANK_CTL.RANGE b.val)) mv.val
    (fits = true → exec (.hioSupplyOutOfWindow b mv) s = .next s) ∧
    (fits = false → (s.hio b.val).off = true → exec (.hioSupplyOutOfWindow b mv) s =
      .next (seen.setHio b.val { seen.hio b.val with off := true })) ∧
    (fits = false → (s.hio b.val).off = false →
      ((seen.hio b.val).off = true ∨ s.running = false → exec (.hioSupplyOutOfWindow b mv) s = .next off) ∧
      ((seen.hio b.val).off = false → s.running = true → exec (.hioSupplyOutOfWindow b mv) s =
        .next (off.raiseAt (seen.devOwner :: (seen.hioVats b.val).map seen.ownerOf) EV.hioRange 0xFF b.val
          [b.val, (seen.hio b.val).mv / 20]))) ∧
    (fits = false → exec (.hioOutputsReturn b mv) s = .next s) ∧
    (fits = true → (s.hio b.val).written = false → exec (.hioOutputsReturn b mv) s = .next seen) ∧
    (fits = true → (s.hio b.val).written = true → exec (.hioOutputsReturn b mv) s =
      .next (s.setHio b.val { (s.hio b.val).sees mv.val with off := false, written := false }))) ∧
  (∀ p : Fin 3, exec (.strapChange b p) s = .next { s with pins := { s.pins with strap := tput s.pins.strap b.val p.val 0 } }) ∧
  (∀ (q : Req) (w : Word), s.canWrite q (0xB000000 + 0x100 * b.val) →
    let u := s.wr (HIO.BANK_CTL.RANGE b.val) (wget w 1 0)
    let x := u.hio b.val
    let off := u.setHio b.val { x with off := true, written := true }
    (x.off = true ∨ hioWin (wget w 1 0) x.mv = true → exec (.rangeWrite q b w) s =
      .next ((u.setHio b.val { x with written := true }).tell .okay [])) ∧
    (x.off = false → hioWin (wget w 1 0) x.mv = false → exec (.rangeWrite q b w) s =
      .next ((if s.running then off.raiseAt (u.devOwner :: (u.hioVats b.val).map u.ownerOf) EV.hioRange 0xFF b.val
        [b.val, x.mv / 20] else off).tell .okay [])))

/-- Boundary scan (R576, R577): while VCC_AUX stands, each row makes its instruction the current one, loads what it loads, and
leaves everything but the port alone; without VCC_AUX the port does nothing. What the balls carried at a capture is free. -/
def Sys2Proof.Machine.BoundaryScanRuns : Prop := ∀ s : State,
  let put := fun (t : TapSt) => ({ s with pins := { s.pins with tap := t } } : State)
  (s.tapOn = true →
    exec .tapReset s = .next (put { s.pins.tap with ir := 1 }) ∧
    exec .idcode s = .next (put { s.pins.tap with ir := 1, dr := 0x184209AF }) ∧
    exec .bypass s = .next (put { s.pins.tap with ir := 0xFF, dr := 0 }) ∧
    (∀ l : List (Fin 1974 × Bool),
      exec (.extest l) s = .next (put { s.pins.tap.load l with ir := 0 }) ∧
      exec (.samplePreload l) s =
        .next { put { s.pins.tap.load l with ir := 2, dr := Config.freeNat s.freeCtr } with freeCtr := s.freeCtr + 1 })) ∧
  (s.tapOn = false → exec .tapReset s = .next s ∧ exec .idcode s = .next s ∧ exec .bypass s = .next s ∧
    ∀ l : List (Fin 1974 × Bool), exec (.extest l) s = .next s ∧
      exec (.samplePreload l) s = .next { s with freeCtr := s.freeCtr + 1 })

/-- The HIO banks (R567 to R570) and boundary scan (R576, R577). The model's choices in its clauses: notes/assumptions/68.md. -/
def Obligations.PinsRun : Prop := Sys2Proof.Machine.HioBanksRun ∧ Sys2Proof.Machine.BoundaryScanRuns

/-- Edges of clock lines at one instant (R54 to R57, R60, R64, R67): every flip-flop in use of a cluster whose line has the
edge of its polarity takes the first line of R56 that applies, from what its nets carried before the edge (`u` is the state
with the draw `d` taken); the masks of a dynamic memory frame take theirs; nothing else of them changes. A cluster that is
held, or whose foreign line has not yet passed the release, takes nothing. What a cluster is configured as stands in
`Config.cluster`; a net's value in `State.net`. The model's choices in its clauses: notes/assumptions/20, 21 and 25.md. -/
def Obligations.ClusterEdgesRun : Prop := ∀ (s : State) (e : FabEdge),
  (s.running = false → exec (.activeClockEdge e) s = .next s) ∧
  (s.running = true → ∃ t, exec (.activeClockEdge e) s = .next t ∧ only [.freeCtr, .cfg, .fab, .slc, .mem, .time] s t ∧
    let d := s.freeCtr
    let u : State := { s with freeCtr := d + 1 }
    let runs := fun (g c : Nat) =>
      let k := Config.cluster (s.tileFrames g) c
      edgeOn e (tileQuad g) k.clk k.falling && !s.tileHeld g && !t.inSync (syncCluster g c) k.clk
    (∀ key, tget t.fab.sync key 0 =
      let r := s.syncUnit key
      if key < 611072 ∧ (foreignLine r.2.1 && edgeOn e r.2.2.2 r.2.1 r.2.2.1 && !r.1) = true then
        (if tget s.fab.sync key 0 = 0 then 1
         else if tget s.fab.sync key 0 = 1 then (if Config.secondEdge d key then 3 else 2) else 3)
      else tget s.fab.sync key 0) ∧
    (∀ (g : Fin 57344) (c : Fin 8) (i : Fin 32),
      let k := Config.cluster (s.tileFrames g.val) c.val
      let f := ffOf k i.val
      let x := u.inputs e.ext d g.val c.val
      let asr := k.srAsync && k.srRouted && tget s.fab.asr (8 * g.val + c.val) false
      let key := 32 * (8 * g.val + c.val) + i.val
      tget t.fab.ff key none =
        if (runs g.val c.val && f.used) = false then tget s.fab.ff key none
        else if (e.near.contains (8 * g.val + c.val) && k.srAsync && f.obeySr && !asr && Config.nearSr d key) = true then
          some f.srval
        else if (f.obeySr && asr) = true then some f.srval
        else if (f.obeySr && !k.srAsync && x.sr && (!k.srGated || x.ce)) = true then some f.srval
        else if (f.obeyCe && !x.ce) = true then some (s.ffQ g.val c.val i.val)
        else some (ffD k x (clusterOut x.les (s.clusterLes g.val c.val k) x.cin) i.val)) ∧
    (twf (fun _ => (0 : Frame)) s.cfg.live = true → ∀ g : Fin 57344, t.liveFrame (memFrame g.val) =
      if s.frameDyn (memFrame g.val) = true then
        let f := if runs g.val 6 then u.masksAfter e.ext d g.val 6 (s.liveFrame (memFrame g.val)) else s.liveFrame (memFrame g.val)
        if runs g.val 7 then u.masksAfter e.ext d g.val 7 f else f
      else s.liveFrame (memFrame g.val)) ∧
    (∀ n, (∀ g : Fin 57344, n ≠ memFrame g.val) → t.liveFrame n = s.liveFrame n))

/-- Edges of clock lines at the wire registers (R107 to R109), at the output registers of BM36 (R170), at slices that issue
nothing (R138, R154) and at TIME_NOW (R428); an asynchronous SR that rises or falls (R57): while it is 1 the flip-flops that
obey it show SRVAL, and when it falls they hold it. What sites and register clocks are configured as stands in `Config.site`
and `Config.rck`. The model's choices in its clauses: notes/assumptions/20 and 25.md. -/
def Obligations.WireEdgesRun : Prop := ∀ (s : State),
  (∀ e : FabEdge, s.running = true → ∃ t, exec (.activeClockEdge e) s = .next t ∧
    let d := s.freeCtr
    let u : State := { s with freeCtr := d + 1 }
    (∀ n : Fin 6881280, tget t.fab.wire n.val none =
      let g := segEnd n.val
      let k := (s.siteCfg n.val).mode.val - 1
      let r := Config.rck (s.tileFrames g) k
      let rce := !r.rceRouted || (match Config.rceSrc (s.tileFrames g) k with
        | some src => if rceMay g src then u.source e.ext (u.net e.ext d) (u.netHeld e.ext d) g src
            else Config.openNet d (3 * (512 * (24304 + g) + k) + 2)
        | none => Config.openNet d (3 * (512 * (24304 + g) + k) + 2))
      if segLen n.val ≠ 1 ∧ (s.siteCfg n.val).mode.val ≠ 0 ∧
          (edgeOn e (tileQuad g) r.clk false && !s.tileHeld g && !t.inSync (syncRck g k) r.clk && rce) = true
      then some (u.arrives (u.net e.ext d) (u.netHeld e.ext d) n.val) else tget s.fab.wire n.val none) ∧
    t.mem.bmA = tupd 13440 (fun b =>
      let x := s.arr false b
      let c := tget s.mem.bmCfg b {}
      let a := edgeOn e (tileQuad (256 * (b / 60))) c.clkA false
      let z := edgeOn e (tileQuad (256 * (b / 60))) c.clkB false
      if a || z then some { x with regA := if a then x.outA else x.regA, regB := if z then x.outB else x.regB } else none)
      s.mem.bmA {} ∧
    t.slc.s = tupd 10752 (fun g =>
      let x := s.slice g
      if edgeOn e (tileQuad (256 * (g / 48))) (s.sliceCfg g).clk false && !(x.st == 1 || x.st == 2) then
        some { x with fo := if x.foHold then x.fo else 0, pGnt := false, pColl := x.collNow, collNow := false, free := [0, 1],
                      lastW := none }
      else none) s.slc.s {} ∧
    t.time.nowReg = tupd 16 (fun v =>
      let l := Config.timeLine ((List.range 1024).map fun f => s.liveFrame (shellFrame 0 f)) v
      if s.defined v && e.rise.getLsbD l.val then some (s.tbNow (s.rd (VAT.TBIND.TB v)) / 64 * 64) else none)
      s.time.nowReg 0) ∧
  (∀ (g : Fin 57344) (c : Fin 8) (up : Bool), ∃ t, exec (.asynchronousSr g c up .given) s = .next t ∧ only [.fab] s t ∧
    let k := Config.cluster (s.tileFrames g.val) c.val
    let key := 8 * g.val + c.val
    let runs := !s.tileHeld g.val && !s.inSync (syncCluster g.val c.val) k.clk
    let falls := !up && k.srAsync && k.srRouted && tget s.fab.asr key false && runs
    t.fab.asr = tput s.fab.asr key up false ∧
    (up = true → runs = true → k.srAsync = true → k.srRouted = true → ∀ i : Fin 32, (ffOf k i.val).used = true →
      (ffOf k i.val).obeySr = true → t.ffQ g.val c.val i.val = (ffOf k i.val).srval) ∧
    (∀ i : Fin 32, tget t.fab.ff (32 * key + i.val) none =
      if falls && (ffOf k i.val).used && (ffOf k i.val).obeySr then some (ffOf k i.val).srval
      else tget s.fab.ff (32 * key + i.val) none) ∧
    (∀ i, i / 32 ≠ key → tget t.fab.ff i none = tget s.fab.ff i none))
end

