-- ==== Sys2Proof/Laws/Evolve.lean ====
section
/-! SUPPORT. What every operation of the block does to the queue of commands and to the invariant: it leaves the first alone
and keeps the second. One lemma for each operation follows in the other files of this folder; each is found by applying the
lemmas of the operations it is made of. -/

namespace Sys2Proof.Machine

/-- From s to t the commands that wait are the same, and each part of the invariant that held holds. -/
structure Ev (s t : State) : Prop where
  pending : t.pending = s.pending
  counters : s.countersOk → t.countersOk
  hosts : s.hostsOk → t.hostsOk
  regs : s.regsOk → t.regsOk
  memory : s.memoryOk → t.memoryOk

theorem Ev.refl (s : State) : Ev s s := ⟨rfl, id, id, id, id⟩

theorem Ev.trans {s t u : State} (h : Ev s t) (k : Ev t u) : Ev s u :=
  ⟨k.pending.trans h.pending, fun x => k.counters (h.counters x), fun x => k.hosts (h.hosts x), fun x => k.regs (h.regs x),
    fun x => k.memory (h.memory x)⟩

/-- The addressed memories of a state. -/
abbrev State.mems (s : State) := (s.mem.bm, s.mem.dm, s.slc.opm, s.scr.w, s.cfg.live, s.cfg.planeA, s.cfg.planeB, s.cel.words)

theorem mems_ok {s t : State} (h : t.mems = s.mems) (k : s.memoryOk) : t.memoryOk := by
  simp only [State.mems, Prod.mk.injEq] at h
  obtain ⟨a1, a2, a3, a4, a5, a6, a7, a8⟩ := h
  exact ⟨a1 ▸ k.bm, a2 ▸ k.dm, a3 ▸ k.opm, a4 ▸ k.scr, a5 ▸ k.live, a6 ▸ k.planeA, a7 ▸ k.planeB, a8 ▸ k.words⟩

/-- A change of parts the invariant does not speak of. -/
theorem Ev.same {s0 s t : State} (hm : t.mems = s.mems) (hp : t.pending = s.pending) (hc : t.ctrs = s.ctrs) (hh : t.mgt.hosts = s.mgt.hosts)
    (hr : t.regs = s.regs) (h : Ev s0 s) : Ev s0 t :=
  h.trans ⟨hp, fun x => by simpa [State.countersOk, hc] using x, fun x => by simpa [State.hostsOk, hh] using x,
    fun x => by simpa [State.regsOk, hr] using x, mems_ok hm⟩

/-- A state written out, with the registers, counters, hosts and queue of a state that has evolved. -/
theorem Ev.lit {s0 s : State} {latches : Tab Word} {mtime : Nat} {freeCtr : Nat} {answer : Option Answer} {mgt : MgtSt} {dbg
    : DbgSt} {logs : LogSt} {irq : IrqSt} {clk : ClkSt} {noc : NocSt} {span : Tab SpanPort} {inject : Tab Bool} {prbs : Tab Nat} {dram :
    DramSt} {procs : Tab Proc} {cfg : CfgSt} {img : ImgSt} {churn : ChurnSt} {fab : FabSt} {slc : SlicesSt} {mem : MemSt}
    {time : TimeSt} {cel : CelSt} {scr : ScrSt} {fen : FenSt} {dma : Tab DmaCh} {svc : Tab SvcPort} {cores : CoreMem} {pwr :
    PwrSt} {lcs : LcsSt} {bist : BistSt} {pins : PinSt}
    (hh : (mgt.hosts, mem.bm, mem.dm, slc.opm, scr.w, cfg.live, cfg.planeA, cfg.planeB, cel.words) = (s.mgt.hosts, s.mems))
    (h : Ev s0 s) :
    Ev s0 ⟨s.regs, s.ctrs, latches, mtime, freeCtr, answer, mgt, dbg, logs, irq, clk, noc, span, inject, prbs, dram, procs,
      cfg, img, churn, fab, slc, mem, time, cel, scr, fen, dma, svc, cores, pwr, lcs, bist, pins, s.pending⟩ :=
  Ev.same (s := s) (Prod.mk.inj hh).2 rfl rfl (Prod.mk.inj hh).1 rfl h

/-- A state written out, with the hosts and queue of a state that has evolved, registers in canonical form, and only counters of it. -/
theorem Ev.lit2 {s0 s : State} {regs : Tab Word} {ctrs : Tab Ctr} {latches : Tab Word} {mtime : Nat} {freeCtr : Nat} {answer : Option Answer} {mgt : MgtSt} {dbg
    : DbgSt} {logs : LogSt} {irq : IrqSt} {clk : ClkSt} {noc : NocSt} {span : Tab SpanPort} {inject : Tab Bool} {prbs : Tab Nat} {dram :
    DramSt} {procs : Tab Proc} {cfg : CfgSt} {img : ImgSt} {churn : ChurnSt} {fab : FabSt} {slc : SlicesSt} {mem : MemSt}
    {time : TimeSt} {cel : CelSt} {scr : ScrSt} {fen : FenSt} {dma : Tab DmaCh} {svc : Tab SvcPort} {cores : CoreMem} {pwr :
    PwrSt} {lcs : LcsSt} {bist : BistSt} {pins : PinSt}
    (hr : twf resetWord s.regs = true → twf resetWord regs = true)
    (hc : (twf (fun _ => ({} : Ctr)) s.ctrs = true → twf (fun _ => ({} : Ctr)) ctrs = true) ∧ ∀ p ∈ ctrs, p ∈ s.ctrs)
    (hh : (mgt.hosts, mem.bm, mem.dm, slc.opm, scr.w, cfg.live, cfg.planeA, cfg.planeB, cel.words) = (s.mgt.hosts, s.mems))
    (h : Ev s0 s) :
    Ev s0 ⟨regs, ctrs, latches, mtime, freeCtr, answer, mgt, dbg, logs, irq, clk, noc, span, inject, prbs, dram, procs,
      cfg, img, churn, fab, slc, mem, time, cel, scr, fen, dma, svc, cores, pwr, lcs, bist, pins, s.pending⟩ :=
  h.trans ⟨rfl, fun x => ⟨hc.1 x.1, fun p m => x.2 p (hc.2 p m)⟩, fun x => by simpa [State.hostsOk, (Prod.mk.inj hh).1] using x, hr,
    mems_ok (Prod.mk.inj hh).2⟩

theorem pair_ev {β : Type} {s0 s : State} {b : β} (h : Ev s0 s) : Ev s0 (s, b).1 := h

theorem ite_ev {s0 a b : State} {c : Prop} [Decidable c] (ha : Ev s0 a) (hb : Ev s0 b) : Ev s0 (if c then a else b) := by
  split <;> assumption

theorem ite_ev1 {β : Type} {s0 : State} {a b : State × β} {c : Prop} [Decidable c] (ha : Ev s0 a.1) (hb : Ev s0 b.1) :
    Ev s0 (if c then a else b).1 := by
  split <;> assumption

theorem ite_ev2 {β : Type} {s0 : State} {a b : β × State} {c : Prop} [Decidable c] (ha : Ev s0 a.2) (hb : Ev s0 b.2) :
    Ev s0 (if c then a else b).2 := by
  split <;> assumption

theorem foldl_ev {α : Type} {s0 : State} {f : State → α → State} (l : List α) (s : State)
    (hf : ∀ s x, Ev s0 s → Ev s0 (f s x)) (h : Ev s0 s) : Ev s0 (l.foldl f s) := by
  induction l generalizing s with
  | nil => exact h
  | cons x l ih => exact ih _ (hf _ _ h)

theorem foldl_ev1 {α β : Type} {s0 : State} {f : State × β → α → State × β} (l : List α) (s : State × β)
    (hf : ∀ s x, Ev s0 s.1 → Ev s0 (f s x).1) (h : Ev s0 s.1) : Ev s0 (l.foldl f s).1 := by
  induction l generalizing s with
  | nil => exact h
  | cons x l ih => exact ih _ (hf _ _ h)

theorem foldl_ev2 {α β : Type} {s0 : State} {f : (β × State) → α → β × State} (l : List α) (s : β × State)
    (hf : ∀ s x, Ev s0 s.2 → Ev s0 (f s x).2) (h : Ev s0 s.2) : Ev s0 (l.foldl f s).2 := by
  induction l generalizing s with
  | nil => exact h
  | cons x l ih => exact ih _ (hf _ _ h)

theorem foldl_ev22 {α β γ : Type} {s0 : State} {f : (β × γ × State) → α → β × γ × State} (l : List α) (s : β × γ × State)
    (hf : ∀ s x, Ev s0 s.2.2 → Ev s0 (f s x).2.2) (h : Ev s0 s.2.2) : Ev s0 (l.foldl f s).2.2 := by
  induction l generalizing s with
  | nil => exact h
  | cons x l ih => exact ih _ (hf _ _ h)

theorem ite_ev22 {β γ : Type} {s0 : State} {a b : β × γ × State} {c : Prop} [Decidable c] (ha : Ev s0 a.2.2) (hb : Ev s0 b.2.2) :
    Ev s0 (if c then a else b).2.2 := by
  split <;> assumption

theorem foldl_ev21 {α β γ : Type} {s0 : State} {f : (β × State × γ) → α → β × State × γ} (l : List α) (s : β × State × γ)
    (hf : ∀ s x, Ev s0 s.2.1 → Ev s0 (f s x).2.1) (h : Ev s0 s.2.1) : Ev s0 (l.foldl f s).2.1 := by
  induction l generalizing s with
  | nil => exact h
  | cons x l ih => exact ih _ (hf _ _ h)

theorem ite_ev21 {β γ : Type} {s0 : State} {a b : β × State × γ} {c : Prop} [Decidable c] (ha : Ev s0 a.2.1) (hb : Ev s0 b.2.1) :
    Ev s0 (if c then a else b).2.1 := by
  split <;> assumption

/-- A state that may not come about. -/
def EvO (s0 : State) (o : Option State) : Prop := ∀ t, o = some t → Ev s0 t

theorem EvO.none {s0 : State} : EvO s0 none := fun _ e => nomatch e

theorem EvO.some {s0 s : State} (h : Ev s0 s) : EvO s0 (some s) := fun _ e => Option.some.inj e ▸ h

theorem ite_evO {s0 : State} {a b : Option State} {c : Prop} [Decidable c] (ha : EvO s0 a) (hb : EvO s0 b) :
    EvO s0 (if c then a else b) := by
  split <;> assumption

/-! Tables. -/

theorem mem_tdel {α : Type} {t : Tab α} {k : Nat} {p : Nat × α} (h : p ∈ tdel t k) : p ∈ t := by
  induction t with
  | nil => simp [tdel] at h
  | cons q t ih =>
    obtain ⟨j, v⟩ := q
    simp only [tdel] at h
    split at h
    · exact List.mem_cons_of_mem _ h
    · rcases List.mem_cons.1 h with h | h
      · exact h ▸ List.mem_cons_self
      · exact List.mem_cons_of_mem _ (ih h)

theorem mem_tins {α : Type} {t : Tab α} {k : Nat} {x : α} {p : Nat × α} (h : p ∈ tins t k x) : p = (k, x) ∨ p ∈ t := by
  induction t with
  | nil => simpa [tins] using h
  | cons q t ih =>
    obtain ⟨j, v⟩ := q
    simp only [tins] at h
    split at h
    · simpa using h
    · split at h
      · rcases List.mem_cons.1 h with h | h
        · exact .inl h
        · exact .inr (List.mem_cons_of_mem _ h)
      · rcases List.mem_cons.1 h with h | h
        · exact .inr (h ▸ List.mem_cons_self)
        · rcases ih h with h | h
          · exact .inl h
          · exact .inr (List.mem_cons_of_mem _ h)

theorem mem_tput {α : Type} [DecidableEq α] {t : Tab α} {k : Nat} {x d : α} {p : Nat × α} (h : p ∈ tput t k x d) :
    p = (k, x) ∨ p ∈ t := by
  unfold tput at h
  split at h
  · exact .inr (mem_tdel h)
  · exact mem_tins h

/-- What a table holds at an index is the unlisted value, or stands in the table. -/
theorem tget_cases {α : Type} (t : Tab α) (k : Nat) (d : α) : tget t k d = d ∨ (k, tget t k d) ∈ t := by
  induction t with
  | nil => exact .inl rfl
  | cons q t ih =>
    obtain ⟨j, v⟩ := q
    simp only [tget]
    split
    · rename_i e
      exact .inr (by simp [e])
    · rcases ih with h | h
      · exact .inl h
      · exact .inr (List.mem_cons_of_mem _ h)

theorem tsorted_mono {α : Type} {m n : Nat} (h : m ≤ n) {t : Tab α} (w : tsorted n t = true) : tsorted m t = true := by
  cases t with
  | nil => rfl
  | cons q t =>
    obtain ⟨j, v⟩ := q
    simp only [tsorted, Bool.and_eq_true, decide_eq_true_eq] at w ⊢
    exact ⟨by omega, w.2⟩

theorem tsorted_tdel {α : Type} {n : Nat} {t : Tab α} (k : Nat) (w : tsorted n t = true) : tsorted n (tdel t k) = true := by
  induction t generalizing n with
  | nil => rfl
  | cons q t ih =>
    obtain ⟨j, v⟩ := q
    simp only [tsorted, Bool.and_eq_true, decide_eq_true_eq] at w
    simp only [tdel]
    split
    · exact tsorted_mono (by omega) w.2
    · simp only [tsorted, Bool.and_eq_true, decide_eq_true_eq]
      exact ⟨w.1, ih w.2⟩

theorem tsorted_tins {α : Type} {n k : Nat} {t : Tab α} {x : α} (hk : n ≤ k) (w : tsorted n t = true) :
    tsorted n (tins t k x) = true := by
  induction t generalizing n with
  | nil => simp [tins, tsorted, hk]
  | cons q t ih =>
    obtain ⟨j, v⟩ := q
    simp only [tsorted, Bool.and_eq_true, decide_eq_true_eq] at w
    simp only [tins]
    split
    · simp only [tsorted, Bool.and_eq_true, decide_eq_true_eq]
      exact ⟨hk, by omega, w.2⟩
    · split
      · rename_i e
        simp only [tsorted, Bool.and_eq_true, decide_eq_true_eq]
        exact ⟨hk, e ▸ w.2⟩
      · simp only [tsorted, Bool.and_eq_true, decide_eq_true_eq]
        exact ⟨w.1, ih (by omega) w.2⟩

/-- A write keeps the canonical form. -/
theorem twf_tput {α : Type} [DecidableEq α] {dflt : Nat → α} {t : Tab α} (k : Nat) (x : α) (w : twf dflt t = true) :
    twf dflt (tput t k x (dflt k)) = true := by
  simp only [twf, Bool.and_eq_true, List.all_eq_true, decide_eq_true_eq] at w ⊢
  unfold tput
  split
  · exact ⟨tsorted_tdel k w.1, fun p h => w.2 p (mem_tdel h)⟩
  · rename_i e
    refine ⟨tsorted_tins (by omega) w.1, fun p h => ?_⟩
    rcases mem_tins h with h | h
    · subst h
      exact e
    · exact w.2 p h

/-- A table written keeps its canonical form, where unlisted entries read as one value. -/
theorem twf_put {α : Type} [DecidableEq α] {d : α} {t : Tab α} (k : Nat) (x : α) (h : twf (fun _ => d) t = true) :
    twf (fun _ => d) (tput t k x d) = true := twf_tput (dflt := fun _ => d) k x h

/-- So does one whose listed values change, none to the value unlisted entries read as. -/
theorem twf_map {α : Type} [DecidableEq α] {d : α} {t : Tab α} (f : Nat × α → Nat × α) (hk : ∀ p, (f p).1 = p.1)
    (hv : ∀ p, p.2 ≠ d → (f p).2 ≠ d) (h : twf (fun _ => d) t = true) : twf (fun _ => d) (t.map f) = true := by
  simp only [twf, Bool.and_eq_true, List.all_eq_true, decide_eq_true_eq] at h ⊢
  have a : ∀ n, tsorted n t = true → tsorted n (t.map f) = true := by
    clear h
    induction t with
    | nil => exact fun _ _ => rfl
    | cons q t ih =>
      intro n w
      have e := hk q
      have u := ih (q.1 + 1)
      rw [List.map_cons]
      generalize f q = x at e ⊢
      obtain ⟨i, y⟩ := x
      obtain ⟨j, v⟩ := q
      simp only [tsorted, Bool.and_eq_true, decide_eq_true_eq] at w e u ⊢
      subst e
      exact ⟨w.1, u w.2⟩
  refine ⟨a 0 h.1, fun p m => ?_⟩
  obtain ⟨q, k, rfl⟩ := List.mem_map.1 m
  exact hv q (h.2 q k)

theorem tsorted_filter {α : Type} {n : Nat} {t : Tab α} (p : Nat × α → Bool) (w : tsorted n t = true) :
    tsorted n (t.filter p) = true := by
  induction t generalizing n with
  | nil => rfl
  | cons q t ih =>
    obtain ⟨j, v⟩ := q
    simp only [tsorted, Bool.and_eq_true, decide_eq_true_eq] at w
    rw [List.filter_cons]
    split
    · simp only [tsorted, Bool.and_eq_true, decide_eq_true_eq]
      exact ⟨w.1, ih w.2⟩
    · exact tsorted_mono (by omega) (ih w.2)

/-- What a filter keeps was there. -/
theorem mem_tfilter {α : Type} {t : Tab α} {p : Nat → α → Bool} {x : Nat × α} (h : x ∈ tfilter p t) : x ∈ t :=
  List.mem_of_mem_filter h

/-- A filter keeps the canonical form. -/
theorem twf_tfilter {α : Type} [DecidableEq α] {dflt : Nat → α} {t : Tab α} (p : Nat → α → Bool) (w : twf dflt t = true) :
    twf dflt (tfilter p t) = true := by
  simp only [twf, tfilter, Bool.and_eq_true, List.all_eq_true, decide_eq_true_eq] at w ⊢
  exact ⟨tsorted_filter _ w.1, fun q h => w.2 q (List.mem_of_mem_filter h)⟩

/-- A change of the memories that keeps their canonical form. -/
theorem Ev.mem {s0 s t : State} (hp : t.pending = s.pending) (hc : t.ctrs = s.ctrs) (hh : t.mgt.hosts = s.mgt.hosts)
    (hr : t.regs = s.regs) (hm : s.memoryOk → t.memoryOk) (h : Ev s0 s) : Ev s0 t :=
  h.trans ⟨hp, fun x => by simpa [State.countersOk, hc] using x, fun x => by simpa [State.hostsOk, hh] using x,
    fun x => by simpa [State.regsOk, hr] using x, hm⟩

/-- A change of the configuration that keeps the live frames' canonical form and leaves the planes. -/
theorem cfg_ev {s0 s : State} (c : CfgSt)
    (hl : twf (fun _ => (0 : Frame)) s.cfg.live = true → twf (fun _ => (0 : Frame)) c.live = true)
    (ha : c.planeA = s.cfg.planeA) (hb : c.planeB = s.cfg.planeB) (h : Ev s0 s) : Ev s0 { s with cfg := c } :=
  Ev.mem (s := s) rfl rfl rfl rfl
    (fun k => ⟨k.bm, k.dm, k.opm, k.scr, hl k.live, ha ▸ k.planeA, hb ▸ k.planeB, k.words⟩) h

/-- A change of the fabric alone. -/
theorem fab_ev {s0 s : State} (f : FabSt) (h : Ev s0 s) : Ev s0 { s with fab := f } := Ev.same (s := s) rfl rfl rfl rfl rfl h

theorem prbs_ev {s0 s : State} (x : Tab Nat) (h : Ev s0 s) : Ev s0 { s with prbs := x } := Ev.same (s := s) rfl rfl rfl rfl rfl h

/-- What an edge of clock lines writes. -/
theorem edge_ev {s0 t : State} (f : FabSt) (l : Tab Frame) (x : Tab SliceSt) (a : Tab MArr) (n : Tab Nat)
    (hl : twf (fun _ => (0 : Frame)) t.cfg.live = true → twf (fun _ => (0 : Frame)) l = true) (h : Ev s0 t) :
    Ev s0 { t with
      fab := f
      cfg := { t.cfg with live := l }
      slc := { t.slc with s := x }
      mem := { t.mem with bmA := a }
      time := { t.time with nowReg := n } } :=
  Ev.mem (s := t) rfl rfl rfl rfl (fun k => ⟨k.bm, k.dm, k.opm, k.scr, hl k.live, k.planeA, k.planeB, k.words⟩) h

/-! The operations that write counters, hosts and registers. -/

theorem State.setReg_ev {s0 s : State} (a : Nat) (w : Word) (h : Ev s0 s) : Ev s0 (s.setReg a w) :=
  h.trans ⟨rfl, id, id, fun x => twf_tput a w x, mems_ok rfl⟩

theorem setCtr_ev {s0 s : State} (a : Nat) (c : Ctr) (k : s.countersOk → c.val ≤ ctrMax) (h : Ev s0 s) :
    Ev s0 { s with ctrs := tput s.ctrs a c {} } :=
  h.trans ⟨rfl, fun x => ⟨twf_tput (dflt := fun _ => {}) a c x.1, fun p m => (mem_tput m).elim (fun e => e ▸ k x) (x.2 p)⟩,
    id, id, mems_ok rfl⟩

theorem State.ctrAdd_ev {s0 s : State} (a n : Nat) (h : Ev s0 s) : Ev s0 (s.ctrAdd a n).1 := by
  exact setCtr_ev a _ (fun _ => Nat.min_le_left _ _) h

theorem State.ctrClear_ev {s0 s : State} (a : Nat) (h : Ev s0 s) : Ev s0 (s.ctrClear a) := by
  exact setCtr_ev a _ (fun _ => Nat.zero_le _) h

theorem State.ctrLatch_ev {s0 s : State} (a : Nat) (h : Ev s0 s) : Ev s0 (s.ctrLatch a) := by
  refine setCtr_ev a _ (fun x => ?_) h
  rcases tget_cases s.ctrs a {} with e | e
  · show (tget s.ctrs a {}).val ≤ ctrMax
    rw [e]
    exact Nat.zero_le _
  · exact x.2 _ e

/-! A host that is put back has to keep its bounds. -/

theorem ok_keep {x w : HostSt} (hq : w.queue.length ≤ x.queue.length) (hs : w.sess = x.sess) (h : x.ok) : w.ok :=
  ⟨Nat.le_trans hq h.1, hs ▸ h.2⟩

theorem ok_none {x w : HostSt} (hq : w.queue.length ≤ x.queue.length) (hs : w.sess = none) (h : x.ok) : w.ok :=
  ⟨Nat.le_trans hq h.1, by simp [hs]⟩

theorem ok_some {x w : HostSt} {y z : Session} (e : x.sess = some y) (hq : w.queue.length ≤ x.queue.length)
    (hs : w.sess = some z) (hl : z.slots.length ≤ y.slots.length) (h : x.ok) : w.ok :=
  ⟨Nat.le_trans hq h.1, fun v m => by
    rw [hs, Option.mem_some_iff] at m
    exact m ▸ Nat.le_trans hl (h.2 y e)⟩

/-- A host that is put back has to keep its bounds where it had them. -/
theorem State.setHost_ev {s0 s : State} (i : Nat) (x : HostSt) (k : (s.host i).ok → x.ok) (h : Ev s0 s) :
    Ev s0 (s.setHost i x) := by
  refine h.trans ⟨rfl, id, fun y => ⟨twf_tput (dflt := fun _ => {}) i x y.1, fun p m => ?_⟩, id, mems_ok rfl⟩
  rcases mem_tput m with rfl | m
  · refine k ?_
    rcases tget_cases s.mgt.hosts i {} with e | e
    · show (tget s.mgt.hosts i {}).ok
      rw [e]
      exact ⟨by simp, by simp⟩
    · exact y.2 _ e
  · exact y.2 p m

end Sys2Proof.Machine
end

