-- ==== Sys2Proof/Laws/Ops.lean ====
section
/-! SUPPORT. The operations of Machine/Ops.lean leave the queue of commands alone and keep the invariant. -/

namespace Sys2Proof.Machine

theorem length_mapFirst {α : Type} (p : α → Bool) (f : α → α) (l : List α) : (mapFirst p f l).length = l.length := by
  induction l with
  | nil => rfl
  | cons x l ih =>
    unfold mapFirst
    split <;> simp [ih]

theorem length_dropLastOf {α : Type} (p : α → Bool) {l : List α} {x : α} (h : x ∈ l) (k : p x = true) :
    (dropLastOf p l).length + 1 = l.length := by
  have e := List.length_eraseP_of_mem (p := p) (List.mem_reverse.2 h) k
  have n : 0 < l.length := List.length_pos_of_mem h
  rw [List.length_reverse] at e
  unfold dropLastOf
  rw [List.length_reverse]
  omega

theorem State.wr_ev {s0 : State} {s : State} (f : Fld) (v : Nat) (hs0 : Ev s0 s) : Ev s0 (State.wr s f v) := by
  unfold State.wr
  repeat' with_reducible first | assumption | apply State.setReg_ev

theorem State.wrb_ev {s0 : State} {s : State} (f : Fld) (b : Bool) (hs0 : Ev s0 s) : Ev s0 (State.wrb s f b) := by
  unfold State.wrb
  repeat' with_reducible first | assumption | apply State.wr_ev

theorem State.wrm_ev {s0 : State} {s : State} (f : Fld) (i : Nat) (b : Bool) (hs0 : Ev s0 s) : Ev s0 (State.wrm s f i b) := by
  unfold State.wrm
  repeat' with_reducible first | assumption | apply State.wr_ev

theorem State.fresh_ev {s0 : State} {s : State} (hs0 : Ev s0 s) : Ev s0 (State.fresh s).2 := by
  unfold State.fresh
  repeat' with_reducible first | assumption | refine Ev.lit rfl ?_

theorem State.enqueue_ev {s0 s : State} (h : Nat) (d : EvData) (hs0 : Ev s0 s) : Ev s0 (s.enqueue h d).1 := by
  unfold State.enqueue
  dsimp only
  split
  · refine State.ctrAdd_ev _ _ (State.setHost_ev _ _ (fun k => ⟨?_, k.2⟩) hs0)
    show (mapFirst _ _ _).length ≤ 256
    rw [length_mapFirst]
    exact k.1
  · split
    · refine State.setHost_ev _ _ (fun k => ⟨?_, k.2⟩) (Ev.lit rfl hs0)
      rename_i q
      simp only [List.length_append, List.length_cons, List.length_nil]
      omega
    · split
      · rename_i v e
        refine State.ctrAdd_ev _ _ (State.setHost_ev _ _ (fun k => ⟨?_, k.2⟩) (Ev.lit rfl hs0))
        split at e
        · have m := List.find?_some e
          have q := k.1
          simp only [Bool.and_eq_true, List.any_eq_true] at m
          obtain ⟨-, x, hx, p⟩ := m
          have l := length_dropLastOf (fun e : EvEntry => e.sent.isNone && e.d.sev == v) hx (by simpa using p)
          simp only [HostSt.lose, List.length_append, List.length_cons, List.length_nil]
          change (s.host h).queue.length ≤ 256 at q
          omega
        · simp at e
      · exact State.ctrAdd_ev _ _ (State.setHost_ev _ _ (fun k => ⟨k.1, k.2⟩) hs0)

theorem State.logEvent_ev {s0 : State} {s : State} (d : EvData) (hs0 : Ev s0 s) : Ev s0 (State.logEvent s d) := by
  unfold State.logEvent
  repeat' with_reducible first | assumption | apply ite_ev | apply ite_ev1 | apply ite_ev2 | refine Ev.lit rfl ?_

theorem raiseTo_ev {s0 s : State} (n : Nat) (hs : List Nat) (d : EvData) (h : Ev s0 s) : Ev s0 (raiseTo n hs d s) := by
  induction n generalizing hs d s with
  | zero => exact h
  | succ n ih =>
    unfold raiseTo
    refine foldl_ev _ _ (fun s x k => ?_) (State.logEvent_ev _ h)
    dsimp only
    split
    · exact ih _ _ (State.enqueue_ev _ _ k)
    · exact State.enqueue_ev _ _ k

theorem State.raiseAt_ev {s0 : State} {s : State} (hs : List Nat) (k : EvKind) (vat source : Nat) (args : List Nat) (hs0 : Ev s0 s) : Ev s0 (State.raiseAt s hs k vat source args) := by
  unfold State.raiseAt
  repeat' with_reducible first | assumption | apply raiseTo_ev

theorem State.raiseVat_ev {s0 : State} {s : State} (v : Nat) (k : EvKind) (source : Nat) (args : List Nat) (hs0 : Ev s0 s) : Ev s0 (State.raiseVat s v k source args) := by
  unfold State.raiseVat
  repeat' with_reducible first | assumption | apply State.raiseAt_ev

theorem State.raiseDev_ev {s0 : State} {s : State} (k : EvKind) (source : Nat) (args : List Nat) (hs0 : Ev s0 s) : Ev s0 (State.raiseDev s k source args) := by
  unfold State.raiseDev
  repeat' with_reducible first | assumption | apply State.raiseAt_ev

theorem State.bump_ev {s0 : State} {s : State} (off : Nat) (n : Nat) (hs0 : Ev s0 s) : Ev s0 (State.bump s off n) := by
  unfold State.bump
  repeat' with_reducible first | assumption | apply State.ctrAdd_ev | apply raiseTo_ev | apply ite_ev

theorem State.audit_ev {s0 : State} {s : State} (a : AudEntry) (hs0 : Ev s0 s) : Ev s0 (State.audit s a) := by
  unfold State.audit
  repeat' with_reducible first | assumption | refine Ev.lit rfl ?_

theorem State.enterMode_ev {s0 : State} {s : State} (m : Nat) (hs0 : Ev s0 s) : Ev s0 (State.enterMode s m) := by
  unfold State.enterMode
  repeat' with_reducible first | assumption | apply State.raiseDev_ev | apply State.wr_ev | apply ite_ev

theorem State.settleMode_ev {s0 : State} {s : State} (hs0 : Ev s0 s) : Ev s0 (State.settleMode s) := by
  unfold State.settleMode
  repeat' with_reducible first | assumption | apply State.enterMode_ev | apply ite_ev

end Sys2Proof.Machine
end

