-- ==== Sys2Proof/Laws/Irq.lean ====
section
/-! SUPPORT. The operations of Machine/Irq.lean leave the queue of commands alone and keep the invariant. -/

namespace Sys2Proof.Machine

theorem State.setProc_ev {s0 : State} {s : State} (c : Nat) (p : Proc) (hs0 : Ev s0 s) : Ev s0 (State.setProc s c p) := by
  unfold State.setProc
  repeat' with_reducible first | assumption | refine Ev.lit rfl ?_

theorem State.cpuRan_ev {s0 : State} {s : State} (c : Nat) (r : CpuRun) (hs0 : Ev s0 s) : Ev s0 (State.cpuRan s c r) := by
  unfold State.cpuRan
  repeat' with_reducible first | assumption | apply State.setProc_ev | refine Ev.lit rfl ?_

theorem State.setLevel_ev {s0 : State} {s : State} (i : Nat) (b : Bool) (hs0 : Ev s0 s) : Ev s0 (State.setLevel s i b) := by
  unfold State.setLevel
  repeat' with_reducible first | assumption | refine Ev.lit rfl ?_

theorem State.setLatch_ev {s0 : State} {s : State} (i : Nat) (b : Bool) (hs0 : Ev s0 s) : Ev s0 (State.setLatch s i b) := by
  unfold State.setLatch
  repeat' with_reducible first | assumption | refine Ev.lit rfl ?_

theorem State.setClaim_ev {s0 : State} {s : State} (i n : Nat) (hs0 : Ev s0 s) : Ev s0 (State.setClaim s i n) := by
  unfold State.setClaim
  repeat' with_reducible first | assumption | refine Ev.lit rfl ?_

theorem State.setOffer_ev {s0 : State} {s : State} (i n : Nat) (hs0 : Ev s0 s) : Ev s0 (State.setOffer s i n) := by
  unfold State.setOffer
  repeat' with_reducible first | assumption | apply State.offer_ev | refine Ev.lit rfl ?_

theorem State.offerOne_ev {s0 : State} {s : State} (i : Nat) (hs0 : Ev s0 s) : Ev s0 (State.offerOne s i) := by
  unfold State.offerOne
  repeat' with_reducible first | assumption | apply State.offer_ev | apply State.setOffer_ev | apply State.wrb_ev | apply ite_ev | apply ite_ev1 | apply ite_ev2 | split | refine Ev.lit rfl ?_

theorem State.reoffer_ev {s0 : State} {s : State} (hs0 : Ev s0 s) : Ev s0 (State.reoffer s) := by
  unfold State.reoffer
  repeat' with_reducible first | assumption | apply State.offerOne_ev | refine foldl_ev _ _ (fun _ _ _ => ?_) ?_

theorem State.srcSet_ev {s0 : State} {s : State} (i : Nat) (b : Bool) (hs0 : Ev s0 s) : Ev s0 (State.srcSet s i b) := by
  unfold State.srcSet
  repeat' with_reducible first | assumption | apply State.bump_ev | apply State.raiseAt_ev | apply State.reoffer_ev | apply State.setLatch_ev | apply State.setLevel_ev | apply ite_ev | apply ite_ev1 | apply ite_ev2 | split

theorem State.srcPulse_ev {s0 : State} {s : State} (i : Nat) (hs0 : Ev s0 s) : Ev s0 (State.srcPulse s i) := by
  unfold State.srcPulse
  repeat' with_reducible first | assumption | apply State.srcSet_ev

theorem State.claim_ev {s0 : State} {s : State} (c i : Nat) (hs0 : Ev s0 s) : Ev s0 (State.claim s c i) := by
  unfold State.claim
  repeat' with_reducible first | assumption | apply State.reoffer_ev | apply State.setClaim_ev | apply State.setLatch_ev | apply State.setOffer_ev | apply State.setProc_ev | apply State.wr_ev | apply State.wrb_ev

theorem State.complete_ev {s0 : State} {s : State} (c i : Nat) (hs0 : Ev s0 s) : Ev s0 (State.complete s c i) := by
  unfold State.complete
  repeat' with_reducible first | assumption | apply State.reoffer_ev | apply State.setClaim_ev | apply State.setProc_ev | apply State.wr_ev | apply State.wrb_ev | apply ite_ev

theorem State.completeAll_ev {s0 : State} {s : State} (c : Nat) (hs0 : Ev s0 s) : Ev s0 (State.completeAll s c) := by
  unfold State.completeAll
  repeat' with_reducible first | assumption | apply State.reoffer_ev | apply State.setClaim_ev | apply State.setProc_ev | apply State.wr_ev | apply State.wrb_ev | split

end Sys2Proof.Machine
end

