-- ==== Sys2Proof/Laws/Noc.lean ====
section
/-! SUPPORT. The operations of Machine/Noc.lean leave the queue of commands alone and keep the invariant. -/

namespace Sys2Proof.Machine


theorem State.mapCached_ev {s0 : State} {s : State} (i a : Nat) (hs0 : Ev s0 s) : Ev s0 (State.mapCached s i a).1 := by
  unfold State.mapCached
  repeat' with_reducible first | assumption | apply State.fresh_ev | apply ite_ev | apply ite_ev1 | apply ite_ev2 | apply ite_ev22 | apply ite_ev21 | dsimp only | intro _ _ _ _ | intro _ _ _ | intro _ _ | split | refine Ev.lit rfl ?_

theorem State.regUse_ev {s0 : State} {s : State} (i n : Nat) (hs0 : Ev s0 s) : Ev s0 (State.regUse s i n) := by
  unfold State.regUse
  repeat' with_reducible first | assumption | apply ite_ev | apply ite_ev1 | apply ite_ev2 | split | refine Ev.lit rfl ?_

theorem State.setTag_ev {s0 : State} {s : State} (i t : Nat) (x : TagSt) (hs0 : Ev s0 s) : Ev s0 (State.setTag s i t x) := by
  unfold State.setTag
  repeat' with_reducible first | assumption | refine Ev.lit rfl ?_

theorem State.freeTag_ev {s0 : State} {s : State} (i t : Nat) (hs0 : Ev s0 s) : Ev s0 (State.freeTag s i t) := by
  unfold State.freeTag
  repeat' with_reducible first | assumption | refine Ev.lit rfl ?_

theorem State.deliver_ev {s0 : State} {s : State} (i t : Nat) (st : Status) (data : BitVec 512) (poison : Bool) (hs0 : Ev s0 s) : Ev s0 (State.deliver s i t st data poison) := by
  unfold State.deliver
  repeat' with_reducible first | assumption | apply State.bump_ev | apply ite_ev | apply ite_ev1 | apply ite_ev2 | dsimp only | refine Ev.lit rfl ?_

theorem State.decodeRq_ev {s0 : State} {s : State} (i vat : Nat) (rq : NocRq) (hs0 : Ev s0 s) : Ev s0 (State.decodeRq s i vat rq).1 := by
  unfold State.decodeRq
  repeat' with_reducible first | assumption | apply State.mapCached_ev | apply State.wr_ev | apply ite_ev | apply ite_ev1 | apply ite_ev2 | apply ite_ev22 | apply ite_ev21 | dsimp only | refine Ev.lit rfl ?_

theorem State.setPort_ev {s0 : State} {s : State} (k : Nat) (p : SpanPort) (hs0 : Ev s0 s) : Ev s0 (State.setPort s k p) := by
  unfold State.setPort
  repeat' with_reducible first | assumption | refine Ev.lit rfl ?_

theorem State.spanFree_ev {s0 : State} {s : State} (k vc : Nat) (hs0 : Ev s0 s) : Ev s0 (State.spanFree s k vc) := by
  unfold State.spanFree
  repeat' with_reducible first | assumption | apply State.setPort_ev | apply ite_ev | apply ite_ev1 | apply ite_ev2 | apply ite_ev22 | apply ite_ev21 | dsimp only | intro _ _ _ _ | intro _ _ _ | intro _ _ | refine Ev.lit rfl ?_

theorem State.enterMesh_ev {s0 : State} {s : State} (m : Moving) (span : Option Nat) (hs0 : Ev s0 s) : Ev s0 (State.enterMesh s m span) := by
  unfold State.enterMesh
  repeat' with_reducible first | assumption | apply State.spanFree_ev | apply ite_ev | apply ite_ev1 | apply ite_ev2 | apply ite_ev22 | apply ite_ev21 | dsimp only | intro _ _ _ _ | intro _ _ _ | intro _ _ | split | refine Ev.lit rfl ?_

theorem State.refill_ev {s0 : State} {s : State} (id : Nat) (hs0 : Ev s0 s) : Ev s0 (State.refill s id) := by
  unfold State.refill
  repeat' with_reducible first | assumption | apply State.enterMesh_ev | refine foldl_ev _ _ (fun _ _ _ => ?_) ?_ | refine foldl_ev1 _ _ (fun _ _ _ => ?_) ?_ | refine foldl_ev2 _ _ (fun _ _ _ => ?_) ?_ | refine foldl_ev22 _ _ (fun _ _ _ => ?_) ?_ | refine foldl_ev21 _ _ (fun _ _ _ => ?_) ?_ | dsimp only | intro _ _ _ _ | intro _ _ _ | intro _ _ | refine Ev.lit rfl ?_

theorem State.sendRq_ev {s0 : State} {s : State} (i : Nat) (w : Waiting) (hs0 : Ev s0 s) : Ev s0 (State.sendRq s i w) := by
  unfold State.sendRq
  repeat' with_reducible first | assumption | apply State.bump_ev | apply State.regUse_ev | apply State.setTag_ev | apply State.spanFree_ev | apply ite_ev | apply ite_ev1 | apply ite_ev2 | apply ite_ev22 | apply ite_ev21 | dsimp only | refine Ev.lit rfl ?_

theorem State.hold_ev {s0 : State} {s : State} (i : Nat) (w : Waiting) (hs0 : Ev s0 s) : Ev s0 (State.hold s i w) := by
  unfold State.hold
  repeat' with_reducible first | assumption | refine Ev.lit rfl ?_

theorem State.offer_ev {s0 : State} {s : State} (i : Nat) (w : Waiting) (hs0 : Ev s0 s) : Ev s0 (State.offer s i w) := by
  unfold State.offer
  repeat' with_reducible first | assumption | apply State.hold_ev | apply State.sendRq_ev | apply ite_ev

theorem State.retry_ev {s0 s : State} (n i : Nat) (h : Ev s0 s) : Ev s0 (State.retry n i s) := by
  induction n generalizing s with
  | zero => exact h
  | succ n ih =>
    unfold State.retry
    split
    · exact h
    · exact ite_ev (ih (State.sendRq_ev _ _ (Ev.lit rfl h))) h

theorem State.retryAll_ev {s0 : State} {s : State} (i : Nat) (hs0 : Ev s0 s) : Ev s0 (State.retryAll s i) := by
  unfold State.retryAll
  repeat' with_reducible first | assumption | apply State.retry_ev

theorem State.issue_ev {s0 : State} {s : State} (i vat : Nat) (rq : NocRq) (hs0 : Ev s0 s) : Ev s0 (State.issue s i vat rq) := by
  unfold State.issue
  repeat' with_reducible first | assumption | apply State.decodeRq_ev | apply State.deliver_ev | apply State.offer_ev | apply ite_ev | apply ite_ev1 | apply ite_ev2 | apply ite_ev22 | apply ite_ev21 | dsimp only | refine Ev.lit rfl ?_

theorem State.headerLoss_ev {s0 : State} {s : State} (src : Nat) (hs0 : Ev s0 s) : Ev s0 (State.headerLoss s src) := by
  unfold State.headerLoss
  repeat' with_reducible first | assumption | apply State.bump_ev | apply State.raiseDev_ev | apply State.srcPulse_ev

theorem State.eject_ev {s0 : State} {s : State} (id : Nat) (m : Moving) (hs0 : Ev s0 s) : Ev s0 (State.eject s id m) := by
  unfold State.eject
  repeat' with_reducible first | assumption | apply ite_ev | apply ite_ev1 | apply ite_ev2 | dsimp only | refine Ev.lit rfl ?_

theorem State.sendRsp_ev {s0 : State} {s : State} (id : Nat) (m : Moving) (f : Flit) (hs0 : Ev s0 s) : Ev s0 (State.sendRsp s id m f) := by
  unfold State.sendRsp
  repeat' with_reducible first | assumption | apply State.enterMesh_ev | refine Ev.lit rfl ?_

theorem State.respond_ev {s0 : State} {s : State} (id : Nat) (m : Moving) (st : Status) (data : BitVec 512) (hs0 : Ev s0 s) : Ev s0 (State.respond s id m st data) := by
  unfold State.respond
  repeat' with_reducible first | assumption | apply State.sendRsp_ev

theorem State.latency_ev {s0 : State} {s : State} (i cycles : Nat) (hs0 : Ev s0 s) : Ev s0 (State.latency s i cycles) := by
  unfold State.latency
  repeat' with_reducible first | assumption | apply State.bump_ev | apply State.wr_ev | apply ite_ev | apply ite_ev1 | apply ite_ev2 | apply ite_ev22 | apply ite_ev21 | dsimp only

theorem State.takeResponse_ev {s0 : State} {s : State} (i : Nat) (m : Moving) (cycles : Nat) (hs0 : Ev s0 s) : Ev s0 (State.takeResponse s i m cycles).1 := by
  unfold State.takeResponse
  repeat' with_reducible first | assumption | apply State.bump_ev | apply State.deliver_ev | apply State.freeTag_ev | apply State.latency_ev | apply State.retryAll_ev | apply ite_ev | apply ite_ev1 | apply ite_ev2 | apply ite_ev22 | apply ite_ev21 | dsimp only | split | refine Ev.lit rfl ?_

theorem State.drawAll_ev {s0 s : State} (n r : Nat) (h : Ev s0 s) : Ev s0 (State.drawAll n r s) := by
  induction n generalizing s with
  | zero => exact h
  | succ n ih =>
    unfold State.drawAll
    split
    · exact h
    · exact ih (State.retry_ev _ _ h)

theorem State.drawFrom_ev {s0 : State} {s : State} (r : Nat) (hs0 : Ev s0 s) : Ev s0 (State.drawFrom s r) := by
  unfold State.drawFrom
  repeat' with_reducible first | assumption | apply State.drawAll_ev | refine foldl_ev _ _ (fun _ _ _ => ?_) ?_ | refine foldl_ev1 _ _ (fun _ _ _ => ?_) ?_ | refine foldl_ev2 _ _ (fun _ _ _ => ?_) ?_ | refine foldl_ev22 _ _ (fun _ _ _ => ?_) ?_ | refine foldl_ev21 _ _ (fun _ _ _ => ?_) ?_ | intro _ _ _ _ | intro _ _ _ | intro _ _

theorem State.burstTo_ev {s0 : State} {s : State} (r n : Nat) (hs0 : Ev s0 s) : Ev s0 (State.burstTo s r n) := by
  unfold State.burstTo
  repeat' with_reducible first | assumption | refine Ev.lit rfl ?_

theorem State.bindReg_ev {s0 : State} {s : State} (i : Nat) (hs0 : Ev s0 s) : Ev s0 (State.bindReg s i) := by
  unfold State.bindReg
  repeat' with_reducible first | assumption | apply State.raiseDev_ev | apply State.srcPulse_ev | apply State.wr_ev | apply State.wrb_ev | apply ite_ev

theorem State.unbindReg_ev {s0 : State} {s : State} (i : Nat) (hs0 : Ev s0 s) : Ev s0 (State.unbindReg s i) := by
  unfold State.unbindReg
  repeat' with_reducible first | assumption | apply State.retryAll_ev | apply State.wr_ev | apply State.wrb_ev | apply ite_ev | apply ite_ev1 | apply ite_ev2 | dsimp only | split

theorem State.orphanVat_ev {s0 : State} {s : State} (v : Nat) (hs0 : Ev s0 s) : Ev s0 (State.orphanVat s v) := by
  unfold State.orphanVat
  repeat' with_reducible first | assumption | apply ite_ev | apply ite_ev1 | apply ite_ev2 | dsimp only | refine Ev.lit rfl ?_

theorem State.fillVatRegs_ev {s0 : State} {s : State} (v : Nat) (hs0 : Ev s0 s) : Ev s0 (State.fillVatRegs s v) := by
  unfold State.fillVatRegs
  repeat' with_reducible first | assumption | dsimp only | refine Ev.lit rfl ?_

end Sys2Proof.Machine
end

