-- ==== Sys2Proof/Laws/Dram.lean ====
section
/-! SUPPORT. The operations of Machine/Dram.lean leave the queue of commands alone and keep the invariant. -/

namespace Sys2Proof.Machine


theorem State.setChan_ev {s0 : State} {s : State} (n : Nat) (c : DramCh) (hs0 : Ev s0 s) : Ev s0 (State.setChan s n c) := by
  unfold State.setChan
  repeat' with_reducible first | assumption | refine Ev.lit rfl ?_

theorem State.setChState_ev {s0 : State} {s : State} (n st : Nat) (hs0 : Ev s0 s) : Ev s0 (State.setChState s n st) := by
  unfold State.setChState
  repeat' with_reducible first | assumption | apply State.wr_ev

theorem State.storeLine_ev {s0 : State} {s : State} (n line : Nat) (data : BitVec 512) (poison : Bool) (hs0 : Ev s0 s) : Ev s0 (State.storeLine s n line data poison) := by
  unfold State.storeLine
  repeat' with_reducible first | assumption | apply State.setChan_ev

theorem State.ddrPulse_ev {s0 : State} {s : State} (n k : Nat) (hs0 : Ev s0 s) : Ev s0 (State.ddrPulse s n k) := by
  unfold State.ddrPulse
  repeat' with_reducible first | assumption | apply State.srcPulse_ev

theorem State.migStart_ev {s0 : State} {s : State} (n r : Nat) (hs0 : Ev s0 s) : Ev s0 (State.migStart s n r) := by
  unfold State.migStart
  repeat' with_reducible first | assumption | apply State.setChan_ev | apply State.wr_ev

theorem State.rankFault_ev {s0 : State} {s : State} (n r addr : Nat) (hs0 : Ev s0 s) : Ev s0 (State.rankFault s n r addr) := by
  unfold State.rankFault
  repeat' with_reducible first | assumption | apply State.ddrPulse_ev | apply State.migStart_ev | apply State.raiseDev_ev | apply State.wrb_ev | apply State.wrm_ev | apply ite_ev

theorem State.corrected_ev {s0 : State} {s : State} (n r addr : Nat) (hs0 : Ev s0 s) : Ev s0 (State.corrected s n r addr) := by
  unfold State.corrected
  repeat' with_reducible first | assumption | apply State.bump_ev | apply State.rankFault_ev | apply State.setChan_ev | apply ite_ev

theorem State.integrity_ev {s0 : State} {s : State} (n addr : Nat) (vat : Option Nat) (hs0 : Ev s0 s) : Ev s0 (State.integrity s n addr vat) := by
  unfold State.integrity
  repeat' with_reducible first | assumption | apply State.ddrPulse_ev | apply State.raiseAt_ev

theorem State.freeLineWord_ev {s0 : State} {s : State} (hs0 : Ev s0 s) : Ev s0 (State.freeLineWord s).1 := by
  unfold State.freeLineWord
  repeat' with_reducible first | assumption | apply State.fresh_ev | dsimp only | intro _ _ _ _ | intro _ _ _ | intro _ _

theorem State.senseLine_ev {s0 : State} {s : State} (l : DLine) (addr : Nat) (x : Sense) (hs0 : Ev s0 s) : Ev s0 (State.senseLine s l addr x).1 := by
  unfold State.senseLine
  repeat' with_reducible first | assumption | apply State.freeLineWord_ev | refine foldl_ev _ _ (fun _ _ _ => ?_) ?_ | refine foldl_ev1 _ _ (fun _ _ _ => ?_) ?_ | refine foldl_ev2 _ _ (fun _ _ _ => ?_) ?_ | refine foldl_ev22 _ _ (fun _ _ _ => ?_) ?_ | refine foldl_ev21 _ _ (fun _ _ _ => ?_) ?_ | apply ite_ev | apply ite_ev1 | apply ite_ev2 | apply ite_ev22 | apply ite_ev21 | dsimp only | intro _ _ _ _ | intro _ _ _ | intro _ _ | split | refine Ev.lit rfl ?_

theorem State.readEffects_ev {s0 : State} {s : State} (n line : Nat) (f : Found) (vat : Option Nat) (psnCounts : Bool) (hs0 : Ev s0 s) : Ev s0 (State.readEffects s n line f vat psnCounts) := by
  unfold State.readEffects
  repeat' with_reducible first | assumption | apply State.bump_ev | apply State.corrected_ev | apply State.integrity_ev | apply State.rankFault_ev | apply ite_ev

theorem State.queueBack_ev {s0 : State} {s : State} (n line : Nat) (data : BitVec 512) (hs0 : Ev s0 s) : Ev s0 (State.queueBack s n line data) := by
  unfold State.queueBack
  repeat' with_reducible first | assumption | apply State.setChan_ev | apply State.wr_ev | apply ite_ev | apply ite_ev1 | apply ite_ev2 | apply ite_ev22 | apply ite_ev21 | dsimp only | intro _ _ _ _ | intro _ _ _ | intro _ _ | refine Ev.lit rfl ?_

theorem State.readLine_ev {s0 : State} {s : State} (n line : Nat) (x : Sense) (vat : Option Nat) (hs0 : Ev s0 s) : Ev s0 (State.readLine s n line x vat).1 := by
  unfold State.readLine
  repeat' with_reducible first | assumption | apply State.bump_ev | apply State.queueBack_ev | apply State.readEffects_ev | apply State.senseLine_ev | apply State.storeLine_ev | apply ite_ev | apply ite_ev1 | apply ite_ev2 | apply ite_ev22 | apply ite_ev21 | dsimp only

theorem State.fillBars_ev {s0 : State} {s : State} (n : Nat) (q : DReq) (hs0 : Ev s0 s) : Ev s0 (State.fillBars s n q).1 := by
  unfold State.fillBars
  repeat' with_reducible first | assumption | apply State.fresh_ev | apply State.setChan_ev | apply State.wr_ev | apply ite_ev | apply ite_ev1 | apply ite_ev2 | apply ite_ev22 | apply ite_ev21 | dsimp only | refine Ev.lit rfl ?_

theorem State.answerDram_ev {s0 : State} {s : State} (n : Nat) (q : DReq) (st : Status) (data : BitVec 512) (hs0 : Ev s0 s) : Ev s0 (State.answerDram s n q st data) := by
  unfold State.answerDram
  repeat' with_reducible first | assumption | apply State.respond_ev | split

theorem State.takeReq_ev {s0 : State} {s : State} (n k : Nat) (q : DReq) (hs0 : Ev s0 s) : Ev s0 (State.takeReq s n k q) := by
  unfold State.takeReq
  repeat' with_reducible first | assumption | apply State.setChan_ev | apply State.wr_ev | dsimp only | intro _ _ _ _ | intro _ _ _ | intro _ _ | refine Ev.lit rfl ?_

theorem State.showPend_ev {s0 : State} {s : State} (n : Nat) (hs0 : Ev s0 s) : Ev s0 (State.showPend s n) := by
  unfold State.showPend
  repeat' with_reducible first | assumption | apply State.wr_ev

theorem State.refreshed_ev {s0 : State} {s : State} (n sub rank : Nat) (hs0 : Ev s0 s) : Ev s0 (State.refreshed s n sub rank) := by
  unfold State.refreshed
  repeat' with_reducible first | assumption | apply State.setChan_ev | apply ite_ev

theorem State.geomWrite_ev {s0 : State} {s : State} (w : Word) (hs0 : Ev s0 s) : EvO s0 (State.geomWrite s w) := by
  unfold State.geomWrite
  repeat' with_reducible first | assumption | exact EvO.none | apply EvO.some | apply ite_evO | apply State.setChState_ev | apply State.setReg_ev | apply State.wr_ev | refine foldl_ev _ _ (fun _ _ _ => ?_) ?_ | refine foldl_ev1 _ _ (fun _ _ _ => ?_) ?_ | refine foldl_ev2 _ _ (fun _ _ _ => ?_) ?_ | refine foldl_ev22 _ _ (fun _ _ _ => ?_) ?_ | refine foldl_ev21 _ _ (fun _ _ _ => ?_) ?_ | apply ite_ev

theorem State.chInit_ev {s0 : State} {s : State} (n : Nat) (hs0 : Ev s0 s) : Ev s0 (State.chInit s n) := by
  unfold State.chInit
  repeat' with_reducible first | assumption | apply State.setChState_ev | apply State.setChan_ev | apply State.wr_ev

theorem State.srEnter_ev {s0 : State} {s : State} (n : Nat) (hs0 : Ev s0 s) : Ev s0 (State.srEnter s n) := by
  unfold State.srEnter
  repeat' with_reducible first | assumption | apply State.setChan_ev | apply ite_ev

theorem State.srLeave_ev {s0 : State} {s : State} (n : Nat) (hs0 : Ev s0 s) : Ev s0 (State.srLeave s n) := by
  unfold State.srLeave
  repeat' with_reducible first | assumption | apply State.setChState_ev | apply State.setChan_ev | apply ite_ev

theorem State.chCtlWrite_ev {s0 : State} {s : State} (n : Nat) (w : Word) (hs0 : Ev s0 s) : EvO s0 (State.chCtlWrite s n w) := by
  unfold State.chCtlWrite
  repeat' with_reducible first | assumption | exact EvO.none | apply EvO.some | apply ite_evO | apply State.chInit_ev | apply State.migStart_ev | apply State.setChState_ev | apply State.setChan_ev | apply State.setReg_ev | apply State.srEnter_ev | apply State.srLeave_ev | apply State.wr_ev | apply ite_ev | apply ite_ev1 | apply ite_ev2 | apply ite_ev22 | apply ite_ev21 | dsimp only | refine Ev.lit rfl ?_

theorem State.ddrRefWrite_ev {s0 : State} {s : State} (n : Nat) (w : Word) (hs0 : Ev s0 s) : EvO s0 (State.ddrRefWrite s n w) := by
  unfold State.ddrRefWrite
  repeat' with_reducible first | assumption | exact EvO.none | apply EvO.some | apply ite_evO | apply State.wr_ev

theorem State.spareWrite_ev {s0 : State} {s : State} (n : Nat) (w : Word) (hs0 : Ev s0 s) : EvO s0 (State.spareWrite s n w) := by
  unfold State.spareWrite
  repeat' with_reducible first | assumption | exact EvO.none | apply EvO.some | apply ite_evO | apply State.wr_ev | apply ite_ev

theorem State.chPlainWrite_ev {s0 : State} {s : State} (n off mask : Nat) (w : Word) (hs0 : Ev s0 s) : EvO s0 (State.chPlainWrite s n off mask w) := by
  unfold State.chPlainWrite
  repeat' with_reducible first | assumption | exact EvO.none | apply EvO.some | apply ite_evO | apply State.setReg_ev

theorem State.coastFall_ev {s0 : State} {s : State} (hs0 : Ev s0 s) : Ev s0 (State.coastFall s) := by
  unfold State.coastFall
  repeat' with_reducible first | assumption | apply State.wrb_ev | apply ite_ev | apply ite_ev1 | apply ite_ev2 | apply ite_ev22 | apply ite_ev21 | intro _ _ _ | intro _ _ | refine Ev.lit rfl ?_

theorem State.dramCoast_ev {s0 : State} {s : State} (hs0 : Ev s0 s) : Ev s0 (State.dramCoast s) := by
  unfold State.dramCoast
  repeat' with_reducible first | assumption | apply State.setChan_ev | apply State.srEnter_ev | refine foldl_ev _ _ (fun _ _ _ => ?_) ?_

theorem State.dramRelock_ev {s0 : State} {s : State} (hs0 : Ev s0 s) : Ev s0 (State.dramRelock s) := by
  unfold State.dramRelock
  repeat' with_reducible first | assumption | apply State.srLeave_ev | refine foldl_ev _ _ (fun _ _ _ => ?_) ?_

theorem State.drawKeys_ev {s0 : State} {s : State} (hs0 : Ev s0 s) : Ev s0 (State.drawKeys s) := by
  unfold State.drawKeys
  repeat' with_reducible first | assumption | apply State.setChan_ev | apply State.wr_ev | apply State.wrb_ev | refine foldl_ev _ _ (fun _ _ _ => ?_) ?_ | refine foldl_ev1 _ _ (fun _ _ _ => ?_) ?_ | refine foldl_ev2 _ _ (fun _ _ _ => ?_) ?_ | refine foldl_ev22 _ _ (fun _ _ _ => ?_) ?_ | refine foldl_ev21 _ _ (fun _ _ _ => ?_) ?_ | dsimp only | intro _ _ _ | intro _ _ | refine Ev.lit rfl ?_

theorem State.dramWarm_ev {s0 : State} {s : State} (hs0 : Ev s0 s) : Ev s0 (State.dramWarm s) := by
  unfold State.dramWarm
  repeat' with_reducible first | assumption | apply State.setChState_ev | apply State.setChan_ev | apply State.wrb_ev | refine foldl_ev _ _ (fun _ _ _ => ?_) ?_ | refine foldl_ev1 _ _ (fun _ _ _ => ?_) ?_ | refine foldl_ev2 _ _ (fun _ _ _ => ?_) ?_ | refine foldl_ev22 _ _ (fun _ _ _ => ?_) ?_ | refine foldl_ev21 _ _ (fun _ _ _ => ?_) ?_ | apply ite_ev

end Sys2Proof.Machine
end

