-- ==== Sys2Proof/Laws/Frames.lean ====
section
/-! SUPPORT. The operations of Machine/Frames.lean leave the queue of commands alone and keep the invariant. -/

namespace Sys2Proof.Machine

theorem State.setLive_ok {s : State} (n : Nat) (f : Frame) (h : s.memoryOk) : (s.setLive n f).memoryOk :=
  { h with live := twf_put _ _ h.live }

theorem State.setLive_ev {s0 : State} {s : State} (n : Nat) (f : Frame) (hs0 : Ev s0 s) : Ev s0 (State.setLive s n f) := by
  exact Ev.mem (s := s) rfl rfl rfl rfl (State.setLive_ok n f) hs0

theorem State.setPlane_ok {s : State} (p : Bool) (n : Nat) (f : Frame) (h : s.memoryOk) : (s.setPlane p n f).memoryOk := by
  cases p
  · exact { h with planeA := twf_put _ _ h.planeA }
  · exact { h with planeB := twf_put _ _ h.planeB }

theorem State.setPlane_ev {s0 : State} {s : State} (p : Bool) (n : Nat) (f : Frame) (hs0 : Ev s0 s) : Ev s0 (State.setPlane s p n f) := by
  exact Ev.mem (s := s) rfl rfl rfl rfl (State.setPlane_ok p n f) hs0

end Sys2Proof.Machine
end

