-- ==== Sys2Proof/Laws/Hio.lean ====
section
/-! SUPPORT. The operations of Machine/Hio.lean leave the queue of commands alone and keep the invariant. -/

namespace Sys2Proof.Machine


theorem State.setHio_ev {s0 : State} {s : State} (b : Nat) (x : HioBank) (hs0 : Ev s0 s) : Ev s0 (State.setHio s b x) := by
  unfold State.setHio
  repeat' with_reducible first | assumption | refine Ev.lit rfl ?_

theorem State.hioOff_ev {s0 : State} {s : State} (b : Nat) (written : Bool) (hs0 : Ev s0 s) : Ev s0 (State.hioOff s b written) := by
  unfold State.hioOff
  repeat' with_reducible first | assumption | apply State.hioRange_ev | apply State.raiseAt_ev | apply State.setHio_ev | apply ite_ev

theorem State.hioRange_ev {s0 : State} {s : State} (b code : Nat) (hs0 : Ev s0 s) : Ev s0 (State.hioRange s b code) := by
  unfold State.hioRange
  repeat' with_reducible first | assumption | apply State.hioOff_ev | apply State.setHio_ev | apply State.wr_ev | apply ite_ev

theorem State.holdPins_ev {s0 : State} {s : State} (hs0 : Ev s0 s) : Ev s0 (State.holdPins s) := by
  unfold State.holdPins
  repeat' with_reducible first | assumption | refine Ev.lit rfl ?_

theorem State.clampPins_ev {s0 : State} {s : State} (v : Nat) (hs0 : Ev s0 s) : Ev s0 (State.clampPins s v) := by
  unfold State.clampPins
  repeat' with_reducible first | assumption | refine Ev.lit rfl ?_

theorem State.setErrN_ev {s0 : State} {s : State} (b : Bool) (hs0 : Ev s0 s) : Ev s0 (State.setErrN s b) := by
  unfold State.setErrN
  repeat' with_reducible first | assumption | refine Ev.lit rfl ?_

theorem State.setTap_ev {s0 : State} {s : State} (t : TapSt) (hs0 : Ev s0 s) : Ev s0 (State.setTap s t) := by
  unfold State.setTap
  repeat' with_reducible first | assumption | apply ite_ev | apply ite_ev1 | apply ite_ev2 | apply ite_ev22 | apply ite_ev21 | refine Ev.lit rfl ?_

end Sys2Proof.Machine
end

