-- ==== Sys2Proof/Laws/Span.lean ====
section
/-! SUPPORT. The operations of Machine/Span.lean leave the queue of commands alone and keep the invariant. -/

namespace Sys2Proof.Machine


theorem State.spanPump_ev {s0 : State} (x0 : Nat) (x1 : Nat) {s : State} (hs0 : Ev s0 s) : Ev s0 (State.spanPump x0 x1 s) := by
  induction x0 generalizing x1 s with
  | zero =>
    unfold State.spanPump
    repeat' with_reducible first | assumption
  | succ x0 ih =>
    unfold State.spanPump
    repeat' with_reducible first | assumption | apply ih | apply State.bump_ev | apply State.setPort_ev | apply ite_ev | apply ite_ev1 | apply ite_ev2 | dsimp only | split

theorem State.spanSend_ev {s0 : State} {s : State} (k : Nat) (hs0 : Ev s0 s) : Ev s0 (State.spanSend s k) := by
  unfold State.spanSend
  repeat' with_reducible first | assumption | apply State.spanPump_ev

theorem State.spanDown_ev {s0 : State} {s : State} (k : Nat) (hs0 : Ev s0 s) : Ev s0 (State.spanDown s k) := by
  unfold State.spanDown
  repeat' with_reducible first | assumption | apply State.bump_ev | apply State.raiseDev_ev | apply State.setPort_ev | apply State.srcPulse_ev | apply State.wrb_ev | apply ite_ev | apply ite_ev1 | apply ite_ev2 | apply ite_ev22 | apply ite_ev21 | dsimp only

theorem State.spanAck_ev {s0 : State} {s : State} (k : Nat) (ws : List Word) (hs0 : Ev s0 s) : Ev s0 (State.spanAck s k ws) := by
  unfold State.spanAck
  repeat' with_reducible first | assumption | apply State.setPort_ev | apply State.spanSend_ev

theorem State.spanAccept_ev {s0 : State} {s : State} (k vc : Nat) (hs0 : Ev s0 s) : Ev s0 (State.spanAccept s k vc) := by
  unfold State.spanAccept
  repeat' with_reducible first | assumption | apply State.bump_ev | apply State.setPort_ev | apply ite_ev | apply ite_ev1 | apply ite_ev2 | apply ite_ev22 | apply ite_ev21 | dsimp only | intro _ _ _ _ | intro _ _ _ | intro _ _ | refine Ev.lit rfl ?_

theorem State.spanInject_ev {s0 : State} {s : State} (k vat stamp : Nat) (f : Flit) (hs0 : Ev s0 s) : Ev s0 (State.spanInject s k vat stamp f) := by
  unfold State.spanInject
  repeat' with_reducible first | assumption | apply State.enterMesh_ev | refine Ev.lit rfl ?_

theorem State.spanAnswer_ev {s0 : State} {s : State} (k : Nat) (f : Flit) (st : Status) (hs0 : Ev s0 s) : Ev s0 (State.spanAnswer s k f st) := by
  unfold State.spanAnswer
  repeat' with_reducible first | assumption | apply State.respond_ev | apply State.spanFree_ev

theorem State.remoteRq_ev {s0 : State} {s : State} (k : Nat) (f : Flit) (hs0 : Ev s0 s) : Ev s0 (State.remoteRq s k f) := by
  unfold State.remoteRq
  repeat' with_reducible first | assumption | apply State.offer_ev | apply State.spanAnswer_ev | apply ite_ev | apply ite_ev1 | apply ite_ev2 | apply ite_ev22 | apply ite_ev21 | dsimp only | refine Ev.lit rfl ?_

theorem State.toGate_ev {s0 : State} {s : State} (x : Moving × Option (Nat × Nat)) (hs0 : Ev s0 s) : Ev s0 (State.toGate s x) := by
  unfold State.toGate
  repeat' with_reducible first | assumption | refine Ev.lit rfl ?_

theorem State.spanFlit_ev {s0 : State} {s : State} (k typ n : Nat) (ws : List Word) (stamp : Nat) (hs0 : Ev s0 s) : Ev s0 (State.spanFlit s k typ n ws stamp) := by
  unfold State.spanFlit
  repeat' with_reducible first | assumption | apply State.bump_ev | apply State.remoteRq_ev | apply State.setPort_ev | apply State.spanAccept_ev | apply State.spanAck_ev | apply State.spanInject_ev | apply State.toGate_ev | apply ite_ev | apply ite_ev1 | apply ite_ev2 | apply ite_ev22 | apply ite_ev21 | dsimp only | refine Ev.lit rfl ?_

theorem State.spanQueue_ev {s0 : State} {s : State} (k : Nat) (f : Flit) (hops : Nat) (hs0 : Ev s0 s) : Ev s0 (State.spanQueue s k f hops) := by
  unfold State.spanQueue
  repeat' with_reducible first | assumption | apply State.bump_ev | apply State.setPort_ev | apply State.spanSend_ev | apply ite_ev

theorem State.spanEnable_ev {s0 : State} {s : State} (k : Nat) (on : Bool) (hs0 : Ev s0 s) : Ev s0 (State.spanEnable s k on) := by
  unfold State.spanEnable
  repeat' with_reducible first | assumption | apply State.setPort_ev | apply State.spanDown_ev | apply ite_ev | apply ite_ev1 | apply ite_ev2 | apply ite_ev22 | apply ite_ev21 | dsimp only

end Sys2Proof.Machine
end

