-- ==== Sys2Proof/Laws/Time.lean ====
section
/-! SUPPORT. The operations of Machine/Time.lean leave the queue of commands alone and keep the invariant. -/

namespace Sys2Proof.Machine

theorem State.setTb_ev {s0 : State} {s : State} (b : Nat) (x : TbSt) (hs0 : Ev s0 s) : Ev s0 (State.setTb s b x) := by
  unfold State.setTb
  repeat' with_reducible first | assumption | refine Ev.lit rfl ?_

theorem State.tbSync_ev {s0 : State} {s : State} (b : Nat) (hs0 : Ev s0 s) : Ev s0 (State.tbSync s b) := by
  unfold State.tbSync
  repeat' with_reducible first | assumption | apply State.wr_ev | apply State.wrb_ev

theorem State.tclkWrite_ev {s0 : State} {s : State} (w : Word) (hs0 : Ev s0 s) : Ev s0 (State.tclkWrite s w).1 := by
  unfold State.tclkWrite
  repeat' with_reducible first | assumption | apply State.wr_ev | apply ite_ev | apply ite_ev1 | apply ite_ev2 | dsimp only

theorem State.holdover_ev {s0 : State} {s : State} (b : Nat) (hs0 : Ev s0 s) : Ev s0 (State.holdover s b) := by
  unfold State.holdover
  repeat' with_reducible first | assumption | apply State.bump_ev | apply State.hold_ev | apply State.raiseAt_ev | apply State.setTb_ev | apply State.srcPulse_ev | apply State.tbSync_ev | apply ite_ev | apply ite_ev1 | apply ite_ev2 | dsimp only | refine Ev.lit rfl ?_

theorem State.rateWrite_ev {s0 : State} {s : State} (b : Nat) (w : Word) (hs0 : Ev s0 s) : Ev s0 (State.rateWrite s b w).1 := by
  unfold State.rateWrite
  repeat' with_reducible first | assumption | apply State.hold_ev | apply State.setTb_ev | apply State.tbSync_ev | apply State.wr_ev | apply ite_ev | apply ite_ev1 | apply ite_ev2 | dsimp only | refine Ev.lit rfl ?_

theorem State.tbCtlWrite_ev {s0 : State} {s : State} (b : Nat) (w : Word) (hs0 : Ev s0 s) : Ev s0 (State.tbCtlWrite s b w).1 := by
  unfold State.tbCtlWrite
  repeat' with_reducible first | assumption | apply State.setTb_ev | apply State.tbSync_ev | apply State.wr_ev | apply ite_ev | apply ite_ev1 | apply ite_ev2 | dsimp only | refine Ev.lit rfl ?_

theorem State.snap_ev {s0 : State} {s : State} (b : Nat) (hs0 : Ev s0 s) : Ev s0 (State.snap s b) := by
  unfold State.snap
  repeat' with_reducible first | assumption | apply State.wr_ev | dsimp only

theorem State.cmpFire_ev {s0 : State} {s : State} (i : Nat) (stepped : Bool) (hs0 : Ev s0 s) : Ev s0 (State.cmpFire s i stepped) := by
  unfold State.cmpFire
  repeat' with_reducible first | assumption | apply State.bump_ev | apply State.srcPulse_ev | apply State.wrb_ev | apply ite_ev | apply ite_ev1 | apply ite_ev2 | dsimp only | refine Ev.lit rfl ?_

theorem State.cmpCtlWrite_ev {s0 : State} {s : State} (own : Bool) (i : Nat) (w : Word) (hs0 : Ev s0 s) : Ev s0 (State.cmpCtlWrite s own i w).1 := by
  unfold State.cmpCtlWrite
  repeat' with_reducible first | assumption | apply State.setReg_ev | apply ite_ev | apply ite_ev1 | apply ite_ev2

theorem State.setTp_ev {s0 : State} {s : State} (k : Nat) (x : TpSt) (hs0 : Ev s0 s) : Ev s0 (State.setTp s k x) := by
  unfold State.setTp
  repeat' with_reducible first | assumption | refine Ev.lit rfl ?_

theorem State.tpCtlWrite_ev {s0 : State} {s : State} (own : Bool) (k : Nat) (w : Word) (hs0 : Ev s0 s) : Ev s0 (State.tpCtlWrite s own k w).1 := by
  unfold State.tpCtlWrite
  repeat' with_reducible first | assumption | apply State.setReg_ev | apply State.setTp_ev | apply ite_ev | apply ite_ev1 | apply ite_ev2 | dsimp only

theorem State.jumped_ev {s0 : State} {s : State} (b old : Nat) (hs0 : Ev s0 s) : Ev s0 (State.jumped s b old) := by
  unfold State.jumped
  repeat' with_reducible first | assumption | apply State.cmpFire_ev | apply State.setTp_ev | refine foldl_ev _ _ (fun _ _ _ => ?_) ?_ | refine foldl_ev1 _ _ (fun _ _ _ => ?_) ?_ | apply ite_ev | apply ite_ev1 | apply ite_ev2 | dsimp only | refine Ev.lit rfl ?_

theorem State.tbJump_ev {s0 : State} {s : State} (b v : Nat) (hs0 : Ev s0 s) : Ev s0 (State.tbJump s b v) := by
  unfold State.tbJump
  repeat' with_reducible first | assumption | apply State.bump_ev | apply State.jumped_ev | apply State.raiseAt_ev | apply State.setTb_ev | apply State.srcPulse_ev | apply State.tbSync_ev | apply State.wrb_ev | apply ite_ev | apply ite_ev1 | apply ite_ev2 | dsimp only | refine Ev.lit rfl ?_

theorem State.tbCommand_ev {s0 : State} {s : State} (b : Nat) (hs0 : Ev s0 s) : Ev s0 (State.tbCommand s b) := by
  unfold State.tbCommand
  repeat' with_reducible first | assumption | apply State.setTb_ev | apply State.snap_ev | apply State.tbJump_ev | apply State.tbSync_ev | apply ite_ev | apply ite_ev1 | apply ite_ev2 | dsimp only | refine Ev.lit rfl ?_

theorem State.tbCount_ev {s0 : State} {s : State} (n b : Nat) (hs0 : Ev s0 s) : Ev s0 (State.tbCount s n b) := by
  unfold State.tbCount
  repeat' with_reducible first | assumption | apply State.setTb_ev | apply ite_ev | apply ite_ev1 | apply ite_ev2 | dsimp only | refine Ev.lit rfl ?_

theorem State.tbMicro_ev {s0 : State} {s : State} (hs0 : Ev s0 s) : Ev s0 (State.tbMicro s) := by
  unfold State.tbMicro
  repeat' with_reducible first | assumption | apply State.tbCommand_ev | apply State.tbCount_ev | refine foldl_ev _ _ (fun _ _ _ => ?_) ?_ | refine foldl_ev1 _ _ (fun _ _ _ => ?_) ?_

theorem State.setCap_ev {s0 : State} {s : State} (j : Nat) (l : List StampE) (hs0 : Ev s0 s) : Ev s0 (State.setCap s j l) := by
  unfold State.setCap
  repeat' with_reducible first | assumption | apply State.wr_ev | refine Ev.lit rfl ?_

theorem State.capIrq_ev {s0 : State} {s : State} (j : Nat) (hs0 : Ev s0 s) : Ev s0 (State.capIrq s j) := by
  unfold State.capIrq
  repeat' with_reducible first | assumption | apply State.srcSet_ev

theorem State.capCtlWrite_ev {s0 : State} {s : State} (own : Bool) (j : Nat) (w : Word) (hs0 : Ev s0 s) : Ev s0 (State.capCtlWrite s own j w).1 := by
  unfold State.capCtlWrite
  repeat' with_reducible first | assumption | apply State.capIrq_ev | apply State.setReg_ev | apply ite_ev | apply ite_ev1 | apply ite_ev2

theorem State.capPop_ev {s0 : State} {s : State} (j : Nat) (pop : Bool) (hs0 : Ev s0 s) : Ev s0 (State.capPop s j pop).2 := by
  unfold State.capPop
  repeat' with_reducible first | assumption | apply State.capIrq_ev | apply State.setCap_ev | apply State.wr_ev | apply ite_ev | apply ite_ev1 | apply ite_ev2 | dsimp only | split | refine Ev.lit rfl ?_

theorem State.setTsq_ev {s0 : State} {s : State} (m : Nat) (l : List StampE) (hs0 : Ev s0 s) : Ev s0 (State.setTsq s m l) := by
  unfold State.setTsq
  repeat' with_reducible first | assumption | apply State.wr_ev | refine Ev.lit rfl ?_

theorem State.tsqPush_ev {s0 : State} {s : State} (m fid t : Nat) (hs0 : Ev s0 s) : Ev s0 (State.tsqPush s m fid t) := by
  unfold State.tsqPush
  repeat' with_reducible first | assumption | apply State.bump_ev | apply State.raiseVat_ev | apply State.setTsq_ev | apply State.wrb_ev | apply ite_ev | apply ite_ev1 | apply ite_ev2 | dsimp only

theorem State.tsqPop_ev {s0 : State} {s : State} (m : Nat) (pop : Bool) (hs0 : Ev s0 s) : Ev s0 (State.tsqPop s m pop).2 := by
  unfold State.tsqPop
  repeat' with_reducible first | assumption | apply State.setTsq_ev | apply State.wr_ev | apply ite_ev | apply ite_ev1 | apply ite_ev2 | dsimp only | split | refine Ev.lit rfl ?_

theorem State.ptpWrite_ev {s0 : State} {s : State} (m : Nat) (w : Word) (hs0 : Ev s0 s) : Ev s0 (State.ptpWrite s m w).1 := by
  unfold State.ptpWrite
  repeat' with_reducible first | assumption | apply State.setReg_ev | apply ite_ev | apply ite_ev1 | apply ite_ev2

theorem State.timeKeep_ev {s0 : State} {s : State} (hs0 : Ev s0 s) : Ev s0 (State.timeKeep s) := by
  unfold State.timeKeep
  repeat' with_reducible first | assumption | apply State.holdover_ev | refine foldl_ev _ _ (fun _ _ _ => ?_) ?_ | refine foldl_ev1 _ _ (fun _ _ _ => ?_) ?_

theorem State.timeReset_ev {s0 : State} {s : State} (hs0 : Ev s0 s) : Ev s0 (State.timeReset s) := by
  unfold State.timeReset
  repeat' with_reducible first | assumption | apply State.capIrq_ev | apply State.setCap_ev | refine foldl_ev _ _ (fun _ _ _ => ?_) ?_ | refine foldl_ev1 _ _ (fun _ _ _ => ?_) ?_ | dsimp only | refine Ev.lit2 (fun w => twf_tfilter _ w) (by first | exact ⟨id, fun _ m => m⟩ | exact ⟨fun x => twf_tfilter _ x, fun _ m => mem_tfilter m⟩) rfl ?_

end Sys2Proof.Machine
end

