-- ==== Sys2Proof/Laws/Ports.lean ====
section
/-! SUPPORT. The operations of Machine/Ports.lean leave the queue of commands alone and keep the invariant. -/

namespace Sys2Proof.Machine


theorem State.setFport_ev {s0 : State} {s : State} (m : Nat) (p : FenPort) (hs0 : Ev s0 s) : Ev s0 (State.setFport s m p) := by
  unfold State.setFport
  repeat' with_reducible first | assumption | refine Ev.lit rfl ?_

theorem State.fenIrq_ev {s0 : State} {s : State} (m : Nat) (hs0 : Ev s0 s) : Ev s0 (State.fenIrq s m) := by
  unfold State.fenIrq
  repeat' with_reducible first | assumption | apply State.srcSet_ev | apply ite_ev | apply ite_ev1 | apply ite_ev2 | apply ite_ev22 | apply ite_ev21

theorem State.fenFlag_ev {s0 : State} {s : State} (m : Nat) (f : Nat → Fld) (hs0 : Ev s0 s) : Ev s0 (State.fenFlag s m f) := by
  unfold State.fenFlag
  repeat' with_reducible first | assumption | apply State.fenIrq_ev | apply State.wrb_ev

theorem State.fenDrop_ev {s0 : State} {s : State} (m off : Nat) (hs0 : Ev s0 s) : Ev s0 (State.fenDrop s m off) := by
  unfold State.fenDrop
  repeat' with_reducible first | assumption | apply State.bump_ev | apply State.fenFlag_ev

theorem State.raisePort_ev {s0 : State} {s : State} (m : Nat) (k : EvKind) (args : List Nat) (hs0 : Ev s0 s) : Ev s0 (State.raisePort s m k args) := by
  unfold State.raisePort
  repeat' with_reducible first | assumption | apply State.raiseVat_ev

theorem State.qDrop_ev {s0 : State} {s : State} (m q off : Nat) (hs0 : Ev s0 s) : Ev s0 (State.qDrop s m q off) := by
  unfold State.qDrop
  repeat' with_reducible first | assumption | apply State.bump_ev | apply State.fenDrop_ev

theorem State.storeDrop_ev {s0 : State} {s : State} (m : Nat) (hs0 : Ev s0 s) : Ev s0 (State.storeDrop s m) := by
  unfold State.storeDrop
  repeat' with_reducible first | assumption | apply State.fenDrop_ev | apply State.qDrop_ev | apply State.setFport_ev | refine foldl_ev _ _ (fun _ _ _ => ?_) ?_ | refine foldl_ev1 _ _ (fun _ _ _ => ?_) ?_ | refine foldl_ev2 _ _ (fun _ _ _ => ?_) ?_ | refine foldl_ev22 _ _ (fun _ _ _ => ?_) ?_ | refine foldl_ev21 _ _ (fun _ _ _ => ?_) ?_ | dsimp only | intro _ _ _ _ | intro _ _ _ | intro _ _ | split | refine Ev.lit rfl ?_

theorem State.linkFalls_ev {s0 : State} {s : State} (m : Nat) (hs0 : Ev s0 s) : Ev s0 (State.linkFalls s m) := by
  unfold State.linkFalls
  repeat' with_reducible first | assumption | apply State.fenFlag_ev | apply State.raiseDev_ev | apply State.raisePort_ev | apply State.storeDrop_ev | apply State.wrb_ev | apply ite_ev | apply ite_ev1 | apply ite_ev2 | apply ite_ev22 | apply ite_ev21 | dsimp only

end Sys2Proof.Machine
end

