-- ==== Sys2Proof/Laws/Lanes.lean ====
section
/-! SUPPORT. The operations of Machine/Lanes.lean leave the queue of commands alone and keep the invariant. -/

namespace Sys2Proof.Machine


theorem State.raiseLane_ev {s0 : State} {s : State} (n : Nat) (k : EvKind) (hs0 : Ev s0 s) : Ev s0 (State.raiseLane s n k) := by
  unfold State.raiseLane
  repeat' with_reducible first | assumption | apply State.raiseVat_ev

theorem State.raiseQuad_ev {s0 : State} {s : State} (u : Nat) (k : EvKind) (hs0 : Ev s0 s) : Ev s0 (State.raiseQuad s u k) := by
  unfold State.raiseQuad
  repeat' with_reducible first | assumption | apply State.raiseAt_ev

theorem State.laneIrq_ev {s0 : State} {s : State} (n : Nat) (hs0 : Ev s0 s) : Ev s0 (State.laneIrq s n) := by
  unfold State.laneIrq
  repeat' with_reducible first | assumption | apply State.srcSet_ev | apply ite_ev

theorem State.laneFlag_ev {s0 : State} {s : State} (n : Nat) (f : Nat → Fld) (hs0 : Ev s0 s) : Ev s0 (State.laneFlag s n f) := by
  unfold State.laneFlag
  repeat' with_reducible first | assumption | apply State.laneIrq_ev | apply State.wrb_ev

theorem State.checkerDrop_ev {s0 : State} {s : State} (n : Nat) (hs0 : Ev s0 s) : Ev s0 (State.checkerDrop s n) := by
  unfold State.checkerDrop
  repeat' with_reducible first | assumption | apply State.wrb_ev

theorem State.laneUnlocked_ev {s0 : State} {s : State} (n : Nat) (hs0 : Ev s0 s) : Ev s0 (State.laneUnlocked s n) := by
  have k : Ev s0 _ := foldl_ev (f := fun s k => if s.bit (SPAN.PORT_CTL.EN k) ∧ (s.spanLanes k).contains n then
      let s := s.spanDown k
      s.setPort k (s.port k).cleared
    else s) (List.range 4) s (fun _ _ h => ite_ev (State.setPort_ev _ _ (State.spanDown_ev _ h)) h) hs0
  unfold State.laneUnlocked
  dsimp only at k ⊢
  generalize (List.range 4).foldl _ s = u at k ⊢
  split
  · exact State.linkFalls_ev _ k
  · exact k

theorem State.setTxPower_ev {s0 : State} {s : State} (n p : Nat) (hs0 : Ev s0 s) : Ev s0 (State.setTxPower s n p) := by
  unfold State.setTxPower
  repeat' with_reducible first | assumption | apply State.wr_ev | apply ite_ev

theorem State.clearCoeffs_ev {s0 : State} {s : State} (n : Nat) (hs0 : Ev s0 s) : Ev s0 (State.clearCoeffs s n) := by
  unfold State.clearCoeffs
  repeat' with_reducible first | assumption | apply State.wr_ev | refine foldl_ev _ _ (fun _ _ _ => ?_) ?_

theorem State.setRxPower_ev {s0 : State} {s : State} (n p : Nat) (hs0 : Ev s0 s) : Ev s0 (State.setRxPower s n p) := by
  unfold State.setRxPower
  repeat' with_reducible first | assumption | apply State.checkerDrop_ev | apply State.clearCoeffs_ev | apply State.laneUnlocked_ev | apply State.wr_ev | apply State.wrb_ev | apply ite_ev

theorem State.laneCtlWrite_ev {s0 : State} {s : State} (n : Nat) (w : Word) (hs0 : Ev s0 s) : EvO s0 (State.laneCtlWrite s n w) := by
  unfold State.laneCtlWrite
  repeat' with_reducible first | assumption | exact EvO.none | apply EvO.some | apply ite_evO | apply State.setReg_ev | apply State.setRxPower_ev | apply State.setTxPower_ev

theorem State.txEqWrite_ev {s0 : State} {s : State} (n : Nat) (w : Word) (hs0 : Ev s0 s) : EvO s0 (State.txEqWrite s n w) := by
  unfold State.txEqWrite
  repeat' with_reducible first | assumption | exact EvO.none | apply EvO.some | apply ite_evO | apply State.setReg_ev

theorem State.txFirWrite_ev {s0 : State} {s : State} (n : Nat) (w : Word) (hs0 : Ev s0 s) : EvO s0 (State.txFirWrite s n w) := by
  unfold State.txFirWrite
  repeat' with_reducible first | assumption | exact EvO.none | apply EvO.some | apply ite_evO | apply State.setReg_ev

theorem State.prbsWrite_ev {s0 : State} {s : State} (n : Nat) (w : Word) (hs0 : Ev s0 s) : EvO s0 (State.prbsWrite s n w) := by
  unfold State.prbsWrite
  repeat' with_reducible first | assumption | exact EvO.none | apply EvO.some | apply ite_evO | apply State.checkerDrop_ev | apply State.setReg_ev | apply ite_ev

theorem State.injected_ev {s0 : State} {s : State} (n : Nat) (hs0 : Ev s0 s) : Ev s0 (State.injected s n) := by
  unfold State.injected
  repeat' with_reducible first | assumption | apply State.bump_ev

theorem State.injWrite_ev {s0 : State} {s : State} (n : Nat) (w : Word) (hs0 : Ev s0 s) : EvO s0 (State.injWrite s n w) := by
  unfold State.injWrite
  repeat' with_reducible first | assumption | exact EvO.none | apply EvO.some | apply ite_evO | apply State.injected_ev | apply State.setReg_ev | apply ite_ev | apply ite_ev1 | apply ite_ev2 | apply ite_ev22 | apply ite_ev21 | dsimp only | refine Ev.lit rfl ?_

theorem State.qpllWrite_ev {s0 : State} {s : State} (u p : Nat) (w : Word) (hs0 : Ev s0 s) : EvO s0 (State.qpllWrite s u p w) := by
  unfold State.qpllWrite
  repeat' with_reducible first | assumption | exact EvO.none | apply EvO.some | apply ite_evO | apply State.wr_ev | apply State.wrb_ev | refine foldl_ev _ _ (fun _ _ _ => ?_) ?_ | refine foldl_ev1 _ _ (fun _ _ _ => ?_) ?_ | refine foldl_ev2 _ _ (fun _ _ _ => ?_) ?_ | refine foldl_ev22 _ _ (fun _ _ _ => ?_) ?_ | refine foldl_ev21 _ _ (fun _ _ _ => ?_) ?_ | apply ite_ev

theorem State.qrefWrite_ev {s0 : State} {s : State} (u : Nat) (w : Word) (hs0 : Ev s0 s) : EvO s0 (State.qrefWrite s u w) := by
  unfold State.qrefWrite
  repeat' with_reducible first | assumption | exact EvO.none | apply EvO.some | apply ite_evO | apply State.wr_ev | apply ite_ev

theorem State.txIdle_ev {s0 : State} {s : State} (u : Nat) (p : Option Nat) (hs0 : Ev s0 s) : Ev s0 (State.txIdle s u p) := by
  unfold State.txIdle
  repeat' with_reducible first | assumption | apply State.wr_ev | refine foldl_ev _ _ (fun _ _ _ => ?_) ?_ | refine foldl_ev1 _ _ (fun _ _ _ => ?_) ?_ | refine foldl_ev2 _ _ (fun _ _ _ => ?_) ?_ | refine foldl_ev22 _ _ (fun _ _ _ => ?_) ?_ | refine foldl_ev21 _ _ (fun _ _ _ => ?_) ?_ | apply ite_ev

theorem State.rxRefLoss_ev {s0 : State} {s : State} (n : Nat) (hs0 : Ev s0 s) : Ev s0 (State.rxRefLoss s n) := by
  unfold State.rxRefLoss
  repeat' with_reducible first | assumption | apply State.checkerDrop_ev | apply State.laneFlag_ev | apply State.laneUnlocked_ev | apply State.wr_ev | apply ite_ev | apply ite_ev1 | apply ite_ev2 | apply ite_ev22 | apply ite_ev21 | dsimp only

theorem State.adapt_ev {s0 : State} {s : State} (n ctle : Nat) (taps : List Byte) (hs0 : Ev s0 s) : Ev s0 (State.adapt s n ctle taps) := by
  unfold State.adapt
  repeat' with_reducible first | assumption | apply State.wr_ev | refine foldl_ev _ _ (fun _ _ _ => ?_) ?_ | refine foldl_ev1 _ _ (fun _ _ _ => ?_) ?_ | refine foldl_ev2 _ _ (fun _ _ _ => ?_) ?_ | refine foldl_ev22 _ _ (fun _ _ _ => ?_) ?_ | refine foldl_ev21 _ _ (fun _ _ _ => ?_) ?_ | apply ite_ev

theorem State.lockLost_ev {s0 : State} {s : State} (n : Nat) (hs0 : Ev s0 s) : Ev s0 (State.lockLost s n) := by
  unfold State.lockLost
  repeat' with_reducible first | assumption | apply State.bump_ev | apply State.checkerDrop_ev | apply State.laneFlag_ev | apply State.laneUnlocked_ev | apply State.raiseLane_ev

end Sys2Proof.Machine
end

