-- ==== Sys2Proof/Laws/Clock.lean ====
section
/-! SUPPORT. The operations of Machine/Clock.lean leave the queue of commands alone and keep the invariant. -/

namespace Sys2Proof.Machine


theorem State.clkPulse_ev {s0 : State} {s : State} (hs0 : Ev s0 s) : Ev s0 (State.clkPulse s) := by
  unfold State.clkPulse
  repeat' with_reducible first | assumption | apply State.srcPulse_ev

theorem State.swErr_ev {s0 : State} {s : State} (target cause : Nat) (hs0 : Ev s0 s) : Ev s0 (State.swErr s target cause) := by
  unfold State.swErr
  repeat' with_reducible first | assumption | apply State.wr_ev | apply State.wrb_ev

theorem State.romSelect_ev {s0 : State} {s : State} (hs0 : Ev s0 s) : Ev s0 (State.romSelect s) := by
  unfold State.romSelect
  repeat' with_reducible first | assumption | apply State.wr_ev | apply ite_ev

theorem State.norefCheck_ev {s0 : State} {s : State} (hs0 : Ev s0 s) : Ev s0 (State.norefCheck s) := by
  unfold State.norefCheck
  repeat' with_reducible first | assumption | apply State.raiseAt_ev | apply ite_ev | apply ite_ev1 | apply ite_ev2 | apply ite_ev22 | apply ite_ev21 | refine Ev.lit rfl ?_

theorem State.coastEntry_ev {s0 : State} {s : State} (hs0 : Ev s0 s) : Ev s0 (State.coastEntry s) := by
  unfold State.coastEntry
  repeat' with_reducible first | assumption | apply State.bump_ev | apply State.clkPulse_ev | apply State.coastFall_ev | apply State.dramCoast_ev | apply State.wrb_ev | dsimp only | refine Ev.lit rfl ?_

theorem State.relockStart_ev {s0 : State} {s : State} (hs0 : Ev s0 s) : Ev s0 (State.relockStart s) := by
  unfold State.relockStart
  repeat' with_reducible first | assumption | apply State.wrb_ev | refine Ev.lit rfl ?_

theorem State.rootCtrlWrite_ev {s0 : State} {s : State} (w : Word) (hs0 : Ev s0 s) : Ev s0 (State.rootCtrlWrite s w).1 := by
  unfold State.rootCtrlWrite
  repeat' with_reducible first | assumption | apply State.relockStart_ev | apply State.swErr_ev | apply State.wr_ev | apply State.wrb_ev | apply ite_ev | apply ite_ev1 | apply ite_ev2 | dsimp only | refine Ev.lit rfl ?_

theorem State.divWrite_ev {s0 : State} {s : State} (d : Nat) (w : Word) (hs0 : Ev s0 s) : Ev s0 (State.divWrite s d w).1 := by
  unfold State.divWrite
  repeat' with_reducible first | assumption | apply State.swErr_ev | apply State.wr_ev | apply ite_ev | apply ite_ev1

theorem State.fclWrite_ev {s0 : State} {s : State} (q l : Nat) (w : Word) (hs0 : Ev s0 s) : Ev s0 (State.fclWrite s q l w).1 := by
  unfold State.fclWrite
  repeat' with_reducible first | assumption | apply State.fresh_ev | apply State.swErr_ev | apply State.wr_ev | apply State.wrb_ev | apply ite_ev | apply ite_ev1 | apply ite_ev2 | apply ite_ev22 | apply ite_ev21 | dsimp only

theorem State.fclRead_ev {s0 : State} {s : State} (q l : Nat) (hs0 : Ev s0 s) : Ev s0 (State.fclRead s q l).2 := by
  unfold State.fclRead
  repeat' with_reducible first | assumption | apply State.fresh_ev | apply State.wrb_ev | apply ite_ev | apply ite_ev1 | apply ite_ev2 | apply ite_ev22 | apply ite_ev21 | dsimp only

theorem State.oscWrite_ev {s0 : State} {s : State} (n : Nat) (w : Word) (hs0 : Ev s0 s) : Ev s0 (State.oscWrite s n w).1 := by
  unfold State.oscWrite
  repeat' with_reducible first | assumption | apply State.swErr_ev | apply State.wr_ev | apply State.wrb_ev | apply ite_ev | apply ite_ev1

end Sys2Proof.Machine
end

