-- ==== Sys2Proof/Laws/Outcome.lean ====
section
/-! SUPPORT. What a command does to the queue and the invariant, for whatever it answers. -/

namespace Sys2Proof.Machine

/-- Whatever next state a command answers, it has evolved. -/
def EvR (s0 : State) (r : Host.Outcome State Fault Refusal) : Prop := ∀ t, r = .next t → Ev s0 t

theorem EvR.next {s0 s : State} (h : Ev s0 s) : EvR s0 (.next s) := fun _ e => Host.Outcome.next.inj e ▸ h

theorem ite_evR {s0 : State} {a b : Host.Outcome State Fault Refusal} {c : Prop} [Decidable c] (ha : EvR s0 a)
    (hb : EvR s0 b) : EvR s0 (if c then a else b) := by
  split <;> assumption

/-! A host in a state that has evolved. -/

theorem Ev.host {s0 s : State} (h : Ev s0 s) (i : Nat) (k : s0.hostsOk) : (s.host i).ok := by
  rcases tget_cases s.mgt.hosts i {} with e | e
  · show (tget s.mgt.hosts i {}).ok
    rw [e]
    exact ⟨by simp, by simp⟩
  · exact (h.hosts k).2 _ e

/-- A host that is put back has to be within its bounds. -/
theorem State.putHost_ev {s0 s : State} (i : Nat) (x : HostSt) (k : s0.hostsOk → x.ok) (h : Ev s0 s) :
    Ev s0 (s.setHost i x) := by
  refine ⟨h.pending, h.counters, fun y => ⟨twf_tput (dflt := fun _ => {}) i x (h.hosts y).1, fun p m => ?_⟩, h.regs,
    fun y => mems_ok (s := s) rfl (h.memory y)⟩
  rcases mem_tput m with rfl | m
  · exact k y
  · exact (h.hosts y).2 p m

/-! A state taken out of an answer. -/

theorem Ev.eq1 {β : Type} {s0 s : State} {p : State × β} {b : β} (k : p = (s, b)) (h : Ev s0 p.1) : Ev s0 s := by
  subst k; exact h

theorem Ev.eq2 {β : Type} {s0 s : State} {p : β × State} {b : β} (k : p = (b, s)) (h : Ev s0 p.2) : Ev s0 s := by
  subst k; exact h

theorem Ev.eq22 {β γ : Type} {s0 s : State} {p : β × γ × State} {b : β} {c : γ} (k : p = (b, c, s)) (h : Ev s0 p.2.2) :
    Ev s0 s := by
  subst k; exact h

end Sys2Proof.Machine
end

