-- ==== Sys2Proof/Laws/Frame.lean ====
section
/-! SUPPORT. Frames: how the parts of the state a change leaves alone add up over the operations a command is made of. One
lemma for each operation follows in the other files of this folder. -/

namespace Sys2Proof.Machine

theorem only.refl (l : List Part) (s : State) : only l s s := fun p _ => by cases p <;> rfl

theorem only.trans {l : List Part} {s t u : State} (h : only l s t) (k : only l t u) : only l s u := fun p m => by
  have a := h p m
  have b := k p m
  cases p <;> exact Eq.trans b a

theorem only.mono {l k : List Part} {s t : State} (m : l ⊆ k) (h : only l s t) : only k s t := fun p n => h p fun x => n (m x)

theorem parts_mem {k l : List Part} {p : Part} (hl : k ⊆ l) (h : p ∈ k) : p ∈ l := hl h

theorem parts_sub {j k l : List Part} (h : j ⊆ k) (hl : k ⊆ l) : j ⊆ l := fun _ x => hl (h x)

/-- A change that writes only listed parts. -/
theorem only.of {k l : List Part} {s0 s t : State} (m : k ⊆ l) (h : only l s0 s) (w : only k s t) : only l s0 t := h.trans (w.mono m)

theorem fab_only {l : List Part} {s0 s : State} (f : FabSt) (m : [.fab] ⊆ l) (h : only l s0 s) : only l s0 { s with fab := f } :=
  h.of m fun p n => by cases p <;> first | rfl | exact absurd (List.mem_cons_self) n

theorem prbs_only {l : List Part} {s0 s : State} (x : Tab Nat) (m : [.prbs] ⊆ l) (h : only l s0 s) : only l s0 { s with prbs := x } :=
  h.of m fun p n => by cases p <;> first | rfl | exact absurd (List.mem_cons_self) n

theorem cfg_only {l : List Part} {s0 s : State} (c : CfgSt) (m : [.cfg] ⊆ l) (h : only l s0 s) : only l s0 { s with cfg := c } :=
  h.of m fun p n => by cases p <;> first | rfl | exact absurd (List.mem_cons_self) n

theorem noc_only {l : List Part} {s0 s : State} (c : NocSt) (m : [.noc] ⊆ l) (h : only l s0 s) : only l s0 { s with noc := c } :=
  h.of m fun p n => by cases p <;> first | rfl | exact absurd (List.mem_cons_self) n

/-- What an edge of clock lines writes. -/
theorem edge_only {l : List Part} {s0 t : State} (f : FabSt) (c : CfgSt) (x : SlicesSt) (a : MemSt) (n : TimeSt)
    (m : [.cfg, .fab, .slc, .mem, .time] ⊆ l) (h : only l s0 t) :
    only l s0 { t with fab := f, cfg := c, slc := x, mem := a, time := n } :=
  h.of m fun p n => by cases p <;> first | rfl | exact absurd (by decide) n

/-- A state written out: each part is listed or as it was. -/
theorem only.lit {s0 s : State} {l : List Part} {regs : Tab Word} {ctrs : Tab Ctr} {latches : Tab Word} {mtime : Nat} {freeCtr : Nat} {answer : Option Answer} {mgt :
    MgtSt} {dbg : DbgSt} {logs : LogSt} {irq : IrqSt} {clk : ClkSt} {noc : NocSt} {span : Tab SpanPort} {inject : Tab Bool} {prbs : Tab Nat} {dram : DramSt} {procs : Tab Proc} {cfg : CfgSt} {img : ImgSt} {churn : ChurnSt} {fab : FabSt} {slc : SlicesSt}
    {mem : MemSt} {time : TimeSt} {cel : CelSt} {scr : ScrSt} {fen : FenSt} {dma : Tab DmaCh} {svc : Tab SvcPort} {cores :
    CoreMem} {pwr : PwrSt} {lcs : LcsSt} {bist : BistSt} {pins : PinSt}
    (h_regs : Part.regs ∈ l ∨ regs = s.regs) (h_ctrs : Part.ctrs ∈ l ∨ ctrs = s.ctrs) (h_latches : Part.latches ∈ l ∨
    latches = s.latches) (h_mtime : Part.mtime ∈ l ∨ mtime = s.mtime) (h_freeCtr : Part.freeCtr ∈ l ∨ freeCtr = s.freeCtr)
    (h_answer : Part.answer ∈ l ∨ answer = s.answer) (h_mgt : Part.mgt ∈ l ∨ mgt = s.mgt) (h_dbg : Part.dbg ∈ l ∨ dbg =
    s.dbg) (h_logs : Part.logs ∈ l ∨ logs = s.logs) (h_irq : Part.irq ∈ l ∨ irq = s.irq) (h_clk : Part.clk ∈ l ∨ clk =
    s.clk) (h_noc : Part.noc ∈ l ∨ noc = s.noc) (h_span : Part.span ∈ l ∨ span = s.span) (h_inject : Part.inject ∈ l ∨
    inject = s.inject) (h_prbs : Part.prbs ∈ l ∨ prbs = s.prbs) (h_dram : Part.dram ∈ l ∨ dram = s.dram) (h_procs : Part.procs ∈ l ∨ procs = s.procs) (h_cfg :
    Part.cfg ∈ l ∨ cfg = s.cfg) (h_img : Part.img ∈ l ∨ img = s.img) (h_churn : Part.churn ∈ l ∨ churn = s.churn) (h_fab :
    Part.fab ∈ l ∨ fab = s.fab) (h_slc : Part.slc ∈ l ∨ slc = s.slc) (h_mem : Part.mem ∈ l ∨ mem = s.mem) (h_time :
    Part.time ∈ l ∨ time = s.time) (h_cel : Part.cel ∈ l ∨ cel = s.cel) (h_scr : Part.scr ∈ l ∨ scr = s.scr) (h_fen :
    Part.fen ∈ l ∨ fen = s.fen) (h_dma : Part.dma ∈ l ∨ dma = s.dma) (h_svc : Part.svc ∈ l ∨ svc = s.svc) (h_cores :
    Part.cores ∈ l ∨ cores = s.cores) (h_pwr : Part.pwr ∈ l ∨ pwr = s.pwr) (h_lcs : Part.lcs ∈ l ∨ lcs = s.lcs) (h_bist :
    Part.bist ∈ l ∨ bist = s.bist) (h_pins : Part.pins ∈ l ∨ pins = s.pins)
    (h : only l s0 s) :
    only l s0 ⟨regs, ctrs, latches, mtime, freeCtr, answer, mgt, dbg, logs, irq, clk, noc, span, inject, prbs, dram, procs, cfg, img,
    churn, fab, slc, mem, time, cel, scr, fen, dma, svc, cores, pwr, lcs, bist, pins, s.pending⟩ := fun p m => by
  have g := h p m
  cases p
  · exact (h_regs.resolve_left m).trans g
  · exact (h_ctrs.resolve_left m).trans g
  · exact (h_latches.resolve_left m).trans g
  · exact (h_mtime.resolve_left m).trans g
  · exact (h_freeCtr.resolve_left m).trans g
  · exact (h_answer.resolve_left m).trans g
  · exact (h_mgt.resolve_left m).trans g
  · exact (h_dbg.resolve_left m).trans g
  · exact (h_logs.resolve_left m).trans g
  · exact (h_irq.resolve_left m).trans g
  · exact (h_clk.resolve_left m).trans g
  · exact (h_noc.resolve_left m).trans g
  · exact (h_span.resolve_left m).trans g
  · exact (h_inject.resolve_left m).trans g
  · exact (h_prbs.resolve_left m).trans g
  · exact (h_dram.resolve_left m).trans g
  · exact (h_procs.resolve_left m).trans g
  · exact (h_cfg.resolve_left m).trans g
  · exact (h_img.resolve_left m).trans g
  · exact (h_churn.resolve_left m).trans g
  · exact (h_fab.resolve_left m).trans g
  · exact (h_slc.resolve_left m).trans g
  · exact (h_mem.resolve_left m).trans g
  · exact (h_time.resolve_left m).trans g
  · exact (h_cel.resolve_left m).trans g
  · exact (h_scr.resolve_left m).trans g
  · exact (h_fen.resolve_left m).trans g
  · exact (h_dma.resolve_left m).trans g
  · exact (h_svc.resolve_left m).trans g
  · exact (h_cores.resolve_left m).trans g
  · exact (h_pwr.resolve_left m).trans g
  · exact (h_lcs.resolve_left m).trans g
  · exact (h_bist.resolve_left m).trans g
  · exact (h_pins.resolve_left m).trans g
  · exact g

theorem pair_only {β : Type} {l : List Part} {s0 s : State} {b : β} (h : only l s0 s) : only l s0 (s, b).1 := h

theorem ite_only {l : List Part} {s0 : State} {a b : State} {c : Prop} [Decidable c] (ha : only l s0 a)
    (hb : only l s0 b) : only l s0 (if c then a else b) := by
  split <;> assumption

theorem foldl_only {α : Type} {q : List Part} {s0 : State} {f : State → α → State} (l : List α) (s : State)
    (hf : ∀ s x, only q s0 s → only q s0 (f s x)) (h : only q s0 s) : only q s0 (l.foldl f s) := by
  induction l generalizing s with
  | nil => exact h
  | cons x l ih => exact ih _ (hf _ _ h)

theorem ite_only1 {β : Type} {l : List Part} {s0 : State} {a b : State × β} {c : Prop} [Decidable c] (ha : only l s0 a.1)
    (hb : only l s0 b.1) : only l s0 (if c then a else b).1 := by
  split <;> assumption

theorem foldl_only1 {α β : Type} {q : List Part} {s0 : State} {f : (State × β) → α → State × β} (l : List α) (s : State × β)
    (hf : ∀ s x, only q s0 s.1 → only q s0 (f s x).1) (h : only q s0 s.1) : only q s0 (l.foldl f s).1 := by
  induction l generalizing s with
  | nil => exact h
  | cons x l ih => exact ih _ (hf _ _ h)

theorem ite_only2 {β : Type} {l : List Part} {s0 : State} {a b : β × State} {c : Prop} [Decidable c] (ha : only l s0 a.2)
    (hb : only l s0 b.2) : only l s0 (if c then a else b).2 := by
  split <;> assumption

theorem foldl_only2 {α β : Type} {q : List Part} {s0 : State} {f : (β × State) → α → β × State} (l : List α) (s : β × State)
    (hf : ∀ s x, only q s0 s.2 → only q s0 (f s x).2) (h : only q s0 s.2) : only q s0 (l.foldl f s).2 := by
  induction l generalizing s with
  | nil => exact h
  | cons x l ih => exact ih _ (hf _ _ h)

theorem ite_only22 {β γ : Type} {l : List Part} {s0 : State} {a b : β × γ × State} {c : Prop} [Decidable c] (ha : only l s0 a.2.2)
    (hb : only l s0 b.2.2) : only l s0 (if c then a else b).2.2 := by
  split <;> assumption

theorem foldl_only22 {α β γ : Type} {q : List Part} {s0 : State} {f : (β × γ × State) → α → β × γ × State} (l : List α) (s : β × γ × State)
    (hf : ∀ s x, only q s0 s.2.2 → only q s0 (f s x).2.2) (h : only q s0 s.2.2) : only q s0 (l.foldl f s).2.2 := by
  induction l generalizing s with
  | nil => exact h
  | cons x l ih => exact ih _ (hf _ _ h)

theorem ite_only21 {β γ : Type} {l : List Part} {s0 : State} {a b : β × State × γ} {c : Prop} [Decidable c] (ha : only l s0 a.2.1)
    (hb : only l s0 b.2.1) : only l s0 (if c then a else b).2.1 := by
  split <;> assumption

theorem foldl_only21 {α β γ : Type} {q : List Part} {s0 : State} {f : (β × State × γ) → α → β × State × γ} (l : List α) (s : β × State × γ)
    (hf : ∀ s x, only q s0 s.2.1 → only q s0 (f s x).2.1) (h : only q s0 s.2.1) : only q s0 (l.foldl f s).2.1 := by
  induction l generalizing s with
  | nil => exact h
  | cons x l ih => exact ih _ (hf _ _ h)

/-- A state that may not come about. -/
def OnlyO (l : List Part) (s0 : State) (o : Option State) : Prop := ∀ t, o = some t → only l s0 t

theorem OnlyO.none {l : List Part} {s0 : State} : OnlyO l s0 none := fun _ e => nomatch e

theorem OnlyO.some {l : List Part} {s0 s : State} (h : only l s0 s) : OnlyO l s0 (some s) := fun _ e => Option.some.inj e ▸ h

theorem ite_onlyO {l : List Part} {s0 : State} {a b : Option State} {c : Prop} [Decidable c] (ha : OnlyO l s0 a)
    (hb : OnlyO l s0 b) : OnlyO l s0 (if c then a else b) := by
  split <;> assumption

/-! Commands. -/

/-- Whatever next state a command answers, only the listed parts differ. -/
def OnlyR (l : List Part) (s0 : State) (r : Host.Outcome State Fault Refusal) : Prop := ∀ t, r = .next t → only l s0 t

theorem OnlyR.next {l : List Part} {s0 s : State} (h : only l s0 s) : OnlyR l s0 (.next s) :=
  fun _ e => Host.Outcome.next.inj e ▸ h

theorem ite_onlyR {l : List Part} {s0 : State} {a b : Host.Outcome State Fault Refusal} {c : Prop} [Decidable c]
    (ha : OnlyR l s0 a) (hb : OnlyR l s0 b) : OnlyR l s0 (if c then a else b) := by
  split <;> assumption

/-! A state taken out of an answer. -/

theorem only.eq1 {β : Type} {l : List Part} {s0 s : State} {p : State × β} {b : β} (k : p = (s, b)) (h : only l s0 p.1) :
    only l s0 s := by
  subst k; exact h

theorem only.eq2 {β : Type} {l : List Part} {s0 s : State} {p : β × State} {b : β} (k : p = (b, s)) (h : only l s0 p.2) :
    only l s0 s := by
  subst k; exact h

theorem only.eq22 {β γ : Type} {l : List Part} {s0 s : State} {p : β × γ × State} {b : β} {c : γ} (k : p = (b, c, s))
    (h : only l s0 p.2.2) : only l s0 s := by
  subst k; exact h

end Sys2Proof.Machine
end

