-- ==== Sys2Proof/Laws/Frame/Ops.lean ====
section
/-! SUPPORT. The frames of Machine/Ops.lean: which parts of the state each operation and each command may change. -/

namespace Sys2Proof.Machine

theorem State.setReg_only {s0 : State} {pl : List Part} {s : State} (off : Nat) (w : Word) (hl : [.regs] ⊆ pl) (hs0 : only pl s0 s) : only pl s0 (State.setReg s off w) := by
  unfold State.setReg
  repeat' with_reducible first | assumption | exact parts_sub (by with_unfolding_all decide) hl | (apply only.lit <;> first | exact Or.inr rfl | exact Or.inl (parts_mem hl (by with_unfolding_all decide)) | skip)

theorem State.wr_only {s0 : State} {pl : List Part} {s : State} (f : Fld) (v : Nat) (hl : [.regs] ⊆ pl) (hs0 : only pl s0 s) : only pl s0 (State.wr s f v) := by
  unfold State.wr
  repeat' with_reducible first | assumption | exact parts_sub (by with_unfolding_all decide) hl | apply State.setReg_only

theorem State.wrb_only {s0 : State} {pl : List Part} {s : State} (f : Fld) (b : Bool) (hl : [.regs] ⊆ pl) (hs0 : only pl s0 s) : only pl s0 (State.wrb s f b) := by
  unfold State.wrb
  repeat' with_reducible first | assumption | exact parts_sub (by with_unfolding_all decide) hl | apply State.wr_only

theorem State.wrm_only {s0 : State} {pl : List Part} {s : State} (f : Fld) (i : Nat) (b : Bool) (hl : [.regs] ⊆ pl) (hs0 : only pl s0 s) : only pl s0 (State.wrm s f i b) := by
  unfold State.wrm
  repeat' with_reducible first | assumption | exact parts_sub (by with_unfolding_all decide) hl | apply State.wr_only

theorem State.fresh_only {s0 : State} {pl : List Part} {s : State} (hl : [.freeCtr] ⊆ pl) (hs0 : only pl s0 s) : only pl s0 (State.fresh s).2 := by
  unfold State.fresh
  repeat' with_reducible first | assumption | exact parts_sub (by with_unfolding_all decide) hl | (apply only.lit <;> first | exact Or.inr rfl | exact Or.inl (parts_mem hl (by with_unfolding_all decide)) | skip)

theorem State.ctrAdd_only {s0 : State} {pl : List Part} {s : State} (off n : Nat) (hl : [.ctrs] ⊆ pl) (hs0 : only pl s0 s) : only pl s0 (State.ctrAdd s off n).1 := by
  unfold State.ctrAdd
  repeat' with_reducible first | assumption | exact parts_sub (by with_unfolding_all decide) hl | dsimp only | (apply only.lit <;> first | exact Or.inr rfl | exact Or.inl (parts_mem hl (by with_unfolding_all decide)) | skip)

theorem State.ctrClear_only {s0 : State} {pl : List Part} {s : State} (off : Nat) (hl : [.ctrs] ⊆ pl) (hs0 : only pl s0 s) : only pl s0 (State.ctrClear s off) := by
  unfold State.ctrClear
  repeat' with_reducible first | assumption | exact parts_sub (by with_unfolding_all decide) hl | (apply only.lit <;> first | exact Or.inr rfl | exact Or.inl (parts_mem hl (by with_unfolding_all decide)) | skip)

theorem State.ctrLatch_only {s0 : State} {pl : List Part} {s : State} (off : Nat) (hl : [.ctrs] ⊆ pl) (hs0 : only pl s0 s) : only pl s0 (State.ctrLatch s off) := by
  unfold State.ctrLatch
  repeat' with_reducible first | assumption | exact parts_sub (by with_unfolding_all decide) hl | dsimp only | (apply only.lit <;> first | exact Or.inr rfl | exact Or.inl (parts_mem hl (by with_unfolding_all decide)) | skip)

theorem State.setHost_only {s0 : State} {pl : List Part} {s : State} (h : Nat) (x : HostSt) (hl : [.mgt] ⊆ pl) (hs0 : only pl s0 s) : only pl s0 (State.setHost s h x) := by
  unfold State.setHost
  repeat' with_reducible first | assumption | exact parts_sub (by with_unfolding_all decide) hl | (apply only.lit <;> first | exact Or.inr rfl | exact Or.inl (parts_mem hl (by with_unfolding_all decide)) | skip)

theorem State.enqueue_only {s0 : State} {pl : List Part} {s : State} (h : Nat) (d : EvData) (hl : [.ctrs, .mgt] ⊆ pl) (hs0 : only pl s0 s) : only pl s0 (State.enqueue s h d).1 := by
  unfold State.enqueue
  repeat' with_reducible first | assumption | exact parts_sub (by with_unfolding_all decide) hl | apply State.ctrAdd_only | apply State.setHost_only | apply ite_only | apply ite_only1 | apply ite_only2 | apply ite_only22 | apply ite_only21 | dsimp only | intro _ _ _ _ | intro _ _ _ | intro _ _ | split | (apply only.lit <;> first | exact Or.inr rfl | exact Or.inl (parts_mem hl (by with_unfolding_all decide)) | skip)

theorem State.logEvent_only {s0 : State} {pl : List Part} {s : State} (d : EvData) (hl : [.mgt, .logs] ⊆ pl) (hs0 : only pl s0 s) : only pl s0 (State.logEvent s d) := by
  unfold State.logEvent
  repeat' with_reducible first | assumption | exact parts_sub (by with_unfolding_all decide) hl | apply ite_only | apply ite_only1 | apply ite_only2 | apply ite_only22 | apply ite_only21 | dsimp only | (apply only.lit <;> first | exact Or.inr rfl | exact Or.inl (parts_mem hl (by with_unfolding_all decide)) | skip)

theorem raiseTo_only {s0 : State} {pl : List Part} (x0 : Nat) (x1 : List Nat) (x2 : EvData) {s : State} (hl : [.ctrs, .mgt, .logs] ⊆ pl) (hs0 : only pl s0 s) : only pl s0 (raiseTo x0 x1 x2 s) := by
  induction x0 generalizing x1 x2 s with
  | zero =>
    unfold raiseTo
    repeat' with_reducible first | assumption
  | succ x0 ih =>
    unfold raiseTo
    repeat' with_reducible first | assumption | exact parts_sub (by with_unfolding_all decide) hl | apply ih | apply State.enqueue_only | apply State.logEvent_only | refine foldl_only _ _ (fun _ _ _ => ?_) ?_ | refine foldl_only1 _ _ (fun _ _ _ => ?_) ?_ | refine foldl_only2 _ _ (fun _ _ _ => ?_) ?_ | refine foldl_only22 _ _ (fun _ _ _ => ?_) ?_ | refine foldl_only21 _ _ (fun _ _ _ => ?_) ?_ | dsimp only | intro _ _ _ _ | intro _ _ _ | intro _ _ | split

theorem State.raiseAt_only {s0 : State} {pl : List Part} {s : State} (hs : List Nat) (k : EvKind) (vat source : Nat) (args : List Nat) (hl : [.ctrs, .mgt, .logs] ⊆ pl) (hs0 : only pl s0 s) : only pl s0 (State.raiseAt s hs k vat source args) := by
  unfold State.raiseAt
  repeat' with_reducible first | assumption | exact parts_sub (by with_unfolding_all decide) hl | apply raiseTo_only

theorem State.raiseVat_only {s0 : State} {pl : List Part} {s : State} (v : Nat) (k : EvKind) (source : Nat) (args : List Nat) (hl : [.ctrs, .mgt, .logs] ⊆ pl) (hs0 : only pl s0 s) : only pl s0 (State.raiseVat s v k source args) := by
  unfold State.raiseVat
  repeat' with_reducible first | assumption | exact parts_sub (by with_unfolding_all decide) hl | apply State.raiseAt_only

theorem State.raiseDev_only {s0 : State} {pl : List Part} {s : State} (k : EvKind) (source : Nat) (args : List Nat) (hl : [.ctrs, .mgt, .logs] ⊆ pl) (hs0 : only pl s0 s) : only pl s0 (State.raiseDev s k source args) := by
  unfold State.raiseDev
  repeat' with_reducible first | assumption | exact parts_sub (by with_unfolding_all decide) hl | apply State.raiseAt_only

theorem State.bump_only {s0 : State} {pl : List Part} {s : State} (off : Nat) (n : Nat) (hl : [.ctrs, .mgt, .logs] ⊆ pl) (hs0 : only pl s0 s) : only pl s0 (State.bump s off n) := by
  unfold State.bump
  repeat' with_reducible first | assumption | exact parts_sub (by with_unfolding_all decide) hl | apply State.ctrAdd_only | apply raiseTo_only | apply ite_only

theorem State.audit_only {s0 : State} {pl : List Part} {s : State} (a : AudEntry) (hl : [.logs] ⊆ pl) (hs0 : only pl s0 s) : only pl s0 (State.audit s a) := by
  unfold State.audit
  repeat' with_reducible first | assumption | exact parts_sub (by with_unfolding_all decide) hl | (apply only.lit <;> first | exact Or.inr rfl | exact Or.inl (parts_mem hl (by with_unfolding_all decide)) | skip)

theorem State.enterMode_only {s0 : State} {pl : List Part} {s : State} (m : Nat) (hl : [.regs, .ctrs, .mgt, .logs] ⊆ pl) (hs0 : only pl s0 s) : only pl s0 (State.enterMode s m) := by
  unfold State.enterMode
  repeat' with_reducible first | assumption | exact parts_sub (by with_unfolding_all decide) hl | apply State.raiseDev_only | apply State.wr_only | apply ite_only

theorem State.settleMode_only {s0 : State} {pl : List Part} {s : State} (hl : [.regs, .ctrs, .mgt, .logs] ⊆ pl) (hs0 : only pl s0 s) : only pl s0 (State.settleMode s) := by
  unfold State.settleMode
  repeat' with_reducible first | assumption | exact parts_sub (by with_unfolding_all decide) hl | apply State.enterMode_only | apply ite_only

end Sys2Proof.Machine
end

