-- ==== Sys2Proof/Laws/Frame/Irq.lean ====
section
/-! SUPPORT. The frames of Machine/Irq.lean: which parts of the state each operation and each command may change. -/

namespace Sys2Proof.Machine

theorem State.setProc_only {s0 : State} {pl : List Part} {s : State} (c : Nat) (p : Proc) (hl : [.procs] ⊆ pl) (hs0 : only pl s0 s) : only pl s0 (State.setProc s c p) := by
  unfold State.setProc
  repeat' with_reducible first | assumption | exact parts_sub (by with_unfolding_all decide) hl | (apply only.lit <;> first | exact Or.inr rfl | exact Or.inl (parts_mem hl (by with_unfolding_all decide)) | skip)

theorem State.cpuRan_only {s0 : State} {pl : List Part} {s : State} (c : Nat) (r : CpuRun) (hl : [.procs, .cores] ⊆ pl) (hs0 : only pl s0 s) : only pl s0 (State.cpuRan s c r) := by
  unfold State.cpuRan
  repeat' with_reducible first | assumption | exact parts_sub (by with_unfolding_all decide) hl | apply State.setProc_only | (apply only.lit <;> first | exact Or.inr rfl | exact Or.inl (parts_mem hl (by with_unfolding_all decide)) | skip)

theorem State.setLevel_only {s0 : State} {pl : List Part} {s : State} (i : Nat) (b : Bool) (hl : [.irq] ⊆ pl) (hs0 : only pl s0 s) : only pl s0 (State.setLevel s i b) := by
  unfold State.setLevel
  repeat' with_reducible first | assumption | exact parts_sub (by with_unfolding_all decide) hl | (apply only.lit <;> first | exact Or.inr rfl | exact Or.inl (parts_mem hl (by with_unfolding_all decide)) | skip)

theorem State.setLatch_only {s0 : State} {pl : List Part} {s : State} (i : Nat) (b : Bool) (hl : [.irq] ⊆ pl) (hs0 : only pl s0 s) : only pl s0 (State.setLatch s i b) := by
  unfold State.setLatch
  repeat' with_reducible first | assumption | exact parts_sub (by with_unfolding_all decide) hl | (apply only.lit <;> first | exact Or.inr rfl | exact Or.inl (parts_mem hl (by with_unfolding_all decide)) | skip)

theorem State.setClaim_only {s0 : State} {pl : List Part} {s : State} (i n : Nat) (hl : [.irq] ⊆ pl) (hs0 : only pl s0 s) : only pl s0 (State.setClaim s i n) := by
  unfold State.setClaim
  repeat' with_reducible first | assumption | exact parts_sub (by with_unfolding_all decide) hl | (apply only.lit <;> first | exact Or.inr rfl | exact Or.inl (parts_mem hl (by with_unfolding_all decide)) | skip)

theorem State.setOffer_only {s0 : State} {pl : List Part} {s : State} (i n : Nat) (hl : [.irq] ⊆ pl) (hs0 : only pl s0 s) : only pl s0 (State.setOffer s i n) := by
  unfold State.setOffer
  repeat' with_reducible first | assumption | exact parts_sub (by with_unfolding_all decide) hl | (apply only.lit <;> first | exact Or.inr rfl | exact Or.inl (parts_mem hl (by with_unfolding_all decide)) | skip)

theorem State.offerOne_only {s0 : State} {pl : List Part} {s : State} (i : Nat) (hl : [.regs, .irq] ⊆ pl) (hs0 : only pl s0 s) : only pl s0 (State.offerOne s i) := by
  unfold State.offerOne
  repeat' with_reducible first | assumption | exact parts_sub (by with_unfolding_all decide) hl | apply State.setOffer_only | apply State.wrb_only | apply ite_only | apply ite_only1 | apply ite_only2 | apply ite_only22 | apply ite_only21 | dsimp only | intro _ _ _ _ | intro _ _ _ | intro _ _ | split | (apply only.lit <;> first | exact Or.inr rfl | exact Or.inl (parts_mem hl (by with_unfolding_all decide)) | skip)

theorem State.reoffer_only {s0 : State} {pl : List Part} {s : State} (hl : [.regs, .irq] ⊆ pl) (hs0 : only pl s0 s) : only pl s0 (State.reoffer s) := by
  unfold State.reoffer
  repeat' with_reducible first | assumption | exact parts_sub (by with_unfolding_all decide) hl | apply State.offerOne_only | refine foldl_only _ _ (fun _ _ _ => ?_) ?_

theorem State.srcSet_only {s0 : State} {pl : List Part} {s : State} (i : Nat) (b : Bool) (hl : [.regs, .ctrs, .mgt, .logs, .irq] ⊆ pl) (hs0 : only pl s0 s) : only pl s0 (State.srcSet s i b) := by
  unfold State.srcSet
  repeat' with_reducible first | assumption | exact parts_sub (by with_unfolding_all decide) hl | apply State.bump_only | apply State.raiseAt_only | apply State.reoffer_only | apply State.setLatch_only | apply State.setLevel_only | apply ite_only | apply ite_only1 | apply ite_only2 | apply ite_only22 | apply ite_only21 | dsimp only | split

theorem State.srcPulse_only {s0 : State} {pl : List Part} {s : State} (i : Nat) (hl : [.regs, .ctrs, .mgt, .logs, .irq] ⊆ pl) (hs0 : only pl s0 s) : only pl s0 (State.srcPulse s i) := by
  unfold State.srcPulse
  repeat' with_reducible first | assumption | exact parts_sub (by with_unfolding_all decide) hl | apply State.srcSet_only

theorem State.claim_only {s0 : State} {pl : List Part} {s : State} (c i : Nat) (hl : [.regs, .irq, .procs] ⊆ pl) (hs0 : only pl s0 s) : only pl s0 (State.claim s c i) := by
  unfold State.claim
  repeat' with_reducible first | assumption | exact parts_sub (by with_unfolding_all decide) hl | apply State.reoffer_only | apply State.setClaim_only | apply State.setLatch_only | apply State.setOffer_only | apply State.setProc_only | apply State.wr_only | apply State.wrb_only

theorem State.complete_only {s0 : State} {pl : List Part} {s : State} (c i : Nat) (hl : [.regs, .irq, .procs] ⊆ pl) (hs0 : only pl s0 s) : only pl s0 (State.complete s c i) := by
  unfold State.complete
  repeat' with_reducible first | assumption | exact parts_sub (by with_unfolding_all decide) hl | apply State.reoffer_only | apply State.setClaim_only | apply State.setProc_only | apply State.wr_only | apply State.wrb_only | apply ite_only

theorem State.completeAll_only {s0 : State} {pl : List Part} {s : State} (c : Nat) (hl : [.regs, .irq, .procs] ⊆ pl) (hs0 : only pl s0 s) : only pl s0 (State.completeAll s c) := by
  unfold State.completeAll
  repeat' with_reducible first | assumption | exact parts_sub (by with_unfolding_all decide) hl | apply State.reoffer_only | apply State.setClaim_only | apply State.setProc_only | apply State.wr_only | apply State.wrb_only | dsimp only | split

end Sys2Proof.Machine
end

