-- ==== Sys2Proof/Laws/Frame/Noc.lean ====
section
/-! SUPPORT. The frames of Machine/Noc.lean: which parts of the state each operation and each command may change. -/

namespace Sys2Proof.Machine


theorem State.mapCached_only {s0 : State} {pl : List Part} {s : State} (i a : Nat) (hl : [.freeCtr, .noc] ⊆ pl) (hs0 : only pl s0 s) : only pl s0 (State.mapCached s i a).1 := by
  unfold State.mapCached
  repeat' with_reducible first | assumption | exact parts_sub (by with_unfolding_all decide) hl | apply State.fresh_only | apply ite_only | apply ite_only1 | apply ite_only2 | apply ite_only22 | apply ite_only21 | dsimp only | intro _ _ _ _ | intro _ _ _ | intro _ _ | split | (apply only.lit <;> first | exact Or.inr rfl | exact Or.inl (parts_mem hl (by with_unfolding_all decide)) | skip) | refine only.eq2 (by assumption) ?_ | refine only.eq22 (by assumption) ?_ | refine only.eq1 (by assumption) ?_

theorem State.regUse_only {s0 : State} {pl : List Part} {s : State} (i n : Nat) (hl : [.noc] ⊆ pl) (hs0 : only pl s0 s) : only pl s0 (State.regUse s i n) := by
  unfold State.regUse
  repeat' with_reducible first | assumption | exact parts_sub (by with_unfolding_all decide) hl | apply ite_only | apply ite_only1 | apply ite_only2 | apply ite_only22 | apply ite_only21 | split | (apply only.lit <;> first | exact Or.inr rfl | exact Or.inl (parts_mem hl (by with_unfolding_all decide)) | skip)

theorem State.setTag_only {s0 : State} {pl : List Part} {s : State} (i t : Nat) (x : TagSt) (hl : [.noc] ⊆ pl) (hs0 : only pl s0 s) : only pl s0 (State.setTag s i t x) := by
  unfold State.setTag
  repeat' with_reducible first | assumption | exact parts_sub (by with_unfolding_all decide) hl | (apply only.lit <;> first | exact Or.inr rfl | exact Or.inl (parts_mem hl (by with_unfolding_all decide)) | skip)

theorem State.freeTag_only {s0 : State} {pl : List Part} {s : State} (i t : Nat) (hl : [.noc] ⊆ pl) (hs0 : only pl s0 s) : only pl s0 (State.freeTag s i t) := by
  unfold State.freeTag
  repeat' with_reducible first | assumption | exact parts_sub (by with_unfolding_all decide) hl | (apply only.lit <;> first | exact Or.inr rfl | exact Or.inl (parts_mem hl (by with_unfolding_all decide)) | skip)

theorem State.deliver_only {s0 : State} {pl : List Part} {s : State} (i t : Nat) (st : Status) (data : BitVec 512) (poison : Bool) (hl : [.ctrs, .mgt, .logs, .noc] ⊆ pl) (hs0 : only pl s0 s) : only pl s0 (State.deliver s i t st data poison) := by
  unfold State.deliver
  repeat' with_reducible first | assumption | exact parts_sub (by with_unfolding_all decide) hl | apply State.bump_only | apply ite_only | apply ite_only1 | apply ite_only2 | apply ite_only22 | apply ite_only21 | dsimp only | (apply only.lit <;> first | exact Or.inr rfl | exact Or.inl (parts_mem hl (by with_unfolding_all decide)) | skip)

theorem State.decodeRq_only {s0 : State} {pl : List Part} {s : State} (i vat : Nat) (rq : NocRq) (hl : [.regs, .freeCtr, .noc] ⊆ pl) (hs0 : only pl s0 s) : only pl s0 (State.decodeRq s i vat rq).1 := by
  unfold State.decodeRq
  repeat' with_reducible first | assumption | exact parts_sub (by with_unfolding_all decide) hl | apply State.mapCached_only | apply State.wr_only | apply ite_only | apply ite_only1 | apply ite_only2 | apply ite_only22 | apply ite_only21 | dsimp only | (apply only.lit <;> first | exact Or.inr rfl | exact Or.inl (parts_mem hl (by with_unfolding_all decide)) | skip)

theorem State.setPort_only {s0 : State} {pl : List Part} {s : State} (k : Nat) (p : SpanPort) (hl : [.span] ⊆ pl) (hs0 : only pl s0 s) : only pl s0 (State.setPort s k p) := by
  unfold State.setPort
  repeat' with_reducible first | assumption | exact parts_sub (by with_unfolding_all decide) hl | (apply only.lit <;> first | exact Or.inr rfl | exact Or.inl (parts_mem hl (by with_unfolding_all decide)) | skip)

theorem State.spanFree_only {s0 : State} {pl : List Part} {s : State} (k vc : Nat) (hl : [.span] ⊆ pl) (hs0 : only pl s0 s) : only pl s0 (State.spanFree s k vc) := by
  unfold State.spanFree
  repeat' with_reducible first | assumption | exact parts_sub (by with_unfolding_all decide) hl | apply State.setPort_only | apply ite_only | apply ite_only1 | apply ite_only2 | apply ite_only22 | apply ite_only21 | dsimp only | intro _ _ _ _ | intro _ _ _ | intro _ _ | (apply only.lit <;> first | exact Or.inr rfl | exact Or.inl (parts_mem hl (by with_unfolding_all decide)) | skip)

theorem State.enterMesh_only {s0 : State} {pl : List Part} {s : State} (m : Moving) (span : Option Nat) (hl : [.noc, .span] ⊆ pl) (hs0 : only pl s0 s) : only pl s0 (State.enterMesh s m span) := by
  unfold State.enterMesh
  repeat' with_reducible first | assumption | exact parts_sub (by with_unfolding_all decide) hl | apply State.spanFree_only | apply ite_only | apply ite_only1 | apply ite_only2 | apply ite_only22 | apply ite_only21 | dsimp only | intro _ _ _ _ | intro _ _ _ | intro _ _ | split | (apply only.lit <;> first | exact Or.inr rfl | exact Or.inl (parts_mem hl (by with_unfolding_all decide)) | skip) | refine only.eq2 (by assumption) ?_ | refine only.eq22 (by assumption) ?_ | refine only.eq1 (by assumption) ?_

theorem State.refill_only {s0 : State} {pl : List Part} {s : State} (id : Nat) (hl : [.noc, .span] ⊆ pl) (hs0 : only pl s0 s) : only pl s0 (State.refill s id) := by
  unfold State.refill
  repeat' with_reducible first | assumption | exact parts_sub (by with_unfolding_all decide) hl | apply State.enterMesh_only | refine foldl_only _ _ (fun _ _ _ => ?_) ?_ | refine foldl_only1 _ _ (fun _ _ _ => ?_) ?_ | refine foldl_only2 _ _ (fun _ _ _ => ?_) ?_ | refine foldl_only22 _ _ (fun _ _ _ => ?_) ?_ | refine foldl_only21 _ _ (fun _ _ _ => ?_) ?_ | dsimp only | intro _ _ _ _ | intro _ _ _ | intro _ _ | (apply only.lit <;> first | exact Or.inr rfl | exact Or.inl (parts_mem hl (by with_unfolding_all decide)) | skip)

theorem State.sendRq_only {s0 : State} {pl : List Part} {s : State} (i : Nat) (w : Waiting) (hl : [.ctrs, .mgt, .logs, .noc, .span] ⊆ pl) (hs0 : only pl s0 s) : only pl s0 (State.sendRq s i w) := by
  unfold State.sendRq
  repeat' with_reducible first | assumption | exact parts_sub (by with_unfolding_all decide) hl | apply State.bump_only | apply State.regUse_only | apply State.setTag_only | apply State.spanFree_only | apply ite_only | apply ite_only1 | apply ite_only2 | apply ite_only22 | apply ite_only21 | dsimp only | (apply only.lit <;> first | exact Or.inr rfl | exact Or.inl (parts_mem hl (by with_unfolding_all decide)) | skip)

theorem State.hold_only {s0 : State} {pl : List Part} {s : State} (i : Nat) (w : Waiting) (hl : [.noc] ⊆ pl) (hs0 : only pl s0 s) : only pl s0 (State.hold s i w) := by
  unfold State.hold
  repeat' with_reducible first | assumption | exact parts_sub (by with_unfolding_all decide) hl | (apply only.lit <;> first | exact Or.inr rfl | exact Or.inl (parts_mem hl (by with_unfolding_all decide)) | skip)

theorem State.offer_only {s0 : State} {pl : List Part} {s : State} (i : Nat) (w : Waiting) (hl : [.ctrs, .mgt, .logs, .noc, .span] ⊆ pl) (hs0 : only pl s0 s) : only pl s0 (State.offer s i w) := by
  unfold State.offer
  repeat' with_reducible first | assumption | exact parts_sub (by with_unfolding_all decide) hl | apply State.hold_only | apply State.sendRq_only | apply ite_only

theorem State.retry_only {s0 : State} {pl : List Part} (x0 : Nat) (x1 : Nat) {s : State} (hl : [.ctrs, .mgt, .logs, .noc, .span] ⊆ pl) (hs0 : only pl s0 s) : only pl s0 (State.retry x0 x1 s) := by
  induction x0 generalizing x1 s with
  | zero =>
    unfold State.retry
    repeat' with_reducible first | assumption
  | succ x0 ih =>
    unfold State.retry
    repeat' with_reducible first | assumption | exact parts_sub (by with_unfolding_all decide) hl | apply ih | apply State.sendRq_only | apply ite_only | apply ite_only1 | apply ite_only2 | apply ite_only22 | apply ite_only21 | split | (apply only.lit <;> first | exact Or.inr rfl | exact Or.inl (parts_mem hl (by with_unfolding_all decide)) | skip)

theorem State.retryAll_only {s0 : State} {pl : List Part} {s : State} (i : Nat) (hl : [.ctrs, .mgt, .logs, .noc, .span] ⊆ pl) (hs0 : only pl s0 s) : only pl s0 (State.retryAll s i) := by
  unfold State.retryAll
  repeat' with_reducible first | assumption | exact parts_sub (by with_unfolding_all decide) hl | apply State.retry_only

theorem State.issue_only {s0 : State} {pl : List Part} {s : State} (i vat : Nat) (rq : NocRq) (hl : [.regs, .ctrs, .freeCtr, .mgt, .logs, .noc, .span] ⊆ pl) (hs0 : only pl s0 s) : only pl s0 (State.issue s i vat rq) := by
  unfold State.issue
  repeat' with_reducible first | assumption | exact parts_sub (by with_unfolding_all decide) hl | apply State.decodeRq_only | apply State.deliver_only | apply State.offer_only | apply ite_only | apply ite_only1 | apply ite_only2 | apply ite_only22 | apply ite_only21 | dsimp only | (apply only.lit <;> first | exact Or.inr rfl | exact Or.inl (parts_mem hl (by with_unfolding_all decide)) | skip)

theorem execNocRequestIssue_only {s0 : State} {pl : List Part} (i : Fin 1024) (rq : NocRq) {s : State} (hl : [.regs, .ctrs, .freeCtr, .mgt, .logs, .noc, .span] ⊆ pl) (hs0 : only pl s0 s) : OnlyR pl s0 (execNocRequestIssue i rq s) := by
  unfold execNocRequestIssue
  repeat' with_reducible first | assumption | exact parts_sub (by with_unfolding_all decide) hl | exact only.refl _ _ | apply OnlyR.next | apply ite_onlyR | apply State.issue_only | apply State.wr_only | apply ite_only | apply ite_only1 | apply ite_only2 | apply ite_only22 | apply ite_only21 | dsimp only | intro _ _ _ _ | intro _ _ _ | intro _ _

theorem State.headerLoss_only {s0 : State} {pl : List Part} {s : State} (src : Nat) (hl : [.regs, .ctrs, .mgt, .logs, .irq] ⊆ pl) (hs0 : only pl s0 s) : only pl s0 (State.headerLoss s src) := by
  unfold State.headerLoss
  repeat' with_reducible first | assumption | exact parts_sub (by with_unfolding_all decide) hl | apply State.bump_only | apply State.raiseDev_only | apply State.srcPulse_only

theorem State.eject_only {s0 : State} {pl : List Part} {s : State} (id : Nat) (m : Moving) (hl : [.noc] ⊆ pl) (hs0 : only pl s0 s) : only pl s0 (State.eject s id m) := by
  unfold State.eject
  repeat' with_reducible first | assumption | exact parts_sub (by with_unfolding_all decide) hl | apply ite_only | apply ite_only1 | apply ite_only2 | apply ite_only22 | apply ite_only21 | dsimp only | (apply only.lit <;> first | exact Or.inr rfl | exact Or.inl (parts_mem hl (by with_unfolding_all decide)) | skip)

theorem execFlitForward_only {s0 : State} {pl : List Part} (y x : Fin 16) (o : NocOut) (hdrErr payErr : Bool) {s : State} (hl : [.regs, .ctrs, .mgt, .logs, .irq, .noc, .span] ⊆ pl) (hs0 : only pl s0 s) : OnlyR pl s0 (execFlitForward y x o hdrErr payErr s) := by
  unfold execFlitForward
  repeat' with_reducible first | assumption | exact parts_sub (by with_unfolding_all decide) hl | exact only.refl _ _ | apply OnlyR.next | apply ite_onlyR | apply State.eject_only | apply State.headerLoss_only | apply State.refill_only | apply State.retryAll_only | apply ite_only | apply ite_only1 | apply ite_only2 | apply ite_only22 | apply ite_only21 | dsimp only | intro _ _ _ _ | intro _ _ _ | intro _ _ | split | (apply only.lit <;> first | exact Or.inr rfl | exact Or.inl (parts_mem hl (by with_unfolding_all decide)) | skip) | refine only.eq2 (by assumption) ?_ | refine only.eq22 (by assumption) ?_ | refine only.eq1 (by assumption) ?_

theorem State.sendRsp_only {s0 : State} {pl : List Part} {s : State} (id : Nat) (m : Moving) (f : Flit) (hl : [.noc, .span] ⊆ pl) (hs0 : only pl s0 s) : only pl s0 (State.sendRsp s id m f) := by
  unfold State.sendRsp
  repeat' with_reducible first | assumption | exact parts_sub (by with_unfolding_all decide) hl | apply State.enterMesh_only | (apply only.lit <;> first | exact Or.inr rfl | exact Or.inl (parts_mem hl (by with_unfolding_all decide)) | skip)

theorem State.respond_only {s0 : State} {pl : List Part} {s : State} (id : Nat) (m : Moving) (st : Status) (data : BitVec 512) (hl : [.noc, .span] ⊆ pl) (hs0 : only pl s0 s) : only pl s0 (State.respond s id m st data) := by
  unfold State.respond
  repeat' with_reducible first | assumption | exact parts_sub (by with_unfolding_all decide) hl | apply State.sendRsp_only

theorem execQuarantineExpiry_only {s0 : State} {pl : List Part} (i t : Fin 1024) {s : State} (hl : [.ctrs, .mgt, .logs, .noc, .span] ⊆ pl) (hs0 : only pl s0 s) : OnlyR pl s0 (execQuarantineExpiry i t s) := by
  unfold execQuarantineExpiry
  repeat' with_reducible first | assumption | exact parts_sub (by with_unfolding_all decide) hl | exact only.refl _ _ | apply OnlyR.next | apply ite_onlyR | apply State.freeTag_only | apply State.retryAll_only | apply ite_only | apply ite_only1 | apply ite_only2 | apply ite_only22 | apply ite_only21 | split | (apply only.lit <;> first | exact Or.inr rfl | exact Or.inl (parts_mem hl (by with_unfolding_all decide)) | skip) | refine only.eq2 (by assumption) ?_ | refine only.eq22 (by assumption) ?_ | refine only.eq1 (by assumption) ?_

theorem State.latency_only {s0 : State} {pl : List Part} {s : State} (i cycles : Nat) (hl : [.regs, .ctrs, .mgt, .logs] ⊆ pl) (hs0 : only pl s0 s) : only pl s0 (State.latency s i cycles) := by
  unfold State.latency
  repeat' with_reducible first | assumption | exact parts_sub (by with_unfolding_all decide) hl | apply State.bump_only | apply State.wr_only | apply ite_only | apply ite_only1 | apply ite_only2 | apply ite_only22 | apply ite_only21 | dsimp only

theorem State.takeResponse_only {s0 : State} {pl : List Part} {s : State} (i : Nat) (m : Moving) (cycles : Nat) (hl : [.regs, .ctrs, .mgt, .logs, .noc, .span] ⊆ pl) (hs0 : only pl s0 s) : only pl s0 (State.takeResponse s i m cycles).1 := by
  unfold State.takeResponse
  repeat' with_reducible first | assumption | exact parts_sub (by with_unfolding_all decide) hl | apply State.bump_only | apply State.deliver_only | apply State.freeTag_only | apply State.latency_only | apply State.retryAll_only | apply ite_only | apply ite_only1 | apply ite_only2 | apply ite_only22 | apply ite_only21 | dsimp only | split | (apply only.lit <;> first | exact Or.inr rfl | exact Or.inl (parts_mem hl (by with_unfolding_all decide)) | skip) | refine only.eq2 (by assumption) ?_ | refine only.eq22 (by assumption) ?_ | refine only.eq1 (by assumption) ?_

theorem execMapSyncDone_only {s0 : State} {pl : List Part} {s : State} (hl : [.regs, .noc] ⊆ pl) (hs0 : only pl s0 s) : OnlyR pl s0 (execMapSyncDone s) := by
  unfold execMapSyncDone
  repeat' with_reducible first | assumption | exact parts_sub (by with_unfolding_all decide) hl | exact only.refl _ _ | apply OnlyR.next | apply ite_onlyR | apply State.wrb_only | apply ite_only | apply ite_only1 | apply ite_only2 | apply ite_only22 | apply ite_only21 | (apply only.lit <;> first | exact Or.inr rfl | exact Or.inl (parts_mem hl (by with_unfolding_all decide)) | skip)

theorem execMapCacheRefresh_only {s0 : State} {pl : List Part} (i : Fin 1024) {s : State} (hl : [.noc] ⊆ pl) (hs0 : only pl s0 s) : OnlyR pl s0 (execMapCacheRefresh i s) := by
  unfold execMapCacheRefresh
  repeat' with_reducible first | assumption | exact parts_sub (by with_unfolding_all decide) hl | exact only.refl _ _ | apply OnlyR.next | apply ite_onlyR | (apply only.lit <;> first | exact Or.inr rfl | exact Or.inl (parts_mem hl (by with_unfolding_all decide)) | skip)

theorem State.drawAll_only {s0 : State} {pl : List Part} (x0 : Nat) (x1 : Nat) {s : State} (hl : [.ctrs, .mgt, .logs, .noc, .span] ⊆ pl) (hs0 : only pl s0 s) : only pl s0 (State.drawAll x0 x1 s) := by
  induction x0 generalizing x1 s with
  | zero =>
    unfold State.drawAll
    repeat' with_reducible first | assumption
  | succ x0 ih =>
    unfold State.drawAll
    repeat' with_reducible first | assumption | exact parts_sub (by with_unfolding_all decide) hl | apply ih | apply State.retry_only | intro _ _ _ _ | intro _ _ _ | intro _ _ | split

theorem State.drawFrom_only {s0 : State} {pl : List Part} {s : State} (r : Nat) (hl : [.ctrs, .mgt, .logs, .noc, .span] ⊆ pl) (hs0 : only pl s0 s) : only pl s0 (State.drawFrom s r) := by
  unfold State.drawFrom
  repeat' with_reducible first | assumption | exact parts_sub (by with_unfolding_all decide) hl | apply State.drawAll_only | refine foldl_only _ _ (fun _ _ _ => ?_) ?_ | refine foldl_only1 _ _ (fun _ _ _ => ?_) ?_ | refine foldl_only2 _ _ (fun _ _ _ => ?_) ?_ | refine foldl_only22 _ _ (fun _ _ _ => ?_) ?_ | refine foldl_only21 _ _ (fun _ _ _ => ?_) ?_ | intro _ _ _ _ | intro _ _ _ | intro _ _

theorem State.burstTo_only {s0 : State} {pl : List Part} {s : State} (r n : Nat) (hl : [.noc] ⊆ pl) (hs0 : only pl s0 s) : only pl s0 (State.burstTo s r n) := by
  unfold State.burstTo
  repeat' with_reducible first | assumption | (apply only.lit <;> first | exact Or.inl (parts_mem hl (by with_unfolding_all decide)) | exact Or.inr rfl | skip)

theorem execRegulatorBucketFill_only {s0 : State} {pl : List Part} (r : Fin 256) {s : State} (hl : [.ctrs, .mgt, .logs, .noc, .span] ⊆ pl) (hs0 : only pl s0 s) : OnlyR pl s0 (execRegulatorBucketFill r s) := by
  unfold execRegulatorBucketFill
  repeat' with_reducible first | assumption | exact parts_sub (by with_unfolding_all decide) hl | exact only.refl _ _ | apply OnlyR.next | apply ite_onlyR | apply State.drawFrom_only | apply ite_only | apply ite_only1 | apply ite_only2 | apply ite_only22 | apply ite_only21 | dsimp only | intro _ _ _ _ | intro _ _ _ | intro _ _ | (apply only.lit <;> first | exact Or.inr rfl | exact Or.inl (parts_mem hl (by with_unfolding_all decide)) | skip)

theorem State.bindReg_only {s0 : State} {pl : List Part} {s : State} (i : Nat) (hl : [.regs, .ctrs, .mgt, .logs, .irq] ⊆ pl) (hs0 : only pl s0 s) : only pl s0 (State.bindReg s i) := by
  unfold State.bindReg
  repeat' with_reducible first | assumption | exact parts_sub (by with_unfolding_all decide) hl | apply State.raiseDev_only | apply State.srcPulse_only | apply State.wr_only | apply State.wrb_only | apply ite_only

theorem State.unbindReg_only {s0 : State} {pl : List Part} {s : State} (i : Nat) (hl : [.regs, .ctrs, .mgt, .logs, .noc, .span] ⊆ pl) (hs0 : only pl s0 s) : only pl s0 (State.unbindReg s i) := by
  unfold State.unbindReg
  repeat' with_reducible first | assumption | exact parts_sub (by with_unfolding_all decide) hl | apply State.retryAll_only | apply State.wr_only | apply State.wrb_only | apply ite_only | apply ite_only1 | apply ite_only2 | apply ite_only22 | apply ite_only21 | dsimp only | split

theorem State.orphanVat_only {s0 : State} {pl : List Part} {s : State} (v : Nat) (hl : [.noc] ⊆ pl) (hs0 : only pl s0 s) : only pl s0 (State.orphanVat s v) := by
  unfold State.orphanVat
  repeat' with_reducible first | assumption | exact parts_sub (by with_unfolding_all decide) hl | apply ite_only | apply ite_only1 | apply ite_only2 | apply ite_only22 | apply ite_only21 | dsimp only | intro _ _ _ _ | intro _ _ _ | intro _ _ | (apply only.lit <;> first | exact Or.inr rfl | exact Or.inl (parts_mem hl (by with_unfolding_all decide)) | skip)

theorem State.fillVatRegs_only {s0 : State} {pl : List Part} {s : State} (v : Nat) (hl : [.noc] ⊆ pl) (hs0 : only pl s0 s) : only pl s0 (State.fillVatRegs s v) := by
  unfold State.fillVatRegs
  repeat' with_reducible first | assumption | exact parts_sub (by with_unfolding_all decide) hl | dsimp only | intro _ _ _ _ | intro _ _ _ | intro _ _ | (apply only.lit <;> first | exact Or.inr rfl | exact Or.inl (parts_mem hl (by with_unfolding_all decide)) | skip)

end Sys2Proof.Machine
end

