-- ==== Sys2Proof/Laws/Frame/Dram.lean ====
section
/-! SUPPORT. The frames of Machine/Dram.lean: which parts of the state each operation and each command may change. -/

namespace Sys2Proof.Machine


theorem State.setChan_only {s0 : State} {pl : List Part} {s : State} (n : Nat) (c : DramCh) (hl : [.dram] ⊆ pl) (hs0 : only pl s0 s) : only pl s0 (State.setChan s n c) := by
  unfold State.setChan
  repeat' with_reducible first | assumption | exact parts_sub (by with_unfolding_all decide) hl | (apply only.lit <;> first | exact Or.inr rfl | exact Or.inl (parts_mem hl (by with_unfolding_all decide)) | skip)

theorem State.setChState_only {s0 : State} {pl : List Part} {s : State} (n st : Nat) (hl : [.regs] ⊆ pl) (hs0 : only pl s0 s) : only pl s0 (State.setChState s n st) := by
  unfold State.setChState
  repeat' with_reducible first | assumption | exact parts_sub (by with_unfolding_all decide) hl | apply State.wr_only

theorem State.storeLine_only {s0 : State} {pl : List Part} {s : State} (n line : Nat) (data : BitVec 512) (poison : Bool) (hl : [.dram] ⊆ pl) (hs0 : only pl s0 s) : only pl s0 (State.storeLine s n line data poison) := by
  unfold State.storeLine
  repeat' with_reducible first | assumption | exact parts_sub (by with_unfolding_all decide) hl | apply State.setChan_only

theorem State.ddrPulse_only {s0 : State} {pl : List Part} {s : State} (n k : Nat) (hl : [.regs, .ctrs, .mgt, .logs, .irq] ⊆ pl) (hs0 : only pl s0 s) : only pl s0 (State.ddrPulse s n k) := by
  unfold State.ddrPulse
  repeat' with_reducible first | assumption | exact parts_sub (by with_unfolding_all decide) hl | apply State.srcPulse_only

theorem State.migStart_only {s0 : State} {pl : List Part} {s : State} (n r : Nat) (hl : [.regs, .dram] ⊆ pl) (hs0 : only pl s0 s) : only pl s0 (State.migStart s n r) := by
  unfold State.migStart
  repeat' with_reducible first | assumption | exact parts_sub (by with_unfolding_all decide) hl | apply State.setChan_only | apply State.wr_only

theorem State.rankFault_only {s0 : State} {pl : List Part} {s : State} (n r addr : Nat) (hl : [.regs, .ctrs, .mgt, .logs, .irq, .dram] ⊆ pl) (hs0 : only pl s0 s) : only pl s0 (State.rankFault s n r addr) := by
  unfold State.rankFault
  repeat' with_reducible first | assumption | exact parts_sub (by with_unfolding_all decide) hl | apply State.ddrPulse_only | apply State.migStart_only | apply State.raiseDev_only | apply State.wrb_only | apply State.wrm_only | apply ite_only

theorem State.corrected_only {s0 : State} {pl : List Part} {s : State} (n r addr : Nat) (hl : [.regs, .ctrs, .mgt, .logs, .irq, .dram] ⊆ pl) (hs0 : only pl s0 s) : only pl s0 (State.corrected s n r addr) := by
  unfold State.corrected
  repeat' with_reducible first | assumption | exact parts_sub (by with_unfolding_all decide) hl | apply State.bump_only | apply State.rankFault_only | apply State.setChan_only | apply ite_only

theorem State.integrity_only {s0 : State} {pl : List Part} {s : State} (n addr : Nat) (vat : Option Nat) (hl : [.regs, .ctrs, .mgt, .logs, .irq] ⊆ pl) (hs0 : only pl s0 s) : only pl s0 (State.integrity s n addr vat) := by
  unfold State.integrity
  repeat' with_reducible first | assumption | exact parts_sub (by with_unfolding_all decide) hl | apply State.ddrPulse_only | apply State.raiseAt_only

theorem State.freeLineWord_only {s0 : State} {pl : List Part} {s : State} (hl : [.freeCtr] ⊆ pl) (hs0 : only pl s0 s) : only pl s0 (State.freeLineWord s).1 := by
  unfold State.freeLineWord
  repeat' with_reducible first | assumption | exact parts_sub (by with_unfolding_all decide) hl | apply State.fresh_only | dsimp only | intro _ _ _ _ | intro _ _ _ | intro _ _

theorem State.senseLine_only {s0 : State} {pl : List Part} {s : State} (l : DLine) (addr : Nat) (x : Sense) (hl : [.freeCtr] ⊆ pl) (hs0 : only pl s0 s) : only pl s0 (State.senseLine s l addr x).1 := by
  unfold State.senseLine
  repeat' with_reducible first | assumption | exact parts_sub (by with_unfolding_all decide) hl | apply State.freeLineWord_only | refine foldl_only _ _ (fun _ _ _ => ?_) ?_ | refine foldl_only1 _ _ (fun _ _ _ => ?_) ?_ | refine foldl_only2 _ _ (fun _ _ _ => ?_) ?_ | refine foldl_only22 _ _ (fun _ _ _ => ?_) ?_ | refine foldl_only21 _ _ (fun _ _ _ => ?_) ?_ | apply ite_only | apply ite_only1 | apply ite_only2 | apply ite_only22 | apply ite_only21 | dsimp only | intro _ _ _ _ | intro _ _ _ | intro _ _ | split | (apply only.lit <;> first | exact Or.inr rfl | exact Or.inl (parts_mem hl (by with_unfolding_all decide)) | skip) | refine only.eq2 (by assumption) ?_ | refine only.eq22 (by assumption) ?_ | refine only.eq1 (by assumption) ?_

theorem State.readEffects_only {s0 : State} {pl : List Part} {s : State} (n line : Nat) (f : Found) (vat : Option Nat) (psnCounts : Bool) (hl : [.regs, .ctrs, .mgt, .logs, .irq, .dram] ⊆ pl) (hs0 : only pl s0 s) : only pl s0 (State.readEffects s n line f vat psnCounts) := by
  unfold State.readEffects
  repeat' with_reducible first | assumption | exact parts_sub (by with_unfolding_all decide) hl | apply State.bump_only | apply State.corrected_only | apply State.integrity_only | apply State.rankFault_only | apply ite_only

theorem State.queueBack_only {s0 : State} {pl : List Part} {s : State} (n line : Nat) (data : BitVec 512) (hl : [.regs, .dram] ⊆ pl) (hs0 : only pl s0 s) : only pl s0 (State.queueBack s n line data) := by
  unfold State.queueBack
  repeat' with_reducible first | assumption | exact parts_sub (by with_unfolding_all decide) hl | apply State.setChan_only | apply State.wr_only | apply ite_only | apply ite_only1 | apply ite_only2 | apply ite_only22 | apply ite_only21 | dsimp only | intro _ _ _ _ | intro _ _ _ | intro _ _ | (apply only.lit <;> first | exact Or.inr rfl | exact Or.inl (parts_mem hl (by with_unfolding_all decide)) | skip)

theorem State.readLine_only {s0 : State} {pl : List Part} {s : State} (n line : Nat) (x : Sense) (vat : Option Nat) (hl : [.regs, .ctrs, .freeCtr, .mgt, .logs, .irq, .dram] ⊆ pl) (hs0 : only pl s0 s) : only pl s0 (State.readLine s n line x vat).1 := by
  unfold State.readLine
  repeat' with_reducible first | assumption | exact parts_sub (by with_unfolding_all decide) hl | apply State.bump_only | apply State.queueBack_only | apply State.readEffects_only | apply State.senseLine_only | apply State.storeLine_only | apply ite_only | apply ite_only1 | apply ite_only2 | apply ite_only22 | apply ite_only21 | dsimp only

theorem State.fillBars_only {s0 : State} {pl : List Part} {s : State} (n : Nat) (q : DReq) (hl : [.regs, .freeCtr, .dram] ⊆ pl) (hs0 : only pl s0 s) : only pl s0 (State.fillBars s n q).1 := by
  unfold State.fillBars
  repeat' with_reducible first | assumption | exact parts_sub (by with_unfolding_all decide) hl | apply State.fresh_only | apply State.setChan_only | apply State.wr_only | apply ite_only | apply ite_only1 | apply ite_only2 | apply ite_only22 | apply ite_only21 | dsimp only | (apply only.lit <;> first | exact Or.inr rfl | exact Or.inl (parts_mem hl (by with_unfolding_all decide)) | skip)

theorem State.answerDram_only {s0 : State} {pl : List Part} {s : State} (n : Nat) (q : DReq) (st : Status) (data : BitVec 512) (hl : [.noc, .span] ⊆ pl) (hs0 : only pl s0 s) : only pl s0 (State.answerDram s n q st data) := by
  unfold State.answerDram
  repeat' with_reducible first | assumption | exact parts_sub (by with_unfolding_all decide) hl | apply State.respond_only | split

theorem execDramAdmit_only {s0 : State} {pl : List Part} (n : Fin 8) {s : State} (hl : [.regs, .ctrs, .freeCtr, .mgt, .logs, .noc, .span, .dram] ⊆ pl) (hs0 : only pl s0 s) : OnlyR pl s0 (execDramAdmit n s) := by
  unfold execDramAdmit
  repeat' with_reducible first | assumption | exact parts_sub (by with_unfolding_all decide) hl | exact only.refl _ _ | apply OnlyR.next | apply ite_onlyR | apply State.answerDram_only | apply State.bump_only | apply State.fillBars_only | apply State.setChan_only | apply State.wr_only | apply ite_only | apply ite_only1 | apply ite_only2 | apply ite_only22 | apply ite_only21 | dsimp only | split | (apply only.lit <;> first | exact Or.inr rfl | exact Or.inl (parts_mem hl (by with_unfolding_all decide)) | skip) | refine only.eq2 (by assumption) ?_ | refine only.eq22 (by assumption) ?_ | refine only.eq1 (by assumption) ?_

theorem State.takeReq_only {s0 : State} {pl : List Part} {s : State} (n k : Nat) (q : DReq) (hl : [.regs, .dram] ⊆ pl) (hs0 : only pl s0 s) : only pl s0 (State.takeReq s n k q) := by
  unfold State.takeReq
  repeat' with_reducible first | assumption | exact parts_sub (by with_unfolding_all decide) hl | apply State.setChan_only | apply State.wr_only | dsimp only | intro _ _ _ _ | intro _ _ _ | intro _ _ | (apply only.lit <;> first | exact Or.inr rfl | exact Or.inl (parts_mem hl (by with_unfolding_all decide)) | skip)

theorem execDramRead_only {s0 : State} {pl : List Part} (n : Fin 8) (sub : Fin 2) (x : Sense) {s : State} (hl : [.regs, .ctrs, .freeCtr, .mgt, .logs, .irq, .noc, .span, .dram] ⊆ pl) (hs0 : only pl s0 s) : OnlyR pl s0 (execDramRead n sub x s) := by
  unfold execDramRead
  repeat' with_reducible first | assumption | exact parts_sub (by with_unfolding_all decide) hl | exact only.refl _ _ | apply OnlyR.next | apply ite_onlyR | apply State.answerDram_only | apply State.bump_only | apply State.fillBars_only | apply State.readLine_only | apply State.takeReq_only | apply State.wr_only | apply ite_only | apply ite_only1 | apply ite_only2 | apply ite_only22 | apply ite_only21 | dsimp only | split | (apply only.lit <;> first | exact Or.inr rfl | exact Or.inl (parts_mem hl (by with_unfolding_all decide)) | skip) | refine only.eq2 (by assumption) ?_ | refine only.eq22 (by assumption) ?_ | refine only.eq1 (by assumption) ?_

theorem execDramWholeWrite_only {s0 : State} {pl : List Part} (n : Fin 8) (sub : Fin 2) {s : State} (hl : [.regs, .ctrs, .mgt, .logs, .dram] ⊆ pl) (hs0 : only pl s0 s) : OnlyR pl s0 (execDramWholeWrite n sub s) := by
  unfold execDramWholeWrite
  repeat' with_reducible first | assumption | exact parts_sub (by with_unfolding_all decide) hl | exact only.refl _ _ | apply OnlyR.next | apply ite_onlyR | apply State.bump_only | apply State.storeLine_only | apply State.takeReq_only | apply State.wr_only | apply ite_only | apply ite_only1 | apply ite_only2 | apply ite_only22 | apply ite_only21 | dsimp only | split | (apply only.lit <;> first | exact Or.inr rfl | exact Or.inl (parts_mem hl (by with_unfolding_all decide)) | skip) | refine only.eq2 (by assumption) ?_ | refine only.eq22 (by assumption) ?_ | refine only.eq1 (by assumption) ?_

theorem execDramPartialWrite_only {s0 : State} {pl : List Part} (n : Fin 8) (sub : Fin 2) (x : Sense) {s : State} (hl : [.regs, .ctrs, .freeCtr, .mgt, .logs, .irq, .noc, .span, .dram] ⊆ pl) (hs0 : only pl s0 s) : OnlyR pl s0 (execDramPartialWrite n sub x s) := by
  unfold execDramPartialWrite
  repeat' with_reducible first | assumption | exact parts_sub (by with_unfolding_all decide) hl | exact only.refl _ _ | apply OnlyR.next | apply ite_onlyR | apply State.answerDram_only | apply State.bump_only | apply State.fillBars_only | apply State.readEffects_only | apply State.senseLine_only | apply State.storeLine_only | apply State.takeReq_only | apply State.wr_only | apply ite_only | apply ite_only1 | apply ite_only2 | apply ite_only22 | apply ite_only21 | dsimp only | split | (apply only.lit <;> first | exact Or.inr rfl | exact Or.inl (parts_mem hl (by with_unfolding_all decide)) | skip) | refine only.eq2 (by assumption) ?_ | refine only.eq22 (by assumption) ?_ | refine only.eq1 (by assumption) ?_

theorem State.showPend_only {s0 : State} {pl : List Part} {s : State} (n : Nat) (hl : [.regs] ⊆ pl) (hs0 : only pl s0 s) : only pl s0 (State.showPend s n) := by
  unfold State.showPend
  repeat' with_reducible first | assumption | exact parts_sub (by with_unfolding_all decide) hl | apply State.wr_only

theorem State.refreshed_only {s0 : State} {pl : List Part} {s : State} (n sub rank : Nat) (hl : [.dram] ⊆ pl) (hs0 : only pl s0 s) : only pl s0 (State.refreshed s n sub rank) := by
  unfold State.refreshed
  repeat' with_reducible first | assumption | exact parts_sub (by with_unfolding_all decide) hl | apply State.setChan_only | apply ite_only

theorem execRefreshDue_only {s0 : State} {pl : List Part} (n : Fin 8) (sub : Fin 2) (rank : Fin 4) {s : State} (hl : [.regs, .ctrs, .mgt, .logs, .dram] ⊆ pl) (hs0 : only pl s0 s) : OnlyR pl s0 (execRefreshDue n sub rank s) := by
  unfold execRefreshDue
  repeat' with_reducible first | assumption | exact parts_sub (by with_unfolding_all decide) hl | exact only.refl _ _ | apply OnlyR.next | apply ite_onlyR | apply State.bump_only | apply State.refreshed_only | apply State.setChan_only | apply State.showPend_only

theorem execTemperaturePoll_only {s0 : State} {pl : List Part} (n : Fin 8) (hot : Fin 16) {s : State} (hl : [.regs, .ctrs, .mgt, .logs, .irq] ⊆ pl) (hs0 : only pl s0 s) : OnlyR pl s0 (execTemperaturePoll n hot s) := by
  unfold execTemperaturePoll
  repeat' with_reducible first | assumption | exact parts_sub (by with_unfolding_all decide) hl | exact only.refl _ _ | apply OnlyR.next | apply ite_onlyR | apply State.raiseDev_only | apply State.srcSet_only | apply State.wrb_only | apply ite_only

theorem execNeighbourRefresh_only {s0 : State} {pl : List Part} (n : Fin 8) (bank : Fin 256) (row : Nat) {s : State} (hl : [.ctrs, .mgt, .logs] ⊆ pl) (hs0 : only pl s0 s) : OnlyR pl s0 (execNeighbourRefresh n bank row s) := by
  unfold execNeighbourRefresh
  repeat' with_reducible first | assumption | exact parts_sub (by with_unfolding_all decide) hl | exact only.refl _ _ | apply OnlyR.next | apply ite_onlyR | apply State.bump_only

theorem execReadTimingTracking_only {s0 : State} {pl : List Part} (n : Fin 8) (sub : Fin 2) {s : State} (hl : [.dram] ⊆ pl) (hs0 : only pl s0 s) : OnlyR pl s0 (execReadTimingTracking n sub s) := by
  unfold execReadTimingTracking
  repeat' with_reducible first | assumption | exact parts_sub (by with_unfolding_all decide) hl | exact only.refl _ _ | apply OnlyR.next | apply ite_onlyR | apply State.setChan_only

theorem execRowIdleClose_only {s0 : State} {pl : List Part} (n : Fin 8) (bank : Fin 256) {s : State} (hl : [.dram] ⊆ pl) (hs0 : only pl s0 s) : OnlyR pl s0 (execRowIdleClose n bank s) := by
  unfold execRowIdleClose
  repeat' with_reducible first | assumption | exact parts_sub (by with_unfolding_all decide) hl | exact only.refl _ _ | apply OnlyR.next | apply ite_onlyR | apply State.setChan_only

theorem State.geomWrite_only {s0 : State} {pl : List Part} {s : State} (w : Word) (hl : [.regs] ⊆ pl) (hs0 : only pl s0 s) : OnlyO pl s0 (State.geomWrite s w) := by
  unfold State.geomWrite
  repeat' with_reducible first | assumption | exact parts_sub (by with_unfolding_all decide) hl | exact OnlyO.none | apply OnlyO.some | apply ite_onlyO | apply State.setChState_only | apply State.setReg_only | apply State.wr_only | refine foldl_only _ _ (fun _ _ _ => ?_) ?_ | refine foldl_only1 _ _ (fun _ _ _ => ?_) ?_ | refine foldl_only2 _ _ (fun _ _ _ => ?_) ?_ | refine foldl_only22 _ _ (fun _ _ _ => ?_) ?_ | refine foldl_only21 _ _ (fun _ _ _ => ?_) ?_ | apply ite_only

theorem State.chInit_only {s0 : State} {pl : List Part} {s : State} (n : Nat) (hl : [.regs, .dram] ⊆ pl) (hs0 : only pl s0 s) : only pl s0 (State.chInit s n) := by
  unfold State.chInit
  repeat' with_reducible first | assumption | exact parts_sub (by with_unfolding_all decide) hl | apply State.setChState_only | apply State.setChan_only | apply State.wr_only

theorem State.srEnter_only {s0 : State} {pl : List Part} {s : State} (n : Nat) (hl : [.dram] ⊆ pl) (hs0 : only pl s0 s) : only pl s0 (State.srEnter s n) := by
  unfold State.srEnter
  repeat' with_reducible first | assumption | exact parts_sub (by with_unfolding_all decide) hl | apply State.setChan_only | apply ite_only

theorem State.srLeave_only {s0 : State} {pl : List Part} {s : State} (n : Nat) (hl : [.regs, .dram] ⊆ pl) (hs0 : only pl s0 s) : only pl s0 (State.srLeave s n) := by
  unfold State.srLeave
  repeat' with_reducible first | assumption | exact parts_sub (by with_unfolding_all decide) hl | apply State.setChState_only | apply State.setChan_only | apply ite_only

theorem State.chCtlWrite_only {s0 : State} {pl : List Part} {s : State} (n : Nat) (w : Word) (hl : [.regs, .dram] ⊆ pl) (hs0 : only pl s0 s) : OnlyO pl s0 (State.chCtlWrite s n w) := by
  unfold State.chCtlWrite
  repeat' with_reducible first | assumption | exact parts_sub (by with_unfolding_all decide) hl | exact OnlyO.none | apply OnlyO.some | apply ite_onlyO | apply State.chInit_only | apply State.migStart_only | apply State.setChState_only | apply State.setChan_only | apply State.setReg_only | apply State.srEnter_only | apply State.srLeave_only | apply State.wr_only | apply ite_only | apply ite_only1 | apply ite_only2 | apply ite_only22 | apply ite_only21 | dsimp only | (apply only.lit <;> first | exact Or.inr rfl | exact Or.inl (parts_mem hl (by with_unfolding_all decide)) | skip)

theorem State.ddrRefWrite_only {s0 : State} {pl : List Part} {s : State} (n : Nat) (w : Word) (hl : [.regs] ⊆ pl) (hs0 : only pl s0 s) : OnlyO pl s0 (State.ddrRefWrite s n w) := by
  unfold State.ddrRefWrite
  repeat' with_reducible first | assumption | exact parts_sub (by with_unfolding_all decide) hl | exact OnlyO.none | apply OnlyO.some | apply ite_onlyO | apply State.wr_only

theorem State.spareWrite_only {s0 : State} {pl : List Part} {s : State} (n : Nat) (w : Word) (hl : [.regs] ⊆ pl) (hs0 : only pl s0 s) : OnlyO pl s0 (State.spareWrite s n w) := by
  unfold State.spareWrite
  repeat' with_reducible first | assumption | exact parts_sub (by with_unfolding_all decide) hl | exact OnlyO.none | apply OnlyO.some | apply ite_onlyO | apply State.wr_only | apply ite_only

theorem State.chPlainWrite_only {s0 : State} {pl : List Part} {s : State} (n off mask : Nat) (w : Word) (hl : [.regs] ⊆ pl) (hs0 : only pl s0 s) : OnlyO pl s0 (State.chPlainWrite s n off mask w) := by
  unfold State.chPlainWrite
  repeat' with_reducible first | assumption | exact parts_sub (by with_unfolding_all decide) hl | exact OnlyO.none | apply OnlyO.some | apply ite_onlyO | apply State.setReg_only

theorem execChannelInitDone_only {s0 : State} {pl : List Part} (n : Fin 8) (failed : Fin 16) (drfm : Bool) {s : State} (hl : [.regs, .ctrs, .mgt, .logs, .irq, .dram] ⊆ pl) (hs0 : only pl s0 s) : OnlyR pl s0 (execChannelInitDone n failed drfm s) := by
  unfold execChannelInitDone
  repeat' with_reducible first | assumption | exact parts_sub (by with_unfolding_all decide) hl | exact only.refl _ _ | apply OnlyR.next | apply ite_onlyR | apply State.ddrPulse_only | apply State.raiseDev_only | apply State.setChState_only | apply State.setChan_only | apply State.showPend_only | apply State.wr_only | apply State.wrb_only | apply ite_only

theorem execRankFillDone_only {s0 : State} {pl : List Part} (n : Fin 8) (r : Fin 4) {s : State} (hl : [.regs, .dram] ⊆ pl) (hs0 : only pl s0 s) : OnlyR pl s0 (execRankFillDone n r s) := by
  unfold execRankFillDone
  repeat' with_reducible first | assumption | exact parts_sub (by with_unfolding_all decide) hl | exact only.refl _ _ | apply OnlyR.next | apply ite_onlyR | apply State.setChState_only | apply State.setChan_only | apply State.wrm_only

theorem execMigrationCopy_only {s0 : State} {pl : List Part} (n : Fin 8) (count : Nat) (x : Sense) {s : State}
    (hl : [.regs, .ctrs, .freeCtr, .mgt, .logs, .irq, .dram] ⊆ pl) (hs0 : only pl s0 s) : OnlyR pl s0 (execMigrationCopy n count x s) := by
  unfold execMigrationCopy
  refine ite_onlyR (OnlyR.next hs0) ?_
  dsimp only
  have k0 := State.senseLine_only (pl := pl) ((s.chan n.val).line (s.rd (DDR.SPARE.SRC n.val)) (s.rd (DDR.MIG_PTR.LINES n.val) + count))
    (s.addrOfLine n.val (s.rd (DDR.SPARE.SRC n.val) * 2 ^ 30 + (s.rd (DDR.MIG_PTR.LINES n.val) + count))) x (parts_sub (by decide) hl) hs0
  generalize s.senseLine _ _ x = r at k0 ⊢
  have k1 := State.setChan_only (pl := pl) n.val ((r.1.chan n.val).copyRange (s.rd (DDR.SPARE.SRC n.val)) (s.rd (DDR.SPARE.SPR n.val))
    (s.rd (DDR.MIG_PTR.LINES n.val)) (count + 1)) (parts_sub (by decide) hl) k0
  generalize r.1.setChan n.val _ = u at k1 ⊢
  have k2 := ite_only (c := r.2.codeBad = true) (State.setChan_only n.val ((u.chan n.val).setLine (s.rd (DDR.SPARE.SPR n.val))
    (s.rd (DDR.MIG_PTR.LINES n.val) + count) ⟨r.2.data, true, u.dram.draw⟩) (parts_sub (by decide) hl) k1) k1
  generalize (if r.2.codeBad = true then u.setChan n.val _ else u) = w at k2 ⊢
  have k3 := State.wr_only (DDR.MIG_PTR.LINES n.val) (s.rd (DDR.MIG_PTR.LINES n.val) + count + 1) (parts_sub (by decide) hl) k2
  exact ite_onlyR (OnlyR.next k3) (ite_onlyR (OnlyR.next (State.rankFault_only _ _ _ (parts_sub (by decide) hl) (State.bump_only _ _ (parts_sub (by decide) hl) k3)))
    (ite_onlyR (OnlyR.next (State.corrected_only _ _ _ (parts_sub (by decide) hl) k3)) (OnlyR.next k3)))

theorem execMigrationDone_only {s0 : State} {pl : List Part} (n : Fin 8) {s : State} (hl : [.regs, .ctrs, .mgt, .logs, .irq] ⊆ pl) (hs0 : only pl s0 s) : OnlyR pl s0 (execMigrationDone n s) := by
  unfold execMigrationDone
  repeat' with_reducible first | assumption | exact parts_sub (by with_unfolding_all decide) hl | exact only.refl _ _ | apply OnlyR.next | apply ite_onlyR | apply State.ddrPulse_only | apply State.raiseDev_only | apply State.wr_only | apply ite_only | apply ite_only1 | apply ite_only2 | apply ite_only22 | apply ite_only21 | dsimp only

theorem execPatrolRead_only {s0 : State} {pl : List Part} (n : Fin 8) (rank : Fin 4) (i : Fin (2 ^ 29)) (x : Sense) {s : State} (hl : [.regs, .ctrs, .freeCtr, .mgt, .logs, .irq, .dram] ⊆ pl) (hs0 : only pl s0 s) : OnlyR pl s0 (execPatrolRead n rank i x s) := by
  unfold execPatrolRead
  repeat' with_reducible first | assumption | exact parts_sub (by with_unfolding_all decide) hl | exact only.refl _ _ | apply OnlyR.next | apply ite_onlyR | apply State.readLine_only | apply ite_only | apply ite_only1 | apply ite_only2 | apply ite_only22 | apply ite_only21 | dsimp only | intro _ _ _ _ | intro _ _ _ | intro _ _

theorem State.coastFall_only {s0 : State} {pl : List Part} {s : State} (hl : [.regs, .clk] ⊆ pl) (hs0 : only pl s0 s) : only pl s0 (State.coastFall s) := by
  unfold State.coastFall
  repeat' with_reducible first | assumption | exact parts_sub (by with_unfolding_all decide) hl | apply State.wrb_only | apply ite_only | apply ite_only1 | apply ite_only2 | apply ite_only22 | apply ite_only21 | intro _ _ _ _ | intro _ _ _ | intro _ _ | (apply only.lit <;> first | exact Or.inr rfl | exact Or.inl (parts_mem hl (by with_unfolding_all decide)) | skip)

theorem execSelfRefreshReached_only {s0 : State} {pl : List Part} (n : Fin 8) {s : State} (hl : [.regs, .clk, .dram] ⊆ pl) (hs0 : only pl s0 s) : OnlyR pl s0 (execSelfRefreshReached n s) := by
  unfold execSelfRefreshReached
  repeat' with_reducible first | assumption | exact parts_sub (by with_unfolding_all decide) hl | exact only.refl _ _ | apply OnlyR.next | apply ite_onlyR | apply State.coastFall_only | apply State.setChState_only | apply State.setChan_only | apply State.srLeave_only

theorem execChannelReady_only {s0 : State} {pl : List Part} (n : Fin 8) {s : State} (hl : [.regs, .dram] ⊆ pl) (hs0 : only pl s0 s) : OnlyR pl s0 (execChannelReady n s) := by
  unfold execChannelReady
  repeat' with_reducible first | assumption | exact parts_sub (by with_unfolding_all decide) hl | exact only.refl _ _ | apply OnlyR.next | apply ite_onlyR | apply State.setChState_only | apply State.setChan_only | apply State.showPend_only

theorem State.dramCoast_only {s0 : State} {pl : List Part} {s : State} (hl : [.dram] ⊆ pl) (hs0 : only pl s0 s) : only pl s0 (State.dramCoast s) := by
  unfold State.dramCoast
  repeat' with_reducible first | assumption | exact parts_sub (by with_unfolding_all decide) hl | apply State.setChan_only | apply State.srEnter_only | refine foldl_only _ _ (fun _ _ _ => ?_) ?_

theorem State.dramRelock_only {s0 : State} {pl : List Part} {s : State} (hl : [.regs, .dram] ⊆ pl) (hs0 : only pl s0 s) : only pl s0 (State.dramRelock s) := by
  unfold State.dramRelock
  repeat' with_reducible first | assumption | exact parts_sub (by with_unfolding_all decide) hl | apply State.srLeave_only | refine foldl_only _ _ (fun _ _ _ => ?_) ?_

theorem State.drawKeys_only {s0 : State} {pl : List Part} {s : State} (hl : [.regs, .dram] ⊆ pl) (hs0 : only pl s0 s) : only pl s0 (State.drawKeys s) := by
  unfold State.drawKeys
  repeat' with_reducible first | assumption | exact parts_sub (by with_unfolding_all decide) hl | apply State.setChan_only | apply State.wr_only | apply State.wrb_only | refine foldl_only _ _ (fun _ _ _ => ?_) ?_ | refine foldl_only1 _ _ (fun _ _ _ => ?_) ?_ | refine foldl_only2 _ _ (fun _ _ _ => ?_) ?_ | refine foldl_only22 _ _ (fun _ _ _ => ?_) ?_ | refine foldl_only21 _ _ (fun _ _ _ => ?_) ?_ | dsimp only | intro _ _ _ _ | intro _ _ _ | intro _ _ | (apply only.lit <;> first | exact Or.inr rfl | exact Or.inl (parts_mem hl (by with_unfolding_all decide)) | skip)

theorem State.dramWarm_only {s0 : State} {pl : List Part} {s : State} (hl : [.regs, .dram] ⊆ pl) (hs0 : only pl s0 s) : only pl s0 (State.dramWarm s) := by
  unfold State.dramWarm
  repeat' with_reducible first | assumption | exact parts_sub (by with_unfolding_all decide) hl | apply State.setChState_only | apply State.setChan_only | apply State.wrb_only | refine foldl_only _ _ (fun _ _ _ => ?_) ?_ | refine foldl_only1 _ _ (fun _ _ _ => ?_) ?_ | refine foldl_only2 _ _ (fun _ _ _ => ?_) ?_ | refine foldl_only22 _ _ (fun _ _ _ => ?_) ?_ | refine foldl_only21 _ _ (fun _ _ _ => ?_) ?_ | apply ite_only

end Sys2Proof.Machine
end

