-- ==== Sys2Proof/Laws/Frame/Frames.lean ====
section
/-! SUPPORT. The frames of Machine/Frames.lean: which parts of the state each operation and each command may change. -/

namespace Sys2Proof.Machine

theorem State.setLive_only {s0 : State} {pl : List Part} {s : State} (n : Nat) (f : Frame) (hl : [.cfg] ⊆ pl) (hs0 : only pl s0 s) : only pl s0 (State.setLive s n f) := by
  unfold State.setLive
  repeat' with_reducible first | assumption | exact parts_sub (by with_unfolding_all decide) hl | (apply only.lit <;> first | exact Or.inr rfl | exact Or.inl (parts_mem hl (by with_unfolding_all decide)) | skip)

theorem State.setPlane_only {s0 : State} {pl : List Part} {s : State} (p : Bool) (n : Nat) (f : Frame) (hl : [.cfg] ⊆ pl) (hs0 : only pl s0 s) : only pl s0 (State.setPlane s p n f) := by
  unfold State.setPlane
  repeat' with_reducible first | assumption | exact parts_sub (by with_unfolding_all decide) hl | apply ite_only | apply ite_only1 | apply ite_only2 | apply ite_only22 | apply ite_only21 | (apply only.lit <;> first | exact Or.inr rfl | exact Or.inl (parts_mem hl (by with_unfolding_all decide)) | skip)

end Sys2Proof.Machine
end

