-- ==== Sys2Proof/Laws/Frame/Hio.lean ====
section
/-! SUPPORT. The frames of Machine/Hio.lean: which parts of the state each operation and each command may change. -/

namespace Sys2Proof.Machine


theorem State.setHio_only {s0 : State} {pl : List Part} {s : State} (b : Nat) (x : HioBank) (hl : [.pins] ⊆ pl) (hs0 : only pl s0 s) : only pl s0 (State.setHio s b x) := by
  unfold State.setHio
  repeat' with_reducible first | assumption | exact parts_sub (by with_unfolding_all decide) hl | (apply only.lit <;> first | exact Or.inr rfl | exact Or.inl (parts_mem hl (by with_unfolding_all decide)) | skip)

theorem State.hioOff_only {s0 : State} {pl : List Part} {s : State} (b : Nat) (written : Bool) (hl : [.ctrs, .mgt, .logs, .pins] ⊆ pl) (hs0 : only pl s0 s) : only pl s0 (State.hioOff s b written) := by
  unfold State.hioOff
  repeat' with_reducible first | assumption | exact parts_sub (by with_unfolding_all decide) hl | apply State.raiseAt_only | apply State.setHio_only | apply ite_only

theorem State.hioRange_only {s0 : State} {pl : List Part} {s : State} (b code : Nat) (hl : [.regs, .ctrs, .mgt, .logs, .pins] ⊆ pl) (hs0 : only pl s0 s) : only pl s0 (State.hioRange s b code) := by
  unfold State.hioRange
  repeat' with_reducible first | assumption | exact parts_sub (by with_unfolding_all decide) hl | apply State.hioOff_only | apply State.setHio_only | apply State.wr_only | apply ite_only

theorem execHioSupplyOutOfWindow_only {s0 : State} {pl : List Part} (b : Fin 12) (mv : Fin 4096) {s : State} (hl : [.ctrs, .mgt, .logs, .pins] ⊆ pl) (hs0 : only pl s0 s) : OnlyR pl s0 (execHioSupplyOutOfWindow b mv s) := by
  unfold execHioSupplyOutOfWindow
  repeat' with_reducible first | assumption | exact parts_sub (by with_unfolding_all decide) hl | exact only.refl _ _ | apply OnlyR.next | apply ite_onlyR | apply State.hioOff_only | apply State.setHio_only

theorem execHioOutputsReturn_only {s0 : State} {pl : List Part} (b : Fin 12) (mv : Fin 4096) {s : State} (hl : [.pins] ⊆ pl) (hs0 : only pl s0 s) : OnlyR pl s0 (execHioOutputsReturn b mv s) := by
  unfold execHioOutputsReturn
  repeat' with_reducible first | assumption | exact parts_sub (by with_unfolding_all decide) hl | exact only.refl _ _ | apply OnlyR.next | apply ite_onlyR | apply State.setHio_only

theorem execStrapChange_only {s0 : State} {pl : List Part} (b : Fin 12) (p : Fin 3) {s : State} (hl : [.pins] ⊆ pl) (hs0 : only pl s0 s) : OnlyR pl s0 (execStrapChange b p s) := by
  unfold execStrapChange
  repeat' with_reducible first | assumption | exact parts_sub (by with_unfolding_all decide) hl | exact only.refl _ _ | apply OnlyR.next | apply ite_onlyR | (apply only.lit <;> first | exact Or.inr rfl | exact Or.inl (parts_mem hl (by with_unfolding_all decide)) | skip)

theorem State.holdPins_only {s0 : State} {pl : List Part} {s : State} (hl : [.freeCtr, .pins] ⊆ pl) (hs0 : only pl s0 s) : only pl s0 (State.holdPins s) := by
  unfold State.holdPins
  repeat' with_reducible first | assumption | exact parts_sub (by with_unfolding_all decide) hl | (apply only.lit <;> first | exact Or.inr rfl | exact Or.inl (parts_mem hl (by with_unfolding_all decide)) | skip)

theorem State.clampPins_only {s0 : State} {pl : List Part} {s : State} (v : Nat) (hl : [.freeCtr, .pins] ⊆ pl) (hs0 : only pl s0 s) : only pl s0 (State.clampPins s v) := by
  unfold State.clampPins
  repeat' with_reducible first | assumption | exact parts_sub (by with_unfolding_all decide) hl | (apply only.lit <;> first | exact Or.inr rfl | exact Or.inl (parts_mem hl (by with_unfolding_all decide)) | skip)

theorem State.setErrN_only {s0 : State} {pl : List Part} {s : State} (b : Bool) (hl : [.pins] ⊆ pl) (hs0 : only pl s0 s) : only pl s0 (State.setErrN s b) := by
  unfold State.setErrN
  repeat' with_reducible first | assumption | exact parts_sub (by with_unfolding_all decide) hl | (apply only.lit <;> first | exact Or.inr rfl | exact Or.inl (parts_mem hl (by with_unfolding_all decide)) | skip)

theorem State.setTap_only {s0 : State} {pl : List Part} {s : State} (t : TapSt) (hl : [.pins] ⊆ pl) (hs0 : only pl s0 s) : only pl s0 (State.setTap s t) := by
  unfold State.setTap
  repeat' with_reducible first | assumption | exact parts_sub (by with_unfolding_all decide) hl | apply ite_only | apply ite_only1 | apply ite_only2 | apply ite_only22 | apply ite_only21 | (apply only.lit <;> first | exact Or.inr rfl | exact Or.inl (parts_mem hl (by with_unfolding_all decide)) | skip)

theorem execTapReset_only {s0 : State} {pl : List Part} {s : State} (hl : [.pins] ⊆ pl) (hs0 : only pl s0 s) : OnlyR pl s0 (execTapReset s) := by
  unfold execTapReset
  repeat' with_reducible first | assumption | exact parts_sub (by with_unfolding_all decide) hl | exact only.refl _ _ | apply OnlyR.next | apply ite_onlyR | apply State.setTap_only

theorem execExtest_only {s0 : State} {pl : List Part} (load : List (Fin 1974 × Bool)) {s : State} (hl : [.pins] ⊆ pl) (hs0 : only pl s0 s) : OnlyR pl s0 (execExtest load s) := by
  unfold execExtest
  repeat' with_reducible first | assumption | exact parts_sub (by with_unfolding_all decide) hl | exact only.refl _ _ | apply OnlyR.next | apply ite_onlyR | apply State.setTap_only

theorem execIdcode_only {s0 : State} {pl : List Part} {s : State} (hl : [.pins] ⊆ pl) (hs0 : only pl s0 s) : OnlyR pl s0 (execIdcode s) := by
  unfold execIdcode
  repeat' with_reducible first | assumption | exact parts_sub (by with_unfolding_all decide) hl | exact only.refl _ _ | apply OnlyR.next | apply ite_onlyR | apply State.setTap_only

theorem execSamplePreload_only {s0 : State} {pl : List Part} (load : List (Fin 1974 × Bool)) {s : State} (hl : [.freeCtr, .pins] ⊆ pl) (hs0 : only pl s0 s) : OnlyR pl s0 (execSamplePreload load s) := by
  unfold execSamplePreload
  repeat' with_reducible first | assumption | exact parts_sub (by with_unfolding_all decide) hl | exact only.refl _ _ | apply OnlyR.next | apply ite_onlyR | apply State.fresh_only | apply State.setTap_only

theorem execBypass_only {s0 : State} {pl : List Part} {s : State} (hl : [.pins] ⊆ pl) (hs0 : only pl s0 s) : OnlyR pl s0 (execBypass s) := by
  unfold execBypass
  repeat' with_reducible first | assumption | exact parts_sub (by with_unfolding_all decide) hl | exact only.refl _ _ | apply OnlyR.next | apply ite_onlyR | apply State.setTap_only

end Sys2Proof.Machine
end

