-- ==== Sys2Proof/Laws/Frame/Span.lean ====
section
/-! SUPPORT. The frames of Machine/Span.lean: which parts of the state each operation and each command may change. -/

namespace Sys2Proof.Machine


theorem State.spanPump_only {s0 : State} {pl : List Part} (x0 : Nat) (x1 : Nat) {s : State} (hl : [.ctrs, .mgt, .logs, .span] ⊆ pl) (hs0 : only pl s0 s) : only pl s0 (State.spanPump x0 x1 s) := by
  induction x0 generalizing x1 s with
  | zero =>
    unfold State.spanPump
    repeat' with_reducible first | assumption
  | succ x0 ih =>
    unfold State.spanPump
    repeat' with_reducible first | assumption | exact parts_sub (by with_unfolding_all decide) hl | apply ih | apply State.bump_only | apply State.setPort_only | apply ite_only | apply ite_only1 | apply ite_only2 | apply ite_only22 | apply ite_only21 | dsimp only | intro _ _ _ _ | intro _ _ _ | intro _ _ | split

theorem State.spanSend_only {s0 : State} {pl : List Part} {s : State} (k : Nat) (hl : [.ctrs, .mgt, .logs, .span] ⊆ pl) (hs0 : only pl s0 s) : only pl s0 (State.spanSend s k) := by
  unfold State.spanSend
  repeat' with_reducible first | assumption | exact parts_sub (by with_unfolding_all decide) hl | apply State.spanPump_only

theorem State.spanDown_only {s0 : State} {pl : List Part} {s : State} (k : Nat) (hl : [.regs, .ctrs, .mgt, .logs, .irq, .span] ⊆ pl) (hs0 : only pl s0 s) : only pl s0 (State.spanDown s k) := by
  unfold State.spanDown
  repeat' with_reducible first | assumption | exact parts_sub (by with_unfolding_all decide) hl | apply State.bump_only | apply State.raiseDev_only | apply State.setPort_only | apply State.srcPulse_only | apply State.wrb_only | apply ite_only | apply ite_only1 | apply ite_only2 | apply ite_only22 | apply ite_only21 | dsimp only

theorem State.spanAck_only {s0 : State} {pl : List Part} {s : State} (k : Nat) (ws : List Word) (hl : [.ctrs, .mgt, .logs, .span] ⊆ pl) (hs0 : only pl s0 s) : only pl s0 (State.spanAck s k ws) := by
  unfold State.spanAck
  repeat' with_reducible first | assumption | exact parts_sub (by with_unfolding_all decide) hl | apply State.setPort_only | apply State.spanSend_only

theorem execSpanInitFrame_only {s0 : State} {pl : List Part} (k : Fin 4) (ws : List Word) {s : State} (hl : [.regs, .ctrs, .mgt, .logs, .irq, .span] ⊆ pl) (hs0 : only pl s0 s) : OnlyR pl s0 (execSpanInitFrame k ws s) := by
  unfold execSpanInitFrame
  repeat' with_reducible first | assumption | exact parts_sub (by with_unfolding_all decide) hl | exact only.refl _ _ | apply OnlyR.next | apply ite_onlyR | apply State.bump_only | apply State.raiseDev_only | apply State.setPort_only | apply State.spanAck_only | apply State.srcPulse_only | apply State.wr_only | apply State.wrb_only | apply ite_only | apply ite_only1 | apply ite_only2 | apply ite_only22 | apply ite_only21 | dsimp only | (apply only.lit <;> first | exact Or.inr rfl | exact Or.inl (parts_mem hl (by with_unfolding_all decide)) | skip)

theorem execSpanCtrlFrame_only {s0 : State} {pl : List Part} (k : Fin 4) (ws : List Word) {s : State} (hl : [.ctrs, .mgt, .logs, .span] ⊆ pl) (hs0 : only pl s0 s) : OnlyR pl s0 (execSpanCtrlFrame k ws s) := by
  unfold execSpanCtrlFrame
  repeat' with_reducible first | assumption | exact parts_sub (by with_unfolding_all decide) hl | exact only.refl _ _ | apply OnlyR.next | apply ite_onlyR | apply State.bump_only | apply State.spanAck_only

theorem State.spanAccept_only {s0 : State} {pl : List Part} {s : State} (k vc : Nat) (hl : [.ctrs, .mgt, .logs, .span] ⊆ pl) (hs0 : only pl s0 s) : only pl s0 (State.spanAccept s k vc) := by
  unfold State.spanAccept
  repeat' with_reducible first | assumption | exact parts_sub (by with_unfolding_all decide) hl | apply State.bump_only | apply State.setPort_only | apply ite_only | apply ite_only1 | apply ite_only2 | apply ite_only22 | apply ite_only21 | dsimp only | intro _ _ _ _ | intro _ _ _ | intro _ _ | (apply only.lit <;> first | exact Or.inr rfl | exact Or.inl (parts_mem hl (by with_unfolding_all decide)) | skip)

theorem State.spanInject_only {s0 : State} {pl : List Part} {s : State} (k vat stamp : Nat) (f : Flit) (hl : [.noc, .span] ⊆ pl) (hs0 : only pl s0 s) : only pl s0 (State.spanInject s k vat stamp f) := by
  unfold State.spanInject
  repeat' with_reducible first | assumption | exact parts_sub (by with_unfolding_all decide) hl | apply State.enterMesh_only | (apply only.lit <;> first | exact Or.inr rfl | exact Or.inl (parts_mem hl (by with_unfolding_all decide)) | skip)

theorem State.spanAnswer_only {s0 : State} {pl : List Part} {s : State} (k : Nat) (f : Flit) (st : Status) (hl : [.noc, .span] ⊆ pl) (hs0 : only pl s0 s) : only pl s0 (State.spanAnswer s k f st) := by
  unfold State.spanAnswer
  repeat' with_reducible first | assumption | exact parts_sub (by with_unfolding_all decide) hl | apply State.respond_only | apply State.spanFree_only

theorem State.remoteRq_only {s0 : State} {pl : List Part} {s : State} (k : Nat) (f : Flit) (hl : [.ctrs, .mgt, .logs, .noc, .span] ⊆ pl) (hs0 : only pl s0 s) : only pl s0 (State.remoteRq s k f) := by
  unfold State.remoteRq
  repeat' with_reducible first | assumption | exact parts_sub (by with_unfolding_all decide) hl | apply State.offer_only | apply State.spanAnswer_only | apply ite_only | apply ite_only1 | apply ite_only2 | apply ite_only22 | apply ite_only21 | dsimp only | (apply only.lit <;> first | exact Or.inr rfl | exact Or.inl (parts_mem hl (by with_unfolding_all decide)) | skip)

theorem State.toGate_only {s0 : State} {pl : List Part} {s : State} (x : Moving × Option (Nat × Nat)) (hl : [.noc] ⊆ pl) (hs0 : only pl s0 s) : only pl s0 (State.toGate s x) := by
  unfold State.toGate
  repeat' with_reducible first | assumption | exact parts_sub (by with_unfolding_all decide) hl | (apply only.lit <;> first | exact Or.inr rfl | exact Or.inl (parts_mem hl (by with_unfolding_all decide)) | skip)

theorem State.spanFlit_only {s0 : State} {pl : List Part} {s : State} (k typ n : Nat) (ws : List Word) (stamp : Nat) (hl : [.ctrs, .mgt, .logs, .noc, .span] ⊆ pl) (hs0 : only pl s0 s) : only pl s0 (State.spanFlit s k typ n ws stamp) := by
  unfold State.spanFlit
  repeat' with_reducible first | assumption | exact parts_sub (by with_unfolding_all decide) hl | apply State.bump_only | apply State.remoteRq_only | apply State.setPort_only | apply State.spanAccept_only | apply State.spanAck_only | apply State.spanInject_only | apply State.toGate_only | apply ite_only | apply ite_only1 | apply ite_only2 | apply ite_only22 | apply ite_only21 | dsimp only | (apply only.lit <;> first | exact Or.inr rfl | exact Or.inl (parts_mem hl (by with_unfolding_all decide)) | skip)

theorem execSpanFlitFrame_only {s0 : State} {pl : List Part} (k : Fin 4) (ws : List Word) (stamp : Nat) {s : State} (hl : [.ctrs, .mgt, .logs, .noc, .span] ⊆ pl) (hs0 : only pl s0 s) : OnlyR pl s0 (execSpanFlitFrame k ws stamp s) := by
  unfold execSpanFlitFrame
  repeat' with_reducible first | assumption | exact parts_sub (by with_unfolding_all decide) hl | exact only.refl _ _ | apply OnlyR.next | apply ite_onlyR | apply State.spanFlit_only

theorem execSpanFlitrFrame_only {s0 : State} {pl : List Part} (k : Fin 4) (ws : List Word) {s : State} (hl : [.ctrs, .mgt, .logs, .noc, .span] ⊆ pl) (hs0 : only pl s0 s) : OnlyR pl s0 (execSpanFlitrFrame k ws s) := by
  unfold execSpanFlitrFrame
  repeat' with_reducible first | assumption | exact parts_sub (by with_unfolding_all decide) hl | exact only.refl _ _ | apply OnlyR.next | apply ite_onlyR | apply State.spanFlit_only

theorem execSpanAckTimer_only {s0 : State} {pl : List Part} (k : Fin 4) {s : State} (hl : [.span] ⊆ pl) (hs0 : only pl s0 s) : OnlyR pl s0 (execSpanAckTimer k s) := by
  unfold execSpanAckTimer
  repeat' with_reducible first | assumption | exact parts_sub (by with_unfolding_all decide) hl | exact only.refl _ _ | apply OnlyR.next | apply ite_onlyR | apply State.setPort_only

theorem execSpanReplayExpiry_only {s0 : State} {pl : List Part} (k : Fin 4) {s : State} (hl : [.regs, .ctrs, .mgt, .logs, .irq, .span] ⊆ pl) (hs0 : only pl s0 s) : OnlyR pl s0 (execSpanReplayExpiry k s) := by
  unfold execSpanReplayExpiry
  repeat' with_reducible first | assumption | exact parts_sub (by with_unfolding_all decide) hl | exact only.refl _ _ | apply OnlyR.next | apply ite_onlyR | apply State.bump_only | apply State.setPort_only | apply State.spanDown_only

theorem State.spanQueue_only {s0 : State} {pl : List Part} {s : State} (k : Nat) (f : Flit) (hops : Nat) (hl : [.ctrs, .mgt, .logs, .span] ⊆ pl) (hs0 : only pl s0 s) : only pl s0 (State.spanQueue s k f hops) := by
  unfold State.spanQueue
  repeat' with_reducible first | assumption | exact parts_sub (by with_unfolding_all decide) hl | apply State.bump_only | apply State.setPort_only | apply State.spanSend_only | apply ite_only

theorem execSpanGatewayFlit_only {s0 : State} {pl : List Part} {s : State} (hl : [.ctrs, .mgt, .logs, .noc, .span] ⊆ pl) (hs0 : only pl s0 s) : OnlyR pl s0 (execSpanGatewayFlit s) := by
  unfold execSpanGatewayFlit
  repeat' with_reducible first | assumption | exact parts_sub (by with_unfolding_all decide) hl | exact only.refl _ _ | apply OnlyR.next | apply ite_onlyR | apply State.bump_only | apply State.raiseDev_only | apply State.respond_only | apply State.spanFree_only | apply State.spanQueue_only | apply ite_only | apply ite_only1 | apply ite_only2 | apply ite_only22 | apply ite_only21 | dsimp only | split | (apply only.lit <;> first | exact Or.inr rfl | exact Or.inl (parts_mem hl (by with_unfolding_all decide)) | skip)

theorem State.spanEnable_only {s0 : State} {pl : List Part} {s : State} (k : Nat) (on : Bool) (hl : [.regs, .ctrs, .mgt, .logs, .irq, .span] ⊆ pl) (hs0 : only pl s0 s) : only pl s0 (State.spanEnable s k on) := by
  unfold State.spanEnable
  repeat' with_reducible first | assumption | exact parts_sub (by with_unfolding_all decide) hl | apply State.setPort_only | apply State.spanDown_only | apply ite_only | apply ite_only1 | apply ite_only2 | apply ite_only22 | apply ite_only21 | dsimp only

end Sys2Proof.Machine
end

