-- ==== Sys2Proof/Laws/Frame/Time.lean ====
section
/-! SUPPORT. The frames of Machine/Time.lean: which parts of the state each operation and each command may change. -/

namespace Sys2Proof.Machine


theorem State.setTb_only {s0 : State} {pl : List Part} {s : State} (b : Nat) (x : TbSt) (hl : [.time] ⊆ pl) (hs0 : only pl s0 s) : only pl s0 (State.setTb s b x) := by
  unfold State.setTb
  repeat' with_reducible first | assumption | exact parts_sub (by with_unfolding_all decide) hl | (apply only.lit <;> first | exact Or.inr rfl | exact Or.inl (parts_mem hl (by with_unfolding_all decide)) | skip)

theorem State.tbSync_only {s0 : State} {pl : List Part} {s : State} (b : Nat) (hl : [.regs] ⊆ pl) (hs0 : only pl s0 s) : only pl s0 (State.tbSync s b) := by
  unfold State.tbSync
  repeat' with_reducible first | assumption | exact parts_sub (by with_unfolding_all decide) hl | apply State.wr_only | apply State.wrb_only

theorem execTrefQualified_only {s0 : State} {pl : List Part} (ref : Bool) {s : State} (hl : [.regs] ⊆ pl) (hs0 : only pl s0 s) : OnlyR pl s0 (execTrefQualified ref s) := by
  unfold execTrefQualified
  repeat' with_reducible first | assumption | exact parts_sub (by with_unfolding_all decide) hl | exact only.refl _ _ | apply OnlyR.next | apply ite_onlyR | apply State.wrb_only | apply ite_only | apply ite_only1 | apply ite_only2 | apply ite_only22 | apply ite_only21

theorem execTrefLoss_only {s0 : State} {pl : List Part} (ref : Bool) {s : State} (hl : [.regs, .ctrs, .mgt, .logs] ⊆ pl) (hs0 : only pl s0 s) : OnlyR pl s0 (execTrefLoss ref s) := by
  unfold execTrefLoss
  repeat' with_reducible first | assumption | exact parts_sub (by with_unfolding_all decide) hl | exact only.refl _ _ | apply OnlyR.next | apply ite_onlyR | apply State.bump_only | apply State.raiseAt_only | apply State.wrb_only | apply ite_only | apply ite_only1 | apply ite_only2 | apply ite_only22 | apply ite_only21 | dsimp only

theorem execTclkLock_only {s0 : State} {pl : List Part} {s : State} (hl : [.regs, .time] ⊆ pl) (hs0 : only pl s0 s) : OnlyR pl s0 (execTclkLock s) := by
  unfold execTclkLock
  repeat' with_reducible first | assumption | exact parts_sub (by with_unfolding_all decide) hl | exact only.refl _ _ | apply OnlyR.next | apply ite_onlyR | apply State.wr_only | apply State.wrb_only | apply ite_only | apply ite_only1 | apply ite_only2 | apply ite_only22 | apply ite_only21 | dsimp only | (apply only.lit <;> first | exact Or.inr rfl | exact Or.inl (parts_mem hl (by with_unfolding_all decide)) | skip)

theorem execTclkRelock_only {s0 : State} {pl : List Part} {s : State} (hl : [.regs, .time] ⊆ pl) (hs0 : only pl s0 s) : OnlyR pl s0 (execTclkRelock s) := by
  unfold execTclkRelock
  repeat' with_reducible first | assumption | exact parts_sub (by with_unfolding_all decide) hl | exact only.refl _ _ | apply OnlyR.next | apply ite_onlyR | apply State.wr_only | apply State.wrb_only | apply ite_only | apply ite_only1 | apply ite_only2 | apply ite_only22 | apply ite_only21 | dsimp only | (apply only.lit <;> first | exact Or.inr rfl | exact Or.inl (parts_mem hl (by with_unfolding_all decide)) | skip)

theorem State.tclkWrite_only {s0 : State} {pl : List Part} {s : State} (w : Word) (hl : [.regs] ⊆ pl) (hs0 : only pl s0 s) : only pl s0 (State.tclkWrite s w).1 := by
  unfold State.tclkWrite
  repeat' with_reducible first | assumption | exact parts_sub (by with_unfolding_all decide) hl | apply State.wr_only | apply ite_only | apply ite_only1

theorem State.holdover_only {s0 : State} {pl : List Part} {s : State} (b : Nat) (hl : [.regs, .ctrs, .mgt, .logs, .irq, .time] ⊆ pl) (hs0 : only pl s0 s) : only pl s0 (State.holdover s b) := by
  unfold State.holdover
  repeat' with_reducible first | assumption | exact parts_sub (by with_unfolding_all decide) hl | apply State.bump_only | apply State.raiseAt_only | apply State.setTb_only | apply State.srcPulse_only | apply State.tbSync_only | apply ite_only

theorem execBaseWatchdogExpiry_only {s0 : State} {pl : List Part} (b : Fin 8) {s : State} (hl : [.regs, .ctrs, .mgt, .logs, .irq, .time] ⊆ pl) (hs0 : only pl s0 s) : OnlyR pl s0 (execBaseWatchdogExpiry b s) := by
  unfold execBaseWatchdogExpiry
  repeat' with_reducible first | assumption | exact parts_sub (by with_unfolding_all decide) hl | exact only.refl _ _ | apply OnlyR.next | apply ite_onlyR | apply State.holdover_only

theorem State.rateWrite_only {s0 : State} {pl : List Part} {s : State} (b : Nat) (w : Word) (hl : [.regs, .time] ⊆ pl) (hs0 : only pl s0 s) : only pl s0 (State.rateWrite s b w).1 := by
  unfold State.rateWrite
  repeat' with_reducible first | assumption | exact parts_sub (by with_unfolding_all decide) hl | apply State.setTb_only | apply State.tbSync_only | apply State.wr_only | apply ite_only | apply ite_only1

theorem State.tbCtlWrite_only {s0 : State} {pl : List Part} {s : State} (b : Nat) (w : Word) (hl : [.regs, .time] ⊆ pl) (hs0 : only pl s0 s) : only pl s0 (State.tbCtlWrite s b w).1 := by
  unfold State.tbCtlWrite
  repeat' with_reducible first | assumption | exact parts_sub (by with_unfolding_all decide) hl | apply State.setTb_only | apply State.tbSync_only | apply State.wr_only | apply ite_only | apply ite_only1

theorem State.snap_only {s0 : State} {pl : List Part} {s : State} (b : Nat) (hl : [.regs] ⊆ pl) (hs0 : only pl s0 s) : only pl s0 (State.snap s b) := by
  unfold State.snap
  repeat' with_reducible first | assumption | exact parts_sub (by with_unfolding_all decide) hl | apply State.wr_only

theorem State.cmpFire_only {s0 : State} {pl : List Part} {s : State} (i : Nat) (stepped : Bool) (hl : [.regs, .ctrs, .mgt, .logs, .irq, .time] ⊆ pl) (hs0 : only pl s0 s) : only pl s0 (State.cmpFire s i stepped) := by
  unfold State.cmpFire
  repeat' with_reducible first | assumption | exact parts_sub (by with_unfolding_all decide) hl | apply State.bump_only | apply State.srcPulse_only | apply State.wrb_only | apply ite_only | apply ite_only1 | apply ite_only2 | apply ite_only22 | apply ite_only21 | dsimp only | (apply only.lit <;> first | exact Or.inr rfl | exact Or.inl (parts_mem hl (by with_unfolding_all decide)) | skip)

theorem execCmpFire_only {s0 : State} {pl : List Part} (i : Fin 15) {s : State} (hl : [.regs, .ctrs, .mgt, .logs, .irq, .time] ⊆ pl) (hs0 : only pl s0 s) : OnlyR pl s0 (execCmpFire i s) := by
  unfold execCmpFire
  repeat' with_reducible first | assumption | exact parts_sub (by with_unfolding_all decide) hl | exact only.refl _ _ | apply OnlyR.next | apply ite_onlyR | apply State.cmpFire_only

theorem State.cmpCtlWrite_only {s0 : State} {pl : List Part} {s : State} (own : Bool) (i : Nat) (w : Word) (hl : [.regs] ⊆ pl) (hs0 : only pl s0 s) : only pl s0 (State.cmpCtlWrite s own i w).1 := by
  unfold State.cmpCtlWrite
  repeat' with_reducible first | assumption | exact parts_sub (by with_unfolding_all decide) hl | apply State.setReg_only | apply ite_only | apply ite_only1

theorem State.setTp_only {s0 : State} {pl : List Part} {s : State} (k : Nat) (x : TpSt) (hl : [.time] ⊆ pl) (hs0 : only pl s0 s) : only pl s0 (State.setTp s k x) := by
  unfold State.setTp
  repeat' with_reducible first | assumption | exact parts_sub (by with_unfolding_all decide) hl | (apply only.lit <;> first | exact Or.inr rfl | exact Or.inl (parts_mem hl (by with_unfolding_all decide)) | skip)

theorem State.tpCtlWrite_only {s0 : State} {pl : List Part} {s : State} (own : Bool) (k : Nat) (w : Word) (hl : [.regs, .time] ⊆ pl) (hs0 : only pl s0 s) : only pl s0 (State.tpCtlWrite s own k w).1 := by
  unfold State.tpCtlWrite
  repeat' with_reducible first | assumption | exact parts_sub (by with_unfolding_all decide) hl | apply State.setReg_only | apply State.setTp_only | apply ite_only | apply ite_only1

theorem execPulseAssert_only {s0 : State} {pl : List Part} (k : Fin 16) {s : State} (hl : [.regs, .ctrs, .mgt, .logs, .irq, .time] ⊆ pl) (hs0 : only pl s0 s) : OnlyR pl s0 (execPulseAssert k s) := by
  unfold execPulseAssert
  repeat' with_reducible first | assumption | exact parts_sub (by with_unfolding_all decide) hl | exact only.refl _ _ | apply OnlyR.next | apply ite_onlyR | apply State.setTp_only | apply State.srcPulse_only | apply ite_only | apply ite_only1 | apply ite_only2 | apply ite_only22 | apply ite_only21 | dsimp only | (apply only.lit <;> first | exact Or.inr rfl | exact Or.inl (parts_mem hl (by with_unfolding_all decide)) | skip)

theorem execPulseRelease_only {s0 : State} {pl : List Part} (k : Fin 16) {s : State} (hl : [.regs, .time] ⊆ pl) (hs0 : only pl s0 s) : OnlyR pl s0 (execPulseRelease k s) := by
  unfold execPulseRelease
  repeat' with_reducible first | assumption | exact parts_sub (by with_unfolding_all decide) hl | exact only.refl _ _ | apply OnlyR.next | apply ite_onlyR | apply State.setTp_only | apply State.wrb_only | apply ite_only

theorem State.jumped_only {s0 : State} {pl : List Part} {s : State} (b old : Nat) (hl : [.regs, .ctrs, .mgt, .logs, .irq, .time] ⊆ pl) (hs0 : only pl s0 s) : only pl s0 (State.jumped s b old) := by
  unfold State.jumped
  repeat' with_reducible first | assumption | exact parts_sub (by with_unfolding_all decide) hl | apply State.cmpFire_only | apply State.setTp_only | refine foldl_only _ _ (fun _ _ _ => ?_) ?_ | refine foldl_only1 _ _ (fun _ _ _ => ?_) ?_ | refine foldl_only2 _ _ (fun _ _ _ => ?_) ?_ | refine foldl_only22 _ _ (fun _ _ _ => ?_) ?_ | refine foldl_only21 _ _ (fun _ _ _ => ?_) ?_ | apply ite_only

theorem State.tbJump_only {s0 : State} {pl : List Part} {s : State} (b v : Nat) (hl : [.regs, .ctrs, .mgt, .logs, .irq, .time] ⊆ pl) (hs0 : only pl s0 s) : only pl s0 (State.tbJump s b v) := by
  unfold State.tbJump
  repeat' with_reducible first | assumption | exact parts_sub (by with_unfolding_all decide) hl | apply State.bump_only | apply State.jumped_only | apply State.raiseAt_only | apply State.setTb_only | apply State.srcPulse_only | apply State.tbSync_only | apply State.wrb_only | apply ite_only

theorem State.tbCommand_only {s0 : State} {pl : List Part} {s : State} (b : Nat) (hl : [.regs, .ctrs, .mgt, .logs, .irq, .time] ⊆ pl) (hs0 : only pl s0 s) : only pl s0 (State.tbCommand s b) := by
  unfold State.tbCommand
  repeat' with_reducible first | assumption | exact parts_sub (by with_unfolding_all decide) hl | apply State.setTb_only | apply State.snap_only | apply State.tbJump_only | apply State.tbSync_only | apply ite_only

theorem State.tbCount_only {s0 : State} {pl : List Part} {s : State} (n b : Nat) (hl : [.time] ⊆ pl) (hs0 : only pl s0 s) : only pl s0 (State.tbCount s n b) := by
  unfold State.tbCount
  repeat' with_reducible first | assumption | exact parts_sub (by with_unfolding_all decide) hl | apply State.setTb_only | apply ite_only

theorem State.tbMicro_only {s0 : State} {pl : List Part} {s : State} (hl : [.regs, .ctrs, .mgt, .logs, .irq, .time] ⊆ pl) (hs0 : only pl s0 s) : only pl s0 (State.tbMicro s) := by
  unfold State.tbMicro
  repeat' with_reducible first | assumption | exact parts_sub (by with_unfolding_all decide) hl | apply State.tbCommand_only | apply State.tbCount_only | refine foldl_only _ _ (fun _ _ _ => ?_) ?_

theorem State.setCap_only {s0 : State} {pl : List Part} {s : State} (j : Nat) (l : List StampE) (hl : [.regs, .time] ⊆ pl) (hs0 : only pl s0 s) : only pl s0 (State.setCap s j l) := by
  unfold State.setCap
  repeat' with_reducible first | assumption | exact parts_sub (by with_unfolding_all decide) hl | apply State.wr_only | (apply only.lit <;> first | exact Or.inr rfl | exact Or.inl (parts_mem hl (by with_unfolding_all decide)) | skip)

theorem State.capIrq_only {s0 : State} {pl : List Part} {s : State} (j : Nat) (hl : [.regs, .ctrs, .mgt, .logs, .irq] ⊆ pl) (hs0 : only pl s0 s) : only pl s0 (State.capIrq s j) := by
  unfold State.capIrq
  repeat' with_reducible first | assumption | exact parts_sub (by with_unfolding_all decide) hl | apply State.srcSet_only

theorem State.capCtlWrite_only {s0 : State} {pl : List Part} {s : State} (own : Bool) (j : Nat) (w : Word) (hl : [.regs, .ctrs, .mgt, .logs, .irq] ⊆ pl) (hs0 : only pl s0 s) : only pl s0 (State.capCtlWrite s own j w).1 := by
  unfold State.capCtlWrite
  repeat' with_reducible first | assumption | exact parts_sub (by with_unfolding_all decide) hl | apply State.capIrq_only | apply State.setReg_only | apply ite_only | apply ite_only1

theorem execCaptureEdge_only {s0 : State} {pl : List Part} (j : Fin 9) (rise : Bool) (phase : Fin 64) (near : Bool) {s : State} (hl : [.regs, .ctrs, .mgt, .logs, .irq, .time] ⊆ pl) (hs0 : only pl s0 s) : OnlyR pl s0 (execCaptureEdge j rise phase near s) := by
  unfold execCaptureEdge
  repeat' with_reducible first | assumption | exact parts_sub (by with_unfolding_all decide) hl | exact only.refl _ _ | apply OnlyR.next | apply ite_onlyR | apply State.bump_only | apply State.capIrq_only | apply State.raiseVat_only | apply State.setCap_only | apply State.wrb_only

theorem State.capPop_only {s0 : State} {pl : List Part} {s : State} (j : Nat) (pop : Bool) (hl : [.regs, .ctrs, .mgt, .logs, .irq, .time] ⊆ pl) (hs0 : only pl s0 s) : only pl s0 (State.capPop s j pop).2 := by
  unfold State.capPop
  repeat' with_reducible first | assumption | exact parts_sub (by with_unfolding_all decide) hl | apply State.capIrq_only | apply State.setCap_only | apply State.wr_only | apply ite_only | apply ite_only1 | apply ite_only2 | apply ite_only22 | apply ite_only21 | dsimp only | split

theorem State.setTsq_only {s0 : State} {pl : List Part} {s : State} (m : Nat) (l : List StampE) (hl : [.regs, .time] ⊆ pl) (hs0 : only pl s0 s) : only pl s0 (State.setTsq s m l) := by
  unfold State.setTsq
  repeat' with_reducible first | assumption | exact parts_sub (by with_unfolding_all decide) hl | apply State.wr_only | (apply only.lit <;> first | exact Or.inr rfl | exact Or.inl (parts_mem hl (by with_unfolding_all decide)) | skip)

theorem State.tsqPush_only {s0 : State} {pl : List Part} {s : State} (m fid t : Nat) (hl : [.regs, .ctrs, .mgt, .logs, .time] ⊆ pl) (hs0 : only pl s0 s) : only pl s0 (State.tsqPush s m fid t) := by
  unfold State.tsqPush
  repeat' with_reducible first | assumption | exact parts_sub (by with_unfolding_all decide) hl | apply State.bump_only | apply State.raiseVat_only | apply State.setTsq_only | apply State.wrb_only | apply ite_only

theorem State.tsqPop_only {s0 : State} {pl : List Part} {s : State} (m : Nat) (pop : Bool) (hl : [.regs, .time] ⊆ pl) (hs0 : only pl s0 s) : only pl s0 (State.tsqPop s m pop).2 := by
  unfold State.tsqPop
  repeat' with_reducible first | assumption | exact parts_sub (by with_unfolding_all decide) hl | apply State.setTsq_only | apply State.wr_only | apply ite_only | apply ite_only1 | apply ite_only2 | apply ite_only22 | apply ite_only21 | dsimp only | split

theorem State.ptpWrite_only {s0 : State} {pl : List Part} {s : State} (m : Nat) (w : Word) (hl : [.regs] ⊆ pl) (hs0 : only pl s0 s) : only pl s0 (State.ptpWrite s m w).1 := by
  unfold State.ptpWrite
  repeat' with_reducible first | assumption | exact parts_sub (by with_unfolding_all decide) hl | apply State.setReg_only | apply ite_only | apply ite_only1

theorem State.timeKeep_only {s0 : State} {pl : List Part} {s : State} (hl : [.regs, .ctrs, .mgt, .logs, .irq, .time] ⊆ pl) (hs0 : only pl s0 s) : only pl s0 (State.timeKeep s) := by
  unfold State.timeKeep
  repeat' with_reducible first | assumption | exact parts_sub (by with_unfolding_all decide) hl | apply State.holdover_only | refine foldl_only _ _ (fun _ _ _ => ?_) ?_

theorem State.timeReset_only {s0 : State} {pl : List Part} {s : State} (hl : [.regs, .ctrs, .mgt, .logs, .irq, .time] ⊆ pl) (hs0 : only pl s0 s) : only pl s0 (State.timeReset s) := by
  unfold State.timeReset
  repeat' with_reducible first | assumption | exact parts_sub (by with_unfolding_all decide) hl | apply State.capIrq_only | apply State.setCap_only | refine foldl_only _ _ (fun _ _ _ => ?_) ?_ | refine foldl_only1 _ _ (fun _ _ _ => ?_) ?_ | refine foldl_only2 _ _ (fun _ _ _ => ?_) ?_ | refine foldl_only22 _ _ (fun _ _ _ => ?_) ?_ | refine foldl_only21 _ _ (fun _ _ _ => ?_) ?_ | dsimp only | intro _ _ _ _ | intro _ _ _ | intro _ _ | (apply only.lit <;> first | exact Or.inr rfl | exact Or.inl (parts_mem hl (by with_unfolding_all decide)) | skip)

end Sys2Proof.Machine
end

