-- ==== Sys2Proof/Laws/Frame/Ports.lean ====
section
/-! SUPPORT. The frames of Machine/Ports.lean: which parts of the state each operation and each command may change. -/

namespace Sys2Proof.Machine


theorem State.setFport_only {s0 : State} {pl : List Part} {s : State} (m : Nat) (p : FenPort) (hl : [.fen] ⊆ pl) (hs0 : only pl s0 s) : only pl s0 (State.setFport s m p) := by
  unfold State.setFport
  repeat' with_reducible first | assumption | exact parts_sub (by with_unfolding_all decide) hl | (apply only.lit <;> first | exact Or.inr rfl | exact Or.inl (parts_mem hl (by with_unfolding_all decide)) | skip)

theorem State.fenIrq_only {s0 : State} {pl : List Part} {s : State} (m : Nat) (hl : [.regs, .ctrs, .mgt, .logs, .irq] ⊆ pl) (hs0 : only pl s0 s) : only pl s0 (State.fenIrq s m) := by
  unfold State.fenIrq
  repeat' with_reducible first | assumption | exact parts_sub (by with_unfolding_all decide) hl | apply State.srcSet_only | apply ite_only | apply ite_only1 | apply ite_only2 | apply ite_only22 | apply ite_only21

theorem State.fenFlag_only {s0 : State} {pl : List Part} {s : State} (m : Nat) (f : Nat → Fld) (hl : [.regs, .ctrs, .mgt, .logs, .irq] ⊆ pl) (hs0 : only pl s0 s) : only pl s0 (State.fenFlag s m f) := by
  unfold State.fenFlag
  repeat' with_reducible first | assumption | exact parts_sub (by with_unfolding_all decide) hl | apply State.fenIrq_only | apply State.wrb_only

theorem State.fenDrop_only {s0 : State} {pl : List Part} {s : State} (m off : Nat) (hl : [.regs, .ctrs, .mgt, .logs, .irq] ⊆ pl) (hs0 : only pl s0 s) : only pl s0 (State.fenDrop s m off) := by
  unfold State.fenDrop
  repeat' with_reducible first | assumption | exact parts_sub (by with_unfolding_all decide) hl | apply State.bump_only | apply State.fenFlag_only

theorem State.raisePort_only {s0 : State} {pl : List Part} {s : State} (m : Nat) (k : EvKind) (args : List Nat) (hl : [.ctrs, .mgt, .logs] ⊆ pl) (hs0 : only pl s0 s) : only pl s0 (State.raisePort s m k args) := by
  unfold State.raisePort
  repeat' with_reducible first | assumption | exact parts_sub (by with_unfolding_all decide) hl | apply State.raiseVat_only

theorem State.qDrop_only {s0 : State} {pl : List Part} {s : State} (m q off : Nat) (hl : [.regs, .ctrs, .mgt, .logs, .irq] ⊆ pl) (hs0 : only pl s0 s) : only pl s0 (State.qDrop s m q off) := by
  unfold State.qDrop
  repeat' with_reducible first | assumption | exact parts_sub (by with_unfolding_all decide) hl | apply State.bump_only | apply State.fenDrop_only

theorem State.storeDrop_only {s0 : State} {pl : List Part} {s : State} (m : Nat) (hl : [.regs, .ctrs, .mgt, .logs, .irq, .fen] ⊆ pl) (hs0 : only pl s0 s) : only pl s0 (State.storeDrop s m) := by
  unfold State.storeDrop
  repeat' with_reducible first | assumption | exact parts_sub (by with_unfolding_all decide) hl | apply State.fenDrop_only | apply State.qDrop_only | apply State.setFport_only | refine foldl_only _ _ (fun _ _ _ => ?_) ?_ | refine foldl_only1 _ _ (fun _ _ _ => ?_) ?_ | refine foldl_only2 _ _ (fun _ _ _ => ?_) ?_ | refine foldl_only22 _ _ (fun _ _ _ => ?_) ?_ | refine foldl_only21 _ _ (fun _ _ _ => ?_) ?_ | dsimp only | intro _ _ _ _ | intro _ _ _ | intro _ _ | split | (apply only.lit <;> first | exact Or.inr rfl | exact Or.inl (parts_mem hl (by with_unfolding_all decide)) | skip) | refine only.eq2 (by assumption) ?_ | refine only.eq22 (by assumption) ?_ | refine only.eq1 (by assumption) ?_

theorem State.linkFalls_only {s0 : State} {pl : List Part} {s : State} (m : Nat) (hl : [.regs, .ctrs, .mgt, .logs, .irq, .fen] ⊆ pl) (hs0 : only pl s0 s) : only pl s0 (State.linkFalls s m) := by
  unfold State.linkFalls
  repeat' with_reducible first | assumption | exact parts_sub (by with_unfolding_all decide) hl | apply State.fenFlag_only | apply State.raiseDev_only | apply State.raisePort_only | apply State.storeDrop_only | apply State.wrb_only | apply ite_only | apply ite_only1 | apply ite_only2 | apply ite_only22 | apply ite_only21 | dsimp only

end Sys2Proof.Machine
end

