-- ==== Sys2Proof/Laws/Frame/Lanes.lean ====
section
/-! SUPPORT. The frames of Machine/Lanes.lean: which parts of the state each operation and each command may change. -/

namespace Sys2Proof.Machine


theorem State.raiseLane_only {s0 : State} {pl : List Part} {s : State} (n : Nat) (k : EvKind) (hl : [.ctrs, .mgt, .logs] ⊆ pl) (hs0 : only pl s0 s) : only pl s0 (State.raiseLane s n k) := by
  unfold State.raiseLane
  repeat' with_reducible first | assumption | exact parts_sub (by with_unfolding_all decide) hl | apply State.raiseVat_only

theorem State.raiseQuad_only {s0 : State} {pl : List Part} {s : State} (u : Nat) (k : EvKind) (hl : [.ctrs, .mgt, .logs] ⊆ pl) (hs0 : only pl s0 s) : only pl s0 (State.raiseQuad s u k) := by
  unfold State.raiseQuad
  repeat' with_reducible first | assumption | exact parts_sub (by with_unfolding_all decide) hl | apply State.raiseAt_only

theorem State.laneIrq_only {s0 : State} {pl : List Part} {s : State} (n : Nat) (hl : [.regs, .ctrs, .mgt, .logs, .irq] ⊆ pl) (hs0 : only pl s0 s) : only pl s0 (State.laneIrq s n) := by
  unfold State.laneIrq
  repeat' with_reducible first | assumption | exact parts_sub (by with_unfolding_all decide) hl | apply State.srcSet_only | apply ite_only

theorem State.laneFlag_only {s0 : State} {pl : List Part} {s : State} (n : Nat) (f : Nat → Fld) (hl : [.regs, .ctrs, .mgt, .logs, .irq] ⊆ pl) (hs0 : only pl s0 s) : only pl s0 (State.laneFlag s n f) := by
  unfold State.laneFlag
  repeat' with_reducible first | assumption | exact parts_sub (by with_unfolding_all decide) hl | apply State.laneIrq_only | apply State.wrb_only

theorem State.checkerDrop_only {s0 : State} {pl : List Part} {s : State} (n : Nat) (hl : [.regs] ⊆ pl) (hs0 : only pl s0 s) : only pl s0 (State.checkerDrop s n) := by
  unfold State.checkerDrop
  repeat' with_reducible first | assumption | exact parts_sub (by with_unfolding_all decide) hl | apply State.wrb_only

theorem State.laneUnlocked_only {s0 : State} {pl : List Part} {s : State} (n : Nat) (hl : [.regs, .ctrs, .mgt, .logs, .irq, .span, .fen] ⊆ pl) (hs0 : only pl s0 s) : only pl s0 (State.laneUnlocked s n) := by
  have k : only pl s0 _ := foldl_only (f := fun s k => if s.bit (SPAN.PORT_CTL.EN k) ∧ (s.spanLanes k).contains n then
      let s := s.spanDown k
      s.setPort k (s.port k).cleared
    else s) (List.range 4) s (fun _ _ h => ite_only (State.setPort_only _ _ (parts_sub (by with_unfolding_all decide) hl)
      (State.spanDown_only _ (parts_sub (by with_unfolding_all decide) hl) h)) h) hs0
  unfold State.laneUnlocked
  dsimp only at k ⊢
  generalize (List.range 4).foldl _ s = u at k ⊢
  split
  · exact State.linkFalls_only _ (parts_sub (by with_unfolding_all decide) hl) k
  · exact k

theorem State.setTxPower_only {s0 : State} {pl : List Part} {s : State} (n p : Nat) (hl : [.regs] ⊆ pl) (hs0 : only pl s0 s) : only pl s0 (State.setTxPower s n p) := by
  unfold State.setTxPower
  repeat' with_reducible first | assumption | exact parts_sub (by with_unfolding_all decide) hl | apply State.wr_only | apply ite_only

theorem State.clearCoeffs_only {s0 : State} {pl : List Part} {s : State} (n : Nat) (hl : [.regs] ⊆ pl) (hs0 : only pl s0 s) : only pl s0 (State.clearCoeffs s n) := by
  unfold State.clearCoeffs
  repeat' with_reducible first | assumption | exact parts_sub (by with_unfolding_all decide) hl | apply State.wr_only | refine foldl_only _ _ (fun _ _ _ => ?_) ?_

theorem State.setRxPower_only {s0 : State} {pl : List Part} {s : State} (n p : Nat) (hl : [.regs, .ctrs, .mgt, .logs, .irq, .span, .fen] ⊆ pl) (hs0 : only pl s0 s) : only pl s0 (State.setRxPower s n p) := by
  unfold State.setRxPower
  repeat' with_reducible first | assumption | exact parts_sub (by with_unfolding_all decide) hl | apply State.checkerDrop_only | apply State.clearCoeffs_only | apply State.laneUnlocked_only | apply State.wr_only | apply State.wrb_only | apply ite_only

theorem State.laneCtlWrite_only {s0 : State} {pl : List Part} {s : State} (n : Nat) (w : Word) (hl : [.regs, .ctrs, .mgt, .logs, .irq, .span, .fen] ⊆ pl) (hs0 : only pl s0 s) : OnlyO pl s0 (State.laneCtlWrite s n w) := by
  unfold State.laneCtlWrite
  repeat' with_reducible first | assumption | exact parts_sub (by with_unfolding_all decide) hl | exact OnlyO.none | apply OnlyO.some | apply ite_onlyO | apply State.setReg_only | apply State.setRxPower_only | apply State.setTxPower_only

theorem State.txEqWrite_only {s0 : State} {pl : List Part} {s : State} (n : Nat) (w : Word) (hl : [.regs] ⊆ pl) (hs0 : only pl s0 s) : OnlyO pl s0 (State.txEqWrite s n w) := by
  unfold State.txEqWrite
  repeat' with_reducible first | assumption | exact parts_sub (by with_unfolding_all decide) hl | exact OnlyO.none | apply OnlyO.some | apply ite_onlyO | apply State.setReg_only

theorem State.txFirWrite_only {s0 : State} {pl : List Part} {s : State} (n : Nat) (w : Word) (hl : [.regs] ⊆ pl) (hs0 : only pl s0 s) : OnlyO pl s0 (State.txFirWrite s n w) := by
  unfold State.txFirWrite
  repeat' with_reducible first | assumption | exact parts_sub (by with_unfolding_all decide) hl | exact OnlyO.none | apply OnlyO.some | apply ite_onlyO | apply State.setReg_only

theorem State.prbsWrite_only {s0 : State} {pl : List Part} {s : State} (n : Nat) (w : Word) (hl : [.regs] ⊆ pl) (hs0 : only pl s0 s) : OnlyO pl s0 (State.prbsWrite s n w) := by
  unfold State.prbsWrite
  repeat' with_reducible first | assumption | exact parts_sub (by with_unfolding_all decide) hl | exact OnlyO.none | apply OnlyO.some | apply ite_onlyO | apply State.checkerDrop_only | apply State.setReg_only | apply ite_only

theorem State.injected_only {s0 : State} {pl : List Part} {s : State} (n : Nat) (hl : [.ctrs, .mgt, .logs] ⊆ pl) (hs0 : only pl s0 s) : only pl s0 (State.injected s n) := by
  unfold State.injected
  repeat' with_reducible first | assumption | exact parts_sub (by with_unfolding_all decide) hl | apply State.bump_only

theorem State.injWrite_only {s0 : State} {pl : List Part} {s : State} (n : Nat) (w : Word) (hl : [.regs, .ctrs, .mgt, .logs, .inject] ⊆ pl) (hs0 : only pl s0 s) : OnlyO pl s0 (State.injWrite s n w) := by
  unfold State.injWrite
  repeat' with_reducible first | assumption | exact parts_sub (by with_unfolding_all decide) hl | exact OnlyO.none | apply OnlyO.some | apply ite_onlyO | apply State.injected_only | apply State.setReg_only | apply ite_only | apply ite_only1 | apply ite_only2 | apply ite_only22 | apply ite_only21 | dsimp only | (apply only.lit <;> first | exact Or.inr rfl | exact Or.inl (parts_mem hl (by with_unfolding_all decide)) | skip)

theorem State.qpllWrite_only {s0 : State} {pl : List Part} {s : State} (u p : Nat) (w : Word) (hl : [.regs] ⊆ pl) (hs0 : only pl s0 s) : OnlyO pl s0 (State.qpllWrite s u p w) := by
  unfold State.qpllWrite
  repeat' with_reducible first | assumption | exact parts_sub (by with_unfolding_all decide) hl | exact OnlyO.none | apply OnlyO.some | apply ite_onlyO | apply State.wr_only | apply State.wrb_only | refine foldl_only _ _ (fun _ _ _ => ?_) ?_ | refine foldl_only1 _ _ (fun _ _ _ => ?_) ?_ | refine foldl_only2 _ _ (fun _ _ _ => ?_) ?_ | refine foldl_only22 _ _ (fun _ _ _ => ?_) ?_ | refine foldl_only21 _ _ (fun _ _ _ => ?_) ?_ | apply ite_only

theorem State.qrefWrite_only {s0 : State} {pl : List Part} {s : State} (u : Nat) (w : Word) (hl : [.regs] ⊆ pl) (hs0 : only pl s0 s) : OnlyO pl s0 (State.qrefWrite s u w) := by
  unfold State.qrefWrite
  repeat' with_reducible first | assumption | exact parts_sub (by with_unfolding_all decide) hl | exact OnlyO.none | apply OnlyO.some | apply ite_onlyO | apply State.wr_only | apply ite_only

theorem execQuadPllLock_only {s0 : State} {pl : List Part} (u : Fin 25) (p : Fin 2) {s : State} (hl : [.regs] ⊆ pl) (hs0 : only pl s0 s) : OnlyR pl s0 (execQuadPllLock u p s) := by
  unfold execQuadPllLock
  repeat' with_reducible first | assumption | exact parts_sub (by with_unfolding_all decide) hl | exact only.refl _ _ | apply OnlyR.next | apply ite_onlyR | apply State.wrb_only

theorem State.txIdle_only {s0 : State} {pl : List Part} {s : State} (u : Nat) (p : Option Nat) (hl : [.regs] ⊆ pl) (hs0 : only pl s0 s) : only pl s0 (State.txIdle s u p) := by
  unfold State.txIdle
  repeat' with_reducible first | assumption | exact parts_sub (by with_unfolding_all decide) hl | apply State.wr_only | refine foldl_only _ _ (fun _ _ _ => ?_) ?_ | refine foldl_only1 _ _ (fun _ _ _ => ?_) ?_ | refine foldl_only2 _ _ (fun _ _ _ => ?_) ?_ | refine foldl_only22 _ _ (fun _ _ _ => ?_) ?_ | refine foldl_only21 _ _ (fun _ _ _ => ?_) ?_ | apply ite_only

theorem execLanePllFail_only {s0 : State} {pl : List Part} (u : Fin 25) (p : Fin 2) {s : State} (hl : [.regs, .ctrs, .mgt, .logs] ⊆ pl) (hs0 : only pl s0 s) : OnlyR pl s0 (execLanePllFail u p s) := by
  unfold execLanePllFail
  repeat' with_reducible first | assumption | exact parts_sub (by with_unfolding_all decide) hl | exact only.refl _ _ | apply OnlyR.next | apply ite_onlyR | apply State.raiseQuad_only | apply State.txIdle_only | apply State.wrb_only

theorem execQuadRefQualified_only {s0 : State} {pl : List Part} (u : Fin 25) {s : State} (hl : [.regs] ⊆ pl) (hs0 : only pl s0 s) : OnlyR pl s0 (execQuadRefQualified u s) := by
  unfold execQuadRefQualified
  repeat' with_reducible first | assumption | exact parts_sub (by with_unfolding_all decide) hl | exact only.refl _ _ | apply OnlyR.next | apply ite_onlyR | apply State.wrb_only | apply ite_only | apply ite_only1 | apply ite_only2 | apply ite_only22 | apply ite_only21

theorem State.rxRefLoss_only {s0 : State} {pl : List Part} {s : State} (n : Nat) (hl : [.regs, .ctrs, .mgt, .logs, .irq, .span, .fen] ⊆ pl) (hs0 : only pl s0 s) : only pl s0 (State.rxRefLoss s n) := by
  unfold State.rxRefLoss
  repeat' with_reducible first | assumption | exact parts_sub (by with_unfolding_all decide) hl | apply State.checkerDrop_only | apply State.laneFlag_only | apply State.laneUnlocked_only | apply State.wr_only | apply ite_only | apply ite_only1 | apply ite_only2 | apply ite_only22 | apply ite_only21 | dsimp only

theorem execQuadRefLoss_only {s0 : State} {pl : List Part} (u : Fin 25) {s : State} (hl : [.regs, .ctrs, .mgt, .logs, .irq, .span, .fen] ⊆ pl) (hs0 : only pl s0 s) : OnlyR pl s0 (execQuadRefLoss u s) := by
  unfold execQuadRefLoss
  repeat' with_reducible first | assumption | exact parts_sub (by with_unfolding_all decide) hl | exact only.refl _ _ | apply OnlyR.next | apply ite_onlyR | apply State.bump_only | apply State.raiseQuad_only | apply State.rxRefLoss_only | apply State.txIdle_only | apply State.wrb_only | refine foldl_only _ _ (fun _ _ _ => ?_) ?_

theorem execTxOnReached_only {s0 : State} {pl : List Part} (n : Fin 100) {s : State} (hl : [.regs, .ctrs, .mgt, .logs, .inject] ⊆ pl) (hs0 : only pl s0 s) : OnlyR pl s0 (execTxOnReached n s) := by
  unfold execTxOnReached
  repeat' with_reducible first | assumption | exact parts_sub (by with_unfolding_all decide) hl | exact only.refl _ _ | apply OnlyR.next | apply ite_onlyR | apply State.injected_only | apply State.wr_only | apply ite_only | apply ite_only1 | apply ite_only2 | apply ite_only22 | apply ite_only21 | dsimp only | (apply only.lit <;> first | exact Or.inr rfl | exact Or.inl (parts_mem hl (by with_unfolding_all decide)) | skip)

theorem execRxSignalDetect_only {s0 : State} {pl : List Part} (n : Fin 100) {s : State} (hl : [.regs] ⊆ pl) (hs0 : only pl s0 s) : OnlyR pl s0 (execRxSignalDetect n s) := by
  unfold execRxSignalDetect
  repeat' with_reducible first | assumption | exact parts_sub (by with_unfolding_all decide) hl | exact only.refl _ _ | apply OnlyR.next | apply ite_onlyR | apply State.wr_only | apply State.wrb_only | apply ite_only | apply ite_only1 | apply ite_only2 | apply ite_only22 | apply ite_only21 | dsimp only

theorem execRxCdrLock_only {s0 : State} {pl : List Part} (n : Fin 100) {s : State} (hl : [.regs] ⊆ pl) (hs0 : only pl s0 s) : OnlyR pl s0 (execRxCdrLock n s) := by
  unfold execRxCdrLock
  repeat' with_reducible first | assumption | exact parts_sub (by with_unfolding_all decide) hl | exact only.refl _ _ | apply OnlyR.next | apply ite_onlyR | apply State.wr_only

theorem State.adapt_only {s0 : State} {pl : List Part} {s : State} (n ctle : Nat) (taps : List Byte) (hl : [.regs] ⊆ pl) (hs0 : only pl s0 s) : only pl s0 (State.adapt s n ctle taps) := by
  unfold State.adapt
  repeat' with_reducible first | assumption | exact parts_sub (by with_unfolding_all decide) hl | apply State.wr_only | refine foldl_only _ _ (fun _ _ _ => ?_) ?_ | refine foldl_only1 _ _ (fun _ _ _ => ?_) ?_ | refine foldl_only2 _ _ (fun _ _ _ => ?_) ?_ | refine foldl_only22 _ _ (fun _ _ _ => ?_) ?_ | refine foldl_only21 _ _ (fun _ _ _ => ?_) ?_ | apply ite_only

theorem execRxLocked_only {s0 : State} {pl : List Part} (n : Fin 100) (snr : Byte) (ctle : Fin 32) (taps : List Byte) {s : State} (hl : [.regs, .ctrs, .mgt, .logs, .irq] ⊆ pl) (hs0 : only pl s0 s) : OnlyR pl s0 (execRxLocked n snr ctle taps s) := by
  unfold execRxLocked
  repeat' with_reducible first | assumption | exact parts_sub (by with_unfolding_all decide) hl | exact only.refl _ _ | apply OnlyR.next | apply ite_onlyR | apply State.adapt_only | apply State.laneFlag_only | apply State.wr_only | apply State.wrb_only

theorem State.lockLost_only {s0 : State} {pl : List Part} {s : State} (n : Nat) (hl : [.regs, .ctrs, .mgt, .logs, .irq, .span, .fen] ⊆ pl) (hs0 : only pl s0 s) : only pl s0 (State.lockLost s n) := by
  unfold State.lockLost
  repeat' with_reducible first | assumption | exact parts_sub (by with_unfolding_all decide) hl | apply State.bump_only | apply State.checkerDrop_only | apply State.laneFlag_only | apply State.laneUnlocked_only | apply State.raiseLane_only

theorem execRxLockLost_only {s0 : State} {pl : List Part} (n : Fin 100) {s : State} (hl : [.regs, .ctrs, .mgt, .logs, .irq, .span, .fen] ⊆ pl) (hs0 : only pl s0 s) : OnlyR pl s0 (execRxLockLost n s) := by
  unfold execRxLockLost
  repeat' with_reducible first | assumption | exact parts_sub (by with_unfolding_all decide) hl | exact only.refl _ _ | apply OnlyR.next | apply ite_onlyR | apply State.lockLost_only | apply State.wr_only

theorem execRxSignalLost_only {s0 : State} {pl : List Part} (n : Fin 100) {s : State} (hl : [.regs, .ctrs, .mgt, .logs, .irq, .span, .fen] ⊆ pl) (hs0 : only pl s0 s) : OnlyR pl s0 (execRxSignalLost n s) := by
  unfold execRxSignalLost
  repeat' with_reducible first | assumption | exact parts_sub (by with_unfolding_all decide) hl | exact only.refl _ _ | apply OnlyR.next | apply ite_onlyR | apply State.bump_only | apply State.lockLost_only | apply State.wr_only | apply State.wrb_only | apply ite_only

theorem execRxNoLock_only {s0 : State} {pl : List Part} (n : Fin 100) {s : State} (hl : [.regs, .ctrs, .mgt, .logs, .irq] ⊆ pl) (hs0 : only pl s0 s) : OnlyR pl s0 (execRxNoLock n s) := by
  unfold execRxNoLock
  repeat' with_reducible first | assumption | exact parts_sub (by with_unfolding_all decide) hl | exact only.refl _ _ | apply OnlyR.next | apply ite_onlyR | apply State.laneFlag_only | apply State.raiseLane_only | apply State.wrb_only

theorem execPrbsCheckerLock_only {s0 : State} {pl : List Part} (n : Fin 100) (seed : BitVec 31) (bits : BitVec 1024) {s : State} (hl : [.regs, .prbs] ⊆ pl) (hs0 : only pl s0 s) : OnlyR pl s0 (execPrbsCheckerLock n seed bits s) := by
  unfold execPrbsCheckerLock
  exact ite_onlyR (OnlyR.next (State.wrb_only _ _ (parts_sub (by decide) hl) (prbs_only _ (parts_sub (by decide) hl) hs0))) (OnlyR.next hs0)

theorem execPrbsCheckerBlock_only {s0 : State} {pl : List Part} (n : Fin 100) (bits : BitVec 1024) {s : State} (hl : [.regs, .ctrs, .mgt, .logs, .irq, .prbs] ⊆ pl) (hs0 : only pl s0 s) : OnlyR pl s0 (execPrbsCheckerBlock n bits s) := by
  unfold execPrbsCheckerBlock
  dsimp only
  generalize s.checked n.val (tget s.prbs n.val 0) bits = r
  have k := prbs_only (tput s.prbs n.val r.2 0) (parts_sub (by decide) hl) hs0
  have k2 := State.bump_only (LANE.PRBS_ERR_CNT n) r.1 (parts_sub (by decide) hl) (State.bump_only (LANE.PRBS_BLK_CNT n) 1 (parts_sub (by decide) hl) k)
  refine ite_onlyR (ite_onlyR (OnlyR.next ?_) (OnlyR.next k2)) (OnlyR.next hs0)
  exact State.laneFlag_only _ _ (parts_sub (by decide) hl) (State.bump_only _ _ (parts_sub (by decide) hl)
    (State.wrb_only _ _ (parts_sub (by decide) hl) (State.checkerDrop_only _ (parts_sub (by decide) hl) k2)))

theorem execElasticBufferSlip_only {s0 : State} {pl : List Part} (n : Fin 100) {s : State} (hl : [.regs, .ctrs, .mgt, .logs, .irq] ⊆ pl) (hs0 : only pl s0 s) : OnlyR pl s0 (execElasticBufferSlip n s) := by
  unfold execElasticBufferSlip
  repeat' with_reducible first | assumption | exact parts_sub (by with_unfolding_all decide) hl | exact only.refl _ _ | apply OnlyR.next | apply ite_onlyR | apply State.bump_only | apply State.laneFlag_only

theorem execContinuousErrorInjection_only {s0 : State} {pl : List Part} (n : Fin 100) {s : State} (hl : [.ctrs, .mgt, .logs] ⊆ pl) (hs0 : only pl s0 s) : OnlyR pl s0 (execContinuousErrorInjection n s) := by
  unfold execContinuousErrorInjection
  repeat' with_reducible first | assumption | exact parts_sub (by with_unfolding_all decide) hl | exact only.refl _ _ | apply OnlyR.next | apply ite_onlyR | apply State.injected_only

end Sys2Proof.Machine
end

