-- ==== Sys2Proof/Laws/Frame/Clock.lean ====
section
/-! SUPPORT. The frames of Machine/Clock.lean: which parts of the state each operation and each command may change. -/

namespace Sys2Proof.Machine


theorem State.clkPulse_only {s0 : State} {pl : List Part} {s : State} (hl : [.regs, .ctrs, .mgt, .logs, .irq] ⊆ pl) (hs0 : only pl s0 s) : only pl s0 (State.clkPulse s) := by
  unfold State.clkPulse
  repeat' with_reducible first | assumption | exact parts_sub (by with_unfolding_all decide) hl | apply State.srcPulse_only

theorem State.swErr_only {s0 : State} {pl : List Part} {s : State} (target cause : Nat) (hl : [.regs] ⊆ pl) (hs0 : only pl s0 s) : only pl s0 (State.swErr s target cause) := by
  unfold State.swErr
  repeat' with_reducible first | assumption | exact parts_sub (by with_unfolding_all decide) hl | apply State.wr_only | apply State.wrb_only

theorem State.romSelect_only {s0 : State} {pl : List Part} {s : State} (hl : [.regs] ⊆ pl) (hs0 : only pl s0 s) : only pl s0 (State.romSelect s) := by
  unfold State.romSelect
  repeat' with_reducible first | assumption | exact parts_sub (by with_unfolding_all decide) hl | apply State.wr_only | apply ite_only

theorem execRefQualified_only {s0 : State} {pl : List Part} (refb : Bool) {s : State} (hl : [.regs] ⊆ pl) (hs0 : only pl s0 s) : OnlyR pl s0 (execRefQualified refb s) := by
  unfold execRefQualified
  repeat' with_reducible first | assumption | exact parts_sub (by with_unfolding_all decide) hl | exact only.refl _ _ | apply OnlyR.next | apply ite_onlyR | apply State.romSelect_only | apply State.wrb_only | apply ite_only | apply ite_only1 | apply ite_only2 | apply ite_only22 | apply ite_only21

theorem State.norefCheck_only {s0 : State} {pl : List Part} {s : State} (hl : [.ctrs, .mgt, .logs, .clk] ⊆ pl) (hs0 : only pl s0 s) : only pl s0 (State.norefCheck s) := by
  unfold State.norefCheck
  repeat' with_reducible first | assumption | exact parts_sub (by with_unfolding_all decide) hl | apply State.raiseAt_only | apply ite_only | apply ite_only1 | apply ite_only2 | apply ite_only22 | apply ite_only21 | (apply only.lit <;> first | exact Or.inr rfl | exact Or.inl (parts_mem hl (by with_unfolding_all decide)) | skip)

theorem State.coastEntry_only {s0 : State} {pl : List Part} {s : State} (hl : [.regs, .ctrs, .mgt, .logs, .irq, .clk, .dram] ⊆ pl) (hs0 : only pl s0 s) : only pl s0 (State.coastEntry s) := by
  unfold State.coastEntry
  repeat' with_reducible first | assumption | exact parts_sub (by with_unfolding_all decide) hl | apply State.bump_only | apply State.clkPulse_only | apply State.coastFall_only | apply State.dramCoast_only | apply State.wrb_only | dsimp only | (apply only.lit <;> first | exact Or.inl (parts_mem hl (by with_unfolding_all decide)) | exact Or.inr rfl | skip)

theorem execRefLoss_only {s0 : State} {pl : List Part} (refb : Bool) {s : State} (hl : [.regs, .ctrs, .mgt, .logs, .irq, .clk, .dram] ⊆ pl) (hs0 : only pl s0 s) : OnlyR pl s0 (execRefLoss refb s) := by
  unfold execRefLoss
  repeat' with_reducible first | assumption | exact parts_sub (by with_unfolding_all decide) hl | exact only.refl _ _ | apply OnlyR.next | apply ite_onlyR | apply State.bump_only | apply State.clkPulse_only | apply State.coastEntry_only | apply State.norefCheck_only | apply State.raiseDev_only | apply State.romSelect_only | apply State.wrb_only | apply ite_only | apply ite_only1 | apply ite_only2 | apply ite_only22 | apply ite_only21 | dsimp only

theorem execCoastSlewDone_only {s0 : State} {pl : List Part} {s : State} (hl : [.regs] ⊆ pl) (hs0 : only pl s0 s) : OnlyR pl s0 (execCoastSlewDone s) := by
  unfold execCoastSlewDone
  repeat' with_reducible first | assumption | exact parts_sub (by with_unfolding_all decide) hl | exact only.refl _ _ | apply OnlyR.next | apply ite_onlyR | apply State.wrb_only

theorem execRootCoastTimer_only {s0 : State} {pl : List Part} {s : State} (hl : [.ctrs, .mgt, .logs, .clk] ⊆ pl) (hs0 : only pl s0 s) : OnlyR pl s0 (execRootCoastTimer s) := by
  unfold execRootCoastTimer
  repeat' with_reducible first | assumption | exact parts_sub (by with_unfolding_all decide) hl | exact only.refl _ _ | apply OnlyR.next | apply ite_onlyR | apply State.raiseAt_only | apply ite_only | apply ite_only1 | apply ite_only2 | apply ite_only22 | apply ite_only21 | (apply only.lit <;> first | exact Or.inl (parts_mem hl (by with_unfolding_all decide)) | exact Or.inr rfl | skip)

theorem execRefWaitTimeout_only {s0 : State} {pl : List Part} {s : State} (hl : [.regs, .ctrs, .mgt, .logs, .clk] ⊆ pl) (hs0 : only pl s0 s) : OnlyR pl s0 (execRefWaitTimeout s) := by
  unfold execRefWaitTimeout
  repeat' with_reducible first | assumption | exact parts_sub (by with_unfolding_all decide) hl | exact only.refl _ _ | apply OnlyR.next | apply ite_onlyR | apply State.norefCheck_only | apply State.wr_only | apply ite_only | apply ite_only1 | apply ite_only2 | apply ite_only22 | apply ite_only21 | dsimp only | (apply only.lit <;> first | exact Or.inr rfl | exact Or.inl (parts_mem hl (by with_unfolding_all decide)) | skip)

theorem execRootLoopLock_only {s0 : State} {pl : List Part} {s : State} (hl : [.regs, .clk] ⊆ pl) (hs0 : only pl s0 s) : OnlyR pl s0 (execRootLoopLock s) := by
  unfold execRootLoopLock
  repeat' with_reducible first | assumption | exact parts_sub (by with_unfolding_all decide) hl | exact only.refl _ _ | apply OnlyR.next | apply ite_onlyR | apply State.wr_only | apply State.wrb_only | apply ite_only | apply ite_only1 | apply ite_only2 | apply ite_only22 | apply ite_only21 | dsimp only | (apply only.lit <;> first | exact Or.inl (parts_mem hl (by with_unfolding_all decide)) | exact Or.inr rfl | skip)

theorem State.relockStart_only {s0 : State} {pl : List Part} {s : State} (hl : [.regs, .clk] ⊆ pl) (hs0 : only pl s0 s) : only pl s0 (State.relockStart s) := by
  unfold State.relockStart
  repeat' with_reducible first | assumption | exact parts_sub (by with_unfolding_all decide) hl | apply State.wrb_only | (apply only.lit <;> first | exact Or.inl (parts_mem hl (by with_unfolding_all decide)) | exact Or.inr rfl | skip)

theorem State.rootCtrlWrite_only {s0 : State} {pl : List Part} {s : State} (w : Word) (hl : [.regs, .clk] ⊆ pl) (hs0 : only pl s0 s) : only pl s0 (State.rootCtrlWrite s w).1 := by
  unfold State.rootCtrlWrite
  repeat' with_reducible first | assumption | exact parts_sub (by with_unfolding_all decide) hl | apply State.relockStart_only | apply State.swErr_only | apply State.wr_only | apply State.wrb_only | apply ite_only | apply ite_only1 | apply ite_only2 | apply ite_only22 | apply ite_only21 | dsimp only | (apply only.lit <;> first | exact Or.inl (parts_mem hl (by with_unfolding_all decide)) | exact Or.inr rfl | skip)

theorem execRootSwitchDone_only {s0 : State} {pl : List Part} {s : State} (hl : [.regs, .clk] ⊆ pl) (hs0 : only pl s0 s) : OnlyR pl s0 (execRootSwitchDone s) := by
  unfold execRootSwitchDone
  repeat' with_reducible first | assumption | exact parts_sub (by with_unfolding_all decide) hl | exact only.refl _ _ | apply OnlyR.next | apply ite_onlyR | apply State.wr_only | apply State.wrb_only | apply ite_only | apply ite_only1 | apply ite_only2 | apply ite_only22 | apply ite_only21 | dsimp only | (apply only.lit <;> first | exact Or.inl (parts_mem hl (by with_unfolding_all decide)) | exact Or.inr rfl | skip)

theorem execAutoRelockTimer_only {s0 : State} {pl : List Part} {s : State} (hl : [.regs, .clk] ⊆ pl) (hs0 : only pl s0 s) : OnlyR pl s0 (execAutoRelockTimer s) := by
  unfold execAutoRelockTimer
  repeat' with_reducible first | assumption | exact parts_sub (by with_unfolding_all decide) hl | exact only.refl _ _ | apply OnlyR.next | apply ite_onlyR | apply State.relockStart_only

theorem execRelockComplete_only {s0 : State} {pl : List Part} {s : State} (hl : [.regs, .ctrs, .mgt, .logs, .irq, .clk, .dram] ⊆ pl) (hs0 : only pl s0 s) : OnlyR pl s0 (execRelockComplete s) := by
  unfold execRelockComplete
  repeat' with_reducible first | assumption | exact parts_sub (by with_unfolding_all decide) hl | exact only.refl _ _ | apply OnlyR.next | apply ite_onlyR | apply State.clkPulse_only | apply State.dramRelock_only | apply State.raiseDev_only | apply State.wr_only | apply State.wrb_only | apply ite_only | apply ite_only1 | apply ite_only2 | apply ite_only22 | apply ite_only21 | dsimp only | (apply only.lit <;> first | exact Or.inl (parts_mem hl (by with_unfolding_all decide)) | exact Or.inr rfl | skip)

theorem State.divWrite_only {s0 : State} {pl : List Part} {s : State} (d : Nat) (w : Word) (hl : [.regs] ⊆ pl) (hs0 : only pl s0 s) : only pl s0 (State.divWrite s d w).1 := by
  unfold State.divWrite
  repeat' with_reducible first | assumption | exact parts_sub (by with_unfolding_all decide) hl | apply State.swErr_only | apply State.wr_only | apply ite_only | apply ite_only1

theorem execDividerTakesEffect_only {s0 : State} {pl : List Part} {s : State} (hl : [.regs] ⊆ pl) (hs0 : only pl s0 s) : OnlyR pl s0 (execDividerTakesEffect s) := by
  unfold execDividerTakesEffect
  repeat' with_reducible first | assumption | exact parts_sub (by with_unfolding_all decide) hl | exact only.refl _ _ | apply OnlyR.next | apply ite_onlyR | apply State.wr_only | refine foldl_only _ _ (fun _ _ _ => ?_) ?_

theorem State.fclWrite_only {s0 : State} {pl : List Part} {s : State} (q l : Nat) (w : Word) (hl : [.regs, .freeCtr] ⊆ pl) (hs0 : only pl s0 s) : only pl s0 (State.fclWrite s q l w).1 := by
  unfold State.fclWrite
  repeat' with_reducible first | assumption | exact parts_sub (by with_unfolding_all decide) hl | apply State.fresh_only | apply State.swErr_only | apply State.wr_only | apply State.wrb_only | apply ite_only | apply ite_only1 | apply ite_only2 | apply ite_only22 | apply ite_only21 | dsimp only

theorem execForeignLineSwitchDone_only {s0 : State} {pl : List Part} (q : Fin 4) (l : Fin 8) {s : State} (hl : [.regs] ⊆ pl) (hs0 : only pl s0 s) : OnlyR pl s0 (execForeignLineSwitchDone q l s) := by
  unfold execForeignLineSwitchDone
  repeat' with_reducible first | assumption | exact parts_sub (by with_unfolding_all decide) hl | exact only.refl _ _ | apply OnlyR.next | apply ite_onlyR | apply State.wr_only | apply State.wrb_only

theorem State.fclRead_only {s0 : State} {pl : List Part} {s : State} (q l : Nat) (hl : [.regs, .freeCtr] ⊆ pl) (hs0 : only pl s0 s) : only pl s0 (State.fclRead s q l).2 := by
  unfold State.fclRead
  repeat' with_reducible first | assumption | exact parts_sub (by with_unfolding_all decide) hl | apply State.fresh_only | apply State.wrb_only | apply ite_only | apply ite_only1 | apply ite_only2 | apply ite_only22 | apply ite_only21 | dsimp only

theorem execForeignSourceLoss_only {s0 : State} {pl : List Part} (q : Fin 4) (l : Fin 8) (vats : BitVec 16) {s : State} (hl : [.regs, .ctrs, .mgt, .logs] ⊆ pl) (hs0 : only pl s0 s) : OnlyR pl s0 (execForeignSourceLoss q l vats s) := by
  unfold execForeignSourceLoss
  repeat' with_reducible first | assumption | exact parts_sub (by with_unfolding_all decide) hl | exact only.refl _ _ | apply OnlyR.next | apply ite_onlyR | apply State.raiseAt_only | apply State.wrb_only

theorem State.oscWrite_only {s0 : State} {pl : List Part} {s : State} (n : Nat) (w : Word) (hl : [.regs] ⊆ pl) (hs0 : only pl s0 s) : only pl s0 (State.oscWrite s n w).1 := by
  unfold State.oscWrite
  repeat' with_reducible first | assumption | exact parts_sub (by with_unfolding_all decide) hl | apply State.swErr_only | apply State.wr_only | apply State.wrb_only | apply ite_only | apply ite_only1

theorem execOscSettled_only {s0 : State} {pl : List Part} (n : Fin 4) {s : State} (hl : [.regs] ⊆ pl) (hs0 : only pl s0 s) : OnlyR pl s0 (execOscSettled n s) := by
  unfold execOscSettled
  repeat' with_reducible first | assumption | exact parts_sub (by with_unfolding_all decide) hl | exact only.refl _ _ | apply OnlyR.next | apply ite_onlyR | apply State.wrb_only

theorem execXo32Loss_only {s0 : State} {pl : List Part} {s : State} (hl : [.regs] ⊆ pl) (hs0 : only pl s0 s) : OnlyR pl s0 (execXo32Loss s) := by
  unfold execXo32Loss
  repeat' with_reducible first | assumption | exact parts_sub (by with_unfolding_all decide) hl | exact only.refl _ _ | apply OnlyR.next | apply ite_onlyR | apply State.wrb_only

theorem execXo32Return_only {s0 : State} {pl : List Part} {s : State} (hl : [.regs] ⊆ pl) (hs0 : only pl s0 s) : OnlyR pl s0 (execXo32Return s) := by
  unfold execXo32Return
  repeat' with_reducible first | assumption | exact parts_sub (by with_unfolding_all decide) hl | exact only.refl _ _ | apply OnlyR.next | apply ite_onlyR | apply State.wrb_only

end Sys2Proof.Machine
end

