-- ==== Sys2Proof/Laws/Frame/Nets.lean ====
section
/-! SUPPORT. The frames of Machine/Nets.lean: which parts of the state each operation and each command may change. -/

namespace Sys2Proof.Machine


theorem State.setSlice_only {s0 : State} {pl : List Part} {s : State} (g : Nat) (x : SliceSt) (hl : [.slc] ⊆ pl) (hs0 : only pl s0 s) : only pl s0 (State.setSlice s g x) := by
  unfold State.setSlice
  repeat' with_reducible first | assumption | exact parts_sub (by with_unfolding_all decide) hl | (apply only.lit <;> first | exact Or.inr rfl | exact Or.inl (parts_mem hl (by with_unfolding_all decide)) | skip)

theorem State.setArr_only {s0 : State} {pl : List Part} {s : State} (dm : Bool) (i : Nat) (x : MArr) (hl : [.mem] ⊆ pl) (hs0 : only pl s0 s) : only pl s0 (State.setArr s dm i x) := by
  unfold State.setArr
  repeat' with_reducible first | assumption | exact parts_sub (by with_unfolding_all decide) hl | apply ite_only | apply ite_only1 | apply ite_only2 | apply ite_only22 | apply ite_only21 | (apply only.lit <;> first | exact Or.inr rfl | exact Or.inl (parts_mem hl (by with_unfolding_all decide)) | skip)

theorem State.drawFor_only {s0 : State} {pl : List Part} {s : State} (x : PortSrc) (hl : [.freeCtr] ⊆ pl) (hs0 : only pl s0 s) : only pl s0 (State.drawFor s x).2 := by
  cases x
  · exact hs0
  · exact State.fresh_only hl hs0

end Sys2Proof.Machine
end

