-- ==== Sys2Proof/Laws/Frame/Fabric.lean ====
section
/-! SUPPORT. The frames of Machine/Fabric.lean: which parts of the state each operation and each command may change. -/

namespace Sys2Proof.Machine


theorem State.syncEdge_only {s0 : State} {pl : List Part} {s : State} (e : FabEdge) (d : Nat) (hl : [.fab] ⊆ pl) (hs0 : only pl s0 s) : only pl s0 (State.syncEdge s e d) := by
  exact fab_only _ hl hs0

theorem State.clockEdge_only {s0 : State} {pl : List Part} {s : State} (e : FabEdge) (d : Nat) (hl : [.freeCtr, .cfg, .fab, .slc, .mem, .time] ⊆ pl) (hs0 : only pl s0 s) : only pl s0 (State.clockEdge s e d) := by
  unfold State.clockEdge
  exact edge_only _ _ _ _ _ (parts_sub (by decide) hl) (State.syncEdge_only e d (parts_sub (by decide) hl) hs0)

theorem execActiveClockEdge_only {s0 : State} {pl : List Part} (e : FabEdge) {s : State} (hl : [.freeCtr, .cfg, .fab, .slc, .mem, .time] ⊆ pl) (hs0 : only pl s0 s) : OnlyR pl s0 (execActiveClockEdge e s) := by
  unfold execActiveClockEdge
  repeat' with_reducible first | assumption | exact parts_sub (by with_unfolding_all decide) hl | exact only.refl _ _ | apply OnlyR.next | apply ite_onlyR | apply State.clockEdge_only | apply State.fresh_only | apply ite_only | apply ite_only1 | apply ite_only2 | apply ite_only22 | apply ite_only21 | dsimp only | split | refine only.eq2 (by assumption) ?_ | refine only.eq22 (by assumption) ?_ | refine only.eq1 (by assumption) ?_

theorem State.pinTile_only {s0 : State} {pl : List Part} {s : State} (g : Nat) (hl : [.fab] ⊆ pl) (hs0 : only pl s0 s) : only pl s0 (State.pinTile s g) := by
  unfold State.pinTile
  exact ite_only hs0 (fab_only _ hl hs0)

theorem State.pinFrame_only {s0 : State} {pl : List Part} {s : State} (n : Nat) (hl : [.fab] ⊆ pl) (hs0 : only pl s0 s) : only pl s0 (State.pinFrame s n) := by
  unfold State.pinFrame
  repeat' with_reducible first | assumption | exact parts_sub (by with_unfolding_all decide) hl | apply State.pinTile_only | apply ite_only | apply ite_only1 | apply ite_only2 | apply ite_only22 | apply ite_only21 | split | (apply only.lit <;> first | exact Or.inr rfl | exact Or.inl (parts_mem hl (by with_unfolding_all decide)) | skip) | refine only.eq2 (by assumption) ?_ | refine only.eq22 (by assumption) ?_ | refine only.eq1 (by assumption) ?_

theorem State.srFalls_only {s0 : State} {pl : List Part} {s : State} (g c : Nat) (hl : [.fab] ⊆ pl) (hs0 : only pl s0 s) : only pl s0 (State.srFalls s g c) := by
  unfold State.srFalls
  exact ite_only (fab_only _ hl hs0) hs0

theorem execAsynchronousSr_only {s0 : State} {pl : List Part} (tile : Fin 57344) (c : Fin 8) (up : Bool) (src : PortSrc) {s : State} (hl : [.freeCtr, .fab] ⊆ pl) (hs0 : only pl s0 s) : OnlyR pl s0 (execAsynchronousSr tile c up src s) := by
  unfold execAsynchronousSr
  repeat' with_reducible first | assumption | exact parts_sub (by with_unfolding_all decide) hl | exact only.refl _ _ | apply OnlyR.next | apply ite_onlyR | apply State.drawFor_only | apply State.srFalls_only | apply ite_only | apply ite_only1 | apply ite_only2 | apply ite_only22 | apply ite_only21 | dsimp only | split | (apply only.lit <;> first | exact Or.inr rfl | exact Or.inl (parts_mem hl (by with_unfolding_all decide)) | skip) | refine only.eq2 (by assumption) ?_ | refine only.eq22 (by assumption) ?_ | refine only.eq1 (by assumption) ?_

theorem State.holdTiles_only {s0 : State} {pl : List Part} {s : State} (p : Nat → Bool) (hl : [.fab] ⊆ pl) (hs0 : only pl s0 s) : only pl s0 (State.holdTiles s p) := by
  exact fab_only _ hl hs0

theorem State.holdSyncs_only {s0 : State} {pl : List Part} {s : State} (p : Nat → Bool) (hl : [.fab] ⊆ pl) (hs0 : only pl s0 s) : only pl s0 (State.holdSyncs s p) := by
  exact fab_only _ hl hs0

theorem State.takeSnap_only {s0 : State} {pl : List Part} {s : State} (v : Nat) (hl : [.fab] ⊆ pl) (hs0 : only pl s0 s) : only pl s0 (State.takeSnap s v) := by
  unfold State.takeSnap
  exact ite_only hs0 (fab_only _ hl hs0)

theorem State.dropSnap_only {s0 : State} {pl : List Part} {s : State} (v : Nat) (hl : [.fab] ⊆ pl) (hs0 : only pl s0 s) : only pl s0 (State.dropSnap s v) := by
  exact fab_only _ hl hs0

end Sys2Proof.Machine
end

