-- ==== Sys2Proof/Laws/Frame/Memories.lean ====
section
/-! SUPPORT. The frames of Machine/Memories.lean: which parts of the state each operation and each command may change. -/

namespace Sys2Proof.Machine


theorem State.setMemW_only {s0 : State} {pl : List Part} {s : State} (dm : Bool) (i k : Nat) (w : Option BmW) (hl : [.mem] ⊆ pl) (hs0 : only pl s0 s) : only pl s0 (State.setMemW s dm i k w) := by
  unfold State.setMemW
  repeat' with_reducible first | assumption | exact parts_sub (by with_unfolding_all decide) hl | apply ite_only | apply ite_only1 | apply ite_only2 | apply ite_only22 | apply ite_only21 | (apply only.lit <;> first | exact Or.inr rfl | exact Or.inl (parts_mem hl (by with_unfolding_all decide)) | skip)

theorem State.readWord_only {s0 : State} {pl : List Part} {s : State} (ecc : Bool) (x0 : Option BmW) (hl : [.freeCtr] ⊆ pl) (hs0 : only pl s0 s) : only pl s0 (State.readWord s ecc x0).2.2.2.2 := by
  unfold State.readWord
  repeat' with_reducible first | assumption | exact parts_sub (by with_unfolding_all decide) hl | apply State.fresh_only | apply ite_only | apply ite_only1 | apply ite_only2 | apply ite_only22 | apply ite_only21 | dsimp only | split

theorem State.upsetAt_only {s0 : State} {pl : List Part} {s : State} (dm : Bool) (i k : Nat) (u : BitVec 72) (hl : [.mem] ⊆ pl) (hs0 : only pl s0 s) : only pl s0 (State.upsetAt s dm i k u) := by
  unfold State.upsetAt
  repeat' with_reducible first | assumption | exact parts_sub (by with_unfolding_all decide) hl | apply State.setArr_only | apply State.setMemW_only | apply ite_only | apply ite_only1 | apply ite_only2 | apply ite_only22 | apply ite_only21 | dsimp only | intro _ _ _ _ | intro _ _ _ | intro _ _ | (apply only.lit <;> first | exact Or.inr rfl | exact Or.inl (parts_mem hl (by with_unfolding_all decide)) | skip)

theorem State.touch_only {s0 : State} {pl : List Part} {s : State} (dm : Bool) (i k : Nat) (hl : [.mem] ⊆ pl) (hs0 : only pl s0 s) : only pl s0 (State.touch s dm i k) := by
  unfold State.touch
  repeat' with_reducible first | assumption | exact parts_sub (by with_unfolding_all decide) hl | apply State.setArr_only | apply ite_only

theorem State.staleMerges_only {s0 : State} {pl : List Part} {s : State} (b : Nat) (pb : Bool) (k : Nat) (near : Bool) (hl : [.freeCtr, .mem] ⊆ pl) (hs0 : only pl s0 s) : only pl s0 (State.staleMerges s b pb k near) := by
  unfold State.staleMerges
  repeat' with_reducible first | assumption | exact parts_sub (by with_unfolding_all decide) hl | apply State.fresh_only | apply State.readWord_only | apply State.setArr_only | apply ite_only | apply ite_only1 | apply ite_only2 | apply ite_only22 | apply ite_only21 | dsimp only | intro _ _ _ _ | intro _ _ _ | intro _ _ | split | (apply only.lit <;> first | exact Or.inr rfl | exact Or.inl (parts_mem hl (by with_unfolding_all decide)) | skip) | refine only.eq2 (by assumption) ?_ | refine only.eq22 (by assumption) ?_ | refine only.eq1 (by assumption) ?_

theorem State.memAct_only {s0 : State} {pl : List Part} {s : State} (dm : Bool) (i : Nat) (ecc : Bool) (a : MAct) (hl : [.mem] ⊆ pl) (hs0 : only pl s0 s) : only pl s0 (State.memAct s dm i ecc a) := by
  unfold State.memAct
  repeat' with_reducible first | assumption | exact parts_sub (by with_unfolding_all decide) hl | apply State.setArr_only | apply State.setMemW_only | apply State.touch_only | refine foldl_only _ _ (fun _ _ _ => ?_) ?_ | refine foldl_only1 _ _ (fun _ _ _ => ?_) ?_ | refine foldl_only2 _ _ (fun _ _ _ => ?_) ?_ | refine foldl_only22 _ _ (fun _ _ _ => ?_) ?_ | refine foldl_only21 _ _ (fun _ _ _ => ?_) ?_ | apply ite_only | apply ite_only1 | apply ite_only2 | apply ite_only22 | apply ite_only21 | dsimp only | intro _ _ _ _ | intro _ _ _ | intro _ _ | (apply only.lit <;> first | exact Or.inr rfl | exact Or.inl (parts_mem hl (by with_unfolding_all decide)) | skip)

theorem State.mergeAct_only {s0 : State} {pl : List Part} {s : State} (dm : Bool) (i : Nat) (m : MReq) (hl : [.freeCtr] ⊆ pl) (hs0 : only pl s0 s) : only pl s0 (State.mergeAct s dm i m).2 := by
  unfold State.mergeAct
  repeat' with_reducible first | assumption | exact parts_sub (by with_unfolding_all decide) hl | apply State.readWord_only

theorem State.setOut_only {s0 : State} {pl : List Part} {s : State} (dm : Bool) (i : Nat) (pb : Bool) (o : MOut) (hl : [.mem] ⊆ pl) (hs0 : only pl s0 s) : only pl s0 (State.setOut s dm i pb o) := by
  unfold State.setOut
  repeat' with_reducible first | assumption | exact parts_sub (by with_unfolding_all decide) hl | apply State.setArr_only

theorem State.echo_only {s0 : State} {pl : List Part} {s : State} (dm : Bool) (i : Nat) (pb : Bool) (rdw : Fin 3) (w lo : Nat) (new old : BitVec 72) (np op os : Bool) (hl : [.mem] ⊆ pl) (hs0 : only pl s0 s) : only pl s0 (State.echo s dm i pb rdw w lo new old np op os) := by
  unfold State.echo
  repeat' with_reducible first | assumption | exact parts_sub (by with_unfolding_all decide) hl | apply State.setOut_only | split | (apply only.lit <;> first | exact Or.inr rfl | exact Or.inl (parts_mem hl (by with_unfolding_all decide)) | skip) | refine only.eq2 (by assumption) ?_ | refine only.eq22 (by assumption) ?_ | refine only.eq1 (by assumption) ?_

theorem State.echoMerge_only {s0 : State} {pl : List Part} {s : State} (b : Nat) (m : MReq) (a : MAct) (hl : [.mem] ⊆ pl) (hs0 : only pl s0 s) : only pl s0 (State.echoMerge s b m a) := by
  unfold State.echoMerge
  repeat' with_reducible first | assumption | exact parts_sub (by with_unfolding_all decide) hl | apply State.setOut_only | apply ite_only | apply ite_only1 | apply ite_only2 | apply ite_only22 | apply ite_only21 | dsimp only | (apply only.lit <;> first | exact Or.inr rfl | exact Or.inl (parts_mem hl (by with_unfolding_all decide)) | skip)

theorem State.bmCycle_only {s0 : State} {pl : List Part} {s : State} (b : Nat) (hl : [.freeCtr, .mem] ⊆ pl) (hs0 : only pl s0 s) : only pl s0 (State.bmCycle s b) := by
  unfold State.bmCycle
  repeat' with_reducible first | assumption | exact parts_sub (by with_unfolding_all decide) hl | apply State.echoMerge_only | apply State.memAct_only | apply State.mergeAct_only | apply State.setArr_only | refine foldl_only _ _ (fun _ _ _ => ?_) ?_ | refine foldl_only1 _ _ (fun _ _ _ => ?_) ?_ | refine foldl_only2 _ _ (fun _ _ _ => ?_) ?_ | refine foldl_only22 _ _ (fun _ _ _ => ?_) ?_ | refine foldl_only21 _ _ (fun _ _ _ => ?_) ?_ | dsimp only | intro _ _ _ _ | intro _ _ _ | intro _ _ | split | (apply only.lit <;> first | exact Or.inr rfl | exact Or.inl (parts_mem hl (by with_unfolding_all decide)) | skip) | refine only.eq2 (by assumption) ?_ | refine only.eq22 (by assumption) ?_ | refine only.eq1 (by assumption) ?_

theorem State.bmLand_only {s0 : State} {pl : List Part} {s : State} (b : Nat) (pb : Bool) (hl : [.freeCtr, .mem] ⊆ pl) (hs0 : only pl s0 s) : only pl s0 (State.bmLand s b pb) := by
  unfold State.bmLand
  repeat' with_reducible first | assumption | exact parts_sub (by with_unfolding_all decide) hl | apply State.echoMerge_only | apply State.memAct_only | apply State.mergeAct_only | apply State.setArr_only | apply State.staleMerges_only | refine foldl_only _ _ (fun _ _ _ => ?_) ?_ | refine foldl_only1 _ _ (fun _ _ _ => ?_) ?_ | refine foldl_only2 _ _ (fun _ _ _ => ?_) ?_ | refine foldl_only22 _ _ (fun _ _ _ => ?_) ?_ | refine foldl_only21 _ _ (fun _ _ _ => ?_) ?_ | dsimp only | intro _ _ _ _ | intro _ _ _ | intro _ _ | split | (apply only.lit <;> first | exact Or.inr rfl | exact Or.inl (parts_mem hl (by with_unfolding_all decide)) | skip) | refine only.eq2 (by assumption) ?_ | refine only.eq22 (by assumption) ?_ | refine only.eq1 (by assumption) ?_

theorem State.bmTime_only {s0 : State} {pl : List Part} {s : State} (b : Nat) (pb : Bool) (t : ArrT) (hl : [.freeCtr, .mem] ⊆ pl) (hs0 : only pl s0 s) : only pl s0 (State.bmTime s b pb t).2 := by
  unfold State.bmTime
  repeat' with_reducible first | assumption | exact parts_sub (by with_unfolding_all decide) hl | apply State.bmCycle_only | apply State.bmLand_only | apply State.fresh_only | apply State.setArr_only | refine foldl_only _ _ (fun _ _ _ => ?_) ?_ | refine foldl_only1 _ _ (fun _ _ _ => ?_) ?_ | refine foldl_only2 _ _ (fun _ _ _ => ?_) ?_ | refine foldl_only22 _ _ (fun _ _ _ => ?_) ?_ | refine foldl_only21 _ _ (fun _ _ _ => ?_) ?_ | apply ite_only | apply ite_only1 | apply ite_only2 | apply ite_only22 | apply ite_only21 | dsimp only | intro _ _ _ _ | intro _ _ _ | intro _ _ | split | (apply only.lit <;> first | exact Or.inr rfl | exact Or.inl (parts_mem hl (by with_unfolding_all decide)) | skip) | refine only.eq2 (by assumption) ?_ | refine only.eq22 (by assumption) ?_ | refine only.eq1 (by assumption) ?_

theorem State.bmAccept_only {s0 : State} {pl : List Part} {s : State} (b : Nat) (pb : Bool) (t : ArrT) (hl : [.freeCtr, .mem] ⊆ pl) (hs0 : only pl s0 s) : only pl s0 (State.bmAccept s b pb t).2 := by
  unfold State.bmAccept
  repeat' with_reducible first | assumption | exact parts_sub (by with_unfolding_all decide) hl | apply State.bmTime_only | apply State.setArr_only | apply ite_only | apply ite_only1 | apply ite_only2 | apply ite_only22 | apply ite_only21 | dsimp only | split | (apply only.lit <;> first | exact Or.inr rfl | exact Or.inl (parts_mem hl (by with_unfolding_all decide)) | skip) | refine only.eq2 (by assumption) ?_ | refine only.eq22 (by assumption) ?_ | refine only.eq1 (by assumption) ?_

theorem State.queueWb_only {s0 : State} {pl : List Part} {s : State} (dm : Bool) (i : Nat) (pb corr : Bool) (k : Nat) (v : BitVec 72) (sbe unc : Bool) (hl : [.mem] ⊆ pl) (hs0 : only pl s0 s) : only pl s0 (State.queueWb s dm i pb corr k v sbe unc) := by
  unfold State.queueWb
  repeat' with_reducible first | assumption | exact parts_sub (by with_unfolding_all decide) hl | apply State.setArr_only | apply ite_only | apply ite_only1 | apply ite_only2 | apply ite_only22 | apply ite_only21 | dsimp only | (apply only.lit <;> first | exact Or.inr rfl | exact Or.inl (parts_mem hl (by with_unfolding_all decide)) | skip)

theorem execBm36Read_only {s0 : State} {pl : List Part} (b : Fin 13440) (pb : Bool) (t : ArrT) (a : BitVec 15) (u : BitVec 72) (src : PortSrc) {s : State} (hl : [.freeCtr, .mem] ⊆ pl) (hs0 : only pl s0 s) : OnlyR pl s0 (execBm36Read b pb t a u src s) := by
  unfold execBm36Read
  repeat' with_reducible first | assumption | exact parts_sub (by with_unfolding_all decide) hl | exact only.refl _ _ | apply OnlyR.next | apply ite_onlyR | apply State.bmAccept_only | apply State.drawFor_only | apply State.fresh_only | apply State.queueWb_only | apply State.readWord_only | apply State.setOut_only | apply State.upsetAt_only | apply ite_only | apply ite_only1 | apply ite_only2 | apply ite_only22 | apply ite_only21 | dsimp only | split | (apply only.lit <;> first | exact Or.inr rfl | exact Or.inl (parts_mem hl (by with_unfolding_all decide)) | skip) | refine only.eq2 (by assumption) ?_ | refine only.eq22 (by assumption) ?_ | refine only.eq1 (by assumption) ?_

theorem State.bmWrite_only {s0 : State} {pl : List Part} {s : State} (b : Nat) (ecc near : Bool) (a : MAct) (hl : [.freeCtr, .mem] ⊆ pl) (hs0 : only pl s0 s) : only pl s0 (State.bmWrite s b ecc near a) := by
  unfold State.bmWrite
  repeat' with_reducible first | assumption | exact parts_sub (by with_unfolding_all decide) hl | apply State.fresh_only | apply State.memAct_only | apply State.staleMerges_only | apply ite_only | apply ite_only1 | apply ite_only2 | apply ite_only22 | apply ite_only21 | dsimp only | intro _ _ _ _ | intro _ _ _ | intro _ _ | split | refine only.eq2 (by assumption) ?_ | refine only.eq22 (by assumption) ?_ | refine only.eq1 (by assumption) ?_

theorem execBm36FullWrite_only {s0 : State} {pl : List Part} (b : Fin 13440) (pb : Bool) (t : ArrT) (a : BitVec 15) (d : BitVec 72) (be : BitVec 8) (wp : Bool) (src : PortSrc) {s : State} (hl : [.freeCtr, .mem] ⊆ pl) (hs0 : only pl s0 s) : OnlyR pl s0 (execBm36FullWrite b pb t a d be wp src s) := by
  unfold execBm36FullWrite
  repeat' with_reducible first | assumption | exact parts_sub (by with_unfolding_all decide) hl | exact only.refl _ _ | apply OnlyR.next | apply ite_onlyR | apply State.bmAccept_only | apply State.bmWrite_only | apply State.drawFor_only | apply State.echo_only | apply State.readWord_only | apply ite_only | apply ite_only1 | apply ite_only2 | apply ite_only22 | apply ite_only21 | dsimp only | split | (apply only.lit <;> first | exact Or.inr rfl | exact Or.inl (parts_mem hl (by with_unfolding_all decide)) | skip) | refine only.eq2 (by assumption) ?_ | refine only.eq22 (by assumption) ?_ | refine only.eq1 (by assumption) ?_

theorem execBm36NarrowWrite_only {s0 : State} {pl : List Part} (b : Fin 13440) (pb : Bool) (t : ArrT) (a : BitVec 15) (d : BitVec 72) (be : BitVec 8) (wp : Bool) (u : BitVec 72) (src : PortSrc) {s : State} (hl : [.regs, .freeCtr, .mem] ⊆ pl) (hs0 : only pl s0 s) : OnlyR pl s0 (execBm36NarrowWrite b pb t a d be wp u src s) := by
  unfold execBm36NarrowWrite
  repeat' with_reducible first | assumption | exact parts_sub (by with_unfolding_all decide) hl | exact only.refl _ _ | apply OnlyR.next | apply ite_onlyR | apply State.bmAccept_only | apply State.drawFor_only | apply State.readWord_only | apply State.setArr_only | apply State.setOut_only | apply State.upsetAt_only | apply State.wr_only | apply ite_only | apply ite_only1 | apply ite_only2 | apply ite_only22 | apply ite_only21 | dsimp only | split | (apply only.lit <;> first | exact Or.inr rfl | exact Or.inl (parts_mem hl (by with_unfolding_all decide)) | skip) | refine only.eq2 (by assumption) ?_ | refine only.eq22 (by assumption) ?_ | refine only.eq1 (by assumption) ?_

theorem State.clearArr_only {s0 : State} {pl : List Part} {s : State} (dm : Bool) (i : Nat) (hl : [.regs, .mem] ⊆ pl) (hs0 : only pl s0 s) : only pl s0 (State.clearArr s dm i) := by
  unfold State.clearArr
  repeat' with_reducible first | assumption | exact parts_sub (by with_unfolding_all decide) hl | apply State.setArr_only | apply State.setMemW_only | apply State.snap_only | apply State.wr_only | refine foldl_only _ _ (fun _ _ _ => ?_) ?_ | refine foldl_only1 _ _ (fun _ _ _ => ?_) ?_ | refine foldl_only2 _ _ (fun _ _ _ => ?_) ?_ | refine foldl_only22 _ _ (fun _ _ _ => ?_) ?_ | refine foldl_only21 _ _ (fun _ _ _ => ?_) ?_ | apply ite_only | apply ite_only1 | apply ite_only2 | apply ite_only22 | apply ite_only21 | dsimp only | intro _ _ _ _ | intro _ _ _ | intro _ _ | (apply only.lit <;> first | exact Or.inr rfl | exact Or.inl (parts_mem hl (by with_unfolding_all decide)) | skip)

theorem State.dmRoom_only {s0 : State} {pl : List Part} {s : State} (p cap : Nat) (pb : Bool) (bank : Nat) (hl : [.freeCtr] ⊆ pl) (hs0 : only pl s0 s) : only pl s0 (State.dmRoom s p cap pb bank).2 := by
  unfold State.dmRoom
  repeat' with_reducible first | assumption | exact parts_sub (by with_unfolding_all decide) hl | apply State.fresh_only | apply ite_only | apply ite_only1 | apply ite_only2 | apply ite_only22 | apply ite_only21 | dsimp only | split | refine only.eq2 (by assumption) ?_ | refine only.eq22 (by assumption) ?_ | refine only.eq1 (by assumption) ?_

theorem State.dmPerform_only {s0 : State} {pl : List Part} {s : State} (p : Nat) (r : MReq) (hl : [.regs, .freeCtr, .mem] ⊆ pl) (hs0 : only pl s0 s) : only pl s0 (State.dmPerform s p r) := by
  unfold State.dmPerform
  repeat' with_reducible first | assumption | exact parts_sub (by with_unfolding_all decide) hl | apply State.memAct_only | apply State.mergeAct_only | apply State.queueWb_only | apply State.readWord_only | apply State.setOut_only | apply State.snap_only | apply State.wr_only | apply ite_only | apply ite_only1 | apply ite_only2 | apply ite_only22 | apply ite_only21 | dsimp only | split | (apply only.lit <;> first | exact Or.inr rfl | exact Or.inl (parts_mem hl (by with_unfolding_all decide)) | skip) | refine only.eq2 (by assumption) ?_ | refine only.eq22 (by assumption) ?_ | refine only.eq1 (by assumption) ?_

theorem State.dmServe_only {s0 : State} {pl : List Part} {s : State} (p cap : Nat) (r : MReq) (hl : [.regs, .freeCtr, .mem] ⊆ pl) (hs0 : only pl s0 s) : only pl s0 (State.dmServe s p cap r) := by
  unfold State.dmServe
  repeat' with_reducible first | assumption | exact parts_sub (by with_unfolding_all decide) hl | apply State.dmPerform_only | apply State.dmRoom_only | apply State.setArr_only | apply ite_only | apply ite_only1 | apply ite_only2 | apply ite_only22 | apply ite_only21 | dsimp only | split | (apply only.lit <;> first | exact Or.inr rfl | exact Or.inl (parts_mem hl (by with_unfolding_all decide)) | skip) | refine only.eq2 (by assumption) ?_ | refine only.eq22 (by assumption) ?_ | refine only.eq1 (by assumption) ?_

theorem State.dmCycle_only {s0 : State} {pl : List Part} {s : State} (p cap : Nat) (pb : Bool) (hl : [.regs, .freeCtr, .mem] ⊆ pl) (hs0 : only pl s0 s) : only pl s0 (State.dmCycle s p cap pb) := by
  unfold State.dmCycle
  repeat' with_reducible first | assumption | exact parts_sub (by with_unfolding_all decide) hl | apply State.dmServe_only | apply State.setArr_only | refine foldl_only _ _ (fun _ _ _ => ?_) ?_ | refine foldl_only1 _ _ (fun _ _ _ => ?_) ?_ | refine foldl_only2 _ _ (fun _ _ _ => ?_) ?_ | refine foldl_only22 _ _ (fun _ _ _ => ?_) ?_ | refine foldl_only21 _ _ (fun _ _ _ => ?_) ?_ | apply ite_only | apply ite_only1 | apply ite_only2 | apply ite_only22 | apply ite_only21 | dsimp only | intro _ _ _ _ | intro _ _ _ | intro _ _ | (apply only.lit <;> first | exact Or.inr rfl | exact Or.inl (parts_mem hl (by with_unfolding_all decide)) | skip)

theorem State.dmUndo_only {s0 : State} {pl : List Part} {s : State} (p : Nat) (q : MReq) (hl : [.regs, .mem] ⊆ pl) (hs0 : only pl s0 s) : only pl s0 (State.dmUndo s p q) := by
  unfold State.dmUndo
  repeat' with_reducible first | assumption | exact parts_sub (by with_unfolding_all decide) hl | apply State.setArr_only | apply State.setMemW_only | apply State.wr_only | apply ite_only | apply ite_only1 | apply ite_only2 | apply ite_only22 | apply ite_only21 | dsimp only | intro _ _ _ _ | intro _ _ _ | intro _ _ | split | (apply only.lit <;> first | exact Or.inr rfl | exact Or.inl (parts_mem hl (by with_unfolding_all decide)) | skip) | refine only.eq2 (by assumption) ?_ | refine only.eq22 (by assumption) ?_ | refine only.eq1 (by assumption) ?_

theorem State.dmTake_only {s0 : State} {pl : List Part} {s : State} (p cap : Nat) (r : MReq) (hl : [.regs, .freeCtr, .mem] ⊆ pl) (hs0 : only pl s0 s) : only pl s0 (State.dmTake s p cap r) := by
  unfold State.dmTake
  repeat' with_reducible first | assumption | exact parts_sub (by with_unfolding_all decide) hl | apply State.dmRoom_only | apply State.dmServe_only | apply State.dmUndo_only | apply State.setArr_only | apply State.wr_only | apply ite_only | apply ite_only1 | apply ite_only2 | apply ite_only22 | apply ite_only21 | dsimp only | intro _ _ _ _ | intro _ _ _ | intro _ _ | split | (apply only.lit <;> first | exact Or.inr rfl | exact Or.inl (parts_mem hl (by with_unfolding_all decide)) | skip) | refine only.eq2 (by assumption) ?_ | refine only.eq22 (by assumption) ?_ | refine only.eq1 (by assumption) ?_

theorem State.dmPass_only {s0 : State} {pl : List Part} {s : State} (p cap : Nat) (pb : Bool) (t : ArrT) (hl : [.regs, .freeCtr, .mem] ⊆ pl) (hs0 : only pl s0 s) : only pl s0 (State.dmPass s p cap pb t) := by
  unfold State.dmPass
  repeat' with_reducible first | assumption | exact parts_sub (by with_unfolding_all decide) hl | apply State.dmCycle_only | refine foldl_only _ _ (fun _ _ _ => ?_) ?_ | refine foldl_only1 _ _ (fun _ _ _ => ?_) ?_ | refine foldl_only2 _ _ (fun _ _ _ => ?_) ?_ | refine foldl_only22 _ _ (fun _ _ _ => ?_) ?_ | refine foldl_only21 _ _ (fun _ _ _ => ?_) ?_ | intro _ _ _ _ | intro _ _ _ | intro _ _

theorem State.dmAccept_only {s0 : State} {pl : List Part} {s : State} (p cap : Nat) (pb : Bool) (t : ArrT) (hl : [.regs, .freeCtr, .mem] ⊆ pl) (hs0 : only pl s0 s) : only pl s0 (State.dmAccept s p cap pb t).2 := by
  unfold State.dmAccept
  repeat' with_reducible first | assumption | exact parts_sub (by with_unfolding_all decide) hl | apply State.dmPass_only | dsimp only

theorem execDmFabricRead_only {s0 : State} {pl : List Part} (p : Fin 112) (pb : Bool) (t : ArrT) (cap : Nat) (a : BitVec 15) (u : BitVec 72) (src : PortSrc) {s : State} (hl : [.regs, .freeCtr, .mem] ⊆ pl) (hs0 : only pl s0 s) : OnlyR pl s0 (execDmFabricRead p pb t cap a u src s) := by
  unfold execDmFabricRead
  repeat' with_reducible first | assumption | exact parts_sub (by with_unfolding_all decide) hl | exact only.refl _ _ | apply OnlyR.next | apply ite_onlyR | apply State.dmAccept_only | apply State.dmTake_only | apply State.drawFor_only | apply State.upsetAt_only | apply State.wr_only | apply ite_only | apply ite_only1 | apply ite_only2 | apply ite_only22 | apply ite_only21 | dsimp only | split | (apply only.lit <;> first | exact Or.inr rfl | exact Or.inl (parts_mem hl (by with_unfolding_all decide)) | skip) | refine only.eq2 (by assumption) ?_ | refine only.eq22 (by assumption) ?_ | refine only.eq1 (by assumption) ?_

theorem execDmFabricWrite_only {s0 : State} {pl : List Part} (p : Fin 112) (pb : Bool) (t : ArrT) (cap : Nat) (a : BitVec 15) (d : BitVec 64) (be : BitVec 8) (wp : Bool) (u : BitVec 72) (src : PortSrc) {s : State} (hl : [.regs, .freeCtr, .mem] ⊆ pl) (hs0 : only pl s0 s) : OnlyR pl s0 (execDmFabricWrite p pb t cap a d be wp u src s) := by
  unfold execDmFabricWrite
  repeat' with_reducible first | assumption | exact parts_sub (by with_unfolding_all decide) hl | exact only.refl _ _ | apply OnlyR.next | apply ite_onlyR | apply State.dmAccept_only | apply State.dmTake_only | apply State.drawFor_only | apply State.upsetAt_only | apply State.wr_only | apply ite_only | apply ite_only1 | apply ite_only2 | apply ite_only22 | apply ite_only21 | dsimp only | split | (apply only.lit <;> first | exact Or.inr rfl | exact Or.inl (parts_mem hl (by with_unfolding_all decide)) | skip) | refine only.eq2 (by assumption) ?_ | refine only.eq22 (by assumption) ?_ | refine only.eq1 (by assumption) ?_

theorem execDmDeferredServe_only {s0 : State} {pl : List Part} (p : Fin 112) (cap : Nat) {s : State} (hl : [.regs, .freeCtr, .mem] ⊆ pl) (hs0 : only pl s0 s) : OnlyR pl s0 (execDmDeferredServe p cap s) := by
  unfold execDmDeferredServe
  repeat' with_reducible first | assumption | exact parts_sub (by with_unfolding_all decide) hl | exact only.refl _ _ | apply OnlyR.next | apply ite_onlyR | apply State.dmCycle_only | apply ite_only | apply ite_only1 | apply ite_only2 | apply ite_only22 | apply ite_only21 | dsimp only | split | (apply only.lit <;> first | exact Or.inr rfl | exact Or.inl (parts_mem hl (by with_unfolding_all decide)) | skip) | refine only.eq2 (by assumption) ?_ | refine only.eq22 (by assumption) ?_ | refine only.eq1 (by assumption) ?_

theorem execBm36Clear_only {s0 : State} {pl : List Part} (m : MemId) (t : ArrT) (src : PortSrc) {s : State} (hl : [.regs, .freeCtr, .mem] ⊆ pl) (hs0 : only pl s0 s) : OnlyR pl s0 (execBm36Clear m t src s) := by
  unfold execBm36Clear
  repeat' with_reducible first | assumption | exact parts_sub (by with_unfolding_all decide) hl | exact only.refl _ _ | apply OnlyR.next | apply ite_onlyR | apply State.bmTime_only | apply State.clearArr_only | apply State.dmPass_only | apply State.drawFor_only | apply State.fresh_only | apply State.setArr_only | apply ite_only | apply ite_only1 | apply ite_only2 | apply ite_only22 | apply ite_only21 | dsimp only | intro _ _ _ _ | intro _ _ _ | intro _ _ | split | (apply only.lit <;> first | exact Or.inr rfl | exact Or.inl (parts_mem hl (by with_unfolding_all decide)) | skip) | refine only.eq2 (by assumption) ?_ | refine only.eq22 (by assumption) ?_ | refine only.eq1 (by assumption) ?_

theorem State.writeBack_only {s0 : State} {pl : List Part} {s : State} (dm : Bool) (i : Nat) (x0 : Option (Nat × Bool × BitVec 72)) (hl : [.mem] ⊆ pl) (hs0 : only pl s0 s) : only pl s0 (State.writeBack s dm i x0) := by
  unfold State.writeBack
  repeat' with_reducible first | assumption | exact parts_sub (by with_unfolding_all decide) hl | apply State.setMemW_only | split | (apply only.lit <;> first | exact Or.inr rfl | exact Or.inl (parts_mem hl (by with_unfolding_all decide)) | skip) | refine only.eq2 (by assumption) ?_ | refine only.eq22 (by assumption) ?_ | refine only.eq1 (by assumption) ?_

theorem execCorrectionWriteBack_only {s0 : State} {pl : List Part} (m : MemId) (pb : Bool) (t : ArrT) {s : State} (hl : [.regs, .freeCtr, .mem] ⊆ pl) (hs0 : only pl s0 s) : OnlyR pl s0 (execCorrectionWriteBack m pb t s) := by
  unfold execCorrectionWriteBack
  have fin : ∀ (u : State) dm i x w, only pl s0 u → only pl s0 ((u.setArr dm i x).writeBack dm i w) := fun u dm i x w k =>
    State.writeBack_only _ _ _ (parts_sub (by decide) hl) (State.setArr_only _ _ _ (parts_sub (by decide) hl) k)
  cases m with
  | bm b =>
    have k := State.bmTime_only b.val pb t (parts_sub (by decide) hl) hs0
    exact ite_onlyR (OnlyR.next hs0) (ite_onlyR (OnlyR.next k) (OnlyR.next (fin _ _ _ _ _ k)))
  | dm p =>
    have k := State.dmPass_only p.val (s.dmCap p.val pb 1) pb t hl hs0
    exact ite_onlyR (OnlyR.next hs0) (ite_onlyR (OnlyR.next k) (OnlyR.next (fin _ _ _ _ _ k)))

theorem State.dmNoc_only {s0 : State} {pl : List Part} {s : State} (p : Nat) (f : Flit) (us : List (BitVec 72)) (hl : [.regs, .freeCtr, .mem] ⊆ pl) (hs0 : only pl s0 s) : only pl s0 (State.dmNoc s p f us).2.2 := by
  unfold State.dmNoc
  repeat' with_reducible first | assumption | exact parts_sub (by with_unfolding_all decide) hl | apply State.mergeAct_only | apply State.queueWb_only | apply State.readWord_only | apply State.setArr_only | apply State.setMemW_only | apply State.upsetAt_only | apply State.wr_only | refine foldl_only _ _ (fun _ _ _ => ?_) ?_ | refine foldl_only1 _ _ (fun _ _ _ => ?_) ?_ | refine foldl_only2 _ _ (fun _ _ _ => ?_) ?_ | refine foldl_only22 _ _ (fun _ _ _ => ?_) ?_ | refine foldl_only21 _ _ (fun _ _ _ => ?_) ?_ | apply ite_only | apply ite_only1 | apply ite_only2 | apply ite_only22 | apply ite_only21 | dsimp only | intro _ _ _ _ | intro _ _ _ | intro _ _ | split | (apply only.lit <;> first | exact Or.inr rfl | exact Or.inl (parts_mem hl (by with_unfolding_all decide)) | skip) | refine only.eq2 (by assumption) ?_ | refine only.eq22 (by assumption) ?_ | refine only.eq1 (by assumption) ?_

theorem State.dmAnswer_only {s0 : State} {pl : List Part} {s : State} (p : Nat) (us : List (BitVec 72)) (takes : Bool) (hl : [.regs, .freeCtr, .noc, .span, .mem] ⊆ pl) (hs0 : only pl s0 s) : only pl s0 (State.dmAnswer s p us takes) := by
  unfold State.dmAnswer
  repeat' with_reducible first | assumption | exact parts_sub (by with_unfolding_all decide) hl | apply State.dmNoc_only | apply State.respond_only | apply State.setArr_only | refine foldl_only _ _ (fun _ _ _ => ?_) ?_ | refine foldl_only1 _ _ (fun _ _ _ => ?_) ?_ | refine foldl_only2 _ _ (fun _ _ _ => ?_) ?_ | refine foldl_only22 _ _ (fun _ _ _ => ?_) ?_ | refine foldl_only21 _ _ (fun _ _ _ => ?_) ?_ | apply ite_only | apply ite_only1 | apply ite_only2 | apply ite_only22 | apply ite_only21 | dsimp only | intro _ _ _ _ | intro _ _ _ | intro _ _ | split | (apply only.lit <;> first | exact Or.inr rfl | exact Or.inl (parts_mem hl (by with_unfolding_all decide)) | skip) | refine only.eq2 (by assumption) ?_ | refine only.eq22 (by assumption) ?_ | refine only.eq1 (by assumption) ?_

theorem execDmNocRequest_only {s0 : State} {pl : List Part} (p : Fin 112) (us : List (BitVec 72)) {s : State} (hl : [.regs, .freeCtr, .noc, .span, .mem] ⊆ pl) (hs0 : only pl s0 s) : OnlyR pl s0 (execDmNocRequest p us s) := by
  unfold execDmNocRequest
  repeat' with_reducible first | assumption | exact parts_sub (by with_unfolding_all decide) hl | exact only.refl _ _ | apply OnlyR.next | apply ite_onlyR | apply State.dmAnswer_only | apply ite_only | apply ite_only1 | apply ite_only2 | apply ite_only22 | apply ite_only21 | dsimp only | intro _ _ _ _ | intro _ _ _ | intro _ _ | split | (apply only.lit <;> first | exact Or.inr rfl | exact Or.inl (parts_mem hl (by with_unfolding_all decide)) | skip) | refine only.eq2 (by assumption) ?_ | refine only.eq22 (by assumption) ?_ | refine only.eq1 (by assumption) ?_

theorem execDmNocWaitExpiry_only {s0 : State} {pl : List Part} (p : Fin 112) (us : List (BitVec 72)) (waited : Nat) {s : State} (hl : [.regs, .freeCtr, .noc, .span, .mem] ⊆ pl) (hs0 : only pl s0 s) : OnlyR pl s0 (execDmNocWaitExpiry p us waited s) := by
  unfold execDmNocWaitExpiry
  repeat' with_reducible first | assumption | exact parts_sub (by with_unfolding_all decide) hl | exact only.refl _ _ | apply OnlyR.next | apply ite_onlyR | apply State.dmAnswer_only | apply ite_only | apply ite_only1 | apply ite_only2 | apply ite_only22 | apply ite_only21

theorem State.drainMem_only {s0 : State} {pl : List Part} {s : State} (dm : Bool) (i : Nat) (hl : [.regs, .freeCtr, .mem] ⊆ pl) (hs0 : only pl s0 s) : only pl s0 (State.drainMem s dm i) := by
  unfold State.drainMem
  repeat' with_reducible first | assumption | exact parts_sub (by with_unfolding_all decide) hl | apply State.bmCycle_only | apply State.bmLand_only | apply State.dmPerform_only | apply State.setArr_only | apply State.writeBack_only | refine foldl_only _ _ (fun _ _ _ => ?_) ?_ | refine foldl_only1 _ _ (fun _ _ _ => ?_) ?_ | refine foldl_only2 _ _ (fun _ _ _ => ?_) ?_ | refine foldl_only22 _ _ (fun _ _ _ => ?_) ?_ | refine foldl_only21 _ _ (fun _ _ _ => ?_) ?_ | apply ite_only | apply ite_only1 | apply ite_only2 | apply ite_only22 | apply ite_only21 | dsimp only | intro _ _ _ _ | intro _ _ _ | intro _ _ | (apply only.lit <;> first | exact Or.inr rfl | exact Or.inl (parts_mem hl (by with_unfolding_all decide)) | skip)

theorem State.holdMem_only {s0 : State} {pl : List Part} {s : State} (dm : Bool) (i : Nat) (hl : [.regs, .freeCtr, .mem] ⊆ pl) (hs0 : only pl s0 s) : only pl s0 (State.holdMem s dm i) := by
  unfold State.holdMem
  repeat' with_reducible first | assumption | exact parts_sub (by with_unfolding_all decide) hl | apply State.drainMem_only | apply State.setArr_only

theorem State.holdMems_only {s0 : State} {pl : List Part} {s : State} (p : Nat → Bool) (hl : [.regs, .freeCtr, .mem] ⊆ pl) (hs0 : only pl s0 s) : only pl s0 (State.holdMems s p) := by
  unfold State.holdMems
  repeat' with_reducible first | assumption | exact parts_sub (by with_unfolding_all decide) hl | apply State.holdMem_only | refine foldl_only _ _ (fun _ _ _ => ?_) ?_ | refine foldl_only1 _ _ (fun _ _ _ => ?_) ?_ | refine foldl_only2 _ _ (fun _ _ _ => ?_) ?_ | refine foldl_only22 _ _ (fun _ _ _ => ?_) ?_ | refine foldl_only21 _ _ (fun _ _ _ => ?_) ?_ | apply ite_only

theorem State.clearMems_only {s0 : State} {pl : List Part} {s : State} (p : Nat → Bool) (hl : [.mem] ⊆ pl) (hs0 : only pl s0 s) : only pl s0 (State.clearMems s p) := by
  unfold State.clearMems
  repeat' with_reducible first | assumption | exact parts_sub (by with_unfolding_all decide) hl | intro _ _ _ _ | intro _ _ _ | intro _ _ | (apply only.lit <;> first | exact Or.inr rfl | exact Or.inl (parts_mem hl (by with_unfolding_all decide)) | skip)

theorem State.readConfig_only {s0 : State} {pl : List Part} {s : State} (sec : Nat) (hl : [.slc, .mem] ⊆ pl) (hs0 : only pl s0 s) : only pl s0 (State.readConfig s sec) := by
  unfold State.readConfig
  repeat' with_reducible first | assumption | exact parts_sub (by with_unfolding_all decide) hl | refine foldl_only _ _ (fun _ _ _ => ?_) ?_ | refine foldl_only1 _ _ (fun _ _ _ => ?_) ?_ | refine foldl_only2 _ _ (fun _ _ _ => ?_) ?_ | refine foldl_only22 _ _ (fun _ _ _ => ?_) ?_ | refine foldl_only21 _ _ (fun _ _ _ => ?_) ?_ | apply ite_only | apply ite_only1 | apply ite_only2 | apply ite_only22 | apply ite_only21 | dsimp only | intro _ _ _ _ | intro _ _ _ | intro _ _ | (apply only.lit <;> first | exact Or.inr rfl | exact Or.inl (parts_mem hl (by with_unfolding_all decide)) | skip)

end Sys2Proof.Machine
end

