-- ==== Sys2Proof/Laws/Frame/Slices.lean ====
section
/-! SUPPORT. The frames of Machine/Slices.lean: which parts of the state each operation and each command may change. -/

namespace Sys2Proof.Machine


theorem State.setOpm_only {s0 : State} {pl : List Part} {s : State} (g a : Nat) (w : Option OpmW) (hl : [.slc] ⊆ pl) (hs0 : only pl s0 s) : only pl s0 (State.setOpm s g a w) := by
  unfold State.setOpm
  repeat' with_reducible first | assumption | exact parts_sub (by with_unfolding_all decide) hl | (apply only.lit <;> first | exact Or.inr rfl | exact Or.inl (parts_mem hl (by with_unfolding_all decide)) | skip)

theorem State.opmWrite_only {s0 : State} {pl : List Part} {s : State} (g a : Nat) (v : BitVec 36) (p : Bool) (hl : [.slc] ⊆ pl) (hs0 : only pl s0 s) : only pl s0 (State.opmWrite s g a v p) := by
  unfold State.opmWrite
  repeat' with_reducible first | assumption | exact parts_sub (by with_unfolding_all decide) hl | apply State.setOpm_only

theorem State.parityHit_only {s0 : State} {pl : List Part} {s : State} (g : Nat) (hl : [.regs, .ctrs, .mgt, .logs] ⊆ pl) (hs0 : only pl s0 s) : only pl s0 (State.parityHit s g) := by
  unfold State.parityHit
  repeat' with_reducible first | assumption | exact parts_sub (by with_unfolding_all decide) hl | apply State.bump_only | apply State.wrb_only

theorem State.opmRead_only {s0 : State} {pl : List Part} {s : State} (g a : Nat) (u : BitVec 37) (hl : [.regs, .ctrs, .mgt, .logs, .slc] ⊆ pl) (hs0 : only pl s0 s) : only pl s0 (State.opmRead s g a u).2.2 := by
  unfold State.opmRead
  repeat' with_reducible first | assumption | exact parts_sub (by with_unfolding_all decide) hl | apply State.parityHit_only | apply State.setOpm_only | apply ite_only

theorem State.setCoef_only {s0 : State} {pl : List Part} {s : State} (g n : Nat) (v : BitVec 27) (hl : [.cfg] ⊆ pl) (hs0 : only pl s0 s) : only pl s0 (State.setCoef s g n v) := by
  unfold State.setCoef
  repeat' with_reducible first | assumption | exact parts_sub (by with_unfolding_all decide) hl | apply State.setLive_only

theorem State.coefRead_only {s0 : State} {pl : List Part} {s : State} (g n : Nat) (u : BitVec 28) (hl : [.regs, .ctrs, .mgt, .logs, .cfg, .slc] ⊆ pl) (hs0 : only pl s0 s) : only pl s0 (State.coefRead s g n u).2.2 := by
  unfold State.coefRead
  repeat' with_reducible first | assumption | exact parts_sub (by with_unfolding_all decide) hl | apply State.parityHit_only | apply State.setCoef_only | apply ite_only | apply ite_only1 | apply ite_only2 | apply ite_only22 | apply ite_only21 | dsimp only | (apply only.lit <;> first | exact Or.inr rfl | exact Or.inl (parts_mem hl (by with_unfolding_all decide)) | skip)

theorem State.keepCoefPar_only {s0 : State} {pl : List Part} {s : State} (n : Nat) (new : Frame) (hl : [.slc] ⊆ pl) (hs0 : only pl s0 s) : only pl s0 (State.keepCoefPar s n new) := by
  unfold State.keepCoefPar
  repeat' with_reducible first | assumption | exact parts_sub (by with_unfolding_all decide) hl | refine foldl_only _ _ (fun _ _ _ => ?_) ?_ | refine foldl_only1 _ _ (fun _ _ _ => ?_) ?_ | refine foldl_only2 _ _ (fun _ _ _ => ?_) ?_ | refine foldl_only22 _ _ (fun _ _ _ => ?_) ?_ | refine foldl_only21 _ _ (fun _ _ _ => ?_) ?_ | apply ite_only | apply ite_only1 | apply ite_only2 | apply ite_only22 | apply ite_only21 | dsimp only | intro _ _ _ _ | intro _ _ _ | intro _ _ | split | (apply only.lit <;> first | exact Or.inr rfl | exact Or.inl (parts_mem hl (by with_unfolding_all decide)) | skip) | refine only.eq2 (by assumption) ?_ | refine only.eq22 (by assumption) ?_ | refine only.eq1 (by assumption) ?_

theorem State.freshCoefPar_only {s0 : State} {pl : List Part} {s : State} (n : Nat) (hl : [.slc] ⊆ pl) (hs0 : only pl s0 s) : only pl s0 (State.freshCoefPar s n) := by
  unfold State.freshCoefPar
  repeat' with_reducible first | assumption | exact parts_sub (by with_unfolding_all decide) hl | apply ite_only | apply ite_only1 | apply ite_only2 | apply ite_only22 | apply ite_only21 | dsimp only | intro _ _ _ _ | intro _ _ _ | intro _ _ | split | (apply only.lit <;> first | exact Or.inr rfl | exact Or.inl (parts_mem hl (by with_unfolding_all decide)) | skip) | refine only.eq2 (by assumption) ?_ | refine only.eq22 (by assumption) ?_ | refine only.eq1 (by assumption) ?_

theorem State.inspect_only {s0 : State} {pl : List Part} {s : State} (g slot : Nat) (u : BitVec 37) (uc : BitVec 28) (hl : [.regs, .ctrs, .mgt, .logs, .cfg, .slc] ⊆ pl) (hs0 : only pl s0 s) : only pl s0 (State.inspect s g slot u uc) := by
  unfold State.inspect
  repeat' with_reducible first | assumption | exact parts_sub (by with_unfolding_all decide) hl | apply State.coefRead_only | apply State.opmRead_only | apply State.opmWrite_only | apply State.parityHit_only | apply State.setSlice_only | apply State.wr_only | apply State.wrb_only | apply ite_only | apply ite_only1 | apply ite_only2 | apply ite_only22 | apply ite_only21 | dsimp only | split | (apply only.lit <;> first | exact Or.inr rfl | exact Or.inl (parts_mem hl (by with_unfolding_all decide)) | skip) | refine only.eq2 (by assumption) ?_ | refine only.eq22 (by assumption) ?_ | refine only.eq1 (by assumption) ?_

theorem State.closeCycle_only {s0 : State} {pl : List Part} {s : State} (g : Nat) (hl : [.regs, .ctrs, .mgt, .logs, .cfg, .slc] ⊆ pl) (hs0 : only pl s0 s) : only pl s0 (State.closeCycle s g) := by
  unfold State.closeCycle
  repeat' with_reducible first | assumption | exact parts_sub (by with_unfolding_all decide) hl | apply State.inspect_only | apply ite_only | apply ite_only1 | apply ite_only2 | apply ite_only22 | apply ite_only21 | split

theorem State.settle_only {s0 : State} {pl : List Part} {s : State} (g : Nat) (hl : [.regs, .ctrs, .mgt, .logs, .cfg, .slc] ⊆ pl) (hs0 : only pl s0 s) : only pl s0 (State.settle s g) := by
  unfold State.settle
  repeat' with_reducible first | assumption | exact parts_sub (by with_unfolding_all decide) hl | apply State.inspect_only | apply ite_only | apply ite_only1 | apply ite_only2 | apply ite_only22 | apply ite_only21 | dsimp only

theorem State.portP_only {s0 : State} {pl : List Part} {s : State} (g slot a : Nat) (we : Bool) (d : BitVec 36) (u : BitVec 37) (hl : [.regs, .ctrs, .mgt, .logs, .slc] ⊆ pl) (hs0 : only pl s0 s) : only pl s0 (State.portP s g slot a we d u) := by
  unfold State.portP
  repeat' with_reducible first | assumption | exact parts_sub (by with_unfolding_all decide) hl | apply State.bump_only | apply State.opmRead_only | apply State.opmWrite_only | apply State.parityHit_only | apply State.setSlice_only | apply State.wrb_only | apply ite_only | apply ite_only1 | apply ite_only2 | apply ite_only22 | apply ite_only21 | dsimp only | split | (apply only.lit <;> first | exact Or.inr rfl | exact Or.inl (parts_mem hl (by with_unfolding_all decide)) | skip) | refine only.eq2 (by assumption) ?_ | refine only.eq22 (by assumption) ?_ | refine only.eq1 (by assumption) ?_

theorem State.stallCycle_only {s0 : State} {pl : List Part} {s : State} (g cause : Nat) (hl : [.regs, .ctrs, .mgt, .logs, .cfg, .slc] ⊆ pl) (hs0 : only pl s0 s) : only pl s0 (State.stallCycle s g cause) := by
  unfold State.stallCycle
  repeat' with_reducible first | assumption | exact parts_sub (by with_unfolding_all decide) hl | apply State.bump_only | apply State.setSlice_only | apply State.settle_only | apply ite_only | apply ite_only1 | apply ite_only2 | apply ite_only22 | apply ite_only21 | dsimp only | (apply only.lit <;> first | exact Or.inr rfl | exact Or.inl (parts_mem hl (by with_unfolding_all decide)) | skip)

/-- What an instruction leaves, if it issues, differs in the listed parts only. -/
def IssueOnly (pl : List Part) (s0 : State) (i : Issue) : Prop := ∀ t y f l j d, i = .ok t y f l j d → only pl s0 t

theorem IssueOnly.stall {pl : List Part} {s0 : State} {c : Nat} : IssueOnly pl s0 (.stall c) :=
  fun _ _ _ _ _ _ e => nomatch e

theorem IssueOnly.ok {pl : List Part} {s0 s : State} {x : SliceSt} {f : List Nat} {l : Option (Nat × Option OpmW)}
    {j : Option Nat} {d : Bool} (h : only pl s0 s) : IssueOnly pl s0 (.ok s x f l j d) :=
  fun _ _ _ _ _ _ e => (Issue.ok.inj e).1 ▸ h

theorem ite_issueOnly {pl : List Part} {s0 : State} {a b : Issue} {c : Prop} [Decidable c] (ha : IssueOnly pl s0 a)
    (hb : IssueOnly pl s0 b) : IssueOnly pl s0 (if c then a else b) := by
  split <;> assumption

theorem State.issueOp_only {s0 s : State} {pl : List Part} (g op : Nat) (body : State → SliceSt → Word → Issue)
    (hl : [.regs, .ctrs, .mgt, .logs, .cfg, .slc] ⊆ pl) (hb : ∀ s x w, only pl s0 s → IssueOnly pl s0 (body s x w)) (h : only pl s0 s) :
    only pl s0 (State.issueOp s g op body) := by
  have c := State.closeCycle_only (pl := pl) g (parts_sub (by decide) hl) h
  unfold State.issueOp
  refine ite_only h ?_
  dsimp only
  split
  · exact State.stallCycle_only _ _ (parts_sub (by decide) hl) c
  · rename_i e
    exact State.settle_only _ (parts_sub (by decide) hl) (State.setSlice_only _ _ (parts_sub (by decide) hl) (hb _ _ _ c _ _ _ _ _ _ e))

theorem State.fpFlags_only {s0 : State} {pl : List Part} {s : State} (g : Nat) (f : FpFlags) (hl : [.regs] ⊆ pl) (hs0 : only pl s0 s) : only pl s0 (State.fpFlags s g f) := by
  unfold State.fpFlags
  repeat' with_reducible first | assumption | exact parts_sub (by with_unfolding_all decide) hl | apply State.wrb_only | apply ite_only

theorem State.fpResult_only {s0 : State} {pl : List Part} {s : State} (g : Nat) (v : FpVal) (hl : [.regs, .freeCtr] ⊆ pl) (hs0 : only pl s0 s) : only pl s0 (State.fpResult s g v).2 := by
  unfold State.fpResult
  repeat' with_reducible first | assumption | exact parts_sub (by with_unfolding_all decide) hl | apply State.fpFlags_only | apply State.fresh_only | dsimp only | split

theorem State.macAcc_only {s0 : State} {pl : List Part} {s : State} (g : Nat) (x : SliceSt) (w : Word) (a b : Option (BitVec 36)) (poison : Bool) (hl : [.regs, .freeCtr] ⊆ pl) (hs0 : only pl s0 s) : only pl s0 (State.macAcc s g x w a b poison).2 := by
  unfold State.macAcc
  repeat' with_reducible first | assumption | exact parts_sub (by with_unfolding_all decide) hl | apply State.fpResult_only | apply State.wrb_only | refine foldl_only _ _ (fun _ _ _ => ?_) ?_ | refine foldl_only1 _ _ (fun _ _ _ => ?_) ?_ | refine foldl_only2 _ _ (fun _ _ _ => ?_) ?_ | refine foldl_only22 _ _ (fun _ _ _ => ?_) ?_ | refine foldl_only21 _ _ (fun _ _ _ => ?_) ?_ | apply ite_only | apply ite_only1 | apply ite_only2

theorem execSliceNop_only {s0 : State} {pl : List Part} (g : Fin 10752) {s : State} (hl : [.regs, .ctrs, .mgt, .logs, .cfg, .slc] ⊆ pl) (hs0 : only pl s0 s) : OnlyR pl s0 (execSliceNop g s) := by
  unfold execSliceNop
  repeat' with_reducible first | assumption | exact parts_sub (by with_unfolding_all decide) hl | exact only.refl _ _ | apply OnlyR.next | apply ite_onlyR | apply State.issueOp_only | exact IssueOnly.stall | apply IssueOnly.ok | apply ite_issueOnly | refine fun _ _ _ _ => ?_

theorem execSliceTap_only {s0 : State} {pl : List Part} (g : Fin 10752) (ua : BitVec 37) (uc : BitVec 28) {s : State} (hl : [.regs, .ctrs, .freeCtr, .mgt, .logs, .cfg, .slc] ⊆ pl) (hs0 : only pl s0 s) : OnlyR pl s0 (execSliceTap g ua uc s) := by
  unfold execSliceTap
  repeat' with_reducible first | assumption | exact parts_sub (by with_unfolding_all decide) hl | exact only.refl _ _ | apply OnlyR.next | apply ite_onlyR | apply State.coefRead_only | apply State.issueOp_only | apply State.macAcc_only | apply State.opmRead_only | apply State.opmWrite_only | dsimp only | exact IssueOnly.stall | apply IssueOnly.ok | apply ite_issueOnly | refine fun _ _ _ _ => ?_

theorem execSliceMac_only {s0 : State} {pl : List Part} (g : Fin 10752) (ua ub : BitVec 37) (uc : BitVec 28) {s : State} (hl : [.regs, .ctrs, .freeCtr, .mgt, .logs, .cfg, .slc] ⊆ pl) (hs0 : only pl s0 s) : OnlyR pl s0 (execSliceMac g ua ub uc s) := by
  unfold execSliceMac
  repeat' with_reducible first | assumption | exact parts_sub (by with_unfolding_all decide) hl | exact only.refl _ _ | apply OnlyR.next | apply ite_onlyR | apply State.coefRead_only | apply State.issueOp_only | apply State.macAcc_only | apply State.opmRead_only | apply ite_only | apply ite_only1 | apply ite_only2 | apply ite_only22 | apply ite_only21 | dsimp only | split | exact IssueOnly.stall | apply IssueOnly.ok | apply ite_issueOnly | refine fun _ _ _ _ => ?_

theorem execSliceIn_only {s0 : State} {pl : List Part} (g : Fin 10752) {s : State} (hl : [.regs, .ctrs, .mgt, .logs, .cfg, .slc] ⊆ pl) (hs0 : only pl s0 s) : OnlyR pl s0 (execSliceIn g s) := by
  unfold execSliceIn
  repeat' with_reducible first | assumption | exact parts_sub (by with_unfolding_all decide) hl | exact only.refl _ _ | apply OnlyR.next | apply ite_onlyR | apply State.issueOp_only | apply State.opmWrite_only | dsimp only | split | exact IssueOnly.stall | apply IssueOnly.ok | apply ite_issueOnly | refine fun _ _ _ _ => ?_

theorem execSliceOut_only {s0 : State} {pl : List Part} (g : Fin 10752) {s : State} (hl : [.regs, .ctrs, .mgt, .logs, .cfg, .slc] ⊆ pl) (hs0 : only pl s0 s) : OnlyR pl s0 (execSliceOut g s) := by
  unfold execSliceOut
  repeat' with_reducible first | assumption | exact parts_sub (by with_unfolding_all decide) hl | exact only.refl _ _ | apply OnlyR.next | apply ite_onlyR | apply State.issueOp_only | apply State.opmWrite_only | apply State.wrb_only | apply ite_only | apply ite_only1 | apply ite_only2 | apply ite_only22 | apply ite_only21 | dsimp only | exact IssueOnly.stall | apply IssueOnly.ok | apply ite_issueOnly | refine fun _ _ _ _ => ?_

theorem execSliceLda_only {s0 : State} {pl : List Part} (g : Fin 10752) (ua : BitVec 37) {s : State} (hl : [.regs, .ctrs, .mgt, .logs, .cfg, .slc] ⊆ pl) (hs0 : only pl s0 s) : OnlyR pl s0 (execSliceLda g ua s) := by
  unfold execSliceLda
  repeat' with_reducible first | assumption | exact parts_sub (by with_unfolding_all decide) hl | exact only.refl _ _ | apply OnlyR.next | apply ite_onlyR | apply State.issueOp_only | apply State.opmRead_only | apply ite_only | apply ite_only1 | apply ite_only2 | apply ite_only22 | apply ite_only21 | dsimp only | split | exact IssueOnly.stall | apply IssueOnly.ok | apply ite_issueOnly | refine fun _ _ _ _ => ?_

theorem execSliceLdc_only {s0 : State} {pl : List Part} (g : Fin 10752) (ua : BitVec 37) {s : State} (hl : [.regs, .ctrs, .mgt, .logs, .cfg, .slc] ⊆ pl) (hs0 : only pl s0 s) : OnlyR pl s0 (execSliceLdc g ua s) := by
  unfold execSliceLdc
  repeat' with_reducible first | assumption | exact parts_sub (by with_unfolding_all decide) hl | exact only.refl _ _ | apply OnlyR.next | apply ite_onlyR | apply State.issueOp_only | apply State.opmRead_only | apply State.setCoef_only | apply ite_only | apply ite_only1 | apply ite_only2 | apply ite_only22 | apply ite_only21 | dsimp only | split | (apply only.lit <;> first | exact Or.inr rfl | exact Or.inl (parts_mem hl (by with_unfolding_all decide)) | skip) | exact IssueOnly.stall | apply IssueOnly.ok | apply ite_issueOnly | refine fun _ _ _ _ => ?_

theorem execSliceCas_only {s0 : State} {pl : List Part} (g : Fin 10752) {s : State} (hl : [.regs, .ctrs, .freeCtr, .mgt, .logs, .cfg, .slc] ⊆ pl) (hs0 : only pl s0 s) : OnlyR pl s0 (execSliceCas g s) := by
  unfold execSliceCas
  repeat' with_reducible first | assumption | exact parts_sub (by with_unfolding_all decide) hl | exact only.refl _ _ | apply OnlyR.next | apply ite_onlyR | apply State.fpResult_only | apply State.issueOp_only | apply State.wrb_only | apply ite_only | apply ite_only1 | apply ite_only2 | apply ite_only22 | apply ite_only21 | dsimp only | exact IssueOnly.stall | apply IssueOnly.ok | apply ite_issueOnly | refine fun _ _ _ _ => ?_

theorem execSliceLoop_only {s0 : State} {pl : List Part} (g : Fin 10752) {s : State} (hl : [.regs, .ctrs, .mgt, .logs, .cfg, .slc] ⊆ pl) (hs0 : only pl s0 s) : OnlyR pl s0 (execSliceLoop g s) := by
  unfold execSliceLoop
  repeat' with_reducible first | assumption | exact parts_sub (by with_unfolding_all decide) hl | exact only.refl _ _ | apply OnlyR.next | apply ite_onlyR | apply State.issueOp_only | exact IssueOnly.stall | apply IssueOnly.ok | apply ite_issueOnly | refine fun _ _ _ _ => ?_

theorem execSliceJmp_only {s0 : State} {pl : List Part} (g : Fin 10752) (ci : BitVec 4) (src : PortSrc) {s : State} (hl : [.regs, .ctrs, .freeCtr, .mgt, .logs, .cfg, .slc] ⊆ pl) (hs0 : only pl s0 s) : OnlyR pl s0 (execSliceJmp g ci src s) := by
  unfold execSliceJmp
  repeat' with_reducible first | assumption | exact parts_sub (by with_unfolding_all decide) hl | exact only.refl _ _ | apply OnlyR.next | apply ite_onlyR | apply State.drawFor_only | apply State.issueOp_only | exact IssueOnly.stall | apply IssueOnly.ok | apply ite_issueOnly | refine fun _ _ _ _ => ?_ | apply ite_only | apply ite_only1 | apply ite_only2 | apply ite_only22 | apply ite_only21 | dsimp only | split | refine only.eq2 (by assumption) ?_ | refine only.eq22 (by assumption) ?_ | refine only.eq1 (by assumption) ?_

theorem execSliceSetag_only {s0 : State} {pl : List Part} (g : Fin 10752) {s : State} (hl : [.regs, .ctrs, .mgt, .logs, .cfg, .slc] ⊆ pl) (hs0 : only pl s0 s) : OnlyR pl s0 (execSliceSetag g s) := by
  unfold execSliceSetag
  repeat' with_reducible first | assumption | exact parts_sub (by with_unfolding_all decide) hl | exact only.refl _ _ | apply OnlyR.next | apply ite_onlyR | apply State.issueOp_only | dsimp only | split | exact IssueOnly.stall | apply IssueOnly.ok | apply ite_issueOnly | refine fun _ _ _ _ => ?_

theorem execSliceWait_only {s0 : State} {pl : List Part} (g : Fin 10752) (ci : BitVec 4) (src : PortSrc) {s : State} (hl : [.regs, .ctrs, .freeCtr, .mgt, .logs, .cfg, .slc] ⊆ pl) (hs0 : only pl s0 s) : OnlyR pl s0 (execSliceWait g ci src s) := by
  unfold execSliceWait
  repeat' with_reducible first | assumption | exact parts_sub (by with_unfolding_all decide) hl | exact only.refl _ _ | apply OnlyR.next | apply ite_onlyR | apply State.drawFor_only | apply State.issueOp_only | exact IssueOnly.stall | apply IssueOnly.ok | apply ite_issueOnly | refine fun _ _ _ _ => ?_ | apply ite_only | apply ite_only1 | apply ite_only2 | apply ite_only22 | apply ite_only21 | dsimp only | split | refine only.eq2 (by assumption) ?_ | refine only.eq22 (by assumption) ?_ | refine only.eq1 (by assumption) ?_

theorem execSliceHalt_only {s0 : State} {pl : List Part} (g : Fin 10752) {s : State} (hl : [.regs, .ctrs, .mgt, .logs, .cfg, .slc] ⊆ pl) (hs0 : only pl s0 s) : OnlyR pl s0 (execSliceHalt g s) := by
  unfold execSliceHalt
  repeat' with_reducible first | assumption | exact parts_sub (by with_unfolding_all decide) hl | exact only.refl _ _ | apply OnlyR.next | apply ite_onlyR | apply State.issueOp_only | exact IssueOnly.stall | apply IssueOnly.ok | apply ite_issueOnly | refine fun _ _ _ _ => ?_

theorem execSliceSig_only {s0 : State} {pl : List Part} (g : Fin 10752) {s : State} (hl : [.regs, .ctrs, .mgt, .logs, .cfg, .slc] ⊆ pl) (hs0 : only pl s0 s) : OnlyR pl s0 (execSliceSig g s) := by
  unfold execSliceSig
  repeat' with_reducible first | assumption | exact parts_sub (by with_unfolding_all decide) hl | exact only.refl _ _ | apply OnlyR.next | apply ite_onlyR | apply State.issueOp_only | exact IssueOnly.stall | apply IssueOnly.ok | apply ite_issueOnly | refine fun _ _ _ _ => ?_

theorem execIllegalInstruction_only {s0 : State} {pl : List Part} (g : Fin 10752) {s : State} (hl : [.regs, .ctrs, .mgt, .logs, .cfg, .slc] ⊆ pl) (hs0 : only pl s0 s) : OnlyR pl s0 (execIllegalInstruction g s) := by
  unfold execIllegalInstruction
  repeat' with_reducible first | assumption | exact parts_sub (by with_unfolding_all decide) hl | exact only.refl _ _ | apply OnlyR.next | apply ite_onlyR | apply State.closeCycle_only | apply State.setSlice_only | apply State.settle_only | apply State.wrb_only | apply ite_only | apply ite_only1 | apply ite_only2 | apply ite_only22 | apply ite_only21 | dsimp only | (apply only.lit <;> first | exact Or.inr rfl | exact Or.inl (parts_mem hl (by with_unfolding_all decide)) | skip)

theorem execSliceStart_only {s0 : State} {pl : List Part} (g : Fin 10752) (src : PortSrc) {s : State} (hl : [.freeCtr, .slc] ⊆ pl) (hs0 : only pl s0 s) : OnlyR pl s0 (execSliceStart g src s) := by
  unfold execSliceStart
  repeat' with_reducible first | assumption | exact parts_sub (by with_unfolding_all decide) hl | exact only.refl _ _ | apply OnlyR.next | apply ite_onlyR | apply State.drawFor_only | apply State.setSlice_only | apply ite_only | apply ite_only1 | apply ite_only2 | apply ite_only22 | apply ite_only21 | dsimp only | split | (apply only.lit <;> first | exact Or.inr rfl | exact Or.inl (parts_mem hl (by with_unfolding_all decide)) | skip) | refine only.eq2 (by assumption) ?_ | refine only.eq22 (by assumption) ?_ | refine only.eq1 (by assumption) ?_

theorem execTrigInput_only {s0 : State} {pl : List Part} (g : Fin 10752) (src : PortSrc) {s : State} (hl : [.freeCtr, .slc] ⊆ pl) (hs0 : only pl s0 s) : OnlyR pl s0 (execTrigInput g src s) := by
  unfold execTrigInput
  repeat' with_reducible first | assumption | exact parts_sub (by with_unfolding_all decide) hl | exact only.refl _ _ | apply OnlyR.next | apply ite_onlyR | apply State.drawFor_only | apply State.setSlice_only | apply ite_only | apply ite_only1 | apply ite_only2 | apply ite_only22 | apply ite_only21 | dsimp only | split | (apply only.lit <;> first | exact Or.inr rfl | exact Or.inl (parts_mem hl (by with_unfolding_all decide)) | skip) | refine only.eq2 (by assumption) ?_ | refine only.eq22 (by assumption) ?_ | refine only.eq1 (by assumption) ?_

theorem execXCapture_only {s0 : State} {pl : List Part} (g : Fin 10752) (x : BitVec 36) (p : Bool) (src : PortSrc) {s : State} (hl : [.freeCtr, .slc] ⊆ pl) (hs0 : only pl s0 s) : OnlyR pl s0 (execXCapture g x p src s) := by
  unfold execXCapture
  repeat' with_reducible first | assumption | exact parts_sub (by with_unfolding_all decide) hl | exact only.refl _ _ | apply OnlyR.next | apply ite_onlyR | apply State.drawFor_only | apply State.setSlice_only | apply ite_only | apply ite_only1 | apply ite_only2 | apply ite_only22 | apply ite_only21 | dsimp only | split | (apply only.lit <;> first | exact Or.inr rfl | exact Or.inl (parts_mem hl (by with_unfolding_all decide)) | skip) | refine only.eq2 (by assumption) ?_ | refine only.eq22 (by assumption) ?_ | refine only.eq1 (by assumption) ?_

theorem execYDeliver_only {s0 : State} {pl : List Part} (g : Fin 10752) (src : PortSrc) {s : State} (hl : [.freeCtr, .slc] ⊆ pl) (hs0 : only pl s0 s) : OnlyR pl s0 (execYDeliver g src s) := by
  unfold execYDeliver
  repeat' with_reducible first | assumption | exact parts_sub (by with_unfolding_all decide) hl | exact only.refl _ _ | apply OnlyR.next | apply ite_onlyR | apply State.drawFor_only | apply State.setSlice_only | apply ite_only | apply ite_only1 | apply ite_only2 | apply ite_only22 | apply ite_only21 | dsimp only | split | (apply only.lit <;> first | exact Or.inr rfl | exact Or.inl (parts_mem hl (by with_unfolding_all decide)) | skip) | refine only.eq2 (by assumption) ?_ | refine only.eq22 (by assumption) ?_ | refine only.eq1 (by assumption) ?_

theorem State.portDo_only {s0 : State} {pl : List Part} {s : State} (src : PortSrc) (d g slot : Nat) (a : BitVec 10) (we : Bool) (w : BitVec 36) (u : BitVec 37) (hl : [.regs, .ctrs, .mgt, .logs, .slc] ⊆ pl) (hs0 : only pl s0 s) : only pl s0 (State.portDo s src d g slot a we w u) := by
  unfold State.portDo
  repeat' with_reducible first | assumption | exact parts_sub (by with_unfolding_all decide) hl | apply State.portP_only | dsimp only

theorem execPortPAccess_only {s0 : State} {pl : List Part} (g : Fin 10752) (a : BitVec 10) (we : Bool) (d : BitVec 36) (u : BitVec 37) (src : PortSrc) {s : State} (hl : [.regs, .ctrs, .freeCtr, .mgt, .logs, .slc] ⊆ pl) (hs0 : only pl s0 s) : OnlyR pl s0 (execPortPAccess g a we d u src s) := by
  unfold execPortPAccess
  repeat' with_reducible first | assumption | exact parts_sub (by with_unfolding_all decide) hl | exact only.refl _ _ | apply OnlyR.next | apply ite_onlyR | apply State.drawFor_only | apply State.portDo_only | apply State.setSlice_only | apply ite_only | apply ite_only1 | apply ite_only2 | apply ite_only22 | apply ite_only21 | dsimp only | split | (apply only.lit <;> first | exact Or.inr rfl | exact Or.inl (parts_mem hl (by with_unfolding_all decide)) | skip) | refine only.eq2 (by assumption) ?_ | refine only.eq22 (by assumption) ?_ | refine only.eq1 (by assumption) ?_

theorem execPortPSteal_only {s0 : State} {pl : List Part} (g : Fin 10752) (a : BitVec 10) (we : Bool) (d : BitVec 36) (u : BitVec 37) (src : PortSrc) {s : State} (hl : [.regs, .ctrs, .freeCtr, .mgt, .logs, .cfg, .slc] ⊆ pl) (hs0 : only pl s0 s) : OnlyR pl s0 (execPortPSteal g a we d u src s) := by
  unfold execPortPSteal
  repeat' with_reducible first | assumption | exact parts_sub (by with_unfolding_all decide) hl | exact only.refl _ _ | apply OnlyR.next | apply ite_onlyR | apply State.drawFor_only | apply State.portDo_only | apply State.stallCycle_only | apply ite_only | apply ite_only1 | apply ite_only2 | apply ite_only22 | apply ite_only21 | dsimp only | split | refine only.eq2 (by assumption) ?_ | refine only.eq22 (by assumption) ?_ | refine only.eq1 (by assumption) ?_

theorem execInspectionSteal_only {s0 : State} {pl : List Part} (g : Fin 10752) (u : BitVec 37) (uc : BitVec 28) {s : State} (hl : [.regs, .ctrs, .mgt, .logs, .cfg, .slc] ⊆ pl) (hs0 : only pl s0 s) : OnlyR pl s0 (execInspectionSteal g u uc s) := by
  unfold execInspectionSteal
  repeat' with_reducible first | assumption | exact parts_sub (by with_unfolding_all decide) hl | exact only.refl _ _ | apply OnlyR.next | apply ite_onlyR | apply State.inspect_only | apply State.stallCycle_only | apply ite_only | apply ite_only1 | apply ite_only2 | apply ite_only22 | apply ite_only21 | dsimp only

theorem State.slcCtlWrite_only {s0 : State} {pl : List Part} {s : State} (g : Nat) (w : Word) (hl : [.regs, .ctrs, .mgt, .logs, .cfg, .slc] ⊆ pl) (hs0 : only pl s0 s) : only pl s0 (State.slcCtlWrite s g w) := by
  unfold State.slcCtlWrite
  repeat' with_reducible first | assumption | exact parts_sub (by with_unfolding_all decide) hl | apply State.setSlice_only | apply State.settle_only | apply ite_only | apply ite_only1 | apply ite_only2 | apply ite_only22 | apply ite_only21 | dsimp only | (apply only.lit <;> first | exact Or.inr rfl | exact Or.inl (parts_mem hl (by with_unfolding_all decide)) | skip)

theorem State.slcFlagsWrite_only {s0 : State} {pl : List Part} {s : State} (g : Nat) (w : Word) (hl : [.regs, .slc] ⊆ pl) (hs0 : only pl s0 s) : only pl s0 (State.slcFlagsWrite s g w) := by
  unfold State.slcFlagsWrite
  repeat' with_reducible first | assumption | exact parts_sub (by with_unfolding_all decide) hl | apply State.setReg_only | apply State.setSlice_only | apply ite_only

theorem State.inspWrite_only {s0 : State} {pl : List Part} {s : State} (g : Nat) (w : Word) (hl : [.regs, .ctrs, .mgt, .logs, .cfg, .slc] ⊆ pl) (hs0 : only pl s0 s) : OnlyO pl s0 (State.inspWrite s g w) := by
  unfold State.inspWrite
  repeat' with_reducible first | assumption | exact parts_sub (by with_unfolding_all decide) hl | exact OnlyO.none | apply OnlyO.some | apply ite_onlyO | apply State.inspect_only | apply State.setReg_only | apply State.wrb_only | apply ite_only | apply ite_only1 | apply ite_only2 | apply ite_only22 | apply ite_only21 | dsimp only

theorem State.holdSlices_only {s0 : State} {pl : List Part} {s : State} (p : Nat → Bool) (hl : [.regs, .latches, .slc] ⊆ pl) (hs0 : only pl s0 s) : only pl s0 (State.holdSlices s p) := by
  unfold State.holdSlices
  repeat' with_reducible first | assumption | exact parts_sub (by with_unfolding_all decide) hl | dsimp only | intro _ _ _ _ | intro _ _ _ | intro _ _ | (apply only.lit <;> first | exact Or.inr rfl | exact Or.inl (parts_mem hl (by with_unfolding_all decide)) | skip)

theorem State.releaseSector_only {s0 : State} {pl : List Part} {s : State} (sec : Nat) (hl : [.slc] ⊆ pl) (hs0 : only pl s0 s) : only pl s0 (State.releaseSector s sec) := by
  unfold State.releaseSector
  repeat' with_reducible first | assumption | exact parts_sub (by with_unfolding_all decide) hl | apply State.setSlice_only | refine foldl_only _ _ (fun _ _ _ => ?_) ?_

theorem State.clearOpm_only {s0 : State} {pl : List Part} {s : State} (p : Nat → Bool) (hl : [.slc] ⊆ pl) (hs0 : only pl s0 s) : only pl s0 (State.clearOpm s p) := by
  unfold State.clearOpm
  repeat' with_reducible first | assumption | exact parts_sub (by with_unfolding_all decide) hl | intro _ _ _ _ | intro _ _ _ | intro _ _ | (apply only.lit <;> first | exact Or.inr rfl | exact Or.inl (parts_mem hl (by with_unfolding_all decide)) | skip)

end Sys2Proof.Machine
end

