-- ==== Sys2Proof/Laws/Frame/Planes.lean ====
section
/-! SUPPORT. The frames of Machine/Planes.lean: which parts of the state each operation and each command may change. -/

namespace Sys2Proof.Machine


theorem State.setRole_only {s0 : State} {pl : List Part} {s : State} (v : Nat) (r : Role) (hl : [.cfg] ⊆ pl) (hs0 : only pl s0 s) : only pl s0 (State.setRole s v r) := by
  unfold State.setRole
  repeat' with_reducible first | assumption | exact parts_sub (by with_unfolding_all decide) hl | (apply only.lit <;> first | exact Or.inr rfl | exact Or.inl (parts_mem hl (by with_unfolding_all decide)) | skip)

theorem State.setStandby_only {s0 : State} {pl : List Part} {s : State} (v : Nat) (b : Bool) (hl : [.cfg] ⊆ pl) (hs0 : only pl s0 s) : only pl s0 (State.setStandby s v b) := by
  unfold State.setStandby
  repeat' with_reducible first | assumption | exact parts_sub (by with_unfolding_all decide) hl | apply State.setRole_only

theorem State.showSwaps_only {s0 : State} {pl : List Part} {s : State} (hl : [.regs, .ctrs, .mgt, .logs] ⊆ pl) (hs0 : only pl s0 s) : only pl s0 (State.showSwaps s) := by
  unfold State.showSwaps
  repeat' with_reducible first | assumption | exact parts_sub (by with_unfolding_all decide) hl | apply State.settleMode_only | apply State.wr_only | apply State.wrb_only | refine foldl_only _ _ (fun _ _ _ => ?_) ?_

theorem State.setVol_only {s0 : State} {pl : List Part} {s : State} (n : Nat) (b : Bool) (hl : [.cfg] ⊆ pl) (hs0 : only pl s0 s) : only pl s0 (State.setVol s n b) := by
  unfold State.setVol
  repeat' with_reducible first | assumption | exact parts_sub (by with_unfolding_all decide) hl | (apply only.lit <;> first | exact Or.inl (parts_mem hl (by with_unfolding_all decide)) | exact Or.inr rfl | skip)

theorem State.setUnrest_only {s0 : State} {pl : List Part} {s : State} (n : Nat) (b : Bool) (hl : [.cfg] ⊆ pl) (hs0 : only pl s0 s) : only pl s0 (State.setUnrest s n b) := by
  unfold State.setUnrest
  repeat' with_reducible first | assumption | exact parts_sub (by with_unfolding_all decide) hl | (apply only.lit <;> first | exact Or.inl (parts_mem hl (by with_unfolding_all decide)) | exact Or.inr rfl | skip)

theorem State.setPerr_only {s0 : State} {pl : List Part} {s : State} (n : Nat) (k : Nat) (hl : [.cfg] ⊆ pl) (hs0 : only pl s0 s) : only pl s0 (State.setPerr s n k) := by
  unfold State.setPerr
  repeat' with_reducible first | assumption | exact parts_sub (by with_unfolding_all decide) hl | (apply only.lit <;> first | exact Or.inr rfl | exact Or.inl (parts_mem hl (by with_unfolding_all decide)) | skip)

theorem State.freePlane_only {s0 : State} {pl : List Part} {s : State} (p : Bool) (n : Nat) (hl : [.freeCtr, .cfg] ⊆ pl) (hs0 : only pl s0 s) : only pl s0 (State.freePlane s p n) := by
  unfold State.freePlane
  repeat' with_reducible first | assumption | exact parts_sub (by with_unfolding_all decide) hl | apply State.setPlane_only | dsimp only | intro _ _ _ _ | intro _ _ _ | intro _ _ | (apply only.lit <;> first | exact Or.inr rfl | exact Or.inl (parts_mem hl (by with_unfolding_all decide)) | skip)

theorem State.setShadow_only {s0 : State} {pl : List Part} {s : State} (n : Nat) (f : Option Frame) (hl : [.cfg] ⊆ pl) (hs0 : only pl s0 s) : only pl s0 (State.setShadow s n f) := by
  unfold State.setShadow
  repeat' with_reducible first | assumption | exact parts_sub (by with_unfolding_all decide) hl | (apply only.lit <;> first | exact Or.inl (parts_mem hl (by with_unfolding_all decide)) | exact Or.inr rfl | skip)

theorem State.disturb_only {s0 : State} {pl : List Part} {s : State} (n : Nat) (f : Frame) (hl : [.cfg, .fab, .slc] ⊆ pl) (hs0 : only pl s0 s) : only pl s0 (State.disturb s n f) := by
  unfold State.disturb
  repeat' with_reducible first | assumption | exact parts_sub (by with_unfolding_all decide) hl | apply State.keepCoefPar_only | apply State.pinFrame_only | apply State.setLive_only | apply ite_only | apply ite_only1 | apply ite_only2 | apply ite_only22 | apply ite_only21

theorem State.loadLive_only {s0 : State} {pl : List Part} {s : State} (n : Nat) (f : Frame) (hl : [.cfg, .slc] ⊆ pl) (hs0 : only pl s0 s) : only pl s0 (State.loadLive s n f) := by
  unfold State.loadLive
  repeat' with_reducible first | assumption | exact parts_sub (by with_unfolding_all decide) hl | apply State.freshCoefPar_only | apply State.setLive_only

theorem State.dropRepairs_only {s0 : State} {pl : List Part} {s : State} (p : Nat → Bool) (hl : [.churn] ⊆ pl) (hs0 : only pl s0 s) : only pl s0 (State.dropRepairs s p) := by
  unfold State.dropRepairs
  repeat' with_reducible first | assumption | exact parts_sub (by with_unfolding_all decide) hl | intro _ _ _ _ | intro _ _ _ | intro _ _ | split | (apply only.lit <;> first | exact Or.inr rfl | exact Or.inl (parts_mem hl (by with_unfolding_all decide)) | skip) | refine only.eq2 (by assumption) ?_ | refine only.eq22 (by assumption) ?_ | refine only.eq1 (by assumption) ?_

end Sys2Proof.Machine
end

