-- ==== Sys2Proof/Laws/Frame/Scratch.lean ====
section
/-! SUPPORT. The frames of Machine/Scratch.lean: which parts of the state each operation and each command may change. -/

namespace Sys2Proof.Machine

theorem State.setScrWord_only {s0 : State} {pl : List Part} {s : State} (k : Nat) (w : Option BmW) (hl : [.scr] ⊆ pl) (hs0 : only pl s0 s) : only pl s0 (State.setScrWord s k w) := by
  unfold State.setScrWord
  repeat' with_reducible first | assumption | exact parts_sub (by with_unfolding_all decide) hl | (apply only.lit <;> first | exact Or.inr rfl | exact Or.inl (parts_mem hl (by with_unfolding_all decide)) | skip)

theorem State.scrRead_only {s0 : State} {pl : List Part} {s : State} (k : Nat) (u : BitVec 72) (hl : [.ctrs, .freeCtr, .mgt, .logs, .scr] ⊆ pl) (hs0 : only pl s0 s) : only pl s0 (State.scrRead s k u).2.2 := by
  unfold State.scrRead
  repeat' with_reducible first | assumption | exact parts_sub (by with_unfolding_all decide) hl | apply State.bump_only | apply State.readWord_only | apply State.setScrWord_only | apply ite_only

theorem State.scrWrite_only {s0 : State} {pl : List Part} {s : State} (k : Nat) (m v : BitVec 72) (poison : Bool) (u : BitVec 72) (hl : [.ctrs, .freeCtr, .mgt, .logs, .scr] ⊆ pl) (hs0 : only pl s0 s) : only pl s0 (State.scrWrite s k m v poison u) := by
  unfold State.scrWrite
  repeat' with_reducible first | assumption | exact parts_sub (by with_unfolding_all decide) hl | apply State.scrRead_only | apply State.setScrWord_only | apply ite_only

theorem State.scrServe_only {s0 : State} {pl : List Part} {s : State} (i : Nat) (f : Flit) (us : List (BitVec 72)) (hl : [.ctrs, .freeCtr, .mgt, .logs, .scr] ⊆ pl) (hs0 : only pl s0 s) : only pl s0 (State.scrServe s i f us).2.2 := by
  unfold State.scrServe
  repeat' with_reducible first | assumption | exact parts_sub (by with_unfolding_all decide) hl | apply State.scrRead_only | apply State.scrWrite_only | refine foldl_only _ _ (fun _ _ _ => ?_) ?_ | refine foldl_only1 _ _ (fun _ _ _ => ?_) ?_ | refine foldl_only2 _ _ (fun _ _ _ => ?_) ?_ | refine foldl_only22 _ _ (fun _ _ _ => ?_) ?_ | refine foldl_only21 _ _ (fun _ _ _ => ?_) ?_ | apply ite_only | apply ite_only1 | apply ite_only2 | apply ite_only22

theorem execScratchpadAccess_only {s0 : State} {pl : List Part} (b : Fin 32) (us : List (BitVec 72)) {s : State} (hl : [.ctrs, .freeCtr, .mgt, .logs, .noc, .span, .scr] ⊆ pl) (hs0 : only pl s0 s) : OnlyR pl s0 (execScratchpadAccess b us s) := by
  unfold execScratchpadAccess
  repeat' with_reducible first | assumption | exact parts_sub (by with_unfolding_all decide) hl | exact only.refl _ _ | apply OnlyR.next | apply ite_onlyR | apply State.respond_only | apply State.scrServe_only | apply ite_only | apply ite_only1 | apply ite_only2 | apply ite_only22 | apply ite_only21 | dsimp only | intro _ _ _ _ | intro _ _ _ | intro _ _ | split | (apply only.lit <;> first | exact Or.inr rfl | exact Or.inl (parts_mem hl (by with_unfolding_all decide)) | skip)

theorem State.scrBaseWrite_only {s0 : State} {pl : List Part} {s : State} (k : Nat) (w : Word) (hl : [.regs] ⊆ pl) (hs0 : only pl s0 s) : only pl s0 (State.scrBaseWrite s k w).1 := by
  unfold State.scrBaseWrite
  repeat' with_reducible first | assumption | exact parts_sub (by with_unfolding_all decide) hl | apply State.wr_only | apply ite_only | apply ite_only1

theorem State.scrLockWrite_only {s0 : State} {pl : List Part} {s : State} (k : Nat) (w : Word) (hl : [.regs] ⊆ pl) (hs0 : only pl s0 s) : only pl s0 (State.scrLockWrite s k w).1 := by
  unfold State.scrLockWrite
  repeat' with_reducible first | assumption | exact parts_sub (by with_unfolding_all decide) hl | apply State.wr_only | apply ite_only | apply ite_only1

end Sys2Proof.Machine
end

