-- ==== Sys2Proof/Laws/Frame/Bist.lean ====
section
/-! SUPPORT. The frames of Machine/Bist.lean: which parts of the state each operation and each command may change. -/

namespace Sys2Proof.Machine


theorem State.bistShow_only {s0 : State} {pl : List Part} {s : State} (hl : [.regs, .ctrs, .mgt, .logs, .cfg, .mem, .scr] ⊆ pl) (hs0 : only pl s0 s) : only pl s0 (State.bistShow s) := by
  unfold State.bistShow
  repeat' with_reducible first | assumption | exact parts_sub (by with_unfolding_all decide) hl | apply State.settleMode_only | apply State.wrb_only | dsimp only | intro _ _ _ _ | intro _ _ _ | intro _ _ | (apply only.lit <;> first | exact Or.inl (parts_mem hl (by with_unfolding_all decide)) | exact Or.inr rfl | skip)

theorem State.setBist_only {s0 : State} {pl : List Part} {s : State} (k : Nat) (r : Option BistRun) (hl : [.regs, .ctrs, .mgt, .logs, .cfg, .mem, .scr, .bist] ⊆ pl) (hs0 : only pl s0 s) : only pl s0 (State.setBist s k r) := by
  unfold State.setBist
  repeat' with_reducible first | assumption | exact parts_sub (by with_unfolding_all decide) hl | apply State.bistShow_only | (apply only.lit <;> first | exact Or.inl (parts_mem hl (by with_unfolding_all decide)) | exact Or.inr rfl | skip)

theorem State.bistAccept_only {s0 : State} {pl : List Part} {s : State} (k kind mem : Nat) (hl : [.regs, .ctrs, .mgt, .logs, .cfg, .mem, .scr, .bist] ⊆ pl) (hs0 : only pl s0 s) : only pl s0 (State.bistAccept s k kind mem) := by
  unfold State.bistAccept
  repeat' with_reducible first | assumption | exact parts_sub (by with_unfolding_all decide) hl | apply State.setBist_only

theorem State.bistCmdWrite_only {s0 : State} {pl : List Part} {s : State} (k : Nat) (w : Word) (hl : [.regs, .ctrs, .mgt, .logs, .cfg, .mem, .scr, .bist] ⊆ pl) (hs0 : only pl s0 s) : only pl s0 (State.bistCmdWrite s k w).1 := by
  unfold State.bistCmdWrite
  repeat' with_reducible first | assumption | exact parts_sub (by with_unfolding_all decide) hl | apply State.bistAccept_only | apply State.setReg_only | apply ite_only | apply ite_only1

theorem State.bistIrq_only {s0 : State} {pl : List Part} {s : State} (hl : [.regs, .ctrs, .mgt, .logs, .irq] ⊆ pl) (hs0 : only pl s0 s) : only pl s0 (State.bistIrq s) := by
  unfold State.bistIrq
  repeat' with_reducible first | assumption | exact parts_sub (by with_unfolding_all decide) hl | apply State.srcSet_only

theorem State.takeSpare_only {s0 : State} {pl : List Part} {s : State} (x : Spare) (hl : [.bist] ⊆ pl) (hs0 : only pl s0 s) : only pl s0 (State.takeSpare s x).1 := by
  unfold State.takeSpare
  repeat' with_reducible first | assumption | exact parts_sub (by with_unfolding_all decide) hl | apply ite_only | apply ite_only1 | apply ite_only2 | apply ite_only22 | apply ite_only21 | (apply only.lit <;> first | exact Or.inl (parts_mem hl (by with_unfolding_all decide)) | exact Or.inr rfl | skip)

theorem State.repair_only {s0 : State} {pl : List Part} {s : State} (kind mem : Nat) (l : List (Bool × Nat × Nat)) (hl : [.bist] ⊆ pl) (hs0 : only pl s0 s) : only pl s0 (State.repair s kind mem l).1 := by
  unfold State.repair
  repeat' with_reducible first | assumption | exact parts_sub (by with_unfolding_all decide) hl | apply State.takeSpare_only | refine foldl_only _ _ (fun _ _ _ => ?_) ?_ | refine foldl_only1 _ _ (fun _ _ _ => ?_) ?_

theorem State.fuseStart_only {s0 : State} {pl : List Part} {s : State} (kind mem : Nat) (hl : [.bist] ⊆ pl) (hs0 : only pl s0 s) : only pl s0 (State.fuseStart s kind mem).1 := by
  unfold State.fuseStart
  repeat' with_reducible first | assumption | exact parts_sub (by with_unfolding_all decide) hl | apply ite_only | apply ite_only1 | apply ite_only2 | apply ite_only22 | apply ite_only21 | (apply only.lit <;> first | exact Or.inl (parts_mem hl (by with_unfolding_all decide)) | exact Or.inr rfl | skip)

theorem execBistFuseDone_only {s0 : State} {pl : List Part} (kind : Fin 3) (mem : Fin 16777216) {s : State} (hl : [.ctrs, .mgt, .logs, .bist] ⊆ pl) (hs0 : only pl s0 s) : OnlyR pl s0 (execBistFuseDone kind mem s) := by
  unfold execBistFuseDone
  repeat' with_reducible first | assumption | exact parts_sub (by with_unfolding_all decide) hl | exact only.refl _ _ | apply OnlyR.next | apply ite_onlyR | apply State.raiseAt_only | apply ite_only | apply ite_only1 | apply ite_only2 | apply ite_only22 | apply ite_only21 | dsimp only | intro _ _ _ _ | intro _ _ _ | intro _ _ | (apply only.lit <;> first | exact Or.inl (parts_mem hl (by with_unfolding_all decide)) | exact Or.inr rfl | skip)

theorem State.bistEnd_only {s0 : State} {pl : List Part} {s : State} (k : Nat) (r : BistRun) (result addr bit fails us : Nat) (hl : [.regs, .ctrs, .mgt, .logs, .irq, .cfg, .mem, .cel, .scr, .bist] ⊆ pl) (hs0 : only pl s0 s) : only pl s0 (State.bistEnd s k r result addr bit fails us) := by
  unfold State.bistEnd
  repeat' with_reducible first | assumption | exact parts_sub (by with_unfolding_all decide) hl | apply State.bistIrq_only | apply State.bump_only | apply State.raiseAt_only | apply State.setBist_only | apply State.wr_only | apply State.wrb_only | refine foldl_only _ _ (fun _ _ _ => ?_) ?_ | refine foldl_only1 _ _ (fun _ _ _ => ?_) ?_ | refine foldl_only2 _ _ (fun _ _ _ => ?_) ?_ | refine foldl_only22 _ _ (fun _ _ _ => ?_) ?_ | refine foldl_only21 _ _ (fun _ _ _ => ?_) ?_ | apply ite_only | apply ite_only1 | apply ite_only2 | apply ite_only22 | apply ite_only21 | dsimp only | intro _ _ _ _ | intro _ _ _ | intro _ _ | (apply only.lit <;> first | exact Or.inl (parts_mem hl (by with_unfolding_all decide)) | exact Or.inr rfl | skip)

theorem State.bistAbort_only {s0 : State} {pl : List Part} {s : State} (hl : [.regs, .ctrs, .mgt, .logs, .irq, .cfg, .mem, .cel, .scr, .bist] ⊆ pl) (hs0 : only pl s0 s) : only pl s0 (State.bistAbort s) := by
  unfold State.bistAbort
  repeat' with_reducible first | assumption | exact parts_sub (by with_unfolding_all decide) hl | apply State.bistEnd_only | refine foldl_only _ _ (fun _ _ _ => ?_) ?_ | refine foldl_only1 _ _ (fun _ _ _ => ?_) ?_ | refine foldl_only2 _ _ (fun _ _ _ => ?_) ?_ | refine foldl_only22 _ _ (fun _ _ _ => ?_) ?_ | refine foldl_only21 _ _ (fun _ _ _ => ?_) ?_ | apply ite_only | apply ite_only1 | apply ite_only2 | apply ite_only22 | apply ite_only21 | intro _ _ _ _ | intro _ _ _ | intro _ _ | split | (apply only.lit <;> first | exact Or.inr rfl | exact Or.inl (parts_mem hl (by with_unfolding_all decide)) | skip) | refine only.eq2 (by assumption) ?_ | refine only.eq22 (by assumption) ?_ | refine only.eq1 (by assumption) ?_

theorem State.restoreMem_only {s0 : State} {pl : List Part} {s : State} (r : BistRun) (bad : List Nat) (hl : [.mem, .scr] ⊆ pl) (hs0 : only pl s0 s) : only pl s0 (State.restoreMem s r bad) := by
  unfold State.restoreMem
  repeat' with_reducible first | assumption | exact parts_sub (by with_unfolding_all decide) hl | apply ite_only | apply ite_only1 | apply ite_only2 | apply ite_only22 | apply ite_only21 | dsimp only | intro _ _ _ _ | intro _ _ _ | intro _ _ | split | (apply only.lit <;> first | exact Or.inl (parts_mem hl (by with_unfolding_all decide)) | exact Or.inr rfl | skip)

theorem execBistPhaseDone_only {s0 : State} {pl : List Part} (k : Fin 4) {s : State} (hl : [.regs, .ctrs, .freeCtr, .mgt, .logs, .cfg, .mem, .scr, .bist] ⊆ pl) (hs0 : only pl s0 s) : OnlyR pl s0 (execBistPhaseDone k s) := by
  unfold execBistPhaseDone
  repeat' with_reducible first | assumption | exact parts_sub (by with_unfolding_all decide) hl | exact only.refl _ _ | apply OnlyR.next | apply ite_onlyR | apply State.drainMem_only | apply State.setBist_only | apply ite_only | apply ite_only1 | apply ite_only2 | apply ite_only22 | apply ite_only21 | dsimp only | split

theorem execBistDone_only {s0 : State} {pl : List Part} (k : Fin 4) (fails addr bit us : Nat) (rows cols : List (Nat × Nat)) (bad : List Nat) {s : State} (hl : [.regs, .ctrs, .mgt, .logs, .irq, .cfg, .mem, .cel, .scr, .bist] ⊆ pl) (hs0 : only pl s0 s) : OnlyR pl s0 (execBistDone k fails addr bit us rows cols bad s) := by
  unfold execBistDone
  repeat' with_reducible first | assumption | exact parts_sub (by with_unfolding_all decide) hl | exact only.refl _ _ | apply OnlyR.next | apply ite_onlyR | apply State.bistEnd_only | apply State.repair_only | apply State.restoreMem_only | apply ite_only | apply ite_only1 | apply ite_only2 | apply ite_only22 | apply ite_only21 | dsimp only | intro _ _ _ _ | intro _ _ _ | intro _ _ | split

theorem execDeferredTestStart_only {s0 : State} {pl : List Part} (k : Fin 4) {s : State} (hl : [.regs, .ctrs, .mgt, .logs, .irq, .cfg, .mem, .cel, .scr, .bist] ⊆ pl) (hs0 : only pl s0 s) : OnlyR pl s0 (execDeferredTestStart k s) := by
  unfold execDeferredTestStart
  repeat' with_reducible first | assumption | exact parts_sub (by with_unfolding_all decide) hl | exact only.refl _ _ | apply OnlyR.next | apply ite_onlyR | apply State.bistEnd_only | apply State.setBist_only | apply ite_only | apply ite_only1 | apply ite_only2 | apply ite_only22 | apply ite_only21 | dsimp only | split | (apply only.lit <;> first | exact Or.inr rfl | exact Or.inl (parts_mem hl (by with_unfolding_all decide)) | skip) | refine only.eq2 (by assumption) ?_ | refine only.eq22 (by assumption) ?_ | refine only.eq1 (by assumption) ?_

theorem execSectorPowerGood_only {s0 : State} {pl : List Part} (sec : Fin 224) {s : State} (hl : [.mem, .bist] ⊆ pl) (hs0 : only pl s0 s) : OnlyR pl s0 (execSectorPowerGood sec s) := by
  unfold execSectorPowerGood
  repeat' with_reducible first | assumption | exact parts_sub (by with_unfolding_all decide) hl | exact only.refl _ _ | apply OnlyR.next | apply ite_onlyR | apply State.clearMems_only | apply ite_only | apply ite_only1 | apply ite_only2 | apply ite_only22 | apply ite_only21 | dsimp only | intro _ _ _ _ | intro _ _ _ | intro _ _ | (apply only.lit <;> first | exact Or.inl (parts_mem hl (by with_unfolding_all decide)) | exact Or.inr rfl | skip)

end Sys2Proof.Machine
end

