-- ==== Sys2Proof/Laws/Frame/Cellar.lean ====
section
/-! SUPPORT. The frames of Machine/Cellar.lean: which parts of the state each operation and each command may change. -/

namespace Sys2Proof.Machine


theorem State.setCelWord_only {s0 : State} {pl : List Part} {s : State} (k : Nat) (w : BitVec 64) (hl : [.cel] ⊆ pl) (hs0 : only pl s0 s) : only pl s0 (State.setCelWord s k w) := by
  unfold State.setCelWord
  repeat' with_reducible first | assumption | exact parts_sub (by with_unfolding_all decide) hl | (apply only.lit <;> first | exact Or.inr rfl | exact Or.inl (parts_mem hl (by with_unfolding_all decide)) | skip)

theorem State.eraseSector_only {s0 : State} {pl : List Part} {s : State} (sec : Nat) (hl : [.cel] ⊆ pl) (hs0 : only pl s0 s) : only pl s0 (State.eraseSector s sec) := by
  unfold State.eraseSector
  repeat' with_reducible first | assumption | exact parts_sub (by with_unfolding_all decide) hl | intro _ _ _ _ | intro _ _ _ | intro _ _ | (apply only.lit <;> first | exact Or.inr rfl | exact Or.inl (parts_mem hl (by with_unfolding_all decide)) | skip)

theorem State.celProgram_only {s0 : State} {pl : List Part} {s : State} (off : Nat) (bs : List Byte) (hl : [.cel] ⊆ pl) (hs0 : only pl s0 s) : only pl s0 (State.celProgram s off bs) := by
  unfold State.celProgram
  repeat' with_reducible first | assumption | exact parts_sub (by with_unfolding_all decide) hl | apply State.setCelWord_only | refine foldl_only _ _ (fun _ _ _ => ?_) ?_

theorem State.setBank_only {s0 : State} {pl : List Part} {s : State} (b : Nat) (x : CelBank) (hl : [.regs, .cel] ⊆ pl) (hs0 : only pl s0 s) : only pl s0 (State.setBank s b x) := by
  unfold State.setBank
  repeat' with_reducible first | assumption | exact parts_sub (by with_unfolding_all decide) hl | apply State.wrb_only | apply ite_only | apply ite_only1 | apply ite_only2 | apply ite_only22 | apply ite_only21 | dsimp only | intro _ _ _ _ | intro _ _ _ | intro _ _ | (apply only.lit <;> first | exact Or.inr rfl | exact Or.inl (parts_mem hl (by with_unfolding_all decide)) | skip)

theorem State.celIrq_only {s0 : State} {pl : List Part} {s : State} (hl : [.regs, .ctrs, .mgt, .logs, .irq] ⊆ pl) (hs0 : only pl s0 s) : only pl s0 (State.celIrq s) := by
  unfold State.celIrq
  repeat' with_reducible first | assumption | exact parts_sub (by with_unfolding_all decide) hl | apply State.srcSet_only

theorem State.celDone_only {s0 : State} {pl : List Part} {s : State} (b result : Nat) (hl : [.regs, .ctrs, .mgt, .logs, .irq] ⊆ pl) (hs0 : only pl s0 s) : only pl s0 (State.celDone s b result) := by
  unfold State.celDone
  repeat' with_reducible first | assumption | exact parts_sub (by with_unfolding_all decide) hl | apply State.celIrq_only | apply State.wr_only | apply State.wrb_only

theorem State.celShow_only {s0 : State} {pl : List Part} {s : State} (hl : [.regs] ⊆ pl) (hs0 : only pl s0 s) : only pl s0 (State.celShow s) := by
  unfold State.celShow
  repeat' with_reducible first | assumption | exact parts_sub (by with_unfolding_all decide) hl | apply State.wr_only | apply State.wrb_only

theorem State.celRun_only {s0 : State} {pl : List Part} {s : State} (o : CelOp) (hl : [.freeCtr, .cel] ⊆ pl) (hs0 : only pl s0 s) : only pl s0 (State.celRun s o) := by
  unfold State.celRun
  repeat' with_reducible first | assumption | exact parts_sub (by with_unfolding_all decide) hl | apply State.fresh_only | apply ite_only | apply ite_only1 | apply ite_only2 | apply ite_only22 | apply ite_only21 | dsimp only | (apply only.lit <;> first | exact Or.inr rfl | exact Or.inl (parts_mem hl (by with_unfolding_all decide)) | skip)

theorem State.celStart_only {s0 : State} {pl : List Part} {s : State} (o : CelOp) (hl : [.regs, .ctrs, .freeCtr, .mgt, .logs, .irq, .cel] ⊆ pl) (hs0 : only pl s0 s) : only pl s0 (State.celStart s o).1 := by
  unfold State.celStart
  repeat' with_reducible first | assumption | exact parts_sub (by with_unfolding_all decide) hl | apply State.celDone_only | apply State.celRun_only | apply State.setBank_only | apply State.wr_only | apply ite_only | apply ite_only1 | apply ite_only2 | apply ite_only22 | apply ite_only21 | dsimp only | split

theorem State.celCmdWrite_only {s0 : State} {pl : List Part} {s : State} (w : Word) (hl : [.regs, .ctrs, .freeCtr, .mgt, .logs, .irq, .cel] ⊆ pl) (hs0 : only pl s0 s) : only pl s0 (State.celCmdWrite s w).1 := by
  unfold State.celCmdWrite
  repeat' with_reducible first | assumption | exact parts_sub (by with_unfolding_all decide) hl | apply State.celStart_only | apply State.wr_only | apply ite_only | apply ite_only1 | apply ite_only2 | apply ite_only22 | apply ite_only21 | dsimp only

theorem State.setLogSecs_only {s0 : State} {pl : List Part} {s : State} (aud : Bool) (l : List Nat) (hl : [.logs] ⊆ pl) (hs0 : only pl s0 s) : only pl s0 (State.setLogSecs s aud l) := by
  unfold State.setLogSecs
  repeat' with_reducible first | assumption | exact parts_sub (by with_unfolding_all decide) hl | apply ite_only | apply ite_only1 | apply ite_only2 | apply ite_only22 | apply ite_only21 | (apply only.lit <;> first | exact Or.inr rfl | exact Or.inl (parts_mem hl (by with_unfolding_all decide)) | skip)

theorem State.setLogPos_only {s0 : State} {pl : List Part} {s : State} (aud : Bool) (n : Nat) (hl : [.logs] ⊆ pl) (hs0 : only pl s0 s) : only pl s0 (State.setLogPos s aud n) := by
  unfold State.setLogPos
  repeat' with_reducible first | assumption | exact parts_sub (by with_unfolding_all decide) hl | apply ite_only | apply ite_only1 | apply ite_only2 | apply ite_only22 | apply ite_only21 | (apply only.lit <;> first | exact Or.inr rfl | exact Or.inl (parts_mem hl (by with_unfolding_all decide)) | skip)

theorem State.logDrop_only {s0 : State} {pl : List Part} {s : State} (aud : Bool) (sev : Nat) (hl : [.ctrs, .mgt, .logs] ⊆ pl) (hs0 : only pl s0 s) : only pl s0 (State.logDrop s aud sev) := by
  unfold State.logDrop
  repeat' with_reducible first | assumption | exact parts_sub (by with_unfolding_all decide) hl | apply State.bump_only

theorem State.logErase_only {s0 : State} {pl : List Part} {s : State} (aud : Bool) (sec : Nat) (kept : Nat → Bool) (hl : [.ctrs, .mgt, .logs, .cel] ⊆ pl) (hs0 : only pl s0 s) : only pl s0 (State.logErase s aud sec kept) := by
  unfold State.logErase
  repeat' with_reducible first | assumption | exact parts_sub (by with_unfolding_all decide) hl | apply State.eraseSector_only | apply State.logDrop_only | apply State.setLogSecs_only | refine foldl_only _ _ (fun _ _ _ => ?_) ?_ | refine foldl_only1 _ _ (fun _ _ _ => ?_) ?_ | refine foldl_only2 _ _ (fun _ _ _ => ?_) ?_ | refine foldl_only22 _ _ (fun _ _ _ => ?_) ?_ | refine foldl_only21 _ _ (fun _ _ _ => ?_) ?_ | apply ite_only

theorem State.logOpen_only {s0 : State} {pl : List Part} {s : State} (aud : Bool) (hl : [.logs, .cel] ⊆ pl) (hs0 : only pl s0 s) : only pl s0 (State.logOpen s aud) := by
  unfold State.logOpen
  repeat' with_reducible first | assumption | exact parts_sub (by with_unfolding_all decide) hl | apply State.setCelWord_only | apply State.setLogPos_only | apply State.setLogSecs_only | apply ite_only | apply ite_only1 | apply ite_only2 | apply ite_only22 | apply ite_only21 | dsimp only | intro _ _ _ _ | intro _ _ _ | intro _ _ | split | (apply only.lit <;> first | exact Or.inr rfl | exact Or.inl (parts_mem hl (by with_unfolding_all decide)) | skip)

theorem State.logPut_only {s0 : State} {pl : List Part} {s : State} (aud : Bool) (bs : List Byte) (hl : [.logs, .cel] ⊆ pl) (hs0 : only pl s0 s) : only pl s0 (State.logPut s aud bs) := by
  unfold State.logPut
  repeat' with_reducible first | assumption | exact parts_sub (by with_unfolding_all decide) hl | apply State.celProgram_only | apply State.setLogPos_only | dsimp only | split

theorem State.logReclaim_only {s0 : State} {pl : List Part} {s : State} (aud : Bool) (hl : [.ctrs, .mgt, .logs, .cel] ⊆ pl) (hs0 : only pl s0 s) : only pl s0 (State.logReclaim s aud) := by
  unfold State.logReclaim
  repeat' with_reducible first | assumption | exact parts_sub (by with_unfolding_all decide) hl | apply State.logErase_only | apply State.logPut_only | refine foldl_only _ _ (fun _ _ _ => ?_) ?_ | refine foldl_only1 _ _ (fun _ _ _ => ?_) ?_ | refine foldl_only2 _ _ (fun _ _ _ => ?_) ?_ | refine foldl_only22 _ _ (fun _ _ _ => ?_) ?_ | refine foldl_only21 _ _ (fun _ _ _ => ?_) ?_ | apply ite_only | apply ite_only1 | apply ite_only2 | apply ite_only22 | apply ite_only21 | dsimp only | intro _ _ _ _ | intro _ _ _ | intro _ _ | split

theorem State.logRoom_only {s0 : State} {pl : List Part} {s : State} (aud : Bool) (hl : [.ctrs, .mgt, .logs, .cel] ⊆ pl) (hs0 : only pl s0 s) : only pl s0 (State.logRoom s aud) := by
  unfold State.logRoom
  repeat' with_reducible first | assumption | exact parts_sub (by with_unfolding_all decide) hl | apply State.logOpen_only | apply State.logReclaim_only | apply ite_only

theorem State.logRetire_only {s0 : State} {pl : List Part} {s : State} (hl : [.ctrs, .mgt, .logs, .cel] ⊆ pl) (hs0 : only pl s0 s) : only pl s0 (State.logRetire s) := by
  unfold State.logRetire
  repeat' with_reducible first | assumption | exact parts_sub (by with_unfolding_all decide) hl | apply State.logDrop_only | apply State.setCelWord_only | apply ite_only | apply ite_only1 | apply ite_only2 | apply ite_only22 | apply ite_only21 | dsimp only | intro _ _ _ _ | intro _ _ _ | intro _ _ | split

theorem State.logBad_only {s0 : State} {pl : List Part} {s : State} (aud : Bool) (sec : Nat) (hl : [.regs, .ctrs, .mgt, .logs, .cel] ⊆ pl) (hs0 : only pl s0 s) : only pl s0 (State.logBad s aud sec) := by
  unfold State.logBad
  repeat' with_reducible first | assumption | exact parts_sub (by with_unfolding_all decide) hl | apply State.celShow_only | apply State.logOpen_only | apply State.logPut_only | apply State.raiseDev_only | apply State.setLogPos_only | apply State.wr_only | refine foldl_only _ _ (fun _ _ _ => ?_) ?_ | refine foldl_only1 _ _ (fun _ _ _ => ?_) ?_ | refine foldl_only2 _ _ (fun _ _ _ => ?_) ?_ | refine foldl_only22 _ _ (fun _ _ _ => ?_) ?_ | refine foldl_only21 _ _ (fun _ _ _ => ?_) ?_ | apply ite_only | apply ite_only1 | apply ite_only2 | apply ite_only22 | apply ite_only21 | dsimp only | intro _ _ _ _ | intro _ _ _ | intro _ _ | (apply only.lit <;> first | exact Or.inr rfl | exact Or.inl (parts_mem hl (by with_unfolding_all decide)) | skip)

theorem State.logFlushOne_only {s0 : State} {pl : List Part} {s : State} (aud fails : Bool) (hl : [.regs, .ctrs, .mgt, .logs, .cel] ⊆ pl) (hs0 : only pl s0 s) : only pl s0 (State.logFlushOne s aud fails) := by
  unfold State.logFlushOne
  repeat' with_reducible first | assumption | exact parts_sub (by with_unfolding_all decide) hl | apply State.logBad_only | apply State.logPut_only | apply State.logRetire_only | apply State.logRoom_only | apply ite_only | apply ite_only1 | apply ite_only2 | apply ite_only22 | apply ite_only21 | dsimp only | split | (apply only.lit <;> first | exact Or.inr rfl | exact Or.inl (parts_mem hl (by with_unfolding_all decide)) | skip)

theorem execLogFlush_only {s0 : State} {pl : List Part} (aud : Bool) (n : Nat) (fails : Bool) {s : State} (hl : [.regs, .ctrs, .mgt, .logs, .cel] ⊆ pl) (hs0 : only pl s0 s) : OnlyR pl s0 (execLogFlush aud n fails s) := by
  unfold execLogFlush
  repeat' with_reducible first | assumption | exact parts_sub (by with_unfolding_all decide) hl | exact only.refl _ _ | apply OnlyR.next | apply ite_onlyR | apply State.logFlushOne_only | refine foldl_only _ _ (fun _ _ _ => ?_) ?_ | refine foldl_only1 _ _ (fun _ _ _ => ?_) ?_ | refine foldl_only2 _ _ (fun _ _ _ => ?_) ?_ | refine foldl_only22 _ _ (fun _ _ _ => ?_) ?_ | refine foldl_only21 _ _ (fun _ _ _ => ?_) ?_ | apply ite_only

theorem execLogDegradedReminder_only {s0 : State} {pl : List Part} {s : State} (hl : [.ctrs, .mgt, .logs] ⊆ pl) (hs0 : only pl s0 s) : OnlyR pl s0 (execLogDegradedReminder s) := by
  unfold execLogDegradedReminder
  repeat' with_reducible first | assumption | exact parts_sub (by with_unfolding_all decide) hl | exact only.refl _ _ | apply OnlyR.next | apply ite_onlyR | apply State.raiseDev_only | apply ite_only

theorem State.celOpDone_only {s0 : State} {pl : List Part} {s : State} (j : CelJob) (result : Nat) (hl : [.ctrs, .mgt, .logs, .cel] ⊆ pl) (hs0 : only pl s0 s) : only pl s0 (State.celOpDone s j result) := by
  unfold State.celOpDone
  repeat' with_reducible first | assumption | exact parts_sub (by with_unfolding_all decide) hl | apply State.raiseDev_only | (apply only.lit <;> first | exact Or.inr rfl | exact Or.inl (parts_mem hl (by with_unfolding_all decide)) | skip)

theorem State.celNext_only {s0 : State} {pl : List Part} (x0 : Nat) {s : State} (x2 : Nat) (hl : [.regs, .ctrs, .freeCtr, .mgt, .logs, .irq, .cel] ⊆ pl) (hs0 : only pl s0 s) : only pl s0 (State.celNext x0 s x2) := by
  induction x0 generalizing s x2 with
  | zero =>
    unfold State.celNext
    repeat' with_reducible first | assumption | exact parts_sub (by with_unfolding_all decide) hl | apply State.celOpDone_only | apply State.celStart_only | apply ite_only | apply ite_only1 | apply ite_only2 | apply ite_only22 | apply ite_only21 | dsimp only | split | (apply only.lit <;> first | exact Or.inr rfl | exact Or.inl (parts_mem hl (by with_unfolding_all decide)) | skip) | refine only.eq2 (by assumption) ?_ | refine only.eq22 (by assumption) ?_ | refine only.eq1 (by assumption) ?_
  | succ x0 ih =>
    unfold State.celNext
    repeat' with_reducible first | assumption | apply ih | exact parts_sub (by with_unfolding_all decide) hl | apply State.celOpDone_only | apply State.celStart_only | apply ite_only | apply ite_only1 | apply ite_only2 | apply ite_only22 | apply ite_only21 | dsimp only | split | (apply only.lit <;> first | exact Or.inr rfl | exact Or.inl (parts_mem hl (by with_unfolding_all decide)) | skip) | refine only.eq2 (by assumption) ?_ | refine only.eq22 (by assumption) ?_ | refine only.eq1 (by assumption) ?_

theorem State.commandDone_only {s0 : State} {pl : List Part} {s : State} (b : Nat) (ok : Bool) (hl : [.regs, .ctrs, .freeCtr, .mgt, .logs, .irq, .cel] ⊆ pl) (hs0 : only pl s0 s) : only pl s0 (State.commandDone s b ok).1 := by
  unfold State.commandDone
  repeat' with_reducible first | assumption | exact parts_sub (by with_unfolding_all decide) hl | apply State.bump_only | apply State.celDone_only | apply State.celNext_only | apply State.celShow_only | apply State.eraseSector_only | apply State.logBad_only | apply State.raiseDev_only | apply State.setBank_only | apply State.setCelWord_only | apply ite_only | apply ite_only1 | apply ite_only2 | apply ite_only22 | apply ite_only21 | dsimp only | intro _ _ _ _ | intro _ _ _ | intro _ _ | split | (apply only.lit <;> first | exact Or.inr rfl | exact Or.inl (parts_mem hl (by with_unfolding_all decide)) | skip) | refine only.eq2 (by assumption) ?_ | refine only.eq22 (by assumption) ?_ | refine only.eq1 (by assumption) ?_

theorem State.celSuspends_only {s0 : State} {pl : List Part} {s : State} (b : Nat) (hl : [.ctrs, .mgt, .logs] ⊆ pl) (hs0 : only pl s0 s) : only pl s0 (State.celSuspends s b) := by
  unfold State.celSuspends
  repeat' with_reducible first | assumption | exact parts_sub (by with_unfolding_all decide) hl | apply State.bump_only | apply ite_only | apply ite_only1 | apply ite_only2 | apply ite_only22 | apply ite_only21

theorem State.celAnswer_only {s0 : State} {pl : List Part} {s : State} (m : Moving) (hl : [.noc, .span] ⊆ pl) (hs0 : only pl s0 s) : only pl s0 (State.celAnswer s m) := by
  unfold State.celAnswer
  repeat' with_reducible first | assumption | exact parts_sub (by with_unfolding_all decide) hl | apply State.respond_only | apply ite_only

theorem execCellarRead_only {s0 : State} {pl : List Part} {s : State} (hl : [.regs, .noc, .span, .cel] ⊆ pl) (hs0 : only pl s0 s) : OnlyR pl s0 (execCellarRead s) := by
  unfold execCellarRead
  repeat' with_reducible first | assumption | exact parts_sub (by with_unfolding_all decide) hl | exact only.refl _ _ | apply OnlyR.next | apply ite_onlyR | apply State.celAnswer_only | apply State.setBank_only | apply ite_only | apply ite_only1 | apply ite_only2 | apply ite_only22 | apply ite_only21 | dsimp only | split | (apply only.lit <;> first | exact Or.inr rfl | exact Or.inl (parts_mem hl (by with_unfolding_all decide)) | skip)

theorem execBankSuspended_only {s0 : State} {pl : List Part} (b : Fin 4) {s : State} (hl : [.regs, .ctrs, .freeCtr, .mgt, .logs, .noc, .span, .cel] ⊆ pl) (hs0 : only pl s0 s) : OnlyR pl s0 (execBankSuspended b s) := by
  unfold execBankSuspended
  repeat' with_reducible first | assumption | exact parts_sub (by with_unfolding_all decide) hl | exact only.refl _ _ | apply OnlyR.next | apply ite_onlyR | apply State.bump_only | apply State.celAnswer_only | apply State.celRun_only | apply State.setBank_only | refine foldl_only _ _ (fun _ _ _ => ?_) ?_ | refine foldl_only1 _ _ (fun _ _ _ => ?_) ?_ | refine foldl_only2 _ _ (fun _ _ _ => ?_) ?_ | refine foldl_only22 _ _ (fun _ _ _ => ?_) ?_ | refine foldl_only21 _ _ (fun _ _ _ => ?_) ?_ | apply ite_only | apply ite_only1 | apply ite_only2 | apply ite_only22 | apply ite_only21 | dsimp only | intro _ _ _ _ | intro _ _ _ | intro _ _ | split | (apply only.lit <;> first | exact Or.inr rfl | exact Or.inl (parts_mem hl (by with_unfolding_all decide)) | skip)

theorem execBankResume_only {s0 : State} {pl : List Part} (b : Fin 4) {s : State} (hl : [.regs, .cel] ⊆ pl) (hs0 : only pl s0 s) : OnlyR pl s0 (execBankResume b s) := by
  unfold execBankResume
  repeat' with_reducible first | assumption | exact parts_sub (by with_unfolding_all decide) hl | exact only.refl _ _ | apply OnlyR.next | apply ite_onlyR | apply State.setBank_only

theorem State.celAbandon_only {s0 : State} {pl : List Part} {s : State} (hl : [.regs, .cel] ⊆ pl) (hs0 : only pl s0 s) : only pl s0 (State.celAbandon s) := by
  unfold State.celAbandon
  repeat' with_reducible first | assumption | exact parts_sub (by with_unfolding_all decide) hl | apply State.setBank_only | refine foldl_only _ _ (fun _ _ _ => ?_) ?_ | refine foldl_only1 _ _ (fun _ _ _ => ?_) ?_ | refine foldl_only2 _ _ (fun _ _ _ => ?_) ?_ | refine foldl_only22 _ _ (fun _ _ _ => ?_) ?_ | refine foldl_only21 _ _ (fun _ _ _ => ?_) ?_ | dsimp only | intro _ _ _ _ | intro _ _ _ | intro _ _ | (apply only.lit <;> first | exact Or.inr rfl | exact Or.inl (parts_mem hl (by with_unfolding_all decide)) | skip)

end Sys2Proof.Machine
end

