-- ==== Sys2Proof/Laws/Frame/Fen.lean ====
section
/-! SUPPORT. The frames of Machine/Fen.lean: which parts of the state each operation and each command may change. -/

namespace Sys2Proof.Machine


theorem State.qStop_only {s0 : State} {pl : List Part} {s : State} (q err : Nat) (hl : [.regs, .ctrs, .mgt, .logs, .irq] ⊆ pl) (hs0 : only pl s0 s) : only pl s0 (State.qStop s q err) := by
  unfold State.qStop
  repeat' with_reducible first | assumption | exact parts_sub (by with_unfolding_all decide) hl | apply State.fenFlag_only | apply State.raiseVat_only | apply State.wr_only

theorem State.setHeld_only {s0 : State} {pl : List Part} {s : State} (q : Nat) (l : List HeldF) (hl : [.fen] ⊆ pl) (hs0 : only pl s0 s) : only pl s0 (State.setHeld s q l) := by
  unfold State.setHeld
  repeat' with_reducible first | assumption | exact parts_sub (by with_unfolding_all decide) hl | (apply only.lit <;> first | exact Or.inr rfl | exact Or.inl (parts_mem hl (by with_unfolding_all decide)) | skip)

theorem State.flowControl_only {s0 : State} {pl : List Part} {s : State} (m : Nat) (bs : List Byte) (op : Nat) (hl : [.ctrs, .mgt, .logs, .fen] ⊆ pl) (hs0 : only pl s0 s) : only pl s0 (State.flowControl s m bs op) := by
  unfold State.flowControl
  repeat' with_reducible first | assumption | exact parts_sub (by with_unfolding_all decide) hl | apply State.bump_only | apply State.setFport_only | refine foldl_only _ _ (fun _ _ _ => ?_) ?_ | refine foldl_only1 _ _ (fun _ _ _ => ?_) ?_ | refine foldl_only2 _ _ (fun _ _ _ => ?_) ?_ | refine foldl_only22 _ _ (fun _ _ _ => ?_) ?_ | refine foldl_only21 _ _ (fun _ _ _ => ?_) ?_ | apply ite_only

theorem State.rxStream_only {s0 : State} {pl : List Part} {s : State} (m : Nat) (bs : List Byte) (err taken : Bool) (ts : Nat) (hl : [.regs, .ctrs, .mgt, .logs, .irq, .fen] ⊆ pl) (hs0 : only pl s0 s) : only pl s0 (State.rxStream s m bs err taken ts) := by
  unfold State.rxStream
  repeat' with_reducible first | assumption | exact parts_sub (by with_unfolding_all decide) hl | apply State.fenDrop_only | apply State.setFport_only | apply ite_only | apply ite_only1 | apply ite_only2 | apply ite_only22 | apply ite_only21 | (apply only.lit <;> first | exact Or.inr rfl | exact Or.inl (parts_mem hl (by with_unfolding_all decide)) | skip)

theorem execPauseExpiry_only {s0 : State} {pl : List Part} (m : Fin 100) (c : Fin 8) {s : State} (hl : [.fen] ⊆ pl) (hs0 : only pl s0 s) : OnlyR pl s0 (execPauseExpiry m c s) := by
  unfold execPauseExpiry
  repeat' with_reducible first | assumption | exact parts_sub (by with_unfolding_all decide) hl | exact only.refl _ _ | apply OnlyR.next | apply ite_onlyR | apply State.setFport_only

theorem execLinkUp_only {s0 : State} {pl : List Part} (m : Fin 100) {s : State} (hl : [.regs, .ctrs, .mgt, .logs, .irq] ⊆ pl) (hs0 : only pl s0 s) : OnlyR pl s0 (execLinkUp m s) := by
  unfold execLinkUp
  repeat' with_reducible first | assumption | exact parts_sub (by with_unfolding_all decide) hl | exact only.refl _ _ | apply OnlyR.next | apply ite_onlyR | apply State.fenFlag_only | apply State.raiseDev_only | apply State.raisePort_only | apply State.wrb_only | apply ite_only | apply ite_only1 | apply ite_only2 | apply ite_only22 | apply ite_only21 | dsimp only

theorem execLinkDown_only {s0 : State} {pl : List Part} (m : Fin 100) (lf rf : Bool) {s : State} (hl : [.regs, .ctrs, .mgt, .logs, .irq, .fen] ⊆ pl) (hs0 : only pl s0 s) : OnlyR pl s0 (execLinkDown m lf rf s) := by
  unfold execLinkDown
  repeat' with_reducible first | assumption | exact parts_sub (by with_unfolding_all decide) hl | exact only.refl _ _ | apply OnlyR.next | apply ite_onlyR | apply State.linkFalls_only | apply State.wrb_only | dsimp only

theorem State.sendFrame_only {s0 : State} {pl : List Part} {s : State} (m : Nat) (f : TxF) (phase : Nat) (hl : [.regs, .ctrs, .freeCtr, .mgt, .logs, .irq, .time, .fen] ⊆ pl) (hs0 : only pl s0 s) : only pl s0 (State.sendFrame s m f phase) := by
  unfold State.sendFrame
  repeat' with_reducible first | assumption | exact parts_sub (by with_unfolding_all decide) hl | apply State.bump_only | apply State.fenDrop_only | apply State.fresh_only | apply State.setFport_only | apply State.tsqPush_only | apply ite_only | apply ite_only1 | apply ite_only2 | apply ite_only22 | apply ite_only21 | dsimp only | split

theorem execTxStreamFrame_only {s0 : State} {pl : List Part} (m : Fin 96) (bs : List Byte) (abort : Bool) (fid : Option (BitVec 16)) (phase : Fin 64) (partly : Bool) {s : State} (hl : [.regs, .ctrs, .freeCtr, .mgt, .logs, .irq, .time, .fen] ⊆ pl) (hs0 : only pl s0 s) : OnlyR pl s0 (execTxStreamFrame m bs abort fid phase partly s) := by
  unfold execTxStreamFrame
  repeat' with_reducible first | assumption | exact parts_sub (by with_unfolding_all decide) hl | exact only.refl _ _ | apply OnlyR.next | apply ite_onlyR | apply State.fenDrop_only | apply State.sendFrame_only | apply State.setFport_only | apply ite_only | apply ite_only1 | apply ite_only2 | apply ite_only22 | apply ite_only21 | dsimp only | intro _ _ _ _ | intro _ _ _ | intro _ _ | (apply only.lit <;> first | exact Or.inr rfl | exact Or.inl (parts_mem hl (by with_unfolding_all decide)) | skip)

theorem State.fcTxWrite_only {s0 : State} {pl : List Part} {s : State} (m : Nat) (w : Word) (hl : [.regs, .ctrs, .freeCtr, .mgt, .logs, .fen] ⊆ pl) (hs0 : only pl s0 s) : only pl s0 (State.fcTxWrite s m w).1 := by
  unfold State.fcTxWrite
  repeat' with_reducible first | assumption | exact parts_sub (by with_unfolding_all decide) hl | apply State.bump_only | apply State.fresh_only | apply State.setFport_only | apply State.setReg_only | apply ite_only | apply ite_only1

theorem State.portCtlWrite_only {s0 : State} {pl : List Part} {s : State} (m : Nat) (w : Word) (hl : [.regs, .ctrs, .mgt, .logs, .irq, .fen] ⊆ pl) (hs0 : only pl s0 s) : only pl s0 (State.portCtlWrite s m w).1 := by
  unfold State.portCtlWrite
  repeat' with_reducible first | assumption | exact parts_sub (by with_unfolding_all decide) hl | apply State.linkFalls_only | apply State.setReg_only | apply State.storeDrop_only | apply State.wrb_only | apply ite_only | apply ite_only1 | apply ite_only2 | apply ite_only22 | apply ite_only21 | dsimp only

theorem State.txCfgWrite_only {s0 : State} {pl : List Part} {s : State} (m : Nat) (w : Word) (hl : [.regs] ⊆ pl) (hs0 : only pl s0 s) : only pl s0 (State.txCfgWrite s m w).1 := by
  unfold State.txCfgWrite
  repeat' with_reducible first | assumption | exact parts_sub (by with_unfolding_all decide) hl | apply State.setReg_only | apply ite_only | apply ite_only1

theorem State.qEmpty_only {s0 : State} {pl : List Part} {s : State} (q : Nat) (hl : [.regs, .ctrs, .mgt, .logs, .irq, .fen] ⊆ pl) (hs0 : only pl s0 s) : only pl s0 (State.qEmpty s q) := by
  unfold State.qEmpty
  repeat' with_reducible first | assumption | exact parts_sub (by with_unfolding_all decide) hl | apply State.bump_only | apply State.fenFlag_only | apply State.setFport_only | apply State.setHeld_only | apply ite_only | apply ite_only1 | apply ite_only2 | apply ite_only22 | apply ite_only21 | dsimp only | intro _ _ _ _ | intro _ _ _ | intro _ _ | (apply only.lit <;> first | exact Or.inr rfl | exact Or.inl (parts_mem hl (by with_unfolding_all decide)) | skip)

theorem State.qCfgWrite_only {s0 : State} {pl : List Part} {s : State} (q : Nat) (w : Word) (hl : [.regs, .ctrs, .mgt, .logs, .irq, .fen] ⊆ pl) (hs0 : only pl s0 s) : only pl s0 (State.qCfgWrite s q w).1 := by
  unfold State.qCfgWrite
  repeat' with_reducible first | assumption | exact parts_sub (by with_unfolding_all decide) hl | apply State.qEmpty_only | apply State.setReg_only | apply State.wr_only | apply ite_only | apply ite_only1

theorem State.pidxWrite_only {s0 : State} {pl : List Part} {s : State} (q : Nat) (w : Word) (hl : [.regs, .ctrs, .mgt, .logs, .irq] ⊆ pl) (hs0 : only pl s0 s) : only pl s0 (State.pidxWrite s q w).1 := by
  unfold State.pidxWrite
  repeat' with_reducible first | assumption | exact parts_sub (by with_unfolding_all decide) hl | apply State.qStop_only | apply State.wr_only | apply ite_only | apply ite_only1

theorem State.ovfWrite_only {s0 : State} {pl : List Part} {s : State} (off : Nat) (mask w : Word) (hl : [.regs] ⊆ pl) (hs0 : only pl s0 s) : only pl s0 (State.ovfWrite s off mask w).1 := by
  unfold State.ovfWrite
  repeat' with_reducible first | assumption | exact parts_sub (by with_unfolding_all decide) hl | apply State.setReg_only | apply ite_only | apply ite_only1

theorem State.qResumeWrite_only {s0 : State} {pl : List Part} {s : State} (w : Word) (hl : [.fen] ⊆ pl) (hs0 : only pl s0 s) : only pl s0 (State.qResumeWrite s w).1 := by
  unfold State.qResumeWrite
  repeat' with_reducible first | assumption | exact parts_sub (by with_unfolding_all decide) hl | intro _ _ _ _ | intro _ _ _ | intro _ _ | (apply only.lit <;> first | exact Or.inr rfl | exact Or.inl (parts_mem hl (by with_unfolding_all decide)) | skip)

end Sys2Proof.Machine
end

