-- ==== Sys2Proof/Laws/Frame/Procs.lean ====
section
/-! SUPPORT. The frames of Machine/Procs.lean: which parts of the state each operation and each command may change. -/

namespace Sys2Proof.Machine


theorem State.coreReset_only {s0 : State} {pl : List Part} {s : State} (k : Nat) (hl : [.regs, .ctrs, .mgt, .dbg, .logs, .irq, .procs, .cores] ⊆ pl) (hs0 : only pl s0 s) : only pl s0 (State.coreReset s k) := by
  unfold State.coreReset
  repeat' with_reducible first | assumption | exact parts_sub (by with_unfolding_all decide) hl | apply State.completeAll_only | apply State.reoffer_only | apply State.setProc_only | apply State.srcSet_only | apply State.wrb_only | dsimp only | intro _ _ _ _ | intro _ _ _ | intro _ _ | (apply only.lit <;> first | exact Or.inr rfl | exact Or.inl (parts_mem hl (by with_unfolding_all decide)) | skip)

theorem State.coreCtlWrite_only {s0 : State} {pl : List Part} {s : State} (k : Nat) (w : Word) (hl : [.regs, .ctrs, .mgt, .dbg, .logs, .irq, .procs, .cores] ⊆ pl) (hs0 : only pl s0 s) : only pl s0 (State.coreCtlWrite s k w) := by
  unfold State.coreCtlWrite
  repeat' with_reducible first | assumption | exact parts_sub (by with_unfolding_all decide) hl | apply State.coreReset_only | apply State.wrb_only | apply ite_only

theorem State.loadFault_only {s0 : State} {pl : List Part} {s : State} (c : Nat) (x : CpuLoad) (info : Nat) (hl : [.procs, .cores] ⊆ pl) (hs0 : only pl s0 s) : only pl s0 (State.loadFault s c x info) := by
  unfold State.loadFault
  repeat' with_reducible first | assumption | exact parts_sub (by with_unfolding_all decide) hl | apply State.cpuRan_only | apply State.setProc_only | apply ite_only | apply ite_only1 | apply ite_only2 | apply ite_only22 | apply ite_only21 | dsimp only

theorem State.loadAnswered_only {s0 : State} {pl : List Part} {s : State} (i : Nat) (st : Status) (x0 : Option CpuLoad) (hl : [.procs, .cores] ⊆ pl) (hs0 : only pl s0 s) : only pl s0 (State.loadAnswered s i st x0) := by
  unfold State.loadAnswered
  repeat' with_reducible first | assumption | exact parts_sub (by with_unfolding_all decide) hl | apply State.loadFault_only | apply ite_only | apply ite_only1 | apply ite_only2 | apply ite_only22 | apply ite_only21 | split

theorem execPoisonedWordLoad_only {s0 : State} {pl : List Part} (c : Fin 6) (x : CpuLoad) {s : State} (hl : [.procs, .cores] ⊆ pl) (hs0 : only pl s0 s) : OnlyR pl s0 (execPoisonedWordLoad c x s) := by
  unfold execPoisonedWordLoad
  repeat' with_reducible first | assumption | exact parts_sub (by with_unfolding_all decide) hl | exact only.refl _ _ | apply OnlyR.next | apply ite_onlyR | apply State.cpuRan_only | apply State.loadFault_only | apply ite_only | apply ite_only1 | apply ite_only2 | apply ite_only22 | apply ite_only21 | split | (apply only.lit <;> first | exact Or.inr rfl | exact Or.inl (parts_mem hl (by with_unfolding_all decide)) | skip) | refine only.eq2 (by assumption) ?_ | refine only.eq22 (by assumption) ?_ | refine only.eq1 (by assumption) ?_

theorem execStoreErrorResponse_only {s0 : State} {pl : List Part} (c : Fin 6) (st : Fin 6) (a : BitVec 64) {s : State} (hl : [.regs, .ctrs, .mgt, .logs, .irq, .procs] ⊆ pl) (hs0 : only pl s0 s) : OnlyR pl s0 (execStoreErrorResponse c st a s) := by
  unfold execStoreErrorResponse
  repeat' with_reducible first | assumption | exact parts_sub (by with_unfolding_all decide) hl | exact only.refl _ _ | apply OnlyR.next | apply ite_onlyR | apply State.setProc_only | apply State.srcSet_only

theorem execMsterrClear_only {s0 : State} {pl : List Part} (c : Fin 6) {s : State} (hl : [.regs, .ctrs, .mgt, .logs, .irq, .procs] ⊆ pl) (hs0 : only pl s0 s) : OnlyR pl s0 (execMsterrClear c s) := by
  unfold execMsterrClear
  repeat' with_reducible first | assumption | exact parts_sub (by with_unfolding_all decide) hl | exact only.refl _ _ | apply OnlyR.next | apply ite_onlyR | apply State.setProc_only | apply State.srcSet_only

theorem execFastInterruptEntry_only {s0 : State} {pl : List Part} (c : Fin 6) (r : CpuRun) {s : State} (hl : [.regs, .irq, .procs, .cores] ⊆ pl) (hs0 : only pl s0 s) : OnlyR pl s0 (execFastInterruptEntry c r s) := by
  unfold execFastInterruptEntry
  repeat' with_reducible first | assumption | exact parts_sub (by with_unfolding_all decide) hl | exact only.refl _ _ | apply OnlyR.next | apply ite_onlyR | apply State.cpuRan_only | apply State.reoffer_only | apply State.setClaim_only | apply State.setLatch_only | apply State.setOffer_only | apply State.setProc_only | apply State.wrb_only | apply ite_only | apply ite_only1 | apply ite_only2 | apply ite_only22 | apply ite_only21 | dsimp only | split

theorem execFret_only {s0 : State} {pl : List Part} (c : Fin 6) (r : CpuRun) {s : State} (hl : [.regs, .irq, .procs, .cores] ⊆ pl) (hs0 : only pl s0 s) : OnlyR pl s0 (execFret c r s) := by
  unfold execFret
  repeat' with_reducible first | assumption | exact parts_sub (by with_unfolding_all decide) hl | exact only.refl _ _ | apply OnlyR.next | apply ite_onlyR | apply State.cpuRan_only | apply State.reoffer_only | apply State.setClaim_only | apply State.setProc_only | apply State.wrb_only | apply ite_only | apply ite_only1 | apply ite_only2 | apply ite_only22 | apply ite_only21 | dsimp only | split

theorem execInterruptAssert_only {s0 : State} {pl : List Part} (i : Fin 976) (b : Bool) {s : State} (hl : [.regs, .ctrs, .mgt, .logs, .irq] ⊆ pl) (hs0 : only pl s0 s) : OnlyR pl s0 (execInterruptAssert i b s) := by
  unfold execInterruptAssert
  repeat' with_reducible first | assumption | exact parts_sub (by with_unfolding_all decide) hl | exact only.refl _ _ | apply OnlyR.next | apply ite_onlyR | apply State.srcSet_only | apply ite_only | apply ite_only1 | apply ite_only2 | apply ite_only22 | apply ite_only21

theorem execWakeLatchEdge_only {s0 : State} {pl : List Part} (i : Fin 128) {s : State} (hl : [.regs, .irq] ⊆ pl) (hs0 : only pl s0 s) : OnlyR pl s0 (execWakeLatchEdge i s) := by
  unfold execWakeLatchEdge
  repeat' with_reducible first | assumption | exact parts_sub (by with_unfolding_all decide) hl | exact only.refl _ _ | apply OnlyR.next | apply ite_onlyR | apply State.reoffer_only | apply State.setLatch_only | apply ite_only

theorem State.srcCfgWrite_only {s0 : State} {pl : List Part} {s : State} (full : Bool) (i : Nat) (w : Word) (hl : [.regs, .irq] ⊆ pl) (hs0 : only pl s0 s) : only pl s0 (State.srcCfgWrite s full i w).1 := by
  unfold State.srcCfgWrite
  repeat' with_reducible first | assumption | exact parts_sub (by with_unfolding_all decide) hl | apply State.reoffer_only | apply State.setReg_only | apply ite_only | apply ite_only1

theorem State.pendWrite_only {s0 : State} {pl : List Part} {s : State} (wd : Nat) (w : Word) (hl : [.regs, .irq] ⊆ pl) (hs0 : only pl s0 s) : only pl s0 (State.pendWrite s wd w) := by
  unfold State.pendWrite
  repeat' with_reducible first | assumption | exact parts_sub (by with_unfolding_all decide) hl | apply State.reoffer_only | apply State.setLatch_only | apply State.setOffer_only | refine foldl_only _ _ (fun _ _ _ => ?_) ?_ | refine foldl_only1 _ _ (fun _ _ _ => ?_) ?_ | refine foldl_only2 _ _ (fun _ _ _ => ?_) ?_ | refine foldl_only22 _ _ (fun _ _ _ => ?_) ?_ | refine foldl_only21 _ _ (fun _ _ _ => ?_) ?_ | apply ite_only

theorem State.swiWrite_only {s0 : State} {pl : List Part} {s : State} (w : Word) (hl : [.regs, .irq] ⊆ pl) (hs0 : only pl s0 s) : only pl s0 (State.swiWrite s w).1 := by
  unfold State.swiWrite
  repeat' with_reducible first | assumption | exact parts_sub (by with_unfolding_all decide) hl | apply State.reoffer_only | apply State.setLatch_only | apply ite_only | apply ite_only1

theorem State.wakeLatWrite_only {s0 : State} {pl : List Part} {s : State} (wd : Nat) (w : Word) (hl : [.regs, .irq] ⊆ pl) (hs0 : only pl s0 s) : only pl s0 (State.wakeLatWrite s wd w) := by
  unfold State.wakeLatWrite
  repeat' with_reducible first | assumption | exact parts_sub (by with_unfolding_all decide) hl | apply State.reoffer_only | apply State.setLatch_only | apply State.setOffer_only | refine foldl_only _ _ (fun _ _ _ => ?_) ?_ | refine foldl_only1 _ _ (fun _ _ _ => ?_) ?_ | refine foldl_only2 _ _ (fun _ _ _ => ?_) ?_ | refine foldl_only22 _ _ (fun _ _ _ => ?_) ?_ | refine foldl_only21 _ _ (fun _ _ _ => ?_) ?_ | apply ite_only

theorem State.claimRead_only {s0 : State} {pl : List Part} {s : State} (c : Nat) (hl : [.regs, .irq, .procs] ⊆ pl) (hs0 : only pl s0 s) : only pl s0 (State.claimRead s c).2 := by
  unfold State.claimRead
  repeat' with_reducible first | assumption | exact parts_sub (by with_unfolding_all decide) hl | apply State.claim_only | split

theorem State.vclaimRead_only {s0 : State} {pl : List Part} {s : State} (v : Nat) (hl : [.irq] ⊆ pl) (hs0 : only pl s0 s) : only pl s0 (State.vclaimRead s v).2 := by
  unfold State.vclaimRead
  repeat' with_reducible first | assumption | exact parts_sub (by with_unfolding_all decide) hl | apply State.setClaim_only | apply State.setLatch_only | dsimp only | split | (apply only.lit <;> first | exact Or.inr rfl | exact Or.inl (parts_mem hl (by with_unfolding_all decide)) | skip)

theorem State.vcompleteWrite_only {s0 : State} {pl : List Part} {s : State} (v : Nat) (w : Word) (hl : [.irq] ⊆ pl) (hs0 : only pl s0 s) : only pl s0 (State.vcompleteWrite s v w) := by
  unfold State.vcompleteWrite
  repeat' with_reducible first | assumption | exact parts_sub (by with_unfolding_all decide) hl | apply State.setClaim_only | apply ite_only | apply ite_only1 | apply ite_only2 | apply ite_only22 | apply ite_only21 | dsimp only | (apply only.lit <;> first | exact Or.inr rfl | exact Or.inl (parts_mem hl (by with_unfolding_all decide)) | skip)

theorem State.mtip_only {s0 : State} {pl : List Part} {s : State} (k : Nat) (hl : [.regs, .procs] ⊆ pl) (hs0 : only pl s0 s) : only pl s0 (State.mtip s k) := by
  unfold State.mtip
  repeat' with_reducible first | assumption | exact parts_sub (by with_unfolding_all decide) hl | apply State.setProc_only | apply State.wrb_only | apply ite_only

theorem execMtimeCompare_only {s0 : State} {pl : List Part} (k : Fin 4) {s : State} (hl : [.regs, .procs] ⊆ pl) (hs0 : only pl s0 s) : OnlyR pl s0 (execMtimeCompare k s) := by
  unfold execMtimeCompare
  repeat' with_reducible first | assumption | exact parts_sub (by with_unfolding_all decide) hl | exact only.refl _ _ | apply OnlyR.next | apply ite_onlyR | apply State.mtip_only

theorem State.setDmaCh_only {s0 : State} {pl : List Part} {s : State} (c : Nat) (x : DmaCh) (hl : [.dma] ⊆ pl) (hs0 : only pl s0 s) : only pl s0 (State.setDmaCh s c x) := by
  unfold State.setDmaCh
  repeat' with_reducible first | assumption | exact parts_sub (by with_unfolding_all decide) hl | (apply only.lit <;> first | exact Or.inr rfl | exact Or.inl (parts_mem hl (by with_unfolding_all decide)) | skip)

theorem State.dmaIrq_only {s0 : State} {pl : List Part} {s : State} (c : Nat) (hl : [.regs, .ctrs, .mgt, .logs, .irq] ⊆ pl) (hs0 : only pl s0 s) : only pl s0 (State.dmaIrq s c) := by
  unfold State.dmaIrq
  repeat' with_reducible first | assumption | exact parts_sub (by with_unfolding_all decide) hl | apply State.srcSet_only

theorem State.dmaStopped_only {s0 : State} {pl : List Part} {s : State} (c err : Nat) (hl : [.regs, .ctrs, .mgt, .logs, .irq] ⊆ pl) (hs0 : only pl s0 s) : only pl s0 (State.dmaStopped s c err) := by
  unfold State.dmaStopped
  repeat' with_reducible first | assumption | exact parts_sub (by with_unfolding_all decide) hl | apply State.dmaIrq_only | apply State.wr_only | apply State.wrb_only

theorem State.dmaAbort_only {s0 : State} {pl : List Part} {s : State} (c : Nat) (hl : [.regs, .ctrs, .mgt, .logs, .irq, .dma] ⊆ pl) (hs0 : only pl s0 s) : only pl s0 (State.dmaAbort s c) := by
  unfold State.dmaAbort
  repeat' with_reducible first | assumption | exact parts_sub (by with_unfolding_all decide) hl | apply State.dmaStopped_only | apply State.setDmaCh_only | apply ite_only

theorem State.dmaClamp_only {s0 : State} {pl : List Part} {s : State} (v : Nat) (hl : [.regs, .ctrs, .mgt, .logs, .irq, .dma] ⊆ pl) (hs0 : only pl s0 s) : only pl s0 (State.dmaClamp s v) := by
  unfold State.dmaClamp
  repeat' with_reducible first | assumption | exact parts_sub (by with_unfolding_all decide) hl | apply State.dmaAbort_only | refine foldl_only _ _ (fun _ _ _ => ?_) ?_ | refine foldl_only1 _ _ (fun _ _ _ => ?_) ?_ | refine foldl_only2 _ _ (fun _ _ _ => ?_) ?_ | refine foldl_only22 _ _ (fun _ _ _ => ?_) ?_ | refine foldl_only21 _ _ (fun _ _ _ => ?_) ?_ | apply ite_only

theorem State.dmaCtlWrite_only {s0 : State} {pl : List Part} {s : State} (own : Bool) (c : Nat) (w : Word) (hl : [.regs, .ctrs, .mgt, .logs, .irq, .dma] ⊆ pl) (hs0 : only pl s0 s) : only pl s0 (State.dmaCtlWrite s own c w).1 := by
  unfold State.dmaCtlWrite
  repeat' with_reducible first | assumption | exact parts_sub (by with_unfolding_all decide) hl | apply State.dmaAbort_only | apply State.setDmaCh_only | apply State.wr_only | apply ite_only | apply ite_only1

theorem State.setSvcPort_only {s0 : State} {pl : List Part} {s : State} (k : Nat) (p : SvcPort) (hl : [.svc] ⊆ pl) (hs0 : only pl s0 s) : only pl s0 (State.setSvcPort s k p) := by
  unfold State.setSvcPort
  repeat' with_reducible first | assumption | exact parts_sub (by with_unfolding_all decide) hl | (apply only.lit <;> first | exact Or.inr rfl | exact Or.inl (parts_mem hl (by with_unfolding_all decide)) | skip)

theorem State.svcIrq_only {s0 : State} {pl : List Part} {s : State} (k : Nat) (hl : [.regs, .ctrs, .mgt, .logs, .irq] ⊆ pl) (hs0 : only pl s0 s) : only pl s0 (State.svcIrq s k) := by
  unfold State.svcIrq
  repeat' with_reducible first | assumption | exact parts_sub (by with_unfolding_all decide) hl | apply State.srcSet_only

theorem State.svcFlag_only {s0 : State} {pl : List Part} {s : State} (k bit : Nat) (hl : [.regs, .ctrs, .mgt, .logs, .irq] ⊆ pl) (hs0 : only pl s0 s) : only pl s0 (State.svcFlag s k bit) := by
  unfold State.svcFlag
  repeat' with_reducible first | assumption | exact parts_sub (by with_unfolding_all decide) hl | apply State.svcIrq_only | apply State.wrm_only

theorem State.txPush_only {s0 : State} {pl : List Part} {s : State} (k : Nat) (w : BitVec 16) (hl : [.svc] ⊆ pl) (hs0 : only pl s0 s) : only pl s0 (State.txPush s k w).1 := by
  unfold State.txPush
  repeat' with_reducible first | assumption | exact parts_sub (by with_unfolding_all decide) hl | apply State.setSvcPort_only | apply ite_only | apply ite_only1

theorem State.rxPop_only {s0 : State} {pl : List Part} {s : State} (k : Nat) (hl : [.svc] ⊆ pl) (hs0 : only pl s0 s) : only pl s0 (State.rxPop s k).2 := by
  unfold State.rxPop
  repeat' with_reducible first | assumption | exact parts_sub (by with_unfolding_all decide) hl | apply State.setSvcPort_only | split

theorem execPeripheralWordReceived_only {s0 : State} {pl : List Part} (k : Fin 20) (w : BitVec 16) {s : State} (hl : [.regs, .ctrs, .mgt, .logs, .irq, .svc] ⊆ pl) (hs0 : only pl s0 s) : OnlyR pl s0 (execPeripheralWordReceived k w s) := by
  unfold execPeripheralWordReceived
  repeat' with_reducible first | assumption | exact parts_sub (by with_unfolding_all decide) hl | exact only.refl _ _ | apply OnlyR.next | apply ite_onlyR | apply State.setSvcPort_only | apply State.svcFlag_only | apply State.wrb_only | apply ite_only | apply ite_only1 | apply ite_only2 | apply ite_only22 | apply ite_only21 | dsimp only | (apply only.lit <;> first | exact Or.inr rfl | exact Or.inl (parts_mem hl (by with_unfolding_all decide)) | skip)

theorem execPeripheralTransferDone_only {s0 : State} {pl : List Part} (k : Fin 20) (ws : List (BitVec 16)) {s : State} (hl : [.regs, .ctrs, .mgt, .logs, .irq, .svc] ⊆ pl) (hs0 : only pl s0 s) : OnlyR pl s0 (execPeripheralTransferDone k ws s) := by
  unfold execPeripheralTransferDone
  repeat' with_reducible first | assumption | exact parts_sub (by with_unfolding_all decide) hl | exact only.refl _ _ | apply OnlyR.next | apply ite_onlyR | apply State.setSvcPort_only | apply State.svcFlag_only | apply State.txPush_only | refine foldl_only _ _ (fun _ _ _ => ?_) ?_ | refine foldl_only1 _ _ (fun _ _ _ => ?_) ?_ | refine foldl_only2 _ _ (fun _ _ _ => ?_) ?_ | refine foldl_only22 _ _ (fun _ _ _ => ?_) ?_ | refine foldl_only21 _ _ (fun _ _ _ => ?_) ?_ | apply ite_only | apply ite_only1 | apply ite_only2 | apply ite_only22 | apply ite_only21 | dsimp only | intro _ _ _ _ | intro _ _ _ | intro _ _ | (apply only.lit <;> first | exact Or.inr rfl | exact Or.inl (parts_mem hl (by with_unfolding_all decide)) | skip)

theorem execI2cTimeout_only {s0 : State} {pl : List Part} (j : Fin 8) {s : State} (hl : [.regs, .ctrs, .mgt, .logs, .irq, .svc] ⊆ pl) (hs0 : only pl s0 s) : OnlyR pl s0 (execI2cTimeout j s) := by
  unfold execI2cTimeout
  repeat' with_reducible first | assumption | exact parts_sub (by with_unfolding_all decide) hl | exact only.refl _ _ | apply OnlyR.next | apply ite_onlyR | apply State.setSvcPort_only | apply State.svcFlag_only | apply State.wrb_only

theorem State.svcCfgWrite_only {s0 : State} {pl : List Part} {s : State} (k : Nat) (w : Word) (hl : [.regs] ⊆ pl) (hs0 : only pl s0 s) : only pl s0 (State.svcCfgWrite s k w).1 := by
  unfold State.svcCfgWrite
  repeat' with_reducible first | assumption | exact parts_sub (by with_unfolding_all decide) hl | apply State.setReg_only | apply ite_only | apply ite_only1

end Sys2Proof.Machine
end

