-- ==== Sys2Proof/Laws/Frame/Vats.lean ====
section
/-! SUPPORT. The frames of Machine/Vats.lean: which parts of the state each operation and each command may change. -/

namespace Sys2Proof.Machine


theorem State.dropSources_only {s0 : State} {pl : List Part} {s : State} (v : Nat) (hl : [.ctrs, .mgt, .logs, .irq] ⊆ pl) (hs0 : only pl s0 s) : only pl s0 (State.dropSources s v) := by
  unfold State.dropSources
  repeat' with_reducible first | assumption | exact parts_sub (by with_unfolding_all decide) hl | apply State.bump_only | apply State.setClaim_only | apply State.setLatch_only | apply State.setLevel_only | apply State.setOffer_only | refine foldl_only _ _ (fun _ _ _ => ?_) ?_ | refine foldl_only1 _ _ (fun _ _ _ => ?_) ?_ | refine foldl_only2 _ _ (fun _ _ _ => ?_) ?_ | refine foldl_only22 _ _ (fun _ _ _ => ?_) ?_ | refine foldl_only21 _ _ (fun _ _ _ => ?_) ?_ | apply ite_only | apply ite_only1 | apply ite_only2 | apply ite_only22 | apply ite_only21 | dsimp only | intro _ _ _ _ | intro _ _ _ | intro _ _ | (apply only.lit <;> first | exact Or.inl (parts_mem hl (by with_unfolding_all decide)) | exact Or.inr rfl | skip)

theorem State.clampTime_only {s0 : State} {pl : List Part} {s : State} (v b : Nat) (hl : [.regs] ⊆ pl) (hs0 : only pl s0 s) : only pl s0 (State.clampTime s v b) := by
  unfold State.clampTime
  repeat' with_reducible first | assumption | exact parts_sub (by with_unfolding_all decide) hl | apply State.wr_only

theorem State.initAbort_only {s0 : State} {pl : List Part} {s : State} (v : Nat) (hl : [.regs, .img] ⊆ pl) (hs0 : only pl s0 s) : only pl s0 (State.initAbort s v) := by
  unfold State.initAbort
  repeat' with_reducible first | assumption | exact parts_sub (by with_unfolding_all decide) hl | apply State.wrb_only | apply ite_only | apply ite_only1 | apply ite_only2 | apply ite_only22 | apply ite_only21 | split | (apply only.lit <;> first | exact Or.inl (parts_mem hl (by with_unfolding_all decide)) | exact Or.inr rfl | skip)

theorem State.modEnds_only {s0 : State} {pl : List Part} {s : State} (m : ModLoad) (hl : [.regs, .ctrs, .mgt, .logs, .irq] ⊆ pl) (hs0 : only pl s0 s) : only pl s0 (State.modEnds s m) := by
  unfold State.modEnds
  repeat' with_reducible first | assumption | exact parts_sub (by with_unfolding_all decide) hl | apply State.raiseVat_only | apply State.srcPulse_only | apply State.wr_only | apply ite_only

theorem State.setMod_only {s0 : State} {pl : List Part} {s : State} (v : Nat) (f : ModLoad → Option ModLoad) (hl : [.cfg] ⊆ pl) (hs0 : only pl s0 s) : only pl s0 (State.setMod s v f) := by
  unfold State.setMod
  repeat' with_reducible first | assumption | exact parts_sub (by with_unfolding_all decide) hl | apply ite_only | apply ite_only1 | apply ite_only2 | apply ite_only22 | apply ite_only21 | intro _ _ _ _ | intro _ _ _ | intro _ _ | (apply only.lit <;> first | exact Or.inl (parts_mem hl (by with_unfolding_all decide)) | exact Or.inr rfl | skip)

theorem State.modFail_only {s0 : State} {pl : List Part} {s : State} (v result reason : Nat) (hl : [.regs, .ctrs, .mgt, .logs, .irq, .cfg, .img] ⊆ pl) (hs0 : only pl s0 s) : only pl s0 (State.modFail s v result reason) := by
  unfold State.modFail
  repeat' with_reducible first | assumption | exact parts_sub (by with_unfolding_all decide) hl | apply State.modEnds_only | apply State.setMod_only | apply State.showSwaps_only | apply State.wrb_only | apply ite_only | apply ite_only1 | apply ite_only2 | apply ite_only22 | apply ite_only21 | dsimp only | intro _ _ _ _ | intro _ _ _ | intro _ _ | split | (apply only.lit <;> first | exact Or.inl (parts_mem hl (by with_unfolding_all decide)) | exact Or.inr rfl | skip)

theorem State.assertVat_only {s0 : State} {pl : List Part} {s : State} (v b : Nat) (hl : [.regs, .ctrs, .latches, .freeCtr, .mgt, .logs, .irq, .noc, .cfg, .img, .fab, .slc, .mem, .dma, .pins] ⊆ pl) (hs0 : only pl s0 s) : only pl s0 (State.assertVat s v b) := by
  unfold State.assertVat
  repeat' with_reducible first | assumption | exact parts_sub (by with_unfolding_all decide) hl | apply State.clampPins_only | apply State.clampTime_only | apply State.dmaClamp_only | apply State.dropSources_only | apply State.holdMems_only | apply State.holdSlices_only | apply State.holdSyncs_only | apply State.holdTiles_only | apply State.initAbort_only | apply State.modFail_only | apply State.orphanVat_only | apply State.takeSnap_only | apply State.wrb_only | apply ite_only | apply ite_only1 | apply ite_only2 | apply ite_only22 | apply ite_only21 | dsimp only | intro _ _ _ _ | intro _ _ _ | intro _ _

theorem State.clearVatMems_only {s0 : State} {pl : List Part} {s : State} (v : Nat) (hl : [.slc, .mem] ⊆ pl) (hs0 : only pl s0 s) : only pl s0 (State.clearVatMems s v) := by
  unfold State.clearVatMems
  repeat' with_reducible first | assumption | exact parts_sub (by with_unfolding_all decide) hl | apply State.clearMems_only | apply State.clearOpm_only

theorem State.bootUpdate_only {s0 : State} {pl : List Part} {s : State} (f : List Byte → List Byte) (hl : [.cel] ⊆ pl) (hs0 : only pl s0 s) : only pl s0 (State.bootUpdate s f) := by
  unfold State.bootUpdate
  repeat' with_reducible first | assumption | exact parts_sub (by with_unfolding_all decide) hl | apply State.celProgram_only | apply State.eraseSector_only | dsimp only | intro _ _ _ _ | intro _ _ _ | intro _ _ | split

theorem State.wantInit_only {s0 : State} {pl : List Part} {s : State} (v : Nat) (hl : [.regs, .img] ⊆ pl) (hs0 : only pl s0 s) : only pl s0 (State.wantInit s v) := by
  unfold State.wantInit
  repeat' with_reducible first | assumption | exact parts_sub (by with_unfolding_all decide) hl | apply State.wrb_only | apply ite_only | apply ite_only1 | apply ite_only2 | apply ite_only22 | apply ite_only21 | dsimp only | (apply only.lit <;> first | exact Or.inl (parts_mem hl (by with_unfolding_all decide)) | exact Or.inr rfl | skip)

theorem State.vatResetEvent_only {s0 : State} {pl : List Part} {s : State} (v : Nat) (hl : [.ctrs, .mgt, .logs] ⊆ pl) (hs0 : only pl s0 s) : only pl s0 (State.vatResetEvent s v) := by
  unfold State.vatResetEvent
  repeat' with_reducible first | assumption | exact parts_sub (by with_unfolding_all decide) hl | apply State.raiseVat_only

theorem State.assertReset_only {s0 : State} {pl : List Part} {s : State} (v : Nat) (clear : Bool) (hl : [.regs, .ctrs, .latches, .freeCtr, .mgt, .logs, .irq, .noc, .cfg, .img, .fab, .slc, .mem, .dma, .pins] ⊆ pl) (hs0 : only pl s0 s) : only pl s0 (State.assertReset s v clear) := by
  unfold State.assertReset
  repeat' with_reducible first | assumption | exact parts_sub (by with_unfolding_all decide) hl | apply State.assertVat_only | apply State.bump_only | apply State.clearVatMems_only | apply State.vatResetEvent_only | apply State.wrb_only | apply ite_only | apply ite_only1 | apply ite_only2 | apply ite_only22 | apply ite_only21 | dsimp only | (apply only.lit <;> first | exact Or.inr rfl | exact Or.inl (parts_mem hl (by with_unfolding_all decide)) | skip)

theorem State.setRstReq_only {s0 : State} {pl : List Part} {s : State} (v n : Nat) (hl : [.cfg] ⊆ pl) (hs0 : only pl s0 s) : only pl s0 (State.setRstReq s v n) := by
  unfold State.setRstReq
  repeat' with_reducible first | assumption | exact parts_sub (by with_unfolding_all decide) hl | (apply only.lit <;> first | exact Or.inl (parts_mem hl (by with_unfolding_all decide)) | exact Or.inr rfl | skip)

theorem State.setHold_only {s0 : State} {pl : List Part} {s : State} (v n : Nat) (hl : [.cfg] ⊆ pl) (hs0 : only pl s0 s) : only pl s0 (State.setHold s v n) := by
  unfold State.setHold
  repeat' with_reducible first | assumption | exact parts_sub (by with_unfolding_all decide) hl | (apply only.lit <;> first | exact Or.inl (parts_mem hl (by with_unfolding_all decide)) | exact Or.inr rfl | skip)

theorem execVatResetAssertion_only {s0 : State} {pl : List Part} (v : Fin 16) {s : State} (hl : [.regs, .ctrs, .latches, .freeCtr, .mgt, .logs, .irq, .noc, .cfg, .img, .fab, .slc, .mem, .dma, .pins] ⊆ pl) (hs0 : only pl s0 s) : OnlyR pl s0 (execVatResetAssertion v s) := by
  unfold execVatResetAssertion
  repeat' with_reducible first | assumption | exact parts_sub (by with_unfolding_all decide) hl | exact only.refl _ _ | apply OnlyR.next | apply ite_onlyR | apply State.assertReset_only | apply State.setRstReq_only

theorem execVatResetHoldExpiry_only {s0 : State} {pl : List Part} (v : Fin 16) {s : State} (hl : [.cfg] ⊆ pl) (hs0 : only pl s0 s) : OnlyR pl s0 (execVatResetHoldExpiry v s) := by
  unfold execVatResetHoldExpiry
  repeat' with_reducible first | assumption | exact parts_sub (by with_unfolding_all decide) hl | exact only.refl _ _ | apply OnlyR.next | apply ite_onlyR | apply State.setHold_only

theorem execVatRelease_only {s0 : State} {pl : List Part} (v : Fin 16) {s : State} (hl : [.regs, .ctrs, .mgt, .logs, .noc, .cfg, .fab, .slc, .fen] ⊆ pl) (hs0 : only pl s0 s) : OnlyR pl s0 (execVatRelease v s) := by
  unfold execVatRelease
  repeat' with_reducible first | assumption | exact parts_sub (by with_unfolding_all decide) hl | exact only.refl _ _ | apply OnlyR.next | apply ite_onlyR | apply State.dropSnap_only | apply State.fillVatRegs_only | apply State.releaseSector_only | apply State.vatResetEvent_only | apply State.wrb_only | refine foldl_only _ _ (fun _ _ _ => ?_) ?_ | refine foldl_only1 _ _ (fun _ _ _ => ?_) ?_ | refine foldl_only2 _ _ (fun _ _ _ => ?_) ?_ | refine foldl_only22 _ _ (fun _ _ _ => ?_) ?_ | refine foldl_only21 _ _ (fun _ _ _ => ?_) ?_ | apply ite_only | apply ite_only1 | apply ite_only2 | apply ite_only22 | apply ite_only21 | dsimp only | intro _ _ _ _ | intro _ _ _ | intro _ _ | (apply only.lit <;> first | exact Or.inr rfl | exact Or.inl (parts_mem hl (by with_unfolding_all decide)) | skip)

theorem State.reloadFrame_only {s0 : State} {pl : List Part} {s : State} (v n : Nat) (hl : [.ctrs, .mgt, .logs, .cfg, .slc] ⊆ pl) (hs0 : only pl s0 s) : only pl s0 (State.reloadFrame s v n) := by
  unfold State.reloadFrame
  repeat' with_reducible first | assumption | exact parts_sub (by with_unfolding_all decide) hl | apply State.bump_only | apply State.loadLive_only | apply State.setPerr_only | dsimp only | split | (apply only.lit <;> first | exact Or.inr rfl | exact Or.inl (parts_mem hl (by with_unfolding_all decide)) | skip) | refine only.eq2 (by assumption) ?_ | refine only.eq22 (by assumption) ?_ | refine only.eq1 (by assumption) ?_

theorem execMemoryFrameReload_only {s0 : State} {pl : List Part} (v : Fin 16) {s : State} (hl : [.regs, .ctrs, .mgt, .logs, .cfg, .img, .slc] ⊆ pl) (hs0 : only pl s0 s) : OnlyR pl s0 (execMemoryFrameReload v s) := by
  unfold execMemoryFrameReload
  repeat' with_reducible first | assumption | exact parts_sub (by with_unfolding_all decide) hl | exact only.refl _ _ | apply OnlyR.next | apply ite_onlyR | apply State.reloadFrame_only | apply State.wantInit_only | refine foldl_only _ _ (fun _ _ _ => ?_) ?_ | refine foldl_only1 _ _ (fun _ _ _ => ?_) ?_ | refine foldl_only2 _ _ (fun _ _ _ => ?_) ?_ | refine foldl_only22 _ _ (fun _ _ _ => ?_) ?_ | refine foldl_only21 _ _ (fun _ _ _ => ?_) ?_ | apply ite_only | apply ite_only1 | apply ite_only2 | apply ite_only22 | apply ite_only21 | dsimp only | intro _ _ _ _ | intro _ _ _ | intro _ _ | (apply only.lit <;> first | exact Or.inl (parts_mem hl (by with_unfolding_all decide)) | exact Or.inr rfl | skip)

theorem State.closeGates_only {s0 : State} {pl : List Part} {s : State} (secs : List Nat) (hl : [.regs] ⊆ pl) (hs0 : only pl s0 s) : only pl s0 (State.closeGates s secs) := by
  unfold State.closeGates
  repeat' with_reducible first | assumption | exact parts_sub (by with_unfolding_all decide) hl | apply State.wrm_only | refine foldl_only _ _ (fun _ _ _ => ?_) ?_

theorem State.openGates_only {s0 : State} {pl : List Part} {s : State} (secs : List Nat) (hl : [.regs] ⊆ pl) (hs0 : only pl s0 s) : only pl s0 (State.openGates s secs) := by
  unfold State.openGates
  repeat' with_reducible first | assumption | exact parts_sub (by with_unfolding_all decide) hl | apply State.wrm_only | refine foldl_only _ _ (fun _ _ _ => ?_) ?_ | refine foldl_only1 _ _ (fun _ _ _ => ?_) ?_ | refine foldl_only2 _ _ (fun _ _ _ => ?_) ?_ | refine foldl_only22 _ _ (fun _ _ _ => ?_) ?_ | refine foldl_only21 _ _ (fun _ _ _ => ?_) ?_ | intro _ _ _ _ | intro _ _ _ | intro _ _

theorem execSectorGateOpen_only {s0 : State} {pl : List Part} (sec : Fin 224) {s : State} (hl : [.regs] ⊆ pl) (hs0 : only pl s0 s) : OnlyR pl s0 (execSectorGateOpen sec s) := by
  unfold execSectorGateOpen
  repeat' with_reducible first | assumption | exact parts_sub (by with_unfolding_all decide) hl | exact only.refl _ _ | apply OnlyR.next | apply ite_onlyR | apply State.openGates_only | apply ite_only | apply ite_only1 | apply ite_only2 | apply ite_only22 | apply ite_only21 | dsimp only

theorem State.setGating_only {s0 : State} {pl : List Part} {s : State} (v n : Nat) (hl : [.cfg] ⊆ pl) (hs0 : only pl s0 s) : only pl s0 (State.setGating s v n) := by
  unfold State.setGating
  repeat' with_reducible first | assumption | exact parts_sub (by with_unfolding_all decide) hl | (apply only.lit <;> first | exact Or.inr rfl | exact Or.inl (parts_mem hl (by with_unfolding_all decide)) | skip)

theorem State.gateStart_only {s0 : State} {pl : List Part} {s : State} (v : Nat) (hl : [.regs, .ctrs, .latches, .freeCtr, .mgt, .logs, .irq, .noc, .cfg, .img, .churn, .fab, .slc, .mem, .dma, .pins] ⊆ pl) (hs0 : only pl s0 s) : only pl s0 (State.gateStart s v) := by
  unfold State.gateStart
  exact State.closeGates_only _ (parts_sub (by decide) hl) (State.wrb_only _ _ (parts_sub (by decide) hl)
    (cfg_only _ (parts_sub (by decide) hl) (State.dropRepairs_only _ (parts_sub (by decide) hl) (State.setGating_only _ _
      (parts_sub (by decide) hl) (State.assertReset_only _ _ (parts_sub (by decide) hl) hs0)))))

theorem State.ungateStart_only {s0 : State} {pl : List Part} {s : State} (v : Nat) (hl : [.cfg] ⊆ pl) (hs0 : only pl s0 s) : only pl s0 (State.ungateStart s v) := by
  unfold State.ungateStart
  repeat' with_reducible first | assumption | exact parts_sub (by with_unfolding_all decide) hl | apply State.setGating_only | dsimp only | (apply only.lit <;> first | exact Or.inl (parts_mem hl (by with_unfolding_all decide)) | exact Or.inr rfl | skip)

theorem execVatGatingDone_only {s0 : State} {pl : List Part} (v : Fin 16) {s : State} (hl : [.regs, .ctrs, .latches, .mgt, .logs, .cfg, .slc, .mem] ⊆ pl) (hs0 : only pl s0 s) : OnlyR pl s0 (execVatGatingDone v s) := by
  unfold execVatGatingDone
  repeat' with_reducible first | assumption | exact parts_sub (by with_unfolding_all decide) hl | exact only.refl _ _ | apply OnlyR.next | apply ite_onlyR | apply State.clearVatMems_only | apply State.closeGates_only | apply State.holdSlices_only | apply State.raiseVat_only | apply State.setGating_only | apply State.wrb_only | apply ite_only | apply ite_only1 | apply ite_only2 | apply ite_only22 | apply ite_only21 | dsimp only | intro _ _ _ _ | intro _ _ _ | intro _ _ | (apply only.lit <;> first | exact Or.inr rfl | exact Or.inl (parts_mem hl (by with_unfolding_all decide)) | skip)

theorem State.vatCtrlWrite_only {s0 : State} {pl : List Part} {s : State} (v : Nat) (w : Word) (hl : [.regs, .ctrs, .latches, .freeCtr, .mgt, .logs, .irq, .noc, .cfg, .img, .churn, .fab, .slc, .mem, .dma, .pins] ⊆ pl) (hs0 : only pl s0 s) : only pl s0 (State.vatCtrlWrite s v w).1 := by
  unfold State.vatCtrlWrite
  repeat' with_reducible first | assumption | exact parts_sub (by with_unfolding_all decide) hl | apply State.gateStart_only | apply State.setReg_only | apply State.setRstReq_only | apply State.ungateStart_only | apply ite_only | apply ite_only1

theorem State.assignWrite_only {s0 : State} {pl : List Part} {s : State} (v k : Nat) (w : Word) (hl : [.regs] ⊆ pl) (hs0 : only pl s0 s) : only pl s0 (State.assignWrite s v k w).1 := by
  unfold State.assignWrite
  repeat' with_reducible first | assumption | exact parts_sub (by with_unfolding_all decide) hl | apply State.setReg_only | apply ite_only | apply ite_only1

theorem State.mregWrite_only {s0 : State} {pl : List Part} {s : State} (v k : Nat) (w : Word) (hl : [.regs] ⊆ pl) (hs0 : only pl s0 s) : only pl s0 (State.mregWrite s v k w).1 := by
  unfold State.mregWrite
  repeat' with_reducible first | assumption | exact parts_sub (by with_unfolding_all decide) hl | apply State.setReg_only | apply State.wr_only | apply ite_only | apply ite_only1

end Sys2Proof.Machine
end

