-- ==== Sys2Proof/Laws/Frame/Loads.lean ====
section
/-! SUPPORT. The frames of Machine/Loads.lean: which parts of the state each operation and each command may change. -/

namespace Sys2Proof.Machine


theorem State.closeWindow_only {s0 : State} {pl : List Part} {s : State} (v : Nat) (hl : [.regs, .cfg] ⊆ pl) (hs0 : only pl s0 s) : only pl s0 (State.closeWindow s v) := by
  unfold State.closeWindow
  repeat' with_reducible first | assumption | exact parts_sub (by with_unfolding_all decide) hl | apply State.wr_only | (apply only.lit <;> first | exact Or.inl (parts_mem hl (by with_unfolding_all decide)) | exact Or.inr rfl | skip)

theorem State.openWindow_only {s0 : State} {pl : List Part} {s : State} (v ms : Nat) (hl : [.regs, .cfg] ⊆ pl) (hs0 : only pl s0 s) : only pl s0 (State.openWindow s v ms) := by
  unfold State.openWindow
  repeat' with_reducible first | assumption | exact parts_sub (by with_unfolding_all decide) hl | apply State.wr_only | (apply only.lit <;> first | exact Or.inl (parts_mem hl (by with_unfolding_all decide)) | exact Or.inr rfl | skip)

theorem State.setExpiring_only {s0 : State} {pl : List Part} {s : State} (v : Nat) (p : Option Bool) (hl : [.cfg] ⊆ pl) (hs0 : only pl s0 s) : only pl s0 (State.setExpiring s v p) := by
  unfold State.setExpiring
  repeat' with_reducible first | assumption | exact parts_sub (by with_unfolding_all decide) hl | (apply only.lit <;> first | exact Or.inl (parts_mem hl (by with_unfolding_all decide)) | exact Or.inr rfl | skip)

theorem State.setLoad_only {s0 : State} {pl : List Part} {s : State} (v : Nat) (op : Option LoadOp) (hl : [.cfg] ⊆ pl) (hs0 : only pl s0 s) : only pl s0 (State.setLoad s v op) := by
  unfold State.setLoad
  repeat' with_reducible first | assumption | exact parts_sub (by with_unfolding_all decide) hl | (apply only.lit <;> first | exact Or.inl (parts_mem hl (by with_unfolding_all decide)) | exact Or.inr rfl | skip)

theorem State.churnStop_only {s0 : State} {pl : List Part} {s : State} (hl : [.regs, .churn] ⊆ pl) (hs0 : only pl s0 s) : only pl s0 (State.churnStop s) := by
  unfold State.churnStop
  repeat' with_reducible first | assumption | exact parts_sub (by with_unfolding_all decide) hl | apply State.wrb_only | (apply only.lit <;> first | exact Or.inl (parts_mem hl (by with_unfolding_all decide)) | exact Or.inr rfl | skip)

theorem State.churnStart_only {s0 : State} {pl : List Part} {s : State} (hl : [.regs, .churn] ⊆ pl) (hs0 : only pl s0 s) : only pl s0 (State.churnStart s) := by
  unfold State.churnStart
  repeat' with_reducible first | assumption | exact parts_sub (by with_unfolding_all decide) hl | apply State.wrb_only | apply ite_only | apply ite_only1 | apply ite_only2 | apply ite_only22 | apply ite_only21 | (apply only.lit <;> first | exact Or.inl (parts_mem hl (by with_unfolding_all decide)) | exact Or.inr rfl | skip)

theorem State.enterFallback_only {s0 : State} {pl : List Part} {s : State} (hl : [.regs, .ctrs, .latches, .freeCtr, .mgt, .logs, .irq, .noc, .cfg, .img, .churn, .fab, .slc, .mem, .cel, .scr, .dma, .bist, .pins] ⊆ pl) (hs0 : only pl s0 s) : only pl s0 (State.enterFallback s) := by
  unfold State.enterFallback
  repeat' with_reducible first | assumption | exact parts_sub (by with_unfolding_all decide) hl | apply State.assertVat_only | apply State.bistAbort_only | apply State.churnStop_only | apply State.closeWindow_only | apply State.enterMode_only | apply State.setErrN_only | apply State.setExpiring_only | apply State.showSwaps_only | apply State.wrb_only | refine foldl_only _ _ (fun _ _ _ => ?_) ?_ | refine foldl_only1 _ _ (fun _ _ _ => ?_) ?_ | refine foldl_only2 _ _ (fun _ _ _ => ?_) ?_ | refine foldl_only22 _ _ (fun _ _ _ => ?_) ?_ | refine foldl_only21 _ _ (fun _ _ _ => ?_) ?_ | apply ite_only | apply ite_only1 | apply ite_only2 | apply ite_only22 | apply ite_only21 | dsimp only | intro _ _ _ _ | intro _ _ _ | intro _ _ | (apply only.lit <;> first | exact Or.inr rfl | exact Or.inl (parts_mem hl (by with_unfolding_all decide)) | skip)

theorem State.beginSwap_only {s0 : State} {pl : List Part} {s : State} (op : LoadOp) (v b : Nat) (hl : [.regs, .ctrs, .latches, .freeCtr, .mgt, .logs, .irq, .noc, .cfg, .img, .churn, .fab, .slc, .mem, .dma, .pins] ⊆ pl) (hs0 : only pl s0 s) : only pl s0 (State.beginSwap s op v b) := by
  unfold State.beginSwap
  repeat' with_reducible first | assumption | exact parts_sub (by with_unfolding_all decide) hl | apply State.assertVat_only | apply State.closeWindow_only | apply State.dropRepairs_only | apply State.setExpiring_only | apply State.setLoad_only | apply State.showSwaps_only | apply State.wrb_only | apply ite_only | apply ite_only1 | apply ite_only2 | apply ite_only22 | apply ite_only21 | dsimp only | intro _ _ _ _ | intro _ _ _ | intro _ _ | (apply only.lit <;> first | exact Or.inr rfl | exact Or.inl (parts_mem hl (by with_unfolding_all decide)) | skip)

theorem State.beginWhole_only {s0 : State} {pl : List Part} {s : State} (op : LoadOp) (b : Option Nat) (hl : [.regs, .ctrs, .latches, .freeCtr, .mgt, .logs, .irq, .noc, .cfg, .img, .churn, .fab, .slc, .mem, .cel, .scr, .dma, .bist, .pins] ⊆ pl) (hs0 : only pl s0 s) : only pl s0 (State.beginWhole s op b) := by
  unfold State.beginWhole
  repeat' with_reducible first | assumption | exact parts_sub (by with_unfolding_all decide) hl | apply State.assertVat_only | apply State.bistAbort_only | apply State.churnStop_only | apply State.closeWindow_only | apply State.enterMode_only | apply State.holdPins_only | apply State.setExpiring_only | apply State.setLoad_only | apply State.wrb_only | refine foldl_only _ _ (fun _ _ _ => ?_) ?_ | refine foldl_only1 _ _ (fun _ _ _ => ?_) ?_ | refine foldl_only2 _ _ (fun _ _ _ => ?_) ?_ | refine foldl_only22 _ _ (fun _ _ _ => ?_) ?_ | refine foldl_only21 _ _ (fun _ _ _ => ?_) ?_ | apply ite_only | apply ite_only1 | apply ite_only2 | apply ite_only22 | apply ite_only21 | dsimp only | intro _ _ _ _ | intro _ _ _ | intro _ _ | (apply only.lit <;> first | exact Or.inr rfl | exact Or.inl (parts_mem hl (by with_unfolding_all decide)) | skip)

theorem State.startOp_only {s0 : State} {pl : List Part} {s : State} (o : PendOp) (hl : [.regs, .ctrs, .latches, .freeCtr, .mgt, .logs, .irq, .noc, .cfg, .img, .churn, .fab, .slc, .mem, .cel, .scr, .dma, .bist, .pins] ⊆ pl) (hs0 : only pl s0 s) : only pl s0 (State.startOp s o) := by
  unfold State.startOp
  repeat' with_reducible first | assumption | exact parts_sub (by with_unfolding_all decide) hl | apply State.beginSwap_only | apply State.beginWhole_only | refine foldl_only _ _ (fun _ _ _ => ?_) ?_ | refine foldl_only1 _ _ (fun _ _ _ => ?_) ?_ | refine foldl_only2 _ _ (fun _ _ _ => ?_) ?_ | refine foldl_only22 _ _ (fun _ _ _ => ?_) ?_ | refine foldl_only21 _ _ (fun _ _ _ => ?_) ?_ | apply ite_only | apply ite_only1 | apply ite_only2 | apply ite_only22 | apply ite_only21 | dsimp only | intro _ _ _ _ | intro _ _ _ | intro _ _

theorem State.launchOp_only {s0 : State} {pl : List Part} {s : State} (o : PendOp) (hl : [.regs, .ctrs, .latches, .freeCtr, .mgt, .logs, .irq, .noc, .cfg, .img, .churn, .fab, .slc, .mem, .cel, .scr, .dma, .bist, .pins] ⊆ pl) (hs0 : only pl s0 s) : only pl s0 (State.launchOp s o).1 := by
  unfold State.launchOp
  repeat' with_reducible first | assumption | exact parts_sub (by with_unfolding_all decide) hl | apply State.closeWindow_only | apply State.startOp_only | apply State.wrb_only | refine foldl_only _ _ (fun _ _ _ => ?_) ?_ | refine foldl_only1 _ _ (fun _ _ _ => ?_) ?_ | refine foldl_only2 _ _ (fun _ _ _ => ?_) ?_ | refine foldl_only22 _ _ (fun _ _ _ => ?_) ?_ | refine foldl_only21 _ _ (fun _ _ _ => ?_) ?_ | apply ite_only | apply ite_only1 | apply ite_only2 | apply ite_only22 | apply ite_only21 | dsimp only | (apply only.lit <;> first | exact Or.inr rfl | exact Or.inl (parts_mem hl (by with_unfolding_all decide)) | skip)

theorem State.confirmVat_only {s0 : State} {pl : List Part} {s : State} (v : Nat) (hl : [.regs, .cfg] ⊆ pl) (hs0 : only pl s0 s) : only pl s0 (State.confirmVat s v) := by
  unfold State.confirmVat
  repeat' with_reducible first | assumption | exact parts_sub (by with_unfolding_all decide) hl | apply State.closeWindow_only | apply State.setRole_only | apply State.setStandby_only | refine foldl_only _ _ (fun _ _ _ => ?_) ?_ | refine foldl_only1 _ _ (fun _ _ _ => ?_) ?_ | refine foldl_only2 _ _ (fun _ _ _ => ?_) ?_ | refine foldl_only22 _ _ (fun _ _ _ => ?_) ?_ | refine foldl_only21 _ _ (fun _ _ _ => ?_) ?_ | apply ite_only | apply ite_only1 | apply ite_only2 | apply ite_only22 | apply ite_only21 | dsimp only | intro _ _ _ _ | intro _ _ _ | intro _ _ | (apply only.lit <;> first | exact Or.inl (parts_mem hl (by with_unfolding_all decide)) | exact Or.inr rfl | skip)

theorem State.captureFrame_only {s0 : State} {pl : List Part} {s : State} (v n : Nat) (hl : [.cfg] ⊆ pl) (hs0 : only pl s0 s) : only pl s0 (State.captureFrame s v n) := by
  unfold State.captureFrame
  repeat' with_reducible first | assumption | exact parts_sub (by with_unfolding_all decide) hl | apply State.setPerr_only | apply State.setPlane_only | apply State.setShadow_only | apply State.setVol_only | dsimp only | intro _ _ _ _ | intro _ _ _ | intro _ _ | split

theorem State.captureOrWait_only {s0 : State} {pl : List Part} {s : State} (v n : Nat) (hl : [.cfg] ⊆ pl) (hs0 : only pl s0 s) : only pl s0 (State.captureOrWait s v n) := by
  unfold State.captureOrWait
  repeat' with_reducible first | assumption | exact parts_sub (by with_unfolding_all decide) hl | apply State.captureFrame_only | apply ite_only | apply ite_only1 | apply ite_only2 | apply ite_only22 | apply ite_only21 | (apply only.lit <;> first | exact Or.inr rfl | exact Or.inl (parts_mem hl (by with_unfolding_all decide)) | skip)

theorem State.capResume_only {s0 : State} {pl : List Part} {s : State} (hl : [.cfg] ⊆ pl) (hs0 : only pl s0 s) : only pl s0 (State.capResume s) := by
  unfold State.capResume
  repeat' with_reducible first | assumption | exact parts_sub (by with_unfolding_all decide) hl | apply State.captureOrWait_only | refine foldl_only _ _ (fun _ _ _ => ?_) ?_ | refine foldl_only1 _ _ (fun _ _ _ => ?_) ?_ | refine foldl_only2 _ _ (fun _ _ _ => ?_) ?_ | refine foldl_only22 _ _ (fun _ _ _ => ?_) ?_ | refine foldl_only21 _ _ (fun _ _ _ => ?_) ?_ | apply ite_only | apply ite_only1 | apply ite_only2 | apply ite_only22 | apply ite_only21 | dsimp only | intro _ _ _ _ | intro _ _ _ | intro _ _ | (apply only.lit <;> first | exact Or.inr rfl | exact Or.inl (parts_mem hl (by with_unfolding_all decide)) | skip)

theorem State.opStat_only {s0 : State} {pl : List Part} {s : State} (result v : Nat) (hl : [.regs] ⊆ pl) (hs0 : only pl s0 s) : only pl s0 (State.opStat s result v) := by
  unfold State.opStat
  repeat' with_reducible first | assumption | exact parts_sub (by with_unfolding_all decide) hl | apply State.wr_only | apply State.wrb_only

theorem State.opRun_only {s0 : State} {pl : List Part} {s : State} (code : Nat) (vats : List Nat) (slot : Nat) (tag : Word) (hl : [.regs, .ctrs, .latches, .freeCtr, .mgt, .logs, .irq, .noc, .cfg, .img, .churn, .fab, .slc, .mem, .cel, .scr, .dma, .bist, .pins] ⊆ pl) (hs0 : only pl s0 s) : only pl s0 (State.opRun s code vats slot tag).1 := by
  unfold State.opRun
  repeat' with_reducible first | assumption | exact parts_sub (by with_unfolding_all decide) hl | apply State.captureOrWait_only | apply State.confirmVat_only | apply State.launchOp_only | apply State.setStandby_only | apply State.wr_only | apply State.wrb_only | refine foldl_only _ _ (fun _ _ _ => ?_) ?_ | refine foldl_only1 _ _ (fun _ _ _ => ?_) ?_ | refine foldl_only2 _ _ (fun _ _ _ => ?_) ?_ | refine foldl_only22 _ _ (fun _ _ _ => ?_) ?_ | refine foldl_only21 _ _ (fun _ _ _ => ?_) ?_ | apply ite_only | apply ite_only1 | apply ite_only2 | apply ite_only22 | apply ite_only21 | dsimp only | intro _ _ _ _ | intro _ _ _ | intro _ _ | (apply only.lit <;> first | exact Or.inr rfl | exact Or.inl (parts_mem hl (by with_unfolding_all decide)) | skip)

theorem State.planeOp_only {s0 : State} {pl : List Part} {s : State} (code : Nat) (vats : List Nat) (tag : Word) (hl : [.regs, .ctrs, .latches, .freeCtr, .mgt, .logs, .irq, .noc, .cfg, .img, .churn, .fab, .slc, .mem, .cel, .scr, .dma, .bist, .pins] ⊆ pl) (hs0 : only pl s0 s) : only pl s0 (State.planeOp s code vats tag).1 := by
  unfold State.planeOp
  repeat' with_reducible first | assumption | exact parts_sub (by with_unfolding_all decide) hl | apply State.opRun_only | apply State.opStat_only | apply ite_only | apply ite_only1 | apply ite_only2 | apply ite_only22 | apply ite_only21 | dsimp only | split

theorem State.orderOp_only {s0 : State} {pl : List Part} {s : State} (code : Nat) (vats : List Nat) (tag : Word) (hl : [.regs, .ctrs, .latches, .freeCtr, .mgt, .logs, .irq, .noc, .cfg, .img, .churn, .fab, .slc, .mem, .cel, .scr, .dma, .bist, .pins] ⊆ pl) (hs0 : only pl s0 s) : only pl s0 (State.orderOp s code vats tag).1 := by
  unfold State.orderOp
  repeat' with_reducible first | assumption | exact parts_sub (by with_unfolding_all decide) hl | apply State.planeOp_only | apply State.setReg_only | apply State.wr_only | refine foldl_only _ _ (fun _ _ _ => ?_) ?_ | refine foldl_only1 _ _ (fun _ _ _ => ?_) ?_ | refine foldl_only2 _ _ (fun _ _ _ => ?_) ?_ | refine foldl_only22 _ _ (fun _ _ _ => ?_) ?_ | refine foldl_only21 _ _ (fun _ _ _ => ?_) ?_ | apply ite_only | apply ite_only1 | apply ite_only2 | apply ite_only22 | apply ite_only21 | dsimp only | intro _ _ _ _ | intro _ _ _ | intro _ _

theorem State.cfgOpWrite_only {s0 : State} {pl : List Part} {s : State} (w : Word) (hl : [.regs, .ctrs, .latches, .freeCtr, .mgt, .logs, .irq, .noc, .cfg, .img, .churn, .fab, .slc, .mem, .cel, .scr, .dma, .bist, .pins] ⊆ pl) (hs0 : only pl s0 s) : only pl s0 (State.cfgOpWrite s w).1 := by
  unfold State.cfgOpWrite
  repeat' with_reducible first | assumption | exact parts_sub (by with_unfolding_all decide) hl | apply State.planeOp_only | apply ite_only | apply ite_only1

theorem State.applyMap_only {s0 : State} {pl : List Part} {s : State} (map : Nat → Nat) (hl : [.regs] ⊆ pl) (hs0 : only pl s0 s) : only pl s0 (State.applyMap s map) := by
  unfold State.applyMap
  repeat' with_reducible first | assumption | exact parts_sub (by with_unfolding_all decide) hl | apply State.setReg_only | apply State.wr_only | apply State.wrb_only | refine foldl_only _ _ (fun _ _ _ => ?_) ?_ | refine foldl_only1 _ _ (fun _ _ _ => ?_) ?_ | refine foldl_only2 _ _ (fun _ _ _ => ?_) ?_ | refine foldl_only22 _ _ (fun _ _ _ => ?_) ?_ | refine foldl_only21 _ _ (fun _ _ _ => ?_) ?_ | apply ite_only

theorem State.applyRecord_only {s0 : State} {pl : List Part} {s : State} (hl : [.regs, .ctrs, .mgt, .logs, .irq, .noc, .span, .pins] ⊆ pl) (hs0 : only pl s0 s) : only pl s0 (State.applyRecord s) := by
  unfold State.applyRecord
  repeat' with_reducible first | assumption | exact parts_sub (by with_unfolding_all decide) hl | apply State.bindReg_only | apply State.hioRange_only | apply State.setReg_only | apply State.unbindReg_only | refine foldl_only _ _ (fun _ _ _ => ?_) ?_ | refine foldl_only1 _ _ (fun _ _ _ => ?_) ?_ | refine foldl_only2 _ _ (fun _ _ _ => ?_) ?_ | refine foldl_only22 _ _ (fun _ _ _ => ?_) ?_ | refine foldl_only21 _ _ (fun _ _ _ => ?_) ?_ | apply ite_only | apply ite_only1 | apply ite_only2 | apply ite_only22 | apply ite_only21 | dsimp only | intro _ _ _ _ | intro _ _ _ | intro _ _ | apply noc_only | (apply only.lit <;> first | exact Or.inr rfl | exact Or.inl (parts_mem hl (by with_unfolding_all decide)) | skip)

theorem State.applyClocks_only {s0 : State} {pl : List Part} {s : State} (hl : [.regs] ⊆ pl) (hs0 : only pl s0 s) : only pl s0 (State.applyClocks s) := by
  unfold State.applyClocks
  repeat' with_reducible first | assumption | exact parts_sub (by with_unfolding_all decide) hl | apply State.swErr_only | apply State.wr_only | apply State.wrb_only | refine foldl_only _ _ (fun _ _ _ => ?_) ?_ | refine foldl_only1 _ _ (fun _ _ _ => ?_) ?_ | refine foldl_only2 _ _ (fun _ _ _ => ?_) ?_ | refine foldl_only22 _ _ (fun _ _ _ => ?_) ?_ | refine foldl_only21 _ _ (fun _ _ _ => ?_) ?_ | apply ite_only | apply ite_only1 | apply ite_only2 | apply ite_only22 | apply ite_only21 | dsimp only | intro _ _ _ _ | intro _ _ _ | intro _ _

theorem State.copyFrames_only {s0 : State} {pl : List Part} {s : State} (mine : Nat → Bool) (p : Bool) (hl : [.ctrs, .mgt, .logs, .cfg, .slc] ⊆ pl) (hs0 : only pl s0 s) : only pl s0 (State.copyFrames s mine p).1 := by
  unfold State.copyFrames
  repeat' with_reducible first | assumption | exact parts_sub (by with_unfolding_all decide) hl | apply State.bump_only | apply State.loadLive_only | apply State.setPerr_only | apply State.setUnrest_only | refine foldl_only _ _ (fun _ _ _ => ?_) ?_ | refine foldl_only1 _ _ (fun _ _ _ => ?_) ?_ | refine foldl_only2 _ _ (fun _ _ _ => ?_) ?_ | refine foldl_only22 _ _ (fun _ _ _ => ?_) ?_ | refine foldl_only21 _ _ (fun _ _ _ => ?_) ?_ | apply ite_only | apply ite_only1 | apply ite_only2 | apply ite_only22 | apply ite_only21 | dsimp only | intro _ _ _ _ | intro _ _ _ | intro _ _ | split | (apply only.lit <;> first | exact Or.inr rfl | exact Or.inl (parts_mem hl (by with_unfolding_all decide)) | skip) | refine only.eq2 (by assumption) ?_ | refine only.eq22 (by assumption) ?_ | refine only.eq1 (by assumption) ?_

theorem State.passVat_only {s0 : State} {pl : List Part} {s : State} (map : Nat → Nat) (v : Nat) (p : Bool) (hl : [.ctrs, .mgt, .logs, .cfg, .slc] ⊆ pl) (hs0 : only pl s0 s) : only pl s0 (State.passVat s map v p).1 := by
  unfold State.passVat
  repeat' with_reducible first | assumption | exact parts_sub (by with_unfolding_all decide) hl | apply State.bump_only | apply State.copyFrames_only | apply State.raiseVat_only | apply ite_only | apply ite_only1

theorem State.runPass_only {s0 : State} {pl : List Part} {s : State} (whole : Bool) (plan : List (Nat × Bool)) (hl : [.ctrs, .mgt, .logs, .cfg, .slc] ⊆ pl) (hs0 : only pl s0 s) : only pl s0 (State.runPass s whole plan).1 := by
  unfold State.runPass
  repeat' with_reducible first | assumption | exact parts_sub (by with_unfolding_all decide) hl | apply State.passVat_only | refine foldl_only _ _ (fun _ _ _ => ?_) ?_ | refine foldl_only1 _ _ (fun _ _ _ => ?_) ?_

theorem State.failVat_only {s0 : State} {pl : List Part} {s : State} (v : Nat) (hl : [.regs, .cfg] ⊆ pl) (hs0 : only pl s0 s) : only pl s0 (State.failVat s v) := by
  unfold State.failVat
  repeat' with_reducible first | assumption | exact parts_sub (by with_unfolding_all decide) hl | apply State.closeGates_only | apply State.closeWindow_only | apply State.setExpiring_only | apply State.wrb_only | dsimp only

theorem State.afterLoad_only {s0 : State} {pl : List Part} {s : State} (v : Nat) (hl : [.regs, .cfg, .img, .slc, .mem] ⊆ pl) (hs0 : only pl s0 s) : only pl s0 (State.afterLoad s v) := by
  unfold State.afterLoad
  repeat' with_reducible first | assumption | exact parts_sub (by with_unfolding_all decide) hl | apply State.clearVatMems_only | apply State.openGates_only | apply State.readConfig_only | apply State.wantInit_only | apply State.wrb_only | refine foldl_only _ _ (fun _ _ _ => ?_) ?_ | refine foldl_only1 _ _ (fun _ _ _ => ?_) ?_ | refine foldl_only2 _ _ (fun _ _ _ => ?_) ?_ | refine foldl_only22 _ _ (fun _ _ _ => ?_) ?_ | refine foldl_only21 _ _ (fun _ _ _ => ?_) ?_ | dsimp only | (apply only.lit <;> first | exact Or.inr rfl | exact Or.inl (parts_mem hl (by with_unfolding_all decide)) | skip)

theorem State.actDone_only {s0 : State} {pl : List Part} {s : State} (v : Nat) (hl : [.ctrs, .mgt, .logs] ⊆ pl) (hs0 : only pl s0 s) : only pl s0 (State.actDone s v) := by
  unfold State.actDone
  repeat' with_reducible first | assumption | exact parts_sub (by with_unfolding_all decide) hl | apply State.raiseVat_only

theorem State.roleAfter_only {s0 : State} {pl : List Part} {s : State} (op : LoadOp) (v : Nat) (p : Bool) (hl : [.regs, .cfg] ⊆ pl) (hs0 : only pl s0 s) : only pl s0 (State.roleAfter s op v p) := by
  unfold State.roleAfter
  repeat' with_reducible first | assumption | exact parts_sub (by with_unfolding_all decide) hl | apply State.closeWindow_only | apply State.openWindow_only | apply State.setRole_only | apply ite_only | apply ite_only1 | apply ite_only2 | apply ite_only22 | apply ite_only21 | dsimp only | intro _ _ _ _ | intro _ _ _ | intro _ _ | (apply only.lit <;> first | exact Or.inr rfl | exact Or.inl (parts_mem hl (by with_unfolding_all decide)) | skip)

theorem State.countOp_only {s0 : State} {pl : List Part} {s : State} (code : Nat) (hl : [.ctrs, .mgt, .logs] ⊆ pl) (hs0 : only pl s0 s) : only pl s0 (State.countOp s code) := by
  unfold State.countOp
  repeat' with_reducible first | assumption | exact parts_sub (by with_unfolding_all decide) hl | apply State.bump_only | apply ite_only | apply ite_only1 | apply ite_only2 | apply ite_only22 | apply ite_only21

theorem State.finishWhole_only {s0 : State} {pl : List Part} {s : State} (op : LoadOp) (passed : List (Nat × Bool)) (hl : [.regs, .ctrs, .mgt, .logs, .irq, .noc, .span, .cfg, .img, .churn, .slc, .mem, .pins] ⊆ pl) (hs0 : only pl s0 s) : only pl s0 (State.finishWhole s op passed) := by
  unfold State.finishWhole
  repeat' with_reducible first | assumption | exact parts_sub (by with_unfolding_all decide) hl | apply State.actDone_only | apply State.afterLoad_only | apply State.applyClocks_only | apply State.applyMap_only | apply State.applyRecord_only | apply State.churnStart_only | apply State.closeGates_only | apply State.confirmVat_only | apply State.countOp_only | apply State.enterMode_only | apply State.failVat_only | apply State.raiseVat_only | apply State.roleAfter_only | apply State.setErrN_only | apply State.setLoad_only | apply State.showSwaps_only | refine foldl_only _ _ (fun _ _ _ => ?_) ?_ | refine foldl_only1 _ _ (fun _ _ _ => ?_) ?_ | refine foldl_only2 _ _ (fun _ _ _ => ?_) ?_ | refine foldl_only22 _ _ (fun _ _ _ => ?_) ?_ | refine foldl_only21 _ _ (fun _ _ _ => ?_) ?_ | apply ite_only | apply ite_only1 | apply ite_only2 | apply ite_only22 | apply ite_only21 | dsimp only | intro _ _ _ _ | intro _ _ _ | intro _ _ | (apply only.lit <;> first | exact Or.inr rfl | exact Or.inl (parts_mem hl (by with_unfolding_all decide)) | skip)

theorem State.wholePass_only {s0 : State} {pl : List Part} {s : State} (op : LoadOp) (hl : [.regs, .ctrs, .latches, .freeCtr, .mgt, .logs, .irq, .noc, .span, .cfg, .img, .churn, .fab, .slc, .mem, .cel, .scr, .dma, .bist, .pins] ⊆ pl) (hs0 : only pl s0 s) : only pl s0 (State.wholePass s op) := by
  unfold State.wholePass
  repeat' with_reducible first | assumption | exact parts_sub (by with_unfolding_all decide) hl | apply State.enterFallback_only | apply State.finishWhole_only | apply State.retry_only | apply State.runPass_only | apply State.setLoad_only | apply ite_only | apply ite_only1 | apply ite_only2 | apply ite_only22 | apply ite_only21 | dsimp only | intro _ _ _ _ | intro _ _ _ | intro _ _ | split | (apply only.lit <;> first | exact Or.inr rfl | exact Or.inl (parts_mem hl (by with_unfolding_all decide)) | skip) | refine only.eq2 (by assumption) ?_ | refine only.eq22 (by assumption) ?_ | refine only.eq1 (by assumption) ?_

theorem State.vatPass_only {s0 : State} {pl : List Part} {s : State} (op : LoadOp) (v : Nat) (hl : [.regs, .ctrs, .mgt, .logs, .cfg, .img, .slc, .mem] ⊆ pl) (hs0 : only pl s0 s) : only pl s0 (State.vatPass s op v) := by
  unfold State.vatPass
  repeat' with_reducible first | assumption | exact parts_sub (by with_unfolding_all decide) hl | apply State.actDone_only | apply State.afterLoad_only | apply State.countOp_only | apply State.failVat_only | apply State.finish_only | apply State.raiseVat_only | apply State.roleAfter_only | apply State.runPass_only | apply State.setLoad_only | apply State.showSwaps_only | apply State.wrb_only | apply ite_only | apply ite_only1 | apply ite_only2 | apply ite_only22 | apply ite_only21 | dsimp only | intro _ _ _ _ | intro _ _ _ | intro _ _ | (apply only.lit <;> first | exact Or.inr rfl | exact Or.inl (parts_mem hl (by with_unfolding_all decide)) | skip)

theorem execLoadComplete_only {s0 : State} {pl : List Part} (v : Fin 16) (ups : List (Bool × Fin 262144 × List (Fin 2072))) {s : State} (hl : [.regs, .ctrs, .latches, .freeCtr, .mgt, .logs, .irq, .noc, .span, .cfg, .img, .churn, .fab, .slc, .mem, .cel, .scr, .dma, .bist, .pins] ⊆ pl) (hs0 : only pl s0 s) : OnlyR pl s0 (execLoadComplete v ups s) := by
  unfold execLoadComplete
  repeat' with_reducible first | assumption | exact parts_sub (by with_unfolding_all decide) hl | exact only.refl _ _ | apply OnlyR.next | apply ite_onlyR | apply State.capResume_only | apply State.setPlane_only | apply State.vatPass_only | apply State.wholePass_only | refine foldl_only _ _ (fun _ _ _ => ?_) ?_ | refine foldl_only1 _ _ (fun _ _ _ => ?_) ?_ | refine foldl_only2 _ _ (fun _ _ _ => ?_) ?_ | refine foldl_only22 _ _ (fun _ _ _ => ?_) ?_ | refine foldl_only21 _ _ (fun _ _ _ => ?_) ?_ | apply ite_only | apply ite_only1 | apply ite_only2 | apply ite_only22 | apply ite_only21 | dsimp only | intro _ _ _ _ | intro _ _ _ | intro _ _ | split | (apply only.lit <;> first | exact Or.inr rfl | exact Or.inl (parts_mem hl (by with_unfolding_all decide)) | skip) | refine only.eq2 (by assumption) ?_ | refine only.eq22 (by assumption) ?_ | refine only.eq1 (by assumption) ?_

theorem State.powerUpLoad_only {s0 : State} {pl : List Part} {s : State} (hl : [.regs, .ctrs, .latches, .freeCtr, .mgt, .logs, .irq, .noc, .cfg, .img, .churn, .fab, .slc, .mem, .cel, .scr, .dma, .bist, .pins] ⊆ pl) (hs0 : only pl s0 s) : only pl s0 (State.powerUpLoad s) := by
  unfold State.powerUpLoad
  repeat' with_reducible first | assumption | exact parts_sub (by with_unfolding_all decide) hl | apply State.beginWhole_only | apply State.raiseVat_only | refine foldl_only _ _ (fun _ _ _ => ?_) ?_ | refine foldl_only1 _ _ (fun _ _ _ => ?_) ?_ | refine foldl_only2 _ _ (fun _ _ _ => ?_) ?_ | refine foldl_only22 _ _ (fun _ _ _ => ?_) ?_ | refine foldl_only21 _ _ (fun _ _ _ => ?_) ?_ | dsimp only | intro _ _ _ _ | intro _ _ _ | intro _ _

theorem State.commitDone_only {s0 : State} {pl : List Part} {s : State} (vats : List Nat) (tag : Nat) (hl : [.ctrs, .mgt, .logs] ⊆ pl) (hs0 : only pl s0 s) : only pl s0 (State.commitDone s vats tag) := by
  unfold State.commitDone
  repeat' with_reducible first | assumption | exact parts_sub (by with_unfolding_all decide) hl | apply State.raiseAt_only

theorem State.commitCloseEnd_only {s0 : State} {pl : List Part} {s : State} (v : Nat) (img : Bool) (ups : List (Bool × Fin 262144 × List (Fin 2072))) (hl : [.regs, .ctrs, .mgt, .logs, .cfg] ⊆ pl) (hs0 : only pl s0 s) : only pl s0 (State.commitCloseEnd s v img ups) := by
  unfold State.commitCloseEnd
  repeat' with_reducible first | assumption | exact parts_sub (by with_unfolding_all decide) hl | apply State.bump_only | apply State.commitDone_only | apply State.setPlane_only | apply State.setRole_only | apply State.wr_only | apply State.wrb_only | refine foldl_only _ _ (fun _ _ _ => ?_) ?_ | refine foldl_only1 _ _ (fun _ _ _ => ?_) ?_ | refine foldl_only2 _ _ (fun _ _ _ => ?_) ?_ | refine foldl_only22 _ _ (fun _ _ _ => ?_) ?_ | refine foldl_only21 _ _ (fun _ _ _ => ?_) ?_ | apply ite_only | apply ite_only1 | apply ite_only2 | apply ite_only22 | apply ite_only21 | dsimp only | intro _ _ _ _ | intro _ _ _ | intro _ _ | split | (apply only.lit <;> first | exact Or.inr rfl | exact Or.inl (parts_mem hl (by with_unfolding_all decide)) | skip) | refine only.eq2 (by assumption) ?_ | refine only.eq22 (by assumption) ?_ | refine only.eq1 (by assumption) ?_

theorem State.noPrev_only {s0 : State} {pl : List Part} {s : State} (v : Nat) (hl : [.regs, .ctrs, .latches, .freeCtr, .mgt, .logs, .irq, .noc, .cfg, .img, .fab, .slc, .mem, .dma, .pins] ⊆ pl) (hs0 : only pl s0 s) : only pl s0 (State.noPrev s v) := by
  unfold State.noPrev
  repeat' with_reducible first | assumption | exact parts_sub (by with_unfolding_all decide) hl | apply State.assertReset_only | apply State.failVat_only | apply State.raiseVat_only | apply ite_only

theorem execConfirmWindowExpiry_only {s0 : State} {pl : List Part} (v : Fin 16) {s : State} (hl : [.regs, .ctrs, .latches, .freeCtr, .mgt, .logs, .irq, .noc, .cfg, .img, .churn, .fab, .slc, .mem, .cel, .scr, .dma, .bist, .pins] ⊆ pl) (hs0 : only pl s0 s) : OnlyR pl s0 (execConfirmWindowExpiry v s) := by
  unfold execConfirmWindowExpiry
  repeat' with_reducible first | assumption | exact parts_sub (by with_unfolding_all decide) hl | exact only.refl _ _ | apply OnlyR.next | apply ite_onlyR | apply State.closeWindow_only | apply State.enterFallback_only | apply State.noPrev_only | apply State.raiseVat_only | apply State.setExpiring_only | refine foldl_only _ _ (fun _ _ _ => ?_) ?_

theorem execExpiryRollbackStart_only {s0 : State} {pl : List Part} (v : Fin 16) {s : State} (hl : [.regs, .ctrs, .latches, .freeCtr, .mgt, .logs, .irq, .noc, .cfg, .img, .churn, .fab, .slc, .mem, .cel, .scr, .dma, .bist, .pins] ⊆ pl) (hs0 : only pl s0 s) : OnlyR pl s0 (execExpiryRollbackStart v s) := by
  unfold execExpiryRollbackStart
  repeat' with_reducible first | assumption | exact parts_sub (by with_unfolding_all decide) hl | exact only.refl _ _ | apply OnlyR.next | apply ite_onlyR | apply State.enterFallback_only | apply State.launchOp_only | apply State.modFail_only | apply State.noPrev_only | apply State.raiseVat_only | apply State.setExpiring_only | refine foldl_only _ _ (fun _ _ _ => ?_) ?_ | refine foldl_only1 _ _ (fun _ _ _ => ?_) ?_ | refine foldl_only2 _ _ (fun _ _ _ => ?_) ?_ | refine foldl_only22 _ _ (fun _ _ _ => ?_) ?_ | refine foldl_only21 _ _ (fun _ _ _ => ?_) ?_ | apply ite_only | apply ite_only1 | apply ite_only2 | apply ite_only22 | apply ite_only21 | dsimp only | intro _ _ _ _ | intro _ _ _ | intro _ _ | split

theorem State.actLate_only {s0 : State} {pl : List Part} {s : State} (vats : List Nat) (k : Nat) (args : List Nat) (hl : [.ctrs, .mgt, .logs] ⊆ pl) (hs0 : only pl s0 s) : only pl s0 (State.actLate s vats k args) := by
  unfold State.actLate
  repeat' with_reducible first | assumption | exact parts_sub (by with_unfolding_all decide) hl | apply State.raiseAt_only

theorem State.setLate_only {s0 : State} {pl : List Part} {s : State} (vats : List Nat) (k d : Nat) (hl : [.regs, .ctrs, .mgt, .logs] ⊆ pl) (hs0 : only pl s0 s) : only pl s0 (State.setLate s vats k d) := by
  unfold State.setLate
  repeat' with_reducible first | assumption | exact parts_sub (by with_unfolding_all decide) hl | apply State.actLate_only | apply State.wr_only | apply State.wrb_only | apply ite_only | apply ite_only1 | apply ite_only2 | apply ite_only22 | apply ite_only21 | dsimp only

theorem execArmCompareFire_only {s0 : State} {pl : List Part} (k : Fin 16) {s : State} (hl : [.regs, .ctrs, .latches, .freeCtr, .mgt, .logs, .irq, .noc, .cfg, .img, .churn, .fab, .slc, .mem, .cel, .scr, .dma, .bist, .pins] ⊆ pl) (hs0 : only pl s0 s) : OnlyR pl s0 (execArmCompareFire k s) := by
  unfold execArmCompareFire
  repeat' with_reducible first | assumption | exact parts_sub (by with_unfolding_all decide) hl | exact only.refl _ _ | apply OnlyR.next | apply ite_onlyR | apply State.actLate_only | apply State.launchOp_only | apply State.opStat_only | apply State.wr_only | apply State.wrb_only | apply ite_only | apply ite_only1 | apply ite_only2 | apply ite_only22 | apply ite_only21 | dsimp only | intro _ _ _ _ | intro _ _ _ | intro _ _ | split | (apply only.lit <;> first | exact Or.inr rfl | exact Or.inl (parts_mem hl (by with_unfolding_all decide)) | skip) | refine only.eq2 (by assumption) ?_ | refine only.eq22 (by assumption) ?_ | refine only.eq1 (by assumption) ?_

theorem execActivationAssertion_only {s0 : State} {pl : List Part} (k : Fin 16) (d : Nat) {s : State} (hl : [.regs, .ctrs, .latches, .freeCtr, .mgt, .logs, .irq, .noc, .cfg, .img, .churn, .fab, .slc, .mem, .cel, .scr, .dma, .bist, .pins] ⊆ pl) (hs0 : only pl s0 s) : OnlyR pl s0 (execActivationAssertion k d s) := by
  unfold execActivationAssertion
  repeat' with_reducible first | assumption | exact parts_sub (by with_unfolding_all decide) hl | exact only.refl _ _ | apply OnlyR.next | apply ite_onlyR | apply State.launchOp_only | apply State.setLate_only | apply State.startOp_only | apply ite_only | apply ite_only1 | apply ite_only2 | apply ite_only22 | apply ite_only21 | dsimp only | intro _ _ _ _ | intro _ _ _ | intro _ _ | split | (apply only.lit <;> first | exact Or.inr rfl | exact Or.inl (parts_mem hl (by with_unfolding_all decide)) | skip) | refine only.eq2 (by assumption) ?_ | refine only.eq22 (by assumption) ?_ | refine only.eq1 (by assumption) ?_

theorem execDeferredWholeDeviceStart_only {s0 : State} {pl : List Part} (d : Nat) {s : State} (hl : [.regs, .ctrs, .latches, .freeCtr, .mgt, .logs, .irq, .noc, .cfg, .img, .churn, .fab, .slc, .mem, .cel, .scr, .dma, .bist, .pins] ⊆ pl) (hs0 : only pl s0 s) : OnlyR pl s0 (execDeferredWholeDeviceStart d s) := by
  unfold execDeferredWholeDeviceStart
  repeat' with_reducible first | assumption | exact parts_sub (by with_unfolding_all decide) hl | exact only.refl _ _ | apply OnlyR.next | apply ite_onlyR | apply State.setLate_only | apply State.startOp_only | apply ite_only | apply ite_only1 | apply ite_only2 | apply ite_only22 | apply ite_only21 | dsimp only | split | (apply only.lit <;> first | exact Or.inr rfl | exact Or.inl (parts_mem hl (by with_unfolding_all decide)) | skip) | refine only.eq2 (by assumption) ?_ | refine only.eq22 (by assumption) ?_ | refine only.eq1 (by assumption) ?_

theorem execDeferredSwapStart_only {s0 : State} {pl : List Part} (v : Fin 16) (d : Nat) {s : State} (hl : [.regs, .ctrs, .latches, .freeCtr, .mgt, .logs, .irq, .noc, .cfg, .img, .churn, .fab, .slc, .mem, .cel, .scr, .dma, .bist, .pins] ⊆ pl) (hs0 : only pl s0 s) : OnlyR pl s0 (execDeferredSwapStart v d s) := by
  unfold execDeferredSwapStart
  repeat' with_reducible first | assumption | exact parts_sub (by with_unfolding_all decide) hl | exact only.refl _ _ | apply OnlyR.next | apply ite_onlyR | apply State.setLate_only | apply State.startOp_only | apply ite_only | apply ite_only1 | apply ite_only2 | apply ite_only22 | apply ite_only21 | dsimp only | intro _ _ _ _ | intro _ _ _ | intro _ _ | split | (apply only.lit <;> first | exact Or.inr rfl | exact Or.inl (parts_mem hl (by with_unfolding_all decide)) | skip) | refine only.eq2 (by assumption) ?_ | refine only.eq22 (by assumption) ?_ | refine only.eq1 (by assumption) ?_

theorem State.fwWrite_only {s0 : State} {pl : List Part} {s : State} (w : Word) (hl : [.regs, .cfg] ⊆ pl) (hs0 : only pl s0 s) : only pl s0 (State.fwWrite s w) := by
  unfold State.fwWrite
  repeat' with_reducible first | assumption | exact parts_sub (by with_unfolding_all decide) hl | apply State.setReg_only | apply State.wrb_only | apply ite_only | apply ite_only1 | apply ite_only2 | apply ite_only22 | apply ite_only21 | dsimp only | (apply only.lit <;> first | exact Or.inl (parts_mem hl (by with_unfolding_all decide)) | exact Or.inr rfl | skip)

theorem State.fwShow_only {s0 : State} {pl : List Part} {s : State} (f : Frame) (hl : [.regs] ⊆ pl) (hs0 : only pl s0 s) : only pl s0 (State.fwShow s f) := by
  unfold State.fwShow
  repeat' with_reducible first | assumption | exact parts_sub (by with_unfolding_all decide) hl | apply State.setReg_only | refine foldl_only _ _ (fun _ _ _ => ?_) ?_ | refine foldl_only1 _ _ (fun _ _ _ => ?_) ?_ | refine foldl_only2 _ _ (fun _ _ _ => ?_) ?_ | refine foldl_only22 _ _ (fun _ _ _ => ?_) ?_ | refine foldl_only21 _ _ (fun _ _ _ => ?_) ?_ | intro _ _ _ _ | intro _ _ _ | intro _ _

theorem State.fwRead_only {s0 : State} {pl : List Part} {s : State} (copy n : Nat) (hl : [.regs, .ctrs, .mgt, .logs, .cfg] ⊆ pl) (hs0 : only pl s0 s) : only pl s0 (State.fwRead s copy n).1 := by
  unfold State.fwRead
  repeat' with_reducible first | assumption | exact parts_sub (by with_unfolding_all decide) hl | apply State.bump_only | apply State.fwShow_only | apply State.setPerr_only | apply ite_only | apply ite_only1 | apply ite_only2 | apply ite_only22 | apply ite_only21 | dsimp only | split | (apply only.lit <;> first | exact Or.inr rfl | exact Or.inl (parts_mem hl (by with_unfolding_all decide)) | skip) | refine only.eq2 (by assumption) ?_ | refine only.eq22 (by assumption) ?_ | refine only.eq1 (by assumption) ?_

theorem execFrameAccessDone_only {s0 : State} {pl : List Part} (bits : List (Fin 2072)) (bad : Bool) {s₀ : State} (hl : [.regs, .ctrs, .freeCtr, .mgt, .logs, .cfg, .fab, .slc] ⊆ pl) (hs0 : only pl s0 s₀) : OnlyR pl s0 (execFrameAccessDone bits bad s₀) := by
  unfold execFrameAccessDone
  repeat' with_reducible first | assumption | exact parts_sub (by with_unfolding_all decide) hl | exact only.refl _ _ | apply OnlyR.next | apply ite_onlyR | apply State.disturb_only | apply State.freePlane_only | apply State.fwRead_only | apply State.loadLive_only | apply State.setPerr_only | apply State.setPlane_only | apply State.setUnrest_only | apply State.wr_only | apply State.wrb_only | apply ite_only | apply ite_only1 | apply ite_only2 | apply ite_only22 | apply ite_only21 | dsimp only | intro _ _ _ _ | intro _ _ _ | intro _ _ | split | (apply only.lit <;> first | exact Or.inr rfl | exact Or.inl (parts_mem hl (by with_unfolding_all decide)) | skip) | refine only.eq2 (by assumption) ?_ | refine only.eq22 (by assumption) ?_ | refine only.eq1 (by assumption) ?_

theorem execPlaneRepair_only {s0 : State} {pl : List Part} (n : Fin 262144) (fails : Fin 4) {s : State} (hl : [.ctrs, .freeCtr, .mgt, .logs, .cfg] ⊆ pl) (hs0 : only pl s0 s) : OnlyR pl s0 (execPlaneRepair n fails s) := by
  unfold execPlaneRepair
  repeat' with_reducible first | assumption | exact parts_sub (by with_unfolding_all decide) hl | exact only.refl _ _ | apply OnlyR.next | apply ite_onlyR | apply State.freePlane_only | apply State.raiseVat_only | apply State.setPerr_only | apply State.setPlane_only | apply State.setRole_only | apply ite_only | apply ite_only1 | apply ite_only2 | apply ite_only22 | apply ite_only21 | dsimp only | split | (apply only.lit <;> first | exact Or.inr rfl | exact Or.inl (parts_mem hl (by with_unfolding_all decide)) | skip) | refine only.eq2 (by assumption) ?_ | refine only.eq22 (by assumption) ?_ | refine only.eq1 (by assumption) ?_

end Sys2Proof.Machine
end

