-- ==== Sys2Proof/Laws/Frame/Churn.lean ====
section
/-! SUPPORT. The frames of Machine/Churn.lean: which parts of the state each operation and each command may change. -/

namespace Sys2Proof.Machine


theorem State.setChurnPos_only {s0 : State} {pl : List Part} {s : State} (q p : Nat) (hl : [.churn] ⊆ pl) (hs0 : only pl s0 s) : only pl s0 (State.setChurnPos s q p) := by
  unfold State.setChurnPos
  repeat' with_reducible first | assumption | exact parts_sub (by with_unfolding_all decide) hl | (apply only.lit <;> first | exact Or.inl (parts_mem hl (by with_unfolding_all decide)) | exact Or.inr rfl | skip)

theorem State.setScrubJob_only {s0 : State} {pl : List Part} {s : State} (q : Nat) (j : Option ScrubJob) (hl : [.churn] ⊆ pl) (hs0 : only pl s0 s) : only pl s0 (State.setScrubJob s q j) := by
  unfold State.setScrubJob
  repeat' with_reducible first | assumption | exact parts_sub (by with_unfolding_all decide) hl | (apply only.lit <;> first | exact Or.inl (parts_mem hl (by with_unfolding_all decide)) | exact Or.inr rfl | skip)

theorem State.churnReport_only {s0 : State} {pl : List Part} {s : State} (n kind first : Nat) (hl : [.regs, .ctrs, .mgt, .logs, .cfg] ⊆ pl) (hs0 : only pl s0 s) : only pl s0 (State.churnReport s n kind first) := by
  unfold State.churnReport
  repeat' with_reducible first | assumption | exact parts_sub (by with_unfolding_all decide) hl | apply State.bump_only | apply State.raiseVat_only | apply State.setUnrest_only | apply State.wr_only | apply ite_only

theorem execChurnPassStart_only {s0 : State} {pl : List Part} {s : State} (hl : [.regs, .churn] ⊆ pl) (hs0 : only pl s0 s) : OnlyR pl s0 (execChurnPassStart s) := by
  unfold execChurnPassStart
  repeat' with_reducible first | assumption | exact parts_sub (by with_unfolding_all decide) hl | exact only.refl _ _ | apply OnlyR.next | apply ite_onlyR | apply State.churnStart_only

theorem execScrubRead_only {s0 : State} {pl : List Part} (q : Fin 4) (bits : List (Fin 2072)) {s : State} (hl : [.regs, .ctrs, .mgt, .logs, .cfg, .churn, .fab, .slc] ⊆ pl) (hs0 : only pl s0 s) : OnlyR pl s0 (execScrubRead q bits s) := by
  unfold execScrubRead
  repeat' with_reducible first | assumption | exact parts_sub (by with_unfolding_all decide) hl | exact only.refl _ _ | apply OnlyR.next | apply ite_onlyR | apply State.bump_only | apply State.churnReport_only | apply State.disturb_only | apply State.setChurnPos_only | apply State.setScrubJob_only | apply ite_only | apply ite_only1 | apply ite_only2 | apply ite_only22 | apply ite_only21 | dsimp only | split | (apply only.lit <;> first | exact Or.inr rfl | exact Or.inl (parts_mem hl (by with_unfolding_all decide)) | skip) | refine only.eq2 (by assumption) ?_ | refine only.eq22 (by assumption) ?_ | refine only.eq1 (by assumption) ?_

theorem State.scrubWrite_only {s0 : State} {pl : List Part} {s : State} (j : ScrubJob) (f : Frame) (fails : Nat) (left : List (Fin 2072)) (hl : [.regs, .ctrs, .mgt, .logs, .cfg, .fab, .slc] ⊆ pl) (hs0 : only pl s0 s) : only pl s0 (State.scrubWrite s j f fails left) := by
  unfold State.scrubWrite
  repeat' with_reducible first | assumption | exact parts_sub (by with_unfolding_all decide) hl | apply State.churnReport_only | apply State.disturb_only | apply ite_only | apply ite_only1 | apply ite_only2 | apply ite_only22 | apply ite_only21

theorem execCorrectionWrite_only {s0 : State} {pl : List Part} (q : Fin 4) (fails : Fin 3) (left : List (Fin 2072)) {s : State} (hl : [.regs, .ctrs, .mgt, .logs, .cfg, .churn, .fab, .slc] ⊆ pl) (hs0 : only pl s0 s) : OnlyR pl s0 (execCorrectionWrite q fails left s) := by
  unfold execCorrectionWrite
  repeat' with_reducible first | assumption | exact parts_sub (by with_unfolding_all decide) hl | exact only.refl _ _ | apply OnlyR.next | apply ite_onlyR | apply State.scrubWrite_only | apply State.setScrubJob_only | apply ite_only | apply ite_only1 | apply ite_only2 | apply ite_only22 | apply ite_only21 | dsimp only | split | (apply only.lit <;> first | exact Or.inr rfl | exact Or.inl (parts_mem hl (by with_unfolding_all decide)) | skip) | refine only.eq2 (by assumption) ?_ | refine only.eq22 (by assumption) ?_ | refine only.eq1 (by assumption) ?_

theorem execRestorePlaneRead_only {s0 : State} {pl : List Part} (q : Fin 4) (bits : List (Fin 2072)) {s : State} (hl : [.regs, .ctrs, .mgt, .logs, .cfg, .churn] ⊆ pl) (hs0 : only pl s0 s) : OnlyR pl s0 (execRestorePlaneRead q bits s) := by
  unfold execRestorePlaneRead
  repeat' with_reducible first | assumption | exact parts_sub (by with_unfolding_all decide) hl | exact only.refl _ _ | apply OnlyR.next | apply ite_onlyR | apply State.bump_only | apply State.churnReport_only | apply State.setPerr_only | apply State.setPlane_only | apply State.setScrubJob_only | apply ite_only | apply ite_only1 | apply ite_only2 | apply ite_only22 | apply ite_only21 | dsimp only | split | (apply only.lit <;> first | exact Or.inr rfl | exact Or.inl (parts_mem hl (by with_unfolding_all decide)) | skip) | refine only.eq2 (by assumption) ?_ | refine only.eq22 (by assumption) ?_ | refine only.eq1 (by assumption) ?_

theorem execRestorationWrite_only {s0 : State} {pl : List Part} (q : Fin 4) (fails : Fin 3) (left : List (Fin 2072)) {s : State} (hl : [.regs, .ctrs, .mgt, .logs, .cfg, .churn, .fab, .slc] ⊆ pl) (hs0 : only pl s0 s) : OnlyR pl s0 (execRestorationWrite q fails left s) := by
  unfold execRestorationWrite
  repeat' with_reducible first | assumption | exact parts_sub (by with_unfolding_all decide) hl | exact only.refl _ _ | apply OnlyR.next | apply ite_onlyR | apply State.scrubWrite_only | apply State.setScrubJob_only | apply ite_only | apply ite_only1 | apply ite_only2 | apply ite_only22 | apply ite_only21 | dsimp only | split | (apply only.lit <;> first | exact Or.inr rfl | exact Or.inl (parts_mem hl (by with_unfolding_all decide)) | skip) | refine only.eq2 (by assumption) ?_ | refine only.eq22 (by assumption) ?_ | refine only.eq1 (by assumption) ?_

theorem execChurnPassComplete_only {s0 : State} {pl : List Part} {s : State} (hl : [.regs, .ctrs, .mgt, .logs, .churn] ⊆ pl) (hs0 : only pl s0 s) : OnlyR pl s0 (execChurnPassComplete s) := by
  unfold execChurnPassComplete
  repeat' with_reducible first | assumption | exact parts_sub (by with_unfolding_all decide) hl | exact only.refl _ _ | apply OnlyR.next | apply ite_onlyR | apply State.bump_only | apply State.churnStop_only

theorem execChurnPassLate_only {s0 : State} {pl : List Part} {s : State} (hl : [.regs, .ctrs, .mgt, .logs, .churn] ⊆ pl) (hs0 : only pl s0 s) : OnlyR pl s0 (execChurnPassLate s) := by
  unfold execChurnPassLate
  repeat' with_reducible first | assumption | exact parts_sub (by with_unfolding_all decide) hl | exact only.refl _ _ | apply OnlyR.next | apply ite_onlyR | apply State.bump_only | apply State.raiseVat_only | apply State.wrb_only | apply ite_only | apply ite_only1 | apply ite_only2 | apply ite_only22 | apply ite_only21 | dsimp only | intro _ _ _ _ | intro _ _ _ | intro _ _ | (apply only.lit <;> first | exact Or.inr rfl | exact Or.inl (parts_mem hl (by with_unfolding_all decide)) | skip)

theorem State.churnCtlWrite_only {s0 : State} {pl : List Part} {s : State} (w : Word) (hl : [.regs, .ctrs, .mgt, .logs, .churn] ⊆ pl) (hs0 : only pl s0 s) : only pl s0 (State.churnCtlWrite s w) := by
  unfold State.churnCtlWrite
  repeat' with_reducible first | assumption | exact parts_sub (by with_unfolding_all decide) hl | apply State.churnStart_only | apply State.churnStop_only | apply State.raiseAt_only | apply State.setReg_only | apply ite_only

end Sys2Proof.Machine
end

