-- ==== Sys2Proof/Laws/Frame/Link.lean ====
section
/-! SUPPORT. The frames of Machine/Link.lean: which parts of the state each operation and each command may change. -/

namespace Sys2Proof.Machine


theorem State.resumeCore_only {s0 : State} {pl : List Part} {s : State} (k : Nat) (hl : [.regs, .dbg, .irq] ⊆ pl) (hs0 : only pl s0 s) : only pl s0 (State.resumeCore s k) := by
  unfold State.resumeCore
  repeat' with_reducible first | assumption | exact parts_sub (by with_unfolding_all decide) hl | apply State.reoffer_only | apply State.wrb_only | (apply only.lit <;> first | exact Or.inl (parts_mem hl (by with_unfolding_all decide)) | exact Or.inr rfl | skip)

theorem State.dbgEnd_only {s0 : State} {pl : List Part} {s : State} (hl : [.regs, .ctrs, .mgt, .dbg, .logs, .irq] ⊆ pl) (hs0 : only pl s0 s) : only pl s0 (State.dbgEnd s) := by
  unfold State.dbgEnd
  repeat' with_reducible first | assumption | exact parts_sub (by with_unfolding_all decide) hl | apply State.raiseDev_only | apply State.resumeCore_only | refine foldl_only _ _ (fun _ _ _ => ?_) ?_ | refine foldl_only1 _ _ (fun _ _ _ => ?_) ?_ | refine foldl_only2 _ _ (fun _ _ _ => ?_) ?_ | refine foldl_only22 _ _ (fun _ _ _ => ?_) ?_ | refine foldl_only21 _ _ (fun _ _ _ => ?_) ?_ | dsimp only | split | (apply only.lit <;> first | exact Or.inl (parts_mem hl (by with_unfolding_all decide)) | exact Or.inr rfl | skip)

theorem State.closeSession_only {s0 : State} {pl : List Part} {s : State} (h : Nat) (lost : Bool) (hl : [.regs, .ctrs, .mgt, .dbg, .logs, .irq] ⊆ pl) (hs0 : only pl s0 s) : only pl s0 (State.closeSession s h lost) := by
  unfold State.closeSession
  repeat' with_reducible first | assumption | exact parts_sub (by with_unfolding_all decide) hl | apply State.dbgEnd_only | apply State.raiseDev_only | apply State.setHost_only | apply ite_only | apply ite_only1 | apply ite_only2 | apply ite_only22 | apply ite_only21 | dsimp only | split | (apply only.lit <;> first | exact Or.inl (parts_mem hl (by with_unfolding_all decide)) | exact Or.inr rfl | skip)

theorem State.closeAll_only {s0 : State} {pl : List Part} {s : State} (hl : [.regs, .ctrs, .mgt, .dbg, .logs, .irq] ⊆ pl) (hs0 : only pl s0 s) : only pl s0 (State.closeAll s) := by
  unfold State.closeAll
  repeat' with_reducible first | assumption | exact parts_sub (by with_unfolding_all decide) hl | apply State.closeSession_only | refine foldl_only _ _ (fun _ _ _ => ?_) ?_

theorem State.sendMsg_only {s0 : State} {pl : List Part} {s : State} (h : Nat) (typ code status rseq : Nat) (body : List Byte) (hl : [.ctrs, .mgt, .logs] ⊆ pl) (hs0 : only pl s0 s) : only pl s0 (State.sendMsg s h typ code status rseq body) := by
  unfold State.sendMsg
  repeat' with_reducible first | assumption | exact parts_sub (by with_unfolding_all decide) hl | apply State.bump_only | apply State.setHost_only | apply ite_only | apply ite_only1 | apply ite_only2 | apply ite_only22 | apply ite_only21 | dsimp only | split | (apply only.lit <;> first | exact Or.inr rfl | exact Or.inl (parts_mem hl (by with_unfolding_all decide)) | skip) | refine only.eq2 (by assumption) ?_ | refine only.eq22 (by assumption) ?_ | refine only.eq1 (by assumption) ?_

theorem State.sendAck_only {s0 : State} {pl : List Part} {s : State} (h : Nat) (hl : [.ctrs, .mgt, .logs] ⊆ pl) (hs0 : only pl s0 s) : only pl s0 (State.sendAck s h) := by
  unfold State.sendAck
  repeat' with_reducible first | assumption | exact parts_sub (by with_unfolding_all decide) hl | apply State.bump_only | apply State.setHost_only | dsimp only | split | (apply only.lit <;> first | exact Or.inr rfl | exact Or.inl (parts_mem hl (by with_unfolding_all decide)) | skip) | refine only.eq2 (by assumption) ?_ | refine only.eq22 (by assumption) ?_ | refine only.eq1 (by assumption) ?_

theorem State.sendBare_only {s0 : State} {pl : List Part} {s : State} (h dst code status rseq : Nat) (body : List Byte) (hl : [.ctrs, .mgt, .logs] ⊆ pl) (hs0 : only pl s0 s) : only pl s0 (State.sendBare s h dst code status rseq body) := by
  unfold State.sendBare
  repeat' with_reducible first | assumption | exact parts_sub (by with_unfolding_all decide) hl | apply State.bump_only | apply State.setHost_only | (apply only.lit <;> first | exact Or.inr rfl | exact Or.inl (parts_mem hl (by with_unfolding_all decide)) | skip)

theorem State.respondTo_only {s0 : State} {pl : List Part} {s : State} (e : ImmEnv) (code status : Nat) (body : List Byte) (hl : [.ctrs, .mgt, .logs] ⊆ pl) (hs0 : only pl s0 s) : only pl s0 (State.respondTo s e code status body) := by
  unfold State.respondTo
  repeat' with_reducible first | assumption | exact parts_sub (by with_unfolding_all decide) hl | apply State.sendBare_only | apply State.sendMsg_only | apply State.setHost_only | apply ite_only | apply ite_only1 | apply ite_only2 | apply ite_only22 | apply ite_only21 | dsimp only | intro _ _ _ _ | intro _ _ _ | intro _ _ | split | (apply only.lit <;> first | exact Or.inr rfl | exact Or.inl (parts_mem hl (by with_unfolding_all decide)) | skip) | refine only.eq2 (by assumption) ?_ | refine only.eq22 (by assumption) ?_ | refine only.eq1 (by assumption) ?_

theorem State.refuse_only {s0 : State} {pl : List Part} {s : State} (e : ImmEnv) (code reason arg vat : Nat) (hl : [.mgt] ⊆ pl) (hs0 : only pl s0 s) : only pl s0 (State.refuse s e code reason arg vat) := by
  unfold State.refuse
  repeat' with_reducible first | assumption | exact parts_sub (by with_unfolding_all decide) hl | apply State.setHost_only | dsimp only | (apply only.lit <;> first | exact Or.inr rfl | exact Or.inl (parts_mem hl (by with_unfolding_all decide)) | skip)

theorem State.finish_only {s0 : State} {pl : List Part} {s : State} (e : ImmEnv) (code : Nat) (x0 : Reply) (hl : [.ctrs, .mgt, .logs] ⊆ pl) (hs0 : only pl s0 s) : only pl s0 (State.finish s e code x0) := by
  unfold State.finish
  repeat' with_reducible first | assumption | exact parts_sub (by with_unfolding_all decide) hl | apply State.refuse_only | apply State.respondTo_only | split

theorem State.ackTo_only {s0 : State} {pl : List Part} {s : State} (h ackno : Nat) (hl : [.mgt] ⊆ pl) (hs0 : only pl s0 s) : only pl s0 (State.ackTo s h ackno) := by
  unfold State.ackTo
  repeat' with_reducible first | assumption | exact parts_sub (by with_unfolding_all decide) hl | apply State.setHost_only | apply ite_only | apply ite_only1 | apply ite_only2 | apply ite_only22 | apply ite_only21 | dsimp only | intro _ _ _ _ | intro _ _ _ | intro _ _ | split

theorem State.acceptReq_only {s0 : State} {pl : List Part} {s : State} (e : ImmEnv) (code : Nat) (body : List Byte) (hl : [.ctrs, .mgt, .logs] ⊆ pl) (hs0 : only pl s0 s) : only pl s0 (State.acceptReq s e code body).1 := by
  unfold State.acceptReq
  repeat' with_reducible first | assumption | exact parts_sub (by with_unfolding_all decide) hl | apply State.ackTo_only | apply State.bump_only | apply State.sendAck_only | apply State.setHost_only | apply ite_only | apply ite_only1 | apply ite_only2 | apply ite_only22 | apply ite_only21 | dsimp only | split

theorem State.acceptBare_only {s0 : State} {pl : List Part} {s : State} (e : ImmEnv) (hl : [.ctrs, .mgt, .logs] ⊆ pl) (hs0 : only pl s0 s) : only pl s0 (State.acceptBare s e).1 := by
  unfold State.acceptBare
  repeat' with_reducible first | assumption | exact parts_sub (by with_unfolding_all decide) hl | apply State.bump_only | apply State.setHost_only | apply ite_only | apply ite_only1

theorem State.receive_only {s0 : State} {pl : List Part} {s : State} (bare : Bool) (e : ImmEnv) (code : Nat) (body : List Byte) (hl : [.ctrs, .mgt, .logs] ⊆ pl) (hs0 : only pl s0 s) : only pl s0 (State.receive s bare e code body).1 := by
  unfold State.receive
  repeat' with_reducible first | assumption | exact parts_sub (by with_unfolding_all decide) hl | apply State.acceptBare_only | apply State.acceptReq_only | apply State.bump_only | apply ite_only | apply ite_only1

theorem State.request_only {s0 : State} {pl : List Part} {s : State} (bare : Bool) (e : ImmEnv) (code : Nat) (body : List Byte) (f : State → State × Reply) (hf : ∀ y0, only pl s0 y0 → only pl s0 (f y0).1) (hl : [.ctrs, .mgt, .logs] ⊆ pl) (hs0 : only pl s0 s) : only pl s0 (State.request s bare e code body f) := by
  unfold State.request
  repeat' with_reducible first | assumption | exact parts_sub (by with_unfolding_all decide) hl | refine hf _ ?_ | apply State.finish_only | apply State.receive_only | apply ite_only

theorem execRefusalResponse_only {s0 : State} {pl : List Part} (h : Fin 4) {s : State} (hl : [.ctrs, .mgt, .logs] ⊆ pl) (hs0 : only pl s0 s) : OnlyR pl s0 (execRefusalResponse h s) := by
  unfold execRefusalResponse
  repeat' with_reducible first | assumption | exact parts_sub (by with_unfolding_all decide) hl | exact only.refl _ _ | apply OnlyR.next | apply ite_onlyR | apply State.audit_only | apply State.bump_only | apply State.sendBare_only | apply State.sendMsg_only | apply State.setHost_only | apply ite_only | apply ite_only1 | apply ite_only2 | apply ite_only22 | apply ite_only21 | dsimp only | intro _ _ _ _ | intro _ _ _ | intro _ _ | split | (apply only.lit <;> first | exact Or.inr rfl | exact Or.inl (parts_mem hl (by with_unfolding_all decide)) | skip) | refine only.eq2 (by assumption) ?_ | refine only.eq22 (by assumption) ?_ | refine only.eq1 (by assumption) ?_

theorem execImmAck_only {s0 : State} {pl : List Part} (e : ImmEnv) {s : State} (hl : [.ctrs, .mgt, .logs] ⊆ pl) (hs0 : only pl s0 s) : OnlyR pl s0 (execImmAck e s) := by
  unfold execImmAck
  repeat' with_reducible first | assumption | exact parts_sub (by with_unfolding_all decide) hl | exact only.refl _ _ | apply OnlyR.next | apply ite_onlyR | apply State.ackTo_only | apply State.bump_only

theorem execImmRetransmitExpiry_only {s0 : State} {pl : List Part} (h : Fin 4) {s : State} (hl : [.regs, .ctrs, .mgt, .dbg, .logs, .irq] ⊆ pl) (hs0 : only pl s0 s) : OnlyR pl s0 (execImmRetransmitExpiry h s) := by
  unfold execImmRetransmitExpiry
  repeat' with_reducible first | assumption | exact parts_sub (by with_unfolding_all decide) hl | exact only.refl _ _ | apply OnlyR.next | apply ite_onlyR | apply State.bump_only | apply State.closeSession_only | apply State.setHost_only | apply ite_only | apply ite_only1 | apply ite_only2 | apply ite_only22 | apply ite_only21 | dsimp only | split

theorem execStandaloneAckTimer_only {s0 : State} {pl : List Part} (h : Fin 4) {s : State} (hl : [.ctrs, .mgt, .logs] ⊆ pl) (hs0 : only pl s0 s) : OnlyR pl s0 (execStandaloneAckTimer h s) := by
  unfold execStandaloneAckTimer
  repeat' with_reducible first | assumption | exact parts_sub (by with_unfolding_all decide) hl | exact only.refl _ _ | apply OnlyR.next | apply ite_onlyR | apply State.sendAck_only | apply ite_only | apply ite_only1 | apply ite_only2 | apply ite_only22 | apply ite_only21 | split

theorem execSessionIdleTimeout_only {s0 : State} {pl : List Part} (h : Fin 4) {s : State} (hl : [.regs, .ctrs, .mgt, .dbg, .logs, .irq] ⊆ pl) (hs0 : only pl s0 s) : OnlyR pl s0 (execSessionIdleTimeout h s) := by
  unfold execSessionIdleTimeout
  repeat' with_reducible first | assumption | exact parts_sub (by with_unfolding_all decide) hl | exact only.refl _ _ | apply OnlyR.next | apply ite_onlyR | apply State.closeSession_only

theorem execEventSend_only {s0 : State} {pl : List Part} (h : Fin 4) {s : State} (hl : [.ctrs, .mgt, .logs] ⊆ pl) (hs0 : only pl s0 s) : OnlyR pl s0 (execEventSend h s) := by
  unfold execEventSend
  repeat' with_reducible first | assumption | exact parts_sub (by with_unfolding_all decide) hl | exact only.refl _ _ | apply OnlyR.next | apply ite_onlyR | apply State.bump_only | apply State.sendMsg_only | apply State.setHost_only | apply ite_only | apply ite_only1 | apply ite_only2 | apply ite_only22 | apply ite_only21 | dsimp only | intro _ _ _ _ | intro _ _ _ | intro _ _ | split

theorem execEventsLostSend_only {s0 : State} {pl : List Part} (h : Fin 4) {s : State} (hl : [.ctrs, .mgt, .logs] ⊆ pl) (hs0 : only pl s0 s) : OnlyR pl s0 (execEventsLostSend h s) := by
  unfold execEventsLostSend
  repeat' with_reducible first | assumption | exact parts_sub (by with_unfolding_all decide) hl | exact only.refl _ _ | apply OnlyR.next | apply ite_onlyR | apply State.bump_only | apply State.logEvent_only | apply State.sendMsg_only | apply State.setHost_only | apply ite_only | apply ite_only1 | apply ite_only2 | apply ite_only22 | apply ite_only21 | dsimp only | split

theorem State.dbgLock_only {s0 : State} {pl : List Part} {s : State} (w : Word) (hl : [.regs, .ctrs, .mgt, .dbg, .logs, .irq] ⊆ pl) (hs0 : only pl s0 s) : only pl s0 (State.dbgLock s w) := by
  unfold State.dbgLock
  repeat' with_reducible first | assumption | exact parts_sub (by with_unfolding_all decide) hl | apply State.dbgEnd_only | apply State.wrb_only | apply ite_only | apply ite_only1 | apply ite_only2 | apply ite_only22 | apply ite_only21 | dsimp only | (apply only.lit <;> first | exact Or.inl (parts_mem hl (by with_unfolding_all decide)) | exact Or.inr rfl | skip)

theorem State.mpRun_only {s0 : State} {pl : List Part} {s : State} (h r : Nat) (hl : [.regs, .ctrs, .mgt, .logs, .irq, .span, .fen] ⊆ pl) (hs0 : only pl s0 s) : only pl s0 (State.mpRun s h r) := by
  unfold State.mpRun
  repeat' with_reducible first | assumption | exact parts_sub (by with_unfolding_all decide) hl | apply State.setRxPower_only | apply State.setTxPower_only | apply State.storeDrop_only | apply State.wr_only | apply State.wrb_only

theorem State.mpStop_only {s0 : State} {pl : List Part} {s : State} (h : Nat) (hl : [.regs, .ctrs, .mgt, .logs, .irq, .span, .fen] ⊆ pl) (hs0 : only pl s0 s) : only pl s0 (State.mpStop s h) := by
  unfold State.mpStop
  repeat' with_reducible first | assumption | exact parts_sub (by with_unfolding_all decide) hl | apply State.setRxPower_only | apply State.setTxPower_only | apply State.storeDrop_only | apply State.wrb_only

theorem State.mpStart_only {s0 : State} {pl : List Part} {s : State} (hl : [.regs, .ctrs, .mgt, .logs, .irq, .span, .fen] ⊆ pl) (hs0 : only pl s0 s) : only pl s0 (State.mpStart s) := by
  unfold State.mpStart
  repeat' with_reducible first | assumption | exact parts_sub (by with_unfolding_all decide) hl | apply State.mpRun_only | apply State.wr_only | apply State.wrb_only | refine foldl_only _ _ (fun _ _ _ => ?_) ?_ | refine foldl_only1 _ _ (fun _ _ _ => ?_) ?_ | refine foldl_only2 _ _ (fun _ _ _ => ?_) ?_ | refine foldl_only22 _ _ (fun _ _ _ => ?_) ?_ | refine foldl_only21 _ _ (fun _ _ _ => ?_) ?_ | apply ite_only

theorem State.mpCtlWrite_only {s0 : State} {pl : List Part} {s : State} (h : Nat) (w : Word) (hl : [.regs, .ctrs, .mgt, .logs, .irq, .span, .fen] ⊆ pl) (hs0 : only pl s0 s) : only pl s0 (State.mpCtlWrite s h w).1 := by
  unfold State.mpCtlWrite
  repeat' with_reducible first | assumption | exact parts_sub (by with_unfolding_all decide) hl | apply State.mpRun_only | apply State.mpStop_only | apply State.setReg_only | apply State.wr_only | apply ite_only | apply ite_only1

theorem execMpRateAlternate_only {s0 : State} {pl : List Part} (h : Fin 4) {s : State} (hl : [.regs, .ctrs, .mgt, .logs, .irq, .span, .fen] ⊆ pl) (hs0 : only pl s0 s) : OnlyR pl s0 (execMpRateAlternate h s) := by
  unfold execMpRateAlternate
  repeat' with_reducible first | assumption | exact parts_sub (by with_unfolding_all decide) hl | exact only.refl _ _ | apply OnlyR.next | apply ite_onlyR | apply State.mpRun_only

theorem execSmbusStatusRead_only {s0 : State} {pl : List Part} {s : State} (hl : [.mgt] ⊆ pl) (hs0 : only pl s0 s) : OnlyR pl s0 (execSmbusStatusRead s) := by
  unfold execSmbusStatusRead
  repeat' with_reducible first | assumption | exact parts_sub (by with_unfolding_all decide) hl | exact only.refl _ _ | apply OnlyR.next | apply ite_onlyR | apply ite_only | apply ite_only1 | apply ite_only2 | apply ite_only22 | apply ite_only21 | dsimp only | (apply only.lit <;> first | exact Or.inl (parts_mem hl (by with_unfolding_all decide)) | exact Or.inr rfl | skip)

theorem execSmbusLastgaspRead_only {s0 : State} {pl : List Part} (hi : Bool) {s : State} (hl : [.mgt] ⊆ pl) (hs0 : only pl s0 s) : OnlyR pl s0 (execSmbusLastgaspRead hi s) := by
  unfold execSmbusLastgaspRead
  repeat' with_reducible first | assumption | exact parts_sub (by with_unfolding_all decide) hl | exact only.refl _ _ | apply OnlyR.next | apply ite_onlyR | apply ite_only | apply ite_only1 | apply ite_only2 | apply ite_only22 | apply ite_only21 | dsimp only | intro _ _ _ _ | intro _ _ _ | intro _ _ | (apply only.lit <;> first | exact Or.inl (parts_mem hl (by with_unfolding_all decide)) | exact Or.inr rfl | skip)

end Sys2Proof.Machine
end

