-- ==== Sys2Proof/Laws/Frame/Peek.lean ====
section
/-! SUPPORT. The frames of Machine/Peek.lean: which parts of the state each operation and each command may change. -/

namespace Sys2Proof.Machine


theorem State.mloadWrite_only {s0 : State} {pl : List Part} {s : State} (id vat v : Nat) (w : Word) (hl : [.regs, .cfg] ⊆ pl) (hs0 : only pl s0 s) : only pl s0 (State.mloadWrite s id vat v w) := by
  unfold State.mloadWrite
  repeat' with_reducible first | assumption | exact parts_sub (by with_unfolding_all decide) hl | apply State.setReg_only | apply State.wr_only | apply State.wrb_only | apply ite_only | apply ite_only1 | apply ite_only2 | apply ite_only22 | apply ite_only21 | dsimp only | split | (apply only.lit <;> first | exact Or.inr rfl | exact Or.inl (parts_mem hl (by with_unfolding_all decide)) | skip) | refine only.eq2 (by assumption) ?_ | refine only.eq22 (by assumption) ?_ | refine only.eq1 (by assumption) ?_

end Sys2Proof.Machine
end

