-- ==== Sys2Proof/Laws/Frame/Power.lean ====
section
/-! SUPPORT. The frames of Machine/Power.lean: which parts of the state each operation and each command may change. -/

namespace Sys2Proof.Machine


theorem State.keepWake_only {s0 : State} {pl : List Part} {s : State} (old : State) (hl : [.regs, .irq] ⊆ pl) (hs0 : only pl s0 s) : only pl s0 (State.keepWake s old) := by
  unfold State.keepWake
  repeat' with_reducible first | assumption | exact parts_sub (by with_unfolding_all decide) hl | apply State.setLatch_only | apply State.wrb_only | refine foldl_only _ _ (fun _ _ _ => ?_) ?_ | refine foldl_only1 _ _ (fun _ _ _ => ?_) ?_ | refine foldl_only2 _ _ (fun _ _ _ => ?_) ?_ | refine foldl_only22 _ _ (fun _ _ _ => ?_) ?_ | refine foldl_only21 _ _ (fun _ _ _ => ?_) ?_ | apply ite_only

theorem State.kept_only {s0 : State} {pl : List Part} {s : State} (k : RstKind) (hl : [.regs, .ctrs, .latches, .mtime, .mgt, .dbg, .logs, .irq, .clk, .noc, .span, .inject, .prbs, .procs, .cfg, .img, .churn, .fab, .slc, .mem, .time, .scr, .fen, .dma, .svc, .cores, .pwr, .bist, .pins] ⊆ pl) (hs0 : only pl s0 s) : only pl s0 (State.kept s k) := by
  unfold State.kept
  repeat' with_reducible first | assumption | exact parts_sub (by with_unfolding_all decide) hl | apply ite_only | apply ite_only1 | apply ite_only2 | apply ite_only22 | apply ite_only21 | dsimp only | intro _ _ _ _ | intro _ _ _ | intro _ _ | split | (apply only.lit <;> first | exact Or.inl (parts_mem hl (by with_unfolding_all decide)) | exact Or.inr rfl | skip) | refine only.eq2 (by assumption) ?_ | refine only.eq22 (by assumption) ?_ | refine only.eq1 (by assumption) ?_

theorem State.fuseCut_only {s0 : State} {pl : List Part} {s : State} (hl : [.freeCtr, .lcs] ⊆ pl) (hs0 : only pl s0 s) : only pl s0 (State.fuseCut s) := by
  unfold State.fuseCut
  repeat' with_reducible first | assumption | exact parts_sub (by with_unfolding_all decide) hl | apply State.fresh_only | apply ite_only | apply ite_only1 | apply ite_only2 | apply ite_only22 | apply ite_only21 | dsimp only | split | (apply only.lit <;> first | exact Or.inl (parts_mem hl (by with_unfolding_all decide)) | exact Or.inr rfl | skip)

theorem State.dramReset_only {s0 : State} {pl : List Part} {s : State} (k : RstKind) (hl : [.regs, .dram] ⊆ pl) (hs0 : only pl s0 s) : only pl s0 (State.dramReset s k) := by
  unfold State.dramReset
  repeat' with_reducible first | assumption | exact parts_sub (by with_unfolding_all decide) hl | apply State.dramWarm_only | apply State.drawKeys_only | apply State.wrb_only | apply ite_only | apply ite_only1 | apply ite_only2 | apply ite_only22 | apply ite_only21 | dsimp only | (apply only.lit <;> first | exact Or.inl (parts_mem hl (by with_unfolding_all decide)) | exact Or.inr rfl | skip)

theorem State.clkReset_only {s0 s : State} {pl : List Part} (old : State) (k : RstKind) (hl : [.regs] ⊆ pl)
    (h : only pl s0 s) : only pl s0 (s.clkReset old k) := by
  cases k <;> first | exact h | exact State.setReg_only _ _ hl h | exact State.wrb_only _ _ hl h

theorem State.deviceReset_only {s0 : State} {pl : List Part} {s : State} (k : RstKind) (hl : [.regs, .ctrs, .latches, .mtime, .freeCtr, .answer, .mgt, .dbg, .logs, .irq, .clk, .noc, .span, .inject, .prbs, .dram, .procs, .cfg, .img, .churn, .fab, .slc, .mem, .time, .cel, .scr, .fen, .dma, .svc, .cores, .pwr, .lcs, .bist, .pins] ⊆ pl) (hs0 : only pl s0 s) : only pl s0 (State.deviceReset s k) := by
  unfold State.deviceReset
  repeat' with_reducible first | assumption | exact parts_sub (by with_unfolding_all decide) hl | apply State.celAbandon_only | apply State.celShow_only | apply State.clkReset_only | apply State.dramReset_only | apply State.fuseCut_only | apply State.keepWake_only | apply State.kept_only | apply State.setHio_only | apply State.timeKeep_only | apply State.timeReset_only | apply State.wr_only | refine foldl_only _ _ (fun _ _ _ => ?_) ?_ | refine foldl_only1 _ _ (fun _ _ _ => ?_) ?_ | refine foldl_only2 _ _ (fun _ _ _ => ?_) ?_ | refine foldl_only22 _ _ (fun _ _ _ => ?_) ?_ | refine foldl_only21 _ _ (fun _ _ _ => ?_) ?_ | apply ite_only | apply ite_only1 | apply ite_only2 | apply ite_only22 | apply ite_only21 | dsimp only | intro _ _ _ _ | intro _ _ _ | intro _ _ | split | (apply only.lit <;> first | exact Or.inl (parts_mem hl (by with_unfolding_all decide)) | exact Or.inr rfl | skip)

theorem execPowerOnResetRelease_only {s0 : State} {pl : List Part} {s : State} (hl : [.regs, .pwr] ⊆ pl) (hs0 : only pl s0 s) : OnlyR pl s0 (execPowerOnResetRelease s) := by
  unfold execPowerOnResetRelease
  repeat' with_reducible first | assumption | exact parts_sub (by with_unfolding_all decide) hl | exact only.refl _ _ | apply OnlyR.next | apply ite_onlyR | apply State.setReg_only | apply State.wr_only | apply State.wrb_only | apply ite_only | apply ite_only1 | apply ite_only2 | apply ite_only22 | apply ite_only21 | dsimp only | (apply only.lit <;> first | exact Or.inl (parts_mem hl (by with_unfolding_all decide)) | exact Or.inr rfl | skip)

theorem State.resetRequest_only {s0 : State} {pl : List Part} {s : State} (rank cause host : Nat) (hl : [.regs, .ctrs, .latches, .mtime, .freeCtr, .answer, .mgt, .dbg, .logs, .irq, .clk, .noc, .span, .inject, .prbs, .dram, .procs, .cfg, .img, .churn, .fab, .slc, .mem, .time, .cel, .scr, .fen, .dma, .svc, .cores, .pwr, .lcs, .bist, .pins] ⊆ pl) (hs0 : only pl s0 s) : only pl s0 (State.resetRequest s rank cause host) := by
  unfold State.resetRequest
  repeat' with_reducible first | assumption | exact parts_sub (by with_unfolding_all decide) hl | apply State.deviceReset_only | apply State.setReg_only | apply State.wr_only | apply ite_only | apply ite_only1 | apply ite_only2 | apply ite_only22 | apply ite_only21 | dsimp only | split | (apply only.lit <;> first | exact Or.inl (parts_mem hl (by with_unfolding_all decide)) | exact Or.inr rfl | skip)

theorem execResetRelease_only {s0 : State} {pl : List Part} {s : State} (hl : [.regs, .ctrs, .mgt, .logs, .pwr] ⊆ pl) (hs0 : only pl s0 s) : OnlyR pl s0 (execResetRelease s) := by
  unfold execResetRelease
  repeat' with_reducible first | assumption | exact parts_sub (by with_unfolding_all decide) hl | exact only.refl _ _ | apply OnlyR.next | apply ite_onlyR | apply State.enterMode_only | apply State.wrb_only | apply ite_only | apply ite_only1 | apply ite_only2 | apply ite_only22 | apply ite_only21 | (apply only.lit <;> first | exact Or.inl (parts_mem hl (by with_unfolding_all decide)) | exact Or.inr rfl | skip)

theorem State.rstCtlWrite_only {s0 : State} {pl : List Part} {s : State} (w : Word) (hl : [.regs, .ctrs, .latches, .mtime, .freeCtr, .answer, .mgt, .dbg, .logs, .irq, .clk, .noc, .span, .inject, .prbs, .dram, .procs, .cfg, .img, .churn, .fab, .slc, .mem, .time, .cel, .scr, .fen, .dma, .svc, .cores, .pwr, .lcs, .bist, .pins] ⊆ pl) (hs0 : only pl s0 s) : only pl s0 (State.rstCtlWrite s w) := by
  unfold State.rstCtlWrite
  repeat' with_reducible first | assumption | exact parts_sub (by with_unfolding_all decide) hl | apply State.resetRequest_only | apply ite_only

theorem State.powerActs_only {s0 : State} {pl : List Part} {s : State} (target wake : Nat) (hl : [.regs, .ctrs, .mgt, .dbg, .logs, .irq, .pwr] ⊆ pl) (hs0 : only pl s0 s) : only pl s0 (State.powerActs s target wake) := by
  unfold State.powerActs
  repeat' with_reducible first | assumption | exact parts_sub (by with_unfolding_all decide) hl | apply State.closeAll_only | apply State.raiseAt_only | apply State.wrb_only | refine foldl_only _ _ (fun _ _ _ => ?_) ?_ | refine foldl_only1 _ _ (fun _ _ _ => ?_) ?_ | refine foldl_only2 _ _ (fun _ _ _ => ?_) ?_ | refine foldl_only22 _ _ (fun _ _ _ => ?_) ?_ | refine foldl_only21 _ _ (fun _ _ _ => ?_) ?_ | apply ite_only | apply ite_only1 | apply ite_only2 | apply ite_only22 | apply ite_only21 | dsimp only | intro _ _ _ _ | intro _ _ _ | intro _ _ | (apply only.lit <;> first | exact Or.inr rfl | exact Or.inl (parts_mem hl (by with_unfolding_all decide)) | skip)

theorem State.pwrCmdWrite_only {s0 : State} {pl : List Part} {s : State} (w : Word) (hl : [.regs, .ctrs, .mgt, .dbg, .logs, .irq, .pwr] ⊆ pl) (hs0 : only pl s0 s) : only pl s0 (State.pwrCmdWrite s w).1 := by
  unfold State.pwrCmdWrite
  repeat' with_reducible first | assumption | exact parts_sub (by with_unfolding_all decide) hl | apply State.powerActs_only | apply State.wr_only | apply ite_only | apply ite_only1

theorem execWakeEdge_only {s0 : State} {pl : List Part} (i : Fin 128) {s : State} (hl : [.irq, .pwr] ⊆ pl) (hs0 : only pl s0 s) : OnlyR pl s0 (execWakeEdge i s) := by
  unfold execWakeEdge
  repeat' with_reducible first | assumption | exact parts_sub (by with_unfolding_all decide) hl | exact only.refl _ _ | apply OnlyR.next | apply ite_onlyR | apply State.setLatch_only | apply ite_only | apply ite_only1 | apply ite_only2 | apply ite_only22 | apply ite_only21 | dsimp only | (apply only.lit <;> first | exact Or.inl (parts_mem hl (by with_unfolding_all decide)) | exact Or.inr rfl | skip)

theorem execWakeTimerExpiry_only {s0 : State} {pl : List Part} {s : State} (hl : [.irq, .pwr] ⊆ pl) (hs0 : only pl s0 s) : OnlyR pl s0 (execWakeTimerExpiry s) := by
  unfold execWakeTimerExpiry
  repeat' with_reducible first | assumption | exact parts_sub (by with_unfolding_all decide) hl | exact only.refl _ _ | apply OnlyR.next | apply ite_onlyR | apply State.setLatch_only | apply ite_only | apply ite_only1 | apply ite_only2 | apply ite_only22 | apply ite_only21 | dsimp only | (apply only.lit <;> first | exact Or.inl (parts_mem hl (by with_unfolding_all decide)) | exact Or.inr rfl | skip)

theorem execWakePowerGood_only {s0 : State} {pl : List Part} {s : State} (hl : [.regs, .ctrs, .mgt, .logs, .dram, .pwr] ⊆ pl) (hs0 : only pl s0 s) : OnlyR pl s0 (execWakePowerGood s) := by
  unfold execWakePowerGood
  repeat' with_reducible first | assumption | exact parts_sub (by with_unfolding_all decide) hl | exact only.refl _ _ | apply OnlyR.next | apply ite_onlyR | apply State.dramRelock_only | apply State.enterMode_only | apply State.setReg_only | apply State.wr_only | apply State.wrb_only | apply ite_only | apply ite_only1 | apply ite_only2 | apply ite_only22 | apply ite_only21 | dsimp only | split | (apply only.lit <;> first | exact Or.inl (parts_mem hl (by with_unfolding_all decide)) | exact Or.inr rfl | skip)

end Sys2Proof.Machine
end

