-- ==== Sys2Proof/Laws/Frame/Bus.lean ====
section
/-! SUPPORT. The frames of Machine/Bus.lean: which parts of the state each operation and each command may change. -/

namespace Sys2Proof.Machine


theorem State.plainWrite_only {s0 : State} {pl : List Part} {s : State} (off : Nat) (w : Word) (hl : [.regs] ⊆ pl) (hs0 : only pl s0 s) : only pl s0 (State.plainWrite s off w) := by
  unfold State.plainWrite
  repeat' with_reducible first | assumption | exact parts_sub (by with_unfolding_all decide) hl | apply State.setReg_only | split

theorem State.setPairLatch_only {s0 : State} {pl : List Part} {s : State} (off : Nat) (w : Word) (hl : [.latches] ⊆ pl) (hs0 : only pl s0 s) : only pl s0 (State.setPairLatch s off w) := by
  unfold State.setPairLatch
  repeat' with_reducible first | assumption | exact parts_sub (by with_unfolding_all decide) hl | (apply only.lit <;> first | exact Or.inr rfl | exact Or.inl (parts_mem hl (by with_unfolding_all decide)) | skip)

theorem State.openGroup_only {s0 : State} {pl : List Part} {s : State} (off : Nat) (hl : [.clk] ⊆ pl) (hs0 : only pl s0 s) : only pl s0 (State.openGroup s off) := by
  unfold State.openGroup
  repeat' with_reducible first | assumption | exact parts_sub (by with_unfolding_all decide) hl | apply ite_only | apply ite_only1 | apply ite_only2 | apply ite_only22 | apply ite_only21 | dsimp only | intro _ _ _ _ | intro _ _ _ | intro _ _ | (apply only.lit <;> first | exact Or.inl (parts_mem hl (by with_unfolding_all decide)) | exact Or.inr rfl | skip)

theorem State.slcPop_only {s0 : State} {pl : List Part} {s : State} (q : Req) (off : Nat) (hl : [.latches] ⊆ pl) (hs0 : only pl s0 s) : only pl s0 (State.slcPop s q off).2 := by
  unfold State.slcPop
  repeat' with_reducible first | assumption | exact parts_sub (by with_unfolding_all decide) hl | apply State.setPairLatch_only | dsimp only

theorem State.readReg_only {s0 : State} {pl : List Part} {s : State} (q : Req) (off : Nat) (hl : [.regs, .ctrs, .latches, .freeCtr, .mgt, .logs, .irq, .procs, .time, .fen, .svc] ⊆ pl) (hs0 : only pl s0 s) : only pl s0 (State.readReg s q off).2 := by
  unfold State.readReg
  repeat' with_reducible first | assumption | exact parts_sub (by with_unfolding_all decide) hl | apply State.capPop_only | apply State.claimRead_only | apply State.fclRead_only | apply State.rxPop_only | apply State.setPairLatch_only | apply State.slcPop_only | apply State.tsqPop_only | apply State.vclaimRead_only | apply ite_only | apply ite_only1 | apply ite_only2 | apply ite_only22 | apply ite_only21 | dsimp only | (apply only.lit <;> first | exact Or.inr rfl | exact Or.inl (parts_mem hl (by with_unfolding_all decide)) | skip)

theorem orNone_only {s0 s : State} {pl : List Part} (x : Option State) (hx : OnlyO pl s0 x) (h : only pl s0 s) :
    only pl s0 (orNone s x).1 := by
  cases x with
  | none => exact h
  | some t => exact hx t rfl

theorem State.writeClkCfg_only {s0 : State} {pl : List Part} {s : State} (off : Nat) (w : Word) (hl : [.regs, .ctrs, .latches, .mtime, .freeCtr, .answer, .mgt, .dbg, .logs, .irq, .clk, .noc, .span, .inject, .prbs, .dram, .procs, .cfg, .img, .churn, .fab, .slc, .mem, .time, .cel, .scr, .fen, .dma, .svc, .cores, .pwr, .lcs, .bist, .pins] ⊆ pl) (hs0 : only pl s0 s) : only pl s0 (State.writeClkCfg s off w).1 := by
  unfold State.writeClkCfg
  repeat' with_reducible first | assumption | exact parts_sub (by with_unfolding_all decide) hl | apply State.cfgOpWrite_only | apply State.divWrite_only | apply State.fclWrite_only | apply State.fwWrite_only | apply State.oscWrite_only | apply State.plainWrite_only | apply State.pwrCmdWrite_only | apply State.rootCtrlWrite_only | apply State.rstCtlWrite_only | apply ite_only | apply ite_only1

theorem State.writeVat_only {s0 : State} {pl : List Part} {s : State} (q : Req) (off : Nat) (w : Word) (hl : [.regs, .ctrs, .latches, .freeCtr, .mgt, .logs, .irq, .noc, .cfg, .img, .churn, .fab, .slc, .mem, .dma, .pins] ⊆ pl) (hs0 : only pl s0 s) : only pl s0 (State.writeVat s q off w).1 := by
  unfold State.writeVat
  repeat' with_reducible first | assumption | exact parts_sub (by with_unfolding_all decide) hl | apply State.assignWrite_only | apply State.churnCtlWrite_only | apply State.mloadWrite_only | apply State.mregWrite_only | apply State.plainWrite_only | apply State.vatCtrlWrite_only | apply ite_only | apply ite_only1

theorem State.writeNoc_only {s0 : State} {pl : List Part} {s : State} (off : Nat) (w : Word) (hl : [.regs, .ctrs, .mgt, .logs, .irq, .noc, .span] ⊆ pl) (hs0 : only pl s0 s) : only pl s0 (State.writeNoc s off w).1 := by
  unfold State.writeNoc
  repeat' with_reducible first | assumption | exact parts_sub (by with_unfolding_all decide) hl | apply State.bindReg_only | apply State.burstTo_only | apply State.drawFrom_only | apply State.plainWrite_only | apply State.spanEnable_only | apply State.unbindReg_only | apply State.wrb_only | apply ite_only | apply ite_only1

theorem State.writeDdr_only {s0 : State} {pl : List Part} {s : State} (off : Nat) (w : Word) (hl : [.regs, .dram] ⊆ pl) (hs0 : only pl s0 s) : only pl s0 (State.writeDdr s off w).1 := by
  unfold State.writeDdr
  repeat' with_reducible first | assumption | exact parts_sub (by with_unfolding_all decide) hl | apply State.chCtlWrite_only | apply State.ddrRefWrite_only | apply State.geomWrite_only | apply State.plainWrite_only | apply State.spareWrite_only | apply orNone_only | apply ite_only | apply ite_only1 | apply ite_only2 | apply ite_only22 | apply ite_only21 | dsimp only | split

theorem State.writeLane_only {s0 : State} {pl : List Part} {s : State} (off : Nat) (w : Word) (hl : [.regs, .ctrs, .mgt, .logs, .irq, .span, .inject, .fen] ⊆ pl) (hs0 : only pl s0 s) : only pl s0 (State.writeLane s off w).1 := by
  unfold State.writeLane
  repeat' with_reducible first | assumption | exact parts_sub (by with_unfolding_all decide) hl | apply State.injWrite_only | apply State.laneCtlWrite_only | apply State.laneIrq_only | apply State.plainWrite_only | apply State.prbsWrite_only | apply State.qpllWrite_only | apply State.qrefWrite_only | apply State.txEqWrite_only | apply State.txFirWrite_only | apply orNone_only | dsimp only | split

theorem State.writeFen_only {s0 : State} {pl : List Part} {s : State} (off : Nat) (w : Word) (hl : [.regs, .ctrs, .freeCtr, .mgt, .logs, .irq, .fen] ⊆ pl) (hs0 : only pl s0 s) : only pl s0 (State.writeFen s off w).1 := by
  unfold State.writeFen
  repeat' with_reducible first | assumption | exact parts_sub (by with_unfolding_all decide) hl | apply State.fcTxWrite_only | apply State.fenIrq_only | apply State.ovfWrite_only | apply State.pidxWrite_only | apply State.plainWrite_only | apply State.portCtlWrite_only | apply State.qCfgWrite_only | apply State.qResumeWrite_only | apply State.txCfgWrite_only | apply ite_only | apply ite_only1 | apply ite_only2 | apply ite_only22 | apply ite_only21 | dsimp only | split

theorem State.writeTime_only {s0 : State} {pl : List Part} {s : State} (q : Req) (off : Nat) (w : Word) (hl : [.regs, .ctrs, .mgt, .logs, .irq, .time] ⊆ pl) (hs0 : only pl s0 s) : only pl s0 (State.writeTime s q off w).1 := by
  unfold State.writeTime
  repeat' with_reducible first | assumption | exact parts_sub (by with_unfolding_all decide) hl | apply State.capCtlWrite_only | apply State.cmpCtlWrite_only | apply State.plainWrite_only | apply State.ptpWrite_only | apply State.rateWrite_only | apply State.tbCtlWrite_only | apply State.tclkWrite_only | apply State.tpCtlWrite_only | apply ite_only | apply ite_only1 | apply ite_only2 | apply ite_only22 | apply ite_only21 | dsimp only | split

theorem State.writeIrq_only {s0 : State} {pl : List Part} {s : State} (q : Req) (off : Nat) (w : Word) (hl : [.regs, .irq, .procs] ⊆ pl) (hs0 : only pl s0 s) : only pl s0 (State.writeIrq s q off w).1 := by
  unfold State.writeIrq
  repeat' with_reducible first | assumption | exact parts_sub (by with_unfolding_all decide) hl | apply State.complete_only | apply State.pendWrite_only | apply State.plainWrite_only | apply State.reoffer_only | apply State.srcCfgWrite_only | apply State.swiWrite_only | apply State.vcompleteWrite_only | apply State.wakeLatWrite_only | apply ite_only | apply ite_only1

theorem State.writeSvc_only {s0 : State} {pl : List Part} {s : State} (q : Req) (off : Nat) (w : Word) (hl : [.regs, .ctrs, .mgt, .dbg, .logs, .irq, .procs, .dma, .svc, .cores] ⊆ pl) (hs0 : only pl s0 s) : only pl s0 (State.writeSvc s q off w).1 := by
  unfold State.writeSvc
  repeat' with_reducible first | assumption | exact parts_sub (by with_unfolding_all decide) hl | apply State.coreCtlWrite_only | apply State.dmaCtlWrite_only | apply State.dmaIrq_only | apply State.mtip_only | apply State.plainWrite_only | apply State.scrBaseWrite_only | apply State.scrLockWrite_only | apply State.svcCfgWrite_only | apply State.svcIrq_only | apply State.txPush_only | apply ite_only | apply ite_only1 | apply ite_only2 | apply ite_only22 | apply ite_only21 | dsimp only | split

theorem State.writeRest_only {s0 : State} {pl : List Part} {s : State} (off : Nat) (w : Word) (hl : [.regs, .ctrs, .freeCtr, .mgt, .dbg, .logs, .irq, .span, .cfg, .mem, .cel, .scr, .fen, .bist, .pins] ⊆ pl) (hs0 : only pl s0 s) : only pl s0 (State.writeRest s off w).1 := by
  unfold State.writeRest
  repeat' with_reducible first | assumption | exact parts_sub (by with_unfolding_all decide) hl | apply State.bistCmdWrite_only | apply State.bistIrq_only | apply State.celCmdWrite_only | apply State.celIrq_only | apply State.dbgLock_only | apply State.hioRange_only | apply State.mpCtlWrite_only | apply State.plainWrite_only | apply ite_only | apply ite_only1

theorem State.writeSlc_only {s0 : State} {pl : List Part} {s : State} (off : Nat) (w : Word) (hl : [.regs, .ctrs, .mgt, .logs, .cfg, .slc] ⊆ pl) (hs0 : only pl s0 s) : only pl s0 (State.writeSlc s off w).1 := by
  unfold State.writeSlc
  repeat' with_reducible first | assumption | exact parts_sub (by with_unfolding_all decide) hl | apply State.inspWrite_only | apply State.plainWrite_only | apply State.slcCtlWrite_only | apply State.slcFlagsWrite_only | apply orNone_only | apply ite_only | apply ite_only1 | apply ite_only2 | apply ite_only22 | apply ite_only21 | dsimp only | split

theorem State.writeReg_only {s0 : State} {pl : List Part} {s : State} (q : Req) (off : Nat) (w : Word) (hl : [.regs, .ctrs, .latches, .mtime, .freeCtr, .answer, .mgt, .dbg, .logs, .irq, .clk, .noc, .span, .inject, .prbs, .dram, .procs, .cfg, .img, .churn, .fab, .slc, .mem, .time, .cel, .scr, .fen, .dma, .svc, .cores, .pwr, .lcs, .bist, .pins] ⊆ pl) (hs0 : only pl s0 s) : only pl s0 (State.writeReg s q off w).1 := by
  unfold State.writeReg
  repeat' with_reducible first | assumption | exact parts_sub (by with_unfolding_all decide) hl | apply State.writeClkCfg_only | apply State.writeDdr_only | apply State.writeFen_only | apply State.writeIrq_only | apply State.writeLane_only | apply State.writeNoc_only | apply State.writeRest_only | apply State.writeSlc_only | apply State.writeSvc_only | apply State.writeTime_only | apply State.writeVat_only | apply ite_only | apply ite_only1

theorem State.busRead_only {s0 : State} {pl : List Part} {s : State} (q : Req) (off n : Nat) (hl : [.regs, .ctrs, .latches, .freeCtr, .mgt, .logs, .irq, .clk, .procs, .time, .fen, .svc] ⊆ pl) (hs0 : only pl s0 s) : only pl s0 (State.busRead s q off n).1 := by
  unfold State.busRead
  repeat' with_reducible first | assumption | exact parts_sub (by with_unfolding_all decide) hl | apply State.ctrLatch_only | apply State.openGroup_only | apply State.readReg_only | apply ite_only | apply ite_only1 | apply ite_only2 | apply ite_only22 | apply ite_only21 | dsimp only | split

theorem State.busWrite_only {s0 : State} {pl : List Part} {s : State} (q : Req) (off n : Nat) (w : Word) (hl : [.regs, .ctrs, .latches, .mtime, .freeCtr, .answer, .mgt, .dbg, .logs, .irq, .clk, .noc, .span, .inject, .prbs, .dram, .procs, .cfg, .img, .churn, .fab, .slc, .mem, .time, .cel, .scr, .fen, .dma, .svc, .cores, .pwr, .lcs, .bist, .pins] ⊆ pl) (hs0 : only pl s0 s) : only pl s0 (State.busWrite s q off n w).1 := by
  unfold State.busWrite
  repeat' with_reducible first | assumption | exact parts_sub (by with_unfolding_all decide) hl | apply State.ctrClear_only | apply State.openGroup_only | apply State.writeReg_only | apply ite_only | apply ite_only1 | apply ite_only2 | apply ite_only22 | apply ite_only21 | dsimp only | split

theorem State.tell_only {s0 : State} {pl : List Part} {s : State} (st : Status) (data : List Byte) (hl : [.answer] ⊆ pl) (hs0 : only pl s0 s) : only pl s0 (State.tell s st data) := by
  unfold State.tell
  repeat' with_reducible first | assumption | exact parts_sub (by with_unfolding_all decide) hl | (apply only.lit <;> first | exact Or.inl (parts_mem hl (by with_unfolding_all decide)) | exact Or.inr rfl | skip)

theorem State.busPut_only {s0 : State} {pl : List Part} {s : State} (q : Req) (off : Nat) (w : Word) (hl : [.regs, .ctrs, .latches, .mtime, .freeCtr, .answer, .mgt, .dbg, .logs, .irq, .clk, .noc, .span, .inject, .prbs, .dram, .procs, .cfg, .img, .churn, .fab, .slc, .mem, .time, .cel, .scr, .fen, .dma, .svc, .cores, .pwr, .lcs, .bist, .pins] ⊆ pl) (hs0 : only pl s0 s) : only pl s0 (State.busPut s q off w) := by
  unfold State.busPut
  repeat' with_reducible first | assumption | exact parts_sub (by with_unfolding_all decide) hl | apply State.busWrite_only | apply State.tell_only | apply ite_only | apply ite_only1 | apply ite_only2 | apply ite_only22 | apply ite_only21 | dsimp only

theorem State.busGet_only {s0 : State} {pl : List Part} {s : State} (q : Req) (off : Nat) (hl : [.regs, .ctrs, .latches, .freeCtr, .answer, .mgt, .logs, .irq, .clk, .procs, .time, .fen, .svc] ⊆ pl) (hs0 : only pl s0 s) : only pl s0 (State.busGet s q off) := by
  unfold State.busGet
  repeat' with_reducible first | assumption | exact parts_sub (by with_unfolding_all decide) hl | apply State.busRead_only | apply State.tell_only | apply ite_only | apply ite_only1 | apply ite_only2 | apply ite_only22 | apply ite_only21 | dsimp only

end Sys2Proof.Machine
end

