-- ==== Sys2Proof/Laws/Regs.lean ====
section
/-! SUPPORT. Registers, fields and tables: what a write leaves to be read, and how an access to a register that can be
written or read goes. -/

namespace Sys2Proof.Machine

/-! Tables. -/

theorem tget_tdel_ne {α : Type} (t : Tab α) {k j : Nat} (d : α) (h : j ≠ k) : tget (tdel t k) j d = tget t j d := by
  induction t with
  | nil => rfl
  | cons p t ih =>
    obtain ⟨i, v⟩ := p
    by_cases e : i = k
    · subst e
      simp [tdel, tget, Ne.symm h]
    · simp only [tdel, if_neg e, tget]
      split
      · rfl
      · exact ih

theorem tget_tins_ne {α : Type} (t : Tab α) {k j : Nat} (x d : α) (h : j ≠ k) : tget (tins t k x) j d = tget t j d := by
  induction t with
  | nil => simp [tins, tget, Ne.symm h]
  | cons p t ih =>
    obtain ⟨i, v⟩ := p
    simp only [tins]
    split
    · simp [tget, Ne.symm h]
    · split
      · rename_i e
        subst e
        simp [tget, Ne.symm h]
      · simp only [tget]
        split
        · rfl
        · exact ih

theorem tget_tins_same {α : Type} (t : Tab α) (k : Nat) (x d : α) : tget (tins t k x) k d = x := by
  induction t with
  | nil => simp [tins, tget]
  | cons p t ih =>
    obtain ⟨i, v⟩ := p
    simp only [tins]
    split
    · simp [tget]
    · split
      · simp [tget]
      · rename_i e
        simp only [tget, if_neg e]
        exact ih

theorem tget_of_lt {α : Type} {t : Tab α} {n k : Nat} (d : α) (h : tsorted n t = true) (hk : k < n) : tget t k d = d := by
  induction t generalizing n with
  | nil => rfl
  | cons p t ih =>
    obtain ⟨i, v⟩ := p
    simp only [tsorted, Bool.and_eq_true, decide_eq_true_eq] at h
    have ne : i ≠ k := by omega
    simp only [tget, if_neg ne]
    exact ih h.2 (by omega)

theorem tget_tdel_same {α : Type} {t : Tab α} {n k : Nat} (d : α) (h : tsorted n t = true) : tget (tdel t k) k d = d := by
  induction t generalizing n with
  | nil => rfl
  | cons p t ih =>
    obtain ⟨i, v⟩ := p
    simp only [tsorted, Bool.and_eq_true, decide_eq_true_eq] at h
    by_cases e : i = k
    · subst e
      simp only [tdel, if_true]
      exact tget_of_lt d h.2 (by omega)
    · simp only [tdel, if_neg e, tget]
      exact ih h.2

/-- Another index reads as before. -/
theorem tget_tput_ne {α : Type} [DecidableEq α] (t : Tab α) {k j : Nat} (x d e : α) (h : j ≠ k) :
    tget (tput t k x d) j e = tget t j e := by
  unfold tput
  split
  · exact tget_tdel_ne t e h
  · exact tget_tins_ne t x e h

/-- The index written reads as the value written. -/
theorem tget_tput_same {α : Type} [DecidableEq α] {t : Tab α} (k : Nat) (x d : α) (h : tsorted 0 t = true) :
    tget (tput t k x d) k d = x := by
  unfold tput
  split
  · rename_i e
    rw [e]
    exact tget_tdel_same d h
  · exact tget_tins_same t k x d

/-! Bits of words. -/

theorem wmask_getLsbD {hi lo : Nat} (h : hi < 32) (i : Nat) :
    (wmask hi lo).getLsbD i = (decide (lo ≤ i) && decide (i ≤ hi)) := by
  unfold wmask
  rw [BitVec.getLsbD_ofNat, Nat.testBit_mul_two_pow, Nat.testBit_two_pow_sub_one]
  by_cases a : lo ≤ i
  · by_cases b : i ≤ hi
    · have : i < 32 := by omega
      have : i - lo < hi + 1 - lo := by omega
      simp [*]
    · have : ¬ i - lo < hi + 1 - lo := by omega
      simp [*]
  · simp [a]

theorem wset_getLsbD (w : Word) {hi lo : Nat} (v : Nat) (h : hi < 32) (i : Nat) :
    (wset w hi lo v).getLsbD i = if lo ≤ i ∧ i ≤ hi then v.testBit (i - lo) else w.getLsbD i := by
  unfold wset
  simp only [BitVec.getLsbD_or, BitVec.getLsbD_and, BitVec.getLsbD_not, BitVec.getLsbD_shiftLeft, wmask_getLsbD h,
    BitVec.getLsbD_ofNat]
  by_cases c : lo ≤ i ∧ i ≤ hi
  · have l : i < 32 := by omega
    have m : i - lo < 32 := by omega
    have n : ¬ i < lo := by omega
    rw [if_pos c]
    simp only [c.1, c.2, l, m, n, decide_true, decide_false, Bool.and_true, Bool.true_and, Bool.not_true, Bool.not_false,
      Bool.and_false, Bool.false_or]
  · have k : (decide (lo ≤ i) && decide (i ≤ hi)) = false := by simpa using c
    rw [if_neg c, k]
    by_cases l : i < 32
    · simp only [l, decide_true, Bool.not_false, Bool.and_true, Bool.and_false, Bool.or_false]
    · simp only [BitVec.getLsbD_of_ge w i (by omega), Bool.false_and, Bool.and_false, Bool.or_false]

theorem wget_testBit (w : Word) (hi lo i : Nat) :
    (wget w hi lo).testBit i = (decide (i < hi + 1 - lo) && w.getLsbD (lo + i)) := by
  unfold wget
  rw [Nat.testBit_mod_two_pow, BitVec.testBit_toNat, BitVec.getLsbD_ushiftRight]

/-- A field reads as the value written, cut to its width. -/
theorem wget_wset_same (w : Word) {hi lo : Nat} (v : Nat) (h : hi < 32) (k : lo ≤ hi) :
    wget (wset w hi lo v) hi lo = v % 2 ^ (hi + 1 - lo) := by
  apply Nat.eq_of_testBit_eq
  intro i
  rw [wget_testBit, wset_getLsbD w v h, Nat.testBit_mod_two_pow]
  by_cases c : i < hi + 1 - lo
  · have : lo ≤ lo + i ∧ lo + i ≤ hi := by omega
    simp [c, this]
  · simp [c]

/-- A field that does not overlap the field written reads as before. -/
theorem wget_wset_disj (w : Word) {hi lo hi' lo' : Nat} (v : Nat) (h : hi < 32) (k : hi' < lo ∨ hi < lo') :
    wget (wset w hi lo v) hi' lo' = wget w hi' lo' := by
  apply Nat.eq_of_testBit_eq
  intro i
  rw [wget_testBit, wget_testBit, wset_getLsbD w v h]
  by_cases c : i < hi' + 1 - lo'
  · have : ¬ (lo ≤ lo' + i ∧ lo' + i ≤ hi) := by omega
    simp [this]
  · simp [c]

/-- A field that a mask does not touch. -/
theorem wget_or_ne (w m : Word) (hi lo : Nat) (h : wget m hi lo = 0) : wget (w ||| m) hi lo = wget w hi lo := by
  apply Nat.eq_of_testBit_eq
  intro i
  have k : (wget m hi lo).testBit i = false := by simp [h]
  rw [wget_testBit] at k ⊢
  rw [wget_testBit, BitVec.getLsbD_or]
  by_cases c : i < hi + 1 - lo
  · simp only [c, decide_true, Bool.true_and] at k ⊢
    rw [k, Bool.or_false]
  · simp [c]

theorem wget_and_ne (w m : Word) (hi lo : Nat) (h : wget m hi lo = 2 ^ (hi + 1 - lo) - 1) :
    wget (w &&& m) hi lo = wget w hi lo := by
  apply Nat.eq_of_testBit_eq
  intro i
  have k : (wget m hi lo).testBit i = decide (i < hi + 1 - lo) := by rw [h, Nat.testBit_two_pow_sub_one]
  rw [wget_testBit] at k ⊢
  rw [wget_testBit, BitVec.getLsbD_and]
  by_cases c : i < hi + 1 - lo
  · simp only [c, decide_true, Bool.true_and] at k ⊢
    rw [k, Bool.and_true]
  · simp [c]

/-- A bit that is set. -/
theorem wget_or_self (w m : Word) (i : Nat) (h : m.getLsbD i = true) : wget (w ||| m) i i = 1 := by
  apply Nat.eq_of_testBit_eq
  intro j
  rw [wget_testBit, BitVec.getLsbD_or]
  cases j with
  | zero => simp [h]
  | succ j => simp [Nat.testBit_add_one]

/-- A bit that is cleared. -/
theorem wget_and_self (w m : Word) (i : Nat) (h : m.getLsbD i = false) : wget (w &&& m) i i = 0 := by
  apply Nat.eq_of_testBit_eq
  intro j
  rw [wget_testBit, BitVec.getLsbD_and]
  cases j with
  | zero => simp [h]
  | succ j => simp

/-! Registers. -/

theorem State.reg_setReg_ne (s : State) {a b : Nat} (w : Word) (h : b ≠ a) : (s.setReg a w).reg b = s.reg b :=
  tget_tput_ne s.regs _ _ _ h

theorem State.reg_setReg_same {s : State} (a : Nat) (w : Word) (h : s.regsOk) : (s.setReg a w).reg a = w := by
  have k : tsorted 0 s.regs = true := by
    unfold State.regsOk twf at h
    exact (Bool.and_eq_true_iff.1 h).1
  exact tget_tput_same a w _ k

theorem State.reg_wr_ne (s : State) {f : Fld} {a : Nat} (v : Nat) (h : a ≠ f.off) : (s.wr f v).reg a = s.reg a :=
  s.reg_setReg_ne _ h

theorem State.rd_wr_ne (s : State) {f g : Fld} (v : Nat) (h : g.off ≠ f.off) : (s.wr f v).rd g = s.rd g := by
  unfold State.rd
  rw [s.reg_wr_ne v h]

theorem State.rd_wr_same {s : State} {f : Fld} (v : Nat) (ok : s.regsOk) (h : f.hi < 32) (k : f.lo ≤ f.hi) :
    (s.wr f v).rd f = v % 2 ^ (f.hi + 1 - f.lo) := by
  unfold State.rd State.wr
  rw [State.reg_setReg_same _ _ ok]
  exact wget_wset_same _ v h k

theorem State.rd_wr_disj {s : State} {f g : Fld} (v : Nat) (ok : s.regsOk) (h : f.hi < 32) (k : g.hi < f.lo ∨ f.hi < g.lo) :
    (s.wr f v).rd g = s.rd g := by
  by_cases e : g.off = f.off
  · unfold State.rd State.wr
    rw [e, State.reg_setReg_same _ _ ok]
    exact wget_wset_disj _ v h k
  · exact s.rd_wr_ne v e

theorem State.bit_wrb_same {s : State} {f : Fld} (b : Bool) (ok : s.regsOk) (h : f.hi < 32) (k : f.lo ≤ f.hi) :
    (s.wrb f b).bit f = b := by
  unfold State.bit State.wrb
  rw [State.rd_wr_same _ ok h k]
  have : 1 < 2 ^ (f.hi + 1 - f.lo) := Nat.one_lt_two_pow (by omega)
  cases b
  · simp
  · simp [Nat.mod_eq_of_lt this]

/-! Frames and registers. -/

theorem only.reg {l : List Part} {s t : State} (h : only l s t) (m : Part.regs ∉ l) (a : Nat) : t.reg a = s.reg a := by
  have e : t.regs = s.regs := h .regs m
  unfold State.reg
  rw [e]

theorem only.rd {l : List Part} {s t : State} (h : only l s t) (m : Part.regs ∉ l) (f : Fld) : t.rd f = s.rd f := by
  unfold State.rd
  rw [h.reg m]

theorem only.bit {l : List Part} {s t : State} (h : only l s t) (m : Part.regs ∉ l) (f : Fld) : t.bit f = s.bit f := by
  unfold State.bit
  rw [h.rd m]

@[simp] theorem State.bump_rd (s : State) (off n : Nat) (f : Fld) : (s.bump off n).rd f = s.rd f :=
  (State.bump_only (s0 := s) (pl := [.ctrs, .mgt, .logs]) off n (by decide) (only.refl _ _)).rd (by decide) f

@[simp] theorem State.bump_bit (s : State) (off n : Nat) (f : Fld) : (s.bump off n).bit f = s.bit f :=
  (State.bump_only (s0 := s) (pl := [.ctrs, .mgt, .logs]) off n (by decide) (only.refl _ _)).bit (by decide) f

@[simp] theorem State.raiseAt_rd (s : State) (hs : List Nat) (k : EvKind) (v src : Nat) (a : List Nat) (f : Fld) :
    (s.raiseAt hs k v src a).rd f = s.rd f :=
  (State.raiseAt_only (s0 := s) (pl := [.ctrs, .mgt, .logs]) hs k v src a (by decide) (only.refl _ _)).rd (by decide) f

@[simp] theorem State.raiseAt_bit (s : State) (hs : List Nat) (k : EvKind) (v src : Nat) (a : List Nat) (f : Fld) :
    (s.raiseAt hs k v src a).bit f = s.bit f :=
  (State.raiseAt_only (s0 := s) (pl := [.ctrs, .mgt, .logs]) hs k v src a (by decide) (only.refl _ _)).bit (by decide) f

/-! Accesses. -/

/-- Below the frame engine an access opens no clock. -/
theorem State.openGroup_low (s : State) {off : Nat} (h : off < 0x4000000) : s.openGroup off = s := by
  unfold State.openGroup
  dsimp only
  rw [if_neg (by omega), if_neg (by omega), if_neg (by omega)]

/-- A write of a register that can be written: the register's own rule, and the answer. -/
theorem State.busPut_eq {s : State} {q : Req} {off : Nat} (h : s.canWrite q off) (w : Word) :
    s.busPut q off w =
      ((s.openGroup off).writeReg q off w).1.tell (if ((s.openGroup off).writeReg q off w).2 then .okay else .slverr) [] := by
  have r : (regAt off).isNone = false := by simpa using h.reg
  unfold State.busPut State.busWrite
  simp [h.up, h.check, h.ctr, r]

/-- A read of a register that can be read. -/
theorem State.busGet_eq {s : State} {q : Req} {off : Nat} (h : s.canRead q off) :
    s.busGet q off = ((s.openGroup off).readReg q off).2.tell .okay (leBytes 4 ((s.openGroup off).readReg q off).1.toNat) := by
  have r : (regAt off).isNone = false := by simpa using h.reg
  unfold State.busGet State.busRead
  simp [h.up, h.plain, h.check, h.ctr, r]

end Sys2Proof.Machine
end

