-- ==== Sys2Proof/Laws/Memory.lean ====
section
/-! SUPPORT. The addressed memories: a word written reads back, and no other changes; a channel's lines keep their canonical
form. That every other memory operation keeps it stands beside each operation's own law. -/

namespace Sys2Proof.Machine

theorem twf_sorted {α : Type} [DecidableEq α] {d : Nat → α} {t : Tab α} (h : twf d t = true) : tsorted 0 t = true := by
  simp only [twf, Bool.and_eq_true] at h
  exact h.1

/-- In canonical form, the table written reads as before but for the entry written. -/
theorem twf_get {α : Type} [DecidableEq α] {d : α} {t : Tab α} (k : Nat) (x : α) (h : twf (fun _ => d) t = true) (j : Nat) :
    tget (tput t k x d) j d = if j = k then x else tget t j d := by
  split
  · rename_i e
    subst e
    exact tget_tput_same j x d (twf_sorted h)
  · rename_i e
    exact tget_tput_ne t x d d e

/-- A line of a channel is stored under its physical rank's number and its own. -/
theorem DramCh.setLine_ok {c : DramCh} {rank i : Nat} (l : DLine) (hi : i < 2 ^ 30) (h : c.linesOk) :
    (c.setLine rank i l).linesOk := by
  have e : (rank * 2 ^ 30 + i) / 2 ^ 30 = rank := by omega
  have k := twf_tput (dflt := fun k => c.lineDefault (k / 2 ^ 30)) (rank * 2 ^ 30 + i) l h
  simp only [e] at k
  exact k

theorem State.setChan_ok {s : State} (n : Nat) {c : DramCh} (hc : c.linesOk) (h : s.dramOk) : (s.setChan n c).dramOk :=
  fun p m => (mem_tput m).elim (fun e => e ▸ hc) (h p)

/-! What was written is read, and nothing else is changed. -/

theorem State.memW_setMemW {s : State} (dm : Bool) (i k : Nat) (w : Option BmW) (h : s.memoryOk) :
    (s.setMemW dm i k w).memW dm i k = w := by
  cases dm
  · exact tget_tput_same _ _ _ (twf_sorted h.bm)
  · exact tget_tput_same _ _ _ (twf_sorted h.dm)

theorem State.scrWord_setScrWord {s : State} (j k : Nat) (w : Option BmW) (h : s.memoryOk) :
    (s.setScrWord k w).scrWord j = if j = k then w else s.scrWord j := twf_get _ _ h.scr _

theorem State.liveFrame_setLive {s : State} (j n : Nat) (f : Frame) (h : s.memoryOk) :
    (s.setLive n f).liveFrame j = if j = n then f else s.liveFrame j := twf_get _ _ h.live _

theorem State.opmW_setOpm {s : State} (g a : Nat) (w : Option OpmW) (h : s.memoryOk) : (s.setOpm g a w).opmW g a = w :=
  tget_tput_same _ _ _ (twf_sorted h.opm)

theorem DramCh.line_setLine {c : DramCh} (rank i : Nat) (l : DLine) (h : c.linesOk) : (c.setLine rank i l).line rank i = l :=
  tget_tput_same _ _ _ (twf_sorted (d := fun k => c.lineDefault (k / 2 ^ 30)) h)

end Sys2Proof.Machine
end

