-- ==== Sys2Proof/Laws/Nets.lean ====
section
/-! SUPPORT. The operations of Machine/Nets.lean leave the queue of commands alone and keep the invariant. -/

namespace Sys2Proof.Machine


theorem State.setSlice_ev {s0 : State} {s : State} (g : Nat) (x : SliceSt) (hs0 : Ev s0 s) : Ev s0 (State.setSlice s g x) := by
  unfold State.setSlice
  repeat' with_reducible first | assumption | refine Ev.lit rfl ?_

theorem State.setArr_ev {s0 : State} {s : State} (dm : Bool) (i : Nat) (x : MArr) (hs0 : Ev s0 s) : Ev s0 (State.setArr s dm i x) := by
  cases dm <;> exact Ev.mem (s := s) rfl rfl rfl rfl (mems_ok rfl) hs0

theorem State.drawFor_ev {s0 : State} {s : State} (x : PortSrc) (hs0 : Ev s0 s) : Ev s0 (State.drawFor s x).2 := by
  cases x
  · exact hs0
  · exact State.fresh_ev hs0

end Sys2Proof.Machine
end

