-- ==== Sys2Proof/Laws/Fabric.lean ====
section
/-! SUPPORT. The operations of Machine/Fabric.lean leave the queue of commands alone and keep the invariant. -/

namespace Sys2Proof.Machine


/-- Setting many entries keeps a table's canonical form. -/
theorem twf_tupd {α : Type} [DecidableEq α] {d : α} {t : Tab α} (n : Nat) (f : Nat → Option α) (h : twf (fun _ => d) t = true) :
    twf (fun _ => d) (tupd n f t d) = true := by
  unfold tupd
  induction n with
  | zero => exact h
  | succ n ih =>
    unfold tupdGo
    split
    · exact twf_put n _ ih
    · exact ih

/-- An entry after many were set: the value set, where that is not what an unlisted entry reads as or the table is in its
canonical form; what it was, where none was set. -/
theorem tget_tupd {α : Type} [DecidableEq α] {d : α} {t : Tab α} (n : Nat) (f : Nat → Option α)
    (h : (∀ i v, f i = some v → v ≠ d) ∨ twf (fun _ => d) t = true) (j : Nat) :
    tget (tupd n f t d) j d = if j < n then (f j).getD (tget t j d) else tget t j d := by
  unfold tupd
  induction n with
  | zero => simp [tupdGo]
  | succ n ih =>
    unfold tupdGo
    cases c : f n with
    | none =>
      dsimp only
      rw [ih]
      by_cases k : j = n
      · subst k; simp [c]
      · simp only [show (j < n + 1) = (j < n) from propext ⟨by omega, by omega⟩]
    | some v =>
      dsimp only
      by_cases k : j = n
      · subst k
        rw [if_pos (Nat.lt_succ_self _), c, Option.getD_some]
        rcases h with h | h
        · unfold tput
          rw [if_neg (h _ _ c), tget_tins_same]
        · exact tget_tput_same _ _ _ (twf_sorted (by simpa only [tupd] using twf_tupd _ f h))
      · rw [tget_tput_ne _ _ _ _ k, ih]
        simp only [show (j < n + 1) = (j < n) from propext ⟨by omega, by omega⟩]

/-- An entry for which none was set is what it was. -/
theorem tget_tupd_none {α : Type} [DecidableEq α] {d : α} {t : Tab α} (n : Nat) (f : Nat → Option α) (e : α) {j : Nat}
    (h : f j = none) : tget (tupd n f t d) j e = tget t j e := by
  unfold tupd
  induction n with
  | zero => rfl
  | succ n ih =>
    unfold tupdGo
    cases c : f n with
    | none => exact ih
    | some v =>
      have k : j ≠ n := fun k => by rw [k, c] at h; cases h
      exact (tget_tput_ne _ _ _ _ k).trans ih

theorem State.syncEdge_ev {s0 : State} {s : State} (e : FabEdge) (d : Nat) (hs0 : Ev s0 s) : Ev s0 (State.syncEdge s e d) := by
  exact fab_ev _ hs0

theorem State.clockEdge_ev {s0 : State} {s : State} (e : FabEdge) (d : Nat) (hs0 : Ev s0 s) : Ev s0 (State.clockEdge s e d) := by
  unfold State.clockEdge
  exact edge_ev _ _ _ _ _ (twf_tupd _ _) (State.syncEdge_ev e d hs0)

/-! What an edge leaves in each table it writes. -/

theorem State.syncEdge_ff (s : State) (e : FabEdge) (d : Nat) : (s.syncEdge e d).fab.ff = s.fab.ff := rfl
theorem State.syncEdge_wire (s : State) (e : FabEdge) (d : Nat) : (s.syncEdge e d).fab.wire = s.fab.wire := rfl
theorem State.syncEdge_asr (s : State) (e : FabEdge) (d : Nat) : (s.syncEdge e d).fab.asr = s.fab.asr := rfl
theorem State.syncEdge_cfg (s : State) (e : FabEdge) (d : Nat) : (s.syncEdge e d).cfg = s.cfg := rfl

theorem State.clockEdge_sync (s : State) (e : FabEdge) (d : Nat) : (s.clockEdge e d).fab.sync = (s.syncEdge e d).fab.sync := rfl
theorem State.clockEdge_ff (s : State) (e : FabEdge) (d : Nat) :
    (s.clockEdge e d).fab.ff = tupd 14680064 (s.ffEdge (s.syncEdge e d) e d) s.fab.ff none := rfl
theorem State.clockEdge_wire (s : State) (e : FabEdge) (d : Nat) :
    (s.clockEdge e d).fab.wire = tupd 6881280 (fun n => (s.wireAfter (s.syncEdge e d) e d n).map some) s.fab.wire none := rfl
theorem State.clockEdge_live (s : State) (e : FabEdge) (d : Nat) :
    (s.clockEdge e d).cfg.live = tupd 262144 (s.memEdge (s.syncEdge e d) e d) s.cfg.live 0 := rfl
theorem State.clockEdge_bm (s : State) (e : FabEdge) (d : Nat) :
    (s.clockEdge e d).mem.bmA = tupd 13440 (s.bmEdge e) s.mem.bmA {} := rfl
theorem State.clockEdge_slices (s : State) (e : FabEdge) (d : Nat) :
    (s.clockEdge e d).slc.s = tupd 10752 (s.sliceEdge e) s.slc.s {} := rfl
theorem State.clockEdge_now (s : State) (e : FabEdge) (d : Nat) :
    (s.clockEdge e d).time.nowReg = tupd 16 (s.timeEdge e) s.time.nowReg 0 := rfl

theorem State.pinTile_ev {s0 : State} {s : State} (g : Nat) (hs0 : Ev s0 s) : Ev s0 (State.pinTile s g) := by
  unfold State.pinTile
  exact ite_ev hs0 (fab_ev _ hs0)

theorem State.pinFrame_ev {s0 : State} {s : State} (n : Nat) (hs0 : Ev s0 s) : Ev s0 (State.pinFrame s n) := by
  unfold State.pinFrame
  repeat' with_reducible first | assumption | apply State.pinTile_ev | apply ite_ev | apply ite_ev1 | apply ite_ev2 | apply ite_ev22 | apply ite_ev21 | split | refine Ev.lit rfl ?_

theorem State.srFalls_ev {s0 : State} {s : State} (g c : Nat) (hs0 : Ev s0 s) : Ev s0 (State.srFalls s g c) := by
  unfold State.srFalls
  exact ite_ev (fab_ev _ hs0) hs0

theorem State.holdTiles_ev {s0 : State} {s : State} (p : Nat → Bool) (hs0 : Ev s0 s) : Ev s0 (State.holdTiles s p) := by
  exact fab_ev _ hs0

theorem State.holdSyncs_ev {s0 : State} {s : State} (p : Nat → Bool) (hs0 : Ev s0 s) : Ev s0 (State.holdSyncs s p) := by
  exact fab_ev _ hs0

theorem State.takeSnap_ev {s0 : State} {s : State} (v : Nat) (hs0 : Ev s0 s) : Ev s0 (State.takeSnap s v) := by
  unfold State.takeSnap
  exact ite_ev hs0 (fab_ev _ hs0)

theorem State.dropSnap_ev {s0 : State} {s : State} (v : Nat) (hs0 : Ev s0 s) : Ev s0 (State.dropSnap s v) := by
  exact fab_ev _ hs0

end Sys2Proof.Machine
end

