-- ==== Sys2Proof/Laws/Memories.lean ====
section
/-! SUPPORT. The operations of Machine/Memories.lean leave the queue of commands alone and keep the invariant. -/

namespace Sys2Proof.Machine


theorem State.setMemW_ok {s : State} (dm : Bool) (i k : Nat) (w : Option BmW) (h : s.memoryOk) :
    (s.setMemW dm i k w).memoryOk := by
  cases dm
  · exact { h with bm := twf_put _ _ h.bm }
  · exact { h with dm := twf_put _ _ h.dm }

theorem State.setMemW_ev {s0 : State} {s : State} (dm : Bool) (i k : Nat) (w : Option BmW) (hs0 : Ev s0 s) : Ev s0 (State.setMemW s dm i k w) := by
  exact Ev.mem (s := s) rfl rfl rfl rfl (State.setMemW_ok dm i k w) hs0

theorem State.readWord_ev {s0 : State} {s : State} (ecc : Bool) (x0 : Option BmW) (hs0 : Ev s0 s) : Ev s0 (State.readWord s ecc x0).2.2.2.2 := by
  unfold State.readWord
  repeat' with_reducible first | assumption | apply State.fresh_ev | apply ite_ev | apply ite_ev1 | apply ite_ev2 | apply ite_ev22 | apply ite_ev21 | dsimp only | split

theorem State.upsetAt_ev {s0 : State} {s : State} (dm : Bool) (i k : Nat) (u : BitVec 72) (hs0 : Ev s0 s) : Ev s0 (State.upsetAt s dm i k u) := by
  unfold State.upsetAt
  repeat' with_reducible first | assumption | apply State.setArr_ev | apply State.setMemW_ev | apply ite_ev | apply ite_ev1 | apply ite_ev2 | apply ite_ev22 | apply ite_ev21 | dsimp only | intro _ _ _ _ | intro _ _ _ | intro _ _ | refine Ev.lit rfl ?_

theorem State.touch_ev {s0 : State} {s : State} (dm : Bool) (i k : Nat) (hs0 : Ev s0 s) : Ev s0 (State.touch s dm i k) := by
  unfold State.touch
  repeat' with_reducible first | assumption | apply State.setArr_ev | apply ite_ev

theorem State.staleMerges_ev {s0 : State} {s : State} (b : Nat) (pb : Bool) (k : Nat) (near : Bool) (hs0 : Ev s0 s) : Ev s0 (State.staleMerges s b pb k near) := by
  unfold State.staleMerges
  repeat' with_reducible first | assumption | apply State.fresh_ev | apply State.readWord_ev | apply State.setArr_ev | apply ite_ev | apply ite_ev1 | apply ite_ev2 | apply ite_ev22 | apply ite_ev21 | dsimp only | intro _ _ _ _ | intro _ _ _ | intro _ _ | refine Ev.lit rfl ?_

theorem State.memAct_ev {s0 : State} {s : State} (dm : Bool) (i : Nat) (ecc : Bool) (a : MAct) (hs0 : Ev s0 s) : Ev s0 (State.memAct s dm i ecc a) := by
  unfold State.memAct
  repeat' with_reducible first | assumption | apply State.setArr_ev | apply State.setMemW_ev | apply State.touch_ev | refine foldl_ev _ _ (fun _ _ _ => ?_) ?_ | refine foldl_ev1 _ _ (fun _ _ _ => ?_) ?_ | refine foldl_ev2 _ _ (fun _ _ _ => ?_) ?_ | refine foldl_ev22 _ _ (fun _ _ _ => ?_) ?_ | refine foldl_ev21 _ _ (fun _ _ _ => ?_) ?_ | apply ite_ev | apply ite_ev1 | apply ite_ev2 | apply ite_ev22 | apply ite_ev21 | dsimp only | intro _ _ _ _ | intro _ _ _ | intro _ _ | refine Ev.lit rfl ?_

theorem State.mergeAct_ev {s0 : State} {s : State} (dm : Bool) (i : Nat) (m : MReq) (hs0 : Ev s0 s) : Ev s0 (State.mergeAct s dm i m).2 := by
  unfold State.mergeAct
  repeat' with_reducible first | assumption | apply State.readWord_ev

theorem State.setOut_ev {s0 : State} {s : State} (dm : Bool) (i : Nat) (pb : Bool) (o : MOut) (hs0 : Ev s0 s) : Ev s0 (State.setOut s dm i pb o) := by
  unfold State.setOut
  repeat' with_reducible first | assumption | apply State.setArr_ev

theorem State.echo_ev {s0 : State} {s : State} (dm : Bool) (i : Nat) (pb : Bool) (rdw : Fin 3) (w lo : Nat) (new old : BitVec 72) (np op os : Bool) (hs0 : Ev s0 s) : Ev s0 (State.echo s dm i pb rdw w lo new old np op os) := by
  unfold State.echo
  repeat' with_reducible first | assumption | apply State.setOut_ev | split | refine Ev.lit rfl ?_

theorem State.echoMerge_ev {s0 : State} {s : State} (b : Nat) (m : MReq) (a : MAct) (hs0 : Ev s0 s) : Ev s0 (State.echoMerge s b m a) := by
  unfold State.echoMerge
  repeat' with_reducible first | assumption | apply State.setOut_ev | apply ite_ev | apply ite_ev1 | apply ite_ev2 | apply ite_ev22 | apply ite_ev21 | dsimp only | refine Ev.lit rfl ?_

theorem State.bmCycle_ev {s0 : State} {s : State} (b : Nat) (hs0 : Ev s0 s) : Ev s0 (State.bmCycle s b) := by
  unfold State.bmCycle
  repeat' with_reducible first | assumption | apply State.echoMerge_ev | apply State.memAct_ev | apply State.mergeAct_ev | apply State.setArr_ev | refine foldl_ev _ _ (fun _ _ _ => ?_) ?_ | refine foldl_ev1 _ _ (fun _ _ _ => ?_) ?_ | refine foldl_ev2 _ _ (fun _ _ _ => ?_) ?_ | refine foldl_ev22 _ _ (fun _ _ _ => ?_) ?_ | refine foldl_ev21 _ _ (fun _ _ _ => ?_) ?_ | dsimp only | intro _ _ _ _ | intro _ _ _ | intro _ _ | refine Ev.lit rfl ?_

theorem State.bmLand_ev {s0 : State} {s : State} (b : Nat) (pb : Bool) (hs0 : Ev s0 s) : Ev s0 (State.bmLand s b pb) := by
  unfold State.bmLand
  repeat' with_reducible first | assumption | apply State.echoMerge_ev | apply State.memAct_ev | apply State.mergeAct_ev | apply State.setArr_ev | apply State.staleMerges_ev | refine foldl_ev _ _ (fun _ _ _ => ?_) ?_ | refine foldl_ev1 _ _ (fun _ _ _ => ?_) ?_ | refine foldl_ev2 _ _ (fun _ _ _ => ?_) ?_ | refine foldl_ev22 _ _ (fun _ _ _ => ?_) ?_ | refine foldl_ev21 _ _ (fun _ _ _ => ?_) ?_ | dsimp only | intro _ _ _ _ | intro _ _ _ | intro _ _ | refine Ev.lit rfl ?_

theorem State.bmTime_ev {s0 : State} {s : State} (b : Nat) (pb : Bool) (t : ArrT) (hs0 : Ev s0 s) : Ev s0 (State.bmTime s b pb t).2 := by
  unfold State.bmTime
  repeat' with_reducible first | assumption | apply State.bmCycle_ev | apply State.bmLand_ev | apply State.fresh_ev | apply State.setArr_ev | refine foldl_ev _ _ (fun _ _ _ => ?_) ?_ | refine foldl_ev1 _ _ (fun _ _ _ => ?_) ?_ | refine foldl_ev2 _ _ (fun _ _ _ => ?_) ?_ | refine foldl_ev22 _ _ (fun _ _ _ => ?_) ?_ | refine foldl_ev21 _ _ (fun _ _ _ => ?_) ?_ | apply ite_ev | apply ite_ev1 | apply ite_ev2 | apply ite_ev22 | apply ite_ev21 | dsimp only | intro _ _ _ _ | intro _ _ _ | intro _ _ | refine Ev.lit rfl ?_

theorem State.bmAccept_ev {s0 : State} {s : State} (b : Nat) (pb : Bool) (t : ArrT) (hs0 : Ev s0 s) : Ev s0 (State.bmAccept s b pb t).2 := by
  unfold State.bmAccept
  repeat' with_reducible first | assumption | apply State.bmTime_ev | apply State.setArr_ev | apply ite_ev | apply ite_ev1 | apply ite_ev2 | apply ite_ev22 | apply ite_ev21 | dsimp only | refine Ev.lit rfl ?_

theorem State.queueWb_ev {s0 : State} {s : State} (dm : Bool) (i : Nat) (pb corr : Bool) (k : Nat) (v : BitVec 72) (sbe unc : Bool) (hs0 : Ev s0 s) : Ev s0 (State.queueWb s dm i pb corr k v sbe unc) := by
  unfold State.queueWb
  repeat' with_reducible first | assumption | apply State.setArr_ev | apply ite_ev | apply ite_ev1 | apply ite_ev2 | apply ite_ev22 | apply ite_ev21 | dsimp only | refine Ev.lit rfl ?_

theorem State.bmWrite_ev {s0 : State} {s : State} (b : Nat) (ecc near : Bool) (a : MAct) (hs0 : Ev s0 s) : Ev s0 (State.bmWrite s b ecc near a) := by
  unfold State.bmWrite
  repeat' with_reducible first | assumption | apply State.fresh_ev | apply State.memAct_ev | apply State.staleMerges_ev | apply ite_ev | apply ite_ev1 | apply ite_ev2 | apply ite_ev22 | apply ite_ev21 | dsimp only | intro _ _ _ _ | intro _ _ _ | intro _ _

theorem State.clearArr_ev {s0 : State} {s : State} (dm : Bool) (i : Nat) (hs0 : Ev s0 s) : Ev s0 (State.clearArr s dm i) := by
  unfold State.clearArr
  dsimp only
  refine foldl_ev _ _ (fun _ _ k => State.setMemW_ev _ _ _ _ k) ?_
  cases dm
  · exact Ev.mem (s := s.setArr false i _) rfl rfl rfl rfl (fun h => { h with bm := twf_tfilter (fun k _ => k / memWords false != i) h.bm })
      (State.setArr_ev false i _ hs0)
  · exact Ev.mem (s := s.setArr true i _) rfl rfl rfl rfl (fun h => { h with dm := twf_tfilter (fun k _ => k / memWords true != i) h.dm })
      (State.setArr_ev true i _ hs0)

theorem State.dmRoom_ev {s0 : State} {s : State} (p cap : Nat) (pb : Bool) (bank : Nat) (hs0 : Ev s0 s) : Ev s0 (State.dmRoom s p cap pb bank).2 := by
  unfold State.dmRoom
  repeat' with_reducible first | assumption | apply State.fresh_ev | apply ite_ev | apply ite_ev1 | apply ite_ev2 | apply ite_ev22 | apply ite_ev21 | dsimp only

theorem State.dmPerform_ev {s0 : State} {s : State} (p : Nat) (r : MReq) (hs0 : Ev s0 s) : Ev s0 (State.dmPerform s p r) := by
  unfold State.dmPerform
  repeat' with_reducible first | assumption | apply State.memAct_ev | apply State.mergeAct_ev | apply State.queueWb_ev | apply State.readWord_ev | apply State.setOut_ev | apply State.snap_ev | apply State.wr_ev | apply ite_ev | apply ite_ev1 | apply ite_ev2 | apply ite_ev22 | apply ite_ev21 | dsimp only | refine Ev.lit rfl ?_

theorem State.dmServe_ev {s0 : State} {s : State} (p cap : Nat) (r : MReq) (hs0 : Ev s0 s) : Ev s0 (State.dmServe s p cap r) := by
  unfold State.dmServe
  repeat' with_reducible first | assumption | apply State.dmPerform_ev | apply State.dmRoom_ev | apply State.setArr_ev | apply ite_ev | apply ite_ev1 | apply ite_ev2 | apply ite_ev22 | apply ite_ev21 | dsimp only | refine Ev.lit rfl ?_

theorem State.dmCycle_ev {s0 : State} {s : State} (p cap : Nat) (pb : Bool) (hs0 : Ev s0 s) : Ev s0 (State.dmCycle s p cap pb) := by
  unfold State.dmCycle
  repeat' with_reducible first | assumption | apply State.dmServe_ev | apply State.setArr_ev | refine foldl_ev _ _ (fun _ _ _ => ?_) ?_ | refine foldl_ev1 _ _ (fun _ _ _ => ?_) ?_ | refine foldl_ev2 _ _ (fun _ _ _ => ?_) ?_ | refine foldl_ev22 _ _ (fun _ _ _ => ?_) ?_ | refine foldl_ev21 _ _ (fun _ _ _ => ?_) ?_ | apply ite_ev | apply ite_ev1 | apply ite_ev2 | apply ite_ev22 | apply ite_ev21 | dsimp only | intro _ _ _ _ | intro _ _ _ | intro _ _ | refine Ev.lit rfl ?_

theorem State.dmUndo_ev {s0 : State} {s : State} (p : Nat) (q : MReq) (hs0 : Ev s0 s) : Ev s0 (State.dmUndo s p q) := by
  unfold State.dmUndo
  repeat' with_reducible first | assumption | apply State.setArr_ev | apply State.setMemW_ev | apply State.wr_ev | apply ite_ev | apply ite_ev1 | apply ite_ev2 | apply ite_ev22 | apply ite_ev21 | dsimp only | intro _ _ _ _ | intro _ _ _ | intro _ _ | split | refine Ev.lit rfl ?_

theorem State.dmTake_ev {s0 : State} {s : State} (p cap : Nat) (r : MReq) (hs0 : Ev s0 s) : Ev s0 (State.dmTake s p cap r) := by
  unfold State.dmTake
  repeat' with_reducible first | assumption | apply State.dmRoom_ev | apply State.dmServe_ev | apply State.dmUndo_ev | apply State.setArr_ev | apply State.wr_ev | apply ite_ev | apply ite_ev1 | apply ite_ev2 | apply ite_ev22 | apply ite_ev21 | dsimp only | intro _ _ _ _ | intro _ _ _ | intro _ _ | split | refine Ev.lit rfl ?_

theorem State.dmPass_ev {s0 : State} {s : State} (p cap : Nat) (pb : Bool) (t : ArrT) (hs0 : Ev s0 s) : Ev s0 (State.dmPass s p cap pb t) := by
  unfold State.dmPass
  repeat' with_reducible first | assumption | apply State.dmCycle_ev | refine foldl_ev _ _ (fun _ _ _ => ?_) ?_ | refine foldl_ev1 _ _ (fun _ _ _ => ?_) ?_ | refine foldl_ev2 _ _ (fun _ _ _ => ?_) ?_ | refine foldl_ev22 _ _ (fun _ _ _ => ?_) ?_ | refine foldl_ev21 _ _ (fun _ _ _ => ?_) ?_ | intro _ _ _ _ | intro _ _ _ | intro _ _

theorem State.dmAccept_ev {s0 : State} {s : State} (p cap : Nat) (pb : Bool) (t : ArrT) (hs0 : Ev s0 s) : Ev s0 (State.dmAccept s p cap pb t).2 := by
  unfold State.dmAccept
  repeat' with_reducible first | assumption | apply State.dmPass_ev | dsimp only

theorem State.writeBack_ev {s0 : State} {s : State} (dm : Bool) (i : Nat) (x0 : Option (Nat × Bool × BitVec 72)) (hs0 : Ev s0 s) : Ev s0 (State.writeBack s dm i x0) := by
  unfold State.writeBack
  repeat' with_reducible first | assumption | apply State.setMemW_ev | split | refine Ev.lit rfl ?_

theorem State.dmNoc_ev {s0 : State} {s : State} (p : Nat) (f : Flit) (us : List (BitVec 72)) (hs0 : Ev s0 s) : Ev s0 (State.dmNoc s p f us).2.2 := by
  unfold State.dmNoc
  repeat' with_reducible first | assumption | apply State.mergeAct_ev | apply State.queueWb_ev | apply State.readWord_ev | apply State.setArr_ev | apply State.setMemW_ev | apply State.upsetAt_ev | apply State.wr_ev | refine foldl_ev _ _ (fun _ _ _ => ?_) ?_ | refine foldl_ev1 _ _ (fun _ _ _ => ?_) ?_ | refine foldl_ev2 _ _ (fun _ _ _ => ?_) ?_ | refine foldl_ev22 _ _ (fun _ _ _ => ?_) ?_ | refine foldl_ev21 _ _ (fun _ _ _ => ?_) ?_ | apply ite_ev | apply ite_ev1 | apply ite_ev2 | apply ite_ev22 | apply ite_ev21 | dsimp only | intro _ _ _ _ | intro _ _ _ | intro _ _ | refine Ev.lit rfl ?_

theorem State.dmAnswer_ev {s0 : State} {s : State} (p : Nat) (us : List (BitVec 72)) (takes : Bool) (hs0 : Ev s0 s) : Ev s0 (State.dmAnswer s p us takes) := by
  unfold State.dmAnswer
  repeat' with_reducible first | assumption | apply State.dmNoc_ev | apply State.respond_ev | apply State.setArr_ev | refine foldl_ev _ _ (fun _ _ _ => ?_) ?_ | refine foldl_ev1 _ _ (fun _ _ _ => ?_) ?_ | refine foldl_ev2 _ _ (fun _ _ _ => ?_) ?_ | refine foldl_ev22 _ _ (fun _ _ _ => ?_) ?_ | refine foldl_ev21 _ _ (fun _ _ _ => ?_) ?_ | apply ite_ev | apply ite_ev1 | apply ite_ev2 | apply ite_ev22 | apply ite_ev21 | dsimp only | intro _ _ _ _ | intro _ _ _ | intro _ _ | split | refine Ev.lit rfl ?_

theorem State.drainMem_ev {s0 : State} {s : State} (dm : Bool) (i : Nat) (hs0 : Ev s0 s) : Ev s0 (State.drainMem s dm i) := by
  unfold State.drainMem
  repeat' with_reducible first | assumption | apply State.bmCycle_ev | apply State.bmLand_ev | apply State.dmPerform_ev | apply State.setArr_ev | apply State.writeBack_ev | refine foldl_ev _ _ (fun _ _ _ => ?_) ?_ | refine foldl_ev1 _ _ (fun _ _ _ => ?_) ?_ | refine foldl_ev2 _ _ (fun _ _ _ => ?_) ?_ | refine foldl_ev22 _ _ (fun _ _ _ => ?_) ?_ | refine foldl_ev21 _ _ (fun _ _ _ => ?_) ?_ | apply ite_ev | apply ite_ev1 | apply ite_ev2 | apply ite_ev22 | apply ite_ev21 | dsimp only | intro _ _ _ _ | intro _ _ _ | intro _ _ | refine Ev.lit rfl ?_

theorem State.holdMem_ev {s0 : State} {s : State} (dm : Bool) (i : Nat) (hs0 : Ev s0 s) : Ev s0 (State.holdMem s dm i) := by
  unfold State.holdMem
  repeat' with_reducible first | assumption | apply State.drainMem_ev | apply State.setArr_ev

theorem State.holdMems_ev {s0 : State} {s : State} (p : Nat → Bool) (hs0 : Ev s0 s) : Ev s0 (State.holdMems s p) := by
  unfold State.holdMems
  repeat' with_reducible first | assumption | apply State.holdMem_ev | refine foldl_ev _ _ (fun _ _ _ => ?_) ?_ | refine foldl_ev1 _ _ (fun _ _ _ => ?_) ?_ | refine foldl_ev2 _ _ (fun _ _ _ => ?_) ?_ | refine foldl_ev22 _ _ (fun _ _ _ => ?_) ?_ | refine foldl_ev21 _ _ (fun _ _ _ => ?_) ?_ | apply ite_ev

theorem State.clearMems_ok {s : State} (p : Nat → Bool) (h : s.memoryOk) : (s.clearMems p).memoryOk :=
  { h with
    bm := twf_tfilter (fun k _ => !p (k / 512 / 60)) h.bm
    dm := twf_tfilter (fun k _ => !p (2 * (k / 32768))) h.dm }

theorem State.clearMems_ev {s0 : State} {s : State} (p : Nat → Bool) (hs0 : Ev s0 s) : Ev s0 (State.clearMems s p) := by
  exact Ev.mem (s := s) rfl rfl rfl rfl (State.clearMems_ok p) hs0

theorem State.readConfig_ev {s0 : State} {s : State} (sec : Nat) (hs0 : Ev s0 s) : Ev s0 (State.readConfig s sec) := by
  unfold State.readConfig
  repeat' with_reducible first | assumption | refine foldl_ev _ _ (fun _ _ _ => ?_) ?_ | refine foldl_ev1 _ _ (fun _ _ _ => ?_) ?_ | refine foldl_ev2 _ _ (fun _ _ _ => ?_) ?_ | refine foldl_ev22 _ _ (fun _ _ _ => ?_) ?_ | refine foldl_ev21 _ _ (fun _ _ _ => ?_) ?_ | apply ite_ev | apply ite_ev1 | apply ite_ev2 | apply ite_ev22 | apply ite_ev21 | dsimp only | refine Ev.lit rfl ?_

end Sys2Proof.Machine
end

