-- ==== Sys2Proof/Laws/Slices.lean ====
section
/-! SUPPORT. The operations of Machine/Slices.lean leave the queue of commands alone and keep the invariant. -/

namespace Sys2Proof.Machine


theorem State.setOpm_ok {s : State} (g a : Nat) (w : Option OpmW) (h : s.memoryOk) : (s.setOpm g a w).memoryOk :=
  { h with opm := twf_put _ _ h.opm }

theorem State.setOpm_ev {s0 : State} {s : State} (g a : Nat) (w : Option OpmW) (hs0 : Ev s0 s) : Ev s0 (State.setOpm s g a w) := by
  exact Ev.mem (s := s) rfl rfl rfl rfl (State.setOpm_ok g a w) hs0

theorem State.opmWrite_ev {s0 : State} {s : State} (g a : Nat) (v : BitVec 36) (p : Bool) (hs0 : Ev s0 s) : Ev s0 (State.opmWrite s g a v p) := by
  unfold State.opmWrite
  repeat' with_reducible first | assumption | apply State.setOpm_ev

theorem State.parityHit_ev {s0 : State} {s : State} (g : Nat) (hs0 : Ev s0 s) : Ev s0 (State.parityHit s g) := by
  unfold State.parityHit
  repeat' with_reducible first | assumption | apply State.bump_ev | apply State.wrb_ev

theorem State.opmRead_ev {s0 : State} {s : State} (g a : Nat) (u : BitVec 37) (hs0 : Ev s0 s) : Ev s0 (State.opmRead s g a u).2.2 := by
  unfold State.opmRead
  repeat' with_reducible first | assumption | apply State.parityHit_ev | apply State.setOpm_ev | apply ite_ev

theorem State.setCoef_ev {s0 : State} {s : State} (g n : Nat) (v : BitVec 27) (hs0 : Ev s0 s) : Ev s0 (State.setCoef s g n v) := by
  unfold State.setCoef
  repeat' with_reducible first | assumption | apply State.setLive_ev

theorem State.coefRead_ev {s0 : State} {s : State} (g n : Nat) (u : BitVec 28) (hs0 : Ev s0 s) : Ev s0 (State.coefRead s g n u).2.2 := by
  unfold State.coefRead
  repeat' with_reducible first | assumption | apply State.parityHit_ev | apply State.setCoef_ev | apply ite_ev | apply ite_ev1 | apply ite_ev2 | apply ite_ev22 | apply ite_ev21 | dsimp only | refine Ev.lit rfl ?_

theorem State.keepCoefPar_ev {s0 : State} {s : State} (n : Nat) (new : Frame) (hs0 : Ev s0 s) : Ev s0 (State.keepCoefPar s n new) := by
  unfold State.keepCoefPar
  repeat' with_reducible first | assumption | refine foldl_ev _ _ (fun _ _ _ => ?_) ?_ | refine foldl_ev1 _ _ (fun _ _ _ => ?_) ?_ | refine foldl_ev2 _ _ (fun _ _ _ => ?_) ?_ | refine foldl_ev22 _ _ (fun _ _ _ => ?_) ?_ | refine foldl_ev21 _ _ (fun _ _ _ => ?_) ?_ | apply ite_ev | apply ite_ev1 | apply ite_ev2 | apply ite_ev22 | apply ite_ev21 | dsimp only | intro _ _ _ _ | intro _ _ _ | intro _ _ | split | refine Ev.lit rfl ?_

theorem State.freshCoefPar_ev {s0 : State} {s : State} (n : Nat) (hs0 : Ev s0 s) : Ev s0 (State.freshCoefPar s n) := by
  unfold State.freshCoefPar
  repeat' with_reducible first | assumption | apply ite_ev | apply ite_ev1 | apply ite_ev2 | apply ite_ev22 | apply ite_ev21 | dsimp only | intro _ _ _ _ | intro _ _ _ | intro _ _ | split | refine Ev.lit rfl ?_

theorem State.inspect_ev {s0 : State} {s : State} (g slot : Nat) (u : BitVec 37) (uc : BitVec 28) (hs0 : Ev s0 s) : Ev s0 (State.inspect s g slot u uc) := by
  unfold State.inspect
  repeat' with_reducible first | assumption | apply State.coefRead_ev | apply State.opmRead_ev | apply State.opmWrite_ev | apply State.parityHit_ev | apply State.setSlice_ev | apply State.wr_ev | apply State.wrb_ev | apply ite_ev | apply ite_ev1 | apply ite_ev2 | apply ite_ev22 | apply ite_ev21 | dsimp only | split | refine Ev.lit rfl ?_

theorem State.closeCycle_ev {s0 : State} {s : State} (g : Nat) (hs0 : Ev s0 s) : Ev s0 (State.closeCycle s g) := by
  unfold State.closeCycle
  repeat' with_reducible first | assumption | apply State.inspect_ev | apply ite_ev | apply ite_ev1 | apply ite_ev2 | apply ite_ev22 | apply ite_ev21 | split

theorem State.settle_ev {s0 : State} {s : State} (g : Nat) (hs0 : Ev s0 s) : Ev s0 (State.settle s g) := by
  unfold State.settle
  repeat' with_reducible first | assumption | apply State.inspect_ev | apply ite_ev | apply ite_ev1 | apply ite_ev2 | apply ite_ev22 | apply ite_ev21 | dsimp only

theorem State.portP_ev {s0 : State} {s : State} (g slot a : Nat) (we : Bool) (d : BitVec 36) (u : BitVec 37) (hs0 : Ev s0 s) : Ev s0 (State.portP s g slot a we d u) := by
  unfold State.portP
  repeat' with_reducible first | assumption | apply State.bump_ev | apply State.opmRead_ev | apply State.opmWrite_ev | apply State.parityHit_ev | apply State.setSlice_ev | apply State.wrb_ev | apply ite_ev | apply ite_ev1 | apply ite_ev2 | apply ite_ev22 | apply ite_ev21 | dsimp only | split | refine Ev.lit rfl ?_

theorem State.stallCycle_ev {s0 : State} {s : State} (g cause : Nat) (hs0 : Ev s0 s) : Ev s0 (State.stallCycle s g cause) := by
  unfold State.stallCycle
  repeat' with_reducible first | assumption | apply State.bump_ev | apply State.setSlice_ev | apply State.settle_ev | apply ite_ev | apply ite_ev1 | apply ite_ev2 | apply ite_ev22 | apply ite_ev21 | dsimp only | refine Ev.lit rfl ?_

/-- What an instruction leaves, if it issues, has evolved. -/
def IssueEv (s0 : State) (i : Issue) : Prop := ∀ t y f l j d, i = .ok t y f l j d → Ev s0 t

theorem IssueEv.stall {s0 : State} {c : Nat} : IssueEv s0 (.stall c) := fun _ _ _ _ _ _ e => nomatch e

theorem IssueEv.ok {s0 s : State} {x : SliceSt} {f : List Nat} {l : Option (Nat × Option OpmW)} {j : Option Nat} {d : Bool}
    (h : Ev s0 s) : IssueEv s0 (.ok s x f l j d) := fun _ _ _ _ _ _ e => (Issue.ok.inj e).1 ▸ h

theorem ite_issueEv {s0 : State} {a b : Issue} {c : Prop} [Decidable c] (ha : IssueEv s0 a) (hb : IssueEv s0 b) :
    IssueEv s0 (if c then a else b) := by
  split <;> assumption

theorem State.issueOp_ev {s0 s : State} (g op : Nat) (body : State → SliceSt → Word → Issue)
    (hb : ∀ s x w, Ev s0 s → IssueEv s0 (body s x w)) (h : Ev s0 s) : Ev s0 (State.issueOp s g op body) := by
  unfold State.issueOp
  refine ite_ev h ?_
  dsimp only
  split
  · exact State.stallCycle_ev _ _ (State.closeCycle_ev _ h)
  · rename_i e
    exact State.settle_ev _ (State.setSlice_ev _ _ (hb _ _ _ (State.closeCycle_ev _ h) _ _ _ _ _ _ e))

theorem State.fpFlags_ev {s0 : State} {s : State} (g : Nat) (f : FpFlags) (hs0 : Ev s0 s) : Ev s0 (State.fpFlags s g f) := by
  unfold State.fpFlags
  repeat' with_reducible first | assumption | apply State.wrb_ev | apply ite_ev

theorem State.fpResult_ev {s0 : State} {s : State} (g : Nat) (v : FpVal) (hs0 : Ev s0 s) : Ev s0 (State.fpResult s g v).2 := by
  unfold State.fpResult
  repeat' with_reducible first | assumption | apply State.fpFlags_ev | apply State.fresh_ev | dsimp only | split

theorem State.macAcc_ev {s0 : State} {s : State} (g : Nat) (x : SliceSt) (w : Word) (a b : Option (BitVec 36)) (poison : Bool) (hs0 : Ev s0 s) : Ev s0 (State.macAcc s g x w a b poison).2 := by
  unfold State.macAcc
  repeat' with_reducible first | assumption | apply State.fpResult_ev | apply State.wrb_ev | refine foldl_ev _ _ (fun _ _ _ => ?_) ?_ | refine foldl_ev1 _ _ (fun _ _ _ => ?_) ?_ | refine foldl_ev2 _ _ (fun _ _ _ => ?_) ?_ | refine foldl_ev22 _ _ (fun _ _ _ => ?_) ?_ | refine foldl_ev21 _ _ (fun _ _ _ => ?_) ?_ | apply ite_ev | apply ite_ev1 | apply ite_ev2

theorem State.portDo_ev {s0 : State} {s : State} (src : PortSrc) (d g slot : Nat) (a : BitVec 10) (we : Bool) (w : BitVec 36) (u : BitVec 37) (hs0 : Ev s0 s) : Ev s0 (State.portDo s src d g slot a we w u) := by
  unfold State.portDo
  repeat' with_reducible first | assumption | apply State.portP_ev | dsimp only

theorem State.slcCtlWrite_ev {s0 : State} {s : State} (g : Nat) (w : Word) (hs0 : Ev s0 s) : Ev s0 (State.slcCtlWrite s g w) := by
  unfold State.slcCtlWrite
  repeat' with_reducible first | assumption | apply State.setSlice_ev | apply State.settle_ev | apply ite_ev | apply ite_ev1 | apply ite_ev2 | apply ite_ev22 | apply ite_ev21 | dsimp only | refine Ev.lit rfl ?_

theorem State.slcFlagsWrite_ev {s0 : State} {s : State} (g : Nat) (w : Word) (hs0 : Ev s0 s) : Ev s0 (State.slcFlagsWrite s g w) := by
  unfold State.slcFlagsWrite
  repeat' with_reducible first | assumption | apply State.setReg_ev | apply State.setSlice_ev | apply ite_ev

theorem State.inspWrite_ev {s0 : State} {s : State} (g : Nat) (w : Word) (hs0 : Ev s0 s) : EvO s0 (State.inspWrite s g w) := by
  unfold State.inspWrite
  repeat' with_reducible first | assumption | exact EvO.none | apply EvO.some | apply ite_evO | apply State.inspect_ev | apply State.setReg_ev | apply State.wrb_ev | apply ite_ev | apply ite_ev1 | apply ite_ev2 | apply ite_ev22 | apply ite_ev21 | dsimp only

theorem State.holdSlices_ev {s0 : State} {s : State} (p : Nat → Bool) (hs0 : Ev s0 s) : Ev s0 (State.holdSlices s p) := by
  unfold State.holdSlices
  repeat' with_reducible first | assumption | dsimp only | intro _ _ _ _ | intro _ _ _ | intro _ _ | refine Ev.lit2 (fun w => twf_tfilter _ w) (by first | exact ⟨id, fun _ m => m⟩ | exact ⟨fun x => twf_tfilter _ x, fun _ m => mem_tfilter m⟩) rfl ?_

theorem State.releaseSector_ev {s0 : State} {s : State} (sec : Nat) (hs0 : Ev s0 s) : Ev s0 (State.releaseSector s sec) := by
  unfold State.releaseSector
  repeat' with_reducible first | assumption | apply State.setSlice_ev | refine foldl_ev _ _ (fun _ _ _ => ?_) ?_

theorem State.clearOpm_ok {s : State} (p : Nat → Bool) (h : s.memoryOk) : (s.clearOpm p).memoryOk :=
  { h with opm := twf_tfilter (fun i _ => !p (i / 1024 / 48)) h.opm }

theorem State.clearOpm_ev {s0 : State} {s : State} (p : Nat → Bool) (hs0 : Ev s0 s) : Ev s0 (State.clearOpm s p) := by
  exact Ev.mem (s := s) rfl rfl rfl rfl (State.clearOpm_ok p) hs0

end Sys2Proof.Machine
end

