-- ==== Sys2Proof/Laws/Planes.lean ====
section
/-! SUPPORT. The operations of Machine/Planes.lean leave the queue of commands alone and keep the invariant. -/

namespace Sys2Proof.Machine


theorem State.setRole_ev {s0 : State} {s : State} (v : Nat) (r : Role) (hs0 : Ev s0 s) : Ev s0 (State.setRole s v r) := by
  exact Ev.same (s := s) rfl rfl rfl rfl rfl hs0

theorem State.setStandby_ev {s0 : State} {s : State} (v : Nat) (b : Bool) (hs0 : Ev s0 s) : Ev s0 (State.setStandby s v b) := by
  unfold State.setStandby
  repeat' with_reducible first | assumption | apply State.setRole_ev

theorem State.showSwaps_ev {s0 : State} {s : State} (hs0 : Ev s0 s) : Ev s0 (State.showSwaps s) := by
  unfold State.showSwaps
  repeat' with_reducible first | assumption | apply State.settleMode_ev | apply State.wr_ev | apply State.wrb_ev | refine foldl_ev _ _ (fun _ _ _ => ?_) ?_

theorem State.setVol_ev {s0 : State} {s : State} (n : Nat) (b : Bool) (hs0 : Ev s0 s) : Ev s0 (State.setVol s n b) := by
  unfold State.setVol
  repeat' with_reducible first | assumption | refine Ev.lit rfl ?_

theorem State.setUnrest_ev {s0 : State} {s : State} (n : Nat) (b : Bool) (hs0 : Ev s0 s) : Ev s0 (State.setUnrest s n b) := by
  unfold State.setUnrest
  repeat' with_reducible first | assumption | refine Ev.lit rfl ?_

theorem State.setPerr_ev {s0 : State} {s : State} (n : Nat) (k : Nat) (hs0 : Ev s0 s) : Ev s0 (State.setPerr s n k) := by
  unfold State.setPerr
  repeat' with_reducible first | assumption | refine Ev.lit rfl ?_

theorem State.freePlane_ev {s0 : State} {s : State} (p : Bool) (n : Nat) (hs0 : Ev s0 s) : Ev s0 (State.freePlane s p n) := by
  unfold State.freePlane
  repeat' with_reducible first | assumption | apply State.setPlane_ev | dsimp only | intro _ _ _ _ | intro _ _ _ | intro _ _ | refine Ev.lit rfl ?_

theorem State.setShadow_ev {s0 : State} {s : State} (n : Nat) (f : Option Frame) (hs0 : Ev s0 s) : Ev s0 (State.setShadow s n f) := by
  unfold State.setShadow
  repeat' with_reducible first | assumption | refine Ev.lit rfl ?_

theorem State.disturb_ev {s0 : State} {s : State} (n : Nat) (f : Frame) (hs0 : Ev s0 s) : Ev s0 (State.disturb s n f) := by
  unfold State.disturb
  repeat' with_reducible first | assumption | apply State.keepCoefPar_ev | apply State.pinFrame_ev | apply State.setLive_ev | apply ite_ev | apply ite_ev1 | apply ite_ev2 | apply ite_ev22 | apply ite_ev21

theorem State.loadLive_ev {s0 : State} {s : State} (n : Nat) (f : Frame) (hs0 : Ev s0 s) : Ev s0 (State.loadLive s n f) := by
  unfold State.loadLive
  repeat' with_reducible first | assumption | apply State.freshCoefPar_ev | apply State.setLive_ev

theorem State.dropRepairs_ev {s0 : State} {s : State} (p : Nat → Bool) (hs0 : Ev s0 s) : Ev s0 (State.dropRepairs s p) := by
  unfold State.dropRepairs
  repeat' with_reducible first | assumption | intro _ _ _ _ | intro _ _ _ | intro _ _ | split | refine Ev.lit rfl ?_

end Sys2Proof.Machine
end

