-- ==== Sys2Proof/Laws/Scratch.lean ====
section
/-! SUPPORT. The operations of Machine/Scratch.lean leave the queue of commands alone and keep the invariant. -/

namespace Sys2Proof.Machine

theorem State.setScrWord_ok {s : State} (k : Nat) (w : Option BmW) (h : s.memoryOk) : (s.setScrWord k w).memoryOk :=
  { h with scr := twf_put _ _ h.scr }

theorem State.setScrWord_ev {s0 : State} {s : State} (k : Nat) (w : Option BmW) (hs0 : Ev s0 s) : Ev s0 (State.setScrWord s k w) := by
  exact Ev.mem (s := s) rfl rfl rfl rfl (State.setScrWord_ok k w) hs0

theorem State.scrRead_ev {s0 : State} {s : State} (k : Nat) (u : BitVec 72) (hs0 : Ev s0 s) : Ev s0 (State.scrRead s k u).2.2 := by
  unfold State.scrRead
  repeat' with_reducible first | assumption | apply State.bump_ev | apply State.readWord_ev | apply State.setScrWord_ev | apply ite_ev

theorem State.scrWrite_ev {s0 : State} {s : State} (k : Nat) (m v : BitVec 72) (poison : Bool) (u : BitVec 72) (hs0 : Ev s0 s) : Ev s0 (State.scrWrite s k m v poison u) := by
  unfold State.scrWrite
  repeat' with_reducible first | assumption | apply State.scrRead_ev | apply State.setScrWord_ev | apply ite_ev

theorem State.scrServe_ev {s0 : State} {s : State} (i : Nat) (f : Flit) (us : List (BitVec 72)) (hs0 : Ev s0 s) : Ev s0 (State.scrServe s i f us).2.2 := by
  unfold State.scrServe
  repeat' with_reducible first | assumption | apply State.scrRead_ev | apply State.scrWrite_ev | refine foldl_ev _ _ (fun _ _ _ => ?_) ?_ | refine foldl_ev1 _ _ (fun _ _ _ => ?_) ?_ | refine foldl_ev2 _ _ (fun _ _ _ => ?_) ?_ | refine foldl_ev22 _ _ (fun _ _ _ => ?_) ?_ | refine foldl_ev21 _ _ (fun _ _ _ => ?_) ?_ | apply ite_ev | apply ite_ev1 | apply ite_ev2 | apply ite_ev22

theorem State.scrBaseWrite_ev {s0 : State} {s : State} (k : Nat) (w : Word) (hs0 : Ev s0 s) : Ev s0 (State.scrBaseWrite s k w).1 := by
  unfold State.scrBaseWrite
  repeat' with_reducible first | assumption | apply State.wr_ev | apply ite_ev | apply ite_ev1

theorem State.scrLockWrite_ev {s0 : State} {s : State} (k : Nat) (w : Word) (hs0 : Ev s0 s) : Ev s0 (State.scrLockWrite s k w).1 := by
  unfold State.scrLockWrite
  repeat' with_reducible first | assumption | apply State.wr_ev | apply ite_ev | apply ite_ev1

end Sys2Proof.Machine
end

