-- ==== Sys2Proof/Laws/Bist.lean ====
section
/-! SUPPORT. The operations of Machine/Bist.lean leave the queue of commands alone and keep the invariant. -/

namespace Sys2Proof.Machine


theorem State.bistShow_ev {s0 : State} {s : State} (hs0 : Ev s0 s) : Ev s0 (State.bistShow s) := by
  unfold State.bistShow
  repeat' with_reducible first | assumption | apply State.settleMode_ev | apply State.wrb_ev | dsimp only | intro _ _ _ | intro _ _ | refine Ev.lit rfl ?_

theorem State.setBist_ev {s0 : State} {s : State} (k : Nat) (r : Option BistRun) (hs0 : Ev s0 s) : Ev s0 (State.setBist s k r) := by
  unfold State.setBist
  repeat' with_reducible first | assumption | apply State.bistShow_ev | refine Ev.lit rfl ?_

theorem State.bistAccept_ev {s0 : State} {s : State} (k kind mem : Nat) (hs0 : Ev s0 s) : Ev s0 (State.bistAccept s k kind mem) := by
  unfold State.bistAccept
  repeat' with_reducible first | assumption | apply State.setBist_ev

theorem State.bistCmdWrite_ev {s0 : State} {s : State} (k : Nat) (w : Word) (hs0 : Ev s0 s) : Ev s0 (State.bistCmdWrite s k w).1 := by
  unfold State.bistCmdWrite
  repeat' with_reducible first | assumption | apply State.bistAccept_ev | apply State.setReg_ev | apply ite_ev | apply ite_ev1

theorem State.bistIrq_ev {s0 : State} {s : State} (hs0 : Ev s0 s) : Ev s0 (State.bistIrq s) := by
  unfold State.bistIrq
  repeat' with_reducible first | assumption | apply State.srcSet_ev

theorem State.takeSpare_ev {s0 : State} {s : State} (x : Spare) (hs0 : Ev s0 s) : Ev s0 (State.takeSpare s x).1 := by
  unfold State.takeSpare
  repeat' with_reducible first | assumption | apply ite_ev | apply ite_ev1 | apply ite_ev2 | apply ite_ev22 | apply ite_ev21 | refine Ev.lit rfl ?_

theorem State.repair_ev {s0 : State} {s : State} (kind mem : Nat) (l : List (Bool × Nat × Nat)) (hs0 : Ev s0 s) : Ev s0 (State.repair s kind mem l).1 := by
  unfold State.repair
  repeat' with_reducible first | assumption | apply State.takeSpare_ev | refine foldl_ev _ _ (fun _ _ _ => ?_) ?_ | refine foldl_ev1 _ _ (fun _ _ _ => ?_) ?_

theorem State.fuseStart_ev {s0 : State} {s : State} (kind mem : Nat) (hs0 : Ev s0 s) : Ev s0 (State.fuseStart s kind mem).1 := by
  unfold State.fuseStart
  repeat' with_reducible first | assumption | apply ite_ev | apply ite_ev1 | apply ite_ev2 | apply ite_ev22 | apply ite_ev21 | refine Ev.lit rfl ?_

theorem State.bistEnd_ev {s0 : State} {s : State} (k : Nat) (r : BistRun) (result addr bit fails us : Nat) (hs0 : Ev s0 s) : Ev s0 (State.bistEnd s k r result addr bit fails us) := by
  unfold State.bistEnd
  repeat' with_reducible first | assumption | apply State.bistIrq_ev | apply State.bump_ev | apply State.raiseAt_ev | apply State.setBist_ev | apply State.wr_ev | apply State.wrb_ev | refine foldl_ev _ _ (fun _ _ _ => ?_) ?_ | refine foldl_ev1 _ _ (fun _ _ _ => ?_) ?_ | refine foldl_ev2 _ _ (fun _ _ _ => ?_) ?_ | refine foldl_ev22 _ _ (fun _ _ _ => ?_) ?_ | refine foldl_ev21 _ _ (fun _ _ _ => ?_) ?_ | apply ite_ev | apply ite_ev1 | apply ite_ev2 | apply ite_ev22 | apply ite_ev21 | dsimp only | intro _ _ _ | intro _ _ | refine Ev.lit rfl ?_

theorem State.bistAbort_ev {s0 : State} {s : State} (hs0 : Ev s0 s) : Ev s0 (State.bistAbort s) := by
  unfold State.bistAbort
  repeat' with_reducible first | assumption | apply State.bistEnd_ev | refine foldl_ev _ _ (fun _ _ _ => ?_) ?_ | refine foldl_ev1 _ _ (fun _ _ _ => ?_) ?_ | refine foldl_ev2 _ _ (fun _ _ _ => ?_) ?_ | refine foldl_ev22 _ _ (fun _ _ _ => ?_) ?_ | refine foldl_ev21 _ _ (fun _ _ _ => ?_) ?_ | apply ite_ev | apply ite_ev1 | apply ite_ev2 | apply ite_ev22 | apply ite_ev21 | intro _ _ _ _ | intro _ _ _ | intro _ _ | split | refine Ev.lit rfl ?_

theorem restored_map_ok {t : Tab (Option BmW)} (k m : Nat) (e : Bool) (l : List Nat) (h : twf (fun _ => none) t = true) :
    twf (fun _ => none) (t.map fun p => match bistWord k m p.1 with
      | some w => (p.1, p.2.map (restored e (l.contains w)))
      | none => p) = true := by
  refine twf_map _ (fun p => ?_) (fun p n => ?_) h
  · split <;> rfl
  · split
    · simpa using n
    · exact n

theorem State.restoreMem_ok {s : State} (r : BistRun) (bad : List Nat) (h : s.memoryOk) : (s.restoreMem r bad).memoryOk := by
  unfold State.restoreMem
  dsimp only
  split
  · exact { h with bm := restored_map_ok _ _ _ _ h.bm }
  · split
    · exact { h with dm := restored_map_ok _ _ _ _ h.dm }
    · exact { h with scr := restored_map_ok _ _ _ _ h.scr }

theorem State.restoreMem_ev {s0 : State} {s : State} (r : BistRun) (bad : List Nat) (hs0 : Ev s0 s) : Ev s0 (State.restoreMem s r bad) := by
  refine Ev.mem (s := s) ?_ ?_ ?_ ?_ (State.restoreMem_ok r bad) hs0 <;>
  · unfold State.restoreMem
    dsimp only
    split
    · rfl
    · split <;> rfl

end Sys2Proof.Machine
end

