-- ==== Sys2Proof/Laws/Cellar.lean ====
section
/-! SUPPORT. The operations of Machine/Cellar.lean leave the queue of commands alone and keep the invariant. -/

namespace Sys2Proof.Machine


theorem State.setCelWord_ok {s : State} (k : Nat) (w : BitVec 64) (h : s.memoryOk) : (s.setCelWord k w).memoryOk :=
  { h with words := twf_put _ _ h.words }

theorem State.setCelWord_ev {s0 : State} {s : State} (k : Nat) (w : BitVec 64) (hs0 : Ev s0 s) : Ev s0 (State.setCelWord s k w) := by
  exact Ev.mem (s := s) rfl rfl rfl rfl (State.setCelWord_ok k w) hs0

theorem State.eraseSector_ok {s : State} (sec : Nat) (h : s.memoryOk) : (s.eraseSector sec).memoryOk :=
  { h with words := twf_tfilter (fun k _ => k / 8192 != sec) h.words }

theorem State.eraseSector_ev {s0 : State} {s : State} (sec : Nat) (hs0 : Ev s0 s) : Ev s0 (State.eraseSector s sec) := by
  exact Ev.mem (s := s) rfl rfl rfl rfl (State.eraseSector_ok sec) hs0

theorem State.celProgram_ev {s0 : State} {s : State} (off : Nat) (bs : List Byte) (hs0 : Ev s0 s) : Ev s0 (State.celProgram s off bs) := by
  unfold State.celProgram
  repeat' with_reducible first | assumption | apply State.setCelWord_ev | refine foldl_ev _ _ (fun _ _ _ => ?_) ?_

theorem State.setBank_ev {s0 : State} {s : State} (b : Nat) (x : CelBank) (hs0 : Ev s0 s) : Ev s0 (State.setBank s b x) := by
  unfold State.setBank
  repeat' with_reducible first | assumption | apply State.wrb_ev | apply ite_ev | apply ite_ev1 | apply ite_ev2 | apply ite_ev22 | apply ite_ev21 | dsimp only | intro _ _ _ _ | intro _ _ _ | intro _ _ | refine Ev.lit rfl ?_

theorem State.celIrq_ev {s0 : State} {s : State} (hs0 : Ev s0 s) : Ev s0 (State.celIrq s) := by
  unfold State.celIrq
  repeat' with_reducible first | assumption | apply State.srcSet_ev

theorem State.celDone_ev {s0 : State} {s : State} (b result : Nat) (hs0 : Ev s0 s) : Ev s0 (State.celDone s b result) := by
  unfold State.celDone
  repeat' with_reducible first | assumption | apply State.celIrq_ev | apply State.wr_ev | apply State.wrb_ev

theorem State.celShow_ev {s0 : State} {s : State} (hs0 : Ev s0 s) : Ev s0 (State.celShow s) := by
  unfold State.celShow
  repeat' with_reducible first | assumption | apply State.wr_ev | apply State.wrb_ev

theorem State.celRun_ev {s0 : State} {s : State} (o : CelOp) (hs0 : Ev s0 s) : Ev s0 (State.celRun s o) := by
  unfold State.celRun
  repeat' with_reducible first | assumption | apply State.fresh_ev | apply ite_ev | apply ite_ev1 | apply ite_ev2 | apply ite_ev22 | apply ite_ev21 | dsimp only | refine Ev.lit rfl ?_

theorem State.celStart_ev {s0 : State} {s : State} (o : CelOp) (hs0 : Ev s0 s) : Ev s0 (State.celStart s o).1 := by
  unfold State.celStart
  repeat' with_reducible first | assumption | apply State.celDone_ev | apply State.celRun_ev | apply State.setBank_ev | apply State.wr_ev | apply ite_ev | apply ite_ev1 | apply ite_ev2 | apply ite_ev22 | apply ite_ev21 | dsimp only | split

theorem State.celCmdWrite_ev {s0 : State} {s : State} (w : Word) (hs0 : Ev s0 s) : Ev s0 (State.celCmdWrite s w).1 := by
  unfold State.celCmdWrite
  repeat' with_reducible first | assumption | apply State.celStart_ev | apply State.wr_ev | apply ite_ev | apply ite_ev1 | apply ite_ev2 | apply ite_ev22 | apply ite_ev21 | dsimp only

theorem State.setLogSecs_ev {s0 : State} {s : State} (aud : Bool) (l : List Nat) (hs0 : Ev s0 s) : Ev s0 (State.setLogSecs s aud l) := by
  unfold State.setLogSecs
  repeat' with_reducible first | assumption | apply ite_ev | apply ite_ev1 | apply ite_ev2 | apply ite_ev22 | apply ite_ev21 | refine Ev.lit rfl ?_

theorem State.setLogPos_ev {s0 : State} {s : State} (aud : Bool) (n : Nat) (hs0 : Ev s0 s) : Ev s0 (State.setLogPos s aud n) := by
  unfold State.setLogPos
  repeat' with_reducible first | assumption | apply ite_ev | apply ite_ev1 | apply ite_ev2 | apply ite_ev22 | apply ite_ev21 | refine Ev.lit rfl ?_

theorem State.logDrop_ev {s0 : State} {s : State} (aud : Bool) (sev : Nat) (hs0 : Ev s0 s) : Ev s0 (State.logDrop s aud sev) := by
  unfold State.logDrop
  repeat' with_reducible first | assumption | apply State.bump_ev

theorem State.logErase_ev {s0 : State} {s : State} (aud : Bool) (sec : Nat) (kept : Nat → Bool) (hs0 : Ev s0 s) : Ev s0 (State.logErase s aud sec kept) := by
  unfold State.logErase
  repeat' with_reducible first | assumption | apply State.eraseSector_ev | apply State.kept_ev | apply State.logDrop_ev | apply State.setLogSecs_ev | refine foldl_ev _ _ (fun _ _ _ => ?_) ?_ | refine foldl_ev1 _ _ (fun _ _ _ => ?_) ?_ | refine foldl_ev2 _ _ (fun _ _ _ => ?_) ?_ | refine foldl_ev22 _ _ (fun _ _ _ => ?_) ?_ | refine foldl_ev21 _ _ (fun _ _ _ => ?_) ?_ | apply ite_ev

theorem State.logOpen_ev {s0 : State} {s : State} (aud : Bool) (hs0 : Ev s0 s) : Ev s0 (State.logOpen s aud) := by
  unfold State.logOpen
  repeat' with_reducible first | assumption | apply State.setCelWord_ev | apply State.setLogPos_ev | apply State.setLogSecs_ev | apply ite_ev | apply ite_ev1 | apply ite_ev2 | apply ite_ev22 | apply ite_ev21 | dsimp only | intro _ _ _ _ | intro _ _ _ | intro _ _ | split | refine Ev.lit rfl ?_

theorem State.logPut_ev {s0 : State} {s : State} (aud : Bool) (bs : List Byte) (hs0 : Ev s0 s) : Ev s0 (State.logPut s aud bs) := by
  unfold State.logPut
  repeat' with_reducible first | assumption | apply State.celProgram_ev | apply State.setLogPos_ev | dsimp only | split

theorem State.logReclaim_ev {s0 : State} {s : State} (aud : Bool) (hs0 : Ev s0 s) : Ev s0 (State.logReclaim s aud) := by
  unfold State.logReclaim
  repeat' with_reducible first | assumption | apply State.logErase_ev | apply State.logPut_ev | refine foldl_ev _ _ (fun _ _ _ => ?_) ?_ | refine foldl_ev1 _ _ (fun _ _ _ => ?_) ?_ | refine foldl_ev2 _ _ (fun _ _ _ => ?_) ?_ | refine foldl_ev22 _ _ (fun _ _ _ => ?_) ?_ | refine foldl_ev21 _ _ (fun _ _ _ => ?_) ?_ | apply ite_ev | apply ite_ev1 | apply ite_ev2 | apply ite_ev22 | apply ite_ev21 | dsimp only | intro _ _ _ _ | intro _ _ _ | intro _ _ | split

theorem State.logRoom_ev {s0 : State} {s : State} (aud : Bool) (hs0 : Ev s0 s) : Ev s0 (State.logRoom s aud) := by
  unfold State.logRoom
  repeat' with_reducible first | assumption | apply State.logOpen_ev | apply State.logReclaim_ev | apply ite_ev

theorem State.logRetire_ev {s0 : State} {s : State} (hs0 : Ev s0 s) : Ev s0 (State.logRetire s) := by
  unfold State.logRetire
  repeat' with_reducible first | assumption | apply State.logDrop_ev | apply State.setCelWord_ev | apply ite_ev | apply ite_ev1 | apply ite_ev2 | apply ite_ev22 | apply ite_ev21 | dsimp only | intro _ _ _ _ | intro _ _ _ | intro _ _ | split

theorem State.logBad_ev {s0 : State} {s : State} (aud : Bool) (sec : Nat) (hs0 : Ev s0 s) : Ev s0 (State.logBad s aud sec) := by
  unfold State.logBad
  repeat' with_reducible first | assumption | apply State.celShow_ev | apply State.logOpen_ev | apply State.logPut_ev | apply State.raiseDev_ev | apply State.setLogPos_ev | apply State.wr_ev | refine foldl_ev _ _ (fun _ _ _ => ?_) ?_ | refine foldl_ev1 _ _ (fun _ _ _ => ?_) ?_ | refine foldl_ev2 _ _ (fun _ _ _ => ?_) ?_ | refine foldl_ev22 _ _ (fun _ _ _ => ?_) ?_ | refine foldl_ev21 _ _ (fun _ _ _ => ?_) ?_ | apply ite_ev | apply ite_ev1 | apply ite_ev2 | apply ite_ev22 | apply ite_ev21 | dsimp only | intro _ _ _ _ | intro _ _ _ | intro _ _ | refine Ev.lit rfl ?_

theorem State.logFlushOne_ev {s0 : State} {s : State} (aud fails : Bool) (hs0 : Ev s0 s) : Ev s0 (State.logFlushOne s aud fails) := by
  unfold State.logFlushOne
  repeat' with_reducible first | assumption | apply State.logBad_ev | apply State.logPut_ev | apply State.logRetire_ev | apply State.logRoom_ev | apply ite_ev | apply ite_ev1 | apply ite_ev2 | apply ite_ev22 | apply ite_ev21 | dsimp only | split | refine Ev.lit rfl ?_

theorem State.celOpDone_ev {s0 : State} {s : State} (j : CelJob) (result : Nat) (hs0 : Ev s0 s) : Ev s0 (State.celOpDone s j result) := by
  unfold State.celOpDone
  repeat' with_reducible first | assumption | apply State.raiseDev_ev | refine Ev.lit rfl ?_

theorem State.celNext_ev {s0 : State} (x0 : Nat) {s : State} (x2 : Nat) (hs0 : Ev s0 s) : Ev s0 (State.celNext x0 s x2) := by
  induction x0 generalizing s x2 with
  | zero =>
    unfold State.celNext
    repeat' with_reducible first | assumption | apply State.celOpDone_ev | apply State.celStart_ev | apply ite_ev | apply ite_ev1 | apply ite_ev2 | apply ite_ev22 | apply ite_ev21 | dsimp only | split | refine Ev.lit rfl ?_
  | succ x0 ih =>
    unfold State.celNext
    repeat' with_reducible first | assumption | apply ih | apply State.celOpDone_ev | apply State.celStart_ev | apply ite_ev | apply ite_ev1 | apply ite_ev2 | apply ite_ev22 | apply ite_ev21 | dsimp only | split | refine Ev.lit rfl ?_

theorem State.commandDone_ev {s0 : State} {s : State} (b : Nat) (ok : Bool) (hs0 : Ev s0 s) : Ev s0 (State.commandDone s b ok).1 := by
  unfold State.commandDone
  repeat' with_reducible first | assumption | apply State.bump_ev | apply State.celDone_ev | apply State.celNext_ev | apply State.celShow_ev | apply State.eraseSector_ev | apply State.logBad_ev | apply State.raiseDev_ev | apply State.setBank_ev | apply State.setCelWord_ev | apply ite_ev | apply ite_ev1 | apply ite_ev2 | apply ite_ev22 | apply ite_ev21 | dsimp only | intro _ _ _ _ | intro _ _ _ | intro _ _ | split | refine Ev.lit rfl ?_

theorem State.celSuspends_ev {s0 : State} {s : State} (b : Nat) (hs0 : Ev s0 s) : Ev s0 (State.celSuspends s b) := by
  unfold State.celSuspends
  repeat' with_reducible first | assumption | apply State.bump_ev | apply ite_ev | apply ite_ev1 | apply ite_ev2 | apply ite_ev22 | apply ite_ev21

theorem State.celAnswer_ev {s0 : State} {s : State} (m : Moving) (hs0 : Ev s0 s) : Ev s0 (State.celAnswer s m) := by
  unfold State.celAnswer
  repeat' with_reducible first | assumption | apply State.respond_ev | apply ite_ev

theorem State.celAbandon_ev {s0 : State} {s : State} (hs0 : Ev s0 s) : Ev s0 (State.celAbandon s) := by
  unfold State.celAbandon
  repeat' with_reducible first | assumption | apply State.setBank_ev | refine foldl_ev _ _ (fun _ _ _ => ?_) ?_ | refine foldl_ev1 _ _ (fun _ _ _ => ?_) ?_ | refine foldl_ev2 _ _ (fun _ _ _ => ?_) ?_ | refine foldl_ev22 _ _ (fun _ _ _ => ?_) ?_ | refine foldl_ev21 _ _ (fun _ _ _ => ?_) ?_ | dsimp only | intro _ _ _ _ | intro _ _ _ | intro _ _ | refine Ev.lit rfl ?_

end Sys2Proof.Machine
end

