-- ==== Sys2Proof/Laws/Fen.lean ====
section
/-! SUPPORT. The operations of Machine/Fen.lean leave the queue of commands alone and keep the invariant. -/

namespace Sys2Proof.Machine


theorem State.qStop_ev {s0 : State} {s : State} (q err : Nat) (hs0 : Ev s0 s) : Ev s0 (State.qStop s q err) := by
  unfold State.qStop
  repeat' with_reducible first | assumption | apply State.fenFlag_ev | apply State.raiseVat_ev | apply State.wr_ev

theorem State.setHeld_ev {s0 : State} {s : State} (q : Nat) (l : List HeldF) (hs0 : Ev s0 s) : Ev s0 (State.setHeld s q l) := by
  unfold State.setHeld
  repeat' with_reducible first | assumption | refine Ev.lit rfl ?_

theorem State.flowControl_ev {s0 : State} {s : State} (m : Nat) (bs : List Byte) (op : Nat) (hs0 : Ev s0 s) : Ev s0 (State.flowControl s m bs op) := by
  unfold State.flowControl
  repeat' with_reducible first | assumption | apply State.bump_ev | apply State.setFport_ev | refine foldl_ev _ _ (fun _ _ _ => ?_) ?_ | refine foldl_ev1 _ _ (fun _ _ _ => ?_) ?_ | refine foldl_ev2 _ _ (fun _ _ _ => ?_) ?_ | refine foldl_ev22 _ _ (fun _ _ _ => ?_) ?_ | refine foldl_ev21 _ _ (fun _ _ _ => ?_) ?_ | apply ite_ev

theorem State.rxStream_ev {s0 : State} {s : State} (m : Nat) (bs : List Byte) (err taken : Bool) (ts : Nat) (hs0 : Ev s0 s) : Ev s0 (State.rxStream s m bs err taken ts) := by
  unfold State.rxStream
  repeat' with_reducible first | assumption | apply State.fenDrop_ev | apply State.setFport_ev | apply ite_ev | apply ite_ev1 | apply ite_ev2 | apply ite_ev22 | apply ite_ev21 | refine Ev.lit rfl ?_

theorem State.sendFrame_ev {s0 : State} {s : State} (m : Nat) (f : TxF) (phase : Nat) (hs0 : Ev s0 s) : Ev s0 (State.sendFrame s m f phase) := by
  unfold State.sendFrame
  repeat' with_reducible first | assumption | apply State.bump_ev | apply State.fenDrop_ev | apply State.fresh_ev | apply State.setFport_ev | apply State.tsqPush_ev | apply ite_ev | apply ite_ev1 | apply ite_ev2 | apply ite_ev22 | apply ite_ev21 | dsimp only | split

theorem State.fcTxWrite_ev {s0 : State} {s : State} (m : Nat) (w : Word) (hs0 : Ev s0 s) : Ev s0 (State.fcTxWrite s m w).1 := by
  unfold State.fcTxWrite
  repeat' with_reducible first | assumption | apply State.bump_ev | apply State.fresh_ev | apply State.setFport_ev | apply State.setReg_ev | apply ite_ev | apply ite_ev1

theorem State.portCtlWrite_ev {s0 : State} {s : State} (m : Nat) (w : Word) (hs0 : Ev s0 s) : Ev s0 (State.portCtlWrite s m w).1 := by
  unfold State.portCtlWrite
  repeat' with_reducible first | assumption | apply State.linkFalls_ev | apply State.setReg_ev | apply State.storeDrop_ev | apply State.wrb_ev | apply ite_ev | apply ite_ev1 | apply ite_ev2 | apply ite_ev22 | apply ite_ev21 | dsimp only

theorem State.txCfgWrite_ev {s0 : State} {s : State} (m : Nat) (w : Word) (hs0 : Ev s0 s) : Ev s0 (State.txCfgWrite s m w).1 := by
  unfold State.txCfgWrite
  repeat' with_reducible first | assumption | apply State.setReg_ev | apply ite_ev | apply ite_ev1

theorem State.qEmpty_ev {s0 : State} {s : State} (q : Nat) (hs0 : Ev s0 s) : Ev s0 (State.qEmpty s q) := by
  unfold State.qEmpty
  repeat' with_reducible first | assumption | apply State.bump_ev | apply State.fenFlag_ev | apply State.setFport_ev | apply State.setHeld_ev | apply ite_ev | apply ite_ev1 | apply ite_ev2 | apply ite_ev22 | apply ite_ev21 | dsimp only | intro _ _ _ _ | intro _ _ _ | intro _ _ | refine Ev.lit rfl ?_

theorem State.qCfgWrite_ev {s0 : State} {s : State} (q : Nat) (w : Word) (hs0 : Ev s0 s) : Ev s0 (State.qCfgWrite s q w).1 := by
  unfold State.qCfgWrite
  repeat' with_reducible first | assumption | apply State.qEmpty_ev | apply State.setReg_ev | apply State.wr_ev | apply ite_ev | apply ite_ev1

theorem State.pidxWrite_ev {s0 : State} {s : State} (q : Nat) (w : Word) (hs0 : Ev s0 s) : Ev s0 (State.pidxWrite s q w).1 := by
  unfold State.pidxWrite
  repeat' with_reducible first | assumption | apply State.qStop_ev | apply State.wr_ev | apply ite_ev | apply ite_ev1

theorem State.ovfWrite_ev {s0 : State} {s : State} (off : Nat) (mask w : Word) (hs0 : Ev s0 s) : Ev s0 (State.ovfWrite s off mask w).1 := by
  unfold State.ovfWrite
  repeat' with_reducible first | assumption | apply State.setReg_ev | apply ite_ev | apply ite_ev1

theorem State.qResumeWrite_ev {s0 : State} {s : State} (w : Word) (hs0 : Ev s0 s) : Ev s0 (State.qResumeWrite s w).1 := by
  unfold State.qResumeWrite
  repeat' with_reducible first | assumption | intro _ _ _ | intro _ _ | refine Ev.lit rfl ?_

end Sys2Proof.Machine
end

