-- ==== Sys2Proof/Laws/Procs.lean ====
section
/-! SUPPORT. The operations of Machine/Procs.lean leave the queue of commands alone and keep the invariant. -/

namespace Sys2Proof.Machine


theorem State.coreReset_ev {s0 : State} {s : State} (k : Nat) (hs0 : Ev s0 s) : Ev s0 (State.coreReset s k) := by
  unfold State.coreReset
  repeat' with_reducible first | assumption | apply State.completeAll_ev | apply State.reoffer_ev | apply State.setProc_ev | apply State.srcSet_ev | apply State.wrb_ev | dsimp only | intro _ _ _ | intro _ _ | refine Ev.lit rfl ?_

theorem State.coreCtlWrite_ev {s0 : State} {s : State} (k : Nat) (w : Word) (hs0 : Ev s0 s) : Ev s0 (State.coreCtlWrite s k w) := by
  unfold State.coreCtlWrite
  repeat' with_reducible first | assumption | apply State.coreReset_ev | apply State.wrb_ev | apply ite_ev

theorem State.loadFault_ev {s0 : State} {s : State} (c : Nat) (x : CpuLoad) (info : Nat) (hs0 : Ev s0 s) : Ev s0 (State.loadFault s c x info) := by
  unfold State.loadFault
  repeat' with_reducible first | assumption | apply State.cpuRan_ev | apply State.setProc_ev | apply ite_ev | apply ite_ev1 | apply ite_ev2 | apply ite_ev22 | apply ite_ev21 | dsimp only

theorem State.loadAnswered_ev {s0 : State} {s : State} (i : Nat) (st : Status) (x0 : Option CpuLoad) (hs0 : Ev s0 s) : Ev s0 (State.loadAnswered s i st x0) := by
  unfold State.loadAnswered
  repeat' with_reducible first | assumption | apply State.loadFault_ev | apply ite_ev | apply ite_ev1 | apply ite_ev2 | apply ite_ev22 | apply ite_ev21 | split

theorem State.srcCfgWrite_ev {s0 : State} {s : State} (full : Bool) (i : Nat) (w : Word) (hs0 : Ev s0 s) : Ev s0 (State.srcCfgWrite s full i w).1 := by
  unfold State.srcCfgWrite
  repeat' with_reducible first | assumption | apply State.reoffer_ev | apply State.setReg_ev | apply ite_ev | apply ite_ev1

theorem State.pendWrite_ev {s0 : State} {s : State} (wd : Nat) (w : Word) (hs0 : Ev s0 s) : Ev s0 (State.pendWrite s wd w) := by
  unfold State.pendWrite
  repeat' with_reducible first | assumption | apply State.reoffer_ev | apply State.setLatch_ev | apply State.setOffer_ev | refine foldl_ev _ _ (fun _ _ _ => ?_) ?_ | refine foldl_ev1 _ _ (fun _ _ _ => ?_) ?_ | refine foldl_ev2 _ _ (fun _ _ _ => ?_) ?_ | refine foldl_ev22 _ _ (fun _ _ _ => ?_) ?_ | refine foldl_ev21 _ _ (fun _ _ _ => ?_) ?_ | apply ite_ev

theorem State.swiWrite_ev {s0 : State} {s : State} (w : Word) (hs0 : Ev s0 s) : Ev s0 (State.swiWrite s w).1 := by
  unfold State.swiWrite
  repeat' with_reducible first | assumption | apply State.reoffer_ev | apply State.setLatch_ev | apply ite_ev | apply ite_ev1

theorem State.wakeLatWrite_ev {s0 : State} {s : State} (wd : Nat) (w : Word) (hs0 : Ev s0 s) : Ev s0 (State.wakeLatWrite s wd w) := by
  unfold State.wakeLatWrite
  repeat' with_reducible first | assumption | apply State.reoffer_ev | apply State.setLatch_ev | apply State.setOffer_ev | refine foldl_ev _ _ (fun _ _ _ => ?_) ?_ | refine foldl_ev1 _ _ (fun _ _ _ => ?_) ?_ | refine foldl_ev2 _ _ (fun _ _ _ => ?_) ?_ | refine foldl_ev22 _ _ (fun _ _ _ => ?_) ?_ | refine foldl_ev21 _ _ (fun _ _ _ => ?_) ?_ | apply ite_ev

theorem State.claimRead_ev {s0 : State} {s : State} (c : Nat) (hs0 : Ev s0 s) : Ev s0 (State.claimRead s c).2 := by
  unfold State.claimRead
  repeat' with_reducible first | assumption | apply State.claim_ev | split

theorem State.vclaimRead_ev {s0 : State} {s : State} (v : Nat) (hs0 : Ev s0 s) : Ev s0 (State.vclaimRead s v).2 := by
  unfold State.vclaimRead
  repeat' with_reducible first | assumption | apply State.setClaim_ev | apply State.setLatch_ev | dsimp only | split | refine Ev.lit rfl ?_

theorem State.vcompleteWrite_ev {s0 : State} {s : State} (v : Nat) (w : Word) (hs0 : Ev s0 s) : Ev s0 (State.vcompleteWrite s v w) := by
  unfold State.vcompleteWrite
  repeat' with_reducible first | assumption | apply State.setClaim_ev | apply ite_ev | apply ite_ev1 | apply ite_ev2 | apply ite_ev22 | apply ite_ev21 | dsimp only | refine Ev.lit rfl ?_

theorem State.mtip_ev {s0 : State} {s : State} (k : Nat) (hs0 : Ev s0 s) : Ev s0 (State.mtip s k) := by
  unfold State.mtip
  repeat' with_reducible first | assumption | apply State.setProc_ev | apply State.wrb_ev | apply ite_ev

theorem State.setDmaCh_ev {s0 : State} {s : State} (c : Nat) (x : DmaCh) (hs0 : Ev s0 s) : Ev s0 (State.setDmaCh s c x) := by
  unfold State.setDmaCh
  repeat' with_reducible first | assumption | refine Ev.lit rfl ?_

theorem State.dmaIrq_ev {s0 : State} {s : State} (c : Nat) (hs0 : Ev s0 s) : Ev s0 (State.dmaIrq s c) := by
  unfold State.dmaIrq
  repeat' with_reducible first | assumption | apply State.srcSet_ev

theorem State.dmaStopped_ev {s0 : State} {s : State} (c err : Nat) (hs0 : Ev s0 s) : Ev s0 (State.dmaStopped s c err) := by
  unfold State.dmaStopped
  repeat' with_reducible first | assumption | apply State.dmaIrq_ev | apply State.wr_ev | apply State.wrb_ev

theorem State.dmaAbort_ev {s0 : State} {s : State} (c : Nat) (hs0 : Ev s0 s) : Ev s0 (State.dmaAbort s c) := by
  unfold State.dmaAbort
  repeat' with_reducible first | assumption | apply State.dmaStopped_ev | apply State.setDmaCh_ev | apply ite_ev

theorem State.dmaClamp_ev {s0 : State} {s : State} (v : Nat) (hs0 : Ev s0 s) : Ev s0 (State.dmaClamp s v) := by
  unfold State.dmaClamp
  repeat' with_reducible first | assumption | apply State.dmaAbort_ev | refine foldl_ev _ _ (fun _ _ _ => ?_) ?_ | refine foldl_ev1 _ _ (fun _ _ _ => ?_) ?_ | refine foldl_ev2 _ _ (fun _ _ _ => ?_) ?_ | refine foldl_ev22 _ _ (fun _ _ _ => ?_) ?_ | refine foldl_ev21 _ _ (fun _ _ _ => ?_) ?_ | apply ite_ev

theorem State.dmaCtlWrite_ev {s0 : State} {s : State} (own : Bool) (c : Nat) (w : Word) (hs0 : Ev s0 s) : Ev s0 (State.dmaCtlWrite s own c w).1 := by
  unfold State.dmaCtlWrite
  repeat' with_reducible first | assumption | apply State.dmaAbort_ev | apply State.setDmaCh_ev | apply State.wr_ev | apply ite_ev | apply ite_ev1

theorem State.setSvcPort_ev {s0 : State} {s : State} (k : Nat) (p : SvcPort) (hs0 : Ev s0 s) : Ev s0 (State.setSvcPort s k p) := by
  unfold State.setSvcPort
  repeat' with_reducible first | assumption | refine Ev.lit rfl ?_

theorem State.svcIrq_ev {s0 : State} {s : State} (k : Nat) (hs0 : Ev s0 s) : Ev s0 (State.svcIrq s k) := by
  unfold State.svcIrq
  repeat' with_reducible first | assumption | apply State.srcSet_ev

theorem State.svcFlag_ev {s0 : State} {s : State} (k bit : Nat) (hs0 : Ev s0 s) : Ev s0 (State.svcFlag s k bit) := by
  unfold State.svcFlag
  repeat' with_reducible first | assumption | apply State.svcIrq_ev | apply State.wrm_ev

theorem State.txPush_ev {s0 : State} {s : State} (k : Nat) (w : BitVec 16) (hs0 : Ev s0 s) : Ev s0 (State.txPush s k w).1 := by
  unfold State.txPush
  repeat' with_reducible first | assumption | apply State.setSvcPort_ev | apply ite_ev | apply ite_ev1

theorem State.rxPop_ev {s0 : State} {s : State} (k : Nat) (hs0 : Ev s0 s) : Ev s0 (State.rxPop s k).2 := by
  unfold State.rxPop
  repeat' with_reducible first | assumption | apply State.setSvcPort_ev | split

theorem State.svcCfgWrite_ev {s0 : State} {s : State} (k : Nat) (w : Word) (hs0 : Ev s0 s) : Ev s0 (State.svcCfgWrite s k w).1 := by
  unfold State.svcCfgWrite
  repeat' with_reducible first | assumption | apply State.setReg_ev | apply ite_ev | apply ite_ev1

end Sys2Proof.Machine
end

