-- ==== Sys2Proof/Laws/Vats.lean ====
section
/-! SUPPORT. The operations of Machine/Vats.lean leave the queue of commands alone and keep the invariant. -/

namespace Sys2Proof.Machine


theorem State.dropSources_ev {s0 : State} {s : State} (v : Nat) (hs0 : Ev s0 s) : Ev s0 (State.dropSources s v) := by
  unfold State.dropSources
  repeat' with_reducible first | assumption | apply State.bump_ev | apply State.setClaim_ev | apply State.setLatch_ev | apply State.setLevel_ev | apply State.setOffer_ev | refine foldl_ev _ _ (fun _ _ _ => ?_) ?_ | refine foldl_ev1 _ _ (fun _ _ _ => ?_) ?_ | refine foldl_ev2 _ _ (fun _ _ _ => ?_) ?_ | refine foldl_ev22 _ _ (fun _ _ _ => ?_) ?_ | refine foldl_ev21 _ _ (fun _ _ _ => ?_) ?_ | apply ite_ev | apply ite_ev1 | apply ite_ev2 | apply ite_ev22 | apply ite_ev21 | dsimp only | intro _ _ _ | intro _ _ | refine Ev.lit rfl ?_

theorem State.clampTime_ev {s0 : State} {s : State} (v b : Nat) (hs0 : Ev s0 s) : Ev s0 (State.clampTime s v b) := by
  unfold State.clampTime
  repeat' with_reducible first | assumption | apply State.wr_ev

theorem State.initAbort_ev {s0 : State} {s : State} (v : Nat) (hs0 : Ev s0 s) : Ev s0 (State.initAbort s v) := by
  unfold State.initAbort
  repeat' with_reducible first | assumption | apply State.wrb_ev | apply ite_ev | apply ite_ev1 | apply ite_ev2 | apply ite_ev22 | apply ite_ev21 | split | refine Ev.lit rfl ?_

theorem State.modEnds_ev {s0 : State} {s : State} (m : ModLoad) (hs0 : Ev s0 s) : Ev s0 (State.modEnds s m) := by
  unfold State.modEnds
  repeat' with_reducible first | assumption | apply State.raiseVat_ev | apply State.srcPulse_ev | apply State.wr_ev | apply ite_ev

theorem State.setMod_ev {s0 : State} {s : State} (v : Nat) (f : ModLoad → Option ModLoad) (hs0 : Ev s0 s) : Ev s0 (State.setMod s v f) := by
  unfold State.setMod
  repeat' with_reducible first | assumption | apply ite_ev | apply ite_ev1 | apply ite_ev2 | apply ite_ev22 | apply ite_ev21 | intro _ _ _ | intro _ _ | refine Ev.lit rfl ?_

theorem State.modFail_ev {s0 : State} {s : State} (v result reason : Nat) (hs0 : Ev s0 s) : Ev s0 (State.modFail s v result reason) := by
  unfold State.modFail
  repeat' with_reducible first | assumption | apply State.modEnds_ev | apply State.setMod_ev | apply State.showSwaps_ev | apply State.wrb_ev | apply ite_ev | apply ite_ev1 | apply ite_ev2 | apply ite_ev22 | apply ite_ev21 | dsimp only | intro _ _ _ | intro _ _ | split | refine Ev.lit rfl ?_

theorem State.assertVat_ev {s0 : State} {s : State} (v b : Nat) (hs0 : Ev s0 s) : Ev s0 (State.assertVat s v b) := by
  unfold State.assertVat
  repeat' with_reducible first | assumption | apply State.clampPins_ev | apply State.clampTime_ev | apply State.dmaClamp_ev | apply State.dropSources_ev | apply State.holdMems_ev | apply State.holdSlices_ev | apply State.holdSyncs_ev | apply State.holdTiles_ev | apply State.initAbort_ev | apply State.modFail_ev | apply State.orphanVat_ev | apply State.takeSnap_ev | apply State.wrb_ev | apply ite_ev | apply ite_ev1 | apply ite_ev2 | apply ite_ev22 | apply ite_ev21 | dsimp only | intro _ _ _ _ | intro _ _ _ | intro _ _

theorem State.clearVatMems_ev {s0 : State} {s : State} (v : Nat) (hs0 : Ev s0 s) : Ev s0 (State.clearVatMems s v) := by
  unfold State.clearVatMems
  repeat' with_reducible first | assumption | apply State.clearMems_ev | apply State.clearOpm_ev

theorem State.bootUpdate_ev {s0 : State} {s : State} (f : List Byte → List Byte) (hs0 : Ev s0 s) : Ev s0 (State.bootUpdate s f) := by
  unfold State.bootUpdate
  repeat' with_reducible first | assumption | apply State.celProgram_ev | apply State.eraseSector_ev | dsimp only | intro _ _ _ | intro _ _ | split

theorem State.wantInit_ev {s0 : State} {s : State} (v : Nat) (hs0 : Ev s0 s) : Ev s0 (State.wantInit s v) := by
  unfold State.wantInit
  repeat' with_reducible first | assumption | apply State.wrb_ev | apply ite_ev | apply ite_ev1 | apply ite_ev2 | apply ite_ev22 | apply ite_ev21 | dsimp only | refine Ev.lit rfl ?_

theorem State.vatResetEvent_ev {s0 : State} {s : State} (v : Nat) (hs0 : Ev s0 s) : Ev s0 (State.vatResetEvent s v) := by
  unfold State.vatResetEvent
  repeat' with_reducible first | assumption | apply State.raiseVat_ev

theorem State.assertReset_ev {s0 : State} {s : State} (v : Nat) (clear : Bool) (hs0 : Ev s0 s) : Ev s0 (State.assertReset s v clear) := by
  unfold State.assertReset
  repeat' with_reducible first | assumption | apply State.assertVat_ev | apply State.bump_ev | apply State.clearVatMems_ev | apply State.vatResetEvent_ev | apply State.wrb_ev | apply ite_ev | apply ite_ev1 | apply ite_ev2 | apply ite_ev22 | apply ite_ev21 | dsimp only | refine Ev.lit rfl ?_

theorem State.setRstReq_ev {s0 : State} {s : State} (v n : Nat) (hs0 : Ev s0 s) : Ev s0 (State.setRstReq s v n) := by
  unfold State.setRstReq
  repeat' with_reducible first | assumption | refine Ev.lit rfl ?_

theorem State.setHold_ev {s0 : State} {s : State} (v n : Nat) (hs0 : Ev s0 s) : Ev s0 (State.setHold s v n) := by
  unfold State.setHold
  repeat' with_reducible first | assumption | refine Ev.lit rfl ?_

theorem State.reloadFrame_ev {s0 : State} {s : State} (v n : Nat) (hs0 : Ev s0 s) : Ev s0 (State.reloadFrame s v n) := by
  unfold State.reloadFrame
  repeat' with_reducible first | assumption | apply State.bump_ev | apply State.loadLive_ev | apply State.setPerr_ev | dsimp only | split | refine Ev.lit rfl ?_

theorem State.closeGates_ev {s0 : State} {s : State} (secs : List Nat) (hs0 : Ev s0 s) : Ev s0 (State.closeGates s secs) := by
  unfold State.closeGates
  repeat' with_reducible first | assumption | apply State.wrm_ev | refine foldl_ev _ _ (fun _ _ _ => ?_) ?_

theorem State.openGates_ev {s0 : State} {s : State} (secs : List Nat) (hs0 : Ev s0 s) : Ev s0 (State.openGates s secs) := by
  unfold State.openGates
  repeat' with_reducible first | assumption | apply State.wrm_ev | refine foldl_ev _ _ (fun _ _ _ => ?_) ?_ | refine foldl_ev1 _ _ (fun _ _ _ => ?_) ?_ | refine foldl_ev2 _ _ (fun _ _ _ => ?_) ?_ | refine foldl_ev22 _ _ (fun _ _ _ => ?_) ?_ | refine foldl_ev21 _ _ (fun _ _ _ => ?_) ?_ | intro _ _ _ _ | intro _ _ _ | intro _ _

theorem State.setGating_ev {s0 : State} {s : State} (v n : Nat) (hs0 : Ev s0 s) : Ev s0 (State.setGating s v n) := by
  unfold State.setGating
  repeat' with_reducible first | assumption | refine Ev.lit rfl ?_

theorem State.gateStart_ev {s0 : State} {s : State} (v : Nat) (hs0 : Ev s0 s) : Ev s0 (State.gateStart s v) := by
  unfold State.gateStart
  repeat' with_reducible first | assumption | apply State.assertReset_ev | apply State.closeGates_ev | apply State.dropRepairs_ev | apply State.setGating_ev | apply State.wrb_ev | dsimp only | intro _ _ _ _ | intro _ _ _ | intro _ _ | refine Ev.lit rfl ?_

theorem State.ungateStart_ev {s0 : State} {s : State} (v : Nat) (hs0 : Ev s0 s) : Ev s0 (State.ungateStart s v) := by
  unfold State.ungateStart
  repeat' with_reducible first | assumption | apply State.setGating_ev | dsimp only | refine Ev.lit rfl ?_

theorem State.vatCtrlWrite_ev {s0 : State} {s : State} (v : Nat) (w : Word) (hs0 : Ev s0 s) : Ev s0 (State.vatCtrlWrite s v w).1 := by
  unfold State.vatCtrlWrite
  repeat' with_reducible first | assumption | apply State.gateStart_ev | apply State.setReg_ev | apply State.setRstReq_ev | apply State.ungateStart_ev | apply ite_ev | apply ite_ev1

theorem State.assignWrite_ev {s0 : State} {s : State} (v k : Nat) (w : Word) (hs0 : Ev s0 s) : Ev s0 (State.assignWrite s v k w).1 := by
  unfold State.assignWrite
  repeat' with_reducible first | assumption | apply State.setReg_ev | apply ite_ev | apply ite_ev1

theorem State.mregWrite_ev {s0 : State} {s : State} (v k : Nat) (w : Word) (hs0 : Ev s0 s) : Ev s0 (State.mregWrite s v k w).1 := by
  unfold State.mregWrite
  repeat' with_reducible first | assumption | apply State.setReg_ev | apply State.wr_ev | apply ite_ev | apply ite_ev1

end Sys2Proof.Machine
end

