-- ==== Sys2Proof/Laws/Loads.lean ====
section
/-! SUPPORT. The operations of Machine/Loads.lean leave the queue of commands alone and keep the invariant. -/

namespace Sys2Proof.Machine


theorem State.closeWindow_ev {s0 : State} {s : State} (v : Nat) (hs0 : Ev s0 s) : Ev s0 (State.closeWindow s v) := by
  unfold State.closeWindow
  repeat' with_reducible first | assumption | apply State.wr_ev | refine Ev.lit rfl ?_

theorem State.openWindow_ev {s0 : State} {s : State} (v ms : Nat) (hs0 : Ev s0 s) : Ev s0 (State.openWindow s v ms) := by
  unfold State.openWindow
  repeat' with_reducible first | assumption | apply State.wr_ev | refine Ev.lit rfl ?_

theorem State.setExpiring_ev {s0 : State} {s : State} (v : Nat) (p : Option Bool) (hs0 : Ev s0 s) : Ev s0 (State.setExpiring s v p) := by
  unfold State.setExpiring
  repeat' with_reducible first | assumption | refine Ev.lit rfl ?_

theorem State.setLoad_ev {s0 : State} {s : State} (v : Nat) (op : Option LoadOp) (hs0 : Ev s0 s) : Ev s0 (State.setLoad s v op) := by
  unfold State.setLoad
  repeat' with_reducible first | assumption | refine Ev.lit rfl ?_

theorem State.churnStop_ev {s0 : State} {s : State} (hs0 : Ev s0 s) : Ev s0 (State.churnStop s) := by
  unfold State.churnStop
  repeat' with_reducible first | assumption | apply State.wrb_ev | refine Ev.lit rfl ?_

theorem State.churnStart_ev {s0 : State} {s : State} (hs0 : Ev s0 s) : Ev s0 (State.churnStart s) := by
  unfold State.churnStart
  repeat' with_reducible first | assumption | apply State.wrb_ev | apply ite_ev | apply ite_ev1 | apply ite_ev2 | apply ite_ev22 | apply ite_ev21 | refine Ev.lit rfl ?_

theorem State.enterFallback_ev {s0 : State} {s : State} (hs0 : Ev s0 s) : Ev s0 (State.enterFallback s) := by
  unfold State.enterFallback
  repeat' with_reducible first | assumption | apply State.assertVat_ev | apply State.bistAbort_ev | apply State.churnStop_ev | apply State.closeWindow_ev | apply State.enterMode_ev | apply State.setErrN_ev | apply State.setExpiring_ev | apply State.showSwaps_ev | apply State.wrb_ev | refine foldl_ev _ _ (fun _ _ _ => ?_) ?_ | refine foldl_ev1 _ _ (fun _ _ _ => ?_) ?_ | refine foldl_ev2 _ _ (fun _ _ _ => ?_) ?_ | refine foldl_ev22 _ _ (fun _ _ _ => ?_) ?_ | refine foldl_ev21 _ _ (fun _ _ _ => ?_) ?_ | apply ite_ev | apply ite_ev1 | apply ite_ev2 | apply ite_ev22 | apply ite_ev21 | dsimp only | intro _ _ _ _ | intro _ _ _ | intro _ _ | refine Ev.lit rfl ?_

theorem State.beginSwap_ev {s0 : State} {s : State} (op : LoadOp) (v b : Nat) (hs0 : Ev s0 s) : Ev s0 (State.beginSwap s op v b) := by
  unfold State.beginSwap
  repeat' with_reducible first | assumption | apply State.assertVat_ev | apply State.closeWindow_ev | apply State.dropRepairs_ev | apply State.setExpiring_ev | apply State.setLoad_ev | apply State.showSwaps_ev | apply State.wrb_ev | apply ite_ev | apply ite_ev1 | apply ite_ev2 | apply ite_ev22 | apply ite_ev21 | dsimp only | intro _ _ _ _ | intro _ _ _ | intro _ _ | refine Ev.lit rfl ?_

theorem State.beginWhole_ev {s0 : State} {s : State} (op : LoadOp) (b : Option Nat) (hs0 : Ev s0 s) : Ev s0 (State.beginWhole s op b) := by
  unfold State.beginWhole
  repeat' with_reducible first | assumption | apply State.assertVat_ev | apply State.bistAbort_ev | apply State.churnStop_ev | apply State.closeWindow_ev | apply State.enterMode_ev | apply State.holdPins_ev | apply State.setExpiring_ev | apply State.setLoad_ev | apply State.wrb_ev | refine foldl_ev _ _ (fun _ _ _ => ?_) ?_ | refine foldl_ev1 _ _ (fun _ _ _ => ?_) ?_ | refine foldl_ev2 _ _ (fun _ _ _ => ?_) ?_ | refine foldl_ev22 _ _ (fun _ _ _ => ?_) ?_ | refine foldl_ev21 _ _ (fun _ _ _ => ?_) ?_ | apply ite_ev | apply ite_ev1 | apply ite_ev2 | apply ite_ev22 | apply ite_ev21 | dsimp only | intro _ _ _ _ | intro _ _ _ | intro _ _ | refine Ev.lit rfl ?_

theorem State.startOp_ev {s0 : State} {s : State} (o : PendOp) (hs0 : Ev s0 s) : Ev s0 (State.startOp s o) := by
  unfold State.startOp
  repeat' with_reducible first | assumption | apply State.beginSwap_ev | apply State.beginWhole_ev | refine foldl_ev _ _ (fun _ _ _ => ?_) ?_ | refine foldl_ev1 _ _ (fun _ _ _ => ?_) ?_ | refine foldl_ev2 _ _ (fun _ _ _ => ?_) ?_ | refine foldl_ev22 _ _ (fun _ _ _ => ?_) ?_ | refine foldl_ev21 _ _ (fun _ _ _ => ?_) ?_ | apply ite_ev | apply ite_ev1 | apply ite_ev2 | apply ite_ev22 | apply ite_ev21 | dsimp only | intro _ _ _ _ | intro _ _ _ | intro _ _

theorem State.launchOp_ev {s0 : State} {s : State} (o : PendOp) (hs0 : Ev s0 s) : Ev s0 (State.launchOp s o).1 := by
  unfold State.launchOp
  repeat' with_reducible first | assumption | apply State.closeWindow_ev | apply State.startOp_ev | apply State.wrb_ev | refine foldl_ev _ _ (fun _ _ _ => ?_) ?_ | refine foldl_ev1 _ _ (fun _ _ _ => ?_) ?_ | refine foldl_ev2 _ _ (fun _ _ _ => ?_) ?_ | refine foldl_ev22 _ _ (fun _ _ _ => ?_) ?_ | refine foldl_ev21 _ _ (fun _ _ _ => ?_) ?_ | apply ite_ev | apply ite_ev1 | apply ite_ev2 | apply ite_ev22 | apply ite_ev21 | dsimp only | refine Ev.lit rfl ?_

theorem State.confirmVat_ev {s0 : State} {s : State} (v : Nat) (hs0 : Ev s0 s) : Ev s0 (State.confirmVat s v) := by
  unfold State.confirmVat
  repeat' with_reducible first | assumption | apply State.closeWindow_ev | apply State.setRole_ev | apply State.setStandby_ev | refine foldl_ev _ _ (fun _ _ _ => ?_) ?_ | refine foldl_ev1 _ _ (fun _ _ _ => ?_) ?_ | refine foldl_ev2 _ _ (fun _ _ _ => ?_) ?_ | refine foldl_ev22 _ _ (fun _ _ _ => ?_) ?_ | refine foldl_ev21 _ _ (fun _ _ _ => ?_) ?_ | apply ite_ev | apply ite_ev1 | apply ite_ev2 | apply ite_ev22 | apply ite_ev21 | dsimp only | intro _ _ _ | intro _ _ | refine Ev.lit rfl ?_

theorem State.captureFrame_ev {s0 : State} {s : State} (v n : Nat) (hs0 : Ev s0 s) : Ev s0 (State.captureFrame s v n) := by
  unfold State.captureFrame
  repeat' with_reducible first | assumption | apply State.setPerr_ev | apply State.setPlane_ev | apply State.setShadow_ev | apply State.setVol_ev | dsimp only | intro _ _ _ | intro _ _ | split

theorem State.captureOrWait_ev {s0 : State} {s : State} (v n : Nat) (hs0 : Ev s0 s) : Ev s0 (State.captureOrWait s v n) := by
  unfold State.captureOrWait
  repeat' with_reducible first | assumption | apply State.captureFrame_ev | apply ite_ev | apply ite_ev1 | apply ite_ev2 | apply ite_ev22 | apply ite_ev21 | refine Ev.lit rfl ?_

theorem State.capResume_ev {s0 : State} {s : State} (hs0 : Ev s0 s) : Ev s0 (State.capResume s) := by
  unfold State.capResume
  repeat' with_reducible first | assumption | apply State.captureOrWait_ev | refine foldl_ev _ _ (fun _ _ _ => ?_) ?_ | refine foldl_ev1 _ _ (fun _ _ _ => ?_) ?_ | refine foldl_ev2 _ _ (fun _ _ _ => ?_) ?_ | refine foldl_ev22 _ _ (fun _ _ _ => ?_) ?_ | refine foldl_ev21 _ _ (fun _ _ _ => ?_) ?_ | apply ite_ev | apply ite_ev1 | apply ite_ev2 | apply ite_ev22 | apply ite_ev21 | dsimp only | intro _ _ _ _ | intro _ _ _ | intro _ _ | refine Ev.lit rfl ?_

theorem State.opStat_ev {s0 : State} {s : State} (result v : Nat) (hs0 : Ev s0 s) : Ev s0 (State.opStat s result v) := by
  unfold State.opStat
  repeat' with_reducible first | assumption | apply State.wr_ev | apply State.wrb_ev

theorem State.opRun_ev {s0 : State} {s : State} (code : Nat) (vats : List Nat) (slot : Nat) (tag : Word) (hs0 : Ev s0 s) : Ev s0 (State.opRun s code vats slot tag).1 := by
  unfold State.opRun
  repeat' with_reducible first | assumption | apply State.captureOrWait_ev | apply State.confirmVat_ev | apply State.launchOp_ev | apply State.setStandby_ev | apply State.wr_ev | apply State.wrb_ev | refine foldl_ev _ _ (fun _ _ _ => ?_) ?_ | refine foldl_ev1 _ _ (fun _ _ _ => ?_) ?_ | refine foldl_ev2 _ _ (fun _ _ _ => ?_) ?_ | refine foldl_ev22 _ _ (fun _ _ _ => ?_) ?_ | refine foldl_ev21 _ _ (fun _ _ _ => ?_) ?_ | apply ite_ev | apply ite_ev1 | apply ite_ev2 | apply ite_ev22 | apply ite_ev21 | dsimp only | intro _ _ _ _ | intro _ _ _ | intro _ _ | refine Ev.lit rfl ?_

theorem State.planeOp_ev {s0 : State} {s : State} (code : Nat) (vats : List Nat) (tag : Word) (hs0 : Ev s0 s) : Ev s0 (State.planeOp s code vats tag).1 := by
  unfold State.planeOp
  repeat' with_reducible first | assumption | apply State.opRun_ev | apply State.opStat_ev | apply ite_ev | apply ite_ev1 | apply ite_ev2 | apply ite_ev22 | apply ite_ev21 | dsimp only | split

theorem State.orderOp_ev {s0 : State} {s : State} (code : Nat) (vats : List Nat) (tag : Word) (hs0 : Ev s0 s) : Ev s0 (State.orderOp s code vats tag).1 := by
  unfold State.orderOp
  repeat' with_reducible first | assumption | apply State.planeOp_ev | apply State.setReg_ev | apply State.wr_ev | refine foldl_ev _ _ (fun _ _ _ => ?_) ?_ | refine foldl_ev1 _ _ (fun _ _ _ => ?_) ?_ | refine foldl_ev2 _ _ (fun _ _ _ => ?_) ?_ | refine foldl_ev22 _ _ (fun _ _ _ => ?_) ?_ | refine foldl_ev21 _ _ (fun _ _ _ => ?_) ?_ | apply ite_ev | apply ite_ev1 | apply ite_ev2 | apply ite_ev22 | apply ite_ev21 | dsimp only | intro _ _ _ _ | intro _ _ _ | intro _ _

theorem State.cfgOpWrite_ev {s0 : State} {s : State} (w : Word) (hs0 : Ev s0 s) : Ev s0 (State.cfgOpWrite s w).1 := by
  unfold State.cfgOpWrite
  repeat' with_reducible first | assumption | apply State.planeOp_ev | apply ite_ev | apply ite_ev1

theorem State.applyMap_ev {s0 : State} {s : State} (map : Nat → Nat) (hs0 : Ev s0 s) : Ev s0 (State.applyMap s map) := by
  unfold State.applyMap
  repeat' with_reducible first | assumption | apply State.setReg_ev | apply State.wr_ev | apply State.wrb_ev | refine foldl_ev _ _ (fun _ _ _ => ?_) ?_ | refine foldl_ev1 _ _ (fun _ _ _ => ?_) ?_ | refine foldl_ev2 _ _ (fun _ _ _ => ?_) ?_ | refine foldl_ev22 _ _ (fun _ _ _ => ?_) ?_ | refine foldl_ev21 _ _ (fun _ _ _ => ?_) ?_ | apply ite_ev

theorem State.applyRecord_ev {s0 : State} {s : State} (hs0 : Ev s0 s) : Ev s0 (State.applyRecord s) := by
  unfold State.applyRecord
  repeat' with_reducible first | assumption | apply State.bindReg_ev | apply State.hioRange_ev | apply State.setReg_ev | apply State.unbindReg_ev | refine foldl_ev _ _ (fun _ _ _ => ?_) ?_ | refine foldl_ev1 _ _ (fun _ _ _ => ?_) ?_ | refine foldl_ev2 _ _ (fun _ _ _ => ?_) ?_ | refine foldl_ev22 _ _ (fun _ _ _ => ?_) ?_ | refine foldl_ev21 _ _ (fun _ _ _ => ?_) ?_ | apply ite_ev | apply ite_ev1 | apply ite_ev2 | apply ite_ev22 | apply ite_ev21 | dsimp only | intro _ _ _ _ | intro _ _ _ | intro _ _ | refine Ev.lit rfl ?_

theorem State.applyClocks_ev {s0 : State} {s : State} (hs0 : Ev s0 s) : Ev s0 (State.applyClocks s) := by
  unfold State.applyClocks
  repeat' with_reducible first | assumption | apply State.swErr_ev | apply State.wr_ev | apply State.wrb_ev | refine foldl_ev _ _ (fun _ _ _ => ?_) ?_ | refine foldl_ev1 _ _ (fun _ _ _ => ?_) ?_ | refine foldl_ev2 _ _ (fun _ _ _ => ?_) ?_ | refine foldl_ev22 _ _ (fun _ _ _ => ?_) ?_ | refine foldl_ev21 _ _ (fun _ _ _ => ?_) ?_ | apply ite_ev | apply ite_ev1 | apply ite_ev2 | apply ite_ev22 | apply ite_ev21 | dsimp only | intro _ _ _ _ | intro _ _ _ | intro _ _

theorem State.copyFrames_ev {s0 : State} {s : State} (mine : Nat → Bool) (p : Bool) (hs0 : Ev s0 s) : Ev s0 (State.copyFrames s mine p).1 := by
  unfold State.copyFrames
  repeat' with_reducible first | assumption | apply State.bump_ev | apply State.loadLive_ev | apply State.setPerr_ev | apply State.setUnrest_ev | refine foldl_ev _ _ (fun _ _ _ => ?_) ?_ | refine foldl_ev1 _ _ (fun _ _ _ => ?_) ?_ | refine foldl_ev2 _ _ (fun _ _ _ => ?_) ?_ | refine foldl_ev22 _ _ (fun _ _ _ => ?_) ?_ | refine foldl_ev21 _ _ (fun _ _ _ => ?_) ?_ | apply ite_ev | apply ite_ev1 | apply ite_ev2 | apply ite_ev22 | apply ite_ev21 | dsimp only | intro _ _ _ _ | intro _ _ _ | intro _ _ | split | refine cfg_ev _ (fun x => twf_tfilter _ x) rfl rfl ?_

theorem State.passVat_ev {s0 : State} {s : State} (map : Nat → Nat) (v : Nat) (p : Bool) (hs0 : Ev s0 s) : Ev s0 (State.passVat s map v p).1 := by
  unfold State.passVat
  repeat' with_reducible first | assumption | apply State.bump_ev | apply State.copyFrames_ev | apply State.raiseVat_ev | apply ite_ev | apply ite_ev1

theorem State.runPass_ev {s0 : State} {s : State} (whole : Bool) (plan : List (Nat × Bool)) (hs0 : Ev s0 s) : Ev s0 (State.runPass s whole plan).1 := by
  unfold State.runPass
  repeat' with_reducible first | assumption | apply State.passVat_ev | refine foldl_ev _ _ (fun _ _ _ => ?_) ?_ | refine foldl_ev1 _ _ (fun _ _ _ => ?_) ?_

theorem State.failVat_ev {s0 : State} {s : State} (v : Nat) (hs0 : Ev s0 s) : Ev s0 (State.failVat s v) := by
  unfold State.failVat
  repeat' with_reducible first | assumption | apply State.closeGates_ev | apply State.closeWindow_ev | apply State.setExpiring_ev | apply State.wrb_ev | dsimp only

theorem State.afterLoad_ev {s0 : State} {s : State} (v : Nat) (hs0 : Ev s0 s) : Ev s0 (State.afterLoad s v) := by
  unfold State.afterLoad
  repeat' with_reducible first | assumption | apply State.clearVatMems_ev | apply State.openGates_ev | apply State.readConfig_ev | apply State.wantInit_ev | apply State.wrb_ev | refine foldl_ev _ _ (fun _ _ _ => ?_) ?_ | refine foldl_ev1 _ _ (fun _ _ _ => ?_) ?_ | refine foldl_ev2 _ _ (fun _ _ _ => ?_) ?_ | refine foldl_ev22 _ _ (fun _ _ _ => ?_) ?_ | refine foldl_ev21 _ _ (fun _ _ _ => ?_) ?_ | dsimp only | refine Ev.lit rfl ?_

theorem State.actDone_ev {s0 : State} {s : State} (v : Nat) (hs0 : Ev s0 s) : Ev s0 (State.actDone s v) := by
  unfold State.actDone
  repeat' with_reducible first | assumption | apply State.raiseVat_ev

theorem State.roleAfter_ev {s0 : State} {s : State} (op : LoadOp) (v : Nat) (p : Bool) (hs0 : Ev s0 s) : Ev s0 (State.roleAfter s op v p) := by
  unfold State.roleAfter
  repeat' with_reducible first | assumption | apply State.closeWindow_ev | apply State.openWindow_ev | apply State.setRole_ev | apply ite_ev | apply ite_ev1 | apply ite_ev2 | apply ite_ev22 | apply ite_ev21 | dsimp only | intro _ _ _ _ | intro _ _ _ | intro _ _ | refine Ev.lit rfl ?_

theorem State.countOp_ev {s0 : State} {s : State} (code : Nat) (hs0 : Ev s0 s) : Ev s0 (State.countOp s code) := by
  unfold State.countOp
  repeat' with_reducible first | assumption | apply State.bump_ev | apply ite_ev | apply ite_ev1 | apply ite_ev2 | apply ite_ev22 | apply ite_ev21

theorem State.finishWhole_ev {s0 : State} {s : State} (op : LoadOp) (passed : List (Nat × Bool)) (hs0 : Ev s0 s) : Ev s0 (State.finishWhole s op passed) := by
  unfold State.finishWhole
  repeat' with_reducible first | assumption | apply State.actDone_ev | apply State.afterLoad_ev | apply State.applyClocks_ev | apply State.applyMap_ev | apply State.applyRecord_ev | apply State.churnStart_ev | apply State.closeGates_ev | apply State.confirmVat_ev | apply State.countOp_ev | apply State.enterMode_ev | apply State.failVat_ev | apply State.raiseVat_ev | apply State.roleAfter_ev | apply State.setErrN_ev | apply State.setLoad_ev | apply State.showSwaps_ev | refine foldl_ev _ _ (fun _ _ _ => ?_) ?_ | refine foldl_ev1 _ _ (fun _ _ _ => ?_) ?_ | refine foldl_ev2 _ _ (fun _ _ _ => ?_) ?_ | refine foldl_ev22 _ _ (fun _ _ _ => ?_) ?_ | refine foldl_ev21 _ _ (fun _ _ _ => ?_) ?_ | apply ite_ev | apply ite_ev1 | apply ite_ev2 | apply ite_ev22 | apply ite_ev21 | dsimp only | intro _ _ _ _ | intro _ _ _ | intro _ _ | refine Ev.lit rfl ?_

theorem State.wholePass_ev {s0 : State} {s : State} (op : LoadOp) (hs0 : Ev s0 s) : Ev s0 (State.wholePass s op) := by
  unfold State.wholePass
  repeat' with_reducible first | assumption | apply State.enterFallback_ev | apply State.finishWhole_ev | apply State.retry_ev | apply State.runPass_ev | apply State.setLoad_ev | apply ite_ev | apply ite_ev1 | apply ite_ev2 | apply ite_ev22 | apply ite_ev21 | dsimp only | intro _ _ _ _ | intro _ _ _ | intro _ _ | split | refine Ev.lit rfl ?_

theorem State.vatPass_ev {s0 : State} {s : State} (op : LoadOp) (v : Nat) (hs0 : Ev s0 s) : Ev s0 (State.vatPass s op v) := by
  unfold State.vatPass
  repeat' with_reducible first | assumption | apply State.actDone_ev | apply State.afterLoad_ev | apply State.countOp_ev | apply State.failVat_ev | apply State.finish_ev | apply State.raiseVat_ev | apply State.roleAfter_ev | apply State.runPass_ev | apply State.setLoad_ev | apply State.showSwaps_ev | apply State.wrb_ev | apply ite_ev | apply ite_ev1 | apply ite_ev2 | apply ite_ev22 | apply ite_ev21 | dsimp only | intro _ _ _ _ | intro _ _ _ | intro _ _ | refine Ev.lit rfl ?_

theorem State.powerUpLoad_ev {s0 : State} {s : State} (hs0 : Ev s0 s) : Ev s0 (State.powerUpLoad s) := by
  unfold State.powerUpLoad
  repeat' with_reducible first | assumption | apply State.beginWhole_ev | apply State.raiseVat_ev | refine foldl_ev _ _ (fun _ _ _ => ?_) ?_ | refine foldl_ev1 _ _ (fun _ _ _ => ?_) ?_ | refine foldl_ev2 _ _ (fun _ _ _ => ?_) ?_ | refine foldl_ev22 _ _ (fun _ _ _ => ?_) ?_ | refine foldl_ev21 _ _ (fun _ _ _ => ?_) ?_ | dsimp only | intro _ _ _ _ | intro _ _ _ | intro _ _

theorem State.commitDone_ev {s0 : State} {s : State} (vats : List Nat) (tag : Nat) (hs0 : Ev s0 s) : Ev s0 (State.commitDone s vats tag) := by
  unfold State.commitDone
  repeat' with_reducible first | assumption | apply State.raiseAt_ev

theorem State.commitCloseEnd_ev {s0 : State} {s : State} (v : Nat) (img : Bool) (ups : List (Bool × Fin 262144 × List (Fin 2072))) (hs0 : Ev s0 s) : Ev s0 (State.commitCloseEnd s v img ups) := by
  unfold State.commitCloseEnd
  repeat' with_reducible first | assumption | apply State.bump_ev | apply State.commitDone_ev | apply State.setPlane_ev | apply State.setRole_ev | apply State.wr_ev | apply State.wrb_ev | refine foldl_ev _ _ (fun _ _ _ => ?_) ?_ | refine foldl_ev1 _ _ (fun _ _ _ => ?_) ?_ | refine foldl_ev2 _ _ (fun _ _ _ => ?_) ?_ | refine foldl_ev22 _ _ (fun _ _ _ => ?_) ?_ | refine foldl_ev21 _ _ (fun _ _ _ => ?_) ?_ | apply ite_ev | apply ite_ev1 | apply ite_ev2 | apply ite_ev22 | apply ite_ev21 | dsimp only | intro _ _ _ _ | intro _ _ _ | intro _ _ | split | refine Ev.lit rfl ?_

theorem State.noPrev_ev {s0 : State} {s : State} (v : Nat) (hs0 : Ev s0 s) : Ev s0 (State.noPrev s v) := by
  unfold State.noPrev
  repeat' with_reducible first | assumption | apply State.assertReset_ev | apply State.failVat_ev | apply State.raiseVat_ev | apply ite_ev

theorem State.actLate_ev {s0 : State} {s : State} (vats : List Nat) (k : Nat) (args : List Nat) (hs0 : Ev s0 s) : Ev s0 (State.actLate s vats k args) := by
  unfold State.actLate
  repeat' with_reducible first | assumption | apply State.raiseAt_ev

theorem State.setLate_ev {s0 : State} {s : State} (vats : List Nat) (k d : Nat) (hs0 : Ev s0 s) : Ev s0 (State.setLate s vats k d) := by
  unfold State.setLate
  repeat' with_reducible first | assumption | apply State.actLate_ev | apply State.wr_ev | apply State.wrb_ev | apply ite_ev | apply ite_ev1 | apply ite_ev2 | apply ite_ev22 | apply ite_ev21 | dsimp only

theorem State.fwWrite_ev {s0 : State} {s : State} (w : Word) (hs0 : Ev s0 s) : Ev s0 (State.fwWrite s w) := by
  unfold State.fwWrite
  repeat' with_reducible first | assumption | apply State.setReg_ev | apply State.wrb_ev | apply ite_ev | apply ite_ev1 | apply ite_ev2 | apply ite_ev22 | apply ite_ev21 | dsimp only | refine Ev.lit rfl ?_

theorem State.fwShow_ev {s0 : State} {s : State} (f : Frame) (hs0 : Ev s0 s) : Ev s0 (State.fwShow s f) := by
  unfold State.fwShow
  repeat' with_reducible first | assumption | apply State.setReg_ev | refine foldl_ev _ _ (fun _ _ _ => ?_) ?_ | refine foldl_ev1 _ _ (fun _ _ _ => ?_) ?_ | refine foldl_ev2 _ _ (fun _ _ _ => ?_) ?_ | refine foldl_ev22 _ _ (fun _ _ _ => ?_) ?_ | refine foldl_ev21 _ _ (fun _ _ _ => ?_) ?_ | intro _ _ _ _ | intro _ _ _ | intro _ _

theorem State.fwRead_ev {s0 : State} {s : State} (copy n : Nat) (hs0 : Ev s0 s) : Ev s0 (State.fwRead s copy n).1 := by
  unfold State.fwRead
  repeat' with_reducible first | assumption | apply State.bump_ev | apply State.fwShow_ev | apply State.setPerr_ev | apply ite_ev | apply ite_ev1 | apply ite_ev2 | apply ite_ev22 | apply ite_ev21 | dsimp only | split | refine Ev.lit rfl ?_

end Sys2Proof.Machine
end

