-- ==== Sys2Proof/Laws/Churn.lean ====
section
/-! SUPPORT. The operations of Machine/Churn.lean leave the queue of commands alone and keep the invariant. -/

namespace Sys2Proof.Machine


theorem State.setChurnPos_ev {s0 : State} {s : State} (q p : Nat) (hs0 : Ev s0 s) : Ev s0 (State.setChurnPos s q p) := by
  unfold State.setChurnPos
  repeat' with_reducible first | assumption | refine Ev.lit rfl ?_

theorem State.setScrubJob_ev {s0 : State} {s : State} (q : Nat) (j : Option ScrubJob) (hs0 : Ev s0 s) : Ev s0 (State.setScrubJob s q j) := by
  unfold State.setScrubJob
  repeat' with_reducible first | assumption | refine Ev.lit rfl ?_

theorem State.churnReport_ev {s0 : State} {s : State} (n kind first : Nat) (hs0 : Ev s0 s) : Ev s0 (State.churnReport s n kind first) := by
  unfold State.churnReport
  repeat' with_reducible first | assumption | apply State.bump_ev | apply State.raiseVat_ev | apply State.setUnrest_ev | apply State.wr_ev | apply ite_ev

theorem State.scrubWrite_ev {s0 : State} {s : State} (j : ScrubJob) (f : Frame) (fails : Nat) (left : List (Fin 2072)) (hs0 : Ev s0 s) : Ev s0 (State.scrubWrite s j f fails left) := by
  unfold State.scrubWrite
  repeat' with_reducible first | assumption | apply State.churnReport_ev | apply State.disturb_ev | apply ite_ev | apply ite_ev1 | apply ite_ev2 | apply ite_ev22 | apply ite_ev21

theorem State.churnCtlWrite_ev {s0 : State} {s : State} (w : Word) (hs0 : Ev s0 s) : Ev s0 (State.churnCtlWrite s w) := by
  unfold State.churnCtlWrite
  repeat' with_reducible first | assumption | apply State.churnStart_ev | apply State.churnStop_ev | apply State.raiseAt_ev | apply State.setReg_ev | apply ite_ev

end Sys2Proof.Machine
end

