-- ==== Sys2Proof/Laws/Link.lean ====
section
/-! SUPPORT. The operations of Machine/Link.lean leave the queue of commands alone and keep the invariant. -/

namespace Sys2Proof.Machine

@[simp] theorem HostSt.unsend_queue_length (x : HostSt) : x.unsend.queue.length = x.queue.length := List.length_map _

theorem State.resumeCore_ev {s0 : State} {s : State} (k : Nat) (hs0 : Ev s0 s) : Ev s0 (State.resumeCore s k) := by
  unfold State.resumeCore
  repeat' with_reducible first | assumption | apply State.reoffer_ev | apply State.wrb_ev | refine Ev.lit rfl ?_

theorem State.dbgEnd_ev {s0 : State} {s : State} (hs0 : Ev s0 s) : Ev s0 (State.dbgEnd s) := by
  unfold State.dbgEnd
  repeat' with_reducible first | assumption | apply State.raiseDev_ev | apply State.resumeCore_ev | refine foldl_ev _ _ (fun _ _ _ => ?_) ?_ | refine foldl_ev1 _ _ (fun _ _ _ => ?_) ?_ | refine foldl_ev2 _ _ (fun _ _ _ => ?_) ?_ | refine foldl_ev22 _ _ (fun _ _ _ => ?_) ?_ | refine foldl_ev21 _ _ (fun _ _ _ => ?_) ?_ | dsimp only | split | refine Ev.lit rfl ?_

theorem State.closeSession_ev {s0 : State} {s : State} (h : Nat) (lost : Bool) (hs0 : Ev s0 s) : Ev s0 (State.closeSession s h lost) := by
  unfold State.closeSession
  repeat' first | (with_reducible first | assumption | apply State.dbgEnd_ev | apply State.raiseDev_ev | apply State.setHost_ev | apply ite_ev | apply ite_ev1 | apply ite_ev2 | apply ite_ev22 | apply ite_ev21 | dsimp only | split | refine Ev.lit rfl ?_) | exact ok_keep (by first | exact Nat.le_refl _ | exact List.length_filter_le _ _ | simp | simp [HostSt.unsend]) rfl | exact ok_none (by first | exact Nat.le_refl _ | exact List.length_filter_le _ _ | simp | simp [HostSt.unsend]) rfl | exact ok_some (by assumption) (by first | exact Nat.le_refl _ | exact List.length_filter_le _ _ | simp | simp [HostSt.unsend]) rfl (by first | exact Nat.le_refl _ | exact List.length_filter_le _ _ | simp | simp [HostSt.unsend])

theorem State.closeAll_ev {s0 : State} {s : State} (hs0 : Ev s0 s) : Ev s0 (State.closeAll s) := by
  unfold State.closeAll
  repeat' with_reducible first | assumption | apply State.closeSession_ev | refine foldl_ev _ _ (fun _ _ _ => ?_) ?_

theorem State.sendMsg_ev {s0 : State} {s : State} (h : Nat) (typ code status rseq : Nat) (body : List Byte) (hs0 : Ev s0 s) : Ev s0 (State.sendMsg s h typ code status rseq body) := by
  unfold State.sendMsg
  repeat' first | (with_reducible first | assumption | apply State.bump_ev | apply State.setHost_ev | apply ite_ev | apply ite_ev1 | apply ite_ev2 | apply ite_ev22 | apply ite_ev21 | dsimp only | split | refine Ev.lit rfl ?_) | exact ok_keep (by first | exact Nat.le_refl _ | exact List.length_filter_le _ _ | simp | simp [HostSt.unsend]) rfl | exact ok_none (by first | exact Nat.le_refl _ | exact List.length_filter_le _ _ | simp | simp [HostSt.unsend]) rfl | exact ok_some (by assumption) (by first | exact Nat.le_refl _ | exact List.length_filter_le _ _ | simp | simp [HostSt.unsend]) rfl (by first | exact Nat.le_refl _ | exact List.length_filter_le _ _ | simp | simp [HostSt.unsend])

theorem State.sendAck_ev {s0 : State} {s : State} (h : Nat) (hs0 : Ev s0 s) : Ev s0 (State.sendAck s h) := by
  unfold State.sendAck
  repeat' first | (with_reducible first | assumption | apply State.bump_ev | apply State.setHost_ev | dsimp only | split | refine Ev.lit rfl ?_) | exact ok_keep (by first | exact Nat.le_refl _ | exact List.length_filter_le _ _ | simp | simp [HostSt.unsend]) rfl | exact ok_none (by first | exact Nat.le_refl _ | exact List.length_filter_le _ _ | simp | simp [HostSt.unsend]) rfl | exact ok_some (by assumption) (by first | exact Nat.le_refl _ | exact List.length_filter_le _ _ | simp | simp [HostSt.unsend]) rfl (by first | exact Nat.le_refl _ | exact List.length_filter_le _ _ | simp | simp [HostSt.unsend])

theorem State.sendBare_ev {s0 : State} {s : State} (h dst code status rseq : Nat) (body : List Byte) (hs0 : Ev s0 s) : Ev s0 (State.sendBare s h dst code status rseq body) := by
  unfold State.sendBare
  exact State.bump_ev _ _ (State.setHost_ev _ _ (ok_keep (Nat.le_refl _) rfl) hs0)

theorem State.respondTo_ev {s0 : State} {s : State} (e : ImmEnv) (code status : Nat) (body : List Byte) (hs0 : Ev s0 s) : Ev s0 (State.respondTo s e code status body) := by
  unfold State.respondTo
  dsimp only
  split
  · rename_i e2
    exact State.sendMsg_ev _ _ _ _ _ _ (State.setHost_ev _ _ (ok_some e2 (Nat.le_refl _) rfl (by simp)) hs0)
  · exact hs0
  · exact State.sendBare_ev _ _ _ _ _ _ hs0

theorem State.refuse_ev {s0 : State} {s : State} (e : ImmEnv) (code reason arg vat : Nat) (hs0 : Ev s0 s) : Ev s0 (State.refuse s e code reason arg vat) := by
  unfold State.refuse
  repeat' first | (with_reducible first | assumption | apply State.setHost_ev | dsimp only | refine Ev.lit rfl ?_) | exact ok_keep (by first | exact Nat.le_refl _ | exact List.length_filter_le _ _ | simp | simp [HostSt.unsend]) rfl | exact ok_none (by first | exact Nat.le_refl _ | exact List.length_filter_le _ _ | simp | simp [HostSt.unsend]) rfl | exact ok_some (by assumption) (by first | exact Nat.le_refl _ | exact List.length_filter_le _ _ | simp | simp [HostSt.unsend]) rfl (by first | exact Nat.le_refl _ | exact List.length_filter_le _ _ | simp | simp [HostSt.unsend])

theorem State.finish_ev {s0 : State} {s : State} (e : ImmEnv) (code : Nat) (x0 : Reply) (hs0 : Ev s0 s) : Ev s0 (State.finish s e code x0) := by
  unfold State.finish
  repeat' with_reducible first | assumption | apply State.refuse_ev | apply State.respondTo_ev | split

theorem State.ackTo_ev {s0 : State} {s : State} (h ackno : Nat) (hs0 : Ev s0 s) : Ev s0 (State.ackTo s h ackno) := by
  unfold State.ackTo
  repeat' first | (with_reducible first | assumption | apply State.sent_ev | apply State.setHost_ev | apply ite_ev | apply ite_ev1 | apply ite_ev2 | apply ite_ev22 | apply ite_ev21 | dsimp only | intro _ _ _ | intro _ _ | split | refine Ev.lit rfl ?_) | exact ok_keep (by first | exact Nat.le_refl _ | exact List.length_filter_le _ _ | simp | simp [HostSt.unsend]) rfl | exact ok_none (by first | exact Nat.le_refl _ | exact List.length_filter_le _ _ | simp | simp [HostSt.unsend]) rfl | exact ok_some (by assumption) (by first | exact Nat.le_refl _ | exact List.length_filter_le _ _ | simp | simp [HostSt.unsend]) rfl (by first | exact Nat.le_refl _ | exact List.length_filter_le _ _ | simp | simp [HostSt.unsend])

theorem State.acceptReq_ev {s0 s : State} (e : ImmEnv) (code : Nat) (body : List Byte) (hs0 : Ev s0 s) :
    Ev s0 (s.acceptReq e code body).1 := by
  unfold State.acceptReq
  dsimp only
  have k := State.ackTo_ev e.port e.ackno.toNat hs0
  split
  · exact State.bump_ev _ _ hs0
  · split
    · exact k
    · rename_i y hy
      split
      · split
        · exact State.bump_ev _ _ k
        · rename_i n
          refine State.setHost_ev _ _ (fun o => ⟨o.1, fun z m => ?_⟩) k
          cases m
          show (y.slots ++ [_]).length ≤ 256
          simp only [List.length_append, List.length_cons, List.length_nil]
          omega
      · split
        · exact State.sendAck_ev _ (State.bump_ev _ _ k)
        · exact State.bump_ev _ _ k

theorem State.acceptBare_ev {s0 : State} {s : State} (e : ImmEnv) (hs0 : Ev s0 s) : Ev s0 (State.acceptBare s e).1 := by
  unfold State.acceptBare
  repeat' first | (with_reducible first | assumption | apply State.bump_ev | apply State.setHost_ev | apply ite_ev | apply ite_ev1 | apply ite_ev2 | apply ite_ev22 | apply ite_ev21 | dsimp only | refine Ev.lit rfl ?_) | exact ok_keep (by first | exact Nat.le_refl _ | exact List.length_filter_le _ _ | simp | simp [HostSt.unsend]) rfl | exact ok_none (by first | exact Nat.le_refl _ | exact List.length_filter_le _ _ | simp | simp [HostSt.unsend]) rfl | exact ok_some (by assumption) (by first | exact Nat.le_refl _ | exact List.length_filter_le _ _ | simp | simp [HostSt.unsend]) rfl (by first | exact Nat.le_refl _ | exact List.length_filter_le _ _ | simp | simp [HostSt.unsend])

theorem State.receive_ev {s0 : State} {s : State} (bare : Bool) (e : ImmEnv) (code : Nat) (body : List Byte) (hs0 : Ev s0 s) : Ev s0 (State.receive s bare e code body).1 := by
  unfold State.receive
  repeat' with_reducible first | assumption | apply State.acceptBare_ev | apply State.acceptReq_ev | apply State.bump_ev | apply ite_ev | apply ite_ev1

theorem State.request_ev {s0 : State} {s : State} (bare : Bool) (e : ImmEnv) (code : Nat) (body : List Byte) (f : State → State × Reply) (hf : ∀ y0, Ev s0 y0 → Ev s0 (f y0).1) (hs0 : Ev s0 s) : Ev s0 (State.request s bare e code body f) := by
  unfold State.request
  repeat' with_reducible first | assumption | refine hf _ ?_ | apply State.finish_ev | apply State.receive_ev | apply ite_ev

theorem State.dbgLock_ev {s0 : State} {s : State} (w : Word) (hs0 : Ev s0 s) : Ev s0 (State.dbgLock s w) := by
  unfold State.dbgLock
  repeat' with_reducible first | assumption | apply State.dbgEnd_ev | apply State.wrb_ev | apply ite_ev | apply ite_ev1 | apply ite_ev2 | apply ite_ev22 | apply ite_ev21 | dsimp only | refine Ev.lit rfl ?_

theorem State.mpRun_ev {s0 : State} {s : State} (h r : Nat) (hs0 : Ev s0 s) : Ev s0 (State.mpRun s h r) := by
  unfold State.mpRun
  repeat' with_reducible first | assumption | apply State.setRxPower_ev | apply State.setTxPower_ev | apply State.storeDrop_ev | apply State.wr_ev | apply State.wrb_ev

theorem State.mpStop_ev {s0 : State} {s : State} (h : Nat) (hs0 : Ev s0 s) : Ev s0 (State.mpStop s h) := by
  unfold State.mpStop
  repeat' with_reducible first | assumption | apply State.setRxPower_ev | apply State.setTxPower_ev | apply State.storeDrop_ev | apply State.wrb_ev

theorem State.mpStart_ev {s0 : State} {s : State} (hs0 : Ev s0 s) : Ev s0 (State.mpStart s) := by
  unfold State.mpStart
  repeat' with_reducible first | assumption | apply State.mpRun_ev | apply State.wr_ev | apply State.wrb_ev | refine foldl_ev _ _ (fun _ _ _ => ?_) ?_ | refine foldl_ev1 _ _ (fun _ _ _ => ?_) ?_ | refine foldl_ev2 _ _ (fun _ _ _ => ?_) ?_ | refine foldl_ev22 _ _ (fun _ _ _ => ?_) ?_ | refine foldl_ev21 _ _ (fun _ _ _ => ?_) ?_ | apply ite_ev

theorem State.mpCtlWrite_ev {s0 : State} {s : State} (h : Nat) (w : Word) (hs0 : Ev s0 s) : Ev s0 (State.mpCtlWrite s h w).1 := by
  unfold State.mpCtlWrite
  repeat' with_reducible first | assumption | apply State.mpRun_ev | apply State.mpStop_ev | apply State.setReg_ev | apply State.wr_ev | apply ite_ev | apply ite_ev1

end Sys2Proof.Machine
end

