-- ==== Sys2Proof/Laws/Peek.lean ====
section
/-! SUPPORT. The operations of Machine/Peek.lean leave the queue of commands alone and keep the invariant. -/

namespace Sys2Proof.Machine


theorem State.mloadWrite_ev {s0 : State} {s : State} (id vat v : Nat) (w : Word) (hs0 : Ev s0 s) : Ev s0 (State.mloadWrite s id vat v w) := by
  unfold State.mloadWrite
  repeat' with_reducible first | assumption | apply State.setReg_ev | apply State.wr_ev | apply State.wrb_ev | apply ite_ev | apply ite_ev1 | apply ite_ev2 | apply ite_ev22 | apply ite_ev21 | dsimp only | split | refine Ev.lit rfl ?_

end Sys2Proof.Machine
end

