-- ==== Sys2Proof/Laws/Power.lean ====
section
/-! SUPPORT. The operations of Machine/Power.lean leave the queue of commands alone and keep the invariant. -/

namespace Sys2Proof.Machine


theorem State.keepWake_ev {s0 s : State} (old : State) (h : Ev s0 s) : Ev s0 (s.keepWake old) :=
  foldl_ev _ _ (fun _ _ k => ite_ev (ite_ev (State.setLatch_ev _ _ (State.wrb_ev _ _ k)) (State.wrb_ev _ _ k)) k) h

theorem State.kept_ctrs (s : State) (k : RstKind) :
    (s.kept k).ctrs = tfilter (fun a _ => k == .warm && decide (0x1000000 ≤ a) && decide (a < 0x1100000)) s.ctrs := rfl

theorem State.kept_regs (s : State) (k : RstKind) : (s.kept k).regs = tfilter (fun a _ => k.keeps a) s.regs := rfl

theorem State.kept_ok {s : State} (k : RstKind) (h : s.memoryOk) : (s.kept k).memoryOk := by
  refine ⟨rfl, rfl, rfl, ?_, rfl, h.planeA, h.planeB, h.words⟩
  unfold State.kept
  dsimp only
  split
  · rfl
  · rfl
  · exact h.scr

theorem State.kept_ev {s0 s : State} (k : RstKind) (h : Ev s0 s) : Ev s0 (s.kept k) := by
  refine h.trans ⟨rfl, fun x => ?_, fun _ => ⟨rfl, fun p m => by simp [State.kept] at m⟩, fun x => ?_, State.kept_ok k⟩
  · unfold State.countersOk
    rw [State.kept_ctrs]
    exact ⟨twf_tfilter _ x.1, fun p m => x.2 p (mem_tfilter m)⟩
  · unfold State.regsOk
    rw [State.kept_regs]
    exact twf_tfilter _ x

theorem State.fuseCut_ev {s0 : State} {s : State} (hs0 : Ev s0 s) : Ev s0 (State.fuseCut s) := by
  unfold State.fuseCut
  repeat' with_reducible first | assumption | apply State.fresh_ev | apply ite_ev | apply ite_ev1 | apply ite_ev2 | apply ite_ev22 | apply ite_ev21 | dsimp only | split | refine Ev.lit rfl ?_

theorem State.dramReset_ev {s0 : State} {s : State} (k : RstKind) (hs0 : Ev s0 s) : Ev s0 (State.dramReset s k) := by
  unfold State.dramReset
  repeat' with_reducible first | assumption | apply State.dramWarm_ev | apply State.drawKeys_ev | apply State.wrb_ev | apply ite_ev | apply ite_ev1 | apply ite_ev2 | apply ite_ev22 | apply ite_ev21 | dsimp only | refine Ev.lit rfl ?_

theorem State.clkReset_ev {s0 s : State} (old : State) (k : RstKind) (h : Ev s0 s) : Ev s0 (s.clkReset old k) := by
  cases k <;> first | exact h | exact State.setReg_ev _ _ h | exact State.wrb_ev _ _ h

theorem State.deviceReset_ev {s0 : State} {s : State} (k : RstKind) (hs0 : Ev s0 s) : Ev s0 (State.deviceReset s k) := by
  unfold State.deviceReset
  repeat' with_reducible first | assumption | apply State.celAbandon_ev | apply State.celShow_ev | apply State.clkReset_ev | apply State.dramReset_ev | apply State.fuseCut_ev | apply State.keepWake_ev | apply State.kept_ev | apply State.setHio_ev | apply State.timeKeep_ev | apply State.timeReset_ev | apply State.wr_ev | refine foldl_ev _ _ (fun _ _ _ => ?_) ?_ | refine foldl_ev1 _ _ (fun _ _ _ => ?_) ?_ | refine foldl_ev2 _ _ (fun _ _ _ => ?_) ?_ | refine foldl_ev22 _ _ (fun _ _ _ => ?_) ?_ | refine foldl_ev21 _ _ (fun _ _ _ => ?_) ?_ | apply ite_ev | apply ite_ev1 | apply ite_ev2 | apply ite_ev22 | apply ite_ev21 | dsimp only | intro _ _ _ | intro _ _ | split | refine Ev.lit rfl ?_

theorem State.resetRequest_ev {s0 : State} {s : State} (rank cause host : Nat) (hs0 : Ev s0 s) : Ev s0 (State.resetRequest s rank cause host) := by
  unfold State.resetRequest
  repeat' with_reducible first | assumption | apply State.deviceReset_ev | apply State.setReg_ev | apply State.wr_ev | apply ite_ev | apply ite_ev1 | apply ite_ev2 | apply ite_ev22 | apply ite_ev21 | dsimp only | split | refine Ev.lit rfl ?_

theorem State.rstCtlWrite_ev {s0 : State} {s : State} (w : Word) (hs0 : Ev s0 s) : Ev s0 (State.rstCtlWrite s w) := by
  unfold State.rstCtlWrite
  repeat' with_reducible first | assumption | apply State.resetRequest_ev | apply ite_ev

theorem State.powerActs_ev {s0 : State} {s : State} (target wake : Nat) (hs0 : Ev s0 s) : Ev s0 (State.powerActs s target wake) := by
  unfold State.powerActs
  repeat' with_reducible first | assumption | apply State.closeAll_ev | apply State.raiseAt_ev | apply State.wrb_ev | refine foldl_ev _ _ (fun _ _ _ => ?_) ?_ | refine foldl_ev1 _ _ (fun _ _ _ => ?_) ?_ | refine foldl_ev2 _ _ (fun _ _ _ => ?_) ?_ | refine foldl_ev22 _ _ (fun _ _ _ => ?_) ?_ | refine foldl_ev21 _ _ (fun _ _ _ => ?_) ?_ | apply ite_ev | apply ite_ev1 | apply ite_ev2 | apply ite_ev22 | apply ite_ev21 | dsimp only | intro _ _ _ _ | intro _ _ _ | intro _ _ | refine Ev.lit rfl ?_

theorem State.pwrCmdWrite_ev {s0 : State} {s : State} (w : Word) (hs0 : Ev s0 s) : Ev s0 (State.pwrCmdWrite s w).1 := by
  unfold State.pwrCmdWrite
  repeat' with_reducible first | assumption | apply State.powerActs_ev | apply State.wr_ev | apply ite_ev | apply ite_ev1

end Sys2Proof.Machine
end

