-- ==== Sys2Proof/Laws/Bus.lean ====
section
/-! SUPPORT. The operations of Machine/Bus.lean leave the queue of commands alone and keep the invariant. -/

namespace Sys2Proof.Machine


theorem State.plainWrite_ev {s0 : State} {s : State} (off : Nat) (w : Word) (hs0 : Ev s0 s) : Ev s0 (State.plainWrite s off w) := by
  unfold State.plainWrite
  repeat' with_reducible first | assumption | apply State.setReg_ev | split

theorem State.setPairLatch_ev {s0 : State} {s : State} (off : Nat) (w : Word) (hs0 : Ev s0 s) : Ev s0 (State.setPairLatch s off w) := by
  unfold State.setPairLatch
  repeat' with_reducible first | assumption | refine Ev.lit rfl ?_

theorem State.openGroup_ev {s0 : State} {s : State} (off : Nat) (hs0 : Ev s0 s) : Ev s0 (State.openGroup s off) := by
  unfold State.openGroup
  repeat' with_reducible first | assumption | apply ite_ev | apply ite_ev1 | apply ite_ev2 | apply ite_ev22 | apply ite_ev21 | dsimp only | intro _ _ _ | intro _ _ | refine Ev.lit rfl ?_

theorem State.slcPop_ev {s0 : State} {s : State} (q : Req) (off : Nat) (hs0 : Ev s0 s) : Ev s0 (State.slcPop s q off).2 := by
  unfold State.slcPop
  repeat' with_reducible first | assumption | apply State.setPairLatch_ev | dsimp only

theorem State.readReg_ev {s0 : State} {s : State} (q : Req) (off : Nat) (hs0 : Ev s0 s) : Ev s0 (State.readReg s q off).2 := by
  unfold State.readReg
  repeat' with_reducible first | assumption | apply State.capPop_ev | apply State.claimRead_ev | apply State.fclRead_ev | apply State.rxPop_ev | apply State.setPairLatch_ev | apply State.slcPop_ev | apply State.tsqPop_ev | apply State.vclaimRead_ev | apply ite_ev | apply ite_ev1 | apply ite_ev2 | apply ite_ev22 | apply ite_ev21 | dsimp only | refine Ev.lit rfl ?_

theorem orNone_ev {s0 s : State} (x : Option State) (hx : EvO s0 x) (h : Ev s0 s) : Ev s0 (orNone s x).1 := by
  cases x with
  | none => exact h
  | some t => exact hx t rfl

theorem State.writeClkCfg_ev {s0 : State} {s : State} (off : Nat) (w : Word) (hs0 : Ev s0 s) : Ev s0 (State.writeClkCfg s off w).1 := by
  unfold State.writeClkCfg
  repeat' with_reducible first | assumption | apply State.cfgOpWrite_ev | apply State.divWrite_ev | apply State.fclWrite_ev | apply State.fwWrite_ev | apply State.oscWrite_ev | apply State.plainWrite_ev | apply State.pwrCmdWrite_ev | apply State.rootCtrlWrite_ev | apply State.rstCtlWrite_ev | apply ite_ev | apply ite_ev1

theorem State.writeVat_ev {s0 : State} {s : State} (q : Req) (off : Nat) (w : Word) (hs0 : Ev s0 s) : Ev s0 (State.writeVat s q off w).1 := by
  unfold State.writeVat
  repeat' with_reducible first | assumption | apply State.assignWrite_ev | apply State.churnCtlWrite_ev | apply State.mloadWrite_ev | apply State.mregWrite_ev | apply State.plainWrite_ev | apply State.vatCtrlWrite_ev | apply ite_ev | apply ite_ev1

theorem State.writeNoc_ev {s0 : State} {s : State} (off : Nat) (w : Word) (hs0 : Ev s0 s) : Ev s0 (State.writeNoc s off w).1 := by
  unfold State.writeNoc
  repeat' with_reducible first | assumption | apply State.bindReg_ev | apply State.burstTo_ev | apply State.drawFrom_ev | apply State.plainWrite_ev | apply State.spanEnable_ev | apply State.unbindReg_ev | apply State.wrb_ev | apply ite_ev | apply ite_ev1

theorem State.writeDdr_ev {s0 : State} {s : State} (off : Nat) (w : Word) (hs0 : Ev s0 s) : Ev s0 (State.writeDdr s off w).1 := by
  unfold State.writeDdr
  repeat' with_reducible first | assumption | apply State.chCtlWrite_ev | apply State.ddrRefWrite_ev | apply State.geomWrite_ev | apply State.plainWrite_ev | apply State.spareWrite_ev | apply orNone_ev | apply ite_ev | apply ite_ev1 | apply ite_ev2 | apply ite_ev22 | apply ite_ev21 | dsimp only | split

theorem State.writeLane_ev {s0 : State} {s : State} (off : Nat) (w : Word) (hs0 : Ev s0 s) : Ev s0 (State.writeLane s off w).1 := by
  unfold State.writeLane
  repeat' with_reducible first | assumption | apply State.injWrite_ev | apply State.laneCtlWrite_ev | apply State.laneIrq_ev | apply State.plainWrite_ev | apply State.prbsWrite_ev | apply State.qpllWrite_ev | apply State.qrefWrite_ev | apply State.txEqWrite_ev | apply State.txFirWrite_ev | apply orNone_ev | dsimp only | split

theorem State.writeFen_ev {s0 : State} {s : State} (off : Nat) (w : Word) (hs0 : Ev s0 s) : Ev s0 (State.writeFen s off w).1 := by
  unfold State.writeFen
  repeat' with_reducible first | assumption | apply State.fcTxWrite_ev | apply State.fenIrq_ev | apply State.ovfWrite_ev | apply State.pidxWrite_ev | apply State.plainWrite_ev | apply State.portCtlWrite_ev | apply State.qCfgWrite_ev | apply State.qResumeWrite_ev | apply State.txCfgWrite_ev | apply ite_ev | apply ite_ev1 | apply ite_ev2 | apply ite_ev22 | apply ite_ev21 | dsimp only | split

theorem State.writeTime_ev {s0 : State} {s : State} (q : Req) (off : Nat) (w : Word) (hs0 : Ev s0 s) : Ev s0 (State.writeTime s q off w).1 := by
  unfold State.writeTime
  repeat' with_reducible first | assumption | apply State.capCtlWrite_ev | apply State.cmpCtlWrite_ev | apply State.plainWrite_ev | apply State.ptpWrite_ev | apply State.rateWrite_ev | apply State.tbCtlWrite_ev | apply State.tclkWrite_ev | apply State.tpCtlWrite_ev | apply ite_ev | apply ite_ev1 | apply ite_ev2 | apply ite_ev22 | apply ite_ev21 | dsimp only | split

theorem State.writeIrq_ev {s0 : State} {s : State} (q : Req) (off : Nat) (w : Word) (hs0 : Ev s0 s) : Ev s0 (State.writeIrq s q off w).1 := by
  unfold State.writeIrq
  repeat' with_reducible first | assumption | apply State.complete_ev | apply State.pendWrite_ev | apply State.plainWrite_ev | apply State.reoffer_ev | apply State.srcCfgWrite_ev | apply State.swiWrite_ev | apply State.vcompleteWrite_ev | apply State.wakeLatWrite_ev | apply ite_ev | apply ite_ev1

theorem State.writeSvc_ev {s0 : State} {s : State} (q : Req) (off : Nat) (w : Word) (hs0 : Ev s0 s) : Ev s0 (State.writeSvc s q off w).1 := by
  unfold State.writeSvc
  repeat' with_reducible first | assumption | apply State.coreCtlWrite_ev | apply State.dmaCtlWrite_ev | apply State.dmaIrq_ev | apply State.mtip_ev | apply State.plainWrite_ev | apply State.scrBaseWrite_ev | apply State.scrLockWrite_ev | apply State.svcCfgWrite_ev | apply State.svcIrq_ev | apply State.txPush_ev | apply ite_ev | apply ite_ev1 | apply ite_ev2 | apply ite_ev22 | apply ite_ev21 | dsimp only | split

theorem State.writeRest_ev {s0 : State} {s : State} (off : Nat) (w : Word) (hs0 : Ev s0 s) : Ev s0 (State.writeRest s off w).1 := by
  unfold State.writeRest
  repeat' with_reducible first | assumption | apply State.bistCmdWrite_ev | apply State.bistIrq_ev | apply State.celCmdWrite_ev | apply State.celIrq_ev | apply State.dbgLock_ev | apply State.hioRange_ev | apply State.mpCtlWrite_ev | apply State.plainWrite_ev | apply ite_ev | apply ite_ev1

theorem State.writeSlc_ev {s0 : State} {s : State} (off : Nat) (w : Word) (hs0 : Ev s0 s) : Ev s0 (State.writeSlc s off w).1 := by
  unfold State.writeSlc
  repeat' with_reducible first | assumption | apply State.inspWrite_ev | apply State.plainWrite_ev | apply State.slcCtlWrite_ev | apply State.slcFlagsWrite_ev | apply orNone_ev | apply ite_ev | apply ite_ev1 | apply ite_ev2 | apply ite_ev22 | apply ite_ev21 | dsimp only | split

theorem State.writeReg_ev {s0 : State} {s : State} (q : Req) (off : Nat) (w : Word) (hs0 : Ev s0 s) : Ev s0 (State.writeReg s q off w).1 := by
  unfold State.writeReg
  repeat' with_reducible first | assumption | apply State.writeClkCfg_ev | apply State.writeDdr_ev | apply State.writeFen_ev | apply State.writeIrq_ev | apply State.writeLane_ev | apply State.writeNoc_ev | apply State.writeRest_ev | apply State.writeSlc_ev | apply State.writeSvc_ev | apply State.writeTime_ev | apply State.writeVat_ev | apply ite_ev | apply ite_ev1

theorem State.busRead_ev {s0 : State} {s : State} (q : Req) (off n : Nat) (hs0 : Ev s0 s) : Ev s0 (State.busRead s q off n).1 := by
  unfold State.busRead
  repeat' with_reducible first | assumption | apply State.ctrLatch_ev | apply State.openGroup_ev | apply State.readReg_ev | apply ite_ev | apply ite_ev1 | apply ite_ev2 | apply ite_ev22 | apply ite_ev21 | dsimp only | split

theorem State.busWrite_ev {s0 : State} {s : State} (q : Req) (off n : Nat) (w : Word) (hs0 : Ev s0 s) : Ev s0 (State.busWrite s q off n w).1 := by
  unfold State.busWrite
  repeat' with_reducible first | assumption | apply State.ctrClear_ev | apply State.openGroup_ev | apply State.writeReg_ev | apply ite_ev | apply ite_ev1 | apply ite_ev2 | apply ite_ev22 | apply ite_ev21 | dsimp only | split

theorem State.tell_ev {s0 : State} {s : State} (st : Status) (data : List Byte) (hs0 : Ev s0 s) : Ev s0 (State.tell s st data) := by
  unfold State.tell
  repeat' with_reducible first | assumption | refine Ev.lit rfl ?_

theorem State.busPut_ev {s0 : State} {s : State} (q : Req) (off : Nat) (w : Word) (hs0 : Ev s0 s) : Ev s0 (State.busPut s q off w) := by
  unfold State.busPut
  repeat' with_reducible first | assumption | apply State.busWrite_ev | apply State.tell_ev | apply ite_ev | apply ite_ev1 | apply ite_ev2 | apply ite_ev22 | apply ite_ev21 | dsimp only

theorem State.busGet_ev {s0 : State} {s : State} (q : Req) (off : Nat) (hs0 : Ev s0 s) : Ev s0 (State.busGet s q off) := by
  unfold State.busGet
  repeat' with_reducible first | assumption | apply State.busRead_ev | apply State.tell_ev | apply ite_ev | apply ite_ev1 | apply ite_ev2 | apply ite_ev22 | apply ite_ev21 | dsimp only

end Sys2Proof.Machine
end

