-- ==== Sys2Proof/Laws/Access.lean ====
section
/-! SUPPORT. The operations of Machine/Access.lean leave the queue of commands alone and keep the invariant. -/

namespace Sys2Proof.Machine


theorem State.regAccess_ev {s0 s : State} (q : Req) (f : Flit) (h : Ev s0 s) : Ev s0 (s.regAccess q f).1 := by
  unfold State.regAccess
  refine ite_ev1 (pair_ev ?_) (pair_ev ?_)
  · exact State.busRead_ev q _ _ h
  · exact State.busWrite_ev q _ _ _ h

theorem State.bucketWait_ev {s0 : State} {s : State} (i : Nat) (hs0 : Ev s0 s) : Ev s0 (State.bucketWait s i) := by
  unfold State.bucketWait
  repeat' with_reducible first | assumption | apply State.bump_ev | apply State.fresh_ev | apply ite_ev | apply ite_ev1 | apply ite_ev2 | apply ite_ev22 | apply ite_ev21 | dsimp only | split | refine Ev.lit rfl ?_

theorem State.farAccess_ev {s0 : State} {s : State} (f : Flit) (free : State → State × Status × BitVec 512) (hfree : ∀ y0, Ev s0 y0 → Ev s0 (free y0).1) (hs0 : Ev s0 s) : Ev s0 (State.farAccess s f free).1 := by
  unfold State.farAccess
  repeat' with_reducible first | assumption | refine hfree _ ?_ | apply State.spanQueue_ev | apply ite_ev | apply ite_ev1 | apply ite_ev2 | apply ite_ev22 | apply ite_ev21 | dsimp only

theorem State.serveStored_ev {s0 : State} {s : State} (n : Nat) (q : DReq) (hs0 : Ev s0 s) : Ev s0 (State.serveStored s n q) := by
  unfold State.serveStored
  repeat' with_reducible first | assumption | apply State.answerDram_ev | apply State.bump_ev | apply State.readLine_ev | apply State.storeLine_ev | apply State.wr_ev | apply ite_ev | apply ite_ev1 | apply ite_ev2 | apply ite_ev22 | apply ite_ev21 | dsimp only

theorem State.flushLine_ev {s0 : State} {s : State} (n line : Nat) (hs0 : Ev s0 s) : Ev s0 (State.flushLine s n line) := by
  unfold State.flushLine
  repeat' with_reducible first | assumption | apply State.serveStored_ev | apply State.setChan_ev | refine foldl_ev _ _ (fun _ _ _ => ?_) ?_

theorem State.dramAccess_ev {s0 : State} {s : State} (f : Flit) (vat : Nat) (hs0 : Ev s0 s) : Ev s0 (State.dramAccess s f vat).1 := by
  unfold State.dramAccess
  repeat' with_reducible first | assumption | apply State.bump_ev | apply State.fillBars_ev | apply State.flushLine_ev | apply State.readLine_ev | apply State.setChan_ev | apply State.storeLine_ev | apply ite_ev | apply ite_ev1 | apply ite_ev2 | apply ite_ev22 | apply ite_ev21 | dsimp only | refine Ev.lit rfl ?_

theorem State.serveAccess_ev {s0 : State} {s : State} (q : Req) (f : Flit) (hs0 : Ev s0 s) : Ev s0 (State.serveAccess s q f).1 := by
  unfold State.serveAccess
  repeat' with_reducible first | assumption | apply State.bump_ev | apply State.celSuspends_ev | apply State.dmNoc_ev | apply State.dramAccess_ev | apply State.farAccess_ev | apply State.fresh_ev | apply State.regAccess_ev | apply State.scrServe_ev | apply ite_ev | apply ite_ev1 | apply ite_ev2 | apply ite_ev22 | apply ite_ev21 | dsimp only | intro _ _ _ _ | intro _ _ _ | intro _ _ | split | refine Ev.lit rfl ?_

theorem State.countAccess_ev {s0 : State} {s : State} (i : Nat) (wr : Bool) (n : Nat) (st : Status) (hs0 : Ev s0 s) : Ev s0 (State.countAccess s i wr n st) := by
  unfold State.countAccess
  repeat' with_reducible first | assumption | apply State.bump_ev | apply State.fresh_ev | apply State.latency_ev | apply State.setTag_ev | apply State.wr_ev | apply ite_ev | apply ite_ev1 | apply ite_ev2 | apply ite_ev22 | apply ite_ev21 | dsimp only | refine Ev.lit rfl ?_

theorem State.memAccess_ev {s0 : State} {s : State} (q : Req) (rq : NocRq) (hs0 : Ev s0 s) : Ev s0 (State.memAccess s q rq).1 := by
  unfold State.memAccess
  repeat' with_reducible first | assumption | apply State.bucketWait_ev | apply State.bump_ev | apply State.countAccess_ev | apply State.decodeRq_ev | apply State.regUse_ev | apply State.serveAccess_ev | apply State.wr_ev | apply ite_ev | apply ite_ev1 | apply ite_ev2 | apply ite_ev22 | apply ite_ev21 | dsimp only

theorem State.memRead_ev {s0 : State} {s : State} (q : Req) (a n : Nat) (qos : Fin 4) (hs0 : Ev s0 s) : Ev s0 (State.memRead s q a n qos).1 := by
  unfold State.memRead
  repeat' with_reducible first | assumption | apply State.memAccess_ev

theorem State.memWrite_ev {s0 : State} {s : State} (q : Req) (a : Nat) (bs : List Byte) (poison : Bool) (qos : Fin 4) (hs0 : Ev s0 s) : Ev s0 (State.memWrite s q a bs poison qos).1 := by
  unfold State.memWrite
  repeat' with_reducible first | assumption | apply State.memAccess_ev

theorem State.memReads_ev {s0 : State} {s : State} (q : Req) (a n : Nat) (qos : Fin 4) (hs0 : Ev s0 s) : Ev s0 (State.memReads s q a n qos).1 := by
  unfold State.memReads
  repeat' with_reducible first | assumption | apply State.memRead_ev | refine foldl_ev _ _ (fun _ _ _ => ?_) ?_ | refine foldl_ev1 _ _ (fun _ _ _ => ?_) ?_ | refine foldl_ev2 _ _ (fun _ _ _ => ?_) ?_ | refine foldl_ev22 _ _ (fun _ _ _ => ?_) ?_ | refine foldl_ev21 _ _ (fun _ _ _ => ?_) ?_ | apply ite_ev | apply ite_ev1

theorem State.memWrites_ev {s0 : State} {s : State} (q : Req) (a : Nat) (bs : List Byte) (poison : Bool) (qos : Fin 4) (hs0 : Ev s0 s) : Ev s0 (State.memWrites s q a bs poison qos).1 := by
  unfold State.memWrites
  repeat' with_reducible first | assumption | apply State.memWrite_ev | refine foldl_ev _ _ (fun _ _ _ => ?_) ?_ | refine foldl_ev1 _ _ (fun _ _ _ => ?_) ?_ | refine foldl_ev2 _ _ (fun _ _ _ => ?_) ?_ | refine foldl_ev22 _ _ (fun _ _ _ => ?_) ?_ | refine foldl_ev21 _ _ (fun _ _ _ => ?_) ?_ | apply ite_ev | apply ite_ev1

end Sys2Proof.Machine
end

