-- ==== Sys2Proof/Laws/DmaRun.lean ====
section
/-! SUPPORT. The operations of Machine/DmaRun.lean leave the queue of commands alone and keep the invariant. -/

namespace Sys2Proof.Machine

theorem State.snoopRead_ev {s0 : State} {s : State} (q : Req) (a n : Nat) (qos : Fin 4) (hs0 : Ev s0 s) : Ev s0 (State.snoopRead s q a n qos).1 := by
  unfold State.snoopRead
  repeat' with_reducible first | assumption | apply State.memRead_ev | split

theorem State.snoopInval_ev {s0 : State} {s : State} (a : Nat) (hs0 : Ev s0 s) : Ev s0 (State.snoopInval s a) := by
  unfold State.snoopInval
  repeat' with_reducible first | assumption | refine foldl_ev _ _ (fun _ _ _ => ?_) ?_ | refine foldl_ev1 _ _ (fun _ _ _ => ?_) ?_ | refine foldl_ev2 _ _ (fun _ _ _ => ?_) ?_ | refine foldl_ev22 _ _ (fun _ _ _ => ?_) ?_ | refine foldl_ev21 _ _ (fun _ _ _ => ?_) ?_ | apply ite_ev | apply ite_ev1 | apply ite_ev2 | apply ite_ev22 | apply ite_ev21 | dsimp only | intro _ _ _ _ | intro _ _ _ | intro _ _ | refine Ev.lit rfl ?_

theorem State.dmaPiece_ev {s0 : State} {s : State} (c : Nat) (q : Req) (d : DmaDesc) (p : Nat × Nat) (hs0 : Ev s0 s) : Ev s0 (State.dmaPiece s c q d p).1 := by
  unfold State.dmaPiece
  repeat' with_reducible first | assumption | apply State.bump_ev | apply State.memRead_ev | apply State.memWrite_ev | apply State.snoopInval_ev | apply State.snoopRead_ev | apply ite_ev | apply ite_ev1

theorem State.dmaMove_ev {s0 : State} {s : State} (c : Nat) (q : Req) (d : DmaDesc) (hs0 : Ev s0 s) : Ev s0 (State.dmaMove s c q d).1 := by
  unfold State.dmaMove
  repeat' with_reducible first | assumption | apply State.dmaPiece_ev | refine foldl_ev _ _ (fun _ _ _ => ?_) ?_ | refine foldl_ev1 _ _ (fun _ _ _ => ?_) ?_ | refine foldl_ev2 _ _ (fun _ _ _ => ?_) ?_ | refine foldl_ev22 _ _ (fun _ _ _ => ?_) ?_ | refine foldl_ev21 _ _ (fun _ _ _ => ?_) ?_ | apply ite_ev | apply ite_ev1

theorem State.dmaBack_ev {s0 : State} {s : State} (q : Req) (a w5 result : Nat) (hs0 : Ev s0 s) : Ev s0 (State.dmaBack s q a w5 result).1 := by
  unfold State.dmaBack
  repeat' with_reducible first | assumption | apply State.memWrite_ev

end Sys2Proof.Machine
end

