-- ==== Sys2Proof/Laws/Images.lean ====
section
/-! SUPPORT. The operations of Machine/Images.lean leave the queue of commands alone and keep the invariant. -/

namespace Sys2Proof.Machine


theorem State.setImg_ev {s0 : State} {s : State} (e : Nat) (o : Option ImgOp) (hs0 : Ev s0 s) : Ev s0 (State.setImg s e o) := by
  unfold State.setImg
  repeat' with_reducible first | assumption | apply ite_ev | apply ite_ev1 | apply ite_ev2 | apply ite_ev22 | apply ite_ev21 | refine Ev.lit rfl ?_

theorem State.imgFetch_ev {s0 : State} {s : State} (o : ImgOp) (n : Nat) (hs0 : Ev s0 s) : Ev s0 (State.imgFetch s o n).1 := by
  unfold State.imgFetch
  repeat' with_reducible first | assumption | apply State.celSuspends_ev | apply State.memReads_ev | apply ite_ev | apply ite_ev1 | apply ite_ev2 | apply ite_ev22 | apply ite_ev21 | dsimp only | split | refine Ev.lit rfl ?_

theorem State.respondSeq_ev {s0 : State} {s : State} (h code rseq : Nat) (body : List Byte) (hs0 : Ev s0 s) : Ev s0 (State.respondSeq s h code rseq body) := by
  unfold State.respondSeq
  repeat' first | (with_reducible first | assumption | apply State.sendMsg_ev | apply State.setHost_ev | apply ite_ev | apply ite_ev1 | apply ite_ev2 | apply ite_ev22 | apply ite_ev21 | dsimp only | intro _ _ _ _ | intro _ _ _ | intro _ _ | split | refine Ev.lit rfl ?_) | exact ok_keep (by first | exact Nat.le_refl _ | exact List.length_filter_le _ _ | simp | simp [HostSt.unsend]) rfl | exact ok_none (by first | exact Nat.le_refl _ | exact List.length_filter_le _ _ | simp | simp [HostSt.unsend]) rfl | exact ok_some (by assumption) (by first | exact Nat.le_refl _ | exact List.length_filter_le _ _ | simp | simp [HostSt.unsend]) rfl (by first | exact Nat.le_refl _ | exact List.length_filter_le _ _ | simp | simp [HostSt.unsend])

theorem State.bootFrom_ev {s0 : State} {s : State} (x0 : List Nat) (x1 : Nat) (hs0 : Ev s0 s) : Ev s0 (State.bootFrom s x0 x1) := by
  induction x0 generalizing s x1 with
  | nil =>
    unfold State.bootFrom
    repeat' with_reducible first | assumption | apply State.bump_ev | apply State.enterFallback_ev | apply State.raiseVat_ev | apply State.wr_ev | apply ite_ev | apply ite_ev1 | apply ite_ev2 | apply ite_ev22 | apply ite_ev21 | dsimp only | refine Ev.lit rfl ?_
  | cons y x0 ih =>
    unfold State.bootFrom
    repeat' with_reducible first | assumption | apply ih | apply State.bump_ev | apply State.enterFallback_ev | apply State.raiseVat_ev | apply State.wr_ev | apply ite_ev | apply ite_ev1 | apply ite_ev2 | apply ite_ev22 | apply ite_ev21 | dsimp only | refine Ev.lit rfl ?_

theorem State.bootNext_ev {s0 : State} {s : State} (hs0 : Ev s0 s) : Ev s0 (State.bootNext s) := by
  unfold State.bootNext
  repeat' with_reducible first | assumption | apply State.bootFrom_ev

theorem State.endCommit_ev {s0 : State} {s : State} (o : ImgOp) (hs0 : Ev s0 s) : Ev s0 (State.endCommit s o) := by
  unfold State.endCommit
  repeat' with_reducible first | assumption | apply State.opRun_ev | apply State.opStat_ev | dsimp only | split

theorem State.rejectOp_ev {s0 : State} {s : State} (o : ImgOp) (reason : Nat) (hs0 : Ev s0 s) : Ev s0 (State.rejectOp s o reason) := by
  unfold State.rejectOp
  repeat' with_reducible first | assumption | apply State.bootNext_ev | apply State.bump_ev | apply State.endCommit_ev | apply State.raiseAt_ev | apply State.raiseVat_ev | apply State.respondSeq_ev | apply State.wr_ev | apply ite_ev | apply ite_ev1 | apply ite_ev2 | apply ite_ev22 | apply ite_ev21 | dsimp only | split | refine Ev.lit rfl ?_

theorem State.imgReject_ev {s0 : State} {s : State} (o : ImgOp) (reason : Nat) (hs0 : Ev s0 s) : Ev s0 (State.imgReject s o reason) := by
  unfold State.imgReject
  repeat' with_reducible first | assumption | apply State.modFail_ev | apply State.rejectOp_ev | apply ite_ev | apply ite_ev1 | apply ite_ev2 | apply ite_ev22 | apply ite_ev21 | split

theorem State.rejectFree_ev {s0 : State} {s : State} (o : ImgOp) (hs0 : Ev s0 s) : Ev s0 (State.rejectFree s o) := by
  unfold State.rejectFree
  repeat' with_reducible first | assumption | apply State.fresh_ev | apply State.imgReject_ev | dsimp only

theorem State.stageGo_ev {s0 : State} {s : State} (hs0 : Ev s0 s) : Ev s0 (State.stageGo s) := by
  unfold State.stageGo
  repeat' with_reducible first | assumption | apply State.celStart_ev | apply State.rejectOp_ev | apply ite_ev | apply ite_ev1 | apply ite_ev2 | apply ite_ev22 | apply ite_ev21 | dsimp only | split | refine Ev.lit rfl ?_

theorem State.stageWork_ev {s0 : State} {s : State} (l : List CelOp) (hs0 : Ev s0 s) : Ev s0 (State.stageWork s l) := by
  unfold State.stageWork
  repeat' with_reducible first | assumption | apply State.stageGo_ev | refine Ev.lit rfl ?_

theorem State.stageDone_ev {s0 : State} {s : State} (result : Nat) (hs0 : Ev s0 s) : Ev s0 (State.stageDone s result) := by
  unfold State.stageDone
  repeat' with_reducible first | assumption | apply State.rejectOp_ev | apply State.stageGo_ev | apply ite_ev | apply ite_ev1 | apply ite_ev2 | apply ite_ev22 | apply ite_ev21 | dsimp only | split | refine Ev.lit rfl ?_

theorem State.putSources_ev {s0 : State} {s : State} (o : ImgOp) (h : Hdr) (hs0 : Ev s0 s) : Ev s0 (State.putSources s o h) := by
  unfold State.putSources
  repeat' with_reducible first | assumption | apply State.bootUpdate_ev

theorem State.commitEnds_ev {s0 : State} {s : State} (o : ImgOp) (h : Hdr) (hs0 : Ev s0 s) : Ev s0 (State.commitEnds s o h) := by
  unfold State.commitEnds
  repeat' with_reducible first | assumption | apply State.bootNext_ev | apply State.bump_ev | apply State.commitDone_ev | apply State.orderOp_ev | apply State.raiseVat_ev | apply State.wr_ev | apply ite_ev | apply ite_ev1 | apply ite_ev2 | apply ite_ev22 | apply ite_ev21 | dsimp only | refine Ev.lit rfl ?_

theorem State.imgEnds_ev {s0 : State} {s : State} (o : ImgOp) (h : Hdr) (hs0 : Ev s0 s) : Ev s0 (State.imgEnds s o h) := by
  unfold State.imgEnds
  repeat' with_reducible first | assumption | apply State.commitEnds_ev | apply State.respondSeq_ev | apply State.stageWork_ev | apply ite_ev | apply ite_ev1 | apply ite_ev2 | apply ite_ev22 | apply ite_ev21 | refine Ev.lit rfl ?_

theorem State.fsecPassed_ev {s0 : State} {s : State} (e : Nat) (o : ImgOp) (h : Hdr) (hs0 : Ev s0 s) : Ev s0 (State.fsecPassed s e o h) := by
  unfold State.fsecPassed
  repeat' with_reducible first | assumption | apply State.imgReject_ev | apply State.orderOp_ev | apply State.putSources_ev | apply State.setImg_ev | apply ite_ev | apply ite_ev1 | apply ite_ev2 | apply ite_ev22 | apply ite_ev21 | dsimp only | refine Ev.lit rfl ?_

theorem State.imgSettle_ev {s0 : State} {s : State} (e : Nat) (o : ImgOp) (hs0 : Ev s0 s) : Ev s0 (State.imgSettle s e o) := by
  unfold State.imgSettle
  repeat' with_reducible first | assumption | apply State.fsecPassed_ev | apply State.imgReject_ev | apply State.setImg_ev | apply ite_ev | apply ite_ev1 | apply ite_ev2 | apply ite_ev22 | apply ite_ev21 | dsimp only | intro _ _ _ _ | intro _ _ _ | intro _ _ | split

theorem State.imgRetries_ev {s0 : State} {s : State} (o : ImgOp) (env : RecEnv) (ok : Bool) (hs0 : Ev s0 s) : Ev s0 (State.imgRetries s o env ok) := by
  unfold State.imgRetries
  repeat' with_reducible first | assumption | apply State.bump_ev | apply ite_ev

theorem State.withRecord_ev {s0 : State} {s : State} (o : ImgOp) (env : RecEnv) (fixed : Option Nat) (stop : Nat) (route : Nat → Bool) (f : State → ImgOp → Rec → State) (hf : ∀ y0 y1 y2, Ev s0 y0 → Ev s0 (f y0 y1 y2)) (hs0 : Ev s0 s) : Ev s0 (State.withRecord s o env fixed stop route f) := by
  unfold State.withRecord
  repeat' with_reducible first | assumption | refine hf _ _ _ ?_ | apply State.imgFetch_ev | apply State.imgReject_ev | apply State.imgRetries_ev | apply State.rejectFree_ev | apply ite_ev | apply ite_ev1 | apply ite_ev2 | apply ite_ev22 | apply ite_ev21 | dsimp only | intro _ _ _ _ | intro _ _ _ | intro _ _ | split

theorem State.modHold_ev {s0 : State} {s : State} (hs0 : Ev s0 s) : Ev s0 (State.modHold s) := by
  unfold State.modHold
  repeat' with_reducible first | assumption | apply State.dropRepairs_ev | apply State.holdTiles_ev | apply State.setMod_ev | apply State.wrb_ev | apply ite_ev | apply ite_ev1 | apply ite_ev2 | apply ite_ev22 | apply ite_ev21 | dsimp only | intro _ _ _ _ | intro _ _ _ | intro _ _ | split | refine Ev.lit rfl ?_

theorem State.imgWrite_ev {s0 : State} {s : State} (o : ImgOp) (h : Hdr) (n : Nat) (f : Frame) (hs0 : Ev s0 s) : Ev s0 (State.imgWrite s o h n f) := by
  unfold State.imgWrite
  repeat' with_reducible first | assumption | apply State.loadLive_ev | apply State.modHold_ev | apply State.setMod_ev | apply State.setPerr_ev | apply State.setPlane_ev | apply State.setUnrest_ev | apply ite_ev | apply ite_ev1 | apply ite_ev2 | apply ite_ev22 | apply ite_ev21 | dsimp only | intro _ _ _ _ | intro _ _ _ | intro _ _ | split | refine Ev.lit rfl ?_

theorem State.frameWrite_ev {s0 : State} {s : State} (o : ImgOp) (h : Hdr) (n : Nat) (f : Frame) (fails : Nat) (hs0 : Ev s0 s) : Ev s0 (State.frameWrite s o h n f fails).1 := by
  unfold State.frameWrite
  repeat' with_reducible first | assumption | apply State.bump_ev | apply State.freePlane_ev | apply State.imgWrite_ev | apply ite_ev | apply ite_ev1 | apply ite_ev2 | apply ite_ev22 | apply ite_ev21 | dsimp only | split | refine Ev.lit rfl ?_

theorem State.imgFrames_ev {s0 : State} {s : State} (o : ImgOp) (h : Hdr) (x0 : List (Nat × Frame)) (x1 : List (Fin 5)) (hs0 : Ev s0 s) : Ev s0 (State.imgFrames s o h x0 x1).1 := by
  induction x0 generalizing s o h x1 with
  | nil =>
    unfold State.imgFrames
    repeat' with_reducible first | assumption | apply State.frameWrite_ev | apply ite_ev | apply ite_ev1 | apply ite_ev2 | apply ite_ev22 | apply ite_ev21 | dsimp only | intro _ _ _ _ | intro _ _ _ | intro _ _ | refine Ev.lit rfl ?_
  | cons y x0 ih =>
    unfold State.imgFrames
    repeat' with_reducible first | assumption | apply ih | apply State.frameWrite_ev | apply ite_ev | apply ite_ev1 | apply ite_ev2 | apply ite_ev22 | apply ite_ev21 | dsimp only | intro _ _ _ _ | intro _ _ _ | intro _ _ | refine Ev.lit rfl ?_

theorem State.frameRecord_ev {s0 : State} {s : State} (e : Nat) (env : RecEnv) (types : Nat → Bool) (hs0 : Ev s0 s) : Ev s0 (State.frameRecord s e env types) := by
  unfold State.frameRecord
  repeat' with_reducible first | assumption | apply State.imgFrames_ev | apply State.imgReject_ev | apply State.imgSettle_ev | apply State.stageBytes_ev | apply State.stageWork_ev | apply State.withRecord_ev | apply ite_ev | apply ite_ev1 | apply ite_ev2 | apply ite_ev22 | apply ite_ev21 | dsimp only | intro _ _ _ _ | intro _ _ _ | intro _ _ | split | refine Ev.lit rfl ?_

theorem State.initFails_ev {s0 : State} {s : State} (r : InitRun) (reason : Nat) (hs0 : Ev s0 s) : Ev s0 (State.initFails s r reason) := by
  unfold State.initFails
  repeat' with_reducible first | assumption | apply State.bump_ev | apply State.raiseVat_ev | apply State.wrb_ev | dsimp only | refine Ev.lit rfl ?_

theorem State.initWrite_ev {s0 : State} {s : State} (m : MemInit) (hs0 : Ev s0 s) : Ev s0 (State.initWrite s m) := by
  unfold State.initWrite
  repeat' with_reducible first | assumption | apply State.opmWrite_ev | apply State.setMemW_ev | refine foldl_ev _ _ (fun _ _ _ => ?_) ?_ | refine foldl_ev1 _ _ (fun _ _ _ => ?_) ?_ | refine foldl_ev2 _ _ (fun _ _ _ => ?_) ?_ | refine foldl_ev22 _ _ (fun _ _ _ => ?_) ?_ | refine foldl_ev21 _ _ (fun _ _ _ => ?_) ?_ | apply ite_ev

theorem State.initRecord_ev {s0 : State} {s : State} (r : InitRun) (env : RecEnv) (hs0 : Ev s0 s) : Ev s0 (State.initRecord s r env) := by
  unfold State.initRecord
  repeat' with_reducible first | assumption | apply State.bump_ev | apply State.initFails_ev | apply State.initWrite_ev | apply ite_ev | apply ite_ev1 | apply ite_ev2 | apply ite_ev22 | apply ite_ev21 | dsimp only | intro _ _ _ _ | intro _ _ _ | intro _ _ | split | refine Ev.lit rfl ?_

end Sys2Proof.Machine
end

