-- ==== Sys2Proof/Laws/ImgOps.lean ====
section
/-! SUPPORT. The operations of Machine/ImgOps.lean leave the queue of commands alone and keep the invariant. -/

namespace Sys2Proof.Machine


theorem State.imgAccept_ev {s0 : State} {s : State} (o : ImgOp) (hs0 : Ev s0 s) : Ev s0 (State.imgAccept s o) := by
  unfold State.imgAccept
  repeat' with_reducible first | assumption | apply State.wr_ev | refine Ev.lit rfl ?_

theorem State.slotOrder_ev {s0 : State} {s : State} (e : ImmEnv) (kind : Nat) (body : List Byte) (hs0 : Ev s0 s) : Ev s0 (State.slotOrder s e kind body).1 := by
  unfold State.slotOrder
  repeat' with_reducible first | assumption | apply State.imgAccept_ev | apply ite_ev | apply ite_ev1 | apply ite_ev2 | apply ite_ev22 | apply ite_ev21 | dsimp only | intro _ _ _ _ | intro _ _ _ | intro _ _ | split

theorem State.chunk_ev {s0 : State} {s : State} (e : ImmEnv) (kind : Nat) (body : List Byte) (hs0 : Ev s0 s) : Ev s0 (State.chunk s e kind body).1 := by
  unfold State.chunk
  repeat' with_reducible first | assumption | apply State.imgAccept_ev | apply State.setImg_ev | apply State.stageWork_ev | apply ite_ev | apply ite_ev1 | apply ite_ev2 | apply ite_ev22 | apply ite_ev21 | dsimp only | intro _ _ _ _ | intro _ _ _ | intro _ _ | split | refine Ev.lit rfl ?_

theorem State.eraseBut_ok {s : State} (keep : Nat → Bool) (h : s.memoryOk) : (s.eraseBut keep).memoryOk :=
  { h with words := twf_tfilter (fun k _ => keep (k / 8192)) h.words }

theorem State.eraseBut_ev {s0 : State} {s : State} (keep : Nat → Bool) (hs0 : Ev s0 s) : Ev s0 (State.eraseBut s keep) :=
  Ev.mem (s := s) rfl rfl rfl rfl (State.eraseBut_ok keep) hs0

theorem State.erasePlanes_ev {s0 : State} {s : State} (hs0 : Ev s0 s) : Ev s0 (State.erasePlanes s) :=
  foldl_ev _ _ (fun _ _ k => State.setRole_ev _ _ k)
    (Ev.mem (s := s) rfl rfl rfl rfl (fun h => { h with planeA := rfl, planeB := rfl }) hs0)

theorem State.setProtLevel_ev {s0 : State} {s : State} (n : Nat) (hs0 : Ev s0 s) : Ev s0 (State.setProtLevel s n) := by
  unfold State.setProtLevel
  repeat' with_reducible first | assumption | apply State.celShow_ev | apply State.raiseDev_ev | apply ite_ev | apply ite_ev1 | apply ite_ev2 | apply ite_ev22 | apply ite_ev21 | dsimp only | refine Ev.lit rfl ?_

theorem State.lowerLevel_ev {s0 : State} {s : State} (hs0 : Ev s0 s) : Ev s0 (State.lowerLevel s) := by
  unfold State.lowerLevel
  repeat' with_reducible first | assumption | apply State.eraseBut_ev | apply State.erasePlanes_ev | apply State.setProtLevel_ev | dsimp only | refine Ev.lit rfl ?_

theorem State.retire_ev {s0 : State} {s : State} (hs0 : Ev s0 s) : Ev s0 (State.retire s) := by
  unfold State.retire
  repeat' with_reducible first | assumption | apply State.eraseBut_ev | apply State.erasePlanes_ev | apply State.setProtLevel_ev | dsimp only | refine Ev.lit rfl ?_

theorem State.modOver_ev {s0 : State} {s : State} (v : Nat) (hs0 : Ev s0 s) : Ev s0 (State.modOver s v) := by
  unfold State.modOver
  repeat' with_reducible first | assumption | apply State.setMod_ev | apply State.showSwaps_ev | apply State.wrb_ev

theorem State.restoreRegion_ev {s0 : State} {s : State} (m : ModLoad) (hs0 : Ev s0 s) : Ev s0 (State.restoreRegion s m) := by
  unfold State.restoreRegion
  repeat' with_reducible first | assumption | apply State.bump_ev | apply State.loadLive_ev | apply State.setPerr_ev | apply State.setShadow_ev | apply State.setUnrest_ev | apply State.setVol_ev | refine foldl_ev _ _ (fun _ _ _ => ?_) ?_ | refine foldl_ev1 _ _ (fun _ _ _ => ?_) ?_ | refine foldl_ev2 _ _ (fun _ _ _ => ?_) ?_ | refine foldl_ev22 _ _ (fun _ _ _ => ?_) ?_ | refine foldl_ev21 _ _ (fun _ _ _ => ?_) ?_ | dsimp only | intro _ _ _ _ | intro _ _ _ | intro _ _ | split | refine Ev.lit rfl ?_

end Sys2Proof.Machine
end

