-- ==== Sys2Proof/Laws/Keys.lean ====
section
/-! SUPPORT. The operations of Machine/Keys.lean leave the queue of commands alone and keep the invariant. -/

namespace Sys2Proof.Machine

theorem State.setKey_ev {s0 : State} {s : State} (k : Nat) (v : Option (List Byte)) (hs0 : Ev s0 s) : Ev s0 (State.setKey s k v) := by
  unfold State.setKey
  repeat' with_reducible first | assumption | refine Ev.lit rfl ?_

theorem State.keyChange_ev {s0 : State} {s : State} (k : Nat) (v : Option (List Byte)) (hs0 : Ev s0 s) : Ev s0 (State.keyChange s k v).1 := by
  unfold State.keyChange
  repeat' with_reducible first | assumption | apply State.setKey_ev | apply ite_ev | apply ite_ev1 | apply ite_ev2 | apply ite_ev22 | apply ite_ev21 | dsimp only | intro _ _ _ _ | intro _ _ _ | intro _ _ | refine Ev.lit rfl ?_

theorem State.keyOp_ev {s0 : State} {s : State} (e : ImmEnv) (op : Byte) (body : List Byte) (f : State → State × Reply) (hf : ∀ y0, Ev s0 y0 → Ev s0 (f y0).1) (hs0 : Ev s0 s) : Ev s0 (State.keyOp s e op body f) := by
  unfold State.keyOp
  repeat' with_reducible first | assumption | refine hf _ ?_ | apply State.request_ev | apply ite_ev | apply ite_ev1 | apply ite_ev2 | apply ite_ev22 | apply ite_ev21 | intro _ _ _ _ | intro _ _ _ | intro _ _

end Sys2Proof.Machine
end

