-- ==== Sys2Proof/Laws/Imm.lean ====
section
/-! SUPPORT. The operations of Machine/Imm.lean leave the queue of commands alone and keep the invariant. -/

namespace Sys2Proof.Machine


theorem runAccesses_ev {α : Type} {s0 s : State} (f : State → α → State × Status × List Byte) (l : List α)
    (hf : ∀ s x, Ev s0 s → Ev s0 (f s x).1) (h : Ev s0 s) : Ev s0 (runAccesses f s l).s := by
  unfold runAccesses
  have g : ∀ c : Course, Ev s0 c.s → Ev s0 (l.foldl (fun (c : Course) x => if c.stop.isSome then c else
      let r := f c.s x
      if r.2.1 = .okay ∨ r.2.1 = .poisoned then
        { s := r.1, n := c.n + 1, data := c.data ++ r.2.2, poison := c.poison || r.2.1 == .poisoned }
      else { c with s := r.1, stop := some (r.2.1, c.n) }) c).s := by
    induction l with
    | nil => exact fun c k => k
    | cons x l ih =>
      intro c k
      refine ih _ ?_
      dsimp only
      split
      · exact k
      · split
        · exact hf _ _ k
        · exact hf _ _ k
  exact g ⟨s, none, 0, [], false⟩ h

theorem State.openSession_ev {s0 s : State} (e : ImmEnv) (x : Handshake) (h : Ev s0 s) : Ev s0 (s.openSession e x) := by
  refine State.raiseDev_ev _ _ _ (State.respondTo_ev _ _ _ _ (State.wr_ev _ _ (State.wr_ev _ _ ?_)))
  refine State.setHost_ev _ _ (fun k => ⟨k.1, fun z m => ?_⟩) (State.closeSession_ev _ _ h)
  cases m
  show 1 ≤ 256
  omega

theorem State.accessRequest_ev {s0 : State} {s : State} (e : ImmEnv) (code : Nat) (body : List Byte) (f : State → State × Reply) (hf : ∀ y0, Ev s0 y0 → Ev s0 (f y0).1) (hs0 : Ev s0 s) : Ev s0 (State.accessRequest s e code body f) := by
  unfold State.accessRequest
  repeat' with_reducible first | assumption | refine hf _ ?_ | apply State.request_ev | apply ite_ev | apply ite_ev1 | apply ite_ev2 | apply ite_ev22 | apply ite_ev21

theorem State.immAccess_ev {s0 : State} {s : State} (v : Nat) (insp : Bool) (rq : NocRq) (hs0 : Ev s0 s) : Ev s0 (State.immAccess s v insp rq).1 := by
  unfold State.immAccess
  repeat' with_reducible first | assumption | apply State.bucketWait_ev | apply State.bump_ev | apply State.countAccess_ev | apply State.decodeRq_ev | apply State.regUse_ev | apply State.serveAccess_ev | apply State.wr_ev | apply ite_ev | apply ite_ev1 | apply ite_ev2 | apply ite_ev22 | apply ite_ev21 | dsimp only | refine Ev.lit rfl ?_

theorem State.immRead_ev {s0 : State} {s : State} (v : Nat) (insp : Bool) (a n : Nat) (hs0 : Ev s0 s) : Ev s0 (State.immRead s v insp a n).1 := by
  unfold State.immRead
  repeat' with_reducible first | assumption | apply State.immAccess_ev

theorem State.immWrite_ev {s0 : State} {s : State} (v : Nat) (insp : Bool) (a : Nat) (bs : List Byte) (hs0 : Ev s0 s) : Ev s0 (State.immWrite s v insp a bs).1 := by
  unfold State.immWrite
  repeat' with_reducible first | assumption | apply State.immAccess_ev

theorem State.setWins_ev {s0 : State} {s : State} (vats : List Nat) (ms : Nat) (hs0 : Ev s0 s) : Ev s0 (State.setWins s vats ms) := by
  unfold State.setWins
  repeat' with_reducible first | assumption | apply State.wr_ev | refine foldl_ev _ _ (fun _ _ _ => ?_) ?_ | refine foldl_ev1 _ _ (fun _ _ _ => ?_) ?_ | refine foldl_ev2 _ _ (fun _ _ _ => ?_) ?_ | refine foldl_ev22 _ _ (fun _ _ _ => ?_) ?_ | refine foldl_ev21 _ _ (fun _ _ _ => ?_) ?_ | apply ite_ev

theorem State.setArm_ev {s0 : State} {s : State} (vats : List Nat) (tb sec ns : Nat) (hs0 : Ev s0 s) : Ev s0 (State.setArm s vats tb sec ns) := by
  unfold State.setArm
  repeat' with_reducible first | assumption | apply State.wr_ev | apply ite_ev | apply ite_ev1 | apply ite_ev2 | apply ite_ev22 | apply ite_ev21 | dsimp only | split | refine Ev.lit rfl ?_

end Sys2Proof.Machine
end

