-- ==== Sys2Proof/Laws/CelReq.lean ====
section
/-! SUPPORT. The operations of Machine/CelReq.lean leave the queue of commands alone and keep the invariant. -/

namespace Sys2Proof.Machine

theorem State.celReq_ev {s0 : State} {s : State} (e : ImmEnv) (op : Byte) (body : List Byte) (f : State → State × Reply) (hf : ∀ y0, Ev s0 y0 → Ev s0 (f y0).1) (hs0 : Ev s0 s) : Ev s0 (State.celReq s e op body f) := by
  unfold State.celReq
  repeat' with_reducible first | assumption | refine hf _ ?_ | apply State.request_ev | apply ite_ev | apply ite_ev1 | apply ite_ev2 | apply ite_ev22 | apply ite_ev21 | intro _ _ _ _ | intro _ _ _ | intro _ _

theorem State.bistReq_ev {s0 : State} {s : State} (e : ImmEnv) (op : Byte) (body : List Byte) (f : State → State × Reply) (hf : ∀ y0, Ev s0 y0 → Ev s0 (f y0).1) (hs0 : Ev s0 s) : Ev s0 (State.bistReq s e op body f) := by
  unfold State.bistReq
  repeat' with_reducible first | assumption | refine hf _ ?_ | apply State.request_ev | apply ite_ev | apply ite_ev1 | apply ite_ev2 | apply ite_ev22 | apply ite_ev21 | intro _ _ _ _ | intro _ _ _ | intro _ _

end Sys2Proof.Machine
end

