-- ==== Sys2Proof/Laws/Dbg.lean ====
section
/-! SUPPORT. The operations of Machine/Dbg.lean leave the queue of commands alone and keep the invariant. -/

namespace Sys2Proof.Machine

theorem State.dbgVoid_ev {s0 : State} {s : State} (hs0 : Ev s0 s) : Ev s0 (State.dbgVoid s) := by
  unfold State.dbgVoid
  repeat' with_reducible first | assumption | refine Ev.lit rfl ?_

theorem State.dbgRead_ev {s0 : State} {s : State} (a n : Nat) (hs0 : Ev s0 s) : Ev s0 (State.dbgRead s a n).1 := by
  unfold State.dbgRead
  repeat' with_reducible first | assumption | apply State.immRead_ev | split

theorem State.dbgWrite_ev {s0 : State} {s : State} (a : Nat) (bs : List Byte) (hs0 : Ev s0 s) : Ev s0 (State.dbgWrite s a bs).1 := by
  unfold State.dbgWrite
  repeat' with_reducible first | assumption | apply State.immWrite_ev | apply State.snoopInval_ev | apply ite_ev

theorem State.runBody_ev {s0 : State} {s : State} (k : Nat) (hs0 : Ev s0 s) : Ev s0 (State.runBody s k).1 := by
  unfold State.runBody
  repeat' with_reducible first | assumption | apply State.fresh_ev | apply ite_ev | apply ite_ev1

theorem State.askCore_ev {s0 : State} {s : State} (k n : Nat) (e : ImmEnv) (hs0 : Ev s0 s) : Ev s0 (State.askCore s k n e) := by
  unfold State.askCore
  repeat' with_reducible first | assumption | refine Ev.lit rfl ?_

theorem State.dbgRun_ev {s0 : State} {s : State} (e : ImmEnv) (core action : Byte) (f : State → Nat → State × Reply) (hf : ∀ y0 y1, Ev s0 y0 → Ev s0 (f y0 y1).1) (hs0 : Ev s0 s) : Ev s0 (State.dbgRun s e core action f) := by
  unfold State.dbgRun
  repeat' with_reducible first | assumption | refine hf _ _ ?_ | apply State.request_ev | apply ite_ev | apply ite_ev1 | apply ite_ev2 | apply ite_ev22 | apply ite_ev21 | intro _ _ _ _ | intro _ _ _ | intro _ _

theorem State.haltCore_ev {s0 : State} {s : State} (k : Nat) (r : CpuRun) (hs0 : Ev s0 s) : Ev s0 (State.haltCore s k r) := by
  unfold State.haltCore
  repeat' with_reducible first | assumption | apply State.cpuRan_ev | apply State.reoffer_ev | apply State.setProc_ev | apply State.wrb_ev

theorem State.payOwed_ev {s0 : State} {s : State} (k : Nat) (hs0 : Ev s0 s) : Ev s0 (State.payOwed s k) := by
  unfold State.payOwed
  repeat' with_reducible first | assumption | apply State.respondSeq_ev | apply State.runBody_ev | dsimp only | split | refine Ev.lit rfl ?_

theorem State.dbgPut_ev {s0 : State} {s : State} (c kind n : Nat) (v : BitVec 64) (hs0 : Ev s0 s) : Ev s0 (State.dbgPut s c kind n v) := by
  unfold State.dbgPut
  repeat' with_reducible first | assumption | apply State.reoffer_ev | apply State.setProc_ev | apply State.srcSet_ev | apply ite_ev | apply ite_ev1 | apply ite_ev2 | apply ite_ev22 | apply ite_ev21 | dsimp only | split

end Sys2Proof.Machine
end

