-- ==== Sys2Proof/Laws/Frame/Access.lean ====
section
/-! SUPPORT. The frames of Machine/Access.lean: which parts of the state each operation and each command may change. -/

namespace Sys2Proof.Machine


theorem State.regAccess_only {s0 s : State} {pl : List Part} (q : Req) (f : Flit) (hl : [.regs, .ctrs, .latches, .mtime, .freeCtr, .answer, .mgt, .dbg, .logs, .irq, .clk, .noc, .span, .inject, .prbs, .dram, .procs, .cfg, .img, .churn, .fab, .slc, .mem, .time, .cel, .scr, .fen, .dma, .svc, .cores, .pwr, .lcs, .bist, .pins] ⊆ pl)
    (h : only pl s0 s) : only pl s0 (s.regAccess q f).1 := by
  unfold State.regAccess
  refine ite_only1 (pair_only ?_) (pair_only ?_)
  · exact State.busRead_only q _ _ (parts_sub (by decide) hl) h
  · exact State.busWrite_only q _ _ _ (parts_sub (by decide) hl) h

theorem execResponseArrival_only {s0 : State} {pl : List Part} (i : Fin 1024) (cycles : Nat) (x : Option CpuLoad) {s : State} (hl : [.regs, .ctrs, .mgt, .logs, .noc, .span, .procs, .cores] ⊆ pl) (hs0 : only pl s0 s) : OnlyR pl s0 (execResponseArrival i cycles x s) := by
  unfold execResponseArrival
  repeat' with_reducible first | assumption | exact parts_sub (by with_unfolding_all decide) hl | exact only.refl _ _ | apply OnlyR.next | apply ite_onlyR | apply State.bump_only | apply State.loadAnswered_only | apply State.takeResponse_only | apply ite_only | apply ite_only1 | apply ite_only2 | apply ite_only22 | apply ite_only21 | dsimp only | split | (apply only.lit <;> first | exact Or.inr rfl | exact Or.inl (parts_mem hl (by with_unfolding_all decide)) | skip) | refine only.eq2 (by assumption) ?_ | refine only.eq22 (by assumption) ?_ | refine only.eq1 (by assumption) ?_

theorem execInitiatorTimeout_only {s0 : State} {pl : List Part} (i t : Fin 1024) (x : Option CpuLoad) {s : State} (hl : [.ctrs, .mgt, .logs, .noc, .procs, .cores] ⊆ pl) (hs0 : only pl s0 s) : OnlyR pl s0 (execInitiatorTimeout i t x s) := by
  unfold execInitiatorTimeout
  repeat' with_reducible first | assumption | exact parts_sub (by with_unfolding_all decide) hl | exact only.refl _ _ | apply OnlyR.next | apply ite_onlyR | apply State.bump_only | apply State.deliver_only | apply State.loadAnswered_only | apply State.setTag_only | apply ite_only | apply ite_only1 | apply ite_only2 | apply ite_only22 | apply ite_only21 | dsimp only | split | (apply only.lit <;> first | exact Or.inr rfl | exact Or.inl (parts_mem hl (by with_unfolding_all decide)) | skip) | refine only.eq2 (by assumption) ?_ | refine only.eq22 (by assumption) ?_ | refine only.eq1 (by assumption) ?_

theorem State.bucketWait_only {s0 : State} {pl : List Part} {s : State} (i : Nat) (hl : [.ctrs, .freeCtr, .mgt, .logs, .noc] ⊆ pl) (hs0 : only pl s0 s) : only pl s0 (State.bucketWait s i) := by
  unfold State.bucketWait
  repeat' with_reducible first | assumption | exact parts_sub (by with_unfolding_all decide) hl | apply State.bump_only | apply State.fresh_only | apply ite_only | apply ite_only1 | apply ite_only2 | apply ite_only22 | apply ite_only21 | dsimp only | split | (apply only.lit <;> first | exact Or.inr rfl | exact Or.inl (parts_mem hl (by with_unfolding_all decide)) | skip) | refine only.eq2 (by assumption) ?_ | refine only.eq22 (by assumption) ?_ | refine only.eq1 (by assumption) ?_

theorem State.farAccess_only {s0 : State} {pl : List Part} {s : State} (f : Flit) (free : State → State × Status × BitVec 512) (hfree : ∀ y0, only pl s0 y0 → only pl s0 (free y0).1) (hl : [.ctrs, .mgt, .logs, .span] ⊆ pl) (hs0 : only pl s0 s) : only pl s0 (State.farAccess s f free).1 := by
  unfold State.farAccess
  repeat' with_reducible first | assumption | exact parts_sub (by with_unfolding_all decide) hl | refine hfree _ ?_ | apply State.spanQueue_only | apply ite_only | apply ite_only1 | apply ite_only2 | apply ite_only22 | apply ite_only21 | dsimp only

theorem State.serveStored_only {s0 : State} {pl : List Part} {s : State} (n : Nat) (q : DReq) (hl : [.regs, .ctrs, .freeCtr, .mgt, .logs, .irq, .noc, .span, .dram] ⊆ pl) (hs0 : only pl s0 s) : only pl s0 (State.serveStored s n q) := by
  unfold State.serveStored
  repeat' with_reducible first | assumption | exact parts_sub (by with_unfolding_all decide) hl | apply State.answerDram_only | apply State.bump_only | apply State.readLine_only | apply State.storeLine_only | apply State.wr_only | apply ite_only | apply ite_only1 | apply ite_only2 | apply ite_only22 | apply ite_only21 | dsimp only

theorem State.flushLine_only {s0 : State} {pl : List Part} {s : State} (n line : Nat) (hl : [.regs, .ctrs, .freeCtr, .mgt, .logs, .irq, .noc, .span, .dram] ⊆ pl) (hs0 : only pl s0 s) : only pl s0 (State.flushLine s n line) := by
  unfold State.flushLine
  repeat' with_reducible first | assumption | exact parts_sub (by with_unfolding_all decide) hl | apply State.serveStored_only | apply State.setChan_only | refine foldl_only _ _ (fun _ _ _ => ?_) ?_

theorem State.dramAccess_only {s0 : State} {pl : List Part} {s : State} (f : Flit) (vat : Nat) (hl : [.regs, .ctrs, .freeCtr, .mgt, .logs, .irq, .noc, .span, .dram] ⊆ pl) (hs0 : only pl s0 s) : only pl s0 (State.dramAccess s f vat).1 := by
  unfold State.dramAccess
  repeat' with_reducible first | assumption | exact parts_sub (by with_unfolding_all decide) hl | apply State.bump_only | apply State.fillBars_only | apply State.flushLine_only | apply State.readLine_only | apply State.setChan_only | apply State.storeLine_only | apply ite_only | apply ite_only1 | apply ite_only2 | apply ite_only22 | apply ite_only21 | dsimp only | (apply only.lit <;> first | exact Or.inr rfl | exact Or.inl (parts_mem hl (by with_unfolding_all decide)) | skip)

theorem State.serveAccess_only {s0 : State} {pl : List Part} {s : State} (q : Req) (f : Flit) (hl : [.regs, .ctrs, .latches, .mtime, .freeCtr, .answer, .mgt, .dbg, .logs, .irq, .clk, .noc, .span, .inject, .prbs, .dram, .procs, .cfg, .img, .churn, .fab, .slc, .mem, .time, .cel, .scr, .fen, .dma, .svc, .cores, .pwr, .lcs, .bist, .pins] ⊆ pl) (hs0 : only pl s0 s) : only pl s0 (State.serveAccess s q f).1 := by
  unfold State.serveAccess
  repeat' with_reducible first | assumption | exact parts_sub (by with_unfolding_all decide) hl | apply State.bump_only | apply State.celSuspends_only | apply State.dmNoc_only | apply State.dramAccess_only | apply State.farAccess_only | apply State.fresh_only | apply State.regAccess_only | apply State.scrServe_only | apply ite_only | apply ite_only1 | apply ite_only2 | apply ite_only22 | apply ite_only21 | dsimp only | intro _ _ _ _ | intro _ _ _ | intro _ _ | split | (apply only.lit <;> first | exact Or.inr rfl | exact Or.inl (parts_mem hl (by with_unfolding_all decide)) | skip) | refine only.eq2 (by assumption) ?_ | refine only.eq22 (by assumption) ?_ | refine only.eq1 (by assumption) ?_

theorem State.countAccess_only {s0 : State} {pl : List Part} {s : State} (i : Nat) (wr : Bool) (n : Nat) (st : Status) (hl : [.regs, .ctrs, .freeCtr, .mgt, .logs, .noc] ⊆ pl) (hs0 : only pl s0 s) : only pl s0 (State.countAccess s i wr n st) := by
  unfold State.countAccess
  repeat' with_reducible first | assumption | exact parts_sub (by with_unfolding_all decide) hl | apply State.bump_only | apply State.fresh_only | apply State.latency_only | apply State.setTag_only | apply State.wr_only | apply ite_only | apply ite_only1 | apply ite_only2 | apply ite_only22 | apply ite_only21 | dsimp only | (apply only.lit <;> first | exact Or.inr rfl | exact Or.inl (parts_mem hl (by with_unfolding_all decide)) | skip)

theorem State.memAccess_only {s0 : State} {pl : List Part} {s : State} (q : Req) (rq : NocRq) (hl : [.regs, .ctrs, .latches, .mtime, .freeCtr, .answer, .mgt, .dbg, .logs, .irq, .clk, .noc, .span, .inject, .prbs, .dram, .procs, .cfg, .img, .churn, .fab, .slc, .mem, .time, .cel, .scr, .fen, .dma, .svc, .cores, .pwr, .lcs, .bist, .pins] ⊆ pl) (hs0 : only pl s0 s) : only pl s0 (State.memAccess s q rq).1 := by
  unfold State.memAccess
  repeat' with_reducible first | assumption | exact parts_sub (by with_unfolding_all decide) hl | apply State.bucketWait_only | apply State.bump_only | apply State.countAccess_only | apply State.decodeRq_only | apply State.regUse_only | apply State.serveAccess_only | apply State.wr_only | apply ite_only | apply ite_only1 | apply ite_only2 | apply ite_only22 | apply ite_only21 | dsimp only

theorem State.memRead_only {s0 : State} {pl : List Part} {s : State} (q : Req) (a n : Nat) (qos : Fin 4) (hl : [.regs, .ctrs, .latches, .mtime, .freeCtr, .answer, .mgt, .dbg, .logs, .irq, .clk, .noc, .span, .inject, .prbs, .dram, .procs, .cfg, .img, .churn, .fab, .slc, .mem, .time, .cel, .scr, .fen, .dma, .svc, .cores, .pwr, .lcs, .bist, .pins] ⊆ pl) (hs0 : only pl s0 s) : only pl s0 (State.memRead s q a n qos).1 := by
  unfold State.memRead
  repeat' with_reducible first | assumption | exact parts_sub (by with_unfolding_all decide) hl | apply State.memAccess_only

theorem State.memWrite_only {s0 : State} {pl : List Part} {s : State} (q : Req) (a : Nat) (bs : List Byte) (poison : Bool) (qos : Fin 4) (hl : [.regs, .ctrs, .latches, .mtime, .freeCtr, .answer, .mgt, .dbg, .logs, .irq, .clk, .noc, .span, .inject, .prbs, .dram, .procs, .cfg, .img, .churn, .fab, .slc, .mem, .time, .cel, .scr, .fen, .dma, .svc, .cores, .pwr, .lcs, .bist, .pins] ⊆ pl) (hs0 : only pl s0 s) : only pl s0 (State.memWrite s q a bs poison qos).1 := by
  unfold State.memWrite
  repeat' with_reducible first | assumption | exact parts_sub (by with_unfolding_all decide) hl | apply State.memAccess_only

theorem State.memReads_only {s0 : State} {pl : List Part} {s : State} (q : Req) (a n : Nat) (qos : Fin 4) (hl : [.regs, .ctrs, .latches, .mtime, .freeCtr, .answer, .mgt, .dbg, .logs, .irq, .clk, .noc, .span, .inject, .prbs, .dram, .procs, .cfg, .img, .churn, .fab, .slc, .mem, .time, .cel, .scr, .fen, .dma, .svc, .cores, .pwr, .lcs, .bist, .pins] ⊆ pl) (hs0 : only pl s0 s) : only pl s0 (State.memReads s q a n qos).1 := by
  unfold State.memReads
  repeat' with_reducible first | assumption | exact parts_sub (by with_unfolding_all decide) hl | apply State.memRead_only | refine foldl_only _ _ (fun _ _ _ => ?_) ?_ | refine foldl_only1 _ _ (fun _ _ _ => ?_) ?_ | refine foldl_only2 _ _ (fun _ _ _ => ?_) ?_ | refine foldl_only22 _ _ (fun _ _ _ => ?_) ?_ | refine foldl_only21 _ _ (fun _ _ _ => ?_) ?_ | apply ite_only | apply ite_only1

theorem State.memWrites_only {s0 : State} {pl : List Part} {s : State} (q : Req) (a : Nat) (bs : List Byte) (poison : Bool) (qos : Fin 4) (hl : [.regs, .ctrs, .latches, .mtime, .freeCtr, .answer, .mgt, .dbg, .logs, .irq, .clk, .noc, .span, .inject, .prbs, .dram, .procs, .cfg, .img, .churn, .fab, .slc, .mem, .time, .cel, .scr, .fen, .dma, .svc, .cores, .pwr, .lcs, .bist, .pins] ⊆ pl) (hs0 : only pl s0 s) : only pl s0 (State.memWrites s q a bs poison qos).1 := by
  unfold State.memWrites
  repeat' with_reducible first | assumption | exact parts_sub (by with_unfolding_all decide) hl | apply State.memWrite_only | refine foldl_only _ _ (fun _ _ _ => ?_) ?_ | refine foldl_only1 _ _ (fun _ _ _ => ?_) ?_ | refine foldl_only2 _ _ (fun _ _ _ => ?_) ?_ | refine foldl_only22 _ _ (fun _ _ _ => ?_) ?_ | refine foldl_only21 _ _ (fun _ _ _ => ?_) ?_ | apply ite_only | apply ite_only1

end Sys2Proof.Machine
end

