-- ==== Sys2Proof/Laws/Frame/DmaRun.lean ====
section
/-! SUPPORT. The frames of Machine/DmaRun.lean: which parts of the state each operation and each command may change. -/

namespace Sys2Proof.Machine


theorem State.snoopRead_only {s0 : State} {pl : List Part} {s : State} (q : Req) (a n : Nat) (qos : Fin 4) (hl : [.regs, .ctrs, .latches, .mtime, .freeCtr, .answer, .mgt, .dbg, .logs, .irq, .clk, .noc, .span, .inject, .prbs, .dram, .procs, .cfg, .img, .churn, .fab, .slc, .mem, .time, .cel, .scr, .fen, .dma, .svc, .cores, .pwr, .lcs, .bist, .pins] ⊆ pl) (hs0 : only pl s0 s) : only pl s0 (State.snoopRead s q a n qos).1 := by
  unfold State.snoopRead
  repeat' with_reducible first | assumption | exact parts_sub (by with_unfolding_all decide) hl | apply State.memRead_only | split

theorem State.snoopInval_only {s0 : State} {pl : List Part} {s : State} (a : Nat) (hl : [.cores] ⊆ pl) (hs0 : only pl s0 s) : only pl s0 (State.snoopInval s a) := by
  unfold State.snoopInval
  repeat' with_reducible first | assumption | exact parts_sub (by with_unfolding_all decide) hl | refine foldl_only _ _ (fun _ _ _ => ?_) ?_ | refine foldl_only1 _ _ (fun _ _ _ => ?_) ?_ | refine foldl_only2 _ _ (fun _ _ _ => ?_) ?_ | refine foldl_only22 _ _ (fun _ _ _ => ?_) ?_ | refine foldl_only21 _ _ (fun _ _ _ => ?_) ?_ | apply ite_only | apply ite_only1 | apply ite_only2 | apply ite_only22 | apply ite_only21 | dsimp only | intro _ _ _ _ | intro _ _ _ | intro _ _ | (apply only.lit <;> first | exact Or.inl (parts_mem hl (by with_unfolding_all decide)) | exact Or.inr rfl | skip)

theorem State.dmaPiece_only {s0 : State} {pl : List Part} {s : State} (c : Nat) (q : Req) (d : DmaDesc) (p : Nat × Nat) (hl : [.regs, .ctrs, .latches, .mtime, .freeCtr, .answer, .mgt, .dbg, .logs, .irq, .clk, .noc, .span, .inject, .prbs, .dram, .procs, .cfg, .img, .churn, .fab, .slc, .mem, .time, .cel, .scr, .fen, .dma, .svc, .cores, .pwr, .lcs, .bist, .pins] ⊆ pl) (hs0 : only pl s0 s) : only pl s0 (State.dmaPiece s c q d p).1 := by
  unfold State.dmaPiece
  repeat' with_reducible first | assumption | exact parts_sub (by with_unfolding_all decide) hl | apply State.bump_only | apply State.memRead_only | apply State.memWrite_only | apply State.snoopInval_only | apply State.snoopRead_only | apply ite_only | apply ite_only1

theorem State.dmaMove_only {s0 : State} {pl : List Part} {s : State} (c : Nat) (q : Req) (d : DmaDesc) (hl : [.regs, .ctrs, .latches, .mtime, .freeCtr, .answer, .mgt, .dbg, .logs, .irq, .clk, .noc, .span, .inject, .prbs, .dram, .procs, .cfg, .img, .churn, .fab, .slc, .mem, .time, .cel, .scr, .fen, .dma, .svc, .cores, .pwr, .lcs, .bist, .pins] ⊆ pl) (hs0 : only pl s0 s) : only pl s0 (State.dmaMove s c q d).1 := by
  unfold State.dmaMove
  repeat' with_reducible first | assumption | exact parts_sub (by with_unfolding_all decide) hl | apply State.dmaPiece_only | refine foldl_only _ _ (fun _ _ _ => ?_) ?_ | refine foldl_only1 _ _ (fun _ _ _ => ?_) ?_ | refine foldl_only2 _ _ (fun _ _ _ => ?_) ?_ | refine foldl_only22 _ _ (fun _ _ _ => ?_) ?_ | refine foldl_only21 _ _ (fun _ _ _ => ?_) ?_ | apply ite_only | apply ite_only1

theorem State.dmaBack_only {s0 : State} {pl : List Part} {s : State} (q : Req) (a w5 result : Nat) (hl : [.regs, .ctrs, .latches, .mtime, .freeCtr, .answer, .mgt, .dbg, .logs, .irq, .clk, .noc, .span, .inject, .prbs, .dram, .procs, .cfg, .img, .churn, .fab, .slc, .mem, .time, .cel, .scr, .fen, .dma, .svc, .cores, .pwr, .lcs, .bist, .pins] ⊆ pl) (hs0 : only pl s0 s) : only pl s0 (State.dmaBack s q a w5 result).1 := by
  unfold State.dmaBack
  repeat' with_reducible first | assumption | exact parts_sub (by with_unfolding_all decide) hl | apply State.memWrite_only

end Sys2Proof.Machine
end

