-- ==== Sys2Proof/Laws/Frame/Images.lean ====
section
/-! SUPPORT. The frames of Machine/Images.lean: which parts of the state each operation and each command may change. -/

namespace Sys2Proof.Machine


theorem State.setImg_only {s0 : State} {pl : List Part} {s : State} (e : Nat) (o : Option ImgOp) (hl : [.img] ⊆ pl) (hs0 : only pl s0 s) : only pl s0 (State.setImg s e o) := by
  unfold State.setImg
  repeat' with_reducible first | assumption | exact parts_sub (by with_unfolding_all decide) hl | apply ite_only | apply ite_only1 | apply ite_only2 | apply ite_only22 | apply ite_only21 | (apply only.lit <;> first | exact Or.inl (parts_mem hl (by with_unfolding_all decide)) | exact Or.inr rfl | skip)

theorem State.imgFetch_only {s0 : State} {pl : List Part} {s : State} (o : ImgOp) (n : Nat) (hl : [.regs, .ctrs, .latches, .mtime, .freeCtr, .answer, .mgt, .dbg, .logs, .irq, .clk, .noc, .span, .inject, .prbs, .dram, .procs, .cfg, .img, .churn, .fab, .slc, .mem, .time, .cel, .scr, .fen, .dma, .svc, .cores, .pwr, .lcs, .bist, .pins] ⊆ pl) (hs0 : only pl s0 s) : only pl s0 (State.imgFetch s o n).1 := by
  unfold State.imgFetch
  repeat' with_reducible first | assumption | exact parts_sub (by with_unfolding_all decide) hl | apply State.celSuspends_only | apply State.memReads_only | apply ite_only | apply ite_only1 | apply ite_only2 | apply ite_only22 | apply ite_only21 | dsimp only | split | (apply only.lit <;> first | exact Or.inr rfl | exact Or.inl (parts_mem hl (by with_unfolding_all decide)) | skip) | refine only.eq2 (by assumption) ?_ | refine only.eq22 (by assumption) ?_ | refine only.eq1 (by assumption) ?_

theorem State.respondSeq_only {s0 : State} {pl : List Part} {s : State} (h code rseq : Nat) (body : List Byte) (hl : [.ctrs, .mgt, .logs] ⊆ pl) (hs0 : only pl s0 s) : only pl s0 (State.respondSeq s h code rseq body) := by
  unfold State.respondSeq
  repeat' with_reducible first | assumption | exact parts_sub (by with_unfolding_all decide) hl | apply State.sendMsg_only | apply State.setHost_only | apply ite_only | apply ite_only1 | apply ite_only2 | apply ite_only22 | apply ite_only21 | dsimp only | intro _ _ _ _ | intro _ _ _ | intro _ _ | split

theorem State.bootFrom_only {s0 s : State} {pl : List Part} (l : List Nat) (i : Nat) (hl : [.regs, .ctrs, .latches, .freeCtr, .mgt, .logs, .irq, .noc, .cfg, .img, .churn, .fab, .slc, .mem, .cel, .scr, .dma, .bist, .pins] ⊆ pl)
    (h : only pl s0 s) : only pl s0 (s.bootFrom l i) := by
  have lit : ∀ (u : State) (x : ImgSt), only pl s0 u → only pl s0 ({ u with img := x } : State) := fun u x k => by
    apply only.lit <;> first | exact Or.inl (parts_mem hl (by decide)) | exact Or.inr rfl | exact k
  induction l generalizing s i with
  | nil =>
    unfold State.bootFrom
    exact State.enterFallback_only (parts_sub (by decide) hl) (lit _ _ h)
  | cons k l ih =>
    unfold State.bootFrom
    refine ite_only (State.wr_only _ _ (parts_sub (by decide) hl) (lit _ _ h)) (ih _ (State.raiseVat_only _ _ _ _
      (parts_sub (by decide) hl) (State.bump_only _ _ (parts_sub (by decide) hl)
        (State.wr_only _ _ (parts_sub (by decide) hl) (State.wr_only _ _ (parts_sub (by decide) hl) h)))))

theorem State.bootNext_only {s0 : State} {pl : List Part} {s : State} (hl : [.regs, .ctrs, .latches, .freeCtr, .mgt, .logs, .irq, .noc, .cfg, .img, .churn, .fab, .slc, .mem, .cel, .scr, .dma, .bist, .pins] ⊆ pl) (hs0 : only pl s0 s) : only pl s0 (State.bootNext s) := by
  unfold State.bootNext
  repeat' with_reducible first | assumption | exact parts_sub (by with_unfolding_all decide) hl | apply State.bootFrom_only

theorem State.endCommit_only {s0 : State} {pl : List Part} {s : State} (o : ImgOp) (hl : [.regs, .ctrs, .latches, .freeCtr, .mgt, .logs, .irq, .noc, .cfg, .img, .churn, .fab, .slc, .mem, .cel, .scr, .dma, .bist, .pins] ⊆ pl) (hs0 : only pl s0 s) : only pl s0 (State.endCommit s o) := by
  unfold State.endCommit
  repeat' with_reducible first | assumption | exact parts_sub (by with_unfolding_all decide) hl | apply State.opRun_only | apply State.opStat_only | dsimp only | split

theorem State.rejectOp_only {s0 : State} {pl : List Part} {s : State} (o : ImgOp) (reason : Nat) (hl : [.regs, .ctrs, .latches, .freeCtr, .mgt, .logs, .irq, .noc, .cfg, .img, .churn, .fab, .slc, .mem, .cel, .scr, .dma, .bist, .pins] ⊆ pl) (hs0 : only pl s0 s) : only pl s0 (State.rejectOp s o reason) := by
  unfold State.rejectOp
  repeat' with_reducible first | assumption | exact parts_sub (by with_unfolding_all decide) hl | apply State.bootNext_only | apply State.bump_only | apply State.endCommit_only | apply State.raiseAt_only | apply State.raiseVat_only | apply State.respondSeq_only | apply State.wr_only | apply ite_only | apply ite_only1 | apply ite_only2 | apply ite_only22 | apply ite_only21 | dsimp only | split | (apply only.lit <;> first | exact Or.inr rfl | exact Or.inl (parts_mem hl (by with_unfolding_all decide)) | skip) | refine only.eq2 (by assumption) ?_ | refine only.eq22 (by assumption) ?_ | refine only.eq1 (by assumption) ?_

theorem State.imgReject_only {s0 : State} {pl : List Part} {s : State} (o : ImgOp) (reason : Nat) (hl : [.regs, .ctrs, .latches, .freeCtr, .mgt, .logs, .irq, .noc, .cfg, .img, .churn, .fab, .slc, .mem, .cel, .scr, .dma, .bist, .pins] ⊆ pl) (hs0 : only pl s0 s) : only pl s0 (State.imgReject s o reason) := by
  unfold State.imgReject
  repeat' with_reducible first | assumption | exact parts_sub (by with_unfolding_all decide) hl | apply State.modFail_only | apply State.rejectOp_only | apply ite_only | apply ite_only1 | apply ite_only2 | apply ite_only22 | apply ite_only21 | split

theorem State.rejectFree_only {s0 : State} {pl : List Part} {s : State} (o : ImgOp) (hl : [.regs, .ctrs, .latches, .freeCtr, .mgt, .logs, .irq, .noc, .cfg, .img, .churn, .fab, .slc, .mem, .cel, .scr, .dma, .bist, .pins] ⊆ pl) (hs0 : only pl s0 s) : only pl s0 (State.rejectFree s o) := by
  unfold State.rejectFree
  repeat' with_reducible first | assumption | exact parts_sub (by with_unfolding_all decide) hl | apply State.fresh_only | apply State.imgReject_only | dsimp only

theorem State.stageGo_only {s0 : State} {pl : List Part} {s : State} (hl : [.regs, .ctrs, .latches, .freeCtr, .mgt, .logs, .irq, .noc, .cfg, .img, .churn, .fab, .slc, .mem, .cel, .scr, .dma, .bist, .pins] ⊆ pl) (hs0 : only pl s0 s) : only pl s0 (State.stageGo s) := by
  unfold State.stageGo
  repeat' with_reducible first | assumption | exact parts_sub (by with_unfolding_all decide) hl | apply State.celStart_only | apply State.rejectOp_only | apply ite_only | apply ite_only1 | apply ite_only2 | apply ite_only22 | apply ite_only21 | dsimp only | split | (apply only.lit <;> first | exact Or.inr rfl | exact Or.inl (parts_mem hl (by with_unfolding_all decide)) | skip) | refine only.eq2 (by assumption) ?_ | refine only.eq22 (by assumption) ?_ | refine only.eq1 (by assumption) ?_

theorem State.stageWork_only {s0 : State} {pl : List Part} {s : State} (l : List CelOp) (hl : [.regs, .ctrs, .latches, .freeCtr, .mgt, .logs, .irq, .noc, .cfg, .img, .churn, .fab, .slc, .mem, .cel, .scr, .dma, .bist, .pins] ⊆ pl) (hs0 : only pl s0 s) : only pl s0 (State.stageWork s l) := by
  unfold State.stageWork
  repeat' with_reducible first | assumption | exact parts_sub (by with_unfolding_all decide) hl | apply State.stageGo_only | (apply only.lit <;> first | exact Or.inr rfl | exact Or.inl (parts_mem hl (by with_unfolding_all decide)) | skip)

theorem State.stageDone_only {s0 : State} {pl : List Part} {s : State} (result : Nat) (hl : [.regs, .ctrs, .latches, .freeCtr, .mgt, .logs, .irq, .noc, .cfg, .img, .churn, .fab, .slc, .mem, .cel, .scr, .dma, .bist, .pins] ⊆ pl) (hs0 : only pl s0 s) : only pl s0 (State.stageDone s result) := by
  unfold State.stageDone
  repeat' with_reducible first | assumption | exact parts_sub (by with_unfolding_all decide) hl | apply State.rejectOp_only | apply State.stageGo_only | apply ite_only | apply ite_only1 | apply ite_only2 | apply ite_only22 | apply ite_only21 | dsimp only | split | (apply only.lit <;> first | exact Or.inr rfl | exact Or.inl (parts_mem hl (by with_unfolding_all decide)) | skip) | refine only.eq2 (by assumption) ?_ | refine only.eq22 (by assumption) ?_ | refine only.eq1 (by assumption) ?_

theorem execCellarCommandDone_only {s0 : State} {pl : List Part} (b : Fin 4) (ok : Bool) {s : State} (hl : [.regs, .ctrs, .latches, .freeCtr, .mgt, .logs, .irq, .noc, .cfg, .img, .churn, .fab, .slc, .mem, .cel, .scr, .dma, .bist, .pins] ⊆ pl) (hs0 : only pl s0 s) : OnlyR pl s0 (execCellarCommandDone b ok s) := by
  unfold execCellarCommandDone
  repeat' with_reducible first | assumption | exact parts_sub (by with_unfolding_all decide) hl | exact only.refl _ _ | apply OnlyR.next | apply ite_onlyR | apply State.commandDone_only | apply State.stageDone_only | dsimp only | split | (apply only.lit <;> first | exact Or.inr rfl | exact Or.inl (parts_mem hl (by with_unfolding_all decide)) | skip) | refine only.eq2 (by assumption) ?_ | refine only.eq22 (by assumption) ?_ | refine only.eq1 (by assumption) ?_

theorem State.putSources_only {s0 : State} {pl : List Part} {s : State} (o : ImgOp) (h : Hdr) (hl : [.cel] ⊆ pl) (hs0 : only pl s0 s) : only pl s0 (State.putSources s o h) := by
  unfold State.putSources
  repeat' with_reducible first | assumption | exact parts_sub (by with_unfolding_all decide) hl | apply State.bootUpdate_only

theorem State.commitEnds_only {s0 : State} {pl : List Part} {s : State} (o : ImgOp) (h : Hdr) (hl : [.regs, .ctrs, .latches, .freeCtr, .mgt, .logs, .irq, .noc, .cfg, .img, .churn, .fab, .slc, .mem, .cel, .scr, .dma, .bist, .pins] ⊆ pl) (hs0 : only pl s0 s) : only pl s0 (State.commitEnds s o h) := by
  unfold State.commitEnds
  repeat' with_reducible first | assumption | exact parts_sub (by with_unfolding_all decide) hl | apply State.bootNext_only | apply State.bump_only | apply State.commitDone_only | apply State.orderOp_only | apply State.raiseVat_only | apply State.wr_only | apply ite_only | apply ite_only1 | apply ite_only2 | apply ite_only22 | apply ite_only21 | dsimp only | (apply only.lit <;> first | exact Or.inr rfl | exact Or.inl (parts_mem hl (by with_unfolding_all decide)) | skip)

theorem State.imgEnds_only {s0 : State} {pl : List Part} {s : State} (o : ImgOp) (h : Hdr) (hl : [.regs, .ctrs, .latches, .freeCtr, .mgt, .logs, .irq, .noc, .cfg, .img, .churn, .fab, .slc, .mem, .cel, .scr, .dma, .bist, .pins] ⊆ pl) (hs0 : only pl s0 s) : only pl s0 (State.imgEnds s o h) := by
  unfold State.imgEnds
  repeat' with_reducible first | assumption | exact parts_sub (by with_unfolding_all decide) hl | apply State.commitEnds_only | apply State.respondSeq_only | apply State.stageWork_only | apply ite_only | apply ite_only1 | apply ite_only2 | apply ite_only22 | apply ite_only21 | (apply only.lit <;> first | exact Or.inr rfl | exact Or.inl (parts_mem hl (by with_unfolding_all decide)) | skip)

theorem State.fsecPassed_only {s0 : State} {pl : List Part} {s : State} (e : Nat) (o : ImgOp) (h : Hdr) (hl : [.regs, .ctrs, .latches, .freeCtr, .mgt, .logs, .irq, .noc, .cfg, .img, .churn, .fab, .slc, .mem, .cel, .scr, .dma, .bist, .pins] ⊆ pl) (hs0 : only pl s0 s) : only pl s0 (State.fsecPassed s e o h) := by
  unfold State.fsecPassed
  repeat' with_reducible first | assumption | exact parts_sub (by with_unfolding_all decide) hl | apply State.imgReject_only | apply State.orderOp_only | apply State.putSources_only | apply State.setImg_only | apply ite_only | apply ite_only1 | apply ite_only2 | apply ite_only22 | apply ite_only21 | dsimp only | (apply only.lit <;> first | exact Or.inr rfl | exact Or.inl (parts_mem hl (by with_unfolding_all decide)) | skip)

theorem State.imgSettle_only {s0 : State} {pl : List Part} {s : State} (e : Nat) (o : ImgOp) (hl : [.regs, .ctrs, .latches, .freeCtr, .mgt, .logs, .irq, .noc, .cfg, .img, .churn, .fab, .slc, .mem, .cel, .scr, .dma, .bist, .pins] ⊆ pl) (hs0 : only pl s0 s) : only pl s0 (State.imgSettle s e o) := by
  unfold State.imgSettle
  repeat' with_reducible first | assumption | exact parts_sub (by with_unfolding_all decide) hl | apply State.fsecPassed_only | apply State.imgReject_only | apply State.setImg_only | apply ite_only | apply ite_only1 | apply ite_only2 | apply ite_only22 | apply ite_only21 | dsimp only | intro _ _ _ _ | intro _ _ _ | intro _ _ | split

theorem State.imgRetries_only {s0 : State} {pl : List Part} {s : State} (o : ImgOp) (env : RecEnv) (ok : Bool) (hl : [.ctrs, .mgt, .logs] ⊆ pl) (hs0 : only pl s0 s) : only pl s0 (State.imgRetries s o env ok) := by
  unfold State.imgRetries
  repeat' with_reducible first | assumption | exact parts_sub (by with_unfolding_all decide) hl | apply State.bump_only | apply ite_only

theorem State.withRecord_only {s0 : State} {pl : List Part} {s : State} (o : ImgOp) (env : RecEnv) (fixed : Option Nat) (stop : Nat) (route : Nat → Bool) (f : State → ImgOp → Rec → State) (hf : ∀ y0 y1 y2, only pl s0 y0 → only pl s0 (f y0 y1 y2)) (hl : [.regs, .ctrs, .latches, .mtime, .freeCtr, .answer, .mgt, .dbg, .logs, .irq, .clk, .noc, .span, .inject, .prbs, .dram, .procs, .cfg, .img, .churn, .fab, .slc, .mem, .time, .cel, .scr, .fen, .dma, .svc, .cores, .pwr, .lcs, .bist, .pins] ⊆ pl) (hs0 : only pl s0 s) : only pl s0 (State.withRecord s o env fixed stop route f) := by
  unfold State.withRecord
  repeat' with_reducible first | assumption | exact parts_sub (by with_unfolding_all decide) hl | refine hf _ _ _ ?_ | apply State.imgFetch_only | apply State.imgReject_only | apply State.imgRetries_only | apply State.rejectFree_only | apply ite_only | apply ite_only1 | apply ite_only2 | apply ite_only22 | apply ite_only21 | dsimp only | intro _ _ _ _ | intro _ _ _ | intro _ _ | split

theorem execSignatureVerified_only {s0 : State} {pl : List Part} (e : Fin 2) {s : State} (hl : [.regs, .ctrs, .latches, .freeCtr, .mgt, .logs, .irq, .noc, .cfg, .img, .churn, .fab, .slc, .mem, .cel, .scr, .dma, .bist, .pins] ⊆ pl) (hs0 : only pl s0 s) : OnlyR pl s0 (execSignatureVerified e s) := by
  unfold execSignatureVerified
  repeat' with_reducible first | assumption | exact parts_sub (by with_unfolding_all decide) hl | exact only.refl _ _ | apply OnlyR.next | apply ite_onlyR | apply State.imgReject_only | apply State.imgSettle_only | apply State.orderOp_only | apply ite_only | apply ite_only1 | apply ite_only2 | apply ite_only22 | apply ite_only21 | dsimp only | split | (apply only.lit <;> first | exact Or.inr rfl | exact Or.inl (parts_mem hl (by with_unfolding_all decide)) | skip) | refine only.eq2 (by assumption) ?_ | refine only.eq22 (by assumption) ?_ | refine only.eq1 (by assumption) ?_

theorem State.modHold_only {s0 : State} {pl : List Part} {s : State} (hl : [.regs, .cfg, .churn, .fab] ⊆ pl) (hs0 : only pl s0 s) : only pl s0 (State.modHold s) := by
  unfold State.modHold
  repeat' with_reducible first | assumption | exact parts_sub (by with_unfolding_all decide) hl | apply State.dropRepairs_only | apply State.holdTiles_only | apply State.setMod_only | apply State.wrb_only | apply ite_only | apply ite_only1 | apply ite_only2 | apply ite_only22 | apply ite_only21 | dsimp only | intro _ _ _ _ | intro _ _ _ | intro _ _ | split | (apply only.lit <;> first | exact Or.inr rfl | exact Or.inl (parts_mem hl (by with_unfolding_all decide)) | skip) | refine only.eq2 (by assumption) ?_ | refine only.eq22 (by assumption) ?_ | refine only.eq1 (by assumption) ?_

theorem State.imgWrite_only {s0 : State} {pl : List Part} {s : State} (o : ImgOp) (h : Hdr) (n : Nat) (f : Frame) (hl : [.regs, .cfg, .churn, .fab, .slc] ⊆ pl) (hs0 : only pl s0 s) : only pl s0 (State.imgWrite s o h n f) := by
  unfold State.imgWrite
  repeat' with_reducible first | assumption | exact parts_sub (by with_unfolding_all decide) hl | apply State.loadLive_only | apply State.modHold_only | apply State.setMod_only | apply State.setPerr_only | apply State.setPlane_only | apply State.setUnrest_only | apply ite_only | apply ite_only1 | apply ite_only2 | apply ite_only22 | apply ite_only21 | dsimp only | intro _ _ _ _ | intro _ _ _ | intro _ _ | split | (apply only.lit <;> first | exact Or.inr rfl | exact Or.inl (parts_mem hl (by with_unfolding_all decide)) | skip) | refine only.eq2 (by assumption) ?_ | refine only.eq22 (by assumption) ?_ | refine only.eq1 (by assumption) ?_

theorem State.frameWrite_only {s0 : State} {pl : List Part} {s : State} (o : ImgOp) (h : Hdr) (n : Nat) (f : Frame) (fails : Nat) (hl : [.regs, .ctrs, .freeCtr, .mgt, .logs, .cfg, .churn, .fab, .slc] ⊆ pl) (hs0 : only pl s0 s) : only pl s0 (State.frameWrite s o h n f fails).1 := by
  unfold State.frameWrite
  repeat' with_reducible first | assumption | exact parts_sub (by with_unfolding_all decide) hl | apply State.bump_only | apply State.freePlane_only | apply State.imgWrite_only | apply ite_only | apply ite_only1 | apply ite_only2 | apply ite_only22 | apply ite_only21 | dsimp only | split | (apply only.lit <;> first | exact Or.inr rfl | exact Or.inl (parts_mem hl (by with_unfolding_all decide)) | skip) | refine only.eq2 (by assumption) ?_ | refine only.eq22 (by assumption) ?_ | refine only.eq1 (by assumption) ?_

theorem State.imgFrames_only {s0 s : State} {pl : List Part} (o : ImgOp) (h : Hdr) (l : List (Nat × Frame)) (ws : List (Fin 5))
    (hl : [.regs, .ctrs, .freeCtr, .mgt, .logs, .cfg, .churn, .fab, .slc] ⊆ pl) (hs : only pl s0 s) :
    only pl s0 (s.imgFrames o h l ws).1 := by
  induction l generalizing s o ws with
  | nil => exact hs
  | cons y l ih =>
    unfold State.imgFrames
    exact ite_only1 (pair_only hs) (ite_only1 (pair_only hs) (ite_only1 (pair_only hs)
      (ite_only1 (ih _ _ (State.frameWrite_only _ _ _ _ _ hl hs)) (pair_only (State.frameWrite_only _ _ _ _ _ hl hs)))))

theorem State.frameRecord_only {s0 : State} {pl : List Part} {s : State} (e : Nat) (env : RecEnv) (types : Nat → Bool) (hl : [.regs, .ctrs, .latches, .mtime, .freeCtr, .answer, .mgt, .dbg, .logs, .irq, .clk, .noc, .span, .inject, .prbs, .dram, .procs, .cfg, .img, .churn, .fab, .slc, .mem, .time, .cel, .scr, .fen, .dma, .svc, .cores, .pwr, .lcs, .bist, .pins] ⊆ pl) (hs0 : only pl s0 s) : only pl s0 (State.frameRecord s e env types) := by
  unfold State.frameRecord
  repeat' with_reducible first | assumption | exact parts_sub (by with_unfolding_all decide) hl | apply State.imgFrames_only | apply State.imgReject_only | apply State.imgSettle_only | apply State.stageBytes_only | apply State.stageWork_only | apply State.withRecord_only | apply ite_only | apply ite_only1 | apply ite_only2 | apply ite_only22 | apply ite_only21 | dsimp only | intro _ _ _ _ | intro _ _ _ | intro _ _ | split | (apply only.lit <;> first | exact Or.inr rfl | exact Or.inl (parts_mem hl (by with_unfolding_all decide)) | skip) | refine only.eq2 (by assumption) ?_ | refine only.eq22 (by assumption) ?_ | refine only.eq1 (by assumption) ?_

theorem State.initFails_only {s0 : State} {pl : List Part} {s : State} (r : InitRun) (reason : Nat) (hl : [.regs, .ctrs, .mgt, .logs, .img] ⊆ pl) (hs0 : only pl s0 s) : only pl s0 (State.initFails s r reason) := by
  unfold State.initFails
  repeat' with_reducible first | assumption | exact parts_sub (by with_unfolding_all decide) hl | apply State.bump_only | apply State.raiseVat_only | apply State.wrb_only | dsimp only | (apply only.lit <;> first | exact Or.inl (parts_mem hl (by with_unfolding_all decide)) | exact Or.inr rfl | skip)

theorem State.initWrite_only {s0 : State} {pl : List Part} {s : State} (m : MemInit) (hl : [.slc, .mem] ⊆ pl) (hs0 : only pl s0 s) : only pl s0 (State.initWrite s m) := by
  unfold State.initWrite
  repeat' with_reducible first | assumption | exact parts_sub (by with_unfolding_all decide) hl | apply State.opmWrite_only | apply State.setMemW_only | refine foldl_only _ _ (fun _ _ _ => ?_) ?_ | refine foldl_only1 _ _ (fun _ _ _ => ?_) ?_ | refine foldl_only2 _ _ (fun _ _ _ => ?_) ?_ | refine foldl_only22 _ _ (fun _ _ _ => ?_) ?_ | refine foldl_only21 _ _ (fun _ _ _ => ?_) ?_ | apply ite_only

theorem State.initRecord_only {s0 : State} {pl : List Part} {s : State} (r : InitRun) (env : RecEnv) (hl : [.regs, .ctrs, .mgt, .logs, .img, .slc, .mem] ⊆ pl) (hs0 : only pl s0 s) : only pl s0 (State.initRecord s r env) := by
  unfold State.initRecord
  repeat' with_reducible first | assumption | exact parts_sub (by with_unfolding_all decide) hl | apply State.bump_only | apply State.initFails_only | apply State.initWrite_only | apply ite_only | apply ite_only1 | apply ite_only2 | apply ite_only22 | apply ite_only21 | dsimp only | intro _ _ _ _ | intro _ _ _ | intro _ _ | split | (apply only.lit <;> first | exact Or.inl (parts_mem hl (by with_unfolding_all decide)) | exact Or.inr rfl | skip)

theorem execCommitCloseDone_only {s0 : State} {pl : List Part} (v : Fin 16) (ups : List (Bool × Fin 262144 × List (Fin 2072))) {s : State} (hl : [.regs, .ctrs, .latches, .freeCtr, .mgt, .logs, .irq, .noc, .cfg, .img, .churn, .fab, .slc, .mem, .cel, .scr, .dma, .bist, .pins] ⊆ pl) (hs0 : only pl s0 s) : OnlyR pl s0 (execCommitCloseDone v ups s) := by
  unfold execCommitCloseDone
  repeat' with_reducible first | assumption | exact parts_sub (by with_unfolding_all decide) hl | exact only.refl _ _ | apply OnlyR.next | apply ite_onlyR | apply State.commitCloseEnd_only | apply State.imgEnds_only | apply State.imgReject_only | apply State.setImg_only | apply ite_only | apply ite_only1 | apply ite_only2 | apply ite_only22 | apply ite_only21 | dsimp only | intro _ _ _ _ | intro _ _ _ | intro _ _ | split | (apply only.lit <;> first | exact Or.inr rfl | exact Or.inl (parts_mem hl (by with_unfolding_all decide)) | skip) | refine only.eq2 (by assumption) ?_ | refine only.eq22 (by assumption) ?_ | refine only.eq1 (by assumption) ?_

theorem execMemoryInitStart_only {s0 : State} {pl : List Part} (v : Fin 16) (lost : Bool) {s : State} (hl : [.regs, .ctrs, .mgt, .logs, .img] ⊆ pl) (hs0 : only pl s0 s) : OnlyR pl s0 (execMemoryInitStart v lost s) := by
  unfold execMemoryInitStart
  repeat' with_reducible first | assumption | exact parts_sub (by with_unfolding_all decide) hl | exact only.refl _ _ | apply OnlyR.next | apply ite_onlyR | apply State.initFails_only | apply State.wr_only | apply State.wrb_only | apply ite_only | apply ite_only1 | apply ite_only2 | apply ite_only22 | apply ite_only21 | dsimp only | split | (apply only.lit <;> first | exact Or.inl (parts_mem hl (by with_unfolding_all decide)) | exact Or.inr rfl | skip)

theorem execMemoryInitDone_only {s0 : State} {pl : List Part} (v : Fin 16) {s : State} (hl : [.regs, .ctrs, .mgt, .logs, .img] ⊆ pl) (hs0 : only pl s0 s) : OnlyR pl s0 (execMemoryInitDone v s) := by
  unfold execMemoryInitDone
  repeat' with_reducible first | assumption | exact parts_sub (by with_unfolding_all decide) hl | exact only.refl _ _ | apply OnlyR.next | apply ite_onlyR | apply State.initFails_only | apply State.wrb_only | apply ite_only | apply ite_only1 | apply ite_only2 | apply ite_only22 | apply ite_only21 | split | (apply only.lit <;> first | exact Or.inl (parts_mem hl (by with_unfolding_all decide)) | exact Or.inr rfl | skip)

end Sys2Proof.Machine
end

