-- ==== Sys2Proof/Laws/Frame/ImgOps.lean ====
section
/-! SUPPORT. The frames of Machine/ImgOps.lean: which parts of the state each operation and each command may change. -/

namespace Sys2Proof.Machine


theorem State.imgAccept_only {s0 : State} {pl : List Part} {s : State} (o : ImgOp) (hl : [.regs, .img] ⊆ pl) (hs0 : only pl s0 s) : only pl s0 (State.imgAccept s o) := by
  unfold State.imgAccept
  repeat' with_reducible first | assumption | exact parts_sub (by with_unfolding_all decide) hl | apply State.wr_only | (apply only.lit <;> first | exact Or.inl (parts_mem hl (by with_unfolding_all decide)) | exact Or.inr rfl | skip)

theorem State.slotOrder_only {s0 : State} {pl : List Part} {s : State} (e : ImmEnv) (kind : Nat) (body : List Byte) (hl : [.regs, .img] ⊆ pl) (hs0 : only pl s0 s) : only pl s0 (State.slotOrder s e kind body).1 := by
  unfold State.slotOrder
  repeat' with_reducible first | assumption | exact parts_sub (by with_unfolding_all decide) hl | apply State.imgAccept_only | apply ite_only | apply ite_only1 | apply ite_only2 | apply ite_only22 | apply ite_only21 | dsimp only | intro _ _ _ _ | intro _ _ _ | intro _ _ | split

theorem execImgCommit_only {s0 : State} {pl : List Part} (e : ImmEnv) (body : List Byte) {s : State} (hl : [.regs, .ctrs, .mgt, .logs, .img] ⊆ pl) (hs0 : only pl s0 s) : OnlyR pl s0 (execImgCommit e body s) := by
  unfold execImgCommit
  repeat' with_reducible first | assumption | exact parts_sub (by with_unfolding_all decide) hl | exact only.refl _ _ | apply OnlyR.next | apply ite_onlyR | apply State.request_only | apply State.slotOrder_only | intro _ _ _ _ | intro _ _ _ | intro _ _

theorem execImgVerify_only {s0 : State} {pl : List Part} (e : ImmEnv) (body : List Byte) {s : State} (hl : [.regs, .ctrs, .mgt, .logs, .img] ⊆ pl) (hs0 : only pl s0 s) : OnlyR pl s0 (execImgVerify e body s) := by
  unfold execImgVerify
  repeat' with_reducible first | assumption | exact parts_sub (by with_unfolding_all decide) hl | exact only.refl _ _ | apply OnlyR.next | apply ite_onlyR | apply State.request_only | apply State.slotOrder_only | intro _ _ _ _ | intro _ _ _ | intro _ _

theorem State.chunk_only {s0 : State} {pl : List Part} {s : State} (e : ImmEnv) (kind : Nat) (body : List Byte) (hl : [.regs, .ctrs, .latches, .freeCtr, .mgt, .logs, .irq, .noc, .cfg, .img, .churn, .fab, .slc, .mem, .cel, .scr, .dma, .bist, .pins] ⊆ pl) (hs0 : only pl s0 s) : only pl s0 (State.chunk s e kind body).1 := by
  unfold State.chunk
  repeat' with_reducible first | assumption | exact parts_sub (by with_unfolding_all decide) hl | apply State.imgAccept_only | apply State.setImg_only | apply State.stageWork_only | apply ite_only | apply ite_only1 | apply ite_only2 | apply ite_only22 | apply ite_only21 | dsimp only | intro _ _ _ _ | intro _ _ _ | intro _ _ | split | (apply only.lit <;> first | exact Or.inr rfl | exact Or.inl (parts_mem hl (by with_unfolding_all decide)) | skip) | refine only.eq2 (by assumption) ?_ | refine only.eq22 (by assumption) ?_ | refine only.eq1 (by assumption) ?_

theorem execImgStage_only {s0 : State} {pl : List Part} (e : ImmEnv) (body : List Byte) {s : State} (hl : [.regs, .ctrs, .latches, .freeCtr, .mgt, .logs, .irq, .noc, .cfg, .img, .churn, .fab, .slc, .mem, .cel, .scr, .dma, .bist, .pins] ⊆ pl) (hs0 : only pl s0 s) : OnlyR pl s0 (execImgStage e body s) := by
  unfold execImgStage
  repeat' with_reducible first | assumption | exact parts_sub (by with_unfolding_all decide) hl | exact only.refl _ _ | apply OnlyR.next | apply ite_onlyR | apply State.chunk_only | apply State.request_only | intro _ _ _ _ | intro _ _ _ | intro _ _

theorem execImgStream_only {s0 : State} {pl : List Part} (e : ImmEnv) (body : List Byte) {s : State} (hl : [.regs, .ctrs, .latches, .freeCtr, .mgt, .logs, .irq, .noc, .cfg, .img, .churn, .fab, .slc, .mem, .cel, .scr, .dma, .bist, .pins] ⊆ pl) (hs0 : only pl s0 s) : OnlyR pl s0 (execImgStream e body s) := by
  unfold execImgStream
  repeat' with_reducible first | assumption | exact parts_sub (by with_unfolding_all decide) hl | exact only.refl _ _ | apply OnlyR.next | apply ite_onlyR | apply State.chunk_only | apply State.request_only | intro _ _ _ _ | intro _ _ _ | intro _ _

theorem execImageSendTimeout_only {s0 : State} {pl : List Part} {s : State} (hl : [.regs, .ctrs, .latches, .freeCtr, .mgt, .logs, .irq, .noc, .cfg, .img, .churn, .fab, .slc, .mem, .cel, .scr, .dma, .bist, .pins] ⊆ pl) (hs0 : only pl s0 s) : OnlyR pl s0 (execImageSendTimeout s) := by
  unfold execImageSendTimeout
  repeat' with_reducible first | assumption | exact parts_sub (by with_unfolding_all decide) hl | exact only.refl _ _ | apply OnlyR.next | apply ite_onlyR | apply State.imgReject_only | apply ite_only | apply ite_only1 | apply ite_only2 | apply ite_only22 | apply ite_only21 | split | (apply only.lit <;> first | exact Or.inr rfl | exact Or.inl (parts_mem hl (by with_unfolding_all decide)) | skip) | refine only.eq2 (by assumption) ?_ | refine only.eq22 (by assumption) ?_ | refine only.eq1 (by assumption) ?_

theorem execStagingEraseReissue_only {s0 : State} {pl : List Part} {s : State} (hl : [.regs, .ctrs, .latches, .freeCtr, .mgt, .logs, .irq, .noc, .cfg, .img, .churn, .fab, .slc, .mem, .cel, .scr, .dma, .bist, .pins] ⊆ pl) (hs0 : only pl s0 s) : OnlyR pl s0 (execStagingEraseReissue s) := by
  unfold execStagingEraseReissue
  repeat' with_reducible first | assumption | exact parts_sub (by with_unfolding_all decide) hl | exact only.refl _ _ | apply OnlyR.next | apply ite_onlyR | apply State.stageGo_only | apply ite_only | apply ite_only1 | apply ite_only2 | apply ite_only22 | apply ite_only21

theorem execBootSet_only {s0 : State} {pl : List Part} (e : ImmEnv) (body : List Byte) {s : State} (hl : [.ctrs, .mgt, .logs, .cel] ⊆ pl) (hs0 : only pl s0 s) : OnlyR pl s0 (execBootSet e body s) := by
  unfold execBootSet
  repeat' with_reducible first | assumption | exact parts_sub (by with_unfolding_all decide) hl | exact only.refl _ _ | apply OnlyR.next | apply ite_onlyR | apply State.bootUpdate_only | apply State.request_only | apply ite_only | apply ite_only1 | apply ite_only2 | apply ite_only22 | apply ite_only21 | dsimp only | intro _ _ _ _ | intro _ _ _ | intro _ _

theorem State.eraseBut_only {s0 : State} {pl : List Part} {s : State} (keep : Nat → Bool) (hl : [.logs, .cel, .bist] ⊆ pl) (hs0 : only pl s0 s) : only pl s0 (State.eraseBut s keep) := by
  unfold State.eraseBut
  repeat' with_reducible first | assumption | exact parts_sub (by with_unfolding_all decide) hl | intro _ _ _ _ | intro _ _ _ | intro _ _ | (apply only.lit <;> first | exact Or.inl (parts_mem hl (by with_unfolding_all decide)) | exact Or.inr rfl | skip)

theorem State.erasePlanes_only {s0 : State} {pl : List Part} {s : State} (hl : [.cfg] ⊆ pl) (hs0 : only pl s0 s) : only pl s0 (State.erasePlanes s) := by
  unfold State.erasePlanes
  repeat' with_reducible first | assumption | exact parts_sub (by with_unfolding_all decide) hl | apply State.setRole_only | refine foldl_only _ _ (fun _ _ _ => ?_) ?_ | refine foldl_only1 _ _ (fun _ _ _ => ?_) ?_ | refine foldl_only2 _ _ (fun _ _ _ => ?_) ?_ | refine foldl_only22 _ _ (fun _ _ _ => ?_) ?_ | refine foldl_only21 _ _ (fun _ _ _ => ?_) ?_ | dsimp only | intro _ _ _ _ | intro _ _ _ | intro _ _ | (apply only.lit <;> first | exact Or.inl (parts_mem hl (by with_unfolding_all decide)) | exact Or.inr rfl | skip)

theorem State.setProtLevel_only {s0 : State} {pl : List Part} {s : State} (n : Nat) (hl : [.regs, .ctrs, .mgt, .logs, .cel] ⊆ pl) (hs0 : only pl s0 s) : only pl s0 (State.setProtLevel s n) := by
  unfold State.setProtLevel
  repeat' with_reducible first | assumption | exact parts_sub (by with_unfolding_all decide) hl | apply State.celShow_only | apply State.raiseDev_only | apply ite_only | apply ite_only1 | apply ite_only2 | apply ite_only22 | apply ite_only21 | dsimp only | (apply only.lit <;> first | exact Or.inl (parts_mem hl (by with_unfolding_all decide)) | exact Or.inr rfl | skip)

theorem State.lowerLevel_only {s0 : State} {pl : List Part} {s : State} (hl : [.regs, .ctrs, .mgt, .logs, .cfg, .cel, .lcs, .bist] ⊆ pl) (hs0 : only pl s0 s) : only pl s0 (State.lowerLevel s) := by
  unfold State.lowerLevel
  repeat' with_reducible first | assumption | exact parts_sub (by with_unfolding_all decide) hl | apply State.eraseBut_only | apply State.erasePlanes_only | apply State.setProtLevel_only | dsimp only | (apply only.lit <;> first | exact Or.inl (parts_mem hl (by with_unfolding_all decide)) | exact Or.inr rfl | skip)

theorem State.retire_only {s0 : State} {pl : List Part} {s : State} (hl : [.regs, .ctrs, .mgt, .logs, .cfg, .cel, .lcs, .bist] ⊆ pl) (hs0 : only pl s0 s) : only pl s0 (State.retire s) := by
  unfold State.retire
  repeat' with_reducible first | assumption | exact parts_sub (by with_unfolding_all decide) hl | apply State.eraseBut_only | apply State.erasePlanes_only | apply State.setProtLevel_only | dsimp only | (apply only.lit <;> first | exact Or.inl (parts_mem hl (by with_unfolding_all decide)) | exact Or.inr rfl | skip)

theorem execStarterFirmwareStart_only {s0 : State} {pl : List Part} (copy : Fin 2) {s : State} (hl : [.regs, .ctrs, .latches, .freeCtr, .mgt, .logs, .irq, .noc, .span, .cfg, .img, .churn, .fab, .slc, .mem, .cel, .scr, .fen, .dma, .pwr, .lcs, .bist, .pins] ⊆ pl) (hs0 : only pl s0 s) : OnlyR pl s0 (execStarterFirmwareStart copy s) := by
  unfold execStarterFirmwareStart
  repeat' with_reducible first | assumption | exact parts_sub (by with_unfolding_all decide) hl | exact only.refl _ _ | apply OnlyR.next | apply ite_onlyR | apply State.bootNext_only | apply State.enterFallback_only | apply State.logEvent_only | apply State.lowerLevel_only | apply State.mpStart_only | apply State.powerUpLoad_only | apply State.raiseDev_only | apply State.retire_only | refine foldl_only _ _ (fun _ _ _ => ?_) ?_ | refine foldl_only1 _ _ (fun _ _ _ => ?_) ?_ | refine foldl_only2 _ _ (fun _ _ _ => ?_) ?_ | refine foldl_only22 _ _ (fun _ _ _ => ?_) ?_ | refine foldl_only21 _ _ (fun _ _ _ => ?_) ?_ | apply ite_only | apply ite_only1 | apply ite_only2 | apply ite_only22 | apply ite_only21 | dsimp only | intro _ _ _ _ | intro _ _ _ | intro _ _ | (apply only.lit <;> first | exact Or.inr rfl | exact Or.inl (parts_mem hl (by with_unfolding_all decide)) | skip)

theorem execModuleLoadStart_only {s0 : State} {pl : List Part} (v : Fin 16) {s : State} (hl : [.regs, .ctrs, .mgt, .logs, .cfg, .img] ⊆ pl) (hs0 : only pl s0 s) : OnlyR pl s0 (execModuleLoadStart v s) := by
  unfold execModuleLoadStart
  repeat' with_reducible first | assumption | exact parts_sub (by with_unfolding_all decide) hl | exact only.refl _ _ | apply OnlyR.next | apply ite_onlyR | apply State.setMod_only | apply State.showSwaps_only | apply ite_only | apply ite_only1 | apply ite_only2 | apply ite_only22 | apply ite_only21 | dsimp only | intro _ _ _ _ | intro _ _ _ | intro _ _ | split | (apply only.lit <;> first | exact Or.inr rfl | exact Or.inl (parts_mem hl (by with_unfolding_all decide)) | skip) | refine only.eq2 (by assumption) ?_ | refine only.eq22 (by assumption) ?_ | refine only.eq1 (by assumption) ?_

theorem execModuleLoadDone_only {s0 : State} {pl : List Part} (v : Fin 16) {s : State} (hl : [.regs, .ctrs, .latches, .freeCtr, .mgt, .logs, .irq, .noc, .cfg, .img, .churn, .fab, .slc, .mem, .cel, .scr, .dma, .bist, .pins] ⊆ pl) (hs0 : only pl s0 s) : OnlyR pl s0 (execModuleLoadDone v s) := by
  unfold execModuleLoadDone
  repeat' with_reducible first | assumption | exact parts_sub (by with_unfolding_all decide) hl | exact only.refl _ _ | apply OnlyR.next | apply ite_onlyR | apply State.imgReject_only | apply State.modEnds_only | apply State.modFail_only | apply State.setMod_only | apply State.setShadow_only | apply State.setVol_only | refine foldl_only _ _ (fun _ _ _ => ?_) ?_ | refine foldl_only1 _ _ (fun _ _ _ => ?_) ?_ | refine foldl_only2 _ _ (fun _ _ _ => ?_) ?_ | refine foldl_only22 _ _ (fun _ _ _ => ?_) ?_ | refine foldl_only21 _ _ (fun _ _ _ => ?_) ?_ | apply ite_only | apply ite_only1 | apply ite_only2 | apply ite_only22 | apply ite_only21 | dsimp only | intro _ _ _ _ | intro _ _ _ | intro _ _ | split | (apply only.lit <;> first | exact Or.inr rfl | exact Or.inl (parts_mem hl (by with_unfolding_all decide)) | skip) | refine only.eq2 (by assumption) ?_ | refine only.eq22 (by assumption) ?_ | refine only.eq1 (by assumption) ?_

theorem State.modOver_only {s0 : State} {pl : List Part} {s : State} (v : Nat) (hl : [.regs, .ctrs, .mgt, .logs, .cfg] ⊆ pl) (hs0 : only pl s0 s) : only pl s0 (State.modOver s v) := by
  unfold State.modOver
  repeat' with_reducible first | assumption | exact parts_sub (by with_unfolding_all decide) hl | apply State.setMod_only | apply State.showSwaps_only | apply State.wrb_only

theorem execModuleRegionRelease_only {s0 : State} {pl : List Part} (v : Fin 16) {s : State} (hl : [.regs, .ctrs, .mgt, .logs, .cfg] ⊆ pl) (hs0 : only pl s0 s) : OnlyR pl s0 (execModuleRegionRelease v s) := by
  unfold execModuleRegionRelease
  repeat' with_reducible first | assumption | exact parts_sub (by with_unfolding_all decide) hl | exact only.refl _ _ | apply OnlyR.next | apply ite_onlyR | apply State.modOver_only

theorem State.restoreRegion_only {s0 : State} {pl : List Part} {s : State} (m : ModLoad) (hl : [.ctrs, .mgt, .logs, .cfg, .slc] ⊆ pl) (hs0 : only pl s0 s) : only pl s0 (State.restoreRegion s m) := by
  unfold State.restoreRegion
  repeat' with_reducible first | assumption | exact parts_sub (by with_unfolding_all decide) hl | apply State.bump_only | apply State.loadLive_only | apply State.setPerr_only | apply State.setShadow_only | apply State.setUnrest_only | apply State.setVol_only | refine foldl_only _ _ (fun _ _ _ => ?_) ?_ | refine foldl_only1 _ _ (fun _ _ _ => ?_) ?_ | refine foldl_only2 _ _ (fun _ _ _ => ?_) ?_ | refine foldl_only22 _ _ (fun _ _ _ => ?_) ?_ | refine foldl_only21 _ _ (fun _ _ _ => ?_) ?_ | dsimp only | intro _ _ _ _ | intro _ _ _ | intro _ _ | split | (apply only.lit <;> first | exact Or.inr rfl | exact Or.inl (parts_mem hl (by with_unfolding_all decide)) | skip) | refine only.eq2 (by assumption) ?_ | refine only.eq22 (by assumption) ?_ | refine only.eq1 (by assumption) ?_

theorem execModuleLoadRestore_only {s0 : State} {pl : List Part} (v : Fin 16) {s : State} (hl : [.regs, .ctrs, .mgt, .logs, .irq, .cfg, .slc] ⊆ pl) (hs0 : only pl s0 s) : OnlyR pl s0 (execModuleLoadRestore v s) := by
  unfold execModuleLoadRestore
  repeat' with_reducible first | assumption | exact parts_sub (by with_unfolding_all decide) hl | exact only.refl _ _ | apply OnlyR.next | apply ite_onlyR | apply State.modEnds_only | apply State.restoreRegion_only | apply State.setMod_only | intro _ _ _ _ | intro _ _ _ | intro _ _ | split

theorem execModuleRestoreDone_only {s0 : State} {pl : List Part} (v : Fin 16) {s : State} (hl : [.regs, .ctrs, .mgt, .logs, .cfg] ⊆ pl) (hs0 : only pl s0 s) : OnlyR pl s0 (execModuleRestoreDone v s) := by
  unfold execModuleRestoreDone
  repeat' with_reducible first | assumption | exact parts_sub (by with_unfolding_all decide) hl | exact only.refl _ _ | apply OnlyR.next | apply ite_onlyR | apply State.modOver_only

end Sys2Proof.Machine
end

