-- ==== Sys2Proof/Laws/Frame/Keys.lean ====
section
/-! SUPPORT. The frames of Machine/Keys.lean: which parts of the state each operation and each command may change. -/

namespace Sys2Proof.Machine

theorem State.setKey_only {s0 : State} {pl : List Part} {s : State} (k : Nat) (v : Option (List Byte)) (hl : [.lcs] ⊆ pl) (hs0 : only pl s0 s) : only pl s0 (State.setKey s k v) := by
  unfold State.setKey
  repeat' with_reducible first | assumption | exact parts_sub (by with_unfolding_all decide) hl | (apply only.lit <;> first | exact Or.inl (parts_mem hl (by with_unfolding_all decide)) | exact Or.inr rfl | skip)

theorem State.keyChange_only {s0 : State} {pl : List Part} {s : State} (k : Nat) (v : Option (List Byte)) (hl : [.lcs] ⊆ pl) (hs0 : only pl s0 s) : only pl s0 (State.keyChange s k v).1 := by
  unfold State.keyChange
  repeat' with_reducible first | assumption | exact parts_sub (by with_unfolding_all decide) hl | apply State.setKey_only | apply ite_only | apply ite_only1 | apply ite_only2 | apply ite_only22 | apply ite_only21 | dsimp only | intro _ _ _ _ | intro _ _ _ | intro _ _ | (apply only.lit <;> first | exact Or.inl (parts_mem hl (by with_unfolding_all decide)) | exact Or.inr rfl | skip)

theorem State.keyOp_only {s0 : State} {pl : List Part} {s : State} (e : ImmEnv) (op : Byte) (body : List Byte) (f : State → State × Reply) (hf : ∀ y0, only pl s0 y0 → only pl s0 (f y0).1) (hl : [.ctrs, .mgt, .logs] ⊆ pl) (hs0 : only pl s0 s) : only pl s0 (State.keyOp s e op body f) := by
  unfold State.keyOp
  repeat' with_reducible first | assumption | exact parts_sub (by with_unfolding_all decide) hl | refine hf _ ?_ | apply State.request_only | apply ite_only | apply ite_only1 | apply ite_only2 | apply ite_only22 | apply ite_only21 | intro _ _ _ _ | intro _ _ _ | intro _ _

theorem execKeyWrite_only {s0 : State} {pl : List Part} (e : ImmEnv) (body : List Byte) {s : State} (hl : [.ctrs, .mgt, .logs, .lcs] ⊆ pl) (hs0 : only pl s0 s) : OnlyR pl s0 (execKeyWrite e body s) := by
  unfold execKeyWrite
  repeat' with_reducible first | assumption | exact parts_sub (by with_unfolding_all decide) hl | exact only.refl _ _ | apply OnlyR.next | apply ite_onlyR | apply State.keyChange_only | apply State.keyOp_only | apply ite_only | apply ite_only1 | apply ite_only2 | apply ite_only22 | apply ite_only21 | dsimp only | intro _ _ _ _ | intro _ _ _ | intro _ _ | split

theorem execKeyErase_only {s0 : State} {pl : List Part} (e : ImmEnv) (body : List Byte) {s : State} (hl : [.ctrs, .mgt, .logs, .lcs] ⊆ pl) (hs0 : only pl s0 s) : OnlyR pl s0 (execKeyErase e body s) := by
  unfold execKeyErase
  repeat' with_reducible first | assumption | exact parts_sub (by with_unfolding_all decide) hl | exact only.refl _ _ | apply OnlyR.next | apply ite_onlyR | apply State.keyChange_only | apply State.keyOp_only | apply ite_only | apply ite_only1 | apply ite_only2 | apply ite_only22 | apply ite_only21 | intro _ _ _ _ | intro _ _ _ | intro _ _ | split

theorem execKeyStatus_only {s0 : State} {pl : List Part} (e : ImmEnv) (body : List Byte) {s : State} (hl : [.ctrs, .mgt, .logs] ⊆ pl) (hs0 : only pl s0 s) : OnlyR pl s0 (execKeyStatus e body s) := by
  unfold execKeyStatus
  repeat' with_reducible first | assumption | exact parts_sub (by with_unfolding_all decide) hl | exact only.refl _ _ | apply OnlyR.next | apply ite_onlyR | apply State.keyOp_only | refine foldl_only _ _ (fun _ _ _ => ?_) ?_ | refine foldl_only1 _ _ (fun _ _ _ => ?_) ?_ | refine foldl_only2 _ _ (fun _ _ _ => ?_) ?_ | refine foldl_only22 _ _ (fun _ _ _ => ?_) ?_ | refine foldl_only21 _ _ (fun _ _ _ => ?_) ?_ | apply ite_only | apply ite_only1 | apply ite_only2 | apply ite_only22 | apply ite_only21 | dsimp only | intro _ _ _ _ | intro _ _ _ | intro _ _

theorem execAdvance_only {s0 : State} {pl : List Part} (e : ImmEnv) (body : List Byte) {s : State} (hl : [.ctrs, .mgt, .logs, .lcs] ⊆ pl) (hs0 : only pl s0 s) : OnlyR pl s0 (execAdvance e body s) := by
  unfold execAdvance
  repeat' with_reducible first | assumption | exact parts_sub (by with_unfolding_all decide) hl | exact only.refl _ _ | apply OnlyR.next | apply ite_onlyR | apply State.keyOp_only | apply ite_only | apply ite_only1 | apply ite_only2 | apply ite_only22 | apply ite_only21 | dsimp only | intro _ _ _ _ | intro _ _ _ | intro _ _ | (apply only.lit <;> first | exact Or.inl (parts_mem hl (by with_unfolding_all decide)) | exact Or.inr rfl | skip)

theorem execLifeCycleFuseBlown_only {s0 : State} {pl : List Part} {s : State} (hl : [.ctrs, .mgt, .logs, .lcs] ⊆ pl) (hs0 : only pl s0 s) : OnlyR pl s0 (execLifeCycleFuseBlown s) := by
  unfold execLifeCycleFuseBlown
  repeat' with_reducible first | assumption | exact parts_sub (by with_unfolding_all decide) hl | exact only.refl _ _ | apply OnlyR.next | apply ite_onlyR | apply State.raiseDev_only | dsimp only | split | (apply only.lit <;> first | exact Or.inl (parts_mem hl (by with_unfolding_all decide)) | exact Or.inr rfl | skip)

theorem execKeyDeferredComplete_only {s0 : State} {pl : List Part} (k : Fin 9) {s : State} (hl : [.ctrs, .mgt, .logs, .lcs] ⊆ pl) (hs0 : only pl s0 s) : OnlyR pl s0 (execKeyDeferredComplete k s) := by
  unfold execKeyDeferredComplete
  repeat' with_reducible first | assumption | exact parts_sub (by with_unfolding_all decide) hl | exact only.refl _ _ | apply OnlyR.next | apply ite_onlyR | apply State.raiseDev_only | apply State.setKey_only | apply ite_only | apply ite_only1 | apply ite_only2 | apply ite_only22 | apply ite_only21 | dsimp only | intro _ _ _ _ | intro _ _ _ | intro _ _ | split | (apply only.lit <;> first | exact Or.inl (parts_mem hl (by with_unfolding_all decide)) | exact Or.inr rfl | skip)

end Sys2Proof.Machine
end

