-- ==== Sys2Proof/Laws/Frame/Imm.lean ====
section
/-! SUPPORT. The frames of Machine/Imm.lean: which parts of the state each operation and each command may change. -/

namespace Sys2Proof.Machine


theorem execIdentify_only {s0 : State} {pl : List Part} (e : ImmEnv) (body : List Byte) {s : State} (hl : [.ctrs, .mgt, .logs] ⊆ pl) (hs0 : only pl s0 s) : OnlyR pl s0 (execIdentify e body s) := by
  unfold execIdentify
  repeat' with_reducible first | assumption | exact parts_sub (by with_unfolding_all decide) hl | exact only.refl _ _ | apply OnlyR.next | apply ite_onlyR | apply State.request_only | apply ite_only | apply ite_only1 | apply ite_only2 | apply ite_only22 | apply ite_only21 | dsimp only | intro _ _ _ _ | intro _ _ _ | intro _ _

theorem execSessionInit_only {s0 : State} {pl : List Part} (e : ImmEnv) (body : List Byte) {s : State} (hl : [.ctrs, .freeCtr, .mgt, .logs] ⊆ pl) (hs0 : only pl s0 s) : OnlyR pl s0 (execSessionInit e body s) := by
  unfold execSessionInit
  repeat' with_reducible first | assumption | exact parts_sub (by with_unfolding_all decide) hl | exact only.refl _ _ | apply OnlyR.next | apply ite_onlyR | apply State.fresh_only | apply State.request_only | apply State.setHost_only | apply ite_only | apply ite_only1 | apply ite_only2 | apply ite_only22 | apply ite_only21 | dsimp only | intro _ _ _ _ | intro _ _ _ | intro _ _ | split

theorem State.openSession_only {s0 : State} {pl : List Part} {s : State} (e : ImmEnv) (x : Handshake) (hl : [.regs, .ctrs, .mgt, .dbg, .logs, .irq] ⊆ pl) (hs0 : only pl s0 s) : only pl s0 (State.openSession s e x) := by
  unfold State.openSession
  repeat' with_reducible first | assumption | exact parts_sub (by with_unfolding_all decide) hl | apply State.closeSession_only | apply State.raiseDev_only | apply State.respondTo_only | apply State.setHost_only | apply State.wr_only

theorem execSessionFinish_only {s0 : State} {pl : List Part} (e : ImmEnv) (body : List Byte) {s : State} (hl : [.regs, .ctrs, .mgt, .dbg, .logs, .irq] ⊆ pl) (hs0 : only pl s0 s) : OnlyR pl s0 (execSessionFinish e body s) := by
  unfold execSessionFinish
  repeat' with_reducible first | assumption | exact parts_sub (by with_unfolding_all decide) hl | exact only.refl _ _ | apply OnlyR.next | apply ite_onlyR | apply State.bump_only | apply State.openSession_only | apply State.refuse_only | apply State.request_only | apply State.setHost_only | apply ite_only | apply ite_only1 | apply ite_only2 | apply ite_only22 | apply ite_only21 | dsimp only | intro _ _ _ _ | intro _ _ _ | intro _ _ | split

theorem execSessionClose_only {s0 : State} {pl : List Part} (e : ImmEnv) (body : List Byte) {s : State} (hl : [.regs, .ctrs, .mgt, .dbg, .logs, .irq] ⊆ pl) (hs0 : only pl s0 s) : OnlyR pl s0 (execSessionClose e body s) := by
  unfold execSessionClose
  repeat' with_reducible first | assumption | exact parts_sub (by with_unfolding_all decide) hl | exact only.refl _ _ | apply OnlyR.next | apply ite_onlyR | apply State.closeSession_only | apply State.receive_only | apply State.refuse_only | apply State.respondTo_only | apply ite_only | apply ite_only1 | apply ite_only2 | apply ite_only22 | apply ite_only21 | dsimp only

theorem State.accessRequest_only {s0 : State} {pl : List Part} {s : State} (e : ImmEnv) (code : Nat) (body : List Byte) (f : State → State × Reply) (hf : ∀ y0, only pl s0 y0 → only pl s0 (f y0).1) (hl : [.ctrs, .mgt, .logs] ⊆ pl) (hs0 : only pl s0 s) : only pl s0 (State.accessRequest s e code body f) := by
  unfold State.accessRequest
  repeat' with_reducible first | assumption | exact parts_sub (by with_unfolding_all decide) hl | refine hf _ ?_ | apply State.request_only | apply ite_only | apply ite_only1 | apply ite_only2 | apply ite_only22 | apply ite_only21

theorem State.immAccess_only {s0 : State} {pl : List Part} {s : State} (v : Nat) (insp : Bool) (rq : NocRq) (hl : [.regs, .ctrs, .latches, .mtime, .freeCtr, .answer, .mgt, .dbg, .logs, .irq, .clk, .noc, .span, .inject, .prbs, .dram, .procs, .cfg, .img, .churn, .fab, .slc, .mem, .time, .cel, .scr, .fen, .dma, .svc, .cores, .pwr, .lcs, .bist, .pins] ⊆ pl) (hs0 : only pl s0 s) : only pl s0 (State.immAccess s v insp rq).1 := by
  unfold State.immAccess
  repeat' with_reducible first | assumption | exact parts_sub (by with_unfolding_all decide) hl | apply State.bucketWait_only | apply State.bump_only | apply State.countAccess_only | apply State.decodeRq_only | apply State.regUse_only | apply State.serveAccess_only | apply State.wr_only | apply ite_only | apply ite_only1 | apply ite_only2 | apply ite_only22 | apply ite_only21 | dsimp only | (apply only.lit <;> first | exact Or.inr rfl | exact Or.inl (parts_mem hl (by with_unfolding_all decide)) | skip)

theorem State.immRead_only {s0 : State} {pl : List Part} {s : State} (v : Nat) (insp : Bool) (a n : Nat) (hl : [.regs, .ctrs, .latches, .mtime, .freeCtr, .answer, .mgt, .dbg, .logs, .irq, .clk, .noc, .span, .inject, .prbs, .dram, .procs, .cfg, .img, .churn, .fab, .slc, .mem, .time, .cel, .scr, .fen, .dma, .svc, .cores, .pwr, .lcs, .bist, .pins] ⊆ pl) (hs0 : only pl s0 s) : only pl s0 (State.immRead s v insp a n).1 := by
  unfold State.immRead
  repeat' with_reducible first | assumption | exact parts_sub (by with_unfolding_all decide) hl | apply State.immAccess_only

theorem State.immWrite_only {s0 : State} {pl : List Part} {s : State} (v : Nat) (insp : Bool) (a : Nat) (bs : List Byte) (hl : [.regs, .ctrs, .latches, .mtime, .freeCtr, .answer, .mgt, .dbg, .logs, .irq, .clk, .noc, .span, .inject, .prbs, .dram, .procs, .cfg, .img, .churn, .fab, .slc, .mem, .time, .cel, .scr, .fen, .dma, .svc, .cores, .pwr, .lcs, .bist, .pins] ⊆ pl) (hs0 : only pl s0 s) : only pl s0 (State.immWrite s v insp a bs).1 := by
  unfold State.immWrite
  repeat' with_reducible first | assumption | exact parts_sub (by with_unfolding_all decide) hl | apply State.immAccess_only

theorem execStats_only {s0 : State} {pl : List Part} (e : ImmEnv) (body : List Byte) {s : State} (hl : [.ctrs, .mgt, .logs] ⊆ pl) (hs0 : only pl s0 s) : OnlyR pl s0 (execStats e body s) := by
  unfold execStats
  repeat' with_reducible first | assumption | exact parts_sub (by with_unfolding_all decide) hl | exact only.refl _ _ | apply OnlyR.next | apply ite_onlyR | apply State.request_only | apply ite_only | apply ite_only1 | apply ite_only2 | apply ite_only22 | apply ite_only21 | dsimp only | intro _ _ _ _ | intro _ _ _ | intro _ _ | split

theorem State.setWins_only {s0 : State} {pl : List Part} {s : State} (vats : List Nat) (ms : Nat) (hl : [.regs] ⊆ pl) (hs0 : only pl s0 s) : only pl s0 (State.setWins s vats ms) := by
  unfold State.setWins
  repeat' with_reducible first | assumption | exact parts_sub (by with_unfolding_all decide) hl | apply State.wr_only | refine foldl_only _ _ (fun _ _ _ => ?_) ?_ | refine foldl_only1 _ _ (fun _ _ _ => ?_) ?_ | refine foldl_only2 _ _ (fun _ _ _ => ?_) ?_ | refine foldl_only22 _ _ (fun _ _ _ => ?_) ?_ | refine foldl_only21 _ _ (fun _ _ _ => ?_) ?_ | apply ite_only

theorem State.setArm_only {s0 : State} {pl : List Part} {s : State} (vats : List Nat) (tb sec ns : Nat) (hl : [.regs] ⊆ pl) (hs0 : only pl s0 s) : only pl s0 (State.setArm s vats tb sec ns) := by
  unfold State.setArm
  repeat' with_reducible first | assumption | exact parts_sub (by with_unfolding_all decide) hl | apply State.wr_only | apply ite_only | apply ite_only1 | apply ite_only2 | apply ite_only22 | apply ite_only21 | dsimp only | split | (apply only.lit <;> first | exact Or.inr rfl | exact Or.inl (parts_mem hl (by with_unfolding_all decide)) | skip) | refine only.eq2 (by assumption) ?_ | refine only.eq22 (by assumption) ?_ | refine only.eq1 (by assumption) ?_

theorem execPlaneOp_only {s0 : State} {pl : List Part} (e : ImmEnv) (body : List Byte) {s : State} (hl : [.regs, .ctrs, .latches, .freeCtr, .mgt, .logs, .irq, .noc, .cfg, .img, .churn, .fab, .slc, .mem, .cel, .scr, .dma, .bist, .pins] ⊆ pl) (hs0 : only pl s0 s) : OnlyR pl s0 (execPlaneOp e body s) := by
  unfold execPlaneOp
  repeat' with_reducible first | assumption | exact parts_sub (by with_unfolding_all decide) hl | exact only.refl _ _ | apply OnlyR.next | apply ite_onlyR | apply State.opStat_only | apply State.orderOp_only | apply State.request_only | apply State.setArm_only | apply State.setWins_only | apply State.wr_only | apply ite_only | apply ite_only1 | apply ite_only2 | apply ite_only22 | apply ite_only21 | dsimp only | intro _ _ _ _ | intro _ _ _ | intro _ _

theorem execImmVatReset_only {s0 : State} {pl : List Part} (e : ImmEnv) (body : List Byte) {s : State} (hl : [.ctrs, .mgt, .logs, .cfg] ⊆ pl) (hs0 : only pl s0 s) : OnlyR pl s0 (execImmVatReset e body s) := by
  unfold execImmVatReset
  repeat' with_reducible first | assumption | exact parts_sub (by with_unfolding_all decide) hl | exact only.refl _ _ | apply OnlyR.next | apply ite_onlyR | apply State.request_only | apply State.setHold_only | apply State.setRstReq_only | apply ite_only | apply ite_only1 | apply ite_only2 | apply ite_only22 | apply ite_only21 | dsimp only | intro _ _ _ _ | intro _ _ _ | intro _ _

theorem execImmReset_only {s0 : State} {pl : List Part} (e : ImmEnv) (body : List Byte) {s : State} (hl : [.ctrs, .mgt, .logs] ⊆ pl) (hs0 : only pl s0 s) : OnlyR pl s0 (execImmReset e body s) := by
  unfold execImmReset
  repeat' with_reducible first | assumption | exact parts_sub (by with_unfolding_all decide) hl | exact only.refl _ _ | apply OnlyR.next | apply ite_onlyR | apply State.request_only | apply ite_only | apply ite_only1 | apply ite_only2 | apply ite_only22 | apply ite_only21 | dsimp only | intro _ _ _ _ | intro _ _ _ | intro _ _ | (apply only.lit <;> first | exact Or.inl (parts_mem hl (by with_unfolding_all decide)) | exact Or.inr rfl | skip)

theorem execImmPower_only {s0 : State} {pl : List Part} (e : ImmEnv) (body : List Byte) {s : State} (hl : [.ctrs, .mgt, .logs] ⊆ pl) (hs0 : only pl s0 s) : OnlyR pl s0 (execImmPower e body s) := by
  unfold execImmPower
  repeat' with_reducible first | assumption | exact parts_sub (by with_unfolding_all decide) hl | exact only.refl _ _ | apply OnlyR.next | apply ite_onlyR | apply State.request_only | apply ite_only | apply ite_only1 | apply ite_only2 | apply ite_only22 | apply ite_only21 | dsimp only | intro _ _ _ _ | intro _ _ _ | intro _ _ | (apply only.lit <;> first | exact Or.inl (parts_mem hl (by with_unfolding_all decide)) | exact Or.inr rfl | skip)

theorem execLogRead_only {s0 : State} {pl : List Part} (e : ImmEnv) (body : List Byte) {s : State} (hl : [.ctrs, .mgt, .logs] ⊆ pl) (hs0 : only pl s0 s) : OnlyR pl s0 (execLogRead e body s) := by
  unfold execLogRead
  repeat' with_reducible first | assumption | exact parts_sub (by with_unfolding_all decide) hl | exact only.refl _ _ | apply OnlyR.next | apply ite_onlyR | apply State.request_only | apply ite_only | apply ite_only1 | apply ite_only2 | apply ite_only22 | apply ite_only21 | dsimp only | intro _ _ _ _ | intro _ _ _ | intro _ _

end Sys2Proof.Machine
end

