-- ==== Sys2Proof/Laws/Frame/CelReq.lean ====
section
/-! SUPPORT. The frames of Machine/CelReq.lean: which parts of the state each operation and each command may change. -/

namespace Sys2Proof.Machine


theorem State.celReq_only {s0 : State} {pl : List Part} {s : State} (e : ImmEnv) (op : Byte) (body : List Byte) (f : State → State × Reply) (hf : ∀ y0, only pl s0 y0 → only pl s0 (f y0).1) (hl : [.ctrs, .mgt, .logs] ⊆ pl) (hs0 : only pl s0 s) : only pl s0 (State.celReq s e op body f) := by
  unfold State.celReq
  repeat' with_reducible first | assumption | exact parts_sub (by with_unfolding_all decide) hl | refine hf _ ?_ | apply State.request_only | apply ite_only | apply ite_only1 | apply ite_only2 | apply ite_only22 | apply ite_only21 | intro _ _ _ _ | intro _ _ _ | intro _ _

theorem execCelOpRead_only {s0 : State} {pl : List Part} (e : ImmEnv) (body : List Byte) {s : State} (hl : [.ctrs, .mgt, .logs] ⊆ pl) (hs0 : only pl s0 s) : OnlyR pl s0 (execCelOpRead e body s) := by
  unfold execCelOpRead
  repeat' with_reducible first | assumption | exact parts_sub (by with_unfolding_all decide) hl | exact only.refl _ _ | apply OnlyR.next | apply ite_onlyR | apply State.celReq_only | apply State.celSuspends_only | apply ite_only | apply ite_only1 | apply ite_only2 | apply ite_only22 | apply ite_only21 | dsimp only | intro _ _ _ _ | intro _ _ _ | intro _ _ | split | (apply only.lit <;> first | exact Or.inr rfl | exact Or.inl (parts_mem hl (by with_unfolding_all decide)) | skip) | refine only.eq2 (by assumption) ?_ | refine only.eq22 (by assumption) ?_ | refine only.eq1 (by assumption) ?_

theorem execCelOpProgram_only {s0 : State} {pl : List Part} (e : ImmEnv) (body : List Byte) {s : State} (hl : [.regs, .ctrs, .freeCtr, .mgt, .logs, .irq, .cel] ⊆ pl) (hs0 : only pl s0 s) : OnlyR pl s0 (execCelOpProgram e body s) := by
  unfold execCelOpProgram
  repeat' with_reducible first | assumption | exact parts_sub (by with_unfolding_all decide) hl | exact only.refl _ _ | apply OnlyR.next | apply ite_onlyR | apply State.celNext_only | apply State.celReq_only | apply ite_only | apply ite_only1 | apply ite_only2 | apply ite_only22 | apply ite_only21 | dsimp only | intro _ _ _ _ | intro _ _ _ | intro _ _ | split | (apply only.lit <;> first | exact Or.inl (parts_mem hl (by with_unfolding_all decide)) | exact Or.inr rfl | skip)

theorem execCelOpErase_only {s0 : State} {pl : List Part} (e : ImmEnv) (body : List Byte) {s : State} (hl : [.regs, .ctrs, .freeCtr, .mgt, .logs, .irq, .cel] ⊆ pl) (hs0 : only pl s0 s) : OnlyR pl s0 (execCelOpErase e body s) := by
  unfold execCelOpErase
  repeat' with_reducible first | assumption | exact parts_sub (by with_unfolding_all decide) hl | exact only.refl _ _ | apply OnlyR.next | apply ite_onlyR | apply State.celOpDone_only | apply State.celReq_only | apply State.celStart_only | apply ite_only | apply ite_only1 | apply ite_only2 | apply ite_only22 | apply ite_only21 | dsimp only | intro _ _ _ _ | intro _ _ _ | intro _ _ | split | (apply only.lit <;> first | exact Or.inr rfl | exact Or.inl (parts_mem hl (by with_unfolding_all decide)) | skip) | refine only.eq2 (by assumption) ?_ | refine only.eq22 (by assumption) ?_ | refine only.eq1 (by assumption) ?_

theorem execSetLevel_only {s0 : State} {pl : List Part} (e : ImmEnv) (body : List Byte) {s : State} (hl : [.regs, .ctrs, .mgt, .logs, .cel] ⊆ pl) (hs0 : only pl s0 s) : OnlyR pl s0 (execSetLevel e body s) := by
  unfold execSetLevel
  repeat' with_reducible first | assumption | exact parts_sub (by with_unfolding_all decide) hl | exact only.refl _ _ | apply OnlyR.next | apply ite_onlyR | apply State.celReq_only | apply State.celShow_only | apply State.setProtLevel_only | apply ite_only | apply ite_only1 | apply ite_only2 | apply ite_only22 | apply ite_only21 | dsimp only | intro _ _ _ _ | intro _ _ _ | intro _ _ | (apply only.lit <;> first | exact Or.inl (parts_mem hl (by with_unfolding_all decide)) | exact Or.inr rfl | skip)

theorem execBbtRead_only {s0 : State} {pl : List Part} (e : ImmEnv) (body : List Byte) {s : State} (hl : [.ctrs, .mgt, .logs] ⊆ pl) (hs0 : only pl s0 s) : OnlyR pl s0 (execBbtRead e body s) := by
  unfold execBbtRead
  repeat' with_reducible first | assumption | exact parts_sub (by with_unfolding_all decide) hl | exact only.refl _ _ | apply OnlyR.next | apply ite_onlyR | apply State.celReq_only | apply ite_only | apply ite_only1 | apply ite_only2 | apply ite_only22 | apply ite_only21 | dsimp only | intro _ _ _ _ | intro _ _ _ | intro _ _

theorem execCelOpStatus_only {s0 : State} {pl : List Part} (e : ImmEnv) (body : List Byte) {s : State} (hl : [.ctrs, .mgt, .logs] ⊆ pl) (hs0 : only pl s0 s) : OnlyR pl s0 (execCelOpStatus e body s) := by
  unfold execCelOpStatus
  repeat' with_reducible first | assumption | exact parts_sub (by with_unfolding_all decide) hl | exact only.refl _ _ | apply OnlyR.next | apply ite_onlyR | apply State.celReq_only | apply ite_only | apply ite_only1 | apply ite_only2 | apply ite_only22 | apply ite_only21 | intro _ _ _ _ | intro _ _ _ | intro _ _

theorem State.bistReq_only {s0 : State} {pl : List Part} {s : State} (e : ImmEnv) (op : Byte) (body : List Byte) (f : State → State × Reply) (hf : ∀ y0, only pl s0 y0 → only pl s0 (f y0).1) (hl : [.ctrs, .mgt, .logs] ⊆ pl) (hs0 : only pl s0 s) : only pl s0 (State.bistReq s e op body f) := by
  unfold State.bistReq
  repeat' with_reducible first | assumption | exact parts_sub (by with_unfolding_all decide) hl | refine hf _ ?_ | apply State.request_only | apply ite_only | apply ite_only1 | apply ite_only2 | apply ite_only22 | apply ite_only21 | intro _ _ _ _ | intro _ _ _ | intro _ _

theorem execBistRunTest_only {s0 : State} {pl : List Part} (e : ImmEnv) (body : List Byte) {s : State} (hl : [.regs, .ctrs, .mgt, .logs, .cfg, .mem, .scr, .bist] ⊆ pl) (hs0 : only pl s0 s) : OnlyR pl s0 (execBistRunTest e body s) := by
  unfold execBistRunTest
  repeat' with_reducible first | assumption | exact parts_sub (by with_unfolding_all decide) hl | exact only.refl _ _ | apply OnlyR.next | apply ite_onlyR | apply State.bistAccept_only | apply State.bistReq_only | apply ite_only | apply ite_only1 | apply ite_only2 | apply ite_only22 | apply ite_only21 | dsimp only | intro _ _ _ _ | intro _ _ _ | intro _ _ | split

theorem execBistRunFuse_only {s0 : State} {pl : List Part} (e : ImmEnv) (body : List Byte) {s : State} (hl : [.ctrs, .mgt, .logs, .bist] ⊆ pl) (hs0 : only pl s0 s) : OnlyR pl s0 (execBistRunFuse e body s) := by
  unfold execBistRunFuse
  repeat' with_reducible first | assumption | exact parts_sub (by with_unfolding_all decide) hl | exact only.refl _ _ | apply OnlyR.next | apply ite_onlyR | apply State.bistReq_only | apply State.fuseStart_only | apply ite_only | apply ite_only1 | apply ite_only2 | apply ite_only22 | apply ite_only21 | dsimp only | intro _ _ _ _ | intro _ _ _ | intro _ _

theorem execBistRunStatus_only {s0 : State} {pl : List Part} (e : ImmEnv) (body : List Byte) {s : State} (hl : [.ctrs, .mgt, .logs] ⊆ pl) (hs0 : only pl s0 s) : OnlyR pl s0 (execBistRunStatus e body s) := by
  unfold execBistRunStatus
  repeat' with_reducible first | assumption | exact parts_sub (by with_unfolding_all decide) hl | exact only.refl _ _ | apply OnlyR.next | apply ite_onlyR | apply State.bistReq_only | intro _ _ _ _ | intro _ _ _ | intro _ _

theorem execBistRunDefectRead_only {s0 : State} {pl : List Part} (e : ImmEnv) (body : List Byte) {s : State} (hl : [.ctrs, .mgt, .logs] ⊆ pl) (hs0 : only pl s0 s) : OnlyR pl s0 (execBistRunDefectRead e body s) := by
  unfold execBistRunDefectRead
  repeat' with_reducible first | assumption | exact parts_sub (by with_unfolding_all decide) hl | exact only.refl _ _ | apply OnlyR.next | apply ite_onlyR | apply State.bistReq_only | apply ite_only | apply ite_only1 | apply ite_only2 | apply ite_only22 | apply ite_only21 | dsimp only | intro _ _ _ _ | intro _ _ _ | intro _ _

end Sys2Proof.Machine
end

