-- ==== Sys2Proof/Laws/Frame/Dbg.lean ====
section
/-! SUPPORT. The frames of Machine/Dbg.lean: which parts of the state each operation and each command may change. -/

namespace Sys2Proof.Machine


theorem State.dbgVoid_only {s0 : State} {pl : List Part} {s : State} (hl : [.dbg] ⊆ pl) (hs0 : only pl s0 s) : only pl s0 (State.dbgVoid s) := by
  unfold State.dbgVoid
  repeat' with_reducible first | assumption | exact parts_sub (by with_unfolding_all decide) hl | (apply only.lit <;> first | exact Or.inl (parts_mem hl (by with_unfolding_all decide)) | exact Or.inr rfl | skip)

theorem execDbgOpen_only {s0 : State} {pl : List Part} (e : ImmEnv) (body : List Byte) {s : State} (hl : [.ctrs, .freeCtr, .mgt, .dbg, .logs] ⊆ pl) (hs0 : only pl s0 s) : OnlyR pl s0 (execDbgOpen e body s) := by
  unfold execDbgOpen
  repeat' with_reducible first | assumption | exact parts_sub (by with_unfolding_all decide) hl | exact only.refl _ _ | apply OnlyR.next | apply ite_onlyR | apply State.fresh_only | apply State.request_only | apply ite_only | apply ite_only1 | apply ite_only2 | apply ite_only22 | apply ite_only21 | dsimp only | intro _ _ _ _ | intro _ _ _ | intro _ _ | (apply only.lit <;> first | exact Or.inl (parts_mem hl (by with_unfolding_all decide)) | exact Or.inr rfl | skip)

theorem execDbgAuth_only {s0 : State} {pl : List Part} (e : ImmEnv) (body : List Byte) {s : State} (hl : [.ctrs, .mgt, .dbg, .logs] ⊆ pl) (hs0 : only pl s0 s) : OnlyR pl s0 (execDbgAuth e body s) := by
  unfold execDbgAuth
  repeat' with_reducible first | assumption | exact parts_sub (by with_unfolding_all decide) hl | exact only.refl _ _ | apply OnlyR.next | apply ite_onlyR | apply State.dbgVoid_only | apply State.raiseDev_only | apply State.request_only | apply ite_only | apply ite_only1 | apply ite_only2 | apply ite_only22 | apply ite_only21 | dsimp only | intro _ _ _ _ | intro _ _ _ | intro _ _ | split | (apply only.lit <;> first | exact Or.inl (parts_mem hl (by with_unfolding_all decide)) | exact Or.inr rfl | skip)

theorem execDbgChallengeTimeout_only {s0 : State} {pl : List Part} {s : State} (hl : [.dbg] ⊆ pl) (hs0 : only pl s0 s) : OnlyR pl s0 (execDbgChallengeTimeout s) := by
  unfold execDbgChallengeTimeout
  repeat' with_reducible first | assumption | exact parts_sub (by with_unfolding_all decide) hl | exact only.refl _ _ | apply OnlyR.next | apply ite_onlyR | apply State.dbgVoid_only

theorem execDbgClose_only {s0 : State} {pl : List Part} (e : ImmEnv) (body : List Byte) {s : State} (hl : [.regs, .ctrs, .mgt, .dbg, .logs, .irq] ⊆ pl) (hs0 : only pl s0 s) : OnlyR pl s0 (execDbgClose e body s) := by
  unfold execDbgClose
  repeat' with_reducible first | assumption | exact parts_sub (by with_unfolding_all decide) hl | exact only.refl _ _ | apply OnlyR.next | apply ite_onlyR | apply State.dbgEnd_only | apply State.request_only | apply ite_only | apply ite_only1 | apply ite_only2 | apply ite_only22 | apply ite_only21 | intro _ _ _ _ | intro _ _ _ | intro _ _

theorem State.dbgRead_only {s0 : State} {pl : List Part} {s : State} (a n : Nat) (hl : [.regs, .ctrs, .latches, .mtime, .freeCtr, .answer, .mgt, .dbg, .logs, .irq, .clk, .noc, .span, .inject, .prbs, .dram, .procs, .cfg, .img, .churn, .fab, .slc, .mem, .time, .cel, .scr, .fen, .dma, .svc, .cores, .pwr, .lcs, .bist, .pins] ⊆ pl) (hs0 : only pl s0 s) : only pl s0 (State.dbgRead s a n).1 := by
  unfold State.dbgRead
  repeat' with_reducible first | assumption | exact parts_sub (by with_unfolding_all decide) hl | apply State.immRead_only | split

theorem State.dbgWrite_only {s0 : State} {pl : List Part} {s : State} (a : Nat) (bs : List Byte) (hl : [.regs, .ctrs, .latches, .mtime, .freeCtr, .answer, .mgt, .dbg, .logs, .irq, .clk, .noc, .span, .inject, .prbs, .dram, .procs, .cfg, .img, .churn, .fab, .slc, .mem, .time, .cel, .scr, .fen, .dma, .svc, .cores, .pwr, .lcs, .bist, .pins] ⊆ pl) (hs0 : only pl s0 s) : only pl s0 (State.dbgWrite s a bs).1 := by
  unfold State.dbgWrite
  repeat' with_reducible first | assumption | exact parts_sub (by with_unfolding_all decide) hl | apply State.immWrite_only | apply State.snoopInval_only | apply ite_only

theorem State.runBody_only {s0 : State} {pl : List Part} {s : State} (k : Nat) (hl : [.freeCtr] ⊆ pl) (hs0 : only pl s0 s) : only pl s0 (State.runBody s k).1 := by
  unfold State.runBody
  repeat' with_reducible first | assumption | exact parts_sub (by with_unfolding_all decide) hl | apply State.fresh_only | apply ite_only | apply ite_only1

theorem State.askCore_only {s0 : State} {pl : List Part} {s : State} (k n : Nat) (e : ImmEnv) (hl : [.dbg] ⊆ pl) (hs0 : only pl s0 s) : only pl s0 (State.askCore s k n e) := by
  unfold State.askCore
  repeat' with_reducible first | assumption | exact parts_sub (by with_unfolding_all decide) hl | (apply only.lit <;> first | exact Or.inl (parts_mem hl (by with_unfolding_all decide)) | exact Or.inr rfl | skip)

theorem State.dbgRun_only {s0 : State} {pl : List Part} {s : State} (e : ImmEnv) (core action : Byte) (f : State → Nat → State × Reply) (hf : ∀ y0 y1, only pl s0 y0 → only pl s0 (f y0 y1).1) (hl : [.ctrs, .mgt, .logs] ⊆ pl) (hs0 : only pl s0 s) : only pl s0 (State.dbgRun s e core action f) := by
  unfold State.dbgRun
  repeat' with_reducible first | assumption | exact parts_sub (by with_unfolding_all decide) hl | refine hf _ _ ?_ | apply State.request_only | apply ite_only | apply ite_only1 | apply ite_only2 | apply ite_only22 | apply ite_only21 | intro _ _ _ _ | intro _ _ _ | intro _ _

theorem execDbgRunHalt_only {s0 : State} {pl : List Part} (e : ImmEnv) (core : Byte) {s : State} (hl : [.ctrs, .freeCtr, .mgt, .dbg, .logs] ⊆ pl) (hs0 : only pl s0 s) : OnlyR pl s0 (execDbgRunHalt e core s) := by
  unfold execDbgRunHalt
  repeat' with_reducible first | assumption | exact parts_sub (by with_unfolding_all decide) hl | exact only.refl _ _ | apply OnlyR.next | apply ite_onlyR | apply State.askCore_only | apply State.dbgRun_only | apply State.runBody_only | apply ite_only | apply ite_only1 | apply ite_only2 | apply ite_only22 | apply ite_only21 | dsimp only | intro _ _ _ _ | intro _ _ _

theorem execDbgRunResume_only {s0 : State} {pl : List Part} (e : ImmEnv) (core : Byte) {s : State} (hl : [.regs, .ctrs, .freeCtr, .mgt, .dbg, .logs, .irq] ⊆ pl) (hs0 : only pl s0 s) : OnlyR pl s0 (execDbgRunResume e core s) := by
  unfold execDbgRunResume
  repeat' with_reducible first | assumption | exact parts_sub (by with_unfolding_all decide) hl | exact only.refl _ _ | apply OnlyR.next | apply ite_onlyR | apply State.dbgRun_only | apply State.resumeCore_only | apply State.runBody_only | dsimp only | intro _ _ _ _ | intro _ _ _

theorem execDbgRunStep_only {s0 : State} {pl : List Part} (e : ImmEnv) (core : Byte) {s : State} (hl : [.ctrs, .mgt, .dbg, .logs] ⊆ pl) (hs0 : only pl s0 s) : OnlyR pl s0 (execDbgRunStep e core s) := by
  unfold execDbgRunStep
  repeat' with_reducible first | assumption | exact parts_sub (by with_unfolding_all decide) hl | exact only.refl _ _ | apply OnlyR.next | apply ite_onlyR | apply State.askCore_only | apply State.dbgRun_only | apply ite_only | apply ite_only1 | apply ite_only2 | apply ite_only22 | apply ite_only21 | intro _ _ _ _ | intro _ _ _

theorem execDbgRunStatus_only {s0 : State} {pl : List Part} (e : ImmEnv) (core : Byte) {s : State} (hl : [.ctrs, .freeCtr, .mgt, .logs] ⊆ pl) (hs0 : only pl s0 s) : OnlyR pl s0 (execDbgRunStatus e core s) := by
  unfold execDbgRunStatus
  repeat' with_reducible first | assumption | exact parts_sub (by with_unfolding_all decide) hl | exact only.refl _ _ | apply OnlyR.next | apply ite_onlyR | apply State.dbgRun_only | apply State.runBody_only | dsimp only | intro _ _ _ _ | intro _ _ _

theorem State.haltCore_only {s0 : State} {pl : List Part} {s : State} (k : Nat) (r : CpuRun) (hl : [.regs, .irq, .procs, .cores] ⊆ pl) (hs0 : only pl s0 s) : only pl s0 (State.haltCore s k r) := by
  unfold State.haltCore
  repeat' with_reducible first | assumption | exact parts_sub (by with_unfolding_all decide) hl | apply State.cpuRan_only | apply State.reoffer_only | apply State.setProc_only | apply State.wrb_only

theorem State.payOwed_only {s0 : State} {pl : List Part} {s : State} (k : Nat) (hl : [.ctrs, .freeCtr, .mgt, .dbg, .logs] ⊆ pl) (hs0 : only pl s0 s) : only pl s0 (State.payOwed s k) := by
  unfold State.payOwed
  repeat' with_reducible first | assumption | exact parts_sub (by with_unfolding_all decide) hl | apply State.respondSeq_only | apply State.runBody_only | dsimp only | split | (apply only.lit <;> first | exact Or.inl (parts_mem hl (by with_unfolding_all decide)) | exact Or.inr rfl | skip)

theorem execProcessorHalted_only {s0 : State} {pl : List Part} (k : Fin 5) (r : CpuRun) {s : State} (hl : [.regs, .ctrs, .freeCtr, .mgt, .dbg, .logs, .irq, .procs, .cores] ⊆ pl) (hs0 : only pl s0 s) : OnlyR pl s0 (execProcessorHalted k r s) := by
  unfold execProcessorHalted
  repeat' with_reducible first | assumption | exact parts_sub (by with_unfolding_all decide) hl | exact only.refl _ _ | apply OnlyR.next | apply ite_onlyR | apply State.haltCore_only | apply State.payOwed_only | apply ite_only | apply ite_only1 | apply ite_only2 | apply ite_only22 | apply ite_only21 | dsimp only | (apply only.lit <;> first | exact Or.inl (parts_mem hl (by with_unfolding_all decide)) | exact Or.inr rfl | skip)

theorem execBreakpointHit_only {s0 : State} {pl : List Part} (k : Fin 5) (i : Fin 4) (r : CpuRun) {s : State} (hl : [.regs, .ctrs, .freeCtr, .mgt, .dbg, .logs, .irq, .procs, .cores] ⊆ pl) (hs0 : only pl s0 s) : OnlyR pl s0 (execBreakpointHit k i r s) := by
  unfold execBreakpointHit
  repeat' with_reducible first | assumption | exact parts_sub (by with_unfolding_all decide) hl | exact only.refl _ _ | apply OnlyR.next | apply ite_onlyR | apply State.haltCore_only | apply State.payOwed_only | apply ite_only | apply ite_only1 | apply ite_only2 | apply ite_only22 | apply ite_only21 | dsimp only | (apply only.lit <;> first | exact Or.inr rfl | exact Or.inl (parts_mem hl (by with_unfolding_all decide)) | skip)

theorem State.dbgPut_only {s0 : State} {pl : List Part} {s : State} (c kind n : Nat) (v : BitVec 64) (hl : [.regs, .ctrs, .mgt, .logs, .irq, .procs] ⊆ pl) (hs0 : only pl s0 s) : only pl s0 (State.dbgPut s c kind n v) := by
  unfold State.dbgPut
  repeat' with_reducible first | assumption | exact parts_sub (by with_unfolding_all decide) hl | apply State.reoffer_only | apply State.setProc_only | apply State.srcSet_only | apply ite_only | apply ite_only1 | apply ite_only2 | apply ite_only22 | apply ite_only21 | dsimp only | split

theorem execDbgCpu_only {s0 : State} {pl : List Part} (e : ImmEnv) (body : List Byte) {s : State} (hl : [.regs, .ctrs, .mgt, .logs, .irq, .procs] ⊆ pl) (hs0 : only pl s0 s) : OnlyR pl s0 (execDbgCpu e body s) := by
  unfold execDbgCpu
  repeat' with_reducible first | assumption | exact parts_sub (by with_unfolding_all decide) hl | exact only.refl _ _ | apply OnlyR.next | apply ite_onlyR | apply State.dbgPut_only | apply State.request_only | apply State.wr_only | apply ite_only | apply ite_only1 | apply ite_only2 | apply ite_only22 | apply ite_only21 | dsimp only | intro _ _ _ _ | intro _ _ _ | intro _ _

theorem execDbgBkpt_only {s0 : State} {pl : List Part} (e : ImmEnv) (body : List Byte) {s : State} (hl : [.ctrs, .mgt, .dbg, .logs] ⊆ pl) (hs0 : only pl s0 s) : OnlyR pl s0 (execDbgBkpt e body s) := by
  unfold execDbgBkpt
  repeat' with_reducible first | assumption | exact parts_sub (by with_unfolding_all decide) hl | exact only.refl _ _ | apply OnlyR.next | apply ite_onlyR | apply State.request_only | apply ite_only | apply ite_only1 | apply ite_only2 | apply ite_only22 | apply ite_only21 | dsimp only | intro _ _ _ _ | intro _ _ _ | intro _ _ | (apply only.lit <;> first | exact Or.inl (parts_mem hl (by with_unfolding_all decide)) | exact Or.inr rfl | skip)

end Sys2Proof.Machine
end

