-- ==== Sys2Proof/Laws/Frame/Qm.lean ====
section
/-! SUPPORT. The frames of Machine/Qm.lean: which parts of the state each operation and each command may change. -/

namespace Sys2Proof.Machine


theorem State.fetchDesc_only {s0 : State} {pl : List Part} {s : State} (q k : Nat) (hl : [.regs, .ctrs, .latches, .mtime, .freeCtr, .answer, .mgt, .dbg, .logs, .irq, .clk, .noc, .span, .inject, .prbs, .dram, .procs, .cfg, .img, .churn, .fab, .slc, .mem, .time, .cel, .scr, .fen, .dma, .svc, .cores, .pwr, .lcs, .bist, .pins] ⊆ pl) (hs0 : only pl s0 s) : only pl s0 (State.fetchDesc s q k).1 := by
  unfold State.fetchDesc
  repeat' with_reducible first | assumption | exact parts_sub (by with_unfolding_all decide) hl | apply State.memRead_only | apply State.qStop_only | apply ite_only | apply ite_only1

theorem State.completeDesc_only {s0 : State} {pl : List Part} {s : State} (q k result : Nat) (irq : Bool) (hl : [.regs, .ctrs, .latches, .mtime, .freeCtr, .answer, .mgt, .dbg, .logs, .irq, .clk, .noc, .span, .inject, .prbs, .dram, .procs, .cfg, .img, .churn, .fab, .slc, .mem, .time, .cel, .scr, .fen, .dma, .svc, .cores, .pwr, .lcs, .bist, .pins] ⊆ pl) (hs0 : only pl s0 s) : only pl s0 (State.completeDesc s q k result irq) := by
  unfold State.completeDesc
  repeat' with_reducible first | assumption | exact parts_sub (by with_unfolding_all decide) hl | apply State.fenFlag_only | apply State.memWrite_only | apply State.qStop_only | apply State.wr_only | apply ite_only | apply ite_only1

theorem State.ovfPlace_only {s0 : State} {pl : List Part} {s : State} (x0 : Nat) (x1 : List Nat) (hl : [.freeCtr] ⊆ pl) (hs0 : only pl s0 s) : only pl s0 (State.ovfPlace s x0 x1).1 := by
  induction x0 generalizing s x1 with
  | zero =>
    unfold State.ovfPlace
    repeat' with_reducible first | assumption | exact parts_sub (by with_unfolding_all decide) hl | apply State.fresh_only | dsimp only
  | succ x0 ih =>
    unfold State.ovfPlace
    repeat' with_reducible first | assumption | apply ih | exact parts_sub (by with_unfolding_all decide) hl | apply State.fresh_only | dsimp only

theorem State.ovfWrites_only {s0 : State} {pl : List Part} {s : State} (q : Nat) (cells : List Nat) (bs : List Byte) (poison : Bool) (hl : [.regs, .ctrs, .latches, .mtime, .freeCtr, .answer, .mgt, .dbg, .logs, .irq, .clk, .noc, .span, .inject, .prbs, .dram, .procs, .cfg, .img, .churn, .fab, .slc, .mem, .time, .cel, .scr, .fen, .dma, .svc, .cores, .pwr, .lcs, .bist, .pins] ⊆ pl) (hs0 : only pl s0 s) : only pl s0 (State.ovfWrites s q cells bs poison) := by
  unfold State.ovfWrites
  repeat' with_reducible first | assumption | exact parts_sub (by with_unfolding_all decide) hl | apply State.memWrites_only | refine foldl_only _ _ (fun _ _ _ => ?_) ?_ | refine foldl_only1 _ _ (fun _ _ _ => ?_) ?_ | refine foldl_only2 _ _ (fun _ _ _ => ?_) ?_ | refine foldl_only22 _ _ (fun _ _ _ => ?_) ?_ | refine foldl_only21 _ _ (fun _ _ _ => ?_) ?_ | intro _ _ _ _ | intro _ _ _ | intro _ _

theorem State.ovfReads_only {s0 : State} {pl : List Part} {s : State} (q : Nat) (f : HeldF) (hl : [.regs, .ctrs, .latches, .mtime, .freeCtr, .answer, .mgt, .dbg, .logs, .irq, .clk, .noc, .span, .inject, .prbs, .dram, .procs, .cfg, .img, .churn, .fab, .slc, .mem, .time, .cel, .scr, .fen, .dma, .svc, .cores, .pwr, .lcs, .bist, .pins] ⊆ pl) (hs0 : only pl s0 s) : only pl s0 (State.ovfReads s q f).1 := by
  unfold State.ovfReads
  repeat' with_reducible first | assumption | exact parts_sub (by with_unfolding_all decide) hl | apply State.memReads_only | refine foldl_only _ _ (fun _ _ _ => ?_) ?_ | refine foldl_only1 _ _ (fun _ _ _ => ?_) ?_ | refine foldl_only2 _ _ (fun _ _ _ => ?_) ?_ | refine foldl_only22 _ _ (fun _ _ _ => ?_) ?_ | refine foldl_only21 _ _ (fun _ _ _ => ?_) ?_ | apply ite_only | apply ite_only1 | apply ite_only2 | apply ite_only22 | apply ite_only21 | dsimp only | intro _ _ _ _ | intro _ _ _ | intro _ _ | (apply only.lit <;> first | exact Or.inr rfl | exact Or.inl (parts_mem hl (by with_unfolding_all decide)) | skip)

theorem State.bufPut_only {s0 : State} {pl : List Part} {s : State} (m q v : Nat) (bs : List Byte) (result ts : Nat) (hl : [.regs, .ctrs, .latches, .mtime, .freeCtr, .answer, .mgt, .dbg, .logs, .irq, .clk, .noc, .span, .inject, .prbs, .dram, .procs, .cfg, .img, .churn, .fab, .slc, .mem, .time, .cel, .scr, .fen, .dma, .svc, .cores, .pwr, .lcs, .bist, .pins] ⊆ pl) (hs0 : only pl s0 s) : only pl s0 (State.bufPut s m q v bs result ts) := by
  unfold State.bufPut
  repeat' with_reducible first | assumption | exact parts_sub (by with_unfolding_all decide) hl | apply State.bump_only | apply State.fenFlag_only | apply State.ovfPlace_only | apply State.ovfWrites_only | apply State.raiseDev_only | apply State.setHeld_only | apply ite_only | apply ite_only1 | apply ite_only2 | apply ite_only22 | apply ite_only21 | dsimp only | intro _ _ _ _ | intro _ _ _ | intro _ _ | (apply only.lit <;> first | exact Or.inr rfl | exact Or.inl (parts_mem hl (by with_unfolding_all decide)) | skip)

theorem State.rxQueue_only {s0 : State} {pl : List Part} {s : State} (m q : Nat) (bs : List Byte) (result ts : Nat) (hl : [.regs, .ctrs, .latches, .mtime, .freeCtr, .answer, .mgt, .dbg, .logs, .irq, .clk, .noc, .span, .inject, .prbs, .dram, .procs, .cfg, .img, .churn, .fab, .slc, .mem, .time, .cel, .scr, .fen, .dma, .svc, .cores, .pwr, .lcs, .bist, .pins] ⊆ pl) (hs0 : only pl s0 s) : only pl s0 (State.rxQueue s m q bs result ts) := by
  unfold State.rxQueue
  repeat' with_reducible first | assumption | exact parts_sub (by with_unfolding_all decide) hl | apply State.bufPut_only | apply State.fenDrop_only | apply State.qDrop_only | apply ite_only | apply ite_only1 | apply ite_only2 | apply ite_only22 | apply ite_only21 | dsimp only | split | (apply only.lit <;> first | exact Or.inr rfl | exact Or.inl (parts_mem hl (by with_unfolding_all decide)) | skip) | refine only.eq2 (by assumption) ?_ | refine only.eq22 (by assumption) ?_ | refine only.eq1 (by assumption) ?_

theorem State.rxInto_only {s0 : State} {pl : List Part} {s : State} (q k : Nat) (d : List Byte) (f : HeldF) (rest : List HeldF) (hl : [.regs, .ctrs, .latches, .mtime, .freeCtr, .answer, .mgt, .dbg, .logs, .irq, .clk, .noc, .span, .inject, .prbs, .dram, .procs, .cfg, .img, .churn, .fab, .slc, .mem, .time, .cel, .scr, .fen, .dma, .svc, .cores, .pwr, .lcs, .bist, .pins] ⊆ pl) (hs0 : only pl s0 s) : only pl s0 (State.rxInto s q k d f rest) := by
  unfold State.rxInto
  repeat' with_reducible first | assumption | exact parts_sub (by with_unfolding_all decide) hl | apply State.completeDesc_only | apply State.memWrite_only | apply State.memWrites_only | apply State.qStop_only | apply State.setHeld_only | apply ite_only | apply ite_only1

theorem execRxFrameWrite_only {s0 s : State} {pl : List Part} (n : Fin 65536) (hl : [.regs, .ctrs, .latches, .mtime, .freeCtr, .answer, .mgt, .dbg, .logs, .irq, .clk, .noc, .span, .inject, .prbs, .dram, .procs, .cfg, .img, .churn, .fab, .slc, .mem, .time, .cel, .scr, .fen, .dma, .svc, .cores, .pwr, .lcs, .bist, .pins] ⊆ pl)
    (hs0 : only pl s0 s) : OnlyR pl s0 (execRxFrameWrite n s) := by
  unfold execRxFrameWrite
  dsimp only
  split
  · exact OnlyR.next hs0
  · refine ite_onlyR (OnlyR.next hs0) ?_
    have g := State.fetchDesc_only (pl := pl) n.val (s.rd (QM.CIDX.CIDX n.val)) (parts_sub (by decide) hl) hs0
    generalize s.fetchDesc n.val (s.rd (QM.CIDX.CIDX n.val)) = p at g ⊢
    obtain ⟨u, d⟩ := p
    cases d with
    | none => exact OnlyR.next g
    | some d =>
      exact ite_onlyR (OnlyR.next (State.qDrop_only _ _ _ (parts_sub (by decide) hl)
          (State.setHeld_only _ _ (parts_sub (by decide) hl) g)))
        (OnlyR.next (State.rxInto_only _ _ _ _ _ (parts_sub (by decide) hl)
          (State.ovfReads_only _ _ (parts_sub (by decide) hl) g)))

theorem State.txDrop_only {s0 : State} {pl : List Part} {s : State} (m : Nat) (f : TxF) (result off : Nat) (hl : [.regs, .ctrs, .mgt, .logs, .irq, .fen] ⊆ pl) (hs0 : only pl s0 s) : only pl s0 (State.txDrop s m f result off) := by
  unfold State.txDrop
  repeat' with_reducible first | assumption | exact parts_sub (by with_unfolding_all decide) hl | apply State.qDrop_only | apply State.setFport_only

theorem State.stageFrame_only {s0 : State} {pl : List Part} {s : State} (m q k : Nat) (d : List Byte) (hl : [.regs, .ctrs, .latches, .mtime, .freeCtr, .answer, .mgt, .dbg, .logs, .irq, .clk, .noc, .span, .inject, .prbs, .dram, .procs, .cfg, .img, .churn, .fab, .slc, .mem, .time, .cel, .scr, .fen, .dma, .svc, .cores, .pwr, .lcs, .bist, .pins] ⊆ pl) (hs0 : only pl s0 s) : only pl s0 (State.stageFrame s m q k d) := by
  unfold State.stageFrame
  repeat' with_reducible first | assumption | exact parts_sub (by with_unfolding_all decide) hl | apply State.memReads_only | apply State.qStop_only | apply State.setFport_only | apply State.txDrop_only | apply ite_only

theorem State.stageCands_only {s0 s : State} {pl : List Part} (m c : Nat) (hl : [.regs, .ctrs, .latches, .mtime, .freeCtr, .answer, .mgt, .dbg, .logs, .irq, .clk, .noc, .span, .inject, .prbs, .dram, .procs, .cfg, .img, .churn, .fab, .slc, .mem, .time, .cel, .scr, .fen, .dma, .svc, .cores, .pwr, .lcs, .bist, .pins] ⊆ pl)
    (hs0 : only pl s0 s) : only pl s0 (State.stageCands s m c).1 := by
  unfold State.stageCands
  refine foldl_only1 _ _ (fun r q h => ?_) (pair_only hs0)
  split
  · exact h
  · rename_i k _
    have g := State.fetchDesc_only (pl := pl) q k (parts_sub (by decide) hl) h
    generalize r.1.fetchDesc q k = p at g ⊢
    obtain ⟨u, d⟩ := p
    cases d with
    | none => exact g
    | some d => exact ite_only1 (pair_only g) (pair_only g)

theorem State.stageFrom_only {s0 : State} {pl : List Part} (m : Nat) (x0 : Nat) {s : State} (hl : [.regs, .ctrs, .latches, .mtime, .freeCtr, .answer, .mgt, .dbg, .logs, .irq, .clk, .noc, .span, .inject, .prbs, .dram, .procs, .cfg, .img, .churn, .fab, .slc, .mem, .time, .cel, .scr, .fen, .dma, .svc, .cores, .pwr, .lcs, .bist, .pins] ⊆ pl) (hs0 : only pl s0 s) : only pl s0 (State.stageFrom m x0 s) := by
  induction x0 generalizing m s with
  | zero =>
    unfold State.stageFrom
    repeat' with_reducible first | assumption
  | succ x0 ih =>
    unfold State.stageFrom
    repeat' with_reducible first | assumption | exact parts_sub (by with_unfolding_all decide) hl | apply ih | apply State.stageCands_only | apply State.stageFrame_only | apply ite_only | apply ite_only1 | apply ite_only2 | apply ite_only22 | apply ite_only21 | dsimp only | intro _ _ _ _ | intro _ _ _ | intro _ _ | split | (apply only.lit <;> first | exact Or.inl (parts_mem hl (by with_unfolding_all decide)) | exact Or.inr rfl | skip)

theorem execTimedLaunch_only {s0 : State} {pl : List Part} (m : Fin 96) (phase : Fin 64) {s : State} (hl : [.regs, .ctrs, .freeCtr, .mgt, .logs, .irq, .time, .fen] ⊆ pl) (hs0 : only pl s0 s) : OnlyR pl s0 (execTimedLaunch m phase s) := by
  unfold execTimedLaunch
  repeat' with_reducible first | assumption | exact parts_sub (by with_unfolding_all decide) hl | exact only.refl _ _ | apply OnlyR.next | apply ite_onlyR | apply State.sendFrame_only | apply State.setFport_only | refine foldl_only _ _ (fun _ _ _ => ?_) ?_ | refine foldl_only1 _ _ (fun _ _ _ => ?_) ?_ | refine foldl_only2 _ _ (fun _ _ _ => ?_) ?_ | refine foldl_only22 _ _ (fun _ _ _ => ?_) ?_ | refine foldl_only21 _ _ (fun _ _ _ => ?_) ?_ | apply ite_only | apply ite_only1 | apply ite_only2 | apply ite_only22 | apply ite_only21 | dsimp only | intro _ _ _ _ | intro _ _ _ | intro _ _ | split

theorem execLateTimedFrame_only {s0 s : State} {pl : List Part} (n : Fin 65536)
    (hl : [.regs, .ctrs, .latches, .mtime, .freeCtr, .answer, .mgt, .dbg, .logs, .irq, .clk, .noc, .span, .inject, .prbs, .dram, .procs, .cfg, .img, .churn, .fab, .slc, .mem, .time, .cel, .scr, .fen, .dma, .svc, .cores, .pwr, .lcs, .bist, .pins] ⊆ pl) (hs0 : only pl s0 s) : OnlyR pl s0 (execLateTimedFrame n s) := by
  unfold execLateTimedFrame
  dsimp only
  refine ite_onlyR (OnlyR.next hs0) ?_
  split
  · exact ite_onlyR (OnlyR.next hs0) (ite_onlyR (OnlyR.next (State.txDrop_only _ _ _ _ (parts_sub (by decide) hl)
      (State.setFport_only _ _ (parts_sub (by decide) hl) hs0)))
      (OnlyR.next (State.setFport_only _ _ (parts_sub (by decide) hl) hs0)))
  · refine ite_onlyR (OnlyR.next hs0) ?_
    generalize (s.rd (QM.CIDX.CIDX n.val) + s.qInFlight (s.rd (QM.QCFG.PORT n.val)) n.val) % 65536 = k
    have g := State.fetchDesc_only (pl := pl) n.val k (parts_sub (by decide) hl) hs0
    generalize s.fetchDesc n.val k = p at g ⊢
    obtain ⟨u, d⟩ := p
    cases d with
    | none => exact OnlyR.next g
    | some d =>
      dsimp only
      split
      · exact OnlyR.next g
      · exact OnlyR.next (ite_only (State.stageFrame_only _ _ _ _ (parts_sub (by decide) hl) g) g)

theorem State.flushDone_only {s0 : State} {pl : List Part} {s : State} (m : Nat) (hl : [.regs, .ctrs, .latches, .mtime, .freeCtr, .answer, .mgt, .dbg, .logs, .irq, .clk, .noc, .span, .inject, .prbs, .dram, .procs, .cfg, .img, .churn, .fab, .slc, .mem, .time, .cel, .scr, .fen, .dma, .svc, .cores, .pwr, .lcs, .bist, .pins] ⊆ pl) (hs0 : only pl s0 s) : only pl s0 (State.flushDone s m) := by
  unfold State.flushDone
  repeat' with_reducible first | assumption | exact parts_sub (by with_unfolding_all decide) hl | apply State.completeDesc_only | apply State.hold_only | apply State.setFport_only | refine foldl_only _ _ (fun _ _ _ => ?_) ?_ | refine foldl_only1 _ _ (fun _ _ _ => ?_) ?_ | refine foldl_only2 _ _ (fun _ _ _ => ?_) ?_ | refine foldl_only22 _ _ (fun _ _ _ => ?_) ?_ | refine foldl_only21 _ _ (fun _ _ _ => ?_) ?_ | apply ite_only | apply ite_only1 | apply ite_only2 | apply ite_only22 | apply ite_only21 | dsimp only | intro _ _ _ _ | intro _ _ _ | intro _ _ | split | (apply only.lit <;> first | exact Or.inr rfl | exact Or.inl (parts_mem hl (by with_unfolding_all decide)) | skip) | refine only.eq2 (by assumption) ?_ | refine only.eq22 (by assumption) ?_ | refine only.eq1 (by assumption) ?_

theorem State.sent_only {s0 : State} {pl : List Part} {s : State} (m : Nat) (f : TxF) (hl : [.regs, .ctrs, .latches, .mtime, .freeCtr, .answer, .mgt, .dbg, .logs, .irq, .clk, .noc, .span, .inject, .prbs, .dram, .procs, .cfg, .img, .churn, .fab, .slc, .mem, .time, .cel, .scr, .fen, .dma, .svc, .cores, .pwr, .lcs, .bist, .pins] ⊆ pl) (hs0 : only pl s0 s) : only pl s0 (State.sent s m f) := by
  unfold State.sent
  repeat' with_reducible first | assumption | exact parts_sub (by with_unfolding_all decide) hl | apply State.flushDone_only | apply State.setFport_only | dsimp only | split

end Sys2Proof.Machine
end

