-- ==== Sys2Proof/Laws/Frame/RegRows.lean ====
section
/-! SUPPORT. The frames of Machine/RegRows.lean: which parts of the state each operation and each command may change. -/

namespace Sys2Proof.Machine


theorem State.tbRow_only {s0 : State} {pl : List Part} {s : State} (q : Req) (b : Nat) (w : Word) (hl : [.regs, .ctrs, .latches, .mtime, .freeCtr, .answer, .mgt, .dbg, .logs, .irq, .clk, .noc, .span, .inject, .prbs, .dram, .procs, .cfg, .img, .churn, .fab, .slc, .mem, .time, .cel, .scr, .fen, .dma, .svc, .cores, .pwr, .lcs, .bist, .pins] ⊆ pl) (hs0 : only pl s0 s) : only pl s0 (State.tbRow s q b w) := by
  unfold State.tbRow
  repeat' with_reducible first | assumption | exact parts_sub (by with_unfolding_all decide) hl | apply State.busPut_only | apply State.tbCommand_only | apply ite_only | apply ite_only1 | apply ite_only2 | apply ite_only22 | apply ite_only21 | dsimp only | (apply only.lit <;> first | exact Or.inr rfl | exact Or.inl (parts_mem hl (by with_unfolding_all decide)) | skip)

theorem execCapturePop_only {s0 : State} {pl : List Part} (q : Req) (j : Fin 9) {s : State} (hl : [.regs, .ctrs, .latches, .freeCtr, .answer, .mgt, .logs, .irq, .clk, .procs, .time, .fen, .svc] ⊆ pl) (hs0 : only pl s0 s) : OnlyR pl s0 (execCapturePop q j s) := by
  unfold execCapturePop
  repeat' with_reducible first | assumption | exact parts_sub (by with_unfolding_all decide) hl | exact only.refl _ _ | apply OnlyR.next | apply ite_onlyR | apply State.busGet_only

theorem execTsqPop_only {s0 : State} {pl : List Part} (q : Req) (m : Fin 96) {s : State} (hl : [.regs, .ctrs, .latches, .freeCtr, .answer, .mgt, .logs, .irq, .clk, .procs, .time, .fen, .svc] ⊆ pl) (hs0 : only pl s0 s) : OnlyR pl s0 (execTsqPop q m s) := by
  unfold execTsqPop
  repeat' with_reducible first | assumption | exact parts_sub (by with_unfolding_all decide) hl | exact only.refl _ _ | apply OnlyR.next | apply ite_onlyR | apply State.busGet_only

theorem execClaim_only {s0 : State} {pl : List Part} (q : Req) (c : Fin 6) {s : State} (hl : [.regs, .ctrs, .latches, .freeCtr, .answer, .mgt, .logs, .irq, .clk, .procs, .time, .fen, .svc] ⊆ pl) (hs0 : only pl s0 s) : OnlyR pl s0 (execClaim q c s) := by
  unfold execClaim
  repeat' with_reducible first | assumption | exact parts_sub (by with_unfolding_all decide) hl | exact only.refl _ _ | apply OnlyR.next | apply ite_onlyR | apply State.busGet_only

theorem execVclaim_only {s0 : State} {pl : List Part} (q : Req) (v : Fin 16) {s : State} (hl : [.regs, .ctrs, .latches, .freeCtr, .answer, .mgt, .logs, .irq, .clk, .procs, .time, .fen, .svc] ⊆ pl) (hs0 : only pl s0 s) : OnlyR pl s0 (execVclaim q v s) := by
  unfold execVclaim
  repeat' with_reducible first | assumption | exact parts_sub (by with_unfolding_all decide) hl | exact only.refl _ _ | apply OnlyR.next | apply ite_onlyR | apply State.busGet_only

theorem execRxdPop_only {s0 : State} {pl : List Part} (q : Option Req) (k : Fin 20) {s : State} (hl : [.regs, .ctrs, .latches, .freeCtr, .answer, .mgt, .logs, .irq, .clk, .procs, .time, .fen, .svc] ⊆ pl) (hs0 : only pl s0 s) : OnlyR pl s0 (execRxdPop q k s) := by
  unfold execRxdPop
  repeat' with_reducible first | assumption | exact parts_sub (by with_unfolding_all decide) hl | exact only.refl _ _ | apply OnlyR.next | apply ite_onlyR | apply State.busGet_only | apply State.setSvcPort_only | apply State.tell_only | apply ite_only | apply ite_only1 | apply ite_only2 | apply ite_only22 | apply ite_only21 | dsimp only | split | (apply only.lit <;> first | exact Or.inr rfl | exact Or.inl (parts_mem hl (by with_unfolding_all decide)) | skip) | refine only.eq2 (by assumption) ?_ | refine only.eq22 (by assumption) ?_ | refine only.eq1 (by assumption) ?_

theorem execBlockClockIdleClose_only {s0 : State} {pl : List Part} (g : Fin 11) {s : State} (hl : [.clk] ⊆ pl) (hs0 : only pl s0 s) : OnlyR pl s0 (execBlockClockIdleClose g s) := by
  unfold execBlockClockIdleClose
  repeat' with_reducible first | assumption | exact parts_sub (by with_unfolding_all decide) hl | exact only.refl _ _ | apply OnlyR.next | apply ite_onlyR | apply ite_only | apply ite_only1 | apply ite_only2 | apply ite_only22 | apply ite_only21 | (apply only.lit <;> first | exact Or.inl (parts_mem hl (by with_unfolding_all decide)) | exact Or.inr rfl | skip)

end Sys2Proof.Machine
end

