-- ==== Sys2Proof/Laws/Frame/Tick.lean ====
section
/-! SUPPORT. The frames of Machine/Tick.lean: which parts of the state each operation and each command may change. -/

namespace Sys2Proof.Machine


theorem State.hostMicro_only {s0 : State} {pl : List Part} {s : State} (h : Nat) (hl : [.mgt] ⊆ pl) (hs0 : only pl s0 s) : only pl s0 (State.hostMicro s h) := by
  unfold State.hostMicro
  repeat' with_reducible first | assumption | exact parts_sub (by with_unfolding_all decide) hl | apply State.setHost_only

theorem State.windowMicro_only {s0 : State} {pl : List Part} {s : State} (v : Nat) (hl : [.regs] ⊆ pl) (hs0 : only pl s0 s) : only pl s0 (State.windowMicro s v) := by
  unfold State.windowMicro
  repeat' with_reducible first | assumption | exact parts_sub (by with_unfolding_all decide) hl | apply State.wr_only | apply ite_only

theorem State.stallMicro_only {s0 : State} {pl : List Part} {s : State} (i : Nat) (hl : [.ctrs, .mgt, .logs] ⊆ pl) (hs0 : only pl s0 s) : only pl s0 (State.stallMicro s i) := by
  unfold State.stallMicro
  repeat' with_reducible first | assumption | exact parts_sub (by with_unfolding_all decide) hl | apply State.bump_only | dsimp only | split

theorem State.gateMicro_only {s0 : State} {pl : List Part} {s : State} (g : Nat) (hl : [.clk] ⊆ pl) (hs0 : only pl s0 s) : only pl s0 (State.gateMicro s g) := by
  unfold State.gateMicro
  repeat' with_reducible first | assumption | exact parts_sub (by with_unfolding_all decide) hl | apply ite_only | apply ite_only1 | apply ite_only2 | apply ite_only22 | apply ite_only21 | (apply only.lit <;> first | exact Or.inr rfl | exact Or.inl (parts_mem hl (by with_unfolding_all decide)) | skip)

theorem State.mtimeMicro_only {s0 : State} {pl : List Part} {s : State} (hl : [.regs, .mtime, .procs] ⊆ pl) (hs0 : only pl s0 s) : only pl s0 (State.mtimeMicro s) := by
  unfold State.mtimeMicro
  repeat' with_reducible first | assumption | exact parts_sub (by with_unfolding_all decide) hl | apply State.mtip_only | refine foldl_only _ _ (fun _ _ _ => ?_) ?_ | refine foldl_only1 _ _ (fun _ _ _ => ?_) ?_ | refine foldl_only2 _ _ (fun _ _ _ => ?_) ?_ | refine foldl_only22 _ _ (fun _ _ _ => ?_) ?_ | refine foldl_only21 _ _ (fun _ _ _ => ?_) ?_ | (apply only.lit <;> first | exact Or.inl (parts_mem hl (by with_unfolding_all decide)) | exact Or.inr rfl | skip)

theorem State.timeMicro_only {s0 : State} {pl : List Part} {s : State} (hl : [.regs, .ctrs, .mgt, .logs, .irq, .time] ⊆ pl) (hs0 : only pl s0 s) : only pl s0 (State.timeMicro s) := by
  unfold State.timeMicro
  repeat' with_reducible first | assumption | exact parts_sub (by with_unfolding_all decide) hl | apply State.tbMicro_only | apply ite_only

theorem State.coreMicro_only {s0 : State} {pl : List Part} {s : State} (hl : [.regs, .ctrs, .mtime, .mgt, .logs, .clk, .procs] ⊆ pl) (hs0 : only pl s0 s) : only pl s0 (State.coreMicro s) := by
  unfold State.coreMicro
  repeat' with_reducible first | assumption | exact parts_sub (by with_unfolding_all decide) hl | apply State.gateMicro_only | apply State.hostMicro_only | apply State.mtimeMicro_only | apply State.stallMicro_only | apply State.windowMicro_only | refine foldl_only _ _ (fun _ _ _ => ?_) ?_

theorem State.tick_only {s0 : State} {pl : List Part} {s : State} (hl : [.regs, .ctrs, .mtime, .mgt, .logs, .irq, .clk, .procs, .time] ⊆ pl) (hs0 : only pl s0 s) : only pl s0 (State.tick s) := by
  unfold State.tick
  repeat' with_reducible first | assumption | exact parts_sub (by with_unfolding_all decide) hl | apply State.coreMicro_only | apply State.timeMicro_only | apply ite_only

end Sys2Proof.Machine
end

