-- ==== Sys2Proof/Laws/Qm.lean ====
section
/-! SUPPORT. The operations of Machine/Qm.lean leave the queue of commands alone and keep the invariant. -/

namespace Sys2Proof.Machine


theorem State.fetchDesc_ev {s0 : State} {s : State} (q k : Nat) (hs0 : Ev s0 s) : Ev s0 (State.fetchDesc s q k).1 := by
  unfold State.fetchDesc
  repeat' with_reducible first | assumption | apply State.memRead_ev | apply State.qStop_ev | apply ite_ev | apply ite_ev1

theorem State.completeDesc_ev {s0 : State} {s : State} (q k result : Nat) (irq : Bool) (hs0 : Ev s0 s) : Ev s0 (State.completeDesc s q k result irq) := by
  unfold State.completeDesc
  repeat' with_reducible first | assumption | apply State.fenFlag_ev | apply State.memWrite_ev | apply State.qStop_ev | apply State.wr_ev | apply ite_ev | apply ite_ev1

theorem State.ovfPlace_ev {s0 : State} {s : State} (x0 : Nat) (x1 : List Nat) (hs0 : Ev s0 s) : Ev s0 (State.ovfPlace s x0 x1).1 := by
  induction x0 generalizing s x1 with
  | zero =>
    unfold State.ovfPlace
    repeat' with_reducible first | assumption | apply State.fresh_ev | dsimp only
  | succ x0 ih =>
    unfold State.ovfPlace
    repeat' with_reducible first | assumption | apply ih | apply State.fresh_ev | dsimp only

theorem State.ovfWrites_ev {s0 : State} {s : State} (q : Nat) (cells : List Nat) (bs : List Byte) (poison : Bool) (hs0 : Ev s0 s) : Ev s0 (State.ovfWrites s q cells bs poison) := by
  unfold State.ovfWrites
  repeat' with_reducible first | assumption | apply State.memWrites_ev | refine foldl_ev _ _ (fun _ _ _ => ?_) ?_ | refine foldl_ev1 _ _ (fun _ _ _ => ?_) ?_ | refine foldl_ev2 _ _ (fun _ _ _ => ?_) ?_ | refine foldl_ev22 _ _ (fun _ _ _ => ?_) ?_ | refine foldl_ev21 _ _ (fun _ _ _ => ?_) ?_ | intro _ _ _ _ | intro _ _ _ | intro _ _

theorem State.ovfReads_ev {s0 : State} {s : State} (q : Nat) (f : HeldF) (hs0 : Ev s0 s) : Ev s0 (State.ovfReads s q f).1 := by
  unfold State.ovfReads
  repeat' with_reducible first | assumption | apply State.memReads_ev | refine foldl_ev _ _ (fun _ _ _ => ?_) ?_ | refine foldl_ev1 _ _ (fun _ _ _ => ?_) ?_ | refine foldl_ev2 _ _ (fun _ _ _ => ?_) ?_ | refine foldl_ev22 _ _ (fun _ _ _ => ?_) ?_ | refine foldl_ev21 _ _ (fun _ _ _ => ?_) ?_ | apply ite_ev | apply ite_ev1 | apply ite_ev2 | apply ite_ev22 | apply ite_ev21 | dsimp only | intro _ _ _ _ | intro _ _ _ | intro _ _ | refine Ev.lit rfl ?_

theorem State.bufPut_ev {s0 : State} {s : State} (m q v : Nat) (bs : List Byte) (result ts : Nat) (hs0 : Ev s0 s) : Ev s0 (State.bufPut s m q v bs result ts) := by
  unfold State.bufPut
  repeat' with_reducible first | assumption | apply State.bump_ev | apply State.fenFlag_ev | apply State.ovfPlace_ev | apply State.ovfWrites_ev | apply State.raiseDev_ev | apply State.setHeld_ev | apply ite_ev | apply ite_ev1 | apply ite_ev2 | apply ite_ev22 | apply ite_ev21 | dsimp only | intro _ _ _ _ | intro _ _ _ | intro _ _ | refine Ev.lit rfl ?_

theorem State.rxQueue_ev {s0 : State} {s : State} (m q : Nat) (bs : List Byte) (result ts : Nat) (hs0 : Ev s0 s) : Ev s0 (State.rxQueue s m q bs result ts) := by
  unfold State.rxQueue
  repeat' with_reducible first | assumption | apply State.bufPut_ev | apply State.fenDrop_ev | apply State.qDrop_ev | apply ite_ev | apply ite_ev1 | apply ite_ev2 | apply ite_ev22 | apply ite_ev21 | dsimp only | split | refine Ev.lit rfl ?_

theorem State.rxInto_ev {s0 : State} {s : State} (q k : Nat) (d : List Byte) (f : HeldF) (rest : List HeldF) (hs0 : Ev s0 s) : Ev s0 (State.rxInto s q k d f rest) := by
  unfold State.rxInto
  repeat' with_reducible first | assumption | apply State.completeDesc_ev | apply State.memWrite_ev | apply State.memWrites_ev | apply State.qStop_ev | apply State.setHeld_ev | apply ite_ev | apply ite_ev1

theorem State.txDrop_ev {s0 : State} {s : State} (m : Nat) (f : TxF) (result off : Nat) (hs0 : Ev s0 s) : Ev s0 (State.txDrop s m f result off) := by
  unfold State.txDrop
  repeat' with_reducible first | assumption | apply State.qDrop_ev | apply State.setFport_ev

theorem State.stageFrame_ev {s0 : State} {s : State} (m q k : Nat) (d : List Byte) (hs0 : Ev s0 s) : Ev s0 (State.stageFrame s m q k d) := by
  unfold State.stageFrame
  repeat' with_reducible first | assumption | apply State.memReads_ev | apply State.qStop_ev | apply State.setFport_ev | apply State.txDrop_ev | apply ite_ev

theorem State.stageCands_ev {s0 : State} {s : State} (m c : Nat) (hs0 : Ev s0 s) : Ev s0 (State.stageCands s m c).1 := by
  unfold State.stageCands
  refine foldl_ev1 _ _ (fun r q h => ?_) (pair_ev hs0)
  split
  · exact h
  · rename_i k _
    have g := State.fetchDesc_ev q k h
    generalize r.1.fetchDesc q k = p at g ⊢
    obtain ⟨u, d⟩ := p
    cases d with
    | none => exact g
    | some d => exact ite_ev1 (pair_ev g) (pair_ev g)

theorem State.stageFrom_ev {s0 : State} (m : Nat) (x0 : Nat) {s : State} (hs0 : Ev s0 s) : Ev s0 (State.stageFrom m x0 s) := by
  induction x0 generalizing m s with
  | zero =>
    unfold State.stageFrom
    repeat' with_reducible first | assumption
  | succ x0 ih =>
    unfold State.stageFrom
    repeat' with_reducible first | assumption | apply ih | apply State.stageCands_ev | apply State.stageFrame_ev | apply ite_ev | apply ite_ev1 | apply ite_ev2 | apply ite_ev22 | apply ite_ev21 | dsimp only | intro _ _ _ _ | intro _ _ _ | intro _ _ | split | refine Ev.lit rfl ?_

theorem State.flushDone_ev {s0 : State} {s : State} (m : Nat) (hs0 : Ev s0 s) : Ev s0 (State.flushDone s m) := by
  unfold State.flushDone
  repeat' with_reducible first | assumption | apply State.completeDesc_ev | apply State.hold_ev | apply State.setFport_ev | refine foldl_ev _ _ (fun _ _ _ => ?_) ?_ | refine foldl_ev1 _ _ (fun _ _ _ => ?_) ?_ | refine foldl_ev2 _ _ (fun _ _ _ => ?_) ?_ | refine foldl_ev22 _ _ (fun _ _ _ => ?_) ?_ | refine foldl_ev21 _ _ (fun _ _ _ => ?_) ?_ | apply ite_ev | apply ite_ev1 | apply ite_ev2 | apply ite_ev22 | apply ite_ev21 | dsimp only | intro _ _ _ _ | intro _ _ _ | intro _ _ | split | refine Ev.lit rfl ?_

theorem State.sent_ev {s0 : State} {s : State} (m : Nat) (f : TxF) (hs0 : Ev s0 s) : Ev s0 (State.sent s m f) := by
  unfold State.sent
  repeat' with_reducible first | assumption | apply State.flushDone_ev | apply State.setFport_ev | dsimp only | split

end Sys2Proof.Machine
end

