-- ==== Sys2Proof/Laws/RegRows.lean ====
section
/-! SUPPORT. The operations of Machine/RegRows.lean leave the queue of commands alone and keep the invariant. -/

namespace Sys2Proof.Machine


theorem State.tbRow_ev {s0 : State} {s : State} (q : Req) (b : Nat) (w : Word) (hs0 : Ev s0 s) : Ev s0 (State.tbRow s q b w) := by
  unfold State.tbRow
  repeat' with_reducible first | assumption | apply State.busPut_ev | apply State.tbCommand_ev | apply ite_ev | apply ite_ev1 | apply ite_ev2 | apply ite_ev22 | apply ite_ev21 | dsimp only | refine Ev.lit rfl ?_

end Sys2Proof.Machine
end

