-- ==== Sys2Proof/Laws/Run/Access.lean ====
section
/-! SUPPORT. The commands of Machine/Access.lean leave the queue of commands alone and keep the invariant. -/

namespace Sys2Proof.Machine


theorem execTargetRequestArrival_ev {s0 : State} (a : Fin 1024) (vc : Fin 4) (x : UserAns) {s : State} (hs0 : Ev s0 s) : EvR s0 (execTargetRequestArrival a vc x s) := by
  unfold execTargetRequestArrival
  repeat' with_reducible first | assumption | exact Ev.refl _ | apply EvR.next | apply ite_evR | apply State.bump_ev | apply State.regAccess_ev | apply State.respond_ev | apply State.sendRsp_ev | apply State.setChan_ev | apply ite_ev | apply ite_ev1 | apply ite_ev2 | apply ite_ev22 | apply ite_ev21 | dsimp only | intro _ _ _ _ | intro _ _ _ | intro _ _ | split | refine Ev.lit rfl ?_ | refine Ev.eq2 (by assumption) ?_ | refine Ev.eq22 (by assumption) ?_ | refine Ev.eq1 (by assumption) ?_

theorem execResponseArrival_ev {s0 : State} (i : Fin 1024) (cycles : Nat) (x : Option CpuLoad) {s : State} (hs0 : Ev s0 s) : EvR s0 (execResponseArrival i cycles x s) := by
  unfold execResponseArrival
  repeat' with_reducible first | assumption | exact Ev.refl _ | apply EvR.next | apply ite_evR | apply State.bump_ev | apply State.loadAnswered_ev | apply State.takeResponse_ev | apply ite_ev | apply ite_ev1 | apply ite_ev2 | apply ite_ev22 | apply ite_ev21 | dsimp only | split | refine Ev.lit rfl ?_ | refine Ev.eq2 (by assumption) ?_ | refine Ev.eq22 (by assumption) ?_ | refine Ev.eq1 (by assumption) ?_

theorem execInitiatorTimeout_ev {s0 : State} (i t : Fin 1024) (x : Option CpuLoad) {s : State} (hs0 : Ev s0 s) : EvR s0 (execInitiatorTimeout i t x s) := by
  unfold execInitiatorTimeout
  repeat' with_reducible first | assumption | exact Ev.refl _ | apply EvR.next | apply ite_evR | apply State.bump_ev | apply State.deliver_ev | apply State.loadAnswered_ev | apply State.setTag_ev | apply ite_ev | apply ite_ev1 | apply ite_ev2 | apply ite_ev22 | apply ite_ev21 | dsimp only | split | refine Ev.lit rfl ?_ | refine Ev.eq2 (by assumption) ?_ | refine Ev.eq22 (by assumption) ?_ | refine Ev.eq1 (by assumption) ?_

end Sys2Proof.Machine
end

