-- ==== Sys2Proof/Laws/Run/Bist.lean ====
section
/-! SUPPORT. The commands of Machine/Bist.lean leave the queue of commands alone and keep the invariant. -/

namespace Sys2Proof.Machine


theorem execBistFuseDone_ev {s0 : State} (kind : Fin 3) (mem : Fin 16777216) {s : State} (hs0 : Ev s0 s) : EvR s0 (execBistFuseDone kind mem s) := by
  unfold execBistFuseDone
  repeat' with_reducible first | assumption | exact Ev.refl _ | apply EvR.next | apply ite_evR | apply State.raiseAt_ev | apply ite_ev | apply ite_ev1 | apply ite_ev2 | apply ite_ev22 | apply ite_ev21 | dsimp only | intro _ _ _ _ | intro _ _ _ | intro _ _ | refine Ev.lit rfl ?_

theorem execBistPhaseDone_ev {s0 : State} (k : Fin 4) {s : State} (hs0 : Ev s0 s) : EvR s0 (execBistPhaseDone k s) := by
  unfold execBistPhaseDone
  repeat' with_reducible first | assumption | exact Ev.refl _ | apply EvR.next | apply ite_evR | apply State.drainMem_ev | apply State.setBist_ev | apply ite_ev | apply ite_ev1 | apply ite_ev2 | apply ite_ev22 | apply ite_ev21 | dsimp only | split

theorem execBistDone_ev {s0 : State} (k : Fin 4) (fails addr bit us : Nat) (rows cols : List (Nat × Nat)) (bad : List Nat) {s : State} (hs0 : Ev s0 s) : EvR s0 (execBistDone k fails addr bit us rows cols bad s) := by
  unfold execBistDone
  repeat' with_reducible first | assumption | exact Ev.refl _ | apply EvR.next | apply ite_evR | apply State.bistEnd_ev | apply State.repair_ev | apply State.restoreMem_ev | apply ite_ev | apply ite_ev1 | apply ite_ev2 | apply ite_ev22 | apply ite_ev21 | dsimp only | intro _ _ _ _ | intro _ _ _ | intro _ _ | split

theorem execDeferredTestStart_ev {s0 : State} (k : Fin 4) {s : State} (hs0 : Ev s0 s) : EvR s0 (execDeferredTestStart k s) := by
  unfold execDeferredTestStart
  repeat' with_reducible first | assumption | exact Ev.refl _ | apply EvR.next | apply ite_evR | apply State.bistEnd_ev | apply State.setBist_ev | apply ite_ev | apply ite_ev1 | apply ite_ev2 | apply ite_ev22 | apply ite_ev21 | dsimp only | split | refine Ev.lit rfl ?_ | refine Ev.eq2 (by assumption) ?_ | refine Ev.eq22 (by assumption) ?_ | refine Ev.eq1 (by assumption) ?_

theorem execSectorPowerGood_ev {s0 : State} (sec : Fin 224) {s : State} (hs0 : Ev s0 s) : EvR s0 (execSectorPowerGood sec s) := by
  unfold execSectorPowerGood
  repeat' with_reducible first | assumption | exact Ev.refl _ | apply EvR.next | apply ite_evR | apply State.clearMems_ev | apply ite_ev | apply ite_ev1 | apply ite_ev2 | apply ite_ev22 | apply ite_ev21 | dsimp only | intro _ _ _ _ | intro _ _ _ | intro _ _ | refine Ev.lit rfl ?_

end Sys2Proof.Machine
end

