-- ==== Sys2Proof/Laws/Run/DmaRun.lean ====
section
/-! SUPPORT. The commands of Machine/DmaRun.lean leave the queue of commands alone and keep the invariant. -/

namespace Sys2Proof.Machine


theorem execDmaDescriptorDone_ev {s0 : State} (c : Fin 16) {s : State} (hs0 : Ev s0 s) : EvR s0 (execDmaDescriptorDone c s) := by
  unfold execDmaDescriptorDone
  repeat' with_reducible first | assumption | exact Ev.refl _ | apply EvR.next | apply ite_evR | apply State.dmaAbort_ev | apply State.dmaBack_ev | apply State.dmaIrq_ev | apply State.dmaMove_ev | apply State.dmaStopped_ev | apply State.memRead_ev | apply State.setDmaCh_ev | apply State.wr_ev | apply State.wrb_ev | apply ite_ev | apply ite_ev1 | apply ite_ev2 | apply ite_ev22 | apply ite_ev21 | dsimp only | split | refine Ev.lit rfl ?_ | refine Ev.eq2 (by assumption) ?_ | refine Ev.eq22 (by assumption) ?_ | refine Ev.eq1 (by assumption) ?_

end Sys2Proof.Machine
end

