-- ==== Sys2Proof/Laws/Run/Images.lean ====
section
/-! SUPPORT. The commands of Machine/Images.lean leave the queue of commands alone and keep the invariant. -/

namespace Sys2Proof.Machine


theorem execCellarCommandDone_ev {s0 : State} (b : Fin 4) (ok : Bool) {s : State} (hs0 : Ev s0 s) : EvR s0 (execCellarCommandDone b ok s) := by
  unfold execCellarCommandDone
  repeat' with_reducible first | assumption | exact Ev.refl _ | apply EvR.next | apply State.commandDone_ev | apply State.stageDone_ev | dsimp only | split | refine Ev.lit rfl ?_ | refine Ev.eq2 (by assumption) ?_ | refine Ev.eq22 (by assumption) ?_ | refine Ev.eq1 (by assumption) ?_

theorem execHeaderRecord_ev {s0 : State} (e : Fin 2) (env : RecEnv) {s : State} (hs0 : Ev s0 s) : EvR s0 (execHeaderRecord e env s) := by
  unfold execHeaderRecord
  repeat' with_reducible first | assumption | exact Ev.refl _ | apply EvR.next | apply ite_evR | apply State.imgReject_ev | apply State.setImg_ev | apply State.withRecord_ev | apply ite_ev | apply ite_ev1 | apply ite_ev2 | apply ite_ev22 | apply ite_ev21 | dsimp only | intro _ _ _ _ | intro _ _ _ | intro _ _ | split | refine Ev.lit rfl ?_ | refine Ev.eq2 (by assumption) ?_ | refine Ev.eq22 (by assumption) ?_ | refine Ev.eq1 (by assumption) ?_

theorem execSignatureRecord_ev {s0 : State} (e : Fin 2) (env : RecEnv) {s : State} (hs0 : Ev s0 s) : EvR s0 (execSignatureRecord e env s) := by
  unfold execSignatureRecord
  repeat' with_reducible first | assumption | exact Ev.refl _ | apply EvR.next | apply ite_evR | apply State.imgReject_ev | apply State.setImg_ev | apply State.withRecord_ev | apply ite_ev | apply ite_ev1 | apply ite_ev2 | apply ite_ev22 | apply ite_ev21 | dsimp only | intro _ _ _ _ | intro _ _ _ | intro _ _ | split | refine Ev.lit rfl ?_

theorem execSignatureVerified_ev {s0 : State} (e : Fin 2) {s : State} (hs0 : Ev s0 s) : EvR s0 (execSignatureVerified e s) := by
  unfold execSignatureVerified
  repeat' with_reducible first | assumption | exact Ev.refl _ | apply EvR.next | apply ite_evR | apply State.imgReject_ev | apply State.imgSettle_ev | apply State.orderOp_ev | apply ite_ev | apply ite_ev1 | apply ite_ev2 | apply ite_ev22 | apply ite_ev21 | dsimp only | split | refine Ev.lit rfl ?_ | refine Ev.eq2 (by assumption) ?_ | refine Ev.eq22 (by assumption) ?_ | refine Ev.eq1 (by assumption) ?_

theorem execFrameRecord_ev {s0 : State} (e : Fin 2) (env : RecEnv) {s : State} (hs0 : Ev s0 s) : EvR s0 (execFrameRecord e env s) := by
  unfold execFrameRecord
  repeat' with_reducible first | assumption | exact Ev.refl _ | apply EvR.next | apply State.frameRecord_ev

theorem execFrameZRecord_ev {s0 : State} (e : Fin 2) (env : RecEnv) {s : State} (hs0 : Ev s0 s) : EvR s0 (execFrameZRecord e env s) := by
  unfold execFrameZRecord
  repeat' with_reducible first | assumption | exact Ev.refl _ | apply EvR.next | apply State.frameRecord_ev

theorem execRepeatRecord_ev {s0 : State} (e : Fin 2) (env : RecEnv) {s : State} (hs0 : Ev s0 s) : EvR s0 (execRepeatRecord e env s) := by
  unfold execRepeatRecord
  repeat' with_reducible first | assumption | exact Ev.refl _ | apply EvR.next | apply State.frameRecord_ev

theorem execZeroRunRecord_ev {s0 : State} (e : Fin 2) (env : RecEnv) {s : State} (hs0 : Ev s0 s) : EvR s0 (execZeroRunRecord e env s) := by
  unfold execZeroRunRecord
  repeat' with_reducible first | assumption | exact Ev.refl _ | apply EvR.next | apply State.frameRecord_ev

theorem execMeminitRecord_ev {s0 : State} (e : Fin 3) (env : RecEnv) {s : State} (hs0 : Ev s0 s) : EvR s0 (execMeminitRecord e env s) := by
  unfold execMeminitRecord
  repeat' with_reducible first | assumption | exact Ev.refl _ | apply EvR.next | apply ite_evR | apply State.imgReject_ev | apply State.imgSettle_ev | apply State.initRecord_ev | apply State.stageBytes_ev | apply State.stageWork_ev | apply State.withRecord_ev | apply ite_ev | apply ite_ev1 | apply ite_ev2 | apply ite_ev22 | apply ite_ev21 | dsimp only | intro _ _ _ _ | intro _ _ _ | intro _ _ | split | refine Ev.lit rfl ?_ | refine Ev.eq2 (by assumption) ?_ | refine Ev.eq22 (by assumption) ?_ | refine Ev.eq1 (by assumption) ?_

theorem execEndRecord_ev {s0 : State} (e : Fin 2) (env : RecEnv) {s : State} (hs0 : Ev s0 s) : EvR s0 (execEndRecord e env s) := by
  unfold execEndRecord
  repeat' with_reducible first | assumption | exact Ev.refl _ | apply EvR.next | apply ite_evR | apply State.imgEnds_ev | apply State.imgReject_ev | apply State.setImg_ev | apply State.stageBytes_ev | apply State.withRecord_ev | apply ite_ev | apply ite_ev1 | apply ite_ev2 | apply ite_ev22 | apply ite_ev21 | dsimp only | intro _ _ _ _ | intro _ _ _ | intro _ _ | split | refine Ev.lit rfl ?_ | refine Ev.eq2 (by assumption) ?_ | refine Ev.eq22 (by assumption) ?_ | refine Ev.eq1 (by assumption) ?_

theorem execCommitCloseDone_ev {s0 : State} (v : Fin 16) (ups : List (Bool × Fin 262144 × List (Fin 2072))) {s : State} (hs0 : Ev s0 s) : EvR s0 (execCommitCloseDone v ups s) := by
  unfold execCommitCloseDone
  repeat' with_reducible first | assumption | exact Ev.refl _ | apply EvR.next | apply ite_evR | apply State.commitCloseEnd_ev | apply State.imgEnds_ev | apply State.imgReject_ev | apply State.setImg_ev | apply ite_ev | apply ite_ev1 | apply ite_ev2 | apply ite_ev22 | apply ite_ev21 | dsimp only | intro _ _ _ _ | intro _ _ _ | intro _ _ | split | refine Ev.lit rfl ?_ | refine Ev.eq2 (by assumption) ?_ | refine Ev.eq22 (by assumption) ?_ | refine Ev.eq1 (by assumption) ?_

theorem execMemoryInitStart_ev {s0 : State} (v : Fin 16) (lost : Bool) {s : State} (hs0 : Ev s0 s) : EvR s0 (execMemoryInitStart v lost s) := by
  unfold execMemoryInitStart
  repeat' with_reducible first | assumption | exact Ev.refl _ | apply EvR.next | apply ite_evR | apply State.initFails_ev | apply State.wr_ev | apply State.wrb_ev | apply ite_ev | apply ite_ev1 | apply ite_ev2 | apply ite_ev22 | apply ite_ev21 | dsimp only | split | refine Ev.lit rfl ?_

theorem execMemoryInitDone_ev {s0 : State} (v : Fin 16) {s : State} (hs0 : Ev s0 s) : EvR s0 (execMemoryInitDone v s) := by
  unfold execMemoryInitDone
  repeat' with_reducible first | assumption | exact Ev.refl _ | apply EvR.next | apply ite_evR | apply State.initFails_ev | apply State.wrb_ev | apply ite_ev | apply ite_ev1 | apply ite_ev2 | apply ite_ev22 | apply ite_ev21 | split | refine Ev.lit rfl ?_

end Sys2Proof.Machine
end

