-- ==== Sys2Proof/Laws/Run/ImgOps.lean ====
section
/-! SUPPORT. The commands of Machine/ImgOps.lean leave the queue of commands alone and keep the invariant. -/

namespace Sys2Proof.Machine


theorem execImgCommit_ev {s0 : State} (e : ImmEnv) (body : List Byte) {s : State} (hs0 : Ev s0 s) : EvR s0 (execImgCommit e body s) := by
  unfold execImgCommit
  repeat' with_reducible first | assumption | exact Ev.refl _ | apply EvR.next | apply State.request_ev | apply State.slotOrder_ev | intro _ _ _ _ | intro _ _ _ | intro _ _

theorem execImgVerify_ev {s0 : State} (e : ImmEnv) (body : List Byte) {s : State} (hs0 : Ev s0 s) : EvR s0 (execImgVerify e body s) := by
  unfold execImgVerify
  repeat' with_reducible first | assumption | exact Ev.refl _ | apply EvR.next | apply State.request_ev | apply State.slotOrder_ev | intro _ _ _ _ | intro _ _ _ | intro _ _

theorem execImgStage_ev {s0 : State} (e : ImmEnv) (body : List Byte) {s : State} (hs0 : Ev s0 s) : EvR s0 (execImgStage e body s) := by
  unfold execImgStage
  repeat' with_reducible first | assumption | exact Ev.refl _ | apply EvR.next | apply State.chunk_ev | apply State.request_ev | intro _ _ _ _ | intro _ _ _ | intro _ _

theorem execImgStream_ev {s0 : State} (e : ImmEnv) (body : List Byte) {s : State} (hs0 : Ev s0 s) : EvR s0 (execImgStream e body s) := by
  unfold execImgStream
  repeat' with_reducible first | assumption | exact Ev.refl _ | apply EvR.next | apply State.chunk_ev | apply State.request_ev | intro _ _ _ _ | intro _ _ _ | intro _ _

theorem execImageSendTimeout_ev {s0 : State} {s : State} (hs0 : Ev s0 s) : EvR s0 (execImageSendTimeout s) := by
  unfold execImageSendTimeout
  repeat' with_reducible first | assumption | exact Ev.refl _ | apply EvR.next | apply ite_evR | apply State.imgReject_ev | apply ite_ev | apply ite_ev1 | apply ite_ev2 | apply ite_ev22 | apply ite_ev21 | split | refine Ev.lit rfl ?_ | refine Ev.eq2 (by assumption) ?_ | refine Ev.eq22 (by assumption) ?_ | refine Ev.eq1 (by assumption) ?_

theorem execStagingEraseReissue_ev {s0 : State} {s : State} (hs0 : Ev s0 s) : EvR s0 (execStagingEraseReissue s) := by
  unfold execStagingEraseReissue
  repeat' with_reducible first | assumption | exact Ev.refl _ | apply EvR.next | apply ite_evR | apply State.stageGo_ev | apply ite_ev | apply ite_ev1 | apply ite_ev2 | apply ite_ev22 | apply ite_ev21

theorem execBootSet_ev {s0 : State} (e : ImmEnv) (body : List Byte) {s : State} (hs0 : Ev s0 s) : EvR s0 (execBootSet e body s) := by
  unfold execBootSet
  repeat' with_reducible first | assumption | exact Ev.refl _ | apply EvR.next | apply ite_evR | apply State.bootUpdate_ev | apply State.request_ev | apply ite_ev | apply ite_ev1 | apply ite_ev2 | apply ite_ev22 | apply ite_ev21 | dsimp only | intro _ _ _ _ | intro _ _ _ | intro _ _

theorem execStarterFirmwareStart_ev {s0 : State} (copy : Fin 2) {s : State} (hs0 : Ev s0 s) : EvR s0 (execStarterFirmwareStart copy s) := by
  unfold execStarterFirmwareStart
  repeat' with_reducible first | assumption | exact Ev.refl _ | apply EvR.next | apply ite_evR | apply State.bootNext_ev | apply State.enterFallback_ev | apply State.logEvent_ev | apply State.lowerLevel_ev | apply State.mpStart_ev | apply State.powerUpLoad_ev | apply State.raiseDev_ev | apply State.retire_ev | refine foldl_ev _ _ (fun _ _ _ => ?_) ?_ | refine foldl_ev1 _ _ (fun _ _ _ => ?_) ?_ | refine foldl_ev2 _ _ (fun _ _ _ => ?_) ?_ | refine foldl_ev22 _ _ (fun _ _ _ => ?_) ?_ | refine foldl_ev21 _ _ (fun _ _ _ => ?_) ?_ | apply ite_ev | apply ite_ev1 | apply ite_ev2 | apply ite_ev22 | apply ite_ev21 | dsimp only | intro _ _ _ _ | intro _ _ _ | intro _ _ | refine Ev.lit rfl ?_

theorem execModuleLoadStart_ev {s0 : State} (v : Fin 16) {s : State} (hs0 : Ev s0 s) : EvR s0 (execModuleLoadStart v s) := by
  unfold execModuleLoadStart
  repeat' with_reducible first | assumption | exact Ev.refl _ | apply EvR.next | apply ite_evR | apply State.setMod_ev | apply State.showSwaps_ev | apply ite_ev | apply ite_ev1 | apply ite_ev2 | apply ite_ev22 | apply ite_ev21 | dsimp only | intro _ _ _ _ | intro _ _ _ | intro _ _ | split | refine Ev.lit rfl ?_ | refine Ev.eq2 (by assumption) ?_ | refine Ev.eq22 (by assumption) ?_ | refine Ev.eq1 (by assumption) ?_

theorem execModuleLoadDone_ev {s0 : State} (v : Fin 16) {s : State} (hs0 : Ev s0 s) : EvR s0 (execModuleLoadDone v s) := by
  unfold execModuleLoadDone
  repeat' with_reducible first | assumption | exact Ev.refl _ | apply EvR.next | apply ite_evR | apply State.imgReject_ev | apply State.modEnds_ev | apply State.modFail_ev | apply State.setMod_ev | apply State.setShadow_ev | apply State.setVol_ev | refine foldl_ev _ _ (fun _ _ _ => ?_) ?_ | refine foldl_ev1 _ _ (fun _ _ _ => ?_) ?_ | refine foldl_ev2 _ _ (fun _ _ _ => ?_) ?_ | refine foldl_ev22 _ _ (fun _ _ _ => ?_) ?_ | refine foldl_ev21 _ _ (fun _ _ _ => ?_) ?_ | apply ite_ev | apply ite_ev1 | apply ite_ev2 | apply ite_ev22 | apply ite_ev21 | dsimp only | intro _ _ _ _ | intro _ _ _ | intro _ _ | split | refine Ev.lit rfl ?_ | refine Ev.eq2 (by assumption) ?_ | refine Ev.eq22 (by assumption) ?_ | refine Ev.eq1 (by assumption) ?_

theorem execModuleRegionRelease_ev {s0 : State} (v : Fin 16) {s : State} (hs0 : Ev s0 s) : EvR s0 (execModuleRegionRelease v s) := by
  unfold execModuleRegionRelease
  repeat' with_reducible first | assumption | exact Ev.refl _ | apply EvR.next | apply ite_evR | apply State.modOver_ev

theorem execModuleLoadRestore_ev {s0 : State} (v : Fin 16) {s : State} (hs0 : Ev s0 s) : EvR s0 (execModuleLoadRestore v s) := by
  unfold execModuleLoadRestore
  repeat' with_reducible first | assumption | exact Ev.refl _ | apply EvR.next | apply State.modEnds_ev | apply State.restoreRegion_ev | apply State.setMod_ev | intro _ _ _ _ | intro _ _ _ | intro _ _ | split

theorem execModuleRestoreDone_ev {s0 : State} (v : Fin 16) {s : State} (hs0 : Ev s0 s) : EvR s0 (execModuleRestoreDone v s) := by
  unfold execModuleRestoreDone
  repeat' with_reducible first | assumption | exact Ev.refl _ | apply EvR.next | apply ite_evR | apply State.modOver_ev

end Sys2Proof.Machine
end

