-- ==== Sys2Proof/Laws/Run/Keys.lean ====
section
/-! SUPPORT. The commands of Machine/Keys.lean leave the queue of commands alone and keep the invariant. -/

namespace Sys2Proof.Machine

theorem execKeyWrite_ev {s0 : State} (e : ImmEnv) (body : List Byte) {s : State} (hs0 : Ev s0 s) : EvR s0 (execKeyWrite e body s) := by
  unfold execKeyWrite
  repeat' with_reducible first | assumption | exact Ev.refl _ | apply EvR.next | apply ite_evR | apply State.keyChange_ev | apply State.keyOp_ev | apply ite_ev | apply ite_ev1 | apply ite_ev2 | apply ite_ev22 | apply ite_ev21 | dsimp only | intro _ _ _ _ | intro _ _ _ | intro _ _ | split

theorem execKeyErase_ev {s0 : State} (e : ImmEnv) (body : List Byte) {s : State} (hs0 : Ev s0 s) : EvR s0 (execKeyErase e body s) := by
  unfold execKeyErase
  repeat' with_reducible first | assumption | exact Ev.refl _ | apply EvR.next | apply ite_evR | apply State.keyChange_ev | apply State.keyOp_ev | apply ite_ev | apply ite_ev1 | apply ite_ev2 | apply ite_ev22 | apply ite_ev21 | intro _ _ _ _ | intro _ _ _ | intro _ _ | split

theorem execKeyStatus_ev {s0 : State} (e : ImmEnv) (body : List Byte) {s : State} (hs0 : Ev s0 s) : EvR s0 (execKeyStatus e body s) := by
  unfold execKeyStatus
  repeat' with_reducible first | assumption | exact Ev.refl _ | apply EvR.next | apply ite_evR | apply State.keyOp_ev | refine foldl_ev _ _ (fun _ _ _ => ?_) ?_ | refine foldl_ev1 _ _ (fun _ _ _ => ?_) ?_ | refine foldl_ev2 _ _ (fun _ _ _ => ?_) ?_ | refine foldl_ev22 _ _ (fun _ _ _ => ?_) ?_ | refine foldl_ev21 _ _ (fun _ _ _ => ?_) ?_ | apply ite_ev | apply ite_ev1 | apply ite_ev2 | apply ite_ev22 | apply ite_ev21 | dsimp only | intro _ _ _ _ | intro _ _ _ | intro _ _

theorem execAdvance_ev {s0 : State} (e : ImmEnv) (body : List Byte) {s : State} (hs0 : Ev s0 s) : EvR s0 (execAdvance e body s) := by
  unfold execAdvance
  repeat' with_reducible first | assumption | exact Ev.refl _ | apply EvR.next | apply ite_evR | apply State.keyOp_ev | apply ite_ev | apply ite_ev1 | apply ite_ev2 | apply ite_ev22 | apply ite_ev21 | dsimp only | intro _ _ _ _ | intro _ _ _ | intro _ _ | refine Ev.lit rfl ?_

theorem execLifeCycleFuseBlown_ev {s0 : State} {s : State} (hs0 : Ev s0 s) : EvR s0 (execLifeCycleFuseBlown s) := by
  unfold execLifeCycleFuseBlown
  repeat' with_reducible first | assumption | exact Ev.refl _ | apply EvR.next | apply State.raiseDev_ev | dsimp only | split | refine Ev.lit rfl ?_

theorem execKeyDeferredComplete_ev {s0 : State} (k : Fin 9) {s : State} (hs0 : Ev s0 s) : EvR s0 (execKeyDeferredComplete k s) := by
  unfold execKeyDeferredComplete
  repeat' with_reducible first | assumption | exact Ev.refl _ | apply EvR.next | apply ite_evR | apply State.raiseDev_ev | apply State.setKey_ev | apply ite_ev | apply ite_ev1 | apply ite_ev2 | apply ite_ev22 | apply ite_ev21 | dsimp only | intro _ _ _ _ | intro _ _ _ | intro _ _ | split | refine Ev.lit rfl ?_

end Sys2Proof.Machine
end

