-- ==== Sys2Proof/Laws/Run/Imm.lean ====
section
/-! SUPPORT. The commands of Machine/Imm.lean leave the queue of commands alone and keep the invariant. -/

namespace Sys2Proof.Machine


theorem execIdentify_ev {s0 : State} (e : ImmEnv) (body : List Byte) {s : State} (hs0 : Ev s0 s) : EvR s0 (execIdentify e body s) := by
  unfold execIdentify
  repeat' with_reducible first | assumption | exact Ev.refl _ | apply EvR.next | apply ite_evR | apply State.request_ev | apply ite_ev | apply ite_ev1 | apply ite_ev2 | apply ite_ev22 | apply ite_ev21 | dsimp only | intro _ _ _ _ | intro _ _ _ | intro _ _

theorem execSessionInit_ev {s0 : State} (e : ImmEnv) (body : List Byte) {s : State} (hs0 : Ev s0 s) : EvR s0 (execSessionInit e body s) := by
  unfold execSessionInit
  repeat' first | (with_reducible first | assumption | exact Ev.refl _ | apply EvR.next | apply ite_evR | apply State.fresh_ev | apply State.request_ev | apply State.setHost_ev | apply ite_ev | apply ite_ev1 | apply ite_ev2 | apply ite_ev22 | apply ite_ev21 | dsimp only | intro _ _ _ _ | intro _ _ _ | intro _ _ | split | refine Ev.lit rfl ?_) | exact ok_keep (by first | exact Nat.le_refl _ | exact List.length_filter_le _ _ | simp | simp [HostSt.unsend]) rfl | exact ok_none (by first | exact Nat.le_refl _ | exact List.length_filter_le _ _ | simp | simp [HostSt.unsend]) rfl | exact ok_some (by assumption) (by first | exact Nat.le_refl _ | exact List.length_filter_le _ _ | simp | simp [HostSt.unsend]) rfl (by first | exact Nat.le_refl _ | exact List.length_filter_le _ _ | simp | simp [HostSt.unsend]) | refine Ev.eq2 (by assumption) ?_ | refine Ev.eq22 (by assumption) ?_ | refine Ev.eq1 (by assumption) ?_

theorem execSessionFinish_ev {s0 : State} (e : ImmEnv) (body : List Byte) {s : State} (hs0 : Ev s0 s) : EvR s0 (execSessionFinish e body s) := by
  unfold execSessionFinish
  repeat' first | (with_reducible first | assumption | exact Ev.refl _ | apply EvR.next | apply ite_evR | apply State.bump_ev | apply State.openSession_ev | apply State.refuse_ev | apply State.request_ev | apply State.setHost_ev | apply ite_ev | apply ite_ev1 | apply ite_ev2 | apply ite_ev22 | apply ite_ev21 | dsimp only | intro _ _ _ _ | intro _ _ _ | intro _ _ | split | refine Ev.lit rfl ?_) | exact ok_keep (by first | exact Nat.le_refl _ | exact List.length_filter_le _ _ | simp | simp [HostSt.unsend]) rfl | exact ok_none (by first | exact Nat.le_refl _ | exact List.length_filter_le _ _ | simp | simp [HostSt.unsend]) rfl | exact ok_some (by assumption) (by first | exact Nat.le_refl _ | exact List.length_filter_le _ _ | simp | simp [HostSt.unsend]) rfl (by first | exact Nat.le_refl _ | exact List.length_filter_le _ _ | simp | simp [HostSt.unsend]) | refine Ev.eq2 (by assumption) ?_ | refine Ev.eq22 (by assumption) ?_ | refine Ev.eq1 (by assumption) ?_

theorem execSessionClose_ev {s0 : State} (e : ImmEnv) (body : List Byte) {s : State} (hs0 : Ev s0 s) : EvR s0 (execSessionClose e body s) := by
  unfold execSessionClose
  repeat' with_reducible first | assumption | exact Ev.refl _ | apply EvR.next | apply ite_evR | apply State.closeSession_ev | apply State.receive_ev | apply State.refuse_ev | apply State.respondTo_ev | apply ite_ev | apply ite_ev1 | apply ite_ev2 | apply ite_ev22 | apply ite_ev21 | dsimp only

theorem execRegRd_ev {s0 : State} (e : ImmEnv) (body : List Byte) {s : State} (hs0 : Ev s0 s) : EvR s0 (execRegRd e body s) := by
  unfold execRegRd
  refine EvR.next (State.accessRequest_ev _ _ _ _ (fun u h => ?_) hs0)
  split
  · exact pair_ev h
  · refine ite_ev1 (pair_ev h) ?_
    refine pair_ev (runAccesses_ev _ _ (fun s x k => ?_) h)
    exact pair_ev (State.immRead_ev _ _ _ _ k)

theorem execRegWr_ev {s0 : State} (e : ImmEnv) (body : List Byte) {s : State} (hs0 : Ev s0 s) : EvR s0 (execRegWr e body s) := by
  unfold execRegWr
  refine EvR.next (State.accessRequest_ev _ _ _ _ (fun u h => ?_) hs0)
  split
  · exact pair_ev h
  · refine ite_ev1 (pair_ev h) ?_
    refine pair_ev (runAccesses_ev _ _ (fun s x k => ?_) h)
    exact pair_ev (State.immWrite_ev _ _ _ _ k)

theorem execMemRd_ev {s0 : State} (e : ImmEnv) (body : List Byte) {s : State} (hs0 : Ev s0 s) : EvR s0 (execMemRd e body s) := by
  unfold execMemRd
  refine EvR.next (State.accessRequest_ev _ _ _ _ (fun u h => ?_) hs0)
  split
  · exact pair_ev h
  · refine ite_ev1 (pair_ev h) ?_
    refine ite_ev1 (pair_ev h) ?_
    refine pair_ev (runAccesses_ev _ _ (fun s x k => ?_) h)
    exact State.immRead_ev _ _ _ _ k

theorem execMemWr_ev {s0 : State} (e : ImmEnv) (body : List Byte) {s : State} (hs0 : Ev s0 s) : EvR s0 (execMemWr e body s) := by
  unfold execMemWr
  refine EvR.next (State.accessRequest_ev _ _ _ _ (fun u h => ?_) hs0)
  split
  · exact pair_ev h
  · refine ite_ev1 (pair_ev h) ?_
    refine pair_ev (runAccesses_ev _ _ (fun s x k => ?_) h)
    exact pair_ev (State.immWrite_ev _ _ _ _ k)

theorem execStats_ev {s0 : State} (e : ImmEnv) (body : List Byte) {s : State} (hs0 : Ev s0 s) : EvR s0 (execStats e body s) := by
  unfold execStats
  repeat' with_reducible first | assumption | exact Ev.refl _ | apply EvR.next | apply ite_evR | apply State.request_ev | apply ite_ev | apply ite_ev1 | apply ite_ev2 | apply ite_ev22 | apply ite_ev21 | dsimp only | intro _ _ _ _ | intro _ _ _ | intro _ _ | split

theorem execPlaneOp_ev {s0 : State} (e : ImmEnv) (body : List Byte) {s : State} (hs0 : Ev s0 s) : EvR s0 (execPlaneOp e body s) := by
  unfold execPlaneOp
  repeat' with_reducible first | assumption | exact Ev.refl _ | apply EvR.next | apply ite_evR | apply State.opStat_ev | apply State.orderOp_ev | apply State.request_ev | apply State.setArm_ev | apply State.setWins_ev | apply State.wr_ev | apply ite_ev | apply ite_ev1 | apply ite_ev2 | apply ite_ev22 | apply ite_ev21 | dsimp only | intro _ _ _ _ | intro _ _ _ | intro _ _

theorem execImmVatReset_ev {s0 : State} (e : ImmEnv) (body : List Byte) {s : State} (hs0 : Ev s0 s) : EvR s0 (execImmVatReset e body s) := by
  unfold execImmVatReset
  repeat' with_reducible first | assumption | exact Ev.refl _ | apply EvR.next | apply ite_evR | apply State.request_ev | apply State.setHold_ev | apply State.setRstReq_ev | apply ite_ev | apply ite_ev1 | apply ite_ev2 | apply ite_ev22 | apply ite_ev21 | dsimp only | intro _ _ _ _ | intro _ _ _ | intro _ _

theorem execImmReset_ev {s0 : State} (e : ImmEnv) (body : List Byte) {s : State} (hs0 : Ev s0 s) : EvR s0 (execImmReset e body s) := by
  unfold execImmReset
  repeat' with_reducible first | assumption | exact Ev.refl _ | apply EvR.next | apply ite_evR | apply State.request_ev | apply State.reset_ev | apply ite_ev | apply ite_ev1 | apply ite_ev2 | apply ite_ev22 | apply ite_ev21 | dsimp only | intro _ _ _ _ | intro _ _ _ | intro _ _ | refine Ev.lit rfl ?_

theorem execImmPower_ev {s0 : State} (e : ImmEnv) (body : List Byte) {s : State} (hs0 : Ev s0 s) : EvR s0 (execImmPower e body s) := by
  unfold execImmPower
  repeat' with_reducible first | assumption | exact Ev.refl _ | apply EvR.next | apply ite_evR | apply State.request_ev | apply ite_ev | apply ite_ev1 | apply ite_ev2 | apply ite_ev22 | apply ite_ev21 | dsimp only | intro _ _ _ _ | intro _ _ _ | intro _ _ | refine Ev.lit rfl ?_

theorem execLogRead_ev {s0 : State} (e : ImmEnv) (body : List Byte) {s : State} (hs0 : Ev s0 s) : EvR s0 (execLogRead e body s) := by
  unfold execLogRead
  repeat' with_reducible first | assumption | exact Ev.refl _ | apply EvR.next | apply ite_evR | apply State.request_ev | apply ite_ev | apply ite_ev1 | apply ite_ev2 | apply ite_ev22 | apply ite_ev21 | dsimp only | intro _ _ _ _ | intro _ _ _ | intro _ _

end Sys2Proof.Machine
end

