-- ==== Sys2Proof/Laws/Run/CelReq.lean ====
section
/-! SUPPORT. The commands of Machine/CelReq.lean leave the queue of commands alone and keep the invariant. -/

namespace Sys2Proof.Machine


theorem execCelOpRead_ev {s0 : State} (e : ImmEnv) (body : List Byte) {s : State} (hs0 : Ev s0 s) : EvR s0 (execCelOpRead e body s) := by
  unfold execCelOpRead
  repeat' with_reducible first | assumption | exact Ev.refl _ | apply EvR.next | apply ite_evR | apply State.celReq_ev | apply State.celSuspends_ev | apply ite_ev | apply ite_ev1 | apply ite_ev2 | apply ite_ev22 | apply ite_ev21 | dsimp only | intro _ _ _ _ | intro _ _ _ | intro _ _ | split | refine Ev.lit rfl ?_ | refine Ev.eq2 (by assumption) ?_ | refine Ev.eq22 (by assumption) ?_ | refine Ev.eq1 (by assumption) ?_

theorem execCelOpProgram_ev {s0 : State} (e : ImmEnv) (body : List Byte) {s : State} (hs0 : Ev s0 s) :
    EvR s0 (execCelOpProgram e body s) := by
  unfold execCelOpProgram
  refine EvR.next (State.celReq_ev _ _ _ _ (fun u h => ?_) hs0)
  split
  · exact pair_ev h
  · exact ite_ev1 (pair_ev h) (ite_ev1 (pair_ev h) (ite_ev1 (pair_ev h) (ite_ev1 (pair_ev h) (ite_ev1 (pair_ev h)
      (pair_ev (State.celNext_ev _ _ (Ev.lit rfl h)))))))

theorem execCelOpErase_ev {s0 : State} (e : ImmEnv) (body : List Byte) {s : State} (hs0 : Ev s0 s) : EvR s0 (execCelOpErase e body s) := by
  unfold execCelOpErase
  repeat' with_reducible first | assumption | exact Ev.refl _ | apply EvR.next | apply ite_evR | apply State.celOpDone_ev | apply State.celReq_ev | apply State.celStart_ev | apply ite_ev | apply ite_ev1 | apply ite_ev2 | apply ite_ev22 | apply ite_ev21 | dsimp only | intro _ _ _ _ | intro _ _ _ | intro _ _ | split | refine Ev.lit rfl ?_ | refine Ev.eq2 (by assumption) ?_ | refine Ev.eq22 (by assumption) ?_ | refine Ev.eq1 (by assumption) ?_

theorem execSetLevel_ev {s0 : State} (e : ImmEnv) (body : List Byte) {s : State} (hs0 : Ev s0 s) : EvR s0 (execSetLevel e body s) := by
  unfold execSetLevel
  repeat' with_reducible first | assumption | exact Ev.refl _ | apply EvR.next | apply ite_evR | apply State.celReq_ev | apply State.celShow_ev | apply State.setProtLevel_ev | apply ite_ev | apply ite_ev1 | apply ite_ev2 | apply ite_ev22 | apply ite_ev21 | dsimp only | intro _ _ _ _ | intro _ _ _ | intro _ _ | refine Ev.lit rfl ?_

theorem execBbtRead_ev {s0 : State} (e : ImmEnv) (body : List Byte) {s : State} (hs0 : Ev s0 s) : EvR s0 (execBbtRead e body s) := by
  unfold execBbtRead
  repeat' with_reducible first | assumption | exact Ev.refl _ | apply EvR.next | apply ite_evR | apply State.celReq_ev | apply ite_ev | apply ite_ev1 | apply ite_ev2 | apply ite_ev22 | apply ite_ev21 | dsimp only | intro _ _ _ _ | intro _ _ _ | intro _ _

theorem execCelOpStatus_ev {s0 : State} (e : ImmEnv) (body : List Byte) {s : State} (hs0 : Ev s0 s) : EvR s0 (execCelOpStatus e body s) := by
  unfold execCelOpStatus
  repeat' with_reducible first | assumption | exact Ev.refl _ | apply EvR.next | apply ite_evR | apply State.celReq_ev | apply ite_ev | apply ite_ev1 | apply ite_ev2 | apply ite_ev22 | apply ite_ev21 | intro _ _ _ _ | intro _ _ _ | intro _ _

theorem execBistRunTest_ev {s0 : State} (e : ImmEnv) (body : List Byte) {s : State} (hs0 : Ev s0 s) : EvR s0 (execBistRunTest e body s) := by
  unfold execBistRunTest
  repeat' with_reducible first | assumption | exact Ev.refl _ | apply EvR.next | apply ite_evR | apply State.bistAccept_ev | apply State.bistReq_ev | apply ite_ev | apply ite_ev1 | apply ite_ev2 | apply ite_ev22 | apply ite_ev21 | dsimp only | intro _ _ _ _ | intro _ _ _ | intro _ _ | split

theorem execBistRunFuse_ev {s0 : State} (e : ImmEnv) (body : List Byte) {s : State} (hs0 : Ev s0 s) : EvR s0 (execBistRunFuse e body s) := by
  unfold execBistRunFuse
  repeat' with_reducible first | assumption | exact Ev.refl _ | apply EvR.next | apply ite_evR | apply State.bistReq_ev | apply State.fuseStart_ev | apply ite_ev | apply ite_ev1 | apply ite_ev2 | apply ite_ev22 | apply ite_ev21 | dsimp only | intro _ _ _ _ | intro _ _ _ | intro _ _

theorem execBistRunStatus_ev {s0 : State} (e : ImmEnv) (body : List Byte) {s : State} (hs0 : Ev s0 s) : EvR s0 (execBistRunStatus e body s) := by
  unfold execBistRunStatus
  repeat' with_reducible first | assumption | exact Ev.refl _ | apply EvR.next | apply State.bistReq_ev | intro _ _ _ _ | intro _ _ _ | intro _ _

theorem execBistRunDefectRead_ev {s0 : State} (e : ImmEnv) (body : List Byte) {s : State} (hs0 : Ev s0 s) : EvR s0 (execBistRunDefectRead e body s) := by
  unfold execBistRunDefectRead
  repeat' with_reducible first | assumption | exact Ev.refl _ | apply EvR.next | apply ite_evR | apply State.bistReq_ev | apply ite_ev | apply ite_ev1 | apply ite_ev2 | apply ite_ev22 | apply ite_ev21 | dsimp only | intro _ _ _ _ | intro _ _ _ | intro _ _

end Sys2Proof.Machine
end

