-- ==== Sys2Proof/Laws/Run/Noc.lean ====
section
/-! SUPPORT. The commands of Machine/Noc.lean leave the queue of commands alone and keep the invariant. -/

namespace Sys2Proof.Machine


theorem execNocRequestIssue_ev {s0 : State} (i : Fin 1024) (rq : NocRq) {s : State} (hs0 : Ev s0 s) : EvR s0 (execNocRequestIssue i rq s) := by
  unfold execNocRequestIssue
  repeat' with_reducible first | assumption | exact Ev.refl _ | apply EvR.next | apply ite_evR | apply State.issue_ev | apply State.wr_ev | apply ite_ev | apply ite_ev1 | apply ite_ev2 | apply ite_ev22 | apply ite_ev21 | dsimp only | intro _ _ _ _ | intro _ _ _ | intro _ _

theorem execFlitForward_ev {s0 : State} (y x : Fin 16) (o : NocOut) (hdrErr payErr : Bool) {s : State} (hs0 : Ev s0 s) : EvR s0 (execFlitForward y x o hdrErr payErr s) := by
  unfold execFlitForward
  repeat' with_reducible first | assumption | exact Ev.refl _ | apply EvR.next | apply ite_evR | apply State.eject_ev | apply State.headerLoss_ev | apply State.refill_ev | apply State.retryAll_ev | apply ite_ev | apply ite_ev1 | apply ite_ev2 | apply ite_ev22 | apply ite_ev21 | dsimp only | intro _ _ _ _ | intro _ _ _ | intro _ _ | split | refine Ev.lit rfl ?_ | refine Ev.eq2 (by assumption) ?_ | refine Ev.eq22 (by assumption) ?_ | refine Ev.eq1 (by assumption) ?_

theorem execQuarantineExpiry_ev {s0 : State} (i t : Fin 1024) {s : State} (hs0 : Ev s0 s) : EvR s0 (execQuarantineExpiry i t s) := by
  unfold execQuarantineExpiry
  repeat' with_reducible first | assumption | exact Ev.refl _ | apply EvR.next | apply ite_evR | apply State.freeTag_ev | apply State.retryAll_ev | apply ite_ev | apply ite_ev1 | apply ite_ev2 | apply ite_ev22 | apply ite_ev21 | split | refine Ev.lit rfl ?_ | refine Ev.eq2 (by assumption) ?_ | refine Ev.eq22 (by assumption) ?_ | refine Ev.eq1 (by assumption) ?_

theorem execMapSyncDone_ev {s0 : State} {s : State} (hs0 : Ev s0 s) : EvR s0 (execMapSyncDone s) := by
  unfold execMapSyncDone
  repeat' with_reducible first | assumption | exact Ev.refl _ | apply EvR.next | apply ite_evR | apply State.wrb_ev | apply ite_ev | apply ite_ev1 | apply ite_ev2 | apply ite_ev22 | apply ite_ev21 | refine Ev.lit rfl ?_

theorem execMapCacheRefresh_ev {s0 : State} (i : Fin 1024) {s : State} (hs0 : Ev s0 s) : EvR s0 (execMapCacheRefresh i s) := by
  unfold execMapCacheRefresh
  repeat' with_reducible first | assumption | exact Ev.refl _ | apply EvR.next | refine Ev.lit rfl ?_

theorem execRegulatorBucketFill_ev {s0 : State} (r : Fin 256) {s : State} (hs0 : Ev s0 s) : EvR s0 (execRegulatorBucketFill r s) := by
  unfold execRegulatorBucketFill
  repeat' with_reducible first | assumption | exact Ev.refl _ | apply EvR.next | apply ite_evR | apply State.drawFrom_ev | apply ite_ev | apply ite_ev1 | apply ite_ev2 | apply ite_ev22 | apply ite_ev21 | dsimp only | intro _ _ _ _ | intro _ _ _ | intro _ _ | refine Ev.lit rfl ?_

end Sys2Proof.Machine
end

