-- ==== Sys2Proof/Laws/Run/Cellar.lean ====
section
/-! SUPPORT. The commands of Machine/Cellar.lean leave the queue of commands alone and keep the invariant. -/

namespace Sys2Proof.Machine


theorem execLogFlush_ev {s0 : State} (aud : Bool) (n : Nat) (fails : Bool) {s : State} (hs0 : Ev s0 s) : EvR s0 (execLogFlush aud n fails s) := by
  unfold execLogFlush
  repeat' with_reducible first | assumption | exact Ev.refl _ | apply EvR.next | apply ite_evR | apply State.logFlushOne_ev | refine foldl_ev _ _ (fun _ _ _ => ?_) ?_ | refine foldl_ev1 _ _ (fun _ _ _ => ?_) ?_ | refine foldl_ev2 _ _ (fun _ _ _ => ?_) ?_ | refine foldl_ev22 _ _ (fun _ _ _ => ?_) ?_ | refine foldl_ev21 _ _ (fun _ _ _ => ?_) ?_ | apply ite_ev

theorem execLogDegradedReminder_ev {s0 : State} {s : State} (hs0 : Ev s0 s) : EvR s0 (execLogDegradedReminder s) := by
  unfold execLogDegradedReminder
  repeat' with_reducible first | assumption | exact Ev.refl _ | apply EvR.next | apply ite_evR | apply State.raiseDev_ev | apply ite_ev

theorem execCellarRead_ev {s0 : State} {s : State} (hs0 : Ev s0 s) : EvR s0 (execCellarRead s) := by
  unfold execCellarRead
  repeat' with_reducible first | assumption | exact Ev.refl _ | apply EvR.next | apply ite_evR | apply State.celAnswer_ev | apply State.setBank_ev | apply ite_ev | apply ite_ev1 | apply ite_ev2 | apply ite_ev22 | apply ite_ev21 | dsimp only | split | refine Ev.lit rfl ?_

theorem execBankSuspended_ev {s0 : State} (b : Fin 4) {s : State} (hs0 : Ev s0 s) : EvR s0 (execBankSuspended b s) := by
  unfold execBankSuspended
  repeat' with_reducible first | assumption | exact Ev.refl _ | apply EvR.next | apply ite_evR | apply State.bump_ev | apply State.celAnswer_ev | apply State.celRun_ev | apply State.setBank_ev | refine foldl_ev _ _ (fun _ _ _ => ?_) ?_ | refine foldl_ev1 _ _ (fun _ _ _ => ?_) ?_ | refine foldl_ev2 _ _ (fun _ _ _ => ?_) ?_ | refine foldl_ev22 _ _ (fun _ _ _ => ?_) ?_ | refine foldl_ev21 _ _ (fun _ _ _ => ?_) ?_ | apply ite_ev | apply ite_ev1 | apply ite_ev2 | apply ite_ev22 | apply ite_ev21 | dsimp only | intro _ _ _ _ | intro _ _ _ | intro _ _ | split | refine Ev.lit rfl ?_

theorem execBankResume_ev {s0 : State} (b : Fin 4) {s : State} (hs0 : Ev s0 s) : EvR s0 (execBankResume b s) := by
  unfold execBankResume
  repeat' with_reducible first | assumption | exact Ev.refl _ | apply EvR.next | apply ite_evR | apply State.setBank_ev

end Sys2Proof.Machine
end

