-- ==== Sys2Proof/Laws/Run/Churn.lean ====
section
/-! SUPPORT. The commands of Machine/Churn.lean leave the queue of commands alone and keep the invariant. -/

namespace Sys2Proof.Machine


theorem execChurnPassStart_ev {s0 : State} {s : State} (hs0 : Ev s0 s) : EvR s0 (execChurnPassStart s) := by
  unfold execChurnPassStart
  repeat' with_reducible first | assumption | exact Ev.refl _ | apply EvR.next | apply ite_evR | apply State.churnStart_ev

theorem execScrubRead_ev {s0 : State} (q : Fin 4) (bits : List (Fin 2072)) {s : State} (hs0 : Ev s0 s) : EvR s0 (execScrubRead q bits s) := by
  unfold execScrubRead
  repeat' with_reducible first | assumption | exact Ev.refl _ | apply EvR.next | apply ite_evR | apply State.bump_ev | apply State.churnReport_ev | apply State.disturb_ev | apply State.setChurnPos_ev | apply State.setScrubJob_ev | apply ite_ev | apply ite_ev1 | apply ite_ev2 | apply ite_ev22 | apply ite_ev21 | dsimp only | split | refine Ev.lit rfl ?_ | refine Ev.eq2 (by assumption) ?_ | refine Ev.eq22 (by assumption) ?_ | refine Ev.eq1 (by assumption) ?_

theorem execCorrectionWrite_ev {s0 : State} (q : Fin 4) (fails : Fin 3) (left : List (Fin 2072)) {s : State} (hs0 : Ev s0 s) : EvR s0 (execCorrectionWrite q fails left s) := by
  unfold execCorrectionWrite
  repeat' with_reducible first | assumption | exact Ev.refl _ | apply EvR.next | apply ite_evR | apply State.scrubWrite_ev | apply State.setScrubJob_ev | apply ite_ev | apply ite_ev1 | apply ite_ev2 | apply ite_ev22 | apply ite_ev21 | dsimp only | split | refine Ev.lit rfl ?_ | refine Ev.eq2 (by assumption) ?_ | refine Ev.eq22 (by assumption) ?_ | refine Ev.eq1 (by assumption) ?_

theorem execRestorePlaneRead_ev {s0 : State} (q : Fin 4) (bits : List (Fin 2072)) {s : State} (hs0 : Ev s0 s) : EvR s0 (execRestorePlaneRead q bits s) := by
  unfold execRestorePlaneRead
  repeat' with_reducible first | assumption | exact Ev.refl _ | apply EvR.next | apply ite_evR | apply State.bump_ev | apply State.churnReport_ev | apply State.setPerr_ev | apply State.setPlane_ev | apply State.setScrubJob_ev | apply ite_ev | apply ite_ev1 | apply ite_ev2 | apply ite_ev22 | apply ite_ev21 | dsimp only | split | refine Ev.lit rfl ?_ | refine Ev.eq2 (by assumption) ?_ | refine Ev.eq22 (by assumption) ?_ | refine Ev.eq1 (by assumption) ?_

theorem execRestorationWrite_ev {s0 : State} (q : Fin 4) (fails : Fin 3) (left : List (Fin 2072)) {s : State} (hs0 : Ev s0 s) : EvR s0 (execRestorationWrite q fails left s) := by
  unfold execRestorationWrite
  repeat' with_reducible first | assumption | exact Ev.refl _ | apply EvR.next | apply ite_evR | apply State.scrubWrite_ev | apply State.setScrubJob_ev | apply ite_ev | apply ite_ev1 | apply ite_ev2 | apply ite_ev22 | apply ite_ev21 | dsimp only | split | refine Ev.lit rfl ?_ | refine Ev.eq2 (by assumption) ?_ | refine Ev.eq22 (by assumption) ?_ | refine Ev.eq1 (by assumption) ?_

theorem execChurnPassComplete_ev {s0 : State} {s : State} (hs0 : Ev s0 s) : EvR s0 (execChurnPassComplete s) := by
  unfold execChurnPassComplete
  repeat' with_reducible first | assumption | exact Ev.refl _ | apply EvR.next | apply ite_evR | apply State.bump_ev | apply State.churnStop_ev

theorem execChurnPassLate_ev {s0 : State} {s : State} (hs0 : Ev s0 s) : EvR s0 (execChurnPassLate s) := by
  unfold execChurnPassLate
  repeat' with_reducible first | assumption | exact Ev.refl _ | apply EvR.next | apply ite_evR | apply State.bump_ev | apply State.raiseVat_ev | apply State.wrb_ev | apply ite_ev | apply ite_ev1 | apply ite_ev2 | apply ite_ev22 | apply ite_ev21 | dsimp only | intro _ _ _ _ | intro _ _ _ | intro _ _ | refine Ev.lit rfl ?_

end Sys2Proof.Machine
end

