-- ==== Sys2Proof/Laws/Run/Clock.lean ====
section
/-! SUPPORT. The commands of Machine/Clock.lean leave the queue of commands alone and keep the invariant. -/

namespace Sys2Proof.Machine


theorem execRefQualified_ev {s0 : State} (refb : Bool) {s : State} (hs0 : Ev s0 s) : EvR s0 (execRefQualified refb s) := by
  unfold execRefQualified
  repeat' with_reducible first | assumption | exact Ev.refl _ | apply EvR.next | apply ite_evR | apply State.romSelect_ev | apply State.wrb_ev | apply ite_ev | apply ite_ev1 | apply ite_ev2 | apply ite_ev22 | apply ite_ev21

theorem execRefLoss_ev {s0 : State} (refb : Bool) {s : State} (hs0 : Ev s0 s) : EvR s0 (execRefLoss refb s) := by
  unfold execRefLoss
  repeat' with_reducible first | assumption | exact Ev.refl _ | apply EvR.next | apply ite_evR | apply State.bump_ev | apply State.clkPulse_ev | apply State.coastEntry_ev | apply State.norefCheck_ev | apply State.raiseDev_ev | apply State.romSelect_ev | apply State.wrb_ev | apply ite_ev | apply ite_ev1 | apply ite_ev2 | apply ite_ev22 | apply ite_ev21 | dsimp only

theorem execCoastSlewDone_ev {s0 : State} {s : State} (hs0 : Ev s0 s) : EvR s0 (execCoastSlewDone s) := by
  unfold execCoastSlewDone
  repeat' with_reducible first | assumption | exact Ev.refl _ | apply EvR.next | apply ite_evR | apply State.wrb_ev

theorem execRootCoastTimer_ev {s0 : State} {s : State} (hs0 : Ev s0 s) : EvR s0 (execRootCoastTimer s) := by
  unfold execRootCoastTimer
  repeat' with_reducible first | assumption | exact Ev.refl _ | apply EvR.next | apply ite_evR | apply State.raiseAt_ev | apply ite_ev | apply ite_ev1 | apply ite_ev2 | apply ite_ev22 | apply ite_ev21 | refine Ev.lit rfl ?_

theorem execRefWaitTimeout_ev {s0 : State} {s : State} (hs0 : Ev s0 s) : EvR s0 (execRefWaitTimeout s) := by
  unfold execRefWaitTimeout
  repeat' with_reducible first | assumption | exact Ev.refl _ | apply EvR.next | apply ite_evR | apply State.norefCheck_ev | apply State.wr_ev | apply ite_ev | apply ite_ev1 | apply ite_ev2 | apply ite_ev22 | apply ite_ev21 | dsimp only | refine Ev.lit rfl ?_

theorem execRootLoopLock_ev {s0 : State} {s : State} (hs0 : Ev s0 s) : EvR s0 (execRootLoopLock s) := by
  unfold execRootLoopLock
  repeat' with_reducible first | assumption | exact Ev.refl _ | apply EvR.next | apply ite_evR | apply State.wr_ev | apply State.wrb_ev | apply ite_ev | apply ite_ev1 | apply ite_ev2 | apply ite_ev22 | apply ite_ev21 | dsimp only | refine Ev.lit rfl ?_

theorem execRootSwitchDone_ev {s0 : State} {s : State} (hs0 : Ev s0 s) : EvR s0 (execRootSwitchDone s) := by
  unfold execRootSwitchDone
  repeat' with_reducible first | assumption | exact Ev.refl _ | apply EvR.next | apply ite_evR | apply State.wr_ev | apply State.wrb_ev | apply ite_ev | apply ite_ev1 | apply ite_ev2 | apply ite_ev22 | apply ite_ev21 | dsimp only | refine Ev.lit rfl ?_

theorem execAutoRelockTimer_ev {s0 : State} {s : State} (hs0 : Ev s0 s) : EvR s0 (execAutoRelockTimer s) := by
  unfold execAutoRelockTimer
  repeat' with_reducible first | assumption | exact Ev.refl _ | apply EvR.next | apply ite_evR | apply State.relockStart_ev

theorem execRelockComplete_ev {s0 : State} {s : State} (hs0 : Ev s0 s) : EvR s0 (execRelockComplete s) := by
  unfold execRelockComplete
  repeat' with_reducible first | assumption | exact Ev.refl _ | apply EvR.next | apply ite_evR | apply State.clkPulse_ev | apply State.dramRelock_ev | apply State.raiseDev_ev | apply State.wr_ev | apply State.wrb_ev | apply ite_ev | apply ite_ev1 | apply ite_ev2 | apply ite_ev22 | apply ite_ev21 | dsimp only | refine Ev.lit rfl ?_

theorem execDividerTakesEffect_ev {s0 : State} {s : State} (hs0 : Ev s0 s) : EvR s0 (execDividerTakesEffect s) := by
  unfold execDividerTakesEffect
  repeat' with_reducible first | assumption | exact Ev.refl _ | apply EvR.next | apply State.wr_ev | refine foldl_ev _ _ (fun _ _ _ => ?_) ?_

theorem execForeignLineSwitchDone_ev {s0 : State} (q : Fin 4) (l : Fin 8) {s : State} (hs0 : Ev s0 s) : EvR s0 (execForeignLineSwitchDone q l s) := by
  unfold execForeignLineSwitchDone
  repeat' with_reducible first | assumption | exact Ev.refl _ | apply EvR.next | apply ite_evR | apply State.wr_ev | apply State.wrb_ev

theorem execForeignSourceLoss_ev {s0 : State} (q : Fin 4) (l : Fin 8) (vats : BitVec 16) {s : State} (hs0 : Ev s0 s) : EvR s0 (execForeignSourceLoss q l vats s) := by
  unfold execForeignSourceLoss
  repeat' with_reducible first | assumption | exact Ev.refl _ | apply EvR.next | apply ite_evR | apply State.raiseAt_ev | apply State.wrb_ev

theorem execOscSettled_ev {s0 : State} (n : Fin 4) {s : State} (hs0 : Ev s0 s) : EvR s0 (execOscSettled n s) := by
  unfold execOscSettled
  repeat' with_reducible first | assumption | exact Ev.refl _ | apply EvR.next | apply ite_evR | apply State.wrb_ev

theorem execXo32Loss_ev {s0 : State} {s : State} (hs0 : Ev s0 s) : EvR s0 (execXo32Loss s) := by
  unfold execXo32Loss
  repeat' with_reducible first | assumption | exact Ev.refl _ | apply EvR.next | apply State.wrb_ev

theorem execXo32Return_ev {s0 : State} {s : State} (hs0 : Ev s0 s) : EvR s0 (execXo32Return s) := by
  unfold execXo32Return
  repeat' with_reducible first | assumption | exact Ev.refl _ | apply EvR.next | apply State.wrb_ev

end Sys2Proof.Machine
end

