-- ==== Sys2Proof/Laws/Run/Dbg.lean ====
section
/-! SUPPORT. The commands of Machine/Dbg.lean leave the queue of commands alone and keep the invariant. -/

namespace Sys2Proof.Machine


theorem execDbgOpen_ev {s0 : State} (e : ImmEnv) (body : List Byte) {s : State} (hs0 : Ev s0 s) : EvR s0 (execDbgOpen e body s) := by
  unfold execDbgOpen
  repeat' with_reducible first | assumption | exact Ev.refl _ | apply EvR.next | apply ite_evR | apply State.fresh_ev | apply State.request_ev | apply ite_ev | apply ite_ev1 | apply ite_ev2 | apply ite_ev22 | apply ite_ev21 | dsimp only | intro _ _ _ _ | intro _ _ _ | intro _ _ | refine Ev.lit rfl ?_

theorem execDbgAuth_ev {s0 : State} (e : ImmEnv) (body : List Byte) {s : State} (hs0 : Ev s0 s) : EvR s0 (execDbgAuth e body s) := by
  unfold execDbgAuth
  repeat' with_reducible first | assumption | exact Ev.refl _ | apply EvR.next | apply ite_evR | apply State.dbgVoid_ev | apply State.raiseDev_ev | apply State.request_ev | apply ite_ev | apply ite_ev1 | apply ite_ev2 | apply ite_ev22 | apply ite_ev21 | dsimp only | intro _ _ _ _ | intro _ _ _ | intro _ _ | split | refine Ev.lit rfl ?_

theorem execDbgChallengeTimeout_ev {s0 : State} {s : State} (hs0 : Ev s0 s) : EvR s0 (execDbgChallengeTimeout s) := by
  unfold execDbgChallengeTimeout
  repeat' with_reducible first | assumption | exact Ev.refl _ | apply EvR.next | apply State.dbgVoid_ev

theorem execDbgClose_ev {s0 : State} (e : ImmEnv) (body : List Byte) {s : State} (hs0 : Ev s0 s) : EvR s0 (execDbgClose e body s) := by
  unfold execDbgClose
  repeat' with_reducible first | assumption | exact Ev.refl _ | apply EvR.next | apply ite_evR | apply State.dbgEnd_ev | apply State.request_ev | apply ite_ev | apply ite_ev1 | apply ite_ev2 | apply ite_ev22 | apply ite_ev21 | intro _ _ _ _ | intro _ _ _ | intro _ _

theorem execDbgRd_ev {s0 : State} (e : ImmEnv) (body : List Byte) {s : State} (hs0 : Ev s0 s) : EvR s0 (execDbgRd e body s) := by
  unfold execDbgRd
  refine EvR.next (State.accessRequest_ev _ _ _ _ (fun u h => ?_) hs0)
  split
  · exact pair_ev h
  · refine ite_ev1 (pair_ev h) (ite_ev1 ?_ ?_)
    · exact pair_ev (runAccesses_ev _ _ (fun s x k => pair_ev (State.immRead_ev _ _ _ _ k)) h)
    · exact ite_ev1 (pair_ev h) (pair_ev (runAccesses_ev _ _ (fun s x k => State.dbgRead_ev _ _ k) h))

theorem execDbgWr_ev {s0 : State} (e : ImmEnv) (body : List Byte) {s : State} (hs0 : Ev s0 s) : EvR s0 (execDbgWr e body s) := by
  unfold execDbgWr
  refine EvR.next (State.accessRequest_ev _ _ _ _ (fun u h => ?_) hs0)
  split
  · exact pair_ev h
  · refine ite_ev1 (pair_ev h) (ite_ev1 ?_ ?_)
    · exact pair_ev (runAccesses_ev _ _ (fun s x k => pair_ev (State.immWrite_ev _ _ _ _ k)) h)
    · exact pair_ev (runAccesses_ev _ _ (fun s x k => pair_ev (State.dbgWrite_ev _ _ k)) h)

theorem execDbgRunHalt_ev {s0 : State} (e : ImmEnv) (core : Byte) {s : State} (hs0 : Ev s0 s) : EvR s0 (execDbgRunHalt e core s) := by
  unfold execDbgRunHalt
  repeat' with_reducible first | assumption | exact Ev.refl _ | apply EvR.next | apply ite_evR | apply State.askCore_ev | apply State.dbgRun_ev | apply State.runBody_ev | apply ite_ev | apply ite_ev1 | apply ite_ev2 | apply ite_ev22 | apply ite_ev21 | dsimp only | intro _ _ _ _ | intro _ _ _

theorem execDbgRunResume_ev {s0 : State} (e : ImmEnv) (core : Byte) {s : State} (hs0 : Ev s0 s) : EvR s0 (execDbgRunResume e core s) := by
  unfold execDbgRunResume
  repeat' with_reducible first | assumption | exact Ev.refl _ | apply EvR.next | apply State.dbgRun_ev | apply State.resumeCore_ev | apply State.runBody_ev | dsimp only | intro _ _ _ _ | intro _ _ _

theorem execDbgRunStep_ev {s0 : State} (e : ImmEnv) (core : Byte) {s : State} (hs0 : Ev s0 s) : EvR s0 (execDbgRunStep e core s) := by
  unfold execDbgRunStep
  repeat' with_reducible first | assumption | exact Ev.refl _ | apply EvR.next | apply ite_evR | apply State.askCore_ev | apply State.dbgRun_ev | apply ite_ev | apply ite_ev1 | apply ite_ev2 | apply ite_ev22 | apply ite_ev21 | intro _ _ _ _ | intro _ _ _

theorem execDbgRunStatus_ev {s0 : State} (e : ImmEnv) (core : Byte) {s : State} (hs0 : Ev s0 s) : EvR s0 (execDbgRunStatus e core s) := by
  unfold execDbgRunStatus
  repeat' with_reducible first | assumption | exact Ev.refl _ | apply EvR.next | apply State.dbgRun_ev | apply State.runBody_ev

theorem execProcessorHalted_ev {s0 : State} (k : Fin 5) (r : CpuRun) {s : State} (hs0 : Ev s0 s) : EvR s0 (execProcessorHalted k r s) := by
  unfold execProcessorHalted
  repeat' with_reducible first | assumption | exact Ev.refl _ | apply EvR.next | apply ite_evR | apply State.haltCore_ev | apply State.payOwed_ev | apply ite_ev | apply ite_ev1 | apply ite_ev2 | apply ite_ev22 | apply ite_ev21 | dsimp only | refine Ev.lit rfl ?_

theorem execBreakpointHit_ev {s0 : State} (k : Fin 5) (i : Fin 4) (r : CpuRun) {s : State} (hs0 : Ev s0 s) : EvR s0 (execBreakpointHit k i r s) := by
  unfold execBreakpointHit
  repeat' with_reducible first | assumption | exact Ev.refl _ | apply EvR.next | apply ite_evR | apply State.haltCore_ev | apply State.payOwed_ev | apply ite_ev | apply ite_ev1 | apply ite_ev2 | apply ite_ev22 | apply ite_ev21 | dsimp only | refine Ev.lit rfl ?_

theorem execDbgCpu_ev {s0 : State} (e : ImmEnv) (body : List Byte) {s : State} (hs0 : Ev s0 s) : EvR s0 (execDbgCpu e body s) := by
  unfold execDbgCpu
  repeat' with_reducible first | assumption | exact Ev.refl _ | apply EvR.next | apply ite_evR | apply State.dbgPut_ev | apply State.request_ev | apply State.wr_ev | apply ite_ev | apply ite_ev1 | apply ite_ev2 | apply ite_ev22 | apply ite_ev21 | dsimp only | intro _ _ _ _ | intro _ _ _ | intro _ _

theorem execDbgBkpt_ev {s0 : State} (e : ImmEnv) (body : List Byte) {s : State} (hs0 : Ev s0 s) : EvR s0 (execDbgBkpt e body s) := by
  unfold execDbgBkpt
  repeat' with_reducible first | assumption | exact Ev.refl _ | apply EvR.next | apply ite_evR | apply State.request_ev | apply ite_ev | apply ite_ev1 | apply ite_ev2 | apply ite_ev22 | apply ite_ev21 | dsimp only | intro _ _ _ _ | intro _ _ _ | intro _ _ | refine Ev.lit rfl ?_

end Sys2Proof.Machine
end

