-- ==== Sys2Proof/Laws/Run/Dram.lean ====
section
/-! SUPPORT. The commands of Machine/Dram.lean leave the queue of commands alone and keep the invariant. -/

namespace Sys2Proof.Machine


theorem execDramAdmit_ev {s0 : State} (n : Fin 8) {s : State} (hs0 : Ev s0 s) : EvR s0 (execDramAdmit n s) := by
  unfold execDramAdmit
  repeat' with_reducible first | assumption | exact Ev.refl _ | apply EvR.next | apply ite_evR | apply State.answerDram_ev | apply State.bump_ev | apply State.fillBars_ev | apply State.setChan_ev | apply State.wr_ev | apply ite_ev | apply ite_ev1 | apply ite_ev2 | apply ite_ev22 | apply ite_ev21 | dsimp only | split | refine Ev.lit rfl ?_ | refine Ev.eq2 (by assumption) ?_ | refine Ev.eq22 (by assumption) ?_ | refine Ev.eq1 (by assumption) ?_

theorem execDramRead_ev {s0 : State} (n : Fin 8) (sub : Fin 2) (x : Sense) {s : State} (hs0 : Ev s0 s) : EvR s0 (execDramRead n sub x s) := by
  unfold execDramRead
  repeat' with_reducible first | assumption | exact Ev.refl _ | apply EvR.next | apply ite_evR | apply State.answerDram_ev | apply State.bump_ev | apply State.fillBars_ev | apply State.readLine_ev | apply State.takeReq_ev | apply State.wr_ev | apply ite_ev | apply ite_ev1 | apply ite_ev2 | apply ite_ev22 | apply ite_ev21 | dsimp only | split | refine Ev.lit rfl ?_ | refine Ev.eq2 (by assumption) ?_ | refine Ev.eq22 (by assumption) ?_ | refine Ev.eq1 (by assumption) ?_

theorem execDramWholeWrite_ev {s0 : State} (n : Fin 8) (sub : Fin 2) {s : State} (hs0 : Ev s0 s) : EvR s0 (execDramWholeWrite n sub s) := by
  unfold execDramWholeWrite
  repeat' with_reducible first | assumption | exact Ev.refl _ | apply EvR.next | apply ite_evR | apply State.bump_ev | apply State.storeLine_ev | apply State.takeReq_ev | apply State.wr_ev | apply ite_ev | apply ite_ev1 | apply ite_ev2 | apply ite_ev22 | apply ite_ev21 | dsimp only | split | refine Ev.lit rfl ?_ | refine Ev.eq2 (by assumption) ?_ | refine Ev.eq22 (by assumption) ?_ | refine Ev.eq1 (by assumption) ?_

theorem execDramPartialWrite_ev {s0 : State} (n : Fin 8) (sub : Fin 2) (x : Sense) {s : State} (hs0 : Ev s0 s) : EvR s0 (execDramPartialWrite n sub x s) := by
  unfold execDramPartialWrite
  repeat' with_reducible first | assumption | exact Ev.refl _ | apply EvR.next | apply ite_evR | apply State.answerDram_ev | apply State.bump_ev | apply State.fillBars_ev | apply State.readEffects_ev | apply State.senseLine_ev | apply State.storeLine_ev | apply State.takeReq_ev | apply State.wr_ev | apply ite_ev | apply ite_ev1 | apply ite_ev2 | apply ite_ev22 | apply ite_ev21 | dsimp only | split | refine Ev.lit rfl ?_ | refine Ev.eq2 (by assumption) ?_ | refine Ev.eq22 (by assumption) ?_ | refine Ev.eq1 (by assumption) ?_

theorem execRefreshDue_ev {s0 : State} (n : Fin 8) (sub : Fin 2) (rank : Fin 4) {s : State} (hs0 : Ev s0 s) : EvR s0 (execRefreshDue n sub rank s) := by
  unfold execRefreshDue
  repeat' with_reducible first | assumption | exact Ev.refl _ | apply EvR.next | apply ite_evR | apply State.bump_ev | apply State.refreshed_ev | apply State.setChan_ev | apply State.showPend_ev

theorem execTemperaturePoll_ev {s0 : State} (n : Fin 8) (hot : Fin 16) {s : State} (hs0 : Ev s0 s) : EvR s0 (execTemperaturePoll n hot s) := by
  unfold execTemperaturePoll
  repeat' with_reducible first | assumption | exact Ev.refl _ | apply EvR.next | apply ite_evR | apply State.raiseDev_ev | apply State.srcSet_ev | apply State.wrb_ev | apply ite_ev

theorem execNeighbourRefresh_ev {s0 : State} (n : Fin 8) (bank : Fin 256) (row : Nat) {s : State} (hs0 : Ev s0 s) : EvR s0 (execNeighbourRefresh n bank row s) := by
  unfold execNeighbourRefresh
  repeat' with_reducible first | assumption | exact Ev.refl _ | apply EvR.next | apply ite_evR | apply State.bump_ev

theorem execReadTimingTracking_ev {s0 : State} (n : Fin 8) (sub : Fin 2) {s : State} (hs0 : Ev s0 s) : EvR s0 (execReadTimingTracking n sub s) := by
  unfold execReadTimingTracking
  repeat' with_reducible first | assumption | exact Ev.refl _ | apply EvR.next | apply ite_evR | apply State.setChan_ev

theorem execRowIdleClose_ev {s0 : State} (n : Fin 8) (bank : Fin 256) {s : State} (hs0 : Ev s0 s) : EvR s0 (execRowIdleClose n bank s) := by
  unfold execRowIdleClose
  repeat' with_reducible first | assumption | exact Ev.refl _ | apply EvR.next | apply State.setChan_ev

theorem execChannelInitDone_ev {s0 : State} (n : Fin 8) (failed : Fin 16) (drfm : Bool) {s : State} (hs0 : Ev s0 s) : EvR s0 (execChannelInitDone n failed drfm s) := by
  unfold execChannelInitDone
  repeat' with_reducible first | assumption | exact Ev.refl _ | apply EvR.next | apply ite_evR | apply State.ddrPulse_ev | apply State.raiseDev_ev | apply State.setChState_ev | apply State.setChan_ev | apply State.showPend_ev | apply State.wr_ev | apply State.wrb_ev | apply ite_ev

theorem execRankFillDone_ev {s0 : State} (n : Fin 8) (r : Fin 4) {s : State} (hs0 : Ev s0 s) : EvR s0 (execRankFillDone n r s) := by
  unfold execRankFillDone
  repeat' with_reducible first | assumption | exact Ev.refl _ | apply EvR.next | apply ite_evR | apply State.setChState_ev | apply State.setChan_ev | apply State.wrm_ev

theorem execMigrationCopy_ev {s0 : State} (n : Fin 8) (count : Nat) (x : Sense) {s : State} (hs0 : Ev s0 s) :
    EvR s0 (execMigrationCopy n count x s) := by
  unfold execMigrationCopy
  refine ite_evR (EvR.next hs0) ?_
  dsimp only
  have k0 := State.senseLine_ev ((s.chan n.val).line (s.rd (DDR.SPARE.SRC n.val)) (s.rd (DDR.MIG_PTR.LINES n.val) + count))
    (s.addrOfLine n.val (s.rd (DDR.SPARE.SRC n.val) * 2 ^ 30 + (s.rd (DDR.MIG_PTR.LINES n.val) + count))) x hs0
  generalize s.senseLine _ _ x = r at k0 ⊢
  have k1 := State.setChan_ev n.val ((r.1.chan n.val).copyRange (s.rd (DDR.SPARE.SRC n.val)) (s.rd (DDR.SPARE.SPR n.val))
    (s.rd (DDR.MIG_PTR.LINES n.val)) (count + 1)) k0
  generalize r.1.setChan n.val _ = u at k1 ⊢
  have k2 := ite_ev (c := r.2.codeBad = true) (State.setChan_ev n.val ((u.chan n.val).setLine (s.rd (DDR.SPARE.SPR n.val))
    (s.rd (DDR.MIG_PTR.LINES n.val) + count) ⟨r.2.data, true, u.dram.draw⟩) k1) k1
  generalize (if r.2.codeBad = true then u.setChan n.val _ else u) = w at k2 ⊢
  have k3 := State.wr_ev (DDR.MIG_PTR.LINES n.val) (s.rd (DDR.MIG_PTR.LINES n.val) + count + 1) k2
  exact ite_evR (EvR.next k3) (ite_evR (EvR.next (State.rankFault_ev _ _ _ (State.bump_ev _ _ k3)))
    (ite_evR (EvR.next (State.corrected_ev _ _ _ k3)) (EvR.next k3)))

theorem execMigrationDone_ev {s0 : State} (n : Fin 8) {s : State} (hs0 : Ev s0 s) : EvR s0 (execMigrationDone n s) := by
  unfold execMigrationDone
  repeat' with_reducible first | assumption | exact Ev.refl _ | apply EvR.next | apply ite_evR | apply State.ddrPulse_ev | apply State.raiseDev_ev | apply State.wr_ev | apply ite_ev | apply ite_ev1 | apply ite_ev2 | apply ite_ev22 | apply ite_ev21 | dsimp only

theorem execPatrolRead_ev {s0 : State} (n : Fin 8) (rank : Fin 4) (i : Fin (2 ^ 29)) (x : Sense) {s : State} (hs0 : Ev s0 s) : EvR s0 (execPatrolRead n rank i x s) := by
  unfold execPatrolRead
  repeat' with_reducible first | assumption | exact Ev.refl _ | apply EvR.next | apply ite_evR | apply State.readLine_ev | apply ite_ev | apply ite_ev1 | apply ite_ev2 | apply ite_ev22 | apply ite_ev21 | dsimp only | intro _ _ _ _ | intro _ _ _ | intro _ _

theorem execSelfRefreshReached_ev {s0 : State} (n : Fin 8) {s : State} (hs0 : Ev s0 s) : EvR s0 (execSelfRefreshReached n s) := by
  unfold execSelfRefreshReached
  repeat' with_reducible first | assumption | exact Ev.refl _ | apply EvR.next | apply ite_evR | apply State.coastFall_ev | apply State.setChState_ev | apply State.setChan_ev | apply State.srLeave_ev

theorem execChannelReady_ev {s0 : State} (n : Fin 8) {s : State} (hs0 : Ev s0 s) : EvR s0 (execChannelReady n s) := by
  unfold execChannelReady
  repeat' with_reducible first | assumption | exact Ev.refl _ | apply EvR.next | apply ite_evR | apply State.setChState_ev | apply State.setChan_ev | apply State.showPend_ev

end Sys2Proof.Machine
end

