-- ==== Sys2Proof/Laws/Run/Fabric.lean ====
section
/-! SUPPORT. The commands of Machine/Fabric.lean leave the queue of commands alone and keep the invariant. -/

namespace Sys2Proof.Machine


theorem execActiveClockEdge_ev {s0 : State} (e : FabEdge) {s : State} (hs0 : Ev s0 s) : EvR s0 (execActiveClockEdge e s) := by
  unfold execActiveClockEdge
  repeat' with_reducible first | assumption | exact Ev.refl _ | apply EvR.next | apply ite_evR | apply State.clockEdge_ev | apply State.fresh_ev | apply ite_ev | apply ite_ev1 | apply ite_ev2 | apply ite_ev22 | apply ite_ev21 | dsimp only | split | refine Ev.eq2 (by assumption) ?_ | refine Ev.eq22 (by assumption) ?_ | refine Ev.eq1 (by assumption) ?_

theorem execAsynchronousSr_ev {s0 : State} (tile : Fin 57344) (c : Fin 8) (up : Bool) (src : PortSrc) {s : State} (hs0 : Ev s0 s) : EvR s0 (execAsynchronousSr tile c up src s) := by
  unfold execAsynchronousSr
  repeat' with_reducible first | assumption | exact Ev.refl _ | apply EvR.next | apply ite_evR | apply State.drawFor_ev | apply State.srFalls_ev | apply ite_ev | apply ite_ev1 | apply ite_ev2 | apply ite_ev22 | apply ite_ev21 | dsimp only | split | refine Ev.lit rfl ?_ | refine Ev.eq2 (by assumption) ?_ | refine Ev.eq22 (by assumption) ?_ | refine Ev.eq1 (by assumption) ?_

end Sys2Proof.Machine
end

