-- ==== Sys2Proof/Laws/Run/Time.lean ====
section
/-! SUPPORT. The commands of Machine/Time.lean leave the queue of commands alone and keep the invariant. -/

namespace Sys2Proof.Machine


theorem execTrefQualified_ev {s0 : State} (ref : Bool) {s : State} (hs0 : Ev s0 s) : EvR s0 (execTrefQualified ref s) := by
  unfold execTrefQualified
  repeat' with_reducible first | assumption | exact Ev.refl _ | apply EvR.next | apply ite_evR | apply State.wrb_ev | apply ite_ev | apply ite_ev1 | apply ite_ev2 | apply ite_ev22 | apply ite_ev21

theorem execTrefLoss_ev {s0 : State} (ref : Bool) {s : State} (hs0 : Ev s0 s) : EvR s0 (execTrefLoss ref s) := by
  unfold execTrefLoss
  repeat' with_reducible first | assumption | exact Ev.refl _ | apply EvR.next | apply ite_evR | apply State.bump_ev | apply State.raiseAt_ev | apply State.wrb_ev | apply ite_ev | apply ite_ev1 | apply ite_ev2 | apply ite_ev22 | apply ite_ev21 | dsimp only

theorem execTclkLock_ev {s0 : State} {s : State} (hs0 : Ev s0 s) : EvR s0 (execTclkLock s) := by
  unfold execTclkLock
  repeat' with_reducible first | assumption | exact Ev.refl _ | apply EvR.next | apply ite_evR | apply State.wr_ev | apply State.wrb_ev | apply ite_ev | apply ite_ev1 | apply ite_ev2 | apply ite_ev22 | apply ite_ev21 | dsimp only | refine Ev.lit rfl ?_

theorem execTclkRelock_ev {s0 : State} {s : State} (hs0 : Ev s0 s) : EvR s0 (execTclkRelock s) := by
  unfold execTclkRelock
  repeat' with_reducible first | assumption | exact Ev.refl _ | apply EvR.next | apply ite_evR | apply State.wr_ev | apply State.wrb_ev | apply ite_ev | apply ite_ev1 | apply ite_ev2 | apply ite_ev22 | apply ite_ev21 | dsimp only | refine Ev.lit rfl ?_

theorem execBaseWatchdogExpiry_ev {s0 : State} (b : Fin 8) {s : State} (hs0 : Ev s0 s) : EvR s0 (execBaseWatchdogExpiry b s) := by
  unfold execBaseWatchdogExpiry
  repeat' with_reducible first | assumption | exact Ev.refl _ | apply EvR.next | apply ite_evR | apply State.holdover_ev

theorem execCmpFire_ev {s0 : State} (i : Fin 15) {s : State} (hs0 : Ev s0 s) : EvR s0 (execCmpFire i s) := by
  unfold execCmpFire
  repeat' with_reducible first | assumption | exact Ev.refl _ | apply EvR.next | apply ite_evR | apply State.cmpFire_ev

theorem execPulseAssert_ev {s0 : State} (k : Fin 16) {s : State} (hs0 : Ev s0 s) : EvR s0 (execPulseAssert k s) := by
  unfold execPulseAssert
  repeat' with_reducible first | assumption | exact Ev.refl _ | apply EvR.next | apply ite_evR | apply State.setTp_ev | apply State.srcPulse_ev | apply ite_ev | apply ite_ev1 | apply ite_ev2 | apply ite_ev22 | apply ite_ev21 | dsimp only | refine Ev.lit rfl ?_

theorem execPulseRelease_ev {s0 : State} (k : Fin 16) {s : State} (hs0 : Ev s0 s) : EvR s0 (execPulseRelease k s) := by
  unfold execPulseRelease
  repeat' with_reducible first | assumption | exact Ev.refl _ | apply EvR.next | apply ite_evR | apply State.setTp_ev | apply State.wrb_ev | apply ite_ev

theorem execCaptureEdge_ev {s0 : State} (j : Fin 9) (rise : Bool) (phase : Fin 64) (near : Bool) {s : State} (hs0 : Ev s0 s) : EvR s0 (execCaptureEdge j rise phase near s) := by
  unfold execCaptureEdge
  repeat' with_reducible first | assumption | exact Ev.refl _ | apply EvR.next | apply ite_evR | apply State.bump_ev | apply State.capIrq_ev | apply State.raiseVat_ev | apply State.setCap_ev | apply State.wrb_ev

end Sys2Proof.Machine
end

