-- ==== Sys2Proof/Laws/Run/Fen.lean ====
section
/-! SUPPORT. The commands of Machine/Fen.lean leave the queue of commands alone and keep the invariant. -/

namespace Sys2Proof.Machine


theorem execPauseExpiry_ev {s0 : State} (m : Fin 100) (c : Fin 8) {s : State} (hs0 : Ev s0 s) : EvR s0 (execPauseExpiry m c s) := by
  unfold execPauseExpiry
  repeat' with_reducible first | assumption | exact Ev.refl _ | apply EvR.next | apply State.setFport_ev

theorem execLinkUp_ev {s0 : State} (m : Fin 100) {s : State} (hs0 : Ev s0 s) : EvR s0 (execLinkUp m s) := by
  unfold execLinkUp
  repeat' with_reducible first | assumption | exact Ev.refl _ | apply EvR.next | apply ite_evR | apply State.fenFlag_ev | apply State.raiseDev_ev | apply State.raisePort_ev | apply State.wrb_ev | apply ite_ev | apply ite_ev1 | apply ite_ev2 | apply ite_ev22 | apply ite_ev21 | dsimp only

theorem execLinkDown_ev {s0 : State} (m : Fin 100) (lf rf : Bool) {s : State} (hs0 : Ev s0 s) : EvR s0 (execLinkDown m lf rf s) := by
  unfold execLinkDown
  repeat' with_reducible first | assumption | exact Ev.refl _ | apply EvR.next | apply State.linkFalls_ev | apply State.wrb_ev | dsimp only

theorem execTxStreamFrame_ev {s0 : State} (m : Fin 96) (bs : List Byte) (abort : Bool) (fid : Option (BitVec 16)) (phase : Fin 64) (partly : Bool) {s : State} (hs0 : Ev s0 s) : EvR s0 (execTxStreamFrame m bs abort fid phase partly s) := by
  unfold execTxStreamFrame
  repeat' with_reducible first | assumption | exact Ev.refl _ | apply EvR.next | apply ite_evR | apply State.fenDrop_ev | apply State.sendFrame_ev | apply State.setFport_ev | apply ite_ev | apply ite_ev1 | apply ite_ev2 | apply ite_ev22 | apply ite_ev21 | dsimp only | intro _ _ _ _ | intro _ _ _ | intro _ _ | refine Ev.lit rfl ?_

end Sys2Proof.Machine
end

