-- ==== Sys2Proof/Laws/Run/Hio.lean ====
section
/-! SUPPORT. The commands of Machine/Hio.lean leave the queue of commands alone and keep the invariant. -/

namespace Sys2Proof.Machine


theorem execHioSupplyOutOfWindow_ev {s0 : State} (b : Fin 12) (mv : Fin 4096) {s : State} (hs0 : Ev s0 s) : EvR s0 (execHioSupplyOutOfWindow b mv s) := by
  unfold execHioSupplyOutOfWindow
  repeat' with_reducible first | assumption | exact Ev.refl _ | apply EvR.next | apply ite_evR | apply State.hioOff_ev | apply State.setHio_ev

theorem execHioOutputsReturn_ev {s0 : State} (b : Fin 12) (mv : Fin 4096) {s : State} (hs0 : Ev s0 s) : EvR s0 (execHioOutputsReturn b mv s) := by
  unfold execHioOutputsReturn
  repeat' with_reducible first | assumption | exact Ev.refl _ | apply EvR.next | apply ite_evR | apply State.setHio_ev

theorem execStrapChange_ev {s0 : State} (b : Fin 12) (p : Fin 3) {s : State} (hs0 : Ev s0 s) : EvR s0 (execStrapChange b p s) := by
  unfold execStrapChange
  repeat' with_reducible first | assumption | exact Ev.refl _ | apply EvR.next | refine Ev.lit rfl ?_

theorem execTapReset_ev {s0 : State} {s : State} (hs0 : Ev s0 s) : EvR s0 (execTapReset s) := by
  unfold execTapReset
  repeat' with_reducible first | assumption | exact Ev.refl _ | apply EvR.next | apply State.setTap_ev

theorem execExtest_ev {s0 : State} (load : List (Fin 1974 × Bool)) {s : State} (hs0 : Ev s0 s) : EvR s0 (execExtest load s) := by
  unfold execExtest
  repeat' with_reducible first | assumption | exact Ev.refl _ | apply EvR.next | apply State.setTap_ev

theorem execIdcode_ev {s0 : State} {s : State} (hs0 : Ev s0 s) : EvR s0 (execIdcode s) := by
  unfold execIdcode
  repeat' with_reducible first | assumption | exact Ev.refl _ | apply EvR.next | apply State.setTap_ev

theorem execSamplePreload_ev {s0 : State} (load : List (Fin 1974 × Bool)) {s : State} (hs0 : Ev s0 s) : EvR s0 (execSamplePreload load s) := by
  unfold execSamplePreload
  repeat' with_reducible first | assumption | exact Ev.refl _ | apply EvR.next | apply State.fresh_ev | apply State.setTap_ev

theorem execBypass_ev {s0 : State} {s : State} (hs0 : Ev s0 s) : EvR s0 (execBypass s) := by
  unfold execBypass
  repeat' with_reducible first | assumption | exact Ev.refl _ | apply EvR.next | apply State.setTap_ev

end Sys2Proof.Machine
end

