-- ==== Sys2Proof/Laws/Run/Lanes.lean ====
section
/-! SUPPORT. The commands of Machine/Lanes.lean leave the queue of commands alone and keep the invariant. -/

namespace Sys2Proof.Machine


theorem execQuadPllLock_ev {s0 : State} (u : Fin 25) (p : Fin 2) {s : State} (hs0 : Ev s0 s) : EvR s0 (execQuadPllLock u p s) := by
  unfold execQuadPllLock
  repeat' with_reducible first | assumption | exact Ev.refl _ | apply EvR.next | apply ite_evR | apply State.wrb_ev

theorem execLanePllFail_ev {s0 : State} (u : Fin 25) (p : Fin 2) {s : State} (hs0 : Ev s0 s) : EvR s0 (execLanePllFail u p s) := by
  unfold execLanePllFail
  repeat' with_reducible first | assumption | exact Ev.refl _ | apply EvR.next | apply ite_evR | apply State.raiseQuad_ev | apply State.txIdle_ev | apply State.wrb_ev

theorem execQuadRefQualified_ev {s0 : State} (u : Fin 25) {s : State} (hs0 : Ev s0 s) : EvR s0 (execQuadRefQualified u s) := by
  unfold execQuadRefQualified
  repeat' with_reducible first | assumption | exact Ev.refl _ | apply EvR.next | apply ite_evR | apply State.wrb_ev | apply ite_ev | apply ite_ev1 | apply ite_ev2 | apply ite_ev22 | apply ite_ev21

theorem execQuadRefLoss_ev {s0 : State} (u : Fin 25) {s : State} (hs0 : Ev s0 s) : EvR s0 (execQuadRefLoss u s) := by
  unfold execQuadRefLoss
  repeat' with_reducible first | assumption | exact Ev.refl _ | apply EvR.next | apply ite_evR | apply State.bump_ev | apply State.raiseQuad_ev | apply State.rxRefLoss_ev | apply State.txIdle_ev | apply State.wrb_ev | refine foldl_ev _ _ (fun _ _ _ => ?_) ?_

theorem execTxOnReached_ev {s0 : State} (n : Fin 100) {s : State} (hs0 : Ev s0 s) : EvR s0 (execTxOnReached n s) := by
  unfold execTxOnReached
  repeat' with_reducible first | assumption | exact Ev.refl _ | apply EvR.next | apply ite_evR | apply State.injected_ev | apply State.wr_ev | apply ite_ev | apply ite_ev1 | apply ite_ev2 | apply ite_ev22 | apply ite_ev21 | dsimp only | refine Ev.lit rfl ?_

theorem execRxSignalDetect_ev {s0 : State} (n : Fin 100) {s : State} (hs0 : Ev s0 s) : EvR s0 (execRxSignalDetect n s) := by
  unfold execRxSignalDetect
  repeat' with_reducible first | assumption | exact Ev.refl _ | apply EvR.next | apply ite_evR | apply State.wr_ev | apply State.wrb_ev | apply ite_ev | apply ite_ev1 | apply ite_ev2 | apply ite_ev22 | apply ite_ev21 | dsimp only

theorem execRxCdrLock_ev {s0 : State} (n : Fin 100) {s : State} (hs0 : Ev s0 s) : EvR s0 (execRxCdrLock n s) := by
  unfold execRxCdrLock
  repeat' with_reducible first | assumption | exact Ev.refl _ | apply EvR.next | apply ite_evR | apply State.wr_ev

theorem execRxLocked_ev {s0 : State} (n : Fin 100) (snr : Byte) (ctle : Fin 32) (taps : List Byte) {s : State} (hs0 : Ev s0 s) : EvR s0 (execRxLocked n snr ctle taps s) := by
  unfold execRxLocked
  repeat' with_reducible first | assumption | exact Ev.refl _ | apply EvR.next | apply ite_evR | apply State.adapt_ev | apply State.laneFlag_ev | apply State.wr_ev | apply State.wrb_ev

theorem execRxLockLost_ev {s0 : State} (n : Fin 100) {s : State} (hs0 : Ev s0 s) : EvR s0 (execRxLockLost n s) := by
  unfold execRxLockLost
  repeat' with_reducible first | assumption | exact Ev.refl _ | apply EvR.next | apply ite_evR | apply State.lockLost_ev | apply State.wr_ev

theorem execRxSignalLost_ev {s0 : State} (n : Fin 100) {s : State} (hs0 : Ev s0 s) : EvR s0 (execRxSignalLost n s) := by
  unfold execRxSignalLost
  repeat' with_reducible first | assumption | exact Ev.refl _ | apply EvR.next | apply ite_evR | apply State.bump_ev | apply State.lockLost_ev | apply State.wr_ev | apply State.wrb_ev | apply ite_ev

theorem execRxNoLock_ev {s0 : State} (n : Fin 100) {s : State} (hs0 : Ev s0 s) : EvR s0 (execRxNoLock n s) := by
  unfold execRxNoLock
  repeat' with_reducible first | assumption | exact Ev.refl _ | apply EvR.next | apply ite_evR | apply State.laneFlag_ev | apply State.raiseLane_ev | apply State.wrb_ev

theorem execPrbsCheckerLock_ev {s0 : State} (n : Fin 100) (seed : BitVec 31) (bits : BitVec 1024) {s : State} (hs0 : Ev s0 s) : EvR s0 (execPrbsCheckerLock n seed bits s) := by
  unfold execPrbsCheckerLock
  repeat' with_reducible first | assumption | exact Ev.refl _ | apply EvR.next | apply ite_evR | apply State.wrb_ev | apply ite_ev | apply ite_ev1 | apply ite_ev2 | apply ite_ev22 | apply ite_ev21 | dsimp only | refine Ev.lit rfl ?_

theorem execPrbsCheckerBlock_ev {s0 : State} (n : Fin 100) (bits : BitVec 1024) {s : State} (hs0 : Ev s0 s) : EvR s0 (execPrbsCheckerBlock n bits s) := by
  unfold execPrbsCheckerBlock
  repeat' with_reducible first | assumption | exact Ev.refl _ | apply EvR.next | apply ite_evR | apply State.bump_ev | apply State.checkerDrop_ev | apply State.laneFlag_ev | apply State.wrb_ev | apply ite_ev | apply ite_ev1 | apply ite_ev2 | apply ite_ev22 | apply ite_ev21 | dsimp only | refine Ev.lit rfl ?_

theorem execElasticBufferSlip_ev {s0 : State} (n : Fin 100) {s : State} (hs0 : Ev s0 s) : EvR s0 (execElasticBufferSlip n s) := by
  unfold execElasticBufferSlip
  repeat' with_reducible first | assumption | exact Ev.refl _ | apply EvR.next | apply ite_evR | apply State.bump_ev | apply State.laneFlag_ev

theorem execContinuousErrorInjection_ev {s0 : State} (n : Fin 100) {s : State} (hs0 : Ev s0 s) : EvR s0 (execContinuousErrorInjection n s) := by
  unfold execContinuousErrorInjection
  repeat' with_reducible first | assumption | exact Ev.refl _ | apply EvR.next | apply ite_evR | apply State.injected_ev

end Sys2Proof.Machine
end

