-- ==== Sys2Proof/Laws/Run/Procs.lean ====
section
/-! SUPPORT. The commands of Machine/Procs.lean leave the queue of commands alone and keep the invariant. -/

namespace Sys2Proof.Machine


theorem execPoisonedWordLoad_ev {s0 : State} (c : Fin 6) (x : CpuLoad) {s : State} (hs0 : Ev s0 s) : EvR s0 (execPoisonedWordLoad c x s) := by
  unfold execPoisonedWordLoad
  repeat' with_reducible first | assumption | exact Ev.refl _ | apply EvR.next | apply ite_evR | apply State.cpuRan_ev | apply State.loadFault_ev | apply ite_ev | apply ite_ev1 | apply ite_ev2 | apply ite_ev22 | apply ite_ev21 | split | refine Ev.lit rfl ?_ | refine Ev.eq2 (by assumption) ?_ | refine Ev.eq22 (by assumption) ?_ | refine Ev.eq1 (by assumption) ?_

theorem execStoreErrorResponse_ev {s0 : State} (c : Fin 6) (st : Fin 6) (a : BitVec 64) {s : State} (hs0 : Ev s0 s) : EvR s0 (execStoreErrorResponse c st a s) := by
  unfold execStoreErrorResponse
  repeat' with_reducible first | assumption | exact Ev.refl _ | apply EvR.next | apply ite_evR | apply State.setProc_ev | apply State.srcSet_ev

theorem execMsterrClear_ev {s0 : State} (c : Fin 6) {s : State} (hs0 : Ev s0 s) : EvR s0 (execMsterrClear c s) := by
  unfold execMsterrClear
  repeat' with_reducible first | assumption | exact Ev.refl _ | apply EvR.next | apply State.setProc_ev | apply State.srcSet_ev

theorem execFastInterruptEntry_ev {s0 : State} (c : Fin 6) (r : CpuRun) {s : State} (hs0 : Ev s0 s) : EvR s0 (execFastInterruptEntry c r s) := by
  unfold execFastInterruptEntry
  repeat' with_reducible first | assumption | exact Ev.refl _ | apply EvR.next | apply ite_evR | apply State.cpuRan_ev | apply State.reoffer_ev | apply State.setClaim_ev | apply State.setLatch_ev | apply State.setOffer_ev | apply State.setProc_ev | apply State.wrb_ev | apply ite_ev | apply ite_ev1 | apply ite_ev2 | apply ite_ev22 | apply ite_ev21 | dsimp only | split

theorem execFret_ev {s0 : State} (c : Fin 6) (r : CpuRun) {s : State} (hs0 : Ev s0 s) : EvR s0 (execFret c r s) := by
  unfold execFret
  repeat' with_reducible first | assumption | exact Ev.refl _ | apply EvR.next | apply ite_evR | apply State.cpuRan_ev | apply State.reoffer_ev | apply State.setClaim_ev | apply State.setProc_ev | apply State.wrb_ev | apply ite_ev | apply ite_ev1 | apply ite_ev2 | apply ite_ev22 | apply ite_ev21 | dsimp only | split

theorem execInterruptAssert_ev {s0 : State} (i : Fin 976) (b : Bool) {s : State} (hs0 : Ev s0 s) : EvR s0 (execInterruptAssert i b s) := by
  unfold execInterruptAssert
  repeat' with_reducible first | assumption | exact Ev.refl _ | apply EvR.next | apply ite_evR | apply State.srcSet_ev | apply ite_ev | apply ite_ev1 | apply ite_ev2 | apply ite_ev22 | apply ite_ev21

theorem execWakeLatchEdge_ev {s0 : State} (i : Fin 128) {s : State} (hs0 : Ev s0 s) : EvR s0 (execWakeLatchEdge i s) := by
  unfold execWakeLatchEdge
  repeat' with_reducible first | assumption | exact Ev.refl _ | apply EvR.next | apply ite_evR | apply State.reoffer_ev | apply State.setLatch_ev | apply ite_ev

theorem execMtimeCompare_ev {s0 : State} (k : Fin 4) {s : State} (hs0 : Ev s0 s) : EvR s0 (execMtimeCompare k s) := by
  unfold execMtimeCompare
  repeat' with_reducible first | assumption | exact Ev.refl _ | apply EvR.next | apply State.mtip_ev

theorem execPeripheralWordReceived_ev {s0 : State} (k : Fin 20) (w : BitVec 16) {s : State} (hs0 : Ev s0 s) : EvR s0 (execPeripheralWordReceived k w s) := by
  unfold execPeripheralWordReceived
  repeat' with_reducible first | assumption | exact Ev.refl _ | apply EvR.next | apply ite_evR | apply State.setSvcPort_ev | apply State.svcFlag_ev | apply State.wrb_ev | apply ite_ev | apply ite_ev1 | apply ite_ev2 | apply ite_ev22 | apply ite_ev21 | dsimp only | refine Ev.lit rfl ?_

theorem execPeripheralTransferDone_ev {s0 : State} (k : Fin 20) (ws : List (BitVec 16)) {s : State} (hs0 : Ev s0 s) : EvR s0 (execPeripheralTransferDone k ws s) := by
  unfold execPeripheralTransferDone
  repeat' with_reducible first | assumption | exact Ev.refl _ | apply EvR.next | apply ite_evR | apply State.setSvcPort_ev | apply State.svcFlag_ev | apply State.txPush_ev | refine foldl_ev _ _ (fun _ _ _ => ?_) ?_ | refine foldl_ev1 _ _ (fun _ _ _ => ?_) ?_ | refine foldl_ev2 _ _ (fun _ _ _ => ?_) ?_ | refine foldl_ev22 _ _ (fun _ _ _ => ?_) ?_ | refine foldl_ev21 _ _ (fun _ _ _ => ?_) ?_ | apply ite_ev | apply ite_ev1 | apply ite_ev2 | apply ite_ev22 | apply ite_ev21 | dsimp only | intro _ _ _ _ | intro _ _ _ | intro _ _ | refine Ev.lit rfl ?_

theorem execI2cTimeout_ev {s0 : State} (j : Fin 8) {s : State} (hs0 : Ev s0 s) : EvR s0 (execI2cTimeout j s) := by
  unfold execI2cTimeout
  repeat' with_reducible first | assumption | exact Ev.refl _ | apply EvR.next | apply ite_evR | apply State.setSvcPort_ev | apply State.svcFlag_ev | apply State.wrb_ev

end Sys2Proof.Machine
end

