-- ==== Sys2Proof/Laws/Run/Link.lean ====
section
/-! SUPPORT. The commands of Machine/Link.lean leave the queue of commands alone and keep the invariant. -/

namespace Sys2Proof.Machine

theorem execRefusalResponse_ev {s0 : State} (h : Fin 4) {s : State} (hs0 : Ev s0 s) : EvR s0 (execRefusalResponse h s) := by
  unfold execRefusalResponse
  dsimp only
  split
  · exact EvR.next hs0
  · rename_i r rs _
    have g := State.audit_ev ⟨((s.setHost h { s.host h with refusing := rs }).bump (MGT.REFUSED_CNT h)).now, h, r.reason,
      r.code, r.rseq, r.sid, r.arg, r.vat⟩ (State.bump_ev (MGT.REFUSED_CNT h) 1
      (State.setHost_ev h.val { s.host h with refusing := rs } (ok_keep (Nat.le_refl _) rfl) hs0))
    generalize State.audit _ _ = u at g ⊢
    split
    · rename_i y _ es
      refine EvR.next (State.sendMsg_ev _ _ _ _ _ _ (State.putHost_ev _ _ (fun k => ⟨(g.host h k).1, fun z m => ?_⟩) g))
      cases m
      simpa using (hs0.host h k).2 y es
    · exact EvR.next (State.sendBare_ev _ _ _ _ _ _ g)

theorem execImmAck_ev {s0 : State} (e : ImmEnv) {s : State} (hs0 : Ev s0 s) : EvR s0 (execImmAck e s) := by
  unfold execImmAck
  repeat' with_reducible first | assumption | exact Ev.refl _ | apply EvR.next | apply ite_evR | apply State.ackTo_ev | apply State.bump_ev

theorem execImmRetransmitExpiry_ev {s0 : State} (h : Fin 4) {s : State} (hs0 : Ev s0 s) :
    EvR s0 (execImmRetransmitExpiry h s) := by
  unfold execImmRetransmitExpiry
  dsimp only
  split
  · exact EvR.next hs0
  · rename_i y es
    refine ite_evR (EvR.next hs0) (ite_evR (EvR.next (State.closeSession_ev _ _ (State.bump_ev _ _ hs0))) ?_)
    have g := State.bump_ev (MGT.TX_CNT h) y.unacked.length (State.bump_ev (MGT.RTX_CNT h) 1 hs0)
    generalize State.bump _ (MGT.TX_CNT h) y.unacked.length = u at g ⊢
    refine EvR.next (State.putHost_ev _ _ (fun k => ⟨(g.host h k).1, fun z m => ?_⟩) g)
    cases m
    exact (hs0.host h k).2 y es

theorem execStandaloneAckTimer_ev {s0 : State} (h : Fin 4) {s : State} (hs0 : Ev s0 s) : EvR s0 (execStandaloneAckTimer h s) := by
  unfold execStandaloneAckTimer
  repeat' with_reducible first | assumption | exact Ev.refl _ | apply EvR.next | apply ite_evR | apply State.sendAck_ev | apply ite_ev | apply ite_ev1 | apply ite_ev2 | apply ite_ev22 | apply ite_ev21 | split

theorem execSessionIdleTimeout_ev {s0 : State} (h : Fin 4) {s : State} (hs0 : Ev s0 s) : EvR s0 (execSessionIdleTimeout h s) := by
  unfold execSessionIdleTimeout
  repeat' with_reducible first | assumption | exact Ev.refl _ | apply EvR.next | apply State.closeSession_ev

theorem HostSt.takeToken_sess (x : HostSt) (v : Nat) : (x.takeToken v).sess = x.sess := by
  unfold HostSt.takeToken
  split <;> rfl

theorem execEventSend_ev {s0 : State} (h : Fin 4) {s : State} (hs0 : Ev s0 s) : EvR s0 (execEventSend h s) := by
  unfold execEventSend
  dsimp only
  split
  · refine ite_evR (EvR.next hs0) (EvR.next (State.bump_ev _ _ (State.sendMsg_ev _ _ _ _ _ _ (State.setHost_ev _ _ ?_ hs0))))
    refine fun k => ⟨by simpa [length_mapFirst] using k.1, ?_⟩
    show ∀ z ∈ (HostSt.takeToken _ _).sess, _
    rw [HostSt.takeToken_sess]
    exact k.2
  · exact EvR.next hs0

theorem execEventsLostSend_ev {s0 : State} (h : Fin 4) {s : State} (hs0 : Ev s0 s) : EvR s0 (execEventsLostSend h s) := by
  unfold execEventsLostSend
  repeat' first | (with_reducible first | assumption | exact Ev.refl _ | apply EvR.next | apply ite_evR | apply State.bump_ev | apply State.logEvent_ev | apply State.sendMsg_ev | apply State.sent_ev | apply State.setHost_ev | apply ite_ev | apply ite_ev1 | apply ite_ev2 | apply ite_ev22 | apply ite_ev21 | dsimp only | split | refine Ev.lit rfl ?_) | exact ok_keep (by first | exact Nat.le_refl _ | exact List.length_filter_le _ _ | simp | simp [HostSt.unsend]) rfl | exact ok_none (by first | exact Nat.le_refl _ | exact List.length_filter_le _ _ | simp | simp [HostSt.unsend]) rfl | exact ok_some (by assumption) (by first | exact Nat.le_refl _ | exact List.length_filter_le _ _ | simp | simp [HostSt.unsend]) rfl (by first | exact Nat.le_refl _ | exact List.length_filter_le _ _ | simp | simp [HostSt.unsend]) | refine Ev.eq2 (by assumption) ?_ | refine Ev.eq22 (by assumption) ?_ | refine Ev.eq1 (by assumption) ?_

theorem execMpRateAlternate_ev {s0 : State} (h : Fin 4) {s : State} (hs0 : Ev s0 s) : EvR s0 (execMpRateAlternate h s) := by
  unfold execMpRateAlternate
  repeat' with_reducible first | assumption | exact Ev.refl _ | apply EvR.next | apply ite_evR | apply State.mpRun_ev

theorem execSmbusStatusRead_ev {s0 : State} {s : State} (hs0 : Ev s0 s) : EvR s0 (execSmbusStatusRead s) := by
  unfold execSmbusStatusRead
  repeat' with_reducible first | assumption | exact Ev.refl _ | apply EvR.next | apply ite_evR | apply ite_ev | apply ite_ev1 | apply ite_ev2 | apply ite_ev22 | apply ite_ev21 | dsimp only | refine Ev.lit rfl ?_

theorem execSmbusLastgaspRead_ev {s0 : State} (hi : Bool) {s : State} (hs0 : Ev s0 s) : EvR s0 (execSmbusLastgaspRead hi s) := by
  unfold execSmbusLastgaspRead
  repeat' with_reducible first | assumption | exact Ev.refl _ | apply EvR.next | apply ite_evR | apply ite_ev | apply ite_ev1 | apply ite_ev2 | apply ite_ev22 | apply ite_ev21 | dsimp only | intro _ _ _ _ | intro _ _ _ | intro _ _ | refine Ev.lit rfl ?_

end Sys2Proof.Machine
end

