-- ==== Sys2Proof/Laws/Run/Loads.lean ====
section
/-! SUPPORT. The commands of Machine/Loads.lean leave the queue of commands alone and keep the invariant. -/

namespace Sys2Proof.Machine


theorem execLoadComplete_ev {s0 : State} (v : Fin 16) (ups : List (Bool × Fin 262144 × List (Fin 2072))) {s : State} (hs0 : Ev s0 s) : EvR s0 (execLoadComplete v ups s) := by
  unfold execLoadComplete
  repeat' with_reducible first | assumption | exact Ev.refl _ | apply EvR.next | apply ite_evR | apply State.capResume_ev | apply State.setPlane_ev | apply State.vatPass_ev | apply State.wholePass_ev | refine foldl_ev _ _ (fun _ _ _ => ?_) ?_ | refine foldl_ev1 _ _ (fun _ _ _ => ?_) ?_ | refine foldl_ev2 _ _ (fun _ _ _ => ?_) ?_ | refine foldl_ev22 _ _ (fun _ _ _ => ?_) ?_ | refine foldl_ev21 _ _ (fun _ _ _ => ?_) ?_ | apply ite_ev | apply ite_ev1 | apply ite_ev2 | apply ite_ev22 | apply ite_ev21 | dsimp only | intro _ _ _ _ | intro _ _ _ | intro _ _ | split | refine Ev.lit rfl ?_ | refine Ev.eq2 (by assumption) ?_ | refine Ev.eq22 (by assumption) ?_ | refine Ev.eq1 (by assumption) ?_

theorem execConfirmWindowExpiry_ev {s0 : State} (v : Fin 16) {s : State} (hs0 : Ev s0 s) : EvR s0 (execConfirmWindowExpiry v s) := by
  unfold execConfirmWindowExpiry
  repeat' with_reducible first | assumption | exact Ev.refl _ | apply EvR.next | apply ite_evR | apply State.closeWindow_ev | apply State.enterFallback_ev | apply State.noPrev_ev | apply State.raiseVat_ev | apply State.setExpiring_ev | refine foldl_ev _ _ (fun _ _ _ => ?_) ?_

theorem execExpiryRollbackStart_ev {s0 : State} (v : Fin 16) {s : State} (hs0 : Ev s0 s) : EvR s0 (execExpiryRollbackStart v s) := by
  unfold execExpiryRollbackStart
  repeat' with_reducible first | assumption | exact Ev.refl _ | apply EvR.next | apply ite_evR | apply State.enterFallback_ev | apply State.launchOp_ev | apply State.modFail_ev | apply State.noPrev_ev | apply State.raiseVat_ev | apply State.setExpiring_ev | refine foldl_ev _ _ (fun _ _ _ => ?_) ?_ | refine foldl_ev1 _ _ (fun _ _ _ => ?_) ?_ | refine foldl_ev2 _ _ (fun _ _ _ => ?_) ?_ | refine foldl_ev22 _ _ (fun _ _ _ => ?_) ?_ | refine foldl_ev21 _ _ (fun _ _ _ => ?_) ?_ | apply ite_ev | apply ite_ev1 | apply ite_ev2 | apply ite_ev22 | apply ite_ev21 | dsimp only | intro _ _ _ _ | intro _ _ _ | intro _ _ | split

theorem execArmCompareFire_ev {s0 : State} (k : Fin 16) {s : State} (hs0 : Ev s0 s) : EvR s0 (execArmCompareFire k s) := by
  unfold execArmCompareFire
  repeat' with_reducible first | assumption | exact Ev.refl _ | apply EvR.next | apply ite_evR | apply State.actLate_ev | apply State.launchOp_ev | apply State.opStat_ev | apply State.wr_ev | apply State.wrb_ev | apply ite_ev | apply ite_ev1 | apply ite_ev2 | apply ite_ev22 | apply ite_ev21 | dsimp only | intro _ _ _ _ | intro _ _ _ | intro _ _ | split | refine Ev.lit rfl ?_ | refine Ev.eq2 (by assumption) ?_ | refine Ev.eq22 (by assumption) ?_ | refine Ev.eq1 (by assumption) ?_

theorem execActivationAssertion_ev {s0 : State} (k : Fin 16) (d : Nat) {s : State} (hs0 : Ev s0 s) : EvR s0 (execActivationAssertion k d s) := by
  unfold execActivationAssertion
  repeat' with_reducible first | assumption | exact Ev.refl _ | apply EvR.next | apply ite_evR | apply State.launchOp_ev | apply State.setLate_ev | apply State.startOp_ev | apply ite_ev | apply ite_ev1 | apply ite_ev2 | apply ite_ev22 | apply ite_ev21 | dsimp only | intro _ _ _ _ | intro _ _ _ | intro _ _ | split | refine Ev.lit rfl ?_ | refine Ev.eq2 (by assumption) ?_ | refine Ev.eq22 (by assumption) ?_ | refine Ev.eq1 (by assumption) ?_

theorem execDeferredWholeDeviceStart_ev {s0 : State} (d : Nat) {s : State} (hs0 : Ev s0 s) : EvR s0 (execDeferredWholeDeviceStart d s) := by
  unfold execDeferredWholeDeviceStart
  repeat' with_reducible first | assumption | exact Ev.refl _ | apply EvR.next | apply ite_evR | apply State.setLate_ev | apply State.startOp_ev | apply ite_ev | apply ite_ev1 | apply ite_ev2 | apply ite_ev22 | apply ite_ev21 | dsimp only | split | refine Ev.lit rfl ?_ | refine Ev.eq2 (by assumption) ?_ | refine Ev.eq22 (by assumption) ?_ | refine Ev.eq1 (by assumption) ?_

theorem execDeferredSwapStart_ev {s0 : State} (v : Fin 16) (d : Nat) {s : State} (hs0 : Ev s0 s) : EvR s0 (execDeferredSwapStart v d s) := by
  unfold execDeferredSwapStart
  repeat' with_reducible first | assumption | exact Ev.refl _ | apply EvR.next | apply ite_evR | apply State.setLate_ev | apply State.startOp_ev | apply ite_ev | apply ite_ev1 | apply ite_ev2 | apply ite_ev22 | apply ite_ev21 | dsimp only | intro _ _ _ _ | intro _ _ _ | intro _ _ | split | refine Ev.lit rfl ?_ | refine Ev.eq2 (by assumption) ?_ | refine Ev.eq22 (by assumption) ?_ | refine Ev.eq1 (by assumption) ?_

theorem execFrameAccessDone_ev {s0 : State} (bits : List (Fin 2072)) (bad : Bool) {s₀ : State} (hs0 : Ev s0 s₀) : EvR s0 (execFrameAccessDone bits bad s₀) := by
  unfold execFrameAccessDone
  repeat' with_reducible first | assumption | exact Ev.refl _ | apply EvR.next | apply ite_evR | apply State.disturb_ev | apply State.freePlane_ev | apply State.fwRead_ev | apply State.loadLive_ev | apply State.setPerr_ev | apply State.setPlane_ev | apply State.setUnrest_ev | apply State.wr_ev | apply State.wrb_ev | apply ite_ev | apply ite_ev1 | apply ite_ev2 | apply ite_ev22 | apply ite_ev21 | dsimp only | intro _ _ _ _ | intro _ _ _ | intro _ _ | split | refine Ev.lit rfl ?_ | refine Ev.eq2 (by assumption) ?_ | refine Ev.eq22 (by assumption) ?_ | refine Ev.eq1 (by assumption) ?_

theorem execPlaneRepair_ev {s0 : State} (n : Fin 262144) (fails : Fin 4) {s : State} (hs0 : Ev s0 s) : EvR s0 (execPlaneRepair n fails s) := by
  unfold execPlaneRepair
  repeat' with_reducible first | assumption | exact Ev.refl _ | apply EvR.next | apply ite_evR | apply State.freePlane_ev | apply State.raiseVat_ev | apply State.setPerr_ev | apply State.setPlane_ev | apply State.setRole_ev | apply ite_ev | apply ite_ev1 | apply ite_ev2 | apply ite_ev22 | apply ite_ev21 | dsimp only | split | refine Ev.lit rfl ?_ | refine Ev.eq2 (by assumption) ?_ | refine Ev.eq22 (by assumption) ?_ | refine Ev.eq1 (by assumption) ?_

end Sys2Proof.Machine
end

