-- ==== Sys2Proof/Laws/Run/Memories.lean ====
section
/-! SUPPORT. The commands of Machine/Memories.lean leave the queue of commands alone and keep the invariant. -/

namespace Sys2Proof.Machine


theorem execBm36Read_ev {s0 : State} (b : Fin 13440) (pb : Bool) (t : ArrT) (a : BitVec 15) (u : BitVec 72) (src : PortSrc) {s : State} (hs0 : Ev s0 s) : EvR s0 (execBm36Read b pb t a u src s) := by
  unfold execBm36Read
  repeat' with_reducible first | assumption | exact Ev.refl _ | apply EvR.next | apply ite_evR | apply State.bmAccept_ev | apply State.drawFor_ev | apply State.fresh_ev | apply State.queueWb_ev | apply State.readWord_ev | apply State.setOut_ev | apply State.upsetAt_ev | apply ite_ev | apply ite_ev1 | apply ite_ev2 | apply ite_ev22 | apply ite_ev21 | dsimp only | split | refine Ev.lit rfl ?_ | refine Ev.eq2 (by assumption) ?_ | refine Ev.eq22 (by assumption) ?_ | refine Ev.eq1 (by assumption) ?_

theorem execBm36FullWrite_ev {s0 : State} (b : Fin 13440) (pb : Bool) (t : ArrT) (a : BitVec 15) (d : BitVec 72) (be : BitVec 8) (wp : Bool) (src : PortSrc) {s : State} (hs0 : Ev s0 s) : EvR s0 (execBm36FullWrite b pb t a d be wp src s) := by
  unfold execBm36FullWrite
  repeat' with_reducible first | assumption | exact Ev.refl _ | apply EvR.next | apply ite_evR | apply State.bmAccept_ev | apply State.bmWrite_ev | apply State.drawFor_ev | apply State.echo_ev | apply State.readWord_ev | apply ite_ev | apply ite_ev1 | apply ite_ev2 | apply ite_ev22 | apply ite_ev21 | dsimp only | split | refine Ev.lit rfl ?_ | refine Ev.eq2 (by assumption) ?_ | refine Ev.eq22 (by assumption) ?_ | refine Ev.eq1 (by assumption) ?_

theorem execBm36NarrowWrite_ev {s0 : State} (b : Fin 13440) (pb : Bool) (t : ArrT) (a : BitVec 15) (d : BitVec 72) (be : BitVec 8) (wp : Bool) (u : BitVec 72) (src : PortSrc) {s : State} (hs0 : Ev s0 s) : EvR s0 (execBm36NarrowWrite b pb t a d be wp u src s) := by
  unfold execBm36NarrowWrite
  repeat' with_reducible first | assumption | exact Ev.refl _ | apply EvR.next | apply ite_evR | apply State.bmAccept_ev | apply State.drawFor_ev | apply State.readWord_ev | apply State.setArr_ev | apply State.setOut_ev | apply State.upsetAt_ev | apply State.wr_ev | apply ite_ev | apply ite_ev1 | apply ite_ev2 | apply ite_ev22 | apply ite_ev21 | dsimp only | split | refine Ev.lit rfl ?_ | refine Ev.eq2 (by assumption) ?_ | refine Ev.eq22 (by assumption) ?_ | refine Ev.eq1 (by assumption) ?_

theorem execCorrectionWriteBack_ev {s0 : State} (m : MemId) (pb : Bool) (t : ArrT) {s : State} (hs0 : Ev s0 s) : EvR s0 (execCorrectionWriteBack m pb t s) := by
  unfold execCorrectionWriteBack
  repeat' with_reducible first | assumption | exact Ev.refl _ | apply EvR.next | apply ite_evR | apply State.bmTime_ev | apply State.dmPass_ev | apply State.setArr_ev | apply State.writeBack_ev | apply ite_ev | apply ite_ev1 | apply ite_ev2 | apply ite_ev22 | apply ite_ev21 | dsimp only | split | refine Ev.lit rfl ?_ | refine Ev.eq2 (by assumption) ?_ | refine Ev.eq22 (by assumption) ?_ | refine Ev.eq1 (by assumption) ?_

theorem execDmFabricRead_ev {s0 : State} (p : Fin 112) (pb : Bool) (t : ArrT) (cap : Nat) (a : BitVec 15) (u : BitVec 72) (src : PortSrc) {s : State} (hs0 : Ev s0 s) : EvR s0 (execDmFabricRead p pb t cap a u src s) := by
  unfold execDmFabricRead
  repeat' with_reducible first | assumption | exact Ev.refl _ | apply EvR.next | apply ite_evR | apply State.dmAccept_ev | apply State.dmTake_ev | apply State.drawFor_ev | apply State.upsetAt_ev | apply State.wr_ev | apply ite_ev | apply ite_ev1 | apply ite_ev2 | apply ite_ev22 | apply ite_ev21 | dsimp only | split | refine Ev.lit rfl ?_ | refine Ev.eq2 (by assumption) ?_ | refine Ev.eq22 (by assumption) ?_ | refine Ev.eq1 (by assumption) ?_

theorem execDmFabricWrite_ev {s0 : State} (p : Fin 112) (pb : Bool) (t : ArrT) (cap : Nat) (a : BitVec 15) (d : BitVec 64) (be : BitVec 8) (wp : Bool) (u : BitVec 72) (src : PortSrc) {s : State} (hs0 : Ev s0 s) : EvR s0 (execDmFabricWrite p pb t cap a d be wp u src s) := by
  unfold execDmFabricWrite
  repeat' with_reducible first | assumption | exact Ev.refl _ | apply EvR.next | apply ite_evR | apply State.dmAccept_ev | apply State.dmTake_ev | apply State.drawFor_ev | apply State.upsetAt_ev | apply State.wr_ev | apply ite_ev | apply ite_ev1 | apply ite_ev2 | apply ite_ev22 | apply ite_ev21 | dsimp only | split | refine Ev.lit rfl ?_ | refine Ev.eq2 (by assumption) ?_ | refine Ev.eq22 (by assumption) ?_ | refine Ev.eq1 (by assumption) ?_

theorem execDmDeferredServe_ev {s0 : State} (p : Fin 112) (cap : Nat) {s : State} (hs0 : Ev s0 s) : EvR s0 (execDmDeferredServe p cap s) := by
  unfold execDmDeferredServe
  repeat' with_reducible first | assumption | exact Ev.refl _ | apply EvR.next | apply ite_evR | apply State.dmCycle_ev | apply ite_ev | apply ite_ev1 | apply ite_ev2 | apply ite_ev22 | apply ite_ev21 | dsimp only | split | refine Ev.lit rfl ?_ | refine Ev.eq2 (by assumption) ?_ | refine Ev.eq22 (by assumption) ?_ | refine Ev.eq1 (by assumption) ?_

theorem execBm36Clear_ev {s0 : State} (m : MemId) (t : ArrT) (src : PortSrc) {s : State} (hs0 : Ev s0 s) : EvR s0 (execBm36Clear m t src s) := by
  unfold execBm36Clear
  repeat' with_reducible first | assumption | exact Ev.refl _ | apply EvR.next | apply ite_evR | apply State.bmTime_ev | apply State.clearArr_ev | apply State.dmPass_ev | apply State.drawFor_ev | apply State.fresh_ev | apply State.setArr_ev | apply ite_ev | apply ite_ev1 | apply ite_ev2 | apply ite_ev22 | apply ite_ev21 | dsimp only | intro _ _ _ _ | intro _ _ _ | intro _ _ | split | refine Ev.lit rfl ?_ | refine Ev.eq2 (by assumption) ?_ | refine Ev.eq22 (by assumption) ?_ | refine Ev.eq1 (by assumption) ?_

theorem execDmNocRequest_ev {s0 : State} (p : Fin 112) (us : List (BitVec 72)) {s : State} (hs0 : Ev s0 s) : EvR s0 (execDmNocRequest p us s) := by
  unfold execDmNocRequest
  repeat' with_reducible first | assumption | exact Ev.refl _ | apply EvR.next | apply ite_evR | apply State.dmAnswer_ev | apply ite_ev | apply ite_ev1 | apply ite_ev2 | apply ite_ev22 | apply ite_ev21 | dsimp only | intro _ _ _ _ | intro _ _ _ | intro _ _ | split | refine Ev.lit rfl ?_ | refine Ev.eq2 (by assumption) ?_ | refine Ev.eq22 (by assumption) ?_ | refine Ev.eq1 (by assumption) ?_

theorem execDmNocWaitExpiry_ev {s0 : State} (p : Fin 112) (us : List (BitVec 72)) (waited : Nat) {s : State} (hs0 : Ev s0 s) : EvR s0 (execDmNocWaitExpiry p us waited s) := by
  unfold execDmNocWaitExpiry
  repeat' with_reducible first | assumption | exact Ev.refl _ | apply EvR.next | apply ite_evR | apply State.dmAnswer_ev | apply ite_ev | apply ite_ev1 | apply ite_ev2 | apply ite_ev22 | apply ite_ev21

end Sys2Proof.Machine
end

