-- ==== Sys2Proof/Laws/Run/Power.lean ====
section
/-! SUPPORT. The commands of Machine/Power.lean leave the queue of commands alone and keep the invariant. -/

namespace Sys2Proof.Machine

theorem execSupplyLeavesTolerance_ev {s0 : State} (k : Fin 7) {s : State} (hs0 : Ev s0 s) : EvR s0 (execSupplyLeavesTolerance k s) := by
  unfold execSupplyLeavesTolerance
  repeat' with_reducible first | assumption | exact Ev.refl _ | apply EvR.next | apply ite_evR | apply State.deviceReset_ev | apply ite_ev | apply ite_ev1 | apply ite_ev2 | apply ite_ev22 | apply ite_ev21 | dsimp only | refine Ev.lit rfl ?_

theorem execPowerOnResetRelease_ev {s0 : State} {s : State} (hs0 : Ev s0 s) : EvR s0 (execPowerOnResetRelease s) := by
  unfold execPowerOnResetRelease
  repeat' with_reducible first | assumption | exact Ev.refl _ | apply EvR.next | apply ite_evR | apply State.setReg_ev | apply State.wr_ev | apply State.wrb_ev | apply ite_ev | apply ite_ev1 | apply ite_ev2 | apply ite_ev22 | apply ite_ev21 | dsimp only | refine Ev.lit rfl ?_

theorem execResetNEdge_ev {s0 : State} (ns : Nat) {s : State} (hs0 : Ev s0 s) : EvR s0 (execResetNEdge ns s) := by
  unfold execResetNEdge
  repeat' with_reducible first | assumption | exact Ev.refl _ | apply EvR.next | apply ite_evR | apply State.fresh_ev | apply State.resetRequest_ev | apply ite_ev

theorem execResetRelease_ev {s0 : State} {s : State} (hs0 : Ev s0 s) : EvR s0 (execResetRelease s) := by
  unfold execResetRelease
  repeat' with_reducible first | assumption | exact Ev.refl _ | apply EvR.next | apply ite_evR | apply State.enterMode_ev | apply State.wrb_ev | apply ite_ev | apply ite_ev1 | apply ite_ev2 | apply ite_ev22 | apply ite_ev21 | refine Ev.lit rfl ?_

theorem execPowerEntryProceed_ev {s0 : State} {s : State} (hs0 : Ev s0 s) : EvR s0 (execPowerEntryProceed s) := by
  unfold execPowerEntryProceed
  repeat' with_reducible first | assumption | exact Ev.refl _ | apply EvR.next | apply ite_evR | apply State.deviceReset_ev | apply State.enterMode_ev | apply ite_ev | apply ite_ev1 | apply ite_ev2 | apply ite_ev22 | apply ite_ev21 | dsimp only | split | refine Ev.lit rfl ?_

theorem execWakeEdge_ev {s0 : State} (i : Fin 128) {s : State} (hs0 : Ev s0 s) : EvR s0 (execWakeEdge i s) := by
  unfold execWakeEdge
  repeat' with_reducible first | assumption | exact Ev.refl _ | apply EvR.next | apply ite_evR | apply State.setLatch_ev | apply ite_ev | apply ite_ev1 | apply ite_ev2 | apply ite_ev22 | apply ite_ev21 | dsimp only | refine Ev.lit rfl ?_

theorem execWakeTimerExpiry_ev {s0 : State} {s : State} (hs0 : Ev s0 s) : EvR s0 (execWakeTimerExpiry s) := by
  unfold execWakeTimerExpiry
  repeat' with_reducible first | assumption | exact Ev.refl _ | apply EvR.next | apply ite_evR | apply State.setLatch_ev | apply ite_ev | apply ite_ev1 | apply ite_ev2 | apply ite_ev22 | apply ite_ev21 | dsimp only | refine Ev.lit rfl ?_

theorem execWakePowerGood_ev {s0 : State} {s : State} (hs0 : Ev s0 s) : EvR s0 (execWakePowerGood s) := by
  unfold execWakePowerGood
  repeat' with_reducible first | assumption | exact Ev.refl _ | apply EvR.next | apply ite_evR | apply State.dramRelock_ev | apply State.enterMode_ev | apply State.setReg_ev | apply State.wr_ev | apply State.wrb_ev | apply ite_ev | apply ite_ev1 | apply ite_ev2 | apply ite_ev22 | apply ite_ev21 | dsimp only | split | refine Ev.lit rfl ?_

theorem execResetOrPowerAct_ev {s0 : State} {s : State} (hs0 : Ev s0 s) : EvR s0 (execResetOrPowerAct s) := by
  unfold execResetOrPowerAct
  repeat' with_reducible first | assumption | exact Ev.refl _ | apply EvR.next | apply ite_evR | apply State.closeAll_ev | apply State.powerActs_ev | apply State.reset_ev | apply State.resetRequest_ev | apply ite_ev | apply ite_ev1 | apply ite_ev2 | apply ite_ev22 | apply ite_ev21 | dsimp only | split | refine Ev.lit rfl ?_

end Sys2Proof.Machine
end

