-- ==== Sys2Proof/Laws/Run/Qm.lean ====
section
/-! SUPPORT. The commands of Machine/Qm.lean leave the queue of commands alone and keep the invariant. -/

namespace Sys2Proof.Machine


theorem execRxFrame_ev {s0 : State} (m : Fin 100) (bs : List Byte) (bad : Bool) (phase : Fin 64) (taken poisoned : Bool) {s : State} (hs0 : Ev s0 s) : EvR s0 (execRxFrame m bs bad phase taken poisoned s) := by
  unfold execRxFrame
  repeat' with_reducible first | assumption | exact Ev.refl _ | apply EvR.next | apply ite_evR | apply State.bump_ev | apply State.fenDrop_ev | apply State.flowControl_ev | apply State.rxQueue_ev | apply State.rxStream_ev | apply ite_ev | apply ite_ev1 | apply ite_ev2 | apply ite_ev22 | apply ite_ev21 | dsimp only

theorem execRxFrameWrite_ev {s0 : State} (n : Fin 65536) {s : State} (hs0 : Ev s0 s) : EvR s0 (execRxFrameWrite n s) := by
  unfold execRxFrameWrite
  dsimp only
  split
  · exact EvR.next hs0
  · refine ite_evR (EvR.next hs0) ?_
    have g := State.fetchDesc_ev n.val (s.rd (QM.CIDX.CIDX n.val)) hs0
    generalize s.fetchDesc n.val (s.rd (QM.CIDX.CIDX n.val)) = p at g ⊢
    obtain ⟨u, d⟩ := p
    cases d with
    | none => exact EvR.next g
    | some d => exact ite_evR (EvR.next (State.qDrop_ev _ _ _ (State.setHeld_ev _ _ g))) (EvR.next (State.rxInto_ev _ _ _ _ _ (State.ovfReads_ev _ _ g)))

theorem execQueueStage_ev {s0 : State} (m : Fin 96) {s : State} (hs0 : Ev s0 s) : EvR s0 (execQueueStage m s) := by
  unfold execQueueStage
  repeat' with_reducible first | assumption | exact Ev.refl _ | apply EvR.next | apply ite_evR | apply State.stageFrom_ev

theorem execTimedLaunch_ev {s0 : State} (m : Fin 96) (phase : Fin 64) {s : State} (hs0 : Ev s0 s) : EvR s0 (execTimedLaunch m phase s) := by
  unfold execTimedLaunch
  repeat' with_reducible first | assumption | exact Ev.refl _ | apply EvR.next | apply ite_evR | apply State.sendFrame_ev | apply State.setFport_ev | refine foldl_ev _ _ (fun _ _ _ => ?_) ?_ | refine foldl_ev1 _ _ (fun _ _ _ => ?_) ?_ | refine foldl_ev2 _ _ (fun _ _ _ => ?_) ?_ | refine foldl_ev22 _ _ (fun _ _ _ => ?_) ?_ | refine foldl_ev21 _ _ (fun _ _ _ => ?_) ?_ | apply ite_ev | apply ite_ev1 | apply ite_ev2 | apply ite_ev22 | apply ite_ev21 | dsimp only | intro _ _ _ _ | intro _ _ _ | intro _ _ | split

theorem execLateTimedFrame_ev {s0 : State} (n : Fin 65536) {s : State} (hs0 : Ev s0 s) : EvR s0 (execLateTimedFrame n s) := by
  unfold execLateTimedFrame
  dsimp only
  refine ite_evR (EvR.next hs0) ?_
  split
  · exact ite_evR (EvR.next hs0) (ite_evR (EvR.next (State.txDrop_ev _ _ _ _ (State.setFport_ev _ _ hs0)))
      (EvR.next (State.setFport_ev _ _ hs0)))
  · refine ite_evR (EvR.next hs0) ?_
    generalize (s.rd (QM.CIDX.CIDX n.val) + s.qInFlight (s.rd (QM.QCFG.PORT n.val)) n.val) % 65536 = k
    have g := State.fetchDesc_ev n.val k hs0
    generalize s.fetchDesc n.val k = p at g ⊢
    obtain ⟨u, d⟩ := p
    cases d with
    | none => exact EvR.next g
    | some d =>
      dsimp only
      split
      · exact EvR.next g
      · exact EvR.next (ite_ev (State.stageFrame_ev _ _ _ _ g) g)

theorem execTxFrameDone_ev {s0 : State} (m : Fin 100) (phase : Fin 64) {s : State} (hs0 : Ev s0 s) : EvR s0 (execTxFrameDone m phase s) := by
  unfold execTxFrameDone
  repeat' with_reducible first | assumption | exact Ev.refl _ | apply EvR.next | apply ite_evR | apply State.flushDone_ev | apply State.sendFrame_ev | apply State.sent_ev | apply State.setFport_ev | apply ite_ev | apply ite_ev1 | apply ite_ev2 | apply ite_ev22 | apply ite_ev21 | dsimp only | split

end Sys2Proof.Machine
end

