-- ==== Sys2Proof/Laws/Run/RegRows.lean ====
section
/-! SUPPORT. The commands of Machine/RegRows.lean leave the queue of commands alone and keep the invariant. -/

namespace Sys2Proof.Machine


theorem execRootSourceSwitch_ev {s0 : State} (q : Req) (w : Word) {s : State} (hs0 : Ev s0 s) : EvR s0 (execRootSourceSwitch q w s) := by
  unfold execRootSourceSwitch
  repeat' with_reducible first | assumption | exact Ev.refl _ | apply EvR.next | apply State.busPut_ev

theorem execRelock_ev {s0 : State} (q : Req) (w : Word) {s : State} (hs0 : Ev s0 s) : EvR s0 (execRelock q w s) := by
  unfold execRelock
  repeat' with_reducible first | assumption | exact Ev.refl _ | apply EvR.next | apply State.busPut_ev

theorem execDividerWrite_ev {s0 : State} (q : Req) (d : Fin 16) (w : Word) {s : State} (hs0 : Ev s0 s) : EvR s0 (execDividerWrite q d w s) := by
  unfold execDividerWrite
  repeat' with_reducible first | assumption | exact Ev.refl _ | apply EvR.next | apply State.busPut_ev

theorem execForeignLineSourceWrite_ev {s0 : State} (q : Req) (k : Fin 4) (l : Fin 8) (w : Word) {s : State} (hs0 : Ev s0 s) : EvR s0 (execForeignLineSourceWrite q k l w s) := by
  unfold execForeignLineSourceWrite
  repeat' with_reducible first | assumption | exact Ev.refl _ | apply EvR.next | apply State.busPut_ev

theorem execOscConfigWrite_ev {s0 : State} (q : Req) (n : Fin 4) (w : Word) {s : State} (hs0 : Ev s0 s) : EvR s0 (execOscConfigWrite q n w s) := by
  unfold execOscConfigWrite
  repeat' with_reducible first | assumption | exact Ev.refl _ | apply EvR.next | apply State.busPut_ev

theorem execSliceHaltRequest_ev {s0 : State} (q : Req) (g : Fin 10752) {s : State} (hs0 : Ev s0 s) : EvR s0 (execSliceHaltRequest q g s) := by
  unfold execSliceHaltRequest
  repeat' with_reducible first | assumption | exact Ev.refl _ | apply EvR.next | apply State.busPut_ev

theorem execSliceResume_ev {s0 : State} (q : Req) (g : Fin 10752) {s : State} (hs0 : Ev s0 s) : EvR s0 (execSliceResume q g s) := by
  unfold execSliceResume
  repeat' with_reducible first | assumption | exact Ev.refl _ | apply EvR.next | apply State.busPut_ev

theorem execSliceStep_ev {s0 : State} (q : Req) (g : Fin 10752) {s : State} (hs0 : Ev s0 s) : EvR s0 (execSliceStep q g s) := by
  unfold execSliceStep
  repeat' with_reducible first | assumption | exact Ev.refl _ | apply EvR.next | apply State.busPut_ev

theorem execInspectionStart_ev {s0 : State} (q : Req) (g : Fin 10752) (w : Word) {s : State} (hs0 : Ev s0 s) : EvR s0 (execInspectionStart q g w s) := by
  unfold execInspectionStart
  repeat' with_reducible first | assumption | exact Ev.refl _ | apply EvR.next | apply State.busPut_ev

theorem execClearIllegal_ev {s0 : State} (q : Req) (g : Fin 10752) {s : State} (hs0 : Ev s0 s) : EvR s0 (execClearIllegal q g s) := by
  unfold execClearIllegal
  repeat' with_reducible first | assumption | exact Ev.refl _ | apply EvR.next | apply State.busPut_ev

theorem execActivate_ev {s0 : State} (q : Req) {s : State} (hs0 : Ev s0 s) : EvR s0 (execActivate q s) := by
  unfold execActivate
  repeat' with_reducible first | assumption | exact Ev.refl _ | apply EvR.next | apply State.busPut_ev

theorem execRollback_ev {s0 : State} (q : Req) {s : State} (hs0 : Ev s0 s) : EvR s0 (execRollback q s) := by
  unfold execRollback
  repeat' with_reducible first | assumption | exact Ev.refl _ | apply EvR.next | apply State.busPut_ev

theorem execConfirm_ev {s0 : State} (q : Req) {s : State} (hs0 : Ev s0 s) : EvR s0 (execConfirm q s) := by
  unfold execConfirm
  repeat' with_reducible first | assumption | exact Ev.refl _ | apply EvR.next | apply State.busPut_ev

theorem execArm_ev {s0 : State} (q : Req) {s : State} (hs0 : Ev s0 s) : EvR s0 (execArm q s) := by
  unfold execArm
  repeat' with_reducible first | assumption | exact Ev.refl _ | apply EvR.next | apply State.busPut_ev

theorem execDisarm_ev {s0 : State} (q : Req) {s : State} (hs0 : Ev s0 s) : EvR s0 (execDisarm q s) := by
  unfold execDisarm
  repeat' with_reducible first | assumption | exact Ev.refl _ | apply EvR.next | apply State.busPut_ev

theorem execCommitOpen_ev {s0 : State} (q : Req) {s : State} (hs0 : Ev s0 s) : EvR s0 (execCommitOpen q s) := by
  unfold execCommitOpen
  repeat' with_reducible first | assumption | exact Ev.refl _ | apply EvR.next | apply State.busPut_ev

theorem execCommitClose_ev {s0 : State} (q : Req) {s : State} (hs0 : Ev s0 s) : EvR s0 (execCommitClose q s) := by
  unfold execCommitClose
  repeat' with_reducible first | assumption | exact Ev.refl _ | apply EvR.next | apply State.busPut_ev

theorem execInvalidate_ev {s0 : State} (q : Req) {s : State} (hs0 : Ev s0 s) : EvR s0 (execInvalidate q s) := by
  unfold execInvalidate
  repeat' with_reducible first | assumption | exact Ev.refl _ | apply EvR.next | apply State.busPut_ev

theorem execCapture_ev {s0 : State} (q : Req) {s : State} (hs0 : Ev s0 s) : EvR s0 (execCapture q s) := by
  unfold execCapture
  repeat' with_reducible first | assumption | exact Ev.refl _ | apply EvR.next | apply State.busPut_ev

theorem execFrameAccessRead_ev {s0 : State} (q : Req) (w : Word) {s : State} (hs0 : Ev s0 s) : EvR s0 (execFrameAccessRead q w s) := by
  unfold execFrameAccessRead
  repeat' with_reducible first | assumption | exact Ev.refl _ | apply EvR.next | apply State.busPut_ev

theorem execFrameAccessWrite_ev {s0 : State} (q : Req) (w : Word) {s : State} (hs0 : Ev s0 s) : EvR s0 (execFrameAccessWrite q w s) := by
  unfold execFrameAccessWrite
  repeat' with_reducible first | assumption | exact Ev.refl _ | apply EvR.next | apply State.busPut_ev

theorem execVatResetRequest_ev {s0 : State} (q : Req) (v : Fin 16) (w : Word) {s : State} (hs0 : Ev s0 s) : EvR s0 (execVatResetRequest q v w s) := by
  unfold execVatResetRequest
  repeat' with_reducible first | assumption | exact Ev.refl _ | apply EvR.next | apply State.busPut_ev

theorem execVatReleaseRequest_ev {s0 : State} (q : Req) (v : Fin 16) (w : Word) {s : State} (hs0 : Ev s0 s) : EvR s0 (execVatReleaseRequest q v w s) := by
  unfold execVatReleaseRequest
  repeat' with_reducible first | assumption | exact Ev.refl _ | apply EvR.next | apply State.busPut_ev

theorem execVatPowerGate_ev {s0 : State} (q : Req) (v : Fin 16) (w : Word) {s : State} (hs0 : Ev s0 s) : EvR s0 (execVatPowerGate q v w s) := by
  unfold execVatPowerGate
  repeat' with_reducible first | assumption | exact Ev.refl _ | apply EvR.next | apply State.busPut_ev

theorem execVatPowerUp_ev {s0 : State} (q : Req) (v : Fin 16) (w : Word) {s : State} (hs0 : Ev s0 s) : EvR s0 (execVatPowerUp q v w s) := by
  unfold execVatPowerUp
  repeat' with_reducible first | assumption | exact Ev.refl _ | apply EvR.next | apply State.busPut_ev

theorem execResourceAssignWrite_ev {s0 : State} (q : Req) (v : Fin 16) (k : Fin 10) (w : Word) {s : State} (hs0 : Ev s0 s) : EvR s0 (execResourceAssignWrite q v k w s) := by
  unfold execResourceAssignWrite
  repeat' with_reducible first | assumption | exact Ev.refl _ | apply EvR.next | apply State.busPut_ev

theorem execModuleRegionEnable_ev {s0 : State} (q : Req) (v : Fin 16) (k : Fin 5) (w : Word) {s : State} (hs0 : Ev s0 s) : EvR s0 (execModuleRegionEnable q v k w s) := by
  unfold execModuleRegionEnable
  repeat' with_reducible first | assumption | exact Ev.refl _ | apply EvR.next | apply State.busPut_ev

theorem execModuleLoadRequest_ev {s0 : State} (q : Req) (v : Fin 16) (w : Word) {s : State} (hs0 : Ev s0 s) : EvR s0 (execModuleLoadRequest q v w s) := by
  unfold execModuleLoadRequest
  repeat' with_reducible first | assumption | exact Ev.refl _ | apply EvR.next | apply State.busPut_ev

theorem execChurnEnable_ev {s0 : State} (q : Req) (w : Word) {s : State} (hs0 : Ev s0 s) : EvR s0 (execChurnEnable q w s) := by
  unfold execChurnEnable
  repeat' with_reducible first | assumption | exact Ev.refl _ | apply EvR.next | apply State.busPut_ev

theorem execChurnDisable_ev {s0 : State} (q : Req) (w : Word) {s : State} (hs0 : Ev s0 s) : EvR s0 (execChurnDisable q w s) := by
  unfold execChurnDisable
  repeat' with_reducible first | assumption | exact Ev.refl _ | apply EvR.next | apply State.busPut_ev

theorem execMapEntryWrite_ev {s0 : State} (q : Req) (e : Fin 64) (k : Fin 4) (w : Word) {s : State} (hs0 : Ev s0 s) : EvR s0 (execMapEntryWrite q e k w s) := by
  unfold execMapEntryWrite
  repeat' with_reducible first | assumption | exact Ev.refl _ | apply EvR.next | apply State.busPut_ev

theorem execMapSync_ev {s0 : State} (q : Req) {s : State} (hs0 : Ev s0 s) : EvR s0 (execMapSync q s) := by
  unfold execMapSync
  repeat' with_reducible first | assumption | exact Ev.refl _ | apply EvR.next | apply State.busPut_ev

theorem execRegulatorBind_ev {s0 : State} (q : Req) (i : Fin 1024) {s : State} (hs0 : Ev s0 s) : EvR s0 (execRegulatorBind q i s) := by
  unfold execRegulatorBind
  repeat' with_reducible first | assumption | exact Ev.refl _ | apply EvR.next | apply State.busPut_ev

theorem execRegulatorUnbind_ev {s0 : State} (q : Req) (i : Fin 1024) {s : State} (hs0 : Ev s0 s) : EvR s0 (execRegulatorUnbind q i s) := by
  unfold execRegulatorUnbind
  repeat' with_reducible first | assumption | exact Ev.refl _ | apply EvR.next | apply State.busPut_ev

theorem execSpanPortEnable_ev {s0 : State} (q : Req) (k : Fin 4) (w : Word) {s : State} (hs0 : Ev s0 s) : EvR s0 (execSpanPortEnable q k w s) := by
  unfold execSpanPortEnable
  repeat' with_reducible first | assumption | exact Ev.refl _ | apply EvR.next | apply State.busPut_ev

theorem execSpanPortDisable_ev {s0 : State} (q : Req) (k : Fin 4) (w : Word) {s : State} (hs0 : Ev s0 s) : EvR s0 (execSpanPortDisable q k w s) := by
  unfold execSpanPortDisable
  repeat' with_reducible first | assumption | exact Ev.refl _ | apply EvR.next | apply State.busPut_ev

theorem execChannelInit_ev {s0 : State} (q : Req) (n : Fin 8) (w : Word) {s : State} (hs0 : Ev s0 s) : EvR s0 (execChannelInit q n w s) := by
  unfold execChannelInit
  repeat' with_reducible first | assumption | exact Ev.refl _ | apply EvR.next | apply State.busPut_ev

theorem execChannelFill_ev {s0 : State} (q : Req) (n : Fin 8) (w : Word) {s : State} (hs0 : Ev s0 s) : EvR s0 (execChannelFill q n w s) := by
  unfold execChannelFill
  repeat' with_reducible first | assumption | exact Ev.refl _ | apply EvR.next | apply State.busPut_ev

theorem execMigrationStart_ev {s0 : State} (q : Req) (n : Fin 8) (w : Word) {s : State} (hs0 : Ev s0 s) : EvR s0 (execMigrationStart q n w s) := by
  unfold execMigrationStart
  repeat' with_reducible first | assumption | exact Ev.refl _ | apply EvR.next | apply State.busPut_ev

theorem execSelfRefreshEnter_ev {s0 : State} (q : Req) (n : Fin 8) (w : Word) {s : State} (hs0 : Ev s0 s) : EvR s0 (execSelfRefreshEnter q n w s) := by
  unfold execSelfRefreshEnter
  repeat' with_reducible first | assumption | exact Ev.refl _ | apply EvR.next | apply State.busPut_ev

theorem execSelfRefreshExit_ev {s0 : State} (q : Req) (n : Fin 8) (w : Word) {s : State} (hs0 : Ev s0 s) : EvR s0 (execSelfRefreshExit q n w s) := by
  unfold execSelfRefreshExit
  repeat' with_reducible first | assumption | exact Ev.refl _ | apply EvR.next | apply State.busPut_ev

theorem execSpareSubstitute_ev {s0 : State} (q : Req) (n : Fin 8) (w : Word) {s : State} (hs0 : Ev s0 s) : EvR s0 (execSpareSubstitute q n w s) := by
  unfold execSpareSubstitute
  repeat' with_reducible first | assumption | exact Ev.refl _ | apply EvR.next | apply State.busPut_ev

theorem execQuadPllEnable_ev {s0 : State} (q : Req) (u : Fin 25) (p : Fin 2) (w : Word) {s : State} (hs0 : Ev s0 s) : EvR s0 (execQuadPllEnable q u p w s) := by
  unfold execQuadPllEnable
  repeat' with_reducible first | assumption | exact Ev.refl _ | apply EvR.next | apply State.busPut_ev

theorem execLaneTxPowerSet_ev {s0 : State} (q : Req) (n : Fin 100) (p : Fin 4) {s : State} (hs0 : Ev s0 s) : EvR s0 (execLaneTxPowerSet q n p s) := by
  unfold execLaneTxPowerSet
  repeat' with_reducible first | assumption | exact Ev.refl _ | apply EvR.next | apply State.busPut_ev

theorem execLaneRxPowerSet_ev {s0 : State} (q : Req) (n : Fin 100) (p : Fin 4) {s : State} (hs0 : Ev s0 s) : EvR s0 (execLaneRxPowerSet q n p s) := by
  unfold execLaneRxPowerSet
  repeat' with_reducible first | assumption | exact Ev.refl _ | apply EvR.next | apply State.busPut_ev

theorem execLaneRateSet_ev {s0 : State} (q : Req) (n : Fin 100) (pll : Fin 2) (mod : Fin 2) (d : Fin 256) {s : State} (hs0 : Ev s0 s) : EvR s0 (execLaneRateSet q n pll mod d s) := by
  unfold execLaneRateSet
  repeat' with_reducible first | assumption | exact Ev.refl _ | apply EvR.next | apply State.busPut_ev

theorem execLaneLoopbackSet_ev {s0 : State} (q : Req) (n : Fin 100) (m : Fin 4) {s : State} (hs0 : Ev s0 s) : EvR s0 (execLaneLoopbackSet q n m s) := by
  unfold execLaneLoopbackSet
  repeat' with_reducible first | assumption | exact Ev.refl _ | apply EvR.next | apply State.busPut_ev

theorem execTxPresetChange_ev {s0 : State} (q : Req) (n : Fin 100) (fir : Bool) (w : Word) {s : State} (hs0 : Ev s0 s) : EvR s0 (execTxPresetChange q n fir w s) := by
  unfold execTxPresetChange
  repeat' with_reducible first | assumption | exact Ev.refl _ | apply EvR.next | apply ite_evR | apply State.busPut_ev

theorem execRecoveredClockDivider_ev {s0 : State} (q : Req) (n : Fin 100) (c : Fin 16) {s : State} (hs0 : Ev s0 s) : EvR s0 (execRecoveredClockDivider q n c s) := by
  unfold execRecoveredClockDivider
  repeat' with_reducible first | assumption | exact Ev.refl _ | apply EvR.next | apply State.busPut_ev

theorem execInjectOnce_ev {s0 : State} (q : Req) (n : Fin 100) (w : Word) {s : State} (hs0 : Ev s0 s) : EvR s0 (execInjectOnce q n w s) := by
  unfold execInjectOnce
  repeat' with_reducible first | assumption | exact Ev.refl _ | apply EvR.next | apply State.busPut_ev

theorem execPortEnable_ev {s0 : State} (q : Req) (m : Fin 100) (w : Word) {s : State} (hs0 : Ev s0 s) : EvR s0 (execPortEnable q m w s) := by
  unfold execPortEnable
  repeat' with_reducible first | assumption | exact Ev.refl _ | apply EvR.next | apply State.busPut_ev

theorem execPortDisable_ev {s0 : State} (q : Req) (m : Fin 100) (w : Word) {s : State} (hs0 : Ev s0 s) : EvR s0 (execPortDisable q m w s) := by
  unfold execPortDisable
  repeat' with_reducible first | assumption | exact Ev.refl _ | apply EvR.next | apply State.busPut_ev

theorem execQueueEnable_ev {s0 : State} (q : Req) (n : Fin 65536) (w : Word) {s : State} (hs0 : Ev s0 s) : EvR s0 (execQueueEnable q n w s) := by
  unfold execQueueEnable
  repeat' with_reducible first | assumption | exact Ev.refl _ | apply EvR.next | apply State.busPut_ev

theorem execQueueDisable_ev {s0 : State} (q : Req) (n : Fin 65536) (w : Word) {s : State} (hs0 : Ev s0 s) : EvR s0 (execQueueDisable q n w s) := by
  unfold execQueueDisable
  repeat' with_reducible first | assumption | exact Ev.refl _ | apply EvR.next | apply State.busPut_ev

theorem execQueueDoorbell_ev {s0 : State} (q : Req) (n : Fin 65536) (w : Word) {s : State} (hs0 : Ev s0 s) : EvR s0 (execQueueDoorbell q n w s) := by
  unfold execQueueDoorbell
  repeat' with_reducible first | assumption | exact Ev.refl _ | apply EvR.next | apply State.busPut_ev

theorem execSendPause_ev {s0 : State} (q : Req) (m : Fin 100) (w : Word) {s : State} (hs0 : Ev s0 s) : EvR s0 (execSendPause q m w s) := by
  unfold execSendPause
  repeat' with_reducible first | assumption | exact Ev.refl _ | apply EvR.next | apply State.busPut_ev

theorem execQueueResume_ev {s0 : State} (q : Req) (w : Word) {s : State} (hs0 : Ev s0 s) : EvR s0 (execQueueResume q w s) := by
  unfold execQueueResume
  repeat' with_reducible first | assumption | exact Ev.refl _ | apply EvR.next | apply State.busPut_ev

theorem execTclkSourceSelect_ev {s0 : State} (q : Req) (w : Word) {s : State} (hs0 : Ev s0 s) : EvR s0 (execTclkSourceSelect q w s) := by
  unfold execTclkSourceSelect
  repeat' with_reducible first | assumption | exact Ev.refl _ | apply EvR.next | apply State.busPut_ev

theorem execRateUpdate_ev {s0 : State} (q : Req) (b : Fin 8) (w : Word) {s : State} (hs0 : Ev s0 s) : EvR s0 (execRateUpdate q b w s) := by
  unfold execRateUpdate
  repeat' with_reducible first | assumption | exact Ev.refl _ | apply EvR.next | apply State.busPut_ev

theorem execCmpArm_ev {s0 : State} (q : Req) (i : Fin 15) (w : Word) {s : State} (hs0 : Ev s0 s) : EvR s0 (execCmpArm q i w s) := by
  unfold execCmpArm
  repeat' with_reducible first | assumption | exact Ev.refl _ | apply EvR.next | apply State.busPut_ev

theorem execCmpDisarm_ev {s0 : State} (q : Req) (i : Fin 15) (w : Word) {s : State} (hs0 : Ev s0 s) : EvR s0 (execCmpDisarm q i w s) := by
  unfold execCmpDisarm
  repeat' with_reducible first | assumption | exact Ev.refl _ | apply EvR.next | apply State.busPut_ev

theorem execPulseEnable_ev {s0 : State} (q : Req) (k : Fin 16) (w : Word) {s : State} (hs0 : Ev s0 s) : EvR s0 (execPulseEnable q k w s) := by
  unfold execPulseEnable
  repeat' with_reducible first | assumption | exact Ev.refl _ | apply EvR.next | apply State.busPut_ev

theorem execCoreRun_ev {s0 : State} (q : Req) (k : Fin 5) (w : Word) {s : State} (hs0 : Ev s0 s) : EvR s0 (execCoreRun q k w s) := by
  unfold execCoreRun
  repeat' with_reducible first | assumption | exact Ev.refl _ | apply EvR.next | apply State.busPut_ev

theorem execCoreReset_ev {s0 : State} (q : Req) (k : Fin 5) (w : Word) {s : State} (hs0 : Ev s0 s) : EvR s0 (execCoreReset q k w s) := by
  unfold execCoreReset
  repeat' with_reducible first | assumption | exact Ev.refl _ | apply EvR.next | apply State.busPut_ev

theorem execComplete_ev {s0 : State} (q : Req) (c : Fin 6) (w : Word) {s : State} (hs0 : Ev s0 s) : EvR s0 (execComplete q c w s) := by
  unfold execComplete
  repeat' with_reducible first | assumption | exact Ev.refl _ | apply EvR.next | apply State.busPut_ev

theorem execPendClear_ev {s0 : State} (q : Req) (k : Fin 32) (w : Word) {s : State} (hs0 : Ev s0 s) : EvR s0 (execPendClear q k w s) := by
  unfold execPendClear
  repeat' with_reducible first | assumption | exact Ev.refl _ | apply EvR.next | apply State.busPut_ev

theorem execSoftwareInterrupt_ev {s0 : State} (q : Req) (w : Word) {s : State} (hs0 : Ev s0 s) : EvR s0 (execSoftwareInterrupt q w s) := by
  unfold execSoftwareInterrupt
  repeat' with_reducible first | assumption | exact Ev.refl _ | apply EvR.next | apply State.busPut_ev

theorem execVcomplete_ev {s0 : State} (q : Req) (v : Fin 16) (w : Word) {s : State} (hs0 : Ev s0 s) : EvR s0 (execVcomplete q v w s) := by
  unfold execVcomplete
  repeat' with_reducible first | assumption | exact Ev.refl _ | apply EvR.next | apply State.busPut_ev

theorem execScratchpadLock_ev {s0 : State} (q : Req) (k : Fin 4) (w : Word) {s : State} (hs0 : Ev s0 s) : EvR s0 (execScratchpadLock q k w s) := by
  unfold execScratchpadLock
  repeat' with_reducible first | assumption | exact Ev.refl _ | apply EvR.next | apply State.busPut_ev

theorem execDmaGo_ev {s0 : State} (q : Req) (c : Fin 16) (w : Word) {s : State} (hs0 : Ev s0 s) : EvR s0 (execDmaGo q c w s) := by
  unfold execDmaGo
  repeat' with_reducible first | assumption | exact Ev.refl _ | apply EvR.next | apply State.busPut_ev

theorem execDmaStop_ev {s0 : State} (q : Req) (c : Fin 16) (w : Word) {s : State} (hs0 : Ev s0 s) : EvR s0 (execDmaStop q c w s) := by
  unfold execDmaStop
  repeat' with_reducible first | assumption | exact Ev.refl _ | apply EvR.next | apply State.busPut_ev

theorem execDebugLock_ev {s0 : State} (q : Req) {s : State} (hs0 : Ev s0 s) : EvR s0 (execDebugLock q s) := by
  unfold execDebugLock
  repeat' with_reducible first | assumption | exact Ev.refl _ | apply EvR.next | apply State.busPut_ev

theorem execCellarProgram_ev {s0 : State} (q : Req) {s : State} (hs0 : Ev s0 s) : EvR s0 (execCellarProgram q s) := by
  unfold execCellarProgram
  repeat' with_reducible first | assumption | exact Ev.refl _ | apply EvR.next | apply State.busPut_ev

theorem execCellarErase_ev {s0 : State} (q : Req) {s : State} (hs0 : Ev s0 s) : EvR s0 (execCellarErase q s) := by
  unfold execCellarErase
  repeat' with_reducible first | assumption | exact Ev.refl _ | apply EvR.next | apply State.busPut_ev

theorem execPowerCommand_ev {s0 : State} (q : Req) (w : Word) {s : State} (hs0 : Ev s0 s) : EvR s0 (execPowerCommand q w s) := by
  unfold execPowerCommand
  repeat' with_reducible first | assumption | exact Ev.refl _ | apply EvR.next | apply ite_evR | apply State.busPut_ev | apply State.powerActs_ev | apply ite_ev | apply ite_ev1 | apply ite_ev2 | apply ite_ev22 | apply ite_ev21

theorem execColdResetRequest_ev {s0 : State} (q : Req) {s : State} (hs0 : Ev s0 s) : EvR s0 (execColdResetRequest q s) := by
  unfold execColdResetRequest
  repeat' with_reducible first | assumption | exact Ev.refl _ | apply EvR.next | apply State.busPut_ev

theorem execWarmResetRequest_ev {s0 : State} (q : Req) {s : State} (hs0 : Ev s0 s) : EvR s0 (execWarmResetRequest q s) := by
  unfold execWarmResetRequest
  repeat' with_reducible first | assumption | exact Ev.refl _ | apply EvR.next | apply State.busPut_ev

theorem execBistCmdGo_ev {s0 : State} (q : Req) (k : Fin 4) (w : Word) {s : State} (hs0 : Ev s0 s) : EvR s0 (execBistCmdGo q k w s) := by
  unfold execBistCmdGo
  repeat' with_reducible first | assumption | exact Ev.refl _ | apply EvR.next | apply State.busPut_ev

theorem execRangeWrite_ev {s0 : State} (q : Req) (b : Fin 12) (w : Word) {s : State} (hs0 : Ev s0 s) : EvR s0 (execRangeWrite q b w s) := by
  unfold execRangeWrite
  repeat' with_reducible first | assumption | exact Ev.refl _ | apply EvR.next | apply State.busPut_ev

theorem execTbSet_ev {s0 : State} (q : Req) (b : Fin 8) (w : Word) {s : State} (hs0 : Ev s0 s) : EvR s0 (execTbSet q b w s) := by
  unfold execTbSet
  repeat' with_reducible first | assumption | exact Ev.refl _ | apply EvR.next | apply State.tbRow_ev

theorem execTbStep_ev {s0 : State} (q : Req) (b : Fin 8) (w : Word) {s : State} (hs0 : Ev s0 s) : EvR s0 (execTbStep q b w s) := by
  unfold execTbStep
  repeat' with_reducible first | assumption | exact Ev.refl _ | apply EvR.next | apply State.tbRow_ev

theorem execTbSnap_ev {s0 : State} (q : Req) (b : Fin 8) (w : Word) {s : State} (hs0 : Ev s0 s) : EvR s0 (execTbSnap q b w s) := by
  unfold execTbSnap
  repeat' with_reducible first | assumption | exact Ev.refl _ | apply EvR.next | apply State.tbRow_ev

theorem execCapturePop_ev {s0 : State} (q : Req) (j : Fin 9) {s : State} (hs0 : Ev s0 s) : EvR s0 (execCapturePop q j s) := by
  unfold execCapturePop
  repeat' with_reducible first | assumption | exact Ev.refl _ | apply EvR.next | apply State.busGet_ev

theorem execTsqPop_ev {s0 : State} (q : Req) (m : Fin 96) {s : State} (hs0 : Ev s0 s) : EvR s0 (execTsqPop q m s) := by
  unfold execTsqPop
  repeat' with_reducible first | assumption | exact Ev.refl _ | apply EvR.next | apply State.busGet_ev

theorem execClaim_ev {s0 : State} (q : Req) (c : Fin 6) {s : State} (hs0 : Ev s0 s) : EvR s0 (execClaim q c s) := by
  unfold execClaim
  repeat' with_reducible first | assumption | exact Ev.refl _ | apply EvR.next | apply State.busGet_ev

theorem execVclaim_ev {s0 : State} (q : Req) (v : Fin 16) {s : State} (hs0 : Ev s0 s) : EvR s0 (execVclaim q v s) := by
  unfold execVclaim
  repeat' with_reducible first | assumption | exact Ev.refl _ | apply EvR.next | apply State.busGet_ev

theorem execTxdWrite_ev {s0 : State} (q : Option Req) (k : Fin 20) (w : Word) {s : State} (hs0 : Ev s0 s) : EvR s0 (execTxdWrite q k w s) := by
  unfold execTxdWrite
  repeat' with_reducible first | assumption | exact Ev.refl _ | apply EvR.next | apply ite_evR | apply State.busPut_ev | apply State.tell_ev | apply State.txPush_ev | apply ite_ev | apply ite_ev1 | apply ite_ev2 | apply ite_ev22 | apply ite_ev21 | dsimp only | split | refine Ev.lit rfl ?_ | refine Ev.eq2 (by assumption) ?_ | refine Ev.eq22 (by assumption) ?_ | refine Ev.eq1 (by assumption) ?_

theorem execRxdPop_ev {s0 : State} (q : Option Req) (k : Fin 20) {s : State} (hs0 : Ev s0 s) : EvR s0 (execRxdPop q k s) := by
  unfold execRxdPop
  repeat' with_reducible first | assumption | exact Ev.refl _ | apply EvR.next | apply ite_evR | apply State.busGet_ev | apply State.setSvcPort_ev | apply State.tell_ev | apply ite_ev | apply ite_ev1 | apply ite_ev2 | apply ite_ev22 | apply ite_ev21 | dsimp only | split | refine Ev.lit rfl ?_ | refine Ev.eq2 (by assumption) ?_ | refine Ev.eq22 (by assumption) ?_ | refine Ev.eq1 (by assumption) ?_

theorem execRegisterWrite_ev {s0 : State} (q : Req) (off : BitVec 32) (n : Nat) (w : Word) {s : State} (hs0 : Ev s0 s) : EvR s0 (execRegisterWrite q off n w s) := by
  unfold execRegisterWrite
  repeat' with_reducible first | assumption | exact Ev.refl _ | apply EvR.next | apply ite_evR | apply State.busWrite_ev | apply State.tell_ev | apply ite_ev | apply ite_ev1 | apply ite_ev2 | apply ite_ev22 | apply ite_ev21 | dsimp only

theorem execBlockClockIdleClose_ev {s0 : State} (g : Fin 11) {s : State} (hs0 : Ev s0 s) : EvR s0 (execBlockClockIdleClose g s) := by
  unfold execBlockClockIdleClose
  repeat' with_reducible first | assumption | exact Ev.refl _ | apply EvR.next | apply ite_evR | apply ite_ev | apply ite_ev1 | apply ite_ev2 | apply ite_ev22 | apply ite_ev21 | refine Ev.lit rfl ?_

end Sys2Proof.Machine
end

