-- ==== Sys2Proof/Laws/Run/Scratch.lean ====
section
/-! SUPPORT. The commands of Machine/Scratch.lean leave the queue of commands alone and keep the invariant. -/

namespace Sys2Proof.Machine

theorem execScratchpadAccess_ev {s0 : State} (b : Fin 32) (us : List (BitVec 72)) {s : State} (hs0 : Ev s0 s) : EvR s0 (execScratchpadAccess b us s) := by
  unfold execScratchpadAccess
  repeat' with_reducible first | assumption | exact Ev.refl _ | apply EvR.next | apply ite_evR | apply State.respond_ev | apply State.scrServe_ev | apply ite_ev | apply ite_ev1 | apply ite_ev2 | apply ite_ev22 | apply ite_ev21 | dsimp only | intro _ _ _ _ | intro _ _ _ | intro _ _ | split | refine Ev.lit rfl ?_

end Sys2Proof.Machine
end

