-- ==== Sys2Proof/Laws/Run/Slices.lean ====
section
/-! SUPPORT. The commands of Machine/Slices.lean leave the queue of commands alone and keep the invariant. -/

namespace Sys2Proof.Machine


theorem execSliceNop_ev {s0 : State} (g : Fin 10752) {s : State} (hs0 : Ev s0 s) : EvR s0 (execSliceNop g s) := by
  unfold execSliceNop
  repeat' with_reducible first | assumption | exact Ev.refl _ | apply EvR.next | apply State.issueOp_ev | exact IssueEv.stall | apply IssueEv.ok | refine fun _ _ _ _ => ?_

theorem execSliceTap_ev {s0 : State} (g : Fin 10752) (ua : BitVec 37) (uc : BitVec 28) {s : State} (hs0 : Ev s0 s) : EvR s0 (execSliceTap g ua uc s) := by
  unfold execSliceTap
  repeat' with_reducible first | assumption | exact Ev.refl _ | apply EvR.next | apply State.coefRead_ev | apply State.issueOp_ev | apply State.macAcc_ev | apply State.opmRead_ev | apply State.opmWrite_ev | dsimp only | exact IssueEv.stall | apply IssueEv.ok | refine fun _ _ _ _ => ?_

theorem execSliceMac_ev {s0 : State} (g : Fin 10752) (ua ub : BitVec 37) (uc : BitVec 28) {s : State} (hs0 : Ev s0 s) : EvR s0 (execSliceMac g ua ub uc s) := by
  unfold execSliceMac
  repeat' with_reducible first | assumption | exact Ev.refl _ | apply EvR.next | apply ite_evR | apply State.coefRead_ev | apply State.issueOp_ev | apply State.macAcc_ev | apply State.opmRead_ev | exact IssueEv.stall | apply IssueEv.ok | apply ite_issueEv | refine fun _ _ _ _ => ?_ | apply ite_ev | apply ite_ev1 | apply ite_ev2 | apply ite_ev22 | apply ite_ev21 | dsimp only | split

theorem execSliceIn_ev {s0 : State} (g : Fin 10752) {s : State} (hs0 : Ev s0 s) : EvR s0 (execSliceIn g s) := by
  unfold execSliceIn
  repeat' with_reducible first | assumption | exact Ev.refl _ | apply EvR.next | apply State.issueOp_ev | apply State.opmWrite_ev | dsimp only | split | refine Ev.lit rfl ?_ | exact IssueEv.stall | apply IssueEv.ok | refine fun _ _ _ _ => ?_

theorem execSliceOut_ev {s0 : State} (g : Fin 10752) {s : State} (hs0 : Ev s0 s) : EvR s0 (execSliceOut g s) := by
  unfold execSliceOut
  repeat' with_reducible first | assumption | exact Ev.refl _ | apply EvR.next | apply ite_evR | apply State.issueOp_ev | apply State.opmWrite_ev | apply State.wrb_ev | exact IssueEv.stall | apply IssueEv.ok | apply ite_issueEv | refine fun _ _ _ _ => ?_ | apply ite_ev | apply ite_ev1 | apply ite_ev2

theorem execSliceLda_ev {s0 : State} (g : Fin 10752) (ua : BitVec 37) {s : State} (hs0 : Ev s0 s) : EvR s0 (execSliceLda g ua s) := by
  unfold execSliceLda
  repeat' with_reducible first | assumption | exact Ev.refl _ | apply EvR.next | apply ite_evR | apply State.issueOp_ev | apply State.opmRead_ev | exact IssueEv.stall | apply IssueEv.ok | apply ite_issueEv | refine fun _ _ _ _ => ?_ | apply ite_ev | apply ite_ev1 | apply ite_ev2 | apply ite_ev22 | apply ite_ev21 | dsimp only | split

theorem execSliceLdc_ev {s0 : State} (g : Fin 10752) (ua : BitVec 37) {s : State} (hs0 : Ev s0 s) : EvR s0 (execSliceLdc g ua s) := by
  unfold execSliceLdc
  repeat' with_reducible first | assumption | exact Ev.refl _ | apply EvR.next | apply ite_evR | apply State.issueOp_ev | apply State.opmRead_ev | apply State.setCoef_ev | exact IssueEv.stall | apply IssueEv.ok | apply ite_issueEv | refine fun _ _ _ _ => ?_ | apply ite_ev | apply ite_ev1 | apply ite_ev2 | apply ite_ev22 | apply ite_ev21 | dsimp only | split | refine Ev.lit rfl ?_

theorem execSliceCas_ev {s0 : State} (g : Fin 10752) {s : State} (hs0 : Ev s0 s) : EvR s0 (execSliceCas g s) := by
  unfold execSliceCas
  repeat' with_reducible first | assumption | exact Ev.refl _ | apply EvR.next | apply ite_evR | apply State.fpResult_ev | apply State.issueOp_ev | apply State.wrb_ev | exact IssueEv.stall | apply IssueEv.ok | apply ite_issueEv | refine fun _ _ _ _ => ?_ | apply ite_ev | apply ite_ev1 | apply ite_ev2

theorem execSliceLoop_ev {s0 : State} (g : Fin 10752) {s : State} (hs0 : Ev s0 s) : EvR s0 (execSliceLoop g s) := by
  unfold execSliceLoop
  repeat' with_reducible first | assumption | exact Ev.refl _ | apply EvR.next | apply State.issueOp_ev | refine Ev.lit rfl ?_ | exact IssueEv.stall | apply IssueEv.ok | refine fun _ _ _ _ => ?_

theorem execSliceJmp_ev {s0 : State} (g : Fin 10752) (ci : BitVec 4) (src : PortSrc) {s : State} (hs0 : Ev s0 s) : EvR s0 (execSliceJmp g ci src s) := by
  unfold execSliceJmp
  repeat' with_reducible first | assumption | exact Ev.refl _ | apply EvR.next | apply ite_evR | apply State.drawFor_ev | apply State.issueOp_ev | exact IssueEv.stall | apply IssueEv.ok | apply ite_issueEv | refine fun _ _ _ _ => ?_ | apply ite_ev | apply ite_ev1 | apply ite_ev2 | apply ite_ev22 | apply ite_ev21 | dsimp only | split | refine Ev.eq2 (by assumption) ?_ | refine Ev.eq22 (by assumption) ?_ | refine Ev.eq1 (by assumption) ?_

theorem execSliceSetag_ev {s0 : State} (g : Fin 10752) {s : State} (hs0 : Ev s0 s) : EvR s0 (execSliceSetag g s) := by
  unfold execSliceSetag
  repeat' with_reducible first | assumption | exact Ev.refl _ | apply EvR.next | apply State.issueOp_ev | dsimp only | split | refine Ev.lit rfl ?_ | exact IssueEv.stall | apply IssueEv.ok | refine fun _ _ _ _ => ?_

theorem execSliceWait_ev {s0 : State} (g : Fin 10752) (ci : BitVec 4) (src : PortSrc) {s : State} (hs0 : Ev s0 s) : EvR s0 (execSliceWait g ci src s) := by
  unfold execSliceWait
  repeat' with_reducible first | assumption | exact Ev.refl _ | apply EvR.next | apply ite_evR | apply State.drawFor_ev | apply State.issueOp_ev | exact IssueEv.stall | apply IssueEv.ok | apply ite_issueEv | refine fun _ _ _ _ => ?_ | apply ite_ev | apply ite_ev1 | apply ite_ev2 | apply ite_ev22 | apply ite_ev21 | dsimp only | split | refine Ev.eq2 (by assumption) ?_ | refine Ev.eq22 (by assumption) ?_ | refine Ev.eq1 (by assumption) ?_

theorem execSliceHalt_ev {s0 : State} (g : Fin 10752) {s : State} (hs0 : Ev s0 s) : EvR s0 (execSliceHalt g s) := by
  unfold execSliceHalt
  repeat' with_reducible first | assumption | exact Ev.refl _ | apply EvR.next | apply State.issueOp_ev | exact IssueEv.stall | apply IssueEv.ok | refine fun _ _ _ _ => ?_

theorem execSliceSig_ev {s0 : State} (g : Fin 10752) {s : State} (hs0 : Ev s0 s) : EvR s0 (execSliceSig g s) := by
  unfold execSliceSig
  repeat' with_reducible first | assumption | exact Ev.refl _ | apply EvR.next | apply State.issueOp_ev | refine Ev.lit rfl ?_ | exact IssueEv.stall | apply IssueEv.ok | refine fun _ _ _ _ => ?_

theorem execIllegalInstruction_ev {s0 : State} (g : Fin 10752) {s : State} (hs0 : Ev s0 s) : EvR s0 (execIllegalInstruction g s) := by
  unfold execIllegalInstruction
  repeat' with_reducible first | assumption | exact Ev.refl _ | apply EvR.next | apply ite_evR | apply State.closeCycle_ev | apply State.setSlice_ev | apply State.settle_ev | apply State.wrb_ev | apply ite_ev | apply ite_ev1 | apply ite_ev2 | apply ite_ev22 | apply ite_ev21 | dsimp only | refine Ev.lit rfl ?_

theorem execSliceStart_ev {s0 : State} (g : Fin 10752) (src : PortSrc) {s : State} (hs0 : Ev s0 s) : EvR s0 (execSliceStart g src s) := by
  unfold execSliceStart
  repeat' with_reducible first | assumption | exact Ev.refl _ | apply EvR.next | apply ite_evR | apply State.drawFor_ev | apply State.setSlice_ev | apply ite_ev | apply ite_ev1 | apply ite_ev2 | apply ite_ev22 | apply ite_ev21 | dsimp only | split | refine Ev.lit rfl ?_ | refine Ev.eq2 (by assumption) ?_ | refine Ev.eq22 (by assumption) ?_ | refine Ev.eq1 (by assumption) ?_

theorem execTrigInput_ev {s0 : State} (g : Fin 10752) (src : PortSrc) {s : State} (hs0 : Ev s0 s) : EvR s0 (execTrigInput g src s) := by
  unfold execTrigInput
  repeat' with_reducible first | assumption | exact Ev.refl _ | apply EvR.next | apply ite_evR | apply State.drawFor_ev | apply State.setSlice_ev | apply ite_ev | apply ite_ev1 | apply ite_ev2 | apply ite_ev22 | apply ite_ev21 | dsimp only | split | refine Ev.lit rfl ?_ | refine Ev.eq2 (by assumption) ?_ | refine Ev.eq22 (by assumption) ?_ | refine Ev.eq1 (by assumption) ?_

theorem execXCapture_ev {s0 : State} (g : Fin 10752) (x : BitVec 36) (p : Bool) (src : PortSrc) {s : State} (hs0 : Ev s0 s) : EvR s0 (execXCapture g x p src s) := by
  unfold execXCapture
  repeat' with_reducible first | assumption | exact Ev.refl _ | apply EvR.next | apply ite_evR | apply State.drawFor_ev | apply State.setSlice_ev | apply ite_ev | apply ite_ev1 | apply ite_ev2 | apply ite_ev22 | apply ite_ev21 | dsimp only | split | refine Ev.lit rfl ?_ | refine Ev.eq2 (by assumption) ?_ | refine Ev.eq22 (by assumption) ?_ | refine Ev.eq1 (by assumption) ?_

theorem execYDeliver_ev {s0 : State} (g : Fin 10752) (src : PortSrc) {s : State} (hs0 : Ev s0 s) : EvR s0 (execYDeliver g src s) := by
  unfold execYDeliver
  repeat' with_reducible first | assumption | exact Ev.refl _ | apply EvR.next | apply ite_evR | apply State.drawFor_ev | apply State.setSlice_ev | apply ite_ev | apply ite_ev1 | apply ite_ev2 | apply ite_ev22 | apply ite_ev21 | dsimp only | split | refine Ev.lit rfl ?_ | refine Ev.eq2 (by assumption) ?_ | refine Ev.eq22 (by assumption) ?_ | refine Ev.eq1 (by assumption) ?_

theorem execPortPAccess_ev {s0 : State} (g : Fin 10752) (a : BitVec 10) (we : Bool) (d : BitVec 36) (u : BitVec 37) (src : PortSrc) {s : State} (hs0 : Ev s0 s) : EvR s0 (execPortPAccess g a we d u src s) := by
  unfold execPortPAccess
  repeat' with_reducible first | assumption | exact Ev.refl _ | apply EvR.next | apply ite_evR | apply State.drawFor_ev | apply State.portDo_ev | apply State.setSlice_ev | apply ite_ev | apply ite_ev1 | apply ite_ev2 | apply ite_ev22 | apply ite_ev21 | dsimp only | split | refine Ev.lit rfl ?_ | refine Ev.eq2 (by assumption) ?_ | refine Ev.eq22 (by assumption) ?_ | refine Ev.eq1 (by assumption) ?_

theorem execPortPSteal_ev {s0 : State} (g : Fin 10752) (a : BitVec 10) (we : Bool) (d : BitVec 36) (u : BitVec 37) (src : PortSrc) {s : State} (hs0 : Ev s0 s) : EvR s0 (execPortPSteal g a we d u src s) := by
  unfold execPortPSteal
  repeat' with_reducible first | assumption | exact Ev.refl _ | apply EvR.next | apply ite_evR | apply State.drawFor_ev | apply State.portDo_ev | apply State.stallCycle_ev | apply ite_ev | apply ite_ev1 | apply ite_ev2 | apply ite_ev22 | apply ite_ev21 | dsimp only | split | refine Ev.eq2 (by assumption) ?_ | refine Ev.eq22 (by assumption) ?_ | refine Ev.eq1 (by assumption) ?_

theorem execInspectionSteal_ev {s0 : State} (g : Fin 10752) (u : BitVec 37) (uc : BitVec 28) {s : State} (hs0 : Ev s0 s) : EvR s0 (execInspectionSteal g u uc s) := by
  unfold execInspectionSteal
  repeat' with_reducible first | assumption | exact Ev.refl _ | apply EvR.next | apply ite_evR | apply State.inspect_ev | apply State.stallCycle_ev | apply ite_ev | apply ite_ev1 | apply ite_ev2 | apply ite_ev22 | apply ite_ev21 | dsimp only

end Sys2Proof.Machine
end

