-- ==== Sys2Proof/Laws/Run/Span.lean ====
section
/-! SUPPORT. The commands of Machine/Span.lean leave the queue of commands alone and keep the invariant. -/

namespace Sys2Proof.Machine


theorem execSpanInitFrame_ev {s0 : State} (k : Fin 4) (ws : List Word) {s : State} (hs0 : Ev s0 s) : EvR s0 (execSpanInitFrame k ws s) := by
  unfold execSpanInitFrame
  repeat' with_reducible first | assumption | exact Ev.refl _ | apply EvR.next | apply ite_evR | apply State.bump_ev | apply State.raiseDev_ev | apply State.setPort_ev | apply State.spanAck_ev | apply State.srcPulse_ev | apply State.wr_ev | apply State.wrb_ev | apply ite_ev | apply ite_ev1 | apply ite_ev2 | apply ite_ev22 | apply ite_ev21 | dsimp only | refine Ev.lit rfl ?_

theorem execSpanCtrlFrame_ev {s0 : State} (k : Fin 4) (ws : List Word) {s : State} (hs0 : Ev s0 s) : EvR s0 (execSpanCtrlFrame k ws s) := by
  unfold execSpanCtrlFrame
  repeat' with_reducible first | assumption | exact Ev.refl _ | apply EvR.next | apply ite_evR | apply State.bump_ev | apply State.spanAck_ev

theorem execSpanFlitFrame_ev {s0 : State} (k : Fin 4) (ws : List Word) (stamp : Nat) {s : State} (hs0 : Ev s0 s) : EvR s0 (execSpanFlitFrame k ws stamp s) := by
  unfold execSpanFlitFrame
  repeat' with_reducible first | assumption | exact Ev.refl _ | apply EvR.next | apply State.spanFlit_ev

theorem execSpanFlitrFrame_ev {s0 : State} (k : Fin 4) (ws : List Word) {s : State} (hs0 : Ev s0 s) : EvR s0 (execSpanFlitrFrame k ws s) := by
  unfold execSpanFlitrFrame
  repeat' with_reducible first | assumption | exact Ev.refl _ | apply EvR.next | apply State.spanFlit_ev

theorem execSpanAckTimer_ev {s0 : State} (k : Fin 4) {s : State} (hs0 : Ev s0 s) : EvR s0 (execSpanAckTimer k s) := by
  unfold execSpanAckTimer
  repeat' with_reducible first | assumption | exact Ev.refl _ | apply EvR.next | apply ite_evR | apply State.setPort_ev

theorem execSpanReplayExpiry_ev {s0 : State} (k : Fin 4) {s : State} (hs0 : Ev s0 s) : EvR s0 (execSpanReplayExpiry k s) := by
  unfold execSpanReplayExpiry
  repeat' with_reducible first | assumption | exact Ev.refl _ | apply EvR.next | apply ite_evR | apply State.bump_ev | apply State.setPort_ev | apply State.spanDown_ev

theorem execSpanGatewayFlit_ev {s0 : State} {s : State} (hs0 : Ev s0 s) : EvR s0 (execSpanGatewayFlit s) := by
  unfold execSpanGatewayFlit
  repeat' with_reducible first | assumption | exact Ev.refl _ | apply EvR.next | apply ite_evR | apply State.bump_ev | apply State.raiseDev_ev | apply State.respond_ev | apply State.spanFree_ev | apply State.spanQueue_ev | apply ite_ev | apply ite_ev1 | apply ite_ev2 | apply ite_ev22 | apply ite_ev21 | dsimp only | split | refine Ev.lit rfl ?_

end Sys2Proof.Machine
end

