-- ==== Sys2Proof/Laws/Run/Vats.lean ====
section
/-! SUPPORT. The commands of Machine/Vats.lean leave the queue of commands alone and keep the invariant. -/

namespace Sys2Proof.Machine


theorem execVatResetAssertion_ev {s0 : State} (v : Fin 16) {s : State} (hs0 : Ev s0 s) : EvR s0 (execVatResetAssertion v s) := by
  unfold execVatResetAssertion
  repeat' with_reducible first | assumption | exact Ev.refl _ | apply EvR.next | apply ite_evR | apply State.assertReset_ev | apply State.setRstReq_ev

theorem execVatResetHoldExpiry_ev {s0 : State} (v : Fin 16) {s : State} (hs0 : Ev s0 s) : EvR s0 (execVatResetHoldExpiry v s) := by
  unfold execVatResetHoldExpiry
  repeat' with_reducible first | assumption | exact Ev.refl _ | apply EvR.next | apply ite_evR | apply State.setHold_ev

theorem execVatRelease_ev {s0 : State} (v : Fin 16) {s : State} (hs0 : Ev s0 s) : EvR s0 (execVatRelease v s) := by
  unfold execVatRelease
  repeat' with_reducible first | assumption | exact Ev.refl _ | apply EvR.next | apply ite_evR | apply State.dropSnap_ev | apply State.fillVatRegs_ev | apply State.releaseSector_ev | apply State.vatResetEvent_ev | apply State.wrb_ev | refine foldl_ev _ _ (fun _ _ _ => ?_) ?_ | refine foldl_ev1 _ _ (fun _ _ _ => ?_) ?_ | refine foldl_ev2 _ _ (fun _ _ _ => ?_) ?_ | refine foldl_ev22 _ _ (fun _ _ _ => ?_) ?_ | refine foldl_ev21 _ _ (fun _ _ _ => ?_) ?_ | apply ite_ev | apply ite_ev1 | apply ite_ev2 | apply ite_ev22 | apply ite_ev21 | dsimp only | intro _ _ _ _ | intro _ _ _ | intro _ _ | refine Ev.lit rfl ?_

theorem execMemoryFrameReload_ev {s0 : State} (v : Fin 16) {s : State} (hs0 : Ev s0 s) : EvR s0 (execMemoryFrameReload v s) := by
  unfold execMemoryFrameReload
  repeat' with_reducible first | assumption | exact Ev.refl _ | apply EvR.next | apply ite_evR | apply State.reloadFrame_ev | apply State.wantInit_ev | refine foldl_ev _ _ (fun _ _ _ => ?_) ?_ | refine foldl_ev1 _ _ (fun _ _ _ => ?_) ?_ | refine foldl_ev2 _ _ (fun _ _ _ => ?_) ?_ | refine foldl_ev22 _ _ (fun _ _ _ => ?_) ?_ | refine foldl_ev21 _ _ (fun _ _ _ => ?_) ?_ | apply ite_ev | apply ite_ev1 | apply ite_ev2 | apply ite_ev22 | apply ite_ev21 | dsimp only | intro _ _ _ _ | intro _ _ _ | intro _ _ | refine Ev.lit rfl ?_

theorem execSectorGateOpen_ev {s0 : State} (sec : Fin 224) {s : State} (hs0 : Ev s0 s) : EvR s0 (execSectorGateOpen sec s) := by
  unfold execSectorGateOpen
  repeat' with_reducible first | assumption | exact Ev.refl _ | apply EvR.next | apply ite_evR | apply State.openGates_ev | apply ite_ev | apply ite_ev1 | apply ite_ev2 | apply ite_ev22 | apply ite_ev21 | dsimp only

theorem execVatGatingDone_ev {s0 : State} (v : Fin 16) {s : State} (hs0 : Ev s0 s) : EvR s0 (execVatGatingDone v s) := by
  unfold execVatGatingDone
  repeat' with_reducible first | assumption | exact Ev.refl _ | apply EvR.next | apply ite_evR | apply State.clearVatMems_ev | apply State.closeGates_ev | apply State.holdSlices_ev | apply State.raiseVat_ev | apply State.setGating_ev | apply State.wrb_ev | apply ite_ev | apply ite_ev1 | apply ite_ev2 | apply ite_ev22 | apply ite_ev21 | dsimp only | intro _ _ _ _ | intro _ _ _ | intro _ _ | refine cfg_ev _ (fun x => twf_tfilter _ x) rfl rfl ?_

end Sys2Proof.Machine
end

