-- ==== Sys2Proof/Laws/State.lean ====
section
/-! SUPPORT. What each basic update of the state leaves of it, part by part: one equation for each part, so that no proof
unfolds an update. The change a counter makes stands in the equations of `State.ctrAdd`. -/

namespace Sys2Proof.Machine

variable (s : State)

/-! `State.setReg`. -/

@[simp] theorem State.setReg_regs (off : Nat) (w : Word) : (s.setReg off w).regs = tput s.regs off w (resetWord off) := rfl
@[simp] theorem State.setReg_ctrs (off : Nat) (w : Word) : (s.setReg off w).ctrs = s.ctrs := rfl
@[simp] theorem State.setReg_latches (off : Nat) (w : Word) : (s.setReg off w).latches = s.latches := rfl
@[simp] theorem State.setReg_mtime (off : Nat) (w : Word) : (s.setReg off w).mtime = s.mtime := rfl
@[simp] theorem State.setReg_freeCtr (off : Nat) (w : Word) : (s.setReg off w).freeCtr = s.freeCtr := rfl
@[simp] theorem State.setReg_answer (off : Nat) (w : Word) : (s.setReg off w).answer = s.answer := rfl
@[simp] theorem State.setReg_mgt (off : Nat) (w : Word) : (s.setReg off w).mgt = s.mgt := rfl
@[simp] theorem State.setReg_dbg (off : Nat) (w : Word) : (s.setReg off w).dbg = s.dbg := rfl
@[simp] theorem State.setReg_logs (off : Nat) (w : Word) : (s.setReg off w).logs = s.logs := rfl
@[simp] theorem State.setReg_irq (off : Nat) (w : Word) : (s.setReg off w).irq = s.irq := rfl
@[simp] theorem State.setReg_clk (off : Nat) (w : Word) : (s.setReg off w).clk = s.clk := rfl
@[simp] theorem State.setReg_noc (off : Nat) (w : Word) : (s.setReg off w).noc = s.noc := rfl
@[simp] theorem State.setReg_span (off : Nat) (w : Word) : (s.setReg off w).span = s.span := rfl
@[simp] theorem State.setReg_inject (off : Nat) (w : Word) : (s.setReg off w).inject = s.inject := rfl
@[simp] theorem State.setReg_prbs (off : Nat) (w : Word) : (s.setReg off w).prbs = s.prbs := rfl
@[simp] theorem State.setReg_dram (off : Nat) (w : Word) : (s.setReg off w).dram = s.dram := rfl
@[simp] theorem State.setReg_procs (off : Nat) (w : Word) : (s.setReg off w).procs = s.procs := rfl
@[simp] theorem State.setReg_cfg (off : Nat) (w : Word) : (s.setReg off w).cfg = s.cfg := rfl
@[simp] theorem State.setReg_img (off : Nat) (w : Word) : (s.setReg off w).img = s.img := rfl
@[simp] theorem State.setReg_churn (off : Nat) (w : Word) : (s.setReg off w).churn = s.churn := rfl
@[simp] theorem State.setReg_fab (off : Nat) (w : Word) : (s.setReg off w).fab = s.fab := rfl
@[simp] theorem State.setReg_slc (off : Nat) (w : Word) : (s.setReg off w).slc = s.slc := rfl
@[simp] theorem State.setReg_mem (off : Nat) (w : Word) : (s.setReg off w).mem = s.mem := rfl
@[simp] theorem State.setReg_time (off : Nat) (w : Word) : (s.setReg off w).time = s.time := rfl
@[simp] theorem State.setReg_cel (off : Nat) (w : Word) : (s.setReg off w).cel = s.cel := rfl
@[simp] theorem State.setReg_scr (off : Nat) (w : Word) : (s.setReg off w).scr = s.scr := rfl
@[simp] theorem State.setReg_fen (off : Nat) (w : Word) : (s.setReg off w).fen = s.fen := rfl
@[simp] theorem State.setReg_dma (off : Nat) (w : Word) : (s.setReg off w).dma = s.dma := rfl
@[simp] theorem State.setReg_svc (off : Nat) (w : Word) : (s.setReg off w).svc = s.svc := rfl
@[simp] theorem State.setReg_cores (off : Nat) (w : Word) : (s.setReg off w).cores = s.cores := rfl
@[simp] theorem State.setReg_pwr (off : Nat) (w : Word) : (s.setReg off w).pwr = s.pwr := rfl
@[simp] theorem State.setReg_lcs (off : Nat) (w : Word) : (s.setReg off w).lcs = s.lcs := rfl
@[simp] theorem State.setReg_bist (off : Nat) (w : Word) : (s.setReg off w).bist = s.bist := rfl
@[simp] theorem State.setReg_pins (off : Nat) (w : Word) : (s.setReg off w).pins = s.pins := rfl
@[simp] theorem State.setReg_pending (off : Nat) (w : Word) : (s.setReg off w).pending = s.pending := rfl

/-! `State.wr`. -/

@[simp] theorem State.wr_ctrs (f : Fld) (v : Nat) : (s.wr f v).ctrs = s.ctrs := rfl
@[simp] theorem State.wr_latches (f : Fld) (v : Nat) : (s.wr f v).latches = s.latches := rfl
@[simp] theorem State.wr_mtime (f : Fld) (v : Nat) : (s.wr f v).mtime = s.mtime := rfl
@[simp] theorem State.wr_freeCtr (f : Fld) (v : Nat) : (s.wr f v).freeCtr = s.freeCtr := rfl
@[simp] theorem State.wr_answer (f : Fld) (v : Nat) : (s.wr f v).answer = s.answer := rfl
@[simp] theorem State.wr_mgt (f : Fld) (v : Nat) : (s.wr f v).mgt = s.mgt := rfl
@[simp] theorem State.wr_dbg (f : Fld) (v : Nat) : (s.wr f v).dbg = s.dbg := rfl
@[simp] theorem State.wr_logs (f : Fld) (v : Nat) : (s.wr f v).logs = s.logs := rfl
@[simp] theorem State.wr_irq (f : Fld) (v : Nat) : (s.wr f v).irq = s.irq := rfl
@[simp] theorem State.wr_clk (f : Fld) (v : Nat) : (s.wr f v).clk = s.clk := rfl
@[simp] theorem State.wr_noc (f : Fld) (v : Nat) : (s.wr f v).noc = s.noc := rfl
@[simp] theorem State.wr_span (f : Fld) (v : Nat) : (s.wr f v).span = s.span := rfl
@[simp] theorem State.wr_inject (f : Fld) (v : Nat) : (s.wr f v).inject = s.inject := rfl
@[simp] theorem State.wr_prbs (f : Fld) (v : Nat) : (s.wr f v).prbs = s.prbs := rfl
@[simp] theorem State.wr_dram (f : Fld) (v : Nat) : (s.wr f v).dram = s.dram := rfl
@[simp] theorem State.wr_procs (f : Fld) (v : Nat) : (s.wr f v).procs = s.procs := rfl
@[simp] theorem State.wr_cfg (f : Fld) (v : Nat) : (s.wr f v).cfg = s.cfg := rfl
@[simp] theorem State.wr_img (f : Fld) (v : Nat) : (s.wr f v).img = s.img := rfl
@[simp] theorem State.wr_churn (f : Fld) (v : Nat) : (s.wr f v).churn = s.churn := rfl
@[simp] theorem State.wr_fab (f : Fld) (v : Nat) : (s.wr f v).fab = s.fab := rfl
@[simp] theorem State.wr_slc (f : Fld) (v : Nat) : (s.wr f v).slc = s.slc := rfl
@[simp] theorem State.wr_mem (f : Fld) (v : Nat) : (s.wr f v).mem = s.mem := rfl
@[simp] theorem State.wr_time (f : Fld) (v : Nat) : (s.wr f v).time = s.time := rfl
@[simp] theorem State.wr_cel (f : Fld) (v : Nat) : (s.wr f v).cel = s.cel := rfl
@[simp] theorem State.wr_scr (f : Fld) (v : Nat) : (s.wr f v).scr = s.scr := rfl
@[simp] theorem State.wr_fen (f : Fld) (v : Nat) : (s.wr f v).fen = s.fen := rfl
@[simp] theorem State.wr_dma (f : Fld) (v : Nat) : (s.wr f v).dma = s.dma := rfl
@[simp] theorem State.wr_svc (f : Fld) (v : Nat) : (s.wr f v).svc = s.svc := rfl
@[simp] theorem State.wr_cores (f : Fld) (v : Nat) : (s.wr f v).cores = s.cores := rfl
@[simp] theorem State.wr_pwr (f : Fld) (v : Nat) : (s.wr f v).pwr = s.pwr := rfl
@[simp] theorem State.wr_lcs (f : Fld) (v : Nat) : (s.wr f v).lcs = s.lcs := rfl
@[simp] theorem State.wr_bist (f : Fld) (v : Nat) : (s.wr f v).bist = s.bist := rfl
@[simp] theorem State.wr_pins (f : Fld) (v : Nat) : (s.wr f v).pins = s.pins := rfl
@[simp] theorem State.wr_pending (f : Fld) (v : Nat) : (s.wr f v).pending = s.pending := rfl

/-! `State.wrb`. -/

@[simp] theorem State.wrb_ctrs (f : Fld) (b : Bool) : (s.wrb f b).ctrs = s.ctrs := rfl
@[simp] theorem State.wrb_latches (f : Fld) (b : Bool) : (s.wrb f b).latches = s.latches := rfl
@[simp] theorem State.wrb_mtime (f : Fld) (b : Bool) : (s.wrb f b).mtime = s.mtime := rfl
@[simp] theorem State.wrb_freeCtr (f : Fld) (b : Bool) : (s.wrb f b).freeCtr = s.freeCtr := rfl
@[simp] theorem State.wrb_answer (f : Fld) (b : Bool) : (s.wrb f b).answer = s.answer := rfl
@[simp] theorem State.wrb_mgt (f : Fld) (b : Bool) : (s.wrb f b).mgt = s.mgt := rfl
@[simp] theorem State.wrb_dbg (f : Fld) (b : Bool) : (s.wrb f b).dbg = s.dbg := rfl
@[simp] theorem State.wrb_logs (f : Fld) (b : Bool) : (s.wrb f b).logs = s.logs := rfl
@[simp] theorem State.wrb_irq (f : Fld) (b : Bool) : (s.wrb f b).irq = s.irq := rfl
@[simp] theorem State.wrb_clk (f : Fld) (b : Bool) : (s.wrb f b).clk = s.clk := rfl
@[simp] theorem State.wrb_noc (f : Fld) (b : Bool) : (s.wrb f b).noc = s.noc := rfl
@[simp] theorem State.wrb_span (f : Fld) (b : Bool) : (s.wrb f b).span = s.span := rfl
@[simp] theorem State.wrb_inject (f : Fld) (b : Bool) : (s.wrb f b).inject = s.inject := rfl
@[simp] theorem State.wrb_prbs (f : Fld) (b : Bool) : (s.wrb f b).prbs = s.prbs := rfl
@[simp] theorem State.wrb_dram (f : Fld) (b : Bool) : (s.wrb f b).dram = s.dram := rfl
@[simp] theorem State.wrb_procs (f : Fld) (b : Bool) : (s.wrb f b).procs = s.procs := rfl
@[simp] theorem State.wrb_cfg (f : Fld) (b : Bool) : (s.wrb f b).cfg = s.cfg := rfl
@[simp] theorem State.wrb_img (f : Fld) (b : Bool) : (s.wrb f b).img = s.img := rfl
@[simp] theorem State.wrb_churn (f : Fld) (b : Bool) : (s.wrb f b).churn = s.churn := rfl
@[simp] theorem State.wrb_fab (f : Fld) (b : Bool) : (s.wrb f b).fab = s.fab := rfl
@[simp] theorem State.wrb_slc (f : Fld) (b : Bool) : (s.wrb f b).slc = s.slc := rfl
@[simp] theorem State.wrb_mem (f : Fld) (b : Bool) : (s.wrb f b).mem = s.mem := rfl
@[simp] theorem State.wrb_time (f : Fld) (b : Bool) : (s.wrb f b).time = s.time := rfl
@[simp] theorem State.wrb_cel (f : Fld) (b : Bool) : (s.wrb f b).cel = s.cel := rfl
@[simp] theorem State.wrb_scr (f : Fld) (b : Bool) : (s.wrb f b).scr = s.scr := rfl
@[simp] theorem State.wrb_fen (f : Fld) (b : Bool) : (s.wrb f b).fen = s.fen := rfl
@[simp] theorem State.wrb_dma (f : Fld) (b : Bool) : (s.wrb f b).dma = s.dma := rfl
@[simp] theorem State.wrb_svc (f : Fld) (b : Bool) : (s.wrb f b).svc = s.svc := rfl
@[simp] theorem State.wrb_cores (f : Fld) (b : Bool) : (s.wrb f b).cores = s.cores := rfl
@[simp] theorem State.wrb_pwr (f : Fld) (b : Bool) : (s.wrb f b).pwr = s.pwr := rfl
@[simp] theorem State.wrb_lcs (f : Fld) (b : Bool) : (s.wrb f b).lcs = s.lcs := rfl
@[simp] theorem State.wrb_bist (f : Fld) (b : Bool) : (s.wrb f b).bist = s.bist := rfl
@[simp] theorem State.wrb_pins (f : Fld) (b : Bool) : (s.wrb f b).pins = s.pins := rfl
@[simp] theorem State.wrb_pending (f : Fld) (b : Bool) : (s.wrb f b).pending = s.pending := rfl

/-! `State.tell`. -/

@[simp] theorem State.tell_regs (st : Status) (l : List Byte) : (s.tell st l).regs = s.regs := rfl
@[simp] theorem State.tell_ctrs (st : Status) (l : List Byte) : (s.tell st l).ctrs = s.ctrs := rfl
@[simp] theorem State.tell_latches (st : Status) (l : List Byte) : (s.tell st l).latches = s.latches := rfl
@[simp] theorem State.tell_mtime (st : Status) (l : List Byte) : (s.tell st l).mtime = s.mtime := rfl
@[simp] theorem State.tell_freeCtr (st : Status) (l : List Byte) : (s.tell st l).freeCtr = s.freeCtr := rfl
@[simp] theorem State.tell_answer (st : Status) (l : List Byte) : (s.tell st l).answer = some ⟨st, l⟩ := rfl
@[simp] theorem State.tell_mgt (st : Status) (l : List Byte) : (s.tell st l).mgt = s.mgt := rfl
@[simp] theorem State.tell_dbg (st : Status) (l : List Byte) : (s.tell st l).dbg = s.dbg := rfl
@[simp] theorem State.tell_logs (st : Status) (l : List Byte) : (s.tell st l).logs = s.logs := rfl
@[simp] theorem State.tell_irq (st : Status) (l : List Byte) : (s.tell st l).irq = s.irq := rfl
@[simp] theorem State.tell_clk (st : Status) (l : List Byte) : (s.tell st l).clk = s.clk := rfl
@[simp] theorem State.tell_noc (st : Status) (l : List Byte) : (s.tell st l).noc = s.noc := rfl
@[simp] theorem State.tell_span (st : Status) (l : List Byte) : (s.tell st l).span = s.span := rfl
@[simp] theorem State.tell_inject (st : Status) (l : List Byte) : (s.tell st l).inject = s.inject := rfl
@[simp] theorem State.tell_prbs (st : Status) (l : List Byte) : (s.tell st l).prbs = s.prbs := rfl
@[simp] theorem State.tell_dram (st : Status) (l : List Byte) : (s.tell st l).dram = s.dram := rfl
@[simp] theorem State.tell_procs (st : Status) (l : List Byte) : (s.tell st l).procs = s.procs := rfl
@[simp] theorem State.tell_cfg (st : Status) (l : List Byte) : (s.tell st l).cfg = s.cfg := rfl
@[simp] theorem State.tell_img (st : Status) (l : List Byte) : (s.tell st l).img = s.img := rfl
@[simp] theorem State.tell_churn (st : Status) (l : List Byte) : (s.tell st l).churn = s.churn := rfl
@[simp] theorem State.tell_fab (st : Status) (l : List Byte) : (s.tell st l).fab = s.fab := rfl
@[simp] theorem State.tell_slc (st : Status) (l : List Byte) : (s.tell st l).slc = s.slc := rfl
@[simp] theorem State.tell_mem (st : Status) (l : List Byte) : (s.tell st l).mem = s.mem := rfl
@[simp] theorem State.tell_time (st : Status) (l : List Byte) : (s.tell st l).time = s.time := rfl
@[simp] theorem State.tell_cel (st : Status) (l : List Byte) : (s.tell st l).cel = s.cel := rfl
@[simp] theorem State.tell_scr (st : Status) (l : List Byte) : (s.tell st l).scr = s.scr := rfl
@[simp] theorem State.tell_fen (st : Status) (l : List Byte) : (s.tell st l).fen = s.fen := rfl
@[simp] theorem State.tell_dma (st : Status) (l : List Byte) : (s.tell st l).dma = s.dma := rfl
@[simp] theorem State.tell_svc (st : Status) (l : List Byte) : (s.tell st l).svc = s.svc := rfl
@[simp] theorem State.tell_cores (st : Status) (l : List Byte) : (s.tell st l).cores = s.cores := rfl
@[simp] theorem State.tell_pwr (st : Status) (l : List Byte) : (s.tell st l).pwr = s.pwr := rfl
@[simp] theorem State.tell_lcs (st : Status) (l : List Byte) : (s.tell st l).lcs = s.lcs := rfl
@[simp] theorem State.tell_bist (st : Status) (l : List Byte) : (s.tell st l).bist = s.bist := rfl
@[simp] theorem State.tell_pins (st : Status) (l : List Byte) : (s.tell st l).pins = s.pins := rfl
@[simp] theorem State.tell_pending (st : Status) (l : List Byte) : (s.tell st l).pending = s.pending := rfl

/-! `State.setHost`. -/

@[simp] theorem State.setHost_regs (h : Nat) (x : HostSt) : (s.setHost h x).regs = s.regs := rfl
@[simp] theorem State.setHost_ctrs (h : Nat) (x : HostSt) : (s.setHost h x).ctrs = s.ctrs := rfl
@[simp] theorem State.setHost_latches (h : Nat) (x : HostSt) : (s.setHost h x).latches = s.latches := rfl
@[simp] theorem State.setHost_mtime (h : Nat) (x : HostSt) : (s.setHost h x).mtime = s.mtime := rfl
@[simp] theorem State.setHost_freeCtr (h : Nat) (x : HostSt) : (s.setHost h x).freeCtr = s.freeCtr := rfl
@[simp] theorem State.setHost_answer (h : Nat) (x : HostSt) : (s.setHost h x).answer = s.answer := rfl
@[simp] theorem State.setHost_mgt (h : Nat) (x : HostSt) : (s.setHost h x).mgt = { s.mgt with hosts := tput s.mgt.hosts h x {} } := rfl
@[simp] theorem State.setHost_dbg (h : Nat) (x : HostSt) : (s.setHost h x).dbg = s.dbg := rfl
@[simp] theorem State.setHost_logs (h : Nat) (x : HostSt) : (s.setHost h x).logs = s.logs := rfl
@[simp] theorem State.setHost_irq (h : Nat) (x : HostSt) : (s.setHost h x).irq = s.irq := rfl
@[simp] theorem State.setHost_clk (h : Nat) (x : HostSt) : (s.setHost h x).clk = s.clk := rfl
@[simp] theorem State.setHost_noc (h : Nat) (x : HostSt) : (s.setHost h x).noc = s.noc := rfl
@[simp] theorem State.setHost_span (h : Nat) (x : HostSt) : (s.setHost h x).span = s.span := rfl
@[simp] theorem State.setHost_inject (h : Nat) (x : HostSt) : (s.setHost h x).inject = s.inject := rfl
@[simp] theorem State.setHost_prbs (h : Nat) (x : HostSt) : (s.setHost h x).prbs = s.prbs := rfl
@[simp] theorem State.setHost_dram (h : Nat) (x : HostSt) : (s.setHost h x).dram = s.dram := rfl
@[simp] theorem State.setHost_procs (h : Nat) (x : HostSt) : (s.setHost h x).procs = s.procs := rfl
@[simp] theorem State.setHost_cfg (h : Nat) (x : HostSt) : (s.setHost h x).cfg = s.cfg := rfl
@[simp] theorem State.setHost_img (h : Nat) (x : HostSt) : (s.setHost h x).img = s.img := rfl
@[simp] theorem State.setHost_churn (h : Nat) (x : HostSt) : (s.setHost h x).churn = s.churn := rfl
@[simp] theorem State.setHost_fab (h : Nat) (x : HostSt) : (s.setHost h x).fab = s.fab := rfl
@[simp] theorem State.setHost_slc (h : Nat) (x : HostSt) : (s.setHost h x).slc = s.slc := rfl
@[simp] theorem State.setHost_mem (h : Nat) (x : HostSt) : (s.setHost h x).mem = s.mem := rfl
@[simp] theorem State.setHost_time (h : Nat) (x : HostSt) : (s.setHost h x).time = s.time := rfl
@[simp] theorem State.setHost_cel (h : Nat) (x : HostSt) : (s.setHost h x).cel = s.cel := rfl
@[simp] theorem State.setHost_scr (h : Nat) (x : HostSt) : (s.setHost h x).scr = s.scr := rfl
@[simp] theorem State.setHost_fen (h : Nat) (x : HostSt) : (s.setHost h x).fen = s.fen := rfl
@[simp] theorem State.setHost_dma (h : Nat) (x : HostSt) : (s.setHost h x).dma = s.dma := rfl
@[simp] theorem State.setHost_svc (h : Nat) (x : HostSt) : (s.setHost h x).svc = s.svc := rfl
@[simp] theorem State.setHost_cores (h : Nat) (x : HostSt) : (s.setHost h x).cores = s.cores := rfl
@[simp] theorem State.setHost_pwr (h : Nat) (x : HostSt) : (s.setHost h x).pwr = s.pwr := rfl
@[simp] theorem State.setHost_lcs (h : Nat) (x : HostSt) : (s.setHost h x).lcs = s.lcs := rfl
@[simp] theorem State.setHost_bist (h : Nat) (x : HostSt) : (s.setHost h x).bist = s.bist := rfl
@[simp] theorem State.setHost_pins (h : Nat) (x : HostSt) : (s.setHost h x).pins = s.pins := rfl
@[simp] theorem State.setHost_pending (h : Nat) (x : HostSt) : (s.setHost h x).pending = s.pending := rfl

/-! `State.ctrClear`. -/

@[simp] theorem State.ctrClear_regs (off : Nat) : (s.ctrClear off).regs = s.regs := rfl
@[simp] theorem State.ctrClear_latches (off : Nat) : (s.ctrClear off).latches = s.latches := rfl
@[simp] theorem State.ctrClear_mtime (off : Nat) : (s.ctrClear off).mtime = s.mtime := rfl
@[simp] theorem State.ctrClear_freeCtr (off : Nat) : (s.ctrClear off).freeCtr = s.freeCtr := rfl
@[simp] theorem State.ctrClear_answer (off : Nat) : (s.ctrClear off).answer = s.answer := rfl
@[simp] theorem State.ctrClear_mgt (off : Nat) : (s.ctrClear off).mgt = s.mgt := rfl
@[simp] theorem State.ctrClear_dbg (off : Nat) : (s.ctrClear off).dbg = s.dbg := rfl
@[simp] theorem State.ctrClear_logs (off : Nat) : (s.ctrClear off).logs = s.logs := rfl
@[simp] theorem State.ctrClear_irq (off : Nat) : (s.ctrClear off).irq = s.irq := rfl
@[simp] theorem State.ctrClear_clk (off : Nat) : (s.ctrClear off).clk = s.clk := rfl
@[simp] theorem State.ctrClear_noc (off : Nat) : (s.ctrClear off).noc = s.noc := rfl
@[simp] theorem State.ctrClear_span (off : Nat) : (s.ctrClear off).span = s.span := rfl
@[simp] theorem State.ctrClear_inject (off : Nat) : (s.ctrClear off).inject = s.inject := rfl
@[simp] theorem State.ctrClear_prbs (off : Nat) : (s.ctrClear off).prbs = s.prbs := rfl
@[simp] theorem State.ctrClear_dram (off : Nat) : (s.ctrClear off).dram = s.dram := rfl
@[simp] theorem State.ctrClear_procs (off : Nat) : (s.ctrClear off).procs = s.procs := rfl
@[simp] theorem State.ctrClear_cfg (off : Nat) : (s.ctrClear off).cfg = s.cfg := rfl
@[simp] theorem State.ctrClear_img (off : Nat) : (s.ctrClear off).img = s.img := rfl
@[simp] theorem State.ctrClear_churn (off : Nat) : (s.ctrClear off).churn = s.churn := rfl
@[simp] theorem State.ctrClear_fab (off : Nat) : (s.ctrClear off).fab = s.fab := rfl
@[simp] theorem State.ctrClear_slc (off : Nat) : (s.ctrClear off).slc = s.slc := rfl
@[simp] theorem State.ctrClear_mem (off : Nat) : (s.ctrClear off).mem = s.mem := rfl
@[simp] theorem State.ctrClear_time (off : Nat) : (s.ctrClear off).time = s.time := rfl
@[simp] theorem State.ctrClear_cel (off : Nat) : (s.ctrClear off).cel = s.cel := rfl
@[simp] theorem State.ctrClear_scr (off : Nat) : (s.ctrClear off).scr = s.scr := rfl
@[simp] theorem State.ctrClear_fen (off : Nat) : (s.ctrClear off).fen = s.fen := rfl
@[simp] theorem State.ctrClear_dma (off : Nat) : (s.ctrClear off).dma = s.dma := rfl
@[simp] theorem State.ctrClear_svc (off : Nat) : (s.ctrClear off).svc = s.svc := rfl
@[simp] theorem State.ctrClear_cores (off : Nat) : (s.ctrClear off).cores = s.cores := rfl
@[simp] theorem State.ctrClear_pwr (off : Nat) : (s.ctrClear off).pwr = s.pwr := rfl
@[simp] theorem State.ctrClear_lcs (off : Nat) : (s.ctrClear off).lcs = s.lcs := rfl
@[simp] theorem State.ctrClear_bist (off : Nat) : (s.ctrClear off).bist = s.bist := rfl
@[simp] theorem State.ctrClear_pins (off : Nat) : (s.ctrClear off).pins = s.pins := rfl
@[simp] theorem State.ctrClear_pending (off : Nat) : (s.ctrClear off).pending = s.pending := rfl

/-! `State.ctrLatch`. -/

@[simp] theorem State.ctrLatch_regs (off : Nat) : (s.ctrLatch off).regs = s.regs := rfl
@[simp] theorem State.ctrLatch_latches (off : Nat) : (s.ctrLatch off).latches = s.latches := rfl
@[simp] theorem State.ctrLatch_mtime (off : Nat) : (s.ctrLatch off).mtime = s.mtime := rfl
@[simp] theorem State.ctrLatch_freeCtr (off : Nat) : (s.ctrLatch off).freeCtr = s.freeCtr := rfl
@[simp] theorem State.ctrLatch_answer (off : Nat) : (s.ctrLatch off).answer = s.answer := rfl
@[simp] theorem State.ctrLatch_mgt (off : Nat) : (s.ctrLatch off).mgt = s.mgt := rfl
@[simp] theorem State.ctrLatch_dbg (off : Nat) : (s.ctrLatch off).dbg = s.dbg := rfl
@[simp] theorem State.ctrLatch_logs (off : Nat) : (s.ctrLatch off).logs = s.logs := rfl
@[simp] theorem State.ctrLatch_irq (off : Nat) : (s.ctrLatch off).irq = s.irq := rfl
@[simp] theorem State.ctrLatch_clk (off : Nat) : (s.ctrLatch off).clk = s.clk := rfl
@[simp] theorem State.ctrLatch_noc (off : Nat) : (s.ctrLatch off).noc = s.noc := rfl
@[simp] theorem State.ctrLatch_span (off : Nat) : (s.ctrLatch off).span = s.span := rfl
@[simp] theorem State.ctrLatch_inject (off : Nat) : (s.ctrLatch off).inject = s.inject := rfl
@[simp] theorem State.ctrLatch_prbs (off : Nat) : (s.ctrLatch off).prbs = s.prbs := rfl
@[simp] theorem State.ctrLatch_dram (off : Nat) : (s.ctrLatch off).dram = s.dram := rfl
@[simp] theorem State.ctrLatch_procs (off : Nat) : (s.ctrLatch off).procs = s.procs := rfl
@[simp] theorem State.ctrLatch_cfg (off : Nat) : (s.ctrLatch off).cfg = s.cfg := rfl
@[simp] theorem State.ctrLatch_img (off : Nat) : (s.ctrLatch off).img = s.img := rfl
@[simp] theorem State.ctrLatch_churn (off : Nat) : (s.ctrLatch off).churn = s.churn := rfl
@[simp] theorem State.ctrLatch_fab (off : Nat) : (s.ctrLatch off).fab = s.fab := rfl
@[simp] theorem State.ctrLatch_slc (off : Nat) : (s.ctrLatch off).slc = s.slc := rfl
@[simp] theorem State.ctrLatch_mem (off : Nat) : (s.ctrLatch off).mem = s.mem := rfl
@[simp] theorem State.ctrLatch_time (off : Nat) : (s.ctrLatch off).time = s.time := rfl
@[simp] theorem State.ctrLatch_cel (off : Nat) : (s.ctrLatch off).cel = s.cel := rfl
@[simp] theorem State.ctrLatch_scr (off : Nat) : (s.ctrLatch off).scr = s.scr := rfl
@[simp] theorem State.ctrLatch_fen (off : Nat) : (s.ctrLatch off).fen = s.fen := rfl
@[simp] theorem State.ctrLatch_dma (off : Nat) : (s.ctrLatch off).dma = s.dma := rfl
@[simp] theorem State.ctrLatch_svc (off : Nat) : (s.ctrLatch off).svc = s.svc := rfl
@[simp] theorem State.ctrLatch_cores (off : Nat) : (s.ctrLatch off).cores = s.cores := rfl
@[simp] theorem State.ctrLatch_pwr (off : Nat) : (s.ctrLatch off).pwr = s.pwr := rfl
@[simp] theorem State.ctrLatch_lcs (off : Nat) : (s.ctrLatch off).lcs = s.lcs := rfl
@[simp] theorem State.ctrLatch_bist (off : Nat) : (s.ctrLatch off).bist = s.bist := rfl
@[simp] theorem State.ctrLatch_pins (off : Nat) : (s.ctrLatch off).pins = s.pins := rfl
@[simp] theorem State.ctrLatch_pending (off : Nat) : (s.ctrLatch off).pending = s.pending := rfl

/-! `State.setPairLatch`. -/

@[simp] theorem State.setPairLatch_regs (off : Nat) (w : Word) : (s.setPairLatch off w).regs = s.regs := rfl
@[simp] theorem State.setPairLatch_ctrs (off : Nat) (w : Word) : (s.setPairLatch off w).ctrs = s.ctrs := rfl
@[simp] theorem State.setPairLatch_latches (off : Nat) (w : Word) : (s.setPairLatch off w).latches = tput s.latches off w 0 := rfl
@[simp] theorem State.setPairLatch_mtime (off : Nat) (w : Word) : (s.setPairLatch off w).mtime = s.mtime := rfl
@[simp] theorem State.setPairLatch_freeCtr (off : Nat) (w : Word) : (s.setPairLatch off w).freeCtr = s.freeCtr := rfl
@[simp] theorem State.setPairLatch_answer (off : Nat) (w : Word) : (s.setPairLatch off w).answer = s.answer := rfl
@[simp] theorem State.setPairLatch_mgt (off : Nat) (w : Word) : (s.setPairLatch off w).mgt = s.mgt := rfl
@[simp] theorem State.setPairLatch_dbg (off : Nat) (w : Word) : (s.setPairLatch off w).dbg = s.dbg := rfl
@[simp] theorem State.setPairLatch_logs (off : Nat) (w : Word) : (s.setPairLatch off w).logs = s.logs := rfl
@[simp] theorem State.setPairLatch_irq (off : Nat) (w : Word) : (s.setPairLatch off w).irq = s.irq := rfl
@[simp] theorem State.setPairLatch_clk (off : Nat) (w : Word) : (s.setPairLatch off w).clk = s.clk := rfl
@[simp] theorem State.setPairLatch_noc (off : Nat) (w : Word) : (s.setPairLatch off w).noc = s.noc := rfl
@[simp] theorem State.setPairLatch_span (off : Nat) (w : Word) : (s.setPairLatch off w).span = s.span := rfl
@[simp] theorem State.setPairLatch_inject (off : Nat) (w : Word) : (s.setPairLatch off w).inject = s.inject := rfl
@[simp] theorem State.setPairLatch_prbs (off : Nat) (w : Word) : (s.setPairLatch off w).prbs = s.prbs := rfl
@[simp] theorem State.setPairLatch_dram (off : Nat) (w : Word) : (s.setPairLatch off w).dram = s.dram := rfl
@[simp] theorem State.setPairLatch_procs (off : Nat) (w : Word) : (s.setPairLatch off w).procs = s.procs := rfl
@[simp] theorem State.setPairLatch_cfg (off : Nat) (w : Word) : (s.setPairLatch off w).cfg = s.cfg := rfl
@[simp] theorem State.setPairLatch_img (off : Nat) (w : Word) : (s.setPairLatch off w).img = s.img := rfl
@[simp] theorem State.setPairLatch_churn (off : Nat) (w : Word) : (s.setPairLatch off w).churn = s.churn := rfl
@[simp] theorem State.setPairLatch_fab (off : Nat) (w : Word) : (s.setPairLatch off w).fab = s.fab := rfl
@[simp] theorem State.setPairLatch_slc (off : Nat) (w : Word) : (s.setPairLatch off w).slc = s.slc := rfl
@[simp] theorem State.setPairLatch_mem (off : Nat) (w : Word) : (s.setPairLatch off w).mem = s.mem := rfl
@[simp] theorem State.setPairLatch_time (off : Nat) (w : Word) : (s.setPairLatch off w).time = s.time := rfl
@[simp] theorem State.setPairLatch_cel (off : Nat) (w : Word) : (s.setPairLatch off w).cel = s.cel := rfl
@[simp] theorem State.setPairLatch_scr (off : Nat) (w : Word) : (s.setPairLatch off w).scr = s.scr := rfl
@[simp] theorem State.setPairLatch_fen (off : Nat) (w : Word) : (s.setPairLatch off w).fen = s.fen := rfl
@[simp] theorem State.setPairLatch_dma (off : Nat) (w : Word) : (s.setPairLatch off w).dma = s.dma := rfl
@[simp] theorem State.setPairLatch_svc (off : Nat) (w : Word) : (s.setPairLatch off w).svc = s.svc := rfl
@[simp] theorem State.setPairLatch_cores (off : Nat) (w : Word) : (s.setPairLatch off w).cores = s.cores := rfl
@[simp] theorem State.setPairLatch_pwr (off : Nat) (w : Word) : (s.setPairLatch off w).pwr = s.pwr := rfl
@[simp] theorem State.setPairLatch_lcs (off : Nat) (w : Word) : (s.setPairLatch off w).lcs = s.lcs := rfl
@[simp] theorem State.setPairLatch_bist (off : Nat) (w : Word) : (s.setPairLatch off w).bist = s.bist := rfl
@[simp] theorem State.setPairLatch_pins (off : Nat) (w : Word) : (s.setPairLatch off w).pins = s.pins := rfl
@[simp] theorem State.setPairLatch_pending (off : Nat) (w : Word) : (s.setPairLatch off w).pending = s.pending := rfl

/-! `State.setChan`. -/

@[simp] theorem State.setChan_regs (n : Nat) (c : DramCh) : (s.setChan n c).regs = s.regs := rfl
@[simp] theorem State.setChan_ctrs (n : Nat) (c : DramCh) : (s.setChan n c).ctrs = s.ctrs := rfl
@[simp] theorem State.setChan_latches (n : Nat) (c : DramCh) : (s.setChan n c).latches = s.latches := rfl
@[simp] theorem State.setChan_mtime (n : Nat) (c : DramCh) : (s.setChan n c).mtime = s.mtime := rfl
@[simp] theorem State.setChan_freeCtr (n : Nat) (c : DramCh) : (s.setChan n c).freeCtr = s.freeCtr := rfl
@[simp] theorem State.setChan_answer (n : Nat) (c : DramCh) : (s.setChan n c).answer = s.answer := rfl
@[simp] theorem State.setChan_mgt (n : Nat) (c : DramCh) : (s.setChan n c).mgt = s.mgt := rfl
@[simp] theorem State.setChan_dbg (n : Nat) (c : DramCh) : (s.setChan n c).dbg = s.dbg := rfl
@[simp] theorem State.setChan_logs (n : Nat) (c : DramCh) : (s.setChan n c).logs = s.logs := rfl
@[simp] theorem State.setChan_irq (n : Nat) (c : DramCh) : (s.setChan n c).irq = s.irq := rfl
@[simp] theorem State.setChan_clk (n : Nat) (c : DramCh) : (s.setChan n c).clk = s.clk := rfl
@[simp] theorem State.setChan_noc (n : Nat) (c : DramCh) : (s.setChan n c).noc = s.noc := rfl
@[simp] theorem State.setChan_span (n : Nat) (c : DramCh) : (s.setChan n c).span = s.span := rfl
@[simp] theorem State.setChan_inject (n : Nat) (c : DramCh) : (s.setChan n c).inject = s.inject := rfl
@[simp] theorem State.setChan_prbs (n : Nat) (c : DramCh) : (s.setChan n c).prbs = s.prbs := rfl
@[simp] theorem State.setChan_dram (n : Nat) (c : DramCh) : (s.setChan n c).dram = { s.dram with ch := tput s.dram.ch n c {} } := rfl
@[simp] theorem State.setChan_procs (n : Nat) (c : DramCh) : (s.setChan n c).procs = s.procs := rfl
@[simp] theorem State.setChan_cfg (n : Nat) (c : DramCh) : (s.setChan n c).cfg = s.cfg := rfl
@[simp] theorem State.setChan_img (n : Nat) (c : DramCh) : (s.setChan n c).img = s.img := rfl
@[simp] theorem State.setChan_churn (n : Nat) (c : DramCh) : (s.setChan n c).churn = s.churn := rfl
@[simp] theorem State.setChan_fab (n : Nat) (c : DramCh) : (s.setChan n c).fab = s.fab := rfl
@[simp] theorem State.setChan_slc (n : Nat) (c : DramCh) : (s.setChan n c).slc = s.slc := rfl
@[simp] theorem State.setChan_mem (n : Nat) (c : DramCh) : (s.setChan n c).mem = s.mem := rfl
@[simp] theorem State.setChan_time (n : Nat) (c : DramCh) : (s.setChan n c).time = s.time := rfl
@[simp] theorem State.setChan_cel (n : Nat) (c : DramCh) : (s.setChan n c).cel = s.cel := rfl
@[simp] theorem State.setChan_scr (n : Nat) (c : DramCh) : (s.setChan n c).scr = s.scr := rfl
@[simp] theorem State.setChan_fen (n : Nat) (c : DramCh) : (s.setChan n c).fen = s.fen := rfl
@[simp] theorem State.setChan_dma (n : Nat) (c : DramCh) : (s.setChan n c).dma = s.dma := rfl
@[simp] theorem State.setChan_svc (n : Nat) (c : DramCh) : (s.setChan n c).svc = s.svc := rfl
@[simp] theorem State.setChan_cores (n : Nat) (c : DramCh) : (s.setChan n c).cores = s.cores := rfl
@[simp] theorem State.setChan_pwr (n : Nat) (c : DramCh) : (s.setChan n c).pwr = s.pwr := rfl
@[simp] theorem State.setChan_lcs (n : Nat) (c : DramCh) : (s.setChan n c).lcs = s.lcs := rfl
@[simp] theorem State.setChan_bist (n : Nat) (c : DramCh) : (s.setChan n c).bist = s.bist := rfl
@[simp] theorem State.setChan_pins (n : Nat) (c : DramCh) : (s.setChan n c).pins = s.pins := rfl
@[simp] theorem State.setChan_pending (n : Nat) (c : DramCh) : (s.setChan n c).pending = s.pending := rfl

/-! `State.setProc`. -/

@[simp] theorem State.setProc_regs (c : Nat) (p : Proc) : (s.setProc c p).regs = s.regs := rfl
@[simp] theorem State.setProc_ctrs (c : Nat) (p : Proc) : (s.setProc c p).ctrs = s.ctrs := rfl
@[simp] theorem State.setProc_latches (c : Nat) (p : Proc) : (s.setProc c p).latches = s.latches := rfl
@[simp] theorem State.setProc_mtime (c : Nat) (p : Proc) : (s.setProc c p).mtime = s.mtime := rfl
@[simp] theorem State.setProc_freeCtr (c : Nat) (p : Proc) : (s.setProc c p).freeCtr = s.freeCtr := rfl
@[simp] theorem State.setProc_answer (c : Nat) (p : Proc) : (s.setProc c p).answer = s.answer := rfl
@[simp] theorem State.setProc_mgt (c : Nat) (p : Proc) : (s.setProc c p).mgt = s.mgt := rfl
@[simp] theorem State.setProc_dbg (c : Nat) (p : Proc) : (s.setProc c p).dbg = s.dbg := rfl
@[simp] theorem State.setProc_logs (c : Nat) (p : Proc) : (s.setProc c p).logs = s.logs := rfl
@[simp] theorem State.setProc_irq (c : Nat) (p : Proc) : (s.setProc c p).irq = s.irq := rfl
@[simp] theorem State.setProc_clk (c : Nat) (p : Proc) : (s.setProc c p).clk = s.clk := rfl
@[simp] theorem State.setProc_noc (c : Nat) (p : Proc) : (s.setProc c p).noc = s.noc := rfl
@[simp] theorem State.setProc_span (c : Nat) (p : Proc) : (s.setProc c p).span = s.span := rfl
@[simp] theorem State.setProc_inject (c : Nat) (p : Proc) : (s.setProc c p).inject = s.inject := rfl
@[simp] theorem State.setProc_prbs (c : Nat) (p : Proc) : (s.setProc c p).prbs = s.prbs := rfl
@[simp] theorem State.setProc_dram (c : Nat) (p : Proc) : (s.setProc c p).dram = s.dram := rfl
@[simp] theorem State.setProc_procs (c : Nat) (p : Proc) : (s.setProc c p).procs = tput s.procs c p {} := rfl
@[simp] theorem State.setProc_cfg (c : Nat) (p : Proc) : (s.setProc c p).cfg = s.cfg := rfl
@[simp] theorem State.setProc_img (c : Nat) (p : Proc) : (s.setProc c p).img = s.img := rfl
@[simp] theorem State.setProc_churn (c : Nat) (p : Proc) : (s.setProc c p).churn = s.churn := rfl
@[simp] theorem State.setProc_fab (c : Nat) (p : Proc) : (s.setProc c p).fab = s.fab := rfl
@[simp] theorem State.setProc_slc (c : Nat) (p : Proc) : (s.setProc c p).slc = s.slc := rfl
@[simp] theorem State.setProc_mem (c : Nat) (p : Proc) : (s.setProc c p).mem = s.mem := rfl
@[simp] theorem State.setProc_time (c : Nat) (p : Proc) : (s.setProc c p).time = s.time := rfl
@[simp] theorem State.setProc_cel (c : Nat) (p : Proc) : (s.setProc c p).cel = s.cel := rfl
@[simp] theorem State.setProc_scr (c : Nat) (p : Proc) : (s.setProc c p).scr = s.scr := rfl
@[simp] theorem State.setProc_fen (c : Nat) (p : Proc) : (s.setProc c p).fen = s.fen := rfl
@[simp] theorem State.setProc_dma (c : Nat) (p : Proc) : (s.setProc c p).dma = s.dma := rfl
@[simp] theorem State.setProc_svc (c : Nat) (p : Proc) : (s.setProc c p).svc = s.svc := rfl
@[simp] theorem State.setProc_cores (c : Nat) (p : Proc) : (s.setProc c p).cores = s.cores := rfl
@[simp] theorem State.setProc_pwr (c : Nat) (p : Proc) : (s.setProc c p).pwr = s.pwr := rfl
@[simp] theorem State.setProc_lcs (c : Nat) (p : Proc) : (s.setProc c p).lcs = s.lcs := rfl
@[simp] theorem State.setProc_bist (c : Nat) (p : Proc) : (s.setProc c p).bist = s.bist := rfl
@[simp] theorem State.setProc_pins (c : Nat) (p : Proc) : (s.setProc c p).pins = s.pins := rfl
@[simp] theorem State.setProc_pending (c : Nat) (p : Proc) : (s.setProc c p).pending = s.pending := rfl

/-! `State.setPort`. -/

@[simp] theorem State.setPort_regs (k : Nat) (p : SpanPort) : (s.setPort k p).regs = s.regs := rfl
@[simp] theorem State.setPort_ctrs (k : Nat) (p : SpanPort) : (s.setPort k p).ctrs = s.ctrs := rfl
@[simp] theorem State.setPort_latches (k : Nat) (p : SpanPort) : (s.setPort k p).latches = s.latches := rfl
@[simp] theorem State.setPort_mtime (k : Nat) (p : SpanPort) : (s.setPort k p).mtime = s.mtime := rfl
@[simp] theorem State.setPort_freeCtr (k : Nat) (p : SpanPort) : (s.setPort k p).freeCtr = s.freeCtr := rfl
@[simp] theorem State.setPort_answer (k : Nat) (p : SpanPort) : (s.setPort k p).answer = s.answer := rfl
@[simp] theorem State.setPort_mgt (k : Nat) (p : SpanPort) : (s.setPort k p).mgt = s.mgt := rfl
@[simp] theorem State.setPort_dbg (k : Nat) (p : SpanPort) : (s.setPort k p).dbg = s.dbg := rfl
@[simp] theorem State.setPort_logs (k : Nat) (p : SpanPort) : (s.setPort k p).logs = s.logs := rfl
@[simp] theorem State.setPort_irq (k : Nat) (p : SpanPort) : (s.setPort k p).irq = s.irq := rfl
@[simp] theorem State.setPort_clk (k : Nat) (p : SpanPort) : (s.setPort k p).clk = s.clk := rfl
@[simp] theorem State.setPort_noc (k : Nat) (p : SpanPort) : (s.setPort k p).noc = s.noc := rfl
@[simp] theorem State.setPort_span (k : Nat) (p : SpanPort) : (s.setPort k p).span = tput s.span k p {} := rfl
@[simp] theorem State.setPort_inject (k : Nat) (p : SpanPort) : (s.setPort k p).inject = s.inject := rfl
@[simp] theorem State.setPort_prbs (k : Nat) (p : SpanPort) : (s.setPort k p).prbs = s.prbs := rfl
@[simp] theorem State.setPort_dram (k : Nat) (p : SpanPort) : (s.setPort k p).dram = s.dram := rfl
@[simp] theorem State.setPort_procs (k : Nat) (p : SpanPort) : (s.setPort k p).procs = s.procs := rfl
@[simp] theorem State.setPort_cfg (k : Nat) (p : SpanPort) : (s.setPort k p).cfg = s.cfg := rfl
@[simp] theorem State.setPort_img (k : Nat) (p : SpanPort) : (s.setPort k p).img = s.img := rfl
@[simp] theorem State.setPort_churn (k : Nat) (p : SpanPort) : (s.setPort k p).churn = s.churn := rfl
@[simp] theorem State.setPort_fab (k : Nat) (p : SpanPort) : (s.setPort k p).fab = s.fab := rfl
@[simp] theorem State.setPort_slc (k : Nat) (p : SpanPort) : (s.setPort k p).slc = s.slc := rfl
@[simp] theorem State.setPort_mem (k : Nat) (p : SpanPort) : (s.setPort k p).mem = s.mem := rfl
@[simp] theorem State.setPort_time (k : Nat) (p : SpanPort) : (s.setPort k p).time = s.time := rfl
@[simp] theorem State.setPort_cel (k : Nat) (p : SpanPort) : (s.setPort k p).cel = s.cel := rfl
@[simp] theorem State.setPort_scr (k : Nat) (p : SpanPort) : (s.setPort k p).scr = s.scr := rfl
@[simp] theorem State.setPort_fen (k : Nat) (p : SpanPort) : (s.setPort k p).fen = s.fen := rfl
@[simp] theorem State.setPort_dma (k : Nat) (p : SpanPort) : (s.setPort k p).dma = s.dma := rfl
@[simp] theorem State.setPort_svc (k : Nat) (p : SpanPort) : (s.setPort k p).svc = s.svc := rfl
@[simp] theorem State.setPort_cores (k : Nat) (p : SpanPort) : (s.setPort k p).cores = s.cores := rfl
@[simp] theorem State.setPort_pwr (k : Nat) (p : SpanPort) : (s.setPort k p).pwr = s.pwr := rfl
@[simp] theorem State.setPort_lcs (k : Nat) (p : SpanPort) : (s.setPort k p).lcs = s.lcs := rfl
@[simp] theorem State.setPort_bist (k : Nat) (p : SpanPort) : (s.setPort k p).bist = s.bist := rfl
@[simp] theorem State.setPort_pins (k : Nat) (p : SpanPort) : (s.setPort k p).pins = s.pins := rfl
@[simp] theorem State.setPort_pending (k : Nat) (p : SpanPort) : (s.setPort k p).pending = s.pending := rfl

/-! `State.setFport`. -/

@[simp] theorem State.setFport_regs (m : Nat) (p : FenPort) : (s.setFport m p).regs = s.regs := rfl
@[simp] theorem State.setFport_ctrs (m : Nat) (p : FenPort) : (s.setFport m p).ctrs = s.ctrs := rfl
@[simp] theorem State.setFport_latches (m : Nat) (p : FenPort) : (s.setFport m p).latches = s.latches := rfl
@[simp] theorem State.setFport_mtime (m : Nat) (p : FenPort) : (s.setFport m p).mtime = s.mtime := rfl
@[simp] theorem State.setFport_freeCtr (m : Nat) (p : FenPort) : (s.setFport m p).freeCtr = s.freeCtr := rfl
@[simp] theorem State.setFport_answer (m : Nat) (p : FenPort) : (s.setFport m p).answer = s.answer := rfl
@[simp] theorem State.setFport_mgt (m : Nat) (p : FenPort) : (s.setFport m p).mgt = s.mgt := rfl
@[simp] theorem State.setFport_dbg (m : Nat) (p : FenPort) : (s.setFport m p).dbg = s.dbg := rfl
@[simp] theorem State.setFport_logs (m : Nat) (p : FenPort) : (s.setFport m p).logs = s.logs := rfl
@[simp] theorem State.setFport_irq (m : Nat) (p : FenPort) : (s.setFport m p).irq = s.irq := rfl
@[simp] theorem State.setFport_clk (m : Nat) (p : FenPort) : (s.setFport m p).clk = s.clk := rfl
@[simp] theorem State.setFport_noc (m : Nat) (p : FenPort) : (s.setFport m p).noc = s.noc := rfl
@[simp] theorem State.setFport_span (m : Nat) (p : FenPort) : (s.setFport m p).span = s.span := rfl
@[simp] theorem State.setFport_inject (m : Nat) (p : FenPort) : (s.setFport m p).inject = s.inject := rfl
@[simp] theorem State.setFport_prbs (m : Nat) (p : FenPort) : (s.setFport m p).prbs = s.prbs := rfl
@[simp] theorem State.setFport_dram (m : Nat) (p : FenPort) : (s.setFport m p).dram = s.dram := rfl
@[simp] theorem State.setFport_procs (m : Nat) (p : FenPort) : (s.setFport m p).procs = s.procs := rfl
@[simp] theorem State.setFport_cfg (m : Nat) (p : FenPort) : (s.setFport m p).cfg = s.cfg := rfl
@[simp] theorem State.setFport_img (m : Nat) (p : FenPort) : (s.setFport m p).img = s.img := rfl
@[simp] theorem State.setFport_churn (m : Nat) (p : FenPort) : (s.setFport m p).churn = s.churn := rfl
@[simp] theorem State.setFport_fab (m : Nat) (p : FenPort) : (s.setFport m p).fab = s.fab := rfl
@[simp] theorem State.setFport_slc (m : Nat) (p : FenPort) : (s.setFport m p).slc = s.slc := rfl
@[simp] theorem State.setFport_mem (m : Nat) (p : FenPort) : (s.setFport m p).mem = s.mem := rfl
@[simp] theorem State.setFport_time (m : Nat) (p : FenPort) : (s.setFport m p).time = s.time := rfl
@[simp] theorem State.setFport_cel (m : Nat) (p : FenPort) : (s.setFport m p).cel = s.cel := rfl
@[simp] theorem State.setFport_scr (m : Nat) (p : FenPort) : (s.setFport m p).scr = s.scr := rfl
@[simp] theorem State.setFport_fen (m : Nat) (p : FenPort) : (s.setFport m p).fen = { s.fen with port := tput s.fen.port m p {} } := rfl
@[simp] theorem State.setFport_dma (m : Nat) (p : FenPort) : (s.setFport m p).dma = s.dma := rfl
@[simp] theorem State.setFport_svc (m : Nat) (p : FenPort) : (s.setFport m p).svc = s.svc := rfl
@[simp] theorem State.setFport_cores (m : Nat) (p : FenPort) : (s.setFport m p).cores = s.cores := rfl
@[simp] theorem State.setFport_pwr (m : Nat) (p : FenPort) : (s.setFport m p).pwr = s.pwr := rfl
@[simp] theorem State.setFport_lcs (m : Nat) (p : FenPort) : (s.setFport m p).lcs = s.lcs := rfl
@[simp] theorem State.setFport_bist (m : Nat) (p : FenPort) : (s.setFport m p).bist = s.bist := rfl
@[simp] theorem State.setFport_pins (m : Nat) (p : FenPort) : (s.setFport m p).pins = s.pins := rfl
@[simp] theorem State.setFport_pending (m : Nat) (p : FenPort) : (s.setFport m p).pending = s.pending := rfl

/-! `State.setSlice`. -/

@[simp] theorem State.setSlice_regs (g : Nat) (x : SliceSt) : (s.setSlice g x).regs = s.regs := rfl
@[simp] theorem State.setSlice_ctrs (g : Nat) (x : SliceSt) : (s.setSlice g x).ctrs = s.ctrs := rfl
@[simp] theorem State.setSlice_latches (g : Nat) (x : SliceSt) : (s.setSlice g x).latches = s.latches := rfl
@[simp] theorem State.setSlice_mtime (g : Nat) (x : SliceSt) : (s.setSlice g x).mtime = s.mtime := rfl
@[simp] theorem State.setSlice_freeCtr (g : Nat) (x : SliceSt) : (s.setSlice g x).freeCtr = s.freeCtr := rfl
@[simp] theorem State.setSlice_answer (g : Nat) (x : SliceSt) : (s.setSlice g x).answer = s.answer := rfl
@[simp] theorem State.setSlice_mgt (g : Nat) (x : SliceSt) : (s.setSlice g x).mgt = s.mgt := rfl
@[simp] theorem State.setSlice_dbg (g : Nat) (x : SliceSt) : (s.setSlice g x).dbg = s.dbg := rfl
@[simp] theorem State.setSlice_logs (g : Nat) (x : SliceSt) : (s.setSlice g x).logs = s.logs := rfl
@[simp] theorem State.setSlice_irq (g : Nat) (x : SliceSt) : (s.setSlice g x).irq = s.irq := rfl
@[simp] theorem State.setSlice_clk (g : Nat) (x : SliceSt) : (s.setSlice g x).clk = s.clk := rfl
@[simp] theorem State.setSlice_noc (g : Nat) (x : SliceSt) : (s.setSlice g x).noc = s.noc := rfl
@[simp] theorem State.setSlice_span (g : Nat) (x : SliceSt) : (s.setSlice g x).span = s.span := rfl
@[simp] theorem State.setSlice_inject (g : Nat) (x : SliceSt) : (s.setSlice g x).inject = s.inject := rfl
@[simp] theorem State.setSlice_prbs (g : Nat) (x : SliceSt) : (s.setSlice g x).prbs = s.prbs := rfl
@[simp] theorem State.setSlice_dram (g : Nat) (x : SliceSt) : (s.setSlice g x).dram = s.dram := rfl
@[simp] theorem State.setSlice_procs (g : Nat) (x : SliceSt) : (s.setSlice g x).procs = s.procs := rfl
@[simp] theorem State.setSlice_cfg (g : Nat) (x : SliceSt) : (s.setSlice g x).cfg = s.cfg := rfl
@[simp] theorem State.setSlice_img (g : Nat) (x : SliceSt) : (s.setSlice g x).img = s.img := rfl
@[simp] theorem State.setSlice_churn (g : Nat) (x : SliceSt) : (s.setSlice g x).churn = s.churn := rfl
@[simp] theorem State.setSlice_fab (g : Nat) (x : SliceSt) : (s.setSlice g x).fab = s.fab := rfl
@[simp] theorem State.setSlice_slc (g : Nat) (x : SliceSt) : (s.setSlice g x).slc = { s.slc with s := tput s.slc.s g x {} } := rfl
@[simp] theorem State.setSlice_mem (g : Nat) (x : SliceSt) : (s.setSlice g x).mem = s.mem := rfl
@[simp] theorem State.setSlice_time (g : Nat) (x : SliceSt) : (s.setSlice g x).time = s.time := rfl
@[simp] theorem State.setSlice_cel (g : Nat) (x : SliceSt) : (s.setSlice g x).cel = s.cel := rfl
@[simp] theorem State.setSlice_scr (g : Nat) (x : SliceSt) : (s.setSlice g x).scr = s.scr := rfl
@[simp] theorem State.setSlice_fen (g : Nat) (x : SliceSt) : (s.setSlice g x).fen = s.fen := rfl
@[simp] theorem State.setSlice_dma (g : Nat) (x : SliceSt) : (s.setSlice g x).dma = s.dma := rfl
@[simp] theorem State.setSlice_svc (g : Nat) (x : SliceSt) : (s.setSlice g x).svc = s.svc := rfl
@[simp] theorem State.setSlice_cores (g : Nat) (x : SliceSt) : (s.setSlice g x).cores = s.cores := rfl
@[simp] theorem State.setSlice_pwr (g : Nat) (x : SliceSt) : (s.setSlice g x).pwr = s.pwr := rfl
@[simp] theorem State.setSlice_lcs (g : Nat) (x : SliceSt) : (s.setSlice g x).lcs = s.lcs := rfl
@[simp] theorem State.setSlice_bist (g : Nat) (x : SliceSt) : (s.setSlice g x).bist = s.bist := rfl
@[simp] theorem State.setSlice_pins (g : Nat) (x : SliceSt) : (s.setSlice g x).pins = s.pins := rfl
@[simp] theorem State.setSlice_pending (g : Nat) (x : SliceSt) : (s.setSlice g x).pending = s.pending := rfl

/-! `State.setTb`. -/

@[simp] theorem State.setTb_regs (b : Nat) (x : TbSt) : (s.setTb b x).regs = s.regs := rfl
@[simp] theorem State.setTb_ctrs (b : Nat) (x : TbSt) : (s.setTb b x).ctrs = s.ctrs := rfl
@[simp] theorem State.setTb_latches (b : Nat) (x : TbSt) : (s.setTb b x).latches = s.latches := rfl
@[simp] theorem State.setTb_mtime (b : Nat) (x : TbSt) : (s.setTb b x).mtime = s.mtime := rfl
@[simp] theorem State.setTb_freeCtr (b : Nat) (x : TbSt) : (s.setTb b x).freeCtr = s.freeCtr := rfl
@[simp] theorem State.setTb_answer (b : Nat) (x : TbSt) : (s.setTb b x).answer = s.answer := rfl
@[simp] theorem State.setTb_mgt (b : Nat) (x : TbSt) : (s.setTb b x).mgt = s.mgt := rfl
@[simp] theorem State.setTb_dbg (b : Nat) (x : TbSt) : (s.setTb b x).dbg = s.dbg := rfl
@[simp] theorem State.setTb_logs (b : Nat) (x : TbSt) : (s.setTb b x).logs = s.logs := rfl
@[simp] theorem State.setTb_irq (b : Nat) (x : TbSt) : (s.setTb b x).irq = s.irq := rfl
@[simp] theorem State.setTb_clk (b : Nat) (x : TbSt) : (s.setTb b x).clk = s.clk := rfl
@[simp] theorem State.setTb_noc (b : Nat) (x : TbSt) : (s.setTb b x).noc = s.noc := rfl
@[simp] theorem State.setTb_span (b : Nat) (x : TbSt) : (s.setTb b x).span = s.span := rfl
@[simp] theorem State.setTb_inject (b : Nat) (x : TbSt) : (s.setTb b x).inject = s.inject := rfl
@[simp] theorem State.setTb_prbs (b : Nat) (x : TbSt) : (s.setTb b x).prbs = s.prbs := rfl
@[simp] theorem State.setTb_dram (b : Nat) (x : TbSt) : (s.setTb b x).dram = s.dram := rfl
@[simp] theorem State.setTb_procs (b : Nat) (x : TbSt) : (s.setTb b x).procs = s.procs := rfl
@[simp] theorem State.setTb_cfg (b : Nat) (x : TbSt) : (s.setTb b x).cfg = s.cfg := rfl
@[simp] theorem State.setTb_img (b : Nat) (x : TbSt) : (s.setTb b x).img = s.img := rfl
@[simp] theorem State.setTb_churn (b : Nat) (x : TbSt) : (s.setTb b x).churn = s.churn := rfl
@[simp] theorem State.setTb_fab (b : Nat) (x : TbSt) : (s.setTb b x).fab = s.fab := rfl
@[simp] theorem State.setTb_slc (b : Nat) (x : TbSt) : (s.setTb b x).slc = s.slc := rfl
@[simp] theorem State.setTb_mem (b : Nat) (x : TbSt) : (s.setTb b x).mem = s.mem := rfl
@[simp] theorem State.setTb_time (b : Nat) (x : TbSt) : (s.setTb b x).time = { s.time with tb := tput s.time.tb b x {} } := rfl
@[simp] theorem State.setTb_cel (b : Nat) (x : TbSt) : (s.setTb b x).cel = s.cel := rfl
@[simp] theorem State.setTb_scr (b : Nat) (x : TbSt) : (s.setTb b x).scr = s.scr := rfl
@[simp] theorem State.setTb_fen (b : Nat) (x : TbSt) : (s.setTb b x).fen = s.fen := rfl
@[simp] theorem State.setTb_dma (b : Nat) (x : TbSt) : (s.setTb b x).dma = s.dma := rfl
@[simp] theorem State.setTb_svc (b : Nat) (x : TbSt) : (s.setTb b x).svc = s.svc := rfl
@[simp] theorem State.setTb_cores (b : Nat) (x : TbSt) : (s.setTb b x).cores = s.cores := rfl
@[simp] theorem State.setTb_pwr (b : Nat) (x : TbSt) : (s.setTb b x).pwr = s.pwr := rfl
@[simp] theorem State.setTb_lcs (b : Nat) (x : TbSt) : (s.setTb b x).lcs = s.lcs := rfl
@[simp] theorem State.setTb_bist (b : Nat) (x : TbSt) : (s.setTb b x).bist = s.bist := rfl
@[simp] theorem State.setTb_pins (b : Nat) (x : TbSt) : (s.setTb b x).pins = s.pins := rfl
@[simp] theorem State.setTb_pending (b : Nat) (x : TbSt) : (s.setTb b x).pending = s.pending := rfl

/-! `State.setDmaCh`. -/

@[simp] theorem State.setDmaCh_regs (c : Nat) (x : DmaCh) : (s.setDmaCh c x).regs = s.regs := rfl
@[simp] theorem State.setDmaCh_ctrs (c : Nat) (x : DmaCh) : (s.setDmaCh c x).ctrs = s.ctrs := rfl
@[simp] theorem State.setDmaCh_latches (c : Nat) (x : DmaCh) : (s.setDmaCh c x).latches = s.latches := rfl
@[simp] theorem State.setDmaCh_mtime (c : Nat) (x : DmaCh) : (s.setDmaCh c x).mtime = s.mtime := rfl
@[simp] theorem State.setDmaCh_freeCtr (c : Nat) (x : DmaCh) : (s.setDmaCh c x).freeCtr = s.freeCtr := rfl
@[simp] theorem State.setDmaCh_answer (c : Nat) (x : DmaCh) : (s.setDmaCh c x).answer = s.answer := rfl
@[simp] theorem State.setDmaCh_mgt (c : Nat) (x : DmaCh) : (s.setDmaCh c x).mgt = s.mgt := rfl
@[simp] theorem State.setDmaCh_dbg (c : Nat) (x : DmaCh) : (s.setDmaCh c x).dbg = s.dbg := rfl
@[simp] theorem State.setDmaCh_logs (c : Nat) (x : DmaCh) : (s.setDmaCh c x).logs = s.logs := rfl
@[simp] theorem State.setDmaCh_irq (c : Nat) (x : DmaCh) : (s.setDmaCh c x).irq = s.irq := rfl
@[simp] theorem State.setDmaCh_clk (c : Nat) (x : DmaCh) : (s.setDmaCh c x).clk = s.clk := rfl
@[simp] theorem State.setDmaCh_noc (c : Nat) (x : DmaCh) : (s.setDmaCh c x).noc = s.noc := rfl
@[simp] theorem State.setDmaCh_span (c : Nat) (x : DmaCh) : (s.setDmaCh c x).span = s.span := rfl
@[simp] theorem State.setDmaCh_inject (c : Nat) (x : DmaCh) : (s.setDmaCh c x).inject = s.inject := rfl
@[simp] theorem State.setDmaCh_prbs (c : Nat) (x : DmaCh) : (s.setDmaCh c x).prbs = s.prbs := rfl
@[simp] theorem State.setDmaCh_dram (c : Nat) (x : DmaCh) : (s.setDmaCh c x).dram = s.dram := rfl
@[simp] theorem State.setDmaCh_procs (c : Nat) (x : DmaCh) : (s.setDmaCh c x).procs = s.procs := rfl
@[simp] theorem State.setDmaCh_cfg (c : Nat) (x : DmaCh) : (s.setDmaCh c x).cfg = s.cfg := rfl
@[simp] theorem State.setDmaCh_img (c : Nat) (x : DmaCh) : (s.setDmaCh c x).img = s.img := rfl
@[simp] theorem State.setDmaCh_churn (c : Nat) (x : DmaCh) : (s.setDmaCh c x).churn = s.churn := rfl
@[simp] theorem State.setDmaCh_fab (c : Nat) (x : DmaCh) : (s.setDmaCh c x).fab = s.fab := rfl
@[simp] theorem State.setDmaCh_slc (c : Nat) (x : DmaCh) : (s.setDmaCh c x).slc = s.slc := rfl
@[simp] theorem State.setDmaCh_mem (c : Nat) (x : DmaCh) : (s.setDmaCh c x).mem = s.mem := rfl
@[simp] theorem State.setDmaCh_time (c : Nat) (x : DmaCh) : (s.setDmaCh c x).time = s.time := rfl
@[simp] theorem State.setDmaCh_cel (c : Nat) (x : DmaCh) : (s.setDmaCh c x).cel = s.cel := rfl
@[simp] theorem State.setDmaCh_scr (c : Nat) (x : DmaCh) : (s.setDmaCh c x).scr = s.scr := rfl
@[simp] theorem State.setDmaCh_fen (c : Nat) (x : DmaCh) : (s.setDmaCh c x).fen = s.fen := rfl
@[simp] theorem State.setDmaCh_dma (c : Nat) (x : DmaCh) : (s.setDmaCh c x).dma = tput s.dma c x {} := rfl
@[simp] theorem State.setDmaCh_svc (c : Nat) (x : DmaCh) : (s.setDmaCh c x).svc = s.svc := rfl
@[simp] theorem State.setDmaCh_cores (c : Nat) (x : DmaCh) : (s.setDmaCh c x).cores = s.cores := rfl
@[simp] theorem State.setDmaCh_pwr (c : Nat) (x : DmaCh) : (s.setDmaCh c x).pwr = s.pwr := rfl
@[simp] theorem State.setDmaCh_lcs (c : Nat) (x : DmaCh) : (s.setDmaCh c x).lcs = s.lcs := rfl
@[simp] theorem State.setDmaCh_bist (c : Nat) (x : DmaCh) : (s.setDmaCh c x).bist = s.bist := rfl
@[simp] theorem State.setDmaCh_pins (c : Nat) (x : DmaCh) : (s.setDmaCh c x).pins = s.pins := rfl
@[simp] theorem State.setDmaCh_pending (c : Nat) (x : DmaCh) : (s.setDmaCh c x).pending = s.pending := rfl

/-! `State.setSvcPort`. -/

@[simp] theorem State.setSvcPort_regs (k : Nat) (p : SvcPort) : (s.setSvcPort k p).regs = s.regs := rfl
@[simp] theorem State.setSvcPort_ctrs (k : Nat) (p : SvcPort) : (s.setSvcPort k p).ctrs = s.ctrs := rfl
@[simp] theorem State.setSvcPort_latches (k : Nat) (p : SvcPort) : (s.setSvcPort k p).latches = s.latches := rfl
@[simp] theorem State.setSvcPort_mtime (k : Nat) (p : SvcPort) : (s.setSvcPort k p).mtime = s.mtime := rfl
@[simp] theorem State.setSvcPort_freeCtr (k : Nat) (p : SvcPort) : (s.setSvcPort k p).freeCtr = s.freeCtr := rfl
@[simp] theorem State.setSvcPort_answer (k : Nat) (p : SvcPort) : (s.setSvcPort k p).answer = s.answer := rfl
@[simp] theorem State.setSvcPort_mgt (k : Nat) (p : SvcPort) : (s.setSvcPort k p).mgt = s.mgt := rfl
@[simp] theorem State.setSvcPort_dbg (k : Nat) (p : SvcPort) : (s.setSvcPort k p).dbg = s.dbg := rfl
@[simp] theorem State.setSvcPort_logs (k : Nat) (p : SvcPort) : (s.setSvcPort k p).logs = s.logs := rfl
@[simp] theorem State.setSvcPort_irq (k : Nat) (p : SvcPort) : (s.setSvcPort k p).irq = s.irq := rfl
@[simp] theorem State.setSvcPort_clk (k : Nat) (p : SvcPort) : (s.setSvcPort k p).clk = s.clk := rfl
@[simp] theorem State.setSvcPort_noc (k : Nat) (p : SvcPort) : (s.setSvcPort k p).noc = s.noc := rfl
@[simp] theorem State.setSvcPort_span (k : Nat) (p : SvcPort) : (s.setSvcPort k p).span = s.span := rfl
@[simp] theorem State.setSvcPort_inject (k : Nat) (p : SvcPort) : (s.setSvcPort k p).inject = s.inject := rfl
@[simp] theorem State.setSvcPort_prbs (k : Nat) (p : SvcPort) : (s.setSvcPort k p).prbs = s.prbs := rfl
@[simp] theorem State.setSvcPort_dram (k : Nat) (p : SvcPort) : (s.setSvcPort k p).dram = s.dram := rfl
@[simp] theorem State.setSvcPort_procs (k : Nat) (p : SvcPort) : (s.setSvcPort k p).procs = s.procs := rfl
@[simp] theorem State.setSvcPort_cfg (k : Nat) (p : SvcPort) : (s.setSvcPort k p).cfg = s.cfg := rfl
@[simp] theorem State.setSvcPort_img (k : Nat) (p : SvcPort) : (s.setSvcPort k p).img = s.img := rfl
@[simp] theorem State.setSvcPort_churn (k : Nat) (p : SvcPort) : (s.setSvcPort k p).churn = s.churn := rfl
@[simp] theorem State.setSvcPort_fab (k : Nat) (p : SvcPort) : (s.setSvcPort k p).fab = s.fab := rfl
@[simp] theorem State.setSvcPort_slc (k : Nat) (p : SvcPort) : (s.setSvcPort k p).slc = s.slc := rfl
@[simp] theorem State.setSvcPort_mem (k : Nat) (p : SvcPort) : (s.setSvcPort k p).mem = s.mem := rfl
@[simp] theorem State.setSvcPort_time (k : Nat) (p : SvcPort) : (s.setSvcPort k p).time = s.time := rfl
@[simp] theorem State.setSvcPort_cel (k : Nat) (p : SvcPort) : (s.setSvcPort k p).cel = s.cel := rfl
@[simp] theorem State.setSvcPort_scr (k : Nat) (p : SvcPort) : (s.setSvcPort k p).scr = s.scr := rfl
@[simp] theorem State.setSvcPort_fen (k : Nat) (p : SvcPort) : (s.setSvcPort k p).fen = s.fen := rfl
@[simp] theorem State.setSvcPort_dma (k : Nat) (p : SvcPort) : (s.setSvcPort k p).dma = s.dma := rfl
@[simp] theorem State.setSvcPort_svc (k : Nat) (p : SvcPort) : (s.setSvcPort k p).svc = tput s.svc k p {} := rfl
@[simp] theorem State.setSvcPort_cores (k : Nat) (p : SvcPort) : (s.setSvcPort k p).cores = s.cores := rfl
@[simp] theorem State.setSvcPort_pwr (k : Nat) (p : SvcPort) : (s.setSvcPort k p).pwr = s.pwr := rfl
@[simp] theorem State.setSvcPort_lcs (k : Nat) (p : SvcPort) : (s.setSvcPort k p).lcs = s.lcs := rfl
@[simp] theorem State.setSvcPort_bist (k : Nat) (p : SvcPort) : (s.setSvcPort k p).bist = s.bist := rfl
@[simp] theorem State.setSvcPort_pins (k : Nat) (p : SvcPort) : (s.setSvcPort k p).pins = s.pins := rfl
@[simp] theorem State.setSvcPort_pending (k : Nat) (p : SvcPort) : (s.setSvcPort k p).pending = s.pending := rfl

/-! `State.setLive`. -/

@[simp] theorem State.setLive_regs (n : Nat) (f : Frame) : (s.setLive n f).regs = s.regs := rfl
@[simp] theorem State.setLive_ctrs (n : Nat) (f : Frame) : (s.setLive n f).ctrs = s.ctrs := rfl
@[simp] theorem State.setLive_latches (n : Nat) (f : Frame) : (s.setLive n f).latches = s.latches := rfl
@[simp] theorem State.setLive_mtime (n : Nat) (f : Frame) : (s.setLive n f).mtime = s.mtime := rfl
@[simp] theorem State.setLive_freeCtr (n : Nat) (f : Frame) : (s.setLive n f).freeCtr = s.freeCtr := rfl
@[simp] theorem State.setLive_answer (n : Nat) (f : Frame) : (s.setLive n f).answer = s.answer := rfl
@[simp] theorem State.setLive_mgt (n : Nat) (f : Frame) : (s.setLive n f).mgt = s.mgt := rfl
@[simp] theorem State.setLive_dbg (n : Nat) (f : Frame) : (s.setLive n f).dbg = s.dbg := rfl
@[simp] theorem State.setLive_logs (n : Nat) (f : Frame) : (s.setLive n f).logs = s.logs := rfl
@[simp] theorem State.setLive_irq (n : Nat) (f : Frame) : (s.setLive n f).irq = s.irq := rfl
@[simp] theorem State.setLive_clk (n : Nat) (f : Frame) : (s.setLive n f).clk = s.clk := rfl
@[simp] theorem State.setLive_noc (n : Nat) (f : Frame) : (s.setLive n f).noc = s.noc := rfl
@[simp] theorem State.setLive_span (n : Nat) (f : Frame) : (s.setLive n f).span = s.span := rfl
@[simp] theorem State.setLive_inject (n : Nat) (f : Frame) : (s.setLive n f).inject = s.inject := rfl
@[simp] theorem State.setLive_prbs (n : Nat) (f : Frame) : (s.setLive n f).prbs = s.prbs := rfl
@[simp] theorem State.setLive_dram (n : Nat) (f : Frame) : (s.setLive n f).dram = s.dram := rfl
@[simp] theorem State.setLive_procs (n : Nat) (f : Frame) : (s.setLive n f).procs = s.procs := rfl
@[simp] theorem State.setLive_cfg (n : Nat) (f : Frame) : (s.setLive n f).cfg = { s.cfg with live := tput s.cfg.live n f 0 } := rfl
@[simp] theorem State.setLive_img (n : Nat) (f : Frame) : (s.setLive n f).img = s.img := rfl
@[simp] theorem State.setLive_churn (n : Nat) (f : Frame) : (s.setLive n f).churn = s.churn := rfl
@[simp] theorem State.setLive_fab (n : Nat) (f : Frame) : (s.setLive n f).fab = s.fab := rfl
@[simp] theorem State.setLive_slc (n : Nat) (f : Frame) : (s.setLive n f).slc = s.slc := rfl
@[simp] theorem State.setLive_mem (n : Nat) (f : Frame) : (s.setLive n f).mem = s.mem := rfl
@[simp] theorem State.setLive_time (n : Nat) (f : Frame) : (s.setLive n f).time = s.time := rfl
@[simp] theorem State.setLive_cel (n : Nat) (f : Frame) : (s.setLive n f).cel = s.cel := rfl
@[simp] theorem State.setLive_scr (n : Nat) (f : Frame) : (s.setLive n f).scr = s.scr := rfl
@[simp] theorem State.setLive_fen (n : Nat) (f : Frame) : (s.setLive n f).fen = s.fen := rfl
@[simp] theorem State.setLive_dma (n : Nat) (f : Frame) : (s.setLive n f).dma = s.dma := rfl
@[simp] theorem State.setLive_svc (n : Nat) (f : Frame) : (s.setLive n f).svc = s.svc := rfl
@[simp] theorem State.setLive_cores (n : Nat) (f : Frame) : (s.setLive n f).cores = s.cores := rfl
@[simp] theorem State.setLive_pwr (n : Nat) (f : Frame) : (s.setLive n f).pwr = s.pwr := rfl
@[simp] theorem State.setLive_lcs (n : Nat) (f : Frame) : (s.setLive n f).lcs = s.lcs := rfl
@[simp] theorem State.setLive_bist (n : Nat) (f : Frame) : (s.setLive n f).bist = s.bist := rfl
@[simp] theorem State.setLive_pins (n : Nat) (f : Frame) : (s.setLive n f).pins = s.pins := rfl
@[simp] theorem State.setLive_pending (n : Nat) (f : Frame) : (s.setLive n f).pending = s.pending := rfl

/-! `State.ctrAdd`. -/

@[simp] theorem State.ctrAdd_regs (off n : Nat) : (s.ctrAdd off n).1.regs = s.regs := rfl
@[simp] theorem State.ctrAdd_latches (off n : Nat) : (s.ctrAdd off n).1.latches = s.latches := rfl
@[simp] theorem State.ctrAdd_mtime (off n : Nat) : (s.ctrAdd off n).1.mtime = s.mtime := rfl
@[simp] theorem State.ctrAdd_freeCtr (off n : Nat) : (s.ctrAdd off n).1.freeCtr = s.freeCtr := rfl
@[simp] theorem State.ctrAdd_answer (off n : Nat) : (s.ctrAdd off n).1.answer = s.answer := rfl
@[simp] theorem State.ctrAdd_mgt (off n : Nat) : (s.ctrAdd off n).1.mgt = s.mgt := rfl
@[simp] theorem State.ctrAdd_dbg (off n : Nat) : (s.ctrAdd off n).1.dbg = s.dbg := rfl
@[simp] theorem State.ctrAdd_logs (off n : Nat) : (s.ctrAdd off n).1.logs = s.logs := rfl
@[simp] theorem State.ctrAdd_irq (off n : Nat) : (s.ctrAdd off n).1.irq = s.irq := rfl
@[simp] theorem State.ctrAdd_clk (off n : Nat) : (s.ctrAdd off n).1.clk = s.clk := rfl
@[simp] theorem State.ctrAdd_noc (off n : Nat) : (s.ctrAdd off n).1.noc = s.noc := rfl
@[simp] theorem State.ctrAdd_span (off n : Nat) : (s.ctrAdd off n).1.span = s.span := rfl
@[simp] theorem State.ctrAdd_inject (off n : Nat) : (s.ctrAdd off n).1.inject = s.inject := rfl
@[simp] theorem State.ctrAdd_prbs (off n : Nat) : (s.ctrAdd off n).1.prbs = s.prbs := rfl
@[simp] theorem State.ctrAdd_dram (off n : Nat) : (s.ctrAdd off n).1.dram = s.dram := rfl
@[simp] theorem State.ctrAdd_procs (off n : Nat) : (s.ctrAdd off n).1.procs = s.procs := rfl
@[simp] theorem State.ctrAdd_cfg (off n : Nat) : (s.ctrAdd off n).1.cfg = s.cfg := rfl
@[simp] theorem State.ctrAdd_img (off n : Nat) : (s.ctrAdd off n).1.img = s.img := rfl
@[simp] theorem State.ctrAdd_churn (off n : Nat) : (s.ctrAdd off n).1.churn = s.churn := rfl
@[simp] theorem State.ctrAdd_fab (off n : Nat) : (s.ctrAdd off n).1.fab = s.fab := rfl
@[simp] theorem State.ctrAdd_slc (off n : Nat) : (s.ctrAdd off n).1.slc = s.slc := rfl
@[simp] theorem State.ctrAdd_mem (off n : Nat) : (s.ctrAdd off n).1.mem = s.mem := rfl
@[simp] theorem State.ctrAdd_time (off n : Nat) : (s.ctrAdd off n).1.time = s.time := rfl
@[simp] theorem State.ctrAdd_cel (off n : Nat) : (s.ctrAdd off n).1.cel = s.cel := rfl
@[simp] theorem State.ctrAdd_scr (off n : Nat) : (s.ctrAdd off n).1.scr = s.scr := rfl
@[simp] theorem State.ctrAdd_fen (off n : Nat) : (s.ctrAdd off n).1.fen = s.fen := rfl
@[simp] theorem State.ctrAdd_dma (off n : Nat) : (s.ctrAdd off n).1.dma = s.dma := rfl
@[simp] theorem State.ctrAdd_svc (off n : Nat) : (s.ctrAdd off n).1.svc = s.svc := rfl
@[simp] theorem State.ctrAdd_cores (off n : Nat) : (s.ctrAdd off n).1.cores = s.cores := rfl
@[simp] theorem State.ctrAdd_pwr (off n : Nat) : (s.ctrAdd off n).1.pwr = s.pwr := rfl
@[simp] theorem State.ctrAdd_lcs (off n : Nat) : (s.ctrAdd off n).1.lcs = s.lcs := rfl
@[simp] theorem State.ctrAdd_bist (off n : Nat) : (s.ctrAdd off n).1.bist = s.bist := rfl
@[simp] theorem State.ctrAdd_pins (off n : Nat) : (s.ctrAdd off n).1.pins = s.pins := rfl
@[simp] theorem State.ctrAdd_pending (off n : Nat) : (s.ctrAdd off n).1.pending = s.pending := rfl

end Sys2Proof.Machine
end

