-- ==== Sys2Proof/Laws/Tick.lean ====
section
/-! SUPPORT. The operations of Machine/Tick.lean leave the queue of commands alone and keep the invariant. -/

namespace Sys2Proof.Machine


theorem HostSt.fill_ok {x : HostSt} (k : x.ok) : x.fill.ok := by
  unfold HostSt.fill HostSt.ok
  exact k

theorem State.hostMicro_ev {s0 s : State} (i : Nat) (hs0 : Ev s0 s) : Ev s0 (s.hostMicro i) := by
  unfold State.hostMicro
  refine State.setHost_ev _ _ (fun k => ?_) hs0
  have f := HostSt.fill_ok k
  generalize (s.host i).fill = y at f ⊢
  exact ⟨f.1, f.2⟩

theorem State.windowMicro_ev {s0 : State} {s : State} (v : Nat) (hs0 : Ev s0 s) : Ev s0 (State.windowMicro s v) := by
  unfold State.windowMicro
  repeat' with_reducible first | assumption | apply State.wr_ev | apply ite_ev

theorem State.stallMicro_ev {s0 : State} {s : State} (i : Nat) (hs0 : Ev s0 s) : Ev s0 (State.stallMicro s i) := by
  unfold State.stallMicro
  repeat' with_reducible first | assumption | apply State.bump_ev | dsimp only | split

theorem State.gateMicro_ev {s0 : State} {s : State} (g : Nat) (hs0 : Ev s0 s) : Ev s0 (State.gateMicro s g) := by
  unfold State.gateMicro
  repeat' with_reducible first | assumption | apply ite_ev | apply ite_ev1 | apply ite_ev2 | apply ite_ev22 | apply ite_ev21 | refine Ev.lit rfl ?_

theorem State.mtimeMicro_ev {s0 : State} {s : State} (hs0 : Ev s0 s) : Ev s0 (State.mtimeMicro s) := by
  unfold State.mtimeMicro
  repeat' with_reducible first | assumption | apply State.mtip_ev | refine foldl_ev _ _ (fun _ _ _ => ?_) ?_ | refine foldl_ev1 _ _ (fun _ _ _ => ?_) ?_ | refine foldl_ev2 _ _ (fun _ _ _ => ?_) ?_ | refine foldl_ev22 _ _ (fun _ _ _ => ?_) ?_ | refine foldl_ev21 _ _ (fun _ _ _ => ?_) ?_ | refine Ev.lit rfl ?_

theorem State.timeMicro_ev {s0 : State} {s : State} (hs0 : Ev s0 s) : Ev s0 (State.timeMicro s) := by
  unfold State.timeMicro
  repeat' with_reducible first | assumption | apply State.tbMicro_ev | apply ite_ev

theorem State.coreMicro_ev {s0 : State} {s : State} (hs0 : Ev s0 s) : Ev s0 (State.coreMicro s) := by
  unfold State.coreMicro
  repeat' with_reducible first | assumption | apply State.gateMicro_ev | apply State.hostMicro_ev | apply State.mtimeMicro_ev | apply State.stallMicro_ev | apply State.windowMicro_ev | refine foldl_ev _ _ (fun _ _ _ => ?_) ?_

theorem State.tick_ev {s0 : State} {s : State} (hs0 : Ev s0 s) : Ev s0 (State.tick s) := by
  unfold State.tick
  repeat' with_reducible first | assumption | apply State.coreMicro_ev | apply State.timeMicro_ev | apply ite_ev

end Sys2Proof.Machine
end

