-- ==== Sys2Proof/Tests/Slice0.lean ====
section
/-! SUPPORT. Tests: terms that are not well-formed, values the spec writes out, and for every obligation with hypotheses a
theorem witness_<its name> (of its parts, where it is made of parts): for each of its clauses a state and operands that meet all
the hypotheses of that clause together. -/

namespace Sys2Proof.Machine

set_option maxRecDepth 30000
set_option linter.unusedVariables false
set_option Elab.async false

/-! States and messages of the tests. -/

def up : State := ({ State.reset with pwr := { held := false, lost := 0 } }).wr PWR.MODE_STAT.MODE 4
def starter : Req := ⟨980, 0, true, false⟩
def State.canWriteB (s : State) (q : Req) (off : Nat) : Bool :=
  s.islandUp && s.busCheck q off 4 true == .okay && (regAt off).isSome && !ctrAt off
theorem can_write {s : State} {q : Req} {off : Nat} (h : s.canWriteB q off = true) : s.canWrite q off := by
  simp only [State.canWriteB, Bool.and_eq_true, beq_iff_eq, Bool.not_eq_true'] at h
  exact ⟨h.1.1.1, h.1.1.2, h.1.2, h.2⟩
def State.canReadB (s : State) (q : Req) (off : Nat) : Bool :=
  s.islandUp && !q.insp && s.busCheck q off 4 false == .okay && (regAt off).isSome && !ctrAt off
theorem can_read {s : State} {q : Req} {off : Nat} (h : s.canReadB q off = true) : s.canRead q off := by
  simp only [State.canReadB, Bool.and_eq_true, beq_iff_eq, Bool.not_eq_true'] at h
  exact ⟨h.1.1.1.1, h.1.1.1.2, h.1.1.2, h.1.2, h.2⟩
theorem ctrs_ok {s : State} (h : (twf (fun _ => {}) s.ctrs && s.ctrs.all fun p => decide (p.2.val ≤ ctrMax)) = true) :
    s.countersOk := by
  simp only [Bool.and_eq_true, List.all_eq_true, decide_eq_true_eq] at h
  exact h
theorem hosts_ok {s : State} (h : (twf (fun _ => {}) s.mgt.hosts && s.mgt.hosts.all fun p =>
    decide (p.2.queue.length ≤ 256) && p.2.sess.all fun y => decide (y.slots.length ≤ 256)) = true) : s.hostsOk := by
  simp only [Bool.and_eq_true, List.all_eq_true, Option.all_eq_true, decide_eq_true_eq] at h
  exact ⟨h.1, fun p hp => ⟨(h.2 p hp).1, fun y hy => (h.2 p hp).2 y hy⟩⟩
theorem regs_ok {s : State} (h : twf resetWord s.regs = true) : s.regsOk := h
theorem memory_ok {s : State} (h : (twf (fun _ => none) s.mem.bm && twf (fun _ => none) s.mem.dm &&
    twf (fun _ => none) s.slc.opm && twf (fun _ => none) s.scr.w && twf (fun _ => 0) s.cfg.live &&
    twf (fun _ => 0) s.cfg.planeA && twf (fun _ => 0) s.cfg.planeB && twf (fun _ => erased) s.cel.words) = true) :
    s.memoryOk := by
  simp only [Bool.and_eq_true] at h
  exact ⟨h.1.1.1.1.1.1.1, h.1.1.1.1.1.1.2, h.1.1.1.1.1.2, h.1.1.1.1.2, h.1.1.1.2, h.1.1.2, h.1.2, h.2⟩
theorem dram_ok {s : State} (h : (s.dram.ch.all fun p => twf (fun k => p.2.lineDefault (k / 2 ^ 30)) p.2.lines) = true) :
    s.dramOk := by
  simp only [List.all_eq_true] at h
  exact h
/-- A request at a target or a response at an initiator. -/
def aFlit (ini tag op addr : Nat) : Flit := ⟨0, 0, 0, 0, ini, 0, tag, op, 0, false, 0, 63, 0, addr, 0⟩
def arrives (s : State) (a : Nat) (f : Flit) : State :=
  { s with noc := { s.noc with target := tput s.noc.target a [⟨f, 0, 0, 0, 0, 5, 0⟩] [] } }
def answers (s : State) (i : Nat) (f : Flit) : State :=
  { s with noc := { s.noc with resp := tput s.noc.resp i [⟨f, 0, 0, 1, 0, 5, 0⟩] [] } }
def run1 : State := up.setReg 0x200000 0xFFFFFF01#32
def aReq : DReq := ⟨none, 0, false, 0, 0, 63, 0, 0, false, 0⟩
def fullIn (s : State) : State := s.setChan 0 { s.chan 0 with inq := [(0, List.replicate 16 aReq)] }
/-- The state with these words in the scratchpad. -/
def inScratch (s : State) (l : List (BitVec 64)) : State :=
  l.zipIdx.foldl (fun s p => s.setScrWord p.2 (some ⟨p.1.setWidth 72, 0, false⟩)) s
/-- DMA channel 15 in a state, at a descriptor at the start of the scratchpad: a FILL of one byte. -/
def dmaIn (st : Nat) (dst : BitVec 64) : State :=
  ((inScratch up [0#64, dst, 0x2000000000000001#64, 0#64]).wr (DMA.CH_STAT.STATE 15) st).setDmaCh 15
    { desc := 0x030000000000, owed := true }
/-- LAT_SUM and LAT_MAX of an initiator full, so that a round trip of open length changes neither. -/
def latFull (i : Nat) (s : State) : State :=
  ({ s with ctrs := tput s.ctrs (NOC.LAT_SUM i) ⟨ctrMax, true, 0⟩ {} } : State).wr (NOC.LAT_MAX.MAX i) (2 ^ 32 - 1)
theorem issues_of {s : State} {g op : Nat} (h : s.sliceHeld g = false ∧ ((s.slice g).st = 1 ∨ (s.slice g).st = 2) ∧
    iOp (s.isWord g (s.slice g).pc) = op ∧ illegalAt (s.slice g) (s.coefWr g) (s.isWord g (s.slice g).pc) = false) :
    s.issues g op := h
/-- The last sector belongs to vat 0, and its last slice has a clock. -/
def sec223 : State :=
  let s := up.setReg 0x2000DC 0x0000FFFF#32
  { s with slc := { s.slc with cfg := [(10751, { clk := some 0 })] } }
/-- The last slice in a state, with a word as its first instruction. -/
def atSlice (w : Word) (x : SliceSt) : State := (sec223.setLive (instrFrame 10751) (w.setWidth 2072)).setSlice 10751 x
def cfgSlice (c : SliceCfg) (x : SliceSt) : State :=
  let s := sec223.setSlice 10751 x
  { s with slc := { s.slc with cfg := [(10751, { c with clk := some 0 })] } }
def bmWith (c : BmCfg) (x : MArr) : State :=
  { sec223 with mem := { sec223.mem with bmCfg := [(13439, c)], bmA := [(13439, x)] } }
def dmWith (c : DmCfg) (x : MArr) : State :=
  { sec223 with mem := { sec223.mem with dmCfg := [(111, c)], dmA := [(111, x)] } }
def atDm (s : State) (f : Flit) : State := { s with noc := { s.noc with serve := [(ID.dm 111, [⟨f, 0, 0, 0, 0, 5, 0⟩])] } }
theorem round_length (p : ShaPar) (st : List Nat × List Nat) (k : Nat) : (p.round st k).1.length = st.1.length := by
  unfold ShaPar.round
  split
  · next h => simp [h]
  · rfl
theorem rounds_length (p : ShaPar) (ks : List Nat) : ∀ st, (ks.foldl p.round st).1.length = st.1.length := by
  induction ks with
  | nil => intro st; rfl
  | cons k ks ih => intro st; rw [List.foldl_cons, ih, round_length]
theorem blocks_length (p : ShaPar) (ks : List Nat) (f : List Byte → List Nat) (l : List (List Byte)) : ∀ h0 : List Nat,
    (l.foldl (fun h b => (h.zip (ks.foldl p.round (h, f b)).1).map fun x => (x.1 + x.2) % 2 ^ p.w) h0).length = h0.length := by
  induction l with
  | nil => intro h0; rfl
  | cons b l ih => intro h0; rw [List.foldl_cons, ih]; simp [rounds_length]
theorem run_length (p : ShaPar) (ks h0 : List Nat) (bs : List Byte) : (p.run ks h0 bs).length = h0.length :=
  blocks_length p ks _ _ h0
theorem leBytes_length (n : Nat) : ∀ v, (leBytes n v).length = n := by
  induction n with
  | zero => intro v; rfl
  | succ n ih => intro v; simp [leBytes, ih]
theorem flat_length (n : Nat) (l : List Nat) : (l.flatMap (numBe n)).length = l.length * n := by
  induction l with
  | nil => simp
  | cons a l ih => simp [ih, numBe, leBytes_length, Nat.add_mul, Nat.add_comm]
theorem hmac_length (k m : List Byte) : (hmac k m).length = 32 := by
  unfold hmac sha256
  rw [flat_length, run_length]; rfl
/-- The session of the tests. -/
def aSess : Session := ⟨1, 0, [7#8], [8#8], 0, 0, 0, 0, [], [], 0, false⟩
/-- A genuine first request of that session. -/
def bareEnv (p : Fin 4) : ImmEnv :=
  ⟨p, 0#48, Config.mpMac p, 0x88B5#16, false, 1#8, 1#8, true, 0#7, 0#8, 0#16, 0#16, 1#16, 0#16, [], 0#32⟩
@[irreducible] def aMac (p : Fin 4) (code : Nat) (body : List Byte) : List Byte :=
  (hmac (epochKey aSess.kHD 1 0) (immText (bareEnv p) code body)).take 16
def envOf (p : Fin 4) (code : Nat) (body : List Byte) : ImmEnv :=
  { bareEnv p with mac := aMac p code body, crc := crc32c (immText (bareEnv p) code body ++ aMac p code body) }
theorem env_text (p : Fin 4) (code : Nat) (body : List Byte) : immText (envOf p code body) code body = immText (bareEnv p) code body := rfl
theorem env_mac (p : Fin 4) (code : Nat) (body : List Byte) : (envOf p code body).mac = aMac p code body := rfl
theorem env_epoch (p : Fin 4) (code : Nat) (body : List Byte) : (envOf p code body).epoch = 0 := rfl
theorem env_crc (p : Fin 4) (code : Nat) (body : List Byte) :
    (envOf p code body).crc = crc32c (immText (bareEnv p) code body ++ aMac p code body) := rfl
theorem aMac_length (p : Fin 4) (code : Nat) (body : List Byte) : (aMac p code body).length = 16 := by
  rw [aMac, List.length_take, hmac_length]; rfl
/-- The state after its reception. -/
def got (s : State) (p : Fin 4) : State :=
  let w := (s.bump (MGT.RX_CNT p)).ackTo p 0
  w.setHost p { w.host p with sess := some { aSess with
    expSeq := 1, slots := [⟨0, none⟩], ackDue := true } }
/-- The session is open at a port whose link is up. -/
def readyAt (s : State) (p : Fin 4) : Bool :=
  s.powered && s.bit (FEN.PORT_STAT.LINK (96 + p)) && ((s.bump (MGT.RX_CNT p)).host p).sess == some aSess
    && (((s.bump (MGT.RX_CNT p)).ackTo p 0).host p).sess == some aSess
theorem received {s : State} {b : Bool} {p : Fin 4} {code : Nat} {body : List Byte}
    (h : (readyAt s p && decide (body.length ≤ 1460)) = true) :
    s.receive b (envOf p code body) code body = (got s p, true) := by
  simp only [readyAt, Bool.and_eq_true, beq_iff_eq, decide_eq_true_eq] at h
  obtain ⟨⟨⟨⟨h1, h2⟩, h3⟩, h4⟩, h5⟩ := h
  have hcrc : immCrcOk (envOf p code body) code body = true := by
    simp only [immCrcOk, env_text, env_mac, env_crc, aMac_length, beq_self_eq_true, Bool.and_self]
  have hform : immFormed (envOf p code body) 1 body = true := by
    simp only [immFormed, Bool.and_eq_true, decide_eq_true_eq]
    exact ⟨⟨⟨⟨rfl, rfl⟩, rfl⟩, rfl⟩, h5⟩
  have htaken : s.frameTaken (envOf p code body) = true := by
    simp only [State.frameTaken, Bool.and_eq_true]
    exact ⟨⟨⟨⟨h1, h2⟩, rfl⟩, beq_self_eq_true _⟩, rfl⟩
  have hmac' : (s.bump (MGT.RX_CNT p)).macEpoch (envOf p code body) code body = some 0 := by
    have : immMacOk (envOf p code body) code body aSess.kHD 0 = true := by
      rw [immMacOk, env_text, env_mac, aMac, beq_self_eq_true, Bool.and_true, env_epoch]; rfl
    have e1 : (s.bump (MGT.RX_CNT p)).macEpoch (envOf p code body) code body
        = (epochsKept 0).find? (immMacOk (envOf p code body) code body aSess.kHD) := by
      unfold State.macEpoch
      rw [show (envOf p code body).port = p from rfl, h3]
      exact if_pos (show aSess.sid = (envOf p code body).sid.toNat from rfl)
    rw [e1]
    exact List.find?_cons_of_pos this
  unfold State.receive
  simp only [htaken, hcrc, hform, Bool.not_true, Bool.false_eq_true, if_false]
  rw [if_pos (show (envOf p code body).auth = true from rfl)]
  unfold State.acceptReq
  simp only [show (envOf p code body).port = p from rfl, hmac', Option.isNone_some, Bool.false_eq_true, if_false,
    show (envOf p code body).ackno.toNat = 0 from rfl, show (envOf p code body).seq.toNat = 0 from rfl, h4]
  rw [if_pos (show (0 + 65536 - aSess.expSeq) % 65536 = 0 from by decide), if_neg (show ¬ 256 ≤ aSess.slots.length from by decide),
    if_neg (show ¬ aSess.expSeq = 65535 from by decide)]
  simp only [got, aSess, List.nil_append, Nat.zero_add]
/-- A state in which the session is open at every port. -/
def ses : State :=
  let x : HostSt := { sess := some aSess }
  ({ up with mgt := { up.mgt with hosts := [(0, x), (1, x), (2, x), (3, x)] } } : State)
theorem numBe_len (n v : Nat) : (numBe n v).length = n := by simp [numBe, leBytes_length]
/-- The links of ports 96 and 97 are up. -/
def ses1 : State := (ses.wrb (FEN.PORT_STAT.LINK 96) true).wrb (FEN.PORT_STAT.LINK 97) true
theorem taken_ok {s : State} {p : Fin 4} {code : Nat} {body : List Byte}
    (h : (s.powered && s.bit (FEN.PORT_STAT.LINK (96 + p))) = true) : s.frameTaken (envOf p code body) = true := by
  simp only [Bool.and_eq_true] at h
  simp only [State.frameTaken, Bool.and_eq_true]
  exact ⟨⟨⟨h, rfl⟩, beq_self_eq_true _⟩, rfl⟩
theorem crc_ok (p : Fin 4) (code : Nat) (body : List Byte) : immCrcOk (envOf p code body) code body = true := by
  simp only [immCrcOk, env_text, env_mac, env_crc, aMac_length, beq_self_eq_true, Bool.and_self]
theorem formed_ok {p : Fin 4} {code : Nat} {body : List Byte} (h : body.length ≤ 1460) : immFormed (envOf p code body) 1 body = true := by
  simp only [immFormed, Bool.and_eq_true, decide_eq_true_eq]
  exact ⟨⟨⟨⟨rfl, rfl⟩, rfl⟩, rfl⟩, h⟩
theorem mac_ok {s : State} {p : Fin 4} {code : Nat} {body : List Byte} {y : Session} (h : (s.host p).sess = some y ∧
    y.sid = 1 ∧ y.hostEpoch = 0 ∧ y.kHD = [7#8]) : (s.macEpoch (envOf p code body) code body).isSome = true := by
  obtain ⟨h1, h2, h3, h4⟩ := h
  have : immMacOk (envOf p code body) code body y.kHD 0 = true := by
    rw [h4, show [7#8] = aSess.kHD from rfl, immMacOk, env_text, env_mac, aMac, beq_self_eq_true, Bool.and_true, env_epoch]; rfl
  have e1 : s.macEpoch (envOf p code body) code body = (epochsKept 0).find? (immMacOk (envOf p code body) code body y.kHD) := by
    unfold State.macEpoch
    rw [show (envOf p code body).port = p from rfl, h1]
    simp only [h3]
    exact if_pos (h2.trans (show 1 = (envOf p code body).sid.toNat from rfl))
  rw [e1, show (epochsKept 0).find? (immMacOk (envOf p code body) code body y.kHD) = some 0 from List.find?_cons_of_pos this]
  rfl
/-- A frame without a session. -/
def bareOf (p : Fin 4) (code : Nat) (body : List Byte) : ImmEnv :=
  let e : ImmEnv := ⟨p, 0#48, Config.mpMac p, 0x88B5#16, false, 1#8, 1#8, false, 0#7, 0#8, 0#16, 0#16, 0#16, 0#16, List.replicate 16 0#8, 0#32⟩
  { e with crc := crc32c (immText e code body ++ List.replicate 16 0#8) }
theorem bare_taken {s : State} {p : Fin 4} {code : Nat} {body : List Byte}
    (h : (s.powered && s.bit (FEN.PORT_STAT.LINK (96 + p))) = true) : s.frameTaken (bareOf p code body) = true := by
  simp only [Bool.and_eq_true] at h
  simp only [State.frameTaken, Bool.and_eq_true]
  exact ⟨⟨⟨h, rfl⟩, beq_self_eq_true _⟩, rfl⟩
theorem bare_crc (p : Fin 4) (code : Nat) (body : List Byte) : immCrcOk (bareOf p code body) code body = true := by
  rw [immCrcOk, show immText (bareOf p code body) code body ++ (bareOf p code body).mac
    = immText { bareOf p code body with crc := 0 } code body ++ List.replicate 16 0#8 from rfl]
  simp only [Bool.and_eq_true]
  exact ⟨beq_iff_eq.2 rfl, rfl⟩
theorem bare_formed {p : Fin 4} {code : Nat} {body : List Byte} (h : body.length ≤ 1460) : immFormed (bareOf p code body) 1 body = true := by
  simp only [immFormed, Bool.and_eq_true, decide_eq_true_eq]
  exact ⟨⟨⟨⟨rfl, rfl⟩, rfl⟩, rfl⟩, h⟩
/-- The state after its reception. -/
def gotBare (s : State) (p : Fin 4) : State :=
  let u := s.bump (MGT.RX_CNT p)
  u.setHost p { u.host p with unauth := (u.host p).unauth + 1 }
theorem bare_received {s : State} {p : Fin 4} {code : Nat} {body : List Byte}
    (h : (s.powered && s.bit (FEN.PORT_STAT.LINK (96 + p)) && decide (((s.bump (MGT.RX_CNT p)).host p).unauth < 16)
      && decide (body.length ≤ 1460)) = true) :
    s.receive true (bareOf p code body) code body = (gotBare s p, true) := by
  simp only [Bool.and_eq_true, decide_eq_true_eq] at h
  obtain ⟨⟨⟨h1, h2⟩, h3⟩, h4⟩ := h
  have h1 : (s.powered && s.bit (FEN.PORT_STAT.LINK (96 + p))) = true := by simp only [h1, h2, Bool.and_self]
  unfold State.receive
  simp only [bare_taken (code := code) (body := body) h1, bare_crc, bare_formed h4, Bool.not_true, Bool.false_eq_true, if_false]
  rw [if_neg (show ¬ (bareOf p code body).auth = true from Bool.false_ne_true)]
  rw [if_pos (show (true && (bareOf p code body).seq == 0 && (bareOf p code body).ackno == 0 && (bareOf p code body).sid == 0
    && (bareOf p code body).mac.all (· == 0)) = true from rfl)]
  unfold State.acceptBare
  exact if_pos h3
def lnk (s : State) : State := (s.wrb (FEN.PORT_STAT.LINK 96) true).wrb (FEN.PORT_STAT.LINK 97) true
def sesOf (y : Session) : State := { ses1 with mgt := { ses1.mgt with hosts := [(0, { sess := some y })] } }
/-- The last sector belongs to vat 15, with these roles; a host h owns it. -/
def own15 (r : Role) : State :=
  let s := up.setReg 0x2000DC 0x0FFFFFFF#32
  s.setRole 15 r
/-- The state own15 with the sessions and links. -/
def ses15 (r : Role) : State :=
  let x : HostSt := { sess := some aSess }
  lnk ({ (own15 r).wr VAT.DEF.DEF 0x8000 with mgt := { (own15 r).mgt with hosts := [(0, x), (1, x), (2, x), (3, x)] } } : State)
/-- A genuine message under a key. -/
@[irreducible] def keyMac (k : List Byte) (p : Fin 4) (code : Nat) (body : List Byte) : List Byte :=
  (hmac (epochKey k 1 0) (immText (bareEnv p) code body)).take 16
def envKey (k : List Byte) (p : Fin 4) (code : Nat) (body : List Byte) : ImmEnv :=
  { bareEnv p with mac := keyMac k p code body, crc := crc32c (immText (bareEnv p) code body ++ keyMac k p code body) }
theorem keyMac_length (k : List Byte) (p : Fin 4) (code : Nat) (body : List Byte) : (keyMac k p code body).length = 16 := by
  rw [keyMac, List.length_take, hmac_length]; rfl
theorem key_crc (k : List Byte) (p : Fin 4) (code : Nat) (body : List Byte) : immCrcOk (envKey k p code body) code body = true := by
  rw [immCrcOk, show immText (envKey k p code body) code body ++ (envKey k p code body).mac
    = immText (bareEnv p) code body ++ keyMac k p code body from rfl]
  simp only [Bool.and_eq_true]
  exact ⟨beq_iff_eq.2 rfl, by rw [show (envKey k p code body).mac = keyMac k p code body from rfl, keyMac_length]; rfl⟩
theorem key_mac (k : List Byte) (p : Fin 4) (code : Nat) (body : List Byte) : immMacOk (envKey k p code body) code body k 0 = true := by
  rw [immMacOk, show (envKey k p code body).mac = keyMac k p code body from rfl,
    show immText (envKey k p code body) code body = immText (bareEnv p) code body from rfl, keyMac, beq_self_eq_true]; rfl
theorem key_taken {s : State} {k : List Byte} {p : Fin 4} {code : Nat} {body : List Byte}
    (h : (s.powered && s.bit (FEN.PORT_STAT.LINK (96 + p))) = true) : s.frameTaken (envKey k p code body) = true := by
  simp only [Bool.and_eq_true] at h
  simp only [State.frameTaken, Bool.and_eq_true]
  exact ⟨⟨⟨h, rfl⟩, beq_self_eq_true _⟩, rfl⟩
theorem key_formed {k : List Byte} {p : Fin 4} {code : Nat} {body : List Byte} (h : body.length ≤ 1460) :
    immFormed (envKey k p code body) 1 body = true := by
  simp only [immFormed, Bool.and_eq_true, decide_eq_true_eq]
  exact ⟨⟨⟨⟨rfl, rfl⟩, rfl⟩, rfl⟩, h⟩
/-- A handshake that waits for its end, and the proof that ends it. -/
def shook : Handshake := ⟨1, [7#8], [9#8], 0⟩
@[irreducible] def proofOf (x : Handshake) : List Byte := (hmac x.k0 (0x48#8 :: x.t)).take 16
theorem proof_of (x : Handshake) : proofOf x = (hmac x.k0 (0x48#8 :: x.t)).take 16 := by unfold proofOf; rfl
theorem proof_length (x : Handshake) : (proofOf x).length ≤ 1460 := by
  rw [proof_of, List.length_take]; omega
theorem not_proof {x : Handshake} {b : List Byte} (h : b.length < 16) : b ≠ (hmac x.k0 (0x48#8 :: x.t)).take 16 := by
  intro e; rw [e, List.length_take, hmac_length] at h; omega
def shaken : State := { lnk up with mgt := { up.mgt with hosts := [(0, { hs := some shook })] } }
/-- A genuine acknowledgement. -/
def bareAck (p : Fin 4) : ImmEnv := { bareEnv p with typ := 4 }
@[irreducible] def ackMac (p : Fin 4) : List Byte := (hmac (epochKey [7#8] 1 0) (immText (bareAck p) 0 [])).take 16
def ackEnv (p : Fin 4) : ImmEnv := { bareAck p with mac := ackMac p, crc := crc32c (immText (bareAck p) 0 [] ++ ackMac p) }
theorem ackMac_length (p : Fin 4) : (ackMac p).length = 16 := by
  rw [ackMac, List.length_take, hmac_length]; rfl
theorem ack_taken {s : State} {p : Fin 4} (h : (s.powered && s.bit (FEN.PORT_STAT.LINK (96 + p))) = true) :
    s.frameTaken (ackEnv p) = true := by
  simp only [Bool.and_eq_true] at h
  simp only [State.frameTaken, Bool.and_eq_true]
  exact ⟨⟨⟨h, rfl⟩, beq_self_eq_true _⟩, rfl⟩
theorem ack_crc (p : Fin 4) : immCrcOk (ackEnv p) 0 [] = true := by
  rw [immCrcOk, show immText (ackEnv p) 0 [] ++ (ackEnv p).mac = immText (bareAck p) 0 [] ++ ackMac p from rfl]
  simp only [Bool.and_eq_true]
  exact ⟨beq_iff_eq.2 rfl, by rw [show (ackEnv p).mac = ackMac p from rfl, ackMac_length]; rfl⟩
theorem ack_mac {s : State} {p : Fin 4} {y : Session} (h : (s.host p).sess = some y ∧ y.sid = 1 ∧ y.hostEpoch = 0 ∧ y.kHD = [7#8]) :
    (s.macEpoch (ackEnv p) 0 []).isSome = true := by
  obtain ⟨h1, h2, h3, h4⟩ := h
  have : immMacOk (ackEnv p) 0 [] y.kHD 0 = true := by
    rw [h4, immMacOk, show (ackEnv p).mac = ackMac p from rfl,
      show immText (ackEnv p) 0 [] = immText (bareAck p) 0 [] from rfl, ackMac, beq_self_eq_true]; rfl
  have e1 : s.macEpoch (ackEnv p) 0 [] = (epochsKept 0).find? (immMacOk (ackEnv p) 0 [] y.kHD) := by
    unfold State.macEpoch
    rw [show (ackEnv p).port = p from rfl, h1]
    simp only [h3]
    exact if_pos (h2.trans (show 1 = (ackEnv p).sid.toNat from rfl))
  rw [e1, show (epochsKept 0).find? (immMacOk (ackEnv p) 0 [] y.kHD) = some 0 from List.find?_cons_of_pos this]
  rfl
def hostIs (x : HostSt) : State := { ses1 with mgt := { ses1.mgt with hosts := [(0, x)] } }
def dbgIs (d : DbgSt) : State := { ses1 with dbg := d }
def anEv : EvEntry := ⟨1, ⟨0x1301, 3, 0, 0, []⟩, 1, 0, 0, none⟩
def manyEvs : Session := { aSess with unacked := List.replicate 256 ⟨0, 0, 3, 0, 0, 0, [], 0, 0, 0⟩ }
@[irreducible] def respOf (k c : List Byte) (h sc : Nat) : List Byte := dbgResp k c h sc
theorem resp_of (k c : List Byte) (h sc : Nat) : respOf k c h sc = dbgResp k c h sc := by unfold respOf; rfl
theorem respOf_length (k c : List Byte) (h sc : Nat) : (respOf k c h sc).length = 32 := by
  rw [resp_of, dbgResp, hmac_length]
theorem received2 {s : State} {b : Bool} {p : Fin 4} {code : Nat} {body : List Byte} (h : readyAt s p = true)
    (hb : body.length ≤ 1460) : s.receive b (envOf p code body) code body = (got s p, true) :=
  received (by rw [h, decide_eq_true hb]; rfl)
theorem map_ne {l : List Byte} (h : l ≠ []) : l.map (· + 1) ≠ l := by
  cases l with
  | nil => exact absurd rfl h
  | cons a l => intro e; simp at e
def aChal : State := dbgIs { chal := some (0, 7, [5#8]) }
def aKey : List Byte := List.replicate 32 0#8
def withBody (code : Nat) (b : List Byte) : ImmEnv := envOf 0 code b
/-- Channel 7 in a state, with what it holds. -/
def ddr7 (st : Nat) (c : DramCh) : State := (up.wr (DDR.CH_STAT.STATE 7) st).setChan 7 c
def rdReq : DReq := { aReq with qos := 3 }
def wrReq : DReq := { aReq with qos := 3, wr := true }
/-- A frame of 64 bytes with a good FCS. -/
def aFrame (t : Byte) (n : Nat) : List Byte :=
  let b : List Byte := List.replicate 12 1#8 ++ [t, 8#8] ++ List.replicate (n - 18) 0#8
  b ++ fcsOf b
/-- Queue 65,535 of vat 0 on port 95, with its ring at the start of the scratchpad. -/
def quIs (dir : Nat) (l : List (BitVec 64)) : State :=
  (((((((inScratch up l).wr (VAT.QCNT.CNT 0) 65536).wr (QM.QCFG.EN 65535) 1).wr (QM.QCFG.DIR 65535) dir).wr
    (QM.QCFG.PORT 65535) 95).wr (QM.RING_HI.RING 65535) 0x300).wr (QM.QCFG.SIZE 65535) 3).wr (QM.PIDX.PIDX 65535) 1
theorem no_desc {p : State × Option (List Byte)} (h : p.2.isNone = true) : p = (p.1, none) := by
  cases p with
  | mk a b => cases b with
    | none => rfl
    | some x => cases h
theorem a_desc {p : State × Option (List Byte)} (d : List Byte) (h : p.2 = some d) : p = (p.1, some d) := by
  cases p; cases h; rfl
def heldOne : State := { quIs 1 [] with fen := { up.fen with held := [(65535, [⟨aFrame 9 64, 0, 0, 1, false, []⟩])] } }
def heldOf (n : Nat) : State := { quIs 1 [0#64, BitVec.ofNat 64 n, 0#64, 0#64] with fen := heldOne.fen }
def heldBad : State := { quIs 1 [0#64, 0#64, 0#64, 0x1000000000#64] with fen := heldOne.fen }
def rxDesc (n : Nat) : List Byte := leBytes 8 0 ++ leBytes 8 n ++ leBytes 16 0
def txDesc : List Byte := leBytes 8 0 ++ leBytes 8 0x80000040 ++ leBytes 16 0
def txQu (l : List (BitVec 64)) : State :=
  ((((quIs 0 l).wr (FEN.PORT_CTL.EN 95) 1).wr (FEN.PORT_STAT.LINK 95) 1).wr (FEN.PORT_CTL.MAXLEN 95) 68)
/-- A timed frame of the queue; a frame of the stream. -/
def aTx : TxF := { q := some 65535, bytes := [1#8], launch := some 0 }
def stTx : TxF := { q := none, bytes := [1#8] }
def bistIs (x : BistSt) : State := { sec223 with bist := x }
def bistSes (x : BistSt) : State := { lnk sec223 with bist := x, mgt := ses1.mgt }
theorem may_fuse {t : State} {kind mem : Nat} (h : (t.softOf kind mem = []) ∧ (!t.bistBusy kind mem && !t.bist.fusing.contains (kind, mem)) = true) :
    (!t.bistBusy kind mem && !t.bist.fusing.contains (kind, mem) && decide ((t.softOf kind mem).length ≤ t.fuseFree)) = true := by
  rw [h.2, h.1]; simp
theorem not_run {a b c : Bool} (h : b = true) : (!(a || b) && c) = false := by subst h; cases a <;> rfl
theorem run_append (f : Frame) (a b : Nat) : ∀ i s, crc24Run f (a + b) i s = crc24Run f b (i + a) (crc24Run f a i s) := by
  induction a with
  | zero => intro i s; simp [crc24Run]
  | succ a ih => intro i s; rw [show a + 1 + b = (a + b) + 1 by omega, crc24Run, ih, crc24Run, show i + 1 + a = i + (a + 1) by omega]
theorem run_zero (f : Frame) (n : Nat) : ∀ i, (∀ j, i ≤ j → j < i + n → f.getLsbD j = false) → crc24Run f n i 0 = 0 := by
  induction n with
  | zero => intro i _; rfl
  | succ n ih =>
    intro i h
    rw [crc24Run, h i (Nat.le_refl _) (by omega), show crc24Step 0 false = 0 by decide]
    exact ih (i + 1) fun j h1 h2 => h j (by omega) (by omega)
theorem run_last (f : Frame) (n : Nat) (h : ∀ j, j < n → f.getLsbD j = false) : crc24Run f (n + 1) 0 0 = crc24Step 0 (f.getLsbD n) := by
  rw [run_append, run_zero f n 0 fun j _ hj => h j (by omega), Nat.zero_add, crc24Run, crc24Run]
/-- A frame whose last bit alone is set. -/
def lastBit : Frame := BitVec.twoPow 2072 2071
theorem syn_zero {f : Frame} (h : f = 0) : syndrome f = 0 := by
  subst h; exact run_zero _ _ _ fun j _ _ => by simp
theorem syn_last : syndrome lastBit = 1 :=
  (run_last lastBit 2071 fun j hj => by rw [lastBit, BitVec.getLsbD_twoPow]; simp; omega).trans (by
    rw [lastBit, BitVec.getLsbD_twoPow]; decide)
theorem err_hit (s : BitVec 24) (n k : Nat) : findErr s (n + 1) k s = some (1, 2071 - k) := by simp [findErr]
theorem chk_of (f : Frame) (h0 : f ≠ 0) (h : syndrome f = 1) (hx : f ^^^ (1#2072 <<< 2071) = 0) : chkFrame f = .fixed 1 2071 0 := by
  have e : findErr 1 2072 0 1 = some (1, 2071) := err_hit 1 2071 0
  rw [chkFrame, if_neg h0]
  simp only [h]
  rw [if_neg (by decide), e]
  exact congrArg (Chk.fixed 1 2071) hx
theorem syn_bit {f : Frame} (h : f = lastBit) : syndrome f ≠ 0 := by
  subst h; rw [syn_last]; decide
theorem chk_bit {f : Frame} (h : f = lastBit) : chkFrame f = .fixed 1 2071 0 := by
  subst h; exact chk_of _ (by decide +kernel) syn_last (by decide +kernel)
/-- A record of an image. -/
def aRec (typ : Nat) (body : List Byte) : List Byte :=
  let t := leBytes 4 (typ * 2 ^ 24 + body.length) ++ body
  t ++ leBytes 4 (crc32c t).toNat
/-- The body of a HEADER with flags, vats, frames, hash of the frame section. -/
def hdrBody (flags vats frames : Nat) (fh : List Byte) (map : List Byte) : List Byte :=
  [0x49484C44, 0x10000, 0x8420, flags, vats, 0, frames, frames, 0, 0, 0, 548, 0, 0, 0, 0].flatMap (leBytes 4) ++ fh
    ++ List.replicate 48 0#8 ++ map
def zeros (n : Nat) : List Byte := List.replicate n 0#8
def theHdr (b : List Byte) : Hdr := (hdrOf b).getD ⟨false, false, [], 0, 0, [], 0, 0, [], [], []⟩
def recAt (bs : List Byte) (len : Nat) : Rec :=
  { recOf bs with body := (bs.drop 4).take len, pad := (bs.drop (4 + len)).take (recBytes len - 8 - len),
                  crc := leVal ((bs.drop (recBytes len - 4)).take 4), text := bs.take (recBytes len - 4) }
def afterRead (s : State) (o : ImgOp) (env : RecEnv) (n : Nat) : State := ((s.imgFetch o 4).1.imgFetch o n).1.imgRetries o env true
theorem reads_of {s : State} {o : ImgOp} {env : RecEnv} {fixed : Option Nat} {stop typ len : Nat} (l bs : List Byte)
    (h : ((s.imgFetch o 4).2 = .bytes l ∧ leVal l / 2 ^ 24 = typ ∧ (env.lost && o.fromSlot) = false) ∧
      fixed.getD (recLen l) = len ∧ ((s.imgFetch o 4).1.imgFetch o (recBytes len)).2 = .bytes bs ∧ (recAt bs len).crcOk = true ∧
      (recAt bs len).padOk = true ∧ o.pos + recBytes len ≤ stop) :
    s.reads o env fixed stop typ (afterRead s o env (recBytes len)) (recAt bs len) := by
  obtain ⟨⟨h1, h2, h3⟩, rfl, h5, h6, h7, h8⟩ := h
  exact ⟨l, bs, h1, h2, h3, h5, rfl, h6, h7, h8, rfl⟩
def withOp (s : State) (o : ImgOp) : State := { s with img := { s.img with op := some o } }
/-- An operation of host 0 whose bytes have come. -/
def anOp (kind phase : Nat) (buf hdr : List Byte) : ImgOp :=
  { kind := kind, slot := 0, host := 0, phase := phase, buf := buf, hdr := hdr, pos := if phase = 0 then 0 else if phase < 3 then 392 else 548 }
def hb0 : List Byte := hdrBody 0 0x8000 0 (zeros 48) (zeros 223 ++ [15#8])
def hbW : List Byte := hdrBody 1 1 0 (zeros 48) (zeros 224)
/-- With a frame section of 8 bytes; with a memory-init section of 24 bytes. -/
def hbF : List Byte := (hb0.take 48) ++ leBytes 4 8 ++ hb0.drop 52
def hbI : List Byte := (hb0.take 12) ++ leBytes 4 2 ++ (hb0.drop 16).take 36 ++ leBytes 4 548 ++ leBytes 4 24 ++ (hb0.drop 60).take 100 ++ zeros 222 ++ [15#8, 255#8]
def modLd : ModLoad := ⟨15, 0, (0, 0, 0, 0), 0, 0, false, 0, 0, 1, 0, 0, [], 0⟩
def modOp (fh : List Byte) : ImgOp :=
  { kind := 6, slot := 0, host := 0, pos := 548, phase := 3, hdr := aRec 1 (hdrBody 0 0x8000 4 fh (zeros 224)),
    cover := [(0, true), (1, true), (2, true), (3, true)] }
def modState (fh : List Byte) : State :=
  { up with cfg := { up.cfg with mods := [modLd] }, img := { up.img with mod := some (modOp fh) } }
/-- A good boot table whose entry for vat 15 names slot 7 with this hash. -/
def booted (s : State) (hash : List Byte) : State :=
  let s := ({ s with img := { s.img with initQ := [15] } } : State).celProgram (bootPos 0) (leBytes 4 0x4254424C ++ List.replicate 4 255#8)
  let s := s.celProgram (bootPos 0 + 4 * (4 + 13 * 30)) hash
  s.celProgram (bootPos 0 + 1672) (List.replicate 4 255#8 ++ leBytes 4 (crc32c (s.celBytes (bootPos 0) 1676)).toNat)
def bootHdr : State := up.celProgram (slotOff 7) (aRec 1 hb0)
def bootHash : List Byte := sha384 (bootHdr.celBytes (slotOff 7) 392)
def closing (p : Frame) : State :=
  let s := { sec223 with cfg := { sec223.cfg with commits := [⟨[0], some 7⟩], planeB := [(262143, p)] } }
  withOp s { anOp 1 0 [] (aRec 1 (hdrBody 0 1 0 (zeros 48) (zeros 224))) with closed := 1 }
theorem ctrAdd_full {s : State} {off : Nat} (n : Nat) (h : (s.ctr off).val = ctrMax ∧ (s.ctr off).sat = true) :
    s.ctrAdd off n = s.ctrAdd off 0 := by
  simp only [State.ctrAdd, h.1, h.2, Nat.add_zero, Nat.min_self, Nat.min_eq_left (Nat.le_add_right ctrMax n), Bool.not_true,
    Bool.and_false, Bool.false_and]
theorem bump_full {s : State} {off : Nat} (n : Nat) (h : (s.ctr off).val = ctrMax ∧ (s.ctr off).sat = true) :
    s.bump off n = s.bump off 0 := by
  unfold State.bump; rw [ctrAdd_full n h]
/-- An access before and after its round trip is counted. -/
def counted (i : Nat) (wr : Bool) (n : Nat) (s : State) : State :=
  let s := if wr then (s.bump (NOC.WR_CNT i)).bump (NOC.WR_BYTES i) n else s.bump (NOC.RD_CNT i)
  let s := if wr = false then s.bump (NOC.RD_BYTES i) n else s
  s.fresh.2.bump (NOC.RT_CNT i)
def accessOk (s : State) (q : Req) (rq : NocRq) : Bool :=
  let d := s.decodeRq q.id q.vat rq
  let r := ((d.1.bucketWait q.id).regUse q.id (rq.len.val + 1)).serveAccess q d.2.2
  let t := counted q.id rq.wr (rq.len.val + 1) r.1
  let c := t.ctr (NOC.LAT_SUM q.id)
  decide (d.2.1 = .okay) && decide (r.2.1 = .okay) && decide (c.val = ctrMax) && c.sat
    && decide ((t.bump (NOC.LAT_SUM q.id) 0).rd (NOC.LAT_MAX.MAX q.id) = 2 ^ 32 - 1)
    && decide (((t.bump (NOC.LAT_SUM q.id) 0).wr (NOC.LAT_MAX.MAX q.id) (2 ^ 32 - 1)).regs = (t.bump (NOC.LAT_SUM q.id) 0).regs)
/-- A round trip of open length at an initiator whose LAT_SUM and LAT_MAX are full. -/
theorem latency_full {s : State} {i : Nat} (n : Nat) (h : (s.ctr (NOC.LAT_SUM i)).val = ctrMax ∧ (s.ctr (NOC.LAT_SUM i)).sat = true)
    (hm : (s.bump (NOC.LAT_SUM i) 0).rd (NOC.LAT_MAX.MAX i) = 2 ^ 32 - 1)
    (hw : ((s.bump (NOC.LAT_SUM i) 0).wr (NOC.LAT_MAX.MAX i) (2 ^ 32 - 1)).regs = (s.bump (NOC.LAT_SUM i) 0).regs) :
    s.latency i n = s.bump (NOC.LAT_SUM i) 0 := by
  unfold State.latency
  dsimp only
  rw [bump_full n h, hm]
  split
  · next k =>
    rw [Nat.min_eq_right (Nat.le_of_lt k)]
    generalize s.bump (NOC.LAT_SUM i) 0 = t at hw
    have e : t.wr (NOC.LAT_MAX.MAX i) (2 ^ 32 - 1) = { t with regs := (t.wr (NOC.LAT_MAX.MAX i) (2 ^ 32 - 1)).regs } := rfl
    rw [e, hw]
  · rfl
@[irreducible] def served (s : State) (q : Req) (rq : NocRq) : State × Status × BitVec 512 :=
  let d := s.decodeRq q.id q.vat rq
  let r := ((d.1.bucketWait q.id).regUse q.id (rq.len.val + 1)).serveAccess q d.2.2
  ((counted q.id rq.wr (rq.len.val + 1) r.1).bump (NOC.LAT_SUM q.id) 0, .okay, r.2.2)
theorem access_served {s : State} {q : Req} {rq : NocRq} (h : accessOk s q rq = true) : s.memAccess q rq = served s q rq := by
  simp only [accessOk, Bool.and_eq_true, decide_eq_true_eq] at h
  obtain ⟨⟨⟨⟨⟨h1, h2⟩, h3⟩, h4⟩, h5⟩, h6⟩ := h
  unfold State.memAccess served
  simp only [h1, h2, ne_eq, not_true_eq_false, if_false, State.countAccess, reduceCtorEq, or_self, or_false, and_true,
    Bool.not_eq_eq_eq_not, Bool.not_true]
  exact congrArg (·, _) (latency_full _ ⟨h3, h4⟩ h5 h6)
theorem served_okay (s : State) (q : Req) (rq : NocRq) : (served s q rq).2.1 = .okay := by unfold served; rfl
def readRq (a n : Nat) : NocRq := ⟨BitVec.ofNat 64 a, false, Fin.ofNat 64 (n - 1), 0, 0, 0, false, true⟩
def writeRq (a : Nat) (bs : List Byte) : NocRq :=
  ⟨BitVec.ofNat 64 a, true, Fin.ofNat 64 (bs.length - 1), 0, 0, BitVec.ofNat 512 (leVal bs * 2 ^ (8 * (a % 64))), false, true⟩
theorem memRead_served {s : State} {q : Req} {a n : Nat} (h : accessOk s q (readRq a n) = true) :
    s.memRead q a n 0 = ((served s q (readRq a n)).1, .okay, lineSlice (served s q (readRq a n)).2.2 (a % 64) n) :=
  (congrArg (fun r : State × Status × BitVec 512 => (r.1, r.2.1, lineSlice r.2.2 (a % 64) n)) (access_served h)).trans (by simp only [served_okay])
theorem memWrite_served {s : State} {q : Req} {a : Nat} {bs : List Byte} (h : accessOk s q (writeRq a bs) = true) :
    s.memWrite q a bs false 0 = ((served s q (writeRq a bs)).1, .okay) :=
  (congrArg (fun r : State × Status × BitVec 512 => (r.1, r.2.1)) (access_served h)).trans (by simp only [served_okay])
/-- A FILL of one byte by channel 15: what its write leaves. -/
def filled (s : State) (dst : Nat) : State :=
  (served s ⟨ID.dma, 0, false, false⟩ (writeRq dst [0#8])).1.bump (DMA.BYTES 15) 1
theorem fill_one {s : State} {dst : Nat} (h : (accessOk s ⟨ID.dma, 0, false, false⟩ (writeRq dst [0#8]) &&
    decide (dst % 64 = 0)) = true) :
    s.dmaMove 15 ⟨ID.dma, 0, false, false⟩ ⟨0, dst, 1, 0x20000000, 0⟩ = (filled s dst, true, false) := by
  simp only [Bool.and_eq_true, decide_eq_true_eq] at h
  have e : dmaPieces 0 dst (1 / 32 + 3) 0 1 = [(0, 1)] := by
    simp only [dmaPieces, Nat.add_zero, Nat.zero_add, h.2]; rfl
  unfold State.dmaMove
  simp only [e, List.foldl_cons, List.foldl_nil, if_true]
  unfold State.dmaPiece
  simp only [show (0x20000000 : Nat).testBit 28 = false from rfl, show (0x20000000 : Nat).testBit 29 = true from rfl, if_true,
    show fillBytes 0 0 1 = [0#8] from rfl, Nat.add_zero]
  rw [show (Status.okay == Status.poisoned) = false from rfl, if_neg (by decide)]
  simp only [Bool.false_eq_true, if_false]
  rw [memWrite_served h.1]
  rfl
/-- Channel 15 fetched its descriptor. -/
def fetched (s : State) : State := (served s ⟨ID.dma, 0, false, false⟩ (readRq 0x030000000000 32)).1
def doneBytes : List Byte := leBytes 4 0x20000080
theorem dma_done {s : State} {dst : Nat} (h : (s.rd (DMA.CH_CTL.VAT 15) = 0 ∧ s.rd (DMA.CH_STAT.STATE 15) = 1 ∧ s.initHeld ID.dma = false ∧
      (s.dmaCh 15).desc = 0x030000000000 ∧ dst % 64 = 0) ∧
    (accessOk s ⟨ID.dma, 0, false, false⟩ (readRq 0x030000000000 32) = true ∧
      dmaDesc (lineSlice (served s ⟨ID.dma, 0, false, false⟩ (readRq 0x030000000000 32)).2.2 0 32) = some ⟨0, dst, 1, 0x20000000, 0⟩) ∧
    accessOk (fetched s) ⟨ID.dma, 0, false, false⟩ (writeRq dst [0#8]) = true) :
    let v := s.rd (DMA.CH_CTL.VAT 15); let q : Req := ⟨ID.dma, v, false, false⟩; let x := s.dmaCh 15
    let u := if s.rd (DMA.CH_STAT.STATE 15) = 1 ∧ v ≠ 0 ∧ s.clamped v = true then s.dmaAbort 15 else s
    let r := u.memRead q x.desc 32 0; let m := r.1.dmaMove 15 q ⟨0, dst, 1, 0x20000000, 0⟩
    let b := m.1.dmaBack q x.desc 0x20000000 m.2.2.toNat
    u.initHeld ID.dma = false ∧ u.rd (DMA.CH_STAT.STATE 15) = 1 ∧ r.2.1 = .okay ∧ dmaDesc r.2.2 = some ⟨0, dst, 1, 0x20000000, 0⟩ ∧ m.2.1 = true ∧
      b = (filled (fetched s) dst).memWrite ⟨ID.dma, 0, false, false⟩ 0x030000000014 doneBytes false 0 := by
  obtain ⟨⟨h1, h2, h3, h4, h5⟩, ⟨h6, h7⟩, h8⟩ := h
  simp only [h1, h2, h3, h4, ne_eq, not_true_eq_false, false_and, and_false, if_false]
  rw [memRead_served h6]
  simp only
  have e := fill_one (s := fetched s) (dst := dst) (by rw [h8, decide_eq_true h5]; rfl)
  rw [show (served s ⟨ID.dma, 0, false, false⟩ (readRq 0x030000000000 32)).1 = fetched s from rfl, e]
  refine ⟨trivial, trivial, trivial, h7, rfl, ?_⟩
  rfl
def dmaOk : State := latFull 991 (dmaIn 1 0x030000000040#64)
def dmaLocked : State := ((latFull 991 (dmaIn 1 0x030000001000#64)).wr (SCP.LOCK_CTL.PAGES 0) 1).wr (SCP.LOCK_CTL.LOCKED 0) 1
/-- The base point of P-256 in the encoding of a key, and 16 bytes. -/
def aPoint : List Byte := 4#8 :: numBe 32 0x6B17D1F2E12C4247F8BCE6E563A440F277037D812DEB33A0F4A13945D898C296
  ++ numBe 32 0x4FE342E2FE1A7F9B8EE7EB4A7C0F9E162BCE33576B315ECECBB6406837BF51F5 ++ zeros 16
def timedClu : State := { sec223 with fab := { sec223.fab with sync := [(8 * 57343 + 7, 3)] } }
/-- So many bits of PRBS7 from a state on, the first lowest. -/
def prbs7 : Nat → Nat → Nat
  | 0, _ => 0
  | j + 1, r => (prbsNext ([7, 6], false) r).1.toNat + 2 * prbs7 j (prbsNext ([7, 6], false) r).2
theorem not_memory_frame (g : Fin 57344) : 0 ≠ memFrame g.val := by
  intro h; rw [memFrame, sectorFrame] at h; omega

/-! What is not well-formed is refused: one term for each check. -/

theorem test_initiator_range : wellFormed (.commitClose ⟨1024, 0, false, false⟩) = false ∧
    wellFormed (.commitClose ⟨1023, 15, false, false⟩) = true := by decide
theorem test_vat_range : wellFormed (.commitClose ⟨0, 16, false, false⟩) = false := by decide
/-- An envelope whose MAC has n bytes. -/
def macOf (n : Nat) : ImmEnv := ⟨0, 0, 0, 0x88B5, false, 1, 1, false, 0, 0, 0, 0, 0, 0, List.replicate n 0#8, 0⟩
theorem test_mac_length : wellFormed (.immAck (macOf 15)) = false ∧ wellFormed (.immAck (macOf 16)) = true := by decide
theorem test_body_length : wellFormed (.identify (macOf 16) (zeros 1461)) = false ∧
    wellFormed (.identify (macOf 16) (zeros 1460)) = true := by decide +kernel
theorem test_spelled_body_length : wellFormed (.celOpRead (macOf 16) (zeros 1460)) = false ∧
    wellFormed (.celOpRead (macOf 16) (zeros 1459)) = true := by decide +kernel
theorem test_no_words : wellFormed (.spanInitFrame 0 []) = false := by decide
theorem test_nine_upsets : wellFormed (.scratchpadAccess 0 (List.replicate 9 0#72)) = false := by decide
theorem test_bit_twice : wellFormed (.scrubRead 0 [5, 5]) = false ∧ wellFormed (.scrubRead 0 [5, 6]) = true := by decide
theorem test_plane_bit_twice : wellFormed (.commitCloseDone 0 [(false, 0, [7, 7])]) = false := by decide
theorem test_no_bytes : wellFormed (.rxFrame 0 [] false 0 false false) = false := by decide
theorem test_no_capacity : wellFormed (.dmDeferredServe 0 0) = false ∧ wellFormed (.dmDeferredServe 0 1) = true := by decide
theorem test_thirteen_taps : wellFormed (.rxLocked 0 0 0 (List.replicate 13 0)) = false := by decide
theorem test_bist_word : wellFormed (.bistDone 0 0 32768 0 0 [] [] []) = false ∧
    wellFormed (.bistDone 0 0 0 72 0 [] [] []) = false ∧ wellFormed (.bistDone 0 0 0 0 (2 ^ 20) [] [] []) = false := by decide
theorem test_register_offset : wellFormed (.registerWrite starter 0x10000000 4 0) = false ∧
    wellFormed (.registerWrite starter 0 0 0) = false ∧ wellFormed (.registerWrite starter 0 65 0) = false := by decide

/-! Values the spec writes out. -/

/-- The examples after R145. -/
theorem test_generator_wraps : (AgSt.walk ⟨64, 32, 95, 1⟩).ptr = 64 ∧ (AgSt.walk ⟨64, 32, 65, -3⟩).ptr = 94 := by decide
/-- The table of the Churn chapter's worked example: frames B, A and C. -/
theorem test_frame_numbers : sectorFrame 14 (1152 * 0 + 5) = sectorFrame 14 5 ∧ sectorFrame 14 5 = 72453 ∧
    sectorFrame 29 100 = 80612 ∧ sectorFrame 44 300 = 88876 := by decide
/-- A two-step Sync of the time chapter's worked example, over Ethernet. -/
def aSync (corr : Nat) (rt : Nat) : List Byte :=
  zeros 12 ++ [0x88#8, 0xF7#8, 0#8, 2#8] ++ numBe 2 44 ++ [0#8, 0#8, 2#8, 0#8] ++ numBe 8 corr ++ numBe 4 rt ++ zeros 24
/-- The residence of that example: 79,632 units, 0x04DC_4000, are added, and messageTypeSpecific is 0. -/
theorem test_residence : ptpTx false true (aSync 0x28000 3071311248) 832000079008 = some (aSync 0x4DEC000 0) := by decide +kernel
/-- At reception the same example leaves RT. -/
theorem test_receive_stamp : ptpRx (aSync 0x28000 0) 831999999376 = some (aSync 0x28000 3071311248) := by decide +kernel
/-- Bit n of the check value is frame bit 2,048 + n: a frame of one bit alone is corrected in that bit. -/
theorem test_one_bit_frame : chkFrame lastBit = .fixed 1 2071 0 := chk_bit rfl

/-! Hypotheses that can be met. -/

/-- Host 3 with a queue of events. -/
def queued (l : List EvEntry) : State := { up with mgt := { up.mgt with hosts := [(3, { queue := l })] } }
/-- A state of the invariant and a command it runs. -/
theorem witness_StepsKeepTheInvariant : ∃ s t : State, Inv s ∧ step s = .next t ∧ s.pending ≠ [] :=
  ⟨{ up with pending := [.hioOutputsReturn 0 0 ] }, _, ⟨ctrs_ok (by decide +kernel), hosts_ok (by decide +kernel),
    regs_ok (by decide +kernel), memory_ok (by decide +kernel)⟩, rfl, by decide +kernel⟩
theorem witness_CommandsKeepTheirFrames : ∃ (c : Instr) (s t : State), exec c s = .next t :=
  ⟨.hioOutputsReturn 0 0, up, _, rfl⟩
/-- Each memory at its last word, and another word of it. -/
theorem witness_MemoriesReadBack : ∃ s : State, s.memoryOk ∧ s.dramOk ∧
    (∃ (dm : Bool) (i k i' k' : Nat), k < memWords dm ∧ k' < memWords dm ∧ (dm, i', k') ≠ (dm, i, k)) ∧
    (∃ g a g' a' : Nat, a < 1024 ∧ a' < 1024 ∧ (g', a') ≠ (g, a)) ∧ (∃ k j : Nat, j ≠ k) ∧
    (∃ p n p' m : Nat, (p', m) ≠ (p, n)) ∧
    ∃ c, ∃ r i r' i' : Nat, c ∈ s.dram.ch ∧ i < 2 ^ 30 ∧ i' < 2 ^ 30 ∧ (r', i') ≠ (r, i) :=
  ⟨ddr7 5 { inq := [(0, [])] }, memory_ok (by decide +kernel), dram_ok (by decide +kernel), ⟨true, 111, 32767, 111, 0, by decide⟩,
    ⟨10751, 1023, 10751, 0, by decide⟩, ⟨4095, 0, by decide⟩, ⟨1, 21503, 0, 21503, by decide⟩,
    ⟨(7, { inq := [(0, [])] }), 1, 2 ^ 30 - 1, 0, 0, by decide +kernel⟩⟩
/-- Host 3's queue is free, holds the event, is full with a less severe last entry, and is full of events as severe. -/
theorem witness_EventQueues : ∃ (s0 s1 s2 s3 s4 : State) (d0 d : EvData), s0.hostsOk ∧ s1.hostsOk ∧ s2.hostsOk ∧ s3.hostsOk ∧ s4.hostsOk ∧
    d0.sev = 3 ∧ d.sev = 1 ∧ (0 ≠ 3) ∧
    (∃ l y m, (s1.host 3).queue = l ++ y :: m ∧ EvEntry.joins d y = true ∧ (∀ z ∈ l, EvEntry.joins d z = false)) ∧
    ((∀ y ∈ (s2.host 3).queue, EvEntry.joins d0 y = false) ∧ (s2.host 3).queue.length = 255) ∧
    ((∀ y ∈ (s3.host 3).queue, EvEntry.joins d y = false) ∧ 256 ≤ (s3.host 3).queue.length ∧ d.sev ≤ 1 ∧
      ∃ v l y m, d.sev < v ∧ v < 4 ∧ (s3.host 3).queue = l ++ y :: m ∧ (y.sent = none ∧ y.d.sev = v) ∧
        (∀ z ∈ m, ¬ (z.sent = none ∧ z.d.sev = v)) ∧ (∀ z ∈ (s3.host 3).queue, z.sent = none → z.d.sev < 4 → z.d.sev ≤ v)) ∧
    ((∀ y ∈ (s4.host 3).queue, EvEntry.joins d y = false) ∧ 256 ≤ (s4.host 3).queue.length ∧
      (∀ z ∈ (s4.host 3).queue, z.sent = none → z.d.sev < 4 → z.d.sev ≤ d.sev)) :=
  let d : EvData := ⟨0x1302, 1, 0, 0, []⟩
  let d1 : EvData := ⟨0x1301, 1, 0, 0, []⟩
  let y1 : EvEntry := { anEv with d := d1 }
  let y3 : EvEntry := { anEv with d := { d1 with sev := 3 } }
  ⟨up, queued [anEv, { anEv with d := d }], queued (List.replicate 255 anEv), queued (List.replicate 255 y1 ++ [y3]),
    queued (List.replicate 256 y1), { d with sev := 3 }, d, hosts_ok (by decide +kernel), hosts_ok (by decide +kernel),
    hosts_ok (by decide +kernel), hosts_ok (by decide +kernel), hosts_ok (by decide +kernel), rfl, rfl, by decide,
    ⟨[anEv], { anEv with d := d }, [], by decide +kernel⟩, by decide +kernel,
    ⟨by decide +kernel, by decide +kernel, by decide +kernel, 3, List.replicate 255 y1, y3, [], by decide +kernel⟩, by decide +kernel⟩
/-- A window that wraps, with its last word; STEP a multiple of LEN. -/
theorem witness_GeneratorsWalk : ∃ a : AgSt, a.base < 1024 ∧ 1 ≤ a.len ∧ a.len ≤ 1024 ∧ a.ptr < 1024 ∧ (a.len : Int) ∣ a.step ∧
    (∃ i, i < a.len ∧ a.ptr = (a.base + i) % 1024) :=
  ⟨⟨1023, 1024, 1022, -1024⟩, by decide, by decide, by decide, by decide, ⟨-1, rfl⟩, 1023, by decide⟩

theorem witness_StepsRunTheFrontCommand :
    (∃ (s : State) (c : _) (rest : _), s.pending = c :: rest) ∧
    (∃ (s : State), s.pending = []) :=
  ⟨⟨{ up with pending := [.xo32Loss] },
     (let s : State := { up with pending := [.xo32Loss] }; s.pending).head (by decide +kernel),
     (let s : State := { up with pending := [.xo32Loss] }; s.pending).tail, by decide +kernel⟩,
   ⟨up, by decide +kernel⟩⟩
theorem witness_CountersCount :
    (∃ (s : State) (n : Nat), s.countersOk ∧ 0 < n) ∧
    (∃ (s : State) (n : Nat), s.countersOk ∧ n = 0) ∧
    (∃ (s : State) (off : Nat) (o : _), s.countersOk ∧ o ≠ off) ∧
    (∃ (s : State) (off : Nat) (n : Nat), let r := s.ctrAdd off n; s.countersOk ∧ r.2 = false) ∧
    (∃ (s : State) (off : Nat) (n : Nat), let r := s.ctrAdd off n; s.countersOk ∧ r.2 = true) ∧
    (∃ (s : State) (off : Nat) (q : Req), s.countersOk ∧ s.islandUp = true ∧ q.insp = false ∧
      s.busCheck q off 4 false = .okay ∧ ctrAt off = true) ∧
    (∃ (s : State) (off : Nat) (q : Req), s.countersOk ∧ s.islandUp = true ∧ q.insp = false ∧
      s.busCheck q (off + 4) 4 false = .okay ∧ ctrAt off = true ∧ ctrAt (off + 4) = false ∧ regAt (off + 4) = none) ∧
    (∃ (s : State) (off : Nat) (q : Req) (w : Word), s.countersOk ∧ s.islandUp = true ∧
      s.busCheck q (off + 4) 4 true = .okay ∧ ctrAt off = true ∧ ctrAt (off + 4) = false ∧ regAt (off + 4) = none ∧
      ((off + 4 < 0x2000000 ∨ 0x2080000 ≤ off + 4)) ∧ w.getLsbD 30 = true) ∧
    (∃ (s : State) (off : Nat) (q : Req) (w : Word), s.countersOk ∧ s.islandUp = true ∧
      s.busCheck q (off + 4) 4 true = .okay ∧ ctrAt off = true ∧ ctrAt (off + 4) = false ∧ regAt (off + 4) = none ∧
      ((off + 4 < 0x2000000 ∨ 0x2080000 ≤ off + 4)) ∧ w.getLsbD 30 = false) :=
  ⟨⟨up, 1, ctrs_ok (by decide +kernel), by decide +kernel⟩,
   ⟨up, 0, ctrs_ok (by decide +kernel), by decide +kernel⟩,
   ⟨up, 0x1040010, 0, ctrs_ok (by decide +kernel), by decide +kernel⟩,
   ⟨up, 0x1040010, 1, ctrs_ok (by decide +kernel), by decide +kernel⟩,
   ⟨(up.ctrAdd 0x1040010 (2 ^ 48 - 2)).1, 0x1040010, 1, ctrs_ok (by decide +kernel), by decide +kernel⟩,
   ⟨up, 0x1040010, starter, ctrs_ok (by decide +kernel), by decide +kernel⟩,
   ⟨up, 0x1040010, starter, ctrs_ok (by decide +kernel), by decide +kernel⟩,
   ⟨up, 0x1040010, starter, 0x40000000#32, ctrs_ok (by decide +kernel), by decide +kernel⟩,
   ⟨up, 0x1040010, starter, 0xBFFFFFFF#32, ctrs_ok (by decide +kernel), by decide +kernel⟩⟩
theorem witness_RegisterAccesses :
    (∃ (s : State) (q : Req) (off : BitVec 32) (n : Nat), s.islandUp = true ∧ s.busCheck q off.toNat n true ≠ .okay) ∧
    (∃ (s : State) (q : Req) (off : BitVec 32) (n : Nat), let a := if q.insp then aliasOf off.toNat else off.toNat;
      s.busCheck q a n false ≠ .okay) ∧
    (∃ (s : State) (q : Req) (off : BitVec 32) (n : Nat), n = 4 ∧ s.canWrite q off.toNat) ∧
    (∃ (off : BitVec 32), 0x10000000 ≤ off.toNat) ∧
    (∃ (off : BitVec 32) (n : Nat), off.toNat < 0x10000000 ∧ (off.toNat % 4 ≠ 0 ∨ n ≠ 4)) ∧
    (∃ (off : BitVec 32), off.toNat < 0x10000000 ∧ regAt off.toNat = none ∧ ctrAt off.toNat = false ∧
      ctrAt (off.toNat - 4) = false) ∧
    (∃ (q : Req) (off : BitVec 32), 0x300000 ≤ off.toNat ∧ off.toNat < 0x3000000 ∧ q.starter = false ∧ q.vat ≠ 0) ∧
    (∃ (q : Req) (off : BitVec 32), 0x6100010 ≤ off.toNat ∧ off.toNat < 0x6100030 ∧ q.starter = false) :=
  ⟨⟨up, starter, 0xFFFFFFC#32, 4, by decide +kernel⟩,
   ⟨up, starter, 0xFFFFFFF#32, 4, by decide +kernel⟩,
   ⟨up, starter, 0x100000#32, 4, by decide +kernel, can_write (by decide +kernel)⟩,
   ⟨0x10000000#32, by decide +kernel⟩,
   ⟨0xFFFFFFF#32, 4, by decide +kernel⟩,
   ⟨0xFFFFFFC#32, by decide +kernel⟩,
   ⟨⟨64, 1, false, false⟩, 0x2FFFFFC#32, by decide +kernel⟩,
   ⟨⟨64, 0, false, false⟩, 0x6100010#32, by decide +kernel⟩⟩
theorem witness_AccessTypes :
    (∃ (s : State) (off : Nat) (d : RegDesc) (f : _) (i : _), s.regsOk ∧ regAt off = some d ∧ f ∈ d.flds ∧ f.lo ≤ i ∧
      i ≤ f.hi) ∧
    (∃ (s : State) (off : Nat) (d : RegDesc) (i : _), s.regsOk ∧ regAt off = some d ∧
      ((∀ f ∈ d.flds, ¬ (f.lo ≤ i ∧ i ≤ f.hi)))) ∧
    (∃ (s : State) (off : Nat) (d : RegDesc) (o : _), s.regsOk ∧ regAt off = some d ∧ o ≠ off) :=
  ⟨⟨up, 0x100000, (let off : Nat := 0x100000; regAt off).get (by decide +kernel),
     ((regAt 0x100000).get (by decide +kernel)).flds.head (by decide +kernel), 3, regs_ok (by decide +kernel),
     by decide +kernel⟩,
   ⟨up, 0x100000, (let off : Nat := 0x100000; regAt off).get (by decide +kernel), 4, regs_ok (by decide +kernel),
     by decide +kernel⟩,
   ⟨up, 0x100000, (let off : Nat := 0x100000; regAt off).get (by decide +kernel), 0, regs_ok (by decide +kernel),
     by decide +kernel⟩⟩
theorem witness_AccumulatorResults :
    (∃ (v : Int), -(2 ^ 63) ≤ v ∧ v ≤ 2 ^ 63 - 1) ∧
    (∃ (v : Int) (sat : Bool), 2 ^ 63 - 1 < v ∧ sat = true) ∧
    (∃ (v : Int) (sat : Bool), 2 ^ 63 - 1 < v ∧ sat = false) ∧
    (∃ (v : Int) (sat : Bool), v < -(2 ^ 63) ∧ sat = true) ∧
    (∃ (v : Int) (sat : Bool), v < -(2 ^ 63) ∧ sat = false) :=
  ⟨⟨2 ^ 63 - 1, by decide +kernel⟩,
   ⟨2 ^ 63, true, by decide +kernel⟩,
   ⟨2 ^ 63, false, by decide +kernel⟩,
   ⟨-(2 ^ 63) - 1, true, by decide +kernel⟩,
   ⟨-(2 ^ 63) - 1, false, by decide +kernel⟩⟩
theorem witness_AccessesRun :
    (∃ (s : State) (a : Fin 1024) (vc : Fin 4) (m : Moving),
      ((tget s.noc.target a.val []).find? (fun m => m.inp == vc.val) = some m) ∧
      (1 < m.f.op ∨ s.belongs a.val m.f.addr = false)) ∧
    (∃ (s : State) (a : Fin 1024) (vc : Fin 4) (m : Moving),
      let port := decide (64 ≤ a.val) && decide (a.val < 960) && decide (a.val % 4 ≠ 3);
      let v := s.vatOfSector ((a.val - 64) / 4); ((tget s.noc.target a.val []).find? (fun m => m.inp == vc.val) = some m) ∧
      m.f.op ≤ 1 ∧ s.belongs a.val m.f.addr = true ∧ port = true ∧ (16 ≤ v ∨ s.clamped v = true)) ∧
    (∃ (s : State) (a : Fin 1024) (vc : Fin 4) (m : Moving),
      let port := decide (64 ≤ a.val) && decide (a.val < 960) && decide (a.val % 4 ≠ 3);
      let v := s.vatOfSector ((a.val - 64) / 4); ((tget s.noc.target a.val []).find? (fun m => m.inp == vc.val) = some m) ∧
      m.f.op ≤ 1 ∧ s.belongs a.val m.f.addr = true ∧ port = true ∧ v < 16 ∧ s.clamped v = false) ∧
    (∃ (s : State) (a : Fin 1024) (vc : Fin 4) (m : Moving),
      let port := decide (64 ≤ a.val) && decide (a.val < 960) && decide (a.val % 4 ≠ 3); let n := s.chanOf m.f.addr;
      let c := s.chan n; ((tget s.noc.target a.val []).find? (fun m => m.inp == vc.val) = some m) ∧ m.f.op ≤ 1 ∧
      s.belongs a.val m.f.addr = true ∧ port = false ∧ regionOf m.f.addr = .dram ∧
      (s.pwr.entry.isSome = true ∨ 16 ≤ (tget c.inq m.vat []).length)) ∧
    (∃ (s : State) (a : Fin 1024) (vc : Fin 4) (m : Moving),
      let port := decide (64 ≤ a.val) && decide (a.val < 960) && decide (a.val % 4 ≠ 3); let n := s.chanOf m.f.addr;
      let c := s.chan n; ((tget s.noc.target a.val []).find? (fun m => m.inp == vc.val) = some m) ∧ m.f.op ≤ 1 ∧
      s.belongs a.val m.f.addr = true ∧ port = false ∧ regionOf m.f.addr = .dram ∧ s.pwr.entry.isSome = false ∧
      (tget c.inq m.vat []).length < 16) ∧
    (∃ (s : State) (a : Fin 1024) (vc : Fin 4) (m : Moving),
      let port := decide (64 ≤ a.val) && decide (a.val < 960) && decide (a.val % 4 ≠ 3);
      ((tget s.noc.target a.val []).find? (fun m => m.inp == vc.val) = some m) ∧ m.f.op ≤ 1 ∧ s.belongs a.val m.f.addr = true ∧
      port = false ∧ regionOf m.f.addr = .regs) ∧
    (∃ (s : State) (a : Fin 1024) (vc : Fin 4) (m : Moving),
      let port := decide (64 ≤ a.val) && decide (a.val < 960) && decide (a.val % 4 ≠ 3);
      ((tget s.noc.target a.val []).find? (fun m => m.inp == vc.val) = some m) ∧ m.f.op ≤ 1 ∧ s.belongs a.val m.f.addr = true ∧
      port = false ∧ regionOf m.f.addr ≠ .dram ∧ regionOf m.f.addr ≠ .regs) ∧
    (∃ (s : State) (i : Fin 1024) (m : Moving) (t : List Moving), tget s.noc.resp i.val [] = m :: t ∧ m.f.op ≠ 8 ∧ m.f.op ≠ 9) ∧
    (∃ (s : State) (i : Fin 1024) (m : Moving) (t : List Moving), tget s.noc.resp i.val [] = m :: t ∧
      (m.f.op = 8 ∨ m.f.op = 9) ∧ s.tag i.val m.f.tag = none) ∧
    (∃ (s : State) (i : Fin 1024) (m : Moving) (t : List Moving) (y : _), tget s.noc.resp i.val [] = m :: t ∧
      (m.f.op = 8 ∨ m.f.op = 9) ∧ s.tag i.val m.f.tag = some y ∧ y.stamp ≠ m.stamp) ∧
    (∃ (s : State) (i : Fin 1024) (m : Moving) (t : List Moving) (y : _), tget s.noc.resp i.val [] = m :: t ∧
      (m.f.op = 8 ∨ m.f.op = 9) ∧ s.tag i.val m.f.tag = some y ∧ y.stamp = m.stamp ∧ y.orphan = true) ∧
    (∃ (s : State) (i : Fin 1024) (m : Moving) (t : List Moving) (y : _), tget s.noc.resp i.val [] = m :: t ∧
      (m.f.op = 8 ∨ m.f.op = 9) ∧ s.tag i.val m.f.tag = some y ∧ y.stamp = m.stamp ∧ y.orphan = false ∧ y.quar = true) ∧
    (∃ (s : State) (i : Fin 1024) (m : Moving) (t : List Moving) (y : _), tget s.noc.resp i.val [] = m :: t ∧
      (m.f.op = 8 ∨ m.f.op = 9) ∧ s.tag i.val m.f.tag = some y ∧ y.stamp = m.stamp ∧ y.orphan = false ∧ y.quar = false) ∧
    (∃ (s : State) (i : Fin 1024) (t : Fin 1024) (y : _), s.tag i.val t.val = some y ∧ y.quar = false ∧ y.orphan = false) :=
  ⟨⟨arrives up 983 (aFlit 64 0 2 0x03F000000000), 983, 0,
     (let s : State := arrives up 983 (aFlit 64 0 2 0x03F000000000); let a : Fin 1024 := 983; let vc : Fin 4 := 0; (tget s.noc.target a.val []).find? (fun m => m.inp == vc.val)).get (by decide +kernel),
     by decide +kernel⟩,
   ⟨arrives up 64 (aFlit 64 0 1 0x010000000000), 64, 0,
     (let s : State := arrives up 64 (aFlit 64 0 1 0x010000000000); let a : Fin 1024 := 64; let vc : Fin 4 := 0; (tget s.noc.target a.val []).find? (fun m => m.inp == vc.val)).get (by decide +kernel),
     by decide +kernel⟩,
   ⟨arrives run1 64 (aFlit 64 0 1 0x010000000000), 64, 0,
     (let s : State := arrives run1 64 (aFlit 64 0 1 0x010000000000); let a : Fin 1024 := 64; let vc : Fin 4 := 0; (tget s.noc.target a.val []).find? (fun m => m.inp == vc.val)).get (by decide +kernel),
     by decide +kernel⟩,
   ⟨arrives (fullIn up) 0 (aFlit 64 0 1 0), 0, 0,
     (let s : State := arrives (fullIn up) 0 (aFlit 64 0 1 0); let a : Fin 1024 := 0; let vc : Fin 4 := 0; (tget s.noc.target a.val []).find? (fun m => m.inp == vc.val)).get (by decide +kernel),
     by decide +kernel⟩,
   ⟨arrives up 0 (aFlit 64 0 1 0), 0, 0,
     (let s : State := arrives up 0 (aFlit 64 0 1 0); let a : Fin 1024 := 0; let vc : Fin 4 := 0; (tget s.noc.target a.val []).find? (fun m => m.inp == vc.val)).get (by decide +kernel),
     by decide +kernel⟩,
   ⟨arrives up 986 (aFlit 64 0 1 0x03FF00000000), 986, 0,
     (let s : State := arrives up 986 (aFlit 64 0 1 0x03FF00000000); let a : Fin 1024 := 986; let vc : Fin 4 := 0; (tget s.noc.target a.val []).find? (fun m => m.inp == vc.val)).get (by decide +kernel),
     by decide +kernel⟩,
   ⟨arrives up 983 (aFlit 64 0 1 0x03F01FFFFFFF), 983, 0,
     (let s : State := arrives up 983 (aFlit 64 0 1 0x03F01FFFFFFF); let a : Fin 1024 := 983; let vc : Fin 4 := 0; (tget s.noc.target a.val []).find? (fun m => m.inp == vc.val)).get (by decide +kernel),
     by decide +kernel⟩,
   ⟨answers up 1023 (aFlit 1023 1023 2 0), 1023,
     (let s : State := answers up 1023 (aFlit 1023 1023 2 0); let i : Fin 1024 := 1023; tget s.noc.resp i.val []).head (by decide +kernel),
     (let s : State := answers up 1023 (aFlit 1023 1023 2 0); let i : Fin 1024 := 1023; tget s.noc.resp i.val []).tail,
     by decide +kernel⟩,
   ⟨answers up 1023 (aFlit 1023 1023 8 0), 1023,
     (let s : State := answers up 1023 (aFlit 1023 1023 8 0); let i : Fin 1024 := 1023; tget s.noc.resp i.val []).head (by decide +kernel),
     (let s : State := answers up 1023 (aFlit 1023 1023 8 0); let i : Fin 1024 := 1023; tget s.noc.resp i.val []).tail,
     by decide +kernel⟩,
   ⟨answers (up.setTag 1023 1023 ⟨4, 0, true, false, false⟩) 1023 (aFlit 1023 1023 8 0), 1023,
     (let s : State := answers (up.setTag 1023 1023 ⟨4, 0, true, false, false⟩) 1023 (aFlit 1023 1023 8 0); let i : Fin 1024 := 1023; tget s.noc.resp i.val []).head (by decide +kernel),
     (let s : State := answers (up.setTag 1023 1023 ⟨4, 0, true, false, false⟩) 1023 (aFlit 1023 1023 8 0); let i : Fin 1024 := 1023; tget s.noc.resp i.val []).tail,
     (let s : State := answers (up.setTag 1023 1023 ⟨4, 0, true, false, false⟩) 1023 (aFlit 1023 1023 8 0); let i : Fin 1024 := 1023; let m : Moving := (let s : State := answers (up.setTag 1023 1023 ⟨4, 0, true, false, false⟩) 1023 (aFlit 1023 1023 8 0); let i : Fin 1024 := 1023; tget s.noc.resp i.val []).head (by decide +kernel); s.tag i.val m.f.tag).get (by decide +kernel),
     by decide +kernel⟩,
   ⟨answers (up.setTag 1023 1023 ⟨5, 0, true, true, false⟩) 1023 (aFlit 1023 1023 8 0), 1023,
     (let s : State := answers (up.setTag 1023 1023 ⟨5, 0, true, true, false⟩) 1023 (aFlit 1023 1023 8 0); let i : Fin 1024 := 1023; tget s.noc.resp i.val []).head (by decide +kernel),
     (let s : State := answers (up.setTag 1023 1023 ⟨5, 0, true, true, false⟩) 1023 (aFlit 1023 1023 8 0); let i : Fin 1024 := 1023; tget s.noc.resp i.val []).tail,
     (let s : State := answers (up.setTag 1023 1023 ⟨5, 0, true, true, false⟩) 1023 (aFlit 1023 1023 8 0); let i : Fin 1024 := 1023; let m : Moving := (let s : State := answers (up.setTag 1023 1023 ⟨5, 0, true, true, false⟩) 1023 (aFlit 1023 1023 8 0); let i : Fin 1024 := 1023; tget s.noc.resp i.val []).head (by decide +kernel); s.tag i.val m.f.tag).get (by decide +kernel),
     by decide +kernel⟩,
   ⟨answers (up.setTag 1023 1023 ⟨5, 0, true, false, true⟩) 1023 (aFlit 1023 1023 8 0), 1023,
     (let s : State := answers (up.setTag 1023 1023 ⟨5, 0, true, false, true⟩) 1023 (aFlit 1023 1023 8 0); let i : Fin 1024 := 1023; tget s.noc.resp i.val []).head (by decide +kernel),
     (let s : State := answers (up.setTag 1023 1023 ⟨5, 0, true, false, true⟩) 1023 (aFlit 1023 1023 8 0); let i : Fin 1024 := 1023; tget s.noc.resp i.val []).tail,
     (let s : State := answers (up.setTag 1023 1023 ⟨5, 0, true, false, true⟩) 1023 (aFlit 1023 1023 8 0); let i : Fin 1024 := 1023; let m : Moving := (let s : State := answers (up.setTag 1023 1023 ⟨5, 0, true, false, true⟩) 1023 (aFlit 1023 1023 8 0); let i : Fin 1024 := 1023; tget s.noc.resp i.val []).head (by decide +kernel); s.tag i.val m.f.tag).get (by decide +kernel),
     by decide +kernel⟩,
   ⟨answers (up.setTag 1023 1023 ⟨5, 0, true, false, false⟩) 1023 (aFlit 1023 1023 8 0), 1023,
     (let s : State := answers (up.setTag 1023 1023 ⟨5, 0, true, false, false⟩) 1023 (aFlit 1023 1023 8 0); let i : Fin 1024 := 1023; tget s.noc.resp i.val []).head (by decide +kernel),
     (let s : State := answers (up.setTag 1023 1023 ⟨5, 0, true, false, false⟩) 1023 (aFlit 1023 1023 8 0); let i : Fin 1024 := 1023; tget s.noc.resp i.val []).tail,
     (let s : State := answers (up.setTag 1023 1023 ⟨5, 0, true, false, false⟩) 1023 (aFlit 1023 1023 8 0); let i : Fin 1024 := 1023; let m : Moving := (let s : State := answers (up.setTag 1023 1023 ⟨5, 0, true, false, false⟩) 1023 (aFlit 1023 1023 8 0); let i : Fin 1024 := 1023; tget s.noc.resp i.val []).head (by decide +kernel); s.tag i.val m.f.tag).get (by decide +kernel),
     by decide +kernel⟩,
   ⟨up.setTag 1023 1023 ⟨5, 0, true, false, false⟩, 1023, 1023,
     (let s : State := up.setTag 1023 1023 ⟨5, 0, true, false, false⟩; let i : Fin 1024 := 1023; let t : Fin 1024 := 1023; s.tag i.val t.val).get (by decide +kernel),
     by decide +kernel⟩⟩
theorem witness_ScratchAndDmaRun :
    (∃ (s : State) (b : Fin 32), let id := ID.scratch (b.val / 16); let q := tget s.noc.serve id [];
      let mine := q.filter fun m => scrBank m.f.addr == b.val; (s.scr.test.contains b.val = true ∨ s.scrPick b.val mine = none)) ∧
    (∃ (s : State) (b : Fin 32) (m : _), let id := ID.scratch (b.val / 16); let q := tget s.noc.serve id [];
      let mine := q.filter fun m => scrBank m.f.addr == b.val; s.scr.test.contains b.val = false ∧
      s.scrPick b.val mine = some m) ∧
    (∃ (s : State) (q : Req) (k : Fin 4) (w : Word), s.canWrite q (0x6100014 + 8 * k.val) ∧
      s.bit (SCP.LOCK_CTL.LOCKED k.val) = false ∧ 1 ≤ wget w 11 0 ∧ wget w 11 0 ≤ 2048) ∧
    (∃ (s : State) (q : Req) (k : Fin 4) (w : Word), s.canWrite q (0x6100014 + 8 * k.val) ∧
      (s.bit (SCP.LOCK_CTL.LOCKED k.val) = true ∨ wget w 11 0 = 0 ∨ 2048 < wget w 11 0)) ∧
    (∃ (s : State) (q : Req) (c : Fin 16) (w : Word), let st := s.rd (DMA.CH_STAT.STATE c.val);
      let mayVat := wget w 3 0 = s.rd (DMA.CH_CTL.VAT c.val) ∨ (adminReq q = true ∧ st = 0);
      s.canWrite q (0x6201000 + 0x100 * c.val) ∧ mayVat ∧ w.getLsbD 31 = false) ∧
    (∃ (s : State) (q : Req) (c : Fin 16) (w : Word), let st := s.rd (DMA.CH_STAT.STATE c.val);
      let mayVat := wget w 3 0 = s.rd (DMA.CH_CTL.VAT c.val) ∨ (adminReq q = true ∧ st = 0);
      s.canWrite q (0x6201000 + 0x100 * c.val) ∧ mayVat ∧ w.getLsbD 31 = true ∧ st ≠ 1) ∧
    (∃ (s : State) (q : Req) (c : Fin 16) (w : Word), let st := s.rd (DMA.CH_STAT.STATE c.val);
      let mayVat := wget w 3 0 = s.rd (DMA.CH_CTL.VAT c.val) ∨ (adminReq q = true ∧ st = 0);
      s.canWrite q (0x6201000 + 0x100 * c.val) ∧ (¬ mayVat)) ∧
    (∃ (s : State) (q : Req) (c : Fin 16) (w : Word), let st := s.rd (DMA.CH_STAT.STATE c.val);
      s.canWrite q (0x6201000 + 0x100 * c.val) ∧ st = 1 ∧ w.getLsbD 31 = true) ∧
    (∃ (s : State) (c : Fin 16), let v := s.rd (DMA.CH_CTL.VAT c.val);
      let u := if s.rd (DMA.CH_STAT.STATE c.val) = 1 ∧ v ≠ 0 ∧ s.clamped v = true then s.dmaAbort c.val else s;
      u.initHeld ID.dma = true) ∧
    (∃ (s : State) (c : Fin 16), let v := s.rd (DMA.CH_CTL.VAT c.val); let q : Req := ⟨ID.dma, v, false, false⟩;
      let x := s.dmaCh c.val;
      let u := if s.rd (DMA.CH_STAT.STATE c.val) = 1 ∧ v ≠ 0 ∧ s.clamped v = true then s.dmaAbort c.val else s;
      let r := u.memRead q x.desc 32 0; u.initHeld ID.dma = false ∧ u.rd (DMA.CH_STAT.STATE c.val) = 1 ∧ r.2.1 ≠ .okay) ∧
    (∃ (s : State) (c : Fin 16), let v := s.rd (DMA.CH_CTL.VAT c.val); let q : Req := ⟨ID.dma, v, false, false⟩;
      let x := s.dmaCh c.val;
      let u := if s.rd (DMA.CH_STAT.STATE c.val) = 1 ∧ v ≠ 0 ∧ s.clamped v = true then s.dmaAbort c.val else s;
      let r := u.memRead q x.desc 32 0; u.initHeld ID.dma = false ∧ u.rd (DMA.CH_STAT.STATE c.val) = 1 ∧ r.2.1 = .okay ∧
      dmaDesc r.2.2 = none) ∧
    (∃ (s : State) (c : Fin 16) (d : _), let v := s.rd (DMA.CH_CTL.VAT c.val); let q : Req := ⟨ID.dma, v, false, false⟩;
      let x := s.dmaCh c.val;
      let u := if s.rd (DMA.CH_STAT.STATE c.val) = 1 ∧ v ≠ 0 ∧ s.clamped v = true then s.dmaAbort c.val else s;
      let r := u.memRead q x.desc 32 0; let m := r.1.dmaMove c.val q d; u.initHeld ID.dma = false ∧
      u.rd (DMA.CH_STAT.STATE c.val) = 1 ∧ r.2.1 = .okay ∧ dmaDesc r.2.2 = some d ∧ m.2.1 = false) ∧
    (∃ (s : State) (c : Fin 16) (d : DmaDesc), let v := s.rd (DMA.CH_CTL.VAT c.val);
      let q : Req := ⟨ID.dma, v, false, false⟩; let x := s.dmaCh c.val;
      let u := if s.rd (DMA.CH_STAT.STATE c.val) = 1 ∧ v ≠ 0 ∧ s.clamped v = true then s.dmaAbort c.val else s;
      let r := u.memRead q x.desc 32 0; let m := r.1.dmaMove c.val q d; let b := m.1.dmaBack q x.desc d.w5 m.2.2.toNat;
      u.initHeld ID.dma = false ∧ u.rd (DMA.CH_STAT.STATE c.val) = 1 ∧ r.2.1 = .okay ∧ dmaDesc r.2.2 = some d ∧ m.2.1 = true ∧
      b.2 ≠ .okay) ∧
    (∃ (s : State) (c : Fin 16) (d : DmaDesc), let v := s.rd (DMA.CH_CTL.VAT c.val);
      let q : Req := ⟨ID.dma, v, false, false⟩; let x := s.dmaCh c.val;
      let u := if s.rd (DMA.CH_STAT.STATE c.val) = 1 ∧ v ≠ 0 ∧ s.clamped v = true then s.dmaAbort c.val else s;
      let r := u.memRead q x.desc 32 0; let m := r.1.dmaMove c.val q d; let b := m.1.dmaBack q x.desc d.w5 m.2.2.toNat;
      u.initHeld ID.dma = false ∧ u.rd (DMA.CH_STAT.STATE c.val) = 1 ∧ r.2.1 = .okay ∧ dmaDesc r.2.2 = some d ∧ m.2.1 = true ∧
      b.2 = .okay) ∧
    (∃ (s : State) (c : Fin 16) (d : _), let v := s.rd (DMA.CH_CTL.VAT c.val); let q : Req := ⟨ID.dma, v, false, false⟩;
      let x := s.dmaCh c.val;
      let u := if s.rd (DMA.CH_STAT.STATE c.val) = 1 ∧ v ≠ 0 ∧ s.clamped v = true then s.dmaAbort c.val else s;
      let r := u.memRead q x.desc 32 0; u.initHeld ID.dma = false ∧ u.rd (DMA.CH_STAT.STATE c.val) ≠ 1 ∧
      (u.dmaCh c.val).owed = true ∧ r.2.1 = .okay ∧ dmaDesc r.2.2 = some d) ∧
    (∃ (s : State) (c : Fin 16), let v := s.rd (DMA.CH_CTL.VAT c.val); let q : Req := ⟨ID.dma, v, false, false⟩;
      let x := s.dmaCh c.val;
      let u := if s.rd (DMA.CH_STAT.STATE c.val) = 1 ∧ v ≠ 0 ∧ s.clamped v = true then s.dmaAbort c.val else s;
      let r := u.memRead q x.desc 32 0; u.initHeld ID.dma = false ∧ u.rd (DMA.CH_STAT.STATE c.val) ≠ 1 ∧
      (u.dmaCh c.val).owed = true ∧ (r.2.1 ≠ .okay ∨ dmaDesc r.2.2 = none)) :=
  ⟨⟨up, 31, by decide +kernel⟩,
   ⟨{ up with noc := { up.noc with serve := tput up.noc.serve 996 [⟨aFlit 64 0 0 0x030000000FC0, 0, 0, 0, 0, 5, 0⟩] [] } },
     31,
     (let s : State := { up with noc := { up.noc with serve := tput up.noc.serve 996 [⟨aFlit 64 0 0 0x030000000FC0, 0, 0, 0, 0, 5, 0⟩] [] } }; let b : Fin 32 := 31; let id := ID.scratch (b.val / 16); let q := tget s.noc.serve id []; let mine := q.filter fun m => scrBank m.f.addr == b.val; s.scrPick b.val mine).get (by decide +kernel),
     by decide +kernel⟩,
   ⟨up, starter, 3, 2048#32, can_write (by decide +kernel), by decide +kernel⟩,
   ⟨up, starter, 3, 0#32, can_write (by decide +kernel), by decide +kernel⟩,
   ⟨up, starter, 15, 0#32, can_write (by decide +kernel), by decide +kernel⟩,
   ⟨up, starter, 15, 0x80000000#32, can_write (by decide +kernel), by decide +kernel⟩,
   ⟨up.wr (DMA.CH_STAT.STATE 15) 2, starter, 15, 1#32, can_write (by decide +kernel), by decide +kernel⟩,
   ⟨up.wr (DMA.CH_STAT.STATE 15) 1, starter, 15, 0x80000000#32, can_write (by decide +kernel), by decide +kernel⟩,
   ⟨(up.wr (NOC.INIT_CFG.BIND 991) 1).wr (NOC.REG_CFG.UNLIM 0) 0, 15, by decide +kernel⟩,
   ⟨up.wr (DMA.CH_STAT.STATE 15) 1, 15, by decide +kernel⟩,
   ⟨(up.wr (DMA.CH_STAT.STATE 15) 1).setDmaCh 15 { desc := 0x030000000000 }, 15, by decide +kernel⟩,
   ⟨dmaIn 1 0x020002000000#64, 15,
     (let s : State := dmaIn 1 0x020002000000#64; let c : Fin 16 := 15; let v := s.rd (DMA.CH_CTL.VAT c.val); let q : Req := ⟨ID.dma, v, false, false⟩; let x := s.dmaCh c.val; let u := if s.rd (DMA.CH_STAT.STATE c.val) = 1 ∧ v ≠ 0 ∧ s.clamped v = true then s.dmaAbort c.val else s; let r := u.memRead q x.desc 32 0; dmaDesc r.2.2).get (by decide +kernel),
     by decide +kernel⟩,
   (have h := dma_done (s := dmaLocked) (dst := 0x030000001000) (by decide +kernel); ⟨dmaLocked, 15, ⟨0, 0x030000001000, 1, 0x20000000, 0⟩, h.1, h.2.1, h.2.2.1, h.2.2.2.1, h.2.2.2.2.1, fun hb => absurd ((congrArg Prod.snd h.2.2.2.2.2).symm.trans hb) (by decide +kernel)⟩),
   (have h := dma_done (s := dmaOk) (dst := 0x030000000040) (by decide +kernel); ⟨dmaOk, 15, ⟨0, 0x030000000040, 1, 0x20000000, 0⟩, h.1, h.2.1, h.2.2.1, h.2.2.2.1, h.2.2.2.2.1, (congrArg Prod.snd h.2.2.2.2.2).trans (congrArg Prod.snd (memWrite_served (by decide +kernel)))⟩),
   ⟨dmaIn 2 0x030000000040#64, 15,
     (let s : State := dmaIn 2 0x030000000040#64; let c : Fin 16 := 15; let v := s.rd (DMA.CH_CTL.VAT c.val); let q : Req := ⟨ID.dma, v, false, false⟩; let x := s.dmaCh c.val; let u := if s.rd (DMA.CH_STAT.STATE c.val) = 1 ∧ v ≠ 0 ∧ s.clamped v = true then s.dmaAbort c.val else s; let r := u.memRead q x.desc 32 0; dmaDesc r.2.2).get (by decide +kernel),
     by decide +kernel⟩,
   ⟨up.setDmaCh 15 { owed := true }, 15, by decide +kernel⟩⟩
theorem witness_TimingEventsRun :
    (∃ (s : State), s.timeOn = true) ∧
    (∃ (s : State), s.timeOn = false) ∧
    (∃ (s : State) (ref : Bool), s.bit (tclkFlag ref) = false) ∧
    (∃ (s : State) (ref : Bool), let t := s.wrb (tclkFlag ref) false; let t := if ref then t else t.bump TIME.TREFLOSS_CNT;
      s.bit (tclkFlag ref) = true ∧ t.bit TIME.TCLK_CTL.SRC = ref ∧ t.bit TIME.TCLK_STAT.HOLD = false) ∧
    (∃ (s : State) (ref : Bool), let t := s.wrb (tclkFlag ref) false; let t := if ref then t else t.bump TIME.TREFLOSS_CNT;
      s.bit (tclkFlag ref) = true ∧ (t.bit TIME.TCLK_CTL.SRC ≠ ref ∨ t.bit TIME.TCLK_STAT.HOLD = true)) ∧
    (∃ (s : State), s.bit TIME.TCLK_STAT.LOCK = false ∧ s.bit TIME.TCLK_STAT.HOLD = false ∧ s.tclkReady = true ∧
      s.timeOn = true) ∧
    (∃ (s : State), s.bit TIME.TCLK_STAT.HOLD = true ∧ s.tclkReady = true) ∧
    (∃ (s : State) (b : Fin 8), (s.rd (TIME.TB_CTL.WDOG b.val) = 0 ∨ (s.tb b.val).started = false ∨ (s.tb b.val).hold = true)) ∧
    (∃ (s : State) (b : Fin 8), s.rd (TIME.TB_CTL.WDOG b.val) ≠ 0 ∧ (s.tb b.val).started = true ∧ (s.tb b.val).hold = false) ∧
    (∃ (s : State) (i : Fin 15),
      let due := s.bit (TIME.CMP_CTL.ARM i.val) = true ∧ s.cmpAt i.val ≤ s.tbNow (s.rd (TIME.CMP_CTL.TB i.val)); (¬ due)) ∧
    (∃ (s : State) (i : Fin 15),
      let due := s.bit (TIME.CMP_CTL.ARM i.val) = true ∧ s.cmpAt i.val ≤ s.tbNow (s.rd (TIME.CMP_CTL.TB i.val));
      let v := s.rd (TIME.CMP_CTL.OWNER i.val);
      let t := (s.wrb (TIME.CMP_CTL.ARM i.val) false).wrb (TIME.CMP_STAT.FIRED i.val) true; due ∧ t.clamped v = true) ∧
    (∃ (s : State) (i : Fin 15),
      let due := s.bit (TIME.CMP_CTL.ARM i.val) = true ∧ s.cmpAt i.val ≤ s.tbNow (s.rd (TIME.CMP_CTL.TB i.val));
      let v := s.rd (TIME.CMP_CTL.OWNER i.val);
      let t := (s.wrb (TIME.CMP_CTL.ARM i.val) false).wrb (TIME.CMP_STAT.FIRED i.val) true; due ∧ t.clamped v = false) ∧
    (∃ (s : State) (k : Fin 16), let x := s.tp k.val;
      let due := s.bit (TIME.TP_CTL.EN k.val) = true ∧ x.on = false ∧ s.tpInstant k.val x.next ≤ s.tbFlat (s.rd (TIME.TP_CTL.TB k.val)) + s.rd (TIME.TP_COMP.COMP k.val);
      (¬ due)) ∧
    (∃ (s : State) (k : Fin 16), let x := s.tp k.val;
      let due := s.bit (TIME.TP_CTL.EN k.val) = true ∧ x.on = false ∧ s.tpInstant k.val x.next ≤ s.tbFlat (s.rd (TIME.TP_CTL.TB k.val)) + s.rd (TIME.TP_COMP.COMP k.val);
      due) ∧
    (∃ (s : State) (k : Fin 16), let x := s.tp k.val; x.on = false) ∧
    (∃ (s : State) (k : Fin 16), let x := s.tp k.val; x.on = true) ∧
    (∃ (s : State) (j : Fin 9) (rise : Bool) (near : Bool),
      let wanted := (s.rd (TIME.CAP_CTL.EDGE j.val)).testBit (if rise then 0 else 1);
      (s.bit (TIME.CAP_CTL.EN j.val) = false ∨ near = true ∨ wanted = false)) ∧
    (∃ (s : State) (j : Fin 9) (rise : Bool) (near : Bool),
      let wanted := (s.rd (TIME.CAP_CTL.EDGE j.val)).testBit (if rise then 0 else 1); s.bit (TIME.CAP_CTL.EN j.val) = true ∧
      near = false ∧ wanted = true ∧ (s.cap j.val).length < 4) ∧
    (∃ (s : State) (j : Fin 9) (rise : Bool) (near : Bool),
      let wanted := (s.rd (TIME.CAP_CTL.EDGE j.val)).testBit (if rise then 0 else 1); s.bit (TIME.CAP_CTL.EN j.val) = true ∧
      near = false ∧ wanted = true ∧ 4 ≤ (s.cap j.val).length) :=
  ⟨⟨up, by decide +kernel⟩,
   ⟨up.wr (PWR.MODE_STAT.MODE) 0, by decide +kernel⟩,
   ⟨up, false, by decide +kernel⟩,
   ⟨up.wr ((tclkFlag false)) 1, false, by decide +kernel⟩,
   ⟨(up.wr ((tclkFlag false)) 1).wr (TIME.TCLK_STAT.HOLD) 1, false, by decide +kernel⟩,
   ⟨up.wr ((tclkFlag false)) 1, by decide +kernel⟩,
   ⟨(up.wr ((tclkFlag false)) 1).wr (TIME.TCLK_STAT.HOLD) 1, by decide +kernel⟩,
   ⟨up, 7, by decide +kernel⟩,
   ⟨(up.setTb 7 { started := true }).wr (TIME.TB_CTL.WDOG 7) 1000, 7, by decide +kernel⟩,
   ⟨up, 14, by decide +kernel⟩,
   ⟨(((up.setTb 0 { started := true })).wr (TIME.CMP_CTL.ARM 14) 1).wr (VAT.VAT_STAT.CLAMPED 0) 1, 14, by decide +kernel⟩,
   ⟨((up.setTb 0 { started := true })).wr (TIME.CMP_CTL.ARM 14) 1, 14, by decide +kernel⟩,
   ⟨up, 15, by decide +kernel⟩,
   ⟨((up.setTb 0 { started := true })).wr (TIME.TP_CTL.EN 15) 1, 15, by decide +kernel⟩,
   ⟨up, 15, by decide +kernel⟩,
   ⟨up.setTp 15 ⟨true, 1⟩, 15, by decide +kernel⟩,
   ⟨up, 8, false, false, by decide +kernel⟩,
   ⟨(up.wr (TIME.CAP_CTL.EN 8) 1).wr (TIME.CAP_CTL.EDGE 8) 1, 8, true, false, by decide +kernel⟩,
   ⟨(((up.setCap 8 [⟨1, 0⟩, ⟨1, 0⟩, ⟨1, 0⟩, ⟨1, 0⟩])).wr (TIME.CAP_CTL.EN 8) 1).wr (TIME.CAP_CTL.EDGE 8) 2, 8, false, false,
     by decide +kernel⟩⟩
theorem witness_TimingWritesRun :
    (∃ (s : State) (q : Req) (w : Word),
      let other := wget w 0 0 ≠ s.rd TIME.TCLK_CTL.SRC ∧ s.bit (tclkFlag (wget w 0 0 == 1)) = false;
      let fixed := wget w 1 1 ≠ s.rd TIME.TCLK_CTL.TREF_25 ∧ s.rd TIME.TCLK_CTL.SRC = 0 ∧ s.bit TIME.TCLK_STAT.LOCK = true;
      s.canWrite q 0x5000000 ∧ (other ∨ fixed)) ∧
    (∃ (s : State) (q : Req) (w : Word),
      let other := wget w 0 0 ≠ s.rd TIME.TCLK_CTL.SRC ∧ s.bit (tclkFlag (wget w 0 0 == 1)) = false;
      let fixed := wget w 1 1 ≠ s.rd TIME.TCLK_CTL.TREF_25 ∧ s.rd TIME.TCLK_CTL.SRC = 0 ∧ s.bit TIME.TCLK_STAT.LOCK = true;
      s.canWrite q 0x5000000 ∧ (¬ other) ∧ (¬ fixed)) ∧
    (∃ (s : State) (q : Req) (w : Word) (b : Fin 8), let r := w.toNat * 2 ^ 32 + s.rd (TIME.RATE_LO.RATE b.val);
      s.canWrite q (0x500100C + 0x100 * b.val) ∧ rateWordOk r = false) ∧
    (∃ (s : State) (q : Req) (w : Word) (b : Fin 8), let r := w.toNat * 2 ^ 32 + s.rd (TIME.RATE_LO.RATE b.val);
      s.canWrite q (0x500100C + 0x100 * b.val) ∧ rateWordOk r = true) ∧
    (∃ (s : State) (q : Req) (w : Word) (b : Fin 8), let x := s.tb b.val; s.canWrite q (0x5001000 + 0x100 * b.val) ∧
      (x.cmd ≠ 0 ∨ 1000 < wget w 25 16)) ∧
    (∃ (s : State) (q : Req) (b : Fin 8), s.canWrite q (0x5001000 + 0x100 * b.val) ∧
      (s.time.ever = false ∨ 999999999 < s.rd (TIME.ARG_NS.NS b.val))) ∧
    (∃ (s : State) (q : Req) (b : Fin 8), let x := s.tb b.val; s.canWrite q (0x5001000 + 0x100 * b.val) ∧ x.started = false) ∧
    (∃ (s : State) (q : Req) (w : Word) (b : Fin 8), let x := s.tb b.val; s.canWrite q (0x5001000 + 0x100 * b.val) ∧
      x.cmd = 0 ∧ wget w 25 16 ≤ 1000 ∧ s.time.ever = true ∧ s.rd (TIME.ARG_NS.NS b.val) ≤ 999999999) ∧
    (∃ (s : State) (q : Req) (w : Word) (b : Fin 8), let x := s.tb b.val; s.canWrite q (0x5001000 + 0x100 * b.val) ∧
      x.cmd = 0 ∧ wget w 25 16 ≤ 1000 ∧ x.started = true) ∧
    (∃ (s : State) (q : Req) (w : Word) (i : Fin 15),
      let mine := timeAdmin q = true ∨ wget w 27 24 = s.rd (TIME.CMP_CTL.OWNER i.val);
      s.canWrite q (0x5004000 + 0x40 * i.val) ∧ ((s.tb (wget w 18 16)).started = false ∨ ¬ mine)) ∧
    (∃ (s : State) (q : Req) (w : Word) (i : Fin 15),
      let mine := timeAdmin q = true ∨ wget w 27 24 = s.rd (TIME.CMP_CTL.OWNER i.val);
      s.canWrite q (0x5004000 + 0x40 * i.val) ∧ (¬ mine)) ∧
    (∃ (s : State) (q : Req) (w : Word) (i : Fin 15),
      let mine := timeAdmin q = true ∨ wget w 27 24 = s.rd (TIME.CMP_CTL.OWNER i.val);
      s.canWrite q (0x5004000 + 0x40 * i.val) ∧ (s.tb (wget w 18 16)).started = true ∧ mine) ∧
    (∃ (s : State) (q : Req) (w : Word) (k : Fin 16), let v := (w ||| 0x80000000#32) &&& (wmask 31 24 ||| wmask 18 16);
      let off := 0x5002000 + 0x40 * k.val; let mine := timeAdmin q = true ∨ wget v 27 24 = wget (s.reg off) 27 24;
      let unfit := (s.tb (wget v 18 16)).started = false ∨ s.rd (TIME.WIDTH_NS.NS k.val) < 2 ∨ (wget v 30 30 = 1 ∧ s.rd (TIME.PERIOD_NS.NS k.val) ≤ s.rd (TIME.WIDTH_NS.NS k.val));
      s.canWrite q (0x5002000 + 0x40 * k.val) ∧ s.bit (TIME.TP_CTL.EN k.val) = false ∧ mine ∧ (¬ unfit)) ∧
    (∃ (s : State) (q : Req) (w : Word) (k : Fin 16), let v := (w ||| 0x80000000#32) &&& (wmask 31 24 ||| wmask 18 16);
      let off := 0x5002000 + 0x40 * k.val; let mine := timeAdmin q = true ∨ wget v 27 24 = wget (s.reg off) 27 24;
      let unfit := (s.tb (wget v 18 16)).started = false ∨ s.rd (TIME.WIDTH_NS.NS k.val) < 2 ∨ (wget v 30 30 = 1 ∧ s.rd (TIME.PERIOD_NS.NS k.val) ≤ s.rd (TIME.WIDTH_NS.NS k.val));
      s.canWrite q (0x5002000 + 0x40 * k.val) ∧ s.bit (TIME.TP_CTL.EN k.val) = false ∧ (¬ mine ∨ unfit)) ∧
    (∃ (s : State) (q : Req) (w : Word) (k : Fin 16), let v := (w ||| 0x80000000#32) &&& (wmask 31 24 ||| wmask 18 16);
      let off := 0x5002000 + 0x40 * k.val; s.canWrite q (0x5002000 + 0x40 * k.val) ∧ s.bit (TIME.TP_CTL.EN k.val) = true ∧
      wset v 31 31 0 ≠ wset (s.reg off) 31 31 0) ∧
    (∃ (s : State) (q : Req) (w : Word) (k : Fin 16), let v := (w ||| 0x80000000#32) &&& (wmask 31 24 ||| wmask 18 16);
      let off := 0x5002000 + 0x40 * k.val; let mine := timeAdmin q = true ∨ wget v 27 24 = wget (s.reg off) 27 24;
      s.canWrite q (0x5002000 + 0x40 * k.val) ∧ s.bit (TIME.TP_CTL.EN k.val) = true ∧
      wset v 31 31 0 = wset (s.reg off) 31 31 0 ∧ mine) :=
  ⟨⟨up, starter, 1#32, can_write (by decide +kernel), by decide +kernel⟩,
   ⟨up, starter, 0#32, can_write (by decide +kernel), by decide +kernel⟩,
   ⟨up, starter, 0#32, 7, can_write (by decide +kernel), by decide +kernel⟩,
   ⟨up, starter, 2#32, 7, can_write (by decide +kernel), by decide +kernel⟩,
   ⟨up, starter, 0x03E90000#32, 7, can_write (by decide +kernel), by decide +kernel⟩,
   ⟨up, starter, 7, can_write (by decide +kernel), by decide +kernel⟩,
   ⟨up, starter, 7, can_write (by decide +kernel), by decide +kernel⟩,
   ⟨{ up with time := { up.time with ever := true } }, starter, 0x03E80000#32, 7, can_write (by decide +kernel),
     by decide +kernel⟩,
   ⟨up.setTb 7 { started := true }, starter, 0x03E80000#32, 7, can_write (by decide +kernel), by decide +kernel⟩,
   ⟨up, starter, 0#32, 14, can_write (by decide +kernel), by decide +kernel⟩,
   ⟨(up.wr (TIME.CMP_CTL.OWNER 14) 1).wr (VAT.PERM.TIME 1) 1, ⟨1, 1, false, false⟩, 0#32, 14, can_write (by decide +kernel),
     by decide +kernel⟩,
   ⟨up.setTb 0 { started := true }, starter, 0#32, 14, can_write (by decide +kernel), by decide +kernel⟩,
   ⟨(((up.setTb 7 { started := true })).wr (TIME.WIDTH_NS.NS 15) 2).wr (TIME.PERIOD_NS.NS 15) 3, starter, 0x40070000#32, 15,
     can_write (by decide +kernel), by decide +kernel⟩,
   ⟨((up.setTb 7 { started := true })).wr (TIME.WIDTH_NS.NS 15) 1, starter, 0x40070000#32, 15,
     can_write (by decide +kernel), by decide +kernel⟩,
   ⟨up.wr (TIME.TP_CTL.EN 15) 1, starter, 0x40000000#32, 15, can_write (by decide +kernel), by decide +kernel⟩,
   ⟨up.wr (TIME.TP_CTL.EN 15) 1, starter, 0#32, 15, can_write (by decide +kernel), by decide +kernel⟩⟩
theorem witness_PopReadsRun :
    (∃ (s : State), s.islandUp = false) ∧
    (∃ (s : State) (q : Req) (j : Fin 9), s.canRead q (0x5003008 + 0x40 * j.val)) ∧
    (∃ (s : State) (q : Req) (m : Fin 96), s.canRead q (0x5100014 + 0x100 * m.val)) ∧
    (∃ (s : State) (q : Req) (c : Fin 6), s.canRead q (0x6002004 + 0x40 * c.val)) ∧
    (∃ (s : State) (q : Req) (v : Fin 16), s.canRead q (0x6080000 + 0x1000 * v.val)) ∧
    (∃ (s : State) (q : Req) (k : Fin 20), s.canRead q (0x640000C + 0x1000 * k.val)) ∧
    (∃ (s : State) (q : Req), s.islandUp = true ∧ q.insp = true) ∧
    (∃ (s : State) (q : Req), s.islandUp = true ∧ q.insp = true) ∧
    (∃ (s : State) (q : Req), s.islandUp = true ∧ q.insp = true) ∧
    (∃ (s : State) (q : Req), s.islandUp = true ∧ q.insp = true) ∧
    (∃ (s : State) (q : Req), s.islandUp = true ∧ q.insp = true) :=
  ⟨⟨State.reset, by decide +kernel⟩,
   ⟨up, starter, 8, can_read (by decide +kernel)⟩,
   ⟨up, starter, 95, can_read (by decide +kernel)⟩,
   ⟨up, ⟨990, 0, false, false⟩, 5, can_read (by decide +kernel)⟩,
   ⟨up, starter, 15, can_read (by decide +kernel)⟩,
   ⟨up, starter, 19, can_read (by decide +kernel)⟩,
   ⟨up, ⟨980, 0, true, true⟩, by decide +kernel⟩,
   ⟨up, ⟨980, 0, true, true⟩, by decide +kernel⟩,
   ⟨up, ⟨980, 0, true, true⟩, by decide +kernel⟩,
   ⟨up, ⟨980, 0, true, true⟩, by decide +kernel⟩,
   ⟨up, ⟨980, 0, true, true⟩, by decide +kernel⟩⟩
theorem witness_ClockRootEventsRun :
    (∃ (s : State), (s.powered = false ∨ s.pwr.held = true)) ∧
    (∃ (s : State), s.powered = true ∧ s.pwr.held = false ∧ s.clk.waited = false) ∧
    (∃ (s : State) (b : Bool), s.regsOk ∧ s.bit (refFlag b.toNat) = true ∧
      (s.bit CLK.ROOT_STAT.LOCK = true ∨ s.clk.relocking = true) ∧ s.rd CLK.ROOT_CTRL.SRC = b.toNat) ∧
    (∃ (s : State) (b : Bool), s.bit (refFlag b.toNat) = true ∧ s.rd CLK.ROOT_CTRL.SRC ≠ b.toNat) ∧
    (∃ (s : State), s.bit CLK.ROOT_STAT.COAST = true ∧ s.clk.fell = true ∧ s.clk.relocking = false) ∧
    (∃ (s : State), s.bit CLK.ROOT_STAT.COAST = true ∧ s.clk.told = false) ∧
    (∃ (s : State), s.mode = M.boot ∧ s.bit CLK.ROOT_STAT.LOCK = false ∧ s.bit CLK.ROOT_STAT.COAST = false ∧
      s.bit CLK.ROOT_STAT.REF_OK = false ∧ s.clk.waited = false ∧ s.bit CLK.ROOT_STAT.REFB_OK = true) ∧
    (∃ (s : State), s.mode = M.boot ∧ s.bit CLK.ROOT_STAT.LOCK = false ∧ s.bit CLK.ROOT_STAT.COAST = false ∧
      s.bit CLK.ROOT_STAT.REF_OK = false ∧ s.clk.waited = false ∧ s.bit CLK.ROOT_STAT.REFB_OK = false) ∧
    (∃ (s : State), s.powered = true ∧ s.bit CLK.ROOT_STAT.LOCK = false ∧ s.bit CLK.ROOT_STAT.COAST = false ∧
      s.srcReady = true) ∧
    (∃ (s : State), s.clk.switching = true) ∧
    (∃ (s : State), s.bit CLK.ROOT_STAT.COAST = true ∧ s.bit CLK.ROOT_CTRL.AUTO_RELOCK = true ∧ s.srcReady = true ∧
      s.clk.relocking = false) ∧
    (∃ (s : State), s.clk.relocking = true ∧ s.srcReady = true) :=
  ⟨⟨up.wr (PWR.MODE_STAT.MODE) 1, by decide +kernel⟩,
   ⟨{ up with clk := { up.clk with waited := false } }, by decide +kernel⟩,
   ⟨(up.wr (refFlag 0) 1).wr (CLK.ROOT_STAT.LOCK) 1, false, regs_ok (by decide +kernel), by decide +kernel⟩,
   ⟨up.wr (refFlag 1) 1, true, by decide +kernel⟩,
   ⟨{ (up.wr CLK.ROOT_STAT.COAST 1) with clk := { up.clk with fell := true, relocking := false, told := false } },
     by decide +kernel⟩,
   ⟨{ (up.wr CLK.ROOT_STAT.COAST 1) with clk := { up.clk with fell := true, relocking := false, told := false } },
     by decide +kernel⟩,
   ⟨((({ up with clk := { up.clk with waited := false } })).wr (PWR.MODE_STAT.MODE) 2).wr (CLK.ROOT_STAT.REFB_OK) 1,
     by decide +kernel⟩,
   ⟨(({ up with clk := { up.clk with waited := false } })).wr (PWR.MODE_STAT.MODE) 2, by decide +kernel⟩,
   ⟨up.wr (CLK.ROOT_STAT.REF_OK) 1, by decide +kernel⟩,
   ⟨{ up with clk := { up.clk with switching := true } }, by decide +kernel⟩,
   ⟨((up.wr (CLK.ROOT_STAT.REF_OK) 1).wr (CLK.ROOT_STAT.COAST) 1).wr (CLK.ROOT_CTRL.AUTO_RELOCK) 1, by decide +kernel⟩,
   ⟨(({ up with clk := { up.clk with relocking := true } })).wr (CLK.ROOT_STAT.REF_OK) 1, by decide +kernel⟩⟩
theorem witness_ClockLinesRun :
    (∃ (s : State) (q : Fin 4) (l : Fin 8), s.bit (CLK.FCL.SWITCHING q.val l.val) = true) ∧
    (∃ (s : State) (q : Fin 4) (l : Fin 8), s.rd (CLK.FCL.SRC_ACT q.val l.val) ≠ 0 ∧ s.rd (CLK.FCL.SRC_ACT q.val l.val) ≤ 6) ∧
    (∃ (s : State) (n : Fin 4), s.bit (CLK.OSC.EN n.val) = true) ∧
    (∃ (s : State) (sec : Fin 224), let v := s.gateMap sec.val;
      let loading := (tget s.cfg.loads v none).isSome || (tget s.cfg.loads 0 none).isSome;
      let powers := decide (tget s.cfg.gating v 0 = 2) || (decide (tget s.cfg.gating v 0 ≠ 1) && !s.bit (VAT.VAT_STAT.GATED v));
      v < 16 ∧ powers = true ∧ (s.bit (VAT.VAT_STAT.FAILED v) = false ∨ loading = true)) ∧
    (∃ (s : State) (sec : Fin 224), let v := s.gateMap sec.val;
      let loading := (tget s.cfg.loads v none).isSome || (tget s.cfg.loads 0 none).isSome;
      let powers := decide (tget s.cfg.gating v 0 = 2) || (decide (tget s.cfg.gating v 0 ≠ 1) && !s.bit (VAT.VAT_STAT.GATED v));
      (16 ≤ v ∨ powers = false ∨ (s.bit (VAT.VAT_STAT.FAILED v) = true ∧ loading = false))) ∧
    (∃ (s : State) (g : Fin 11), s.groupWork g.val = false) :=
  ⟨⟨up.wr (CLK.FCL.SWITCHING 3 7) 1, 3, 7, by decide +kernel⟩,
   ⟨up.wr (CLK.FCL.SRC_ACT 3 7) 6, 3, 7, by decide +kernel⟩,
   ⟨up.wr (CLK.OSC.EN 3) 1, 3, by decide +kernel⟩,
   ⟨up.setReg 0x2000DC 0x00FFFFFF#32, 223, by decide +kernel⟩,
   ⟨up, 0, by decide +kernel⟩,
   ⟨up, 10, by decide +kernel⟩⟩
theorem witness_ClockWritesRun :
    (∃ (s : State) (q : Req) (w : Word), s.canWrite q 0 ∧ wget w 6 6 = 0 ∧ wget w 0 0 ≠ s.rd CLK.ROOT_CTRL.SRC ∧
      s.bit (refFlag (wget w 0 0)) = true ∧ s.bit CLK.ROOT_STAT.LOCK = false) ∧
    (∃ (s : State) (q : Req) (w : Word), s.canWrite q 0 ∧ wget w 0 0 ≠ s.rd CLK.ROOT_CTRL.SRC ∧
      s.bit (refFlag (wget w 0 0)) = false) ∧
    (∃ (s : State) (q : Req) (w : Word), s.canWrite q 0 ∧ wget w 0 0 = s.rd CLK.ROOT_CTRL.SRC ∧ s.srcReady = true ∧
      s.bit CLK.ROOT_STAT.COAST = true) ∧
    (∃ (s : State) (q : Req) (w : Word) (d : Fin 16), s.canWrite q (0x100 + 4 * d.val) ∧ d.val ≠ 4 ∧ d.val ≠ 5 ∧
      divAllowed d.val (wget w 7 0) = true) ∧
    (∃ (s : State) (q : Req) (w : Word) (d : Fin 16), s.canWrite q (0x100 + 4 * d.val) ∧ d.val ≠ 5 ∧
      divAllowed d.val (wget w 7 0) = false) ∧
    (∃ (s : State) (q : Req) (w : Word) (k : Fin 4) (l : Fin 8), s.canWrite q (0x200 + 0x20 * k.val + 4 * l.val) ∧
      fclCode (wget w 7 0) = true ∧ wget w 7 0 ≠ s.rd (CLK.FCL.SRC k.val l.val) ∧ ((wget w 7 0 = 0 ∨ 6 < wget w 7 0)) ∧
      s.fclReady k.val (wget w 7 0) false = true) ∧
    (∃ (s : State) (q : Req) (w : Word) (n : Fin 4), s.canWrite q (0x300 + 4 * n.val) ∧ 1 ≤ wget w 7 0 ∧ wget w 7 0 ≤ 16 ∧
      wget w 7 0 ≠ s.rd (CLK.OSC.FREQ n.val)) :=
  ⟨⟨up.wr (refFlag 1) 1, starter, 1#32, can_write (by decide +kernel), by decide +kernel⟩,
   ⟨up, starter, 1#32, can_write (by decide +kernel), by decide +kernel⟩,
   ⟨(up.wr (CLK.ROOT_STAT.REF_OK) 1).wr (CLK.ROOT_STAT.COAST) 1, starter, 0#32, can_write (by decide +kernel),
     by decide +kernel⟩,
   ⟨up, starter, 60#32, 0, can_write (by decide +kernel), by decide +kernel⟩,
   ⟨up, starter, 0#32, 15, can_write (by decide +kernel), by decide +kernel⟩,
   ⟨up.wr (CLK.FCL.SRC 3 7) 1, starter, 0#32, 3, 7, can_write (by decide +kernel), by decide +kernel⟩,
   ⟨up, starter, 16#32, 3, can_write (by decide +kernel), by decide +kernel⟩⟩
theorem witness_PowerRuns :
    (∃ (s : State), s.pwr.held = true) ∧
    (∃ (ns : Nat), ns < 100) ∧
    (∃ (s : State) (ns : Nat), 1000 ≤ ns ∧ s.pwr.held = false ∧ s.pwr.rst ≠ some 2 ∧ ((∀ r, s.pwr.rst = some r → 2 < r))) ∧
    (∃ (s : State), s.pwr.rst.isSome = true) ∧
    (∃ (s : State) (q : Req), s.canWrite q 0x1000C) ∧
    (∃ (s : State) (q : Req) (w : Word), s.mode ≠ M.keep ∧ s.canWrite q 0x10004 ∧ s.powerRefused (wget w 1 0) = false) ∧
    (∃ (s : State) (q : Req) (w : Word), s.mode ≠ M.keep ∧ s.canWrite q 0x10004 ∧ s.powerRefused (wget w 1 0) = true) ∧
    (∃ (s : State) (w : Word), s.mode = M.keep ∧ wget w 1 0 = 3 ∧ s.powerRefused 3 = false) ∧
    (∃ (s : State) (target : Nat) (wake : Nat), s.pwr.entry = some (target, wake) ∧ s.cellarIdle (target == 3) = true) ∧
    (∃ (s : State) (i : Fin 128), s.asleep = true ∧ s.bit (IRQ.SRC_CFG.WAKE (832 + i.val)) = true ∧
      wakes (s.mode == M.off) (832 + i.val) = true) ∧
    (∃ (s : State), s.pwr.timer.isSome = true ∧ s.asleep = true ∧ s.bit (IRQ.SRC_CFG.WAKE 886) = false) ∧
    (∃ (s : State) (src : Option Nat), s.pwr.waking = some src) ∧
    (∃ (s : State) (target : Nat) (wake : Nat), s.mgt.lateAct = some (.power target wake) ∧ s.powerRefused target = false) ∧
    (∃ (s : State) (typ : Nat) (host : Nat), s.mgt.lateAct = some (.reset typ host)) :=
  ⟨⟨State.reset, by decide +kernel⟩,
   ⟨99, by decide +kernel⟩,
   ⟨up, 1000, by decide +kernel⟩,
   ⟨{ up with pwr := { up.pwr with rst := some 3 } }, by decide +kernel⟩,
   ⟨up, starter, can_write (by decide +kernel)⟩,
   ⟨up.wr (CLK.ROOT_STAT.XO32_OK) 1, starter, 3#32, by decide +kernel, can_write (by decide +kernel), by decide +kernel⟩,
   ⟨up.wr (PWR.MODE_STAT.MODE) 2, starter, 3#32, by decide +kernel, can_write (by decide +kernel), by decide +kernel⟩,
   ⟨(up.wr (PWR.MODE_STAT.MODE) 1).wr (CLK.ROOT_STAT.XO32_OK) 1, 3#32, by decide +kernel⟩,
   ⟨{ up with pwr := { up.pwr with entry := some (3, 0) } }, 3, 0, by decide +kernel⟩,
   ⟨(up.wr (PWR.MODE_STAT.MODE) 1).wr (IRQ.SRC_CFG.WAKE 947) 1, 115, by decide +kernel⟩,
   ⟨(({ up with pwr := { up.pwr with timer := some 0 } })).wr (PWR.MODE_STAT.MODE) 1, by decide +kernel⟩,
   ⟨{ up with pwr := { up.pwr with waking := some none } },
     (let s : State := { up with pwr := { up.pwr with waking := some none } }; s.pwr.waking).get (by decide +kernel),
     by decide +kernel⟩,
   ⟨(({ up with mgt := { up.mgt with lateAct := some (.power 3 0) } })).wr (CLK.ROOT_STAT.XO32_OK) 1, 3, 0,
     by decide +kernel⟩,
   ⟨{ up with mgt := { up.mgt with lateAct := some (.reset 0 0) } }, 0, 0, by decide +kernel⟩⟩
theorem witness_SliceArithmeticRuns :
    (∃ (s : State) (g : Fin 10752), s.issues g 0x01) ∧
    (∃ (s : State) (g : Fin 10752), let u := s.closeCycle g; let x := u.began g; let w := s.isWord g (s.slice g).pc;
      s.issues g 0x02 ∧ (((iAx w = true ∨ iBsrc w = 2) → x.x ≠ []))) ∧
    (∃ (s : State) (g : Fin 10752), let u := s.closeCycle g; let x := u.began g; let w := s.isWord g (s.slice g).pc;
      s.issues g 0x02 ∧ ((iAx w = true ∨ iBsrc w = 2)) ∧ x.x = []) ∧
    (∃ (s : State) (g : Fin 10752) (v : BitVec 36) (p : Bool) (xs : List (BitVec 36 × Bool)), let u := s.closeCycle g;
      let x := u.began g; s.issues g 0x08 ∧ x.x = (v, p) :: xs) ∧
    (∃ (s : State) (g : Fin 10752), let u := s.closeCycle g; let x := u.began g; s.issues g 0x08 ∧ x.x = []) ∧
    (∃ (s : State) (g : Fin 10752), let u := s.closeCycle g; let x := u.began g; let w := s.isWord g (s.slice g).pc;
      s.issues g 0x09 ∧ ((w.getLsbD 2 = false → x.y.length < 2))) ∧
    (∃ (s : State) (g : Fin 10752), let u := s.closeCycle g; let x := u.began g; let w := s.isWord g (s.slice g).pc;
      s.issues g 0x09 ∧ w.getLsbD 2 = false ∧ 2 ≤ x.y.length) ∧
    (∃ (s : State) (g : Fin 10752), let u := s.closeCycle g; let x := u.began g; let w := s.isWord g (s.slice g).pc;
      s.issues g 0x0A ∧ ((iAx w = true → x.x ≠ []))) ∧
    (∃ (s : State) (g : Fin 10752), let u := s.closeCycle g; let x := u.began g; let w := s.isWord g (s.slice g).pc;
      s.issues g 0x0A ∧ iAx w = true ∧ x.x = []) ∧
    (∃ (s : State) (g : Fin 10752), let u := s.closeCycle g; let x := u.began g; let w := s.isWord g (s.slice g).pc;
      s.issues g 0x0B ∧ ((iAx w = true → x.x ≠ []))) ∧
    (∃ (s : State) (g : Fin 10752), let u := s.closeCycle g; let x := u.began g; let w := s.isWord g (s.slice g).pc;
      s.issues g 0x0B ∧ iAx w = true ∧ x.x = []) ∧
    (∃ (s : State) (g : Fin 10752), s.issues g 0x0C) :=
  ⟨⟨atSlice 0x08000000#32 { st := 1 }, 10751, issues_of (by decide +kernel)⟩,
   ⟨atSlice 0x10000000#32 { st := 1 }, 10751, issues_of (by decide +kernel), by decide +kernel⟩,
   ⟨atSlice 0x10002000#32 { st := 1 }, 10751, issues_of (by decide +kernel), by decide +kernel⟩,
   ⟨atSlice 0x40000000#32 { st := 1, x := [(5, false)] }, 10751, 5#36, false, [], issues_of (by decide +kernel),
     by decide +kernel⟩,
   ⟨atSlice 0x40000000#32 { st := 1 }, 10751, issues_of (by decide +kernel), by decide +kernel⟩,
   ⟨atSlice 0x48000000#32 { st := 1 }, 10751, issues_of (by decide +kernel), by decide +kernel⟩,
   ⟨atSlice 0x48000000#32 { st := 1, y := [(0, false), (0, false)] }, 10751, issues_of (by decide +kernel),
     by decide +kernel⟩,
   ⟨atSlice 0x50000000#32 { st := 2 }, 10751, issues_of (by decide +kernel), by decide +kernel⟩,
   ⟨atSlice 0x50002000#32 { st := 2 }, 10751, issues_of (by decide +kernel), by decide +kernel⟩,
   ⟨(atSlice 0x58000000#32 { st := 1 }).setLive (sectorFrame 223 1151) (1#2072 <<< 47), 10751,
     issues_of (by decide +kernel), by decide +kernel⟩,
   ⟨(atSlice 0x58002000#32 { st := 1 }).setLive (sectorFrame 223 1151) (1#2072 <<< 47), 10751,
     issues_of (by decide +kernel), by decide +kernel⟩,
   ⟨atSlice 0x60000000#32 { st := 1 }, 10751, issues_of (by decide +kernel)⟩⟩
theorem witness_SliceControlRuns :
    (∃ (s : State) (g : Fin 10752), s.issues g 0x00) ∧
    (∃ (s : State) (g : Fin 10752), s.issues g 0x10) ∧
    (∃ (s : State) (g : Fin 10752), s.issues g 0x11) ∧
    (∃ (s : State) (g : Fin 10752), s.issues g 0x12) ∧
    (∃ (s : State) (g : Fin 10752), s.issues g 0x13) ∧
    (∃ (s : State) (g : Fin 10752), s.issues g 0x14) ∧
    (∃ (s : State) (g : Fin 10752), s.issues g 0x15) ∧
    (∃ (s : State) (g : Fin 10752), let w := s.isWord g (s.slice g).pc; s.sliceHeld g = false ∧
      (((s.slice g).st = 1 ∨ (s.slice g).st = 2)) ∧ illegalAt (s.slice g) (s.coefWr g) w = true) ∧
    (∃ (s : State) (g : Fin 10752), s.sliceHeld g = true) ∧
    (∃ (s : State) (g : Fin 10752), s.sliceHeld g = true) :=
  ⟨⟨atSlice 0#32 { st := 1 }, 10751, issues_of (by decide +kernel)⟩,
   ⟨atSlice 0x80010000#32 { st := 1 }, 10751, issues_of (by decide +kernel)⟩,
   ⟨atSlice 0x88000000#32 { st := 1 }, 10751, issues_of (by decide +kernel)⟩,
   ⟨atSlice 0x90000000#32 { st := 1 }, 10751, issues_of (by decide +kernel)⟩,
   ⟨atSlice 0x98000000#32 { st := 1 }, 10751, issues_of (by decide +kernel)⟩,
   ⟨atSlice 0xA0000000#32 { st := 1 }, 10751, issues_of (by decide +kernel)⟩,
   ⟨atSlice 0xA8000000#32 { st := 1 }, 10751, issues_of (by decide +kernel)⟩,
   ⟨atSlice 0xF8000000#32 { st := 2 }, 10751, by decide +kernel⟩,
   ⟨up, 10751, by decide +kernel⟩,
   ⟨up, 10751, by decide +kernel⟩⟩
theorem witness_SlicePortsRun :
    (∃ (s : State) (g : Fin 10752) (src : PortSrc), let x := s.slice g; let v := (s.drawFor src).2;
      let d := (s.drawFor src).1; let k := portSlice g; s.sliceHeld g = false ∧ ((x.st = 0 ∨ x.st = 3)) ∧
      v.sees src d k 87 true = true) ∧
    (∃ (s : State) (g : Fin 10752) (src : PortSrc), let v := (s.drawFor src).2; let d := (s.drawFor src).1;
      let k := portSlice g; s.sliceHeld g = false ∧ v.sees src d k 88 true = true) ∧
    (∃ (s : State) (g : Fin 10752) (src : PortSrc), let x := s.slice g; let v := (s.drawFor src).2;
      let d := (s.drawFor src).1; let k := portSlice g; s.sliceHeld g = false ∧ x.st ≠ 4 ∧ x.x.length < 2 ∧
      v.sees src d k 36 true = true) ∧
    (∃ (s : State) (g : Fin 10752), let x := s.slice g; 2 ≤ x.x.length) ∧
    (∃ (s : State) (g : Fin 10752) (src : PortSrc), let v := (s.drawFor src).2; let d := (s.drawFor src).1;
      let k := portSlice g; s.sliceHeld g = false ∧ v.sees src d k 38 true = true) ∧
    (∃ (s : State) (g : Fin 10752) (src : PortSrc) (slot : Nat) (l : List Nat), let x := s.slice g;
      let v := (s.drawFor src).2; let d := (s.drawFor src).1; let k := portSlice g; s.sliceHeld g = false ∧
      (s.sliceCfg g).pEn = true ∧ v.sees src d k 86 true = true ∧ x.free = slot :: l ∧ x.pGnt = false) ∧
    (∃ (s : State) (g : Fin 10752) (src : PortSrc), let x := s.slice g; let v := (s.drawFor src).2;
      let d := (s.drawFor src).1; let k := portSlice g; s.sliceHeld g = false ∧ (s.sliceCfg g).pEn = true ∧
      v.sees src d k 86 true = true ∧ ((x.free = [] ∨ x.pGnt = true)) ∧ ((x.st = 1 ∨ x.st = 2))) ∧
    (∃ (s : State) (g : Fin 10752) (src : PortSrc), let x := s.slice g; let v := (s.drawFor src).2;
      let d := (s.drawFor src).1; let k := portSlice g; s.sliceHeld g = false ∧ (s.sliceCfg g).pEn = true ∧
      v.sees src d k 86 true = true ∧ ((x.free = [] ∨ x.pGnt = true)) ∧ x.st ≠ 1 ∧ x.st ≠ 2) ∧
    (∃ (s : State) (g : Fin 10752) (src : PortSrc), let x := s.slice g; let v := (s.drawFor src).2;
      let d := (s.drawFor src).1; let k := portSlice g; s.sliceHeld g = false ∧ (s.sliceCfg g).pEn = true ∧
      v.sees src d k 86 true = true ∧ (s.sliceCfg g).pSteal ≠ 0 ∧ ((x.st = 1 ∨ x.st = 2)) ∧ x.free = []) ∧
    (∃ (s : State) (g : Fin 10752), let x := s.slice g; s.sliceHeld g = false ∧ s.bit (SLC.INSP_CTL.BUSY g) = true ∧
      ((x.st = 1 ∨ x.st = 2)) ∧ x.free = [] ∧ x.haltReq = false) ∧
    (∃ (s : State) (g : Fin 10752) (q : Req), let x := s.slice g; let off := 0xC000000 + 0x1000 * g.val; s.canWrite q off ∧
      x.st = 1) ∧
    (∃ (s : State) (g : Fin 10752) (q : Req), let x := s.slice g; let off := 0xC000000 + 0x1000 * g.val; s.canWrite q off ∧
      x.st = 2) ∧
    (∃ (s : State) (g : Fin 10752) (q : Req), let x := s.slice g; let off := 0xC000000 + 0x1000 * g.val; s.canWrite q off ∧
      x.st = 4) ∧
    (∃ (s : State) (g : Fin 10752) (q : Req) (w : Word), let x := s.slice g; let off := 0xC000000 + 0x1000 * g.val;
      s.canWrite q (off + 0x50) ∧ s.bit (SLC.INSP_CTL.BUSY g) = false ∧ (w.getLsbD 29 && w.getLsbD 30) = false ∧
      ((x.st = 1 ∨ x.st = 2))) ∧
    (∃ (s : State) (g : Fin 10752) (q : Req) (w : Word), let x := s.slice g; let off := 0xC000000 + 0x1000 * g.val;
      s.canWrite q (off + 0x50) ∧ s.bit (SLC.INSP_CTL.BUSY g) = false ∧ (w.getLsbD 29 && w.getLsbD 30) = false ∧ x.st ≠ 1 ∧
      x.st ≠ 2) ∧
    (∃ (s : State) (g : Fin 10752) (q : Req), let off := 0xC000000 + 0x1000 * g.val; s.canWrite q (off + 0x50) ∧
      s.bit (SLC.INSP_CTL.BUSY g) = true) ∧
    (∃ (s : State) (g : Fin 10752) (q : Req), let x := s.slice g; let off := 0xC000000 + 0x1000 * g.val;
      s.canWrite q (off + 8) ∧ s.bit (SLC.FLAGS.ILLEGAL g) = true ∧ x.st = 5) :=
  ⟨⟨cfgSlice {} { st := 3 }, 10751, .given, by decide +kernel⟩,
   ⟨sec223, 10751, .given, by decide +kernel⟩,
   ⟨sec223.setSlice 10751 { st := 3, x := [(1, false)] }, 10751, .given, by decide +kernel⟩,
   ⟨sec223.setSlice 10751 { x := [(1, false), (1, false)] }, 10751, by decide +kernel⟩,
   ⟨sec223, 10751, .given, by decide +kernel⟩,
   ⟨cfgSlice { pEn := true } { st := 1, free := [0] }, 10751, .given,
     (let s : State := cfgSlice { pEn := true } { st := 1, free := [0] }; let g : Fin 10752 := 10751; let x := s.slice g; x.free).head (by decide +kernel),
     (let s : State := cfgSlice { pEn := true } { st := 1, free := [0] }; let g : Fin 10752 := 10751; let x := s.slice g; x.free).tail,
     by decide +kernel⟩,
   ⟨cfgSlice { pEn := true } { st := 1, free := [] }, 10751, .given, by decide +kernel⟩,
   ⟨cfgSlice { pEn := true } { st := 3, free := [0], pGnt := true }, 10751, .given, by decide +kernel⟩,
   ⟨cfgSlice { pEn := true, pSteal := 1 } { st := 2, free := [] }, 10751, .given, by decide +kernel⟩,
   ⟨((sec223.setSlice 10751 { st := 1, free := [] })).wr (SLC.INSP_CTL.BUSY 10751) 1, 10751, by decide +kernel⟩,
   ⟨sec223.setSlice 10751 { st := 1 }, 10751, starter, can_write (by decide +kernel), by decide +kernel⟩,
   ⟨sec223.setSlice 10751 { st := 2 }, 10751, starter, can_write (by decide +kernel), by decide +kernel⟩,
   ⟨sec223.setSlice 10751 { st := 4, prev := 1 }, 10751, starter, can_write (by decide +kernel), by decide +kernel⟩,
   ⟨sec223.setSlice 10751 { st := 1 }, 10751, starter, 0#32, can_write (by decide +kernel), by decide +kernel⟩,
   ⟨sec223, 10751, starter, 0#32, can_write (by decide +kernel), by decide +kernel⟩,
   ⟨sec223.wr (SLC.INSP_CTL.BUSY 10751) 1, 10751, starter, can_write (by decide +kernel), by decide +kernel⟩,
   ⟨((sec223.setSlice 10751 { st := 5 })).wr (SLC.FLAGS.ILLEGAL 10751) 1, 10751, starter, can_write (by decide +kernel),
     by decide +kernel⟩⟩
theorem witness_BlockMemoryAccessRuns :
    (∃ (s : State) (b : Fin 13440) (pb : Bool) (t : ArrT) (src : PortSrc) (a : BitVec 15), let n := (s.drawFor src).1;
      let v := (s.drawFor src).2; let g := v.bmTime b.val pb t; let x := g.2.arr false b.val;
      let go := g.1 && !x.took.contains pb; let q := v.memIn src n (portBm b.val) pb ⟨false, a, 0, 0, false⟩; q.1 = true ∧
      q.2.we = false ∧ v.bmLive b.val pb = true ∧ go = false) ∧
    (∃ (s : State) (b : Fin 13440) (pb : Bool) (t : ArrT) (src : PortSrc) (a : BitVec 15), let n := (s.drawFor src).1;
      let v := (s.drawFor src).2; let g := v.bmTime b.val pb t; let x := g.2.arr false b.val;
      let go := g.1 && !x.took.contains pb; let q := v.memIn src n (portBm b.val) pb ⟨false, a, 0, 0, false⟩; q.1 = true ∧
      q.2.we = false ∧ v.bmLive b.val pb = true ∧ go = true) ∧
    (∃ (s : State) (b : Fin 13440) (pb : Bool) (t : ArrT) (src : PortSrc) (a : BitVec 15) (d : BitVec 72) (be : BitVec 8) (wp : Bool),
      let n := (s.drawFor src).1; let v := (s.drawFor src).2; let c := tget s.mem.bmCfg b.val {}; let w := bmWidth c pb;
      let g := v.bmTime b.val pb t; let x := g.2.arr false b.val; let go := g.1 && !x.took.contains pb;
      let q := v.memIn src n (portBm b.val) pb ⟨true, a, d, be, wp⟩; q.1 = true ∧ q.2.we = true ∧
      ((c.ecc = false ∨ (w = 64 ∧ q.2.be = 0xFF#8))) ∧ v.bmLive b.val pb = true ∧ go = false) ∧
    (∃ (s : State) (b : Fin 13440) (pb : Bool) (t : ArrT) (src : PortSrc) (a : BitVec 15) (d : BitVec 72) (be : BitVec 8) (wp : Bool),
      let n := (s.drawFor src).1; let v := (s.drawFor src).2; let c := tget s.mem.bmCfg b.val {}; let w := bmWidth c pb;
      let g := v.bmTime b.val pb t; let x := g.2.arr false b.val; let go := g.1 && !x.took.contains pb;
      let q := v.memIn src n (portBm b.val) pb ⟨true, a, d, be, wp⟩; q.1 = true ∧ q.2.we = true ∧
      ((c.ecc = false ∨ (w = 64 ∧ q.2.be = 0xFF#8))) ∧ v.bmLive b.val pb = true ∧ go = true) :=
  ⟨⟨bmWith { clkB := some 0 } { took := [true] }, 13439, true, .same, .given, 0x7FFF#15, by decide +kernel⟩,
   ⟨bmWith { clkB := some 0 } {}, 13439, true, .fresh, .given, 0x7FFF#15, by decide +kernel⟩,
   ⟨bmWith { clkB := some 0 } { took := [true] }, 13439, true, .same, .given, 0x7FFF#15, 0#72, 0xFF#8, false,
     by decide +kernel⟩,
   ⟨bmWith { clkB := some 0 } {}, 13439, true, .fresh, .given, 0x7FFF#15, 0#72, 0xFF#8, false, by decide +kernel⟩⟩
theorem witness_BlockMemoryUpkeepRuns :
    (∃ (s : State) (b : Fin 13440) (pb : Bool) (src : PortSrc) (a : BitVec 15) (d : BitVec 72) (be : BitVec 8) (wp : Bool),
      let n := (s.drawFor src).1; let v := (s.drawFor src).2; let q := v.memIn src n (portBm b.val) pb ⟨true, a, d, be, wp⟩;
      ((v.bmLive b.val pb = false ∨ q.1 = false))) ∧
    (∃ (s : State) (b : Fin 13440) (pb : Bool) (t : ArrT) (src : PortSrc) (a : BitVec 15) (d : BitVec 72) (be : BitVec 8) (wp : Bool),
      let n := (s.drawFor src).1; let v := (s.drawFor src).2; let c := tget s.mem.bmCfg b.val {}; let w := bmWidth c pb;
      let q := v.memIn src n (portBm b.val) pb ⟨true, a, d, be, wp⟩; let g := v.bmTime b.val pb t;
      let x := g.2.arr false b.val; let go := g.1 && !x.took.contains pb; v.bmLive b.val pb = true ∧ q.1 = true ∧
      q.2.we = true ∧ c.ecc = true ∧ ((w ≠ 64 ∨ q.2.be ≠ 0xFF#8)) ∧ go = false) ∧
    (∃ (s : State) (b : Fin 13440) (pb : Bool) (t : ArrT) (src : PortSrc) (a : BitVec 15) (d : BitVec 72) (be : BitVec 8) (wp : Bool),
      let n := (s.drawFor src).1; let v := (s.drawFor src).2; let c := tget s.mem.bmCfg b.val {}; let w := bmWidth c pb;
      let q := v.memIn src n (portBm b.val) pb ⟨true, a, d, be, wp⟩; let g := v.bmTime b.val pb t;
      let x := g.2.arr false b.val; let go := g.1 && !x.took.contains pb; v.bmLive b.val pb = true ∧ q.1 = true ∧
      q.2.we = true ∧ c.ecc = true ∧ ((w ≠ 64 ∨ q.2.be ≠ 0xFF#8)) ∧ go = true) ∧
    (∃ (s : State) (b : Fin 13440) (src : PortSrc), let v := (s.drawFor src).2;
      let asked := v.bmLive b.val false && (tget s.mem.bmCfg b.val {}).clrEn && v.sees src (s.drawFor src).1 (portBm b.val) 98 true;
      asked = false) ∧
    (∃ (s : State) (b : Fin 13440) (t : ArrT) (src : PortSrc), let v := (s.drawFor src).2;
      let asked := v.bmLive b.val false && (tget s.mem.bmCfg b.val {}).clrEn && v.sees src (s.drawFor src).1 (portBm b.val) 98 true;
      let g := v.bmTime b.val false t; asked = true ∧ g.1 = false) ∧
    (∃ (s : State) (b : Fin 13440) (t : ArrT) (src : PortSrc), let v := (s.drawFor src).2;
      let asked := v.bmLive b.val false && (tget s.mem.bmCfg b.val {}).clrEn && v.sees src (s.drawFor src).1 (portBm b.val) 98 true;
      let g := v.bmTime b.val false t; asked = true ∧ g.1 = true) ∧
    (∃ (s : State) (p : Fin 112) (src : PortSrc), let v := (s.drawFor src).2;
      let asked := v.dmLive p.val false && (tget s.mem.dmCfg p.val {}).clrEn && v.sees src (s.drawFor src).1 (portDm p.val) 98 true;
      asked = false) ∧
    (∃ (s : State) (p : Fin 112) (src : PortSrc), let v := (s.drawFor src).2;
      let asked := v.dmLive p.val false && (tget s.mem.dmCfg p.val {}).clrEn && v.sees src (s.drawFor src).1 (portDm p.val) 98 true;
      asked = true) ∧
    (∃ (s : State) (m : MemId), let dm := match m with | .bm _ => false | .dm _ => true;
      let i := match m with | .bm b => b.val | .dm p => p.val; s.memHeld dm i = true) ∧
    (∃ (s : State) (m : MemId) (pb : Bool) (t : ArrT), let dm := match m with | .bm _ => false | .dm _ => true;
      let i := match m with | .bm b => b.val | .dm p => p.val;
      let g := match m with | .bm b => (s.bmTime b.val pb t).2 | .dm p => s.dmPass p.val (s.dmCap p.val pb 1) pb t;
      let x := g.arr dm i; s.memHeld dm i = false ∧ x.acts ≠ []) ∧
    (∃ (s : State) (m : MemId) (pb : Bool) (t : ArrT), let dm := match m with | .bm _ => false | .dm _ => true;
      let i := match m with | .bm b => b.val | .dm p => p.val;
      let g := match m with | .bm b => (s.bmTime b.val pb t).2 | .dm p => s.dmPass p.val (s.dmCap p.val pb 1) pb t;
      let x := g.arr dm i; s.memHeld dm i = false ∧ x.acts = [] ∧ (if pb then x.wbB else x.wbA) = none) ∧
    (∃ (s : State) (m : MemId) (pb : Bool) (t : ArrT) (k : Nat) (poison : Bool) (v : BitVec 72),
      let dm := match m with | .bm _ => false | .dm _ => true; let i := match m with | .bm b => b.val | .dm p => p.val;
      let g := match m with | .bm b => (s.bmTime b.val pb t).2 | .dm p => s.dmPass p.val (s.dmCap p.val pb 1) pb t;
      let x := g.arr dm i; let u := g.setArr dm i (if pb then { x with wbB := none } else { x with wbA := none });
      s.memHeld dm i = false ∧ x.acts = [] ∧ (if pb then x.wbB else x.wbA) = some (k, poison, v) ∧ u.memW dm i k = none) ∧
    (∃ (s : State) (m : MemId) (pb : Bool) (t : ArrT) (k : Nat) (poison : Bool) (v : BitVec 72) (w : BmW),
      let dm := match m with | .bm _ => false | .dm _ => true; let i := match m with | .bm b => b.val | .dm p => p.val;
      let g := match m with | .bm b => (s.bmTime b.val pb t).2 | .dm p => s.dmPass p.val (s.dmCap p.val pb 1) pb t;
      let x := g.arr dm i; let u := g.setArr dm i (if pb then { x with wbB := none } else { x with wbA := none });
      s.memHeld dm i = false ∧ x.acts = [] ∧ (if pb then x.wbB else x.wbA) = some (k, poison, v) ∧ u.memW dm i k = some w) :=
  ⟨⟨bmWith {} {}, 13439, true, .given, 0x7FFF#15, 0#72, 0x01#8, false, by decide +kernel⟩,
   ⟨bmWith { clkB := some 0 } { took := [true] }, 13439, true, .same, .given, 0x7FFF#15, 0#72, 0x01#8, false,
     by decide +kernel⟩,
   ⟨bmWith { clkB := some 0 } {}, 13439, true, .same, .given, 0x7FFF#15, 0#72, 0x01#8, false, by decide +kernel⟩,
   ⟨bmWith { clkA := some 0 } {}, 13439, .given, by decide +kernel⟩,
   ⟨bmWith { clkA := some 0, clrEn := true } { busy := [false] }, 13439, .fresh, .given, by decide +kernel⟩,
   ⟨bmWith { clkA := some 0, clrEn := true } {}, 13439, .same, .given, by decide +kernel⟩,
   ⟨dmWith { fabA := some 7 } {}, 111, .given, by decide +kernel⟩,
   ⟨dmWith { fabA := some 7, clrEn := true } {}, 111, .given, by decide +kernel⟩,
   ⟨up, .bm 13439, by decide +kernel⟩,
   ⟨bmWith {} { acts := [⟨true, 0, 0, 0, false, false⟩] }, .bm 13439, true, .same, by decide +kernel⟩,
   ⟨bmWith {} {}, .bm 13439, true, .same, by decide +kernel⟩,
   ⟨bmWith {} { wbB := some (511, false, 7#72) }, .bm 13439, true, .same, 511, false, 7#72, by decide +kernel⟩,
   ⟨(bmWith {} { wbB := some (511, false, 7#72) }).setMemW false 13439 511 (some ⟨7#72, 0, false⟩), .bm 13439, true, .same,
     511, false, 7#72, ⟨7#72, 0, false⟩, by decide +kernel⟩⟩
theorem witness_DeepMemoriesRun :
    (∃ (s : State) (p : Fin 112) (pb : Bool) (src : PortSrc), let v := (s.drawFor src).2; v.dmLive p.val pb = false) ∧
    (∃ (s : State) (p : Fin 112) (pb : Bool) (src : PortSrc) (a : BitVec 15), let n := (s.drawFor src).1;
      let v := (s.drawFor src).2; let rd := v.memIn src n (portDm p.val) pb ⟨false, a, 0, 0, false⟩; v.dmLive p.val pb = true ∧
      rd.1 = true ∧ rd.2.we = false) ∧
    (∃ (s : State) (p : Fin 112) (pb : Bool) (src : PortSrc) (a : BitVec 15) (d : BitVec 64) (be : BitVec 8) (wp : Bool),
      let n := (s.drawFor src).1; let v := (s.drawFor src).2;
      let wr := v.memIn src n (portDm p.val) pb ⟨true, a, d.setWidth 72, be, wp⟩; v.dmLive p.val pb = true ∧ wr.1 = true ∧
      wr.2.we = true) ∧
    (∃ (s : State) (p : Fin 112), ((s.arr true p.val).defs = [] ∨ s.memHeld true p.val = true)) ∧
    (∃ (s : State) (p : Fin 112) (r : _) (t : _), (s.arr true p.val).defs = r :: t ∧ s.memHeld true p.val = false) ∧
    (∃ (s : State) (p : Fin 112) (us : List (BitVec 72)) (m : Moving) (ms : List Moving),
      let banks := (dmTouched m.f).map fun q => q.1 % 8; let r := s.dmNoc p.val m.f us;
      let waits := (s.arr true p.val).defs.any fun r => banks.contains (r.word % 8);
      tget s.noc.serve (ID.dm p.val) [] = m :: ms ∧ waits = true) ∧
    (∃ (s : State) (p : Fin 112) (m : Moving) (ms : List Moving) (w : _), tget s.noc.serve (ID.dm p.val) [] = m :: ms ∧
      w < (tget s.mem.dmCfg p.val {}).nocWait) ∧
    (∃ (s : State) (p : Fin 112) (us : List (BitVec 72)) (m : Moving) (ms : List Moving) (c : Instr) (late : Bool) (st : _),
      let banks := (dmTouched m.f).map fun q => q.1 % 8; let r := s.dmNoc p.val m.f us;
      let waits := (s.arr true p.val).defs.any fun r => banks.contains (r.word % 8);
      tget s.noc.serve (ID.dm p.val) [] = m :: ms ∧
      (((late = true ∧ ∃ w, (tget s.mem.dmCfg p.val {}).nocWait ≤ w ∧ c = .dmNocWaitExpiry p us w) ∨ (late = false ∧ c = .dmNocRequest p us ∧ waits = false))) ∧
      s.dmRefuse p.val m = some st) ∧
    (∃ (s : State) (p : Fin 112) (us : List (BitVec 72)) (m : Moving) (ms : List Moving) (c : Instr) (late : Bool),
      let banks := (dmTouched m.f).map fun q => q.1 % 8; let r := s.dmNoc p.val m.f us;
      let waits := (s.arr true p.val).defs.any fun r => banks.contains (r.word % 8);
      tget s.noc.serve (ID.dm p.val) [] = m :: ms ∧
      (((late = true ∧ ∃ w, (tget s.mem.dmCfg p.val {}).nocWait ≤ w ∧ c = .dmNocWaitExpiry p us w) ∨ (late = false ∧ c = .dmNocRequest p us ∧ waits = false))) ∧
      s.dmRefuse p.val m = none ∧ s.mem.test.contains (true, p.val) = true) ∧
    (∃ (s : State) (p : Fin 112) (us : List (BitVec 72)) (m : Moving) (ms : List Moving) (c : Instr) (late : Bool),
      let banks := (dmTouched m.f).map fun q => q.1 % 8; let r := s.dmNoc p.val m.f us;
      let waits := (s.arr true p.val).defs.any fun r => banks.contains (r.word % 8);
      tget s.noc.serve (ID.dm p.val) [] = m :: ms ∧
      (((late = true ∧ ∃ w, (tget s.mem.dmCfg p.val {}).nocWait ≤ w ∧ c = .dmNocWaitExpiry p us w) ∨ (late = false ∧ c = .dmNocRequest p us ∧ waits = false))) ∧
      s.dmRefuse p.val m = none ∧ s.mem.test.contains (true, p.val) = false) :=
  ⟨⟨dmWith {} {}, 111, true, .given, by decide +kernel⟩,
   ⟨dmWith { fabB := some 7 } {}, 111, true, .given, 0x7FFF#15, by decide +kernel⟩,
   ⟨dmWith { fabB := some 7 } {}, 111, true, .given, 0x7FFF#15, 0#64, 0xFF#8, false, by decide +kernel⟩,
   ⟨dmWith { fabB := some 7 } {}, 111, by decide +kernel⟩,
   ⟨dmWith { fabB := some 7 } { defs := [⟨true, true, 32767, 0, 0, false, false, 1, 0, 64, none⟩] }, 111,
     (let s : State := dmWith { fabB := some 7 } { defs := [⟨true, true, 32767, 0, 0, false, false, 1, 0, 64, none⟩] }; let p : Fin 112 := 111; (s.arr true p.val).defs).head (by decide +kernel),
     [], by decide +kernel⟩,
   ⟨atDm (dmWith { nocEn := true } { defs := [⟨true, true, 0, 0, 0, false, false, 1, 0, 64, none⟩] }) (aFlit 64 0 0 0x020001BC0000),
     111, [],
     (let s : State := atDm (dmWith { nocEn := true } { defs := [⟨true, true, 0, 0, 0, false, false, 1, 0, 64, none⟩] }) (aFlit 64 0 0 0x020001BC0000); let p : Fin 112 := 111; tget s.noc.serve (ID.dm p.val) []).head (by decide +kernel),
     (let s : State := atDm (dmWith { nocEn := true } { defs := [⟨true, true, 0, 0, 0, false, false, 1, 0, 64, none⟩] }) (aFlit 64 0 0 0x020001BC0000); let p : Fin 112 := 111; tget s.noc.serve (ID.dm p.val) []).tail,
     by decide +kernel⟩,
   ⟨atDm (dmWith { nocEn := true } {}) (aFlit 64 0 0 0x020001BC0000), 111,
     (let s : State := atDm (dmWith { nocEn := true } {}) (aFlit 64 0 0 0x020001BC0000); let p : Fin 112 := 111; tget s.noc.serve (ID.dm p.val) []).head (by decide +kernel),
     (let s : State := atDm (dmWith { nocEn := true } {}) (aFlit 64 0 0 0x020001BC0000); let p : Fin 112 := 111; tget s.noc.serve (ID.dm p.val) []).tail,
     0, by decide +kernel⟩,
   ⟨atDm (dmWith {} {}) (aFlit 64 0 0 0x020001BC0000), 111, [],
     (let s : State := atDm (dmWith {} {}) (aFlit 64 0 0 0x020001BC0000); let p : Fin 112 := 111; tget s.noc.serve (ID.dm p.val) []).head (by decide +kernel),
     (let s : State := atDm (dmWith {} {}) (aFlit 64 0 0 0x020001BC0000); let p : Fin 112 := 111; tget s.noc.serve (ID.dm p.val) []).tail,
     .dmNocRequest 111 [], false,
     (let s : State := atDm (dmWith {} {}) (aFlit 64 0 0 0x020001BC0000); let p : Fin 112 := 111; let m : Moving := (let s : State := atDm (dmWith {} {}) (aFlit 64 0 0 0x020001BC0000); let p : Fin 112 := 111; tget s.noc.serve (ID.dm p.val) []).head (by decide +kernel); s.dmRefuse p.val m).get (by decide +kernel),
     by decide +kernel, .inr ⟨rfl, rfl, by decide +kernel⟩, by decide +kernel⟩,
   ⟨{ (atDm (dmWith { nocEn := true } {}) (aFlit 64 0 0 0x020001BC0000)) with mem := { (dmWith { nocEn := true } {}).mem with test := [(true, 111)] } },
     111, [],
     (let s : State := { (atDm (dmWith { nocEn := true } {}) (aFlit 64 0 0 0x020001BC0000)) with mem := { (dmWith { nocEn := true } {}).mem with test := [(true, 111)] } }; let p : Fin 112 := 111; tget s.noc.serve (ID.dm p.val) []).head (by decide +kernel),
     (let s : State := { (atDm (dmWith { nocEn := true } {}) (aFlit 64 0 0 0x020001BC0000)) with mem := { (dmWith { nocEn := true } {}).mem with test := [(true, 111)] } }; let p : Fin 112 := 111; tget s.noc.serve (ID.dm p.val) []).tail,
     .dmNocRequest 111 [], false, by decide +kernel, .inr ⟨rfl, rfl, by decide +kernel⟩, by decide +kernel⟩,
   ⟨atDm (dmWith { nocEn := true } {}) (aFlit 64 0 0 0x020001BC0000), 111, [],
     (let s : State := atDm (dmWith { nocEn := true } {}) (aFlit 64 0 0 0x020001BC0000); let p : Fin 112 := 111; tget s.noc.serve (ID.dm p.val) []).head (by decide +kernel),
     (let s : State := atDm (dmWith { nocEn := true } {}) (aFlit 64 0 0 0x020001BC0000); let p : Fin 112 := 111; tget s.noc.serve (ID.dm p.val) []).tail,
     .dmNocWaitExpiry 111 [] 1, true, by decide +kernel, .inl ⟨rfl, 1, by decide +kernel, rfl⟩, by decide +kernel⟩⟩
theorem witness_PlaneOperationsRun :
    (∃ (s : State) (q : Req), let vats := maskVats (s.rd CFG.OP_VATS.VATS);
      let refusal : Option Nat → Nat → Option (Nat × Nat) := fun slot code => s.opRefusal code vats slot;
      s.canWrite q 0x100000 ∧ s.bit CFG.OP_STAT.BUSY = false ∧ refusal none 1 = none) ∧
    (∃ (s : State) (q : Req), let vats := maskVats (s.rd CFG.OP_VATS.VATS);
      let refusal : Option Nat → Nat → Option (Nat × Nat) := fun slot code => s.opRefusal code vats slot;
      s.canWrite q 0x100000 ∧ s.bit CFG.OP_STAT.BUSY = false ∧ refusal none 2 = none) ∧
    (∃ (s : State) (q : Req), let vats := maskVats (s.rd CFG.OP_VATS.VATS);
      let refusal : Option Nat → Nat → Option (Nat × Nat) := fun slot code => s.opRefusal code vats slot;
      s.canWrite q 0x100000 ∧ s.bit CFG.OP_STAT.BUSY = false ∧ refusal none 3 = none) ∧
    (∃ (s : State) (q : Req) (k : _), let vats := maskVats (s.rd CFG.OP_VATS.VATS);
      let refusal : Option Nat → Nat → Option (Nat × Nat) := fun slot code => s.opRefusal code vats slot;
      s.canWrite q 0x100000 ∧ s.bit CFG.OP_STAT.BUSY = false ∧ armSlot vats = some k ∧ refusal (some k) 4 = none) ∧
    (∃ (s : State) (q : Req) (k : _), let vats := maskVats (s.rd CFG.OP_VATS.VATS); s.canWrite q 0x100000 ∧
      s.bit CFG.OP_STAT.BUSY = false ∧ armSlot vats = some k ∧ s.opRefusal 5 [k] (some k) = none) ∧
    (∃ (s : State) (q : Req), let vats := maskVats (s.rd CFG.OP_VATS.VATS);
      let refusal : Option Nat → Nat → Option (Nat × Nat) := fun slot code => s.opRefusal code vats slot;
      s.canWrite q 0x100000 ∧ s.bit CFG.OP_STAT.BUSY = false ∧ refusal none 6 = none) ∧
    (∃ (s : State) (q : Req), let vats := maskVats (s.rd CFG.OP_VATS.VATS);
      let refusal : Option Nat → Nat → Option (Nat × Nat) := fun slot code => s.opRefusal code vats slot;
      s.canWrite q 0x100000 ∧ s.bit CFG.OP_STAT.BUSY = false ∧ refusal none 7 = none) ∧
    (∃ (s : State) (q : Req), let vats := maskVats (s.rd CFG.OP_VATS.VATS);
      let refusal : Option Nat → Nat → Option (Nat × Nat) := fun slot code => s.opRefusal code vats slot;
      s.canWrite q 0x100000 ∧ s.bit CFG.OP_STAT.BUSY = false ∧ refusal none 8 = none) ∧
    (∃ (s : State) (q : Req), let vats := maskVats (s.rd CFG.OP_VATS.VATS);
      let refusal : Option Nat → Nat → Option (Nat × Nat) := fun slot code => s.opRefusal code vats slot;
      s.canWrite q 0x100000 ∧ s.bit CFG.OP_STAT.BUSY = false ∧ refusal none 9 = none) ∧
    (∃ (s : State) (q : Req) (c : Nat) (v : _), let vats := maskVats (s.rd CFG.OP_VATS.VATS);
      let refusal : Option Nat → Nat → Option (Nat × Nat) := fun slot code => s.opRefusal code vats slot;
      s.canWrite q 0x100000 ∧ s.bit CFG.OP_STAT.BUSY = false ∧ refusal none 1 = some (c, v)) ∧
    (∃ (s : State) (q : Req) (c : Nat) (v : _), let vats := maskVats (s.rd CFG.OP_VATS.VATS);
      let refusal : Option Nat → Nat → Option (Nat × Nat) := fun slot code => s.opRefusal code vats slot;
      s.canWrite q 0x100000 ∧ s.bit CFG.OP_STAT.BUSY = false ∧ refusal none 2 = some (c, v)) ∧
    (∃ (s : State) (q : Req) (c : Nat) (v : _), let vats := maskVats (s.rd CFG.OP_VATS.VATS);
      let refusal : Option Nat → Nat → Option (Nat × Nat) := fun slot code => s.opRefusal code vats slot;
      s.canWrite q 0x100000 ∧ s.bit CFG.OP_STAT.BUSY = false ∧ refusal none 3 = some (c, v)) ∧
    (∃ (s : State) (q : Req) (c : Nat) (v : _) (k : _), let vats := maskVats (s.rd CFG.OP_VATS.VATS);
      let refusal : Option Nat → Nat → Option (Nat × Nat) := fun slot code => s.opRefusal code vats slot;
      s.canWrite q 0x100000 ∧ s.bit CFG.OP_STAT.BUSY = false ∧ armSlot vats = some k ∧ refusal (some k) 4 = some (c, v)) ∧
    (∃ (s : State) (q : Req) (c : Nat) (v : _) (k : _), let vats := maskVats (s.rd CFG.OP_VATS.VATS); s.canWrite q 0x100000 ∧
      s.bit CFG.OP_STAT.BUSY = false ∧ armSlot vats = some k ∧ s.opRefusal 5 [k] (some k) = some (c, v)) ∧
    (∃ (s : State) (q : Req) (c : Nat) (v : _), let vats := maskVats (s.rd CFG.OP_VATS.VATS);
      let refusal : Option Nat → Nat → Option (Nat × Nat) := fun slot code => s.opRefusal code vats slot;
      s.canWrite q 0x100000 ∧ s.bit CFG.OP_STAT.BUSY = false ∧ refusal none 6 = some (c, v)) ∧
    (∃ (s : State) (q : Req) (c : Nat) (v : _), let vats := maskVats (s.rd CFG.OP_VATS.VATS);
      let refusal : Option Nat → Nat → Option (Nat × Nat) := fun slot code => s.opRefusal code vats slot;
      s.canWrite q 0x100000 ∧ s.bit CFG.OP_STAT.BUSY = false ∧ refusal none 7 = some (c, v)) ∧
    (∃ (s : State) (q : Req) (c : Nat) (v : _), let vats := maskVats (s.rd CFG.OP_VATS.VATS);
      let refusal : Option Nat → Nat → Option (Nat × Nat) := fun slot code => s.opRefusal code vats slot;
      s.canWrite q 0x100000 ∧ s.bit CFG.OP_STAT.BUSY = false ∧ refusal none 8 = some (c, v)) ∧
    (∃ (s : State) (q : Req) (c : Nat) (v : _), let vats := maskVats (s.rd CFG.OP_VATS.VATS);
      let refusal : Option Nat → Nat → Option (Nat × Nat) := fun slot code => s.opRefusal code vats slot;
      s.canWrite q 0x100000 ∧ s.bit CFG.OP_STAT.BUSY = false ∧ refusal none 9 = some (c, v)) ∧
    (∃ (s : State) (q : Req), let vats := maskVats (s.rd CFG.OP_VATS.VATS); s.canWrite q 0x100000 ∧
      s.bit CFG.OP_STAT.BUSY = false ∧ armSlot vats = none) ∧
    (∃ (s : State) (q : Req) (c : Instr), s.canWrite q 0x100000 ∧ s.bit CFG.OP_STAT.BUSY = true ∧
      c ∈ [Instr.activate q, .rollback q, .confirm q, .arm q, .disarm q, .commitOpen q, .commitClose q, .invalidate q, .capture q]) :=
  ⟨⟨((own15 { validB := true })).wr (CFG.OP_VATS.VATS) 0x8000, starter, can_write (by decide +kernel), by decide +kernel⟩,
   ⟨((own15 { validB := true })).wr (CFG.OP_VATS.VATS) 0x8000, starter, can_write (by decide +kernel), by decide +kernel⟩,
   ⟨{ (own15 {}).wr CFG.OP_VATS.VATS 0x8000 with cfg := { (own15 {}).cfg with window := [15] } }, starter,
     can_write (by decide +kernel), by decide +kernel⟩,
   ⟨((((own15 { validB := true }).setTb 0 { started := true })).wr (CFG.OP_VATS.VATS) 0x8000).wr (CFG.ARM_SEC_LO.SEC 15) 1,
     starter, 15, can_write (by decide +kernel), by decide +kernel⟩,
   ⟨(((own15 {})).wr (CFG.OP_VATS.VATS) 0x8000).wr (CFG.ARM_CTL.ARMED 15) 1, starter, 15, can_write (by decide +kernel),
     by decide +kernel⟩,
   ⟨((own15 { validB := true })).wr (CFG.OP_VATS.VATS) 0x8000, starter, can_write (by decide +kernel), by decide +kernel⟩,
   ⟨{ (own15 {}).wr CFG.OP_VATS.VATS 0x8000 with cfg := { (own15 {}).cfg with commits := [⟨[15], none⟩] } }, starter,
     can_write (by decide +kernel), by decide +kernel⟩,
   ⟨((own15 { validB := true })).wr (CFG.OP_VATS.VATS) 0x8000, starter, can_write (by decide +kernel), by decide +kernel⟩,
   ⟨((own15 { validB := true })).wr (CFG.OP_VATS.VATS) 0x8000, starter, can_write (by decide +kernel), by decide +kernel⟩,
   ⟨up, starter, 6, 0, can_write (by decide +kernel), by decide +kernel⟩,
   ⟨up, starter, 6, 0, can_write (by decide +kernel), by decide +kernel⟩,
   ⟨up, starter, 6, 0, can_write (by decide +kernel), by decide +kernel⟩,
   ⟨((own15 {})).wr (CFG.OP_VATS.VATS) 0x8000, starter, 1, 15, 15, can_write (by decide +kernel), by decide +kernel⟩,
   ⟨((own15 {})).wr (CFG.OP_VATS.VATS) 0x8000, starter, 9, 15, 15, can_write (by decide +kernel), by decide +kernel⟩,
   ⟨up, starter, 6, 0, can_write (by decide +kernel), by decide +kernel⟩,
   ⟨up, starter, 6, 0, can_write (by decide +kernel), by decide +kernel⟩,
   ⟨up, starter, 6, 0, can_write (by decide +kernel), by decide +kernel⟩,
   ⟨up, starter, 6, 0, can_write (by decide +kernel), by decide +kernel⟩,
   ⟨up, starter, can_write (by decide +kernel), by decide +kernel⟩,
   ⟨up.wr (CFG.OP_STAT.BUSY) 1, starter, .capture starter, can_write (by decide +kernel), by decide +kernel⟩⟩
theorem witness_LoadsRun :
    (∃ (s : State) (o : PendOp), s.cfg.deferred = some o ∧ s.swapsRun = false) ∧
    (∃ (s : State) (v : Fin 16) (o : PendOp), ((s.cfg.swapDef.find? fun o => o.vats == [v.val]) = some o) ∧
      s.underTest v.val = false ∧ s.running = true ∧ s.bit PWR.MODE_STAT.LOAD_PEND = false) ∧
    (∃ (s : State) (v : Fin 16) (op : LoadOp), tget s.cfg.loads v.val none = some op) ∧
    (∃ (s : State) (v : Fin 16), let u := s.closeWindow v.val; s.windowOpen v.val = true ∧ v.val ≠ 0 ∧
      u.otherValid v.val = true) ∧
    (∃ (s : State) (v : Fin 16), let u := s.closeWindow v.val; s.windowOpen v.val = true ∧ v.val ≠ 0 ∧
      u.otherValid v.val = false) ∧
    (∃ (s : State) (v : Fin 16), let u := s.closeWindow v.val; s.windowOpen v.val = true ∧ v.val = 0 ∧ u.otherValid 0 = true) ∧
    (∃ (s : State) (v : Fin 16), let u := s.closeWindow v.val; s.windowOpen v.val = true ∧ v.val = 0 ∧ u.otherValid 0 = false) ∧
    (∃ (s : State) (v : Fin 16) (p : Bool), tget s.cfg.expiring v.val none = some p ∧
      (s.mode = M.load ∨ s.bit PWR.MODE_STAT.LOAD_PEND = true)) ∧
    (∃ (s : State) (v : Fin 16) (p : Bool), tget s.cfg.expiring v.val none = some p ∧ s.mode ≠ M.load ∧
      s.bit PWR.MODE_STAT.LOAD_PEND = false ∧ (s.role v.val).cur ≠ p ∧ v.val ≠ 0 ∧
      ((s.role 0).unconf && s.cfg.mapChg) = false ∧ s.otherValid v.val = true) ∧
    (∃ (s : State) (v : Fin 16) (p : Bool), tget s.cfg.expiring v.val none = some p ∧ s.mode ≠ M.load ∧
      s.bit PWR.MODE_STAT.LOAD_PEND = false ∧ (s.role v.val).cur ≠ p ∧ v.val = 0 ∧ s.otherValid 0 = true) ∧
    (∃ (s : State) (k : Fin 16), let vats := if k.val = 0 then maskVats (s.rd (CFG.ARM_CTL.VATS 0)) else [k.val];
      let u := (s.wrb (CFG.ARM_CTL.ARMED k.val) false).wr (CFG.ARM_CTL.VATS k.val) 0;
      let o : PendOp := { code := 1, vats := vats, wins := vats.map (fun v => (v, u.rd (CFG.WIN.MS v))), slot := some k.val };
      s.bit (CFG.ARM_CTL.ARMED k.val) = true ∧ s.armLate k.val = true ∧ u.opRefusal 1 vats (some k.val) true = none ∧
      u.opWaits o = false) ∧
    (∃ (s : State) (k : Fin 16), let vats := if k.val = 0 then maskVats (s.rd (CFG.ARM_CTL.VATS 0)) else [k.val];
      let u := (s.wrb (CFG.ARM_CTL.ARMED k.val) false).wr (CFG.ARM_CTL.VATS k.val) 0;
      let o : PendOp := { code := 1, vats := vats, wins := vats.map (fun v => (v, u.rd (CFG.WIN.MS v))), slot := some k.val };
      s.bit (CFG.ARM_CTL.ARMED k.val) = true ∧ s.armLate k.val = true ∧ u.opRefusal 1 vats (some k.val) true = none ∧
      u.opWaits o = true) ∧
    (∃ (s : State) (k : Fin 16) (c : _) (v : _),
      let vats := if k.val = 0 then maskVats (s.rd (CFG.ARM_CTL.VATS 0)) else [k.val];
      let u := (s.wrb (CFG.ARM_CTL.ARMED k.val) false).wr (CFG.ARM_CTL.VATS k.val) 0; s.bit (CFG.ARM_CTL.ARMED k.val) = true ∧
      s.armLate k.val = true ∧ u.opRefusal 1 vats (some k.val) true = some (c, v)) ∧
    (∃ (s : State) (k : Fin 16) (o : PendOp),
      let u : State := { s with cfg := { s.cfg with fired := s.cfg.fired.filter fun x => x.slot != some k.val } };
      ((s.cfg.fired.find? fun o => o.slot == some k.val) = some o) ∧ u.opWaits o = true) ∧
    (∃ (s : State) (k : Fin 16) (o : PendOp),
      let u : State := { s with cfg := { s.cfg with fired := s.cfg.fired.filter fun x => x.slot != some k.val } };
      ((s.cfg.fired.find? fun o => o.slot == some k.val) = some o) ∧ u.opWaits o = false) ∧
    (∃ (s : State) (n : Fin 262144), let p := tget s.cfg.perr n.val 0 == 2; tget s.cfg.perr n.val 0 ≠ 0 ∧
      s.frameBusy n.val = false ∧ chkFrame (s.planeFrame p n.val) = .clean) ∧
    (∃ (s : State) (n : Fin 262144) (fails : Fin 4) (a : _) (b : _) (f : _), let p := tget s.cfg.perr n.val 0 == 2;
      tget s.cfg.perr n.val 0 ≠ 0 ∧ s.frameBusy n.val = false ∧ chkFrame (s.planeFrame p n.val) = .fixed a b f ∧ fails.val < 3) ∧
    (∃ (s : State) (n : Fin 262144) (fails : Fin 4) (a : _) (b : _) (f : _) (v : _), let p := tget s.cfg.perr n.val 0 == 2;
      tget s.cfg.perr n.val 0 ≠ 0 ∧ s.frameBusy n.val = false ∧ chkFrame (s.planeFrame p n.val) = .fixed a b f ∧
      fails.val = 3 ∧ s.frameVat n.val = some v) :=
  ⟨⟨{ up with cfg := { up.cfg with deferred := some ⟨1, [0], [], none, false⟩ } },
     (let s : State := { up with cfg := { up.cfg with deferred := some ⟨1, [0], [], none, false⟩ } }; s.cfg.deferred).get (by decide +kernel),
     by decide +kernel⟩,
   ⟨{ up with cfg := { up.cfg with swapDef := [⟨1, [15], [], none, false⟩] } }, 15,
     (let s : State := { up with cfg := { up.cfg with swapDef := [⟨1, [15], [], none, false⟩] } }; let v : Fin 16 := 15; (s.cfg.swapDef.find? fun o => o.vats == [v.val])).get (by decide +kernel),
     by decide +kernel⟩,
   ⟨{ up with cfg := { up.cfg with loads := [(15, some { code := 1, vats := [15], plan := [] })] } }, 15,
     (let s : State := { up with cfg := { up.cfg with loads := [(15, some { code := 1, vats := [15], plan := [] })] } }; let v : Fin 16 := 15; tget s.cfg.loads v.val none).get (by decide +kernel),
     by decide +kernel⟩,
   ⟨{ (own15 { validB := true }) with cfg := { (own15 { validB := true }).cfg with window := [15] } }, 15, by decide +kernel⟩,
   ⟨{ (own15 {}) with cfg := { (own15 {}).cfg with window := [15] } }, 15, by decide +kernel⟩,
   ⟨{ (up.setRole 0 { validB := true }) with cfg := { (up.setRole 0 { validB := true }).cfg with window := [0] } }, 0,
     by decide +kernel⟩,
   ⟨{ up with cfg := { up.cfg with window := [0] } }, 0, by decide +kernel⟩,
   ⟨{ (up.wr PWR.MODE_STAT.MODE 3) with cfg := { up.cfg with expiring := [(15, some false)] } }, 15, false,
     by decide +kernel⟩,
   ⟨{ (own15 { validB := true }) with cfg := { (own15 { validB := true }).cfg with expiring := [(15, some true)] } }, 15,
     true, by decide +kernel⟩,
   ⟨{ (up.setRole 0 { validB := true }) with cfg := { (up.setRole 0 { validB := true }).cfg with expiring := [(0, some true)] } },
     0, true, by decide +kernel⟩,
   ⟨((own15 { validB := true })).wr (CFG.ARM_CTL.ARMED 15) 1, 15, by decide +kernel⟩,
   ⟨{ ((own15 { validB := true }).wr (CFG.ARM_CTL.ARMED 15) 1) with cfg := { (own15 { validB := true }).cfg with testVats := [15] } },
     15, by decide +kernel⟩,
   ⟨((own15 {})).wr (CFG.ARM_CTL.ARMED 15) 1, 15, 1, 15, by decide +kernel⟩,
   ⟨{ up with cfg := { up.cfg with testVats := [15], fired := [⟨1, [15], [], some 15, false⟩] } }, 15,
     (let s : State := { up with cfg := { up.cfg with testVats := [15], fired := [⟨1, [15], [], some 15, false⟩] } }; let k : Fin 16 := 15; (s.cfg.fired.find? fun o => o.slot == some k.val)).get (by decide +kernel),
     by decide +kernel⟩,
   ⟨{ up with cfg := { up.cfg with fired := [⟨1, [15], [], some 15, false⟩] } }, 15,
     (let s : State := { up with cfg := { up.cfg with fired := [⟨1, [15], [], some 15, false⟩] } }; let k : Fin 16 := 15; (s.cfg.fired.find? fun o => o.slot == some k.val)).get (by decide +kernel),
     by decide +kernel⟩,
   ⟨{ up with cfg := { up.cfg with perr := [(262143, 1)] } }, 262143, by decide +kernel⟩,
   ⟨{ (up.setPlane true 262143 lastBit) with cfg := { (up.setPlane true 262143 lastBit).cfg with perr := [(262143, 2)] } },
     262143, 2, 1, 2071, 0#2072, by decide +kernel, by decide +kernel, chk_bit (by decide +kernel), by decide +kernel⟩,
   ⟨{ (up.setPlane true 262143 lastBit) with cfg := { (up.setPlane true 262143 lastBit).cfg with perr := [(262143, 2)] } },
     262143, 3, 1, 2071, 0#2072, 0, by decide +kernel, by decide +kernel, chk_bit (by decide +kernel), by decide +kernel⟩⟩
theorem witness_SingleFrameAccessRuns :
    (∃ (s : State) (q : Req), s.canWrite q 0x100100 ∧ s.cfg.fwGo = none) ∧
    (∃ (s : State) (read : Bool) (t : Nat) (far : Word), s.cfg.fwGo = some (read, t, far) ∧ 5 ≤ t) ∧
    (∃ (s : State) (read : Bool) (t : Nat) (far : Word), s.cfg.fwGo = some (read, t, far) ∧ t < 5 ∧ farDecode far = none) ∧
    (∃ (s : State) (read : Bool) (t : Nat) (far : Word) (n : _),
      let u := ({ s with cfg := { s.cfg with fwGo := none } } : State).wrb CFG.FW_CTL.BUSY false;
      s.cfg.fwGo = some (read, t, far) ∧ t < 5 ∧ farDecode far = some n ∧ u.frameBusy n = true) ∧
    (∃ (s : State) (read : Bool) (t : Nat) (far : Word) (n : _),
      let u := ({ s with cfg := { s.cfg with fwGo := none } } : State).wrb CFG.FW_CTL.BUSY false;
      s.cfg.fwGo = some (read, t, far) ∧ t < 5 ∧ farDecode far = some n ∧ u.frameBusy n = false ∧ u.fwCopy t n = none) ∧
    (∃ (s : State) (read : Bool) (t : Nat) (far : Word) (n : _) (copy : _),
      let u := ({ s with cfg := { s.cfg with fwGo := none } } : State).wrb CFG.FW_CTL.BUSY false;
      s.cfg.fwGo = some (read, t, far) ∧ t < 5 ∧ farDecode far = some n ∧ u.frameBusy n = false ∧ u.fwCopy t n = some copy ∧
      read = true) ∧
    (∃ (s : State) (read : Bool) (t : Nat) (far : Word) (bits : List (Fin 2072)) (n : _) (copy : _),
      let u := ({ s with cfg := { s.cfg with fwGo := none } } : State).wrb CFG.FW_CTL.BUSY false;
      let f := flipBits (if copy = 0 then u.liveFrame n else u.planeFrame (copy == 2) n) bits;
      let x := if copy = 0 then u.disturb n f else u.setPlane (copy == 2) n f; s.cfg.fwGo = some (read, t, far) ∧ t < 5 ∧
      farDecode far = some n ∧ u.frameBusy n = false ∧ u.fwCopy t n = some copy ∧ read = false ∧ x.fwMay copy n = false) ∧
    (∃ (s : State) (read : Bool) (t : Nat) (far : Word) (bits : List (Fin 2072)) (n : _) (copy : _),
      let u := ({ s with cfg := { s.cfg with fwGo := none } } : State).wrb CFG.FW_CTL.BUSY false;
      let f := flipBits (if copy = 0 then u.liveFrame n else u.planeFrame (copy == 2) n) bits;
      let x := if copy = 0 then u.disturb n f else u.setPlane (copy == 2) n f; s.cfg.fwGo = some (read, t, far) ∧ t < 5 ∧
      farDecode far = some n ∧ u.frameBusy n = false ∧ u.fwCopy t n = some copy ∧ read = false ∧ x.fwMay copy n = true ∧
      syndrome x.fwFrame ≠ 0) ∧
    (∃ (s : State) (read : Bool) (t : Nat) (far : Word) (bits : List (Fin 2072)) (n : _) (copy : _),
      let u := ({ s with cfg := { s.cfg with fwGo := none } } : State).wrb CFG.FW_CTL.BUSY false;
      let f := flipBits (if copy = 0 then u.liveFrame n else u.planeFrame (copy == 2) n) bits;
      let x := if copy = 0 then u.disturb n f else u.setPlane (copy == 2) n f; s.cfg.fwGo = some (read, t, far) ∧ t < 5 ∧
      farDecode far = some n ∧ u.frameBusy n = false ∧ u.fwCopy t n = some copy ∧ read = false ∧ x.fwMay copy n = true ∧
      syndrome x.fwFrame = 0 ∧ copy = 0) ∧
    (∃ (s : State) (read : Bool) (t : Nat) (far : Word) (bits : List (Fin 2072)) (bad : Bool) (n : _) (copy : _),
      let u := ({ s with cfg := { s.cfg with fwGo := none } } : State).wrb CFG.FW_CTL.BUSY false;
      let f := flipBits (if copy = 0 then u.liveFrame n else u.planeFrame (copy == 2) n) bits;
      let x := if copy = 0 then u.disturb n f else u.setPlane (copy == 2) n f; s.cfg.fwGo = some (read, t, far) ∧ t < 5 ∧
      farDecode far = some n ∧ u.frameBusy n = false ∧ u.fwCopy t n = some copy ∧ read = false ∧ x.fwMay copy n = true ∧
      syndrome x.fwFrame = 0 ∧ copy ≠ 0 ∧ bad = true) ∧
    (∃ (s : State) (read : Bool) (t : Nat) (far : Word) (bits : List (Fin 2072)) (bad : Bool) (n : _) (copy : _),
      let u := ({ s with cfg := { s.cfg with fwGo := none } } : State).wrb CFG.FW_CTL.BUSY false;
      let f := flipBits (if copy = 0 then u.liveFrame n else u.planeFrame (copy == 2) n) bits;
      let x := if copy = 0 then u.disturb n f else u.setPlane (copy == 2) n f; s.cfg.fwGo = some (read, t, far) ∧ t < 5 ∧
      farDecode far = some n ∧ u.frameBusy n = false ∧ u.fwCopy t n = some copy ∧ read = false ∧ x.fwMay copy n = true ∧
      syndrome x.fwFrame = 0 ∧ copy ≠ 0 ∧ bad = false) :=
  ⟨⟨up, starter, can_write (by decide +kernel), by decide +kernel⟩,
   ⟨{ up with cfg := { up.cfg with fwGo := some (true, 5, 0#32) } }, true, 5, 0#32, by decide +kernel⟩,
   ⟨{ up with cfg := { up.cfg with fwGo := some (true, 4, 0x70000000#32) } }, true, 4, 0x70000000#32, by decide +kernel⟩,
   ⟨{ up with cfg := { up.cfg with fwGo := some (true, 4, 0#32), loads := [(0, some { code := 1, vats := [0], plan := [] })] } },
     true, 4, 0#32, 0, by decide +kernel⟩,
   ⟨{ up with cfg := { up.cfg with fwGo := some (true, 4, 0#32) } }, true, 4, 0#32, 0, by decide +kernel⟩,
   ⟨{ up with cfg := { up.cfg with fwGo := some (true, 2, 0#32) } }, true, 2, 0#32, 0, 2, by decide +kernel⟩,
   ⟨{ up with cfg := { up.cfg with fwGo := some (false, 0, 0x0DF00000#32) } }, false, 0, 0x0DF00000#32, [], 259968, 0,
     by decide +kernel⟩,
   ⟨{ ((own15 {}).wr ⟨0x100300, 23, 0⟩ 0x800000) with cfg := { (own15 {}).cfg with commits := [⟨[15], none⟩], fwGo := some (false, 2, 0x0DF00000#32) } },
     false, 2, 0x0DF00000#32, [], 259968, 2, by decide +kernel, by decide +kernel, by decide +kernel, by decide +kernel,
     by decide +kernel, by decide +kernel, by decide +kernel, syn_bit (by decide +kernel)⟩,
   ⟨{ up with cfg := { up.cfg with mods := [⟨15, 0, (0, 255, 0, 255), 0, 0, false, 0, 0, 2, 0, 0, [], 0⟩], fwGo := some (false, 0, 0x0DF00000#32) } },
     false, 0, 0x0DF00000#32, [], 259968, 0, by decide +kernel, by decide +kernel, by decide +kernel, by decide +kernel,
     by decide +kernel, by decide +kernel, by decide +kernel, syn_zero (by decide +kernel), by decide +kernel⟩,
   ⟨{ (own15 {}) with cfg := { (own15 {}).cfg with commits := [⟨[15], none⟩], fwGo := some (false, 2, 0x0DF00000#32) } },
     false, 2, 0x0DF00000#32, [], true, 259968, 2, by decide +kernel, by decide +kernel, by decide +kernel, by decide +kernel,
     by decide +kernel, by decide +kernel, by decide +kernel, syn_zero (by decide +kernel), by decide +kernel⟩,
   ⟨{ (own15 {}) with cfg := { (own15 {}).cfg with commits := [⟨[15], none⟩], fwGo := some (false, 2, 0x0DF00000#32) } },
     false, 2, 0x0DF00000#32, [], false, 259968, 2, by decide +kernel, by decide +kernel, by decide +kernel,
     by decide +kernel, by decide +kernel, by decide +kernel, by decide +kernel, syn_zero (by decide +kernel),
     by decide +kernel⟩⟩
theorem witness_InitsAndReadBackRun :
    (∃ (s : State) (v : Fin 16), let u : State := { s with img := { s.img with initQ := s.img.initQ.drop 1 } };
      s.img.init = none ∧ s.img.initQ.head? = some v.val ∧ s.running = true ∧ s.cfg.clearing.contains v.val = false ∧
      s.underTest v = false ∧ u.initSource v (s.role v).cur = none) ∧
    (∃ (s : State) (v : Fin 16) (slot : Nat) (hash : List Byte),
      let u : State := { s with img := { s.img with initQ := s.img.initQ.drop 1 } };
      let w := (u.wr CFG.IMG_STAT.INIT_VAT v).wrb CFG.IMG_STAT.INIT_BUSY true; let hb := w.celBytes (slotOff slot) 392;
      s.img.init = none ∧ s.img.initQ.head? = some v.val ∧ s.running = true ∧ s.cfg.clearing.contains v.val = false ∧
      s.underTest v = false ∧ u.initSource v (s.role v).cur = some (slot, hash) ∧ sha384 hb ≠ hash) ∧
    (∃ (s : State) (v : Fin 16) (slot : Nat) (hash : List Byte) (h : Hdr),
      let u : State := { s with img := { s.img with initQ := s.img.initQ.drop 1 } };
      let w := (u.wr CFG.IMG_STAT.INIT_VAT v).wrb CFG.IMG_STAT.INIT_BUSY true; let hb := w.celBytes (slotOff slot) 392;
      s.img.init = none ∧ s.img.initQ.head? = some v.val ∧ s.running = true ∧ s.cfg.clearing.contains v.val = false ∧
      s.underTest v = false ∧ u.initSource v (s.role v).cur = some (slot, hash) ∧ sha384 hb = hash ∧
      hdrOf ((hb.drop 4).take 384) = some h) ∧
    (∃ (s : State) (r : InitRun), s.img.init = some r) ∧
    (∃ (s : State) (v : Fin 16) (r : InitRun), s.img.init = some r ∧ r.vat = v.val ∧ r.stop ≤ r.pos ∧ sha384 r.isec = r.hash) ∧
    (∃ (s : State) (v : Fin 16) (r : InitRun), s.img.init = some r ∧ r.vat = v.val ∧ r.stop ≤ r.pos ∧ sha384 r.isec ≠ r.hash) ∧
    (∃ (s : State) (v : Fin 16),
      ((s.cfg.commits.any fun c => c.vats.contains v.val && c.closing.isSome && s.commitBusy c.vats) = false) ∧ s.img.op = none) ∧
    (∃ (s : State) (v : Fin 16) (ups : List (Bool × Fin 262144 × List (Fin 2072))) (c : Commit) (o : ImgOp) (o' : ImgOp) (h : Hdr),
      let u := s.commitCloseEnd v true ups;
      ((s.cfg.commits.any fun c => c.vats.contains v.val && c.closing.isSome && s.commitBusy c.vats) = false) ∧
      ((s.cfg.commits.find? fun c => c.vats.contains v.val && c.closing.isSome) = some c) ∧ s.img.op = some o ∧ o.closed = 1 ∧
      (o.header.map (·.vats)) = some c.vats ∧ (s.commitCloseEnd v true ups).img.op = some o' ∧ o'.header = some h ∧
      ((u.cfg.commits.any fun c => c.vats == h.vats) = true)) ∧
    (∃ (s : State) (v : Fin 16) (ups : List (Bool × Fin 262144 × List (Fin 2072))) (c : Commit) (o : ImgOp) (o' : ImgOp) (h : Hdr),
      let u := s.commitCloseEnd v true ups;
      ((s.cfg.commits.any fun c => c.vats.contains v.val && c.closing.isSome && s.commitBusy c.vats) = false) ∧
      ((s.cfg.commits.find? fun c => c.vats.contains v.val && c.closing.isSome) = some c) ∧ s.img.op = some o ∧ o.closed = 1 ∧
      (o.header.map (·.vats)) = some c.vats ∧ (s.commitCloseEnd v true ups).img.op = some o' ∧ o'.header = some h ∧
      ((u.cfg.commits.any fun c => c.vats == h.vats) = false)) :=
  ⟨⟨{ up with img := { up.img with initQ := [15] } }, 15, by decide +kernel⟩,
   ⟨booted up [], 15, 7, List.replicate 48 255#8, by decide +kernel⟩,
   ⟨booted bootHdr bootHash, 15, 7, bootHash, theHdr hb0, by decide +kernel⟩,
   ⟨{ up with img := { up.img with init := some ⟨15, false, 0, 0, 0, [], []⟩ } },
     (let s : State := { up with img := { up.img with init := some ⟨15, false, 0, 0, 0, [], []⟩ } }; s.img.init).get (by decide +kernel),
     by decide +kernel⟩,
   ⟨{ up with img := { up.img with init := some ⟨15, false, 0, 0, 0, sha384 [], []⟩ } }, 15,
     (let s : State := { up with img := { up.img with init := some ⟨15, false, 0, 0, 0, sha384 [], []⟩ } }; s.img.init).get (by decide +kernel),
     by decide +kernel⟩,
   ⟨{ up with img := { up.img with init := some ⟨15, false, 0, 0, 0, [], []⟩ } }, 15,
     (let s : State := { up with img := { up.img with init := some ⟨15, false, 0, 0, 0, [], []⟩ } }; s.img.init).get (by decide +kernel),
     by decide +kernel⟩,
   ⟨up, 15, by decide +kernel⟩,
   ⟨closing 5#2072, 0, [], ⟨[0], some 7⟩, { anOp 1 0 [] (aRec 1 (hdrBody 0 1 0 (zeros 48) (zeros 224))) with closed := 1 },
     { anOp 1 0 [] (aRec 1 (hdrBody 0 1 0 (zeros 48) (zeros 224))) with closed := 1 },
     theHdr (hdrBody 0 1 0 (zeros 48) (zeros 224)), by decide +kernel⟩,
   ⟨closing 0, 0, [], ⟨[0], some 7⟩, { anOp 1 0 [] (aRec 1 (hdrBody 0 1 0 (zeros 48) (zeros 224))) with closed := 1 },
     { anOp 1 0 [] (aRec 1 (hdrBody 0 1 0 (zeros 48) (zeros 224))) with closed := 1 },
     theHdr (hdrBody 0 1 0 (zeros 48) (zeros 224)), by decide +kernel⟩⟩
theorem witness_ImageEventsRun :
    (∃ (s : State) (o : _), s.img.op = some o ∧ (o.kind = 1 ∨ o.kind = 3) ∧ o.last = false ∧ s.img.work = []) ∧
    (∃ (s : State), s.img.flight = false ∧ s.img.work = [] ∧ s.img.op = none) ∧
    (∃ (s : State) (w : CelOp) (rest : List CelOp) (o : ImgOp), let r := s.celStart w; s.img.flight = false ∧
      s.img.work = w :: rest ∧ s.img.op = some o ∧ r.2 = true) ∧
    (∃ (s : State) (w : CelOp) (rest : List CelOp) (o : ImgOp), let r := s.celStart w;
      let busy := r.1.rd (CEL.BSTAT.RESULT (bankOf w.sector)) = 2; s.img.flight = false ∧ s.img.work = w :: rest ∧
      s.img.op = some o ∧ r.2 = false ∧ busy) ∧
    (∃ (s : State) (w : CelOp) (rest : List CelOp) (o : ImgOp), let r := s.celStart w;
      let busy := r.1.rd (CEL.BSTAT.RESULT (bankOf w.sector)) = 2; s.img.flight = false ∧ s.img.work = w :: rest ∧
      s.img.op = some o ∧ r.2 = false ∧ (¬ busy)) ∧
    (∃ (s : State) (v : Fin 16) (m : ModLoad), s.modHead = some m ∧ m.vat = v.val ∧ m.phase = 0 ∧ s.img.mod = none ∧
      s.underTest v = false) ∧
    (∃ (s : State) (v : Fin 16) (m : ModLoad) (o : ImgOp) (h : Hdr), s.modHead = some m ∧ s.img.mod = some o ∧
      o.header = some h ∧ m.vat = v.val ∧ (m.phase = 1 ∨ m.phase = 2) ∧ o.phase = 3 ∧ o.pos = h.fsecEnd ∧
      modFault o h m = none ∧ 256 < s.shadowTaken - m.need + s.shadowMore m) ∧
    (∃ (s : State) (v : Fin 16) (m : ModLoad) (o : ImgOp) (h : Hdr), s.modHead = some m ∧ s.img.mod = some o ∧
      o.header = some h ∧ m.vat = v.val ∧ (m.phase = 1 ∨ m.phase = 2) ∧ o.phase = 3 ∧ o.pos = h.fsecEnd ∧
      modFault o h m = none ∧ s.shadowTaken - m.need + s.shadowMore m ≤ 256) ∧
    (∃ (s : State) (v : Fin 16) (m : ModLoad) (o : ImgOp) (h : Hdr) (c : _), s.modHead = some m ∧ s.img.mod = some o ∧
      o.header = some h ∧ m.vat = v.val ∧ (m.phase = 1 ∨ m.phase = 2) ∧ o.phase = 3 ∧ o.pos = h.fsecEnd ∧
      modFault o h m = some c) ∧
    (∃ (s : State) (v : Fin 16), ((s.cfg.mods.any fun m => m.vat == v.val && m.phase == 3) = true)) ∧
    (∃ (s : State) (v : Fin 16) (m : ModLoad), ((s.cfg.mods.find? fun m => m.vat == v.val && m.phase == 5) = some m)) ∧
    (∃ (s : State) (v : Fin 16), ((s.cfg.mods.any fun m => m.vat == v.val && m.phase == 4) = true)) ∧
    (∃ (s : State), s.mode = M.boot ∧ s.pwr.held = false ∧ s.pwr.rst = none ∧ s.pwr.fw = false ∧
      s.bit CLK.ROOT_STAT.LOCK = true) :=
  ⟨⟨{ up with img := { up.img with op := some { kind := 1, slot := 0, host := 0 } } }, { kind := 1, slot := 0, host := 0 },
     rfl, by decide +kernel⟩,
   ⟨up, by decide +kernel⟩,
   ⟨{ up with img := { up.img with work := [⟨true, 0, 0, 0, false, true⟩], op := some { kind := 1, slot := 0, host := 0 } } },
     ⟨true, 0, 0, 0, false, true⟩, [], { kind := 1, slot := 0, host := 0 }, by decide +kernel, by decide +kernel, rfl,
     by decide +kernel⟩,
   ⟨{ (up.setBank 0 { ops := [{ erase := true, sector := 0 }] }) with img := { up.img with work := [⟨true, 0, 0, 0, false, true⟩], op := some { kind := 1, slot := 0, host := 0 } } },
     ⟨true, 0, 0, 0, false, true⟩, [], { kind := 1, slot := 0, host := 0 }, by decide +kernel, by decide +kernel, rfl,
     by decide +kernel⟩,
   ⟨{ up with img := { up.img with work := [⟨true, 8068, 0, 0, false, true⟩], op := some { kind := 1, slot := 0, host := 0 } } },
     ⟨true, 8068, 0, 0, false, true⟩, [], { kind := 1, slot := 0, host := 0 }, by decide +kernel, by decide +kernel, rfl,
     by decide +kernel⟩,
   ⟨{ up with cfg := { up.cfg with mods := [⟨15, 0, (0, 0, 0, 0), 0, 0, false, 0, 0, 0, 0, 0, [], 0⟩] } }, 15,
     (let s : State := { up with cfg := { up.cfg with mods := [⟨15, 0, (0, 0, 0, 0), 0, 0, false, 0, 0, 0, 0, 0, [], 0⟩] } }; s.modHead).get (by decide +kernel),
     rfl, by decide +kernel⟩,
   ⟨{ (modState (sha384 [])) with cfg := { up.cfg with mods := [modLd, { modLd with vat := 14, phase := 0, need := 257 }] } },
     15, modLd, modOp (sha384 []), theHdr (hdrBody 0 0x8000 4 (sha384 []) (zeros 224)), rfl, rfl, rfl, by decide +kernel⟩,
   ⟨modState (sha384 []), 15, modLd, modOp (sha384 []), theHdr (hdrBody 0 0x8000 4 (sha384 []) (zeros 224)), rfl, rfl, rfl,
     by decide +kernel⟩,
   ⟨modState (zeros 48), 15, modLd, modOp (zeros 48), theHdr (hdrBody 0 0x8000 4 (zeros 48) (zeros 224)), 0x0C, rfl, rfl,
     rfl, by decide +kernel⟩,
   ⟨{ up with cfg := { up.cfg with mods := [⟨15, 0, (0, 0, 0, 0), 0, 0, false, 0, 0, 3, 0, 0, [], 0⟩] } }, 15,
     by decide +kernel⟩,
   ⟨{ up with cfg := { up.cfg with mods := [⟨15, 0, (0, 0, 0, 0), 0, 0, false, 0, 0, 5, 0, 0, [], 0⟩] } }, 15,
     (let s : State := { up with cfg := { up.cfg with mods := [⟨15, 0, (0, 0, 0, 0), 0, 0, false, 0, 0, 5, 0, 0, [], 0⟩] } }; let v : Fin 16 := 15; (s.cfg.mods.find? fun m => m.vat == v.val && m.phase == 5)).get (by decide +kernel),
     rfl⟩,
   ⟨{ up with cfg := { up.cfg with mods := [⟨15, 0, (0, 0, 0, 0), 0, 0, false, 0, 0, 4, 0, 0, [], 0⟩] } }, 15,
     by decide +kernel⟩,
   ⟨(up.wr (PWR.MODE_STAT.MODE) 2).wr (CLK.ROOT_STAT.LOCK) 1, by decide +kernel⟩⟩
theorem witness_KeysRun :
    (∃ (s : State) (t : State) (e : ImmEnv) (body : List Byte) (j : _), let k := slotBit (field body 0 1);
      let op : Byte → Prop := fun n => s.receive false e 0x0042 (n :: body) = (t, true); 3 ≤ body.length ∧
      e.port.val = t.devOwner ∧ op 1 ∧ k = some j ∧ (body.drop 3).length = keyLen j ∧
      ((j < 4 → p384.on (beNum ((body.drop 3).take 48), beNum ((body.drop 3).drop 48)) = true))) ∧
    (∃ (s : State) (t : State) (e : ImmEnv) (body : List Byte) (j : _), let k := slotBit (field body 0 1);
      let op : Byte → Prop := fun n => s.receive false e 0x0042 (n :: body) = (t, true); 3 ≤ body.length ∧
      e.port.val = t.devOwner ∧ op 2 ∧ k = some j ∧ body.length = 3) ∧
    (∃ (t : State) (e : ImmEnv) (body : List Byte) (j : _), 3 ≤ body.length ∧ e.port.val = t.devOwner ∧
      ((t.lcs.defer.any fun d => d.slot == j) = false) ∧ ((t.sigRuns.filter fun r => r.1 == j) = []) ∧
      t.keyAllowed j true = true) ∧
    (∃ (t : State) (e : ImmEnv) (body : List Byte) (j : _), 3 ≤ body.length ∧ e.port.val = t.devOwner ∧
      ((t.lcs.defer.any fun d => d.slot == j) = false) ∧ ((t.sigRuns.filter fun r => r.1 == j) = []) ∧
      t.keyAllowed j false = true) ∧
    (∃ (s : State) (t : State) (e : ImmEnv) (body : List Byte), let k := slotBit (field body 0 1);
      let op : Byte → Prop := fun n => s.receive false e 0x0042 (n :: body) = (t, true); 3 ≤ body.length ∧
      e.port.val = t.devOwner ∧ op 1 ∧ k = none) ∧
    (∃ (s : State) (t : State) (e : ImmEnv) (body : List Byte), let k := slotBit (field body 0 1);
      let op : Byte → Prop := fun n => s.receive false e 0x0042 (n :: body) = (t, true); 3 ≤ body.length ∧
      e.port.val = t.devOwner ∧ op 2 ∧ k = none) ∧
    (∃ (s : State) (t : State) (e : ImmEnv) (body : List Byte),
      let op : Byte → Prop := fun n => s.receive false e 0x0042 (n :: body) = (t, true); 3 ≤ body.length ∧
      e.port.val = t.devOwner ∧ op 3 ∧ body.length = 3) ∧
    (∃ (s : State) (t : State) (e : ImmEnv) (body : List Byte),
      let op : Byte → Prop := fun n => s.receive false e 0x0042 (n :: body) = (t, true); 3 ≤ body.length ∧
      e.port.val = t.devOwner ∧ op 4 ∧ body.length = 3 ∧ t.lcs.blowing = none ∧ t.mayAdvance (field body 0 1) = true) ∧
    (∃ (s : State) (t : State) (e : ImmEnv) (body : List Byte),
      let op : Byte → Prop := fun n => s.receive false e 0x0042 (n :: body) = (t, true); 3 ≤ body.length ∧
      e.port.val = t.devOwner ∧ op 4 ∧ body.length = 3 ∧ t.lcs.blowing = none ∧ t.mayAdvance (field body 0 1) = false) ∧
    (∃ (s : State) (t : State) (e : ImmEnv) (body : List Byte),
      let op : Byte → Prop := fun n => s.receive false e 0x0042 (n :: body) = (t, true); 3 ≤ body.length ∧
      e.port.val ≠ t.devOwner ∧ op 1) ∧
    (∃ (s : State) (t : State) (e : ImmEnv) (body : List Byte),
      let op : Byte → Prop := fun n => s.receive false e 0x0042 (n :: body) = (t, true); 3 ≤ body.length ∧
      e.port.val ≠ t.devOwner ∧ op 2) ∧
    (∃ (s : State) (t : State) (e : ImmEnv) (body : List Byte),
      let op : Byte → Prop := fun n => s.receive false e 0x0042 (n :: body) = (t, true); 3 ≤ body.length ∧
      e.port.val ≠ t.devOwner ∧ op 3) ∧
    (∃ (s : State) (t : State) (e : ImmEnv) (body : List Byte),
      let op : Byte → Prop := fun n => s.receive false e 0x0042 (n :: body) = (t, true); 3 ≤ body.length ∧
      e.port.val ≠ t.devOwner ∧ op 4) ∧
    (∃ (s : State) (n : _), s.lcs.blowing = some n) ∧
    (∃ (s : State) (j : Fin 9) (d : KeyWait), ((s.lcs.defer.find? fun d => d.slot == j.val) = some d) ∧
      ((d.checks.any fun n => s.sigRuns.any fun r => r.2 == n) = false)) :=
  ⟨⟨ses1, got (ses1) 0, envOf 0 0x0042 ((1#8 :: (0x20#8 :: List.replicate 34 0#8))), 0x20#8 :: List.replicate 34 0#8, 8,
     by decide +kernel, by decide +kernel, received (by decide +kernel), by decide +kernel⟩,
   ⟨ses1, got (ses1) 0, envOf 0 0x0042 ((2#8 :: ([0x20#8, 0#8, 0#8]))), [0x20#8, 0#8, 0#8], 8, by decide +kernel,
     by decide +kernel, received (by decide +kernel), by decide +kernel⟩,
   ⟨got ses1 0, envOf 0 0x42 [], [0x20#8, 0#8, 0#8], 8, by decide +kernel⟩,
   ⟨got ses1 0, envOf 0 0x42 [], [0x20#8, 0#8, 0#8], 8, by decide +kernel⟩,
   ⟨ses1, got (ses1) 0, envOf 0 0x0042 ((1#8 :: ([0x21#8, 0#8, 0#8]))), [0x21#8, 0#8, 0#8], by decide +kernel,
     by decide +kernel, received (by decide +kernel), by decide +kernel⟩,
   ⟨ses1, got (ses1) 0, envOf 0 0x0042 ((2#8 :: ([0x21#8, 0#8, 0#8]))), [0x21#8, 0#8, 0#8], by decide +kernel,
     by decide +kernel, received (by decide +kernel), by decide +kernel⟩,
   ⟨ses1, got (ses1) 0, envOf 0 0x0042 ((3#8 :: ([0x20#8, 0#8, 0#8]))), [0x20#8, 0#8, 0#8], by decide +kernel,
     by decide +kernel, received (by decide +kernel), by decide +kernel⟩,
   ⟨ses1, got (ses1) 0, envOf 0 0x0042 ((4#8 :: ([3#8, 0#8, 0#8]))), [3#8, 0#8, 0#8], by decide +kernel, by decide +kernel,
     received (by decide +kernel), by decide +kernel⟩,
   ⟨ses1, got (ses1) 0, envOf 0 0x0042 ((4#8 :: ([0x20#8, 0#8, 0#8]))), [0x20#8, 0#8, 0#8], by decide +kernel,
     by decide +kernel, received (by decide +kernel), by decide +kernel⟩,
   ⟨ses1, got (ses1) 1, envOf 1 0x0042 ((1#8 :: ([0x20#8, 0#8, 0#8]))), [0x20#8, 0#8, 0#8], by decide +kernel,
     by decide +kernel, received (by decide +kernel)⟩,
   ⟨ses1, got (ses1) 1, envOf 1 0x0042 ((2#8 :: ([0x20#8, 0#8, 0#8]))), [0x20#8, 0#8, 0#8], by decide +kernel,
     by decide +kernel, received (by decide +kernel)⟩,
   ⟨ses1, got (ses1) 1, envOf 1 0x0042 ((3#8 :: ([0x20#8, 0#8, 0#8]))), [0x20#8, 0#8, 0#8], by decide +kernel,
     by decide +kernel, received (by decide +kernel)⟩,
   ⟨ses1, got (ses1) 1, envOf 1 0x0042 ((4#8 :: ([0x20#8, 0#8, 0#8]))), [0x20#8, 0#8, 0#8], by decide +kernel,
     by decide +kernel, received (by decide +kernel)⟩,
   ⟨{ up with lcs := { up.lcs with blowing := some 1 } },
     (let s : State := { up with lcs := { up.lcs with blowing := some 1 } }; s.lcs.blowing).get (by decide +kernel),
     by decide +kernel⟩,
   ⟨{ up with lcs := { up.lcs with defer := [⟨8, none, []⟩] } }, 8,
     (let s : State := { up with lcs := { up.lcs with defer := [⟨8, none, []⟩] } }; let j : Fin 9 := 8; (s.lcs.defer.find? fun d => d.slot == j.val)).get (by decide +kernel),
     by decide +kernel⟩⟩
theorem witness_ImageRequestsRun :
    (∃ (s : State) (t : State) (e : ImmEnv) (body : List Byte), let h := e.port.val; let k := field body 0 1;
      body.length = 1 ∧ k < 8 ∧ t.imgModeOk = true ∧ t.img.op = none ∧ s.receive false e 0x0021 body = (t, true) ∧
      (((goodHeader (t.celBytes (slotOff k) 392)).bind fun x => t.imgAdmit h 2 x.vats) = none)) ∧
    (∃ (s : State) (t : State) (e : ImmEnv) (body : List Byte), let h := e.port.val; let k := field body 0 1;
      body.length = 1 ∧ k < 8 ∧ t.imgModeOk = true ∧ t.img.op = none ∧ s.receive false e 0x0023 body = (t, true) ∧
      (((goodHeader (t.celBytes (slotOff k) 392)).bind fun x => t.imgAdmit h 4 x.vats) = none)) ∧
    (∃ (s : State) (t : State) (e : ImmEnv) (body : List Byte), let h := e.port.val; let bs := body.drop 8;
      let off := field body 4 4; let k := field body 0 1; let head := decide (24 ≤ bs.length) && wordAt bs 1 == 0x49484C44;
      let vats := (List.range 16).filter fun v => (wordAt bs 5).testBit v; 8 ≤ body.length ∧ body.length ≤ 1032 ∧
      field body 1 1 < 2 ∧ t.imgModeOk = true ∧ s.receive false e 0x0020 body = (t, true) ∧ k < 8 ∧ t.img.op = none ∧ off = 0 ∧
      t.slotInUse k = false ∧ ((head = true → t.imgAdmit h 1 vats = none))) ∧
    (∃ (s : State) (t : State) (e : ImmEnv) (body : List Byte), let h := e.port.val; let bs := body.drop 8;
      let off := field body 4 4; let head := decide (24 ≤ bs.length) && wordAt bs 1 == 0x49484C44;
      let vats := (List.range 16).filter fun v => (wordAt bs 5).testBit v; 8 ≤ body.length ∧ body.length ≤ 1032 ∧
      field body 1 1 < 2 ∧ t.imgModeOk = true ∧ s.receive false e 0x0022 body = (t, true) ∧ t.img.op = none ∧ off = 0 ∧
      ((head = true → (wordAt bs 4).testBit 1 = false)) ∧ ((head = true → t.imgAdmit h 3 vats = none))) ∧
    (∃ (s : State) (t : State) (e : ImmEnv) (body : List Byte) (o : _), let h := e.port.val; let off := field body 4 4;
      let last := field body 1 1 == 1; let k := field body 0 1; 8 ≤ body.length ∧ body.length ≤ 1032 ∧ field body 1 1 < 2 ∧
      t.imgModeOk = true ∧ t.img.op = some o ∧ o.host = h ∧ o.last = false ∧ off = o.recvd ∧
      s.receive false e 0x0020 body = (t, true) ∧ o.kind = 1 ∧ o.slot = k ∧ k < 8) ∧
    (∃ (s : State) (t : State) (e : ImmEnv) (body : List Byte) (o : _), let h := e.port.val; let off := field body 4 4;
      let last := field body 1 1 == 1; 8 ≤ body.length ∧ body.length ≤ 1032 ∧ field body 1 1 < 2 ∧ t.imgModeOk = true ∧
      t.img.op = some o ∧ o.host = h ∧ o.last = false ∧ off = o.recvd ∧ s.receive false e 0x0022 body = (t, true) ∧
      o.kind = 3 ∧ o.slot = 0) ∧
    (∃ (s : State) (t : State) (e : ImmEnv) (body : List Byte), s.receive false e 0x0024 body = (t, true) ∧ body.length ≠ 4) ∧
    (∃ (s : State) (t : State) (e : ImmEnv) (body : List Byte), let h := e.port.val;
      s.receive false e 0x0024 body = (t, true) ∧ body.length = 4 ∧ h ≠ t.devOwner) ∧
    (∃ (s : State) (t : State) (e : ImmEnv) (body : List Byte), let h := e.port.val; let w := field body 0 4;
      let l := ((List.range 8).map fun i => w / 16 ^ i % 16).takeWhile (· != 15); s.receive false e 0x0024 body = (t, true) ∧
      body.length = 4 ∧ h = t.devOwner ∧ t.imgModeOk = true ∧ ((l.any fun n => decide (8 ≤ n)) = false) ∧ t.img.op = none) :=
  ⟨⟨ses1, got (ses1) 0, envOf 0 0x0021 (([7#8])), [7#8], by decide +kernel, by decide +kernel, by decide +kernel,
     by decide +kernel, received (by decide +kernel), by decide +kernel⟩,
   ⟨ses1, got (ses1) 0, envOf 0 0x0023 (([7#8])), [7#8], by decide +kernel, by decide +kernel, by decide +kernel,
     by decide +kernel, received (by decide +kernel), by decide +kernel⟩,
   ⟨ses1, got (ses1) 0, envOf 0 0x0020 ((List.replicate 8 0#8)), List.replicate 8 0#8, by decide +kernel, by decide +kernel,
     by decide +kernel, by decide +kernel, received (by decide +kernel), by decide +kernel⟩,
   ⟨ses1, got (ses1) 0, envOf 0 0x0022 ((List.replicate 8 0#8)), List.replicate 8 0#8, by decide +kernel, by decide +kernel,
     by decide +kernel, by decide +kernel, received (by decide +kernel), by decide +kernel⟩,
   ⟨{ ses1 with img := { ses1.img with op := some { kind := 1, slot := 0, host := 0 } } },
     got ({ ses1 with img := { ses1.img with op := some { kind := 1, slot := 0, host := 0 } } }) 0,
     envOf 0 0x0020 ((List.replicate 8 0#8)), List.replicate 8 0#8,
     (let t : State := got ({ ses1 with img := { ses1.img with op := some { kind := 1, slot := 0, host := 0 } } }) 0; t.img.op).get (by decide +kernel),
     by decide +kernel, by decide +kernel, by decide +kernel, by decide +kernel, by decide +kernel, by decide +kernel,
     by decide +kernel, by decide +kernel, received (by decide +kernel), by decide +kernel⟩,
   ⟨{ ses1 with img := { ses1.img with op := some { kind := 3, slot := 0, host := 0 } } },
     got ({ ses1 with img := { ses1.img with op := some { kind := 3, slot := 0, host := 0 } } }) 0,
     envOf 0 0x0022 ((List.replicate 8 0#8)), List.replicate 8 0#8,
     (let t : State := got ({ ses1 with img := { ses1.img with op := some { kind := 3, slot := 0, host := 0 } } }) 0; t.img.op).get (by decide +kernel),
     by decide +kernel, by decide +kernel, by decide +kernel, by decide +kernel, by decide +kernel, by decide +kernel,
     by decide +kernel, by decide +kernel, received (by decide +kernel), by decide +kernel⟩,
   ⟨ses1, got (ses1) 0, envOf 0 0x0024 (([])), [], received (by decide +kernel), by decide +kernel⟩,
   ⟨ses1, got (ses1) 1, envOf 1 0x0024 ((List.replicate 4 0#8)), List.replicate 4 0#8, received (by decide +kernel),
     by decide +kernel⟩,
   ⟨ses1, got (ses1) 0, envOf 0 0x0024 ((List.replicate 4 0xFF#8)), List.replicate 4 0xFF#8, received (by decide +kernel),
     by decide +kernel⟩⟩
theorem witness_ImageRecordsRun :
    (∃ (s : State) (t : State) (e : Fin 2) (env : RecEnv) (o : ImgOp) (h : Hdr) (r : Rec) (typ : Nat),
      s.imgReady e (· == 0) = some o ∧ s.reads o env (some 384) slotBytes typ t r ∧ r.typ = 1 ∧ r.len = 384 ∧
      hdrOf r.body = some h ∧ ((∀ m, o.kind = 6 → t.modHead = some m → h.fsecEnd ≤ m.len)) ∧
      (¬ (o.kind = 3 ∧ h.hasInit = true)) ∧ ((o.kind ≤ 4 → t.ownsImage o.host h.vats = true))) ∧
    (∃ (s : State) (t : State) (e : Fin 2) (env : RecEnv) (o : ImgOp) (r : Rec) (typ : Nat),
      let fault := sigFault t.lcs.code (fun k => tget t.lcs.keys k none) r.body; s.imgReady e (· == 1) = some o ∧
      s.reads o env (some 148) slotBytes typ t r ∧ r.typ = 2 ∧ r.len = 148 ∧ fault = none) ∧
    (∃ (s : State) (t : State) (e : Fin 2) (env : RecEnv) (o : ImgOp) (r : Rec) (typ : Nat) (c : _),
      let fault := sigFault t.lcs.code (fun k => tget t.lcs.keys k none) r.body; s.imgReady e (· == 1) = some o ∧
      s.reads o env (some 148) slotBytes typ t r ∧ r.typ = 2 ∧ r.len = 148 ∧ fault = some c) ∧
    (∃ (s : State) (e : Fin 2) (o : ImgOp) (h : Hdr),
      let good := o.key == [] || ecdsaP384 o.key (sha384 o.hdr) ((o.sig.drop 56).take 96); s.imgReady e (· == 2) = some o ∧
      o.header = some h ∧ good = false) ∧
    (∃ (s : State) (e : Fin 2) (o : ImgOp) (h : Hdr),
      let good := o.key == [] || ecdsaP384 o.key (sha384 o.hdr) ((o.sig.drop 56).take 96);
      let p := { o with phase := 3, ref := 0 }; s.imgReady e (· == 2) = some o ∧ o.header = some h ∧ good = true ∧
      s.vatsFault p h = true) ∧
    (∃ (s : State) (e : Fin 2) (o : ImgOp) (h : Hdr),
      let good := o.key == [] || ecdsaP384 o.key (sha384 o.hdr) ((o.sig.drop 56).take 96);
      let p := { o with phase := 3, ref := 0 }; s.imgReady e (· == 2) = some o ∧ o.header = some h ∧ good = true ∧
      s.vatsFault p h = false ∧ o.commits = false) ∧
    (∃ (s : State) (e : Fin 2) (o : ImgOp) (h : Hdr),
      let good := o.key == [] || ecdsaP384 o.key (sha384 o.hdr) ((o.sig.drop 56).take 96);
      let p := { o with phase := 3, ref := 0 }; s.imgReady e (· == 2) = some o ∧ o.header = some h ∧ good = true ∧
      s.vatsFault p h = false ∧ o.commits = true ∧ (s.orderOp OP.commitOpen h.vats 0).2.1 = 0) ∧
    (∃ (s : State) (e : Fin 2) (o : ImgOp) (h : Hdr),
      let good := o.key == [] || ecdsaP384 o.key (sha384 o.hdr) ((o.sig.drop 56).take 96);
      let p := { o with phase := 3, ref := 0 }; s.imgReady e (· == 2) = some o ∧ o.header = some h ∧ good = true ∧
      s.vatsFault p h = false ∧ o.commits = true ∧ (s.orderOp OP.commitOpen h.vats 0).2.1 ≠ 0) ∧
    (∃ (s : State) (t : State) (e : Fin 2) (env : RecEnv) (o : ImgOp) (h : Hdr) (r : Rec) (typ : Nat) (done : Host.Outcome State Fault Refusal),
      (s.imgReady e (fun p => 3 ≤ p && p ≤ 5) = some o) ∧ o.header = some h ∧ s.reads o env none (sectionEnd o h) typ t r ∧
      o.phase = 3 ∧ o.pos ≠ h.fsecEnd ∧
      (((∃ c, frameRec r.typ r.body o.ref = .error c ∧ done = .next (t.imgReject o c)) ∨ (∃ l ref, frameRec r.typ r.body o.ref = .ok (l, ref) ∧ (o.commits && l.any fun x => s.frameBusy x.1) = true ∧ done = .next s) ∨ (∃ l ref x o' c, frameRec r.typ r.body o.ref = .ok (l, ref) ∧ (o.commits && l.any fun x => s.frameBusy x.1) = false ∧ t.imgFrames o h l env.wfails = (x, o', some c) ∧ done = .next (x.imgReject o c)) ∨ (∃ l ref x o', frameRec r.typ r.body o.ref = .ok (l, ref) ∧ (o.commits && l.any fun x => s.frameBusy x.1) = false ∧ t.imgFrames o h l env.wfails = (x, o', none) ∧ let o'' := { o' with ref := ref, fsec := o'.fsec ++ r.whole }; let w := x.stageBytes o'' o''.pos r.whole; done = .next ((x.imgSettle e (w.2.eat r.whole.length)).stageWork w.1)))) ∧
      typ ∉ [0x11, 0x12, 0x13, 0x20, 0x7E]) ∧
    (∃ (s : State) (t : State) (e : Fin 2) (env : RecEnv) (o : ImgOp) (h : Hdr) (r : Rec) (typ : Nat) (done : Host.Outcome State Fault Refusal),
      (s.imgReady e (fun p => 3 ≤ p && p ≤ 5) = some o) ∧ o.header = some h ∧ s.reads o env none (sectionEnd o h) typ t r ∧
      o.phase = 3 ∧ o.pos ≠ h.fsecEnd ∧
      (((∃ c, frameRec r.typ r.body o.ref = .error c ∧ done = .next (t.imgReject o c)) ∨ (∃ l ref, frameRec r.typ r.body o.ref = .ok (l, ref) ∧ (o.commits && l.any fun x => s.frameBusy x.1) = true ∧ done = .next s) ∨ (∃ l ref x o' c, frameRec r.typ r.body o.ref = .ok (l, ref) ∧ (o.commits && l.any fun x => s.frameBusy x.1) = false ∧ t.imgFrames o h l env.wfails = (x, o', some c) ∧ done = .next (x.imgReject o c)) ∨ (∃ l ref x o', frameRec r.typ r.body o.ref = .ok (l, ref) ∧ (o.commits && l.any fun x => s.frameBusy x.1) = false ∧ t.imgFrames o h l env.wfails = (x, o', none) ∧ let o'' := { o' with ref := ref, fsec := o'.fsec ++ r.whole }; let w := x.stageBytes o'' o''.pos r.whole; done = .next ((x.imgSettle e (w.2.eat r.whole.length)).stageWork w.1)))) ∧
      typ = 0x11) ∧
    (∃ (s : State) (t : State) (e : Fin 2) (env : RecEnv) (o : ImgOp) (h : Hdr) (r : Rec) (typ : Nat) (done : Host.Outcome State Fault Refusal),
      (s.imgReady e (fun p => 3 ≤ p && p ≤ 5) = some o) ∧ o.header = some h ∧ s.reads o env none (sectionEnd o h) typ t r ∧
      o.phase = 3 ∧ o.pos ≠ h.fsecEnd ∧
      (((∃ c, frameRec r.typ r.body o.ref = .error c ∧ done = .next (t.imgReject o c)) ∨ (∃ l ref, frameRec r.typ r.body o.ref = .ok (l, ref) ∧ (o.commits && l.any fun x => s.frameBusy x.1) = true ∧ done = .next s) ∨ (∃ l ref x o' c, frameRec r.typ r.body o.ref = .ok (l, ref) ∧ (o.commits && l.any fun x => s.frameBusy x.1) = false ∧ t.imgFrames o h l env.wfails = (x, o', some c) ∧ done = .next (x.imgReject o c)) ∨ (∃ l ref x o', frameRec r.typ r.body o.ref = .ok (l, ref) ∧ (o.commits && l.any fun x => s.frameBusy x.1) = false ∧ t.imgFrames o h l env.wfails = (x, o', none) ∧ let o'' := { o' with ref := ref, fsec := o'.fsec ++ r.whole }; let w := x.stageBytes o'' o''.pos r.whole; done = .next ((x.imgSettle e (w.2.eat r.whole.length)).stageWork w.1)))) ∧
      typ = 0x12) ∧
    (∃ (s : State) (t : State) (e : Fin 2) (env : RecEnv) (o : ImgOp) (h : Hdr) (r : Rec) (typ : Nat) (done : Host.Outcome State Fault Refusal),
      (s.imgReady e (fun p => 3 ≤ p && p ≤ 5) = some o) ∧ o.header = some h ∧ s.reads o env none (sectionEnd o h) typ t r ∧
      o.phase = 3 ∧ o.pos ≠ h.fsecEnd ∧
      (((∃ c, frameRec r.typ r.body o.ref = .error c ∧ done = .next (t.imgReject o c)) ∨ (∃ l ref, frameRec r.typ r.body o.ref = .ok (l, ref) ∧ (o.commits && l.any fun x => s.frameBusy x.1) = true ∧ done = .next s) ∨ (∃ l ref x o' c, frameRec r.typ r.body o.ref = .ok (l, ref) ∧ (o.commits && l.any fun x => s.frameBusy x.1) = false ∧ t.imgFrames o h l env.wfails = (x, o', some c) ∧ done = .next (x.imgReject o c)) ∨ (∃ l ref x o', frameRec r.typ r.body o.ref = .ok (l, ref) ∧ (o.commits && l.any fun x => s.frameBusy x.1) = false ∧ t.imgFrames o h l env.wfails = (x, o', none) ∧ let o'' := { o' with ref := ref, fsec := o'.fsec ++ r.whole }; let w := x.stageBytes o'' o''.pos r.whole; done = .next ((x.imgSettle e (w.2.eat r.whole.length)).stageWork w.1)))) ∧
      typ = 0x13) ∧
    (∃ (s : State) (t : State) (e : Fin 2) (env : RecEnv) (o : ImgOp) (h : Hdr) (r : Rec) (typ : Nat) (m : _),
      (s.imgReady e (fun p => 3 ≤ p && p ≤ 5) = some o) ∧ o.header = some h ∧ s.reads o env none (sectionEnd o h) typ t r ∧
      o.phase = 4 ∧ typ = 0x20 ∧ (¬ (o.kind = 6 ∧ o.pos = h.fsecEnd)) ∧
      (memInitOf r.body (fun sec => h.vats.contains (h.mapOf sec)) = .ok m)) ∧
    (∃ (s : State) (t : State) (e : Fin 2) (env : RecEnv) (o : ImgOp) (h : Hdr) (r : Rec) (typ : Nat),
      (s.imgReady e (fun p => 3 ≤ p && p ≤ 5) = some o) ∧ o.header = some h ∧ s.reads o env none (sectionEnd o h) typ t r ∧
      o.phase = 5 ∧ typ = 0x7E ∧ r.len = 0 ∧ (¬ (o.kind = 6 ∧ o.pos = h.fsecEnd))) :=
  ⟨⟨withOp (own15 {}) (anOp 1 0 (aRec 1 hb0) []),
     afterRead (withOp (own15 {}) (anOp 1 0 (aRec 1 hb0) [])) (anOp 1 0 (aRec 1 hb0) []) {} (recBytes 384), 0, {},
     anOp 1 0 (aRec 1 hb0) [], theHdr hb0, recAt (aRec 1 hb0) 384, 1, rfl,
     reads_of (len := 384) ((aRec 1 hb0).take 4) (aRec 1 hb0) (by decide +kernel), by decide +kernel, by decide +kernel, rfl,
     fun m hk => absurd hk (by decide), by decide +kernel⟩,
   ⟨withOp (own15 {}) (anOp 1 1 (aRec 2 (0xFF#8 :: zeros 147)) []),
     afterRead (withOp (own15 {}) (anOp 1 1 (aRec 2 (0xFF#8 :: zeros 147)) [])) (anOp 1 1 (aRec 2 (0xFF#8 :: zeros 147)) []) {} (recBytes 148),
     0, {}, anOp 1 1 (aRec 2 (0xFF#8 :: zeros 147)) [], recAt (aRec 2 (0xFF#8 :: zeros 147)) 148, 2, rfl,
     reads_of (len := 148) ((aRec 2 (0xFF#8 :: zeros 147)).take 4) (aRec 2 (0xFF#8 :: zeros 147)) (by decide +kernel),
     by decide +kernel⟩,
   ⟨withOp (own15 {}) (anOp 1 1 (aRec 2 (4#8 :: zeros 147)) []),
     afterRead (withOp (own15 {}) (anOp 1 1 (aRec 2 (4#8 :: zeros 147)) [])) (anOp 1 1 (aRec 2 (4#8 :: zeros 147)) []) {} (recBytes 148),
     0, {}, anOp 1 1 (aRec 2 (4#8 :: zeros 147)) [], recAt (aRec 2 (4#8 :: zeros 147)) 148, 2, 0x05, rfl,
     reads_of (len := 148) ((aRec 2 (4#8 :: zeros 147)).take 4) (aRec 2 (4#8 :: zeros 147)) (by decide +kernel),
     by decide +kernel⟩,
   ⟨withOp up { anOp 4 2 [] (aRec 1 hb0) with key := [1#8] }, 0, { anOp 4 2 [] (aRec 1 hb0) with key := [1#8] }, theHdr hb0,
     rfl, rfl, by decide +kernel⟩,
   ⟨withOp up (anOp 4 2 [] (aRec 1 hb0)), 0, anOp 4 2 [] (aRec 1 hb0), theHdr hb0, rfl, rfl, by decide +kernel⟩,
   ⟨withOp up (anOp 4 2 [] (aRec 1 hbW)), 0, anOp 4 2 [] (aRec 1 hbW), theHdr hbW, rfl, rfl, by decide +kernel⟩,
   ⟨withOp up (anOp 2 2 [] (aRec 1 hbW)), 0, anOp 2 2 [] (aRec 1 hbW), theHdr hbW, rfl, rfl, by decide +kernel⟩,
   ⟨withOp { up with cfg := { up.cfg with window := [0] } } (anOp 2 2 [] (aRec 1 hbW)), 0, anOp 2 2 [] (aRec 1 hbW),
     theHdr hbW, rfl, rfl, by decide +kernel⟩,
   ⟨withOp (own15 {}) (anOp 1 3 (aRec 0x10 []) (aRec 1 hbF)),
     afterRead (withOp (own15 {}) (anOp 1 3 (aRec 0x10 []) (aRec 1 hbF))) (anOp 1 3 (aRec 0x10 []) (aRec 1 hbF)) {} (recBytes 0),
     0, {}, anOp 1 3 (aRec 0x10 []) (aRec 1 hbF), theHdr hbF, recAt (aRec 0x10 []) 0, 0x10,
     .next ((afterRead (withOp (own15 {}) (anOp 1 3 (aRec 0x10 []) (aRec 1 hbF))) (anOp 1 3 (aRec 0x10 []) (aRec 1 hbF)) {} (recBytes 0)).imgReject (anOp 1 3 (aRec 0x10 []) (aRec 1 hbF)) 2),
     rfl, rfl, reads_of (len := 0) ((aRec 0x10 []).take 4) (aRec 0x10 []) (by decide +kernel), by decide +kernel,
     by decide +kernel, .inl ⟨2, rfl, rfl⟩, by decide +kernel⟩,
   ⟨withOp (own15 {}) (anOp 1 3 (aRec 0x11 []) (aRec 1 hbF)),
     afterRead (withOp (own15 {}) (anOp 1 3 (aRec 0x11 []) (aRec 1 hbF))) (anOp 1 3 (aRec 0x11 []) (aRec 1 hbF)) {} (recBytes 0),
     0, {}, anOp 1 3 (aRec 0x11 []) (aRec 1 hbF), theHdr hbF, recAt (aRec 0x11 []) 0, 0x11,
     .next ((afterRead (withOp (own15 {}) (anOp 1 3 (aRec 0x11 []) (aRec 1 hbF))) (anOp 1 3 (aRec 0x11 []) (aRec 1 hbF)) {} (recBytes 0)).imgReject (anOp 1 3 (aRec 0x11 []) (aRec 1 hbF)) 2),
     rfl, rfl, reads_of (len := 0) ((aRec 0x11 []).take 4) (aRec 0x11 []) (by decide +kernel), by decide +kernel,
     by decide +kernel, .inl ⟨2, rfl, rfl⟩, by decide +kernel⟩,
   ⟨withOp (own15 {}) (anOp 1 3 (aRec 0x12 []) (aRec 1 hbF)),
     afterRead (withOp (own15 {}) (anOp 1 3 (aRec 0x12 []) (aRec 1 hbF))) (anOp 1 3 (aRec 0x12 []) (aRec 1 hbF)) {} (recBytes 0),
     0, {}, anOp 1 3 (aRec 0x12 []) (aRec 1 hbF), theHdr hbF, recAt (aRec 0x12 []) 0, 0x12,
     .next ((afterRead (withOp (own15 {}) (anOp 1 3 (aRec 0x12 []) (aRec 1 hbF))) (anOp 1 3 (aRec 0x12 []) (aRec 1 hbF)) {} (recBytes 0)).imgReject (anOp 1 3 (aRec 0x12 []) (aRec 1 hbF)) 2),
     rfl, rfl, reads_of (len := 0) ((aRec 0x12 []).take 4) (aRec 0x12 []) (by decide +kernel), by decide +kernel,
     by decide +kernel, .inl ⟨2, rfl, rfl⟩, by decide +kernel⟩,
   ⟨withOp (own15 {}) (anOp 1 3 (aRec 0x13 []) (aRec 1 hbF)),
     afterRead (withOp (own15 {}) (anOp 1 3 (aRec 0x13 []) (aRec 1 hbF))) (anOp 1 3 (aRec 0x13 []) (aRec 1 hbF)) {} (recBytes 0),
     0, {}, anOp 1 3 (aRec 0x13 []) (aRec 1 hbF), theHdr hbF, recAt (aRec 0x13 []) 0, 0x13,
     .next ((afterRead (withOp (own15 {}) (anOp 1 3 (aRec 0x13 []) (aRec 1 hbF))) (anOp 1 3 (aRec 0x13 []) (aRec 1 hbF)) {} (recBytes 0)).imgReject (anOp 1 3 (aRec 0x13 []) (aRec 1 hbF)) 2),
     rfl, rfl, reads_of (len := 0) ((aRec 0x13 []).take 4) (aRec 0x13 []) (by decide +kernel), by decide +kernel,
     by decide +kernel, .inl ⟨2, rfl, rfl⟩, by decide +kernel⟩,
   ⟨withOp (own15 {}) (anOp 1 4 (aRec 0x20 (leBytes 8 0x00017FFF2000006F ++ zeros 8)) (aRec 1 hbI)),
     afterRead (withOp (own15 {}) (anOp 1 4 (aRec 0x20 (leBytes 8 0x00017FFF2000006F ++ zeros 8)) (aRec 1 hbI))) (anOp 1 4 (aRec 0x20 (leBytes 8 0x00017FFF2000006F ++ zeros 8)) (aRec 1 hbI)) {} (recBytes 16),
     0, {}, anOp 1 4 (aRec 0x20 (leBytes 8 0x00017FFF2000006F ++ zeros 8)) (aRec 1 hbI), theHdr hbI,
     recAt (aRec 0x20 (leBytes 8 0x00017FFF2000006F ++ zeros 8)) 16, 0x20, ⟨2, false, 111, 32767, [0]⟩, rfl, rfl,
     reads_of (len := 16) ((aRec 0x20 (leBytes 8 0x00017FFF2000006F ++ zeros 8)).take 4) (aRec 0x20 (leBytes 8 0x00017FFF2000006F ++ zeros 8)) (by decide +kernel),
     by decide +kernel, by decide +kernel, by decide +kernel, rfl⟩,
   ⟨withOp (own15 {}) (anOp 1 5 (aRec 0x7E []) (aRec 1 hb0)),
     afterRead (withOp (own15 {}) (anOp 1 5 (aRec 0x7E []) (aRec 1 hb0))) (anOp 1 5 (aRec 0x7E []) (aRec 1 hb0)) {} (recBytes 0),
     0, {}, anOp 1 5 (aRec 0x7E []) (aRec 1 hb0), theHdr hb0, recAt (aRec 0x7E []) 0, 0x7E, rfl, rfl,
     reads_of (len := 0) ((aRec 0x7E []).take 4) (aRec 0x7E []) (by decide +kernel), by decide +kernel⟩⟩
theorem witness_RequestsReceived :
    (∃ (s : State) (e : ImmEnv) (code : Nat) (body : List Byte), s.frameTaken e = true ∧ immCrcOk e code body = false) ∧
    (∃ (s : State) (e : ImmEnv) (code : Nat) (body : List Byte), let h := e.port.val; let u := s.bump (MGT.RX_CNT h);
      s.frameTaken e = true ∧ immCrcOk e code body = true ∧ immFormed e 1 body = true ∧ e.auth = true ∧
      u.macEpoch e code body = none) ∧
    (∃ (s : State) (e : ImmEnv) (code : Nat) (body : List Byte) (y : _), let h := e.port.val; let u := s.bump (MGT.RX_CNT h);
      s.frameTaken e = true ∧ immCrcOk e code body = true ∧ immFormed e 1 body = true ∧ e.auth = true ∧
      (u.macEpoch e code body).isSome = true ∧ ((u.ackTo h e.ackno.toNat).host h).sess = some y ∧ y.expSeq = e.seq.toNat ∧
      y.slots.length < 256) ∧
    (∃ (s : State) (e : ImmEnv) (code : Nat) (body : List Byte) (y : _), let h := e.port.val; let u := s.bump (MGT.RX_CNT h);
      s.frameTaken e = true ∧ immCrcOk e code body = true ∧ immFormed e 1 body = true ∧ e.auth = true ∧
      (u.macEpoch e code body).isSome = true ∧ ((u.ackTo h e.ackno.toNat).host h).sess = some y ∧ y.expSeq = e.seq.toNat ∧
      256 ≤ y.slots.length) ∧
    (∃ (s : State) (e : ImmEnv) (code : Nat) (body : List Byte) (y : _), let h := e.port.val; let u := s.bump (MGT.RX_CNT h);
      s.frameTaken e = true ∧ immCrcOk e code body = true ∧ immFormed e 1 body = true ∧ e.auth = true ∧
      (u.macEpoch e code body).isSome = true ∧ ((u.ackTo h e.ackno.toNat).host h).sess = some y ∧
      65280 ≤ (e.seq.toNat + 65536 - y.expSeq) % 65536) ∧
    (∃ (s : State) (e : ImmEnv) (code : Nat) (body : List Byte) (y : _), let h := e.port.val; let u := s.bump (MGT.RX_CNT h);
      s.frameTaken e = true ∧ immCrcOk e code body = true ∧ immFormed e 1 body = true ∧ e.auth = true ∧
      (u.macEpoch e code body).isSome = true ∧ ((u.ackTo h e.ackno.toNat).host h).sess = some y ∧
      0 < (e.seq.toNat + 65536 - y.expSeq) % 65536 ∧ (e.seq.toNat + 65536 - y.expSeq) % 65536 < 65280) ∧
    (∃ (s : State) (bare : Bool) (e : ImmEnv) (code : Nat) (body : List Byte), let h := e.port.val;
      let u := s.bump (MGT.RX_CNT h); s.frameTaken e = true ∧ immCrcOk e code body = true ∧ immFormed e 1 body = true ∧
      e.auth = false ∧ e.seq = 0 ∧ e.ackno = 0 ∧ e.sid = 0 ∧ (e.mac.all (· == 0)) = true ∧ bare = true ∧ (u.host h).unauth < 16) ∧
    (∃ (s : State) (bare : Bool) (e : ImmEnv) (code : Nat) (body : List Byte), let h := e.port.val;
      let u := s.bump (MGT.RX_CNT h); s.frameTaken e = true ∧ immCrcOk e code body = true ∧ immFormed e 1 body = true ∧
      e.auth = false ∧ e.seq = 0 ∧ e.ackno = 0 ∧ e.sid = 0 ∧ (e.mac.all (· == 0)) = true ∧ bare = true ∧ 16 ≤ (u.host h).unauth) :=
  ⟨⟨ses1, { bareEnv 0 with mac := [] }, 0x10, [7#8], taken_ok (code := 0x10) (body := [7#8]) (by decide +kernel),
     by decide +kernel⟩,
   ⟨lnk up, envOf 0 0x10 [7#8], 0x10, [7#8], taken_ok (by decide +kernel), crc_ok _ _ _, formed_ok (by decide),
     by decide +kernel⟩,
   ⟨ses1, envOf 0 0x10 [7#8], 0x10, [7#8], aSess, taken_ok (by decide +kernel), crc_ok _ _ _, formed_ok (by decide),
     by decide +kernel, mac_ok (y := aSess) (by decide +kernel), by decide +kernel⟩,
   ⟨sesOf { aSess with slots := List.replicate 256 ⟨0, none⟩ }, envOf 0 0x10 [7#8], 0x10, [7#8],
     { aSess with slots := List.replicate 256 ⟨0, none⟩ }, taken_ok (by decide +kernel), crc_ok _ _ _, formed_ok (by decide),
     by decide +kernel, mac_ok (y := { aSess with slots := List.replicate 256 ⟨0, none⟩ }) (by decide +kernel),
     by decide +kernel⟩,
   ⟨sesOf { aSess with expSeq := 256 }, envOf 0 0x10 [7#8], 0x10, [7#8], { aSess with expSeq := 256 },
     taken_ok (by decide +kernel), crc_ok _ _ _, formed_ok (by decide), by decide +kernel,
     mac_ok (y := { aSess with expSeq := 256 }) (by decide +kernel), by decide +kernel⟩,
   ⟨sesOf { aSess with expSeq := 65535 }, envOf 0 0x10 [7#8], 0x10, [7#8], { aSess with expSeq := 65535 },
     taken_ok (by decide +kernel), crc_ok _ _ _, formed_ok (by decide), by decide +kernel,
     mac_ok (y := { aSess with expSeq := 65535 }) (by decide +kernel), by decide +kernel⟩,
   ⟨lnk up, true, bareOf 0 1 [0#8, 0#8], 1, [0#8, 0#8], bare_taken (by decide +kernel), bare_crc _ _ _,
     bare_formed (by decide), by decide +kernel⟩,
   ⟨(lnk up).setHost 0 { unauth := 16 }, true, bareOf 0 1 [0#8, 0#8], 1, [0#8, 0#8], bare_taken (by decide +kernel),
     bare_crc _ _ _, bare_formed (by decide), by decide +kernel⟩⟩
theorem witness_UnreceivedRequestsDoNothing :
    (∃ (s : State) (e : ImmEnv) (body : List Byte) (k : Byte) (bare : Bool) (code : Nat) (b : List Byte) (c : Instr),
      (bare, code, b, c) ∈ ([(true, 0x0001, body, .identify e body), (true, 0x0002, body, .sessionInit e body), (false, 0x0004, body, .sessionClose e body), (false, 0x0010, body, .regRd e body), (false, 0x0011, body, .regWr e body), (false, 0x0012, body, .memRd e body), (false, 0x0013, body, .memWr e body), (false, 0x0014, body, .stats e body), (false, 0x0020, body, .imgStage e body), (false, 0x0021, body, .imgCommit e body), (false, 0x0022, body, .imgStream e body), (false, 0x0023, body, .imgVerify e body), (false, 0x0024, body, .bootSet e body), (false, 0x0030, body, .planeOp e body), (false, 0x0031, body, .immVatReset e body), (false, 0x0040, body, .immReset e body), (false, 0x0041, body, .immPower e body), (false, 0x0042, 1 :: body, .keyWrite e body), (false, 0x0042, 2 :: body, .keyErase e body), (false, 0x0042, 3 :: body, .keyStatus e body), (false, 0x0042, 4 :: body, .advance e body), (false, 0x0050, body, .logRead e body), (false, 0x0043, 1 :: body, .celOpRead e body), (false, 0x0043, 2 :: body, .celOpProgram e body), (false, 0x0043, 3 :: body, .celOpErase e body), (false, 0x0043, 4 :: body, .setLevel e body), (false, 0x0043, 5 :: body, .bbtRead e body), (false, 0x0043, 6 :: body, .celOpStatus e body), (false, 0x0044, 1 :: body, .bistRunTest e body), (false, 0x0044, 2 :: body, .bistRunFuse e body), (false, 0x0044, 3 :: body, .bistRunStatus e body), (false, 0x0044, 4 :: body, .bistRunDefectRead e body), (false, 0x0060, body, .dbgOpen e body), (false, 0x0061, body, .dbgAuth e body), (false, 0x0062, body, .dbgClose e body), (false, 0x0063, body, .dbgRd e body), (false, 0x0064, body, .dbgWr e body), (false, 0x0065, [k, 0], .dbgRunHalt e k), (false, 0x0065, [k, 1], .dbgRunResume e k), (false, 0x0065, [k, 2], .dbgRunStep e k), (false, 0x0065, [k, 3], .dbgRunStatus e k), (false, 0x0066, body, .dbgCpu e body), (false, 0x0067, body, .dbgBkpt e body)] : List (Bool × Nat × List Byte × Instr)) ∧
      (code ∉ [0x10, 0x11, 0x12, 0x13, 0x63, 0x64] ∨ s.initHeld ID.starter = false) ∧ (s.receive bare e code b).2 = false) ∧
    (∃ (s : State) (e : ImmEnv) (body : List Byte) (k : Byte) (bare : Bool) (code : Nat) (b : List Byte) (c : Instr),
      (bare, code, b, c) ∈ ([(true, 0x0001, body, .identify e body), (true, 0x0002, body, .sessionInit e body), (false, 0x0004, body, .sessionClose e body), (false, 0x0010, body, .regRd e body), (false, 0x0011, body, .regWr e body), (false, 0x0012, body, .memRd e body), (false, 0x0013, body, .memWr e body), (false, 0x0014, body, .stats e body), (false, 0x0020, body, .imgStage e body), (false, 0x0021, body, .imgCommit e body), (false, 0x0022, body, .imgStream e body), (false, 0x0023, body, .imgVerify e body), (false, 0x0024, body, .bootSet e body), (false, 0x0030, body, .planeOp e body), (false, 0x0031, body, .immVatReset e body), (false, 0x0040, body, .immReset e body), (false, 0x0041, body, .immPower e body), (false, 0x0042, 1 :: body, .keyWrite e body), (false, 0x0042, 2 :: body, .keyErase e body), (false, 0x0042, 3 :: body, .keyStatus e body), (false, 0x0042, 4 :: body, .advance e body), (false, 0x0050, body, .logRead e body), (false, 0x0043, 1 :: body, .celOpRead e body), (false, 0x0043, 2 :: body, .celOpProgram e body), (false, 0x0043, 3 :: body, .celOpErase e body), (false, 0x0043, 4 :: body, .setLevel e body), (false, 0x0043, 5 :: body, .bbtRead e body), (false, 0x0043, 6 :: body, .celOpStatus e body), (false, 0x0044, 1 :: body, .bistRunTest e body), (false, 0x0044, 2 :: body, .bistRunFuse e body), (false, 0x0044, 3 :: body, .bistRunStatus e body), (false, 0x0044, 4 :: body, .bistRunDefectRead e body), (false, 0x0060, body, .dbgOpen e body), (false, 0x0061, body, .dbgAuth e body), (false, 0x0062, body, .dbgClose e body), (false, 0x0063, body, .dbgRd e body), (false, 0x0064, body, .dbgWr e body), (false, 0x0065, [k, 0], .dbgRunHalt e k), (false, 0x0065, [k, 1], .dbgRunResume e k), (false, 0x0065, [k, 2], .dbgRunStep e k), (false, 0x0065, [k, 3], .dbgRunStatus e k), (false, 0x0066, body, .dbgCpu e body), (false, 0x0067, body, .dbgBkpt e body)] : List (Bool × Nat × List Byte × Instr)) ∧
      code ∈ [0x10, 0x11, 0x12, 0x13, 0x63, 0x64] ∧ s.initHeld ID.starter = true) :=
  ⟨⟨State.reset, bareEnv 0, [], 0#8, false, 0x10, [], .regRd (bareEnv 0) [], by simp, by decide +kernel, by decide +kernel⟩,
   ⟨((State.reset.wr (NOC.INIT_CFG.BIND 980) 1).wr (NOC.REG_CFG.UNLIM 0) 0).wr (NOC.REG_CFG.RATE 0) 0, bareEnv 0, [], 0#8,
     false, 0x10, [], .regRd (bareEnv 0) [], by simp, by simp, by decide +kernel⟩⟩
theorem witness_RequestsRun :
    (∃ (s : State) (t : State) (e : ImmEnv) (body : List Byte), s.receive true e 0x0001 body = (t, true) ∧ body.length = 2) ∧
    (∃ (s : State) (t : State) (e : ImmEnv) (body : List Byte), s.receive true e 0x0001 body = (t, true) ∧ body.length ≠ 2) ∧
    (∃ (s : State) (t : State) (e : ImmEnv) (body : List Byte), let h := e.port.val;
      s.receive true e 0x0002 body = (t, true) ∧ body.length = 81 ∧ t.secretOf (4 + h) = none) ∧
    (∃ (s : State) (t : State) (e : ImmEnv) (body : List Byte), s.receive true e 0x0002 body = (t, true) ∧ body.length ≠ 81) ∧
    (∃ (s : State) (t : State) (e : ImmEnv) (body : List Byte) (x : _), let h := e.port.val; (s.host h).hs = some x ∧
      e.sid.toNat = x.sid ∧ e.seq = 0 ∧ immMacOk e 0x0003 body (streamKey x.k0 1) 0 = true ∧ s.frameTaken e = true ∧
      immCrcOk e 0x0003 body = true ∧ immFormed e 1 body = true ∧ e.auth = true ∧ body = (hmac x.k0 (0x48#8 :: x.t)).take 16) ∧
    (∃ (s : State) (t : State) (e : ImmEnv) (body : List Byte) (x : _), let h := e.port.val; (s.host h).hs = some x ∧
      e.sid.toNat = x.sid ∧ e.seq = 0 ∧ immMacOk e 0x0003 body (streamKey x.k0 1) 0 = true ∧ s.frameTaken e = true ∧
      immCrcOk e 0x0003 body = true ∧ immFormed e 1 body = true ∧ e.auth = true ∧ body ≠ (hmac x.k0 (0x48#8 :: x.t)).take 16) ∧
    (∃ (s : State) (t : State) (e : ImmEnv) (body : List Byte), let h := e.port.val; (s.host h).hs = none ∧
      s.receive false e 0x0003 body = (t, true)) ∧
    (∃ (s : State) (t : State) (e : ImmEnv) (body : List Byte), s.receive false e 0x0004 body = (t, true) ∧ body = []) ∧
    (∃ (s : State) (t : State) (e : ImmEnv) (body : List Byte), s.receive false e 0x0004 body = (t, true) ∧ body ≠ []) ∧
    (∃ (s : State) (t : State) (e : ImmEnv) (body : List Byte), let h := e.port.val; let v := field body 0 1;
      s.initHeld ID.starter = false ∧ s.receive false e 0x0010 body = (t, true) ∧ regForm body 0 = none ∧ t.ownsVat h v = true) ∧
    (∃ (s : State) (t : State) (e : ImmEnv) (body : List Byte), let h := e.port.val; let v := field body 0 1;
      s.initHeld ID.starter = false ∧ s.receive false e 0x0010 body = (t, true) ∧ regForm body 0 = none ∧ t.ownsVat h v = false) ∧
    (∃ (s : State) (t : State) (e : ImmEnv) (body : List Byte) (i : _), s.initHeld ID.starter = false ∧
      s.receive false e 0x0010 body = (t, true) ∧ regForm body 0 = some i) ∧
    (∃ (s : State) (t : State) (e : ImmEnv) (body : List Byte), let h := e.port.val; let v := field body 0 1;
      s.initHeld ID.starter = false ∧ s.receive false e 0x0011 body = (t, true) ∧ regForm body 4 = none ∧ t.ownsVat h v = true) ∧
    (∃ (s : State) (t : State) (e : ImmEnv) (body : List Byte), let h := e.port.val; let v := field body 0 1;
      s.initHeld ID.starter = false ∧ s.receive false e 0x0011 body = (t, true) ∧ regForm body 4 = none ∧ t.ownsVat h v = false) ∧
    (∃ (s : State) (t : State) (e : ImmEnv) (body : List Byte) (i : _), s.initHeld ID.starter = false ∧
      s.receive false e 0x0011 body = (t, true) ∧ regForm body 4 = some i) ∧
    (∃ (s : State) (t : State) (e : ImmEnv) (body : List Byte), let h := e.port.val; let v := field body 0 1;
      let n := field body 2 2; let l := linePieces (n / 64 + 2) (field body 4 8) n; s.initHeld ID.starter = false ∧
      s.receive false e 0x0012 body = (t, true) ∧ memForm body false = none ∧ t.ownsVat h v = true ∧ t.celBarsImm h l = false) ∧
    (∃ (s : State) (t : State) (e : ImmEnv) (body : List Byte), let h := e.port.val; let v := field body 0 1;
      let n := field body 2 2; let l := linePieces (n / 64 + 2) (field body 4 8) n; s.initHeld ID.starter = false ∧
      s.receive false e 0x0012 body = (t, true) ∧ memForm body false = none ∧ t.ownsVat h v = true ∧ t.celBarsImm h l = true) ∧
    (∃ (s : State) (t : State) (e : ImmEnv) (body : List Byte), let h := e.port.val; let v := field body 0 1;
      s.initHeld ID.starter = false ∧ s.receive false e 0x0012 body = (t, true) ∧ memForm body false = none ∧
      t.ownsVat h v = false) ∧
    (∃ (s : State) (t : State) (e : ImmEnv) (body : List Byte) (i : _), s.initHeld ID.starter = false ∧
      s.receive false e 0x0012 body = (t, true) ∧ memForm body false = some i) ∧
    (∃ (s : State) (t : State) (e : ImmEnv) (body : List Byte), let h := e.port.val; let v := field body 0 1;
      s.initHeld ID.starter = false ∧ s.receive false e 0x0013 body = (t, true) ∧ memForm body true = none ∧
      t.ownsVat h v = true) ∧
    (∃ (s : State) (t : State) (e : ImmEnv) (body : List Byte), let h := e.port.val; let v := field body 0 1;
      s.initHeld ID.starter = false ∧ s.receive false e 0x0013 body = (t, true) ∧ memForm body true = none ∧
      t.ownsVat h v = false) ∧
    (∃ (s : State) (t : State) (e : ImmEnv) (body : List Byte) (i : _), s.initHeld ID.starter = false ∧
      s.receive false e 0x0013 body = (t, true) ∧ memForm body true = some i) ∧
    (∃ (s : State) (t : State) (e : ImmEnv) (body : List Byte) (l : _), let h := e.port.val; let v := field body 0 1;
      let n := field body 2 2; s.receive false e 0x0014 body = (t, true) ∧ body.length = 4 ∧ v < 16 ∧ t.ownsVat h v = true ∧
      t.statsOf v (field body 1 1) n = some l) ∧
    (∃ (s : State) (t : State) (e : ImmEnv) (body : List Byte), let h := e.port.val; let v := field body 0 1;
      let n := field body 2 2; s.receive false e 0x0014 body = (t, true) ∧ body.length = 4 ∧ v < 16 ∧ t.ownsVat h v = true ∧
      t.statsOf v (field body 1 1) n = none) ∧
    (∃ (s : State) (t : State) (e : ImmEnv) (body : List Byte), let h := e.port.val; let v := field body 0 1;
      s.receive false e 0x0014 body = (t, true) ∧ body.length = 4 ∧ v < 16 ∧ t.ownsVat h v = false) ∧
    (∃ (s : State) (t : State) (e : ImmEnv) (body : List Byte), let h := e.port.val; let v := field body 0 1;
      let n := field body 2 2; let u := if v = 1 then t.setWins (maskVats n) (field body 4 2) else t;
      let r := u.orderOp v (maskVats n) 0; s.receive false e 0x0030 body = (t, true) ∧ body.length = 16 ∧
      v ∈ [1, 2, 3, 5, 8, 9] ∧ field body 4 2 ≤ 60000 ∧ ((∀ x ∈ maskVats n, t.ownerOf x = h)) ∧ (r.2.1 = 0 ∨ r.2.1 = 0x0A)) ∧
    (∃ (s : State) (t : State) (e : ImmEnv) (body : List Byte), let h := e.port.val; let v := field body 0 1;
      let n := field body 2 2; let u := if v = 1 then t.setWins (maskVats n) (field body 4 2) else t;
      let r := u.orderOp v (maskVats n) 0; s.receive false e 0x0030 body = (t, true) ∧ body.length = 16 ∧
      v ∈ [1, 2, 3, 5, 8, 9] ∧ field body 4 2 ≤ 60000 ∧ ((∀ x ∈ maskVats n, t.ownerOf x = h)) ∧ r.2.1 ≠ 0 ∧ r.2.1 ≠ 0x0A) ∧
    (∃ (s : State) (t : State) (e : ImmEnv) (body : List Byte), let h := e.port.val; let v := field body 0 1;
      let n := field body 2 2;
      let u := (t.setArm (maskVats n) (field body 1 1) (field body 6 6) (field body 12 4)).setWins (maskVats n) (field body 4 2);
      let r := u.orderOp 4 (maskVats n) 0; s.receive false e 0x0030 body = (t, true) ∧ body.length = 16 ∧ v = 4 ∧
      field body 1 1 < 8 ∧ field body 4 2 ≤ 60000 ∧ field body 12 4 < 2 ^ 30 ∧ ((∀ x ∈ maskVats n, t.ownerOf x = h)) ∧
      (r.2.1 = 0 ∨ r.2.1 = 0x0A)) ∧
    (∃ (s : State) (t : State) (e : ImmEnv) (body : List Byte), let h := e.port.val; let v := field body 0 1;
      let n := field body 2 2;
      let u := (t.setArm (maskVats n) (field body 1 1) (field body 6 6) (field body 12 4)).setWins (maskVats n) (field body 4 2);
      let r := u.orderOp 4 (maskVats n) 0; s.receive false e 0x0030 body = (t, true) ∧ body.length = 16 ∧ v = 4 ∧
      field body 1 1 < 8 ∧ field body 4 2 ≤ 60000 ∧ field body 12 4 < 2 ^ 30 ∧ ((∀ x ∈ maskVats n, t.ownerOf x = h)) ∧
      r.2.1 ≠ 0 ∧ r.2.1 ≠ 0x0A) ∧
    (∃ (s : State) (t : State) (e : ImmEnv) (body : List Byte), let h := e.port.val; let v := field body 0 1;
      s.receive false e 0x0031 body = (t, true) ∧ body.length = 8 ∧ v < 16 ∧ field body 1 1 < 2 ∧ 1 ≤ field body 4 4 ∧
      field body 4 4 ≤ 1000000 ∧ t.ownsVat h v = true ∧ v ≠ 0) ∧
    (∃ (s : State) (t : State) (e : ImmEnv) (body : List Byte), let h := e.port.val; let v := field body 0 1;
      s.receive false e 0x0031 body = (t, true) ∧ body.length = 8 ∧ v < 16 ∧ field body 1 1 < 2 ∧ 1 ≤ field body 4 4 ∧
      field body 4 4 ≤ 1000000 ∧ t.ownsVat h v = true ∧ v = 0) ∧
    (∃ (s : State) (t : State) (e : ImmEnv) (body : List Byte), let h := e.port.val; let v := field body 0 1;
      s.receive false e 0x0031 body = (t, true) ∧ body.length = 8 ∧ v < 16 ∧ field body 1 1 < 2 ∧ 1 ≤ field body 4 4 ∧
      field body 4 4 ≤ 1000000 ∧ t.ownsVat h v = false) ∧
    (∃ (s : State) (t : State) (e : ImmEnv) (body : List Byte), let h := e.port.val; let v := field body 0 1;
      s.receive false e 0x0040 body = (t, true) ∧ body.length = 1 ∧ (v = 1 ∨ v = 2) ∧ h = t.devOwner ∧ t.mgt.lateAct = none) ∧
    (∃ (s : State) (t : State) (e : ImmEnv) (body : List Byte), let h := e.port.val; let v := field body 0 1;
      s.receive false e 0x0040 body = (t, true) ∧ body.length = 1 ∧ (v = 1 ∨ v = 2) ∧ h = t.devOwner ∧
      t.mgt.lateAct.isSome = true) ∧
    (∃ (s : State) (t : State) (e : ImmEnv) (body : List Byte), let h := e.port.val; let v := field body 0 1;
      s.receive false e 0x0040 body = (t, true) ∧ body.length = 1 ∧ (v = 1 ∨ v = 2) ∧ h ≠ t.devOwner) ∧
    (∃ (s : State) (t : State) (e : ImmEnv) (body : List Byte), let h := e.port.val; let v := field body 0 1;
      s.receive false e 0x0041 body = (t, true) ∧ body.length = 8 ∧ 1 ≤ v ∧ v ≤ 3 ∧ h = t.devOwner ∧
      ((t.mode = M.run ∨ t.mode = M.fallback)) ∧ t.mgt.lateAct = none ∧ t.powerRefused v = false) ∧
    (∃ (s : State) (t : State) (e : ImmEnv) (body : List Byte), let h := e.port.val; let v := field body 0 1;
      s.receive false e 0x0041 body = (t, true) ∧ body.length = 8 ∧ 1 ≤ v ∧ v ≤ 3 ∧ h = t.devOwner ∧ t.mode ≠ M.run ∧
      t.mode ≠ M.fallback) ∧
    (∃ (s : State) (t : State) (e : ImmEnv) (body : List Byte), let h := e.port.val; let v := field body 0 1;
      s.receive false e 0x0041 body = (t, true) ∧ body.length = 8 ∧ 1 ≤ v ∧ v ≤ 3 ∧ h ≠ t.devOwner) ∧
    (∃ (s : State) (t : State) (e : ImmEnv) (body : List Byte), let h := e.port.val; let v := field body 0 1;
      let n := field body 2 2; s.receive false e 0x0050 body = (t, true) ∧ body.length = 8 ∧ v < 2 ∧ 1 ≤ n ∧ n ≤ 16 ∧
      ((v = 1 → h = t.devOwner))) ∧
    (∃ (s : State) (t : State) (e : ImmEnv) (body : List Byte), let h := e.port.val; let v := field body 0 1;
      let n := field body 2 2; s.receive false e 0x0050 body = (t, true) ∧ body.length = 8 ∧ v < 2 ∧ 1 ≤ n ∧ n ≤ 16 ∧ v = 1 ∧
      h ≠ t.devOwner) :=
  ⟨⟨ses1, got (ses1) 0, envOf 0 0x0001 (([0#8, 0#8])), [0#8, 0#8], received (by decide +kernel), by decide +kernel⟩,
   ⟨ses1, got (ses1) 0, envOf 0 0x0001 (([1#8])), [1#8], received (by decide +kernel), by decide +kernel⟩,
   ⟨{ ses1 with lcs := { ses1.lcs with code := 1 } }, got ({ ses1 with lcs := { ses1.lcs with code := 1 } }) 0,
     envOf 0 0x0002 ((List.replicate 81 0#8)), List.replicate 81 0#8, received (by decide +kernel), by decide +kernel⟩,
   ⟨ses1, got (ses1) 0, envOf 0 0x0002 (([1#8])), [1#8], received (by decide +kernel), by decide +kernel⟩,
   ⟨shaken, up, envKey (streamKey shook.k0 1) 0 0x0003 (proofOf shook), proofOf shook, shook, by decide +kernel,
     by decide +kernel, by decide +kernel, key_mac _ _ _ _, key_taken (by decide +kernel), key_crc _ _ _ _,
     key_formed (proof_length _), by decide +kernel, proof_of shook⟩,
   ⟨shaken, up, envKey (streamKey shook.k0 1) 0 0x0003 [1#8], [1#8], shook, by decide +kernel, by decide +kernel,
     by decide +kernel, key_mac _ _ _ _, key_taken (by decide +kernel), key_crc _ _ _ _, key_formed (by decide),
     by decide +kernel, not_proof (by decide)⟩,
   ⟨ses1, got (ses1) 0, envOf 0 0x0003 (([0#8, 0#8])), [0#8, 0#8], by decide +kernel, received (by decide +kernel)⟩,
   ⟨ses1, got (ses1) 0, envOf 0 0x0004 (([])), [], received (by decide +kernel), by decide +kernel⟩,
   ⟨ses1, got (ses1) 0, envOf 0 0x0004 (([0#8, 0#8])), [0#8, 0#8], received (by decide +kernel), by decide +kernel⟩,
   ⟨ses1, got (ses1) 0, envOf 0 0x0010 (([0#8, 0#8, 1#8, 0#8] ++ List.replicate 4 0#8)),
     [0#8, 0#8, 1#8, 0#8] ++ List.replicate 4 0#8, by decide +kernel, received (by decide +kernel), by decide +kernel⟩,
   ⟨ses1, got (ses1) 1, envOf 1 0x0010 (([0#8, 0#8, 1#8, 0#8] ++ List.replicate 4 0#8)),
     [0#8, 0#8, 1#8, 0#8] ++ List.replicate 4 0#8, by decide +kernel, received (by decide +kernel), by decide +kernel⟩,
   ⟨ses1, got (ses1) 0, envOf 0 0x0010 (([0#8, 0#8])), [0#8, 0#8], 0, by decide +kernel, received (by decide +kernel),
     by decide +kernel⟩,
   ⟨ses1, got (ses1) 0, envOf 0 0x0011 (([0#8, 0#8, 1#8, 0#8] ++ List.replicate 0x404 0#8)),
     [0#8, 0#8, 1#8, 0#8] ++ List.replicate 0x404 0#8, by decide +kernel, received (by decide +kernel), by decide +kernel⟩,
   ⟨ses1, got (ses1) 1, envOf 1 0x0011 (([0#8, 0#8, 1#8, 0#8] ++ List.replicate 0x404 0#8)),
     [0#8, 0#8, 1#8, 0#8] ++ List.replicate 0x404 0#8, by decide +kernel, received (by decide +kernel), by decide +kernel⟩,
   ⟨ses1, got (ses1) 0, envOf 0 0x0011 (([0#8, 0#8])), [0#8, 0#8], 0, by decide +kernel, received (by decide +kernel),
     by decide +kernel⟩,
   ⟨ses1, got (ses1) 0, envOf 0 0x0012 (([0#8, 0#8, 4#8, 0#8] ++ List.replicate 8 0#8)),
     [0#8, 0#8, 4#8, 0#8] ++ List.replicate 8 0#8, by decide +kernel, received (by decide +kernel), by decide +kernel⟩,
   ⟨{ ses1 with cel := { ses1.cel with level := 2 } }, got ({ ses1 with cel := { ses1.cel with level := 2 } }) 0,
     envOf 0 0x0012 (([0#8, 0#8, 0#8, 1#8, 0#8, 0#8, 3#8, 0xF0#8] ++ List.replicate 4 0#8)),
     [0#8, 0#8, 0#8, 1#8, 0#8, 0#8, 3#8, 0xF0#8] ++ List.replicate 4 0#8, by decide +kernel, received (by decide +kernel),
     by decide +kernel⟩,
   ⟨ses1, got (ses1) 1, envOf 1 0x0012 (([0#8, 0#8, 4#8, 0#8] ++ List.replicate 8 0#8)),
     [0#8, 0#8, 4#8, 0#8] ++ List.replicate 8 0#8, by decide +kernel, received (by decide +kernel), by decide +kernel⟩,
   ⟨ses1, got (ses1) 0, envOf 0 0x0012 (([0#8, 0#8])), [0#8, 0#8], 0, by decide +kernel, received (by decide +kernel),
     by decide +kernel⟩,
   ⟨ses1, got (ses1) 0, envOf 0 0x0013 (([0#8, 0#8, 4#8, 0#8] ++ List.replicate 0x408 0#8)),
     [0#8, 0#8, 4#8, 0#8] ++ List.replicate 0x408 0#8, by decide +kernel, received (by decide +kernel), by decide +kernel⟩,
   ⟨ses1, got (ses1) 1, envOf 1 0x0013 (([0#8, 0#8, 4#8, 0#8] ++ List.replicate 0x408 0#8)),
     [0#8, 0#8, 4#8, 0#8] ++ List.replicate 0x408 0#8, by decide +kernel, received (by decide +kernel), by decide +kernel⟩,
   ⟨ses1, got (ses1) 0, envOf 0 0x0013 (([0#8, 0#8])), [0#8, 0#8], 0, by decide +kernel, received (by decide +kernel),
     by decide +kernel⟩,
   ⟨ses1, got (ses1) 0, envOf 0 0x0014 (([0#8, 4#8, 0#8, 0#8])), [0#8, 4#8, 0#8, 0#8],
     (List.range 8).map fun n => DDR.LN_CNT n 0, received (by decide +kernel), by decide +kernel⟩,
   ⟨ses1, got (ses1) 0, envOf 0 0x0014 (([0#8, 5#8, 0#8, 0#8])), [0#8, 5#8, 0#8, 0#8], received (by decide +kernel),
     by decide +kernel⟩,
   ⟨ses1, got (ses1) 1, envOf 1 0x0014 (([0#8, 4#8, 0#8, 0#8])), [0#8, 4#8, 0#8, 0#8], received (by decide +kernel),
     by decide +kernel⟩,
   ⟨{ ses15 {} with cfg := { (ses15 {}).cfg with window := [15] } },
     got ({ ses15 {} with cfg := { (ses15 {}).cfg with window := [15] } }) 0,
     envOf 0 0x0030 (([3#8, 0#8, 0x80#8, 0#8] ++ List.replicate 12 0#8)), [3#8, 0#8, 0x80#8, 0#8] ++ List.replicate 12 0#8,
     received (by decide +kernel), by decide +kernel⟩,
   ⟨ses15 {}, got (ses15 {}) 0, envOf 0 0x0030 (([3#8, 0#8, 0x80#8, 0#8] ++ List.replicate 12 0#8)),
     [3#8, 0#8, 0x80#8, 0#8] ++ List.replicate 12 0#8, received (by decide +kernel), by decide +kernel⟩,
   ⟨(ses15 { validB := true }).setTb 7 { started := true }, got ((ses15 { validB := true }).setTb 7 { started := true }) 0,
     envOf 0 0x0030 (([4#8, 7#8, 0x80#8, 0#8, 0xEA#8, 0x60#8, 0#8, 0#8, 0#8, 0#8, 0#8, 1#8, 0x3B#8, 0x9A#8, 0xC9#8, 0xFF#8])),
     [4#8, 7#8, 0x80#8, 0#8, 0xEA#8, 0x60#8, 0#8, 0#8, 0#8, 0#8, 0#8, 1#8, 0x3B#8, 0x9A#8, 0xC9#8, 0xFF#8],
     received (by decide +kernel), by decide +kernel⟩,
   ⟨ses15 {}, got (ses15 {}) 0,
     envOf 0 0x0030 (([4#8, 7#8, 0x80#8, 0#8, 0xEA#8, 0x60#8, 0#8, 0#8, 0#8, 0#8, 0#8, 1#8, 0x3B#8, 0x9A#8, 0xC9#8, 0xFF#8])),
     [4#8, 7#8, 0x80#8, 0#8, 0xEA#8, 0x60#8, 0#8, 0#8, 0#8, 0#8, 0#8, 1#8, 0x3B#8, 0x9A#8, 0xC9#8, 0xFF#8],
     received (by decide +kernel), by decide +kernel⟩,
   ⟨ses15 {}, got (ses15 {}) 0, envOf 0 0x0031 (([15#8, 1#8, 0#8, 0#8, 0#8, 0x0F#8, 0x42#8, 0x40#8])),
     [15#8, 1#8, 0#8, 0#8, 0#8, 0x0F#8, 0x42#8, 0x40#8], received (by decide +kernel), by decide +kernel⟩,
   ⟨ses1, got (ses1) 0, envOf 0 0x0031 (([0#8, 0#8, 0#8, 0#8, 0#8, 0#8, 0#8, 1#8])),
     [0#8, 0#8, 0#8, 0#8, 0#8, 0#8, 0#8, 1#8], received (by decide +kernel), by decide +kernel⟩,
   ⟨ses1, got (ses1) 1, envOf 1 0x0031 (([0#8, 0#8, 0#8, 0#8, 0#8, 0#8, 0#8, 1#8])),
     [0#8, 0#8, 0#8, 0#8, 0#8, 0#8, 0#8, 1#8], received (by decide +kernel), by decide +kernel⟩,
   ⟨ses1, got (ses1) 0, envOf 0 0x0040 (([1#8])), [1#8], received (by decide +kernel), by decide +kernel⟩,
   ⟨{ ses1 with mgt := { ses1.mgt with lateAct := some (.reset 1 0) } },
     got ({ ses1 with mgt := { ses1.mgt with lateAct := some (.reset 1 0) } }) 0, envOf 0 0x0040 (([1#8])), [1#8],
     received (by decide +kernel), by decide +kernel⟩,
   ⟨ses1, got (ses1) 1, envOf 1 0x0040 (([1#8])), [1#8], received (by decide +kernel), by decide +kernel⟩,
   ⟨ses1.wrb CLK.ROOT_STAT.XO32_OK true, got (ses1.wrb CLK.ROOT_STAT.XO32_OK true) 0,
     envOf 0 0x0041 (([3#8, 0#8, 0#8, 0#8, 0#8, 0#8, 0#8, 0#8])), [3#8, 0#8, 0#8, 0#8, 0#8, 0#8, 0#8, 0#8],
     received (by decide +kernel), by decide +kernel⟩,
   ⟨ses1.wr PWR.MODE_STAT.MODE 2, got (ses1.wr PWR.MODE_STAT.MODE 2) 0,
     envOf 0 0x0041 (([3#8, 0#8, 0#8, 0#8, 0#8, 0#8, 0#8, 0#8])), [3#8, 0#8, 0#8, 0#8, 0#8, 0#8, 0#8, 0#8],
     received (by decide +kernel), by decide +kernel⟩,
   ⟨ses1, got (ses1) 1, envOf 1 0x0041 (([3#8, 0#8, 0#8, 0#8, 0#8, 0#8, 0#8, 0#8])),
     [3#8, 0#8, 0#8, 0#8, 0#8, 0#8, 0#8, 0#8], received (by decide +kernel), by decide +kernel⟩,
   ⟨ses1, got (ses1) 0, envOf 0 0x0050 (([1#8, 0#8, 0#8, 16#8, 0#8, 0#8, 0#8, 0#8])),
     [1#8, 0#8, 0#8, 16#8, 0#8, 0#8, 0#8, 0#8], received (by decide +kernel), by decide +kernel⟩,
   ⟨ses1, got (ses1) 1, envOf 1 0x0050 (([1#8, 0#8, 0#8, 16#8, 0#8, 0#8, 0#8, 0#8])),
     [1#8, 0#8, 0#8, 16#8, 0#8, 0#8, 0#8, 0#8], received (by decide +kernel), by decide +kernel⟩⟩
theorem witness_ManagementLinkRuns :
    (∃ (s : State) (e : ImmEnv), let u := s.bump (MGT.RX_CNT e.port); s.frameTaken e = true ∧ immCrcOk e 0 [] = true ∧
      immFormed e 4 [] = true ∧ e.auth = true ∧ e.seq = 0 ∧ (u.macEpoch e 0 []).isSome = true) ∧
    (∃ (s : State) (e : ImmEnv), let u := s.bump (MGT.RX_CNT e.port); s.frameTaken e = true ∧ immCrcOk e 0 [] = true ∧
      immFormed e 4 [] = true ∧ e.auth = true ∧ e.seq = 0 ∧ u.macEpoch e 0 [] = none) ∧
    (∃ (s : State) (e : ImmEnv), s.frameTaken e = true ∧ immCrcOk e 0 [] = false) ∧
    (∃ (s : State) (e : ImmEnv), s.frameTaken e = false) ∧
    (∃ (s : State) (h : Fin 4) (y : _), (s.host h).sess = some y ∧ y.unacked ≠ [] ∧ 15 ≤ y.expiries) ∧
    (∃ (s : State) (h : Fin 4) (y : _), (s.host h).sess = some y ∧ y.unacked ≠ [] ∧ y.expiries < 15) ∧
    (∃ (s : State) (h : Fin 4) (y : _), (s.host h).sess = some y ∧ y.ackDue = true) ∧
    (∃ (s : State) (h : Fin 4) (r : _) (rs : _), (s.host h).refusing = r :: rs ∧ r.auth = false) ∧
    (∃ (s : State) (h : Fin 4) (r : _) (rs : _) (y : _), (s.host h).refusing = r :: rs ∧ r.auth = true ∧
      (s.host h).sess = some y) ∧
    (∃ (s : State) (h : Fin 4) (y : _) (ev : _), (s.host h).sess = some y ∧ (s.host h).nextEvent = some ev ∧ y.events < 256) ∧
    (∃ (s : State) (h : Fin 4) (y : _), (s.host h).sess = some y ∧ 256 ≤ y.events) ∧
    (∃ (s : State) (h : Fin 4) (y : _) (l : _), (s.host h).sess = some y ∧ (s.host h).loss = some l ∧ y.events < 256) ∧
    (∃ (s : State) (h : Fin 4), s.pwr.fw = true ∧ s.bit (MGT.MP_CTL.EN h) = true ∧ s.rd (MGT.MP_CTL.RATE h) = 2 ∧
      s.bit (FEN.PORT_STAT.LINK (96 + h.val)) = false) ∧
    (∃ (s : State), s.powered = true) ∧
    (∃ (s : State), s.powered = true) ∧
    (∃ (s : State), s.powered = false) :=
  ⟨⟨ses1, ackEnv 0, ack_taken (by decide +kernel), ack_crc _, by decide +kernel, by decide +kernel, by decide +kernel,
     ack_mac (y := aSess) (by decide +kernel)⟩,
   ⟨lnk up, ackEnv 0, ack_taken (by decide +kernel), ack_crc _, by decide +kernel⟩,
   ⟨ses1, { bareAck 0 with mac := [] }, ack_taken (p := 0) (by decide +kernel), by decide +kernel⟩,
   ⟨up, ackEnv 0, by decide +kernel⟩,
   ⟨sesOf { aSess with unacked := [⟨0, 0, 2, 0, 0, 0, [], 0, 0, 0⟩], expiries := 15 }, 0,
     { aSess with unacked := [⟨0, 0, 2, 0, 0, 0, [], 0, 0, 0⟩], expiries := 15 }, by decide +kernel⟩,
   ⟨sesOf { aSess with unacked := [⟨0, 0, 2, 0, 0, 0, [], 0, 0, 0⟩], expiries := 14 }, 0,
     { aSess with unacked := [⟨0, 0, 2, 0, 0, 0, [], 0, 0, 0⟩], expiries := 14 }, by decide +kernel⟩,
   ⟨sesOf { aSess with ackDue := true }, 0, { aSess with ackDue := true }, by decide +kernel⟩,
   ⟨hostIs { refusing := [⟨0x10, 0, 0, false, 7, 0, 0xFF, 0⟩] }, 0, ⟨0x10, 0, 0, false, 7, 0, 0xFF, 0⟩, [],
     by decide +kernel⟩,
   ⟨hostIs { sess := some aSess, refusing := [⟨0x10, 0, 1, true, 7, 0, 0xFF, 0⟩] }, 0, ⟨0x10, 0, 1, true, 7, 0, 0xFF, 0⟩,
     [], aSess, by decide +kernel⟩,
   ⟨hostIs { sess := some aSess, queue := [anEv] }, 0, aSess, anEv, by decide +kernel⟩,
   ⟨hostIs { sess := some manyEvs }, 0, manyEvs, by decide +kernel⟩,
   ⟨hostIs { sess := some aSess, loss := some { counts := [1, 0, 0, 0] } }, 0, aSess, { counts := [1, 0, 0, 0] },
     by decide +kernel⟩,
   ⟨((({ up with pwr := { up.pwr with fw := true } } : State)).wr (MGT.MP_CTL.EN 3) 1).wr (MGT.MP_CTL.RATE 3) 2, 3,
     by decide +kernel⟩,
   ⟨up, by decide +kernel⟩,
   ⟨up, by decide +kernel⟩,
   ⟨up.wr (PWR.MODE_STAT.MODE) 0, by decide +kernel⟩⟩
theorem witness_DebugConnectionRuns :
    (∃ (s : State) (t : State) (e : ImmEnv) (body : List Byte),
      let got : Nat → Prop := fun code => s.receive false e code body = (t, true); got 0x60 ∧
      (body.length ≠ 1 ∨ 8 ≤ field body 0 1)) ∧
    (∃ (s : State) (t : State) (e : ImmEnv) (body : List Byte),
      let got : Nat → Prop := fun code => s.receive false e code body = (t, true); got 0x60 ∧ body.length = 1 ∧
      field body 0 1 < 8 ∧ (t.dbg.conn.isSome = true ∨ t.dbg.chal.isSome = true ∨ t.bit DBG.CTL.LOCK = true)) ∧
    (∃ (s : State) (t : State) (e : ImmEnv) (body : List Byte),
      let got : Nat → Prop := fun code => s.receive false e code body = (t, true); got 0x60 ∧ body.length = 1 ∧
      field body 0 1 < 8 ∧ t.dbg.conn = none ∧ t.dbg.chal = none ∧ t.bit DBG.CTL.LOCK = false) ∧
    (∃ (s : State) (t : State) (e : ImmEnv) (body : List Byte),
      let got : Nat → Prop := fun code => s.receive false e code body = (t, true); got 0x61 ∧ body.length ≠ 32) ∧
    (∃ (s : State) (t : State) (e : ImmEnv) (body : List Byte),
      let got : Nat → Prop := fun code => s.receive false e code body = (t, true); got 0x61 ∧ body.length = 32 ∧
      t.dbg.chal = none) ∧
    (∃ (s : State) (t : State) (e : ImmEnv) (body : List Byte) (g : _) (scope : _) (c : _), let h := e.port.val;
      let got : Nat → Prop := fun code => s.receive false e code body = (t, true); got 0x61 ∧ body.length = 32 ∧
      t.dbg.chal = some (g, scope, c) ∧ g ≠ h) ∧
    (∃ (s : State) (t : State) (e : ImmEnv) (body : List Byte) (g : _) (scope : _) (c : _), let h := e.port.val;
      let got : Nat → Prop := fun code => s.receive false e code body = (t, true); got 0x61 ∧ body.length = 32 ∧
      t.dbg.chal = some (g, scope, c) ∧ g = h ∧ t.secretOf 8 = none) ∧
    (∃ (s : State) (t : State) (e : ImmEnv) (body : List Byte) (g : _) (scope : _) (c : _) (dk : _), let h := e.port.val;
      let got : Nat → Prop := fun code => s.receive false e code body = (t, true); got 0x61 ∧ body.length = 32 ∧
      t.dbg.chal = some (g, scope, c) ∧ g = h ∧ t.secretOf 8 = some dk ∧ body ≠ dbgResp dk c h scope) ∧
    (∃ (s : State) (t : State) (e : ImmEnv) (body : List Byte) (g : _) (scope : _) (c : _) (dk : _), let h := e.port.val;
      let got : Nat → Prop := fun code => s.receive false e code body = (t, true); got 0x61 ∧ body.length = 32 ∧
      t.dbg.chal = some (g, scope, c) ∧ g = h ∧ t.secretOf 8 = some dk ∧ body = dbgResp dk c h scope) ∧
    (∃ (s : State) (t : State) (e : ImmEnv) (body : List Byte),
      let got : Nat → Prop := fun code => s.receive false e code body = (t, true); got 0x62 ∧ body ≠ []) ∧
    (∃ (s : State) (t : State) (e : ImmEnv) (body : List Byte), let h := e.port.val;
      let got : Nat → Prop := fun code => s.receive false e code body = (t, true); got 0x62 ∧ body = [] ∧
      t.dbg.conn.map (·.1) ≠ some h) ∧
    (∃ (s : State) (t : State) (e : ImmEnv) (body : List Byte), let h := e.port.val;
      let got : Nat → Prop := fun code => s.receive false e code body = (t, true); got 0x62 ∧ body = [] ∧
      t.dbg.conn.map (·.1) = some h) ∧
    (∃ (s : State) (t : State) (e : ImmEnv) (body : List Byte) (i : _),
      let got : Nat → Prop := fun code => s.receive false e code body = (t, true); s.initHeld ID.starter = false ∧ got 0x63 ∧
      dbgForm body false = some i) ∧
    (∃ (s : State) (t : State) (e : ImmEnv) (body : List Byte), let h := e.port.val;
      let got : Nat → Prop := fun code => s.receive false e code body = (t, true); s.initHeld ID.starter = false ∧ got 0x63 ∧
      dbgForm body false = none ∧ t.dbgMay h 0 = false) ∧
    (∃ (s : State) (t : State) (e : ImmEnv) (body : List Byte), let h := e.port.val;
      let got : Nat → Prop := fun code => s.receive false e code body = (t, true); s.initHeld ID.starter = false ∧ got 0x63 ∧
      dbgForm body false = none ∧ t.dbgMay h 0 = true ∧ field body 0 1 = 1) ∧
    (∃ (s : State) (t : State) (e : ImmEnv) (body : List Byte), let h := e.port.val;
      let got : Nat → Prop := fun code => s.receive false e code body = (t, true); let n := field body 2 2;
      let a := field body 4 8; s.initHeld ID.starter = false ∧ got 0x63 ∧ dbgForm body false = none ∧ t.dbgMay h 0 = true ∧
      field body 0 1 ≠ 1 ∧ t.celBarsImm h (linePieces (n / 64 + 2) a n) = true) ∧
    (∃ (s : State) (t : State) (e : ImmEnv) (body : List Byte), let h := e.port.val;
      let got : Nat → Prop := fun code => s.receive false e code body = (t, true); let n := field body 2 2;
      let a := field body 4 8; s.initHeld ID.starter = false ∧ got 0x63 ∧ dbgForm body false = none ∧ t.dbgMay h 0 = true ∧
      field body 0 1 ≠ 1 ∧ t.celBarsImm h (linePieces (n / 64 + 2) a n) = false) ∧
    (∃ (s : State) (t : State) (e : ImmEnv) (body : List Byte) (i : _),
      let got : Nat → Prop := fun code => s.receive false e code body = (t, true); s.initHeld ID.starter = false ∧ got 0x64 ∧
      dbgForm body true = some i) ∧
    (∃ (s : State) (t : State) (e : ImmEnv) (body : List Byte), let h := e.port.val;
      let got : Nat → Prop := fun code => s.receive false e code body = (t, true); s.initHeld ID.starter = false ∧ got 0x64 ∧
      dbgForm body true = none ∧ t.dbgMay h 1 = false) ∧
    (∃ (s : State) (t : State) (e : ImmEnv) (body : List Byte), let h := e.port.val;
      let got : Nat → Prop := fun code => s.receive false e code body = (t, true); s.initHeld ID.starter = false ∧ got 0x64 ∧
      dbgForm body true = none ∧ t.dbgMay h 1 = true ∧ field body 0 1 = 1) ∧
    (∃ (s : State) (t : State) (e : ImmEnv) (body : List Byte), let h := e.port.val;
      let got : Nat → Prop := fun code => s.receive false e code body = (t, true); s.initHeld ID.starter = false ∧ got 0x64 ∧
      dbgForm body true = none ∧ t.dbgMay h 1 = true ∧ field body 0 1 ≠ 1) :=
  ⟨⟨ses1, got (ses1) 0, envOf 0 0x60 (([])), [], received (by decide +kernel), by decide +kernel⟩,
   ⟨ses1.wrb DBG.CTL.LOCK true, got (ses1.wrb DBG.CTL.LOCK true) 0, envOf 0 0x60 (([7#8])), [7#8],
     received (by decide +kernel), by decide +kernel⟩,
   ⟨ses1, got (ses1) 0, envOf 0 0x60 (([7#8])), [7#8], received (by decide +kernel), by decide +kernel⟩,
   ⟨ses1, got (ses1) 0, envOf 0 0x61 (([])), [], received (by decide +kernel), by decide +kernel⟩,
   ⟨ses1, got (ses1) 0, envOf 0 0x61 ((aKey)), aKey, received (by decide +kernel), by decide +kernel⟩,
   ⟨aChal, got (aChal) 1, envOf 1 0x61 ((aKey)), aKey, 0, 7, [5#8], received (by decide +kernel), by decide +kernel⟩,
   ⟨{ aChal with lcs := { aChal.lcs with code := 2 } }, got ({ aChal with lcs := { aChal.lcs with code := 2 } }) 0,
     envOf 0 0x61 ((aKey)), aKey, 0, 7, [5#8], received (by decide +kernel), by decide +kernel⟩,
   ⟨aChal, got (aChal) 0, envOf 0 0x61 (((respOf aKey [5#8] 0 7).map (· + 1))), (respOf aKey [5#8] 0 7).map (· + 1), 0, 7,
     [5#8], aKey, received2 (by decide +kernel) (by rw [List.length_map, respOf_length]; decide),
     by rw [List.length_map, respOf_length], by decide +kernel, by decide +kernel, by decide +kernel,
     by rw [← resp_of]; exact map_ne fun e => absurd (congrArg List.length e) (by rw [respOf_length]; decide)⟩,
   ⟨aChal, got (aChal) 0, envOf 0 0x61 ((respOf aKey [5#8] 0 7)), respOf aKey [5#8] 0 7, 0, 7, [5#8], aKey,
     received2 (by decide +kernel) (by rw [respOf_length]; decide), respOf_length _ _ _ _, by decide +kernel,
     by decide +kernel, by decide +kernel, resp_of _ _ _ _⟩,
   ⟨ses1, got (ses1) 0, envOf 0 0x62 (([0#8])), [0#8], received (by decide +kernel), by decide +kernel⟩,
   ⟨dbgIs { conn := some (0, 7) }, got (dbgIs { conn := some (0, 7) }) 1, envOf 1 0x62 (([])), [],
     received (by decide +kernel), by decide +kernel⟩,
   ⟨dbgIs { conn := some (0, 7) }, got (dbgIs { conn := some (0, 7) }) 0, envOf 0 0x62 (([])), [],
     received (by decide +kernel), by decide +kernel⟩,
   ⟨ses1, got (ses1) 0, envOf 0 0x63 (([])), [], 0, by decide +kernel, received (by decide +kernel), by decide +kernel⟩,
   ⟨ses1, got (ses1) 0, envOf 0 0x63 (([1#8, 0#8, 4#8, 0#8] ++ List.replicate 8 0#8)),
     [1#8, 0#8, 4#8, 0#8] ++ List.replicate 8 0#8, by decide +kernel, received (by decide +kernel), by decide +kernel⟩,
   ⟨dbgIs { conn := some (0, 7) }, got (dbgIs { conn := some (0, 7) }) 0,
     envOf 0 0x63 (([1#8, 0#8, 4#8, 0#8] ++ List.replicate 8 0#8)), [1#8, 0#8, 4#8, 0#8] ++ List.replicate 8 0#8,
     by decide +kernel, received (by decide +kernel), by decide +kernel⟩,
   ⟨{ (dbgIs { conn := some (0, 7) }) with cel := { ses1.cel with level := 2 } },
     got ({ (dbgIs { conn := some (0, 7) }) with cel := { ses1.cel with level := 2 } }) 0,
     envOf 0 0x63 (([0#8, 0#8, 0#8, 1#8, 0#8, 0#8, 3#8, 0xF0#8, 0#8, 0#8, 0#8, 0#8])),
     [0#8, 0#8, 0#8, 1#8, 0#8, 0#8, 3#8, 0xF0#8, 0#8, 0#8, 0#8, 0#8], by decide +kernel, received (by decide +kernel),
     by decide +kernel⟩,
   ⟨dbgIs { conn := some (0, 7) }, got (dbgIs { conn := some (0, 7) }) 0,
     envOf 0 0x63 (([0#8, 0#8, 0#8, 1#8] ++ List.replicate 8 0#8)), [0#8, 0#8, 0#8, 1#8] ++ List.replicate 8 0#8,
     by decide +kernel, received (by decide +kernel), by decide +kernel⟩,
   ⟨ses1, got (ses1) 0, envOf 0 0x64 (([])), [], 0, by decide +kernel, received (by decide +kernel), by decide +kernel⟩,
   ⟨ses1, got (ses1) 0, envOf 0 0x64 (([1#8, 0#8, 4#8, 0#8] ++ List.replicate 0x408 0#8)),
     [1#8, 0#8, 4#8, 0#8] ++ List.replicate 0x408 0#8, by decide +kernel, received (by decide +kernel), by decide +kernel⟩,
   ⟨dbgIs { conn := some (0, 2) }, got (dbgIs { conn := some (0, 2) }) 0,
     envOf 0 0x64 (([1#8, 0#8, 4#8, 0#8] ++ List.replicate 0x408 0#8)), [1#8, 0#8, 4#8, 0#8] ++ List.replicate 0x408 0#8,
     by decide +kernel, received (by decide +kernel), by decide +kernel⟩,
   ⟨dbgIs { conn := some (0, 2) }, got (dbgIs { conn := some (0, 2) }) 0,
     envOf 0 0x64 (([0#8, 0#8, 0#8, 1#8] ++ List.replicate 9 0#8)), [0#8, 0#8, 0#8, 1#8] ++ List.replicate 9 0#8,
     by decide +kernel, received (by decide +kernel), by decide +kernel⟩⟩
theorem witness_ProcessorDebugRuns :
    (∃ (s : State) (t : State) (e : ImmEnv) (core : Byte) (action : Byte) (c : Instr),
      s.receive false e 0x65 [core, action] = (t, true) ∧
      (action, c) ∈ [(0, .dbgRunHalt e core), (1, .dbgRunResume e core), (2, .dbgRunStep e core), (3, .dbgRunStatus e core)] ∧
      5 ≤ core.toNat) ∧
    (∃ (s : State) (t : State) (e : ImmEnv) (core : Byte) (action : Byte) (c : Instr),
      s.receive false e 0x65 [core, action] = (t, true) ∧
      (action, c) ∈ [(0, .dbgRunHalt e core), (1, .dbgRunResume e core), (2, .dbgRunStep e core), (3, .dbgRunStatus e core)] ∧
      core.toNat < 5 ∧ t.dbgMay e.port.val 2 = false) ∧
    (∃ (s : State) (t : State) (e : ImmEnv) (core : Byte), let k := core.toNat; let halted := t.bit (SVC.CORE_CTL.HALTED k);
      core.toNat < 5 ∧ t.dbgMay e.port.val 2 = true ∧ s.receive false e 0x65 [core, 0] = (t, true) ∧ halted = true) ∧
    (∃ (s : State) (t : State) (e : ImmEnv) (core : Byte), let k := core.toNat; let halted := t.bit (SVC.CORE_CTL.HALTED k);
      core.toNat < 5 ∧ t.dbgMay e.port.val 2 = true ∧ s.receive false e 0x65 [core, 0] = (t, true) ∧ halted = false) ∧
    (∃ (s : State) (t : State) (e : ImmEnv) (core : Byte), core.toNat < 5 ∧ t.dbgMay e.port.val 2 = true ∧
      s.receive false e 0x65 [core, 1] = (t, true)) ∧
    (∃ (s : State) (t : State) (e : ImmEnv) (core : Byte), let k := core.toNat; let halted := t.bit (SVC.CORE_CTL.HALTED k);
      core.toNat < 5 ∧ t.dbgMay e.port.val 2 = true ∧ s.receive false e 0x65 [core, 2] = (t, true) ∧ halted = true) ∧
    (∃ (s : State) (t : State) (e : ImmEnv) (core : Byte), let k := core.toNat; let halted := t.bit (SVC.CORE_CTL.HALTED k);
      core.toNat < 5 ∧ t.dbgMay e.port.val 2 = true ∧ s.receive false e 0x65 [core, 2] = (t, true) ∧ halted = false) ∧
    (∃ (s : State) (t : State) (e : ImmEnv) (core : Byte), core.toNat < 5 ∧ t.dbgMay e.port.val 2 = true ∧
      s.receive false e 0x65 [core, 3] = (t, true)) ∧
    (∃ (s : State) (k : Fin 5), tget s.dbg.resume k.val 0 = 0) ∧
    (∃ (s : State) (k : Fin 5), tget s.dbg.resume k.val 0 ≠ 0 ∧ s.procRuns (coreOf k.val) = false) ∧
    (∃ (s : State) (k : Fin 5), tget s.dbg.resume k.val 0 ≠ 0 ∧ s.procRuns (coreOf k.val) = true) ∧
    (∃ (s : State) (k : Fin 5) (i : Fin 4), let b := tget s.dbg.bkpts (4 * k.val + i.val) 0;
      (b = 0 ∨ s.procRuns (coreOf k.val) = false ∨ s.bit (SVC.CORE_CTL.HALTED k.val) = true)) ∧
    (∃ (s : State) (k : Fin 5) (i : Fin 4), let b := tget s.dbg.bkpts (4 * k.val + i.val) 0; b ≠ 0 ∧
      s.procRuns (coreOf k.val) = true ∧ s.bit (SVC.CORE_CTL.HALTED k.val) = false) ∧
    (∃ (s : State) (t : State) (e : ImmEnv) (body : List Byte), let k := field body 0 1;
      s.receive false e 0x66 body = (t, true) ∧ (body.length ≠ 16 ∨ 5 ≤ k)) ∧
    (∃ (s : State) (t : State) (e : ImmEnv) (body : List Byte), let k := field body 0 1; let kind := field body 1 1;
      s.receive false e 0x66 body = (t, true) ∧ body.length = 16 ∧ k < 5 ∧ 3 ≤ kind) ∧
    (∃ (s : State) (t : State) (e : ImmEnv) (body : List Byte), let k := field body 0 1; let kind := field body 1 1;
      let n := field body 2 2; s.receive false e 0x66 body = (t, true) ∧ body.length = 16 ∧ k < 5 ∧ kind < 3 ∧
      (if kind = 2 then 4096 else 32) ≤ n) ∧
    (∃ (s : State) (t : State) (e : ImmEnv) (body : List Byte), let k := field body 0 1; let kind := field body 1 1;
      let n := field body 2 2; s.receive false e 0x66 body = (t, true) ∧ body.length = 16 ∧ k < 5 ∧ kind < 3 ∧
      n < (if kind = 2 then 4096 else 32) ∧ 2 ≤ field body 4 1) ∧
    (∃ (s : State) (t : State) (e : ImmEnv) (body : List Byte), let k := field body 0 1; let kind := field body 1 1;
      let n := field body 2 2; s.receive false e 0x66 body = (t, true) ∧ body.length = 16 ∧ k < 5 ∧ kind < 3 ∧
      n < (if kind = 2 then 4096 else 32) ∧ field body 4 1 < 2 ∧ t.dbgMay e.port.val 2 = false) ∧
    (∃ (s : State) (t : State) (e : ImmEnv) (body : List Byte), let k := field body 0 1; let kind := field body 1 1;
      let n := field body 2 2; s.receive false e 0x66 body = (t, true) ∧ body.length = 16 ∧ k < 5 ∧ kind < 3 ∧
      n < (if kind = 2 then 4096 else 32) ∧ field body 4 1 < 2 ∧ t.dbgMay e.port.val 2 = true ∧
      t.bit (SVC.CORE_CTL.HALTED k) = false) ∧
    (∃ (s : State) (t : State) (e : ImmEnv) (body : List Byte), let k := field body 0 1; let kind := field body 1 1;
      let n := field body 2 2; s.receive false e 0x66 body = (t, true) ∧ body.length = 16 ∧ k < 5 ∧ kind < 3 ∧
      n < (if kind = 2 then 4096 else 32) ∧ field body 4 1 < 2 ∧ t.dbgMay e.port.val 2 = true ∧
      t.bit (SVC.CORE_CTL.HALTED k) = true) ∧
    (∃ (s : State) (t : State) (e : ImmEnv) (body : List Byte), let k := field body 0 1;
      s.receive false e 0x67 body = (t, true) ∧ (body.length ≠ 12 ∨ 5 ≤ k)) ∧
    (∃ (s : State) (t : State) (e : ImmEnv) (body : List Byte), let k := field body 0 1; let i := field body 1 1;
      s.receive false e 0x67 body = (t, true) ∧ body.length = 12 ∧ k < 5 ∧ 4 ≤ i) ∧
    (∃ (s : State) (t : State) (e : ImmEnv) (body : List Byte), let k := field body 0 1; let i := field body 1 1;
      let en := field body 2 1; s.receive false e 0x67 body = (t, true) ∧ body.length = 12 ∧ k < 5 ∧ i < 4 ∧ 2 ≤ en) ∧
    (∃ (s : State) (t : State) (e : ImmEnv) (body : List Byte), let k := field body 0 1; let i := field body 1 1;
      let en := field body 2 1; s.receive false e 0x67 body = (t, true) ∧ body.length = 12 ∧ k < 5 ∧ i < 4 ∧ en < 2 ∧
      t.dbgMay e.port.val 2 = false) ∧
    (∃ (s : State) (t : State) (e : ImmEnv) (body : List Byte), let k := field body 0 1; let i := field body 1 1;
      let en := field body 2 1; s.receive false e 0x67 body = (t, true) ∧ body.length = 12 ∧ k < 5 ∧ i < 4 ∧ en < 2 ∧
      t.dbgMay e.port.val 2 = true) ∧
    (∃ (s : State) (q : Req), s.canWrite q 0x7100000) :=
  ⟨⟨dbgIs { conn := some (0, 4) }, got (dbgIs { conn := some (0, 4) }) 0, withBody 0x65 [5#8, 0#8], 5#8, 0#8,
     .dbgRunHalt (withBody 0x65 [5#8, 0#8]) 5#8, received (by decide +kernel), by simp, by decide +kernel⟩,
   ⟨ses1, got (ses1) 0, withBody 0x65 [4#8, 0#8], 4#8, 0#8, .dbgRunHalt (withBody 0x65 [4#8, 0#8]) 4#8,
     received (by decide +kernel), by simp, by decide +kernel⟩,
   ⟨(dbgIs { conn := some (0, 4) }).wrb (SVC.CORE_CTL.HALTED 4) true,
     got ((dbgIs { conn := some (0, 4) }).wrb (SVC.CORE_CTL.HALTED 4) true) 0, envOf 0 0x65 ([(4#8), 0]), 4#8,
     by decide +kernel, by decide +kernel, received (by decide +kernel), by decide +kernel⟩,
   ⟨dbgIs { conn := some (0, 4) }, got (dbgIs { conn := some (0, 4) }) 0, envOf 0 0x65 ([(4#8), 0]), 4#8, by decide +kernel,
     by decide +kernel, received (by decide +kernel), by decide +kernel⟩,
   ⟨dbgIs { conn := some (0, 4) }, got (dbgIs { conn := some (0, 4) }) 0, envOf 0 0x65 ([(4#8), 1]), 4#8, by decide +kernel,
     by decide +kernel, received (by decide +kernel)⟩,
   ⟨(dbgIs { conn := some (0, 4) }).wrb (SVC.CORE_CTL.HALTED 4) true,
     got ((dbgIs { conn := some (0, 4) }).wrb (SVC.CORE_CTL.HALTED 4) true) 0, envOf 0 0x65 ([(4#8), 2]), 4#8,
     by decide +kernel, by decide +kernel, received (by decide +kernel), by decide +kernel⟩,
   ⟨dbgIs { conn := some (0, 4) }, got (dbgIs { conn := some (0, 4) }) 0, envOf 0 0x65 ([(4#8), 2]), 4#8, by decide +kernel,
     by decide +kernel, received (by decide +kernel), by decide +kernel⟩,
   ⟨dbgIs { conn := some (0, 4) }, got (dbgIs { conn := some (0, 4) }) 0, envOf 0 0x65 ([(4#8), 3]), 4#8, by decide +kernel,
     by decide +kernel, received (by decide +kernel)⟩,
   ⟨up, 4, by decide +kernel⟩,
   ⟨dbgIs { resume := [(4, 1)] }, 4, by decide +kernel⟩,
   ⟨(dbgIs { resume := [(4, 1)] }).wrb (SVC.CORE_CTL.RUN 4) true, 4, by decide +kernel⟩,
   ⟨up, 4, 3, by decide +kernel⟩,
   ⟨(dbgIs { bkpts := [(19, 1)] }).wrb (SVC.CORE_CTL.RUN 4) true, 4, 3, by decide +kernel⟩,
   ⟨dbgIs { conn := some (0, 4) }, got (dbgIs { conn := some (0, 4) }) 0, envOf 0 0x66 (([])), [],
     received (by decide +kernel), by decide +kernel⟩,
   ⟨dbgIs { conn := some (0, 4) }, got (dbgIs { conn := some (0, 4) }) 0,
     envOf 0 0x66 (([4#8, 3#8] ++ List.replicate 14 0#8)), [4#8, 3#8] ++ List.replicate 14 0#8, received (by decide +kernel),
     by decide +kernel⟩,
   ⟨dbgIs { conn := some (0, 4) }, got (dbgIs { conn := some (0, 4) }) 0,
     envOf 0 0x66 (([4#8, 2#8, 0x10#8, 0#8] ++ List.replicate 12 0#8)), [4#8, 2#8, 0x10#8, 0#8] ++ List.replicate 12 0#8,
     received (by decide +kernel), by decide +kernel⟩,
   ⟨dbgIs { conn := some (0, 4) }, got (dbgIs { conn := some (0, 4) }) 0,
     envOf 0 0x66 (([4#8, 1#8, 0#8, 31#8, 2#8] ++ List.replicate 11 0#8)),
     [4#8, 1#8, 0#8, 31#8, 2#8] ++ List.replicate 11 0#8, received (by decide +kernel), by decide +kernel⟩,
   ⟨ses1, got (ses1) 0, envOf 0 0x66 (([4#8, 2#8, 0x0F#8, 0xFF#8, 1#8] ++ List.replicate 11 0#8)),
     [4#8, 2#8, 0x0F#8, 0xFF#8, 1#8] ++ List.replicate 11 0#8, received (by decide +kernel), by decide +kernel⟩,
   ⟨dbgIs { conn := some (0, 4) }, got (dbgIs { conn := some (0, 4) }) 0,
     envOf 0 0x66 (([4#8, 2#8, 0x0F#8, 0xFF#8, 1#8] ++ List.replicate 11 0#8)),
     [4#8, 2#8, 0x0F#8, 0xFF#8, 1#8] ++ List.replicate 11 0#8, received (by decide +kernel), by decide +kernel⟩,
   ⟨(dbgIs { conn := some (0, 4) }).wrb (SVC.CORE_CTL.HALTED 4) true,
     got ((dbgIs { conn := some (0, 4) }).wrb (SVC.CORE_CTL.HALTED 4) true) 0,
     envOf 0 0x66 (([4#8, 2#8, 0x0F#8, 0xFF#8, 1#8] ++ List.replicate 11 0#8)),
     [4#8, 2#8, 0x0F#8, 0xFF#8, 1#8] ++ List.replicate 11 0#8, received (by decide +kernel), by decide +kernel⟩,
   ⟨dbgIs { conn := some (0, 4) }, got (dbgIs { conn := some (0, 4) }) 0, envOf 0 0x67 (([])), [],
     received (by decide +kernel), by decide +kernel⟩,
   ⟨dbgIs { conn := some (0, 4) }, got (dbgIs { conn := some (0, 4) }) 0,
     envOf 0 0x67 (([4#8, 4#8] ++ List.replicate 10 0#8)), [4#8, 4#8] ++ List.replicate 10 0#8, received (by decide +kernel),
     by decide +kernel⟩,
   ⟨dbgIs { conn := some (0, 4) }, got (dbgIs { conn := some (0, 4) }) 0,
     envOf 0 0x67 (([4#8, 3#8, 2#8] ++ List.replicate 9 0#8)), [4#8, 3#8, 2#8] ++ List.replicate 9 0#8,
     received (by decide +kernel), by decide +kernel⟩,
   ⟨ses1, got (ses1) 0, envOf 0 0x67 (([4#8, 3#8, 1#8] ++ List.replicate 9 0#8)), [4#8, 3#8, 1#8] ++ List.replicate 9 0#8,
     received (by decide +kernel), by decide +kernel⟩,
   ⟨dbgIs { conn := some (0, 4) }, got (dbgIs { conn := some (0, 4) }) 0,
     envOf 0 0x67 (([4#8, 3#8, 1#8] ++ List.replicate 9 0#8)), [4#8, 3#8, 1#8] ++ List.replicate 9 0#8,
     received (by decide +kernel), by decide +kernel⟩,
   ⟨up, starter, can_write (by decide +kernel)⟩⟩
theorem witness_VatsRun :
    (∃ (s : State) (v : Fin 16), let u := s.setRstReq v.val 0; tget s.cfg.rstReq v.val 0 ≠ 0 ∧ s.defined v.val = true ∧
      u.bit (VAT.VAT_STAT.SWAPPING v.val) = false) ∧
    (∃ (s : State) (v : Fin 16), let u := s.setRstReq v.val 0; tget s.cfg.rstReq v.val 0 ≠ 0 ∧ s.defined v.val = true ∧
      u.bit (VAT.VAT_STAT.SWAPPING v.val) = true) ∧
    (∃ (s : State) (v : Fin 16), tget s.cfg.rstReq v.val 0 = 0) ∧
    (∃ (s : State) (v : Fin 16), s.mayRelease v.val = true) ∧
    (∃ (s : State) (v : Fin 16), s.cfg.clearing.contains v.val = true ∧ s.underTest v = false) ∧
    (∃ (s : State) (v : Fin 16), tget s.cfg.gating v.val 0 = 1) ∧
    (∃ (s : State) (v : Fin 16), tget s.cfg.gating v.val 0 = 2 ∧ s.bit (VAT.VAT_STAT.IN_RESET v.val) = false) ∧
    (∃ (s : State) (v : Fin 16) (q : Req) (w : Word), let gate := s.bit (VAT.VAT_CTRL.PWR_GATE v.val);
      s.canWrite q (0x201000 + 0x100 * v.val) ∧ v.val ≠ 0 ∧ w.getLsbD 3 = gate ∧ tget s.cfg.gating v.val 0 = 0) ∧
    (∃ (s : State) (v : Fin 16) (q : Req), s.canWrite q (0x201000 + 0x100 * v.val) ∧ v.val = 0) ∧
    (∃ (s : State) (v : Fin 16) (q : Req) (w : Word), let gate := s.bit (VAT.VAT_CTRL.PWR_GATE v.val);
      let was := s.bit (VAT.VAT_CTRL.RESET v.val); s.canWrite q (0x201000 + 0x100 * v.val) ∧ w.getLsbD 0 = was ∧ gate = false ∧
      s.gateRefused v.val = false ∧ v.val ≠ 0) ∧
    (∃ (s : State) (v : Fin 16) (q : Req), let gate := s.bit (VAT.VAT_CTRL.PWR_GATE v.val);
      s.canWrite q (0x201000 + 0x100 * v.val) ∧ gate = false ∧ s.gateRefused v.val = true) ∧
    (∃ (s : State) (v : Fin 16) (q : Req) (w : Word), let gate := s.bit (VAT.VAT_CTRL.PWR_GATE v.val);
      let was := s.bit (VAT.VAT_CTRL.RESET v.val); s.canWrite q (0x201000 + 0x100 * v.val) ∧ w.getLsbD 0 = was ∧ gate = true ∧
      s.gateRefused v.val = false ∧ v.val ≠ 0) ∧
    (∃ (s : State) (v : Fin 16) (q : Req), let gate := s.bit (VAT.VAT_CTRL.PWR_GATE v.val);
      s.canWrite q (0x201000 + 0x100 * v.val) ∧ gate = true ∧ s.gateRefused v.val = true) ∧
    (∃ (s : State) (v : Fin 16) (q : Req) (k : Fin 10) (w : Word), let x := w &&& assignMask k.val;
      s.canWrite q (0x201008 + 0x100 * v.val + 4 * k.val) ∧ s.assignOpen v.val = true ∧ s.assignClash v.val k.val x = false ∧
      (¬ (v.val = 0 ∧ k.val = 1))) ∧
    (∃ (s : State) (v : Fin 16) (q : Req) (k : Fin 10), s.canWrite q (0x201008 + 0x100 * v.val + 4 * k.val) ∧
      s.assignOpen v.val = true ∧ v.val = 0 ∧ k.val = 1) ∧
    (∃ (s : State) (v : Fin 16) (q : Req) (k : Fin 10) (w : Word), let x := w &&& assignMask k.val;
      s.canWrite q (0x201008 + 0x100 * v.val + 4 * k.val) ∧ (s.assignOpen v.val = false ∨ s.assignClash v.val k.val x = true)) ∧
    (∃ (s : State) (v : Fin 16) (q : Req) (k : Fin 5) (w : Word), let u := s.wr (VAT.MREG_EN.EN v.val) (wget w 3 0);
      s.canWrite q (0x201040 + 0x100 * v.val + 4 * k.val) ∧ k.val = 4 ∧
      (((List.range 4).any fun r => s.regionBusy v.val r && s.mbit (VAT.MREG_EN.EN v.val) r != u.mbit (VAT.MREG_EN.EN v.val) r) = false) ∧
      u.regionsOk v.val = true) ∧
    (∃ (s : State) (v : Fin 16) (q : Req) (w : Word), let r := wget w 5 4;
      let u := s.setReg (0x20106C + 0x100 * v.val) ((w ||| 1#32) &&& 0x130#32);
      let a := (u.reg (VAT.MLOAD_ADDR_LO.A v.val).off).toNat + 2 ^ 32 * (u.reg (VAT.MLOAD_ADDR_HI.A v.val).off).toNat;
      let len := u.rd (VAT.MLOAD_LEN.LEN v.val); let need := u.shadowNeeds a len; s.canWrite q (0x20106C + 0x100 * v.val) ∧
      u.modRefusal v.val r need = none) ∧
    (∃ (s : State) (v : Fin 16) (q : Req) (w : Word) (x : _), let r := wget w 5 4;
      let u := s.setReg (0x20106C + 0x100 * v.val) ((w ||| 1#32) &&& 0x130#32);
      let a := (u.reg (VAT.MLOAD_ADDR_LO.A v.val).off).toNat + 2 ^ 32 * (u.reg (VAT.MLOAD_ADDR_HI.A v.val).off).toNat;
      let len := u.rd (VAT.MLOAD_LEN.LEN v.val); let need := u.shadowNeeds a len; s.canWrite q (0x20106C + 0x100 * v.val) ∧
      u.modRefusal v.val r need = some x) :=
  ⟨⟨(({ own15 {} with cfg := { (own15 {}).cfg with rstReq := [(15, 1)] } } : State)).wr (VAT.DEF.DEF) 0x8000, 15,
     by decide +kernel⟩,
   ⟨((({ own15 {} with cfg := { (own15 {}).cfg with rstReq := [(15, 2)] } } : State)).wr (VAT.DEF.DEF) 0x8000).wr (VAT.VAT_STAT.SWAPPING 15) 1,
     15, by decide +kernel⟩,
   ⟨((own15 {})).wr (VAT.DEF.DEF) 0x8000, 15, by decide +kernel⟩,
   ⟨((own15 {})).wr (VAT.VAT_STAT.IN_RESET 15) 1, 15, by decide +kernel⟩,
   ⟨{ own15 {} with cfg := { (own15 {}).cfg with clearing := [15] } }, 15, by decide +kernel⟩,
   ⟨{ own15 {} with cfg := { (own15 {}).cfg with gating := [(15, 1)] } }, 15, by decide +kernel⟩,
   ⟨{ own15 {} with cfg := { (own15 {}).cfg with gating := [(15, 2)] } }, 15, by decide +kernel⟩,
   ⟨((own15 {})).wr (VAT.DEF.DEF) 0x8000, 15, starter, 0#32, can_write (by decide +kernel), by decide +kernel⟩,
   ⟨((own15 {})).wr (VAT.DEF.DEF) 0x8000, 0, starter, can_write (by decide +kernel), by decide +kernel⟩,
   ⟨((own15 {})).wr (VAT.DEF.DEF) 0x8000, 15, starter, 8#32, can_write (by decide +kernel), by decide +kernel⟩,
   ⟨((own15 {})).wr (VAT.DEF.DEF) 0x8000, 0, starter, can_write (by decide +kernel), by decide +kernel⟩,
   ⟨(((own15 {})).wr (VAT.DEF.DEF) 0x8000).wr (VAT.VAT_CTRL.PWR_GATE 15) 1, 15, starter, 8#32,
     can_write (by decide +kernel), by decide +kernel⟩,
   ⟨((own15 {})).wr (VAT.VAT_CTRL.PWR_GATE 0) 1, 0, starter, can_write (by decide +kernel), by decide +kernel⟩,
   ⟨((own15 {})).wr (VAT.VAT_STAT.IN_RESET 15) 1, 15, starter, 9, 7#32, can_write (by decide +kernel), by decide +kernel⟩,
   ⟨up.wr PWR.MODE_STAT.MODE 2, 0, starter, 1, can_write (by decide +kernel), by decide +kernel⟩,
   ⟨((own15 {})).wr (VAT.DEF.DEF) 0x8000, 15, starter, 9, 0#32, can_write (by decide +kernel), by decide +kernel⟩,
   ⟨((own15 {})).wr (VAT.DEF.DEF) 0x8000, 15, starter, 4, 0#32, can_write (by decide +kernel), by decide +kernel⟩,
   ⟨(((((own15 {})).wr (VAT.DEF.DEF) 0x8000).wr (VAT.MLOAD_LEN.LEN 15) 4).wr (VAT.MREG_EN.EN 15) 1).wr (VAT.MLOAD_ADDR_HI.A 15) 0x300,
     15, starter, 0x101#32, can_write (by decide +kernel), by decide +kernel⟩,
   ⟨up, 15, starter, 0x131#32,
     (let s : State := up; let v : Fin 16 := 15; let w : Word := 0x131#32; let r := wget w 5 4; let u := s.setReg (0x20106C + 0x100 * v.val) ((w ||| 1#32) &&& 0x130#32); let a := (u.reg (VAT.MLOAD_ADDR_LO.A v.val).off).toNat + 2 ^ 32 * (u.reg (VAT.MLOAD_ADDR_HI.A v.val).off).toNat; let len := u.rd (VAT.MLOAD_LEN.LEN v.val); let need := u.shadowNeeds a len; u.modRefusal v.val r need).get (by decide +kernel),
     can_write (by decide +kernel), by decide +kernel⟩⟩
theorem witness_ChurnRuns :
    (∃ (s : State), s.churn.active = false) ∧
    (∃ (s : State) (q : Fin 4), let n := scrubFrame q.val (s.churnPos q.val);
      let u := s.setChurnPos q.val (s.churnPos q.val + 1); s.churn.active = true ∧ s.running = true ∧
      s.portHeld q.val = false ∧ s.scrubJob q.val = none ∧ s.churnPos q.val < 65536 ∧ u.scrubSkips n = true) ∧
    (∃ (s : State) (q : Fin 4) (bits : List (Fin 2072)), let n := scrubFrame q.val (s.churnPos q.val);
      let u := s.setChurnPos q.val (s.churnPos q.val + 1); let w := u.disturb n (flipBits (u.liveFrame n) bits);
      s.churn.active = true ∧ s.running = true ∧ s.portHeld q.val = false ∧ s.scrubJob q.val = none ∧
      s.churnPos q.val < 65536 ∧ u.scrubSkips n = false ∧ chkFrame (w.liveFrame n) = .clean) ∧
    (∃ (s : State) (q : Fin 4) (bits : List (Fin 2072)) (k : _) (i : _) (f : _),
      let n := scrubFrame q.val (s.churnPos q.val); let u := s.setChurnPos q.val (s.churnPos q.val + 1);
      let w := u.disturb n (flipBits (u.liveFrame n) bits); s.churn.active = true ∧ s.running = true ∧
      s.portHeld q.val = false ∧ s.scrubJob q.val = none ∧ s.churnPos q.val < 65536 ∧ u.scrubSkips n = false ∧
      chkFrame (w.liveFrame n) = .fixed k i f) ∧
    (∃ (s : State) (q : Fin 4) (bits : List (Fin 2072)), let n := scrubFrame q.val (s.churnPos q.val);
      let u := s.setChurnPos q.val (s.churnPos q.val + 1); let w := u.disturb n (flipBits (u.liveFrame n) bits);
      s.churn.active = true ∧ s.running = true ∧ s.portHeld q.val = false ∧ s.scrubJob q.val = none ∧
      s.churnPos q.val < 65536 ∧ u.scrubSkips n = false ∧ chkFrame (w.liveFrame n) = .bad ∧ w.frameVol n = true) ∧
    (∃ (s : State) (q : Fin 4) (bits : List (Fin 2072)), let n := scrubFrame q.val (s.churnPos q.val);
      let u := s.setChurnPos q.val (s.churnPos q.val + 1); let w := u.disturb n (flipBits (u.liveFrame n) bits);
      s.churn.active = true ∧ s.running = true ∧ s.portHeld q.val = false ∧ s.scrubJob q.val = none ∧
      s.churnPos q.val < 65536 ∧ u.scrubSkips n = false ∧ chkFrame (w.liveFrame n) = .bad ∧ w.frameVol n = false) ∧
    (∃ (s : State) (q : Fin 4) (n : Nat) (k : Nat) (i : Nat) (f : Frame) (pr : Bool),
      s.scrubJob q.val = some ⟨n, k, i, some f, pr⟩ ∧ s.portHeld q.val = true) ∧
    (∃ (s : State) (q : Fin 4) (n : Nat) (k : Nat) (i : Nat) (f : Frame) (pr : Bool), let u := s.setScrubJob q.val none;
      s.scrubJob q.val = some ⟨n, k, i, some f, pr⟩ ∧ k < 3 ∧ s.portHeld q.val = false ∧ u.scrubDrops n = false) ∧
    (∃ (s : State) (q : Fin 4) (n : Nat) (k : Nat) (i : Nat) (f : Frame) (pr : Bool), let u := s.setScrubJob q.val none;
      s.scrubJob q.val = some ⟨n, k, i, some f, pr⟩ ∧ 3 ≤ k ∧ s.portHeld q.val = false ∧ u.scrubDrops n = false) ∧
    (∃ (s : State) (q : Fin 4) (n : Nat) (k : Nat) (i : Nat) (f : Frame) (pr : Bool), let u := s.setScrubJob q.val none;
      s.scrubJob q.val = some ⟨n, k, i, some f, pr⟩ ∧ k < 3 ∧ s.portHeld q.val = false ∧ u.scrubDrops n = true) ∧
    (∃ (s : State) (q : Fin 4) (n : Nat) (k : Nat) (i : Nat) (f : Frame) (pr : Bool), let u := s.setScrubJob q.val none;
      s.scrubJob q.val = some ⟨n, k, i, some f, pr⟩ ∧ 3 ≤ k ∧ s.portHeld q.val = false ∧ u.scrubDrops n = true) ∧
    (∃ (s : State) (q : Fin 4) (n : Nat) (k : Nat) (i : Nat) (pr : Bool), s.scrubJob q.val = some ⟨n, k, i, none, pr⟩ ∧
      s.portHeld q.val = true) ∧
    (∃ (s : State) (q : Fin 4) (n : Nat) (k : Nat) (i : Nat) (pr : Bool) (bits : List (Fin 2072)),
      let u := s.setScrubJob q.val none; let p := (u.role ((u.frameVat n).getD 0)).cur;
      let w := u.setPlane p n (flipBits (u.planeFrame p n) bits); s.scrubJob q.val = some ⟨n, k, i, none, pr⟩ ∧
      s.portHeld q.val = false ∧ s.scrubDrops n = false ∧ chkFrame (w.planeFrame p n) = .clean) ∧
    (∃ (s : State) (q : Fin 4) (n : Nat) (k : Nat) (i : Nat) (pr : Bool) (bits : List (Fin 2072)) (a : _) (b : _) (f : _),
      let u := s.setScrubJob q.val none; let p := (u.role ((u.frameVat n).getD 0)).cur;
      let w := u.setPlane p n (flipBits (u.planeFrame p n) bits); s.scrubJob q.val = some ⟨n, k, i, none, pr⟩ ∧
      s.portHeld q.val = false ∧ s.scrubDrops n = false ∧ chkFrame (w.planeFrame p n) = .fixed a b f) ∧
    (∃ (s : State) (q : Fin 4) (n : Nat) (k : Nat) (i : Nat) (pr : Bool) (bits : List (Fin 2072)),
      let u := s.setScrubJob q.val none; let p := (u.role ((u.frameVat n).getD 0)).cur;
      let w := u.setPlane p n (flipBits (u.planeFrame p n) bits); s.scrubJob q.val = some ⟨n, k, i, none, pr⟩ ∧
      s.portHeld q.val = false ∧ s.scrubDrops n = false ∧ chkFrame (w.planeFrame p n) = .bad) ∧
    (∃ (s : State) (q : Fin 4) (n : Nat) (k : Nat) (i : Nat) (pr : Bool), s.scrubJob q.val = some ⟨n, k, i, none, pr⟩ ∧
      s.portHeld q.val = false ∧ s.scrubDrops n = true) ∧
    (∃ (s : State), s.churn.active = true ∧ ((∀ k < 4, s.churnPos k = 65536 ∧ s.scrubJob k = none))) ∧
    (∃ (s : State), s.churn.active = true ∧ s.churn.late = false ∧
      ((∃ k < 4, s.churnPos k ≠ 65536 ∨ (s.scrubJob k).isSome = true))) ∧
    (∃ (s : State) (r : Req), s.canWrite r 0x300000 ∧ s.bit CHURN.CTL.EN = false) ∧
    (∃ (s : State) (r : Req), s.canWrite r 0x300000 ∧ s.bit CHURN.CTL.EN = true) :=
  ⟨⟨up, by decide +kernel⟩,
   ⟨{ up with churn := { up.churn with active := true, pos := [(3, 65535)] } }, 3, by decide +kernel⟩,
   ⟨{ ((own15 {}).wrb (VAT.VAT_STAT.DEFINED 15) true) with churn := { up.churn with active := true, pos := [(3, 65535)] } },
     3, [], by decide +kernel⟩,
   ⟨{ ((own15 {}).wrb (VAT.VAT_STAT.DEFINED 15) true) with churn := { up.churn with active := true, pos := [(3, 65535)] } },
     3, [2071], 1, 2071, 0#2072, by decide +kernel, by decide +kernel, by decide +kernel, by decide +kernel,
     by decide +kernel, by decide +kernel, chk_bit (by decide +kernel)⟩,
   ⟨{ ((own15 {}).wrb (VAT.VAT_STAT.DEFINED 15) true) with churn := { up.churn with active := true, pos := [(3, 65535)] }, cfg := { (own15 {}).cfg with vol := [(261119, true)] } },
     3, [0, 2], by decide +kernel⟩,
   ⟨{ ((own15 {}).wrb (VAT.VAT_STAT.DEFINED 15) true) with churn := { up.churn with active := true, pos := [(3, 65535)] } },
     3, [0, 2], by decide +kernel⟩,
   ⟨{ (up.wrb (VAT.VAT_STAT.DEFINED 0) true) with churn := { up.churn with job := [(3, some ⟨262143, 2, 2071, some 0, false⟩)] }, cfg := { up.cfg with loads := [(0, some { code := 1, vats := [0], plan := [] })] } },
     3, 262143, 2, 2071, 0#2072, false, by decide +kernel⟩,
   ⟨{ (up.wrb (VAT.VAT_STAT.DEFINED 0) true) with churn := { up.churn with job := [(3, some ⟨262143, 2, 2071, some 0, false⟩)] } },
     3, 262143, 2, 2071, 0#2072, false, by decide +kernel⟩,
   ⟨{ (up.wrb (VAT.VAT_STAT.DEFINED 0) true) with churn := { up.churn with job := [(3, some ⟨262143, 3, 2071, some 0, false⟩)] } },
     3, 262143, 3, 2071, 0#2072, false, by decide +kernel⟩,
   ⟨{ ((up.wrb (VAT.VAT_STAT.DEFINED 0) true).wrb (VAT.VAT_STAT.SWAPPING 0) true) with churn := { up.churn with job := [(3, some ⟨262143, 2, 2071, some 0, false⟩)] } },
     3, 262143, 2, 2071, 0#2072, false, by decide +kernel⟩,
   ⟨{ ((up.wrb (VAT.VAT_STAT.DEFINED 0) true).wrb (VAT.VAT_STAT.SWAPPING 0) true) with churn := { up.churn with job := [(3, some ⟨262143, 3, 2071, some 0, false⟩)] } },
     3, 262143, 3, 2071, 0#2072, false, by decide +kernel⟩,
   ⟨{ (up.wrb (VAT.VAT_STAT.DEFINED 0) true) with churn := { up.churn with job := [(3, some ⟨262143, 2, 2071, none, false⟩)] }, cfg := { up.cfg with loads := [(0, some { code := 1, vats := [0], plan := [] })] } },
     3, 262143, 2, 2071, false, by decide +kernel⟩,
   ⟨{ (up.wrb (VAT.VAT_STAT.DEFINED 0) true) with churn := { up.churn with job := [(3, some ⟨262143, 2, 2071, none, false⟩)] } },
     3, 262143, 2, 2071, false, [], by decide +kernel⟩,
   ⟨{ (up.wrb (VAT.VAT_STAT.DEFINED 0) true) with churn := { up.churn with job := [(3, some ⟨262143, 2, 2071, none, false⟩)] } },
     3, 262143, 2, 2071, false, [2071], 1, 2071, 0#2072, by decide +kernel, by decide +kernel, by decide +kernel,
     chk_bit (by decide +kernel)⟩,
   ⟨{ (up.wrb (VAT.VAT_STAT.DEFINED 0) true) with churn := { up.churn with job := [(3, some ⟨262143, 2, 2071, none, false⟩)] } },
     3, 262143, 2, 2071, false, [0, 2], by decide +kernel⟩,
   ⟨{ ((up.wrb (VAT.VAT_STAT.DEFINED 0) true).wrb (VAT.VAT_STAT.SWAPPING 0) true) with churn := { up.churn with job := [(3, some ⟨262143, 2, 2071, none, false⟩)] } },
     3, 262143, 2, 2071, false, by decide +kernel⟩,
   ⟨{ up with churn := { up.churn with active := true, pos := [(0, 65536), (1, 65536), (2, 65536), (3, 65536)] } },
     by decide +kernel⟩,
   ⟨{ up with churn := { up.churn with active := true } }, by decide +kernel⟩,
   ⟨up.wr (CHURN.CTL.EN) 0, starter, can_write (by decide +kernel), by decide +kernel⟩,
   ⟨up.wr (CHURN.CTL.EN) 1, starter, can_write (by decide +kernel), by decide +kernel⟩⟩
theorem witness_NetworkRuns :
    (∃ (s : State) (i : Fin 1024) (rq : NocRq), let d := s.decodeRq i.val (s.vatOfInit i.val) rq; isInitiator i.val = true ∧
      s.islandUp = true ∧
      ((rq.mgmt = true ∨ (procOfId i.val).map (fun c => s.cpuReaches c rq.addr.toNat rq.wr) ≠ some false)) ∧
      ((64 ≤ i.val → i.val < 960 → s.vatOfInit i.val ≠ 0xFF ∧ s.bit (VAT.VAT_STAT.CLAMPED (s.vatOfInit i.val)) = false)) ∧
      d.2.1 = .okay) ∧
    (∃ (s : State) (i : Fin 1024) (rq : NocRq), let d := s.decodeRq i.val (s.vatOfInit i.val) rq; isInitiator i.val = true ∧
      s.islandUp = true ∧
      ((rq.mgmt = true ∨ (procOfId i.val).map (fun c => s.cpuReaches c rq.addr.toNat rq.wr) ≠ some false)) ∧
      ((64 ≤ i.val → i.val < 960 → s.vatOfInit i.val ≠ 0xFF ∧ s.bit (VAT.VAT_STAT.CLAMPED (s.vatOfInit i.val)) = false)) ∧
      d.2.1 ≠ .okay) ∧
    (∃ (s : State) (y : Fin 16) (x : Fin 16) (o : NocOut), let key := (y.val * 16 + x.val) * 16 + outCode o;
      let here := heads [] (s.noc.mesh.filter fun m => m.y == y.val && m.x == x.val);
      let cand := here.filter fun m => s.route m == o && s.credit y.val x.val o m.f.vc;
      let g := grant (tget s.noc.streak key 0) (fun v => tget s.noc.rot (key * 4 + v) 7) cand; g = none) ∧
    (∃ (s : State) (y : Fin 16) (x : Fin 16) (o : NocOut) (hdrErr : Bool) (payErr : Bool) (m : _),
      let key := (y.val * 16 + x.val) * 16 + outCode o;
      let here := heads [] (s.noc.mesh.filter fun m => m.y == y.val && m.x == x.val);
      let cand := here.filter fun m => s.route m == o && s.credit y.val x.val o m.f.vc;
      let g := grant (tget s.noc.streak key 0) (fun v => tget s.noc.rot (key * 4 + v) 7) cand;
      let m' := { m with f := { m.f with poison := m.f.poison || payErr }, waited := 0 }; g = some m ∧ hdrErr = true) ∧
    (∃ (s : State) (y : Fin 16) (x : Fin 16) (o : NocOut) (hdrErr : Bool) (payErr : Bool) (m : _) (a : _),
      let key := (y.val * 16 + x.val) * 16 + outCode o;
      let here := heads [] (s.noc.mesh.filter fun m => m.y == y.val && m.x == x.val);
      let cand := here.filter fun m => s.route m == o && s.credit y.val x.val o m.f.vc;
      let g := grant (tget s.noc.streak key 0) (fun v => tget s.noc.rot (key * 4 + v) 7) cand;
      let m' := { m with f := { m.f with poison := m.f.poison || payErr }, waited := 0 }; g = some m ∧ hdrErr = false ∧
      o = .att a) ∧
    (∃ (s : State) (y : Fin 16) (x : Fin 16) (o : NocOut) (hdrErr : Bool) (payErr : Bool) (m : _),
      let key := (y.val * 16 + x.val) * 16 + outCode o;
      let here := heads [] (s.noc.mesh.filter fun m => m.y == y.val && m.x == x.val);
      let cand := here.filter fun m => s.route m == o && s.credit y.val x.val o m.f.vc;
      let g := grant (tget s.noc.streak key 0) (fun v => tget s.noc.rot (key * 4 + v) 7) cand;
      let m' := { m with f := { m.f with poison := m.f.poison || payErr }, waited := 0 }; g = some m ∧ hdrErr = false ∧
      o = .gateway) ∧
    (∃ (s : State) (y : Fin 16) (x : Fin 16) (o : NocOut) (hdrErr : Bool) (payErr : Bool) (m : _),
      let key := (y.val * 16 + x.val) * 16 + outCode o;
      let here := heads [] (s.noc.mesh.filter fun m => m.y == y.val && m.x == x.val);
      let cand := here.filter fun m => s.route m == o && s.credit y.val x.val o m.f.vc;
      let g := grant (tget s.noc.streak key 0) (fun v => tget s.noc.rot (key * 4 + v) 7) cand;
      let m' := { m with f := { m.f with poison := m.f.poison || payErr }, waited := 0 }; g = some m ∧ hdrErr = false ∧
      o ∈ [.north, .south, .east, .west]) ∧
    (∃ (s : State) (i : Fin 1024) (t : Fin 1024) (x : _), s.tag i.val t.val = some x ∧ (x.quar = true ∨ x.orphan = true)) ∧
    (∃ (s : State), s.bit NOC.MAP_SYNC.BUSY = true) ∧
    (∃ (s : State) (q : Req) (e : Fin 64) (k : Fin 4) (w : Word), s.canWrite q (0x1001000 + 16 * e.val + 4 * k.val) ∧
      (k.val ≠ 2 ∨ s.mapBadWrite e.val w = false)) ∧
    (∃ (s : State) (q : Req) (e : Fin 64) (k : Fin 4) (w : Word), s.canWrite q (0x1001000 + 16 * e.val + 4 * k.val) ∧
      k.val = 2 ∧ s.mapBadWrite e.val w = true) ∧
    (∃ (s : State) (q : Req), s.canWrite q 0x1000010) ∧
    (∃ (s : State) (q : Req) (i : Fin 1024), s.canWrite q (0x1040000 + 0x100 * i.val)) :=
  ⟨⟨sec223, 956, ⟨0x030000000000#64, false, 63, 0, 1023, 0, false, false⟩, by decide +kernel⟩,
   ⟨sec223, 956, ⟨0x030000000001#64, false, 63, 0, 1023, 0, false, false⟩, by decide +kernel⟩,
   ⟨sec223, 15, 15, .north, by decide +kernel⟩,
   ⟨{ up with noc := { up.noc with mesh := [⟨aFlit 980 0 0 0, 15, 15, 4, 0, 5, 0⟩] } }, 15, 15, .west, true, true,
     (let s : State := { up with noc := { up.noc with mesh := [⟨aFlit 980 0 0 0, 15, 15, 4, 0, 5, 0⟩] } }; let y : Fin 16 := 15; let x : Fin 16 := 15; let o : NocOut := .west; let key := (y.val * 16 + x.val) * 16 + outCode o; let here := heads [] (s.noc.mesh.filter fun m => m.y == y.val && m.x == x.val); let cand := here.filter fun m => s.route m == o && s.credit y.val x.val o m.f.vc; let g := grant (tget s.noc.streak key 0) (fun v => tget s.noc.rot (key * 4 + v) 7) cand; g).get (by decide +kernel),
     by decide +kernel⟩,
   ⟨{ up with noc := { up.noc with mesh := [⟨aFlit 980 0 0 0, 0, 0, 2, 0, 5, 0⟩] } }, 0, 0, .att 0, false, true,
     (let s : State := { up with noc := { up.noc with mesh := [⟨aFlit 980 0 0 0, 0, 0, 2, 0, 5, 0⟩] } }; let y : Fin 16 := 0; let x : Fin 16 := 0; let o : NocOut := .att 0; let key := (y.val * 16 + x.val) * 16 + outCode o; let here := heads [] (s.noc.mesh.filter fun m => m.y == y.val && m.x == x.val); let cand := here.filter fun m => s.route m == o && s.credit y.val x.val o m.f.vc; let g := grant (tget s.noc.streak key 0) (fun v => tget s.noc.rot (key * 4 + v) 7) cand; g).get (by decide +kernel),
     0, by decide +kernel⟩,
   ⟨{ up with noc := { up.noc with mesh := [⟨{ aFlit 980 0 0 0 with dev := 4095 }, 15, 10, 2, 0, 5, 0⟩] } }, 15, 10,
     .gateway, false, true,
     (let s : State := { up with noc := { up.noc with mesh := [⟨{ aFlit 980 0 0 0 with dev := 4095 }, 15, 10, 2, 0, 5, 0⟩] } }; let y : Fin 16 := 15; let x : Fin 16 := 10; let o : NocOut := .gateway; let key := (y.val * 16 + x.val) * 16 + outCode o; let here := heads [] (s.noc.mesh.filter fun m => m.y == y.val && m.x == x.val); let cand := here.filter fun m => s.route m == o && s.credit y.val x.val o m.f.vc; let g := grant (tget s.noc.streak key 0) (fun v => tget s.noc.rot (key * 4 + v) 7) cand; g).get (by decide +kernel),
     by decide +kernel⟩,
   ⟨{ up with noc := { up.noc with mesh := [⟨aFlit 980 0 0 0, 15, 15, 4, 0, 5, 0⟩] } }, 15, 15, .west, false, true,
     (let s : State := { up with noc := { up.noc with mesh := [⟨aFlit 980 0 0 0, 15, 15, 4, 0, 5, 0⟩] } }; let y : Fin 16 := 15; let x : Fin 16 := 15; let o : NocOut := .west; let key := (y.val * 16 + x.val) * 16 + outCode o; let here := heads [] (s.noc.mesh.filter fun m => m.y == y.val && m.x == x.val); let cand := here.filter fun m => s.route m == o && s.credit y.val x.val o m.f.vc; let g := grant (tget s.noc.streak key 0) (fun v => tget s.noc.rot (key * 4 + v) 7) cand; g).get (by decide +kernel),
     by decide +kernel⟩,
   ⟨{ up with noc := { up.noc with tags := [(980 * 1024 + 1023, ⟨0, 0, true, true, false⟩)] } }, 980, 1023,
     ⟨0, 0, true, true, false⟩, by decide +kernel⟩,
   ⟨up.wr (NOC.MAP_SYNC.BUSY) 1, by decide +kernel⟩,
   ⟨sec223, starter, 63, 3, 0#32, can_write (by decide +kernel), by decide +kernel⟩,
   ⟨up.setReg (NOC.MAP_LO.BASE 63).off 0x10000#32, starter, 63, 2, 0x80200000#32, can_write (by decide +kernel),
     by decide +kernel⟩,
   ⟨sec223, starter, can_write (by decide +kernel)⟩,
   ⟨sec223, starter, 1023, can_write (by decide +kernel)⟩⟩
theorem witness_SpanRuns :
    (∃ (s : State) (k : Fin 4), s.spanLocked k.val = false) ∧
    (∃ (s : State) (k : Fin 4) (ws : List Word), s.spanLocked k.val = true ∧ frameGood 1 4 ws = false) ∧
    (∃ (s : State) (k : Fin 4) (ws : List Word), let n := min 16 ((s.port k.val).initRx + 1);
      let peer := wget (ws.getD 2 0) 11 0; s.spanLocked k.val = true ∧ frameGood 1 4 ws = true ∧
      s.bit (SPAN.PORT_STAT.UP k.val) = false ∧ (n < 16 ∨ peer = s.rd SPAN.DEVNUM.NUM)) ∧
    (∃ (s : State) (k : Fin 4) (ws : List Word), let n := min 16 ((s.port k.val).initRx + 1);
      let peer := wget (ws.getD 2 0) 11 0; s.spanLocked k.val = true ∧ frameGood 1 4 ws = true ∧
      s.bit (SPAN.PORT_STAT.UP k.val) = false ∧ 16 ≤ n ∧ peer ≠ s.rd SPAN.DEVNUM.NUM) ∧
    (∃ (s : State) (k : Fin 4) (ws : List Word), s.spanLocked k.val = true ∧ frameGood 2 3 ws = false) ∧
    (∃ (s : State) (k : Fin 4) (ws : List Word), s.spanLocked k.val = true ∧ frameGood 2 3 ws = true ∧
      s.bit (SPAN.PORT_STAT.UP k.val) = true) ∧
    (∃ (s : State) (k : Fin 4) (ws : List Word) (stamp : Nat) (typ : Nat) (n : Nat) (c : Instr), s.spanLocked k.val = true ∧
      (typ, n, c) ∈ ([(3, 21, .spanFlitFrame k ws stamp), (4, 23, .spanFlitrFrame k ws)] : List (Nat × Nat × Instr)) ∧
      frameGood typ n ws = false) ∧
    (∃ (s : State) (k : Fin 4) (ws : List Word) (stamp : Nat) (typ : Nat) (n : Nat) (c : Instr), let u := s.spanAck k.val ws;
      let d := (wget (ws.getD 0 0) 27 16 + 4096 - (u.port k.val).expSeq) % 4096;
      let f := flitOf (wordsNat ((ws.drop 2).take 2)) (BitVec.ofNat 512 (wordsNat ((ws.drop 4).take 16))) (if typ = 4 then wordsNat ((ws.drop 20).take 2) else 0);
      s.spanLocked k.val = true ∧
      (typ, n, c) ∈ ([(3, 21, .spanFlitFrame k ws stamp), (4, 23, .spanFlitrFrame k ws)] : List (Nat × Nat × Instr)) ∧
      frameGood typ n ws = true ∧ s.bit (SPAN.PORT_STAT.UP k.val) = true ∧ d = 0 ∧ (u.port k.val).hasRoom f.vc = false) ∧
    (∃ (s : State) (k : Fin 4) (ws : List Word) (stamp : Nat) (typ : Nat) (n : Nat) (c : Instr), let u := s.spanAck k.val ws;
      let d := (wget (ws.getD 0 0) 27 16 + 4096 - (u.port k.val).expSeq) % 4096;
      let f := flitOf (wordsNat ((ws.drop 2).take 2)) (BitVec.ofNat 512 (wordsNat ((ws.drop 4).take 16))) (if typ = 4 then wordsNat ((ws.drop 20).take 2) else 0);
      let w := u.spanAccept k.val f.vc; s.spanLocked k.val = true ∧
      (typ, n, c) ∈ ([(3, 21, .spanFlitFrame k ws stamp), (4, 23, .spanFlitrFrame k ws)] : List (Nat × Nat × Instr)) ∧
      frameGood typ n ws = true ∧ s.bit (SPAN.PORT_STAT.UP k.val) = true ∧ d = 0 ∧ (u.port k.val).hasRoom f.vc = true ∧
      f.dev = w.rd SPAN.DEVNUM.NUM ∧ typ = 3) ∧
    (∃ (s : State) (k : Fin 4) (ws : List Word) (stamp : Nat) (typ : Nat) (n : Nat) (c : Instr), let u := s.spanAck k.val ws;
      let d := (wget (ws.getD 0 0) 27 16 + 4096 - (u.port k.val).expSeq) % 4096;
      let f := flitOf (wordsNat ((ws.drop 2).take 2)) (BitVec.ofNat 512 (wordsNat ((ws.drop 4).take 16))) (if typ = 4 then wordsNat ((ws.drop 20).take 2) else 0);
      let w := u.spanAccept k.val f.vc; s.spanLocked k.val = true ∧
      (typ, n, c) ∈ ([(3, 21, .spanFlitFrame k ws stamp), (4, 23, .spanFlitrFrame k ws)] : List (Nat × Nat × Instr)) ∧
      frameGood typ n ws = true ∧ s.bit (SPAN.PORT_STAT.UP k.val) = true ∧ d = 0 ∧ (u.port k.val).hasRoom f.vc = true ∧
      f.dev = w.rd SPAN.DEVNUM.NUM ∧ typ = 4) ∧
    (∃ (s : State) (k : Fin 4) (ws : List Word) (stamp : Nat) (typ : Nat) (n : Nat) (c : Instr), let u := s.spanAck k.val ws;
      let d := (wget (ws.getD 0 0) 27 16 + 4096 - (u.port k.val).expSeq) % 4096;
      let f := flitOf (wordsNat ((ws.drop 2).take 2)) (BitVec.ofNat 512 (wordsNat ((ws.drop 4).take 16))) (if typ = 4 then wordsNat ((ws.drop 20).take 2) else 0);
      let w := u.spanAccept k.val f.vc; s.spanLocked k.val = true ∧
      (typ, n, c) ∈ ([(3, 21, .spanFlitFrame k ws stamp), (4, 23, .spanFlitrFrame k ws)] : List (Nat × Nat × Instr)) ∧
      frameGood typ n ws = true ∧ s.bit (SPAN.PORT_STAT.UP k.val) = true ∧ d = 0 ∧ (u.port k.val).hasRoom f.vc = true ∧
      f.dev ≠ w.rd SPAN.DEVNUM.NUM) ∧
    (∃ (s : State) (k : Fin 4) (ws : List Word) (stamp : Nat) (typ : Nat) (n : Nat) (c : Instr), let u := s.spanAck k.val ws;
      let d := (wget (ws.getD 0 0) 27 16 + 4096 - (u.port k.val).expSeq) % 4096; s.spanLocked k.val = true ∧
      (typ, n, c) ∈ ([(3, 21, .spanFlitFrame k ws stamp), (4, 23, .spanFlitrFrame k ws)] : List (Nat × Nat × Instr)) ∧
      frameGood typ n ws = true ∧ s.bit (SPAN.PORT_STAT.UP k.val) = true ∧ 2049 ≤ d) ∧
    (∃ (s : State) (k : Fin 4) (ws : List Word) (stamp : Nat) (typ : Nat) (n : Nat) (c : Instr), let u := s.spanAck k.val ws;
      let d := (wget (ws.getD 0 0) 27 16 + 4096 - (u.port k.val).expSeq) % 4096; s.spanLocked k.val = true ∧
      (typ, n, c) ∈ ([(3, 21, .spanFlitFrame k ws stamp), (4, 23, .spanFlitrFrame k ws)] : List (Nat × Nat × Instr)) ∧
      frameGood typ n ws = true ∧ s.bit (SPAN.PORT_STAT.UP k.val) = true ∧ 0 < d ∧ d < 2049) ∧
    (∃ (s : State) (k : Fin 4), s.bit (SPAN.PORT_STAT.UP k.val) = true ∧ 0 < (s.port k.val).accepted) ∧
    (∃ (s : State) (k : Fin 4) (e : _), let p := s.port k.val; s.bit (SPAN.PORT_STAT.UP k.val) = true ∧
      (s.port k.val).replay.getLast? = some e ∧ p.expiries < 7) ∧
    (∃ (s : State) (k : Fin 4) (e : _), let p := s.port k.val; s.bit (SPAN.PORT_STAT.UP k.val) = true ∧
      (s.port k.val).replay.getLast? = some e ∧ 7 ≤ p.expiries) ∧
    (∃ (s : State) (m : Moving) (src : Option (Nat × Nat)) (rest : List (Moving × Option (Nat × Nat))),
      let u : State := { s with noc := { s.noc with gate := rest } };
      let u := match src with | some p => u.spanFree p.1 m.f.vc | none => u; s.noc.gate = (m, src) :: rest ∧
      u.bit (SPAN.RT.VALID m.f.dev) = false) ∧
    (∃ (s : State) (m : Moving) (src : Option (Nat × Nat)) (rest : List (Moving × Option (Nat × Nat))),
      let u : State := { s with noc := { s.noc with gate := rest } };
      let u := match src with | some p => u.spanFree p.1 m.f.vc | none => u; s.noc.gate = (m, src) :: rest ∧
      u.bit (SPAN.RT.VALID m.f.dev) = true ∧ src = none) ∧
    (∃ (s : State) (m : Moving) (src : Option (Nat × Nat)) (rest : List (Moving × Option (Nat × Nat))) (p : _) (hops : _),
      let u : State := { s with noc := { s.noc with gate := rest } };
      let u := match src with | some p => u.spanFree p.1 m.f.vc | none => u; s.noc.gate = (m, src) :: rest ∧
      u.bit (SPAN.RT.VALID m.f.dev) = true ∧ src = some (p, hops)) ∧
    (∃ (s : State) (k : Fin 4) (q : Req) (w : Word), let en := s.bit (SPAN.PORT_CTL.EN k.val);
      s.canWrite q (0x1101000 + 0x100 * k.val) ∧ wget w 15 0 ≠ 0 ∧ en = false) ∧
    (∃ (s : State) (k : Fin 4) (q : Req) (w : Word), let en := s.bit (SPAN.PORT_CTL.EN k.val);
      s.canWrite q (0x1101000 + 0x100 * k.val) ∧ wget w 15 0 ≠ 0 ∧ en = true ∧ wget w 21 20 = s.rd (SPAN.PORT_CTL.WIDTH k.val)) ∧
    (∃ (s : State) (k : Fin 4) (q : Req) (w : Word), s.canWrite q (0x1101000 + 0x100 * k.val) ∧ wget w 15 0 = 0) :=
  ⟨⟨up, 3, by decide +kernel⟩,
   ⟨((up.wr (SPAN.PORT_CTL.EN 3) 1).wr (LANE.STAT.RX_STATE 56) 5).wr (VAT.LLANE_HI.MAP 0) 0x1000000, 3, [],
     by decide +kernel⟩,
   ⟨(((up.wr (SPAN.PORT_CTL.EN 3) 1).wr (LANE.STAT.RX_STATE 56) 5).wr (VAT.LLANE_HI.MAP 0) 0x1000000).setPort 3 { initRx := 15 },
     3, withCrc (frameHead 1 0 0 0 [] ++ [0#32]), by decide +kernel⟩,
   ⟨(((up.wr (SPAN.PORT_CTL.EN 3) 1).wr (LANE.STAT.RX_STATE 56) 5).wr (VAT.LLANE_HI.MAP 0) 0x1000000).setPort 3 { initRx := 15 },
     3, withCrc (frameHead 1 0 0 0 [] ++ [0x800#32]), by decide +kernel⟩,
   ⟨((up.wr (SPAN.PORT_CTL.EN 3) 1).wr (LANE.STAT.RX_STATE 56) 5).wr (VAT.LLANE_HI.MAP 0) 0x1000000, 3, [],
     by decide +kernel⟩,
   ⟨(((up.wr (SPAN.PORT_CTL.EN 3) 1).wr (LANE.STAT.RX_STATE 56) 5).wr (VAT.LLANE_HI.MAP 0) 0x1000000).wr (SPAN.PORT_STAT.UP 3) 1,
     3, withCrc (frameHead 2 0 0 0 []), by decide +kernel⟩,
   ⟨((up.wr (SPAN.PORT_CTL.EN 3) 1).wr (LANE.STAT.RX_STATE 56) 5).wr (VAT.LLANE_HI.MAP 0) 0x1000000, 3, [], 0, 3, 21,
     .spanFlitFrame 3 [] 0, by decide +kernel, by simp, by decide +kernel⟩,
   ⟨((((up.wr (SPAN.PORT_CTL.EN 3) 1).wr (LANE.STAT.RX_STATE 56) 5).wr (VAT.LLANE_HI.MAP 0) 0x1000000).wr (SPAN.PORT_STAT.UP 3) 1).setPort 3 { recvPerVc := [64, 0, 0, 0] },
     3, withCrc (frameHead 3 0 0 0 [] ++ List.replicate 18 0#32), 0, 3, 21,
     .spanFlitFrame 3 (withCrc (frameHead 3 0 0 0 [] ++ List.replicate 18 0#32)) 0, by decide +kernel, by simp,
     by decide +kernel⟩,
   ⟨(((up.wr (SPAN.PORT_CTL.EN 3) 1).wr (LANE.STAT.RX_STATE 56) 5).wr (VAT.LLANE_HI.MAP 0) 0x1000000).wr (SPAN.PORT_STAT.UP 3) 1,
     3, withCrc (frameHead 3 0 0 0 [] ++ List.replicate 18 0#32), 0, 3, 21,
     .spanFlitFrame 3 (withCrc (frameHead 3 0 0 0 [] ++ List.replicate 18 0#32)) 0, by decide +kernel, by simp,
     by decide +kernel⟩,
   ⟨(((up.wr (SPAN.PORT_CTL.EN 3) 1).wr (LANE.STAT.RX_STATE 56) 5).wr (VAT.LLANE_HI.MAP 0) 0x1000000).wr (SPAN.PORT_STAT.UP 3) 1,
     3, withCrc (frameHead 4 0 0 0 [] ++ List.replicate 20 0#32), 0, 4, 23,
     .spanFlitrFrame 3 (withCrc (frameHead 4 0 0 0 [] ++ List.replicate 20 0#32)), by decide +kernel, by simp,
     by decide +kernel⟩,
   ⟨(((up.wr (SPAN.PORT_CTL.EN 3) 1).wr (LANE.STAT.RX_STATE 56) 5).wr (VAT.LLANE_HI.MAP 0) 0x1000000).wr (SPAN.PORT_STAT.UP 3) 1,
     3, withCrc (frameHead 3 0 0 0 [] ++ [0#32, 0x1000#32] ++ List.replicate 16 0#32), 0, 3, 21,
     .spanFlitFrame 3 (withCrc (frameHead 3 0 0 0 [] ++ [0#32, 0x1000#32] ++ List.replicate 16 0#32)) 0, by decide +kernel,
     by simp, by decide +kernel⟩,
   ⟨(((up.wr (SPAN.PORT_CTL.EN 3) 1).wr (LANE.STAT.RX_STATE 56) 5).wr (VAT.LLANE_HI.MAP 0) 0x1000000).wr (SPAN.PORT_STAT.UP 3) 1,
     3, withCrc (frameHead 3 2049 0 0 [] ++ List.replicate 18 0#32), 0, 3, 21,
     .spanFlitFrame 3 (withCrc (frameHead 3 2049 0 0 [] ++ List.replicate 18 0#32)) 0, by decide +kernel, by simp,
     by decide +kernel⟩,
   ⟨(((up.wr (SPAN.PORT_CTL.EN 3) 1).wr (LANE.STAT.RX_STATE 56) 5).wr (VAT.LLANE_HI.MAP 0) 0x1000000).wr (SPAN.PORT_STAT.UP 3) 1,
     3, withCrc (frameHead 3 2048 0 0 [] ++ List.replicate 18 0#32), 0, 3, 21,
     .spanFlitFrame 3 (withCrc (frameHead 3 2048 0 0 [] ++ List.replicate 18 0#32)) 0, by decide +kernel, by simp,
     by decide +kernel⟩,
   ⟨(up.wr (SPAN.PORT_STAT.UP 3) 1).setPort 3 { accepted := 1 }, 3, by decide +kernel⟩,
   ⟨(up.wr (SPAN.PORT_STAT.UP 3) 1).setPort 3 { replay := [(5, aFlit 980 0 0 0, 0)], expiries := 6 }, 3,
     (5, aFlit 980 0 0 0, 0), by decide +kernel⟩,
   ⟨(up.wr (SPAN.PORT_STAT.UP 3) 1).setPort 3 { replay := [(5, aFlit 980 0 0 0, 0)], expiries := 7 }, 3,
     (5, aFlit 980 0 0 0, 0), by decide +kernel⟩,
   ⟨{ up with noc := { up.noc with gate := [(⟨{ aFlit 980 0 0 0 with dev := 4095 }, 15, 10, 2, 0, 5, 0⟩, none)] } },
     ⟨{ aFlit 980 0 0 0 with dev := 4095 }, 15, 10, 2, 0, 5, 0⟩, none, [], by decide +kernel⟩,
   ⟨{ (up.wr (SPAN.RT.VALID 4095) 1) with noc := { up.noc with gate := [(⟨{ aFlit 980 0 0 0 with dev := 4095 }, 15, 10, 2, 0, 5, 0⟩, none)] } },
     ⟨{ aFlit 980 0 0 0 with dev := 4095 }, 15, 10, 2, 0, 5, 0⟩, none, [], by decide +kernel⟩,
   ⟨{ (up.wr (SPAN.RT.VALID 4095) 1) with noc := { up.noc with gate := [(⟨{ aFlit 980 0 0 0 with dev := 4095 }, 15, 10, 2, 0, 5, 0⟩, some (3, 15))] } },
     ⟨{ aFlit 980 0 0 0 with dev := 4095 }, 15, 10, 2, 0, 5, 0⟩, some (3, 15), [], 3, 15, by decide +kernel⟩,
   ⟨up, 3, starter, 0xFFFF#32, can_write (by decide +kernel), by decide +kernel⟩,
   ⟨((up.wr (SPAN.PORT_CTL.EN 3) 1).wr (LANE.STAT.RX_STATE 56) 5).wr (VAT.LLANE_HI.MAP 0) 0x1000000, 3, starter, 0xFFFF#32,
     can_write (by decide +kernel), by decide +kernel⟩,
   ⟨up, 3, starter, 0#32, can_write (by decide +kernel), by decide +kernel⟩⟩
theorem witness_DramRequestsRun :
    (∃ (s : State) (n : Fin 8) (v : Nat) (d : Tab Int) (hi : Bool) (q : DReq) (rest : List DReq),
      let c := { s.chan n.val with inq := tput (s.chan n.val).inq v rest [], deficit := d, last := if hi then (s.chan n.val).last else v, lastHi := if hi then v else (s.chan n.val).lastHi };
      let b := ((s.setChan n.val c).bump (DDR.LN_CNT n.val v)).fillBars n.val q; s.chOpen n.val = true ∧
      s.admitPick n.val = some (v, d, hi) ∧ tget (s.chan n.val).inq v [] = q :: rest ∧ b.2 = true) ∧
    (∃ (s : State) (n : Fin 8) (v : Nat) (d : Tab Int) (hi : Bool) (q : DReq) (rest : List DReq),
      let c := { s.chan n.val with inq := tput (s.chan n.val).inq v rest [], deficit := d, last := if hi then (s.chan n.val).last else v, lastHi := if hi then v else (s.chan n.val).lastHi };
      let b := ((s.setChan n.val c).bump (DDR.LN_CNT n.val v)).fillBars n.val q; s.chOpen n.val = true ∧
      s.admitPick n.val = some (v, d, hi) ∧ tget (s.chan n.val).inq v [] = q :: rest ∧ b.2 = false ∧ q.wr = true) ∧
    (∃ (s : State) (n : Fin 8) (v : Nat) (d : Tab Int) (hi : Bool) (q : DReq) (rest : List DReq) (h : _),
      let c := { s.chan n.val with inq := tput (s.chan n.val).inq v rest [], deficit := d, last := if hi then (s.chan n.val).last else v, lastHi := if hi then v else (s.chan n.val).lastHi };
      let b := ((s.setChan n.val c).bump (DDR.LN_CNT n.val v)).fillBars n.val q; let u := b.1; let c := u.chan n.val;
      s.chOpen n.val = true ∧ s.admitPick n.val = some (v, d, hi) ∧ tget (s.chan n.val).inq v [] = q :: rest ∧ b.2 = false ∧
      q.wr = false ∧ c.waitingWrite q.line = some h) ∧
    (∃ (s : State) (n : Fin 8) (v : Nat) (d : Tab Int) (hi : Bool) (q : DReq) (rest : List DReq),
      let c := { s.chan n.val with inq := tput (s.chan n.val).inq v rest [], deficit := d, last := if hi then (s.chan n.val).last else v, lastHi := if hi then v else (s.chan n.val).lastHi };
      let b := ((s.setChan n.val c).bump (DDR.LN_CNT n.val v)).fillBars n.val q; let u := b.1; let c := u.chan n.val;
      s.chOpen n.val = true ∧ s.admitPick n.val = some (v, d, hi) ∧ tget (s.chan n.val).inq v [] = q :: rest ∧ b.2 = false ∧
      q.wr = false ∧ c.waitingWrite q.line = none) ∧
    (∃ (s : State) (n : Fin 8), s.chOpen n.val = true ∧ s.admitPick n.val = none) ∧
    (∃ (s : State) (n : Fin 8) (sub : Fin 2) (k : Nat) (q : DReq), s.chOpen n.val = true ∧
      s.issueNext n.val sub.val = some (q, k) ∧ q.wr = false) ∧
    (∃ (s : State) (n : Fin 8) (sub : Fin 2) (k : Nat) (q : DReq), s.chOpen n.val = true ∧
      s.issueNext n.val sub.val = some (q, k) ∧ q.wr = true ∧ q.len = 63) ∧
    (∃ (s : State) (n : Fin 8) (sub : Fin 2) (k : Nat) (q : DReq), let b := (s.takeReq n.val k q).fillBars n.val q;
      s.chOpen n.val = true ∧ s.issueNext n.val sub.val = some (q, k) ∧ q.wr = true ∧ q.len ≠ 63 ∧ b.2 = false) ∧
    (∃ (s : State) (n : Fin 8) (sub : Fin 2) (k : Nat) (q : DReq), let b := (s.takeReq n.val k q).fillBars n.val q;
      s.chOpen n.val = true ∧ s.issueNext n.val sub.val = some (q, k) ∧ q.wr = true ∧ q.len ≠ 63 ∧ b.2 = true) ∧
    (∃ (s : State) (n : Fin 8) (rank : Fin 4) (i : Fin (2 ^ 29)), s.chOpen n.val = true ∧
      s.rd (DDR.CH_CTL.PATROL n.val) ≠ 0 ∧ s.chState n.val = DS.ready ∧ i.val < s.rankLines ∧
      s.mbit (DDR.CH_STAT.FILLED n.val) (s.physRank n.val (rank.val * 2 ^ 30 + i.val)) = true ∧
      (((s.chan n.val).store.any fun q => q.line == rank.val * 2 ^ 30 + i.val) = false)) :=
  ⟨⟨ddr7 6 { inq := [(15, [wrReq])] }, 7, 15, [(15, -1)], true, wrReq, [], by decide +kernel⟩,
   ⟨ddr7 2 { inq := [(15, [wrReq])] }, 7, 15, [(15, -1)], true, wrReq, [], by decide +kernel⟩,
   ⟨ddr7 2 { inq := [(15, [rdReq])], store := [wrReq] }, 7, 15, [(15, -1)], true, rdReq, [],
     (let s : State := ddr7 2 { inq := [(15, [rdReq])], store := [wrReq] }; let n : Fin 8 := 7; let v : Nat := 15; let d : Tab Int := [(15, -1)]; let hi : Bool := true; let q : DReq := rdReq; let rest : List DReq := []; let c := { s.chan n.val with inq := tput (s.chan n.val).inq v rest [], deficit := d, last := if hi then (s.chan n.val).last else v, lastHi := if hi then v else (s.chan n.val).lastHi }; let b := ((s.setChan n.val c).bump (DDR.LN_CNT n.val v)).fillBars n.val q; let u := b.1; let c := u.chan n.val; c.waitingWrite q.line).get (by decide +kernel),
     by decide +kernel⟩,
   ⟨ddr7 2 { inq := [(15, [rdReq])] }, 7, 15, [(15, -1)], true, rdReq, [], by decide +kernel⟩,
   ⟨ddr7 2 {}, 7, by decide +kernel⟩,
   ⟨ddr7 2 { store := [rdReq] }, 7, 0, 0, rdReq, by decide +kernel⟩,
   ⟨ddr7 2 { store := [wrReq] }, 7, 0, 0, wrReq, by decide +kernel⟩,
   ⟨ddr7 2 { store := [{ wrReq with len := 62 }] }, 7, 0, 0, { wrReq with len := 62 }, by decide +kernel⟩,
   ⟨ddr7 6 { store := [{ wrReq with len := 62 }] }, 7, 0, 0, { wrReq with len := 62 }, by decide +kernel⟩,
   ⟨((ddr7 2 {}).wr (DDR.CH_CTL.PATROL 7) 1).wr (DDR.CH_STAT.FILLED 7) 15, 7, 0, 536870911, by decide +kernel⟩⟩
theorem witness_DramUpkeepRuns :
    (∃ (s : State) (n : Fin 8) (sub : Fin 2) (rank : Fin 4),
      let r := if s.bit (DDR.CH_CTL.REF_SB n.val) then 0 else rank.val; let key := sub.val * 4 + r; let c := s.chan n.val;
      let p := tget c.pend key 0; (s.chState n.val = DS.ready ∨ s.chState n.val = DS.filling) ∧
      (s.chan n.val).entering = false ∧ s.rd (DDR.REF.POSTPONE_MAX n.val) ≤ p) ∧
    (∃ (s : State) (n : Fin 8) (sub : Fin 2) (rank : Fin 4),
      let r := if s.bit (DDR.CH_CTL.REF_SB n.val) then 0 else rank.val; let key := sub.val * 4 + r; let c := s.chan n.val;
      let p := tget c.pend key 0; (s.chState n.val = DS.ready ∨ s.chState n.val = DS.filling) ∧
      (s.chan n.val).entering = false ∧ p < s.rd (DDR.REF.POSTPONE_MAX n.val) ∧ s.waits n.val sub.val r true = true) ∧
    (∃ (s : State) (n : Fin 8) (sub : Fin 2) (rank : Fin 4),
      let r := if s.bit (DDR.CH_CTL.REF_SB n.val) then 0 else rank.val; let key := sub.val * 4 + r; let c := s.chan n.val;
      let p := tget c.pend key 0; (s.chState n.val = DS.ready ∨ s.chState n.val = DS.filling) ∧
      (s.chan n.val).entering = false ∧ p < s.rd (DDR.REF.POSTPONE_MAX n.val) ∧ s.waits n.val sub.val r true = false) ∧
    (∃ (s : State) (n : Fin 8) (bank : Fin 256) (row : Nat), s.rd (DDR.PNR.P n.val) ≠ 0 ∧
      tget (s.chan n.val).rows bank.val 0 ≠ row + 1 ∧ s.chOpen n.val = true) ∧
    (∃ (s : State) (n : Fin 8), s.chOpen n.val = true) ∧
    (∃ (s : State) (n : Fin 8) (failed : Fin 16), let mask := failed.val % 2 ^ s.fittedRanks; s.chState n.val = DS.training ∧
      mask ≠ 0) ∧
    (∃ (s : State) (n : Fin 8) (failed : Fin 16), let mask := failed.val % 2 ^ s.fittedRanks; s.chState n.val = DS.training ∧
      mask = 0) ∧
    (∃ (s : State) (n : Fin 8) (r : Fin 4), s.chState n.val = DS.filling ∧ r.val < s.fittedRanks ∧
      s.mbit (DDR.CH_STAT.FILLED n.val) r.val = false ∧ s.chOpen n.val = true) ∧
    (∃ (s : State) (n : Fin 8) (count : Nat), s.rd (DDR.SPARE.STATE n.val) = 2 ∧ s.chOpen n.val = true ∧
      s.rd (DDR.MIG_PTR.LINES n.val) + count + 1 ≤ s.rankLines) ∧
    (∃ (s : State) (n : Fin 8), s.rd (DDR.SPARE.STATE n.val) = 2 ∧ s.rd (DDR.MIG_PTR.LINES n.val) = s.rankLines) ∧
    (∃ (s : State) (n : Fin 8), (s.chan n.val).entering = true) ∧
    (∃ (s : State) (n : Fin 8), (s.chan n.val).leaving = true ∧ s.chState n.val = DS.selfRefresh) :=
  ⟨⟨(ddr7 2 { pend := [(4, 8)] }).wr (DDR.REF.POSTPONE_MAX 7) 8, 7, 1, 3, by decide +kernel⟩,
   ⟨(ddr7 2 { pend := [(7, 7)], store := [{ rdReq with line := 3 * 2 ^ 30 + 1 }, { rdReq with line := 3 * 2 ^ 30 + 2 }, { rdReq with line := 3 * 2 ^ 30 + 4 }] }).wr (DDR.REF.POSTPONE_MAX 7) 8,
     7, 1, 3, by decide +kernel⟩,
   ⟨(ddr7 2 { pend := [(7, 7)] }).wr (DDR.REF.POSTPONE_MAX 7) 8, 7, 1, 3, by decide +kernel⟩,
   ⟨(up.wr (DDR.PNR.P 7) 4095).wr (DDR.CH_STAT.STATE 7) 2, 7, 255, 0, by decide +kernel⟩,
   ⟨ddr7 2 {}, 7, by decide +kernel⟩,
   ⟨ddr7 1 {}, 7, 15, by decide +kernel⟩,
   ⟨ddr7 1 {}, 7, 0, by decide +kernel⟩,
   ⟨ddr7 6 {}, 7, 0, by decide +kernel⟩,
   ⟨((ddr7 2 {}).wr (DDR.SPARE.STATE 7) 2).wr (DDR.MIG_PTR.LINES 7) 536870911, 7, 0, by decide +kernel⟩,
   ⟨((ddr7 2 {}).wr (DDR.SPARE.STATE 7) 2).wr (DDR.MIG_PTR.LINES 7) 536870912, 7, by decide +kernel⟩,
   ⟨ddr7 2 { entering := true }, 7, by decide +kernel⟩,
   ⟨ddr7 3 { leaving := true }, 7, by decide +kernel⟩⟩
theorem witness_DramWritesRun :
    (∃ (s : State) (q : Req) (n : Fin 8) (w : Word), let st := s.chState n.val; s.canWrite q (0x2000000 + 0x10000 * n.val) ∧
      st ≠ DS.absent ∧ wget w 15 8 ≠ 0 ∧ wget w 30 30 = 0 ∧ wget w 29 29 = 0 ∧ (st = DS.uninit ∨ st = DS.fail)) ∧
    (∃ (s : State) (q : Req) (n : Fin 8) (w : Word), let st := s.chState n.val; s.canWrite q (0x2000000 + 0x10000 * n.val) ∧
      st = DS.ready ∧ wget w 15 8 ≠ 0 ∧ wget w 29 29 = 0 ∧ s.rd (DDR.SPARE.STATE n.val) ≠ 2 ∧ (s.chan n.val).entering = false) ∧
    (∃ (s : State) (q : Req) (n : Fin 8), let st := s.chState n.val; s.canWrite q (0x2000000 + 0x10000 * n.val) ∧
      st ≠ DS.ready) ∧
    (∃ (s : State) (q : Req) (n : Fin 8) (w : Word), let st := s.chState n.val; s.canWrite q (0x2000000 + 0x10000 * n.val) ∧
      st ≠ DS.absent ∧ wget w 15 8 ≠ 0 ∧ wget w 31 31 = 0 ∧ wget w 30 30 = 0 ∧ s.rd (DDR.SPARE.STATE n.val) = 1 ∧
      (s.chan n.val).filling = false) ∧
    (∃ (s : State) (q : Req) (n : Fin 8), s.canWrite q (0x2000000 + 0x10000 * n.val) ∧ s.rd (DDR.SPARE.STATE n.val) ≠ 1) ∧
    (∃ (s : State) (q : Req) (n : Fin 8) (w : Word), let st := s.chState n.val; s.canWrite q (0x2000000 + 0x10000 * n.val) ∧
      st ≠ DS.absent ∧ wget w 15 8 ≠ 0 ∧ wget w 31 29 = 0) ∧
    (∃ (s : State) (q : Req) (n : Fin 8) (w : Word) (c : Instr), let st := s.chState n.val;
      s.canWrite q (0x2000000 + 0x10000 * n.val) ∧ (st = DS.absent ∨ wget w 15 8 = 0) ∧
      c ∈ [Instr.channelInit q n w, .channelFill q n w, .migrationStart q n w, .selfRefreshEnter q n w, .selfRefreshExit q n w]) ∧
    (∃ (s : State) (q : Req) (n : Fin 8), s.canWrite q (0x200000C + 0x10000 * n.val) ∧ s.chState n.val = DS.uninit ∧
      s.rd (DDR.SPARE.STATE n.val) ≠ 2) ∧
    (∃ (s : State) (q : Req) (n : Fin 8), s.canWrite q (0x200000C + 0x10000 * n.val) ∧ s.chState n.val = DS.absent) :=
  ⟨⟨ddr7 0 {}, starter, 7, 0x80000100#32, can_write (by decide +kernel), by decide +kernel⟩,
   ⟨ddr7 2 {}, starter, 7, 0x40000100#32, can_write (by decide +kernel), by decide +kernel⟩,
   ⟨ddr7 0 {}, starter, 7, can_write (by decide +kernel), by decide +kernel⟩,
   ⟨(ddr7 2 {}).wr (DDR.SPARE.STATE 7) 1, starter, 7, 0x20000100#32, can_write (by decide +kernel), by decide +kernel⟩,
   ⟨ddr7 0 {}, starter, 7, can_write (by decide +kernel), by decide +kernel⟩,
   ⟨ddr7 0 {}, starter, 7, 0x100#32, can_write (by decide +kernel), by decide +kernel⟩,
   ⟨ddr7 0 {}, starter, 7, 0#32, .channelInit starter 7 0#32, can_write (by decide +kernel), by decide +kernel, by simp⟩,
   ⟨ddr7 0 {}, starter, 7, can_write (by decide +kernel), by decide +kernel⟩,
   ⟨ddr7 5 {}, starter, 7, can_write (by decide +kernel), by decide +kernel⟩⟩
theorem witness_LanesRun :
    (∃ (s : State) (u : Fin 25) (p : Fin 2), s.bit (LANE.QPLL.EN u.val p.val) = true ∧ s.bit (LANE.QREF.REF_OK u.val) = true) ∧
    (∃ (s : State), s.islandUp = true) ∧
    (∃ (s : State) (u : Fin 25), s.bit (LANE.QREF.REF_OK u.val) = true) ∧
    (∃ (s : State) (n : Fin 100), s.rd (LANE.STAT.TX_STATE n.val) = 2 ∧
      s.bit (LANE.QPLL.LOCK (quadOf n.val) (s.rd (LANE.CTL.PLL n.val))) = true) ∧
    (∃ (s : State) (n : Fin 100), s.rd (LANE.STAT.RX_STATE n.val) = 2 ∧ s.bit (LANE.QREF.REF_OK (quadOf n.val)) = true) ∧
    (∃ (s : State) (n : Fin 100), s.rd (LANE.STAT.RX_STATE n.val) = 3) ∧
    (∃ (s : State) (n : Fin 100) (snr : Byte), s.rd (LANE.STAT.RX_STATE n.val) = 4 ∧
      s.rd (LANE.RX_CTL.SNR_MIN n.val) ≤ snr.toNat) ∧
    (∃ (s : State) (n : Fin 100), 3 ≤ s.rd (LANE.STAT.RX_STATE n.val)) ∧
    (∃ (s : State) (n : Fin 100), 2 ≤ s.rd (LANE.STAT.RX_STATE n.val) ∧ s.rd (LANE.STAT.RX_STATE n.val) ≤ 4 ∧
      s.bit (LANE.STAT.NOLOCK n.val) = false) ∧
    (∃ (s : State) (n : Fin 100) (seed : BitVec 31) (bits : BitVec 1024), let r := s.checked n.val seed.toNat bits;
      let starts := s.patSeed n.val (s.rd (LANE.PRBS_CTL.CHK_PAT n.val)) seed.toNat;
      s.bit (LANE.PRBS_CTL.CHK_EN n.val) = true ∧ s.bit (LANE.PRBS_STAT.LOCK n.val) = false ∧
      s.rd (LANE.STAT.RX_STATE n.val) = 5 ∧ starts = true ∧ r.1 = 0) ∧
    (∃ (s : State) (n : Fin 100) (seed : BitVec 31) (bits : BitVec 1024), let r := s.checked n.val seed.toNat bits;
      let starts := s.patSeed n.val (s.rd (LANE.PRBS_CTL.CHK_PAT n.val)) seed.toNat;
      s.bit (LANE.PRBS_CTL.CHK_EN n.val) = true ∧ s.bit (LANE.PRBS_STAT.LOCK n.val) = false ∧
      s.rd (LANE.STAT.RX_STATE n.val) = 5 ∧ (starts = false ∨ r.1 ≠ 0)) ∧
    (∃ (s : State) (n : Fin 100), s.bit (LANE.PRBS_STAT.LOCK n.val) = true) ∧
    (∃ (s : State) (n : Fin 100), s.rd (LANE.CTL.LOOP n.val) = 2) ∧
    (∃ (s : State) (n : Fin 100), s.bit (LANE.INJ_CTL.CONT n.val) = true ∧ s.rd (LANE.STAT.TX_STATE n.val) = 3) :=
  ⟨⟨(up.wr (LANE.QPLL.EN 24 1) 1).wr (LANE.QREF.REF_OK 24) 1, 24, 1, by decide +kernel⟩,
   ⟨(up.wr (LANE.QPLL.EN 24 1) 1).wr (LANE.QREF.REF_OK 24) 1, by decide +kernel⟩,
   ⟨(up.wr (LANE.QPLL.EN 24 1) 1).wr (LANE.QREF.REF_OK 24) 1, 24, by decide +kernel⟩,
   ⟨(up.wr (LANE.STAT.TX_STATE 99) 2).wr (LANE.QPLL.LOCK 24 0) 1, 99, by decide +kernel⟩,
   ⟨(up.wr (LANE.STAT.RX_STATE 99) 2).wr (LANE.QREF.REF_OK 24) 1, 99, by decide +kernel⟩,
   ⟨up.wr (LANE.STAT.RX_STATE 99) 3, 99, by decide +kernel⟩,
   ⟨(up.wr (LANE.STAT.RX_STATE 99) 4).wr (LANE.RX_CTL.SNR_MIN 99) 0, 99, 0#8, by decide +kernel⟩,
   ⟨up.wr (LANE.STAT.RX_STATE 99) 3, 99, by decide +kernel⟩,
   ⟨up.wr (LANE.STAT.RX_STATE 99) 4, 99, by decide +kernel⟩,
   ⟨(up.wr (LANE.PRBS_CTL.CHK_EN 99) 1).wr (LANE.STAT.RX_STATE 99) 5, 99, 1, BitVec.ofNat 1024 (prbs7 1024 1),
     by decide +kernel⟩,
   ⟨(up.wr (LANE.PRBS_CTL.CHK_EN 99) 1).wr (LANE.STAT.RX_STATE 99) 5, 99, 0, 0#1024, by decide +kernel⟩,
   ⟨up.wr (LANE.PRBS_STAT.LOCK 99) 1, 99, by decide +kernel⟩,
   ⟨up.wr (LANE.CTL.LOOP 99) 2, 99, by decide +kernel⟩,
   ⟨(up.wr (LANE.INJ_CTL.CONT 99) 1).wr (LANE.STAT.TX_STATE 99) 3, 99, by decide +kernel⟩⟩
theorem witness_LaneWritesRun :
    (∃ (s : State) (q : Req) (n : Fin 100), s.canWrite q (0x3000000 + 0x1000 * n.val)) ∧
    (∃ (s : State) (q : Req) (n : Fin 100), s.canWrite q (0x3000000 + 0x1000 * n.val)) ∧
    (∃ (s : State) (q : Req) (n : Fin 100), s.canWrite q (0x3000000 + 0x1000 * n.val)) ∧
    (∃ (s : State) (q : Req) (n : Fin 100), s.canWrite q (0x3000000 + 0x1000 * n.val)) ∧
    (∃ (s : State) (q : Req) (n : Fin 100) (w : Word), let old := s.reg (0x3000000 + 0x1000 * n.val);
      s.canWrite q (0x3000000 + 0x1000 * n.val) ∧ wget w 31 30 ≠ 3 ∧ wget w 29 28 ≠ 3 ∧ wget w 15 14 ≠ 3 ∧ wget w 3 0 ≤ 10 ∧
      ((wget w 15 14 = 1 → wget w 31 30 = 2 ∧ wget w 29 28 = 2)) ∧
      ((wget w 27 27 ≠ wget old 27 27 ∨ wget w 26 26 ≠ wget old 26 26 ∨ wget w 23 16 ≠ wget old 23 16 → wget old 31 30 ≠ 2 ∧ wget old 29 28 ≠ 2)) ∧
      rateOk n.val (s.pllKhz (quadOf n.val) (wget w 27 27)) (wget w 26 26) (wget w 23 16) = true ∧
      ((wget w 3 0 ≠ wget old 3 0 → s.laneOnForeign n.val = false)) ∧
      ((wget w 3 0 ≠ 0 → 2 * s.pllKhz (quadOf n.val) (wget w 27 27) / wget w 23 16 ≤ 1200000 * rcDivOf (wget w 3 0)))) ∧
    (∃ (s : State) (q : Req) (n : Fin 100) (w : Word), s.canWrite q (0x3000008 + 0x1000 * n.val + 0) ∧
      (¬ (10 ≤ wget w 31 28 ∧ wget w 31 28 ≤ 14))) ∧
    (∃ (s : State) (q : Req) (n : Fin 100) (w : Word), s.canWrite q (0x3000008 + 0x1000 * n.val + 0) ∧ 10 ≤ wget w 31 28 ∧
      wget w 31 28 ≤ 14) ∧
    (∃ (s : State) (q : Req) (n : Fin 100) (w : Word), let t := fun hi lo => (BitVec.ofNat 8 (wget w hi lo)).toInt;
      let good := (t 31 24).natAbs + (t 23 16).natAbs + (t 15 8).natAbs + (t 7 0).natAbs ≤ 64 ∧ 16 ≤ t 15 8 ∧ (64 ≤ n.val → t 31 24 = 0);
      s.canWrite q (0x3000008 + 0x1000 * n.val + 4) ∧ good) ∧
    (∃ (s : State) (q : Req) (n : Fin 100) (w : Word), let t := fun hi lo => (BitVec.ofNat 8 (wget w hi lo)).toInt;
      let good := (t 31 24).natAbs + (t 23 16).natAbs + (t 15 8).natAbs + (t 7 0).natAbs ≤ 64 ∧ 16 ≤ t 15 8 ∧ (64 ≤ n.val → t 31 24 = 0);
      s.canWrite q (0x3000008 + 0x1000 * n.val + 4) ∧ (¬ good)) ∧
    (∃ (s : State) (q : Req) (n : Fin 100) (w : Word), s.canWrite q (0x3000028 + 0x1000 * n.val) ∧ 10 ≤ wget w 29 24 ∧
      wget w 29 24 ≤ 40) ∧
    (∃ (s : State) (q : Req) (n : Fin 100) (w : Word), s.canWrite q (0x3000028 + 0x1000 * n.val) ∧
      (wget w 29 24 < 10 ∨ 40 < wget w 29 24)) ∧
    (∃ (s : State) (q : Req) (u : Fin 25) (p : Fin 2) (w : Word), let m := wget w 9 0;
      let khz := m * s.rd (LANE.QREF.FREF_KHZ u.val);
      let busy := s.bit (LANE.QPLL.EN u.val p.val) || (List.range 4).any fun j => s.rd (LANE.CTL.PLL (4 * u.val + j)) == p.val && (s.rd (LANE.CTL.TX_PWR (4 * u.val + j)) == 2 || s.rd (LANE.CTL.RX_PWR (4 * u.val + j)) == 2);
      s.canWrite q (0x3000800 + 0x4000 * u.val + 4 * p.val) ∧ ((m ≠ s.rd (LANE.QPLL.N u.val p.val) → busy = false)) ∧ 160 ≤ m ∧
      m ≤ 560 ∧ 40000000 ≤ khz ∧ khz ≤ 56000000) ∧
    (∃ (s : State) (q : Req) (u : Fin 25) (p : Fin 2) (w : Word), let m := wget w 9 0;
      let khz := m * s.rd (LANE.QREF.FREF_KHZ u.val); s.canWrite q (0x3000800 + 0x4000 * u.val + 4 * p.val) ∧
      (m < 160 ∨ 560 < m ∨ khz < 40000000 ∨ 56000000 < khz)) :=
  ⟨⟨up, starter, 99, can_write (by decide +kernel)⟩,
   ⟨up, starter, 99, can_write (by decide +kernel)⟩,
   ⟨up, starter, 99, can_write (by decide +kernel)⟩,
   ⟨up, starter, 99, can_write (by decide +kernel)⟩,
   ⟨up.wr (LANE.QREF.FREF_KHZ 24) 100000, starter, 99, 0x00500000#32, can_write (by decide +kernel), by decide +kernel⟩,
   ⟨up, starter, 99, 0#32, can_write (by decide +kernel), by decide +kernel⟩,
   ⟨up, starter, 99, 0xE0000000#32, can_write (by decide +kernel), by decide +kernel⟩,
   ⟨up, starter, 64, 0x00004000#32, can_write (by decide +kernel), by decide +kernel⟩,
   ⟨up, starter, 64, 0x01004000#32, can_write (by decide +kernel), by decide +kernel⟩,
   ⟨up, starter, 99, 0x28000000#32, can_write (by decide +kernel), by decide +kernel⟩,
   ⟨up, starter, 99, 0x29000000#32, can_write (by decide +kernel), by decide +kernel⟩,
   ⟨up.wr (LANE.QREF.FREF_KHZ 24) 100000, starter, 24, 1, 0x00000190#32, can_write (by decide +kernel), by decide +kernel⟩,
   ⟨up, starter, 24, 1, 159#32, can_write (by decide +kernel), by decide +kernel⟩⟩
theorem witness_FrameEngineRuns :
    (∃ (s : State) (m : Fin 100) (bs : List Byte), s.bit (FEN.PORT_CTL.EN m.val) = true ∧
      s.bit (FEN.PORT_STAT.LINK m.val) = true ∧ bs.length < 64) ∧
    (∃ (s : State) (m : Fin 100) (bs : List Byte) (bad : Bool), let err := bad || !fcsGood bs;
      let refused := err && !s.bit (FEN.RX_CFG.BADFCS m.val); s.bit (FEN.PORT_CTL.EN m.val) = true ∧
      s.bit (FEN.PORT_STAT.LINK m.val) = true ∧ 64 ≤ bs.length ∧ refused = true) ∧
    (∃ (s : State) (m : Fin 100) (bs : List Byte) (bad : Bool), let err := bad || !fcsGood bs;
      let control := !err && (macControl bs).isSome; s.bit (FEN.PORT_CTL.EN m.val) = true ∧
      s.bit (FEN.PORT_STAT.LINK m.val) = true ∧ 64 ≤ bs.length ∧ control = true) ∧
    (∃ (s : State) (m : Fin 100) (bs : List Byte) (bad : Bool), let err := bad || !fcsGood bs;
      let maxlen := s.rd (FEN.PORT_CTL.MAXLEN m.val); let ptpq := s.bit (FEN.RX_CFG.PTPQ_EN m.val) && (ptpAt bs).isSome;
      let queued := ptpq || s.bit (FEN.PORT_CTL.RX_MODE m.val); let refused := err && !s.bit (FEN.RX_CFG.BADFCS m.val);
      let control := !err && (macControl bs).isSome; s.bit (FEN.PORT_CTL.EN m.val) = true ∧
      s.bit (FEN.PORT_STAT.LINK m.val) = true ∧ 64 ≤ bs.length ∧ refused = false ∧ control = false ∧ queued = true ∧
      maxlen < bs.length) ∧
    (∃ (s : State) (m : Fin 100) (bs : List Byte) (bad : Bool) (taken : Bool), let err := bad || !fcsGood bs;
      let maxlen := s.rd (FEN.PORT_CTL.MAXLEN m.val); let ptpq := s.bit (FEN.RX_CFG.PTPQ_EN m.val) && (ptpAt bs).isSome;
      let queued := ptpq || s.bit (FEN.PORT_CTL.RX_MODE m.val); let refused := err && !s.bit (FEN.RX_CFG.BADFCS m.val);
      let control := !err && (macControl bs).isSome; s.bit (FEN.PORT_CTL.EN m.val) = true ∧
      s.bit (FEN.PORT_STAT.LINK m.val) = true ∧ 64 ≤ bs.length ∧ refused = false ∧ control = false ∧ queued = true ∧
      bs.length ≤ maxlen ∧ taken = false) ∧
    (∃ (s : State) (m : Fin 100) (bs : List Byte) (bad : Bool) (taken : Bool), let err := bad || !fcsGood bs;
      let maxlen := s.rd (FEN.PORT_CTL.MAXLEN m.val); let ptpq := s.bit (FEN.RX_CFG.PTPQ_EN m.val) && (ptpAt bs).isSome;
      let queued := ptpq || s.bit (FEN.PORT_CTL.RX_MODE m.val); let refused := err && !s.bit (FEN.RX_CFG.BADFCS m.val);
      let control := !err && (macControl bs).isSome; s.bit (FEN.PORT_CTL.EN m.val) = true ∧
      s.bit (FEN.PORT_STAT.LINK m.val) = true ∧ 64 ≤ bs.length ∧ refused = false ∧ control = false ∧
      ((queued = true → bs.length ≤ maxlen ∧ taken = true)) ∧ queued = true) ∧
    (∃ (s : State) (m : Fin 100) (bs : List Byte) (bad : Bool) (taken : Bool), let err := bad || !fcsGood bs;
      let maxlen := s.rd (FEN.PORT_CTL.MAXLEN m.val); let ptpq := s.bit (FEN.RX_CFG.PTPQ_EN m.val) && (ptpAt bs).isSome;
      let queued := ptpq || s.bit (FEN.PORT_CTL.RX_MODE m.val); let refused := err && !s.bit (FEN.RX_CFG.BADFCS m.val);
      let control := !err && (macControl bs).isSome; s.bit (FEN.PORT_CTL.EN m.val) = true ∧
      s.bit (FEN.PORT_STAT.LINK m.val) = true ∧ 64 ≤ bs.length ∧ refused = false ∧ control = false ∧
      ((queued = true → bs.length ≤ maxlen ∧ taken = true)) ∧ queued = false) ∧
    (∃ (s : State) (m : Fin 100), s.bit (FEN.PORT_CTL.EN m.val) = true ∧ s.bit (FEN.PORT_STAT.LINK m.val) = false ∧
      s.portLocked m.val = true) ∧
    (∃ (s : State) (k : Fin 96) (bs : List Byte) (abort : Bool) (fid : Option (BitVec 16)) (partly : Bool),
      let long := decide (s.rd (FEN.PORT_CTL.MAXLEN k.val) < bs.length + 4);
      let f : TxF := { q := none, bytes := bs, fid := fid.map (·.toNat), abort := abort || long || s.portPaused k.val, cls := s.rd (FEN.TX_CFG.FAB_CLS k.val) };
      let p := s.fport k.val; s.bit (FEN.PORT_CTL.EN k.val) = true ∧ s.rd (FEN.PORT_CTL.TX_SRC k.val) ≠ 1 ∧ bs ≠ [] ∧
      ((partly = true ∨ s.txReady k.val = true)) ∧ storeSegs p.store + f.segs ≤ 1024 ∧ s.bit (FEN.PORT_STAT.LINK k.val) = false) ∧
    (∃ (s : State) (k : Fin 96) (bs : List Byte) (abort : Bool) (fid : Option (BitVec 16)) (partly : Bool),
      let long := decide (s.rd (FEN.PORT_CTL.MAXLEN k.val) < bs.length + 4);
      let f : TxF := { q := none, bytes := bs, fid := fid.map (·.toNat), abort := abort || long || s.portPaused k.val, cls := s.rd (FEN.TX_CFG.FAB_CLS k.val) };
      let p := s.fport k.val; let staged := s.setFport k.val { p with store := p.store ++ [f] };
      s.bit (FEN.PORT_CTL.EN k.val) = true ∧ s.rd (FEN.PORT_CTL.TX_SRC k.val) ≠ 1 ∧ bs ≠ [] ∧
      ((partly = true ∨ s.txReady k.val = true)) ∧ storeSegs p.store + f.segs ≤ 1024 ∧
      s.bit (FEN.PORT_STAT.LINK k.val) = true ∧ ((p.store.any (fun x => x.q.isNone) = true ∨ staged.nextTx k.val ≠ some f))) ∧
    (∃ (s : State) (k : Fin 96) (bs : List Byte) (abort : Bool) (fid : Option (BitVec 16)) (partly : Bool),
      let long := decide (s.rd (FEN.PORT_CTL.MAXLEN k.val) < bs.length + 4);
      let f : TxF := { q := none, bytes := bs, fid := fid.map (·.toNat), abort := abort || long || s.portPaused k.val, cls := s.rd (FEN.TX_CFG.FAB_CLS k.val) };
      let p := s.fport k.val; let staged := s.setFport k.val { p with store := p.store ++ [f] };
      s.bit (FEN.PORT_CTL.EN k.val) = true ∧ s.rd (FEN.PORT_CTL.TX_SRC k.val) ≠ 1 ∧ bs ≠ [] ∧
      ((partly = true ∨ s.txReady k.val = true)) ∧ storeSegs p.store + f.segs ≤ 1024 ∧
      s.bit (FEN.PORT_STAT.LINK k.val) = true ∧ (p.store.any (fun x => x.q.isNone) = false) ∧ staged.nextTx k.val = some f) :=
  ⟨⟨((up.wr (FEN.PORT_CTL.EN 99) 1).wr (FEN.PORT_STAT.LINK 99) 1).wr (FEN.PORT_CTL.MAXLEN 99) 64, 99, List.replicate 63 0#8,
     by decide +kernel⟩,
   ⟨((up.wr (FEN.PORT_CTL.EN 99) 1).wr (FEN.PORT_STAT.LINK 99) 1).wr (FEN.PORT_CTL.MAXLEN 99) 64, 99, aFrame 9 64, true,
     by decide +kernel⟩,
   ⟨((up.wr (FEN.PORT_CTL.EN 99) 1).wr (FEN.PORT_STAT.LINK 99) 1).wr (FEN.PORT_CTL.MAXLEN 99) 64, 99, aFrame 0x88 64, false,
     by decide +kernel⟩,
   ⟨(((up.wr (FEN.PORT_CTL.EN 99) 1).wr (FEN.PORT_STAT.LINK 99) 1).wr (FEN.PORT_CTL.MAXLEN 99) 64).wr (FEN.PORT_CTL.RX_MODE 99) 1,
     99, aFrame 9 65, false, by decide +kernel⟩,
   ⟨(((up.wr (FEN.PORT_CTL.EN 99) 1).wr (FEN.PORT_STAT.LINK 99) 1).wr (FEN.PORT_CTL.MAXLEN 99) 64).wr (FEN.PORT_CTL.RX_MODE 99) 1,
     99, aFrame 9 64, false, false, by decide +kernel⟩,
   ⟨(((up.wr (FEN.PORT_CTL.EN 99) 1).wr (FEN.PORT_STAT.LINK 99) 1).wr (FEN.PORT_CTL.MAXLEN 99) 64).wr (FEN.PORT_CTL.RX_MODE 99) 1,
     99, aFrame 9 64, false, true, by decide +kernel⟩,
   ⟨((up.wr (FEN.PORT_CTL.EN 99) 1).wr (FEN.PORT_STAT.LINK 99) 1).wr (FEN.PORT_CTL.MAXLEN 99) 64, 99, aFrame 9 64, false,
     true, by decide +kernel⟩,
   ⟨(up.wr (FEN.PORT_CTL.EN 99) 1).wr (LANE.STAT.RX_STATE 99) 5, 99, by decide +kernel⟩,
   ⟨up.wr (FEN.PORT_CTL.EN 95) 1, 95, [0#8], false, some 0xFFFF#16, true, by decide +kernel⟩,
   ⟨(((up.setFport 95 { store := [{ q := none, bytes := [1#8] }] })).wr (FEN.PORT_CTL.EN 95) 1).wr (FEN.PORT_STAT.LINK 95) 1,
     95, [0#8], false, some 0xFFFF#16, true, by decide +kernel⟩,
   ⟨((up.wr (FEN.PORT_CTL.EN 95) 1).wr (FEN.PORT_STAT.LINK 95) 1).wr (FEN.PORT_CTL.MAXLEN 95) 64, 95, [0#8], false,
     some 0xFFFF#16, true, by decide +kernel⟩⟩
theorem witness_QueuesRun :
    (∃ (s : State) (n : Fin 65536) (f : HeldF) (rest : List HeldF) (u : State), let k := s.rd (QM.CIDX.CIDX n.val);
      tget s.fen.held n.val [] = f :: rest ∧ s.qRuns n.val = true ∧ s.bit (QM.QCFG.DIR n.val) = true ∧
      s.qAvail n.val (s.rd (QM.PIDX.PIDX n.val)) ≠ 0 ∧ s.initHeld (s.qReq n.val).id = false ∧ s.fetchDesc n.val k = (u, none)) ∧
    (∃ (s : State) (n : Fin 65536) (f : HeldF) (rest : List HeldF) (u : State) (d : List Byte),
      let k := s.rd (QM.CIDX.CIDX n.val); tget s.fen.held n.val [] = f :: rest ∧ s.qRuns n.val = true ∧
      s.bit (QM.QCFG.DIR n.val) = true ∧ s.qAvail n.val (s.rd (QM.PIDX.PIDX n.val)) ≠ 0 ∧
      s.initHeld (s.qReq n.val).id = false ∧ s.fetchDesc n.val k = (u, some d) ∧ descW d 2 % 2 ^ 14 < f.bytes.length) ∧
    (∃ (s : State) (n : Fin 65536) (f : HeldF) (rest : List HeldF) (u : State) (d : List Byte),
      let k := s.rd (QM.CIDX.CIDX n.val); tget s.fen.held n.val [] = f :: rest ∧ s.qRuns n.val = true ∧
      s.bit (QM.QCFG.DIR n.val) = true ∧ s.qAvail n.val (s.rd (QM.PIDX.PIDX n.val)) ≠ 0 ∧
      s.initHeld (s.qReq n.val).id = false ∧ s.fetchDesc n.val k = (u, some d) ∧ f.bytes.length ≤ descW d 2 % 2 ^ 14) ∧
    (∃ (s : State) (m : Fin 96), s.bit (FEN.PORT_CTL.EN m.val) = true ∧ s.rd (FEN.PORT_CTL.TX_SRC m.val) ≠ 0) ∧
    (∃ (s : State) (m : Fin 96) (f : TxF) (t : List TxF),
      (((s.fport m.val).store.filter fun f => match f.launch with | some t => decide (s.startOf m.val t ≤ s.portNow m.val) && !(s.fport m.val).holds f.cls && !s.qPaused (f.q.getD 0) && ((s.fport m.val).store.find? fun x => x.q == f.q) == some f | none => false) = f :: t) ∧
      s.bit (FEN.PORT_STAT.LINK m.val) = true ∧ (s.fport m.val).wire = none) ∧
    (∃ (s : State) (n : Fin 65536) (f : TxF), let m := s.rd (QM.QCFG.PORT n.val); let p := s.fport m;
      let staged := p.store.find? fun f => f.q == some n.val && f.launch.isSome; s.bit (QM.QCFG.EN n.val) = true ∧
      s.bit (QM.QCFG.DIR n.val) = false ∧ s.qPaused n.val = false ∧ staged = some f ∧
      s.startOf m (f.launch.getD 0) ≤ s.portNow m ∧ s.bit (QM.QCFG.LATE_DROP n.val) = true) ∧
    (∃ (s : State) (n : Fin 65536) (f : TxF), let m := s.rd (QM.QCFG.PORT n.val); let p := s.fport m;
      let staged := p.store.find? fun f => f.q == some n.val && f.launch.isSome; s.bit (QM.QCFG.EN n.val) = true ∧
      s.bit (QM.QCFG.DIR n.val) = false ∧ s.qPaused n.val = false ∧ staged = some f ∧
      s.startOf m (f.launch.getD 0) ≤ s.portNow m ∧ s.bit (QM.QCFG.LATE_DROP n.val) = false) ∧
    (∃ (s : State) (n : Fin 65536) (u : State) (d : List Byte) (t : Nat), let m := s.rd (QM.QCFG.PORT n.val);
      let p := s.fport m; let k := (s.rd (QM.CIDX.CIDX n.val) + s.qInFlight m n.val) % 65536;
      let staged := p.store.find? fun f => f.q == some n.val && f.launch.isSome; s.bit (QM.QCFG.EN n.val) = true ∧
      s.bit (QM.QCFG.DIR n.val) = false ∧ s.qPaused n.val = false ∧ staged = none ∧ s.qRuns n.val = true ∧
      s.initHeld (s.qReq n.val).id = false ∧ s.qInFlight m n.val < s.qAvail n.val (s.rd (QM.PIDX.PIDX n.val)) ∧
      s.fetchDesc n.val k = (u, some d) ∧ descLaunch d = some t) ∧
    (∃ (s : State) (m : Fin 100) (f : TxF), let p := s.fport m.val; p.wire = some f) ∧
    (∃ (s : State) (m : Fin 100) (f : TxF), let p := s.fport m.val; p.wire = none ∧ s.bit (FEN.PORT_CTL.EN m.val) = true ∧
      s.nextTx m.val = some f) ∧
    (∃ (s : State) (m : Fin 100), let p := s.fport m.val; p.wire = none ∧
      (s.bit (FEN.PORT_CTL.EN m.val) = false ∨ s.nextTx m.val = none)) :=
  ⟨⟨heldBad, 65535, ⟨aFrame 9 64, 0, 0, 1, false, []⟩, [], (heldBad.fetchDesc 65535 0).1, by decide +kernel,
     by decide +kernel, by decide +kernel, by decide +kernel, by decide +kernel, no_desc (by decide +kernel)⟩,
   ⟨heldOf 63, 65535, ⟨aFrame 9 64, 0, 0, 1, false, []⟩, [], ((heldOf 63).fetchDesc 65535 0).1, rxDesc 63,
     by decide +kernel, by decide +kernel, by decide +kernel, by decide +kernel, by decide +kernel,
     a_desc _ (by decide +kernel), by decide +kernel⟩,
   ⟨heldOf 64, 65535, ⟨aFrame 9 64, 0, 0, 1, false, []⟩, [], ((heldOf 64).fetchDesc 65535 0).1, rxDesc 64,
     by decide +kernel, by decide +kernel, by decide +kernel, by decide +kernel, by decide +kernel,
     a_desc _ (by decide +kernel), by decide +kernel⟩,
   ⟨(up.wr (FEN.PORT_CTL.EN 95) 1).wr (FEN.PORT_CTL.TX_SRC 95) 1, 95, by decide +kernel⟩,
   ⟨(txQu []).setFport 95 { store := [aTx] }, 95, aTx, [], by decide +kernel⟩,
   ⟨(((txQu []).setFport 95 { store := [aTx] })).wr (QM.QCFG.LATE_DROP 65535) 1, 65535, aTx, by decide +kernel⟩,
   ⟨(txQu []).setFport 95 { store := [aTx] }, 65535, aTx, by decide +kernel⟩,
   ⟨txQu [0#64, 0x80000040#64, 0#64, 0#64], 65535, ((txQu [0#64, 0x80000040#64, 0#64, 0#64]).fetchDesc 65535 0).1, txDesc,
     0, by decide +kernel, by decide +kernel, by decide +kernel, by decide +kernel, by decide +kernel, by decide +kernel,
     by decide +kernel, a_desc _ (by decide +kernel), by decide +kernel⟩,
   ⟨up.setFport 99 { wire := some aTx }, 99, aTx, by decide +kernel⟩,
   ⟨((((up.setFport 99 { store := [stTx] })).wr (FEN.PORT_CTL.EN 99) 1).wr (FEN.PORT_STAT.LINK 99) 1).wr (FEN.PORT_CTL.MAXLEN 99) 64,
     99, stTx, by decide +kernel⟩,
   ⟨up, 99, by decide +kernel⟩⟩
theorem witness_FrameWritesRun :
    (∃ (s : State) (q : Req) (w : Word) (m : Fin 100), let t := s.openGroup (0x4000000 + 0x1000 * m.val);
      s.canWrite q (0x4000000 + 0x1000 * m.val) ∧ wget w 29 28 ≠ 3 ∧ wget w 23 20 ≠ 0xF ∧ 64 ≤ wget w 19 6 ∧
      t.bit (FEN.PORT_CTL.EN m.val) = false ∧ (t.wrb (FEN.PORT_CTL.EN m.val) false).portFits m.val (wget w 23 20) = true) ∧
    (∃ (s : State) (q : Req) (w : Word) (m : Fin 100), let t := s.openGroup (0x4000000 + 0x1000 * m.val);
      s.canWrite q (0x4000000 + 0x1000 * m.val) ∧ wget w 29 28 ≠ 3 ∧ wget w 23 20 ≠ 0xF ∧ 64 ≤ wget w 19 6 ∧
      t.bit (FEN.PORT_CTL.EN m.val) = true) ∧
    (∃ (s : State) (q : Req) (w : Word) (m : Fin 100),
      let u := (s.openGroup (0x4000018 + 0x1000 * m.val)).setReg (0x4000018 + 0x1000 * m.val) ((w ||| 0x80000000#32) &&& (wmask 30 30 ||| wmask 23 0));
      s.canWrite q (0x4000018 + 0x1000 * m.val) ∧ u.bit (FEN.PORT_CTL.EN m.val) = true) ∧
    (∃ (s : State) (q : Req) (w : Word) (m : Fin 100),
      let u := (s.openGroup (0x4000018 + 0x1000 * m.val)).setReg (0x4000018 + 0x1000 * m.val) ((w ||| 0x80000000#32) &&& (wmask 30 30 ||| wmask 23 0));
      s.canWrite q (0x4000018 + 0x1000 * m.val) ∧ u.bit (FEN.PORT_CTL.EN m.val) = false) ∧
    (∃ (s : State) (q : Req) (w : Word) (n : Fin 65536), let t := s.openGroup (0x4900000 + 0x20 * n.val);
      s.canWrite q (0x4900000 + 0x20 * n.val) ∧ wget w 23 16 ≠ 0 ∧ 3 ≤ wget w 15 12 ∧ wget w 7 0 < 96 ∧
      t.vatOfLane (wget w 7 0) = t.vatOfQueue n.val ∧ t.bit (QM.QCFG.EN n.val) = false) ∧
    (∃ (s : State) (q : Req) (w : Word) (n : Fin 65536), let t := s.openGroup (0x4900000 + 0x20 * n.val);
      let mask := wmask 31 28 ||| wmask 26 12 ||| wmask 7 0; s.canWrite q (0x4900000 + 0x20 * n.val) ∧ wget w 23 16 ≠ 0 ∧
      3 ≤ wget w 15 12 ∧ wget w 7 0 < 96 ∧ t.vatOfLane (wget w 7 0) = t.vatOfQueue n.val ∧ t.bit (QM.QCFG.EN n.val) = true ∧
      wset ((w &&& 0x7FFFFFFF#32) &&& mask) 31 31 0 = wset (t.reg (0x4900000 + 0x20 * n.val)) 31 31 0) ∧
    (∃ (s : State) (q : Req) (n : Fin 65536), s.canWrite q (0x490000C + 0x20 * n.val)) ∧
    (∃ (s : State) (q : Req), s.canWrite q 0x4800014) :=
  ⟨⟨((up.wr (LANE.QREF.FREF_KHZ 23) 100000).wr (LANE.QPLL.N 23 0) 400).wr (LANE.CTL.DIV 95) 64, starter, 0x00101000#32, 95,
     can_write (by decide +kernel), by decide +kernel⟩,
   ⟨up.wr (FEN.PORT_CTL.EN 95) 1, starter, 0x00001000#32, 95, can_write (by decide +kernel), by decide +kernel⟩,
   ⟨up.wr (FEN.PORT_CTL.EN 95) 1, starter, 0#32, 95, can_write (by decide +kernel), by decide +kernel⟩,
   ⟨up, starter, 0#32, 95, can_write (by decide +kernel), by decide +kernel⟩,
   ⟨(up.wr (VAT.QCNT.CNT 0) 65536).wr (VAT.SLANE.MAP 0) 0x80000000, starter, 0x0001305F#32, 65535,
     can_write (by decide +kernel), by decide +kernel⟩,
   ⟨(((up.wr (VAT.QCNT.CNT 0) 65536).wr (VAT.SLANE.MAP 0) 0x80000000).setReg 0x4AFFFE0 0x8001305F#32), starter,
     0x0001305F#32, 65535, can_write (by decide +kernel), by decide +kernel⟩,
   ⟨up, starter, 65535, can_write (by decide +kernel)⟩,
   ⟨up, starter, can_write (by decide +kernel)⟩⟩
theorem witness_ProcessorsRun :
    (∃ (s : State) (c : Fin 6) (r : CpuRun), let t := s.cpuRan c.val r; let p := t.proc c.val; let fs := p.getCsr csrFstatus;
      (s.fastOffered c.val = none ∨ fs.getLsbD 0 = false ∨ fs.getLsbD 1 = true ∨ s.procRuns c.val = false ∨ s.procHalted c.val = true)) ∧
    (∃ (s : State) (c : Fin 6) (r : CpuRun) (i : _), let t := s.cpuRan c.val r; let p := t.proc c.val;
      let fs := p.getCsr csrFstatus; s.fastOffered c.val = some i ∧ fs.getLsbD 0 = true ∧ fs.getLsbD 1 = false ∧
      s.procRuns c.val = true ∧ s.procHalted c.val = false) ∧
    (∃ (s : State) (c : Fin 6), (s.procRuns c.val = false ∨ s.procHalted c.val = true)) ∧
    (∃ (s : State) (c : Fin 6) (r : CpuRun), let t := s.cpuRan c.val r; let p := t.proc c.val; let fs := p.getCsr csrFstatus;
      s.procRuns c.val = true ∧ s.procHalted c.val = false ∧ fs.getLsbD 1 = true) ∧
    (∃ (s : State) (c : Fin 6) (x : CpuLoad), let t := s.cpuRan c.val x.run;
      let poisoned : Bool := match ramWord c.val x.addr with | some w => (tget t.cores.ram w (0, false)).2 | none => true;
      (poisoned = false ∨ s.procRuns c.val = false ∨ s.procHalted c.val = true)) ∧
    (∃ (s : State) (c : Fin 6) (x : CpuLoad), let t := s.cpuRan c.val x.run;
      let poisoned : Bool := match ramWord c.val x.addr with | some w => (tget t.cores.ram w (0, false)).2 | none => true;
      poisoned = true ∧ s.procRuns c.val = true ∧ s.procHalted c.val = false) ∧
    (∃ (st : Fin 6), statusOf st.val = .okay) ∧
    (∃ (s : State) (c : Fin 6) (st : Fin 6), let p := s.proc c.val; statusOf st.val ≠ .okay ∧
      (p.getCsr csrMsterr).getLsbD 31 = true) ∧
    (∃ (s : State) (c : Fin 6) (st : Fin 6), let p := s.proc c.val; statusOf st.val ≠ .okay ∧
      (p.getCsr csrMsterr).getLsbD 31 = false) ∧
    (∃ (s : State) (k : Fin 4), let due := s.rd64 (SVC.MTIMECMP_LO.CMP k.val).off (SVC.MTIMECMP_HI.CMP k.val).off ≤ s.mtime;
      due) ∧
    (∃ (s : State) (k : Fin 4), let due := s.rd64 (SVC.MTIMECMP_LO.CMP k.val).off (SVC.MTIMECMP_HI.CMP k.val).off ≤ s.mtime;
      (¬ due)) ∧
    (∃ (s : State) (q : Req) (k : Fin 5) (w : Word), s.canWrite q (0x6300000 + 0x20 * k.val) ∧
      (w.getLsbD 30 = true ∨ s.bit (SVC.CORE_CTL.RUN k.val) = false)) ∧
    (∃ (s : State) (q : Req) (k : Fin 5) (w : Word), s.canWrite q (0x6300000 + 0x20 * k.val) ∧ w.getLsbD 30 = false ∧
      s.bit (SVC.CORE_CTL.RUN k.val) = true) :=
  ⟨⟨up.wr (SVC.CORE_CTL.RUN 4) 1, 5, { pc := 0, csr := [(0x7C3, 1)] }, by decide +kernel⟩,
   ⟨((({ up with irq := { up.irq with offer := [(1023, 6)] } } : State)).wr (SVC.CORE_CTL.RUN 4) 1).wr (IRQ.SRC_CFG.CLASS 1023) 1,
     5, { pc := 0, csr := [(0x7C3, 1)] }, 1023, by decide +kernel⟩,
   ⟨up, 5, by decide +kernel⟩,
   ⟨(up.setProc 5 { csr := [(0x7C3, 2)] }).wrb (SVC.CORE_CTL.RUN 4) true, 5, { pc := 0 }, by decide +kernel⟩,
   ⟨up, 5, ⟨true, 0, { pc := 0 }⟩, by decide +kernel⟩,
   ⟨up.wr (SVC.CORE_CTL.RUN 4) 1, 5, ⟨true, 0, { pc := 0 }⟩, by decide +kernel⟩,
   ⟨0, by decide +kernel⟩,
   ⟨up.setProc 5 { csr := [(0x7C5, 0x80000000)] }, 5, 5, by decide +kernel⟩,
   ⟨up.wr (SVC.CORE_CTL.RUN 4) 1, 5, 5, by decide +kernel⟩,
   ⟨(up.wr (SVC.MTIMECMP_LO.CMP 3) 0).wr (SVC.MTIMECMP_HI.CMP 3) 0, 3, by decide +kernel⟩,
   ⟨up.wr (SVC.MTIMECMP_LO.CMP 3) 1, 3, by decide +kernel⟩,
   ⟨up.wr (SVC.CORE_CTL.RUN 4) 1, starter, 4, 0x40000000#32, can_write (by decide +kernel), by decide +kernel⟩,
   ⟨up.wr (SVC.CORE_CTL.RUN 4) 1, starter, 4, 0x80000000#32, can_write (by decide +kernel), by decide +kernel⟩⟩
theorem witness_InterruptsRun :
    (∃ (i : Fin 976), hasProducer i.val = true) ∧
    (∃ (i : Fin 976), hasProducer i.val = false) ∧
    (∃ (s : State) (i : Fin 128), s.bit (IRQ.SRC_CFG.WAKE (832 + i.val)) = false) ∧
    (∃ (s : State) (i : Fin 128), s.bit (IRQ.SRC_CFG.WAKE (832 + i.val)) = true ∧ s.powered = true) ∧
    (∃ (s : State) (i : Fin 128), s.bit (IRQ.SRC_CFG.WAKE (832 + i.val)) = true ∧ s.powered = false) ∧
    (∃ (s : State) (q : Req) (c : Fin 6) (w : Word), let i := wget w 9 0; s.canWrite q (0x6002008 + 0x40 * c.val) ∧
      (s.proc c.val).normSrc ≠ some i) ∧
    (∃ (s : State) (q : Req) (c : Fin 6) (w : Word), let i := wget w 9 0; s.canWrite q (0x6002008 + 0x40 * c.val) ∧
      (s.proc c.val).normSrc = some i) ∧
    (∃ (s : State) (q : Req) (k : Fin 32), s.canWrite q (0x6001000 + 4 * k.val)) ∧
    (∃ (s : State) (q : Req) (w : Word), s.canWrite q 0x6001100 ∧ 47 < wget w 5 0) ∧
    (∃ (s : State) (q : Req) (w : Word), s.canWrite q 0x6001100 ∧ wget w 5 0 ≤ 47 ∧ w.getLsbD 31 = true) ∧
    (∃ (s : State) (q : Req) (w : Word), s.canWrite q 0x6001100 ∧ wget w 5 0 ≤ 47 ∧ w.getLsbD 31 = false) ∧
    (∃ (s : State) (q : Req) (v : Fin 16) (w : Word), let k := wget w 4 0; s.canWrite q (0x6080004 + 0x1000 * v.val) ∧
      tget s.irq.vclaim v.val 0 ≠ k + 1) ∧
    (∃ (s : State) (q : Req) (v : Fin 16) (w : Word), let k := wget w 4 0; s.canWrite q (0x6080004 + 0x1000 * v.val) ∧
      tget s.irq.vclaim v.val 0 = k + 1) :=
  ⟨⟨127, by decide +kernel⟩,
   ⟨975, by decide +kernel⟩,
   ⟨up, 127, by decide +kernel⟩,
   ⟨up.wr (IRQ.SRC_CFG.WAKE 959) 1, 127, by decide +kernel⟩,
   ⟨(up.wr (IRQ.SRC_CFG.WAKE 959) 1).wr (PWR.MODE_STAT.MODE) 0, 127, by decide +kernel⟩,
   ⟨up, starter, 0, 1023#32, can_write (by decide +kernel), by decide +kernel⟩,
   ⟨up.setProc 0 { normSrc := some 1023 }, starter, 0, 1023#32, can_write (by decide +kernel), by decide +kernel⟩,
   ⟨up, starter, 31, can_write (by decide +kernel)⟩,
   ⟨up, starter, 48#32, can_write (by decide +kernel), by decide +kernel⟩,
   ⟨up, starter, 0x8000002F#32, can_write (by decide +kernel), by decide +kernel⟩,
   ⟨up, starter, 47#32, can_write (by decide +kernel), by decide +kernel⟩,
   ⟨up, starter, 15, 1023#32, can_write (by decide +kernel), by decide +kernel⟩,
   ⟨{ up with irq := { up.irq with vclaim := [(15, 32)] } }, starter, 15, 1023#32, can_write (by decide +kernel),
     by decide +kernel⟩⟩
theorem witness_ServicePortsRun :
    (∃ (s : State) (k : Fin 20), s.svcEn k.val = false) ∧
    (∃ (s : State) (k : Fin 20), let p := s.svcPort k.val; s.svcEn k.val = true ∧ 64 ≤ p.rx.length) ∧
    (∃ (s : State) (k : Fin 20), let p := s.svcPort k.val; s.svcEn k.val = true ∧ p.rx.length < 64) ∧
    (∃ (s : State) (k : Fin 20) (ws : List (BitVec 16)),
      let t := if (s.svcEn k.val && s.svcFabric k.val) = true then ws.foldl (fun (t : State) w => (t.txPush k.val w).1) s else s;
      let r := t.svcPort k.val; (t.svcEn k.val = false ∨ r.tx = [])) ∧
    (∃ (s : State) (k : Fin 20) (ws : List (BitVec 16)),
      let t := if (s.svcEn k.val && s.svcFabric k.val) = true then ws.foldl (fun (t : State) w => (t.txPush k.val w).1) s else s;
      let r := t.svcPort k.val; t.svcEn k.val = true ∧ r.tx ≠ []) ∧
    (∃ (s : State) (k : Fin 20) (j : Fin 8), let p := s.svcPort k.val; k.val = 8 + j.val ∧
      (s.svcEn k.val = false ∨ p.tx = [])) ∧
    (∃ (s : State) (k : Fin 20) (j : Fin 8), let p := s.svcPort k.val; k.val = 8 + j.val ∧ s.svcEn k.val = true ∧ p.tx ≠ []) ∧
    (∃ (s : State) (k : Fin 20) (w : Word), let p := s.svcPort k.val; s.islandUp = true ∧ s.bit (SVC.OWN.MODE k.val) = true ∧
      (64 ≤ p.tx.length ∨ svcWordOk k.val (w.setWidth 16) = false)) ∧
    (∃ (s : State) (k : Fin 20) (w : Word), let p := s.svcPort k.val; s.islandUp = true ∧ s.bit (SVC.OWN.MODE k.val) = true ∧
      p.tx.length < 64 ∧ svcWordOk k.val (w.setWidth 16) = true) ∧
    (∃ (s : State) (k : Fin 20), let p := s.svcPort k.val; s.islandUp = true ∧ s.bit (SVC.OWN.MODE k.val) = true ∧ p.rx = []) ∧
    (∃ (s : State) (k : Fin 20) (v : _) (l : _), let p := s.svcPort k.val; s.islandUp = true ∧
      s.bit (SVC.OWN.MODE k.val) = true ∧ p.rx = v :: l) ∧
    (∃ (s : State) (k : Fin 20), (s.islandUp = false ∨ s.bit (SVC.OWN.MODE k.val) = false)) ∧
    (∃ (s : State) (k : Fin 20) (q : Req) (w : Word), let t := s.openGroup (0x6400008 + 0x1000 * k.val);
      s.canWrite q (0x6400008 + 0x1000 * k.val) ∧
      (t.bit (SVC.OWN.MODE k.val) = true ∨ 64 ≤ (t.svcPort k.val).tx.length ∨ svcWordOk k.val (w.setWidth 16) = false)) ∧
    (∃ (s : State) (k : Fin 20) (q : Req) (w : Word), let t := s.openGroup (0x6400008 + 0x1000 * k.val);
      s.canWrite q (0x6400008 + 0x1000 * k.val) ∧ t.bit (SVC.OWN.MODE k.val) = false ∧ (t.svcPort k.val).tx.length < 64 ∧
      svcWordOk k.val (w.setWidth 16) = true) :=
  ⟨⟨up, 19, by decide +kernel⟩,
   ⟨((up.setSvcPort 19 { rx := List.replicate 64 0#16 }).setReg 0x6413004 0x80000000#32), 19, by decide +kernel⟩,
   ⟨((up.setSvcPort 19 { rx := List.replicate 63 0#16 }).setReg 0x6413004 0x80000000#32), 19, by decide +kernel⟩,
   ⟨up, 19, [], by decide +kernel⟩,
   ⟨((up.setSvcPort 19 { tx := [0#16] }).setReg 0x6413004 0x80000000#32), 19, [], by decide +kernel⟩,
   ⟨up, 15, 7, by decide +kernel⟩,
   ⟨((up.setSvcPort 15 { tx := [0#16] }).setReg 0x640F004 0x80000000#32), 15, 7, by decide +kernel⟩,
   ⟨(up.setSvcPort 19 { tx := List.replicate 64 0#16 }).wr (SVC.OWN.MODE 19) 1, 19, 0#32, by decide +kernel⟩,
   ⟨(up.setSvcPort 19 { tx := List.replicate 63 0#16 }).wr (SVC.OWN.MODE 19) 1, 19, 0#32, by decide +kernel⟩,
   ⟨up.wr (SVC.OWN.MODE 19) 1, 19, by decide +kernel⟩,
   ⟨(up.setSvcPort 19 { rx := [1#16] }).wr (SVC.OWN.MODE 19) 1, 19, 1#16, [], by decide +kernel⟩,
   ⟨up, 19, by decide +kernel⟩,
   ⟨up.wr (SVC.OWN.MODE 19) 1, 19, starter, 0#32, can_write (by decide +kernel), by decide +kernel⟩,
   ⟨up, 19, starter, 0#32, can_write (by decide +kernel), by decide +kernel⟩⟩
theorem witness_CellarRuns :
    (∃ (s : State) (b : Fin 4) (o : CelOp) (rest : List CelOp) (aud : Bool) (sec : Nat), (s.bank b.val).ops = o :: rest ∧
      (s.bank b.val).held = false ∧ logOf o.sector = some (aud, sec)) ∧
    (∃ (s : State) (b : Fin 4) (o : CelOp) (rest : List CelOp),
      let u := s.bump (if o.erase then CEL.EFAIL_CNT else CEL.PFAIL_CNT); (s.bank b.val).ops = o :: rest ∧
      (s.bank b.val).held = false ∧ logOf o.sector = none ∧ u.cel.grown.length < 256 ∧ 0 < u.spareLeft b.val) ∧
    (∃ (s : State) (b : Fin 4) (o : CelOp) (rest : List CelOp),
      let u := s.bump (if o.erase then CEL.EFAIL_CNT else CEL.PFAIL_CNT); (s.bank b.val).ops = o :: rest ∧
      (s.bank b.val).held = false ∧ logOf o.sector = none ∧ (256 ≤ u.cel.grown.length ∨ u.spareLeft b.val = 0)) ∧
    (∃ (s : State) (b : Fin 4), ((s.bank b.val).ops = [] ∨ (s.bank b.val).held = true)) ∧
    (∃ (s : State) (q : Req), s.canWrite q 0x8000000) ∧
    (∃ (s : State) (o : CelOp) (r : Nat), let u := s.wr (CEL.BSTAT.SECTOR (bankOf o.sector)) o.sector; u.celRefuse o = some r) ∧
    (∃ (s : State) (o : CelOp), let u := s.wr (CEL.BSTAT.SECTOR (bankOf o.sector)) o.sector;
      let x := u.bank (bankOf o.sector); u.celRefuse o = none ∧ x.ops = []) ∧
    (∃ (s : State) (o : CelOp), let u := s.wr (CEL.BSTAT.SECTOR (bankOf o.sector)) o.sector;
      let x := u.bank (bankOf o.sector); u.celRefuse o = none ∧ x.ops ≠ [] ∧ x.held = true) ∧
    (∃ (s : State) (o : CelOp), let u := s.wr (CEL.BSTAT.SECTOR (bankOf o.sector)) o.sector;
      let x := u.bank (bankOf o.sector); u.celRefuse o = none ∧ x.ops ≠ [] ∧ x.held = false) ∧
    (∃ (s : State) (m : Moving) (t : List Moving), tget s.noc.serve ID.cellar [] = m :: t ∧
      (m.f.op ≠ 0 ∨ s.celMayRead m.f.ini = false)) ∧
    (∃ (s : State) (m : Moving) (t : List Moving), let x := s.bank (celOff m.f / 2 ^ 27);
      tget s.noc.serve ID.cellar [] = m :: t ∧ m.f.op = 0 ∧ s.celMayRead m.f.ini = true ∧ (x.ops = [] ∨ x.held = true)) ∧
    (∃ (s : State) (m : Moving) (t : List Moving), let x := s.bank (celOff m.f / 2 ^ 27);
      tget s.noc.serve ID.cellar [] = m :: t ∧ m.f.op = 0 ∧ s.celMayRead m.f.ini = true ∧ x.ops ≠ [] ∧ x.held = false) ∧
    (∃ (s : State) (b : Fin 4), let x := s.bank b.val; (x.asking = false ∨ x.held = true ∨ x.ops = [])) ∧
    (∃ (s : State) (b : Fin 4) (o : _), let x := s.bank b.val; x.asking = true ∧ x.held = false ∧ x.ops ≠ [] ∧
      x.prog = some o) ∧
    (∃ (s : State) (b : Fin 4), let x := s.bank b.val; x.asking = true ∧ x.held = false ∧ x.ops ≠ [] ∧ x.prog = none) ∧
    (∃ (s : State) (b : Fin 4), let x := s.bank b.val;
      let quiet := s.cel.waiting.all (fun m => celOff m.f / 2 ^ 27 != b.val); x.held = true ∧ x.prog = none ∧ quiet = true) ∧
    (∃ (s : State) (b : Fin 4), let x := s.bank b.val;
      let quiet := s.cel.waiting.all (fun m => celOff m.f / 2 ^ 27 != b.val);
      (x.held = false ∨ x.prog.isSome = true ∨ quiet = false)) :=
  ⟨⟨up.setBank 3 { ops := [{ erase := true, sector := 7551 }] }, 3, { erase := true, sector := 7551 }, [], true, 31,
     by decide +kernel⟩,
   ⟨up.setBank 3 { ops := [{ erase := true, sector := 6144 }] }, 3, { erase := true, sector := 6144 }, [], by decide +kernel⟩,
   ⟨{ up.setBank 3 { ops := [{ erase := true, sector := 6144 }] } with cel := { (up.setBank 3 { ops := [{ erase := true, sector := 6144 }] }).cel with grown := List.replicate 256 (0, 0, 0) } },
     3, { erase := true, sector := 6144 }, [], by decide +kernel⟩,
   ⟨up, 3, by decide +kernel⟩,
   ⟨up, starter, can_write (by decide +kernel)⟩,
   ⟨up, { erase := true, sector := 8068 }, 3, by decide +kernel⟩,
   ⟨up, { erase := true, sector := 8191 }, by decide +kernel⟩,
   ⟨up.setBank 3 { ops := [{ erase := true, sector := 6144 }], held := true },
     { erase := false, sector := 6145, word := 50339840 }, by decide +kernel⟩,
   ⟨up.setBank 3 { ops := [{ erase := true, sector := 6144 }] }, { erase := false, sector := 6145, word := 50339840 },
     by decide +kernel⟩,
   ⟨{ up with noc := { up.noc with serve := [(ID.cellar, [⟨aFlit 980 0 1 0x03F01FFFFFC0, 0, 0, 0, 0, 5, 0⟩])] } },
     ⟨aFlit 980 0 1 0x03F01FFFFFC0, 0, 0, 0, 0, 5, 0⟩, [], by decide +kernel⟩,
   ⟨{ up with noc := { up.noc with serve := [(ID.cellar, [⟨aFlit 980 0 0 0x03F01FFFFFC0, 0, 0, 0, 0, 5, 0⟩])] } },
     ⟨aFlit 980 0 0 0x03F01FFFFFC0, 0, 0, 0, 0, 5, 0⟩, [], by decide +kernel⟩,
   ⟨{ up.setBank 3 { ops := [{ erase := true, sector := 6144 }] } with noc := { up.noc with serve := [(ID.cellar, [⟨aFlit 980 0 0 0x03F01FFFFFC0, 0, 0, 0, 0, 5, 0⟩])] } },
     ⟨aFlit 980 0 0 0x03F01FFFFFC0, 0, 0, 0, 0, 5, 0⟩, [], by decide +kernel⟩,
   ⟨up, 3, by decide +kernel⟩,
   ⟨up.setBank 3 { ops := [{ erase := true, sector := 6144 }], asking := true, prog := some { erase := false, sector := 6145 } },
     3, { erase := false, sector := 6145 }, by decide +kernel⟩,
   ⟨up.setBank 3 { ops := [{ erase := true, sector := 6144 }], asking := true }, 3, by decide +kernel⟩,
   ⟨up.setBank 3 { ops := [{ erase := true, sector := 6144 }], held := true }, 3, by decide +kernel⟩,
   ⟨up, 3, by decide +kernel⟩⟩
theorem witness_LogsRun :
    (∃ (s : State) (aud : Bool), let todo := if aud then s.logs.audTodo else s.logs.evTodo; (todo = 0 ∨ s.powered = false)) ∧
    (∃ (s : State) (aud : Bool), let todo := if aud then s.logs.audTodo else s.logs.evTodo; todo ≠ 0 ∧ s.powered = true) ∧
    (∃ (s : State), s.logs.ramOnly = true) ∧
    (∃ (s : State) (e : EvEntry) (x : Nat), let u := s.logRoom false; s.logs.ramOnly = false ∧ s.logs.evTodo ≠ 0 ∧
      u.logs.evRing[u.logs.evRing.length - u.logs.evTodo]? = some e ∧ u.logs.evTodo ≠ 0 ∧ u.logs.evSecs.getLast? = some x) ∧
    (∃ (s : State) (a : AudEntry) (x : Nat), let u := s.logRoom true; s.logs.ramOnly = false ∧
      u.logs.audRing[u.logs.audRing.length - u.logs.audTodo]? = some a ∧ u.logs.audTodo ≠ 0 ∧ u.logs.audSecs.getLast? = some x) :=
  ⟨⟨up, true, by decide +kernel⟩,
   ⟨{ up with logs := { up.logs with audRing := [⟨0, 0, 7, 0x10, 0, 0, 0, 0xFF⟩], audTodo := 1 } }, true, by decide +kernel⟩,
   ⟨{ up with logs := { up.logs with ramOnly := true } }, by decide +kernel⟩,
   ⟨{ up with logs := { up.logs with evRing := [anEv], evTodo := 1, evSecs := [0] } }, anEv,
     (let s : State := { up with logs := { up.logs with evRing := [anEv], evTodo := 1, evSecs := [0] } }; let u := s.logRoom false; u.logs.evSecs.getLast?).get (by decide +kernel),
     by decide +kernel⟩,
   ⟨{ up with logs := { up.logs with audRing := [⟨0, 0, 7, 0x10, 0, 0, 0, 0xFF⟩], audTodo := 1, audSecs := [31] } },
     ⟨0, 0, 7, 0x10, 0, 0, 0, 0xFF⟩,
     (let s : State := { up with logs := { up.logs with audRing := [⟨0, 0, 7, 0x10, 0, 0, 0, 0xFF⟩], audTodo := 1, audSecs := [31] } }; let u := s.logRoom true; u.logs.audSecs.getLast?).get (by decide +kernel),
     by decide +kernel⟩⟩
theorem witness_CellarRequestsRun :
    (∃ (s : State) (t : State) (e : ImmEnv) (body : List Byte) (o : Byte) (c : Instr),
      let op : Byte → Prop := fun n => s.receive false e 0x43 (n :: body) = (t, true); op o ∧
      (o, c) ∈ [(1, .celOpRead e body), (2, .celOpProgram e body), (3, .celOpErase e body), (4, .setLevel e body), (5, .bbtRead e body), (6, .celOpStatus e body)] ∧
      body.length < 7) ∧
    (∃ (s : State) (t : State) (e : ImmEnv) (body : List Byte) (o : Byte) (c : Instr), let h := e.port.val;
      let op : Byte → Prop := fun n => s.receive false e 0x43 (n :: body) = (t, true); op o ∧
      (o, c) ∈ [(1, .celOpRead e body), (2, .celOpProgram e body), (3, .celOpErase e body), (4, .setLevel e body), (5, .bbtRead e body), (6, .celOpStatus e body)] ∧
      7 ≤ body.length ∧ h ≠ t.devOwner) ∧
    (∃ (s : State) (t : State) (e : ImmEnv) (body : List Byte) (o : Byte) (c : Instr), let h := e.port.val;
      let op : Byte → Prop := fun n => s.receive false e 0x43 (n :: body) = (t, true); op o ∧
      (o, c) ∈ [(1, .celOpRead e body), (2, .celOpProgram e body), (3, .celOpErase e body), (4, .setLevel e body), (5, .bbtRead e body), (6, .celOpStatus e body)] ∧
      7 ≤ body.length ∧ h = t.devOwner ∧ o ∈ [1, 2, 3] ∧ celRegion (field body 0 1) = none) ∧
    (∃ (s : State) (t : State) (e : ImmEnv) (body : List Byte) (base : _) (size : _), let h := e.port.val;
      let op : Byte → Prop := fun n => s.receive false e 0x43 (n :: body) = (t, true); let n := field body 1 2;
      h = t.devOwner ∧ celRegion (field body 0 1) = some (base, size) ∧ op 1 ∧ 7 ≤ body.length ∧ (n = 0 ∨ 1024 < n)) ∧
    (∃ (s : State) (t : State) (e : ImmEnv) (body : List Byte) (base : _) (size : _), let h := e.port.val;
      let op : Byte → Prop := fun n => s.receive false e 0x43 (n :: body) = (t, true); let n := field body 1 2;
      let off := field body 3 4; h = t.devOwner ∧ celRegion (field body 0 1) = some (base, size) ∧ op 1 ∧ 7 ≤ body.length ∧
      1 ≤ n ∧ n ≤ 1024 ∧ size < off + n) ∧
    (∃ (s : State) (t : State) (e : ImmEnv) (body : List Byte) (base : _) (size : _), let h := e.port.val;
      let op : Byte → Prop := fun n => s.receive false e 0x43 (n :: body) = (t, true); let n := field body 1 2;
      let off := field body 3 4; h = t.devOwner ∧ celRegion (field body 0 1) = some (base, size) ∧ op 1 ∧ 7 ≤ body.length ∧
      1 ≤ n ∧ n ≤ 1024 ∧ off + n ≤ size ∧ body.length ≠ 7) ∧
    (∃ (s : State) (t : State) (e : ImmEnv) (body : List Byte) (base : _) (size : _), let h := e.port.val;
      let op : Byte → Prop := fun n => s.receive false e 0x43 (n :: body) = (t, true); let n := field body 1 2;
      let off := field body 3 4; h = t.devOwner ∧ celRegion (field body 0 1) = some (base, size) ∧ op 1 ∧ 7 ≤ body.length ∧
      1 ≤ n ∧ n ≤ 1024 ∧ off + n ≤ size ∧ body.length = 7 ∧ 2 ≤ t.cel.level) ∧
    (∃ (s : State) (t : State) (e : ImmEnv) (body : List Byte) (base : _) (size : _), let h := e.port.val;
      let op : Byte → Prop := fun n => s.receive false e 0x43 (n :: body) = (t, true); let n := field body 1 2;
      let off := field body 3 4; h = t.devOwner ∧ celRegion (field body 0 1) = some (base, size) ∧ op 1 ∧ 7 ≤ body.length ∧
      1 ≤ n ∧ n ≤ 1024 ∧ off + n ≤ size ∧ body.length = 7 ∧ t.cel.level < 2) ∧
    (∃ (s : State) (t : State) (e : ImmEnv) (body : List Byte) (base : _) (size : _), let h := e.port.val;
      let op : Byte → Prop := fun n => s.receive false e 0x43 (n :: body) = (t, true); let n := field body 1 2;
      h = t.devOwner ∧ celRegion (field body 0 1) = some (base, size) ∧ op 2 ∧ 7 ≤ body.length ∧ (n < 8 ∨ 1024 < n ∨ n % 8 ≠ 0)) ∧
    (∃ (s : State) (t : State) (e : ImmEnv) (body : List Byte) (base : _) (size : _), let h := e.port.val;
      let op : Byte → Prop := fun n => s.receive false e 0x43 (n :: body) = (t, true); let n := field body 1 2;
      let off := field body 3 4; h = t.devOwner ∧ celRegion (field body 0 1) = some (base, size) ∧ op 2 ∧ 7 ≤ body.length ∧
      8 ≤ n ∧ n ≤ 1024 ∧ n % 8 = 0 ∧ (off % 8 ≠ 0 ∨ size < off + n)) ∧
    (∃ (s : State) (t : State) (e : ImmEnv) (body : List Byte) (base : _) (size : _), let h := e.port.val;
      let op : Byte → Prop := fun n => s.receive false e 0x43 (n :: body) = (t, true); let n := field body 1 2;
      let off := field body 3 4; h = t.devOwner ∧ celRegion (field body 0 1) = some (base, size) ∧ op 2 ∧ 7 ≤ body.length ∧
      8 ≤ n ∧ n ≤ 1024 ∧ n % 8 = 0 ∧ off % 8 = 0 ∧ off + n ≤ size ∧ body.length ≠ 7 + n) ∧
    (∃ (s : State) (t : State) (e : ImmEnv) (body : List Byte) (base : _) (size : _), let h := e.port.val;
      let op : Byte → Prop := fun n => s.receive false e 0x43 (n :: body) = (t, true); let n := field body 1 2;
      let off := field body 3 4; h = t.devOwner ∧ celRegion (field body 0 1) = some (base, size) ∧ op 2 ∧ 7 ≤ body.length ∧
      8 ≤ n ∧ n ≤ 1024 ∧ n % 8 = 0 ∧ off % 8 = 0 ∧ off + n ≤ size ∧ body.length = 7 + n ∧ field body 0 1 = t.cel.bootFw + 1) ∧
    (∃ (s : State) (t : State) (e : ImmEnv) (body : List Byte) (base : _) (size : _), let h := e.port.val;
      let op : Byte → Prop := fun n => s.receive false e 0x43 (n :: body) = (t, true); let n := field body 1 2;
      let off := field body 3 4; h = t.devOwner ∧ celRegion (field body 0 1) = some (base, size) ∧ op 2 ∧ 7 ≤ body.length ∧
      8 ≤ n ∧ n ≤ 1024 ∧ n % 8 = 0 ∧ off % 8 = 0 ∧ off + n ≤ size ∧ body.length = 7 + n ∧ field body 0 1 ≠ t.cel.bootFw + 1 ∧
      t.cel.job.isSome = true) ∧
    (∃ (s : State) (t : State) (e : ImmEnv) (body : List Byte) (base : _) (size : _), let h := e.port.val;
      let op : Byte → Prop := fun n => s.receive false e 0x43 (n :: body) = (t, true); let n := field body 1 2;
      let off := field body 3 4; h = t.devOwner ∧ celRegion (field body 0 1) = some (base, size) ∧ op 2 ∧ 7 ≤ body.length ∧
      8 ≤ n ∧ n ≤ 1024 ∧ n % 8 = 0 ∧ off % 8 = 0 ∧ off + n ≤ size ∧ body.length = 7 + n ∧ field body 0 1 ≠ t.cel.bootFw + 1 ∧
      t.cel.job = none) ∧
    (∃ (s : State) (t : State) (e : ImmEnv) (body : List Byte) (base : _) (size : _), let h := e.port.val;
      let op : Byte → Prop := fun n => s.receive false e 0x43 (n :: body) = (t, true); let off := field body 3 4;
      h = t.devOwner ∧ celRegion (field body 0 1) = some (base, size) ∧ op 3 ∧ 7 ≤ body.length ∧ (off % 65536 ≠ 0 ∨ size ≤ off)) ∧
    (∃ (s : State) (t : State) (e : ImmEnv) (body : List Byte) (base : _) (size : _), let h := e.port.val;
      let op : Byte → Prop := fun n => s.receive false e 0x43 (n :: body) = (t, true); let off := field body 3 4;
      h = t.devOwner ∧ celRegion (field body 0 1) = some (base, size) ∧ op 3 ∧ 7 ≤ body.length ∧ off % 65536 = 0 ∧ off < size ∧
      body.length ≠ 7) ∧
    (∃ (s : State) (t : State) (e : ImmEnv) (body : List Byte) (base : _) (size : _), let h := e.port.val;
      let op : Byte → Prop := fun n => s.receive false e 0x43 (n :: body) = (t, true); let off := field body 3 4;
      h = t.devOwner ∧ celRegion (field body 0 1) = some (base, size) ∧ op 3 ∧ 7 ≤ body.length ∧ off % 65536 = 0 ∧ off < size ∧
      body.length = 7 ∧ field body 0 1 = t.cel.bootFw + 1) ∧
    (∃ (s : State) (t : State) (e : ImmEnv) (body : List Byte) (base : _) (size : _), let h := e.port.val;
      let op : Byte → Prop := fun n => s.receive false e 0x43 (n :: body) = (t, true); let off := field body 3 4;
      h = t.devOwner ∧ celRegion (field body 0 1) = some (base, size) ∧ op 3 ∧ 7 ≤ body.length ∧ off % 65536 = 0 ∧ off < size ∧
      body.length = 7 ∧ field body 0 1 ≠ t.cel.bootFw + 1 ∧ t.cel.job.isSome = true) ∧
    (∃ (s : State) (t : State) (e : ImmEnv) (body : List Byte) (base : _) (size : _), let h := e.port.val;
      let op : Byte → Prop := fun n => s.receive false e 0x43 (n :: body) = (t, true); let off := field body 3 4;
      h = t.devOwner ∧ celRegion (field body 0 1) = some (base, size) ∧ op 3 ∧ 7 ≤ body.length ∧ off % 65536 = 0 ∧ off < size ∧
      body.length = 7 ∧ field body 0 1 ≠ t.cel.bootFw + 1 ∧ t.cel.job = none) ∧
    (∃ (s : State) (t : State) (e : ImmEnv) (body : List Byte), let h := e.port.val;
      let op : Byte → Prop := fun n => s.receive false e 0x43 (n :: body) = (t, true); let n := field body 1 2;
      h = t.devOwner ∧ op 4 ∧ 7 ≤ body.length ∧ 2 < n) ∧
    (∃ (s : State) (t : State) (e : ImmEnv) (body : List Byte), let h := e.port.val;
      let op : Byte → Prop := fun n => s.receive false e 0x43 (n :: body) = (t, true); let n := field body 1 2;
      h = t.devOwner ∧ op 4 ∧ 7 ≤ body.length ∧ n ≤ 2 ∧ body.length ≠ 7) ∧
    (∃ (s : State) (t : State) (e : ImmEnv) (body : List Byte), let h := e.port.val;
      let op : Byte → Prop := fun n => s.receive false e 0x43 (n :: body) = (t, true); let n := field body 1 2;
      h = t.devOwner ∧ op 4 ∧ 7 ≤ body.length ∧ n ≤ 2 ∧ body.length = 7 ∧ t.cel.level = n) ∧
    (∃ (s : State) (t : State) (e : ImmEnv) (body : List Byte), let h := e.port.val;
      let op : Byte → Prop := fun n => s.receive false e 0x43 (n :: body) = (t, true); let n := field body 1 2;
      h = t.devOwner ∧ op 4 ∧ 7 ≤ body.length ∧ n ≤ 2 ∧ body.length = 7 ∧ t.cel.level < n) ∧
    (∃ (s : State) (t : State) (e : ImmEnv) (body : List Byte), let h := e.port.val;
      let op : Byte → Prop := fun n => s.receive false e 0x43 (n :: body) = (t, true); let n := field body 1 2;
      let busy := t.img.op.isSome || t.img.mod.isSome || t.cel.job.isSome || t.mgt.lateAct.isSome; h = t.devOwner ∧ op 4 ∧
      7 ≤ body.length ∧ n ≤ 2 ∧ body.length = 7 ∧ n < t.cel.level ∧ busy = true) ∧
    (∃ (s : State) (t : State) (e : ImmEnv) (body : List Byte), let h := e.port.val;
      let op : Byte → Prop := fun n => s.receive false e 0x43 (n :: body) = (t, true); let n := field body 1 2;
      let busy := t.img.op.isSome || t.img.mod.isSome || t.cel.job.isSome || t.mgt.lateAct.isSome; h = t.devOwner ∧ op 4 ∧
      7 ≤ body.length ∧ n ≤ 2 ∧ body.length = 7 ∧ n < t.cel.level ∧ busy = false) ∧
    (∃ (s : State) (t : State) (e : ImmEnv) (body : List Byte), let h := e.port.val;
      let op : Byte → Prop := fun n => s.receive false e 0x43 (n :: body) = (t, true); let n := field body 1 2;
      h = t.devOwner ∧ op 5 ∧ 7 ≤ body.length ∧ (n = 0 ∨ 128 < n)) ∧
    (∃ (s : State) (t : State) (e : ImmEnv) (body : List Byte), let h := e.port.val;
      let op : Byte → Prop := fun n => s.receive false e 0x43 (n :: body) = (t, true); let n := field body 1 2;
      h = t.devOwner ∧ op 5 ∧ 7 ≤ body.length ∧ 1 ≤ n ∧ n ≤ 128 ∧ body.length ≠ 7) ∧
    (∃ (s : State) (t : State) (e : ImmEnv) (body : List Byte), let h := e.port.val;
      let op : Byte → Prop := fun n => s.receive false e 0x43 (n :: body) = (t, true); let n := field body 1 2;
      h = t.devOwner ∧ op 5 ∧ 7 ≤ body.length ∧ 1 ≤ n ∧ n ≤ 128 ∧ body.length = 7) ∧
    (∃ (s : State) (t : State) (e : ImmEnv) (body : List Byte), let h := e.port.val;
      let op : Byte → Prop := fun n => s.receive false e 0x43 (n :: body) = (t, true); h = t.devOwner ∧ op 6 ∧
      7 ≤ body.length ∧ body.length ≠ 7) ∧
    (∃ (s : State) (t : State) (e : ImmEnv) (body : List Byte), let h := e.port.val;
      let op : Byte → Prop := fun n => s.receive false e 0x43 (n :: body) = (t, true); h = t.devOwner ∧ op 6 ∧
      7 ≤ body.length ∧ body.length = 7) :=
  ⟨⟨ses1, got ses1 0, envOf 0 0x43 (3#8 :: [0#8, 0#8, 0#8, 0#8, 0#8, 0#8]), [0#8, 0#8, 0#8, 0#8, 0#8, 0#8], 3,
     .celOpErase (envOf 0 0x43 (3#8 :: [0#8, 0#8, 0#8, 0#8, 0#8, 0#8])) [0#8, 0#8, 0#8, 0#8, 0#8, 0#8],
     received (by decide +kernel), by simp, by decide +kernel⟩,
   ⟨ses1, got ses1 1, envOf 1 0x43 (3#8 :: [0#8, 0#8, 0#8, 0#8, 0#8, 0#8, 0#8]), [0#8, 0#8, 0#8, 0#8, 0#8, 0#8, 0#8], 3,
     .celOpErase (envOf 1 0x43 (3#8 :: [0#8, 0#8, 0#8, 0#8, 0#8, 0#8, 0#8])) [0#8, 0#8, 0#8, 0#8, 0#8, 0#8, 0#8],
     received (by decide +kernel), by simp, by decide +kernel⟩,
   ⟨ses1, got ses1 0, envOf 0 0x43 (3#8 :: [3#8, 0#8, 0#8, 0#8, 0#8, 0#8, 0#8]), [3#8, 0#8, 0#8, 0#8, 0#8, 0#8, 0#8], 3,
     .celOpErase (envOf 0 0x43 (3#8 :: [3#8, 0#8, 0#8, 0#8, 0#8, 0#8, 0#8])) [3#8, 0#8, 0#8, 0#8, 0#8, 0#8, 0#8],
     received (by decide +kernel), by simp, by decide +kernel⟩,
   ⟨ses1, got (ses1) 0, envOf 0 0x43 ((1#8 :: ([0#8, 4#8, 1#8, 0#8, 0#8, 0#8, 0#8]))), [0#8, 4#8, 1#8, 0#8, 0#8, 0#8, 0#8],
     0x1D800000, 0x2000000, by decide +kernel, by decide +kernel, received (by decide +kernel), by decide +kernel⟩,
   ⟨ses1, got (ses1) 0, envOf 0 0x43 ((1#8 :: ([0#8, 4#8, 0#8, 1#8, 255#8, 252#8, 1#8]))),
     [0#8, 4#8, 0#8, 1#8, 255#8, 252#8, 1#8], 0x1D800000, 0x2000000, by decide +kernel, by decide +kernel,
     received (by decide +kernel), by decide +kernel⟩,
   ⟨ses1, got (ses1) 0, envOf 0 0x43 ((1#8 :: ([0#8, 4#8, 0#8, 1#8, 255#8, 252#8, 0#8, 0#8]))),
     [0#8, 4#8, 0#8, 1#8, 255#8, 252#8, 0#8, 0#8], 0x1D800000, 0x2000000, by decide +kernel, by decide +kernel,
     received (by decide +kernel), by decide +kernel⟩,
   ⟨{ ses1 with cel := { ses1.cel with level := 2 } }, got ({ ses1 with cel := { ses1.cel with level := 2 } }) 0,
     envOf 0 0x43 ((1#8 :: ([0#8, 4#8, 0#8, 1#8, 255#8, 252#8, 0#8]))), [0#8, 4#8, 0#8, 1#8, 255#8, 252#8, 0#8], 0x1D800000,
     0x2000000, by decide +kernel, by decide +kernel, received (by decide +kernel), by decide +kernel⟩,
   ⟨{ ses1 with cel := { ses1.cel with level := 1 } }, got ({ ses1 with cel := { ses1.cel with level := 1 } }) 0,
     envOf 0 0x43 ((1#8 :: ([0#8, 4#8, 0#8, 1#8, 255#8, 252#8, 0#8]))), [0#8, 4#8, 0#8, 1#8, 255#8, 252#8, 0#8], 0x1D800000,
     0x2000000, by decide +kernel, by decide +kernel, received (by decide +kernel), by decide +kernel⟩,
   ⟨ses1, got (ses1) 0, envOf 0 0x43 ((2#8 :: ([0#8, 0#8, 12#8, 0#8, 0#8, 0#8, 0#8]))),
     [0#8, 0#8, 12#8, 0#8, 0#8, 0#8, 0#8], 0x1D800000, 0x2000000, by decide +kernel, by decide +kernel,
     received (by decide +kernel), by decide +kernel⟩,
   ⟨ses1, got (ses1) 0, envOf 0 0x43 ((2#8 :: ([0#8, 0#8, 8#8, 1#8, 255#8, 255#8, 249#8]))),
     [0#8, 0#8, 8#8, 1#8, 255#8, 255#8, 249#8], 0x1D800000, 0x2000000, by decide +kernel, by decide +kernel,
     received (by decide +kernel), by decide +kernel⟩,
   ⟨ses1, got (ses1) 0, envOf 0 0x43 ((2#8 :: ([0#8, 0#8, 8#8, 1#8, 255#8, 255#8, 248#8]))),
     [0#8, 0#8, 8#8, 1#8, 255#8, 255#8, 248#8], 0x1D800000, 0x2000000, by decide +kernel, by decide +kernel,
     received (by decide +kernel), by decide +kernel⟩,
   ⟨{ ses1 with cel := { ses1.cel with bootFw := 1 } }, got ({ ses1 with cel := { ses1.cel with bootFw := 1 } }) 0,
     envOf 0 0x43 ((2#8 :: ([2#8, 0#8, 8#8, 0#8, 0#8, 0#8, 0#8, 0#8, 0#8, 0#8, 0#8, 0#8, 0#8, 0#8, 0#8]))),
     [2#8, 0#8, 8#8, 0#8, 0#8, 0#8, 0#8, 0#8, 0#8, 0#8, 0#8, 0#8, 0#8, 0#8, 0#8], 0x1C400000, 0x400000, by decide +kernel,
     by decide +kernel, received (by decide +kernel), by decide +kernel⟩,
   ⟨{ ses1 with cel := { ses1.cel with job := some ⟨3, 0, []⟩ } },
     got ({ ses1 with cel := { ses1.cel with job := some ⟨3, 0, []⟩ } }) 0,
     envOf 0 0x43 ((2#8 :: ([0#8, 0#8, 8#8, 1#8, 255#8, 255#8, 248#8, 0#8, 0#8, 0#8, 0#8, 0#8, 0#8, 0#8, 0#8]))),
     [0#8, 0#8, 8#8, 1#8, 255#8, 255#8, 248#8, 0#8, 0#8, 0#8, 0#8, 0#8, 0#8, 0#8, 0#8], 0x1D800000, 0x2000000,
     by decide +kernel, by decide +kernel, received (by decide +kernel), by decide +kernel⟩,
   ⟨ses1, got (ses1) 0,
     envOf 0 0x43 ((2#8 :: ([0#8, 0#8, 8#8, 1#8, 255#8, 255#8, 248#8, 0#8, 0#8, 0#8, 0#8, 0#8, 0#8, 0#8, 0#8]))),
     [0#8, 0#8, 8#8, 1#8, 255#8, 255#8, 248#8, 0#8, 0#8, 0#8, 0#8, 0#8, 0#8, 0#8, 0#8], 0x1D800000, 0x2000000,
     by decide +kernel, by decide +kernel, received (by decide +kernel), by decide +kernel⟩,
   ⟨ses1, got (ses1) 0, envOf 0 0x43 ((3#8 :: ([0#8, 0#8, 0#8, 2#8, 0#8, 0#8, 0#8]))), [0#8, 0#8, 0#8, 2#8, 0#8, 0#8, 0#8],
     0x1D800000, 0x2000000, by decide +kernel, by decide +kernel, received (by decide +kernel), by decide +kernel⟩,
   ⟨ses1, got (ses1) 0, envOf 0 0x43 ((3#8 :: ([0#8, 0#8, 0#8, 1#8, 255#8, 0#8, 0#8, 0#8]))),
     [0#8, 0#8, 0#8, 1#8, 255#8, 0#8, 0#8, 0#8], 0x1D800000, 0x2000000, by decide +kernel, by decide +kernel,
     received (by decide +kernel), by decide +kernel⟩,
   ⟨{ ses1 with cel := { ses1.cel with bootFw := 1 } }, got ({ ses1 with cel := { ses1.cel with bootFw := 1 } }) 0,
     envOf 0 0x43 ((3#8 :: ([2#8, 0#8, 0#8, 0#8, 0#8, 0#8, 0#8]))), [2#8, 0#8, 0#8, 0#8, 0#8, 0#8, 0#8], 0x1C400000, 0x400000,
     by decide +kernel, by decide +kernel, received (by decide +kernel), by decide +kernel⟩,
   ⟨{ ses1 with cel := { ses1.cel with job := some ⟨3, 0, []⟩ } },
     got ({ ses1 with cel := { ses1.cel with job := some ⟨3, 0, []⟩ } }) 0,
     envOf 0 0x43 ((3#8 :: ([0#8, 0#8, 0#8, 1#8, 255#8, 0#8, 0#8]))), [0#8, 0#8, 0#8, 1#8, 255#8, 0#8, 0#8], 0x1D800000,
     0x2000000, by decide +kernel, by decide +kernel, received (by decide +kernel), by decide +kernel⟩,
   ⟨ses1, got (ses1) 0, envOf 0 0x43 ((3#8 :: ([0#8, 0#8, 0#8, 1#8, 255#8, 0#8, 0#8]))),
     [0#8, 0#8, 0#8, 1#8, 255#8, 0#8, 0#8], 0x1D800000, 0x2000000, by decide +kernel, by decide +kernel,
     received (by decide +kernel), by decide +kernel⟩,
   ⟨ses1, got (ses1) 0, envOf 0 0x43 ((4#8 :: ([0#8, 0#8, 3#8, 0#8, 0#8, 0#8, 0#8]))), [0#8, 0#8, 3#8, 0#8, 0#8, 0#8, 0#8],
     by decide +kernel, received (by decide +kernel), by decide +kernel⟩,
   ⟨ses1, got (ses1) 0, envOf 0 0x43 ((4#8 :: ([0#8, 0#8, 2#8, 0#8, 0#8, 0#8, 0#8, 0#8]))),
     [0#8, 0#8, 2#8, 0#8, 0#8, 0#8, 0#8, 0#8], by decide +kernel, received (by decide +kernel), by decide +kernel⟩,
   ⟨{ ses1 with cel := { ses1.cel with level := 2 } }, got ({ ses1 with cel := { ses1.cel with level := 2 } }) 0,
     envOf 0 0x43 ((4#8 :: ([0#8, 0#8, 2#8, 0#8, 0#8, 0#8, 0#8]))), [0#8, 0#8, 2#8, 0#8, 0#8, 0#8, 0#8], by decide +kernel,
     received (by decide +kernel), by decide +kernel⟩,
   ⟨{ ses1 with cel := { ses1.cel with level := 1 } }, got ({ ses1 with cel := { ses1.cel with level := 1 } }) 0,
     envOf 0 0x43 ((4#8 :: ([0#8, 0#8, 2#8, 0#8, 0#8, 0#8, 0#8]))), [0#8, 0#8, 2#8, 0#8, 0#8, 0#8, 0#8], by decide +kernel,
     received (by decide +kernel), by decide +kernel⟩,
   ⟨{ ses1 with cel := { ses1.cel with level := 2, job := some ⟨3, 0, []⟩ } },
     got ({ ses1 with cel := { ses1.cel with level := 2, job := some ⟨3, 0, []⟩ } }) 0,
     envOf 0 0x43 ((4#8 :: ([0#8, 0#8, 0#8, 0#8, 0#8, 0#8, 0#8]))), [0#8, 0#8, 0#8, 0#8, 0#8, 0#8, 0#8], by decide +kernel,
     received (by decide +kernel), by decide +kernel⟩,
   ⟨{ ses1 with cel := { ses1.cel with level := 2 } }, got ({ ses1 with cel := { ses1.cel with level := 2 } }) 0,
     envOf 0 0x43 ((4#8 :: ([0#8, 0#8, 1#8, 0#8, 0#8, 0#8, 0#8]))), [0#8, 0#8, 1#8, 0#8, 0#8, 0#8, 0#8], by decide +kernel,
     received (by decide +kernel), by decide +kernel⟩,
   ⟨ses1, got (ses1) 0, envOf 0 0x43 ((5#8 :: ([0#8, 0#8, 129#8, 0#8, 0#8, 0#8, 0#8]))),
     [0#8, 0#8, 129#8, 0#8, 0#8, 0#8, 0#8], by decide +kernel, received (by decide +kernel), by decide +kernel⟩,
   ⟨ses1, got (ses1) 0, envOf 0 0x43 ((5#8 :: ([0#8, 0#8, 128#8, 0#8, 0#8, 0#8, 0#8, 0#8]))),
     [0#8, 0#8, 128#8, 0#8, 0#8, 0#8, 0#8, 0#8], by decide +kernel, received (by decide +kernel), by decide +kernel⟩,
   ⟨ses1, got (ses1) 0, envOf 0 0x43 ((5#8 :: ([0#8, 0#8, 128#8, 0#8, 0#8, 0#8, 0#8]))),
     [0#8, 0#8, 128#8, 0#8, 0#8, 0#8, 0#8], by decide +kernel, received (by decide +kernel), by decide +kernel⟩,
   ⟨ses1, got (ses1) 0, envOf 0 0x43 ((6#8 :: ([0#8, 0#8, 0#8, 0#8, 0#8, 0#8, 0#8, 0#8]))),
     [0#8, 0#8, 0#8, 0#8, 0#8, 0#8, 0#8, 0#8], by decide +kernel, received (by decide +kernel), by decide +kernel⟩,
   ⟨ses1, got (ses1) 0, envOf 0 0x43 ((6#8 :: ([0#8, 0#8, 0#8, 0#8, 0#8, 0#8, 0#8]))), [0#8, 0#8, 0#8, 0#8, 0#8, 0#8, 0#8],
     by decide +kernel, received (by decide +kernel), by decide +kernel⟩⟩
theorem witness_SelfTestRuns :
    (∃ (s : State) (k : Fin 4) (r : BistRun), s.bistCtl k.val = some r ∧ (r.defer = true ∨ r.phase = 0 ∨ 5 ≤ r.phase)) ∧
    (∃ (s : State) (k : Fin 4) (r : BistRun), s.bistCtl k.val = some r ∧ r.defer = false ∧ r.phase = 1) ∧
    (∃ (s : State) (k : Fin 4) (r : BistRun), s.bistCtl k.val = some r ∧ r.defer = false ∧ r.phase = 2) ∧
    (∃ (s : State) (k : Fin 4) (r : BistRun), s.bistCtl k.val = some r ∧ r.defer = false ∧ r.phase = 3) ∧
    (∃ (s : State) (k : Fin 4) (r : BistRun), s.bistCtl k.val = some r ∧ r.defer = false ∧ r.phase = 4) ∧
    (∃ (s : State) (k : Fin 4) (r : BistRun), s.bistCtl k.val = some r ∧ r.phase ≠ 5) ∧
    (∃ (s : State) (k : Fin 4) (r : BistRun) (fails : Nat), s.bistCtl k.val = some r ∧ r.phase = 5 ∧ fails = 0) ∧
    (∃ (s : State) (k : Fin 4) (r : BistRun) (fails : Nat), s.bistCtl k.val = some r ∧ r.phase = 5 ∧ fails ≠ 0) ∧
    (∃ (s : State) (k : Fin 4) (r : BistRun), s.bistCtl k.val = some r ∧
      (r.defer = false ∨ s.bistWaits r.kind r.mem = true ∨ s.running = false)) ∧
    (∃ (s : State) (k : Fin 4) (r : BistRun), let v := (s.bistVat r.kind r.mem).getD 0xFF; s.bistCtl k.val = some r ∧
      r.defer = true ∧ s.bistWaits r.kind r.mem = false ∧ s.running = true ∧
      (16 ≤ v ∨ s.defined v = false ∨ s.bit (VAT.VAT_STAT.GATED v) = true)) ∧
    (∃ (s : State) (k : Fin 4) (r : BistRun), let v := (s.bistVat r.kind r.mem).getD 0xFF; s.bistCtl k.val = some r ∧
      r.defer = true ∧ s.bistWaits r.kind r.mem = false ∧ s.running = true ∧ v < 16 ∧ s.defined v = true ∧
      s.bit (VAT.VAT_STAT.GATED v) = false ∧ s.bit (VAT.VAT_STAT.IN_RESET v) = true) ∧
    (∃ (s : State) (k : Fin 4) (r : BistRun), let v := (s.bistVat r.kind r.mem).getD 0xFF; s.bistCtl k.val = some r ∧
      r.defer = true ∧ s.bistWaits r.kind r.mem = false ∧ s.running = true ∧ v < 16 ∧ s.defined v = true ∧
      s.bit (VAT.VAT_STAT.GATED v) = false ∧ s.bit (VAT.VAT_STAT.IN_RESET v) = false) ∧
    (∃ (s : State) (kind : Fin 3) (mem : Fin 16777216), s.bist.fusing.contains (kind.val, mem.val) = false) ∧
    (∃ (s : State) (kind : Fin 3) (mem : Fin 16777216), s.bist.fusing.contains (kind.val, mem.val) = true) ∧
    (∃ (s : State) (sec : Fin 224), let powered := s.mbit (CLK.SEC_ON.ON (sec.val / 32)) (sec.val % 32); powered = true) ∧
    (∃ (s : State) (sec : Fin 224), let powered := s.mbit (CLK.SEC_ON.ON (sec.val / 32)) (sec.val % 32); powered = false) ∧
    (∃ (s : State) (q : Req) (k : Fin 4) (w : Word), let kind := wget w 30 29; let mem := wget w 23 0;
      s.canWrite q (0x9000000 + 0x100 * k.val) ∧
      (s.running = false ∨ (s.bistCtl k.val).isSome = true ∨ s.bistBarred kind mem = true)) ∧
    (∃ (s : State) (q : Req) (k : Fin 4) (w : Word), let kind := wget w 30 29; let mem := wget w 23 0;
      s.canWrite q (0x9000000 + 0x100 * k.val) ∧ s.running = true ∧ s.bistCtl k.val = none ∧ s.bistBarred kind mem = false) :=
  ⟨⟨bistIs { ctl := [(3, some { kind := 1, mem := 111, phase := 5 })] }, 3, { kind := 1, mem := 111, phase := 5 },
     by decide +kernel⟩,
   ⟨bistIs { ctl := [(3, some { kind := 1, mem := 111, phase := 1 })] }, 3, { kind := 1, mem := 111, phase := 1 },
     by decide +kernel⟩,
   ⟨bistIs { ctl := [(3, some { kind := 1, mem := 111, phase := 2 })] }, 3, { kind := 1, mem := 111, phase := 2 },
     by decide +kernel⟩,
   ⟨bistIs { ctl := [(3, some { kind := 1, mem := 111, phase := 3 })] }, 3, { kind := 1, mem := 111, phase := 3 },
     by decide +kernel⟩,
   ⟨bistIs { ctl := [(3, some { kind := 1, mem := 111, phase := 4 })] }, 3, { kind := 1, mem := 111, phase := 4 },
     by decide +kernel⟩,
   ⟨bistIs { ctl := [(3, some { kind := 1, mem := 111, phase := 4 })] }, 3, { kind := 1, mem := 111, phase := 4 },
     by decide +kernel⟩,
   ⟨bistIs { ctl := [(3, some { kind := 1, mem := 111, phase := 5 })] }, 3, { kind := 1, mem := 111, phase := 5 }, 0,
     by decide +kernel⟩,
   ⟨bistIs { ctl := [(3, some { kind := 1, mem := 111, phase := 5 })] }, 3, { kind := 1, mem := 111, phase := 5 }, 1,
     by decide +kernel⟩,
   ⟨bistIs { ctl := [(3, some { kind := 1, mem := 111, phase := 1 })] }, 3, { kind := 1, mem := 111, phase := 1 },
     by decide +kernel⟩,
   ⟨bistIs { ctl := [(3, some { kind := 1, mem := 112, defer := true })] }, 3, { kind := 1, mem := 112, defer := true },
     by decide +kernel⟩,
   ⟨(bistIs { ctl := [(3, some { kind := 2, mem := 31, defer := true })] }).wrb (VAT.VAT_STAT.IN_RESET 0) true, 3,
     { kind := 2, mem := 31, defer := true }, by decide +kernel⟩,
   ⟨bistIs { ctl := [(3, some { kind := 2, mem := 31, defer := true })] }, 3, { kind := 2, mem := 31, defer := true },
     by decide +kernel⟩,
   ⟨up, 2, 31, by decide +kernel⟩,
   ⟨bistIs { fusing := [(2, 31)] }, 2, 31, by decide +kernel⟩,
   ⟨up.wr (CLK.SEC_ON.ON 6) 0x80000000, 223, by decide +kernel⟩,
   ⟨up, 223, by decide +kernel⟩,
   ⟨up.wr PWR.MODE_STAT.MODE 2, starter, 3, 0xC000001F#32, can_write (by decide +kernel), by decide +kernel⟩,
   ⟨up, starter, 3, 0xC000001F#32, can_write (by decide +kernel), by decide +kernel⟩⟩
theorem witness_SelfTestRequestsRun :
    (∃ (s : State) (t : State) (e : ImmEnv) (body : List Byte) (op : Byte) (c : Instr),
      s.receive false e 0x44 (op :: body) = (t, true) ∧ body.length ≠ 7 ∧
      (op, c) ∈ [(1, .bistRunTest e body), (2, .bistRunFuse e body), (3, .bistRunStatus e body), (4, .bistRunDefectRead e body)]) ∧
    (∃ (s : State) (t : State) (e : ImmEnv) (body : List Byte), let kind := field body 0 1; let mem := field body 3 4;
      s.receive false e 0x44 (1 :: body) = (t, true) ∧ body.length = 7 ∧ t.bistVat kind mem = none) ∧
    (∃ (s : State) (t : State) (e : ImmEnv) (body : List Byte) (v : Nat), let kind := field body 0 1;
      let mem := field body 3 4; s.receive false e 0x44 (1 :: body) = (t, true) ∧ body.length = 7 ∧
      t.bistVat kind mem = some v ∧ t.running = false) ∧
    (∃ (s : State) (t : State) (e : ImmEnv) (body : List Byte) (v : Nat), let h := e.port.val; let kind := field body 0 1;
      let mem := field body 3 4; s.receive false e 0x44 (1 :: body) = (t, true) ∧ body.length = 7 ∧
      t.bistVat kind mem = some v ∧ t.running = true ∧ t.ownsVat h v = false) ∧
    (∃ (s : State) (t : State) (e : ImmEnv) (body : List Byte) (v : Nat), let h := e.port.val; let kind := field body 0 1;
      let mem := field body 3 4; s.receive false e 0x44 (1 :: body) = (t, true) ∧ body.length = 7 ∧
      t.bistVat kind mem = some v ∧ t.running = true ∧ t.ownsVat h v = true ∧ t.bistBarred kind mem = true) ∧
    (∃ (s : State) (t : State) (e : ImmEnv) (body : List Byte) (v : Nat), let h := e.port.val; let kind := field body 0 1;
      let mem := field body 3 4; s.receive false e 0x44 (1 :: body) = (t, true) ∧ body.length = 7 ∧
      t.bistVat kind mem = some v ∧ t.running = true ∧ t.ownsVat h v = true ∧ t.bistBarred kind mem = false ∧ t.bistFree = none) ∧
    (∃ (s : State) (t : State) (e : ImmEnv) (body : List Byte) (v : Nat) (k : _), let h := e.port.val;
      let kind := field body 0 1; let mem := field body 3 4; s.receive false e 0x44 (1 :: body) = (t, true) ∧ body.length = 7 ∧
      t.bistVat kind mem = some v ∧ t.running = true ∧ t.ownsVat h v = true ∧ t.bistBarred kind mem = false ∧
      t.bistFree = some k) ∧
    (∃ (s : State) (t : State) (e : ImmEnv) (body : List Byte), let kind := field body 0 1; let mem := field body 3 4;
      s.receive false e 0x44 (2 :: body) = (t, true) ∧ body.length = 7 ∧ t.bistVat kind mem = none) ∧
    (∃ (s : State) (t : State) (e : ImmEnv) (body : List Byte), let h := e.port.val; let kind := field body 0 1;
      let mem := field body 3 4; s.receive false e 0x44 (2 :: body) = (t, true) ∧ body.length = 7 ∧
      (t.bistVat kind mem).isSome = true ∧ h ≠ t.devOwner) ∧
    (∃ (s : State) (t : State) (e : ImmEnv) (body : List Byte), let h := e.port.val; let kind := field body 0 1;
      let mem := field body 3 4; s.receive false e 0x44 (2 :: body) = (t, true) ∧ body.length = 7 ∧
      (t.bistVat kind mem).isSome = true ∧ h = t.devOwner ∧ t.lcs.code = 3) ∧
    (∃ (s : State) (t : State) (e : ImmEnv) (body : List Byte), let h := e.port.val; let kind := field body 0 1;
      let mem := field body 3 4;
      let may := !t.bistBusy kind mem && !t.bist.fusing.contains (kind, mem) && decide ((t.softOf kind mem).length ≤ t.fuseFree);
      s.receive false e 0x44 (2 :: body) = (t, true) ∧ body.length = 7 ∧ (t.bistVat kind mem).isSome = true ∧ h = t.devOwner ∧
      t.lcs.code ≠ 3 ∧ may = false) ∧
    (∃ (s : State) (t : State) (e : ImmEnv) (body : List Byte), let h := e.port.val; let kind := field body 0 1;
      let mem := field body 3 4;
      let may := !t.bistBusy kind mem && !t.bist.fusing.contains (kind, mem) && decide ((t.softOf kind mem).length ≤ t.fuseFree);
      s.receive false e 0x44 (2 :: body) = (t, true) ∧ body.length = 7 ∧ (t.bistVat kind mem).isSome = true ∧ h = t.devOwner ∧
      t.lcs.code ≠ 3 ∧ may = true) ∧
    (∃ (s : State) (t : State) (e : ImmEnv) (body : List Byte), s.receive false e 0x44 (3 :: body) = (t, true) ∧
      body.length = 7) ∧
    (∃ (s : State) (t : State) (e : ImmEnv) (body : List Byte), let n := field body 1 2;
      s.receive false e 0x44 (4 :: body) = (t, true) ∧ body.length = 7 ∧ (n = 0 ∨ 128 < n)) ∧
    (∃ (s : State) (t : State) (e : ImmEnv) (body : List Byte), let h := e.port.val; let n := field body 1 2;
      s.receive false e 0x44 (4 :: body) = (t, true) ∧ body.length = 7 ∧ 1 ≤ n ∧ n ≤ 128 ∧ h ≠ t.devOwner) ∧
    (∃ (s : State) (t : State) (e : ImmEnv) (body : List Byte), let h := e.port.val; let n := field body 1 2;
      s.receive false e 0x44 (4 :: body) = (t, true) ∧ body.length = 7 ∧ 1 ≤ n ∧ n ≤ 128 ∧ h = t.devOwner) :=
  ⟨⟨bistSes {}, got (bistSes {}) 0, envOf 0 0x44 [4#8], [], 4#8, .bistRunDefectRead (envOf 0 0x44 [4#8]) [],
     received (by decide +kernel), by decide +kernel, by simp⟩,
   ⟨bistSes {}, got (bistSes {}) 0, envOf 0 0x44 ((1 :: ([2#8, 0#8, 0#8, 0#8, 0#8, 0#8, 32#8]))),
     [2#8, 0#8, 0#8, 0#8, 0#8, 0#8, 32#8], received (by decide +kernel), by decide +kernel⟩,
   ⟨(bistSes {}).wr PWR.MODE_STAT.MODE 2, got ((bistSes {}).wr PWR.MODE_STAT.MODE 2) 0,
     envOf 0 0x44 ((1 :: ([2#8, 0#8, 0#8, 0#8, 0#8, 0#8, 31#8]))), [2#8, 0#8, 0#8, 0#8, 0#8, 0#8, 31#8],
     (let t : State := got ((bistSes {}).wr PWR.MODE_STAT.MODE 2) 0; let body : List Byte := [2#8, 0#8, 0#8, 0#8, 0#8, 0#8, 31#8]; let kind := field body 0 1; let mem := field body 3 4; t.bistVat kind mem).get (by decide +kernel),
     received (by decide +kernel), by decide +kernel⟩,
   ⟨bistSes {}, got (bistSes {}) 1, envOf 1 0x44 ((1 :: ([2#8, 0#8, 0#8, 0#8, 0#8, 0#8, 31#8]))),
     [2#8, 0#8, 0#8, 0#8, 0#8, 0#8, 31#8],
     (let t : State := got (bistSes {}) 1; let body : List Byte := [2#8, 0#8, 0#8, 0#8, 0#8, 0#8, 31#8]; let kind := field body 0 1; let mem := field body 3 4; t.bistVat kind mem).get (by decide +kernel),
     received (by decide +kernel), by decide +kernel⟩,
   ⟨bistSes { ctl := [(3, some { kind := 2, mem := 31, phase := 1 })] },
     got (bistSes { ctl := [(3, some { kind := 2, mem := 31, phase := 1 })] }) 0,
     envOf 0 0x44 ((1 :: ([2#8, 0#8, 0#8, 0#8, 0#8, 0#8, 31#8]))), [2#8, 0#8, 0#8, 0#8, 0#8, 0#8, 31#8],
     (let t : State := got (bistSes { ctl := [(3, some { kind := 2, mem := 31, phase := 1 })] }) 0; let body : List Byte := [2#8, 0#8, 0#8, 0#8, 0#8, 0#8, 31#8]; let kind := field body 0 1; let mem := field body 3 4; t.bistVat kind mem).get (by decide +kernel),
     received (by decide +kernel), by decide +kernel⟩,
   ⟨bistSes { ctl := (List.range 4).map fun k => (k, some { kind := 2, mem := k, phase := 1 }) },
     got (bistSes { ctl := (List.range 4).map fun k => (k, some { kind := 2, mem := k, phase := 1 }) }) 0,
     envOf 0 0x44 ((1 :: ([2#8, 0#8, 0#8, 0#8, 0#8, 0#8, 31#8]))), [2#8, 0#8, 0#8, 0#8, 0#8, 0#8, 31#8],
     (let t : State := got (bistSes { ctl := (List.range 4).map fun k => (k, some { kind := 2, mem := k, phase := 1 }) }) 0; let body : List Byte := [2#8, 0#8, 0#8, 0#8, 0#8, 0#8, 31#8]; let kind := field body 0 1; let mem := field body 3 4; t.bistVat kind mem).get (by decide +kernel),
     received (by decide +kernel), by decide +kernel⟩,
   ⟨bistSes { ctl := (List.range 3).map fun k => (k, some { kind := 2, mem := k, phase := 1 }) },
     got (bistSes { ctl := (List.range 3).map fun k => (k, some { kind := 2, mem := k, phase := 1 }) }) 0,
     envOf 0 0x44 ((1 :: ([2#8, 0#8, 0#8, 0#8, 0#8, 0#8, 31#8]))), [2#8, 0#8, 0#8, 0#8, 0#8, 0#8, 31#8],
     (let t : State := got (bistSes { ctl := (List.range 3).map fun k => (k, some { kind := 2, mem := k, phase := 1 }) }) 0; let body : List Byte := [2#8, 0#8, 0#8, 0#8, 0#8, 0#8, 31#8]; let kind := field body 0 1; let mem := field body 3 4; t.bistVat kind mem).get (by decide +kernel),
     (let t : State := got (bistSes { ctl := (List.range 3).map fun k => (k, some { kind := 2, mem := k, phase := 1 }) }) 0; t.bistFree).get (by decide +kernel),
     received (by decide +kernel), by decide +kernel⟩,
   ⟨bistSes {}, got (bistSes {}) 0, envOf 0 0x44 ((2 :: ([2#8, 0#8, 0#8, 0#8, 0#8, 0#8, 32#8]))),
     [2#8, 0#8, 0#8, 0#8, 0#8, 0#8, 32#8], received (by decide +kernel), by decide +kernel⟩,
   ⟨bistSes {}, got (bistSes {}) 1, envOf 1 0x44 ((2 :: ([2#8, 0#8, 0#8, 0#8, 0#8, 0#8, 31#8]))),
     [2#8, 0#8, 0#8, 0#8, 0#8, 0#8, 31#8], received (by decide +kernel), by decide +kernel⟩,
   ⟨{ bistSes {} with lcs := { up.lcs with code := 3 } }, got ({ bistSes {} with lcs := { up.lcs with code := 3 } }) 0,
     envOf 0 0x44 ((2 :: ([2#8, 0#8, 0#8, 0#8, 0#8, 0#8, 31#8]))), [2#8, 0#8, 0#8, 0#8, 0#8, 0#8, 31#8],
     received (by decide +kernel), by decide +kernel⟩,
   ⟨bistSes { fusing := [(2, 31)] }, got (bistSes { fusing := [(2, 31)] }) 0,
     envOf 0 0x44 ((2 :: ([2#8, 0#8, 0#8, 0#8, 0#8, 0#8, 31#8]))), [2#8, 0#8, 0#8, 0#8, 0#8, 0#8, 31#8],
     received (by decide +kernel), by decide +kernel⟩,
   ⟨bistSes {}, got (bistSes {}) 0, envOf 0 0x44 ((2 :: ([2#8, 0#8, 0#8, 0#8, 0#8, 0#8, 31#8]))),
     [2#8, 0#8, 0#8, 0#8, 0#8, 0#8, 31#8], received (by decide +kernel), by decide +kernel, by decide +kernel,
     by decide +kernel, by decide +kernel, may_fuse (by decide +kernel)⟩,
   ⟨bistSes {}, got (bistSes {}) 0, envOf 0 0x44 ((3 :: ([2#8, 0#8, 0#8, 0#8, 0#8, 0#8, 31#8]))),
     [2#8, 0#8, 0#8, 0#8, 0#8, 0#8, 31#8], received (by decide +kernel), by decide +kernel⟩,
   ⟨bistSes {}, got (bistSes {}) 0, envOf 0 0x44 ((4 :: ([0#8, 0#8, 129#8, 0#8, 0#8, 0#8, 0#8]))),
     [0#8, 0#8, 129#8, 0#8, 0#8, 0#8, 0#8], received (by decide +kernel), by decide +kernel⟩,
   ⟨bistSes {}, got (bistSes {}) 1, envOf 1 0x44 ((4 :: ([0#8, 0#8, 128#8, 0#8, 0#8, 0#8, 0#8]))),
     [0#8, 0#8, 128#8, 0#8, 0#8, 0#8, 0#8], received (by decide +kernel), by decide +kernel⟩,
   ⟨bistSes {}, got (bistSes {}) 0, envOf 0 0x44 ((4 :: ([0#8, 0#8, 128#8, 0#8, 0#8, 0#8, 0#8]))),
     [0#8, 0#8, 128#8, 0#8, 0#8, 0#8, 0#8], received (by decide +kernel), by decide +kernel⟩⟩
theorem witness_HioBanksRun :
    (∃ (s : State) (b : Fin 12) (mv : Fin 4096), let seen := s.setHio b.val ((s.hio b.val).sees mv.val);
      let off := seen.setHio b.val { seen.hio b.val with off := true, written := false };
      let fits := hioWin (s.rd (HIO.BANK_CTL.RANGE b.val)) mv.val; fits = false ∧ (s.hio b.val).off = true) ∧
    (∃ (s : State) (b : Fin 12) (mv : Fin 4096), let seen := s.setHio b.val ((s.hio b.val).sees mv.val);
      let off := seen.setHio b.val { seen.hio b.val with off := true, written := false };
      let fits := hioWin (s.rd (HIO.BANK_CTL.RANGE b.val)) mv.val; fits = false ∧ (s.hio b.val).off = false ∧
      ((seen.hio b.val).off = true ∨ s.running = false)) ∧
    (∃ (s : State) (b : Fin 12) (mv : Fin 4096), let seen := s.setHio b.val ((s.hio b.val).sees mv.val);
      let off := seen.setHio b.val { seen.hio b.val with off := true, written := false };
      let fits := hioWin (s.rd (HIO.BANK_CTL.RANGE b.val)) mv.val; fits = false ∧ (s.hio b.val).off = false ∧
      (seen.hio b.val).off = false ∧ s.running = true) ∧
    (∃ (s : State) (b : Fin 12) (mv : Fin 4096), let fits := hioWin (s.rd (HIO.BANK_CTL.RANGE b.val)) mv.val; fits = true ∧
      (s.hio b.val).written = false) ∧
    (∃ (s : State) (b : Fin 12) (mv : Fin 4096), let fits := hioWin (s.rd (HIO.BANK_CTL.RANGE b.val)) mv.val; fits = true ∧
      (s.hio b.val).written = true) ∧
    (∃ (s : State) (b : Fin 12) (q : Req) (w : Word), let u := s.wr (HIO.BANK_CTL.RANGE b.val) (wget w 1 0);
      let x := u.hio b.val; let off := u.setHio b.val { x with off := true, written := true };
      s.canWrite q (0xB000000 + 0x100 * b.val) ∧ (x.off = true ∨ hioWin (wget w 1 0) x.mv = true)) ∧
    (∃ (s : State) (b : Fin 12) (q : Req) (w : Word), let u := s.wr (HIO.BANK_CTL.RANGE b.val) (wget w 1 0);
      let x := u.hio b.val; let off := u.setHio b.val { x with off := true, written := true };
      s.canWrite q (0xB000000 + 0x100 * b.val) ∧ x.off = false ∧ hioWin (wget w 1 0) x.mv = false) :=
  ⟨⟨up.setHio 11 { mv := 1800, ever := true, off := true, written := false }, 11, 4095, by decide +kernel⟩,
   ⟨(up.wr PWR.MODE_STAT.MODE 2).setHio 11 { mv := 1800, ever := true, off := false }, 11, 4095, by decide +kernel⟩,
   ⟨(up.wr (HIO.BANK_CTL.RANGE 11) 1).setHio 11 { mv := 1800, ever := true, off := false }, 11, 1951, by decide +kernel⟩,
   ⟨(up.wr (HIO.BANK_CTL.RANGE 11) 1).setHio 11 { mv := 1600, ever := false, off := true, written := false }, 11, 1700,
     by decide +kernel⟩,
   ⟨(up.wr (HIO.BANK_CTL.RANGE 11) 3).setHio 11 { mv := 1600, ever := false, off := true, written := true }, 11, 3600,
     by decide +kernel⟩,
   ⟨up.setHio 11 { mv := 1800, ever := true, off := true, written := false }, 11, starter, 1#32,
     can_write (by decide +kernel), by decide +kernel⟩,
   ⟨up.setHio 11 { mv := 1800, ever := true, off := false }, 11, starter, 2#32, can_write (by decide +kernel),
     by decide +kernel⟩⟩
theorem witness_BoundaryScanRuns :
    (∃ (s : State), s.tapOn = true) ∧
    (∃ (s : State), s.tapOn = true) ∧
    (∃ (s : State), s.tapOn = false) ∧
    (∃ (s : State), s.tapOn = false) :=
  ⟨⟨up, by decide +kernel⟩,
   ⟨up, by decide +kernel⟩,
   ⟨State.reset, by decide +kernel⟩,
   ⟨State.reset, by decide +kernel⟩⟩
theorem witness_ClusterEdgesRun :
    (∃ (s : State), s.running = false) ∧
    (∃ (s : State), s.running = true) ∧
    (∃ (s : State), s.running = true) ∧
    (∃ (s : State), s.running = true ∧ (twf (fun _ => (0 : Frame)) s.cfg.live = true)) ∧
    (∃ (s : State) (n : Nat), s.running = true ∧ ((∀ g : Fin 57344, n ≠ memFrame g.val))) :=
  ⟨⟨State.reset, by decide +kernel⟩,
   ⟨up, by decide +kernel⟩,
   ⟨up, by decide +kernel⟩,
   ⟨up, by decide +kernel⟩,
   ⟨up, 0, by decide +kernel, not_memory_frame⟩⟩
theorem witness_WireEdgesRun :
    (∃ (s : State), s.running = true) ∧
    (∃ (s : State), s.running = true) ∧
    (∃ (g : Fin 57344) (c : Fin 8) (i : Nat), let key := 8 * g.val + c.val; i / 32 ≠ key) :=
  ⟨⟨up, by decide +kernel⟩,
   ⟨up, by decide +kernel⟩,
   ⟨57343, 7, 0, by decide +kernel⟩⟩
/-- What a private key of the device gives with a public point is open (notes/assumptions); where it gives a value, the clause
of SESSION_INIT that opens the handshake is met. -/
theorem witness_SessionInit (z : List Byte) (hz : ecdhP256 (Config.idPriv 0) (aPoint.take 65) = some z) :
    ∃ (s t : State) (e : ImmEnv) (body hk z : List Byte), let h := e.port.val; s.receive true e 0x0002 body = (t, true) ∧
      body.length = 81 ∧ t.secretOf (4 + h) = some hk ∧ ecdhP256 (Config.idPriv t.lcs.idKey) (body.take 65) = some z :=
  ⟨ses1, got ses1 0, envOf 0 0x0002 aPoint, aPoint, ((got ses1 0).secretOf 4).get (by decide +kernel), z,
    received (by decide +kernel), by decide +kernel, by decide +kernel, hz⟩
/-- The place of a cluster's bits in its frames is open; where the cleared frames make a flip-flop obey an asynchronous SR from
routing, the clause of SR's rise is met. -/
theorem witness_AsynchronousSr (h : let k := Config.cluster (timedClu.tileFrames 57343) 7
      k.srAsync = true ∧ k.srRouted = true ∧ (ffOf k 31).used = true ∧ (ffOf k 31).obeySr = true) :
    ∃ (s : State) (g : Fin 57344) (c : Fin 8) (up : Bool) (i : Fin 32), let k := Config.cluster (s.tileFrames g.val) c.val
      let runs := !s.tileHeld g.val && !s.inSync (syncCluster g.val c.val) k.clk
      up = true ∧ runs = true ∧ k.srAsync = true ∧ k.srRouted = true ∧ (ffOf k i.val).used = true ∧ (ffOf k i.val).obeySr = true :=
  ⟨timedClu, 57343, 7, true, 31, rfl, by
    have hs : ∀ l, timedClu.inSync (syncCluster 57343 7) l = false := by decide +kernel
    have ht : timedClu.tileHeld 57343 = false := by decide +kernel
    simp only [show (57343 : Fin 57344).val = 57343 from rfl, show (7 : Fin 8).val = 7 from rfl, hs, ht]; rfl, h⟩

end Sys2Proof.Machine
end

section
/-! PROOFS. Counters and register accesses: one equation for each operation of a counter and each outcome of the bus check,
and the two statements of the scope chapter that follow from them. -/

namespace Sys2Proof.Machine

/-! Counters in a table of canonical form. -/

theorem State.countersOk.sorted {s : State} (h : s.countersOk) : tsorted 0 s.ctrs = true := by
  have hwf := h.1
  rw [twf, Bool.and_eq_true] at hwf
  exact hwf.1

theorem State.countersOk.val_le {s : State} (h : s.countersOk) (off : Nat) : (s.ctr off).val ≤ ctrMax := by
  rcases tget_cases s.ctrs off {} with unlisted | listed
  · unfold State.ctr
    rw [unlisted]
    exact Nat.zero_le _
  · exact h.2 _ listed

theorem State.ctr_ctrAdd_same {s : State} (h : s.countersOk) (off n : Nat) :
    (s.ctrAdd off n).1.ctr off = { s.ctr off with
      val := min ctrMax ((s.ctr off).val + n), sat := (s.ctr off).sat || (s.ctrAdd off n).2 } :=
  tget_tput_same off _ _ h.sorted

theorem State.ctr_ctrAdd_ne (s : State) {off o : Nat} (n : Nat) (h : o ≠ off) : (s.ctrAdd off n).1.ctr o = s.ctr o :=
  tget_tput_ne s.ctrs _ _ _ h

theorem State.ctr_ctrLatch_same {s : State} (h : s.countersOk) (off : Nat) :
    (s.ctrLatch off).ctr off = { s.ctr off with latch := (s.ctr off).upper } :=
  tget_tput_same off _ _ h.sorted

theorem State.ctr_ctrClear_same {s : State} (h : s.countersOk) (off : Nat) :
    (s.ctrClear off).ctr off = { s.ctr off with val := 0, sat := false } :=
  tget_tput_same off _ _ h.sorted

/-- R12: the addition that brings a counter to its largest value is the one that sets SAT. -/
theorem State.ctrAdd_saturates_iff (s : State) (off n : Nat) :
    (s.ctrAdd off n).2 = true ↔ (s.ctr off).sat = false ∧ ctrMax ≤ (s.ctr off).val + n ∧ 0 < n := by
  have hmin : min ctrMax ((s.ctr off).val + n) = ctrMax ↔ ctrMax ≤ (s.ctr off).val + n := by omega
  simp only [State.ctrAdd, Bool.and_eq_true, Bool.not_eq_true', decide_eq_true_eq, hmin]
  tauto

/-- R12: SAT after an addition: it was set, or the sum reaches the largest value. -/
theorem State.sat_or_ctrAdd (s : State) (off : Nat) {n : Nat} (hn : 0 < n) :
    ((s.ctr off).sat || (s.ctrAdd off n).2) = ((s.ctr off).sat || decide (ctrMax ≤ (s.ctr off).val + n)) := by
  cases hsat : (s.ctr off).sat with
  | true => rfl
  | false =>
    rw [Bool.false_or, Bool.false_or, Bool.eq_iff_iff, s.ctrAdd_saturates_iff, decide_eq_true_eq]
    simp only [hsat, hn, true_and, and_true]

theorem State.ctr_ctrAdd_zero {s : State} (h : s.countersOk) (off o : Nat) : (s.ctrAdd off 0).1.ctr o = s.ctr o := by
  by_cases ho : o = off
  · have hhit : (s.ctrAdd off 0).2 = false := by
      rw [← Bool.not_eq_true, s.ctrAdd_saturates_iff]
      omega
    rw [ho, State.ctr_ctrAdd_same h, hhit, Bool.or_false, Nat.add_zero, Nat.min_eq_right (h.val_le off)]
  · exact s.ctr_ctrAdd_ne 0 ho

theorem State.bump_of_unsaturated {s : State} {off n : Nat} (h : (s.ctrAdd off n).2 = false) :
    s.bump off n = (s.ctrAdd off n).1 := by
  simp only [State.bump, h, Bool.false_eq_true, if_false]

/-- R12, R498: the event of saturation goes to the device owner and to the owner of the counter's vat. -/
theorem State.bump_of_saturated {s : State} {off n : Nat} (h : (s.ctrAdd off n).2 = true) :
    s.bump off n = raiseTo 9 (s.devOwner :: ((s.ctrVat off).map fun v => s.ownerOf v).toList).dedup (counterSatData off)
      (s.ctrAdd off n).1 := by
  simp only [State.bump, h, if_true]
  rfl

/-! Accesses to the two registers of a counter. -/

@[simp] theorem State.openGroup_ctrs (s : State) (off : Nat) : (s.openGroup off).ctrs = s.ctrs :=
  State.openGroup_only (s0 := s) (pl := [.clk]) off (by decide) (only.refl _ _) .ctrs (by decide)

@[simp] theorem State.openGroup_ctr (s : State) (off o : Nat) : (s.openGroup off).ctr o = s.ctr o := by
  simp only [State.ctr, State.openGroup_ctrs]

theorem State.openGroup_countersOk {s : State} (h : s.countersOk) (off : Nat) : (s.openGroup off).countersOk := by
  simpa only [State.countersOk, State.openGroup_ctrs] using h

@[simp] theorem State.tell_ctr (s : State) (st : Status) (l : List Byte) (o : Nat) : (s.tell st l).ctr o = s.ctr o := rfl

/-- R11: a read of the lower register latches the upper half and returns the lower. -/
theorem State.busGet_lower {s : State} {q : Req} {off : Nat} (hup : s.islandUp = true) (hq : q.insp = false)
    (hok : s.busCheck q off 4 false = .okay) (hctr : ctrAt off = true) :
    s.busGet q off = ((s.openGroup off).ctrLatch off).tell .okay (leBytes 4 ((s.ctr off).val % 2 ^ 32)) := by
  simp [State.busGet, State.busRead, hup, hq, hok, hctr]

/-- R11: a read of the upper register returns the latch. -/
theorem State.busGet_upper {s : State} {q : Req} {off : Nat} (hup : s.islandUp = true) (hq : q.insp = false)
    (hok : s.busCheck q (off + 4) 4 false = .okay) (hctr : ctrAt off = true) (hupper : ctrAt (off + 4) = false)
    (hreg : regAt (off + 4) = none) :
    s.busGet q (off + 4) = (s.openGroup (off + 4)).tell .okay (leBytes 4 (s.ctr off).latch.toNat) := by
  simp [State.busGet, State.busRead, hup, hq, hok, hctr, hupper, hreg]

/-- R13: a write of the upper register acts by its bit CLR alone; the counters of a DRAM channel depend on its presence. -/
theorem State.busPut_upper {s : State} {q : Req} {off : Nat} (w : Word) (hup : s.islandUp = true)
    (hok : s.busCheck q (off + 4) 4 true = .okay) (hctr : ctrAt off = true) (hupper : ctrAt (off + 4) = false)
    (hreg : regAt (off + 4) = none) (hddr : off + 4 < 0x2000000 ∨ 0x2080000 ≤ off + 4) :
    s.busPut q (off + 4) w =
      (if w.getLsbD 30 then (s.openGroup (off + 4)).ctrClear off else s.openGroup (off + 4)).tell .okay [] := by
  have habsent : (decide (0x2000000 ≤ off + 4) && decide (off + 4 < 0x2080000)) = false := by
    rw [Bool.and_eq_false_iff, decide_eq_false_iff_not, decide_eq_false_iff_not]
    omega
  simp only [State.busPut, State.busWrite, hup, hok, hctr, hupper, hreg, habsent, if_true, if_false, Nat.le_add_left,
    Nat.add_sub_cancel, Option.isNone_none, decide_true, Bool.and_self, Bool.false_and, Bool.false_eq_true]

/-- Settles O6, clause by clause from the equations of `State.ctrAdd`, `State.bump` and the accesses to a counter. -/
theorem countersCount : Obligations.CountersCount := by
  unfold Obligations.CountersCount
  intro s off n hs c r
  refine ⟨fun hn => ?_, ?_, fun o ho => s.ctr_ctrAdd_ne n ho, State.bump_of_unsaturated, State.bump_of_saturated, ?_, ?_, ?_⟩
  · have hadd : r.1.ctr off = _ := State.ctr_ctrAdd_same hs off n
    refine ⟨by rw [hadd]; rfl, by rw [hadd]; exact s.sat_or_ctrAdd off hn, by rw [hadd], ?_⟩
    exact (s.ctrAdd_saturates_iff off n).trans (and_congr_right fun _ => and_iff_left hn)
  · rintro rfl o
    exact State.ctr_ctrAdd_zero hs off o
  · intro q hup hq hok hctr t
    have ht : t = _ := State.busGet_lower hup hq hok hctr
    refine ⟨ht, ?_⟩
    rw [ht, State.tell_ctr, State.ctr_ctrLatch_same (State.openGroup_countersOk hs off), State.openGroup_ctr]
    rfl
  · exact fun q hup hq hok hctr hupper hreg => State.busGet_upper hup hq hok hctr hupper hreg
  · intro q w hup hok hctr hupper hreg hddr t
    have ht : t = _ := State.busPut_upper w hup hok hctr hupper hreg hddr
    refine ⟨fun hclr => ?_, fun hclr => by rw [ht, hclr]; rfl⟩
    have hcleared : t = ((s.openGroup (off + 4)).ctrClear off).tell .okay [] := by rw [ht, if_pos hclr]
    refine ⟨hcleared, ?_⟩
    rw [hcleared, State.tell_ctr, State.ctr_ctrClear_same (State.openGroup_countersOk hs (off + 4)), State.openGroup_ctr]

/-! How an access is answered before its register is reached. -/

/-- R40: outside the register window. -/
theorem State.busCheck_outside (s : State) (q : Req) {off : Nat} (n : Nat) (wr : Bool) (h : 0x10000000 ≤ off) :
    s.busCheck q off n wr = .decerr := if_pos h

/-- R4: another size or alignment. -/
theorem State.busCheck_misshapen (s : State) (q : Req) {off n : Nat} (wr : Bool) (hin : off < 0x10000000)
    (h : off % 4 ≠ 0 ∨ n ≠ 4) : s.busCheck q off n wr = .slverr := by
  rw [State.busCheck, if_neg (Nat.not_le.2 hin), if_pos h]

/-- R40: an offset at which no register and no half of a counter lies. -/
theorem State.busCheck_vacant (s : State) (q : Req) {off : Nat} (n : Nat) (wr : Bool) (hin : off < 0x10000000)
    (hreg : regAt off = none) (hlower : ctrAt off = false) (hupper : ctrAt (off - 4) = false) :
    s.busCheck q off n wr = .slverr := by
  unfold State.busCheck
  rw [if_neg (Nat.not_le.2 hin)]
  split
  · rfl
  · simp [hreg, hlower, hupper]

/-- R258: a register that the requester does not reach. -/
theorem State.busCheck_unreached {s : State} {q : Req} {off : Nat} (n : Nat) {wr : Bool} (hin : off < 0x10000000)
    (h : s.reaches q off wr = false) : s.busCheck q off n wr = .slverr := by
  unfold State.busCheck
  rw [if_neg (Nat.not_le.2 hin)]
  split
  · rfl
  · simp [h]

/-- R258: the blocks from CHURN to DDR are reached by vat 0 and the Starter alone. -/
theorem State.reaches_churnToDdr (s : State) (q : Req) {off : Nat} (wr : Bool) (hlo : 0x300000 ≤ off) (hhi : off < 0x3000000) :
    s.reaches q off wr = adminReq q := by
  have above : ∀ a, 0x3000000 ≤ a → decide (a ≤ off) = false := fun a ha => decide_eq_false (by omega)
  simp [State.reaches, above, hlo]

/-- R466: the bounds and locks of the scratchpad's windows are reached by the Starter alone. -/
theorem State.reaches_scratchpadLocks (s : State) (q : Req) {off : Nat} (wr : Bool) (hlo : 0x6100010 ≤ off)
    (hhi : off < 0x6100030) : s.reaches q off wr = q.starter := by
  have above : ∀ a, 0x6200000 ≤ a → decide (a ≤ off) = false := fun a ha => decide_eq_false (by omega)
  have hscp : 0x6100000 ≤ off := by omega
  simp [State.reaches, above, hscp, hlo, hhi]

/-! Accesses that are refused, and writes that act. -/

theorem State.busWrite_refused {s : State} {q : Req} {off n : Nat} (w : Word) (h : s.busCheck q off n true ≠ .okay) :
    s.busWrite q off n w = (s, s.busCheck q off n true) := by
  unfold State.busWrite
  split
  · contradiction
  · rfl

theorem State.busRead_refused {s : State} {q : Req} {off n : Nat}
    (h : s.busCheck q (if q.insp then aliasOf off else off) n false ≠ .okay) :
    s.busRead q off n = (s, s.busCheck q (if q.insp then aliasOf off else off) n false, 0) := by
  unfold State.busRead
  dsimp only
  split
  · contradiction
  · rfl

theorem exec_registerWrite (q : Req) (off : BitVec 32) (n : Nat) (w : Word) (s : State) :
    exec (.registerWrite q off n w) s = execRegisterWrite q off n w s := rfl

/-- A register write of four bytes is the write of a requester with its answer recorded. -/
theorem exec_registerWrite_word {s : State} (hup : s.islandUp = true) (q : Req) (off : BitVec 32) (w : Word) :
    exec (.registerWrite q off 4 w) s = .next (s.busPut q off.toNat w) := by
  rw [exec_registerWrite, execRegisterWrite, if_pos hup, State.busPut, if_pos hup]

theorem exec_registerWrite_refused {s : State} {q : Req} {off : BitVec 32} {n : Nat} (w : Word) (hup : s.islandUp = true)
    (h : s.busCheck q off.toNat n true ≠ .okay) :
    exec (.registerWrite q off n w) s = .next (s.tell (s.busCheck q off.toNat n true) []) := by
  rw [exec_registerWrite, execRegisterWrite, if_pos hup, State.busWrite_refused w h]

/-- Settles O7, from the outcomes of the bus check and the two forms of a register write. -/
theorem registerAccesses : Obligations.RegisterAccesses := by
  unfold Obligations.RegisterAccesses
  intro s q off n w
  refine ⟨exec_registerWrite_refused w, State.busRead_refused, ?_, fun wr => s.busCheck_outside q n wr,
    fun wr => s.busCheck_misshapen q wr, fun wr => s.busCheck_vacant q n wr, ?_, ?_⟩
  · rintro rfl hcan
    rw [exec_registerWrite_word hcan.up, State.busPut_eq hcan]
  · intro wr hlo hhi hstarter hvat
    refine State.busCheck_unreached n (by omega) ?_
    rw [s.reaches_churnToDdr q wr hlo hhi]
    simp [adminReq, hstarter, hvat]
  · intro wr hlo hhi hstarter
    refine State.busCheck_unreached n (by omega) ?_
    rw [s.reaches_scratchpadLocks q wr hlo hhi, hstarter]

end Sys2Proof.Machine
end

section
/-! PROOFS. Address generators: the index of the window that a step reaches, and the statement of the walk (R143). -/

namespace Sys2Proof.Machine

/-- R143: the index in the window, counted from BASE, that a step of an address generator reaches. -/
def AgSt.nextIndex (a : AgSt) : Nat := ((((a.ptr : Int) - a.base) % 1024 + a.step) % a.len).toNat

/-- A step moves PTR to the next index of the window and leaves the other fields. -/
theorem AgSt.walk_eq (a : AgSt) : a.walk = { a with ptr := (a.base + a.nextIndex) % 1024 } := by
  have hdist : (((a.ptr + 1024 - a.base % 1024) % 1024 : Nat) : Int) = ((a.ptr : Int) - a.base) % 1024 := by omega
  rw [AgSt.walk, hdist, AgSt.nextIndex]

/-- The remainder by LEN is not negative, so that the index loses nothing as a natural number. -/
theorem AgSt.nextIndex_cast {a : AgSt} (hlen : 1 ≤ a.len) :
    (a.nextIndex : Int) = (((a.ptr : Int) - a.base) % 1024 + a.step) % a.len :=
  Int.toNat_of_nonneg (Int.emod_nonneg _ (by omega))

theorem AgSt.nextIndex_lt {a : AgSt} (hlen : 1 ≤ a.len) : a.nextIndex < a.len := by
  have hlt := Int.emod_lt_of_pos (((a.ptr : Int) - a.base) % 1024 + a.step) (Int.natCast_pos.2 hlen)
  rw [← AgSt.nextIndex_cast hlen] at hlt
  exact Int.ofNat_lt.1 hlt

/-- A window of at most 1024 words holds each word once: PTR at index `i` is `i` from BASE, and a multiple of LEN adds nothing
to that. -/
theorem AgSt.nextIndex_of_dvd {a : AgSt} {i : Nat} (hlen : a.len ≤ 1024) (hstep : (a.len : Int) ∣ a.step) (hi : i < a.len)
    (hptr : a.ptr = (a.base + i) % 1024) : a.nextIndex = i := by
  have hdist : ((a.ptr : Int) - a.base) % 1024 = i := by omega
  obtain ⟨k, hk⟩ := hstep
  rw [AgSt.nextIndex, hdist, hk, Int.add_mul_emod_self_left, Int.emod_eq_of_lt (Int.natCast_nonneg i) (Int.ofNat_lt.2 hi),
    Int.toNat_natCast]

/-- Settles O13: a step moves PTR to the next index, which is R143's remainder and lies in the window. -/
theorem generatorsWalk : Obligations.GeneratorsWalk := by
  unfold Obligations.GeneratorsWalk
  intro a _ hpos hlen _ inside
  rw [a.walk_eq]
  refine ⟨?_, ⟨a.nextIndex, AgSt.nextIndex_lt hpos, rfl⟩, ?_, rfl, rfl, rfl⟩
  · rw [← AgSt.nextIndex_cast hpos]
    rfl
  · rintro hstep ⟨i, hi, hptr⟩
    rw [AgSt.nextIndex_of_dvd hlen hstep hi hptr, hptr]

end Sys2Proof.Machine
end

section
/-! PROOFS. What every command of the dispatch does: it answers a next state, leaves the queue, keeps the invariant, and
changes only the parts its meaning writes. -/

namespace Sys2Proof.Machine

/-- A command that answers a next state. -/
def Answers (r : Host.Outcome State Fault Refusal) : Prop := ∃ t, r = .next t

theorem Answers.next (s : State) : Answers (.next s) := ⟨s, rfl⟩

theorem Answers.ite {a b : Host.Outcome State Fault Refusal} {c : Prop} [Decidable c] (ha : Answers a) (hb : Answers b) :
    Answers (if c then a else b) := by
  split <;> assumption

/-! Commands whose outcome depends on what the state holds: each branch of the meaning answers. -/

theorem execDeferredWholeDeviceStart_answers (d : Nat) (s : State) : Answers (execDeferredWholeDeviceStart d s) := by
  unfold execDeferredWholeDeviceStart
  repeat' split
  all_goals exact .next _

theorem execDeferredTestStart_answers (k : Fin 4) (s : State) : Answers (execDeferredTestStart k s) := by
  unfold execDeferredTestStart
  dsimp only
  repeat' split
  all_goals exact .next _

theorem execDeferredSwapStart_answers (v : Fin 16) (d : Nat) (s : State) : Answers (execDeferredSwapStart v d s) := by
  unfold execDeferredSwapStart
  repeat' split
  all_goals exact .next _

theorem execPortPAccess_answers (g : Fin 10752) (a : BitVec 10) (we : Bool) (d : BitVec 36) (u : BitVec 37)
    (src : PortSrc) (s : State) :
    Answers (execPortPAccess g a we d u src s) := by
  unfold execPortPAccess
  repeat' split
  all_goals exact .next _

theorem execPortPSteal_answers (g : Fin 10752) (a : BitVec 10) (we : Bool) (d : BitVec 36) (u : BitVec 37)
    (src : PortSrc) (s : State) :
    Answers (execPortPSteal g a we d u src s) := by
  unfold execPortPSteal
  dsimp only
  repeat' split
  all_goals exact .next _

theorem execBm36Read_answers (b : Fin 13440) (pb : Bool) (t : ArrT) (a : BitVec 15) (u : BitVec 72) (src : PortSrc)
    (s : State) :
    Answers (execBm36Read b pb t a u src s) := by
  unfold execBm36Read
  repeat' split
  all_goals exact .next _

theorem execBm36Clear_answers (m : MemId) (t : ArrT) (src : PortSrc) (s : State) : Answers (execBm36Clear m t src s) := by
  unfold execBm36Clear
  dsimp only
  repeat' split
  all_goals exact .next _

theorem execDmDeferredServe_answers (p : Fin 112) (cap : Nat) (s : State) : Answers (execDmDeferredServe p cap s) := by
  unfold execDmDeferredServe
  dsimp only
  repeat' split
  all_goals exact .next _

theorem execDmNocRequest_answers (p : Fin 112) (us : List (BitVec 72)) (s : State) : Answers (execDmNocRequest p us s) := by
  unfold execDmNocRequest
  dsimp only
  repeat' split
  all_goals exact .next _

theorem execCommitCloseDone_answers (v : Fin 16) (ups : List (Bool × Fin 262144 × List (Fin 2072))) (s : State) :
    Answers (execCommitCloseDone v ups s) := by
  unfold execCommitCloseDone
  dsimp only
  repeat' split
  all_goals exact .next _

theorem execLoadComplete_answers (v : Fin 16) (ups : List (Bool × Fin 262144 × List (Fin 2072))) (s : State) :
    Answers (execLoadComplete v ups s) := by
  unfold execLoadComplete
  repeat' split
  all_goals exact .next _

theorem execConfirmWindowExpiry_answers (v : Fin 16) (s : State) : Answers (execConfirmWindowExpiry v s) := by
  unfold execConfirmWindowExpiry
  dsimp only
  repeat' split
  all_goals exact .next _

theorem execExpiryRollbackStart_answers (v : Fin 16) (s : State) : Answers (execExpiryRollbackStart v s) := by
  unfold execExpiryRollbackStart
  dsimp only
  repeat' split
  all_goals exact .next _

theorem execArmCompareFire_answers (k : Fin 16) (s : State) : Answers (execArmCompareFire k s) := by
  unfold execArmCompareFire
  dsimp only
  repeat' split
  all_goals exact .next _

theorem execActivationAssertion_answers (k : Fin 16) (d : Nat) (s : State) : Answers (execActivationAssertion k d s) := by
  unfold execActivationAssertion
  dsimp only
  repeat' split
  all_goals exact .next _

theorem execFrameAccessDone_answers (bits : List (Fin 2072)) (bad : Bool) (s : State) :
    Answers (execFrameAccessDone bits bad s) := by
  unfold execFrameAccessDone
  split
  · exact .next _
  · refine .ite (.next _) ?_
    split
    · exact .next _
    · refine .ite (.next _) ?_
      split
      · exact .next _
      · exact .ite (.next _) (.ite (.next _) (.ite (.next _) (.ite (.next _) (.ite (.next _) (.next _)))))

theorem execPlaneRepair_answers (n : Fin 262144) (fails : Fin 4) (s : State) : Answers (execPlaneRepair n fails s) := by
  unfold execPlaneRepair
  dsimp only
  repeat' split
  all_goals exact .next _

theorem execStarterFirmwareStart_answers (copy : Fin 2) (s : State) : Answers (execStarterFirmwareStart copy s) := by
  unfold execStarterFirmwareStart
  dsimp only
  repeat' split
  all_goals exact .next _

theorem execHeaderRecord_answers (e : Fin 2) (env : RecEnv) (s : State) : Answers (execHeaderRecord e env s) := by
  unfold execHeaderRecord
  repeat' split
  all_goals exact .next _

theorem execSignatureRecord_answers (e : Fin 2) (env : RecEnv) (s : State) : Answers (execSignatureRecord e env s) := by
  unfold execSignatureRecord
  repeat' split
  all_goals exact .next _

theorem execSignatureVerified_answers (e : Fin 2) (s : State) : Answers (execSignatureVerified e s) := by
  unfold execSignatureVerified
  dsimp only
  repeat' split
  all_goals exact .next _

theorem execMeminitRecord_answers (e : Fin 3) (env : RecEnv) (s : State) : Answers (execMeminitRecord e env s) := by
  unfold execMeminitRecord
  repeat' split
  all_goals exact .next _

theorem execEndRecord_answers (e : Fin 2) (env : RecEnv) (s : State) : Answers (execEndRecord e env s) := by
  unfold execEndRecord
  repeat' split
  all_goals exact .next _

theorem execImageSendTimeout_answers (s : State) : Answers (execImageSendTimeout s) := by
  unfold execImageSendTimeout
  repeat' split
  all_goals exact .next _

theorem execMemoryInitStart_answers (v : Fin 16) (lost : Bool) (s : State) : Answers (execMemoryInitStart v lost s) := by
  unfold execMemoryInitStart
  dsimp only
  repeat' split
  all_goals exact .next _

theorem execMemoryInitDone_answers (v : Fin 16) (s : State) : Answers (execMemoryInitDone v s) := by
  unfold execMemoryInitDone
  repeat' split
  all_goals exact .next _

theorem execModuleLoadStart_answers (v : Fin 16) (s : State) : Answers (execModuleLoadStart v s) := by
  unfold execModuleLoadStart
  repeat' split
  all_goals exact .next _

theorem execModuleLoadDone_answers (v : Fin 16) (s : State) : Answers (execModuleLoadDone v s) := by
  unfold execModuleLoadDone
  repeat' split
  all_goals exact .next _

theorem execModuleLoadRestore_answers (v : Fin 16) (s : State) : Answers (execModuleLoadRestore v s) := by
  unfold execModuleLoadRestore
  repeat' split
  all_goals exact .next _

theorem execScrubRead_answers (q : Fin 4) (bits : List (Fin 2072)) (s : State) : Answers (execScrubRead q bits s) := by
  unfold execScrubRead
  dsimp only
  repeat' split
  all_goals exact .next _

theorem execCorrectionWrite_answers (q : Fin 4) (fails : Fin 3) (left : List (Fin 2072)) (s : State) :
    Answers (execCorrectionWrite q fails left s) := by
  unfold execCorrectionWrite
  dsimp only
  repeat' split
  all_goals exact .next _

theorem execRestorePlaneRead_answers (q : Fin 4) (bits : List (Fin 2072)) (s : State) :
    Answers (execRestorePlaneRead q bits s) := by
  unfold execRestorePlaneRead
  dsimp only
  repeat' split
  all_goals exact .next _

theorem execRestorationWrite_answers (q : Fin 4) (fails : Fin 3) (left : List (Fin 2072)) (s : State) :
    Answers (execRestorationWrite q fails left s) := by
  unfold execRestorationWrite
  dsimp only
  repeat' split
  all_goals exact .next _

theorem execFlitForward_answers (y x : Fin 16) (o : NocOut) (hdrErr payErr : Bool) (s : State) :
    Answers (execFlitForward y x o hdrErr payErr s) := by
  unfold execFlitForward
  dsimp only
  repeat' split
  all_goals exact .next _

theorem execTargetRequestArrival_answers (a : Fin 1024) (vc : Fin 4) (x : UserAns) (s : State) :
    Answers (execTargetRequestArrival a vc x s) := by
  unfold execTargetRequestArrival
  dsimp only
  repeat' split
  all_goals exact .next _

theorem execResponseArrival_answers (i : Fin 1024) (cycles : Nat) (x : Option CpuLoad) (s : State) :
    Answers (execResponseArrival ix cycles x s) := by
  unfold execResponseArrival
  repeat' split
  all_goals exact .next _

theorem execInitiatorTimeout_answers (i t : Fin 1024) (x : Option CpuLoad) (s : State) :
    Answers (execInitiatorTimeout ix t x s) := by
  unfold execInitiatorTimeout
  repeat' split
  all_goals exact .next _

theorem execQuarantineExpiry_answers (i t : Fin 1024) (s : State) : Answers (execQuarantineExpiry ix t s) := by
  unfold execQuarantineExpiry
  repeat' split
  all_goals exact .next _

theorem execSpanInitFrame_answers (k : Fin 4) (ws : List Word) (s : State) : Answers (execSpanInitFrame k ws s) := by
  unfold execSpanInitFrame
  dsimp only
  repeat' split
  all_goals exact .next _

theorem execSpanGatewayFlit_answers (s : State) : Answers (execSpanGatewayFlit s) := by
  unfold execSpanGatewayFlit
  dsimp only
  repeat' split
  all_goals exact .next _

theorem execDramAdmit_answers (n : Fin 8) (s : State) : Answers (execDramAdmit n s) := by
  unfold execDramAdmit
  dsimp only
  repeat' split
  all_goals exact .next _

theorem execDramRead_answers (n : Fin 8) (sub : Fin 2) (x : Sense) (s : State) : Answers (execDramRead n sub x s) := by
  unfold execDramRead
  dsimp only
  repeat' split
  all_goals exact .next _

theorem execDramWholeWrite_answers (n : Fin 8) (sub : Fin 2) (s : State) : Answers (execDramWholeWrite n sub s) := by
  unfold execDramWholeWrite
  dsimp only
  repeat' split
  all_goals exact .next _

theorem execDramPartialWrite_answers (n : Fin 8) (sub : Fin 2) (x : Sense) (s : State) :
    Answers (execDramPartialWrite n sub x s) := by
  unfold execDramPartialWrite
  dsimp only
  repeat' split
  all_goals exact .next _

theorem execMigrationCopy_answers (n : Fin 8) (count : Nat) (x : Sense) (s : State) :
    Answers (execMigrationCopy n count x s) := by
  unfold execMigrationCopy
  dsimp only
  repeat' split
  all_goals exact .next _

theorem execPatrolRead_answers (n : Fin 8) (rank : Fin 4) (i : Fin (2 ^ 29)) (x : Sense) (s : State) :
    Answers (execPatrolRead n rank ix x s) := by
  unfold execPatrolRead
  dsimp only
  repeat' split
  all_goals exact .next _

theorem execRxLocked_answers (n : Fin 100) (snr : Byte) (ctle : Fin 32) (taps : List Byte) (s : State) :
    Answers (execRxLocked n snr ctle taps s) := by
  unfold execRxLocked
  dsimp only
  repeat' split
  all_goals exact .next _

theorem execRxFrame_answers (m : Fin 100) (bs : List Byte) (bad : Bool) (phase : Fin 64) (taken poisoned : Bool)
    (s : State) :
    Answers (execRxFrame m bs bad phase taken poisoned s) := by
  unfold execRxFrame
  exact .ite (.next _) (.ite (.next _) (.ite (.next _) (.ite (.next _) (.ite (.next _) (.ite (.next _)
    (.ite (.next _) (.next _)))))))

theorem execRxFrameWrite_answers (n : Fin 65536) (s : State) : Answers (execRxFrameWrite n s) := by
  unfold execRxFrameWrite
  dsimp only
  repeat' split
  all_goals exact .next _

theorem execTimedLaunch_answers (m : Fin 96) (phase : Fin 64) (s : State) : Answers (execTimedLaunch m phase s) := by
  unfold execTimedLaunch
  dsimp only
  repeat' split
  all_goals exact .next _

theorem execLateTimedFrame_answers (n : Fin 65536) (s : State) : Answers (execLateTimedFrame n s) := by
  unfold execLateTimedFrame
  dsimp only
  repeat' split
  all_goals exact .next _

theorem execTxFrameDone_answers (m : Fin 100) (phase : Fin 64) (s : State) : Answers (execTxFrameDone m phase s) := by
  unfold execTxFrameDone
  dsimp only
  repeat' split
  all_goals exact .next _

theorem execFastInterruptEntry_answers (c : Fin 6) (r : CpuRun) (s : State) : Answers (execFastInterruptEntry c r s) := by
  unfold execFastInterruptEntry
  dsimp only
  repeat' split
  all_goals exact .next _

theorem execScratchpadAccess_answers (b : Fin 32) (us : List (BitVec 72)) (s : State) :
    Answers (execScratchpadAccess b us s) := by
  unfold execScratchpadAccess
  dsimp only
  repeat' split
  all_goals exact .next _

theorem execDmaDescriptorDone_answers (c : Fin 16) (s : State) : Answers (execDmaDescriptorDone c s) := by
  unfold execDmaDescriptorDone
  dsimp only
  repeat' split
  all_goals exact .next _

theorem execTxdWrite_answers (q : Option Req) (k : Fin 20) (w : Word) (s : State) : Answers (execTxdWrite q k w s) := by
  unfold execTxdWrite
  repeat' split
  all_goals exact .next _

theorem execRxdPop_answers (q : Option Req) (k : Fin 20) (s : State) : Answers (execRxdPop q k s) := by
  unfold execRxdPop
  repeat' split
  all_goals exact .next _

theorem execSessionFinish_answers (e : ImmEnv) (body : List Byte) (s : State) : Answers (execSessionFinish e body s) := by
  unfold execSessionFinish
  dsimp only
  repeat' split
  all_goals exact .next _

theorem execResetOrPowerAct_answers (s : State) : Answers (execResetOrPowerAct s) := by
  unfold execResetOrPowerAct
  repeat' split
  all_goals exact .next _

theorem execImmAck_answers (e : ImmEnv) (s : State) : Answers (execImmAck e s) := by
  unfold execImmAck
  dsimp only
  repeat' split
  all_goals exact .next _

theorem execImmRetransmitExpiry_answers (h : Fin 4) (s : State) : Answers (execImmRetransmitExpiry h s) := by
  unfold execImmRetransmitExpiry
  dsimp only
  repeat' split
  all_goals exact .next _

theorem execStandaloneAckTimer_answers (h : Fin 4) (s : State) : Answers (execStandaloneAckTimer h s) := by
  unfold execStandaloneAckTimer
  repeat' split
  all_goals exact .next _

theorem execRefusalResponse_answers (h : Fin 4) (s : State) : Answers (execRefusalResponse h s) := by
  unfold execRefusalResponse
  dsimp only
  repeat' split
  all_goals exact .next _

theorem execEventSend_answers (h : Fin 4) (s : State) : Answers (execEventSend h s) := by
  unfold execEventSend
  dsimp only
  repeat' split
  all_goals exact .next _

theorem execEventsLostSend_answers (h : Fin 4) (s : State) : Answers (execEventsLostSend h s) := by
  unfold execEventsLostSend
  dsimp only
  repeat' split
  all_goals exact .next _

theorem execCellarCommandDone_answers (b : Fin 4) (ok : Bool) (s : State) : Answers (execCellarCommandDone b ok s) := by
  unfold execCellarCommandDone
  dsimp only
  repeat' split
  all_goals exact .next _

theorem execCellarRead_answers (s : State) : Answers (execCellarRead s) := by
  unfold execCellarRead
  dsimp only
  repeat' split
  all_goals exact .next _

theorem execBankSuspended_answers (b : Fin 4) (s : State) : Answers (execBankSuspended b s) := by
  unfold execBankSuspended
  dsimp only
  repeat' split
  all_goals exact .next _

theorem execPowerEntryProceed_answers (s : State) : Answers (execPowerEntryProceed s) := by
  unfold execPowerEntryProceed
  repeat' split
  all_goals exact .next _

theorem execWakePowerGood_answers (s : State) : Answers (execWakePowerGood s) := by
  unfold execWakePowerGood
  repeat' split
  all_goals exact .next _

theorem execLifeCycleFuseBlown_answers (s : State) : Answers (execLifeCycleFuseBlown s) := by
  unfold execLifeCycleFuseBlown
  repeat' split
  all_goals exact .next _

theorem execKeyDeferredComplete_answers (k : Fin 9) (s : State) : Answers (execKeyDeferredComplete k s) := by
  unfold execKeyDeferredComplete
  repeat' split
  all_goals exact .next _

theorem execBistPhaseDone_answers (k : Fin 4) (s : State) : Answers (execBistPhaseDone k s) := by
  unfold execBistPhaseDone
  repeat' split
  all_goals exact .next _

theorem execBistDone_answers (k : Fin 4) (fails addr bit us : Nat) (rows cols : List (Nat × Nat)) (bad : List Nat)
    (s : State) :
    Answers (execBistDone k fails addr bit us rows cols bad s) := by
  unfold execBistDone
  repeat' split
  all_goals exact .next _

theorem execAsynchronousSr_answers (tile : Fin 57344) (c : Fin 8) (up : Bool) (src : PortSrc) (s : State) :
    Answers (execAsynchronousSr tile c up src s) := by
  unfold execAsynchronousSr
  repeat' split
  all_goals exact .next _

theorem execPoisonedWordLoad_answers (c : Fin 6) (x : CpuLoad) (s : State) : Answers (execPoisonedWordLoad c x s) := by
  unfold execPoisonedWordLoad
  repeat' split
  all_goals exact .next _

/-- Every command answers a next state. -/
theorem exec_answers (s : State) : (c : Instr) → Answers (exec c s)
  | .powerOnResetRelease | .refQualified .. | .coastSlewDone | .rootCoastTimer | .refWaitTimeout | .rootLoopLock
  | .rootSwitchDone | .autoRelockTimer | .relockComplete | .foreignLineSwitchDone .. | .foreignSourceLoss ..
  | .oscSettled .. | .blockClockIdleClose .. | .sectorGateOpen .. | .illegalInstruction .. | .sliceStart ..
  | .trigInput .. | .xCapture .. | .yDeliver .. | .inspectionSteal .. | .dmNocWaitExpiry .. | .sectorPowerGood ..
  | .stagingEraseReissue | .vatResetHoldExpiry .. | .memoryFrameReload .. | .moduleRegionRelease ..
  | .moduleRestoreDone .. | .churnPassStart | .churnPassComplete | .churnPassLate | .mapSyncDone | .spanAckTimer ..
  | .neighbourRefresh .. | .readTimingTracking .. | .migrationDone .. | .selfRefreshReached .. | .channelReady ..
  | .quadPllLock .. | .lanePllFail .. | .quadRefQualified .. | .quadRefLoss .. | .rxSignalDetect .. | .rxCdrLock ..
  | .rxLockLost .. | .rxSignalLost .. | .rxNoLock .. | .prbsCheckerLock .. | .elasticBufferSlip .. | .linkUp ..
  | .queueStage .. | .tclkLock | .trefQualified .. | .tclkRelock | .baseWatchdogExpiry .. | .cmpFire .. | .pulseAssert ..
  | .pulseRelease .. | .interruptAssert .. | .wakeLatchEdge .. | .storeErrorResponse .. | .peripheralTransferDone ..
  | .i2cTimeout .. | .mpRateAlternate .. | .smbusStatusRead | .smbusLastgaspRead .. | .breakpointHit .. | .bankResume ..
  | .logFlush .. | .wakeEdge .. | .wakeTimerExpiry | .resetRelease | .bistFuseDone .. | .hioOutputsReturn ..
  | .registerWrite .. | .activeClockEdge .. | .continuousErrorInjection .. => .ite (.next _) (.next _)
  | .supplyLeavesTolerance .. | .rootSourceSwitch .. | .relock .. | .dividerWrite .. | .dividerTakesEffect
  | .foreignLineSourceWrite .. | .oscConfigWrite .. | .sliceNop .. | .sliceTap .. | .sliceMac .. | .sliceIn ..
  | .sliceOut .. | .sliceLda .. | .sliceLdc .. | .sliceCas .. | .sliceLoop .. | .sliceJmp .. | .sliceSetag ..
  | .sliceWait .. | .sliceHalt .. | .sliceSig .. | .sliceHaltRequest .. | .sliceResume .. | .sliceStep ..
  | .inspectionStart .. | .clearIllegal .. | .commitOpen .. | .commitClose .. | .activate .. | .rollback .. | .confirm ..
  | .arm .. | .disarm .. | .invalidate .. | .capture .. | .frameAccessRead .. | .frameAccessWrite .. | .imgStage ..
  | .imgCommit .. | .imgStream .. | .imgVerify .. | .bootSet .. | .frameRecord .. | .frameZRecord .. | .repeatRecord ..
  | .zeroRunRecord .. | .vatResetRequest .. | .vatReleaseRequest .. | .vatPowerGate .. | .vatPowerUp ..
  | .resourceAssignWrite .. | .moduleRegionEnable .. | .moduleLoadRequest .. | .churnEnable .. | .churnDisable ..
  | .mapEntryWrite .. | .mapSync .. | .mapCacheRefresh .. | .regulatorBind .. | .regulatorUnbind .. | .spanPortEnable ..
  | .spanPortDisable .. | .spanFlitFrame .. | .spanFlitrFrame .. | .temperaturePoll .. | .rowIdleClose ..
  | .channelInit .. | .channelFill .. | .migrationStart .. | .selfRefreshEnter .. | .selfRefreshExit ..
  | .spareSubstitute .. | .quadPllEnable .. | .laneTxPowerSet .. | .laneRxPowerSet .. | .laneRateSet ..
  | .laneLoopbackSet .. | .txPresetChange .. | .recoveredClockDivider .. | .injectOnce .. | .portEnable ..
  | .portDisable .. | .linkDown .. | .queueEnable .. | .queueDisable .. | .queueDoorbell .. | .pauseExpiry ..
  | .sendPause .. | .queueResume .. | .tclkSourceSelect .. | .tbSet .. | .tbStep .. | .tbSnap .. | .rateUpdate ..
  | .cmpArm .. | .cmpDisarm .. | .pulseEnable .. | .capturePop .. | .tsqPop .. | .coreRun .. | .coreReset .. | .claim ..
  | .complete .. | .pendClear .. | .softwareInterrupt .. | .vclaim .. | .vcomplete .. | .msterrClear ..
  | .scratchpadLock .. | .dmaGo .. | .dmaStop .. | .mtimeCompare .. | .identify .. | .sessionInit .. | .regRd ..
  | .regWr .. | .memRd .. | .memWr .. | .stats .. | .planeOp .. | .immVatReset .. | .immReset .. | .immPower ..
  | .logRead .. | .sessionIdleTimeout .. | .dbgOpen .. | .dbgAuth .. | .dbgChallengeTimeout | .dbgClose .. | .dbgRd ..
  | .dbgWr .. | .dbgRunHalt .. | .dbgRunResume .. | .dbgRunStep .. | .dbgRunStatus .. | .dbgCpu .. | .dbgBkpt ..
  | .debugLock .. | .cellarProgram .. | .cellarErase .. | .logDegradedReminder | .celOpRead .. | .celOpProgram ..
  | .celOpErase .. | .setLevel .. | .bbtRead .. | .celOpStatus .. | .coldResetRequest .. | .warmResetRequest ..
  | .keyWrite .. | .keyErase .. | .keyStatus .. | .advance .. | .bistCmdGo .. | .bistRunTest .. | .bistRunFuse ..
  | .bistRunStatus .. | .bistRunDefectRead .. | .rangeWrite .. | .strapChange .. | .tapReset | .extest .. | .idcode
  | .samplePreload .. | .bypass | .regulatorBucketFill .. | .xo32Loss | .xo32Return => .next _
  | .refLoss .. | .nocRequestIssue .. | .spanCtrlFrame .. | .refreshDue .. | .txStreamFrame .. =>
    .ite (.next _) (.ite (.next _) (.ite (.next _) (.next _)))
  | .bm36FullWrite .. | .bm36NarrowWrite .. | .correctionWriteBack .. | .dmFabricRead .. | .dmFabricWrite ..
  | .vatResetAssertion .. | .vatRelease .. | .vatGatingDone .. | .spanReplayExpiry .. | .channelInitDone ..
  | .rankFillDone .. | .trefLoss .. | .captureEdge .. | .fret .. | .peripheralWordReceived .. | .sessionClose ..
  | .processorHalted .. | .resetNEdge .. | .hioSupplyOutOfWindow .. => .ite (.next _) (.ite (.next _) (.next _))
  | .txOnReached .. | .prbsCheckerBlock .. | .powerCommand .. => .ite (.ite (.next _) (.next _)) (.next _)
  | .deferredWholeDeviceStart d => execDeferredWholeDeviceStart_answers d s
  | .deferredTestStart k => execDeferredTestStart_answers k s
  | .deferredSwapStart v d => execDeferredSwapStart_answers v d s
  | .portPAccess g a we d u src => execPortPAccess_answers g a we d u src s
  | .portPSteal g a we d u src => execPortPSteal_answers g a we d u src s
  | .bm36Read b pb t a u src => execBm36Read_answers b pb t a u src s
  | .bm36Clear m t src => execBm36Clear_answers m t src s
  | .dmDeferredServe p cap => execDmDeferredServe_answers p cap s
  | .dmNocRequest p us => execDmNocRequest_answers p us s
  | .commitCloseDone v ups => execCommitCloseDone_answers v ups s
  | .loadComplete v ups => execLoadComplete_answers v ups s
  | .confirmWindowExpiry v => execConfirmWindowExpiry_answers v s
  | .expiryRollbackStart v => execExpiryRollbackStart_answers v s
  | .armCompareFire k => execArmCompareFire_answers k s
  | .activationAssertion k d => execActivationAssertion_answers k d s
  | .frameAccessDone bits bad => execFrameAccessDone_answers bits bad s
  | .planeRepair n fails => execPlaneRepair_answers n fails s
  | .starterFirmwareStart copy => execStarterFirmwareStart_answers copy s
  | .headerRecord e env => execHeaderRecord_answers e env s
  | .signatureRecord e env => execSignatureRecord_answers e env s
  | .signatureVerified e => execSignatureVerified_answers e s
  | .meminitRecord e env => execMeminitRecord_answers e env s
  | .endRecord e env => execEndRecord_answers e env s
  | .imageSendTimeout => execImageSendTimeout_answers s
  | .memoryInitStart v lost => execMemoryInitStart_answers v lost s
  | .memoryInitDone v => execMemoryInitDone_answers v s
  | .moduleLoadStart v => execModuleLoadStart_answers v s
  | .moduleLoadDone v => execModuleLoadDone_answers v s
  | .moduleLoadRestore v => execModuleLoadRestore_answers v s
  | .scrubRead q bits => execScrubRead_answers q bits s
  | .correctionWrite q fails left => execCorrectionWrite_answers q fails left s
  | .restorePlaneRead q bits => execRestorePlaneRead_answers q bits s
  | .restorationWrite q fails left => execRestorationWrite_answers q fails left s
  | .flitForward y x o hdrErr payErr => execFlitForward_answers y x o hdrErr payErr s
  | .targetRequestArrival a vc x => execTargetRequestArrival_answers a vc x s
  | .responseArrival ix cycles x => execResponseArrival_answers ix cycles x s
  | .initiatorTimeout ix t x => execInitiatorTimeout_answers ix t x s
  | .quarantineExpiry ix t => execQuarantineExpiry_answers ix t s
  | .spanInitFrame k ws => execSpanInitFrame_answers k ws s
  | .spanGatewayFlit => execSpanGatewayFlit_answers s
  | .dramAdmit n => execDramAdmit_answers n s
  | .dramRead n sub x => execDramRead_answers n sub x s
  | .dramWholeWrite n sub => execDramWholeWrite_answers n sub s
  | .dramPartialWrite n sub x => execDramPartialWrite_answers n sub x s
  | .migrationCopy n count x => execMigrationCopy_answers n count x s
  | .patrolRead n rank ix x => execPatrolRead_answers n rank ix x s
  | .rxLocked n snr ctle taps => execRxLocked_answers n snr ctle taps s
  | .rxFrame m bs bad phase taken poisoned => execRxFrame_answers m bs bad phase taken poisoned s
  | .rxFrameWrite n => execRxFrameWrite_answers n s
  | .timedLaunch m phase => execTimedLaunch_answers m phase s
  | .lateTimedFrame n => execLateTimedFrame_answers n s
  | .txFrameDone m phase => execTxFrameDone_answers m phase s
  | .fastInterruptEntry c r => execFastInterruptEntry_answers c r s
  | .scratchpadAccess b us => execScratchpadAccess_answers b us s
  | .dmaDescriptorDone c => execDmaDescriptorDone_answers c s
  | .txdWrite q k w => execTxdWrite_answers q k w s
  | .rxdPop q k => execRxdPop_answers q k s
  | .sessionFinish e body => execSessionFinish_answers e body s
  | .resetOrPowerAct => execResetOrPowerAct_answers s
  | .immAck e => execImmAck_answers e s
  | .immRetransmitExpiry h => execImmRetransmitExpiry_answers h s
  | .standaloneAckTimer h => execStandaloneAckTimer_answers h s
  | .refusalResponse h => execRefusalResponse_answers h s
  | .eventSend h => execEventSend_answers h s
  | .eventsLostSend h => execEventsLostSend_answers h s
  | .cellarCommandDone b ok => execCellarCommandDone_answers b ok s
  | .cellarRead => execCellarRead_answers s
  | .bankSuspended b => execBankSuspended_answers b s
  | .powerEntryProceed => execPowerEntryProceed_answers s
  | .wakePowerGood => execWakePowerGood_answers s
  | .lifeCycleFuseBlown => execLifeCycleFuseBlown_answers s
  | .keyDeferredComplete k => execKeyDeferredComplete_answers k s
  | .bistPhaseDone k => execBistPhaseDone_answers k s
  | .bistDone k fails addr bit us rows cols bad => execBistDone_answers k fails addr bit us rows cols bad s
  | .asynchronousSr tile c up src => execAsynchronousSr_answers tile c up src s
  | .poisonedWordLoad c x => execPoisonedWordLoad_answers c x s

/-- Every command leaves the queue and keeps each part of the invariant. -/
theorem exec_ev {s0 s : State} (hs : Ev s0 s) : (c : Instr) → EvR s0 (exec c s)
  | .powerOnResetRelease => execPowerOnResetRelease_ev hs
  | .supplyLeavesTolerance k => execSupplyLeavesTolerance_ev k hs
  | .deferredWholeDeviceStart d => execDeferredWholeDeviceStart_ev d hs
  | .deferredTestStart k => execDeferredTestStart_ev k hs
  | .deferredSwapStart v d => execDeferredSwapStart_ev v d hs
  | .refQualified refb => execRefQualified_ev refb hs
  | .refLoss refb => execRefLoss_ev refb hs
  | .coastSlewDone => execCoastSlewDone_ev hs
  | .rootCoastTimer => execRootCoastTimer_ev hs
  | .refWaitTimeout => execRefWaitTimeout_ev hs
  | .rootLoopLock => execRootLoopLock_ev hs
  | .rootSourceSwitch q w => execRootSourceSwitch_ev q w hs
  | .rootSwitchDone => execRootSwitchDone_ev hs
  | .relock q w => execRelock_ev q w hs
  | .autoRelockTimer => execAutoRelockTimer_ev hs
  | .relockComplete => execRelockComplete_ev hs
  | .dividerWrite q d w => execDividerWrite_ev q d w hs
  | .dividerTakesEffect => execDividerTakesEffect_ev hs
  | .foreignLineSourceWrite q k l w => execForeignLineSourceWrite_ev q k l w hs
  | .foreignLineSwitchDone q l => execForeignLineSwitchDone_ev q l hs
  | .foreignSourceLoss q l vats => execForeignSourceLoss_ev q l vats hs
  | .oscConfigWrite q n w => execOscConfigWrite_ev q n w hs
  | .oscSettled n => execOscSettled_ev n hs
  | .blockClockIdleClose g => execBlockClockIdleClose_ev g hs
  | .sectorGateOpen sec => execSectorGateOpen_ev sec hs
  | .sliceNop g => execSliceNop_ev g hs
  | .sliceTap g ua uc => execSliceTap_ev g ua uc hs
  | .sliceMac g ua ub uc => execSliceMac_ev g ua ub uc hs
  | .sliceIn g => execSliceIn_ev g hs
  | .sliceOut g => execSliceOut_ev g hs
  | .sliceLda g ua => execSliceLda_ev g ua hs
  | .sliceLdc g ua => execSliceLdc_ev g ua hs
  | .sliceCas g => execSliceCas_ev g hs
  | .sliceLoop g => execSliceLoop_ev g hs
  | .sliceJmp g ci src => execSliceJmp_ev g ci src hs
  | .sliceSetag g => execSliceSetag_ev g hs
  | .sliceWait g ci src => execSliceWait_ev g ci src hs
  | .sliceHalt g => execSliceHalt_ev g hs
  | .sliceSig g => execSliceSig_ev g hs
  | .illegalInstruction g => execIllegalInstruction_ev g hs
  | .sliceStart g src => execSliceStart_ev g src hs
  | .trigInput g src => execTrigInput_ev g src hs
  | .xCapture g x p src => execXCapture_ev g x p src hs
  | .yDeliver g src => execYDeliver_ev g src hs
  | .portPAccess g a we d u src => execPortPAccess_ev g a we d u src hs
  | .portPSteal g a we d u src => execPortPSteal_ev g a we d u src hs
  | .inspectionSteal g u uc => execInspectionSteal_ev g u uc hs
  | .sliceHaltRequest q g => execSliceHaltRequest_ev q g hs
  | .sliceResume q g => execSliceResume_ev q g hs
  | .sliceStep q g => execSliceStep_ev q g hs
  | .inspectionStart q g w => execInspectionStart_ev q g w hs
  | .clearIllegal q g => execClearIllegal_ev q g hs
  | .bm36Read b pb t a u src => execBm36Read_ev b pb t a u src hs
  | .bm36FullWrite b pb t a d be wp src => execBm36FullWrite_ev b pb t a d be wp src hs
  | .bm36NarrowWrite b pb t a d be wp u src => execBm36NarrowWrite_ev b pb t a d be wp u src hs
  | .bm36Clear m t src => execBm36Clear_ev m t src hs
  | .correctionWriteBack m pb t => execCorrectionWriteBack_ev m pb t hs
  | .dmFabricRead p pb t cap a u src => execDmFabricRead_ev p pb t cap a u src hs
  | .dmFabricWrite p pb t cap a d be wp u src => execDmFabricWrite_ev p pb t cap a d be wp u src hs
  | .dmDeferredServe p cap => execDmDeferredServe_ev p cap hs
  | .dmNocRequest p us => execDmNocRequest_ev p us hs
  | .dmNocWaitExpiry p us waited => execDmNocWaitExpiry_ev p us waited hs
  | .sectorPowerGood sec => execSectorPowerGood_ev sec hs
  | .commitOpen q => execCommitOpen_ev q hs
  | .commitClose q => execCommitClose_ev q hs
  | .commitCloseDone v ups => execCommitCloseDone_ev v ups hs
  | .activate q => execActivate_ev q hs
  | .rollback q => execRollback_ev q hs
  | .confirm q => execConfirm_ev q hs
  | .arm q => execArm_ev q hs
  | .disarm q => execDisarm_ev q hs
  | .invalidate q => execInvalidate_ev q hs
  | .capture q => execCapture_ev q hs
  | .loadComplete v ups => execLoadComplete_ev v ups hs
  | .confirmWindowExpiry v => execConfirmWindowExpiry_ev v hs
  | .expiryRollbackStart v => execExpiryRollbackStart_ev v hs
  | .armCompareFire k => execArmCompareFire_ev k hs
  | .activationAssertion k d => execActivationAssertion_ev k d hs
  | .frameAccessRead q w => execFrameAccessRead_ev q w hs
  | .frameAccessWrite q w => execFrameAccessWrite_ev q w hs
  | .frameAccessDone bits bad => execFrameAccessDone_ev bits bad hs
  | .planeRepair n fails => execPlaneRepair_ev n fails hs
  | .starterFirmwareStart copy => execStarterFirmwareStart_ev copy hs
  | .imgStage e body => execImgStage_ev e body hs
  | .imgCommit e body => execImgCommit_ev e body hs
  | .imgStream e body => execImgStream_ev e body hs
  | .imgVerify e body => execImgVerify_ev e body hs
  | .bootSet e body => execBootSet_ev e body hs
  | .headerRecord e env => execHeaderRecord_ev e env hs
  | .signatureRecord e env => execSignatureRecord_ev e env hs
  | .signatureVerified e => execSignatureVerified_ev e hs
  | .frameRecord e env => execFrameRecord_ev e env hs
  | .frameZRecord e env => execFrameZRecord_ev e env hs
  | .repeatRecord e env => execRepeatRecord_ev e env hs
  | .zeroRunRecord e env => execZeroRunRecord_ev e env hs
  | .meminitRecord e env => execMeminitRecord_ev e env hs
  | .endRecord e env => execEndRecord_ev e env hs
  | .imageSendTimeout => execImageSendTimeout_ev hs
  | .stagingEraseReissue => execStagingEraseReissue_ev hs
  | .memoryInitStart v lost => execMemoryInitStart_ev v lost hs
  | .memoryInitDone v => execMemoryInitDone_ev v hs
  | .vatResetRequest q v w => execVatResetRequest_ev q v w hs
  | .vatReleaseRequest q v w => execVatReleaseRequest_ev q v w hs
  | .vatResetAssertion v => execVatResetAssertion_ev v hs
  | .vatResetHoldExpiry v => execVatResetHoldExpiry_ev v hs
  | .vatRelease v => execVatRelease_ev v hs
  | .memoryFrameReload v => execMemoryFrameReload_ev v hs
  | .vatPowerGate q v w => execVatPowerGate_ev q v w hs
  | .vatPowerUp q v w => execVatPowerUp_ev q v w hs
  | .vatGatingDone v => execVatGatingDone_ev v hs
  | .resourceAssignWrite q v k w => execResourceAssignWrite_ev q v k w hs
  | .moduleRegionEnable q v k w => execModuleRegionEnable_ev q v k w hs
  | .moduleLoadRequest q v w => execModuleLoadRequest_ev q v w hs
  | .moduleLoadStart v => execModuleLoadStart_ev v hs
  | .moduleLoadDone v => execModuleLoadDone_ev v hs
  | .moduleRegionRelease v => execModuleRegionRelease_ev v hs
  | .moduleLoadRestore v => execModuleLoadRestore_ev v hs
  | .moduleRestoreDone v => execModuleRestoreDone_ev v hs
  | .churnPassStart => execChurnPassStart_ev hs
  | .scrubRead q bits => execScrubRead_ev q bits hs
  | .correctionWrite q fails left => execCorrectionWrite_ev q fails left hs
  | .restorePlaneRead q bits => execRestorePlaneRead_ev q bits hs
  | .restorationWrite q fails left => execRestorationWrite_ev q fails left hs
  | .churnPassComplete => execChurnPassComplete_ev hs
  | .churnPassLate => execChurnPassLate_ev hs
  | .churnEnable q w => execChurnEnable_ev q w hs
  | .churnDisable q w => execChurnDisable_ev q w hs
  | .nocRequestIssue ix rq => execNocRequestIssue_ev ix rq hs
  | .flitForward y x o hdrErr payErr => execFlitForward_ev y x o hdrErr payErr hs
  | .targetRequestArrival a vc x => execTargetRequestArrival_ev a vc x hs
  | .responseArrival ix cycles x => execResponseArrival_ev ix cycles x hs
  | .initiatorTimeout ix t x => execInitiatorTimeout_ev ix t x hs
  | .quarantineExpiry ix t => execQuarantineExpiry_ev ix t hs
  | .mapEntryWrite q e k w => execMapEntryWrite_ev q e k w hs
  | .mapSync q => execMapSync_ev q hs
  | .mapSyncDone => execMapSyncDone_ev hs
  | .mapCacheRefresh ix => execMapCacheRefresh_ev ix hs
  | .regulatorBind q ix => execRegulatorBind_ev q ix hs
  | .regulatorUnbind q ix => execRegulatorUnbind_ev q ix hs
  | .spanPortEnable q k w => execSpanPortEnable_ev q k w hs
  | .spanPortDisable q k w => execSpanPortDisable_ev q k w hs
  | .spanInitFrame k ws => execSpanInitFrame_ev k ws hs
  | .spanCtrlFrame k ws => execSpanCtrlFrame_ev k ws hs
  | .spanFlitFrame k ws stamp => execSpanFlitFrame_ev k ws stamp hs
  | .spanFlitrFrame k ws => execSpanFlitrFrame_ev k ws hs
  | .spanAckTimer k => execSpanAckTimer_ev k hs
  | .spanReplayExpiry k => execSpanReplayExpiry_ev k hs
  | .spanGatewayFlit => execSpanGatewayFlit_ev hs
  | .dramAdmit n => execDramAdmit_ev n hs
  | .dramRead n sub x => execDramRead_ev n sub x hs
  | .dramWholeWrite n sub => execDramWholeWrite_ev n sub hs
  | .dramPartialWrite n sub x => execDramPartialWrite_ev n sub x hs
  | .refreshDue n sub rank => execRefreshDue_ev n sub rank hs
  | .temperaturePoll n hot => execTemperaturePoll_ev n hot hs
  | .neighbourRefresh n bank row => execNeighbourRefresh_ev n bank row hs
  | .readTimingTracking n sub => execReadTimingTracking_ev n sub hs
  | .rowIdleClose n bank => execRowIdleClose_ev n bank hs
  | .channelInit q n w => execChannelInit_ev q n w hs
  | .channelInitDone n failed drfm => execChannelInitDone_ev n failed drfm hs
  | .channelFill q n w => execChannelFill_ev q n w hs
  | .rankFillDone n r => execRankFillDone_ev n r hs
  | .migrationStart q n w => execMigrationStart_ev q n w hs
  | .migrationCopy n count x => execMigrationCopy_ev n count x hs
  | .migrationDone n => execMigrationDone_ev n hs
  | .patrolRead n rank ix x => execPatrolRead_ev n rank ix x hs
  | .selfRefreshEnter q n w => execSelfRefreshEnter_ev q n w hs
  | .selfRefreshExit q n w => execSelfRefreshExit_ev q n w hs
  | .selfRefreshReached n => execSelfRefreshReached_ev n hs
  | .channelReady n => execChannelReady_ev n hs
  | .spareSubstitute q n w => execSpareSubstitute_ev q n w hs
  | .quadPllEnable q u p w => execQuadPllEnable_ev q u p w hs
  | .quadPllLock u p => execQuadPllLock_ev u p hs
  | .lanePllFail u p => execLanePllFail_ev u p hs
  | .quadRefQualified u => execQuadRefQualified_ev u hs
  | .quadRefLoss u => execQuadRefLoss_ev u hs
  | .laneTxPowerSet q n p => execLaneTxPowerSet_ev q n p hs
  | .laneRxPowerSet q n p => execLaneRxPowerSet_ev q n p hs
  | .laneRateSet q n pll mod d => execLaneRateSet_ev q n pll mod d hs
  | .laneLoopbackSet q n m => execLaneLoopbackSet_ev q n m hs
  | .txOnReached n => execTxOnReached_ev n hs
  | .rxSignalDetect n => execRxSignalDetect_ev n hs
  | .rxCdrLock n => execRxCdrLock_ev n hs
  | .rxLocked n snr ctle taps => execRxLocked_ev n snr ctle taps hs
  | .rxLockLost n => execRxLockLost_ev n hs
  | .rxSignalLost n => execRxSignalLost_ev n hs
  | .rxNoLock n => execRxNoLock_ev n hs
  | .txPresetChange q n fir w => execTxPresetChange_ev q n fir w hs
  | .recoveredClockDivider q n c => execRecoveredClockDivider_ev q n c hs
  | .prbsCheckerLock n seed bits => execPrbsCheckerLock_ev n seed bits hs
  | .prbsCheckerBlock n bits => execPrbsCheckerBlock_ev n bits hs
  | .injectOnce q n w => execInjectOnce_ev q n w hs
  | .elasticBufferSlip n => execElasticBufferSlip_ev n hs
  | .portEnable q m w => execPortEnable_ev q m w hs
  | .portDisable q m w => execPortDisable_ev q m w hs
  | .linkUp m => execLinkUp_ev m hs
  | .linkDown m lf rf => execLinkDown_ev m lf rf hs
  | .rxFrame m bs bad phase taken poisoned => execRxFrame_ev m bs bad phase taken poisoned hs
  | .rxFrameWrite n => execRxFrameWrite_ev n hs
  | .txStreamFrame m bs abort fid phase partly => execTxStreamFrame_ev m bs abort fid phase partly hs
  | .queueEnable q n w => execQueueEnable_ev q n w hs
  | .queueDisable q n w => execQueueDisable_ev q n w hs
  | .queueDoorbell q n w => execQueueDoorbell_ev q n w hs
  | .queueStage m => execQueueStage_ev m hs
  | .timedLaunch m phase => execTimedLaunch_ev m phase hs
  | .lateTimedFrame n => execLateTimedFrame_ev n hs
  | .txFrameDone m phase => execTxFrameDone_ev m phase hs
  | .pauseExpiry m c => execPauseExpiry_ev m c hs
  | .sendPause q m w => execSendPause_ev q m w hs
  | .queueResume q w => execQueueResume_ev q w hs
  | .tclkSourceSelect q w => execTclkSourceSelect_ev q w hs
  | .tclkLock => execTclkLock_ev hs
  | .trefQualified ref => execTrefQualified_ev ref hs
  | .trefLoss ref => execTrefLoss_ev ref hs
  | .tclkRelock => execTclkRelock_ev hs
  | .tbSet q b w => execTbSet_ev q b w hs
  | .tbStep q b w => execTbStep_ev q b w hs
  | .tbSnap q b w => execTbSnap_ev q b w hs
  | .rateUpdate q b w => execRateUpdate_ev q b w hs
  | .baseWatchdogExpiry b => execBaseWatchdogExpiry_ev b hs
  | .cmpArm q ix w => execCmpArm_ev q ix w hs
  | .cmpDisarm q ix w => execCmpDisarm_ev q ix w hs
  | .cmpFire ix => execCmpFire_ev ix hs
  | .pulseEnable q k w => execPulseEnable_ev q k w hs
  | .pulseAssert k => execPulseAssert_ev k hs
  | .pulseRelease k => execPulseRelease_ev k hs
  | .captureEdge j rise phase near => execCaptureEdge_ev j rise phase near hs
  | .capturePop q j => execCapturePop_ev q j hs
  | .tsqPop q m => execTsqPop_ev q m hs
  | .coreRun q k w => execCoreRun_ev q k w hs
  | .coreReset q k w => execCoreReset_ev q k w hs
  | .interruptAssert ix b => execInterruptAssert_ev ix b hs
  | .fastInterruptEntry c r => execFastInterruptEntry_ev c r hs
  | .fret c r => execFret_ev c r hs
  | .claim q c => execClaim_ev q c hs
  | .complete q c w => execComplete_ev q c w hs
  | .pendClear q k w => execPendClear_ev q k w hs
  | .softwareInterrupt q w => execSoftwareInterrupt_ev q w hs
  | .vclaim q v => execVclaim_ev q v hs
  | .vcomplete q v w => execVcomplete_ev q v w hs
  | .wakeLatchEdge ix => execWakeLatchEdge_ev ix hs
  | .storeErrorResponse c st a => execStoreErrorResponse_ev c st a hs
  | .msterrClear c => execMsterrClear_ev c hs
  | .scratchpadAccess b us => execScratchpadAccess_ev b us hs
  | .scratchpadLock q k w => execScratchpadLock_ev q k w hs
  | .dmaGo q c w => execDmaGo_ev q c w hs
  | .dmaStop q c w => execDmaStop_ev q c w hs
  | .dmaDescriptorDone c => execDmaDescriptorDone_ev c hs
  | .txdWrite q k w => execTxdWrite_ev q k w hs
  | .rxdPop q k => execRxdPop_ev q k hs
  | .peripheralWordReceived k w => execPeripheralWordReceived_ev k w hs
  | .peripheralTransferDone k ws => execPeripheralTransferDone_ev k ws hs
  | .i2cTimeout j => execI2cTimeout_ev j hs
  | .mtimeCompare k => execMtimeCompare_ev k hs
  | .identify e body => execIdentify_ev e body hs
  | .sessionInit e body => execSessionInit_ev e body hs
  | .sessionFinish e body => execSessionFinish_ev e body hs
  | .sessionClose e body => execSessionClose_ev e body hs
  | .regRd e body => execRegRd_ev e body hs
  | .regWr e body => execRegWr_ev e body hs
  | .memRd e body => execMemRd_ev e body hs
  | .memWr e body => execMemWr_ev e body hs
  | .stats e body => execStats_ev e body hs
  | .planeOp e body => execPlaneOp_ev e body hs
  | .immVatReset e body => execImmVatReset_ev e body hs
  | .immReset e body => execImmReset_ev e body hs
  | .immPower e body => execImmPower_ev e body hs
  | .resetOrPowerAct => execResetOrPowerAct_ev hs
  | .logRead e body => execLogRead_ev e body hs
  | .immAck e => execImmAck_ev e hs
  | .immRetransmitExpiry h => execImmRetransmitExpiry_ev h hs
  | .standaloneAckTimer h => execStandaloneAckTimer_ev h hs
  | .sessionIdleTimeout h => execSessionIdleTimeout_ev h hs
  | .refusalResponse h => execRefusalResponse_ev h hs
  | .eventSend h => execEventSend_ev h hs
  | .eventsLostSend h => execEventsLostSend_ev h hs
  | .mpRateAlternate h => execMpRateAlternate_ev h hs
  | .smbusStatusRead => execSmbusStatusRead_ev hs
  | .smbusLastgaspRead hi => execSmbusLastgaspRead_ev hi hs
  | .dbgOpen e body => execDbgOpen_ev e body hs
  | .dbgAuth e body => execDbgAuth_ev e body hs
  | .dbgChallengeTimeout => execDbgChallengeTimeout_ev hs
  | .dbgClose e body => execDbgClose_ev e body hs
  | .dbgRd e body => execDbgRd_ev e body hs
  | .dbgWr e body => execDbgWr_ev e body hs
  | .dbgRunHalt e core => execDbgRunHalt_ev e core hs
  | .dbgRunResume e core => execDbgRunResume_ev e core hs
  | .dbgRunStep e core => execDbgRunStep_ev e core hs
  | .dbgRunStatus e core => execDbgRunStatus_ev e core hs
  | .processorHalted k r => execProcessorHalted_ev k r hs
  | .dbgCpu e body => execDbgCpu_ev e body hs
  | .dbgBkpt e body => execDbgBkpt_ev e body hs
  | .breakpointHit k ix r => execBreakpointHit_ev k ix r hs
  | .debugLock q => execDebugLock_ev q hs
  | .cellarProgram q => execCellarProgram_ev q hs
  | .cellarErase q => execCellarErase_ev q hs
  | .cellarCommandDone b ok => execCellarCommandDone_ev b ok hs
  | .cellarRead => execCellarRead_ev hs
  | .bankSuspended b => execBankSuspended_ev b hs
  | .bankResume b => execBankResume_ev b hs
  | .logFlush aud n fails => execLogFlush_ev aud n fails hs
  | .logDegradedReminder => execLogDegradedReminder_ev hs
  | .celOpRead e body => execCelOpRead_ev e body hs
  | .celOpProgram e body => execCelOpProgram_ev e body hs
  | .celOpErase e body => execCelOpErase_ev e body hs
  | .setLevel e body => execSetLevel_ev e body hs
  | .bbtRead e body => execBbtRead_ev e body hs
  | .celOpStatus e body => execCelOpStatus_ev e body hs
  | .powerCommand q w => execPowerCommand_ev q w hs
  | .powerEntryProceed => execPowerEntryProceed_ev hs
  | .wakeEdge ix => execWakeEdge_ev ix hs
  | .wakeTimerExpiry => execWakeTimerExpiry_ev hs
  | .wakePowerGood => execWakePowerGood_ev hs
  | .resetNEdge ns => execResetNEdge_ev ns hs
  | .coldResetRequest q => execColdResetRequest_ev q hs
  | .warmResetRequest q => execWarmResetRequest_ev q hs
  | .resetRelease => execResetRelease_ev hs
  | .keyWrite e body => execKeyWrite_ev e body hs
  | .keyErase e body => execKeyErase_ev e body hs
  | .keyStatus e body => execKeyStatus_ev e body hs
  | .advance e body => execAdvance_ev e body hs
  | .lifeCycleFuseBlown => execLifeCycleFuseBlown_ev hs
  | .keyDeferredComplete k => execKeyDeferredComplete_ev k hs
  | .bistCmdGo q k w => execBistCmdGo_ev q k w hs
  | .bistRunTest e body => execBistRunTest_ev e body hs
  | .bistRunFuse e body => execBistRunFuse_ev e body hs
  | .bistRunStatus e body => execBistRunStatus_ev e body hs
  | .bistRunDefectRead e body => execBistRunDefectRead_ev e body hs
  | .bistPhaseDone k => execBistPhaseDone_ev k hs
  | .bistDone k fails addr bit us rows cols bad => execBistDone_ev k fails addr bit us rows cols bad hs
  | .bistFuseDone kind mem => execBistFuseDone_ev kind mem hs
  | .hioSupplyOutOfWindow b mv => execHioSupplyOutOfWindow_ev b mv hs
  | .hioOutputsReturn b mv => execHioOutputsReturn_ev b mv hs
  | .rangeWrite q b w => execRangeWrite_ev q b w hs
  | .strapChange b p => execStrapChange_ev b p hs
  | .tapReset => execTapReset_ev hs
  | .extest load => execExtest_ev load hs
  | .idcode => execIdcode_ev hs
  | .samplePreload load => execSamplePreload_ev load hs
  | .bypass => execBypass_ev hs
  | .registerWrite q off n w => execRegisterWrite_ev q off n w hs
  | .activeClockEdge e => execActiveClockEdge_ev e hs
  | .asynchronousSr tile c up src => execAsynchronousSr_ev tile c up src hs
  | .regulatorBucketFill r => execRegulatorBucketFill_ev r hs
  | .continuousErrorInjection n => execContinuousErrorInjection_ev n hs
  | .xo32Loss => execXo32Loss_ev hs
  | .xo32Return => execXo32Return_ev hs
  | .poisonedWordLoad c x => execPoisonedWordLoad_ev c x hs

/-- The queue is the one part that `allParts` leaves out. -/
theorem Ev.onlyAllParts {s t : State} (h : Ev s t) : only allParts s t := by
  intro p hp
  cases p with
  | pending => exact h.pending
  | _ => exact absurd (by decide) hp

/-- Every command changes only its parts; one that can change all of them leaves the queue. -/
theorem exec_only (s : State) : (c : Instr) → OnlyR (partsOf c) s (exec c s)
  | .powerOnResetRelease => execPowerOnResetRelease_only (List.Subset.refl _) (only.refl _ s)
  | .deferredWholeDeviceStart d => execDeferredWholeDeviceStart_only d (List.Subset.refl _) (only.refl _ s)
  | .deferredTestStart k => execDeferredTestStart_only k (List.Subset.refl _) (only.refl _ s)
  | .deferredSwapStart v d => execDeferredSwapStart_only v d (List.Subset.refl _) (only.refl _ s)
  | .refQualified refb => execRefQualified_only refb (List.Subset.refl _) (only.refl _ s)
  | .refLoss refb => execRefLoss_only refb (List.Subset.refl _) (only.refl _ s)
  | .coastSlewDone => execCoastSlewDone_only (List.Subset.refl _) (only.refl _ s)
  | .rootCoastTimer => execRootCoastTimer_only (List.Subset.refl _) (only.refl _ s)
  | .refWaitTimeout => execRefWaitTimeout_only (List.Subset.refl _) (only.refl _ s)
  | .rootLoopLock => execRootLoopLock_only (List.Subset.refl _) (only.refl _ s)
  | .rootSwitchDone => execRootSwitchDone_only (List.Subset.refl _) (only.refl _ s)
  | .autoRelockTimer => execAutoRelockTimer_only (List.Subset.refl _) (only.refl _ s)
  | .relockComplete => execRelockComplete_only (List.Subset.refl _) (only.refl _ s)
  | .dividerTakesEffect => execDividerTakesEffect_only (List.Subset.refl _) (only.refl _ s)
  | .foreignLineSwitchDone q l => execForeignLineSwitchDone_only q l (List.Subset.refl _) (only.refl _ s)
  | .foreignSourceLoss q l vats => execForeignSourceLoss_only q l vats (List.Subset.refl _) (only.refl _ s)
  | .oscSettled n => execOscSettled_only n (List.Subset.refl _) (only.refl _ s)
  | .blockClockIdleClose g => execBlockClockIdleClose_only g (List.Subset.refl _) (only.refl _ s)
  | .sectorGateOpen sec => execSectorGateOpen_only sec (List.Subset.refl _) (only.refl _ s)
  | .sliceNop g => execSliceNop_only g (List.Subset.refl _) (only.refl _ s)
  | .sliceTap g ua uc => execSliceTap_only g ua uc (List.Subset.refl _) (only.refl _ s)
  | .sliceMac g ua ub uc => execSliceMac_only g ua ub uc (List.Subset.refl _) (only.refl _ s)
  | .sliceIn g => execSliceIn_only g (List.Subset.refl _) (only.refl _ s)
  | .sliceOut g => execSliceOut_only g (List.Subset.refl _) (only.refl _ s)
  | .sliceLda g ua => execSliceLda_only g ua (List.Subset.refl _) (only.refl _ s)
  | .sliceLdc g ua => execSliceLdc_only g ua (List.Subset.refl _) (only.refl _ s)
  | .sliceCas g => execSliceCas_only g (List.Subset.refl _) (only.refl _ s)
  | .sliceLoop g => execSliceLoop_only g (List.Subset.refl _) (only.refl _ s)
  | .sliceJmp g ci src => execSliceJmp_only g ci src (List.Subset.refl _) (only.refl _ s)
  | .sliceSetag g => execSliceSetag_only g (List.Subset.refl _) (only.refl _ s)
  | .sliceWait g ci src => execSliceWait_only g ci src (List.Subset.refl _) (only.refl _ s)
  | .sliceHalt g => execSliceHalt_only g (List.Subset.refl _) (only.refl _ s)
  | .sliceSig g => execSliceSig_only g (List.Subset.refl _) (only.refl _ s)
  | .illegalInstruction g => execIllegalInstruction_only g (List.Subset.refl _) (only.refl _ s)
  | .sliceStart g src => execSliceStart_only g src (List.Subset.refl _) (only.refl _ s)
  | .trigInput g src => execTrigInput_only g src (List.Subset.refl _) (only.refl _ s)
  | .xCapture g x p src => execXCapture_only g x p src (List.Subset.refl _) (only.refl _ s)
  | .yDeliver g src => execYDeliver_only g src (List.Subset.refl _) (only.refl _ s)
  | .portPAccess g a we d u src => execPortPAccess_only g a we d u src (List.Subset.refl _) (only.refl _ s)
  | .portPSteal g a we d u src => execPortPSteal_only g a we d u src (List.Subset.refl _) (only.refl _ s)
  | .inspectionSteal g u uc => execInspectionSteal_only g u uc (List.Subset.refl _) (only.refl _ s)
  | .bm36Read b pb t a u src => execBm36Read_only b pb t a u src (List.Subset.refl _) (only.refl _ s)
  | .bm36FullWrite b pb t a d be wp src => execBm36FullWrite_only b pb t a d be wp src (List.Subset.refl _) (only.refl _ s)
  | .bm36NarrowWrite b pb t a d be wp u src =>
      execBm36NarrowWrite_only b pb t a d be wp u src (List.Subset.refl _) (only.refl _ s)
  | .bm36Clear m t src => execBm36Clear_only m t src (List.Subset.refl _) (only.refl _ s)
  | .correctionWriteBack m pb t => execCorrectionWriteBack_only m pb t (List.Subset.refl _) (only.refl _ s)
  | .dmFabricRead p pb t cap a u src => execDmFabricRead_only p pb t cap a u src (List.Subset.refl _) (only.refl _ s)
  | .dmFabricWrite p pb t cap a d be wp u src =>
      execDmFabricWrite_only p pb t cap a d be wp u src (List.Subset.refl _) (only.refl _ s)
  | .dmDeferredServe p cap => execDmDeferredServe_only p cap (List.Subset.refl _) (only.refl _ s)
  | .dmNocRequest p us => execDmNocRequest_only p us (List.Subset.refl _) (only.refl _ s)
  | .dmNocWaitExpiry p us waited => execDmNocWaitExpiry_only p us waited (List.Subset.refl _) (only.refl _ s)
  | .sectorPowerGood sec => execSectorPowerGood_only sec (List.Subset.refl _) (only.refl _ s)
  | .commitCloseDone v ups => execCommitCloseDone_only v ups (List.Subset.refl _) (only.refl _ s)
  | .loadComplete v ups => execLoadComplete_only v ups (List.Subset.refl _) (only.refl _ s)
  | .confirmWindowExpiry v => execConfirmWindowExpiry_only v (List.Subset.refl _) (only.refl _ s)
  | .expiryRollbackStart v => execExpiryRollbackStart_only v (List.Subset.refl _) (only.refl _ s)
  | .armCompareFire k => execArmCompareFire_only k (List.Subset.refl _) (only.refl _ s)
  | .activationAssertion k d => execActivationAssertion_only k d (List.Subset.refl _) (only.refl _ s)
  | .frameAccessDone bits bad => execFrameAccessDone_only bits bad (List.Subset.refl _) (only.refl _ s)
  | .planeRepair n fails => execPlaneRepair_only n fails (List.Subset.refl _) (only.refl _ s)
  | .starterFirmwareStart copy => execStarterFirmwareStart_only copy (List.Subset.refl _) (only.refl _ s)
  | .imgStage e body => execImgStage_only e body (List.Subset.refl _) (only.refl _ s)
  | .imgCommit e body => execImgCommit_only e body (List.Subset.refl _) (only.refl _ s)
  | .imgStream e body => execImgStream_only e body (List.Subset.refl _) (only.refl _ s)
  | .imgVerify e body => execImgVerify_only e body (List.Subset.refl _) (only.refl _ s)
  | .bootSet e body => execBootSet_only e body (List.Subset.refl _) (only.refl _ s)
  | .signatureVerified e => execSignatureVerified_only e (List.Subset.refl _) (only.refl _ s)
  | .imageSendTimeout => execImageSendTimeout_only (List.Subset.refl _) (only.refl _ s)
  | .stagingEraseReissue => execStagingEraseReissue_only (List.Subset.refl _) (only.refl _ s)
  | .memoryInitStart v lost => execMemoryInitStart_only v lost (List.Subset.refl _) (only.refl _ s)
  | .memoryInitDone v => execMemoryInitDone_only v (List.Subset.refl _) (only.refl _ s)
  | .vatResetAssertion v => execVatResetAssertion_only v (List.Subset.refl _) (only.refl _ s)
  | .vatResetHoldExpiry v => execVatResetHoldExpiry_only v (List.Subset.refl _) (only.refl _ s)
  | .vatRelease v => execVatRelease_only v (List.Subset.refl _) (only.refl _ s)
  | .memoryFrameReload v => execMemoryFrameReload_only v (List.Subset.refl _) (only.refl _ s)
  | .vatGatingDone v => execVatGatingDone_only v (List.Subset.refl _) (only.refl _ s)
  | .moduleLoadStart v => execModuleLoadStart_only v (List.Subset.refl _) (only.refl _ s)
  | .moduleLoadDone v => execModuleLoadDone_only v (List.Subset.refl _) (only.refl _ s)
  | .moduleRegionRelease v => execModuleRegionRelease_only v (List.Subset.refl _) (only.refl _ s)
  | .moduleLoadRestore v => execModuleLoadRestore_only v (List.Subset.refl _) (only.refl _ s)
  | .moduleRestoreDone v => execModuleRestoreDone_only v (List.Subset.refl _) (only.refl _ s)
  | .churnPassStart => execChurnPassStart_only (List.Subset.refl _) (only.refl _ s)
  | .scrubRead q bits => execScrubRead_only q bits (List.Subset.refl _) (only.refl _ s)
  | .correctionWrite q fails left => execCorrectionWrite_only q fails left (List.Subset.refl _) (only.refl _ s)
  | .restorePlaneRead q bits => execRestorePlaneRead_only q bits (List.Subset.refl _) (only.refl _ s)
  | .restorationWrite q fails left => execRestorationWrite_only q fails left (List.Subset.refl _) (only.refl _ s)
  | .churnPassComplete => execChurnPassComplete_only (List.Subset.refl _) (only.refl _ s)
  | .churnPassLate => execChurnPassLate_only (List.Subset.refl _) (only.refl _ s)
  | .nocRequestIssue ix rq => execNocRequestIssue_only ix rq (List.Subset.refl _) (only.refl _ s)
  | .flitForward y x o hdrErr payErr => execFlitForward_only y x o hdrErr payErr (List.Subset.refl _) (only.refl _ s)
  | .responseArrival ix cycles x => execResponseArrival_only ix cycles x (List.Subset.refl _) (only.refl _ s)
  | .initiatorTimeout ix t x => execInitiatorTimeout_only ix t x (List.Subset.refl _) (only.refl _ s)
  | .quarantineExpiry ix t => execQuarantineExpiry_only ix t (List.Subset.refl _) (only.refl _ s)
  | .mapSyncDone => execMapSyncDone_only (List.Subset.refl _) (only.refl _ s)
  | .mapCacheRefresh ix => execMapCacheRefresh_only ix (List.Subset.refl _) (only.refl _ s)
  | .spanInitFrame k ws => execSpanInitFrame_only k ws (List.Subset.refl _) (only.refl _ s)
  | .spanCtrlFrame k ws => execSpanCtrlFrame_only k ws (List.Subset.refl _) (only.refl _ s)
  | .spanFlitFrame k ws stamp => execSpanFlitFrame_only k ws stamp (List.Subset.refl _) (only.refl _ s)
  | .spanFlitrFrame k ws => execSpanFlitrFrame_only k ws (List.Subset.refl _) (only.refl _ s)
  | .spanAckTimer k => execSpanAckTimer_only k (List.Subset.refl _) (only.refl _ s)
  | .spanReplayExpiry k => execSpanReplayExpiry_only k (List.Subset.refl _) (only.refl _ s)
  | .spanGatewayFlit => execSpanGatewayFlit_only (List.Subset.refl _) (only.refl _ s)
  | .dramAdmit n => execDramAdmit_only n (List.Subset.refl _) (only.refl _ s)
  | .dramRead n sub x => execDramRead_only n sub x (List.Subset.refl _) (only.refl _ s)
  | .dramWholeWrite n sub => execDramWholeWrite_only n sub (List.Subset.refl _) (only.refl _ s)
  | .dramPartialWrite n sub x => execDramPartialWrite_only n sub x (List.Subset.refl _) (only.refl _ s)
  | .refreshDue n sub rank => execRefreshDue_only n sub rank (List.Subset.refl _) (only.refl _ s)
  | .temperaturePoll n hot => execTemperaturePoll_only n hot (List.Subset.refl _) (only.refl _ s)
  | .neighbourRefresh n bank row => execNeighbourRefresh_only n bank row (List.Subset.refl _) (only.refl _ s)
  | .readTimingTracking n sub => execReadTimingTracking_only n sub (List.Subset.refl _) (only.refl _ s)
  | .rowIdleClose n bank => execRowIdleClose_only n bank (List.Subset.refl _) (only.refl _ s)
  | .channelInitDone n failed drfm => execChannelInitDone_only n failed drfm (List.Subset.refl _) (only.refl _ s)
  | .rankFillDone n r => execRankFillDone_only n r (List.Subset.refl _) (only.refl _ s)
  | .migrationDone n => execMigrationDone_only n (List.Subset.refl _) (only.refl _ s)
  | .patrolRead n rank ix x => execPatrolRead_only n rank ix x (List.Subset.refl _) (only.refl _ s)
  | .selfRefreshReached n => execSelfRefreshReached_only n (List.Subset.refl _) (only.refl _ s)
  | .channelReady n => execChannelReady_only n (List.Subset.refl _) (only.refl _ s)
  | .quadPllLock u p => execQuadPllLock_only u p (List.Subset.refl _) (only.refl _ s)
  | .lanePllFail u p => execLanePllFail_only u p (List.Subset.refl _) (only.refl _ s)
  | .quadRefQualified u => execQuadRefQualified_only u (List.Subset.refl _) (only.refl _ s)
  | .quadRefLoss u => execQuadRefLoss_only u (List.Subset.refl _) (only.refl _ s)
  | .txOnReached n => execTxOnReached_only n (List.Subset.refl _) (only.refl _ s)
  | .rxSignalDetect n => execRxSignalDetect_only n (List.Subset.refl _) (only.refl _ s)
  | .rxCdrLock n => execRxCdrLock_only n (List.Subset.refl _) (only.refl _ s)
  | .rxLocked n snr ctle taps => execRxLocked_only n snr ctle taps (List.Subset.refl _) (only.refl _ s)
  | .rxLockLost n => execRxLockLost_only n (List.Subset.refl _) (only.refl _ s)
  | .rxSignalLost n => execRxSignalLost_only n (List.Subset.refl _) (only.refl _ s)
  | .rxNoLock n => execRxNoLock_only n (List.Subset.refl _) (only.refl _ s)
  | .prbsCheckerLock n seed bits => execPrbsCheckerLock_only n seed bits (List.Subset.refl _) (only.refl _ s)
  | .prbsCheckerBlock n bits => execPrbsCheckerBlock_only n bits (List.Subset.refl _) (only.refl _ s)
  | .elasticBufferSlip n => execElasticBufferSlip_only n (List.Subset.refl _) (only.refl _ s)
  | .linkUp m => execLinkUp_only m (List.Subset.refl _) (only.refl _ s)
  | .linkDown m lf rf => execLinkDown_only m lf rf (List.Subset.refl _) (only.refl _ s)
  | .rxFrameWrite n => execRxFrameWrite_only n (List.Subset.refl _) (only.refl _ s)
  | .txStreamFrame m bs abort fid phase partly =>
      execTxStreamFrame_only m bs abort fid phase partly (List.Subset.refl _) (only.refl _ s)
  | .timedLaunch m phase => execTimedLaunch_only m phase (List.Subset.refl _) (only.refl _ s)
  | .lateTimedFrame n => execLateTimedFrame_only n (List.Subset.refl _) (only.refl _ s)
  | .pauseExpiry m c => execPauseExpiry_only m c (List.Subset.refl _) (only.refl _ s)
  | .tclkLock => execTclkLock_only (List.Subset.refl _) (only.refl _ s)
  | .trefQualified ref => execTrefQualified_only ref (List.Subset.refl _) (only.refl _ s)
  | .trefLoss ref => execTrefLoss_only ref (List.Subset.refl _) (only.refl _ s)
  | .tclkRelock => execTclkRelock_only (List.Subset.refl _) (only.refl _ s)
  | .baseWatchdogExpiry b => execBaseWatchdogExpiry_only b (List.Subset.refl _) (only.refl _ s)
  | .cmpFire ix => execCmpFire_only ix (List.Subset.refl _) (only.refl _ s)
  | .pulseAssert k => execPulseAssert_only k (List.Subset.refl _) (only.refl _ s)
  | .pulseRelease k => execPulseRelease_only k (List.Subset.refl _) (only.refl _ s)
  | .captureEdge j rise phase near => execCaptureEdge_only j rise phase near (List.Subset.refl _) (only.refl _ s)
  | .capturePop q j => execCapturePop_only q j (List.Subset.refl _) (only.refl _ s)
  | .tsqPop q m => execTsqPop_only q m (List.Subset.refl _) (only.refl _ s)
  | .interruptAssert ix b => execInterruptAssert_only ix b (List.Subset.refl _) (only.refl _ s)
  | .fastInterruptEntry c r => execFastInterruptEntry_only c r (List.Subset.refl _) (only.refl _ s)
  | .fret c r => execFret_only c r (List.Subset.refl _) (only.refl _ s)
  | .claim q c => execClaim_only q c (List.Subset.refl _) (only.refl _ s)
  | .vclaim q v => execVclaim_only q v (List.Subset.refl _) (only.refl _ s)
  | .wakeLatchEdge ix => execWakeLatchEdge_only ix (List.Subset.refl _) (only.refl _ s)
  | .storeErrorResponse c st a => execStoreErrorResponse_only c st a (List.Subset.refl _) (only.refl _ s)
  | .msterrClear c => execMsterrClear_only c (List.Subset.refl _) (only.refl _ s)
  | .scratchpadAccess b us => execScratchpadAccess_only b us (List.Subset.refl _) (only.refl _ s)
  | .rxdPop q k => execRxdPop_only q k (List.Subset.refl _) (only.refl _ s)
  | .peripheralWordReceived k w => execPeripheralWordReceived_only k w (List.Subset.refl _) (only.refl _ s)
  | .peripheralTransferDone k ws => execPeripheralTransferDone_only k ws (List.Subset.refl _) (only.refl _ s)
  | .i2cTimeout j => execI2cTimeout_only j (List.Subset.refl _) (only.refl _ s)
  | .mtimeCompare k => execMtimeCompare_only k (List.Subset.refl _) (only.refl _ s)
  | .identify e body => execIdentify_only e body (List.Subset.refl _) (only.refl _ s)
  | .sessionInit e body => execSessionInit_only e body (List.Subset.refl _) (only.refl _ s)
  | .sessionFinish e body => execSessionFinish_only e body (List.Subset.refl _) (only.refl _ s)
  | .sessionClose e body => execSessionClose_only e body (List.Subset.refl _) (only.refl _ s)
  | .stats e body => execStats_only e body (List.Subset.refl _) (only.refl _ s)
  | .planeOp e body => execPlaneOp_only e body (List.Subset.refl _) (only.refl _ s)
  | .immVatReset e body => execImmVatReset_only e body (List.Subset.refl _) (only.refl _ s)
  | .immReset e body => execImmReset_only e body (List.Subset.refl _) (only.refl _ s)
  | .immPower e body => execImmPower_only e body (List.Subset.refl _) (only.refl _ s)
  | .logRead e body => execLogRead_only e body (List.Subset.refl _) (only.refl _ s)
  | .immAck e => execImmAck_only e (List.Subset.refl _) (only.refl _ s)
  | .immRetransmitExpiry h => execImmRetransmitExpiry_only h (List.Subset.refl _) (only.refl _ s)
  | .standaloneAckTimer h => execStandaloneAckTimer_only h (List.Subset.refl _) (only.refl _ s)
  | .sessionIdleTimeout h => execSessionIdleTimeout_only h (List.Subset.refl _) (only.refl _ s)
  | .refusalResponse h => execRefusalResponse_only h (List.Subset.refl _) (only.refl _ s)
  | .eventSend h => execEventSend_only h (List.Subset.refl _) (only.refl _ s)
  | .eventsLostSend h => execEventsLostSend_only h (List.Subset.refl _) (only.refl _ s)
  | .mpRateAlternate h => execMpRateAlternate_only h (List.Subset.refl _) (only.refl _ s)
  | .smbusStatusRead => execSmbusStatusRead_only (List.Subset.refl _) (only.refl _ s)
  | .smbusLastgaspRead hi => execSmbusLastgaspRead_only hi (List.Subset.refl _) (only.refl _ s)
  | .dbgOpen e body => execDbgOpen_only e body (List.Subset.refl _) (only.refl _ s)
  | .dbgAuth e body => execDbgAuth_only e body (List.Subset.refl _) (only.refl _ s)
  | .dbgChallengeTimeout => execDbgChallengeTimeout_only (List.Subset.refl _) (only.refl _ s)
  | .dbgClose e body => execDbgClose_only e body (List.Subset.refl _) (only.refl _ s)
  | .dbgRunHalt e core => execDbgRunHalt_only e core (List.Subset.refl _) (only.refl _ s)
  | .dbgRunResume e core => execDbgRunResume_only e core (List.Subset.refl _) (only.refl _ s)
  | .dbgRunStep e core => execDbgRunStep_only e core (List.Subset.refl _) (only.refl _ s)
  | .dbgRunStatus e core => execDbgRunStatus_only e core (List.Subset.refl _) (only.refl _ s)
  | .processorHalted k r => execProcessorHalted_only k r (List.Subset.refl _) (only.refl _ s)
  | .dbgCpu e body => execDbgCpu_only e body (List.Subset.refl _) (only.refl _ s)
  | .dbgBkpt e body => execDbgBkpt_only e body (List.Subset.refl _) (only.refl _ s)
  | .breakpointHit k ix r => execBreakpointHit_only k ix r (List.Subset.refl _) (only.refl _ s)
  | .cellarCommandDone b ok => execCellarCommandDone_only b ok (List.Subset.refl _) (only.refl _ s)
  | .cellarRead => execCellarRead_only (List.Subset.refl _) (only.refl _ s)
  | .bankSuspended b => execBankSuspended_only b (List.Subset.refl _) (only.refl _ s)
  | .bankResume b => execBankResume_only b (List.Subset.refl _) (only.refl _ s)
  | .logFlush aud n fails => execLogFlush_only aud n fails (List.Subset.refl _) (only.refl _ s)
  | .logDegradedReminder => execLogDegradedReminder_only (List.Subset.refl _) (only.refl _ s)
  | .celOpRead e body => execCelOpRead_only e body (List.Subset.refl _) (only.refl _ s)
  | .celOpProgram e body => execCelOpProgram_only e body (List.Subset.refl _) (only.refl _ s)
  | .celOpErase e body => execCelOpErase_only e body (List.Subset.refl _) (only.refl _ s)
  | .setLevel e body => execSetLevel_only e body (List.Subset.refl _) (only.refl _ s)
  | .bbtRead e body => execBbtRead_only e body (List.Subset.refl _) (only.refl _ s)
  | .celOpStatus e body => execCelOpStatus_only e body (List.Subset.refl _) (only.refl _ s)
  | .wakeEdge ix => execWakeEdge_only ix (List.Subset.refl _) (only.refl _ s)
  | .wakeTimerExpiry => execWakeTimerExpiry_only (List.Subset.refl _) (only.refl _ s)
  | .wakePowerGood => execWakePowerGood_only (List.Subset.refl _) (only.refl _ s)
  | .resetRelease => execResetRelease_only (List.Subset.refl _) (only.refl _ s)
  | .keyWrite e body => execKeyWrite_only e body (List.Subset.refl _) (only.refl _ s)
  | .keyErase e body => execKeyErase_only e body (List.Subset.refl _) (only.refl _ s)
  | .keyStatus e body => execKeyStatus_only e body (List.Subset.refl _) (only.refl _ s)
  | .advance e body => execAdvance_only e body (List.Subset.refl _) (only.refl _ s)
  | .lifeCycleFuseBlown => execLifeCycleFuseBlown_only (List.Subset.refl _) (only.refl _ s)
  | .keyDeferredComplete k => execKeyDeferredComplete_only k (List.Subset.refl _) (only.refl _ s)
  | .bistRunTest e body => execBistRunTest_only e body (List.Subset.refl _) (only.refl _ s)
  | .bistRunFuse e body => execBistRunFuse_only e body (List.Subset.refl _) (only.refl _ s)
  | .bistRunStatus e body => execBistRunStatus_only e body (List.Subset.refl _) (only.refl _ s)
  | .bistRunDefectRead e body => execBistRunDefectRead_only e body (List.Subset.refl _) (only.refl _ s)
  | .bistPhaseDone k => execBistPhaseDone_only k (List.Subset.refl _) (only.refl _ s)
  | .bistDone k fails addr bit us rows cols bad =>
      execBistDone_only k fails addr bit us rows cols bad (List.Subset.refl _) (only.refl _ s)
  | .bistFuseDone kind mem => execBistFuseDone_only kind mem (List.Subset.refl _) (only.refl _ s)
  | .hioSupplyOutOfWindow b mv => execHioSupplyOutOfWindow_only b mv (List.Subset.refl _) (only.refl _ s)
  | .hioOutputsReturn b mv => execHioOutputsReturn_only b mv (List.Subset.refl _) (only.refl _ s)
  | .strapChange b p => execStrapChange_only b p (List.Subset.refl _) (only.refl _ s)
  | .tapReset => execTapReset_only (List.Subset.refl _) (only.refl _ s)
  | .extest load => execExtest_only load (List.Subset.refl _) (only.refl _ s)
  | .idcode => execIdcode_only (List.Subset.refl _) (only.refl _ s)
  | .samplePreload load => execSamplePreload_only load (List.Subset.refl _) (only.refl _ s)
  | .bypass => execBypass_only (List.Subset.refl _) (only.refl _ s)
  | .activeClockEdge e => execActiveClockEdge_only e (List.Subset.refl _) (only.refl _ s)
  | .asynchronousSr tile c up src => execAsynchronousSr_only tile c up src (List.Subset.refl _) (only.refl _ s)
  | .regulatorBucketFill r => execRegulatorBucketFill_only r (List.Subset.refl _) (only.refl _ s)
  | .continuousErrorInjection n => execContinuousErrorInjection_only n (List.Subset.refl _) (only.refl _ s)
  | .xo32Loss => execXo32Loss_only (List.Subset.refl _) (only.refl _ s)
  | .xo32Return => execXo32Return_only (List.Subset.refl _) (only.refl _ s)
  | .poisonedWordLoad c x => execPoisonedWordLoad_only c x (List.Subset.refl _) (only.refl _ s)
  | .supplyLeavesTolerance .. | .rootSourceSwitch .. | .relock .. | .dividerWrite .. | .foreignLineSourceWrite ..
  | .oscConfigWrite .. | .sliceHaltRequest .. | .sliceResume .. | .sliceStep .. | .inspectionStart .. | .clearIllegal ..
  | .commitOpen .. | .commitClose .. | .activate .. | .rollback .. | .confirm .. | .arm .. | .disarm .. | .invalidate ..
  | .capture .. | .frameAccessRead .. | .frameAccessWrite .. | .headerRecord .. | .signatureRecord .. | .frameRecord ..
  | .frameZRecord .. | .repeatRecord .. | .zeroRunRecord .. | .meminitRecord .. | .endRecord .. | .vatResetRequest ..
  | .vatReleaseRequest .. | .vatPowerGate .. | .vatPowerUp .. | .resourceAssignWrite .. | .moduleRegionEnable ..
  | .moduleLoadRequest .. | .churnEnable .. | .churnDisable .. | .targetRequestArrival .. | .mapEntryWrite ..
  | .mapSync .. | .regulatorBind .. | .regulatorUnbind .. | .spanPortEnable .. | .spanPortDisable .. | .channelInit ..
  | .channelFill .. | .migrationStart .. | .migrationCopy .. | .selfRefreshEnter .. | .selfRefreshExit ..
  | .spareSubstitute .. | .quadPllEnable .. | .laneTxPowerSet .. | .laneRxPowerSet .. | .laneRateSet ..
  | .laneLoopbackSet .. | .txPresetChange .. | .recoveredClockDivider .. | .injectOnce .. | .portEnable ..
  | .portDisable .. | .rxFrame .. | .queueEnable .. | .queueDisable .. | .queueDoorbell .. | .queueStage ..
  | .txFrameDone .. | .sendPause .. | .queueResume .. | .tclkSourceSelect .. | .tbSet .. | .tbStep .. | .tbSnap ..
  | .rateUpdate .. | .cmpArm .. | .cmpDisarm .. | .pulseEnable .. | .coreRun .. | .coreReset .. | .complete ..
  | .pendClear .. | .softwareInterrupt .. | .vcomplete .. | .scratchpadLock .. | .dmaGo .. | .dmaStop ..
  | .dmaDescriptorDone .. | .txdWrite .. | .regRd .. | .regWr .. | .memRd .. | .memWr .. | .resetOrPowerAct | .dbgRd ..
  | .dbgWr .. | .debugLock .. | .cellarProgram .. | .cellarErase .. | .powerCommand .. | .powerEntryProceed
  | .resetNEdge .. | .coldResetRequest .. | .warmResetRequest .. | .bistCmdGo .. | .rangeWrite .. | .registerWrite .. => fun t h =>
      (exec_ev (Ev.refl s) _ t h).onlyAllParts

/-- Settles O4: a command answers a next state, and what it answers has the same queue. -/
theorem commandsComplete : Obligations.CommandsComplete := by
  unfold Obligations.CommandsComplete
  intro c s
  obtain ⟨t, ht⟩ := exec_answers s c
  exact ⟨t, ht, (exec_ev (Ev.refl s) c t ht).pending⟩

/-- Settles O5, command by command. -/
theorem commandsKeepTheirFrames : Obligations.CommandsKeepTheirFrames := by
  unfold Obligations.CommandsKeepTheirFrames
  exact fun c s => exec_only s c

theorem step_cons {s : State} {c : Instr} {rest : List Instr} (h : s.pending = c :: rest) :
    step s = exec c { s with pending := rest } := by
  rw [step, h]

theorem step_nil {s : State} (h : s.pending = []) : step s = .next s.tick := by
  rw [step, h]

/-- Settles O3: the two cases of the queue. -/
theorem stepsRunTheFrontCommand : Obligations.StepsRunTheFrontCommand := by
  unfold Obligations.StepsRunTheFrontCommand
  exact fun s => ⟨fun c rest => step_cons, step_nil⟩

theorem Ev.inv {s t : State} (h : Ev s t) (hs : Inv s) : Inv t :=
  ⟨h.counters hs.counters, h.hosts hs.hosts, h.regs hs.regs, h.memory hs.memory⟩

theorem Inv.dequeued {s : State} (hs : Inv s) (rest : List Instr) : Inv { s with pending := rest } :=
  ⟨hs.counters, hs.hosts, hs.regs, mems_ok (s := s) rfl hs.memory⟩

/-- Settles O1: a step is the microsecond of time or one command, and both keep each part of the invariant. -/
theorem stepsKeepTheInvariant : Obligations.StepsKeepTheInvariant := by
  unfold Obligations.StepsKeepTheInvariant
  intro s t hs hstep
  cases hq : s.pending with
  | nil =>
    rw [step_nil hq] at hstep
    exact Host.Outcome.next.inj hstep ▸ (State.tick_ev (Ev.refl s)).inv hs
  | cons c rest =>
    rw [step_cons hq] at hstep
    exact (exec_ev (Ev.refl _) c t hstep).inv (hs.dequeued rest)

/-- Settles O2: at reset every table of the state is empty, which is its canonical form. -/
theorem resetMeetsTheInvariant : Obligations.ResetMeetsTheInvariant := by
  unfold Obligations.ResetMeetsTheInvariant
  exact ⟨{ counters := ⟨rfl, List.forall_mem_nil _⟩
           hosts := ⟨rfl, List.forall_mem_nil _⟩
           regs := rfl
           memory := ⟨rfl, rfl, rfl, rfl, rfl, rfl, rfl, rfl⟩ }, List.forall_mem_nil _⟩

end Sys2Proof.Machine
end

section
/-! PROOFS. The register map: what the field tables give at reset and what an access makes of each bit (R5, R7, R8). -/

namespace Sys2Proof.Machine

/-- A field table is well laid out: each field lies in the word and has its reset value in the reset word, and no two overlap. -/
structure RegDesc.LaidOut (d : RegDesc) : Prop where
  hi_lt : ∀ f ∈ d.flds, f.hi < 32
  reset : ∀ f ∈ d.flds, wget (fldsReset d.flds) f.hi f.lo = f.reset
  apart : d.flds.Pairwise fun f g => f.hi < g.lo ∨ g.hi < f.lo

theorem blocks_laidOut : ∀ b ∈ blocks, ∀ d ∈ b.regs,
    (∀ f ∈ d.flds, f.hi < 32 ∧ wget (fldsReset d.flds) f.hi f.lo = f.reset) ∧
      d.flds.Pairwise fun f g => f.hi < g.lo ∨ g.hi < f.lo := by
  decide +kernel

theorem regAt_laidOut {off : Nat} {d : RegDesc} (h : regAt off = some d) : d.LaidOut := by
  obtain ⟨b, hb, hd⟩ := Option.bind_eq_some_iff.1 h
  obtain ⟨hflds, hapart⟩ := blocks_laidOut b (List.mem_of_find?_eq_some hb) d (List.mem_of_find?_eq_some hd)
  exact ⟨fun f hf => (hflds f hf).1, fun f hf => (hflds f hf).2, hapart⟩

/-- A bit lies in one field at most. -/
theorem RegDesc.LaidOut.unique {d : RegDesc} (h : d.LaidOut) {f g : FldDesc} (hf : f ∈ d.flds) (hg : g ∈ d.flds) {i : Nat}
    (hif : f.lo ≤ i ∧ i ≤ f.hi) (hig : g.lo ≤ i ∧ i ≤ g.hi) : g = f := by
  by_contra hne
  have hsymm : Std.Symm fun f g : FldDesc => f.hi < g.lo ∨ g.hi < f.lo := ⟨fun _ _ => Or.symm⟩
  have := h.apart.forall hf hg (Ne.symm hne)
  omega

theorem resetWord_of_regAt {off : Nat} {d : RegDesc} (h : regAt off = some d) (ho : resetOverride off = none) :
    resetWord off = fldsReset d.flds := by
  simp only [resetWord, ho, h]

theorem State.reg_reset (off : Nat) : State.reset.reg off = resetWord off := rfl

/-- Settles O8: the reset word of a register puts its fields' reset values together. -/
theorem registersReset : Obligations.RegistersReset := by
  unfold Obligations.RegistersReset
  refine ⟨fun off d f hd ho hf => ?_, by decide +kernel⟩
  rw [State.reg_reset, resetWord_of_regAt hd ho, (regAt_laidOut hd).reset f hf]

/-! The bits of a register by the access types of its fields. -/

/-- A fold that adds the masks of the fields a test accepts: a bit is in the sum where it was or where such a field covers it. -/
theorem foldl_mask_getLsbD (p : Acc → Bool) (i : Nat) (l : List FldDesc) (hl : ∀ f ∈ l, f.hi < 32) (m : Word) :
    (l.foldl (fun m f => if p f.acc then m ||| wmask f.hi f.lo else m) m).getLsbD i = true ↔
      m.getLsbD i = true ∨ ∃ f ∈ l, p f.acc = true ∧ f.lo ≤ i ∧ i ≤ f.hi := by
  induction l generalizing m with
  | nil => simp
  | cons f l ih =>
    have hf : f.hi < 32 := hl f List.mem_cons_self
    rw [List.foldl_cons, ih fun g hg => hl g (List.mem_cons_of_mem _ hg)]
    cases hp : p f.acc <;> simp [hp, wmask_getLsbD hf, or_assoc]

theorem RegDesc.bits_getLsbD {d : RegDesc} (h : d.LaidOut) (p : Acc → Bool) (i : Nat) :
    (d.bits p).getLsbD i = true ↔ ∃ f ∈ d.flds, p f.acc = true ∧ f.lo ≤ i ∧ i ≤ f.hi := by
  simp [RegDesc.bits, foldl_mask_getLsbD p i d.flds fun f hf => h.hi_lt f hf]

/-- A bit of a field is accepted by its field's access type. -/
theorem RegDesc.bits_of_mem {d : RegDesc} (h : d.LaidOut) (p : Acc → Bool) {f : FldDesc} (hf : f ∈ d.flds) {i : Nat}
    (hi : f.lo ≤ i ∧ i ≤ f.hi) : (d.bits p).getLsbD i = p f.acc := by
  rw [Bool.eq_iff_iff, RegDesc.bits_getLsbD h]
  constructor
  · rintro ⟨g, hg, hp, hgi⟩
    exact h.unique hf hg hi hgi ▸ hp
  · exact fun hp => ⟨f, hf, hp, hi⟩

/-- A bit of no field is accepted by none. -/
theorem RegDesc.bits_of_reserved {d : RegDesc} (h : d.LaidOut) (p : Acc → Bool) {i : Nat}
    (hi : ∀ f ∈ d.flds, ¬ (f.lo ≤ i ∧ i ≤ f.hi)) : (d.bits p).getLsbD i = false := by
  rw [← Bool.not_eq_true, RegDesc.bits_getLsbD h]
  rintro ⟨f, hf, -, hfi⟩
  exact hi f hf hfi

/-- R5, bit by bit: RW takes the written bit, W1C clears and W1S sets where a 1 is written, and the rest keep theirs. -/
theorem RegDesc.take_getLsbD (d : RegDesc) (old w : Word) {i : Nat} (hi : i < 32) :
    (d.take old w).getLsbD i =
      ((if (d.bits (· == .rw)).getLsbD i then w.getLsbD i else old.getLsbD i) &&
        !(w.getLsbD i && (d.bits (· == .w1c)).getLsbD i) || w.getLsbD i && (d.bits (· == .w1s)).getLsbD i) := by
  simp only [RegDesc.take, BitVec.getLsbD_or, BitVec.getLsbD_and, BitVec.getLsbD_not, hi, decide_true, Bool.true_and]
  cases (d.bits (· == .rw)).getLsbD i <;> simp

theorem State.plainWrite_eq {off : Nat} {d : RegDesc} (h : regAt off = some d) (s : State) (w : Word) :
    s.plainWrite off w = s.setReg off (d.take (s.reg off) w) := by
  simp only [State.plainWrite, h]

theorem State.plainRead_eq {off : Nat} {d : RegDesc} (h : regAt off = some d) (s : State) :
    s.plainRead off = s.reg off &&& d.bits (· != .wo) := by
  simp only [State.plainRead, h]

/-- R5: what a written bit leaves of a bit, by the access type. -/
def Acc.leaves : Acc → Bool → Bool → Bool
  | .rw, _, new => new
  | .w1c, old, new => old && !new
  | .w1s, old, new => old || new
  | _, old, _ => old

theorem RegDesc.take_of_mem {d : RegDesc} (h : d.LaidOut) (old w : Word) {f : FldDesc} (hf : f ∈ d.flds) {i : Nat}
    (hi : f.lo ≤ i ∧ i ≤ f.hi) : (d.take old w).getLsbD i = f.acc.leaves (old.getLsbD i) (w.getLsbD i) := by
  rw [d.take_getLsbD old w (by have := h.hi_lt f hf; omega)]
  simp only [RegDesc.bits_of_mem h _ hf hi]
  cases f.acc <;> cases old.getLsbD i <;> cases w.getLsbD i <;> rfl

theorem RegDesc.take_of_reserved {d : RegDesc} (h : d.LaidOut) (old w : Word) {i : Nat}
    (hi : ∀ f ∈ d.flds, ¬ (f.lo ≤ i ∧ i ≤ f.hi)) : (d.take old w).getLsbD i = old.getLsbD i := by
  by_cases hlt : i < 32
  · rw [d.take_getLsbD old w hlt]
    simp [RegDesc.bits_of_reserved h _ hi]
  · rw [BitVec.getLsbD_of_ge _ _ (by omega), BitVec.getLsbD_of_ge _ _ (by omega)]

/-- Settles O9: a written bit goes by the one field it lies in, if any. -/
theorem accessTypes : Obligations.AccessTypes := by
  unfold Obligations.AccessTypes
  intro s off d w hs hd t
  have hlaid := regAt_laidOut hd
  have hwritten : t.reg off = d.take (s.reg off) w := by
    rw [show t = _ from State.plainWrite_eq hd s w, State.reg_setReg_same _ _ hs]
  refine ⟨fun f hf i hlo hhi => ⟨?_, ?_⟩, fun i hi => ⟨?_, ?_⟩, fun o ho => ?_⟩
  · rw [hwritten, RegDesc.take_of_mem hlaid _ _ hf ⟨hlo, hhi⟩]
    cases f.acc <;> rfl
  · rw [State.plainRead_eq hd, BitVec.getLsbD_and, RegDesc.bits_of_mem hlaid _ hf ⟨hlo, hhi⟩]
    cases f.acc <;> simp
  · rw [hwritten, RegDesc.take_of_reserved hlaid _ _ hi]
  · rw [State.plainRead_eq hd, BitVec.getLsbD_and, RegDesc.bits_of_reserved hlaid _ hi, Bool.and_false]
  · rw [show t = _ from State.plainWrite_eq hd s w, State.reg_setReg_ne _ _ ho]

end Sys2Proof.Machine
end

section
/-! PROOFS. The addressed memories: entries written at distinct indices stay apart, and the statement that what is written reads
back (R140, R358, R465). -/

namespace Sys2Proof.Machine

theorem State.memW_setMemW_ne (s : State) {dm dm' : Bool} {i i' k k' : Nat} (w : Option BmW) (hk : k < memWords dm)
    (hk' : k' < memWords dm') (h : (dm', i', k') ≠ (dm, i, k)) : (s.setMemW dm i k w).memW dm' i' k' = s.memW dm' i' k' := by
  by_cases hdm : dm' = dm
  · subst hdm
    simp only [ne_eq, Prod.mk.injEq, true_and] at h
    cases dm' <;> simp only [memWords, if_true, Bool.false_eq_true, if_false] at hk hk' <;>
      exact tget_tput_ne _ _ _ _ (by omega)
  · obtain rfl : dm' = !dm := Bool.eq_not.mpr hdm
    cases dm
    · rfl
    · rfl

theorem State.opmW_setOpm_ne (s : State) {g g' a a' : Nat} (w : Option OpmW) (ha : a < 1024) (ha' : a' < 1024)
    (h : (g', a') ≠ (g, a)) : (s.setOpm g a w).opmW g' a' = s.opmW g' a' := by
  simp only [ne_eq, Prod.mk.injEq] at h
  exact tget_tput_ne _ _ _ _ (by omega)

theorem State.planeFrame_setPlane {s : State} (p : Bool) (n : Nat) (f : Frame) (h : s.memoryOk) :
    (s.setPlane p n f).planeFrame p n = f := by
  cases p
  · exact tget_tput_same _ _ _ (twf_sorted h.planeA)
  · exact tget_tput_same _ _ _ (twf_sorted h.planeB)

theorem State.planeFrame_setPlane_ne (s : State) {p p' : Bool} {n m : Nat} (f : Frame) (h : (p', m) ≠ (p, n)) :
    (s.setPlane p n f).planeFrame p' m = s.planeFrame p' m := by
  by_cases hp : p' = p
  · subst hp
    have hne : m ≠ n := by simpa using h
    cases p' <;> exact tget_tput_ne _ _ _ _ hne
  · obtain rfl : p' = !p := Bool.eq_not.mpr hp
    cases p
    · rfl
    · rfl

theorem DramCh.line_setLine_ne (c : DramCh) {r r' i i' : Nat} (l : DLine) (hi : i < 2 ^ 30) (hi' : i' < 2 ^ 30)
    (h : (r', i') ≠ (r, i)) : (c.setLine r i l).line r' i' = c.line r' i' := by
  simp only [ne_eq, Prod.mk.injEq] at h
  exact tget_tput_ne _ _ _ _ (by omega)

/-- Settles O10, memory by memory. -/
theorem memoriesReadBack : Obligations.MemoriesReadBack := by
  unfold Obligations.MemoriesReadBack
  intro s hs hdram
  refine ⟨fun dm i k w hk => ⟨State.memW_setMemW dm i k w hs, fun dm' i' k' hk' => s.memW_setMemW_ne w hk hk'⟩,
    fun g a w ha => ⟨State.opmW_setOpm g a w hs, fun g' a' ha' => s.opmW_setOpm_ne w ha ha'⟩,
    fun k w => ⟨by rw [State.scrWord_setScrWord k k w hs, if_pos rfl],
      fun j hj => by rw [State.scrWord_setScrWord j k w hs, if_neg hj]⟩,
    fun n f => ⟨by rw [State.liveFrame_setLive n n f hs, if_pos rfl],
      fun m hm => by rw [State.liveFrame_setLive m n f hs, if_neg hm]⟩,
    fun p n f => ⟨State.planeFrame_setPlane p n f hs, fun p' m => s.planeFrame_setPlane_ne f⟩,
    fun k w => ⟨tget_tput_same _ _ _ (twf_sorted hs.words), fun j => tget_tput_ne _ _ _ _⟩,
    fun c hc r i l hi => ⟨DramCh.line_setLine r i l (hdram c hc), DramCh.setLine_ok l hi (hdram c hc),
      fun r' i' hi' => c.2.line_setLine_ne l hi hi'⟩⟩

end Sys2Proof.Machine
end

section
/-! PROOFS. Event queues: the outcomes of a new event at a host's queue (R495, R496). -/

namespace Sys2Proof.Machine

theorem State.host_setHost_same {s : State} (h : Nat) (x : HostSt) (hs : s.hostsOk) : (s.setHost h x).host h = x :=
  tget_tput_same _ _ _ (twf_sorted hs.1)

theorem State.host_setHost_ne (s : State) {h j : Nat} (x : HostSt) (hj : j ≠ h) : (s.setHost h x).host j = s.host j :=
  tget_tput_ne _ _ _ _ hj

theorem mapFirst_append_cons {α : Type} {p : α → Bool} (f : α → α) {l m : List α} {y : α} (hy : p y = true)
    (hl : ∀ z ∈ l, p z = false) : mapFirst p f (l ++ y :: m) = l ++ f y :: m := by
  induction l with
  | nil => simp [mapFirst, hy]
  | cons z l ih =>
    simp [mapFirst, hl z List.mem_cons_self, ih fun w hw => hl w (List.mem_cons_of_mem _ hw)]

theorem dropLastOf_append_cons {α : Type} {p : α → Bool} {l m : List α} {y : α} (hy : p y = true) (hm : ∀ z ∈ m, p z = false) :
    dropLastOf p (l ++ y :: m) = l ++ m := by
  have hrev : ∀ z ∈ m.reverse, ¬ p z = true := fun z hz => by simp [hm z (List.mem_reverse.1 hz)]
  rw [dropLastOf, List.reverse_append, List.reverse_cons, List.append_assoc, List.eraseP_append_right _ hrev]
  simp [hy]

/-- An unsent entry of a severity. -/
theorem EvEntry.free_iff (v : Nat) (y : EvEntry) : (y.sent.isNone && y.d.sev == v) = true ↔ y.sent = none ∧ y.d.sev = v := by
  simp

theorem EvEntry.free_eq_false (v : Nat) {y : EvEntry} (h : ¬ (y.sent = none ∧ y.d.sev = v)) :
    (y.sent.isNone && y.d.sev == v) = false := by
  rwa [← Bool.not_eq_true, EvEntry.free_iff]

/-- R496: the severity displaced is the lowest of the unsent entries below the event's own. -/
theorem displaceSev_eq_some {sev v : Nat} {q : List EvEntry} {y : EvEntry} (hsev : sev < v) (hv : v < 4) (hy : y ∈ q)
    (hfree : y.sent = none ∧ y.d.sev = v) (hlow : ∀ z ∈ q, z.sent = none → z.d.sev < 4 → z.d.sev ≤ v) :
    displaceSev sev q = some v := by
  have hhit : (q.any fun e => e.sent.isNone && e.d.sev == v) = true := List.any_eq_true.2 ⟨y, hy, (EvEntry.free_iff v y).2 hfree⟩
  have hmiss : ∀ u, v < u → u < 4 → (q.any fun e => e.sent.isNone && e.d.sev == u) = false := by
    intro u hu hu4
    refine List.any_eq_false.2 fun z hz => ?_
    rw [EvEntry.free_iff]
    rintro ⟨hsent, rfl⟩
    exact absurd (hlow z hz hsent hu4) (by omega)
  obtain rfl | rfl | rfl : v = 1 ∨ v = 2 ∨ v = 3 := by omega
  · simp [displaceSev, List.find?, hhit, hmiss, hsev]
  · simp [displaceSev, List.find?, hhit, hmiss, hsev]
  · simp [displaceSev, List.find?, hhit, hsev]

theorem displaceSev_eq_none {sev : Nat} {q : List EvEntry} (hlow : ∀ z ∈ q, z.sent = none → z.d.sev < 4 → z.d.sev ≤ sev) :
    displaceSev sev q = none := by
  refine List.find?_eq_none.2 fun v hv => ?_
  simp only [Bool.and_eq_true, decide_eq_true_eq, List.any_eq_true, Option.isNone_iff_eq_none, beq_iff_eq, not_and,
    not_exists]
  rintro hsev z hz hsent rfl
  have hlt : z.d.sev < 4 := by
    simp only [List.mem_cons, List.not_mem_nil, or_false] at hv
    omega
  exact absurd (hlow z hz hsent hlt) (by omega)

/-! The next state of each outcome. -/

/-- A new event's entry. -/
def State.evEntry (s : State) (d : EvData) : EvEntry := ⟨s.mgt.nextEv, d, 1, s.now, s.now, none⟩

theorem State.enqueue_joins {s : State} {h : Nat} {d : EvData} (hj : (s.host h).queue.any (EvEntry.joins d) = true) :
    (s.enqueue h d).1 = ((s.setHost h { s.host h with
      queue := mapFirst (EvEntry.joins d) (EvEntry.again s.now) (s.host h).queue }).ctrAdd (MGT.COAL_CNT h) 1).1 := by
  simp only [State.enqueue, hj, if_true]

/-- The state after an event of its own number has been made. -/
def State.numbered (s : State) : State := { s with mgt := { s.mgt with nextEv := s.mgt.nextEv + 1 } }

theorem State.enqueue_room {s : State} {h : Nat} {d : EvData} (hj : (s.host h).queue.any (EvEntry.joins d) = false)
    (hroom : (s.host h).queue.length < 256) :
    (s.enqueue h d).1 = s.numbered.setHost h { s.host h with queue := (s.host h).queue ++ [s.evEntry d] } := by
  simp only [State.enqueue, hj, Bool.false_eq_true, if_false, hroom, if_true]
  rfl

theorem State.enqueue_displaces {s : State} {h : Nat} {d : EvData} {v : Nat}
    (hj : (s.host h).queue.any (EvEntry.joins d) = false) (hfull : 256 ≤ (s.host h).queue.length) (hsev : d.sev ≤ 1)
    (hv : displaceSev d.sev (s.host h).queue = some v) :
    (s.enqueue h d).1 = ((s.numbered.setHost h ({ s.host h with
      queue := dropLastOf (fun e : EvEntry => e.sent.isNone && e.d.sev == v) (s.host h).queue ++ [s.evEntry d] }.lose v s.now)).ctrAdd
        (MGT.LOST_CNT h) 1).1 := by
  simp only [State.enqueue, hj, Bool.false_eq_true, if_false, Nat.not_lt.2 hfull, hsev, if_true, hv]
  rfl

theorem State.enqueue_lost {s : State} {h : Nat} {d : EvData} (hj : (s.host h).queue.any (EvEntry.joins d) = false)
    (hfull : 256 ≤ (s.host h).queue.length) (hv : d.sev ≤ 1 → displaceSev d.sev (s.host h).queue = none) :
    (s.enqueue h d).1 = ((s.setHost h ((s.host h).lose d.sev s.now)).ctrAdd (MGT.LOST_CNT h) 1).1 := by
  have hnone : (if d.sev ≤ 1 then displaceSev d.sev (s.host h).queue else none) = none := by
    split
    · exact hv ‹_›
    · rfl
  simp only [State.enqueue, hj, Bool.false_eq_true, if_false, Nat.not_lt.2 hfull, hnone]

/-- Whatever the outcome, only the one host's entry is written. -/
theorem State.enqueue_host_ne (s : State) {h j : Nat} (d : EvData) (hj : j ≠ h) : (s.enqueue h d).1.host j = s.host j := by
  unfold State.enqueue
  dsimp only
  split
  · exact s.host_setHost_ne _ hj
  · split
    · exact s.numbered.host_setHost_ne _ hj
    · split
      · exact s.numbered.host_setHost_ne _ hj
      · exact s.host_setHost_ne _ hj

theorem State.ctrAdd_host (s : State) (off n h : Nat) : (s.ctrAdd off n).1.host h = s.host h := rfl

/-- Settles O11: the outcome of each case of the queue, written out by the lemmas above. -/
theorem eventQueues : Obligations.EventQueues := by
  unfold Obligations.EventQueues
  intro s h d hs _ x t e free lost
  have hnum : s.numbered.hostsOk := hs
  refine ⟨fun j hj => s.enqueue_host_ne d hj, fun l y m hq hy hl => ?_, fun hno => ?_⟩
  · have hany : x.queue.any (EvEntry.joins d) = true := List.any_eq_true.2 ⟨y, by simp [hq], hy⟩
    have ht : t = _ := State.enqueue_joins hany
    rw [ht, State.ctrAdd_host, State.host_setHost_same _ _ hs, show (s.host h).queue = l ++ y :: m from hq,
      mapFirst_append_cons _ hy hl]
    exact ⟨rfl, rfl⟩
  · have hany : x.queue.any (EvEntry.joins d) = false := List.any_eq_false.2 fun y hy => by simp [hno y hy]
    refine ⟨fun hroom => ?_, fun hfull => ⟨fun hsev v l y m hv hv4 hq hy hm hlow => ?_, fun hkeep => ?_⟩⟩
    · have ht : t = _ := State.enqueue_room hany hroom
      rw [ht, State.host_setHost_same _ _ hnum]
      exact ⟨rfl, rfl⟩
    · have hdisp : displaceSev d.sev x.queue = some v := displaceSev_eq_some hv hv4 (by simp [hq]) hy hlow
      have ht : t = _ := State.enqueue_displaces hany hfull hsev hdisp
      have hdrop : dropLastOf (fun e : EvEntry => e.sent.isNone && e.d.sev == v) (s.host h).queue = l ++ m := by
        rw [show (s.host h).queue = l ++ y :: m from hq]
        exact dropLastOf_append_cons ((EvEntry.free_iff v y).2 hy) fun z hz => EvEntry.free_eq_false v (hm z hz)
      refine ⟨?_, by rw [show lost = (t.ctrs = _) from rfl, ht]; rfl⟩
      rw [ht, State.ctrAdd_host, State.host_setHost_same _ _ hnum, hdrop]
      rfl
    · have hnone : d.sev ≤ 1 → displaceSev d.sev x.queue = none := fun hsev =>
        displaceSev_eq_none (hkeep.resolve_left (by omega))
      have ht : t = _ := State.enqueue_lost hany hfull hnone
      refine ⟨?_, by rw [show lost = (t.ctrs = _) from rfl, ht]; rfl⟩
      rw [ht, State.ctrAdd_host, State.host_setHost_same _ _ hs]

end Sys2Proof.Machine
end

section
/-! PROOFS. The rows that write one register: each does what that register's own rule says, and answers OKAY or SLVERR (R4, R8).
One lemma for the rule at each offset, and one for each row that writes there. -/

namespace Sys2Proof.Machine

/-- Outside the frame engine, the queue manager and the service ports an access opens no clock (R95). -/
theorem State.openGroup_ungated (s : State) {off : Nat}
    (h : off < 0x4000000 ∨ 0x5000000 ≤ off ∧ off < 0x6400000 ∨ 0x7000000 ≤ off) : s.openGroup off = s := by
  simp (disch := omega) only [State.openGroup, if_neg]

theorem State.busPut_answered {s : State} {q : Req} {off : Nat} (h : s.canWrite q off) (w : Word) :
    s.busPut q off w = State.answered ((s.openGroup off).writeReg q off w) := by
  rw [State.busPut_eq h, State.answered]

/-- A write at an offset whose clock is not gated, by what the register's rule leaves. -/
theorem State.busPut_ungated {s : State} {q : Req} {off : Nat} (h : s.canWrite q off) {w : Word} {r : State × Bool}
    (hr : s.writeReg q off w = r) (hoff : off < 0x4000000 ∨ 0x5000000 ≤ off ∧ off < 0x6400000 ∨ 0x7000000 ≤ off) :
    s.busPut q off w = State.answered r := by
  rw [State.busPut_answered h, State.openGroup_ungated s hoff, hr]

@[simp] theorem State.answered_true (s : State) : State.answered (s, true) = s.tell .okay [] := rfl

@[simp] theorem State.answered_false (s : State) : State.answered (s, false) = s.tell .slverr [] := rfl

section
variable (s : State) (q : Req) (w : Word)

theorem State.writeReg_rootCtrl :
    s.writeReg q 0 w = s.rootCtrlWrite w := by
  simp (disch := omega) only [State.writeReg, State.writeClkCfg, if_pos, if_neg, if_true]

theorem State.writeReg_div {d : Nat} (hd : d < 16) :
    s.writeReg q (0x100 + 4 * d) w = s.divWrite d w := by
  have h0 : (0x100 + 4 * d - 0x100) / 4 = d := by omega
  simp (disch := omega) only [State.writeReg, State.writeClkCfg, if_pos, if_neg, h0]

theorem State.writeReg_fcl {k l : Nat} (hk : k < 4) (hl : l < 8) :
    s.writeReg q (0x200 + 0x20 * k + 4 * l) w = s.fclWrite k l w := by
  have h0 : (0x200 + 0x20 * k + 4 * l - 0x200) / 0x20 = k := by omega
  have h1 : (0x200 + 0x20 * k + 4 * l) % 0x20 / 4 = l := by omega
  simp (disch := omega) only [State.writeReg, State.writeClkCfg, if_pos, if_neg, h0, h1]

theorem State.writeReg_osc {n : Nat} (hn : n < 4) :
    s.writeReg q (0x300 + 4 * n) w = s.oscWrite n w := by
  have h0 : (0x300 + 4 * n - 0x300) / 4 = n := by omega
  simp (disch := omega) only [State.writeReg, State.writeClkCfg, if_pos, if_neg, h0]

theorem State.writeReg_pwrCmd :
    s.writeReg q 0x10004 w = s.pwrCmdWrite w := by
  simp (disch := omega) only [State.writeReg, State.writeClkCfg, if_pos, if_neg, if_true]

theorem State.writeReg_rstCtl :
    s.writeReg q 0x1000C w = (s.rstCtlWrite w, true) := by
  simp (disch := omega) only [State.writeReg, State.writeClkCfg, if_pos, if_neg, if_true]

theorem State.writeReg_cfgOp :
    s.writeReg q 0x100000 w = s.cfgOpWrite w := by
  simp (disch := omega) only [State.writeReg, State.writeClkCfg, if_pos, if_neg, if_true]

theorem State.writeReg_fwCtl :
    s.writeReg q 0x100100 w = (s.fwWrite w, true) := by
  simp (disch := omega) only [State.writeReg, State.writeClkCfg, if_pos, if_neg, if_true]

theorem State.writeReg_vatCtrl {v : Nat} (hv : v < 16) :
    s.writeReg q (0x201000 + 0x100 * v) w = s.vatCtrlWrite v w := by
  have h0 : (0x201000 + 0x100 * v - 0x201000) / 0x100 = v := by omega
  have h1 : (0x201000 + 0x100 * v) % 0x100 = 0 := by omega
  simp (disch := omega) only [State.writeReg, State.writeVat, if_pos, if_neg, if_true, h0, h1]

theorem State.writeReg_assign {v k : Nat} (hv : v < 16) (hk : k < 10) :
    s.writeReg q (0x201008 + 0x100 * v + 4 * k) w = s.assignWrite v k w := by
  have h0 : (0x201008 + 0x100 * v + 4 * k - 0x201000) / 0x100 = v := by omega
  have h1 : (0x201008 + 0x100 * v + 4 * k) % 0x100 = 8 + 4 * k := by omega
  have h2 : (8 + 4 * k - 8) / 4 = k := by omega
  simp (disch := omega) only [State.writeReg, State.writeVat, if_pos, if_neg, h0, h1, h2]

theorem State.writeReg_mreg {v k : Nat} (hv : v < 16) (hk : k < 5) :
    s.writeReg q (0x201040 + 0x100 * v + 4 * k) w = s.mregWrite v k w := by
  have h0 : (0x201040 + 0x100 * v + 4 * k - 0x201000) / 0x100 = v := by omega
  have h1 : (0x201040 + 0x100 * v + 4 * k) % 0x100 = 0x40 + 4 * k := by omega
  have h2 : (0x40 + 4 * k - 0x40) / 4 = k := by omega
  simp (disch := omega) only [State.writeReg, State.writeVat, if_pos, if_neg, h0, h1, h2]

theorem State.writeReg_mload {v : Nat} (hv : v < 16) :
    s.writeReg q (0x20106C + 0x100 * v) w = (s.mloadWrite q.id q.vat v w, true) := by
  have h0 : (0x20106C + 0x100 * v - 0x201000) / 0x100 = v := by omega
  have h1 : (0x20106C + 0x100 * v) % 0x100 = 0x6C := by omega
  simp (disch := omega) only [State.writeReg, State.writeVat, if_pos, if_neg, if_true, h0, h1]

theorem State.writeReg_churnCtl :
    s.writeReg q 0x300000 w = (s.churnCtlWrite w, true) := by
  simp (disch := omega) only [State.writeReg, State.writeVat, if_pos, if_neg, if_true]

theorem State.writeReg_mapSync :
    s.writeReg q 0x1000010 w = (if w.getLsbD 0 then s.wrb NOC.MAP_SYNC.BUSY true else s, true) := by
  simp (disch := omega) only [State.writeReg, State.writeNoc, if_pos, if_neg, if_true]

theorem State.writeReg_initCfg {i : Nat} (hi : i < 1024) :
    s.writeReg q (0x1040000 + 0x100 * i) w = (if w.getLsbD 31 then s.bindReg i else s.unbindReg i, true) := by
  have h0 : (0x1040000 + 0x100 * i - 0x1040000) / 0x100 = i := by omega
  simp (disch := omega) only [State.writeReg, State.writeNoc, if_pos, if_neg, h0]

theorem State.writeReg_chCtl {n : Nat} (hn : n < 8) :
    s.writeReg q (0x2000000 + 0x10000 * n) w = orNone s (s.chCtlWrite n w) := by
  have h0 : (0x2000000 + 0x10000 * n - 0x2000000) / 0x10000 = n := by omega
  have h1 : (0x2000000 + 0x10000 * n) % 0x10000 = 0 := by omega
  simp (disch := omega) only [State.writeReg, State.writeDdr, if_pos, if_neg, h0, h1]

theorem State.writeReg_spare {n : Nat} (hn : n < 8) :
    s.writeReg q (0x200000C + 0x10000 * n) w = orNone s (s.spareWrite n w) := by
  have h0 : (0x200000C + 0x10000 * n - 0x2000000) / 0x10000 = n := by omega
  have h1 : (0x200000C + 0x10000 * n) % 0x10000 = 0xC := by omega
  simp (disch := omega) only [State.writeReg, State.writeDdr, if_pos, if_neg, h0, h1]

theorem State.writeReg_laneCtl {n : Nat} (hn : n < 100) :
    s.writeReg q (0x3000000 + 0x1000 * n) w = orNone s (s.laneCtlWrite n w) := by
  have h0 : (0x3000000 + 0x1000 * n - 0x3000000) / 0x1000 = n := by omega
  have h1 : (0x3000000 + 0x1000 * n) % 0x1000 = 0x0 := by omega
  simp (disch := omega) only [State.writeReg, State.writeLane, if_pos, if_neg, h0, h1]

theorem State.writeReg_txEq {n : Nat} (hn : n < 100) :
    s.writeReg q (0x3000008 + 0x1000 * n) w = orNone s (s.txEqWrite n w) := by
  have h0 : (0x3000008 + 0x1000 * n - 0x3000000) / 0x1000 = n := by omega
  have h1 : (0x3000008 + 0x1000 * n) % 0x1000 = 0x8 := by omega
  simp (disch := omega) only [State.writeReg, State.writeLane, if_pos, if_neg, h0, h1]

theorem State.writeReg_txFir {n : Nat} (hn : n < 100) :
    s.writeReg q (0x300000C + 0x1000 * n) w = orNone s (s.txFirWrite n w) := by
  have h0 : (0x300000C + 0x1000 * n - 0x3000000) / 0x1000 = n := by omega
  have h1 : (0x300000C + 0x1000 * n) % 0x1000 = 0xc := by omega
  simp (disch := omega) only [State.writeReg, State.writeLane, if_pos, if_neg, h0, h1]

theorem State.writeReg_inj {n : Nat} (hn : n < 100) :
    s.writeReg q (0x3000028 + 0x1000 * n) w = orNone s (s.injWrite n w) := by
  have h0 : (0x3000028 + 0x1000 * n - 0x3000000) / 0x1000 = n := by omega
  have h1 : (0x3000028 + 0x1000 * n) % 0x1000 = 0x28 := by omega
  simp (disch := omega) only [State.writeReg, State.writeLane, if_pos, if_neg, h0, h1]

theorem State.writeReg_qpll0 {u : Nat} (hu : u < 25) :
    s.writeReg q (0x3000800 + 0x4000 * u) w = orNone s (s.qpllWrite u 0 w) := by
  have h0 : (0x3000800 + 0x4000 * u - 0x3000000) / 0x1000 / 4 = u := by omega
  have h1 : (0x3000800 + 0x4000 * u) % 0x1000 = 0x800 := by omega
  simp (disch := omega) only [State.writeReg, State.writeLane, if_pos, if_neg, h0, h1]

theorem State.writeReg_qpll1 {u : Nat} (hu : u < 25) :
    s.writeReg q (0x3000804 + 0x4000 * u) w = orNone s (s.qpllWrite u 1 w) := by
  have h0 : (0x3000804 + 0x4000 * u - 0x3000000) / 0x1000 / 4 = u := by omega
  have h1 : (0x3000804 + 0x4000 * u) % 0x1000 = 0x804 := by omega
  simp (disch := omega) only [State.writeReg, State.writeLane, if_pos, if_neg, h0, h1]

theorem State.writeReg_portCtl {m : Nat} (hm : m < 100) :
    s.writeReg q (0x4000000 + 0x1000 * m) w = s.portCtlWrite m w := by
  have h0 : (0x4000000 + 0x1000 * m - 0x4000000) / 0x1000 = m := by omega
  have h1 : (0x4000000 + 0x1000 * m) % 0x1000 = 0 := by omega
  simp (disch := omega) only [State.writeReg, State.writeFen, if_pos, if_neg, h0, h1]

theorem State.writeReg_fcTx {m : Nat} (hm : m < 100) :
    s.writeReg q (0x4000018 + 0x1000 * m) w = s.fcTxWrite m w := by
  have h0 : (0x4000018 + 0x1000 * m - 0x4000000) / 0x1000 = m := by omega
  have h1 : (0x4000018 + 0x1000 * m) % 0x1000 = 0x18 := by omega
  simp (disch := omega) only [State.writeReg, State.writeFen, if_pos, if_neg, h0, h1]

theorem State.writeReg_qResume :
    s.writeReg q 0x4800014 w = s.qResumeWrite w := by
  simp (disch := omega) only [State.writeReg, State.writeFen, if_pos, if_neg, if_true]

theorem State.writeReg_qCfg {n : Nat} (hn : n < 65536) :
    s.writeReg q (0x4900000 + 0x20 * n) w = s.qCfgWrite n w := by
  have h0 : (0x4900000 + 0x20 * n - 0x4900000) / 0x20 = n := by omega
  have h1 : (0x4900000 + 0x20 * n) % 0x20 = 0 := by omega
  simp (disch := omega) only [State.writeReg, State.writeFen, if_pos, if_neg, h0, h1]

theorem State.writeReg_pidx {n : Nat} (hn : n < 65536) :
    s.writeReg q (0x490000C + 0x20 * n) w = s.pidxWrite n w := by
  have h0 : (0x490000C + 0x20 * n - 0x4900000) / 0x20 = n := by omega
  have h1 : (0x490000C + 0x20 * n) % 0x20 = 0xC := by omega
  simp (disch := omega) only [State.writeReg, State.writeFen, if_pos, if_neg, h0, h1]

theorem State.writeReg_tclk :
    s.writeReg q 0x5000000 w = s.tclkWrite w := by
  simp (disch := omega) only [State.writeReg, State.writeTime, if_pos, if_neg, if_true]

theorem State.writeReg_tbCtl {b : Nat} (hb : b < 8) :
    s.writeReg q (0x5001000 + 0x100 * b) w = s.tbCtlWrite b w := by
  have h0 : (0x5001000 + 0x100 * b - 0x5001000) / 0x100 = b := by omega
  have h1 : (0x5001000 + 0x100 * b) % 0x100 = 0 := by omega
  simp (disch := omega) only [State.writeReg, State.writeTime, if_pos, if_neg, h0, h1]

theorem State.writeReg_rate {b : Nat} (hb : b < 8) :
    s.writeReg q (0x500100C + 0x100 * b) w = s.rateWrite b w := by
  have h0 : (0x500100C + 0x100 * b - 0x5001000) / 0x100 = b := by omega
  have h1 : (0x500100C + 0x100 * b) % 0x100 = 0xC := by omega
  simp (disch := omega) only [State.writeReg, State.writeTime, if_pos, if_neg, h0, h1]

theorem State.writeReg_tpCtl {k : Nat} (hk : k < 16) :
    s.writeReg q (0x5002000 + 0x40 * k) w = s.tpCtlWrite (timeAdmin q) k w := by
  have h0 : (0x5002000 + 0x40 * k - 0x5002000) / 0x40 = k := by omega
  have h1 : (0x5002000 + 0x40 * k) % 0x40 = 0 := by omega
  simp (disch := omega) only [State.writeReg, State.writeTime, if_pos, if_neg, if_true, h0, h1]

theorem State.writeReg_cmpCtl {i : Nat} (hi : i < 15) :
    s.writeReg q (0x5004000 + 0x40 * i) w = s.cmpCtlWrite (timeAdmin q) i w := by
  have h0 : (0x5004000 + 0x40 * i - 0x5004000) / 0x40 = i := by omega
  have h1 : (0x5004000 + 0x40 * i) % 0x40 = 0 := by omega
  simp (disch := omega) only [State.writeReg, State.writeTime, if_pos, if_neg, if_true, h0, h1]

theorem State.writeReg_pend {k : Nat} (hk : k < 32) :
    s.writeReg q (0x6001000 + 4 * k) w = (s.pendWrite k w, true) := by
  have h0 : (0x6001000 + 4 * k - 0x6001000) / 4 = k := by omega
  simp (disch := omega) only [State.writeReg, State.writeIrq, if_pos, if_neg, h0]

theorem State.writeReg_swi :
    s.writeReg q 0x6001100 w = s.swiWrite w := by
  simp (disch := omega) only [State.writeReg, State.writeIrq, if_pos, if_neg, if_true]

theorem State.writeReg_complete {c : Nat} (hc : c < 6) :
    s.writeReg q (0x6002008 + 0x40 * c) w = (s.complete c (wget w 9 0), true) := by
  have h0 : (0x6002008 + 0x40 * c - 0x6002000) / 0x40 = c := by omega
  have h1 : (0x6002008 + 0x40 * c) % 0x40 = 8 := by omega
  simp (disch := omega) only [State.writeReg, State.writeIrq, if_pos, if_neg, if_true, h0, h1]

theorem State.writeReg_vcomplete {v : Nat} (hv : v < 16) :
    s.writeReg q (0x6080004 + 0x1000 * v) w = (s.vcompleteWrite v w, true) := by
  have h0 : (0x6080004 + 0x1000 * v - 0x6080000) / 0x1000 = v := by omega
  have h1 : (0x6080004 + 0x1000 * v) % 0x1000 = 4 := by omega
  simp (disch := omega) only [State.writeReg, State.writeIrq, if_pos, if_neg, if_true, h0, h1]

theorem State.writeReg_scrLock {k : Nat} (hk : k < 4) :
    s.writeReg q (0x6100014 + 8 * k) w = s.scrLockWrite k w := by
  have h0 : (0x6100014 + 8 * k - 0x6100010) / 8 = k := by omega
  simp (disch := omega) only [State.writeReg, State.writeSvc, if_pos, if_neg, h0]

theorem State.writeReg_dmaCtl {c : Nat} (hc : c < 16) :
    s.writeReg q (0x6201000 + 0x100 * c) w = s.dmaCtlWrite (adminReq q) c w := by
  have h0 : (0x6201000 + 0x100 * c - 0x6201000) / 0x100 = c := by omega
  have h1 : (0x6201000 + 0x100 * c) % 0x100 = 0 := by omega
  simp (disch := omega) only [State.writeReg, State.writeSvc, if_pos, if_neg, h0, h1]

theorem State.writeReg_coreCtl {k : Nat} (hk : k < 5) :
    s.writeReg q (0x6300000 + 0x20 * k) w = (s.coreCtlWrite k w, true) := by
  have h0 : (0x6300000 + 0x20 * k - 0x6300000) / 0x20 = k := by omega
  have h1 : (0x6300000 + 0x20 * k) % 0x20 = 0 := by omega
  have h2 : 0x6300000 + 0x20 * k < 0x63000A0 := by omega
  simp (disch := omega) only [State.writeReg, State.writeSvc, if_pos, if_neg, if_true, h0, h1, h2, and_self]

theorem State.writeReg_dbgLock :
    s.writeReg q 0x7100000 w = (s.dbgLock w, true) := by
  simp (disch := omega) only [State.writeReg, State.writeRest, if_pos, if_neg, if_true]

theorem State.writeReg_celCmd :
    s.writeReg q 0x8000000 w = s.celCmdWrite w := by
  simp (disch := omega) only [State.writeReg, State.writeRest, if_pos, if_neg, if_true]

theorem State.writeReg_bistCmd {k : Nat} (hk : k < 4) :
    s.writeReg q (0x9000000 + 0x100 * k) w = s.bistCmdWrite k w := by
  have h0 : (0x9000000 + 0x100 * k - 0x9000000) / 0x100 = k := by omega
  simp (disch := omega) only [State.writeReg, State.writeRest, if_pos, if_neg, h0]

theorem State.writeReg_hioRange {b : Nat} (hb : b < 12) :
    s.writeReg q (0xB000000 + 0x100 * b) w = (s.hioRange b (wget w 1 0), true) := by
  have h0 : (0xB000000 + 0x100 * b - 0xB000000) / 0x100 = b := by omega
  simp (disch := omega) only [State.writeReg, State.writeRest, if_pos, if_neg, h0]

theorem State.writeReg_slcCtl {g : Nat} (hg : g < 10752) :
    s.writeReg q (0xC000000 + 0x1000 * g) w = (s.slcCtlWrite g w, true) := by
  have h0 : (0xC000000 + 0x1000 * g - 0xC000000) / 0x1000 = g := by omega
  have h1 : (0xC000000 + 0x1000 * g) % 0x1000 = 0 := by omega
  simp (disch := omega) only [State.writeReg, State.writeSlc, if_neg, h0, h1]

theorem State.writeReg_slcFlags {g : Nat} (hg : g < 10752) :
    s.writeReg q (0xC000008 + 0x1000 * g) w = (s.slcFlagsWrite g w, true) := by
  have h0 : (0xC000008 + 0x1000 * g - 0xC000000) / 0x1000 = g := by omega
  have h1 : (0xC000008 + 0x1000 * g) % 0x1000 = 8 := by omega
  simp (disch := omega) only [State.writeReg, State.writeSlc, if_neg, h0, h1]

theorem State.writeReg_insp {g : Nat} (hg : g < 10752) :
    s.writeReg q (0xC000050 + 0x1000 * g) w = orNone s (s.inspWrite g w) := by
  have h0 : (0xC000050 + 0x1000 * g - 0xC000000) / 0x1000 = g := by omega
  have h1 : (0xC000050 + 0x1000 * g) % 0x1000 = 0x50 := by omega
  simp (disch := omega) only [State.writeReg, State.writeSlc, if_neg, h0, h1]

end

/-! The rows. -/

theorem exec_rootSourceSwitch {s : State} {q : Req} (w : Word) (h : s.canWrite q 0) :
    exec (.rootSourceSwitch q w) s = .next (State.answered (s.rootCtrlWrite w)) :=
  congrArg _ (State.busPut_ungated h (State.writeReg_rootCtrl s q _) (by omega))

theorem exec_relock {s : State} {q : Req} (w : Word) (h : s.canWrite q 0) :
    exec (.relock q w) s = .next (State.answered (s.rootCtrlWrite (w ||| 0x40#32))) :=
  congrArg _ (State.busPut_ungated h (State.writeReg_rootCtrl s q _) (by omega))

theorem exec_dividerWrite {s : State} {q : Req} (d : Fin 16) (w : Word) (h : s.canWrite q (0x100 + 4 * d.val)) :
    exec (.dividerWrite q d w) s = .next (State.answered (s.divWrite d.val w)) :=
  congrArg _ (State.busPut_ungated h (State.writeReg_div s q _ d.isLt) (by omega))

theorem exec_foreignLineSourceWrite {s : State} {q : Req} (k : Fin 4) (l : Fin 8) (w : Word) (h : s.canWrite q (0x200 +
    0x20 * k.val + 4 * l.val)) :
    exec (.foreignLineSourceWrite q k l w) s = .next (State.answered (s.fclWrite k.val l.val w)) :=
  congrArg _ (State.busPut_ungated h (State.writeReg_fcl s q _ k.isLt l.isLt) (by omega))

theorem exec_oscConfigWrite {s : State} {q : Req} (n : Fin 4) (w : Word) (h : s.canWrite q (0x300 + 4 * n.val)) :
    exec (.oscConfigWrite q n w) s = .next (State.answered (s.oscWrite n.val w)) :=
  congrArg _ (State.busPut_ungated h (State.writeReg_osc s q _ n.isLt) (by omega))

theorem exec_sliceHaltRequest {s : State} {q : Req} (g : Fin 10752) (h : s.canWrite q (0xC000000 + 0x1000 * g.val)) :
    exec (.sliceHaltRequest q g) s = .next (State.answered (s.slcCtlWrite g.val 1, true)) :=
  congrArg _ (State.busPut_ungated h (State.writeReg_slcCtl s q _ g.isLt) (by omega))

theorem exec_sliceResume {s : State} {q : Req} (g : Fin 10752) (h : s.canWrite q (0xC000000 + 0x1000 * g.val)) :
    exec (.sliceResume q g) s = .next (State.answered (s.slcCtlWrite g.val 2, true)) :=
  congrArg _ (State.busPut_ungated h (State.writeReg_slcCtl s q _ g.isLt) (by omega))

theorem exec_sliceStep {s : State} {q : Req} (g : Fin 10752) (h : s.canWrite q (0xC000000 + 0x1000 * g.val)) :
    exec (.sliceStep q g) s = .next (State.answered (s.slcCtlWrite g.val 4, true)) :=
  congrArg _ (State.busPut_ungated h (State.writeReg_slcCtl s q _ g.isLt) (by omega))

theorem exec_inspectionStart {s : State} {q : Req} (g : Fin 10752) (w : Word) (h : s.canWrite q (0xC000050 + 0x1000 *
    g.val)) :
    exec (.inspectionStart q g w) s = .next (State.answered (orNone s (s.inspWrite g.val w))) :=
  congrArg _ (State.busPut_ungated h (State.writeReg_insp s q _ g.isLt) (by omega))

theorem exec_clearIllegal {s : State} {q : Req} (g : Fin 10752) (h : s.canWrite q (0xC000008 + 0x1000 * g.val)) :
    exec (.clearIllegal q g) s = .next (State.answered (s.slcFlagsWrite g.val 0x200, true)) :=
  congrArg _ (State.busPut_ungated h (State.writeReg_slcFlags s q _ g.isLt) (by omega))

theorem exec_activate {s : State} {q : Req} (h : s.canWrite q 0x100000) :
    exec (.activate q) s = .next (State.answered (s.cfgOpWrite 1)) :=
  congrArg _ (State.busPut_ungated h (State.writeReg_cfgOp s q _) (by omega))

theorem exec_rollback {s : State} {q : Req} (h : s.canWrite q 0x100000) :
    exec (.rollback q) s = .next (State.answered (s.cfgOpWrite 2)) :=
  congrArg _ (State.busPut_ungated h (State.writeReg_cfgOp s q _) (by omega))

theorem exec_confirm {s : State} {q : Req} (h : s.canWrite q 0x100000) :
    exec (.confirm q) s = .next (State.answered (s.cfgOpWrite 3)) :=
  congrArg _ (State.busPut_ungated h (State.writeReg_cfgOp s q _) (by omega))

theorem exec_arm {s : State} {q : Req} (h : s.canWrite q 0x100000) :
    exec (.arm q) s = .next (State.answered (s.cfgOpWrite 4)) :=
  congrArg _ (State.busPut_ungated h (State.writeReg_cfgOp s q _) (by omega))

theorem exec_disarm {s : State} {q : Req} (h : s.canWrite q 0x100000) :
    exec (.disarm q) s = .next (State.answered (s.cfgOpWrite 5)) :=
  congrArg _ (State.busPut_ungated h (State.writeReg_cfgOp s q _) (by omega))

theorem exec_commitOpen {s : State} {q : Req} (h : s.canWrite q 0x100000) :
    exec (.commitOpen q) s = .next (State.answered (s.cfgOpWrite 6)) :=
  congrArg _ (State.busPut_ungated h (State.writeReg_cfgOp s q _) (by omega))

theorem exec_commitClose {s : State} {q : Req} (h : s.canWrite q 0x100000) :
    exec (.commitClose q) s = .next (State.answered (s.cfgOpWrite 7)) :=
  congrArg _ (State.busPut_ungated h (State.writeReg_cfgOp s q _) (by omega))

theorem exec_invalidate {s : State} {q : Req} (h : s.canWrite q 0x100000) :
    exec (.invalidate q) s = .next (State.answered (s.cfgOpWrite 8)) :=
  congrArg _ (State.busPut_ungated h (State.writeReg_cfgOp s q _) (by omega))

theorem exec_capture {s : State} {q : Req} (h : s.canWrite q 0x100000) :
    exec (.capture q) s = .next (State.answered (s.cfgOpWrite 9)) :=
  congrArg _ (State.busPut_ungated h (State.writeReg_cfgOp s q _) (by omega))

theorem exec_frameAccessRead {s : State} {q : Req} (w : Word) (h : s.canWrite q 0x100100) :
    exec (.frameAccessRead q w) s = .next (State.answered (s.fwWrite (w ||| 3#32), true)) :=
  congrArg _ (State.busPut_ungated h (State.writeReg_fwCtl s q _) (by omega))

theorem exec_frameAccessWrite {s : State} {q : Req} (w : Word) (h : s.canWrite q 0x100100) :
    exec (.frameAccessWrite q w) s = .next (State.answered (s.fwWrite ((w ||| 1#32) &&& 0xFFFFFFFD#32), true)) :=
  congrArg _ (State.busPut_ungated h (State.writeReg_fwCtl s q _) (by omega))

theorem exec_vatResetRequest {s : State} {q : Req} (v : Fin 16) (w : Word) (h : s.canWrite q (0x201000 + 0x100 * v.val)) :
    exec (.vatResetRequest q v w) s = .next (State.answered (s.vatCtrlWrite v.val (w ||| 0x1#32))) :=
  congrArg _ (State.busPut_ungated h (State.writeReg_vatCtrl s q _ v.isLt) (by omega))

theorem exec_vatReleaseRequest {s : State} {q : Req} (v : Fin 16) (w : Word) (h : s.canWrite q (0x201000 + 0x100 * v.val)) :
    exec (.vatReleaseRequest q v w) s = .next (State.answered (s.vatCtrlWrite v.val (w &&& 0xFFFFFFFE#32))) :=
  congrArg _ (State.busPut_ungated h (State.writeReg_vatCtrl s q _ v.isLt) (by omega))

theorem exec_vatPowerGate {s : State} {q : Req} (v : Fin 16) (w : Word) (h : s.canWrite q (0x201000 + 0x100 * v.val)) :
    exec (.vatPowerGate q v w) s = .next (State.answered (s.vatCtrlWrite v.val (w ||| 0x8#32))) :=
  congrArg _ (State.busPut_ungated h (State.writeReg_vatCtrl s q _ v.isLt) (by omega))

theorem exec_vatPowerUp {s : State} {q : Req} (v : Fin 16) (w : Word) (h : s.canWrite q (0x201000 + 0x100 * v.val)) :
    exec (.vatPowerUp q v w) s = .next (State.answered (s.vatCtrlWrite v.val (w &&& 0xFFFFFFF7#32))) :=
  congrArg _ (State.busPut_ungated h (State.writeReg_vatCtrl s q _ v.isLt) (by omega))

theorem exec_resourceAssignWrite {s : State} {q : Req} (v : Fin 16) (k : Fin 10) (w : Word) (h : s.canWrite q (0x201008 +
    0x100 * v.val + 4 * k.val)) :
    exec (.resourceAssignWrite q v k w) s = .next (State.answered (s.assignWrite v.val k.val w)) :=
  congrArg _ (State.busPut_ungated h (State.writeReg_assign s q _ v.isLt k.isLt) (by omega))

theorem exec_moduleRegionEnable {s : State} {q : Req} (v : Fin 16) (k : Fin 5) (w : Word) (h : s.canWrite q (0x201040 +
    0x100 * v.val + 4 * k.val)) :
    exec (.moduleRegionEnable q v k w) s = .next (State.answered (s.mregWrite v.val k.val w)) :=
  congrArg _ (State.busPut_ungated h (State.writeReg_mreg s q _ v.isLt k.isLt) (by omega))

theorem exec_moduleLoadRequest {s : State} {q : Req} (v : Fin 16) (w : Word) (h : s.canWrite q (0x20106C + 0x100 * v.val)) :
    exec (.moduleLoadRequest q v w) s = .next (State.answered (s.mloadWrite q.id q.vat v.val (w ||| 0x1#32), true)) :=
  congrArg _ (State.busPut_ungated h (State.writeReg_mload s q _ v.isLt) (by omega))

theorem exec_churnEnable {s : State} {q : Req} (w : Word) (h : s.canWrite q 0x300000) :
    exec (.churnEnable q w) s = .next (State.answered (s.churnCtlWrite (w ||| 0x1#32), true)) :=
  congrArg _ (State.busPut_ungated h (State.writeReg_churnCtl s q _) (by omega))

theorem exec_churnDisable {s : State} {q : Req} (w : Word) (h : s.canWrite q 0x300000) :
    exec (.churnDisable q w) s = .next (State.answered (s.churnCtlWrite (w &&& 0xFFFFFFFE#32), true)) :=
  congrArg _ (State.busPut_ungated h (State.writeReg_churnCtl s q _) (by omega))

theorem exec_mapSync {s : State} {q : Req} (h : s.canWrite q 0x1000010) :
    exec (.mapSync q) s = .next (State.answered (s.wrb NOC.MAP_SYNC.BUSY true, true)) :=
  congrArg _ (State.busPut_ungated h (State.writeReg_mapSync s q 1) (by omega))

theorem exec_regulatorBind {s : State} {q : Req} (i : Fin 1024) (h : s.canWrite q (0x1040000 + 0x100 * i.val)) :
    exec (.regulatorBind q i) s = .next (State.answered (s.bindReg i.val, true)) :=
  congrArg _ (State.busPut_ungated h (State.writeReg_initCfg s q 0x80000000 i.isLt) (by omega))

theorem exec_regulatorUnbind {s : State} {q : Req} (i : Fin 1024) (h : s.canWrite q (0x1040000 + 0x100 * i.val)) :
    exec (.regulatorUnbind q i) s = .next (State.answered (s.unbindReg i.val, true)) :=
  congrArg _ (State.busPut_ungated h (State.writeReg_initCfg s q 0 i.isLt) (by omega))

theorem exec_channelInit {s : State} {q : Req} (n : Fin 8) (w : Word) (h : s.canWrite q (0x2000000 + 0x10000 * n.val)) :
    exec (.channelInit q n w) s = .next (State.answered (orNone s (s.chCtlWrite n.val (w ||| 0x80000000#32)))) :=
  congrArg _ (State.busPut_ungated h (State.writeReg_chCtl s q _ n.isLt) (by omega))

theorem exec_channelFill {s : State} {q : Req} (n : Fin 8) (w : Word) (h : s.canWrite q (0x2000000 + 0x10000 * n.val)) :
    exec (.channelFill q n w) s = .next (State.answered (orNone s (s.chCtlWrite n.val (w ||| 0x40000000#32)))) :=
  congrArg _ (State.busPut_ungated h (State.writeReg_chCtl s q _ n.isLt) (by omega))

theorem exec_migrationStart {s : State} {q : Req} (n : Fin 8) (w : Word) (h : s.canWrite q (0x2000000 + 0x10000 * n.val)) :
    exec (.migrationStart q n w) s = .next (State.answered (orNone s (s.chCtlWrite n.val (w ||| 0x20000000#32)))) :=
  congrArg _ (State.busPut_ungated h (State.writeReg_chCtl s q _ n.isLt) (by omega))

theorem exec_selfRefreshEnter {s : State} {q : Req} (n : Fin 8) (w : Word) (h : s.canWrite q (0x2000000 + 0x10000 *
    n.val)) :
    exec (.selfRefreshEnter q n w) s = .next (State.answered (orNone s (s.chCtlWrite n.val (w ||| 0x2000000#32)))) :=
  congrArg _ (State.busPut_ungated h (State.writeReg_chCtl s q _ n.isLt) (by omega))

theorem exec_selfRefreshExit {s : State} {q : Req} (n : Fin 8) (w : Word) (h : s.canWrite q (0x2000000 + 0x10000 * n.val)) :
    exec (.selfRefreshExit q n w) s = .next (State.answered (orNone s (s.chCtlWrite n.val (w &&& 0xFDFFFFFF#32)))) :=
  congrArg _ (State.busPut_ungated h (State.writeReg_chCtl s q _ n.isLt) (by omega))

theorem exec_spareSubstitute {s : State} {q : Req} (n : Fin 8) (w : Word) (h : s.canWrite q (0x200000C + 0x10000 * n.val)) :
    exec (.spareSubstitute q n w) s = .next (State.answered (orNone s (s.spareWrite n.val (w ||| 0x20000000#32)))) :=
  congrArg _ (State.busPut_ungated h (State.writeReg_spare s q _ n.isLt) (by omega))

theorem exec_laneTxPowerSet {s : State} {q : Req} (n : Fin 100) (p : Fin 4) (h : s.canWrite q (0x3000000 + 0x1000 *
    n.val)) :
    exec (.laneTxPowerSet q n p) s = .next (State.answered (orNone s (s.laneCtlWrite n.val (wset (s.reg (0x3000000 +
    0x1000 * n.val)) 31 30 p.val)))) :=
  congrArg _ (State.busPut_ungated h (State.writeReg_laneCtl s q _ n.isLt) (by omega))

theorem exec_laneRxPowerSet {s : State} {q : Req} (n : Fin 100) (p : Fin 4) (h : s.canWrite q (0x3000000 + 0x1000 *
    n.val)) :
    exec (.laneRxPowerSet q n p) s = .next (State.answered (orNone s (s.laneCtlWrite n.val (wset (s.reg (0x3000000 +
    0x1000 * n.val)) 29 28 p.val)))) :=
  congrArg _ (State.busPut_ungated h (State.writeReg_laneCtl s q _ n.isLt) (by omega))

theorem exec_laneRateSet {s : State} {q : Req} (n : Fin 100) (pll : Fin 2) (mod : Fin 2) (d : Fin 256) (h : s.canWrite q
    (0x3000000 + 0x1000 * n.val)) :
    exec (.laneRateSet q n pll mod d) s = .next (State.answered (orNone s (s.laneCtlWrite n.val (wset (wset (wset (s.reg
    (0x3000000 + 0x1000 * n.val)) 27 27 pll.val) 26 26 mod.val) 23 16 d.val)))) :=
  congrArg _ (State.busPut_ungated h (State.writeReg_laneCtl s q _ n.isLt) (by omega))

theorem exec_laneLoopbackSet {s : State} {q : Req} (n : Fin 100) (m : Fin 4) (h : s.canWrite q (0x3000000 + 0x1000 *
    n.val)) :
    exec (.laneLoopbackSet q n m) s = .next (State.answered (orNone s (s.laneCtlWrite n.val (wset (s.reg (0x3000000 +
    0x1000 * n.val)) 15 14 m.val)))) :=
  congrArg _ (State.busPut_ungated h (State.writeReg_laneCtl s q _ n.isLt) (by omega))

theorem exec_recoveredClockDivider {s : State} {q : Req} (n : Fin 100) (c : Fin 16) (h : s.canWrite q (0x3000000 + 0x1000
    * n.val)) :
    exec (.recoveredClockDivider q n c) s = .next (State.answered (orNone s (s.laneCtlWrite n.val (wset (s.reg (0x3000000
    + 0x1000 * n.val)) 3 0 c.val)))) :=
  congrArg _ (State.busPut_ungated h (State.writeReg_laneCtl s q _ n.isLt) (by omega))

theorem exec_injectOnce {s : State} {q : Req} (n : Fin 100) (w : Word) (h : s.canWrite q (0x3000028 + 0x1000 * n.val)) :
    exec (.injectOnce q n w) s = .next (State.answered (orNone s (s.injWrite n.val (w ||| 0x80000000#32)))) :=
  congrArg _ (State.busPut_ungated h (State.writeReg_inj s q _ n.isLt) (by omega))

theorem exec_tclkSourceSelect {s : State} {q : Req} (w : Word) (h : s.canWrite q 0x5000000) :
    exec (.tclkSourceSelect q w) s = .next (State.answered (s.tclkWrite w)) :=
  congrArg _ (State.busPut_ungated h (State.writeReg_tclk s q _) (by omega))

theorem exec_rateUpdate {s : State} {q : Req} (b : Fin 8) (w : Word) (h : s.canWrite q (0x500100C + 0x100 * b.val)) :
    exec (.rateUpdate q b w) s = .next (State.answered (s.rateWrite b.val w)) :=
  congrArg _ (State.busPut_ungated h (State.writeReg_rate s q _ b.isLt) (by omega))

theorem exec_cmpArm {s : State} {q : Req} (i : Fin 15) (w : Word) (h : s.canWrite q (0x5004000 + 0x40 * i.val)) :
    exec (.cmpArm q i w) s = .next (State.answered (s.cmpCtlWrite (timeAdmin q) i.val (w ||| 0x80000000#32))) :=
  congrArg _ (State.busPut_ungated h (State.writeReg_cmpCtl s q _ i.isLt) (by omega))

theorem exec_cmpDisarm {s : State} {q : Req} (i : Fin 15) (w : Word) (h : s.canWrite q (0x5004000 + 0x40 * i.val)) :
    exec (.cmpDisarm q i w) s = .next (State.answered (s.cmpCtlWrite (timeAdmin q) i.val (w &&& 0x7FFFFFFF#32))) :=
  congrArg _ (State.busPut_ungated h (State.writeReg_cmpCtl s q _ i.isLt) (by omega))

theorem exec_pulseEnable {s : State} {q : Req} (k : Fin 16) (w : Word) (h : s.canWrite q (0x5002000 + 0x40 * k.val)) :
    exec (.pulseEnable q k w) s = .next (State.answered (s.tpCtlWrite (timeAdmin q) k.val (w ||| 0x80000000#32))) :=
  congrArg _ (State.busPut_ungated h (State.writeReg_tpCtl s q _ k.isLt) (by omega))

theorem exec_coreRun {s : State} {q : Req} (k : Fin 5) (w : Word) (h : s.canWrite q (0x6300000 + 0x20 * k.val)) :
    exec (.coreRun q k w) s = .next (State.answered (s.coreCtlWrite k.val (w ||| 0x80000000#32), true)) :=
  congrArg _ (State.busPut_ungated h (State.writeReg_coreCtl s q _ k.isLt) (by omega))

theorem exec_coreReset {s : State} {q : Req} (k : Fin 5) (w : Word) (h : s.canWrite q (0x6300000 + 0x20 * k.val)) :
    exec (.coreReset q k w) s = .next (State.answered (s.coreCtlWrite k.val (w ||| 0x40000000#32), true)) :=
  congrArg _ (State.busPut_ungated h (State.writeReg_coreCtl s q _ k.isLt) (by omega))

theorem exec_complete {s : State} {q : Req} (c : Fin 6) (w : Word) (h : s.canWrite q (0x6002008 + 0x40 * c.val)) :
    exec (.complete q c w) s = .next (State.answered (s.complete c.val (wget w 9 0), true)) :=
  congrArg _ (State.busPut_ungated h (State.writeReg_complete s q _ c.isLt) (by omega))

theorem exec_pendClear {s : State} {q : Req} (k : Fin 32) (w : Word) (h : s.canWrite q (0x6001000 + 4 * k.val)) :
    exec (.pendClear q k w) s = .next (State.answered (s.pendWrite k.val w, true)) :=
  congrArg _ (State.busPut_ungated h (State.writeReg_pend s q _ k.isLt) (by omega))

theorem exec_softwareInterrupt {s : State} {q : Req} (w : Word) (h : s.canWrite q 0x6001100) :
    exec (.softwareInterrupt q w) s = .next (State.answered (s.swiWrite w)) :=
  congrArg _ (State.busPut_ungated h (State.writeReg_swi s q _) (by omega))

theorem exec_vcomplete {s : State} {q : Req} (v : Fin 16) (w : Word) (h : s.canWrite q (0x6080004 + 0x1000 * v.val)) :
    exec (.vcomplete q v w) s = .next (State.answered (s.vcompleteWrite v.val w, true)) :=
  congrArg _ (State.busPut_ungated h (State.writeReg_vcomplete s q _ v.isLt) (by omega))

theorem exec_scratchpadLock {s : State} {q : Req} (k : Fin 4) (w : Word) (h : s.canWrite q (0x6100014 + 8 * k.val)) :
    exec (.scratchpadLock q k w) s = .next (State.answered (s.scrLockWrite k.val (w ||| 0x80000000#32))) :=
  congrArg _ (State.busPut_ungated h (State.writeReg_scrLock s q _ k.isLt) (by omega))

theorem exec_dmaGo {s : State} {q : Req} (c : Fin 16) (w : Word) (h : s.canWrite q (0x6201000 + 0x100 * c.val)) :
    exec (.dmaGo q c w) s = .next (State.answered (s.dmaCtlWrite (adminReq q) c.val (w ||| 0x80000000#32))) :=
  congrArg _ (State.busPut_ungated h (State.writeReg_dmaCtl s q _ c.isLt) (by omega))

theorem exec_dmaStop {s : State} {q : Req} (c : Fin 16) (w : Word) (h : s.canWrite q (0x6201000 + 0x100 * c.val)) :
    exec (.dmaStop q c w) s = .next (State.answered (s.dmaCtlWrite (adminReq q) c.val (w ||| 0x40000000#32))) :=
  congrArg _ (State.busPut_ungated h (State.writeReg_dmaCtl s q _ c.isLt) (by omega))

theorem exec_debugLock {s : State} {q : Req} (h : s.canWrite q 0x7100000) :
    exec (.debugLock q) s = .next (State.answered (s.dbgLock 0x80000000, true)) :=
  congrArg _ (State.busPut_ungated h (State.writeReg_dbgLock s q _) (by omega))

theorem exec_cellarProgram {s : State} {q : Req} (h : s.canWrite q 0x8000000) :
    exec (.cellarProgram q) s = .next (State.answered (s.celCmdWrite 0x90000000)) :=
  congrArg _ (State.busPut_ungated h (State.writeReg_celCmd s q _) (by omega))

theorem exec_cellarErase {s : State} {q : Req} (h : s.canWrite q 0x8000000) :
    exec (.cellarErase q) s = .next (State.answered (s.celCmdWrite 0xA0000000)) :=
  congrArg _ (State.busPut_ungated h (State.writeReg_celCmd s q _) (by omega))

theorem exec_coldResetRequest {s : State} {q : Req} (h : s.canWrite q 0x1000C) :
    exec (.coldResetRequest q) s = .next (State.answered (s.rstCtlWrite 2, true)) :=
  congrArg _ (State.busPut_ungated h (State.writeReg_rstCtl s q _) (by omega))

theorem exec_warmResetRequest {s : State} {q : Req} (h : s.canWrite q 0x1000C) :
    exec (.warmResetRequest q) s = .next (State.answered (s.rstCtlWrite 1, true)) :=
  congrArg _ (State.busPut_ungated h (State.writeReg_rstCtl s q _) (by omega))

theorem exec_bistCmdGo {s : State} {q : Req} (k : Fin 4) (w : Word) (h : s.canWrite q (0x9000000 + 0x100 * k.val)) :
    exec (.bistCmdGo q k w) s = .next (State.answered (s.bistCmdWrite k.val (w ||| 0x80000000#32))) :=
  congrArg _ (State.busPut_ungated h (State.writeReg_bistCmd s q _ k.isLt) (by omega))

theorem exec_rangeWrite {s : State} {q : Req} (b : Fin 12) (w : Word) (h : s.canWrite q (0xB000000 + 0x100 * b.val)) :
    exec (.rangeWrite q b w) s = .next (State.answered (s.hioRange b.val (wget w 1 0), true)) :=
  congrArg _ (State.busPut_ungated h (State.writeReg_hioRange s q _ b.isLt) (by omega))

theorem exec_portEnable {s : State} {q : Req} (m : Fin 100) (w : Word) (h : s.canWrite q (0x4000000 + 0x1000 * m.val)) :
    exec (.portEnable q m w) s = .next (State.answered ((s.openGroup (0x4000000 + 0x1000 * m.val)).portCtlWrite m.val (w
    ||| 0x80000000#32))) := by
  change Host.Outcome.next (s.busPut q (0x4000000 + 0x1000 * m.val) (w ||| 0x80000000#32)) = _
  rw [State.busPut_answered h, State.writeReg_portCtl _ _ _ m.isLt]

theorem exec_portDisable {s : State} {q : Req} (m : Fin 100) (w : Word) (h : s.canWrite q (0x4000000 + 0x1000 * m.val)) :
    exec (.portDisable q m w) s = .next (State.answered ((s.openGroup (0x4000000 + 0x1000 * m.val)).portCtlWrite m.val (w
    &&& 0x7FFFFFFF#32))) := by
  change Host.Outcome.next (s.busPut q (0x4000000 + 0x1000 * m.val) (w &&& 0x7FFFFFFF#32)) = _
  rw [State.busPut_answered h, State.writeReg_portCtl _ _ _ m.isLt]

theorem exec_sendPause {s : State} {q : Req} (m : Fin 100) (w : Word) (h : s.canWrite q (0x4000018 + 0x1000 * m.val)) :
    exec (.sendPause q m w) s = .next (State.answered ((s.openGroup (0x4000018 + 0x1000 * m.val)).fcTxWrite m.val (w |||
    0x80000000#32))) := by
  change Host.Outcome.next (s.busPut q (0x4000018 + 0x1000 * m.val) (w ||| 0x80000000#32)) = _
  rw [State.busPut_answered h, State.writeReg_fcTx _ _ _ m.isLt]

theorem exec_queueResume {s : State} {q : Req} (w : Word) (h : s.canWrite q 0x4800014) :
    exec (.queueResume q w) s = .next (State.answered ((s.openGroup 0x4800014).qResumeWrite w)) := by
  change Host.Outcome.next (s.busPut q 0x4800014 w) = _
  rw [State.busPut_answered h, State.writeReg_qResume]

theorem exec_queueEnable {s : State} {q : Req} (n : Fin 65536) (w : Word) (h : s.canWrite q (0x4900000 + 0x20 * n.val)) :
    exec (.queueEnable q n w) s = .next (State.answered ((s.openGroup (0x4900000 + 0x20 * n.val)).qCfgWrite n.val (w |||
    0x80000000#32))) := by
  change Host.Outcome.next (s.busPut q (0x4900000 + 0x20 * n.val) (w ||| 0x80000000#32)) = _
  rw [State.busPut_answered h, State.writeReg_qCfg _ _ _ n.isLt]

theorem exec_queueDisable {s : State} {q : Req} (n : Fin 65536) (w : Word) (h : s.canWrite q (0x4900000 + 0x20 * n.val)) :
    exec (.queueDisable q n w) s = .next (State.answered ((s.openGroup (0x4900000 + 0x20 * n.val)).qCfgWrite n.val (w &&&
    0x7FFFFFFF#32))) := by
  change Host.Outcome.next (s.busPut q (0x4900000 + 0x20 * n.val) (w &&& 0x7FFFFFFF#32)) = _
  rw [State.busPut_answered h, State.writeReg_qCfg _ _ _ n.isLt]

theorem exec_queueDoorbell {s : State} {q : Req} (n : Fin 65536) (w : Word) (h : s.canWrite q (0x490000C + 0x20 * n.val)) :
    exec (.queueDoorbell q n w) s = .next (State.answered ((s.openGroup (0x490000C + 0x20 * n.val)).pidxWrite n.val w))
    := by
  change Host.Outcome.next (s.busPut q (0x490000C + 0x20 * n.val) w) = _
  rw [State.busPut_answered h, State.writeReg_pidx _ _ _ n.isLt]

end Sys2Proof.Machine
end

section
/-! PROOFS. Integer results in an accumulator (R131), and requests at targets and responses at initiators (R301, R308,
  R314 to
R316, R321, R347, R449). -/

namespace Sys2Proof.Machine

theorem toInt_ofInt_of_range {v : Int} (hlo : -(2 ^ 63) ≤ v) (hhi : v ≤ 2 ^ 63 - 1) : (BitVec.ofInt 64 v).toInt = v := by
  rw [BitVec.toInt_ofInt, Int.bmod_eq_of_le (by omega) (by omega)]

/-- Settles O12: the three places a result can have beside the accumulator's range. -/
theorem accumulatorResults : Obligations.AccumulatorResults := by
  unfold Obligations.AccumulatorResults
  intro v sat
  refine ⟨fun hlo hhi => ?_, fun hhi => ?_, fun hlo => ?_⟩
  · rw [accInt, if_pos ⟨hlo, hhi⟩]
    exact ⟨toInt_ofInt_of_range hlo hhi, rfl⟩
  · rw [accInt, if_neg (by omega)]
    refine ⟨rfl, ?_, ?_⟩
    · rintro rfl
      rw [if_pos rfl, if_pos hhi]
      rfl
    · rintro rfl
      rfl
  · rw [accInt, if_neg (by omega)]
    refine ⟨rfl, ?_, ?_⟩
    · rintro rfl
      rw [if_pos rfl, if_neg (by omega)]
      rfl
    · rintro rfl
      rfl

/-! Requests at targets. -/

theorem exec_targetRequestArrival (a : Fin 1024) (vc : Fin 4) (x : UserAns) (s : State) :
    exec (.targetRequestArrival a vc x) s = execTargetRequestArrival a vc x s := rfl

theorem exec_responseArrival (i : Fin 1024) (cycles : Nat) (x : Option CpuLoad) (s : State) :
    exec (.responseArrival i cycles x) s = execResponseArrival i cycles x s := rfl

theorem exec_initiatorTimeout (i t : Fin 1024) (x : Option CpuLoad) (s : State) :
    exec (.initiatorTimeout i t x) s = execInitiatorTimeout i t x s := rfl

/-- The state without the response at the head of an initiator's buffer. -/
def State.popResp (s : State) (i : Nat) (t : List Moving) : State :=
  { s with noc := { s.noc with resp := tput s.noc.resp i t [] } }

theorem execResponseArrival_popped {s : State} {i : Fin 1024} {cycles : Nat} {x : Option CpuLoad} {m : Moving} {t : List Moving}
    (hm : tget s.noc.resp i.val [] = m :: t) (hop : m.f.op = 8 ∨ m.f.op = 9) :
    execResponseArrival i cycles x s =
      let r := (s.popResp i.val t).takeResponse i.val m cycles
      .next (if r.2 then r.1.loadAnswered i.val (statusOf m.f.status) x else r.1) := by
  have hrsp : ¬ (m.f.op ≠ 8 ∧ m.f.op ≠ 9) := by omega
  simp [execResponseArrival, hm, hrsp]
  rfl

theorem State.takeResponse_none {s : State} {i cycles : Nat} {m : Moving} (h : s.tag i m.f.tag = none) :
    s.takeResponse i m cycles = (s.bump (NOC.LATE_CNT i), false) := by
  simp [State.takeResponse, h]

theorem State.takeResponse_late {s : State} {i cycles : Nat} {m : Moving} {y : TagSt} (h : s.tag i m.f.tag = some y)
    (hstamp : y.stamp ≠ m.stamp) : s.takeResponse i m cycles = (s.bump (NOC.LATE_CNT i), false) := by
  simp [State.takeResponse, h, hstamp]

theorem State.takeResponse_orphan {s : State} {i cycles : Nat} {m : Moving} {y : TagSt} (h : s.tag i m.f.tag = some y)
    (hstamp : y.stamp = m.stamp) (horphan : y.orphan = true) : s.takeResponse i m cycles =
      (((s.freeTag i m.f.tag).bump (VAT.RSP_DISC_CNT (s.vatOfInit i))).retryAll i, false) := by
  simp [State.takeResponse, h, hstamp, horphan]

theorem State.takeResponse_quarantined {s : State} {i cycles : Nat} {m : Moving} {y : TagSt} (h : s.tag i m.f.tag = some y)
    (hstamp : y.stamp = m.stamp) (horphan : y.orphan = false) (hquar : y.quar = true) : s.takeResponse i m cycles =
      (((s.freeTag i m.f.tag).bump (NOC.LATE_CNT i)).retryAll i, false) := by
  simp [State.takeResponse, h, hstamp, horphan, hquar]

theorem State.takeResponse_delivered {s : State} {i cycles : Nat} {m : Moving} {y : TagSt} (h : s.tag i m.f.tag = some y)
    (hstamp : y.stamp = m.stamp) (horphan : y.orphan = false) (hquar : y.quar = false) : s.takeResponse i m cycles =
      let st := statusOf m.f.status
      let u := (s.freeTag i m.f.tag).deliver i m.f.tag st m.f.payload m.f.poison
      let u := (u.bump (NOC.RT_CNT i)).latency i cycles
      let u := if y.rd ∧ (st = .okay ∨ st = .poisoned) then u.bump (NOC.RD_BYTES i) (m.f.len + 1) else u
      (u.retryAll i, true) := by
  simp [State.takeResponse, h, hstamp, horphan, hquar]

/-- Settles O14, branch by branch of the three meanings. -/
theorem accessesRun : Obligations.AccessesRun := by
  unfold Obligations.AccessesRun
  intro s
  dsimp only
  refine ⟨fun a vc x m hm => ⟨fun hbad => ?_, fun hop hbelongs hport => ⟨fun hoff => ?_, fun hv hon => ?_⟩,
      fun hop hbelongs hport => ⟨fun hdram => ⟨fun hfull => ?_, fun hawake hroom => ?_⟩, fun hregs => ?_,
        fun hdram hregs => ?_⟩⟩,
    fun i cycles x m t hm => ⟨fun h8 h9 => ?_, fun hop hnone => ?_, fun y hop hy => ⟨fun hstamp => ?_,
      fun hstamp horphan => ?_,
      fun hstamp horphan hquar => ?_, fun hstamp horphan hquar => ?_⟩⟩, fun i t x y hy hquar horphan => ?_⟩
  · simp [exec_targetRequestArrival, execTargetRequestArrival, hm, hbad]
  · have hplace : 64 ≤ a.val ∧ a.val < 960 ∧ a.val % 4 ≠ 3 := by simpa [and_assoc] using hport
    simp [exec_targetRequestArrival, execTargetRequestArrival, hm, hplace, hoff, hbelongs, Nat.not_lt.2 hop]
  · have hplace : 64 ≤ a.val ∧ a.val < 960 ∧ a.val % 4 ≠ 3 := by simpa [and_assoc] using hport
    simp [exec_targetRequestArrival, execTargetRequestArrival, hm, hplace, Nat.not_le.2 hv, hon, hbelongs, Nat.not_lt.2 hop]
  · have hplace : ¬ (64 ≤ a.val ∧ a.val < 960 ∧ a.val % 4 ≠ 3) := by simpa [and_assoc] using hport
    rcases hfull with hentry | hfull
    · simp [exec_targetRequestArrival, execTargetRequestArrival, hm, hplace, hdram, hentry, hbelongs, Nat.not_lt.2 hop]
    · simp [exec_targetRequestArrival, execTargetRequestArrival, hm, hplace, hdram, hfull, hbelongs, Nat.not_lt.2 hop,
        ite_self]
  · have hplace : ¬ (64 ≤ a.val ∧ a.val < 960 ∧ a.val % 4 ≠ 3) := by simpa [and_assoc] using hport
    simp [exec_targetRequestArrival, execTargetRequestArrival, hm, hplace, hdram, hawake, Nat.not_le.2 hroom, hbelongs,
      Nat.not_lt.2 hop]
  · have hplace : ¬ (64 ≤ a.val ∧ a.val < 960 ∧ a.val % 4 ≠ 3) := by simpa [and_assoc] using hport
    simp [exec_targetRequestArrival, execTargetRequestArrival, hm, hplace, hregs, hbelongs, Nat.not_lt.2 hop]
  · have hplace : ¬ (64 ≤ a.val ∧ a.val < 960 ∧ a.val % 4 ≠ 3) := by simpa [and_assoc] using hport
    simp [exec_targetRequestArrival, execTargetRequestArrival, hm, hplace, hbelongs, Nat.not_lt.2 hop]
  · simp [exec_responseArrival, execResponseArrival, hm, h8, h9]
  · rw [exec_responseArrival, execResponseArrival_popped hm (by omega),
      State.takeResponse_none (s := s.popResp i.val t) hnone]
    rfl
  · rw [exec_responseArrival, execResponseArrival_popped hm (by omega),
      State.takeResponse_late (s := s.popResp i.val t) hy hstamp]
    rfl
  · rw [exec_responseArrival, execResponseArrival_popped hm (by omega),
      State.takeResponse_orphan (s := s.popResp i.val t) hy hstamp horphan]
    rfl
  · rw [exec_responseArrival, execResponseArrival_popped hm (by omega),
      State.takeResponse_quarantined (s := s.popResp i.val t) hy hstamp horphan hquar]
    rfl
  · rw [exec_responseArrival, execResponseArrival_popped hm (by omega),
      State.takeResponse_delivered (s := s.popResp i.val t) hy hstamp horphan hquar]
    rfl
  · simp [exec_initiatorTimeout, execInitiatorTimeout, hy, hquar, horphan]

end Sys2Proof.Machine
end

section
/-! PROOFS. The scratchpad and the DMA engine (R463 to R470). -/

namespace Sys2Proof.Machine

theorem exec_scratchpadAccess (b : Fin 32) (us : List (BitVec 72)) (s : State) :
    exec (.scratchpadAccess b us) s = execScratchpadAccess b us s := rfl

theorem exec_dmaDescriptorDone (c : Fin 16) (s : State) :
    exec (.dmaDescriptorDone c) s = execDmaDescriptorDone c s := rfl

/-! The word of a row that writes one bit as 1. -/

theorem getLsbD_or_ne (w m : Word) (i : Nat) (h : m.getLsbD i = false) : (w ||| m).getLsbD i = w.getLsbD i := by
  rw [BitVec.getLsbD_or, h, Bool.or_false]

theorem getLsbD_or_self (w m : Word) (i : Nat) (h : m.getLsbD i = true) : (w ||| m).getLsbD i = true := by
  rw [BitVec.getLsbD_or, h, Bool.or_true]

theorem getLsbD_and_ne (w m : Word) (i : Nat) (h : m.getLsbD i = true) : (w &&& m).getLsbD i = w.getLsbD i := by
  rw [BitVec.getLsbD_and, h, Bool.and_true]

theorem getLsbD_and_self (w m : Word) (i : Nat) (h : m.getLsbD i = false) : (w &&& m).getLsbD i = false := by
  rw [BitVec.getLsbD_and, h, Bool.and_false]

/-! DMA.CH_CTL (R467). -/

/-- R467: a write of CH_CTL is taken with the channel's own vat, or with another by an administrator of an idle channel. -/
def State.dmaMayVat (s : State) (own : Bool) (c v : Nat) : Prop :=
  v = s.rd (DMA.CH_CTL.VAT c) ∨ (own = true ∧ s.rd (DMA.CH_STAT.STATE c) = 0)

theorem State.dmaCtlWrite_refused {s : State} {own : Bool} {c v : Nat} {w : Word} (hw : wget w 3 0 = v)
    (h : ¬ s.dmaMayVat own c v ∨ w.getLsbD 31 = true ∧ s.rd (DMA.CH_STAT.STATE c) = 1) :
    s.dmaCtlWrite own c w = (s, false) := by
  subst hw
  rw [State.dmaCtlWrite]
  by_cases hvat : s.dmaMayVat own c (wget w 3 0)
  · dsimp only
    split
    · rfl
    · rw [if_pos (h.resolve_left (not_not_intro hvat))]
  · rw [State.dmaMayVat, not_or, not_and_or, Bool.not_eq_true] at hvat
    exact if_pos hvat

/-- The channel after a descriptor's address has been taken by GO. -/
def State.dmaStarted (s : State) (c : Nat) : State :=
  ((s.setDmaCh c { desc := s.rd64 (DMA.CH_DESC_LO.ADDR c).off (DMA.CH_DESC_HI.ADDR c).off / 32 * 32 }).wr
    (DMA.CH_STAT.STATE c) 1).wr (DMA.CH_STAT.ERR c) 0

theorem State.dmaCtlWrite_taken {s : State} {own go stop : Bool} {c v : Nat} {w : Word} (hw : wget w 3 0 = v)
    (hgo : w.getLsbD 31 = go) (hstop : w.getLsbD 30 = stop) (hvat : s.dmaMayVat own c v)
    (hidle : go = true → s.rd (DMA.CH_STAT.STATE c) ≠ 1) :
    s.dmaCtlWrite own c w =
      let u := s.wr (DMA.CH_CTL.VAT c) v
      let u := if go then u.dmaStarted c else u
      (if stop then u.dmaAbort c else u, true) := by
  subst hw hgo hstop
  have hown : ¬ (wget w 3 0 ≠ s.rd (DMA.CH_CTL.VAT c) ∧ (own = false ∨ s.rd (DMA.CH_STAT.STATE c) ≠ 0)) := by
    rw [not_and_or, not_or, not_not, Bool.not_eq_false, not_not]
    exact hvat
  have hrun : ¬ (w.getLsbD 31 = true ∧ s.rd (DMA.CH_STAT.STATE c) = 1) := fun h => hidle h.1 h.2
  rw [State.dmaCtlWrite, if_neg hown, if_neg hrun]
  rfl

/-! A descriptor (R468, R470). -/

/-- The state in which DMA_DESCRIPTOR_DONE finds its channel: that of a clamped vat has been stopped. -/
def State.dmaClamped (s : State) (c : Nat) : State :=
  let v := s.rd (DMA.CH_CTL.VAT c)
  if s.rd (DMA.CH_STAT.STATE c) = 1 ∧ v ≠ 0 ∧ s.clamped v = true then s.dmaAbort c else s

/-- DMA_DESCRIPTOR_DONE in the state u so reached, for a channel whose own requests are q and which stood at x. -/
def State.dmaFollow (u : State) (c : Nat) (q : Req) (x : DmaCh) : Host.Outcome State Fault Refusal :=
  let run := u.rd (DMA.CH_STAT.STATE c) == 1
  if (!run && !(u.dmaCh c).owed) || u.initHeld ID.dma then .next u
  else
    let r := u.memRead q x.desc 32 0
    if r.2.1 ≠ .okay then
      let u := r.1.setDmaCh c { x with owed := false }
      .next (if run then u.dmaStopped c 4 else u)
    else match dmaDesc r.2.2 with
      | none =>
        let u := r.1.setDmaCh c { x with owed := false }
        .next (if run then u.dmaStopped c 2 else u)
      | some d =>
        if !run then .next ((r.1.dmaBack q x.desc d.w5 5).1.setDmaCh c { x with owed := false })
        else
          let m := r.1.dmaMove c q d
          if m.2.1 = false then .next ((m.1.dmaBack q x.desc d.w5 2).1.dmaStopped c 4)
          else
            let b := m.1.dmaBack q x.desc d.w5 m.2.2.toNat
            if b.2 ≠ .okay then .next (b.1.dmaStopped c 4)
            else
              let u := if d.w5.testBit 31 then (b.1.wrb (DMA.CH_STAT.IRQ c) true).dmaIrq c else b.1
              .next (if d.w5.testBit 30 then u.wr (DMA.CH_STAT.STATE c) 0
                else u.setDmaCh c { desc := d.next / 32 * 32 })

theorem exec_dmaDescriptorDone_eq (c : Fin 16) (s : State) : exec (.dmaDescriptorDone c) s =
    (s.dmaClamped c.val).dmaFollow c.val ⟨ID.dma, s.rd (DMA.CH_CTL.VAT c.val), false, false⟩ (s.dmaCh c.val) := rfl

section
variable {u : State} {c : Nat} {q : Req} {x : DmaCh}

theorem State.dmaFollow_held (hheld : u.initHeld ID.dma = true) : u.dmaFollow c q x = .next u := by
  simp [State.dmaFollow, hheld]

variable (hfree : u.initHeld ID.dma = false)
include hfree

theorem State.dmaFollow_unread (hrun : u.rd (DMA.CH_STAT.STATE c) = 1) (hread : (u.memRead q x.desc 32 0).2.1 ≠ .okay) :
    u.dmaFollow c q x = .next (((u.memRead q x.desc 32 0).1.setDmaCh c { x with owed := false }).dmaStopped c 4) := by
  simp [State.dmaFollow, hfree, hrun, hread]

theorem State.dmaFollow_malformed (hrun : u.rd (DMA.CH_STAT.STATE c) = 1) (hread : (u.memRead q x.desc 32 0).2.1 = .okay)
    (hdesc : dmaDesc (u.memRead q x.desc 32 0).2.2 = none) :
    u.dmaFollow c q x = .next (((u.memRead q x.desc 32 0).1.setDmaCh c { x with owed := false }).dmaStopped c 2) := by
  simp [State.dmaFollow, hfree, hrun, hread, hdesc]

section
variable {d : DmaDesc} {m : State × Bool × Bool} {b : State × Status}
  (hrun : u.rd (DMA.CH_STAT.STATE c) = 1) (hread : (u.memRead q x.desc 32 0).2.1 = .okay)
  (hdesc : dmaDesc (u.memRead q x.desc 32 0).2.2 = some d) (hm : (u.memRead q x.desc 32 0).1.dmaMove c q d = m)
include hrun hread hdesc hm

theorem State.dmaFollow_unmoved (hmove : m.2.1 = false) :
    u.dmaFollow c q x = .next ((m.1.dmaBack q x.desc d.w5 2).1.dmaStopped c 4) := by
  simp [State.dmaFollow, hfree, hrun, hread, hdesc, hm, hmove]

variable (hb : m.1.dmaBack q x.desc d.w5 m.2.2.toNat = b) (hmove : m.2.1 = true)
include hb hmove

theorem State.dmaFollow_lost (hback : b.2 ≠ .okay) : u.dmaFollow c q x = .next (b.1.dmaStopped c 4) := by
  simp [State.dmaFollow, hfree, hrun, hread, hdesc, hm, hmove, hb, hback]

theorem State.dmaFollow_done (hback : b.2 = .okay) :
    u.dmaFollow c q x =
      let u := if d.w5.testBit 31 then (b.1.wrb (DMA.CH_STAT.IRQ c) true).dmaIrq c else b.1
      .next (if d.w5.testBit 30 then u.wr (DMA.CH_STAT.STATE c) 0 else u.setDmaCh c { desc := d.next / 32 * 32 }) := by
  simp [State.dmaFollow, hfree, hrun, hread, hdesc, hm, hmove, hb, hback]

end

theorem State.dmaFollow_owed {d : DmaDesc} (hrun : u.rd (DMA.CH_STAT.STATE c) ≠ 1) (howed : (u.dmaCh c).owed = true)
    (hread : (u.memRead q x.desc 32 0).2.1 = .okay) (hdesc : dmaDesc (u.memRead q x.desc 32 0).2.2 = some d) :
    u.dmaFollow c q x =
      .next (((u.memRead q x.desc 32 0).1.dmaBack q x.desc d.w5 5).1.setDmaCh c { x with owed := false }) := by
  simp [State.dmaFollow, hfree, hrun, howed, hread, hdesc]

theorem State.dmaFollow_unreadable (hrun : u.rd (DMA.CH_STAT.STATE c) ≠ 1) (howed : (u.dmaCh c).owed = true)
    (hnone : (u.memRead q x.desc 32 0).2.1 ≠ .okay ∨ dmaDesc (u.memRead q x.desc 32 0).2.2 = none) :
    u.dmaFollow c q x = .next ((u.memRead q x.desc 32 0).1.setDmaCh c { x with owed := false }) := by
  by_cases hread : (u.memRead q x.desc 32 0).2.1 = .okay
  · simp [State.dmaFollow, hfree, hrun, howed, hread, hnone.resolve_left (not_not_intro hread)]
  · simp [State.dmaFollow, hfree, hrun, howed, hread]

end

/-- Settles O15, branch by branch. -/
theorem scratchAndDmaRun : Obligations.ScratchAndDmaRun := by
  unfold Obligations.ScratchAndDmaRun
  intro s
  refine ⟨fun b us => ⟨fun hnone => ?_, fun m htest hpick => ?_⟩,
    fun q k w hcan => ⟨fun hunlocked hlo hhi => ?_, fun hbad => ?_⟩,
    fun q c w hcan => ⟨fun hvat hidle => ?_, fun hvat hgo => ?_, fun hvat hgo hidle => ?_, fun hvat => ⟨?_, ?_⟩,
      fun hrun => ⟨?_, fun hgo => ?_⟩⟩,
    fun c => ?_⟩
  · rcases hnone with htest | hpick
    · simp only [exec_scratchpadAccess, execScratchpadAccess, htest, if_true]
    · simp [exec_scratchpadAccess, execScratchpadAccess, hpick, ite_self]
  · simp only [exec_scratchpadAccess, execScratchpadAccess, hpick, htest, if_false, Bool.false_eq_true]
  · have hlen : wget (w ||| 0x80000000#32) 11 0 = wget w 11 0 := wget_or_ne _ _ _ _ (by decide)
    have hset : wget (w ||| 0x80000000#32) 31 31 = 1 := wget_or_self _ _ _ (by decide)
    rw [exec_scratchpadLock k w hcan, State.scrLockWrite, hlen, hset, hunlocked, if_neg (by simp; omega)]
    rfl
  · have hlen : wget (w ||| 0x80000000#32) 11 0 = wget w 11 0 := wget_or_ne _ _ _ _ (by decide)
    have hset : wget (w ||| 0x80000000#32) 31 31 = 1 := wget_or_self _ _ _ (by decide)
    rw [exec_scratchpadLock k w hcan, State.scrLockWrite, hlen, hset, if_pos (by rcases hbad with h | h | h <;> simp [h])]
    rfl
  · rw [exec_dmaGo c w hcan, State.dmaCtlWrite_taken (wget_or_ne _ _ _ _ (by decide)) (getLsbD_or_self _ _ _ (by decide))
      (getLsbD_or_ne _ _ _ (by decide)) hvat fun _ => hidle]
    rfl
  · rw [exec_dmaStop c w hcan,
      State.dmaCtlWrite_taken (wget_or_ne _ _ _ _ (by decide)) ((getLsbD_or_ne _ _ _ (by decide)).trans hgo)
      (getLsbD_or_self _ _ _ (by decide)) hvat (by simp)]
    rfl
  · rw [exec_dmaStop c w hcan,
      State.dmaCtlWrite_taken (wget_or_ne _ _ _ _ (by decide)) ((getLsbD_or_ne _ _ _ (by decide)).trans hgo)
      (getLsbD_or_self _ _ _ (by decide)) hvat fun _ => hidle]
    rfl
  · rw [exec_dmaGo c w hcan, State.dmaCtlWrite_refused (wget_or_ne _ _ _ _ (by decide)) (.inl hvat)]
    rfl
  · rw [exec_dmaStop c w hcan, State.dmaCtlWrite_refused (wget_or_ne _ _ _ _ (by decide)) (.inl hvat)]
    rfl
  · rw [exec_dmaGo c w hcan,
      State.dmaCtlWrite_refused (wget_or_ne _ _ _ _ (by decide)) (.inr ⟨getLsbD_or_self _ _ _ (by decide), hrun⟩)]
    rfl
  · rw [exec_dmaStop c w hcan, State.dmaCtlWrite_refused (wget_or_ne _ _ _ _ (by decide))
      (.inr ⟨(getLsbD_or_ne _ _ _ (by decide)).trans hgo, hrun⟩)]
    rfl
  · dsimp only
    rw [exec_dmaDescriptorDone_eq]
    refine ⟨fun hheld => ?_, fun hfree hrun => ⟨fun hread => ?_, fun hread hdesc => ?_,
      fun d hread hdesc => ⟨fun hmove => ?_, fun hmove hback => ?_, fun hmove hback => ?_⟩⟩,
      fun hfree hrun howed => ⟨fun d hread hdesc => ?_, fun hnone => ?_⟩⟩
    · exact State.dmaFollow_held hheld
    · exact State.dmaFollow_unread hfree hrun hread
    · exact State.dmaFollow_malformed hfree hrun hread hdesc
    · exact State.dmaFollow_unmoved hfree hrun hread hdesc rfl hmove
    · exact State.dmaFollow_lost hfree hrun hread hdesc rfl rfl hmove hback
    · exact State.dmaFollow_done hfree hrun hread hdesc rfl rfl hmove hback
    · exact State.dmaFollow_owed hfree hrun howed hread hdesc
    · exact State.dmaFollow_unreadable hfree hrun howed hnone

end Sys2Proof.Machine
end

section
/-! PROOFS. Events of the timing island (R416 to R441). -/

namespace Sys2Proof.Machine

theorem exec_trefQualified (ref : Bool) (s : State) :
    exec (.trefQualified ref) s = execTrefQualified ref s := rfl

theorem exec_trefLoss (ref : Bool) (s : State) :
    exec (.trefLoss ref) s = execTrefLoss ref s := rfl

theorem exec_tclkLock (s : State) :
    exec .tclkLock s = execTclkLock s := rfl

theorem exec_tclkRelock (s : State) :
    exec .tclkRelock s = execTclkRelock s := rfl

theorem exec_baseWatchdogExpiry (b : Fin 8) (s : State) :
    exec (.baseWatchdogExpiry b) s = execBaseWatchdogExpiry b s := rfl

theorem exec_cmpFire (i : Fin 15) (s : State) :
    exec (.cmpFire i) s = execCmpFire i s := rfl

theorem exec_pulseAssert (k : Fin 16) (s : State) :
    exec (.pulseAssert k) s = execPulseAssert k s := rfl

theorem exec_pulseRelease (k : Fin 16) (s : State) :
    exec (.pulseRelease k) s = execPulseRelease k s := rfl

theorem exec_captureEdge (j : Fin 9) (rise : Bool) (phase : Fin 64) (near : Bool) (s : State) :
    exec (.captureEdge j rise phase near) s = execCaptureEdge j rise phase near s := rfl

/-- Settles O16, clause by clause. -/
theorem timingEventsRun : Obligations.TimingEventsRun := by
  unfold Obligations.TimingEventsRun
  intro s
  dsimp only
  refine ⟨fun ref => ⟨fun htimeOn => ?_, fun htimeOn => ?_⟩, fun ref => ⟨fun htclkFlag => ?_, fun htclkFlag hsrc
    hhold => ?_, fun htclkFlag hsrc => ?_⟩, fun hlock hhold htclkReady htimeOn => ?_, fun hhold htclkReady => ?_, fun
    b => ⟨fun hwdog => ?_, fun hwdog hstarted hhold => ?_⟩, fun i => ⟨fun hnARM => ?_, fun harm hclamped => ?_, fun
    harm hclamped => ?_⟩, fun k => ⟨fun hnEN => ?_, fun hen => ?_, fun hon => ?_, fun hon => ?_⟩, fun j rise phase
    near => ⟨fun hen => ?_, fun hen h hedge => ⟨fun hcap => ?_, fun hcap => ?_⟩⟩⟩
  · simp [exec_trefQualified, execTrefQualified, htimeOn]
  · simp [exec_trefQualified, execTrefQualified, htimeOn]
  · simp [exec_trefLoss, execTrefLoss, htclkFlag]
  · simp [exec_trefLoss, execTrefLoss, htclkFlag, hsrc, hhold]
  · rcases hsrc with hsrc | hsrc
    all_goals simp [exec_trefLoss, execTrefLoss, htclkFlag, hsrc]
  · simp [exec_tclkLock, execTclkLock, hlock, hhold, htclkReady, htimeOn]
    rfl
  · simp [exec_tclkRelock, execTclkRelock, hhold, htclkReady]
  · rcases hwdog with hwdog | hwdog | hwdog
    all_goals simp [exec_baseWatchdogExpiry, execBaseWatchdogExpiry, State.holdover, hwdog]
  · simp [exec_baseWatchdogExpiry, execBaseWatchdogExpiry, State.holdover, hwdog, hstarted, hhold]
  · simp [exec_cmpFire, execCmpFire, hnARM]
  · simp [exec_cmpFire, execCmpFire, State.cmpFire, harm, hclamped]
  · simp [exec_cmpFire, execCmpFire, State.cmpFire, harm, hclamped]
  · simp [exec_pulseAssert, execPulseAssert, hnEN]
  · simp [exec_pulseAssert, execPulseAssert, hen]
  · simp [exec_pulseRelease, execPulseRelease, hon]
  · simp [exec_pulseRelease, execPulseRelease, hon]
  · simp [exec_captureEdge, execCaptureEdge, hen]
  · simp [exec_captureEdge, execCaptureEdge, hen, h, hedge, hcap]
  · simp [exec_captureEdge, execCaptureEdge, hen, h, hedge, hcap]

end Sys2Proof.Machine
end

section
/-! PROOFS. Writes of the timing island's registers (R418 to R440). -/

namespace Sys2Proof.Machine

theorem exec_tbSet (q : Req) (b : Fin 8) (w : Word) (s : State) :
    exec (.tbSet q b w) s = execTbSet q b w s := rfl

theorem exec_tbStep (q : Req) (b : Fin 8) (w : Word) (s : State) :
    exec (.tbStep q b w) s = execTbStep q b w s := rfl

theorem exec_tbSnap (q : Req) (b : Fin 8) (w : Word) (s : State) :
    exec (.tbSnap q b w) s = execTbSnap q b w s := rfl

/-- R420 to R422: a row that writes a command of a base leaves what the register's rule leaves, and where the rule takes the
command the tick that carries it out. -/
theorem State.tbRow_eq {s : State} {q : Req} {b : Nat} {w : Word} {r : State × Bool} (hb : b < 8)
    (h : s.canWrite q (0x5001000 + 0x100 * b)) (hr : s.tbCtlWrite b w = r) :
    s.tbRow q b w = if r.2 then (State.answered r).tbCommand b else State.answered r := by
  rw [State.tbRow, State.busPut_ungated h ((State.writeReg_tbCtl s q w hb).trans hr) (by omega)]
  obtain ⟨t, done⟩ := r
  cases done
  all_goals simp [State.tell, h.up]

section
variable {s : State} {b : Nat} {w : Word}

/-- R420: the control's fields of a base and its command. -/
def State.tbWait (s : State) (b c : Nat) (w : Word) : State :=
  (((s.wr (TIME.TB_CTL.SERVO_LOCK b) (wget w 31 31)).wr (TIME.TB_CTL.WDOG b) (wget w 25 16)).setTb b
    { s.tb b with cmd := c }).tbSync b

theorem State.tbWait_wset (s : State) (b c v : Nat) (w : Word) : s.tbWait b c (wset w 1 0 v) = s.tbWait b c w := by
  rw [State.tbWait, State.tbWait, wget_wset_disj _ _ (by decide) (by decide), wget_wset_disj _ _ (by decide) (by decide)]

theorem State.tbCtlWrite_busy {c : Nat} (hc : wget w 1 0 = c) (hpos : c ≠ 0) (hbusy : (s.tb b).cmd ≠ 0 ∨ 1000 < wget w 25 16) :
    s.tbCtlWrite b w = (s, false) := by
  rcases hbusy with hbusy | hbusy
  all_goals simp [State.tbCtlWrite, hc, hpos, hbusy]

theorem State.tbCtlWrite_set_unfit (hc : wget w 1 0 = 1) (h : s.time.ever = false ∨ 999999999 < s.rd (TIME.ARG_NS.NS b)) :
    s.tbCtlWrite b w = (s, false) := by
  rcases h with h | h
  all_goals simp [State.tbCtlWrite, hc, h]

theorem State.tbCtlWrite_step_unfit (hc : wget w 1 0 = 2) (h : (s.tb b).started = false) :
    s.tbCtlWrite b w = (s, false) := by
  simp [State.tbCtlWrite, hc, h]

theorem State.tbCtlWrite_taken {c : Nat} (hc : wget w 1 0 = c) (hpos : c ≠ 0) (hfree : (s.tb b).cmd = 0)
    (hwdog : wget w 25 16 ≤ 1000) (hset : c = 1 → s.time.ever = true ∧ s.rd (TIME.ARG_NS.NS b) ≤ 999999999)
    (hstep : c = 2 → (s.tb b).started = true) : s.tbCtlWrite b w = (s.tbWait b c w, true) := by
  have hbad : ((c == 1 && (!s.time.ever || decide (999999999 < s.rd (TIME.ARG_NS.NS b)))) ||
      (c == 2 && !(s.tb b).started)) = false := by
    grind
  simp only [State.tbCtlWrite, hc, hbad, hfree, hpos]
  simp [State.tbWait, hwdog]

end

/-- Settles O17, clause by clause. -/
theorem timingWritesRun : Obligations.TimingWritesRun := by
  unfold Obligations.TimingWritesRun
  intro s q w
  dsimp only
  have hcode : ∀ c, wget (wset w 1 0 c) 1 0 = c % 4 := fun c => wget_wset_same _ c (by decide) (by decide)
  have hset := hcode 1
  have hstep := hcode 2
  have hsnap := hcode 3
  have hwdog : ∀ c, wget (wset w 1 0 c) 25 16 = wget w 25 16 := fun c => wget_wset_disj _ c (by decide) (by decide)
  refine ⟨fun hcanWrite => ⟨fun hwget => ?_, fun hnwget hnwget₂ => ?_⟩, fun b hcanWrite => ⟨fun hrateWordOk => ?_,
    fun hrateWordOk => ?_⟩, fun b hcanWrite => ⟨fun hcmd => ⟨?_, ?_, ?_⟩, fun hever => ?_, fun hstarted => ?_,
    fun hcmd hwget => ⟨fun hever hns => ?_, fun hstarted => ?_, ?_⟩⟩, fun i hcanWrite => ⟨fun hstarted => ?_,
    fun hntimeAdmin => ?_, fun hstarted htimeAdmin => ?_, fun htimeAdmin => ?_⟩,
    fun k hcanWrite => ?_⟩
  · rw [exec_tclkSourceSelect _ hcanWrite]
    rcases hwget with hwget | hwget
    all_goals simp [State.tclkWrite, hwget]
  · rw [exec_tclkSourceSelect _ hcanWrite]
    simp [State.tclkWrite, hnwget, hnwget₂]
  · rw [exec_rateUpdate _ _ hcanWrite]
    simp only [State.rateWrite, hrateWordOk, if_true, Bool.not_false, State.answered_false]
  · rw [exec_rateUpdate _ _ hcanWrite]
    simp only [State.rateWrite, hrateWordOk, if_false, Bool.false_eq_true, Bool.not_true, State.answered_true]
  · rw [exec_tbSet, execTbSet, State.tbRow_eq b.isLt hcanWrite (State.tbCtlWrite_busy hset (by decide) (by rwa [hwdog]))]
    rfl
  · rw [exec_tbStep, execTbStep, State.tbRow_eq b.isLt hcanWrite (State.tbCtlWrite_busy hstep (by decide) (by rwa [hwdog]))]
    rfl
  · rw [exec_tbSnap, execTbSnap, State.tbRow_eq b.isLt hcanWrite (State.tbCtlWrite_busy hsnap (by decide) (by rwa [hwdog]))]
    rfl
  · rw [exec_tbSet, execTbSet, State.tbRow_eq b.isLt hcanWrite (State.tbCtlWrite_set_unfit hset hever)]
    rfl
  · rw [exec_tbStep, execTbStep, State.tbRow_eq b.isLt hcanWrite (State.tbCtlWrite_step_unfit hstep hstarted)]
    rfl
  · rw [exec_tbSet, execTbSet, State.tbRow_eq b.isLt hcanWrite
      (State.tbCtlWrite_taken hset (by decide) hcmd ((hwdog _).trans_le hwget) (fun _ => ⟨hever, hns⟩) (by simp)),
        State.tbWait_wset]
    rfl
  · rw [exec_tbStep, execTbStep, State.tbRow_eq b.isLt hcanWrite
      (State.tbCtlWrite_taken hstep (by decide) hcmd ((hwdog _).trans_le hwget) (by simp) fun _ => hstarted),
        State.tbWait_wset]
    rfl
  · rw [exec_tbSnap, execTbSnap, State.tbRow_eq b.isLt hcanWrite
      (State.tbCtlWrite_taken hsnap (by decide) hcmd ((hwdog _).trans_le hwget) (by simp) (by simp)), State.tbWait_wset]
    rfl
  · rw [exec_cmpArm _ _ hcanWrite]
    rcases hstarted with hstopped | hforeign
    · simp (disch := decide) [State.cmpCtlWrite, wget_or_ne, wget_or_self, hstopped]
    · rw [not_or, Bool.not_eq_true] at hforeign
      simp (disch := decide) [State.cmpCtlWrite, wget_or_ne, wget_or_self, hforeign]
  · rw [exec_cmpDisarm _ _ hcanWrite]
    rw [not_or, Bool.not_eq_true] at hntimeAdmin
    simp (disch := decide) [State.cmpCtlWrite, wget_and_ne, wget_and_self, hntimeAdmin]
  · rw [exec_cmpArm _ _ hcanWrite]
    rcases htimeAdmin with htimeAdmin | htimeAdmin
    all_goals simp (disch := decide) [State.cmpCtlWrite, wget_or_ne, wget_or_self, hstarted, htimeAdmin] <;> rfl
  · rw [exec_cmpDisarm _ _ hcanWrite]
    rcases htimeAdmin with htimeAdmin | htimeAdmin
    all_goals simp (disch := decide) [State.cmpCtlWrite, wget_and_ne, wget_and_self, htimeAdmin] <;> rfl
  · have hoff : (TIME.TP_CTL.EN k.val).off = 0x5002000 + 0x40 * k.val := rfl
    have hset : wget ((w ||| 0x80000000#32) &&& (wmask 31 24 ||| wmask 18 16)) 31 31 = 1 := by
      rw [wget_and_ne _ _ _ _ (by decide), wget_or_self _ _ _ (by decide)]
    rw [exec_pulseEnable _ _ hcanWrite, State.tpCtlWrite, hoff]
    generalize (w ||| 0x80000000#32) &&& (wmask 31 24 ||| wmask 18 16) = v at hset ⊢
    refine ⟨fun hen hmine hfit => ?_, fun hen hbad => ?_, fun hen hother => ?_, fun hen hsame hmine => ?_⟩
    · rcases hmine with hmine | hmine
      all_goals (simp only [hen, hmine, hfit, hset, if_false, Bool.false_eq_true, Bool.true_eq_false, false_and, and_false,
        not_true, ne_eq, State.answered_true]; rfl)
    · rcases hbad with hforeign | hunfit
      · rw [not_or, Bool.not_eq_true] at hforeign
        simp [hen, hforeign]
      · rcases hunfit with hunfit | hunfit | hunfit
        all_goals simp [hen, hunfit, hset]
    · simp [hen, hother]
    · rcases hmine with hmine | hmine
      all_goals simp [hen, hmine, hsame, hset]

end Sys2Proof.Machine
end

section
/-! PROOFS. Events of the clock root and of the clock lines (R78 to R101). -/

namespace Sys2Proof.Machine

theorem exec_refQualified (refb : Bool) (s : State) :
    exec (.refQualified refb) s = execRefQualified refb s := rfl

theorem exec_refLoss (refb : Bool) (s : State) :
    exec (.refLoss refb) s = execRefLoss refb s := rfl

theorem exec_coastSlewDone (s : State) :
    exec .coastSlewDone s = execCoastSlewDone s := rfl

theorem exec_rootCoastTimer (s : State) :
    exec .rootCoastTimer s = execRootCoastTimer s := rfl

theorem exec_refWaitTimeout (s : State) :
    exec .refWaitTimeout s = execRefWaitTimeout s := rfl

theorem exec_rootLoopLock (s : State) :
    exec .rootLoopLock s = execRootLoopLock s := rfl

theorem exec_rootSwitchDone (s : State) :
    exec .rootSwitchDone s = execRootSwitchDone s := rfl

theorem exec_autoRelockTimer (s : State) :
    exec .autoRelockTimer s = execAutoRelockTimer s := rfl

theorem exec_relockComplete (s : State) :
    exec .relockComplete s = execRelockComplete s := rfl

theorem exec_xo32Loss (s : State) :
    exec .xo32Loss s = execXo32Loss s := rfl

theorem exec_xo32Return (s : State) :
    exec .xo32Return s = execXo32Return s := rfl

theorem exec_dividerTakesEffect (s : State) :
    exec .dividerTakesEffect s = execDividerTakesEffect s := rfl

theorem exec_foreignLineSwitchDone (q : Fin 4) (l : Fin 8) (s : State) :
    exec (.foreignLineSwitchDone q l) s = execForeignLineSwitchDone q l s := rfl

theorem exec_foreignSourceLoss (q : Fin 4) (l : Fin 8) (vats : BitVec 16) (s : State) :
    exec (.foreignSourceLoss q l vats) s = execForeignSourceLoss q l vats s := rfl

theorem exec_oscSettled (n : Fin 4) (s : State) :
    exec (.oscSettled n) s = execOscSettled n s := rfl

theorem exec_sectorGateOpen (sec : Fin 224) (s : State) :
    exec (.sectorGateOpen sec) s = execSectorGateOpen sec s := rfl

theorem exec_blockClockIdleClose (g : Fin 11) (s : State) :
    exec (.blockClockIdleClose g) s = execBlockClockIdleClose g s := rfl

theorem State.bit_wr_ne (s : State) {f g : Fld} (v : Nat) (h : g.off ≠ f.off) : (s.wr f v).bit g = s.bit g := by
  rw [State.bit, State.rd_wr_ne s v h, State.bit]

theorem State.rd_wrb_ne (s : State) {f g : Fld} (b : Bool) (h : g.off ≠ f.off) : (s.wrb f b).rd g = s.rd g :=
  State.rd_wr_ne s _ h

theorem State.bit_wrb_disj {s : State} {f g : Fld} (b : Bool) (ok : s.regsOk) (h : f.hi < 32)
    (k : g.hi < f.lo ∨ f.hi < g.lo) : (s.wrb f b).bit g = s.bit g := by
  rw [State.bit, State.wrb, State.rd_wr_disj _ ok h k, State.bit]

/-! The clock root (R78 to R80, R97 to R101). -/

theorem refFlag_off (b : Nat) : (refFlag b).off = CLK.ROOT_STAT.LOCK.off := by
  unfold refFlag
  split
  all_goals rfl

theorem State.romSelect_unwaited {s : State} (h : s.clk.waited = false) : s.romSelect = s := by
  simp [State.romSelect, h]

/-- R78: a reference lost leaves the selection. -/
theorem State.lostRef_src (s : State) (b : Nat) :
    ((s.wrb (refFlag b) false).bump CLK.REFLOSS_CNT).rd CLK.ROOT_CTRL.SRC = s.rd CLK.ROOT_CTRL.SRC := by
  rw [State.bump_rd, State.rd_wrb_ne]
  rw [refFlag_off]
  decide

/-- R78: a reference lost leaves the lock of the loop. -/
theorem State.lostRef_lock {s : State} (ok : s.regsOk) (b : Nat) :
    ((s.wrb (refFlag b) false).bump CLK.REFLOSS_CNT).bit CLK.ROOT_STAT.LOCK = s.bit CLK.ROOT_STAT.LOCK := by
  rw [State.bump_bit, State.bit_wrb_disj _ ok]
  all_goals unfold refFlag; split
  all_goals decide

theorem State.lostRef_clk (s : State) (b : Nat) : ((s.wrb (refFlag b) false).bump CLK.REFLOSS_CNT).clk = s.clk :=
  (State.bump_only (s0 := s.wrb (refFlag b) false) (pl := [.ctrs, .mgt,
    .logs]) _ _ (by decide) (only.refl _ _)) .clk (by decide)

/-- R79: the state in which the wait for the reference has ended. -/
def State.refWaited (s : State) : State :=
  { s.wr CLK.ROOT_CTRL.SRC 1 with clk := { s.clk with waited := true } }

theorem State.refWaited_mode (s : State) : s.refWaited.mode = s.mode :=
  State.rd_wr_ne s 1 (by decide)

theorem State.refWaited_bit (s : State) {f : Fld} (h : f.off ≠ CLK.ROOT_CTRL.SRC.off) : s.refWaited.bit f = s.bit f :=
  State.bit_wr_ne s 1 h

theorem execRefWaitTimeout_waits {s : State} (hmode : s.mode = M.boot) (hlock : s.bit CLK.ROOT_STAT.LOCK = false)
    (hcoast : s.bit CLK.ROOT_STAT.COAST = false) (href : s.bit CLK.ROOT_STAT.REF_OK = false) (hwaited : s.clk.waited = false) :
    exec .refWaitTimeout s = .next (if s.bit CLK.ROOT_STAT.REFB_OK then s.refWaited
      else ({ s.refWaited with clk := { s.refWaited.clk with noref := true } } : State).raiseAt [] EV.rootNoref 0xFF 0 []) := by
  have hcheck : s.refWaited.norefCheck = if s.bit CLK.ROOT_STAT.REFB_OK then s.refWaited
      else ({ s.refWaited with clk := { s.refWaited.clk with noref := true } } : State).raiseAt [] EV.rootNoref 0xFF 0 [] := by
    have hw : s.refWaited.clk.waited = true := rfl
    rw [State.norefCheck, hw, State.refWaited_mode, s.refWaited_bit (by decide), s.refWaited_bit (by decide),
      s.refWaited_bit (by decide), s.refWaited_bit (by decide), hmode, hlock, hcoast, href]
    cases s.bit CLK.ROOT_STAT.REFB_OK
    all_goals rfl
  rw [exec_refWaitTimeout, execRefWaitTimeout, if_neg (by simp [hmode, hlock, hcoast, href, hwaited])]
  exact congrArg _ hcheck

theorem clockRootEventsRun : Sys2Proof.Machine.ClockRootEventsRun := by
  unfold Sys2Proof.Machine.ClockRootEventsRun
  intro s
  dsimp only
  refine ⟨fun b => ⟨fun hpowered => ?_, fun hpowered hheld => ⟨?_, fun hwaited => ?_⟩⟩,
    fun b hregsOk hrefFlag hlock hsrc => ?_, fun b hrefFlag hsrc => ?_, fun hcoast hfell hrelocking => ?_,
    fun hcoast htold => ?_, fun hmode hlock hcoast href_ok hwaited hrefb_ok => ?_,
    fun hmode hlock hcoast href_ok hwaited hrefb_ok => ?_, fun hpowered hlock hcoast hsrcReady => ?_,
    fun hswitching => ?_, fun hcoast hauto_relock hsrcReady hrelocking => ?_, fun hrelocking hsrcReady => ?_, ?_, ?_⟩
  · simp [exec_refQualified, execRefQualified, hpowered]
  · simp [exec_refQualified, execRefQualified, hpowered, hheld]
  · simp [exec_refQualified, execRefQualified, hpowered, hheld, State.romSelect_unwaited, hwaited]
  · rcases hlock with hlock | hlock
    all_goals simp only [exec_refLoss, execRefLoss, hrefFlag, State.lostRef_src, State.lostRef_lock hregsOk,
      State.lostRef_clk, hlock, hsrc, if_true, if_false, Bool.false_eq_true, not_true, Bool.not_true, ne_eq, Bool.or_true,
      Bool.true_or]
  · simp only [exec_refLoss, execRefLoss, hrefFlag, State.lostRef_src, hsrc, if_true, if_false, Bool.false_eq_true,
      not_false_eq_true, Bool.not_true, ne_eq]
  · simp [exec_coastSlewDone, execCoastSlewDone, hcoast, hfell, hrelocking]
  · simp [exec_rootCoastTimer, execRootCoastTimer, hcoast, htold]
  · rw [execRefWaitTimeout_waits hmode hlock hcoast href_ok hwaited, hrefb_ok]
    rfl
  · rw [execRefWaitTimeout_waits hmode hlock hcoast href_ok hwaited, hrefb_ok]
    rfl
  · simp [exec_rootLoopLock, execRootLoopLock, hpowered, hlock, hcoast, hsrcReady]
    rfl
  · simp [exec_rootSwitchDone, execRootSwitchDone, hswitching]
    rfl
  · simp [exec_autoRelockTimer, execAutoRelockTimer, hcoast, hauto_relock, hsrcReady, hrelocking]
    rfl
  · rw [exec_relockComplete, execRelockComplete, if_pos ⟨hrelocking, hsrcReady⟩]
    dsimp only
    rw [State.rd_wrb_ne _ _ (by decide), State.rd_wrb_ne _ _ (by decide), State.rd_wrb_ne _ _ (by decide)]
    rfl
  · simp [exec_xo32Loss, execXo32Loss]
  · simp [exec_xo32Return, execXo32Return]

theorem clockLinesRun : Sys2Proof.Machine.ClockLinesRun := by
  unfold Sys2Proof.Machine.ClockLinesRun
  intro s
  dsimp only
  refine ⟨?_, fun q l hswitching => ?_, fun q l vats hsrc_act hsrc_act₂ => ?_, fun n hen => ?_,
    fun sec => ⟨fun hgateMap hgating hfailed => ?_, fun hgateMap => ?_⟩, fun g hgroupWork => ?_⟩
  · simp [exec_dividerTakesEffect, execDividerTakesEffect]
  · simp [exec_foreignLineSwitchDone, execForeignLineSwitchDone, hswitching]
  · simp [exec_foreignSourceLoss, execForeignSourceLoss, hsrc_act, hsrc_act₂]
  · simp [exec_oscSettled, execOscSettled, hen]
  · rw [exec_sectorGateOpen, execSectorGateOpen, if_neg (by grind)]
    rfl
  · rw [exec_sectorGateOpen, execSectorGateOpen, if_pos (by grind)]
  · simp [exec_blockClockIdleClose, execBlockClockIdleClose, hgroupWork]

/-- Settles O19. -/
theorem clockEventsRun : Obligations.ClockEventsRun := ⟨clockRootEventsRun, clockLinesRun⟩

end Sys2Proof.Machine
end

section
/-! PROOFS. Writes of the clock's registers (R80 to R99). -/

namespace Sys2Proof.Machine



/-- R93: whether a line's source is ready is free only of the pins, codes 1 to 6. -/
theorem State.fclReady_fixed (s : State) (k : Nat) {c : Nat} (h : ¬ (1 ≤ c ∧ c ≤ 6)) (a b : Bool) :
    s.fclReady k c a = s.fclReady k c b := by
  by_cases hzero : c = 0
  · simp [State.fclReady, hzero]
  · have hpin : ¬ c ≤ 6 := by omega
    simp [State.fclReady, hpin]

/-- Settles O20, clause by clause. -/
theorem clockWritesRun : Obligations.ClockWritesRun := by
  unfold Obligations.ClockWritesRun
  intro s q w
  dsimp only
  refine ⟨fun hcanWrite hwget hwget₂ hrefFlag hlock => ?_, fun hcanWrite hwget hrefFlag => ?_,
    fun hcanWrite hwget hsrcReady hcoast => ?_, fun d hcanWrite h h₂ hdivAllowed => ?_,
    fun d hcanWrite h hdivAllowed => ?_, fun k l hcanWrite hfclCode hwget hwget₂ hfclReady => ?_,
    fun n hcanWrite hwget hwget₂ hwget₃ => ?_, fun hcanWrite => ⟨?_, ?_⟩, fun d hcanWrite => ?_,
    fun k l hcanWrite => ?_, fun n hcanWrite => ?_⟩
  · rw [exec_rootSourceSwitch _ hcanWrite]
    simp (disch := decide) [State.rootCtrlWrite, hwget, hwget₂, hrefFlag, State.bit_wr_ne, hlock]
  · rw [exec_rootSourceSwitch _ hcanWrite]
    simp [State.rootCtrlWrite, hwget, hrefFlag]
  · rw [exec_relock _ hcanWrite]
    have hready : s.bit (refFlag (s.rd CLK.ROOT_CTRL.SRC)) = true := hsrcReady
    simp (disch := decide) [State.rootCtrlWrite, State.relockStart, wget_or_ne, wget_or_self, State.bit_wr_ne, hwget,
      hready, hcoast]
  · rw [exec_dividerWrite _ _ hcanWrite]
    simp [State.divWrite, h, h₂, hdivAllowed]
  · rw [exec_dividerWrite _ _ hcanWrite]
    simp [State.divWrite, h, hdivAllowed]
  · rw [exec_foreignLineSourceWrite _ _ _ hcanWrite]
    have hfree : ¬ (1 ≤ wget w 7 0 ∧ wget w 7 0 ≤ 6) := by omega
    have hready := (s.fclReady_fixed k.val hfree (Config.freeBit 0) false).trans hfclReady
    simp [State.fclWrite, hfclCode, hwget, hfree, hready]
  · rw [exec_oscConfigWrite _ _ hcanWrite]
    have hfits : ¬ (wget w 7 0 = 0 ∨ 16 < wget w 7 0) := by omega
    simp [State.oscWrite, hfits, hwget₃]
  · rw [exec_rootSourceSwitch _ hcanWrite]
  · rw [exec_relock _ hcanWrite]
  · rw [exec_dividerWrite _ _ hcanWrite]
  · rw [exec_foreignLineSourceWrite _ _ _ hcanWrite]
  · rw [exec_oscConfigWrite _ _ hcanWrite]

end Sys2Proof.Machine
end

section
/-! PROOFS. Resets, power commands and wake (R533 to R543). -/

namespace Sys2Proof.Machine

theorem exec_supplyLeavesTolerance (k : Fin 7) (s : State) :
    exec (.supplyLeavesTolerance k) s = execSupplyLeavesTolerance k s := rfl

theorem exec_powerEntryProceed (s : State) :
    exec .powerEntryProceed s = execPowerEntryProceed s := rfl

theorem exec_powerOnResetRelease (s : State) :
    exec .powerOnResetRelease s = execPowerOnResetRelease s := rfl

theorem exec_resetNEdge (ns : Nat) (s : State) :
    exec (.resetNEdge ns) s = execResetNEdge ns s := rfl

theorem exec_resetRelease (s : State) :
    exec .resetRelease s = execResetRelease s := rfl

theorem exec_powerCommand (q : Req) (w : Word) (s : State) :
    exec (.powerCommand q w) s = execPowerCommand q w s := rfl

theorem exec_wakeEdge (i : Fin 128) (s : State) :
    exec (.wakeEdge i) s = execWakeEdge i s := rfl

theorem exec_wakeTimerExpiry (s : State) :
    exec .wakeTimerExpiry s = execWakeTimerExpiry s := rfl

theorem exec_wakePowerGood (s : State) :
    exec .wakePowerGood s = execWakePowerGood s := rfl

theorem exec_resetOrPowerAct (s : State) :
    exec .resetOrPowerAct s = execResetOrPowerAct s := rfl

/-! What a device reset leaves (R543). -/

/-- The parts of the state that a device reset changes after it has dropped what it does not keep. -/
def resetParts : List Part := [.regs, .ctrs, .mgt, .logs, .irq, .freeCtr, .lcs, .pins, .cel, .dram, .time, .clk]

theorem only_setCel {l : List Part} {s t : State} (f : CelSt → CelSt) (hcel : Part.cel ∈ l) (h : only l s t) :
    only l s { t with cel := f t.cel } := fun p hp => by
  cases p
  case cel => exact absurd hcel hp
  all_goals exact h _ hp

/-- The chain of chapter 19's reset, each link within `resetParts`: fuses, banks, wake, clocks, Cellar, time, DRAM, mode. -/
theorem State.deviceReset_only_kept (s : State) (k : RstKind) : only resetParts (s.kept k) (s.deviceReset k) := by
  have hbanks := foldl_only (f := fun (r : State) b => r.setHio b { r.hio b with off := true, written := false })
    (List.range 12) _ (fun _ _ h => State.setHio_only _ _ (by decide) h)
    (State.fuseCut_only (by decide) (only.refl resetParts (s.kept k)))
  have hwake := ite_only (c := k.aon = true) (State.keepWake_only s (by decide) hbanks) hbanks
  have hclk := State.celAbandon_only (by decide) (State.clkReset_only s k (by decide) hwake)
  have hbad := ite_only (c := k.fabric = true) hclk (only_setCel (fun c => { c with ramBad := [] }) (by decide) hclk)
  have hshow := State.celShow_only (by decide) hbad
  have hreset := State.timeReset_only (by decide) hshow
  have hkeep := State.timeReset_only (by decide) (State.timeKeep_only (by decide) hshow)
  have htime := ite_only (c := k.time = true) (ite_only (c := k = .keep ∨ k = .keepD) hkeep hreset) hshow
  have hdram := State.dramReset_only k (by decide) htime
  have hmode := State.wr_only PWR.MODE_STAT.PREV_MODE (s.rd PWR.MODE_STAT.PREV_MODE) (by decide)
    (State.wr_only PWR.MODE_STAT.MODE s.mode (by decide) hdram)
  cases k
  case por => exact hdram
  all_goals exact hmode

/-- The planes and role records of a state are as they were in another (R543). -/
def State.samePlanes (s t : State) : Prop :=
  t.cfg.planeA = s.cfg.planeA ∧ t.cfg.planeB = s.cfg.planeB ∧ t.cfg.roles = s.cfg.roles

theorem State.samePlanes_of_cfg {s t u : State} (h : s.samePlanes t) (hu : u.cfg = t.cfg) : s.samePlanes u := by
  rwa [State.samePlanes, hu]

theorem State.deviceReset_samePlanes (s : State) (k : RstKind) : s.samePlanes (s.deviceReset k) := by
  have hcfg : (s.deviceReset k).cfg = (s.kept k).cfg := s.deviceReset_only_kept k .cfg (by decide)
  rw [State.samePlanes, hcfg]
  exact ⟨rfl, rfl, rfl⟩

theorem State.deviceReset_pending (s : State) (k : RstKind) : (s.deviceReset k).pending = s.pending :=
  s.deviceReset_only_kept k .pending (by decide)

theorem State.deviceReset_pwr (s : State) (k : RstKind) : (s.deviceReset k).pwr = (s.kept k).pwr :=
  s.deviceReset_only_kept k .pwr (by decide)

/-- R536: a reset request of a rank above those of the reset in progress resets the device. -/
theorem State.resetRequest_acts {s : State} {rank cause host : Nat} (hheld : s.pwr.held = false)
    (hrst : ∀ r, s.pwr.rst = some r → rank < r) :
    (s.resetRequest rank cause host).pwr.rst = some rank ∧ s.samePlanes (s.resetRequest rank cause host) ∧
      (s.resetRequest rank cause host).pending = s.pending := by
  have hacts : ¬ (s.pwr.held || (match s.pwr.rst with | some r => decide (r ≤ rank) | none => false)) = true := by
    cases hr : s.pwr.rst with
    | none => simp [hheld]
    | some r => simp [hheld, hrst r hr]
  have hr : s.resetRequest rank cause host = _ := if_neg hacts
  rw [hr]
  exact ⟨rfl, State.samePlanes_of_cfg (s.deviceReset_samePlanes _) rfl, s.deviceReset_pending _⟩

theorem State.resetRequest_up {s : State} {rank cause host : Nat} (h : s.islandUp = true) :
    (s.resetRequest rank cause host).pwr.rst = some rank ∧ s.samePlanes (s.resetRequest rank cause host) := by
  simp only [State.islandUp, Bool.and_eq_true, Bool.not_eq_true', Option.isNone_iff_eq_none] at h
  obtain ⟨⟨-, hheld⟩, hrst⟩ := h
  obtain ⟨hrank, hplanes, -⟩ := State.resetRequest_acts (cause := cause) (host := host) hheld (rank := rank) (by simp [hrst])
  exact ⟨hrank, hplanes⟩

/-- Settles O21, clause by clause. -/
theorem powerRuns : Obligations.PowerRuns := by
  unfold Obligations.PowerRuns
  intro s
  dsimp only
  refine ⟨fun k => ?_, fun hheld => ?_, fun ns h => ?_, fun ns h hheld hrst h₂ => ?_, fun hrst => ?_,
    fun q hcanWrite => ?_, fun q hcanWrite => ?_, fun q w hmode hcanWrite hpowerRefused => ?_,
    fun q w hmode hcanWrite hpowerRefused => ?_, fun q w hmode hwget hpowerRefused => ?_,
    fun target wake hentry hcellarIdle => ?_, fun i hasleep hwake hwakes => ?_, fun htimer hasleep hwake => ?_,
    fun src hwaking => ?_, fun target wake hlateAct hpowerRefused => ?_, fun typ host hlateAct => ?_⟩
  · refine ⟨_, rfl, rfl, rfl, ?_⟩
    obtain ⟨hA, hB, hroles⟩ := s.deviceReset_samePlanes (.por (k.val != 6))
    have hpending := s.deviceReset_pending (.por (k.val != 6))
    by_cases htap : k.val = 1 ∨ k.val = 6
    · simp only [if_pos htap]
      exact ⟨hA, hB, hroles, hpending⟩
    · simp only [if_neg htap]
      exact ⟨hA, hB, hroles, hpending⟩
  · simp [exec_powerOnResetRelease, execPowerOnResetRelease, hheld]
  · simp [exec_resetNEdge, execResetNEdge, h]
  · have hlow : ¬ ns < 100 := by omega
    obtain ⟨hrank, ⟨hA, hB, hroles⟩, hpending⟩ := State.resetRequest_acts (cause := 3) (host := 0) hheld h₂
    exact ⟨_, by rw [exec_resetNEdge, execResetNEdge, if_neg hlow, if_pos h], hrank, hA, hB, hroles, hpending⟩
  · rw [exec_resetRelease, execResetRelease, if_neg (by simpa [Option.isSome_iff_ne_none] using hrst)]
  · obtain ⟨hrank, hA, hB, hroles⟩ := State.resetRequest_up (rank := 2) (cause := 6) (host := 0) hcanWrite.up
    exact ⟨_, exec_coldResetRequest hcanWrite, hrank, rfl, hA, hB, hroles⟩
  · obtain ⟨hrank, hA, hB, hroles⟩ := State.resetRequest_up (rank := 3) (cause := 7) (host := 0) hcanWrite.up
    exact ⟨_, exec_warmResetRequest hcanWrite, hrank, rfl, hA, hB, hroles⟩
  · rw [exec_powerCommand, execPowerCommand, if_neg hmode,
      State.busPut_ungated hcanWrite (State.writeReg_pwrCmd s q _) (by omega)]
    simp (disch := decide) [State.pwrCmdWrite, wget_or_ne, State.rd_wr_ne, hpowerRefused]
  · rw [exec_powerCommand, execPowerCommand, if_neg hmode,
      State.busPut_ungated hcanWrite (State.writeReg_pwrCmd s q _) (by omega)]
    simp (disch := decide) [State.pwrCmdWrite, wget_or_ne, hpowerRefused]
  · simp [exec_powerCommand, execPowerCommand, hmode, hwget, hpowerRefused]
  · obtain ⟨hA, hB, hroles⟩ := (s.enterMode (if target = 3 then M.off else M.keep)).deviceReset_samePlanes
      (if target = 1 then .keepD else if target = 2 then .keep else .off)
    have hcfg : (s.enterMode (if target = 3 then M.off else M.keep)).cfg = s.cfg :=
      State.enterMode_only (pl := [.regs, .ctrs, .mgt, .logs]) _ (by decide) (only.refl _ _) .cfg (by decide)
    rw [hcfg] at hA hB hroles
    simp only [exec_powerEntryProceed, execPowerEntryProceed, hentry, hcellarIdle, Bool.not_true, Bool.false_eq_true,
      if_false]
    refine ⟨_, rfl, ?_, rfl, hA, hB, hroles⟩
    dsimp only
    rw [State.deviceReset_pwr]
    rfl
  · simp [exec_wakeEdge, execWakeEdge, hasleep, hwake, hwakes]
  · rw [exec_wakeTimerExpiry, execWakeTimerExpiry, if_neg (by simp [hasleep, Option.isSome_iff_ne_none.mp htimer]), hwake]
    rfl
  · simp [exec_wakePowerGood, execWakePowerGood, hwaking]
  · have hrefused : ({ s with mgt := { s.mgt with lateAct := none } } : State).powerRefused target = false := hpowerRefused
    simp only [exec_resetOrPowerAct, execResetOrPowerAct, hlateAct, hrefused]
    rfl
  · simp [exec_resetOrPowerAct, execResetOrPowerAct, hlateAct]

end Sys2Proof.Machine
end

section
/-! PROOFS. Arithmetic instructions of a slice (R130 to R157). -/

namespace Sys2Proof.Machine

theorem exec_sliceTap (g : Fin 10752) (ua : BitVec 37) (uc : BitVec 28) (s : State) :
    exec (.sliceTap g ua uc) s = execSliceTap g ua uc s := rfl

theorem exec_sliceMac (g : Fin 10752) (ua ub : BitVec 37) (uc : BitVec 28) (s : State) :
    exec (.sliceMac g ua ub uc) s = execSliceMac g ua ub uc s := rfl

theorem exec_sliceIn (g : Fin 10752) (s : State) :
    exec (.sliceIn g) s = execSliceIn g s := rfl

theorem exec_sliceOut (g : Fin 10752) (s : State) :
    exec (.sliceOut g) s = execSliceOut g s := rfl

theorem exec_sliceLda (g : Fin 10752) (ua : BitVec 37) (s : State) :
    exec (.sliceLda g ua) s = execSliceLda g ua s := rfl

theorem exec_sliceLdc (g : Fin 10752) (ua : BitVec 37) (s : State) :
    exec (.sliceLdc g ua) s = execSliceLdc g ua s := rfl

theorem exec_sliceCas (g : Fin 10752) (s : State) :
    exec (.sliceCas g) s = execSliceCas g s := rfl

/-! How an instruction is issued (R147, R151). -/

/-- What issuing an instruction w of opcode op leaves: a stall, or the end of the instruction. -/
def State.endIssue (s : State) (g op : Nat) (w : Word) : Issue → State
  | .stall c => s.stallCycle g c
  | .ok t x free lastW jump done => t.issued g x (if op = 1 then iSm w ||| 3 else iSm w) free lastW jump done

@[simp] theorem State.endIssue_stall (s : State) (g op c : Nat) (w : Word) :
    s.endIssue g op w (.stall c) = s.stallCycle g c := rfl

@[simp] theorem State.endIssue_ok (s t : State) (g op : Nat) (w : Word) (x : SliceSt) (free : List Nat)
    (lastW : Option (Nat × Option OpmW)) (jump : Option Nat) (done : Bool) :
    s.endIssue g op w (.ok t x free lastW jump done) =
      t.issued g x (if op = 1 then iSm w ||| 3 else iSm w) free lastW jump done := rfl

theorem State.issueOp_issues {s : State} {g op : Nat} (h : s.issues g op) (body : State → SliceSt → Word → Issue) :
    s.issueOp g op body = (s.closeCycle g).endIssue g op (s.isWord g (s.slice g).pc)
      (body (s.closeCycle g) ((s.closeCycle g).began g) (s.isWord g (s.slice g).pc)) := by
  obtain ⟨hheld, hrun, hop, hlegal⟩ := h
  have hrun : ((s.slice g).st == 1 || (s.slice g).st == 2) = true := by simpa using hrun
  rw [State.issueOp, hheld, hrun, hop, hlegal, if_neg (by simp)]
  dsimp only
  rw [show ({ (s.closeCycle g).slice g with fo := if ((s.closeCycle g).slice g).foHold then ((s.closeCycle g).slice g).fo
    else 0 } : SliceSt) = (s.closeCycle g).began g from rfl]
  cases body (s.closeCycle g) ((s.closeCycle g).began g) (s.isWord g (s.slice g).pc)
  all_goals rfl

/-- Settles O22, clause by clause. -/
theorem sliceArithmeticRuns : Obligations.SliceArithmeticRuns := by
  unfold Obligations.SliceArithmeticRuns
  intro s g
  dsimp only
  refine ⟨fun ua uc hissues => ?_, fun ua ub uc hissues h => ?_, fun ua ub uc hissues hiAx hx => ?_,
    fun v p xs hissues hx => ?_, fun hissues hx => ?_, fun hissues h => ?_, fun hissues hisWord hy => ?_,
    fun ua => ⟨fun hissues h => ?_, fun hissues hiAx hx => ?_⟩, fun ua => ⟨fun hissues h => ?_,
    fun hissues hiAx hx => ?_⟩, fun hissues => ?_⟩
  · rw [exec_sliceTap, execSliceTap, State.issueOp_issues hissues]
    simp
  · rw [exec_sliceMac, execSliceMac, State.issueOp_issues hissues]
    generalize hw : s.isWord g.val (s.slice g.val).pc = w at h ⊢
    generalize hx : (s.closeCycle g.val).began g.val = x at h ⊢
    by_cases huses : iAx w = true ∨ iBsrc w = 2
    · obtain ⟨v, xs, hxs⟩ := List.exists_cons_of_ne_nil (h huses)
      rcases hb : iBsrc w with _ | _ | _ | n
      all_goals simp [hxs]
    · obtain ⟨hax, hb2⟩ := not_or.mp huses
      rcases hb : iBsrc w with _ | _ | _ | n
      · simp [hax]
      · simp [hax]
      · exact absurd hb hb2
      · simp [hax]
  · rw [exec_sliceMac, execSliceMac, State.issueOp_issues hissues]
    rcases hiAx with hiAx | hiAx
    all_goals simp [hiAx, hx]
  · rw [exec_sliceIn, execSliceIn, State.issueOp_issues hissues]
    simp [hx]
  · rw [exec_sliceIn, execSliceIn, State.issueOp_issues hissues]
    simp [hx]
  · rw [exec_sliceOut, execSliceOut, State.issueOp_issues hissues]
    generalize hw : s.isWord g.val (s.slice g.val).pc = w at h ⊢
    generalize hx : (s.closeCycle g.val).began g.val = x at h ⊢
    have hroom : (!w.getLsbD 2 && decide (2 ≤ x.y.length)) = false := by
      cases hy : w.getLsbD 2
      · simpa using h hy
      · rfl
    cases hcopy : w.getLsbD 3
    all_goals (simp only [hroom, if_true, if_false, Bool.false_eq_true]; rfl)
  · rw [exec_sliceOut, execSliceOut, State.issueOp_issues hissues]
    simp only [hisWord, hy, if_true, if_false, Bool.false_eq_true, Bool.and_self, Bool.not_false, decide_true]
    rfl
  · rw [exec_sliceLda, execSliceLda, State.issueOp_issues hissues]
    generalize hw : s.isWord g.val (s.slice g.val).pc = w at h ⊢
    generalize hx : (s.closeCycle g.val).began g.val = x at h ⊢
    cases hax : iAx w
    · simp
    · obtain ⟨⟨v, p⟩, xs, hxs⟩ := List.exists_cons_of_ne_nil (h hax)
      simp [hxs]
  · rw [exec_sliceLda, execSliceLda, State.issueOp_issues hissues]
    simp [hiAx, hx]
  · rw [exec_sliceLdc, execSliceLdc, State.issueOp_issues hissues]
    generalize hw : s.isWord g.val (s.slice g.val).pc = w at h ⊢
    generalize hx : (s.closeCycle g.val).began g.val = x at h ⊢
    cases hax : iAx w
    · simp
    · obtain ⟨⟨v, p⟩, xs, hxs⟩ := List.exists_cons_of_ne_nil (h hax)
      simp [hxs]
      rfl
  · rw [exec_sliceLdc, execSliceLdc, State.issueOp_issues hissues]
    simp [hiAx, hx]
  · rw [exec_sliceCas, execSliceCas, State.issueOp_issues hissues]
    simp

end Sys2Proof.Machine
end

section
/-! PROOFS. Control instructions of a slice (R145 to R158). -/

namespace Sys2Proof.Machine

theorem exec_sliceNop (g : Fin 10752) (s : State) :
    exec (.sliceNop g) s = execSliceNop g s := rfl

theorem exec_sliceLoop (g : Fin 10752) (s : State) :
    exec (.sliceLoop g) s = execSliceLoop g s := rfl

theorem exec_sliceJmp (g : Fin 10752) (ci : BitVec 4) (src : PortSrc) (s : State) :
    exec (.sliceJmp g ci src) s = execSliceJmp g ci src s := rfl

theorem exec_sliceSetag (g : Fin 10752) (s : State) :
    exec (.sliceSetag g) s = execSliceSetag g s := rfl

theorem exec_sliceWait (g : Fin 10752) (ci : BitVec 4) (src : PortSrc) (s : State) :
    exec (.sliceWait g ci src) s = execSliceWait g ci src s := rfl

theorem exec_sliceHalt (g : Fin 10752) (s : State) :
    exec (.sliceHalt g) s = execSliceHalt g s := rfl

theorem exec_sliceSig (g : Fin 10752) (s : State) :
    exec (.sliceSig g) s = execSliceSig g s := rfl

theorem exec_illegalInstruction (g : Fin 10752) (s : State) :
    exec (.illegalInstruction g) s = execIllegalInstruction g s := rfl

theorem exec_sliceStart (g : Fin 10752) (src : PortSrc) (s : State) :
    exec (.sliceStart g src) s = execSliceStart g src s := rfl

theorem exec_trigInput (g : Fin 10752) (src : PortSrc) (s : State) :
    exec (.trigInput g src) s = execTrigInput g src s := rfl

/-! A draw for the nets' values (R127) leaves what a slice is. -/

section
variable (s : State) (src : PortSrc) (g : Nat)

@[simp] theorem State.drawFor_slice : (s.drawFor src).2.slice g = s.slice g := by
  cases src
  all_goals rfl

@[simp] theorem State.drawFor_sliceHeld : (s.drawFor src).2.sliceHeld g = s.sliceHeld g := by
  cases src
  all_goals rfl

@[simp] theorem State.drawFor_isWord (k : Nat) : (s.drawFor src).2.isWord g k = s.isWord g k := by
  cases src
  all_goals rfl

theorem State.drawFor_issues (op : Nat) : (s.drawFor src).2.issues g op ↔ s.issues g op := by
  cases src
  all_goals rfl

end

theorem State.issueOp_held {s : State} {g : Nat} (h : s.sliceHeld g = true) (op : Nat) (body : State → SliceSt → Word → Issue) :
    s.issueOp g op body = s := by
  rw [State.issueOp, h, Bool.true_or, Bool.true_or, Bool.true_or, if_pos rfl]

/-- Settles O23, clause by clause. -/
theorem sliceControlRuns : Obligations.SliceControlRuns := by
  unfold Obligations.SliceControlRuns
  intro s g
  dsimp only
  refine ⟨fun hissues => ?_, fun hissues => ?_, fun ci src hissues => ?_, fun hissues => ?_,
    fun ci src hissues => ?_, fun hissues => ?_, fun hissues => ?_, fun hsliceHeld hst hillegalAt => ?_,
    fun hsliceHeld ua => ⟨?_, ?_, ?_, ?_, ?_, ?_, ?_, fun src => ⟨?_, ?_⟩⟩⟩
  · rw [exec_sliceNop, execSliceNop, State.issueOp_issues hissues]
    simp
  · rw [exec_sliceLoop, execSliceLoop, State.issueOp_issues hissues]
    simp
  · simp only [exec_sliceJmp, execSliceJmp]
    rw [State.issueOp_issues ((s.drawFor_issues src g 0x11).mpr hissues), State.drawFor_isWord, State.drawFor_slice]
    split
    · next hcond => simp
    · next hcond => simp
  · rw [exec_sliceSetag, execSliceSetag, State.issueOp_issues hissues]
    rcases hreg : wget (s.isWord g.val (s.slice g.val).pc) 19 18 with _ | _ | _ | n
    all_goals simp
  · simp only [exec_sliceWait, execSliceWait]
    rw [State.issueOp_issues ((s.drawFor_issues src g 0x13).mpr hissues), State.drawFor_isWord, State.drawFor_slice]
    split
    · next hcond => simp
    · next hcond => simp
  · rw [exec_sliceHalt, execSliceHalt, State.issueOp_issues hissues]
    simp
  · rw [exec_sliceSig, execSliceSig, State.issueOp_issues hissues]
    simp
  · rcases hst with hst | hst
    all_goals (simp [exec_illegalInstruction, execIllegalInstruction, hsliceHeld, hst, hillegalAt]; rfl)
  · rw [exec_sliceNop, execSliceNop, State.issueOp_held hsliceHeld]
  · rw [exec_sliceIn, execSliceIn, State.issueOp_held hsliceHeld]
  · rw [exec_sliceOut, execSliceOut, State.issueOp_held hsliceHeld]
  · rw [exec_sliceLda, execSliceLda, State.issueOp_held hsliceHeld]
  · rw [exec_sliceCas, execSliceCas, State.issueOp_held hsliceHeld]
  · rw [exec_sliceHalt, execSliceHalt, State.issueOp_held hsliceHeld]
  · simp [exec_illegalInstruction, execIllegalInstruction, hsliceHeld]
  · simp [exec_sliceStart, execSliceStart, hsliceHeld]
  · simp [exec_trigInput, execTrigInput, hsliceHeld]

end Sys2Proof.Machine
end

section
/-! PROOFS. Inputs, outputs, port P and inspection of a slice (R126 to R163). -/

namespace Sys2Proof.Machine

theorem exec_xCapture (g : Fin 10752) (x : BitVec 36) (p : Bool) (src : PortSrc) (s : State) :
    exec (.xCapture g x p src) s = execXCapture g x p src s := rfl

theorem exec_yDeliver (g : Fin 10752) (src : PortSrc) (s : State) :
    exec (.yDeliver g src) s = execYDeliver g src s := rfl

theorem exec_portPAccess (g : Fin 10752) (a : BitVec 10) (we : Bool) (d : BitVec 36) (u : BitVec 37) (src : PortSrc)
    (s : State) :
    exec (.portPAccess g a we d u src) s = execPortPAccess g a we d u src s := rfl

theorem exec_portPSteal (g : Fin 10752) (a : BitVec 10) (we : Bool) (d : BitVec 36) (u : BitVec 37) (src : PortSrc)
    (s : State) :
    exec (.portPSteal g a we d u src) s = execPortPSteal g a we d u src s := rfl

theorem exec_inspectionSteal (g : Fin 10752) (u : BitVec 37) (uc : BitVec 28) (s : State) :
    exec (.inspectionSteal g u uc) s = execInspectionSteal g u uc s := rfl

/-! Port P and the inspection window (R137, R146, R162). -/

section
variable {s : State} {src : PortSrc} {g : Nat}

@[simp] theorem State.drawFor_sliceCfg (s : State) (src : PortSrc) (g : Nat) :
    (s.drawFor src).2.sliceCfg g = s.sliceCfg g := by
  cases src
  all_goals rfl

@[simp] theorem State.setReg_slice (s : State) (off : Nat) (w : Word) (g : Nat) : (s.setReg off w).slice g = s.slice g := rfl

@[simp] theorem State.wrb_slice (s : State) (f : Fld) (b : Bool) (g : Nat) : (s.wrb f b).slice g = s.slice g := rfl

theorem State.portAsks_of {d : Nat} (hheld : s.sliceHeld g = false) (hen : (s.sliceCfg g).pEn = true)
    (hsees : s.sees src d (portSlice g) 86 true = true) : s.portAsks src d g = true := by
  simp [State.portAsks, hheld, hen, hsees]

theorem State.stallCycle_bit (h : (s.slice g).haltReq = false) (c : Nat) (f : Fld) :
    (s.stallCycle g c).bit f = s.bit f := by
  have hstall : s.stallCycle g c = (s.bump (SLC.STALL_CNT g)).setSlice g
      { (s.slice g).newCycle [0, 1] none with
        st := 2, cause := c, fo := if (s.slice g).foHold then (s.slice g).fo else 0 } :=
    if_neg (by simp [SliceSt.newCycle, h])
  rw [hstall]
  exact State.bump_bit s _ 1 f

end

/-- Settles O24, clause by clause. -/
theorem slicePortsRun : Obligations.SlicePortsRun := by
  unfold Obligations.SlicePortsRun
  intro s g src
  dsimp only
  refine ⟨fun hsliceHeld hst hsees => ?_, fun hsliceHeld hsees => ?_, fun w p hsliceHeld hst hx hsees => ?_,
    fun w p hx => ?_, fun hsliceHeld hsees => ?_,
    fun a we w u hsliceHeld hpEn hsees => ⟨fun slot l hfree hpGnt => ?_, fun hfree hst => ?_,
    fun hfree hst hst₂ => ?_, fun hpSteal hst hfree => ?_⟩, fun u uc hsliceHeld hbusy hst hfree hhaltReq => ?_,
    fun q hcanWrite hst => ?_, fun q hcanWrite hst => ?_, fun q hcanWrite hst => ?_, fun q hcanWrite hst => ?_,
    fun q w hcanWrite hbusy h hst => ?_, fun q w hcanWrite hbusy h hst hst₂ => ?_, fun q w hcanWrite hbusy => ?_,
    fun q hcanWrite hillegal hst => ?_⟩
  · simp [exec_sliceStart, execSliceStart, hsliceHeld, hst, hsees]
    rfl
  · simp [exec_trigInput, execTrigInput, hsliceHeld, hsees]
  · simp [exec_xCapture, execXCapture, hsliceHeld, hst, hx, hsees]
  · simp [exec_xCapture, execXCapture, hx]
  · simp [exec_yDeliver, execYDeliver, hsliceHeld, hsees]
  · have hasks : (s.drawFor src).2.portAsks src (s.drawFor src).1 g = true :=
      State.portAsks_of (by rwa [State.drawFor_sliceHeld]) (by rwa [State.drawFor_sliceCfg]) hsees
    simp [exec_portPAccess, execPortPAccess, SliceSt.portSlot, State.portDo, hasks, hfree, hpGnt]
  · have hasks : (s.drawFor src).2.portAsks src (s.drawFor src).1 g = true :=
      State.portAsks_of (by rwa [State.drawFor_sliceHeld]) (by rwa [State.drawFor_sliceCfg]) hsees
    rcases hfree with hfree | hfree <;> rcases hst with hst | hst
    all_goals simp [exec_portPAccess, execPortPAccess, SliceSt.portSlot, hasks, hfree, hst]
  · have hasks : (s.drawFor src).2.portAsks src (s.drawFor src).1 g = true :=
      State.portAsks_of (by rwa [State.drawFor_sliceHeld]) (by rwa [State.drawFor_sliceCfg]) hsees
    rcases hfree with hfree | hfree
    all_goals (simp [exec_portPAccess, execPortPAccess, SliceSt.portSlot, State.portDo, hasks, hfree, hst, hst₂]; rfl)
  · have hasks : (s.drawFor src).2.portAsks src (s.drawFor src).1 g = true :=
      State.portAsks_of (by rwa [State.drawFor_sliceHeld]) (by rwa [State.drawFor_sliceCfg]) hsees
    rcases hst with hst | hst
    all_goals simp [exec_portPSteal, execPortPSteal, State.portDo, hasks, hpSteal, hst, hfree]
  · rcases hst with hst | hst
    all_goals simp [exec_inspectionSteal, execInspectionSteal, State.stallCycle_bit hhaltReq, hsliceHeld, hbusy, hst, hfree]
  · rw [exec_sliceHaltRequest _ hcanWrite]
    simp [State.slcCtlWrite, hst]
    rfl
  · rw [exec_sliceHaltRequest _ hcanWrite]
    simp [State.slcCtlWrite, hst]
    rfl
  · rw [exec_sliceResume _ hcanWrite]
    simp [State.slcCtlWrite, hst]
    rfl
  · rw [exec_sliceStep _ hcanWrite]
    simp [State.slcCtlWrite, hst]
    rfl
  · rw [exec_inspectionStart _ _ (by rwa [Nat.add_right_comm] at hcanWrite)]
    have hone : ¬ (w.getLsbD 29 = true ∧ w.getLsbD 30 = true) := by simpa using h
    simp only [State.inspWrite, orNone, hbusy, hone, State.wrb_slice, State.setReg_slice, hst, if_true, if_false,
      Bool.false_eq_true, or_self, State.answered_true]
  · rw [exec_inspectionStart _ _ (by rwa [Nat.add_right_comm] at hcanWrite)]
    have hone : ¬ (w.getLsbD 29 = true ∧ w.getLsbD 30 = true) := by simpa using h
    simp only [State.inspWrite, orNone, hbusy, hone, State.wrb_slice, State.setReg_slice, hst, hst₂, if_false,
      Bool.false_eq_true, or_self, State.answered_true]
  · rw [exec_inspectionStart _ _ (by rwa [Nat.add_right_comm] at hcanWrite)]
    simp [State.inspWrite, orNone, hbusy]
  · rw [exec_clearIllegal _ (by rwa [Nat.add_right_comm] at hcanWrite)]
    have hbit : (0x200 : Word).getLsbD 9 = true := by decide
    simp [State.slcFlagsWrite, hillegal, hst]

end Sys2Proof.Machine
end

section
/-! PROOFS. Block memories (R167 to R186). -/

namespace Sys2Proof.Machine

theorem exec_bm36Read (b : Fin 13440) (pb : Bool) (t : ArrT) (a : BitVec 15) (u : BitVec 72) (src : PortSrc) (s : State) :
    exec (.bm36Read b pb t a u src) s = execBm36Read b pb t a u src s := rfl

theorem exec_bm36FullWrite (b : Fin 13440) (pb : Bool) (t : ArrT) (a : BitVec 15) (d : BitVec 72) (be : BitVec 8)
    (wp : Bool) (src : PortSrc) (s : State) :
    exec (.bm36FullWrite b pb t a d be wp src) s = execBm36FullWrite b pb t a d be wp src s := rfl

theorem exec_bm36NarrowWrite (b : Fin 13440) (pb : Bool) (t : ArrT) (a : BitVec 15) (d : BitVec 72) (be : BitVec 8)
    (wp : Bool) (u : BitVec 72) (src : PortSrc) (s : State) :
    exec (.bm36NarrowWrite b pb t a d be wp u src) s = execBm36NarrowWrite b pb t a d be wp u src s := rfl

theorem exec_bm36Clear (m : MemId) (t : ArrT) (src : PortSrc) (s : State) :
    exec (.bm36Clear m t src) s = execBm36Clear m t src s := rfl

theorem exec_correctionWriteBack (m : MemId) (pb : Bool) (t : ArrT) (s : State) :
    exec (.correctionWriteBack m pb t) s = execCorrectionWriteBack m pb t s := rfl

@[simp] theorem State.drawFor_mem (s : State) (src : PortSrc) : (s.drawFor src).2.mem = s.mem := by
  cases src
  all_goals rfl

@[simp] theorem State.drawFor_dmCap (s : State) (src : PortSrc) (p : Nat) (pb : Bool) (cap : Nat) :
    (s.drawFor src).2.dmCap p pb cap = s.dmCap p pb cap := by
  cases src
  all_goals rfl

/-- R168, R170: whether a port's access falls in an array cycle of its own, and what that leaves. -/
theorem State.bmAccept_eq (s : State) (b : Nat) (pb : Bool) (t : ArrT) :
    s.bmAccept b pb t =
      let g := s.bmTime b pb t
      let x := g.2.arr false b
      if g.1 && !x.took.contains pb then (true, g.2.setArr false b { x with took := pb :: x.took }) else (false, g.2) := by
  dsimp only [State.bmAccept]
  cases (s.bmTime b pb t).1
  all_goals cases ((s.bmTime b pb t).2.arr false b).took.contains pb
  all_goals rfl

/-- R171: a write that meets another near access may find the word unchanged. -/
theorem State.bmWrite_eq (s : State) (b : Nat) (ecc near : Bool) (a : MAct) :
    s.bmWrite b ecc near a =
      let f := s.fresh
      let meets := near && ((s.arr false b).acts.any fun k => k.word == a.word && k.pb != a.pb)
        || near && (s.arr false b).clr && a.pb
      if (!(tget s.mem.bmCfg b {}).oneClk && meets && Config.freeBit f.1) = true then f.2
      else (f.2.staleMerges b a.pb a.word near).memAct false b ecc a := by
  dsimp only [State.bmWrite]
  rw [Bool.and_assoc near (s.arr false b).clr, ← Bool.and_or_distrib_left]
  rfl

theorem bmWide {ecc : Bool} {w : Nat} {be : BitVec 8} (h : ecc = false ∨ (w = 64 ∧ be = 0xFF#8)) :
    (ecc && (w != 64 || be != 0xFF#8)) = false := by
  rcases h with h | ⟨hw, hbe⟩
  · rw [h, Bool.false_and]
  · simp [hw, hbe]

theorem bmNarrow {ecc : Bool} {w : Nat} {be : BitVec 8} (hecc : ecc = true) (h : w ≠ 64 ∨ be ≠ 0xFF#8) :
    (ecc && (w != 64 || be != 0xFF#8)) = true := by
  rcases h with h | h
  all_goals simp [hecc, h]

/-- R167: a port's enable does not depend on what the access asks. -/
theorem State.memIn_enable (s : State) (src : PortSrc) (d key : Nat) (pb : Bool) (r k : MemIn) :
    (s.memIn src d key pb r).1 = (s.memIn src d key pb k).1 := rfl

theorem blockMemoryAccessRuns : Sys2Proof.Machine.BlockMemoryAccessRuns := by
  unfold Sys2Proof.Machine.BlockMemoryAccessRuns
  intro s b pb t src
  dsimp only
  refine ⟨fun a u hfst hwe hbmLive => ⟨fun hfst₂ => ?_, fun hfst₂ => ?_⟩,
    fun a d be wp hfst hwe hecc hbmLive => ⟨fun hfst₂ => ?_, fun hfst₂ => ?_⟩⟩
  · simp only [exec_bm36Read, execBm36Read, State.bmAccept_eq, hfst, hwe, hbmLive, hfst₂, if_true, if_false,
      Bool.false_eq_true, Bool.or_self, Bool.not_true, Bool.not_false]
  · simp only [exec_bm36Read, execBm36Read, State.bmAccept_eq, hfst, hwe, hbmLive, hfst₂, if_true, if_false,
      Bool.false_eq_true, Bool.or_self, Bool.not_true]
  · have hwide := bmWide hecc
    simp only [exec_bm36FullWrite, execBm36FullWrite, State.bmAccept_eq, State.bmWrite_eq, hfst, hwe, hwide, hbmLive,
      hfst₂, if_true, if_false, Bool.false_eq_true, Bool.or_self, Bool.not_true, Bool.not_false]
  · have hwide := bmWide hecc
    simp only [exec_bm36FullWrite, execBm36FullWrite, State.bmAccept_eq, State.bmWrite_eq, hfst, hwe, hwide, hbmLive,
      hfst₂, if_true, if_false, Bool.false_eq_true, Bool.or_self, Bool.not_true]

theorem blockMemoryUpkeepRuns : Sys2Proof.Machine.BlockMemoryUpkeepRuns := by
  unfold Sys2Proof.Machine.BlockMemoryUpkeepRuns
  intro s
  dsimp only
  refine ⟨fun b pb t src a d be wp u => ⟨fun hbmLive => ⟨?_, ?_, ?_⟩,
    fun hbmLive hfst hwe hecc hbmWidth => ⟨fun hfst₂ => ?_, fun hfst₂ => ?_⟩⟩, fun b t src => ⟨fun hbmLive => ?_,
    fun hbmLive hfst => ?_, fun hbmLive hfst => ?_⟩, fun p t src => ⟨fun hdmLive => ?_, fun hdmLive => ?_⟩,
    fun m pb t => ⟨fun hmemHeld => ?_, fun hmemHeld hacts => ?_, fun hmemHeld hacts hite => ?_,
    fun k poison v hmemHeld hacts hite => ⟨fun hmemW => ?_, fun w hmemW => ?_⟩⟩⟩
  · rw [State.memIn_enable _ _ _ _ _ _ ⟨false, a, 0, 0, false⟩] at hbmLive
    rcases hbmLive with hbmLive | hbmLive
    all_goals simp only [exec_bm36Read, execBm36Read, hbmLive, if_true, Bool.not_false, Bool.or_true, Bool.true_or]
  · rcases hbmLive with hbmLive | hbmLive
    all_goals simp [exec_bm36FullWrite, execBm36FullWrite, hbmLive]
  · rcases hbmLive with hbmLive | hbmLive
    all_goals simp [exec_bm36NarrowWrite, execBm36NarrowWrite, hbmLive]
  · have hnarrow := bmNarrow hecc hbmWidth
    simp only [exec_bm36NarrowWrite, execBm36NarrowWrite, State.bmAccept_eq, hbmLive, hfst, hwe, hnarrow, hfst₂, if_true,
      if_false, Bool.false_eq_true, Bool.or_self, Bool.not_true, Bool.not_false]
  · have hnarrow := bmNarrow hecc hbmWidth
    simp only [exec_bm36NarrowWrite, execBm36NarrowWrite, State.bmAccept_eq, hbmLive, hfst, hwe, hnarrow, hfst₂, if_true,
      if_false, Bool.false_eq_true, Bool.or_self, Bool.not_true]
  · simp only [exec_bm36Clear, execBm36Clear, State.drawFor_mem, ← Bool.not_and, hbmLive, if_true, Bool.not_false]
  · simp only [exec_bm36Clear, execBm36Clear, State.drawFor_mem, ← Bool.not_and, hbmLive, hfst, if_true, if_false,
      Bool.false_eq_true, Bool.not_true, Bool.not_false]
  · simp only [exec_bm36Clear, execBm36Clear, State.drawFor_mem, ← Bool.not_and, hbmLive, hfst, if_false,
      Bool.false_eq_true, Bool.not_true]
    rfl
  · simp only [exec_bm36Clear, execBm36Clear, State.drawFor_mem, ← Bool.not_and, hdmLive, if_true, Bool.not_false]
  · simp only [exec_bm36Clear, execBm36Clear, State.drawFor_mem, ← Bool.not_and, State.drawFor_dmCap, hdmLive,
      apply_ite Host.Outcome.next, if_false, Bool.false_eq_true, Bool.not_true]
  · cases m
    all_goals simp [exec_correctionWriteBack, execCorrectionWriteBack, hmemHeld]
  · cases m
    all_goals simp [exec_correctionWriteBack, execCorrectionWriteBack, hmemHeld, hacts]
  · cases m
    all_goals simp [exec_correctionWriteBack, execCorrectionWriteBack, State.writeBack, hmemHeld, hacts, hite]
  · cases m
    all_goals dsimp only at hmemHeld hacts hite hmemW
    all_goals have hidle := List.isEmpty_iff.mpr hacts
    all_goals simp only [exec_correctionWriteBack, execCorrectionWriteBack, State.writeBack, hmemHeld, hidle, hite, hmemW,
      if_true, if_false, Bool.false_eq_true, Bool.not_true]
  · cases m
    all_goals dsimp only at hmemHeld hacts hite hmemW
    all_goals have hidle := List.isEmpty_iff.mpr hacts
    all_goals simp only [exec_correctionWriteBack, execCorrectionWriteBack, State.writeBack, hmemHeld, hidle, hite, hmemW,
      if_true, if_false, Bool.false_eq_true, Bool.not_true]

/-- Settles O25. -/
theorem blockMemoriesRun : Obligations.BlockMemoriesRun := ⟨blockMemoryAccessRuns, blockMemoryUpkeepRuns⟩

end Sys2Proof.Machine
end

section
/-! PROOFS. Deep memories (R190 to R197). -/

namespace Sys2Proof.Machine

theorem exec_dmFabricRead (p : Fin 112) (pb : Bool) (t : ArrT) (cap : Nat) (a : BitVec 15) (u : BitVec 72)
    (src : PortSrc) (s : State) :
    exec (.dmFabricRead p pb t cap a u src) s = execDmFabricRead p pb t cap a u src s := rfl

theorem exec_dmFabricWrite (p : Fin 112) (pb : Bool) (t : ArrT) (cap : Nat) (a : BitVec 15) (d : BitVec 64)
    (be : BitVec 8) (wp : Bool) (u : BitVec 72) (src : PortSrc) (s : State) :
    exec (.dmFabricWrite p pb t cap a d be wp u src) s = execDmFabricWrite p pb t cap a d be wp u src s := rfl

theorem exec_dmDeferredServe (p : Fin 112) (cap : Nat) (s : State) :
    exec (.dmDeferredServe p cap) s = execDmDeferredServe p cap s := rfl

theorem exec_dmNocRequest (p : Fin 112) (us : List (BitVec 72)) (s : State) :
    exec (.dmNocRequest p us) s = execDmNocRequest p us s := rfl

theorem exec_dmNocWaitExpiry (p : Fin 112) (us : List (BitVec 72)) (waited : Nat) (s : State) :
    exec (.dmNocWaitExpiry p us waited) s = execDmNocWaitExpiry p us waited s := rfl

theorem ite_not_bool {α : Type} (b : Bool) (x y : α) : (if (!b) = true then x else y) = if b = true then y else x := by
  cases b
  all_goals rfl

/-- R191: the capacity of a port's clock is not raised twice. -/
@[simp] theorem State.dmCap_dmCap (s : State) (p : Nat) (pb : Bool) (cap : Nat) :
    s.dmCap p pb (s.dmCap p pb cap) = s.dmCap p pb cap := by
  unfold State.dmCap
  dsimp only
  split
  · rw [Nat.max_assoc, Nat.max_self]
  · rfl

/-- R196, R197: a NoC request is answered where it waits for no deferred request of its banks,
  and at the latest when its wait
ends. -/
theorem exec_dmNoc {s : State} {p : Fin 112} {us : List (BitVec 72)} {m : Moving} {ms : List Moving} {c : Instr} {late : Bool}
    (hserve : tget s.noc.serve (ID.dm p.val) [] = m :: ms)
    (h : (late = true ∧ ∃ w, (tget s.mem.dmCfg p.val {}).nocWait ≤ w ∧ c = .dmNocWaitExpiry p us w) ∨
      (late = false ∧ c = .dmNocRequest p us ∧
        ((s.arr true p.val).defs.any fun r => ((dmTouched m.f).map fun q => q.1 % 8).contains (r.word % 8)) = false)) :
    exec c s = .next (s.dmAnswer p.val us late) := by
  rcases h with ⟨rfl, w, hw, rfl⟩ | ⟨rfl, rfl, hfree⟩
  · rw [exec_dmNocWaitExpiry, execDmNocWaitExpiry, if_neg hw.not_gt]
  · simp only [exec_dmNocRequest, execDmNocRequest, hserve, hfree, if_false, Bool.false_eq_true]

/-- Settles O26, clause by clause. -/
theorem deepMemoriesRun : Obligations.DeepMemoriesRun := by
  unfold Obligations.DeepMemoriesRun
  intro s p
  dsimp only
  refine ⟨fun pb t src cap a d be wp u => ⟨fun hdmLive => ⟨?_, ?_⟩, fun hdmLive hfst hwe => ?_,
    fun hdmLive hfst hwe => ?_⟩, fun cap => ⟨fun hdefs => ?_, fun r t hdefs hmemHeld => ?_⟩,
    fun us m ms hserve => ⟨fun hdefs => ?_, fun w hnocWait => ?_,
    fun c late hdmNocRequest => ⟨fun st hdmRefuse => ?_, fun hdmRefuse htest => ?_, fun hdmRefuse htest => ?_⟩⟩⟩
  · simp [exec_dmFabricRead, execDmFabricRead, hdmLive]
  · simp [exec_dmFabricWrite, execDmFabricWrite, hdmLive]
  · rw [exec_dmFabricRead]
    simp only [execDmFabricRead, State.dmAccept, State.drawFor_dmCap, State.dmCap_dmCap, hdmLive, hfst, hwe, ite_not_bool,
      apply_ite Host.Outcome.next, if_false, Bool.false_eq_true, Bool.or_self, Bool.not_true]
  · simp only [exec_dmFabricWrite, execDmFabricWrite, State.dmAccept, State.drawFor_dmCap, State.dmCap_dmCap, hdmLive,
      hfst, hwe, ite_not_bool, apply_ite Host.Outcome.next, beq_iff_eq, if_false, Bool.false_eq_true, Bool.or_self,
      Bool.not_true]
  · rcases hdefs with hdefs | hheld
    · simp [exec_dmDeferredServe, execDmDeferredServe, hdefs]
    · cases hdefs : (s.arr true p.val).defs
      all_goals simp [exec_dmDeferredServe, execDmDeferredServe, hdefs, hheld]
  · simp [exec_dmDeferredServe, execDmDeferredServe, hdefs, hmemHeld]
  · simp only [exec_dmNocRequest, execDmNocRequest, hserve, hdefs, if_true]
  · simp [exec_dmNocWaitExpiry, execDmNocWaitExpiry, hnocWait]
  · rw [exec_dmNoc hserve hdmNocRequest]
    simp only [State.dmAnswer, hserve, hdmRefuse]
  · rw [exec_dmNoc hserve hdmNocRequest]
    simp only [State.dmAnswer, hserve, hdmRefuse, htest, if_true]
  · rw [exec_dmNoc hserve hdmNocRequest]
    simp only [State.dmAnswer, hserve, hdmRefuse, htest, if_false, Bool.false_eq_true]

end Sys2Proof.Machine
end

section
/-! PROOFS. Plane operations ordered through CFG.OP (R208 to R226). -/

namespace Sys2Proof.Machine



/-- R215: a write of CFG.OP is taken while no operation is in progress. -/
theorem State.cfgOpWrite_free {s : State} (hfree : s.bit CFG.OP_STAT.BUSY = false) {w : Word} {code : Nat}
    (hw : wget w 3 0 = code) (hcode : 1 ≤ code ∧ code ≤ 9) :
    s.cfgOpWrite w = ((s.planeOp code (maskVats (s.rd CFG.OP_VATS.VATS)) (s.reg CFG.OP_ARG.TAG.off)).1, true) := by
  have htaken : ¬ (code = 0 ∨ 9 < code ∨ s.bit CFG.OP_STAT.BUSY = true) := by
    simp only [hfree, Bool.false_eq_true, or_false]
    omega
  rw [State.cfgOpWrite, hw, if_neg htaken]

theorem State.cfgOpWrite_busy {s : State} (hbusy : s.bit CFG.OP_STAT.BUSY = true) (w : Word) : s.cfgOpWrite w = (s, false) :=
  if_pos (.inr (.inr hbusy))

section
variable {s : State} {vats : List Nat} {tag : Word}

theorem State.planeOp_runs {code : Nat} (hcode : code ≠ OP.arm ∧ code ≠ OP.disarm) (h : s.opRefusal code vats none = none) :
    (s.planeOp code vats tag).1 =
      (s.opRun code vats ((armSlot vats).getD 0) tag).1.opStat (s.opRun code vats ((armSlot vats).getD 0) tag).2 0 := by
  simp [State.planeOp, hcode, h]

theorem State.planeOp_refuses {code c v : Nat} (hcode : code ≠ OP.arm ∧ code ≠ OP.disarm)
    (h : s.opRefusal code vats none = some (c, v)) : (s.planeOp code vats tag).1 = s.opStat c v := by
  simp [State.planeOp, hcode, h]

theorem State.planeOp_arm_runs {k : Nat} (hslot : armSlot vats = some k) (h : s.opRefusal OP.arm vats (some k) = none) :
    (s.planeOp OP.arm vats tag).1 = (s.opRun OP.arm vats k tag).1.opStat (s.opRun OP.arm vats k tag).2 0 := by
  have hne : OP.arm ≠ OP.disarm := by decide
  simp [State.planeOp, hslot, hne, h]

theorem State.planeOp_arm_refuses {k c v : Nat} (hslot : armSlot vats = some k)
    (h : s.opRefusal OP.arm vats (some k) = some (c, v)) : (s.planeOp OP.arm vats tag).1 = s.opStat c v := by
  have hne : OP.arm ≠ OP.disarm := by decide
  simp [State.planeOp, hslot, hne, h]

theorem State.planeOp_disarm_runs {k : Nat} (hslot : armSlot vats = some k) (h : s.opRefusal OP.disarm [k] (some k) = none) :
    (s.planeOp OP.disarm vats tag).1 = (s.opRun OP.disarm vats k tag).1.opStat (s.opRun OP.disarm vats k tag).2 0 := by
  simp [State.planeOp, hslot, h]

theorem State.planeOp_disarm_refuses {k c v : Nat} (hslot : armSlot vats = some k)
    (h : s.opRefusal OP.disarm [k] (some k) = some (c, v)) : (s.planeOp OP.disarm vats tag).1 = s.opStat c v := by
  simp [State.planeOp, hslot, h]

theorem State.planeOp_noSlot {code : Nat} (hcode : code = OP.arm ∨ code = OP.disarm) (hslot : armSlot vats = none) :
    (s.planeOp code vats tag).1 = s.opStat 6 0 := by
  rcases hcode with rfl | rfl
  all_goals simp [State.planeOp, hslot]

end

/-- Settles O27, clause by clause. -/
theorem planeOperationsRun : Obligations.PlaneOperationsRun := by
  unfold Obligations.PlaneOperationsRun
  intro s q
  dsimp only
  refine fun hcanWrite => ⟨fun hbusy => ⟨fun hopRefusal => ?_, fun hopRefusal => ?_, fun hopRefusal => ?_,
    fun k harmSlot hopRefusal => ?_, fun k harmSlot hopRefusal => ?_, fun hopRefusal => ?_, fun hopRefusal => ?_,
    fun hopRefusal => ?_, fun hopRefusal => ?_, fun c v => ⟨fun hopRefusal => ?_, fun hopRefusal => ?_,
    fun hopRefusal => ?_, fun k harmSlot hopRefusal => ?_, fun k harmSlot hopRefusal => ?_, fun hopRefusal => ?_,
    fun hopRefusal => ?_, fun hopRefusal => ?_, fun hopRefusal => ?_⟩, fun harmSlot => ⟨?_, ?_⟩⟩,
    fun hbusy c hmem => ?_⟩
  · rw [exec_activate hcanWrite, State.cfgOpWrite_free hbusy (code := 1) (by decide) (by decide),
      State.planeOp_runs (by decide) hopRefusal]
    rfl
  · rw [exec_rollback hcanWrite, State.cfgOpWrite_free hbusy (code := 2) (by decide) (by decide),
      State.planeOp_runs (by decide) hopRefusal]
    rfl
  · rw [exec_confirm hcanWrite, State.cfgOpWrite_free hbusy (code := 3) (by decide) (by decide),
      State.planeOp_runs (by decide) hopRefusal]
    rfl
  · rw [exec_arm hcanWrite, State.cfgOpWrite_free hbusy (code := OP.arm) (by decide) (by decide),
      State.planeOp_arm_runs harmSlot hopRefusal]
    rfl
  · rw [exec_disarm hcanWrite, State.cfgOpWrite_free hbusy (code := OP.disarm) (by decide) (by decide),
      State.planeOp_disarm_runs harmSlot hopRefusal]
    rfl
  · rw [exec_commitOpen hcanWrite, State.cfgOpWrite_free hbusy (code := 6) (by decide) (by decide),
      State.planeOp_runs (by decide) hopRefusal]
    rfl
  · rw [exec_commitClose hcanWrite, State.cfgOpWrite_free hbusy (code := 7) (by decide) (by decide),
      State.planeOp_runs (by decide) hopRefusal]
    rfl
  · rw [exec_invalidate hcanWrite, State.cfgOpWrite_free hbusy (code := 8) (by decide) (by decide),
      State.planeOp_runs (by decide) hopRefusal]
    rfl
  · rw [exec_capture hcanWrite, State.cfgOpWrite_free hbusy (code := 9) (by decide) (by decide),
      State.planeOp_runs (by decide) hopRefusal]
    rfl
  · rw [exec_activate hcanWrite, State.cfgOpWrite_free hbusy (code := 1) (by decide) (by decide),
      State.planeOp_refuses (by decide) hopRefusal]
    rfl
  · rw [exec_rollback hcanWrite, State.cfgOpWrite_free hbusy (code := 2) (by decide) (by decide),
      State.planeOp_refuses (by decide) hopRefusal]
    rfl
  · rw [exec_confirm hcanWrite, State.cfgOpWrite_free hbusy (code := 3) (by decide) (by decide),
      State.planeOp_refuses (by decide) hopRefusal]
    rfl
  · rw [exec_arm hcanWrite, State.cfgOpWrite_free hbusy (code := OP.arm) (by decide) (by decide),
      State.planeOp_arm_refuses harmSlot hopRefusal]
    rfl
  · rw [exec_disarm hcanWrite, State.cfgOpWrite_free hbusy (code := OP.disarm) (by decide) (by decide),
      State.planeOp_disarm_refuses harmSlot hopRefusal]
    rfl
  · rw [exec_commitOpen hcanWrite, State.cfgOpWrite_free hbusy (code := 6) (by decide) (by decide),
      State.planeOp_refuses (by decide) hopRefusal]
    rfl
  · rw [exec_commitClose hcanWrite, State.cfgOpWrite_free hbusy (code := 7) (by decide) (by decide),
      State.planeOp_refuses (by decide) hopRefusal]
    rfl
  · rw [exec_invalidate hcanWrite, State.cfgOpWrite_free hbusy (code := 8) (by decide) (by decide),
      State.planeOp_refuses (by decide) hopRefusal]
    rfl
  · rw [exec_capture hcanWrite, State.cfgOpWrite_free hbusy (code := 9) (by decide) (by decide),
      State.planeOp_refuses (by decide) hopRefusal]
    rfl
  · rw [exec_arm hcanWrite, State.cfgOpWrite_free hbusy (code := 4) (by decide) (by decide),
      State.planeOp_noSlot (by decide) harmSlot]
    rfl
  · rw [exec_disarm hcanWrite, State.cfgOpWrite_free hbusy (code := 5) (by decide) (by decide),
      State.planeOp_noSlot (by decide) harmSlot]
    rfl
  · simp only [List.mem_cons, List.not_mem_nil, or_false] at hmem
    rcases hmem with rfl | rfl | rfl | rfl | rfl | rfl | rfl | rfl | rfl
    · rw [exec_activate hcanWrite, State.cfgOpWrite_busy hbusy, State.answered_false]
    · rw [exec_rollback hcanWrite, State.cfgOpWrite_busy hbusy, State.answered_false]
    · rw [exec_confirm hcanWrite, State.cfgOpWrite_busy hbusy, State.answered_false]
    · rw [exec_arm hcanWrite, State.cfgOpWrite_busy hbusy, State.answered_false]
    · rw [exec_disarm hcanWrite, State.cfgOpWrite_busy hbusy, State.answered_false]
    · rw [exec_commitOpen hcanWrite, State.cfgOpWrite_busy hbusy, State.answered_false]
    · rw [exec_commitClose hcanWrite, State.cfgOpWrite_busy hbusy, State.answered_false]
    · rw [exec_invalidate hcanWrite, State.cfgOpWrite_busy hbusy, State.answered_false]
    · rw [exec_capture hcanWrite, State.cfgOpWrite_busy hbusy, State.answered_false]

end Sys2Proof.Machine
end

section
/-! PROOFS. Loads, windows, activations and the single-frame access (R208 to R227). -/

namespace Sys2Proof.Machine

theorem exec_deferredWholeDeviceStart (d : Nat) (s : State) :
    exec (.deferredWholeDeviceStart d) s = execDeferredWholeDeviceStart d s := rfl

theorem exec_deferredSwapStart (v : Fin 16) (d : Nat) (s : State) :
    exec (.deferredSwapStart v d) s = execDeferredSwapStart v d s := rfl

theorem exec_loadComplete (v : Fin 16) (ups : List (Bool × Fin 262144 × List (Fin 2072))) (s : State) :
    exec (.loadComplete v ups) s = execLoadComplete v ups s := rfl

theorem exec_confirmWindowExpiry (v : Fin 16) (s : State) :
    exec (.confirmWindowExpiry v) s = execConfirmWindowExpiry v s := rfl

theorem exec_expiryRollbackStart (v : Fin 16) (s : State) :
    exec (.expiryRollbackStart v) s = execExpiryRollbackStart v s := rfl

theorem exec_armCompareFire (k : Fin 16) (s : State) :
    exec (.armCompareFire k) s = execArmCompareFire k s := rfl

theorem exec_activationAssertion (k : Fin 16) (d : Nat) (s : State) :
    exec (.activationAssertion k d) s = execActivationAssertion k d s := rfl

theorem exec_planeRepair (n : Fin 262144) (fails : Fin 4) (s : State) :
    exec (.planeRepair n fails) s = execPlaneRepair n fails s := rfl

theorem exec_frameAccessDone (bits : List (Fin 2072)) (bad : Bool) (s : State) :
    exec (.frameAccessDone bits bad) s = execFrameAccessDone bits bad s := rfl

theorem loadsRun : Sys2Proof.Machine.LoadsRun := by
  unfold Sys2Proof.Machine.LoadsRun
  intro s
  dsimp only
  refine ⟨fun o d hdeferred hswapsRun => ?_, fun v o d hfindq hunderTest hrunning hload_pend => ?_,
    fun v ups op hloads => ?_, fun v hwindowOpen => ⟨fun h hotherValid => ?_, fun h hotherValid => ?_,
    fun h hotherValid => ?_, fun h hotherValid => ?_⟩, fun v p hexpiring => ⟨fun hmode => ?_,
    fun hmode hload_pend hcur => ⟨fun h hunconf hotherValid => ?_, fun h hotherValid => ?_⟩⟩,
    fun k harmed harmLate => ⟨fun hopRefusal hopWaits => ?_, fun hopRefusal hopWaits => ?_,
    fun c v hopRefusal => ?_⟩, fun k d o hfindq => ⟨fun hopWaits => ?_, fun hopWaits => ?_⟩,
    fun n fails hperr hframeBusy => ⟨fun hchkFrame => ?_, fun a b f hchkFrame => ⟨fun h => ?_,
    fun v h hframeVat => ?_⟩⟩⟩
  · cases hslot : o.slot with
    | none => simp [exec_deferredWholeDeviceStart, execDeferredWholeDeviceStart, hdeferred, hswapsRun, hslot]
    | some k => simp [exec_deferredWholeDeviceStart, execDeferredWholeDeviceStart, hdeferred, hswapsRun, hslot]
  · cases hslot : o.slot with
    | none => simp [exec_deferredSwapStart, execDeferredSwapStart, hfindq, hunderTest, hrunning, hload_pend, hslot]
    | some k => simp [exec_deferredSwapStart, execDeferredSwapStart, hfindq, hunderTest, hrunning, hload_pend, hslot]
  · simp [exec_loadComplete, execLoadComplete, hloads]
  · simp [exec_confirmWindowExpiry, execConfirmWindowExpiry, hwindowOpen, h, hotherValid]
  · simp [exec_confirmWindowExpiry, execConfirmWindowExpiry, hwindowOpen, h, hotherValid]
  · rw [h] at hwindowOpen hotherValid
    simp [exec_confirmWindowExpiry, execConfirmWindowExpiry, hwindowOpen, h, hotherValid]
  · rw [h] at hwindowOpen hotherValid
    simp [exec_confirmWindowExpiry, execConfirmWindowExpiry, hwindowOpen, h, hotherValid]
  · simp [exec_expiryRollbackStart, execExpiryRollbackStart, hexpiring, hmode]
  · simp [exec_expiryRollbackStart, execExpiryRollbackStart, hexpiring, hmode, hload_pend, hcur, h, hunconf, hotherValid]
    rfl
  · rw [h] at hexpiring hcur
    simp [exec_expiryRollbackStart, execExpiryRollbackStart, hexpiring, hmode, hload_pend, hcur, h, hotherValid]
    rfl
  · simp only [exec_armCompareFire, execArmCompareFire, show OP.activate = 1 from rfl, harmed, harmLate, hopRefusal,
      hopWaits, if_false, Bool.false_eq_true, Bool.or_self, Bool.not_true]
  · simp only [exec_armCompareFire, execArmCompareFire, show OP.activate = 1 from rfl, harmed, harmLate, hopRefusal,
      hopWaits, if_true, if_false, Bool.false_eq_true, Bool.or_self, Bool.not_true]
  · simp only [exec_armCompareFire, execArmCompareFire, show OP.activate = 1 from rfl, harmed, harmLate, hopRefusal,
      if_false, Bool.false_eq_true, Bool.or_self, Bool.not_true]
  · simp [exec_activationAssertion, execActivationAssertion, hfindq, hopWaits]
  · simp [exec_activationAssertion, execActivationAssertion, hfindq, hopWaits]
  · simp [exec_planeRepair, execPlaneRepair, hperr, hframeBusy, hchkFrame]
  · simp [exec_planeRepair, execPlaneRepair, hperr, hframeBusy, hchkFrame, h]
  · simp [exec_planeRepair, execPlaneRepair, hperr, hframeBusy, hchkFrame, h, hframeVat]

theorem singleFrameAccessRuns : Sys2Proof.Machine.SingleFrameAccessRuns := by
  unfold Sys2Proof.Machine.SingleFrameAccessRuns
  intro s
  dsimp only
  refine ⟨fun q w hcanWrite hfwGo => ⟨?_, ?_⟩, fun read t far bits bad hfwGo => ⟨fun h => ?_, fun h hfarDecode => ?_,
    fun n h hfarDecode hframeBusy => ?_, fun n h hfarDecode hframeBusy hfwCopy => ?_,
    fun n copy h hfarDecode hframeBusy hfwCopy => ⟨fun h₂ => ?_, fun h₂ hfwMay => ?_, fun h₂ hfwMay hsyndrome => ?_,
    fun h₂ hfwMay hsyndrome h₃ => ?_, fun h₂ hfwMay hsyndrome h₃ h₄ => ?_, fun h₂ hfwMay hsyndrome h₃ h₄ => ?_⟩⟩⟩
  · rw [exec_frameAccessRead _ hcanWrite]
    simp [State.fwWrite, hfwGo]
    rfl
  · rw [exec_frameAccessWrite _ hcanWrite]
    simp [State.fwWrite, hfwGo]
    rfl
  · simp [exec_frameAccessDone, execFrameAccessDone, hfwGo, h]
  · simp [exec_frameAccessDone, execFrameAccessDone, hfwGo, h, hfarDecode]
  · simp [exec_frameAccessDone, execFrameAccessDone, hfwGo, h, hfarDecode, hframeBusy]
  · simp [exec_frameAccessDone, execFrameAccessDone, hfwGo, h, hfarDecode, hframeBusy, hfwCopy]
  · simp only [exec_frameAccessDone, execFrameAccessDone, hfwGo, h.not_ge, hfarDecode, hframeBusy, hfwCopy, h₂, if_true,
      if_false, Bool.false_eq_true, ne_eq]
  · simp only [exec_frameAccessDone, execFrameAccessDone, hfwGo, h.not_ge, hfarDecode, hframeBusy, hfwCopy, h₂, hfwMay,
      if_true, if_false, Bool.false_eq_true, Bool.not_false, ne_eq]
  · simp only [exec_frameAccessDone, execFrameAccessDone, hfwGo, h.not_ge, hfarDecode, hframeBusy, hfwCopy, h₂, hfwMay,
      hsyndrome, if_true, if_false, Bool.false_eq_true, not_false_eq_true, Bool.not_true, ne_eq]
  · simp only [exec_frameAccessDone, execFrameAccessDone, hfwGo, h.not_ge, hfarDecode, hframeBusy, hfwCopy, h₂, hfwMay,
      hsyndrome, if_false, Bool.false_eq_true, not_true, Bool.not_true, ne_eq]
    exact if_pos h₃
  · simp only [exec_frameAccessDone, execFrameAccessDone, hfwGo, h.not_ge, hfarDecode, hframeBusy, hfwCopy, h₂, hfwMay,
      hsyndrome, h₄, if_true, if_false, Bool.false_eq_true, not_true, Bool.not_true, ne_eq]
    exact if_neg h₃
  · simp only [exec_frameAccessDone, execFrameAccessDone, hfwGo, h.not_ge, hfarDecode, hframeBusy, hfwCopy, h₂, hfwMay,
      hsyndrome, h₄, if_false, Bool.false_eq_true, not_true, Bool.not_true, ne_eq]
    exact if_neg h₃

/-- Settles O28. -/
theorem loadsAndFrameAccessRun : Obligations.LoadsAndFrameAccessRun := ⟨loadsRun, singleFrameAccessRuns⟩

end Sys2Proof.Machine
end

section
/-! PROOFS. Records of an image (R229 to R250). -/

namespace Sys2Proof.Machine

theorem exec_headerRecord (e : Fin 2) (env : RecEnv) (s : State) :
    exec (.headerRecord e env) s = execHeaderRecord e env s := rfl

theorem exec_signatureRecord (e : Fin 2) (env : RecEnv) (s : State) :
    exec (.signatureRecord e env) s = execSignatureRecord e env s := rfl

theorem exec_signatureVerified (e : Fin 2) (s : State) :
    exec (.signatureVerified e) s = execSignatureVerified e s := rfl

theorem exec_frameRecord (e : Fin 2) (env : RecEnv) (s : State) :
    exec (.frameRecord e env) s = execFrameRecord e env s := rfl

theorem exec_frameZRecord (e : Fin 2) (env : RecEnv) (s : State) :
    exec (.frameZRecord e env) s = execFrameZRecord e env s := rfl

theorem exec_repeatRecord (e : Fin 2) (env : RecEnv) (s : State) :
    exec (.repeatRecord e env) s = execRepeatRecord e env s := rfl

theorem exec_zeroRunRecord (e : Fin 2) (env : RecEnv) (s : State) :
    exec (.zeroRunRecord e env) s = execZeroRunRecord e env s := rfl

theorem exec_meminitRecord (e : Fin 3) (env : RecEnv) (s : State) :
    exec (.meminitRecord e env) s = execMeminitRecord e env s := rfl

theorem exec_endRecord (e : Fin 2) (env : RecEnv) (s : State) :
    exec (.endRecord e env) s = execEndRecord e env s := rfl

/-- R229, R238: an operation that reads a record carries it out in the state its reads leave. -/
theorem State.withRecord_reads {s t : State} {o : ImgOp} {env : RecEnv} {fixed : Option Nat} {stop typ : Nat} {r : Rec}
    (h : s.reads o env fixed stop typ t r) {route : Nat → Bool} (hroute : route typ = true) (f : State → ImgOp → Rec → State) :
    s.withRecord o env fixed stop route f = f t o r := by
  obtain ⟨l, bs, hhead, htyp, hlost, hbody, rfl, hcrc, hpad, hfits, rfl⟩ := h
  have hin : decide (stop < o.pos + recBytes (fixed.getD (recLen l))) = false := decide_eq_false hfits.not_gt
  simp only [State.withRecord, hhead, htyp, hroute, hlost, hbody, hcrc, hpad, hin, if_false, Bool.false_eq_true,
    Bool.or_self, Bool.not_true]

theorem sectionEnd_eq (o : ImgOp) (h : Hdr) :
    (if o.phase = 3 then h.fsecEnd else if o.phase = 4 then h.isecEnd else slotBytes) = sectionEnd o h := rfl

/-- R235, R238: what a record that stands in the frame section leaves. -/
theorem State.frameRecord_reads {s t : State} {e : Nat} {env : RecEnv} {o : ImgOp} {h : Hdr} {r : Rec} {typ : Nat}
    {done : Host.Outcome State Fault Refusal} {types : Nat → Bool}
    (hready : s.imgReady e (fun p => 3 ≤ p && p ≤ 5) = some o) (hheader : o.header = some h)
    (hreads : s.reads o env none (sectionEnd o h) typ t r) (hphase : o.phase = 3) (hpos : o.pos ≠ h.fsecEnd)
    (hdone : (∃ c, frameRec r.typ r.body o.ref = .error c ∧ done = .next (t.imgReject o c)) ∨
      (∃ l ref, frameRec r.typ r.body o.ref = .ok (l, ref) ∧ (o.commits && l.any fun x => s.frameBusy x.1) = true ∧
        done = .next s) ∨
      (∃ l ref x o' c, frameRec r.typ r.body o.ref = .ok (l, ref) ∧ (o.commits && l.any fun x => s.frameBusy x.1) = false ∧
        t.imgFrames o h l env.wfails = (x, o', some c) ∧ done = .next (x.imgReject o c)) ∨
      (∃ l ref x o', frameRec r.typ r.body o.ref = .ok (l, ref) ∧ (o.commits && l.any fun x => s.frameBusy x.1) = false ∧
        t.imgFrames o h l env.wfails = (x, o', none) ∧
        let o'' := { o' with ref := ref, fsec := o'.fsec ++ r.whole }
        let w := x.stageBytes o'' o''.pos r.whole
        done = .next ((x.imgSettle e (w.2.eat r.whole.length)).stageWork w.1)))
    (htypes : types typ = true) : .next (s.frameRecord e env types) = done := by
  have hcont : ¬ (o.phase = 3 ∧ o.pos = h.fsecEnd) := fun k => hpos k.2
  rw [State.frameRecord, hready]
  simp only [hheader, if_neg hcont, sectionEnd_eq]
  rw [State.withRecord_reads hreads htypes]
  simp only [hphase, ne_eq, not_true_eq_false, if_false]
  rcases hdone with ⟨c, hrec, rfl⟩ | ⟨l, ref, hrec, hbusy, rfl⟩ | ⟨l, ref, x, o', c, hrec, hfree, hframes, rfl⟩ |
    ⟨l, ref, x, o', hrec, hfree, hframes, rfl⟩
  · simp only [hrec]
  · simp only [hrec, hbusy, if_true]
  · simp only [hrec, hfree, hframes, if_false, Bool.false_eq_true]
  · simp only [hrec, hfree, hframes, if_false, Bool.false_eq_true]

/-- Settles O29, clause by clause. -/
theorem imageRecordsRun : Obligations.ImageRecordsRun := by
  unfold Obligations.ImageRecordsRun
  intro s t e env o h r
  dsimp only
  refine ⟨fun himgReady typ hreads htyp hlen hhdrOf hroom hinit howns => ?_,
    fun himgReady typ hreads htyp hlen => ⟨fun hsigFault => ?_, fun c hsigFault => ?_⟩,
    fun himgReady hheader => ⟨fun hkey => ?_, fun hkey hvatsFault => ?_, fun hkey hvatsFault hcommits => ?_,
    fun hkey hvatsFault hcommits hfst => ?_, fun hkey hvatsFault hcommits hfst => ?_⟩,
    fun himgReady hheader typ hreads => ⟨fun hphase hpos done hdone => ?_, fun hphase htyp hnkind m hmemInitOf => ?_,
      fun hphase htyp hlen hnkind => ?_⟩⟩
  · rw [exec_headerRecord, execHeaderRecord, himgReady]
    dsimp only
    rw [State.withRecord_reads hreads rfl]
    have howned : ¬ (o.kind ≤ 4 ∧ t.ownsImage o.host h.vats = false) := by
      rintro ⟨hkind, hnot⟩
      simp [howns hkind] at hnot
    by_cases hmod : o.kind = 6
    · cases hhead : t.modHead with
      | none => simp only [htyp, hlen, hhdrOf, hinit, howned, if_pos hmod, if_false, Bool.false_eq_true, or_self, not_true,
        Bool.not_true, ne_eq]
      | some m =>
        have hfits := hroom m hmod hhead
        simp only [htyp, hlen, hhdrOf, hinit, howned, if_pos hmod, hfits, if_false, Bool.false_eq_true, or_self, not_true,
          Bool.not_true, ne_eq, decide_true]
    · simp only [htyp, hlen, hhdrOf, hinit, howned, if_neg hmod, if_false, Bool.false_eq_true, or_self, not_true,
        Bool.not_true, ne_eq]
  · rw [exec_signatureRecord, execSignatureRecord, himgReady]
    dsimp only
    rw [State.withRecord_reads hreads rfl]
    simp [htyp, hlen, hsigFault]
  · rw [exec_signatureRecord, execSignatureRecord, himgReady]
    dsimp only
    rw [State.withRecord_reads hreads rfl]
    simp [htyp, hlen, hsigFault]
  · simp only [exec_signatureVerified, execSignatureVerified, himgReady, hheader, hkey, if_true, Bool.not_false, ne_eq]
  · simp only [exec_signatureVerified, execSignatureVerified, himgReady, hheader, hkey, hvatsFault, if_true, if_false,
      Bool.false_eq_true, Bool.not_true, ne_eq]
  · have hkeeps : ({ o with phase := 3, ref := 0 } : ImgOp).commits = o.commits := rfl
    simp only [exec_signatureVerified, execSignatureVerified, himgReady, hheader, hkey, hvatsFault, hkeeps, hcommits,
      if_false, Bool.false_eq_true, Bool.not_true, ne_eq]
  · have hkeeps : ({ o with phase := 3, ref := 0 } : ImgOp).commits = o.commits := rfl
    simp only [exec_signatureVerified, execSignatureVerified, himgReady, hheader, hkey, hvatsFault, hkeeps, hcommits, hfst,
      if_true, if_false, Bool.false_eq_true, not_true, Bool.not_true, ne_eq]
  · have hkeeps : ({ o with phase := 3, ref := 0 } : ImgOp).commits = o.commits := rfl
    simp only [exec_signatureVerified, execSignatureVerified, himgReady, hheader, hkey, hvatsFault, hkeeps, hcommits, hfst,
      if_true, if_false, Bool.false_eq_true, not_false_eq_true, Bool.not_true, ne_eq]
  · refine ⟨fun hplain => ?_, fun htyp => ?_, fun htyp => ?_, fun htyp => ?_⟩
    · exact State.frameRecord_reads himgReady hheader hreads hphase hpos hdone (by simpa using hplain)
    · exact State.frameRecord_reads himgReady hheader hreads hphase hpos hdone (by simp [htyp])
    · exact State.frameRecord_reads himgReady hheader hreads hphase hpos hdone (by simp [htyp])
    · exact State.frameRecord_reads himgReady hheader hreads hphase hpos hdone (by simp [htyp])
  · have hengine : e.val ≠ 2 := by omega
    rw [exec_meminitRecord, execMeminitRecord, if_neg hengine, himgReady]
    simp only [hheader, if_neg hnkind, sectionEnd_eq]
    rw [State.withRecord_reads hreads (by simp [htyp])]
    simp only [hphase, hmemInitOf, if_false, not_true, ne_eq]
  · rw [exec_endRecord, execEndRecord, himgReady]
    simp only [hheader, if_neg hnkind, sectionEnd_eq]
    rw [State.withRecord_reads hreads (by simp [htyp])]
    simp only [hphase, hlen, if_false, or_self, not_true, ne_eq]

end Sys2Proof.Machine
end

section
/-! PROOFS. Memory inits and the read-back of a commit (R208 to R582). -/

namespace Sys2Proof.Machine

theorem exec_memoryInitStart (v : Fin 16) (lost : Bool) (s : State) :
    exec (.memoryInitStart v lost) s = execMemoryInitStart v lost s := rfl

theorem exec_memoryInitDone (v : Fin 16) (s : State) :
    exec (.memoryInitDone v) s = execMemoryInitDone v s := rfl

theorem exec_commitCloseDone (v : Fin 16) (ups : List (Bool × Fin 262144 × List (Fin 2072))) (s : State) :
    exec (.commitCloseDone v ups) s = execCommitCloseDone v ups s := rfl

/-- R246: an init starts for the head of its queue where nothing keeps it. -/
theorem memoryInitStart_ready {s : State} {v : Fin 16} (hinit : s.img.init = none) (hhead : s.img.initQ.head? = some v.val)
    (hrunning : s.running = true) (hclearing : s.cfg.clearing.contains v.val = false) (htest : s.underTest v = false) :
    ¬ (s.img.init.isSome = true ∨ s.img.initQ.head? ≠ some v.val ∨ (!s.running) = true ∨
      s.cfg.clearing.contains v.val = true ∨ s.underTest v = true) := by
  simp [hinit, hhead, hrunning, -List.contains_eq_mem, hclearing, htest]

/-- Settles O30, clause by clause. -/
theorem initsAndReadBackRun : Obligations.InitsAndReadBackRun := by
  unfold Obligations.InitsAndReadBackRun
  intro s
  dsimp only
  refine ⟨fun v slot hash h hinit hheadq hrunning hclearing hunderTest => ⟨fun lost hinitSource => ?_,
    fun hinitSource => ?_, fun hinitSource hsha384 => ?_, fun hinitSource hsha384 hhdrOf => ?_⟩,
    fun r env hinit => ?_, fun v r hinit hvat hstop => ⟨fun hsha384 => ?_, fun hsha384 => ?_⟩,
    fun v ups hcommits => ⟨fun hop => ?_, fun c o o' h hfindq hop hclosed hmap hop₂ hheader => ⟨fun hcommits₂ => ?_,
    fun hcommits₂ => ?_⟩⟩⟩
  · rw [exec_memoryInitStart, execMemoryInitStart, if_neg (memoryInitStart_ready hinit hheadq hrunning hclearing hunderTest)]
    simp only [hinitSource]
  · rw [exec_memoryInitStart, execMemoryInitStart, if_neg (memoryInitStart_ready hinit hheadq hrunning hclearing hunderTest)]
    simp only [hinitSource, if_true, ne_eq]
  · rw [exec_memoryInitStart, execMemoryInitStart, if_neg (memoryInitStart_ready hinit hheadq hrunning hclearing hunderTest)]
    simp only [hinitSource, hsha384, if_true, if_false, Bool.false_eq_true, not_false_eq_true, ne_eq]
  · rw [exec_memoryInitStart, execMemoryInitStart, if_neg (memoryInitStart_ready hinit hheadq hrunning hclearing hunderTest)]
    simp only [hinitSource, hsha384, hhdrOf, if_false, Bool.false_eq_true, not_true, ne_eq]
  · simp [exec_meminitRecord, execMeminitRecord, hinit]
  · simp [exec_memoryInitDone, execMemoryInitDone, hinit, hvat, hstop, hsha384]
  · simp [exec_memoryInitDone, execMemoryInitDone, hinit, hvat, hstop, hsha384]
  · rw [exec_commitCloseDone, execCommitCloseDone, if_neg (by simp only [hcommits, Bool.false_eq_true, not_false_eq_true]),
      hop]
    cases s.cfg.commits.find? fun c => c.vats.contains v.val && c.closing.isSome
    all_goals rfl
  · rw [exec_commitCloseDone, execCommitCloseDone, if_neg (by simp only [hcommits, Bool.false_eq_true, not_false_eq_true])]
    simp only [hfindq, hop, hclosed, hmap, hop₂, hheader, hcommits₂, beq_self_eq_true, if_true, if_false,
      Bool.false_eq_true, Bool.and_self, Bool.not_true]
  · rw [exec_commitCloseDone, execCommitCloseDone, if_neg (by simp only [hcommits, Bool.false_eq_true, not_false_eq_true])]
    simp only [hfindq, hop, hclosed, hmap, hop₂, hheader, hcommits₂, beq_self_eq_true, if_false, Bool.false_eq_true,
      Bool.and_self, Bool.not_true]

end Sys2Proof.Machine
end

section
/-! PROOFS. Requests for images (R241 to R244). -/

namespace Sys2Proof.Machine

theorem exec_imgCommit (e : ImmEnv) (body : List Byte) (s : State) :
    exec (.imgCommit e body) s = execImgCommit e body s := rfl

theorem exec_imgVerify (e : ImmEnv) (body : List Byte) (s : State) :
    exec (.imgVerify e body) s = execImgVerify e body s := rfl

theorem exec_imgStage (e : ImmEnv) (body : List Byte) (s : State) :
    exec (.imgStage e body) s = execImgStage e body s := rfl

theorem exec_imgStream (e : ImmEnv) (body : List Byte) (s : State) :
    exec (.imgStream e body) s = execImgStream e body s := rfl

theorem exec_bootSet (e : ImmEnv) (body : List Byte) (s : State) :
    exec (.bootSet e body) s = execBootSet e body s := rfl

/-- A request that is received is carried out and answered. -/
theorem State.request_received {s t : State} {bare : Bool} {e : ImmEnv} {code : Nat} {body : List Byte}
    (h : s.receive bare e code body = (t, true)) (f : State → State × Reply) :
    s.request bare e code body f = (f t).1.finish e code (f t).2 := by
  rw [State.request, h]
  rfl

/-- A request that is not received leaves what its reception left. -/
theorem State.request_unreceived {s t : State} {bare : Bool} {e : ImmEnv} {code : Nat} {body : List Byte}
    (h : s.receive bare e code body = (t, false)) (f : State → State × Reply) :
    s.request bare e code body f = t := by
  rw [State.request, h]
  rfl

@[simp] theorem State.finish_ok (s : State) (e : ImmEnv) (code st : Nat) (body : List Byte) :
    s.finish e code (.ok st body) = s.respondTo e code st body := rfl

@[simp] theorem State.finish_no (s : State) (e : ImmEnv) (code reason arg vat : Nat) :
    s.finish e code (.no reason arg vat) = s.refuse e code reason arg vat := rfl

@[simp] theorem State.finish_silent (s : State) (e : ImmEnv) (code : Nat) : s.finish e code .silent = s := rfl

/-- A choice that is empty where its condition holds is empty. -/
theorem ite_some_none {α : Type} {b : Bool} {x : Option α} (h : b = true → x = none) :
    (if b = true then x else none) = none := by
  split
  · exact h ‹_›
  · rfl

/-- Settles O31, clause by clause. -/
theorem imageRequestsRun : Obligations.ImageRequestsRun := by
  unfold Obligations.ImageRequestsRun
  intro s t e body
  dsimp only
  refine ⟨fun hreceive => ?_, fun hreceive => ?_, fun hlength hfield himgModeOk hop => ⟨fun hreceive hbind => ?_,
    fun hreceive hbind => ?_⟩, fun hreceive => ?_, fun hreceive => ?_,
    fun hlength hlength₂ hfield himgModeOk => ⟨fun hreceive hfield₂ hop hfield₃ hslotInUse h => ?_,
    fun hreceive hop hfield₂ h h₂ => ?_, fun o hop hhost hlast hfield₂ => ⟨fun hreceive hkind hslot hfield₃ => ?_,
    fun hreceive hkind hslot => ?_⟩⟩, fun hreceive => ⟨fun hlength => ?_, fun hlength hport => ?_,
    fun hlength hport himgModeOk htakeWhile hop => ?_⟩⟩
  · rw [exec_imgCommit, execImgCommit, State.request_received hreceive]
  · rw [exec_imgVerify, execImgVerify, State.request_received hreceive]
  · rw [exec_imgCommit, execImgCommit, State.request_received hreceive]
    have hform : ¬ (body.length ≠ 1 ∨ 8 ≤ field body 0 1) := by omega
    simp only [State.slotOrder, hform, himgModeOk, hop, hbind, if_false, Bool.false_eq_true, Bool.not_true, ne_eq,
      Option.isSome_none]
    rfl
  · rw [exec_imgVerify, execImgVerify, State.request_received hreceive]
    have hform : ¬ (body.length ≠ 1 ∨ 8 ≤ field body 0 1) := by omega
    simp only [State.slotOrder, hform, himgModeOk, hop, hbind, if_true, if_false, Bool.false_eq_true, Bool.not_true, ne_eq,
      Option.isSome_none]
    rfl
  · rw [exec_imgStage, execImgStage, State.request_received hreceive]
  · rw [exec_imgStream, execImgStream, State.request_received hreceive]
  · rw [exec_imgStage, execImgStage, State.request_received hreceive]
    have hadmit := ite_some_none h
    simp only [State.chunk, hlength.not_gt, hlength₂.not_gt, hfield.not_ge, himgModeOk, hfield₂.not_ge, hop, hfield₃,
      hslotInUse, hadmit, if_true, if_false, Bool.false_eq_true, or_self, and_false, or_false, not_true, Bool.not_true,
      ne_eq]
    rfl
  · rw [exec_imgStream, execImgStream, State.request_received hreceive]
    have hadmit := ite_some_none h₂
    have hright : ¬ ((decide (24 ≤ (body.drop 8).length) && wordAt (body.drop 8) 1 == 0x49484C44) = true ∧
        (wordAt (body.drop 8) 4).testBit 1 = true) := fun hx => by simpa [hx.2] using h hx.1
    simp only [State.chunk, hlength.not_gt, hlength₂.not_gt, hfield.not_ge, himgModeOk, hop, hfield₂, hright, hadmit,
      Nat.reduceEqDiff, Nat.reduceLeDiff, State.finish_ok, not_true, if_false, Bool.false_eq_true, or_self, false_and,
      and_false, not_true, Bool.not_true, ne_eq]
  · rw [exec_imgStage, execImgStage, State.request_received hreceive]
    simp [State.chunk, hlength.not_gt, hlength₂.not_gt, hfield.not_ge, himgModeOk, hop, hhost, hlast, hfield₂, hkind,
      hslot, hfield₃.not_ge]
  · rw [exec_imgStream, execImgStream, State.request_received hreceive]
    simp [State.chunk, hlength.not_gt, hlength₂.not_gt, hfield.not_ge, himgModeOk, hop, hhost, hlast, hfield₂, hkind, hslot]
  · rw [exec_bootSet, execBootSet, State.request_received hreceive]
    simp [hlength]
  · rw [exec_bootSet, execBootSet, State.request_received hreceive]
    simp [hlength, hport]
  · rw [exec_bootSet, execBootSet, State.request_received hreceive]
    simp [hlength, hport, himgModeOk, htakeWhile, hop]

end Sys2Proof.Machine
end

section
/-! PROOFS. Clock edges of a cluster (R54 to R57, R60, R64, R67). -/

namespace Sys2Proof.Machine

theorem exec_activeClockEdge (e : FabEdge) (s : State) :
    exec (.activeClockEdge e) s = execActiveClockEdge e s := rfl

/-- While the device runs, an edge is taken with a fresh draw. -/
theorem exec_activeClockEdge_running {s : State} (e : FabEdge) (h : s.running = true) :
    exec (.activeClockEdge e) s = .next (({ s with freeCtr := s.freeCtr + 1 } : State).clockEdge e s.freeCtr) := by
  rw [exec_activeClockEdge, execActiveClockEdge]
  simp only [h, Bool.not_true, Bool.false_eq_true, if_false]
  rfl

/-! The synchronisers. -/

theorem syncNext_ne_zero (d key n : Nat) : syncNext d key n ≠ 0 := by
  unfold syncNext
  split
  · decide
  · split
    · split
      · decide
      · decide
    · decide

/-- A synchroniser after the edges: one count on where its line has an edge and its unit is not held. -/
theorem State.syncEdge_get (s : State) (e : FabEdge) (d key : Nat) :
    tget (s.syncEdge e d).fab.sync key 0 =
      if key < 611072 ∧ (foreignLine (s.syncUnit key).2.1 &&
          edgeOn e (s.syncUnit key).2.2.2 (s.syncUnit key).2.1 (s.syncUnit key).2.2.1 && !(s.syncUnit key).1) = true then
        syncNext d key (tget s.fab.sync key 0)
      else tget s.fab.sync key 0 := by
  refine (tget_tupd _ _ (.inl fun i v hv => ?_) key).trans ?_
  · dsimp only at hv
    split at hv
    · obtain rfl := Option.some.inj hv
      exact syncNext_ne_zero _ _ _
    · cases hv
  · by_cases hkey : key < 611072
    · simp only [hkey, if_true, true_and]
      split
      · rfl
      · rfl
    · simp only [hkey, if_false, false_and]

/-! The flip-flops. -/

theorem clockEdge_ff (s : State) (e : FabEdge) (d key : Nat) :
    tget (s.clockEdge e d).fab.ff key none =
      if key < 14680064 then (s.ffEdge (s.syncEdge e d) e d key).getD (tget s.fab.ff key none) else tget s.fab.ff key none := by
  refine tget_tupd _ _ (.inl fun i v hv => ?_) key
  unfold State.ffEdge at hv
  dsimp only at hv
  split at hv
  · obtain rfl := Option.some.inj hv
    exact Option.some_ne_none _
  · cases hv

/-- R56: the flip-flop of a cluster after the edges. -/
theorem clockEdge_flipFlop (s : State) (e : FabEdge) (d : Nat) (g : Fin 57344) (c : Fin 8) (i : Fin 32) :
    tget (s.clockEdge e d).fab.ff (32 * (8 * g.val + c.val) + i.val) none =
      if s.clocked (s.syncEdge e d) e g.val c.val && (ffOf (Config.cluster (s.tileFrames g.val) c.val) i.val).used then
        some (s.ffAfter e.ext d (e.near.contains (8 * g.val + c.val)) g.val c.val i.val)
      else tget s.fab.ff (32 * (8 * g.val + c.val) + i.val) none := by
  have hkey : 32 * (8 * g.val + c.val) + i.val < 14680064 := by omega
  have htile : (32 * (8 * g.val + c.val) + i.val) / 256 = g.val := by omega
  have hcluster : (32 * (8 * g.val + c.val) + i.val) / 32 % 8 = c.val := by omega
  have hnumber : (32 * (8 * g.val + c.val) + i.val) % 32 = i.val := by omega
  rw [clockEdge_ff, if_pos hkey, State.ffEdge]
  rw [htile, hcluster, hnumber]
  split
  · rfl
  · rfl

theorem ite_bool_swap {α : Type} (b : Bool) (x y : α) : (if b = true then x else y) = if b = false then y else x := by
  cases b
  all_goals rfl

/-- R56: the first line that applies, line by line. -/
theorem some_ffAfter (s : State) (ext : List (Nat × Nat)) (d : Nat) (near : Bool) (g c i : Nat) :
    let k := Config.cluster (s.tileFrames g) c
    let f := ffOf k i
    let x := s.inputs ext d g c
    let asr := k.srAsync && k.srRouted && tget s.fab.asr (8 * g + c) false
    some (s.ffAfter ext d near g c i) =
      if (near && k.srAsync && f.obeySr && !asr && Config.nearSr d (32 * (8 * g + c) + i)) = true then some f.srval
      else if (f.obeySr && asr) = true then some f.srval
      else if (f.obeySr && !k.srAsync && x.sr && (!k.srGated || x.ce)) = true then some f.srval
      else if (f.obeyCe && !x.ce) = true then some (s.ffQ g c i)
      else some (ffD k x (clusterOut x.les (s.clusterLes g c k) x.cin) i) := by
  simp only [State.ffAfter, ffNext, apply_ite some]

/-! The memory frames. -/

/-- A frame of a sector, by its row, its half and its place. -/
theorem frame_digits {q a b f : Nat} (ha : a < 7) (hb : b < 8) (hf : f < 1152) :
    let n := 65536 * q + 1152 * (8 * a + b) + f
    n / 65536 = q ∧ n % 65536 = 1152 * (8 * a + b) + f ∧ n % 65536 / 1152 = 8 * a + b ∧ n % 65536 % 1152 = f := by
  dsimp only
  have hmod : (65536 * q + 1152 * (8 * a + b) + f) % 65536 = 1152 * (8 * a + b) + f := by omega
  rw [hmod]
  refine ⟨by omega, rfl, by omega, by omega⟩

theorem frameSector_sectorFrame {sec f : Nat} (hf : f < 1152) : frameSector (sectorFrame sec f) = some sec := by
  obtain ⟨hq, hk, hc, -⟩ := frame_digits (q := 2 * (sec / 16 / 7) + sec % 16 / 8) (Nat.mod_lt (sec / 16) (by decide : 0 < 7))
    (Nat.mod_lt (sec % 16) (by decide : 0 < 8)) hf
  unfold frameSector sectorFrame
  dsimp only
  rw [hc, hk, hq, if_neg (by omega)]
  congr 1
  omega

theorem frameIdx_sectorFrame {sec f : Nat} (hf : f < 1152) : frameIdx (sectorFrame sec f) = f :=
  (frame_digits (Nat.mod_lt (sec / 16) (by decide : 0 < 7)) (Nat.mod_lt (sec % 16) (by decide : 0 < 8)) hf).2.2.2

theorem sectorFrame_lt {sec f : Nat} (hs : sec < 224) (hf : f < 1152) : sectorFrame sec f < 262144 := by
  have hrow : sec / 16 / 7 ≤ 1 := by omega
  have hcol : sec / 16 % 7 ≤ 6 := by omega
  have hhalf : sec % 16 / 8 ≤ 1 := by omega
  have hplace : sec % 16 % 8 ≤ 7 := by omega
  unfold sectorFrame
  generalize sec / 16 / 7 = x at hrow ⊢
  generalize sec / 16 % 7 = y at hcol ⊢
  generalize sec % 16 / 8 = z at hhalf ⊢
  generalize sec % 16 % 8 = w at hplace ⊢
  omega

/-- A frame outside the shell is the frame of its sector with its number. -/
theorem sectorFrame_of_frameSector {n sec : Nat} (h : frameSector n = some sec) : n = sectorFrame sec (frameIdx n) := by
  unfold frameSector at h
  unfold frameIdx sectorFrame
  dsimp only at h
  split at h
  · cases h
  · rename_i hk
    obtain rfl := Option.some.inj h
    have hhalf : n / 65536 % 2 < 2 := Nat.mod_lt _ (by decide)
    have hcol : n % 65536 / 1152 / 8 < 7 := by omega
    have hplace : n % 65536 / 1152 % 8 < 8 := Nat.mod_lt _ (by decide)
    have hrow : (16 * (7 * (n / 65536 / 2) + n % 65536 / 1152 / 8) + 8 * (n / 65536 % 2) + n % 65536 / 1152 % 8) / 16 =
      7 * (n / 65536 / 2) + n % 65536 / 1152 / 8 := by omega
    have hin : (16 * (7 * (n / 65536 / 2) + n % 65536 / 1152 / 8) + 8 * (n / 65536 % 2) + n % 65536 / 1152 % 8) % 16 =
      8 * (n / 65536 % 2) + n % 65536 / 1152 % 8 := by omega
    rw [hrow, hin]
    omega

theorem sector_lt {n sec : Nat} (hn : n < 262144) (h : frameSector n = some sec) : sec < 224 := by
  unfold frameSector at h
  dsimp only at h
  split at h
  · cases h
  · obtain rfl := Option.some.inj h
    have hq : n / 65536 / 2 ≤ 1 := by omega
    have hcol : n % 65536 / 1152 / 8 < 7 := by omega
    have hhalf : n / 65536 % 2 < 2 := Nat.mod_lt _ (by decide)
    have hplace : n % 65536 / 1152 % 8 < 8 := Nat.mod_lt _ (by decide)
    generalize n / 65536 / 2 = x at hq ⊢
    generalize n % 65536 / 1152 / 8 = y at hcol ⊢
    generalize n / 65536 % 2 = z at hhalf ⊢
    generalize n % 65536 / 1152 % 8 = w at hplace ⊢
    omega

theorem frameSector_memFrame (g : Fin 57344) : frameSector (memFrame g.val) = some (g.val / 256) :=
  frameSector_sectorFrame (by omega)

theorem frameIdx_memFrame (g : Fin 57344) : frameIdx (memFrame g.val) = 768 + g.val % 256 :=
  frameIdx_sectorFrame (by omega)

theorem memFrame_lt (g : Fin 57344) : memFrame g.val < 262144 :=
  sectorFrame_lt (by unfold tileSector; omega) (by omega)

/-- A frame with the sector and the number of a memory frame is the memory frame of a tile. -/
theorem eq_memFrame {n sec : Nat} (hn : n < 262144) (hsector : frameSector n = some sec) (hlow : 768 ≤ frameIdx n)
    (hhigh : frameIdx n < 1024) : ∃ g : Fin 57344, n = memFrame g.val := by
  have hsec := sector_lt hn hsector
  refine ⟨⟨256 * sec + (frameIdx n - 768), by omega⟩, (sectorFrame_of_frameSector hsector).trans ?_⟩
  have htile : tileSector (256 * sec + (frameIdx n - 768)) = sec := by unfold tileSector; omega
  have hframe : 768 + (256 * sec + (frameIdx n - 768)) % 256 = frameIdx n := by omega
  rw [memFrame, htile, hframe]

theorem memEdge_memFrame (s t : State) (e : FabEdge) (d : Nat) (g : Fin 57344) :
    s.memEdge t e d (memFrame g.val) =
      if s.frameDyn (memFrame g.val) = true then
        let f := if s.clocked t e g.val 6 then s.masksAfter e.ext d g.val 6 (s.liveFrame (memFrame g.val))
          else s.liveFrame (memFrame g.val)
        some (if s.clocked t e g.val 7 then s.masksAfter e.ext d g.val 7 f else f)
      else none := by
  have hlow : 768 ≤ 768 + g.val % 256 := by omega
  have hhigh : 768 + g.val % 256 < 1024 := by omega
  have htile : 256 * (g.val / 256) + (768 + g.val % 256 - 768) = g.val := by omega
  simp only [State.memEdge, frameSector_memFrame, frameIdx_memFrame, hlow, hhigh, htile, true_and]

theorem memEdge_of_ne (s t : State) (e : FabEdge) (d : Nat) {n : Nat} (hn : n < 262144)
    (h : ∀ g : Fin 57344, n ≠ memFrame g.val) : s.memEdge t e d n = none := by
  unfold State.memEdge
  split
  · rfl
  · rename_i sec hsector
    refine if_neg fun ⟨hlow, hhigh, _⟩ => ?_
    obtain ⟨g, hg⟩ := eq_memFrame hn hsector hlow hhigh
    exact h g hg

/-- An entry beyond the last one set is what it was. -/
theorem tget_tupd_beyond {α : Type} [DecidableEq α] {d : α} {t : Tab α} (n : Nat) (f : Nat → Option α) (e : α) {j : Nat}
    (h : n ≤ j) : tget (tupd n f t d) j e = tget t j e := by
  unfold tupd
  induction n with
  | zero => rfl
  | succ n ih =>
    unfold tupdGo
    split
    · exact (tget_tput_ne _ _ _ _ (by omega)).trans (ih (by omega))
    · exact ih (by omega)

/-- Settles O59, clause by clause. -/
theorem clusterEdgesRun : Obligations.ClusterEdgesRun := by
  unfold Obligations.ClusterEdgesRun
  intro s e
  refine ⟨fun hrunning => ?_, fun hrunning => ⟨_, exec_activeClockEdge_running e hrunning, ?_, fun key => ?_,
    fun g c i => ?_,
    fun hlive g => ?_, fun n hn => ?_⟩⟩
  · simp [exec_activeClockEdge, execActiveClockEdge, hrunning]
  · have honly := execActiveClockEdge_only (pl := [.freeCtr, .cfg, .fab, .slc, .mem,
      .time]) e (List.Subset.refl _) (only.refl _ s)
    rw [← exec_activeClockEdge, exec_activeClockEdge_running e hrunning] at honly
    exact honly _ rfl
  · exact State.syncEdge_get _ e _ key
  · refine (clockEdge_flipFlop _ e _ g c i).trans ?_
    rw [some_ffAfter, ite_bool_swap]
    rfl
  · refine (tget_tupd _ _ (.inr hlive) _).trans ?_
    rw [if_pos (memFrame_lt g), memEdge_memFrame, apply_ite (Option.getD · _)]
    rfl
  · by_cases hlt : n < 262144
    · exact tget_tupd_none _ _ _ (memEdge_of_ne _ _ e _ hlt hn)
    · exact tget_tupd_beyond _ _ _ (Nat.le_of_not_lt hlt)

end Sys2Proof.Machine
end

section
/-! PROOFS. Edges at the wire registers, and an asynchronous SR (R57, R107 to R109, R138, R154, R170, R428). -/

namespace Sys2Proof.Machine

theorem exec_asynchronousSr (tile : Fin 57344) (c : Fin 8) (up : Bool) (src : PortSrc) (s : State) :
    exec (.asynchronousSr tile c up src) s = execAsynchronousSr tile c up src s := rfl

/-- R107: the wire register of a segment after the edges. -/
theorem clockEdge_wire (s : State) (e : FabEdge) (d : Nat) (n : Fin 6881280) :
    tget (s.clockEdge e d).fab.wire n.val none =
      ((s.wireAfter (s.syncEdge e d) e d n.val).map some).getD (tget s.fab.wire n.val none) := by
  refine (tget_tupd _ _ (.inl fun i v hv => ?_) n.val).trans (if_pos n.isLt)
  obtain ⟨b, -, rfl⟩ := Option.map_eq_some_iff.mp hv
  exact Option.some_ne_none b

/-- Entries set one after another from a place on, where a condition holds. -/
theorem tget_foldl_tput {α : Type} [DecidableEq α] {d : α} (p : Nat → Bool) (v : Nat → α) (hv : ∀ i, v i ≠ d) (base n : Nat)
    (t : Tab α) (j : Nat) :
    tget ((List.range n).foldl (fun t i => if p i then tput t (base + i) (v i) d else t) t) j d =
      if base ≤ j ∧ j < base + n ∧ p (j - base) = true then v (j - base) else tget t j d := by
  induction n with
  | zero => exact (if_neg (by omega)).symm
  | succ n ih =>
    rw [List.range_succ, List.foldl_append, List.foldl_cons, List.foldl_nil]
    by_cases hj : j = base + n
    · subst hj
      rw [Nat.add_sub_cancel_left] at ih ⊢
      by_cases hp : p n = true
      · rw [if_pos hp, if_pos ⟨by omega, by omega, hp⟩, tput, if_neg (hv n), tget_tins_same]
      · rw [if_neg hp, if_neg (by tauto), ih, if_neg (by omega)]
    · have hcond : (base ≤ j ∧ j < base + (n + 1) ∧ p (j - base) = true) ↔ (base ≤ j ∧ j < base + n ∧ p (j - base) = true) := by
        constructor
        · exact fun ⟨h, h', hp⟩ => ⟨h, by omega, hp⟩
        · exact fun ⟨h, h', hp⟩ => ⟨h, by omega, hp⟩
      simp only [hcond, ← ih]
      split
      · exact tget_tput_ne _ _ _ _ hj
      · rfl

/-- Whether the fall of a cluster's asynchronous SR leaves its flip-flops at SRVAL (R57). -/
def State.srHolds (s : State) (g c : Nat) : Bool :=
  let k := Config.cluster (s.tileFrames g) c
  k.srAsync && k.srRouted && tget s.fab.asr (8 * g + c) false && !s.inSync (syncCluster g c) k.clk

/-- R57: a flip-flop after the fall of its cluster's asynchronous SR. -/
theorem srFalls_ff (s : State) (g c j : Nat) :
    let k := Config.cluster (s.tileFrames g) c
    let i := j - 32 * (8 * g + c)
    tget (s.srFalls g c).fab.ff j none =
      if s.srHolds g c = true ∧ 32 * (8 * g + c) ≤ j ∧ j < 32 * (8 * g + c) + 32 ∧
          ((ffOf k i).used && (ffOf k i).obeySr) = true then
        some (ffOf k i).srval
      else tget s.fab.ff j none := by
  dsimp only
  by_cases hholds : s.srHolds g c = true
  · have hfalls : s.srFalls g c = _ := if_pos hholds
    rw [hfalls]
    refine (tget_foldl_tput _ _ (fun i => Option.some_ne_none _) _ _ _ _).trans ?_
    simp only [hholds, true_and]
  · have hfalls : s.srFalls g c = s := if_neg hholds
    simp only [hfalls, hholds, false_and, if_false, Bool.false_eq_true]

theorem srFalls_asr (s : State) (g c : Nat) : (s.srFalls g c).fab.asr = s.fab.asr := by
  unfold State.srFalls
  dsimp only
  split
  · rfl
  · rfl

/-- R57: the cluster's flip-flops as the event of its SR leaves them, before the SR itself is kept. -/
def State.srSettled (s : State) (g c : Nat) (up : Bool) : State := if up || s.tileHeld g then s else s.srFalls g c

theorem srSettled_asr (s : State) (g c : Nat) (up : Bool) : (s.srSettled g c up).fab.asr = s.fab.asr := by
  unfold State.srSettled
  split
  · rfl
  · exact srFalls_asr s g c

theorem srSettled_ff (s : State) (g c j : Nat) (up : Bool) :
    let k := Config.cluster (s.tileFrames g) c
    let i := j - 32 * (8 * g + c)
    tget (s.srSettled g c up).fab.ff j none =
      if ((!up && !s.tileHeld g) = true ∧ s.srHolds g c = true) ∧ 32 * (8 * g + c) ≤ j ∧ j < 32 * (8 * g + c) + 32 ∧
          ((ffOf k i).used && (ffOf k i).obeySr) = true then
        some (ffOf k i).srval
      else tget s.fab.ff j none := by
  dsimp only
  unfold State.srSettled
  by_cases hup : (up || s.tileHeld g) = true
  · have hnot : (!up && !s.tileHeld g) = false := by rw [← Bool.not_or, hup]; rfl
    simp only [hup, hnot, if_true, Bool.false_eq_true, false_and, if_false]
  · have hnot : (!up && !s.tileHeld g) = true := by rw [← Bool.not_or, Bool.not_eq_true _ |>.mp hup]; rfl
    rw [if_neg hup, srFalls_ff]
    simp only [hnot, true_and]

theorem exec_asynchronousSr_given (g : Fin 57344) (c : Fin 8) (up : Bool) (s : State) :
    exec (.asynchronousSr g c up .given) s = .next { s.srSettled g c up with
      fab := { (s.srSettled g c up).fab with asr := tput (s.srSettled g c up).fab.asr (8 * g.val + c.val) up false } } := rfl

/-- R57: while its asynchronous SR is 1, a flip-flop that obeys it shows SRVAL once its cluster is out of reset. -/
theorem ffQ_of_asr {s : State} {g c i : Nat} (hheld : s.tileHeld g = false)
    (hsync : s.inSync (syncCluster g c) (Config.cluster (s.tileFrames g) c).clk = false)
    (hused : (ffOf (Config.cluster (s.tileFrames g) c) i).used = true)
    (hobey : (ffOf (Config.cluster (s.tileFrames g) c) i).obeySr = true)
    (hasync : (Config.cluster (s.tileFrames g) c).srAsync = true)
    (hrouted : (Config.cluster (s.tileFrames g) c).srRouted = true) (hasr : tget s.fab.asr (8 * g + c) false = true) :
    s.ffQ g c i = (ffOf (Config.cluster (s.tileFrames g) c) i).srval := by
  simp [State.ffQ, hheld, hsync, hused, hobey, hasync, hrouted, hasr]

theorem tget_tput_true (t : Tab Bool) (k : Nat) : tget (tput t k true false) k false = true := by
  rw [tput, if_neg (by decide), tget_tins_same]

/-- Settles O60, clause by clause. -/
theorem wireEdgesRun : Obligations.WireEdgesRun := by
  unfold Obligations.WireEdgesRun
  intro s
  refine ⟨fun e hrunning => ⟨_, exec_activeClockEdge_running e hrunning, fun n => ?_, rfl, rfl, rfl⟩,
    fun g c up => ⟨_, exec_asynchronousSr_given g c up s, ?_, ?_, fun hup hruns hasync hrouted i hused hobey => ?_,
      fun i => ?_,
      fun i hi => ?_⟩⟩
  · refine (clockEdge_wire _ e _ n).trans ?_
    dsimp only [State.wireAfter]
    rw [apply_ite (Option.map some), apply_ite (Option.getD · _)]
    rfl
  · have hsettled : only [.fab] s (s.srSettled g c up) :=
      ite_only (only.refl _ s) (State.srFalls_only _ _ (List.Subset.refl _) (only.refl _ s))
    exact fab_only _ (List.Subset.refl _) hsettled
  · exact congrArg (tput · _ up false) (srSettled_asr s g.val c.val up)
  · subst hup
    simp only [Bool.and_eq_true, Bool.not_eq_true'] at hruns
    exact ffQ_of_asr hruns.1 hruns.2 hused hobey hasync hrouted (tget_tput_true _ _)
  · refine (srSettled_ff s g.val c.val _ up).trans ?_
    simp only [Nat.add_sub_cancel_left, State.srHolds]
    refine if_congr ?_ rfl rfl
    have hlow : 32 * (8 * g.val + c.val) ≤ 32 * (8 * g.val + c.val) + i.val := Nat.le_add_right _ _
    have hhigh : 32 * (8 * g.val + c.val) + i.val < 32 * (8 * g.val + c.val) + 32 := by omega
    simp only [hlow, hhigh, true_and, Bool.and_eq_true]
    tauto
  · refine (srSettled_ff s g.val c.val i up).trans (if_neg ?_)
    rintro ⟨-, hlow, hhigh, -⟩
    omega

end Sys2Proof.Machine
end

section
/-! PROOFS. Staging, module loads and the start of the firmware. -/

namespace Sys2Proof.Machine

theorem exec_imageSendTimeout (s : State) :
    exec .imageSendTimeout s = execImageSendTimeout s := rfl

theorem exec_stagingEraseReissue (s : State) :
    exec .stagingEraseReissue s = execStagingEraseReissue s := rfl

theorem exec_moduleLoadStart (v : Fin 16) (s : State) :
    exec (.moduleLoadStart v) s = execModuleLoadStart v s := rfl

theorem exec_moduleLoadDone (v : Fin 16) (s : State) :
    exec (.moduleLoadDone v) s = execModuleLoadDone v s := rfl

theorem exec_moduleRegionRelease (v : Fin 16) (s : State) :
    exec (.moduleRegionRelease v) s = execModuleRegionRelease v s := rfl

theorem exec_moduleLoadRestore (v : Fin 16) (s : State) :
    exec (.moduleLoadRestore v) s = execModuleLoadRestore v s := rfl

theorem exec_moduleRestoreDone (v : Fin 16) (s : State) :
    exec (.moduleRestoreDone v) s = execModuleRestoreDone v s := rfl

theorem exec_starterFirmwareStart (copy : Fin 2) (s : State) :
    exec (.starterFirmwareStart copy) s = execStarterFirmwareStart copy s := rfl

/-- Settles O32, clause by clause. -/
theorem imageEventsRun : Obligations.ImageEventsRun := by
  unfold Obligations.ImageEventsRun
  intro s
  dsimp only
  refine ⟨fun o hop hkind hlast hwork => ?_, fun hflight => ⟨fun hwork hop => ?_,
    fun w rest o hwork hop => ⟨fun hsnd => ?_, fun hsnd hresult => ?_, fun hsnd hnRESULT => ?_⟩⟩,
    fun v m hmodHead hvat hphase hmod hunderTest => ?_,
    fun v m o h hmodHead hmod hheader hvat hphase hphase₂ hpos => ⟨fun hmodFault hshadowTaken => ?_,
    fun hmodFault hshadowTaken => ?_, fun c hmodFault => ?_⟩, fun v hmods => ?_, fun v m hfindq => ?_,
    fun v hmods => ?_, fun copy hmode hheld hrst hfw hlock => ?_⟩
  · simp [exec_imageSendTimeout, execImageSendTimeout, hop, hkind, hlast, hwork]
  · simp [exec_stagingEraseReissue, execStagingEraseReissue, State.stageGo, hflight, hwork, hop]
  · simp [exec_stagingEraseReissue, execStagingEraseReissue, State.stageGo, hflight, hwork, hop, hsnd]
  · simp [exec_stagingEraseReissue, execStagingEraseReissue, State.stageGo, hflight, hwork, hop, hsnd, hresult]
  · simp [exec_stagingEraseReissue, execStagingEraseReissue, State.stageGo, hflight, hwork, hop, hsnd, hnRESULT]
  · simp [exec_moduleLoadStart, execModuleLoadStart, hmodHead, hvat, hphase, hmod, hunderTest]
  · rcases hphase with hphase | hphase
    all_goals simp [exec_moduleLoadDone, execModuleLoadDone, hmodHead, hmod, hheader, hvat, hphase, hphase₂, hpos,
      hmodFault, hshadowTaken]
  · rcases hphase with hphase | hphase
    all_goals simp [exec_moduleLoadDone, execModuleLoadDone, hmodHead, hmod, hheader, hvat, hphase, hphase₂, hpos,
      hmodFault, hshadowTaken]
  · rcases hphase with hphase | hphase
    all_goals simp [exec_moduleLoadDone, execModuleLoadDone, hmodHead, hmod, hheader, hvat, hphase, hphase₂, hpos, hmodFault]
  · simp [exec_moduleRegionRelease, execModuleRegionRelease, hmods]
  · simp [exec_moduleLoadRestore, execModuleLoadRestore, hfindq]
  · simp [exec_moduleRestoreDone, execModuleRestoreDone, hmods]
  · simp only [exec_starterFirmwareStart, execStarterFirmwareStart, hmode, hheld, hrst, hfw, hlock,
      apply_ite Host.Outcome.next, if_false, Bool.false_eq_true, Bool.true_eq_false, or_self, not_true, ne_eq,
      Option.isSome_none]

end Sys2Proof.Machine
end

section
/-! PROOFS. Key slots and the life cycle (R544 to R550). -/

namespace Sys2Proof.Machine

theorem exec_keyWrite (e : ImmEnv) (body : List Byte) (s : State) :
    exec (.keyWrite e body) s = execKeyWrite e body s := rfl

theorem exec_keyErase (e : ImmEnv) (body : List Byte) (s : State) :
    exec (.keyErase e body) s = execKeyErase e body s := rfl

theorem exec_keyStatus (e : ImmEnv) (body : List Byte) (s : State) :
    exec (.keyStatus e body) s = execKeyStatus e body s := rfl

theorem exec_advance (e : ImmEnv) (body : List Byte) (s : State) :
    exec (.advance e body) s = execAdvance e body s := rfl

theorem exec_lifeCycleFuseBlown (s : State) :
    exec .lifeCycleFuseBlown s = execLifeCycleFuseBlown s := rfl

theorem exec_keyDeferredComplete (k : Fin 9) (s : State) :
    exec (.keyDeferredComplete k) s = execKeyDeferredComplete k s := rfl

/-- R548: a KEY_OP of the device owner that is received is carried out and answered. -/
theorem State.keyOp_received {s t : State} {e : ImmEnv} {op : Byte} {body : List Byte}
    (hreceive : s.receive false e 0x0042 (op :: body) = (t, true)) (hlength : 3 ≤ body.length)
    (hport : e.port.val = t.devOwner) (f : State → State × Reply) :
    s.keyOp e op body f = (f t).1.finish e 0x0042 (f t).2 := by
  rw [State.keyOp, State.request_received hreceive]
  simp [hlength.not_gt, hport]

/-- R548: the device owner alone has the right. -/
theorem State.keyOp_foreign {s t : State} {e : ImmEnv} {op : Byte} {body : List Byte}
    (hreceive : s.receive false e 0x0042 (op :: body) = (t, true)) (hlength : 3 ≤ body.length)
    (hport : e.port.val ≠ t.devOwner) (f : State → State × Reply) :
    s.keyOp e op body f = t.refuse e 0x0042 0x02 0 0xFF := by
  rw [State.keyOp, State.request_received hreceive]
  simp [hlength.not_gt, hport]

/-- Settles O33, clause by clause. -/
theorem keysRun : Obligations.KeysRun := by
  unfold Obligations.KeysRun
  intro s t e body
  dsimp only
  refine ⟨fun hlength hport => ⟨fun j hreceive hslotBit hdrop h => ?_, fun j hreceive hslotBit hlength₂ => ?_,
    fun j hdefer hfilter => ⟨fun key hkeyAllowed => ?_, fun hkeyAllowed => ?_⟩, fun hreceive hslotBit => ?_,
    fun hreceive hslotBit => ?_, fun hreceive hlength₂ => ?_, fun hreceive hlength₂ hblowing hmayAdvance => ?_,
    fun hreceive hlength₂ hblowing hmayAdvance => ?_⟩, fun hlength hport => ⟨fun hreceive => ?_, fun hreceive => ?_,
    fun hreceive => ?_, fun hreceive => ?_⟩, fun n hblowing => ?_, fun j d hfindq hchecks => ?_⟩
  · rw [exec_keyWrite, execKeyWrite, State.keyOp_received hreceive hlength hport]
    have hpoint : ¬ (j < 4 ∧ p384.on (beNum ((body.drop 3).take 48), beNum ((body.drop 3).drop 48)) = false) :=
      fun ⟨hj, hoff⟩ => Bool.noConfusion ((h hj).symm.trans hoff)
    simp only [hslotBit, hdrop, hpoint, if_false, not_true, ne_eq]
  · rw [exec_keyErase, execKeyErase, State.keyOp_received hreceive hlength hport]
    simp [hslotBit, hlength₂]
  · simp [State.keyChange, hdefer, hfilter, hkeyAllowed]
  · simp [State.keyChange, hdefer, hfilter, hkeyAllowed]
  · rw [exec_keyWrite, execKeyWrite, State.keyOp_received hreceive hlength hport]
    simp [hslotBit]
  · rw [exec_keyErase, execKeyErase, State.keyOp_received hreceive hlength hport]
    simp [hslotBit]
  · rw [exec_keyStatus, execKeyStatus, State.keyOp_received hreceive hlength hport]
    have hform : ¬ body.length ≠ 3 := not_not.mpr hlength₂
    exact (congrArg (fun r : State × Reply => Host.Outcome.next (r.1.finish e 0x0042 r.2)) (if_neg hform)).trans rfl
  · rw [exec_advance, execAdvance, State.keyOp_received hreceive hlength hport]
    simp [hlength₂, hblowing, hmayAdvance]
  · rw [exec_advance, execAdvance, State.keyOp_received hreceive hlength hport]
    simp [hlength₂, hblowing, hmayAdvance]
  · rw [exec_keyWrite, execKeyWrite, State.keyOp_foreign hreceive hlength hport]
  · rw [exec_keyErase, execKeyErase, State.keyOp_foreign hreceive hlength hport]
  · rw [exec_keyStatus, execKeyStatus, State.keyOp_foreign hreceive hlength hport]
  · rw [exec_advance, execAdvance, State.keyOp_foreign hreceive hlength hport]
  · simp [exec_lifeCycleFuseBlown, execLifeCycleFuseBlown, hblowing]
  · simp [exec_keyDeferredComplete, execKeyDeferredComplete, hfindq, hchecks]

end Sys2Proof.Machine
end

section
/-! PROOFS. Reception of a request (R477 to R479, R483, R490). -/

namespace Sys2Proof.Machine



/-- A frame taken with a good CRC and a MAC is judged by its session. -/
theorem State.receive_authenticated {s : State} {bare : Bool} {e : ImmEnv} {code : Nat} {body : List Byte}
    (hframe : s.frameTaken e = true) (hcrc : immCrcOk e code body = true) (hform : immFormed e 1 body = true)
    (hauth : e.auth = true) :
    s.receive bare e code body = (s.bump (MGT.RX_CNT e.port)).acceptReq e code body := by
  simp [State.receive, hframe, hcrc, hform, hauth]

/-- A frame taken with a good CRC and no MAC is judged by the count of such frames. -/
theorem State.receive_bare {s : State} {e : ImmEnv} {code : Nat} {body : List Byte}
    (hframe : s.frameTaken e = true) (hcrc : immCrcOk e code body = true) (hform : immFormed e 1 body = true)
    (hauth : e.auth = false) (hseq : e.seq = 0) (hackno : e.ackno = 0) (hsid : e.sid = 0) (hmac : e.mac.all (· == 0) = true) :
    s.receive true e code body = (s.bump (MGT.RX_CNT e.port)).acceptBare e := by
  simp only [State.receive, hframe, hcrc, hform, hauth, hseq, hackno, hsid, hmac, beq_self_eq_true, Bool.and_self,
    Bool.not_true,
    Bool.false_eq_true, if_false, if_true]

/-- R478: a request of a session whose MAC verifies is judged by its place in the stream. -/
theorem State.acceptReq_verified {s : State} {e : ImmEnv} {code : Nat} {body : List Byte} {y : Session}
    (hmac : (s.macEpoch e code body).isSome = true)
    (hsess : ((s.ackTo e.port e.ackno.toNat).host e.port).sess = some y) :
    let h := e.port.val
    let w := s.ackTo h e.ackno.toNat
    let ahead := (e.seq.toNat + 65536 - y.expSeq) % 65536
    s.acceptReq e code body =
      if ahead = 0 then
        if 256 ≤ y.slots.length then (w.bump (MGT.OOS_CNT h), false)
        else
          (w.setHost h { w.host h with sess := some { y with
            expSeq := (y.expSeq + 1) % 65536, hostEpoch := if y.expSeq = 65535 then y.hostEpoch + 1 else y.hostEpoch,
            slots := y.slots ++ [⟨e.seq.toNat, none⟩], ackDue := true } }, true)
      else if 65280 ≤ ahead then ((w.bump (MGT.DUP_CNT h)).sendAck h, false)
      else (w.bump (MGT.OOS_CNT h), false) := by
  have hsome : (s.macEpoch e code body).isNone = false := by
    rw [← Option.not_isSome, hmac]
    rfl
  simp only [State.acceptReq, hsome, hsess, Bool.false_eq_true, if_false]

/-- Settles O34, clause by clause. -/
theorem requestsReceived : Obligations.RequestsReceived := by
  unfold Obligations.RequestsReceived
  intro s bare e code body
  dsimp only
  refine fun hframeTaken => ⟨fun himmCrcOk => ?_, fun himmCrcOk himmFormed => ⟨fun hauth hmacEpoch => ?_,
    fun hauth hmacEpoch y hsess => ⟨fun hexpSeq hslots => ?_, fun hexpSeq hslots => ?_, fun htoNat => ?_,
    fun htoNat htoNat₂ => ?_⟩, fun hauth hseq hackno hsid hall h => ⟨fun hunauth => ?_, fun hunauth => ?_⟩⟩⟩
  · simp [State.receive, hframeTaken, himmCrcOk]
  · rw [State.receive_authenticated hframeTaken himmCrcOk himmFormed hauth]
    simp [State.acceptReq, hmacEpoch]
  · rw [State.receive_authenticated hframeTaken himmCrcOk himmFormed hauth, State.acceptReq_verified hmacEpoch hsess]
    have hnext : (e.seq.toNat + 65536 - y.expSeq) % 65536 = 0 := by rw [hexpSeq, Nat.add_sub_cancel_left]
    simp only [hnext, hslots.not_ge, if_true, if_false]
  · rw [State.receive_authenticated hframeTaken himmCrcOk himmFormed hauth, State.acceptReq_verified hmacEpoch hsess]
    have hnext : (e.seq.toNat + 65536 - y.expSeq) % 65536 = 0 := by rw [hexpSeq, Nat.add_sub_cancel_left]
    simp only [hnext, hslots, if_true]
  · rw [State.receive_authenticated hframeTaken himmCrcOk himmFormed hauth, State.acceptReq_verified hmacEpoch hsess]
    have hnext : (e.seq.toNat + 65536 - y.expSeq) % 65536 ≠ 0 := by omega
    simp only [if_neg hnext, htoNat, if_true]
  · rw [State.receive_authenticated hframeTaken himmCrcOk himmFormed hauth, State.acceptReq_verified hmacEpoch hsess]
    simp only [if_neg htoNat.ne', htoNat₂.not_ge, if_false]
  · subst h
    rw [State.receive_bare hframeTaken himmCrcOk himmFormed hauth hseq hackno hsid hall]
    simp [State.acceptBare, hunauth]
  · subst h
    rw [State.receive_bare hframeTaken himmCrcOk himmFormed hauth hseq hackno hsid hall]
    simp [State.acceptBare, hunauth.not_gt]

end Sys2Proof.Machine
end

section
/-! PROOFS. A request that is not received (R479, R314). -/

namespace Sys2Proof.Machine

theorem exec_sessionClose (e : ImmEnv) (body : List Byte) (s : State) :
    exec (.sessionClose e body) s = execSessionClose e body s := rfl

/-- The requests whose accesses the Starter issues. -/
def starterCodes : List Nat := [0x10, 0x11, 0x12, 0x13, 0x63, 0x64]

/-- A request, by its code, its body and its command, that does nothing where it is not received or must wait. -/
def UnreceivedDoesNothing (s : State) (e : ImmEnv) (x : Bool × Nat × List Byte × Instr) : Prop :=
  (x.2.1 ∉ starterCodes ∨ s.initHeld ID.starter = false → (s.receive x.1 e x.2.1 x.2.2.1).2 = false →
    exec x.2.2.2 s = .next (s.receive x.1 e x.2.1 x.2.2.1).1) ∧
  (x.2.1 ∈ starterCodes → s.initHeld ID.starter = true → exec x.2.2.2 s = .next s)

theorem State.request_of_not {s : State} {bare : Bool} {e : ImmEnv} {code : Nat} {body : List Byte}
    (h : (s.receive bare e code body).2 = false) (f : State → State × Reply) :
    s.request bare e code body f = (s.receive bare e code body).1 :=
  State.request_unreceived (Prod.ext rfl h) f

theorem unreceived_request {s : State} {e : ImmEnv} {bare : Bool} {code : Nat} {body : List Byte} {c : Instr}
    {f : State → State × Reply} (hcode : code ∉ starterCodes) (h : exec c s = .next (s.request bare e code body f)) :
    UnreceivedDoesNothing s e (bare, code, body, c) :=
  ⟨fun _ hnot => by rw [h, State.request_of_not hnot], fun hin => absurd hin hcode⟩

theorem unreceived_accessRequest {s : State} {e : ImmEnv} {code : Nat} {body : List Byte} {c : Instr}
    {f : State → State × Reply} (hcode : code ∈ starterCodes) (h : exec c s = .next (s.accessRequest e code body f)) :
    UnreceivedDoesNothing s e (false, code, body, c) := by
  refine ⟨fun hfree hnot => ?_, fun _ hheld => ?_⟩
  · have hfree : s.initHeld ID.starter = false := hfree.resolve_left fun hout => hout hcode
    rw [h, State.accessRequest, if_neg (by rw [hfree]; decide)]
    rw [State.request_of_not hnot]
  · rw [h, State.accessRequest, if_pos hheld]

theorem unreceived_sessionClose (s : State) (e : ImmEnv) (body : List Byte) :
    UnreceivedDoesNothing s e (false, 0x0004, body, .sessionClose e body) := by
  refine ⟨fun _ hnot => ?_, fun hin => ?_⟩
  · dsimp only at hnot ⊢
    rw [exec_sessionClose, execSessionClose, hnot]
    rfl
  · dsimp only at hin
    exact absurd hin (by decide)

/-- Settles O35: each request's command starts with its reception,
  and those of `starterCodes` with the Starter's initiator. -/
theorem unreceivedRequestsDoNothing : Obligations.UnreceivedRequestsDoNothing := by
  unfold Obligations.UnreceivedRequestsDoNothing
  intro s e body k bare code b c hmem
  refine (?_ : ∀ x ∈ _, UnreceivedDoesNothing s e x) (bare, code, b, c) hmem
  simp only [List.forall_mem_cons, List.not_mem_nil, false_implies, implies_true, and_true]
  refine ⟨?_, ?_, unreceived_sessionClose s e body, unreceived_accessRequest (by decide) rfl,
    unreceived_accessRequest (by decide) rfl, unreceived_accessRequest (by decide) rfl,
    unreceived_accessRequest (by decide) rfl, ?_, ?_, ?_, ?_, ?_, ?_, ?_, ?_, ?_, ?_, ?_, ?_, ?_, ?_, ?_, ?_, ?_, ?_,
    ?_, ?_, ?_, ?_, ?_, ?_, ?_, ?_, ?_, ?_, unreceived_accessRequest (by decide) rfl,
    unreceived_accessRequest (by decide) rfl, ?_, ?_, ?_, ?_, ?_, ?_⟩
  all_goals exact unreceived_request (by decide) rfl

end Sys2Proof.Machine
end

section
/-! PROOFS. Requests of a session. -/

namespace Sys2Proof.Machine

theorem exec_identify (e : ImmEnv) (body : List Byte) (s : State) :
    exec (.identify e body) s = execIdentify e body s := rfl

theorem exec_sessionInit (e : ImmEnv) (body : List Byte) (s : State) :
    exec (.sessionInit e body) s = execSessionInit e body s := rfl

theorem exec_sessionFinish (e : ImmEnv) (body : List Byte) (s : State) :
    exec (.sessionFinish e body) s = execSessionFinish e body s := rfl

theorem exec_regRd (e : ImmEnv) (body : List Byte) (s : State) :
    exec (.regRd e body) s = execRegRd e body s := rfl

theorem exec_regWr (e : ImmEnv) (body : List Byte) (s : State) :
    exec (.regWr e body) s = execRegWr e body s := rfl

theorem exec_memRd (e : ImmEnv) (body : List Byte) (s : State) :
    exec (.memRd e body) s = execMemRd e body s := rfl

theorem exec_memWr (e : ImmEnv) (body : List Byte) (s : State) :
    exec (.memWr e body) s = execMemWr e body s := rfl

theorem exec_stats (e : ImmEnv) (body : List Byte) (s : State) :
    exec (.stats e body) s = execStats e body s := rfl

theorem exec_planeOp (e : ImmEnv) (body : List Byte) (s : State) :
    exec (.planeOp e body) s = execPlaneOp e body s := rfl

theorem exec_immVatReset (e : ImmEnv) (body : List Byte) (s : State) :
    exec (.immVatReset e body) s = execImmVatReset e body s := rfl

theorem exec_immReset (e : ImmEnv) (body : List Byte) (s : State) :
    exec (.immReset e body) s = execImmReset e body s := rfl

theorem exec_immPower (e : ImmEnv) (body : List Byte) (s : State) :
    exec (.immPower e body) s = execImmPower e body s := rfl

theorem exec_logRead (e : ImmEnv) (body : List Byte) (s : State) :
    exec (.logRead e body) s = execLogRead e body s := rfl

/-- A request whose accesses the Starter issues is carried out where its initiator can send. -/
theorem State.accessRequest_received {s t : State} {e : ImmEnv} {code : Nat} {body : List Byte}
    (hfree : s.initHeld ID.starter = false) (h : s.receive false e code body = (t, true)) (f : State → State × Reply) :
    s.accessRequest e code body f = (f t).1.finish e code (f t).2 := by
  rw [State.accessRequest, if_neg (by rw [hfree]; decide), State.request_received h]

/-- R522: a PLANE_OP is answered by what its operation came to. -/
theorem planeOp_answer (t q : State) (e : ImmEnv) (r : State × Nat × Nat) :
    let a : State × Reply := if r.2.1 = 0 ∨ r.2.1 = 0x0A then (r.1, .ok 0 [])
      else if r.2.1 = 0x0D then (q, .no 0x06 t.mode r.2.2) else (q, .no 0x03 r.2.1 r.2.2)
    (.next (a.1.finish e 0x0030 a.2) : Host.Outcome State Fault Refusal) =
      if r.2.1 = 0 ∨ r.2.1 = 0x0A then .next (r.1.respondTo e 0x0030 0 [])
      else .next (q.refuse e 0x0030 (if r.2.1 = 0x0D then 0x06 else 0x03) (if r.2.1 = 0x0D then t.mode else r.2.1) r.2.2) := by
  dsimp only
  split
  · rfl
  · split
    · rfl
    · rfl

/-- R522: a PLANE_OP in good form and with the right over its vats. -/
theorem exec_planeOp_formed {s t : State} {e : ImmEnv} {body : List Byte}
    (hreceive : s.receive false e 0x0030 body = (t, true)) (hlength : body.length = 16)
    (hop : [1, 2, 3, 4, 5, 8, 9].contains (field body 0 1) = true) (hbank : ¬ (field body 0 1 = OP.arm ∧ 8 ≤ field body 1 1))
    (hwindow : field body 4 2 ≤ 60000) (htime : ¬ (field body 0 1 = OP.arm ∧ 2 ^ 30 ≤ field body 12 4))
    (howner : ∀ x ∈ maskVats (field body 2 2), t.ownerOf x = e.port.val) :
    exec (.planeOp e body) s =
      let op := field body 0 1
      let vats := maskVats (field body 2 2)
      let a := if op = OP.arm then t.setArm vats (field body 1 1) (field body 6 6) (field body 12 4) else t
      let u := if op = OP.activate ∨ op = OP.arm then a.setWins vats (field body 4 2) else a
      let r := u.orderOp op vats 0
      let refusal := (t.wr CFG.OP_VATS.VATS (field body 2 2)).opStat r.2.1 r.2.2
      if r.2.1 = 0 ∨ r.2.1 = 0x0A then .next (r.1.respondTo e 0x0030 0 [])
      else .next (refusal.refuse e 0x0030 (if r.2.1 = 0x0D then 0x06 else 0x03) (if r.2.1 = 0x0D then t.mode else r.2.1) r.2.2) := by
  have hright : ((maskVats (field body 2 2)).any fun v => t.ownerOf v != e.port.val) = false := by
    simpa using howner
  rw [exec_planeOp, execPlaneOp, State.request_received hreceive]
  simp only [hlength, hop, if_neg hbank, hwindow.not_gt, if_neg htime, hright, not_true, Bool.not_true, Bool.false_eq_true,
    if_false, ne_eq]
  exact planeOp_answer t _ e _

/-- Settles O36, clause by clause. -/
theorem requestsRun : Obligations.RequestsRun := by
  unfold Obligations.RequestsRun
  intro s t e body
  dsimp only
  refine ⟨fun hreceive => ⟨fun hlength => ?_, fun hlength => ?_⟩,
    fun hreceive => ⟨fun hk z hlength hsecretOf hecdhP256 => ?_, fun hlength hsecretOf => ?_, fun hlength => ?_⟩,
    fun x hhs htoNat hseq himmMacOk hframeTaken himmCrcOk himmFormed hauth => ⟨fun htake => ?_, fun htake => ?_⟩,
    fun hhs hreceive => ?_, fun hreceive => ⟨fun h => ?_, fun h => ?_⟩,
    fun hinitHeld hreceive => ⟨fun hregForm hownsVat => ?_, fun hregForm hownsVat => ?_, fun i hregForm => ?_⟩,
    fun hinitHeld hreceive => ⟨fun hregForm hownsVat => ?_, fun hregForm hownsVat => ?_, fun i hregForm => ?_⟩,
    fun hinitHeld hreceive => ⟨fun hmemForm hownsVat hcelBarsImm => ?_, fun hmemForm hownsVat hcelBarsImm => ?_,
    fun hmemForm hownsVat => ?_, fun i hmemForm => ?_⟩, fun hinitHeld hreceive => ⟨fun hmemForm hownsVat => ?_,
    fun hmemForm hownsVat => ?_, fun i hmemForm => ?_⟩,
    fun hreceive hlength hfield => ⟨fun l hownsVat hstatsOf => ?_, fun hownsVat hstatsOf => ?_, fun hownsVat => ?_⟩,
    fun hreceive hlength hmem hfield h => ⟨fun hfst => ?_, fun hfst hfst₂ => ?_⟩,
    fun hreceive hlength hfield hfield₂ hfield₃ hfield₄ h => ⟨fun hfst => ?_, fun hfst hfst₂ => ?_⟩,
    fun hreceive hlength hfield hfield₂ hfield₃ hfield₄ => ⟨fun hownsVat hfield₅ => ?_, fun hownsVat hfield₅ => ?_,
    fun hownsVat => ?_⟩, fun hreceive hlength hfield => ⟨fun hport hlateAct => ?_, fun hport hlateAct => ?_,
    fun hport => ?_⟩, fun hreceive hlength hfield hfield₂ => ⟨fun hport hmode hlateAct hpowerRefused => ?_,
    fun hport hmode hmode₂ => ?_, fun hport => ?_⟩, fun hreceive hlength hfield hfield₂ hfield₃ => ⟨fun h => ?_,
    fun hfield₄ hport => ?_⟩⟩
  · rw [exec_identify, execIdentify, State.request_received hreceive]
    simp [hlength]
  · rw [exec_identify, execIdentify, State.request_received hreceive]
    simp [hlength]
  · rw [exec_sessionInit, execSessionInit, State.request_received hreceive]
    simp [hlength, hsecretOf, hecdhP256]
    rfl
  · rw [exec_sessionInit, execSessionInit, State.request_received hreceive]
    simp [hlength, hsecretOf]
  · rw [exec_sessionInit, execSessionInit, State.request_received hreceive]
    simp [hlength]
  · have hmine : e.sid.toNat = x.sid ∧ e.seq = 0 ∧ immMacOk e 0x0003 body (streamKey x.k0 1) 0 = true := ⟨htoNat, hseq,
      himmMacOk⟩
    simp only [exec_sessionFinish, execSessionFinish, hhs, hmine, hframeTaken, himmCrcOk, himmFormed, hauth, if_pos htake,
      if_true, if_false, Bool.false_eq_true, and_self, Bool.or_self, Bool.not_true]
  · have hmine : e.sid.toNat = x.sid ∧ e.seq = 0 ∧ immMacOk e 0x0003 body (streamKey x.k0 1) 0 = true := ⟨htoNat, hseq,
      himmMacOk⟩
    simp only [exec_sessionFinish, execSessionFinish, hhs, hmine, hframeTaken, himmCrcOk, himmFormed, hauth, if_neg htake,
      if_true, if_false, Bool.false_eq_true, and_self, Bool.or_self, Bool.not_true]
  · rw [exec_sessionFinish, execSessionFinish, State.request_received hreceive]
    simp [hhs]
  · simp only [exec_sessionClose, execSessionClose, hreceive, if_neg (not_not.mpr h), if_false, Bool.false_eq_true,
      Bool.not_true, ne_eq]
  · simp [exec_sessionClose, execSessionClose, hreceive, h]
  · rw [exec_regRd, execRegRd, State.accessRequest_received hinitHeld hreceive]
    simp [hregForm, hownsVat]
  · rw [exec_regRd, execRegRd, State.accessRequest_received hinitHeld hreceive]
    simp [hregForm, hownsVat]
  · rw [exec_regRd, execRegRd, State.accessRequest_received hinitHeld hreceive]
    simp [hregForm]
  · rw [exec_regWr, execRegWr, State.accessRequest_received hinitHeld hreceive]
    simp [hregForm, hownsVat]
  · rw [exec_regWr, execRegWr, State.accessRequest_received hinitHeld hreceive]
    simp [hregForm, hownsVat]
  · rw [exec_regWr, execRegWr, State.accessRequest_received hinitHeld hreceive]
    simp [hregForm]
  · rw [exec_memRd, execMemRd, State.accessRequest_received hinitHeld hreceive]
    simp [hmemForm, hownsVat, hcelBarsImm]
  · rw [exec_memRd, execMemRd, State.accessRequest_received hinitHeld hreceive]
    simp [hmemForm, hownsVat, hcelBarsImm]
  · rw [exec_memRd, execMemRd, State.accessRequest_received hinitHeld hreceive]
    simp [hmemForm, hownsVat]
  · rw [exec_memRd, execMemRd, State.accessRequest_received hinitHeld hreceive]
    simp [hmemForm]
  · rw [exec_memWr, execMemWr, State.accessRequest_received hinitHeld hreceive]
    simp [hmemForm, hownsVat]
  · rw [exec_memWr, execMemWr, State.accessRequest_received hinitHeld hreceive]
    simp [hmemForm, hownsVat]
  · rw [exec_memWr, execMemWr, State.accessRequest_received hinitHeld hreceive]
    simp [hmemForm]
  · rw [exec_stats, execStats, State.request_received hreceive]
    simp [hlength, hfield.not_ge, hownsVat, hstatsOf]
  · rw [exec_stats, execStats, State.request_received hreceive]
    simp [hlength, hfield.not_ge, hownsVat, hstatsOf]
  · rw [exec_stats, execStats, State.request_received hreceive]
    simp [hlength, hfield.not_ge, hownsVat]
  · have hop : [1, 2, 3, 4, 5, 8, 9].contains (field body 0 1) = true := 
      List.contains_iff_mem.mpr ((by decide : [1, 2, 3, 5, 8, 9] ⊆ [1, 2, 3, 4, 5, 8, 9]) hmem)
    have harm : field body 0 1 ≠ OP.arm := by rintro h4; rw [h4] at hmem; revert hmem; decide
    rw [exec_planeOp_formed hreceive hlength hop (fun h => harm h.1) hfield (fun h => harm h.1) h]
    have hactivate : OP.activate = 1 := rfl
    simp only [harm, or_false, hactivate, if_pos hfst, if_false, or_false]
  · have hop : [1, 2, 3, 4, 5, 8, 9].contains (field body 0 1) = true := 
      List.contains_iff_mem.mpr ((by decide : [1, 2, 3, 5, 8, 9] ⊆ [1, 2, 3, 4, 5, 8, 9]) hmem)
    have harm : field body 0 1 ≠ OP.arm := by rintro h4; rw [h4] at hmem; revert hmem; decide
    rw [exec_planeOp_formed hreceive hlength hop (fun h => harm h.1) hfield (fun h => harm h.1) h]
    have hactivate : OP.activate = 1 := rfl
    simp only [harm, or_false, hactivate, if_neg (not_or.mpr ⟨hfst, hfst₂⟩), if_false, or_false]
  · have hop : [1, 2, 3, 4, 5, 8, 9].contains (field body 0 1) = true := by rw [hfield]; decide
    rw [exec_planeOp_formed hreceive hlength hop (fun h => h.2.not_gt hfield₂) hfield₃ (fun h => h.2.not_gt hfield₄) h]
    have hbank : OP.arm = 4 := rfl
    simp only [hbank, hfield, or_true, if_pos hfst, if_true, or_true]
  · have hop : [1, 2, 3, 4, 5, 8, 9].contains (field body 0 1) = true := by rw [hfield]; decide
    rw [exec_planeOp_formed hreceive hlength hop (fun h => h.2.not_gt hfield₂) hfield₃ (fun h => h.2.not_gt hfield₄) h]
    have hbank : OP.arm = 4 := rfl
    simp only [hbank, hfield, or_true, if_neg (not_or.mpr ⟨hfst, hfst₂⟩), if_true, or_true]
  · rw [exec_immVatReset, execImmVatReset, State.request_received hreceive]
    simp only [hlength, hfield.not_ge, hfield₂.not_ge, (Nat.pos_iff_ne_zero.mp hfield₃), hfield₄.not_gt, hownsVat,
      if_neg hfield₅, State.finish_ok, if_false, Bool.false_eq_true, or_self, not_true, Bool.not_true, ne_eq]
  · rw [exec_immVatReset, execImmVatReset, State.request_received hreceive]
    simp only [hlength, hfield.not_ge, hfield₂.not_ge, (Nat.pos_iff_ne_zero.mp hfield₃), hfield₄.not_gt, hownsVat,
      if_pos hfield₅, State.finish_no, if_false, Bool.false_eq_true, or_self, not_true, Bool.not_true, ne_eq]
  · rw [exec_immVatReset, execImmVatReset, State.request_received hreceive]
    simp [hlength, hfield.not_ge, hfield₂.not_ge, (Nat.pos_iff_ne_zero.mp hfield₃), hfield₄.not_gt, hownsVat]
  · rw [exec_immReset, execImmReset, State.request_received hreceive]
    rcases hfield with hfield | hfield
    all_goals simp [hlength, hfield, hport, hlateAct]
  · rw [exec_immReset, execImmReset, State.request_received hreceive]
    rcases hfield with hfield | hfield
    all_goals simp [hlength, hfield, hport, hlateAct]
  · rw [exec_immReset, execImmReset, State.request_received hreceive]
    rcases hfield with hfield | hfield
    all_goals simp [hlength, hfield, hport]
  · rw [exec_immPower, execImmPower, State.request_received hreceive]
    rcases hmode with hmode | hmode
    all_goals simp [hlength, (Nat.pos_iff_ne_zero.mp hfield), hfield₂.not_gt, hport, hmode, hlateAct, hpowerRefused]
  · rw [exec_immPower, execImmPower, State.request_received hreceive]
    simp [hlength, (Nat.pos_iff_ne_zero.mp hfield), hfield₂.not_gt, hport, hmode, hmode₂]
  · rw [exec_immPower, execImmPower, State.request_received hreceive]
    simp [hlength, (Nat.pos_iff_ne_zero.mp hfield), hfield₂.not_gt, hport]
  · rw [exec_logRead, execLogRead, State.request_received hreceive]
    have hright : ¬ (field body 0 1 = 1 ∧ e.port.val ≠ t.devOwner) := fun hx => hx.2 (h hx.1)
    simp only [hlength, hfield.not_ge, (Nat.pos_iff_ne_zero.mp hfield₂), hfield₃.not_gt, hright, State.finish_ok, if_false,
      or_self, not_true, ne_eq]
  · rw [exec_logRead, execLogRead, State.request_received hreceive]
    simp [hlength, (Nat.pos_iff_ne_zero.mp hfield₂), hfield₃.not_gt, hfield₄, hport]

end Sys2Proof.Machine
end

section
/-! PROOFS. The management link's own events. -/

namespace Sys2Proof.Machine

theorem exec_immAck (e : ImmEnv) (s : State) :
    exec (.immAck e) s = execImmAck e s := rfl

theorem exec_immRetransmitExpiry (h : Fin 4) (s : State) :
    exec (.immRetransmitExpiry h) s = execImmRetransmitExpiry h s := rfl

theorem exec_standaloneAckTimer (h : Fin 4) (s : State) :
    exec (.standaloneAckTimer h) s = execStandaloneAckTimer h s := rfl

theorem exec_sessionIdleTimeout (h : Fin 4) (s : State) :
    exec (.sessionIdleTimeout h) s = execSessionIdleTimeout h s := rfl

theorem exec_refusalResponse (h : Fin 4) (s : State) :
    exec (.refusalResponse h) s = execRefusalResponse h s := rfl

theorem exec_eventSend (h : Fin 4) (s : State) :
    exec (.eventSend h) s = execEventSend h s := rfl

theorem exec_eventsLostSend (h : Fin 4) (s : State) :
    exec (.eventsLostSend h) s = execEventsLostSend h s := rfl

theorem exec_mpRateAlternate (h : Fin 4) (s : State) :
    exec (.mpRateAlternate h) s = execMpRateAlternate h s := rfl

theorem exec_smbusStatusRead (s : State) :
    exec .smbusStatusRead s = execSmbusStatusRead s := rfl

theorem exec_smbusLastgaspRead (hi : Bool) (s : State) :
    exec (.smbusLastgaspRead hi) s = execSmbusLastgaspRead hi s := rfl

/-- Settles O37, clause by clause. -/
theorem managementLinkRuns : Obligations.ManagementLinkRuns := by
  unfold Obligations.ManagementLinkRuns
  intro s h
  dsimp only
  refine ⟨fun e hframeTaken => ⟨fun himmCrcOk himmFormed hauth hseq hmacEpoch => ?_,
    fun himmCrcOk himmFormed hauth hseq hmacEpoch => ?_, fun himmCrcOk => ?_⟩, fun e hframeTaken => ?_,
    fun y hsess hunacked => ⟨fun hexpiries => ?_, fun hexpiries => ?_⟩, fun y hsess => ⟨fun hackDue => ?_, ?_⟩,
    fun r rs hrefusing => ⟨fun hauth => ?_, fun y hauth hsess => ?_⟩, fun y ev hsess hnextEvent hevents => ?_,
    fun y hsess hevents => ⟨?_, ?_⟩, fun y l hsess hloss hevents => ?_, fun hfw hen hrate hlink => ?_,
    fun hpowered => ?_, fun hi hpowered => ?_, fun hi hpowered => ⟨?_, ?_⟩⟩
  · have hknown : ((s.bump (MGT.RX_CNT e.port)).macEpoch e 0 []).isNone = false := by
      rw [← Option.not_isSome, hmacEpoch]
      rfl
    simp [exec_immAck, execImmAck, hframeTaken, himmCrcOk, himmFormed, hauth, hseq, hknown]
  · simp [exec_immAck, execImmAck, hframeTaken, himmCrcOk, himmFormed, hauth, hseq, hmacEpoch]
  · simp [exec_immAck, execImmAck, hframeTaken, himmCrcOk]
  · simp [exec_immAck, execImmAck, hframeTaken]
  · simp [exec_immRetransmitExpiry, execImmRetransmitExpiry, hsess, hunacked, hexpiries]
  · simp [exec_immRetransmitExpiry, execImmRetransmitExpiry, hsess, hunacked, hexpiries]
  · simp [exec_standaloneAckTimer, execStandaloneAckTimer, hsess, hackDue]
  · simp [exec_sessionIdleTimeout, execSessionIdleTimeout]
  · simp [exec_refusalResponse, execRefusalResponse, hrefusing, hauth]
  · simp [exec_refusalResponse, execRefusalResponse, hrefusing, hauth, hsess]
  · simp [exec_eventSend, execEventSend, hsess, hnextEvent, hevents]
  · cases hnext : (s.host h).nextEvent
    all_goals simp [exec_eventSend, execEventSend, hsess, hevents, hnext]
  · cases hloss : (s.host h).loss
    all_goals simp [exec_eventsLostSend, execEventsLostSend, hsess, hevents, hloss]
  · simp [exec_eventsLostSend, execEventsLostSend, hsess, hloss, hevents]
  · simp [exec_mpRateAlternate, execMpRateAlternate, hfw, hen, hrate, hlink]
  · simp [exec_smbusStatusRead, execSmbusStatusRead, hpowered]
  · simp [exec_smbusLastgaspRead, execSmbusLastgaspRead, hpowered]
  · simp [exec_smbusStatusRead, execSmbusStatusRead, hpowered]
  · simp [exec_smbusLastgaspRead, execSmbusLastgaspRead, hpowered]

end Sys2Proof.Machine
end

section
/-! PROOFS. The debug connection and its requests (R500 to R505). -/

namespace Sys2Proof.Machine

theorem exec_dbgOpen (e : ImmEnv) (body : List Byte) (s : State) :
    exec (.dbgOpen e body) s = execDbgOpen e body s := rfl

theorem exec_dbgAuth (e : ImmEnv) (body : List Byte) (s : State) :
    exec (.dbgAuth e body) s = execDbgAuth e body s := rfl

theorem exec_dbgChallengeTimeout (s : State) :
    exec .dbgChallengeTimeout s = execDbgChallengeTimeout s := rfl

theorem exec_dbgClose (e : ImmEnv) (body : List Byte) (s : State) :
    exec (.dbgClose e body) s = execDbgClose e body s := rfl

theorem exec_dbgRd (e : ImmEnv) (body : List Byte) (s : State) :
    exec (.dbgRd e body) s = execDbgRd e body s := rfl

theorem exec_dbgWr (e : ImmEnv) (body : List Byte) (s : State) :
    exec (.dbgWr e body) s = execDbgWr e body s := rfl

/-- Settles O38, clause by clause. -/
theorem debugConnectionRuns : Obligations.DebugConnectionRuns := by
  unfold Obligations.DebugConnectionRuns
  intro s t e body
  dsimp only
  refine ⟨fun hreceive => ⟨fun hlength => ?_, fun hlength hfield => ⟨fun hconn => ?_, fun hconn hchal hlock => ?_⟩⟩,
    fun hreceive => ⟨fun hlength => ?_, fun hlength hchal => ?_, fun g scope c hlength hchal => ⟨fun hport => ?_,
    fun hport hsecretOf => ?_, fun dk hport hsecretOf hdbgResp => ?_, fun dk hport hsecretOf hdbgResp => ?_⟩⟩, ?_,
    fun hreceive => ⟨fun h => ?_, fun h hmap => ?_, fun h hmap => ?_⟩,
    fun hinitHeld hreceive => ⟨fun i hdbgForm => ?_, fun hdbgForm hdbgMay => ?_,
    fun hdbgForm hdbgMay => ⟨fun hfield => ?_, fun hfield hcelBarsImm => ?_, fun hfield hcelBarsImm => ?_⟩⟩,
    fun hinitHeld hreceive => ⟨fun i hdbgForm => ?_, fun hdbgForm hdbgMay => ?_,
    fun hdbgForm hdbgMay => ⟨fun hfield => ?_, fun hfield => ?_⟩⟩⟩
  · rw [exec_dbgOpen, execDbgOpen, State.request_received hreceive]
    simp [hlength]
  · rw [exec_dbgOpen, execDbgOpen, State.request_received hreceive]
    rcases hconn with hconn | hconn | hconn
    all_goals simp [hlength, hfield.not_ge, hconn]
  · rw [exec_dbgOpen, execDbgOpen, State.request_received hreceive]
    simp only [hlength, hfield.not_ge, hconn, hchal, hlock, State.fresh, State.finish_ok, if_false, Bool.false_eq_true,
      or_self, not_true, Bool.or_self, ne_eq, Option.isSome_none]
  · rw [exec_dbgAuth, execDbgAuth, State.request_received hreceive]
    simp [hlength]
  · rw [exec_dbgAuth, execDbgAuth, State.request_received hreceive]
    simp [hlength, hchal]
  · rw [exec_dbgAuth, execDbgAuth, State.request_received hreceive]
    simp [hlength, hchal, hport]
  · rw [exec_dbgAuth, execDbgAuth, State.request_received hreceive]
    simp [hlength, hchal, hport, hsecretOf]
  · rw [exec_dbgAuth, execDbgAuth, State.request_received hreceive]
    simp only [hlength, hchal, hport, hsecretOf, if_neg hdbgResp, if_false, not_true, ne_eq]
    rfl
  · rw [exec_dbgAuth, execDbgAuth, State.request_received hreceive]
    simp only [hlength, hchal, hport, hsecretOf, if_pos hdbgResp, if_false, not_true, ne_eq]
    rfl
  · simp [exec_dbgChallengeTimeout, execDbgChallengeTimeout]
    rfl
  · rw [exec_dbgClose, execDbgClose, State.request_received hreceive]
    simp [h]
  · rw [exec_dbgClose, execDbgClose, State.request_received hreceive]
    simp [h, hmap]
  · rw [exec_dbgClose, execDbgClose, State.request_received hreceive]
    simp [h, hmap]
  · rw [exec_dbgRd, execDbgRd, State.accessRequest_received hinitHeld hreceive]
    simp [hdbgForm]
  · rw [exec_dbgRd, execDbgRd, State.accessRequest_received hinitHeld hreceive]
    simp [hdbgForm, hdbgMay]
  · rw [exec_dbgRd, execDbgRd, State.accessRequest_received hinitHeld hreceive]
    simp [hdbgForm, hdbgMay, hfield]
  · rw [exec_dbgRd, execDbgRd, State.accessRequest_received hinitHeld hreceive]
    simp [hdbgForm, hdbgMay, hfield, hcelBarsImm]
  · rw [exec_dbgRd, execDbgRd, State.accessRequest_received hinitHeld hreceive]
    simp [hdbgForm, hdbgMay, hfield, hcelBarsImm]
  · rw [exec_dbgWr, execDbgWr, State.accessRequest_received hinitHeld hreceive]
    simp [hdbgForm]
  · rw [exec_dbgWr, execDbgWr, State.accessRequest_received hinitHeld hreceive]
    simp [hdbgForm, hdbgMay]
  · rw [exec_dbgWr, execDbgWr, State.accessRequest_received hinitHeld hreceive]
    simp [hdbgForm, hdbgMay, hfield]
  · rw [exec_dbgWr, execDbgWr, State.accessRequest_received hinitHeld hreceive]
    simp [hdbgForm, hdbgMay, hfield]

end Sys2Proof.Machine
end

section
/-! PROOFS. Processors under the Yapin monitor (R503 to R505). -/

namespace Sys2Proof.Machine

theorem exec_dbgRunHalt (e : ImmEnv) (core : Byte) (s : State) :
    exec (.dbgRunHalt e core) s = execDbgRunHalt e core s := rfl

theorem exec_dbgRunResume (e : ImmEnv) (core : Byte) (s : State) :
    exec (.dbgRunResume e core) s = execDbgRunResume e core s := rfl

theorem exec_dbgRunStep (e : ImmEnv) (core : Byte) (s : State) :
    exec (.dbgRunStep e core) s = execDbgRunStep e core s := rfl

theorem exec_dbgRunStatus (e : ImmEnv) (core : Byte) (s : State) :
    exec (.dbgRunStatus e core) s = execDbgRunStatus e core s := rfl

theorem exec_processorHalted (k : Fin 5) (r : CpuRun) (s : State) :
    exec (.processorHalted k r) s = execProcessorHalted k r s := rfl

theorem exec_breakpointHit (k : Fin 5) (i : Fin 4) (r : CpuRun) (s : State) :
    exec (.breakpointHit k i r) s = execBreakpointHit k i r s := rfl

theorem exec_dbgCpu (e : ImmEnv) (body : List Byte) (s : State) :
    exec (.dbgCpu e body) s = execDbgCpu e body s := rfl

theorem exec_dbgBkpt (e : ImmEnv) (body : List Byte) (s : State) :
    exec (.dbgBkpt e body) s = execDbgBkpt e body s := rfl

/-- R503: run control of a processor by the connected host, with the right. -/
theorem State.dbgRun_received {s t : State} {e : ImmEnv} {core action : Byte}
    (hreceive : s.receive false e 0x65 [core, action] = (t,
      true)) (hcore : core.toNat < 5) (hright : t.dbgMay e.port 2 = true)
    (f : State → Nat → State × Reply) :
    s.dbgRun e core action f = (f t core.toNat).1.finish e 0x65 (f t core.toNat).2 := by
  rw [State.dbgRun, State.request_received hreceive]
  simp [hcore.not_ge, hright]

theorem State.dbgRun_noCore {s t : State} {e : ImmEnv} {core action : Byte}
    (hreceive : s.receive false e 0x65 [core, action] = (t,
      true)) (hcore : 5 ≤ core.toNat) (f : State → Nat → State × Reply) :
    s.dbgRun e core action f = t.refuse e 0x65 0x07 0 0xFF := by
  rw [State.dbgRun, State.request_received hreceive]
  simp [hcore]

theorem State.dbgRun_noRight {s t : State} {e : ImmEnv} {core action : Byte}
    (hreceive : s.receive false e 0x65 [core, action] = (t,
      true)) (hcore : core.toNat < 5) (hright : t.dbgMay e.port 2 = false)
    (f : State → Nat → State × Reply) : s.dbgRun e core action f = t.refuse e 0x65 0x08 0 0xFF := by
  rw [State.dbgRun, State.request_received hreceive]
  simp [hcore.not_ge, hright]

/-- The four actions of DBG_RUN are one request. -/
theorem exec_dbgRun {s : State} {e : ImmEnv} {core action : Byte} {c : Instr}
    (h : (action, c) ∈ [(0, .dbgRunHalt e core), (1, .dbgRunResume e core), (2, .dbgRunStep e core), (3,
      .dbgRunStatus e core)]) :
    ∃ f, exec c s = .next (s.dbgRun e core action f) := by
  simp only [List.mem_cons, Prod.mk.injEq, List.not_mem_nil, or_false] at h
  obtain ⟨rfl, rfl⟩ | ⟨rfl, rfl⟩ | ⟨rfl, rfl⟩ | ⟨rfl, rfl⟩ := h
  all_goals exact ⟨_, rfl⟩

/-- Settles O39, clause by clause. -/
theorem processorDebugRuns : Obligations.ProcessorDebugRuns := by
  unfold Obligations.ProcessorDebugRuns
  intro s t e
  dsimp only
  refine ⟨fun core action c hreceive hmem => ⟨fun htoNat => ?_, fun htoNat hdbgMay => ?_⟩,
    fun core htoNat hdbgMay => ⟨fun hreceive => ⟨fun hhalted => ?_, fun hhalted => ?_⟩, fun hreceive => ?_,
    fun hreceive => ⟨fun hhalted => ?_, fun hhalted => ?_⟩, fun hreceive => ?_⟩, fun k r => ⟨fun hresume => ?_,
    fun hresume hprocRuns => ?_, fun hresume hprocRuns => ?_⟩, fun k i r => ⟨fun hbkpts => ?_,
    fun hbkpts hprocRuns hhalted => ?_⟩, fun body hreceive => ⟨fun hlength => ?_, fun hlength hfield hfield₂ => ?_,
    fun hlength hfield hfield₂ hite => ?_, fun hlength hfield hfield₂ hfield₃ => ⟨fun hfield₄ => ?_,
    fun hfield₄ hdbgMay => ?_, fun hfield₄ hdbgMay hhalted => ?_, fun hfield₄ hdbgMay hhalted => ?_⟩⟩,
    fun body hreceive => ⟨fun hlength => ?_, fun hlength hfield hfield₂ => ?_,
    fun hlength hfield hfield₂ hfield₃ => ?_, fun hlength hfield hfield₂ hfield₃ hdbgMay => ?_,
    fun hlength hfield hfield₂ hfield₃ hdbgMay => ?_⟩, fun q hcanWrite => ?_⟩
  · obtain ⟨f, hexec⟩ := exec_dbgRun (s := s) hmem
    rw [hexec, State.dbgRun_noCore hreceive htoNat]
  · obtain ⟨f, hexec⟩ := exec_dbgRun (s := s) hmem
    rw [hexec, State.dbgRun_noRight hreceive htoNat hdbgMay]
  · rw [exec_dbgRunHalt, execDbgRunHalt, State.dbgRun_received hreceive htoNat hdbgMay]
    simp [hhalted]
  · rw [exec_dbgRunHalt, execDbgRunHalt, State.dbgRun_received hreceive htoNat hdbgMay]
    simp [hhalted]
  · rw [exec_dbgRunResume, execDbgRunResume, State.dbgRun_received hreceive htoNat hdbgMay]
    rfl
  · rw [exec_dbgRunStep, execDbgRunStep, State.dbgRun_received hreceive htoNat hdbgMay]
    simp [hhalted]
  · rw [exec_dbgRunStep, execDbgRunStep, State.dbgRun_received hreceive htoNat hdbgMay]
    simp [hhalted]
  · rw [exec_dbgRunStatus, execDbgRunStatus, State.dbgRun_received hreceive htoNat hdbgMay]
    rfl
  · simp [exec_processorHalted, execProcessorHalted, hresume]
  · simp [exec_processorHalted, execProcessorHalted, hresume, hprocRuns]
  · simp [exec_processorHalted, execProcessorHalted, hresume, hprocRuns]
  · simp [exec_breakpointHit, execBreakpointHit, hbkpts]
  · simp [exec_breakpointHit, execBreakpointHit, hbkpts, hprocRuns, hhalted]
  · rw [exec_dbgCpu, execDbgCpu, State.request_received hreceive]
    simp [hlength]
  · rw [exec_dbgCpu, execDbgCpu, State.request_received hreceive]
    simp [hlength, hfield.not_ge, hfield₂]
  · rw [exec_dbgCpu, execDbgCpu, State.request_received hreceive]
    simp [hlength, hfield.not_ge, hfield₂.not_ge, hite]
  · rw [exec_dbgCpu, execDbgCpu, State.request_received hreceive]
    simp [hlength, hfield.not_ge, hfield₂.not_ge, hfield₃.not_ge, hfield₄]
  · rw [exec_dbgCpu, execDbgCpu, State.request_received hreceive]
    simp [hlength, hfield.not_ge, hfield₂.not_ge, hfield₃.not_ge, hfield₄.not_ge, hdbgMay]
  · rw [exec_dbgCpu, execDbgCpu, State.request_received hreceive]
    simp [hlength, hfield.not_ge, hfield₂.not_ge, hfield₃.not_ge, hfield₄.not_ge, hdbgMay, hhalted]
  · rw [exec_dbgCpu, execDbgCpu, State.request_received hreceive]
    simp [hlength, hfield.not_ge, hfield₂.not_ge, hfield₃.not_ge, hfield₄.not_ge, hdbgMay, hhalted]
  · rw [exec_dbgBkpt, execDbgBkpt, State.request_received hreceive]
    simp [hlength]
  · rw [exec_dbgBkpt, execDbgBkpt, State.request_received hreceive]
    simp [hlength, hfield.not_ge, hfield₂]
  · rw [exec_dbgBkpt, execDbgBkpt, State.request_received hreceive]
    simp [hlength, hfield.not_ge, hfield₂.not_ge, hfield₃]
  · rw [exec_dbgBkpt, execDbgBkpt, State.request_received hreceive]
    simp [hlength, hfield.not_ge, hfield₂.not_ge, hfield₃.not_ge, hdbgMay]
  · rw [exec_dbgBkpt, execDbgBkpt, State.request_received hreceive]
    simp [hlength, hfield.not_ge, hfield₂.not_ge, hfield₃.not_ge, hdbgMay]
  · rw [exec_debugLock hcanWrite]
    simp [State.dbgLock]

end Sys2Proof.Machine
end

section
/-! PROOFS. Vat reset, release, power gating, assignment and module requests. -/

namespace Sys2Proof.Machine

theorem exec_vatResetAssertion (v : Fin 16) (s : State) :
    exec (.vatResetAssertion v) s = execVatResetAssertion v s := rfl

theorem exec_vatResetHoldExpiry (v : Fin 16) (s : State) :
    exec (.vatResetHoldExpiry v) s = execVatResetHoldExpiry v s := rfl

theorem exec_vatRelease (v : Fin 16) (s : State) :
    exec (.vatRelease v) s = execVatRelease v s := rfl

theorem exec_memoryFrameReload (v : Fin 16) (s : State) :
    exec (.memoryFrameReload v) s = execMemoryFrameReload v s := rfl

theorem exec_vatGatingDone (v : Fin 16) (s : State) :
    exec (.vatGatingDone v) s = execVatGatingDone v s := rfl

/-- VAT_CTRL where PWR_GATE stays: RESET written 1 asks for the vat's reset. -/
theorem State.vatCtrlWrite_idle {s : State} {v : Nat} {w : Word} (hstarter : ¬ (v = 0 ∧ w.getLsbD 0 = true))
    (hgate : w.getLsbD 3 = s.bit (VAT.VAT_CTRL.PWR_GATE v)) (hgating : tget s.cfg.gating v 0 = 0) :
    s.vatCtrlWrite v w =
      (if w.getLsbD 0 && !s.bit (VAT.VAT_CTRL.RESET v) && tget s.cfg.rstReq v 0 == 0 then
        (s.setReg (0x201000 + 0x100 * v) (w &&& 0x1D#32)).setRstReq v 1
      else s.setReg (0x201000 + 0x100 * v) (w &&& 0x1D#32), true) := by
  simp only [State.vatCtrlWrite, if_neg hstarter, hgate, hgating, beq_self_eq_true, Bool.and_self, Bool.not_true,
    Bool.false_and,
    Bool.false_eq_true, if_false, if_true]
  rfl

/-- VAT_CTRL where a change of PWR_GATE is refused. -/
theorem State.vatCtrlWrite_refused {s : State} {v : Nat} {w : Word} (hgate : w.getLsbD 3 ≠ s.bit (VAT.VAT_CTRL.PWR_GATE v))
    (hrefused : s.gateRefused v = true) : s.vatCtrlWrite v w = (s, false) := by
  have hchange : (w.getLsbD 3 == s.bit (VAT.VAT_CTRL.PWR_GATE v)) = false := beq_eq_false_iff_ne.mpr hgate
  simp only [State.vatCtrlWrite, hchange, hrefused, Bool.false_and, Bool.not_false, Bool.and_self, if_true, ite_self]

/-- VAT_CTRL where PWR_GATE changes and RESET stays. -/
theorem State.vatCtrlWrite_gate {s : State} {v : Nat} {w : Word} (hv : v ≠ 0)
    (hgate : w.getLsbD 3 ≠ s.bit (VAT.VAT_CTRL.PWR_GATE v)) (hrefused : s.gateRefused v = false)
    (hreset : w.getLsbD 0 = s.bit (VAT.VAT_CTRL.RESET v)) :
    s.vatCtrlWrite v w =
      (if w.getLsbD 3 then (s.setReg (0x201000 + 0x100 * v) (w &&& 0x1D#32)).gateStart v
      else (s.setReg (0x201000 + 0x100 * v) (w &&& 0x1D#32)).ungateStart v, true) := by
  have hchange : (w.getLsbD 3 == s.bit (VAT.VAT_CTRL.PWR_GATE v)) = false := beq_eq_false_iff_ne.mpr hgate
  simp only [State.vatCtrlWrite, hchange, hrefused, hreset, hv, Bool.false_and, Bool.not_false, Bool.and_false,
    Bool.and_not_self,
    false_and, Bool.false_eq_true, if_false]
  rfl

/-- Settles O40, clause by clause. -/
theorem vatsRun : Obligations.VatsRun := by
  unfold Obligations.VatsRun
  intro s v
  dsimp only
  refine ⟨fun hrstReq hdefined => ⟨fun hswapping => ?_, fun hswapping => ?_⟩, fun hrstReq => ?_,
    fun hmayRelease => ?_, fun hclearing hunderTest => ?_, fun hgating => ?_, fun hgating hin_reset => ?_,
    fun q w hcanWrite => ⟨fun h hpwr_gate hgating => ?_, fun h => ?_, fun hpwr_gate hgating => ?_,
    fun hreset hpwr_gate hgateRefused h => ?_, fun hpwr_gate hgateRefused => ?_,
    fun hreset hpwr_gate hgateRefused h => ?_, fun hpwr_gate hgateRefused => ?_⟩,
    fun q k w hcanWrite => ⟨fun hassignOpen hassignClash h => ?_, fun hassignOpen h h₂ => ?_, fun hassignOpen => ?_⟩,
    fun q k w hcanWrite => ⟨?_, fun h hrange hregionsOk => ?_⟩, fun q w hcanWrite => ⟨fun hmodRefusal => ?_,
    fun x hmodRefusal => ?_⟩⟩
  · simp [exec_vatResetAssertion, execVatResetAssertion, hrstReq, hdefined, hswapping]
  · simp [exec_vatResetAssertion, execVatResetAssertion, hrstReq, hdefined, hswapping]
  · simp [exec_vatResetHoldExpiry, execVatResetHoldExpiry, hrstReq]
  · simp only [exec_vatRelease, execVatRelease, hmayRelease, apply_ite Host.Outcome.next, if_false, Bool.false_eq_true,
      Bool.not_true]
  · simp only [exec_memoryFrameReload, execMemoryFrameReload, hclearing, hunderTest, if_false, Bool.false_eq_true,
      Bool.true_eq_false, or_self]
  · simp [exec_vatGatingDone, execVatGatingDone, hgating]
  · simp [exec_vatGatingDone, execVatGatingDone, hgating, hin_reset]
  · rw [exec_vatResetRequest _ _ hcanWrite]
    have hset : (w ||| 1#32).getLsbD 0 = true := by simp
    have hkept : (w ||| 1#32).getLsbD 3 = s.bit (VAT.VAT_CTRL.PWR_GATE v.val) := by simpa using hpwr_gate
    rw [State.vatCtrlWrite_idle (fun hx => h hx.1) hkept hgating, hset]
    simp
  · rw [exec_vatResetRequest _ _ hcanWrite]
    simp [State.vatCtrlWrite, h]
  · rw [exec_vatReleaseRequest _ _ hcanWrite]
    have hclear : (w &&& 0xFFFFFFFE#32).getLsbD 0 = false := by simp
    have hkept : (w &&& 0xFFFFFFFE#32).getLsbD 3 = s.bit (VAT.VAT_CTRL.PWR_GATE v.val) := by simpa using hpwr_gate
    rw [State.vatCtrlWrite_idle (by rw [hclear]; simp) hkept hgating, hclear]
    simp
  · rw [exec_vatPowerGate _ _ hcanWrite]
    have hset : (w ||| 8#32).getLsbD 3 = true := by simp
    have hkept : (w ||| 8#32).getLsbD 0 = s.bit (VAT.VAT_CTRL.RESET v.val) := by simpa using hreset
    rw [State.vatCtrlWrite_gate h (by rw [hset, hpwr_gate]; decide) hgateRefused hkept, hset]
    simp
  · rw [exec_vatPowerGate _ _ hcanWrite]
    have hset : (w ||| 8#32).getLsbD 3 = true := by simp
    rw [State.vatCtrlWrite_refused (by rw [hset, hpwr_gate]; decide) hgateRefused, State.answered_false]
  · rw [exec_vatPowerUp _ _ hcanWrite]
    have hclear : (w &&& 0xFFFFFFF7#32).getLsbD 3 = false := by simp
    have hkept : (w &&& 0xFFFFFFF7#32).getLsbD 0 = s.bit (VAT.VAT_CTRL.RESET v.val) := by simpa using hreset
    rw [State.vatCtrlWrite_gate h (by rw [hclear, hpwr_gate]; decide) hgateRefused hkept, hclear]
    simp
  · rw [exec_vatPowerUp _ _ hcanWrite]
    have hclear : (w &&& 0xFFFFFFF7#32).getLsbD 3 = false := by simp
    rw [State.vatCtrlWrite_refused (by rw [hclear, hpwr_gate]; decide) hgateRefused, State.answered_false]
  · rw [exec_resourceAssignWrite _ _ _ hcanWrite]
    simp only [State.assignWrite, hassignOpen, hassignClash, h, if_false, Bool.false_eq_true, Bool.or_self, Bool.not_true,
      State.answered_true]
  · rw [exec_resourceAssignWrite _ _ _ hcanWrite]
    have hclash : s.assignClash 0 1 (w &&& assignMask 1) = false := by simp [State.assignClash]
    rw [h] at hassignOpen
    simp only [State.assignWrite, hassignOpen, hclash, h, h₂, if_true, if_false, Bool.false_eq_true, and_self,
      Bool.or_self, Bool.not_true, State.answered_true]
  · rw [exec_resourceAssignWrite _ _ _ hcanWrite]
    simp [State.assignWrite, hassignOpen]
  · rw [exec_moduleRegionEnable _ _ _ hcanWrite]
  · rw [exec_moduleRegionEnable _ _ _ hcanWrite]
    simp only [State.mregWrite, h, (by decide : ¬ 4 < 4), hrange, hregionsOk, if_false, Bool.false_eq_true, Bool.or_self,
      Bool.not_true, State.answered_true]
  · rw [exec_moduleLoadRequest _ _ hcanWrite]
    have hstart : wget (w ||| 0x1#32) 0 0 = 1 := wget_or_self w _ 0 (by decide)
    have hregion : wget (w ||| 0x1#32) 5 4 = wget w 5 4 := wget_or_ne w _ 5 4 (by decide)
    have hcancel : (w ||| 0x1#32).getLsbD 8 = w.getLsbD 8 := by simp
    have hoff : (VAT.MLOAD_CTL.IRQ v.val).off = 0x20106C + 0x100 * v.val := rfl
    simp only [State.mloadWrite, hstart, hregion, hcancel, hoff, one_ne_zero, hmodRefusal, if_false, State.answered_true]
  · rw [exec_moduleLoadRequest _ _ hcanWrite]
    have hstart : wget (w ||| 0x1#32) 0 0 = 1 := wget_or_self w _ 0 (by decide)
    have hregion : wget (w ||| 0x1#32) 5 4 = wget w 5 4 := wget_or_ne w _ 5 4 (by decide)
    have hcancel : (w ||| 0x1#32).getLsbD 8 = w.getLsbD 8 := by simp
    have hoff : (VAT.MLOAD_CTL.IRQ v.val).off = 0x20106C + 0x100 * v.val := rfl
    simp only [State.mloadWrite, hstart, hregion, hoff, one_ne_zero, hmodRefusal, if_false, State.answered_true]

end Sys2Proof.Machine
end

section
/-! PROOFS. Churn. -/

namespace Sys2Proof.Machine

theorem exec_churnPassStart (s : State) :
    exec .churnPassStart s = execChurnPassStart s := rfl

theorem exec_scrubRead (q : Fin 4) (bits : List (Fin 2072)) (s : State) :
    exec (.scrubRead q bits) s = execScrubRead q bits s := rfl

theorem exec_correctionWrite (q : Fin 4) (fails : Fin 3) (left : List (Fin 2072)) (s : State) :
    exec (.correctionWrite q fails left) s = execCorrectionWrite q fails left s := rfl

theorem exec_restorationWrite (q : Fin 4) (fails : Fin 3) (left : List (Fin 2072)) (s : State) :
    exec (.restorationWrite q fails left) s = execRestorationWrite q fails left s := rfl

theorem exec_restorePlaneRead (q : Fin 4) (bits : List (Fin 2072)) (s : State) :
    exec (.restorePlaneRead q bits) s = execRestorePlaneRead q bits s := rfl

theorem exec_churnPassComplete (s : State) :
    exec .churnPassComplete s = execChurnPassComplete s := rfl

theorem exec_churnPassLate (s : State) :
    exec .churnPassLate s = execChurnPassLate s := rfl

/-- Settles O41, clause by clause. -/
theorem churnRuns : Obligations.ChurnRuns := by
  unfold Obligations.ChurnRuns
  intro s q
  dsimp only
  refine ⟨fun hactive => ?_, fun bits hactive hrunning hportHeld hscrubJob hchurnPos => ⟨fun hscrubSkips => ?_,
    fun hscrubSkips hchkFrame => ?_, fun k i f hscrubSkips hchkFrame => ?_,
    fun hscrubSkips hchkFrame hframeVol => ?_, fun hscrubSkips hchkFrame hframeVol => ?_⟩,
    fun n k i f pr fails left hscrubJob => ⟨fun hportHeld => ⟨?_, ?_⟩, fun h hportHeld hscrubDrops => ?_,
    fun h hportHeld hscrubDrops => ?_, fun h hportHeld hscrubDrops => ?_, fun h hportHeld hscrubDrops => ?_⟩,
    fun n k i pr bits hscrubJob => ⟨fun hportHeld => ?_, fun hportHeld hscrubDrops hchkFrame => ?_,
    fun a b f hportHeld hscrubDrops hchkFrame => ?_, fun hportHeld hscrubDrops hchkFrame => ?_,
    fun hportHeld hscrubDrops => ?_⟩, fun hactive h => ?_, fun hactive hlate h => ?_,
    fun r w hcanWrite => ⟨fun hen => ?_, fun hen => ?_, fun hen => ?_, fun hen => ?_⟩⟩
  · simp [exec_churnPassStart, execChurnPassStart, hactive]
  · simp [exec_scrubRead, execScrubRead, hactive, hrunning, hportHeld, hscrubJob, hchurnPos, hscrubSkips]
  · simp [exec_scrubRead, execScrubRead, hactive, hrunning, hportHeld, hscrubJob, hchurnPos, hscrubSkips, hchkFrame]
  · simp [exec_scrubRead, execScrubRead, hactive, hrunning, hportHeld, hscrubJob, hchurnPos, hscrubSkips, hchkFrame]
  · simp [exec_scrubRead, execScrubRead, hactive, hrunning, hportHeld, hscrubJob, hchurnPos, hscrubSkips, hchkFrame,
      hframeVol]
  · simp [exec_scrubRead, execScrubRead, hactive, hrunning, hportHeld, hscrubJob, hchurnPos, hscrubSkips, hchkFrame,
      hframeVol]
  · simp [exec_correctionWrite, execCorrectionWrite, hscrubJob, hportHeld]
  · simp [exec_restorationWrite, execRestorationWrite, hscrubJob, hportHeld]
  · simp [exec_correctionWrite, execCorrectionWrite, hscrubJob, h, hportHeld, hscrubDrops]
  · simp [exec_restorationWrite, execRestorationWrite, hscrubJob, h, hportHeld, hscrubDrops]
  · simp [exec_correctionWrite, execCorrectionWrite, hscrubJob, h, hportHeld, hscrubDrops]
  · simp [exec_restorationWrite, execRestorationWrite, hscrubJob, h, hportHeld, hscrubDrops]
  · simp [exec_restorePlaneRead, execRestorePlaneRead, hscrubJob, hportHeld]
  · simp [exec_restorePlaneRead, execRestorePlaneRead, hscrubJob, hportHeld, hscrubDrops, hchkFrame]
  · simp [exec_restorePlaneRead, execRestorePlaneRead, hscrubJob, hportHeld, hscrubDrops, hchkFrame]
  · simp [exec_restorePlaneRead, execRestorePlaneRead, hscrubJob, hportHeld, hscrubDrops, hchkFrame]
  · simp [exec_restorePlaneRead, execRestorePlaneRead, hscrubJob, hportHeld, hscrubDrops]
  · have hall : ((List.range 4).all fun k => s.churnPos k == 65536 && (s.scrubJob k).isNone) = true := by
      rw [List.all_eq_true]
      intro k hk
      obtain ⟨hpos, hjob⟩ := h k (List.mem_range.mp hk)
      rw [hpos, hjob]
      rfl
    simp only [exec_churnPassComplete, execChurnPassComplete, hactive, hall, if_true, Bool.and_self]
  · simp [exec_churnPassLate, execChurnPassLate, hactive, hlate, h]
  · rw [exec_churnEnable _ hcanWrite]
    simp [State.churnCtlWrite, hen]
    rfl
  · rw [exec_churnEnable _ hcanWrite]
    simp [State.churnCtlWrite, hen]
    rfl
  · rw [exec_churnDisable _ hcanWrite]
    simp [State.churnCtlWrite, hen]
    rfl
  · rw [exec_churnDisable _ hcanWrite]
    simp [State.churnCtlWrite, hen]
    rfl

end Sys2Proof.Machine
end

section
/-! PROOFS. The on-chip network. -/

namespace Sys2Proof.Machine

theorem exec_nocRequestIssue (i : Fin 1024) (rq : NocRq) (s : State) :
    exec (.nocRequestIssue i rq) s = execNocRequestIssue i rq s := rfl

theorem exec_flitForward (y x : Fin 16) (o : NocOut) (hdrErr payErr : Bool) (s : State) :
    exec (.flitForward y x o hdrErr payErr) s = execFlitForward y x o hdrErr payErr s := rfl

theorem exec_quarantineExpiry (i t : Fin 1024) (s : State) :
    exec (.quarantineExpiry i t) s = execQuarantineExpiry i t s := rfl

theorem exec_mapSyncDone (s : State) :
    exec .mapSyncDone s = execMapSyncDone s := rfl

theorem exec_mapCacheRefresh (i : Fin 1024) (s : State) :
    exec (.mapCacheRefresh i) s = execMapCacheRefresh i s := rfl

theorem exec_regulatorBucketFill (r : Fin 256) (s : State) :
    exec (.regulatorBucketFill r) s = execRegulatorBucketFill r s := rfl

/-- R312: a write of a map entry. -/
theorem State.writeReg_mapEntry {s : State} {q : Req} {e k : Nat} (he : e < 64) (hk : k < 4) (w : Word) :
    s.writeReg q (0x1001000 + 16 * e + 4 * k) w =
      if k = 2 ∧ s.mapBadWrite e w = true then (s, false) else (s.plainWrite (0x1001000 + 16 * e + 4 * k) w, true) := by
  have hentry : (0x1001000 + 16 * e + 4 * k - 0x1001000) / 16 = e := by omega
  by_cases h2 : k = 2
  · subst h2
    simp (disch := omega) only [State.writeReg, State.writeNoc, if_pos, if_neg, hentry, true_and]
  · simp (disch := omega) only [State.writeReg, State.writeNoc, if_pos, if_neg, h2, false_and, if_false]

theorem exec_mapEntryWrite {s : State} {q : Req} (e : Fin 64) (k : Fin 4) (w : Word)
    (h : s.canWrite q (0x1001000 + 16 * e.val + 4 * k.val)) :
    exec (.mapEntryWrite q e k w) s = .next (State.answered
      (if k.val = 2 ∧ s.mapBadWrite e.val w = true then (s, false)
      else (s.plainWrite (0x1001000 + 16 * e.val + 4 * k.val) w, true))) :=
  congrArg _ (State.busPut_ungated h (State.writeReg_mapEntry e.isLt k.isLt w) (by omega))

/-- R311, R460: an initiator that is not held, and may reach the address, issues its request. -/
theorem exec_nocRequestIssue_issues {s : State} {i : Fin 1024} {rq : NocRq} (hinit : isInitiator i.val = true)
    (hup : s.islandUp = true)
    (hmgmt : rq.mgmt = true ∨ (procOfId i.val).map (fun c => s.cpuReaches c rq.addr.toNat rq.wr) ≠ some false)
    (h : 64 ≤ i.val → i.val < 960 → s.vatOfInit i.val ≠ 0xFF ∧ s.bit (VAT.VAT_STAT.CLAMPED (s.vatOfInit i.val)) = false) :
    exec (.nocRequestIssue i rq) s = .next (s.issue i.val (s.vatOfInit i.val) rq) := by
  have hmay : ¬ (rq.mgmt = false ∧ ((procOfId i.val).map fun c => s.cpuReaches c rq.addr.toNat rq.wr) = some false) :=
      fun ⟨hnot, hout⟩ => hmgmt.elim (fun hyes => Bool.noConfusion (hyes.symm.trans hnot)) fun hin => hin hout
  have hvat : ¬ (64 ≤ i.val ∧ i.val < 960 ∧
        (s.vatOfInit i.val = 0xFF ∨ s.bit (VAT.VAT_STAT.CLAMPED (s.vatOfInit i.val)) = true)) := fun ⟨hlow, hhigh, hbars⟩ =>
      hbars.elim (h hlow hhigh).1 fun hclamped => Bool.noConfusion (hclamped.symm.trans (h hlow hhigh).2)
  simp only [exec_nocRequestIssue, execNocRequestIssue, hinit, hup, if_neg hmay, if_neg hvat, if_false, Bool.true_eq_false,
    or_self]

/-- Settles O42, clause by clause. -/
theorem networkRuns : Obligations.NetworkRuns := by
  unfold Obligations.NetworkRuns
  intro s
  dsimp only
  refine ⟨fun i rq hisInitiator hislandUp hmgmt h => ⟨fun hfst => ?_, fun hfst => ?_⟩,
    fun y x o hdrErr payErr => ⟨fun hgrant => ?_, fun m hgrant => ⟨fun h => ?_, fun a h hatt => ?_,
    fun h hgateway => ?_, fun h hmem => ?_⟩⟩, fun i t x htag hquar => ?_, fun hbusy => ?_, fun i => ?_, fun r => ?_,
    fun q e k w hcanWrite => ⟨fun hmapBadWrite => ?_, fun h hmapBadWrite => ?_⟩, fun q hcanWrite => ?_,
    fun q i hcanWrite => ⟨?_, ?_⟩⟩
  · rw [exec_nocRequestIssue_issues hisInitiator hislandUp hmgmt h, State.issue]
    simp only [if_pos hfst]
  · rw [exec_nocRequestIssue_issues hisInitiator hislandUp hmgmt h, State.issue]
    simp only [if_neg hfst]
  · simp [exec_flitForward, execFlitForward, hgrant]
  · simp [exec_flitForward, execFlitForward, hgrant, h]
  · subst hatt
    simp [exec_flitForward, execFlitForward, hgrant, h]
  · subst hgateway
    simp [exec_flitForward, execFlitForward, hgrant, h]
  · simp only [List.mem_cons, List.not_mem_nil, or_false] at hmem
    obtain rfl | rfl | rfl | rfl := hmem
    all_goals simp [exec_flitForward, execFlitForward, hgrant, h]
  · simp [exec_quarantineExpiry, execQuarantineExpiry, htag, hquar]
  · simp [exec_mapSyncDone, execMapSyncDone, hbusy]
  · simp [exec_mapCacheRefresh, execMapCacheRefresh]
  · simp [exec_regulatorBucketFill, execRegulatorBucketFill]
  · have hgood : ¬ (k.val = 2 ∧ s.mapBadWrite e.val w = true) := fun ⟨hk, hbad⟩ =>
      hmapBadWrite.elim (fun hne => hne hk) fun hok => Bool.noConfusion (hbad.symm.trans hok)
    rw [exec_mapEntryWrite _ _ _ hcanWrite, if_neg hgood, State.answered_true]
  · rw [exec_mapEntryWrite _ _ _ hcanWrite, if_pos ⟨h, hmapBadWrite⟩, State.answered_false]
  · rw [exec_mapSync hcanWrite]
    simp [State.wrb]
  · rw [exec_regulatorBind _ hcanWrite]
    simp [State.bindReg]
  · rw [exec_regulatorUnbind _ hcanWrite]
    simp [State.unbindReg]

end Sys2Proof.Machine
end

section
/-! PROOFS. Span ports and the gateway. -/

namespace Sys2Proof.Machine

theorem exec_spanInitFrame (k : Fin 4) (ws : List Word) (s : State) :
    exec (.spanInitFrame k ws) s = execSpanInitFrame k ws s := rfl

theorem exec_spanCtrlFrame (k : Fin 4) (ws : List Word) (s : State) :
    exec (.spanCtrlFrame k ws) s = execSpanCtrlFrame k ws s := rfl

theorem exec_spanFlitFrame (k : Fin 4) (ws : List Word) (stamp : Nat) (s : State) :
    exec (.spanFlitFrame k ws stamp) s = execSpanFlitFrame k ws stamp s := rfl

theorem exec_spanFlitrFrame (k : Fin 4) (ws : List Word) (s : State) :
    exec (.spanFlitrFrame k ws) s = execSpanFlitrFrame k ws s := rfl

theorem exec_spanAckTimer (k : Fin 4) (s : State) :
    exec (.spanAckTimer k) s = execSpanAckTimer k s := rfl

theorem exec_spanReplayExpiry (k : Fin 4) (s : State) :
    exec (.spanReplayExpiry k) s = execSpanReplayExpiry k s := rfl

theorem exec_spanGatewayFlit (s : State) :
    exec .spanGatewayFlit s = execSpanGatewayFlit s := rfl

/-- The two frames that carry a flit are taken alike. -/
theorem exec_spanFlits {s : State} {k : Fin 4} {ws : List Word} {stamp typ n : Nat} {c : Instr}
    (h : (typ, n, c) ∈ ([(3, 21, .spanFlitFrame k ws stamp), (4, 23, .spanFlitrFrame k ws)] : List (Nat × Nat × Instr))) :
    exec c s = .next (s.spanFlit k.val typ n ws (if typ = 3 then stamp else 0)) := by
  simp only [List.mem_cons, Prod.mk.injEq, List.not_mem_nil, or_false] at h
  obtain ⟨rfl, rfl, rfl⟩ | ⟨rfl, rfl, rfl⟩ := h
  · rfl
  · rfl

theorem State.spanFlit_unlocked {s : State} {k typ n stamp : Nat} {ws : List Word} (hlock : s.spanLocked k = false) :
    s.spanFlit k typ n ws stamp = s := by
  simp [State.spanFlit, hlock]

/-- A good flit frame of a port that is up, by its place in the sequence. -/
theorem State.spanFlit_taken {s : State} {k typ n stamp : Nat} {ws : List Word} (hlock : s.spanLocked k = true)
    (hgood : frameGood typ n ws = true) (hup : s.bit (SPAN.PORT_STAT.UP k) = true) :
    let u := s.spanAck k ws
    let d := (wget (ws.getD 0 0) 27 16 + 4096 - (u.port k).expSeq) % 4096
    let f := flitOf (wordsNat ((ws.drop 2).take 2)) (BitVec.ofNat 512 (wordsNat ((ws.drop 4).take 16)))
      (if typ = 4 then wordsNat ((ws.drop 20).take 2) else 0)
    let w := u.spanAccept k f.vc
    s.spanFlit k typ n ws stamp =
      if d = 0 then
        if (u.port k).hasRoom f.vc = false then u
        else if f.dev = w.rd SPAN.DEVNUM.NUM then (if typ = 4 then w.remoteRq k f else w.spanInject k 0 stamp f)
        else w.toGate (⟨f, 15, 10, 4 + k, 0, stamp, 0⟩, some (k, wget (ws.getD 0 0) 3 0))
      else if 2049 ≤ d then (u.setPort k (u.port k).sendCtrl).bump (SPAN.DUP_CNT k)
      else u.bump (SPAN.OOS_CNT k) := by
  simp only [State.spanFlit, hlock, hgood, hup, Bool.not_true, Bool.false_eq_true, if_false, Bool.not_eq_true']

/-- R325: a write of PORT_CTL. -/
theorem State.writeReg_spanCtl {s : State} {q : Req} {k : Nat} (hk : k < 4) (w : Word) :
    s.writeReg q (0x1101000 + 0x100 * k) w =
      if wget w 15 0 = 0 ∨ (s.bit (SPAN.PORT_CTL.EN k) = true ∧ wget w 21 20 ≠ s.rd (SPAN.PORT_CTL.WIDTH k)) then (s, false)
      else (if s.bit (SPAN.PORT_CTL.EN k) != w.getLsbD 31 then
          (s.plainWrite (0x1101000 + 0x100 * k) w).spanEnable k (w.getLsbD 31)
        else s.plainWrite (0x1101000 + 0x100 * k) w, true) := by
  have hport : (0x1101000 + 0x100 * k - 0x1101000) / 0x100 = k := by omega
  simp (disch := omega) only [State.writeReg, State.writeNoc, if_pos, if_neg, hport]

theorem busPut_spanCtl {s : State} {q : Req} {k : Nat} (hk : k < 4) {w : Word} (h : s.canWrite q (0x1101000 + 0x100 * k)) :
    s.busPut q (0x1101000 + 0x100 * k) w = State.answered
      (if wget w 15 0 = 0 ∨ (s.bit (SPAN.PORT_CTL.EN k) = true ∧ wget w 21 20 ≠ s.rd (SPAN.PORT_CTL.WIDTH k)) then (s, false)
      else (if s.bit (SPAN.PORT_CTL.EN k) != w.getLsbD 31 then
          (s.plainWrite (0x1101000 + 0x100 * k) w).spanEnable k (w.getLsbD 31)
        else s.plainWrite (0x1101000 + 0x100 * k) w, true)) :=
  State.busPut_ungated h (State.writeReg_spanCtl hk w) (by omega)

theorem exec_spanPortEnable {s : State} {q : Req} (k : Fin 4) (w : Word) :
    exec (.spanPortEnable q k w) s = .next (s.busPut q (0x1101000 + 0x100 * k.val) (w ||| 0x80000000#32)) := rfl

theorem exec_spanPortDisable {s : State} {q : Req} (k : Fin 4) (w : Word) :
    exec (.spanPortDisable q k w) s = .next (s.busPut q (0x1101000 + 0x100 * k.val) (w &&& 0x7FFFFFFF#32)) := rfl

/-- Settles O43, clause by clause. -/
theorem spanRuns : Obligations.SpanRuns := by
  unfold Obligations.SpanRuns
  intro s k
  dsimp only
  refine ⟨fun ws stamp hspanLocked => ⟨?_, ?_, ?_, ?_⟩, fun ws hspanLocked => ⟨fun hframeGood => ?_,
    fun hframeGood hup => ⟨fun hmin => ?_, fun hmin hwget => ?_⟩, fun hframeGood => ?_, fun hframeGood hup => ?_,
    fun stamp typ n c hmem => ⟨fun hframeGood => ?_, fun hframeGood hup => ⟨fun hwget hhasRoom => ?_,
    fun hwget hhasRoom hdev => ⟨fun h => ?_, fun h => ?_⟩, fun hwget hhasRoom hdev => ?_, fun hwget => ?_,
    fun hwget hwget₂ => ?_⟩⟩⟩, fun hup haccepted => ?_, fun e hup hgetLastq => ⟨fun hexpiries => ?_,
    fun hexpiries => ?_⟩, fun m src rest hgate => ⟨fun hvalid => ?_, fun hvalid h => ?_, fun p hops hvalid h => ?_⟩,
    fun q w hcanWrite => ⟨fun hwget hen => ?_, fun hwget hen hwget₂ => ?_, fun hwget => ⟨?_, ?_⟩⟩⟩
  · simp [exec_spanInitFrame, execSpanInitFrame, hspanLocked]
  · simp [exec_spanCtrlFrame, execSpanCtrlFrame, hspanLocked]
  · simp [exec_spanFlitFrame, execSpanFlitFrame, State.spanFlit_unlocked hspanLocked]
  · simp [exec_spanFlitrFrame, execSpanFlitrFrame, State.spanFlit_unlocked hspanLocked]
  · simp [exec_spanInitFrame, execSpanInitFrame, hspanLocked, hframeGood]
  · simp only [exec_spanInitFrame, execSpanInitFrame, hspanLocked, hframeGood, hup, hmin, if_true, if_false,
      Bool.false_eq_true, Bool.not_true]
  · have hlate : ¬ (min 16 ((s.port k.val).initRx + 1) < 16 ∨ wget (ws.getD 2 0) 11 0 = s.rd SPAN.DEVNUM.NUM) := by omega
    simp only [exec_spanInitFrame, execSpanInitFrame, hspanLocked, hframeGood, hup, if_neg hlate, if_false,
      Bool.false_eq_true, Bool.not_true]
  · simp [exec_spanCtrlFrame, execSpanCtrlFrame, hspanLocked, hframeGood]
  · simp [exec_spanCtrlFrame, execSpanCtrlFrame, hspanLocked, hframeGood, hup]
  · rw [exec_spanFlits hmem]
    simp [State.spanFlit, hspanLocked, hframeGood]
  · rw [exec_spanFlits hmem, State.spanFlit_taken hspanLocked hframeGood hup]
    simp only [hwget, hhasRoom, if_true]
  · subst h
    rw [exec_spanFlits hmem, State.spanFlit_taken hspanLocked hframeGood hup]
    have hne : ¬ 3 = 4 := by decide
    simp only [hne, if_false, if_true] at hhasRoom hdev ⊢
    rw [if_pos hwget, if_neg (by rw [hhasRoom]; decide), if_pos hdev]
  · subst h
    rw [exec_spanFlits hmem, State.spanFlit_taken hspanLocked hframeGood hup]
    simp only [if_true] at hhasRoom hdev ⊢
    rw [if_pos hwget, if_neg (by rw [hhasRoom]; decide), if_pos hdev]
  · rw [exec_spanFlits hmem, State.spanFlit_taken hspanLocked hframeGood hup]
    simp only [hwget, hhasRoom, if_neg hdev, if_true, if_false, Bool.true_eq_false]
  · rw [exec_spanFlits hmem, State.spanFlit_taken hspanLocked hframeGood hup]
    rw [if_neg (by omega), if_pos hwget]
  · rw [exec_spanFlits hmem, State.spanFlit_taken hspanLocked hframeGood hup]
    rw [if_neg hwget.ne', if_neg hwget₂.not_ge]
  · simp [exec_spanAckTimer, execSpanAckTimer, hup, haccepted]
  · have hsome : (s.port k.val).replay.isEmpty = false := by
      rw [List.isEmpty_eq_false_iff]
      rintro hnil
      simp [hnil] at hgetLastq
    have hcount : ¬ 8 ≤ (s.port k.val).expiries + 1 := by omega
    simp only [exec_spanReplayExpiry, execSpanReplayExpiry, hup, hsome, hgetLastq, hcount, if_false, Bool.false_eq_true,
      Bool.or_self, Bool.not_true]
  · have hsome : (s.port k.val).replay.isEmpty = false := by
      rw [List.isEmpty_eq_false_iff]
      rintro hnil
      simp [hnil] at hgetLastq
    have hcount : 8 ≤ (s.port k.val).expiries + 1 := by omega
    simp only [exec_spanReplayExpiry, execSpanReplayExpiry, hup, hsome, hgetLastq, hcount, if_true, if_false,
      Bool.false_eq_true, Bool.or_self, Bool.not_true]
  · rw [exec_spanGatewayFlit, execSpanGatewayFlit, hgate, apply_ite Host.Outcome.next]
    obtain _ | p := src
    · simp only [hvalid, if_true, Bool.not_false]
    · simp only [hvalid, if_true, Bool.not_false]
  · subst h
    simp only [exec_spanGatewayFlit, execSpanGatewayFlit, hgate, hvalid, if_false, Bool.false_eq_true, Bool.not_true]
  · subst h
    simp only [exec_spanGatewayFlit, execSpanGatewayFlit, hgate, hvalid, apply_ite Host.Outcome.next, if_false,
      Bool.false_eq_true, Bool.not_true]
  · have hset : (w ||| 0x80000000#32).getLsbD 31 = true := by simp
    have hwords : wget (w ||| 0x80000000#32) 15 0 = wget w 15 0 := wget_or_ne w _ 15 0 (by decide)
    rw [exec_spanPortEnable, busPut_spanCtl k.isLt hcanWrite, hset, hwords]
    simp only [hwget, hen, State.spanEnable, bne, if_true, if_false, Bool.false_eq_true, or_self, false_and, ne_eq,
      State.answered_true]
    rfl
  · have hclear : (w &&& 0x7FFFFFFF#32).getLsbD 31 = false := by simp
    have hwords : wget (w &&& 0x7FFFFFFF#32) 15 0 = wget w 15 0 := wget_and_ne w _ 15 0 (by decide)
    have hwidth : wget (w &&& 0x7FFFFFFF#32) 21 20 = wget w 21 20 := wget_and_ne w _ 21 20 (by decide)
    rw [exec_spanPortDisable, busPut_spanCtl k.isLt hcanWrite, hclear, hwords, hwidth]
    simp only [hwget, hwget₂, hen, State.spanEnable, bne, if_false, Bool.false_eq_true, or_self, and_false, not_true,
      ne_eq, State.answered_true]
    rfl
  · have hset : (w ||| 0x80000000#32).getLsbD 31 = true := by simp
    have hwords : wget (w ||| 0x80000000#32) 15 0 = wget w 15 0 := wget_or_ne w _ 15 0 (by decide)
    rw [exec_spanPortEnable, busPut_spanCtl k.isLt hcanWrite, hset, hwords]
    simp [hwget]
  · have hwords : wget (w &&& 0x7FFFFFFF#32) 15 0 = wget w 15 0 := wget_and_ne w _ 15 0 (by decide)
    rw [exec_spanPortDisable, busPut_spanCtl k.isLt hcanWrite, hwords]
    simp [hwget]

end Sys2Proof.Machine
end

section
/-! PROOFS. Requests of the DRAM channels. -/

namespace Sys2Proof.Machine

theorem exec_dramAdmit (n : Fin 8) (s : State) :
    exec (.dramAdmit n) s = execDramAdmit n s := rfl

theorem exec_dramRead (n : Fin 8) (sub : Fin 2) (x : Sense) (s : State) :
    exec (.dramRead n sub x) s = execDramRead n sub x s := rfl

theorem exec_dramWholeWrite (n : Fin 8) (sub : Fin 2) (s : State) :
    exec (.dramWholeWrite n sub) s = execDramWholeWrite n sub s := rfl

theorem exec_dramPartialWrite (n : Fin 8) (sub : Fin 2) (x : Sense) (s : State) :
    exec (.dramPartialWrite n sub x) s = execDramPartialWrite n sub x s := rfl

theorem exec_patrolRead (n : Fin 8) (rank : Fin 4) (i : Fin (2 ^ 29)) (x : Sense) (s : State) :
    exec (.patrolRead n rank i x) s = execPatrolRead n rank i x s := rfl

/-- Settles O44, clause by clause. -/
theorem dramRequestsRun : Obligations.DramRequestsRun := by
  unfold Obligations.DramRequestsRun
  intro s n
  dsimp only
  refine fun hchOpen => ⟨fun v d hi q rest hadmitPick hinq => ⟨fun hsnd => ?_, fun hsnd hwr => ?_,
    fun h hsnd hwr hwaitingWrite => ?_, fun hsnd hwr hwaitingWrite => ?_⟩, fun hadmitPick => ?_,
    fun sub k x q hissueNext => ⟨fun hwr => ?_, fun hwr hlen => ?_, fun hwr hlen hsnd => ?_,
    fun hwr hlen hsnd => ?_⟩, fun rank i x hpatrol hchState hrankLines hmbit hstore => ?_⟩
  · simp [exec_dramAdmit, execDramAdmit, hchOpen, hadmitPick, hinq, hsnd]
  · simp [exec_dramAdmit, execDramAdmit, hchOpen, hadmitPick, hinq, hsnd, hwr]
  · simp [exec_dramAdmit, execDramAdmit, hchOpen, hadmitPick, hinq, hsnd, hwr, hwaitingWrite]
  · simp [exec_dramAdmit, execDramAdmit, hchOpen, hadmitPick, hinq, hsnd, hwr, hwaitingWrite]
  · simp [exec_dramAdmit, execDramAdmit, hchOpen, hadmitPick]
  · simp [exec_dramRead, execDramRead, hchOpen, hissueNext, hwr, apply_ite Host.Outcome.next]
  · simp [exec_dramWholeWrite, execDramWholeWrite, hchOpen, hissueNext, hwr, hlen]
  · simp [exec_dramPartialWrite, execDramPartialWrite, hchOpen, hissueNext, hwr, hlen, hsnd]
  · simp [exec_dramPartialWrite, execDramPartialWrite, hchOpen, hissueNext, hwr, hlen, hsnd]
  · simp only [exec_patrolRead, execPatrolRead, hchOpen, hpatrol, hchState, hrankLines.not_ge, hmbit, hstore, if_false,
      Bool.false_eq_true, Bool.true_eq_false, or_self, not_true, ne_eq]

end Sys2Proof.Machine
end

section
/-! PROOFS. Upkeep of the DRAM channels. -/

namespace Sys2Proof.Machine

theorem exec_refreshDue (n : Fin 8) (sub : Fin 2) (rank : Fin 4) (s : State) :
    exec (.refreshDue n sub rank) s = execRefreshDue n sub rank s := rfl

theorem exec_temperaturePoll (n : Fin 8) (hot : Fin 16) (s : State) :
    exec (.temperaturePoll n hot) s = execTemperaturePoll n hot s := rfl

theorem exec_neighbourRefresh (n : Fin 8) (bank : Fin 256) (row : Nat) (s : State) :
    exec (.neighbourRefresh n bank row) s = execNeighbourRefresh n bank row s := rfl

theorem exec_readTimingTracking (n : Fin 8) (sub : Fin 2) (s : State) :
    exec (.readTimingTracking n sub) s = execReadTimingTracking n sub s := rfl

theorem exec_rowIdleClose (n : Fin 8) (bank : Fin 256) (s : State) :
    exec (.rowIdleClose n bank) s = execRowIdleClose n bank s := rfl

theorem exec_channelInitDone (n : Fin 8) (failed : Fin 16) (drfm : Bool) (s : State) :
    exec (.channelInitDone n failed drfm) s = execChannelInitDone n failed drfm s := rfl

theorem exec_rankFillDone (n : Fin 8) (r : Fin 4) (s : State) :
    exec (.rankFillDone n r) s = execRankFillDone n r s := rfl

theorem exec_migrationCopy (n : Fin 8) (count : Nat) (x : Sense) (s : State) :
    exec (.migrationCopy n count x) s = execMigrationCopy n count x s := rfl

theorem exec_migrationDone (n : Fin 8) (s : State) :
    exec (.migrationDone n) s = execMigrationDone n s := rfl

theorem exec_selfRefreshReached (n : Fin 8) (s : State) :
    exec (.selfRefreshReached n) s = execSelfRefreshReached n s := rfl

theorem exec_channelReady (n : Fin 8) (s : State) :
    exec (.channelReady n) s = execChannelReady n s := rfl

/-- Settles O45, clause by clause. -/
theorem dramUpkeepRuns : Obligations.DramUpkeepRuns := by
  unfold Obligations.DramUpkeepRuns
  intro s n
  dsimp only
  refine ⟨fun sub rank hchState hentering => ⟨fun hpostpone_max => ?_, fun hpend hwaits => ?_,
    fun hpend hwaits => ?_⟩, fun hot => ?_, fun bank row hp hrows hchOpen => ?_, fun sub hchOpen => ?_,
    fun bank => ?_, fun failed drfm hchState => ⟨fun hfittedRanks => ?_, fun hfittedRanks => ?_⟩,
    fun r hchState hfittedRanks hmbit hchOpen => ?_, fun count x hstate hchOpen hlines => ?_,
    fun hstate hlines => ?_, fun hentering => ?_, fun hleaving hchState => ?_⟩
  · rcases hchState with hchState | hchState
    all_goals simp [exec_refreshDue, execRefreshDue, hchState, hentering, hpostpone_max]
  · rcases hchState with hchState | hchState
    all_goals simp [exec_refreshDue, execRefreshDue, hchState, hentering, hpend, hwaits]
  · rcases hchState with hchState | hchState
    all_goals simp [exec_refreshDue, execRefreshDue, hchState, hentering, hpend, hwaits]
  · simp [exec_temperaturePoll, execTemperaturePoll]
  · simp [exec_neighbourRefresh, execNeighbourRefresh, hp, hrows, hchOpen]
  · simp [exec_readTimingTracking, execReadTimingTracking, hchOpen]
  · simp [exec_rowIdleClose, execRowIdleClose]
  · simp [exec_channelInitDone, execChannelInitDone, hchState, hfittedRanks]
  · simp [exec_channelInitDone, execChannelInitDone, hchState, hfittedRanks]
  · simp only [exec_rankFillDone, execRankFillDone, hchState, hfittedRanks.not_ge, hmbit, hchOpen,
      apply_ite Host.Outcome.next, if_false, Bool.false_eq_true, Bool.true_eq_false, or_self, not_true, ne_eq]
  · simp only [exec_migrationCopy, execMigrationCopy, hstate, hchOpen, hlines.not_gt, apply_ite Host.Outcome.next,
      Bool.not_eq_true', if_false, Bool.true_eq_false, or_self, not_true, ne_eq]
  · simp [exec_migrationDone, execMigrationDone, hstate, hlines]
  · simp [exec_selfRefreshReached, execSelfRefreshReached, hentering]
  · simp [exec_channelReady, execChannelReady, hleaving, hchState]

end Sys2Proof.Machine
end

section
/-! PROOFS. Writes of CH_CTL and SPARE. -/

namespace Sys2Proof.Machine



/-- Where the three command bits of CH_CTL are 0, each is. -/
theorem wget_31_29_zero {w : Word} (h : wget w 31 29 = 0) : wget w 31 31 = 0 ∧ wget w 30 30 = 0 ∧ wget w 29 29 = 0 := by
  have hbit : ∀ i, 29 ≤ i → i ≤ 31 → w.getLsbD i = false := by
    intro i hlow hhigh
    have hzero : (wget w 31 29).testBit (i - 29) = false := by rw [h]; exact Nat.zero_testBit _
    rw [wget_testBit] at hzero
    simpa [show i - 29 < 3 by omega, show 29 + (i - 29) = i by omega] using hzero
  have hone : ∀ i, 29 ≤ i → i ≤ 31 → wget w i i = 0 := by
    intro i hlow hhigh
    apply Nat.eq_of_testBit_eq
    intro j
    rw [wget_testBit, Nat.zero_testBit]
    obtain _ | j := j
    · simp [hbit i hlow hhigh]
    · simp
  exact ⟨hone 31 (by decide) (by decide), hone 30 (by decide) (by decide), hone 29 (by decide) (by decide)⟩

/-- Settles O46, clause by clause. -/
theorem dramWritesRun : Obligations.DramWritesRun := by
  unfold Obligations.DramWritesRun
  intro s q n w
  dsimp only
  refine ⟨fun hcanWrite => ⟨fun hchState hwget hwget₂ hwget₃ hchState₂ => ?_,
    fun hchState hwget hwget₂ hstate hentering => ?_, fun hchState => ?_,
    fun hchState hwget hwget₂ hwget₃ hstate hfilling => ?_, fun hstate => ?_, fun hchState hwget hwget₂ => ⟨?_, ?_⟩,
    fun hchState c hmem => ?_⟩, fun hcanWrite => ⟨fun hchState hstate => ?_, fun hchState => ?_⟩⟩
  · rw [exec_channelInit _ _ hcanWrite]
    have hclass : wget (w ||| 0x80000000#32) 15 8 = wget w 15 8 := wget_or_ne w _ 15 8 (by decide)
    have hfill : wget (w ||| 0x80000000#32) 30 30 = wget w 30 30 := wget_or_ne w _ 30 30 (by decide)
    have hmig : wget (w ||| 0x80000000#32) 29 29 = wget w 29 29 := wget_or_ne w _ 29 29 (by decide)
    have hsr : wget (w ||| 0x80000000#32) 25 25 = wget w 25 25 := wget_or_ne w _ 25 25 (by decide)
    have hinit : wget (w ||| 0x80000000#32) 31 31 = 1 := wget_or_self w _ 31 (by decide)
    have hoff : (DDR.CH_CTL.SR n.val).off = 0x2000000 + 0x10000 * n.val := rfl
    simp only [State.chCtlWrite, orNone, hclass, hfill, hmig, hsr, hinit, hoff, hchState, hwget, hwget₂, hwget₃, hchState₂,
      Nat.reduceBEq, Bool.false_eq_true, if_true, if_false, Bool.false_eq_true, and_self, or_self, false_and, ne_eq,
      State.answered_true]
  · rw [exec_channelFill _ _ hcanWrite]
    have hclass : wget (w ||| 0x40000000#32) 15 8 = wget w 15 8 := wget_or_ne w _ 15 8 (by decide)
    have hfill : wget (w ||| 0x40000000#32) 30 30 = 1 := wget_or_self w _ 30 (by decide)
    have hmig : wget (w ||| 0x40000000#32) 29 29 = wget w 29 29 := wget_or_ne w _ 29 29 (by decide)
    have hsr : wget (w ||| 0x40000000#32) 25 25 = wget w 25 25 := wget_or_ne w _ 25 25 (by decide)
    have hoff : (DDR.CH_CTL.SR n.val).off = 0x2000000 + 0x10000 * n.val := rfl
    have hinit : ¬ (DS.ready = DS.uninit ∨ DS.ready = DS.fail) := by decide
    have hfitted : ¬ DS.ready = DS.absent := by decide
    simp only [State.chCtlWrite, orNone, hclass, hfill, hmig, hsr, hinit, hoff, hfitted, hchState, hwget, hwget₂, hstate,
      hentering, Nat.reduceBEq, Bool.false_eq_true, if_true, if_false, Bool.false_eq_true, or_self, false_and, and_false,
      not_true, ne_eq, State.answered_true]
  · rw [exec_channelFill _ _ hcanWrite]
    have hfill : wget (w ||| 0x40000000#32) 30 30 = 1 := wget_or_self w _ 30 (by decide)
    simp only [State.chCtlWrite, orNone, hfill, hchState, ite_self, Nat.reduceBEq, if_true, and_self, true_or,
      not_false_eq_true, ne_eq, State.answered_false]
  · rw [exec_migrationStart _ _ hcanWrite]
    have hclass : wget (w ||| 0x20000000#32) 15 8 = wget w 15 8 := wget_or_ne w _ 15 8 (by decide)
    have hinit : wget (w ||| 0x20000000#32) 31 31 = wget w 31 31 := wget_or_ne w _ 31 31 (by decide)
    have hfill : wget (w ||| 0x20000000#32) 30 30 = wget w 30 30 := wget_or_ne w _ 30 30 (by decide)
    have hmig : wget (w ||| 0x20000000#32) 29 29 = 1 := wget_or_self w _ 29 (by decide)
    have hsr : wget (w ||| 0x20000000#32) 25 25 = wget w 25 25 := wget_or_ne w _ 25 25 (by decide)
    have hoff : (DDR.CH_CTL.SR n.val).off = 0x2000000 + 0x10000 * n.val := rfl
    simp only [State.chCtlWrite, orNone, hclass, hfill, hmig, hsr, hinit, hoff, hchState, hwget, hwget₂, hwget₃, hstate,
      hfilling, Nat.reduceBEq, Bool.false_eq_true, zero_ne_one, Nat.reduceEqDiff, if_true, if_false, Bool.false_eq_true,
      or_self, false_and, and_false, false_or, not_true, ne_eq, State.answered_true]
  · rw [exec_migrationStart _ _ hcanWrite]
    have hmig : wget (w ||| 0x20000000#32) 29 29 = 1 := wget_or_self w _ 29 (by decide)
    simp only [State.chCtlWrite, orNone, hmig, hstate, ite_self, Nat.reduceBEq, if_true, and_self, true_or,
      not_false_eq_true, ne_eq, State.answered_false]
  · rw [exec_selfRefreshEnter _ _ hcanWrite]
    obtain ⟨hinit₀, hfill₀, hmig₀⟩ := wget_31_29_zero hwget₂
    have hclass : wget (w ||| 0x2000000#32) 15 8 = wget w 15 8 := wget_or_ne w _ 15 8 (by decide)
    have hinit : wget (w ||| 0x2000000#32) 31 31 = wget w 31 31 := wget_or_ne w _ 31 31 (by decide)
    have hfill : wget (w ||| 0x2000000#32) 30 30 = wget w 30 30 := wget_or_ne w _ 30 30 (by decide)
    have hmig : wget (w ||| 0x2000000#32) 29 29 = wget w 29 29 := wget_or_ne w _ 29 29 (by decide)
    have hsr : wget (w ||| 0x2000000#32) 25 25 = 1 := wget_or_self w _ 25 (by decide)
    have hoff : (DDR.CH_CTL.SR n.val).off = 0x2000000 + 0x10000 * n.val := rfl
    simp only [State.chCtlWrite, orNone, hclass, hfill, hmig, hsr, hinit, hoff, hchState, hwget, hinit₀, hfill₀, hmig₀,
      Nat.reduceBEq, Bool.false_eq_true, zero_ne_one, if_true, if_false, Bool.false_eq_true, or_self, false_and, ne_eq,
      State.answered_true]
  · rw [exec_selfRefreshExit _ _ hcanWrite]
    obtain ⟨hinit₀, hfill₀, hmig₀⟩ := wget_31_29_zero hwget₂
    have hclass : wget (w &&& 0xFDFFFFFF#32) 15 8 = wget w 15 8 := wget_and_ne w _ 15 8 (by decide)
    have hinit : wget (w &&& 0xFDFFFFFF#32) 31 31 = wget w 31 31 := wget_and_ne w _ 31 31 (by decide)
    have hfill : wget (w &&& 0xFDFFFFFF#32) 30 30 = wget w 30 30 := wget_and_ne w _ 30 30 (by decide)
    have hmig : wget (w &&& 0xFDFFFFFF#32) 29 29 = wget w 29 29 := wget_and_ne w _ 29 29 (by decide)
    have hsr : wget (w &&& 0xFDFFFFFF#32) 25 25 = 0 := wget_and_self w _ 25 (by decide)
    have hoff : (DDR.CH_CTL.SR n.val).off = 0x2000000 + 0x10000 * n.val := rfl
    simp only [State.chCtlWrite, orNone, hclass, hfill, hmig, hsr, hinit, hoff, hchState, hwget, hinit₀, hfill₀, hmig₀,
      Nat.reduceBEq, Bool.false_eq_true, zero_ne_one, if_false, Bool.false_eq_true, or_self, false_and, ne_eq,
      State.answered_true]
  · have hrefused : ∀ x : Word, wget x 15 8 = wget w 15 8 → s.chCtlWrite n.val x = none := by
      intro x hclass
      rw [← hclass] at hchState
      rw [State.chCtlWrite, if_pos hchState]
    simp only [List.mem_cons, List.not_mem_nil, or_false] at hmem
    obtain rfl | rfl | rfl | rfl | rfl := hmem
    · rw [exec_channelInit _ _ hcanWrite, hrefused _ (wget_or_ne w _ 15 8 (by decide)), orNone, State.answered_false]
    · rw [exec_channelFill _ _ hcanWrite, hrefused _ (wget_or_ne w _ 15 8 (by decide)), orNone, State.answered_false]
    · rw [exec_migrationStart _ _ hcanWrite, hrefused _ (wget_or_ne w _ 15 8 (by decide)), orNone, State.answered_false]
    · rw [exec_selfRefreshEnter _ _ hcanWrite, hrefused _ (wget_or_ne w _ 15 8 (by decide)), orNone, State.answered_false]
    · rw [exec_selfRefreshExit _ _ hcanWrite, hrefused _ (wget_and_ne w _ 15 8 (by decide)), orNone, State.answered_false]
  · rw [exec_spareSubstitute _ _ hcanWrite]
    have hsrc : wget (w ||| 0x20000000#32) 27 26 = wget w 27 26 := wget_or_ne w _ 27 26 (by decide)
    have hsubst : wget (w ||| 0x20000000#32) 29 29 = 1 := wget_or_self w _ 29 (by decide)
    have hfitted : s.chState n.val ≠ DS.absent := by rw [hchState]; decide
    have hbusy : (s.rd (DDR.SPARE.STATE n.val) == 2) = false := beq_eq_false_iff_ne.mpr hstate
    have hidle : (s.chState n.val != DS.uninit) = false := by rw [hchState]; decide
    simp [State.spareWrite, orNone, hsrc, hsubst, hbusy, hchState, Bool.false_eq_true]
    rfl
  · rw [exec_spareSubstitute _ _ hcanWrite]
    simp [State.spareWrite, orNone, hchState]

end Sys2Proof.Machine
end

section
/-! PROOFS. Events of lanes and quads, and writes of a lane's registers. -/

namespace Sys2Proof.Machine

theorem exec_quadPllLock (u : Fin 25) (p : Fin 2) (s : State) :
    exec (.quadPllLock u p) s = execQuadPllLock u p s := rfl

theorem exec_lanePllFail (u : Fin 25) (p : Fin 2) (s : State) :
    exec (.lanePllFail u p) s = execLanePllFail u p s := rfl

theorem exec_quadRefQualified (u : Fin 25) (s : State) :
    exec (.quadRefQualified u) s = execQuadRefQualified u s := rfl

theorem exec_quadRefLoss (u : Fin 25) (s : State) :
    exec (.quadRefLoss u) s = execQuadRefLoss u s := rfl

theorem exec_txOnReached (n : Fin 100) (s : State) :
    exec (.txOnReached n) s = execTxOnReached n s := rfl

theorem exec_rxSignalDetect (n : Fin 100) (s : State) :
    exec (.rxSignalDetect n) s = execRxSignalDetect n s := rfl

theorem exec_rxCdrLock (n : Fin 100) (s : State) :
    exec (.rxCdrLock n) s = execRxCdrLock n s := rfl

theorem exec_rxLocked (n : Fin 100) (snr : Byte) (ctle : Fin 32) (taps : List Byte) (s : State) :
    exec (.rxLocked n snr ctle taps) s = execRxLocked n snr ctle taps s := rfl

theorem exec_rxLockLost (n : Fin 100) (s : State) :
    exec (.rxLockLost n) s = execRxLockLost n s := rfl

theorem exec_rxSignalLost (n : Fin 100) (s : State) :
    exec (.rxSignalLost n) s = execRxSignalLost n s := rfl

theorem exec_rxNoLock (n : Fin 100) (s : State) :
    exec (.rxNoLock n) s = execRxNoLock n s := rfl

theorem exec_prbsCheckerLock (n : Fin 100) (seed : BitVec 31) (bits : BitVec 1024) (s : State) :
    exec (.prbsCheckerLock n seed bits) s = execPrbsCheckerLock n seed bits s := rfl

theorem exec_prbsCheckerBlock (n : Fin 100) (bits : BitVec 1024) (s : State) :
    exec (.prbsCheckerBlock n bits) s = execPrbsCheckerBlock n bits s := rfl

theorem exec_elasticBufferSlip (n : Fin 100) (s : State) :
    exec (.elasticBufferSlip n) s = execElasticBufferSlip n s := rfl

theorem exec_continuousErrorInjection (n : Fin 100) (s : State) :
    exec (.continuousErrorInjection n) s = execContinuousErrorInjection n s := rfl

theorem lanesRun : Sys2Proof.Machine.LanesRun := by
  unfold Sys2Proof.Machine.LanesRun
  intro s n
  dsimp only
  refine ⟨fun u p hen href_ok => ⟨?_, ?_⟩, fun u hislandUp => ?_, fun u href_ok => ?_, fun htx_state hlock => ?_,
    fun hrx_state href_ok => ?_, fun hrx_state => ?_, fun snr ctle taps hrx_state hsnr_min => ?_,
    fun hrx_state => ?_, fun hrx_state => ?_, fun hrx_state hrx_state₂ hnolock => ?_,
    fun seed bits hchk_en hlock hrx_state => ⟨fun hpatSeed hfst => ?_, fun hpatSeed => ?_⟩, fun bits hlock => ?_,
    fun hloop => ?_, fun hcont htx_state => ?_⟩
  · simp [exec_quadPllLock, execQuadPllLock, hen, href_ok]
  · simp [exec_lanePllFail, execLanePllFail, hen, href_ok]
  · simp [exec_quadRefQualified, execQuadRefQualified, hislandUp]
  · simp [exec_quadRefLoss, execQuadRefLoss, href_ok]
  · simp [exec_txOnReached, execTxOnReached, htx_state, hlock, apply_ite Host.Outcome.next]
    rfl
  · simp [exec_rxSignalDetect, execRxSignalDetect, hrx_state, href_ok]
  · simp [exec_rxCdrLock, execRxCdrLock, hrx_state]
  · simp [exec_rxLocked, execRxLocked, hrx_state, hsnr_min]
  · simp [exec_rxLockLost, execRxLockLost, hrx_state]
  · simp [exec_rxSignalLost, execRxSignalLost, hrx_state]
  · simp [exec_rxNoLock, execRxNoLock, hrx_state, hrx_state₂, hnolock]
  · simp [exec_prbsCheckerLock, execPrbsCheckerLock, hchk_en, hlock, hrx_state, hpatSeed, hfst]
  · rcases hpatSeed with hpatSeed | hpatSeed
    all_goals simp [exec_prbsCheckerLock, execPrbsCheckerLock, hchk_en, hlock, hrx_state, hpatSeed]
  · simp [exec_prbsCheckerBlock, execPrbsCheckerBlock, hlock, apply_ite Host.Outcome.next]
  · simp [exec_elasticBufferSlip, execElasticBufferSlip, hloop]
  · simp [exec_continuousErrorInjection, execContinuousErrorInjection, hcont, htx_state]

/-! The writes of a lane's registers. -/

/-- R383 to R387: LANE.CTL is written where no rule refuses it. -/
theorem State.laneCtlWrite_accepted {s : State} {n : Nat} {w : Word}
    (htx : wget w 31 30 ≠ 3) (hrx : wget w 29 28 ≠ 3) (hloop : wget w 15 14 ≠ 3) (hdivider : wget w 3 0 ≤ 10)
    (hnear : wget w 15 14 = 1 → wget w 31 30 = 2 ∧ wget w 29 28 = 2)
    (hrate : wget w 27 27 ≠ s.rd (LANE.CTL.PLL n) ∨ wget w 26 26 ≠ s.rd (LANE.CTL.MOD n) ∨ wget w 23 16 ≠ s.rd (LANE.CTL.DIV n) →
      s.rd (LANE.CTL.TX_PWR n) ≠ 2 ∧ s.rd (LANE.CTL.RX_PWR n) ≠ 2)
    (hok : rateOk n (s.pllKhz (quadOf n) (wget w 27 27)) (wget w 26 26) (wget w 23 16) = true)
    (hforeign : wget w 3 0 ≠ s.rd (LANE.CTL.RCDIV n) → s.laneOnForeign n = false)
    (hclock : wget w 3 0 ≠ 0 → 2 * s.pllKhz (quadOf n) (wget w 27 27) / wget w 23 16 ≤ 1200000 * rcDivOf (wget w 3 0)) :
    s.laneCtlWrite n w = some (((s.setReg (0x3000000 + 0x1000 * n) (w &&& 0xFCFFFC0F)).setTxPower n (wget w 31 30)).setRxPower
      n (wget w 29 28)) := by
  have hform : ¬ (wget w 31 30 = 3 ∨ wget w 29 28 = 3 ∨ wget w 15 14 = 3 ∨ 10 < wget w 3 0) := by omega
  have hloops : ¬ (wget w 15 14 = 1 ∧ ¬ (wget w 31 30 = 2 ∧ wget w 29 28 = 2)) := fun ⟨h1, hnot⟩ => hnot (hnear h1)
  have hkept : ¬ ((decide (wget w 27 27 ≠ s.rd (LANE.CTL.PLL n)) || decide (wget w 26 26 ≠ s.rd (LANE.CTL.MOD n)) ||
      decide (wget w 23 16 ≠ s.rd (LANE.CTL.DIV n))) = true ∧
      (s.rd (LANE.CTL.TX_PWR n) == 2 || s.rd (LANE.CTL.RX_PWR n) == 2) = true) := by
    simp only [Bool.or_eq_true, decide_eq_true_eq, beq_iff_eq, or_assoc]
    rintro ⟨hchange, hon⟩
    obtain ⟨htxOff, hrxOff⟩ := hrate hchange
    exact hon.elim htxOff hrxOff
  have hsource : ¬ (wget w 3 0 ≠ s.rd (LANE.CTL.RCDIV n) ∧ s.laneOnForeign n = true) :=
    fun ⟨hchange, hon⟩ => Bool.noConfusion ((hforeign hchange).symm.trans hon)
  have hfast : ¬ (wget w 3 0 ≠ 0 ∧ 1200000 * rcDivOf (wget w 3 0) < 2 * s.pllKhz (quadOf n) (wget w 27 27) / wget w 23 16) :=
    fun ⟨hused, hover⟩ => (hclock hused).not_gt hover
  rw [State.laneCtlWrite]
  simp only [if_neg hform, if_neg hloops, if_neg hkept, hok, if_neg hsource, if_neg hfast, Bool.not_true,
    Bool.false_eq_true, if_false]
  rfl

theorem State.writeReg_qpll {s : State} {q : Req} {u p : Nat} (hu : u < 25) (hp : p < 2) (w : Word) :
    s.writeReg q (0x3000800 + 0x4000 * u + 4 * p) w = orNone s (s.qpllWrite u p w) := by
  obtain rfl | rfl : p = 0 ∨ p = 1 := by omega
  · exact State.writeReg_qpll0 s q w hu
  · rw [show 0x3000800 + 0x4000 * u + 4 * 1 = 0x3000804 + 0x4000 * u by omega]
    exact State.writeReg_qpll1 s q w hu

theorem exec_txPresetChange_preset {s : State} {q : Req} (n : Fin 100) (w : Word)
    (h : s.canWrite q (0x3000008 + 0x1000 * n.val + 0)) :
    exec (.txPresetChange q n false w) s = .next (State.answered (orNone s (s.txEqWrite n.val w))) :=
  congrArg _ (State.busPut_ungated h (State.writeReg_txEq s q w n.isLt) (by omega))

theorem exec_txPresetChange_taps {s : State} {q : Req} (n : Fin 100) (w : Word)
    (h : s.canWrite q (0x3000008 + 0x1000 * n.val + 4)) :
    exec (.txPresetChange q n true w) s = .next (State.answered (orNone s (s.txFirWrite n.val w))) := by
  have hoff : 0x3000008 + 0x1000 * n.val + 4 = 0x300000C + 0x1000 * n.val := by omega
  have hwrite : s.writeReg q (0x3000008 + 0x1000 * n.val + 4) w = orNone s (s.txFirWrite n.val w) := by
    rw [hoff, State.writeReg_txFir s q w n.isLt]
  exact congrArg _ (State.busPut_ungated h hwrite (by omega))

theorem exec_quadPllEnable {s : State} {q : Req} (u : Fin 25) (p : Fin 2) (w : Word)
    (h : s.canWrite q (0x3000800 + 0x4000 * u.val + 4 * p.val)) :
    exec (.quadPllEnable q u p w) s = .next (State.answered (orNone s (s.qpllWrite u.val p.val (w ||| 0x80000000#32)))) :=
  congrArg _ (State.busPut_ungated h (State.writeReg_qpll u.isLt p.isLt _) (by omega))

theorem laneWritesRun : Sys2Proof.Machine.LaneWritesRun := by
  unfold Sys2Proof.Machine.LaneWritesRun
  intro s q n
  dsimp only
  refine ⟨fun hcanWrite => ⟨fun p => ?_, fun p => ?_, fun pll mod d => ?_, fun m => ?_, fun c => ?_,
    fun w hwget hwget₂ hwget₃ hwget₄ h h₂ hrateOk h₃ h₄ => ?_⟩, fun w hcanWrite => ⟨fun hnwget => ?_,
    fun hwget hwget₂ => ?_⟩, fun w hcanWrite => ⟨fun hnatAbs => ?_, fun hnnatAbs => ?_⟩,
    fun w hcanWrite => ⟨fun hwget hwget₂ => ?_, fun hwget => ?_⟩,
    fun u p w hcanWrite => ⟨fun h hwget hwget₂ hwget₃ hwget₄ => ?_, fun hwget => ?_⟩⟩
  · rw [exec_laneTxPowerSet _ _ hcanWrite]
  · rw [exec_laneRxPowerSet _ _ hcanWrite]
  · rw [exec_laneRateSet _ _ _ _ hcanWrite]
  · rw [exec_laneLoopbackSet _ _ hcanWrite]
  · rw [exec_recoveredClockDivider _ _ hcanWrite]
  · rw [State.laneCtlWrite_accepted hwget hwget₂ hwget₃ hwget₄ h h₂ hrateOk h₃ h₄, orNone, State.answered_true]
  · rw [exec_txPresetChange_preset _ _ hcanWrite]
    simp only [State.txEqWrite, orNone, if_neg hnwget, State.answered_true]
    rfl
  · rw [exec_txPresetChange_preset _ _ hcanWrite]
    simp only [State.txEqWrite, orNone, hwget, hwget₂, if_true, and_self, State.answered_false]
  · rw [exec_txPresetChange_taps _ _ hcanWrite]
    have hgood : ¬ (64 < (BitVec.ofNat 8 (wget w 31 24)).toInt.natAbs + (BitVec.ofNat 8 (wget w 23 16)).toInt.natAbs +
        (BitVec.ofNat 8 (wget w 15 8)).toInt.natAbs + (BitVec.ofNat 8 (wget w 7 0)).toInt.natAbs ∨
        (BitVec.ofNat 8 (wget w 15 8)).toInt < 16 ∨ (64 ≤ n.val ∧ (BitVec.ofNat 8 (wget w 31 24)).toInt ≠ 0)) := by
      obtain ⟨hsum, hmain, hpre⟩ := hnatAbs
      rintro (hover | hlow | ⟨hfast, hused⟩)
      · exact hsum.not_gt hover
      · exact hmain.not_gt hlow
      · exact hused (hpre hfast)
    rw [State.txFirWrite]
    dsimp only
    rw [if_neg hgood]
    rfl
  · rw [exec_txPresetChange_taps _ _ hcanWrite]
    rw [State.txFirWrite]
    dsimp only
    rw [if_pos (by
      by_contra hgood
      push Not at hgood
      exact hnnatAbs hgood)]
    rfl
  · rw [exec_injectOnce _ _ hcanWrite]
    have hcount : wget (w ||| 0x80000000#32) 29 24 = wget w 29 24 := wget_or_ne w _ 29 24 (by decide)
    have hstart : wget (w ||| 0x80000000#32) 31 31 = 1 := wget_or_self w _ 31 (by decide)
    have hrange : ¬ (wget w 29 24 < 10 ∨ 40 < wget w 29 24) := by omega
    have hoff : (LANE.INJ_CTL.CONT n.val).off = 0x3000028 + 0x1000 * n.val := rfl
    rw [State.injWrite, hcount, if_neg hrange, hstart, hoff, if_neg one_ne_zero]
    split
    · simp [orNone]
    · simp [orNone]
  · rw [exec_injectOnce _ _ hcanWrite]
    have hcount : wget (w ||| 0x80000000#32) 29 24 = wget w 29 24 := wget_or_ne w _ 29 24 (by decide)
    rw [State.injWrite, hcount, if_pos hwget, orNone, State.answered_false]
  · rw [exec_quadPllEnable _ _ _ hcanWrite]
    have hn : wget (w ||| 0x80000000#32) 9 0 = wget w 9 0 := wget_or_ne w _ 9 0 (by decide)
    have hen : wget (w ||| 0x80000000#32) 31 31 = 1 := wget_or_self w _ 31 (by decide)
    have hrange : ¬ (wget w 9 0 < 160 ∨ 560 < wget w 9 0 ∨ wget w 9 0 * s.rd (LANE.QREF.FREF_KHZ u.val) < 40000000 ∨
        56000000 < wget w 9 0 * s.rd (LANE.QREF.FREF_KHZ u.val)) := by
      rintro (hlow | hhigh | hslow | hfast)
      · exact hwget.not_gt hlow
      · exact hwget₂.not_gt hhigh
      · exact hwget₃.not_gt hslow
      · exact hwget₄.not_gt hfast
    rw [State.qpllWrite]
    simp only [hn, hen]
    rw [if_neg fun hx => Bool.noConfusion ((h hx.1).symm.trans hx.2), if_neg hrange]
    rfl
  · rw [exec_quadPllEnable _ _ _ hcanWrite]
    have hn : wget (w ||| 0x80000000#32) 9 0 = wget w 9 0 := wget_or_ne w _ 9 0 (by decide)
    rw [State.qpllWrite]
    simp only [hn, if_pos hwget, ite_self]
    rfl

/-- Settles O47. -/
theorem laneCommandsRun : Obligations.LaneCommandsRun := ⟨lanesRun, laneWritesRun⟩

end Sys2Proof.Machine
end

section
/-! PROOFS. Frames and links of the frame engine. -/

namespace Sys2Proof.Machine

theorem exec_rxFrame (m : Fin 100) (bs : List Byte) (bad : Bool) (phase : Fin 64) (taken poisoned : Bool) (s : State) :
    exec (.rxFrame m bs bad phase taken poisoned) s = execRxFrame m bs bad phase taken poisoned s := rfl

theorem exec_pauseExpiry (m : Fin 100) (c : Fin 8) (s : State) :
    exec (.pauseExpiry m c) s = execPauseExpiry m c s := rfl

theorem exec_linkUp (m : Fin 100) (s : State) :
    exec (.linkUp m) s = execLinkUp m s := rfl

theorem exec_linkDown (m : Fin 100) (lf rf : Bool) (s : State) :
    exec (.linkDown m lf rf) s = execLinkDown m lf rf s := rfl

theorem exec_txStreamFrame (m : Fin 96) (bs : List Byte) (abort : Bool) (fid : Option (BitVec 16)) (phase : Fin 64)
    (partly : Bool) (s : State) :
    exec (.txStreamFrame m bs abort fid phase partly) s = execTxStreamFrame m bs abort fid phase partly s := rfl

/-- Settles O48, clause by clause. -/
theorem frameEngineRuns : Obligations.FrameEngineRuns := by
  unfold Obligations.FrameEngineRuns
  intro s m
  dsimp only
  refine ⟨fun bs bad phase taken poisoned hen hlink => ⟨fun hlength => ?_, fun hlength => ⟨fun hfcsGood => ?_,
    fun hfcsGood => ?_, fun hfcsGood hfcsGood₂ hptpq_en => ⟨fun hmaxlen => ?_, fun hlength₂ h => ?_⟩,
    fun hfcsGood hfcsGood₂ h => ⟨fun hptpq_en => ?_, fun hptpq_en => ?_⟩⟩⟩, fun c => ?_,
    fun hen hlink hportLocked => ?_, fun lf rf => ?_,
    fun k bs abort fid phase partly hen htx_src h htxReady hstoreSegs => ⟨fun hlink => ?_, fun hlink hstore => ?_,
    fun hlink hstore hnextTx => ?_⟩⟩
  · simp only [exec_rxFrame, execRxFrame, hen, hlink, hlength, if_true, if_false, Bool.true_eq_false, or_self,
      decide_eq_true_eq]
  · simp only [exec_rxFrame, execRxFrame, hen, hlink, hlength.not_gt, hfcsGood, if_true, if_false, Bool.true_eq_false,
      or_self, decide_eq_true_eq]
  · have hkept : ((bad || !fcsGood bs) && !s.bit (FEN.RX_CFG.BADFCS m.val)) = false := by
      simp only [Bool.and_eq_true, Bool.not_eq_true'] at hfcsGood
      rw [hfcsGood.1, Bool.false_and]
    simp only [exec_rxFrame, execRxFrame, hen, hlink, hlength.not_gt, hkept, hfcsGood, if_true, if_false,
      Bool.false_eq_true, Bool.true_eq_false, or_self, decide_eq_true_eq]
  · simp only [exec_rxFrame, execRxFrame, hen, hlink, hlength.not_gt, hfcsGood, hfcsGood₂, hptpq_en, hmaxlen, if_true,
      if_false, Bool.false_eq_true, Bool.true_eq_false, and_self, or_self, true_and, Bool.not_true, Bool.or_true,
      Bool.true_or, Bool.and_false, decide_true]
  · simp only [exec_rxFrame, execRxFrame, hen, hlink, hlength.not_gt, hfcsGood, hfcsGood₂, hptpq_en, hlength₂.not_gt, h,
      if_true, if_false, Bool.false_eq_true, Bool.true_eq_false, and_self, or_self, and_false, Bool.not_false,
      Bool.or_false, Bool.false_or, Bool.and_true, decide_false]
  · obtain ⟨hfits, htaken⟩ := h hptpq_en
    simp only [exec_rxFrame, execRxFrame, hen, hlink, hlength.not_gt, hfcsGood, hfcsGood₂, hfits.not_gt, htaken, hptpq_en,
      if_true, if_false, Bool.false_eq_true, Bool.true_eq_false, or_self, and_false, Bool.not_true, Bool.not_false,
      Bool.or_false, Bool.false_or, Bool.and_true, decide_false]
  · simp only [exec_rxFrame, execRxFrame, hen, hlink, hlength.not_gt, hfcsGood, hfcsGood₂, hptpq_en, if_false,
      Bool.false_eq_true, Bool.true_eq_false, or_self, false_and, decide_eq_true_eq]
  · simp [exec_pauseExpiry, execPauseExpiry]
  · simp [exec_linkUp, execLinkUp, hen, hlink, hportLocked]
  · simp [exec_linkDown, execLinkDown]
  · rcases htxReady with htxReady | htxReady
    all_goals simp [exec_txStreamFrame, execTxStreamFrame, hen, htx_src, h, htxReady, hstoreSegs, hlink]
  · rcases htxReady with htxReady | htxReady <;> rcases hstore with hstore | hstore
    all_goals simp [exec_txStreamFrame, execTxStreamFrame, hen, htx_src, h, htxReady, hstoreSegs, hlink, hstore]
  · rcases htxReady with htxReady | htxReady
    all_goals simp [exec_txStreamFrame, execTxStreamFrame, hen, htx_src, h, htxReady, hstoreSegs, hlink, hstore, hnextTx]

end Sys2Proof.Machine
end

section
/-! PROOFS. Queues of the queue manager. -/

namespace Sys2Proof.Machine

theorem exec_rxFrameWrite (n : Fin 65536) (s : State) :
    exec (.rxFrameWrite n) s = execRxFrameWrite n s := rfl

theorem exec_queueStage (m : Fin 96) (s : State) :
    exec (.queueStage m) s = execQueueStage m s := rfl

theorem exec_timedLaunch (m : Fin 96) (phase : Fin 64) (s : State) :
    exec (.timedLaunch m phase) s = execTimedLaunch m phase s := rfl

/-- The stored frames of port m that a timed launch finds due. -/
def State.launchDue (s : State) (m : Nat) : List TxF :=
  (s.fport m).store.filter fun f => match f.launch with
    | some t => decide (s.startOf m t ≤ s.portNow m) && !(s.fport m).holds f.cls && !s.qPaused (f.q.getD 0)
        && ((s.fport m).store.find? fun x => x.q == f.q) == some f
    | none => false

/-- The frame with the earliest launch time of those that are due goes to the wire. -/
def State.launchEarliest (s : State) (m phase : Nat) : List TxF → Host.Outcome State Fault Refusal
  | [] => .next s
  | f :: t =>
    let p := s.fport m
    let g := t.foldl (fun a b => if b.launch.getD 0 < a.launch.getD 0 then b else a) f
    if s.bit (FEN.PORT_STAT.LINK m) = false ∨ p.wire.isSome then .next s
    else .next ((s.setFport m { p with store := p.store.erase g, wire := some g }).sendFrame m g phase)

theorem exec_timedLaunch_due (m : Fin 96) (phase : Fin 64) (s : State) :
    exec (.timedLaunch m phase) s = s.launchEarliest m.val phase.val (s.launchDue m.val) := rfl

theorem exec_lateTimedFrame (n : Fin 65536) (s : State) :
    exec (.lateTimedFrame n) s = execLateTimedFrame n s := rfl

theorem exec_txFrameDone (m : Fin 100) (phase : Fin 64) (s : State) :
    exec (.txFrameDone m phase) s = execTxFrameDone m phase s := rfl

/-- Settles O49, clause by clause. -/
theorem queuesRun : Obligations.QueuesRun := by
  unfold Obligations.QueuesRun
  intro s
  dsimp only
  refine ⟨fun n f rest hheld hqRuns hdir hqAvail hinitHeld => ⟨fun u hfetchDesc => ?_,
    fun u d hfetchDesc hdescW => ?_, fun u d hfetchDesc hbytes => ?_⟩, fun m hen htx_src => ?_,
    fun m phase f t hfilter hlink hwire => ?_, fun n hen hdir hqPaused => ⟨fun f hfindq hstartOf hlate_drop => ?_,
    fun f hfindq hstartOf hlate_drop => ?_,
    fun u d t hfindq hqRuns hinitHeld hqInFlight hfetchDesc hdescLaunch => ?_⟩, fun m phase => ⟨fun f hwire => ?_,
    fun f hwire hen hnextTx => ?_, fun hwire hen => ?_⟩⟩
  · simp [exec_rxFrameWrite, execRxFrameWrite, hheld, hqRuns, hdir, hqAvail, hinitHeld, hfetchDesc]
  · simp only [exec_rxFrameWrite, execRxFrameWrite, hheld, hqRuns, hdir, hqAvail, hinitHeld, hfetchDesc, hdescW, if_true,
      if_false, Bool.false_eq_true, Bool.true_eq_false, or_self]
  · simp only [exec_rxFrameWrite, execRxFrameWrite, hheld, hqRuns, hdir, hqAvail, hinitHeld, hfetchDesc, hbytes.not_gt,
      if_false, Bool.false_eq_true, Bool.true_eq_false, or_self]
  · simp [exec_queueStage, execQueueStage, hen, htx_src]
  · have hdue : s.launchDue m.val = f :: t := hfilter
    simp [exec_timedLaunch_due, hdue, State.launchEarliest, hlink, hwire]
  · simp [exec_lateTimedFrame, execLateTimedFrame, hen, hdir, hqPaused, hfindq, hstartOf, hlate_drop]
  · simp [exec_lateTimedFrame, execLateTimedFrame, hen, hdir, hqPaused, hfindq, hstartOf, hlate_drop]
  · simp [exec_lateTimedFrame, execLateTimedFrame, hen, hdir, hqPaused, hfindq, hqRuns, hinitHeld, hqInFlight, hfetchDesc,
      hdescLaunch]
  · simp [exec_txFrameDone, execTxFrameDone, hwire]
  · simp [exec_txFrameDone, execTxFrameDone, hwire, hen, hnextTx]
  · rcases hen with hen | hen
    all_goals simp [exec_txFrameDone, execTxFrameDone, hwire, hen]

end Sys2Proof.Machine
end

section
/-! PROOFS. Writes of the frame engine's and the queue manager's registers. -/

namespace Sys2Proof.Machine



/-- Settles O50, clause by clause. -/
theorem frameWritesRun : Obligations.FrameWritesRun := by
  unfold Obligations.FrameWritesRun
  intro s q w
  dsimp only
  refine ⟨fun m hcanWrite => ⟨?_, ?_, fun hwget hwget₂ hwget₃ => ⟨fun hen hportFits => ?_, fun hen => ?_⟩⟩,
    fun m hcanWrite => ⟨fun hen => ?_, fun hen => ?_⟩, fun n hcanWrite => ⟨?_, ?_,
    fun hwget hwget₂ hwget₃ hvatOfLane => ⟨fun hen => ?_, fun hen hwset => ?_⟩⟩, fun n hcanWrite => ?_,
    fun hcanWrite => ?_⟩
  · rw [exec_portEnable _ _ hcanWrite]
  · rw [exec_portDisable _ _ hcanWrite]
  · rw [exec_portEnable _ _ hcanWrite]
    have hload : wget (w ||| 0x80000000#32) 29 28 = wget w 29 28 := wget_or_ne w _ 29 28 (by decide)
    have hmode : wget (w ||| 0x80000000#32) 23 20 = wget w 23 20 := wget_or_ne w _ 23 20 (by decide)
    have hlen : wget (w ||| 0x80000000#32) 19 6 = wget w 19 6 := wget_or_ne w _ 19 6 (by decide)
    have hon : wget ((w ||| 0x80000000#32) &&& (wmask 31 26 ||| wmask 23 6)) 31 31 = 1 := by
      rw [wget_and_ne _ _ 31 31 (by decide), wget_or_self w _ 31 (by decide)]
    simp only [State.portCtlWrite, hload, hmode, hlen, hon, hwget, hwget₂, hwget₃.not_gt, hen, hportFits, if_true,
      if_false, Bool.false_eq_true, or_self, false_and, State.answered_true]
    rfl
  · rw [exec_portDisable _ _ hcanWrite]
    have hload : wget (w &&& 0x7FFFFFFF#32) 29 28 = wget w 29 28 := wget_and_ne w _ 29 28 (by decide)
    have hmode : wget (w &&& 0x7FFFFFFF#32) 23 20 = wget w 23 20 := wget_and_ne w _ 23 20 (by decide)
    have hlen : wget (w &&& 0x7FFFFFFF#32) 19 6 = wget w 19 6 := wget_and_ne w _ 19 6 (by decide)
    have hoff : wget ((w &&& 0x7FFFFFFF#32) &&& (wmask 31 26 ||| wmask 23 6)) 31 31 = 0 := by
      rw [wget_and_ne _ _ 31 31 (by decide), wget_and_self w _ 31 (by decide)]
    simp only [State.portCtlWrite, hload, hmode, hlen, hoff, zero_ne_one, hwget, hwget₂, hwget₃.not_gt, hen, if_true,
      if_false, or_self, true_and, State.answered_true]
    rfl
  · rw [exec_sendPause _ _ hcanWrite]
    have hnow : wget (w ||| 0x80000000#32) 31 31 = 1 := wget_or_self w _ 31 (by decide)
    have hreg : (FEN.FC_TX.PFC m.val).off = 0x4000018 + 0x1000 * m.val := rfl
    simp only [State.fcTxWrite, hnow, hreg, hen, if_true, and_self, State.answered_true]
  · rw [exec_sendPause _ _ hcanWrite]
    have hnow : wget (w ||| 0x80000000#32) 31 31 = 1 := wget_or_self w _ 31 (by decide)
    have hreg : (FEN.FC_TX.PFC m.val).off = 0x4000018 + 0x1000 * m.val := rfl
    simp only [State.fcTxWrite, hnow, hreg, hen, if_false, Bool.false_eq_true, and_false, State.answered_true]
  · rw [exec_queueEnable _ _ hcanWrite]
  · rw [exec_queueDisable _ _ hcanWrite]
  · rw [exec_queueEnable _ _ hcanWrite]
    have hbits : wget ((w ||| 0x80000000#32) &&& (wmask 31 28 ||| wmask 26 12 ||| wmask 7 0)) 23 16 = wget w 23 16 := by
      rw [wget_and_ne _ _ 23 16 (by decide), wget_or_ne w _ 23 16 (by decide)]
    have hsize : wget ((w ||| 0x80000000#32) &&& (wmask 31 28 ||| wmask 26 12 ||| wmask 7 0)) 15 12 = wget w 15 12 := by
      rw [wget_and_ne _ _ 15 12 (by decide), wget_or_ne w _ 15 12 (by decide)]
    have hport : wget ((w ||| 0x80000000#32) &&& (wmask 31 28 ||| wmask 26 12 ||| wmask 7 0)) 7 0 = wget w 7 0 := by
      rw [wget_and_ne _ _ 7 0 (by decide), wget_or_ne w _ 7 0 (by decide)]
    have hon : wget ((w ||| 0x80000000#32) &&& (wmask 31 28 ||| wmask 26 12 ||| wmask 7 0)) 31 31 = 1 := by
      rw [wget_and_ne _ _ 31 31 (by decide), wget_or_self w _ 31 (by decide)]
    have hreg : (QM.QCFG.EN n.val).off = 0x4900000 + 0x20 * n.val := rfl
    simp only [State.qCfgWrite, hbits, hsize, hport, hon, hreg, hwget, hwget₂.not_gt, hwget₃.not_ge, hvatOfLane, hen,
      one_ne_zero, if_true, if_false, Bool.false_eq_true, and_self, or_self, false_and, not_true, Bool.not_false, ne_eq,
      State.answered_true]
  · rw [exec_queueDisable _ _ hcanWrite]
    have hbits : wget ((w &&& 0x7FFFFFFF#32) &&& (wmask 31 28 ||| wmask 26 12 ||| wmask 7 0)) 23 16 = wget w 23 16 := by
      rw [wget_and_ne _ _ 23 16 (by decide), wget_and_ne w _ 23 16 (by decide)]
    have hsize : wget ((w &&& 0x7FFFFFFF#32) &&& (wmask 31 28 ||| wmask 26 12 ||| wmask 7 0)) 15 12 = wget w 15 12 := by
      rw [wget_and_ne _ _ 15 12 (by decide), wget_and_ne w _ 15 12 (by decide)]
    have hport : wget ((w &&& 0x7FFFFFFF#32) &&& (wmask 31 28 ||| wmask 26 12 ||| wmask 7 0)) 7 0 = wget w 7 0 := by
      rw [wget_and_ne _ _ 7 0 (by decide), wget_and_ne w _ 7 0 (by decide)]
    have hon : wget ((w &&& 0x7FFFFFFF#32) &&& (wmask 31 28 ||| wmask 26 12 ||| wmask 7 0)) 31 31 = 0 := by
      rw [wget_and_ne _ _ 31 31 (by decide), wget_and_self w _ 31 (by decide)]
    have hreg : (QM.QCFG.EN n.val).off = 0x4900000 + 0x20 * n.val := rfl
    simp only [State.qCfgWrite, hbits, hsize, hport, hon, hreg, hwget, hwget₂.not_gt, hwget₃.not_ge, hvatOfLane, hen,
      zero_ne_one, hwset, if_true, if_false, Bool.false_eq_true, and_self, or_self, and_false, not_true, Bool.not_true,
      ne_eq, State.answered_true]
  · rw [exec_queueDoorbell _ _ hcanWrite]
    rw [State.pidxWrite]
    simp only [Bool.and_eq_true, decide_eq_true_eq, and_assoc]
    split
    · rfl
    · rfl
  · rw [exec_queueResume _ hcanWrite]
    simp [State.qResumeWrite]

end Sys2Proof.Machine
end

section
/-! PROOFS. What the processors meet. -/

namespace Sys2Proof.Machine

theorem exec_fastInterruptEntry (c : Fin 6) (r : CpuRun) (s : State) :
    exec (.fastInterruptEntry c r) s = execFastInterruptEntry c r s := rfl

theorem exec_fret (c : Fin 6) (r : CpuRun) (s : State) :
    exec (.fret c r) s = execFret c r s := rfl

theorem exec_poisonedWordLoad (c : Fin 6) (x : CpuLoad) (s : State) :
    exec (.poisonedWordLoad c x) s = execPoisonedWordLoad c x s := rfl

theorem exec_storeErrorResponse (c : Fin 6) (st : Fin 6) (a : BitVec 64) (s : State) :
    exec (.storeErrorResponse c st a) s = execStoreErrorResponse c st a s := rfl

theorem exec_msterrClear (c : Fin 6) (s : State) :
    exec (.msterrClear c) s = execMsterrClear c s := rfl

theorem exec_mtimeCompare (k : Fin 4) (s : State) :
    exec (.mtimeCompare k) s = execMtimeCompare k s := rfl

/-- A processor that does not run takes no fault. -/
theorem State.loadFault_stopped {s : State} {c : Nat} (h : s.procRuns c = false ∨ s.procHalted c = true) (x : CpuLoad)
    (info : Nat) : s.loadFault c x info = s := by
  obtain h | h := h
  · simp [State.loadFault, h]
  · simp [State.loadFault, h]

theorem State.loadFault_runs {s : State} {c : Nat} (hruns : s.procRuns c = true) (hfree : s.procHalted c = false) (x : CpuLoad)
    (info : Nat) :
    s.loadFault c x info = (s.cpuRan c x.run).setProc c ((((s.cpuRan c x.run).proc c).setCsr csrMerrinfo
      (BitVec.ofNat 64 info)).trap (if x.fetch then 1 else 5) (xlen c x.addr)) := by
  simp only [State.loadFault, hruns, hfree, Bool.not_true, Bool.or_self, Bool.false_eq_true, if_false]

/-- Settles O51, clause by clause. -/
theorem processorsRun : Obligations.ProcessorsRun := by
  unfold Obligations.ProcessorsRun
  intro s c
  dsimp only
  refine ⟨fun r => ⟨fun hfastOffered => ?_, fun i hfastOffered hgetCsr hgetCsr₂ hprocRuns hprocHalted => ?_,
    fun hprocRuns => ?_, fun hprocRuns hprocHalted => ⟨fun hgetCsr => ?_, fun hgetCsr => ?_⟩⟩,
    fun x => ⟨fun hmatch_1 => ?_, fun hmatch_1 hprocRuns hprocHalted => ?_⟩, fun st a => ⟨fun hstatusOf => ?_,
    fun hstatusOf hgetCsr => ?_, fun hstatusOf hgetCsr => ?_⟩, ?_, fun k => ⟨fun hrd64 => ?_, fun hnrd64 => ?_⟩,
    fun q k w hcanWrite => ⟨fun hrun => ?_, fun h hrun => ?_, ?_⟩⟩
  · cases hoffer : s.fastOffered c.val with
    | none => simp [exec_fastInterruptEntry, execFastInterruptEntry, hoffer]
    | some i =>
      rw [hoffer] at hfastOffered
      have hopen : ¬ (((((s.cpuRan c.val r).proc c.val).getCsr csrFstatus).getLsbD 0 &&
          !(((s.cpuRan c.val r).proc c.val).getCsr csrFstatus).getLsbD 1 && s.procRuns c.val && !s.procHalted c.val) = true) := by
        simp only [Bool.and_eq_true, Bool.not_eq_true']
        rintro ⟨⟨⟨henabled, hfree⟩, hruns⟩, hhalted⟩
        obtain hx | hx | hx | hx | hx := hfastOffered
        · cases hx
        · exact Bool.noConfusion (hx.symm.trans henabled)
        · exact Bool.noConfusion (hfree.symm.trans hx)
        · exact Bool.noConfusion (hx.symm.trans hruns)
        · exact Bool.noConfusion (hhalted.symm.trans hx)
      simp only [exec_fastInterruptEntry, execFastInterruptEntry, hoffer, if_neg hopen]
  · simp only [exec_fastInterruptEntry, execFastInterruptEntry, hfastOffered, hgetCsr, hgetCsr₂, hprocRuns, hprocHalted,
      if_true, Bool.and_self, Bool.not_false]
  · simp [exec_fret, execFret, hprocRuns]
  · simp only [exec_fret, execFret, hprocRuns, hprocHalted, hgetCsr, if_true, if_false, Bool.false_eq_true, Bool.or_self,
      Bool.not_true, Bool.not_false]
  · cases hfast : ((s.cpuRan c.val r).proc c.val).fastSrc with
    | none => simp [exec_fret, execFret, hprocRuns, hprocHalted, hgetCsr, hfast]
    | some k => simp [exec_fret, execFret, hprocRuns, hprocHalted, hgetCsr, hfast]
  · rw [exec_poisonedWordLoad, execPoisonedWordLoad]
    cases hword : ramWord c.val x.addr with
    | none =>
      rw [hword] at hmatch_1
      rw [State.loadFault_stopped (hmatch_1.resolve_left Bool.noConfusion)]
    | some w =>
      rw [hword] at hmatch_1
      dsimp only at hmatch_1 ⊢
      split
      · next hpoison =>
        rw [State.loadFault_stopped (hmatch_1.resolve_left fun hclean => Bool.noConfusion (hclean.symm.trans hpoison))]
      · rfl
  · rw [exec_poisonedWordLoad, execPoisonedWordLoad]
    cases hword : ramWord c.val x.addr with
    | none => exact congrArg _ (State.loadFault_runs hprocRuns hprocHalted x 1)
    | some w =>
      rw [hword] at hmatch_1
      dsimp only at hmatch_1 ⊢
      rw [if_pos hmatch_1]
      exact congrArg _ (State.loadFault_runs hprocRuns hprocHalted x 1)
  · simp [exec_storeErrorResponse, execStoreErrorResponse, hstatusOf]
  · simp [exec_storeErrorResponse, execStoreErrorResponse, hstatusOf, hgetCsr]
  · simp only [exec_storeErrorResponse, execStoreErrorResponse, hstatusOf, hgetCsr, if_false, Bool.false_eq_true]
  · simp [exec_msterrClear, execMsterrClear]
  · simp [exec_mtimeCompare, execMtimeCompare, State.mtip, hrd64]
  · simp [exec_mtimeCompare, execMtimeCompare, State.mtip, hnrd64]
  · rw [exec_coreRun _ _ hcanWrite]
    rcases hrun with hrun | hrun
    all_goals simp [State.coreCtlWrite, hrun]
  · rw [exec_coreRun _ _ hcanWrite]
    have hkept : (w ||| 0x80000000#32).getLsbD 30 = false := by simpa using h
    have hset : (w ||| 0x80000000#32).getLsbD 31 = true := by simp
    simp only [State.coreCtlWrite, hkept, hset, hrun, bne, beq_self_eq_true, if_false, Bool.false_eq_true, Bool.or_self,
      Bool.not_true, State.answered_true]
  · rw [exec_coreReset _ _ hcanWrite]
    simp [State.coreCtlWrite]

end Sys2Proof.Machine
end

section
/-! PROOFS. The interrupt controller. -/

namespace Sys2Proof.Machine

theorem exec_interruptAssert (i : Fin 976) (b : Bool) (s : State) :
    exec (.interruptAssert i b) s = execInterruptAssert i b s := rfl

theorem exec_wakeLatchEdge (i : Fin 128) (s : State) :
    exec (.wakeLatchEdge i) s = execWakeLatchEdge i s := rfl

/-- Settles O52, clause by clause. -/
theorem interruptsRun : Obligations.InterruptsRun := by
  unfold Obligations.InterruptsRun
  intro s
  dsimp only
  refine ⟨fun i b => ⟨fun hhasProducer => ?_, fun hhasProducer => ?_⟩, fun i => ⟨fun hwake => ?_,
    fun hwake hpowered => ?_, fun hwake hpowered => ?_⟩, fun q c w hcanWrite => ⟨fun hnormSrc => ?_,
    fun hnormSrc => ?_⟩, fun q k w hcanWrite => ?_, fun q w hcanWrite => ⟨fun hwget => ?_, fun hwget h => ?_,
    fun hwget h => ?_⟩, fun q v w hcanWrite => ⟨fun hvclaim => ?_, fun hvclaim => ?_⟩⟩
  · simp [exec_interruptAssert, execInterruptAssert, hhasProducer]
  · simp [exec_interruptAssert, execInterruptAssert, hhasProducer]
  · simp [exec_wakeLatchEdge, execWakeLatchEdge, hwake]
  · have hkept : (s.setLatch (832 + i.val) true).powered = s.powered := rfl
    simp only [exec_wakeLatchEdge, execWakeLatchEdge, hwake, hkept, hpowered, if_true]
  · have hkept : (s.setLatch (832 + i.val) true).powered = s.powered := rfl
    simp only [exec_wakeLatchEdge, execWakeLatchEdge, hwake, hkept, hpowered, if_true, if_false, Bool.false_eq_true]
  · rw [exec_complete _ _ hcanWrite]
    simp [State.complete, hnormSrc]
  · rw [exec_complete _ _ hcanWrite]
    simp [State.complete, hnormSrc]
  · rw [exec_pendClear _ _ hcanWrite]
    simp [State.pendWrite]
  · rw [exec_softwareInterrupt _ hcanWrite]
    simp [State.swiWrite, hwget]
  · rw [exec_softwareInterrupt _ hcanWrite]
    simp [State.swiWrite, hwget.not_gt, h]
  · rw [exec_softwareInterrupt _ hcanWrite]
    simp only [State.swiWrite, hwget.not_gt, h, if_false, Bool.false_eq_true, State.answered_true]
  · rw [exec_vcomplete _ _ hcanWrite]
    simp [State.vcompleteWrite, hvclaim]
  · rw [exec_vcomplete _ _ hcanWrite]
    simp [State.vcompleteWrite, hvclaim]

end Sys2Proof.Machine
end

section
/-! PROOFS. Service ports. -/

namespace Sys2Proof.Machine

theorem exec_peripheralWordReceived (k : Fin 20) (w : BitVec 16) (s : State) :
    exec (.peripheralWordReceived k w) s = execPeripheralWordReceived k w s := rfl

theorem exec_peripheralTransferDone (k : Fin 20) (ws : List (BitVec 16)) (s : State) :
    exec (.peripheralTransferDone k ws) s = execPeripheralTransferDone k ws s := rfl

theorem exec_i2cTimeout (j : Fin 8) (s : State) :
    exec (.i2cTimeout j) s = execI2cTimeout j s := rfl

theorem exec_txdWrite (q : Option Req) (k : Fin 20) (w : Word) (s : State) :
    exec (.txdWrite q k w) s = execTxdWrite q k w s := rfl

theorem exec_rxdPop (q : Option Req) (k : Fin 20) (s : State) :
    exec (.rxdPop q k) s = execRxdPop q k s := rfl

/-- R465: a word for a full FIFO, or one its port cannot send, is refused. -/
theorem State.txPush_refused {s : State} {k : Nat} {w : BitVec 16}
    (h : 64 ≤ (s.svcPort k).tx.length ∨ svcWordOk k w = false) : s.txPush k w = (s, false) := by
  rw [State.txPush]
  exact if_pos (h.imp_right fun hbad => by rw [hbad]; rfl)

theorem State.txPush_taken {s : State} {k : Nat} {w : BitVec 16} (hroom : (s.svcPort k).tx.length < 64)
    (hgood : svcWordOk k w = true) :
    s.txPush k w = (s.setSvcPort k { s.svcPort k with tx := (s.svcPort k).tx ++ [w] }, true) := by
  rw [State.txPush]
  refine if_neg ?_
  rintro (hfull | hbad)
  · exact hroom.not_ge hfull
  · rw [hgood] at hbad
    cases hbad

/-- R465: a management write of TXD, refused while the port is the fabric's. -/
theorem State.writeReg_txd {s : State} {q : Req} {k : Nat} (hk : k < 20) (w : Word) :
    s.writeReg q (0x6400008 + 0x1000 * k) w =
      if s.bit (SVC.OWN.MODE k) = true then (s, false) else s.txPush k (w.setWidth 16) := by
  have hport : (0x6400008 + 0x1000 * k - 0x6400000) / 0x1000 = k := by omega
  have hreg : (0x6400008 + 0x1000 * k) % 0x1000 = 0x8 := by omega
  simp (disch := omega) only [State.writeReg, State.writeSvc, if_pos, if_neg, hport, hreg]

theorem exec_txdWrite_managed {s : State} {q : Req} (k : Fin 20) (w : Word) (h : s.canWrite q (0x6400008 + 0x1000 * k.val)) :
    exec (.txdWrite (some q) k w) s = .next (State.answered
      (if (s.openGroup (0x6400008 + 0x1000 * k.val)).bit (SVC.OWN.MODE k.val) = true then
        (s.openGroup (0x6400008 + 0x1000 * k.val), false)
      else (s.openGroup (0x6400008 + 0x1000 * k.val)).txPush k.val (w.setWidth 16))) := by
  rw [exec_txdWrite, execTxdWrite, State.busPut_answered h, State.writeReg_txd k.isLt]

/-- Settles O53, clause by clause. -/
theorem servicePortsRun : Obligations.ServicePortsRun := by
  unfold Obligations.ServicePortsRun
  intro s k
  dsimp only
  refine ⟨fun w => ⟨fun hsvcEn => ?_, fun hsvcEn hrx => ?_, fun hsvcEn hrx => ?_⟩, fun ws => ⟨fun hsvcEn => ?_,
    fun hsvcEn htx => ?_⟩, fun j h => ⟨fun hsvcEn => ?_, fun hsvcEn htx => ?_⟩,
    fun w hislandUp hmode => ⟨fun htx => ?_, fun htx hsvcWordOk => ?_, fun hrx => ?_, fun v l hrx => ?_⟩,
    fun w hislandUp => ⟨?_, ?_⟩, fun q w hcanWrite => ⟨fun hmode => ?_, fun hmode htx hsvcWordOk => ?_⟩⟩
  · simp [exec_peripheralWordReceived, execPeripheralWordReceived, hsvcEn]
  · simp [exec_peripheralWordReceived, execPeripheralWordReceived, hsvcEn, hrx]
  · simp [exec_peripheralWordReceived, execPeripheralWordReceived, hsvcEn, hrx]
  · rw [exec_peripheralTransferDone, execPeripheralTransferDone]
    dsimp only
    generalize (if (s.svcEn k.val && s.svcFabric k.val) = true then
      ws.foldl (fun (t : State) w => (t.txPush k.val w).1) s else s) = t at hsvcEn ⊢
    simp [hsvcEn]
  · rw [exec_peripheralTransferDone, execPeripheralTransferDone]
    dsimp only
    generalize (if (s.svcEn k.val && s.svcFabric k.val) = true then
      ws.foldl (fun (t : State) w => (t.txPush k.val w).1) s else s) = t at hsvcEn htx ⊢
    simp only [hsvcEn, List.isEmpty_iff, htx, if_false, Bool.not_true, Bool.false_or]
  · rw [exec_i2cTimeout, execI2cTimeout, ← h]
    simp [hsvcEn]
  · rw [exec_i2cTimeout, execI2cTimeout, ← h]
    simp only [hsvcEn, List.isEmpty_iff, htx, if_false, Bool.not_true, Bool.false_or]
  · simp only [exec_txdWrite, execTxdWrite, hislandUp, hmode, State.txPush_refused htx, if_true, if_false,
      Bool.false_eq_true, and_self]
  · simp only [exec_txdWrite, execTxdWrite, hislandUp, hmode, State.txPush_taken htx hsvcWordOk, if_true, and_self]
  · simp [exec_rxdPop, execRxdPop, hislandUp, hmode, hrx]
  · simp [exec_rxdPop, execRxdPop, hislandUp, hmode, hrx]
  · rcases hislandUp with hislandUp | hislandUp
    all_goals simp [exec_txdWrite, execTxdWrite, hislandUp]
  · rcases hislandUp with hislandUp | hislandUp
    all_goals simp [exec_rxdPop, execRxdPop, hislandUp]
  · rw [exec_txdWrite_managed k w hcanWrite]
    obtain hfabric | hrefused := hmode
    · rw [if_pos hfabric, State.answered_false]
    · rw [State.txPush_refused hrefused, ite_self, State.answered_false]
  · rw [exec_txdWrite_managed k w hcanWrite]
    simp only [hmode, State.txPush_taken htx hsvcWordOk, if_false, Bool.false_eq_true, State.answered_true]

end Sys2Proof.Machine
end

section
/-! PROOFS. The Cellar and the logs. -/

namespace Sys2Proof.Machine

theorem exec_cellarCommandDone (b : Fin 4) (ok : Bool) (s : State) :
    exec (.cellarCommandDone b ok) s = execCellarCommandDone b ok s := rfl

theorem exec_cellarRead (s : State) :
    exec .cellarRead s = execCellarRead s := rfl

theorem exec_bankSuspended (b : Fin 4) (s : State) :
    exec (.bankSuspended b) s = execBankSuspended b s := rfl

theorem exec_bankResume (b : Fin 4) (s : State) :
    exec (.bankResume b) s = execBankResume b s := rfl

theorem exec_logFlush (aud : Bool) (n : Nat) (fails : Bool) (s : State) :
    exec (.logFlush aud n fails) s = execLogFlush aud n fails s := rfl

theorem exec_logDegradedReminder (s : State) :
    exec .logDegradedReminder s = execLogDegradedReminder s := rfl

/-- The end of a command: what it leaves, and the staging it belongs to goes on. -/
theorem exec_cellarCommandDone_of {s t : State} {b : Fin 4} {ok stage : Bool} {r : Nat}
    (h : s.commandDone b.val ok = (t, if stage = true then some r else none)) :
    exec (.cellarCommandDone b ok) s = .next (if stage = true then t.stageDone r else t) := by
  rw [exec_cellarCommandDone, execCellarCommandDone, h]
  cases stage
  · rfl
  · rfl

theorem exec_cellarCommandDone_none {s t : State} {b : Fin 4} {ok : Bool} (h : s.commandDone b.val ok = (t, none)) :
    exec (.cellarCommandDone b ok) s = .next t := by
  rw [exec_cellarCommandDone, execCellarCommandDone, h]

/-- R530: a read that the level protects, or that is none, is refused. -/
theorem State.celAnswer_refused {s : State} {m : Moving} (h : m.f.op ≠ 0 ∨ s.celMayRead m.f.ini = false) :
    s.celAnswer m = s.respond ID.cellar m .slverr 0 := if_pos h

theorem State.celAnswer_read {s : State} {m : Moving} (hop : m.f.op = 0) (hmay : s.celMayRead m.f.ini = true) :
    s.celAnswer m = s.respond ID.cellar m .okay (s.celLine (celOff m.f)) := by
  simp [State.celAnswer, hop, hmay]

theorem State.commandDone_idle {s : State} {b : Nat} {ok : Bool} (h : (s.bank b).ops = [] ∨ (s.bank b).held = true) :
    s.commandDone b ok = (s, none) := by
  cases hops : (s.bank b).ops with
  | nil => simp only [State.commandDone, hops]
  | cons o rest =>
    have hheld : (s.bank b).held = true := h.resolve_left (by rw [hops]; exact List.cons_ne_nil o rest)
    simp only [State.commandDone, hops, hheld, if_true]

theorem cellarRuns : Sys2Proof.Machine.CellarRuns := by
  unfold Sys2Proof.Machine.CellarRuns
  intro s
  dsimp only
  refine ⟨fun b o rest hops hheld => ⟨?_, fun aud sec hlogOf => ?_, fun hlogOf hgrown hspareLeft => ?_,
    fun hlogOf hgrown => ?_⟩, fun b ok hops => ?_, fun q hcanWrite => ⟨?_, ?_⟩, fun o => ⟨fun r hcelRefuse => ?_,
    fun hcelRefuse => ⟨fun hops => ?_, fun hops hheld => ?_, fun hops hheld => ?_⟩⟩,
    fun m t hserve => ⟨fun hop => ?_, fun hop hcelMayRead => ⟨fun hops => ?_, fun hops hheld => ?_⟩⟩,
    fun b => ⟨fun hasking => ?_, fun hasking hheld hops => ⟨fun o hprog => ?_, fun hprog => ?_⟩,
    fun hheld hprog hall => ?_, fun hheld => ?_⟩⟩
  · refine exec_cellarCommandDone_of ?_
    simp only [State.commandDone, hops, hheld, if_true, if_false, Bool.false_eq_true]
  · refine exec_cellarCommandDone_of ?_
    simp only [State.commandDone, hops, hheld, hlogOf, if_false, Bool.false_eq_true]
  · refine exec_cellarCommandDone_none ?_
    simp only [State.commandDone, hops, hheld, hlogOf, if_pos (And.intro hgrown hspareLeft), if_false, Bool.false_eq_true]
  · have hfull : ¬ ((s.bump (if o.erase then CEL.EFAIL_CNT else CEL.PFAIL_CNT)).cel.grown.length < 256 ∧
        0 < (s.bump (if o.erase then CEL.EFAIL_CNT else CEL.PFAIL_CNT)).spareLeft b.val) := by omega
    refine exec_cellarCommandDone_of ?_
    simp only [State.commandDone, hops, hheld, hlogOf, if_neg hfull, if_false, Bool.false_eq_true]
  · rw [exec_cellarCommandDone, execCellarCommandDone, State.commandDone_idle hops]
  · rw [exec_cellarProgram hcanWrite]
    simp [State.celCmdWrite]
    rfl
  · rw [exec_cellarErase hcanWrite]
    simp [State.celCmdWrite]
    rfl
  · simp [State.celStart, hcelRefuse]
  · simp only [State.celStart, hcelRefuse, List.isEmpty_iff, hops, if_true]
  · simp only [State.celStart, hcelRefuse, List.isEmpty_iff, hops, hheld, if_true, if_false]
  · simp only [State.celStart, hcelRefuse, List.isEmpty_iff, hops, hheld, if_false, Bool.false_eq_true]
  · have hbars : m.f.op ≠ 0 ∨ s.celMayRead m.f.ini = false := hop
    rw [exec_cellarRead, execCellarRead, hserve]
    dsimp only
    refine (if_pos (hop.imp_right Or.inl)).trans ?_
    exact congrArg _ (State.celAnswer_refused hop)
  · rw [exec_cellarRead, execCellarRead, hserve]
    dsimp only
    refine (if_pos (Or.inr (Or.inr (hops.imp_left List.isEmpty_iff.mpr)))).trans ?_
    exact congrArg _ (State.celAnswer_read hop hcelMayRead)
  · rw [exec_cellarRead, execCellarRead, hserve]
    dsimp only
    refine if_neg ?_
    rintro (hbad | hbars | hidle | hfree)
    · exact hbad hop
    · exact Bool.noConfusion (hcelMayRead.symm.trans hbars)
    · exact hops (List.isEmpty_iff.mp hidle)
    · exact Bool.noConfusion (hheld.symm.trans hfree)
  · simp [exec_bankSuspended, execBankSuspended, hasking]
  · simp [exec_bankSuspended, execBankSuspended, hasking, hheld, hops, hprog]
  · simp [exec_bankSuspended, execBankSuspended, hasking, hheld, hops, hprog]
  · simp only [exec_bankResume, execBankResume, hheld, hprog, hall, true_and, and_true]
    rfl
  · rw [exec_bankResume, execBankResume]
    refine if_neg ?_
    rintro ⟨hstands, hnone, hquiet⟩
    obtain hrun | hprog | hwaits := hheld
    · exact Bool.noConfusion (hrun.symm.trans hstands)
    · rw [← Option.not_isSome, hprog] at hnone
      cases hnone
    · exact Bool.noConfusion (hwaits.symm.trans hquiet)

theorem logsRun : Sys2Proof.Machine.LogsRun := by
  unfold Sys2Proof.Machine.LogsRun
  intro s
  dsimp only
  refine ⟨fun aud n fails => ⟨fun hite => ?_, fun hite hpowered => ?_⟩, fun hramOnly aud fails => ?_,
    fun e x hramOnly hevTodo hgetElemq hevTodo₂ hgetLastq => ?_, fun a x hramOnly hgetElemq haudTodo hgetLastq => ?_,
    fun hramOnly => ?_, fun hramOnly => ?_⟩
  · simp [exec_logFlush, execLogFlush, hite]
  · simp [exec_logFlush, execLogFlush, hite, hpowered]
  · simp [State.logFlushOne, hramOnly]
  · simp only [State.logFlushOne, State.logSecs, hramOnly, hgetElemq, hevTodo₂, hgetLastq, if_false, Bool.false_eq_true]
  · simp only [State.logFlushOne, State.logSecs, hramOnly, hgetElemq, haudTodo, hgetLastq, if_true, if_false,
      Bool.false_eq_true]
  · simp [exec_logDegradedReminder, execLogDegradedReminder, hramOnly]
  · simp [exec_logDegradedReminder, execLogDegradedReminder, hramOnly]

/-- Settles O54. -/
theorem cellarAndLogsRun : Obligations.CellarAndLogsRun := ⟨cellarRuns, logsRun⟩

end Sys2Proof.Machine
end

section
/-! PROOFS. CEL_OP requests. -/

namespace Sys2Proof.Machine

theorem exec_celOpRead (e : ImmEnv) (body : List Byte) (s : State) :
    exec (.celOpRead e body) s = execCelOpRead e body s := rfl

theorem exec_celOpProgram (e : ImmEnv) (body : List Byte) (s : State) :
    exec (.celOpProgram e body) s = execCelOpProgram e body s := rfl

theorem exec_celOpErase (e : ImmEnv) (body : List Byte) (s : State) :
    exec (.celOpErase e body) s = execCelOpErase e body s := rfl

theorem exec_setLevel (e : ImmEnv) (body : List Byte) (s : State) :
    exec (.setLevel e body) s = execSetLevel e body s := rfl

theorem exec_bbtRead (e : ImmEnv) (body : List Byte) (s : State) :
    exec (.bbtRead e body) s = execBbtRead e body s := rfl

theorem exec_celOpStatus (e : ImmEnv) (body : List Byte) (s : State) :
    exec (.celOpStatus e body) s = execCelOpStatus e body s := rfl

/-- R528: a CEL_OP of the device owner that is received is carried out and answered. -/
theorem State.celReq_received {s t : State} {e : ImmEnv} {op : Byte} {body : List Byte}
    (hreceive : s.receive false e 0x0043 (op :: body) = (t, true)) (hlength : 7 ≤ body.length)
    (hport : e.port.val = t.devOwner) (f : State → State × Reply) :
    s.celReq e op body f = (f t).1.finish e 0x0043 (f t).2 := by
  rw [State.celReq, State.request_received hreceive]
  simp [hlength.not_gt, hport]

theorem State.celReq_short {s t : State} {e : ImmEnv} {op : Byte} {body : List Byte}
    (hreceive : s.receive false e 0x0043 (op :: body) = (t, true)) (hlength : body.length < 7)
    (f : State → State × Reply) : s.celReq e op body f = t.refuse e 0x0043 0x07 0 0xFF := by
  rw [State.celReq, State.request_received hreceive]
  simp [hlength]

/-- R528: the device owner alone has the right. -/
theorem State.celReq_foreign {s t : State} {e : ImmEnv} {op : Byte} {body : List Byte}
    (hreceive : s.receive false e 0x0043 (op :: body) = (t, true)) (hlength : 7 ≤ body.length)
    (hport : e.port.val ≠ t.devOwner) (f : State → State × Reply) :
    s.celReq e op body f = t.refuse e 0x0043 0x02 0 0xFF := by
  rw [State.celReq, State.request_received hreceive]
  simp [hlength.not_gt, hport]

/-- Every CEL_OP request is a `State.celReq` of its operation. -/
theorem exec_celOp {s : State} {e : ImmEnv} {o : Byte} {body : List Byte} {c : Instr}
    (h : (o, c) ∈ [(1, .celOpRead e body), (2, .celOpProgram e body), (3, .celOpErase e body), (4, .setLevel e body),
      (5, .bbtRead e body), (6, .celOpStatus e body)]) :
    ∃ f, exec c s = .next (s.celReq e o body f) := by
  simp only [List.mem_cons, Prod.mk.injEq, List.not_mem_nil, or_false] at h
  obtain ⟨rfl, rfl⟩ | ⟨rfl, rfl⟩ | ⟨rfl, rfl⟩ | ⟨rfl, rfl⟩ | ⟨rfl, rfl⟩ | ⟨rfl, rfl⟩ := h
  all_goals exact ⟨_, rfl⟩

/-- A read, a program and an erase (codes 1 to 3) name a region; one that stands for none is refused. -/
theorem exec_celOp_noRegion {s t : State} {e : ImmEnv} {o : Byte} {body : List Byte} {c : Instr}
    (h : (o, c) ∈ [(1, .celOpRead e body), (2, .celOpProgram e body), (3, .celOpErase e body), (4, .setLevel e body),
      (5, .bbtRead e body), (6, .celOpStatus e body)]) (ho : o ∈ [(1 : Byte), 2, 3])
    (hreceive : s.receive false e 0x0043 (o :: body) = (t, true)) (hlength : 7 ≤ body.length)
    (hport : e.port.val = t.devOwner) (hregion : celRegion (field body 0 1) = none) :
    exec c s = .next (t.refuse e 0x0043 0x07 1 0xFF) := by
  simp only [List.mem_cons, Prod.mk.injEq, List.not_mem_nil, or_false] at h
  obtain ⟨rfl, rfl⟩ | ⟨rfl, rfl⟩ | ⟨rfl, rfl⟩ | ⟨rfl, rfl⟩ | ⟨rfl, rfl⟩ | ⟨rfl, rfl⟩ := h
  · rw [exec_celOpRead, execCelOpRead, State.celReq_received hreceive hlength hport]
    simp [hregion]
  · rw [exec_celOpProgram, execCelOpProgram, State.celReq_received hreceive hlength hport]
    simp [hregion]
  · rw [exec_celOpErase, execCelOpErase, State.celReq_received hreceive hlength hport]
    simp [hregion]
  · exact absurd ho (by decide)
  · exact absurd ho (by decide)
  · exact absurd ho (by decide)

/-- Settles O55, clause by clause. -/
theorem cellarRequestsRun : Obligations.CellarRequestsRun := by
  unfold Obligations.CellarRequestsRun
  intro s t e body
  dsimp only
  refine ⟨fun o c hreceive hmem => ⟨fun hlength => ?_, fun hlength hport => ?_,
    fun hlength hport hmem₂ hcelRegion => ?_⟩,
    fun base size hport hcelRegion => ⟨fun hreceive hlength => ⟨fun hfield => ?_, fun hfield hfield₂ hfield₃ => ?_,
    fun hfield hfield₂ hfield₃ hlength₂ => ?_, fun hfield hfield₂ hfield₃ hlength₂ hlevel => ?_,
    fun hfield hfield₂ hfield₃ hlength₂ hlevel => ?_⟩, fun hreceive hlength => ⟨fun hfield => ?_,
    fun hfield hfield₂ hfield₃ hfield₄ => ?_, fun hfield hfield₂ hfield₃ hfield₄ hfield₅ => ⟨fun hlength₂ => ?_,
    fun hlength₂ hfield₆ => ?_, fun hlength₂ hfield₆ hjob => ?_, fun hlength₂ hfield₆ hjob => ?_⟩⟩,
    fun hreceive hlength => ⟨fun hfield => ?_, fun hfield hfield₂ => ⟨fun hlength₂ => ?_, fun hlength₂ hfield₃ => ?_,
    fun hlength₂ hfield₃ hjob => ?_, fun hlength₂ hfield₃ hjob => ?_⟩⟩⟩,
    fun hport hreceive hlength => ⟨fun hfield => ?_, fun hfield hlength₂ => ?_,
    fun hfield hlength₂ => ⟨fun hlevel => ?_, fun hlevel => ?_, fun hfield₂ => ⟨fun hop => ?_, fun hop => ?_⟩⟩⟩,
    fun hport hreceive hlength => ⟨fun hfield => ?_, fun hfield hfield₂ hlength₂ => ?_,
    fun hfield hfield₂ hlength₂ => ?_⟩, fun hport hreceive hlength => ⟨fun hlength₂ => ?_, fun hlength₂ => ?_⟩⟩
  · obtain ⟨f, hexec⟩ := exec_celOp (s := s) hmem
    rw [hexec, State.celReq_short hreceive hlength]
  · obtain ⟨f, hexec⟩ := exec_celOp (s := s) hmem
    rw [hexec, State.celReq_foreign hreceive hlength hport]
  · exact exec_celOp_noRegion hmem hmem₂ hreceive hlength hport hcelRegion
  · rw [exec_celOpRead, execCelOpRead, State.celReq_received hreceive hlength hport]
    simp [hcelRegion, hfield]
  · rw [exec_celOpRead, execCelOpRead, State.celReq_received hreceive hlength hport]
    have hform : ¬ (field body 1 2 = 0 ∨ 1024 < field body 1 2) := by omega
    simp only [hform, hcelRegion, hfield₃, if_true, if_false, ne_eq]
    rfl
  · rw [exec_celOpRead, execCelOpRead, State.celReq_received hreceive hlength hport]
    have hform : ¬ (field body 1 2 = 0 ∨ 1024 < field body 1 2) := by omega
    simp only [hform, hfield₃.not_gt, hcelRegion, hlength₂, if_true, if_false, not_false_eq_true, ne_eq]
    rfl
  · rw [exec_celOpRead, execCelOpRead, State.celReq_received hreceive hlength hport]
    have hform : ¬ (field body 1 2 = 0 ∨ 1024 < field body 1 2) := by omega
    simp only [hform, hfield₃.not_gt, hcelRegion, hlength₂, hlevel, if_true, if_false, not_true, ne_eq]
    rfl
  · rw [exec_celOpRead, execCelOpRead, State.celReq_received hreceive hlength hport]
    have hform : ¬ (field body 1 2 = 0 ∨ 1024 < field body 1 2) := by omega
    simp only [hform, hfield₃.not_gt, hlevel.not_ge, hcelRegion, hlength₂, if_false, not_true, ne_eq]
    rfl
  · rw [exec_celOpProgram, execCelOpProgram, State.celReq_received hreceive hlength hport]
    simp [hcelRegion, hfield]
  · rw [exec_celOpProgram, execCelOpProgram, State.celReq_received hreceive hlength hport]
    have hform : ¬ (field body 1 2 < 8 ∨ 1024 < field body 1 2 ∨ field body 1 2 % 8 ≠ 0) := by omega
    simp only [hform, hcelRegion, hfield₄, if_true, if_false, ne_eq]
    rfl
  · rw [exec_celOpProgram, execCelOpProgram, State.celReq_received hreceive hlength hport]
    have hform : ¬ (field body 1 2 < 8 ∨ 1024 < field body 1 2 ∨ field body 1 2 % 8 ≠ 0) := by omega
    have hrange : ¬ (field body 3 4 % 8 ≠ 0 ∨ size < field body 3 4 + field body 1 2) := by omega
    simp only [hform, hrange, hcelRegion, hlength₂, if_true, if_false, not_false_eq_true, ne_eq]
    rfl
  · rw [exec_celOpProgram, execCelOpProgram, State.celReq_received hreceive hlength hport]
    have hform : ¬ (field body 1 2 < 8 ∨ 1024 < field body 1 2 ∨ field body 1 2 % 8 ≠ 0) := by omega
    have hrange : ¬ (field body 3 4 % 8 ≠ 0 ∨ size < field body 3 4 + field body 1 2) := by omega
    simp only [hform, hrange, hcelRegion, if_false, ne_eq]
    simp only [hlength₂, if_pos hfield₆, if_false, not_true]
    rfl
  · rw [exec_celOpProgram, execCelOpProgram, State.celReq_received hreceive hlength hport]
    have hform : ¬ (field body 1 2 < 8 ∨ 1024 < field body 1 2 ∨ field body 1 2 % 8 ≠ 0) := by omega
    have hrange : ¬ (field body 3 4 % 8 ≠ 0 ∨ size < field body 3 4 + field body 1 2) := by omega
    simp only [hform, hrange, hcelRegion, hlength₂, hfield₆, hjob, if_true, if_false, not_true, ne_eq]
    rfl
  · rw [exec_celOpProgram, execCelOpProgram, State.celReq_received hreceive hlength hport]
    have hform : ¬ (field body 1 2 < 8 ∨ 1024 < field body 1 2 ∨ field body 1 2 % 8 ≠ 0) := by omega
    have hrange : ¬ (field body 3 4 % 8 ≠ 0 ∨ size < field body 3 4 + field body 1 2) := by omega
    simp only [hform, hrange, hcelRegion, hlength₂, hfield₆, hjob, if_false, Bool.false_eq_true, not_true, ne_eq,
      Option.isSome_none]
    rfl
  · rw [exec_celOpErase, execCelOpErase, State.celReq_received hreceive hlength hport]
    simp [hcelRegion, hfield]
  · rw [exec_celOpErase, execCelOpErase, State.celReq_received hreceive hlength hport]
    have hform : ¬ (field body 3 4 % 65536 ≠ 0 ∨ size ≤ field body 3 4) := by omega
    simp only [hform, hcelRegion, hlength₂, if_true, if_false, not_false_eq_true, ne_eq]
    rfl
  · rw [exec_celOpErase, execCelOpErase, State.celReq_received hreceive hlength hport]
    have hform : ¬ (field body 3 4 % 65536 ≠ 0 ∨ size ≤ field body 3 4) := by omega
    simp only [hform, hcelRegion, if_false, ne_eq]
    simp only [hlength₂, if_pos hfield₃, if_false, not_true]
    rfl
  · rw [exec_celOpErase, execCelOpErase, State.celReq_received hreceive hlength hport]
    have hform : ¬ (field body 3 4 % 65536 ≠ 0 ∨ size ≤ field body 3 4) := by omega
    simp only [hform, hcelRegion, hlength₂, hfield₃, hjob, if_true, if_false, not_true, ne_eq]
    rfl
  · rw [exec_celOpErase, execCelOpErase, State.celReq_received hreceive hlength hport]
    have hform : ¬ (field body 3 4 % 65536 ≠ 0 ∨ size ≤ field body 3 4) := by omega
    simp only [hform, hcelRegion, hlength₂, hfield₃, hjob, if_false, Bool.false_eq_true, not_true, ne_eq, Option.isSome_none]
    rfl
  · rw [exec_setLevel, execSetLevel, State.celReq_received hreceive hlength hport]
    simp [hfield]
  · rw [exec_setLevel, execSetLevel, State.celReq_received hreceive hlength hport]
    simp only [hfield.not_gt, hlength₂, if_true, if_false, not_false_eq_true, ne_eq]
    rfl
  · rw [exec_setLevel, execSetLevel, State.celReq_received hreceive hlength hport]
    simp [hfield.not_gt, hlength₂, hlevel]
  · rw [exec_setLevel, execSetLevel, State.celReq_received hreceive hlength hport]
    simp only [hfield.not_gt, hlevel.ne, hlength₂, hlevel.le, if_true, if_false, not_true, ne_eq]
    rfl
  · rw [exec_setLevel, execSetLevel, State.celReq_received hreceive hlength hport]
    simp only [hfield.not_gt, hfield₂.not_ge, hlength₂, hop, if_true, if_false, not_true, ne_eq]
    rfl
  · rw [exec_setLevel, execSetLevel, State.celReq_received hreceive hlength hport]
    simp only [Bool.or_eq_false_iff] at hop
    obtain ⟨⟨⟨hop, hmod⟩, hjob⟩, hlate⟩ := hop
    simp only [hfield.not_gt, hfield₂.not_ge, hlength₂, hop, hmod, hjob, hlate, if_false, Bool.false_eq_true, not_true,
      Bool.or_self, ne_eq]
    rfl
  · rw [exec_bbtRead, execBbtRead, State.celReq_received hreceive hlength hport]
    simp [hfield]
  · rw [exec_bbtRead, execBbtRead, State.celReq_received hreceive hlength hport]
    have hform : ¬ (field body 1 2 = 0 ∨ 128 < field body 1 2) := by omega
    simp only [hform, hlength₂, if_true, if_false, not_false_eq_true, ne_eq]
    rfl
  · rw [exec_bbtRead, execBbtRead, State.celReq_received hreceive hlength hport]
    have hform : ¬ (field body 1 2 = 0 ∨ 128 < field body 1 2) := by omega
    simp only [hform, hlength₂, if_false, not_true, ne_eq]
    rfl
  · rw [exec_celOpStatus, execCelOpStatus, State.celReq_received hreceive hlength hport]
    simp [hlength₂]
  · rw [exec_celOpStatus, execCelOpStatus, State.celReq_received hreceive hlength hport]
    simp [hlength₂]

end Sys2Proof.Machine
end

section
/-! PROOFS. Self-test and repair. -/

namespace Sys2Proof.Machine

theorem exec_bistPhaseDone (k : Fin 4) (s : State) :
    exec (.bistPhaseDone k) s = execBistPhaseDone k s := rfl

theorem exec_bistDone (k : Fin 4) (fails addr bit us : Nat) (rows cols : List (Nat × Nat)) (bad : List Nat) (s : State) :
    exec (.bistDone k fails addr bit us rows cols bad) s = execBistDone k fails addr bit us rows cols bad s := rfl

theorem exec_deferredTestStart (k : Fin 4) (s : State) :
    exec (.deferredTestStart k) s = execDeferredTestStart k s := rfl

theorem exec_bistFuseDone (kind : Fin 3) (mem : Fin 16777216) (s : State) :
    exec (.bistFuseDone kind mem) s = execBistFuseDone kind mem s := rfl

theorem exec_sectorPowerGood (sec : Fin 224) (s : State) :
    exec (.sectorPowerGood sec) s = execSectorPowerGood sec s := rfl

/-- The word that BIST.CMD is given with GO set, and what of it the register keeps (R551). -/
theorem State.bistCmdWrite_go (s : State) (k : Nat) (w : Word) :
    s.bistCmdWrite k (w ||| 0x80000000#32) =
      if !s.running || (s.bistCtl k).isSome || s.bistBarred (wget w 30 29) (wget w 23 0) then (s, false)
      else ((s.setReg (BIST.CMD.MEM k).off (w &&& 0x60FFFFFF#32)).bistAccept k (wget w 30 29) (wget w 23 0), true) := by
  have hgo : (w ||| 0x80000000#32).getLsbD 31 = true := getLsbD_or_self _ _ _ (by decide)
  have hkind : wget (w ||| 0x80000000#32) 30 29 = wget w 30 29 := wget_or_ne _ _ _ _ (by decide)
  have hmem : wget (w ||| 0x80000000#32) 23 0 = wget w 23 0 := wget_or_ne _ _ _ _ (by decide)
  have hkept : (w ||| 0x80000000#32) &&& (0x60FFFFFF : Word) = w &&& 0x60FFFFFF#32 := by
    rw [BitVec.and_comm, BitVec.and_or_distrib_left, BitVec.and_comm]
    simp
  rw [State.bistCmdWrite, hgo, hkind, hmem, hkept]
  rfl

/-- Settles O56, clause by clause. -/
theorem selfTestRuns : Obligations.SelfTestRuns := by
  unfold Obligations.SelfTestRuns
  intro s
  dsimp only
  refine ⟨fun k r hbistCtl => ⟨fun hdefer => ?_, fun hdefer hphase => ?_, fun hdefer hphase => ?_,
    fun hdefer hphase => ?_, fun hdefer hphase => ?_, fun fails addr bit us rows cols bad => ⟨fun hphase => ?_,
    fun hphase h => ?_, fun hphase h => ?_⟩, fun hdefer => ?_, fun hdefer hbistWaits hrunning => ⟨fun hgetD => ?_,
    fun hgetD hdefined hgated hin_reset => ?_, fun hgetD hdefined hgated hin_reset => ?_⟩⟩,
    fun kind mem => ⟨fun hfusing => ?_, fun hfusing => ?_⟩, fun sec => ⟨fun hmbit => ?_, fun hmbit => ?_⟩,
    fun q k w hcanWrite => ⟨fun hrunning => ?_, fun hrunning hbistCtl hbistBarred => ?_⟩⟩
  · obtain hdefer | hphase | hphase := hdefer
    · simp [exec_bistPhaseDone, execBistPhaseDone, hbistCtl, hdefer]
    · simp [exec_bistPhaseDone, execBistPhaseDone, hbistCtl, hphase]
    · obtain ⟨n, hn⟩ := Nat.exists_eq_add_of_le' hphase
      simp [exec_bistPhaseDone, execBistPhaseDone, hbistCtl, hn]
  · simp [exec_bistPhaseDone, execBistPhaseDone, hbistCtl, hdefer, hphase]
  · simp [exec_bistPhaseDone, execBistPhaseDone, hbistCtl, hdefer, hphase]
  · simp [exec_bistPhaseDone, execBistPhaseDone, hbistCtl, hdefer, hphase]
  · simp [exec_bistPhaseDone, execBistPhaseDone, hbistCtl, hdefer, hphase]
  · simp [exec_bistDone, execBistDone, hbistCtl, hphase]
  · simp [exec_bistDone, execBistDone, hbistCtl, hphase, h]
  · simp [exec_bistDone, execBistDone, hbistCtl, hphase, h]
  · rcases hdefer with hdefer | hdefer | hdefer
    all_goals simp [exec_deferredTestStart, execDeferredTestStart, hbistCtl, hdefer]
  · simp [exec_deferredTestStart, execDeferredTestStart, hbistCtl, hdefer, hbistWaits, hrunning, hgetD]
  · simp [exec_deferredTestStart, execDeferredTestStart, hbistCtl, hdefer, hbistWaits, hrunning, hgetD, hdefined, hgated,
      hin_reset]
  · simp [exec_deferredTestStart, execDeferredTestStart, hbistCtl, hdefer, hbistWaits, hrunning, hgetD, hdefined, hgated,
      hin_reset]
  · simp only [exec_bistFuseDone, execBistFuseDone, hfusing, if_true, Bool.not_false]
  · simp only [exec_bistFuseDone, execBistFuseDone, hfusing, if_false, Bool.false_eq_true, Bool.not_true]
    rfl
  · simp [exec_sectorPowerGood, execSectorPowerGood, hmbit]
  · simp [exec_sectorPowerGood, execSectorPowerGood, hmbit]
  · rw [exec_bistCmdGo _ _ hcanWrite]
    have hbar : (!s.running || (s.bistCtl k.val).isSome || s.bistBarred (wget w 30 29) (wget w 23 0)) = true := by
      obtain h | h | h := hrunning
      · simp [h]
      · simp [h]
      · simp [h]
    simp only [State.bistCmdWrite_go, hbar, if_true, State.answered_false]
  · rw [exec_bistCmdGo _ _ hcanWrite]
    have hoff : (BIST.CMD.MEM k.val).off = 0x9000000 + 0x100 * k.val := rfl
    simp only [State.bistCmdWrite_go, hrunning, hbistCtl, hbistBarred, hoff, if_false, Bool.false_eq_true, Bool.or_self,
      Bool.not_true, Option.isSome_none, State.answered_true]

end Sys2Proof.Machine
end

section
/-! PROOFS. BIST_RUN requests. -/

namespace Sys2Proof.Machine

theorem exec_bistRunTest (e : ImmEnv) (body : List Byte) (s : State) :
    exec (.bistRunTest e body) s = execBistRunTest e body s := rfl

theorem exec_bistRunFuse (e : ImmEnv) (body : List Byte) (s : State) :
    exec (.bistRunFuse e body) s = execBistRunFuse e body s := rfl

theorem exec_bistRunStatus (e : ImmEnv) (body : List Byte) (s : State) :
    exec (.bistRunStatus e body) s = execBistRunStatus e body s := rfl

theorem exec_bistRunDefectRead (e : ImmEnv) (body : List Byte) (s : State) :
    exec (.bistRunDefectRead e body) s = execBistRunDefectRead e body s := rfl

/-- R559: a BIST_RUN that is received and has its length is carried out and answered. -/
theorem State.bistReq_received {s t : State} {e : ImmEnv} {op : Byte} {body : List Byte}
    (hreceive : s.receive false e 0x0044 (op :: body) = (t, true)) (hlength : body.length = 7)
    (f : State → State × Reply) : s.bistReq e op body f = (f t).1.finish e 0x0044 (f t).2 := by
  rw [State.bistReq, State.request_received hreceive]
  simp [hlength]

theorem State.bistReq_malformed {s t : State} {e : ImmEnv} {op : Byte} {body : List Byte}
    (hreceive : s.receive false e 0x0044 (op :: body) = (t, true)) (hlength : body.length ≠ 7)
    (f : State → State × Reply) : s.bistReq e op body f = t.refuse e 0x0044 0x07 0 0xFF := by
  rw [State.bistReq, State.request_received hreceive]
  simp [hlength]

/-- Every BIST_RUN request is a `State.bistReq` of its operation. -/
theorem exec_bistRun {s : State} {e : ImmEnv} {op : Byte} {body : List Byte} {c : Instr}
    (h : (op, c) ∈ [(1, .bistRunTest e body), (2, .bistRunFuse e body), (3, .bistRunStatus e body),
      (4, .bistRunDefectRead e body)]) :
    ∃ f, exec c s = .next (s.bistReq e op body f) := by
  simp only [List.mem_cons, Prod.mk.injEq, List.not_mem_nil, or_false] at h
  obtain ⟨rfl, rfl⟩ | ⟨rfl, rfl⟩ | ⟨rfl, rfl⟩ | ⟨rfl, rfl⟩ := h
  all_goals exact ⟨_, rfl⟩

/-- R557: fuses are blown for a memory that exists, in a life cycle that lets them, that no test holds, that waits for
none already and whose repairs find fuses enough. -/
theorem State.fuseStart_eq {s : State} {kind mem : Nat} (hcode : s.lcs.code ≠ 3)
    (hvat : (s.bistVat kind mem).isSome = true) :
    s.fuseStart kind mem =
      if !s.bistBusy kind mem && !s.bist.fusing.contains (kind, mem) && decide ((s.softOf kind mem).length ≤ s.fuseFree)
      then ({ s with bist := { s.bist with fusing := s.bist.fusing ++ [(kind, mem)] } }, true)
      else (s, false) := by
  have hnone : (s.bistVat kind mem).isNone = false := by rw [← Option.not_isSome, hvat]; rfl
  simp only [State.fuseStart, hcode, hnone, Bool.false_eq_true, false_or]
  by_cases hbar : s.bistBusy kind mem = true ∨ s.bist.fusing.contains (kind, mem) = true
      ∨ s.fuseFree < (s.softOf kind mem).length
  · rw [if_pos hbar, if_neg]
    simp only [Bool.and_eq_true, Bool.not_eq_true', decide_eq_true_eq]
    rintro ⟨⟨hidle, hnew⟩, hfree⟩
    obtain hbusy | hold | hfew := hbar
    · exact Bool.noConfusion (hbusy.symm.trans hidle)
    · exact Bool.noConfusion (hold.symm.trans hnew)
    · exact hfew.not_ge hfree
  · rw [if_neg hbar, if_pos]
    simp only [not_or, Bool.not_eq_true, not_lt] at hbar
    obtain ⟨hidle, hnew, hfree⟩ := hbar
    simp only [hidle, hnew, hfree, Bool.not_false, decide_true, Bool.and_self]

/-- Settles O57, clause by clause. -/
theorem selfTestRequestsRun : Obligations.SelfTestRequestsRun := by
  unfold Obligations.SelfTestRequestsRun
  intro s t e body
  dsimp only
  refine ⟨fun op c hreceive hlength hmem => ?_, fun hreceive hlength => ⟨fun hbistVat => ?_,
    fun v hbistVat => ⟨fun hrunning => ?_, fun hrunning hownsVat => ?_, fun hrunning hownsVat hbistBarred => ?_,
    fun hrunning hownsVat hbistBarred => ⟨fun hbistFree => ?_, fun k hbistFree => ?_⟩⟩⟩,
    fun hreceive hlength => ⟨fun hbistVat => ?_, fun hbistVat => ⟨fun hport => ?_, fun hport hcode => ?_,
    fun hport hcode => ⟨fun hbistBusy => ?_, fun hbistBusy => ?_⟩⟩⟩, fun hreceive hlength => ?_,
    fun hreceive hlength => ⟨fun hfield => ?_, fun hfield hfield₂ hport => ?_, fun hfield hfield₂ hport => ?_⟩⟩
  · obtain ⟨f, hexec⟩ := exec_bistRun (s := s) hmem
    rw [hexec, State.bistReq_malformed hreceive hlength]
  · rw [exec_bistRunTest, execBistRunTest, State.bistReq_received hreceive hlength]
    simp [hbistVat]
  · rw [exec_bistRunTest, execBistRunTest, State.bistReq_received hreceive hlength]
    simp [hbistVat, hrunning]
  · rw [exec_bistRunTest, execBistRunTest, State.bistReq_received hreceive hlength]
    simp [hbistVat, hrunning, hownsVat]
  · rw [exec_bistRunTest, execBistRunTest, State.bistReq_received hreceive hlength]
    simp [hbistVat, hrunning, hownsVat, hbistBarred]
  · rw [exec_bistRunTest, execBistRunTest, State.bistReq_received hreceive hlength]
    simp [hbistVat, hrunning, hownsVat, hbistBarred, hbistFree]
  · rw [exec_bistRunTest, execBistRunTest, State.bistReq_received hreceive hlength]
    simp [hbistVat, hrunning, hownsVat, hbistBarred, hbistFree]
  · rw [exec_bistRunFuse, execBistRunFuse, State.bistReq_received hreceive hlength]
    simp [hbistVat]
  · rw [exec_bistRunFuse, execBistRunFuse, State.bistReq_received hreceive hlength]
    simp [← Option.not_isSome, hport, hbistVat]
  · rw [exec_bistRunFuse, execBistRunFuse, State.bistReq_received hreceive hlength]
    simp [← Option.not_isSome, hport, hcode, hbistVat]
  · rw [exec_bistRunFuse, execBistRunFuse, State.bistReq_received hreceive hlength]
    have hnone : (t.bistVat (field body 0 1) (field body 3 4)).isNone = false := by
      rw [← Option.not_isSome, hbistVat]; rfl
    simp only [State.fuseStart_eq hcode hbistVat, hnone, hport, hcode, hbistBusy, if_false, Bool.false_eq_true, not_true,
      ne_eq]
    rfl
  · rw [exec_bistRunFuse, execBistRunFuse, State.bistReq_received hreceive hlength]
    have hnone : (t.bistVat (field body 0 1) (field body 3 4)).isNone = false := by
      rw [← Option.not_isSome, hbistVat]; rfl
    simp only [State.fuseStart_eq hcode hbistVat, hnone, hport, hcode, hbistBusy, if_true, if_false, Bool.false_eq_true,
      not_true, ne_eq]
    rfl
  · rw [exec_bistRunStatus, execBistRunStatus, State.bistReq_received hreceive hlength]
    simp
  · rw [exec_bistRunDefectRead, execBistRunDefectRead, State.bistReq_received hreceive hlength]
    simp [hfield]
  · rw [exec_bistRunDefectRead, execBistRunDefectRead, State.bistReq_received hreceive hlength]
    have hform : ¬ (field body 1 2 = 0 ∨ 128 < field body 1 2) := by omega
    simp only [hform, hport, if_true, if_false, not_false_eq_true, ne_eq]
    rfl
  · rw [exec_bistRunDefectRead, execBistRunDefectRead, State.bistReq_received hreceive hlength]
    have hform : ¬ (field body 1 2 = 0 ∨ 128 < field body 1 2) := by omega
    simp only [hform, hport, if_false, not_true, ne_eq]
    rfl

end Sys2Proof.Machine
end

section
/-! PROOFS. HIO banks and boundary scan. -/

namespace Sys2Proof.Machine

theorem exec_hioSupplyOutOfWindow (b : Fin 12) (mv : Fin 4096) (s : State) :
    exec (.hioSupplyOutOfWindow b mv) s = execHioSupplyOutOfWindow b mv s := rfl

theorem exec_hioOutputsReturn (b : Fin 12) (mv : Fin 4096) (s : State) :
    exec (.hioOutputsReturn b mv) s = execHioOutputsReturn b mv s := rfl

theorem exec_strapChange (b : Fin 12) (p : Fin 3) (s : State) :
    exec (.strapChange b p) s = execStrapChange b p s := rfl

theorem exec_tapReset (s : State) :
    exec .tapReset s = execTapReset s := rfl

theorem exec_idcode (s : State) :
    exec .idcode s = execIdcode s := rfl

theorem exec_bypass (s : State) :
    exec .bypass s = execBypass s := rfl

theorem exec_extest (load : List (Fin 1974 × Bool)) (s : State) :
    exec (.extest load) s = execExtest load s := rfl

theorem exec_samplePreload (load : List (Fin 1974 × Bool)) (s : State) :
    exec (.samplePreload load) s = execSamplePreload load s := rfl

/-- R569: a bank that is off already, or one in a device that does not run, goes off and says nothing. -/
theorem State.hioOff_silent {s : State} {b : Nat} {written : Bool} (h : (s.hio b).off = true ∨ s.running = false) :
    s.hioOff b written = s.setHio b { s.hio b with off := true, written := written } := by
  have hquiet : ((s.hio b).off || !s.running) = true := by
    obtain h | h := h
    · rw [h, Bool.true_or]
    · rw [h, Bool.not_false, Bool.or_true]
  exact if_pos hquiet

theorem State.hioOff_raises {s : State} {b : Nat} {written : Bool} (h : (s.hio b).off = false)
    (hrunning : s.running = true) :
    s.hioOff b written =
      (s.setHio b { s.hio b with off := true, written := written }).raiseAt
        (s.devOwner :: (s.hioVats b).map s.ownerOf) EV.hioRange 0xFF b [b, (s.hio b).mv / 20] := by
  have hquiet : ¬ ((s.hio b).off || !s.running) = true := by rw [h, hrunning]; exact Bool.false_ne_true
  exact if_neg hquiet

/-- Whether the device runs is told by MODE_STAT, not by the range of a bank. -/
theorem State.running_wr_range (s : State) (b : Fin 12) (v : Nat) :
    (s.wr (HIO.BANK_CTL.RANGE b.val) v).running = s.running := by
  have hoff : PWR.MODE_STAT.MODE.off ≠ (HIO.BANK_CTL.RANGE b.val).off := by
    simp only [PWR.MODE_STAT.MODE, HIO.BANK_CTL.RANGE]
    omega
  have hmode : (s.wr (HIO.BANK_CTL.RANGE b.val) v).mode = s.mode := State.rd_wr_ne s v hoff
  rw [State.running, hmode, State.running]

theorem hioBanksRun : Sys2Proof.Machine.HioBanksRun := by
  unfold Sys2Proof.Machine.HioBanksRun
  intro s b
  dsimp only
  refine ⟨fun mv => ⟨fun hhioWin => ?_, fun hhioWin hoff => ?_, fun hhioWin hoff => ⟨fun hoff₂ => ?_,
    fun hoff₂ hrunning => ?_⟩, fun hhioWin => ?_, fun hhioWin hwritten => ?_, fun hhioWin hwritten => ?_⟩,
    fun p => ?_, fun q w hcanWrite => ⟨fun hoff => ?_, fun hoff hhioWin => ?_⟩⟩
  · simp [exec_hioSupplyOutOfWindow, execHioSupplyOutOfWindow, hhioWin]
  · simp [exec_hioSupplyOutOfWindow, execHioSupplyOutOfWindow, hhioWin, hoff]
  · simp only [exec_hioSupplyOutOfWindow, execHioSupplyOutOfWindow, hhioWin, hoff, if_false, Bool.false_eq_true]
    exact congrArg _ (State.hioOff_silent hoff₂)
  · simp only [exec_hioSupplyOutOfWindow, execHioSupplyOutOfWindow, hhioWin, hoff, if_false, Bool.false_eq_true]
    exact congrArg _ (State.hioOff_raises hoff₂ hrunning)
  · simp [exec_hioOutputsReturn, execHioOutputsReturn, hhioWin]
  · have hkept : ((s.hio b.val).sees mv.val).written = (s.hio b.val).written := rfl
    simp only [exec_hioOutputsReturn, execHioOutputsReturn, hhioWin, hkept, hwritten, if_false, Bool.false_eq_true,
      Bool.not_true]
  · have hkept : ((s.hio b.val).sees mv.val).written = (s.hio b.val).written := rfl
    simp only [exec_hioOutputsReturn, execHioOutputsReturn, hhioWin, hkept, hwritten, if_true, if_false,
      Bool.false_eq_true, Bool.not_true]
  · simp [exec_strapChange, execStrapChange]
  · rw [exec_rangeWrite _ _ hcanWrite, State.answered_true]
    have hstays : (((s.wr (HIO.BANK_CTL.RANGE b.val) (wget w 1 0)).hio b.val).off ||
        hioWin (wget w 1 0) ((s.wr (HIO.BANK_CTL.RANGE b.val) (wget w 1 0)).hio b.val).mv) = true := by
      rw [Bool.or_eq_true]; exact hoff
    exact congrArg (fun u => Host.Outcome.next (State.tell u .okay [])) (if_pos hstays)
  · rw [exec_rangeWrite _ _ hcanWrite, State.answered_true]
    have hleaves : ¬ (((s.wr (HIO.BANK_CTL.RANGE b.val) (wget w 1 0)).hio b.val).off ||
        hioWin (wget w 1 0) ((s.wr (HIO.BANK_CTL.RANGE b.val) (wget w 1 0)).hio b.val).mv) = true := by
      rw [hoff, hhioWin]; exact Bool.false_ne_true
    refine congrArg (fun u => Host.Outcome.next (State.tell u .okay [])) ((if_neg hleaves).trans ?_)
    by_cases hrunning : s.running = true
    · rw [if_pos hrunning]
      exact State.hioOff_raises hoff ((State.running_wr_range s b _).trans hrunning)
    · rw [if_neg hrunning]
      exact State.hioOff_silent (Or.inr ((State.running_wr_range s b _).trans (Bool.eq_false_iff.mpr hrunning)))

theorem State.setTap_on {s : State} (h : s.tapOn = true) (t : TapSt) :
    s.setTap t = { s with pins := { s.pins with tap := t } } := if_pos h

/-- Without VCC_AUX the TAP takes nothing. -/
theorem State.setTap_off {s : State} (h : s.tapOn = false) (t : TapSt) : s.setTap t = s :=
  if_neg (by rw [h]; exact Bool.false_ne_true)

theorem boundaryScanRuns : Sys2Proof.Machine.BoundaryScanRuns := by
  unfold Sys2Proof.Machine.BoundaryScanRuns
  intro s
  dsimp only
  refine ⟨fun htapOn => ⟨?_, ?_, ?_, fun l => ⟨?_, ?_⟩⟩, fun htapOn => ⟨?_, ?_, ?_, fun l => ⟨?_, ?_⟩⟩⟩
  · rw [exec_tapReset, execTapReset, State.setTap_on htapOn]
  · rw [exec_idcode, execIdcode, State.setTap_on htapOn]
  · rw [exec_bypass, execBypass, State.setTap_on htapOn]
  · rw [exec_extest, execExtest, State.setTap_on htapOn]
  · exact congrArg _ (State.setTap_on (s := s.fresh.2) htapOn _)
  · rw [exec_tapReset, execTapReset, State.setTap_off htapOn]
  · rw [exec_idcode, execIdcode, State.setTap_off htapOn]
  · rw [exec_bypass, execBypass, State.setTap_off htapOn]
  · rw [exec_extest, execExtest, State.setTap_off htapOn]
  · exact congrArg _ (State.setTap_off (s := s.fresh.2) htapOn _)

/-- Settles O58: the HIO banks, and boundary scan with and without VCC_AUX. -/
theorem pinsRun : Obligations.PinsRun := ⟨hioBanksRun, boundaryScanRuns⟩

end Sys2Proof.Machine
end
